-- ==== Sys2Proof/Word.lean ====
section
/-! DEFINITION. The word types of the MXD-1 model and their plainest arithmetic. -/

namespace Sys2Proof

/-- A 64-bit register or descriptor word (R14, R388). -/
abbrev Word := BitVec 64
/-- One byte (R13). -/
abbrev Byte := BitVec 8
/-- A device-local address, 48 bits (R12). -/
abbrev Addr := BitVec 48

/-- Bits `[hi:lo]` of a number, as the manual writes a field `[hi:lo]`. -/
def bits (v hi lo : Nat) : Nat := (v / 2 ^ lo) % 2 ^ (hi + 1 - lo)

/-- Bit `i` of a number. -/
def bit (v i : Nat) : Bool := (v / 2 ^ i) % 2 == 1

/-- `1` for true, `0` for false. -/
def b2n (b : Bool) : Nat := if b then 1 else 0

/-- A number read as a two's-complement integer of `w` bits. -/
def toSigned (w v : Nat) : Int :=
  let u := v % 2 ^ w
  if 2 * u < 2 ^ w then (u : Int) else (u : Int) - (2 ^ w : Nat)

/-- The `w`-bit two's-complement encoding of an integer. -/
def ofSigned (w : Nat) (i : Int) : Nat := (i % ((2 ^ w : Nat) : Int)).toNat

/-- A saturating counter of `w` bits after adding `k` ("every counter saturates"). -/
def satAdd (w v k : Nat) : Nat := min (2 ^ w - 1) (v + k)

/-- Smallest multiple of `m` not below `v` (`m` > 0). -/
def roundUp (v m : Nat) : Nat := (v + m - 1) / m * m

/-- Ceiling division. -/
def ceilDiv (a b : Nat) : Nat := (a + b - 1) / b

/-- An integer held inside `[lo, hi]`. -/
def clampInt (lo hi v : Int) : Int := max lo (min hi v)

/-- Little-endian value of a byte list (R13). -/
def leVal : List Byte → Nat
  | [] => 0
  | b :: bs => b.toNat + 256 * leVal bs

/-- The `n` little-endian bytes of a value (R13). -/
def leBytes : Nat → Nat → List Byte
  | 0, _ => []
  | n + 1, v => BitVec.ofNat 8 v :: leBytes n (v / 256)

end Sys2Proof
end

