-- ==== Sys2Proof/Syntax.lean ====
section
/-! DEFINITION. The commands of the block: one constructor of `Instr` per row of spec/opcode_table.json, and the
operand types they carry. Units are named by their logical numbers (R8), so an operand of type `Fin n` names exactly
the units the spec numbers. -/

namespace Sys2Proof

/-- Who writes a register (R94, R125, R170, R220, R270, R295, R320, R378, R411, R429, R460, R494). -/
inductive Writer where
  | host
  | slice (s : Fin 4096)
  | cairn
  | tc
  | fc
  | pc (p : Fin 8)
  deriving DecidableEq, Repr

/-- A submission entry (R388): bits [63:8] of word 0, the token, and words 2–7. The opcode is the row's. -/
structure Entry where
  rsv   : BitVec 56
  token : Word
  w2    : Word
  w3    : Word
  w4    : Word
  w5    : Word
  w6    : Word
  w7    : Word
  deriving DecidableEq, Repr

/-- A link-level flit header (R353) with what the receiver's checks found. -/
structure Flit where
  vc     : Fin 32
  units  : Fin 17
  seq    : BitVec 40
  ack    : BitVec 40
  crVc   : Fin 32
  crCnt  : BitVec 12
  /-- The codewords decode, and how many of them were corrected (R193). -/
  codeOk : Bool
  fixed  : Fin 18
  /-- The AES-GCM tag verifies (R372). -/
  tagOk  : Bool
  deriving DecidableEq, Repr

/-- A fabric record (R354): the header fields and the data that follow. -/
structure Record where
  sz8     : Bool
  sgn     : Bool
  dev     : Bool
  retry   : Bool
  dup     : Bool
  len     : BitVec 13
  slice   : Fin 4096
  keyIdx  : BitVec 13
  dstNode : BitVec 16
  srcNode : BitVec 16
  tid     : BitVec 32
  addr    : Addr
  status  : BitVec 16
  hop     : Fin 16
  value   : Word
  newVal  : Word
  data    : List Byte
  /-- A reserved `op` value or reserved bit is nonzero (R354). -/
  bad     : Bool
  deriving DecidableEq, Repr

/-- What a pass of a frozen slice holds in one cluster (R405): ranges of scratchpad and cluster SRAM, the logical cores whose
foreground bank is live, and bytes of descriptor state. -/
structure LiveState where
  cluster : Fin 32
  ranges  : List (Addr × Nat)
  cores   : List (Fin 128)
  desc    : Nat
  deriving DecidableEq, Repr

/-- A collective (R373): identifier; 0 all-reduce, 1 reduce-scatter, 2 all-gather, 3 broadcast, 4 barrier; 0 sum, 1 min, 2 max;
0 BF16, 1 FP32, 2 INT32, 3 other; and the root's position in the ring. -/
structure Collective where
  coll  : BitVec 32
  kind  : Fin 5
  op    : Fin 3
  fmt   : Fin 4
  root  : Nat
  deriving DecidableEq, Repr

/-- A PTP Announce as it reaches TC (R60): the data set of the alternate BMCA. -/
structure Announce where
  /-- Port identity of the master that sent it. -/
  src           : BitVec 80
  gm            : Word
  priority2     : BitVec 8
  clockClass    : BitVec 8
  clockAccuracy : BitVec 8
  variance      : BitVec 16
  localPriority : BitVec 8
  stepsRemoved  : BitVec 16
  utcOffset     : BitVec 16
  deriving DecidableEq, Repr

/-- Where a PTP message entered (R59): port, sub-port and its domain number. -/
structure PtpVia where
  port   : Fin 8
  sub    : Fin 4
  domain : BitVec 8
  deriving DecidableEq, Repr

/-- The master that a Sync came from, by its port identity, and where it entered. -/
structure PtpSender where
  src : BitVec 80
  via : PtpVia
  deriving DecidableEq, Repr

/-- An Announce and where it entered. -/
structure AnnounceMsg where
  body : Announce
  via  : PtpVia
  deriving DecidableEq, Repr

/-- An edge of the 1PPS input (R58, R62): its polarity and the frequency measured with it. -/
structure PpsEdge where
  falling : Bool
  freq    : Int
  deriving DecidableEq, Repr

/-- A received fronthaul Ethernet frame, parsed as far as R249 looks at it. -/
structure FhFrame where
  len       : Nat
  ethertype : BitVec 16
  udpPtp    : Bool
  srcMac    : BitVec 48
  vid       : BitVec 12
  rev       : BitVec 4
  concat    : Bool
  msgType   : BitVec 8
  pcid      : BitVec 16
  seqId     : BitVec 8
  /-- The radio-transport bit E. -/
  ebit      : Bool
  /-- U-plane: SFN, slot, symbol, first PRB, and the PRBs as compressed bytes (R144–R146). -/
  sfn       : BitVec 10
  slot      : BitVec 7
  sym       : BitVec 4
  prb0      : BitVec 9
  /-- U-plane: filterIndex, not 0 for PRACH (R251). -/
  filter    : BitVec 4
  prbs      : List (List Byte)
  compShift : BitVec 4
  /-- Split 8 (R263): header fields and samples. -/
  smpOff    : BitVec 21
  compMeth  : BitVec 4
  width     : BitVec 4
  subframe  : BitVec 4
  rsv       : BitVec 10
  nSmp      : BitVec 11
  deriving DecidableEq, Repr

/-- Uplink results (R410, R515): what the air gave, in the fields of the payload. -/
inductive Indication where
  /-- The soft bits of each code block in the order of its circular buffer. -/
  | pusch (soft : List (List Int)) (sinr ta : BitVec 16)
  /-- Detection result and bits of formats 0 and 1 and of Reed–Muller codes; LLRs of each polar code block. -/
  | uci (detected : Bool) (found : List Bool) (soft : List (List Int)) (sinr : BitVec 16)
  | prach (occasion : BitVec 8) (preambles : List (Fin 64 × BitVec 16 × BitVec 16))
  | srs (prbs : BitVec 9) (rxAnt : BitVec 7) (sinr : BitVec 16)
      (est : List (BitVec 32))
  deriving DecidableEq, Repr

/-- The distribution of one row: the tokens that the job ranks with their probabilities in binary32, and the token that it draws for a
sampled sequence (R333). -/
structure TokDist where
  cands : List (BitVec 32 × BitVec 32)
  drawn : BitVec 32
  deriving DecidableEq, Repr

/-- One sequence's part of a pass result (R290, R332, R333): the drafts, the main model's own token at each verified
position, and, for a sampled sequence, whether each draft's variate accepted it. -/
structure SeqResult where
  idx    : Fin 262144
  /-- Draft tokens, and what the draft ranks for the first of them (R337): token and probability. -/
  drafts : List (BitVec 32)
  firsts : List (BitVec 32 × BitVec 32)
  /-- The main model's distributions, row by row. -/
  mains  : List TokDist
  /-- Of each draft: u, p and q in binary32 (R333). -/
  accept : List (BitVec 32 × BitVec 32 × BitVec 32)
  /-- Attention partials of the last row (R325): unit, m, l, o in binary32. -/
  parts  : List (Nat × BitVec 32 × BitVec 32 × List (BitVec 32))
  deriving DecidableEq, Repr

/-- One continuation that a hypothesis of a beam family offers (R338): the hypothesis, the token, the cumulative log-probability as a
fixed-point number. -/
structure BeamCand where
  hyp   : Fin 262144
  token : BitVec 32
  score : Int
  deriving DecidableEq, Repr

/-- An item template of a stage (chapter Serving Engine): its kind, estimated cycles, and, for a tile, the arrays. -/
structure ItemTemplate where
  kind    : Fin 3
  est     : Nat
  perRow  : Nat
  arrays  : Nat
  threads : Nat
  after   : Nat
  /-- The descriptor template: 8 words for a tile or DMA transfer, 16 for a job. -/
  words   : List Word
  /-- SEQSPLIT: the core whose run the item works on (R330). RING: the round it belongs to, and whether it forwards the block to the
  next member (R327). -/
  core    : Option (Fin 16)
  round   : Option (BitVec 8)
  fwd     : Bool
  deriving DecidableEq, Repr

/-- One stage of a model's stage program. -/
structure StageTemplate where
  rowLimit : Nat
  items    : List ItemTemplate
  deriving DecidableEq, Repr

/-- The body of a model package beyond its 256-byte header: its stage program, the steps S of each tile, and whether
the SHA-512 digest of the header matches it (R396). -/
structure ModelBody where
  stages    : List StageTemplate
  tileSteps : List Nat
  /-- Where the placement engine puts the weights: device address, offset in the package, bytes. -/
  place     : List (Addr × BitVec 40 × BitVec 40)
  deriving DecidableEq, Repr

/-- A ring of a slice image (R406): number, configuration word, mirror, `sq_tail`, `sq_head`, `cq_head`, `cq_tail`, the
entries that wait (opcode and words), the CQ's slots with their four words, and the last token accepted. -/
structure ImgRing where
  r      : Fin 16
  cfg    : Word
  mirror : Word
  sqTail : BitVec 32
  sqHead : BitVec 32
  cqHead : BitVec 32
  cqTail : BitVec 32
  sq     : List (BitVec 8 × Entry)
  cq     : List (BitVec 11 × Word × Word × Word × Word)
  last   : Option Word
  deriving DecidableEq, Repr

/-- A sequence of a slice image (R406): the entry's eight words (R275), the speculation record (R331), the digest of its
model, its pinned variant as owner, `variant_id` and slot, its tokens, the plaintext of its frames in page-list order, its
place in its command, and what the command said. -/
structure ImgSeq where
  words   : List Word
  spec    : List Word
  digest  : BitVec 512
  variant : Option (Fin 4096 × BitVec 32 × Fin 65536)
  toks    : List (BitVec 32)
  frames  : List (List Byte)
  sample  : BitVec 16
  samples : BitVec 16
  outAddr : Word
  stream  : Bool
  sampled : Bool
  beamW   : BitVec 16
  eos     : List (BitVec 32)
  /-- Token counts of the samples that have ended. -/
  done    : List (BitVec 16 × BitVec 32)
  /-- Of a beam family: this hypothesis's score, and scores and tokens of those that have ended. -/
  score   : Int
  hyps    : List (Int × List (BitVec 32))
  deriving DecidableEq, Repr

/-- A delta version of a slice image (R406): its slot there, model digest, `variant_id`, group, and image. -/
structure ImgDelta where
  slot    : Fin 65536
  digest  : BitVec 512
  variant : BitVec 32
  group   : Fin 4096
  image   : List Byte
  deriving DecidableEq, Repr

/-- A slice image whose tag and header verify under this domain's migration key, as Cairn reads it (R406, R407). -/
structure SliceImage where
  counters : List Word
  rings    : List ImgRing
  /-- The token window: ring and the four words of each stored entry, newest first. -/
  window   : List (Fin 16 × Word × Word × Word × Word)
  quantum  : BitVec 8
  seqQuota : BitVec 19
  rate     : BitVec 24
  burst    : BitVec 16
  quota64k : BitVec 32
  /-- Region descriptors: index and the four words of R207. -/
  regions  : List (Fin 64 × Word × Word × Word × Word)
  seqs     : List ImgSeq
  /-- The saves: ranges with their bytes, and foreground banks of logical cores byte by byte. -/
  live     : List (Addr × List Byte)
  liveFg   : List (Fin 128 × List (Nat × Byte))
  deltas   : List ImgDelta
  deriving DecidableEq, Repr

/-- One RADIO or HOLD entry that the placement engine proposes (R77). -/
structure ColEntry where
  lane   : Fin 128
  kind   : Fin 4
  start  : BitVec 19
  len    : BitVec 19
  kernel : BitVec 16
  desc   : Addr
  thr    : BitVec 8
  deriving DecidableEq, Repr

/-- What the radio window with descriptor `desc` does for a cell: processing of the slot that lies `slots` after the one of its
tick. Kind 0 is downlink, 1 uplink that ends in a PUSCH indication, 2 uplink that ends in a UCI, PRACH or SRS indication
(R224, R227). Bit l of `syms` is set where symbol l depends on the window. -/
structure WinWork where
  desc  : Addr
  cell  : Fin 4096
  kind  : Fin 3
  slots : Int
  syms  : BitVec 14
  deriving DecidableEq, Repr

/-- What the placement engine builds for one partition: the columns, one directory entry each (R75, R76); the descriptors and
tables it writes to pinned radio SRAM (R25); the scratchpad regions reserved with the bank, by logical core of the partition,
offset and length (R192); the work of the windows; and the lines of the locked instruction-cache ways, by Spur core (R153). -/
structure BankImage where
  part    : Fin 8
  columns : List (List ColEntry)
  pinned  : List (Addr × List Byte)
  rsv     : List (Fin 16 × BitVec 16 × BitVec 16)
  work    : List WinWork
  ilines  : List (Fin 64 × List Addr)
  deriving DecidableEq, Repr

/-- One parameter record of the DCR (R439). -/
structure ParamRec where
  offset : BitVec 24
  lo     : BitVec 6
  wm1    : BitVec 6
  value  : Word
  deriving DecidableEq, Repr

/-- A cell entry of the cell plan (R239): its eight words. -/
structure CellEntry where
  w0 : Word
  w1 : Word
  w2 : Word
  w3 : Word
  w4 : Word
  w5 : Word
  w6 : Word
  w7 : Word
  deriving DecidableEq, Repr

/-- A radio-parameter cell record (R440). -/
structure RadioParam where
  cellId   : BitVec 12
  dlMeth   : BitVec 4
  dlWidth  : BitVec 4
  ulMeth   : BitVec 4
  ulWidth  : BitVec 4
  dfeProf  : BitVec 8
  deriving DecidableEq, Repr

/-- A DFE profile (R440): registers, taps, in-band bitmap and limits. -/
structure DfeProfile where
  cfg    : Word
  nco    : Word
  agc    : Word
  agcThr : Word
  txTaps : List (BitVec 16)
  rxTaps : List (BitVec 16)
  inb    : List Word
  lim    : List (BitVec 24)
  deriving DecidableEq, Repr

/-- The entitlement record as Cairn reads it (R471). -/
structure Entitlement where
  magic     : BitVec 32
  entVer    : BitVec 16
  code      : BitVec 8
  dbgPolicy : BitVec 8
  serial    : Word
  devId     : BitVec 128
  minSvn    : BitVec 32
  minKeyGen : BitVec 8
  /-- A byte that the table does not name is nonzero. -/
  rsvSet    : Bool
  /-- Both signatures verify under Uzoax's entitlement key (R468). -/
  sigOk     : Bool
  deriving DecidableEq, Repr

/-- The device configuration record (R437), parsed. -/
structure Dcr where
  /-- Magic, version, section layout and reserved lengths are as R437 and R438 ask. -/
  formOk    : Bool
  /-- Both signatures verify under the integrator key (R468). -/
  sigOk     : Bool
  dmDiscard : Bool
  serial    : Word
  ent       : Option Entitlement
  params    : List ParamRec
  /-- Words 0–2 of the cell-plan header and word 3 (R238), absent as all zero. -/
  planHdr   : Word × Word × Word × Word
  cells     : List CellEntry
  radio     : List RadioParam
  profiles  : List DfeProfile
  deriving DecidableEq, Repr

/-- A defect-map entry (R445). -/
structure Defect where
  kind  : Fin 16
  cause : Fin 16
  unit  : BitVec 16
  pos   : BitVec 16
  deriving DecidableEq, Repr

/-- A stored defect-map copy as Cairn reads it (R445, R446). -/
structure DefectMap where
  /-- Both signatures verify and the PUF digest matches. -/
  ok      : Bool
  gen     : BitVec 32
  entries : List Defect
  deriving DecidableEq, Repr

/-- What one image slot of the NOR holds (R422, R469, R470). -/
structure SlotImage where
  /-- Both signatures of the first stage verify. -/
  stage1Ok : Bool
  /-- Both signatures of the rest verify. -/
  restOk   : Bool
  svn      : BitVec 32
  keyGen   : BitVec 8
  version  : BitVec 32
  digest   : BitVec 512
  sectVer  : List (BitVec 32)
  sectDig  : List (BitVec 512)
  deriving DecidableEq, Repr

/-- A physical unit named by kind, cluster and slot or position (R445 kinds 0 and 1). -/
structure PhysUnit where
  spur : Bool
  cl   : Fin 32
  pos  : Fin 18
  deriving DecidableEq, Repr

/-- A firmware section offered for live update (R423). -/
structure SectionImage where
  sect   : Fin 8
  major  : BitVec 16
  /-- The kernel-cycle-table digest that it names. -/
  kctDig : BitVec 512
  version : BitVec 32
  digest : BitVec 512
  sigOk  : Bool
  deriving DecidableEq, Repr

/-- A debug token (R481). -/
structure DebugToken where
  magic  : BitVec 32
  perm   : BitVec 8
  signer : BitVec 8
  devId  : BitVec 128
  nonce  : BitVec 256
  sigOk  : Bool
  deriving DecidableEq, Repr

/-- A unit whose reset or known-answer run ends. -/
inductive UnitName where
  | core (n : Fin 128)
  | spur (n : Fin 512)
  | slot (cl : Fin 32) (k : Fin 5)
  | pos  (cl : Fin 32) (j : Fin 18)
  deriving DecidableEq, Repr

/-- A ring (R383, R411): ring `r` of slice `s`, the control ring, or radio ring `r`. -/
inductive RingName where
  | slice (s : Fin 4096) (r : Fin 16)
  | control
  | radio (r : Fin 8)
  deriving DecidableEq, Repr

/-- A party that negotiates (R399). -/
inductive Party where
  | control
  | slice (s : Fin 4096)
  deriving DecidableEq, Repr

/-- A per-domain energy sample of one 1 ms interval (R294), in nJ, with the consumers' energy counts. -/
structure EnergySample where
  domain : Fin 50
  energy : Nat
  idle   : Nat
  slices : List (Fin 4096 × Nat)
  radio  : Nat
  device : Nat
  deriving DecidableEq, Repr

/-- Why an open-row tile or job is aborted (R88). -/
inductive AbortPoint where
  | radio
  | edge
  | fence
  | step
  | clamp
  deriving DecidableEq, Repr

/-- The end of a tile, a job or a radio window: its cycle in the tick, and whether an uncorrectable error was met in the unit's own
memories (R122, R167). -/
structure Finish where
  cyc : Fin 412501
  ue  : Bool
  deriving DecidableEq, Repr

/-- The abort of a tile: its cause, and whether the array came to rest within the bound of R122. -/
structure TileStop where
  why  : AbortPoint
  idle : Bool
  deriving DecidableEq, Repr

/-- The end of a known-answer run (R441, R444): its cycle, and whether the digest is the expected one. -/
structure KatResult where
  cyc      : Fin 412501
  digestOk : Bool
  deriving DecidableEq, Repr

/-- A change of role that is asked of a partition (R29). -/
structure RoleAsk where
  part : Fin 8
  role : Fin 4
  deriving DecidableEq, Repr

/-- What training found (R349, R351): the healthy lanes and the round trip in ns. -/
structure Training where
  healthy : BitVec 5
  rtt     : Nat
  deriving DecidableEq, Repr

/-- A ring as the PCIe function `fn` addresses it (R382). -/
structure RingAt where
  fn   : Fin 256
  ring : RingName
  deriving DecidableEq, Repr

/-- A party as the PCIe function `fn` addresses its registers. -/
structure PartyAt where
  fn    : Fin 256
  party : Party
  deriving DecidableEq, Repr

/-- A slice as the PCIe function `fn` addresses its registers. -/
structure SliceAt where
  fn    : Fin 256
  slice : Fin 4096
  deriving DecidableEq, Repr

/-- The end of a slice's freeze (R405): the slice and what its passes held live. -/
structure FreezeEnd where
  slice : Fin 4096
  live  : List LiveState
  deriving DecidableEq, Repr

/-- What the self-tests of start-up step 6 found (R22, R431, R441): the failing units, the bad SRAM rows by macro, and the VCORE
settings of the four stacks in mV above 700. -/
structure SelfTest where
  fails : List PhysUnit
  rows  : List (BitVec 16 × BitVec 16)
  vcore : Vector (Fin 101) 4
  deriving DecidableEq, Repr

/-- The reading that lifts a clamp (R504): the input power in W, or the temperature of the hottest point in 1/8 °C. -/
structure ClampReading where
  power : Bool
  value : Int
  deriving DecidableEq, Repr

/-- Half-size of a DFE configuration write (R268): which field of the chain. -/
inductive DfeCfgField where
  | ovs
  | txTaps
  | rxTaps
  | ncoInc
  | ncoPhase0
  | txCoef (k : Fin 96)
  | rxCoef (k : Fin 96)
  deriving DecidableEq, Repr

/-- A command of the block: one constructor per row of spec/opcode_table.json, in its order. A thread operand `th` is
8 · (logical Spur core) + thread; `ns` is an instant in nanoseconds after the last tick boundary; `cyc` is in tick
cycles from the tick edge. -/
inductive Instr where
  /-- REGISTER_WRITE (R15): A write to a register field that has no row of its own takes effect by its access code, including W1C clears and reserved-bit handling. -/
  | registerWrite (wr : Writer) (addr : BitVec 40) (value : Word)
  /-- TICK_EDGE (R65): Device time reaches a tick boundary and the Col window of every partition begins. -/
  | tickEdge
  /-- TICK_BANK_WRITE (R74): PCp writes tick-bank memory; a write into the committed bank is dropped and sets col_err. -/
  | tickBankWrite (p : Fin 8) (off : Fin 2097152) (data : List Byte)
  /-- RADIO_WINDOW_START (R87): A RADIO entry reaches its start cycle and runs its descriptor, or is not started and reported missed. -/
  | radioWindowStart (p : Fin 8) (e : Fin 4096) (cyc : Fin 412501)
  /-- RADIO_WINDOW_END (R87): A RADIO entry ends, setting overrun and raising a service event if it ran past start plus len. -/
  | radioWindowEnd (p : Fin 8) (e : Fin 4096) (x : Finish)
  /-- LANE_ITEM_START (R289): A lane starts its next work-list item when its predecessor and after-item have ended and it lies in an allowed gap. -/
  | laneItemStart (p : Fin 8) (i : Fin 2048) (cyc : Fin 412501)
  /-- TILE_ABORT (R88): An open-row tile reaches an abort point and is aborted, writing nothing, and queued for replay. -/
  | tileAbort (p : Fin 8) (i : Fin 2048) (cyc : Fin 412501) (x : TileStop)
  /-- TILE_END (R89): A tile completes its retire phase and returns its end record to the step builder. -/
  | tileEnd (p : Fin 8) (i : Fin 2048) (x : Finish)
  /-- FENCE_REQ (R122): A write of fence_req fences the core within 64 cycles. -/
  | fenceReq (wr : Writer) (n : Fin 128)
  /-- RADIO_HANG (R122): A radio descriptor runs hang_cyc past its R118 count and the core is fenced. -/
  | radioHang (n : Fin 128)
  /-- KAT_NOW (R124): A write of kat_now requests a known-answer run in the next open gap. -/
  | katNow (wr : Writer) (n : Fin 128)
  /-- KAT_PERIOD_EXPIRY (R124): kat_period ticks pass and a periodic known-answer run becomes due on each core and Spur core. -/
  | katPeriodExpiry
  /-- KAT_END (R124): A known-answer run ends and its output digest is compared, fencing the unit on failure. -/
  | katEnd (u : UnitName) (x : KatResult)
  /-- SPUR_FENCE_REQ (R167): A write of SPR fence_req fences the Spur core within 64 cycles. -/
  | spurFenceReq (wr : Writer) (n : Fin 512)
  /-- SPUR_KAT_NOW (R168): A write of SPR kat_now requests a Spur known-answer run. -/
  | spurKatNow (wr : Writer) (n : Fin 512)
  /-- SPUR_RADIO_HANG (R167): A radio job runs hang_cyc beyond its entry's len and the Spur core is fenced. -/
  | spurRadioHang (n : Fin 512)
  /-- JOB_END (R162): Every thread of a job has halted or faulted; dirty lines are written back and the end record is posted. -/
  | jobEnd (n : Fin 512) (t : Fin 8) (x : Finish)
  /-- JOB_ABORT (R165): An open job is aborted at an abort point and replayed from entry_pc. -/
  | jobAbort (n : Fin 512) (t : Fin 8) (cyc : Fin 412501) (why : AbortPoint)
  /-- SPUR_REMOTE_REPLY (R154): The reply to a parked remote load or atomic arrives and the thread returns to READY. -/
  | spurRemoteReply (th : Fin 4096)
  /-- STORE_ACK (R155): A posted store is acknowledged, freeing a store-queue entry and releasing a waiting FENCE. -/
  | storeAck (th : Fin 4096) (k : Fin 7)
  /-- SPUR_NOP (R158): SYS NOP does nothing. -/
  | spurNop (th : Fin 4096)
  /-- HALT (R158): The thread halts and waits for the rest of its group. -/
  | halt (th : Fin 4096)
  /-- YIELD (R158): The thread's turn passes to the next READY thread. -/
  | yield (th : Fin 4096)
  /-- FENCE (R156): The thread parks until all its earlier stores and cache operations are complete. -/
  | fence (th : Fin 4096)
  /-- CWB (R156): One data-cache line is written back. -/
  | cwb (th : Fin 4096) (rs1 : Fin 32)
  /-- CINV (R156): One data-cache line is invalidated, discarding a dirty copy. -/
  | cinv (th : Fin 4096) (rs1 : Fin 32)
  /-- CFLUSH (R156): The thread's whole data cache is written back and invalidated. -/
  | cflush (th : Fin 4096)
  /-- MFS (R151): A special register is read into a g register. -/
  | mfs (th : Fin 4096) (rd sr : Fin 32)
  /-- MTS (R151): A g register is written to a special register; a read-only target is illegal. -/
  | mts (th : Fin 4096) (sr rs1 : Fin 32)
  /-- ADD (R159): ALU add of two g registers. -/
  | add (th : Fin 4096) (rd rs1 rs2 : Fin 32)
  /-- SUB (R159): ALU subtract. -/
  | sub (th : Fin 4096) (rd rs1 rs2 : Fin 32)
  /-- AND (R159): ALU bitwise AND. -/
  | and (th : Fin 4096) (rd rs1 rs2 : Fin 32)
  /-- OR (R159): ALU bitwise OR. -/
  | or (th : Fin 4096) (rd rs1 rs2 : Fin 32)
  /-- XOR (R159): ALU bitwise XOR. -/
  | xor (th : Fin 4096) (rd rs1 rs2 : Fin 32)
  /-- SLL (R159): Shift left by g[rs2]. -/
  | sll (th : Fin 4096) (rd rs1 rs2 : Fin 32)
  /-- SRL (R159): Logical shift right by g[rs2]. -/
  | srl (th : Fin 4096) (rd rs1 rs2 : Fin 32)
  /-- SRA (R159): Arithmetic shift right by g[rs2]. -/
  | sra (th : Fin 4096) (rd rs1 rs2 : Fin 32)
  /-- SLLI (R159): Shift left by immediate sh. -/
  | slli (th : Fin 4096) (rd rs1 : Fin 32) (sh : Fin 64)
  /-- SRLI (R159): Logical shift right by immediate. -/
  | srli (th : Fin 4096) (rd rs1 : Fin 32) (sh : Fin 64)
  /-- SRAI (R159): Arithmetic shift right by immediate. -/
  | srai (th : Fin 4096) (rd rs1 : Fin 32) (sh : Fin 64)
  /-- SLT (R159): Set if less, signed. -/
  | slt (th : Fin 4096) (rd rs1 rs2 : Fin 32)
  /-- SLTU (R159): Set if less, unsigned. -/
  | sltu (th : Fin 4096) (rd rs1 rs2 : Fin 32)
  /-- MUL (R159): Low 64 bits of the product. -/
  | mul (th : Fin 4096) (rd rs1 rs2 : Fin 32)
  /-- MULH (R159): High 64 bits of the signed product. -/
  | mulh (th : Fin 4096) (rd rs1 rs2 : Fin 32)
  /-- MULHU (R159): High 64 bits of the unsigned product. -/
  | mulhu (th : Fin 4096) (rd rs1 rs2 : Fin 32)
  /-- MIN (R159): Signed minimum. -/
  | min (th : Fin 4096) (rd rs1 rs2 : Fin 32)
  /-- MAX (R159): Signed maximum. -/
  | max (th : Fin 4096) (rd rs1 rs2 : Fin 32)
  /-- MINU (R159): Unsigned minimum. -/
  | minu (th : Fin 4096) (rd rs1 rs2 : Fin 32)
  /-- MAXU (R159): Unsigned maximum. -/
  | maxu (th : Fin 4096) (rd rs1 rs2 : Fin 32)
  /-- CLZ (R159): Count leading zeros of g[rs1]. -/
  | clz (th : Fin 4096) (rd rs1 : Fin 32)
  /-- POPC (R159): Population count of g[rs1]. -/
  | popc (th : Fin 4096) (rd rs1 : Fin 32)
  /-- BSWAP (R159): Byte swap of g[rs1]. -/
  | bswap (th : Fin 4096) (rd rs1 : Fin 32)
  /-- ADDI (R158): Add a sign-extended immediate. -/
  | addi (th : Fin 4096) (rd rs1 : Fin 32) (imm : BitVec 16)
  /-- ANDI (R158): AND with a zero-extended immediate. -/
  | andi (th : Fin 4096) (rd rs1 : Fin 32) (imm : BitVec 16)
  /-- ORI (R158): OR with a zero-extended immediate. -/
  | ori (th : Fin 4096) (rd rs1 : Fin 32) (imm : BitVec 16)
  /-- XORI (R158): XOR with a zero-extended immediate. -/
  | xori (th : Fin 4096) (rd rs1 : Fin 32) (imm : BitVec 16)
  /-- LUI (R158): Load a sign-extended immediate shifted left by 16. -/
  | lui (th : Fin 4096) (rd : Fin 32) (imm : BitVec 16)
  /-- LD (R160): Load from memory through an a register by addressing mode am. -/
  | ld (th : Fin 4096) (rt : Fin 32) (an : Fin 8) (am sz : Fin 4) (sx : Bool) (off : BitVec 13)
  /-- ST (R160): Store to memory through an a register by addressing mode am. -/
  | st (th : Fin 4096) (rt : Fin 32) (an : Fin 8) (am sz : Fin 4) (off : BitVec 13)
  /-- MOVA_TO_A (R158): MOVA sub 0 copies g[rs1] into an a register. -/
  | movaToA (th : Fin 4096) (ad : Fin 8) (rs1 : Fin 32)
  /-- MOVA_FROM_A (R158): MOVA sub 1 copies an a register into a g register. -/
  | movaFromA (th : Fin 4096) (rd : Fin 32) (an : Fin 8)
  /-- ADDA (R158): Add an immediate to an a register modulo 2^48. -/
  | adda (th : Fin 4096) (ad an : Fin 8) (imm : BitVec 16)
  /-- ATOM_ADD (R156): Atomic add at the target memory, returning the old value. -/
  | atomAdd (th : Fin 4096) (rd : Fin 32) (an : Fin 8) (rs2 : Fin 32) (dbl : Bool)
  /-- ATOM_MIN (R156): Atomic minimum at the target memory. -/
  | atomMin (th : Fin 4096) (rd : Fin 32) (an : Fin 8) (rs2 : Fin 32) (dbl sgn : Bool)
  /-- ATOM_MAX (R156): Atomic maximum at the target memory. -/
  | atomMax (th : Fin 4096) (rd : Fin 32) (an : Fin 8) (rs2 : Fin 32) (dbl sgn : Bool)
  /-- ATOM_CAS (R156): Atomic compare-and-swap at the target memory. -/
  | atomCas (th : Fin 4096) (rd : Fin 32) (an : Fin 8) (rs2 : Fin 32) (dbl sgn : Bool)
  /-- FLD (R358): Fabric load from a global address into g[rt]. -/
  | fld (th : Fin 4096) (rt ra : Fin 32) (sz8 : Bool)
  /-- FST (R358): Fabric store of g[rt] to a global address. -/
  | fst (th : Fin 4096) (rt ra : Fin 32) (sz8 : Bool)
  /-- FAB_ADD (R358): Fabric atomic add. -/
  | fabAdd (th : Fin 4096) (rt ra : Fin 32) (sz8 : Bool)
  /-- FAB_MIN (R358): Fabric signed atomic minimum. -/
  | fabMin (th : Fin 4096) (rt ra : Fin 32) (sz8 : Bool)
  /-- FAB_MAX (R358): Fabric signed atomic maximum. -/
  | fabMax (th : Fin 4096) (rt ra : Fin 32) (sz8 : Bool)
  /-- FAB_CAS (R358): Fabric compare-and-swap. -/
  | fabCas (th : Fin 4096) (rt ra rb : Fin 32) (sz8 : Bool)
  /-- BR (R158): Conditional branch on a comparison selected by cond. -/
  | br (th : Fin 4096) (rs1 rs2 : Fin 32) (cond : Fin 6) (off : BitVec 13)
  /-- J (R158): Unconditional jump. -/
  | j (th : Fin 4096) (off : BitVec 26)
  /-- JAL (R158): Jump and link into g31. -/
  | jal (th : Fin 4096) (off : BitVec 26)
  /-- JALR (R158): Jump to a register target and link. -/
  | jalr (th : Fin 4096) (rd rs1 : Fin 32) (imm : BitVec 16)
  /-- CVT (R158): Convert an element between format codes by the store-path rules. -/
  | cvt (th : Fin 4096) (rd rs1 : Fin 32) (sfmt dfmt : Fin 32) (rnd : Bool)
  /-- CMUL (R173): Complex multiply into an accumulator. -/
  | cmul (th : Fin 4096) (ad : Fin 4) (gs1 gs2 : Fin 32) (hi1 hi2 frac : Bool)
  /-- CMAC (R173): Complex multiply-accumulate. -/
  | cmac (th : Fin 4096) (ad : Fin 4) (gs1 gs2 : Fin 32) (hi1 hi2 frac : Bool)
  /-- CMSU (R173): Complex multiply-subtract. -/
  | cmsu (th : Fin 4096) (ad : Fin 4) (gs1 gs2 : Fin 32) (hi1 hi2 frac : Bool)
  /-- CMULJ (R173): Complex multiply by the conjugate. -/
  | cmulj (th : Fin 4096) (ad : Fin 4) (gs1 gs2 : Fin 32) (hi1 hi2 frac : Bool)
  /-- CMACJ (R173): Complex multiply-accumulate with conjugate. -/
  | cmacj (th : Fin 4096) (ad : Fin 4) (gs1 gs2 : Fin 32) (hi1 hi2 frac : Bool)
  /-- CMSUJ (R173): Complex multiply-subtract with conjugate. -/
  | cmsuj (th : Fin 4096) (ad : Fin 4) (gs1 gs2 : Fin 32) (hi1 hi2 frac : Bool)
  /-- RMAC_MUL (R173): Dual real multiply into an accumulator. -/
  | rmacMul (th : Fin 4096) (ad : Fin 4) (gs1 gs2 : Fin 32) (hi1 hi2 frac bc : Bool)
  /-- RMAC_MAC (R173): Dual real multiply-accumulate. -/
  | rmacMac (th : Fin 4096) (ad : Fin 4) (gs1 gs2 : Fin 32) (hi1 hi2 frac bc : Bool)
  /-- RMAC_MSU (R173): Dual real multiply-subtract. -/
  | rmacMsu (th : Fin 4096) (ad : Fin 4) (gs1 gs2 : Fin 32) (hi1 hi2 frac bc : Bool)
  /-- WMAC_MUL (R173): Wide 32x32 multiply into an accumulator. -/
  | wmacMul (th : Fin 4096) (ad : Fin 4) (gs1 gs2 : Fin 32) (hi1 hi2 frac : Bool)
  /-- WMAC_MAC (R173): Wide multiply-accumulate. -/
  | wmacMac (th : Fin 4096) (ad : Fin 4) (gs1 gs2 : Fin 32) (hi1 hi2 frac : Bool)
  /-- WMAC_MSU (R173): Wide multiply-subtract. -/
  | wmacMsu (th : Fin 4096) (ad : Fin 4) (gs1 gs2 : Fin 32) (hi1 hi2 frac : Bool)
  /-- FTAP (R186): One or two filter taps: load sample and coefficient, accumulate, advance pointers, optionally move the sample. -/
  | ftap (th : Fin 4096) (ad : Fin 4) (ax ah : Fin 8) (typ mx mh : Fin 4) (mv neg frac dual : Bool)
  /-- ACC_CLR (R177): Clear an accumulator. -/
  | accClr (th : Fin 4096) (ad : Fin 4) (wide : Bool)
  /-- ACC_MOV (R177): Copy one accumulator to another. -/
  | accMov (th : Fin 4096) (ad asrc : Fin 4) (wide : Bool)
  /-- ACC_ADD (R177): Add two accumulators with saturation. -/
  | accAdd (th : Fin 4096) (ad asrc : Fin 4) (wide : Bool)
  /-- ACC_NEG (R177): Negate an accumulator with saturation. -/
  | accNeg (th : Fin 4096) (ad : Fin 4) (wide : Bool)
  /-- ACC_SHL (R177): Shift an accumulator left with saturation. -/
  | accShl (th : Fin 4096) (ad : Fin 4) (wide : Bool) (amt : Fin 64)
  /-- ACC_SHR (R177): Shift an accumulator right arithmetically. -/
  | accShr (th : Fin 4096) (ad : Fin 4) (wide : Bool) (amt : Fin 64)
  /-- ACC_SWAP (R177): Exchange real and imaginary components. -/
  | accSwap (th : Fin 4096) (ad : Fin 4) (wide : Bool)
  /-- ACC_CONJ (R177): Negate the imaginary component. -/
  | accConj (th : Fin 4096) (ad : Fin 4) (wide : Bool)
  /-- STAC (R175): Round, saturate and store an accumulator to memory. -/
  | stac (th : Fin 4096) (ad : Fin 4) (an : Fin 8) (am : Fin 4) (fmt : Fin 8) (rm : Bool) (sh : Fin 64) (off : BitVec 9)
  /-- MVAC (R175): Round, saturate and move an accumulator to a g register. -/
  | mvac (th : Fin 4096) (ad : Fin 4) (rd : Fin 32) (fmt : Fin 8) (rm : Bool) (sh : Fin 64)
  /-- MTAC (R176): Write a g register into an accumulator. -/
  | mtac (th : Fin 4096) (ad : Fin 4) (rs : Fin 32) (fmt : Fin 8) (rm : Bool) (sh : Fin 64)
  /-- RPT (R183): Start a zero-overhead block repeat on a level. -/
  | rpt (th : Fin 4096) (lv : Fin 4) (src : Bool) (count : BitVec 11) (gc : Fin 32) (len : BitVec 12)
  /-- CBSET (R179): Write a circular buffer base and length together and set wrap. -/
  | cbset (th : Fin 4096) (i : Fin 8) (ga gb : Fin 32)
  /-- MTCB (R179): Write a circular buffer base and set wrap. -/
  | mtcb (th : Fin 4096) (i : Fin 8) (ga : Fin 32)
  /-- MTCL (R179): Write a circular buffer length; length 0 clears wrap. -/
  | mtcl (th : Fin 4096) (i : Fin 8) (ga : Fin 32)
  /-- MFCB (R188): Read a circular buffer base. -/
  | mfcb (th : Fin 4096) (i : Fin 8) (ga : Fin 32)
  /-- MFCL (R179): Read a circular buffer length and wrap bit. -/
  | mfcl (th : Fin 4096) (i : Fin 8) (ga : Fin 32)
  /-- CBGET (R182): Copy a committed group circular buffer pair into a thread pair. -/
  | cbget (th : Fin 4096) (i : Fin 8) (j : Fin 4)
  /-- MTLC (R184): Write a loop counter. -/
  | mtlc (th : Fin 4096) (lv : Fin 4) (ga : Fin 32)
  /-- MFLC (R188): Read a loop counter. -/
  | mflc (th : Fin 4096) (lv : Fin 4) (ga : Fin 32)
  /-- GCB_RGN_WRITE (R181): A write to rgn_base or rgn_limit takes effect only while the committed gcb_len is 0. -/
  | gcbRgnWrite (wr : Writer) (n : Fin 512) (j : Fin 4) (lim : Bool) (value : Addr)
  /-- SPUR_SUBSTITUTION (R169): A fenced Spur core is replaced by a spare position after its locked ways are filled. -/
  | spurSubstitution (n : Fin 512)
  /-- SPARE_SUBSTITUTION_COMMIT (R38): After the copy ends the logical-to-physical maps commit in a Col window. -/
  | spareSubstitutionCommit (n : Fin 128)
  /-- SPARE_LOSS_REPROOF (R39): At the next frame boundary the proof of fit is re-run without a lost core and lowest-priority cells are locked. -/
  | spareLossReproof (p : Fin 8) (first : BankImage) (more : List BankImage)
  /-- NOC_PACKET (R212): A NoC packet is received, its header checked and corrected, and it is routed or delivered. -/
  | nocPacket (r : Fin 32) (header : BitVec 288) (data : List (BitVec 288))
  /-- NOC_TIMEOUT (R212): A request unanswered for noc_to cycles ends with ST_MEM_UNCORRECTABLE. -/
  | nocTimeout (src : BitVec 12) (txn : BitVec 16)
  /-- DMA_TRANSFER_START (R216): A DMA engine copies and checks its descriptor and begins moving rows. -/
  | dmaTransferStart (p : Fin 8) (eng : Fin 16) (desc : Addr)
  /-- DMA_TRANSFER_END (R217): The last destination write of a transfer completes and its end record is posted. -/
  | dmaTransferEnd (p : Fin 8) (eng : Fin 16) (k : Nat)
  /-- SRAM_SCRUB (R218): The SRAM scrub interval elapses and words are checked and rewritten. -/
  | sramScrub (addr : Addr) (word : BitVec 288)
  /-- DRAM_PATROL (R219): The DRAM patrol reads lines, writes back corrections and marks failed devices. -/
  | dramPatrol (m : Fin 24) (rank : Fin 2) (addr : Addr) (lo hi : BitVec 320)
  /-- CHANNEL_LOST (R203): A DRAM channel is lost at runtime; accesses fail and affected sequences freeze. -/
  | channelLost (m : Fin 24)
  /-- ROUTER_FAILURE (R214): A NoC router fails and Cairn rewrites the route table around it. -/
  | routerFailure (r : Fin 32)
  /-- KEY_LOAD (R466): Cairn derives and loads a fresh key into a slot, incrementing its epoch. -/
  | keyLoad (slot : Fin 8192)
  /-- CMP_TIMER_FIRE (R48): A compare timer becomes due and fires, setting its fired bit and interrupt. -/
  | cmpTimerFire (n : Fin 16) (ns : Nat)
  /-- CMP_TARGET_WRITE (R68): A write of CMP_TARGET re-arms a timer from the next time-clock cycle. -/
  | cmpTargetWrite (wr : Writer) (n : Fin 16) (target : Word)
  /-- CMP_ENABLE_WRITE (R48): A rising enable bit arms a timer, which fires next cycle if its target is past. -/
  | cmpEnableWrite (wr : Writer) (enable : BitVec 16) (fired : BitVec 16)
  /-- SRC_SEL_WRITE (R49): A change of src_sel moves the servo to HOLDOVER, ACQUIRING or FREERUN. -/
  | srcSelWrite (wr : Writer) (sel : Fin 4) (synceEn : Bool)
  /-- FORCE_HOLDOVER (R54): Writing force_holdover holds or releases the servo in HOLDOVER. -/
  | forceHoldover (wr : Writer) (on : Bool)
  /-- STEP_ARM (R57): A re-step request is honoured when no cell is active, otherwise refused with step_refused. -/
  | stepArm (wr : Writer)
  /-- TIME_SNAPSHOT (R68): Writing snap latches the four snapshot registers at one instant. -/
  | timeSnapshot (wr : Writer)
  /-- SYNC_RECEIVED (R53): A PTP Sync with its delay exchange yields an offset measurement tested against the jump threshold. -/
  | syncReceived (from_ : PtpSender) (offset : Int) (freq : Int) (ns : Nat)
  /-- TIME_STEP (R52): The pending step is applied to device time in the next cycle or Col window. -/
  | timeStep
  /-- ANNOUNCE_RECEIVED (R60): A PTP Announce is processed by the BMCA and foreign-master records are updated. -/
  | announceReceived (x : AnnounceMsg) (ns : Nat)
  /-- ANNOUNCE_TIMEOUT (R55): The Announce receipt timeout expires and the source is lost. -/
  | announceTimeout (src : BitVec 80)
  /-- SYNC_TIMEOUT (R55): No Sync arrives for three Sync intervals and the source is lost. -/
  | syncTimeout
  /-- HOLD_LIMIT_EXCEEDED (R56): Holdover lasts beyond hold_limit_s and the announced clockClass is degraded. -/
  | holdLimitExceeded
  /-- REFUSE_FAULT (R56): Refusals run unbroken for refuse_limit_s and a service event is raised. -/
  | refuseFault
  /-- PTP_MASTER_TX (R59): TC sends PTP messages on a master port at its message interval. -/
  | ptpMasterTx (port : Fin 8) (sub : Fin 4) (kind : Fin 16)
  /-- ESMC_RECEIVED (R61): An ESMC quality level is received and SyncE validity is evaluated. -/
  | esmcReceived (port : Fin 8) (sub : Fin 4) (ql : BitVec 4)
  /-- SYNCE_LOSS (R61): SyncE becomes invalid and the time PLL changes to the reference without a phase step. -/
  | synceLoss
  /-- PPS_IN_EDGE (R58): A 1PPS input edge is timestamped and used for lock, step or offset measurement. -/
  | ppsInEdge (x : PpsEdge) (ns : Nat)
  /-- PPS_OUT_PULSE (R63): The nanosecond field reaches 0 and the 1PPS output rises for width_ns. -/
  | ppsOutPulse
  /-- LOCK_WAIT_EXPIRY (R66): lock_wait_s expires without a step and tick edges begin in the current state. -/
  | lockWaitExpiry
  /-- CELL_START (R228): At a frame boundary where the start condition holds an unlocked cell begins to transmit. -/
  | cellStart (c : Fin 4096)
  /-- SLOT_MESSAGE (R408): A slot message on a radio ring is read at its read instant and checked. -/
  | slotMessage (r : Fin 8) (e : Entry) (pdus : List Byte)
  /-- INDICATION_POST (R410): An uplink result's payload is written and its indication posted on the radio ring, or dropped. -/
  | indicationPost (c : Fin 4096) (sfn : Fin 1024) (slot : Fin 80) (pdu : BitVec 32) (ind : Indication)
  /-- HARQ_HOLD_EXPIRY (R236): harq_hold_slots pass since a failed block's last reception and its buffer is released. -/
  | harqHoldExpiry (c : Fin 4096) (rnti : BitVec 16) (h : Fin 32)
  /-- CELL_LOCK_EFFECT (R241): At its frame boundary a lock stops the cell, releases its HARQ pool and commits a rebuilt bank. -/
  | cellLockEffect (p : Fin 8) (c : Fin 4096)
  /-- CELL_UNLOCK_EFFECT (R242): At its frame boundary an unlock is proved and the cell starts afresh, or completes ST_CELL_UNFIT. -/
  | cellUnlockEffect (p : Fin 8) (c : Fin 4096) (bank : BankImage)
  /-- FRAME_RECEIVED (R249): A fronthaul frame is received and handled by the first matching row. -/
  | frameReceived (x : Fin 8) (sub : Fin 4) (f : FhFrame) (ns : Fin 125000)
  /-- DELAY_MEASUREMENT_MSG (R260): A received eCPRI type 5 request is answered or a response sets owd_ns and dm_valid. -/
  | delayMeasurementMsg (x : Fin 8) (sub : Fin 4) (isResponse : Bool) (owd : BitVec 32)
  /-- DM_START (R260): Writing dm_start sends one one-way delay measurement request. -/
  | dmStart (wr : Writer) (x : Fin 8)
  /-- DM_TIMEOUT (R260): No response arrives within 10 ms and dm_timeout is set. -/
  | dmTimeout (x : Fin 8)
  /-- UL_WINDOW_CLOSE (R255): The reception window of a symbol closes and missing PRBs are zero-filled. -/
  | ulWindowClose (k : Fin 4096) (sfn : Fin 1024) (slot : Fin 80) (sym : Fin 14)
  /-- FH_FRAME_SEND (R254): A fronthaul frame's transmit window opens and it is sent. -/
  | fhFrameSend (x : Fin 8) (sub : Fin 4) (ns : Fin 125000)
  /-- FH_TX_WINDOW_EXPIRY (R254): A frame that has not left by its window's end is dropped into tx_drop. -/
  | fhTxWindowExpiry (x : Fin 8) (sub : Fin 4) (ns : Fin 125000)
  /-- FH_LINK_UP (R247): A fronthaul subport completes training and enters UP. -/
  | fhLinkUp (x : Fin 8) (sub : Fin 4)
  /-- FH_LINK_DOWN (R247): A subport loses block lock or receives remote fault and leaves UP. -/
  | fhLinkDown (x : Fin 8) (sub : Fin 4)
  /-- PEER_MAC_WRITE (R258): Host writes peer_mac, which applies to frames queued after the write and is never replaced by learning. -/
  | peerMacWrite (wr : Writer) (x : Fin 8) (sub : Fin 4) (mac : BitVec 48)
  /-- MASK_MEASUREMENT (R269): A spectral mask measurement over 2^mask_avg_log2 blocks completes and may mute the stream. -/
  | maskMeasurement (d : Fin 64) (near : List Bool)
  /-- MASK_MUTE_CLEAR (R269): Writing 1 to mask_mute ends the mute. -/
  | maskMuteClear (wr : Writer) (d : Fin 64)
  /-- DFE_SNAPSHOT (R266): Writing DFE snap copies the latched RSSI values at one instant. -/
  | dfeSnapshot (wr : Writer) (d : Fin 64)
  /-- SEQ_WRITE (R265): A write to seq_len or the sequence memory is accepted only while det_thr is 0. -/
  | seqWrite (wr : Writer) (d : Fin 64) (mem : Option (Fin 8)) (value : Word)
  /-- DFE_CFG_WRITE (R268): A write to chain configuration is accepted only while the cell is locked. -/
  | dfeCfgWrite (wr : Writer) (d : Fin 64) (f : DfeCfgField) (value : BitVec 32)
  /-- PASS_COMMIT (R290): At the step boundary after a pass's last item ends its tokens and lengths commit and end conditions are tested. -/
  | passCommit (p : Fin 8) (b : Nat) (results : List SeqResult) (beams : List BeamCand)
  /-- PREFIX_LOOKUP (R308): The walker matches an admitted sequence's prompt pages against the prefix tree. -/
  | prefixLookup (idx : Fin 262144)
  /-- SPILL_COMMIT (R312): A spill copy ends and entries and nodes are rewritten to the CACHE partition. -/
  | spillCommit (k : Nat)
  /-- PAGE_WAIT_EXHAUSTED (R313): wait reaches pg_wait_lim and the sequence freezes with ST_PAGE_EXHAUSTED. -/
  | pageWaitExhausted (idx : Fin 262144)
  /-- PEER_SPILL_COMMIT (R314): Pages copied to a peer CACHE partition are rewritten as remote and local frames freed. -/
  | peerSpillCommit (idx : Fin 262144) (node : BitVec 16) (frames : List (BitVec 28))
  /-- MOVE_COMMIT (R291): After the last page copy ends a pool move commits at the destination's step boundary. -/
  | moveCommit (idx : Fin 262144)
  /-- ROLE_CHANGE (R29): A pending role change commits at a step boundary once no sequence of an unserved state remains. -/
  | roleChange (x : RoleAsk)
  /-- CANCELLATION_APPLY (R32): A pending cancellation takes effect at the next step boundary and the sequence enters ENDING. -/
  | cancellationApply (idx : Fin 262144)
  /-- SEQUENCE_FREEZE (R278): A freeze takes effect at the next step boundary, or when a move commits. -/
  | sequenceFreeze (idx : Fin 262144)
  /-- SEQUENCE_END (R318): An ENDING sequence posts its completion, releases its pages and returns to FREE. -/
  | sequenceEnd (idx : Fin 262144)
  /-- SCOPE_KEY_REPLACE (R319): After the last frame of a dissolved scope is freed its key is replaced and held frames return. -/
  | scopeKeyReplace (scope : Fin 8191)
  /-- ENERGY_INTERVAL (R294): Each 1 ms interval energy is apportioned and the power limiter runs. -/
  | energyInterval (samples : List EnergySample) (pinW : Nat)
  /-- DELTA_ACTIVATE (R343): A verified delta version becomes ACTIVE at the next commit instant and the previous one SUPERSEDED. -/
  | deltaActivate (slot : Fin 65536)
  /-- DELTA_FREEING (R345): A superseded or retiring version with no pins becomes FREEING and its nodes are dropped. -/
  | deltaFreeing (slot : Fin 65536)
  /-- DELTA_SLOT_FREE (R345): After its last node is dropped the version slot and image space become FREE. -/
  | deltaSlotFree (slot : Fin 65536)
  /-- SHARD_MOVE_SWITCH (R376): When a copy round is small the coordinator copies the rest and sends the switch. -/
  | shardMoveSwitch (copied : Nat)
  /-- SHARD_MOVE_RELEASE (R376): After every member acknowledges the switch the old holder frees the shard. -/
  | shardMoveRelease
  /-- LINK_TRAINED (R349): Link training completes at full, half or no width. -/
  | linkTrained (l : Fin 36) (x : Training)
  /-- LINK_RETRAIN_TIMER (R351): Every 10 s a DOWN link is retrained. -/
  | linkRetrainTimer (l : Fin 36)
  /-- LANE_FAILURE (R352): A lane fails at runtime and its link retrains, keeping replay state. -/
  | laneFailure (l : Fin 36) (lane : Fin 5)
  /-- LINK_RETRAIN_END (R352): A retrain ends at full or half width, or DOWN with routes rebuilt. -/
  | linkRetrainEnd (l : Fin 36) (x : Training)
  /-- LINK_AUTH_ACCEPT (R370): Both ends accept each other's IDLE tags and the link becomes ACTIVE. -/
  | linkAuthAccept (l : Fin 36) (peerNode : BitVec 16) (peerLink : Fin 64)
  /-- LINK_AUTH_TIMEOUT (R370): A peer's tags fail for 100 ms and auth_alarm is set. -/
  | linkAuthTimeout (l : Fin 36)
  /-- DATA_FLIT (R365): A DATA flit is received and accepted in order or NAKed. -/
  | dataFlit (l : Fin 36) (f : Flit)
  /-- NAK (R365): A NAK flit makes the sender resend from the first unacknowledged flit. -/
  | nak (l : Fin 36) (ack : BitVec 40)
  /-- ACK_TIMEOUT (R365): No new ack within twice the round trip and the sender resends. -/
  | ackTimeout (l : Fin 36)
  /-- REKEY (R371): A REKEY flit is the last under the old key and the next uses the new epoch. -/
  | rekey (l : Fin 36)
  /-- EPOCH_ROLLOVER (R371): 2^40 flits under an epoch, or a retrain, increment epoch and send REKEY. -/
  | epochRollover (l : Fin 36)
  /-- LD_RECORD (R356): A LD record is checked, deduplicated and performed, answered with LD_RSP. -/
  | ldRecord (l : Fin 36) (r : Record)
  /-- ST_RECORD (R356): A ST record writes len bytes and is answered with ST_ACK. -/
  | stRecord (l : Fin 36) (r : Record)
  /-- ADD_RECORD (R356): An ADD record performs an atomic add and returns the old value. -/
  | addRecord (l : Fin 36) (r : Record)
  /-- MIN_RECORD (R356): A MIN record performs an atomic minimum. -/
  | minRecord (l : Fin 36) (r : Record)
  /-- MAX_RECORD (R356): A MAX record performs an atomic maximum. -/
  | maxRecord (l : Fin 36) (r : Record)
  /-- CAS_RECORD (R356): A CAS record performs a compare-and-swap. -/
  | casRecord (l : Fin 36) (r : Record)
  /-- MSG_RECORD (R357): A MSG record delivers 64 bytes to a firmware mailbox and is answered with MSG_ACK. -/
  | msgRecord (l : Fin 36) (r : Record)
  /-- LD_RSP (R366): A load response completes its outstanding request. -/
  | ldRsp (l : Fin 36) (r : Record)
  /-- ST_ACK (R366): A store acknowledgement completes its outstanding request. -/
  | stAck (l : Fin 36) (r : Record)
  /-- ATOM_RSP (R366): An atomic response returns the old value and completes the request. -/
  | atomRsp (l : Fin 36) (r : Record)
  /-- MSG_ACK (R366): A MSG acknowledgement completes the message request. -/
  | msgAck (l : Fin 36) (r : Record)
  /-- E2E_TIMEOUT (R366): A fabric request's timer expires and it is retried or ends with ST_FAB_TIMEOUT. -/
  | e2eTimeout (dst : BitVec 16) (tid : BitVec 32)
  /-- MEMBER_FAILED_MARK (R374): A timed-out member answers nothing for e2e_to_us and is marked failed. -/
  | memberFailedMark (node : BitVec 16)
  /-- COLLECTIVE_END (R373): A collective completes, possibly partial, and arrival lags feed straggler detection. -/
  | collectiveEnd (c : Collective) (ring : List (BitVec 16)) (parts : List (BitVec 16 × Nat × List (BitVec 32)))
  /-- PEER_SNAPSHOT (R379): Writing PEER_SEL snap latches the selected peer's latency and counts. -/
  | peerSnapshot (wr : Writer) (node : BitVec 16)
  /-- SQ_TAIL_DOORBELL (R384): Host writes sq_tail, making new submission entries available or setting db_err. -/
  | sqTailDoorbell (r : RingAt) (tail : BitVec 32)
  /-- CQ_HEAD_DOORBELL (R384): Host writes cq_head, freeing completion slots or setting db_err. -/
  | cqHeadDoorbell (r : RingAt) (head : BitVec 32)
  /-- RING_CONFIG_WRITE (R383): A ring configuration write enables, disables or is refused. -/
  | ringConfigWrite (r : RingAt) (value : Word)
  /-- NOTICE_POST (R385): A waiting notice entry is posted when a CQ slot beyond the reservations frees. -/
  | noticePost (r : RingName)
  /-- COAL_TIMER_EXPIRY (R387): coal_us passes since the first unsignalled entry and the MSI-X vector fires. -/
  | coalTimerExpiry (r : RingName)
  /-- GENERATE (R392): Admitting command that creates one or more sequences. -/
  | generate (s : Fin 4096) (r : Fin 16) (e : Entry)
  /-- CANCEL (R391): Marks a sequence or its command's sequences for cancellation. -/
  | cancel (s : Fin 4096) (r : Fin 16) (e : Entry)
  /-- FREEZE_SEQ (R391): Freezes a sequence with cause 7. -/
  | freezeSeq (s : Fin 4096) (r : Fin 16) (e : Entry)
  /-- THAW (R277): Returns a frozen sequence to its resume state, optionally permitting peer spill. -/
  | thaw (s : Fin 4096) (r : Fin 16) (e : Entry)
  /-- QUERY_SEQ (R391): Writes the sequence entry and speculation record to host memory. -/
  | querySeq (s : Fin 4096) (r : Fin 16) (e : Entry)
  /-- COPY (R391): Copies data between host memory and a global device address. -/
  | copy (s : Fin 4096) (r : Fin 16) (e : Entry)
  /-- REGION_SET (R209): Sets a region descriptor, taking effect at the next commit instant. -/
  | regionSet (s : Fin 4096) (r : Fin 16) (e : Entry)
  /-- ACCT_READ (R391): Writes the slice's 12 counters to host memory. -/
  | acctRead (s : Fin 4096) (r : Fin 16) (e : Entry)
  /-- DELTA_LOAD (R343): Loads and verifies a delta image into a version slot. -/
  | deltaLoad (s : Fin 4096) (r : Fin 16) (e : Entry)
  /-- DELTA_RETIRE (R346): Retires a version slot, optionally forcing cancellation of pinned sequences. -/
  | deltaRetire (s : Fin 4096) (r : Fin 16) (e : Entry)
  /-- DELTA_QUERY (R391): Writes a version slot's record to host memory. -/
  | deltaQuery (s : Fin 4096) (r : Fin 16) (e : Entry)
  /-- NOP (R391): Slice command that completes with no effect. -/
  | nop (s : Fin 4096) (r : Fin 16) (e : Entry)
  /-- SLICE_BIND (R382): Binds a slice to a function and PASID and returns a resume cookie. -/
  | sliceBind (e : Entry)
  /-- SLICE_UNBIND (R404): Scrubs a slice at once. -/
  | sliceUnbind (e : Entry)
  /-- SLICE_FREEZE (R405): Stops admission for a slice, freezes its sequences and saves live state. -/
  | sliceFreeze (e : Entry)
  /-- SLICE_FREEZE_COMPLETE (R405): Every sequence is frozen and every save has ended, completing SLICE_FREEZE. -/
  | sliceFreezeComplete (x : FreezeEnd)
  /-- SLICE_THAW (R395): Returns a frozen slice to ACTIVE and thaws cause-1 sequences. -/
  | sliceThaw (e : Entry)
  /-- SLICE_SAVE (R406): Writes a sealed image of a frozen slice to host memory. -/
  | sliceSave (e : Entry)
  /-- SLICE_RESTORE (R407): `img` is what the image says where it verifies. Checks an image and restores a slice with frozen sequences and new handles. -/
  | sliceRestore (e : Entry) (img : Option SliceImage)
  /-- GROUP_CREATE (R395): Creates a sharing group. -/
  | groupCreate (e : Entry)
  /-- GROUP_ADD_SLICE (R395): Adds a slice to a sharing group. -/
  | groupAddSlice (e : Entry)
  /-- GROUP_REMOVE_SLICE (R395): Removes a slice from a sharing group. -/
  | groupRemoveSlice (e : Entry)
  /-- GROUP_DISSOLVE (R319): Dissolves a sharing group, dropping its nodes. -/
  | groupDissolve (e : Entry)
  /-- MODEL_LOAD (R396): Loads and checks a model package. -/
  | modelLoad (e : Entry) (body : ModelBody)
  /-- MODEL_UNLOAD (R395): Unloads a model unless it is referred to. -/
  | modelUnload (e : Entry)
  /-- CELL_LOCK (R241): CELL_CTRL lock schedules a cell lock at a frame boundary. -/
  | cellLock (e : Entry)
  /-- CELL_UNLOCK (R241): CELL_CTRL unlock schedules a cell unlock at a frame boundary. -/
  | cellUnlock (e : Entry)
  /-- CELL_PRIORITY (R244): CELL_CTRL sets a cell's priority from the next commit instant. -/
  | cellPriority (e : Entry)
  /-- CELL_TX_ATTEN (R244): CELL_CTRL sets tx_atten from the next frame boundary. -/
  | cellTxAtten (e : Entry)
  /-- CELL_STATUS (R397): Writes the 48-byte cell status record to host memory. -/
  | cellStatus (e : Entry)
  /-- DOMAIN_JOIN (R361): Gives the device its node ID and domain key. -/
  | domainJoin (e : Entry)
  /-- DOMAIN_LIST_ADD (R361): Adds node IDs to the member, spare or cache-peer list. -/
  | domainListAdd (e : Entry)
  /-- DOMAIN_LIST_REMOVE (R361): Removes node IDs from a list, applying the lost-member rules. -/
  | domainListRemove (e : Entry)
  /-- ROUTE_SET (R362): Writes fabric route table entries. -/
  | routeSet (e : Entry)
  /-- NEGOTIATE (R399): Writing negotiate agrees the interface version and feature bitmap. -/
  | negotiate (x : PartyAt) (major minor : BitVec 8)
  /-- HEARTBEAT (R402): A write to hb restarts the slice's heartbeat watch. -/
  | heartbeat (x : SliceAt)
  /-- HEARTBEAT_TIMEOUT (R402): The heartbeat limit is exceeded and the slice becomes DETACHED. -/
  | heartbeatTimeout (s : Fin 4096)
  /-- CTL_HEARTBEAT_TIMEOUT (R402): The control function's heartbeat times out and an event is posted. -/
  | ctlHeartbeatTimeout
  /-- ATTACH (R403): Writing attach with a matching cookie reattaches a DETACHED slice. -/
  | attach (x : SliceAt)
  /-- GRACE_EXPIRY (R403): grace_s ends without an attach and the slice is scrubbed. -/
  | graceExpiry (s : Fin 4096)
  /-- SCRUB_END (R404): A scrub finishes, the slice key is replaced and the slice becomes UNBOUND. -/
  | scrubEnd (s : Fin 4096)
  /-- ACCT_SNAPSHOT (R296): Writing SRV.ACCT_SEL snap latches the selected slice's counters. -/
  | acctSnapshot (wr : Writer) (s : Fin 4096)
  /-- KV_SNAPSHOT (R321): Writing KV.MSEL snap latches the selected model's figures. -/
  | kvSnapshot (wr : Writer) (model : BitVec 16)
  /-- WD_KICK (R415): A processor reloads its watchdog. -/
  | wdKick (i : Fin 11)
  /-- WATCHDOG_EXPIRY (R415): A watchdog reaches zero and its processor crashes with cause 1. -/
  | watchdogExpiry (i : Fin 11)
  /-- FW_EXCEPTION (R415): A processor takes an unrecoverable exception and crashes with cause 2. -/
  | fwException (i : Fin 11)
  /-- FW_SRAM_UE (R415): An uncorrectable error in private SRAM crashes the processor with cause 3. -/
  | fwSramUe (i : Fin 11)
  /-- RESTART_TIMEOUT (R415): A restart fails to reach ready within 20 ms, a crash of cause 4. -/
  | restartTimeout (i : Fin 11)
  /-- FW_READY (R416): A restarted processor writes its ready mark and held commands run. -/
  | fwReady (i : Fin 11)
  /-- LEADERSHIP_PASS (R34): Leadership passes from a held-down coordinator at the new coordinator's step boundary. -/
  | leadershipPass
  /-- RELEASE (R421): Writing release clears crash history and restarts a held-down processor. -/
  | release (wr : Writer) (i : Fin 11)
  /-- RESTART_REQ (R421): Writing restart_req restarts a running processor. -/
  | restartReq (wr : Writer) (i : Fin 11)
  /-- BOOT_SLOT_WRITE (R425): Writing boot_slot rewrites the boot record. -/
  | bootSlotWrite (wr : Writer) (slot : Fin 2)
  /-- CONFIRM (R425): Writing confirm confirms the running trial slot. -/
  | confirm (wr : Writer)
  /-- STARTUP_STEP_1 (R431): 72 V in; PD49 reaches power-good and the restart controller leaves reset. -/
  | startupStep1 (ms : BitVec 16)
  /-- STARTUP_STEP_2 (R431): Cairn boots, derives the PUF identity and starts PCIe training. -/
  | startupStep2 (ms : BitVec 16) (helperOk pufOk : Bool)
  /-- STARTUP_STEP_3 (R431): The first-stage image of the boot slot is verified, with fallback. -/
  | startupStep3 (ms : BitVec 16)
  /-- STARTUP_STEP_4 (R431): DCR, defect map and entitlement are read and verified; TC and FC start; fronthaul trains. -/
  | startupStep4 (ms : BitVec 16) (d : Option Dcr) (dm0 dm1 : Option DefectMap)
  /-- STARTUP_STEP_5 (R431): DRAM channels power up and train. -/
  | startupStep5 (ms : BitVec 16) (up : List (Fin 24)) (capGib : BitVec 10) (rate : BitVec 8)
  /-- STARTUP_STEP_6 (R431): Cluster domains power up, self-tests run and logical maps are built. -/
  | startupStep6 (ms : BitVec 16) (x : SelfTest)
  /-- STARTUP_STEP_7 (R443): Clusters are started in waves. -/
  | startupStep7 (ms : BitVec 16)
  /-- CORE_WAVE (R443): A wave of clusters is unfenced and clocked after wave_gap_us. -/
  | coreWave (k : Fin 32) (ma : Nat)
  /-- WAVE_RETRY (R435): A wave that exceeded its current limit is retried after 10 ms. -/
  | waveRetry (k : Fin 32) (ma : Nat)
  /-- STARTUP_STEP_8 (R431): Ridgeline links train. -/
  | startupStep8 (ms : BitVec 16)
  /-- STARTUP_STEP_9 (R432): Time locks, ending at the step, lock_wait_s or at once in free-run. -/
  | startupStep9 (ms : BitVec 16)
  /-- STARTUP_STEP_10 (R444): Known-answer runs on every engine and spare. -/
  | startupStep10 (ms : BitVec 16) (fails : List PhysUnit)
  /-- STARTUP_STEP_11 (R434): The cell plan is proved, banks committed and Ready declared. -/
  | startupStep11 (ms : BitVec 16) (radio hold : List BankImage)
  /-- DEV_RST (R456): Writing dev_rst requests an orderly whole-device reset. -/
  | devRst (wr : Writer) (warm : Bool)
  /-- WHOLE_DEVICE_RESET (R456): After orderly shutdown, or immediately, the whole device resets. -/
  | wholeDeviceReset
  /-- PERST_ASSERT (R510): PERST# assertion causes an immediate whole-device reset. -/
  | perstAssert
  /-- RESET_N_ASSERT (R510): RESET_N assertion causes an immediate whole-device reset. -/
  | resetNAssert
  /-- RESET_DEASSERT (R510): RESET_N and PERST# both deasserted and start-up begins at step 2. -/
  | resetDeassert (perst : Bool)
  /-- PART_RST (R454): Writing part_rst starts a partition reset or is refused. -/
  | partRst (wr : Writer) (p : Fin 8) (force : Bool)
  /-- CL_RST (R451): Writing cl_rst starts a cluster reset or is refused. -/
  | clRst (wr : Writer) (cl : Fin 32)
  /-- RESET_PHASE_END (R454): A partition or cluster reset phase ends and the next begins. -/
  | resetPhaseEnd (p : Fin 8) (cl : Option (Fin 4)) (fails : List PhysUnit)
  /-- CORE_RST (R451): Writing core_rst resets the core behind a logical name. -/
  | coreRst (wr : Writer) (n : Fin 128)
  /-- SPUR_RST (R451): Writing spur_rst resets the Spur core behind a logical name. -/
  | spurRst (wr : Writer) (n : Fin 512)
  /-- SLOT_RST (R459): Writing slot_rst resets a physical core slot or is refused. -/
  | slotRst (wr : Writer) (cl : Fin 32) (k : Fin 8)
  /-- POS_RST (R459): Writing pos_rst resets a physical Spur position or is refused. -/
  | posRst (wr : Writer) (cl : Fin 32) (k : Fin 32)
  /-- DEFECT_MAP_WRITE (R446): Cairn writes the defect map with gen + 1 over the older copy. -/
  | defectMapWrite
  /-- POWER_DOMAIN_SWITCH_ON (R42): Cairn switches on a power domain, restoring routes before clusters. -/
  | powerDomainSwitchOn (d : Fin 50)
  /-- POWER_DOMAIN_SWITCH_OFF (R457): Cairn re-steers routes, drains routers and removes a domain's power. -/
  | powerDomainSwitchOff (d : Fin 50)
  /-- GET_VERSION (R475): SPDM GET_VERSION request. -/
  | getVersion (b : Fin 2)
  /-- GET_CAPABILITIES (R475): SPDM GET_CAPABILITIES request. -/
  | getCapabilities (b : Fin 2)
  /-- NEGOTIATE_ALGORITHMS (R475): SPDM NEGOTIATE_ALGORITHMS request. -/
  | negotiateAlgorithms (b : Fin 2) (ed25519 sha512 : Bool)
  /-- GET_DIGESTS (R475): SPDM GET_DIGESTS request. -/
  | getDigests (b : Fin 2)
  /-- GET_CERTIFICATE (R475): SPDM GET_CERTIFICATE request. -/
  | getCertificate (b : Fin 2) (slot : Fin 8) (off len : BitVec 16)
  /-- CHALLENGE (R475): SPDM CHALLENGE request, answered with a signed response. -/
  | challenge (b : Fin 2) (slot : Fin 8) (nonce : BitVec 256)
  /-- GET_MEASUREMENTS (R477): SPDM GET_MEASUREMENTS request returning measurements taken at one instant. -/
  | getMeasurements (b : Fin 2) (index : BitVec 8) (sign : Bool) (nonce : BitVec 256)
  /-- VENDOR_MLDSA_SIGNATURE (R476): Vendor request 0x01 returns the ML-DSA-65 signature of the last signed response. -/
  | vendorMldsaSignature (b : Fin 2)
  /-- VENDOR_MLDSA_CHAIN (R476): Vendor request 0x02 returns the ML-DSA-65 chain. -/
  | vendorMldsaChain (b : Fin 2) (off len : BitVec 16)
  /-- MCTP_CONTROL (R491): An MCTP control message to Cairn's endpoint. -/
  | mctpControl (b : Fin 2) (setEid : Option (BitVec 8))
  /-- PLDM_MONITORING (R491): A PLDM platform monitoring request reads sensors. -/
  | pldmMonitoring (b : Fin 2) (sensor : BitVec 16)
  /-- REQUEST_UPDATE (R493): PLDM RequestUpdate opens the single update session or is refused. -/
  | requestUpdate (b : Fin 2)
  /-- PLDM_COMPONENT_IMAGE (R492): A whole image is checked and written to the inactive slot. -/
  | pldmComponentImage (b : Fin 2) (img : SlotImage) (sigOk writeOk : Bool)
  /-- PLDM_COMPONENT_SECTION (R423): A firmware section is verified and applied as a live update. -/
  | pldmComponentSection (b : Fin 2) (sec : SectionImage)
  /-- PLDM_COMPONENT_DCR (R492): A DCR is checked and written to the copy not in use. -/
  | pldmComponentDcr (b : Fin 2) (d : Dcr) (writeOk : Bool)
  /-- HELLO (R480): Debug HELLO returns the device ID, state and a fresh nonce. -/
  | hello (seq : Byte)
  /-- UNLOCK (R481): Debug UNLOCK checks a token and zeroises before unlocking. -/
  | unlock (seq : Byte) (t : DebugToken)
  /-- LOCK (R483): Debug LOCK returns the port to LOCKED. -/
  | lock (seq : Byte)
  /-- STATUS (R480): Debug STATUS returns a target's state and pc. -/
  | status (seq : Byte) (tgt : BitVec 16)
  /-- SPEED (R478): Debug SPEED selects a new baud rate after its response. -/
  | speed (seq : Byte) (code : Byte)
  /-- DEBUG_HALT (R484): Debug HALT halts a firmware processor or Spur thread. -/
  | debugHalt (seq : Byte) (tgt : BitVec 16)
  /-- RESUME (R480): Debug RESUME resumes a halted target. -/
  | resume (seq : Byte) (tgt : BitVec 16)
  /-- STEP (R480): Debug STEP steps a halted target by count instructions. -/
  | step (seq : Byte) (tgt : BitVec 16) (count : BitVec 16)
  /-- BP_SET (R484): Debug BP_SET sets a breakpoint. -/
  | bpSet (seq : Byte) (tgt : BitVec 16) (index mask : Byte) (addr : Word)
  /-- BP_CLR (R480): Debug BP_CLR clears a breakpoint. -/
  | bpClr (seq : Byte) (tgt : BitVec 16) (index : Byte)
  /-- REG_RD (R484): Debug REG_RD reads a target register. -/
  | regRd (seq : Byte) (tgt : BitVec 16) (reg : BitVec 16)
  /-- REG_WR (R484): Debug REG_WR writes a target register. -/
  | regWr (seq : Byte) (tgt : BitVec 16) (reg : BitVec 16) (value : BitVec 128)
  /-- MEM_RD (R485): Debug MEM_RD reads device memory in mode 0 or 1. -/
  | memRd (seq : Byte) (addr : Word) (len : BitVec 16) (mode : Byte)
  /-- MEM_WR (R485): Debug MEM_WR writes device memory. -/
  | memWr (seq : Byte) (addr : Word) (mode : Byte) (data : List Byte)
  /-- LOCKOUT_EXPIRY (R481): The 60 s debug LOCKOUT ends. -/
  | lockoutExpiry
  /-- SENSOR_SAMPLE (R486): Cairn samples temperature points each ms. -/
  | sensorSample (temps : List (BitVec 16)) (pd : List (Fin 50 × Nat × Nat)) (vinMv iinMa : Nat)
  /-- POWER_CLAMP (R504): Input power above 3,150 W over 100 µs sets the clamp and aborts open work. -/
  | powerClamp (meanW : Nat) (ns : Fin 125000)
  /-- THERMAL_CLAMP (R504): A point at 105 °C sets the clamp and aborts open work. -/
  | thermalClamp (point : Fin 210) (temp : BitVec 16) (ns : Fin 125000)
  /-- CLAMP_CLEAR (R504): A clamp's clear condition holds and open work resumes at half share for 8 ticks. -/
  | clampClear (x : ClampReading)
  /-- THERMAL_TRIP (R505): A point at 115 °C switches off PD00–PD48 and drives FAULT_N. -/
  | thermalTrip (point : Fin 210) (temp : BitVec 16)
  /-- INPUT_OVERCURRENT_TRIP (R505): Input current above 60 A for 20 µs trips the device. -/
  | inputOvercurrentTrip (ma : Nat)
  /-- DOMAIN_OVERCURRENT_TRIP (R505): A domain above its trip current trips the device. -/
  | domainOvercurrentTrip (d : Fin 50) (ma : Nat)
  /-- CONVERTER_FAULT (R500): A stage-1 converter faults and the effective p_lim falls to 2,400 W. -/
  | converterFault (c : Fin 4)
  /-- UNDER_VOLTAGE (R503): Input below 55 V for 1 ms switches every domain off. -/
  | underVoltage (mv : Nat)
  /-- OVER_VOLTAGE (R503): Input above 84 V for 100 µs switches every domain off. -/
  | overVoltage (mv : Nat)
  /-- EVENT_LOG_NOR_WRITE (R489): Cairn writes queued event records to the NOR log. -/
  | eventLogNorWrite (ok : Bool)
  /-- PPS_IN_TIMEOUT (R62): When no 1PPS input edge has been seen for 1.5 s, pps_in_present clears. With src_sel = 1 the selected source is lost and the servo enters HOLDOVER or FREERUN, and on the MXD1-I src_sel reads 2. -/
  | ppsInTimeout
  /-- CORE_RESET_END (R451): A core-level reset, or a physical slot or position reset, completes within 3 ms. The unit returns to service, or becomes the cluster spare, if it passes the tests, and rst_busy or phys_busy clears. -/
  | coreResetEnd (u : UnitName) (passes : Bool)
  /-- DEBUG_FRAME_ERROR (R479): A debug-port frame with a bad sync, a bad CRC or plen above 4,096 is dropped without a response and crc_err rises. The port then resynchronises on the first 0xA5 after 20 bit times of idle line. -/
  | debugFrameError
  /-- IDLE_FLIT (R365): An IDLE flit received on a link carries ack and credit returns that release replay-buffer entries and restore buffer credits. -/
  | idleFlit (l : Fin 36) (f : Flit)
  /-- PTP_REQUEST_RECEIVED (R59): On a master port, TC receives a Delay_Req or Pdelay_Req, or a G.8275.2 unicast negotiation message, from a downstream clock and answers it. -/
  | ptpRequestReceived (port : Fin 8) (sub : Fin 4) (kind : Fin 16)
  /-- ESMC_TX (R61): TC sends an ESMC message carrying the device's own quality level on each other enabled port. -/
  | esmcTx
  deriving DecidableEq, Repr

end Sys2Proof
end

