-- ==== Sys2Proof/Decode.lean ====
section
/-! DEFINITION. Decoding. The command table gives no bits to any row, so no word spells a command. The Spur instructions,
which the device itself decodes, have the 32-bit encodings of R158, R159 and R188: their encoder and decoder stand here. -/

namespace Sys2Proof

/-- The command that a word of the command table spells: the table gives no bits to any row. -/
def decodeTableWord (_nbits _w : Nat) : Option Instr := none

/-! ## Formats (R158, R188) -/

def encR (op rd rs1 rs2 sub sh : Nat) : Nat :=
  op * 2 ^ 26 + rd * 2 ^ 21 + rs1 * 2 ^ 16 + rs2 * 2 ^ 11 + sub * 2 ^ 6 + sh
def encI (op rd rs1 imm : Nat) : Nat := op * 2 ^ 26 + rd * 2 ^ 21 + rs1 * 2 ^ 16 + imm
def encM (op rt an am sz sx off : Nat) : Nat :=
  op * 2 ^ 26 + rt * 2 ^ 21 + an * 2 ^ 18 + am * 2 ^ 16 + sz * 2 ^ 14 + sx * 2 ^ 13 + off
def encF (rt ra rb aop sz8 : Nat) : Nat :=
  0x11 * 2 ^ 26 + rt * 2 ^ 21 + ra * 2 ^ 16 + rb * 2 ^ 11 + aop * 2 ^ 8 + sz8 * 2 ^ 7
def encMac (op ad gs1 gs2 fn hi1 hi2 frac bc : Nat) : Nat :=
  op * 2 ^ 26 + ad * 2 ^ 24 + gs1 * 2 ^ 19 + gs2 * 2 ^ 14 + fn * 2 ^ 11 + hi1 * 2 ^ 10 + hi2 * 2 ^ 9 + frac * 2 ^ 8 + bc * 2 ^ 7
def encAcc (ad asrc fn wide amt : Nat) : Nat :=
  0x34 * 2 ^ 26 + ad * 2 ^ 24 + asrc * 2 ^ 22 + fn * 2 ^ 19 + wide * 2 ^ 18 + amt
def encCb (i fn ga gb j : Nat) : Nat :=
  0x38 * 2 ^ 26 + i * 2 ^ 23 + fn * 2 ^ 20 + ga * 2 ^ 15 + gb * 2 ^ 10 + j * 2 ^ 8

/-- Formats that CVT supports (R158). -/
def cvtCode (f : Nat) : Bool := f ≤ 10 || (16 ≤ f && f ≤ 18)

/-- The word of a Spur instruction; nothing for other commands and for operand combinations that no word spells. -/
def encodeSpur : Instr → Option Nat
  | .spurNop _ => some (encR 0x00 0 0 0 0 0)
  | .halt _ => some (encR 0x00 0 0 0 1 0)
  | .yield _ => some (encR 0x00 0 0 0 2 0)
  | .fence _ => some (encR 0x00 0 0 0 3 0)
  | .cflush _ => some (encR 0x00 0 0 0 6 0)
  | .cwb _ rs1 => some (encR 0x00 0 rs1.val 0 4 0)
  | .cinv _ rs1 => some (encR 0x00 0 rs1.val 0 5 0)
  | .mfs _ rd sr => some (encR 0x00 rd.val 0 sr.val 7 0)
  | .mts _ sr rs1 => some (encR 0x00 0 rs1.val sr.val 8 0)
  | .add _ rd rs1 rs2 => some (encR 0x01 rd.val rs1.val rs2.val 0 0)
  | .sub _ rd rs1 rs2 => some (encR 0x01 rd.val rs1.val rs2.val 1 0)
  | .and _ rd rs1 rs2 => some (encR 0x01 rd.val rs1.val rs2.val 2 0)
  | .or _ rd rs1 rs2 => some (encR 0x01 rd.val rs1.val rs2.val 3 0)
  | .xor _ rd rs1 rs2 => some (encR 0x01 rd.val rs1.val rs2.val 4 0)
  | .sll _ rd rs1 rs2 => some (encR 0x01 rd.val rs1.val rs2.val 5 0)
  | .srl _ rd rs1 rs2 => some (encR 0x01 rd.val rs1.val rs2.val 6 0)
  | .sra _ rd rs1 rs2 => some (encR 0x01 rd.val rs1.val rs2.val 7 0)
  | .slli _ rd rs1 sh => some (encR 0x01 rd.val rs1.val 0 8 sh.val)
  | .srli _ rd rs1 sh => some (encR 0x01 rd.val rs1.val 0 9 sh.val)
  | .srai _ rd rs1 sh => some (encR 0x01 rd.val rs1.val 0 10 sh.val)
  | .slt _ rd rs1 rs2 => some (encR 0x01 rd.val rs1.val rs2.val 11 0)
  | .sltu _ rd rs1 rs2 => some (encR 0x01 rd.val rs1.val rs2.val 12 0)
  | .mul _ rd rs1 rs2 => some (encR 0x01 rd.val rs1.val rs2.val 13 0)
  | .mulh _ rd rs1 rs2 => some (encR 0x01 rd.val rs1.val rs2.val 14 0)
  | .mulhu _ rd rs1 rs2 => some (encR 0x01 rd.val rs1.val rs2.val 15 0)
  | .min _ rd rs1 rs2 => some (encR 0x01 rd.val rs1.val rs2.val 16 0)
  | .max _ rd rs1 rs2 => some (encR 0x01 rd.val rs1.val rs2.val 17 0)
  | .minu _ rd rs1 rs2 => some (encR 0x01 rd.val rs1.val rs2.val 18 0)
  | .maxu _ rd rs1 rs2 => some (encR 0x01 rd.val rs1.val rs2.val 19 0)
  | .clz _ rd rs1 => some (encR 0x01 rd.val rs1.val 0 20 0)
  | .popc _ rd rs1 => some (encR 0x01 rd.val rs1.val 0 21 0)
  | .bswap _ rd rs1 => some (encR 0x01 rd.val rs1.val 0 22 0)
  | .addi _ rd rs1 imm => some (encI 0x02 rd.val rs1.val imm.toNat)
  | .andi _ rd rs1 imm => some (encI 0x03 rd.val rs1.val imm.toNat)
  | .ori _ rd rs1 imm => some (encI 0x04 rd.val rs1.val imm.toNat)
  | .xori _ rd rs1 imm => some (encI 0x05 rd.val rs1.val imm.toNat)
  | .jalr _ rd rs1 imm => some (encI 0x17 rd.val rs1.val imm.toNat)
  | .lui _ rd imm => some (encI 0x06 rd.val 0 imm.toNat)
  | .ld _ rt an am sz sx off => some (encM 0x08 rt.val an.val am.val sz.val (b2n sx) off.toNat)
  | .st _ rt an am sz off => some (encM 0x09 rt.val an.val am.val sz.val 0 off.toNat)
  | .movaToA _ ad rs1 => some (encR 0x0C ad.val rs1.val 0 0 0)
  | .movaFromA _ rd an => some (encR 0x0C rd.val an.val 0 1 0)
  | .adda _ ad an imm => some (encI 0x0D ad.val an.val imm.toNat)
  | .atomAdd _ rd an rs2 dbl => some (encR 0x10 rd.val an.val rs2.val (0 + 8 * b2n dbl) 0)
  | .atomMin _ rd an rs2 dbl sgn => some (encR 0x10 rd.val an.val rs2.val (1 + 8 * b2n dbl + 16 * b2n sgn) 0)
  | .atomMax _ rd an rs2 dbl sgn => some (encR 0x10 rd.val an.val rs2.val (2 + 8 * b2n dbl + 16 * b2n sgn) 0)
  | .atomCas _ rd an rs2 dbl sgn => if sgn then none else some (encR 0x10 rd.val an.val rs2.val (3 + 8 * b2n dbl) 0)
  | .fld _ rt ra sz8 => some (encF rt.val ra.val 0 0 (b2n sz8))
  | .fst _ rt ra sz8 => some (encF rt.val ra.val 0 1 (b2n sz8))
  | .fabAdd _ rt ra sz8 => some (encF rt.val ra.val 0 2 (b2n sz8))
  | .fabMin _ rt ra sz8 => some (encF rt.val ra.val 0 3 (b2n sz8))
  | .fabMax _ rt ra sz8 => some (encF rt.val ra.val 0 4 (b2n sz8))
  | .fabCas _ rt ra rb sz8 => some (encF rt.val ra.val rb.val 5 (b2n sz8))
  | .br _ rs1 rs2 cond off => some (0x14 * 2 ^ 26 + rs1.val * 2 ^ 21 + rs2.val * 2 ^ 16 + cond.val * 2 ^ 13 + off.toNat)
  | .j _ off => some (0x15 * 2 ^ 26 + off.toNat)
  | .jal _ off => some (0x16 * 2 ^ 26 + off.toNat)
  | .cvt _ rd rs1 sfmt dfmt rnd => if cvtCode sfmt.val && cvtCode dfmt.val then some (encR 0x1C rd.val rs1.val dfmt.val sfmt.val (b2n rnd)) else none
  | .cmul _ ad gs1 gs2 hi1 hi2 frac => some (encMac 0x30 ad.val gs1.val gs2.val 0 (b2n hi1) (b2n hi2) (b2n frac) 0)
  | .cmac _ ad gs1 gs2 hi1 hi2 frac => some (encMac 0x30 ad.val gs1.val gs2.val 1 (b2n hi1) (b2n hi2) (b2n frac) 0)
  | .cmsu _ ad gs1 gs2 hi1 hi2 frac => some (encMac 0x30 ad.val gs1.val gs2.val 2 (b2n hi1) (b2n hi2) (b2n frac) 0)
  | .cmulj _ ad gs1 gs2 hi1 hi2 frac => some (encMac 0x30 ad.val gs1.val gs2.val 3 (b2n hi1) (b2n hi2) (b2n frac) 0)
  | .cmacj _ ad gs1 gs2 hi1 hi2 frac => some (encMac 0x30 ad.val gs1.val gs2.val 4 (b2n hi1) (b2n hi2) (b2n frac) 0)
  | .cmsuj _ ad gs1 gs2 hi1 hi2 frac => some (encMac 0x30 ad.val gs1.val gs2.val 5 (b2n hi1) (b2n hi2) (b2n frac) 0)
  | .rmacMul _ ad gs1 gs2 hi1 hi2 frac bc => some (encMac 0x31 ad.val gs1.val gs2.val 0 (b2n hi1) (b2n hi2) (b2n frac) (b2n bc))
  | .rmacMac _ ad gs1 gs2 hi1 hi2 frac bc => some (encMac 0x31 ad.val gs1.val gs2.val 1 (b2n hi1) (b2n hi2) (b2n frac) (b2n bc))
  | .rmacMsu _ ad gs1 gs2 hi1 hi2 frac bc => some (encMac 0x31 ad.val gs1.val gs2.val 2 (b2n hi1) (b2n hi2) (b2n frac) (b2n bc))
  | .wmacMul _ ad gs1 gs2 hi1 hi2 frac => some (encMac 0x32 ad.val gs1.val gs2.val 0 (b2n hi1) (b2n hi2) (b2n frac) 0)
  | .wmacMac _ ad gs1 gs2 hi1 hi2 frac => some (encMac 0x32 ad.val gs1.val gs2.val 1 (b2n hi1) (b2n hi2) (b2n frac) 0)
  | .wmacMsu _ ad gs1 gs2 hi1 hi2 frac => some (encMac 0x32 ad.val gs1.val gs2.val 2 (b2n hi1) (b2n hi2) (b2n frac) 0)
  | .ftap _ ad ax ah typ mx mh mv neg frac dual =>
    if ax = ah || (mv && dual) then none
    else some (0x33 * 2 ^ 26 + ad.val * 2 ^ 24 + ax.val * 2 ^ 21 + ah.val * 2 ^ 18 + typ.val * 2 ^ 16 + mx.val * 2 ^ 14 +
      mh.val * 2 ^ 12 + b2n mv * 2 ^ 11 + b2n neg * 2 ^ 10 + b2n frac * 2 ^ 9 + b2n dual * 2 ^ 8)
  | .accClr _ ad wide => some (encAcc ad.val 0 0 (b2n wide) 0)
  | .accMov _ ad asrc wide => some (encAcc ad.val asrc.val 1 (b2n wide) 0)
  | .accAdd _ ad asrc wide => some (encAcc ad.val asrc.val 2 (b2n wide) 0)
  | .accNeg _ ad wide => some (encAcc ad.val 0 3 (b2n wide) 0)
  | .accShl _ ad wide amt => some (encAcc ad.val 0 4 (b2n wide) amt.val)
  | .accShr _ ad wide amt => some (encAcc ad.val 0 5 (b2n wide) amt.val)
  | .accSwap _ ad wide => if wide then none else some (encAcc ad.val 0 6 0 0)
  | .accConj _ ad wide => if wide then none else some (encAcc ad.val 0 7 0 0)
  | .stac _ ad an am fmt rm sh off =>
    if fmt.val ≥ 6 || am.val = 3 then none
    else some (0x35 * 2 ^ 26 + ad.val * 2 ^ 24 + an.val * 2 ^ 21 + am.val * 2 ^ 19 + fmt.val * 2 ^ 16 + b2n rm * 2 ^ 15 +
      sh.val * 2 ^ 9 + off.toNat)
  | .mvac _ ad g fmt rm sh => some (0x36 * 2 ^ 26 + ad.val * 2 ^ 24 + g.val * 2 ^ 19 + 0 * 2 ^ 18 + fmt.val * 2 ^ 15 + b2n rm * 2 ^ 14 + sh.val * 2 ^ 8)
  | .mtac _ ad g fmt rm sh => some (0x36 * 2 ^ 26 + ad.val * 2 ^ 24 + g.val * 2 ^ 19 + 1 * 2 ^ 18 + fmt.val * 2 ^ 15 + b2n rm * 2 ^ 14 + sh.val * 2 ^ 8)
  | .rpt _ lv src count gc len =>
    if src then (if count = 0 then some (0x37 * 2 ^ 26 + lv.val * 2 ^ 24 + 2 ^ 23 + gc.val * 2 ^ 18 + len.toNat) else none)
    else if gc = 0 then some (0x37 * 2 ^ 26 + lv.val * 2 ^ 24 + count.toNat * 2 ^ 12 + len.toNat) else none
  | .cbset _ i ga gb => some (encCb i.val 0 ga.val gb.val 0)
  | .mtcb _ i ga => some (encCb i.val 1 ga.val 0 0)
  | .mtcl _ i ga => some (encCb i.val 2 ga.val 0 0)
  | .mfcb _ i ga => some (encCb i.val 3 ga.val 0 0)
  | .mfcl _ i ga => some (encCb i.val 4 ga.val 0 0)
  | .cbget _ i j => some (encCb i.val 5 0 0 j.val)
  | .mtlc _ lv ga => some (encCb 0 6 ga.val 0 lv.val)
  | .mflc _ lv ga => some (encCb 0 7 ga.val 0 lv.val)
  | _ => none

/-- A 5-bit field as a register number. -/
def reg5 (v : Nat) : Fin 32 := Fin.ofNat 32 v
/-- A 3-bit field as an address register number. -/
def reg3 (v : Nat) : Fin 8 := Fin.ofNat 8 v
/-- A 2-bit field. -/
def sel2 (v : Nat) : Fin 4 := Fin.ofNat 4 v

/-- Opcode 0x00 (SYS): unused fields are zero. -/
def decSys (th : Fin 4096) (rd rs1 rs2 sub sh : Nat) : Option Instr :=
  if sh ≠ 0 then none
  else if sub ≤ 3 ∨ sub = 6 then
    if rd ≠ 0 ∨ rs1 ≠ 0 ∨ rs2 ≠ 0 then none
    else match sub with
      | 0 => some (.spurNop th)
      | 1 => some (.halt th)
      | 2 => some (.yield th)
      | 3 => some (.fence th)
      | _ => some (.cflush th)
  else if sub = 4 then (if rd = 0 ∧ rs2 = 0 then some (.cwb th (reg5 rs1)) else none)
  else if sub = 5 then (if rd = 0 ∧ rs2 = 0 then some (.cinv th (reg5 rs1)) else none)
  else if sub = 7 then (if rs1 = 0 then some (.mfs th (reg5 rd) (reg5 rs2)) else none)
  else if sub = 8 then (if rd = 0 then some (.mts th (reg5 rs2) (reg5 rs1)) else none)
  else none

/-- Opcode 0x01 (ALU, R159). -/
def decAlu (th : Fin 4096) (rd rs1 rs2 sub sh : Nat) : Option Instr :=
  let d := reg5 rd
  let a := reg5 rs1
  let b := reg5 rs2
  if 8 ≤ sub ∧ sub ≤ 10 then
    if rs2 ≠ 0 then none
    else match sub with
      | 8 => some (.slli th d a (Fin.ofNat 64 sh))
      | 9 => some (.srli th d a (Fin.ofNat 64 sh))
      | _ => some (.srai th d a (Fin.ofNat 64 sh))
  else if sh ≠ 0 then none
  else match sub with
    | 0 => some (.add th d a b)
    | 1 => some (.sub th d a b)
    | 2 => some (.and th d a b)
    | 3 => some (.or th d a b)
    | 4 => some (.xor th d a b)
    | 5 => some (.sll th d a b)
    | 6 => some (.srl th d a b)
    | 7 => some (.sra th d a b)
    | 11 => some (.slt th d a b)
    | 12 => some (.sltu th d a b)
    | 13 => some (.mul th d a b)
    | 14 => some (.mulh th d a b)
    | 15 => some (.mulhu th d a b)
    | 16 => some (.min th d a b)
    | 17 => some (.max th d a b)
    | 18 => some (.minu th d a b)
    | 19 => some (.maxu th d a b)
    | 20 => if rs2 = 0 then some (.clz th d a) else none
    | 21 => if rs2 = 0 then some (.popc th d a) else none
    | 22 => if rs2 = 0 then some (.bswap th d a) else none
    | _ => none

/-- Opcode 0x10 (ATOM): `sub` [2:0] operation, [3] size, [4] signed. -/
def decAtom (th : Fin 4096) (rd rs1 rs2 sub sh : Nat) : Option Instr :=
  if sh ≠ 0 ∨ 8 ≤ rs1 then none
  else
    let dbl := bit sub 3
    let sgn := bit sub 4
    match sub % 8 with
    | 0 => if sgn then none else some (.atomAdd th (reg5 rd) (reg3 rs1) (reg5 rs2) dbl)
    | 1 => some (.atomMin th (reg5 rd) (reg3 rs1) (reg5 rs2) dbl sgn)
    | 2 => some (.atomMax th (reg5 rd) (reg3 rs1) (reg5 rs2) dbl sgn)
    | 3 => if sgn then none else some (.atomCas th (reg5 rd) (reg3 rs1) (reg5 rs2) dbl false)
    | _ => none

/-- Opcode 0x11 (FAB). -/
def decFab (th : Fin 4096) (rt ra rb aop : Nat) (sz8 : Bool) (low : Nat) : Option Instr :=
  if low ≠ 0 ∨ (aop ≠ 5 ∧ rb ≠ 0) then none
  else match aop with
    | 0 => some (.fld th (reg5 rt) (reg5 ra) sz8)
    | 1 => some (.fst th (reg5 rt) (reg5 ra) sz8)
    | 2 => some (.fabAdd th (reg5 rt) (reg5 ra) sz8)
    | 3 => some (.fabMin th (reg5 rt) (reg5 ra) sz8)
    | 4 => some (.fabMax th (reg5 rt) (reg5 ra) sz8)
    | 5 => some (.fabCas th (reg5 rt) (reg5 ra) (reg5 rb) sz8)
    | _ => none

/-- The CMAC, RMAC and WMAC families (opcodes 0x30–0x32). -/
def decMac (th : Fin 4096) (op w : Nat) : Option Instr :=
  let ad := sel2 (w / 2 ^ 24 % 4)
  let g1 := reg5 (w / 2 ^ 19 % 32)
  let g2 := reg5 (w / 2 ^ 14 % 32)
  let fn := w / 2 ^ 11 % 8
  let h1 := bit w 10
  let h2 := bit w 9
  let fr := bit w 8
  let bc := bit w 7
  if w % 128 ≠ 0 ∨ (op ≠ 0x31 ∧ bc) then none
  else if op = 0x30 then
    match fn with
    | 0 => some (.cmul th ad g1 g2 h1 h2 fr)
    | 1 => some (.cmac th ad g1 g2 h1 h2 fr)
    | 2 => some (.cmsu th ad g1 g2 h1 h2 fr)
    | 3 => some (.cmulj th ad g1 g2 h1 h2 fr)
    | 4 => some (.cmacj th ad g1 g2 h1 h2 fr)
    | 5 => some (.cmsuj th ad g1 g2 h1 h2 fr)
    | _ => none
  else if op = 0x31 then
    match fn with
    | 0 => some (.rmacMul th ad g1 g2 h1 h2 fr bc)
    | 1 => some (.rmacMac th ad g1 g2 h1 h2 fr bc)
    | 2 => some (.rmacMsu th ad g1 g2 h1 h2 fr bc)
    | _ => none
  else
    match fn with
    | 0 => some (.wmacMul th ad g1 g2 h1 h2 fr)
    | 1 => some (.wmacMac th ad g1 g2 h1 h2 fr)
    | 2 => some (.wmacMsu th ad g1 g2 h1 h2 fr)
    | _ => none

/-- Opcode 0x34 (ACC): `as` is used by MOV and ADD, `amt` by the shifts. -/
def decAcc (th : Fin 4096) (w : Nat) : Option Instr :=
  let ad := sel2 (w / 2 ^ 24 % 4)
  let asrc := w / 2 ^ 22 % 4
  let fn := w / 2 ^ 19 % 8
  let wide := bit w 18
  let amt := w % 64
  if w / 64 % 2 ^ 12 ≠ 0 ∨ (fn ≠ 1 ∧ fn ≠ 2 ∧ asrc ≠ 0) ∨ (fn ≠ 4 ∧ fn ≠ 5 ∧ amt ≠ 0) then none
  else match fn with
    | 0 => some (.accClr th ad wide)
    | 1 => some (.accMov th ad (sel2 asrc) wide)
    | 2 => some (.accAdd th ad (sel2 asrc) wide)
    | 3 => some (.accNeg th ad wide)
    | 4 => some (.accShl th ad wide (Fin.ofNat 64 amt))
    | 5 => some (.accShr th ad wide (Fin.ofNat 64 amt))
    | 6 => if wide then none else some (.accSwap th ad false)
    | _ => if wide then none else some (.accConj th ad false)

/-- Opcode 0x38 (CB). -/
def decCb (th : Fin 4096) (w : Nat) : Option Instr :=
  let i := w / 2 ^ 23 % 8
  let fn := w / 2 ^ 20 % 8
  let ga := w / 2 ^ 15 % 32
  let gb := w / 2 ^ 10 % 32
  let j := w / 2 ^ 8 % 4
  if w % 256 ≠ 0 ∨ (fn ≠ 0 ∧ gb ≠ 0) ∨ (fn < 5 ∧ j ≠ 0) ∨ (fn = 5 ∧ ga ≠ 0) ∨ (5 < fn ∧ i ≠ 0) then none
  else match fn with
    | 0 => some (.cbset th (reg3 i) (reg5 ga) (reg5 gb))
    | 1 => some (.mtcb th (reg3 i) (reg5 ga))
    | 2 => some (.mtcl th (reg3 i) (reg5 ga))
    | 3 => some (.mfcb th (reg3 i) (reg5 ga))
    | 4 => some (.mfcl th (reg3 i) (reg5 ga))
    | 5 => some (.cbget th (reg3 i) (sel2 j))
    | 6 => some (.mtlc th (sel2 j) (reg5 ga))
    | _ => some (.mflc th (sel2 j) (reg5 ga))

/-- The instruction of thread `th` that a 32-bit word spells; nothing for an illegal instruction (R158, R188). -/
def decodeSpur (th : Fin 4096) (w : Nat) : Option Instr :=
  let op := w / 2 ^ 26 % 64
  let rd := w / 2 ^ 21 % 32
  let rs1 := w / 2 ^ 16 % 32
  let rs2 := w / 2 ^ 11 % 32
  let sub := w / 2 ^ 6 % 32
  let sh := w % 64
  let imm : BitVec 16 := BitVec.ofNat 16 (w % 2 ^ 16)
  let off13 : BitVec 13 := BitVec.ofNat 13 (w % 2 ^ 13)
  let an := reg3 (w / 2 ^ 18 % 8)
  let am := sel2 (w / 2 ^ 16 % 4)
  let sz := sel2 (w / 2 ^ 14 % 4)
  if 2 ^ 32 ≤ w then none
  else match op with
    | 0x00 => decSys th rd rs1 rs2 sub sh
    | 0x01 => decAlu th rd rs1 rs2 sub sh
    | 0x02 => some (.addi th (reg5 rd) (reg5 rs1) imm)
    | 0x03 => some (.andi th (reg5 rd) (reg5 rs1) imm)
    | 0x04 => some (.ori th (reg5 rd) (reg5 rs1) imm)
    | 0x05 => some (.xori th (reg5 rd) (reg5 rs1) imm)
    | 0x06 => if rs1 = 0 then some (.lui th (reg5 rd) imm) else none
    | 0x08 => some (.ld th (reg5 rd) an am sz (bit w 13) off13)
    | 0x09 => if bit w 13 then none else some (.st th (reg5 rd) an am sz off13)
    | 0x0C =>
      if rs2 ≠ 0 ∨ sh ≠ 0 then none
      else if sub = 0 then (if rd < 8 then some (.movaToA th (reg3 rd) (reg5 rs1)) else none)
      else if sub = 1 then (if rs1 < 8 then some (.movaFromA th (reg5 rd) (reg3 rs1)) else none)
      else none
    | 0x0D => if rd < 8 ∧ rs1 < 8 then some (.adda th (reg3 rd) (reg3 rs1) imm) else none
    | 0x10 => decAtom th rd rs1 rs2 sub sh
    | 0x11 => decFab th rd rs1 rs2 (w / 2 ^ 8 % 8) (bit w 7) (w % 128)
    | 0x14 =>
      if h : w / 2 ^ 13 % 8 < 6 then some (.br th (reg5 rd) (reg5 rs1) ⟨w / 2 ^ 13 % 8, h⟩ off13) else none
    | 0x15 => some (.j th (BitVec.ofNat 26 (w % 2 ^ 26)))
    | 0x16 => some (.jal th (BitVec.ofNat 26 (w % 2 ^ 26)))
    | 0x17 => some (.jalr th (reg5 rd) (reg5 rs1) imm)
    | 0x1C =>
      if sh / 2 ≠ 0 ∨ !(cvtCode sub && cvtCode rs2) then none
      else some (.cvt th (reg5 rd) (reg5 rs1) (reg5 sub) (reg5 rs2) (bit w 0))
    | 0x30 => decMac th 0x30 w
    | 0x31 => decMac th 0x31 w
    | 0x32 => decMac th 0x32 w
    | 0x33 =>
      let ax := reg3 (w / 2 ^ 21 % 8)
      if w % 256 ≠ 0 ∨ ax = an ∨ (bit w 11 && bit w 8) then none
      else some (.ftap th (sel2 (w / 2 ^ 24 % 4)) ax an am sz (sel2 (w / 2 ^ 12 % 4)) (bit w 11) (bit w 10) (bit w 9) (bit w 8))
    | 0x34 => decAcc th w
    | 0x35 =>
      if w / 2 ^ 19 % 4 = 3 ∨ 6 ≤ w / 2 ^ 16 % 8 then none
      else some (.stac th (sel2 (w / 2 ^ 24 % 4)) (reg3 (w / 2 ^ 21 % 8)) (sel2 (w / 2 ^ 19 % 4)) (reg3 (w / 2 ^ 16 % 8))
        (bit w 15) (Fin.ofNat 64 (w / 2 ^ 9 % 64)) (BitVec.ofNat 9 (w % 512)))
    | 0x36 =>
      if w % 256 ≠ 0 then none
      else
        let ad := sel2 (w / 2 ^ 24 % 4)
        let g := reg5 (w / 2 ^ 19 % 32)
        let fmt := reg3 (w / 2 ^ 15 % 8)
        let s6 : Fin 64 := Fin.ofNat 64 (w / 2 ^ 8 % 64)
        if bit w 18 then some (.mtac th ad g fmt (bit w 14) s6) else some (.mvac th ad g fmt (bit w 14) s6)
    | 0x37 =>
      let lv := sel2 (w / 2 ^ 24 % 4)
      let len : BitVec 12 := BitVec.ofNat 12 (w % 2 ^ 12)
      if bit w 23 then
        if w / 2 ^ 12 % 64 ≠ 0 then none else some (.rpt th lv true 0 (reg5 (w / 2 ^ 18 % 32)) len)
      else some (.rpt th lv false (BitVec.ofNat 11 (w / 2 ^ 12 % 2048)) 0 len)
    | 0x38 => decCb th w
    | _ => none

end Sys2Proof
end

