-- ==== Sys2Proof/Config.lean ====
section
/-! DEFINITION. What the manual leaves to an implementation or to its firmware image, and every value it leaves open:
opaque constants without a body, so that nothing can be proved of them but that they are the same number each time. -/

namespace Sys2Proof.Config

/-- Why a free value is drawn. -/
inductive Kind where
  /-- A 256-bit debug or attestation nonce (R476, R480). -/
  | nonce
  /-- A 128-bit resume cookie (R382, R403). -/
  | cookie
  /-- The way that a data or instruction cache fills (R153). -/
  | cacheWay
  /-- The 32 random bytes of the key unit at start-up (R465). -/
  | bootSeed
  /-- A sealed image's nonce and tag (R406). -/
  | seal
  /-- Bits of a firmware-private register or SRAM word (R484). -/
  | firmware
  /-- A value the manual calls undefined or does not state. -/
  | unstated
  deriving DecidableEq, Repr

/-- The `n`-th free value, drawn for reason `k`. -/
opaque free (k : Kind) (n : Nat) : Nat

/-- Low eight bits of the event code that the release dictionary gives event number `k` of the model (R489). -/
opaque eventCode (k : Nat) : Nat

/-- The feature bitmap of the firmware image (R399, R412). -/
opaque featDev : Nat

/-- The kernel cycle table of the firmware image (R85, R232), for entry `id` and a descriptor's words: worst-case cycles; the
operations of each energy class; the address ranges that the kernel of a job reads and writes, as (address, bytes). -/
opaque kernelCycles (id : Nat) (desc : List Nat) : Nat
opaque kernelOps (id : Nat) (desc : List Nat) : List (Nat × Nat)
opaque kernelReads (id : Nat) (desc : List Nat) : List (Nat × Nat)
opaque kernelWrites (id : Nat) (desc : List Nat) : List (Nat × Nat)

/-- Tininess is detected before rounding (IEEE 754-2019 leaves it to the implementation; R107). -/
opaque tinyBefore : Bool

/-- `fma(0, ∞, quiet NaN)` signals invalid (IEEE 754-2019 leaves it to the implementation; R107). -/
opaque fmaInvalidNan : Bool

/-- Energy of one retired operation of class `k` in pJ (R294). -/
opaque energyPerOp (k : Nat) : Nat

/-- Estimate, in tick cycles, of a copy of `bytes` (R288): left to firmware. -/
opaque copyCycles (bytes : Nat) : Nat

/-- Layers of a lifted base graph of TS 38.212: for each check node its variable nodes (R233). -/
opaque baseGraph (bg z : Nat) : List (List (List Nat))

/-- T16 units of one step of a soft buffer's 4-bit LLR (R233, R235): the manual gives none. -/
opaque llrStep : Nat

/-- Bit positions of the `k` message and CRC bits in a polar code of 2^n bits (TS 38.212 §5.3.1, R234). -/
opaque polarInfo (n k : Nat) : List Nat

/-- PRACH filterIndex of a PRACH configuration index (R251; TS 38.211 tables and the O-RAN code points). -/
opaque prachFilter (fr2 : Bool) (cfgIdx : Nat) : Nat

/-- The 256-bit root secret of the part (R462). -/
opaque rootSecret : Nat

/-- The identity public key that Ed25519 and ML-DSA-65 key generation give for their seeds (R465, R467). -/
opaque identityKey (seedEd seedMl : List Byte) : List Byte

/-- Byte `i` of the plaintext sections of the slice image with nonce `n` (R406): how a section is encoded is left open. -/
opaque sectionByte (n i : Nat) : Nat

/-- Lowest ESMC quality level that the DCR accepts, as an SSM code, and the order of the codes' quality (R61): the record
format of R437–R440 gives the level no place. -/
opaque esmcAccepts (ql : Nat) : Bool

/-- The device's own quality level as an SSM code (R61). -/
opaque esmcOwn (state : Nat) : Nat

/-- Phase term that the servo computes for an offset, in 0.001 ppb (R52): the servo's gain is firmware's. -/
opaque phaseTerm (offset : Int) : Int

/-- The fixed hash H of a destination node and bits [47:12] of an address that chooses among candidate links (R364). -/
opaque routeHash (node page : Nat) : Nat

/-- Units of buffer behind one virtual channel of a link (R363); the manual gives no number. -/
opaque vcBuffer : Nat

/-- Deduplication windows, beyond one, that the reserved region has room for (R367). -/
opaque windowRoom : Nat

/-- Estimate, in tick cycles, of a known-answer run of a core or a Spur core (R124, R168): the inputs lie in the image. -/
opaque katCycles (spur : Bool) : Nat

/-- Which of the routers that an endpoint may attach to is its own (R210, R212): the manual numbers endpoints and does not place them. -/
opaque epPlace (ep : Nat) : Nat

/-- SRAM macro and row that hold the word at a local address (R218, R445): physical and opaque to software. -/
opaque sramMacro (a : Nat) : Nat
opaque sramRow (a : Nat) : Nat

/-- What an SRAM macro belongs to (R441): kind and number. -/
inductive MacroOwner where
  | slot (cl k : Nat)
  | pos (cl j : Nat)
  | cluster (cl : Nat)
  | pinned (p : Nat)
  | bank (p : Nat)
  | other
  deriving DecidableEq, Repr, Inhabited
opaque macroOwner (m : Nat) : MacroOwner

/-- Code in `res0` of an event entry of the control ring (R401): 0 detached, 1 reattached, 2 scrub ended, 3 straggler,
4 suspect peer, 5 failed peer, 6 membership loss, 7 control heartbeat timeout (R402), 8 Ready (R434), 9 hold-down (R420), 10 debug unlock (R483). The manual names no values. -/
opaque hostEvent (k : Nat) : Nat

/-- Addresses in the reserved region and the weight store of sequence i's page list (R275) and of version slot k's image
(R342): the layout of those areas is firmware's. -/
opaque ptAddr (i : Nat) : Nat
opaque imageAddr (k : Nat) : Nat

/-- Byte that a line of an earlier epoch reads as at address `a`, in start-up `boot`, under the key of epoch `epoch` (R206, R456). -/
opaque staleByte (boot epoch a : Nat) : Nat

/-- Page-list blocks of 256 bytes that the reserved region has room for (R304). -/
opaque ptBlocks : Nat

/-- `exp` of a binary32 value, as the kernels of the stage programs compute it (R325). -/
opaque expF32 (v : Nat) : Nat

/-- Digest that measurement `index` reports for what the model keeps of the measured object (R477). -/
opaque digest (index datum : Nat) : Nat

end Sys2Proof.Config
end

