-- ==== Sys2Proof/Machine/KMap.lean ====
section
/-! DEFINITION. Sparse maps: lists of (key, value) pairs with strictly rising keys. The shape of memory, of the register
file and of every replicated unit of the device. -/

namespace Sys2Proof

/-- A sparse map from numbers. -/
abbrev KMap (α : Type) := List (Nat × α)

/-- The value listed at `k`, if any. -/
def kfind {α : Type} : KMap α → Nat → Option α
  | [], _ => none
  | (j, v) :: m, k => if j = k then some v else kfind m k

/-- The value at `k`, `d` where none is listed. -/
def kget {α : Type} (m : KMap α) (k : Nat) (d : α) : α := (kfind m k).getD d

/-- List `v` at `k`, keeping the keys rising. -/
def kset {α : Type} : KMap α → Nat → α → KMap α
  | [], k, v => [(k, v)]
  | (j, w) :: m, k, v =>
    if k < j then (k, v) :: (j, w) :: m
    else if k = j then (k, v) :: m
    else (j, w) :: kset m k v

/-- Take `k` off the map, wherever it stands. -/
def kdel {α : Type} : KMap α → Nat → KMap α
  | [], _ => []
  | (j, w) :: m, k => if j = k then kdel m k else (j, w) :: kdel m k

/-- Replace the value at `k` (`d` where none is listed) by its image. -/
def kmod {α : Type} (m : KMap α) (k : Nat) (d : α) (f : α → α) : KMap α := kset m k (f (kget m k d))

/-- Apply `f` to every listed value. -/
def kmapv {α : Type} (m : KMap α) (f : Nat → α → α) : KMap α := m.map fun kv => (kv.1, f kv.1 kv.2)

/-- The keys rise strictly. -/
def kwf {α : Type} : KMap α → Bool
  | [] => true
  | [_] => true
  | (j, _) :: (k, w) :: m => decide (j < k) && kwf ((k, w) :: m)

end Sys2Proof
end

