-- ==== Sys2Proof/Machine/State.lean ====
section
/-! DEFINITION. The state of the MXD-1: everything the manual gives the device, as plain data, and the state after
reset. Registers are the manual's register maps, held per field in one sparse map (`regs`); everything the manual
names that no register shows has a field of its own. -/

namespace Sys2Proof.Machine

/-- Faults: the model raises none; every command of the block has an effect or changes nothing. The constructor exists
so that the outcome type is inhabited by a name. -/
inductive Fault where
  /-- Raised by nobody. Safe. -/
  | none
  deriving DecidableEq, Repr

/-- Refusals. -/
inductive Refusal where
  /-- A command whose meaning has not been written. Safe: the model stops. -/
  | notModelled (mnemonic : String)
  deriving DecidableEq, Repr

/-! ## Time (R44–R68) -/

/-- The time counter, the servo and the sources. -/
structure TimeState where
  /-- The three fields of device time (R44). -/
  sec  : Nat
  ns   : Nat
  frac : Nat
  /-- What the cycles of the time clock have added below 2^-18 ns, in units of 10^-12 of that (the model's own). -/
  rem  : Nat
  /-- Tick edges have begun (R66). -/
  edges : Bool
  /-- `tick_count` of the current tick (R64). -/
  tick : Int
  /-- A step ended the tick that ran: none runs until the next boundary (R67). -/
  cut : Bool
  /-- Recent lock measurements, newest first (R51). -/
  lockRun : List Int
  /-- Step waiting to be applied (R52, R58): nanoseconds to add to device time. -/
  pending : Option Int
  /-- The measurement after lock is awaited (R52). -/
  locked : Bool
  /-- Frequency term of the correction, 0.001 ppb (R52). -/
  freq : Int
  /-- Accepted corrections: absolute ns and rate, newest first (R54). -/
  rates : List (Nat × Int)
  /-- Absolute ns at which HOLDOVER began (R56). -/
  holdSince : Option Nat
  /-- Absolute ns of the first of the unbroken refusals (R56). -/
  refuseSince : Option Nat
  /-- TOD_NEXT written since the last step (R58). -/
  todWritten : Bool
  /-- SyncE clock valid, and the quality level received last (R61). -/
  synceValid : Bool
  synceQl : Nat
  /-- Absolute ns of the last 1PPS edge (R62). -/
  ppsLast : Option Nat
  /-- Foreign-master records, one for each master heard (R60). -/
  masters : List Announce
  /-- Grandmaster selected by the BMCA (R55). -/
  gm : Option Word
  /-- Bit n: timer n is armed (R68). -/
  armed : Nat
  /-- `lock_wait_s` has expired, or is not awaited (R66). -/
  lockWaitOver : Bool
  /-- Announced clockClass is degraded (R56). -/
  degraded : Bool
  deriving DecidableEq, Repr

/-! ## Ticks and lanes (R69–R95) -/

/-- How an entry of the current column stands (R87); one that runs says since which absolute tick cycle. -/
inductive EntryState where
  | waiting
  | running (since : Nat)
  | ended
  | missed
  | skipped
  deriving DecidableEq, Repr

/-- A checked entry of the fetched column (R77, R78). -/
structure ColSlot where
  lane   : Nat
  kind   : Nat
  start  : Nat
  len    : Nat
  kernel : Nat
  desc   : Nat
  thr    : Nat
  /-- Its overrun has been noted; it may run on into the next tick (R87). -/
  late   : Bool
  st     : EntryState
  deriving DecidableEq, Repr

/-- How a work-list item stands (R289). -/
inductive ItemState where
  | waiting
  | running (since : Nat)
  | done
  | aborted
  | abandoned
  | failed
  deriving DecidableEq, Repr

/-- A work-list item (R288) with what the step builder keeps of it. -/
structure WlItem where
  lane   : Nat
  kind   : Nat
  gap    : Nat
  after  : Nat
  slot   : Nat
  cl     : Nat
  thr    : Nat
  est    : Nat
  batch  : Nat
  /-- Descriptor address. -/
  desc   : Nat
  /-- Enabled arrays of a tile (R119). -/
  arrays : Nat
  /-- Rows by sequence: entry index and rows (R293). -/
  rows   : List (Nat × Nat)
  /-- Consecutive aborts of this tile (R92). -/
  aborts : Nat
  /-- The item is a known-answer run (R124). -/
  kat    : Bool
  st     : ItemState
  deriving DecidableEq, Repr

/-- What goes with a bank that PCp has written and staged: its smallest slack, whether its rows passed R85, and the work of
its windows. -/
structure BankNext where
  slack : Nat
  fit   : Bool
  work  : List WinWork
  /-- Lines of the locked instruction-cache ways, by Spur core (R153). -/
  fill  : KMap (List Nat)
  deriving DecidableEq, Repr

/-- An end record that a unit has posted to the step builder or the sequencer: lane, tag, and status (R112: 0 done, 1 aborted,
2 check failed; R162: 3 fault; a transfer's status, R215). -/
structure EndRec where
  lane   : Nat
  tag    : Nat
  status : Nat
  deriving DecidableEq, Repr

/-- What the tick sequencer and the step builder of a partition hold. -/
structure Part where
  /-- Column fetched in this tick. -/
  col     : List ColSlot
  /-- Published work list; items that found no gap stand in it as abandoned, and are placed first in the next tick. -/
  wl      : List WlItem
  /-- Known-answer runs due: logical cores, and 128 + Spur core (R124, R168). -/
  katDue  : List Nat
  /-- Descriptor slots used in each of the four clusters in this tick (R288). -/
  slots   : List Nat
  /-- Nodes that the allocator dropped in this tick (R311). -/
  recl    : Nat
  /-- Work of the windows of the committed bank: the placement engine knows it, no entry of the table names it (R227). -/
  work    : List WinWork
  /-- The bank that waits for its commit. -/
  next    : Option BankNext
  /-- At a frame boundary the fetch waits for cell changes that fall due there (R39, R241–R243). -/
  await   : Bool
  /-- At a step boundary the step builder waits for the passes that have ended to commit (R286, R290). -/
  hold    : Bool
  /-- A unit that carried radio rows was lost without a spare: a re-proof is due (R39). -/
  reproof : Bool
  /-- End records of this tick, oldest first. -/
  ends    : List EndRec
  deriving DecidableEq, Repr

/-! ## Massif engines (R96–R126) -/

/-- A descriptor that an engine is running. -/
structure RunningTile where
  desc  : List Nat
  since : Nat
  radio : Bool
  slice : Nat
  deriving DecidableEq, Repr

/-- One buffer of the weight register (R96): the scale and element areas of a weight tile as loaded, and the codes that the
delta merge unit put in place of elements, by position (R110). -/
structure WBuf where
  bytes  : List Byte
  merged : KMap Nat
  deriving DecidableEq, Repr

/-- What a logical core holds beyond its registers. -/
structure Core where
  run   : Option RunningTile
  /-- Foreground and background accumulator bank: quarter · 2^18 + byte offset ↦ byte, where it is not 0 (R100). -/
  fg    : KMap Nat
  bg    : KMap Nat
  /-- After an abort the foreground entries not listed are undefined: the free value they are drawn from (R120). -/
  fgSeed : Option Nat
  /-- The weight register: the two tiles loaded last, newest first; none while both buffers are invalid (R96, R120). -/
  wreg  : List WBuf
  /-- Tick in which a descriptor last used the background bank (R102). -/
  bgTick : Option Int
  /-- Cell-cycles below the 2^20 units of MSF.OPS. -/
  actRem : Nat
  gateRem : Nat
  /-- Restore image of the reserved scratchpad region, written at the last bank commit (R458). -/
  image : List Host.Cell
  /-- A Col window has passed since the fence (R38). -/
  copied : Bool
  /-- A substitution is due (R458): the spare slot chosen. -/
  subst : Option Nat
  deriving DecidableEq, Repr

/-- A physical core slot or Spur position (R22, R459). -/
structure Phys where
  bad    : Bool
  fenced : Bool
  cause  : Nat
  hangs  : Nat
  /-- Unclocked and fenced as a spare (R40). -/
  spare  : Bool
  deriving DecidableEq, Repr

/-! ## Spur cores (R147–R189) -/

/-- Thread states (R147). -/
inductive TState where
  | idle
  | ready
  | stalled
  | parked
  | halted
  deriving DecidableEq, Repr

/-- A posted store in a thread's store queue (R155). -/
structure Posted where
  addr  : Nat
  bytes : List Byte
  /-- Key index that its region descriptor supplied (R208). -/
  key   : Nat
  deriving DecidableEq, Repr

/-- One load of an FTAP: its value when it was local, else its address, size, key index and whether its line may be cached. -/
structure TapLoad where
  val   : Option Nat
  addr  : Nat
  size  : Nat
  key   : Nat
  cache : Bool
  deriving DecidableEq, Repr

/-- An FTAP that waits for its loads (R186): what it does with them. -/
structure FtapWait where
  x    : TapLoad
  h    : TapLoad
  ad   : Fin 4
  typ  : Nat
  neg  : Bool
  frac : Bool
  dual : Bool
  /-- The move: address and key index. -/
  mv   : Option (Nat × Nat)
  /-- Pointers and their new values. -/
  ax   : Fin 8
  ah   : Fin 8
  nx   : Addr
  nh   : Addr
  deriving DecidableEq, Repr

/-- What a parked thread waits for (R154). -/
inductive Waiting where
  | load (addr size rt : Nat) (sx : Bool) (key : Nat) (cache : Bool)
  | atomic (op : Nat) (addr size rd : Nat) (opnd cmp : Nat) (sgn : Bool) (key : Nat)
  | fabric (op : Nat) (size rt : Nat) (tid : Nat) (node : Nat)
  /-- An FTAP of which a load or both are remote (R154, R186). -/
  | ftap (w : FtapWait)
  | storeRoom (p : Posted)
  | fenced
  /-- Room for one more fabric request (R364, R366, R368): the instruction issues again when there is some. -/
  | fabricRoom
  deriving DecidableEq, Repr

/-- A data-cache line (R153): address, bytes, dirty. -/
structure CacheLine where
  line  : Nat
  bytes : List Byte
  dirty : Bool
  key   : Nat
  deriving DecidableEq, Repr

/-- An active block-repeat level (R183): level, start and end of the body. -/
structure Loop where
  lv    : Nat
  start : Nat
  last  : Nat
  deriving DecidableEq, Repr

/-- The registers of one thread (R150, R151) and its memory-access state. -/
structure Thread where
  st    : TState
  g     : Vector Word 32
  a     : Vector Addr 8
  cb    : Vector Addr 8
  cl    : Vector (BitVec 24) 8
  wrap  : Vector Bool 8
  lc    : Vector (BitVec 24) 4
  acc   : Vector (BitVec 80) 4
  sat   : Bool
  cvtOvf : Bool
  pc    : Addr
  loops : List Loop
  /-- Posted stores, oldest first, at most 7 (R155). -/
  sq    : List Posted
  wait  : Option Waiting
  /-- Cache operations issued and not complete (R156). -/
  dc    : List CacheLine
  /-- Key of the job (8 · core + lowest thread) and rank in its group. -/
  job   : Option Nat
  rank  : Nat
  /-- Cycles metered to this thread's HALT, fault or abort (R162). -/
  spent : Option Nat
  faulted : Bool
  /-- Halted by the debug port; the next issue passes over a breakpoint at pc (R484). -/
  dbg   : Bool
  skip  : Bool
  /-- Cycle of its core at which the thread may issue again, and at which every result of it is in (R149, R154, R174). -/
  busy  : Nat
  due   : Nat
  deriving DecidableEq, Repr

/-- A window of a job (R161). -/
structure Window where
  base  : Nat
  limit : Nat
  rd    : Bool
  wr    : Bool
  cache : Bool
  deriving DecidableEq, Repr

/-- A running job (R161, R162). -/
structure Job where
  radio : Bool
  entry : Nat
  tag   : Nat
  slice : Nat
  mask  : Nat
  wins  : List Window
  /-- Partition and column entry or work-list item it runs for. -/
  part  : Nat
  item  : Nat
  /-- Absolute tick cycle at which it started. -/
  since : Nat
  deriving DecidableEq, Repr

/-- What a Spur core holds beyond its registers and threads. -/
structure SpurCore where
  /-- Thread that last issued in each class (R148). -/
  lastRadio : Nat
  lastOpen  : Nat
  /-- Remote operations outstanding (R155). -/
  remote : Nat
  /-- Instruction cache (R153): numbers of the lines in the locked ways, of those in the unlocked ones, and of the lines that PCp
  fills the locked ways with. -/
  ilock  : List Nat
  iopen  : List Nat
  fill   : List Nat
  /-- Cycles of the core as far as issues and stalls count them: the cycle of the last issue (R148, R149). -/
  cyc    : Nat
  copied : Bool
  subst  : Option Nat
  deriving DecidableEq, Repr

/-! ## Memory, NoC, DMA, keys (R190–R222, R466) -/

/-- A key slot (R204, R466). -/
structure KeySlot where
  epoch  : Nat
  loaded : Bool
  /-- A load waits for Cairn (R417). -/
  pend   : Bool
  deriving DecidableEq, Repr

/-- A region descriptor (R207). -/
structure Region where
  base   : Nat
  nodeLo : Nat
  limit  : Nat
  nodeHi : Nat
  key    : Nat
  rd     : Bool
  wr     : Bool
  atm    : Bool
  valid  : Bool
  deriving DecidableEq, Repr

/-- A DMA transfer on an engine (R215). A transfer with a global end moves in pieces of at most one page (R355). -/
structure Dma where
  desc : List Nat
  radio : Bool
  /-- The column entry or work-list item it runs for. -/
  item  : Option Nat
  uid   : Nat
  /-- Pieces still to be requested: global address, bytes, offset in the data. -/
  todo  : List (Nat × Nat × Nat)
  /-- Offsets of read pieces that came without their data: uncorrectable at their source (R194). -/
  bad   : List Nat
  /-- The pieces are writes. -/
  wr    : Bool
  left  : Nat
  /-- Data by offset: read pieces, then the rows to write. -/
  got   : KMap (List Byte)
  status : Nat
  deriving DecidableEq, Repr

/-- A NoC request that a source interface waits for (R212). -/
structure NocReq where
  src : Nat
  txn : Nat
  dst : Nat
  addr : Nat
  deriving DecidableEq, Repr

/-- DRAM lines seen with corrections on a device since the patrol pass began (R219). -/
structure DevErr where
  chan : Nat
  bit  : Nat
  /-- Line number and absolute ns. -/
  lines : List (Nat × Nat)
  deriving DecidableEq, Repr

/-! ## Radio (R223–R245, R408–R410) -/

/-- A lock or unlock that waits for its boundary (R241). -/
structure CellPend where
  unlock : Bool
  /-- tick_count of the boundary. -/
  tick   : Int
  token  : Nat
  opc    : Nat
  deriving DecidableEq, Repr

/-- A slot message that was accepted (R408). -/
structure SlotMsg where
  sfn   : Nat
  slot  : Nat
  token : Nat
  pdus  : List Byte
  /-- Indices of the PUSCH PDUs that bring a new block, and of the PDUs whose indication has been posted (R237, R410). -/
  news  : List Nat
  posted : List Nat
  deriving DecidableEq, Repr

/-- A soft buffer of one HARQ process (R235–R237). -/
structure Harq where
  ndi   : Bool
  kib   : Nat
  /-- The 4-bit LLRs of each code block's circular buffer. -/
  llrs  : List (List Int)
  /-- Tick at which the slot of the last reception of the block starts. -/
  last  : Int
  deriving DecidableEq, Repr

/-- Cell states (R245). -/
inductive CellState where
  | locked
  | active
  | lockPending
  | unlockPending
  | autoLocked
  deriving DecidableEq, Repr

/-- A cell of the plan. -/
structure Cell where
  ent   : CellEntry
  part  : Nat
  cost  : Nat
  st    : CellState
  /-- Its start waits only on the start condition of R66 (R243). -/
  waits : Bool
  pend  : Option CellPend
  priority : Nat
  txAtten  : Nat
  /-- Attenuation that takes effect at the next frame boundary (R244). -/
  txPend   : Option Nat
  prioPend : Option Nat
  missedDl : Nat
  missedUl : Nat
  l2Late   : Nat
  l2Missing : Nat
  harqDrop : Nat
  ldpcFail : Nat
  harq  : KMap Harq
  msgs  : List SlotMsg
  /-- Uplink slots (SFN · 80 + slot) that lost a window, and downlink slots with the symbols lost, as a mask (R227). -/
  lostSlots : List Nat
  lostDl : List (Nat × Nat)
  radio : RadioParam
  deriving DecidableEq, Repr

/-! ## Fronthaul and DFE (R246–R272) -/

/-- A section of a C-plane message (R251): type, direction, filterIndex, PRBs, beam, udCompHdr, and where the weights of
section extension 1 lie in the data area. -/
structure CSec where
  type   : Nat
  uplink : Bool
  filter : Nat
  prb0   : Nat
  prbs   : Nat
  beam   : Nat
  meth   : Nat
  width  : Nat
  shift  : Nat
  weights : Option (Nat × Nat)
  deriving DecidableEq, Repr

/-- A frame waiting in an egress queue (R254). -/
structure TxFrame where
  pcid  : Nat
  pcp   : Nat
  cplane : Bool
  sfn   : Nat
  slot  : Nat
  sym   : Nat
  /-- Window: first and last absolute ns. -/
  opens : Nat
  closes : Nat
  prbs  : List (List Byte)
  dst   : Nat
  /-- First PRB and compShift of a U-plane section (R145, R251). -/
  prb0  : Nat
  shift : Nat
  /-- Sections of a C-plane message (R251). -/
  secs  : List CSec
  /-- A split-8 frame, which waits for no C-plane message (R262). -/
  split8 : Bool
  deriving DecidableEq, Repr

/-- A buffer that a fronthaul lane handed over (R256, R257). -/
structure FhBuf where
  part   : Nat
  entry  : Nat
  buf    : Nat
  port   : Nat
  subport : Nat
  dir    : Nat
  cell   : Nat
  symFirst : Nat
  symCnt : Nat
  sfn    : Nat
  slot   : Nat
  deriving DecidableEq, Repr

/-- A subport: egress queues by PCP, UL symbols written, the last sequence numbers, delay measurement. -/
structure Subport where
  queues : List TxFrame
  /-- (stream, SFN · 80 + slot, symbol, PRB) received (R255). -/
  seen   : List (Nat × Nat × Nat × Nat)
  lastSeq : KMap Nat
  /-- C-plane sections sent: (stream, SFN · 80 + slot, symbol). -/
  cSent  : List (Nat × Nat × Nat)
  /-- Absolute ns at which the measurement in progress was requested (R260). -/
  dmAt   : Option Nat
  /-- Absolute ns at which the subport last left UP (R259). -/
  downSince : Option Nat
  /-- Past outages, first and last absolute ns, newest first. -/
  outages : List (Nat × Nat)
  deriving DecidableEq, Repr

/-- A receive and transmit chain of the DFE (R262, R264). -/
structure Chain where
  gw     : Nat
  histX  : List (Int × Int)
  histY  : List (Int × Int)
  frozen : Nat
  seen   : Nat
  acc    : Nat
  cnt    : Nat
  /-- Filter history and NCO phase of each direction. -/
  rxHist : List (Int × Int)
  txHist : List (Int × Int)
  rxPhase : Nat
  txPhase : Nat
  latch  : Option (Nat × Nat × Nat × Nat)
  gwChg  : Bool
  detSym : Bool
  /-- Samples at fs_r that wait for a group of 12, and the position, SFN · 10 + subframe and index, that follows them (R263). -/
  txRest : List (Int × Int)
  txNext : Nat × Nat
  /-- The mask check (R269): outputs of the block in progress, sums of |X|^2 and blocks so far, measurements that ended. -/
  maskBuf : List (Int × Int)
  maskSum : List Nat
  maskCnt : Nat
  maskDone : List (List Nat)
  deriving DecidableEq, Repr

/-! ## Serving (R273–R296) -/

/-- A partial attention result of one query row (R325), in binary32 codes. -/
structure Partial where
  m : Nat
  l : Nat
  o : List Nat
  deriving DecidableEq, Repr

/-- Sequence states (R276). -/
inductive SeqState where
  | free
  | admitted
  | prefill
  | moving
  | decode
  | pageWait
  | frozen
  | ending
  deriving DecidableEq, Repr

/-- A page-list entry (R304). -/
structure PageEnt where
  frame  : Nat
  node   : Nat
  remote : Bool
  cls    : Nat
  deriving DecidableEq, Repr

/-- A sequence entry (R275) with its speculation record (R331) and what the serving units keep beside it. -/
structure Seq where
  st       : SeqState
  resume   : SeqState
  frzCause : Nat
  deltaEn  : Bool
  spec     : Bool
  cancelPend : Bool
  part     : Nat
  slice    : Nat
  model    : Nat
  deltaVer : Nat
  len      : Nat
  promptLen : Nat
  gen      : Nat
  maxNew   : Nat
  nOut     : Nat
  stage    : Nat
  draftLen : Nat
  wait     : Nat
  token    : Nat
  family   : Nat
  group    : Nat
  ring     : Nat
  aborts   : Nat
  paramAddr : Nat
  admTick  : Nat
  passTick : Nat
  /-- Speculation record. -/
  dlen     : Nat
  branch   : Nat
  origin   : Nat
  drafted  : Nat
  accepted : Nat
  /-- Token IDs, prompt and output together. -/
  toks     : List Nat
  pages    : List PageEnt
  /-- Tree nodes that the page list refers to, page by page (R308). -/
  nodes    : List Nat
  lookupDone : Bool
  /-- Number of the command, and the sample index in it. -/
  cmd      : Nat
  sample   : Nat
  /-- Completion status of the sample (R394). -/
  status   : Nat
  /-- A freeze waits for the next step boundary (R277, R278): its cause, and the status of its NOTICE, ST_OK for none. -/
  freezeReq : Option (Nat × Nat)
  /-- Destination of a move: partition and frames (R291). -/
  moveTo   : Option (Nat × List PageEnt)
  /-- Waiting forks: held entries count in `seq_used` (R280). A hypothesis that its family dropped is held too: it has no output. -/
  held     : Bool
  needFork : Nat
  peerSpill : Bool
  beamW    : Nat
  score    : Int
  /-- First output token that a failed write kept from host memory (R394). -/
  owed     : Option Nat
  /-- Node IDs of the ring of a RING sequence, this device first; transit buffers of the pass in progress (R326, R327). -/
  ringNodes : List Nat
  transit  : List PageEnt
  /-- The combined attention result of the last row (R325). -/
  att      : Option Partial
  deriving DecidableEq, Repr

/-- A live GENERATE command (R389, R394). -/
structure Cmd where
  slice   : Nat
  ring    : Nat
  token   : Nat
  outAddr : Nat
  samples : Nat
  maxNew  : Nat
  stream  : Bool
  sampled : Bool
  beamW   : Nat
  eos     : List Nat
  status  : Nat
  /-- Tokens of each finished sample. -/
  done    : KMap Nat
  /-- Of a beam family: scores and tokens of the hypotheses that have ended, and what has been written at each rank (R394). -/
  hyps    : List (Int × List Nat)
  written : KMap (List Nat)
  handle  : Nat
  deriving DecidableEq, Repr

/-- A pass in progress (chapter Serving Engine). -/
structure Pass where
  id     : Nat
  part   : Nat
  model  : Nat
  deltaEn : Bool
  deltaVer : Nat
  pre    : Bool
  seqs   : List Nat
  /-- Tokens each sequence writes in this pass. -/
  rows   : List (Nat × Nat)
  stage  : Nat
  passTick : Nat
  /-- Pages copied on write: sequence, page-list index, new entry (R317). -/
  cow    : List (Nat × Nat × PageEnt)
  /-- Every item of the last stage ended as done. -/
  ended  : Bool
  /-- A reset touched the pass: it restarts at the next boundary after it; the stages it had completed are not charged
  again (R455). -/
  again  : Bool
  paid   : Nat
  /-- Pages that each ring member or core of a sequence attends to (R326, R330). -/
  units  : List (Nat × List (List Nat))
  deriving DecidableEq, Repr

/-- A model record (R297, R322, R396). -/
structure Model where
  /-- SHA-512 digest of the package's rest, and the package's bytes in the weight store. -/
  digest    : Nat
  bytes     : Nat
  nTiles    : Nat
  lgCount   : Nat
  frameLog2 : Nat
  maxCtx    : Nat
  kvBytes   : Nat
  nLayers   : Nat
  attnMode  : Nat
  ringBlkPg : Nat
  ringMax   : Nat
  splitCores : Nat
  draftLg   : Nat
  specK     : Nat
  specBranch : Nat
  copies    : Nat
  stages    : List StageTemplate
  tileSteps : List Nat
  deriving DecidableEq, Repr

/-- Delta version states (R342). -/
inductive VState where
  | free
  | loading
  | active
  | superseded
  | retiring
  | freeing
  deriving DecidableEq, Repr

/-- A delta version slot (R342) and the commands that wait for it. -/
structure Delta where
  st      : VState
  group   : Nat
  model   : Nat
  owner   : Nat
  pins    : Nat
  variant : Nat
  serial  : Nat
  image   : List Byte
  total   : Nat
  /-- Load command: slice, ring, token. -/
  loadCmd : Option (Nat × Nat × Nat)
  /-- Retire commands: slice, ring, token. -/
  retire  : List (Nat × Nat × Nat)
  /-- A forced retirement takes effect at the next commit instant (R346). -/
  forced  : Bool
  /-- Tick in which the version entered LOADING or FREEING. -/
  since   : Int
  deriving DecidableEq, Repr

/-! ## KV pages (R297–R321) -/

/-- A frame record (R302). -/
structure Frame where
  refs    : Nat
  key     : Nat
  cls     : Nat
  alloc   : Bool
  tree    : Bool
  hosted  : Bool
  owned   : Bool
  owner   : Nat
  lastRead : Nat
  deriving DecidableEq, Repr

/-- A node of the tree of shared pages (R307). -/
structure Node where
  hash    : Word
  parent  : Nat
  root    : Bool
  scope   : Nat
  model   : Nat
  dkey    : Nat
  part    : Nat
  frames  : List PageEnt
  lastUse : Nat
  children : Nat
  users   : Nat
  deriving DecidableEq, Repr

/-- A spill in progress (R312): who refers, page, source and destination. -/
structure Spill where
  seq   : Option Nat
  node  : Option Nat
  page  : Nat
  src   : Nat
  dst   : Nat
  old   : List PageEnt
  new   : List PageEnt
  deriving DecidableEq, Repr

/-! ## Fabric (R348–R379) -/

/-- A record on its way to a link: operation, virtual channel, contents (R354, R363). -/
structure WireRec where
  op : Nat
  vc : Nat
  r  : Record
  deriving DecidableEq, Repr

/-- A link's transfer state (R365, R371). -/
structure Link where
  txSeq   : Nat
  ackSeq  : Nat
  rxNext  : Nat
  /-- The flits kept for replay, oldest first: number, virtual channel, units. -/
  replay  : List (Nat × Nat × Nat)
  /-- A NAK for the present gap has been sent. -/
  nakSent : Bool
  resends : Nat
  /-- Units sent on a virtual channel whose buffer the peer has not returned, and units received whose buffer is to be returned (R363). -/
  credits : KMap Nat
  owe     : KMap Nat
  /-- Flits sent under the current epoch (R371). -/
  flits   : Nat
  /-- Records that wait for the link (R352). -/
  queue   : List WireRec
  /-- The peer is authenticated; the link retrains at run time. -/
  auth    : Bool
  retrain : Bool
  /-- Absolute ns of recent tag failures (R372). -/
  tagFails : List Nat
  rekeyNext : Bool
  /-- Epoch of the receiving direction. -/
  rxEpoch : Nat
  /-- Absolute ns of the last change of state, and of the last send or acknowledgement of a flit; round trip measured at training. -/
  since   : Nat
  ackAt   : Nat
  rtt     : Nat
  /-- Healthy lanes behind the logical lanes. -/
  healthy : Nat
  deriving DecidableEq, Repr

/-- Who waits for a fabric request. -/
inductive FabSource where
  | thread (th : Nat)
  /-- Engine (16 · partition + engine), transfer, offset of the piece. -/
  | dma (k uid off : Nat)
  /-- Host copy, offset of the piece (R391). -/
  | copy (id off : Nat)
  | device
  deriving DecidableEq, Repr

/-- An outstanding fabric request (R366). -/
structure FabReq where
  dst   : Nat
  tid   : Nat
  op    : Nat
  addr  : Nat
  len   : Nat
  value : Nat
  newv  : Nat
  data  : List Byte
  slice : Nat
  key   : Nat
  dev   : Bool
  tries : Nat
  since : Nat
  src   : FabSource
  deriving DecidableEq, Repr

/-- A COPY between host memory and another node in progress (R391): its pieces still to be requested are address, bytes and
offset. -/
structure HostCopy where
  id    : Nat
  ring  : Nat
  token : Nat
  slice : Nat
  host  : Nat
  key   : Nat
  wr    : Bool
  todo  : List (Nat × Nat × Nat)
  left  : Nat
  status : Nat
  deriving DecidableEq, Repr

/-- A recorded request of a deduplication window (R367). -/
structure DedupRec where
  tid : Nat
  status : Nat
  old : Nat
  ld  : Bool
  deriving DecidableEq, Repr

/-- A window for one source node (R367). -/
structure Dedup where
  tMax : Nat
  recs : List DedupRec
  deriving DecidableEq, Repr

/-- What the device keeps of a peer (R366, R374, R375, R379). -/
structure Peer where
  rtt     : Nat
  lag     : Nat
  retries : Nat
  strag   : Nat
  suspect : Bool
  failed  : Bool
  stale   : Nat
  /-- Consecutive collectives above the threshold, and their member set (R375). -/
  run     : Nat
  runSet  : List Nat
  /-- Absolute ns of the last traffic with it. -/
  seen    : Nat
  /-- Absolute ns at which a request to it timed out, with no answer since (R374). -/
  lost    : Option Nat
  deriving DecidableEq, Repr

/-- A route entry (R362). -/
structure Route where
  cands : List Nat
  hops  : Nat
  /-- Candidates as FC left them when it went down (R417). -/
  act   : List Nat
  /-- Requests outstanding when the candidates changed: new ones wait for them (R364). -/
  waitFor : List Nat
  deriving DecidableEq, Repr

/-- A shard move (R376). -/
structure ShardMove where
  spare    : Nat
  old      : Nat
  switched : Bool
  /-- Messages of the switch that have not been acknowledged: node and `tid`. -/
  sent     : List (Nat × Nat)
  acks     : List Nat
  deriving DecidableEq, Repr

/-! ## Host interface (R380–R412) -/

/-- A completion entry (R389). -/
structure CqEntry where
  token  : Nat
  status : Nat
  phase  : Bool
  dup    : Bool
  kind   : Nat
  opc    : Nat
  handle : Nat
  res0   : Nat
  res1   : Nat
  tick   : Nat
  deriving DecidableEq, Repr

/-- An entry read from a submission ring, waiting at its head: opcode and words; the body of a model package; what a slice
image says. -/
structure SubEntry where
  opc : Nat
  e   : Entry
  body : Option ModelBody
  img  : Option SliceImage
  deriving DecidableEq, Repr

/-- A ring's contents (R383–R387). -/
structure Ring where
  /-- Entries that wait at the head, in ring order. -/
  fifo    : List SubEntry
  /-- CQ slots: slot ↦ entry. -/
  cq      : KMap CqEntry
  /-- Notices that wait for a slot (R385). -/
  notices : List CqEntry
  /-- Highest token accepted (R390); none before the first. -/
  lastTok : Option Nat
  /-- Tokens outstanding: token, copies owed (R390). -/
  live    : List (Nat × Nat)
  /-- Entries posted since the last interrupt, and the absolute ns of the first (R387). -/
  unsig   : Nat
  unsigSince : Option Nat
  /-- Radio rings: next free payload offset (R515). -/
  indOff  : Nat
  deriving DecidableEq, Repr

/-- What the device keeps of a slice beyond registers (R400–R404). -/
structure Slice where
  cookie   : Nat
  hbLast   : Nat
  detachedAt : Nat
  blockedUntil : Nat
  negotiated : Bool
  negPend  : Bool
  /-- Final entries of the last 4,096 completed commands: ring, entry (R390). -/
  window   : List (Nat × CqEntry)
  counters : List Nat
  energyRem : Nat
  regions  : KMap Region
  regionPend : KMap (Option Region)
  /-- Last ring served by admission (R279). -/
  lastRing : Nat
  /-- SLICE_FREEZE command in progress: token. -/
  freezeCmd : Option Nat
  /-- Keys of the scrub stay empty (R482). -/
  emptyKeys : Bool
  /-- Its cause-1 sequences thaw at the next step boundary (R395, R403). -/
  thawPend : Bool
  /-- Agreed version: major, minor (R399). -/
  agreed   : Nat × Nat
  /-- Absolute ns of the freeze, and the save area: ranges with their bytes, and foreground banks of logical cores (R405). -/
  freezeAt : Nat
  saved    : List (Nat × List Byte)
  savedFg  : KMap (KMap Nat)
  deriving DecidableEq, Repr

/-- A sharing group (R395, R319). -/
structure Group where
  exist    : Bool
  members  : List Nat
  deriving DecidableEq, Repr

/-- A control command held for its owner (R418): ring token, entry. -/
structure Held where
  owner : Nat
  ent   : SubEntry
  deriving DecidableEq, Repr

/-! ## Firmware, bring-up, security, management -/

/-- A log-ring record (R427). -/
structure LogRec where
  tp   : Nat
  sev  : Nat
  rseq : Nat
  ctime : Nat
  len  : Nat
  data : Nat
  deriving DecidableEq, Repr

/-- What the restart controller keeps of a processor (R414–R424). -/
structure Proc where
  /-- Compare-time ns at which its watchdog reaches zero. -/
  wdDue   : Nat
  /-- Absolute ns of its crashes, newest first. -/
  crashes : List Nat
  downAt  : Nat
  log     : List LogRec
  wrOff   : Nat
  wraps   : Nat
  rseq    : Nat
  boots   : Nat
  /-- Version and SHA-512 digest of the current section (R416). -/
  sect    : Nat × Nat
  /-- Section before a live update, and crashes before the first ready on the new one (R424). -/
  prevSect : Option (Nat × Nat)
  newCrashes : Nat
  /-- A PC section waits to be applied (R423). -/
  sectPend : Option (Nat × Nat)
  dbgHalt : Bool
  bps     : KMap Nat
  mail    : List Nat
  deriving DecidableEq, Repr

/-- The boot record (R425). -/
structure BootRec where
  blank     : Bool
  bootSlot  : Nat
  confirmed : Option Nat
  onTrial   : Bool
  deriving DecidableEq, Repr

/-- The warm token (R448). -/
structure WarmToken where
  slot   : Nat
  digest : Nat
  dcr    : Nat
  dmGen  : Nat
  chans  : Nat
  at_ns  : Nat
  /-- No trip nor limit left since it was written; an uncorrectable SRAM error in the 24 h before. -/
  clean  : Bool
  srUe   : Bool
  /-- The running image had been patched (R425); an immediate reset made the token invalid. -/
  patched : Bool
  void   : Bool
  /-- Row repairs of every SRAM macro. -/
  rows   : KMap (List Nat)
  deriving DecidableEq, Repr

/-- An event-log record (R489). -/
structure EvRec where
  seq  : Nat
  boot : Nat
  cls  : Nat
  sev  : Nat
  sec  : Nat
  ns   : Nat
  tstate : Nat
  src  : Nat
  data : Nat
  /-- [11:8] class, [7:0] from the release dictionary. -/
  code : Nat
  deriving DecidableEq, Repr

/-- Bring-up and reset state (R431–R461). -/
structure Bring where
  /-- 72 V input is up; RESET_N and PERST# levels (R510). -/
  powered : Bool
  resetN  : Bool
  perst   : Bool
  /-- The device waits for the deassertion of both resets. -/
  inReset : Bool
  /-- dev_rst was written: absolute ns at which the orderly shutdown began (R456). -/
  shutAt  : Option Nat
  /-- A trip holds the device (R505). -/
  tripped : Bool
  /-- The last start-up that began took the warm path. -/
  warm    : Bool
  token   : Option WarmToken
  /-- Waves started, and clusters whose wave tripped (R443, R435). -/
  waves   : Nat
  waveFail : List Nat
  /-- Running image's slot, and slots refused in this start-up (R470). -/
  slot    : Nat
  refused : List Nat
  boot    : BootRec
  images  : List SlotImage
  dcr     : Option Dcr
  /-- DCR digest datum, changes whenever a new record is used. -/
  dcrSerial : Nat
  /-- The DCR copy written by an update, read at the next start-up. -/
  dcrNext : Option Dcr
  /-- The last defect map that this device wrote to the NOR (R446). -/
  dmNext  : Option DefectMap
  dm      : List Defect
  dmQueue : List Defect
  /-- Phase bookkeeping of resets: cluster ↦ phase, tick-relative start ns. -/
  clPhase : KMap Nat
  rstSince : KMap Nat
  /-- Core resets in progress: logical core n or 128 + Spur core ↦ key of the physical unit (R451). -/
  unitRst : KMap Nat
  /-- Compare time (absolute ns) at the start of the present start-up. -/
  startNs : Nat
  boots   : Nat
  downDomains : List (Nat × Nat)
  /-- Rows that a spare replaces, by SRAM macro (R37, R441). -/
  rowFix  : KMap (List Nat)
  /-- Partitions whose pinned radio SRAM, and whose tick-bank memory, is defective (R441). -/
  noPinned : List Nat
  noBank  : List Nat
  /-- VCORE of each compute die in mV, set in step 6; 0 before (R499). -/
  vcore   : Vector Nat 4
  deriving DecidableEq, Repr

/-- Debug port, attestation and update sessions (R475–R485, R491–R493). -/
structure SecState where
  /-- Number of the free value that the last HELLO drew as its nonce; it is valid for UNLOCK until used (R481). -/
  nonces  : Nat
  nonceLive : Bool
  nonceAt : Nat
  fails   : Nat
  lockUntil : Nat
  perm    : Nat
  /-- Last signed response of each SPDM binding: request counter (R476). -/
  signed  : KMap Nat
  /-- MCTP endpoint IDs. -/
  eids    : KMap Nat
  /-- Binding that owns the update session (R493). -/
  session : Option Nat
  /-- Live-update chain: sections committed, newest first (R477, index 13). -/
  chain   : List Nat
  spurBps : KMap (List (Nat × Nat × Nat))
  /-- Version and digest of the PC section before the live update in progress (R424). -/
  pcPrev  : Option (Nat × Nat)
  domKey  : Bool
  /-- The 256-bit domain key (R361). -/
  domVal  : Nat
  rootOk  : Bool
  devId   : Nat
  /-- Number of the free value that is n_boot of this start-up, and whether the key unit still holds K_boot (R465, R482). -/
  bootNo  : Nat
  bootKey : Bool
  ent     : Option Entitlement
  deriving DecidableEq, Repr

/-- Limiter, clamps and the event log (R487–R490, R500–R505). -/
structure MgtState where
  /-- Consecutive intervals with share 0 and a limit exceeded (R488). -/
  zeroRun : Nat
  pwrClamp : Bool
  thmClamp : Bool
  /-- Ticks of half share left; a clamp cleared since the last commit instant (R504). -/
  halfTicks : Nat
  justCleared : Bool
  /-- RAM window, newest first (R489); records not yet in NOR; the NOR log. -/
  window  : List EvRec
  norQueue : List EvRec
  nor     : List EvRec
  /-- Records queued while Cairn is down (R417). -/
  cairnQueue : List EvRec
  radioRem : Nat
  devRem  : Nat
  fault   : Bool
  pwrgd   : Bool
  deriving DecidableEq, Repr

/-- What leaves the device: frames, interrupts, responses and writes, newest first. -/
inductive Out where
  | msix (fn vector : Nat)
  /-- A write to host memory: the PASID's space, 0 without one (R380). -/
  | hostWrite (space addr : Nat) (data : List Byte)
  | fhFrame (port subport : Nat) (f : TxFrame)
  /-- A PBCH payload (R226). -/
  | pbch (cell sfn slot idx payload : Nat)
  | ecpriDelay (port subport : Nat) (response : Bool)
  | ptp (port subport kind domain : Nat) (unicast : Bool) (clockClass : Nat)
  | esmc (port subport ql : Nat)
  | pps (sec width : Nat) (tenMHz : Bool)
  | record (link : Nat) (w : WireRec)
  /-- A flit's header (R353). -/
  | flit (link ftype vc units seq ack crVc crCnt : Nat)
  /-- The end record of a collective (R374): the positions that took part, whether one is missing, and the result here. -/
  | collective (coll kind mask : Nat) (partial_ : Bool) (result : List Nat)
  /-- A request ends at its source interface (R212). -/
  | noc (dst status : Nat)
  /-- A packet leaves for a router, header first; one is delivered at an endpoint with its status, data, and poison. -/
  | nocHop (router : Nat) (flits : List Nat)
  | nocData (ep txn status : Nat) (data : List Byte) (poison : Bool)
  | spdm (binding code : Nat) (signed : Bool) (data : List Nat)
  | mctp (binding code : Nat)
  | pldm (binding code value : Nat)
  | dbg (cmd seq status : Nat) (data : List Byte)
  | pinOut (name level : Nat)
  deriving DecidableEq, Repr

/-- The state of the device. -/
structure State where
  /-- Commands that wait, first in, first out. -/
  pending : List Instr
  /-- Register fields: bit address ↦ value, where it differs from the Reset column (R14). -/
  regs    : KMap Nat
  /-- Shadow registers of staged fields (R80). -/
  staged  : KMap Nat
  /-- Device memory by local address: bytes that differ from 0 (R190, R201). -/
  mem     : List Host.Cell
  /-- Poisoned 32-byte words (R194), and the key index and epoch under which each DRAM line was written (R197). -/
  poison  : List Nat
  lineKey : KMap (Nat × Nat)
  /-- Lines of the reserved region found uncorrectable in one place: line, and whether in the mirror (R202). -/
  badCopy : List (Nat × Bool)
  keys    : KMap KeySlot
  /-- Host memory, and ranges [lo, hi) whose DMA fails. -/
  hostMem : List Host.Cell
  hostBad : List (Nat × Nat)
  time    : TimeState
  parts   : KMap Part
  cores   : KMap Core
  phys    : KMap Phys
  threads : KMap Thread
  jobs    : KMap Job
  spurs   : KMap SpurCore
  dmas    : KMap (List Dma)
  nocReqs : List NocReq
  devErrs : List DevErr
  /-- Corrected SRAM words: absolute ns, macro, row (R218); and absolute ns of the last uncorrectable one (R448). -/
  sramErrs : List (Nat × Nat × Nat)
  sramUe  : Option Nat
  planHdr : Word × Word × Word × Word
  cells   : KMap Cell
  subports : KMap Subport
  chains  : KMap Chain
  fhBufs  : List FhBuf
  seqs    : KMap Seq
  cmds    : KMap Cmd
  nextCmd : Nat
  passes  : List Pass
  nextPass : Nat
  models  : KMap Model
  deltas  : KMap Delta
  /-- Loads of each variant so far (R342): owner, model, variant, count. -/
  loads   : List (Nat × Nat × Nat × Nat)
  lastAdm : Option Nat
  frames  : KMap Frame
  chunks  : KMap (Nat × Nat)
  freeLists : KMap (List Nat)
  nodes   : KMap Node
  lru     : KMap (List Nat)
  heldFrames : List Nat
  scopesDead : List Nat
  spills  : List Spill
  links   : KMap Link
  members : List Nat
  spares  : List Nat
  cachePeers : List Nat
  routes  : KMap Route
  fabReqs : List FabReq
  nextTid : KMap Nat
  windows : KMap Dedup
  peers   : KMap Peer
  move    : Option ShardMove
  rings   : KMap Ring
  slices  : KMap Slice
  groups  : KMap Group
  /-- THAW commands that wait for their step boundary (R277): sequence, ring, token, peer spill. -/
  thaws   : List (Nat × Nat × Nat × Bool)
  copies  : List HostCopy
  heldCmds : List Held
  /-- The partition whose controller is the placement coordinator (R33, R34). -/
  coord   : Option Nat
  ctlWindow : List CqEntry
  ctlNeg  : Bool
  ctlNegPend : Bool
  ctlAgreed : Nat × Nat
  /-- Lower halves of 128-bit registers that wait for their upper halves (R411). -/
  halves  : KMap Nat
  /-- Absolute ns from which the control function's heartbeat is watched; none after its timeout. -/
  ctlHb   : Option Nat
  events  : List CqEntry
  procs   : KMap Proc
  bring   : Bring
  sec     : SecState
  mgt     : MgtState
  /-- Free values drawn so far: the model's own counter (applied to the opaque constants of Config). -/
  free    : Nat
  /-- Everything that left the device, newest first: the model's own record of its outputs. -/
  out     : List Out
  deriving DecidableEq, Repr

/-! ## One update per field: every change of the state goes through these -/

def State.withPending (s : State) (v : List Instr) : State := { s with pending := v }
def State.withRegs (s : State) (v : KMap Nat) : State := { s with regs := v }
def State.withStaged (s : State) (v : KMap Nat) : State := { s with staged := v }
def State.withMem (s : State) (v : List Host.Cell) : State := { s with mem := v }
def State.withPoison (s : State) (v : List Nat) : State := { s with poison := v }
def State.withBadCopy (s : State) (v : List (Nat × Bool)) : State := { s with badCopy := v }
def State.withLineKey (s : State) (v : KMap (Nat × Nat)) : State := { s with lineKey := v }
def State.withKeys (s : State) (v : KMap KeySlot) : State := { s with keys := v }
def State.withHostMem (s : State) (v : List Host.Cell) : State := { s with hostMem := v }
def State.withTime (s : State) (v : TimeState) : State := { s with time := v }
def State.withParts (s : State) (v : KMap Part) : State := { s with parts := v }
def State.withCores (s : State) (v : KMap Core) : State := { s with cores := v }
def State.withPhys (s : State) (v : KMap Phys) : State := { s with phys := v }
def State.withThreads (s : State) (v : KMap Thread) : State := { s with threads := v }
def State.withJobs (s : State) (v : KMap Job) : State := { s with jobs := v }
def State.withSpurs (s : State) (v : KMap SpurCore) : State := { s with spurs := v }
def State.withDmas (s : State) (v : KMap (List Dma)) : State := { s with dmas := v }
def State.withNocReqs (s : State) (v : List NocReq) : State := { s with nocReqs := v }
def State.withDevErrs (s : State) (v : List DevErr) : State := { s with devErrs := v }
def State.withSramErrs (s : State) (v : List (Nat × Nat × Nat)) : State := { s with sramErrs := v }
def State.withSramUe (s : State) (v : Option Nat) : State := { s with sramUe := v }
def State.withPlanHdr (s : State) (v : Word × Word × Word × Word) : State := { s with planHdr := v }
def State.withCells (s : State) (v : KMap Cell) : State := { s with cells := v }
def State.withSubports (s : State) (v : KMap Subport) : State := { s with subports := v }
def State.withChains (s : State) (v : KMap Chain) : State := { s with chains := v }
def State.withFhBufs (s : State) (v : List FhBuf) : State := { s with fhBufs := v }
def State.withSeqs (s : State) (v : KMap Seq) : State := { s with seqs := v }
def State.withCmds (s : State) (v : KMap Cmd) : State := { s with cmds := v }
def State.withNextCmd (s : State) (v : Nat) : State := { s with nextCmd := v }
def State.withPasses (s : State) (v : List Pass) : State := { s with passes := v }
def State.withNextPass (s : State) (v : Nat) : State := { s with nextPass := v }
def State.withModels (s : State) (v : KMap Model) : State := { s with models := v }
def State.withDeltas (s : State) (v : KMap Delta) : State := { s with deltas := v }
def State.withLoads (s : State) (v : List (Nat × Nat × Nat × Nat)) : State := { s with loads := v }
def State.withLastAdm (s : State) (v : Option Nat) : State := { s with lastAdm := v }
def State.withFrames (s : State) (v : KMap Frame) : State := { s with frames := v }
def State.withChunks (s : State) (v : KMap (Nat × Nat)) : State := { s with chunks := v }
def State.withFreeLists (s : State) (v : KMap (List Nat)) : State := { s with freeLists := v }
def State.withNodes (s : State) (v : KMap Node) : State := { s with nodes := v }
def State.withLru (s : State) (v : KMap (List Nat)) : State := { s with lru := v }
def State.withHeldFrames (s : State) (v : List Nat) : State := { s with heldFrames := v }
def State.withScopesDead (s : State) (v : List Nat) : State := { s with scopesDead := v }
def State.withSpills (s : State) (v : List Spill) : State := { s with spills := v }
def State.withLinks (s : State) (v : KMap Link) : State := { s with links := v }
def State.withMembers (s : State) (v : List Nat) : State := { s with members := v }
def State.withSpares (s : State) (v : List Nat) : State := { s with spares := v }
def State.withCachePeers (s : State) (v : List Nat) : State := { s with cachePeers := v }
def State.withRoutes (s : State) (v : KMap Route) : State := { s with routes := v }
def State.withFabReqs (s : State) (v : List FabReq) : State := { s with fabReqs := v }
def State.withNextTid (s : State) (v : KMap Nat) : State := { s with nextTid := v }
def State.withWindows (s : State) (v : KMap Dedup) : State := { s with windows := v }
def State.withPeers (s : State) (v : KMap Peer) : State := { s with peers := v }
def State.withMove (s : State) (v : Option ShardMove) : State := { s with move := v }
def State.withRings (s : State) (v : KMap Ring) : State := { s with rings := v }
def State.withSlices (s : State) (v : KMap Slice) : State := { s with slices := v }
def State.withGroups (s : State) (v : KMap Group) : State := { s with groups := v }
def State.withThaws (s : State) (v : List (Nat × Nat × Nat × Bool)) : State := { s with thaws := v }
def State.withCopies (s : State) (v : List HostCopy) : State := { s with copies := v }
def State.withHeldCmds (s : State) (v : List Held) : State := { s with heldCmds := v }
def State.withCoord (s : State) (v : Option Nat) : State := { s with coord := v }
def State.withCtlWindow (s : State) (v : List CqEntry) : State := { s with ctlWindow := v }
def State.withCtlNeg (s : State) (v : Bool) : State := { s with ctlNeg := v }
def State.withCtlNegPend (s : State) (v : Bool) : State := { s with ctlNegPend := v }
def State.withCtlAgreed (s : State) (v : Nat × Nat) : State := { s with ctlAgreed := v }
def State.withHalves (s : State) (v : KMap Nat) : State := { s with halves := v }
def State.withCtlHb (s : State) (v : Option Nat) : State := { s with ctlHb := v }
def State.withEvents (s : State) (v : List CqEntry) : State := { s with events := v }
def State.withProcs (s : State) (v : KMap Proc) : State := { s with procs := v }
def State.withBring (s : State) (v : Bring) : State := { s with bring := v }
def State.withSec (s : State) (v : SecState) : State := { s with sec := v }
def State.withMgt (s : State) (v : MgtState) : State := { s with mgt := v }
def State.withFree (s : State) (v : Nat) : State := { s with free := v }
def State.withOut (s : State) (v : List Out) : State := { s with out := v }

/-! ## Reset -/

/-- A processor at reset. -/
def Proc.zero : Proc :=
  { wdDue := 0, crashes := [], downAt := 0, log := [], wrOff := 0, wraps := 0, rseq := 0, boots := 0, sect := (0, 0), prevSect := none,
    newCrashes := 0, sectPend := none, dbgHalt := false, bps := [], mail := [] }

/-- Time at reset (R45). -/
def TimeState.zero : TimeState :=
  { sec := 315964819, ns := 0, frac := 0, rem := 0, edges := false, tick := 0, cut := false, lockRun := [], pending := none, locked := false,
    freq := 0, rates := [], holdSince := none, refuseSince := none, todWritten := false, synceValid := false,
    synceQl := 0, ppsLast := none, masters := [], gm := none, armed := 0, lockWaitOver := false,
    degraded := false }

/-- An image slot of the NOR as the model finds it. -/
def SlotImage.zero : SlotImage :=
  { stage1Ok := true, restOk := true, svn := 0, keyGen := 0, version := 0, digest := 0,
    sectVer := List.replicate 7 0, sectDig := List.replicate 7 0 }

/-- Bring-up state before the 72 V input. -/
def Bring.zero : Bring :=
  { powered := false, resetN := true, perst := true, inReset := false, shutAt := none, tripped := false,
    warm := false, token := none, waves := 0, waveFail := [], slot := 0, refused := [],
    boot := { blank := true, bootSlot := 0, confirmed := none, onTrial := false },
    images := [SlotImage.zero, SlotImage.zero], dcr := none, dcrSerial := 0, dcrNext := none, dmNext := none, dm := [], dmQueue := [],
    clPhase := [], rstSince := [], unitRst := [], startNs := 0, boots := 0, downDomains := [], rowFix := [], noPinned := [], noBank := [], vcore := #v[0, 0, 0, 0] }

def SecState.zero : SecState :=
  { nonces := 0, nonceLive := false, nonceAt := 0, fails := 0, lockUntil := 0, perm := 0, signed := [], eids := [],
    session := none, chain := [], spurBps := [], pcPrev := none, domKey := false, domVal := 0, rootOk := false, devId := 0, bootNo := 0, bootKey := false, ent := none }

def MgtState.zero : MgtState :=
  { zeroRun := 0, pwrClamp := false, thmClamp := false, halfTicks := 0, justCleared := false, window := [],
    norQueue := [], nor := [], cairnQueue := [], radioRem := 0, devRem := 0, fault := false,
    pwrgd := false }

/-- Registers that do not stand at zero nor at a value of the Reset column: the firmware processors are off until
start-up runs them (`pstate` 3 of FW.PROC_STAT[i], "set at start-up", R430). -/
def regsReset : KMap Nat := (List.range 11).map fun i => (8 * (0xB00108 + 64 * i), 3)

/-- The device before the 72 V input is applied: every register at its Reset column, PD49 off, nothing listed in memory,
no command waiting. -/
def State.reset : State :=
  { pending := [], regs := regsReset, staged := [], mem := [], poison := [], lineKey := [], badCopy := [], keys := [], hostMem := [],
    hostBad := [], time := TimeState.zero, parts := [], cores := [], phys := [], threads := [], jobs := [], spurs := [],
    dmas := [], nocReqs := [], devErrs := [], sramErrs := [], sramUe := none, planHdr := (0, 0, 0, 0), cells := [], subports := [], chains := [],
    fhBufs := [], seqs := [], cmds := [], nextCmd := 0, passes := [], nextPass := 0, models := [], deltas := [],
    loads := [], lastAdm := none, frames := [], chunks := [], freeLists := [], nodes := [], lru := [], heldFrames := [],
    scopesDead := [], spills := [], links := [], members := [], spares := [], cachePeers := [], routes := [],
    fabReqs := [], nextTid := [], windows := [], peers := [], move := none, rings := [], slices := [], groups := [],
    thaws := [], copies := [], heldCmds := [], coord := none, ctlWindow := [], ctlNeg := false, ctlNegPend := false, ctlAgreed := (0, 0), halves := [], ctlHb := none, events := [], procs := [],
    bring := Bring.zero, sec := SecState.zero, mgt := MgtState.zero, free := 0, out := [] }

end Sys2Proof.Machine
end

