-- ==== Sys2Proof/Machine/Fields.lean ====
section
/-! DEFINITION. The register maps of the manual: one `Field` per row of the tables "Bits | Field | Access | Reset |
Meaning" (R14), with its BAR0 address (R381), and the list of all of them. -/

namespace Sys2Proof.Machine

/-- Access codes (R15). -/
inductive Acc where
  | ro | rw | w1c | wo | rs
  deriving DecidableEq, Repr

/-- A field of a (possibly indexed) register: instance `i` lies at `base + stride · i`. Where `per` is not 0, only
instances with `i mod per < lim` exist. `reset` is the Reset column. -/
structure Field where
  base   : Nat
  stride : Nat
  count  : Nat
  per    : Nat
  lim    : Nat
  lo     : Nat
  width  : Nat
  acc    : Acc
  reset  : Nat
  /-- Host software may write it. -/
  host   : Bool
  /-- Indices per partition where PCp writes it; 0 where it does not. -/
  pcDiv  : Nat
  /-- The field has a command of its own. -/
  own    : Bool
  /-- Limits applied at commit (staged fields) or at the write. -/
  clamp  : Option (Nat × Nat)
  deriving DecidableEq, Repr

namespace F

/-- R68: TIME.CTRL `src_sel`. -/
def TIME_CTRL.src_sel : Field := ⟨0x100000, 0, 1, 0, 0, 0, 2, .rw, 0, true, 0, true, none⟩
/-- R68: TIME.CTRL `synce_en`. -/
def TIME_CTRL.synce_en : Field := ⟨0x100000, 0, 1, 0, 0, 2, 1, .rw, 0, true, 0, true, none⟩
/-- R68: TIME.CTRL `step_arm`. -/
def TIME_CTRL.step_arm : Field := ⟨0x100000, 0, 1, 0, 0, 3, 1, .wo, 0, true, 0, true, none⟩
/-- R68: TIME.CTRL `force_holdover`. -/
def TIME_CTRL.force_holdover : Field := ⟨0x100000, 0, 1, 0, 0, 4, 1, .rw, 0, true, 0, true, none⟩
/-- R68: TIME.CTRL `pps_out_force`. -/
def TIME_CTRL.pps_out_force : Field := ⟨0x100000, 0, 1, 0, 0, 5, 1, .rw, 0, true, 0, false, none⟩
/-- R68: TIME.CTRL `pps_out_en`. -/
def TIME_CTRL.pps_out_en : Field := ⟨0x100000, 0, 1, 0, 0, 6, 1, .rw, 0, true, 0, false, none⟩
/-- R68: TIME.CTRL `clk10m_out_en`. -/
def TIME_CTRL.clk10m_out_en : Field := ⟨0x100000, 0, 1, 0, 0, 7, 1, .rw, 0, true, 0, false, none⟩
/-- R68: TIME.STAT `state`. -/
def TIME_STAT.state : Field := ⟨0x100008, 0, 1, 0, 0, 0, 3, .ro, 0, false, 0, false, none⟩
/-- R68: TIME.STAT `stepped`. -/
def TIME_STAT.stepped : Field := ⟨0x100008, 0, 1, 0, 0, 3, 1, .ro, 0, false, 0, false, none⟩
/-- R68: TIME.STAT `jump_refused`. -/
def TIME_STAT.jump_refused : Field := ⟨0x100008, 0, 1, 0, 0, 4, 1, .w1c, 0, true, 0, false, none⟩
/-- R68: TIME.STAT `hold_limit_exceeded`. -/
def TIME_STAT.hold_limit_exceeded : Field := ⟨0x100008, 0, 1, 0, 0, 5, 1, .w1c, 0, true, 0, false, none⟩
/-- R68: TIME.STAT `refuse_fault`. -/
def TIME_STAT.refuse_fault : Field := ⟨0x100008, 0, 1, 0, 0, 6, 1, .w1c, 0, true, 0, false, none⟩
/-- R68: TIME.STAT `rate_clamped`. -/
def TIME_STAT.rate_clamped : Field := ⟨0x100008, 0, 1, 0, 0, 7, 1, .w1c, 0, true, 0, false, none⟩
/-- R68: TIME.STAT `step_refused`. -/
def TIME_STAT.step_refused : Field := ⟨0x100008, 0, 1, 0, 0, 8, 1, .w1c, 0, true, 0, false, none⟩
/-- R68: TIME.STAT `synce_ok`. -/
def TIME_STAT.synce_ok : Field := ⟨0x100008, 0, 1, 0, 0, 9, 1, .ro, 0, false, 0, false, none⟩
/-- R68: TIME.STAT `pps_in_present`. -/
def TIME_STAT.pps_in_present : Field := ⟨0x100008, 0, 1, 0, 0, 10, 1, .ro, 0, false, 0, false, none⟩
/-- R68: TIME.STAT `cmp_stepped`. -/
def TIME_STAT.cmp_stepped : Field := ⟨0x100008, 0, 1, 0, 0, 11, 1, .w1c, 0, true, 0, false, none⟩
/-- R68: TIME.PORT `ptp_port`. -/
def TIME_PORT.ptp_port : Field := ⟨0x100010, 0, 1, 0, 0, 0, 3, .rw, 0, true, 0, false, none⟩
/-- R68: TIME.PORT `ptp_subport`. -/
def TIME_PORT.ptp_subport : Field := ⟨0x100010, 0, 1, 0, 0, 3, 2, .rw, 0, true, 0, false, none⟩
/-- R68: TIME.PORT `synce_port`. -/
def TIME_PORT.synce_port : Field := ⟨0x100010, 0, 1, 0, 0, 5, 3, .rw, 0, true, 0, false, none⟩
/-- R68: TIME.PORT `synce_subport`. -/
def TIME_PORT.synce_subport : Field := ⟨0x100010, 0, 1, 0, 0, 8, 2, .rw, 0, true, 0, false, none⟩
/-- R68: TIME.PORT `profile`. -/
def TIME_PORT.profile : Field := ⟨0x100010, 0, 1, 0, 0, 10, 1, .rw, 0, true, 0, false, none⟩
/-- R68: TIME.PORT `domain`. -/
def TIME_PORT.domain : Field := ⟨0x100010, 0, 1, 0, 0, 16, 8, .rw, 0, true, 0, false, none⟩
/-- R68: TIME.JUMP_THR `thr_ns`. -/
def TIME_JUMP_THR.thr_ns : Field := ⟨0x100018, 0, 1, 0, 0, 0, 20, .rs, 1000, true, 0, false, some (20, 1000000)⟩
/-- R68: TIME.SLEW `slew_ppb`. -/
def TIME_SLEW.slew_ppb : Field := ⟨0x100020, 0, 1, 0, 0, 0, 14, .rs, 1000, true, 0, false, some (10, 10000)⟩
/-- R68: TIME.HOLD `hold_limit_s`. -/
def TIME_HOLD.hold_limit_s : Field := ⟨0x100028, 0, 1, 0, 0, 0, 16, .rw, 5, true, 0, false, none⟩
/-- R68: TIME.HOLD `refuse_limit_s`. -/
def TIME_HOLD.refuse_limit_s : Field := ⟨0x100028, 0, 1, 0, 0, 16, 16, .rw, 10, true, 0, false, none⟩
/-- R68: TIME.HOLD `lock_wait_s`. -/
def TIME_HOLD.lock_wait_s : Field := ⟨0x100028, 0, 1, 0, 0, 32, 16, .ro, 30, false, 0, false, none⟩
/-- R68: TIME.SNAP_CTRL `snap`. -/
def TIME_SNAP_CTRL.snap : Field := ⟨0x100030, 0, 1, 0, 0, 0, 1, .wo, 0, true, 0, true, none⟩
/-- R68: TIME.SNAP_SEC `sec`. -/
def TIME_SNAP_SEC.sec : Field := ⟨0x100038, 0, 1, 0, 0, 0, 48, .ro, 0, false, 0, false, none⟩
/-- R68: TIME.SNAP_SUB `ns`. -/
def TIME_SNAP_SUB.ns : Field := ⟨0x100040, 0, 1, 0, 0, 18, 30, .ro, 0, false, 0, false, none⟩
/-- R68: TIME.SNAP_SUB `frac`. -/
def TIME_SNAP_SUB.frac : Field := ⟨0x100040, 0, 1, 0, 0, 0, 18, .ro, 0, false, 0, false, none⟩
/-- R68: TIME.SNAP_CMP `cmp`. -/
def TIME_SNAP_CMP.cmp : Field := ⟨0x100048, 0, 1, 0, 0, 0, 64, .ro, 0, false, 0, false, none⟩
/-- R68: TIME.SNAP_TICK `tick_count`. -/
def TIME_SNAP_TICK.tick_count : Field := ⟨0x100050, 0, 1, 0, 0, 0, 64, .ro, 0, false, 0, false, none⟩
/-- R68: TIME.FRAME `sfn`. -/
def TIME_FRAME.sfn : Field := ⟨0x100058, 0, 1, 0, 0, 0, 10, .ro, 0, false, 0, false, none⟩
/-- R68: TIME.FRAME `tick_in_frame`. -/
def TIME_FRAME.tick_in_frame : Field := ⟨0x100058, 0, 1, 0, 0, 10, 7, .ro, 0, false, 0, false, none⟩
/-- R68: TIME.FRAME `frame_offset`. -/
def TIME_FRAME.frame_offset : Field := ⟨0x100058, 0, 1, 0, 0, 24, 7, .ro, 0, false, 0, false, none⟩
/-- R68: TIME.FRAME `skipped_ticks`. -/
def TIME_FRAME.skipped_ticks : Field := ⟨0x100058, 0, 1, 0, 0, 32, 32, .ro, 0, false, 0, false, none⟩
/-- R68: TIME.OFFSET `last_offset`. -/
def TIME_OFFSET.last_offset : Field := ⟨0x100060, 0, 1, 0, 0, 0, 32, .ro, 0, false, 0, false, none⟩
/-- R68: TIME.OFFSET `rate`. -/
def TIME_OFFSET.rate : Field := ⟨0x100060, 0, 1, 0, 0, 32, 32, .ro, 0, false, 0, false, none⟩
/-- R68: TIME.COUNT `refuse_cnt`. -/
def TIME_COUNT.refuse_cnt : Field := ⟨0x100068, 0, 1, 0, 0, 0, 32, .ro, 0, false, 0, false, none⟩
/-- R68: TIME.COUNT `gm_change_cnt`. -/
def TIME_COUNT.gm_change_cnt : Field := ⟨0x100068, 0, 1, 0, 0, 32, 32, .ro, 0, false, 0, false, none⟩
/-- R68: TIME.UTC `utc_offset`. -/
def TIME_UTC.utc_offset : Field := ⟨0x100070, 0, 1, 0, 0, 0, 16, .ro, 0, false, 0, false, none⟩
/-- R68: TIME.UTC `utc_valid`. -/
def TIME_UTC.utc_valid : Field := ⟨0x100070, 0, 1, 0, 0, 16, 1, .ro, 0, false, 0, false, none⟩
/-- R68: TIME.PPS_IN `cable_delay_ns`. -/
def TIME_PPS_IN.cable_delay_ns : Field := ⟨0x100078, 0, 1, 0, 0, 0, 32, .rw, 0, true, 0, false, none⟩
/-- R68: TIME.PPS_IN `edge`. -/
def TIME_PPS_IN.edge : Field := ⟨0x100078, 0, 1, 0, 0, 32, 1, .rw, 0, true, 0, false, none⟩
/-- R68: TIME.TOD_NEXT `tod_sec`. -/
def TIME_TOD_NEXT.tod_sec : Field := ⟨0x100080, 0, 1, 0, 0, 0, 48, .rw, 0, true, 0, false, none⟩
/-- R68: TIME.PPS_OUT `width_ns`. -/
def TIME_PPS_OUT.width_ns : Field := ⟨0x100088, 0, 1, 0, 0, 0, 29, .rs, 1000000, true, 0, false, some (100, 500000000)⟩
/-- R68: TIME.CMP_TARGET `target`. -/
def TIME_CMP_TARGET.target : Field := ⟨0x100100, 8, 16, 0, 0, 0, 64, .rw, 0, true, 0, true, none⟩
/-- R68: TIME.CMP_CTRL `enable`. -/
def TIME_CMP_CTRL.enable : Field := ⟨0x100180, 0, 1, 0, 0, 0, 16, .rw, 0, true, 0, true, none⟩
/-- R68: TIME.CMP_CTRL `fired`. -/
def TIME_CMP_CTRL.fired : Field := ⟨0x100180, 0, 1, 0, 0, 16, 16, .w1c, 0, true, 0, true, none⟩
/-- R95: TICK.CTRL `bank_sel`. -/
def TICK_CTRL.bank_sel : Field := ⟨0x200000, 256, 8, 0, 0, 0, 1, .rs, 0, true, 1, false, none⟩
/-- R95: TICK.CTRL `table_len`. -/
def TICK_CTRL.table_len : Field := ⟨0x200000, 256, 8, 0, 0, 4, 11, .rs, 0, true, 1, false, none⟩
/-- R95: TICK.CTRL `open_en`. -/
def TICK_CTRL.open_en : Field := ⟨0x200000, 256, 8, 0, 0, 16, 1, .rw, 1, true, 1, false, none⟩
/-- R95: TICK.STAT `running`. -/
def TICK_STAT.running : Field := ⟨0x200008, 256, 8, 0, 0, 0, 1, .ro, 0, false, 1, false, none⟩
/-- R95: TICK.STAT `cur_bank`. -/
def TICK_STAT.cur_bank : Field := ⟨0x200008, 256, 8, 0, 0, 1, 1, .ro, 0, false, 1, false, none⟩
/-- R95: TICK.STAT `cur_len`. -/
def TICK_STAT.cur_len : Field := ⟨0x200008, 256, 8, 0, 0, 4, 11, .ro, 0, false, 1, false, none⟩
/-- R95: TICK.STAT `cur_col`. -/
def TICK_STAT.cur_col : Field := ⟨0x200008, 256, 8, 0, 0, 16, 11, .ro, 0, false, 1, false, none⟩
/-- R95: TICK.STAT `stage_mismatch`. -/
def TICK_STAT.stage_mismatch : Field := ⟨0x200008, 256, 8, 0, 0, 32, 1, .w1c, 0, true, 1, false, none⟩
/-- R95: TICK.STAT `stage_pending`. -/
def TICK_STAT.stage_pending : Field := ⟨0x200008, 256, 8, 0, 0, 33, 1, .ro, 0, false, 1, false, none⟩
/-- R95: TICK.STAT `stop_refused`. -/
def TICK_STAT.stop_refused : Field := ⟨0x200008, 256, 8, 0, 0, 34, 1, .w1c, 0, true, 1, false, none⟩
/-- R95: TICK.STAT `col_err`. -/
def TICK_STAT.col_err : Field := ⟨0x200008, 256, 8, 0, 0, 35, 1, .w1c, 0, true, 1, false, none⟩
/-- R95: TICK.STAT `overrun`. -/
def TICK_STAT.overrun : Field := ⟨0x200008, 256, 8, 0, 0, 36, 1, .w1c, 0, true, 1, false, none⟩
/-- R95: TICK.STAT `host_wr_ign`. -/
def TICK_STAT.host_wr_ign : Field := ⟨0x200008, 256, 8, 0, 0, 37, 1, .w1c, 0, true, 1, false, none⟩
/-- R95: TICK.STAT `fit_ok`. -/
def TICK_STAT.fit_ok : Field := ⟨0x200008, 256, 8, 0, 0, 38, 1, .ro, 0, false, 1, false, none⟩
/-- R95: TICK.BANK_BASE `base`. -/
def TICK_BANK_BASE.base : Field := ⟨0x200010, 256, 8, 0, 0, 0, 48, .ro, 279275953455104, false, 1, false, none⟩
/-- R95: TICK.FIT `min_slack`. -/
def TICK_FIT.min_slack : Field := ⟨0x200018, 256, 8, 0, 0, 0, 19, .ro, 0, false, 1, false, none⟩
/-- R95: TICK.FIT `fit_margin`. -/
def TICK_FIT.fit_margin : Field := ⟨0x200018, 256, 8, 0, 0, 20, 19, .ro, 19800, false, 1, false, none⟩
/-- R95: TICK.FIT `abort_lead`. -/
def TICK_FIT.abort_lead : Field := ⟨0x200018, 256, 8, 0, 0, 40, 8, .ro, 96, false, 1, false, none⟩
/-- R95: TICK.OPEN_SHARE `open_share`. -/
def TICK_OPEN_SHARE.open_share : Field := ⟨0x200020, 256, 8, 0, 0, 0, 11, .rs, 1024, true, 1, false, some (0, 1024)⟩
/-- R95: TICK.ABORT `abort_radio`. -/
def TICK_ABORT.abort_radio : Field := ⟨0x200028, 256, 8, 0, 0, 0, 32, .ro, 0, false, 1, false, none⟩
/-- R95: TICK.ABORT `abort_edge`. -/
def TICK_ABORT.abort_edge : Field := ⟨0x200028, 256, 8, 0, 0, 32, 32, .ro, 0, false, 1, false, none⟩
/-- R95: TICK.REPLAY `replay_cyc`. -/
def TICK_REPLAY.replay_cyc : Field := ⟨0x200030, 256, 8, 0, 0, 0, 64, .ro, 0, false, 1, false, none⟩
/-- R95: TICK.OVERRUN `overrun_cnt`. -/
def TICK_OVERRUN.overrun_cnt : Field := ⟨0x200038, 256, 8, 0, 0, 0, 32, .ro, 0, false, 1, false, none⟩
/-- R95: TICK.OVERRUN `last_lane`. -/
def TICK_OVERRUN.last_lane : Field := ⟨0x200038, 256, 8, 0, 0, 32, 7, .ro, 0, false, 1, false, none⟩
/-- R95: TICK.OVERRUN `last_col`. -/
def TICK_OVERRUN.last_col : Field := ⟨0x200038, 256, 8, 0, 0, 40, 11, .ro, 0, false, 1, false, none⟩
/-- R95: TICK.COMMIT `mismatch_cnt`. -/
def TICK_COMMIT.mismatch_cnt : Field := ⟨0x200040, 256, 8, 0, 0, 0, 32, .ro, 0, false, 1, false, none⟩
/-- R95: TICK.COMMIT `col_err_cnt`. -/
def TICK_COMMIT.col_err_cnt : Field := ⟨0x200040, 256, 8, 0, 0, 32, 32, .ro, 0, false, 1, false, none⟩
/-- R126: MSF.GCTRL `gate_en`. -/
def MSF_GCTRL.gate_en : Field := ⟨0x300000, 0, 1, 0, 0, 0, 1, .rw, 1, false, 0, false, none⟩
/-- R126: MSF.GCTRL `skip_en`. -/
def MSF_GCTRL.skip_en : Field := ⟨0x300000, 0, 1, 0, 0, 1, 1, .rw, 1, false, 0, false, none⟩
/-- R126: MSF.GCTRL `kat_period`. -/
def MSF_GCTRL.kat_period : Field := ⟨0x300000, 0, 1, 0, 0, 8, 16, .rw, 8000, false, 0, false, none⟩
/-- R126: MSF.GCTRL `hang_cyc`. -/
def MSF_GCTRL.hang_cyc : Field := ⟨0x300000, 0, 1, 0, 0, 32, 24, .rw, 65536, false, 0, false, none⟩
/-- R126: MSF.DESC_BASE `base`. -/
def MSF_DESC_BASE.base : Field := ⟨0x300100, 8, 32, 0, 0, 0, 48, .rw, 0, false, 4, false, none⟩
/-- R126: MSF.CTRL `fence_req`. -/
def MSF_CTRL.fence_req : Field := ⟨0x301000, 64, 128, 0, 0, 0, 1, .wo, 0, false, 16, true, none⟩
/-- R126: MSF.CTRL `kat_now`. -/
def MSF_CTRL.kat_now : Field := ⟨0x301000, 64, 128, 0, 0, 1, 1, .wo, 0, false, 16, true, none⟩
/-- R126: MSF.STAT `busy`. -/
def MSF_STAT.busy : Field := ⟨0x301008, 64, 128, 0, 0, 0, 1, .ro, 0, false, 16, false, none⟩
/-- R126: MSF.STAT `bg_active`. -/
def MSF_STAT.bg_active : Field := ⟨0x301008, 64, 128, 0, 0, 1, 1, .ro, 0, false, 16, false, none⟩
/-- R126: MSF.STAT `fenced`. -/
def MSF_STAT.fenced : Field := ⟨0x301008, 64, 128, 0, 0, 2, 1, .ro, 0, false, 16, false, none⟩
/-- R126: MSF.STAT `desc_err`. -/
def MSF_STAT.desc_err : Field := ⟨0x301008, 64, 128, 0, 0, 3, 1, .w1c, 0, false, 16, false, none⟩
/-- R126: MSF.STAT `ue_err`. -/
def MSF_STAT.ue_err : Field := ⟨0x301008, 64, 128, 0, 0, 4, 1, .w1c, 0, false, 16, false, none⟩
/-- R126: MSF.STAT `hang`. -/
def MSF_STAT.hang : Field := ⟨0x301008, 64, 128, 0, 0, 5, 1, .w1c, 0, false, 16, false, none⟩
/-- R126: MSF.STAT `kat_fail`. -/
def MSF_STAT.kat_fail : Field := ⟨0x301008, 64, 128, 0, 0, 6, 1, .w1c, 0, false, 16, false, none⟩
/-- R126: MSF.STAT `delta_err`. -/
def MSF_STAT.delta_err : Field := ⟨0x301008, 64, 128, 0, 0, 7, 1, .w1c, 0, false, 16, false, none⟩
/-- R126: MSF.STAT `acc_sat`. -/
def MSF_STAT.acc_sat : Field := ⟨0x301008, 64, 128, 0, 0, 8, 1, .w1c, 0, false, 16, false, none⟩
/-- R126: MSF.STAT `strict_flags`. -/
def MSF_STAT.strict_flags : Field := ⟨0x301008, 64, 128, 0, 0, 9, 4, .w1c, 0, false, 16, false, none⟩
/-- R126: MSF.STAT `fence_cause`. -/
def MSF_STAT.fence_cause : Field := ⟨0x301008, 64, 128, 0, 0, 13, 3, .ro, 0, false, 16, false, none⟩
/-- R126: MSF.CYC `array_cyc`. -/
def MSF_CYC.array_cyc : Field := ⟨0x301010, 64, 128, 0, 0, 0, 64, .ro, 0, false, 16, false, none⟩
/-- R126: MSF.OPS `active_mcell`. -/
def MSF_OPS.active_mcell : Field := ⟨0x301018, 64, 128, 0, 0, 0, 32, .ro, 0, false, 16, false, none⟩
/-- R126: MSF.OPS `gated_mcell`. -/
def MSF_OPS.gated_mcell : Field := ⟨0x301018, 64, 128, 0, 0, 32, 32, .ro, 0, false, 16, false, none⟩
/-- R126: MSF.LAST `last_tag`. -/
def MSF_LAST.last_tag : Field := ⟨0x301020, 64, 128, 0, 0, 0, 32, .ro, 0, false, 16, false, none⟩
/-- R126: MSF.LAST `last_end`. -/
def MSF_LAST.last_end : Field := ⟨0x301020, 64, 128, 0, 0, 32, 2, .ro, 0, false, 16, false, none⟩
/-- R126: MSF.MAP `phys_slot`. -/
def MSF_MAP.phys_slot : Field := ⟨0x301028, 64, 128, 0, 0, 0, 3, .ro, 0, false, 16, false, none⟩
/-- R126: MSF.MAP `absent`. -/
def MSF_MAP.absent : Field := ⟨0x301028, 64, 128, 0, 0, 3, 1, .ro, 0, false, 16, false, none⟩
/-- R126: MSF.MAP `spare_used`. -/
def MSF_MAP.spare_used : Field := ⟨0x301028, 64, 128, 0, 0, 4, 1, .ro, 0, false, 16, false, none⟩
/-- R171: SPR.GCTRL `kat_period`. -/
def SPR_GCTRL.kat_period : Field := ⟨0x400000, 0, 1, 0, 0, 0, 16, .rw, 8000, false, 0, false, none⟩
/-- R171: SPR.GCTRL `hang_cyc`. -/
def SPR_GCTRL.hang_cyc : Field := ⟨0x400000, 0, 1, 0, 0, 24, 24, .rw, 65536, false, 0, false, none⟩
/-- R171: SPR.CTRL `radio_mask`. -/
def SPR_CTRL.radio_mask : Field := ⟨0x401000, 64, 512, 0, 0, 0, 8, .rs, 0, false, 64, false, none⟩
/-- R171: SPR.CTRL `lock_ways`. -/
def SPR_CTRL.lock_ways : Field := ⟨0x401000, 64, 512, 0, 0, 8, 2, .rs, 0, false, 64, false, none⟩
/-- R171: SPR.CTRL `fence_req`. -/
def SPR_CTRL.fence_req : Field := ⟨0x401000, 64, 512, 0, 0, 16, 1, .wo, 0, false, 64, true, none⟩
/-- R171: SPR.CTRL `kat_now`. -/
def SPR_CTRL.kat_now : Field := ⟨0x401000, 64, 512, 0, 0, 17, 1, .wo, 0, false, 64, true, none⟩
/-- R171: SPR.STAT `busy`. -/
def SPR_STAT.busy : Field := ⟨0x401008, 64, 512, 0, 0, 0, 1, .ro, 0, false, 64, false, none⟩
/-- R171: SPR.STAT `fenced`. -/
def SPR_STAT.fenced : Field := ⟨0x401008, 64, 512, 0, 0, 1, 1, .ro, 0, false, 64, false, none⟩
/-- R171: SPR.STAT `fault`. -/
def SPR_STAT.fault : Field := ⟨0x401008, 64, 512, 0, 0, 2, 1, .w1c, 0, false, 64, false, none⟩
/-- R171: SPR.STAT `ue_err`. -/
def SPR_STAT.ue_err : Field := ⟨0x401008, 64, 512, 0, 0, 3, 1, .w1c, 0, false, 64, false, none⟩
/-- R171: SPR.STAT `hang`. -/
def SPR_STAT.hang : Field := ⟨0x401008, 64, 512, 0, 0, 4, 1, .w1c, 0, false, 64, false, none⟩
/-- R171: SPR.STAT `kat_fail`. -/
def SPR_STAT.kat_fail : Field := ⟨0x401008, 64, 512, 0, 0, 5, 1, .w1c, 0, false, 64, false, none⟩
/-- R171: SPR.STAT `radio_fetch_miss`. -/
def SPR_STAT.radio_fetch_miss : Field := ⟨0x401008, 64, 512, 0, 0, 6, 1, .w1c, 0, false, 64, false, none⟩
/-- R171: SPR.STAT `desc_err`. -/
def SPR_STAT.desc_err : Field := ⟨0x401008, 64, 512, 0, 0, 7, 1, .w1c, 0, false, 64, false, none⟩
/-- R171: SPR.STAT `fence_cause`. -/
def SPR_STAT.fence_cause : Field := ⟨0x401008, 64, 512, 0, 0, 8, 3, .ro, 0, false, 64, false, none⟩
/-- R171: SPR.CYC `open_thr_cyc`. -/
def SPR_CYC.open_thr_cyc : Field := ⟨0x401010, 64, 512, 0, 0, 0, 64, .ro, 0, false, 64, false, none⟩
/-- R171: SPR.RCYC `radio_thr_cyc`. -/
def SPR_RCYC.radio_thr_cyc : Field := ⟨0x401018, 64, 512, 0, 0, 0, 64, .ro, 0, false, 64, false, none⟩
/-- R171: SPR.FAULT `cause`. -/
def SPR_FAULT.cause : Field := ⟨0x401020, 64, 512, 0, 0, 0, 4, .ro, 0, false, 64, false, none⟩
/-- R171: SPR.FAULT `thread`. -/
def SPR_FAULT.thread : Field := ⟨0x401020, 64, 512, 0, 0, 4, 3, .ro, 0, false, 64, false, none⟩
/-- R171: SPR.FAULT `status`. -/
def SPR_FAULT.status : Field := ⟨0x401020, 64, 512, 0, 0, 16, 16, .ro, 0, false, 64, false, none⟩
/-- R171: SPR.FAULT `job_tag`. -/
def SPR_FAULT.job_tag : Field := ⟨0x401020, 64, 512, 0, 0, 32, 32, .ro, 0, false, 64, false, none⟩
/-- R171: SPR.FAULT_PC `pc`. -/
def SPR_FAULT_PC.pc : Field := ⟨0x401028, 64, 512, 0, 0, 0, 48, .ro, 0, false, 64, false, none⟩
/-- R171: SPR.MAP `phys_pos`. -/
def SPR_MAP.phys_pos : Field := ⟨0x401030, 64, 512, 0, 0, 0, 5, .ro, 0, false, 64, false, none⟩
/-- R171: SPR.MAP `absent`. -/
def SPR_MAP.absent : Field := ⟨0x401030, 64, 512, 0, 0, 5, 1, .ro, 0, false, 64, false, none⟩
/-- R171: SPR.MAP `spare_used`. -/
def SPR_MAP.spare_used : Field := ⟨0x401030, 64, 512, 0, 0, 6, 1, .ro, 0, false, 64, false, none⟩
/-- R171: SPR.TSTATE `state_0`. -/
def SPR_TSTATE.state_0 : Field := ⟨0x401038, 64, 512, 0, 0, 0, 3, .ro, 0, false, 64, false, none⟩
/-- R171: SPR.TSTATE `state_1`. -/
def SPR_TSTATE.state_1 : Field := ⟨0x401038, 64, 512, 0, 0, 4, 3, .ro, 0, false, 64, false, none⟩
/-- R171: SPR.TSTATE `state_2`. -/
def SPR_TSTATE.state_2 : Field := ⟨0x401038, 64, 512, 0, 0, 8, 3, .ro, 0, false, 64, false, none⟩
/-- R171: SPR.TSTATE `state_3`. -/
def SPR_TSTATE.state_3 : Field := ⟨0x401038, 64, 512, 0, 0, 12, 3, .ro, 0, false, 64, false, none⟩
/-- R171: SPR.TSTATE `state_4`. -/
def SPR_TSTATE.state_4 : Field := ⟨0x401038, 64, 512, 0, 0, 16, 3, .ro, 0, false, 64, false, none⟩
/-- R171: SPR.TSTATE `state_5`. -/
def SPR_TSTATE.state_5 : Field := ⟨0x401038, 64, 512, 0, 0, 20, 3, .ro, 0, false, 64, false, none⟩
/-- R171: SPR.TSTATE `state_6`. -/
def SPR_TSTATE.state_6 : Field := ⟨0x401038, 64, 512, 0, 0, 24, 3, .ro, 0, false, 64, false, none⟩
/-- R171: SPR.TSTATE `state_7`. -/
def SPR_TSTATE.state_7 : Field := ⟨0x401038, 64, 512, 0, 0, 28, 3, .ro, 0, false, 64, false, none⟩
/-- R189: SPR.GCB_BASE `gcb_base`. -/
def SPR_GCB_BASE.gcb_base : Field := ⟨0x409000, 32, 2048, 0, 0, 0, 48, .rs, 0, false, 256, false, none⟩
/-- R189: SPR.GCB_LEN `gcb_len`. -/
def SPR_GCB_LEN.gcb_len : Field := ⟨0x409008, 32, 2048, 0, 0, 0, 24, .rs, 0, false, 256, false, none⟩
/-- R189: SPR.GCB_RGN_BASE `rgn_base`. -/
def SPR_GCB_RGN_BASE.rgn_base : Field := ⟨0x409010, 32, 2048, 0, 0, 0, 48, .rw, 0, false, 256, true, none⟩
/-- R189: SPR.GCB_RGN_LIM `rgn_limit`. -/
def SPR_GCB_RGN_LIM.rgn_limit : Field := ⟨0x409018, 32, 2048, 0, 0, 0, 48, .rw, 0, false, 256, true, none⟩
/-- R189: SPR.DSP_STAT `gcb_mismatch`. -/
def SPR_DSP_STAT.gcb_mismatch : Field := ⟨0x419000, 8, 512, 0, 0, 0, 4, .w1c, 0, false, 64, false, none⟩
/-- R189: SPR.DSP_STAT `gcb_pending`. -/
def SPR_DSP_STAT.gcb_pending : Field := ⟨0x419000, 8, 512, 0, 0, 4, 4, .ro, 0, false, 64, false, none⟩
/-- R189: SPR.DSP_STAT `rgn_wr_ign`. -/
def SPR_DSP_STAT.rgn_wr_ign : Field := ⟨0x419000, 8, 512, 0, 0, 8, 4, .w1c, 0, false, 64, false, none⟩
/-- R189: SPR.DSP_STAT `sat_cnt`. -/
def SPR_DSP_STAT.sat_cnt : Field := ⟨0x419000, 8, 512, 0, 0, 32, 32, .ro, 0, false, 64, false, none⟩
/-- R221: MEM.MAP `ilv_mode`. -/
def MEM_MAP.ilv_mode : Field := ⟨0x500000, 0, 1, 0, 0, 0, 1, .ro, 0, false, 0, false, none⟩
/-- R221: MEM.MAP `rsv_per_ch`. -/
def MEM_MAP.rsv_per_ch : Field := ⟨0x500000, 0, 1, 0, 0, 8, 7, .ro, 2, false, 0, false, none⟩
/-- R221: MEM.MAP `n_up`. -/
def MEM_MAP.n_up : Field := ⟨0x500000, 0, 1, 0, 0, 16, 5, .ro, 0, false, 0, false, none⟩
/-- R221: MEM.MAP `n_ent`. -/
def MEM_MAP.n_ent : Field := ⟨0x500000, 0, 1, 0, 0, 24, 5, .ro, 0, false, 0, false, none⟩
/-- R221: MEM.MAP `cap_gib`. -/
def MEM_MAP.cap_gib : Field := ⟨0x500000, 0, 1, 0, 0, 32, 10, .ro, 0, false, 0, false, none⟩
/-- R221: MEM.MAP `min_ch`. -/
def MEM_MAP.min_ch : Field := ⟨0x500000, 0, 1, 0, 0, 42, 3, .ro, 2, false, 0, false, none⟩
/-- R221: MEM.SCRUB `sram_scrub_ms`. -/
def MEM_SCRUB.sram_scrub_ms : Field := ⟨0x500008, 0, 1, 0, 0, 0, 16, .rw, 1000, false, 0, false, none⟩
/-- R221: MEM.SCRUB `scrub_h`. -/
def MEM_SCRUB.scrub_h : Field := ⟨0x500008, 0, 1, 0, 0, 16, 8, .rw, 24, false, 0, false, none⟩
/-- R221: MEM.SCRUB `dev_thr`. -/
def MEM_SCRUB.dev_thr : Field := ⟨0x500008, 0, 1, 0, 0, 32, 8, .rw, 16, false, 0, false, none⟩
/-- R221: MEM.SCRUB `row_thr`. -/
def MEM_SCRUB.row_thr : Field := ⟨0x500008, 0, 1, 0, 0, 40, 8, .rw, 8, false, 0, false, none⟩
/-- R221: MEM.SRAM_ERR `ce_cnt`. -/
def MEM_SRAM_ERR.ce_cnt : Field := ⟨0x500010, 0, 1, 0, 0, 0, 32, .ro, 0, false, 0, false, none⟩
/-- R221: MEM.SRAM_ERR `ue_cnt`. -/
def MEM_SRAM_ERR.ue_cnt : Field := ⟨0x500010, 0, 1, 0, 0, 32, 32, .ro, 0, false, 0, false, none⟩
/-- R221: MEM.UE_ADDR `addr`. -/
def MEM_UE_ADDR.addr : Field := ⟨0x500018, 0, 1, 0, 0, 0, 48, .ro, 0, false, 0, false, none⟩
/-- R221: MEM.UE_ADDR `stored_tag`. -/
def MEM_UE_ADDR.stored_tag : Field := ⟨0x500018, 0, 1, 0, 0, 48, 16, .ro, 0, false, 0, false, none⟩
/-- R221: MEM.CH_STAT `state`. -/
def MEM_CH_STAT.state : Field := ⟨0x500100, 32, 24, 0, 0, 0, 2, .ro, 0, false, 0, false, none⟩
/-- R221: MEM.CH_STAT `erasure`. -/
def MEM_CH_STAT.erasure : Field := ⟨0x500100, 32, 24, 0, 0, 2, 1, .ro, 0, false, 0, false, none⟩
/-- R221: MEM.CH_STAT `lost`. -/
def MEM_CH_STAT.lost : Field := ⟨0x500100, 32, 24, 0, 0, 3, 1, .ro, 0, false, 0, false, none⟩
/-- R221: MEM.CH_STAT `rate`. -/
def MEM_CH_STAT.rate : Field := ⟨0x500100, 32, 24, 0, 0, 8, 8, .ro, 0, false, 0, false, none⟩
/-- R221: MEM.CH_ERR `ce_cnt`. -/
def MEM_CH_ERR.ce_cnt : Field := ⟨0x500108, 32, 24, 0, 0, 0, 24, .ro, 0, false, 0, false, none⟩
/-- R221: MEM.CH_ERR `ue_cnt`. -/
def MEM_CH_ERR.ue_cnt : Field := ⟨0x500108, 32, 24, 0, 0, 24, 24, .ro, 0, false, 0, false, none⟩
/-- R221: MEM.CH_ERR `tag_cnt`. -/
def MEM_CH_ERR.tag_cnt : Field := ⟨0x500108, 32, 24, 0, 0, 48, 16, .ro, 0, false, 0, false, none⟩
/-- R221: MEM.DEV_FAIL `failed`. -/
def MEM_DEV_FAIL.failed : Field := ⟨0x500110, 32, 24, 0, 0, 0, 40, .ro, 0, false, 0, false, none⟩
/-- R221: MEM.SP_RSV `rsv_off`. -/
def MEM_SP_RSV.rsv_off : Field := ⟨0x501000, 8, 128, 0, 0, 0, 16, .rs, 0, false, 16, false, none⟩
/-- R221: MEM.SP_RSV `rsv_len`. -/
def MEM_SP_RSV.rsv_len : Field := ⟨0x501000, 8, 128, 0, 0, 16, 16, .rs, 0, false, 16, false, none⟩
/-- R222: NOC.CFG `radio_share`. -/
def NOC_CFG.radio_share : Field := ⟨0x580000, 0, 1, 0, 0, 0, 5, .ro, 8, false, 0, false, none⟩
/-- R222: NOC.CFG `noc_to`. -/
def NOC_CFG.noc_to : Field := ⟨0x580000, 0, 1, 0, 0, 8, 32, .rw, 65536, false, 0, false, none⟩
/-- R222: NOC.STAT `route_rebuilt`. -/
def NOC_STAT.route_rebuilt : Field := ⟨0x580008, 0, 1, 0, 0, 0, 1, .w1c, 0, false, 0, false, none⟩
/-- R222: NOC.STAT `hdr_ue`. -/
def NOC_STAT.hdr_ue : Field := ⟨0x580008, 0, 1, 0, 0, 1, 1, .w1c, 0, false, 0, false, none⟩
/-- R222: NOC.RTR `state`. -/
def NOC_RTR.state : Field := ⟨0x580100, 8, 32, 0, 0, 0, 2, .ro, 0, false, 0, false, none⟩
/-- R222: NOC.RTR `ce_cnt`. -/
def NOC_RTR.ce_cnt : Field := ⟨0x580100, 8, 32, 0, 0, 8, 24, .ro, 0, false, 0, false, none⟩
/-- R222: NOC.RTR `drop_cnt`. -/
def NOC_RTR.drop_cnt : Field := ⟨0x580100, 8, 32, 0, 0, 32, 32, .ro, 0, false, 0, false, none⟩
/-- R222: NOC.ROUTE `order`. -/
def NOC_ROUTE.order : Field := ⟨0x580200, 8, 32, 0, 0, 0, 1, .rw, 0, false, 0, false, none⟩
/-- R222: NOC.ROUTE `waypoint`. -/
def NOC_ROUTE.waypoint : Field := ⟨0x580200, 8, 32, 0, 0, 1, 5, .rw, 0, false, 0, false, none⟩
/-- R222: NOC.ROUTE `wp_valid`. -/
def NOC_ROUTE.wp_valid : Field := ⟨0x580200, 8, 32, 0, 0, 6, 1, .rw, 0, false, 0, false, none⟩
/-- R271: FH.PORT_CFG `split`. -/
def FH_PORT_CFG.split : Field := ⟨0x600000, 256, 8, 0, 0, 0, 2, .ro, 0, false, 0, false, none⟩
/-- R271: FH.PORT_CFG `mtu`. -/
def FH_PORT_CFG.mtu : Field := ⟨0x600000, 256, 8, 0, 0, 2, 14, .ro, 9000, false, 0, false, none⟩
/-- R271: FH.PORT_CFG `pcp_c`. -/
def FH_PORT_CFG.pcp_c : Field := ⟨0x600000, 256, 8, 0, 0, 16, 3, .ro, 7, false, 0, false, none⟩
/-- R271: FH.PORT_CFG `pcp_u`. -/
def FH_PORT_CFG.pcp_u : Field := ⟨0x600000, 256, 8, 0, 0, 19, 3, .ro, 6, false, 0, false, none⟩
/-- R271: FH.PORT_STAT `link_0`. -/
def FH_PORT_STAT.link_0 : Field := ⟨0x600008, 256, 8, 0, 0, 0, 2, .ro, 3, false, 0, false, none⟩
/-- R271: FH.PORT_STAT `link_1`. -/
def FH_PORT_STAT.link_1 : Field := ⟨0x600008, 256, 8, 0, 0, 2, 2, .ro, 3, false, 0, false, none⟩
/-- R271: FH.PORT_STAT `link_2`. -/
def FH_PORT_STAT.link_2 : Field := ⟨0x600008, 256, 8, 0, 0, 4, 2, .ro, 3, false, 0, false, none⟩
/-- R271: FH.PORT_STAT `link_3`. -/
def FH_PORT_STAT.link_3 : Field := ⟨0x600008, 256, 8, 0, 0, 6, 2, .ro, 3, false, 0, false, none⟩
/-- R271: FH.PORT_STAT `link_chg`. -/
def FH_PORT_STAT.link_chg : Field := ⟨0x600008, 256, 8, 0, 0, 8, 1, .w1c, 0, true, 0, false, none⟩
/-- R271: FH.MAC `port_mac`. -/
def FH_MAC.port_mac : Field := ⟨0x600010, 256, 8, 0, 0, 0, 48, .ro, 0, false, 0, false, none⟩
/-- R271: FH.WIN_CP `t1a_cp_min`. -/
def FH_WIN_CP.t1a_cp_min : Field := ⟨0x600018, 256, 8, 0, 0, 0, 20, .ro, 0, false, 0, false, none⟩
/-- R271: FH.WIN_CP `t1a_cp_max`. -/
def FH_WIN_CP.t1a_cp_max : Field := ⟨0x600018, 256, 8, 0, 0, 20, 20, .ro, 0, false, 0, false, none⟩
/-- R271: FH.WIN_DL `t1a_up_min`. -/
def FH_WIN_DL.t1a_up_min : Field := ⟨0x600020, 256, 8, 0, 0, 0, 20, .ro, 0, false, 0, false, none⟩
/-- R271: FH.WIN_DL `t1a_up_max`. -/
def FH_WIN_DL.t1a_up_max : Field := ⟨0x600020, 256, 8, 0, 0, 20, 20, .ro, 0, false, 0, false, none⟩
/-- R271: FH.WIN_UL `ta4_min`. -/
def FH_WIN_UL.ta4_min : Field := ⟨0x600028, 256, 8, 0, 0, 0, 20, .ro, 0, false, 0, false, none⟩
/-- R271: FH.WIN_UL `ta4_max`. -/
def FH_WIN_UL.ta4_max : Field := ⟨0x600028, 256, 8, 0, 0, 20, 20, .ro, 0, false, 0, false, none⟩
/-- R271: FH.DM `dm_start`. -/
def FH_DM.dm_start : Field := ⟨0x600030, 256, 8, 0, 0, 0, 1, .wo, 0, true, 0, true, none⟩
/-- R271: FH.DM `dm_sub`. -/
def FH_DM.dm_sub : Field := ⟨0x600030, 256, 8, 0, 0, 2, 2, .rw, 0, true, 0, false, none⟩
/-- R271: FH.DM_RES `owd_ns`. -/
def FH_DM_RES.owd_ns : Field := ⟨0x600038, 256, 8, 0, 0, 0, 32, .ro, 0, false, 0, false, none⟩
/-- R271: FH.DM_RES `dm_valid`. -/
def FH_DM_RES.dm_valid : Field := ⟨0x600038, 256, 8, 0, 0, 32, 1, .ro, 0, false, 0, false, none⟩
/-- R271: FH.DM_RES `dm_timeout`. -/
def FH_DM_RES.dm_timeout : Field := ⟨0x600038, 256, 8, 0, 0, 33, 1, .w1c, 0, true, 0, false, none⟩
/-- R271: FH.PEER `peer_mac`. -/
def FH_PEER.peer_mac : Field := ⟨0x600040, 8, 256, 32, 4, 0, 48, .rw, 0, true, 0, true, none⟩
/-- R271: FH.PEER `vlan_id`. -/
def FH_PEER.vlan_id : Field := ⟨0x600040, 8, 256, 32, 4, 48, 12, .ro, 0, false, 0, false, none⟩
/-- R271: FH.PEER `learned`. -/
def FH_PEER.learned : Field := ⟨0x600040, 8, 256, 32, 4, 60, 1, .ro, 0, false, 0, false, none⟩
/-- R271: FH.TX_CNT `tx_frames`. -/
def FH_TX_CNT.tx_frames : Field := ⟨0x600080, 256, 8, 0, 0, 0, 32, .ro, 0, false, 0, false, none⟩
/-- R271: FH.TX_CNT `tx_drop`. -/
def FH_TX_CNT.tx_drop : Field := ⟨0x600080, 256, 8, 0, 0, 32, 32, .ro, 0, false, 0, false, none⟩
/-- R271: FH.RX_CNT `rx_frames`. -/
def FH_RX_CNT.rx_frames : Field := ⟨0x600088, 256, 8, 0, 0, 0, 32, .ro, 0, false, 0, false, none⟩
/-- R271: FH.RX_CNT `rx_other`. -/
def FH_RX_CNT.rx_other : Field := ⟨0x600088, 256, 8, 0, 0, 32, 32, .ro, 0, false, 0, false, none⟩
/-- R271: FH.RX_ERR `rx_early`. -/
def FH_RX_ERR.rx_early : Field := ⟨0x600090, 256, 8, 0, 0, 0, 16, .ro, 0, false, 0, false, none⟩
/-- R271: FH.RX_ERR `rx_late`. -/
def FH_RX_ERR.rx_late : Field := ⟨0x600090, 256, 8, 0, 0, 16, 16, .ro, 0, false, 0, false, none⟩
/-- R271: FH.RX_ERR `rx_dup`. -/
def FH_RX_ERR.rx_dup : Field := ⟨0x600090, 256, 8, 0, 0, 32, 16, .ro, 0, false, 0, false, none⟩
/-- R271: FH.RX_ERR `rx_unknown`. -/
def FH_RX_ERR.rx_unknown : Field := ⟨0x600090, 256, 8, 0, 0, 48, 16, .ro, 0, false, 0, false, none⟩
/-- R271: FH.RX_ERR2 `seq_gap`. -/
def FH_RX_ERR2.seq_gap : Field := ⟨0x600098, 256, 8, 0, 0, 0, 32, .ro, 0, false, 0, false, none⟩
/-- R271: FH.RX_ERR2 `rx_frag`. -/
def FH_RX_ERR2.rx_frag : Field := ⟨0x600098, 256, 8, 0, 0, 32, 32, .ro, 0, false, 0, false, none⟩
/-- R271: FH.RX_MISS `rx_missing`. -/
def FH_RX_MISS.rx_missing : Field := ⟨0x6000A0, 256, 8, 0, 0, 0, 32, .ro, 0, false, 0, false, none⟩
/-- R271: FH.RX_MISS `rx_no_stream`. -/
def FH_RX_MISS.rx_no_stream : Field := ⟨0x6000A0, 256, 8, 0, 0, 32, 32, .ro, 0, false, 0, false, none⟩
/-- R271: FH.COMP_CNT `comp_sat`. -/
def FH_COMP_CNT.comp_sat : Field := ⟨0x6000A8, 256, 8, 0, 0, 0, 32, .ro, 0, false, 0, false, none⟩
/-- R271: FH.COMP_CNT `rx_short_rb`. -/
def FH_COMP_CNT.rx_short_rb : Field := ⟨0x6000A8, 256, 8, 0, 0, 32, 32, .ro, 0, false, 0, false, none⟩
/-- R271: FH.STREAM `eaxc`. -/
def FH_STREAM.eaxc : Field := ⟨0x610000, 8, 4096, 0, 0, 0, 16, .ro, 0, false, 0, false, none⟩
/-- R271: FH.STREAM `port`. -/
def FH_STREAM.port : Field := ⟨0x610000, 8, 4096, 0, 0, 16, 3, .ro, 0, false, 0, false, none⟩
/-- R271: FH.STREAM `subport`. -/
def FH_STREAM.subport : Field := ⟨0x610000, 8, 4096, 0, 0, 19, 2, .ro, 0, false, 0, false, none⟩
/-- R271: FH.STREAM `cell_id`. -/
def FH_STREAM.cell_id : Field := ⟨0x610000, 8, 4096, 0, 0, 21, 12, .ro, 0, false, 0, false, none⟩
/-- R271: FH.STREAM `valid`. -/
def FH_STREAM.valid : Field := ⟨0x610000, 8, 4096, 0, 0, 33, 1, .ro, 0, false, 0, false, none⟩
/-- R271: FH.STREAM `dl_meth`. -/
def FH_STREAM.dl_meth : Field := ⟨0x610000, 8, 4096, 0, 0, 34, 4, .ro, 0, false, 0, false, none⟩
/-- R271: FH.STREAM `dl_width`. -/
def FH_STREAM.dl_width : Field := ⟨0x610000, 8, 4096, 0, 0, 38, 4, .ro, 0, false, 0, false, none⟩
/-- R271: FH.STREAM `ul_meth`. -/
def FH_STREAM.ul_meth : Field := ⟨0x610000, 8, 4096, 0, 0, 42, 4, .ro, 0, false, 0, false, none⟩
/-- R271: FH.STREAM `ul_width`. -/
def FH_STREAM.ul_width : Field := ⟨0x610000, 8, 4096, 0, 0, 46, 4, .ro, 0, false, 0, false, none⟩
/-- R271: FH.STREAM `split8`. -/
def FH_STREAM.split8 : Field := ⟨0x610000, 8, 4096, 0, 0, 50, 1, .ro, 0, false, 0, false, none⟩
/-- R271: FH.STREAM `chain`. -/
def FH_STREAM.chain : Field := ⟨0x610000, 8, 4096, 0, 0, 51, 6, .ro, 0, false, 0, false, none⟩
/-- R272: DFE.CFG `ovs`. -/
def DFE_CFG.ovs : Field := ⟨0x700000, 256, 64, 0, 0, 0, 2, .rw, 0, true, 0, true, none⟩
/-- R272: DFE.CFG `tx_taps`. -/
def DFE_CFG.tx_taps : Field := ⟨0x700000, 256, 64, 0, 0, 2, 7, .rw, 0, true, 0, true, none⟩
/-- R272: DFE.CFG `rx_taps`. -/
def DFE_CFG.rx_taps : Field := ⟨0x700000, 256, 64, 0, 0, 9, 7, .rw, 0, true, 0, true, none⟩
/-- R272: DFE.CFG `agc_mode`. -/
def DFE_CFG.agc_mode : Field := ⟨0x700000, 256, 64, 0, 0, 16, 1, .rw, 1, true, 0, false, none⟩
/-- R272: DFE.CFG `mask_act`. -/
def DFE_CFG.mask_act : Field := ⟨0x700000, 256, 64, 0, 0, 17, 1, .rw, 0, true, 0, false, none⟩
/-- R272: DFE.CFG `mask_avg_log2`. -/
def DFE_CFG.mask_avg_log2 : Field := ⟨0x700000, 256, 64, 0, 0, 18, 4, .rw, 4, true, 0, false, none⟩
/-- R272: DFE.NCO `nco_inc`. -/
def DFE_NCO.nco_inc : Field := ⟨0x700008, 256, 64, 0, 0, 0, 32, .rw, 0, true, 0, true, none⟩
/-- R272: DFE.NCO `nco_phase0`. -/
def DFE_NCO.nco_phase0 : Field := ⟨0x700008, 256, 64, 0, 0, 32, 32, .rw, 0, true, 0, true, none⟩
/-- R272: DFE.AGC `agc_init`. -/
def DFE_AGC.agc_init : Field := ⟨0x700010, 256, 64, 0, 0, 0, 16, .rw, 256, true, 0, false, none⟩
/-- R272: DFE.AGC `agc_gmin`. -/
def DFE_AGC.agc_gmin : Field := ⟨0x700010, 256, 64, 0, 0, 16, 16, .rw, 16, true, 0, false, none⟩
/-- R272: DFE.AGC `agc_gmax`. -/
def DFE_AGC.agc_gmax : Field := ⟨0x700010, 256, 64, 0, 0, 32, 16, .rw, 4096, true, 0, false, none⟩
/-- R272: DFE.AGC `agc_blk_log2`. -/
def DFE_AGC.agc_blk_log2 : Field := ⟨0x700010, 256, 64, 0, 0, 48, 4, .rw, 4, true, 0, false, none⟩
/-- R272: DFE.AGC `agc_step_sh`. -/
def DFE_AGC.agc_step_sh : Field := ⟨0x700010, 256, 64, 0, 0, 52, 4, .rw, 4, true, 0, false, none⟩
/-- R272: DFE.AGC_THR `agc_hi`. -/
def DFE_AGC_THR.agc_hi : Field := ⟨0x700018, 256, 64, 0, 0, 0, 32, .rw, 0, true, 0, false, none⟩
/-- R272: DFE.AGC_THR `agc_lo`. -/
def DFE_AGC_THR.agc_lo : Field := ⟨0x700018, 256, 64, 0, 0, 32, 32, .rw, 0, true, 0, false, none⟩
/-- R272: DFE.FREEZE `det_thr`. -/
def DFE_FREEZE.det_thr : Field := ⟨0x700020, 256, 64, 0, 0, 0, 9, .rs, 0, true, 0, false, none⟩
/-- R272: DFE.FREEZE `freeze_win`. -/
def DFE_FREEZE.freeze_win : Field := ⟨0x700020, 256, 64, 0, 0, 16, 16, .rs, 0, true, 0, false, none⟩
/-- R272: DFE.SEQ_CFG `seq_len`. -/
def DFE_SEQ_CFG.seq_len : Field := ⟨0x700028, 256, 64, 0, 0, 0, 9, .rw, 0, true, 0, true, none⟩
/-- R272: DFE.STAT `gain`. -/
def DFE_STAT.gain : Field := ⟨0x700030, 256, 64, 0, 0, 0, 16, .ro, 0, false, 0, false, none⟩
/-- R272: DFE.STAT `frozen_now`. -/
def DFE_STAT.frozen_now : Field := ⟨0x700030, 256, 64, 0, 0, 16, 1, .ro, 0, false, 0, false, none⟩
/-- R272: DFE.STAT `det`. -/
def DFE_STAT.det : Field := ⟨0x700030, 256, 64, 0, 0, 17, 1, .w1c, 0, true, 0, false, none⟩
/-- R272: DFE.STAT `seq_wr_ign`. -/
def DFE_STAT.seq_wr_ign : Field := ⟨0x700030, 256, 64, 0, 0, 18, 1, .w1c, 0, true, 0, false, none⟩
/-- R272: DFE.STAT `freeze_mismatch`. -/
def DFE_STAT.freeze_mismatch : Field := ⟨0x700030, 256, 64, 0, 0, 19, 1, .w1c, 0, true, 0, false, none⟩
/-- R272: DFE.STAT `mask_viol`. -/
def DFE_STAT.mask_viol : Field := ⟨0x700030, 256, 64, 0, 0, 20, 1, .w1c, 0, true, 0, false, none⟩
/-- R272: DFE.STAT `mask_mute`. -/
def DFE_STAT.mask_mute : Field := ⟨0x700030, 256, 64, 0, 0, 21, 1, .w1c, 0, true, 0, true, none⟩
/-- R272: DFE.STAT `wr_ign`. -/
def DFE_STAT.wr_ign : Field := ⟨0x700030, 256, 64, 0, 0, 22, 1, .w1c, 0, true, 0, false, none⟩
/-- R272: DFE.STAT `viol_cnt`. -/
def DFE_STAT.viol_cnt : Field := ⟨0x700030, 256, 64, 0, 0, 32, 32, .ro, 0, false, 0, false, none⟩
/-- R272: DFE.SNAP `snap`. -/
def DFE_SNAP.snap : Field := ⟨0x700038, 256, 64, 0, 0, 0, 1, .wo, 0, true, 0, true, none⟩
/-- R272: DFE.SNAP `muted_sym`. -/
def DFE_SNAP.muted_sym : Field := ⟨0x700038, 256, 64, 0, 0, 32, 32, .ro, 0, false, 0, false, none⟩
/-- R272: DFE.RSSI `rssi_in`. -/
def DFE_RSSI.rssi_in : Field := ⟨0x700040, 256, 64, 0, 0, 0, 32, .ro, 0, false, 0, false, none⟩
/-- R272: DFE.RSSI `rssi_gain`. -/
def DFE_RSSI.rssi_gain : Field := ⟨0x700040, 256, 64, 0, 0, 32, 16, .ro, 0, false, 0, false, none⟩
/-- R272: DFE.RSSI `rssi_sfn_lo`. -/
def DFE_RSSI.rssi_sfn_lo : Field := ⟨0x700040, 256, 64, 0, 0, 48, 11, .ro, 0, false, 0, false, none⟩
/-- R272: DFE.RSSI_T `rssi_cmp`. -/
def DFE_RSSI_T.rssi_cmp : Field := ⟨0x700048, 256, 64, 0, 0, 0, 64, .ro, 0, false, 0, false, none⟩
/-- R296: SRV.CTRL `adm_max`. -/
def SRV_CTRL.adm_max : Field := ⟨0x800000, 0, 1, 0, 0, 0, 16, .rw, 2048, true, 0, false, none⟩
/-- R296: SRV.CTRL `adm_en`. -/
def SRV_CTRL.adm_en : Field := ⟨0x800000, 0, 1, 0, 0, 16, 1, .rw, 1, true, 0, false, none⟩
/-- R296: SRV.CTRL `chunk_pg`. -/
def SRV_CTRL.chunk_pg : Field := ⟨0x800000, 0, 1, 0, 0, 18, 4, .rw, 2, true, 0, false, none⟩
/-- R296: SRV.STAT `seq_used`. -/
def SRV_STAT.seq_used : Field := ⟨0x800008, 0, 1, 0, 0, 0, 19, .ro, 0, false, 0, false, none⟩
/-- R296: SRV.STAT `seq_full`. -/
def SRV_STAT.seq_full : Field := ⟨0x800008, 0, 1, 0, 0, 19, 1, .w1c, 0, true, 0, false, none⟩
/-- R296: SRV.STAT `wl_trunc`. -/
def SRV_STAT.wl_trunc : Field := ⟨0x800008, 0, 1, 0, 0, 20, 1, .w1c, 0, true, 0, false, none⟩
/-- R296: SRV.STAT `desc_full`. -/
def SRV_STAT.desc_full : Field := ⟨0x800008, 0, 1, 0, 0, 21, 1, .w1c, 0, true, 0, false, none⟩
/-- R296: SRV.STAT `shp_mismatch`. -/
def SRV_STAT.shp_mismatch : Field := ⟨0x800008, 0, 1, 0, 0, 22, 1, .w1c, 0, true, 0, false, none⟩
/-- R296: SRV.ACCT_SEL `slice`. -/
def SRV_ACCT_SEL.slice : Field := ⟨0x800010, 0, 1, 0, 0, 0, 12, .rw, 0, true, 0, false, none⟩
/-- R296: SRV.ACCT_SEL `snap`. -/
def SRV_ACCT_SEL.snap : Field := ⟨0x800010, 0, 1, 0, 0, 16, 1, .wo, 0, true, 0, true, none⟩
/-- R296: SRV.ACCT `count`. -/
def SRV_ACCT.count : Field := ⟨0x800800, 8, 12, 0, 0, 0, 64, .ro, 0, false, 0, false, none⟩
/-- R296: SRV.E_RADIO `e_radio`. -/
def SRV_E_RADIO.e_radio : Field := ⟨0x800018, 0, 1, 0, 0, 0, 64, .ro, 0, false, 0, false, none⟩
/-- R296: SRV.E_DEV `e_dev`. -/
def SRV_E_DEV.e_dev : Field := ⟨0x800020, 0, 1, 0, 0, 0, 64, .ro, 0, false, 0, false, none⟩
/-- R296: SRV.PART `role`. -/
def SRV_PART.role : Field := ⟨0x800100, 32, 8, 0, 0, 0, 2, .ro, 0, false, 0, false, none⟩
/-- R296: SRV.PART `role_pend`. -/
def SRV_PART.role_pend : Field := ⟨0x800100, 32, 8, 0, 0, 2, 2, .ro, 0, false, 0, false, none⟩
/-- R296: SRV.PART `role_chg`. -/
def SRV_PART.role_chg : Field := ⟨0x800100, 32, 8, 0, 0, 4, 1, .ro, 0, false, 0, false, none⟩
/-- R296: SRV.PART `adm_refuse`. -/
def SRV_PART.adm_refuse : Field := ⟨0x800100, 32, 8, 0, 0, 5, 1, .ro, 0, false, 0, false, none⟩
/-- R296: SRV.PART `seq_cnt`. -/
def SRV_PART.seq_cnt : Field := ⟨0x800100, 32, 8, 0, 0, 6, 19, .ro, 0, false, 0, false, none⟩
/-- R296: SRV.STEP `steps`. -/
def SRV_STEP.steps : Field := ⟨0x800108, 32, 8, 0, 0, 0, 32, .ro, 0, false, 0, false, none⟩
/-- R296: SRV.STEP `unplaced`. -/
def SRV_STEP.unplaced : Field := ⟨0x800108, 32, 8, 0, 0, 32, 32, .ro, 0, false, 0, false, none⟩
/-- R296: SRV.STEP2 `last_items`. -/
def SRV_STEP2.last_items : Field := ⟨0x800110, 32, 8, 0, 0, 0, 12, .ro, 0, false, 0, false, none⟩
/-- R296: SRV.STEP2 `last_rows`. -/
def SRV_STEP2.last_rows : Field := ⟨0x800110, 32, 8, 0, 0, 16, 16, .ro, 0, false, 0, false, none⟩
/-- R296: SRV.STEP2 `moves`. -/
def SRV_STEP2.moves : Field := ⟨0x800110, 32, 8, 0, 0, 32, 32, .ro, 0, false, 0, false, none⟩
/-- R296: SRV.ADM `quantum`. -/
def SRV_ADM.quantum : Field := ⟨0x810000, 8, 4096, 0, 0, 0, 8, .rw, 1, true, 0, false, none⟩
/-- R296: SRV.ADM `seq_quota`. -/
def SRV_ADM.seq_quota : Field := ⟨0x810000, 8, 4096, 0, 0, 16, 19, .rw, 64, true, 0, false, none⟩
/-- R296: SRV.ADM `deficit`. -/
def SRV_ADM.deficit : Field := ⟨0x810000, 8, 4096, 0, 0, 40, 9, .ro, 0, false, 0, false, none⟩
/-- R296: SRV.SHP `rate`. -/
def SRV_SHP.rate : Field := ⟨0x820000, 8, 4096, 0, 0, 0, 24, .rs, 0, true, 0, false, none⟩
/-- R296: SRV.SHP `burst`. -/
def SRV_SHP.burst : Field := ⟨0x820000, 8, 4096, 0, 0, 24, 16, .rs, 0, true, 0, false, none⟩
/-- R296: SRV.SHP `tokens`. -/
def SRV_SHP.tokens : Field := ⟨0x820000, 8, 4096, 0, 0, 40, 24, .ro, 0, false, 0, false, none⟩
/-- R296: SRV.SCNT `active`. -/
def SRV_SCNT.active : Field := ⟨0x830000, 8, 4096, 0, 0, 0, 19, .ro, 0, false, 0, false, none⟩
/-- R296: SRV.SCNT `frozen`. -/
def SRV_SCNT.frozen : Field := ⟨0x830000, 8, 4096, 0, 0, 19, 1, .ro, 0, false, 0, false, none⟩
/-- R296: SRV.SCNT `shp_blk`. -/
def SRV_SCNT.shp_blk : Field := ⟨0x830000, 8, 4096, 0, 0, 20, 1, .w1c, 0, true, 0, false, none⟩
/-- R296: SRV.SCNT `shp_pend`. -/
def SRV_SCNT.shp_pend : Field := ⟨0x830000, 8, 4096, 0, 0, 21, 1, .ro, 0, false, 0, false, none⟩
/-- R321: KV.CTRL `pg_wait_lim`. -/
def KV_CTRL.pg_wait_lim : Field := ⟨0x900000, 0, 1, 0, 0, 0, 16, .ro, 64, false, 0, false, none⟩
/-- R321: KV.CTRL `cold_ticks`. -/
def KV_CTRL.cold_ticks : Field := ⟨0x900000, 0, 1, 0, 0, 16, 16, .rw, 512, false, 0, false, none⟩
/-- R321: KV.CTRL `reclaim_max`. -/
def KV_CTRL.reclaim_max : Field := ⟨0x900000, 0, 1, 0, 0, 32, 16, .rw, 256, false, 0, false, none⟩
/-- R321: KV.CTRL `spill_en`. -/
def KV_CTRL.spill_en : Field := ⟨0x900000, 0, 1, 0, 0, 48, 1, .rw, 1, false, 0, false, none⟩
/-- R321: KV.CTRL `tree_en`. -/
def KV_CTRL.tree_en : Field := ⟨0x900000, 0, 1, 0, 0, 49, 1, .rw, 1, false, 0, false, none⟩
/-- R321: KV.STAT `nodes_used`. -/
def KV_STAT.nodes_used : Field := ⟨0x900008, 0, 1, 0, 0, 0, 25, .ro, 0, false, 0, false, none⟩
/-- R321: KV.STAT `ins_skip`. -/
def KV_STAT.ins_skip : Field := ⟨0x900008, 0, 1, 0, 0, 32, 1, .w1c, 0, true, 0, false, none⟩
/-- R321: KV.STAT `arena_cut`. -/
def KV_STAT.arena_cut : Field := ⟨0x900008, 0, 1, 0, 0, 33, 1, .ro, 0, false, 0, false, none⟩
/-- R321: KV.STAT `exhaust`. -/
def KV_STAT.exhaust : Field := ⟨0x900008, 0, 1, 0, 0, 34, 1, .w1c, 0, true, 0, false, none⟩
/-- R321: KV.MSEL `model_id`. -/
def KV_MSEL.model_id : Field := ⟨0x900010, 0, 1, 0, 0, 0, 16, .rw, 0, true, 0, false, none⟩
/-- R321: KV.MSEL `snap`. -/
def KV_MSEL.snap : Field := ⟨0x900010, 0, 1, 0, 0, 16, 1, .wo, 0, true, 0, true, none⟩
/-- R321: KV.MSTAT `frames_64k`. -/
def KV_MSTAT.frames_64k : Field := ⟨0x900018, 0, 1, 0, 0, 0, 32, .ro, 0, false, 0, false, none⟩
/-- R321: KV.MSTAT `seqs`. -/
def KV_MSTAT.seqs : Field := ⟨0x900018, 0, 1, 0, 0, 32, 32, .ro, 0, false, 0, false, none⟩
/-- R321: KV.MWASTE `tail_bytes`. -/
def KV_MWASTE.tail_bytes : Field := ⟨0x900020, 0, 1, 0, 0, 0, 64, .ro, 0, false, 0, false, none⟩
/-- R321: KV.ARENA `base_4m`. -/
def KV_ARENA.base_4m : Field := ⟨0x900100, 64, 8, 0, 0, 0, 26, .ro, 0, false, 1, false, none⟩
/-- R321: KV.ARENA `len_4m`. -/
def KV_ARENA.len_4m : Field := ⟨0x900100, 64, 8, 0, 0, 32, 26, .ro, 0, false, 1, false, none⟩
/-- R321: KV.FREE `free_64k`. -/
def KV_FREE.free_64k : Field := ⟨0x900108, 64, 8, 0, 0, 0, 32, .ro, 0, false, 1, false, none⟩
/-- R321: KV.FREE `chunks_free`. -/
def KV_FREE.chunks_free : Field := ⟨0x900108, 64, 8, 0, 0, 32, 26, .ro, 0, false, 1, false, none⟩
/-- R321: KV.WAIT `waiting`. -/
def KV_WAIT.waiting : Field := ⟨0x900110, 64, 8, 0, 0, 0, 19, .ro, 0, false, 1, false, none⟩
/-- R321: KV.WAIT `exhausted`. -/
def KV_WAIT.exhausted : Field := ⟨0x900110, 64, 8, 0, 0, 32, 32, .ro, 0, false, 1, false, none⟩
/-- R321: KV.RECL `dropped`. -/
def KV_RECL.dropped : Field := ⟨0x900118, 64, 8, 0, 0, 0, 32, .ro, 0, false, 1, false, none⟩
/-- R321: KV.RECL `spilled`. -/
def KV_RECL.spilled : Field := ⟨0x900118, 64, 8, 0, 0, 32, 32, .ro, 0, false, 1, false, none⟩
/-- R321: KV.SHARE `hits`. -/
def KV_SHARE.hits : Field := ⟨0x900120, 64, 8, 0, 0, 0, 32, .ro, 0, false, 1, false, none⟩
/-- R321: KV.SHARE `cow_copies`. -/
def KV_SHARE.cow_copies : Field := ⟨0x900120, 64, 8, 0, 0, 32, 32, .ro, 0, false, 1, false, none⟩
/-- R321: KV.QUOTA `quota_64k`. -/
def KV_QUOTA.quota_64k : Field := ⟨0x910000, 8, 4096, 0, 0, 0, 32, .rw, 4294967295, true, 0, false, none⟩
/-- R321: KV.QUOTA `used_64k`. -/
def KV_QUOTA.used_64k : Field := ⟨0x910000, 8, 4096, 0, 0, 32, 32, .ro, 0, false, 0, false, none⟩
/-- R379: FAB.CTRL `node_id`. -/
def FAB_CTRL.node_id : Field := ⟨0xA00000, 0, 1, 0, 0, 0, 16, .ro, 0, false, 0, false, none⟩
/-- R379: FAB.CTRL `joined`. -/
def FAB_CTRL.joined : Field := ⟨0xA00000, 0, 1, 0, 0, 16, 1, .ro, 0, false, 0, false, none⟩
/-- R379: FAB.CTRL `min_links`. -/
def FAB_CTRL.min_links : Field := ⟨0xA00000, 0, 1, 0, 0, 17, 6, .ro, 30, false, 0, false, none⟩
/-- R379: FAB.STAT `links_up`. -/
def FAB_STAT.links_up : Field := ⟨0xA00008, 0, 1, 0, 0, 0, 6, .ro, 0, false, 0, false, none⟩
/-- R379: FAB.STAT `links_active`. -/
def FAB_STAT.links_active : Field := ⟨0xA00008, 0, 1, 0, 0, 6, 6, .ro, 0, false, 0, false, none⟩
/-- R379: FAB.STAT `route_rebuilt`. -/
def FAB_STAT.route_rebuilt : Field := ⟨0xA00008, 0, 1, 0, 0, 12, 1, .w1c, 0, true, 0, false, none⟩
/-- R379: FAB.STAT `auth_alarm`. -/
def FAB_STAT.auth_alarm : Field := ⟨0xA00008, 0, 1, 0, 0, 13, 1, .w1c, 0, true, 0, false, none⟩
/-- R379: FAB.STAT `unreach`. -/
def FAB_STAT.unreach : Field := ⟨0xA00008, 0, 1, 0, 0, 14, 1, .w1c, 0, true, 0, false, none⟩
/-- R379: FAB.STAT `win_alloc_fail`. -/
def FAB_STAT.win_alloc_fail : Field := ⟨0xA00008, 0, 1, 0, 0, 15, 1, .w1c, 0, true, 0, false, none⟩
/-- R379: FAB.STAT `rec_err`. -/
def FAB_STAT.rec_err : Field := ⟨0xA00008, 0, 1, 0, 0, 16, 32, .ro, 0, false, 0, false, none⟩
/-- R379: FAB.LIMITS `e2e_to_us`. -/
def FAB_LIMITS.e2e_to_us : Field := ⟨0xA00010, 0, 1, 0, 0, 0, 16, .rw, 1000, true, 0, false, none⟩
/-- R379: FAB.LIMITS `e2e_tries`. -/
def FAB_LIMITS.e2e_tries : Field := ⟨0xA00010, 0, 1, 0, 0, 16, 4, .rw, 3, true, 0, false, none⟩
/-- R379: FAB.STRAG `strag_thr_us`. -/
def FAB_STRAG.strag_thr_us : Field := ⟨0xA00018, 0, 1, 0, 0, 0, 16, .rw, 200, true, 0, false, none⟩
/-- R379: FAB.STRAG `strag_n`. -/
def FAB_STRAG.strag_n : Field := ⟨0xA00018, 0, 1, 0, 0, 16, 8, .rw, 16, true, 0, false, none⟩
/-- R379: FAB.OUTST `outst`. -/
def FAB_OUTST.outst : Field := ⟨0xA00020, 0, 1, 0, 0, 0, 16, .ro, 0, false, 0, false, none⟩
/-- R379: FAB.OUTST `outst_peak`. -/
def FAB_OUTST.outst_peak : Field := ⟨0xA00020, 0, 1, 0, 0, 16, 16, .ro, 0, false, 0, false, none⟩
/-- R379: FAB.OUTST `stall_cnt`. -/
def FAB_OUTST.stall_cnt : Field := ⟨0xA00020, 0, 1, 0, 0, 32, 32, .ro, 0, false, 0, false, none⟩
/-- R379: FAB.PEER_SEL `node`. -/
def FAB_PEER_SEL.node : Field := ⟨0xA00028, 0, 1, 0, 0, 0, 16, .rw, 0, true, 0, false, none⟩
/-- R379: FAB.PEER_SEL `snap`. -/
def FAB_PEER_SEL.snap : Field := ⟨0xA00028, 0, 1, 0, 0, 16, 1, .wo, 0, true, 0, true, none⟩
/-- R379: FAB.PEER_LAT `rtt_ns`. -/
def FAB_PEER_LAT.rtt_ns : Field := ⟨0xA00030, 0, 1, 0, 0, 0, 32, .ro, 0, false, 0, false, none⟩
/-- R379: FAB.PEER_LAT `lag_ns`. -/
def FAB_PEER_LAT.lag_ns : Field := ⟨0xA00030, 0, 1, 0, 0, 32, 32, .ro, 0, false, 0, false, none⟩
/-- R379: FAB.PEER_CNT `retries`. -/
def FAB_PEER_CNT.retries : Field := ⟨0xA00038, 0, 1, 0, 0, 0, 32, .ro, 0, false, 0, false, none⟩
/-- R379: FAB.PEER_CNT `strag_runs`. -/
def FAB_PEER_CNT.strag_runs : Field := ⟨0xA00038, 0, 1, 0, 0, 32, 16, .ro, 0, false, 0, false, none⟩
/-- R379: FAB.PEER_CNT `member`. -/
def FAB_PEER_CNT.member : Field := ⟨0xA00038, 0, 1, 0, 0, 48, 1, .ro, 0, false, 0, false, none⟩
/-- R379: FAB.PEER_CNT `suspect`. -/
def FAB_PEER_CNT.suspect : Field := ⟨0xA00038, 0, 1, 0, 0, 49, 1, .ro, 0, false, 0, false, none⟩
/-- R379: FAB.PEER_CNT `failed`. -/
def FAB_PEER_CNT.failed : Field := ⟨0xA00038, 0, 1, 0, 0, 50, 1, .ro, 0, false, 0, false, none⟩
/-- R379: FAB.PEER_CNT `stale_cnt`. -/
def FAB_PEER_CNT.stale_cnt : Field := ⟨0xA00038, 0, 1, 0, 0, 51, 13, .ro, 0, false, 0, false, none⟩
/-- R379: FAB.LINK_CFG `link_en`. -/
def FAB_LINK_CFG.link_en : Field := ⟨0xA00100, 32, 36, 0, 0, 0, 1, .ro, 1, false, 0, false, none⟩
/-- R379: FAB.LINK_CFG `peer_link`. -/
def FAB_LINK_CFG.peer_link : Field := ⟨0xA00100, 32, 36, 0, 0, 16, 6, .ro, 0, false, 0, false, none⟩
/-- R379: FAB.LINK_CFG `peer_node`. -/
def FAB_LINK_CFG.peer_node : Field := ⟨0xA00100, 32, 36, 0, 0, 32, 16, .ro, 0, false, 0, false, none⟩
/-- R379: FAB.LINK_STAT `state`. -/
def FAB_LINK_STAT.state : Field := ⟨0xA00108, 32, 36, 0, 0, 0, 3, .ro, 0, false, 0, false, none⟩
/-- R379: FAB.LINK_STAT `width`. -/
def FAB_LINK_STAT.width : Field := ⟨0xA00108, 32, 36, 0, 0, 3, 2, .ro, 0, false, 0, false, none⟩
/-- R379: FAB.LINK_STAT `lane_bad`. -/
def FAB_LINK_STAT.lane_bad : Field := ⟨0xA00108, 32, 36, 0, 0, 5, 5, .ro, 0, false, 0, false, none⟩
/-- R379: FAB.LINK_STAT `spare_used`. -/
def FAB_LINK_STAT.spare_used : Field := ⟨0xA00108, 32, 36, 0, 0, 10, 1, .ro, 0, false, 0, false, none⟩
/-- R379: FAB.LINK_STAT `state_chg`. -/
def FAB_LINK_STAT.state_chg : Field := ⟨0xA00108, 32, 36, 0, 0, 11, 1, .w1c, 0, true, 0, false, none⟩
/-- R379: FAB.LINK_STAT `lane_map`. -/
def FAB_LINK_STAT.lane_map : Field := ⟨0xA00108, 32, 36, 0, 0, 12, 12, .ro, 0, false, 0, false, none⟩
/-- R379: FAB.LINK_STAT `epoch`. -/
def FAB_LINK_STAT.epoch : Field := ⟨0xA00108, 32, 36, 0, 0, 24, 32, .ro, 0, false, 0, false, none⟩
/-- R379: FAB.LINK_STAT `retrain_cnt`. -/
def FAB_LINK_STAT.retrain_cnt : Field := ⟨0xA00108, 32, 36, 0, 0, 56, 8, .ro, 0, false, 0, false, none⟩
/-- R379: FAB.LINK_ERR `ce_cnt`. -/
def FAB_LINK_ERR.ce_cnt : Field := ⟨0xA00110, 32, 36, 0, 0, 0, 32, .ro, 0, false, 0, false, none⟩
/-- R379: FAB.LINK_ERR `replay_cnt`. -/
def FAB_LINK_ERR.replay_cnt : Field := ⟨0xA00110, 32, 36, 0, 0, 32, 16, .ro, 0, false, 0, false, none⟩
/-- R379: FAB.LINK_ERR `auth_fail`. -/
def FAB_LINK_ERR.auth_fail : Field := ⟨0xA00110, 32, 36, 0, 0, 48, 16, .ro, 0, false, 0, false, none⟩
/-- R379: FAB.LINK_CNT `tx_units`. -/
def FAB_LINK_CNT.tx_units : Field := ⟨0xA00118, 32, 36, 0, 0, 0, 48, .ro, 0, false, 0, false, none⟩
/-- R379: FAB.LINK_CNT `nonmember_cnt`. -/
def FAB_LINK_CNT.nonmember_cnt : Field := ⟨0xA00118, 32, 36, 0, 0, 48, 16, .ro, 0, false, 0, false, none⟩
/-- R412: HOST.VER `dev_major`. -/
def HOST_VER.dev_major : Field := ⟨0x0, 0, 1, 0, 0, 0, 8, .ro, 1, false, 0, false, none⟩
/-- R412: HOST.S_VER `dev_major`. -/
def HOST_S_VER.dev_major : Field := ⟨0x100000008, 65536, 4096, 0, 0, 0, 8, .ro, 1, false, 0, false, none⟩
/-- R412: HOST.VER `dev_minor`. -/
def HOST_VER.dev_minor : Field := ⟨0x0, 0, 1, 0, 0, 8, 8, .ro, 4, false, 0, false, none⟩
/-- R412: HOST.S_VER `dev_minor`. -/
def HOST_S_VER.dev_minor : Field := ⟨0x100000008, 65536, 4096, 0, 0, 8, 8, .ro, 4, false, 0, false, none⟩
/-- R412: HOST.VER `drv_major`. -/
def HOST_VER.drv_major : Field := ⟨0x0, 0, 1, 0, 0, 16, 8, .rw, 0, true, 0, false, none⟩
/-- R412: HOST.S_VER `drv_major`. -/
def HOST_S_VER.drv_major : Field := ⟨0x100000008, 65536, 4096, 0, 0, 16, 8, .rw, 0, true, 0, false, none⟩
/-- R412: HOST.VER `drv_minor`. -/
def HOST_VER.drv_minor : Field := ⟨0x0, 0, 1, 0, 0, 24, 8, .rw, 0, true, 0, false, none⟩
/-- R412: HOST.S_VER `drv_minor`. -/
def HOST_S_VER.drv_minor : Field := ⟨0x100000008, 65536, 4096, 0, 0, 24, 8, .rw, 0, true, 0, false, none⟩
/-- R412: HOST.VER `negotiate`. -/
def HOST_VER.negotiate : Field := ⟨0x0, 0, 1, 0, 0, 32, 1, .wo, 0, true, 0, true, none⟩
/-- R412: HOST.S_VER `negotiate`. -/
def HOST_S_VER.negotiate : Field := ⟨0x100000008, 65536, 4096, 0, 0, 32, 1, .wo, 0, true, 0, true, none⟩
/-- R412: HOST.VER `neg_status`. -/
def HOST_VER.neg_status : Field := ⟨0x0, 0, 1, 0, 0, 48, 16, .ro, 0, false, 0, false, none⟩
/-- R412: HOST.S_VER `neg_status`. -/
def HOST_S_VER.neg_status : Field := ⟨0x100000008, 65536, 4096, 0, 0, 48, 16, .ro, 0, false, 0, false, none⟩
/-- R412: HOST.FEAT_DEV `feat_dev`. -/
def HOST_FEAT_DEV.feat_dev : Field := ⟨0x8, 0, 1, 0, 0, 0, 128, .ro, 0, false, 0, false, none⟩
/-- R412: HOST.S_FEAT_DEV `feat_dev`. -/
def HOST_S_FEAT_DEV.feat_dev : Field := ⟨0x100000010, 65536, 4096, 0, 0, 0, 128, .ro, 0, false, 0, false, none⟩
/-- R412: HOST.FEAT_DRV `feat_drv`. -/
def HOST_FEAT_DRV.feat_drv : Field := ⟨0x18, 0, 1, 0, 0, 0, 128, .rw, 0, true, 0, false, none⟩
/-- R412: HOST.S_FEAT_DRV `feat_drv`. -/
def HOST_S_FEAT_DRV.feat_drv : Field := ⟨0x100000020, 65536, 4096, 0, 0, 0, 128, .rw, 0, true, 0, false, none⟩
/-- R412: HOST.FEAT_AGREED `feat_ok`. -/
def HOST_FEAT_AGREED.feat_ok : Field := ⟨0x28, 0, 1, 0, 0, 0, 128, .ro, 0, false, 0, false, none⟩
/-- R412: HOST.S_FEAT_AGREED `feat_ok`. -/
def HOST_S_FEAT_AGREED.feat_ok : Field := ⟨0x100000030, 65536, 4096, 0, 0, 0, 128, .ro, 0, false, 0, false, none⟩
/-- R412: HOST.CTL_HB `hb`. -/
def HOST_CTL_HB.hb : Field := ⟨0x40, 0, 1, 0, 0, 0, 1, .wo, 0, true, 0, false, none⟩
/-- R412: HOST.CTL_HB `ctl_hb_to_ms`. -/
def HOST_CTL_HB.ctl_hb_to_ms : Field := ⟨0x40, 0, 1, 0, 0, 16, 16, .rw, 2000, true, 0, false, none⟩
/-- R412: HOST.STAT `win_miss`. -/
def HOST_STAT.win_miss : Field := ⟨0x48, 0, 1, 0, 0, 0, 1, .w1c, 0, true, 0, false, none⟩
/-- R412: HOST.STAT `vec_err`. -/
def HOST_STAT.vec_err : Field := ⟨0x48, 0, 1, 0, 0, 1, 1, .w1c, 0, true, 0, false, none⟩
/-- R412: HOST.STAT `evt_lost`. -/
def HOST_STAT.evt_lost : Field := ⟨0x48, 0, 1, 0, 0, 16, 16, .ro, 0, false, 0, false, none⟩
/-- R412: HOST.STAT `outst`. -/
def HOST_STAT.outst : Field := ⟨0x48, 0, 1, 0, 0, 32, 32, .ro, 0, false, 0, false, none⟩
/-- R412: HOST.IND `ind_base`. -/
def HOST_IND.ind_base : Field := ⟨0x400, 8, 8, 0, 0, 0, 48, .rw, 0, true, 0, false, none⟩
/-- R412: HOST.IND `ind_log2`. -/
def HOST_IND.ind_log2 : Field := ⟨0x400, 8, 8, 0, 0, 48, 8, .rw, 0, true, 0, false, none⟩
/-- R412: HOST.IND `ind_drop`. -/
def HOST_IND.ind_drop : Field := ⟨0x400, 8, 8, 0, 0, 56, 8, .ro, 0, false, 0, false, none⟩
/-- R412: HOST.SLICE `state`. -/
def HOST_SLICE.state : Field := ⟨0x10000, 8, 4096, 0, 0, 0, 3, .ro, 0, false, 0, false, none⟩
/-- R412: HOST.SLICE `function`. -/
def HOST_SLICE.function : Field := ⟨0x10000, 8, 4096, 0, 0, 3, 8, .ro, 0, false, 0, false, none⟩
/-- R412: HOST.SLICE `pasid`. -/
def HOST_SLICE.pasid : Field := ⟨0x10000, 8, 4096, 0, 0, 11, 20, .ro, 0, false, 0, false, none⟩
/-- R412: HOST.SLICE `hb_to_ms`. -/
def HOST_SLICE.hb_to_ms : Field := ⟨0x10000, 8, 4096, 0, 0, 31, 16, .rw, 2000, true, 0, false, none⟩
/-- R412: HOST.SLICE `grace_s`. -/
def HOST_SLICE.grace_s : Field := ⟨0x10000, 8, 4096, 0, 0, 47, 12, .rw, 60, true, 0, false, none⟩
/-- R412: HOST.S_ID `slice`. -/
def HOST_S_ID.slice : Field := ⟨0x100000000, 65536, 4096, 0, 0, 0, 12, .ro, 0, false, 0, false, none⟩
/-- R412: HOST.S_ID `state`. -/
def HOST_S_ID.state : Field := ⟨0x100000000, 65536, 4096, 0, 0, 12, 3, .ro, 0, false, 0, false, none⟩
/-- R412: HOST.S_HB `hb`. -/
def HOST_S_HB.hb : Field := ⟨0x100000080, 65536, 4096, 0, 0, 0, 1, .wo, 0, true, 0, true, none⟩
/-- R412: HOST.S_COOKIE `cookie`. -/
def HOST_S_COOKIE.cookie : Field := ⟨0x100000088, 65536, 4096, 0, 0, 0, 128, .wo, 0, true, 0, false, none⟩
/-- R412: HOST.S_ATTACH `attach`. -/
def HOST_S_ATTACH.attach : Field := ⟨0x100000098, 65536, 4096, 0, 0, 0, 1, .wo, 0, true, 0, true, none⟩
/-- R412: HOST.S_ATTACH `attach_st`. -/
def HOST_S_ATTACH.attach_st : Field := ⟨0x100000098, 65536, 4096, 0, 0, 16, 16, .ro, 0, false, 0, false, none⟩
/-- R412: HOST.S_COOKIE_NEW `cookie_new`. -/
def HOST_S_COOKIE_NEW.cookie_new : Field := ⟨0x1000000A0, 65536, 4096, 0, 0, 0, 128, .ro, 0, false, 0, false, none⟩
/-- R412: HOST.RING_CFG `sq_log2`. -/
def HOST_RING_CFG.sq_log2 : Field := ⟨0x100, 64, 9, 0, 0, 0, 4, .rw, 0, true, 0, true, none⟩
/-- R412: HOST.S_RING_CFG `sq_log2`. -/
def HOST_S_RING_CFG.sq_log2 : Field := ⟨0x100000100, 64, 4194304, 1024, 16, 0, 4, .rw, 0, true, 0, true, none⟩
/-- R412: HOST.RING_CFG `cq_log2`. -/
def HOST_RING_CFG.cq_log2 : Field := ⟨0x100, 64, 9, 0, 0, 8, 4, .rw, 0, true, 0, true, none⟩
/-- R412: HOST.S_RING_CFG `cq_log2`. -/
def HOST_S_RING_CFG.cq_log2 : Field := ⟨0x100000100, 64, 4194304, 1024, 16, 8, 4, .rw, 0, true, 0, true, none⟩
/-- R412: HOST.RING_CFG `vector`. -/
def HOST_RING_CFG.vector : Field := ⟨0x100, 64, 9, 0, 0, 12, 8, .rw, 0, true, 0, true, none⟩
/-- R412: HOST.S_RING_CFG `vector`. -/
def HOST_S_RING_CFG.vector : Field := ⟨0x100000100, 64, 4194304, 1024, 16, 12, 8, .rw, 0, true, 0, true, none⟩
/-- R412: HOST.RING_CFG `coal_cnt`. -/
def HOST_RING_CFG.coal_cnt : Field := ⟨0x100, 64, 9, 0, 0, 20, 8, .rw, 0, true, 0, true, none⟩
/-- R412: HOST.S_RING_CFG `coal_cnt`. -/
def HOST_S_RING_CFG.coal_cnt : Field := ⟨0x100000100, 64, 4194304, 1024, 16, 20, 8, .rw, 0, true, 0, true, none⟩
/-- R412: HOST.RING_CFG `coal_us`. -/
def HOST_RING_CFG.coal_us : Field := ⟨0x100, 64, 9, 0, 0, 28, 16, .rw, 0, true, 0, true, none⟩
/-- R412: HOST.S_RING_CFG `coal_us`. -/
def HOST_S_RING_CFG.coal_us : Field := ⟨0x100000100, 64, 4194304, 1024, 16, 28, 16, .rw, 0, true, 0, true, none⟩
/-- R412: HOST.RING_CFG `mirror_en`. -/
def HOST_RING_CFG.mirror_en : Field := ⟨0x100, 64, 9, 0, 0, 44, 1, .rw, 0, true, 0, true, none⟩
/-- R412: HOST.S_RING_CFG `mirror_en`. -/
def HOST_S_RING_CFG.mirror_en : Field := ⟨0x100000100, 64, 4194304, 1024, 16, 44, 1, .rw, 0, true, 0, true, none⟩
/-- R412: HOST.RING_SQ_TAIL `sq_tail`. -/
def HOST_RING_SQ_TAIL.sq_tail : Field := ⟨0x108, 64, 9, 0, 0, 0, 32, .rw, 0, true, 0, true, none⟩
/-- R412: HOST.S_RING_SQ_TAIL `sq_tail`. -/
def HOST_S_RING_SQ_TAIL.sq_tail : Field := ⟨0x100000108, 64, 4194304, 1024, 16, 0, 32, .rw, 0, true, 0, true, none⟩
/-- R412: HOST.RING_SQ_HEAD `sq_head`. -/
def HOST_RING_SQ_HEAD.sq_head : Field := ⟨0x110, 64, 9, 0, 0, 0, 32, .ro, 0, false, 0, false, none⟩
/-- R412: HOST.S_RING_SQ_HEAD `sq_head`. -/
def HOST_S_RING_SQ_HEAD.sq_head : Field := ⟨0x100000110, 64, 4194304, 1024, 16, 0, 32, .ro, 0, false, 0, false, none⟩
/-- R412: HOST.RING_CQ_HEAD `cq_head`. -/
def HOST_RING_CQ_HEAD.cq_head : Field := ⟨0x118, 64, 9, 0, 0, 0, 32, .rw, 0, true, 0, true, none⟩
/-- R412: HOST.S_RING_CQ_HEAD `cq_head`. -/
def HOST_S_RING_CQ_HEAD.cq_head : Field := ⟨0x100000118, 64, 4194304, 1024, 16, 0, 32, .rw, 0, true, 0, true, none⟩
/-- R412: HOST.RING_CQ_TAIL `cq_tail`. -/
def HOST_RING_CQ_TAIL.cq_tail : Field := ⟨0x120, 64, 9, 0, 0, 0, 32, .ro, 0, false, 0, false, none⟩
/-- R412: HOST.S_RING_CQ_TAIL `cq_tail`. -/
def HOST_S_RING_CQ_TAIL.cq_tail : Field := ⟨0x100000120, 64, 4194304, 1024, 16, 0, 32, .ro, 0, false, 0, false, none⟩
/-- R412: HOST.RING_MIRROR `mirror`. -/
def HOST_RING_MIRROR.mirror : Field := ⟨0x128, 64, 9, 0, 0, 0, 64, .rw, 0, true, 0, false, none⟩
/-- R412: HOST.S_RING_MIRROR `mirror`. -/
def HOST_S_RING_MIRROR.mirror : Field := ⟨0x100000128, 64, 4194304, 1024, 16, 0, 64, .rw, 0, true, 0, false, none⟩
/-- R412: HOST.RING_STAT `cfg_err`. -/
def HOST_RING_STAT.cfg_err : Field := ⟨0x130, 64, 9, 0, 0, 0, 1, .w1c, 0, true, 0, false, none⟩
/-- R412: HOST.S_RING_STAT `cfg_err`. -/
def HOST_S_RING_STAT.cfg_err : Field := ⟨0x100000130, 64, 4194304, 1024, 16, 0, 1, .w1c, 0, true, 0, false, none⟩
/-- R412: HOST.RING_STAT `cfg_ign`. -/
def HOST_RING_STAT.cfg_ign : Field := ⟨0x130, 64, 9, 0, 0, 1, 1, .w1c, 0, true, 0, false, none⟩
/-- R412: HOST.S_RING_STAT `cfg_ign`. -/
def HOST_S_RING_STAT.cfg_ign : Field := ⟨0x100000130, 64, 4194304, 1024, 16, 1, 1, .w1c, 0, true, 0, false, none⟩
/-- R412: HOST.RING_STAT `db_err`. -/
def HOST_RING_STAT.db_err : Field := ⟨0x130, 64, 9, 0, 0, 2, 1, .w1c, 0, true, 0, false, none⟩
/-- R412: HOST.S_RING_STAT `db_err`. -/
def HOST_S_RING_STAT.db_err : Field := ⟨0x100000130, 64, 4194304, 1024, 16, 2, 1, .w1c, 0, true, 0, false, none⟩
/-- R412: HOST.RING_STAT `ring_outst`. -/
def HOST_RING_STAT.ring_outst : Field := ⟨0x130, 64, 9, 0, 0, 16, 16, .ro, 0, false, 0, false, none⟩
/-- R412: HOST.S_RING_STAT `ring_outst`. -/
def HOST_S_RING_STAT.ring_outst : Field := ⟨0x100000130, 64, 4194304, 1024, 16, 16, 16, .ro, 0, false, 0, false, none⟩
/-- R412: HOST.RING_STAT `prog_skip`. -/
def HOST_RING_STAT.prog_skip : Field := ⟨0x130, 64, 9, 0, 0, 32, 32, .ro, 0, false, 0, false, none⟩
/-- R412: HOST.S_RING_STAT `prog_skip`. -/
def HOST_S_RING_STAT.prog_skip : Field := ⟨0x100000130, 64, 4194304, 1024, 16, 32, 32, .ro, 0, false, 0, false, none⟩
/-- R412: HOST.RING_STALE `rr_stale`. -/
def HOST_RING_STALE.rr_stale : Field := ⟨0x138, 64, 9, 0, 0, 32, 32, .ro, 0, false, 0, false, none⟩
/-- R412: HOST.S_RING_STALE `rr_stale`. -/
def HOST_S_RING_STALE.rr_stale : Field := ⟨0x100000138, 64, 4194304, 1024, 16, 32, 32, .ro, 0, false, 0, false, none⟩
/-- R430: FW.GCTRL `cairn_safe_share`. -/
def FW_GCTRL.cairn_safe_share : Field := ⟨0xB00000, 0, 1, 0, 0, 0, 11, .ro, 512, false, 0, false, none⟩
/-- R430: FW.GSTAT `held`. -/
def FW_GSTAT.held : Field := ⟨0xB00008, 0, 1, 0, 0, 0, 11, .ro, 0, false, 0, false, none⟩
/-- R430: FW.GSTAT `down`. -/
def FW_GSTAT.down : Field := ⟨0xB00008, 0, 1, 0, 0, 16, 11, .ro, 0, false, 0, false, none⟩
/-- R430: FW.GSTAT `hold_evt`. -/
def FW_GSTAT.hold_evt : Field := ⟨0xB00008, 0, 1, 0, 0, 27, 1, .w1c, 0, true, 0, false, none⟩
/-- R430: FW.GSTAT `log_lost`. -/
def FW_GSTAT.log_lost : Field := ⟨0xB00008, 0, 1, 0, 0, 32, 32, .ro, 0, false, 0, false, none⟩
/-- R430: FW.IMAGE `cur_slot`. -/
def FW_IMAGE.cur_slot : Field := ⟨0xB00010, 0, 1, 0, 0, 0, 1, .ro, 0, false, 0, false, none⟩
/-- R430: FW.IMAGE `boot_slot`. -/
def FW_IMAGE.boot_slot : Field := ⟨0xB00010, 0, 1, 0, 0, 1, 1, .rw, 0, true, 0, true, none⟩
/-- R430: FW.IMAGE `trial`. -/
def FW_IMAGE.trial : Field := ⟨0xB00010, 0, 1, 0, 0, 2, 1, .ro, 0, false, 0, false, none⟩
/-- R430: FW.IMAGE `confirm`. -/
def FW_IMAGE.confirm : Field := ⟨0xB00010, 0, 1, 0, 0, 3, 1, .wo, 0, true, 0, true, none⟩
/-- R430: FW.IMAGE `fallback`. -/
def FW_IMAGE.fallback : Field := ⟨0xB00010, 0, 1, 0, 0, 4, 1, .ro, 0, false, 0, false, none⟩
/-- R430: FW.IMAGE `patched`. -/
def FW_IMAGE.patched : Field := ⟨0xB00010, 0, 1, 0, 0, 5, 1, .ro, 0, false, 0, false, none⟩
/-- R430: FW.IMAGE `img_ver`. -/
def FW_IMAGE.img_ver : Field := ⟨0xB00010, 0, 1, 0, 0, 32, 32, .ro, 0, false, 0, false, none⟩
/-- R430: FW.UPDATE `upd_state`. -/
def FW_UPDATE.upd_state : Field := ⟨0xB00018, 0, 1, 0, 0, 0, 2, .ro, 0, false, 0, false, none⟩
/-- R430: FW.UPDATE `upd_sect`. -/
def FW_UPDATE.upd_sect : Field := ⟨0xB00018, 0, 1, 0, 0, 2, 3, .ro, 0, false, 0, false, none⟩
/-- R430: FW.UPDATE `upd_status`. -/
def FW_UPDATE.upd_status : Field := ⟨0xB00018, 0, 1, 0, 0, 16, 16, .ro, 0, false, 0, false, none⟩
/-- R430: FW.PROC_CTRL `wd_ms`. -/
def FW_PROC_CTRL.wd_ms : Field := ⟨0xB00100, 64, 11, 0, 0, 0, 10, .rw, 50, false, 0, false, some (10, 1000)⟩
/-- R430: FW.PROC_CTRL `restart_req`. -/
def FW_PROC_CTRL.restart_req : Field := ⟨0xB00100, 64, 11, 0, 0, 16, 1, .wo, 0, true, 0, true, none⟩
/-- R430: FW.PROC_CTRL `release`. -/
def FW_PROC_CTRL.release : Field := ⟨0xB00100, 64, 11, 0, 0, 17, 1, .wo, 0, true, 0, true, none⟩
/-- R430: FW.PROC_STAT `pstate`. -/
def FW_PROC_STAT.pstate : Field := ⟨0xB00108, 64, 11, 0, 0, 0, 3, .ro, 0, false, 0, false, none⟩
/-- R430: FW.PROC_STAT `last_cause`. -/
def FW_PROC_STAT.last_cause : Field := ⟨0xB00108, 64, 11, 0, 0, 3, 4, .ro, 0, false, 0, false, none⟩
/-- R430: FW.PROC_STAT `crash_evt`. -/
def FW_PROC_STAT.crash_evt : Field := ⟨0xB00108, 64, 11, 0, 0, 7, 1, .w1c, 0, true, 0, false, none⟩
/-- R430: FW.PROC_CNT `starts`. -/
def FW_PROC_CNT.starts : Field := ⟨0xB00110, 64, 11, 0, 0, 0, 32, .ro, 0, false, 0, false, none⟩
/-- R430: FW.PROC_CNT `crashes`. -/
def FW_PROC_CNT.crashes : Field := ⟨0xB00110, 64, 11, 0, 0, 32, 16, .ro, 0, false, 0, false, none⟩
/-- R430: FW.PROC_CNT `win_crashes`. -/
def FW_PROC_CNT.win_crashes : Field := ⟨0xB00110, 64, 11, 0, 0, 48, 2, .ro, 0, false, 0, false, none⟩
/-- R430: FW.PROC_LAST `crash_cmp`. -/
def FW_PROC_LAST.crash_cmp : Field := ⟨0xB00118, 64, 11, 0, 0, 0, 64, .ro, 0, false, 0, false, none⟩
/-- R430: FW.PROC_SECT `sect_ver`. -/
def FW_PROC_SECT.sect_ver : Field := ⟨0xB00120, 64, 11, 0, 0, 0, 32, .ro, 0, false, 0, false, none⟩
/-- R430: FW.PROC_SECT `sect_dig`. -/
def FW_PROC_SECT.sect_dig : Field := ⟨0xB00120, 64, 11, 0, 0, 32, 32, .ro, 0, false, 0, false, none⟩
/-- R430: FW.TP_MASK `tp_en`. -/
def FW_TP_MASK.tp_en : Field := ⟨0xB01000, 8, 176, 0, 0, 0, 64, .rw, 0, true, 0, false, none⟩
/-- R461: RST.STAT `step`. -/
def RST_STAT.step : Field := ⟨0xC00000, 0, 1, 0, 0, 0, 4, .ro, 0, false, 0, false, none⟩
/-- R461: RST.STAT `ready`. -/
def RST_STAT.ready : Field := ⟨0xC00000, 0, 1, 0, 0, 4, 1, .ro, 0, false, 0, false, none⟩
/-- R461: RST.STAT `recovery`. -/
def RST_STAT.recovery : Field := ⟨0xC00000, 0, 1, 0, 0, 5, 1, .ro, 0, false, 0, false, none⟩
/-- R461: RST.STAT `warm_used`. -/
def RST_STAT.warm_used : Field := ⟨0xC00000, 0, 1, 0, 0, 6, 1, .ro, 0, false, 0, false, none⟩
/-- R461: RST.STAT `stall_cause`. -/
def RST_STAT.stall_cause : Field := ⟨0xC00000, 0, 1, 0, 0, 8, 4, .ro, 0, false, 0, false, none⟩
/-- R461: RST.STAT `boot_ms`. -/
def RST_STAT.boot_ms : Field := ⟨0xC00000, 0, 1, 0, 0, 16, 32, .ro, 0, false, 0, false, none⟩
/-- R461: RST.CTRL `wave_clusters`. -/
def RST_CTRL.wave_clusters : Field := ⟨0xC00008, 0, 1, 0, 0, 0, 6, .ro, 4, false, 0, false, none⟩
/-- R461: RST.CTRL `wave_gap_us`. -/
def RST_CTRL.wave_gap_us : Field := ⟨0xC00008, 0, 1, 0, 0, 8, 14, .ro, 200, false, 0, false, none⟩
/-- R461: RST.CTRL `drain_us`. -/
def RST_CTRL.drain_us : Field := ⟨0xC00008, 0, 1, 0, 0, 24, 14, .rw, 50, true, 0, false, some (10, 10000)⟩
/-- R461: RST.DEV_CTRL `dev_rst`. -/
def RST_DEV_CTRL.dev_rst : Field := ⟨0xC00010, 0, 1, 0, 0, 0, 1, .wo, 0, true, 0, true, none⟩
/-- R461: RST.DEV_CTRL `warm_req`. -/
def RST_DEV_CTRL.warm_req : Field := ⟨0xC00010, 0, 1, 0, 0, 1, 1, .rw, 0, true, 0, false, none⟩
/-- R461: RST.WARM `token_valid`. -/
def RST_WARM.token_valid : Field := ⟨0xC00018, 0, 1, 0, 0, 0, 1, .ro, 0, false, 0, false, none⟩
/-- R461: RST.WARM `warm_block`. -/
def RST_WARM.warm_block : Field := ⟨0xC00018, 0, 1, 0, 0, 8, 8, .ro, 0, false, 0, false, none⟩
/-- R461: RST.WARM `warm_max_s`. -/
def RST_WARM.warm_max_s : Field := ⟨0xC00018, 0, 1, 0, 0, 16, 16, .ro, 600, false, 0, false, none⟩
/-- R461: RST.DM `dm_gen`. -/
def RST_DM.dm_gen : Field := ⟨0xC00020, 0, 1, 0, 0, 0, 32, .ro, 0, false, 0, false, none⟩
/-- R461: RST.DM `dm_count`. -/
def RST_DM.dm_count : Field := ⟨0xC00020, 0, 1, 0, 0, 32, 13, .ro, 0, false, 0, false, none⟩
/-- R461: RST.DM `dm_full`. -/
def RST_DM.dm_full : Field := ⟨0xC00020, 0, 1, 0, 0, 45, 1, .w1c, 0, true, 0, false, none⟩
/-- R461: RST.DM `dm_pending`. -/
def RST_DM.dm_pending : Field := ⟨0xC00020, 0, 1, 0, 0, 46, 1, .ro, 0, false, 0, false, none⟩
/-- R461: RST.DM `dm_ignored`. -/
def RST_DM.dm_ignored : Field := ⟨0xC00020, 0, 1, 0, 0, 47, 1, .ro, 0, false, 0, false, none⟩
/-- R461: RST.SUB `sub_kind`. -/
def RST_SUB.sub_kind : Field := ⟨0xC00028, 0, 1, 0, 0, 0, 1, .ro, 0, false, 0, false, none⟩
/-- R461: RST.SUB `sub_unit`. -/
def RST_SUB.sub_unit : Field := ⟨0xC00028, 0, 1, 0, 0, 1, 10, .ro, 0, false, 0, false, none⟩
/-- R461: RST.SUB `sub_old`. -/
def RST_SUB.sub_old : Field := ⟨0xC00028, 0, 1, 0, 0, 11, 5, .ro, 0, false, 0, false, none⟩
/-- R461: RST.SUB `sub_new`. -/
def RST_SUB.sub_new : Field := ⟨0xC00028, 0, 1, 0, 0, 16, 5, .ro, 0, false, 0, false, none⟩
/-- R461: RST.SUB `sub_cause`. -/
def RST_SUB.sub_cause : Field := ⟨0xC00028, 0, 1, 0, 0, 21, 3, .ro, 0, false, 0, false, none⟩
/-- R461: RST.SUB `sub_cnt`. -/
def RST_SUB.sub_cnt : Field := ⟨0xC00028, 0, 1, 0, 0, 32, 32, .ro, 0, false, 0, false, none⟩
/-- R461: RST.KV_PCT `kv_pct_0`. -/
def RST_KV_PCT.kv_pct_0 : Field := ⟨0xC00030, 0, 1, 0, 0, 0, 7, .ro, 50, false, 0, false, none⟩
/-- R461: RST.KV_PCT `kv_pct_1`. -/
def RST_KV_PCT.kv_pct_1 : Field := ⟨0xC00030, 0, 1, 0, 0, 7, 7, .ro, 50, false, 0, false, none⟩
/-- R461: RST.KV_PCT `kv_pct_2`. -/
def RST_KV_PCT.kv_pct_2 : Field := ⟨0xC00030, 0, 1, 0, 0, 14, 7, .ro, 50, false, 0, false, none⟩
/-- R461: RST.KV_PCT `kv_pct_3`. -/
def RST_KV_PCT.kv_pct_3 : Field := ⟨0xC00030, 0, 1, 0, 0, 21, 7, .ro, 50, false, 0, false, none⟩
/-- R461: RST.KV_PCT `kv_pct_4`. -/
def RST_KV_PCT.kv_pct_4 : Field := ⟨0xC00030, 0, 1, 0, 0, 28, 7, .ro, 50, false, 0, false, none⟩
/-- R461: RST.KV_PCT `kv_pct_5`. -/
def RST_KV_PCT.kv_pct_5 : Field := ⟨0xC00030, 0, 1, 0, 0, 35, 7, .ro, 50, false, 0, false, none⟩
/-- R461: RST.KV_PCT `kv_pct_6`. -/
def RST_KV_PCT.kv_pct_6 : Field := ⟨0xC00030, 0, 1, 0, 0, 42, 7, .ro, 50, false, 0, false, none⟩
/-- R461: RST.KV_PCT `kv_pct_7`. -/
def RST_KV_PCT.kv_pct_7 : Field := ⟨0xC00030, 0, 1, 0, 0, 49, 7, .ro, 50, false, 0, false, none⟩
/-- R461: RST.PD_STAT `pd_on`. -/
def RST_PD_STAT.pd_on : Field := ⟨0xC00038, 0, 1, 0, 0, 0, 50, .ro, 0, false, 0, false, none⟩
/-- R461: RST.STEP_T `t_ms`. -/
def RST_STEP_T.t_ms : Field := ⟨0xC00100, 8, 13, 0, 0, 0, 32, .ro, 0, false, 0, false, none⟩
/-- R461: RST.PART_CTRL `part_rst`. -/
def RST_PART_CTRL.part_rst : Field := ⟨0xC00200, 16, 8, 0, 0, 0, 1, .wo, 0, true, 0, true, none⟩
/-- R461: RST.PART_CTRL `force`. -/
def RST_PART_CTRL.force : Field := ⟨0xC00200, 16, 8, 0, 0, 1, 1, .rw, 0, true, 0, false, none⟩
/-- R461: RST.PART_STAT `rst_state`. -/
def RST_PART_STAT.rst_state : Field := ⟨0xC00208, 16, 8, 0, 0, 0, 3, .ro, 0, false, 0, false, none⟩
/-- R461: RST.PART_STAT `rst_refused`. -/
def RST_PART_STAT.rst_refused : Field := ⟨0xC00208, 16, 8, 0, 0, 3, 1, .w1c, 0, true, 0, false, none⟩
/-- R461: RST.PART_STAT `last_rst_ms`. -/
def RST_PART_STAT.last_rst_ms : Field := ⟨0xC00208, 16, 8, 0, 0, 16, 16, .ro, 0, false, 0, false, none⟩
/-- R461: RST.PART_STAT `absorb_cnt`. -/
def RST_PART_STAT.absorb_cnt : Field := ⟨0xC00208, 16, 8, 0, 0, 32, 32, .ro, 0, false, 0, false, none⟩
/-- R461: RST.CL_CTRL `cl_rst`. -/
def RST_CL_CTRL.cl_rst : Field := ⟨0xC00400, 16, 32, 0, 0, 0, 1, .wo, 0, true, 0, true, none⟩
/-- R461: RST.CL_STAT `spare_cores`. -/
def RST_CL_STAT.spare_cores : Field := ⟨0xC00408, 16, 32, 0, 0, 0, 2, .ro, 0, false, 0, false, none⟩
/-- R461: RST.CL_STAT `spare_spur`. -/
def RST_CL_STAT.spare_spur : Field := ⟨0xC00408, 16, 32, 0, 0, 2, 2, .ro, 0, false, 0, false, none⟩
/-- R461: RST.CL_STAT `absent_cores`. -/
def RST_CL_STAT.absent_cores : Field := ⟨0xC00408, 16, 32, 0, 0, 4, 3, .ro, 0, false, 0, false, none⟩
/-- R461: RST.CL_STAT `absent_spur`. -/
def RST_CL_STAT.absent_spur : Field := ⟨0xC00408, 16, 32, 0, 0, 7, 5, .ro, 0, false, 0, false, none⟩
/-- R461: RST.CL_STAT `suspended`. -/
def RST_CL_STAT.suspended : Field := ⟨0xC00408, 16, 32, 0, 0, 12, 1, .ro, 0, false, 0, false, none⟩
/-- R461: RST.CL_STAT `withheld`. -/
def RST_CL_STAT.withheld : Field := ⟨0xC00408, 16, 32, 0, 0, 13, 1, .ro, 0, false, 0, false, none⟩
/-- R461: RST.CL_STAT `subs`. -/
def RST_CL_STAT.subs : Field := ⟨0xC00408, 16, 32, 0, 0, 32, 16, .ro, 0, false, 0, false, none⟩
/-- R461: RST.PHYS_RST `slot`. -/
def RST_PHYS_RST.slot : Field := ⟨0xC00600, 8, 32, 0, 0, 0, 3, .rw, 0, true, 0, false, none⟩
/-- R461: RST.PHYS_RST `slot_rst`. -/
def RST_PHYS_RST.slot_rst : Field := ⟨0xC00600, 8, 32, 0, 0, 3, 1, .wo, 0, true, 0, true, none⟩
/-- R461: RST.PHYS_RST `pos`. -/
def RST_PHYS_RST.pos : Field := ⟨0xC00600, 8, 32, 0, 0, 4, 5, .rw, 0, true, 0, false, none⟩
/-- R461: RST.PHYS_RST `pos_rst`. -/
def RST_PHYS_RST.pos_rst : Field := ⟨0xC00600, 8, 32, 0, 0, 9, 1, .wo, 0, true, 0, true, none⟩
/-- R461: RST.PHYS_RST `phys_busy`. -/
def RST_PHYS_RST.phys_busy : Field := ⟨0xC00600, 8, 32, 0, 0, 10, 1, .ro, 0, false, 0, false, none⟩
/-- R461: RST.PHYS_RST `phys_refused`. -/
def RST_PHYS_RST.phys_refused : Field := ⟨0xC00600, 8, 32, 0, 0, 11, 1, .w1c, 0, true, 0, false, none⟩
/-- R461: RST.CORE_CTRL `core_rst`. -/
def RST_CORE_CTRL.core_rst : Field := ⟨0xC00800, 8, 128, 0, 0, 0, 1, .wo, 0, true, 0, true, none⟩
/-- R461: RST.CORE_CTRL `rst_busy`. -/
def RST_CORE_CTRL.rst_busy : Field := ⟨0xC00800, 8, 128, 0, 0, 1, 1, .ro, 0, false, 0, false, none⟩
/-- R461: RST.SPUR_CTRL `spur_rst`. -/
def RST_SPUR_CTRL.spur_rst : Field := ⟨0xC01000, 8, 512, 0, 0, 0, 1, .wo, 0, true, 0, true, none⟩
/-- R461: RST.SPUR_CTRL `rst_busy`. -/
def RST_SPUR_CTRL.rst_busy : Field := ⟨0xC01000, 8, 512, 0, 0, 1, 1, .ro, 0, false, 0, false, none⟩
/-- R495: SEC.ID_LO `dev_id_lo`. -/
def SEC_ID_LO.dev_id_lo : Field := ⟨0xD00000, 0, 1, 0, 0, 0, 64, .ro, 0, false, 0, false, none⟩
/-- R495: SEC.ID_HI `dev_id_hi`. -/
def SEC_ID_HI.dev_id_hi : Field := ⟨0xD00008, 0, 1, 0, 0, 0, 64, .ro, 0, false, 0, false, none⟩
/-- R495: SEC.ENT `code`. -/
def SEC_ENT.code : Field := ⟨0xD00010, 0, 1, 0, 0, 0, 2, .ro, 0, false, 0, false, none⟩
/-- R495: SEC.ENT `dbg_policy`. -/
def SEC_ENT.dbg_policy : Field := ⟨0xD00010, 0, 1, 0, 0, 2, 2, .ro, 0, false, 0, false, none⟩
/-- R495: SEC.ENT `min_key_gen`. -/
def SEC_ENT.min_key_gen : Field := ⟨0xD00010, 0, 1, 0, 0, 4, 1, .ro, 0, false, 0, false, none⟩
/-- R495: SEC.ENT `ent_serial`. -/
def SEC_ENT.ent_serial : Field := ⟨0xD00010, 0, 1, 0, 0, 16, 48, .ro, 0, false, 0, false, none⟩
/-- R495: SEC.SVN `svn`. -/
def SEC_SVN.svn : Field := ⟨0xD00018, 0, 1, 0, 0, 0, 32, .ro, 0, false, 0, false, none⟩
/-- R495: SEC.SVN `min_svn`. -/
def SEC_SVN.min_svn : Field := ⟨0xD00018, 0, 1, 0, 0, 32, 32, .ro, 0, false, 0, false, none⟩
/-- R495: SEC.STAT `puf_ok`. -/
def SEC_STAT.puf_ok : Field := ⟨0xD00020, 0, 1, 0, 0, 0, 1, .ro, 0, false, 0, false, none⟩
/-- R495: SEC.STAT `ent_ok`. -/
def SEC_STAT.ent_ok : Field := ⟨0xD00020, 0, 1, 0, 0, 1, 1, .ro, 0, false, 0, false, none⟩
/-- R495: SEC.STAT `dbg_state`. -/
def SEC_STAT.dbg_state : Field := ⟨0xD00020, 0, 1, 0, 0, 2, 2, .ro, 0, false, 0, false, none⟩
/-- R495: SEC.STAT `dbg_taint`. -/
def SEC_STAT.dbg_taint : Field := ⟨0xD00020, 0, 1, 0, 0, 4, 1, .ro, 0, false, 0, false, none⟩
/-- R495: SEC.STAT `key_pend`. -/
def SEC_STAT.key_pend : Field := ⟨0xD00020, 0, 1, 0, 0, 5, 1, .ro, 0, false, 0, false, none⟩
/-- R495: SEC.STAT `sig_fail`. -/
def SEC_STAT.sig_fail : Field := ⟨0xD00020, 0, 1, 0, 0, 6, 1, .w1c, 0, true, 0, false, none⟩
/-- R495: SEC.STAT `sec_evt`. -/
def SEC_STAT.sec_evt : Field := ⟨0xD00020, 0, 1, 0, 0, 7, 1, .w1c, 0, true, 0, false, none⟩
/-- R495: SEC.STAT `unlock_cnt`. -/
def SEC_STAT.unlock_cnt : Field := ⟨0xD00020, 0, 1, 0, 0, 16, 16, .ro, 0, false, 0, false, none⟩
/-- R495: SEC.STAT `tok_fail`. -/
def SEC_STAT.tok_fail : Field := ⟨0xD00020, 0, 1, 0, 0, 32, 16, .ro, 0, false, 0, false, none⟩
/-- R495: SEC.KEYS `slots_loaded`. -/
def SEC_KEYS.slots_loaded : Field := ⟨0xD00028, 0, 1, 0, 0, 0, 14, .ro, 0, false, 0, false, none⟩
/-- R495: SEC.KEYS `dom_key`. -/
def SEC_KEYS.dom_key : Field := ⟨0xD00028, 0, 1, 0, 0, 14, 1, .ro, 0, false, 0, false, none⟩
/-- R495: SEC.KEYS `key_loads`. -/
def SEC_KEYS.key_loads : Field := ⟨0xD00028, 0, 1, 0, 0, 32, 32, .ro, 0, false, 0, false, none⟩
/-- R495: SEC.DBG `dbg_en`. -/
def SEC_DBG.dbg_en : Field := ⟨0xD00030, 0, 1, 0, 0, 0, 1, .ro, 1, false, 0, false, none⟩
/-- R495: SEC.DBG `dbg_rate`. -/
def SEC_DBG.dbg_rate : Field := ⟨0xD00030, 0, 1, 0, 0, 1, 2, .ro, 0, false, 0, false, none⟩
/-- R495: SEC.DBG `crc_err`. -/
def SEC_DBG.crc_err : Field := ⟨0xD00030, 0, 1, 0, 0, 32, 32, .ro, 0, false, 0, false, none⟩
/-- R495: SEC.SPDM `spdm_req`. -/
def SEC_SPDM.spdm_req : Field := ⟨0xD00038, 0, 1, 0, 0, 0, 32, .ro, 0, false, 0, false, none⟩
/-- R495: SEC.SPDM `spdm_err`. -/
def SEC_SPDM.spdm_err : Field := ⟨0xD00038, 0, 1, 0, 0, 32, 32, .ro, 0, false, 0, false, none⟩
/-- R496: MGT.LIM `p_lim`. -/
def MGT_LIM.p_lim : Field := ⟨0xE00000, 0, 1, 0, 0, 0, 12, .ro, 3000, false, 0, false, none⟩
/-- R496: MGT.LIM `p_lim_host`. -/
def MGT_LIM.p_lim_host : Field := ⟨0xE00000, 0, 1, 0, 0, 12, 12, .rw, 3000, true, 0, false, none⟩
/-- R496: MGT.LIM `p_hyst`. -/
def MGT_LIM.p_hyst : Field := ⟨0xE00000, 0, 1, 0, 0, 24, 8, .rw, 100, true, 0, false, none⟩
/-- R496: MGT.LIM `t_thr`. -/
def MGT_LIM.t_thr : Field := ⟨0xE00000, 0, 1, 0, 0, 32, 8, .ro, 95, false, 0, false, none⟩
/-- R496: MGT.LIM `t_hyst`. -/
def MGT_LIM.t_hyst : Field := ⟨0xE00000, 0, 1, 0, 0, 40, 4, .rw, 3, true, 0, false, none⟩
/-- R496: MGT.THR `share`. -/
def MGT_THR.share : Field := ⟨0xE00008, 0, 1, 0, 0, 0, 11, .ro, 1024, false, 0, false, none⟩
/-- R496: MGT.THR `pwr_lim_act`. -/
def MGT_THR.pwr_lim_act : Field := ⟨0xE00008, 0, 1, 0, 0, 11, 1, .ro, 0, false, 0, false, none⟩
/-- R496: MGT.THR `therm_lim_act`. -/
def MGT_THR.therm_lim_act : Field := ⟨0xE00008, 0, 1, 0, 0, 12, 1, .ro, 0, false, 0, false, none⟩
/-- R496: MGT.THR `floor_evt`. -/
def MGT_THR.floor_evt : Field := ⟨0xE00008, 0, 1, 0, 0, 13, 1, .w1c, 0, true, 0, false, none⟩
/-- R496: MGT.THR `hot_point`. -/
def MGT_THR.hot_point : Field := ⟨0xE00008, 0, 1, 0, 0, 14, 8, .ro, 0, false, 0, false, none⟩
/-- R496: MGT.THR `hot_temp`. -/
def MGT_THR.hot_temp : Field := ⟨0xE00008, 0, 1, 0, 0, 22, 16, .ro, 0, false, 0, false, none⟩
/-- R496: MGT.THR `throttle_ms`. -/
def MGT_THR.throttle_ms : Field := ⟨0xE00008, 0, 1, 0, 0, 40, 24, .ro, 0, false, 0, false, none⟩
/-- R496: MGT.IN `vin_mv`. -/
def MGT_IN.vin_mv : Field := ⟨0xE00010, 0, 1, 0, 0, 0, 20, .ro, 0, false, 0, false, none⟩
/-- R496: MGT.IN `iin_ma`. -/
def MGT_IN.iin_ma : Field := ⟨0xE00010, 0, 1, 0, 0, 20, 20, .ro, 0, false, 0, false, none⟩
/-- R496: MGT.IN `pin_w`. -/
def MGT_IN.pin_w : Field := ⟨0xE00010, 0, 1, 0, 0, 40, 13, .ro, 0, false, 0, false, none⟩
/-- R496: MGT.TEMP `temp`. -/
def MGT_TEMP.temp : Field := ⟨0xE00100, 8, 210, 0, 0, 0, 16, .ro, 0, false, 0, false, none⟩
/-- R496: MGT.TEMP `temp_max`. -/
def MGT_TEMP.temp_max : Field := ⟨0xE00100, 8, 210, 0, 0, 16, 16, .ro, 0, false, 0, false, none⟩
/-- R496: MGT.TEMP `valid`. -/
def MGT_TEMP.valid : Field := ⟨0xE00100, 8, 210, 0, 0, 32, 1, .ro, 0, false, 0, false, none⟩
/-- R496: MGT.PD `mv`. -/
def MGT_PD.mv : Field := ⟨0xE00800, 8, 50, 0, 0, 0, 20, .ro, 0, false, 0, false, none⟩
/-- R496: MGT.PD `ma`. -/
def MGT_PD.ma : Field := ⟨0xE00800, 8, 50, 0, 0, 20, 20, .ro, 0, false, 0, false, none⟩
/-- R496: MGT.PD `pd_valid`. -/
def MGT_PD.pd_valid : Field := ⟨0xE00800, 8, 50, 0, 0, 40, 1, .ro, 0, false, 0, false, none⟩
/-- R496: MGT.LOG_STAT `evt_seq`. -/
def MGT_LOG_STAT.evt_seq : Field := ⟨0xE00018, 0, 1, 0, 0, 0, 32, .ro, 0, false, 0, false, none⟩
/-- R496: MGT.LOG_STAT `evt_count`. -/
def MGT_LOG_STAT.evt_count : Field := ⟨0xE00018, 0, 1, 0, 0, 32, 11, .ro, 0, false, 0, false, none⟩
/-- R496: MGT.LOG_STAT `svc_evt`. -/
def MGT_LOG_STAT.svc_evt : Field := ⟨0xE00018, 0, 1, 0, 0, 48, 1, .w1c, 0, true, 0, false, none⟩
/-- R496: MGT.LOG_STAT `nvm_err`. -/
def MGT_LOG_STAT.nvm_err : Field := ⟨0xE00018, 0, 1, 0, 0, 49, 1, .w1c, 0, true, 0, false, none⟩
/-- R496: MGT.UPD `pldm_state`. -/
def MGT_UPD.pldm_state : Field := ⟨0xE00020, 0, 1, 0, 0, 0, 3, .ro, 0, false, 0, false, none⟩
/-- R496: MGT.UPD `comp_id`. -/
def MGT_UPD.comp_id : Field := ⟨0xE00020, 0, 1, 0, 0, 8, 16, .ro, 0, false, 0, false, none⟩
/-- R496: MGT.UPD `pldm_status`. -/
def MGT_UPD.pldm_status : Field := ⟨0xE00020, 0, 1, 0, 0, 24, 16, .ro, 0, false, 0, false, none⟩
/-- R496: MGT.UPD `act_pend`. -/
def MGT_UPD.act_pend : Field := ⟨0xE00020, 0, 1, 0, 0, 40, 1, .ro, 0, false, 0, false, none⟩
/-- R514: MGT.PROT `clamp_act`. -/
def MGT_PROT.clamp_act : Field := ⟨0xE00028, 0, 1, 0, 0, 0, 1, .ro, 0, false, 0, false, none⟩
/-- R514: MGT.PROT `clamp_cause`. -/
def MGT_PROT.clamp_cause : Field := ⟨0xE00028, 0, 1, 0, 0, 1, 2, .ro, 0, false, 0, false, none⟩
/-- R514: MGT.PROT `clamp_evt`. -/
def MGT_PROT.clamp_evt : Field := ⟨0xE00028, 0, 1, 0, 0, 3, 1, .w1c, 0, true, 0, false, none⟩
/-- R514: MGT.PROT `conv_fault`. -/
def MGT_PROT.conv_fault : Field := ⟨0xE00028, 0, 1, 0, 0, 4, 4, .ro, 0, false, 0, false, none⟩
/-- R514: MGT.PROT `trip_cause`. -/
def MGT_PROT.trip_cause : Field := ⟨0xE00028, 0, 1, 0, 0, 8, 3, .ro, 0, false, 0, false, none⟩
/-- R514: MGT.PROT `trip_point`. -/
def MGT_PROT.trip_point : Field := ⟨0xE00028, 0, 1, 0, 0, 11, 8, .ro, 0, false, 0, false, none⟩
/-- R514: MGT.PROT `p_eff_w`. -/
def MGT_PROT.p_eff_w : Field := ⟨0xE00028, 0, 1, 0, 0, 20, 12, .ro, 3000, false, 0, false, none⟩
/-- R514: MGT.PROT `clamp_cnt`. -/
def MGT_PROT.clamp_cnt : Field := ⟨0xE00028, 0, 1, 0, 0, 32, 32, .ro, 0, false, 0, false, none⟩
/-- R272: DFE.TXF_COEF `coef`. -/
def DFE_TXF_COEF.coef : Field := ⟨0x710000, 2, 32768, 512, 96, 0, 16, .rw, 0, true, 0, true, none⟩
/-- R272: DFE.RXF_COEF `coef`. -/
def DFE_RXF_COEF.coef : Field := ⟨0x7100C0, 2, 32768, 512, 96, 0, 16, .rw, 0, true, 0, true, none⟩
/-- R272: DFE.SEQ_MEM `word`. -/
def DFE_SEQ_MEM.word : Field := ⟨0x740000, 8, 16384, 256, 8, 0, 64, .rw, 0, true, 0, true, none⟩
/-- R272: DFE.MASK_INB `inb`. -/
def DFE_MASK_INB.inb : Field := ⟨0x740040, 8, 16384, 256, 4, 0, 64, .rw, 0, true, 0, false, none⟩
/-- R272: DFE.MASK_LIM `lim`. -/
def DFE_MASK_LIM.lim : Field := ⟨0x740060, 4, 32768, 512, 256, 0, 24, .rw, 0, true, 0, false, none⟩

end F

/-- Fields of the TIME block, part 0. -/
def fieldsTIME0 : List Field := [
  F.TIME_CTRL.src_sel, F.TIME_CTRL.synce_en, F.TIME_CTRL.step_arm, F.TIME_CTRL.force_holdover,
  F.TIME_CTRL.pps_out_force, F.TIME_CTRL.pps_out_en, F.TIME_CTRL.clk10m_out_en, F.TIME_STAT.state,
  F.TIME_STAT.stepped, F.TIME_STAT.jump_refused, F.TIME_STAT.hold_limit_exceeded, F.TIME_STAT.refuse_fault,
  F.TIME_STAT.rate_clamped, F.TIME_STAT.step_refused, F.TIME_STAT.synce_ok, F.TIME_STAT.pps_in_present,
  F.TIME_STAT.cmp_stepped, F.TIME_PORT.ptp_port, F.TIME_PORT.ptp_subport, F.TIME_PORT.synce_port,
  F.TIME_PORT.synce_subport, F.TIME_PORT.profile, F.TIME_PORT.domain, F.TIME_JUMP_THR.thr_ns,
  F.TIME_SLEW.slew_ppb, F.TIME_HOLD.hold_limit_s, F.TIME_HOLD.refuse_limit_s, F.TIME_HOLD.lock_wait_s,
  F.TIME_SNAP_CTRL.snap, F.TIME_SNAP_SEC.sec, F.TIME_SNAP_SUB.ns, F.TIME_SNAP_SUB.frac,
  F.TIME_SNAP_CMP.cmp, F.TIME_SNAP_TICK.tick_count, F.TIME_FRAME.sfn, F.TIME_FRAME.tick_in_frame,
  F.TIME_FRAME.frame_offset, F.TIME_FRAME.skipped_ticks, F.TIME_OFFSET.last_offset, F.TIME_OFFSET.rate]

/-- Fields of the TIME block, part 1. -/
def fieldsTIME1 : List Field := [
  F.TIME_COUNT.refuse_cnt, F.TIME_COUNT.gm_change_cnt, F.TIME_UTC.utc_offset, F.TIME_UTC.utc_valid,
  F.TIME_PPS_IN.cable_delay_ns, F.TIME_PPS_IN.edge, F.TIME_TOD_NEXT.tod_sec, F.TIME_PPS_OUT.width_ns,
  F.TIME_CMP_TARGET.target, F.TIME_CMP_CTRL.enable, F.TIME_CMP_CTRL.fired]

/-- Fields of the TICK block, part 0. -/
def fieldsTICK0 : List Field := [
  F.TICK_CTRL.bank_sel, F.TICK_CTRL.table_len, F.TICK_CTRL.open_en, F.TICK_STAT.running,
  F.TICK_STAT.cur_bank, F.TICK_STAT.cur_len, F.TICK_STAT.cur_col, F.TICK_STAT.stage_mismatch,
  F.TICK_STAT.stage_pending, F.TICK_STAT.stop_refused, F.TICK_STAT.col_err, F.TICK_STAT.overrun,
  F.TICK_STAT.host_wr_ign, F.TICK_STAT.fit_ok, F.TICK_BANK_BASE.base, F.TICK_FIT.min_slack,
  F.TICK_FIT.fit_margin, F.TICK_FIT.abort_lead, F.TICK_OPEN_SHARE.open_share, F.TICK_ABORT.abort_radio,
  F.TICK_ABORT.abort_edge, F.TICK_REPLAY.replay_cyc, F.TICK_OVERRUN.overrun_cnt, F.TICK_OVERRUN.last_lane,
  F.TICK_OVERRUN.last_col, F.TICK_COMMIT.mismatch_cnt, F.TICK_COMMIT.col_err_cnt]

/-- Fields of the MSF block, part 0. -/
def fieldsMSF0 : List Field := [
  F.MSF_GCTRL.gate_en, F.MSF_GCTRL.skip_en, F.MSF_GCTRL.kat_period, F.MSF_GCTRL.hang_cyc,
  F.MSF_DESC_BASE.base, F.MSF_CTRL.fence_req, F.MSF_CTRL.kat_now, F.MSF_STAT.busy,
  F.MSF_STAT.bg_active, F.MSF_STAT.fenced, F.MSF_STAT.desc_err, F.MSF_STAT.ue_err,
  F.MSF_STAT.hang, F.MSF_STAT.kat_fail, F.MSF_STAT.delta_err, F.MSF_STAT.acc_sat,
  F.MSF_STAT.strict_flags, F.MSF_STAT.fence_cause, F.MSF_CYC.array_cyc, F.MSF_OPS.active_mcell,
  F.MSF_OPS.gated_mcell, F.MSF_LAST.last_tag, F.MSF_LAST.last_end, F.MSF_MAP.phys_slot,
  F.MSF_MAP.absent, F.MSF_MAP.spare_used]

/-- Fields of the SPR block, part 0. -/
def fieldsSPR0 : List Field := [
  F.SPR_GCTRL.kat_period, F.SPR_GCTRL.hang_cyc, F.SPR_CTRL.radio_mask, F.SPR_CTRL.lock_ways,
  F.SPR_CTRL.fence_req, F.SPR_CTRL.kat_now, F.SPR_STAT.busy, F.SPR_STAT.fenced,
  F.SPR_STAT.fault, F.SPR_STAT.ue_err, F.SPR_STAT.hang, F.SPR_STAT.kat_fail,
  F.SPR_STAT.radio_fetch_miss, F.SPR_STAT.desc_err, F.SPR_STAT.fence_cause, F.SPR_CYC.open_thr_cyc,
  F.SPR_RCYC.radio_thr_cyc, F.SPR_FAULT.cause, F.SPR_FAULT.thread, F.SPR_FAULT.status,
  F.SPR_FAULT.job_tag, F.SPR_FAULT_PC.pc, F.SPR_MAP.phys_pos, F.SPR_MAP.absent,
  F.SPR_MAP.spare_used, F.SPR_TSTATE.state_0, F.SPR_TSTATE.state_1, F.SPR_TSTATE.state_2,
  F.SPR_TSTATE.state_3, F.SPR_TSTATE.state_4, F.SPR_TSTATE.state_5, F.SPR_TSTATE.state_6,
  F.SPR_TSTATE.state_7, F.SPR_GCB_BASE.gcb_base, F.SPR_GCB_LEN.gcb_len, F.SPR_GCB_RGN_BASE.rgn_base,
  F.SPR_GCB_RGN_LIM.rgn_limit, F.SPR_DSP_STAT.gcb_mismatch, F.SPR_DSP_STAT.gcb_pending, F.SPR_DSP_STAT.rgn_wr_ign]

/-- Fields of the SPR block, part 1. -/
def fieldsSPR1 : List Field := [
  F.SPR_DSP_STAT.sat_cnt]

/-- Fields of the MEM block, part 0. -/
def fieldsMEM0 : List Field := [
  F.MEM_MAP.ilv_mode, F.MEM_MAP.rsv_per_ch, F.MEM_MAP.n_up, F.MEM_MAP.n_ent,
  F.MEM_MAP.cap_gib, F.MEM_MAP.min_ch, F.MEM_SCRUB.sram_scrub_ms, F.MEM_SCRUB.scrub_h,
  F.MEM_SCRUB.dev_thr, F.MEM_SCRUB.row_thr, F.MEM_SRAM_ERR.ce_cnt, F.MEM_SRAM_ERR.ue_cnt,
  F.MEM_UE_ADDR.addr, F.MEM_UE_ADDR.stored_tag, F.MEM_CH_STAT.state, F.MEM_CH_STAT.erasure,
  F.MEM_CH_STAT.lost, F.MEM_CH_STAT.rate, F.MEM_CH_ERR.ce_cnt, F.MEM_CH_ERR.ue_cnt,
  F.MEM_CH_ERR.tag_cnt, F.MEM_DEV_FAIL.failed, F.MEM_SP_RSV.rsv_off, F.MEM_SP_RSV.rsv_len]

/-- Fields of the NOC block, part 0. -/
def fieldsNOC0 : List Field := [
  F.NOC_CFG.radio_share, F.NOC_CFG.noc_to, F.NOC_STAT.route_rebuilt, F.NOC_STAT.hdr_ue,
  F.NOC_RTR.state, F.NOC_RTR.ce_cnt, F.NOC_RTR.drop_cnt, F.NOC_ROUTE.order,
  F.NOC_ROUTE.waypoint, F.NOC_ROUTE.wp_valid]

/-- Fields of the FH block, part 0. -/
def fieldsFH0 : List Field := [
  F.FH_PORT_CFG.split, F.FH_PORT_CFG.mtu, F.FH_PORT_CFG.pcp_c, F.FH_PORT_CFG.pcp_u,
  F.FH_PORT_STAT.link_0, F.FH_PORT_STAT.link_1, F.FH_PORT_STAT.link_2, F.FH_PORT_STAT.link_3,
  F.FH_PORT_STAT.link_chg, F.FH_MAC.port_mac, F.FH_WIN_CP.t1a_cp_min, F.FH_WIN_CP.t1a_cp_max,
  F.FH_WIN_DL.t1a_up_min, F.FH_WIN_DL.t1a_up_max, F.FH_WIN_UL.ta4_min, F.FH_WIN_UL.ta4_max,
  F.FH_DM.dm_start, F.FH_DM.dm_sub, F.FH_DM_RES.owd_ns, F.FH_DM_RES.dm_valid,
  F.FH_DM_RES.dm_timeout, F.FH_PEER.peer_mac, F.FH_PEER.vlan_id, F.FH_PEER.learned,
  F.FH_TX_CNT.tx_frames, F.FH_TX_CNT.tx_drop, F.FH_RX_CNT.rx_frames, F.FH_RX_CNT.rx_other,
  F.FH_RX_ERR.rx_early, F.FH_RX_ERR.rx_late, F.FH_RX_ERR.rx_dup, F.FH_RX_ERR.rx_unknown,
  F.FH_RX_ERR2.seq_gap, F.FH_RX_ERR2.rx_frag, F.FH_RX_MISS.rx_missing, F.FH_RX_MISS.rx_no_stream,
  F.FH_COMP_CNT.comp_sat, F.FH_COMP_CNT.rx_short_rb, F.FH_STREAM.eaxc, F.FH_STREAM.port]

/-- Fields of the FH block, part 1. -/
def fieldsFH1 : List Field := [
  F.FH_STREAM.subport, F.FH_STREAM.cell_id, F.FH_STREAM.valid, F.FH_STREAM.dl_meth,
  F.FH_STREAM.dl_width, F.FH_STREAM.ul_meth, F.FH_STREAM.ul_width, F.FH_STREAM.split8,
  F.FH_STREAM.chain]

/-- Fields of the DFE block, part 0. -/
def fieldsDFE0 : List Field := [
  F.DFE_CFG.ovs, F.DFE_CFG.tx_taps, F.DFE_CFG.rx_taps, F.DFE_CFG.agc_mode,
  F.DFE_CFG.mask_act, F.DFE_CFG.mask_avg_log2, F.DFE_NCO.nco_inc, F.DFE_NCO.nco_phase0,
  F.DFE_AGC.agc_init, F.DFE_AGC.agc_gmin, F.DFE_AGC.agc_gmax, F.DFE_AGC.agc_blk_log2,
  F.DFE_AGC.agc_step_sh, F.DFE_AGC_THR.agc_hi, F.DFE_AGC_THR.agc_lo, F.DFE_FREEZE.det_thr,
  F.DFE_FREEZE.freeze_win, F.DFE_SEQ_CFG.seq_len, F.DFE_STAT.gain, F.DFE_STAT.frozen_now,
  F.DFE_STAT.det, F.DFE_STAT.seq_wr_ign, F.DFE_STAT.freeze_mismatch, F.DFE_STAT.mask_viol,
  F.DFE_STAT.mask_mute, F.DFE_STAT.wr_ign, F.DFE_STAT.viol_cnt, F.DFE_SNAP.snap,
  F.DFE_SNAP.muted_sym, F.DFE_RSSI.rssi_in, F.DFE_RSSI.rssi_gain, F.DFE_RSSI.rssi_sfn_lo,
  F.DFE_RSSI_T.rssi_cmp, F.DFE_TXF_COEF.coef, F.DFE_RXF_COEF.coef, F.DFE_SEQ_MEM.word,
  F.DFE_MASK_INB.inb, F.DFE_MASK_LIM.lim]

/-- Fields of the SRV block, part 0. -/
def fieldsSRV0 : List Field := [
  F.SRV_CTRL.adm_max, F.SRV_CTRL.adm_en, F.SRV_CTRL.chunk_pg, F.SRV_STAT.seq_used,
  F.SRV_STAT.seq_full, F.SRV_STAT.wl_trunc, F.SRV_STAT.desc_full, F.SRV_STAT.shp_mismatch,
  F.SRV_ACCT_SEL.slice, F.SRV_ACCT_SEL.snap, F.SRV_ACCT.count, F.SRV_E_RADIO.e_radio,
  F.SRV_E_DEV.e_dev, F.SRV_PART.role, F.SRV_PART.role_pend, F.SRV_PART.role_chg,
  F.SRV_PART.adm_refuse, F.SRV_PART.seq_cnt, F.SRV_STEP.steps, F.SRV_STEP.unplaced,
  F.SRV_STEP2.last_items, F.SRV_STEP2.last_rows, F.SRV_STEP2.moves, F.SRV_ADM.quantum,
  F.SRV_ADM.seq_quota, F.SRV_ADM.deficit, F.SRV_SHP.rate, F.SRV_SHP.burst,
  F.SRV_SHP.tokens, F.SRV_SCNT.active, F.SRV_SCNT.frozen, F.SRV_SCNT.shp_blk,
  F.SRV_SCNT.shp_pend]

/-- Fields of the KV block, part 0. -/
def fieldsKV0 : List Field := [
  F.KV_CTRL.pg_wait_lim, F.KV_CTRL.cold_ticks, F.KV_CTRL.reclaim_max, F.KV_CTRL.spill_en,
  F.KV_CTRL.tree_en, F.KV_STAT.nodes_used, F.KV_STAT.ins_skip, F.KV_STAT.arena_cut,
  F.KV_STAT.exhaust, F.KV_MSEL.model_id, F.KV_MSEL.snap, F.KV_MSTAT.frames_64k,
  F.KV_MSTAT.seqs, F.KV_MWASTE.tail_bytes, F.KV_ARENA.base_4m, F.KV_ARENA.len_4m,
  F.KV_FREE.free_64k, F.KV_FREE.chunks_free, F.KV_WAIT.waiting, F.KV_WAIT.exhausted,
  F.KV_RECL.dropped, F.KV_RECL.spilled, F.KV_SHARE.hits, F.KV_SHARE.cow_copies,
  F.KV_QUOTA.quota_64k, F.KV_QUOTA.used_64k]

/-- Fields of the FAB block, part 0. -/
def fieldsFAB0 : List Field := [
  F.FAB_CTRL.node_id, F.FAB_CTRL.joined, F.FAB_CTRL.min_links, F.FAB_STAT.links_up,
  F.FAB_STAT.links_active, F.FAB_STAT.route_rebuilt, F.FAB_STAT.auth_alarm, F.FAB_STAT.unreach,
  F.FAB_STAT.win_alloc_fail, F.FAB_STAT.rec_err, F.FAB_LIMITS.e2e_to_us, F.FAB_LIMITS.e2e_tries,
  F.FAB_STRAG.strag_thr_us, F.FAB_STRAG.strag_n, F.FAB_OUTST.outst, F.FAB_OUTST.outst_peak,
  F.FAB_OUTST.stall_cnt, F.FAB_PEER_SEL.node, F.FAB_PEER_SEL.snap, F.FAB_PEER_LAT.rtt_ns,
  F.FAB_PEER_LAT.lag_ns, F.FAB_PEER_CNT.retries, F.FAB_PEER_CNT.strag_runs, F.FAB_PEER_CNT.member,
  F.FAB_PEER_CNT.suspect, F.FAB_PEER_CNT.failed, F.FAB_PEER_CNT.stale_cnt, F.FAB_LINK_CFG.link_en,
  F.FAB_LINK_CFG.peer_link, F.FAB_LINK_CFG.peer_node, F.FAB_LINK_STAT.state, F.FAB_LINK_STAT.width,
  F.FAB_LINK_STAT.lane_bad, F.FAB_LINK_STAT.spare_used, F.FAB_LINK_STAT.state_chg, F.FAB_LINK_STAT.lane_map,
  F.FAB_LINK_STAT.epoch, F.FAB_LINK_STAT.retrain_cnt, F.FAB_LINK_ERR.ce_cnt, F.FAB_LINK_ERR.replay_cnt]

/-- Fields of the FAB block, part 1. -/
def fieldsFAB1 : List Field := [
  F.FAB_LINK_ERR.auth_fail, F.FAB_LINK_CNT.tx_units, F.FAB_LINK_CNT.nonmember_cnt]

/-- Fields of the HOST block, part 0. -/
def fieldsHOST0 : List Field := [
  F.HOST_VER.dev_major, F.HOST_S_VER.dev_major, F.HOST_VER.dev_minor, F.HOST_S_VER.dev_minor,
  F.HOST_VER.drv_major, F.HOST_S_VER.drv_major, F.HOST_VER.drv_minor, F.HOST_S_VER.drv_minor,
  F.HOST_VER.negotiate, F.HOST_S_VER.negotiate, F.HOST_VER.neg_status, F.HOST_S_VER.neg_status,
  F.HOST_FEAT_DEV.feat_dev, F.HOST_S_FEAT_DEV.feat_dev, F.HOST_FEAT_DRV.feat_drv, F.HOST_S_FEAT_DRV.feat_drv,
  F.HOST_FEAT_AGREED.feat_ok, F.HOST_S_FEAT_AGREED.feat_ok, F.HOST_CTL_HB.hb, F.HOST_CTL_HB.ctl_hb_to_ms,
  F.HOST_STAT.win_miss, F.HOST_STAT.vec_err, F.HOST_STAT.evt_lost, F.HOST_STAT.outst,
  F.HOST_IND.ind_base, F.HOST_IND.ind_log2, F.HOST_IND.ind_drop, F.HOST_SLICE.state,
  F.HOST_SLICE.function, F.HOST_SLICE.pasid, F.HOST_SLICE.hb_to_ms, F.HOST_SLICE.grace_s,
  F.HOST_S_ID.slice, F.HOST_S_ID.state, F.HOST_S_HB.hb, F.HOST_S_COOKIE.cookie,
  F.HOST_S_ATTACH.attach, F.HOST_S_ATTACH.attach_st, F.HOST_S_COOKIE_NEW.cookie_new, F.HOST_RING_CFG.sq_log2]

/-- Fields of the HOST block, part 1. -/
def fieldsHOST1 : List Field := [
  F.HOST_S_RING_CFG.sq_log2, F.HOST_RING_CFG.cq_log2, F.HOST_S_RING_CFG.cq_log2, F.HOST_RING_CFG.vector,
  F.HOST_S_RING_CFG.vector, F.HOST_RING_CFG.coal_cnt, F.HOST_S_RING_CFG.coal_cnt, F.HOST_RING_CFG.coal_us,
  F.HOST_S_RING_CFG.coal_us, F.HOST_RING_CFG.mirror_en, F.HOST_S_RING_CFG.mirror_en, F.HOST_RING_SQ_TAIL.sq_tail,
  F.HOST_S_RING_SQ_TAIL.sq_tail, F.HOST_RING_SQ_HEAD.sq_head, F.HOST_S_RING_SQ_HEAD.sq_head, F.HOST_RING_CQ_HEAD.cq_head,
  F.HOST_S_RING_CQ_HEAD.cq_head, F.HOST_RING_CQ_TAIL.cq_tail, F.HOST_S_RING_CQ_TAIL.cq_tail, F.HOST_RING_MIRROR.mirror,
  F.HOST_S_RING_MIRROR.mirror, F.HOST_RING_STAT.cfg_err, F.HOST_S_RING_STAT.cfg_err, F.HOST_RING_STAT.cfg_ign,
  F.HOST_S_RING_STAT.cfg_ign, F.HOST_RING_STAT.db_err, F.HOST_S_RING_STAT.db_err, F.HOST_RING_STAT.ring_outst,
  F.HOST_S_RING_STAT.ring_outst, F.HOST_RING_STAT.prog_skip, F.HOST_S_RING_STAT.prog_skip, F.HOST_RING_STALE.rr_stale,
  F.HOST_S_RING_STALE.rr_stale]

/-- Fields of the FW block, part 0. -/
def fieldsFW0 : List Field := [
  F.FW_GCTRL.cairn_safe_share, F.FW_GSTAT.held, F.FW_GSTAT.down, F.FW_GSTAT.hold_evt,
  F.FW_GSTAT.log_lost, F.FW_IMAGE.cur_slot, F.FW_IMAGE.boot_slot, F.FW_IMAGE.trial,
  F.FW_IMAGE.confirm, F.FW_IMAGE.fallback, F.FW_IMAGE.patched, F.FW_IMAGE.img_ver,
  F.FW_UPDATE.upd_state, F.FW_UPDATE.upd_sect, F.FW_UPDATE.upd_status, F.FW_PROC_CTRL.wd_ms,
  F.FW_PROC_CTRL.restart_req, F.FW_PROC_CTRL.release, F.FW_PROC_STAT.pstate, F.FW_PROC_STAT.last_cause,
  F.FW_PROC_STAT.crash_evt, F.FW_PROC_CNT.starts, F.FW_PROC_CNT.crashes, F.FW_PROC_CNT.win_crashes,
  F.FW_PROC_LAST.crash_cmp, F.FW_PROC_SECT.sect_ver, F.FW_PROC_SECT.sect_dig, F.FW_TP_MASK.tp_en]

/-- Fields of the RST block, part 0. -/
def fieldsRST0 : List Field := [
  F.RST_STAT.step, F.RST_STAT.ready, F.RST_STAT.recovery, F.RST_STAT.warm_used,
  F.RST_STAT.stall_cause, F.RST_STAT.boot_ms, F.RST_CTRL.wave_clusters, F.RST_CTRL.wave_gap_us,
  F.RST_CTRL.drain_us, F.RST_DEV_CTRL.dev_rst, F.RST_DEV_CTRL.warm_req, F.RST_WARM.token_valid,
  F.RST_WARM.warm_block, F.RST_WARM.warm_max_s, F.RST_DM.dm_gen, F.RST_DM.dm_count,
  F.RST_DM.dm_full, F.RST_DM.dm_pending, F.RST_DM.dm_ignored, F.RST_SUB.sub_kind,
  F.RST_SUB.sub_unit, F.RST_SUB.sub_old, F.RST_SUB.sub_new, F.RST_SUB.sub_cause,
  F.RST_SUB.sub_cnt, F.RST_KV_PCT.kv_pct_0, F.RST_KV_PCT.kv_pct_1, F.RST_KV_PCT.kv_pct_2,
  F.RST_KV_PCT.kv_pct_3, F.RST_KV_PCT.kv_pct_4, F.RST_KV_PCT.kv_pct_5, F.RST_KV_PCT.kv_pct_6,
  F.RST_KV_PCT.kv_pct_7, F.RST_PD_STAT.pd_on, F.RST_STEP_T.t_ms, F.RST_PART_CTRL.part_rst,
  F.RST_PART_CTRL.force, F.RST_PART_STAT.rst_state, F.RST_PART_STAT.rst_refused, F.RST_PART_STAT.last_rst_ms]

/-- Fields of the RST block, part 1. -/
def fieldsRST1 : List Field := [
  F.RST_PART_STAT.absorb_cnt, F.RST_CL_CTRL.cl_rst, F.RST_CL_STAT.spare_cores, F.RST_CL_STAT.spare_spur,
  F.RST_CL_STAT.absent_cores, F.RST_CL_STAT.absent_spur, F.RST_CL_STAT.suspended, F.RST_CL_STAT.withheld,
  F.RST_CL_STAT.subs, F.RST_PHYS_RST.slot, F.RST_PHYS_RST.slot_rst, F.RST_PHYS_RST.pos,
  F.RST_PHYS_RST.pos_rst, F.RST_PHYS_RST.phys_busy, F.RST_PHYS_RST.phys_refused, F.RST_CORE_CTRL.core_rst,
  F.RST_CORE_CTRL.rst_busy, F.RST_SPUR_CTRL.spur_rst, F.RST_SPUR_CTRL.rst_busy]

/-- Fields of the SEC block, part 0. -/
def fieldsSEC0 : List Field := [
  F.SEC_ID_LO.dev_id_lo, F.SEC_ID_HI.dev_id_hi, F.SEC_ENT.code, F.SEC_ENT.dbg_policy,
  F.SEC_ENT.min_key_gen, F.SEC_ENT.ent_serial, F.SEC_SVN.svn, F.SEC_SVN.min_svn,
  F.SEC_STAT.puf_ok, F.SEC_STAT.ent_ok, F.SEC_STAT.dbg_state, F.SEC_STAT.dbg_taint,
  F.SEC_STAT.key_pend, F.SEC_STAT.sig_fail, F.SEC_STAT.sec_evt, F.SEC_STAT.unlock_cnt,
  F.SEC_STAT.tok_fail, F.SEC_KEYS.slots_loaded, F.SEC_KEYS.dom_key, F.SEC_KEYS.key_loads,
  F.SEC_DBG.dbg_en, F.SEC_DBG.dbg_rate, F.SEC_DBG.crc_err, F.SEC_SPDM.spdm_req,
  F.SEC_SPDM.spdm_err]

/-- Fields of the MGT block, part 0. -/
def fieldsMGT0 : List Field := [
  F.MGT_LIM.p_lim, F.MGT_LIM.p_lim_host, F.MGT_LIM.p_hyst, F.MGT_LIM.t_thr,
  F.MGT_LIM.t_hyst, F.MGT_THR.share, F.MGT_THR.pwr_lim_act, F.MGT_THR.therm_lim_act,
  F.MGT_THR.floor_evt, F.MGT_THR.hot_point, F.MGT_THR.hot_temp, F.MGT_THR.throttle_ms,
  F.MGT_IN.vin_mv, F.MGT_IN.iin_ma, F.MGT_IN.pin_w, F.MGT_TEMP.temp,
  F.MGT_TEMP.temp_max, F.MGT_TEMP.valid, F.MGT_PD.mv, F.MGT_PD.ma,
  F.MGT_PD.pd_valid, F.MGT_LOG_STAT.evt_seq, F.MGT_LOG_STAT.evt_count, F.MGT_LOG_STAT.svc_evt,
  F.MGT_LOG_STAT.nvm_err, F.MGT_UPD.pldm_state, F.MGT_UPD.comp_id, F.MGT_UPD.pldm_status,
  F.MGT_UPD.act_pend, F.MGT_PROT.clamp_act, F.MGT_PROT.clamp_cause, F.MGT_PROT.clamp_evt,
  F.MGT_PROT.conv_fault, F.MGT_PROT.trip_cause, F.MGT_PROT.trip_point, F.MGT_PROT.p_eff_w,
  F.MGT_PROT.clamp_cnt]

/-- Every register field of the device. -/
def regTable : List Field :=
  fieldsTIME0 ++ fieldsTIME1 ++ fieldsTICK0 ++ fieldsMSF0 ++ fieldsSPR0 ++
  fieldsSPR1 ++ fieldsMEM0 ++ fieldsNOC0 ++ fieldsFH0 ++ fieldsFH1 ++
  fieldsDFE0 ++ fieldsSRV0 ++ fieldsKV0 ++ fieldsFAB0 ++ fieldsFAB1 ++
  fieldsHOST0 ++ fieldsHOST1 ++ fieldsFW0 ++ fieldsRST0 ++ fieldsRST1 ++
  fieldsSEC0 ++ fieldsMGT0

end Sys2Proof.Machine
end

