-- ==== Sys2Proof/Machine/Ops.lean ====
section
/-! DEFINITION. The named operations over registers, memory, host memory, the event log and the outputs: the only
places where `regs`, `mem`, `hostMem`, `out` and `free` are written. -/

namespace Sys2Proof.Machine

/-! ## Status codes (R398) -/

namespace St
def ok := 0x0000
def badCommand := 0x0001
def staleToken := 0x0002
def busy := 0x0003
def notSupported := 0x0004
def badHandle := 0x0005
def cancelled := 0x0006
def empty := 0x0007
def badSlice := 0x0008
def badCookie := 0x0009
def version := 0x000A
def imageInvalid := 0x000B
def hostDma := 0x000C
def modelUnknown := 0x0100
def tooLong := 0x0101
def pageExhausted := 0x0102
def tileUnfit := 0x0103
def descInvalid := 0x0104
def spurFault := 0x0105
def resetAbort := 0x0106
def modelInvalid := 0x0107
def noSpace := 0x0108
def addrUnmapped := 0x0200
def regionFault := 0x0201
def memUncorrectable := 0x0202
def fabUnreachable := 0x0300
def fabTimeout := 0x0301
def slotLate := 0x0400
def slotMissed := 0x0401
def fhDown := 0x0402
def cellUnfit := 0x0403
def cellUnknown := 0x0404
def deltaInvalid := 0x0500
def deltaFull := 0x0501
def deltaUnknown := 0x0502
def pinned := 0x0503
def deltaRetired := 0x0504
end St

/-! ## Register fields -/

/-- Key of instance `i` of a field in the register map: its bit address. -/
def Field.key (f : Field) (i : Nat) : Nat := 8 * (f.base + f.stride * i) + f.lo

/-- Reset value of instance `i` (TICK.BANK_BASE[p] alone depends on its index, R95). -/
def Field.resetAt (f : Field) (i : Nat) : Nat :=
  if f.base = F.TICK_BANK_BASE.base.base then f.reset + i * 0x200000 else f.reset

/-- Value of a field. -/
def Field.get (f : Field) (m : KMap Nat) (i : Nat) : Nat := kget m (f.key i) (f.resetAt i)

/-- Write a field: its bits of the value, nothing listed where that is the reset value. -/
def Field.set (f : Field) (m : KMap Nat) (v i : Nat) : KMap Nat :=
  if v % 2 ^ f.width = f.resetAt i then kdel m (f.key i) else kset m (f.key i) (v % 2 ^ f.width)

/-- Read field `f` of instance `i`. -/
def State.rd (s : State) (f : Field) (i : Nat := 0) : Nat := f.get s.regs i

/-- Write field `f` of instance `i`. -/
def State.put (s : State) (f : Field) (v : Nat) (i : Nat := 0) : State := s.withRegs (f.set s.regs v i)

/-- A field of one bit, or "not 0". -/
def State.on (s : State) (f : Field) (i : Nat := 0) : Bool := s.rd f i != 0

/-- A field as a signed number. -/
def State.rdS (s : State) (f : Field) (i : Nat := 0) : Int := toSigned f.width (s.rd f i)

/-- Write a field as a signed number. -/
def State.putS (s : State) (f : Field) (v : Int) (i : Nat := 0) : State := s.put f (ofSigned f.width v) i

/-- Add `k` to a saturating counter ("every counter saturates"). -/
def State.bump (s : State) (f : Field) (i : Nat := 0) (k : Nat := 1) : State :=
  s.put f (satAdd f.width (s.rd f i) k) i

/-- Write a field for a list of instances. -/
def State.putAll (s : State) (f : Field) (v : Nat) (is : List Nat) : State := is.foldl (fun s i => s.put f v i) s

/-- OR a bit mask into a field. -/
def State.orf (s : State) (f : Field) (m : Nat) (i : Nat := 0) : State := s.put f (s.rd f i ||| m) i

/-- The shadow value of a staged field (R80): the written one, else the committed one. -/
def State.shadow (s : State) (f : Field) (i : Nat := 0) : Nat := kget s.staged (f.key i) (s.rd f i)

/-- A staged write waits (R81). -/
def State.isStaged (s : State) (f : Field) (i : Nat := 0) : Bool := (kfind s.staged (f.key i)).isSome

/-- Partition of the cell that a DFE chain serves (R261). -/
def State.chainPart (s : State) (d : Nat) : Option Nat :=
  ((List.range 4096).find? fun k =>
    s.on F.FH_STREAM.valid k && s.on F.FH_STREAM.split8 k && s.rd F.FH_STREAM.chain k == d).bind fun k =>
      (kfind s.cells (s.rd F.FH_STREAM.cell_id k)).map (·.part)

/-- Partition of a staged register, from its bit address: TICK, SPR, group buffers, MEM.SP_RSV, and the freeze pair of a chain, which
belongs to the partition of the chain's cell (DESIGN CHOICE, log 96). -/
def State.stagedPart (s : State) (k : Nat) : Option Nat :=
  let a := k / 8
  if 0x700020 ≤ a ∧ a < 0x704020 then s.chainPart ((a - 0x700020) / 256) else
  if 0x200000 ≤ a ∧ a < 0x200800 then some ((a - 0x200000) / 256)
  else if 0x401000 ≤ a ∧ a < 0x409000 then some ((a - 0x401000) / 4096)
  else if 0x409000 ≤ a ∧ a < 0x419000 then some ((a - 0x409000) / 8192)
  else if 0x501000 ≤ a ∧ a < 0x501400 then some ((a - 0x501000) / 128)
  else none

/-- Show whether a staged write of partition `p` waits (R95). -/
def State.showStaged (s : State) (p : Nat) : State :=
  s.put F.TICK_STAT.stage_pending (b2n (s.staged.any fun c => s.stagedPart c.1 == some p)) p

/-- The bits that show a staged write as pending (R95, R189, R296). -/
def State.pendBits (s : State) (f : Field) (i : Nat) : State :=
  let s := match s.stagedPart (f.key i) with
    | some p => s.put F.TICK_STAT.stage_pending 1 p
    | none => s
  if f.base = F.SPR_GCB_BASE.gcb_base.base ∨ f.base = F.SPR_GCB_LEN.gcb_len.base then
    s.put F.SPR_DSP_STAT.gcb_pending (s.rd F.SPR_DSP_STAT.gcb_pending (i / 4) ||| 2 ^ (i % 4)) (i / 4)
  else if f.base = F.SRV_SHP.rate.base then s.put F.SRV_SCNT.shp_pend 1 i
  else s

/-- Write a staged field's shadow register (R80). -/
def State.stage (s : State) (f : Field) (v : Nat) (i : Nat := 0) : State :=
  (s.withStaged (kset s.staged (f.key i) (v % 2 ^ f.width))).pendBits f i

/-- Hold a value inside a field's limits. -/
def Field.limit (f : Field) (v : Nat) : Nat :=
  match f.clamp with
  | none => v
  | some (lo, hi) => max lo (min hi v)

/-- Commit one staged field: the shadow value, clamped, becomes the committed value (R80). -/
def State.commit (s : State) (f : Field) (i : Nat := 0) : State :=
  match kfind s.staged (f.key i) with
  | none => s
  | some v => (s.put f (f.limit v) i).withStaged (kdel s.staged (f.key i))

/-! ## Time -/

/-- Absolute device time in ns (R44). -/
def State.nowNs (s : State) : Nat := s.time.sec * 1000000000 + s.time.ns

/-- Compare time (R46). -/
def State.compare (s : State) : Nat := (s.nowNs * 65536 + s.time.frac / 4) % 2 ^ 64

/-- `tick_count` of an instant (R64). -/
def tickOf (sec ns : Nat) : Int := ((sec : Int) - 315964819) * 8000 + ((ns / 125000 : Nat) : Int)

/-- `tick_count` of the present instant. -/
def State.tickNow (s : State) : Int := tickOf s.time.sec s.time.ns

/-- `frame_offset` (R64). -/
def State.frameOff (s : State) : Int := (s.rd F.TIME_FRAME.frame_offset : Nat)

/-- `tick_in_frame` and SFN of a tick count (R64). -/
def State.tickInFrame (s : State) (t : Int) : Nat := ((t - s.frameOff) % 80).toNat
def State.sfnOf (s : State) (t : Int) : Nat := ((t - s.frameOff) / 80 % 1024).toNat

/-- A tick count starts a frame. -/
def State.frameStart (s : State) (t : Int) : Bool := s.tickInFrame t == 0

/-- The first frame boundary after tick `t`. -/
def State.nextFrame (s : State) (t : Int) : Int := t + (80 - (s.tickInFrame t : Int))

/-- The present instant lies in the Col window of the tick that runs (R65, R69). -/
def State.inCol (s : State) : Bool := s.time.edges && !s.time.cut && s.time.ns % 125000 < 2000

/-- What takes effect at a step boundary takes effect in the Col window (R28). -/
def State.atBoundary (s : State) (f : State → State) : State := if s.inCol then f s else s

/-- Device time of an absolute nanosecond: seconds are 48 bits wide (R44). -/
def State.setNowNs (s : State) (n : Nat) : State :=
  s.withTime { s.time with sec := n / 1000000000 % 2 ^ 48, ns := n % 1000000000, frac := 0, rem := 0 }

/-- Move the clock to `ns` after the last tick boundary, never backward: a command that carries an instant happens at that
instant. Once tick edges have begun it lies inside the present tick. -/
def State.atNs (s : State) (ns : Nat) : State :=
  let t := s.nowNs / 125000 * 125000 + (if s.time.edges then min ns 124999 else ns)
  if t ≤ s.nowNs then s else s.setNowNs t

/-! ## Memory -/

namespace Memory

/-- What an unlisted address reads as: on-die SRAM is zeroed at start-up (R441); DRAM is a design choice of the model. -/
def fill : Byte := 0

/-- The canonical form: addresses rise strictly, and no entry equals what an unlisted address reads as. -/
def wf (m : List Host.Cell) : Bool := kwf m && m.all fun c => c.2 != fill

/-- One byte. -/
def byte (m : List Host.Cell) (a : Nat) : Byte := kget m a fill

/-- Write one byte, keeping the canonical form. -/
def setByte (m : List Host.Cell) (a : Nat) (b : Byte) : List Host.Cell := if b = fill then kdel m a else kset m a b

/-- `n` bytes from `a`. -/
def read (m : List Host.Cell) (a : Nat) : Nat → List Byte
  | 0 => []
  | n + 1 => byte m a :: read m (a + 1) n

/-- Write a list of bytes from `a`. -/
def write (m : List Host.Cell) (a : Nat) : List Byte → List Host.Cell
  | [] => m
  | b :: bs => write (setByte m a b) (a + 1) bs

/-- Little-endian value of `n` bytes (R13). -/
def readLE (m : List Host.Cell) (a n : Nat) : Nat := leVal (read m a n)

end Memory

/-- Read `n` bytes of device memory. -/
def State.memRd (s : State) (a n : Nat) : List Byte := Memory.read s.mem a n

/-- Value of `n` little-endian bytes of device memory. -/
def State.memLE (s : State) (a n : Nat) : Nat := Memory.readLE s.mem a n

/-- Write bytes of device memory. -/
def State.memWr (s : State) (a : Nat) (bs : List Byte) : State := s.withMem (Memory.write s.mem a bs)
/-- Write bytes of on-die SRAM: a poisoned word that is written as a whole is clean again (R195). -/
def State.sramWr (s : State) (a : Nat) (bs : List Byte) : State :=
  (s.memWr a bs).withPoison (s.poison.filter fun w => !(a ≤ 32 * w && 32 * w + 32 ≤ a + bs.length))
/-- Keep the device memory whose address passes `p`; every other byte goes back to 0. -/
def State.memKeep (s : State) (p : Nat → Bool) : State := s.withMem (s.mem.filter fun c => p c.1)
/-- Keep the poison of the 32-byte words whose address passes `p`. -/
def State.poisonKeep (s : State) (p : Nat → Bool) : State := s.withPoison (s.poison.filter fun w => p (w * 32))

/-- Place of a host address: each PASID is an address space of its own, and space 0 is that of DMA without one (R380). -/
def hostPlace (a sp : Nat) : Nat := sp * 2 ^ 64 + a % 2 ^ 64

/-- Host memory that a DMA reaches: the range ends in its space, and no byte of it lies in a range whose DMA fails. -/
def State.hostOk (s : State) (a n : Nat) (sp : Nat := 0) : Bool :=
  a % 2 ^ 64 + n ≤ 2 ^ 64 && s.hostBad.all fun r => r.2 ≤ hostPlace a sp || hostPlace a sp + n ≤ r.1

/-- Read host memory by DMA; nothing where the DMA fails. -/
def State.hostRd (s : State) (a n : Nat) (sp : Nat := 0) : Option (List Byte) :=
  if s.hostOk a n sp then some (Memory.read s.hostMem (hostPlace a sp) n) else none

/-! ## Outputs and free values -/

/-- Record something that leaves the device. -/
def State.emit (s : State) (o : Out) : State := s.withOut (o :: s.out)

/-- Write host memory by DMA; nothing where the DMA fails. -/
def State.hostWr (s : State) (a : Nat) (bs : List Byte) (sp : Nat := 0) : Option State :=
  if s.hostOk a bs.length sp then
    some ((s.withHostMem (Memory.write s.hostMem (hostPlace a sp) bs)).emit (.hostWrite sp a bs))
  else none

/-- The free value that the next draw takes. -/
def State.fresh (s : State) (k : Config.Kind) : Nat := Config.free k s.free

/-- The state after a draw. -/
def State.drawn (s : State) : State := s.withFree (s.free + 1)

/-! ## The event log (R417, R489, R490) -/

/-- Processor `i` runs (R430); one that the debug port halts counts as down (R484). -/
def State.procUp (s : State) (i : Nat) : Bool :=
  s.rd F.FW_PROC_STAT.pstate i == 0 && !((kfind s.procs i).any (·.dbgHalt))

/-- Processor numbers (R413): Cairn, TC, FC, PCp. -/
def cairn := 0
def tc := 1
def fc := 2
def pc (p : Nat) := 3 + p

/-- The card's fault contact FAULT_N is driven (R420, R490, R505). -/
def State.faultN (s : State) : Bool := s.mgt.fault || s.on F.MGT_LOG_STAT.svc_evt || s.rd F.FW_GSTAT.held != 0

/-- The fault contact follows a change from `o` to `s`: contact 0, active low. -/
def State.showFault (s o : State) : State :=
  if s.faultN = o.faultN then s else s.emit (.pinOut 0 (if s.faultN then 0 else 1))

/-- Write one record into the RAM window and queue it for the NOR log (R489). -/
def State.writeRec (s : State) (r : EvRec) : State :=
  let r := { r with seq := s.rd F.MGT_LOG_STAT.evt_seq }
  let m := { s.mgt with window := (r :: s.mgt.window).take 1024, norQueue := s.mgt.norQueue ++ [r] }
  let s := s.withMgt m
  let s := s.put F.MGT_LOG_STAT.evt_count (min 1024 (s.mgt.window.length))
  let s := s.put F.MGT_LOG_STAT.evt_seq (s.rd F.MGT_LOG_STAT.evt_seq + 1)
  if r.sev = 0 then (s.put F.MGT_LOG_STAT.svc_evt 1).showFault s else s

/-- Event `k` of the model's list, of class `cls` and severity `sev`, with its data: written by Cairn, or queued in the
restart controller while Cairn is down (R417). -/
def State.event (s : State) (cls sev k data : Nat) (src : Nat := 0) : State :=
  let r : EvRec := { seq := 0, boot := s.bring.boots % 65536, cls := cls, sev := sev, sec := s.time.sec, ns := s.time.ns,
                     tstate := s.rd F.TIME_STAT.state, src := src, data := data,
                     code := cls % 16 * 256 + Config.eventCode k % 256 }
  if s.procUp cairn then s.writeRec r
  else if s.mgt.cairnQueue.length < 256 then
    s.withMgt { s.mgt with cairnQueue := s.mgt.cairnQueue ++ [r] }
  else s.bump F.FW_GSTAT.log_lost

/-- A service event (R490). -/
def State.service (s : State) (cls k data : Nat) (src : Nat := 0) : State := s.event cls 0 k data src

/-! ## Lists of units -/

/-- Insert by ascending key, after equal ones; and sort a list so. -/
def insertBy {α : Type} (key : α → Int) (x : α) : List α → List α
  | [] => [x]
  | y :: ys => if key x < key y then x :: y :: ys else y :: insertBy key x ys
def sortBy {α : Type} (key : α → Int) (xs : List α) : List α := xs.foldl (fun acc x => insertBy key x acc) []

/-- The numbers `a, a + 1, …` of `n` units. -/
def span (a n : Nat) : List Nat := (List.range n).map (a + ·)

/-- Apply a family of changes for each number of a list. -/
def State.each (s : State) (is : List Nat) (f : State → Nat → State) : State := is.foldl f s

/-- Apply a change when a condition holds. -/
def State.onlyIf (s : State) (c : Bool) (f : State → State) : State := if c then f s else s

end Sys2Proof.Machine
end

