-- ==== Sys2Proof/Machine/Crypto.lean ====
section
/-! DEFINITION. The cryptographic functions that the manual names (R204, R406, R464–R468, R477): SHA-512 and HMAC (FIPS 180-4, FIPS 198-1),
the key derivation KDF, AES-256 (FIPS 197) in XTS mode (IEEE 1619) and in GCM mode (SP 800-38D). -/

namespace Sys2Proof.Machine

/-! ## Bytes -/

/-- Value of big-endian bytes, and the `n` bytes of a value. -/
def beVal (bs : List Byte) : Nat := bs.foldl (fun a b => 256 * a + b.toNat) 0
def beBytes (n v : Nat) : List Byte := (leBytes n v).reverse

/-- Cut a list into pieces of `n`; the last may be shorter. -/
def chunksOf {α : Type} (n : Nat) (xs : List α) : List (List α) :=
  (List.range (ceilDiv xs.length n)).map fun i => (xs.drop (n * i)).take n

/-! ## SHA-512 -/

/-- Initial hash value: square roots of the first eight primes. -/
def shaInit : List Nat := [
  0x6a09e667f3bcc908, 0xbb67ae8584caa73b, 0x3c6ef372fe94f82b, 0xa54ff53a5f1d36f1,
  0x510e527fade682d1, 0x9b05688c2b3e6c1f, 0x1f83d9abfb41bd6b, 0x5be0cd19137e2179]

/-- Round constants: cube roots of the first eighty primes. -/
def shaKlo : List Nat := [
  0x428a2f98d728ae22, 0x7137449123ef65cd, 0xb5c0fbcfec4d3b2f, 0xe9b5dba58189dbbc,
  0x3956c25bf348b538, 0x59f111f1b605d019, 0x923f82a4af194f9b, 0xab1c5ed5da6d8118,
  0xd807aa98a3030242, 0x12835b0145706fbe, 0x243185be4ee4b28c, 0x550c7dc3d5ffb4e2,
  0x72be5d74f27b896f, 0x80deb1fe3b1696b1, 0x9bdc06a725c71235, 0xc19bf174cf692694,
  0xe49b69c19ef14ad2, 0xefbe4786384f25e3, 0x0fc19dc68b8cd5b5, 0x240ca1cc77ac9c65,
  0x2de92c6f592b0275, 0x4a7484aa6ea6e483, 0x5cb0a9dcbd41fbd4, 0x76f988da831153b5,
  0x983e5152ee66dfab, 0xa831c66d2db43210, 0xb00327c898fb213f, 0xbf597fc7beef0ee4,
  0xc6e00bf33da88fc2, 0xd5a79147930aa725, 0x06ca6351e003826f, 0x142929670a0e6e70,
  0x27b70a8546d22ffc, 0x2e1b21385c26c926, 0x4d2c6dfc5ac42aed, 0x53380d139d95b3df,
  0x650a73548baf63de, 0x766a0abb3c77b2a8, 0x81c2c92e47edaee6, 0x92722c851482353b]
def shaKhi : List Nat := [
  0xa2bfe8a14cf10364, 0xa81a664bbc423001, 0xc24b8b70d0f89791, 0xc76c51a30654be30,
  0xd192e819d6ef5218, 0xd69906245565a910, 0xf40e35855771202a, 0x106aa07032bbd1b8,
  0x19a4c116b8d2d0c8, 0x1e376c085141ab53, 0x2748774cdf8eeb99, 0x34b0bcb5e19b48a8,
  0x391c0cb3c5c95a63, 0x4ed8aa4ae3418acb, 0x5b9cca4f7763e373, 0x682e6ff3d6b2b8a3,
  0x748f82ee5defb2fc, 0x78a5636f43172f60, 0x84c87814a1f0ab72, 0x8cc702081a6439ec,
  0x90befffa23631e28, 0xa4506cebde82bde9, 0xbef9a3f7b2c67915, 0xc67178f2e372532b,
  0xca273eceea26619c, 0xd186b8c721c0c207, 0xeada7dd6cde0eb1e, 0xf57d4f7fee6ed178,
  0x06f067aa72176fba, 0x0a637dc5a2c898a6, 0x113f9804bef90dae, 0x1b710b35131c471b,
  0x28db77f523047d84, 0x32caab7b40c72493, 0x3c9ebe0a15c9bebc, 0x431d67c49c100d4c,
  0x4cc5d4becb3e42b6, 0x597f299cfc657e2a, 0x5fcb6fab3ad6faec, 0x6c44198c4a475817]

/-- A 64-bit word rotated right. -/
def rotr64 (x n : Nat) : Nat := (x >>> n ||| x <<< (64 - n)) % 2 ^ 64

/-- The message schedule, newest word first, with `n` more words. -/
def shaExpand : Nat → List Nat → List Nat
  | 0, w => w
  | n + 1, w =>
    let a := w.getD 1 0
    let b := w.getD 14 0
    let s1 := rotr64 a 19 ^^^ rotr64 a 61 ^^^ a >>> 6
    let s0 := rotr64 b 1 ^^^ rotr64 b 8 ^^^ b >>> 7
    shaExpand n ((s1 + w.getD 6 0 + s0 + w.getD 15 0) % 2 ^ 64 :: w)

/-- The eight working variables. -/
structure Sha where
  a : Nat
  b : Nat
  c : Nat
  d : Nat
  e : Nat
  f : Nat
  g : Nat
  h : Nat
  deriving DecidableEq, Repr

/-- One round with constant and schedule word `kw`. -/
def shaRound (v : Sha) (kw : Nat) : Sha :=
  let s1 := rotr64 v.e 14 ^^^ rotr64 v.e 18 ^^^ rotr64 v.e 41
  let ch := (v.e &&& v.f) ^^^ ((2 ^ 64 - 1 - v.e) &&& v.g)
  let t1 := v.h + s1 + ch + kw
  let s0 := rotr64 v.a 28 ^^^ rotr64 v.a 34 ^^^ rotr64 v.a 39
  let mj := (v.a &&& v.b) ^^^ (v.a &&& v.c) ^^^ (v.b &&& v.c)
  { a := (t1 + s0 + mj) % 2 ^ 64, b := v.a, c := v.b, d := v.c, e := (v.d + t1) % 2 ^ 64, f := v.e, g := v.f, h := v.g }

def Sha.ofList (h : List Nat) : Sha :=
  { a := h.getD 0 0, b := h.getD 1 0, c := h.getD 2 0, d := h.getD 3 0, e := h.getD 4 0, f := h.getD 5 0, g := h.getD 6 0, h := h.getD 7 0 }
def Sha.toList (v : Sha) : List Nat := [v.a, v.b, v.c, v.d, v.e, v.f, v.g, v.h]

/-- One block of 128 bytes. -/
def shaBlock (h : List Nat) (block : List Byte) : List Nat :=
  let w := (shaExpand 64 ((chunksOf 8 block).map beVal).reverse).reverse
  let v := (List.zip (shaKlo ++ shaKhi) w).foldl (fun v x => shaRound v (x.1 + x.2)) (Sha.ofList h)
  List.zipWith (fun x y => (x + y) % 2 ^ 64) h v.toList

/-- SHA-512 of a byte string. -/
def sha512 (m : List Byte) : List Byte :=
  let pad := 0x80#8 :: List.replicate ((239 - m.length % 128) % 128) 0#8 ++ beBytes 16 (8 * m.length)
  ((chunksOf 128 (m ++ pad)).foldl shaBlock shaInit).flatMap (beBytes 8)

/-- A digest as the model keeps it: the number of its 64 bytes, the first one lowest, so that its first bits are the low ones. -/
def digestOf (m : List Byte) : Nat := leVal (sha512 m)

/-! ## HMAC and the key derivation (R464) -/

/-- HMAC-SHA-512. -/
def hmacSha512 (key m : List Byte) : List Byte :=
  let k := if 128 < key.length then sha512 key else key
  let k := k ++ List.replicate (128 - k.length) 0#8
  sha512 (k.map (· ^^^ 0x5C#8) ++ sha512 (k.map (· ^^^ 0x36#8) ++ m))

/-- KDF(K, label, ctx, n). -/
def kdf (key : List Byte) (label : String) (ctx : List Byte) (n : Nat) : List Byte :=
  (hmacSha512 key (label.toList.map (fun c => BitVec.ofNat 8 c.toNat) ++ 0#8 :: ctx ++ leBytes 2 n)).take n

/-! ## AES-256 -/

/-- The S-box, sixteen values a row. -/
def aesRows : List Nat := [
  0x637c777bf26b6fc53001672bfed7ab76, 0xca82c97dfa5947f0add4a2af9ca472c0,
  0xb7fd9326363ff7cc34a5e5f171d83115, 0x04c723c31896059a071280e2eb27b275,
  0x09832c1a1b6e5aa0523bd6b329e32f84, 0x53d100ed20fcb15b6acbbe394a4c58cf,
  0xd0efaafb434d338545f9027f503c9fa8, 0x51a3408f929d38f5bcb6da2110fff3d2,
  0xcd0c13ec5f974417c4a77e3d645d1973, 0x60814fdc222a908846eeb814de5e0bdb,
  0xe0323a0a4906245cc2d3ac629195e479, 0xe7c8376d8dd54ea96c56f4ea657aae08,
  0xba78252e1ca6b4c6e8dd741f4bbd8b8a, 0x703eb5664803f60e613557b986c11d9e,
  0xe1f8981169d98e949b1e87e9ce5528df, 0x8ca1890dbfe6426841992d0fb054bb16]
def aesSub (x : Nat) : Nat := aesRows.getD (x / 16) 0 >>> (8 * (15 - x % 16)) % 256

/-- Multiply by x in the field of AES. -/
def aesX (b : Nat) : Nat := if b < 128 then 2 * b else (2 * b) ^^^ 0x11B

/-- The next word of the key schedule, from the words so far, newest first: the `i`-th word of an eight-word key. -/
def aesNext (i : Nat) (ws : List (List Nat)) : List Nat :=
  let t := ws.headD []
  let t := if i % 8 = 0 then
      (match ((t.drop 1) ++ t.take 1).map aesSub with
        | [] => []
        | x :: xs => (x ^^^ 2 ^ (i / 8 - 1)) :: xs)
    else if i % 8 = 4 then t.map aesSub
    else t
  List.zipWith (· ^^^ ·) (ws.getD 7 []) t
def aesSchedule : Nat → Nat → List (List Nat) → List (List Nat)
  | 0, _, ws => ws
  | n + 1, i, ws => aesSchedule n (i + 1) (aesNext i ws :: ws)

/-- The fifteen round keys of a 32-byte key, of sixteen bytes each. -/
def aesKeys (key : List Byte) : List (List Nat) :=
  (chunksOf 4 (aesSchedule 52 8 ((chunksOf 4 (key.map BitVec.toNat)).reverse)).reverse).map List.flatten

/-- SubBytes and ShiftRows: byte r of column c comes from column c + r. -/
def aesShift (b : List Nat) : List Nat :=
  (List.range 16).map fun i => aesSub (b.getD ((i / 4 + i % 4) % 4 * 4 + i % 4) 0)

/-- MixColumns. -/
def aesMix (b : List Nat) : List Nat :=
  (List.range 16).map fun i =>
    let x (k : Nat) : Nat := b.getD (i / 4 * 4 + (i + k) % 4) 0
    aesX (x 0) ^^^ aesX (x 1) ^^^ x 1 ^^^ x 2 ^^^ x 3

/-- The rounds after the first key addition; the last one mixes no columns. -/
def aesRounds : List (List Nat) → List Nat → List Nat
  | [], b => b
  | [k], b => List.zipWith (· ^^^ ·) (aesShift b) k
  | k :: ks, b => aesRounds ks (List.zipWith (· ^^^ ·) (aesMix (aesShift b)) k)

/-- AES-256 of one block under its round keys. -/
def aesBlock (keys : List (List Nat)) (b : List Nat) : List Nat := aesRounds (keys.drop 1) (List.zipWith (· ^^^ ·) b (keys.headD []))

/-- Sixteen bytes of a number, lowest first, and back. -/
def bytes16 (v : Nat) : List Nat := (List.range 16).map fun i => v >>> (8 * i) % 256
def num16 (b : List Nat) : Nat := b.foldr (fun x a => x + 256 * a) 0

/-! ## XTS (R204) -/

/-- Multiply a tweak by α. -/
def xtsAlpha (t : Nat) : Nat := (2 * t % 2 ^ 128) ^^^ (if 2 ^ 127 ≤ t then 0x87 else 0)

/-- Block `j` of a data unit with tweak value `tw` under a 64-byte key (R465: data key, then tweak key). -/
def xtsBlock (key : List Byte) (tw j : Nat) (plain : List Byte) : List Byte :=
  let t := (List.range j).foldl (fun t _ => xtsAlpha t) (num16 (aesBlock (aesKeys (key.drop 32)) (bytes16 tw)))
  let c := aesBlock (aesKeys (key.take 32)) (List.zipWith (· ^^^ ·) (plain.map BitVec.toNat) (bytes16 t))
  (List.zipWith (· ^^^ ·) c (bytes16 t)).map (BitVec.ofNat 8)

/-! ## GCM (R369, R406) -/

/-- Product in the field of GHASH, bits counted from the most significant. -/
def gcmMul (x y : Nat) : Nat :=
  ((List.range 128).foldl (fun (a : Nat × Nat) i =>
    (if x >>> (127 - i) % 2 = 1 then a.1 ^^^ a.2 else a.1, (a.2 >>> 1) ^^^ (if a.2 % 2 = 1 then 0xE1 <<< 120 else 0))) (0, y)).1

/-- GHASH of blocks under a hash key. -/
def ghash (h : Nat) (bs : List Nat) : Nat := bs.foldl (fun y b => gcmMul (y ^^^ b) h) 0

/-- Big-endian blocks of a byte string, padded with zeros. -/
def gcmBlocks (bs : List Byte) : List Nat := (chunksOf 16 bs).map fun b => beVal (b ++ List.replicate (16 - b.length) 0#8)

/-- Key stream block `ctr` under a 12-byte IV. -/
def gcmStream (ks : List (List Nat)) (iv : List Byte) (ctr : Nat) : List Byte :=
  (aesBlock ks ((iv ++ beBytes 4 ctr).map BitVec.toNat)).map (BitVec.ofNat 8)

/-- The 16-byte tag of a ciphertext. -/
def gcmTag (key iv aad c : List Byte) : List Byte :=
  let ks := aesKeys key
  let h := beVal ((aesBlock ks (List.replicate 16 0)).map (BitVec.ofNat 8))
  let y := ghash h (gcmBlocks aad ++ gcmBlocks c ++ [8 * aad.length * 2 ^ 64 + 8 * c.length])
  beBytes 16 (y ^^^ beVal (gcmStream ks iv 1))

/-- AES-256-GCM: ciphertext, then its tag. -/
def gcmSeal (key iv aad plain : List Byte) : List Byte :=
  let ks := aesKeys key
  let c := (List.zipWith (fun i b => List.zipWith (· ^^^ ·) b (gcmStream ks iv (i + 2)))
    (List.range (ceilDiv plain.length 16)) (chunksOf 16 plain)).flatten
  c ++ gcmTag key iv aad c

end Sys2Proof.Machine
end

