-- ==== Sys2Proof/Machine/Formats.lean ====
section
/-! DEFINITION. Number formats and conversion (R127–R146): exact values, the element encodings, block scales, the load
and store paths, and the fronthaul block floating point. -/

namespace Sys2Proof.Machine

/-- A value: `(−1)^neg · mag · 2^exp`, an infinity, or NaN. -/
inductive Num where
  | nan
  | inf (neg : Bool)
  | fin (neg : Bool) (mag : Nat) (exp : Int)
  deriving DecidableEq, Repr

/-- Rounding: to nearest with ties to even, or toward zero. -/
inductive Rnd where
  | rne
  | rtz
  deriving DecidableEq, Repr

def rndOf (b : Bool) : Rnd := if b then .rtz else .rne

/-- `mag · 2^sh` rounded to an integer, and whether it was exact. -/
def shiftRound (r : Rnd) (mag : Nat) (sh : Int) : Nat × Bool :=
  if 0 ≤ sh then (mag * 2 ^ sh.toNat, true)
  else
    let d := 2 ^ (-sh).toNat
    let q := mag / d
    let rem := mag % d
    let up := r = .rne ∧ (2 * rem > d ∨ (2 * rem = d ∧ q % 2 = 1))
    (if up then q + 1 else q, rem == 0)

/-- A floating-point element format (R128): exponent and mantissa bits, bias, and which codes are special: 0 none,
1 E4M3 (one NaN), 2 as IEEE 754. -/
structure FltFmt where
  eb : Nat
  mb : Nat
  bias : Int
  special : Nat
  deriving DecidableEq, Repr

def fltFmt : Nat → Option FltFmt
  | 0 => some ⟨2, 1, 1, 0⟩
  | 1 => some ⟨2, 3, 1, 0⟩
  | 2 => some ⟨3, 2, 3, 0⟩
  | 3 => some ⟨4, 3, 7, 1⟩
  | 4 => some ⟨5, 2, 15, 2⟩
  | 5 => some ⟨8, 7, 127, 2⟩
  | 6 => some ⟨5, 10, 15, 2⟩
  | 7 => some ⟨8, 23, 127, 2⟩
  | _ => none

/-- Width of an element in bits (R128, R129); 0 for codes that have none. -/
def fmtBits : Nat → Nat
  | 0 => 4 | 1 => 6 | 2 => 6 | 3 => 8 | 4 => 8 | 5 => 16 | 6 => 16 | 7 => 32
  | 8 => 4 | 9 => 8 | 10 => 32 | 11 => 4 | 12 => 6 | 13 => 6 | 14 => 8 | 15 => 8
  | 16 => 8 | 17 => 32 | 18 => 16 | _ => 0

/-- MX codes (R130). -/
def isMx (f : Nat) : Bool := 11 ≤ f && f ≤ 16
/-- Integer operand codes. -/
def isInt (f : Nat) : Bool := f == 8 || f == 9 || f == 10
/-- The element format of an MX code (R130). -/
def mxElem : Nat → Nat
  | 11 => 0 | 12 => 1 | 13 => 2 | 14 => 3 | 15 => 4 | f => f

/-- Decode a floating-point element. -/
def FltFmt.decode (f : FltFmt) (v : Nat) : Num :=
  let m := v % 2 ^ f.mb
  let e := v / 2 ^ f.mb % 2 ^ f.eb
  let neg := v / 2 ^ (f.mb + f.eb) % 2 == 1
  if f.special = 2 ∧ e = 2 ^ f.eb - 1 then (if m = 0 then .inf neg else .nan)
  else if f.special = 1 ∧ e = 2 ^ f.eb - 1 ∧ m = 2 ^ f.mb - 1 then .nan
  else if e = 0 then .fin neg m (1 - f.bias - f.mb)
  else .fin neg (2 ^ f.mb + m) (e - f.bias - f.mb)

/-- Largest finite code without its sign (R128). -/
def FltFmt.maxCode (f : FltFmt) : Nat :=
  match f.special with
  | 0 => 2 ^ (f.eb + f.mb) - 1
  | 1 => 2 ^ (f.eb + f.mb) - 2
  | _ => (2 ^ f.eb - 2) * 2 ^ f.mb + (2 ^ f.mb - 1)

/-- NaN code (R139): +0 where the format has none. -/
def FltFmt.nanCode (f : FltFmt) : Nat :=
  match f.special with
  | 0 => 0
  | 1 => 2 ^ (f.eb + f.mb) - 1
  | _ => if f.eb = 5 ∧ f.mb = 2 then 0x7F else (2 ^ f.eb - 1) * 2 ^ f.mb + 2 ^ (f.mb - 1)

/-- Magnitude code of a finite magnitude (R139): `none` for an overflow. `flush` writes zero below the smallest normal.
The tests are made on the value rounded with an unbounded exponent range. -/
def FltFmt.encodeMag (f : FltFmt) (r : Rnd) (flush : Bool) (mag : Nat) (exp : Int) : Option Nat :=
  if mag = 0 then some 0
  else
    let lead : Int := exp + Nat.log2 mag
    let n := (shiftRound r mag (exp - (lead - f.mb))).1
    let (n, lead) := if n = 2 ^ (f.mb + 1) then (2 ^ f.mb, lead + 1) else (n, lead)
    if lead < 1 - f.bias then
      if flush then some 0 else some (shiftRound r mag (exp - (1 - f.bias - f.mb))).1
    else
      let code := (lead + f.bias).toNat * 2 ^ f.mb + (n - 2 ^ f.mb)
      if code ≤ f.maxCode then some code else none

/-- Encode a value into a floating-point element by R138 and R139. `flush`: BF16 and FP32 targets of the store path. -/
def FltFmt.encode (f : FltFmt) (r : Rnd) (flush : Bool) (v : Num) : Nat :=
  let sgn (neg : Bool) : Nat := if neg then 2 ^ (f.eb + f.mb) else 0
  let infCode : Nat := if f.special = 2 then (2 ^ f.eb - 1) * 2 ^ f.mb else f.maxCode
  match v with
  | .nan => f.nanCode
  | .inf neg => sgn neg + infCode
  | .fin neg mag exp =>
    match f.encodeMag r flush mag exp with
    | some c => sgn neg + c
    | none =>
      -- E5M2 saturates a finite overflow; BF16, FP16 and FP32 give an infinity when rounding to nearest
      sgn neg + (if r = .rne ∧ f.special = 2 ∧ ¬(f.eb = 5 ∧ f.mb = 2) then infCode else f.maxCode)

/-- An integer as a value. -/
def Num.ofInt (i : Int) (e : Int := 0) : Num := .fin (i < 0) i.natAbs e

/-- A value rounded to an integer and saturated (R139). -/
def Num.toIntSat (r : Rnd) (lo hi : Int) : Num → Int
  | .nan => 0
  | .inf neg => if neg then lo else hi
  | .fin neg mag exp =>
    let n : Int := (shiftRound r mag exp).1
    clampInt lo hi (if neg then -n else n)

/-- Multiply by `2^k`. -/
def Num.scale (v : Num) (k : Int) : Num :=
  match v with
  | .fin n m e => .fin n m (e + k)
  | v => v

def Num.neg : Num → Num
  | .nan => .nan
  | .inf n => .inf !n
  | .fin n m e => .fin (!n) m e

/-- The value is ±0. -/
def Num.isZero : Num → Bool
  | .fin _ 0 _ => true
  | _ => false

/-- Exact product. -/
def Num.mul : Num → Num → Num
  | .nan, _ => .nan
  | _, .nan => .nan
  | .inf a, .inf b => .inf (a != b)
  | .inf a, .fin b m _ => if m = 0 then .nan else .inf (a != b)
  | .fin a m _, .inf b => if m = 0 then .nan else .inf (a != b)
  | .fin a m e, .fin b n f => .fin (a != b) (m * n) (e + f)

/-- Exact sum; an exact zero sum is +0 unless both terms are −0. -/
def Num.add : Num → Num → Num
  | .nan, _ => .nan
  | _, .nan => .nan
  | .inf a, .inf b => if a = b then .inf a else .nan
  | .inf a, .fin _ _ _ => .inf a
  | .fin _ _ _, .inf b => .inf b
  | .fin a m e, .fin b n f =>
    let g := min e f
    let x : Int := m * 2 ^ (e - g).toNat
    let y : Int := n * 2 ^ (f - g).toNat
    let t := (if a then -x else x) + (if b then -y else y)
    if t = 0 then .fin (a && b && m == 0 && n == 0) 0 g else .fin (t < 0) t.natAbs g

/-- Decode one element of a plain or MX element format, without its block scale (R128–R130). -/
def decodeElem (fmt v : Nat) : Num :=
  match fltFmt (mxElem fmt) with
  | some f => f.decode v
  | none =>
    match fmt with
    | 8 => .ofInt (toSigned 4 v)
    | 9 => .ofInt (toSigned 8 v)
    | 10 => .ofInt (toSigned 32 v)
    | 16 => .ofInt (toSigned 8 v) (-6)
    | 18 => if v = 0x7FFF then .inf false else .ofInt (toSigned 16 v)
    | _ => .nan

/-- Store one real element (R138, R139). -/
def encodeElem (fmt : Nat) (r : Rnd) (v : Num) : Nat :=
  match fltFmt (mxElem fmt) with
  | some f => f.encode r (fmt == 5 || fmt == 7) v
  | none =>
    match fmt with
    | 8 => ofSigned 4 (v.toIntSat r (-8) 7)
    | 9 => ofSigned 8 (v.toIntSat r (-128) 127)
    | 10 => ofSigned 32 (v.toIntSat r (-2147483648) 2147483647)
    | 16 => ofSigned 8 ((v.scale 6).toIntSat r (-128) 127)
    | 17 => ofSigned 16 (v.toIntSat r (-32768) 32767)
    | 18 =>
      match v with
      | .nan => 0x7FFF
      | .inf false => 0x7FFF
      | v => ofSigned 16 (v.toIntSat r (-32768) 32766)
    | _ => 0

/-- One whole element converted between format codes by R127, R138, R139. A CI16 element is a pair: to CI16 each part is
converted; from CI16 to a real format the real part is, and a real source gives an imaginary part of 0 (DESIGN CHOICE, log 29). -/
def convertElem (sfmt dfmt : Nat) (r : Rnd) (v : Nat) : Nat :=
  if sfmt = 17 then
    if dfmt = 17 then v % 2 ^ 32 else encodeElem dfmt r (.ofInt (toSigned 16 v))
  else encodeElem dfmt r (decodeElem sfmt v)

/-! ## Packing (R131) -/

/-- A number of `nb` bits at bit offset `off` of a byte list read little-endian. -/
def bitsAt (bs : List Byte) (off nb : Nat) : Nat :=
  leVal ((bs.drop (off / 8)).take ((off % 8 + nb + 7) / 8)) / 2 ^ (off % 8) % 2 ^ nb

/-- Element `i` of a packed row: 4-bit and 6-bit elements are packed densely, others stand whole. -/
def elemAt (fmt : Nat) (bs : List Byte) (i : Nat) : Nat := bitsAt bs (i * fmtBits fmt) (fmtBits fmt)

/-- Bytes that `n` packed elements of `w` bits take; 6-bit elements stand in whole groups of four in three bytes. -/
def packedBytes (w n : Nat) : Nat := if w = 6 then 3 * ceilDiv n 4 else (n * w + 7) / 8

/-- Bytes of a packed row of `n` elements. -/
def rowBytes (fmt n : Nat) : Nat := packedBytes (fmtBits fmt) n

/-- Pack elements of `w` bits into bytes, lowest first. -/
def packElems (w : Nat) (vs : List Nat) : List Byte :=
  leBytes (packedBytes w vs.length) (vs.foldr (fun v acc => v % 2 ^ w + 2 ^ w * acc) 0)

/-! ## Block scales (R130, R140) -/

/-- A value of an MX block: the element times the scale; NaN under scale 0xFF. -/
def mxValue (fmt scale v : Nat) : Num :=
  if scale = 0xFF then .nan else (decodeElem fmt v).scale ((scale : Int) - 127)

/-- Exponent of the largest element of an MX format (R140). -/
def mxEmax : Nat → Int
  | 11 => 2 | 12 => 2 | 13 => 4 | 14 => 8 | 15 => 15 | _ => 0

/-- `a ≤ b` of finite magnitudes. -/
def magLe (a b : Nat × Int) : Bool :=
  let g := min a.2 b.2
  a.1 * 2 ^ (a.2 - g).toNat ≤ b.1 * 2 ^ (b.2 - g).toNat

/-- Form one MX block from entries (R140): its scale byte and its element codes. -/
def mxBlock (fmt : Nat) (r : Rnd) (vs : List Num) : Nat × List Nat :=
  if vs.any fun v => v == .nan then (0xFF, vs.map fun _ => 0)
  else
    let amax := vs.foldl (fun (a : Nat × Int) v => match v with
      | .fin _ m e => if magLe a (m, e) then (m, e) else a
      | _ => a) (0, 0)
    if amax.1 = 0 then
      (0, vs.map fun v => encodeElem fmt r v)
    else
      let x := clampInt (-127) 127 (amax.2 + Nat.log2 amax.1 - mxEmax fmt)
      ((127 + x).toNat, vs.map fun v => encodeElem fmt r (v.scale (-x)))

/-! ## binary32 arithmetic -/

def fp32 : FltFmt := ⟨8, 23, 127, 2⟩

/-- Round to binary32 as the accumulators do (R104): unbounded exponent first, zero below 2^-126, infinity on overflow. -/
def roundAcc (v : Num) : Num := fp32.decode (fp32.encode .rne true v)

/-- Round to binary32 with subnormals kept (IEEE 754-2019, nearest even). -/
def roundIeee (v : Num) : Num := fp32.decode (fp32.encode .rne false v)

/-! ## Block floating point of the fronthaul (R144, R146) -/

/-- An integer shifted right with rounding to nearest, ties to even. -/
def shrRne (v : Int) (sh : Nat) : Int :=
  let d : Int := 2 ^ sh
  let q := v / d
  let rem := v % d
  if 2 * rem > d ∨ (2 * rem = d ∧ q % 2 = 1) then q + 1 else q

/-- An integer fits `w`-bit two's complement. -/
def fitsBits (w : Nat) (v : Int) : Bool := -(2 ^ (w - 1) : Int) ≤ v && v < 2 ^ (w - 1)

/-- Smallest exponent of R144 for components `vs` and width `w`. -/
def bfpExp (w : Nat) (vs : List Int) : Nat :=
  ((List.range 16).find? fun e => vs.all fun v => fitsBits w (v / 2 ^ e)).getD 15

/-- Compress components: exponent and mantissas (R144). -/
def bfpCompress (w : Nat) (vs : List Int) : Nat × List Int :=
  if w = 16 then (0, vs)
  else
    let e := bfpExp w vs
    (e, vs.map fun v => clampInt (-(2 ^ (w - 1))) (2 ^ (w - 1) - 1) (shrRne v e))

/-- Decompress one mantissa (R144). -/
def bfpExpand (e : Nat) (m : Int) : Int := clampInt (-32768) 32767 (m * 2 ^ e)

/-- μ-law code of a component at width `w` under shift `sh` (R145): the magnitude, shifted left, in three segments of 15 bits, under
the sign. The arithmetic is that of the O-RAN document (PRESUMED, log 34: the manual names the document and gives no formula). -/
def muCompress (w sh : Nat) (v : Int) : Nat :=
  let a := min 32767 (v.natAbs * 2 ^ sh)
  let y := if a ≤ 2 ^ 13 then a / 2 ^ (15 - w)
    else if a ≤ 2 ^ 14 then a / 2 ^ (16 - w) + 2 ^ (w - 3)
    else a / 2 ^ (17 - w) + 2 ^ (w - 2)
  min y (2 ^ (w - 1) - 1) + if v < 0 then 2 ^ (w - 1) else 0

/-- The value of a μ-law code (R145; PRESUMED, log 34), in the range of CI16. -/
def muExpand (w sh code : Nat) : Int :=
  let y := code % 2 ^ (w - 1)
  let a := if y ≤ 2 ^ (w - 2) then y * 2 ^ (15 - w)
    else if y ≤ 3 * 2 ^ (w - 3) then (y - 2 ^ (w - 3)) * 2 ^ (16 - w)
    else (y - 2 ^ (w - 2)) * 2 ^ (17 - w)
  let m : Int := ((a / 2 ^ sh : Nat) : Int)
  clampInt (-32768) 32767 (if 2 ^ (w - 1) ≤ code % 2 ^ w then -m else m)

/-- The compShift of a block that is sent: the largest shift that keeps every component in 15 bits (PRESUMED, log 34). -/
def muShift (vs : List Int) : Nat :=
  let m := vs.foldl (fun a v => max a v.natAbs) 0
  ((List.range 16).filter fun k => m * 2 ^ k ≤ 32767).foldl max 0

end Sys2Proof.Machine
end

