-- ==== Sys2Proof/Machine/Massif.lean ====
section
/-! DEFINITION. The Massif engine (R96–R121): the tile descriptor and its check, the arithmetic of the four modes, the
delta merge unit, the cycle count and the retire path. -/

namespace Sys2Proof.Machine

/-! ## Address ranges (R190) -/

def padBase (n : Nat) : Nat := 0xF00000000000 + n * 0x800000
def clSramBase (cl : Nat) : Nat := 0xF10000000000 + cl * 0x800000
def pinnedBase (p : Nat) : Nat := 0xF20000000000 + p * 0x2000000
def tickBankBase (p : Nat) : Nat := 0xFE0000000000 + p * 0x200000

/-- `[a, a + n)` lies in `[base, base + size)`. -/
def within (a n base size : Nat) : Bool := base ≤ a && a + n ≤ base + size
/-- Two ranges share an address. -/
def overlaps (a n b m : Nat) : Bool := n != 0 && m != 0 && a < b + m && b < a + n

/-- Reserved scratchpad region of a logical core (R192): base and length. -/
def State.spRsv (s : State) (n : Nat) : Nat × Nat :=
  (padBase n + s.rd F.MEM_SP_RSV.rsv_off n * 65536, s.rd F.MEM_SP_RSV.rsv_len n * 65536)
/-- The range touches a reserved scratchpad region of any logical core. -/
def State.touchesRsv (s : State) (a n : Nat) : Bool :=
  let c := (a - 0xF00000000000) / 0x800000
  0xF00000000000 ≤ a + n && ([c, c + 1].any fun i => i < 128 && overlaps a n (s.spRsv i).1 (s.spRsv i).2)

/-! ## The tile descriptor (R112) -/

/-- A decoded tile descriptor. -/
structure Tile where
  mode : Nat
  wfmt : Nat
  afmt : Nat
  ofmt : Nat
  bank : Nat
  accInit : Nat
  retire : Bool
  skipZero : Bool
  deltaEn : Bool
  tropAbs : Bool
  conjW : Bool
  rnd : Rnd
  arrays : Nat
  mRows : Nat
  outShift : Nat
  kLen : Nat
  nLen : Nat
  aAddr : Nat
  aStride : Nat
  wAddr : Nat
  cAddr : Nat
  cStride : Nat
  deltaAddr : Nat
  ascaleAddr : Nat
  tag : Nat
  slice : Nat
  /-- A reserved bit is set. -/
  rsv : Bool
  deriving DecidableEq, Repr

/-- Decode eight descriptor words. -/
def decodeTile (d : List Nat) : Tile :=
  let w i := d.getD i 0
  { mode := bits (w 0) 2 0, wfmt := bits (w 0) 7 3, afmt := bits (w 0) 12 8, ofmt := bits (w 0) 17 13,
    bank := bits (w 0) 18 18, accInit := bits (w 0) 20 19, retire := bit (w 0) 21, skipZero := bit (w 0) 22,
    deltaEn := bit (w 0) 23, tropAbs := bit (w 0) 24, conjW := bit (w 0) 25, rnd := rndOf (bit (w 0) 26),
    arrays := bits (w 0) 31 28, mRows := bits (w 0) 44 32, outShift := bits (w 0) 50 45,
    kLen := bits (w 1) 23 0, nLen := bits (w 1) 36 24,
    aAddr := bits (w 2) 47 0, aStride := bits (w 2) 63 48 * 16, wAddr := bits (w 3) 47 0,
    cAddr := bits (w 4) 47 0, cStride := bits (w 4) 63 48 * 16, deltaAddr := bits (w 5) 47 0,
    ascaleAddr := bits (w 6) 47 0, tag := bits (w 7) 31 0, slice := bits (w 7) 43 32,
    rsv := bit (w 0) 27 || bits (w 0) 63 51 != 0 || bits (w 1) 63 37 != 0 || bits (w 3) 63 48 != 0 ||
      bits (w 5) 63 48 != 0 || bits (w 6) 63 48 != 0 || bits (w 7) 63 44 != 0 }

/-- Words of a 64-byte descriptor in memory. -/
def State.descWords (s : State) (a : Nat) : List Nat := (List.range 8).map fun i => s.memLE (a + 8 * i) 8

/-- Both operands are integers (R99). -/
def Tile.intPair (t : Tile) : Bool := isInt t.wfmt && isInt t.afmt

/-- Rate class of a TMAC operand beside the other one (R97, R99): 4, 8 or 16 bits. -/
def rateClass (f : Nat) (otherInt : Bool) : Nat :=
  match f with
  | 0 => 4 | 11 => 4
  | 5 => 16 | 6 => 16
  | 8 => if otherInt then 4 else 8
  | 9 => if otherInt then 8 else 16
  | _ => 8

/-- Rate class of the tile: the wider operand's. -/
def Tile.cls (t : Tile) : Nat := max (rateClass t.wfmt (isInt t.afmt)) (rateClass t.afmt (isInt t.wfmt))

/-- K_w, N_w and entry bytes (R97). -/
def Tile.kw (t : Tile) : Nat :=
  match t.mode with
  | 0 => if t.cls = 4 then 128 else 64
  | 1 => 32
  | _ => 64
def Tile.nw (t : Tile) : Nat :=
  match t.mode with
  | 0 => if t.cls = 16 then 32 else 64
  | 1 => 32
  | _ => 64
def Tile.entryBytes (t : Tile) : Nat :=
  match t.mode with
  | 1 => 16 | 2 => 8 | _ => 4
def Tile.ks (t : Tile) : Nat := ceilDiv t.kLen t.kw
def Tile.ns (t : Tile) : Nat := ceilDiv t.nLen t.nw
/-- The tile has no outputs (R117). -/
def Tile.empty (t : Tile) : Bool := t.mRows == 0 || t.nLen == 0

/-- Enabled arrays in order. -/
def Tile.arr (t : Tile) : List Nat := (List.range 4).filter fun j => bit t.arrays j

/-- Row strides; 0 means packed (R115). -/
def Tile.aRow (t : Tile) : Nat := if t.aStride = 0 then roundUp (rowBytes t.afmt t.kLen) 16 else t.aStride
/-- Bytes of one output row. -/
def Tile.cRowBytes (t : Tile) : Nat :=
  if t.ofmt = 19 then t.nLen * t.entryBytes else rowBytes t.ofmt t.nLen
def Tile.cRow (t : Tile) : Nat := if t.cStride = 0 then roundUp t.cRowBytes 16 else t.cStride
/-- Output rows in all. -/
def Tile.rows (t : Tile) : Nat := t.arr.length * t.mRows
/-- Scale row sizes (R132, R141). -/
def Tile.asr (t : Tile) : Nat := roundUp (ceilDiv t.kLen 32) 16
def Tile.csr (t : Tile) : Nat := roundUp (ceilDiv t.nLen 32) 16
/-- Scale area and size of one packed weight tile (R133). -/
def Tile.wScale (t : Tile) : Nat := if isMx t.wfmt then t.kw / 32 * t.nw else 0
/-- A weight row starts on a 16-byte boundary (R131). -/
def Tile.wRow (t : Tile) : Nat := roundUp (rowBytes t.wfmt t.nw) 16
def Tile.wTile (t : Tile) : Nat := roundUp (64 + t.wScale + t.kw * t.wRow) 64

/-- Formats permitted in each mode (R114). -/
def Tile.fmtOk (t : Tile) : Bool :=
  match t.mode with
  | 0 =>
    let op f := f ≤ 6 || f == 8 || f == 9 || isMx f
    op t.wfmt && op t.afmt &&
      (if t.intPair then [9, 10, 5, 7, 19].contains t.ofmt
       else t.ofmt ≤ 7 || (11 ≤ t.ofmt && t.ofmt ≤ 15) || t.ofmt == 19)
  | 1 => t.wfmt == 17 && t.afmt == 17 && (t.ofmt == 17 || t.ofmt == 19)
  | 2 => t.wfmt == 18 && t.afmt == 18 && (t.ofmt == 18 || t.ofmt == 19)
  | 3 => t.wfmt == 7 && t.afmt == 7 && t.ofmt == 7
  | _ => false

/-- A range in the scratchpad of core `n`, outside its reserved region for an open tile (R98, R192). -/
def State.inPad (s : State) (n : Nat) (radio : Bool) (a len : Nat) : Bool :=
  within a len (padBase n) 0x600000 && (radio || !overlaps a len (s.spRsv n).1 (s.spRsv n).2)

/-- A range that weights may lie in (R98). -/
def State.inWeights (s : State) (n : Nat) (radio : Bool) (a len : Nat) : Bool :=
  s.inPad n radio a len || within a len (clSramBase (n / 4)) 0x800000 ||
  (radio && within a len (pinnedBase (n / 16)) 0x2000000)

/-- Bytes of the output region, its block scales with it (R115, R141). -/
def Tile.outBytes (t : Tile) : Nat :=
  if isMx t.ofmt then t.rows * t.cRow + (t.rows - 1) * t.csr + ceilDiv t.nLen 32 else (t.rows - 1) * t.cRow + t.cRowBytes

/-- The delta segment table and the entries of every step lie in the sources of the weights. -/
def State.deltasIn (s : State) (n : Nat) (radio : Bool) (t : Tile) : Bool :=
  s.inWeights n radio t.deltaAddr (t.ks * t.ns * 8) &&
  (List.range (t.ks * t.ns)).all fun st =>
    let seg := s.memLE (t.deltaAddr + 8 * st) 8
    bits seg 47 32 == 0 || s.inWeights n radio (t.deltaAddr + bits seg 31 0) (4 * bits seg 47 32)

/-- Addresses of the tile lie in the sources of R98. An address that the tile does not use is not checked: `a_addr`, `w_addr` and
the addresses beside them with `k_len` = 0, `c_addr` when nothing is retired or loaded (DESIGN CHOICE, log 87: the manual does
not say whether they are). -/
def State.tileAddrOk (s : State) (n : Nat) (radio : Bool) (t : Tile) : Bool :=
  t.empty ||
  (!(t.retire || t.accInit == 1) || s.inPad n radio t.cAddr t.outBytes) &&
  (t.kLen == 0 ||
    s.inPad n radio t.aAddr ((t.rows - 1) * t.aRow + rowBytes t.afmt t.kLen) &&
    s.inWeights n radio t.wAddr (t.ks * t.ns * t.wTile) && (!t.deltaEn || s.deltasIn n radio t) &&
    (!isMx t.afmt || s.inPad n radio t.ascaleAddr ((t.rows - 1) * t.asr + ceilDiv t.kLen 32)))

/-- The descriptor check (R116). What R102 asks of a tick stands in State.bgOk. -/
def State.tileOk (s : State) (n : Nat) (radio : Bool) (t : Tile) : Bool :=
  t.mode ≤ 3 && !t.rsv && t.accInit ≤ 2 && t.fmtOk && t.mRows ≤ 4096 && t.nLen ≤ 4096 && t.outShift ≤ 47 &&
  t.arrays != 0 && t.mRows * t.ns * t.nw * t.entryBytes ≤ 262144 &&
  (if radio then t.bank == 1 else t.bank == 0 && t.accInit != 2 && t.retire) &&
  (!t.deltaEn || t.mode == 0) && s.tileAddrOk n radio t

/-! ## Operands -/

/-- Element `i` of a packed row at `base`. -/
def State.elem (s : State) (fmt base i : Nat) : Nat :=
  let off := i * fmtBits fmt
  s.memLE (base + off / 8) ((off % 8 + fmtBits fmt + 7) / 8) / 2 ^ (off % 8) % 2 ^ fmtBits fmt

/-- Header bit `zero_tile` of weight step `st` (R134). -/
def State.zeroTile (s : State) (t : Tile) (st : Nat) : Bool := bit (s.memLE (t.wAddr + st * t.wTile) 1) 0

/-- Delta entries of weight step `st` (R339): position and BF16 value. -/
def State.tileDeltas (s : State) (t : Tile) (st : Nat) : List (Nat × Nat) :=
  if t.deltaEn then
    let seg := s.memLE (t.deltaAddr + 8 * st) 8
    (List.range (bits seg 47 32)).map fun i =>
      let e := s.memLE (t.deltaAddr + bits seg 31 0 + 4 * i) 4
      (bits e 12 0, bits e 31 16)
  else []

/-- The step is skipped (R109). -/
def State.skipped (s : State) (t : Tile) (st : Nat) : Bool :=
  t.skipZero && s.on F.MSF_GCTRL.skip_en && s.zeroTile t st && (s.tileDeltas t st).isEmpty

/-- A delta entry that the merge unit ignores (R110, R340). -/
def deltaBad (t : Tile) (e : Nat × Nat) : Bool := t.kw * t.nw ≤ e.1 || e.2 / 128 % 256 == 255

/-- Flush a BF16 subnormal (R136). -/
def flushBf16 (v : Nat) : Nat := if v / 128 % 256 = 0 then v / 32768 * 32768 else v

/-- Value of a raw element under a scale. -/
def valueOf (fmt scale v : Nat) : Num :=
  if isMx fmt then mxValue fmt scale v else decodeElem fmt v

/-- The merged weight code (R110): the base element decoded to binary32, every delta of the position added in stream
order, converted once to the weight format, saturating to the largest finite value. -/
def mergeDelta (t : Tile) (scale raw : Nat) (ds : List Nat) : Nat :=
  if ds.isEmpty || (isMx t.wfmt && scale == 0xFF) then raw
  else
    let sum := ds.foldl (fun v d => roundIeee (v.add (decodeElem 5 (flushBf16 d)))) (roundIeee (valueOf t.wfmt scale raw))
    let v := if isMx t.wfmt then sum.scale (127 - scale) else sum
    match fltFmt (mxElem t.wfmt), v with
    | some f, .inf neg => (if neg then 2 ^ (f.eb + f.mb) else 0) + f.maxCode
    | some f, .fin neg m e =>
      (if neg then 2 ^ (f.eb + f.mb) else 0) + (f.encodeMag .rne (t.wfmt == 5) m e).getD f.maxCode
    | _, v => encodeElem t.wfmt .rne v

/-- Element and scale of a loaded weight tile at local position (k, c), before merging. -/
def WBuf.raw (w : WBuf) (t : Tile) (k c : Nat) : Nat := bitsAt w.bytes (8 * (t.wScale + k * t.wRow) + c * fmtBits t.wfmt) (fmtBits t.wfmt)
def WBuf.scale (w : WBuf) (t : Tile) (k c : Nat) : Nat :=
  if isMx t.wfmt then (w.bytes.getD (k / 32 * t.nw + c) 0).toNat else 127

/-- Load step `st` into a buffer of the weight register, the delta entries `ds` merged (R96, R110). -/
def State.loadW (s : State) (t : Tile) (ds : List (Nat × Nat)) (st : Nat) : WBuf :=
  let w : WBuf := { bytes := s.memRd (t.wAddr + st * t.wTile + 64) (t.wScale + t.kw * t.wRow), merged := [] }
  let good := ds.filter fun e => !deltaBad t e
  { w with merged := (good.map (·.1)).dedup.foldl (fun m pos =>
      let k := pos / t.nw
      let c := pos % t.nw
      kset m pos (mergeDelta t (w.scale t k c) (w.raw t k c) ((good.filter fun e => e.1 == pos).map (·.2)))) [] }

/-- The weight of cell (k, c) of the array. -/
def WBuf.weight (w : WBuf) (t : Tile) (k c : Nat) : Nat × Nat :=
  (kget w.merged (k * t.nw + c) (w.raw t k c), w.scale t k c)

/-- Activation element and its scale, row `r`, absolute index `k`. -/
def State.act (s : State) (t : Tile) (r k : Nat) : Nat × Nat :=
  (s.elem t.afmt (t.aAddr + r * t.aRow) k,
   if isMx t.afmt then s.memLE (t.ascaleAddr + r * t.asr + k / 32) 1 else 127)

/-- Widen an operand: an integer beside a floating-point operand keeps its value, BF16 subnormals are flushed (R136). -/
def widen (fmt : Nat) (x : Nat × Nat) : Num :=
  valueOf fmt x.2 (if fmt = 5 then flushBf16 x.1 else x.1)

/-- An element that is zero (R108); a BF16 subnormal is zero once the load path has flushed it (R136). -/
def zeroCode (fmt v : Nat) : Bool :=
  match fltFmt (mxElem fmt) with
  | some f => (if fmt = 5 then flushBf16 v else v) % 2 ^ (f.eb + f.mb) == 0
  | none => v == 0

/-! ## Arithmetic (R103–R108) -/

/-- Column sum of one cycle (R104): products aligned to the leading bit of the largest one, truncated below the window,
added exactly and rounded once. -/
def columnSum (window : Nat) (ps : List Num) : Num :=
  if ps.any fun p => p == .nan then .nan
  else if ps.contains (.inf true) && ps.contains (.inf false) then .nan
  else if ps.contains (.inf true) then .inf true
  else if ps.contains (.inf false) then .inf false
  else
    let lead := ps.foldl (fun (a : Option Int) p => match p with
      | .fin _ m e => if m = 0 then a else some (max (a.getD (e + Nat.log2 m)) (e + Nat.log2 m))
      | _ => a) none
    match lead with
    | none => .fin false 0 0
    | some l =>
      let q := l - (window - 1 : Nat)
      let sum : Int := ps.foldl (fun a p => match p with
        | .fin n m e => let t : Int := (shiftRound .rtz m (e - q)).1; if n then a - t else a + t
        | _ => a) 0
      roundAcc (.ofInt sum q)

/-- A raw CI16 element as its parts. -/
def ci16 (v : Nat) : Int × Int := (toSigned 16 v, toSigned 16 (v / 65536))

/-- Saturate a component of a CMAC entry at ±(2^47 − 1) (R105). -/
def sat47 (v : Int) : Int := clampInt (-(2 ^ 47 - 1)) (2 ^ 47 - 1) v

/-- T16 addition (R106). -/
def t16Add (tropAbs : Bool) (a w : Nat) : Option (Int × Bool) :=
  if a = 0x7FFF ∨ w = 0x7FFF then none
  else
    let s := clampInt (-32768) 32766 (toSigned 16 a + toSigned 16 w)
    some (if tropAbs then min 32766 s.natAbs else s, decide (s < 0))

/-- The minimum record (R106) as plain numbers; +∞ is 32767. -/
structure MinRec where
  min1 : Int
  min2 : Int
  idx1 : Nat
  par  : Bool
  deriving DecidableEq, Repr

def MinRec.zero : MinRec := ⟨32767, 32767, 0xFFFFFF, false⟩
def MinRec.ofRaw (v : Nat) : MinRec :=
  ⟨toSigned 16 v, toSigned 16 (v / 65536), bits v 55 32, bit v 56⟩
def MinRec.raw (m : MinRec) : Nat :=
  ofSigned 16 m.min1 + 65536 * ofSigned 16 m.min2 + 2 ^ 32 * m.idx1 + 2 ^ 56 * b2n m.par

/-- Merge one term into a record: the smallest, the second smallest in the multiset, the lowest index on a tie. -/
def MinRec.add (m : MinRec) (tropAbs : Bool) (k : Nat) : Option (Int × Bool) → MinRec
  | none => m
  | some (v, neg) =>
    let par := if tropAbs then m.par != neg else m.par
    if v < m.min1 then ⟨v, m.min1, k, par⟩
    else ⟨m.min1, min m.min2 v, if v = m.min1 then min m.idx1 k else m.idx1, par⟩

/-- Merge two records: the two smallest of the four values, the index of the smaller `min1`, the lower on a tie. A tile with
`trop_abs` = 0 leaves `par` of the record in the bank as it is (DESIGN CHOICE, log 86). -/
def MinRec.merge (a b : MinRec) : MinRec :=
  let m : Int := min (min a.min1 a.min2) (min b.min1 b.min2)
  let snd : Int :=
    min (max (min a.min1 a.min2) (min b.min1 b.min2)) (min (max a.min1 a.min2) (max b.min1 b.min2))
  ⟨m, snd, if a.min1 < b.min1 then a.idx1 else if b.min1 < a.min1 then b.idx1 else min a.idx1 b.idx1, a.par != b.par⟩

/-- IEEE flags of a STRICT tile: invalid, overflow, underflow, inexact as bits 0–3 (R107). -/
def isSnan (v : Nat) : Bool := v / 2 ^ 23 % 256 == 255 && v % 2 ^ 23 != 0 && !bit v 22

/-- `fma(a, w, acc)` in binary32 with its flags. -/
def strictFma (a w acc : Nat) : Nat × Nat :=
  let x := fp32.decode a
  let y := fp32.decode w
  let z := fp32.decode acc
  let p := x.mul y
  let r := p.add z
  let prodInvalid := p == .nan && x != .nan && y != .nan
  let invalid := isSnan a || isSnan w || isSnan acc ||
    (prodInvalid && (z != .nan || Config.fmaInvalidNan)) ||
    (r == .nan && !prodInvalid && x != .nan && y != .nan && z != .nan)
  match r with
  | .nan => (0x7FC00000, b2n invalid)
  | .inf n => (fp32.encode .rne false (.inf n), b2n invalid)
  | .fin n m e =>
    let code := fp32.encode .rne false (.fin n m e)
    let back := fp32.decode code
    let ovf := match back with | .inf _ => true | _ => false
    let inexact := ovf || (match back with | .fin _ m' e' => !(magLe (m, e) (m', e') && magLe (m', e') (m, e)) | _ => true)
    let lead : Int := e + Nat.log2 m
    let tiny := m != 0 && (if Config.tinyBefore then decide (lead < -126)
      else match fp32.encodeMag .rne true m e with | some c => c == 0 | none => false)
    (code, 2 * b2n ovf + 4 * b2n (tiny && inexact) + 8 * b2n inexact)

/-- What a tile leaves of an element: accumulator entry, saturation, STRICT flags, gated cell-cycles. -/
structure CellRes where
  raw  : Nat
  sat  : Bool
  flags : Nat
  gated : Nat
  deriving DecidableEq, Repr

/-- One weight step of one output element: the K_w cells of column `c` in row order. Positions beyond `k_len` take zero weights
(R115). The window of TMAC is that of the rate class: 64 bits where a BF16 or FP16 operand is paired with an MX one (DESIGN
CHOICE, log 85: two rows of R103 fit). -/
def State.cellStep (s : State) (t : Tile) (wb : WBuf) (kStep r c : Nat) (x : CellRes) : CellRes :=
  let gate := s.on F.MSF_GCTRL.gate_en
  let pairs := (List.range t.kw).map fun k =>
    let at_ := kStep * t.kw + k
    (at_, s.act t r at_, if at_ < t.kLen then wb.weight t k c else (0, 127))
  match t.mode with
  | 0 =>
    let gated (p : Nat × (Nat × Nat) × (Nat × Nat)) := gate && (zeroCode t.afmt p.2.1.1 || zeroCode t.wfmt p.2.2.1)
    let g := x.gated + (pairs.filter gated).length
    if t.intPair then
      let sum := pairs.foldl (fun (a : Int) p =>
        a + toSigned (fmtBits t.afmt) p.2.1.1 * toSigned (fmtBits t.wfmt) p.2.2.1) 0
      let v := toSigned 32 x.raw + sum
      let v' := clampInt (-2147483648) 2147483647 v
      { raw := ofSigned 32 v', sat := x.sat || v' != v, flags := 0, gated := g }
    else
      let ps := pairs.map fun p => if gated p then .fin false 0 0 else (widen t.afmt p.2.1).mul (widen t.wfmt p.2.2)
      let col := columnSum (if t.cls = 16 then 64 else 48) ps
      { raw := fp32.encode .rne true ((fp32.decode x.raw).add col), sat := x.sat, flags := 0, gated := g }
  | 1 =>
    let g := x.gated + (pairs.filter fun p => gate && (p.2.1.1 == 0 || p.2.2.1 == 0)).length
    let sum := pairs.foldl (fun (a : Int × Int) p =>
      let (ar, ai) := ci16 p.2.1.1
      let (wr, wi0) := ci16 p.2.2.1
      let wi := if t.conjW then -wi0 else wi0
      (a.1 + (ar * wr - ai * wi), a.2 + (ar * wi + ai * wr))) (0, 0)
    let re := toSigned 64 x.raw + sum.1
    let im := toSigned 64 (x.raw / 2 ^ 64) + sum.2
    { raw := ofSigned 64 (sat47 re) + 2 ^ 64 * ofSigned 64 (sat47 im),
      sat := x.sat || sat47 re != re || sat47 im != im, flags := 0, gated := g }
  | 2 =>
    let g := x.gated + (pairs.filter fun p => gate && p.2.2.1 == 0x7FFF).length
    let col := pairs.foldl (fun (m : MinRec) p => m.add t.tropAbs p.1 (t16Add t.tropAbs p.2.1.1 p.2.2.1)) MinRec.zero
    { raw := ((MinRec.ofRaw x.raw).merge col).raw, sat := x.sat, flags := 0, gated := g }
  | _ =>
    let r := (pairs.filter fun p => p.1 < t.kLen).foldl (fun (a : Nat × Nat) p =>
      let q := strictFma p.2.1.1 p.2.2.1 a.1
      (q.1, a.2 ||| q.2)) (x.raw, x.flags)
    { raw := r.1, sat := x.sat, flags := r.2, gated := 0 }

/-- A raw entry as its mode keeps it: CMAC components of 48 bits, sign-extended (R105); the fields of the minimum record
(R106). -/
def Tile.rawEntry (t : Tile) (v : Nat) : Nat :=
  match t.mode with
  | 1 => ofSigned 64 (toSigned 48 v) + 2 ^ 64 * ofSigned 64 (toSigned 48 (v / 2 ^ 64))
  | 2 => (MinRec.ofRaw v).raw
  | _ => v

/-- Entry of an output element loaded from the output region (R137). -/
def State.loadEntry (s : State) (t : Tile) (row c : Nat) : Nat × Bool :=
  let base := t.cAddr + row * t.cRow
  if t.ofmt = 19 then (t.rawEntry (s.memLE (base + c * t.entryBytes) t.entryBytes), false)
  else
    let v := s.elem t.ofmt base c
    match t.mode with
    | 1 =>
      let f (x : Int) := x * 2 ^ t.outShift
      let p := ci16 v
      (ofSigned 64 (sat47 (f p.1)) + 2 ^ 64 * ofSigned 64 (sat47 (f p.2)),
       sat47 (f p.1) != f p.1 || sat47 (f p.2) != f p.2)
    | 2 => (({ MinRec.zero with min1 := toSigned 16 v } : MinRec).raw, false)
    | 3 => (v, false)
    | _ =>
      if t.intPair then
        let x := (decodeElem t.ofmt v).scale t.outShift
        let y := x.toIntSat .rne (-2147483648) 2147483647
        let sat := match x with
          | .nan => false
          | .inf _ => true
          | .fin n m e => let z : Int := (shiftRound .rne m e).1; y != (if n then -z else z)
        (ofSigned 32 y, sat)
      else
        let sc := if isMx t.ofmt then s.memLE (t.cAddr + t.rows * t.cRow + row * t.csr + c / 32) 1 else 127
        (fp32.encode .rne false (valueOf t.ofmt sc v), false)

/-- Key of an entry in a bank: quarter, then row by row (R100, R101). -/
def Tile.bankKey (t : Tile) (j i c : Nat) : Nat := j * 262144 + (i * t.ns * t.nw + c) * t.entryBytes

/-- Entry of `n` bytes at an offset of a bank, and the bank with one written (R100). -/
def bankGet (bank : KMap Nat) (key n : Nat) : Nat := (List.range n).foldr (fun i a => kget bank (key + i) 0 + 256 * a) 0
def bankPut (bank : KMap Nat) (key n v : Nat) : KMap Nat :=
  (List.range n).foldl (fun b i =>
    let x := v / 256 ^ i % 256
    if x = 0 then kdel b (key + i) else kset b (key + i) x) bank

/-- Initial entry (R112 `acc_init`). -/
def State.initEntry (s : State) (t : Tile) (bank : KMap Nat) (j row i c : Nat) : Nat × Bool :=
  match t.accInit with
  | 1 => s.loadEntry t row c
  | 2 => (t.rawEntry (bankGet bank (t.bankKey j i c) t.entryBytes), false)
  | _ => (if t.mode = 2 then MinRec.zero.raw else 0, false)

/-- The weight steps that run, in order, with the buffer each loads (R109). -/
def State.wsteps (s : State) (t : Tile) : List (Nat × WBuf) :=
  ((List.range (t.ks * t.ns)).filter fun st => !s.skipped t st).map fun st => (st, s.loadW t (s.tileDeltas t st) st)

/-- One output element of array `j` (rank `q`), activation row `i`, column `c`: every weight step of its block in order. -/
def State.cell (s : State) (t : Tile) (steps : List (Nat × WBuf)) (bank : KMap Nat) (j q i c : Nat) : CellRes :=
  let row := q * t.mRows + i
  let ini := s.initEntry t bank j row i c
  (steps.filter fun w => w.1 / t.ks == c / t.nw).foldl (fun x w => s.cellStep t w.2 (w.1 % t.ks) row (c % t.nw) x)
    { raw := ini.1, sat := ini.2, flags := 0, gated := 0 }

/-- What running a tile leaves: the bank, the weight register, saturation, STRICT flags, ignored delta entries, cells switched
and gated. -/
structure TileRes where
  bank : KMap Nat
  wreg : List WBuf
  sat  : Bool
  flags : Nat
  deltaErr : Bool
  active : Nat
  gated : Nat
  deriving DecidableEq, Repr

/-- Run a tile on a bank (the procedure `run_tile`). Columns beyond `n_len` hold zero weights: gated in TMAC and CMAC (R115,
R108). -/
def State.runTile (s : State) (t : Tile) (bank : KMap Nat) : TileRes :=
  if t.empty then ⟨bank, [], false, 0, false, 0, 0⟩
  else
    let steps := s.wsteps t
    let cells := t.arr.zipIdx.flatMap fun (j, q) =>
      (List.range t.mRows).flatMap fun i => (List.range t.nLen).map fun c => (t.bankKey j i c, s.cell t steps bank j q i c)
    let total := steps.length * t.rows * t.kw * t.nw
    let beyond := if s.on F.MSF_GCTRL.gate_en && t.mode < 2 then
        (steps.filter fun w => w.1 / t.ks + 1 == t.ns).length * t.rows * t.kw * (t.ns * t.nw - t.nLen)
      else 0
    let gated := cells.foldl (fun a x => a + x.2.gated) beyond
    { bank := cells.foldl (fun b x => bankPut b x.1 t.entryBytes x.2.raw) bank,
      wreg := ((steps.map (·.2)).reverse).take 2
      sat := cells.any fun x => x.2.sat,
      flags := cells.foldl (fun a x => a ||| x.2.flags) 0,
      deltaErr := steps.any fun w => (s.tileDeltas t w.1).any (deltaBad t),
      active := total - gated, gated := gated }

/-! ## Retire (R138–R142) -/

/-- Value of an entry for a real target: integer entries scaled by 2^-out_shift. -/
def Tile.entryVal (t : Tile) (raw : Nat) : Num :=
  if t.intPair then .ofInt (toSigned 32 raw) (-(t.outShift : Int)) else fp32.decode raw

/-- Bytes of one output row. -/
def State.retireRow (_s : State) (t : Tile) (es : List Nat) : List Byte :=
  if t.ofmt = 19 then es.flatMap fun e => leBytes t.entryBytes e
  else
    match t.mode with
    | 1 => es.flatMap fun e =>
        leBytes 2 (encodeElem 17 t.rnd (.ofInt (toSigned 64 e) (-(t.outShift : Int)))) ++
        leBytes 2 (encodeElem 17 t.rnd (.ofInt (toSigned 64 (e / 2 ^ 64)) (-(t.outShift : Int))))
    | 2 => es.flatMap fun e => leBytes 2 e
    | 3 => es.flatMap fun e => leBytes 4 (fp32.encode .rne false (fp32.decode e))
    | _ => packElems (fmtBits t.ofmt) (es.map fun e => encodeElem t.ofmt t.rnd (t.entryVal e))

/-- Split a list into blocks of `n`. -/
def blocksOf {α : Type} (n : Nat) : Nat → List α → List (List α)
  | 0, _ => []
  | _, [] => []
  | f + 1, l => l.take n :: blocksOf n f (l.drop n)

/-- One output row stored, with its block scales for an MX format (R140, R141). -/
def State.storeRow (s : State) (t : Tile) (row : Nat) (es : List Nat) : State :=
  if isMx t.ofmt then
    let bl := (blocksOf 32 es.length es).map fun b => mxBlock t.ofmt t.rnd (b.map t.entryVal)
    let s := s.sramWr (t.cAddr + row * t.cRow) (packElems (fmtBits t.ofmt) (bl.flatMap (·.2)))
    s.sramWr (t.cAddr + t.rows * t.cRow + row * t.csr) (bl.map fun b => BitVec.ofNat 8 b.1)
  else s.sramWr (t.cAddr + row * t.cRow) (s.retireRow t es)

/-- The retire phase: every output of every enabled array. -/
def State.retireTile (s : State) (t : Tile) (bank : KMap Nat) : State :=
  if t.empty || !t.retire then s
  else t.arr.zipIdx.foldl (fun s jq =>
    (List.range t.mRows).foldl (fun s i =>
      s.storeRow t (jq.2 * t.mRows + i) ((List.range t.nLen).map fun c =>
        t.rawEntry (bankGet bank (t.bankKey jq.1 i c) t.entryBytes))) s) s

/-! ## Cycle count (R111, R118) -/

/-- Load time of a step. -/
def State.loadTime (s : State) (n : Nat) (t : Tile) (st : Nat) : Nat :=
  let q := if t.mode = 3 && !within t.wAddr 1 (padBase n) 0x600000 then 2 else 1
  max (64 * q) (ceilDiv (s.tileDeltas t st).length 32)

/-- T_ret, the length of the retire phase. -/
def Tile.retCycles (t : Tile) : Nat :=
  if t.empty || !t.retire then 0 else 16 + t.mRows * t.ns * (if t.mode = 1 || t.mode = 2 then 2 else 1)

/-- Cycles from start to the end of retire, without port contention. -/
def State.tileCycles (s : State) (n : Nat) (t : Tile) : Nat :=
  if t.empty then 16
  else
    let r := if t.mode = 1 || t.mode = 2 then 2 else 1
    let ini := if t.accInit = 1 then 16 + t.mRows * t.ns * r else 0
    let ret := t.retCycles
    let p := if t.mode = 3 then 64 * ceilDiv t.mRows 2 else t.mRows
    let ls := ((List.range (t.ks * t.ns)).filter fun st => !s.skipped t st).map (s.loadTime n t)
    match ls with
    | [] => ini + 16 + ret
    | l1 :: rest => ini + (l1 + ((rest ++ [0]).foldl (fun a l => a + max p l) 0) + 136) + ret

end Sys2Proof.Machine
end

