-- ==== Sys2Proof/Machine/Rings.lean ====
section
/-! DEFINITION. Rings, completion entries, interrupts, notices and events: the shared operations of the host interface
(R383–R390, R401, R410). A ring has a number: 16·s + r for ring r of slice s, `ctlRing` for the control ring and
`radioRing r` for radio ring r. -/

namespace Sys2Proof.Machine

/-- Number of the control ring. -/
def ctlRing : Nat := 65536
/-- Number of radio ring r. -/
def radioRing (r : Nat) : Nat := 65537 + r
/-- Number of a named ring. -/
def ringNo : RingName → Nat
  | .slice s r => 16 * s.val + r.val
  | .control => ctlRing
  | .radio r => radioRing r.val

/-- A ring with nothing in it. -/
def Ring.zero : Ring :=
  { fifo := [], cq := [], notices := [], lastTok := none, live := [], unsig := 0, unsigSince := none, indOff := 0 }

/-- The two homes of a ring register: in a slice window and in the HOST block (R411). -/
structure RingReg where
  win  : Field
  host : Field

def rSqLog : RingReg := ⟨F.HOST_S_RING_CFG.sq_log2, F.HOST_RING_CFG.sq_log2⟩
def rCqLog : RingReg := ⟨F.HOST_S_RING_CFG.cq_log2, F.HOST_RING_CFG.cq_log2⟩
def rVector : RingReg := ⟨F.HOST_S_RING_CFG.vector, F.HOST_RING_CFG.vector⟩
def rCoalCnt : RingReg := ⟨F.HOST_S_RING_CFG.coal_cnt, F.HOST_RING_CFG.coal_cnt⟩
def rCoalUs : RingReg := ⟨F.HOST_S_RING_CFG.coal_us, F.HOST_RING_CFG.coal_us⟩
def rMirrorEn : RingReg := ⟨F.HOST_S_RING_CFG.mirror_en, F.HOST_RING_CFG.mirror_en⟩
def rSqTail : RingReg := ⟨F.HOST_S_RING_SQ_TAIL.sq_tail, F.HOST_RING_SQ_TAIL.sq_tail⟩
def rSqHead : RingReg := ⟨F.HOST_S_RING_SQ_HEAD.sq_head, F.HOST_RING_SQ_HEAD.sq_head⟩
def rCqHead : RingReg := ⟨F.HOST_S_RING_CQ_HEAD.cq_head, F.HOST_RING_CQ_HEAD.cq_head⟩
def rCqTail : RingReg := ⟨F.HOST_S_RING_CQ_TAIL.cq_tail, F.HOST_RING_CQ_TAIL.cq_tail⟩
def rMirror : RingReg := ⟨F.HOST_S_RING_MIRROR.mirror, F.HOST_RING_MIRROR.mirror⟩
def rCfgErr : RingReg := ⟨F.HOST_S_RING_STAT.cfg_err, F.HOST_RING_STAT.cfg_err⟩
def rCfgIgn : RingReg := ⟨F.HOST_S_RING_STAT.cfg_ign, F.HOST_RING_STAT.cfg_ign⟩
def rDbErr : RingReg := ⟨F.HOST_S_RING_STAT.db_err, F.HOST_RING_STAT.db_err⟩
def rOutst : RingReg := ⟨F.HOST_S_RING_STAT.ring_outst, F.HOST_RING_STAT.ring_outst⟩
def rProgSkip : RingReg := ⟨F.HOST_S_RING_STAT.prog_skip, F.HOST_RING_STAT.prog_skip⟩
def rStale : RingReg := ⟨F.HOST_S_RING_STALE.rr_stale, F.HOST_RING_STALE.rr_stale⟩

/-- Read and write a ring register of ring `k`. -/
def State.ringRd (s : State) (g : RingReg) (k : Nat) : Nat :=
  if k < ctlRing then s.rd g.win (1024 * (k / 16) + k % 16) else s.rd g.host (k - ctlRing)
def State.ringPut (s : State) (g : RingReg) (k v : Nat) : State :=
  if k < ctlRing then s.put g.win v (1024 * (k / 16) + k % 16) else s.put g.host v (k - ctlRing)
/-- Add to a saturating counter of a ring. -/
def State.ringBump (s : State) (g : RingReg) (k : Nat) : State :=
  s.ringPut g k (satAdd g.host.width (s.ringRd g k) 1)

/-- The ring's contents. -/
def State.ring (s : State) (k : Nat) : Ring := kget s.rings k Ring.zero
def State.setRing (s : State) (k : Nat) (r : Ring) : State := s.withRings (kset s.rings k r)

/-- A configuration that R383 permits and that enables the ring. -/
def ringCfgOk (sq cq : Nat) : Bool :=
  (sq == 0 || (4 ≤ sq && sq ≤ 10)) && (cq == 0 || (4 ≤ cq && cq ≤ 11)) && (sq == 0 || cq == 0 || sq ≤ cq)
def State.ringOn (s : State) (k : Nat) : Bool :=
  s.ringRd rSqLog k != 0 && s.ringRd rCqLog k != 0 && ringCfgOk (s.ringRd rSqLog k) (s.ringRd rCqLog k)

/-- CQ size, entries in it, and commands read but not finally completed (R385). -/
def State.cqSize (s : State) (k : Nat) : Nat := 2 ^ s.ringRd rCqLog k
def State.cqUsed (s : State) (k : Nat) : Nat := (s.ringRd rCqTail k + 2 ^ 32 - s.ringRd rCqHead k) % 2 ^ 32
/-- Entries that the host has made available and the device has not read (R384). -/
def State.sqAvail (s : State) (k : Nat) : Nat := (s.ringRd rSqTail k + 2 ^ 32 - s.ringRd rSqHead k) % 2 ^ 32
/-- A CQ slot is free beyond the reservations (R385). -/
def State.cqFree (s : State) (k : Nat) : Bool :=
  s.ringOn k && s.cqUsed k + s.ringRd rOutst k < s.cqSize k

/-- Signal vector `v` of function `fn` (R387): PF0 has 64 vectors, a VF 256. -/
def State.msix (s : State) (fn v : Nat) : State :=
  if v < (if fn = 0 then 64 else 256) then s.emit (.msix fn v) else s.put F.HOST_STAT.vec_err 1

/-- Function and vector of ring `k`: PF0 vectors 0 and 1 serve the control and radio rings (R387). -/
def State.ringVector (s : State) (k : Nat) : Nat × Nat :=
  if k < ctlRing then (s.rd F.HOST_SLICE.function (k / 16), s.ringRd rVector k)
  else if k = ctlRing then (0, 0) else (0, 1)

/-- Fire the ring's interrupt and start counting again. -/
def State.fireRing (s : State) (k : Nat) : State :=
  let s := s.setRing k { s.ring k with unsig := 0, unsigSince := none }
  s.msix (s.ringVector k).1 (s.ringVector k).2

/-- The 32 bytes of a completion entry (R389). -/
def CqEntry.bytes (e : CqEntry) : List Byte :=
  leBytes 8 e.token ++
  leBytes 8 (e.status % 65536 + 65536 * b2n e.phase + 131072 * b2n e.dup + 262144 * (e.kind % 4) +
    1048576 * (e.opc % 256) + 2 ^ 32 * e.handle) ++
  leBytes 8 e.res0 ++ leBytes 8 (e.tick % 2 ^ 32 + 2 ^ 32 * e.res1)

/-! ## Slices -/

/-- What the device keeps of a slice that is not bound. -/
def Slice.zero : Slice :=
  { cookie := 0, hbLast := 0, detachedAt := 0, blockedUntil := 0, negotiated := false, negPend := false,
    window := [], counters := List.replicate 12 0, energyRem := 0, regions := [], regionPend := [], lastRing := 0,
    freezeCmd := none, emptyKeys := false, thawPend := false, agreed := (0, 0), freezeAt := 0, saved := [], savedFg := [] }

/-- What is kept of a slice that is scrubbed or bound afresh: its region table, which empties at the next commit instant (R209). -/
def Slice.blank (x : Slice) : Slice :=
  { Slice.zero with
    regions := x.regions, regionPend := (x.regions.map (·.1) ++ x.regionPend.map (·.1)).foldl (fun m i => kset m i none) [] }

def State.slice (s : State) (n : Nat) : Slice := kget s.slices n Slice.zero
def State.setSlice (s : State) (n : Nat) (x : Slice) : State := s.withSlices (kset s.slices n x)

/-- Add to counter `k` of slice `sl` (R292). -/
def State.count (s : State) (sl k n : Nat) : State :=
  let x := s.slice sl
  s.setSlice sl { x with counters := x.counters.modify k fun v => satAdd 64 v n }

/-- PCIe payload of a slice's ring (R292). -/
def State.ringBytes (s : State) (k n : Nat) : State := if k < ctlRing then s.count (k / 16) 7 n else s

/-- The host address space of a ring's DMA: that of its slice's function and PASID, or none (R380). -/
def State.space (s : State) (k : Nat) : Nat :=
  if k < ctlRing then 1 + 2 ^ 20 * s.rd F.HOST_SLICE.function (k / 16) + s.rd F.HOST_SLICE.pasid (k / 16) else 0

/-! ## Posting -/

/-- Post an entry on the CQ of ring `k`: phase, slot, mirror, and the count towards the next interrupt (R384, R387). -/
def State.postRaw (s : State) (k : Nat) (e : CqEntry) : State :=
  let c := s.ringRd rCqTail k
  let lg := s.ringRd rCqLog k
  let e := { e with phase := !bit c lg, tick := (s.tickNow % 2 ^ 32).toNat }
  let r := s.ring k
  let s := s.setRing k { r with
    cq := kset r.cq (c % 2 ^ lg) e, unsig := r.unsig + 1, unsigSince := some (r.unsigSince.getD s.nowNs) }
  let s := (s.ringPut rCqTail k (c + 1)).ringBytes k 32
  if s.ringRd rMirrorEn k = 1 then
    (s.hostWr (s.ringRd rMirror k + c % 2 ^ lg * 32) e.bytes (s.space k)).getD s
  else s

/-- Fire when enough entries have gathered. -/
def State.coalesce (s : State) (k : Nat) : State :=
  if max 1 (s.ringRd rCoalCnt k) ≤ (s.ring k).unsig then s.fireRing k else s

def State.postCq (s : State) (k : Nat) (e : CqEntry) : State :=
  if s.ringRd rCqLog k = 0 then s else (s.postRaw k e).coalesce k

/-- An entry whose phase and tick are filled at posting. -/
def mkEntry (token status kind opc handle res0 res1 : Nat) : CqEntry :=
  { token := token, status := status, phase := false, dup := false, kind := kind, opc := opc, handle := handle,
    res0 := res0, res1 := res1, tick := 0 }

/-- Post a notice, or keep it inside the device until a slot beyond the reservations is free; a sequence has at most one pending, its
latest (R385). -/
def State.notice (s : State) (k : Nat) (e : CqEntry) : State :=
  if s.cqFree k && (s.ring k).notices.isEmpty then s.postCq k e
  else if e.kind = 3 ∧ ((s.ring k).notices.any fun x => x.kind == 3 && x.handle == e.handle) then
    s.setRing k { s.ring k with notices := (s.ring k).notices.map fun x => if x.kind = 3 ∧ x.handle = e.handle then e else x }
  else s.setRing k { s.ring k with notices := (s.ring k).notices ++ [e] }

/-- Post a progress entry, or skip it (R385). -/
def State.progress (s : State) (k : Nat) (e : CqEntry) : State :=
  if s.ringOn k && s.cqUsed k + s.ringRd rOutst k + (s.ring k).notices.length < s.cqSize k then s.postCq k e
  else s.ringBump rProgSkip k

/-- Post an event entry on the control ring (R401), signalled on PF0 vector 2, or queue it; beyond 1,024 it is lost. -/
def State.eventEntry (s : State) (code handle : Nat) (opc := 0xFF) : State :=
  let e := mkEntry 0 St.ok 3 opc handle code 0
  if s.cqFree ctlRing && s.events.isEmpty then (s.postRaw ctlRing e).msix 0 2
  else if s.events.length < 1024 then s.withEvents (s.events ++ [e])
  else s.bump F.HOST_STAT.evt_lost

/-- Post waiting events while slots are free. -/
def State.drainEvents (s : State) : Nat → State
  | 0 => s
  | n + 1 =>
    match s.events with
    | [] => s
    | e :: rest =>
      if s.cqFree ctlRing then
        (((s.withEvents rest).postRaw ctlRing e).msix 0 2).drainEvents n
      else s

/-- Post an entry on radio ring `r`, or drop it (R410). -/
def State.postRadio (s : State) (r : Nat) (e : CqEntry) : State :=
  let k := radioRing r
  if s.ringOn k && s.cqUsed k < s.cqSize k then s.postCq k e else s.bump F.HOST_IND.ind_drop r

/-! ## Commands: read and final completion (R386, R389, R390) -/

/-- Slice states (R400). -/
def unbound := 0
def active := 1
def detached := 2
def frozen := 3
def scrubbing := 4
def State.sliceState (s : State) (n : Nat) : Nat := s.rd F.HOST_SLICE.state n
/-- HOST.SLICE and S_ID show the state; SRV.SCNT shows a frozen slice (R296). -/
def State.setSliceState (s : State) (n st : Nat) : State :=
  (((s.put F.HOST_SLICE.state st n).put F.HOST_S_ID.state st n).put F.HOST_S_ID.slice n n).put F.SRV_SCNT.frozen (b2n (st == frozen)) n

/-- The party of the ring has negotiated (R399). -/
def State.ringNegotiated (s : State) (k : Nat) : Bool :=
  if k < ctlRing then (s.slice (k / 16)).negotiated && !(s.slice (k / 16)).negPend
  else s.ctlNeg && !s.ctlNegPend

/-- Agreed feature bitmap of the ring's party. -/
def State.feature (s : State) (k b : Nat) : Bool :=
  if k < ctlRing then bit (s.rd F.HOST_S_FEAT_AGREED.feat_ok (k / 16)) b else bit (s.rd F.HOST_FEAT_AGREED.feat_ok) b

/-- An entry may be read from the ring now (R385, R386, R399, R433). -/
def State.readable (s : State) (k : Nat) : Bool :=
  s.on F.RST_STAT.ready && s.ringOn k && s.cqUsed k + s.ringRd rOutst k < s.cqSize k && s.rd F.HOST_STAT.outst < 65536 &&
  s.ringNegotiated k && (ctlRing ≤ k || s.sliceState (k / 16) == active)

/-- The device reads the entry at the head (R386). -/
def State.takeEntry (s : State) (k : Nat) : State :=
  let s := s.ringPut rSqHead k (s.ringRd rSqHead k + 1)
  let s := (s.ringPut rOutst k (s.ringRd rOutst k + 1)).ringBytes k 64
  s.put F.HOST_STAT.outst (s.rd F.HOST_STAT.outst + 1)

/-- Commands outstanding of the party that owns ring `k` (R399): a slice's sixteen rings, or the control and radio rings. -/
def State.partyOutst (s : State) (k : Nat) : Nat :=
  let rs := if k < ctlRing then span (k / 16 * 16) 16 else span ctlRing 9
  rs.foldl (fun a r => a + s.ringRd rOutst r) 0

/-- A negotiation takes effect (R399): equal majors agree on the smaller minor and the common features. -/
def State.agreeCtl (s : State) : State :=
  let ok := s.rd F.HOST_VER.drv_major == s.rd F.HOST_VER.dev_major
  let s := s.put F.HOST_VER.neg_status (if ok then St.ok else St.version)
  let s := s.put F.HOST_FEAT_AGREED.feat_ok (if ok then s.rd F.HOST_FEAT_DEV.feat_dev &&& s.rd F.HOST_FEAT_DRV.feat_drv else 0)
  let ver := if ok then (s.rd F.HOST_VER.dev_major, min (s.rd F.HOST_VER.drv_minor) (s.rd F.HOST_VER.dev_minor)) else (0, 0)
  ((s.withCtlNeg ok).withCtlNegPend false).withCtlAgreed ver
def State.agreeSlice (s : State) (n : Nat) : State :=
  let ok := s.rd F.HOST_S_VER.drv_major n == s.rd F.HOST_S_VER.dev_major n
  let s := s.put F.HOST_S_VER.neg_status (if ok then St.ok else St.version) n
  let s := s.put F.HOST_S_FEAT_AGREED.feat_ok
    (if ok then s.rd F.HOST_S_FEAT_DEV.feat_dev n &&& s.rd F.HOST_S_FEAT_DRV.feat_drv n else 0) n
  let ver := if ok then (s.rd F.HOST_S_VER.dev_major n, min (s.rd F.HOST_S_VER.drv_minor n) (s.rd F.HOST_S_VER.dev_minor n)) else (0, 0)
  s.setSlice n { s.slice n with negotiated := ok, negPend := false, agreed := ver }

/-- A negotiation that waited for the party's commands takes effect when the last one ends. -/
def State.settleNeg (s : State) (k : Nat) : State :=
  if k < ctlRing then
    if (s.slice (k / 16)).negPend && s.partyOutst k == 0 then s.agreeSlice (k / 16) else s
  else if s.ctlNegPend && s.partyOutst k == 0 then s.agreeCtl else s

/-- One command of the ring has ended. -/
def State.release1 (s : State) (k : Nat) : State :=
  let s := s.ringPut rOutst k (s.ringRd rOutst k - 1)
  (s.put F.HOST_STAT.outst (s.rd F.HOST_STAT.outst - 1)).settleNeg k

/-- Post the FINAL copies that a command owes: the second and later ones with `dup` (R390). -/
def State.postCopies (s : State) (k : Nat) (e : CqEntry) : Nat → State
  | 0 => s
  | n + 1 => ((s.release1 k).postCq k { e with dup := true }).postCopies k e n

/-- Windows of completed commands (R390): a slice keeps 4,096 over its rings, the control function likewise. -/
def State.remember (s : State) (k : Nat) (e : CqEntry) : State :=
  if k < ctlRing then
    let x := s.slice (k / 16)
    s.setSlice (k / 16) { x with window := ((k % 16, e) :: x.window).take 4096 }
  else if k = ctlRing then (s.withCtlWindow ((e :: s.ctlWindow).take 4096)) else s

/-- Final completion of the command with token `tok` of ring `k` (R389, R390). -/
def State.finish (s : State) (k tok opc status : Nat) (handle : Nat := 0) (res0 : Nat := 0) (res1 : Nat := 0) : State :=
  let e := mkEntry tok status 0 opc handle res0 res1
  let copies := (((s.ring k).live.find? fun x => x.1 == tok).map (·.2)).getD 1
  let s := s.setRing k { s.ring k with live := (s.ring k).live.filter fun x => x.1 != tok }
  let s := s.remember k e
  ((s.release1 k).postCq k e).postCopies k e (copies - 1)

/-- Outcome of the token check of R390. -/
inductive TokenCase where
  | fresh
  | outstanding
  | stored (e : CqEntry)
  | stale
  deriving DecidableEq, Repr

def State.tokenCase (s : State) (k tok : Nat) : TokenCase :=
  let r := s.ring k
  if (match r.lastTok with | none => true | some l => decide (l < tok)) then .fresh
  else if r.live.any fun x => x.1 == tok then .outstanding
  else
    let found := if k < ctlRing then
        ((s.slice (k / 16)).window.find? fun x => x.1 == k % 16 && x.2.token == tok).map (·.2)
      else s.ctlWindow.find? fun e => e.token == tok
    match found with
    | some e => .stored e
    | none => .stale

/-- Run the token check after a read: `go` is the command's execution. -/
def State.withToken (s : State) (k tok opc : Nat) (go : State → State) : State :=
  match s.tokenCase k tok with
  | .fresh => go (s.setRing k { s.ring k with lastTok := some tok, live := (s.ring k).live ++ [(tok, 1)] })
  | .outstanding =>
    s.setRing k { s.ring k with live := (s.ring k).live.map fun x => if x.1 = tok then (x.1, x.2 + 1) else x }
  | .stored e => (s.release1 k).postCq k { e with dup := true }
  | .stale => (s.release1 k).postCq k (mkEntry tok St.staleToken 0 opc 0 0 0)

/-- The operand bits that a command names, word by word from word 2: other set bits, or a set bit above `opc` in word 0,
make it ST_BAD_COMMAND (R388). -/
def Entry.reservedOk (e : Entry) (m2 m3 m4 m5 m6 m7 : Nat) : Bool :=
  e.rsv == 0 && [(e.w2, m2), (e.w3, m3), (e.w4, m4), (e.w5, m5), (e.w6, m6), (e.w7, m7)].all fun x =>
    x.1 &&& ~~~(BitVec.ofNat 64 x.2) == 0

end Sys2Proof.Machine
end

