-- ==== Sys2Proof/Machine/Mem.lean ====
section
/-! DEFINITION. Memory protection (R190–R209): the address map, the DRAM decode, the symbol code, keys and line tags,
region descriptors, and the checked reads and writes that every agent uses. -/

namespace Sys2Proof.Machine

/-! ## Variant (R1) -/

/-- The ordering code: 0 MXD1-F, 1 MXD1-E, 2 MXD1-I. -/
def State.code (s : State) : Nat := s.rd F.SEC_ENT.code
def State.isI (s : State) : Bool := s.code == 2
def State.nPart (s : State) : Nat := if s.code = 1 then 4 else 8
def State.nCores (s : State) : Nat := 16 * s.nPart
def State.nSpur (s : State) : Nat := 64 * s.nPart
def State.nClusters (s : State) : Nat := 4 * s.nPart
def State.nLinks (s : State) : Nat := if s.code = 1 then 12 else 36
def State.nChan (s : State) : Nat := if s.code = 1 then 12 else 24
def State.nFh (s : State) : Nat := if s.code = 2 then 0 else 8
/-- Radio capacity in cell-equivalents. -/
def State.ceCap (s : State) : Nat := if s.code = 0 then 320 else if s.code = 1 then 160 else 0

/-- A power domain is on (R41). -/
def State.domainOn (s : State) (d : Nat) : Bool := bit (s.rd F.RST_PD_STAT.pd_on) d

/-- Core Ln gives work: enabled, present, not fenced. -/
def State.coreOk (s : State) (n : Nat) : Bool := n < s.nCores && s.domainOn (8 + n / 4) && !s.on F.MSF_MAP.absent n && !s.on F.MSF_STAT.fenced n
def State.spurOk (s : State) (n : Nat) : Bool := n < s.nSpur && s.domainOn (8 + n / 16) && !s.on F.SPR_MAP.absent n && !s.on F.SPR_STAT.fenced n

/-! ## The symbol code (R193, R194) -/

/-- Multiply in GF(2^8) with x^8 + x^4 + x^3 + x^2 + 1. -/
def gfMul (a b : Nat) : Nat :=
  ((List.range 8).foldl (fun (acc : Nat × Nat) i =>
    (if bit b i then acc.1 ^^^ acc.2 else acc.1, if acc.2 < 128 then 2 * acc.2 else (2 * acc.2) ^^^ 0x11D)) (0, a)).1

/-- α^k. -/
def gfPow : Nat → Nat
  | 0 => 1
  | k + 1 => gfMul (gfPow k) 2

/-- c(x) at `x` for symbols given from position 0 upward. -/
def gfEval (cs : List Nat) (x : Nat) : Nat := cs.foldr (fun c acc => c ^^^ gfMul acc x) 0

/-- Syndromes c(α^j), j = 0–3. -/
def syndromes (cs : List Nat) : List Nat := (List.range 4).map fun j => gfEval cs (gfPow j)

/-- The syndromes of an error `e` at position `i`. -/
def errSyn (n i e : Nat) : List Nat := (List.range n).map fun j => gfMul e (gfPow (i * j))

/-- Sum of two syndrome vectors. -/
def synAdd (a b : List Nat) : List Nat := a.zipWith (· ^^^ ·) b

/-- The syndrome of a poisoned word: 0xA5 in positions 34–37 (R194). -/
def poisonSyn : List Nat := [34, 35, 36, 37].foldl (fun a i => synAdd a (errSyn 4 i 0xA5)) [0, 0, 0, 0]

/-- Outcome of decoding a word (R194). -/
inductive Decoded where
  | clean
  | corrected (pos value : Nat)
  | poisoned
  | uncorrectable
  | tagMismatch
  deriving DecidableEq, Repr

/-- Classify a syndrome: `dram` words carry the tag in positions 32 and 33. -/
def classify (dram : Bool) (syn : List Nat) : Decoded :=
  if syn = [0, 0, 0, 0] then .clean
  else if syn = poisonSyn then .poisoned
  else
    match (List.range 38).find? fun i => errSyn 4 i (syn.headD 0) == syn with
    | some i =>
      if i = 32 ∨ i = 33 then (if dram then .tagMismatch else .uncorrectable)
      else .corrected i (syn.headD 0)
    | none => .uncorrectable

/-- Symbols of a word of `n` bytes, position 0 lowest. -/
def symbolsOf (n v : Nat) : List Nat := (List.range n).map fun i => v / 256 ^ i % 256

/-- A stored 36-symbol word (R193: 288 bits) as a codeword with tag symbols `t0`, `t1`. -/
def codewordOf (v t0 t1 : Nat) : List Nat :=
  let ss := symbolsOf 36 v
  ss.take 32 ++ [t0, t1] ++ ss.drop 32

/-- Decode a 288-bit SRAM word or NoC flit. -/
def decodeWord288 (v : Nat) : Decoded := classify false (syndromes (codewordOf v 0 0))

/-- Inverse in GF(2^8): a^254. -/
def gfInv (a : Nat) : Nat := (List.range 253).foldl (fun r _ => gfMul r a) a

/-- Check symbols 34–37 of a codeword with its other symbols given (R193): the four values that make c(α^j) = 0, by Lagrange
interpolation at the four positions. -/
def checkSymbols (cs : List Nat) : List Nat :=
  let syn := syndromes (cs ++ [0, 0, 0, 0])
  let xs := [34, 35, 36, 37].map gfPow
  (List.range 4).map fun k =>
    let xk := xs.getD k 0
    let num := (xs.eraseIdx k).foldl (fun g x => (g ++ [0]).zipWith (· ^^^ ·) (0 :: g.map fun c => gfMul c x)) [1]
    let den := (xs.eraseIdx k).foldl (fun d x => gfMul d (xk ^^^ x)) 1
    -- `num` lists the highest power first
    gfMul (gfInv den) ((num.reverse.zip syn).foldl (fun a y => a ^^^ gfMul y.1 y.2) 0)

/-- A 32-byte word as stored in SRAM or carried by a flit, poisoned or not (R193, R194). -/
def encodeWord288 (bs : List Byte) (poison : Bool) : Nat :=
  let ds := (List.range 32).map fun i => (bs.getD i 0).toNat
  let ck := (checkSymbols (ds ++ [0, 0])).map fun c => if poison then c ^^^ 0xA5 else c
  (ds ++ ck).foldr (fun c a => c + 256 * a) 0

/-- The line tag of R197. -/
def lineTag (key addr : Nat) : Nat :=
  key % 8192 + 8192 * (List.range 14).foldl (fun a i => a ^^^ (addr / 64 / 8 ^ i % 8)) 0

/-- Erasure decoding (R198): positions `er` of one codeword are erased; seven checks from four syndromes and three parity
values. True when a word with at most one further error results; then the position of that error. -/
def erasureOk (cs par : List Nat) (er : List Nat) : Bool × Option Nat :=
  let s7 := syndromes cs ++ ([4, 5, 6].zipWith (fun j p => gfEval cs (gfPow j) ^^^ p) par)
  -- the erasure locator, lowest coefficient first
  let loc := er.foldl (fun g i => (g ++ [0]).zipWith (· ^^^ ·) (0 :: g.map fun c => gfMul c (gfPow i))) [1]
  let t := [4, 5, 6].map fun j =>
    (List.range 5).foldl (fun a k => a ^^^ gfMul (loc.getD k 0) (s7.getD (j - k) 0)) 0
  if t = [0, 0, 0] then (true, none)
  else
    let hit := (List.range 38).find? fun i => !er.contains i && t.headD 0 != 0 &&
      t == [t.headD 0, gfMul (t.headD 0) (gfPow i), gfMul (gfMul (t.headD 0) (gfPow i)) (gfPow i)]
    (hit.isSome, hit)

/-! ## DRAM (R199–R203) -/

/-- Bytes of the reserved share of a channel, and channel capacity. -/
def State.rsvPerCh (s : State) : Nat := s.rd F.MEM_MAP.rsv_per_ch * 2 ^ 30
def State.capBytes (s : State) : Nat := s.rd F.MEM_MAP.cap_gib * 2 ^ 30
/-- A channel that came up at start-up; one lost later keeps its place (R203). -/
def State.chanUp (s : State) (m : Nat) : Bool :=
  m < s.nChan && (s.rd F.MEM_CH_STAT.state m < 2 || s.on F.MEM_CH_STAT.lost m)
def State.upChans (s : State) : List Nat := (List.range 24).filter s.chanUp
/-- A channel that answers. -/
def State.chanLive (s : State) (m : Nat) : Bool := s.rd F.MEM_CH_STAT.state m < 2 && !s.on F.MEM_CH_STAT.lost m

/-- Live channels of a partition (R200). -/
def State.liveChans (s : State) (p : Nat) : Nat := ([3 * p, 3 * p + 1, 3 * p + 2].filter s.chanLive).length
/-- Enough of a partition's own channels are up for a serving role and open rows (R200). -/
def State.serves (s : State) (p : Nat) : Bool := s.rd F.MEM_MAP.min_ch ≤ s.liveChans p

/-- Bytes of the reserved region. -/
def State.rsvBytes (s : State) : Nat := s.rd F.MEM_MAP.n_ent * s.rsvPerCh / 2

/-- The DRAM decode of R201: primary channel and offset, and the mirror in the reserved region. -/
def State.dramDecode (s : State) (a : Nat) : Option ((Nat × Nat) × Option (Nat × Nat)) :=
  let up := s.upChans
  let nUp := up.length
  let rp := s.rsvPerCh
  let cp := s.capBytes - rp
  let rsv := s.rsvBytes
  if a < rsv then
    if nUp * rp / 2 ≤ a then none
    else
      let q := a / 4096
      let o := q / nUp * 4096 + a % 4096
      some ((up.getD (q % nUp) 0, o), some (up.getD ((q + 1) % nUp) 0, rp / 2 + o))
  else
    let r := a - rsv
    if s.rd F.MEM_MAP.ilv_mode = 0 then
      if cp = 0 then none
      else
        let p := r / (3 * cp)
        let r := r % (3 * cp)
        let u := [3 * p, 3 * p + 1, 3 * p + 2].filter s.chanUp
        if s.nPart ≤ p || u.length * cp ≤ r then none
        else
          let q := r / 4096
          some ((u.getD (q % u.length) 0, rp + q / u.length * 4096 + r % 4096), none)
    else if nUp * cp ≤ r then none
    else
      let q := r / 4096
      some ((up.getD (q % nUp) 0, rp + q / nUp * 4096 + r % 4096), none)

/-- Channel that holds a DRAM address. -/
def State.chanOf (s : State) (a : Nat) : Option Nat := (s.dramDecode a).map fun x => x.1.1

/-- Where an address lies (R190, R191). -/
inductive Place where
  | unmapped
  | pad (n : Nat)
  | clSram (cl : Nat)
  | pinned (p : Nat)
  | bank (p : Nat)
  | regs
  | dram
  deriving DecidableEq, Repr

def State.place (s : State) (a : Nat) : Place :=
  if a < 0xF00000000000 then (if (s.dramDecode a).isSome then .dram else .unmapped)
  else if a < 0xF10000000000 then
    let n := (a - 0xF00000000000) / 0x800000
    if n < s.nCores && s.domainOn (8 + n / 4) && !s.on F.MSF_MAP.absent n && (a - 0xF00000000000) % 0x800000 < 0x600000 then .pad n else .unmapped
  else if a < 0xF20000000000 then
    let cl := (a - 0xF10000000000) / 0x800000
    if cl < s.nClusters && s.domainOn (8 + cl) then .clSram cl else .unmapped
  else if a < 0xFE0000000000 then
    let p := (a - 0xF20000000000) / 0x2000000
    if p < s.nPart && s.domainOn p then .pinned p else .unmapped
  else if a < 0xFF0000000000 then
    let p := (a - 0xFE0000000000) / 0x200000
    if p < s.nPart && s.domainOn p then .bank p else .unmapped
  else if a < 0xFF0000000000 + 0x1000000 then .regs
  else .unmapped

/-- The pages that `[a, a + n)` touches: enough to place every byte. -/
def pagesOf (a n : Nat) : List Nat :=
  if n = 0 then [] else (List.range ((a + n - 1) / 4096 - a / 4096 + 1)).map fun i => max a ((a / 4096 + i) * 4096)

/-- 64-byte lines and 32-byte words of a range. -/
def linesOf (a n : Nat) : List Nat :=
  if n = 0 then [] else (List.range ((a + n - 1) / 64 - a / 64 + 1)).map fun i => a / 64 + i
def wordsOf (a n : Nat) : List Nat :=
  if n = 0 then [] else (List.range ((a + n - 1) / 32 - a / 32 + 1)).map fun i => a / 32 + i

/-- The partition that on-die SRAM at an address belongs to. -/
def State.sramPart (s : State) (a : Nat) : Option Nat :=
  match s.place a with
  | .pad n => some (n / 16)
  | .clSram cl => some (cl / 4)
  | .pinned p | .bank p => some p
  | _ => none

/-- RST.PART_STAT counts a request that a reset absorbs (R452). -/
def State.noteAbsorb (s : State) (a status : Nat) : State :=
  match s.sramPart a with
  | some p => if status = St.resetAbort then s.bump F.RST_PART_STAT.absorb_cnt p else s
  | none => s

/-! ## Keys (R204–R206) -/

def KeySlot.zero : KeySlot := { epoch := 0, loaded := false, pend := false }
def State.key (s : State) (k : Nat) : KeySlot := kget s.keys k KeySlot.zero
/-- The device key. -/
def devKey : Nat := 8191

/-- K_root and K_boot (R465); a digest or key that is a byte string is a list of bytes. -/
def kRoot : List Byte := leBytes 32 Config.rootSecret
def State.kBoot (s : State) : List Byte := kdf kRoot "BOOT" (leBytes 32 (Config.free .bootSeed s.sec.bootNo)) 32

/-- The AES-256-XTS key of slot `k` at epoch `e`, and the prefix-tree key of scope `c` (R465, R466). -/
def State.memKey (s : State) (k e : Nat) : List Byte :=
  if k = devKey then kdf s.kBoot "DEVMEM" [] 64
  else if k < 4096 then kdf s.kBoot "SLICE" (leBytes 2 k ++ leBytes 4 e) 64
  else kdf s.kBoot "GROUP" (leBytes 2 (k - 4095) ++ leBytes 4 e) 64
def State.scopeKey (s : State) (c : Nat) : Nat := leVal (kdf s.kBoot "SCOPE" (leBytes 2 c ++ leBytes 4 (s.key c).epoch) 16)

/-- The migration key for an image's nonce (R406, R465). -/
def State.migKey (s : State) (nonce : List Byte) : List Byte := kdf (leBytes 32 s.sec.domVal) "MIGRATE" nonce 32

/-- The 16 bytes of DRAM at `a`, aligned, as they are stored: the ciphertext under the key of the line (R204, R205). -/
def State.cipher16 (s : State) (a k e : Nat) : List Byte := xtsBlock (s.memKey k e) (a / 64) (a / 16 % 4) (s.memRd a 16)

/-- Epoch of the lines that an earlier start-up wrote: no key of this one has it (R456). -/
def lostEpoch : Nat := 2 ^ 64

/-- How a line reads under key index `k` (R205): never written, under this key, under an earlier load of this index, or
under another index. -/
inductive LineRd where
  | plain
  | garbage
  | mismatch
  deriving DecidableEq, Repr

def State.lineRd (s : State) (line k : Nat) : LineRd :=
  match kfind s.lineKey line with
  | none => .plain
  | some (i, e) => if i ≠ k then .mismatch else if e = (s.key k).epoch then .plain else .garbage

/-- A fenced core's scratchpad answers ST_RESET_ABORT (R123). -/
def State.padFenced (s : State) (n : Nat) : Bool := s.on F.MSF_STAT.fenced n

/-- Status of an access to one page, before its data are looked at: absent structures, units being reset, empty keys, lost
channels (R123, R191, R203, R205, R452). -/
def State.pageStatus (s : State) (a k : Nat) : Nat :=
  match s.place a with
  | .unmapped => St.addrUnmapped
  | .pad n => if s.padFenced n || s.on F.RST_CL_STAT.suspended (n / 4) then St.resetAbort else St.ok
  | .clSram cl => if s.on F.RST_CL_STAT.suspended cl then St.resetAbort else St.ok
  | .pinned p | .bank p => if s.rd F.RST_PART_STAT.rst_state p ≠ 0 then St.resetAbort else St.ok
  | .dram =>
    if !(s.key k).loaded then St.regionFault
    else match s.dramDecode a with
      | none => St.addrUnmapped
      | some (p, m) =>
        if s.chanLive p.1 || (match m with | some q => s.chanLive q.1 | none => false) then St.ok
        else St.memUncorrectable
  | _ => St.ok

/-- Status of an access: that of the first page that refuses it. -/
def State.accStatus (s : State) (a n k : Nat) : Nat :=
  ((pagesOf a n).find? fun p => s.pageStatus p k != St.ok).elim St.ok fun p => s.pageStatus p k

def State.isDram (s : State) (a : Nat) : Bool := s.place a == .dram

/-- A place of a mirrored line does not answer with its data: its channel is lost, or it was found uncorrectable (R202, R203). -/
def State.copyBad (s : State) (l : Nat) (mirror : Bool) (place : Nat × Nat) : Bool :=
  s.badCopy.contains (l, mirror) || !s.chanLive place.1

/-- Neither place of a mirrored line answers (R202). -/
def State.mirrorsBad (s : State) (l : Nat) : Bool :=
  match s.dramDecode (l * 64) with
  | some (p, some q) => s.copyBad l false p && s.copyBad l true q
  | _ => false

/-- A read meets a poisoned word, a tag mismatch, or a line lost in both places (R194, R202). -/
def State.poisonedRd (s : State) (a n k : Nat) : Bool :=
  (wordsOf a n).any (fun w => s.poison.contains w) ||
  (s.isDram a && (linesOf a n).any fun l => s.lineRd l k == .mismatch || s.mirrorsBad l)

/-- Status of a read: the access, then its data. -/
def State.rdStatus (s : State) (a n k : Nat) : Nat :=
  let st := s.accStatus a n k
  if st ≠ St.ok then st else if s.poisonedRd a n k then St.memUncorrectable else St.ok

/-- What a read records: tag mismatches in the channel's count (R194). -/
def State.rdRecord (s : State) (a n k : Nat) : State :=
  if s.isDram a then
    (linesOf a n).foldl (fun s l =>
      if s.lineRd l k = .mismatch then s.bump F.MEM_CH_ERR.tag_cnt ((s.chanOf (l * 64)).getD 0) else s) s
  else s

/-- One byte as a reader under key `k` sees it: a line of an earlier epoch holds unpredictable data (R206). -/
def State.byteRd (s : State) (a k : Nat) : Byte :=
  if s.isDram a && s.lineRd (a / 64) k == .garbage then
    BitVec.ofNat 8 (Config.staleByte s.bring.boots (s.key k).epoch a)
  else Memory.byte s.mem a

/-- Bytes of a read that passed. -/
def State.load (s : State) (a n k : Nat) : List Byte := (List.range n).map fun i => s.byteRd (a + i) k

/-- The words that stay or become poisoned by a write of `n` bytes at `a` under key `k` (R195): a word wholly written is
clean; a partly written DRAM line under another key is poisoned where it was not written. -/
def State.poisonAfter (s : State) (a n k : Nat) : List Nat :=
  let full w := a ≤ w * 32 && w * 32 + 32 ≤ a + n
  let old := s.poison.filter fun w => !full w
  if s.isDram a then
    old ++ ((linesOf a n).flatMap fun l =>
      if s.lineRd l k = .mismatch || s.mirrorsBad l then [2 * l, 2 * l + 1].filter fun w => !full w && !old.contains w else [])
  else old

/-- Lines of an earlier epoch that a write covers in part: what their other bytes read as is written back with it (R196, R206). -/
def State.settleOld (s : State) (a n k : Nat) : State :=
  if s.isDram a then
    (linesOf a n).foldl (fun s l =>
      if s.lineRd l k = .garbage ∧ !within (l * 64) 64 a n then s.memWr (l * 64) (s.load (l * 64) 64 k) else s) s
  else s

/-- Write bytes at `a` under key `k`: contents, poison and line keys (R195, R205); both places of a mirrored line (R202). -/
def State.store (s : State) (a : Nat) (bs : List Byte) (k : Nat) : State :=
  let n := bs.length
  let ls := linesOf a n
  let lk := if s.isDram a then ls.foldl (fun m l => kset m l (k, (s.key k).epoch)) s.lineKey else s.lineKey
  ((((s.settleOld a n k).memWr a bs).withPoison (s.poisonAfter a n k)).withLineKey lk).withBadCopy
    (if s.isDram a then s.badCopy.filter fun x => !ls.contains x.1 else s.badCopy)

/-- Poison every word of a range. -/
def State.poisonRange (s : State) (a n : Nat) : State :=
  s.withPoison (s.poison ++ (wordsOf a n).filter fun w => !s.poison.contains w)

/-! ## Region descriptors (R207–R209) -/

/-- A key index that a slice's descriptors may name: its own, or that of a sharing group it is in now (R207). -/
def State.ownsKey (s : State) (sl k : Nat) : Bool :=
  k == sl || (4096 ≤ k && k ≤ 8190 && (kget s.groups (k - 4095) { exist := false, members := [] }).members.contains sl)

/-- A descriptor as the four words of R207; its key index is judged at each access, since membership changes. -/
def regionOf (w0 w1 w2 w3 : Nat) : Option Region :=
  let r : Region := {
    base := bits w0 47 0, nodeLo := bits w0 63 48, limit := bits w1 47 0, nodeHi := bits w1 63 48,
    key := bits w2 12 0, rd := bit w2 13, wr := bit w2 14, atm := bit w2 15, valid := bit w2 16 }
  if r.valid && bits w2 63 17 == 0 && w3 == 0 && r.base % 64 == 0 && r.limit % 64 == 0 && r.nodeLo ≤ r.nodeHi
  then some r else none

/-- The right an access needs. -/
inductive Right where
  | rd | wr | atm
  deriving DecidableEq, Repr

def Region.has (r : Region) : Right → Bool
  | .rd => r.rd
  | .wr => r.wr
  | .atm => r.atm

/-- A range that reaches into a KV arena of this device (R299): arenas are whole 4 MiB chunks. -/
def State.inArena (s : State) (a n : Nat) : Bool :=
  (List.range 8).any fun p => overlaps a n (s.rd F.KV_ARENA.base_4m p * 2 ^ 22) (s.rd F.KV_ARENA.len_4m p * 2 ^ 22)

/-- The region check (R208): the key index of the first descriptor that matches. On-die SRAM, the reserved region and, on
this device, the KV arenas are named by no region (R300). -/
def State.regionCheck (s : State) (sl g n : Nat) (right : Right) : Option Nat :=
  let node := g / 2 ^ 48
  let a := g % 2 ^ 48
  if 0xF00000000000 ≤ a + n - 1 || (a < s.rsvBytes || s.inArena a n) && node == s.rd F.FAB_CTRL.node_id then none
  else ((s.slice sl).regions.find? fun x =>
    x.2.nodeLo ≤ node && node ≤ x.2.nodeHi && x.2.base ≤ a && a + n ≤ x.2.limit && x.2.has right &&
    s.ownsKey sl x.2.key).map fun x => x.2.key

end Sys2Proof.Machine
end

