-- ==== Sys2Proof/Machine/Regs.lean ====
section
/-! DEFINITION. Register fields under a write (R15–R17, R80, R94, R125, R170, R220, R270, R295, R320, R378, R411, R429, R460,
R494): who may write which field, and what a write does by the field's access code. -/

namespace Sys2Proof.Machine

/-- Register blocks by BAR0 base (R381). -/
def inBlock (f : Field) (b : Nat) : Bool := b ≤ f.base && f.base < b + 0x100000
def blkTIME := 0x100000
def blkTICK := 0x200000
def blkMEM := 0x500000
def blkFH := 0x600000
def blkDFE := 0x700000
def blkSRV := 0x800000
def blkKV := 0x900000
def blkFAB := 0xA00000

/-- Slice windows of the model's register map lie from 2^32 upward, 64 KiB each. -/
def windowSlice (a : Nat) : Option Nat := if 2 ^ 32 ≤ a then some ((a - 2 ^ 32) / 65536) else none

/-- Fields below the DFE and FH blocks that share those blocks' addresses: both lie inside one MiB span each. -/
def isFhDfe (f : Field) : Bool := 0x600000 ≤ f.base && f.base < 0x800000

/-- The partition controller that is to lead (R33): the lowest-numbered one that is not withheld, off or held. -/
def State.leader (s : State) : Option Nat := (List.range 8).find? fun p => s.rd F.FW_PROC_STAT.pstate (pc p) < 2

/-- The placement coordinator: the one that leads, unless it is held down and leadership has not passed yet (R34). -/
def State.coordinator (s : State) : Option Nat := s.coord.filter fun p => s.rd F.FW_PROC_STAT.pstate (pc p) < 2

/-- Writer `w` may write instance `i` of field `f`. -/
def State.mayWrite (s : State) (w : Writer) (f : Field) (i : Nat) : Bool :=
  match w with
  | .host => f.host && decide (f.base < 2 ^ 32) && (3 ≤ s.rd F.RST_STAT.step || f.base == F.RST_DEV_CTRL.dev_rst.base)
  | .slice x => f.host && windowSlice (f.base + f.stride * i) == some x.val && s.sliceState x.val != unbound
  | .cairn => decide (f.base < 2 ^ 32) &&
      (!inBlock f blkTICK || f.base == F.TICK_OPEN_SHARE.open_share.base) &&
      (!inBlock f blkMEM || f.acc == .rw || f.acc == .wo || f.acc == .w1c)
  | .tc => inBlock f blkTIME
  | .fc => inBlock f blkFAB
  | .pc p => (f.pcDiv != 0 && i / f.pcDiv == p.val) || isFhDfe f

/-- The instances of a field in the 16 bytes from register address `a`, with the bit offset of each in the written value.
A 64-bit register takes bits [63:0] of the value; a 128-bit one takes all of it. -/
def Field.hits (f : Field) (a : Nat) : List (Nat × Nat) :=
  [0, 2, 4, 6].filterMap fun d =>
    let x := a + d
    if x < f.base then none
    else if f.stride = 0 then (if x = f.base ∧ d = 0 then some (0, f.lo) else none)
    else
      let i := (x - f.base) / f.stride
      if (x - f.base) % f.stride = 0 ∧ i < f.count ∧ (f.per = 0 ∨ i % f.per < f.lim) then some (i, 8 * d + f.lo) else none

/-- The effect of a write to one field, by its access code (R15, R17, R80). `v` is the written value from the field's lowest
bit on; bits above the field belong to other fields or are reserved (R16). -/
def State.writeField (s : State) (f : Field) (v i : Nat) : State :=
  let v := v % 2 ^ f.width
  match f.acc with
  | .rw => s.put f (f.limit v) i
  | .rs => s.stage f v i
  | .w1c => s.put f (s.rd f i &&& (2 ^ f.width - 1 - v)) i
  | .wo => s.put f v i
  | .ro => s

/-- A host write to a TICK register of a partition with an active cell is ignored (R94). -/
def State.cellOn (c : Cell) : Bool := c.st == .active || c.st == .lockPending
def State.cellActive (s : State) : Bool := s.cells.any fun c => State.cellOn c.2
def State.partActive (s : State) (p : Nat) : Bool := s.cells.any fun c => c.2.part == p && State.cellOn c.2

end Sys2Proof.Machine
end

