-- ==== Sys2Proof/Machine/Units.lean ====
section
/-! DEFINITION. The records of partitions, cores, cells, sequences and processors: their resting values, reads and writes,
and the small tests that several chapters use. -/

namespace Sys2Proof.Machine

def Part.zero : Part :=
  { col := [], wl := [], katDue := [], slots := [0, 0, 0, 0], recl := 0, work := [], next := none, await := false, hold := false, reproof := false, ends := [] }
def State.partOf (s : State) (p : Nat) : Part := kget s.parts p Part.zero
def State.setPart (s : State) (p : Nat) (x : Part) : State := s.withParts (kset s.parts p x)

def Core.zero : Core :=
  { run := none, fg := [], bg := [], fgSeed := none, wreg := [], bgTick := none, actRem := 0, gateRem := 0, image := [], copied := false, subst := none }
def State.core (s : State) (n : Nat) : Core := kget s.cores n Core.zero
def State.setCore (s : State) (n : Nat) (x : Core) : State := s.withCores (kset s.cores n x)

def Phys.zero : Phys := { bad := false, fenced := false, cause := 0, hangs := 0, spare := false }
/-- Key of core slot k of cluster cl, and of Spur position j. -/
def slotKey (cl k : Nat) : Nat := cl * 32 + k
def posKey (cl j : Nat) : Nat := 1024 + cl * 32 + j
def State.physOf (s : State) (k : Nat) : Phys := kget s.phys k Phys.zero
def State.setPhys (s : State) (k : Nat) (x : Phys) : State := s.withPhys (kset s.phys k x)

def State.proc (s : State) (i : Nat) : Proc := kget s.procs i Proc.zero
def State.setProc (s : State) (i : Nat) (x : Proc) : State := s.withProcs (kset s.procs i x)

/-- A partition of the ordering code. -/
def State.partOn (s : State) (p : Nat) : Bool := p < s.nPart

def State.cell? (s : State) (c : Nat) : Option Cell := kfind s.cells c
def State.setCell (s : State) (c : Nat) (x : Cell) : State := s.withCells (kset s.cells c x)

def State.setTime (s : State) (t : TimeState) : State := s.withTime t

/-- A sequence index, and its entry when it is not FREE (R276). -/
def State.seq? (s : State) (i : Nat) : Option Seq := (kfind s.seqs i).filter fun q => q.st != .free
def State.setSeq (s : State) (i : Nat) (q : Seq) : State := s.withSeqs (kset s.seqs i q)
/-- Change an entry that exists. -/
def State.modSeq (s : State) (i : Nat) (f : Seq → Seq) : State :=
  match kfind s.seqs i with
  | some q => s.setSeq i (f q)
  | none => s

/-- Ready has been declared (R434). -/
def State.ready (s : State) : Bool := s.on F.RST_STAT.ready

/-- Start condition of R66. -/
def State.startOk (s : State) : Bool :=
  (s.on F.TIME_STAT.stepped && (s.rd F.TIME_STAT.state == 2 || s.rd F.TIME_STAT.state == 3)) ||
  (s.rd F.TIME_CTRL.src_sel == 2 && s.rd F.TIME_STAT.state == 0)

/-- Clear the bits of a mask. -/
def State.clrf (s : State) (f : Field) (m : Nat) (i : Nat := 0) : State := s.put f (s.rd f i - (s.rd f i &&& m)) i

/-! ## Log rings (R426–R428) -/

/-- Bytes of the data area. -/
def logArea : Nat := 65472

/-- Append one record as it is. -/
def State.logPut (s : State) (i tp sev len data : Nat) : State :=
  let p := s.proc i
  let full := p.wrOff + len = logArea
  s.setProc i { p with
    log := ({ tp := tp, sev := sev, rseq := p.rseq, ctime := s.compare, len := len, data := data } :: p.log).take 4092
    wrOff := if full then 0 else p.wrOff + len
    wraps := if full then (p.wraps + 1) % 2 ^ 32 else p.wraps
    rseq := (p.rseq + 1) % 2 ^ 32 }

/-- Record trace point `tp` of processor `i` with a payload of 8-byte words: severities 0 and 1 always, others while the mask
has the point. A record that does not fit before the end follows a pad record. -/
def State.logRec (s : State) (i tp sev : Nat) (words : List Nat) : State :=
  if 2 ≤ sev ∧ bit (s.rd F.FW_TP_MASK.tp_en (16 * i + tp / 64)) (tp % 64) = false then s
  else
    let len := roundUp (16 + 8 * words.length) 16
    let s := if logArea < (s.proc i).wrOff + len then s.logPut i 0 7 (logArea - (s.proc i).wrOff) 0 else s
    s.logPut i tp sev len (words.foldr (fun w a => w % 2 ^ 64 + 2 ^ 64 * a) 0)

/-- Word `k` of a record (R427). A pad record's rest reads 0. -/
def LogRec.word (r : LogRec) (k : Nat) : Nat :=
  match k with
  | 0 => r.len + r.tp * 2 ^ 16 + r.sev * 2 ^ 26 + r.rseq * 2 ^ 32
  | 1 => r.ctime
  | k + 2 => r.data / 2 ^ (64 * k) % 2 ^ 64

/-- The word at offset `o` of the data area: of the newest record that covers it. `e` is where the first record of the list ends. -/
def logWordAt : List LogRec → Nat → Nat → Nat
  | [], _, _ => 0
  | r :: rs, e, o =>
    let e := if e = 0 then logArea else e
    if e - r.len ≤ o ∧ o < e then r.word ((o - (e - r.len)) / 8) else logWordAt rs (e - r.len) o

/-- The word at offset `o` of the log ring of processor `i`: its header of 64 bytes, then the data area (R426). -/
def State.logWord (s : State) (i o : Nat) : Nat :=
  let p := s.proc i
  if o = 0 then p.wrOff + p.wraps * 2 ^ 32
  else if o = 8 then p.rseq + i * 2 ^ 32
  else if o = 16 then p.boots
  else if o < 64 then 0
  else logWordAt p.log p.wrOff (o - 64)

/-- Trace point of the placement log, in the numbers of PC0–PC7 (R428 leaves it to the firmware release; DESIGN CHOICE, log 97). -/
def placementPoint : Nat := 320

/-- A change due at a step boundary of partition `p` that an earlier one has made pointless is dropped and recorded (R36): its kind and what
it was for. -/
def State.dropChange (s : State) (p kind what : Nat) : State := s.logRec (pc p) placementPoint 1 [kind, what]

end Sys2Proof.Machine
end

