-- ==== Sys2Proof/Machine/Pages.lean ====
section
/-! DEFINITION. KV pages (R297–R319): arenas, chunks and free lists, frame records, the prefix tree with its hash, forks
and the release of a page list. -/

namespace Sys2Proof.Machine

/-! ## Frames (R299–R305) -/

/-- Arena of partition p in 4 MiB chunks: first chunk and count. -/
def State.arena (s : State) (p : Nat) : Nat × Nat := (s.rd F.KV_ARENA.base_4m p, s.rd F.KV_ARENA.len_4m p)
/-- Partition whose arena holds a frame. -/
def State.framePart (s : State) (f : Nat) : Option Nat :=
  (List.range 8).find? fun p => (s.arena p).1 ≤ f / 64 && f / 64 < (s.arena p).1 + (s.arena p).2

def Frame.zero : Frame :=
  { refs := 0, key := 0, cls := 0, alloc := false, tree := false, hosted := false, owned := false, owner := 0,
    lastRead := 0 }
def State.frame (s : State) (f : Nat) : Frame := kget s.frames f Frame.zero
def State.setFrame (s : State) (f : Nat) (x : Frame) : State := s.withFrames (kset s.frames f x)

/-- Free frames of class c in partition p, top first. -/
def State.freeList (s : State) (p c : Nat) : List Nat := kget s.freeLists (8 * p + c) []
def State.setFreeList (s : State) (p c : Nat) (l : List Nat) : State :=
  s.withFreeLists (kset s.freeLists (8 * p + c) l)

/-- KV.FREE after frames of `n` 64 KiB units and `c` chunks were taken (negative: returned). -/
def State.takeFree (s : State) (p : Nat) (n c : Int) : State :=
  (s.put F.KV_FREE.free_64k ((s.rd F.KV_FREE.free_64k p : Int) - n).toNat p).put F.KV_FREE.chunks_free
    ((s.rd F.KV_FREE.chunks_free p : Int) - c).toNat p

/-- Take a frame of class c (R303): the top of the list, else the lowest free chunk. -/
def State.allocFrame (s : State) (p c : Nat) : Option (Nat × State) :=
  match s.freeList p c with
  | f :: rest =>
    let ch := kget s.chunks (f / 64) (c, 0)
    some (f, (((s.setFreeList p c rest).takeFree p (2 ^ c) 0).withChunks (kset s.chunks (f / 64) (ch.1, ch.2 - 1))))
  | [] =>
    let a := s.arena p
    match (span a.1 a.2).find? fun k => (kfind s.chunks k).isNone with
    | none => none
    | some k =>
      let n := 64 / 2 ^ c
      let fs := (List.range n).map fun i => k * 64 + i * 2 ^ c
      some (k * 64, (((s.setFreeList p c fs.tail.reverse).takeFree p (2 ^ c) 1).withChunks (kset s.chunks k (c, n - 1))))

/-- A freed frame goes back to its lists (R303); under a scope that waits for a new key it is held (R319). -/
def State.freeFrame (s : State) (f : Nat) : State :=
  let x := s.frame f
  let s := if x.owned then s.put F.KV_QUOTA.used_64k (s.rd F.KV_QUOTA.used_64k x.owner - 2 ^ x.cls) x.owner else s
  let s := s.setFrame f { x with refs := 0, alloc := false, tree := false, hosted := false, owned := false }
  if s.scopesDead.contains x.key then s.withHeldFrames (s.heldFrames ++ [f])
  else match s.framePart f with
    | none => s
    | some p =>
      let ch := kget s.chunks (f / 64) (x.cls, 0)
      let s := s.takeFree p (-(2 ^ x.cls : Nat)) 0
      if ch.2 + 1 = 64 / 2 ^ x.cls then
        ((s.setFreeList p x.cls ((s.freeList p x.cls).filter fun g => g / 64 != f / 64)).takeFree p 0 (-1)).withChunks (kdel s.chunks (f / 64))
      else
        (s.setFreeList p x.cls (f :: s.freeList p x.cls)).withChunks (kset s.chunks (f / 64) (ch.1, ch.2 + 1))

/-- One reference fewer; a frame without references is freed. -/
def State.decRef (s : State) (e : PageEnt) : State :=
  if e.remote then s
  else
    let x := s.frame e.frame
    if x.refs ≤ 1 then s.freeFrame e.frame else s.setFrame e.frame { x with refs := x.refs - 1 }
def State.incRef (s : State) (e : PageEnt) : State :=
  if e.remote then s else s.setFrame e.frame { s.frame e.frame with refs := (s.frame e.frame).refs + 1 }

/-- Scope and key index of a sequence (R301). -/
def scopeOf (q : Seq) : Nat := if q.group = 0 then q.slice else 4095 + q.group

/-- Allocate `n` frames of class c in partition p for slice sl under key k, charged to the slice; nothing unless all are
granted. The answer of a failure: 0 arena, 1 quota (R305, R313). -/
def State.allocMany (s : State) (p c sl k : Nat) (charge : Bool) : Nat → Except Nat (List PageEnt × State)
  | 0 => .ok ([], s)
  | n + 1 =>
    if charge && s.rd F.KV_QUOTA.quota_64k sl < s.rd F.KV_QUOTA.used_64k sl + 2 ^ c then .error 1
    else match s.allocFrame p c with
      | none => .error 0
      | some (f, s) =>
        let s := s.setFrame f { Frame.zero with
          refs := 1, key := k, cls := c, alloc := true, owned := charge, owner := sl, lastRead := (s.tickNow % 2 ^ 32).toNat }
        let s := if charge then s.put F.KV_QUOTA.used_64k (s.rd F.KV_QUOTA.used_64k sl + 2 ^ c) sl else s
        match s.allocMany p c sl k charge n with
        | .ok (es, s) => .ok ({ frame := f, node := s.rd F.FAB_CTRL.node_id, remote := false, cls := c } :: es, s)
        | .error e => .error e

/-! ## The prefix tree (R306–R310) -/

/-- SipRound. -/
def sipRound (v : Word × Word × Word × Word) : Word × Word × Word × Word :=
  let (v0, v1, v2, v3) := v
  let v0 := v0 + v1
  let v1 := v1.rotateLeft 13 ^^^ v0
  let v0 := v0.rotateLeft 32
  let v2 := v2 + v3
  let v3 := v3.rotateLeft 16 ^^^ v2
  let v0 := v0 + v3
  let v3 := v3.rotateLeft 21 ^^^ v0
  let v2 := v2 + v1
  let v1 := v1.rotateLeft 17 ^^^ v2
  let v2 := v2.rotateLeft 32
  (v0, v1, v2, v3)

/-- SipHash-1-3 of whole 64-bit words under a 128-bit key. -/
def sipHash13 (key : Nat) (ms : List Word) : Word :=
  let k0 : Word := BitVec.ofNat 64 key
  let k1 : Word := BitVec.ofNat 64 (key / 2 ^ 64)
  let last : Word := BitVec.ofNat 64 (8 * ms.length % 256 * 2 ^ 56)
  let v := (ms ++ [last]).foldl (fun v m =>
      let w := sipRound (v.1, v.2.1, v.2.2.1, v.2.2.2 ^^^ m)
      (w.1 ^^^ m, w.2.1, w.2.2.1, w.2.2.2))
    (k0 ^^^ 0x736f6d6570736575#64, k1 ^^^ 0x646f72616e646f6d#64, k0 ^^^ 0x6c7967656e657261#64, k1 ^^^ 0x7465646279746573#64)
  let v := sipRound (sipRound (sipRound (v.1, v.2.1, v.2.2.1 ^^^ 0xff, v.2.2.2)))
  v.1 ^^^ v.2.1 ^^^ v.2.2.1 ^^^ v.2.2.2

/-- Delta key of a sequence (R306). -/
def dkeyOf (q : Seq) : Nat := if q.deltaEn then q.deltaVer + 1 else 0

/-- The chained hash of page i (R306). -/
def State.pageHash (s : State) (q : Seq) (i : Nat) (prev : Word) : Word :=
  let toks := (q.toks.drop (256 * i)).take 256
  let words := (List.range 128).map fun j => BitVec.ofNat 64 (toks.getD (2 * j) 0 % 2 ^ 32 + 2 ^ 32 * toks.getD (2 * j + 1) 0)
  sipHash13 (s.scopeKey (scopeOf q))
    (prev :: BitVec.ofNat 64 (q.model % 2 ^ 32 + 2 ^ 32 * dkeyOf q) :: words)

/-- A node that matches a page of `q` with hash `h` whose parent is `par` (none: page 0) (R307). -/
def State.findNode (s : State) (q : Seq) (h : Word) (par : Option Nat) : Option Nat :=
  (s.nodes.find? fun kv =>
    let n := kv.2
    n.hash == h && n.scope == scopeOf q && n.model == q.model && n.dkey == dkeyOf q &&
      (match par with | none => n.root | some x => !n.root && n.parent == x)).map (·.1)

def State.lruOf (s : State) (p : Nat) : List Nat := kget s.lru p []
def State.setLru (s : State) (p : Nat) (l : List Nat) : State := s.withLru (kset s.lru p l)
def State.setNode (s : State) (n : Nat) (x : Node) : State := s.withNodes (kset s.nodes n x)

/-- A node without users and children joins its reclamation list: at the head when its last child was dropped (R310). -/
def State.settleNode (s : State) (n : Nat) (head : Bool) : State :=
  match kfind s.nodes n with
  | none => s
  | some x =>
    let l := (s.lruOf x.part).filter (· != n)
    if x.users = 0 ∧ x.children = 0 then s.setLru x.part (if head then n :: l else l ++ [n]) else s.setLru x.part l

/-- A page list takes or gives up a node (R308, R318). -/
def State.useNode (s : State) (n : Nat) (up : Bool) : State :=
  match kfind s.nodes n with
  | none => s
  | some x => (s.setNode n { x with users := if up then x.users + 1 else x.users - 1 }).settleNode n false

/-- Drop a node (R310). -/
def State.dropNode (s : State) (n : Nat) : State :=
  match kfind s.nodes n with
  | none => s
  | some x =>
    let s := s.setLru x.part ((s.lruOf x.part).filter (· != n))
    let s := s.withNodes (kdel s.nodes n)
    let s := s.put F.KV_STAT.nodes_used (s.rd F.KV_STAT.nodes_used - 1)
    let s := s.bump F.KV_RECL.dropped x.part
    let s := x.frames.foldl (fun s e => (s.setFrame e.frame { s.frame e.frame with tree := false }).decRef e) s
    if x.root then s
    else match kfind s.nodes x.parent with
      | none => s
      | some y => (s.setNode x.parent { y with children := y.children - 1 }).settleNode x.parent true

/-- Drop every node that a test names (R319, R345); children fall with their parents, whatever the order. -/
def State.dropNodes (s : State) (t : Node → Bool) : State :=
  let gone := (s.nodes.filter fun kv => t kv.2).map (·.1)
  let s := gone.foldl State.dropNode s
  s.withSeqs (kmapv s.seqs fun _ q => { q with nodes := q.nodes.filter fun n => !gone.contains n })

/-- The walk of R308: match pages i, i + 1, … while they match and room is left. -/
def State.lookupFrom (s : State) (idx : Nat) (lim : Nat) : Nat → Nat → Word → Option Nat → State
  | 0, _, _, _ => s
  | fuel + 1, i, prev, par =>
    match kfind s.seqs idx with
    | none => s
    | some q =>
      if lim ≤ i then s
      else
        let h := s.pageHash q i prev
        match s.findNode q h par with
        | none => s
        | some n =>
          match kfind s.nodes n with
          | none => s
          | some x =>
            if x.frames.any fun e => 65535 ≤ (s.frame e.frame).refs then s
            else
              let s := x.frames.foldl State.incRef s
              let s := s.setNode n { x with lastUse := (s.tickNow % 2 ^ 32).toNat }
              let s := s.useNode n true
              let s := s.bump F.KV_SHARE.hits q.part
              let s := s.setSeq idx { q with pages := q.pages ++ x.frames, nodes := q.nodes ++ [n], len := 256 * (i + 1) }
              s.lookupFrom idx lim fuel (i + 1) h (some n)

/-- Prefix lookup of an admitted sequence (R308). -/
def State.lookup (s : State) (idx : Nat) : State :=
  match kfind s.seqs idx with
  | none => s
  | some q =>
    let lim := if q.maxNew = 0 then q.promptLen / 256 else (q.promptLen - 1) / 256
    let s := if s.on F.KV_CTRL.tree_en then s.lookupFrom idx lim lim 0 0 none else s
    s.modSeq idx fun q => { q with lookupDone := true }

/-- Hash of page i of `q`, from page 0, and the node of that page (R306, R307). -/
def State.hashAt (s : State) (q : Seq) : Nat → Word
  | 0 => s.pageHash q 0 0
  | i + 1 => s.pageHash q (i + 1) (s.hashAt q i)
def State.nodeAt (s : State) (q : Seq) : Nat → Option Nat
  | 0 => s.findNode q (s.hashAt q 0) none
  | i + 1 => (s.nodeAt q i).bind fun n => s.findNode q (s.hashAt q (i + 1)) (some n)

/-- Lowest node index not in use. -/
def State.freeNode (s : State) : Nat :=
  s.nodes.foldl (fun n kv => if kv.1 = n then n + 1 else n) 0

/-- Offer full page i of a sequence (R309): whether later pages may still be offered. -/
def State.offerPage (s : State) (idx lg i : Nat) : State × Bool :=
  match kfind s.seqs idx with
  | none => (s, false)
  | some q =>
    let h := s.hashAt q i
    let par := if i = 0 then none else s.nodeAt q (i - 1)
    let ents := (q.pages.drop (i * lg)).take lg
    if i ≠ 0 ∧ par.isNone then (s, false)
    else if ents.any fun e => e.remote || s.framePart e.frame == none then (s, true)
    else if (s.findNode q h par).isSome then (s, true)
    else
      let s := if s.nodes.length < 16777216 then s else match s.lruOf q.part with
        | n :: _ => s.dropNode n
        | [] => s
      if 16777216 ≤ s.nodes.length then (s.put F.KV_STAT.ins_skip 1, true)
      else if par.any fun x => (kfind s.nodes x).isNone then (s, false)
      else
        let n := s.freeNode
        let s := ents.foldl (fun s e => s.setFrame e.frame { s.frame e.frame with tree := true, refs := (s.frame e.frame).refs + 1 }) s
        let s := s.setNode n {
          hash := h, parent := par.getD 0, root := i == 0, scope := scopeOf q, model := q.model, dkey := dkeyOf q, part := q.part, frames := ents, lastUse := (s.tickNow % 2 ^ 32).toNat, children := 0, users := 1 }
        let s := match par with
          | none => s
          | some x => match kfind s.nodes x with
            | none => s
            | some y => (s.setNode x { y with children := y.children + 1 }).settleNode x false
        let s := s.put F.KV_STAT.nodes_used (s.rd F.KV_STAT.nodes_used + 1)
        (s.modSeq idx fun q => { q with nodes := q.nodes ++ [n] }, true)

/-- Offer the pages that became full between two lengths. -/
def State.offerPages (s : State) (idx lg old new : Nat) : State :=
  if s.on F.KV_CTRL.tree_en then
    ((span (old / 256) (new / 256 - old / 256)).foldl (fun (r : State × Bool) i =>
      if r.2 then r.1.offerPage idx lg i else r) (s, true)).1
  else s

/-! ## Page lists (R316, R318) -/

/-- Release a page list and its node references (R318). -/
def State.releasePages (s : State) (idx : Nat) : State :=
  match kfind s.seqs idx with
  | none => s
  | some q =>
    let s := q.pages.foldl State.decRef s
    let s := q.nodes.foldl (fun s n => s.useNode n false) s
    let s := match q.moveTo with
      | some (_, es) => es.foldl State.decRef s
      | none => s
    s.modSeq idx fun q => { q with pages := [], nodes := [], moveTo := none }

/-- Page-list entries that a sequence of `new` tokens lacks (R311), and shared frames that a pass writes (R317). -/
def newEntries (q : Seq) (lg new : Nat) : List Nat := span q.pages.length (ceilDiv new 256 * lg - q.pages.length)
def State.sharedWrites (s : State) (q : Seq) (lg new : Nat) : List Nat :=
  (span (q.len / 256 * lg) (min q.pages.length (ceilDiv new 256 * lg) - q.len / 256 * lg)).filter fun k =>
    match q.pages[k]? with
    | some e => !e.remote && 1 < (s.frame e.frame).refs
    | none => false

end Sys2Proof.Machine
end

