-- ==== Sys2Proof/Machine/Attn.lean ====
section
/-! DEFINITION. Attention (R322–R330): which device or core holds which pages of a sequence, and how partial results combine. -/

namespace Sys2Proof.Machine

/-! ## Partial results (R325) -/

/-- Quotient, with a last bit that keeps the rounding right. -/
def Num.quot : Num → Num → Num
  | .fin s m e, .fin t n f =>
    if n = 0 then (if m = 0 then .nan else .inf (s != t))
    else
      let q := m * 2 ^ 64 / n
      .fin (s != t) (2 * q + b2n (q * n != m * 2 ^ 64)) (e - f - 65)
  | .inf s, .fin t _ _ => .inf (s != t)
  | .fin s _ _, .inf t => .fin (s != t) 0 0
  | _, _ => .nan

/-- Operations on binary32 codes, rounded to nearest. -/
def f32op (f : Num → Num → Num) (a b : Nat) : Nat := fp32.encode .rne false (f (fp32.decode a) (fp32.decode b))
def f32add : Nat → Nat → Nat := f32op Num.add
def f32mul : Nat → Nat → Nat := f32op Num.mul
def f32sub (a b : Nat) : Nat := f32op (fun x y => x.add y.neg) a b
def f32div : Nat → Nat → Nat := f32op Num.quot

/-- The larger of two binary32 codes that are no NaN. -/
def f32max (a b : Nat) : Nat :=
  match fp32.decode (f32sub a b) with
  | .fin true m _ => if m = 0 then a else b
  | .inf true => b
  | _ => a

/-- Order of two binary32 codes that are no NaN. -/
def Num.negative : Num → Bool
  | .fin s m _ => s && m != 0
  | .inf s => s
  | .nan => false
def f32lt (a b : Nat) : Bool := ((fp32.decode a).add (fp32.decode b).neg).negative

/-- `u < p / q`, without rounding (R333). -/
def f32accept (u p q : Nat) : Bool := (((fp32.decode u).mul (fp32.decode q)).add (fp32.decode p).neg).negative

def Partial.identity (n : Nat) : Partial := { m := 0xFF800000, l := 0, o := List.replicate n 0 }

/-- A sum of exponentials that is zero. -/
def f32zero (v : Nat) : Bool := v % 2 ^ 31 == 0

/-- `merge(x, y)` of R325: `x` so far, `y` the next in order. -/
def Partial.merge (x y : Partial) : Partial :=
  if f32zero y.l then x
  else if f32zero x.l then y
  else
    let m := f32max x.m y.m
    let a := Config.expF32 (f32sub x.m m)
    let b := Config.expF32 (f32sub y.m m)
    let mix (u v : Nat) : Nat := f32add (f32mul a u) (f32mul b v)
    { m := m, l := mix x.l y.l, o := (x.o.zip y.o).map fun p => mix p.1 p.2 }

/-- Partials of units `0, 1, …, n − 1` combined in that order: ring order with the home device first, or ascending cores (R327,
R328, R330). A unit without a result gives the identity. -/
def combine (n : Nat) (ps : KMap Partial) : Partial :=
  let d := (ps.head?).elim 0 fun x => x.2.o.length
  (List.range n).foldl (fun x i => x.merge (kget ps i (Partial.identity d))) (Partial.identity d)

/-- The row's output, o / l. -/
def Partial.out (x : Partial) : List Nat := x.o.map fun v => f32div v x.l

/-! ## Rings (R326–R328) -/

/-- Pages of a prompt. -/
def promptPages (q : Seq) : Nat := ceilDiv q.promptLen 256

/-- Members of the ring of a prompt of `p` pages. -/
def ringSize (md : Model) (p : Nat) : Nat := min md.ringMax (ceilDiv p md.ringBlkPg)

def State.ownNode (s : State) : Nat := s.rd F.FAB_CTRL.node_id

/-- The ring of a new sequence: this device at position 0, then the other members in the order of the member list, the ring order of the
placement engine (DESIGN CHOICE, log 107). -/
def State.ringOf (s : State) (md : Model) (promptLen : Nat) : List Nat :=
  if md.attnMode = 1 then
    (s.ownNode :: s.members.filter (· != s.ownNode)).take (max 1 (ringSize md (ceilDiv promptLen 256)))
  else []

/-- Members of a sequence's ring; 1 where it has none. -/
def Seq.width (q : Seq) : Nat := max 1 q.ringNodes.length

/-- Pages of chunk `c`, and its first page. -/
def chunkPages (p m c : Nat) : Nat := p / (2 * m) + b2n (c < p % (2 * m))
def chunkFirst (p m c : Nat) : Nat := c * (p / (2 * m)) + min c (p % (2 * m))

/-- Chunks of member `i`, and its pages. -/
def memberChunks (m i : Nat) : List Nat := [i, 2 * m - 1 - i]
def memberPages (p m i : Nat) : List Nat := (memberChunks m i).flatMap fun c => span (chunkFirst p m c) (chunkPages p m c)

/-- Ring position that holds a page: what lies beyond the prompt stays at home (R328). -/
def Seq.holder (q : Seq) (page : Nat) : Nat :=
  ((List.range q.width).find? fun i => (memberPages (promptPages q) q.width i).contains page).getD 0

/-- Node of a ring position, when it is another device. -/
def Seq.holderNode (q : Seq) (page : Nat) : Option Nat := if q.holder page = 0 then none else q.ringNodes[q.holder page]?

/-- Tokens by which a pass of `rows` rows here advances: in a ring every member processes its share (R327). -/
def Seq.advance (q : Seq) (rows : Nat) : Nat := if q.len < q.promptLen then min (q.promptLen - q.len) (rows * q.width) else rows

/-- Frames of the two transit buffers of a prefill pass in a ring of more than one member: each one block of one layer, for one layer in
progress (R327; DESIGN CHOICE, log 107). -/
def Seq.transitNeed (q : Seq) (md : Model) (rows : Nat) : Nat :=
  if q.len < q.promptLen ∧ 1 < q.width ∧ q.transit = [] then 2 * ceilDiv (rows * md.kvBytes) (2 ^ md.frameLog2) else 0

/-! ## Runs of cores (R330) -/

/-- Pages of run `j` of `n` pages over `k` cores: contiguous, the earlier runs one page longer. -/
def splitRun (n k j : Nat) : List Nat := span (j * (n / k) + min j (n % k)) (n / k + b2n (j < n % k))

/-- The pages that each unit of a sequence attends to: ring members, cores, or the one device. -/
def attnUnits (md : Model) (q : Seq) : List (List Nat) :=
  let n := ceilDiv q.len 256
  match md.attnMode with
  | 1 => (List.range q.width).map fun i => (List.range n).filter fun p => q.holder p == i
  | 2 => (List.range md.splitCores).map (splitRun n md.splitCores)
  | _ => [List.range n]

/-- Give the transit buffers of a sequence back (R327). -/
def State.freeTransit (s : State) (i : Nat) : State :=
  match kfind s.seqs i with
  | none => s
  | some q => if q.transit = [] then s else (q.transit.foldl State.decRef s).modSeq i fun q => { q with transit := [] }

/-- Page-list blocks in use (R304). -/
def State.blocksUsed (s : State) : Nat := s.seqs.foldl (fun a x => a + ceilDiv x.2.pages.length 31) 0

/-- A page list may grow from `a` to `b` entries. -/
def State.blocksOk (s : State) (a b : Nat) : Bool :=
  ceilDiv b 31 ≤ ceilDiv a 31 || s.blocksUsed + (ceilDiv b 31 - ceilDiv a 31) ≤ Config.ptBlocks

end Sys2Proof.Machine
end

