-- ==== Sys2Proof/Machine/Serve.lean ====
section
/-! DEFINITION. Sequences (R273–R296, R316–R319, R331–R338): counters, freezes and notices, forks, endings, the entries of
the table, and the commit of a pass. -/

namespace Sys2Proof.Machine

/-! ## Counters and charging (R292, R293) -/

/-- Charge a quantity of a tile: each slice by its rows, the remainder to the slice named first (R293). -/
def State.charge (s : State) (rows : List (Nat × Nat)) (first : Nat) (ks : List Nat) (q : Nat) : State :=
  let rs := rows.map fun r => (((kfind s.seqs r.1).map (·.slice)).getD first, r.2)
  let n := rs.foldl (fun a r => a + r.2) 0
  if n = 0 then s
  else
    let sls := (rs.map (·.1)).dedup
    let parts := sls.map fun sl => (sl, q * ((rs.filter fun r => r.1 == sl).foldl (fun a r => a + r.2) 0) / n)
    let rest := q - parts.foldl (fun a r => a + r.2) 0
    ks.foldl (fun s k => (parts.foldl (fun s r => s.count r.1 k r.2) s).count first k rest) s

/-! ## Handles, notices, freezes (R274, R277, R278, R389) -/

def seqRing (q : Seq) : Nat := 16 * q.slice + q.ring

/-- An index of the table. -/
def seqMax : Nat := 262144

/-- Generation of an entry. -/
def State.gen (s : State) (i : Nat) : Nat := ((kfind s.seqs i).map (·.gen)).getD 0
def State.handle (s : State) (i : Nat) : Nat := i + 2 ^ 18 * s.gen i

/-- The entry that a handle of slice sl names (R274, R391). -/
def State.byHandle (s : State) (sl h : Nat) : Option (Nat × Seq) :=
  match s.seq? (h % 2 ^ 18) with
  | some q => if q.slice = sl ∧ s.gen (h % 2 ^ 18) = h / 2 ^ 18 ∧ q.held = false ∧ q.branch = 0 then some (h % 2 ^ 18, q) else none
  | none => none

/-- Post a NOTICE for a sequence (R389). -/
def State.seqNotice (s : State) (i status : Nat) (detail : Nat := 0) : State :=
  match s.seq? i with
  | some q => s.notice (seqRing q) (mkEntry q.token status 3 0x01 (s.handle i) detail 0)
  | none => s

/-- Freeze an entry (R277): `resume` is the state to return to. -/
def State.freezeNow (s : State) (i cause : Nat) : State :=
  s.modSeq i fun q =>
    match q.st with
    | .free | .ending => q
    | .frozen => { q with frzCause := if cause = 6 then 6 else q.frzCause, freezeReq := none }
    | .pageWait => { q with st := .frozen, frzCause := cause, freezeReq := none }
    | st => { q with st := .frozen, resume := st, frzCause := cause, freezeReq := none }

/-- Freeze with the notice of a cause (R389). -/
def State.freezeNotice (s : State) (i cause status : Nat) (detail : Nat := 0) : State :=
  match s.seq? i with
  | some q => if q.st = .ending then s else (s.freezeNow i cause).seqNotice i status detail
  | none => s

/-- Ask for a freeze at the next step boundary (R277, R278): lost data outranks every other cause. -/
def State.askFreeze (s : State) (i cause : Nat) (status : Nat := St.ok) : State :=
  s.modSeq i fun q => match q.freezeReq with
    | some (6, st) => { q with freezeReq := some (6, st) }
    | _ => { q with freezeReq := some (cause, status) }

/-- A freeze takes effect at the step boundary; a slice freeze waits for a copy of a move (R278). -/
def State.applyFreeze (s : State) (i : Nat) : State :=
  match s.seq? i with
  | none => s
  | some q =>
    match q.freezeReq with
    | none => s
    | some (c, st) =>
      if q.st = .moving ∧ q.moveTo.isSome ∧ c = 1 then s
      else if st = St.ok then s.freezeNow i c
      else s.freezeNotice i c st

/-! ## Cancellation and ending (R32, R277, R318, R394) -/

/-- Mark for cancellation. -/
def State.askCancel (s : State) (i : Nat) : State :=
  s.modSeq i fun q => if q.st = .free ∨ q.st = .ending then q else { q with cancelPend := true }

/-- The sequence is in a pass that has ended and has not committed: its tokens are posted first (R32). -/
def State.passDue (s : State) (i : Nat) : Bool := s.passes.any fun x => x.ended && !x.again && x.seqs.contains i

/-- Copies of a sequence's pages that have not committed are abandoned, and the frames they were to take return: a move's and those of
spills (R32). -/
def State.dropCopies (s : State) (i : Nat) (q : Seq) : State :=
  let s := match q.moveTo with
    | some (d, es) => es.foldl State.decRef (s.dropChange d 1 (s.handle i))
    | none => s
  let mine := s.spills.filter fun x => x.seq == some i
  mine.foldl (fun s x => x.new.foldl State.decRef (s.dropChange x.src 2 (s.handle i)))
    (s.withSpills (s.spills.filter fun x => x.seq != some i))

/-- Apply a cancellation (R32): the entry enters ENDING with its status; copies and a freeze that it makes pointless are dropped. -/
def State.applyCancel (s : State) (i : Nat) : State :=
  match s.seq? i with
  | none => s
  | some q =>
    if q.cancelPend && !s.passDue i then
      let st := if q.status ≠ St.ok then q.status else St.cancelled
      let s := s.dropCopies i q
      let s := if q.freezeReq.isSome then s.dropChange q.part 3 (s.handle i) else s
      s.setSeq i { q with st := .ending, cancelPend := false, status := st, moveTo := none, freezeReq := none }
    else s

/-- Tokens of a sample: the outputs of an entry. -/
def outputs (q : Seq) : List Nat := (q.toks.drop q.promptLen).take q.nOut

/-- Write tokens of output row `i` of a command, from output index `n` on (R394). -/
def State.writeTokens (s : State) (c : Cmd) (i n : Nat) (ts : List Nat) : Option State :=
  if ts.isEmpty then some s
  else (s.hostWr (c.outAddr + (i * c.maxNew + n) * 4) (ts.flatMap fun t => leBytes 4 t) (s.space (16 * c.slice))).map fun s =>
    s.count c.slice 7 (4 * ts.length)

/-- Length of the common beginning of two lists. -/
def commonLen : List Nat → List Nat → Nat
  | x :: xs, y :: ys => if x = y then commonLen xs ys + 1 else 0
  | _, _ => 0

/-- Outputs of a beam family by rank: the hypotheses that have ended and those in the table, the best score first (R394). -/
def State.familyOutputs (s : State) (k : Nat) (c : Cmd) : List (List Nat) :=
  let live := (s.seqs.filter fun x => x.2.st != .free && x.2.cmd == k && !x.2.held && x.2.branch == 0).map fun x => (x.2.score, outputs x.2)
  (sortBy (fun x => -x.1) (c.hyps ++ live)).map (·.2)

/-- Write a family's outputs: of each rank, what differs from what stands there. -/
def State.writeFamily (s : State) (k : Nat) (c : Cmd) : Option State :=
  let outs := (s.familyOutputs k c).zipIdx
  (outs.foldl (fun (r : Option State) x => r.bind fun s =>
    let n := commonLen (kget c.written x.2 []) x.1
    s.writeTokens c x.2 n (x.1.drop n)) (some s)).map fun s =>
      s.withCmds (kset s.cmds k { c with written := outs.map fun x => (x.2, x.1) })

/-- Write the output tokens of a sample, or of the family of a hypothesis (R394). -/
def State.writeOutputs (s : State) (q : Seq) (from_ : Nat) : Option State :=
  match kfind s.cmds q.cmd with
  | none => some s
  | some c => if 1 < c.beamW then s.writeFamily q.cmd c else s.writeTokens c q.sample from_ ((outputs q).drop from_)

/-- Release the pin of a delta version (R344). -/
def State.unpin (s : State) (q : Seq) : State :=
  if q.deltaEn then
    match kfind s.deltas q.deltaVer with
    | some d => s.withDeltas (kset s.deltas q.deltaVer { d with pins := d.pins - 1 })
    | none => s
  else s

/-- Return an entry to FREE (R274): generation, counts, pins. -/
def State.freeEntry (s : State) (i : Nat) : State :=
  match s.seq? i with
  | none => s
  | some q =>
    let s := (s.freeTransit i).releasePages i
    let s := s.setSeq i { q with
      st := .free, resume := .free, frzCause := 0, cancelPend := false, pages := [], nodes := [], toks := [],
      gen := (q.gen + 1) % 2 ^ 14, freezeReq := none, moveTo := none, held := false, branch := 0, needFork := 0 }
    let s := s.put F.SRV_STAT.seq_used (s.rd F.SRV_STAT.seq_used - 1)
    let s := if q.branch = 0 then s.put F.SRV_SCNT.active (s.rd F.SRV_SCNT.active q.slice - 1) q.slice else s
    let s := s.put F.SRV_PART.seq_cnt (s.rd F.SRV_PART.seq_cnt q.part - 1) q.part
    s.unpin q

/-- The FINAL entry of a command whose last sample ended (R394). -/
def State.finishCmd (s : State) (k : Nat) : State :=
  match kfind s.cmds k with
  | none => s
  | some c =>
    let n := max c.samples c.beamW
    let len (i : Nat) : Nat := if 1 < c.beamW then (kget c.written i []).length else kget c.done i 0
    let counts := (List.range n).flatMap fun i => leBytes 4 (len i)
    let total := (List.range n).foldl (fun a i => a + len i) 0
    let r := (s.hostWr (c.outAddr + n * c.maxNew * 4) counts (s.space (16 * c.slice))).map fun s => s.count c.slice 7 (4 * n)
    let status := if c.status ≠ St.ok then c.status else if r.isNone then St.hostDma else St.ok
    let s := ((r.getD s).withCmds (kdel s.cmds k))
    s.finish (16 * c.slice + c.ring) c.token 0x01 status c.handle total

/-- Other entries of the same command that are in use. -/
def State.siblings (s : State) (k i : Nat) : Bool :=
  s.seqs.any fun x => x.1 != i && x.2.st != .free && x.2.cmd == k && !x.2.held && x.2.branch == 0

/-- A sample leaves ENDING (R318, R394): its output is kept, its entry is freed, and the last one completes the command.
Held entries of the command go with it. A hypothesis that its family dropped has no completion (R338). -/
def State.endSeq (s : State) (i : Nat) : State :=
  match s.seq? i with
  | none => s
  | some q =>
    if q.st ≠ .ending then s
    else if q.held then s.freeEntry i
    else
      let s := match kfind s.cmds q.cmd with
        | some c =>
          let c := { c with
            done := kset c.done q.sample q.nOut, hyps := if 1 < c.beamW then c.hyps ++ [(q.score, outputs q)] else c.hyps, status := if c.status ≠ St.ok then c.status else q.status }
          s.withCmds (kset s.cmds q.cmd c)
        | none => s
      let last := !s.siblings q.cmd i
      let s := s.freeEntry i
      if last then
        let s := (s.seqs.filter fun x => x.2.st != .free && x.2.cmd == q.cmd && x.2.held).foldl (fun s x => s.freeEntry x.1) s
        s.finishCmd q.cmd
      else s

/-! ## Entries and forks (R280, R316) -/

/-- Lowest FREE index. -/
def State.freeIndex (s : State) : Nat :=
  s.seqs.foldl (fun n x => if x.1 = n ∧ x.2.st ≠ .free then n + 1 else n) 0

def State.freeCount (s : State) : Nat := seqMax - (s.seqs.filter fun x => x.2.st != .free).length

/-- Count an entry as used. -/
def State.countEntry (s : State) (q : Seq) : State :=
  let s := s.put F.SRV_STAT.seq_used (s.rd F.SRV_STAT.seq_used + 1)
  let s := if q.branch = 0 then s.put F.SRV_SCNT.active (s.rd F.SRV_SCNT.active q.slice + 1) q.slice else s
  s.put F.SRV_PART.seq_cnt (s.rd F.SRV_PART.seq_cnt q.part + 1) q.part

/-- Write a new entry; its index keeps its generation. -/
def State.newEntry (s : State) (q : Seq) : Nat × State :=
  let i := s.freeIndex
  (i, (s.setSeq i { q with gen := s.gen i }).countEntry q)

/-- Copy one line: it is read under one key index and written under another; poison goes with the data (R194–R196, R206). -/
def State.copyLine (s : State) (from_ to_ kr kw : Nat) : State :=
  let bs := s.load (64 * from_) 64 kr
  let bad := (List.range 2).filter fun h => s.poisonedRd (64 * from_ + 32 * h) 32 kr
  let s := (s.rdRecord (64 * from_) 64 kr).store (64 * to_) bs kw
  bad.foldl (fun s h => s.poisonRange (64 * to_ + 32 * h) 32) s

/-- Copy memory between frames (R317): the lines that have been written, each under the source frame's key. What has never been written
stays so. -/
def State.copyFrame (s : State) (src dst cls key : Nat) : State :=
  let n := 65536 * 2 ^ cls
  let a := src * 65536
  let b := dst * 65536
  let here (l : Nat) : Bool := a / 64 ≤ l && l < (a + n) / 64
  let out (x : Nat) : Bool := !(b ≤ x && x < b + n)
  let keyed : List Nat := s.lineKey.map fun c => c.1
  let held : List Nat := s.mem.map fun c => c.1 / 64
  let lines := ((keyed ++ held ++ s.poison.map (· / 2)).filter here).dedup
  let kr := (s.frame src).key
  let clean := ((s.memKeep out).poisonKeep out).withLineKey (s.lineKey.filter fun c => out (64 * c.1))
  lines.foldl (fun s l => s.copyLine l (l - a / 64 + b / 64) kr key) clean

/-- Charge the bytes of a frame copy to a slice. -/
def State.chargeCopy (s : State) (sl cls : Nat) : State :=
  (s.count sl 4 (2 * 65536 * 2 ^ cls)).count sl 5 (65536 * 2 ^ cls)

/-- References of a copied page list: each frame gains one; a frame at 65,535 is copied for the new list. -/
def State.shareEntries (s : State) (q : Seq) : List PageEnt → Except Nat (List PageEnt × State)
  | [] => .ok ([], s)
  | e :: es =>
    let one : Except Nat (PageEnt × State) :=
      if e.remote || (s.frame e.frame).refs < 65535 then .ok (e, s.incRef e)
      else match s.allocMany q.part e.cls q.slice (scopeOf q) true 1 with
        | .ok ([n], s) => .ok (n, ((s.copyFrame e.frame n.frame e.cls (scopeOf q)).chargeCopy q.slice e.cls).bump F.KV_SHARE.cow_copies q.part)
        | .ok (_, _) => .error 0
        | .error r => .error r
    match one with
    | .error r => .error r
    | .ok (n, s) =>
      match s.shareEntries q es with
      | .ok (ns, s) => .ok (n :: ns, s)
      | .error r => .error r

/-- Pin a delta version once more (R344). -/
def State.pin (s : State) (q : Seq) : State :=
  if q.deltaEn then
    match kfind s.deltas q.deltaVer with
    | some d => s.withDeltas (kset s.deltas q.deltaVer { d with pins := d.pins + 1 })
    | none => s
  else s

/-- Fork entry `dst` from `src` (R316): a held entry takes over, with sample number `k`. Where a private copy cannot be
granted, the new sequence waits for pages. -/
def State.fork (s : State) (src dst k : Nat) : State :=
  match kfind s.seqs src, kfind s.seqs dst with
  | some q, some d =>
    let s := s.pin q
    match if s.blocksOk 0 q.pages.length then s.shareEntries q q.pages else .error 0 with
    | .ok (es, s) =>
      let s := q.nodes.foldl (fun s n => s.useNode n true) s
      s.setSeq dst { q with pages := es, gen := d.gen, sample := k, held := false, needFork := 0, moveTo := none, transit := [] }
    | .error _ =>
      s.setSeq dst { q with
        pages := [], nodes := [], gen := d.gen, sample := k, held := false, needFork := 0, moveTo := none, transit := [],
        st := .pageWait, resume := q.st, wait := 0, origin := src }
  | _, _ => s

/-- Forks that are due (R280): the parallel samples of a command take their held entries. -/
def State.dueForks (s : State) (i : Nat) : State :=
  match s.seq? i with
  | none => s
  | some q =>
    if q.needFork = 0 ∨ q.lookupDone = false ∨ q.st = .ending then s
    else
      let hs := ((s.seqs.filter fun x => x.2.held && x.2.cmd == q.cmd && x.2.st != .free).map (·.1)).take q.needFork
      let s := s.setSeq i { q with needFork := 0 }
      (hs.zipIdx).foldl (fun s h => s.fork i h.1 (h.2 + 1)) s

/-! ## Committing a pass (R290, R309, R332–R338) -/

/-- Take a prefix of the committed tokens that ends at the first end-of-sequence token. -/
def cutEos (eos : List Nat) : List Nat → List Nat
  | [] => []
  | t :: ts => if eos.contains t then [t] else t :: cutEos eos ts

/-- Candidates by falling probability, the lowest token first on a tie (R333, R337). Codes of numbers that are not negative are in the
order of the numbers. -/
def rankTokens (cs : List (BitVec 32 × BitVec 32)) : List Nat :=
  (sortBy (fun c => -(c.2.toNat : Int)) (sortBy (fun c => (c.1.toNat : Int)) cs)).map (·.1.toNat)

/-- The most probable token of a row. -/
def topToken (d : TokDist) : Nat := (rankTokens d.cands).headD d.drawn.toNat

/-- Accepted drafts (R333). -/
def acceptCount (sampled : Bool) (drafts mains : List Nat) (ok : List (BitVec 32 × BitVec 32 × BitVec 32)) : Nat :=
  if sampled then ((ok.take drafts.length).takeWhile fun x => f32accept x.1.toNat x.2.1.toNat x.2.2.toNat).length
  else ((drafts.zip mains).takeWhile fun x => x.1 == x.2).length

/-- What a result says of a sequence with `k` drafts: accepted drafts, and the tokens in order. -/
def resultOf (sampled : Bool) (k : Nat) (r : SeqResult) : Nat × List Nat :=
  let ds := (r.drafts.map BitVec.toNat).take k
  let tops := r.mains.map topToken
  let a := min (acceptCount sampled ds tops r.accept) (tops.length - 1)
  (a, ds.take a ++ ((r.mains.drop a).take 1).map fun d => if sampled then d.drawn.toNat else topToken d)

/-- Branch `b` starts with the draft's candidate `b` (R337). -/
def branchDrafts (firsts : List (BitVec 32 × BitVec 32)) (b : Nat) (r : SeqResult) : SeqResult :=
  match r.drafts, (rankTokens firsts)[b]? with
  | _ :: ds, some t => { r with drafts := BitVec.ofNat 32 t :: ds }
  | _, _ => r

/-- Token to end with. -/
def State.isEos (s : State) (q : Seq) (t : Nat) : Bool := ((kfind s.cmds q.cmd).map (·.eos.contains t)).getD false

/-- Post the pass's tokens (R394): output words, progress, or the freeze of a failed write. -/
def State.postTokens (s : State) (i old : Nat) : State :=
  match s.seq? i with
  | none => s
  | some q =>
    match s.writeOutputs q old with
    | none => (s.setSeq i { q with owed := some (min old (q.owed.getD old)) }).freezeNotice i 0 St.hostDma
    | some s =>
      if old < q.nOut ∧ ((kfind s.cmds q.cmd).map (·.stream)).getD false then
        s.progress (seqRing q) (mkEntry q.token St.ok 2 0x01 (s.handle i) q.nOut 0)
      else s

/-- The least by a measure, the first on a tie. -/
def leastBy (f : Nat → Nat) (ps : List Nat) : Option Nat :=
  ps.foldl (fun b p => match b with
    | none => some p
    | some c => if f p < f c then some p else some c) none

/-- The coordinator is there and runs: device-wide decisions are taken (R33, R34). -/
def State.coordUp (s : State) : Bool := s.coordinator.any fun p => s.procUp (pc p)

/-- A role runs prefill, and decode (R28). -/
def runsPrefill (r : Nat) : Bool := r == 0 || r == 3
def runsDecode (r : Nat) : Bool := r == 1 || r == 3

/-- A partition takes sequences of a kind: by its role, by the role that awaits its commit, and with channels enough (R28, R29, R200). -/
def State.roleTakes (s : State) (kind : Nat → Bool) (p : Nat) : Bool :=
  s.serves p && kind (s.rd F.SRV_PART.role p) && (!s.on F.SRV_PART.role_chg p || kind (s.rd F.SRV_PART.role_pend p))

/-- Prompt tokens that wait in a partition (R281). -/
def State.promptLoad (s : State) (p : Nat) : Nat :=
  (s.seqs.filter fun x => x.2.part == p && (x.2.st == .admitted || x.2.st == .prefill) && !x.2.held).foldl
    (fun a x => a + (x.2.promptLen - x.2.len)) 0

/-- Destination of a move (R29, R281, R291): for decode the partition with the fewest DECODE sequences, for a prompt that is not processed
the one with the fewest prompt tokens waiting. -/
def State.moveDest (s : State) (q : Seq) : Option Nat :=
  let among (kind : Nat → Bool) : List Nat := (List.range s.nPart).filter fun p => p != q.part && s.roleTakes kind p
  if q.promptLen ≤ q.len then leastBy (fun p => (s.seqs.filter fun x => x.2.part == p && x.2.st == .decode).length) (among runsDecode)
  else leastBy s.promptLoad (among runsPrefill)

/-- Both controllers of a move run, and neither partition is in a reset (R417, R455). -/
def State.moveRuns (s : State) (p d : Nat) : Bool :=
  s.procUp (pc p) && s.procUp (pc d) && s.rd F.RST_PART_STAT.rst_state p == 0 && s.rd F.RST_PART_STAT.rst_state d == 0

/-- Frames at the destination of a moving sequence. The coordinator names it; while it restarts, moves wait (R33, R34). -/
def State.startMove (s : State) (i : Nat) : State :=
  match s.seq? i with
  | none => s
  | some q =>
    match s.moveDest q with
    | none => s
    | some p =>
      let c := ((kfind s.models q.model).map (·.frameLog2)).getD 16 - 16
      if s.moveRuns q.part p = false ∨ s.coordUp = false then s
      else match s.allocMany p c q.slice (scopeOf q) true (q.pages.filter fun e => !e.remote).length with
      | .error _ => s
      | .ok (es, s) => s.modSeq i fun q => { q with moveTo := some (p, es), wait := 0 }

/-- State after the last prompt token and its first output token (R277). -/
def State.afterPrefill (s : State) (i : Nat) : State :=
  match s.seq? i with
  | none => s
  | some q =>
    if s.rd F.SRV_PART.role q.part = 0 then (s.setSeq i { q with st := .moving, wait := 0 }).startMove i
    else s.setSeq i { q with st := .decode }

/-- End conditions of a sequence whose prompt is processed (R277). -/
def State.endTest (s : State) (i : Nat) : State :=
  match s.seq? i with
  | none => s
  | some q =>
    if q.len < q.promptLen then s
    else if q.maxNew ≤ q.nOut ∨ s.isEos q (q.toks.getD (q.promptLen + q.nOut - 1) 0) then s.setSeq i { q with st := .ending }
    else if q.st = .prefill then s.afterPrefill i
    else s

/-- A frozen sequence returns to the state it resumes (R277); an output write that failed is tried again (R394). -/
def State.thawNow (s : State) (i : Nat) : State :=
  match s.seq? i with
  | none => s
  | some q =>
    if q.st ≠ .frozen then s
    else
      let s := s.setSeq i { q with st := q.resume, frzCause := 0, wait := 0 }
      match q.owed with
      | none => s
      | some o =>
        match s.writeOutputs q o with
        | none => s.freezeNotice i 0 St.hostDma
        | some s => (s.modSeq i fun q => { q with owed := none }).endTest i

/-- The attention result of a sequence's last row: the units' partials combined in their order (R325, R327, R328, R330). -/
def attnResult (units : List (List Nat)) (r : Option SeqResult) : Option Partial :=
  r.bind fun r => if r.parts.isEmpty then none else
    some (combine units.length ((r.parts.filter fun p => p.1 < units.length && !(units.getD p.1 []).isEmpty).foldl (fun m p =>
      kset m p.1 { m := p.2.1.toNat, l := p.2.2.1.toNat, o := p.2.2.2.map BitVec.toNat }) []))

/-- The commit of one sequence of a pass that wrote `rows` tokens here. -/
def State.commitSeq (s : State) (lg i rows : Nat) (units : List (List Nat)) (r : Option SeqResult) : State :=
  let s := s.freeTransit i
  let s := s.modSeq i fun q => { q with att := attnResult units r }
  match s.seq? i with
  | none => s
  | some q =>
    if q.st = .ending then s.setSeq i { q with stage := 0 }
    else
      let c := kfind s.cmds q.cmd
      let sampled := (c.map (·.sampled)).getD false
      let eos := (c.map (·.eos)).getD []
      if q.len < q.promptLen then
        let len := min q.promptLen (q.len + q.advance rows)
        let s := s.count q.slice 9 (len - q.len)
        let last := len = q.promptLen
        let tok := if last ∧ 0 < q.maxNew ∧ q.beamW ≤ 1 then ((r.map fun r => (resultOf sampled 0 r).2).getD []) else []
        let q' := { q with
          len := len, stage := 0, aborts := 0, nOut := q.nOut + tok.length, toks := q.toks ++ tok,
          dlen := len }
        let s := (s.setSeq i q').offerPages i lg q.len len
        let s := (s.count q.slice 10 tok.length).postTokens i q.nOut
        match s.seq? i with
        | some q' =>
          if last = false ∨ q'.st = .frozen ∨ (1 < q.beamW ∧ 0 < q.maxNew) then s
          else if q.maxNew = 0 ∨ q'.maxNew ≤ q'.nOut ∨ tok.any eos.contains then s.setSeq i { q' with st := .ending }
          else s.afterPrefill i
        | none => s
      else
        let k := rows - 1
        match r with
        | none => s.setSeq i { q with stage := 0 }
        | some r =>
          let x := resultOf sampled k r
          let ts := cutEos eos (x.2.take (q.maxNew - q.nOut))
          let n := ts.length
          let dl := if k = 0 then q.draftLen else if x.1 = 0 then max 1 (k / 2)
            else if x.1 = k then min (((kfind s.models q.model).map (·.specK)).getD 0) (k + 1) else q.draftLen
          let q' := { q with
            len := q.len + n, stage := 0, aborts := 0, nOut := q.nOut + n, toks := q.toks ++ ts, draftLen := dl,
            dlen := if k = 0 then q.dlen else min (q.len + k) (q.len + n),
            drafted := min (2 ^ 32 - 1) (q.drafted + k), accepted := min (2 ^ 32 - 1) (q.accepted + x.1) }
          let s := (s.setSeq i q').offerPages i lg q.len q'.len
          let s := (s.count q.slice 10 n).postTokens i q.nOut
          match s.seq? i with
          | some q' => if q'.st = .frozen then s
            else if q'.maxNew ≤ q'.nOut ∨ ts.any eos.contains then s.setSeq i { q' with st := .ending } else s
          | none => s

/-- Entries rewritten by copies on write (R317). -/
def State.commitCow (s : State) (c : Nat × Nat × PageEnt) : State :=
  match kfind s.seqs c.1 with
  | none => s
  | some q =>
    match q.pages[c.2.1]? with
    | none => s
    | some e => (s.setSeq c.1 { q with pages := q.pages.set c.2.1 c.2.2 }).decRef e

/-- The winner of a branched pass (R337): the branch with the most accepted drafts, the lowest on a tie. The other branches return
to FREE. -/
def State.takeWinner (s : State) (results : List SeqResult) (rows : List (Nat × Nat)) (i : Nat) : State × Option SeqResult :=
  let own := results.find? fun r => r.idx.val == i
  let firsts := own.elim [] SeqResult.firsts
  let bs := sortBy (fun x => (x.2.branch : Int)) (s.seqs.filter fun x => x.2.st != .free && x.2.branch != 0 && x.2.origin == i)
  if bs.isEmpty then (s, own)
  else
    let k := ((rows.find? fun x => x.1 == i).map (·.2)).getD 1 - 1
    let tries : List (Nat × SeqResult) := ((i, 0) :: bs.map fun x => (x.1, x.2.branch)).filterMap fun x =>
      (results.find? fun r => r.idx.val == x.1).map fun r => (x.1, branchDrafts firsts x.2 r)
    let best := tries.foldl (fun (b : Option (Nat × SeqResult)) x => match b with
      | none => some x
      | some y => if (resultOf false k y.2).1 < (resultOf false k x.2).1 then some x else b) none
    let s := match best with
      | none => s
      | some (j, _) =>
        match kfind s.seqs i, kfind s.seqs j with
        | some q, some b =>
          if j = i then s
          else
            let s := q.pages.foldl State.decRef s
            let s := s.setSeq i { q with pages := b.pages, dlen := b.dlen }
            s.setSeq j { b with pages := [] }
        | _, _ => s
    ((bs.map (·.1)).foldl State.freeEntry s, best.map (·.2))

/-! ## Beam families (R338) -/

/-- Entries that a family may still take. -/
def State.heldOf (s : State) (cmd : Nat) : List Nat :=
  (s.seqs.filter fun x => x.2.held && x.2.cmd == cmd && x.2.st != .free && x.2.st != .ending).map (·.1)

/-- The `n` best continuations: the lower hypothesis and then the lower token first on a tie. -/
def bestCands (n : Nat) (cs : List BeamCand) : List BeamCand :=
  (sortBy (fun c => -c.score) (sortBy (fun c => (c.hyp.val : Int)) (sortBy (fun c => (c.token.toNat : Int)) cs))).take n

/-- A hypothesis goes on with a continuation; `adv` is 0 for the first one after the prompt. -/
def Seq.extend (q : Seq) (adv : Nat) (c : BeamCand) : Seq :=
  { q with toks := q.toks ++ [c.token.toNat], score := c.score, len := q.len + adv, nOut := q.nOut + 1, stage := 0, aborts := 0 }

/-- A hypothesis that is dropped leaves for ENDING without a completion, or its entry is held for a fork of the family, which never has
more than `beam_w` (R280, R338). -/
def State.dropHyp (s : State) (j : Nat) (reuse : Bool) : State :=
  if reuse then
    match s.seq? j with
    | none => s
    | some q =>
      let s := ((s.freeTransit j).releasePages j).unpin q
      s.setSeq j { q with st := .admitted, held := true, deltaEn := false, pages := [], nodes := [], toks := [], gen := (q.gen + 1) % 2 ^ 14 }
  else s.modSeq j fun q => { q with st := .ending, held := true }

/-- The family's choice: each kept hypothesis continues once and forks for its other continuations. Answers the live hypotheses. -/
def State.beamSelect (s : State) (cmd adv : Nat) (hyps : List Nat) (kept : List BeamCand) : State × List Nat :=
  let of_ (h : Nat) : List BeamCand := kept.filter fun c => c.hyp.val == h
  let lost := hyps.filter fun h => (of_ h).isEmpty
  let again := kept.length - (hyps.length - lost.length) - (s.heldOf cmd).length
  let s := (lost.zipIdx).foldl (fun s x => s.dropHyp x.1 (decide (x.2 < again))) s
  hyps.foldl (fun (a : State × List Nat) h =>
    match of_ h with
    | [] => a
    | c0 :: more =>
      let r := more.foldl (fun (a : State × List Nat) c =>
        match a.1.heldOf cmd with
        | [] => a
        | d :: _ =>
          let s := a.1.fork h d (((kfind a.1.seqs d).map (·.sample)).getD 0)
          (s.modSeq d fun q => q.extend adv c, a.2 ++ [d])) a
      (r.1.modSeq h fun q => q.extend adv c0, r.2 ++ [h])) (s, [])

/-- The commit of a family: of the continuations that its hypotheses in this pass offer, it keeps the best. -/
def State.commitFamily (s : State) (lg cmd adv : Nat) (rows : List Nat) (cands : List BeamCand) : State :=
  let hyps := rows.filter fun j => (s.seq? j).elim false fun q => q.cmd == cmd && !q.held && q.st != .ending
  let mine := cands.filter fun c => hyps.contains c.hyp.val
  if mine.isEmpty then hyps.foldl (fun s j => s.modSeq j fun q => { q with stage := 0 }) s
  else
    let r := s.beamSelect cmd adv hyps (bestCands (hyps.length + (s.heldOf cmd).length) mine)
    let s := r.2.foldl (fun s j => match s.seq? j with
      | some q => (s.offerPages j lg (q.len - adv) q.len).count q.slice 10 1
      | none => s) r.1
    match kfind s.cmds cmd with
    | none => s
    | some c =>
      match s.writeFamily cmd c with
      | none => r.2.foldl (fun s j => (s.modSeq j fun q => { q with owed := some 0 }).freezeNotice j 0 St.hostDma) s
      | some s => r.2.foldl (fun s j =>
        let s := match s.seq? j with
          | some q => if c.stream then s.progress (seqRing q) (mkEntry q.token St.ok 2 0x01 (s.handle j) q.nOut 0) else s
          | none => s
        s.endTest j) s

/-- Attention units of a sequence in a pass. -/
def Pass.unitsOf (x : Pass) (i : Nat) : List (List Nat) := ((x.units.find? fun u => u.1 == i).map (·.2)).getD [[]]

/-- One row of a pass commits: a sequence of its own, or the family of a hypothesis, at its first one. -/
def State.commitRow (s : State) (x : Pass) (own : List (Nat × Nat)) (results : List SeqResult) (beams : List BeamCand) (r : Nat × Nat) : State :=
  let lg := ((kfind s.models x.model).map (·.lgCount)).getD 1
  match s.seq? r.1 with
  | none => s
  | some q =>
    if q.beamW ≤ 1 then
      let w := s.takeWinner results x.rows r.1
      w.1.commitSeq lg r.1 r.2 (x.unitsOf r.1) w.2
    else
      let res := results.find? fun y => y.idx.val == r.1
      if q.len < q.promptLen then
        let s := s.commitSeq lg r.1 r.2 (x.unitsOf r.1) res
        if (s.seq? r.1).elim false fun q => q.promptLen ≤ q.len && q.nOut < q.maxNew then s.commitFamily lg q.cmd 0 [r.1] beams else s
      else
        let fam := (own.filter fun y => ((kfind s.seqs y.1).map (·.cmd)) == some q.cmd).map (·.1)
        let s := s.modSeq r.1 fun q => { q with att := attnResult (x.unitsOf r.1) res }
        if fam.getLast? == some r.1 then s.commitFamily lg q.cmd 1 fam beams else s

/-- PASS_COMMIT: the effects of a pass whose last item has ended, in the order of R290. -/
def State.passCommit (s : State) (p b : Nat) (results : List SeqResult) (beams : List BeamCand) : State :=
  match s.passes.find? fun x => x.id == b && x.part == p && x.ended with
  | none => s
  | some x =>
    let s := s.withPasses (s.passes.filter fun y => y.id != b)
    let s := x.cow.foldl State.commitCow s
    let own := x.rows.filter fun r => ((kfind s.seqs r.1).map (·.branch)).getD 0 == 0
    own.foldl (fun s r => s.commitRow x own results beams r) s

end Sys2Proof.Machine
end

