-- ==== Sys2Proof/Machine/Flags.lean ====
section
/-! DEFINITION. Accumulator forms, saturation and the sticky flags of the Spur DSP datapath (R172–R177, R151). -/

namespace Sys2Proof.Machine

/-- A value held inside `w`-bit two's complement (R173). -/
def satBits (w : Nat) (v : Int) : Int := clampInt (-(2 ^ (w - 1))) (2 ^ (w - 1) - 1) v

/-- The complex form of an accumulator (R172): real and imaginary components. -/
def accRe (a : BitVec 80) : Int := toSigned 40 a.toNat
def accIm (a : BitVec 80) : Int := toSigned 40 (a.toNat / 2 ^ 40)
/-- The wide form: bits [71:0]. -/
def accWide (a : BitVec 80) : Int := toSigned 72 a.toNat

/-- Build the complex form. -/
def mkComplex (re im : Int) : BitVec 80 := BitVec.ofNat 80 (ofSigned 40 re + 2 ^ 40 * ofSigned 40 im)
/-- Build the wide form: bits [79:72] copy bit 71. -/
def mkWide (v : Int) : BitVec 80 := BitVec.ofNat 80 (ofSigned 80 v)

/-- The complex form saturated once (R173), and whether it saturated. -/
def satComplex (re im : Int) : BitVec 80 × Bool :=
  (mkComplex (satBits 40 re) (satBits 40 im), satBits 40 re != re || satBits 40 im != im)
/-- The wide form saturated once. -/
def satWide (v : Int) : BitVec 80 × Bool := (mkWide (satBits 72 v), satBits 72 v != v)

/-- Shift right as R175: convergent, or truncating toward minus infinity. -/
def accShift (rm : Bool) (sh : Nat) (v : Int) : Int := if rm then v / 2 ^ sh else shrRne v sh

/-- Bytes of a store format (R175). -/
def accFmtBytes : Nat → Nat
  | 0 => 4 | 1 => 8 | 2 => 2 | 3 => 4 | 4 => 4 | 5 => 8 | 6 => 8 | _ => 2

/-- An accumulator converted by R175: the value of its bytes, and whether a value saturated. -/
def accOut (fmt : Nat) (rm : Bool) (sh : Nat) (a : BitVec 80) : Nat × Bool :=
  let conv (w : Nat) (v : Int) : Nat × Bool :=
    let x := accShift rm sh v
    (ofSigned w (satBits w x), satBits w x != x)
  match fmt with
  | 0 => ((conv 16 (accRe a)).1 + 2 ^ 16 * (conv 16 (accIm a)).1, (conv 16 (accRe a)).2 || (conv 16 (accIm a)).2)
  | 1 => ((conv 32 (accRe a)).1 + 2 ^ 32 * (conv 32 (accIm a)).1, (conv 32 (accRe a)).2 || (conv 32 (accIm a)).2)
  | 2 => conv 16 (accRe a)
  | 3 => conv 32 (accRe a)
  | 4 => conv 32 (accWide a)
  | 5 => conv 64 (accWide a)
  | 6 => (a.toNat % 2 ^ 64, false)
  | _ => (a.toNat / 2 ^ 64, false)

/-- A g register written into an accumulator (R176). -/
def accIn (fmt sh : Nat) (g : Nat) (old : BitVec 80) : BitVec 80 × Bool :=
  let f (w : Nat) (v : Nat) : Int := toSigned w v * 2 ^ sh
  match fmt with
  | 0 => satComplex (f 16 g) (f 16 (g / 2 ^ 16))
  | 1 => satComplex (f 32 g) (f 32 (g / 2 ^ 32))
  | 2 => satComplex (f 16 g) 0
  | 3 => satComplex (f 32 g) 0
  | 4 => satWide (f 32 g)
  | 5 => satWide (f 64 g)
  | 6 => (BitVec.ofNat 80 (g % 2 ^ 64 + old.toNat / 2 ^ 64 * 2 ^ 64), false)
  | _ => (BitVec.ofNat 80 (old.toNat % 2 ^ 64 + g % 2 ^ 16 * 2 ^ 64), false)

/-- Products of R173: form 0 complex, 1 complex × real, 2 real, 3 complex conjugate. -/
def dspProduct (typ : Nat) (x h : Nat) : Int × Int :=
  let (ar, ai) := ci16 x
  let (wr, wi) := ci16 h
  match typ with
  | 0 => (ar * wr - ai * wi, ar * wi + ai * wr)
  | 1 => (ar * wr, ai * wr)
  | 2 => (ar * wr, 0)
  | _ => (ar * wr + ai * wi, ai * wr - ar * wi)

/-- Accumulate: 0 MUL, 1 MAC, 2 MSU of a product into an old component. -/
def accumulate (fn : Nat) (old p : Int) : Int :=
  match fn with
  | 0 => p
  | 1 => old + p
  | _ => old - p

end Sys2Proof.Machine
end

