-- ==== Sys2Proof/Machine/Operands.lean ====
section
/-! DEFINITION. Operands of a Spur thread (R147–R161, R178): its registers, the issue of an instruction with its fetch
check, faults, branches and the block-repeat end test, the addressing modes, windows and access classes, and the loads,
stores and atomics that every instruction uses. A thread `th` is 8 · core + thread. -/

namespace Sys2Proof.Machine

/-! ## Threads -/

/-- A thread as a job start or a reset leaves it. -/
def Thread.zero : Thread :=
  { st := .idle, g := Vector.replicate 32 0, a := Vector.replicate 8 0, cb := Vector.replicate 8 0,
    cl := Vector.replicate 8 0, wrap := Vector.replicate 8 false, lc := Vector.replicate 4 0,
    acc := Vector.replicate 4 0, sat := false, cvtOvf := false, pc := 0, loops := [], sq := [], wait := none, dc := [],
    job := none, rank := 0, spent := none, faulted := false, dbg := false, skip := false, busy := 0, due := 0 }

def SpurCore.zero : SpurCore := { lastRadio := 7, lastOpen := 7, remote := 0, ilock := [], iopen := [], fill := [], cyc := 0, copied := false, subst := none }

def State.thread (s : State) (th : Nat) : Thread := kget s.threads th Thread.zero
def State.spur (s : State) (n : Nat) : SpurCore := kget s.spurs n SpurCore.zero
def State.setSpur (s : State) (n : Nat) (x : SpurCore) : State := s.withSpurs (kset s.spurs n x)

/-- Code of a thread state (R147). -/
def TState.num : TState → Nat
  | .idle => 0 | .ready => 1 | .stalled => 2 | .parked => 3 | .halted => 4

/-- The TSTATE field of thread `t`. -/
def tsField : Nat → Field
  | 0 => F.SPR_TSTATE.state_0 | 1 => F.SPR_TSTATE.state_1 | 2 => F.SPR_TSTATE.state_2 | 3 => F.SPR_TSTATE.state_3
  | 4 => F.SPR_TSTATE.state_4 | 5 => F.SPR_TSTATE.state_5 | 6 => F.SPR_TSTATE.state_6 | _ => F.SPR_TSTATE.state_7

/-- Write a thread; SPR.TSTATE shows its state, PARKED while the debug port holds it (R484). -/
def State.setThread (s : State) (th : Nat) (t : Thread) : State :=
  (s.put (tsField (th % 8)) (if t.dbg then 3 else t.st.num) (th / 8)).withThreads (kset s.threads th t)

/-- The job of a thread. -/
def State.jobOf (s : State) (th : Nat) : Option Job := (s.thread th).job.bind fun k => kfind s.jobs k

/-- The thread belongs to a radio group. -/
def State.isRadio (s : State) (th : Nat) : Bool := (s.jobOf th).elim false (·.radio)

/-- Absolute tick cycle of the present instant: 412,500 per tick. -/
def State.absCyc (s : State) : Nat := (s.nowNs / 125000) * 412500 + s.nowNs % 125000 * 33 / 10
/-- A command that carries a tick cycle happens at that cycle. -/
def State.atCyc (s : State) (cyc : Nat) : State := s.atNs (min 124999 (cyc * 10 / 33))

/-- Read and write registers; g0 reads as 0 and discards writes (R150). -/
def Thread.rg (t : Thread) (i : Fin 32) : Word := if i = 0 then 0 else t.g[i]
def Thread.wg (t : Thread) (i : Fin 32) (v : Word) : Thread := if i = 0 then t else { t with g := t.g.set i v }
def Thread.wa (t : Thread) (i : Fin 8) (v : Addr) : Thread := { t with a := t.a.set i v }

/-- A fault (R160): recorded in SPR.FAULT, the thread stops, its loops end (R185). -/
def State.fault (s : State) (th cause : Nat) (status : Nat := 0) : State :=
  let t := s.thread th
  let n := th / 8
  let s := s.put F.SPR_FAULT.cause cause n
  let s := s.put F.SPR_FAULT.thread (th % 8) n
  let s := s.put F.SPR_FAULT.status status n
  let s := s.put F.SPR_FAULT.job_tag ((s.jobOf th).elim 0 (·.tag)) n
  let s := s.put F.SPR_FAULT_PC.pc t.pc.toNat n
  let s := s.put F.SPR_STAT.fault 1 n
  s.setThread th { t with st := .halted, faulted := true, loops := [], wait := none,
                          spent := some (s.absCyc - (s.jobOf th).elim s.absCyc (·.since)) }

/-! ## Windows and classes -/

/-- Partition and cluster of a Spur core. -/
def spurCl (n : Nat) : Nat := n / 16
def spurPart (n : Nat) : Nat := n / 64

/-- A window of the job that grants the access (R161). -/
def Job.window (j : Job) (a n : Nat) (wr : Bool) : Option Window :=
  j.wins.find? fun w => w.base ≤ a && a + n ≤ w.limit && (if wr then w.wr else w.rd)

/-- Class of a target (R154). -/
inductive Class where
  | loc
  | remote
  | banned
  deriving DecidableEq, Repr

/-- The class of an access of a thread of core `n`, radio or open, to `[a, a + len)`. -/
def State.classOf (s : State) (n : Nat) (radio : Bool) (a len : Nat) : Class :=
  match s.place a with
  | .pad c =>
    let res := overlaps a len (s.spRsv c).1 (s.spRsv c).2
    let allRes := within a len (s.spRsv c).1 (s.spRsv c).2
    if c / 4 = spurCl n then
      (if radio then (if allRes then .loc else .banned) else (if res then .banned else .loc))
    else if radio || res then .banned else .remote
  | .clSram cl => if radio then .banned else if cl = spurCl n then .loc else .remote
  | .pinned p => if radio then (if p = spurPart n then .remote else .banned) else if s.isI then .remote else .banned
  | .dram => if radio then .banned else .remote
  | _ => .banned

/-- Every access is checked in this order: alignment, window, mapping, class, region. The fault cause, or the key index
and the window (R160, R161, R154, R208). -/
def State.checkAccess (s : State) (th a n : Nat) (right : Right) : Nat × Nat × Bool :=
  match s.jobOf th with
  | none => (3, 0, false)
  | some j =>
    match j.window a n (right != .rd) with
    | none => (3, 0, false)
    | some w =>
      match s.place a with
      | .unmapped => (3, 0, false)
      | .regs => (4, 0, false)
      | .dram =>
        if j.radio then (4, 0, false)
        else match s.regionCheck j.slice (s.rd F.FAB_CTRL.node_id * 2 ^ 48 + a) n right with
          | none => (3, 0, false)
          | some k => (0, k, w.cache)
      | _ => if s.classOf (th / 8) j.radio a n = .banned then (4, 0, false) else (0, 0, false)

/-! ## Issue (R148, R149, R153) -/

/-- Lines of a list that fit `w` ways of 128 lines each, in order. -/
def fitWays (w : Nat) (ls : List Nat) : List Nat :=
  ls.foldl (fun a l => if (a.filter fun x => x % 128 == l % 128).length < w && !a.contains l then a ++ [l] else a) []

/-- Ways that `lock_ways` locks. -/
def State.lockedWays (s : State) (n : Nat) : Nat := min 2 (s.rd F.SPR_CTRL.lock_ways n)

/-- PCp fills the locked ways of a Spur core from the pinned radio SRAM of its partition (R153, R169). -/
def State.fillLocked (s : State) (n : Nat) : State :=
  let c := s.spur n
  s.setSpur n { c with
    iopen := [], ilock := fitWays (s.lockedWays n) (c.fill.filter fun l => within (l * 64) 64 (pinnedBase (spurPart n)) 0x2000000) }

/-- An open thread may fetch from the address (R153, R25): a window grants reads, the class permits it, and in DRAM the region. -/
def State.fetchAllowed (s : State) (th pc : Nat) : Bool :=
  match s.jobOf th with
  | none => false
  | some j =>
    (j.window pc 4 false).isSome && s.classOf (th / 8) false pc 4 != .banned &&
    (s.place pc != .dram || (s.regionCheck j.slice (s.rd F.FAB_CTRL.node_id * 2 ^ 48 + pc) 4 .rd).isSome)

/-- The fetch of the instruction at pc succeeds: a radio thread fetches from the locked ways only, an open thread through the
unlocked ones; a line that is not there is read without an uncorrectable error. -/
def State.fetchOk (s : State) (th : Nat) : Bool :=
  let pc := (s.thread th).pc.toNat
  let c := s.spur (th / 8)
  match s.jobOf th with
  | none => false
  | some j =>
    if j.radio then c.ilock.contains (pc / 64)
    else s.fetchAllowed th pc && (c.iopen.contains (pc / 64) ||
      !((wordsOf (pc / 64 * 64) 64).any s.poison.contains))

/-- The fetch of an open thread brings its line into the unlocked ways; a full set loses the line that a free value names. -/
def State.fetchLine (s : State) (th : Nat) : State :=
  let n := th / 8
  let l := (s.thread th).pc.toNat / 64
  let c := s.spur n
  if s.isRadio th || c.iopen.contains l then s
  else
    let set := c.iopen.filter fun x => x % 128 == l % 128
    if set.length < 4 - s.lockedWays n then s.setSpur n { c with iopen := c.iopen ++ [l] }
    else
      let v := set.getD (s.fresh .cacheWay % set.length) 0
      s.drawn.setSpur n { c with iopen := (c.iopen.filter (· != v)) ++ [l] }

/-- A frame of the debug port: an EVENT about a target (R480): 0 breakpoint, 1 step done, 2 window ended, 3 target reset. -/
def State.dbgEvent (s : State) (tgt reason pc : Nat) : State :=
  s.emit (.dbg 0x40 0 0 (leBytes 2 tgt ++ leBytes 1 reason ++ leBytes 8 pc))
/-- Debug target of a thread, and of a firmware processor. -/
def tgtThread (th : Nat) : Nat := 0x1000 + th

/-- A breakpoint of the core holds this thread before the instruction at pc (R484). -/
def State.bpHit (s : State) (th : Nat) : Bool :=
  (kget s.sec.spurBps (th / 8) []).any fun b => bit b.2.1 (th % 8) && b.2.2 == (s.thread th).pc.toNat

/-- READY, or STALLED on an access whose end is known. -/
def Thread.live (t : Thread) : Bool := (t.st == .ready || t.st == .stalled) && t.job.isSome && !t.dbg

/-- Cycle of the core at which the thread can issue at the earliest. -/
def State.issueAt (s : State) (th : Nat) : Nat := max ((s.spur (th / 8)).cyc + 1) (s.thread th).busy

/-- Place of a thread in the round of its class. -/
def State.turnOf (s : State) (th : Nat) : Nat :=
  let c := s.spur (th / 8)
  (th % 8 + 7 - if s.isRadio th then c.lastRadio else c.lastOpen) % 8

/-- Thread `o` issues before thread `th` (R148): it is READY for certain earlier, or in the same cycle and comes first by class or
round. A thread with results outstanding may wait for them, which the commands do not say: it holds nobody back (log 76). -/
def State.goesFirst (s : State) (o th : Nat) : Bool :=
  let c := s.issueAt th
  let r := max (s.issueAt o) (s.thread o).due
  (s.thread o).live && (r < c || (r == c &&
    ((s.isRadio o && !s.isRadio th) || (s.isRadio o == s.isRadio th && s.turnOf o < s.turnOf th))))

/-- The core issues from this thread next (R148). A thread that the debug port steps goes first (R484). -/
def State.hasTurn (s : State) (th : Nat) : Bool :=
  (s.thread th).skip || !(List.range 8).any fun k => 8 * (th / 8) + k != th && s.goesFirst (8 * (th / 8) + k) th

/-- The thread may issue now. -/
def State.mayIssue (s : State) (th : Nat) : Bool := (s.thread th).live && s.spurOk (th / 8) && s.hasTurn th

/-- The core after an issue of the thread: its count and its rounds. -/
def State.issued (s : State) (th : Nat) : SpurCore :=
  let c := { s.spur (th / 8) with cyc := s.issueAt th }
  if s.isRadio th then { c with lastRadio := th % 8 } else { c with lastOpen := th % 8 }

/-- Issue one instruction of a thread: the rounds move, a failed fetch is a fault of cause 5, a breakpoint halts the thread, and
otherwise the instruction runs. -/
def State.issue (s : State) (th : Nat) (f : State → State) : State :=
  let t := s.thread th
  let n := th / 8
  if s.mayIssue th then
    let s := s.setSpur n (s.issued th)
    if s.bpHit th && !t.skip then (s.setThread th { t with dbg := true }).dbgEvent (tgtThread th) 0 t.pc.toNat
    else if s.fetchOk th then f ((s.fetchLine th).setThread th { t with skip := false, st := .ready })
    else (if s.isRadio th then s.put F.SPR_STAT.radio_fetch_miss 1 n else s).fault th 5
  else s

/-- The thread is STALLED for `k` cycles on a local access (R154). -/
def State.stall (s : State) (th k : Nat) : State :=
  let t := s.thread th
  if t.st = .ready then s.setThread th { t with st := .stalled, busy := (s.spur (th / 8)).cyc + k } else s

/-- A taken branch or jump: the thread cannot issue in the two cycles that follow (R149). -/
def State.bubble (s : State) (th : Nat) (t : Thread) : State := s.setThread th { t with busy := (s.spur (th / 8)).cyc + 3 }

/-- A thread whose results are in `k` cycles after the issue (R149, R174). -/
def State.lateBy (s : State) (th k : Nat) (t : Thread) : Thread := { t with due := max t.due ((s.spur (th / 8)).cyc + k) }

/-! ## The next instruction (R184, R185) -/

/-- The end test at the address of the instruction that completes: the innermost active level with that end is tested,
then the next-outer one with the same end. -/
def endTest (lc : Vector (BitVec 24) 4) (pc : Nat) : List Loop → Vector (BitVec 24) 4 × List Loop × Option Nat
  | [] => (lc, [], none)
  | l :: ls =>
    if l.last = pc then
      let i : Fin 4 := Fin.ofNat 4 l.lv
      if 1 < lc[i].toNat then (lc.set i (lc[i] - 1), l :: ls, some l.start)
      else endTest (lc.set i 0) pc ls
    else
      let r := endTest lc pc ls
      (r.1, l :: r.2.1, r.2.2)

/-- A thread after an instruction that does not branch. -/
def Thread.next (t : Thread) : Thread :=
  let r := endTest t.lc t.pc.toNat t.loops
  { t with lc := r.1, loops := r.2.1,
           pc := match r.2.2 with | some a => BitVec.ofNat 48 a | none => t.pc + 4 }

/-- A thread after a taken branch or jump: levels whose body does not hold the target end, with every level inside. -/
def Thread.jump (t : Thread) (target : Addr) : Thread :=
  { t with pc := target,
           loops := ((t.loops.reverse.takeWhile fun l => l.start ≤ target.toNat && target.toNat ≤ l.last)).reverse }

/-- Finish an instruction: write the thread and go on. -/
def State.done (s : State) (th : Nat) (t : Thread) : State := s.setThread th t.next

/-! ## Addressing (R160, R178) -/

/-- Circular step of R178. -/
def Thread.circ (t : Thread) (p : Nat) (step : Int) (i : Fin 8) : Nat :=
  let base := t.cb[i].toNat / 4 * 4
  let len := t.cl[i].toNat / 4 * 4
  if t.wrap[i] && len != 0 then (base + (((p : Int) + step - base) % len).toNat) % 2 ^ 48
  else (((p : Int) + step) % 2 ^ 48).toNat

/-- A circular access that would leave the buffer: fault cause 2 (R178). -/
def Thread.circBad (t : Thread) (p n : Nat) (i : Fin 8) : Bool :=
  let base := t.cb[i].toNat / 4 * 4
  let len := t.cl[i].toNat / 4 * 4
  t.wrap[i] && len != 0 && base ≤ p && p < base + len && base + len ≤ p + n - 1

/-- An M-format address: access address, new a[an], and whether the form is illegal (cause 1) or crosses (cause 2). -/
def Thread.mAddr (t : Thread) (an : Fin 8) (am : Nat) (size : Nat) (off : BitVec 13) : Nat × Nat × Nat :=
  let p := t.a[an].toNat
  let step : Int := off.toInt * size
  match am with
  | 0 => ((((p : Int) + step) % 2 ^ 48).toNat, p, 0)
  | 1 => (p, (((p : Int) + step) % 2 ^ 48).toNat, 0)
  | 2 => (p, t.circ p step an, if t.circBad p size an then 2 else 0)
  | _ =>
    if off.toNat / 32 = 0 then ((p + (t.rg (Fin.ofNat 32 (off.toNat % 32))).toNat) % 2 ^ 48, p, 0) else (p, p, 1)

/-! ## Data cache and store queue (R153, R155, R156) -/

/-- The cached line that holds an address. -/
def Thread.cached (t : Thread) (a : Nat) : Option CacheLine := t.dc.find? fun l => l.line == a / 64

/-- Bytes of memory overlaid by the thread's posted stores, oldest first (R156). -/
def overlay (sq : List Posted) (a : Nat) (bs : List Byte) : List Byte :=
  sq.foldl (fun bs p => bs.zipIdx.map fun (b, i) =>
    if p.addr ≤ a + i ∧ a + i < p.addr + p.bytes.length then p.bytes.getD (a + i - p.addr) 0 else b) bs

/-- Extend a loaded value. -/
def extend (n : Nat) (sx : Bool) (v : Nat) : Word :=
  if sx then BitVec.ofInt 64 (toSigned (8 * n) v) else BitVec.ofNat 64 v

/-- What an open job's access beyond its core and cluster adds to its slice's counters (R292): DRAM lines, data flits. -/
def State.meter (s : State) (th a n : Nat) : State :=
  match s.jobOf th with
  | some j =>
    if j.radio ∨ s.classOf (th / 8) false a n = .loc then s
    else
      let s := if s.isDram a then s.count j.slice 4 (64 * (linesOf a n).length) else s
      s.count j.slice 5 (roundUp n 32)
  | none => s

/-- A posted store becomes visible; one whose answer is an error is lost (R156). -/
def State.postStore (s : State) (th : Nat) (p : Posted) : State :=
  if s.accStatus p.addr p.bytes.length p.key = St.ok then
    (s.meter th p.addr p.bytes.length).store p.addr p.bytes p.key
  else s

/-- Write one line of a thread's cache back to memory, after the queued stores to it, which are older (R156). -/
def State.writeLine (s : State) (th : Nat) (l : CacheLine) : State :=
  if l.dirty then
    let t := s.thread th
    let s := t.sq.foldl (fun s p => if p.addr / 64 = l.line then s.postStore th p else s) s
    let s := s.setThread th { s.thread th with sq := t.sq.filter fun p => p.addr / 64 != l.line }
    (s.meter th (l.line * 64) 64).store (l.line * 64) l.bytes l.key
  else s

/-- Put a line into the 16-set, four-way cache; a full set loses the way that a free value names, written back if dirty. -/
def State.fillLine (s : State) (th : Nat) (l : CacheLine) : State :=
  let t := s.thread th
  let set := t.dc.filter fun x => x.line % 16 == l.line % 16
  if set.length < 4 then s.setThread th { t with dc := t.dc ++ [l] }
  else
    let v := s.fresh .cacheWay % 4
    match set[v]? with
    | none => s
    | some x =>
      let s := s.drawn.writeLine th x
      s.setThread th { t with dc := (t.dc.filter fun y => y.line != x.line) ++ [l] }

/-- Put bytes into a cached line. -/
def CacheLine.write (l : CacheLine) (a : Nat) (bs : List Byte) : CacheLine :=
  { l with dirty := true, bytes := l.bytes.zipIdx.map fun (b, i) =>
      if a ≤ l.line * 64 + i ∧ l.line * 64 + i < a + bs.length then bs.getD (l.line * 64 + i - a) 0 else b }

/-- A thread parks on `k` remote accesses; the core counts them (R155). -/
def State.park (s : State) (th : Nat) (w : Waiting) (k : Nat := 1) : State :=
  let c := s.spur (th / 8)
  (s.setSpur (th / 8) { c with remote := c.remote + k }).setThread th { s.thread th with st := .parked, wait := some w }

/-- Remote operations of a core that are outstanding: parked ones and posted stores (R155). -/
def State.outstanding (s : State) (n : Nat) : Nat :=
  (s.spur n).remote + ((List.range 8).map fun k => (s.thread (8 * n + k)).sq.length).foldl (· + ·) 0

/-- A load of `n` bytes, class local or a cache hit: the value at once; a cached line holds what the thread stored (R156). A
poisoned word is fault cause 6. -/
def State.loadNow (s : State) (th a n key : Nat) : Option Nat :=
  let t := s.thread th
  match t.cached a with
  | some l => some (leVal ((l.bytes.drop (a % 64)).take n))
  | none =>
    if s.rdStatus a n key = St.ok then some (leVal (overlay t.sq a (s.load a n key))) else none

/-- Latency of a local access (R154). -/
def State.localLat (s : State) (th a : Nat) : Nat :=
  if ((s.thread th).cached a).isSome then 4
  else match s.place a with
    | .pad _ => 16
    | _ => 12

/-- Finish a store whose checks have passed, with the thread's other results in `t'`: into the cached line, or posted; with
a full queue the thread parks at the instruction until an entry frees (R155). -/
def State.finishStore (s : State) (th a : Nat) (bs : List Byte) (key : Nat) (t' : Thread) : State :=
  match t'.cached a with
  | some l => s.done th { t' with dc := t'.dc.map fun x => if x.line = l.line then x.write a bs else x }
  | none =>
    if 64 ≤ s.outstanding (th / 8) then s
    else if t'.sq.length < 7 then s.done th { t' with sq := t'.sq ++ [⟨a, bs, key⟩] }
    else s.setThread th { t' with st := .parked, wait := some (.storeRoom ⟨a, bs, key⟩) }

/-- A load instruction: fault, value at once, or parked. `k` receives the loaded value. -/
def State.doLoad (s : State) (th a n : Nat) (rt : Fin 32) (sx : Bool) (t' : Thread) : State :=
  if a % n ≠ 0 then s.fault th 2
  else
    let c := s.checkAccess th a n .rd
    if c.1 ≠ 0 then s.fault th c.1
    else if ((s.thread th).cached a).isSome || s.classOf (th / 8) (s.isRadio th) a n == .loc then
      match s.loadNow th a n c.2.1 with
      | some v => (s.done th (t'.wg rt (extend n sx v))).stall th (s.localLat th a)
      | none => (s.rdRecord a n c.2.1).fault th 6
    else if 64 ≤ s.outstanding (th / 8) then s
    else (s.setThread th t').park th (.load a n rt.val sx c.2.1 c.2.2)

/-- A store instruction. -/
def State.doStore (s : State) (th a : Nat) (bs : List Byte) (t' : Thread) : State :=
  if a % bs.length ≠ 0 then s.fault th 2
  else
    let c := s.checkAccess th a bs.length .wr
    if c.1 ≠ 0 then s.fault th c.1
    else s.finishStore th a bs c.2.1 t'

/-! ## Atomics (R156, R158) -/

/-- The new value of an atomic: 0 ADD, 1 MIN, 2 MAX, 3 CAS (R158, R356). -/
def atomNew (op n : Nat) (sgn : Bool) (old opnd cmp : Nat) : Nat :=
  let w := 8 * n
  let lt (x y : Nat) : Bool := if sgn then toSigned w x < toSigned w y else x % 2 ^ w < y % 2 ^ w
  match op with
  | 0 => (old + opnd) % 2 ^ w
  | 1 => if lt opnd old then opnd % 2 ^ w else old
  | 2 => if lt old opnd then opnd % 2 ^ w else old
  | _ => if old = cmp % 2 ^ w then opnd % 2 ^ w else old

/-- Write back and invalidate the addressed line, and drain the thread's posted stores to it, before an atomic. -/
def State.settleLine (s : State) (th a : Nat) : State :=
  let t := s.thread th
  let s := t.sq.foldl (fun s p => if p.addr / 64 = a / 64 then s.postStore th p else s) s
  let s := (t.dc.filter fun l => l.line == a / 64).foldl (fun s l => s.writeLine th l) s
  s.setThread th { t with sq := t.sq.filter fun p => p.addr / 64 != a / 64, dc := t.dc.filter fun l => l.line != a / 64 }

/-- Perform an atomic at its memory: the old value, or nothing where the data are uncorrectable. -/
def State.atomicAt (s : State) (a n key op : Nat) (sgn : Bool) (opnd cmp : Nat) : State × Option Nat :=
  if s.rdStatus a n key ≠ St.ok then (s.rdRecord a n key, none)
  else
    let old := leVal (s.load a n key)
    (s.store a (leBytes n (atomNew op n sgn old opnd cmp)) key, some old)

/-- An atomic instruction. -/
def State.doAtomic (s : State) (th a n : Nat) (rd : Fin 32) (op : Nat) (sgn : Bool) (opnd cmp : Nat) : State :=
  if a % n ≠ 0 then s.fault th 2
  else
    let c := s.checkAccess th a n .atm
    if c.1 ≠ 0 then s.fault th c.1
    else
      let s := s.settleLine th a
      if s.classOf (th / 8) (s.isRadio th) a n = .loc then
        match s.atomicAt a n c.2.1 op sgn opnd cmp with
        | (s, some old) => (s.done th ((s.thread th).wg rd (BitVec.ofNat 64 old))).stall th (s.localLat th a)
        | (s, none) => s.fault th 6
      else if 64 ≤ s.outstanding (th / 8) then s
      else s.park th (.atomic op a n rd.val opnd cmp sgn c.2.1)

end Sys2Proof.Machine
end

