-- ==== Sys2Proof/Machine/Spur.lean ====
section
/-! DEFINITION. The Spur instructions outside the DSP datapath and the fabric (R149–R160): system, ALU, immediate, load,
store, address, atomic, branch and conversion instructions, and the two memory replies. -/

namespace Sys2Proof.Machine

/-- What a command answers. -/
abbrev Res := Host.Outcome State Fault Refusal

/-- An instruction that writes one g register from the thread's registers. -/
def State.gOp (s : State) (th : Nat) (rd : Fin 32) (v : Thread → Word) : State :=
  s.issue th fun s => s.done th ((s.thread th).wg rd (v (s.thread th)))

/-- The same with a result that is in `k` cycles after the issue (R149). -/
def State.gLate (s : State) (th : Nat) (rd : Fin 32) (k : Nat) (v : Thread → Word) : State :=
  s.issue th fun s => s.done th (s.lateBy th k ((s.thread th).wg rd (v (s.thread th))))

/-- An instruction that only changes the thread. -/
def State.tOp (s : State) (th : Nat) (f : Thread → Thread) : State :=
  s.issue th fun s => s.done th (f (s.thread th))

/-! ## SYS (R158) -/

/-- NOP: pc moves on. -/
def execSpurNop (th : Fin 4096) (s : State) : Res := .next (s.tOp th.val id)

/-- HALT: the thread is HALTED and its loops end (R185); its metered time stops (R162). -/
def State.haltThread (s : State) (th : Nat) : State :=
  let t := s.thread th
  s.setThread th { t with st := .halted, loops := [], pc := t.pc + 4,
                          spent := some (s.absCyc - (s.jobOf th).elim s.absCyc (·.since)) }
def execHalt (th : Fin 4096) (s : State) : Res := .next (s.issue th.val fun s => s.haltThread th.val)

/-- YIELD: the thread's turn passes to the next READY thread: it is the one that issued last in its class, so the round goes on
after it (R148, R158). -/
def execYield (th : Fin 4096) (s : State) : Res := .next (s.tOp th.val id)

/-- FENCE parks until every posted store of the thread has been acknowledged (R156). -/
def execFence (th : Fin 4096) (s : State) : Res :=
  .next (s.issue th.val fun s =>
    let t := s.thread th.val
    if t.sq.isEmpty then s.done th.val t else s.setThread th.val { t with st := .parked, wait := some .fenced })

/-- Line address of g[rs1]. -/
def Thread.lineOf (t : Thread) (rs1 : Fin 32) : Nat := (t.rg rs1).toNat % 2 ^ 48 / 64

/-- CWB writes the line back; it stays, clean. -/
def execCwb (th : Fin 4096) (rs1 : Fin 32) (s : State) : Res :=
  .next (s.issue th.val fun s =>
    let ln := (s.thread th.val).lineOf rs1
    let s := ((s.thread th.val).dc.filter fun l => l.line == ln).foldl (fun s l => s.writeLine th.val l) s
    let t := s.thread th.val
    s.done th.val { t with dc := t.dc.map fun l => if l.line = ln then { l with dirty := false } else l })

/-- CINV discards the line, dirty or not. -/
def execCinv (th : Fin 4096) (rs1 : Fin 32) (s : State) : Res :=
  .next (s.tOp th.val fun t => { t with dc := t.dc.filter fun l => l.line != t.lineOf rs1 })

/-- CFLUSH writes back and invalidates the whole cache. -/
def execCflush (th : Fin 4096) (s : State) : Res :=
  .next (s.issue th.val fun s =>
    let s := (s.thread th.val).dc.foldl (fun s l => s.writeLine th.val l) s
    s.done th.val { s.thread th.val with dc := [] })

/-- A special register (R151); nothing for the reserved numbers. -/
def State.special (s : State) (th : Nat) (sr : Nat) : Option Word :=
  let t := s.thread th
  match sr with
  | 0 => some (BitVec.ofNat 64 (th / 8 + 512 * (th % 8) + 4096 * b2n (s.isRadio th)))
  | 1 => some (BitVec.ofNat 64 (b2n t.sat + 2 * b2n t.cvtOvf))
  | 2 => some (BitVec.ofNat 64 ((s.jobOf th).elim 0 (·.tag)))
  | 3 => some (BitVec.ofNat 64 (s.absCyc - (s.jobOf th).elim s.absCyc (·.since)))
  | 4 => some (BitVec.ofNat 64 s.compare)
  | 5 => some (BitVec.ofNat 64 t.rank)
  | _ => none

def execMfs (th : Fin 4096) (rd sr : Fin 32) (s : State) : Res :=
  .next (s.issue th.val fun s => match s.special th.val sr.val with
    | some v => s.done th.val ((s.thread th.val).wg rd v)
    | none => s.fault th.val 1)

/-- MTS: only `sr` is writable. -/
def execMts (th : Fin 4096) (sr rs1 : Fin 32) (s : State) : Res :=
  .next (s.issue th.val fun s =>
    if sr.val = 1 then
      let t := s.thread th.val
      let v := (t.rg rs1).toNat
      s.done th.val { t with sat := bit v 0, cvtOvf := bit v 1 }
    else s.fault th.val 1)

/-! ## ALU (R159) -/

def execAdd (th : Fin 4096) (rd rs1 rs2 : Fin 32) (s : State) : Res := .next (s.gOp th.val rd fun t => t.rg rs1 + t.rg rs2)
def execSub (th : Fin 4096) (rd rs1 rs2 : Fin 32) (s : State) : Res := .next (s.gOp th.val rd fun t => t.rg rs1 - t.rg rs2)
def execAnd (th : Fin 4096) (rd rs1 rs2 : Fin 32) (s : State) : Res := .next (s.gOp th.val rd fun t => t.rg rs1 &&& t.rg rs2)
def execOr (th : Fin 4096) (rd rs1 rs2 : Fin 32) (s : State) : Res := .next (s.gOp th.val rd fun t => t.rg rs1 ||| t.rg rs2)
def execXor (th : Fin 4096) (rd rs1 rs2 : Fin 32) (s : State) : Res := .next (s.gOp th.val rd fun t => t.rg rs1 ^^^ t.rg rs2)
def execSll (th : Fin 4096) (rd rs1 rs2 : Fin 32) (s : State) : Res :=
  .next (s.gOp th.val rd fun t => t.rg rs1 <<< ((t.rg rs2).toNat % 64))
def execSrl (th : Fin 4096) (rd rs1 rs2 : Fin 32) (s : State) : Res :=
  .next (s.gOp th.val rd fun t => t.rg rs1 >>> ((t.rg rs2).toNat % 64))
def execSra (th : Fin 4096) (rd rs1 rs2 : Fin 32) (s : State) : Res :=
  .next (s.gOp th.val rd fun t => (t.rg rs1).sshiftRight ((t.rg rs2).toNat % 64))
def execSlli (th : Fin 4096) (rd rs1 : Fin 32) (sh : Fin 64) (s : State) : Res :=
  .next (s.gOp th.val rd fun t => t.rg rs1 <<< sh.val)
def execSrli (th : Fin 4096) (rd rs1 : Fin 32) (sh : Fin 64) (s : State) : Res :=
  .next (s.gOp th.val rd fun t => t.rg rs1 >>> sh.val)
def execSrai (th : Fin 4096) (rd rs1 : Fin 32) (sh : Fin 64) (s : State) : Res :=
  .next (s.gOp th.val rd fun t => (t.rg rs1).sshiftRight sh.val)
def execSlt (th : Fin 4096) (rd rs1 rs2 : Fin 32) (s : State) : Res :=
  .next (s.gOp th.val rd fun t => if (t.rg rs1).toInt < (t.rg rs2).toInt then 1 else 0)
def execSltu (th : Fin 4096) (rd rs1 rs2 : Fin 32) (s : State) : Res :=
  .next (s.gOp th.val rd fun t => if (t.rg rs1).toNat < (t.rg rs2).toNat then 1 else 0)
def execMul (th : Fin 4096) (rd rs1 rs2 : Fin 32) (s : State) : Res := .next (s.gLate th.val rd 3 fun t => t.rg rs1 * t.rg rs2)
def execMulh (th : Fin 4096) (rd rs1 rs2 : Fin 32) (s : State) : Res :=
  .next (s.gLate th.val rd 3 fun t => BitVec.ofInt 64 ((t.rg rs1).toInt * (t.rg rs2).toInt / 2 ^ 64))
def execMulhu (th : Fin 4096) (rd rs1 rs2 : Fin 32) (s : State) : Res :=
  .next (s.gLate th.val rd 3 fun t => BitVec.ofNat 64 ((t.rg rs1).toNat * (t.rg rs2).toNat / 2 ^ 64))
def execMin (th : Fin 4096) (rd rs1 rs2 : Fin 32) (s : State) : Res :=
  .next (s.gOp th.val rd fun t => if (t.rg rs1).toInt ≤ (t.rg rs2).toInt then t.rg rs1 else t.rg rs2)
def execMax (th : Fin 4096) (rd rs1 rs2 : Fin 32) (s : State) : Res :=
  .next (s.gOp th.val rd fun t => if (t.rg rs1).toInt ≤ (t.rg rs2).toInt then t.rg rs2 else t.rg rs1)
def execMinu (th : Fin 4096) (rd rs1 rs2 : Fin 32) (s : State) : Res :=
  .next (s.gOp th.val rd fun t => if (t.rg rs1).toNat ≤ (t.rg rs2).toNat then t.rg rs1 else t.rg rs2)
def execMaxu (th : Fin 4096) (rd rs1 rs2 : Fin 32) (s : State) : Res :=
  .next (s.gOp th.val rd fun t => if (t.rg rs1).toNat ≤ (t.rg rs2).toNat then t.rg rs2 else t.rg rs1)
/-- CLZ: 64 for 0. -/
def clz64 (v : Nat) : Nat := if v % 2 ^ 64 = 0 then 64 else 63 - Nat.log2 (v % 2 ^ 64)
def execClz (th : Fin 4096) (rd rs1 : Fin 32) (s : State) : Res :=
  .next (s.gOp th.val rd fun t => BitVec.ofNat 64 (clz64 (t.rg rs1).toNat))
def popc64 (v : Nat) : Nat := ((List.range 64).filter fun i => bit v i).length
def execPopc (th : Fin 4096) (rd rs1 : Fin 32) (s : State) : Res :=
  .next (s.gOp th.val rd fun t => BitVec.ofNat 64 (popc64 (t.rg rs1).toNat))
def bswap64 (v : Nat) : Nat := leVal (leBytes 8 v).reverse
def execBswap (th : Fin 4096) (rd rs1 : Fin 32) (s : State) : Res :=
  .next (s.gOp th.val rd fun t => BitVec.ofNat 64 (bswap64 (t.rg rs1).toNat))

/-! ## Immediates (R158) -/

def execAddi (th : Fin 4096) (rd rs1 : Fin 32) (imm : BitVec 16) (s : State) : Res :=
  .next (s.gOp th.val rd fun t => t.rg rs1 + imm.signExtend 64)
def execAndi (th : Fin 4096) (rd rs1 : Fin 32) (imm : BitVec 16) (s : State) : Res :=
  .next (s.gOp th.val rd fun t => t.rg rs1 &&& imm.zeroExtend 64)
def execOri (th : Fin 4096) (rd rs1 : Fin 32) (imm : BitVec 16) (s : State) : Res :=
  .next (s.gOp th.val rd fun t => t.rg rs1 ||| imm.zeroExtend 64)
def execXori (th : Fin 4096) (rd rs1 : Fin 32) (imm : BitVec 16) (s : State) : Res :=
  .next (s.gOp th.val rd fun t => t.rg rs1 ^^^ imm.zeroExtend 64)
def execLui (th : Fin 4096) (rd : Fin 32) (imm : BitVec 16) (s : State) : Res :=
  .next (s.gOp th.val rd fun _ => imm.signExtend 64 <<< 16)

/-! ## Memory (R160) -/

def execLd (th : Fin 4096) (rt : Fin 32) (an : Fin 8) (am sz : Fin 4) (sx : Bool) (off : BitVec 13) (s : State) : Res :=
  .next (s.issue th.val fun s =>
    let t := s.thread th.val
    let n := 2 ^ sz.val
    let m := t.mAddr an am.val n off
    if m.2.2 ≠ 0 then s.fault th.val m.2.2
    else s.doLoad th.val m.1 n rt sx (t.wa an (BitVec.ofNat 48 m.2.1)))

def execSt (th : Fin 4096) (rt : Fin 32) (an : Fin 8) (am sz : Fin 4) (off : BitVec 13) (s : State) : Res :=
  .next (s.issue th.val fun s =>
    let t := s.thread th.val
    let n := 2 ^ sz.val
    let m := t.mAddr an am.val n off
    if m.2.2 ≠ 0 then s.fault th.val m.2.2
    else s.doStore th.val m.1 (leBytes n (t.rg rt).toNat) (t.wa an (BitVec.ofNat 48 m.2.1)))

def execMovaToA (th : Fin 4096) (ad : Fin 8) (rs1 : Fin 32) (s : State) : Res :=
  .next (s.tOp th.val fun t => t.wa ad ((t.rg rs1).truncate 48))
def execMovaFromA (th : Fin 4096) (rd : Fin 32) (an : Fin 8) (s : State) : Res :=
  .next (s.gOp th.val rd fun t => t.a[an].zeroExtend 64)
def execAdda (th : Fin 4096) (ad an : Fin 8) (imm : BitVec 16) (s : State) : Res :=
  .next (s.tOp th.val fun t => t.wa ad (t.a[an] + imm.signExtend 48))

/-! ## Atomics (R156, R158) -/

/-- Shared form: operand g[rs2], compare value g[rd], address a[an]. -/
def State.atomOp (s : State) (th : Nat) (rd : Fin 32) (an : Fin 8) (rs2 : Fin 32) (dbl sgn : Bool) (op : Nat) : State :=
  s.issue th fun s =>
    let t := s.thread th
    s.doAtomic th t.a[an].toNat (if dbl then 8 else 4) rd op sgn (t.rg rs2).toNat (t.rg rd).toNat

def execAtomAdd (th : Fin 4096) (rd : Fin 32) (an : Fin 8) (rs2 : Fin 32) (dbl : Bool) (s : State) : Res :=
  .next (s.atomOp th.val rd an rs2 dbl false 0)
def execAtomMin (th : Fin 4096) (rd : Fin 32) (an : Fin 8) (rs2 : Fin 32) (dbl sgn : Bool) (s : State) : Res :=
  .next (s.atomOp th.val rd an rs2 dbl sgn 1)
def execAtomMax (th : Fin 4096) (rd : Fin 32) (an : Fin 8) (rs2 : Fin 32) (dbl sgn : Bool) (s : State) : Res :=
  .next (s.atomOp th.val rd an rs2 dbl sgn 2)
/-- CAS with the signed bit set is an illegal instruction (R158). -/
def execAtomCas (th : Fin 4096) (rd : Fin 32) (an : Fin 8) (rs2 : Fin 32) (dbl sgn : Bool) (s : State) : Res :=
  .next (if sgn then s.issue th.val fun s => s.fault th.val 1 else s.atomOp th.val rd an rs2 dbl false 3)

/-! ## Branches (R158, R185) -/

/-- `cond` of BR: EQ, NE, LT, GE, LTU, GEU. -/
def brCond (c : Nat) (x y : Word) : Bool :=
  match c with
  | 0 => x == y
  | 1 => x != y
  | 2 => x.toInt < y.toInt
  | 3 => y.toInt ≤ x.toInt
  | 4 => x.toNat < y.toNat
  | _ => y.toNat ≤ x.toNat

def execBr (th : Fin 4096) (rs1 rs2 : Fin 32) (cond : Fin 6) (off : BitVec 13) (s : State) : Res :=
  .next (s.issue th.val fun s =>
    let t := s.thread th.val
    if brCond cond.val (t.rg rs1) (t.rg rs2) then
      s.bubble th.val (t.jump (t.pc + off.signExtend 48 * 4))
    else s.done th.val t)

def execJ (th : Fin 4096) (off : BitVec 26) (s : State) : Res :=
  .next (s.issue th.val fun s =>
    let t := s.thread th.val
    s.bubble th.val (t.jump (t.pc + off.signExtend 48 * 4)))

def execJal (th : Fin 4096) (off : BitVec 26) (s : State) : Res :=
  .next (s.issue th.val fun s =>
    let t := s.thread th.val
    s.bubble th.val ((t.wg 31 ((t.pc + 4).zeroExtend 64)).jump (t.pc + off.signExtend 48 * 4)))

/-- JALR: a target that is not a multiple of 4 is fault cause 2. -/
def execJalr (th : Fin 4096) (rd rs1 : Fin 32) (imm : BitVec 16) (s : State) : Res :=
  .next (s.issue th.val fun s =>
    let t := s.thread th.val
    let target := (t.rg rs1 + imm.signExtend 64).truncate 48
    if target.toNat % 4 ≠ 0 then s.fault th.val 2
    else s.bubble th.val ((t.wg rd ((t.pc + 4).zeroExtend 64)).jump target))

/-! ## CVT (R158, R127) -/

/-- Formats that CVT supports. -/
def cvtFmt (f : Nat) : Bool := f ≤ 10 || (16 ≤ f && f ≤ 18)

/-- The source value of a CVT: for MXINT8 the scale byte lies in bits [15:8]. -/
def cvtSource (sfmt v : Nat) : Num :=
  if sfmt = 16 then mxValue 16 (v / 256 % 256) (v % 256)
  else if sfmt = 17 then .ofInt (toSigned 16 v)
  else decodeElem sfmt (v % 2 ^ fmtBits sfmt)

/-- Storing the value saturates (R139): it takes the largest finite value or an end of the range, not an infinity. -/
def saturates (dfmt : Nat) (r : Rnd) (v : Num) : Bool :=
  match fltFmt (mxElem dfmt) with
  | some f => match v with
    | .nan => false
    | .inf _ => f.special != 2
    | .fin _ m e =>
      (f.encodeMag r (dfmt == 5 || dfmt == 7) m e).isNone && !(r == .rne && f.special == 2 && dfmt != 4)
  | none =>
    let lim : Int × Int := match dfmt with
      | 8 => (-8, 7) | 9 => (-128, 127) | 10 => (-2147483648, 2147483647) | 16 => (-128, 127)
      | 17 => (-32768, 32767) | _ => (-32768, 32766)
    match if dfmt = 16 then v.scale 6 else v with
    | .nan => false
    | .inf neg => dfmt != 18 || neg
    | .fin neg m e =>
      let n : Int := (shiftRound r m e).1
      let n := if neg then -n else n
      n < lim.1 || lim.2 < n

def execCvt (th : Fin 4096) (rd rs1 : Fin 32) (sfmt dfmt : Fin 32) (rnd : Bool) (s : State) : Res :=
  .next (s.issue th.val fun s =>
    if !(cvtFmt sfmt.val && cvtFmt dfmt.val) then s.fault th.val 1
    else
      let t := s.thread th.val
      let v := (t.rg rs1).toNat
      if sfmt.val = 17 ∧ dfmt.val = 17 then s.done th.val (s.lateBy th.val 2 (t.wg rd (BitVec.ofNat 64 (v % 2 ^ 32))))
      else
        let x := cvtSource sfmt.val v
        let t := if saturates dfmt.val (rndOf rnd) x then { t with cvtOvf := true } else t
        s.done th.val (s.lateBy th.val 2 (t.wg rd (BitVec.ofNat 64 (encodeElem dfmt.val (rndOf rnd) x)))))

/-! ## Replies and acknowledgements (R154, R155) -/

/-- A thread leaves PARKED; the core's count of remote operations falls. -/
def State.unpark (s : State) (th : Nat) (k : Nat := 1) : State :=
  let c := s.spur (th / 8)
  (s.setSpur (th / 8) { c with remote := c.remote - k }).setThread th { s.thread th with st := .ready, wait := none }

/-- Fault cause of an error answer: unmapped and region answers are cause 3, the others cause 6. -/
def answerCause (st : Nat) : Nat := if st = St.addrUnmapped || st = St.regionFault then 3 else 6

/-- The line of a cacheable DRAM access that missed comes into the data cache, with the thread's queued stores on it (R153,
R156); other accesses are metered alone. -/
def State.missFill (s : State) (th a n key : Nat) (cache : Bool) : State :=
  if cache && s.isDram a && s.rdStatus (a / 64 * 64) 64 key == St.ok then
    (s.meter th (a / 64 * 64) 64).fillLine th { line := a / 64, dirty := false, key := key
                                                bytes := overlay (s.thread th).sq (a / 64 * 64) (s.load (a / 64 * 64) 64 key) }
  else s.meter th a n

/-! ### FTAP (R186): its loads may be remote, so its end stands here -/

/-- Element sizes of `typ`. -/
def ftapSample (typ : Nat) : Nat := if typ = 2 then 2 else 4
def ftapCoeff (typ : Nat) : Nat := if typ = 1 || typ = 2 then 2 else 4

def Thread.setAcc (t : Thread) (i : Fin 4) (v : BitVec 80) : Thread := { t with acc := t.acc.set i v }

/-- Doubling by `frac`. -/
def dbl (frac : Bool) (p : Int) : Int := if frac then 2 * p else p

/-- Product sum over the taps: one, or two with the lower address first. -/
def ftapProduct (typ : Nat) (dual : Bool) (x h : Nat) : Int × Int :=
  let p0 := dspProduct typ x h
  if dual then
    let p1 := dspProduct typ (x / 2 ^ (8 * ftapSample typ)) (h / 2 ^ (8 * ftapCoeff typ))
    (p0.1 + p1.1, p0.2 + p1.2)
  else p0

/-- What an FTAP does with its operands: the accumulator, the pointers, the move. -/
def State.ftapEnd (s : State) (th : Nat) (w : FtapWait) (x h : Nat) : State :=
  let t := s.thread th
  let p := ftapProduct w.typ w.dual x h
  let sg (v : Int) : Int := if w.neg then -v else v
  let old := t.acc[w.ad]
  let r := satComplex (accRe old + sg (dbl w.frac p.1))
    (if w.typ = 2 then accIm old else accIm old + sg (dbl w.frac p.2))
  let t' := ((t.setAcc w.ad r.1).wa w.ax w.nx).wa w.ah w.nh
  let t' := if r.2 then { t' with sat := true } else t'
  let s := if r.2 then s.bump F.SPR_DSP_STAT.sat_cnt (th / 8) else s
  match w.mv with
  | some m => s.finishStore th m.1 (leBytes w.x.size x) m.2 t'
  | none => s.done th t'

/-- Status and value of one load of an FTAP at its memory. -/
def State.tapStatus (s : State) (l : TapLoad) : Nat := if l.val.isSome then St.ok else s.rdStatus l.addr l.size l.key
def State.tapValue (s : State) (th : Nat) (l : TapLoad) : Nat :=
  l.val.getD (leVal (overlay (s.thread th).sq l.addr (s.load l.addr l.size l.key)))
/-- Loads of an FTAP that are remote. -/
def FtapWait.remote (w : FtapWait) : Nat := b2n w.x.val.isNone + b2n w.h.val.isNone

/-- The replies to the loads of an FTAP: where one is in error nothing of it happens (R187). -/
def State.ftapReply (s : State) (th : Nat) (w : FtapWait) : State :=
  let bad := [w.x, w.h].find? fun l => s.tapStatus l != St.ok
  let s1 := s.unpark th w.remote
  match bad with
  | some l => (s1.rdRecord l.addr l.size l.key).fault th (answerCause (s.tapStatus l))
  | none =>
    let x := s.tapValue th w.x
    let h := s.tapValue th w.h
    let s := [w.x, w.h].foldl (fun s l => if l.val.isSome then s else s.missFill th l.addr l.size l.key l.cache) s1
    s.ftapEnd th w x h

/-- The reply to a parked load or atomic: the register is written and the thread is READY; a cacheable line is filled. -/
def State.remoteReply (s : State) (th : Nat) : State :=
  match (s.thread th).wait with
  | some (.load a n rt sx key cache) =>
    let st := s.rdStatus a n key
    let s := s.unpark th
    if st ≠ St.ok then (s.rdRecord a n key).fault th (answerCause st)
    else
      let v := leVal (overlay (s.thread th).sq a (s.load a n key))
      let s := s.missFill th a n key cache
      s.done th ((s.thread th).wg (Fin.ofNat 32 rt) (extend n sx v))
  | some (.atomic op a n rd opnd cmp sgn key) =>
    let st := s.accStatus a n key
    let s := s.unpark th
    if st ≠ St.ok then s.fault th (answerCause st)
    else match (s.meter th a n).atomicAt a n key op sgn opnd cmp with
      | (s, some old) => s.done th ((s.thread th).wg (Fin.ofNat 32 rd) (BitVec.ofNat 64 old))
      | (s, none) => s.fault th 6
  | some (.ftap w) => s.ftapReply th w
  | _ => s

/-- What a freed queue entry or an empty queue releases. -/
def State.afterAck (s : State) (th : Nat) : State :=
  let t := s.thread th
  match t.wait with
  | some (.storeRoom p) => s.done th { t with st := .ready, wait := none, sq := t.sq ++ [p] }
  | some .fenced => if t.sq.isEmpty then s.done th { t with st := .ready, wait := none } else s
  | _ => s

/-- Entry `k` of the store queue is acknowledged: it becomes visible, unless an earlier store of the queue goes to the same
line (R156). -/
def State.ackStore (s : State) (th k : Nat) : State :=
  let t := s.thread th
  match t.sq[k]? with
  | none => s
  | some p =>
    if (t.sq.take k).any fun q => q.addr / 64 == p.addr / 64 then s
    else
      let s := s.postStore th p
      (s.setThread th { t with sq := t.sq.eraseIdx k }).afterAck th

def execStoreAck (th : Fin 4096) (k : Fin 7) (s : State) : Res := .next (s.ackStore th.val k.val)

end Sys2Proof.Machine
end

