-- ==== Sys2Proof/Machine/Time.lean ====
section
/-! DEFINITION. Device time (R44–R68): the servo's states, lock, steps and holdover, the best-master choice, SyncE, the
1PPS signals, compare timers and the snapshot. The step itself (TIME_STEP) acts on running work and stands in Edge. -/

namespace Sys2Proof.Machine

/-! ## Event numbers of the model (R489): the low byte of a record's code is the release dictionary's -/

namespace Ev
def holdLimit := 1
def refuseFault := 2
def ptpPort := 3
def column := 4
def overrun := 5
def radioDesc := 6
def fence := 7
def substitution := 8
def roles := 9
def dramDevice := 10
def channel := 11
def router := 12
def fhLink := 13
def plan := 14
def link := 15
def entitlement := 16
def crash := 17
def holdDown := 18
def signature := 19
def lockout := 20
def ready := 21
def floor := 22
def converter := 23
def clamp := 24
def trip := 25
def bringUp := 26
def radioHang := 27
def tagTakeDown := 28
def update := 29
def debug := 30
def spareLoss := 31
def memError := 32
def straggler := 33
def member := 34
end Ev

/-! ## Servo states (R51) -/

def freerun := 0
def acquiring := 1
def locked := 2
def holdover := 3

def State.servo (s : State) : Nat := s.rd F.TIME_STAT.state
def State.setServo (s : State) (v : Nat) : State := s.put F.TIME_STAT.state v
def State.srcSel (s : State) : Nat := s.rd F.TIME_CTRL.src_sel

/-- Forget the lock progress and a step that waits. -/
def State.clearLock (s : State) : State := s.setTime { s.time with lockRun := [], locked := false, pending := none }

/-- Mean of the corrections of the last 16 s of accepted measurements (R54); nothing before the first. -/
def heldRate (rs : List (Nat × Int)) : Option Int :=
  match rs with
  | [] => none
  | (t, _) :: _ =>
    let w := rs.filter fun x => t ≤ x.1 + 16000000000
    some ((w.foldl (fun a x => a + x.2) 0) / (w.length : Int))

/-- Enter or stay in HOLDOVER: the rate is frozen when it is entered (R54). The rate held is that of the time in LOCKED
before it, whatever state lay between (DESIGN CHOICE, log 80: R49 and R55 name no other). -/
def State.enterHoldover (s : State) : State :=
  if s.servo = holdover then s
  else
    let s := match heldRate s.time.rates with
      | some r => s.putS F.TIME_OFFSET.rate r
      | none => s
    let s := s.clearLock.setServo holdover
    s.setTime { s.time with holdSince := some s.nowNs }

/-- Enter LOCKED. -/
def State.enterLocked (s : State) : State :=
  let s := s.setServo locked
  s.setTime { s.time with holdSince := none, refuseSince := none, degraded := false, rates := [] }

/-- Enter FREERUN or ACQUIRING: no correction is applied, and nothing of a holdover is left (R51). -/
def State.enterNominal (s : State) (v : Nat) : State :=
  let s := (s.clearLock.setServo v).putS F.TIME_OFFSET.rate 0
  s.setTime { s.time with holdSince := none, refuseSince := none, degraded := false }

/-- The selected source is lost: after a step that is HOLDOVER, before the first it is FREERUN (R51, R55). -/
def State.sourceLost (s : State) : State :=
  if s.servo = locked ∨ s.servo = acquiring then
    if s.on F.TIME_STAT.stepped then s.enterHoldover else s.enterNominal freerun
  else s

/-- The time clock comes from the SyncE recovered clock: it is valid and enabled, and source 0 is selected, the only one
whose frequency it gives (R44, R49, R61). While it is, the frequency of device time follows it in every state of the servo,
HOLDOVER among them (R54): each cycle of that clock is one cycle of the counter. -/
def State.onSynce (s : State) : Bool := s.time.synceValid && s.on F.TIME_CTRL.synce_en && s.srcSel == 0

/-- `synce_ok` follows. -/
def State.showSynce (s : State) : State := s.put F.TIME_STAT.synce_ok (b2n s.onSynce)

/-- A change of `src_sel` (R49). -/
def State.changeSource (s : State) (v : Nat) : State :=
  if s.srcSel = v then s
  else
    let s := (s.put F.TIME_CTRL.src_sel v).clearLock.showSynce
    if v = 2 then s.enterNominal freerun
    else if s.on F.TIME_STAT.stepped then s.enterHoldover
    else s.enterNominal acquiring

/-- SRC_SEL_WRITE: 3 is ignored; on the MXD1-I both fields are (R50). -/
def execSrcSelWrite (wr : Writer) (sel : Fin 4) (synceEn : Bool) (s : State) : Host.Outcome State Fault Refusal :=
  .next (
    if s.isI || !s.mayWrite wr F.TIME_CTRL.src_sel 0 then s
    else
      let s := (s.put F.TIME_CTRL.synce_en (b2n synceEn)).showSynce
      if sel.val = 3 then s else s.changeSource sel.val)

/-- FORCE_HOLDOVER (R51, R54): set, it takes every state but FREERUN to HOLDOVER; cleared before the first step, the device
acquires. -/
def execForceHoldover (wr : Writer) (on : Bool) (s : State) : Host.Outcome State Fault Refusal :=
  .next (
    if s.mayWrite wr F.TIME_CTRL.force_holdover 0 then
      let s := s.put F.TIME_CTRL.force_holdover (b2n on)
      if on then (if s.servo = freerun then s else s.enterHoldover)
      else if s.servo = holdover ∧ s.rd F.TIME_STAT.stepped = 0 then s.enterNominal acquiring
      else s
    else s)

/-- STEP_ARM (R57). -/
def execStepArm (wr : Writer) (s : State) : Host.Outcome State Fault Refusal :=
  .next (
    if s.mayWrite wr F.TIME_CTRL.step_arm 0 then
      if s.cellActive then s.put F.TIME_STAT.step_refused 1
      else if s.srcSel = 2 then s.clearLock
      else s.enterNominal acquiring
    else s)

/-! ## Measurements (R51–R54) -/

/-- Rate correction for an accepted measurement, in 0.001 ppb, and whether it was cut (R52). -/
def State.correction (s : State) (off freq : Int) : Int × Bool :=
  let lim : Int := s.rd F.TIME_SLEW.slew_ppb * 1000
  let ph := Config.phaseTerm off
  let cut := clampInt (-lim) lim ph
  let r := clampInt (-100000000) 100000000 (freq + cut)
  (r, cut != ph || r != freq + cut)

/-- A measurement after the step (R53, R54). -/
def State.measure (s : State) (off freq : Int) : State :=
  let s := s.putS F.TIME_OFFSET.last_offset (clampInt (-2147483647) 2147483647 off)
  if s.rd F.TIME_JUMP_THR.thr_ns < off.natAbs then
    let s := (s.put F.TIME_STAT.jump_refused 1).bump F.TIME_COUNT.refuse_cnt
    let s := s.setTime { s.time with refuseSince := some (s.time.refuseSince.getD s.nowNs) }
    s.enterHoldover
  else
    let s := s.setTime { s.time with refuseSince := none }
    if s.on F.TIME_CTRL.force_holdover then s
    else
      let s := if s.servo = locked then s else s.enterLocked
      let c := s.correction off freq
      let s := s.putS F.TIME_OFFSET.rate c.1
      let s := if c.2 then s.put F.TIME_STAT.rate_clamped 1 else s
      s.setTime { s.time with freq := freq, rates := (s.nowNs, c.1) :: (s.time.rates.filter fun x => s.nowNs ≤ x.1 + 16000000000) }

/-- A step of `d` ns is due; with a cell active it is refused (R52). -/
def State.askStep (s : State) (d : Int) : State :=
  if s.cellActive then s.clearLock.put F.TIME_STAT.step_refused 1
  else s.setTime { s.time with pending := some d }

/-- An offset while acquiring from PTP: eight Sync intervals within 100 ns lock, and the next is stepped to (R51, R52). -/
def State.acquirePtp (s : State) (off : Int) : State :=
  if s.time.locked then s.askStep (-off)
  else
    let run := (off :: s.time.lockRun).take 8
    let mx := run.foldl max off
    let mn := run.foldl min off
    s.setTime { s.time with lockRun := run, locked := run.length == 8 && decide (mx - mn ≤ 100) }

/-! ## Ports of the time functions (R59, R61, R246, R247) -/

/-- The link field of a subport. -/
def linkField : Nat → Field
  | 0 => F.FH_PORT_STAT.link_0 | 1 => F.FH_PORT_STAT.link_1 | 2 => F.FH_PORT_STAT.link_2 | _ => F.FH_PORT_STAT.link_3

/-- Link state of a subport: 0 DOWN, 1 TRAINING, 2 UP, 3 ABSENT. -/
def State.fhLink (s : State) (x sub : Nat) : Nat := s.rd (linkField sub) x

/-- Subports of a port by its split (R246). -/
def fhSubports (split : Nat) : Nat := match split with | 0 => 1 | 1 => 2 | 2 => 4 | _ => 0
def State.fhExists (s : State) (x sub : Nat) : Bool :=
  x < s.nFh && sub < fhSubports (s.rd F.FH_PORT_CFG.split x)
/-- A subport that carries frames. -/
def State.fhUp (s : State) (x sub : Nat) : Bool := s.fhExists x sub && s.fhLink x sub == 2

/-- The slave port. -/
def State.isSlave (s : State) (x sub : Nat) : Bool :=
  x == s.rd F.TIME_PORT.ptp_port && sub == s.rd F.TIME_PORT.ptp_subport

/-- A PTP message of the selected domain arrives on the slave port, which carries frames (R59). -/
def State.ptpIn (s : State) (x sub domain : Nat) : Bool :=
  s.procUp tc && s.isSlave x sub && s.fhUp x sub && domain == s.rd F.TIME_PORT.domain

/-! ## Masters (R55, R56, R60) -/

/-- `a` comes before `b` in the alternate BMCA of the profile (PRESUMED: ITU-T G.8275.1). -/
def announceBetter (a b : Announce) : Bool :=
  let k (x : Announce) : List Nat := [x.clockClass.toNat, x.clockAccuracy.toNat, x.variance.toNat, x.priority2.toNat,
    x.localPriority.toNat, x.stepsRemoved.toNat, x.gm.toNat]
  decide (k a < k b)

def bestMaster (ms : List Announce) : Option Announce :=
  ms.foldl (fun b a => match b with
    | none => some a
    | some x => if announceBetter a x then some a else b) none

/-- The choice after the records changed: another grandmaster counts, leaves LOCKED and restarts lock detection (R55). -/
def State.choose (s : State) : State :=
  match bestMaster s.time.masters with
  | none => s
  | some a =>
    let s := (s.put F.TIME_UTC.utc_offset a.utcOffset.toNat).put F.TIME_UTC.utc_valid 1
    match s.time.gm with
    | none => s.setTime { s.time with gm := some a.gm }
    | some g =>
      if g = a.gm then s
      else
        let s := (s.setTime { s.time with gm := some a.gm }).bump F.TIME_COUNT.gm_change_cnt
        if s.srcSel ≠ 0 then s
        else if s.servo = locked then s.enterHoldover
        else if s.servo = acquiring then (if s.on F.TIME_STAT.stepped then s.enterHoldover else s.clearLock)
        else s

/-- ANNOUNCE_RECEIVED: the record of the master that sent it is made or renewed. Only the slave port feeds the choice:
what stands behind a master port changes nothing (R60). -/
def execAnnounceReceived (x : AnnounceMsg) (ns : Nat) (s : State) : Host.Outcome State Fault Refusal :=
  .next (
    if s.ptpIn x.via.port x.via.sub x.via.domain.toNat then
      let s := s.atNs ns
      (s.setTime { s.time with masters := (s.time.masters.filter fun m => m.src != x.body.src) ++ [x.body] }).choose
    else s)

/-- The master that the BMCA has selected. -/
def State.parent (s : State) : Option Announce := bestMaster s.time.masters

/-- SYNC_RECEIVED, from the selected master on the slave port: `offset` = device − master in ns, compensated for frequency;
`freq` is the measured frequency offset. A forced HOLDOVER before the first step has no measurement to test (R53). -/
def execSyncReceived (from_ : PtpSender) (offset : Int) (freq : Int) (ns : Nat) (s : State) : Host.Outcome State Fault Refusal :=
  .next (
    if s.srcSel = 0 ∧ s.ptpIn from_.via.port from_.via.sub from_.via.domain.toNat ∧ (s.parent.any fun m => m.src == from_.src) then
      let s := s.atNs ns
      if s.servo = freerun then (s.enterNominal acquiring).acquirePtp offset
      else if s.servo = acquiring then (if s.time.pending.isSome then s else s.acquirePtp offset)
      else if s.rd F.TIME_STAT.stepped = 0 then s
      else s.measure offset freq
    else s)

/-- ANNOUNCE_TIMEOUT: the record is dropped (R60); where it was the selected master's, another is chosen or the source is
lost. -/
def execAnnounceTimeout (src : BitVec 80) (s : State) : Host.Outcome State Fault Refusal :=
  .next (
    if s.time.masters.any fun m => m.src == src then
      let was := s.parent.any fun m => m.src == src
      let s := s.setTime { s.time with masters := s.time.masters.filter fun m => m.src != src }
      if !was then s
      else if s.time.masters.isEmpty then (if s.srcSel = 0 then s.sourceLost else s)
      else s.choose
    else s)

/-- SYNC_TIMEOUT. -/
def execSyncTimeout (s : State) : Host.Outcome State Fault Refusal :=
  .next (if s.srcSel = 0 then s.sourceLost else s)

/-- HOLD_LIMIT_EXCEEDED (R56). -/
def execHoldLimitExceeded (s : State) : Host.Outcome State Fault Refusal :=
  .next (
    match s.time.holdSince with
    | some t =>
      if s.servo = holdover ∧ t + s.rd F.TIME_HOLD.hold_limit_s * 1000000000 ≤ s.nowNs ∧ s.time.degraded = false then
        let s := (s.put F.TIME_STAT.hold_limit_exceeded 1).event 1 2 Ev.holdLimit (s.nowNs - t) tc
        s.setTime { s.time with degraded := true }
      else s
    | none => s)

/-- REFUSE_FAULT (R56). -/
def execRefuseFault (s : State) : Host.Outcome State Fault Refusal :=
  .next (
    match s.time.refuseSince with
    | some t =>
      if t + s.rd F.TIME_HOLD.refuse_limit_s * 1000000000 ≤ s.nowNs then
        (s.put F.TIME_STAT.refuse_fault 1).service 1 Ev.refuseFault (s.nowNs - t) tc
      else s
    | none => s)

/-! ## Messages of the time functions (R56, R59, R61) -/

/-- The clockClass that the device announces (R56): the grandmaster's while LOCKED to one, then the profile's values for
holdover within specification, holdover beyond the limit, and a clock that is not synchronised (PRESUMED: 135, 165 and 248, the
telecom boundary clock of ITU-T G.8275.1, for both profiles; log 81). -/
def State.clockClass (s : State) : Nat :=
  if s.servo = locked then (match s.parent with | some m => m.clockClass.toNat | none => 6)
  else if s.servo = holdover then (if s.time.degraded then 165 else 135)
  else 248

/-- A PTP message leaves a port: Ethernet multicast with G.8275.1, UDP unicast with G.8275.2, in the domain of TIME.PORT
(R59); an Announce (type 11) carries the clockClass. -/
def State.ptpOut (s : State) (x sub kind : Nat) : State :=
  s.emit (.ptp x sub kind (s.rd F.TIME_PORT.domain) (s.on F.TIME_PORT.profile) (if kind = 11 then s.clockClass else 0))

/-- PTP_MASTER_TX: TC sends a PTP message of a type on a master port. -/
def execPtpMasterTx (port : Fin 8) (sub : Fin 4) (kind : Fin 16) (s : State) : Host.Outcome State Fault Refusal :=
  .next (if s.procUp tc && s.fhUp port sub && !s.isSlave port sub then s.ptpOut port sub kind else s)

/-- The answer to a PTP message type: Delay_Resp to Delay_Req, Pdelay_Resp to Pdelay_Req, Signaling to Signaling. -/
def ptpAnswer : Nat → Option Nat
  | 1 => some 9
  | 2 => some 3
  | 12 => some 12
  | _ => none

/-- PTP_REQUEST_RECEIVED: unicast negotiation belongs to profile G.8275.2. -/
def execPtpRequestReceived (port : Fin 8) (sub : Fin 4) (kind : Fin 16) (s : State) : Host.Outcome State Fault Refusal :=
  .next (
    if s.procUp tc && s.fhUp port sub && !s.isSlave port sub then
      match ptpAnswer kind with
      | some a => if kind.val = 12 ∧ s.rd F.TIME_PORT.profile = 0 then s else s.ptpOut port sub a
      | none => s
    else s)

/-- SyncE is valid and in use. -/
def State.evalSynce (s : State) (valid : Bool) : State :=
  State.showSynce (s.setTime { s.time with synceValid := valid })

/-- ESMC_RECEIVED: TC takes the quality level of the SyncE port (R61). -/
def execEsmcReceived (port : Fin 8) (sub : Fin 4) (ql : BitVec 4) (s : State) : Host.Outcome State Fault Refusal :=
  .next (
    if s.procUp tc && s.fhUp port sub && port.val == s.rd F.TIME_PORT.synce_port && sub.val == s.rd F.TIME_PORT.synce_subport
    then (s.setTime { s.time with synceQl := ql.toNat }).evalSynce (Config.esmcAccepts ql.toNat)
    else s)

/-- SYNCE_LOSS. -/
def execSynceLoss (s : State) : Host.Outcome State Fault Refusal := .next (s.evalSynce false)

/-- ESMC_TX: the device's own quality level on the other enabled ports. -/
def execEsmcTx (s : State) : Host.Outcome State Fault Refusal :=
  .next (
    if s.procUp tc then
      ((span 0 32).filter fun k => s.fhUp (k / 4) (k % 4) &&
          !(k / 4 == s.rd F.TIME_PORT.synce_port && k % 4 == s.rd F.TIME_PORT.synce_subport)).foldl
        (fun s k => s.emit (.esmc (k / 4) (k % 4) (Config.esmcOwn s.servo % 16))) s
    else s)

/-! ## 1PPS (R50, R58, R62, R63) -/

/-- The rounded distance of an instant from the nearest second. -/
def ppsOffset (t : Int) : Int := (t + 500000000) % 1000000000 - 500000000

/-- An edge with 1PPS selected. `t` is its timestamp less the cable delay. -/
def State.ppsUse (s : State) (t freq : Int) (last : Option Nat) : State :=
  let s := if s.servo = freerun then s.enterNominal acquiring else s
  if s.servo = acquiring then
    if s.time.pending.isSome then s
    else if s.time.locked then
      if s.time.todWritten then
        s.askStep ((s.rd F.TIME_TOD_NEXT.tod_sec : Int) * 1000000000 + s.rdS F.TIME_PPS_IN.cable_delay_ns - (s.nowNs : Int))
      else s
    else
      let gap := last.map fun l => (s.nowNs : Int) - (l : Int)
      let run := match gap with
        | some g => if 999999900 ≤ g ∧ g ≤ 1000000100 then (g :: s.time.lockRun).take 3 else []
        | none => []
      s.setTime { s.time with lockRun := run, locked := run.length == 3 && s.time.todWritten }
  else if s.rd F.TIME_STAT.stepped = 0 then s
  else s.measure (ppsOffset t) freq

/-- PPS_IN_EDGE: an edge of the other polarity than `edge` selects is not timestamped (R62). -/
def execPpsInEdge (x : PpsEdge) (ns : Nat) (s : State) : Host.Outcome State Fault Refusal :=
  .next (
    if s.on F.TIME_PPS_IN.edge != x.falling then s
    else
      let s := s.atNs ns
      let last := s.time.ppsLast
      let s := (s.setTime { s.time with ppsLast := some s.nowNs }).put F.TIME_STAT.pps_in_present 1
      let s := if s.isI then s.changeSource 1 else s
      if s.srcSel = 1 then s.ppsUse ((s.nowNs : Int) - s.rdS F.TIME_PPS_IN.cable_delay_ns) x.freq last else s)

/-- PPS_IN_TIMEOUT: 1.5 s without an edge. The MXD1-I then free-runs (R4, R50). -/
def execPpsInTimeout (s : State) : Host.Outcome State Fault Refusal :=
  .next (
    match s.time.ppsLast with
    | some t =>
      if t + 1500000000 ≤ s.nowNs ∧ s.on F.TIME_STAT.pps_in_present then
        let s := s.put F.TIME_STAT.pps_in_present 0
        if s.isI then s.changeSource 2 else if s.srcSel = 1 then s.sourceLost else s
      else s
    | none => s)

/-- The time outputs are driven (R63). -/
def State.ppsDriven (s : State) : Bool := s.servo != freerun || s.on F.TIME_CTRL.pps_out_force

/-- The 10 MHz output runs, its rising edges on those of the 1PPS output (R63). -/
def State.tenMHz (s : State) : Bool := s.ppsDriven && s.on F.TIME_CTRL.clk10m_out_en

/-- PPS_OUT_PULSE: the nanosecond field is 0; the output is high for `width_ns`. -/
def execPpsOutPulse (s : State) : Host.Outcome State Fault Refusal :=
  .next (
    if s.time.ns = 0 ∧ s.ppsDriven ∧ s.on F.TIME_CTRL.pps_out_en then
      s.emit (.pps s.time.sec (s.rd F.TIME_PPS_OUT.width_ns) s.tenMHz)
    else s)

/-! ## Compare timers and the snapshot (R46–R48, R68, R387) -/

/-- `now` is not before a target, by signed difference. -/
def State.due (s : State) (target : Nat) : Bool := decide (0 ≤ toSigned 64 ((s.compare + 2 ^ 64 - target % 2 ^ 64) % 2 ^ 64))

/-- Timer `n` fires: its bit, its interrupt; it does not fire again before it is armed. -/
def State.fireTimer (s : State) (n : Nat) : State :=
  let s := s.setTime { s.time with armed := s.time.armed - (s.time.armed &&& 2 ^ n) }
  (s.orf F.TIME_CMP_CTRL.fired (2 ^ n)).msix 0 (3 + n)

/-- Timer `n` is armed and due. -/
def State.timerDue (s : State) (n : Nat) : Bool :=
  bit s.time.armed n && bit (s.rd F.TIME_CMP_CTRL.enable) n && s.due (s.rd F.TIME_CMP_TARGET.target n)

/-- CMP_TIMER_FIRE. -/
def execCmpTimerFire (n : Fin 16) (ns : Nat) (s : State) : Host.Outcome State Fault Refusal :=
  .next (let s := s.atNs ns; if s.timerDue n then s.fireTimer n else s)

/-- Every timer that is due fires. -/
def State.fireAll (s : State) : State := ((span 0 16).filter s.timerDue).foldl State.fireTimer s

/-- Timers that a step makes due fire together and set `cmp_stepped` (R48). -/
def State.fireStepped (s : State) : State :=
  if (span 0 16).any s.timerDue then s.fireAll.put F.TIME_STAT.cmp_stepped 1 else s

/-- CMP_TARGET_WRITE: the timer may fire once more. -/
def execCmpTargetWrite (wr : Writer) (n : Fin 16) (target : Word) (s : State) : Host.Outcome State Fault Refusal :=
  .next (
    if s.mayWrite wr F.TIME_CMP_TARGET.target n then
      let s := s.put F.TIME_CMP_TARGET.target target.toNat n
      s.setTime { s.time with armed := s.time.armed ||| 2 ^ n.val }
    else s)

/-- CMP_ENABLE_WRITE: rising bits arm their timers; ones in `fired` clear. -/
def execCmpEnableWrite (wr : Writer) (enable : BitVec 16) (fired : BitVec 16) (s : State) : Host.Outcome State Fault Refusal :=
  .next (
    if s.mayWrite wr F.TIME_CMP_CTRL.enable 0 then
      let old := s.rd F.TIME_CMP_CTRL.enable
      let rise := enable.toNat &&& (old ^^^ 0xFFFF)
      let s := s.put F.TIME_CMP_CTRL.enable enable.toNat
      let s := s.put F.TIME_CMP_CTRL.fired (s.rd F.TIME_CMP_CTRL.fired &&& (fired.toNat ^^^ 0xFFFF))
      s.setTime { s.time with armed := s.time.armed ||| rise }
    else s)

/-- TIME_SNAPSHOT. -/
def execTimeSnapshot (wr : Writer) (s : State) : Host.Outcome State Fault Refusal :=
  .next (
    if s.mayWrite wr F.TIME_SNAP_CTRL.snap 0 then
      let s := s.put F.TIME_SNAP_SEC.sec s.time.sec
      let s := (s.put F.TIME_SNAP_SUB.ns s.time.ns).put F.TIME_SNAP_SUB.frac s.time.frac
      let s := s.put F.TIME_SNAP_CMP.cmp s.compare
      s.putS F.TIME_SNAP_TICK.tick_count s.tickNow
    else s)

/-- LOCK_WAIT_EXPIRY: tick edges begin in the present state (R66), FREERUN too where `src_sel` has become 2 meanwhile. -/
def execLockWaitExpiry (s : State) : Host.Outcome State Fault Refusal :=
  .next (
    if s.time.edges || s.time.lockWaitOver || s.on F.TIME_STAT.stepped || s.rd F.RST_STAT.step < 4 then s
    else
      let due := s.bring.startNs + s.rd F.RST_STEP_T.t_ms 4 * 1000000 + s.rd F.TIME_HOLD.lock_wait_s * 1000000000
      let now := max s.nowNs due
      let s := s.setNowNs now
      let s := s.setTime { s.time with lockWaitOver := true, edges := true, cut := true }
      s.setTime { s.time with tick := s.tickNow })

end Sys2Proof.Machine
end

