-- ==== Sys2Proof/Machine/FabOps.lean ====
section
/-! DEFINITION. The fabric's shared operations (R350–R368): link states, routes, flits and records on their way out, the
requests of this device and what ends them, the receiver's checks, its windows and the operations at the target. -/

namespace Sys2Proof.Machine

/-! ## Links (R349, R350) -/

def Link.zero : Link :=
  { txSeq := 1, ackSeq := 0, rxNext := 1, replay := [], nakSent := false, resends := 0, credits := [], owe := [], flits := 0,
    queue := [], auth := false, retrain := false, tagFails := [], rekeyNext := false, rxEpoch := 0, since := 0, ackAt := 0, rtt := 0,
    healthy := 0 }
def State.link (s : State) (l : Nat) : Link := kget s.links l Link.zero
def State.setLinkRec (s : State) (l : Nat) (x : Link) : State := s.withLinks (kset s.links l x)

/-- Link states. -/
def lkWithheld := 0
def lkDisabled := 1
def lkDown := 2
def lkTraining := 3
def lkTrained := 4
def lkActive := 5

def State.lk (s : State) (l : Nat) : Nat := s.rd F.FAB_LINK_STAT.state l
def State.linkActive (s : State) (l : Nat) : Bool := s.lk l == lkActive

/-- Totals of FAB.STAT. -/
def State.countLinks (s : State) : State :=
  let up := (span 0 36).filter fun l => s.lk l == lkTrained || s.lk l == lkActive
  (s.put F.FAB_STAT.links_up up.length).put F.FAB_STAT.links_active (up.filter s.linkActive).length

/-- Candidates of a destination: the entry's links that are ACTIVE (R362); while FC is down, those that were when it
stopped (R417). -/
def State.candLinks (s : State) (dst : Nat) : List Nat :=
  (kfind s.routes dst).elim [] fun r => if s.procUp fc then r.cands.filter s.linkActive else r.act

/-- Requests outstanding to a node, oldest first. -/
def State.reqsTo (s : State) (dst : Nat) : List FabReq := s.fabReqs.filter fun q => q.dst == dst

/-- Destinations whose entry names a link hold new requests until those outstanding have ended or been retried (R364). -/
def State.holdRoutes (s : State) (l : Nat) : State :=
  (s.withRoutes (kmapv s.routes fun d r =>
      if r.cands.contains l then { r with waitFor := (s.reqsTo d).map (·.tid) } else r))

/-- A change of a link's state (R350): its event, the totals, and the routes that name it (R362). -/
def State.setLk (s : State) (l v : Nat) : State :=
  let old := s.lk l
  if old = v then s
  else
    let s := ((s.put F.FAB_LINK_STAT.state v l).put F.FAB_LINK_STAT.state_chg 1 l).countLinks
    let s := (s.event 5 3 Ev.link v (512 + l)).setLinkRec l { s.link l with since := s.nowNs }
    -- FC keeps the entries current; while it is down they stay (R417)
    if s.procUp fc = false then s
    else if old = lkActive then (s.holdRoutes l).put F.FAB_STAT.route_rebuilt 1
    else if v = lkActive then s.holdRoutes l
    else s

/-- Width that the healthy lanes give (R349): 0 none, 1 half, 2 full, and the physical lanes in use. -/
def lanesOf (healthy : Nat) : Nat × List Nat :=
  let hs := (List.range 5).filter fun i => bit healthy i
  if 4 ≤ hs.length then (2, hs.take 4) else if 2 ≤ hs.length then (1, hs.take 2) else (0, [])

/-- Training has found the healthy lanes: width, lane map and spare. -/
def State.mapLanes (s : State) (l healthy : Nat) : State :=
  let x := lanesOf healthy
  let s := s.put F.FAB_LINK_STAT.width x.1 l
  let s := s.put F.FAB_LINK_STAT.lane_bad (31 - healthy % 32) l
  let s := s.put F.FAB_LINK_STAT.spare_used (b2n (x.2.contains 4)) l
  let s := s.put F.FAB_LINK_STAT.lane_map (x.2.foldr (fun i a => i + 8 * a) 0) l
  s.setLinkRec l { s.link l with healthy := healthy }

/-! ## Sending (R352, R354, R363–R365) -/

/-- Units of a record (R354): header and data units; a failed response carries no data. -/
def recUnits (op : Nat) (r : Record) : Nat :=
  1 + match op with
    | 1 => ceilDiv r.len.toNat 32
    | 8 => if r.status = 0 then ceilDiv r.len.toNat 32 else 0
    | 5 => 1
    | 6 => 2
    | _ => 0

/-- Responses ride in class 1 (R363). -/
def isResponse (op : Nat) : Bool := 8 ≤ op

/-- Flit numbers are 40 bits. -/
def seqMod : Nat := 2 ^ 40

/-- Number of the last flit that was received in order. -/
def lastGood (x : Link) : Nat := (x.rxNext + seqMod - 1) % seqMod

/-- A flit leaves: type, channel, units and number; it acknowledges, and returns the credits of one channel (R353, R363, R371). -/
def State.sendFlit (s : State) (l ftype vc units seq : Nat) : State :=
  let x := s.link l
  let cr := (x.owe.head?).getD (0, 0)
  let n := min 4095 cr.2
  let owe := if n < cr.2 then kset x.owe cr.1 (cr.2 - n) else kdel x.owe cr.1
  (s.setLinkRec l { x with flits := x.flits + 1, owe := owe }).emit (.flit l ftype vc units seq (lastGood x) cr.1 n)

/-- A record leaves in flits of up to 16 units, kept for replay (R365). -/
def State.transmit (s : State) (l : Nat) (w : WireRec) : State :=
  let x := s.link l
  let u := recUnits w.op w.r
  let n := ceilDiv u 16
  let fs := (List.range n).map fun i => ((x.txSeq + i) % seqMod, w.vc, min 16 (u - 16 * i))
  let s := s.setLinkRec l { x with
    txSeq := (x.txSeq + n) % seqMod, replay := x.replay ++ fs, credits := kmod x.credits w.vc 0 (· + u),
    ackAt := if x.replay.isEmpty then s.nowNs else x.ackAt }
  let s := s.bump F.FAB_LINK_CNT.tx_units l u
  (fs.foldl (fun s f => s.sendFlit l 0 f.2.1 f.2.2 f.1) s).emit (.record l w)

/-- The replay buffer holds 2,048 flits (R348), and the peer has buffer for the record's channel (R363). -/
def State.linkRoom (s : State) (l : Nat) (w : WireRec) : Bool :=
  let u := recUnits w.op w.r
  let used := kget (s.link l).credits w.vc 0
  s.linkActive l && (s.link l).replay.length + ceilDiv u 16 ≤ 2048 && (used == 0 || used + u ≤ Config.vcBuffer)

/-- Send a record on a link, or let it wait in the order of its channel: no record waits for one of another channel (R363). -/
def State.launch (s : State) (l : Nat) (w : WireRec) : State :=
  if !((s.link l).queue.any fun v => v.vc == w.vc) && s.linkRoom l w then s.transmit l w
  else s.setLinkRec l { s.link l with queue := (s.link l).queue ++ [w] }

/-- The first waiting record whose channel has room, and the others. -/
def State.nextWaiting (s : State) (l : Nat) : List WireRec → List WireRec → Option (WireRec × List WireRec)
  | _, [] => none
  | before, w :: rest =>
    if !(before.any fun v => v.vc == w.vc) && s.linkRoom l w then some (w, before ++ rest) else s.nextWaiting l (before ++ [w]) rest

/-- Waiting records leave while there is room. -/
def State.drainLink (s : State) (l : Nat) : Nat → State
  | 0 => s
  | n + 1 =>
    match s.nextWaiting l [] (s.link l).queue with
    | none => s
    | some (w, rest) => ((s.setLinkRec l { s.link l with queue := rest }).transmit l w).drainLink l n

/-- Send a record towards its destination by the route table; nothing without a candidate. While FC is down a record for a
link that is not ACTIVE is discarded (R417). -/
def State.sendRecord (s : State) (op : Nat) (r : Record) : Option State :=
  let cs := s.candLinks r.dstNode.toNat
  match cs[Config.routeHash r.dstNode.toNat (r.addr.toNat / 4096) % cs.length]? with
  | none => none
  | some l => if !s.linkActive l then some s else some (s.launch l { op := op, vc := (if isResponse op then 16 else 0) + r.hop.val, r := r })

/-- A link loses what it holds when it goes DOWN (R352). -/
def State.dropLink (s : State) (l : Nat) : State :=
  (s.setLinkRec l { Link.zero with healthy := (s.link l).healthy, rtt := (s.link l).rtt }).setLk l lkDown

/-! ## Requests of this device (R359, R364, R366, R368) -/

/-- The record of a request. -/
def State.reqRecord (s : State) (q : FabReq) (retry : Bool) : Record :=
  { sz8 := q.len == 8, sgn := q.op == 3 || q.op == 4, dev := q.dev, retry := retry, dup := false,
    len := BitVec.ofNat 13 q.len, slice := Fin.ofNat 4096 q.slice, keyIdx := BitVec.ofNat 13 q.key,
    dstNode := BitVec.ofNat 16 q.dst, srcNode := BitVec.ofNat 16 s.ownNode, tid := BitVec.ofNat 32 q.tid,
    addr := BitVec.ofNat 48 q.addr, status := 0, hop := 0, value := BitVec.ofNat 64 q.value,
    newVal := BitVec.ofNat 64 q.newv, data := q.data, bad := false }

def State.peer (s : State) (n : Nat) : Peer :=
  kget s.peers n {
    rtt := 0, lag := 0, retries := 0, strag := 0, suspect := false, failed := false, stale := 0, run := 0, runSet := [], seen := 0, lost := none }
def State.setPeer (s : State) (n : Nat) (p : Peer) : State := s.withPeers (kset s.peers n p)

/-- Requests that cross the fabric count as outstanding. -/
def State.countReqs (s : State) : State :=
  let n := (s.fabReqs.filter fun q => q.dst != s.ownNode).length
  (s.put F.FAB_OUTST.outst n).put F.FAB_OUTST.outst_peak (max n (s.rd F.FAB_OUTST.outst_peak))

/-- What keeps a new request to a node waiting: the device-wide limit (R368), the limit to one destination (R366), or a
change of its candidates (R364). The limit spans the numbers from the oldest request on, so that the receiver's window holds every
one that can still be retried (R367). -/
def State.fabFull (s : State) : Bool := 32768 ≤ s.rd F.FAB_OUTST.outst || s.bring.shutAt.isSome
def State.fabWaits (s : State) (dst : Nat) : Bool :=
  s.fabFull || ((s.reqsTo dst).head?).any (fun q => 4096 ≤ (kget s.nextTid dst 0 + 2 ^ 32 - q.tid) % 2 ^ 32) || (kfind s.routes dst).any fun r => !r.waitFor.isEmpty

/-- Issue a request: the next `tid` of its destination; a request to the device's own node stays inside. -/
def State.issueReq (s : State) (q : FabReq) : State :=
  let q := { q with tid := kget s.nextTid q.dst 0, tries := 1, since := s.nowNs }
  let s := (s.withFabReqs (s.fabReqs ++ [q])).withNextTid (kset s.nextTid q.dst ((q.tid + 1) % 2 ^ 32))
  if q.dst = s.ownNode then s else (s.countReqs.sendRecord q.op (s.reqRecord q false)).getD s.countReqs

/-- A request that nothing waits for. -/
def mkReq (dst op addr len slice key : Nat) (dev : Bool) (src : FabSource) : FabReq :=
  { dst := dst, tid := 0, op := op, addr := addr, len := len, value := 0, newv := 0, data := [], slice := slice, key := key,
    dev := dev, tries := 0, since := 0, src := src }

/-- A firmware message of 64 bytes (R357). -/
def State.fabMsg (s : State) (dst mailbox : Nat) (data : List Byte) : State :=
  if dst = s.ownNode then s
  else if (s.candLinks dst).isEmpty then s.put F.FAB_STAT.unreach 1
  else s.issueReq { mkReq dst 6 mailbox 64 0 devKey true .device with data := data }

/-- Threads that wait for room issue again. -/
def State.wakeFab (s : State) : State :=
  (s.threads.filter fun t => t.2.wait == some .fabricRoom).foldl (fun s t =>
    s.setThread t.1 { s.thread t.1 with st := .ready, wait := none }) s

/-- A request has ended: it no longer counts, and what waited for it goes on. -/
def State.endReq (s : State) (q : FabReq) : State :=
  let s := s.withFabReqs (s.fabReqs.filter fun x => !(x.dst == q.dst && x.tid == q.tid))
    |>.withRoutes (kmapv s.routes fun d r => if d = q.dst then { r with waitFor := r.waitFor.filter (· != q.tid) } else r)
  s.countReqs.wakeFab

/-- A thread's fabric instruction is answered (R358): an error status is fault cause 7. -/
def State.fabAnswer (s : State) (th op size rt status value : Nat) : State :=
  if (s.thread th).st ≠ .parked then s
  else
    let s := s.unpark th
    if status ≠ St.ok then s.fault th 7 status
    else if op = 1 then s.done th (s.thread th)
    else s.done th ((s.thread th).wg (Fin.ofNat 32 rt) (BitVec.ofNat 64 (value % 2 ^ (8 * size))))

/-- Deliver the end of a request to its source. -/
def State.deliver (s : State) (q : FabReq) (status value : Nat) : State :=
  match q.src with
  | .thread th =>
    match (s.thread th).wait with
    | some (.fabric op size rt tid node) => if tid = q.tid ∧ node = q.dst then s.fabAnswer th op size rt status value else s
    | _ => s
  | _ => s

/-! ## The target (R356, R360) -/

/-- A range that no slice's request may touch (R360): on-die SRAM, registers, the reserved region, KV arenas, and the weight
store, whose lines carry the device key. -/
def State.deviceOnly (s : State) (a n : Nat) : Bool :=
  0xF00000000000 ≤ a + n - 1 || a < s.rsvBytes ||
  (pagesOf a n).any (fun p => (s.framePart (p / 65536)).isSome) ||
  (linesOf a n).any fun l => ((kfind s.lineKey l).map (·.1)) == some devKey

/-- Status of a request at its target, in the order of R360. -/
def State.fabStatus (s : State) (a n key : Nat) (dev : Bool) : Nat :=
  if (pagesOf a n).any fun p => s.place p == .unmapped then St.addrUnmapped
  else if !dev && s.deviceOnly a n then St.regionFault
  else if (pagesOf a n).any fun p => s.place p == .regs then St.regionFault
  else s.rdStatus a n key

/-- The mailbox of a firmware processor (R357): 0–7 for PC0–PC7 and 8 for FC. -/
def mailProc (m : Nat) : Option Nat := if m < 8 then some (pc m) else if m = 8 then some fc else none

/-- Perform a request: status, old value, data. A failing store or atomic changes nothing. -/
def State.perform1 (s : State) (op a len value newv key : Nat) (sgn dev : Bool) (data : List Byte) :
    State × Nat × Nat × List Byte :=
  if op = 6 then
    match mailProc (a % 16) with
    | none => (s, St.addrUnmapped, 0, [])
    | some i =>
      let p := s.proc i
      if i = fc ∧ s.procUp fc = false ∧ 64 ≤ p.mail.length then (s, St.busy, 0, [])
      else (s.setProc i { p with mail := p.mail ++ [leVal (data.take 64)] }, St.ok, 0, [])
  else
    let st := s.fabStatus a len key dev
    if st ≠ St.ok then ((s.rdRecord a len key).noteAbsorb a st, st, 0, [])
    else match op with
      | 0 => (s, St.ok, 0, s.load a len key)
      | 1 => (s.store a ((data ++ List.replicate len 0).take len) key, St.ok, 0, [])
      | _ =>
        let old := leVal (s.load a len key)
        let new := if op = 5 then atomNew 3 len false old newv value else atomNew (op - 2) len sgn old value 0
        (s.store a (leBytes len new) key, St.ok, old, [])

end Sys2Proof.Machine
end

