-- ==== Sys2Proof/Machine/Dma.lean ====
section
/-! DEFINITION. DMA transfers (R215–R217, R355): the descriptor and its check, the pieces of a row, reads and writes under
the rules of R205, R208 and R300, conversion, and what a fabric answer does to the transfer that waits for it. -/

namespace Sys2Proof.Machine

/-! ## The descriptor (R215, R216) -/

structure DmaDesc where
  src : Nat
  dst : Nat
  len : Nat
  rows : Nat
  sStride : Nat
  dStride : Nat
  sfmt : Nat
  dfmt : Nat
  cvt : Bool
  rnd : Rnd
  notify : Bool
  order : Bool
  slice : Nat
  radio : Bool
  tag : Nat
  rsv : Bool
  deriving DecidableEq, Repr

def decodeDma (d : List Nat) : DmaDesc :=
  let w i := d.getD i 0
  { src := w 0, dst := w 1, len := bits (w 2) 31 0, rows := bits (w 2) 47 32, sStride := bits (w 3) 31 0,
    dStride := bits (w 3) 63 32, sfmt := bits (w 4) 4 0, dfmt := bits (w 4) 9 5, cvt := bit (w 4) 10,
    rnd := rndOf (bit (w 4) 11), notify := bit (w 4) 12, order := bit (w 4) 13, slice := bits (w 4) 25 14,
    radio := bit (w 4) 26, tag := bits (w 5) 31 0,
    rsv := bits (w 2) 63 48 != 0 || bits (w 4) 63 27 != 0 || bits (w 5) 63 32 != 0 || w 6 != 0 || w 7 != 0 }

/-- Nothing moves. -/
def DmaDesc.empty (d : DmaDesc) : Bool := d.len == 0 || d.rows == 0
/-- Elements and destination bytes of a row (R217). -/
def DmaDesc.elems (d : DmaDesc) : Nat := d.len * 8 / max 1 (fmtBits d.sfmt)
def DmaDesc.dLen (d : DmaDesc) : Nat := if d.cvt then rowBytes d.dfmt d.elems else d.len

/-- A global address moved within its node. -/
def gAdd (g k : Nat) : Nat := g / 2 ^ 48 * 2 ^ 48 + (g % 2 ^ 48 + k) % 2 ^ 48
/-- Global address of row `r`. -/
def DmaDesc.srcRow (d : DmaDesc) (r : Nat) : Nat := gAdd d.src (r * d.sStride)
def DmaDesc.dstRow (d : DmaDesc) (r : Nat) : Nat := gAdd d.dst (r * d.dStride)

def State.isOwn (s : State) (g : Nat) : Bool := g / 2 ^ 48 == s.ownNode

/-- A local range of a radio transfer (R216): pinned radio SRAM or a reserved scratchpad region. -/
def State.radioRange (s : State) (a n : Nat) : Bool :=
  match s.place a with
  | .pinned p => within a n (pinnedBase p) 0x2000000
  | .pad c => within a n (s.spRsv c).1 (s.spRsv c).2
  | _ => false

/-- A local range that an open transfer may not name. -/
def State.openBad (s : State) (a n : Nat) : Bool :=
  !s.isI && (s.touchesRsv a n || overlaps a n 0xF20000000000 0x10000000)

/-- The descriptor check (R216). -/
def State.dmaOk (s : State) (d : DmaDesc) : Bool :=
  let fmt f := f ≤ 10 || (16 ≤ f && f ≤ 18)
  !d.rsv && (!d.cvt || (fmt d.sfmt && fmt d.dfmt)) && d.len * 8 % max 1 (fmtBits d.sfmt) == 0 &&
  (d.empty || (List.range d.rows).all fun r =>
    [(d.srcRow r, d.len), (d.dstRow r, d.dLen)].all fun x =>
      if d.radio then s.isOwn x.1 && s.radioRange (x.1 % 2 ^ 48) x.2
      else !s.isOwn x.1 || !s.openBad (x.1 % 2 ^ 48) x.2)

/-! ## Pieces -/

/-- A range cut at 4 KiB boundaries (R355): address, bytes, offset in the range. -/
def piecesOf (g n : Nat) : List (Nat × Nat × Nat) :=
  let a := g % 2 ^ 48
  (pagesOf a n).map fun p => (gAdd g (p - a), min (a + n) ((p / 4096 + 1) * 4096) - p, p - a)

/-- The allocated frame that holds an address (R302). -/
def State.frameAt (s : State) (a : Nat) : Option Nat :=
  ((List.range 7).map fun c => a / 65536 / 2 ^ c * 2 ^ c).find? fun f =>
    (s.frame f).alloc && f * 65536 ≤ a && a < (f + 2 ^ (s.frame f).cls) * 65536

/-- A tick-table bank, which only its partition controller writes (R74). -/
def State.isBank (s : State) (a : Nat) : Bool :=
  match s.place a with
  | .bank _ => true
  | _ => false

/-- Key index of a local piece, or the status that refuses it (R74, R205, R208, R300): on-die SRAM and KV frames are reached as
device accesses, as are the lines of the weight store; every other DRAM address needs a region descriptor. -/
def State.dmaKey (s : State) (d : DmaDesc) (a n : Nat) (right : Right) : Except Nat Nat :=
  if 0xF00000000000 ≤ a then
    (if s.place a = .regs || (right == .wr && s.isBank a) then .error St.regionFault else .ok 0)
  else if d.radio || a < s.rsvBytes then .error St.regionFault
  else match s.frameAt a with
    | some f => .ok (s.frame f).key
    | none =>
      if s.inArena a n then .error St.regionFault
      else if right = .rd ∧ ((kfind s.lineKey (a / 64)).map (·.1)) = some devKey then .ok devKey
      else match s.regionCheck d.slice (s.ownNode * 2 ^ 48 + a) n right with
        | some k => .ok k
        | none => .error St.regionFault

/-- Key and device bit of a remote piece: a frame that the slice's sequences keep at a peer is a device access (R315). -/
def State.dmaRemote (s : State) (d : DmaDesc) (g n : Nat) (right : Right) : Except Nat (Nat × Bool) :=
  if s.seqs.any fun q => q.2.slice == d.slice && q.2.pages.any fun e =>
      e.remote && e.node == g / 2 ^ 48 && e.frame ≤ g % 2 ^ 48 / 65536 && g % 2 ^ 48 / 65536 < e.frame + 2 ^ e.cls
  then .ok (devKey, true)
  else match s.regionCheck d.slice g n right with
    | some k => .ok (k, false)
    | none => .error St.regionFault

/-- Bytes metered for a local piece: DRAM lines (R292). -/
def State.meterLocal (s : State) (d : DmaDesc) (a n : Nat) : State :=
  if d.radio then s
  else
    let s := if s.isDram a then s.count d.slice 4 (64 * (linesOf a n).length) else s
    s.count d.slice 5 (roundUp n 32)

/-- A frame is read by a work-list item (R302). -/
def State.touchFrame (s : State) (a : Nat) : State :=
  match (if a < 0xF00000000000 then s.frameAt a else none) with
  | some f => s.setFrame f { s.frame f with lastRead := (s.tickNow % 2 ^ 32).toNat }
  | none => s

/-- Read a local piece: the bytes, with whether they are poisoned, or a refusal. -/
def State.dmaRead (s : State) (d : DmaDesc) (a n : Nat) : State × Except Nat (List Byte × Bool) :=
  match s.dmaKey d a n .rd with
  | .error e => (s, .error e)
  | .ok k =>
    let st := s.accStatus a n k
    if st ≠ St.ok then (s, .error st)
    else ((((s.rdRecord a n k).touchFrame a).meterLocal d a n), .ok (s.load a n k, s.poisonedRd a n k))

/-- Write a local piece; poison travels with the data (R194). -/
def State.dmaWrite (s : State) (d : DmaDesc) (a : Nat) (bs : List Byte) (poisoned : Bool) : State × Nat :=
  match s.dmaKey d a bs.length .wr with
  | .error e => (s, e)
  | .ok k =>
    let st := s.accStatus a bs.length k
    if st ≠ St.ok then (s, st)
    else
      let s := (s.store a bs k).meterLocal d a bs.length
      if poisoned then (s.poisonRange a bs.length, St.memUncorrectable) else (s, St.ok)

/-- Convert one row (R217). -/
def DmaDesc.convert (d : DmaDesc) (bs : List Byte) : List Byte :=
  if d.cvt then packElems (fmtBits d.dfmt) ((List.range d.elems).map fun i => convertElem d.sfmt d.dfmt d.rnd (elemAt d.sfmt bs i))
  else bs

/-- What a transfer carries along: the state, its first error, whether it moves on. -/
structure DmaRun where
  s : State
  status : Nat
  go : Bool

def DmaRun.note (r : DmaRun) (s : State) (st : Nat) (stop : Bool) : DmaRun :=
  { s := s, status := if r.status = St.ok then st else r.status, go := r.go && !stop }

/-- One local row: its bytes, each piece in order, and whether any is poisoned. -/
def DmaRun.readRow (r : DmaRun) (d : DmaDesc) (g : Nat) : DmaRun × List Byte × Bool :=
  (piecesOf g d.len).foldl (fun (x : DmaRun × List Byte × Bool) p =>
    if x.1.go = false then x
    else match x.1.s.dmaRead d (p.1 % 2 ^ 48) p.2.1 with
      | (s, .ok (bs, po)) => (x.1.note s (if po then St.memUncorrectable else St.ok) false, x.2.1 ++ bs, x.2.2 || po)
      | (s, .error e) => (x.1.note s e true, x.2)) (r, [], false)

/-- Write one row. -/
def DmaRun.writeRow (r : DmaRun) (d : DmaDesc) (g : Nat) (bs : List Byte) (po : Bool) : DmaRun :=
  (piecesOf g bs.length).foldl (fun x p =>
    if x.go = false then x
    else
      let w := x.s.dmaWrite d (p.1 % 2 ^ 48) ((bs.drop p.2.2).take p.2.1) po
      x.note w.1 w.2 (w.2 ≠ St.ok && w.2 ≠ St.memUncorrectable)) r

/-- The rows of a transfer between local memories, in order. -/
def State.dmaLocal (s : State) (d : DmaDesc) : DmaRun :=
  (List.range d.rows).foldl (fun x r =>
    if x.go = false then x
    else
      let y := x.readRow d (d.srcRow r)
      if y.1.go then y.1.writeRow d (d.dstRow r) (d.convert y.2.1) y.2.2 else y.1) ⟨s, St.ok, true⟩

/-! ## Engines -/

/-- Transfers of engine `k` = 16 · partition + engine, oldest first. -/
def State.dmasOf (s : State) (k : Nat) : List Dma := kget s.dmas k []
def State.setDmas (s : State) (k : Nat) (l : List Dma) : State :=
  s.withDmas (if l.isEmpty then kdel s.dmas k else kset s.dmas k l)
def State.modDma (s : State) (k uid : Nat) (f : Dma → Dma) : State :=
  s.setDmas k ((s.dmasOf k).map fun x => if x.uid = uid then f x else x)

/-- Pieces of every row at one end, offsets counted over the whole transfer. -/
def DmaDesc.pieces (d : DmaDesc) (row : Nat → Nat) (n : Nat) : List (Nat × Nat × Nat) :=
  (List.range d.rows).flatMap fun r => (piecesOf (row r) n).map fun p => (p.1, p.2.1, r * n + p.2.2)

/-- Request one piece. -/
def State.dmaIssue (s : State) (k : Nat) (x : Dma) (d : DmaDesc) (p : Nat × Nat × Nat) : Except Nat State :=
  let dst := p.1 / 2 ^ 48
  match s.dmaRemote d p.1 p.2.1 (if x.wr then .wr else .rd) with
  | .error e => .error e
  | .ok (key, dev) =>
    if (s.candLinks dst).isEmpty then .error St.fabUnreachable
    else
      let q := mkReq dst (if x.wr then 1 else 0) (p.1 % 2 ^ 48) p.2.1 d.slice key dev (.dma k x.uid p.2.2)
      let data := if x.wr then ((kget x.got (p.2.2 / max 1 d.dLen) []).drop (p.2.2 % max 1 d.dLen)).take p.2.1 else []
      .ok ((s.issueReq { q with data := data }).count d.slice 6 p.2.1)

/-- Request pieces while nothing makes them wait. -/
def State.dmaPump (s : State) (k uid : Nat) : Nat → State
  | 0 => s
  | n + 1 =>
    match (s.dmasOf k).find? fun x => x.uid == uid with
    | none => s
    | some x =>
      match x.todo with
      | [] => s
      | p :: rest =>
        if s.fabWaits (p.1 / 2 ^ 48) then (if s.fabFull then s.bump F.FAB_OUTST.stall_cnt else s)
        else match s.dmaIssue k x (decodeDma x.desc) p with
          | .error e =>
            let s := if e = St.fabUnreachable then s.put F.FAB_STAT.unreach 1 else s
            s.modDma k uid fun x => { x with todo := [], status := if x.status = St.ok then e else x.status }
          | .ok s => (s.modDma k uid fun x => { x with todo := rest, left := x.left + 1 }).dmaPump k uid n

/-- The source rows that have arrived, converted, by row. -/
def Dma.rowsIn (x : Dma) (d : DmaDesc) : KMap (List Byte) :=
  (List.range d.rows).map fun r =>
    (r, d.convert ((x.got.filter fun g => r * d.len ≤ g.1 && g.1 < (r + 1) * d.len).flatMap (·.2)))

/-- Begin the writes of a transfer whose destination is remote. -/
def State.dmaSend (s : State) (k : Nat) (x : Dma) (rows : KMap (List Byte)) : State :=
  let d := decodeDma x.desc
  let ps := d.pieces d.dstRow d.dLen
  (s.modDma k x.uid fun x => { x with wr := true, got := rows, todo := ps }).dmaPump k x.uid ps.length

/-- Everything asked for has come: a read phase is followed by the writes where the destination is remote. -/
def State.dmaTurn (s : State) (k uid : Nat) : State :=
  match (s.dmasOf k).find? fun x => x.uid == uid with
  | none => s
  | some x =>
    let d := decodeDma x.desc
    if x.todo.isEmpty && x.left == 0 && !x.wr && x.status == St.ok && !s.isOwn d.dst then s.dmaSend k x (x.rowsIn d) else s

/-- An engine starts a transfer whose descriptor passed its check. -/
def State.dmaBegin (s : State) (k : Nat) (words : List Nat) (item : Option Nat) : State :=
  let d := decodeDma words
  let l := s.dmasOf k
  let uid := l.foldl (fun a x => max a (x.uid + 1)) 0
  let x : Dma := { desc := words, radio := d.radio, item := item, uid := uid, todo := [], bad := [], wr := false, left := 0, got := [], status := St.ok }
  if d.empty || (s.isOwn d.src && s.isOwn d.dst) then s.setDmas k (l ++ [x])
  else if s.isOwn d.src then
    let r := (List.range d.rows).foldl (fun (a : DmaRun × KMap (List Byte)) i =>
      let y := a.1.readRow d (d.srcRow i)
      (y.1, a.2 ++ [(i, d.convert y.2.1)])) (⟨s, St.ok, true⟩, [])
    let s := r.1.s.setDmas k (l ++ [{ x with status := r.1.status }])
    if r.1.go && r.1.status = St.ok then s.dmaSend k { x with status := r.1.status } r.2 else s
  else
    let ps := d.pieces d.srcRow d.len
    (s.setDmas k (l ++ [{ x with todo := ps }])).dmaPump k uid ps.length

/-- A transfer ends when nothing of it is outstanding: its local part is done now. -/
def State.dmaFinish (s : State) (k : Nat) (x : Dma) : State × Nat :=
  let d := decodeDma x.desc
  let s := s.setDmas k ((s.dmasOf k).filter fun y => y.uid != x.uid)
  if d.empty then (s, St.ok)
  else if x.status = St.resetAbort then (s, x.status)
  else if s.isOwn d.src && s.isOwn d.dst then ((s.dmaLocal d).s, (s.dmaLocal d).status)
  else if s.isOwn d.dst && (x.status == St.ok || x.status == St.memUncorrectable) then
    let r := (x.rowsIn d).foldl (fun (a : DmaRun) row =>
      if a.go then a.writeRow d (d.dstRow row.1) row.2 (x.bad.any fun o => o / max 1 d.len == row.1) else a) ⟨s, x.status, true⟩
    (r.s, r.status)
  else (s, x.status)

/-- A transfer has a row at one end in a scope of this device. -/
def State.dmaTouches (s : State) (d : DmaDesc) (scope : Nat → Bool) : Bool :=
  !d.empty && (List.range d.rows).any fun r =>
    [(d.srcRow r, d.len), (d.dstRow r, d.dLen)].any fun x => s.isOwn x.1 && (pagesOf (x.1 % 2 ^ 48) x.2).any scope

/-- Transfers under way that touch a scope that is reset are absorbed: nothing more of them moves (R452). -/
def State.absorbDmas (s : State) (p : Nat) (scope : Nat → Bool) : State :=
  let hit (x : Dma) : Bool := x.status == St.ok && s.dmaTouches (decodeDma x.desc) scope
  let n := (s.dmas.flatMap fun e => e.2.filter hit).length
  (s.withDmas (kmapv s.dmas fun _ l => l.map fun x => if hit x then { x with status := St.resetAbort, todo := [] } else x)).bump
    F.RST_PART_STAT.absorb_cnt p n

/-- Clusters' SRAM, and a partition's. -/
def State.clScope (s : State) (cls : List Nat) (a : Nat) : Bool :=
  match s.place a with
  | .pad n => cls.contains (n / 4)
  | .clSram cl => cls.contains cl
  | _ => false
def State.partScope (s : State) (p a : Nat) : Bool := s.sramPart a == some p

/-! ## Host copies to other nodes (R391) -/

def State.modCopy (s : State) (id : Nat) (f : HostCopy → HostCopy) : State :=
  s.withCopies (s.copies.map fun x => if x.id = id then f x else x)

/-- Request one piece of a copy. -/
def State.copyIssue (s : State) (x : HostCopy) (p : Nat × Nat × Nat) : Except Nat State :=
  let dst := p.1 / 2 ^ 48
  if (s.candLinks dst).isEmpty then .error St.fabUnreachable
  else
    let q := mkReq dst (if x.wr then 1 else 0) (p.1 % 2 ^ 48) p.2.1 x.slice x.key false (.copy x.id p.2.2)
    if x.wr then match s.hostRd (x.host + p.2.2) p.2.1 (s.space x.ring) with
      | some bs => .ok ((s.issueReq { q with data := bs }).count x.slice 6 p.2.1)
      | none => .error St.hostDma
    else .ok ((s.issueReq q).count x.slice 6 p.2.1)

/-- Request pieces of a copy while nothing makes them wait. -/
def State.copyPump (s : State) (id : Nat) : Nat → State
  | 0 => s
  | n + 1 =>
    match s.copies.find? fun x => x.id == id with
    | none => s
    | some x =>
      match x.todo with
      | [] => s
      | p :: rest =>
        if s.fabWaits (p.1 / 2 ^ 48) then (if s.fabFull then s.bump F.FAB_OUTST.stall_cnt else s)
        else match s.copyIssue x p with
          | .error e =>
            let s := if e = St.fabUnreachable then s.put F.FAB_STAT.unreach 1 else s
            s.modCopy id fun x => { x with todo := [], status := if x.status = St.ok then e else x.status }
          | .ok s => (s.modCopy id fun x => { x with todo := rest, left := x.left + 1 }).copyPump id n

/-- A copy without pieces left ends its command. -/
def State.copyTurn (s : State) (id : Nat) : State :=
  match s.copies.find? fun x => x.id == id with
  | none => s
  | some x =>
    if x.todo.isEmpty && x.left == 0 then
      (s.withCopies (s.copies.filter fun y => y.id != id)).finish x.ring x.token 0x06 x.status
    else s

/-- An answer to a piece of a copy: read data go to host memory. -/
def State.copyAnswer (s : State) (id off status : Nat) (data : List Byte) : State :=
  match s.copies.find? fun x => x.id == id with
  | none => s
  | some x =>
    let r : State × Nat :=
      if x.wr || status != St.ok then (s, status)
      else match s.hostWr (x.host + off) data (s.space x.ring) with
        | some s => (s, St.ok)
        | none => (s, St.hostDma)
    let s := r.1.modCopy id fun x =>
      { x with left := x.left - 1, status := if x.status = St.ok then r.2 else x.status, todo := if r.2 = St.ok then x.todo else [] }
    s.copyTurn id

/-! ## Answers -/

/-- Every transfer that waits for room goes on. -/
def State.pumpAll (s : State) : State :=
  let s := s.dmas.foldl (fun s e => e.2.foldl (fun s x => if x.todo.isEmpty then s else s.dmaPump e.1 x.uid x.todo.length) s) s
  s.copies.foldl (fun s x => if x.todo.isEmpty then s else (s.copyPump x.id x.todo.length).copyTurn x.id) s

/-- A request of this device ends with a status, a value and data: its source goes on. -/
def State.closeReq (s : State) (q : FabReq) (status value : Nat) (data : List Byte) : State :=
  let s := s.endReq q
  let s := match q.src with
    | .dma k uid off =>
      -- data that are uncorrectable at their source leave poison at the destination (R194)
      let s := s.modDma k uid fun x =>
        let po := !x.wr && status == St.memUncorrectable
        { x with
          left := x.left - 1
          got := if x.wr then x.got else kset x.got off (if po then List.replicate q.len 0 else data)
          bad := if po then off :: x.bad else x.bad
          status := if x.status = St.ok then status else x.status
          todo := if status = St.ok || po then x.todo else [] }
      s.dmaTurn k uid
    | .copy id off => s.copyAnswer id off status data
    | _ => s.deliver q status value
  s.pumpAll

/-- A request to the device's own node (R154, R356): performed with the checks and results of a remote one. -/
def State.performOwn (s : State) (q : FabReq) : State :=
  let r := s.perform1 q.op q.addr q.len q.value q.newv q.key (q.op == 3 || q.op == 4) q.dev q.data
  r.1.closeReq q r.2.1 (if q.op = 0 then leVal r.2.2.2 else r.2.2.1) r.2.2.2

end Sys2Proof.Machine
end

