-- ==== Sys2Proof/Machine/Fabric.lean ====
section
/-! DEFINITION. The fabric commands (R348–R379): the Spur fabric instructions, link training and retraining,
authentication, flits, records, end-to-end timers, members, collectives and shard moves. -/

namespace Sys2Proof.Machine

/-! ## Fabric instructions (R154, R155, R358, R359) -/

/-- A fabric instruction: `op` of R354, global address g[ra], value and new value. A refusal by the sender's region check is
answered locally and stops the thread like any error status. -/
def State.fabOp (s : State) (th op : Nat) (rt ra : Fin 32) (sz8 : Bool) (value newv : Thread → Word) : State :=
  s.issue th fun s =>
    let t := s.thread th
    let n := if sz8 then 8 else 4
    let g := (t.rg ra).toNat
    let dst := g / 2 ^ 48
    let a := g % 2 ^ 48
    if a % n ≠ 0 then s.fault th 2
    else if s.isRadio th then s.fault th 4
    else
      let slice := (s.jobOf th).elim 0 (·.slice)
      let right : Right := if op = 0 then .rd else if op = 1 then .wr else .atm
      match s.regionCheck slice g n right with
      | none => s.fault th 7 St.regionFault
      | some key =>
        let own := dst = s.ownNode
        if 64 ≤ (s.spur (th / 8)).remote then s
        else if !own && (s.candLinks dst).isEmpty then (s.put F.FAB_STAT.unreach 1).fault th 7 St.fabUnreachable
        else if !own && s.fabWaits dst then
          let s := if s.fabFull then s.bump F.FAB_OUTST.stall_cnt else s
          s.setThread th { t with st := .parked, wait := some .fabricRoom }
        else
          let tid := kget s.nextTid dst 0
          let v := (value t).toNat % 2 ^ (8 * n)
          let q := { mkReq dst op a n slice key false (.thread th) with
            value := if 2 ≤ op then v else 0, newv := (newv t).toNat % 2 ^ (8 * n),
            data := if op = 1 then leBytes n v else [] }
          let s := (s.park th (.fabric op n rt.val tid dst)).issueReq q
          if own then s else s.count slice 6 n

def execFld (th : Fin 4096) (rt ra : Fin 32) (sz8 : Bool) (s : State) : Res :=
  .next (s.fabOp th.val 0 rt ra sz8 (fun _ => 0) fun _ => 0)
def execFst (th : Fin 4096) (rt ra : Fin 32) (sz8 : Bool) (s : State) : Res :=
  .next (s.fabOp th.val 1 rt ra sz8 (·.rg rt) fun _ => 0)
def execFabAdd (th : Fin 4096) (rt ra : Fin 32) (sz8 : Bool) (s : State) : Res :=
  .next (s.fabOp th.val 2 rt ra sz8 (·.rg rt) fun _ => 0)
def execFabMin (th : Fin 4096) (rt ra : Fin 32) (sz8 : Bool) (s : State) : Res :=
  .next (s.fabOp th.val 3 rt ra sz8 (·.rg rt) fun _ => 0)
def execFabMax (th : Fin 4096) (rt ra : Fin 32) (sz8 : Bool) (s : State) : Res :=
  .next (s.fabOp th.val 4 rt ra sz8 (·.rg rt) fun _ => 0)
def execFabCas (th : Fin 4096) (rt ra rb : Fin 32) (sz8 : Bool) (s : State) : Res :=
  .next (s.fabOp th.val 5 rt ra sz8 (·.rg rt) (·.rg rb))

/-- SPUR_REMOTE_REPLY (R154): the reply to a parked load or atomic, or to a fabric instruction that named the device's own
node. -/
def execSpurRemoteReply (th : Fin 4096) (s : State) : Res :=
  .next (
    match (s.thread th).wait with
    | some (.fabric _ _ _ tid node) =>
      if node = s.ownNode then
        match s.fabReqs.find? fun q => q.dst == node && q.tid == tid with
        | some q => s.performOwn q
        | none => s
      else s
    | _ => s.remoteReply th.val)

/-! ## Training and retraining (R349–R352) -/

/-- LINK_TRAINED: training has found `healthy` lanes, and measured the round trip in ns. -/
def execLinkTrained (l : Fin 36) (x : Training) (s : State) : Res :=
  .next (
    if s.lk l = lkTraining ∧ (s.link l).retrain = false then
      let s := s.mapLanes l x.healthy.toNat
      let s := s.setLinkRec l { s.link l with rtt := x.rtt }
      s.setLk l (if (lanesOf x.healthy.toNat).1 = 0 then lkDown else lkTrained)
    else s)

/-- LINK_RETRAIN_TIMER: a link that has been DOWN for 10 s trains again (R351). -/
def execLinkRetrainTimer (l : Fin 36) (s : State) : Res :=
  .next (if s.lk l = lkDown ∧ s.procUp fc ∧ (s.link l).since + 10000000000 ≤ s.nowNs then s.setLk l lkTraining else s)

/-- A retrain begins: nothing is sent, everything is kept (R352). -/
def State.retrain (s : State) (l : Nat) : State :=
  let s := s.setLinkRec l { s.link l with retrain := true, resends := 0 }
  (s.bump F.FAB_LINK_STAT.retrain_cnt l).setLk l lkTraining

/-- LANE_FAILURE: the link of a failed lane retrains. -/
def execLaneFailure (l : Fin 36) (lane : Fin 5) (s : State) : Res :=
  .next (
    if s.lk l = lkTrained ∨ s.lk l = lkActive then (s.orf F.FAB_LINK_STAT.lane_bad (2 ^ lane.val) l).retrain l else s)

/-- The epoch moves on: announced by REKEY, the last flit under the old key (R371). -/
def State.newEpoch (s : State) (l : Nat) : State :=
  let s := s.sendFlit l 3 0 0 0
  (s.setLinkRec l { s.link l with flits := 0 }).put F.FAB_LINK_STAT.epoch (s.rd F.FAB_LINK_STAT.epoch l + 1) l

/-- LINK_RETRAIN_END: sending resumes under a new epoch, or the link goes DOWN and loses what it holds. -/
def execLinkRetrainEnd (l : Fin 36) (x : Training) (s : State) : Res :=
  .next (
    if s.lk l = lkTraining ∧ (s.link l).retrain then
      let s := s.mapLanes l x.healthy.toNat
      if (lanesOf x.healthy.toNat).1 = 0 then s.dropLink l
      else
        let auth := (s.link l).auth
        let s := s.setLinkRec l { s.link l with retrain := false, rtt := x.rtt, ackAt := s.nowNs }
        let s := s.setLk l (if auth then lkActive else lkTrained)
        if auth then (s.newEpoch l).drainLink l (s.link l).queue.length else s
    else s)

/-! ## Authentication (R370, R372) -/

/-- LINK_AUTH_ACCEPT: both ends have accepted each other's IDLE flits; a peer that is no member leaves the link TRAINED. -/
def execLinkAuthAccept (l : Fin 36) (peerNode : BitVec 16) (peerLink : Fin 64) (s : State) : Res :=
  .next (
    if s.lk l = lkTrained ∧ s.on F.FAB_CTRL.joined ∧ s.procUp fc then
      if s.members.contains peerNode.toNat then
        let s := s.setLinkRec l { Link.zero with healthy := (s.link l).healthy, rtt := (s.link l).rtt, auth := true, rxEpoch := 1 }
        let s := (s.put F.FAB_LINK_CFG.peer_node peerNode.toNat l).put F.FAB_LINK_CFG.peer_link peerLink l
        (s.put F.FAB_LINK_STAT.epoch 1 l).setLk l lkActive
      else s.put F.FAB_STAT.auth_alarm 1
    else s)

/-- LINK_AUTH_TIMEOUT: tags have failed for 100 ms. -/
def execLinkAuthTimeout (l : Fin 36) (s : State) : Res :=
  .next (if s.lk l = lkTrained ∧ s.on F.FAB_CTRL.joined ∧ (s.link l).since + 100000000 ≤ s.nowNs then s.put F.FAB_STAT.auth_alarm 1 else s)

/-- A tag failure (R372): the sixteenth within a second takes the link DOWN. -/
def State.tagFail (s : State) (l : Nat) : State :=
  let x := s.link l
  let ts := s.nowNs :: x.tagFails.filter fun t => s.nowNs < t + 1000000000
  let s := (s.setLinkRec l { x with tagFails := ts }).bump F.FAB_LINK_ERR.auth_fail l
  if 16 ≤ ts.length then ((s.dropLink l).put F.FAB_STAT.auth_alarm 1).event 8 1 Ev.tagTakeDown l (512 + l) else s

/-! ## Flits (R353, R365) -/

/-- `q` is covered by acknowledgement `ack`. -/
def acked (ack q : Nat) : Bool := (ack + seqMod - q) % seqMod < seqMod / 2

/-- An acknowledgement frees replay entries; progress restarts the resend count. -/
def State.takeAck (s : State) (l ack : Nat) : State :=
  let x := s.link l
  let left := x.replay.dropWhile fun f => acked ack f.1
  if left.length = x.replay.length then s
  else s.setLinkRec l { x with replay := left, ackSeq := ack, resends := 0, ackAt := s.nowNs }

/-- Credits returned for a virtual channel (R363). -/
def State.takeCredit (s : State) (l vc n : Nat) : State :=
  let x := s.link l
  if n = 0 then s else s.setLinkRec l { x with credits := kmod x.credits vc 0 (· - n) }

/-- What the header of an accepted flit returns. -/
def State.takeHeader (s : State) (l : Nat) (f : Flit) : State :=
  let s := (s.takeAck l f.ack.toNat).takeCredit l f.crVc f.crCnt.toNat
  s.drainLink l (s.link l).queue.length

/-- One NAK per gap, carrying the last good number. -/
def State.sendNak (s : State) (l : Nat) : State :=
  let x := s.link l
  if x.nakSent then s
  else (s.setLinkRec l { x with nakSent := true }).sendFlit l 2 0 0 0

/-- DATA_FLIT: only the next number in order is accepted. Its units' buffer is free again when they have been taken, and an IDLE flit
acknowledges it and returns the credits. -/
def execDataFlit (l : Fin 36) (f : Flit) (s : State) : Res :=
  .next (
    if s.linkActive l then
      if f.codeOk && f.tagOk then
        let s := s.bump F.FAB_LINK_ERR.ce_cnt l f.fixed
        let x := s.link l
        if f.seq.toNat = x.rxNext then
          let s := s.setLinkRec l { x with
            rxNext := (x.rxNext + 1) % seqMod, nakSent := false, rekeyNext := false,
            owe := if f.units.val = 0 then x.owe else kmod x.owe f.vc 0 (· + f.units.val) }
          (s.takeHeader l f).sendFlit l 1 0 0 0
        else s.sendNak l
      else
        let s := s.sendNak l
        if f.codeOk then s.tagFail l else s
    else s)

/-- IDLE_FLIT: acknowledgement and credits. -/
def execIdleFlit (l : Fin 36) (f : Flit) (s : State) : Res :=
  .next (
    if s.linkActive l then
      if f.codeOk && f.tagOk then (s.bump F.FAB_LINK_ERR.ce_cnt l f.fixed).takeHeader l f else if f.codeOk then s.tagFail l else s
    else s)

/-- Resend from the first unacknowledged flit; after 16 resends without progress the link retrains. -/
def State.resend (s : State) (l : Nat) : State :=
  let x := s.link l
  if x.replay.isEmpty then s
  else if 16 ≤ x.resends then s.retrain l
  else
    let s := s.setLinkRec l { x with resends := x.resends + 1, ackAt := s.nowNs }
    let s := s.bump F.FAB_LINK_ERR.replay_cnt l
    x.replay.foldl (fun s f => s.sendFlit l 0 f.2.1 f.2.2 f.1) s

def execNak (l : Fin 36) (ack : BitVec 40) (s : State) : Res :=
  .next (if s.linkActive l then (s.takeAck l ack.toNat).resend l else s)

/-- ACK_TIMEOUT: no acknowledgement within twice the round trip. -/
def execAckTimeout (l : Fin 36) (s : State) : Res :=
  .next (if s.linkActive l ∧ (s.link l).ackAt + 2 * (s.link l).rtt ≤ s.nowNs then s.resend l else s)

/-- REKEY: the peer's next flit uses the key of the next epoch of its direction (R371). -/
def execRekey (l : Fin 36) (s : State) : Res :=
  .next (
    if s.linkActive l then s.setLinkRec l { s.link l with rekeyNext := true, rxEpoch := (s.link l).rxEpoch + 1 } else s)

/-- EPOCH_ROLLOVER: 2^40 flits have been sent under the epoch. -/
def execEpochRollover (l : Fin 36) (s : State) : Res :=
  .next (if s.linkActive l ∧ 2 ^ 40 ≤ (s.link l).flits then s.newEpoch l else s)

/-! ## Records (R354, R356, R360, R362, R367) -/

/-- There is traffic with a node. -/
def State.notePeer (s : State) (n : Nat) : State := s.setPeer n { s.peer n with seen := s.nowNs }

/-- A record that the receiver looks at: it arrives on an ACTIVE link, well formed, with a hop left, from a member. -/
def State.received (s : State) (l : Nat) (r : Record) (go : State → State) : State :=
  if !s.linkActive l then s
  else if r.bad || r.hop.val == 15 then s.bump F.FAB_STAT.rec_err
  else if !s.members.contains r.srcNode.toNat then s.bump F.FAB_LINK_CNT.nonmember_cnt l
  else go s

/-- Forward a record addressed elsewhere (R362). -/
def State.forward (s : State) (op : Nat) (r : Record) : State :=
  (s.sendRecord op { r with hop := Fin.ofNat 16 (r.hop.val + 1) }).getD (s.put F.FAB_STAT.unreach 1)

/-- The response operation of a request (R356, R357). -/
def responseOp (op : Nat) : Nat := if op = 0 then 8 else if op = 1 then 9 else if op = 6 then 11 else 10

/-- Answer a request. -/
def State.respond (s : State) (op : Nat) (r : Record) (status old : Nat) (dup : Bool) (data : List Byte) : State :=
  (s.sendRecord (responseOp op) { r with
    dstNode := r.srcNode, srcNode := BitVec.ofNat 16 s.ownNode, retry := false, dup := dup, hop := 0,
    status := BitVec.ofNat 16 status, value := BitVec.ofNat 64 old, newVal := 0, data := data }).getD
    (s.put F.FAB_STAT.unreach 1)

/-- Bytes that a request covers. -/
def recLen (op : Nat) (r : Record) : Nat :=
  if op ≤ 1 then r.len.toNat else if op = 6 then 64 else if r.sz8 then 8 else 4

/-- Perform a request, record its outcome in its source's window, and answer it. -/
def State.performRecord (s : State) (op : Nat) (r : Record) (tMax : Nat) : State :=
  let n := recLen op r
  let v := r.value.toNat % 2 ^ (8 * n)
  let x := s.perform1 op r.addr.toNat n v (r.newVal.toNat % 2 ^ (8 * n)) r.keyIdx.toNat r.sgn r.dev r.data
  let s := x.1
  let w := kget s.windows r.srcNode.toNat { tMax := tMax, recs := [] }
  let keep := w.recs.filter fun d => decide (toSigned 32 ((tMax + 2 ^ 32 - d.tid) % 2 ^ 32) < 4096) && d.tid != r.tid.toNat
  let rec_ : DedupRec := { tid := r.tid.toNat, status := x.2.1, old := x.2.2.1, ld := op == 0 }
  -- a mailbox that is full asks for a retry, and nothing is recorded (R417)
  let s := if x.2.1 = St.busy then s else s.withWindows (kset s.windows r.srcNode.toNat { tMax := tMax, recs := rec_ :: keep })
  s.respond op r x.2.1 x.2.2.1 false x.2.2.2

/-- A request for this node: the deduplication window decides (R367). -/
def State.request (s : State) (op : Nat) (r : Record) : State :=
  let src := r.srcNode.toNat
  let t := r.tid.toNat
  match kfind s.windows src with
  | none =>
    if Config.windowRoom < s.windows.length then (s.put F.FAB_STAT.win_alloc_fail 1).respond op r St.busy 0 false []
    else s.performRecord op r t
  | some w =>
    let d := toSigned 32 ((t + 2 ^ 32 - w.tMax) % 2 ^ 32)
    if 0 < d then s.performRecord op r t
    else if d ≤ -4096 then
      let p := s.peer src
      s.setPeer src { p with stale := satAdd 13 p.stale 1 }
    else match w.recs.find? fun x => x.tid == t with
      | none => s.performRecord op r w.tMax
      | some x =>
        if x.status ≠ St.ok then s.respond op r x.status 0 true []
        else if op = 0 then s.performRecord op r w.tMax
        else s.respond op r St.ok x.old true []

/-- A request record arrives. -/
def State.recvRequest (s : State) (l op : Nat) (r : Record) : State :=
  s.received l r fun s => if r.dstNode.toNat ≠ s.ownNode then s.forward op r else (s.notePeer r.srcNode.toNat).request op r

def execLdRecord (l : Fin 36) (r : Record) (s : State) : Res := .next (s.recvRequest l 0 r)
def execStRecord (l : Fin 36) (r : Record) (s : State) : Res := .next (s.recvRequest l 1 r)
def execAddRecord (l : Fin 36) (r : Record) (s : State) : Res := .next (s.recvRequest l 2 r)
def execMinRecord (l : Fin 36) (r : Record) (s : State) : Res := .next (s.recvRequest l 3 r)
def execMaxRecord (l : Fin 36) (r : Record) (s : State) : Res := .next (s.recvRequest l 4 r)
def execCasRecord (l : Fin 36) (r : Record) (s : State) : Res := .next (s.recvRequest l 5 r)
def execMsgRecord (l : Fin 36) (r : Record) (s : State) : Res := .next (s.recvRequest l 6 r)

/-- A running average with weight 1/16; the first value starts it. -/
def average (old x : Nat) : Nat := if old = 0 then x else (15 * old + x) / 16

/-- The values that are kept of a peer: without traffic in the last 60 s its latencies start again (R375). -/
def State.recent (s : State) (n : Nat) : Peer :=
  let p := s.peer n
  if p.seen + 60000000000 < s.nowNs then { p with rtt := 0, lag := 0 } else p

/-- What a response tells of its peer (R374, R375): its round trip, and that it answers. -/
def State.noteAnswer (s : State) (n : Nat) (q : FabReq) : State :=
  let p := s.recent n
  s.setPeer n { p with rtt := average p.rtt (s.nowNs - q.since), lost := none, seen := s.nowNs }

/-- A member has acknowledged the switch of a shard move (R376). -/
def State.noteAck (s : State) (n tid : Nat) : State :=
  match s.move with
  | some m =>
    if m.sent.contains (n, tid) then
      s.withMove (some { m with sent := m.sent.filter (· != (n, tid)), acks := n :: m.acks })
    else s
  | none => s

/-- A response arrives: its request ends, unless it has ended before; ST_BUSY leaves it to its timer (R366, R367). -/
def State.recvResponse (s : State) (l op : Nat) (r : Record) : State :=
  s.received l r fun s =>
    if r.dstNode.toNat ≠ s.ownNode then s.forward op r
    else
      let n := r.srcNode.toNat
      match s.fabReqs.find? fun q => q.dst == n && q.tid == r.tid.toNat && responseOp q.op == op with
      | none => s
      | some q =>
        let s := s.noteAnswer n q
        if r.status.toNat = St.busy then s
        else
          let s := if op = 11 ∧ r.status = 0 then s.noteAck n q.tid else s
          s.closeReq q r.status.toNat (if op = 8 then leVal r.data else r.value.toNat) r.data

def execLdRsp (l : Fin 36) (r : Record) (s : State) : Res := .next (s.recvResponse l 8 r)
def execStAck (l : Fin 36) (r : Record) (s : State) : Res := .next (s.recvResponse l 9 r)
def execAtomRsp (l : Fin 36) (r : Record) (s : State) : Res := .next (s.recvResponse l 10 r)
def execMsgAck (l : Fin 36) (r : Record) (s : State) : Res := .next (s.recvResponse l 11 r)

/-! ## End-to-end timers and members (R329, R366, R374, R377) -/

/-- The end-to-end timer in ns and the attempts in force (R379). -/
def State.e2eNs (s : State) : Nat := max 10 (s.rd F.FAB_LIMITS.e2e_to_us) * 1000
def State.e2eTries (s : State) : Nat := max 1 (min 8 (s.rd F.FAB_LIMITS.e2e_tries))

/-- E2E_TIMEOUT: retry by the present route table, or end. -/
def execE2eTimeout (dst : BitVec 16) (tid : BitVec 32) (s : State) : Res :=
  .next (
    match s.fabReqs.find? fun q => q.dst == dst.toNat && q.tid == tid.toNat with
    | none => s
    | some q =>
      let due (x : FabReq) : Bool := x.since + s.e2eNs ≤ s.nowNs
      -- retries are issued in ascending `tid` (R364)
      if q.dst = s.ownNode ∨ ((s.reqsTo q.dst).find? due).map (·.tid) ≠ some q.tid then s
      else if (s.candLinks q.dst).isEmpty then (s.put F.FAB_STAT.unreach 1).closeReq q St.fabUnreachable 0 []
      else if q.tries < s.e2eTries then
        let q' := { q with tries := q.tries + 1, since := s.nowNs }
        let p := s.peer q.dst
        let s := s.setPeer q.dst { p with retries := satAdd 32 p.retries 1 }
        let s := s.withFabReqs (s.fabReqs.map fun (x : FabReq) => if x.dst = q.dst ∧ x.tid = q.tid then q' else x)
          |>.withRoutes (kmapv s.routes fun d r => if d = q.dst then { r with waitFor := r.waitFor.filter (· != q.tid) } else r)
        ((s.sendRecord q.op (s.reqRecord q' true)).getD s).wakeFab
      else
        let p := s.peer q.dst
        let s := s.setPeer q.dst { p with suspect := true, lost := some (p.lost.getD s.nowNs) }
        ((s.event 5 1 Ev.member q.dst fc).eventEntry (Config.hostEvent 4) q.dst).closeReq q St.fabTimeout 0 [])

/-- A model with one copy whose weights its templates fetch from node `n` (R377). -/
def Model.shardAt (md : Model) (n : Nat) : Bool :=
  md.copies == 1 && md.stages.any fun st => st.items.any fun it => it.kind.val == 2 && (it.words.getD 0 0).toNat / 2 ^ 48 == n

/-- A member that left or failed: every sequence with KV frames on it, or of a model whose only holder of a shard it was, is
to freeze with cause 6 (R315, R329, R377), and the control ring hears of it (R401). -/
def State.memberLost (s : State) (n : Nat) : State :=
  let s := s.withMove (match s.move with | some m => if m.spare = n then none else some m | none => none)
  let hit := s.seqs.filter fun q => q.2.st != .free && ((q.2.pages.any fun e => e.remote && e.node == n) ||
    (n != s.ownNode && (kfind s.models q.2.model).elim false fun md => md.shardAt n))
  let s := hit.foldl (fun s q => s.askFreeze q.1 6 St.memUncorrectable) s
  if hit.isEmpty then s else s.eventEntry (Config.hostEvent 6) n

/-- MEMBER_FAILED_MARK. -/
def execMemberFailedMark (node : BitVec 16) (s : State) : Res :=
  .next (
    let n := node.toNat
    let p := s.peer n
    match p.lost with
    | some t =>
      if t + s.e2eNs ≤ s.nowNs ∧ p.failed = false then
        (((s.setPeer n { p with failed := true }).event 5 1 Ev.member n fc).eventEntry (Config.hostEvent 5) n).memberLost n
      else s
    | none => s)

/-! ## Collectives, stragglers, snapshots (R373–R375, R379) -/

/-- An element of a collective as a value, and back: rounded once to its format. -/
def collValue (fmt v : Nat) : Num :=
  match fmt with
  | 0 => fp32.decode (v % 65536 * 65536)
  | 1 => fp32.decode v
  | _ => Num.ofInt (toSigned 32 v)
def collCode (fmt : Nat) (x : Num) : Nat :=
  match fmt with
  | 0 => encodeElem 5 .rne x
  | 1 => fp32.encode .rne false x
  | _ => (BitVec.ofInt 32 (x.toIntSat .rne (-2 ^ 31) (2 ^ 31 - 1))).toNat

/-- A reduction of two values: sums in binary32, the least, the greatest. -/
def collOp (op : Nat) (a b : Num) : Num :=
  match op with
  | 0 => fp32.decode (fp32.encode .rne false (a.add b))
  | 1 => if (b.add a.neg).negative then b else a
  | _ => if (a.add b.neg).negative then b else a

/-- The value of position `i` of a binary tree: its own, then its children's (R373). -/
def treeReduce (f : Num → Num → Num) (xs : List Num) : Nat → Nat → Option Num
  | 0, _ => none
  | k + 1, i =>
    match xs[i]? with
    | none => none
    | some x =>
      let a := ((treeReduce f xs k (2 * i + 1)).map (f x)).getD x
      some (((treeReduce f xs k (2 * i + 2)).map (f a)).getD a)

/-- The value of block `b` of a ring: position b + 1 first, position b last. -/
def ringReduce (f : Num → Num → Num) (xs : List Num) (b : Nat) : Option Num :=
  match (List.range xs.length).map fun j => xs.getD ((b + 1 + j) % xs.length) .nan with
  | [] => none
  | x :: rest => some (rest.foldl f x)

/-- Block of element `e` among `len` over `n` positions: contiguous, the earlier blocks one element longer. -/
def blockOf (len n e : Nat) : Nat := ((List.range n).find? fun b => (splitRun len n b).contains e).getD 0

/-- Elements that the collective leaves at position `p`, from the elements of the positions that took part. -/
def collResult (c : Collective) (p : Nat) (xs : List (List Nat)) : List Nat :=
  let n := xs.length
  let len := (xs.headD []).length
  let reduce (e : Nat) : Nat :=
    let col := xs.map fun x =>
      let v := collValue c.fmt (x.getD e 0)
      if c.op.val = 0 then fp32.decode (fp32.encode .rne false v) else v
    let f := collOp c.op
    collCode c.fmt ((if len * (if c.fmt.val = 0 then 2 else 4) ≤ 65536 then treeReduce f col n 0 else ringReduce f col (blockOf len n e)).getD .nan)
  match c.kind.val with
  | 0 => (List.range len).map reduce
  | 1 => (splitRun len n p).map reduce
  | 2 => xs.flatten
  | 3 => xs.getD c.root []
  | _ => []

/-- The lag of one member in a collective of member set `set`. -/
def State.noteLag (s : State) (set : List Nat) (n lag : Nat) : State :=
  let p := s.recent n
  let late := s.rd F.FAB_STRAG.strag_thr_us * 1000 < lag && s.on F.FAB_STRAG.strag_thr_us
  let run := if late then (if p.runSet = set then p.run else 0) + 1 else 0
  let hit := s.on F.FAB_STRAG.strag_n && s.rd F.FAB_STRAG.strag_n ≤ run
  let p := { p with lag := average p.lag lag, run := if hit then 0 else run, runSet := set, seen := s.nowNs }
  if hit then
    let s := (s.setPeer n { p with strag := satAdd 16 p.strag 1 }).event 5 2 Ev.straggler n fc
    if s.coordUp then s.eventEntry (Config.hostEvent 3) n else s
  else s.setPeer n p

/-- The arrival of the median member: the lower one of an even number. -/
def medianOf (xs : List Nat) : Nat := (sortBy Int.ofNat xs).getD ((xs.length - 1) / 2) 0

/-- COLLECTIVE_END: it waits for every member that is neither removed nor failed (R374); the arrivals feed straggler detection (R375), and a
member that is missing is lost to the sequences that it serves (R329, R377). -/
def execCollectiveEnd (c : Collective) (ring : List (BitVec 16)) (parts : List (BitVec 16 × Nat × List (BitVec 32))) (s : State) : Res :=
  .next (
    let ring := ring.map BitVec.toNat
    let there := ring.filterMap fun n => (parts.find? fun x => x.1.toNat == n).map fun x => (n, x.2.1, x.2.2.map BitVec.toNat)
    let missing := ring.filter fun n => !(there.any fun x => x.1 == n)
    if ring.isEmpty || !ring.contains s.ownNode || missing.any (fun n => s.members.contains n && !(s.peer n).failed) then s
    else
      let mid := medianOf (there.map fun x => x.2.1)
      let s := (there.filter fun x => x.1 != s.ownNode).foldl (fun s x => s.noteLag ring x.1 (x.2.1 - mid)) s
      let pos := ((there.map (·.1)).findIdx? (· == s.ownNode)).getD 0
      let mask := (ring.zipIdx.filter fun x => !missing.contains x.1).foldl (fun a x => a + 2 ^ x.2) 0
      let s := s.emit (.collective c.coll.toNat c.kind mask (!missing.isEmpty) (collResult c pos (there.map fun x => x.2.2)))
      missing.foldl State.memberLost s)

/-- PEER_SNAPSHOT. -/
def execPeerSnapshot (wr : Writer) (node : BitVec 16) (s : State) : Res :=
  .next (
    if s.mayWrite wr F.FAB_PEER_SEL.node 0 then
      let n := node.toNat
      let p := s.recent n
      let s := s.put F.FAB_PEER_SEL.node n
      let s := (s.put F.FAB_PEER_LAT.rtt_ns (min (2 ^ 32 - 1) p.rtt)).put F.FAB_PEER_LAT.lag_ns (min (2 ^ 32 - 1) p.lag)
      let s := (s.put F.FAB_PEER_CNT.retries p.retries).put F.FAB_PEER_CNT.strag_runs p.strag
      let s := s.put F.FAB_PEER_CNT.member (b2n (s.members.contains n))
      let s := (s.put F.FAB_PEER_CNT.suspect (b2n p.suspect)).put F.FAB_PEER_CNT.failed (b2n p.failed)
      s.put F.FAB_PEER_CNT.stale_cnt p.stale
    else s)

/-! ## Shard moves (R376) -/

/-- Members other than this device. -/
def State.others (s : State) : List Nat := s.members.filter (· != s.ownNode)

/-- SHARD_MOVE_SWITCH: a copy round of `copied` frames was short enough; at a step boundary the coordinator sends the switch to every
member. The move's plan goes to the spare before. -/
def execShardMoveSwitch (copied : Nat) (s : State) : Res :=
  .next (s.atBoundary fun s =>
    match s.spares with
    | spare :: _ =>
      let lg := s.models.foldl (fun a m => max a m.2.lgCount) 1
      if s.move.isNone && s.on F.FAB_CTRL.joined && s.coordUp && copied < lg * 16 then
        let s := s.fabMsg spare 8 []
        let n0 := s.fabReqs.length
        let s := s.others.foldl (fun s n => s.fabMsg n 8 []) s
        s.withMove (some { spare := spare, old := s.ownNode, switched := true, acks := [],
                           sent := (s.fabReqs.drop n0).map fun q => (q.dst, q.tid) })
      else s
    | [] => s)

/-- SHARD_MOVE_RELEASE: every member has acknowledged the switch, and the release is sent. -/
def execShardMoveRelease (s : State) : Res :=
  .next (
    match s.move with
    | some m =>
      if m.switched && s.coordUp && s.others.all fun n => m.acks.contains n then (s.withMove none).fabMsg m.spare 8 [] else s
    | none => s)

end Sys2Proof.Machine
end

