-- ==== Sys2Proof/Machine/Submit.lean ====
section
/-! DEFINITION. How a control command reaches its execution (R386, R388, R390, R418): read from the head of its ring, checked
by its token and its reserved bits, and held while its owner is down. -/

namespace Sys2Proof.Machine

/-- An entry that the ring holds beyond those already waiting. -/
def State.offered (s : State) (k : Nat) : Bool := (s.ring k).fifo.length < s.sqAvail k

/-- Read the entry, check its token, and run it. -/
def State.read1 (s : State) (k : Nat) (x : SubEntry) (go : State → State) : State :=
  (s.takeEntry k).withToken k x.e.token.toNat x.opc go

/-- A control command on ring `k`: executed when it stands at the head of a readable ring, else it waits in ring order. -/
def State.submit (s : State) (k : Nat) (x : SubEntry) (go : State → State) : State :=
  if !s.offered k then s
  else if (s.ring k).fifo.isEmpty && s.readable k then s.read1 k x go
  else s.setRing k { s.ring k with fifo := (s.ring k).fifo ++ [x] }

/-- An admitting command waits in its ring for a round (R386). -/
def State.queueEntry (s : State) (k : Nat) (x : SubEntry) : State :=
  if s.offered k then s.setRing k { s.ring k with fifo := (s.ring k).fifo ++ [x] } else s

/-- Complete a command of ring `k`. -/
def State.complete (s : State) (k : Nat) (x : SubEntry) (status : Nat) (handle : Nat := 0) (res0 : Nat := 0)
    (res1 : Nat := 0) : State :=
  s.finish k x.e.token.toNat x.opc status handle res0 res1

/-- Reserved operand bits (R388): masks of the named bits of words 2–7. -/
def State.checked (s : State) (k : Nat) (x : SubEntry) (m2 m3 m4 m5 m6 m7 : Nat) (go : State → State) : State :=
  if Entry.reservedOk x.e m2 m3 m4 m5 m6 m7 then go s else s.complete k x St.badCommand

/-- Owner number of the placement coordinator in the list of held commands. -/
def ownerCoord : Nat := 100

/-- Run a command of the control ring that a processor owns (R418). -/
def State.owned (s : State) (owner : Nat) (x : SubEntry) (go : State → State) : State :=
  let hold : State := s.withHeldCmds (s.heldCmds ++ [⟨owner, x⟩])
  if owner = ownerCoord then
    match s.coordinator with
    | some p => if s.procUp (pc p) then go s else hold
    | none => hold
  else
    let st := s.rd F.FW_PROC_STAT.pstate owner
    if s.procUp owner then go s else if st < 2 then hold else s.complete ctlRing x St.busy

/-- All 64 bits of a word. -/
def full : Nat := 2 ^ 64 - 1

end Sys2Proof.Machine
end

