-- ==== Sys2Proof/Machine/Column.lean ====
section
/-! DEFINITION. Lanes and the tick table (R69, R71, R74–R79, R86, R90): the numbers of lanes and units, the bytes of a bank, its
entries and their checks, open time, and the columns of the committed bank. -/

namespace Sys2Proof.Machine

/-! ## Lanes and their units (R69) -/

def coreLane (l : Nat) : Bool := l < 16
def spurLane (l : Nat) : Bool := 16 ≤ l && l < 80
def dmaLane (l : Nat) : Bool := 80 ≤ l && l < 96
def computeLane (l : Nat) : Bool := l < 80
/-- Logical core, Spur core and engine of a lane. -/
def coreOf (p l : Nat) : Nat := 16 * p + l
def spurOf (p l : Nat) : Nat := 64 * p + (l - 16)
def engOf (p l : Nat) : Nat := 16 * p + (l - 80)
/-- Lane of a unit inside its partition. -/
def coreLaneOf (n : Nat) : Nat × Nat := (n / 16, n % 16)
def spurLaneOf (n : Nat) : Nat × Nat := (n / 64, n % 64 + 16)

/-- The partition's sequencer runs: its domain is on and no reset of it is in progress (R41, R454). -/
def State.seqRuns (s : State) (p : Nat) : Bool := s.partOn p && s.domainOn p && s.rd F.RST_PART_STAT.rst_state p == 0
/-- A cluster is covered by a reset. -/
def State.suspended (s : State) (cl : Nat) : Bool := s.on F.RST_CL_STAT.suspended cl

/-- The unit of a lane gives work (R69). -/
def State.laneOk (s : State) (p l : Nat) : Bool :=
  if coreLane l then s.coreOk (coreOf p l) && !s.suspended (coreOf p l / 4)
  else if spurLane l then s.spurOk (spurOf p l) && !s.suspended (spurOf p l / 16)
  else l < 104

/-! ## The bytes of a bank (R74–R77) -/

def bankAt (p b : Nat) : Nat := tickBankBase p + b * 0x100000

/-- A length that R72 permits. -/
def lenOk (n : Nat) : Bool := n != 0 && n ≤ 1280 && 81920 % n == 0

/-- Bytes of one 16-byte entry (R77). -/
def entryBytes (e : ColEntry) : List Byte :=
  leBytes 8 (e.lane.val + 256 * e.kind.val + 2 ^ 10 * e.start.toNat + 2 ^ 29 * e.len.toNat + 2 ^ 48 * e.kernel.toNat) ++
  leBytes 8 (e.desc.toNat + 2 ^ 48 * e.thr.toNat)

/-- Directory entries and record bytes of a bank, records from 16-byte unit `u`. -/
def bankBody : List (List ColEntry) → Nat → List Nat × List Byte
  | [], _ => ([], [])
  | c :: cs, u =>
    let r := bankBody cs (u + c.length)
    ((u + 65536 * (c.length % 4096) + 2 ^ 28 * b2n (c.any fun e => e.kind.val == 0)) :: r.1, c.flatMap entryBytes ++ r.2)

/-- The bytes of a bank, with its generation and the plan's identifier, 0 without radio entries (R75–R77). -/
def bankBytes (b : BankImage) (planId gen : Nat) : List Byte :=
  let n := b.columns.length
  let dirEnd := roundUp (32 + 8 * n) 16
  let body := bankBody b.columns (dirEnd / 16)
  let radio := b.columns.any fun c => c.any fun e => e.kind.val == 0
  leBytes 8 (n % 2048 + 2048 + 2 ^ 32 * (gen % 2 ^ 32)) ++ leBytes 8 32 ++
  leBytes 8 (if radio then planId else 0) ++ leBytes 8 0 ++
  body.1.flatMap (leBytes 8) ++ List.replicate (dirEnd - 32 - 8 * n) 0 ++ body.2

/-! ## Entries and their checks (R77, R78) -/

/-- A 16-byte entry (R77). -/
def slotOf (w0 w1 : Nat) : ColSlot :=
  { lane := bits w0 6 0, kind := bits w0 9 8, start := bits w0 28 10, len := bits w0 47 29, kernel := bits w0 63 48,
    desc := bits w1 47 0, thr := bits w1 55 48, late := false, st := .waiting }

/-- An entry as the placement engine builds it. -/
def ColEntry.slot (e : ColEntry) : ColSlot :=
  { lane := e.lane.val, kind := e.kind.val, start := e.start.toNat, len := e.len.toNat, kernel := e.kernel.toNat
    desc := e.desc.toNat, thr := e.thr.toNat, late := false, st := .waiting }

/-- An entry back in the form that PCp writes. -/
def ColSlot.entry (x : ColSlot) : ColEntry :=
  { lane := Fin.ofNat 128 x.lane, kind := Fin.ofNat 4 x.kind, start := BitVec.ofNat 19 x.start, len := BitVec.ofNat 19 x.len
    kernel := BitVec.ofNat 16 x.kernel, desc := BitVec.ofNat 48 x.desc, thr := BitVec.ofNat 8 x.thr }

/-- Two spans of a lane share a tick cycle; on a Spur lane their masks share a thread too (R78). -/
def slotsMeet (x y : ColSlot) : Bool :=
  x.lane == y.lane && max x.start y.start < min (x.start + x.len) (y.start + y.len) &&
  (!spurLane x.lane || x.thr &&& y.thr != 0)

/-- The entry fails its check (R78, R164); `ok` are the earlier entries that passed, `mask` gives the radio threads of a lane. -/
def slotFails (p : Nat) (mask : Nat → Nat) (ok : List ColSlot) (x : ColSlot) : Bool :=
  2 ≤ x.kind || 103 < x.lane || 412500 < x.start + x.len || (computeLane x.lane && x.start < 6600) ||
  (x.kind == 0 && !within x.desc 1 (pinnedBase p) 0x2000000) || (spurLane x.lane && x.thr == 0) ||
  (spurLane x.lane && x.kind == 0 && x.thr &&& mask x.lane != x.thr) || ok.any (slotsMeet x)

/-- Check the entries of a record in order. -/
def checkSlots (p : Nat) (mask : Nat → Nat) (all : Bool) : List ColSlot → List ColSlot → List ColSlot
  | _, [] => []
  | ok, x :: xs =>
    if all || slotFails p mask ok x then { x with st := .skipped } :: checkSlots p mask all ok xs
    else x :: checkSlots p mask all (ok ++ [x]) xs

/-- Radio threads of a Spur lane (R164). -/
def State.laneMask (s : State) (p l : Nat) : Nat := s.rd F.SPR_CTRL.radio_mask (spurOf p l)

/-- The directory entry of column `col` lies in its bank and is free of uncorrectable errors. Otherwise nothing of the column is
read (DESIGN CHOICE, log 83): the manual speaks of the record only. -/
def State.dirOk (s : State) (p col : Nat) : Bool :=
  let b := bankAt p (s.rd F.TICK_STAT.cur_bank p)
  let d := bits (s.memLE (b + 8) 8) 19 0 + 8 * col
  d + 8 ≤ 0x100000 && !(wordsOf b 32 ++ wordsOf (b + d) 8).any s.poison.contains

/-- The entries of column `col` of the committed bank, checked. Of a record that runs past its bank those inside it are read, and
fail (DESIGN CHOICE, log 84: the manual does not say how many entries that cannot be read count). -/
def State.readColumn (s : State) (p col : Nat) : List ColSlot :=
  if !s.dirOk p col then []
  else
    let b := bankAt p (s.rd F.TICK_STAT.cur_bank p)
    let d := s.memLE (b + bits (s.memLE (b + 8) 8) 19 0 + 8 * col) 8
    let off := 16 * bits d 15 0
    let n := bits d 27 16
    let es := ((List.range n).filter fun i => off + 16 * (i + 1) ≤ 0x100000).map fun i =>
      slotOf (s.memLE (b + off + 16 * i) 8) (s.memLE (b + off + 16 * i + 8) 8)
    -- the radio rows of an MXD1-I are disabled (R3)
    checkSlots p (s.laneMask p) (0x100000 < off + 16 * n || (wordsOf (b + off) (16 * n)).any s.poison.contains) []
      (if s.isI then es.filter fun x => x.kind != 0 else es)

/-- The columns of the committed bank of a partition. -/
def State.committed (s : State) (p : Nat) : List (List ColSlot) :=
  (List.range (s.rd F.TICK_STAT.cur_len p)).map (s.readColumn p)

/-- A lane carries radio rows in the committed bank. -/
def State.carriesRadio (s : State) (p l : Nat) : Bool :=
  (s.committed p).any fun c => c.any fun x => x.kind == 0 && x.lane == l && x.st != .skipped

/-! ## Open time (R79) -/

/-- The entries of a lane that count: those that passed their check. -/
def laneSlots (col : List ColSlot) (l : Nat) : List ColSlot := col.filter fun x => x.lane == l && x.st != .skipped

/-- Open intervals of a compute lane in a column, in order (R79). -/
def gapsFrom : List ColSlot → Nat → List (Nat × Nat)
  | [], cur => if cur < 412500 then [(cur, 412500)] else []
  | x :: xs, cur =>
    (if cur < x.start then [(cur, x.start)] else []) ++ gapsFrom xs (max cur (x.start + x.len))
def gapsOf (col : List ColSlot) (l : Nat) : List (Nat × Nat) := gapsFrom (laneSlots col l) 6600

end Sys2Proof.Machine
end

