-- ==== Sys2Proof/Machine/Nr.lean ====
section
/-! DEFINITION. What the radio takes from NR (R223–R227, R232–R237, R409): the plan's entries, slots and symbols, the PDUs of a
slot message, SS/PBCH blocks, code blocks and their soft buffers, LDPC and polar decoding. -/

namespace Sys2Proof.Machine

/-! ## Fields of a cell entry (R239) -/

def ceId (e : CellEntry) : Nat := bits e.w0.toNat 11 0
def cePrio (e : CellEntry) : Nat := bits e.w0.toNat 15 12
def ceInitLock (e : CellEntry) : Bool := bit e.w0.toNat 16
def cePart (e : CellEntry) : Nat := bits e.w0.toNat 20 17
def ceTdd (e : CellEntry) : Bool := bit e.w0.toNat 21
def ceFr2 (e : CellEntry) : Bool := bit e.w0.toNat 22
def ceMu (e : CellEntry) : Nat := bits e.w0.toNat 24 23
def ceSplit (e : CellEntry) : Nat := bits e.w0.toNat 26 25
def ceTrx (e : CellEntry) : Nat := bits e.w0.toNat 29 27
def ceDlLayers (e : CellEntry) : Nat := bits e.w0.toNat 34 30
def ceUlLayers (e : CellEntry) : Nat := bits e.w0.toNat 38 35
def cePrbDl (e : CellEntry) : Nat := bits e.w0.toNat 47 39
def cePrbUl (e : CellEntry) : Nat := bits e.w0.toNat 56 48
def cePort (e : CellEntry) : Nat := bits e.w5.toNat 2 0
def ceSub (e : CellEntry) : Nat := bits e.w5.toNat 4 3
def ceEaxc (e : CellEntry) : Nat := bits e.w5.toNat 20 5
def ceAtten (e : CellEntry) : Nat := bits e.w5.toNat 26 21

/-- Antennas of a `trx` row (R229). -/
def trxAnt (t : Nat) : Nat := [1, 2, 4, 4, 8, 16, 32, 64].getD t 0

/-- Streams of a cell (R250). -/
def ceStreams (e : CellEntry) : Nat :=
  if ceSplit e = 1 then max (ceDlLayers e) (ceUlLayers e) else trxAnt (ceTrx e)

/-! ## Slots and symbols (R224, R253, TS 38.211 §5.3.1) -/

/-- Ticks of a slot. -/
def slotTicks (mu : Nat) : Nat := 2 ^ (3 - mu)
/-- `dl_lead` in ticks. -/
def dlLead (mu : Nat) : Nat := [8, 6, 5, 4].getD mu 4
/-- Key of a slot: SFN · 80 + slot. -/
def slotNo (sfn slot : Nat) : Nat := sfn * 80 + slot

/-- Ticks from tick `t` to the start of the nearest occurrence of a slot. -/
def State.slotDist (s : State) (mu sfn slot : Nat) (t : Int) : Int :=
  let d := ((sfn * 80 + slot * slotTicks mu : Nat) : Int) - (t - s.frameOff)
  (d + 40960) % 81920 - 40960

/-- The slot that tick `t` lies in. -/
def State.slotAt (s : State) (mu : Nat) (t : Int) : Nat × Nat := (s.sfnOf t, s.tickInFrame t / slotTicks mu)

/-- Absolute ns at which tick `t` starts. -/
def tickNs (t : Int) : Int := t * 125000 + 315964819 * 1000000000

/-- Start of symbol `sym` of slot `slot` after the start of its subframe, in ns, cyclic prefix included. -/
def symNs (mu slot sym : Nat) : Int :=
  let m := slot % 2 ^ mu * 14 + sym
  let long := b2n (0 < m) + b2n (7 * 2 ^ mu < m)
  (((m * 2192 + 16 * 2 ^ mu * long) * 3125 / (96 * 2 ^ mu) : Nat) : Int)

/-- air(n) of R253: the start of a symbol of the nearest occurrence of a slot. -/
def State.air (s : State) (mu sfn slot sym : Nat) : Int :=
  let t := s.time.tick + s.slotDist mu sfn slot s.time.tick
  tickNs (t - ((slot % 2 ^ mu * slotTicks mu : Nat) : Int)) + symNs mu slot sym

/-- Slots of a TDD period code at numerology `mu`. -/
def periodSlots (code mu : Nat) : Nat := [500, 625, 1000, 1250, 2000, 2500, 3000, 4000, 5000, 10000].getD code 0 * 2 ^ mu / 1000

/-- Slot number within 20 ms. -/
def slot20 (mu sfn slot : Nat) : Nat := sfn % 2 * (10 * 2 ^ mu) + slot

/-- One PDU of a list: type, RNTI, body, offset and length of its data. -/
structure Pdu where
  type : Nat
  rnti : Nat
  body : List Byte
  data : Nat × Nat
  deriving DecidableEq, Repr

/-- Parse a PDU list; nothing for a malformed one. -/
def parsePdus : Nat → List Byte → Option (List Pdu)
  | 0, bs => if bs.isEmpty then some [] else none
  | n + 1, bs =>
    if bs.isEmpty then some []
    else if bs.length < 16 then none
    else
      let w := leVal (bs.take 8)
      let len := bits w 47 32
      let pad := roundUp len 8
      if 7 < bits w 7 0 || bs.length < 16 + pad then none
      else match parsePdus n (bs.drop (16 + pad)) with
        | none => none
        | some ps => some (⟨bits w 7 0, bits w 31 16, (bs.drop 16).take len, (leVal ((bs.drop 8).take 4), leVal ((bs.drop 12).take 4))⟩ :: ps)


def sat16 (v : Int) : Int := clampInt (-32768) 32767 v

/-! ## Fields of PDU bodies (R409) -/

/-- Where a PDU lies in its slot: first symbol, symbols, first PRB, PRBs, beam. -/
structure PduSpan where
  sym  : Nat
  syms : Nat
  prb  : Nat
  prbs : Nat
  beam : Nat
  deriving DecidableEq, Repr

/-- The span of a PDU; `band` PRBs for one that takes the whole band. -/
def pduSpan (band : Nat) (p : Pdu) : PduSpan :=
  let b (o n : Nat) : Nat := bitsAt p.body o n
  match p.type with
  | 0 => ⟨b 18 4, b 22 2, b 0 9, b 9 9, 0⟩
  | 1 | 4 => ⟨b 27 4, b 31 4, b 0 9 + b 9 9, b 18 9, b 121 15⟩
  | 2 => ⟨b 23 4, [1, 1, 2, 4].getD (b 27 2) 1, b 31 9, b 40 9, 0⟩
  | 5 => ⟨b 16 4, b 20 4, b 3 9, b 12 4, 0⟩
  | 6 => ⟨b 4 4, 2 ^ b 2 2, 0, band, 0⟩
  | _ => ⟨0, 0, 0, 0, 0⟩

def PduSpan.covers (x : PduSpan) (sym : Nat) : Bool := x.sym ≤ sym && sym < x.sym + x.syms

/-- Fields of a PUSCH body: TBS in bytes, code rate, NDI, HARQ process, LBRM. -/
def puschTbs (b : List Byte) : Nat := bitsAt b 79 24
def puschRate (b : List Byte) : Nat := bitsAt b 63 16
def puschNdi (b : List Byte) : Bool := bitsAt b 105 1 == 1
def puschHarq (b : List Byte) : Nat := bitsAt b 106 5
def puschLbrm (b : List Byte) : Bool := bitsAt b 142 1 == 1

/-- Bits of UCI that a PUCCH body announces: HARQ-ACK, SR, CSI part 1. -/
def pucchBits (b : List Byte) : Nat × Nat × Nat := (bitsAt b 40 8, bitsAt b 48 2, bitsAt b 50 11)

/-! ## SS/PBCH blocks (R223, R226; positions of TS 38.213 §4.1, PRESUMED, log 102) -/

/-- Subcarrier spacing exponent of an SSB case. -/
def ssbMu (case_ : Nat) : Nat := [0, 1, 1, 3].getD case_ 0

/-- First symbols of the blocks of a half-frame, in symbols of the case's spacing. -/
def ssbStarts (case_ : Nat) : List Nat :=
  match case_ with
  | 0 => (List.range 4).flatMap fun n => [2 + 14 * n, 8 + 14 * n]
  | 1 => (List.range 2).flatMap fun n => [4 + 28 * n, 8 + 28 * n, 16 + 28 * n, 20 + 28 * n]
  | 2 => (List.range 4).flatMap fun n => [2 + 14 * n, 8 + 14 * n]
  | _ => [0, 1, 2, 3, 5, 6, 7, 8, 10, 11, 12, 13, 15, 16, 17, 18].flatMap fun n =>
      [4 + 28 * n, 8 + 28 * n, 16 + 28 * n, 20 + 28 * n]

/-- Blocks are sent in a half-frame: every one for 5 ms, else the first of each period (log 102). -/
def ssbHalf (e : CellEntry) (sfn half : Nat) : Bool :=
  let per := bits e.w1.toNat 15 13
  per == 0 || (half == 0 && sfn % 2 ^ (per - 1) == 0)

/-- The blocks of the plan that lie in a symbol of a slot of the data spacing: index, and whether the symbol is its first. -/
def ssbIn (e : CellEntry) (sfn slot sym : Nat) : List (Nat × Bool) :=
  let mu := ceMu e
  let case_ := bits e.w1.toNat 12 10
  let ms := 2 ^ ssbMu case_
  let per := 5 * 2 ^ mu
  if !ssbHalf e sfn (slot / per) then []
  else
    let at_ := (slot % per * 14 + sym) * ms
    (ssbStarts case_).zipIdx.filterMap fun b =>
      let lo := b.1 * 2 ^ mu
      let hi := (b.1 + 4) * 2 ^ mu
      if bit e.w2.toNat b.2 && lo < at_ + ms && at_ < hi then some (b.2, at_ ≤ lo) else none

/-- PRBs of the data grid that the blocks take: first and count (R239). -/
def ssbPrbs (e : CellEntry) : Nat × Nat :=
  let scs := 15 * 2 ^ ceMu e
  let ref := if ceFr2 e then 60 else 15
  let lo := bits e.w3.toNat 55 44 * ref / scs
  let n := ceilDiv (20 * 15 * 2 ^ ssbMu (bits e.w1.toNat 12 10)) scs + 1
  (lo, min n (cePrbDl e - lo))

/-- The PBCH payload (R226; TS 38.212 §7.1.1, PRESUMED, log 102): the MIB with the six high SFN bits, then the four low SFN
bits, the half-frame bit, and three bits of the block index (FR2) or of `k_ssb`. -/
def pbchPayload (e : CellEntry) (mib sfn slot idx : Nat) : Nat :=
  let half := slot / (5 * 2 ^ ceMu e)
  let low := if ceFr2 e then idx / 8 else bits e.w3.toNat 60 56 / 16 * 4
  (mib ||| (sfn / 16 * 2 ^ 17)) * 256 + sfn % 16 * 16 + half * 8 + low

/-! ## Directions (R223, R226, R259) -/

/-- Direction that the TDD pattern gives a symbol: uplink, downlink, or none for a flexible one. `slot` counts over 20 ms. -/
def symFixed (e : CellEntry) (slot sym : Nat) : Option Bool :=
  let w := e.w4.toNat
  let n1 := periodSlots (bits w 3 0) (ceMu e)
  let n2 := if bit w 26 then periodSlots (bits w 30 27) (ceMu e) else 0
  let k := if n1 + n2 = 0 then 0 else slot % (n1 + n2)
  let dir (n i dlSlots dlSyms ulSlots ulSyms : Nat) : Option Bool :=
    if i < dlSlots || (i == dlSlots && sym < dlSyms) then some false
    else if n ≤ i + ulSlots || (n == i + ulSlots + 1 && 14 ≤ sym + ulSyms) then some true
    else none
  if k < n1 then dir n1 k (bits w 10 4) (bits w 14 11) (bits w 21 15) (bits w 25 22)
  else dir n2 (k - n1) (bits w 37 31) (bits w 41 38) (bits w 48 42) (bits w 52 49)

/-- A PDU of the list lies in a symbol, uplink or downlink. -/
def pduIn (e : CellEntry) (up : Bool) (sfn slot : Nat) (ps : List Pdu) (sym : Nat) : Bool :=
  ps.any fun p =>
    if p.type == 3 then !up && (ssbIn e sfn slot sym).any fun b => b.1 == bitsAt p.body 0 6
    else up == [4, 5, 6].contains p.type && (pduSpan 0 p).covers sym

/-- A symbol carries uplink: every symbol of FDD, an uplink symbol of the pattern, and a flexible one in which the slot message
has an uplink PDU (R223). -/
def symUplink (e : CellEntry) (ps : List Pdu) (sfn slot sym : Nat) : Bool :=
  !ceTdd e || ((symFixed e (slot20 (ceMu e) sfn slot) sym).getD (pduIn e true sfn slot ps sym))

/-- A symbol may carry downlink: every symbol of FDD, a downlink symbol, and a flexible one that no uplink PDU takes. -/
def symDownlink (e : CellEntry) (ps : List Pdu) (sfn slot sym : Nat) : Bool :=
  !ceTdd e || !((symFixed e (slot20 (ceMu e) sfn slot) sym).getD (pduIn e true sfn slot ps sym))

/-! ## Code blocks (R232, R235; TS 38.212 §5.2.2, §5.4.2.1 and §6.2, TS 38.214 §5.1.3.2, PRESUMED, log 104) -/

/-- Remainder of a message by a generator polynomial of degree `len`. -/
def crcRem (poly len : Nat) (bs : List Bool) : Nat :=
  bs.foldl (fun r b =>
    let x := 2 * r + b2n b
    if 2 ^ len ≤ x then (x ^^^ poly) % 2 ^ len else x) 0

/-- The CRC at the end of a message holds. -/
def crcHolds (poly len : Nat) (bs : List Bool) : Bool := crcRem poly len bs == 0

def crc24A : Nat := 0x1864CFB
def crc24B : Nat := 0x1800063
def crc16 : Nat := 0x11021
def crc11 : Nat := 0xE21
def crc6 : Nat := 0x61

/-- Lifting sizes, ascending. -/
def liftings : List Nat :=
  (span 2 383).filter fun z => [2, 3, 5, 7, 9, 11, 13, 15].any fun a => (List.range 8).any fun j => z == a * 2 ^ j

/-- A transport block's code blocks: base graph, number, bits of one with its CRC, lifting size, bits of the full circular
buffer. -/
structure LdpcShape where
  bg : Nat
  blocks : Nat
  bits : Nat
  z : Nat
  n : Nat
  deriving DecidableEq, Repr

/-- Segmentation of a transport block of `a` bits at code rate `rate`/1,024. -/
def ldpcShape (a rate : Nat) : LdpcShape :=
  let bg := if a ≤ 292 || (a ≤ 3824 && rate * 100 ≤ 67 * 1024) || rate * 4 ≤ 1024 then 2 else 1
  let b := a + if 3824 < a then 24 else 16
  let kcb := if bg = 1 then 8448 else 3840
  let c := if b ≤ kcb then 1 else ceilDiv b (kcb - 24)
  let k := ceilDiv (if c = 1 then b else b + 24 * c) c
  let kb := if bg = 1 then 22 else if 640 < b then 10 else if 560 < b then 9 else if 192 < b then 8 else 6
  let z := (liftings.find? fun z => k ≤ kb * z).getD 384
  { bg := bg, blocks := c, bits := k, z := z, n := (if bg = 1 then 66 else 50) * z }

/-- TBS_LBRM of a cell (R235). -/
def tbsLbrm (e : CellEntry) : Nat :=
  let prb := ([(32, 32), (66, 66), (107, 107), (135, 135), (162, 162), (217, 217)].find? fun x => cePrbUl e ≤ x.1).elim 273 (·.2)
  let qm := 2 * (bits e.w0.toNat 60 59 + 1)
  let info := 156 * prb * qm * min 4 (ceUlLayers e) * 948 / 1024
  let step := 2 ^ (Nat.log2 (info - 24) - 5)
  let q := max 3840 (step * ((2 * (info - 24) + step) / (2 * step)))
  if 8424 < q then
    let c := ceilDiv (q + 24) 8424
    8 * c * ceilDiv (q + 24) (8 * c) - 24
  else 8 * ceilDiv (q + 24) 8 - 24

/-- N_cb: the full circular buffer, limited under LBRM with R_LBRM = 2/3 (R235). -/
def nCb (e : CellEntry) (h : LdpcShape) (lbrm : Bool) : Nat := if lbrm then min h.n (3 * tbsLbrm e / (2 * h.blocks)) else h.n

/-- A 4-bit saturating LLR (R235). -/
def sat4 (v : Int) : Int := clampInt (-8) 7 v

/-- The soft bits of a reception added to those of the pool. -/
def combineLlr (n : Nat) (old new : List Int) : List Int :=
  (List.range n).map fun i => sat4 (old.getD i 0 + new.getD i 0)

/-! ## LDPC decoding (R233) -/

/-- One check node with its variables and the messages it last sent: the updated LLRs and messages. -/
def ldpcCheck (beta : Nat) (l : List Int) (edges : List (Nat × Int)) : List Int × List (Nat × Int) :=
  let q := edges.map fun e => (e.1, sat16 (l.getD e.1 0 - e.2))
  let min1 := (q.map fun e => e.2.natAbs).foldl min 32768
  let idx1 := (q.find? fun e => e.2.natAbs == min1).elim 0 (·.1)
  let min2 := ((q.filter fun e => e.1 != idx1).map fun e => e.2.natAbs).foldl min 32768
  let par := (q.filter fun e => e.2 < 0).length % 2 == 1
  let r := q.map fun e =>
    let m : Int := max 0 (((if e.1 = idx1 then min2 else min1 : Nat) : Int) - beta)
    (e.1, if par != (e.2 < 0) then -m else m)
  ((q.zip r).foldl (fun l e => l.set e.1.1 (sat16 (e.1.2 + e.2.2))) l, r)

/-- One layer, then one iteration over all layers. -/
def ldpcLayer (beta : Nat) (l : List Int) (checks : List (List (Nat × Int))) : List Int × List (List (Nat × Int)) :=
  checks.foldl (fun a c =>
    let r := ldpcCheck beta a.1 c
    (r.1, a.2 ++ [r.2])) (l, [])
def ldpcIter (beta : Nat) (l : List Int) (layers : List (List (List (Nat × Int)))) :
    List Int × List (List (List (Nat × Int))) :=
  layers.foldl (fun a c =>
    let r := ldpcLayer beta a.1 c
    (r.1, a.2 ++ [r.2])) (l, [])

/-- Hard decisions, and every parity check holds. -/
def hardBits (l : List Int) : List Bool := l.map fun v => v < 0
def parityOk (l : List Int) (layers : List (List (List (Nat × Int)))) : Bool :=
  layers.all fun y => y.all fun c => (c.filter fun e => l.getD e.1 0 < 0).length % 2 == 0

/-- At most `n` iterations, fewer once `stop` holds of the LLRs. -/
def ldpcRun (beta : Nat) (stop : List Int → Bool) : Nat → List Int → List (List (List (Nat × Int))) → List Int
  | 0, l, _ => l
  | n + 1, l, g =>
    if stop l && parityOk l g then l
    else
      let r := ldpcIter beta l g
      ldpcRun beta stop n r.1 r.2

/-- LLRs of the variables: the punctured ones open, the fillers known, the others from the circular buffer. -/
def ldpcInput (h : LdpcShape) (soft : List Int) : List Int :=
  let k := (if h.bg = 1 then 22 else 10) * h.z
  (List.range (h.n + 2 * h.z)).map fun v =>
    if h.bits ≤ v && v < k then 32767 else if v < 2 * h.z then 0 else sat16 (soft.getD (v - 2 * h.z) 0 * (Config.llrStep : Int))

/-- Decode one code block: its bits with the CRC, and whether its own check holds. -/
def ldpcBlock (iter beta a : Nat) (h : LdpcShape) (soft : List Int) : List Bool × Bool :=
  let crc (l : List Int) : Bool :=
    let b := (hardBits l).take h.bits
    if 1 < h.blocks then crcHolds crc24B 24 b else if 3824 < a then crcHolds crc24A 24 b else crcHolds crc16 16 b
  let g := (Config.baseGraph h.bg h.z).map fun y => y.map fun c => c.map fun v => (v, (0 : Int))
  let l := ldpcRun beta crc iter (ldpcInput h soft) g
  ((hardBits l).take h.bits, crc l && parityOk l g)

/-- Bytes of bits, the first the most significant (TS 38.212). -/
def bitsToBytes (bs : List Bool) : List Byte :=
  (blocksOf 8 bs.length bs).map fun b => BitVec.ofNat 8 ((b ++ List.replicate (8 - b.length) false).foldl (fun r x => 2 * r + b2n x) 0)

/-- Decode a transport block of `a` bits: passed, failing code blocks, its bytes (R233, R236, R245). -/
def ldpcDecode (iter beta a : Nat) (h : LdpcShape) (soft : List (List Int)) : Bool × Nat × List Byte :=
  let r := (List.range h.blocks).map fun i => ldpcBlock iter beta a h (soft.getD i [])
  let fail := (r.filter fun x => !x.2).length
  let all := if 1 < h.blocks then r.flatMap fun x => x.1.take (h.bits - 24) else r.flatMap (·.1)
  (fail == 0 && (h.blocks == 1 || crcHolds crc24A 24 (all.take (a + 24))), fail, bitsToBytes (all.take a))

/-! ## Polar decoding of UCI (R234): CRC-aided successive cancellation with eight paths -/

/-- The polar transform of 2^n bits. -/
def polarEnc : Nat → List Bool → List Bool
  | 0, u => u.take 1
  | n + 1, u =>
    let a := polarEnc n (u.take (2 ^ n))
    let b := polarEnc n (u.drop (2 ^ n))
    (a.zip b).map (fun x => x.1 != x.2) ++ b

/-- LLR of the next bit after the decided bits `us`. -/
def polarLlr : Nat → List Int → List Bool → Int
  | 0, l, _ => l.headD 0
  | n + 1, l, us =>
    let ab := (l.take (2 ^ n)).zip (l.drop (2 ^ n))
    if us.length < 2 ^ n then
      polarLlr n (ab.map fun x =>
        let m : Int := (min x.1.natAbs x.2.natAbs : Nat)
        if (decide (x.1 < 0)) != (decide (x.2 < 0)) then -m else m) us
    else
      let u := polarEnc n (us.take (2 ^ n))
      polarLlr n ((ab.zip u).map fun x => if x.2 then x.1.2 - x.1.1 else x.1.2 + x.1.1) (us.drop (2 ^ n))

/-- One bit for every path: a frozen bit is 0; the eight best go on. -/
def polarStep (n : Nat) (l : List Int) (info : Bool) (paths : List (Nat × List Bool)) : List (Nat × List Bool) :=
  let next := paths.flatMap fun p =>
    let v := polarLlr n l p.2
    let cost (b : Bool) : Nat := if b != decide (v < 0) then v.natAbs else 0
    (if info then [false, true] else [false]).map fun b => (p.1 + cost b, p.2 ++ [b])
  (sortBy (fun p => (p.1 : Int)) next).take 8

/-- The message of the best path whose CRC holds. -/
def polarDecode (n k poly crc : Nat) (l : List Int) : Option (List Bool) :=
  let info := Config.polarInfo n k
  let paths := (List.range (2 ^ n)).foldl (fun ps i => polarStep n l (info.contains i) ps) [(0, [])]
  (paths.map fun p => (p.2.zipIdx.filter fun b => info.contains b.2).map (·.1)).find? (crcHolds poly crc)
    |>.map fun b => b.take (k - crc)

/-- UCI of 12 bits and more from its segments' LLRs (TS 38.212 §6.3.1, PRESUMED, log 104). -/
def polarUci (a : Nat) (soft : List (List Int)) : Option (List Bool) :=
  let c := max 1 soft.length
  let k := ceilDiv a c
  let r := soft.map fun l =>
    if a < 20 then polarDecode (Nat.log2 l.length) (k + 6) crc6 6 l else polarDecode (Nat.log2 l.length) (k + 11) crc11 11 l
  if soft.isEmpty || r.any Option.isNone then none
  else some ((r.flatMap fun x => x.getD []).drop (c * k - a))

end Sys2Proof.Machine
end

