-- ==== Sys2Proof/Machine/Cells.lean ====
section
/-! DEFINITION. Cells (R223–R245, R397, R408–R410, R515): the plan's entries, slots and symbols, missed windows, slot
messages, indications, HARQ buffers, the tick-bank pair and its commit, lock and unlock. -/

namespace Sys2Proof.Machine

/-! ## Missed windows (R227) -/

/-- The slot that lies `k` slots after slot `now` (SFN and slot). -/
def slotAfter (mu : Nat) (now : Nat × Nat) (k : Int) : Nat × Nat :=
  let per := 10 * 2 ^ mu
  let n := (((now.1 * per + now.2 : Nat) : Int) + k) % (1024 * per : Nat)
  (n.toNat / per, n.toNat % per)

/-- Add lost symbols of a downlink slot. -/
def addLost (l : List (Nat × Nat)) (key syms : Nat) : List (Nat × Nat) :=
  match l.find? fun x => x.1 == key with
  | some x => (key, x.2 ||| syms) :: l.filter fun y => y.1 != key
  | none => (key, syms) :: l

/-- Charge a missed window to the slots of one cell whose work it carried (R227): each slot once in each direction. -/
def chargeMiss (c : Cell) (now : Nat × Nat) (work : List WinWork) : Cell :=
  let key (k : Int) : Nat := let n := slotAfter (ceMu c.ent) now k; slotNo n.1 n.2
  let dl := work.filter fun w => w.kind.val == 0
  let ul := ((work.filter fun w => w.kind.val != 0).map fun w => key w.slots).dedup
  let c := { c with missedDl := satAdd 32 c.missedDl ((dl.map fun w => key w.slots).dedup).length,
                    missedUl := satAdd 32 c.missedUl ul.length, lostSlots := ul ++ c.lostSlots.filter fun k => !ul.contains k }
  dl.foldl (fun c w => { c with lostDl := addLost c.lostDl (key w.slots) w.syms.toNat }) c

/-- The cell waits for AUTO_LOCKED after a forced reset: its slots have been reported (R453). -/
def Cell.stopped (c : Cell) : Bool := c.st == .lockPending && c.pend.isNone

/-- What the window with a descriptor does for a cell. -/
def State.workOf (s : State) (p desc cell : Nat) : List WinWork :=
  (s.partOf p).work.filter fun w => w.desc.toNat == desc && w.cell.val == cell

/-- A radio window of partition `p` is missed. -/
def State.missed (s : State) (p desc : Nat) : State :=
  (s.withCells (kmapv s.cells fun k c =>
      if c.part = p ∧ State.cellOn c ∧ c.stopped = false then chargeMiss c (s.slotAt (ceMu c.ent) s.time.tick) (s.workOf p desc k) else c))

/-- A fronthaul entry is missed: its descriptor names the cell, the direction and the slot. -/
def State.missedFh (s : State) (cell : Nat) (dl : Bool) (tickRel : Int) : State :=
  match s.cell? cell with
  | none => s
  | some c =>
    let t := s.time.tick + tickRel
    s.setCell cell (chargeMiss c (s.slotAt (ceMu c.ent) t) [{ desc := 0, cell := 0, kind := if dl then 0 else 1, slots := 0, syms := 0x3FFF }])

/-! ## The tick bank (R74–R76, R81–R84) -/

/-- The check of the tick-bank pair (R83): passes, and whether a stop is refused. -/
def State.bankCheck (s : State) (p sel len : Nat) : Bool × Bool :=
  if len = 0 then (!s.partActive p, s.partActive p)
  else
    let h := s.memLE (bankAt p sel) 8
    (lenOk len && bit h 11 && bits h 10 0 == len, false)

/-- The restore images of the reserved scratchpad regions of a partition (R458). -/
def State.snapImages (s : State) (p : Nat) : State :=
  (span (16 * p) 16).foldl (fun s n =>
    let r := s.spRsv n
    if r.2 = 0 ∧ (s.core n).image = [] then s
    else s.setCore n { s.core n with image := s.mem.filter fun c => r.1 ≤ c.1 && c.1 < r.1 + r.2 }) s

/-- What goes with the bank that commits (R85, R153, R227). -/
def State.showFit (s : State) (p : Nat) : State :=
  match (s.partOf p).next with
  | none => s
  | some n =>
    let s := s.setPart p { s.partOf p with work := n.work, next := none }
    let s := (span (64 * p) 64).foldl (fun s k =>
      let ls := kget n.fill k []
      if ls = [] ∧ (s.spur k).fill = [] then s else (s.setSpur k { s.spur k with fill := ls }).fillLocked k) s
    (s.put F.TICK_FIT.min_slack n.slack p).put F.TICK_STAT.fit_ok (b2n n.fit) p

/-- Commit or refuse the staged tick-bank pair of partition `p` (R81, R83, R84); whether it failed its check. -/
def State.commitBankPair (s : State) (p : Nat) : State × Bool :=
  if s.isStaged F.TICK_CTRL.bank_sel p || s.isStaged F.TICK_CTRL.table_len p then
    let sel := s.shadow F.TICK_CTRL.bank_sel p
    let len := s.shadow F.TICK_CTRL.table_len p
    let r := s.bankCheck p sel len
    if r.1 then
      let s := (s.commit F.TICK_CTRL.bank_sel p).commit F.TICK_CTRL.table_len p
      let s := (s.put F.TICK_STAT.running (b2n (len != 0)) p).put F.TICK_STAT.cur_bank sel p
      (((s.put F.TICK_STAT.cur_len len p).showFit p).snapImages p, false)
    else (if r.2 then s.put F.TICK_STAT.stop_refused 1 p else s, true)
  else (s, false)

/-- TICK_BANK_WRITE: PCp writes its bank memory; what falls into the committed bank is dropped (R74). -/
def execTickBankWrite (p : Fin 8) (off : Fin 2097152) (data : List Byte) (s : State) : Host.Outcome State Fault Refusal :=
  .next (
    if s.partOn p && off.val + data.length ≤ 0x200000 && !data.isEmpty then
      let sel := s.rd F.TICK_CTRL.bank_sel p
      let n0 := min data.length (0x100000 - off.val)
      let at0 := tickBankBase p + off.val
      let s := if sel = 0 then s else s.memWr at0 (data.take n0)
      let s := if sel = 1 then s else s.memWr (at0 + n0) (data.drop n0)
      if overlaps off.val data.length (sel * 0x100000) 0x100000 then s.put F.TICK_STAT.col_err 1 p else s
    else s)

/-! ## HARQ buffers (R235–R237) -/

/-- Pool of a cell in KiB. -/
def State.harqPool (s : State) (c : Cell) : Nat :=
  roundUp (ceilDiv (bits s.planHdr.2.2.1.toNat 9 0 * c.cost) 8) 64

def harqUsed (c : Cell) : Nat := c.harq.foldl (fun a h => a + h.2.kib) 0

def Harq.zero : Harq := { ndi := false, kib := 0, llrs := [], last := 0 }

/-- Key of a HARQ process: RNTI and number. -/
def harqKey (rnti h : Nat) : Nat := rnti * 32 + h

/-- The PUSCH PDUs of a slot message name their processes (R236, R237): the cell, and the indices of the PDUs that bring a new
block. A toggled indicator releases the buffer, whatever other PDU of the slot names the process: the retransmission of the old
block beside it finds no buffer. -/
def nameHarq (c : Cell) (ps : List Pdu) : Cell × List Nat :=
  ps.zipIdx.foldl (fun (a : Cell × List Nat) p =>
    let key := harqKey p.1.rnti (puschHarq p.1.body)
    let ndi := puschNdi p.1.body
    if p.1.type ≠ 4 then a
    else if (kfind c.harq key).all fun x => x.ndi != ndi then
      ({ a.1 with harq := kset a.1.harq key { Harq.zero with ndi := ndi } }, a.2 ++ [p.2])
    else a) (c, [])

/-- KiB of a block's soft buffer: granules of 1 KiB per code block, two LLRs per byte (R235). -/
def harqKib (blocks ncb : Nat) : Nat := blocks * ceilDiv ncb 2048

/-- The outcome of a transport block: passed, `no_combine`, its bytes. -/
structure TbResult where
  ok     : Bool
  noComb : Bool
  tb     : List Byte
  deriving DecidableEq, Repr

/-- Combine, decode and keep or release the soft bits of PUSCH PDU `i` of message `m` (R233, R235–R237). -/
def State.harqResult (s : State) (c : Cell) (m : SlotMsg) (i : Nat) (p : Pdu) (soft : List (List Int)) : Cell × TbResult :=
  let key := harqKey p.rnti (puschHarq p.body)
  let x := kget c.harq key Harq.zero
  let mine := x.ndi == puschNdi p.body
  let a := 8 * puschTbs p.body
  let sh := ldpcShape a (puschRate p.body)
  let n := nCb c.ent sh (puschLbrm p.body)
  let w2 := s.planHdr.2.2.1.toNat
  let all := (List.range sh.blocks).map fun k => combineLlr n (if mine then x.llrs.getD k [] else []) (soft.getD k [])
  let d := ldpcDecode (bits w2 22 18) (bits w2 27 23) a sh all
  let noComb := !m.news.contains i && !(mine && x.kib != 0)
  let x := if mine then { x with last := s.time.tick + s.slotDist (ceMu c.ent) m.sfn m.slot s.time.tick } else x
  let keep (c : Cell) (x : Harq) : Cell := { c with harq := kset c.harq key x }
  let c := { c with ldpcFail := satAdd 32 c.ldpcFail d.2.1 }
  let need := harqKib sh.blocks n
  let c := if d.1 then keep c { x with kib := 0, llrs := [] }
    else if !mine then c
    else if x.kib ≠ 0 then keep c { x with llrs := all }
    else if harqUsed c + need ≤ s.harqPool c then keep c { x with kib := need, llrs := all }
    else { keep c x with harqDrop := satAdd 32 c.harqDrop 1 }
  (c, { ok := d.1, noComb := noComb, tb := d.2.2 })

/-- HARQ_HOLD_EXPIRY (R236). -/
def execHarqHoldExpiry (c : Fin 4096) (rnti : BitVec 16) (h : Fin 32) (s : State) : Host.Outcome State Fault Refusal :=
  .next (
    match s.cell? c with
    | none => s
    | some x =>
      match kfind x.harq (harqKey rnti.toNat h) with
      | none => s
      | some b =>
        let hold := bits s.planHdr.2.2.1.toNat 17 10 * slotTicks (ceMu x.ent)
        if b.last + (hold : Int) ≤ s.time.tick then
          s.setCell c { x with harq := kset x.harq (harqKey rnti.toNat h) { b with kib := 0, llrs := [] } }
        else s)

/-! ## Slot messages (R225, R226, R408, R409) -/

/-- A refusal entry on a radio ring (R408). -/
def State.refuseSlot (s : State) (r tok status handle : Nat) : State :=
  s.postRadio r (mkEntry tok status 0 0x80 handle 0 0)

/-- The ordered checks of R408. -/
def State.slotMsgNew (s : State) (r : Nat) (e : Entry) (pdus : List Byte) : State :=
  let k := radioRing r
  let tok := e.token.toNat
  let s := s.setRing k { s.ring k with lastTok := some tok }
  let id := bits e.w2.toNat 11 0
  let sfn := bits e.w2.toNat 21 12
  let slot := bits e.w2.toNat 28 22
  let hd := e.w2.toNat % 2 ^ 29
  match s.cell? id with
  | none => s.refuseSlot r tok St.cellUnknown hd
  | some c =>
    if c.part ≠ r then s.refuseSlot r tok St.cellUnknown hd
    else if 10 * 2 ^ ceMu c.ent ≤ slot then s.refuseSlot r tok St.badCommand hd
    else if !State.cellOn c then s
    else if s.slotDist (ceMu c.ent) sfn slot s.time.tick ≤ (dlLead (ceMu c.ent) : Int) then
      (s.setCell id { c with l2Late := satAdd 32 c.l2Late 1 }).refuseSlot r tok St.slotLate hd
    else if c.msgs.any fun m => m.sfn == sfn && m.slot == slot then s.refuseSlot r tok St.busy hd
    else
      let ps := if Entry.reservedOk e (2 ^ 29 - 1) full 0 0 0 0 && pdus.length == bits e.w3.toNat 63 32 then
        parsePdus pdus.length pdus else none
      match ps with
      | none => s.refuseSlot r tok St.badCommand hd
      | some ps =>
        let c := nameHarq c ps
        s.setCell id { c.1 with msgs := c.1.msgs ++ [⟨sfn, slot, tok, pdus, c.2, []⟩] }

/-- SLOT_MESSAGE: the message at the head of radio ring r is read and checked. -/
def State.slotMsg (s : State) (r : Nat) (e : Entry) (pdus : List Byte) : State :=
  let k := radioRing r
  if !(s.ringOn k && 0 < s.sqAvail k && s.ctlNeg && !s.ctlNegPend && s.partOn r) then s
  else
    let s := s.ringPut rSqHead k (s.ringRd rSqHead k + 1)
    let tok := e.token.toNat
    match (s.ring k).lastTok with
    | some l => if tok ≤ l then s.ringBump rStale k else s.slotMsgNew r e pdus
    | none => s.slotMsgNew r e pdus
def execSlotMessage (r : Fin 8) (e : Entry) (pdus : List Byte) (s : State) : Host.Outcome State Fault Refusal :=
  .next (s.slotMsg r e pdus)

/-- The message of a slot, and its PDUs. -/
def Cell.msg? (c : Cell) (sfn slot : Nat) : Option SlotMsg := c.msgs.find? fun m => m.sfn == sfn && m.slot == slot
def SlotMsg.list (m : SlotMsg) : List Pdu := (parsePdus m.pdus.length m.pdus).getD []
def Cell.pdusOf (c : Cell) (sfn slot : Nat) : List Pdu := ((c.msg? sfn slot).map SlotMsg.list).getD []

/-- Slots whose messages are read at the commit instant of tick `t`: a slot without one is counted (R226). What is kept of slots
more than 160 ticks past goes. -/
def State.readSlots (s : State) (t : Int) : State :=
  (s.withCells (kmapv s.cells fun _ c =>
      if State.cellOn c then
        let mu := ceMu c.ent
        let n := s.slotAt mu (t + (dlLead mu : Int))
        let starts := (s.tickInFrame (t + (dlLead mu : Int))) % slotTicks mu == 0
        let c := if starts && (c.msg? n.1 n.2).isNone then { c with l2Missing := satAdd 32 c.l2Missing 1 } else c
        let recent (sfn slot : Nat) : Bool := decide (-160 < s.slotDist mu sfn slot t)
        { c with msgs := c.msgs.filter fun m => recent m.sfn m.slot, lostSlots := c.lostSlots.filter fun k => recent (k / 80) (k % 80),
                 lostDl := c.lostDl.filter fun k => recent (k.1 / 80) (k.1 % 80) }
      else c))

/-! ## Indications (R227, R259, R410, R515) -/

/-- The subport was not UP at some instant of [a, b]. -/
def Subport.zero : Subport :=
  { queues := [], seen := [], lastSeq := [], cSent := [], dmAt := none, downSince := none, outages := [] }
def subKey (x sub : Nat) : Nat := 4 * x + sub
def State.subport (s : State) (x sub : Nat) : Subport := kget s.subports (subKey x sub) Subport.zero
def State.setSub (s : State) (x sub : Nat) (p : Subport) : State := s.withSubports (kset s.subports (subKey x sub) p)
def State.outage (s : State) (x sub : Nat) (a b : Int) : Bool :=
  let p := s.subport x sub
  (!s.fhUp x sub && decide (((p.downSince.getD 0 : Nat) : Int) ≤ b)) ||
  p.outages.any fun o => decide ((o.1 : Int) ≤ b) && decide (a ≤ (o.2 : Int))

/-- An uplink slot of a cell falls in an outage of its subport (R259). -/
def State.slotDown (s : State) (c : Cell) (sfn slot : Nat) : Bool :=
  let x := cePort c.ent
  let mu := ceMu c.ent
  let ps := c.pdusOf sfn slot
  (List.range 14).any fun sym => symUplink c.ent ps sfn slot sym &&
    (let t := s.air mu sfn slot sym
     s.outage x (ceSub c.ent) (t + (s.rd F.FH_WIN_UL.ta4_min x : Int)) (t + (s.rd F.FH_WIN_UL.ta4_max x : Int)))

/-- Pad to 8 bytes. -/
def pad8 (bs : List Byte) : List Byte := bs ++ List.replicate (roundUp bs.length 8 - bs.length) 0

/-- Bytes of bits packed from bit 0 upward. -/
def packBits (bs : List Bool) : List Byte :=
  (blocksOf 8 bs.length bs).map fun b => BitVec.ofNat 8 (b.zipIdx.foldl (fun a x => a + b2n x.1 * 2 ^ x.2) 0)

/-- Opcode and payload of an indication: word 0, then the rest (R515). `r` is the outcome of a transport block. -/
def indPayload (p : Pdu) (r : TbResult) : Indication → Nat × List Byte × List Byte
  | .pusch _ sinr ta =>
    (0x90, leBytes 8 (p.rnti + 2 ^ 16 * puschHarq p.body + 2 ^ 21 * b2n r.ok + 2 ^ 22 * b2n r.noComb + 2 ^ 24 * puschTbs p.body),
     leBytes 8 (sinr.toNat + 65536 * ta.toNat) ++ (if r.ok then pad8 r.tb else []))
  | .uci det found soft sinr =>
    let n := pucchBits p.body
    let a := n.1 + n.2.1 + n.2.2
    let got := if a < 12 then (if det then some ((List.range a).map fun i => found.getD i false) else none) else polarUci a soft
    (0x91, leBytes 8 (p.rnti + 2 ^ 16 * bitsAt p.body 0 3 + 2 ^ 19 * n.1 + 2 ^ 27 * n.2.1 + 2 ^ 29 * n.2.2 +
      2 ^ 40 * b2n got.isSome + 2 ^ 48 * sinr.toNat), match got with
      | some b => pad8 (packBits b)
      | none => [])
  | .prach occ ps =>
    (0x92, leBytes 8 (min 64 ps.length + 256 * occ.toNat),
     (ps.take 64).flatMap fun p => leBytes 8 (p.1.val + 65536 * p.2.1.toNat + 2 ^ 32 * p.2.2.toNat))
  | .srs prbs ant sinr est =>
    let lg := bitsAt p.body 0 2
    (0x93, leBytes 8 (p.rnti + 2 ^ 16 * lg + 2 ^ 18 * prbs.toNat + 2 ^ 27 * ant.toNat + 2 ^ 48 * sinr.toNat),
     pad8 ((List.range (prbs.toNat * ant.toNat * 2 ^ lg)).flatMap fun i => leBytes 4 (est.getD i 0).toNat))

/-- The PDU type that an indication answers; none for PRACH (R410). -/
def indType : Indication → Option Nat
  | .pusch .. => some 4
  | .uci .. => some 5
  | .prach .. => none
  | .srs .. => some 6

/-- Ticks after the end of the slot within which an indication is posted (R224). -/
def indDeadline (mu : Nat) (ind : Indication) : Nat :=
  if indType ind = some 4 then [8, 6, 4, 3].getD mu 3 else [4, 3, 2, 2].getD mu 2

/-- An indication for a slot may be posted now: the slot has started and its deadline has not passed (R224). -/
def State.indDue (s : State) (mu sfn slot : Nat) (ind : Indication) : Bool :=
  let d := s.slotDist mu sfn slot s.time.tick
  decide (d ≤ 0) && decide ((s.nowNs : Int) ≤ tickNs (s.time.tick + d + ((slotTicks mu + indDeadline mu ind : Nat) : Int)))

/-- Extents of payloads that the host has not passed: offset and length (R515). -/
def State.indBusy (s : State) (k : Nat) : List (Nat × Nat) :=
  let lg := s.ringRd rCqLog k
  (span (s.ringRd rCqHead k) (s.cqUsed k)).filterMap fun i =>
    (kfind (s.ring k).cq (i % 2 ^ lg)).bind fun e =>
      if e.opc / 16 = 9 ∧ bits e.res0 63 32 ≠ 0 then some (bits e.res0 31 0, roundUp (bits e.res0 63 32) 8) else none

/-- Where a payload of `n` bytes goes: nothing when the buffer is full. -/
def State.indPlace (s : State) (r n : Nat) : Option Nat :=
  let k := radioRing r
  let size := 2 ^ s.rd F.HOST_IND.ind_log2 r * 1024
  let off := (s.ring k).indOff
  let off := if off + n ≤ size then off else 0
  if n ≤ size && (s.indBusy k).all fun o => !overlaps off n o.1 o.2 then some off else none

/-- Post an indication with its payload (R410, R515). -/
def State.postInd (s : State) (r tok opc status handle res1 : Nat) (bs : List Byte) : State :=
  let k := radioRing r
  let e := mkEntry tok status 0 opc handle 0 res1
  if s.rd F.HOST_IND.ind_base r = 0 then s.postRadio r e
  else if !(s.ringOn k && s.cqUsed k < s.cqSize k) then s.bump F.HOST_IND.ind_drop r
  else match s.indPlace r bs.length with
    | none => s.bump F.HOST_IND.ind_drop r
    | some off =>
      match s.hostWr (s.rd F.HOST_IND.ind_base r + off) bs with
      | none => s.bump F.HOST_IND.ind_drop r
      | some s =>
        let s := s.setRing k { s.ring k with indOff := off + roundUp bs.length 8 }
        s.postRadio r { e with res0 := off + 2 ^ 32 * bs.length }

/-- The indication of a slot of cell `c` (R227, R236, R259, R410): the result of PDU `p` at index `pdu` of message `m`. -/
def State.postResult (s : State) (cid : Nat) (c : Cell) (sfn slot pdu : Nat) (m : SlotMsg) (p : Pdu) (ind : Indication) : State :=
  let st := if s.slotDown c sfn slot then St.fhDown
    else if c.lostSlots.contains (slotNo sfn slot) then St.slotMissed else St.ok
  let h : Cell × TbResult := match ind with
    | .pusch soft _ _ => if st = St.ok then s.harqResult c m pdu p soft else (c, ⟨false, false, []⟩)
    | _ => (c, ⟨false, false, []⟩)
  let c := { h.1 with msgs := h.1.msgs.map fun x => if x.sfn = sfn ∧ x.slot = slot then { x with posted := pdu :: x.posted } else x }
  let b := indPayload p h.2 ind
  (s.setCell cid c).postInd c.part m.token b.1 st (cid + 2 ^ 12 * sfn + 2 ^ 22 * slot) pdu (if st = St.ok then b.2.1 ++ b.2.2 else b.2.1)

/-- INDICATION_POST: `pdu` is the index in the slot's message of a PDU of the indication's type, posted once, or, for PRACH, the
occasion, which needs no message (R226). -/
def State.indication (s : State) (cid sfn slot pdu : Nat) (ind : Indication) : State :=
  match s.cell? cid with
  | none => s
  | some c =>
    if !(State.cellOn c && slot < 10 * 2 ^ ceMu c.ent && s.indDue (ceMu c.ent) sfn slot ind) then s
    else match indType ind, c.msg? sfn slot with
      | none, m => s.postResult cid c sfn slot pdu (m.getD ⟨sfn, slot, 0, [], [], []⟩) ⟨0, 0, [], (0, 0)⟩ ind
      | some t, some m =>
        match m.list[pdu]? with
        | some p => if p.type = t ∧ m.posted.contains pdu = false then s.postResult cid c sfn slot pdu m p ind else s
        | none => s
      | some _, none => s

def execIndicationPost (c : Fin 4096) (sfn : Fin 1024) (slot : Fin 80) (pdu : BitVec 32) (ind : Indication) (s : State) :
    Host.Outcome State Fault Refusal :=
  .next (s.indication c sfn slot pdu.toNat ind)

/-! ## Start, lock and unlock (R228, R241–R245) -/

/-- A chain at the start of its cell (R262, R264). -/
def State.chainZero (s : State) (d : Nat) : Chain :=
  { gw := s.rd F.DFE_AGC.agc_init d, histX := [], histY := [], frozen := 0, seen := 0, acc := 0, cnt := 0, rxHist := [],
    txRest := [], txNext := (0, 0), maskBuf := [], maskSum := [], maskCnt := 0, maskDone := [], txHist := [], rxPhase := s.rd F.DFE_NCO.nco_phase0 d, txPhase := s.rd F.DFE_NCO.nco_phase0 d, 
    latch := none, gwChg := false, detSym := false }

/-- Streams of a cell in the stream table. -/
def State.streamsOf (s : State) (cid : Nat) : List Nat :=
  (span 0 4096).filter fun k => s.on F.FH_STREAM.valid k && s.rd F.FH_STREAM.cell_id k == cid
/-- DFE chains of a cell. -/
def State.chainsOf (s : State) (cid : Nat) : List Nat :=
  ((s.streamsOf cid).filter fun k => s.on F.FH_STREAM.split8 k).map fun k => s.rd F.FH_STREAM.chain k

/-- The first start of a cell after Ready ends start-up step 12 (R431). -/
def State.radioStarts (s : State) : State :=
  if s.rd F.RST_STAT.step = 11 then
    (s.put F.RST_STAT.step 12).put F.RST_STEP_T.t_ms ((s.nowNs - s.bring.startNs) / 1000000) 12
  else s

/-- The cell starts afresh. -/
def State.startCell (s : State) (cid : Nat) : State :=
  match s.cell? cid with
  | none => s
  | some c =>
    let s := s.radioStarts.setCell cid { c with
      st := .active, waits := false, pend := none, harq := [], msgs := [], lostSlots := [], lostDl := [] }
    (s.chainsOf cid).foldl (fun s d =>
      (s.withChains (kset s.chains d (s.chainZero d))).put F.DFE_STAT.gain (s.rd F.DFE_AGC.agc_init d) d) s

/-- A frame boundary: the Col window of the tick that starts a frame. -/
def State.atFrame (s : State) : Bool := s.inCol && s.frameStart s.time.tick

/-- CELL_START (R228, R243): at a frame boundary at which the start condition holds. -/
def execCellStart (c : Fin 4096) (s : State) : Host.Outcome State Fault Refusal :=
  .next (
    match s.cell? c with
    | some x => if x.st = .unlockPending ∧ x.waits ∧ x.pend = none ∧ s.ready ∧ s.atFrame ∧ s.startOk then s.startCell c else s
    | none => s)

/-- The cell leaves the air: its pool, messages and mutes go (R241, R269). -/
def State.stopCell (s : State) (cid : Nat) (st : CellState) : State :=
  match s.cell? cid with
  | none => s
  | some c =>
    let s := s.setCell cid { c with st := st, waits := false, pend := none, harq := [], msgs := [] }
    (s.chainsOf cid).foldl (fun s d => s.put F.DFE_STAT.mask_mute 0 d) s

/-- Complete a CELL_CTRL command. -/
def State.finishCell (s : State) (tok status : Nat) : State := s.finish ctlRing tok 0x49 status

/-- Boundary of a lock or unlock accepted now (R241): tick of a frame start at least 160 ticks away. -/
def State.lockTick (s : State) (atSfn : Bool) (sfn : Nat) : Int :=
  let t := s.time.tick + 160
  let f := if s.frameStart t then t else s.nextFrame t
  if atSfn then f + 80 * ((((sfn : Int) - (s.sfnOf f : Int)) % 1024)) else f

/-- CELL_CTRL with its cell found: `op` 0 lock, 1 unlock, 2 priority, 3 attenuation. -/
def State.cellCtrl (s : State) (x : SubEntry) (cid op : Nat) (c : Cell) : State :=
  let w := x.e.w2.toNat
  let val := bits w 30 25
  let at_ := s.lockTick (bit w 14) (bits w 24 15)
  let tok := x.e.token.toNat
  if (op = 2 && 15 < val) || (op = 3 && 60 < val) || (op < 2 && val != 0) then s.complete ctlRing x St.badCommand
  else match op with
    | 2 => (s.setCell cid { c with prioPend := some val }).complete ctlRing x St.ok
    | 3 => (s.setCell cid { c with txPend := some val }).complete ctlRing x St.ok
    | 0 =>
      match c.st with
      | .locked | .autoLocked => s.complete ctlRing x St.ok
      | .active =>
        s.setCell cid { c with st := .lockPending, pend := some { unlock := false, tick := at_, token := tok, opc := 0x49 } }
      | .unlockPending =>
        if c.waits then
          let s := s.setCell cid { c with st := .locked, waits := false, pend := none }
          let s := match c.pend with
            | some d => s.finishCell d.token St.cancelled
            | none => s
          s.complete ctlRing x St.ok
        else s.complete ctlRing x St.busy
      | .lockPending => s.complete ctlRing x St.busy
    | _ =>
      match c.st with
      | .active => s.complete ctlRing x St.ok
      | .locked | .autoLocked =>
        s.setCell cid { c with st := .unlockPending, waits := false, pend := some { unlock := true, tick := at_, token := tok, opc := 0x49 } }
      | .unlockPending => if c.waits then s.complete ctlRing x St.ok else s.complete ctlRing x St.busy
      | .lockPending => s.complete ctlRing x St.busy

/-- CELL_CTRL (R241–R244, R395, R418): the controller of the cell's partition owns it. -/
def State.cmdCell (x : SubEntry) (s : State) : State :=
  s.checked ctlRing x (2 ^ 31 - 1) 0 0 0 0 0 fun s =>
    let cid := bits x.e.w2.toNat 11 0
    match s.cell? cid with
    | none => s.complete ctlRing x St.cellUnknown
    | some c => s.owned (pc c.part) x fun s => s.cellCtrl x cid (bits x.e.w2.toNat 13 12) c

/-- The CELL_CTRL entry with its operation. -/
def cellEntry (e : Entry) (op : Nat) : SubEntry :=
  { opc := 0x49, body := none, img := none, e := { e with w2 := (e.w2 &&& ~~~(0x3000#64)) ||| BitVec.ofNat 64 (op * 4096) } }

def execCellLock (e : Entry) (s : State) : Host.Outcome State Fault Refusal :=
  .next (s.submit ctlRing (cellEntry e 0) (State.cmdCell (cellEntry e 0)))
def execCellUnlock (e : Entry) (s : State) : Host.Outcome State Fault Refusal :=
  .next (s.submit ctlRing (cellEntry e 1) (State.cmdCell (cellEntry e 1)))
def execCellPriority (e : Entry) (s : State) : Host.Outcome State Fault Refusal :=
  .next (s.submit ctlRing (cellEntry e 2) (State.cmdCell (cellEntry e 2)))
def execCellTxAtten (e : Entry) (s : State) : Host.Outcome State Fault Refusal :=
  .next (s.submit ctlRing (cellEntry e 3) (State.cmdCell (cellEntry e 3)))

/-- Code of a cell state (R245). -/
def CellState.num : CellState → Nat
  | .locked => 0 | .active => 1 | .lockPending => 2 | .unlockPending => 3 | .autoLocked => 4

/-- The 48 bytes of R397. -/
def cellRecord (c : Cell) : List Byte :=
  leBytes 8 (ceId c.ent + 2 ^ 12 * c.part + 2 ^ 16 * c.st.num + 2 ^ 19 * c.cost) ++
  leBytes 4 c.missedDl ++ leBytes 4 c.missedUl ++ leBytes 4 c.l2Late ++ leBytes 4 c.l2Missing ++
  leBytes 4 c.harqDrop ++ leBytes 4 (harqUsed c) ++ leBytes 4 c.ldpcFail ++ leBytes 4 0 ++ leBytes 8 0

/-- CELL_STATUS (R245, R397). -/
def State.cmdCellStatus (x : SubEntry) (s : State) : State :=
  s.checked ctlRing x 0xFFF full 0 0 0 0 fun s =>
    match s.cell? (bits x.e.w2.toNat 11 0) with
    | none => s.complete ctlRing x St.cellUnknown
    | some c =>
      match s.hostWr x.e.w3.toNat (cellRecord c) with
      | some s => s.complete ctlRing x St.ok
      | none => s.complete ctlRing x St.hostDma

def statusEntry (e : Entry) : SubEntry := { opc := 0x4A, body := none, img := none, e := e }
def execCellStatus (e : Entry) (s : State) : Host.Outcome State Fault Refusal :=
  .next (s.submit ctlRing (statusEntry e) (State.cmdCellStatus (statusEntry e)))

end Sys2Proof.Machine
end

