-- ==== Sys2Proof/Machine/Fronthaul.lean ====
section
/-! DEFINITION. Fronthaul and the digital front end (R246–R272, R144–R146): compression, the split-8 chain, AGC and
detection, received and sent frames, lane buffers, links, delay measurement and the mask. -/

namespace Sys2Proof.Machine

/-! ## Compression (R144–R146, R248) -/

/-- Big-endian packing of codes of `w` bits. -/
def packBE (w : Nat) (vs : List Nat) : List Byte :=
  (leBytes (vs.length * w / 8) (vs.foldl (fun acc v => acc * 2 ^ w + v % 2 ^ w) 0)).reverse

/-- Code `i` of `n` codes of `w` bits packed big-endian. -/
def codeBE (w n : Nat) (bs : List Byte) (i : Nat) : Nat := leVal bs.reverse / 2 ^ (w * (n - 1 - i)) % 2 ^ w

/-- Width 0 means 16. -/
def widthOf (w : Nat) : Nat := if w = 0 then 16 else w

/-- Bytes of one resource block (R250). -/
def prbLen (meth w : Nat) : Nat := if meth = 1 then 3 * w + 1 else if meth = 3 then 3 * w else 48

/-- Components of CI16 samples. -/
def comps (xs : List (Int × Int)) : List Int := xs.flatMap fun x => [x.1, x.2]
def pairs : List Int → List (Int × Int)
  | a :: b :: r => (a, b) :: pairs r
  | _ => []

/-- Compress one block of 12 samples: its bytes, and whether a code saturated (R144, R145, R252). -/
def compressRb (meth w shift : Nat) (xs : List (Int × Int)) : List Byte × Bool :=
  let cs := comps xs
  if meth = 1 then
    let r := bfpCompress w cs
    let sat := w != 16 && cs.any fun v => !fitsBits w (shrRne v r.1)
    (BitVec.ofNat 8 r.1 :: packBE w (r.2.map (ofSigned w)), sat)
  else if meth = 3 then (packBE w (cs.map (muCompress w shift)), cs.any fun v => 32767 < v.natAbs * 2 ^ shift)
  else (packBE 16 (cs.map (ofSigned 16)), false)

/-- Decompress one block of `n` samples: its samples, and whether it was short (R146). Only an uncompressed block, the last of a
split-8 frame, has fewer than 12. -/
def expandRb (meth w shift n : Nat) (bs : List Byte) : List (Int × Int) × Bool :=
  if bs.length < (if meth = 0 then 4 * n else prbLen meth w) then (List.replicate n (0, 0), true)
  else
    let f (i : Nat) : Int :=
      if meth = 1 then bfpExpand ((bs.headD 0).toNat % 16) (toSigned w (codeBE w 24 ((bs.drop 1).take (3 * w)) i))
      else if meth = 3 then muExpand w shift (codeBE w 24 (bs.take (3 * w)) i)
      else toSigned 16 (codeBE 16 (2 * n) (bs.take (4 * n)) i)
    (pairs ((List.range (2 * n)).map f), false)

/-! ## The split-8 chain (R262, R264) -/

/-- π · 2^64. -/
def pi64 : Int := 0x3243F6A8885A308D3

/-- Taylor sum Σ ±x^k/k!, terms k, k + 2, … in units of 2^-64. -/
def taylor : Nat → Nat → Int → Int → Int
  | 0, _, _, _ => 0
  | n + 1, k, term, x =>
    term + taylor n (k + 2) (-(term * x / 2 ^ 64 * x / 2 ^ 64) / (((k + 1) * (k + 2) : Nat) : Int)) x

/-- 32,767 cos θ of the first quadrant, m of 16,384 quarters, rounded to nearest. -/
def cosQ (m : Nat) : Int := (65534 * taylor 16 0 (2 ^ 64) ((m : Int) * pi64 / 32768) + 2 ^ 64) / 2 ^ 65

/-- 32,767 cos(2π m / 65,536) rounded. -/
def cosTab (m : Nat) : Int :=
  let m := m % 65536
  let q := m / 16384
  let r := m % 16384
  match q with
  | 0 => cosQ r
  | 1 => -cosQ (16384 - r)
  | 2 => -cosQ r
  | _ => cosQ (16384 - r)

/-- c[n] of R262. -/
def ncoVal (phase : Nat) : Int × Int := (cosTab (phase / 65536), cosTab (phase / 65536 + 49152))

/-- NCO output: y times c, or its conjugate on receive. -/
def ncoMix (rx : Bool) (phase : Nat) (y : Int × Int) : Int × Int :=
  let c := ncoVal phase
  let ci := if rx then -c.2 else c.2
  (sat16 (shrRne (y.1 * c.1 - y.2 * ci) 15), sat16 (shrRne (y.1 * ci + y.2 * c.1) 15))

/-- One filter output from the newest-first history (R262). -/
def firOut (taps : List Int) (hist : List (Int × Int)) : Int × Int :=
  let r := (taps.zip hist).foldl (fun (a : Int × Int) t => (a.1 + t.1 * t.2.1, a.2 + t.1 * t.2.2)) (0, 0)
  (sat16 (shrRne r.1 15), sat16 (shrRne r.2 15))

/-- Coefficients of a chain. -/
def State.taps (s : State) (f : Field) (d n : Nat) : List Int := (List.range n).map fun k => s.rdS f (512 * d + k)

/-- NCO phase at sample `n` of a frame (R262). -/
def State.ncoPhase (s : State) (d n : Nat) : Nat := (s.rd F.DFE_NCO.nco_phase0 d + n * s.rd F.DFE_NCO.nco_inc d) % 2 ^ 32

/-- The NCO at sample `n` of a frame; skipped with increment and phase 0. -/
def State.nco (s : State) (d : Nat) (rx : Bool) (n : Nat) (y : Int × Int) : Int × Int :=
  if s.rd F.DFE_NCO.nco_inc d = 0 ∧ s.rd F.DFE_NCO.nco_phase0 d = 0 then y else ncoMix rx (s.ncoPhase d n) y

/-- |X[b]|^2 of a block of 256 outputs, up to one scale for all bins (R269). -/
def binPower (xs : List (Int × Int)) (b : Nat) : Nat :=
  let x := xs.zipIdx.foldl (fun (a : Int × Int) v =>
    let m := 256 * b * v.2
    let c := cosTab m
    let q := cosTab (m + 49152)
    (a.1 + v.1.1 * c + v.1.2 * q, a.2 + v.1.2 * c - v.1.1 * q)) (0, 0)
  (x.1 * x.1 + x.2 * x.2).toNat

/-- One NCO output enters the mask check (R269). -/
def State.maskSample (s : State) (d : Nat) (c : Chain) (z : Int × Int) : Chain :=
  let buf := z :: c.maskBuf
  if buf.length < 256 then { c with maskBuf := buf }
  else
    let xs := buf.reverse
    let sums := (List.range 256).map fun b => c.maskSum.getD b 0 + binPower xs b
    if c.maskCnt + 1 < 2 ^ s.rd F.DFE_CFG.mask_avg_log2 d then
      { c with maskBuf := [], maskSum := sums, maskCnt := c.maskCnt + 1 }
    else { c with maskBuf := [], maskSum := [], maskCnt := 0, maskDone := c.maskDone ++ [sums] }

/-- Transmit sample `n` of a frame at fs_r: filter, NCO, mask check. -/
def State.txSample (s : State) (d n : Nat) (c : Chain) (u : Int × Int) : Chain × (Int × Int) :=
  let taps := min 96 (s.rd F.DFE_CFG.tx_taps d)
  let hist := (u :: c.txHist).take 96
  let y := if taps = 0 then u else firOut (s.taps F.DFE_TXF_COEF.coef d taps) hist
  let z := s.nco d false n y
  (s.maskSample d { c with txHist := hist, txPhase := s.ncoPhase d (n + 1) } z, z)

/-- Transmit samples at fs_fft, the first at sample `n` of the frame at fs_r: each followed by 2^ovs − 1 zeros. -/
def State.txSamples (s : State) (d n : Nat) (c : Chain) (xs : List (Int × Int)) : Chain × List (Int × Int) :=
  let k := 2 ^ s.rd F.DFE_CFG.ovs d
  let r := (xs.flatMap fun x => x :: List.replicate (k - 1) (0, 0)).zipIdx.foldl (fun (a : Chain × List (Int × Int)) u =>
    let t := s.txSample d (n + u.2) a.1 u.1
    (t.1, t.2 :: a.2)) (c, [])
  (r.1, r.2.reverse)

/-- Square magnitude. -/
def mag2 (x : Int × Int) : Nat := (x.1 * x.1 + x.2 * x.2).toNat

/-- Element k of the synchronising sequence. -/
def State.seqElem (s : State) (d k : Nat) : Int × Int :=
  let w := s.rd F.DFE_SEQ_MEM.word (256 * d + k / 32)
  (if bit w (2 * (k % 32)) then -1 else 1, if bit w (2 * (k % 32) + 1) then -1 else 1)

/-- The detector's test on the last `n` outputs, oldest first (R264). -/
def State.detects (s : State) (d n : Nat) (hy : List (Int × Int)) : Bool :=
  let ys := (hy.take n).reverse
  let cr := ys.zipIdx.foldl (fun (a : Int × Int) y =>
    let e := s.seqElem d y.2
    (a.1 + (y.1.1 * e.1 + y.1.2 * e.2), a.2 + (y.1.2 * e.1 - y.1.1 * e.2))) (0, 0)
  let en := ys.foldl (fun a y => a + mag2 y) 0
  0 < en && s.rd F.DFE_FREEZE.det_thr d * 2 * n * en ≤ 256 * mag2 cr

/-- agc_sample of R264: the chain and the output. `sfn` and `cmp` belong to the sample. -/
def State.agcSample (s : State) (d : Nat) (c : Chain) (x : Int × Int) (sfn cmp : Nat) : Chain × (Int × Int) :=
  let g (v : Int) : Int := sat16 (shrRne (v * (c.gw : Int)) 8)
  let y := (g x.1, g x.2)
  let c := { c with histY := (y :: c.histY).take 256, histX := (x :: c.histX).take 256, seen := c.seen + 1, gwChg := false, detSym := false }
  if 0 < c.frozen then ({ c with frozen := c.frozen - 1 }, y)
  else
    let n := min 256 (s.rd F.DFE_SEQ_CFG.seq_len d)
    if s.rd F.DFE_FREEZE.det_thr d ≠ 0 ∧ n ≤ c.seen ∧ s.detects d n c.histY then
      let rin := min (2 ^ 32 - 1) ((c.histX.take n).foldl (fun a x => a + mag2 x) 0 / n)
      ({ c with latch := some (rin, c.gw, sfn, cmp), frozen := s.rd F.DFE_FREEZE.freeze_win d, acc := 0, cnt := 0, detSym := true }, y)
    else if s.rd F.DFE_CFG.agc_mode d = 1 then
      let acc := c.acc + mag2 y
      let lg := s.rd F.DFE_AGC.agc_blk_log2 d
      if c.cnt + 1 = 2 ^ lg then
        let p := acc / 2 ^ lg
        let st := max 1 (c.gw / 2 ^ s.rd F.DFE_AGC.agc_step_sh d)
        let gw := if s.rd F.DFE_AGC_THR.agc_hi d < p then max (s.rd F.DFE_AGC.agc_gmin d) (c.gw - st)
          else if p < s.rd F.DFE_AGC_THR.agc_lo d then min (s.rd F.DFE_AGC.agc_gmax d) (c.gw + st) else c.gw
        ({ c with gw := gw, acc := 0, cnt := 0, gwChg := gw != c.gw }, y)
      else ({ c with acc := acc, cnt := c.cnt + 1 }, y)
    else (c, y)

/-! ## Rates and positions of split 8 (R262, R263) -/

/-- N_fft for a PRB count. -/
def nFft (prb : Nat) : Nat := ((List.range 20).find? fun k => prb * 240 ≤ 17 * 2 ^ k).elim 0 fun k => 2 ^ k

/-- Samples at fs_fft before symbol m of a subframe. -/
def symStart (mu n m : Nat) : Nat :=
  (m * 2192 + 16 * 2 ^ mu * (b2n (0 < m) + b2n (7 * 2 ^ mu < m))) * n / 2048
def symLen (mu n m : Nat) : Nat := symStart mu n (m + 1) - symStart mu n m

/-- Samples at fs_r in a subframe. -/
def subframeSamples (mu n ovs : Nat) : Nat := n * 15 * 2 ^ mu * 2 ^ ovs

/-- Chain of a stream. -/
def State.chain (s : State) (d : Nat) : Chain := kget s.chains d (s.chainZero d)
/-- Write a chain and what DFE.STAT shows of it. -/
def State.setChain (s : State) (d : Nat) (c : Chain) : State :=
  ((s.withChains (kset s.chains d c)).put F.DFE_STAT.gain c.gw d).put F.DFE_STAT.frozen_now (b2n (0 < c.frozen)) d

/-! ## Lane descriptors and buffers (R256, R257) -/

structure FhDesc where
  buf : Nat
  port : Nat
  sub : Nat
  dir : Nat
  cell : Nat
  symFirst : Nat
  symCnt : Nat
  tickRel : Int
  bufLen : Nat
  deriving DecidableEq, Repr

def State.fhDesc (s : State) (a : Nat) : FhDesc :=
  let w0 := s.memLE a 8
  let w1 := s.memLE (a + 8) 8
  { buf := bits w0 47 0, port := bits w0 50 48, sub := bits w0 52 51, dir := bits w0 54 53, cell := bits w1 11 0,
    symFirst := bits w1 15 12, symCnt := bits w1 19 16, tickRel := toSigned 8 (bits w1 27 20),
    bufLen := bits (s.memLE (a + 16) 8) 31 0 }

/-- PRBs of a direction. -/
def dirPrb (e : CellEntry) (dir : Nat) : Nat := if dir = 0 then cePrbDl e else cePrbUl e

/-- Bytes of symbol `sym` of one stream in a buffer. -/
def symBytes (e : CellEntry) (dir slot sym : Nat) : Nat :=
  if ceSplit e = 2 then symLen (ceMu e) (nFft (dirPrb e dir)) (slot % 2 ^ ceMu e * 14 + sym) * 4 + 8
  else dirPrb e dir * 48

/-- Offset of symbol `sym`, stream index `k`, in a buffer. -/
def symOff (e : CellEntry) (dir slot first sym n k : Nat) : Nat :=
  ((span first (sym - first)).foldl (fun a i => a + symBytes e dir slot i * n) 0) + symBytes e dir slot sym * k

/-- The check of R257. -/
def State.fhOk (s : State) (p a : Nat) (slot : Nat) (d : FhDesc) : Bool :=
  let w0 := s.memLE a 8
  let w1 := s.memLE (a + 8) 8
  bits w0 63 55 == 0 && d.dir != 3 && bits w1 63 28 == 0 && s.memLE (a + 24) 8 == 0 &&
  within d.buf d.bufLen (pinnedBase p) 0x2000000 && 1 ≤ d.symCnt && d.symFirst + d.symCnt ≤ 14 &&
  (match s.cell? d.cell with
   | none => false
   | some c => symOff c.ent d.dir slot d.symFirst (d.symFirst + d.symCnt) (s.streamsOf d.cell).length 0 ≤ d.bufLen)

/-! ## Egress (R226, R227, R248, R251–R254, R258, R259, R263, R269) -/

/-- Queue one frame, or count it as dropped: no peer, no link, or a slot whose C-plane window opened before the return. -/
def State.enqueue (s : State) (x sub : Nat) (cOpen : Int) (f : TxFrame) : State :=
  let p := s.subport x sub
  let stale := match p.outages with
    | o :: _ => decide (cOpen ≤ (o.2 : Int))
    | [] => false
  if s.rd F.FH_PEER.peer_mac (32 * x + sub) = 0 || !s.fhUp x sub || stale then s.bump F.FH_TX_CNT.tx_drop x
  else s.setSub x sub { p with queues := p.queues ++ [f] }

/-- Header bytes of a frame before its blocks (PRESUMED, log 33: Ethernet and VLAN tag 18, eCPRI 8, O-RAN timing and section 8). -/
def frameOverhead : Nat := 34

/-- Split a list into parts of at most `n`. -/
def splitBy {α : Type} (n : Nat) (l : List α) : List (List α) := blocksOf (max 1 n) l.length l

/-- Read CI16 samples of memory. -/
def State.samples (s : State) (a n : Nat) : List (Int × Int) := (List.range n).map fun i => ci16 (s.memLE (a + 4 * i) 4)

/-- Sections of a symbol of stream `k`: `dir` 0 downlink, 1 uplink, 2 PRACH (R226, R251). Without a slot message the downlink has
the SS/PBCH blocks of the plan and the uplink PRACH only. -/
def State.secsOf (s : State) (c : Cell) (k sfn slot sym dir : Nat) : List CSec :=
  let e := c.ent
  let up := dir != 0
  let band := dirPrb e dir
  let sec (prb n beam : Nat) (wts : Option (Nat × Nat)) : CSec := {
    type := 1, uplink := up, filter := 0, prb0 := prb, prbs := min n (band - prb), beam := if ceSplit e = 1 then beam else 0,
    meth := s.rd (if up then F.FH_STREAM.ul_meth else F.FH_STREAM.dl_meth) k,
    width := s.rd (if up then F.FH_STREAM.ul_width else F.FH_STREAM.dl_width) k, shift := 0, weights := wts }
  let ssb := ssbIn e sfn slot sym
  let ssbSec := sec (ssbPrbs e).1 (ssbPrbs e).2 0 none
  let ps := c.pdusOf sfn slot
  if dir = 2 then [{ sec 0 band 0 none with type := 3, filter := Config.prachFilter (ceFr2 e) (bits e.w1.toNat 23 16) }]
  else if (if up then symUplink e ps sfn slot sym else symDownlink e ps sfn slot sym) = false then []
  else match c.msg? sfn slot with
    | none => if up || ssb.isEmpty then [] else [ssbSec]
    | some m => m.list.filterMap fun p =>
        if p.type = 3 then (if !up && ssb.any fun b => b.1 == bitsAt p.body 0 6 then some ssbSec else none)
        else if p.type = 7 || up != [4, 5, 6].contains p.type then none
        else
          let x := pduSpan band p
          let w := if ceSplit e = 1 then (m.list.find? fun q => q.type == 7 && bitsAt q.body 0 15 == x.beam).map (·.data) else none
          if x.covers sym then some (sec x.prb x.prbs x.beam w) else none

/-- Runs of adjacent numbers of an ascending list: first and count. -/
def runsOf : List Nat → List (Nat × Nat)
  | [] => []
  | n :: ns => match runsOf ns with
    | (a, k) :: r => if a = n + 1 then (n, k + 1) :: r else (n, 1) :: (a, k) :: r
    | [] => [(n, 1)]

/-- Runs of PRBs that sections take. -/
def prbRuns (band : Nat) (secs : List CSec) : List (Nat × Nat) :=
  runsOf ((List.range band).filter fun i => secs.any fun x => x.prb0 ≤ i && i < x.prb0 + x.prbs)

/-- A frame of stream `k` for a symbol, without content. -/
def State.frameOf (s : State) (x sub k pcp sfn slot sym : Nat) (lo hi : Int) : TxFrame :=
  { pcid := s.rd F.FH_STREAM.eaxc k, pcp := pcp, cplane := false, sfn := sfn, slot := slot, sym := sym, opens := lo.toNat,
    closes := hi.toNat, prbs := [], dst := s.rd F.FH_PEER.peer_mac (32 * x + sub), prb0 := 0, shift := 0, secs := [], split8 := false }

/-- Queue the C-plane message of stream `k` for a symbol (R251, R253). -/
def State.sendCplane (s : State) (x sub k : Nat) (cOpen t : Int) (sfn slot sym : Nat) (secs : List CSec) : State :=
  s.enqueue x sub cOpen { s.frameOf x sub k (s.rd F.FH_PORT_CFG.pcp_c x) sfn slot sym (t - (s.rd F.FH_WIN_CP.t1a_cp_max x : Int))
    (t - (s.rd F.FH_WIN_CP.t1a_cp_min x : Int)) with cplane := true, secs := secs }

/-- Queue the U-plane frames of one stream and one downlink symbol: one section for each run of PRBs, cut at PRBs by `mtu`. -/
def State.sendPrbs (s : State) (x sub k : Nat) (cOpen t : Int) (sfn slot sym base : Nat) (run : Nat × Nat) : State :=
  let meth := s.rd F.FH_STREAM.dl_meth k
  let w := widthOf (s.rd F.FH_STREAM.dl_width k)
  let xs := (span run.1 run.2).map fun i => s.samples (base + 48 * i) 12
  let shift := if meth = 3 then muShift (xs.flatMap comps) else 0
  let prbs := xs.map (compressRb meth w shift)
  let s := s.bump F.FH_COMP_CNT.comp_sat x (prbs.filter (·.2)).length
  let per := max 1 ((s.rd F.FH_PORT_CFG.mtu x - frameOverhead) / prbLen meth w)
  (splitBy per (prbs.map (·.1))).zipIdx.foldl (fun s b => s.enqueue x sub cOpen
    { s.frameOf x sub k (s.rd F.FH_PORT_CFG.pcp_u x) sfn slot sym (t - (s.rd F.FH_WIN_DL.t1a_up_max x : Int))
      (t - (s.rd F.FH_WIN_DL.t1a_up_min x : Int)) with prbs := b.1, prb0 := run.1 + per * b.2, shift := shift }) s

/-- Queue the split-8 frames of samples at fs_r of a subframe, the first at index `off` (R263): `sub0` is the instant of sample 0. -/
def State.sendTime (s : State) (x sub k : Nat) (cOpen sub0 : Int) (per sfn slot sym off : Nat) (mu : Nat) (xs : List (Int × Int)) : State :=
  let meth := s.rd F.FH_STREAM.dl_meth k
  let w := widthOf (s.rd F.FH_STREAM.dl_width k)
  let room := s.rd F.FH_PORT_CFG.mtu x - frameOverhead - 8
  let n := if meth = 1 then 12 * max 1 (min 170 (room / prbLen 1 w)) else max 1 (min 2047 (room / 4))
  (splitBy n xs).zipIdx.foldl (fun s g =>
    let at_ := off + n * g.2
    let t := sub0 + ((at_ * 1000000 / max 1 per : Nat) : Int)
    let hdr := leBytes 8 (sfn + 2 ^ 10 * at_ + 2 ^ 31 * meth + 2 ^ 35 * (w % 16) + 2 ^ 39 * g.1.length + 2 ^ 50 * (slot / 2 ^ mu))
    let body := (splitBy 12 g.1).map fun b => compressRb meth w 0 b
    let s := s.bump F.FH_COMP_CNT.comp_sat x (body.filter (·.2)).length
    s.enqueue x sub cOpen { s.frameOf x sub k (s.rd F.FH_PORT_CFG.pcp_u x) sfn slot sym (t - (s.rd F.FH_WIN_DL.t1a_up_max x : Int))
      (t - (s.rd F.FH_WIN_DL.t1a_up_min x : Int)) with prbs := hdr.reverse :: body.map (·.1), split8 := true }) s

/-- One downlink symbol of a split-8 stream: the chain runs; the samples leave in groups of 12 when they are compressed, and a
group that two symbols share leaves with the later one (R262, R263, log 103). -/
def State.sendSplit8 (s : State) (x sub k : Nat) (c : Cell) (sfn slot sym base : Nat) (live : Bool) (cOpen : Int) : State :=
  let e := c.ent
  let mu := ceMu e
  let ch := s.rd F.FH_STREAM.chain k
  let nf := nFft (cePrbDl e)
  let m := slot % 2 ^ mu * 14 + sym
  let ovs := s.rd F.DFE_CFG.ovs ch
  let per := subframeSamples mu nf ovs
  let sf := slot / 2 ^ mu
  let off := symStart mu nf m * 2 ^ ovs
  let c0 := s.chain ch
  let r := s.txSamples ch (sf * per + off) c0 (s.samples base (symLen mu nf m))
  let rest := if c0.txNext = (sfn * 10 + sf, off) then c0.txRest else []
  let muted := s.on F.DFE_STAT.mask_mute ch
  if muted || !live then
    let s := s.setChain ch { r.1 with txRest := [], txNext := (0, 0) }
    if muted then s.put F.DFE_SNAP.muted_sym (satAdd 32 (s.rd F.DFE_SNAP.muted_sym ch) 1) ch else s
  else
    let all := rest ++ r.2
    let n := if s.rd F.FH_STREAM.dl_meth k = 1 then all.length / 12 * 12 else all.length
    let s := s.setChain ch { r.1 with txRest := all.drop n, txNext := (sfn * 10 + sf, off + r.2.length) }
    s.sendTime x sub k cOpen (s.air mu sfn (sf * 2 ^ mu) 0) per sfn slot sym (off - rest.length) mu (all.take n)

/-- The PBCH of the blocks that start in a symbol (R226): the MIB of the plan, or of the slot message when there is one. -/
def State.sendPbch (s : State) (cid : Nat) (c : Cell) (sfn slot sym : Nat) : State :=
  (ssbIn c.ent sfn slot sym).foldl (fun s b =>
    let mib := match c.msg? sfn slot with
      | none => some (bits c.ent.w1.toNat 63 40)
      | some m => (m.list.find? fun p => p.type == 3 && bitsAt p.body 0 6 == b.1).map fun p => bitsAt p.body 6 24
    match mib with
    | some v => if b.2 then s.emit (.pbch cid sfn slot b.1 (pbchPayload c.ent v sfn slot b.1)) else s
    | none => s) s

/-- Queue the frames of stream `k`, index `i` of `n`, for one downlink symbol of a lane's buffer. -/
def State.sendSymbol (s : State) (d : FhDesc) (c : Cell) (sfn slot sym n i k : Nat) : State :=
  let e := c.ent
  let x := d.port
  let t := s.air (ceMu e) sfn slot sym
  let cOpen := s.air (ceMu e) sfn slot 0 - (s.rd F.FH_WIN_CP.t1a_cp_max x : Int)
  let base := d.buf + symOff e 0 slot d.symFirst sym n i
  let lost := c.lostDl.any fun l => l.1 == slotNo sfn slot && bit l.2 sym
  let secs := s.secsOf c k sfn slot sym 0
  let s := if i = 0 then s.sendPbch d.cell c sfn slot sym else s
  if ceSplit e = 2 then s.sendSplit8 x d.sub k c sfn slot sym base (!secs.isEmpty && !lost) cOpen
  else if secs.isEmpty then s
  else
    let s := s.sendCplane x d.sub k cOpen t sfn slot sym secs
    if lost then s else (prbRuns (cePrbDl e) secs).foldl (fun s r => s.sendPrbs x d.sub k cOpen t sfn slot sym base r) s

/-- An uplink buffer opens: the radio is told of its symbols by C-plane messages; a split-8 buffer starts as zeros (R257). -/
def State.openUplink (s : State) (d : FhDesc) (c : Cell) (sfn slot : Nat) (ks : List Nat) : State :=
  let e := c.ent
  let x := d.port
  (span d.symFirst d.symCnt).foldl (fun s sym => ks.zipIdx.foldl (fun s k =>
    let t := s.air (ceMu e) sfn slot sym
    let secs := s.secsOf c k.1 sfn slot sym d.dir
    if ceSplit e = 2 then
      s.memWr (d.buf + symOff e d.dir slot d.symFirst sym ks.length k.2) (List.replicate (symBytes e d.dir slot sym) 0)
    else if secs.isEmpty then s
    else s.sendCplane x d.sub k.1 (s.air (ceMu e) sfn slot 0 - (s.rd F.FH_WIN_CP.t1a_cp_max x : Int)) t sfn slot sym secs) s) s

/-- A fronthaul lane takes a buffer at its entry's start (R257): the slot, the buffer opened, and, downlink, its frames. A cell
that is not on the air has none (R228). -/
def State.fhStart (s : State) (p e a : Nat) : State :=
  let d := s.fhDesc a
  match s.cell? d.cell with
  | none => s
  | some c =>
    if !State.cellOn c then s
    else
      let n := s.slotAt (ceMu c.ent) (s.time.tick + d.tickRel)
      let b : FhBuf := {
        part := p, entry := e, buf := d.buf, port := d.port, subport := d.sub, dir := d.dir, cell := d.cell,
        symFirst := d.symFirst, symCnt := d.symCnt, sfn := n.1, slot := n.2 }
      let s := s.withFhBufs (s.fhBufs ++ [b])
      let ks := s.streamsOf d.cell
      if d.dir = 0 then
        (span d.symFirst d.symCnt).foldl (fun s sym => ks.zipIdx.foldl (fun s k => s.sendSymbol d c n.1 n.2 sym ks.length k.2 k.1) s) s
      else s.openUplink d c n.1 n.2 ks

/-- Key of a symbol among the blocks received: PRACH apart from the rest. -/
def symKey (prach : Bool) (sym : Nat) : Nat := sym + 16 * b2n prach

/-- Marker of a closed symbol in the list of received blocks. -/
def closedPrb : Nat := 512

/-- Zero the blocks of one uplink symbol that were not received, and count them (R255). -/
def State.closeSymbol (s : State) (b : FhBuf) (c : Cell) (k idx n sym : Nat) : State :=
  let p := s.subport b.port b.subport
  let key := slotNo b.sfn b.slot
  let ks := symKey (b.dir == 2) sym
  if p.seen.contains (k, key, ks, closedPrb) then s
  else
    let s := s.setSub b.port b.subport { p with seen := p.seen ++ [(k, key, ks, closedPrb)] }
    if ceSplit c.ent = 2 then s
    else
      ((List.range (cePrbUl c.ent)).filter fun i => !p.seen.contains (k, key, ks, i)).foldl (fun s i =>
        (s.memWr (b.buf + symOff c.ent b.dir b.slot b.symFirst sym n idx + 48 * i) (List.replicate 48 0)).bump
          F.FH_RX_MISS.rx_missing b.port) s

/-- A fronthaul entry ends (R257): an uplink buffer is completed and handed to the radio rows. -/
def State.fhEnd (s : State) (p e : Nat) : State :=
  let mine := s.fhBufs.filter fun b => b.part == p && b.entry == e
  let s := mine.foldl (fun s b =>
    match s.cell? b.cell with
    | none => s
    | some c =>
      if b.dir = 0 then s
      else
        let ks := s.streamsOf b.cell
        let s := (span b.symFirst b.symCnt).foldl (fun s sym => ks.zipIdx.foldl (fun s k => s.closeSymbol b c k.1 k.2 ks.length sym) s) s
        let q := s.subport b.port b.subport
        s.setSub b.port b.subport { q with
          seen := q.seen.filter fun z => !(ks.contains z.1 && z.2.1 == slotNo b.sfn b.slot && symKey (b.dir == 2) b.symFirst ≤ z.2.2.1 &&
            z.2.2.1 < symKey (b.dir == 2) b.symFirst + b.symCnt) }) s
  s.withFhBufs (s.fhBufs.filter fun b => !(b.part == p && b.entry == e))

/-- A frame may leave now: inside its window, and a U-plane frame after its C-plane sections (R254). -/
def State.sendable (s : State) (p : Subport) (f : TxFrame) : Bool :=
  f.opens ≤ s.nowNs && s.nowNs ≤ f.closes && (f.cplane || f.split8 || p.cSent.contains (f.pcid, slotNo f.sfn f.slot, f.sym))

/-- The heads of the PCP queues, highest priority first. -/
def heads (q : List TxFrame) : List TxFrame :=
  (List.range 8).reverse.filterMap fun pcp => q.find? fun f => f.pcp == pcp

/-- FH_FRAME_SEND: the highest queue whose head may leave sends it. -/
def State.frameSend (s : State) (x sub : Nat) : State :=
  let p := s.subport x sub
  if !s.fhUp x sub then s
  else match (heads p.queues).find? (s.sendable p) with
    | none => s
    | some f =>
      let p := { p with queues := p.queues.erase f,
                        cSent := if f.cplane then ((f.pcid, slotNo f.sfn f.slot, f.sym) :: p.cSent).take 65536 else p.cSent }
      ((s.setSub x sub p).bump F.FH_TX_CNT.tx_frames x).emit (.fhFrame x sub f)

def execFhFrameSend (x : Fin 8) (sub : Fin 4) (ns : Fin 125000) (s : State) : Host.Outcome State Fault Refusal :=
  .next ((s.atNs ns.val).frameSend x sub)

/-- FH_TX_WINDOW_EXPIRY: frames past their windows are not sent. -/
def execFhTxWindowExpiry (x : Fin 8) (sub : Fin 4) (ns : Fin 125000) (s : State) : Host.Outcome State Fault Refusal :=
  .next (
    let s := s.atNs ns.val
    let p := s.subport x sub
    let n := (p.queues.filter fun f => f.closes < s.nowNs).length
    (s.setSub x sub { p with queues := p.queues.filter fun f => s.nowNs ≤ f.closes }).bump F.FH_TX_CNT.tx_drop x n)

/-! ## Reception (R249, R255, R258, R263, R264, R267) -/

/-- The stream of a subport with an eAxC ID. -/
def State.streamOf (s : State) (x sub id : Nat) : Option Nat :=
  (span 0 4096).find? fun k => s.on F.FH_STREAM.valid k && s.rd F.FH_STREAM.eaxc k == id && s.rd F.FH_STREAM.port k == x &&
    s.rd F.FH_STREAM.subport k == sub

/-- An open uplink buffer for a cell's symbol. -/
def State.openBuf (s : State) (prach : Bool) (cell sfn slot sym : Nat) : Option FhBuf :=
  s.fhBufs.find? fun b => b.cell == cell && b.dir == 1 + b2n prach && b.sfn == sfn && b.slot == slot && b.symFirst ≤ sym &&
    sym < b.symFirst + b.symCnt

/-- Bytes of samples in memory. -/
def sampleBytes (xs : List (Int × Int)) : List Byte := xs.flatMap fun x => leBytes 2 (ofSigned 16 x.1) ++ leBytes 2 (ofSigned 16 x.2)

/-- A U-plane frame of split 7.2x (R255). -/
def State.uplane (s : State) (x sub k : Nat) (c : Cell) (f : FhFrame) : State :=
  let cid := s.rd F.FH_STREAM.cell_id k
  let mu := ceMu c.ent
  let sym := f.sym.toNat
  let t := s.air mu f.sfn.toNat f.slot.toNat sym
  let now : Int := (s.nowNs : Int)
  if now < t + (s.rd F.FH_WIN_UL.ta4_min x : Int) then s.bump F.FH_RX_ERR.rx_early x
  else if t + (s.rd F.FH_WIN_UL.ta4_max x : Int) < now then s.bump F.FH_RX_ERR.rx_late x
  else
    match s.openBuf (f.filter != 0) cid f.sfn.toNat f.slot.toNat sym with
    | none => s
    | some o =>
      let p := s.subport x sub
      let key := slotNo f.sfn.toNat f.slot.toNat
      let ids := (List.range f.prbs.length).map fun i => (k, key, symKey (f.filter != 0) sym, f.prb0.toNat + i)
      if ids.any fun i => p.seen.contains i then s.bump F.FH_RX_ERR.rx_dup x
      else
        let s := s.setSub x sub { p with seen := p.seen ++ ids }
        let meth := s.rd F.FH_STREAM.ul_meth k
        let w := widthOf (s.rd F.FH_STREAM.ul_width k)
        let ks := s.streamsOf cid
        f.prbs.zipIdx.foldl (fun s b =>
          let r := expandRb meth w f.compShift.toNat 12 b.1
          let s := if r.2 then s.bump F.FH_COMP_CNT.rx_short_rb x else s
          if cePrbUl c.ent ≤ f.prb0.toNat + b.2 then s
          else s.memWr (o.buf + symOff c.ent o.dir o.slot o.symFirst sym ks.length (ks.idxOf k) + 48 * (f.prb0.toNat + b.2))
            (sampleBytes r.1)) s

/-- Position of sample j (at fs_fft) of a subframe: symbol and offset. -/
def symOfSample (mu n j : Nat) : Nat × Nat :=
  let m := ((List.range (14 * 2 ^ mu)).filter fun m => symStart mu n m ≤ j).length - 1
  (m, j - symStart mu n m)

/-- One sample at fs_r of chain `d`: NCO, filter, and each kept output through the AGC into the buffer. -/
def State.rxSample (s : State) (d k : Nat) (c : Cell) (sfn sub i : Nat) (z : Int × Int) : State :=
  let e := c.ent
  let mu := ceMu e
  let nf := nFft (cePrbUl e)
  let ovs := s.rd F.DFE_CFG.ovs d
  let ch := s.chain d
  let n := sub * subframeSamples mu nf ovs + i
  let y := s.nco d true n z
  let hist := (y :: ch.rxHist).take 96
  let ch := { ch with rxPhase := s.ncoPhase d (n + 1), rxHist := hist }
  if i % 2 ^ ovs ≠ 0 then s.setChain d ch
  else
    let n := min 96 (s.rd F.DFE_CFG.rx_taps d)
    let o := if n = 0 then y else firOut (s.taps F.DFE_RXF_COEF.coef d n) hist
    let fsr := subframeSamples mu nf ovs * 1000
    let slot0 := sub * 2 ^ mu
    let t0 := s.air mu sfn slot0 0
    let cmp := (t0.toNat * 65536 + i * 65536 * 1000000000 / max 1 fsr) % 2 ^ 64
    let g0 := ch.gw
    let r := s.agcSample d ch o sfn cmp
    let s := s.setChain d r.1
    let s := if r.1.detSym then s.put F.DFE_STAT.det 1 d else s
    let pos := symOfSample mu nf (i / 2 ^ ovs)
    let slot := slot0 + pos.1 / 14
    let sym := pos.1 % 14
    let cid := s.rd F.FH_STREAM.cell_id k
    match s.openBuf false cid sfn slot sym with
    | none => s
    | some b =>
      let ks := s.streamsOf cid
      let base := b.buf + symOff e b.dir b.slot b.symFirst sym ks.length (ks.idxOf k)
      let rec_ := base + symLen mu nf pos.1 * 4
      let s := s.memWr (base + 4 * pos.2) (sampleBytes [r.2])
      let old := if pos.2 = 0 ∨ s.memLE rec_ 8 = 0 then g0 else s.memLE rec_ 8
      s.memWr rec_ (leBytes 8 (old ||| (65536 * b2n r.1.gwChg) ||| (131072 * b2n r.1.detSym)))

/-- A split-8 frame (R263). -/
def State.split8 (s : State) (x k : Nat) (c : Cell) (f : FhFrame) : State :=
  let e := c.ent
  let mu := ceMu e
  let d := s.rd F.FH_STREAM.chain k
  let nf := nFft (cePrbUl e)
  let per := subframeSamples mu nf (s.rd F.DFE_CFG.ovs d)
  let off := f.smpOff.toNat
  let n := f.nSmp.toNat
  let sub := f.subframe.toNat
  if 1 < f.compMeth.toNat || 9 < sub || f.rsv != 0 || n = 0 || per < off + n ||
      (f.compMeth.toNat = 1 && (n % 12 != 0 || ([0, 6, 8, 9, 10, 12, 14].contains f.width.toNat) == false)) then
    s.bump F.FH_RX_CNT.rx_other x
  else
    let t := s.air mu f.sfn.toNat (sub * 2 ^ mu) 0 + ((off * 1000000 / max 1 per : Nat) : Int)
    let now : Int := (s.nowNs : Int)
    if now < t + (s.rd F.FH_WIN_UL.ta4_min x : Int) then s.bump F.FH_RX_ERR.rx_early x
    else if t + (s.rd F.FH_WIN_UL.ta4_max x : Int) < now then s.bump F.FH_RX_ERR.rx_late x
    else
      let w := widthOf f.width.toNat
      let rs := (List.range (ceilDiv n 12)).map fun i => expandRb f.compMeth.toNat w 0 (min 12 (n - 12 * i)) (f.prbs.getD i [])
      let s := s.bump F.FH_COMP_CNT.rx_short_rb x (rs.filter (·.2)).length
      (rs.flatMap (·.1)).zipIdx.foldl (fun s z => s.rxSample d k c f.sfn.toNat sub (off + z.2) z.1) s

/-- FRAME_RECEIVED: the first matching row of R249. -/
def State.frameIn (s : State) (x sub : Nat) (f : FhFrame) : State :=
  if !s.fhUp x sub then s
  else
    let s := s.bump F.FH_RX_CNT.rx_frames x
    if s.rd F.FH_PORT_CFG.mtu x < f.len then s.bump F.FH_RX_CNT.rx_other x
    else if f.ethertype = 0x88F7 || f.ethertype = 0x8809 || f.udpPtp then s
    else if f.ethertype ≠ 0xAEFE || f.rev ≠ 1 || f.concat || (f.msgType ≠ 0 && f.msgType ≠ 5) then s.bump F.FH_RX_CNT.rx_other x
    else if f.vid.toNat ≠ s.rd F.FH_PEER.vlan_id (32 * x + sub) then s.bump F.FH_RX_ERR.rx_unknown x
    else if f.msgType = 5 then s
    else match s.streamOf x sub f.pcid.toNat with
      | none => s.bump F.FH_RX_ERR.rx_unknown x
      | some k =>
        let s := if s.rd F.FH_PEER.peer_mac (32 * x + sub) = 0 then
            (s.put F.FH_PEER.peer_mac f.srcMac.toNat (32 * x + sub)).put F.FH_PEER.learned 1 (32 * x + sub) else s
        if f.srcMac.toNat ≠ s.rd F.FH_PEER.peer_mac (32 * x + sub) then s.bump F.FH_RX_ERR.rx_unknown x
        else if f.ebit = false then s.bump F.FH_RX_ERR2.rx_frag x
        else
          let p := s.subport x sub
          let s := match kfind p.lastSeq k with
            | some l => if f.seqId.toNat = (l + 1) % 256 then s else s.bump F.FH_RX_ERR2.seq_gap x
            | none => s
          let s := s.setSub x sub { p with lastSeq := kset p.lastSeq k f.seqId.toNat }
          match s.cell? (s.rd F.FH_STREAM.cell_id k) with
          | none => s.bump F.FH_RX_MISS.rx_no_stream x
          | some c =>
            if !State.cellOn c then s.bump F.FH_RX_MISS.rx_no_stream x
            else if s.on F.FH_STREAM.split8 k then s.split8 x k c f
            else s.uplane x sub k c f

def execFrameReceived (x : Fin 8) (sub : Fin 4) (f : FhFrame) (ns : Fin 125000) (s : State) : Host.Outcome State Fault Refusal :=
  .next ((s.atNs ns.val).frameIn x sub f)

/-- UL_WINDOW_CLOSE: the window of a symbol of stream k has closed. -/
def execUlWindowClose (k : Fin 4096) (sfn : Fin 1024) (slot : Fin 80) (sym : Fin 14) (s : State) : Host.Outcome State Fault Refusal :=
  .next (
    if s.on F.FH_STREAM.valid k then
      let cid := s.rd F.FH_STREAM.cell_id k
      match s.cell? cid with
      | some c =>
        let ks := s.streamsOf cid
        let end_ := s.air (ceMu c.ent) sfn slot sym + (s.rd F.FH_WIN_UL.ta4_max (s.rd F.FH_STREAM.port k) : Int)
        if State.cellOn c ∧ end_ ≤ (s.nowNs : Int) then
          [false, true].foldl (fun s prach => match s.openBuf prach cid sfn slot sym with
            | some b => s.closeSymbol b c k (ks.idxOf k.val) ks.length sym
            | none => s) s
        else s
      | none => s
    else s)

/-! ## Links, peers, delay measurement (R247, R258–R260) -/

/-- A change of a subport's link state. -/
def State.setLink (s : State) (x sub v : Nat) : State :=
  if s.fhLink x sub = v then s
  else ((s.put (linkField sub) v x).put F.FH_PORT_STAT.link_chg 1 x).event 2 3 Ev.fhLink (subKey x sub * 4 + v) tc

/-- FH_LINK_UP. -/
def execFhLinkUp (x : Fin 8) (sub : Fin 4) (s : State) : Host.Outcome State Fault Refusal :=
  .next (
    if s.fhExists x sub && s.fhLink x sub < 2 then
      let p := s.subport x sub
      let s := s.setSub x sub { p with
        outages := ((p.downSince.getD 0, s.nowNs) :: p.outages).filter fun o => s.nowNs ≤ o.2 + 1000000000, downSince := none }
      s.setLink x sub 2
    else s)

/-- FH_LINK_DOWN: the subport retrains by itself; a learned address is cleared. -/
def execFhLinkDown (x : Fin 8) (sub : Fin 4) (s : State) : Host.Outcome State Fault Refusal :=
  .next (
    if s.fhUp x sub then
      let p := s.subport x sub
      let s := s.setSub x sub { p with downSince := some s.nowNs }
      let i := 32 * x.val + sub.val
      let s := if s.on F.FH_PEER.learned i then (s.put F.FH_PEER.peer_mac 0 i).put F.FH_PEER.learned 0 i else s
      let s := s.bump F.FH_TX_CNT.tx_drop x p.queues.length
      let s := s.setSub x sub { s.subport x sub with queues := [] }
      s.setLink x sub 1
    else s)

/-- PEER_MAC_WRITE. -/
def execPeerMacWrite (wr : Writer) (x : Fin 8) (sub : Fin 4) (mac : BitVec 48) (s : State) : Host.Outcome State Fault Refusal :=
  .next (
    let i := 32 * x.val + sub.val
    if s.mayWrite wr F.FH_PEER.peer_mac i then (s.put F.FH_PEER.peer_mac mac.toNat i).put F.FH_PEER.learned 0 i else s)

/-- DM_START: one request on `dm_sub`; on a subport that is not UP it is dropped (R259). -/
def execDmStart (wr : Writer) (x : Fin 8) (s : State) : Host.Outcome State Fault Refusal :=
  .next (
    let sub := s.rd F.FH_DM.dm_sub x
    if s.mayWrite wr F.FH_DM.dm_start x && s.fhExists x sub then
      let s := (s.setSub x sub { s.subport x sub with dmAt := some s.nowNs }).put F.FH_DM_RES.dm_valid 0 x
      if s.fhUp x sub then s.emit (.ecpriDelay x sub false) else s.bump F.FH_TX_CNT.tx_drop x
    else s)

/-- DELAY_MEASUREMENT_MSG: a request is answered; a response ends the measurement. -/
def execDelayMeasurementMsg (x : Fin 8) (sub : Fin 4) (isResponse : Bool) (owd : BitVec 32) (s : State) :
    Host.Outcome State Fault Refusal :=
  .next (
    if !s.fhUp x sub then s
    else if isResponse then
      let p := s.subport x sub
      if p.dmAt.isSome then
        (((s.setSub x sub { p with dmAt := none }).put F.FH_DM_RES.owd_ns owd.toNat x).put F.FH_DM_RES.dm_valid 1 x)
      else s
    else s.emit (.ecpriDelay x sub true))

/-- DM_TIMEOUT: 10 ms without a response. -/
def execDmTimeout (x : Fin 8) (s : State) : Host.Outcome State Fault Refusal :=
  .next (
    match (List.range 4).find? fun sub => (s.subport x sub).dmAt.any fun t => t + 10000000 ≤ s.nowNs with
    | some sub => (s.setSub x sub { s.subport x sub with dmAt := none }).put F.FH_DM_RES.dm_timeout 1 x
    | none => s)

/-! ## Mask, snapshot and chain configuration (R265, R266, R268, R269) -/

/-- The streams of a chain, and the frames of a stream that a mute takes: U-plane frames of symbols that start from now on. -/
def State.chainStreams (s : State) (d : Nat) : List Nat :=
  (span 0 4096).filter fun k => s.on F.FH_STREAM.valid k && s.on F.FH_STREAM.split8 k && s.rd F.FH_STREAM.chain k == d

/-- A mute begins (R269): queued frames of symbols that start after now are not sent; each such symbol counts. -/
def State.muteChain (s : State) (d : Nat) : State :=
  (s.chainStreams d).foldl (fun s k =>
    let x := s.rd F.FH_STREAM.port k
    let sub := s.rd F.FH_STREAM.subport k
    let p := s.subport x sub
    let mu := ((s.cell? (s.rd F.FH_STREAM.cell_id k)).map fun c => ceMu c.ent).getD 0
    let gone (f : TxFrame) : Bool := !f.cplane && f.pcid == s.rd F.FH_STREAM.eaxc k && decide ((s.nowNs : Int) < s.air mu f.sfn f.slot f.sym)
    let n := ((p.queues.filter gone).map fun f => (f.sfn, f.slot, f.sym)).dedup.length
    (s.setSub x sub { p with queues := p.queues.filter fun f => !gone f }).put F.DFE_SNAP.muted_sym
      (satAdd 32 (s.rd F.DFE_SNAP.muted_sym d) n) d) s

/-- MASK_MEASUREMENT: the oldest measurement that ended is judged. `near` decides the bins within 0.1 dB of their limits. -/
def execMaskMeasurement (d : Fin 64) (near : List Bool) (s : State) : Host.Outcome State Fault Refusal :=
  .next (
    match (s.chain d).maskDone with
    | [] => s
    | p :: rest =>
      let s := s.setChain d { s.chain d with maskDone := rest }
      let inb (b : Nat) : Bool := bit (s.rd F.DFE_MASK_INB.inb (256 * d.val + b / 64)) (b % 64)
      let ref := ((List.range 256).filter inb).foldl (fun a b => max a (p.getD b 0)) 0
      let bad := (List.range 256).any fun b =>
        let have_ := p.getD b 0 * 2 ^ 24 * 10000
        let lim := s.rd F.DFE_MASK_LIM.lim (512 * d.val + b) * ref * 10000
        !inb b && (decide (lim * 10233 < have_ * 10000) || (decide (lim * 10000 < have_ * 10233) && near.getD b false))
      if bad then
        let s := (s.bump F.DFE_STAT.viol_cnt d).put F.DFE_STAT.mask_viol 1 d
        if s.on F.DFE_CFG.mask_act d && !s.on F.DFE_STAT.mask_mute d then (s.put F.DFE_STAT.mask_mute 1 d).muteChain d else s
      else s)

/-- MASK_MUTE_CLEAR. -/
def execMaskMuteClear (wr : Writer) (d : Fin 64) (s : State) : Host.Outcome State Fault Refusal :=
  .next (if s.mayWrite wr F.DFE_STAT.mask_mute d then s.put F.DFE_STAT.mask_mute 0 d else s)

/-- DFE_SNAPSHOT: the latched values at one instant. -/
def execDfeSnapshot (wr : Writer) (d : Fin 64) (s : State) : Host.Outcome State Fault Refusal :=
  .next (
    if s.mayWrite wr F.DFE_SNAP.snap d then
      match (s.chain d).latch with
      | some l =>
        (((s.put F.DFE_RSSI.rssi_in l.1 d).put F.DFE_RSSI.rssi_gain l.2.1 d).put F.DFE_RSSI.rssi_sfn_lo l.2.2.1 d).put
          F.DFE_RSSI_T.rssi_cmp l.2.2.2 d
      | none => s
    else s)

/-- SEQ_WRITE: `seq_len`, or word `k` of the sequence memory. -/
def execSeqWrite (wr : Writer) (d : Fin 64) (mem : Option (Fin 8)) (value : Word) (s : State) : Host.Outcome State Fault Refusal :=
  .next (
    let f : Field × Nat := match mem with
      | none => (F.DFE_SEQ_CFG.seq_len, d.val)
      | some k => (F.DFE_SEQ_MEM.word, 256 * d.val + k.val)
    if !s.mayWrite wr f.1 f.2 then s
    else if s.rd F.DFE_FREEZE.det_thr d ≠ 0 then s.put F.DFE_STAT.seq_wr_ign 1 d
    else s.put f.1 value.toNat f.2)

/-- The register and index that a chain-configuration write names. -/
def dfeField (d : Nat) : DfeCfgField → Field × Nat
  | .ovs => (F.DFE_CFG.ovs, d)
  | .txTaps => (F.DFE_CFG.tx_taps, d)
  | .rxTaps => (F.DFE_CFG.rx_taps, d)
  | .ncoInc => (F.DFE_NCO.nco_inc, d)
  | .ncoPhase0 => (F.DFE_NCO.nco_phase0, d)
  | .txCoef k => (F.DFE_TXF_COEF.coef, 512 * d + k.val)
  | .rxCoef k => (F.DFE_RXF_COEF.coef, 512 * d + k.val)

/-- The cell whose stream uses a chain. -/
def State.chainCell (s : State) (d : Nat) : Option Cell :=
  ((span 0 4096).find? fun k => s.on F.FH_STREAM.valid k && s.on F.FH_STREAM.split8 k && s.rd F.FH_STREAM.chain k == d).bind
    fun k => s.cell? (s.rd F.FH_STREAM.cell_id k)

/-- DFE_CFG_WRITE: accepted while the chain's cell is locked. -/
def execDfeCfgWrite (wr : Writer) (d : Fin 64) (f : DfeCfgField) (value : BitVec 32) (s : State) : Host.Outcome State Fault Refusal :=
  .next (
    let t := dfeField d f
    if !s.mayWrite wr t.1 t.2 then s
    else if (s.chainCell d).all fun c => c.st == .locked || c.st == .autoLocked then s.put t.1 value.toNat t.2
    else s.put F.DFE_STAT.wr_ign 1 d)

end Sys2Proof.Machine
end

