-- ==== Sys2Proof/Machine/Work.lean ====
section
/-! DEFINITION. Work on lanes (R69, R79, R88–R92, R122, R161–R169, R288–R293, R458): lanes and their units, gaps and abort
points, work-list items and passes, tiles and jobs as they start, end and abort, fences and substitutions. -/

namespace Sys2Proof.Machine

/-! ## Time within a tick -/

/-- Tick cycle of the present instant, and absolute cycle of a cycle of the present tick. -/
def State.cycNow (s : State) : Nat := s.time.ns % 125000 * 33 / 10
def State.absAt (s : State) (cyc : Nat) : Nat := s.nowNs / 125000 * 412500 + cyc

/-! ## Abort points (R88) -/

/-- The first abort point of open work on a lane after cycle `t` (R88). -/
def State.nextStop (s : State) (p l t : Nat) : Nat :=
  let lead := s.rd F.TICK_FIT.abort_lead p
  let edge := 412500 - lead
  if coreLane l then
    (laneSlots (s.partOf p).col l).foldl (fun a x => if t ≤ x.start then min a (x.start - lead) else a) edge
  else edge

/-- What an abort point of a lane at cycle `stop` is: a RADIO or HOLD entry, or the tick edge. -/
def State.stopKind (s : State) (p stop : Nat) : AbortPoint :=
  if stop < 412500 - s.rd F.TICK_FIT.abort_lead p then .radio else .edge

/-- An entry of the lane runs. -/
def EntryState.isRunning : EntryState → Bool
  | .running _ => true
  | _ => false
def ItemState.isRunning : ItemState → Bool
  | .running _ => true
  | _ => false
def ItemState.isOver : ItemState → Bool
  | .waiting => false
  | .running _ => false
  | _ => true

def State.setSlot (s : State) (p e : Nat) (st : EntryState) : State :=
  let x := s.partOf p
  s.setPart p { x with col := x.col.modify e fun c => { c with st := st } }

/-! ## Items and passes (R288–R290) -/

def State.item? (s : State) (p i : Nat) : Option WlItem := (s.partOf p).wl[i]?
/-- Post an end record of a unit to its partition (R112, R162, R215). -/
def State.endRec (s : State) (p lane tag status : Nat) : State :=
  s.setPart p { s.partOf p with ends := (s.partOf p).ends ++ [⟨lane, tag, status⟩] }

def State.modItem (s : State) (p i : Nat) (f : WlItem → WlItem) : State :=
  let x := s.partOf p
  s.setPart p { x with wl := x.wl.modify i f }

/-- Pass of an item: 1 + its number, 0 for none; and its stage. -/
def WlItem.pass (it : WlItem) : Nat := it.batch / 256
def WlItem.stage (it : WlItem) : Nat := it.batch % 256

/-- Stages of a pass. -/
def State.stagesOf (s : State) (x : Pass) : Nat := ((kfind s.models x.model).map (·.stages.length)).getD 0

/-- The item repeats a stage that a reset made run again: it is not charged (R455). -/
def State.itemFree (s : State) (it : WlItem) : Bool := s.passes.any fun x => x.id + 1 == it.pass && it.stage < x.paid

/-- A pass whose every stage has been placed and every item has ended as done has ended. -/
def State.settle (s : State) (p pass : Nat) : State :=
  (s.withPasses (s.passes.map fun x =>
      if x.id + 1 = pass ∧ x.part = p then
        let mine := (s.partOf p).wl.filter fun it => it.pass == pass
        { x with ended := s.stagesOf x ≤ x.stage && mine.all fun it => it.st == .done }
      else x))

/-- Take a pass off: its sequences start their pass again, its branches and the frames of its copies go back. -/
def State.dropPass (s : State) (pass : Nat) : State :=
  match s.passes.find? fun x => x.id + 1 == pass with
  | none => s
  | some x =>
    let s := s.withPasses (s.passes.filter fun y => y.id != x.id)
    let s := x.cow.foldl (fun s c => s.decRef c.2.2) s
    let s := x.seqs.foldl (fun s i =>
      match s.seq? i with
      | some q => if q.branch ≠ 0 then s.freeEntry i else s.setSeq i { q with stage := 0 }
      | none => s) s
    let y := s.partOf x.part
    s.setPart x.part { y with
      wl := y.wl.map fun it => if it.pass = pass ∧ (it.st = .waiting ∨ it.st = .aborted ∨ it.st = .abandoned) then
        { it with st := .failed } else it }

/-- A started item fails for its sequences (R116, R166, R194): it is not replayed, each of its sequences is frozen with its
notice at the next step boundary, and its pass ends. -/
def State.failItem (s : State) (p i cause status : Nat) : State :=
  match s.item? p i with
  | none => s
  | some it =>
    let s := s.modItem p i fun it => { it with st := .failed }
    let s := it.rows.foldl (fun s r => s.askFreeze r.1 cause status) s
    if it.pass = 0 then s else s.dropPass it.pass

/-- Items that wait for an aborted one count as aborted (R289). -/
def markDeps (wl : List WlItem) (i : Nat) : List WlItem :=
  (wl.zipIdx.foldl (fun (a : List WlItem × List Nat) x =>
    if x.1.after ≠ 0 ∧ a.2.contains (x.1.after - 1) ∧ x.1.st = .waiting then
      (a.1 ++ [{ x.1 with st := .aborted }], x.2 :: a.2)
    else (a.1 ++ [x.1], a.2)) ([], [i])).1

/-- Room a replay needs: twice its estimate after eight aborts (R92). -/
def WlItem.need (it : WlItem) : Nat := it.est * (if 8 ≤ it.aborts then 2 else 1)

/-! ### Replay in the same tick (R90, R93) -/

/-- Lanes of a kind of work. -/
def kindLanes (kind : Nat) : List Nat := if kind = 0 then span 0 16 else if kind = 1 then span 16 64 else span 80 16

/-- Lanes that the placement engine allows for an item: a tile goes where its core reaches its memories (R90, R98). A tile that no
core can take is left to the check of the engine. -/
def State.lanesFor (s : State) (p kind : Nat) (words : List Nat) : List Nat :=
  if kind = 0 then
    let ls := (kindLanes 0).filter fun l => s.tileOk (coreOf p l) false (decodeTile words)
    if ls.isEmpty then kindLanes 0 else ls
  else kindLanes kind

/-- Open time that a compute lane may fill (R93): half the share in the eight ticks after a clamp (R504). -/
def State.laneBudget (s : State) (p l : Nat) : Nat :=
  (if s.mgt.halfTicks = 0 then s.rd F.TICK_OPEN_SHARE.open_share p else s.rd F.TICK_OPEN_SHARE.open_share p / 2) *
    ((gapsOf (s.partOf p).col l).foldl (fun a g => a + (g.2 - g.1)) 0) / 1024

/-- The lowest `n` threads outside the radio mask of a Spur lane. -/
def State.openThreads (s : State) (p l n : Nat) : Option Nat :=
  let ts := (List.range 8).filter fun t => !bit (s.rd F.SPR_CTRL.radio_mask (spurOf p l)) t
  if ts.length < n then none else some ((ts.take n).foldl (fun m t => m + 2 ^ t) 0)

def popThreads (m : Nat) : Nat := ((List.range 8).filter fun t => bit m t).length

/-- An item that has been attempted and waits or runs. -/
def WlItem.attempted (it : WlItem) : Bool := it.st.isRunning || (it.st == .waiting && 0 < it.aborts)

/-- Cycles of a lane that attempted and ended items have taken. -/
def laneUsed (wl : List WlItem) (l : Nat) : Nat :=
  (wl.filter fun o => o.lane == l && (o.attempted || o.st == .done)).foldl (fun a o => a + o.need) 0

/-- A gap of a lane that has room for a replay after cycle `cyc`: items that were attempted come before it, the others give way. -/
def State.roomAt (s : State) (p l cyc : Nat) (it : WlItem) : Option Nat :=
  let x := s.partOf p
  if !s.laneOk p l || s.laneBudget p l < laneUsed x.wl l + it.need ||
      (spurLane l && (s.openThreads p l (popThreads it.thr)).isNone) then none
  else
    ((gapsOf x.col l).zipIdx.find? fun g =>
      let mine := x.wl.filter fun o => o.lane == l && o.gap == g.2
      let busy := (mine.filter fun o => o.st == .waiting && 0 < o.aborts).foldl (fun a o => a + o.need) 0
      let from_ := mine.foldl (fun a o => match o.st with | .running t => max a (t + o.est) | _ => a) (max cyc g.1.1)
      cyc < g.1.2 && from_ + busy + it.need ≤ g.1.2).map (·.2)

/-- Items that have not been attempted and no longer fit behind a replay wait for the next tick. -/
def State.giveWay (s : State) (p l : Nat) : State :=
  let x := s.partOf p
  let size (g : Nat) : Nat := match (gapsOf x.col l)[g]? with | some y => y.2 - y.1 | none => 0
  let r := x.wl.zipIdx.foldl (fun (a : List Nat × KMap Nat × Nat) o =>
    if o.1.lane != l || o.1.st != .waiting || 0 < o.1.aborts then a
    else
      let inGap := kget a.2.1 o.1.gap (((x.wl.filter fun y => y.lane == l && y.gap == o.1.gap && y.attempted).foldl (fun a y => a + y.need) 0))
      if inGap + o.1.need ≤ size o.1.gap && a.2.2 + o.1.need ≤ s.laneBudget p l then
        (a.1, kset a.2.1 o.1.gap (inGap + o.1.need), a.2.2 + o.1.need)
      else (a.1 ++ [o.2], a.2)) ([], [], laneUsed x.wl l)
  s.setPart p { x with wl := r.1.foldl (fun wl i => markDeps (wl.modify i fun it => { it with st := .abandoned }) i) x.wl }

/-- The descriptor of an item moves to the region of the cluster that its new lane lies in. -/
def State.moveDesc (s : State) (p : Nat) (it : WlItem) (l : Nat) (words : List Nat) : Option (State × WlItem) :=
  let cl := if coreLane l then l / 4 else if spurLane l then (l - 16) / 16 else it.cl
  if cl = it.cl then some (s, { it with lane := l })
  else
    let x := s.partOf p
    let k := x.slots.getD cl 0
    let n := if words.length = 16 then 2 else 1
    if 1024 < k + n then none
    else
      let a := s.rd F.MSF_DESC_BASE.base (4 * p + cl) + 64 * k
      let s := if words.isEmpty then s else s.store a (words.flatMap (leBytes 8)) devKey
      some (s.setPart p { s.partOf p with slots := x.slots.set cl (k + n) }, { it with lane := l, cl := cl, slot := k, desc := a })

/-- An item that was aborted after it started waits for its replay: in the same tick where a gap of an allowed lane has room after
a radio window or a fence, else in the next (R90). -/
def State.requeue (s : State) (p i cyc : Nat) (sameTick : Bool) : State :=
  match s.item? p i with
  | none => s
  | some it0 =>
    let it := { it0 with aborts := it0.aborts + 1, st := .aborted }
    let s := s.modItem p i fun _ => it
    let words := if it.kat then [] else (List.range (if it.kind = 1 then 16 else 8)).map fun k => s.memLE (it.desc + 8 * k) 8
    let lanes := if it.kat then [it.lane] else it.lane :: ((s.lanesFor p it.kind words).filter (· != it.lane))
    let found := if !sameTick || s.time.edges == false then none else lanes.findSome? fun l =>
      match s.roomAt p l cyc it with
      | none => none
      | some g => (s.moveDesc p it l words).map fun r => (r.1, { r.2 with gap := g, st := ItemState.waiting
                                                                          thr := if spurLane l then (s.openThreads p l (popThreads it.thr)).getD it.thr else it.thr })
    let r := found.getD (s, it)
    let s := r.1.modItem p i fun _ => r.2
    let s := s.setPart p { s.partOf p with wl := markDeps (s.partOf p).wl i }
    if found.isSome then s.giveWay p r.2.lane else s

/-! ## Tiles -/

/-- Add cell-cycles to a counter in units of 2^20, keeping the remainder (R126). -/
def State.addOps (s : State) (n act gated : Nat) : State :=
  let c := s.core n
  let a := c.actRem + act
  let g := c.gateRem + gated
  let s := s.setCore n { c with actRem := a % 2 ^ 20, gateRem := g % 2 ^ 20 }
  (s.bump F.MSF_OPS.active_mcell n (a / 2 ^ 20)).bump F.MSF_OPS.gated_mcell n (g / 2 ^ 20)

/-- Input ranges of a tile (R98). -/
def Tile.inputs (t : Tile) : List (Nat × Nat) :=
  if t.empty then [] else
  [(t.aAddr, (t.rows - 1) * t.aRow + rowBytes t.afmt t.kLen), (t.wAddr, t.ks * t.ns * t.wTile),
   (t.cAddr, if t.accInit = 1 then t.outBytes else 0), (t.deltaAddr, if t.deltaEn then t.ks * t.ns * 8 else 0),
   (t.ascaleAddr, if isMx t.afmt then t.rows * t.asr else 0)]

/-- Poisoned inputs: in the core's own scratchpad, and elsewhere (R194). -/
def State.tilePoison (s : State) (n : Nat) (t : Tile) : Bool × Bool :=
  let ents := if t.deltaEn && !t.empty then (List.range (t.ks * t.ns)).map fun st =>
      let seg := s.memLE (t.deltaAddr + 8 * st) 8
      (t.deltaAddr + bits seg 31 0, 4 * bits seg 47 32)
    else []
  let hit (own : Bool) := (t.inputs ++ ents).any fun r => s.poison.any fun w =>
    overlaps r.1 r.2 (w * 32) 32 && (within (w * 32) 32 (padBase n) 0x600000 == own)
  (hit true, hit false)

/-- A radio descriptor keeps the background bank only within one tick (R102). -/
def State.bgOk (s : State) (n : Nat) (t : Tile) : Bool := t.accInit != 2 || (s.core n).bgTick == some s.time.tick

/-- The engine takes a descriptor that passed its check, at absolute cycle `at_`; a radio window makes the weight buffers invalid
(R120). -/
def State.tileBegin (s : State) (n : Nat) (words : List Nat) (radio : Bool) (slice at_ : Nat) : State :=
  let c := s.core n
  let s := s.setCore n { c with
    run := some { desc := words, since := at_, radio := radio, slice := slice }
    wreg := if radio then [] else c.wreg, bgTick := if radio then some s.time.tick else c.bgTick }
  (s.put F.MSF_STAT.busy 1 n).put F.MSF_STAT.bg_active (b2n radio) n

/-- The engine is idle again, with the end of its descriptor (R126: 0 done, 1 aborted, 2 check failed). -/
def State.tileOver (s : State) (n tag last : Nat) : State :=
  let s := s.setCore n { s.core n with run := none }
  let s := (s.put F.MSF_STAT.busy 0 n).put F.MSF_STAT.bg_active 0 n
  (s.put F.MSF_LAST.last_tag tag n).put F.MSF_LAST.last_end last n

/-- A descriptor that failed its check. -/
def State.descFailed (s : State) (n tag : Nat) : State :=
  ((s.put F.MSF_STAT.desc_err 1 n).put F.MSF_LAST.last_tag tag n).put F.MSF_LAST.last_end 2 n

/-- The end of a tile: its arithmetic, its outputs, its flags (R103–R111, R138–R142). Array-cycles are metered to the core. -/
def State.tileDone (s : State) (n : Nat) (r : RunningTile) (cycles : Nat) : State :=
  let t := decodeTile r.desc
  let c := s.core n
  let res := s.runTile t (if r.radio then c.bg else c.fg)
  let s := s.retireTile t res.bank
  let c := s.core n
  let s := s.setCore n (if r.radio then { c with bg := res.bank, wreg := [] }
    else { c with fg := res.bank, fgSeed := none, wreg := res.wreg })
  let s := if res.sat then s.put F.MSF_STAT.acc_sat 1 n else s
  let s := if res.deltaErr then s.put F.MSF_STAT.delta_err 1 n else s
  let s := s.orf F.MSF_STAT.strict_flags res.flags n
  let s := s.addOps n res.active res.gated
  let l := coreLaneOf n
  (((s.bump F.MSF_CYC.array_cyc n (cycles * t.arr.length)).tileOver n t.tag 0)).endRec l.1 l.2 t.tag 0

/-- Abort the open tile that a core runs, at cycle `cyc` (R88–R91, R119, R120). -/
def State.abortTile (s : State) (p i cyc : Nat) (why : AbortPoint) : State :=
  match s.item? p i with
  | none => s
  | some it =>
    match it.st with
    | .running since =>
      let n := coreOf p it.lane
      let d := decodeTile (((s.core n).run.map (·.desc)).getD [])
      let arrays := if it.kat then 4 else d.arr.length
      let q := (cyc - since) * arrays
      let free := why == .step || why == .clamp
      let s := s.bump F.MSF_CYC.array_cyc n q
      let s := if free || it.kat then s else s.charge it.rows d.slice [0, 2] q
      let s := if free then s else s.bump F.TICK_REPLAY.replay_cyc p q
      let s := if why = .radio then s.bump F.TICK_ABORT.abort_radio p else s.bump F.TICK_ABORT.abort_edge p
      let s := (s.tileOver n d.tag 1).endRec p it.lane d.tag 1
      let s := s.setCore n { s.core n with fg := [], fgSeed := some s.free, wreg := [] }
      s.drawn.requeue p i cyc (why == .radio || why == .fence)
    | _ => s

/-- An open tile ends as done at cycle `cyc`: the charge of its rows (R291, R455), its item and its pass. -/
def State.finishTile (s : State) (p i cyc : Nat) : State :=
  match s.item? p i with
  | none => s
  | some it =>
    match it.st, (s.core (coreOf p it.lane)).run with
    | .running since, some r =>
      let t := decodeTile r.desc
      let s := s.tileDone (coreOf p it.lane) r (cyc - since)
      let s := if s.itemFree it then s else s.charge it.rows t.slice [0] ((cyc - since) * t.arr.length)
      (s.modItem p i fun it => { it with st := .done }).settle p it.pass
    | _, _ => s

/-- Cycles of the tile of an item by its own count (R118). -/
def State.itemCycles (s : State) (p : Nat) (it : WlItem) : Nat :=
  match (s.core (coreOf p it.lane)).run with
  | some r => s.tileCycles (coreOf p it.lane) (decodeTile r.desc)
  | none => 0
def State.itemRet (s : State) (p : Nat) (it : WlItem) : Nat :=
  match (s.core (coreOf p it.lane)).run with
  | some r => (decodeTile r.desc).retCycles
  | none => 0

/-- Something stops the open tile of an item at cycle `cyc` (R88, R89): one whose retire phase has begun by its own count completes; one
that had passed its first abort point was aborted there; any other is aborted now. A tile that no command has ended runs by its own
count (DESIGN CHOICE, log 88). -/
def State.interruptTile (s : State) (p i cyc : Nat) (why : AbortPoint) : State :=
  match s.item? p i with
  | none => s
  | some it =>
    match it.st with
    | .running since =>
      let stop := s.nextStop p it.lane since
      let fin := since + s.itemCycles p it
      if !it.kat && fin ≤ stop && fin ≤ cyc + s.itemRet p it then s.finishTile p i fin
      else if stop ≤ cyc then s.abortTile p i stop (s.stopKind p stop)
      else s.abortTile p i cyc why
    | _ => s

/-! ## Jobs (R152, R157, R161–R166) -/

/-- Words of a 128-byte job descriptor. -/
def State.jobWords (s : State) (a : Nat) : List Nat := (List.range 16).map fun i => s.memLE (a + 8 * i) 8

/-- The windows of a job descriptor. -/
def jobWins (d : List Nat) : List Window :=
  (List.range 4).map fun w =>
    let lo := d.getD (2 + 2 * w) 0
    let hi := d.getD (3 + 2 * w) 0
    { base := bits lo 47 0, limit := bits hi 47 0, rd := bit hi 48, wr := bit hi 49, cache := bit hi 50 }

/-- A range that a radio group of Spur core `n` may reach (R154). -/
def State.radioReach (s : State) (n a len : Nat) : Bool :=
  within a len (pinnedBase (spurPart n)) 0x2000000 ||
  (span (4 * spurCl n) 4).any fun c => within a len (s.spRsv c).1 (s.spRsv c).2

/-- A window of an open job reaches into a reserved scratchpad region, or, but on the MXD1-I, into pinned radio SRAM (R154, R192). -/
def State.openReach (s : State) (a len : Nat) : Bool := len != 0 && s.openBad a len

/-- The descriptor check (R163, R192). -/
def State.jobOk (s : State) (n : Nat) (radio : Bool) (d : List Nat) : Bool :=
  let w i := d.getD i 0
  bits (w 0) 63 49 == 0 && bits (w 0) 1 0 == 0 && bits (w 1) 63 53 == 0 && bits (w 1) 52 48 ≤ 16 &&
  (List.range 4).all (fun i => bits (w (2 + 2 * i)) 63 48 == 0 && bits (w (3 + 2 * i)) 63 51 == 0) &&
  bits (w 10) 63 44 == 0 && (List.range 5).all (fun i => w (11 + i) == 0) &&
  (jobWins d).all fun x => x.base ≤ x.limit && (if radio then x.base == x.limit || s.radioReach n x.base (x.limit - x.base)
    else !s.openReach x.base (x.limit - x.base))

/-- Threads of a mask. -/
def threadsOf (mask : Nat) : List Nat := (List.range 8).filter fun t => bit mask t

/-- No thread of the mask carries a job or a known-answer run. -/
def State.threadsFree (s : State) (n mask : Nat) : Bool :=
  (threadsOf mask).all fun t => (s.thread (8 * n + t)).job.isNone && (s.thread (8 * n + t)).st == .idle

/-- A job starts (R152): every register of its threads is set. -/
def State.startJob (s : State) (n mask : Nat) (d : List Nat) (radio : Bool) (p item at_ : Nat) : State :=
  let w i := d.getD i 0
  let ts := threadsOf mask
  let key := 8 * n + ts.headD 0
  let nArg := bits (w 1) 52 48
  let args := (List.range nArg).map fun i => s.memLE (bits (w 1) 47 0 + 8 * i) 8
  let j : Job := {
    radio := radio, entry := bits (w 0) 47 0, tag := bits (w 10) 31 0, slice := bits (w 10) 43 32, mask := mask,
    wins := jobWins d, part := p, item := item, since := at_ }
  let s := s.withJobs (kset s.jobs key j)
  let s := ts.zipIdx.foldl (fun s t =>
    let g0 : Vector Word 32 := Vector.replicate 32 0
    let g1 := (g0.set 1 (BitVec.ofNat 64 t.2)).set 2 (BitVec.ofNat 64 ts.length)
    let g := args.zipIdx.foldl (fun (g : Vector Word 32) a =>
      if h : 3 + a.2 < 32 then g.set (3 + a.2) (BitVec.ofNat 64 a.1) else g) g1
    s.setThread (8 * n + t.1) { Thread.zero with
      st := .ready, g := g, pc := BitVec.ofNat 48 (bits (w 0) 47 0), job := some key, rank := t.2 }) s
  s.put F.SPR_STAT.busy 1 n

/-- `busy` of a Spur core: a job or a known-answer run is on some thread. -/
def State.showBusy (s : State) (n : Nat) : State :=
  s.put F.SPR_STAT.busy (b2n ((List.range 8).any fun t => (s.thread (8 * n + t)).st != .idle)) n

/-- A job leaves its core: its threads are IDLE. -/
def State.clearJob (s : State) (n key : Nat) (mask : Nat) : State :=
  let s := s.withJobs (kdel s.jobs key)
  ((threadsOf mask).foldl (fun s t => s.setThread (8 * n + t) Thread.zero) s).showBusy n

/-- Threads that a known-answer run of a Spur core takes: every open one (R168). The manual's "all eight threads" stand when no thread
is reserved; with reserved ones it runs on the others (DESIGN CHOICE, log 89). -/
def State.katMask (s : State) (n : Nat) : Nat := 255 - s.rd F.SPR_CTRL.radio_mask n
def State.katThreads (s : State) (n mask : Nat) (st : TState) : State :=
  ((threadsOf mask).foldl (fun s t => s.setThread (8 * n + t) { Thread.zero with st := st }) s).showBusy n

/-- Posted stores of a thread become visible, in order. -/
def State.drainStores (s : State) (th : Nat) : State :=
  let t := s.thread th
  let s := t.sq.foldl (fun s p => s.postStore th p) s
  s.setThread th { t with sq := [] }

/-- Every thread of a job has halted or faulted (R162). -/
def State.jobHalted (s : State) (n : Nat) (j : Job) : Bool :=
  (threadsOf j.mask).all fun t => (s.thread (8 * n + t)).st == .halted && !(s.thread (8 * n + t)).dbg

/-- Thread-cycles of a job that ends now: each thread to its HALT or fault; an open job's write-back counts to its last
thread. -/
def State.jobCycles (s : State) (n : Nat) (j : Job) : Nat :=
  let sp := (threadsOf j.mask).map fun t => ((s.thread (8 * n + t)).spent).getD (s.absCyc - j.since)
  let sum := sp.foldl (· + ·) 0
  if j.radio then sum else sum - sp.foldl max 0 + max (sp.foldl max 0) (s.absCyc - j.since)

/-- The end record of a job (R162): 0 done, 1 aborted, 2 descriptor check failed, 3 fault. -/
def State.jobRec (s : State) (n tag status : Nat) : State := s.endRec (spurLaneOf n).1 (spurLaneOf n).2 tag status

/-- A radio job leaves its core before it ended: its time is metered to the radio (R162). -/
def State.cutRadioJob (s : State) (n key : Nat) : State :=
  match kfind s.jobs key with
  | none => s
  | some j => ((s.bump F.SPR_RCYC.radio_thr_cyc n (s.jobCycles n j)).clearJob n key j.mask).jobRec n j.tag 1

/-- A parked access of an aborted job completes at its memory and is discarded (R157). -/
def State.finishParked (s : State) (th : Nat) : State :=
  let t := s.thread th
  let unp (s : State) : State :=
    let c := s.spur (th / 8)
    s.setSpur (th / 8) { c with remote := c.remote - 1 }
  match t.wait with
  | some (.atomic op a n _ opnd cmp sgn key) => unp (if s.accStatus a n key = St.ok then ((s.meter th a n).atomicAt a n key op sgn opnd cmp).1 else s)
  | some (.load _ _ _ _ _ _) => unp s
  | some (.fabric _ _ _ tid node) =>
    -- a request to the device's own node is performed now; others are answered later, to nobody
    if node = s.ownNode then
      match s.fabReqs.find? fun q => q.dst == node && q.tid == tid with
      | some q =>
        let r := s.perform1 q.op q.addr q.len q.value q.newv q.key (q.op == 3 || q.op == 4) q.dev q.data
        unp (r.1.endReq q)
      | none => unp s
    else unp s
  | some (.ftap w) =>
    let c := s.spur (th / 8)
    s.setSpur (th / 8) { c with remote := c.remote - w.remote }
  | some (.storeRoom p) => s.postStore th p
  | _ => s

/-- Abort an open job (R157, R165): dirty lines are discarded, queued stores complete, the attempt is charged. -/
def State.abortJob (s : State) (n key cyc : Nat) (why : AbortPoint) : State :=
  match kfind s.jobs key with
  | none => s
  | some j =>
    if j.radio then s
    else
      let ths := (threadsOf j.mask).map (8 * n + ·)
      let q := (ths.map fun th => ((s.thread th).spent).getD (s.absCyc - j.since)).foldl (· + ·) 0
      let free := why == .step || why == .clamp
      let s := s.bump F.SPR_CYC.open_thr_cyc n q
      let s := if free then s else (s.count j.slice 1 q).count j.slice 3 q
      let s := ths.foldl (fun s th => (s.drainStores th).finishParked th) s
      let s := (ths.filter fun th => (s.thread th).dbg).foldl (fun s th => s.dbgEvent (tgtThread th) 2 (s.thread th).pc.toNat) s
      ((s.clearJob n key j.mask).jobRec n j.tag 1).requeue j.part j.item cyc (why == .fence)

/-! ## Defects, fences, substitutions (R122, R123, R167, R446, R458, R459) -/

/-- Cairn records a defect: queued for the next map write, unless it is known (R446). -/
def State.defect (s : State) (kind cause unit pos : Nat) : State :=
  let same (d : Defect) := d.kind.val == kind && d.unit.toNat == unit && d.pos.toNat == pos
  if s.bring.dm.any same || s.bring.dmQueue.any same then s
  else if 4096 ≤ s.bring.dm.length + s.bring.dmQueue.length then s.put F.RST_DM.dm_full 1
  else
    let d : Defect := { kind := Fin.ofNat 16 kind, cause := Fin.ofNat 16 cause, unit := BitVec.ofNat 16 unit, pos := BitVec.ofNat 16 pos }
    (s.withBring { s.bring with dmQueue := s.bring.dmQueue ++ [d] }).put F.RST_DM.dm_pending 1

/-- What a fence leaves on the physical unit `key` (R459): defects by cause 2 or 4, or a second hang, hold it until reset. -/
def State.fencePhys (s : State) (key cause : Nat) : State :=
  let x := s.physOf key
  let hangs := if cause = 3 then x.hangs + 1 else x.hangs
  let rec_ := if cause = 2 then some 3 else if cause = 4 then some 2 else if cause = 3 ∧ 2 ≤ hangs then some 5 else none
  let s := s.setPhys key { x with fenced := true, cause := cause, hangs := hangs, bad := x.bad || rec_.isSome }
  match rec_ with
  | some c =>
    if key < 1024 then s.defect 0 c (key / 32) (key % 32) else s.defect 1 c ((key - 1024) / 32) (key % 32)
  | none => s

/-- The healthy spare of a cluster among `ks`. -/
def State.findSpare (s : State) (ks : List Nat) : Option Nat :=
  ks.find? fun k => (s.physOf k).spare && !(s.physOf k).bad

/-- Array-cycles of the radio descriptor that a core runs (R119). -/
def State.meterRadio (s : State) (n : Nat) : State :=
  match (s.core n).run with
  | some r => if r.radio then s.bump F.MSF_CYC.array_cyc n ((s.absCyc - r.since) * (decodeTile r.desc).arr.length) else s
  | none => s

/-- Work of a lane when its unit stops: a RADIO entry that runs is lost (R38), its time metered (R119, R162). -/
def State.loseRadio (s : State) (p l : Nat) : State :=
  let s := if coreLane l then s.meterRadio (coreOf p l) else s
  let s := if spurLane l then
      (s.jobs.filter fun j => j.1 / 8 == spurOf p l && j.2.radio).foldl (fun s j => s.cutRadioJob (spurOf p l) j.1) s
    else s
  ((s.partOf p).col.zipIdx.filter fun x => x.1.lane == l && x.1.st.isRunning).foldl (fun s x =>
    (s.setSlot p x.2 .missed).missed p x.1.desc) s

/-- Running items of a lane. -/
def State.runningItems (s : State) (p l : Nat) : List Nat :=
  ((s.partOf p).wl.zipIdx.filter fun x => x.1.lane == l && x.1.st.isRunning).map (·.2)

/-- A lost unit carried radio rows: a re-proof is due at the next frame boundary (R39, R169). -/
def State.lostLane (s : State) (p l : Nat) : State :=
  if s.carriesRadio p l then s.setPart p { s.partOf p with reproof := true } else s

/-- A logical unit without a spare is absent (R23). -/
def State.loseCore (s : State) (n : Nat) : State :=
  if s.on F.MSF_MAP.absent n then s else
  ((s.lostLane (coreLaneOf n).1 (coreLaneOf n).2).put F.MSF_MAP.absent 1 n).put F.RST_CL_STAT.absent_cores (s.rd F.RST_CL_STAT.absent_cores (n / 4) + 1) (n / 4)
def State.loseSpur (s : State) (n : Nat) : State :=
  if s.on F.SPR_MAP.absent n then s else
  ((s.lostLane (spurLaneOf n).1 (spurLaneOf n).2).put F.SPR_MAP.absent 1 n).put F.RST_CL_STAT.absent_spur (s.rd F.RST_CL_STAT.absent_spur (n / 16) + 1) (n / 16)

/-- Choose a spare for a fenced core, or mark it absent. -/
def State.seekCore (s : State) (n : Nat) : State :=
  let cl := n / 4
  match s.findSpare ((List.range 5).map (slotKey cl)) with
  | some k =>
    (s.setPhys k { s.physOf k with spare := false }).setCore n { s.core n with subst := some (k % 32), copied := false }
  | none => s.loseCore n

/-- Everything a core runs stops now, as at a fence (R123): an open tile, a known-answer run, a radio descriptor; the weight buffers are
invalid (R120). -/
def State.stopCoreWork (s : State) (n : Nat) : State :=
  let p := (coreLaneOf n).1
  let l := (coreLaneOf n).2
  let s := (s.runningItems p l).foldl (fun s i => s.interruptTile p i s.cycNow .fence) s
  let s := s.loseRadio p l
  s.setCore n { s.core n with wreg := [] }

/-- Fence logical core n (R122, R123). -/
def State.fenceCore (s : State) (n cause : Nat) : State :=
  if s.on F.MSF_STAT.fenced n || !(n < s.nCores) || s.on F.MSF_MAP.absent n then s
  else
    let s := s.stopCoreWork n
    let s := (s.put F.MSF_STAT.fenced 1 n).put F.MSF_STAT.fence_cause cause n
    let s := s.tileOver n (s.rd F.MSF_LAST.last_tag n) (s.rd F.MSF_LAST.last_end n)
    let s := s.fencePhys (slotKey (n / 4) (s.rd F.MSF_MAP.phys_slot n)) cause
    (s.service 3 Ev.fence cause n).seekCore n

def State.seekSpur (s : State) (n : Nat) : State :=
  let cl := n / 16
  match s.findSpare ((List.range 18).map (posKey cl)) with
  | some k =>
    (s.setPhys k { s.physOf k with spare := false }).setSpur n { s.spur n with subst := some (k % 32), copied := false }
  | none => s.loseSpur n

/-- Jobs of a Spur core: key and job. -/
def State.jobsOf (s : State) (n : Nat) : List (Nat × Job) := s.jobs.filter fun j => j.1 / 8 == n

/-- Everything a Spur core runs stops now: open jobs and known-answer runs abort and are replayed, radio jobs are lost (R167). -/
def State.stopSpurWork (s : State) (n : Nat) : State :=
  let p := (spurLaneOf n).1
  let l := (spurLaneOf n).2
  let s := (s.jobsOf n).foldl (fun s j => s.abortJob n j.1 s.cycNow .fence) s
  let s := (s.runningItems p l).foldl (fun s i =>
    (if ((s.item? p i).map (·.kat)).getD false then s.katThreads n (((s.item? p i).map (·.thr)).getD 0) .idle else s).requeue
      p i s.cycNow true) s
  s.loseRadio p l

/-- Fence logical Spur core n (R167). -/
def State.fenceSpur (s : State) (n cause : Nat) : State :=
  if s.on F.SPR_STAT.fenced n || !(n < s.nSpur) || s.on F.SPR_MAP.absent n then s
  else
    let s := s.stopSpurWork n
    let s := (s.put F.SPR_STAT.fenced 1 n).put F.SPR_STAT.fence_cause cause n
    let s := s.fencePhys (posKey (n / 16) (s.rd F.SPR_MAP.phys_pos n)) cause
    (s.service 3 Ev.fence cause (128 + n)).seekSpur n

/-- RST.SUB and the counts of a substitution. -/
def State.noteSub (s : State) (kind unit old new cause cl : Nat) : State :=
  let s := (s.put F.RST_SUB.sub_kind kind).put F.RST_SUB.sub_unit unit
  let s := (s.put F.RST_SUB.sub_old old).put F.RST_SUB.sub_new new
  let s := (s.put F.RST_SUB.sub_cause cause).bump F.RST_SUB.sub_cnt
  (s.bump F.RST_CL_STAT.subs cl).service 3 Ev.substitution unit

/-- The scratchpad of a substituted core: the spare's zeroed SRAM with the restore image of the reserved region (R458). -/
def State.restorePad (s : State) (n : Nat) : State :=
  let a := padBase n
  let out (x : Nat) : Bool := !(a ≤ x && x < a + 0x800000)
  (s.core n).image.foldl (fun s c => s.memWr c.1 [c.2]) ((s.memKeep out).poisonKeep out)

/-- Commit the maps of a substituted core (R38, R447, R458). -/
def State.commitCore (s : State) (n : Nat) : State :=
  match (s.core n).subst with
  | none => s
  | some k =>
    let old := s.rd F.MSF_MAP.phys_slot n
    let cause := s.rd F.MSF_STAT.fence_cause n
    let s := s.restorePad n
    let s := s.setCore n { s.core n with fg := [], bg := [], fgSeed := none, wreg := [], bgTick := none, subst := none, copied := false }
    let s := (s.put F.MSF_MAP.phys_slot k n).put F.MSF_MAP.spare_used 1 n
    let s := (s.put F.MSF_STAT.fenced 0 n).put F.MSF_STAT.fence_cause 0 n
    let s := s.put F.RST_CL_STAT.spare_cores (s.rd F.RST_CL_STAT.spare_cores (n / 4) - 1) (n / 4)
    s.noteSub 0 n old k cause (n / 4)

/-- Commit the map of a substituted Spur core (R169). -/
def State.commitSpur (s : State) (n : Nat) : State :=
  match (s.spur n).subst with
  | none => s
  | some k =>
    let old := s.rd F.SPR_MAP.phys_pos n
    let cause := s.rd F.SPR_STAT.fence_cause n
    let s := (List.range 8).foldl (fun s t => s.setThread (8 * n + t) Thread.zero) s
    -- the spare receives the radio mask and the ways, and PCp fills its locked ways (R169)
    let s := (s.setSpur n { s.spur n with remote := 0, iopen := [], subst := none, copied := false }).fillLocked n
    let s := (s.put F.SPR_MAP.phys_pos k n).put F.SPR_MAP.spare_used 1 n
    let s := (s.put F.SPR_STAT.fenced 0 n).put F.SPR_STAT.fence_cause 0 n
    let s := s.put F.RST_CL_STAT.spare_spur (s.rd F.RST_CL_STAT.spare_spur (n / 16) - 1) (n / 16)
    s.noteSub 1 n old k cause (n / 16)

end Sys2Proof.Machine
end

