-- ==== Sys2Proof/Machine/Lanes.lean ====
section
/-! DEFINITION. The lane commands (R87–R92, R122–R124, R154–R169, R181, R215–R217, R289): radio windows, work-list items, tiles,
jobs, known-answer runs, fences, substitutions and DMA transfers. A cycle operand `cyc` counts from the tick edge. -/

namespace Sys2Proof.Machine

/-! ## Radio windows (R69, R78, R87) -/

/-- A RADIO entry that is not run: reported to the radio layer as a missed window. -/
def State.missEntry (s : State) (p e : Nat) (x : ColSlot) : State := (s.setSlot p e .missed).missed p x.desc

/-- With an event besides (R69, R116, R166). -/
def State.missEvent (s : State) (p e : Nat) (x : ColSlot) : State :=
  (s.missEntry p e x).event 2 1 Ev.radioDesc (x.lane + 128 * e) (pc p)

/-- The open tile of a lane has stopped at its abort point when a radio window starts (R26, R88). -/
def State.yieldLane (s : State) (p l cyc : Nat) : State :=
  if coreLane l then (s.runningItems p l).foldl (fun s i => s.interruptTile p i cyc .radio) s else s

/-- An entry blocked by an earlier one of its lane: on a Spur lane, one that shares a thread. -/
def State.laneBusy (s : State) (p : Nat) (x : ColSlot) : Bool :=
  (s.partOf p).col.any fun y => y.lane == x.lane && y.st.isRunning && (!spurLane x.lane || y.thr &&& x.thr != 0)

/-- Start the descriptor of a RADIO entry on its unit, or report it missed. -/
def State.runEntry (s : State) (p e cyc : Nat) (x : ColSlot) : State :=
  let go (s : State) := s.setSlot p e (.running (s.absAt cyc))
  if coreLane x.lane then
    let n := coreOf p x.lane
    let ws := s.descWords x.desc
    let t := decodeTile ws
    if !(s.tileOk n true t && s.bgOk n t) then ((s.descFailed n t.tag).endRec p x.lane t.tag 2).missEvent p e x
    else
      let po := s.tilePoison n t
      if po.1 then ((s.put F.MSF_STAT.ue_err 1 n).fenceCore n 2).missEntry p e x
      else if po.2 then s.missEntry p e x
      else go (s.tileBegin n ws true 0 (s.absAt cyc))
  else if spurLane x.lane then
    let n := spurOf p x.lane
    let ws := s.jobWords x.desc
    if !s.jobOk n true ws then
      ((s.put F.SPR_STAT.desc_err 1 n).jobRec n (bits (ws.getD 10 0) 31 0) 2).missEvent p e x
    else if !s.threadsFree n x.thr then s.missEntry p e x
    else go (s.startJob n x.thr ws true p e (s.absAt cyc))
  else if dmaLane x.lane then
    let ws := s.descWords x.desc
    if (decodeDma ws).radio && s.dmaOk (decodeDma ws) then go (s.dmaBegin (engOf p x.lane) ws (some e)) else s.missEntry p e x
  else
    let d := s.fhDesc x.desc
    let slot := ((s.cell? d.cell).map fun c => (s.slotAt (ceMu c.ent) (s.time.tick + d.tickRel)).2).getD 0
    if s.fhOk p x.desc slot d then go (s.fhStart p e x.desc)
    else ((s.setSlot p e .missed).missedFh d.cell (d.dir == 0) d.tickRel).event 2 1 Ev.radioDesc (x.lane + 128 * e) (pc p)

/-- RADIO_WINDOW_START: at or after the entry's start, when the earlier entry of its lane has ended. One that could then end only
after the next tick edge is missed (R87). -/
def State.radioStart (s : State) (p e cyc : Nat) : State :=
  match (s.partOf p).col[e]? with
  | none => s
  | some x =>
    if x.kind ≠ 0 ∨ x.st ≠ .waiting ∨ cyc < x.start ∨ cyc < s.cycNow ∨ s.time.edges = false ∨ s.time.cut ∨ s.seqRuns p = false ∨
        s.on F.TICK_STAT.running p = false then s
    else
      let s := s.atCyc cyc
      if !s.laneOk p x.lane then s.missEvent p e x
      else if s.laneBusy p x then s
      else if 412500 < cyc + x.len then s.missEntry p e x
      else (s.yieldLane p x.lane cyc).runEntry p e cyc x

def execRadioWindowStart (p : Fin 8) (e : Fin 4096) (cyc : Fin 412501) (s : State) : Res := .next (s.radioStart p e cyc)

/-- The unit of a RADIO entry has ended its descriptor by cycle `cyc`: Massif and fronthaul descriptors end with the entry, a job and
a transfer before it. -/
def State.entryEnds (s : State) (p e since : Nat) (x : ColSlot) (cyc : Nat) : Option State :=
  if coreLane x.lane then
    let n := coreOf p x.lane
    match (s.core n).run with
    | some r => if since + s.tileCycles n (decodeTile r.desc) ≤ s.absAt cyc then some (s.tileDone n r (s.absAt cyc - since)) else none
    | none => none
  else if spurLane x.lane then
    let n := spurOf p x.lane
    match (s.jobsOf n).find? fun j => j.2.radio && j.2.item == e with
    | none => some s
    | some j =>
      -- a thread that the debug port halts ends with the window (R484)
      let held := ((threadsOf j.2.mask).map (8 * n + ·)).filter fun th => (s.thread th).dbg
      if held.isEmpty || s.absAt cyc < since + x.len then none
      else
        let s := held.foldl (fun s th => s.dbgEvent (tgtThread th) 2 (s.thread th).pc.toNat) s
        some ((s.cutRadioJob n j.1).missed p x.desc)
  else if dmaLane x.lane then
    if (s.dmasOf (engOf p x.lane)).any fun t => t.radio && t.item == some e then none else some s
  else some (s.fhEnd p e)

/-- A RADIO entry runs on past its span (R87): noted once. -/
def State.noteOverrun (s : State) (p e : Nat) (x : ColSlot) : State :=
  if x.late then s
  else
    let s := s.setPart p { s.partOf p with col := (s.partOf p).col.modify e fun y => { y with late := true } }
    let s := (s.put F.TICK_STAT.overrun 1 p).bump F.TICK_OVERRUN.overrun_cnt p
    let s := s.put F.TICK_OVERRUN.last_lane x.lane p
    let s := s.put F.TICK_OVERRUN.last_col (s.rd F.TICK_STAT.cur_col p) p
    s.service 2 Ev.overrun x.lane (pc p)

/-- RADIO_WINDOW_END: past `start` + `len` it counts as an overrun; an uncorrectable error that a core meets in its weight register or
bank, or a Spur core in its memories, fences the unit (R122, R167). -/
def State.radioEnd (s : State) (p e cyc : Nat) (ue : Bool) : State :=
  match (s.partOf p).col[e]? with
  | none => s
  | some x =>
    match x.st with
    | .running since =>
      if s.absAt cyc < since ∨ cyc < s.cycNow then s
      else if ue && coreLane x.lane then
        let s := s.atCyc cyc
        (s.put F.MSF_STAT.ue_err 1 (coreOf p x.lane)).fenceCore (coreOf p x.lane) 2
      else if ue && spurLane x.lane then
        let s := s.atCyc cyc
        (s.put F.SPR_STAT.ue_err 1 (spurOf p x.lane)).fenceSpur (spurOf p x.lane) 2
      else
        match (s.atCyc cyc).entryEnds p e since x cyc with
        | none => s
        | some s =>
          let s := s.setSlot p e .ended
          if x.start + x.len < cyc then s.noteOverrun p e x else s
    | _ => s

def execRadioWindowEnd (p : Fin 8) (e : Fin 4096) (x : Finish) (s : State) : Res := .next (s.radioEnd p e x.cyc x.ue)

/-! ## Work-list items (R289) -/

/-- Item `j` stands before item `i` on a lane: an earlier gap, or in one gap a replay before what has not been attempted (R90), and
then the order of the list. -/
def before (x y : WlItem × Nat) : Bool :=
  x.1.gap < y.1.gap || (x.1.gap == y.1.gap && (((0 < x.1.aborts) && y.1.aborts == 0) ||
    ((decide (0 < x.1.aborts) == decide (0 < y.1.aborts)) && x.2 < y.2)))

/-- The lane's earlier items have ended, and none runs. -/
def laneFree (wl : List WlItem) (i : Nat) (it : WlItem) : Bool :=
  wl.zipIdx.all fun o => o.2 == i || o.1.lane != it.lane || o.1.st.isOver || (!o.1.st.isRunning && before (it, i) o)

/-- Cycle `cyc` lies in the item's gap or a later one of its lane, before the next abort point; a core that still runs a late radio
descriptor takes nothing. -/
def State.inGap (s : State) (p : Nat) (it : WlItem) (cyc : Nat) : Bool :=
  if computeLane it.lane then
    (!coreLane it.lane || (s.core (coreOf p it.lane)).run.isNone) && ((gapsOf (s.partOf p).col it.lane).drop it.gap).any (fun g => g.1 ≤ cyc && cyc < g.2) && cyc < s.nextStop p it.lane cyc
  else !(s.partOf p).col.any fun y => y.lane == it.lane && y.st.isRunning

/-- A clamp holds open work, until the first commit instant after it clears (R504). -/
def State.clamped (s : State) : Bool := s.mgt.pwrClamp || s.mgt.thmClamp || s.mgt.justCleared

/-- Start an item on its unit. -/
def State.startItem (s : State) (p i cyc : Nat) (it : WlItem) : State :=
  let go (s : State) := s.modItem p i fun it => { it with st := .running cyc }
  if it.kat then
    if coreLane it.lane then go (s.put F.MSF_STAT.busy 1 (coreOf p it.lane))
    else
      let n := spurOf p it.lane
      let m := s.katMask n
      if m = 0 ∨ s.threadsFree n m = false then s
      else (s.katThreads n m .ready).modItem p i fun it => { it with st := .running cyc, thr := m }
  else if it.kind = 0 then
    let n := coreOf p it.lane
    let ws := s.descWords it.desc
    let t := decodeTile ws
    if !s.tileOk n false t then ((s.descFailed n t.tag).endRec p it.lane t.tag 2).failItem p i 4 St.descInvalid
    else
      let po := s.tilePoison n t
      if po.1 then (s.put F.MSF_STAT.ue_err 1 n).fenceCore n 2
      else if po.2 then s.failItem p i 6 St.memUncorrectable
      else go (s.tileBegin n ws false t.slice (s.absAt cyc))
  else if it.kind = 1 then
    let n := spurOf p it.lane
    let ws := s.jobWords it.desc
    if !s.jobOk n false ws then
      ((s.put F.SPR_STAT.desc_err 1 n).jobRec n (bits (ws.getD 10 0) 31 0) 2).failItem p i 4 St.descInvalid
    else if !s.threadsFree n it.thr || it.thr &&& s.rd F.SPR_CTRL.radio_mask n != 0 then s
    else go (s.startJob n it.thr ws false p i (s.absAt cyc))
  else
    let ws := s.descWords it.desc
    let d := decodeDma ws
    if !s.dmaOk d then s.failItem p i 4 St.descInvalid
    else if d.order && !(s.dmasOf (engOf p it.lane)).isEmpty then s
    else go (s.dmaBegin (engOf p it.lane) ws (some i))

/-- LANE_ITEM_START. -/
def State.itemStart (s : State) (p i cyc : Nat) : State :=
  match s.item? p i with
  | none => s
  | some it =>
    let wl := (s.partOf p).wl
    if it.st ≠ .waiting ∨ laneFree wl i it = false ∨ s.time.edges = false then s
    else
      match if it.after = 0 then some ItemState.done else (wl[it.after - 1]?).map (·.st) with
      | some .done =>
        if s.seqRuns p && s.on F.TICK_STAT.running p && s.laneOk p it.lane && s.inGap p it cyc && !s.clamped && !s.time.cut && !(s.partOf p).await && !(s.partOf p).hold &&
            s.cycNow ≤ cyc && cyc < 412500
        then (s.atCyc cyc).startItem p i cyc it else s
      | some .waiting => s
      | some (.running _) => s
      | some _ => s.modItem p i fun it => { it with st := .aborted }
      | none => s

def execLaneItemStart (p : Fin 8) (i : Fin 2048) (cyc : Fin 412501) (s : State) : Res := .next (s.itemStart p i cyc)

/-! ## Tiles (R88–R91, R293) -/

/-- An open tile that began at `since` is stopped at cycle `cyc` for this reason (R88, R89): at its first abort point, for what that
point is; before it when the unit stops giving work, device time has stepped or a clamp holds, unless its retire phase has begun. -/
def State.stopsAt (s : State) (p : Nat) (it : WlItem) (since cyc : Nat) (why : AbortPoint) : Bool :=
  let stop := s.nextStop p it.lane since
  let fin := since + s.itemCycles p it
  let retires := !it.kat && fin ≤ stop && fin ≤ cyc + s.itemRet p it
  match why with
  | .radio => cyc == stop && s.stopKind p stop == .radio
  | .edge => cyc == stop && s.stopKind p stop == .edge
  | .fence => cyc ≤ stop && !retires && !s.laneOk p it.lane
  | .step => cyc ≤ stop && !retires && s.time.cut
  | .clamp => cyc ≤ stop && !retires && s.clamped

/-- TILE_ABORT; an engine that is not idle within 96 cycles asks for its fence (R122), as a hang (DEDUCED, log 88). -/
def execTileAbort (p : Fin 8) (i : Fin 2048) (cyc : Fin 412501) (x : TileStop) (s : State) : Res :=
  .next (
    match s.item? p i with
    | some it =>
      match it.st with
      | .running since =>
        if coreLane it.lane && since ≤ cyc.val && s.cycNow ≤ cyc.val && s.stopsAt p it since cyc x.why then
          let s := (s.atCyc cyc).abortTile p i cyc x.why
          if x.idle then s else s.fenceCore (coreOf p it.lane) 3
        else s
      | _ => s
    | none => s)

/-- TILE_END: the tile has run its cycles and its retire phase ends before the next abort point. With an uncorrectable error in the
weight register or the bank it ends as aborted and the core is fenced (R122, R123). -/
def execTileEnd (p : Fin 8) (i : Fin 2048) (x : Finish) (s : State) : Res :=
  .next (
    match s.item? p i with
    | some it =>
      match it.st, (s.core (coreOf p it.lane)).run with
      | .running since, some r =>
        let n := coreOf p it.lane
        if it.kind = 0 ∧ it.kat = false ∧ coreLane it.lane ∧ r.radio = false ∧ s.cycNow ≤ x.cyc.val ∧
            since + s.tileCycles n (decodeTile r.desc) ≤ x.cyc ∧ x.cyc.val ≤ s.nextStop p it.lane since then
          let s := s.atCyc x.cyc
          if x.ue then ((s.abortTile p i x.cyc .fence).put F.MSF_STAT.ue_err 1 n).fenceCore n 2 else s.finishTile p i x.cyc
        else s
      | _, _ => s
    | none => s)

/-! ## Jobs (R157, R162, R165, R166) -/

/-- JOB_END: every thread has halted; dirty lines go back, queues drain, the end record is posted. -/
def State.jobEnd (s : State) (n t : Nat) : State :=
  let key := 8 * n + t
  match kfind s.jobs key with
  | none => s
  | some j =>
    if !s.jobHalted n j then s
    else
      let ths := (threadsOf j.mask).map (8 * n + ·)
      let q := s.jobCycles n j
      let fault := ths.any fun th => (s.thread th).faulted
      let free := (s.item? j.part j.item).elim false s.itemFree
      let s := if j.radio then s.bump F.SPR_RCYC.radio_thr_cyc n q
        else if free then s.bump F.SPR_CYC.open_thr_cyc n q else (s.bump F.SPR_CYC.open_thr_cyc n q).count j.slice 1 q
      let s := ths.foldl (fun s th => ((s.thread th).dc.foldl (fun s l => s.writeLine th l) s).drainStores th) s
      let s := (s.clearJob n key j.mask).jobRec n j.tag (if fault then 3 else 0)
      if j.radio then
        if fault then
          match (s.partOf j.part).col[j.item]? with
          | some x => (s.missed j.part x.desc).event 2 1 Ev.radioDesc n (pc j.part)
          | none => s
        else s
      else if fault then s.failItem j.part j.item 5 St.spurFault
      else
        match s.item? j.part j.item with
        | some it => (s.modItem j.part j.item fun it => { it with st := .done }).settle j.part it.pass
        | none => s

/-- Open work of a partition stops at cycle `cyc` (R88): a job whose threads have all halted ends, any other is aborted; tiles stop as
`interruptTile` says; known-answer runs stop too, but not under a clamp, which acts on open rows alone (R27). -/
def State.stopWork (s : State) (p cyc : Nat) (why : AbortPoint) : State :=
  let s := (s.jobs.filter fun j => j.1 / 512 == p && !j.2.radio).foldl (fun s j =>
    if s.jobHalted (j.1 / 8) j.2 then s.jobEnd (j.1 / 8) (j.1 % 8) else s.abortJob (j.1 / 8) j.1 cyc why) s
  ((s.partOf p).wl.zipIdx.filter fun x => computeLane x.1.lane && x.1.st.isRunning && !(x.1.kat && why == .clamp)).foldl (fun s x =>
    if coreLane x.1.lane then s.interruptTile p x.2 cyc why
    else (if x.1.kat then s.katThreads (spurOf p x.1.lane) x.1.thr .idle else s).requeue p x.2 cyc false) s

/-- With an uncorrectable error in the register files, the locked ways or the dirty lines the Spur core is fenced instead (R167). -/
def execJobEnd (n : Fin 512) (t : Fin 8) (x : Finish) (s : State) : Res :=
  .next (
    if (kfind s.jobs (8 * n.val + t.val)).any (fun j => s.jobHalted n.val j) && s.cycNow ≤ x.cyc.val then
      let s := s.atCyc x.cyc
      if x.ue then (s.put F.SPR_STAT.ue_err 1 n).fenceSpur n 2 else s.jobEnd n t
    else s)

/-- An open job is stopped at cycle `cyc` for this reason (R88): at the lead before the tick edge, or before it when its unit stops
giving work, device time has stepped or a clamp holds. -/
def State.jobStopsAt (s : State) (p l cyc : Nat) (why : AbortPoint) : Bool :=
  let edge := 412500 - s.rd F.TICK_FIT.abort_lead p
  match why with
  | .radio => false
  | .edge => cyc == edge
  | .fence => cyc ≤ edge && !s.laneOk p l
  | .step => cyc ≤ edge && s.time.cut
  | .clamp => cyc ≤ edge && s.clamped

/-- JOB_ABORT. -/
def execJobAbort (n : Fin 512) (t : Fin 8) (cyc : Fin 412501) (why : AbortPoint) (s : State) : Res :=
  .next (
    match kfind s.jobs (8 * n.val + t.val) with
    | some j =>
      if !j.radio && s.cycNow ≤ cyc.val && s.jobStopsAt j.part (n.val % 64 + 16) cyc why then
        (s.atCyc cyc).abortJob n (8 * n.val + t.val) cyc why
      else s
    | none => s)

/-! ## DMA transfers (R216, R217) -/

/-- The waiting RADIO entry, or the waiting item, of a DMA lane that names a descriptor. -/
def State.dmaEntry (s : State) (p l desc : Nat) : Option Nat :=
  (s.partOf p).col.findIdx? fun x => x.lane == l && x.desc == desc && x.kind == 0 && x.st == .waiting
def State.dmaItem (s : State) (p l desc : Nat) : Option Nat :=
  (s.partOf p).wl.findIdx? fun x => x.lane == l && x.desc == desc && x.st == .waiting

/-- DMA_TRANSFER_START: the engine copies the descriptor at `desc`, checks it, and begins; with `order` it waits for the lane's
earlier transfers. A failing descriptor moves nothing: the item that names it fails, the RADIO entry that names it is missed
(R84, R216). -/
def execDmaTransferStart (p : Fin 8) (eng : Fin 16) (desc : Addr) (s : State) : Res :=
  .next (
    let k := 16 * p.val + eng.val
    let l := 80 + eng.val
    let ws := s.descWords desc.toNat
    let d := decodeDma ws
    if !(s.seqRuns p && s.on F.TICK_STAT.running p) then s
    else if s.dmaOk d then (if d.order && !(s.dmasOf k).isEmpty then s else s.dmaBegin k ws none)
    else if d.radio then
      match s.dmaEntry p l desc.toNat with
      | some e => match (s.partOf p).col[e]? with
        | some x => s.missEntry p e x
        | none => s
      | none => s
    else match s.dmaItem p l desc.toNat with
      | some i => s.failItem p i 4 St.descInvalid
      | none => s)

/-- The end of a transfer: its end record where it asks for one, and the entry or the item that it ran for. -/
def State.dmaPosted (s : State) (p : Nat) (x : Dma) (st lane : Nat) : State :=
  let d := decodeDma x.desc
  let s := if d.notify then s.endRec p lane d.tag st else s
  match x.item with
  | none => s
  | some i =>
    if x.radio then
      match (s.partOf p).col[i]? with
      | some e => if st = St.ok then s else s.missed p e.desc
      | none => s
    else if st ≠ St.ok then s.failItem p i 6 st
    else match s.item? p i with
      | some it => (s.modItem p i fun it => { it with st := .done }).settle p it.pass
      | none => s

/-- DMA_TRANSFER_END: the k-th transfer of the engine has nothing outstanding; an open one pauses while a RADIO entry runs on
its lane (R88). -/
def execDmaTransferEnd (p : Fin 8) (eng : Fin 16) (k : Nat) (s : State) : Res :=
  .next (
    let key := 16 * p.val + eng.val
    match (s.dmasOf key)[k]? with
    | none => s
    | some x =>
      let paused := !x.radio && (s.partOf p).col.any fun y => y.lane == 80 + eng.val && y.st.isRunning
      if !x.todo.isEmpty || x.left != 0 || paused || ((decodeDma x.desc).order && k != 0) then s
      else
        let r := s.dmaFinish key x
        r.1.dmaPosted p x r.2 (80 + eng.val))

/-! ## Fences and known-answer runs (R122–R124, R167, R168) -/

/-- FENCE_REQ. -/
def execFenceReq (wr : Writer) (n : Fin 128) (s : State) : Res :=
  .next (if s.mayWrite wr F.MSF_CTRL.fence_req n then s.fenceCore n 1 else s)

/-- RADIO_HANG: a radio descriptor has run `hang_cyc` past its count. -/
def execRadioHang (n : Fin 128) (s : State) : Res :=
  .next (
    match (s.core n).run with
    | some r =>
      if r.radio && r.since + s.tileCycles n (decodeTile r.desc) + s.rd F.MSF_GCTRL.hang_cyc ≤ s.absCyc then
        ((s.put F.MSF_STAT.hang 1 n).fenceCore n 3).event 2 1 Ev.radioHang n (pc (n.val / 16))
      else s
    | none => s)

/-- Ask for a known-answer run of a unit: logical core n, or 128 + Spur core n. -/
def State.askKat (s : State) (u : Nat) : State :=
  let p := if u < 128 then u / 16 else (u - 128) / 64
  let x := s.partOf p
  if x.katDue.contains u then s else s.setPart p { x with katDue := x.katDue ++ [u] }

def execKatNow (wr : Writer) (n : Fin 128) (s : State) : Res :=
  .next (if s.mayWrite wr F.MSF_CTRL.kat_now n ∧ s.coreOk n then s.askKat n else s)
def execSpurKatNow (wr : Writer) (n : Fin 512) (s : State) : Res :=
  .next (if s.mayWrite wr F.SPR_CTRL.kat_now n ∧ s.spurOk n then s.askKat (128 + n.val) else s)

/-- KAT_PERIOD_EXPIRY: a period of the engines or of the Spur cores ends at the present tick. -/
def execKatPeriodExpiry (s : State) : Res :=
  .next (
    let due (k : Nat) : Bool := k != 0 && s.time.edges && s.time.tick % (k : Int) == 0
    let s' := if due (s.rd F.MSF_GCTRL.kat_period) then ((span 0 128).filter s.coreOk).foldl State.askKat s else s
    if due (s.rd F.SPR_GCTRL.kat_period) then ((span 0 512).filter s.spurOk).foldl (fun s n => s.askKat (128 + n)) s' else s')

/-- The running known-answer item of a lane. -/
def State.katItem (s : State) (p l : Nat) : Option Nat :=
  (s.runningItems p l).find? fun i => ((s.item? p i).map (·.kat)).getD false

/-- Since when an item runs. -/
def State.itemSince (s : State) (p i : Nat) : Nat :=
  match s.item? p i with
  | some it => (match it.st with
    | .running t => t
    | _ => 0)
  | none => 0

/-- KAT_END: the run is metered to the unit and to nobody; a wrong digest fences the unit with cause 4 (R119, R124, R168). -/
def execKatEnd (u : UnitName) (x : KatResult) (s : State) : Res :=
  .next (
    if x.cyc.val < s.cycNow then s else
    match u with
    | .core n =>
      let p := n.val / 16
      match s.katItem p (n.val % 16) with
      | none => s
      | some i =>
        let q := (x.cyc.val - s.itemSince p i) * 4
        let s := (s.atCyc x.cyc).modItem p i fun it => { it with st := .done }
        let s := (s.put F.MSF_STAT.busy 0 n).bump F.MSF_CYC.array_cyc n q
        if x.digestOk then s else (s.put F.MSF_STAT.kat_fail 1 n).fenceCore n 4
    | .spur n =>
      let p := n.val / 64
      match s.katItem p (n.val % 64 + 16) with
      | none => s
      | some i =>
        let m := ((s.item? p i).map (·.thr)).getD 0
        let s := ((s.atCyc x.cyc).modItem p i fun it => { it with st := .done }).katThreads n m .idle
        if x.digestOk then s else (s.put F.SPR_STAT.kat_fail 1 n).fenceSpur n 4
    | _ => s)

def execSpurFenceReq (wr : Writer) (n : Fin 512) (s : State) : Res :=
  .next (if s.mayWrite wr F.SPR_CTRL.fence_req n then s.fenceSpur n 1 else s)

/-- SPUR_RADIO_HANG: a radio job runs `hang_cyc` beyond the `len` of its entry. -/
def execSpurRadioHang (n : Fin 512) (s : State) : Res :=
  .next (
    let late := (s.jobsOf n).any fun j => j.2.radio &&
      match (s.partOf j.2.part).col[j.2.item]? with
      | some x => j.2.since + x.len + s.rd F.SPR_GCTRL.hang_cyc ≤ s.absCyc
      | none => false
    if late then ((s.put F.SPR_STAT.hang 1 n).fenceSpur n 3).event 2 1 Ev.radioHang (128 + n.val) (pc (n.val / 64)) else s)

/-! ## Substitutions (R38, R169, R458) -/

/-- SPARE_SUBSTITUTION_COMMIT. -/
def execSpareSubstitutionCommit (n : Fin 128) (s : State) : Res := .next (if s.inCol then s.commitCore n else s)
/-- SPUR_SUBSTITUTION. -/
def execSpurSubstitution (n : Fin 512) (s : State) : Res := .next (if s.inCol then s.commitSpur n else s)

/-! ## Group circular buffers (R181) -/

/-- GCB_RGN_WRITE: a bound is taken only while the committed length is 0. -/
def execGcbRgnWrite (wr : Writer) (n : Fin 512) (j : Fin 4) (lim : Bool) (value : Addr) (s : State) : Res :=
  .next (
    let i := 4 * n.val + j.val
    if s.mayWrite wr F.SPR_GCB_RGN_BASE.rgn_base i then
      if s.rd F.SPR_GCB_LEN.gcb_len i = 0 then
        if lim then s.put F.SPR_GCB_RGN_LIM.rgn_limit value.toNat i else s.put F.SPR_GCB_RGN_BASE.rgn_base value.toNat i
      else s.orf F.SPR_DSP_STAT.rgn_wr_ign (2 ^ j.val) n
    else s)

end Sys2Proof.Machine
end

