-- ==== Sys2Proof/Machine/RegWrite.lean ====
section
/-! DEFINITION. REGISTER_WRITE (R15–R17, R58, R59, R61, R94, R402): a write of a register, field by field, and what a write of
certain registers does besides. -/

namespace Sys2Proof.Machine

/-- A write of TIME.PORT: a slave port that is withheld or does not exist in the split cannot be selected (R59), and another
SyncE port has given no quality level yet (R61). `o` is the state before the write. -/
def State.portHook (o s : State) : State :=
  let s := if s.fhExists (s.rd F.TIME_PORT.ptp_port) (s.rd F.TIME_PORT.ptp_subport) then s
    else (s.put F.TIME_PORT.ptp_port (o.rd F.TIME_PORT.ptp_port)).put F.TIME_PORT.ptp_subport (o.rd F.TIME_PORT.ptp_subport)
  if s.rd F.TIME_PORT.synce_port = o.rd F.TIME_PORT.synce_port ∧ s.rd F.TIME_PORT.synce_subport = o.rd F.TIME_PORT.synce_subport
  then s else s.evalSynce false

/-- What a write to certain registers does besides: TOD_NEXT counts as written (R58), any write of CTL_HB restarts the
control function's watch (R402). -/
def State.writeHook (o s : State) (a : Nat) : State :=
  if a = F.TIME_TOD_NEXT.tod_sec.base then s.withTime { s.time with todWritten := true }
  else if a = F.TIME_PORT.ptp_port.base then o.portHook s
  else if a = F.HOST_CTL_HB.hb.base then s.withCtlHb (some s.nowNs)
  else s

/-- A register of 128 bits takes 16 bytes (R411). -/
def Field.wide (f : Field) : Bool := f.width == 128

/-- What a write of 64 bits at an address brings to the fields: of a 128-bit register, its upper half brings both (R411). -/
def State.regHits (s : State) (a v : Nat) : List (Field × Nat × Nat) :=
  regTable.flatMap fun f =>
    if f.own then []
    else if f.wide then
      if 8 ≤ a then ((f.hits (a - 8)).filter fun h => h.2 == f.lo).map fun h => (f, h.1, v % 2 ^ 64 * 2 ^ 64 + kget s.halves (a - 8) 0) else []
    else (f.hits a).map fun h => (f, h.1, v % 2 ^ 64 / 2 ^ h.2)

/-- The lower half of a 128-bit register waits for the upper one. -/
def State.latchHalf (s : State) (w : Writer) (a v : Nat) : State :=
  if regTable.any fun f => !f.own && f.wide && (f.hits a).any fun h => h.2 == f.lo && s.mayWrite w f h.1 then
    s.withHalves (kset s.halves a (v % 2 ^ 64))
  else s

/-- One register write of 64 bits. -/
def State.regWrite (s : State) (w : Writer) (a v : Nat) : State :=
  let tick := blkTICK ≤ a && a < blkTICK + 0x800
  if w == .host && tick && s.partActive ((a - blkTICK) / 256) then s.put F.TICK_STAT.host_wr_ign 1 ((a - blkTICK) / 256)
  else
    -- a window through a function other than its slice's (R382)
    let miss := match w, windowSlice a with
      | .slice x, some y => s.sliceState x.val == unbound || s.sliceState y == unbound ||
          s.rd F.HOST_SLICE.function x.val != s.rd F.HOST_SLICE.function y
      | _, _ => false
    if miss then s.put F.HOST_STAT.win_miss 1
    else
      let ok := (s.regHits a v).filter fun x => s.mayWrite w x.1 x.2.1
      let t := (ok.foldl (fun s x => s.writeField x.1 x.2.2 x.2.1) s).latchHalf w a v
      if ok.isEmpty then t else (s.writeHook t a).showFault s

/-- The log rings in the register space (R429). -/
def logBase : Nat := 0xB40000

/-- Value of the 64 bits at a register address, of each field that can be read (R15), or of a log ring. -/
def State.regRead (s : State) (a : Nat) : Nat :=
  if logBase ≤ a ∧ a < logBase + 11 * 0x10000 then s.logWord ((a - logBase) / 0x10000) ((a - logBase) % 0x10000)
  else regTable.foldl (fun v f =>
    if f.acc = .wo then v
    else
      let v := (f.hits a).foldl (fun v h => v + s.rd f h.1 % 2 ^ 64 * 2 ^ h.2) v
      if f.wide && 8 ≤ a then ((f.hits (a - 8)).filter fun h => h.2 == f.lo).foldl (fun v h => v + s.rd f h.1 / 2 ^ 64) v else v) 0

/-- REGISTER_WRITE. -/
def execRegisterWrite (wr : Writer) (addr : BitVec 40) (value : Word) (s : State) : Host.Outcome State Fault Refusal :=
  .next (s.regWrite wr addr.toNat value.toNat)

end Sys2Proof.Machine
end

