-- ==== Sys2Proof/Machine/Noc.lean ====
section
/-! DEFINITION. NoC packets, scrubbing, lost channels and routers, key loads (R194, R203, R210–R214, R218, R219, R466). -/

namespace Sys2Proof.Machine

/-! ## Keys (R204, R466) -/

/-- SEC.KEYS counts the filled slots. -/
def State.setKey (s : State) (k : Nat) (x : KeySlot) : State :=
  let was := (s.key k).loaded
  let s : State := s.withKeys (kset s.keys k x)
  if was = x.loaded then s
  else if x.loaded then s.put F.SEC_KEYS.slots_loaded (s.rd F.SEC_KEYS.slots_loaded + 1)
  else s.put F.SEC_KEYS.slots_loaded (s.rd F.SEC_KEYS.slots_loaded - 1)

/-- `key_pend` shows whether a load waits for Cairn. -/
def State.showPend (s : State) : State := s.put F.SEC_STAT.key_pend (b2n (s.keys.any fun k => k.2.pend))

/-- Cairn derives a fresh key for slot `k` and loads it: its epoch rises; while Cairn is down the load waits (R417, R466). Once a
debug unlock has zeroised K_boot no key can be derived (R482). -/
def State.loadKey (s : State) (k : Nat) : State :=
  if !s.sec.bootKey then s
  else if s.procUp cairn then
    let x := s.key k
    ((s.setKey k { epoch := x.epoch + 1, loaded := true, pend := false }).bump F.SEC_KEYS.key_loads).showPend
  else (s.setKey k { s.key k with pend := true }).showPend

/-- A slot without a key receives its first one, epoch as it stands. -/
def State.firstKey (s : State) (k : Nat) : State :=
  if (s.key k).loaded || !s.sec.bootKey then s
  else if s.procUp cairn then
    ((s.setKey k { s.key k with loaded := true, pend := false }).bump F.SEC_KEYS.key_loads).showPend
  else (s.setKey k { s.key k with pend := true }).showPend

/-- Zeroise a slot without replacement. -/
def State.emptyKey (s : State) (k : Nat) : State := s.setKey k { s.key k with loaded := false, pend := false }

/-- Loads that waited are done when Cairn runs again. -/
def State.pendingKeys (s : State) : State :=
  (s.keys.filter fun k => k.2.pend).foldl (fun s k => if k.2.loaded then s.loadKey k.1 else s.firstKey k.1) s

/-- KEY_LOAD: slot 8,191 has no epoch and keeps its key until reset; the key of a scope that waits for its last frame is
replaced by SCOPE_KEY_REPLACE. -/
def execKeyLoad (slot : Fin 8192) (s : State) : Host.Outcome State Fault Refusal :=
  .next (if slot.val = devKey ∨ s.scopesDead.contains slot.val then s else s.loadKey slot)

/-! ## Routes (R210, R214, R457) -/

/-- Routers have the index 4·y + x in registers and commands: r = 8·y + x of R220 runs past the 32 entries of NOC.RTR into
NOC.ROUTE and past the five bits of `waypoint` (log 38). The defect map names them 8·y + x (R445). -/
def clRouter (cl : Nat) : Nat :=
  let p := cl / 4
  let c := cl % 4
  (2 * (p % 4) + c / 2) * 4 + (if p < 4 then 0 else 2) + c % 2
def mapRouter (i : Nat) : Nat := 8 * (i / 4) + i % 4

/-- The routers from `a` to `b` along one dimension, and along both in an order (R210, R214). -/
def meshLine (a b : Nat) : List Nat := if a ≤ b then span a (b - a + 1) else (span b (a - b + 1)).reverse
def meshLeg (a b : Nat) (yx : Bool) : List Nat :=
  if yx then (meshLine (a / 4) (b / 4)).map (fun y => 4 * y + a % 4) ++ (meshLine (a % 4) (b % 4)).map fun x => 4 * (b / 4) + x
  else (meshLine (a % 4) (b % 4)).map (fun x => 4 * (a / 4) + x) ++ (meshLine (a / 4) (b / 4)).map fun y => 4 * y + b % 4

/-- A path from router `a` to router `d` by an order and at most one waypoint: no router twice in a row. -/
def meshPath (a d : Nat) (yx : Bool) (wp : Option Nat) : List Nat :=
  let path := match wp with
    | some w => meshLeg a w yx ++ meshLeg w d yx
    | none => meshLeg a d yx
  path.foldr (fun r l => if l.head? = some r then l else r :: l) []

/-- The path from router `a` to router `d` by the route table. -/
def State.routePath (s : State) (a d : Nat) : List Nat :=
  meshPath a d (s.on F.NOC_ROUTE.order d) (if s.on F.NOC_ROUTE.wp_valid d then some (s.rd F.NOC_ROUTE.waypoint d) else none)

/-- Some path to `d` crosses one of the routers `rs`. -/
def State.crosses (s : State) (rs : List Nat) (d : Nat) : Bool :=
  (List.range 32).any fun a => !rs.contains a && (s.routePath a d).any rs.contains

/-- The orders and waypoints that an entry may hold. -/
def routeChoices : List (Bool × Option Nat) :=
  [false, true].flatMap fun o => (none :: (List.range 32).map some).map fun w => (o, w)

/-- Sources that a choice leads to `d` around the routers `rs`. -/
def routeServes (rs : List Nat) (d : Nat) (c : Bool × Option Nat) : Nat :=
  if (c.2.map rs.contains).getD false then 0
  else ((List.range 32).filter fun a => !rs.contains a && !(meshPath a d c.1 c.2).any rs.contains).length

/-- The choices that lead the most sources around: all of them wherever one entry can, since one entry serves every interface. -/
def routesAround (rs : List Nat) (d : Nat) : List (Bool × Option Nat) :=
  let cs := routeChoices.map fun c => (routeServes rs d c, c)
  let best := cs.foldl (fun m c => max m c.1) 0
  (cs.filter fun c => c.1 == best).map (·.2)

/-- Cairn writes every entry whose path crosses the leaving routers, with a waypoint around them (R214, R457): which of the ways
around is firmware's choice. -/
def State.reroute (s : State) (rs : List Nat) : State :=
  let ds := (List.range 32).filter fun d => !rs.contains d && s.crosses rs d
  let s := ds.foldl (fun s d =>
    let cs := routesAround rs d
    let c := cs.getD (s.fresh .firmware % cs.length) (false, none)
    (((s.put F.NOC_ROUTE.order (b2n c.1) d).put F.NOC_ROUTE.waypoint (c.2.getD 0) d).put F.NOC_ROUTE.wp_valid (b2n c.2.isSome) d).drawn) s
  s.put F.NOC_STAT.route_rebuilt 1

/-! ## Packets (R205, R210–R213) -/

/-- A packet header (R212). -/
structure NocHdr where
  op     : Nat
  vc     : Nat
  poison : Bool
  dst    : Nat
  src    : Nat
  txn    : Nat
  nflits : Nat
  slice  : Nat
  addr   : Nat
  key    : Nat
  dev    : Bool
  status : Nat
  len    : Nat
  imm    : Nat
  /-- A reserved bit or opcode is set, or a field is past its range. -/
  rsv    : Bool
  deriving DecidableEq, Repr

def parseHdr (v : Nat) : NocHdr :=
  { op := bits v 3 0, vc := bits v 5 4, poison := bit v 7, dst := bits v 19 8, src := bits v 31 20, txn := bits v 47 32,
    nflits := bits v 51 48, slice := bits v 63 52, addr := bits v 111 64, key := bits v 124 112, dev := bit v 125,
    status := bits v 143 128, len := bits v 159 144, imm := bits v 223 160,
    rsv := 8 ≤ bits v 3 0 || bit v 6 || bits v 127 126 != 0 || bits v 255 224 != 0 || 8 < bits v 51 48 ||
      256 < bits v 159 144 || 10 ≤ bits v 19 16 || 10 ≤ bits v 31 28 }

/-- The 32 bytes of a header. -/
def NocHdr.bytes (h : NocHdr) : List Byte :=
  leBytes 32 (h.op + 2 ^ 4 * h.vc + 2 ^ 7 * b2n h.poison + 2 ^ 8 * h.dst + 2 ^ 20 * h.src + 2 ^ 32 * h.txn + 2 ^ 48 * h.nflits +
    2 ^ 52 * h.slice + 2 ^ 64 * h.addr + 2 ^ 112 * h.key + 2 ^ 125 * b2n h.dev + 2 ^ 128 * h.status + 2 ^ 144 * h.len + 2 ^ 160 * h.imm)

/-- Requests that an answer ends, and the answers. -/
def NocHdr.isRequest (h : NocHdr) : Bool := h.op == 0 || h.op == 1 || h.op == 4
def NocHdr.isAnswer (h : NocHdr) : Bool := h.op == 2 || h.op == 3 || h.op == 5 || h.op == 7

/-- Radio memory (R25): pinned radio SRAM and the reserved scratchpad regions. -/
def State.radioPlace (s : State) (a n : Nat) : Bool :=
  match s.place a with
  | .pinned p => within a n (pinnedBase p) 0x2000000
  | .pad c => within a n (s.spRsv c).1 (s.spRsv c).2
  | _ => false

/-- A packet travels on the channel of its traffic (R211): VC0 carries radio requests and their answers, VC1 other requests and
messages, VC2 other answers, VC3 firmware and register traffic. -/
def State.vcOk (s : State) (h : NocHdr) : Bool :=
  match h.vc with
  | 0 => h.isAnswer || h.isRequest && s.radioPlace h.addr (max 1 h.len)
  | 1 => !h.isAnswer
  | 2 => h.isAnswer
  | _ => true

/-- The routers that an endpoint attaches to (R210): one cluster router of a partition's block, every router of its column that is up
for an I/O die. -/
def State.epRouters (s : State) (ep : Nat) : List Nat :=
  if ep / 256 < 8 then (span (4 * (ep / 256)) 4).map clRouter
  else ((List.range 8).map fun y => 4 * y + (if ep / 256 = 8 then 0 else 3)).filter fun r => s.rd F.NOC_RTR.state r == 0

/-- The router of an endpoint: which of them is the implementation's. -/
def State.epRouter (s : State) (ep : Nat) : Nat :=
  let rs := s.epRouters ep
  rs.getD (Config.epPlace ep % rs.length) 0

/-- A stored or carried word with the one symbol that the code corrects put right. -/
def fixWord (v : Nat) : Decoded → Nat
  | .corrected i e => v ^^^ e * 256 ^ (if i < 32 then i else i - 2)
  | _ => v

/-- Data bytes of a flit, and whether it is delivered poisoned. -/
def flitBytes (v : Nat) : List Byte × Bool :=
  let d := decodeWord288 v
  (leBytes 32 (fixWord v d), match d with
    | .clean => false
    | .corrected _ _ => false
    | _ => true)

/-- The partition of an endpoint, when it has one. -/
def epPart (ep : Nat) : Option Nat := if ep / 256 < 8 then some (ep / 256) else none

/-- A request that no answer has ended yet: it ends by its answer or after `noc_to` cycles (R212). -/
def State.nocOpen (s : State) (h : NocHdr) : State :=
  if h.isRequest && !(s.nocReqs.any fun q => q.src == h.src && q.txn == h.txn) then
    s.withNocReqs (s.nocReqs ++ [{ src := h.src, txn := h.txn, dst := h.dst, addr := h.addr }])
  else s

/-- A packet of header `h` and flits `fs` leaves router `r` for the next router of its way: the rest of the path from its source, or the
table's path from here where `r` is not on that one. -/
def State.nocHop (s : State) (r : Nat) (h : NocHdr) (fs : List Nat) : State :=
  let path := s.routePath (s.epRouter h.src) (s.epRouter h.dst)
  let rest := if path.contains r then (path.reverse.takeWhile (· != r)).reverse else (s.routePath r (s.epRouter h.dst)).drop 1
  match rest with
  | [] => s
  | x :: _ => s.emit (.nocHop x (encodeWord288 h.bytes false :: fs))

/-- The answer of a destination interface enters its router: data of a read in flits of 32 bytes, the old value of an atomic in one,
each poisoned where its bytes are. -/
def State.nocAnswer (s : State) (h : NocHdr) (op status : Nat) (data : List (List Byte × Bool)) : State :=
  let a : NocHdr := { h with
    op := op, vc := if h.vc = 1 then 2 else h.vc, poison := data.any (·.2), dst := h.src, src := h.dst, nflits := data.length,
    status := status, imm := 0 }
  let s := if !h.dev && a.vc == 2 then s.count h.slice 5 (32 * data.length) else s
  s.emit (.nocHop (s.epRouter a.src) (encodeWord288 a.bytes false :: data.map fun d => encodeWord288 d.1 d.2))

/-- The status that refuses a request at its destination (R74, R205): banks take no writes, and registers answer firmware alone. -/
def State.nocStatus (s : State) (h : NocHdr) : Nat :=
  match s.place h.addr with
  | .regs => if h.vc = 3 ∧ h.dev ∧ h.op ≠ 4 then St.ok else St.regionFault
  | .bank _ => if h.op = 0 then s.rdStatus h.addr h.len h.key else St.regionFault
  | _ => if h.op = 0 then s.rdStatus h.addr h.len h.key else s.accStatus h.addr h.len h.key

/-- Bytes in flits of 32, and whether each is poisoned. -/
def State.nocFlits (s : State) (a n k : Nat) : List (List Byte × Bool) :=
  (List.range ((n + 31) / 32)).map fun j =>
    let m := min 32 (n - 32 * j)
    (s.load (a + 32 * j) m k, s.poisonedRd (a + 32 * j) m k)

/-- The destination interface performs a request (R205, R212) and answers. -/
def State.nocPerform (s : State) (h : NocHdr) (data : List (List Byte × Bool)) : State :=
  let st := s.nocStatus h
  let s := s.noteAbsorb h.addr st
  let s := if !h.dev && (h.vc == 1 || h.vc == 2) then
      (s.count h.slice 5 (32 * h.nflits)).count h.slice 4 (if s.isDram h.addr && (st == St.ok || st == St.memUncorrectable) then 64 * (linesOf h.addr h.len).length else 0)
    else s
  if h.op = 0 then
    if s.place h.addr = .regs then
      s.nocAnswer h 2 st (if st = St.ok then [(leBytes 32 (s.regRead ((h.addr - 0xFF0000000000) / 8 * 8)), false)] else [])
    else
      let fs := if st = St.ok || st = St.memUncorrectable && s.accStatus h.addr h.len h.key = St.ok then s.nocFlits h.addr h.len h.key else []
      (s.rdRecord h.addr h.len h.key).nocAnswer h 2 st fs
  else if st ≠ St.ok then s.nocAnswer h (if h.op = 1 then 3 else 5) st []
  else if h.op = 1 then
    if s.place h.addr = .regs then (s.regWrite .cairn (h.addr - 0xFF0000000000) h.imm).nocAnswer h 3 st []
    else
      let bs := if data.isEmpty then leBytes 8 h.imm else data.flatMap (·.1)
      let s := s.store h.addr (bs.take h.len) h.key
      let s := if h.poison then s.poisonRange h.addr h.len
        else (data.zipIdx.filter fun d => d.1.2).foldl (fun s d => s.poisonRange (h.addr + 32 * d.2) (min 32 (h.len - 32 * d.2))) s
      s.nocAnswer h 3 st []
  else
    -- the header does not say which atomic it is: the new value is free, the answer carries the old one
    let old := s.nocFlits h.addr h.len h.key
    (s.drawn.store h.addr (leBytes h.len (s.fresh .unstated)) h.key).nocAnswer h 5 st (old.take 1)

/-- Delivery at the destination: a partition that is off has no unit there, one that is reset absorbs (R213, R452). An answer ends its
request and hands its data to the endpoint. -/
def State.nocDeliver (s : State) (h : NocHdr) (data : List (List Byte × Bool)) : State :=
  if h.isRequest then
    match epPart h.dst with
    | some p =>
      if !s.partOn p then s.nocAnswer h 7 St.addrUnmapped []
      else if s.rd F.RST_PART_STAT.rst_state p ≠ 0 then (s.bump F.RST_PART_STAT.absorb_cnt p).nocAnswer h 7 St.resetAbort []
      else s.nocPerform h data
    | none => s.nocPerform h data
  else if h.op = 6 then s.emit (.nocData h.dst h.txn St.ok (data.flatMap (·.1)) (h.poison || data.any (·.2)))
  else
    let mine (q : NocReq) := q.src == h.dst && q.txn == h.txn
    if s.nocReqs.any mine then
      (s.withNocReqs (s.nocReqs.filter fun q => !mine q)).emit
        (.nocData h.dst h.txn h.status ((data.flatMap (·.1)).take h.len) (h.poison || data.any (·.2)))
    else s

/-- NOC_PACKET: a packet reaches router `r`, whose check corrects or discards its header; it goes on along its path, or is delivered at
its destination's router, where the data flits are checked. A router that is off or failed passes nothing. -/
def execNocPacket (r : Fin 32) (header : BitVec 288) (data : List (BitVec 288)) (s : State) : Host.Outcome State Fault Refusal :=
  .next (
    let v := header.toNat
    let go (s : State) (v : Nat) : State :=
      let h := parseHdr v
      if h.rsv || data.length != h.nflits || !s.vcOk h then s
      else
        let s := s.nocOpen h
        if s.rd F.NOC_RTR.state r ≠ 0 then s
        else if s.epRouter h.dst ≠ r.val then s.nocHop r.val h (data.map (·.toNat))
        else s.nocDeliver h (data.map fun d => flitBytes d.toNat)
    match decodeWord288 v with
    | .clean => go s v
    | .corrected i e => go (if s.rd F.NOC_RTR.state r = 0 then s.bump F.NOC_RTR.ce_cnt r else s) (fixWord v (.corrected i e))
    | _ => if s.rd F.NOC_RTR.state r = 0 then (((s.put F.NOC_STAT.hdr_ue 1).bump F.NOC_RTR.drop_cnt r).nocOpen (parseHdr v)) else s)

/-- NOC_TIMEOUT. -/
def execNocTimeout (src : BitVec 12) (txn : BitVec 16) (s : State) : Host.Outcome State Fault Refusal :=
  .next (
    let mine (q : NocReq) := q.src == src.toNat && q.txn == txn.toNat
    if s.nocReqs.any mine then
      (s.withNocReqs (s.nocReqs.filter fun q => !mine q)).emit (.noc src.toNat St.memUncorrectable)
    else s)

/-! ## Scrubbing (R194, R195, R218, R219) -/

/-- Pinned radio SRAM and reserved scratchpad regions are scrubbed only in Col windows. -/
def State.scrubNow (s : State) (a : Nat) : Bool :=
  match s.place a with
  | .pinned _ => s.cycNow < 6600
  | .pad n => !(within a 32 (s.spRsv n).1 (s.spRsv n).2) || s.cycNow < 6600
  | .clSram _ => true
  | .bank _ => true
  | _ => false

/-- A day in ns. -/
def dayNs : Nat := 86400000000000

/-- A corrected SRAM word counts for its row: at `row_thr` within 24 h the row is recorded (R218). -/
def State.rowError (s : State) (a : Nat) : State :=
  let m := Config.sramMacro a
  let r := Config.sramRow a
  let es := (s.nowNs, m, r) :: s.sramErrs.filter fun e => s.nowNs < e.1 + dayNs
  let s : State := s.withSramErrs es
  let n := (es.filter fun e => e.2.1 == m && e.2.2 == r).length
  if s.rd F.MEM_SCRUB.row_thr ≤ n then s.defect 2 4 m r else s

/-- What an uncorrectable word of on-die SRAM does: a scratchpad's fences its core (R122), any other is poisoned. -/
def State.sramLost (s : State) (a : Nat) : State :=
  let s := ((s.bump F.MEM_SRAM_ERR.ue_cnt).poisonRange a 32).withSramUe (some s.nowNs)
  match s.place a with
  | .pad n => (s.put F.MSF_STAT.ue_err 1 n).fenceCore n 2
  | _ => s

/-- SRAM_SCRUB: the word at `addr` is read as `word`. -/
def execSramScrub (addr : Addr) (word : BitVec 288) (s : State) : Host.Outcome State Fault Refusal :=
  .next (
    let a := addr.toNat / 32 * 32
    if s.rd F.MEM_SCRUB.sram_scrub_ms = 0 ∨ s.scrubNow a = false then s
    else match decodeWord288 word.toNat with
      | .clean => s
      | .corrected i e =>
        let bs := leBytes 32 (fixWord word.toNat (.corrected i e))
        ((s.sramWr a bs).bump F.MEM_SRAM_ERR.ce_cnt).rowError a
      | .poisoned => s.poisonRange a 32
      | _ => s.sramLost a)

/-- What the patrol finds in one codeword: nothing, corrected symbols on devices, a tag mismatch, or nothing readable. -/
inductive PatrolFind where
  | clean
  | fixed (dev : Nat)
  | tag
  | poisoned
  | lost
  deriving DecidableEq, Repr

/-- Symbol `k` of device `d` of a burst of 16 beats on 40 lanes (R196): beat 2k in bits [3:0], beat 2k + 1 in bits [7:4]. -/
def burstSym (v d k : Nat) : Nat :=
  v / 2 ^ (80 * k + 4 * d) % 16 + 16 * (v / 2 ^ (80 * k + 40 + 4 * d) % 16)

/-- Codeword A (`h` = 0) or B (`h` = 1) of a burst with the tag that the reader expects (R196, R197). -/
def burstWord (v h tag : Nat) : List Nat :=
  (List.range 32).map (fun i => burstSym v (i / 4) (4 * h + i % 4)) ++ [tag % 256, tag / 256] ++
    (List.range 4).map fun k => burstSym v 8 (4 * h + k)

/-- Erasure parity of a codeword, and the stored copy of the line tag, on device 9. -/
def burstParity (v h : Nat) : List Nat := (List.range 3).map fun k => burstSym v 9 (3 * h + k)
def burstTag (v : Nat) : Nat := burstSym v 9 6 + 256 * burstSym v 9 7

/-- DRAM device of a codeword position (R196). -/
def devOfPos (i : Nat) : Nat := if i < 32 then i / 4 else 8

/-- Codeword positions of a device. -/
def posOfDev (d : Nat) : List Nat := if d = 8 then [34, 35, 36, 37] else span (4 * d) 4

/-- A word read with every device. -/
def findOf : Decoded → PatrolFind
  | .clean => .clean
  | .corrected i _ => .fixed (devOfPos i)
  | .poisoned => .poisoned
  | .tagMismatch => .tag
  | .uncorrectable => .lost

/-- A word read with device `d` erased, when that is possible without errors on two failed devices (R198). -/
def eraseFind (cs par fs : List Nat) (d : Nat) : Option PatrolFind :=
  match erasureOk cs par (posOfDev d) with
  | (true, none) => some (.fixed d)
  | (true, some i) =>
    if fs.contains 9 then none else if i = 32 ∨ i = 33 then some .tag
    else if fs.contains (devOfPos i) then none else some (.fixed (devOfPos i))
  | (false, _) => none

/-- Decode one codeword with the failed devices `fs` of its subchannel and rank (R198): each failed device that carries symbols of the word
is erased in turn. With device 9 among several, the parity of a word with errors on another failed device must hold exactly. -/
def patrolWord (cs par fs : List Nat) : PatrolFind :=
  let plain := classify true (syndromes cs)
  let ds := fs.filter (· != 9)
  if ds.isEmpty then findOf plain
  else match plain with
    | .clean => .clean
    | .poisoned => .poisoned
    | _ =>
      match ds.findSome? (eraseFind cs par fs) with
      | some f => f
      | none => match plain with
        | .corrected i _ => if fs.contains 9 && !ds.contains (devOfPos i) then .fixed (devOfPos i) else .lost
        | .tagMismatch => if fs.contains 9 then .tag else .lost
        | _ => .lost

/-- Distinct lines with corrections on a device within one patrol pass or one hour (R219). -/
def State.devLines (s : State) (d : DevErr) : Nat :=
  let h := 3600000000000
  let pass := max 1 (s.rd F.MEM_SCRUB.scrub_h) * h
  let inPass := d.lines.filter fun l => l.2 / pass == s.nowNs / pass
  let inHour := d.lines.filter fun l => s.nowNs < l.2 + h
  max inPass.length inHour.length

/-- A device of channel `m` is marked failed (R198, R219). -/
def State.failDevice (s : State) (m b : Nat) : State :=
  let s := s.orf F.MEM_DEV_FAIL.failed (2 ^ b) m
  let s := (s.put F.MEM_CH_STAT.state 1 m).put F.MEM_CH_STAT.erasure 1 m
  (s.service 4 Ev.dramDevice b m).defect 4 4 m b

/-- A corrected line counts for its device. -/
def State.devError (s : State) (m b line : Nat) : State :=
  let old := (s.devErrs.find? fun d => d.chan == m && d.bit == b).elim [] (·.lines)
  let d : DevErr := { chan := m, bit := b, lines := (line, s.nowNs) :: old.filter fun l => l.1 != line }
  let s : State := s.withDevErrs (d :: s.devErrs.filter fun d => !(d.chan == m && d.bit == b))
  let thr := s.rd F.MEM_SCRUB.dev_thr
  if thr ≠ 0 ∧ thr ≤ s.devLines d ∧ bit (s.rd F.MEM_DEV_FAIL.failed m) b = false then s.failDevice m b else s

/-- The place of a line on channel `m`: its offset there, and for a mirrored line whether it is the mirror. -/
def State.patrolAt (s : State) (a m : Nat) : Option (Nat × Option Bool) :=
  match s.dramDecode a with
  | none => none
  | some (p, none) => if p.1 = m then some (p.2, none) else none
  | some (p, some q) => if p.1 = m then some (p.2, some false) else if q.1 = m then some (q.2, some true) else none

/-- Words of a line that the patrol found lost: poisoned, or for one copy of a mirrored line that copy (R194, R202). A patrol read never
changes a poisoned line (R219). -/
def State.patrolLost (s : State) (line : Nat) (copy : Option Bool) (a b poisoned : Bool) : State :=
  if poisoned || !(a || b) then s
  else match copy with
    | some c => if s.badCopy.contains (line, c) then s else s.withBadCopy (s.badCopy ++ [(line, c)])
    | none =>
      let s := if a then s.poisonRange (line * 64) 32 else s
      if b then s.poisonRange (line * 64 + 32) 32 else s

/-- What the patrol of line `line` found in its two words `fa` and `fb` (R194, R198, R219): tag mismatches, lost words with the stored copy
of the tag, and the corrected devices. -/
def State.patrolFound (s : State) (m line base tag : Nat) (copy : Option Bool) (fa fb : PatrolFind) : State :=
  let lost (f : PatrolFind) : Bool := match f with | .lost => true | _ => false
  let isTag (f : PatrolFind) : Bool := match f with | .tag => true | _ => false
  let psn (f : PatrolFind) : Bool := match f with | .poisoned => true | _ => false
  let s := if isTag fa || isTag fb then s.bump F.MEM_CH_ERR.tag_cnt m else s
  let s := if lost fa || lost fb then
      ((s.bump F.MEM_CH_ERR.ue_cnt m).put F.MEM_UE_ADDR.addr (line * 64)).put F.MEM_UE_ADDR.stored_tag tag
    else s
  let s := s.patrolLost line copy (lost fa || isTag fa) (lost fb || isTag fb) (psn fa || psn fb)
  let devs := ([fa, fb].filterMap fun f => match f with | .fixed d => some d | _ => none).dedup
  if devs.isEmpty then s
  else devs.foldl (fun s d => s.devError m (base + d) line) (s.bump F.MEM_CH_ERR.ce_cnt m)

/-- The patrol of line `line` on one rank of channel `m`, read as `burst`. The tag expected is that of the key under which the line was
written. -/
def State.patrolLine (s : State) (m rank line burst : Nat) : State :=
  (s.patrolAt (line * 64) m).elim s fun x =>
    if s.rd F.MEM_SCRUB.scrub_h = 0 ∨ s.chanLive m = false then s
    else
      let base := 20 * (x.1 / 64 % 2) + 10 * rank
      let fs := (List.range 10).filter fun d => bit (s.rd F.MEM_DEV_FAIL.failed m) (base + d)
      let tag := lineTag (((kfind s.lineKey line).map (·.1)).getD devKey) (line * 64)
      s.patrolFound m line base (burstTag burst) x.2 (patrolWord (burstWord burst 0 tag) (burstParity burst 0) fs)
        (patrolWord (burstWord burst 1 tag) (burstParity burst 1) fs)

/-- DRAM_PATROL: a line is read on one rank as a burst of 16 beats on 40 lanes, beat 0 and lane 0 lowest. -/
def execDramPatrol (m : Fin 24) (rank : Fin 2) (addr : Addr) (lo hi : BitVec 320) (s : State) : Res :=
  .next (s.patrolLine m.val rank.val (addr.toNat / 64) (hi ++ lo).toNat)

/-! ## Lost channels and routers (R200, R203, R214, R457) -/

/-- A range has bytes on a channel. -/
def State.touchesChan (s : State) (a n m : Nat) : Bool := (pagesOf a n).any fun p => s.chanOf p == some m

/-- Weights of a model lie on a channel: sources of its DMA templates. -/
def State.weightsOn (s : State) (md : Model) (m : Nat) : Bool :=
  md.stages.any fun st => st.items.any fun it =>
    let w (i : Nat) := (it.words.getD i 0).toNat
    it.kind.val == 2 && w 0 / 2 ^ 48 == s.ownNode &&
      s.touchesChan (w 0 % 2 ^ 48) (bits (w 2) 31 0 + (bits (w 2) 47 32 - 1) * bits (w 3) 31 0) m

/-- A sequence whose pages or weights lie on a channel. -/
def State.seqOnChan (s : State) (q : Seq) (m : Nat) : Bool :=
  (q.pages.any fun e => !e.remote && s.touchesChan (e.frame * 65536) (65536 * 2 ^ e.cls) m) ||
  ((kfind s.models q.model).elim false fun md => s.weightsOn md m)

/-- A partition accepts no admissions below `min_ch` channels, or with its controller held (R200, R280). -/
def State.refuseAdm (s : State) (p : Nat) : State :=
  s.put F.SRV_PART.adm_refuse (b2n (!s.serves p || s.rd F.FW_PROC_STAT.pstate (pc p) == 2)) p

/-- CHANNEL_LOST. -/
def execChannelLost (m : Fin 24) (s : State) : Host.Outcome State Fault Refusal :=
  .next (
    if s.chanLive m then
      let hit := (s.seqs.filter fun q => q.2.st != .free && s.seqOnChan q.2 m).map (·.1)
      let s := (s.put F.MEM_CH_STAT.state 2 m).put F.MEM_CH_STAT.lost 1 m
      let s := (s.service 4 Ev.channel m.val).defect 5 6 m 0
      let s := s.refuseAdm (m.val / 3)
      hit.foldl (fun s i => s.askFreeze i 6 St.memUncorrectable) s
    else s)

/-- Work of a core, and of a Spur core, ends as at a fence (R123, R167). -/
def State.stopCore (s : State) (n : Nat) : State :=
  let s := s.stopCoreWork n
  s.tileOver n (s.rd F.MSF_LAST.last_tag n) (s.rd F.MSF_LAST.last_end n)
def State.stopSpur (s : State) (n : Nat) : State := s.stopSpurWork n

/-- Every core and Spur core of a cluster becomes absent (R214). -/
def State.loseCluster (s : State) (cl : Nat) : State :=
  (span (16 * cl) 16).foldl (fun s n => (s.stopSpur n).loseSpur n)
    ((span (4 * cl) 4).foldl (fun s n => (s.stopCore n).loseCore n) s)

/-- ROUTER_FAILURE: while Cairn is down the entries are written when it runs again. -/
def execRouterFailure (r : Fin 32) (s : State) : Host.Outcome State Fault Refusal :=
  .next (
    if s.rd F.NOC_RTR.state r ≠ 0 then s
    else
      let s := s.put F.NOC_RTR.state 2 r
      let s := (s.service 4 Ev.router r.val).defect 6 6 (mapRouter r) 0
      let s := ((List.range s.nClusters).filter fun cl => clRouter cl == r.val).foldl State.loseCluster s
      if s.procUp cairn then s.reroute [r.val] else s)

end Sys2Proof.Machine
end

