-- ==== Sys2Proof/Machine/Reserve.lean ====
section
/-! DEFINITION. Reservations (R286, R305, R311–R318, R336, R337): the frames a pass writes into, what the allocator does when
they are short, spills, and the sequences that wait for pages. -/

namespace Sys2Proof.Machine

/-- Frame class of a model (R297). -/
def Model.cls (m : Model) : Nat := m.frameLog2 - 16
/-- `tick_count` [31:0], and the age of such a value by signed difference (R275). -/
def State.tick32 (s : State) : Nat := (s.time.tick % 2 ^ 32).toNat
def State.age32 (s : State) (t : Nat) : Int := toSigned 32 ((s.tick32 + 2 ^ 32 - t % 2 ^ 32) % 2 ^ 32)

/-- Rows that a sequence contributes to its next pass (R286). -/
def State.passRows (s : State) (q : Seq) : Nat :=
  if q.len < q.promptLen then
    let c := s.rd F.SRV_CTRL.chunk_pg * 256
    -- in a ring the chunk applies to each member's share (R327)
    let n := ceilDiv (q.promptLen - q.len) q.width
    if c = 0 then n else min n c
  else if q.spec then 1 + q.draftLen else 1

/-- A sequence in a state that a work list may name (R276, R287). -/
def Seq.eligible (q : Seq) : Bool :=
  (q.st == .admitted || q.st == .prefill || q.st == .decode) && q.lookupDone && !q.cancelPend && !q.held && q.branch == 0 &&
  q.freezeReq == none && q.needFork == 0

/-! ## Granting (R305, R311, R317) -/

/-- Free frames of class c in partition p. -/
def State.freeOf (s : State) (p c : Nat) : Nat :=
  (s.freeList p c).length + s.rd F.KV_FREE.chunks_free p * (64 / 2 ^ c)

/-- What a pass of `rows` rows needs: page-list entries to add, shared frames to copy but for those in `keep`, transit frames. -/
structure Need where
  entries : List Nat
  copies  : List Nat
  transit : Nat
  deriving DecidableEq, Repr

def State.needOf (s : State) (q : Seq) (md : Model) (rows : Nat) (keep : List Nat) : Need :=
  let new := q.len + q.advance rows
  { entries := newEntries q md.lgCount new,
    copies := (s.sharedWrites q md.lgCount new).filter fun k => !keep.contains k,
    transit := q.transitNeed md rows }

/-- Entries whose frame lies on this device, and the frames needed here (R324, R326). -/
def Need.here (n : Need) (q : Seq) (lg : Nat) : List Nat := n.entries.filter fun k => (q.holderNode (k / max 1 lg)).isNone
def Need.frames (n : Need) (q : Seq) (lg : Nat) : Nat := (n.here q lg).length + n.copies.length + n.transit

/-- The new entries of a page list: frames here in order, and members' frames, which only the member names. -/
def Need.enter (n : Need) (q : Seq) (lg cls free : Nat) (es : List PageEnt) : List PageEnt :=
  (n.entries.foldl (fun (a : List PageEnt × List PageEnt) k =>
    match q.holderNode (k / max 1 lg) with
    | some x => (a.1 ++ [{ frame := (free + k) % 2 ^ 28, node := x, remote := true, cls := cls }], a.2)
    | none => match a.2 with
      | e :: es => (a.1 ++ [e], es)
      | [] => a) ([], es)).1

/-- Reserve the frames of a pass for sequence i: all or none (R304, R311, R327). The copies are named by page-list index. -/
def State.tryGrant (s : State) (i rows : Nat) (keep : List Nat) : Except Nat (State × List (Nat × Nat × PageEnt)) :=
  match s.seq? i with
  | none => .ok (s, [])
  | some q =>
    match kfind s.models q.model with
    | none => .ok (s, [])
    | some md =>
      let n := s.needOf q md rows keep
      if !s.blocksOk q.pages.length (q.pages.length + n.entries.length) then .error 0
      else match s.allocMany q.part md.cls q.slice (scopeOf q) true (n.frames q md.lgCount) with
      | .error r => .error r
      | .ok (es, s) =>
        let a := (n.here q md.lgCount).length
        let b := a + n.copies.length
        let s := if a < n.entries.length then s.drawn else s
        .ok (s.modSeq i fun q => { q with
              pages := q.pages ++ n.enter q md.lgCount md.cls (s.fresh .firmware) (es.take a), transit := q.transit ++ es.drop b },
            (n.copies.zip (es.drop a)).map fun x => (i, x.1, x.2))

/-! ## Shortage (R311, R312) -/

/-- Drop a node for the allocator and count it against the tick. -/
def State.dropFor (s : State) (p n : Nat) : State :=
  let s := s.dropNode n
  s.setPart p { s.partOf p with recl := (s.partOf p).recl + 1 }

/-- Nodes may still be dropped in this tick. -/
def State.mayDrop (s : State) (p : Nat) : Bool := (s.partOf p).recl < s.rd F.KV_CTRL.reclaim_max

/-- Drop nodes from the head of the list until `need` frames of class c are free. -/
def State.reclaim (s : State) (p c need : Nat) : Nat → State
  | 0 => s
  | n + 1 =>
    if need ≤ s.freeOf p c || !s.mayDrop p then s
    else match s.lruOf p with
      | [] => s
      | h :: _ => (s.dropFor p h).reclaim p c need n

/-- A slice at its quota: only nodes whose frames it owns are dropped. -/
def State.reclaimOwn (s : State) (p sl units : Nat) : Nat → State
  | 0 => s
  | n + 1 =>
    if s.rd F.KV_QUOTA.used_64k sl + units ≤ s.rd F.KV_QUOTA.quota_64k sl || !s.mayDrop p then s
    else
      let own (n : Nat) : Bool := (kfind s.nodes n).elim false fun x => x.frames.all fun e =>
        (s.frame e.frame).owned && (s.frame e.frame).owner == sl
      match (s.lruOf p).find? own with
      | none => s
      | some h => (s.dropFor p h).reclaimOwn p sl units n

/-- The CACHE partition with the most free frames of class c (R312). -/
def State.spillDest (s : State) (c : Nat) : Option Nat :=
  ((List.range s.nPart).filter fun p => s.rd F.SRV_PART.role p == 2 && s.serves p).foldl (fun b p => match b with
    | none => some p
    | some x => if s.freeOf x c < s.freeOf p c then some p else some x) none

/-- A page that a spill already moves. -/
def State.inSpill (s : State) (es : List PageEnt) : Bool := s.spills.any fun x => x.old.any fun e => es.any fun f => f.frame == e.frame

/-- Local frames of one class in partition p. -/
def State.localPage (s : State) (p c : Nat) (es : List PageEnt) : Bool :=
  !es.isEmpty && es.all fun e => !e.remote && e.cls == c && s.framePart e.frame == some p

/-- Last read of a page's frames, as an age. -/
def State.pageAge (s : State) (es : List PageEnt) : Int :=
  es.foldl (fun a e => min a (s.age32 (s.frame e.frame).lastRead)) (2 ^ 31)

/-- Cold pages of partition p, oldest read first (R312): sequence, page, entries. -/
def State.coldPages (s : State) (p c : Nat) : List (Nat × Nat × List PageEnt) :=
  let cold := s.rd F.KV_CTRL.cold_ticks
  let all := s.seqs.flatMap fun x =>
    let q := x.2
    if q.st = .free ∨ q.st = .ending then []
    else
      let lg := ((kfind s.models q.model).map (·.lgCount)).getD 1
      (List.range (q.len / 256)).filterMap fun i =>
        let es := (q.pages.drop (i * lg)).take lg
        if s.localPage p c es && !s.inSpill es && (q.st == .frozen || (cold != 0 && decide ((cold : Int) ≤ s.pageAge es)))
        then some (x.1, i, es) else none
  sortBy (fun x => -(s.pageAge x.2.2)) all

/-- Start one spill to partition d: frames there under the same key. -/
def State.startSpill (s : State) (p d : Nat) (seq node : Option Nat) (page : Nat) (es : List PageEnt) : State :=
  match es with
  | [] => s
  | e :: _ =>
    let x := s.frame e.frame
    match s.allocMany d e.cls x.owner x.key false es.length with
    | .ok (ns, s) => s.withSpills (s.spills ++ [{ seq := seq, node := node, page := page, src := p, dst := d, old := es, new := ns }])
    | .error _ => s

/-- Start spills of cold pages, then of unreferenced nodes, until `lack` frames are on their way. -/
def State.startSpills (s : State) (p c lack : Nat) : State :=
  match s.spillDest c with
  | none => s
  | some d =>
    let moving (s : State) : Nat := (s.spills.filter fun x => x.src == p).foldl (fun a x => a + x.old.length) 0
    let base := moving s
    let room (s : State) : Bool := moving s < base + lack
    let s := (s.coldPages p c).foldl (fun s x =>
      if room s && !s.inSpill x.2.2 then s.startSpill p d (some x.1) none x.2.1 x.2.2 else s) s
    (s.lruOf p).foldl (fun s n =>
      match kfind s.nodes n with
      | some x => if room s && s.localPage p c x.frames && !s.inSpill x.frames then s.startSpill p d none (some n) 0 x.frames else s
      | none => s) s

/-- What the allocator does for a need that failed (R311); while the controller is down it only grants (R417). -/
def State.serveNeed (s : State) (p c sl need reason : Nat) : State :=
  if s.procUp (pc p) = false then s
  else if reason = 1 then s.reclaimOwn p sl (need * 2 ^ c) (s.rd F.KV_CTRL.reclaim_max)
  else
    let s := s.reclaim p c need (s.rd F.KV_CTRL.reclaim_max)
    if need ≤ s.freeOf p c ∨ s.on F.KV_CTRL.spill_en = false ∨ s.rd F.SRV_PART.role p = 2 then s
    else s.startSpills p c (need - s.freeOf p c)

/-- Serve the need of sequence i for a pass of `rows` rows. -/
def State.serveSeq (s : State) (i rows reason : Nat) : State :=
  match s.seq? i with
  | none => s
  | some q =>
    match kfind s.models q.model with
    | none => s
    | some md =>
      s.serveNeed q.part md.cls q.slice ((s.needOf q md rows []).frames q md.lgCount) reason

/-- Enter PAGE_WAIT (R313). -/
def State.toPageWait (s : State) (i : Nat) : State :=
  s.modSeq i fun q => { q with st := .pageWait, resume := q.st, wait := 0 }

/-- Reasons of a shortage that a wait reports (R313): 1 for the quota, else 0. -/
def State.waitDetail (s : State) (i : Nat) : Nat :=
  match s.seq? i with
  | none => 0
  | some q =>
    match kfind s.models q.model with
    | none => 0
    | some md =>
      let n := (s.needOf q md (s.passRows q) []).frames q md.lgCount
      b2n (s.rd F.KV_QUOTA.quota_64k q.slice < s.rd F.KV_QUOTA.used_64k q.slice + n * 2 ^ md.cls)

/-! ## Waiting sequences (R311, R313, R316) -/

/-- `wait` advances: not while the controller restarts, nor in a reset of the partition (R417, R420, R455). -/
def State.waitRuns (s : State) (p : Nat) : Bool :=
  (s.procUp (pc p) || s.rd F.FW_PROC_STAT.pstate (pc p) == 2) && s.rd F.RST_PART_STAT.rst_state p == 0

/-- Serve one sequence in PAGE_WAIT at a step boundary. -/
def State.serveWait (s : State) (i : Nat) : State :=
  match s.seq? i with
  | none => s
  | some q =>
    if q.st ≠ .pageWait then s
    else
      let more (s : State) := if s.waitRuns q.part then s.modSeq i fun q => { q with wait := satAdd 16 q.wait 1 } else s
      if q.pages.isEmpty ∧ 0 < q.len then
        -- a fork whose private copies were not granted
        match s.seq? q.origin with
        | some o =>
          if o.cmd ≠ q.cmd then more s
          else match s.shareEntries q o.pages with
            | .ok (es, s) =>
              let s := o.nodes.foldl (fun s n => s.useNode n true) s
              s.modSeq i fun q => { q with pages := es, nodes := o.nodes, st := q.resume, wait := 0, origin := 0 }
            | .error _ => more s
        | none => more s
      else
        let rows := s.passRows q
        let go (s : State) : Option State := match s.tryGrant i rows [] with
          | .ok (s', cow) => some ((cow.foldl (fun s c => s.decRef c.2.2) s').modSeq i fun q => { q with st := q.resume, wait := 0 })
          | .error _ => none
        match go s with
        | some s => s
        | none =>
          let s := s.serveSeq i rows (s.waitDetail i)
          match go s with
          | some s => s
          | none => more s

/-- A MOVING sequence whose destination had no frames (R291). -/
def State.serveMoving (s : State) (i : Nat) : State :=
  match s.seq? i with
  | none => s
  | some q =>
    if q.st = .moving ∧ q.moveTo = none then
      let s := s.startMove i
      s.modSeq i fun q => if q.moveTo.isSome then { q with wait := 0 }
        else if s.waitRuns q.part then { q with wait := satAdd 16 q.wait 1 } else q
    else s

/-- Sequences of a partition. -/
def State.seqsOf (s : State) (p : Nat) : List (Nat × Seq) := s.seqs.filter fun x => x.2.st != .free && x.2.part == p

/-- Page service of a step boundary: the waiting sequences in descending `wait`, then the moving ones. -/
def State.pageService (s : State) (p : Nat) : State :=
  let w := sortBy (fun x => -(x.2.wait : Int)) ((s.seqsOf p).filter fun x => x.2.st == .pageWait)
  let s := w.foldl (fun s x => s.serveWait x.1) s
  ((s.seqsOf p).filter fun x => x.2.st == .moving).foldl (fun s x => s.serveMoving x.1) s

/-- `waiting` of KV.WAIT[p]. -/
def State.countWaiting (s : State) (p : Nat) : State :=
  s.put F.KV_WAIT.waiting ((s.seqsOf p).filter fun x => x.2.st == .pageWait || (x.2.st == .moving && x.2.moveTo == none)).length p

/-! ## Reserving for a batch (R286, R317, R336) -/

/-- Shared frames that a pass of these sequences writes: sequence, page-list index, frame. -/
def State.batchWrites (s : State) (b : List (Nat × Nat)) : List (Nat × Nat × Nat) :=
  b.flatMap fun r =>
    match s.seq? r.1 with
    | none => []
    | some q =>
      let lg := ((kfind s.models q.model).map (·.lgCount)).getD 1
      (s.sharedWrites q lg (q.len + q.advance r.2)).map fun k => (r.1, k, ((q.pages[k]?).map (·.frame)).getD 0)

/-- Page-list indices at which sequence i keeps the original: every referrer writes and i is the lowest (R317). -/
def State.keepOf (s : State) (ws : List (Nat × Nat × Nat)) (i : Nat) : List Nat :=
  (ws.filter fun w => w.1 == i && (
    let same := ws.filter fun v => v.2.2 == w.2.2
    same.length == (s.frame w.2.2).refs && same.all fun v => i ≤ v.1)).map (·.2.1)

/-- Reserve for every sequence of a batch, or name the first that fails. -/
def State.grantAll (s : State) (ws : List (Nat × Nat × Nat)) :
    List (Nat × Nat) → Except (Nat × Nat) (State × List (Nat × Nat × PageEnt))
  | [] => .ok (s, [])
  | r :: rs =>
    match s.tryGrant r.1 r.2 (s.keepOf ws r.1) with
    | .error e => .error (r.1, e)
    | .ok (s, c) =>
      match s.grantAll ws rs with
      | .error e => .error e
      | .ok (s, cs) => .ok (s, c ++ cs)

/-- Reserve for a batch: a sequence whose reservation fails after the allocator has served it takes a plain pass where it
speculates (R336), else it waits for pages and leaves the batch; a branch that fails is not forked (R316, R337). -/
def State.reserveBatch (s : State) (b : List (Nat × Nat)) : Nat → State × List (Nat × Nat) × List (Nat × Nat × PageEnt)
  | 0 => (s, [], [])
  | n + 1 =>
    match s.grantAll (s.batchWrites b) b with
    | .ok (s, cow) => (s, b, cow)
    | .error (i, why) =>
      let rows := ((b.find? fun r => r.1 == i).map (·.2)).getD 1
      let s := s.serveSeq i rows why
      match s.grantAll (s.batchWrites b) b with
      | .ok (s, cow) => (s, b, cow)
      | .error (j, _) =>
        let q := s.seq? j
        let plain := q.elim false fun q => q.spec && q.promptLen ≤ q.len && ((b.find? fun r => r.1 == j).map (·.2)).getD 1 != 1
        let own (r : Nat × Nat) : Bool := (s.seq? r.1).elim false fun x => x.branch != 0 && x.origin == j
        let s := (b.filter own).foldl (fun s r => s.freeEntry r.1) s
        let b := b.filter fun r => !own r
        if (q.elim 0 (·.branch)) ≠ 0 then (s.freeEntry j).reserveBatch (b.filter fun r => r.1 != j) n
        else if plain then s.reserveBatch (b.map fun r => if r.1 = j then (j, 1) else r) n
        else (s.toPageWait j).reserveBatch (b.filter fun r => r.1 != j) n

end Sys2Proof.Machine
end

