-- ==== Sys2Proof/Machine/StepBuild.lean ====
section
/-! DEFINITION. The column of a tick and its work list (R71, R76–R79, R90–R93, R285–R289, R317, R337, R455): fetch and check of
the column, what is carried over from the last tick, batches and passes, placement in gaps, and the published list. -/

namespace Sys2Proof.Machine

/-! ## The column (R71, R75–R78) -/

/-- The entries of a new column. A RADIO entry that still runs at the edge goes on until it ends (R87), after the new entries: it takes
no open time of the new column (DESIGN CHOICE, log 65), and its job, transfer or buffer names it there. End records of the last tick
have been read. -/
def State.newColumn (s : State) (p : Nat) (es : List ColSlot) : State :=
  let ran := (s.partOf p).col.zipIdx.filter fun x => x.1.st.isRunning
  let at_ (e : Nat) : Nat := match ran.findIdx? fun x => x.2 == e with
    | some i => es.length + i
    | none => e
  let s := s.setPart p { s.partOf p with col := es ++ ran.map fun x => { x.1 with start := 412500, late := true }, ends := [] }
  let s := s.withJobs (kmapv s.jobs fun _ j => if j.radio && j.part == p then { j with item := at_ j.item } else j)
  let s := s.withDmas (kmapv s.dmas fun k ds => if k / 16 = p then ds.map fun d => if d.radio then { d with item := d.item.map at_ } else d else ds)
  s.withFhBufs (s.fhBufs.map fun b => if b.part = p then { b with entry := at_ b.entry } else b)

/-- Fetch the column of the present tick; skipped entries are counted and reported. A stopped sequencer fetches none, and `cur_col`
stays (DESIGN CHOICE, log 95). -/
def State.fetchColumn (s : State) (p : Nat) : State :=
  let len := s.rd F.TICK_STAT.cur_len p
  if len = 0 ∨ s.seqRuns p = false then s.newColumn p []
  else
    let col := ((s.time.tick - s.frameOff) % len).toNat
    let es := s.readColumn p col
    let s := (s.put F.TICK_STAT.cur_col col p).newColumn p es
    let bad := es.filter fun x => x.st == .skipped
    if bad.isEmpty then s
    else
      let s := (s.put F.TICK_STAT.col_err 1 p).bump F.TICK_COMMIT.col_err_cnt p bad.length
      bad.foldl (fun s x =>
        let s := s.event 2 2 Ev.column (x.lane + 128 * col) (pc p)
        if x.kind = 0 then s.missed p x.desc else s) s

/-! ## Carrying work over a tick edge (R88–R92, R124, R289) -/

/-- Words of an item's descriptor: a job has sixteen. -/
def State.itemWords (s : State) (it : WlItem) : List Nat := if it.kind = 1 then s.jobWords it.desc else s.descWords it.desc

/-- The lowest stage of a pass that still has items to end. -/
def openStage (wl : List WlItem) (pass : Nat) : Option Nat :=
  wl.foldl (fun m it =>
    if it.pass = pass ∧ it.st ≠ .done then
      some (match m with | none => it.stage | some k => min k it.stage)
    else m) none

/-- Before the edge, open work that still runs stops, while transfers go on (R88); RADIO entries that never started are missed (R69, R87);
one that still runs has overrun. -/
def State.stopAtEdge (s : State) (p : Nat) : State :=
  let cyc := 412500 - s.rd F.TICK_FIT.abort_lead p
  let s := (s.atCyc cyc).stopWork p cyc .edge
  (s.partOf p).col.zipIdx.foldl (fun s x =>
    if x.1.kind = 0 ∧ x.1.st = .waiting then (if s.laneOk p x.1.lane then s.missEntry p x.2 x.1 else s.missEvent p x.2 x.1)
    else if x.1.st.isRunning then s.noteOverrun p x.2 x.1 else s) s

/-- The items that the next list starts from, with their descriptors: running transfers, then aborted items, then items
that never ran, of the lowest open stage of each pass; `after` names places of the new list. -/
def State.carried (s : State) (p : Nat) : List (WlItem × List Nat) :=
  let wl := (s.partOf p).wl
  let alive (it : WlItem) : Bool := s.passes.any fun x => x.id + 1 == it.pass && x.part == p && !x.again
  let keep (it : WlItem) : Bool :=
    it.st != .done && it.st != .failed &&
    ((it.kat && 0 < it.aborts) || (it.pass != 0 && alive it && openStage wl it.pass == some it.stage))
  let ks := wl.zipIdx.filter fun x => keep x.1 || (x.1.st.isRunning && dmaLane x.1.lane)
  let run := ks.filter fun x => x.1.st.isRunning
  let tried := ks.filter fun x => !x.1.st.isRunning && 0 < x.1.aborts
  let rest := ks.filter fun x => !x.1.st.isRunning && x.1.aborts == 0
  let order := run ++ tried ++ rest
  order.map fun x =>
    let a := if x.1.after = 0 then 0 else
      match order.findIdx? fun y => y.2 + 1 == x.1.after with
      | some j => j + 1
      | none => 0
    ({ x.1 with after := a, st := if x.1.st.isRunning then x.1.st else .waiting }, s.itemWords x.1)

/-- Running transfers keep their item, known-answer runs that did not start stay due, and passes fall back to their open
stage. -/
def State.beginCarry (s : State) (p : Nat) : State :=
  let wl := (s.partOf p).wl
  let run := (wl.zipIdx.filter fun x => x.1.st.isRunning && dmaLane x.1.lane).map (·.2)
  let s : State := ((s.withDmas (kmapv s.dmas fun k ds => if k / 16 = p then ds.map fun d => { d with
        item := if d.radio then d.item else d.item.bind fun i => run.findIdx? fun j => j == i } else ds)).withPasses (s.passes.map fun x =>
      if x.part ≠ p then x
      else match openStage wl (x.id + 1) with
        | some k => { x with stage := k + 1 }
        | none => x))
  let due := wl.filterMap fun it =>
    if it.kat ∧ it.aborts = 0 ∧ it.st ≠ .done then some (if coreLane it.lane then coreOf p it.lane else 128 + spurOf p it.lane)
    else none
  let x := s.partOf p
  s.setPart p { x with katDue := x.katDue ++ due.filter fun u => !x.katDue.contains u }

/-! ## Placement (R286, R288) -/

/-- The list under construction. -/
structure Builder where
  items : List WlItem
  /-- Estimated end of each item. -/
  ends  : List Nat
  /-- Lane · 64 + gap ↦ next free cycle; lane ↦ cycles placed. -/
  cur   : KMap Nat
  used  : KMap Nat
  slots : List Nat
  full  : Bool
  rows  : Nat

def Builder.zero : Builder := { items := [], ends := [], cur := [], used := [], slots := [0, 0, 0, 0], full := false, rows := 0 }

/-- The first lane with a gap that takes `est` cycles after cycle `from_`, and the cycle. -/
def State.findGap (s : State) (p : Nat) (b : Builder) (lanes : List Nat) (threads est from_ : Nat) : Option (Nat × Nat × Nat) :=
  lanes.findSome? fun l =>
    if !s.laneOk p l || (spurLane l && (s.openThreads p l threads).isNone) ||
        (computeLane l && s.laneBudget p l < kget b.used l 0 + est) then none
    else (((gapsOf (s.partOf p).col l).zipIdx).take 64).findSome? fun g =>
      let t := max (max g.1.1 (kget b.cur (64 * l + g.2) 0)) from_
      if t + est ≤ g.1.2 then some (l, g.2, t) else none

/-- Cluster whose region takes an item's descriptor. -/
def Builder.cluster (b : Builder) (l n : Nat) : Nat :=
  if coreLane l then l / 4 else if spurLane l then (l - 16) / 16
  else ((List.range 4).find? fun c => b.slots.getD c 0 + n ≤ 1024).getD 0

/-- Append an item at a lane: its descriptor goes into a free slot. Nothing when the list or the region is full (R288). -/
def State.append (s : State) (p : Nat) (b : Builder) (it : WlItem) (words : List Nat) (endAt : Nat) : Option (State × Builder) :=
  let n := if words.length = 16 then 2 else 1
  let c := b.cluster it.lane n
  let k := b.slots.getD c 0
  if 2048 ≤ b.items.length || 1024 < k + n then none
  else
    let a := s.rd F.MSF_DESC_BASE.base (4 * p + c) + 64 * k
    let s := if words.isEmpty then s else s.store a (words.flatMap (leBytes 8)) devKey
    some (s, { b with
      items := b.items ++ [{ it with slot := k, cl := c, desc := a }], ends := b.ends ++ [endAt]
      slots := b.slots.set c (if words.isEmpty then k else k + n) })

/-- Place an item in a gap. The error says whether the list or the region was full. -/
def State.placeItem (s : State) (p : Nat) (b : Builder) (lanes : List Nat) (threads need : Nat) (it : WlItem)
    (words : List Nat) : Except Bool (State × Builder) :=
  let from_ := if it.after = 0 then 0 else b.ends.getD (it.after - 1) 412500
  match s.findGap p b lanes threads need from_ with
  | none => .error false
  | some (l, g, t) =>
    let thr := if spurLane l then (s.openThreads p l threads).getD 0 else 0
    match s.append p b { it with lane := l, gap := g, thr := thr, st := .waiting } words (t + need) with
    | none => .error true
    | some (s, b) => .ok (s, { b with cur := kset b.cur (64 * l + g) (t + need), used := kset b.used l (kget b.used l 0 + need) })

/-- Carried items come first (R90, R92): a running transfer goes on, an item without a gap stays in the list, unplaced. -/
def State.placeCarried (s : State) (p : Nat) (b : Builder) (x : WlItem × List Nat) : State × Builder :=
  let it := x.1
  if it.st.isRunning then
    (s, { b with items := b.items ++ [it], ends := b.ends ++ [412500] })
  else
    let lanes := if it.kat then [it.lane] else s.lanesFor p it.kind x.2
    match s.placeItem p b lanes (popThreads it.thr) it.need it x.2 with
    | .ok r => r
    | .error _ =>
      match s.append p b { it with st := .abandoned } x.2 412500 with
      | some r => r
      | none => (s, { b with items := b.items ++ [{ it with st := .abandoned }], ends := b.ends ++ [412500] })

/-- No gap of the need's length exists on any lane of any column (R92). -/
def State.unfit (s : State) (p : Nat) (it : WlItem) : Bool :=
  8 ≤ it.aborts && it.kind == 0 && !it.kat && !((List.range (s.rd F.TICK_STAT.cur_len p)).any fun c =>
    let col := s.readColumn p c
    (s.lanesFor p 0 (s.itemWords it)).any fun l => s.laneOk p l && (gapsOf col l).any fun g => it.need ≤ g.2 - g.1)

/-- A known-answer run that is due (R124, R168). -/
def State.placeKat (s : State) (p : Nat) (b : Builder) (u : Nat) : State × Builder × Bool :=
  let spur := 128 ≤ u
  let l := if spur then (u - 128) % 64 + 16 else u % 16
  let it : WlItem := { lane := l, kind := 3, gap := 0, after := 0, slot := 0, cl := 0, thr := 0, est := Config.katCycles spur,
                       batch := 0, desc := 0, arrays := 4, rows := [], aborts := 0, kat := true, st := .waiting }
  -- on a Spur core whose threads are all reserved the run stays due (R168)
  match s.placeItem p b [l] (if spur && s.katMask (u - 128) == 0 then 9 else 0) it.est it [] with
  | .ok (s, b) => (s, b, true)
  | .error f => (s, { b with full := b.full || f }, false)

/-! ## Passes (R285–R289, R317) -/

/-- Patch a template (R113, R161, R215): the slice, and a tile's rows per array. -/
def patchWords (kind slice rows : Nat) (ws : List Nat) : List Nat :=
  let ins (i lo n v : Nat) (ws : List Nat) : List Nat :=
    ws.modify i fun w => w - bits w (lo + n - 1) lo * 2 ^ lo + v % 2 ^ n * 2 ^ lo
  if kind = 0 then
    let na := max 1 (decodeTile ws).arr.length
    ins 7 32 12 slice (ins 0 32 13 (ceilDiv rows na) ws)
  else if kind = 1 then ins 10 32 12 slice ws
  else ins 4 14 12 slice ws

/-- The destination node of a transfer that forwards a block (R327). -/
def patchNode (node : Nat) (ws : List Nat) : List Nat := ws.modify 1 fun w => w % 2 ^ 48 + node % 65536 * 2 ^ 48

/-- The model's layout takes a template: a core's item where the core has a run, a round's item in a ring that has the round, and no
transfer in the last one (R327, R330). -/
def templateHere (md : Model) (m : Nat) (t : ItemTemplate) : Bool :=
  (md.attnMode != 2 || t.core.all fun j => decide (j.val < md.splitCores)) &&
  (md.attnMode != 1 || t.round.all fun r => decide (r.toNat + b2n t.fwd < m))

/-- Lanes of an item that a core of the partition works on (R330). -/
def coreLanes (md : Model) (t : ItemTemplate) (kind : Nat) (ls : List Nat) : List Nat :=
  match t.core with
  | some j => if md.attnMode ≠ 2 ∨ kind = 2 then ls else ls.filter fun l => if kind = 0 then l == j.val else (l - 16) / 16 == j.val / 4
  | none => ls

/-- Rows by slice: a tile carries all of them, a job or transfer those of one slice (R285). -/
def State.sliceRows (s : State) (rows : List (Nat × Nat)) : List (Nat × List (Nat × Nat)) :=
  let sl (r : Nat × Nat) : Nat := ((kfind s.seqs r.1).map (·.slice)).getD 0
  (rows.map sl).dedup.map fun x => (x, rows.filter fun r => sl r == x)

def rowSum (rows : List (Nat × Nat)) : Nat := rows.foldl (fun a r => a + r.2) 0

/-- Place one template's items; `placed` are (template, slice, item) so far, `prev` the item that a root waits for. -/
def State.placeTemplate (s : State) (p : Nat) (b : Builder) (x : Pass) (prev : Nat) (placed : List (Nat × Nat × Nat))
    (k : Nat) (t : ItemTemplate) : Except Bool (State × Builder × List (Nat × Nat × Nat)) :=
  let kind := t.kind.val
  let md := kfind s.models x.model
  let rings := x.rows.filterMap fun r => (kfind s.seqs r.1).map (·.ringNodes)
  let m := (rings.map List.length).foldl max 1
  let next := ((rings.find? fun r => 1 < r.length).bind fun r => r[1]?).getD 0
  if !(md.all fun md => templateHere md m t) then .ok (s, b, placed)
  else
  let groups := s.sliceRows x.rows
  let groups := if kind = 0 then [((groups.map (·.1)).headD 0, x.rows)] else groups
  groups.foldl (fun acc g => match acc with
    | .error f => .error f
    | .ok (s, b, placed) =>
      let after := if t.after = 0 then prev else
        match (placed.filter fun y => y.1 + 1 == t.after && y.2.1 == g.1).getLast? with
        | some y => y.2.2 + 1
        | none => match (placed.filter fun y => y.1 + 1 == t.after).getLast? with
          | some y => y.2.2 + 1
          | none => prev
      let est := t.est + t.perRow * rowSum g.2
      let it : WlItem := { lane := 0, kind := kind, gap := 0, after := after, slot := 0, cl := 0, thr := 0, est := est,
                           batch := (x.id + 1) * 256 + x.stage, desc := 0, arrays := t.arrays, rows := g.2, aborts := 0,
                           kat := false, st := .waiting }
      let ws := patchWords kind g.1 (rowSum g.2) (t.words.map BitVec.toNat)
      let ws := if t.fwd ∧ kind = 2 ∧ 1 < m then patchNode next ws else ws
      let ls := s.lanesFor p kind ws
      match s.placeItem p b (md.elim ls fun md => coreLanes md t kind ls) t.threads est it ws with
      | .error f => .error f
      | .ok (s, b) => .ok (s, b, placed ++ [(k, g.1, b.items.length - 1)])) (.ok (s, b, placed))

/-- The copies on write of a pass come before everything else of it (R317). -/
def State.placeCopies (s : State) (p : Nat) (b : Builder) (x : Pass) : Except Bool (State × Builder × Nat) :=
  x.cow.foldl (fun acc c => match acc with
    | .error f => .error f
    | .ok (s, b, prev) =>
      match kfind s.seqs c.1 with
      | none => .ok (s, b, prev)
      | some q =>
        let src := ((q.pages[c.2.1]?).map (·.frame)).getD 0
        let n := 65536 * 2 ^ c.2.2.cls
        let node := s.ownNode * 2 ^ 48
        let ws := [node + src * 65536, node + c.2.2.frame * 65536, n + 2 ^ 32, 0, q.slice * 2 ^ 14, 0, 0, 0]
        let it : WlItem := { lane := 0, kind := 2, gap := 0, after := prev, slot := 0, cl := 0, thr := 0,
                             est := Config.copyCycles n, batch := (x.id + 1) * 256 + x.stage, desc := 0, arrays := 0,
                             rows := [(c.1, 1)], aborts := 0, kat := false, st := .waiting }
        match s.placeItem p b (kindLanes 2) 0 it.est it ws with
        | .error f => .error f
        | .ok (s, b) => .ok (s.bump F.KV_SHARE.cow_copies p, b, b.items.length)) (.ok (s, b, 0))

/-- Place a stage whole, or not at all. The answer names the item that the next stage's roots wait for. -/
def State.placeStage (s : State) (p : Nat) (b : Builder) (x : Pass) (prev : Nat) (st : StageTemplate) :
    Except Bool (State × Builder × Nat) :=
  match if x.stage = 0 then s.placeCopies p b x else .ok (s, b, prev) with
  | .error f => .error f
  | .ok (s, b, prev) =>
    let r : Except Bool (State × Builder × List (Nat × Nat × Nat)) := st.items.zipIdx.foldl (fun acc t => match acc with
      | .error f => .error f
      | .ok (s, b, placed) => s.placeTemplate p b x prev placed t.2 t.1) (.ok (s, b, []))
    match r with
    | .error f => .error f
    | .ok (s, b, placed) => .ok (s, b, ((placed.getLast?).map fun y => y.2.2 + 1).getD prev)

/-- Place the remaining stages of a pass. -/
def State.placeStages (s : State) (p : Nat) (b : Builder) (x : Pass) (prev : Nat) :
    List StageTemplate → State × Builder × Pass × Bool
  | [] => (s, b, x, true)
  | st :: rest =>
    match s.placeStage p b x prev st with
    | .error f => (if f then s else s.bump F.SRV_STEP.unplaced p, { b with full := b.full || f }, x, false)
    | .ok (s, b, prev) => s.placeStages p b { x with stage := x.stage + 1 } prev rest

def State.passStages (s : State) (x : Pass) : List StageTemplate := ((kfind s.models x.model).map (·.stages)).getD []

/-- What the sequences of a pass show: its next stage, and its frames as read now (R275, R302). -/
def State.showPass (s : State) (x : Pass) : State :=
  x.seqs.foldl (fun s i =>
    match s.seq? i with
    | none => s
    | some q =>
      let s := q.pages.foldl (fun s e => if e.remote then s else s.setFrame e.frame { s.frame e.frame with lastRead := s.tick32 }) s
      s.setSeq i { q with
        stage := x.stage % 256, passTick := x.passTick,
        st := if q.st = .admitted then .prefill else q.st }) s

def State.setPass (s : State) (x : Pass) : State := s.withPasses (s.passes.map fun y => if y.id = x.id then x else y)

/-- Split off the sequences of a pass that no list may name now: a frozen or waiting one goes on later at the same stage in
a pass of its own (R278); one that ended leaves. -/
def State.splitPass (s : State) (x : Pass) : State × Pass :=
  let here (i : Nat) : Bool := (s.seq? i).elim false fun q => q.branch != 0 || ((q.st == .prefill || q.st == .decode) && !q.cancelPend && q.freezeReq == none)
  let later (i : Nat) : Bool := (s.seq? i).elim false fun q => q.st == .frozen || q.st == .pageWait || q.freezeReq != none
  let parted (t : Nat → Bool) (x : Pass) : Pass :=
    { x with seqs := x.seqs.filter t, rows := x.rows.filter fun r => t r.1, cow := x.cow.filter fun c => t c.1 }
  if x.seqs.all here then (s, x)
  else
    let y := { parted later x with id := s.nextPass }
    let x := parted here x
    let s := s.setPass x
    let s := if y.seqs.isEmpty then s else (s.withPasses (s.passes ++ [y])).withNextPass (s.nextPass + 1)
    (if x.seqs.isEmpty then (s.withPasses (s.passes.filter fun z => z.id != x.id)) else s, x)

/-- Go on with a pass in progress (R286). -/
def State.goOn (s : State) (p : Nat) (b : Builder) (x0 : Pass) : State × Builder :=
  match s.passes.find? fun y => y.id == x0.id with
  | none => (s, b)
  | some x0 =>
    let (s, x) := s.splitPass x0
    if x.seqs.isEmpty ∨ x.ended ∨ b.full then (s, b)
    else
      let prev := ((b.items.zipIdx.filter fun y => y.1.pass == x.id + 1).getLast?).elim 0 fun y => y.2 + 1
      let (s, b, x, _) := s.placeStages p b x prev ((s.passStages x).drop x.stage)
      ((s.setPass x).showPass x, { b with rows := b.rows + rowSum x.rows })

/-- A batch key (R285). -/
structure BatchKey where
  model : Nat
  deltaEn : Bool
  deltaVer : Nat
  pre   : Bool
  deriving DecidableEq, Repr

def Seq.key (q : Seq) : BatchKey :=
  { model := q.model, deltaEn := q.deltaEn, deltaVer := if q.deltaEn then q.deltaVer else 0, pre := decide (q.len < q.promptLen) }

/-- Sequences of partition p that may start a pass, oldest first (R286). -/
def State.starters (s : State) (p : Nat) (pre : Bool) : List (Nat × Seq) :=
  let es := (s.seqsOf p).filter fun x => x.2.eligible && x.2.key.pre == pre && x.2.stage == 0 &&
    !(s.passes.any fun y => y.seqs.contains x.1)
  sortBy (fun x => -(s.age32 (if pre then x.2.admTick else x.2.passTick))) es

/-- Take sequences up to the row limit; a beam family goes as one (R338). -/
def State.takeBatch (s : State) (limit : Nat) (es : List (Nat × Seq)) : List (Nat × Nat) :=
  (es.foldl (fun (a : List (Nat × Nat)) x =>
    if a.any fun r => r.1 == x.1 then a
    else
      let unit := if 1 < x.2.beamW then es.filter fun y => y.2.cmd == x.2.cmd else [x]
      let rs := unit.map fun y => (y.1, s.passRows y.2)
      if rowSum a + rowSum rs ≤ limit then a ++ rs else a) [])

/-- The branch entries of a speculative pass (R337): b − 1 forks of each greedy sequence, as far as entries are free. -/
def State.forkBranches (s : State) (md : Model) (batch : List (Nat × Nat)) : State × List (Nat × Nat) :=
  batch.foldl (fun (a : State × List (Nat × Nat)) r =>
    match a.1.seq? r.1 with
    | none => a
    | some q =>
      let sampled := ((kfind a.1.cmds q.cmd).map (·.sampled)).getD false
      let n := if q.spec ∧ sampled = false ∧ 1 < r.2 then md.specBranch - 1 else 0
      (List.range n).foldl (fun (a : State × List (Nat × Nat)) j =>
        if a.1.freeCount = 0 then a
        else match a.1.shareEntries q q.pages with
          | .error _ => a
          | .ok (es, s) =>
            let s := q.nodes.foldl (fun s n => s.useNode n true) s
            let e := s.newEntry { q with pages := es, branch := j + 1, origin := r.1, drafted := 0, accepted := 0 }
            (e.2.pin q, a.2 ++ [(e.1, r.2)])) a) (s, [])

/-- Start one pass of the batches with key `k`; whether another may be tried. -/
def State.startPass (s : State) (p : Nat) (b : Builder) (k : BatchKey) : State × Builder × Bool :=
  match kfind s.models k.model with
  | none => (s, b, false)
  | some md =>
    let es := (s.starters p k.pre).filter fun x => x.2.key == k
    let limit := (md.stages.map (·.rowLimit)).headD 0
    let rows := s.takeBatch limit es
    if rows.isEmpty then (s, b, false)
    else
      let (s, br) := if k.pre then (s, []) else s.forkBranches md rows
      let (s, rows, cow) := s.reserveBatch (rows ++ br) (2 * (rows ++ br).length + 1)
      if rows.isEmpty then (s, b, true)
      else
        let x : Pass := { id := s.nextPass, part := p, model := k.model, deltaEn := k.deltaEn, deltaVer := k.deltaVer,
                          pre := k.pre, seqs := rows.map (·.1), rows := rows, stage := 0, passTick := s.tick32, cow := cow,
                          ended := false, again := false, paid := 0,
                          units := rows.filterMap fun r => (s.seq? r.1).map fun q => (r.1, attnUnits md q) }
        let undo (s : State) : State :=
          let s := cow.foldl (fun s c => s.decRef c.2.2) s
          rows.foldl (fun s r => match s.seq? r.1 with
            | some q => if q.branch ≠ 0 then s.freeEntry r.1 else s
            | none => s) s
        let (s', b', x', _) := s.placeStages p b x 0 md.stages
        if x'.stage = 0 ∧ md.stages ≠ [] then (undo (if b'.full then s else s.bump F.SRV_STEP.unplaced p), { b with full := b'.full }, false)
        else
          let s' : State := (s'.withPasses (s'.passes ++ [x'])).withNextPass (s'.nextPass + 1)
          ((s'.showPass x'), { b' with rows := b'.rows + rowSum rows }, true)

/-- Start passes of one key while there are any. -/
def State.startPasses (s : State) (p : Nat) (b : Builder) (k : BatchKey) : Nat → State × Builder
  | 0 => (s, b)
  | n + 1 =>
    -- a full list or region ends placement (R288)
    if b.full then (s, b)
    else match s.startPass p b k with
    | (s, b, true) => s.startPasses p b k n
    | (s, b, false) => (s, b)

/-- New passes of decode or of prefill sequences, keys by their oldest sequence. -/
def State.startKind (s : State) (p : Nat) (b : Builder) (pre : Bool) : State × Builder :=
  let es := s.starters p pre
  (es.map fun x => x.2.key).dedup.foldl (fun a k => a.1.startPasses p a.2 k (es.length + 1)) (s, b)

/-- Passes that a reset touched start again from their first stage once the units are back (R455). -/
def State.restartPasses (s : State) (p : Nat) : State :=
  if s.rd F.RST_PART_STAT.rst_state p ≠ 0 ∨ (span (4 * p) 4).any (fun c => s.suspended c) then s
  else (s.withPasses (s.passes.map fun x =>
    if x.part = p ∧ x.again then { x with again := false, paid := max x.paid x.stage, stage := 0, ended := false } else x))

/-- The partition runs open work (R28, R84, R93, R200, R441). -/
def State.openOn (s : State) (p : Nat) : Bool :=
  s.seqRuns p && s.on F.TICK_STAT.running p && s.on F.TICK_CTRL.open_en p && s.rd F.TICK_OPEN_SHARE.open_share p != 0 &&
  s.rd F.SRV_PART.role p != 2 && s.serves p && !s.bring.noBank.contains p

/-- Publish a list (R288, R296). -/
def State.publish (s : State) (p : Nat) (b : Builder) : State :=
  let x := s.partOf p
  let s := s.setPart p { x with wl := b.items, slots := b.slots }
  let n := (b.items.filter fun it => it.st != .abandoned).length
  let s := if n = 0 then s else s.bump F.SRV_STEP.steps p
  let s := (s.put F.SRV_STEP2.last_items n p).put F.SRV_STEP2.last_rows (min 65535 b.rows) p
  if b.full then s.put F.SRV_STAT.desc_full 1 else s

/-- The step builder of partition p (R286). -/
def State.buildStep (s : State) (p : Nat) : State :=
  let cs := s.carried p
  let s := s.beginCarry p
  if s.openOn p = false then
    s.publish p { Builder.zero with
      items := cs.map fun c => if c.1.st.isRunning then c.1 else { c.1 with st := .abandoned }, ends := cs.map fun _ => 412500 }
  else
    let (s, b) := cs.foldl (fun (a : State × Builder) c => a.1.placeCarried p a.2 c) (s, Builder.zero)
    let due := (s.partOf p).katDue
    let (s, b, left) := due.foldl (fun (a : State × Builder × List Nat) u =>
      match a.1.placeKat p a.2.1 u with
      | (s, b, true) => (s, b, a.2.2)
      | (s, b, false) => (s, b, a.2.2 ++ [u])) (s, b, [])
    let s := s.setPart p { s.partOf p with katDue := left }
    let going := sortBy (fun x => -(s.age32 x.passTick)) (s.passes.filter fun x => x.part == p && !x.again)
    let (s, b) := going.foldl (fun (a : State × Builder) x => a.1.goOn p a.2 x) (s, b)
    let (s, b) := s.startKind p b false
    let (s, b) := s.startKind p b true
    let s := s.publish p b
    let s := (b.items.zipIdx.filter fun x => x.1.st == .abandoned && s.unfit p x.1).foldl (fun s x =>
      x.1.rows.foldl (fun s r => s.applyFreeze r.1) (s.failItem p x.2 3 St.tileUnfit)) s
    (s.passes.filter fun x => x.part == p).foldl (fun s x => s.settle p (x.id + 1)) s

end Sys2Proof.Machine
end

