-- ==== Sys2Proof/Machine/Serving.lean ====
section
/-! DEFINITION. The serving commands (R29–R32, R276–R278, R290–R294, R298, R308, R312–R319, R342–R346, R487, R488): what happens to
sequences, pages, roles, delta versions and meters at step boundaries and commit instants. -/

namespace Sys2Proof.Machine

/-! ## Passes and lookups (R290, R308) -/

/-- Passes of a partition that have ended and have not committed. -/
def State.passesDue (s : State) (p : Nat) : Bool := s.passes.any fun x => x.part == p && x.ended && !x.again

/-- The lookup of an admitted sequence ends: its ADMIT entry is posted (R391), parallel samples fork (R280), and with a prompt
that the tree covers and no output asked for it ends (R277). -/
def State.prefixLookup (s : State) (i : Nat) : State :=
  match s.seq? i with
  | none => s
  | some q =>
    if q.st ≠ .admitted ∨ q.lookupDone ∨ q.held then s
    else
      let s := s.lookup i
      let len := ((s.seq? i).map (·.len)).getD 0
      let s := s.notice (seqRing q) (mkEntry q.token St.ok 1 0x01 (s.handle i) (len / 256 * 256) 0)
      let s := s.modSeq i fun q => if q.maxNew = 0 ∧ q.promptLen ≤ q.len then { q with st := .ending } else q
      s.dueForks i

/-- PREFIX_LOOKUP. -/
def execPrefixLookup (idx : Fin 262144) (s : State) : Res := .next (s.prefixLookup idx)

/-! ## Pages (R312–R315) -/

/-- A frame takes over the record of another, whose contents moved to it; the old one is free. -/
def State.moveFrame (s : State) (old new : PageEnt) : State :=
  let x := s.frame old.frame
  let s := s.copyFrame old.frame new.frame old.cls x.key
  let s := s.setFrame new.frame { x with lastRead := s.tick32 }
  -- the charge goes with the contents
  let s := s.setFrame old.frame { x with owned := false }
  let ren (e : PageEnt) : PageEnt := if !e.remote && e.frame == old.frame then { e with frame := new.frame } else e
  let s : State := s.withSeqs (kmapv s.seqs fun _ q => { q with pages := q.pages.map ren })
    |>.withNodes (kmapv s.nodes fun _ n => { n with frames := n.frames.map ren })
    |>.withPasses (s.passes.map fun p => { p with cow := p.cow.map fun c => (c.1, c.2.1, ren c.2.2) })
  s.freeFrame old.frame

/-- The referrer that a spill was started for still holds the frames. -/
def State.spillLive (s : State) (x : Spill) : Bool :=
  let has (es : List PageEnt) : Bool := x.old.all fun e => es.any fun f => !f.remote && f.frame == e.frame
  (match x.seq with
    | some i => (s.seq? i).elim false fun q => has q.pages
    | none => false) ||
  (match x.node with
    | some n => (kfind s.nodes n).elim false fun y => has y.frames
    | none => false) ||
  s.nodes.any (fun y => has y.2.frames)

/-- A spill's copy has ended (R312): entries and nodes are rewritten and the source frames freed; without a referrer the
copy is discarded. -/
def State.commitSpill (s : State) (k : Nat) : State :=
  match s.spills[k]? with
  | none => s
  | some x =>
    let s : State := s.withSpills (s.spills.eraseIdx k)
    if !s.spillLive x then x.new.foldl State.decRef s
    else
      let sl := (x.old.head?).elim 0 fun e => (s.frame e.frame).owner
      let moved := s.nodes.filter fun n => n.2.frames.any fun e => !e.remote && x.old.any fun o => o.frame == e.frame
      let s := (x.old.zip x.new).foldl (fun s e => ((s.moveFrame e.1 e.2).chargeCopy sl e.1.cls).bump F.KV_RECL.spilled x.src) s
      moved.foldl (fun s n =>
        match kfind s.nodes n.1 with
        | none => s
        | some y =>
          let s := s.setLru y.part ((s.lruOf y.part).filter (· != n.1))
          (s.setNode n.1 { y with part := x.dst }).settleNode n.1 false) s

/-- SPILL_COMMIT: the k-th copy in progress. -/
def execSpillCommit (k : Nat) (s : State) : Res := .next (s.atBoundary fun s => s.commitSpill k)

/-- `wait` has reached its limit (R313). -/
def State.exhaust (s : State) (i : Nat) : State :=
  match s.seq? i with
  | none => s
  | some q =>
    let waits := q.st == .pageWait || (q.st == .moving && q.moveTo == none)
    if waits && s.rd F.KV_CTRL.pg_wait_lim ≤ q.wait then
      let d := s.waitDetail i
      let s := (s.put F.KV_STAT.exhaust 1).bump F.KV_WAIT.exhausted q.part
      (s.freezeNotice i 2 St.pageExhausted d).countWaiting q.part
    else s

/-- PAGE_WAIT_EXHAUSTED. -/
def execPageWaitExhausted (idx : Fin 262144) (s : State) : Res := .next (s.atBoundary fun s => s.exhaust idx)

/-- The first full page of a sequence that lies on this device as a whole. -/
def localFull (q : Seq) (lg : Nat) : Option Nat :=
  (List.range (q.len / 256)).find? fun i => ((q.pages.drop (i * lg)).take lg).all fun e => !e.remote

/-- A page has been copied to a peer's CACHE partition (R314). -/
def State.commitPeerSpill (s : State) (i node : Nat) (frames : List Nat) : State :=
  match s.seq? i with
  | none => s
  | some q =>
    let lg := ((kfind s.models q.model).map (·.lgCount)).getD 1
    match localFull q lg with
    | none => s
    | some k =>
      let old := (q.pages.drop (k * lg)).take lg
      if !q.peerSpill || !s.cachePeers.contains node || frames.length != old.length || old.isEmpty then s
      else
        let new := (old.zip frames).map fun x => { x.1 with frame := x.2, node := node, remote := true }
        let s := s.setSeq i { q with pages := q.pages.take (k * lg) ++ new ++ q.pages.drop (k * lg + lg) }
        let bytes := old.foldl (fun a e => a + 65536 * 2 ^ e.cls) 0
        old.foldl State.decRef (((s.count q.slice 4 bytes).count q.slice 6 bytes).bump F.KV_RECL.spilled q.part old.length)

/-- PEER_SPILL_COMMIT. -/
def execPeerSpillCommit (idx : Fin 262144) (node : BitVec 16) (frames : List (BitVec 28)) (s : State) : Res :=
  .next (s.atBoundary fun s => s.commitPeerSpill idx node.toNat (frames.map BitVec.toNat))

/-! ## Moves and roles (R29, R30, R291) -/

/-- The state that a moved sequence has at its destination (R29, R277). -/
def Seq.arrived (q : Seq) : SeqState :=
  if q.promptLen ≤ q.len then .decode else if q.resume = .admitted then .admitted else .prefill

/-- A pool move commits (R291), unless a cancellation is due first (R36): the pages lie at the destination, private to the sequence; a slice freeze that waited takes
effect there (R278). -/
def State.commitMove (s : State) (i : Nat) : State :=
  match s.seq? i with
  | none => s
  | some q =>
    match q.moveTo with
    | none => s
    | some (p, es) =>
      if q.st ≠ .moving ∨ q.cancelPend ∨ s.moveRuns q.part p = false then s
      else
        let loc := q.pages.filter fun e => !e.remote
        let s := (loc.zip es).foldl (fun s x => (s.copyFrame x.1.frame x.2.frame x.1.cls (scopeOf q)).chargeCopy q.slice x.1.cls) s
        let r := q.pages.foldl (fun (a : List PageEnt × List PageEnt) e =>
          if e.remote then (a.1 ++ [e], a.2) else match a.2 with
            | n :: ns => (a.1 ++ [n], ns)
            | [] => (a.1, [])) ([], es)
        let s := loc.foldl State.decRef s
        let s := q.nodes.foldl (fun s n => s.useNode n false) s
        let s := s.setSeq i { q with pages := r.1, nodes := [], moveTo := none, part := p, st := q.arrived, wait := 0 }
        let s := (s.put F.SRV_PART.seq_cnt (s.rd F.SRV_PART.seq_cnt q.part - 1) q.part).put F.SRV_PART.seq_cnt (s.rd F.SRV_PART.seq_cnt p + 1) p
        let s := s.bump F.SRV_STEP2.moves q.part
        s.applyFreeze i

/-- MOVE_COMMIT. -/
def execMoveCommit (idx : Fin 262144) (s : State) : Res := .next (s.atBoundary fun s => s.commitMove idx)

/-- A role serves a sequence: by the state it has or returns to (R28). A FROZEN sequence is not moved, and keeps the role (DESIGN CHOICE,
log 98). -/
def roleServes (role : Nat) (q : Seq) : Bool :=
  let st := if q.st = .frozen ∨ q.st = .pageWait then q.resume else q.st
  match st with
  | .admitted => role == 0 || role == 3
  | .prefill => role == 0 || role == 3
  | .moving => role == 0 || role == 3
  | .decode => role == 1 || role == 3
  | _ => true

/-- The set of roles with partition p in role r keeps one that runs prefill and one that runs decode (R30). -/
def State.rolesOk (s : State) (p r : Nat) : Bool :=
  let rs := (List.range s.nPart).map fun x => if x = p then r else s.rd F.SRV_PART.role x
  rs.any (fun x => x == 0 || x == 3) && rs.any fun x => x == 1 || x == 3

/-- Sequences that the pending role does not serve are moved off, each when no pass of it is in progress (R29). -/
def State.moveOff (s : State) (p r : Nat) : State :=
  let go (q : Seq) (i : Nat) : Bool :=
    (q.st == .admitted || q.st == .prefill || q.st == .decode || q.st == .pageWait) && !roleServes r q && q.stage == 0 && !q.held &&
    q.branch == 0 && !q.cancelPend && !(s.passes.any fun x => x.seqs.contains i) && (s.moveDest q).isSome
  ((s.seqsOf p).filter fun x => go x.2 x.1).foldl (fun s x =>
    (s.modSeq x.1 fun q => { q with resume := if q.st = .pageWait then q.resume else q.st, st := .moving, wait := 0 }).startMove x.1) s

/-- A pending role change (R29, R30, R34, R200): while the coordinator runs, sequences are moved off, and it commits when nothing stands in its
way. -/
def State.commitRole (s : State) (p : Nat) : State :=
  let r := s.rd F.SRV_PART.role_pend p
  if s.partOn p && s.coordUp && s.serves p && s.on F.SRV_PART.role_chg p && s.rolesOk p r then
    if (s.seqsOf p).all fun x => roleServes r x.2 then
      ((s.put F.SRV_PART.role r p).put F.SRV_PART.role_chg 0 p).event 3 3 Ev.roles (r + 4 * p) (pc p)
    else s.moveOff p r
  else s

/-- The coordinator writes `role_pend` (R33, R295): a change to another role is pending; its own role takes a pending one back. -/
def State.askRole (s : State) (p r : Nat) : State :=
  if s.partOn p && s.coordUp && s.serves p && s.rolesOk p r then
    (s.put F.SRV_PART.role_pend r p).put F.SRV_PART.role_chg (b2n (s.rd F.SRV_PART.role p != r)) p
  else s

/-- ROLE_CHANGE: the change is pending, and commits in this Col window where it can. -/
def execRoleChange (x : RoleAsk) (s : State) : Res :=
  .next ((s.askRole x.part x.role).atBoundary fun s => s.commitRole x.part)

/-! ## Cancellation, freezes, ends (R32, R277, R278, R318) -/

/-- CANCELLATION_APPLY. -/
def execCancellationApply (idx : Fin 262144) (s : State) : Res := .next (s.atBoundary fun s => s.applyCancel idx)

/-- SEQUENCE_FREEZE. -/
def execSequenceFreeze (idx : Fin 262144) (s : State) : Res := .next (s.atBoundary fun s => s.applyFreeze idx)

/-- SEQUENCE_END. -/
def execSequenceEnd (idx : Fin 262144) (s : State) : Res := .next (s.atBoundary fun s => s.endSeq idx)

/-- The changes of a step boundary in the order of R36, after the substitutions: reset absorption, cancellation, freeze (R277), role. Moves
commit by MOVE_COMMIT, when their copy has ended. -/
def State.boundary (s : State) (p : Nat) : State :=
  let s := s.restartPasses p
  let s := ((s.seqsOf p).filter fun x => x.2.cancelPend).foldl (fun s x => s.applyCancel x.1) s
  let s := ((s.seqsOf p).filter fun x => x.2.freezeReq.isSome).foldl (fun s x => s.applyFreeze x.1) s
  s.commitRole p

/-- The page service and the work list of a partition (R73, R286, R311). -/
def State.stepTick (s : State) (p : Nat) : State :=
  let s := s.setPart p { s.partOf p with recl := 0 }
  ((s.pageService p).countWaiting p).buildStep p

/-- The step boundary of a partition begins: where passes have ended, its changes wait for their commits (R290; DESIGN CHOICE, log 99). -/
def State.openBoundary (s : State) (p : Nat) : State :=
  if s.passesDue p then s.setPart p { s.partOf p with hold := true } else (s.setPart p { s.partOf p with hold := false }).boundary p

/-- PASS_COMMIT: at the step boundary after its last item a pass commits; `results` are what the sampling jobs gave, `beams` the
continuations that the families keep. After the last one the boundary goes on. -/
def execPassCommit (p : Fin 8) (b : Nat) (results : List SeqResult) (beams : List BeamCand) (s : State) : Res :=
  .next (s.atBoundary fun s =>
    if (s.partOf p).hold then
      let s := s.passCommit p b results beams
      if s.passesDue p then s
      else
        let s := (s.setPart p { s.partOf p with hold := false }).boundary p
        if (s.partOf p).await then s else s.stepTick p
    else s)

/-- The scope of a dissolved group or a scrubbed slice gets its new key when no frame under the old one is left; the frames
held meanwhile go back to their lists (R206, R319). A scrub of an unlock leaves the slot empty (R482). -/
def State.replaceScope (s : State) (k : Nat) : State :=
  if !s.scopesDead.contains k || s.frames.any (fun f => f.2.alloc && f.2.key == k) || s.procUp cairn = false then s
  else
    let s : State := s.withScopesDead (s.scopesDead.filter (· != k))
    let s := if k < 4096 ∧ (s.slice k).emptyKeys then s.emptyKey k else s.loadKey k
    let mine := s.heldFrames.filter fun f => (s.frame f).key == k
    mine.foldl State.freeFrame (s.withHeldFrames (s.heldFrames.filter fun f => (s.frame f).key != k))

/-- SCOPE_KEY_REPLACE. -/
def execScopeKeyReplace (scope : Fin 8191) (s : State) : Res := .next (s.replaceScope scope)

/-! ## Energy and the limiter (R294, R487, R488) -/

/-- Add nJ to a consumer that counts µJ and carries the rest. -/
def carryUj (rem nj : Nat) : Nat × Nat := ((rem + nj) / 1000, (rem + nj) % 1000)

def State.energySlice (s : State) (sl nj : Nat) : State :=
  let x := s.slice sl
  let r := carryUj x.energyRem nj
  (s.setSlice sl { x with energyRem := r.2 }).count sl 8 r.1
def State.energyDev (s : State) (nj : Nat) : State :=
  let r := carryUj s.mgt.devRem nj
  (s.withMgt { s.mgt with devRem := r.2 }).bump F.SRV_E_DEV.e_dev 0 r.1
def State.energyRadio (s : State) (nj : Nat) : State :=
  let r := carryUj s.mgt.radioRem nj
  (s.withMgt { s.mgt with radioRem := r.2 }).bump F.SRV_E_RADIO.e_radio 0 r.1

/-- One domain's interval (R294): what the division leaves over goes to the device. -/
def State.energyDomain (s : State) (x : EnergySample) : State :=
  let sum := x.slices.foldl (fun a r => a + r.2) 0 + x.radio + x.device
  if sum = 0 then s.energyDev x.energy
  else
    let e := x.energy - x.idle
    let part (c : Nat) : Nat := e * c / sum
    let given := x.slices.foldl (fun a r => a + part r.2) 0 + part x.radio
    let s := x.slices.foldl (fun s r => s.energySlice r.1 (part r.2)) s
    ((s.energyRadio (part x.radio)).energyDev (e - given)).energyDev x.idle

/-- The hottest valid point: index and temperature in 1/8 °C. -/
def State.hottest (s : State) : Option (Nat × Int) :=
  ((List.range 210).filter fun k => s.on F.MGT_TEMP.valid k).foldl (fun b k =>
    let t := s.rdS F.MGT_TEMP.temp k
    match b with
    | none => some (k, t)
    | some x => if x.2 < t then some (k, t) else b) none

/-- The limiter (R487, R488). -/
def State.limitStep (s : State) (pw : Nat) : State :=
  let share := s.rd F.MGT_THR.share
  let lim := min (s.rd F.MGT_LIM.p_lim) (max 500 (min 3000 (s.rd F.MGT_LIM.p_lim_host)))
  let thr : Int := 8 * (min 105 (s.rd F.MGT_LIM.t_thr) : Nat)
  let hyst : Int := 8 * (s.rd F.MGT_LIM.t_hyst : Nat)
  let hot := s.hottest
  let excess := decide (lim < pw)
  let warm := hot.elim false fun h => decide (thr < h.2)
  let cool := hot.elim true fun h => decide (h.2 < thr - hyst)
  let new := if excess || warm then share - 64
    else if decide (pw + s.rd F.MGT_LIM.p_hyst < lim) && cool then min 1024 (share + 16) else share
  let s := (s.put F.MGT_THR.share new).put F.MGT_THR.pwr_lim_act (b2n excess)
  let s := s.put F.MGT_THR.therm_lim_act (b2n warm)
  let s := match hot with
    | some h => (s.put F.MGT_THR.hot_point h.1).putS F.MGT_THR.hot_temp h.2
    | none => s
  let s := if new < 1024 then s.bump F.MGT_THR.throttle_ms else s
  let run := if new = 0 ∧ (excess || warm) then s.mgt.zeroRun + 1 else 0
  let s : State := s.withMgt { s.mgt with zeroRun := run }
  let s := if run = 100 then (s.put F.MGT_THR.floor_evt 1).service 9 Ev.floor pw else s
  (List.range s.nPart).foldl (fun s p => s.stage F.TICK_OPEN_SHARE.open_share new p) s

/-- ENERGY_INTERVAL: eight ticks have passed; `pinW` is the input power averaged over them. While Cairn is down nothing is
apportioned and the share stays (R417). -/
def execEnergyInterval (samples : List EnergySample) (pinW : Nat) (s : State) : Res :=
  .next (if s.procUp cairn then (samples.foldl State.energyDomain s).limitStep pinW else s)

/-! ## Delta versions (R342–R346) -/

def State.setDelta (s : State) (k : Nat) (d : Delta) : State := s.withDeltas (kset s.deltas k d)

/-- The version entered its state in an earlier tick. -/
def State.deltaSince (s : State) (k : Nat) : Bool := (kfind s.deltas k).any fun d => d.since != s.time.tick

/-- A verified version becomes ACTIVE; the variant's former one becomes SUPERSEDED, and the load completes (R343). -/
def State.activateDelta (s : State) (k : Nat) : State :=
  match kfind s.deltas k with
  | none => s
  | some d =>
    if d.st ≠ .loading then s
    else
      let s : State := (s.withDeltas (kmapv s.deltas fun _ x =>
        if x.st = .active ∧ x.owner = d.owner ∧ x.model = d.model ∧ x.variant = d.variant then { x with st := .superseded } else x))
      let s := s.setDelta k { d with st := .active, loadCmd := none }
      match d.loadCmd with
      | some (sl, r, tok) => s.finish (16 * sl + r) tok 0x09 St.ok 0 k
      | none => s

/-- DELTA_ACTIVATE: at a commit instant after the image was verified. -/
def execDeltaActivate (slot : Fin 65536) (s : State) : Res :=
  .next (s.atBoundary fun s => if s.deltaSince slot then s.activateDelta slot else s)

/-- A version without pins that is superseded, retiring, or named by a retire command becomes FREEING, and the tree drops
its nodes (R345, R346). -/
def State.freeingDelta (s : State) (k : Nat) : State :=
  match kfind s.deltas k with
  | none => s
  | some d =>
    if d.pins = 0 ∧ (d.st = .superseded ∨ d.st = .retiring ∨ (d.st = .active ∧ d.retire ≠ [] ∧ d.forced = false)) then
      (s.setDelta k { d with st := .freeing, since := s.time.tick }).dropNodes fun n => n.dkey == k + 1
    else s

/-- DELTA_FREEING. -/
def execDeltaFreeing (slot : Fin 65536) (s : State) : Res := .next (s.atBoundary fun s => s.freeingDelta slot)

/-- The slot and its image space are FREE; the retire commands complete. -/
def State.freeDelta (s : State) (k : Nat) : State :=
  match kfind s.deltas k with
  | none => s
  | some d =>
    if d.st = .freeing ∧ s.deltaSince k ∧ (s.nodes.any fun n => n.2.dkey == k + 1) = false then
      let s : State := s.withDeltas (kdel s.deltas k)
      d.retire.foldl (fun s c => s.finish (16 * c.1 + c.2.1) c.2.2 0x0A St.ok) s
    else s

/-- DELTA_SLOT_FREE. -/
def execDeltaSlotFree (slot : Fin 65536) (s : State) : Res := .next (s.atBoundary fun s => s.freeDelta slot)

/-- A version at a step boundary: FREE in the tick after its last node went, or FREEING without pins (R345, R346). -/
def State.stepDelta (s : State) (k : Nat) : State := (s.freeDelta k).freeingDelta k

/-! ## Snapshots (R296, R298, R321) -/

/-- ACCT_SNAPSHOT. -/
def execAcctSnapshot (wr : Writer) (sl : Fin 4096) (s : State) : Res :=
  .next (
    if s.mayWrite wr F.SRV_ACCT_SEL.snap 0 then
      let s := s.put F.SRV_ACCT_SEL.slice sl.val
      (List.range 12).foldl (fun s k => s.put F.SRV_ACCT.count ((s.slice sl).counters.getD k 0) k) s
    else s)

/-- Frames of a model: those that its sequences and its nodes refer to. -/
def State.modelFrames (s : State) (m : Nat) : List Nat :=
  ((s.seqs.filter fun x => x.2.st != .free && x.2.model == m).flatMap (fun x => x.2.pages) ++
   (s.nodes.filter fun x => x.2.model == m).flatMap fun x => x.2.frames).filterMap (fun e =>
     if e.remote then none else some e.frame) |>.dedup

/-- Tail waste of a model in bytes (R298). -/
def State.tailWaste (s : State) (m : Nat) : Nat :=
  let md := kfind s.models m
  let per := md.elim 0 fun x => x.kvBytes * x.nLayers
  (s.seqs.filter fun x => x.2.st != .free && x.2.model == m && !x.2.held && x.2.branch == 0).foldl (fun a x =>
    a + (256 * ceilDiv x.2.len 256 - x.2.len) * per) 0

/-- KV_SNAPSHOT. -/
def execKvSnapshot (wr : Writer) (model : BitVec 16) (s : State) : Res :=
  .next (
    if s.mayWrite wr F.KV_MSEL.snap 0 then
      let m := model.toNat
      let s := s.put F.KV_MSEL.model_id m
      let s := s.put F.KV_MSTAT.frames_64k ((s.modelFrames m).foldl (fun a f => a + 2 ^ (s.frame f).cls) 0)
      let s := s.put F.KV_MSTAT.seqs (s.seqs.filter fun x => x.2.st != .free && x.2.model == m).length
      s.put F.KV_MWASTE.tail_bytes (s.tailWaste m)
    else s)

end Sys2Proof.Machine
end

