-- ==== Sys2Proof/Machine/Host.lean ====
section
/-! DEFINITION. The host interface (R382–R394, R399–R404): doorbells, ring configuration, waiting entries, negotiation,
heartbeats and attachment, scrubs, and the commands of the slice rings. -/

namespace Sys2Proof.Machine

/-! ## Events in time -/

/-- An event that falls due at `due` happens then: at once when the instant has passed, later in the same tick, or at any
time before tick edges begin. Nothing when the instant lies beyond the tick. -/
def State.reach (s : State) (due : Nat) : Option State :=
  if due ≤ s.nowNs then some s
  else if !s.time.edges || due < (s.nowNs / 125000 + 1) * 125000 then
    some (s.setTime { s.time with sec := due / 1000000000, ns := due % 1000000000 })
  else none

/-! ## Doorbells and configuration (R382–R385, R387) -/

/-- A slice's window through a function that does not show it: the slice is bound to another one, or to none (R382). -/
def State.winMiss (s : State) (n fn : Nat) : Bool := s.sliceState n == unbound || s.rd F.HOST_SLICE.function n != fn

/-- An access to the registers of ring `k` through a function: PF0 shows those of the HOST block. -/
def State.viaWindow (s : State) (k fn : Nat) (go : State → State) : State :=
  if k < ctlRing then (if s.winMiss (k / 16) fn then s.put F.HOST_STAT.win_miss 1 else go s)
  else if fn = 0 then go s else s

/-- The new `sq_tail` of a doorbell; the entries that wait in the model's queue are those the ring still offers. -/
def State.tailBell (s : State) (k tail : Nat) : State :=
  if !s.ringOn k then s
  else if 2 ^ s.ringRd rSqLog k < (tail + 2 ^ 32 - s.ringRd rSqHead k) % 2 ^ 32 then s.ringPut rDbErr k 1
  else
    let s := s.ringPut rSqTail k tail
    s.setRing k { s.ring k with fifo := (s.ring k).fifo.take (s.sqAvail k) }

def execSqTailDoorbell (r : RingAt) (tail : BitVec 32) (s : State) : Res :=
  .next (s.viaWindow (ringNo r.ring) r.fn fun s => s.tailBell (ringNo r.ring) tail.toNat)

/-- The new `cq_head` of a doorbell. -/
def State.headBell (s : State) (k head : Nat) : State :=
  if !s.ringOn k then s
  else if s.cqUsed k < (head + 2 ^ 32 - s.ringRd rCqHead k) % 2 ^ 32 then s.ringPut rDbErr k 1
  else s.ringPut rCqHead k head

def execCqHeadDoorbell (r : RingAt) (head : BitVec 32) (s : State) : Res :=
  .next (s.viaWindow (ringNo r.ring) r.fn fun s => s.headBell (ringNo r.ring) head.toNat)

/-- A configuration write (R383). Enabling is a write that changes a size and leaves both sizes permitted. -/
def State.ringConfig (s : State) (k v : Nat) : State :=
  if s.sqAvail k ≠ 0 ∨ s.ringRd rOutst k ≠ 0 then s.ringPut rCfgIgn k 1
  else
    let sq := bits v 3 0
    let cq := bits v 11 8
    let same := s.ringRd rSqLog k == sq && s.ringRd rCqLog k == cq
    let s := (s.ringPut rSqLog k sq).ringPut rCqLog k cq
    let s := ((s.ringPut rVector k (bits v 19 12)).ringPut rCoalCnt k (bits v 27 20)).ringPut rCoalUs k (bits v 43 28)
    let s := s.ringPut rMirrorEn k (bits v 44 44)
    if !ringCfgOk sq cq then s.ringPut rCfgErr k 1
    else if sq = 0 ∨ cq = 0 ∨ same then s
    else
      let s := ((s.ringPut rSqTail k 0).ringPut rSqHead k 0).ringPut rCqHead k 0
      (s.ringPut rCqTail k 0).setRing k { s.ring k with fifo := [], cq := [], unsig := 0, unsigSince := none, indOff := 0 }

def execRingConfigWrite (r : RingAt) (value : Word) (s : State) : Res :=
  .next (s.viaWindow (ringNo r.ring) r.fn fun s => s.ringConfig (ringNo r.ring) value.toNat)

/-- The first waiting notice of a ring, or the first waiting event of the control ring, is posted when a slot is free. -/
def State.postWaiting (s : State) (k : Nat) : State :=
  match (s.ring k).notices with
  | e :: rest => if s.cqFree k then (s.setRing k { s.ring k with notices := rest }).postCq k e else s
  | [] => if k = ctlRing then s.drainEvents 1 else s

/-- NOTICE_POST. -/
def execNoticePost (r : RingName) (s : State) : Res := .next (s.postWaiting (ringNo r))

/-- COAL_TIMER_EXPIRY. -/
def State.coalExpire (s : State) (k : Nat) : State :=
  match (s.ring k).unsigSince with
  | none => s
  | some t =>
    if (s.ring k).unsig = 0 ∨ s.ringRd rCoalUs k = 0 then s
    else ((s.reach (t + s.ringRd rCoalUs k * 1000)).map fun s => s.fireRing k).getD s

def execCoalTimerExpiry (r : RingName) (s : State) : Res := .next (s.coalExpire (ringNo r))

/-! ## Negotiation, heartbeats, attachment (R399–R403) -/

/-- NEGOTIATE: the party writes its version together with `negotiate`; it takes effect when none of its commands is
outstanding. -/
def execNegotiate (x : PartyAt) (major minor : BitVec 8) (s : State) : Res :=
  .next (
    match x.party with
    | .control => s.viaWindow ctlRing x.fn fun s =>
      let s := (s.put F.HOST_VER.drv_major major.toNat).put F.HOST_VER.drv_minor minor.toNat
      (s.withCtlNegPend true).settleNeg ctlRing
    | .slice n => s.viaWindow (16 * n) x.fn fun s =>
      let s := (s.put F.HOST_S_VER.drv_major major.toNat n).put F.HOST_S_VER.drv_minor minor.toNat n
      (s.setSlice n { s.slice n with negPend := true }).settleNeg (16 * n))

/-- HEARTBEAT. -/
def execHeartbeat (x : SliceAt) (s : State) : Res :=
  .next (s.viaWindow (16 * x.slice) x.fn fun s =>
    if s.sliceState x.slice = active then s.setSlice x.slice { s.slice x.slice with hbLast := s.nowNs } else s)

/-- Every sequence of a slice. -/
def State.seqsOfSlice (s : State) (n : Nat) : List (Nat × Seq) := s.seqs.filter fun x => x.2.st != .free && x.2.slice == n

/-- A slice freeze asks for the freeze of each of its sequences (R278). -/
def State.freezeSlice (s : State) (n : Nat) : State :=
  let s := s.setSlice n { s.slice n with thawPend := false }
  (s.seqsOfSlice n).foldl (fun s x => if x.2.held then s else s.askFreeze x.1 1) s

/-- Empty a ring and disable it (R404). -/
def State.closeRing (s : State) (k : Nat) : State :=
  let s := s.put F.HOST_STAT.outst (s.rd F.HOST_STAT.outst - s.ringRd rOutst k)
  let s := ((s.ringPut rOutst k 0).ringPut rSqLog k 0).ringPut rCqLog k 0
  let s := ((s.ringPut rSqTail k 0).ringPut rSqHead k 0).ringPut rCqHead k 0
  (s.ringPut rCqTail k 0).setRing k Ring.zero

/-- A scrub begins (R319, R404): sequences are cancelled without completions, everything the slice left is cleared, its versions
retire, its nodes are dropped and its key waits to be replaced. -/
def State.startScrub (s : State) (n : Nat) (empty : Bool := false) : State :=
  let s := s.setSliceState n scrubbing
  let s : State := s.withCmds (s.cmds.filter fun c => c.2.slice != n)
    |>.withThaws (s.thaws.filter fun t => t.2.1 / 16 != n)
    |>.withCopies (s.copies.filter fun c => c.slice != n)
    |>.withDeltas (kmapv s.deltas fun _ d =>
      let d := { d with retire := d.retire.filter fun c => c.1 != n }
      if d.owner = n then { d with st := if d.st = .freeing then d.st else .retiring, loadCmd := none, forced := false } else d)
  let s := (s.seqsOfSlice n).foldl (fun s x => if x.2.held then s else s.askCancel x.1) s
  let s := s.setSlice n { (s.slice n).blank with emptyKeys := empty }
  let s := s.each (span (16 * n) 16) State.closeRing
  let s : State := s.withScopesDead (if s.scopesDead.contains n then s.scopesDead else s.scopesDead ++ [n])
  s.dropNodes fun x => x.scope == n

/-- A slice loses its driver (R402): admission stops and its sequences freeze; without a grace period it is scrubbed. -/
def State.detach (s : State) (n : Nat) : State :=
  let s := s.setSliceState n detached
  let s := (s.setSlice n { s.slice n with detachedAt := s.nowNs }).freezeSlice n
  let s := s.eventEntry (Config.hostEvent 0) n
  if s.rd F.HOST_SLICE.grace_s n = 0 then s.startScrub n else s

/-- Milliseconds that a heartbeat may be late: 0 for no watch (R412). -/
def State.hbLimit (s : State) (n : Nat) : Nat :=
  let t := s.rd F.HOST_SLICE.hb_to_ms n
  if t = 0 then 0 else max 100 (min 60000 t)

/-- HEARTBEAT_TIMEOUT: the comparison is made at tick edges. -/
def execHeartbeatTimeout (n : Fin 4096) (s : State) : Res :=
  .next (s.atBoundary fun s =>
    if s.sliceState n = active ∧ s.hbLimit n ≠ 0 ∧ (s.slice n).hbLast + s.hbLimit n * 1000000 < s.nowNs then s.detach n
    else s)

/-- CTL_HEARTBEAT_TIMEOUT: an event, once until the next write of `hb`. -/
def execCtlHeartbeatTimeout (s : State) : Res :=
  .next (
    match s.ctlHb with
    | some t =>
      let lim := s.rd F.HOST_CTL_HB.ctl_hb_to_ms
      if lim ≠ 0 ∧ t + lim * 1000000 < s.nowNs then (s.withCtlHb none).eventEntry (Config.hostEvent 7) 0 else s
    | none => s)

/-- ATTACH (R403). -/
def execAttach (a : SliceAt) (s : State) : Res :=
  .next (s.viaWindow (16 * a.slice) a.fn fun s =>
    let x := s.slice a.slice
    if s.sliceState a.slice ≠ detached ∨ s.nowNs < x.blockedUntil ∨ x.detachedAt + s.rd F.HOST_SLICE.grace_s a.slice * 1000000000 < s.nowNs then s
    else if s.rd F.HOST_S_COOKIE.cookie a.slice ≠ x.cookie then
      (s.put F.HOST_S_ATTACH.attach_st St.badCookie a.slice).setSlice a.slice { x with blockedUntil := s.nowNs + 100000000 }
    else
      let c := s.fresh .cookie % 2 ^ 128
      let s := (s.drawn.put F.HOST_S_ATTACH.attach_st St.ok a.slice).put F.HOST_S_COOKIE_NEW.cookie_new c a.slice
      let s := s.setSlice a.slice { x with cookie := c, hbLast := s.nowNs, negotiated := false, negPend := false, thawPend := true }
      (s.setSliceState a.slice active).eventEntry (Config.hostEvent 1) a.slice)

/-- GRACE_EXPIRY. -/
def execGraceExpiry (n : Fin 4096) (s : State) : Res :=
  .next (
    if s.sliceState n = detached then
      ((s.reach ((s.slice n).detachedAt + s.rd F.HOST_SLICE.grace_s n * 1000000000)).map fun s => s.startScrub n).getD s
    else s)

/-- SCRUB_END: no sequence of the slice and no frame under its key is left, and Cairn runs: the key is replaced (R206, R404). -/
def execScrubEnd (n : Fin 4096) (s : State) : Res :=
  .next (
    if s.sliceState n ≠ scrubbing ∨ !(s.seqsOfSlice n).isEmpty then s
    else
      let s := s.replaceScope n
      if s.scopesDead.contains n.val then s
      else
        let s := ((s.put F.HOST_SLICE.function 0 n).put F.HOST_SLICE.pasid 0 n).setSlice n (s.slice n).blank
        (s.setSliceState n unbound).eventEntry (Config.hostEvent 2) n)

def State.modSlice (s : State) (n : Nat) (f : Slice → Slice) : State := s.setSlice n (f (s.slice n))

/-- A thaw puts the live state of a slice's passes back from the save area (R405). -/
def State.restoreLive (s : State) (n : Nat) : State :=
  let x := s.slice n
  let s := x.saved.foldl (fun s r => s.sramWr r.1 r.2) s
  x.savedFg.foldl (fun s c => s.setCore c.1 { s.core c.1 with fg := c.2 }) s

/-- The boundary at which waiting thaws take effect (R277, R395, R403): those of THAW, then those of slices. -/
def State.applyThaws (s : State) : State :=
  let ts := s.thaws
  let s := ts.foldl (fun s t =>
    match s.seq? t.1 with
    | some q =>
      if q.st = .frozen ∧ q.frzCause = 6 then s.finish t.2.1 t.2.2.1 0x04 St.memUncorrectable
      else ((s.modSeq t.1 fun q => { q with peerSpill := t.2.2.2 }).thawNow t.1).finish t.2.1 t.2.2.1 0x04 St.ok
    | none => s.finish t.2.1 t.2.2.1 0x04 St.ok) (s.withThaws [])
  (s.slices.filter fun x => x.2.thawPend).foldl (fun s x =>
    let s := (s.restoreLive x.1).modSlice x.1 fun y => { y with thawPend := false, saved := [], savedFg := [] }
    (s.seqsOfSlice x.1).foldl (fun s y =>
      let s := s.modSeq y.1 fun q => if q.freezeReq = some (1, St.ok) then { q with freezeReq := none } else q
      if y.2.st = .frozen ∧ y.2.frzCause = 1 then s.thawNow y.1 else s) s) s

/-! ## Slice commands (R391) -/

/-- An entry of a slice ring. -/
def sliceEnt (opc : Nat) (e : Entry) : SubEntry := { opc := opc, e := e, body := none, img := none }

/-- GENERATE waits in its ring for the admission round (R279, R386). -/
def execGenerate (sl : Fin 4096) (r : Fin 16) (e : Entry) (s : State) : Res :=
  .next (s.queueEntry (16 * sl + r) (sliceEnt 0x01 e))

/-- CANCEL. -/
def State.cmdCancel (k : Nat) (x : SubEntry) (s : State) : State :=
  s.checked k x (2 ^ 33 - 1) 0 0 0 0 0 fun s =>
    match s.byHandle (k / 16) (bits x.e.w2.toNat 31 0) with
    | none => s.complete k x St.badHandle
    | some (i, q) =>
      let is := if bit x.e.w2.toNat 32 then
          (s.seqs.filter fun y => y.2.st != .free && y.2.cmd == q.cmd && !y.2.held && y.2.branch == 0).map (·.1)
        else [i]
      (is.foldl State.askCancel s).complete k x St.ok

def execCancel (sl : Fin 4096) (r : Fin 16) (e : Entry) (s : State) : Res :=
  .next (s.submit (16 * sl + r) (sliceEnt 0x02 e) (State.cmdCancel (16 * sl + r) (sliceEnt 0x02 e)))

/-- FREEZE_SEQ: cause 7. -/
def State.cmdFreezeSeq (k : Nat) (x : SubEntry) (s : State) : State :=
  s.checked k x (2 ^ 32 - 1) 0 0 0 0 0 fun s =>
    match s.byHandle (k / 16) x.e.w2.toNat with
    | none => s.complete k x St.badHandle
    | some (i, _) => (s.askFreeze i 7).complete k x St.ok

def execFreezeSeq (sl : Fin 4096) (r : Fin 16) (e : Entry) (s : State) : Res :=
  .next (s.submit (16 * sl + r) (sliceEnt 0x03 e) (State.cmdFreezeSeq (16 * sl + r) (sliceEnt 0x03 e)))

/-- THAW: at once on a sequence that is not FROZEN, else at the next step boundary. -/
def State.cmdThaw (k : Nat) (x : SubEntry) (s : State) : State :=
  s.checked k x (2 ^ 33 - 1) 0 0 0 0 0 fun s =>
    let peer := bit x.e.w2.toNat 32
    if peer && !s.feature k 4 then s.complete k x St.notSupported
    else match s.byHandle (k / 16) (bits x.e.w2.toNat 31 0) with
      | none => s.complete k x St.badHandle
      | some (i, q) =>
        if q.st ≠ .frozen then s.complete k x St.ok
        else if q.frzCause = 6 then s.complete k x St.memUncorrectable
        else s.withThaws (s.thaws ++ [(i, k, x.e.token.toNat, peer)])

def execThaw (sl : Fin 4096) (r : Fin 16) (e : Entry) (s : State) : Res :=
  .next (s.submit (16 * sl + r) (sliceEnt 0x04 e) (State.cmdThaw (16 * sl + r) (sliceEnt 0x04 e)))

/-- Code of a sequence state (R276). -/
def SeqState.num : SeqState → Nat
  | .free => 0 | .admitted => 1 | .prefill => 2 | .moving => 3 | .decode => 4 | .pageWait => 5 | .frozen => 6 | .ending => 7

/-- The eight words of an entry (R275) and the two of its speculation record (R331). -/
def seqWords (i : Nat) (q : Seq) : List Nat :=
  [ q.st.num + 2 ^ 4 * q.resume.num + 2 ^ 8 * q.frzCause + 2 ^ 11 * b2n q.deltaEn + 2 ^ 12 * b2n q.spec +
      2 ^ 13 * b2n q.cancelPend + 2 ^ 14 * q.part + 2 ^ 17 * q.slice + 2 ^ 32 * q.model + 2 ^ 48 * q.deltaVer,
    q.len + 2 ^ 24 * q.promptLen + 2 ^ 48 * q.gen,
    q.maxNew + 2 ^ 24 * q.nOut + 2 ^ 48 * q.stage + 2 ^ 56 * q.draftLen,
    Config.ptAddr i % 2 ^ 48 + 2 ^ 48 * q.wait,
    q.token,
    q.family + 2 ^ 32 * q.group + 2 ^ 44 * q.ring + 2 ^ 48 * q.aborts,
    q.paramAddr % 2 ^ 48,
    q.admTick + 2 ^ 32 * q.passTick,
    q.dlen + 2 ^ 24 * q.branch + 2 ^ 26 * q.origin,
    q.drafted + 2 ^ 32 * q.accepted ]

/-- Complete with a result written to host memory. -/
def State.answerHost (s : State) (k : Nat) (x : SubEntry) (addr : Nat) (bs : List Byte) : State :=
  match s.hostWr addr bs (s.space k) with
  | some s => (if k < ctlRing then s.count (k / 16) 7 bs.length else s).complete k x St.ok
  | none => s.complete k x St.hostDma

/-- QUERY_SEQ. -/
def State.cmdQuerySeq (k : Nat) (x : SubEntry) (s : State) : State :=
  s.checked k x (2 ^ 32 - 1) full 0 0 0 0 fun s =>
    match s.byHandle (k / 16) x.e.w2.toNat with
    | none => s.complete k x St.badHandle
    | some (i, q) => s.answerHost k x x.e.w3.toNat ((seqWords i q).flatMap (leBytes 8))

def execQuerySeq (sl : Fin 4096) (r : Fin 16) (e : Entry) (s : State) : Res :=
  .next (s.submit (16 * sl + r) (sliceEnt 0x05 e) (State.cmdQuerySeq (16 * sl + r) (sliceEnt 0x05 e)))

/-- A COPY within this device: the range's checks, then host to device or back. -/
def State.copyLocal (s : State) (k : Nat) (x : SubEntry) (host a n key : Nat) (out : Bool) : State :=
  if (pagesOf a n).any fun p => s.place p == .unmapped then s.complete k x St.addrUnmapped
  else if out then
    let st := s.rdStatus a n key
    if st ≠ St.ok then (s.rdRecord a n key).complete k x st
    else (s.count (k / 16) 4 (64 * (linesOf a n).length)).answerHost k x host (s.load a n key)
  else
    let st := s.accStatus a n key
    if st ≠ St.ok then s.complete k x st
    else match s.hostRd host n (s.space k) with
      | none => s.complete k x St.hostDma
      | some bs =>
        (((s.store a bs key).count (k / 16) 4 (64 * (linesOf a n).length)).count (k / 16) 7 n).complete k x St.ok

/-- A COPY to or from another node: pieces of at most a page, each an ordinary request. -/
def State.copyRemote (s : State) (k : Nat) (x : SubEntry) (host g n key : Nat) (out : Bool) : State :=
  if (s.candLinks (g / 2 ^ 48)).isEmpty then (s.put F.FAB_STAT.unreach 1).complete k x St.fabUnreachable
  else
    let id := s.copies.foldl (fun a c => max a (c.id + 1)) 0
    let s : State := (s.withCopies (s.copies ++ [{
      id := id, ring := k, token := x.e.token.toNat, slice := k / 16, host := host, key := key, wr := !out,
      todo := piecesOf g n, left := 0, status := St.ok }]))
    ((s.count (k / 16) 7 n).copyPump id (piecesOf g n).length).copyTurn id

/-- COPY. -/
def State.cmdCopy (k : Nat) (x : SubEntry) (s : State) : State :=
  s.checked k x full full (2 ^ 33 - 1) 0 0 0 fun s =>
    let n := bits x.e.w4.toNat 31 0
    let out := bit x.e.w4.toNat 32
    let g := x.e.w3.toNat
    if n = 0 then s.complete k x St.ok
    else match s.regionCheck (k / 16) g n (if out then .rd else .wr) with
      | none => s.complete k x St.regionFault
      | some key =>
        if g / 2 ^ 48 = s.ownNode then s.copyLocal k x x.e.w2.toNat (g % 2 ^ 48) n key out
        else if !s.feature k 9 then s.complete k x St.notSupported
        else s.copyRemote k x x.e.w2.toNat g n key out

def execCopy (sl : Fin 4096) (r : Fin 16) (e : Entry) (s : State) : Res :=
  .next (s.submit (16 * sl + r) (sliceEnt 0x06 e) (State.cmdCopy (16 * sl + r) (sliceEnt 0x06 e)))

/-- REGION_SET: a descriptor that is not valid clears the index; it takes effect at the next commit instant (R209). -/
def State.cmdRegionSet (k : Nat) (x : SubEntry) (s : State) : State :=
  s.checked k x 63 full full full full 0 fun s =>
    let sl := s.slice (k / 16)
    let r := regionOf x.e.w3.toNat x.e.w4.toNat x.e.w5.toNat x.e.w6.toNat
    (s.setSlice (k / 16) { sl with regionPend := kset sl.regionPend x.e.w2.toNat r }).complete k x St.ok

def execRegionSet (sl : Fin 4096) (r : Fin 16) (e : Entry) (s : State) : Res :=
  .next (s.submit (16 * sl + r) (sliceEnt 0x07 e) (State.cmdRegionSet (16 * sl + r) (sliceEnt 0x07 e)))

/-- Region changes take effect at a commit instant. -/
def State.commitRegions (s : State) : State :=
  (s.withSlices (kmapv s.slices fun _ x => { x with
      regions := x.regionPend.foldl (fun m r => match r.2 with
        | some d => kset m r.1 d
        | none => kdel m r.1) x.regions
      regionPend := [] }))

/-- ACCT_READ: the 12 counters. -/
def State.cmdAcctRead (k : Nat) (x : SubEntry) (s : State) : State :=
  s.checked k x full 0 0 0 0 0 fun s =>
    s.answerHost k x x.e.w2.toNat ((List.range 12).flatMap fun i => leBytes 8 ((s.slice (k / 16)).counters.getD i 0))

def execAcctRead (sl : Fin 4096) (r : Fin 16) (e : Entry) (s : State) : Res :=
  .next (s.submit (16 * sl + r) (sliceEnt 0x08 e) (State.cmdAcctRead (16 * sl + r) (sliceEnt 0x08 e)))

/-! ## Delta commands (R339–R346) -/

/-- Bytes of DRAM that neither the reserved region nor an arena takes, and those that packages and images fill (R339). -/
def State.weightTotal (s : State) : Nat :=
  s.upChans.length * (s.capBytes - s.rsvPerCh) - ((List.range 8).foldl (fun a p => a + s.rd F.KV_ARENA.len_4m p) 0) * 2 ^ 22
def State.weightUsed (s : State) : Nat :=
  s.models.foldl (fun a m => a + m.2.bytes * m.2.copies) 0 + s.deltas.foldl (fun a d => a + d.2.image.length) 0
def State.weightRoom (s : State) (n : Nat) : Bool := s.weightUsed + n ≤ s.weightTotal

/-- A little-endian field of an image. -/
def imgLE (img : List Byte) (a n : Nat) : Nat := leVal ((img.drop a).take n)

/-- The check of an image against its model (R341). -/
def deltaImageOk (img : List Byte) (model : Nat) (md : Model) : Bool :=
  let n := img.length
  let w i := imgLE img (8 * i) 8
  let dir := bits (w 2) 39 0
  64 ≤ n && bits (w 0) 15 0 == model && bits (w 0) 47 16 == md.nTiles && bits (w 0) 63 48 == 0 && bits (w 1) 63 40 == 0 &&
  bits (w 2) 63 40 == 0 && w 3 == 0 && w 4 == 0 && w 5 == 0 && w 6 == 0 && w 7 == 0 &&
  dir + 8 * md.nTiles ≤ n &&
  (List.range md.nTiles).all fun t =>
    let d := imgLE img (dir + 8 * t) 8
    let tab := bits d 39 0
    let st := bits d 63 40
    st == md.tileSteps.getD t 0 && tab + 8 * st ≤ n &&
    (List.range st).all fun i =>
      let g := imgLE img (tab + 8 * i) 8
      let off := tab + bits g 31 0
      let cnt := bits g 47 32
      bits g 63 48 == 0 && off + 4 * cnt ≤ n &&
      (List.range cnt).all fun j => bits (imgLE img (off + 4 * j) 4) 15 13 == 0

/-- Lowest FREE version slot. -/
def State.freeDeltaSlot (s : State) : Option Nat :=
  let k := s.deltas.foldl (fun n x => if x.1 = n then n + 1 else n) 0
  if k < 65536 then some k else none

/-- Take a slot in LOADING state. -/
def State.takeDelta (s : State) (k sl model variant group : Nat) (img : List Byte) (cmd : Option (Nat × Nat × Nat)) : State :=
  let old := ((s.loads.find? fun l => l.1 == sl && l.2.1 == model && l.2.2.1 == variant).map (·.2.2.2)).getD 0
  let s : State := s.withLoads ((sl, model, variant, old + 1) :: s.loads.filter fun l => !(l.1 == sl && l.2.1 == model && l.2.2.1 == variant))
  s.setDelta k {
    st := .loading, group := group, model := model, owner := sl, pins := 0, variant := variant, serial := old + 1,
    image := img, total := bits (imgLE img 8 8) 39 0, loadCmd := cmd, retire := [], forced := false, since := s.time.tick }

/-- DELTA_LOAD: it completes when its version becomes ACTIVE (R343). -/
def State.cmdDeltaLoad (k : Nat) (x : SubEntry) (s : State) : State :=
  s.checked k x full (2 ^ 40 - 1) (2 ^ 60 - 1) 0 0 0 fun s =>
    let sl := k / 16
    let w := x.e.w4.toNat
    let m := bits w 15 0
    let v := bits w 47 16
    if !s.feature k 2 || (bits w 59 48 != 0 && !s.feature k 8) then s.complete k x St.notSupported
    else if v = 0 then s.complete k x St.badCommand
    else match kfind s.models m with
      | none => s.complete k x St.modelUnknown
      | some md =>
        if s.deltas.any fun d => d.2.st == .loading && d.2.owner == sl && d.2.model == m && d.2.variant == v then
          s.complete k x St.busy
        else match s.freeDeltaSlot with
          | none => s.complete k x St.deltaFull
          | some slot =>
            if !s.weightRoom x.e.w3.toNat then s.complete k x St.deltaFull
            else match s.hostRd x.e.w2.toNat x.e.w3.toNat (s.space k) with
              | none => s.complete k x St.hostDma
              | some img =>
                let s := s.count sl 7 img.length
                if deltaImageOk img m md then
                  s.takeDelta slot sl m v (bits w 59 48) img (some (sl, k % 16, x.e.token.toNat))
                else s.complete k x St.deltaInvalid

def execDeltaLoad (sl : Fin 4096) (r : Fin 16) (e : Entry) (s : State) : Res :=
  .next (s.submit (16 * sl + r) (sliceEnt 0x09 e) (State.cmdDeltaLoad (16 * sl + r) (sliceEnt 0x09 e)))

/-- Every entry that pins version `k` is marked for cancellation with ST_DELTA_RETIRED (R346). -/
def State.cancelPinned (s : State) (k : Nat) : State :=
  (s.withSeqs (kmapv s.seqs fun _ q =>
      if q.deltaEn ∧ q.deltaVer = k ∧ q.st ≠ .free ∧ q.st ≠ .ending ∧ q.held = false ∧ q.branch = 0 then
        { q with cancelPend := true, status := St.deltaRetired }
      else q))

/-- DELTA_RETIRE: it completes when the slot is FREE. -/
def State.cmdDeltaRetire (k : Nat) (x : SubEntry) (s : State) : State :=
  s.checked k x (2 ^ 17 - 1) 0 0 0 0 0 fun s =>
    let slot := bits x.e.w2.toNat 15 0
    let force := bit x.e.w2.toNat 16
    if !s.feature k 2 then s.complete k x St.notSupported
    else match (kfind s.deltas slot).filter fun d => d.owner == k / 16 with
      | none => s.complete k x St.deltaUnknown
      | some d =>
        let d' := { d with retire := d.retire ++ [(k / 16, k % 16, x.e.token.toNat)] }
        match d.st with
        | .loading => s.complete k x St.busy
        | .retiring => (s.setDelta slot d').onlyIf force fun s => s.cancelPinned slot
        | .freeing => s.setDelta slot d'
        | _ =>
          if d.pins = 0 then s.setDelta slot d'
          else if force then s.setDelta slot { d' with forced := true }
          else s.complete k x St.pinned

def execDeltaRetire (sl : Fin 4096) (r : Fin 16) (e : Entry) (s : State) : Res :=
  .next (s.submit (16 * sl + r) (sliceEnt 0x0A e) (State.cmdDeltaRetire (16 * sl + r) (sliceEnt 0x0A e)))

/-- Forced retirements take effect at a commit instant (R346). -/
def State.commitForced (s : State) : State :=
  (s.deltas.filter fun d => d.2.forced).foldl (fun s d =>
    (s.setDelta d.1 { d.2 with st := if d.2.st = .freeing then .freeing else .retiring, forced := false }).cancelPinned d.1) s

def VState.num : VState → Nat
  | .free => 0 | .loading => 1 | .active => 2 | .superseded => 3 | .retiring => 4 | .freeing => 5

/-- DELTA_QUERY: the 32-byte record (R342). -/
def State.cmdDeltaQuery (k : Nat) (x : SubEntry) (s : State) : State :=
  s.checked k x 0xFFFF full 0 0 0 0 fun s =>
    let slot := x.e.w2.toNat
    if !s.feature k 2 then s.complete k x St.notSupported
    else match (kfind s.deltas slot).filter fun d => d.owner == k / 16 with
      | none => s.complete k x St.deltaUnknown
      | some d =>
        s.answerHost k x x.e.w3.toNat (
          leBytes 8 (d.st.num + 2 ^ 3 * d.group + 2 ^ 16 * d.model + 2 ^ 32 * d.owner + 2 ^ 44 * d.pins) ++
          leBytes 8 (d.variant + 2 ^ 32 * d.serial) ++ leBytes 8 (Config.imageAddr slot % 2 ^ 48) ++ leBytes 8 d.total)

def execDeltaQuery (sl : Fin 4096) (r : Fin 16) (e : Entry) (s : State) : Res :=
  .next (s.submit (16 * sl + r) (sliceEnt 0x0B e) (State.cmdDeltaQuery (16 * sl + r) (sliceEnt 0x0B e)))

/-- NOP. -/
def State.cmdNop (k : Nat) (x : SubEntry) (s : State) : State := s.checked k x 0 0 0 0 0 0 fun s => s.complete k x St.ok

def execNop (sl : Fin 4096) (r : Fin 16) (e : Entry) (s : State) : Res :=
  .next (s.submit (16 * sl + r) (sliceEnt 0x0C e) (State.cmdNop (16 * sl + r) (sliceEnt 0x0C e)))

end Sys2Proof.Machine
end

