-- ==== Sys2Proof/Machine/Control.lean ====
section
/-! DEFINITION. The commands of the control ring (R382, R395, R396, R404–R407, R361, R362, R418): slices, groups, models, the
domain and its routes. -/

namespace Sys2Proof.Machine

/-- An entry of the control ring. -/
def ctlEnt (opc : Nat) (e : Entry) (body : Option ModelBody := none) (img : Option SliceImage := none) : SubEntry :=
  { opc := opc, e := e, body := body, img := img }

/-! ## Binding (R382, R395, R404) -/

/-- A function and PASID that a slice already has. -/
def State.pairUsed (s : State) (fn pasid : Nat) : Bool :=
  (List.range 4096).any fun n => s.sliceState n != unbound && s.rd F.HOST_SLICE.function n == fn && s.rd F.HOST_SLICE.pasid n == pasid

/-- Bind a slice in a state: counters at 0, a first key, a new cookie. A completion carries 96 bits of the cookie; the bits
above are 0. -/
def State.bindSlice (s : State) (n fn pasid st : Nat) : State :=
  let c := s.fresh .cookie % 2 ^ 96
  let s := ((s.drawn.put F.HOST_SLICE.function fn n).put F.HOST_SLICE.pasid pasid n).setSliceState n st
  let s := (s.put F.HOST_S_FEAT_DEV.feat_dev (s.rd F.HOST_FEAT_DEV.feat_dev) n).put F.HOST_S_FEAT_AGREED.feat_ok 0 n
  let s := (s.put F.HOST_S_VER.neg_status 0 n).put F.HOST_S_COOKIE_NEW.cookie_new 0 n
  let s := (s.put F.HOST_S_ATTACH.attach_st 0 n).put F.HOST_S_COOKIE.cookie 0 n
  (s.setSlice n { (s.slice n).blank with cookie := c, hbLast := s.nowNs }).firstKey n

/-- Operands of SLICE_BIND and SLICE_RESTORE. -/
def bindSl (x : SubEntry) : Nat := bits x.e.w2.toNat 11 0
def bindFn (x : SubEntry) : Nat := bits x.e.w2.toNat 19 12
def bindPasid (x : SubEntry) : Nat := bits x.e.w2.toNat 39 20

/-- Complete with a slice's cookie. -/
def State.completeCookie (s : State) (x : SubEntry) (n : Nat) : State :=
  s.complete ctlRing x St.ok 0 ((s.slice n).cookie % 2 ^ 64) ((s.slice n).cookie / 2 ^ 64)

/-- SLICE_BIND. A slice whose key still waits to be replaced is not UNBOUND (R319). After an unlock nothing new is bound,
restored, joined or created (R483). -/
def State.cmdSliceBind (x : SubEntry) (s : State) : State :=
  s.checked ctlRing x (2 ^ 40 - 1) 0 0 0 0 0 fun s => s.owned cairn x fun s =>
    if s.on F.SEC_STAT.dbg_taint then s.complete ctlRing x St.busy
    else if s.sliceState (bindSl x) ≠ unbound then s.complete ctlRing x St.badSlice
    else if s.pairUsed (bindFn x) (bindPasid x) then s.complete ctlRing x St.busy
    else (s.bindSlice (bindSl x) (bindFn x) (bindPasid x) active).completeCookie x (bindSl x)

def execSliceBind (e : Entry) (s : State) : Res :=
  .next (s.submit ctlRing (ctlEnt 0x40 e) (State.cmdSliceBind (ctlEnt 0x40 e)))

/-- SLICE_UNBIND: the scrub begins. -/
def State.cmdSliceUnbind (x : SubEntry) (s : State) : State :=
  s.checked ctlRing x 0xFFF 0 0 0 0 0 fun s => s.owned cairn x fun s =>
    let n := x.e.w2.toNat
    if s.sliceState n = unbound ∨ s.sliceState n = scrubbing then s.complete ctlRing x St.badSlice
    else
      let s := match (s.slice n).freezeCmd with
        | some tok => s.finish ctlRing tok 0x42 St.ok
        | none => s
      (s.startScrub n).complete ctlRing x St.ok

def execSliceUnbind (e : Entry) (s : State) : Res :=
  .next (s.submit ctlRing (ctlEnt 0x41 e) (State.cmdSliceUnbind (ctlEnt 0x41 e)))

/-! ## Freeze and thaw (R405) -/

/-- SLICE_FREEZE. -/
def State.cmdSliceFreeze (x : SubEntry) (s : State) : State :=
  s.checked ctlRing x 0xFFF 0 0 0 0 0 fun s => s.owned ownerCoord x fun s =>
    let n := x.e.w2.toNat
    if s.sliceState n = active ∨ s.sliceState n = detached then
      let s := (s.setSliceState n frozen).freezeSlice n
      s.setSlice n { s.slice n with freezeCmd := some x.e.token.toNat, freezeAt := s.nowNs }
    else s.complete ctlRing x St.badSlice

def execSliceFreeze (e : Entry) (s : State) : Res :=
  .next (s.submit ctlRing (ctlEnt 0x42 e) (State.cmdSliceFreeze (ctlEnt 0x42 e)))

/-- Every sequence of the slice is frozen or on its way out. -/
def State.allFrozen (s : State) (n : Nat) : Bool :=
  (s.seqsOfSlice n).all fun x => x.2.held || x.2.branch != 0 || x.2.st == .frozen || x.2.st == .ending

/-- Bytes of a pass's live state in a cluster: ranges, foreground banks of 1 MiB, descriptor state. -/
def liveBytes (x : LiveState) : Nat := x.ranges.foldl (fun a r => a + r.2) 0 + x.cores.length * 2 ^ 20 + x.desc

/-- t_switch in ns, at 100 GB/s for each up channel of the partition (R405). -/
def State.switchNs (s : State) (x : LiveState) : Nat :=
  2000 + ceilDiv (liveBytes x) (100 * max 1 ((List.range 3).filter fun i => s.chanUp (3 * (x.cluster.val / 4) + i)).length)

/-- Scratchpad or shared SRAM of a cluster, as a place of live state. -/
def State.inCluster (s : State) (cl a n : Nat) : Bool :=
  (pagesOf a n).all fun p => match s.place p with
    | .pad c => c / 4 == cl
    | .clSram c => c == cl
    | _ => false

/-- SLICE_FREEZE_COMPLETE: every sequence is frozen, and the saves of the passes in progress have ended (R405). -/
def execSliceFreezeComplete (x : FreezeEnd) (s : State) : Res :=
  .next (
    match (s.slice x.slice).freezeCmd with
    | some tok =>
      if s.allFrozen x.slice && x.live.all fun l => (s.slice x.slice).freezeAt + s.switchNs l ≤ s.nowNs then
        let ranges := x.live.flatMap fun l => l.ranges.filter fun r => s.inCluster l.cluster r.1.toNat r.2
        (s.setSlice x.slice { s.slice x.slice with
          freezeCmd := none, saved := ranges.map fun r => (r.1.toNat, Memory.read s.mem r.1.toNat r.2),
          savedFg := (x.live.flatMap fun l => l.cores.map Fin.val).foldl (fun m c => kset m c (s.core c).fg) [] }).finish ctlRing tok 0x42 St.ok
      else s
    | none => s)

/-- SLICE_THAW: a freeze still in progress ends with it. -/
def State.cmdSliceThaw (x : SubEntry) (s : State) : State :=
  s.checked ctlRing x 0xFFF 0 0 0 0 0 fun s => s.owned ownerCoord x fun s =>
    let n := x.e.w2.toNat
    if s.sliceState n ≠ frozen then s.complete ctlRing x St.badSlice
    else
      let s := match (s.slice n).freezeCmd with
        | some tok => s.finish ctlRing tok 0x42 St.ok
        | none => s
      let s := s.setSlice n { s.slice n with freezeCmd := none, thawPend := true, hbLast := s.nowNs }
      (s.setSliceState n active).complete ctlRing x St.ok

def execSliceThaw (e : Entry) (s : State) : Res :=
  .next (s.submit ctlRing (ctlEnt 0x43 e) (State.cmdSliceThaw (ctlEnt 0x43 e)))

/-! ## Save (R406) -/

/-- Frames of a slice's sequences in the image: once for each sequence that refers to them. -/
def State.imageFrames (s : State) (n : Nat) : Nat :=
  (s.seqsOfSlice n).foldl (fun a x => x.2.pages.foldl (fun a e => a + 65536 * 2 ^ e.cls) a) 0

/-- The image: the header of R406, then the sections sealed under the migration key of its nonce, the header as the additional data, and
the tag. The length of the sections beyond their frames, their offsets and their encoding are free values. -/
def State.sliceImage (s : State) (n len seed : Nat) : List Byte :=
  let f (i : Nat) : Nat := Config.free .seal (seed + i)
  let nonce := leBytes 12 (f 0)
  let header := leBytes 4 0x4D585331 ++ leBytes 2 1 ++ leBytes 2 0 ++ leBytes 8 len ++ leBytes 2 s.ownNode ++ leBytes 2 n ++
    nonce ++ ((List.range 12).flatMap fun i => leBytes 8 ((s.slice n).counters.getD i 0)) ++
    leBytes 8 ((s.seqsOfSlice n).filter fun x => !x.2.held && x.2.branch == 0).length ++ leBytes 120 (f 1)
  header ++ gcmSeal (s.migKey nonce) nonce header ((List.range (len - 272)).map fun i => BitVec.ofNat 8 (Config.sectionByte (f 0) i))

/-- An image in host memory verifies: magic, version and length of the header, and the tag under the migration key of its nonce (R407). -/
def State.imageOk (s : State) (img : List Byte) : Bool :=
  let header := img.take 256
  let nonce := (header.drop 20).take 12
  let cipher := (img.drop 256).take (img.length - 272)
  272 ≤ img.length && imgLE img 0 4 == 0x4D585331 && imgLE img 4 2 == 1 && imgLE img 8 8 == img.length &&
  gcmTag (s.migKey nonce) nonce header cipher == img.drop (img.length - 16)

/-- SLICE_SAVE. -/
def State.cmdSliceSave (x : SubEntry) (s : State) : State :=
  s.checked ctlRing x 0xFFF full full 0 0 0 fun s => s.owned cairn x fun s =>
    let n := x.e.w2.toNat
    if !s.feature ctlRing 5 then s.complete ctlRing x St.notSupported
    else if s.sliceState n ≠ frozen then s.complete ctlRing x St.badSlice
    else
      let len := 272 + s.imageFrames n + s.fresh .unstated
      if x.e.w4.toNat < len then s.drawn.complete ctlRing x St.noSpace
      else
        let s := s.drawn
        match s.hostWr x.e.w3.toNat (s.sliceImage n len s.free) with
        | some s => (s.drawn.drawn).complete ctlRing x St.ok 0 len
        | none => (s.drawn.drawn).complete ctlRing x St.hostDma

def execSliceSave (e : Entry) (s : State) : Res :=
  .next (s.submit ctlRing (ctlEnt 0x44 e) (State.cmdSliceSave (ctlEnt 0x44 e)))

/-! ## Restore (R407) -/

/-- The loaded model with a digest. -/
def State.modelByDigest (s : State) (d : Nat) : Option Nat := (s.models.find? fun m => m.2.digest == d).map (·.1)

/-- The version that a sequence of an image is to pin: one of the image itself by its slot there (`own`: slot there ↦ slot
here), or an ACTIVE one that another slice owns on the device. -/
def State.imgVersion (s : State) (own : List (Nat × Nat)) (model : Nat) (v : Fin 4096 × BitVec 32 × Fin 65536) : Option Nat :=
  match own.find? fun o => o.1 == v.2.2.val with
  | some o => some o.2
  | none => (s.deltas.find? fun d =>
      d.2.st == .active && d.2.owner == v.1.val && d.2.variant == v.2.1.toNat && d.2.model == model).map (·.1)

/-- A partition with room for a sequence's frames: the one of the image first. -/
def State.roomFor (s : State) (p c n : Nat) : Nat :=
  ((p :: List.range s.nPart).find? fun q => q < s.nPart && n ≤ s.freeOf q c).getD p

/-- State code to state (R276). -/
def seqStateOf (n : Nat) : SeqState :=
  match n with
  | 1 => .admitted | 2 => .prefill | 3 => .moving | 4 => .decode | 5 => .pageWait | 6 => .frozen | 7 => .ending | _ => .free

/-- A completion entry from its four words (R389). -/
def cqOfWords (w0 w1 w2 w3 : Word) : CqEntry :=
  { token := w0.toNat, status := bits w1.toNat 15 0, phase := bit w1.toNat 16, dup := bit w1.toNat 17, kind := bits w1.toNat 19 18,
    opc := bits w1.toNat 27 20, handle := bits w1.toNat 63 32, res0 := w2.toNat, res1 := bits w3.toNat 63 32,
    tick := bits w3.toNat 31 0 }

/-- A ring comes back as it was (R406). -/
def State.restoreRing (s : State) (n : Nat) (r : ImgRing) : State :=
  let k := 16 * n + r.r.val
  let c := r.cfg.toNat
  let s := (s.ringPut rSqLog k (bits c 3 0)).ringPut rCqLog k (bits c 11 8)
  let s := ((s.ringPut rVector k (bits c 19 12)).ringPut rCoalCnt k (bits c 27 20)).ringPut rCoalUs k (bits c 43 28)
  let s := (s.ringPut rMirrorEn k (bits c 44 44)).ringPut rMirror k r.mirror.toNat
  let s := ((s.ringPut rSqTail k r.sqTail.toNat).ringPut rSqHead k r.sqHead.toNat).ringPut rCqHead k r.cqHead.toNat
  (s.ringPut rCqTail k r.cqTail.toNat).setRing k { Ring.zero with
    fifo := (r.sq.map fun x => sliceEnt x.1.toNat x.2).take ((r.sqTail - r.sqHead).toNat)
    cq := r.cq.foldl (fun m x => kset m x.1.toNat (cqOfWords x.2.1 x.2.2.1 x.2.2.2.1 x.2.2.2.2)) []
    lastTok := r.last.map BitVec.toNat }

/-- A command of an image is outstanding again. -/
def State.restoreCmd (s : State) (n : Nat) (q : ImgSeq) : Nat × State :=
  let w (i : Nat) : Nat := (q.words.getD i 0).toNat
  let r := bits (w 5) 47 44
  let k := 16 * n + r
  match s.cmds.find? fun c => c.2.slice == n && c.2.ring == r && c.2.token == w 4 with
  | some c => (c.1, s)
  | none =>
    let c := s.nextCmd
    let s : State := ((s.withNextCmd (c + 1)).withCmds (kset s.cmds c {
        slice := n, ring := r, token := w 4, outAddr := q.outAddr.toNat, samples := q.samples.toNat, maxNew := bits (w 2) 23 0,
        stream := q.stream, sampled := q.sampled, beamW := q.beamW.toNat, eos := q.eos.map BitVec.toNat, status := St.ok,
        done := q.done.foldl (fun m d => kset m d.1.toNat d.2.toNat) [],
        hyps := q.hyps.map fun h => (h.1, h.2.map BitVec.toNat), written := [], handle := 0 }))
    let s := s.setRing k { s.ring k with live := (s.ring k).live ++ [(w 4, 1)] }
    (c, (s.ringPut rOutst k (s.ringRd rOutst k + 1)).put F.HOST_STAT.outst (s.rd F.HOST_STAT.outst + 1))

/-- A sequence comes back FROZEN, with private frames and a new handle; nothing where its frames are not granted. -/
def State.restoreSeq (s : State) (n : Nat) (own : List (Nat × Nat)) (q : ImgSeq) : Option (Nat × State) :=
  let w (i : Nat) : Nat := (q.words.getD i 0).toNat
  let sp (i : Nat) : Nat := (q.spec.getD i 0).toNat
  let model := (s.modelByDigest q.digest.toNat).getD 0
  let cls := ((kfind s.models model).map fun m => m.frameLog2 - 16).getD 0
  let p := s.roomFor (bits (w 0) 16 14) cls q.frames.length
  let group := bits (w 5) 43 32
  let scope := if group = 0 then n else 4095 + group
  let ver := q.variant.bind fun v => s.imgVersion own model v
  match s.allocMany p cls n scope true q.frames.length with
  | .error _ => none
  | .ok (pages, s) =>
    let s := (pages.zip q.frames).foldl (fun s x => s.store (x.1.frame * 65536) x.2 scope) s
    let c := s.restoreCmd n q
    let st := seqStateOf (bits (w 0) 3 0)
    let e := c.2.newEntry {
      st := .frozen, resume := (if st = .frozen ∨ st = .pageWait then seqStateOf (bits (w 0) 7 4) else st),
      frzCause := if st = .frozen then bits (w 0) 10 8 else 1, deltaEn := ver.isSome, spec := bit (w 0) 12,
      cancelPend := bit (w 0) 13, part := p, slice := n, model := model, deltaVer := ver.getD 0, len := bits (w 1) 23 0,
      promptLen := bits (w 1) 47 24, gen := 0, maxNew := bits (w 2) 23 0, nOut := bits (w 2) 47 24, stage := bits (w 2) 55 48,
      draftLen := bits (w 2) 63 56, wait := 0, token := w 4, family := if bits (w 5) 31 0 = 0 then 0 else c.1 + 1, group := group,
      ring := bits (w 5) 47 44, aborts := bits (w 5) 55 48, paramAddr := bits (w 6) 47 0, admTick := bits (w 7) 31 0,
      passTick := bits (w 7) 63 32, dlen := bits (sp 0) 23 0, branch := 0, origin := 0, drafted := bits (sp 1) 31 0,
      accepted := bits (sp 1) 63 32, toks := q.toks.map BitVec.toNat, pages := pages, nodes := [], lookupDone := true,
      cmd := c.1, sample := q.sample.toNat, status := St.ok, freezeReq := none, moveTo := none, held := false, needFork := 0,
      peerSpill := false, beamW := q.beamW.toNat, score := q.score, owed := none, ringNodes := [], transit := [], att := none }
    some (e.1, (match kfind e.2.seqs e.1 with
      | some q => e.2.pin q
      | none => e.2))

/-- A version of the image takes a slot and is ACTIVE at once, so that its sequences can pin it. -/
def State.restoreDelta (s : State) (n : Nat) (d : ImgDelta) : Option (Nat × State) :=
  match s.freeDeltaSlot, s.modelByDigest d.digest.toNat with
  | some k, some m =>
    if s.weightRoom d.image.length then some (k, (s.takeDelta k n m d.variant.toNat d.group d.image none).activateDelta k) else none
  | _, _ => none

/-- Versions of the image, with the slots they take. -/
def State.restoreDeltas (s : State) (n : Nat) : List ImgDelta → Option (List (Nat × Nat) × State)
  | [] => some ([], s)
  | d :: ds =>
    match s.restoreDelta n d with
    | none => none
    | some (k, s) => (s.restoreDeltas n ds).map fun r => ((d.slot.val, k) :: r.1, r.2)

/-- Sequences of the image, with tokens and new handles. -/
def State.restoreSeqs (s : State) (n : Nat) (own : List (Nat × Nat)) : List ImgSeq → Option (List (Nat × Nat) × State)
  | [] => some ([], s)
  | q :: qs =>
    match s.restoreSeq n own q with
    | none => none
    | some (i, s) => (s.restoreSeqs n own qs).map fun r => (((q.words.getD 4 0).toNat, s.handle i) :: r.1, r.2)

/-- Everything of a verified image but the binding: rings, tokens, admission, regions, versions, sequences; nothing where
entries, frames or slots are short. -/
def State.restoreAll (s : State) (n : Nat) (img : SliceImage) : Option (List (Nat × Nat) × State) :=
  let s := img.rings.foldl (fun s r => s.restoreRing n r) s
  let s := (s.put F.SRV_ADM.quantum img.quantum.toNat n).put F.SRV_ADM.seq_quota img.seqQuota.toNat n
  let s := s.put F.KV_QUOTA.quota_64k img.quota64k.toNat n
  let s := (s.stage F.SRV_SHP.rate img.rate.toNat n).stage F.SRV_SHP.burst img.burst.toNat n
  let s := s.setSlice n { s.slice n with
    counters := (img.counters.map BitVec.toNat ++ List.replicate 12 0).take 12
    window := (img.window.map fun e => (e.1.val, cqOfWords e.2.1 e.2.2.1 e.2.2.2.1 e.2.2.2.2)).take 4096
    regionPend := img.regions.foldl (fun m r => match regionOf r.2.1.toNat r.2.2.1.toNat r.2.2.2.1.toNat r.2.2.2.2.toNat with
      | some d => kset m r.1.val (some d)
      | none => m) (s.slice n).regionPend }
  -- the saves wait in the save area (R405)
  let s := s.setSlice n { s.slice n with
    saved := img.live.map fun x => (x.1.toNat, x.2)
    savedFg := img.liveFg.foldl (fun m c => kset m c.1.val (c.2.foldl (fun m b => kset m b.1 b.2.toNat) [])) [] }
  if s.freeCount < img.seqs.length then none
  else (s.restoreDeltas n img.deltas).bind fun r => r.2.restoreSeqs n r.1 img.seqs

/-- The checks of R407 against what is loaded: the status that refuses the image. -/
def State.imgCheck (s : State) (img : SliceImage) : Nat :=
  if img.seqs.any fun q => (s.modelByDigest q.digest.toNat).isNone then St.modelUnknown
  else if img.seqs.any fun q => q.variant.any fun v =>
      !(img.deltas.any fun d => d.slot == v.2.2) && (s.imgVersion [] ((s.modelByDigest q.digest.toNat).getD 0) v).isNone
    then St.deltaUnknown
  else St.ok

/-- The handle map: an 8-byte token and a 4-byte handle for each sequence. -/
def handleMap (hs : List (Nat × Nat)) : List Byte := hs.flatMap fun h => leBytes 8 h.1 ++ leBytes 4 h.2

/-- SLICE_RESTORE: the whole image is checked before anything changes. -/
def State.cmdSliceRestore (x : SubEntry) (s : State) : State :=
  s.checked ctlRing x (2 ^ 40 - 1) full full full 0 0 fun s => s.owned cairn x fun s =>
    let n := bindSl x
    if !s.feature ctlRing 5 then s.complete ctlRing x St.notSupported
    else if s.on F.SEC_STAT.dbg_taint then s.complete ctlRing x St.busy
    else if s.sliceState n ≠ unbound then s.complete ctlRing x St.badSlice
    else if s.pairUsed (bindFn x) (bindPasid x) then s.complete ctlRing x St.busy
    else if !s.hostOk x.e.w3.toNat x.e.w4.toNat then s.complete ctlRing x St.hostDma
    else match x.img with
      | none => s.complete ctlRing x St.imageInvalid
      | some img =>
        let st := s.imgCheck img
        if !s.imageOk (Memory.read s.hostMem x.e.w3.toNat x.e.w4.toNat) then s.complete ctlRing x St.imageInvalid
        else if st ≠ St.ok then s.complete ctlRing x st
        else match (s.bindSlice n (bindFn x) (bindPasid x) frozen).restoreAll n img with
          | none => s.complete ctlRing x St.noSpace
          | some (hs, t) =>
            match t.hostWr x.e.w5.toNat (handleMap hs) with
            | some t => t.completeCookie x n
            | none => s.complete ctlRing x St.hostDma

def execSliceRestore (e : Entry) (img : Option SliceImage) (s : State) : Res :=
  .next (s.submit ctlRing (ctlEnt 0x45 e none img) (State.cmdSliceRestore (ctlEnt 0x45 e none img)))

/-! ## Groups (R319, R395) -/

def Group.zero : Group := { exist := false, members := [] }
def State.group (s : State) (g : Nat) : Group := kget s.groups g Group.zero
def State.setGroup (s : State) (g : Nat) (x : Group) : State := s.withGroups (kset s.groups g x)

/-- GROUP_SET: 0 create, 1 add, 2 remove, 3 dissolve. -/
def State.cmdGroupSet (x : SubEntry) (s : State) : State :=
  s.checked ctlRing x (2 ^ 26 - 1) 0 0 0 0 0 fun s => s.owned cairn x fun s =>
    let g := bits x.e.w2.toNat 11 0
    let sl := bits x.e.w2.toNat 25 14
    let y := s.group g
    if !s.feature ctlRing 8 then s.complete ctlRing x St.notSupported
    else if g = 0 then s.complete ctlRing x St.badCommand
    else match bits x.e.w2.toNat 13 12 with
      | 0 =>
        if s.on F.SEC_STAT.dbg_taint || y.exist || s.scopesDead.contains (4095 + g) then s.complete ctlRing x St.busy
        else ((s.setGroup g { exist := true, members := [] }).firstKey (4095 + g)).complete ctlRing x St.ok
      | 1 =>
        if !y.exist then s.complete ctlRing x St.badCommand
        else (s.setGroup g { y with members := if y.members.contains sl then y.members else y.members ++ [sl] }).complete ctlRing x St.ok
      | 2 =>
        if !y.exist then s.complete ctlRing x St.badCommand
        else (s.setGroup g { y with members := y.members.filter (· != sl) }).complete ctlRing x St.ok
      | _ =>
        if !y.exist then s.complete ctlRing x St.badCommand
        else
          let s := s.setGroup g Group.zero
          let s : State := s.withScopesDead (s.scopesDead ++ [4095 + g])
          (s.dropNodes fun n => n.scope == 4095 + g).complete ctlRing x St.ok

/-- The GROUP_SET entry with its operation. -/
def groupEnt (e : Entry) (op : Nat) : SubEntry :=
  ctlEnt 0x46 { e with w2 := (e.w2 &&& ~~~(0x3000#64)) ||| BitVec.ofNat 64 (op * 4096) }

def execGroupCreate (e : Entry) (s : State) : Res := .next (s.submit ctlRing (groupEnt e 0) (State.cmdGroupSet (groupEnt e 0)))
def execGroupAddSlice (e : Entry) (s : State) : Res := .next (s.submit ctlRing (groupEnt e 1) (State.cmdGroupSet (groupEnt e 1)))
def execGroupRemoveSlice (e : Entry) (s : State) : Res := .next (s.submit ctlRing (groupEnt e 2) (State.cmdGroupSet (groupEnt e 2)))
def execGroupDissolve (e : Entry) (s : State) : Res := .next (s.submit ctlRing (groupEnt e 3) (State.cmdGroupSet (groupEnt e 3)))

/-! ## Models (R297, R322, R396) -/

/-- The serving block breaks no range of R322. -/
def servingOk (lg w0 w1 : Nat) : Bool :=
  let mode := bits w0 1 0
  let one (v lo hi : Nat) (on : Bool) : Bool := if on then lo ≤ v && v ≤ hi else v == 0
  mode < 3 && one (bits w0 9 2) 1 255 (mode == 1) && one (bits w0 17 10) 1 255 (mode == 1) && one (bits w0 22 18) 1 16 (mode == 2) &&
  bits w0 63 23 == 0 && bits w1 63 16 == 0 && bits w1 7 0 < lg && one (bits w1 12 8) 1 31 (bits w1 7 0 != 0) &&
  1 ≤ bits w1 15 13 && bits w1 15 13 ≤ 4

/-- The record of a package's 256-byte header (R396), or nothing where a cause of ST_MODEL_INVALID holds. -/
def parseModel (h rest : List Byte) (len model copies : Nat) (b : ModelBody) : Option Model :=
  let f (a n : Nat) : Nat := imgLE h a n
  let lg := f 12 1 + 1
  let fl := f 13 1
  let layers := f 24 2
  let rsv := f 6 2 == 0 && f 14 2 == 0 && f 26 38 == 0 && f 80 48 == 0 && f 192 64 == 0
  if h.length = 256 && f 0 4 == 0x4D584D31 && f 128 64 == digestOf rest && f 4 2 == model && rsv && 16 ≤ fl && fl ≤ 22 && lg ≤ layers &&
      256 * ceilDiv layers lg * f 20 4 ≤ 2 ^ fl && servingOk lg (f 64 8) (f 72 8) then
    some {
      digest := f 128 64, bytes := len, nTiles := f 8 4, lgCount := lg, frameLog2 := fl, maxCtx := f 16 4, kvBytes := f 20 4,
      nLayers := layers, attnMode := bits (f 64 8) 1 0, ringBlkPg := bits (f 64 8) 9 2, ringMax := bits (f 64 8) 17 10,
      splitCores := bits (f 64 8) 22 18, draftLg := bits (f 72 8) 7 0, specK := bits (f 72 8) 12 8,
      specBranch := bits (f 72 8) 15 13, copies := copies, stages := b.stages, tileSteps := b.tileSteps }
  else none

/-- MODEL_LOAD: `body` is what the package holds beyond its header. The weights go where the placement engine puts them, under
the device key. -/
def State.cmdModelLoad (x : SubEntry) (s : State) : State :=
  s.checked ctlRing x full full (2 ^ 18 - 1) 0 0 0 fun s => s.owned ownerCoord x fun s =>
    let m := bits x.e.w4.toNat 15 0
    let copies := max 1 (bits x.e.w4.toNat 17 16)
    let a := x.e.w2.toNat
    let n := x.e.w3.toNat
    if copies = 3 then s.complete ctlRing x St.badCommand
    else if (kfind s.models m).isSome then s.complete ctlRing x St.busy
    else if !s.hostOk a n then s.complete ctlRing x St.hostDma
    else match x.body.bind fun b => (parseModel (Memory.read s.hostMem a (min n 256)) (Memory.read s.hostMem (a + 256) (n - 256)) n m copies b).map fun r => (b, r) with
      | none => s.complete ctlRing x St.modelInvalid
      | some (b, r) =>
        if !s.weightRoom (n * copies) then s.complete ctlRing x St.noSpace
        else
          let s := b.place.foldl (fun s w =>
            s.store w.1.toNat (Memory.read s.hostMem (a + w.2.1.toNat) w.2.2.toNat) devKey) s
          (s.withModels (kset s.models m r)).complete ctlRing x St.ok

def execModelLoad (e : Entry) (body : ModelBody) (s : State) : Res :=
  .next (s.submit ctlRing (ctlEnt 0x47 e (some body)) (State.cmdModelLoad (ctlEnt 0x47 e (some body))))

/-- MODEL_UNLOAD. -/
def State.cmdModelUnload (x : SubEntry) (s : State) : State :=
  s.checked ctlRing x 0xFFFF 0 0 0 0 0 fun s => s.owned ownerCoord x fun s =>
    let m := x.e.w2.toNat
    if (kfind s.models m).isNone then s.complete ctlRing x St.modelUnknown
    else if (s.seqs.any fun q => q.2.st != .free && q.2.model == m) || s.deltas.any fun d => d.2.model == m then
      s.complete ctlRing x St.pinned
    else (s.withModels (kdel s.models m)).complete ctlRing x St.ok

def execModelUnload (e : Entry) (s : State) : Res :=
  .next (s.submit ctlRing (ctlEnt 0x48 e) (State.cmdModelUnload (ctlEnt 0x48 e)))

/-! ## Domain and routes (R361, R362) -/

/-- DOMAIN_JOIN. -/
def State.cmdDomainJoin (x : SubEntry) (s : State) : State :=
  s.checked ctlRing x 0xFFFF full full full full 0 fun s => s.owned fc x fun s =>
    if !s.feature ctlRing 7 then s.complete ctlRing x St.notSupported
    else if s.on F.FAB_CTRL.joined || s.on F.SEC_STAT.dbg_taint then s.complete ctlRing x St.busy
    else
      let key := x.e.w3.toNat + 2 ^ 64 * x.e.w4.toNat + 2 ^ 128 * x.e.w5.toNat + 2 ^ 192 * x.e.w6.toNat
      let s := ((s.put F.FAB_CTRL.node_id x.e.w2.toNat).put F.FAB_CTRL.joined 1).put F.SEC_KEYS.dom_key 1
      let s : State := s.withLinks (kmapv s.links fun _ y => { y with since := s.nowNs })
      (s.withSec { s.sec with domKey := true, domVal := key }).complete ctlRing x St.ok

def execDomainJoin (e : Entry) (s : State) : Res :=
  .next (s.submit ctlRing (ctlEnt 0x4B e) (State.cmdDomainJoin (ctlEnt 0x4B e)))

/-- A list of node IDs changes: added, or removed. -/
def listChange (old ids : List Nat) (remove : Bool) : List Nat :=
  if remove then old.filter fun n => !ids.contains n else old ++ (ids.dedup.filter fun n => !old.contains n)

/-- DOMAIN_LIST: members, spares or cache peers. A node that leaves the members or the cache peers is lost (R315, R329). -/
def State.cmdDomainList (x : SubEntry) (s : State) : State :=
  s.checked ctlRing x (2 ^ 19 - 1) full 0 0 0 0 fun s => s.owned fc x fun s =>
    let kind := bits x.e.w2.toNat 1 0
    let remove := bit x.e.w2.toNat 2
    let n := bits x.e.w2.toNat 18 3
    if !s.feature ctlRing 7 then s.complete ctlRing x St.notSupported
    else if kind = 3 then s.complete ctlRing x St.badCommand
    else match s.hostRd x.e.w3.toNat (2 * n) with
      | none => s.complete ctlRing x St.hostDma
      | some bs =>
        let ids := (List.range n).map fun i => imgLE bs (2 * i) 2
        let gone (old : List Nat) : List Nat := if remove then old.filter ids.contains else []
        match kind with
        | 0 =>
          let out := gone s.members
          -- the windows of a source that leaves are freed (R367)
          let s : State := (s.withMembers (listChange s.members ids remove)).withWindows (s.windows.filter fun w => !out.contains w.1)
          (out.foldl State.memberLost s).complete ctlRing x St.ok
        | 1 => (s.withSpares (listChange s.spares ids remove)).complete ctlRing x St.ok
        | _ =>
          let out := gone s.cachePeers
          let s : State := s.withCachePeers (listChange s.cachePeers ids remove)
          (out.foldl State.memberLost s).complete ctlRing x St.ok

/-- The DOMAIN_LIST entry with its direction. -/
def listEnt (e : Entry) (remove : Bool) : SubEntry :=
  ctlEnt 0x4C { e with w2 := (e.w2 &&& ~~~(4#64)) ||| BitVec.ofNat 64 (4 * b2n remove) }

def execDomainListAdd (e : Entry) (s : State) : Res :=
  .next (s.submit ctlRing (listEnt e false) (State.cmdDomainList (listEnt e false)))
def execDomainListRemove (e : Entry) (s : State) : Res :=
  .next (s.submit ctlRing (listEnt e true) (State.cmdDomainList (listEnt e true)))

/-- One route entry: a candidate that changes makes new requests wait (R364). -/
def State.setRoute (s : State) (w : Nat) : State :=
  let d := bits w 15 0
  let cs := ([bits w 21 16, bits w 27 22, bits w 33 28, bits w 39 34].filter (· < 36)).dedup
  let same := (kfind s.routes d).any fun r => r.cands == cs
  (s.withRoutes (kset s.routes d {
      cands := cs, hops := bits w 43 40, act := cs.filter s.linkActive, waitFor := if same then ((kfind s.routes d).map (·.waitFor)).getD [] else (s.reqsTo d).map (·.tid) }))

/-- ROUTE_SET. -/
def State.cmdRouteSet (x : SubEntry) (s : State) : State :=
  s.checked ctlRing x full full 0 0 0 0 fun s => s.owned fc x fun s =>
    let n := x.e.w2.toNat
    if !s.feature ctlRing 7 then s.complete ctlRing x St.notSupported
    else match s.hostRd x.e.w3.toNat (8 * n) with
      | none => s.complete ctlRing x St.hostDma
      | some bs => ((List.range n).foldl (fun s i => s.setRoute (imgLE bs (8 * i) 8)) s).complete ctlRing x St.ok

def execRouteSet (e : Entry) (s : State) : Res :=
  .next (s.submit ctlRing (ctlEnt 0x4D e) (State.cmdRouteSet (ctlEnt 0x4D e)))

end Sys2Proof.Machine
end

