-- ==== Sys2Proof/Machine/Firmware.lean ====
section
/-! DEFINITION. The firmware processors (R413–R430): log rings, watchdogs, crashes, restarts and hold-down, releases, and the boot
record. A processor's return to service runs commands it held and stands in Edge. -/

namespace Sys2Proof.Machine

/-! ## Watchdogs (R415) -/

/-- Reload the watchdog of processor `i`. -/
def State.kick (s : State) (i : Nat) : State :=
  s.setProc i { s.proc i with wdDue := s.nowNs + s.rd F.FW_PROC_CTRL.wd_ms i * 1000000 }

/-- WD_KICK: a running processor that no debugger holds writes `wd_kick`. -/
def execWdKick (i : Fin 11) (s : State) : Res :=
  .next (if s.procUp i && !(s.proc i).dbgHalt then s.kick i else s)

/-! ## Restarts, crashes, hold-down (R415–R421, R424) -/

/-- Section of a processor in the image: Cairn, TC, FC, PC. -/
def sectOf (i : Nat) : Nat := min i 3

/-- What stands still while processor `i` does: TC leaves LOCKED, the route entries keep FC's candidates (R417). -/
def State.procQuiet (s : State) (i : Nat) : State :=
  if i = tc ∧ s.servo = locked then s.enterHoldover
  else if i = fc then s.withRoutes (kmapv s.routes fun _ r => { r with act := r.cands.filter s.linkActive })
  else s

/-- A processor stops answering, and what stood in its mailbox is lost with its private SRAM. -/
def State.procStops (s : State) (i : Nat) : State :=
  let s := if s.procUp i then s.procQuiet i else s
  s.setProc i { s.proc i with mail := [], dbgHalt := false }

/-- Version and digest of the section that processor `i` runs. -/
def State.sectOn (s : State) (i : Nat) : Nat × Nat := (s.proc i).sect
def State.putSect (s : State) (i : Nat) (v : Nat × Nat) : State :=
  ((s.setProc i { s.proc i with sect := v }).put F.FW_PROC_SECT.sect_ver v.1 i).put F.FW_PROC_SECT.sect_dig v.2 i

/-- Trace point 1: a processor starts (R428). -/
def State.logStart (s : State) (i cause : Nat) : State := s.logRec i 1 3 [cause, (s.sectOn i).1, (s.sectOn i).2]

/-- A section that waits for processor `i` becomes its current one (R423). -/
def State.takeSect (s : State) (i : Nat) : State :=
  let p := s.proc i
  match p.sectPend with
  | none => s
  | some v =>
    (s.setProc i { p with prevSect := some p.sect, newCrashes := 0, sectPend := none }).putSect i v

/-- Restart processor `i` from its current section with a cause (R416). -/
def State.restart (s : State) (i cause : Nat) : State :=
  let s := (s.procStops i).takeSect i
  let s := ((s.put F.FW_PROC_STAT.pstate 1 i).put F.FW_PROC_STAT.last_cause cause i).bump F.FW_PROC_CNT.starts i
  let s := (s.orf F.FW_GSTAT.down (2 ^ i)).setProc i { s.proc i with downAt := s.nowNs, boots := (s.proc i).boots + 1 }
  s.logStart i cause

/-- Commands that a held-down processor owns complete with ST_BUSY (R418). -/
def State.busyHeld (s : State) (i : Nat) : State :=
  let mine := s.heldCmds.filter fun h => h.owner == i
  mine.foldl (fun s h => s.complete ctlRing h.ent St.busy) (s.withHeldCmds (s.heldCmds.filter fun h => h.owner != i))

/-- Hold processor `i` down (R420). -/
def State.holdDown (s : State) (i : Nat) : State :=
  let s := (s.procStops i).put F.FW_PROC_STAT.pstate 2 i
  let s := (((s.clrf F.FW_GSTAT.down (2 ^ i)).orf F.FW_GSTAT.held (2 ^ i)).put F.FW_GSTAT.hold_evt 1).showFault s
  let s := (s.eventEntry (Config.hostEvent 9) i).service 7 Ev.holdDown i
  let s := s.logRec i 3 0 ((s.proc i).crashes.take 3)
  let s := s.busyHeld i
  if i = cairn then
    (List.range s.nPart).foldl (fun s p => s.stage F.TICK_OPEN_SHARE.open_share (s.rd F.FW_GCTRL.cairn_safe_share) p) s
  else if 3 ≤ i then s.refuseAdm (i - 3)
  else s

/-- A section that failed is taken back (R424): the processor returns to the former one; for a PC section every controller that
runs the new one does, and restarts with it. -/
def State.revertSect (s : State) (i : Nat) : State :=
  let new := s.sectOn i
  let old := if 3 ≤ i then s.sec.pcPrev.getD new else (s.proc i).prevSect.getD new
  let is := if 3 ≤ i then (span 3 8).filter fun j => s.rd F.FW_PROC_STAT.pstate j != 4 else [i]
  let redo := is.filter fun j => j != i && s.sectOn j == new && s.rd F.FW_PROC_STAT.pstate j == 0
  let s := is.foldl (fun s j =>
    (s.putSect j old).setProc j { s.proc j with prevSect := none, newCrashes := 0, sectPend := none }) s
  let s : State := if 3 ≤ i then (s.withSec { s.sec with pcPrev := none }) else s
  let s := (s.put F.FW_UPDATE.upd_state 3).logRec i 5 1 [sectOf i, new.1, old.1, 3]
  redo.foldl (fun s j => s.restart j 5) s

/-- Processor `i` crashes (R415, R420): the second crash on a new section before its first ready reverts it, the third within
600 s holds the processor down. -/
def State.crash (s : State) (i cause : Nat) : State :=
  let p := s.proc i
  let win := p.crashes.filter fun t => s.nowNs ≤ t + 600000000000
  let s := s.setProc i { p with crashes := s.nowNs :: win, newCrashes := if p.prevSect.isSome then p.newCrashes + 1 else 0 }
  let s := ((s.put F.FW_PROC_STAT.last_cause cause i).put F.FW_PROC_STAT.crash_evt 1 i).bump F.FW_PROC_CNT.crashes i
  let s := (s.put F.FW_PROC_CNT.win_crashes (min 3 (win.length + 1)) i).put F.FW_PROC_LAST.crash_cmp s.compare i
  let s := (s.logRec i 2 0 [cause, s.fresh .firmware, p.wdDue - s.rd F.FW_PROC_CTRL.wd_ms i * 1000000]).drawn
  let s := s.event 7 1 Ev.crash (cause + 16 * i) i
  let s := if (s.proc i).prevSect.isSome ∧ 2 ≤ (s.proc i).newCrashes then s.revertSect i else s
  if 2 ≤ win.length then s.holdDown i
  else
    let s := s.restart i cause
    s.put F.FW_PROC_STAT.last_cause cause i

/-- A processor that runs or is restarting. -/
def State.procOn (s : State) (i : Nat) : Bool := s.rd F.FW_PROC_STAT.pstate i < 2

/-- WATCHDOG_EXPIRY. A processor halted by the debug port does not count down (R484). -/
def execWatchdogExpiry (i : Fin 11) (s : State) : Res :=
  .next (
    if s.procUp i && !(s.proc i).dbgHalt then ((s.reach (s.proc i).wdDue).map fun s => s.crash i 1).getD s else s)

/-- FW_EXCEPTION. -/
def execFwException (i : Fin 11) (s : State) : Res := .next (if s.procOn i && !(s.proc i).dbgHalt then s.crash i 2 else s)

/-- FW_SRAM_UE. -/
def execFwSramUe (i : Fin 11) (s : State) : Res :=
  .next (if s.procOn i then (s.withSramUe (some s.nowNs)).crash i 3 else s)

/-- A restart is in progress; the controller of a partition in reset starts in the last phase (R419, R454). -/
def State.starting (s : State) (i : Nat) : Bool :=
  s.rd F.FW_PROC_STAT.pstate i == 1 && (i < 3 || [0, 5].contains (s.rd F.RST_PART_STAT.rst_state (i - 3)))

/-- RESTART_TIMEOUT. -/
def execRestartTimeout (i : Fin 11) (s : State) : Res :=
  .next (
    if s.starting i then ((s.reach ((s.proc i).downAt + 20000000)).map fun s => s.crash i 4).getD s
    else s)

/-- RELEASE (R421). -/
def execRelease (wr : Writer) (i : Fin 11) (s : State) : Res :=
  .next (
    if s.mayWrite wr F.FW_PROC_CTRL.release i ∧ s.rd F.FW_PROC_STAT.pstate i = 2 then
      let s := (s.setProc i { s.proc i with crashes := [] }).put F.FW_PROC_CNT.win_crashes 0 i
      (((s.clrf F.FW_GSTAT.held (2 ^ i.val)).showFault s).logRec i 4 3 [0]).restart i 7
    else s)

/-- RESTART_REQ (R421). -/
def execRestartReq (wr : Writer) (i : Fin 11) (s : State) : Res :=
  .next (
    if s.mayWrite wr F.FW_PROC_CTRL.restart_req i && s.rd F.FW_PROC_STAT.pstate i == 0 then (s.logRec i 4 3 [1]).restart i 6 else s)

/-! ## The boot record (R425) -/

/-- Cairn rewrites the boot record for what host software has written to `boot_slot` and `confirm`. -/
def State.syncBoot (s : State) : State :=
  let b := s.bring.boot
  let b := if s.rd F.FW_IMAGE.boot_slot = b.bootSlot then b else { b with blank := false, bootSlot := s.rd F.FW_IMAGE.boot_slot }
  let b := if b.onTrial && !s.on F.FW_IMAGE.trial then
      { b with blank := false, confirmed := some (s.rd F.FW_IMAGE.cur_slot), onTrial := false }
    else b
  s.withBring { s.bring with boot := b }

/-- What is written while Cairn is down waits for it. -/
def State.bootWrite (s : State) : State := if s.procUp cairn then s.syncBoot else s

/-- BOOT_SLOT_WRITE: the register holds the record's slot from the end of step 3. -/
def execBootSlotWrite (wr : Writer) (slot : Fin 2) (s : State) : Res :=
  .next (
    if s.mayWrite wr F.FW_IMAGE.boot_slot 0 && 3 ≤ s.rd F.RST_STAT.step then (s.put F.FW_IMAGE.boot_slot slot).bootWrite
    else s)

/-- CONFIRM: the running slot is confirmed, once Ready. -/
def execConfirm (wr : Writer) (s : State) : Res :=
  .next (
    if s.mayWrite wr F.FW_IMAGE.confirm 0 && s.ready then (s.put F.FW_IMAGE.trial 0).bootWrite
    else s)

end Sys2Proof.Machine
end

