-- ==== Sys2Proof/Machine/Plan.lean ====
section
/-! DEFINITION. The device configuration record (R437–R440, R471, R472): the fields it may name, its checks, and the cell plan it
carries: refusal, cost, placement, streams and chains (R6, R223, R229–R231, R238–R240, R246, R250, R251, R253, R261). -/

namespace Sys2Proof.Machine

/-! ## Parameter records (R439) -/

/-- The fields whose Reset column reads "DCR". -/
def dcrFields : List Field := [
  F.TIME_CTRL.src_sel, F.TIME_CTRL.synce_en, F.TIME_CTRL.pps_out_en, F.TIME_CTRL.clk10m_out_en, F.TIME_PORT.ptp_port,
  F.TIME_PORT.ptp_subport, F.TIME_PORT.synce_port, F.TIME_PORT.synce_subport, F.TIME_PORT.profile,
  F.TIME_PORT.domain, F.TIME_JUMP_THR.thr_ns, F.TIME_HOLD.hold_limit_s, F.TIME_HOLD.refuse_limit_s,
  F.TIME_HOLD.lock_wait_s, F.MSF_GCTRL.kat_period, F.SPR_GCTRL.kat_period, F.MEM_MAP.ilv_mode, F.MEM_MAP.rsv_per_ch,
  F.MEM_MAP.min_ch, F.NOC_CFG.radio_share, F.FH_PORT_CFG.split, F.FH_PORT_CFG.mtu, F.FH_PORT_CFG.pcp_c,
  F.FH_PORT_CFG.pcp_u, F.FH_MAC.port_mac, F.FH_WIN_CP.t1a_cp_min, F.FH_WIN_CP.t1a_cp_max, F.FH_WIN_DL.t1a_up_min,
  F.FH_WIN_DL.t1a_up_max, F.FH_WIN_UL.ta4_min, F.FH_WIN_UL.ta4_max, F.FH_PEER.peer_mac, F.FH_PEER.vlan_id,
  F.FH_STREAM.dl_meth, F.FH_STREAM.dl_width, F.FH_STREAM.ul_meth, F.FH_STREAM.ul_width, F.DFE_CFG.ovs,
  F.DFE_CFG.tx_taps, F.DFE_CFG.rx_taps, F.DFE_CFG.agc_mode, F.DFE_CFG.mask_act, F.DFE_CFG.mask_avg_log2,
  F.DFE_NCO.nco_inc, F.DFE_NCO.nco_phase0, F.DFE_AGC.agc_init, F.DFE_AGC_THR.agc_hi, F.DFE_AGC_THR.agc_lo,
  F.SRV_CTRL.chunk_pg, F.SRV_PART.role, F.KV_CTRL.pg_wait_lim, F.KV_CTRL.tree_en, F.FAB_CTRL.min_links,
  F.FAB_LINK_CFG.link_en, F.FW_GCTRL.cairn_safe_share, F.FW_PROC_CTRL.wd_ms, F.RST_CTRL.wave_clusters,
  F.RST_CTRL.wave_gap_us, F.RST_WARM.warm_max_s, F.RST_KV_PCT.kv_pct_0, F.RST_KV_PCT.kv_pct_1, F.RST_KV_PCT.kv_pct_2,
  F.RST_KV_PCT.kv_pct_3, F.RST_KV_PCT.kv_pct_4, F.RST_KV_PCT.kv_pct_5, F.RST_KV_PCT.kv_pct_6, F.RST_KV_PCT.kv_pct_7,
  F.SEC_DBG.dbg_en, F.MGT_LIM.p_lim, F.MGT_LIM.t_thr, F.DFE_TXF_COEF.coef, F.DFE_RXF_COEF.coef, F.DFE_MASK_INB.inb,
  F.DFE_MASK_LIM.lim]

/-- Instances of a field that exist. -/
def Field.has (f : Field) (i : Nat) : Bool :=
  (if f.stride = 0 then i == 0 else i < f.count) && (f.per == 0 || i % f.per < f.lim)

/-- The field and instance that a parameter record names. -/
def paramTarget (r : ParamRec) : Option (Field × Nat) :=
  dcrFields.findSome? fun f =>
    let off := r.offset.toNat - f.base
    let i := if f.stride = 0 then 0 else off / f.stride
    if f.base ≤ r.offset.toNat && off == f.stride * i && f.has i && f.lo == r.lo.toNat && f.width == r.wm1.toNat + 1 then some (f, i)
    else none

/-- The fields whose range is narrower than their width. -/
def dcrRange (f : Field) : Nat × Nat :=
  let is (g : Field) : Bool := f.base == g.base && f.lo == g.lo
  if is F.TIME_CTRL.src_sel then (0, 2)
  else if is F.TIME_JUMP_THR.thr_ns then (20, 1000000)
  else if is F.MEM_MAP.rsv_per_ch then (1, 64)
  else if is F.NOC_CFG.radio_share then (1, 15)
  else if is F.FH_PORT_CFG.mtu then (1500, 9216)
  else if is F.DFE_CFG.ovs then (0, 2)
  else if is F.DFE_CFG.tx_taps || is F.DFE_CFG.rx_taps then (0, 96)
  else if is F.FW_GCTRL.cairn_safe_share then (0, 1024)
  else if is F.FW_PROC_CTRL.wd_ms then (10, 1000)
  else if is F.RST_CTRL.wave_clusters then (1, 32)
  else if is F.RST_CTRL.wave_gap_us then (50, 10000)
  else if is F.RST_WARM.warm_max_s then (10, 3600)
  else if f.base = F.RST_KV_PCT.kv_pct_0.base then (0, 90)
  else if is F.MGT_LIM.p_lim then (500, 3000)
  else (0, 2 ^ f.width - 1)

/-- The parameter section is valid. -/
def paramsOk : List ParamRec → Bool
  | [] => true
  | r :: rs =>
    (match paramTarget r with
      | some (f, _) => (dcrRange f).1 ≤ r.value.toNat && r.value.toNat ≤ (dcrRange f).2
      | none => false) &&
    (rs.all fun q => !(q.offset == r.offset && q.lo == r.lo)) && paramsOk rs

/-- Write the DCR fields: the named ones; the windows of a port take the defaults of R253 where no record names them. -/
def State.applyParams (s : State) (ps : List ParamRec) : State :=
  let win (f : Field) (v : Nat) (s : State) : State := s.putAll f v (span 0 8)
  let s := win F.FH_WIN_CP.t1a_cp_min 125000 (win F.FH_WIN_CP.t1a_cp_max 350000 s)
  let s := win F.FH_WIN_DL.t1a_up_min 50000 (win F.FH_WIN_DL.t1a_up_max 100000 s)
  let s := win F.FH_WIN_UL.ta4_min 25000 (win F.FH_WIN_UL.ta4_max 100000 s)
  ps.foldl (fun s r => match paramTarget r with
    | some (f, i) => s.put f r.value.toNat i
    | none => s) s

/-! ## The record (R438, R440, R463, R471, R472) -/

/-- The radio-parameter section is valid: one record for each cell of the plan and no other, a profile for each split-8
cell. -/
def radioOk (d : Dcr) : Bool :=
  (d.radio.all fun r =>
    (d.cells.any fun c => ceId c == r.cellId.toNat) && (d.radio.filter fun q => q.cellId == r.cellId).length == 1 &&
    (r.dfeProf == 255 || r.dfeProf.toNat < d.profiles.length)) &&
  d.cells.all fun c => (d.radio.any fun r =>
    r.cellId.toNat == ceId c && !(ceSplit c == 2 && r.dfeProf == 255))

/-- A record that is not refused (R438). -/
def dcrOk (d : Dcr) : Bool := d.formOk && d.sigOk && paramsOk d.params && radioOk d

/-- Of two copies, the one that verifies; of two that verify, the one with the larger serial (R463). -/
def pickDcr (a b : Option Dcr) : Option Dcr :=
  match a, b with
  | some x, some y => if x.sigOk && y.sigOk then (if x.serial < y.serial then some y else some x) else if y.sigOk then some y else some x
  | some x, none => some x
  | none, y => y

/-- The entitlement record is accepted (R5, R471, R472). -/
def State.entOk (s : State) (e : Entitlement) : Bool :=
  e.magic == 0x4D58454E && e.entVer == 1 && e.devId.toNat == s.sec.devId && s.sec.rootOk && e.code.toNat ≤ 2 &&
  e.dbgPolicy.toNat < 4 && e.minKeyGen.toNat ≤ 1 && !e.rsvSet && e.sigOk

/-! ## The cell plan: what refuses it (R238–R240) -/

/-- The plan's header says that there is no plan: the section is absent. -/
def noPlan (d : Dcr) : Bool := d.planHdr == (0, 0, 0, 0) && d.cells.isEmpty

/-- Header fields inside their ranges (R238). -/
def planHdrOk (d : Dcr) : Bool :=
  let w0 := d.planHdr.1.toNat
  let w1 := d.planHdr.2.1.toNat
  let w2 := d.planHdr.2.2.1.toNat
  let n := bits w1 11 0
  n == d.cells.length && n ≤ 2560 && ((w0 == 0) == (n == 0)) && bits w1 18 12 ≤ 79 && bits w1 19 19 == 0 && bits w1 63 51 == 0 &&
  bits w2 9 0 ≤ 768 && 1 ≤ bits w2 17 10 && 1 ≤ bits w2 22 18 && bits w2 22 18 ≤ 20 && bits w2 63 28 == 0 &&
  d.planHdr.2.2.2.toNat == 0

/-- PRBs that a range and numerology allow (R223); 0 where the pair is unsupported. -/
def maxPrb (fr2 : Bool) (mu : Nat) : Nat :=
  match fr2, mu with
  | false, 0 => 270 | false, 1 => 273 | false, 2 => 135 | true, 2 => 264 | true, 3 => 264 | _, _ => 0

/-- Layers that a `trx` row allows, downlink and uplink (R229). -/
def maxLayers (t : Nat) : Nat × Nat := [(1, 1), (2, 1), (4, 2), (4, 4), (8, 4), (8, 4), (16, 8), (16, 8)].getD t (0, 0)

/-- Length of a period code in µs. -/
def periodUs (code : Nat) : Nat := [500, 625, 1000, 1250, 2000, 2500, 3000, 4000, 5000, 10000].getD code 0

/-- One pattern fits its period: whole slots, and its parts beside one another. -/
def patternOk (mu code dlSlots dlSyms ulSlots ulSyms : Nat) : Bool :=
  let n := periodUs code * 2 ^ mu / 1000
  periodUs code * 2 ^ mu % 1000 == 0 &&
  if dlSlots + ulSlots < n then dlSlots + ulSlots + 2 ≤ n || dlSyms + ulSyms ≤ 14
  else dlSlots + ulSlots == n && dlSyms == 0 && ulSyms == 0

/-- The patterns of a TDD cell fit, and their periods divide 20 ms (R240). -/
def tddOk (e : CellEntry) : Bool :=
  let w := e.w4.toNat
  let p1 := periodUs (bits w 3 0)
  let p2 := if bit w 26 then periodUs (bits w 30 27) else 0
  !ceTdd e ||
  (patternOk (ceMu e) (bits w 3 0) (bits w 10 4) (bits w 14 11) (bits w 21 15) (bits w 25 22) &&
    (!bit w 26 || patternOk (ceMu e) (bits w 30 27) (bits w 37 31) (bits w 41 38) (bits w 48 42) (bits w 52 49)) &&
    0 < p1 + p2 && 20000 % (p1 + p2) == 0)

/-- No reserved bit is set and every field is inside its range, those of pattern 2 also where it is absent (R239). More than 14 symbols of a
slot are outside the range of a symbol count (DESIGN CHOICE, log 75). -/
def rangeOk (e : CellEntry) : Bool :=
  let w1 := e.w1.toNat
  let w4 := e.w4.toNat
  bits e.w0.toNat 63 61 == 0 && bits e.w3.toNat 63 61 == 0 && bits e.w5.toNat 63 27 == 0 && e.w6 == 0 && e.w7 == 0 &&
  (cePart e < 8 || cePart e == 15) && ceSplit e ≤ 2 && 1 ≤ ceDlLayers e && ceDlLayers e ≤ 16 && 1 ≤ ceUlLayers e && ceUlLayers e ≤ 8 &&
  bits w1 9 0 ≤ 1007 && bits w1 12 10 ≤ 3 && bits w1 15 13 ≤ 5 && bits w1 33 24 ≤ 837 && bits w1 39 38 ≤ 2 &&
  bits e.w3.toNat 55 44 ≤ 2199 && bits e.w3.toNat 60 56 ≤ 23 && ceAtten e ≤ 60 &&
  if ceTdd e then
    bits w4 63 53 == 0 && bits e.w3.toNat 43 22 == bits e.w3.toNat 21 0 && bits w4 3 0 ≤ 9 && bits w4 30 27 ≤ 9 &&
    bits w4 14 11 ≤ 14 && bits w4 25 22 ≤ 14 && bits w4 41 38 ≤ 14 && bits w4 52 49 ≤ 14
  else w4 == 0

/-- Range, numerology, PRBs and layers inside R223 and R229; FR2 is TDD. -/
def airOkEntry (e : CellEntry) : Bool :=
  let prb n := 24 ≤ n && n ≤ maxPrb (ceFr2 e) (ceMu e)
  prb (cePrbDl e) && prb (cePrbUl e) && ceDlLayers e ≤ (maxLayers (ceTrx e)).1 && ceUlLayers e ≤ (maxLayers (ceTrx e)).2 &&
  (ceTdd e || !ceFr2 e)

/-- Split 8 inside its limits (R229), and the SSB case with its frequency range (R240). -/
def split8Ok (e : CellEntry) : Bool := ceSplit e != 2 || (!ceFr2 e && ceTrx e ≤ 4)
def ssbOk (e : CellEntry) : Bool := ceFr2 e == (bits e.w1.toNat 12 10 == 3)

/-- Partition, port and subport are there. -/
def State.unitsOk (s : State) (e : CellEntry) : Bool :=
  (cePart e < s.nPart || cePart e == 15) && s.fhExists (cePort e) (ceSub e)

/-- Two entries beside one another: eAxC ranges on one subport (R240, R250). -/
def eaxcMeet (a b : CellEntry) : Bool :=
  cePort a == cePort b && ceSub a == ceSub b && ceEaxc a < ceEaxc b + trxAnt (ceTrx b) && ceEaxc b < ceEaxc a + trxAnt (ceTrx a)

/-- The first entry that stands in relation `r` to a later one. -/
def firstPair (r : CellEntry → CellEntry → Bool) : List CellEntry → Option Nat
  | [] => none
  | e :: es => if es.any (r e) then some (ceId e) else firstPair r es

/-- Compression of a stream that is not refused (R144, R145, R251); width 0 means 16. -/
def methodOk (meth w : Nat) : Bool := meth == 0 || (meth == 1 && [0, 6, 8, 9, 10, 12, 14].contains w) || (meth == 3 && [8, 10].contains w)

/-- Radio record of a cell. -/
def radioOf (d : Dcr) (e : CellEntry) : RadioParam :=
  (d.radio.find? fun r => r.cellId.toNat == ceId e).getD
    { cellId := 0, dlMeth := 0, dlWidth := 0, ulMeth := 0, ulWidth := 0, dfeProf := 255 }

/-- Twelve times the U-plane bytes per second of one stream, before headers (R250). -/
def streamRate (d : Dcr) (e : CellEntry) (dl : Bool) : Nat :=
  let r := radioOf d e
  let meth := if dl then r.dlMeth.toNat else r.ulMeth.toNat
  let w := if dl then r.dlWidth.toNat else r.ulWidth.toNat
  let prb := if dl then cePrbDl e else cePrbUl e
  let w := if meth = 0 ∨ w = 0 then 16 else w
  if ceSplit e = 2 then
    let ovs := ((d.profiles[r.dfeProf.toNat]?).map fun p => bits p.cfg.toNat 1 0).getD 0
    nFft prb * 15000 * 2 ^ ceMu e * 2 ^ ovs * (if meth = 0 then 48 else 3 * w + 1)
  else 12 * (if meth = 1 then 3 * w + 1 else 3 * w) * prb * 14000 * 2 ^ ceMu e

/-- Peak U-plane rate of every subport within 90 % of its rate, both ways (R250). -/
def State.ratesOk (s : State) (d : Dcr) : Bool :=
  (span 0 32).all fun k =>
    let es := d.cells.filter fun e => cePort e == k / 4 && ceSub e == k % 4
    let sum dl := es.foldl (fun a e => a + ceStreams e * streamRate d e dl) 0
    let rate := 400000000000 / 2 ^ s.rd F.FH_PORT_CFG.split (k / 4)
    sum true * 8 * 105 ≤ 12 * 90 * rate && sum false * 8 * 105 ≤ 12 * 90 * rate

/-- Fronthaul windows inside their ranges (R253). -/
def State.windowsOk (s : State) : Bool :=
  (span 0 s.nFh).all fun x =>
    s.rd F.FH_WIN_DL.t1a_up_max x ≤ s.rd F.FH_WIN_CP.t1a_cp_min x && s.rd F.FH_WIN_CP.t1a_cp_max x ≤ 400000 &&
    s.rd F.FH_WIN_DL.t1a_up_min x ≤ s.rd F.FH_WIN_DL.t1a_up_max x && s.rd F.FH_WIN_DL.t1a_up_max x ≤ 120000 &&
    s.rd F.FH_WIN_UL.ta4_min x ≤ s.rd F.FH_WIN_UL.ta4_max x && s.rd F.FH_WIN_UL.ta4_max x ≤ 250000

/-- Stream table and chains have room (R250, R261). -/
def tablesOk (d : Dcr) : Bool :=
  let sum (t : CellEntry → Bool) (n : CellEntry → Nat) : Nat := (d.cells.filter t).foldl (fun a e => a + n e) 0
  sum (fun _ => true) ceStreams ≤ 4096 &&
  (span 0 8).all (fun x => sum (fun e => cePort e == x) ceStreams ≤ 1024) &&
  [0, 1].all fun die => sum (fun e => ceSplit e == 2 && cePort e / 4 == die) (fun e => trxAnt (ceTrx e)) ≤ 32

/-! ## Cost and placement (R229–R231) -/

/-- Cost of a cell in eighths of a cell-equivalent. -/
def cellCost (e : CellEntry) : Nat :=
  ceilDiv (max (cePrbDl e) (cePrbUl e) * 15 * 2 ^ ceMu e * [1, 2, 4, 5, 10, 16, 32, 48].getD (ceTrx e) 0 *
    (if ceSplit e = 2 then 5 else 4) * 8) (8190 * 16)

/-- Radio capacity of a partition in eighths: 2.5 cell-equivalents for each logical core that is present, none where its pinned radio SRAM is
defective (R441). -/
def State.partCap (s : State) (p : Nat) : Nat := if s.bring.noPinned.contains p then 0 else 20 * ((span (16 * p) 16).filter fun n => !s.on F.MSF_MAP.absent n).length

/-- Placed cost of a partition. -/
def loadOf (placed : List (CellEntry × Nat)) (p : Nat) : Nat :=
  (placed.filter fun x => x.2 == p).foldl (fun a x => a + cellCost x.1) 0

/-- Place cells in the order given: their partitions, or the first that finds none. -/
def State.placeCells (s : State) (placed : List (CellEntry × Nat)) : List CellEntry → Except Nat (List (CellEntry × Nat))
  | [] => .ok placed
  | e :: es =>
    let fits p := loadOf placed p + cellCost e ≤ s.partCap p
    let p := if cePart e ≠ 15 then (if fits (cePart e) then some (cePart e) else none)
      else ((span 0 s.nPart).filter fits).foldl (fun b p => match b with
        | none => some p
        | some q => if loadOf placed p < loadOf placed q then some p else some q) none
    match p with
    | some p => s.placeCells (placed ++ [(e, p)]) es
    | none => .error (ceId e)

/-- Reasons that refuse a plan before its proof of fit (R240, R250, R251, R253). -/
inductive PlanFail where
  | header | range | sameId | eaxc | air | split8 | ssb | tdd | unit | compression | fronthaul | capacity | placement
  deriving DecidableEq, Repr

def PlanFail.num : PlanFail → Nat
  | .header => 0 | .range => 1 | .sameId => 2 | .eaxc => 3 | .air => 4 | .split8 => 5 | .ssb => 6 | .tdd => 7 | .unit => 8
  | .compression => 9 | .fronthaul => 10 | .capacity => 11 | .placement => 12

/-- Every reason that holds of a plan's entries, with the first offending cell; 4096 where the reason names none. -/
def State.planFails (s : State) (d : Dcr) : List (PlanFail × Nat) :=
  let first (f : PlanFail) (ok : CellEntry → Bool) : List (PlanFail × Nat) := ((d.cells.find? fun e => !ok e).map fun e => (f, ceId e)).toList
  let whole (f : PlanFail) (ok : Bool) : List (PlanFail × Nat) := if ok then [] else [(f, 4096)]
  let pair (f : PlanFail) (r : CellEntry → CellEntry → Bool) : List (PlanFail × Nat) := ((firstPair r d.cells).map fun c => (f, c)).toList
  let total := d.cells.foldl (fun a e => a + cellCost e) 0
  let cap := min (8 * s.ceCap) ((span 0 s.nPart).foldl (fun a p => a + s.partCap p) 0)
  whole .header (planHdrOk d) ++ first .range rangeOk ++ pair .sameId (fun a b => ceId a == ceId b) ++ pair .eaxc eaxcMeet ++
  first .eaxc (fun e => ceEaxc e + trxAnt (ceTrx e) ≤ 0x10000) ++ first .air airOkEntry ++ first .split8 split8Ok ++ first .ssb ssbOk ++
  first .tdd tddOk ++ first .unit s.unitsOk ++
  first .compression (fun e =>
    let r := radioOf d e
    methodOk r.dlMeth.toNat r.dlWidth.toNat && methodOk r.ulMeth.toNat r.ulWidth.toNat) ++
  whole .fronthaul (s.windowsOk && tablesOk d && s.ratesOk d) ++ first .capacity (fun e => cellCost e ≤ 320) ++
  whole .capacity (decide (total ≤ cap))

/-- Cells with their partitions (R231), or why the plan is refused before its proof of fit. -/
def State.planCells (s : State) (d : Dcr) : Except (List (PlanFail × Nat)) (List (CellEntry × Nat)) :=
  if noPlan d then .ok []
  else
    let key (e : CellEntry) : Int := 4096 * -(cellCost e : Int) + ceId e
    let named := sortBy key (d.cells.filter fun e => cePart e != 15)
    let rest := sortBy key (d.cells.filter fun e => cePart e == 15)
    match s.planFails d with
    | [] =>
      match s.placeCells [] (named ++ rest) with
      | .ok cs => .ok cs
      | .error c => .error [(.placement, c)]
    | fs => .error fs

/-! ## Entering an accepted plan (R239, R250, R261, R440) -/

/-- A cell of the plan before it first runs. -/
def newCell (d : Dcr) (e : CellEntry) (p : Nat) : Cell :=
  { ent := e, part := p, cost := cellCost e, st := if ceInitLock e then .locked else .unlockPending, waits := !ceInitLock e,
    pend := none, priority := cePrio e, txAtten := ceAtten e, txPend := none, prioPend := none, missedDl := 0, missedUl := 0,
    l2Late := 0, l2Missing := 0, harqDrop := 0, ldpcFail := 0, harq := [], msgs := [], lostSlots := [], lostDl := [],
    radio := radioOf d e }

/-- Write a register's fields from its 64-bit layout. -/
def State.putWord (s : State) (fs : List Field) (w i : Nat) : State := fs.foldl (fun s f => s.put f (w / 2 ^ f.lo) i) s

/-- A DFE profile taken by chain `k` (R440). -/
def State.putProfile (s : State) (k : Nat) (f : DfeProfile) : State :=
  let s := s.putWord [F.DFE_CFG.ovs, F.DFE_CFG.tx_taps, F.DFE_CFG.rx_taps, F.DFE_CFG.agc_mode, F.DFE_CFG.mask_act,
    F.DFE_CFG.mask_avg_log2] f.cfg.toNat k
  let s := s.putWord [F.DFE_NCO.nco_inc, F.DFE_NCO.nco_phase0] f.nco.toNat k
  let s := s.putWord [F.DFE_AGC.agc_init, F.DFE_AGC.agc_gmin, F.DFE_AGC.agc_gmax, F.DFE_AGC.agc_blk_log2, F.DFE_AGC.agc_step_sh]
    f.agc.toNat k
  let s := s.putWord [F.DFE_AGC_THR.agc_hi, F.DFE_AGC_THR.agc_lo] f.agcThr.toNat k
  let s := (f.txTaps.take 96).zipIdx.foldl (fun s x => s.put F.DFE_TXF_COEF.coef x.1.toNat (512 * k + x.2)) s
  let s := (f.rxTaps.take 96).zipIdx.foldl (fun s x => s.put F.DFE_RXF_COEF.coef x.1.toNat (512 * k + x.2)) s
  let s := (f.inb.take 4).zipIdx.foldl (fun s x => s.put F.DFE_MASK_INB.inb x.1.toNat (256 * k + x.2)) s
  (f.lim.take 256).zipIdx.foldl (fun s x => s.put F.DFE_MASK_LIM.lim x.1.toNat (512 * k + x.2)) s

/-- Lowest free chain of a die. -/
def State.freeChain (s : State) (die streams : Nat) : Nat :=
  let used := ((span 0 streams).filter fun k => s.on F.FH_STREAM.split8 k).map fun k => s.rd F.FH_STREAM.chain k
  ((span (32 * die) 32).find? fun d => !used.contains d).getD (32 * die)

/-- Enter the streams of a cell from row `k` of the stream table. -/
def State.enterStreams (s : State) (d : Dcr) (e : CellEntry) (k0 : Nat) : State :=
  let r := radioOf d e
  (span 0 (ceStreams e)).foldl (fun s i =>
    let k := k0 + i
    let s := (((s.put F.FH_STREAM.eaxc (ceEaxc e + i) k).put F.FH_STREAM.port (cePort e) k).put F.FH_STREAM.subport (ceSub e) k).put
      F.FH_STREAM.cell_id (ceId e) k
    let s := (s.put F.FH_STREAM.dl_meth r.dlMeth.toNat k).put F.FH_STREAM.dl_width r.dlWidth.toNat k
    let s := (s.put F.FH_STREAM.ul_meth r.ulMeth.toNat k).put F.FH_STREAM.ul_width r.ulWidth.toNat k
    let s := s.put F.FH_STREAM.valid 1 k
    if ceSplit e = 2 then
      let c := s.freeChain (cePort e / 4) k
      let s := (s.put F.FH_STREAM.split8 1 k).put F.FH_STREAM.chain c k
      match d.profiles[r.dfeProf.toNat]? with
      | some f => s.putProfile c f
      | none => s
    else s) s

/-- The placed cells, their streams in ascending `cell_id` (R250). -/
def State.enterPlan (s : State) (d : Dcr) (cs : List (CellEntry × Nat)) : State :=
  let s := cs.foldl (fun s x => s.setCell (ceId x.1) (newCell d x.1 x.2)) s
  ((sortBy (fun e => (ceId e : Int)) (cs.map (·.1))).foldl (fun (a : State × Nat) e =>
    (a.1.enterStreams d e a.2, a.2 + ceStreams e)) (s, 0)).1

end Sys2Proof.Machine
end

