-- ==== Sys2Proof/Machine/Bringup.lean ====
section
/-! DEFINITION. Start-up (R1, R5, R22, R23, R30, R41, R66, R86, R199, R200, R299, R351, R425, R431–R449, R462–R472): the twelve steps, the
waves of step 7, and the choices of slot, record, map and path. What the tests, the training and the integrator's NOR gave
stands in the commands' operands. -/

namespace Sys2Proof.Machine

/-! ## Power domains, clock, steps (R41, R431, R435) -/

/-- Switch a list of power domains. -/
def State.power (s : State) (ds : List Nat) (up : Bool) : State :=
  let m := ds.foldl (fun a d => a ||| 2 ^ d) 0
  if up then s.orf F.RST_PD_STAT.pd_on m else s.clrf F.RST_PD_STAT.pd_on m

/-- Step `k` is the one in progress. -/
def State.atStep (s : State) (k : Nat) : Bool :=
  s.bring.powered && !s.bring.inReset && !s.bring.tripped && !s.on F.RST_STAT.recovery && s.bring.shutAt.isNone &&
  s.rd F.RST_STAT.step + 1 == k

/-- Before tick edges begin, the end of a step moves the clock. -/
def State.clockTo (s : State) (now : Nat) : State :=
  if s.time.edges || now ≤ s.nowNs then s
  else s.setNowNs now

/-- Step `k` has taken `ms` since the one before it; after a slot was refused, since now. -/
def State.stepMs (s : State) (k ms : Nat) : State :=
  let base := if s.bring.refused.isEmpty then s.bring.startNs + s.rd F.RST_STEP_T.t_ms (k - 1) * 1000000 else s.nowNs
  s.clockTo (base + ms * 1000000)

/-- Step `k` ends. -/
def State.endStep (s : State) (k : Nat) : State :=
  (s.put F.RST_STAT.step k).put F.RST_STEP_T.t_ms ((s.nowNs - s.bring.startNs) / 1000000) k

/-- Recovery (R435): it ends only with a whole-device reset. -/
def State.recover (s : State) (cause : Nat) : State :=
  ((s.put F.RST_STAT.recovery 1).put F.RST_STAT.stall_cause cause).event 0 1 Ev.bringUp cause

/-- A firmware processor starts with its domain (R413, R428). -/
def State.startProc (s : State) (i : Nat) : State :=
  let s := ((s.put F.FW_PROC_STAT.pstate 0 i).put F.FW_PROC_STAT.last_cause 0 i).bump F.FW_PROC_CNT.starts i
  (s.kick i).logStart i 0

/-- Events that waited for Cairn in the restart controller are written (R417). -/
def State.flushEvents (s : State) : State :=
  s.mgt.cairnQueue.foldl State.writeRec (s.withMgt { s.mgt with cairnQueue := [] })

/-- A signature did not verify (R468). -/
def State.badSignature (s : State) (what : Nat) : State :=
  ((s.put F.SEC_STAT.sig_fail 1).put F.SEC_STAT.sec_evt 1).event 8 1 Ev.signature what

/-! ## Steps 1–3 -/

/-- STARTUP_STEP_1: the input is up, PD49 with it, and PWRGD_OUT is high (R42, R431, R509). -/
def execStartupStep1 (ms : BitVec 16) (s : State) : Res :=
  .next (
    if s.bring.powered then s
    else
      let s : State := (s.withBring { s.bring with powered := true, startNs := s.nowNs }).withMgt { s.mgt with pwrgd := true }
      (((s.power [49] true).stepMs 1 ms.toNat).endStep 1).emit (.pinOut 1 1))

/-- The device ID: the first 16 bytes of the digest of the identity public key (R465, R467). -/
def deviceId : Nat := digestOf (Config.identityKey (kdf kRoot "ID-ED" [] 32) (kdf kRoot "ID-MLDSA" [] 32)) % 2 ^ 128

/-- STARTUP_STEP_2: Cairn runs its boot ROM; the key unit reconstructs the root secret where its helper data and its PUF hold, and draws
n_boot (R462, R465, R467); PD48 comes on. It begins only with both resets deasserted (R510). -/
def execStartupStep2 (ms : BitVec 16) (helperOk pufOk : Bool) (s : State) : Res :=
  .next (
    if s.atStep 2 && s.bring.resetN && s.bring.perst then
      let ok := helperOk && pufOk
      let id := if ok then deviceId else 0
      let s := s.stepMs 2 ms.toNat
      let s : State := (s.withBring { s.bring with boots := s.bring.boots + 1 }).withSec {
        s.sec with rootOk := ok, devId := id, bootNo := s.free, bootKey := ok }
      let s := s.drawn
      let s := (s.put F.SEC_STAT.puf_ok (b2n ok)).put F.SEC_ID_LO.dev_id_lo id
      let s := (s.put F.SEC_ID_HI.dev_id_hi (id / 2 ^ 64)).put F.MGT_LOG_STAT.evt_seq ((s.mgt.nor.head?).elim 0 fun r => r.seq + 1)
      (((s.power [48] true).startProc cairn).flushEvents).endStep 2
    else s)

/-- The slot that a start-up boots (R425): after an unconfirmed trial the last confirmed one, or the other; a slot that does not
verify or was refused gives the other. -/
def State.chooseSlot (s : State) : Option Nat :=
  let b := s.bring
  let want := if b.boot.blank then 0
    else if b.boot.onTrial then b.boot.confirmed.getD (1 - b.boot.bootSlot) else b.boot.bootSlot
  let ok (k : Nat) : Bool := !b.refused.contains k && (b.images[k]?).any (·.stage1Ok)
  if ok want then some want else if ok (1 - want) then some (1 - want) else none

/-- The image of a slot. -/
def State.imageOf (s : State) (k : Nat) : SlotImage := (s.bring.images[k]?).getD SlotImage.zero

/-- Boot slot `k`: the boot record follows a fallback, and an unconfirmed slot is on trial (R425, R430, R495). -/
def State.bootFrom (s : State) (k : Nat) : State :=
  let b := s.bring
  let want := if b.boot.blank then 0 else b.boot.bootSlot
  let trial := b.boot.confirmed != some k
  let img := s.imageOf k
  let s : State := (s.withBring { b with
    slot := k, boot := { b.boot with blank := false, bootSlot := k, onTrial := trial } })
  let s := ((s.put F.FW_IMAGE.cur_slot k).put F.FW_IMAGE.boot_slot k).put F.FW_IMAGE.trial (b2n trial)
  let s := if k = want then s else s.put F.FW_IMAGE.fallback 1
  let s := (s.put F.FW_IMAGE.img_ver img.version.toNat).put F.SEC_SVN.svn img.svn.toNat
  (span 0 11).foldl (fun s i => s.putSect i ((img.sectVer.getD (sectOf i) 0).toNat, (img.sectDig.getD (sectOf i) 0).toNat)) s

/-- STARTUP_STEP_3: the first stage of the slot to boot is verified, with fallback (R425, R435, R470). -/
def execStartupStep3 (ms : BitVec 16) (s : State) : Res :=
  .next (
    if s.atStep 3 then
      let s := s.stepMs 3 ms.toNat
      let bad := (span 0 2).filter fun k => !(s.imageOf k).stage1Ok
      let want := if s.bring.boot.blank then 0 else s.bring.boot.bootSlot
      let s := if bad.contains want then s.badSignature want else s
      match s.chooseSlot with
      | none => s.recover 1
      | some k => ((s.bootFrom k).put F.HOST_FEAT_DEV.feat_dev (Config.featDev % 1024)).endStep 3
    else s)

/-! ## Step 4 (R437–R440, R446, R448, R471, R472) -/

/-- The defect map in use: of the copies that qualify the one with the larger generation (R446). -/
def pickMap (ms : List (Option DefectMap)) : Option DefectMap :=
  ms.foldl (fun b m => match b, m with
    | some x, some y => if y.ok && x.gen < y.gen then some y else some x
    | none, some y => if y.ok then some y else none
    | b, none => b) none

/-- First condition of R448 that fails, as a bit of `warm_block`; nothing when the warm path is taken. `dcr` is the digest datum
of the record in use. -/
def State.warmFail (s : State) (dcr : Nat) : Option Nat :=
  match s.bring.token with
  | none => some 0
  | some t =>
    if t.slot ≠ s.bring.slot || t.digest ≠ (s.imageOf s.bring.slot).digest.toNat || t.patched then some 1
    else if t.dcr ≠ dcr || t.dmGen ≠ s.rd F.RST_DM.dm_gen || s.on F.RST_DM.dm_ignored then some 2
    else if !t.clean then some 3
    else if t.srUe then some 4
    else if s.rd F.RST_WARM.warm_max_s * 1000000000 < s.nowNs - t.at_ns then some 5
    else if s.bring.boot.onTrial then some 6
    else if t.void then some 7
    else none

/-- The entitlement's fields (R495): code 3 without a record. -/
def State.showEnt (s : State) (e : Option Entitlement) : State :=
  match e with
  | none => s.put F.SEC_ENT.code 3
  | some e =>
    let s := ((s.put F.SEC_ENT.code e.code.toNat).put F.SEC_ENT.dbg_policy e.dbgPolicy.toNat).put F.SEC_ENT.min_key_gen e.minKeyGen.toNat
    (s.put F.SEC_ENT.ent_serial e.serial.toNat).put F.SEC_SVN.min_svn e.minSvn.toNat

/-- The booted slot meets the entitlement's floors and the rest of its image verifies (R470). -/
def State.slotOk (s : State) (e : Entitlement) : Bool :=
  let i := s.imageOf s.bring.slot
  e.minSvn ≤ i.svn && e.minKeyGen ≤ i.keyGen && i.restOk

/-- The booted slot is refused: the other boots from step 3, or recovery. -/
def State.refuseSlotImage (s : State) : State :=
  let s := if (s.imageOf s.bring.slot).restOk then s else s.badSignature s.bring.slot
  let s : State := s.withBring { s.bring with refused := s.bring.slot :: s.bring.refused }
  if s.chooseSlot.isNone then s.recover 1
  else ((s.put F.FW_IMAGE.fallback 1).put F.RST_STAT.step 2).event 0 2 Ev.bringUp 1

/-- The stored defect map and the path of the start-up are settled (R446, R448). -/
def State.takeMap (s : State) (d : Dcr) (m : Option DefectMap) (dcr : Nat) : State :=
  let ignored := m.isNone || d.dmDiscard
  let es := if ignored then [] else (m.map (·.entries)).getD []
  let s : State := s.withBring { s.bring with dm := es }
  let s := ((s.put F.RST_DM.dm_gen ((m.map (·.gen.toNat)).getD 0)).put F.RST_DM.dm_count es.length).put F.RST_DM.dm_ignored (b2n ignored)
  let f := s.warmFail dcr
  let block := (f.elim 0 fun b => 2 ^ b) ||| (4 * b2n ignored)
  let s := ((s.put F.RST_WARM.warm_block block).put F.RST_STAT.warm_used (b2n f.isNone)).put F.RST_WARM.token_valid 0
  -- the warm path applies the row repairs of the token (R449)
  s.withBring { s.bring with warm := f.isNone, token := none, rowFix := if f.isNone then (s.bring.token.map (·.rows)).getD [] else [] }

/-- Plan-header fields and their defaults without a plan (R238). -/
def State.takeHdr (s : State) (d : Dcr) : State :=
  let h : Word × Word × Word × Word :=
    if noPlan d then (0, BitVec.ofNat 64 (1200 * 2 ^ 20 + 19800 * 2 ^ 32), BitVec.ofNat 64 (512 + 32 * 2 ^ 10 + 8 * 2 ^ 18 + 4 * 2 ^ 23), 0)
    else d.planHdr
  let s : State := s.withPlanHdr h
  let s := s.put F.TIME_FRAME.frame_offset (bits h.2.1.toNat 18 12)
  s.putAll F.TICK_FIT.fit_margin (bits h.2.1.toNat 50 32) (span 0 8)

/-- The fronthaul ports of the variant begin to train (R246, R431). -/
def State.startFh (s : State) : State :=
  if s.nFh = 0 then s
  else
    (span 0 32).foldl (fun s k => if s.fhExists (k / 4) (k % 4) then s.put (linkField (k % 4)) 1 (k / 4) else s)
      (s.power [44, 45] true)

/-- TIME at the end of step 4 (R50, R59, R66): on the MXD1-I the source follows the 1PPS input and SyncE is off; a slave port
that cannot be selected is recorded; with free-run selected no step is awaited and tick edges begin. -/
def State.startTicks (s : State) : State :=
  let s := if s.isI then
      ((s.put F.TIME_CTRL.src_sel (if s.on F.TIME_STAT.pps_in_present then 1 else 2)).put F.TIME_CTRL.synce_en 0).showSynce
    else s
  let s := if s.srcSel = 0 ∧ s.fhExists (s.rd F.TIME_PORT.ptp_port) (s.rd F.TIME_PORT.ptp_subport) = false then
      s.event 1 2 Ev.ptpPort (s.rd F.TIME_PORT.ptp_port) tc
    else s
  if s.srcSel = 2 then
    let s := s.setTime { s.time with edges := true, lockWaitOver := true, cut := true }
    s.setTime { s.time with tick := s.tickNow }
  else s

/-- The effective limit, which MGT.LIM reads (R500). -/
def State.effLimit (s : State) : State :=
  let s := if s.on F.MGT_PROT.conv_fault then s.put F.MGT_LIM.p_lim (min (s.rd F.MGT_LIM.p_lim) 2400) else s
  s.put F.MGT_PROT.p_eff_w (s.rd F.MGT_LIM.p_lim)

/-- The record and the entitlement have been accepted, and the slot with them. -/
def State.acceptDcr (s : State) (d : Dcr) (e : Entitlement) (m : Option DefectMap) : State :=
  let serial := if s.bring.dcr = some d then s.bring.dcrSerial else s.bring.dcrSerial + 1
  let s : State := (s.withBring { s.bring with dcr := some d, dcrSerial := serial }).withSec { s.sec with ent := some e }
  let s := ((s.put F.SEC_STAT.ent_ok 1).applyParams d.params).effLimit
  let s := (s.takeMap d m serial).takeHdr d
  let s := (span s.nPart (8 - s.nPart)).foldl (fun s p => s.put F.FW_PROC_STAT.pstate 4 (pc p)) s
  let s := ((s.startProc tc).startProc fc).startFh
  s.startTicks.endStep 4

/-- STARTUP_STEP_4: `d` is the record of the NOR as found, `dm0` and `dm1` its defect-map copies; what this device wrote
there itself stands beside them. -/
def execStartupStep4 (ms : BitVec 16) (d : Option Dcr) (dm0 dm1 : Option DefectMap) (s : State) : Res :=
  .next (
    if s.atStep 4 then
      let s := s.stepMs 4 ms.toNat
      match pickDcr d s.bring.dcrNext with
      | none => s.recover 2
      | some d =>
        if !dcrOk d then (if d.sigOk then s else s.badSignature 2).recover 2
        else
          let s := s.showEnt d.ent
          match d.ent with
          | none => (s.event 8 1 Ev.entitlement 0).recover 3
          | some e =>
            if !s.entOk e then ((if e.sigOk then s else s.badSignature 3).event 8 1 Ev.entitlement 1).recover 3
            else if !s.slotOk e then s.refuseSlotImage
            else s.acceptDcr d e (pickMap [dm0, dm1, s.bring.dmNext])
    else s)

/-! ## Step 5: DRAM (R199–R203, R299, R466) -/

/-- A defect of this kind and place is in the map. -/
def State.hasDefect (s : State) (kind unit pos : Nat) : Bool :=
  s.bring.dm.any fun d => d.kind.val == kind && d.unit.toNat == unit && d.pos.toNat == pos

/-- State of channel `m` after training. -/
def State.setChannel (s : State) (m rate : Nat) (up : Bool) : State :=
  let bad := (s.bring.dm.filter fun d => d.kind.val == 4 && d.unit.toNat == m).foldl (fun a d => a ||| 2 ^ d.pos.toNat) 0
  let s := s.put F.MEM_DEV_FAIL.failed bad m
  if s.nChan ≤ m then s.put F.MEM_CH_STAT.state 3 m
  else if !up then s.put F.MEM_CH_STAT.state 2 m
  else
    let s := s.put F.MEM_CH_STAT.rate rate m
    if bad = 0 then s.put F.MEM_CH_STAT.state 0 m else (s.put F.MEM_CH_STAT.state 1 m).put F.MEM_CH_STAT.erasure 1 m

/-- The `kv_pct` field of a partition. -/
def kvPct : Nat → Field
  | 0 => F.RST_KV_PCT.kv_pct_0 | 1 => F.RST_KV_PCT.kv_pct_1 | 2 => F.RST_KV_PCT.kv_pct_2 | 3 => F.RST_KV_PCT.kv_pct_3
  | 4 => F.RST_KV_PCT.kv_pct_4 | 5 => F.RST_KV_PCT.kv_pct_5 | 6 => F.RST_KV_PCT.kv_pct_6 | _ => F.RST_KV_PCT.kv_pct_7

/-- 4 MiB chunks of the DRAM region of partition `p`; under the device-wide interleave, of an equal share of the one region. -/
def State.regionChunks (s : State) (p : Nat) : Nat :=
  let cp := s.capBytes - s.rsvPerCh
  if s.rd F.MEM_MAP.ilv_mode = 0 then ([3 * p, 3 * p + 1, 3 * p + 2].filter s.chanUp).length * cp / 2 ^ 22
  else s.upChans.length * cp / s.nPart / 2 ^ 22

/-- First chunk of the DRAM region of partition `p`, or of the one region. -/
def State.regionBase (s : State) (p : Nat) : Nat :=
  let cp := s.capBytes - s.rsvPerCh
  ceilDiv (s.rsvBytes + (if s.rd F.MEM_MAP.ilv_mode = 0 then p * 3 * cp else 0)) (2 ^ 22)

/-- Enter the arenas from `first` chunk on (R299). -/
def State.enterArenas (s : State) (num den : Nat) : Nat → List Nat → State
  | _, [] => s
  | at_, p :: ps =>
    let n := s.regionChunks p * s.rd (kvPct p) 0 / 100 * num / den
    let base := if s.rd F.MEM_MAP.ilv_mode = 0 then s.regionBase p else at_
    let s := (s.put F.KV_ARENA.base_4m base p).put F.KV_ARENA.len_4m n p
    ((s.put F.KV_FREE.chunks_free n p).put F.KV_FREE.free_64k (64 * n) p).enterArenas num den (at_ + n) ps

/-- Cut the arenas: the frame table's 16 bytes per 64 KiB fit in the reserved region. -/
def State.cutArenas (s : State) : State :=
  let ps := span 0 s.nPart
  let total := ps.foldl (fun a p => a + s.regionChunks p * s.rd (kvPct p) 0 / 100) 0
  let room := s.upChans.length * s.rsvPerCh / 2 / 1024
  if total ≤ room then s.enterArenas 1 1 (s.regionBase 0) ps
  else (s.enterArenas room total (s.regionBase 0) ps).put F.KV_STAT.arena_cut 1

/-- STARTUP_STEP_5: `up` are the channels whose DIMMs trained; fewer than two are recovery. -/
def execStartupStep5 (ms : BitVec 16) (up : List (Fin 24)) (capGib : BitVec 10) (rate : BitVec 8) (s : State) : Res :=
  .next (
    if s.atStep 5 then
      let s := (s.stepMs 5 ms.toNat).power (if s.code = 1 then [46] else [46, 47]) true
      let ups := (span 0 s.nChan).filter fun m => (up.map Fin.val).contains m && !s.hasDefect 5 m 0
      let s := (span 0 24).foldl (fun s m => s.setChannel m rate.toNat (ups.contains m)) s
      let s := ((s.put F.MEM_MAP.n_up ups.length).put F.MEM_MAP.n_ent s.nChan).put F.MEM_MAP.cap_gib capGib.toNat
      if ups.length < 2 then s.recover 4
      else
        let s := s.cutArenas.firstKey devKey
        ((span 0 s.nPart).foldl State.refuseAdm s).endStep 5
    else s)

/-! ## Step 6: self-test and maps (R22, R23, R441–R445) -/

/-- Key of a physical unit. -/
def physKey (u : PhysUnit) : Nat := if u.spur then posKey u.cl u.pos else slotKey u.cl u.pos

/-- A unit that exists on this variant. -/
def State.physHere (s : State) (u : PhysUnit) : Bool := u.cl.val < s.nClusters && (u.spur || u.pos.val < 5)

/-- A unit that a test found defective: recorded with its cause, never used again before the next whole-device reset. -/
def State.failUnit (s : State) (cause : Nat) (u : PhysUnit) : State :=
  if s.physHere u then
    (s.setPhys (physKey u) { s.physOf (physKey u) with bad := true, spare := false }).defect (b2n u.spur) cause u.cl u.pos
  else s

/-- Map the logical cores of a cluster: `k`-th name to the k-th healthy slot, the next one is the spare (R22, R23). -/
def State.mapCores (s : State) (cl fenced : Nat) : State :=
  let good := (List.range 5).filter fun k => !(s.physOf (slotKey cl k)).bad
  let s := (List.range 5).foldl (fun s k =>
    s.setPhys (slotKey cl k) { s.physOf (slotKey cl k) with spare := (good.drop 4).contains k, fenced := false, cause := 0 }) s
  let s := (span 0 4).foldl (fun s k =>
    let n := 4 * cl + k
    match good[k]? with
    | some x => ((s.put F.MSF_MAP.phys_slot x n).put F.MSF_MAP.absent 0 n).put F.MSF_STAT.fenced fenced n
    | none => (s.put F.MSF_MAP.absent 1 n).put F.MSF_STAT.fenced 1 n) s
  (s.put F.RST_CL_STAT.spare_cores (good.length - 4) cl).put F.RST_CL_STAT.absent_cores (4 - good.length) cl

/-- The Spur cores likewise, with two spares. -/
def State.mapSpurs (s : State) (cl fenced : Nat) : State :=
  let good := (List.range 18).filter fun k => !(s.physOf (posKey cl k)).bad
  let s := (List.range 18).foldl (fun s k =>
    s.setPhys (posKey cl k) { s.physOf (posKey cl k) with spare := (good.drop 16).contains k, fenced := false, cause := 0 }) s
  let s := (span 0 16).foldl (fun s k =>
    let n := 16 * cl + k
    match good[k]? with
    | some x => ((s.put F.SPR_MAP.phys_pos x n).put F.SPR_MAP.absent 0 n).put F.SPR_STAT.fenced fenced n
    | none => (s.put F.SPR_MAP.absent 1 n).put F.SPR_STAT.fenced 1 n) s
  (s.put F.RST_CL_STAT.spare_spur (good.length - 16) cl).put F.RST_CL_STAT.absent_spur (16 - good.length) cl

/-- Routers at start-up: off with a withheld partition, failed where the map lists them (R214, R445). -/
def State.startRouters (s : State) : State :=
  let gone := (List.range 32).filter fun r => (span (4 * s.nPart) (32 - 4 * s.nPart)).any fun cl => clRouter cl == r
  let bad := (List.range 32).filter fun r => s.hasDefect 6 (mapRouter r) 0 && !gone.contains r
  let s := (s.putAll F.NOC_RTR.state 1 gone).putAll F.NOC_RTR.state 2 bad
  if bad.isEmpty then s
  else
    let s := ((List.range s.nClusters).filter fun cl => bad.contains (clRouter cl)).foldl (fun s cl =>
      (span (16 * cl) 16).foldl State.loseSpur ((span (4 * cl) 4).foldl State.loseCore s)) s
    s.reroute bad

/-- A row of a macro is replaced by one of its spares, while one is left (R37). -/
def State.fixRow (s : State) (m r : Nat) : State :=
  let rs := kget s.bring.rowFix m []
  if rs.contains r ∨ 8 ≤ rs.length then s else s.withBring { s.bring with rowFix := kset s.bring.rowFix m (rs ++ [r]) }

/-- A macro with more failing rows than spares makes its owner defective (R441): a slot, a position, all units of a cluster, or the pinned radio
SRAM or tick-bank memory of a partition. -/
def State.loseMacro (s : State) (m : Nat) : State :=
  let fail (u : PhysUnit) (s : State) : State := if (s.physOf (physKey u)).bad then s else s.failUnit 1 u
  match Config.macroOwner m with
  | .slot cl k => fail { spur := false, cl := Fin.ofNat 32 cl, pos := Fin.ofNat 18 k } s
  | .pos cl j => fail { spur := true, cl := Fin.ofNat 32 cl, pos := Fin.ofNat 18 j } s
  | .cluster cl =>
    let s := (span 0 5).foldl (fun s k => fail { spur := false, cl := Fin.ofNat 32 cl, pos := Fin.ofNat 18 k } s) s
    (span 0 18).foldl (fun s j => fail { spur := true, cl := Fin.ofNat 32 cl, pos := Fin.ofNat 18 j } s) s
  | .pinned p => s.withBring { s.bring with noPinned := p :: s.bring.noPinned }
  | .bank p => s.withBring { s.bring with noPinned := p :: s.bring.noPinned, noBank := p :: s.bring.noBank }
  | .other => s

/-- Row repair (R441, R442): the rows of the map first, then those that the march test finds, which are recorded. -/
def State.repairRows (s : State) (found : List (Nat × Nat)) : State :=
  let known := (s.bring.dm.filter fun d => d.kind.val == 2).map fun d => (d.unit.toNat, d.pos.toNat)
  let new := (if s.bring.warm then [] else found.filter fun x => !known.contains x).dedup
  let all := if s.bring.warm then [] else known ++ new
  let s := all.foldl (fun s x => s.fixRow x.1 x.2) s
  let s := new.foldl (fun s x => s.defect 2 1 x.1 x.2) s
  (((all.map (·.1)).dedup).filter fun m => 8 < ((all.filter fun x => x.1 == m).dedup).length).foldl State.loseMacro s

/-- STARTUP_STEP_6: `fails` are the units that fail their self-test, `rows` the macros' rows that fail the march test; the warm path runs none
(R449). Units of the map are not tested (R442). Each die's core voltage is set, `vcore` mV above 0.70 V (R499). -/
def execStartupStep6 (ms : BitVec 16) (x : SelfTest) (s : State) : Res :=
  .next (
    if s.atStep 6 then
      let s := s.stepMs 6 ms.toNat
      let s := s.power (if s.code = 1 then span 0 4 ++ span 8 16 else span 0 40) true
      let s : State := s.withBring { s.bring with vcore := x.vcore.map fun v => 700 + v.val }
      let s := (s.bring.dm.filter fun d => d.kind.val < 2).foldl (fun s d =>
        let k := if d.kind.val = 0 then slotKey d.unit.toNat d.pos.toNat else posKey d.unit.toNat d.pos.toNat
        s.setPhys k { s.physOf k with bad := true }) s
      let s := s.repairRows (x.rows.map fun r => (r.1.toNat, r.2.toNat))
      let s := if s.bring.warm then s else (x.fails.filter fun u => !(s.physOf (physKey u)).bad).foldl (fun s u => s.failUnit 1 u) s
      let s := (span 0 s.nClusters).foldl (fun s cl => (s.mapCores cl 1).mapSpurs cl 1) s
      let s := s.putAll F.RST_CL_STAT.withheld 1 (span s.nClusters (32 - s.nClusters))
      let s := (span 0 s.nPart).foldl (fun s p => s.startProc (pc p)) s.startRouters
      (s.withCoord s.leader).endStep 6
    else s)

/-! ## Step 7: waves (R435, R443, R502) -/

/-- Clusters of wave `k`. -/
def State.waveOf (s : State) (k : Nat) : List Nat :=
  let w := max 1 (s.rd F.RST_CTRL.wave_clusters)
  (span (k * w) w).filter (· < s.nClusters)
def State.waveCount (s : State) : Nat := ceilDiv s.nClusters (max 1 (s.rd F.RST_CTRL.wave_clusters))

/-- A wave starts its clusters' units in use. -/
def State.startWave (s : State) (k : Nat) : State :=
  (s.waveOf k).foldl (fun s cl =>
    let s := (span (4 * cl) 4).foldl (fun s n => if s.on F.MSF_MAP.absent n then s else s.put F.MSF_STAT.fenced 0 n) s
    (span (16 * cl) 16).foldl (fun s n => if s.on F.SPR_MAP.absent n then s else s.put F.SPR_STAT.fenced 0 n) s) s

/-- The wave current is above its limit of 4.0 A (R502). -/
def waveTrips (ma : Nat) : Bool := 4000 < ma

/-- CORE_WAVE: `wave_gap_us` after the wave before it; `ma` is the wave current. -/
def execCoreWave (k : Fin 32) (ma : Nat) (s : State) : Res :=
  .next (
    if s.atStep 7 && s.bring.waves == k.val && k.val < s.waveCount then
      let s := if k.val = 0 then s else s.clockTo (s.nowNs + s.rd F.RST_CTRL.wave_gap_us * 1000)
      let s : State := s.withBring { s.bring with waves := k.val + 1 }
      if waveTrips ma then (s.withBring { s.bring with waveFail := s.bring.waveFail ++ [k.val] }) else s.startWave k
    else s)

/-- WAVE_RETRY: once, after 10 ms; a second trip leaves the wave's units absent. -/
def execWaveRetry (k : Fin 32) (ma : Nat) (s : State) : Res :=
  .next (
    if s.atStep 7 && s.bring.waveFail.contains k.val then
      let s := s.clockTo (s.nowNs + 10000000)
      let s : State := s.withBring { s.bring with waveFail := s.bring.waveFail.filter (· != k.val) }
      if waveTrips ma then
        (s.waveOf k).foldl (fun s cl =>
          (span (16 * cl) 16).foldl State.loseSpur ((span (4 * cl) 4).foldl State.loseCore s)) s
      else s.startWave k
    else s)

/-- Links as their training begins (R349, R350). -/
def State.startLinks (s : State) : State :=
  let s := s.power (if s.code = 1 then [40, 41] else span 40 4) true
  (span 0 s.nLinks).foldl (fun s l => s.setLk l (if s.on F.FAB_LINK_CFG.link_en l then lkTraining else lkDisabled)) s

/-- STARTUP_STEP_7: every wave has started or been given up. -/
def execStartupStep7 (ms : BitVec 16) (s : State) : Res :=
  .next (
    if s.atStep 7 && s.bring.waves == s.waveCount && s.bring.waveFail.isEmpty then
      ((s.stepMs 7 ms.toNat).endStep 7).startLinks
    else s)

/-! ## Steps 8–10 -/

/-- The link condition of R351. -/
def State.linksOk (s : State) : Bool :=
  let able := ((span 0 36).filter fun l => lkDown ≤ s.lk l).length
  min (s.rd F.FAB_CTRL.min_links) able ≤ s.rd F.FAB_STAT.links_up

/-- STARTUP_STEP_8: with too few links the device waits. -/
def execStartupStep8 (ms : BitVec 16) (s : State) : Res :=
  .next (
    if s.atStep 8 then
      let s := s.stepMs 8 ms.toNat
      if s.linksOk then (s.put F.RST_STAT.stall_cause 0).endStep 8 else s.put F.RST_STAT.stall_cause 5
    else s)

/-- STARTUP_STEP_9: the step has been taken, `lock_wait_s` has passed, or free-run was selected (R432). -/
def execStartupStep9 (ms : BitVec 16) (s : State) : Res :=
  .next (
    if s.atStep 9 then
      if s.time.edges then ((s.stepMs 9 ms.toNat).put F.RST_STAT.stall_cause 0).endStep 9 else s.put F.RST_STAT.stall_cause 6
    else s)

/-- A cluster that started. -/
def State.clusterStarted (s : State) (cl : Nat) : Bool :=
  (span (4 * cl) 4).any (fun n => !s.on F.MSF_MAP.absent n) || (span (16 * cl) 16).any fun n => !s.on F.SPR_MAP.absent n

/-- STARTUP_STEP_10: `fails` are the units that fail a known-answer run, those placed behind a name by the rebuilt maps
among them (R444). -/
def execStartupStep10 (ms : BitVec 16) (fails : List PhysUnit) (s : State) : Res :=
  .next (
    if s.atStep 10 then
      let s := s.stepMs 10 ms.toNat
      let us := fails.filter fun u => s.physHere u && s.clusterStarted u.cl && !(s.physOf (physKey u)).bad
      let s := us.foldl (fun s u => s.failUnit 2 u) s
      let s := ((us.map fun u => (u.cl.val, u.spur)).dedup).foldl (fun s c => if c.2 then s.mapSpurs c.1 0 else s.mapCores c.1 0) s
      s.endStep 10
    else s)

end Sys2Proof.Machine
end

