-- ==== Sys2Proof/Machine/Proof.lean ====
section
/-! DEFINITION. The proof of fit (R27, R85, R86, R102, R224, R232, R458): a bank as the placement engine builds it is held to every condition
of R85, with the descriptors and reserved regions that go with it. -/

namespace Sys2Proof.Machine

/-- The condition of R85 that a set of radio rows breaks; `unit`, `entry` and `keep` are those of R69, R78 and R102. -/
inductive FitFail where
  | unit | entry | keep | budget | deadline | order | bandwidth | memory | power | air
  deriving DecidableEq, Repr

def FitFail.num : FitFail → Nat
  | .unit => 0 | .entry => 1 | .keep => 2 | .budget => 3 | .deadline => 4 | .order => 5 | .bandwidth => 6 | .memory => 7 | .power => 8
  | .air => 9

/-! ## The bank and what goes with it -/

/-- The columns of a bank as the sequencer will read them. -/
def imgSlots (b : BankImage) : List (List ColSlot) := b.columns.map fun c => c.map ColEntry.slot

/-- The entries that run descriptors. -/
def radioSlots (col : List ColSlot) : List ColSlot := col.filter fun x => x.kind == 0

/-- A bank without its RADIO entries, and without any entry (R3, R86). -/
def stripRadio (b : BankImage) : BankImage := { b with columns := b.columns.map fun c => c.filter fun e => e.kind.val != 0 }
def stripAll (b : BankImage) : BankImage := { b with columns := b.columns.map fun _ => [], work := [] }

/-- PCp writes the descriptors and tables of a bank to the pinned radio SRAM of its partition (R25). -/
def State.writePinned (s : State) (b : BankImage) : State :=
  (b.pinned.filter fun x => within x.1.toNat x.2.length (pinnedBase b.part) 0x2000000).foldl (fun s x => s.sramWr x.1.toNat x.2) s

/-- The state that a proof looks at: the bank's descriptors in place and its reserved regions in force. -/
def State.withImage (s : State) (b : BankImage) : State :=
  b.rsv.foldl (fun s r =>
    let n := 16 * b.part.val + r.1.val
    (s.put F.MEM_SP_RSV.rsv_off r.2.1.toNat n).put F.MEM_SP_RSV.rsv_len r.2.2.toNat n) (s.writePinned b)

/-! ## What an entry takes -/

/-- Words of the descriptor of an entry. -/
def State.slotWords (s : State) (x : ColSlot) : List Nat := if spurLane x.lane then s.jobWords x.desc else s.descWords x.desc

/-- Worst-case cycles: on a Massif engine those of R118 with no step skipped, elsewhere those of the kernel cycle table (R85). -/
def State.worstCycles (s : State) (p : Nat) (x : ColSlot) : Nat :=
  let ws := s.slotWords x
  if coreLane x.lane then s.tileCycles (coreOf p x.lane) { decodeTile ws with skipZero := false } else Config.kernelCycles x.kernel ws

/-- One span of the rows of a transfer at an address of this device. -/
def State.rowSpan (s : State) (g rows len stride : Nat) : List (Nat × Nat) :=
  if s.isOwn g && rows != 0 && len != 0 then [(g % 2 ^ 48, (rows - 1) * stride + len)] else []

/-- The ranges that an entry reads and writes. -/
def State.slotReads (s : State) (x : ColSlot) : List (Nat × Nat) :=
  let ws := s.slotWords x
  if coreLane x.lane then (decodeTile ws).inputs.filter fun r => r.2 != 0
  else if spurLane x.lane then Config.kernelReads x.kernel ws
  else if dmaLane x.lane then (let d := decodeDma ws; s.rowSpan d.src d.rows d.len d.sStride)
  else (let d := s.fhDesc x.desc; if d.dir = 0 then [(d.buf, d.bufLen)] else [])
def State.slotWrites (s : State) (x : ColSlot) : List (Nat × Nat) :=
  let ws := s.slotWords x
  if coreLane x.lane then (let t := decodeTile ws; if t.retire && t.outBytes != 0 then [(t.cAddr, t.outBytes)] else [])
  else if spurLane x.lane then Config.kernelWrites x.kernel ws
  else if dmaLane x.lane then (let d := decodeDma ws; s.rowSpan d.dst d.rows d.dLen d.dStride)
  else (let d := s.fhDesc x.desc; if d.dir = 0 then [] else [(d.buf, d.bufLen)])

/-- Bytes that two ranges share. -/
def common (a b : Nat × Nat) : Nat := min (a.1 + a.2) (b.1 + b.2) - max a.1 b.1

/-- Bytes of ranges in the pinned radio SRAM of a partition: they cross the reserved virtual channel (R25, R210). -/
def pinnedBytes (p : Nat) (rs : List (Nat × Nat)) : Nat := rs.foldl (fun a r => a + common r (pinnedBase p, 0x2000000)) 0

/-- Tick cycles in which the guaranteed bandwidth moves `n` bytes: share · 4.4 GB/s, 4/3 · share bytes in a cycle (R211). -/
def State.moveCycles (s : State) (n : Nat) : Nat := ceilDiv (3 * n) (4 * max 1 (s.rd F.NOC_CFG.radio_share))

/-- Bytes under a list of ranges, each counted once. -/
def coverage (rs : List (Nat × Nat)) : Nat :=
  ((sortBy (fun r => (r.1 : Int)) rs).foldl (fun (a : Nat × Nat) r =>
    (a.1 + (r.1 + r.2 - max r.1 a.2), max a.2 (r.1 + r.2))) (0, 0)).1

/-- Worst-case energy of an entry in pJ (R27). -/
def State.slotEnergy (s : State) (x : ColSlot) : Nat :=
  (Config.kernelOps x.kernel (s.slotWords x)).foldl (fun a o => a + o.2 * Config.energyPerOp o.1) 0

/-- Worst-case radio energy of a tick of a table. -/
def State.tableEnergy (s : State) (cols : List (List ColSlot)) : Nat :=
  cols.foldl (fun m c => max m ((radioSlots c).foldl (fun a x => a + s.slotEnergy x) 0)) 0

/-! ## The conditions -/

/-- A lane's unit is there (R23, R69). -/
def State.unitHere (s : State) (p l : Nat) : Bool :=
  if coreLane l then coreOf p l < s.nCores && !s.on F.MSF_MAP.absent (coreOf p l)
  else if spurLane l then spurOf p l < s.nSpur && !s.on F.SPR_MAP.absent (spurOf p l)
  else l < 104

/-- The first background descriptor of a core in a column starts its bank, and the last one retires it (R102). -/
def State.keepOk (s : State) (col : List ColSlot) : Bool :=
  (span 0 16).all fun l =>
    let ts := ((radioSlots col).filter fun x => x.lane == l).map fun x => decodeTile (s.slotWords x)
    (ts.head?.map fun t => t.accInit != 2).getD true && (ts.getLast?.map fun t => t.retire).getD true

/-- Entry `y` starts after the data that `x` writes for it have come (R85). A reader that starts before the writer takes what an earlier
tick left (DESIGN CHOICE, log 90: the manual names no producer). -/
def State.orderOk (s : State) (p : Nat) (x y : ColSlot) : Bool :=
  let meet := (s.slotWrites x).flatMap fun w => ((s.slotReads y).filter fun r => common w r != 0).map fun r =>
    (max w.1 r.1, common w r)
  meet.isEmpty || y.start < x.start || x.start + x.len + s.moveCycles (pinnedBytes p meet) ≤ y.start

/-- Two entries of one column stand in order, whichever comes first. -/
def State.columnOrder (s : State) (p : Nat) (col : List ColSlot) : Bool :=
  (radioSlots col).zipIdx.all fun x => (radioSlots col).zipIdx.all fun y => x.2 == y.2 || s.orderOk p x.1 y.1

/-- Bytes on the reserved virtual channel in a tick within 125 µs of the guaranteed bandwidth. -/
def State.columnBytes (s : State) (p : Nat) (col : List ColSlot) : Nat :=
  (radioSlots col).foldl (fun a x => a + pinnedBytes p (s.slotReads x) + pinnedBytes p (s.slotWrites x)) 0

/-- A range in radio memory: pinned SRAM or a reserved region of the partition. -/
def State.radioRoom (s : State) (p : Nat) (r : Nat × Nat) : Bool :=
  within r.1 r.2 (pinnedBase p) 0x2000000 || (span (16 * p) 16).any fun n => within r.1 r.2 (s.spRsv n).1 (s.spRsv n).2

/-- Radio buffers, descriptors and HARQ pools in 32 MiB of pinned SRAM and the reserved regions, each of which is within 2 MiB (R85, R235, R458). -/
def State.memoryOk (s : State) (p : Nat) (cells : List Nat) (cols : List (List ColSlot)) : Bool :=
  let es := cols.flatMap radioSlots
  let desc := es.map fun x => (x.desc, if spurLane x.lane then 128 else 64)
  let rs := es.flatMap fun x => s.slotReads x ++ s.slotWrites x
  let harq := cells.foldl (fun a c => a + ((s.cell? c).map s.harqPool).getD 0) 0
  let rsv := (span (16 * p) 16).foldl (fun a n => a + (s.spRsv n).2) 0
  rs.all (s.radioRoom p) && coverage (rs ++ desc) + harq ≤ 0x2000000 + rsv &&
  (span (16 * p) 16).all fun n => (s.spRsv n).2 ≤ 0x200000 && (s.spRsv n).1 + (s.spRsv n).2 ≤ padBase n + 0x600000

/-- Deadlines of an indication after its slot, in ticks (R224). -/
def indTicks (mu kind : Nat) : Nat := if kind = 1 then [8, 6, 4, 3].getD mu 3 else [4, 3, 2, 2].getD mu 2

/-- The work of a window meets the air interface in every tick of column `c` of a table of `len` columns (R224): a downlink slot is with the
fronthaul lane one tick before it starts, an indication within its ticks after the slot's end. -/
def airOk (mu len c : Nat) (w : WinWork) : Bool :=
  let st := slotTicks mu
  (List.range st).all fun j =>
    let t : Int := (c + j * len : Nat)
    let slot : Int := t / (st : Int) + w.slots
    if w.kind.val = 0 then t + 2 ≤ slot * (st : Int)
    else t + 1 ≤ (slot + 1) * (st : Int) + (indTicks mu w.kind.val : Int)

/-- Work of the windows of a bank with a descriptor. -/
def imgWorkAt (b : BankImage) (desc : Nat) : List WinWork := b.work.filter fun w => w.desc.toNat == desc

/-- Cells whose work a bank carries. -/
def imgCells (b : BankImage) : List Nat := ((b.work.map fun w => w.cell.val).dedup)

/-- Conditions on one entry of column `c`. -/
def State.entryFit (s : State) (p : Nat) (b : BankImage) (c : Nat) (x : ColSlot) : Option FitFail :=
  if !s.unitHere p x.lane then some .unit
  else if 412500 - s.rd F.TICK_FIT.fit_margin p < x.start + x.len then some .deadline
  else if x.kind = 0 ∧ x.len < s.worstCycles p x then some .budget
  else if x.kind = 0 && (imgWorkAt b x.desc).any fun w =>
      ((s.cell? w.cell.val).map fun k => !airOk (ceMu k.ent) b.columns.length c w).getD false then some .air
  else none

/-- The lowest cell whose work an entry carries. -/
def imgCellAt (b : BankImage) (x : ColSlot) : Nat := ((imgWorkAt b x.desc).map fun w => w.cell.val).foldl min 4096

/-- Conditions on one column: the first breach, and its cell. -/
def State.columnFit (s : State) (p : Nat) (b : BankImage) (c : Nat) (col : List ColSlot) : Option (FitFail × Nat) :=
  let all := (imgCells b).foldl min 4096
  match (checkSlots p (s.laneMask p) false [] col).find? fun x => x.st == .skipped with
  | some x => some (.entry, imgCellAt b x)
  | none =>
    match col.findSome? fun x => (s.entryFit p b c x).map fun f => (f, imgCellAt b x) with
    | some r => some r
    | none =>
      if !s.keepOk col then some (.keep, all)
      else if !s.columnOrder p col then some (.order, all)
      else if s.rd F.NOC_CFG.radio_share * 550000 < s.columnBytes p col then some (.bandwidth, all)
      else none

/-- pJ in a tick at the radio power ceiling (R27, R238). -/
def State.powerRoom (s : State) : Nat := bits s.planHdr.2.1.toNat 31 20 * 125000000

/-- The proof of fit of a bank (R85): nothing where it holds, else the first breach with its cell, 4096 where it names none. `others` is the
worst-case radio energy of the other partitions in a tick. -/
def State.proof (s : State) (b : BankImage) (others : Nat) : Option (FitFail × Nat) :=
  let p := b.part.val
  let t := s.withImage b
  let all := (imgCells b).foldl min 4096
  match (imgSlots b).zipIdx.findSome? fun c => t.columnFit p b c.2 c.1 with
  | some r => some r
  | none =>
    if !t.memoryOk p (imgCells b) (imgSlots b) then some (.memory, all)
    else if t.powerRoom < t.tableEnergy (imgSlots b) + others then some (.power, all)
    else none

/-- Radio energy of the committed tables of the other partitions. -/
def State.otherEnergy (s : State) (p : Nat) : Nat :=
  ((span 0 8).filter (· != p)).foldl (fun a q => a + s.tableEnergy (s.committed q)) 0

/-- The smallest deadline slack of a bank (R85); that of an empty bank is the whole room (DESIGN CHOICE, log 91). -/
def State.bankSlack (s : State) (p : Nat) (b : BankImage) : Nat :=
  let room := 412500 - s.rd F.TICK_FIT.fit_margin p
  ((imgSlots b).flatMap id).foldl (fun m x => min m (room - (x.start + x.len))) room

end Sys2Proof.Machine
end

