-- ==== Sys2Proof/Machine/CellFx.lean ====
section
/-! DEFINITION. Banks that the placement engine writes and what takes effect at a frame boundary (R39, R74, R75, R85, R86, R192, R241–R243):
the other bank, its proof and its commit; the re-proof after a lost unit, locks and unlocks. -/

namespace Sys2Proof.Machine

/-! ## Writing a bank (R74, R75, R85, R153, R192) -/

/-- PCp writes a bank: the other one than `bank_sel` names, also before the first commit (DEDUCED from R74, log 92), under a generation one above
that bank's own (DESIGN CHOICE, log 93). With it go its descriptors, its reserved regions, the lines of its locked ways and the work of its
windows, and the pair is staged. The radio rows of an MXD1-I are disabled (R3). -/
def State.writeBank (s : State) (b0 : BankImage) (fit : Bool) : State :=
  let b := if s.isI then stripRadio b0 else b0
  let p := b.part.val
  let sel := 1 - s.rd F.TICK_CTRL.bank_sel p
  let gen := bits (s.memLE (bankAt p sel) 8) 63 32 + 1
  let s := s.writePinned b
  let s := s.sramWr (bankAt p sel) (bankBytes b (if fit then s.planHdr.1.toNat else 0) gen)
  let s := b.rsv.foldl (fun s r =>
    let n := 16 * p + r.1.val
    (s.stage F.MEM_SP_RSV.rsv_off r.2.1.toNat n).stage F.MEM_SP_RSV.rsv_len r.2.2.toNat n) s
  let fill := (span 0 64).foldl (fun m k => match b.ilines.find? fun l => l.1.val == k with
    | some l => kset m (64 * p + k) (l.2.map fun a => a.toNat / 64)
    | none => m) ([] : KMap (List Nat))
  let s := s.setPart p { s.partOf p with next := some { slack := s.bankSlack p b, fit := fit, work := b.work, fill := fill } }
  (s.stage F.TICK_CTRL.bank_sel sel p).stage F.TICK_CTRL.table_len b.columns.length p

/-- Within the commit instant of a frame boundary that is still open: the staged bank and its reserved regions commit (R80, R241). -/
def State.commitBank (s : State) (p : Nat) : State :=
  let s := (span (16 * p) 16).foldl (fun s n => (s.commit F.MEM_SP_RSV.rsv_off n).commit F.MEM_SP_RSV.rsv_len n) s
  ((s.commitBankPair p).1).showStaged p

/-- The bank of the present cell states from the committed one: rows of no active cell go, and those of the cells in `gone` (R241, R454). -/
def State.rebuiltBank (s : State) (p : Nat) (gone : List Nat) : BankImage :=
  let x := s.partOf p
  let keep (c : Nat) : Bool := !gone.contains c && (s.cell? c).any State.cellOn
  let work := x.work.filter fun w => keep w.cell.val
  let lost (d : Nat) : Bool := x.work.any (fun w => w.desc.toNat == d) && !(work.any fun w => w.desc.toNat == d)
  { part := Fin.ofNat 8 p, pinned := [], rsv := [], work := work, ilines := []
    columns := (s.committed p).map fun c => (c.filter fun e => e.st == .waiting && (e.kind != 0 || !lost e.desc)).map ColSlot.entry }

/-- The lines that the locked ways hold stay when a bank brings none of its own. -/
def State.keepFill (s : State) (p : Nat) (b : BankImage) : BankImage :=
  { b with ilines := (span 0 64).filterMap fun k =>
      let ls := (s.spur (64 * p + k)).fill
      if ls.isEmpty then none else some (Fin.ofNat 64 k, ls.map fun l => BitVec.ofNat 48 (64 * l)) }

/-- Write a bank rebuilt from the committed one, to commit with the next instant. -/
def State.writeRebuilt (s : State) (p : Nat) (gone : List Nat) : State :=
  s.writeBank (s.keepFill p (s.rebuiltBank p gone)) (s.on F.TICK_STAT.fit_ok p)

/-! ## What is due at a frame boundary (R39, R241–R243) -/

/-- A lock or unlock of a cell has reached its boundary; an unlock waits while the start condition of R66 does not hold. -/
def State.lockDue (s : State) (c : Cell) : Bool := c.pend.any fun d => !d.unlock && d.tick ≤ s.time.tick
def State.unlockDue (s : State) (c : Cell) : Bool := c.pend.any fun d => d.unlock && d.tick ≤ s.time.tick && s.startOk

/-- Cells of a partition by number. -/
def State.cellsOf (s : State) (p : Nat) : List (Nat × Cell) := s.cells.filter fun c => c.2.part == p

/-- Something is due in the partition at this boundary. A controller that is down applies it at the first boundary after its return. -/
def State.fxDue (s : State) (p : Nat) : Bool :=
  s.procUp (pc p) && ((s.partOf p).reproof || (s.cellsOf p).any fun c => s.lockDue c.2 || s.unlockDue c.2)

/-- The boundary of a partition is open: effects are due, and no column has been fetched (R73). -/
def State.setAwait (s : State) (p : Nat) (v : Bool) : State := s.setPart p { s.partOf p with await := v }

/-- An unlock whose boundary finds no start condition waits for it (R242, R243). -/
def State.waitUnlocks (s : State) : State :=
  s.withCells (kmapv s.cells fun _ c =>
    if (c.pend.any fun d => d.unlock && d.tick ≤ s.time.tick) && !s.startOk then { c with waits := true } else c)

/-- Column and step of a partition (R71, R76–R78, R286). -/
def State.partTick (s : State) (p : Nat) : State :=
  let s := s.fetchColumn p
  if (s.partOf p).hold then s else s.stepTick p

/-- The tick of a partition: at a frame boundary with effects due it waits for them. -/
def State.openTick (s : State) (p : Nat) : State :=
  if (s.frameStart s.time.tick || (s.partOf p).await) && s.fxDue p then (s.newColumn p []).setAwait p true
  else (s.setAwait p false).partTick p

/-- An effect has been applied: when none is due any more, the tick of the partition goes on. -/
def State.fxDone (s : State) (p : Nat) : State := if s.fxDue p then s else (s.setAwait p false).partTick p

/-! ## The effects -/

/-- Cells that a re-proof locks, the first one first: the lowest priority, and on a tie the larger number (R39, R243). -/
def State.victims (s : State) (p : Nat) : List Nat :=
  (sortBy (fun c => -(((s.cell? c).elim 0 fun x => 4096 * x.priority + c : Nat) : Int))
    (((s.cellsOf p).filter fun c => State.cellOn c.2).map (·.1)))

/-- The bank of the `j`-th try: the placement engine's where it gave one that serves the remaining cells alone, else the rows of the committed
bank. -/
def State.tryBank (s : State) (p : Nat) (gone : List Nat) (t : Option BankImage) : BankImage :=
  match t with
  | some b => if b.part.val == p && lenOk b.columns.length && (imgCells b).all fun c => !gone.contains c && (s.cell? c).any fun x => State.cellOn x && x.part == p
      then b else s.keepFill p (s.rebuiltBank p gone)
  | none => s.keepFill p (s.rebuiltBank p gone)

/-- The first try, from no cell locked upward, whose bank passes the proof of fit: the cells locked and the bank. -/
def State.firstFit (s : State) (p : Nat) (tries : List BankImage) : List Nat × BankImage :=
  let vs := s.victims p
  let go (j : Nat) : List Nat × BankImage := (vs.take j, s.tryBank p (vs.take j) tries[j]?)
  match (List.range (vs.length + 1)).find? fun j => (s.proof (go j).2 (s.otherEnergy p)).isNone with
  | some j => go j
  -- without any radio row left nothing can fail but a HOLD entry
  | none => (vs, stripAll (s.rebuiltBank p vs))

/-- A cell that no longer fits (R39, R243); a lock that waited for it completes. -/
def State.autoLock (s : State) (c : Nat) : State :=
  let d := (s.cell? c).bind (·.pend)
  let s := (s.stopCell c .autoLocked).event 2 1 Ev.spareLoss c (pc (((s.cell? c).map (·.part)).getD 0))
  match d with
  | some d => s.finishCell d.token St.ok
  | none => s

/-- SPARE_LOSS_REPROOF: at the frame boundary the proof runs without the lost unit; cells that no longer fit are AUTO_LOCKED. -/
def execSpareLossReproof (p : Fin 8) (first : BankImage) (more : List BankImage) (s : State) : Host.Outcome State Fault Refusal :=
  .next (
    if (s.partOf p).await && (s.partOf p).reproof then
      let r := s.firstFit p (first :: more)
      let s := r.1.foldl State.autoLock s
      let s := s.setPart p { s.partOf p with reproof := false }
      ((s.writeBank r.2 true).commitBank p).fxDone p
    else s)

/-- CELL_LOCK_EFFECT: the cell leaves the air, its command completes, and a bank without its rows commits. -/
def execCellLockEffect (p : Fin 8) (c : Fin 4096) (s : State) : Host.Outcome State Fault Refusal :=
  .next (
    match s.cell? c with
    | none => s
    | some x =>
      match x.pend with
      | none => s
      | some d =>
        if x.part == p.val && (s.partOf p).await && !(s.partOf p).reproof && s.lockDue x then
          let s := (s.stopCell c .locked).finishCell d.token St.ok
          ((s.writeRebuilt p []).commitBank p).fxDone p
        else s)

/-- CELL_UNLOCK_EFFECT: after the re-proof and the locks of the boundary, the lowest-numbered due unlock is proved with the bank that carries it;
it starts afresh, or stays locked with ST_CELL_UNFIT. -/
def execCellUnlockEffect (p : Fin 8) (c : Fin 4096) (bank : BankImage) (s : State) : Host.Outcome State Fault Refusal :=
  .next (
    match s.cell? c with
    | none => s
    | some x =>
      match x.pend with
      | none => s
      | some d =>
        let others := s.cellsOf p
        if x.part == p.val && (s.partOf p).await && !(s.partOf p).reproof && s.unlockDue x && !others.any (fun y => s.lockDue y.2) &&
            !others.any (fun y => s.unlockDue y.2 && y.1 < c.val) then
          let fits := bank.part == p && lenOk bank.columns.length && (imgCells bank).all (fun k =>
            k == c.val || (s.cell? k).any fun y => State.cellOn y && y.part == p) && (s.proof bank (s.otherEnergy p)).isNone
          if fits then
            let s := ((s.startCell c).finishCell d.token St.ok)
            ((s.writeBank bank true).commitBank p).fxDone p
          else
            let s := s.setCell c { x with st := .locked, waits := false, pend := none }
            (s.finishCell d.token St.cellUnfit).fxDone p
        else s)

end Sys2Proof.Machine
end

