-- ==== Sys2Proof/Machine/Dsp.lean ====
section
/-! DEFINITION. The instructions of the Spur DSP datapath (R172–R188), and the region write of a group buffer (R181). -/

namespace Sys2Proof.Machine

/-- An instruction of the datapath that changes the thread and may saturate: `sr.sat` and `sat_cnt` (R173). Its accumulator is
ready for every reader `k` cycles after the issue (R174). -/
def State.dspLate (s : State) (th k : Nat) (f : Thread → Thread × Bool) : State :=
  s.issue th fun s =>
    let r := f (s.thread th)
    let t := s.lateBy th k r.1
    if r.2 then (s.bump F.SPR_DSP_STAT.sat_cnt (th / 8)).done th { t with sat := true } else s.done th t
def State.dspOp (s : State) (th : Nat) (f : Thread → Thread × Bool) : State := s.dspLate th 1 f

/-- The 32-bit half of a g register that `hi` selects. -/
def Thread.half (t : Thread) (i : Fin 32) (hi : Bool) : Nat :=
  if hi then (t.rg i).toNat / 2 ^ 32 else (t.rg i).toNat % 2 ^ 32

/-- A family instruction with product (re, im) on the complex form: `fn` 0 MUL, 1 MAC, 2 MSU. -/
def State.macOp (s : State) (th : Nat) (ad : Fin 4) (fn : Nat) (frac : Bool) (p : Thread → Int × Int) : State :=
  s.dspLate th 3 fun t =>
    let q := p t
    let r := satComplex (accumulate fn (accRe t.acc[ad]) (dbl frac q.1)) (accumulate fn (accIm t.acc[ad]) (dbl frac q.2))
    (t.setAcc ad r.1, r.2)

def State.cmacOp (s : State) (th : Nat) (ad : Fin 4) (fn : Nat) (conj : Bool) (gs1 gs2 : Fin 32) (hi1 hi2 frac : Bool) :
    State :=
  s.macOp th ad fn frac fun t => dspProduct (if conj then 3 else 0) (t.half gs1 hi1) (t.half gs2 hi2)

def execCmul (th : Fin 4096) (ad : Fin 4) (gs1 gs2 : Fin 32) (hi1 hi2 frac : Bool) (s : State) : Res :=
  .next (s.cmacOp th.val ad 0 false gs1 gs2 hi1 hi2 frac)
def execCmac (th : Fin 4096) (ad : Fin 4) (gs1 gs2 : Fin 32) (hi1 hi2 frac : Bool) (s : State) : Res :=
  .next (s.cmacOp th.val ad 1 false gs1 gs2 hi1 hi2 frac)
def execCmsu (th : Fin 4096) (ad : Fin 4) (gs1 gs2 : Fin 32) (hi1 hi2 frac : Bool) (s : State) : Res :=
  .next (s.cmacOp th.val ad 2 false gs1 gs2 hi1 hi2 frac)
def execCmulj (th : Fin 4096) (ad : Fin 4) (gs1 gs2 : Fin 32) (hi1 hi2 frac : Bool) (s : State) : Res :=
  .next (s.cmacOp th.val ad 0 true gs1 gs2 hi1 hi2 frac)
def execCmacj (th : Fin 4096) (ad : Fin 4) (gs1 gs2 : Fin 32) (hi1 hi2 frac : Bool) (s : State) : Res :=
  .next (s.cmacOp th.val ad 1 true gs1 gs2 hi1 hi2 frac)
def execCmsuj (th : Fin 4096) (ad : Fin 4) (gs1 gs2 : Fin 32) (hi1 hi2 frac : Bool) (s : State) : Res :=
  .next (s.cmacOp th.val ad 2 true gs1 gs2 hi1 hi2 frac)

/-- Dual real: x0·h0 and x1·h1; with `bc`, h0 serves both (R188). -/
def State.rmacOp (s : State) (th : Nat) (ad : Fin 4) (fn : Nat) (gs1 gs2 : Fin 32) (hi1 hi2 frac bc : Bool) : State :=
  s.macOp th ad fn frac fun t =>
    let x := ci16 (t.half gs1 hi1)
    let h := ci16 (t.half gs2 hi2)
    (x.1 * h.1, x.2 * if bc then h.1 else h.2)

def execRmacMul (th : Fin 4096) (ad : Fin 4) (gs1 gs2 : Fin 32) (hi1 hi2 frac bc : Bool) (s : State) : Res :=
  .next (s.rmacOp th.val ad 0 gs1 gs2 hi1 hi2 frac bc)
def execRmacMac (th : Fin 4096) (ad : Fin 4) (gs1 gs2 : Fin 32) (hi1 hi2 frac bc : Bool) (s : State) : Res :=
  .next (s.rmacOp th.val ad 1 gs1 gs2 hi1 hi2 frac bc)
def execRmacMsu (th : Fin 4096) (ad : Fin 4) (gs1 gs2 : Fin 32) (hi1 hi2 frac bc : Bool) (s : State) : Res :=
  .next (s.rmacOp th.val ad 2 gs1 gs2 hi1 hi2 frac bc)

/-- Wide: int32 × int32 on the wide form. -/
def State.wmacOp (s : State) (th : Nat) (ad : Fin 4) (fn : Nat) (gs1 gs2 : Fin 32) (hi1 hi2 frac : Bool) : State :=
  s.dspLate th 3 fun t =>
    let p := dbl frac (toSigned 32 (t.half gs1 hi1) * toSigned 32 (t.half gs2 hi2))
    let r := satWide (accumulate fn (accWide t.acc[ad]) p)
    (t.setAcc ad r.1, r.2)

def execWmacMul (th : Fin 4096) (ad : Fin 4) (gs1 gs2 : Fin 32) (hi1 hi2 frac : Bool) (s : State) : Res :=
  .next (s.wmacOp th.val ad 0 gs1 gs2 hi1 hi2 frac)
def execWmacMac (th : Fin 4096) (ad : Fin 4) (gs1 gs2 : Fin 32) (hi1 hi2 frac : Bool) (s : State) : Res :=
  .next (s.wmacOp th.val ad 1 gs1 gs2 hi1 hi2 frac)
def execWmacMsu (th : Fin 4096) (ad : Fin 4) (gs1 gs2 : Fin 32) (hi1 hi2 frac : Bool) (s : State) : Res :=
  .next (s.wmacOp th.val ad 2 gs1 gs2 hi1 hi2 frac)

/-! ## FTAP (R186, R187) -/

/-- `step_of` of R186. -/
def Thread.stepOf (t : Thread) (p : Nat) (st : Int) (i : Fin 8) (mode : Nat) : Nat :=
  if 2 ≤ mode then t.circ p st i else (((p : Int) + st) % 2 ^ 48).toNat

/-- The check of an access of FTAP: alignment, circular crossing, window and class (R187); cause, key index, and whether the line
may be cached. -/
def State.dspCheck (s : State) (th : Nat) (t : Thread) (p n : Nat) (i : Fin 8) (circ : Bool) (right : Right) :
    Nat × Nat × Bool :=
  if p % n ≠ 0 then (2, 0, false)
  else if circ && t.circBad p n i then (2, 0, false)
  else s.checkAccess th p n right

/-- The target of a load is local: a cache hit, or a memory of the cluster (R154). -/
def State.isLocal (s : State) (th a n : Nat) : Bool :=
  ((s.thread th).cached a).isSome || s.classOf (th / 8) (s.isRadio th) a n == .loc

/-- FTAP: checks first, then both loads together; local ones stall the thread for the slower of them, a remote one parks it
(R154, R174, R186, R187). -/
def execFtap (th : Fin 4096) (ad : Fin 4) (ax ah : Fin 8) (typ mx mh : Fin 4) (mv neg frac dual : Bool) (s : State) : Res :=
  .next (s.issue th.val fun s =>
    if ax = ah || (mv && dual) then s.fault th.val 1
    else
      let th := th.val
      let t := s.thread th
      let n := if dual then 2 else 1
      let sx := n * ftapSample typ.val
      let sh := n * ftapCoeff typ.val
      let stx : Int := if mx.val = 1 || mx.val = 3 then -(sx : Int) else sx
      let sth : Int := if mh.val = 1 || mh.val = 3 then -(sh : Int) else sh
      let px := t.a[ax].toNat
      let ph := t.a[ah].toNat
      let cx := s.dspCheck th t px sx ax (2 ≤ mx.val) .rd
      let ch := s.dspCheck th t ph sh ah (2 ≤ mh.val) .rd
      let dst := t.stepOf px (-stx) ax mx.val
      let cm := if mv then s.dspCheck th t dst sx ax false .wr else (0, 0, false)
      let lx := s.isLocal th px sx
      let lh := s.isLocal th ph sh
      let vx := if lx then s.loadNow th px sx cx.2.1 else none
      let vh := if lh then s.loadNow th ph sh ch.2.1 else none
      if cx.1 ≠ 0 then s.fault th cx.1
      else if ch.1 ≠ 0 then s.fault th ch.1
      else if cm.1 ≠ 0 then s.fault th cm.1
      else if lx && vx.isNone then (s.rdRecord px sx cx.2.1).fault th 6
      else if lh && vh.isNone then (s.rdRecord ph sh ch.2.1).fault th 6
      else
        let w : FtapWait := {
          x := ⟨vx, px, sx, cx.2.1, cx.2.2⟩, h := ⟨vh, ph, sh, ch.2.1, ch.2.2⟩, ad := ad, typ := typ.val, neg := neg
          frac := frac, dual := dual, mv := if mv then some (dst, cm.2.1) else none, ax := ax, ah := ah
          nx := BitVec.ofNat 48 (t.stepOf px stx ax mx.val), nh := BitVec.ofNat 48 (t.stepOf ph sth ah mh.val) }
        match vx, vh with
        | some x, some h =>
          let l := max (s.localLat th px) (s.localLat th ph)
          ((s.setThread th (s.lateBy th (l + 3) t)).ftapEnd th w x h).stall th l
        | _, _ => if 64 < s.outstanding (th / 8) + w.remote then s else s.park th (.ftap w) w.remote)

/-! ## Accumulator operations (R177) -/

/-- Act on both components, or on the wide value. -/
def accMap (wide : Bool) (f : Int → Int) (a : BitVec 80) : BitVec 80 × Bool :=
  if wide then satWide (f (accWide a)) else satComplex (f (accRe a)) (f (accIm a))

def execAccClr (th : Fin 4096) (ad : Fin 4) (_wide : Bool) (s : State) : Res :=
  .next (s.dspOp th.val fun t => (t.setAcc ad 0, false))
/-- MOV acts on both components, or on the wide value, whose write sets bits [79:72] (R172). -/
def execAccMov (th : Fin 4096) (ad asrc : Fin 4) (wide : Bool) (s : State) : Res :=
  .next (s.dspOp th.val fun t => (t.setAcc ad (if wide then mkWide (accWide t.acc[asrc]) else t.acc[asrc]), false))
def execAccAdd (th : Fin 4096) (ad asrc : Fin 4) (wide : Bool) (s : State) : Res :=
  .next (s.dspOp th.val fun t =>
    let r := if wide then satWide (accWide t.acc[ad] + accWide t.acc[asrc])
      else satComplex (accRe t.acc[ad] + accRe t.acc[asrc]) (accIm t.acc[ad] + accIm t.acc[asrc])
    (t.setAcc ad r.1, r.2))
def execAccNeg (th : Fin 4096) (ad : Fin 4) (wide : Bool) (s : State) : Res :=
  .next (s.dspOp th.val fun t => let r := accMap wide (fun v => -v) t.acc[ad]; (t.setAcc ad r.1, r.2))
def execAccShl (th : Fin 4096) (ad : Fin 4) (wide : Bool) (amt : Fin 64) (s : State) : Res :=
  .next (s.dspOp th.val fun t => let r := accMap wide (fun v => v * 2 ^ amt.val) t.acc[ad]; (t.setAcc ad r.1, r.2))
def execAccShr (th : Fin 4096) (ad : Fin 4) (wide : Bool) (amt : Fin 64) (s : State) : Res :=
  .next (s.dspOp th.val fun t => let r := accMap wide (fun v => v / 2 ^ amt.val) t.acc[ad]; (t.setAcc ad r.1, false))
/-- SWAP and CONJ with `wide` = 1 are illegal. -/
def execAccSwap (th : Fin 4096) (ad : Fin 4) (wide : Bool) (s : State) : Res :=
  .next (if wide then s.issue th.val fun s => s.fault th.val 1
    else s.dspOp th.val fun t => (t.setAcc ad (mkComplex (accIm t.acc[ad]) (accRe t.acc[ad])), false))
def execAccConj (th : Fin 4096) (ad : Fin 4) (wide : Bool) (s : State) : Res :=
  .next (if wide then s.issue th.val fun s => s.fault th.val 1
    else s.dspOp th.val fun t =>
      let r := satComplex (accRe t.acc[ad]) (-(accIm t.acc[ad])); (t.setAcc ad r.1, r.2))

/-! ## STAC, MVAC, MTAC (R175, R176) -/

/-- STAC: formats 6 and 7 and mode 3 are illegal; modes 0 and 1 address as the M format, mode 2 circularly. -/
def execStac (th : Fin 4096) (ad : Fin 4) (an : Fin 8) (am : Fin 4) (fmt : Fin 8) (rm : Bool) (sh : Fin 64) (off : BitVec 9)
    (s : State) : Res :=
  .next (s.issue th.val fun s =>
    if fmt.val ≥ 6 || am.val = 3 then s.fault th.val 1
    else
      let th := th.val
      let t := s.thread th
      let n := accFmtBytes fmt.val
      let m := t.mAddr an am.val n (off.signExtend 13)
      if m.2.2 ≠ 0 then s.fault th m.2.2
      else
        let o := accOut fmt.val rm sh.val t.acc[ad]
        let t' := t.wa an (BitVec.ofNat 48 m.2.1)
        let c := s.checkAccess th m.1 n .wr
        if m.1 % n ≠ 0 then s.fault th 2
        else if c.1 ≠ 0 then s.fault th c.1
        else
          let s := if o.2 then s.bump F.SPR_DSP_STAT.sat_cnt (th / 8) else s
          s.finishStore th m.1 (leBytes n o.1) c.2.1 (if o.2 then { t' with sat := true } else t'))

def execMvac (th : Fin 4096) (ad : Fin 4) (rd : Fin 32) (fmt : Fin 8) (rm : Bool) (sh : Fin 64) (s : State) : Res :=
  .next (s.dspOp th.val fun t =>
    let o := accOut fmt.val rm sh.val t.acc[ad]
    (t.wg rd (BitVec.ofNat 64 o.1), o.2))

/-- MTAC ignores `rm`. -/
def execMtac (th : Fin 4096) (ad : Fin 4) (rs : Fin 32) (fmt : Fin 8) (_rm : Bool) (sh : Fin 64) (s : State) : Res :=
  .next (s.dspOp th.val fun t =>
    let r := accIn fmt.val sh.val (t.rg rs).toNat t.acc[ad]
    (t.setAcc ad r.1, r.2))

/-! ## RPT (R183) -/

def execRpt (th : Fin 4096) (lv : Fin 4) (src : Bool) (count : BitVec 11) (gc : Fin 32) (len : BitVec 12) (s : State) : Res :=
  .next (s.issue th.val fun s =>
    let t := s.thread th.val
    let c := if src then (t.rg gc).toNat else count.toNat
    let last := t.pc.toNat + 4 * len.toNat
    if 16777215 < c || len = 0 || (t.loops.any fun l => l.lv == lv.val) || (t.loops.any fun l => l.last < last) then
      s.fault th.val 1
    else if c = 0 then
      -- the body is skipped: execution continues after its end
      s.bubble th.val { t with lc := t.lc.set lv 0, pc := BitVec.ofNat 48 (last + 4) }
    else
      s.setThread th.val { t with lc := t.lc.set lv (BitVec.ofNat 24 c), pc := t.pc + 4,
                                  loops := ⟨lv.val, t.pc.toNat + 4, last⟩ :: t.loops })

/-! ## Circular buffers (R179–R182, R188) -/

def execCbset (th : Fin 4096) (i : Fin 8) (ga gb : Fin 32) (s : State) : Res :=
  .next (s.tOp th.val fun t => { t with cb := t.cb.set i ((t.rg ga).truncate 48), cl := t.cl.set i ((t.rg gb).truncate 24),
                                        wrap := t.wrap.set i true })
def execMtcb (th : Fin 4096) (i : Fin 8) (ga : Fin 32) (s : State) : Res :=
  .next (s.tOp th.val fun t => { t with cb := t.cb.set i ((t.rg ga).truncate 48), wrap := t.wrap.set i true })
def execMtcl (th : Fin 4096) (i : Fin 8) (ga : Fin 32) (s : State) : Res :=
  .next (s.tOp th.val fun t =>
    let l : BitVec 24 := (t.rg ga).truncate 24
    { t with cl := t.cl.set i l, wrap := if l = 0 then t.wrap.set i false else t.wrap })
def execMfcb (th : Fin 4096) (i : Fin 8) (ga : Fin 32) (s : State) : Res :=
  .next (s.gOp th.val ga fun t => t.cb[i].zeroExtend 64)
def execMfcl (th : Fin 4096) (i : Fin 8) (ga : Fin 32) (s : State) : Res :=
  .next (s.gOp th.val ga fun t => BitVec.ofNat 64 (t.cl[i].toNat + 2 ^ 24 * b2n t.wrap[i]))
def execCbget (th : Fin 4096) (i : Fin 8) (j : Fin 4) (s : State) : Res :=
  .next (s.issue th.val fun s =>
    let k := 4 * (th.val / 8) + j.val
    let t := s.thread th.val
    s.done th.val { t with cb := t.cb.set i (BitVec.ofNat 48 (s.rd F.SPR_GCB_BASE.gcb_base k)),
                           cl := t.cl.set i (BitVec.ofNat 24 (s.rd F.SPR_GCB_LEN.gcb_len k)), wrap := t.wrap.set i true })
def execMtlc (th : Fin 4096) (lv : Fin 4) (ga : Fin 32) (s : State) : Res :=
  .next (s.tOp th.val fun t => { t with lc := t.lc.set lv ((t.rg ga).truncate 24) })
def execMflc (th : Fin 4096) (lv : Fin 4) (ga : Fin 32) (s : State) : Res :=
  .next (s.gOp th.val ga fun t => t.lc[lv].zeroExtend 64)

end Sys2Proof.Machine
end

