-- ==== Sys2Proof/Machine/Reset.lean ====
section
/-! DEFINITION. Resets (R36, R42, R43, R446, R448, R450–R459, R484, R510): the whole device, a partition, a cluster, one
unit; the defect map's write; and switched power domains. -/

namespace Sys2Proof.Machine

/-! ## SRAM and units -/

/-- SRAM of a range back at zero, poison with it (R441). -/
def State.zeroRange (s : State) (a n : Nat) : State :=
  let out (x : Nat) : Bool := !(a ≤ x && x < a + n)
  (s.memKeep out).poisonKeep out

/-- A core as its reset leaves it: banks and scratchpad zero (R100, R451). The restore image and a substitution that is due lie
outside it. -/
def State.clearCore (s : State) (n : Nat) : State :=
  let c := s.core n
  (s.zeroRange (padBase n) 0x800000).setCore n { Core.zero with
    actRem := c.actRem, gateRem := c.gateRem, image := c.image, copied := c.copied, subst := c.subst }

/-- A reset of a debug target clears its halts and breakpoints and says so (R484). -/
def State.dropDebug (s : State) (n : Nat) : State :=
  let bps := kget s.sec.spurBps n []
  let ts := (span 0 8).filter fun t => (s.thread (8 * n + t)).dbg || bps.any fun b => bit b.2.1 t
  let s := ts.foldl (fun s t => s.dbgEvent (tgtThread (8 * n + t)) 3 (s.thread (8 * n + t)).pc.toNat) s
  s.withSec { s.sec with spurBps := kdel s.sec.spurBps n }
def State.dropProcDebug (s : State) (i : Nat) : State :=
  let p := s.proc i
  let s := if p.dbgHalt || !p.bps.isEmpty then (s.dbgEvent i 3 (s.fresh .firmware)).drawn else s
  s.setProc i { s.proc i with dbgHalt := false, bps := [] }

/-- A Spur core as its reset leaves it: threads and caches. -/
def State.clearSpur (s : State) (n : Nat) : State :=
  let s := (s.jobsOf n).foldl (fun s j => s.clearJob n j.1 j.2.mask) (s.dropDebug n)
  let s := (span (8 * n) 8).foldl (fun s th => s.setThread th Thread.zero) s
  let c := s.spur n
  s.setSpur n { SpurCore.zero with fill := c.fill, copied := c.copied, subst := c.subst }

/-! ## The defect map (R446) -/

/-- Cairn writes the whole map with the next generation over the older copy. -/
def State.writeMap (s : State) : State :=
  let b := s.bring
  if b.dmQueue.isEmpty then s
  else
    let gen := s.rd F.RST_DM.dm_gen + 1
    let es := b.dm ++ b.dmQueue
    let s : State := (s.withBring { b with
      dm := es, dmQueue := [], dmNext := some { ok := true, gen := BitVec.ofNat 32 gen, entries := es } })
    ((s.put F.RST_DM.dm_gen gen).put F.RST_DM.dm_count es.length).put F.RST_DM.dm_pending 0

/-- DEFECT_MAP_WRITE. -/
def execDefectMapWrite (s : State) : Res := .next (if s.procUp cairn then s.writeMap else s)

/-! ## The whole device (R448, R450, R456, R510) -/

/-- What the reset leaves: PD49 with its counter, the NOR, host memory; everything else at its Reset column. -/
def State.resetDevice (s : State) : State :=
  let b := s.bring
  let r : State := { State.reset with
    pending := s.pending, hostMem := s.hostMem, hostBad := s.hostBad
    lineKey := kmapv s.lineKey fun _ k => (k.1, lostEpoch)
    time := { TimeState.zero with sec := s.time.sec, ns := s.time.ns, frac := s.time.frac }
    sramUe := s.sramUe, free := s.free, out := s.out
    bring := { Bring.zero with
      powered := true, resetN := b.resetN, perst := b.perst, token := b.token, slot := b.slot, boot := b.boot
      images := b.images, dcr := b.dcr, dcrSerial := b.dcrSerial, dcrNext := b.dcrNext, dmNext := b.dmNext
      boots := b.boots, startNs := s.nowNs }
    mgt := { MgtState.zero with nor := s.mgt.nor, pwrgd := true } }
  let r := ((r.power [49] true).put F.RST_STAT.step 1).put F.RST_WARM.token_valid (b2n b.token.isSome)
  let r := (r.put F.MGT_PROT.trip_cause (s.rd F.MGT_PROT.trip_cause)).put F.MGT_PROT.trip_point (s.rd F.MGT_PROT.trip_point)
  let r := r.showFault s
  if s.mgt.pwrgd then r else r.emit (.pinOut 1 1)

/-- DEV_RST: an orderly reset is asked for. -/
def execDevRst (wr : Writer) (warm : Bool) (s : State) : Res :=
  .next (
    let b := s.bring
    if s.mayWrite wr F.RST_DEV_CTRL.dev_rst 0 && b.powered && !b.inReset && !b.tripped && b.shutAt.isNone then
      (s.withBring { b with shutAt := some s.nowNs }).put F.RST_DEV_CTRL.warm_req (b2n warm)
    else s)

/-- The warm token (R448): requested after Ready, ignored after a debug unlock (R483). -/
def State.warmToken (s : State) : Option WarmToken :=
  if s.on F.RST_DEV_CTRL.warm_req && s.ready && !s.on F.SEC_STAT.dbg_taint then
    some {
      slot := s.bring.slot, digest := (s.imageOf s.bring.slot).digest.toNat, dcr := s.bring.dcrSerial
      dmGen := s.rd F.RST_DM.dm_gen, chans := ((span 0 24).filter s.chanLive).foldl (fun a m => a + 2 ^ m) 0
      at_ns := s.nowNs, clean := true, srUe := s.sramUe.any fun t => s.nowNs < t + dayNs
      patched := s.on F.FW_IMAGE.patched, void := false, rows := s.bring.rowFix }
  else none

/-- WHOLE_DEVICE_RESET: the orderly one takes place when no fabric request is outstanding, 10 ms after it began at the latest. -/
def execWholeDeviceReset (s : State) : Res :=
  .next (
    match s.bring.shutAt with
    | none => s
    | some t =>
      match if s.fabReqs.isEmpty then some s else s.reach (t + 10000000) with
      | none => s
      | some s =>
        let s := s.writeMap
        (s.withBring { s.bring with token := s.warmToken }).resetDevice)

/-- A reset contact is asserted: at once, and no token stays valid. -/
def State.assertReset (s : State) : State :=
  if s.rd F.RST_STAT.step = 0 ∨ s.bring.inReset then s
  else
    let s : State := s.withBring { s.bring with token := s.bring.token.map fun t => { t with void := true } }
    let s := s.resetDevice
    s.withBring { s.bring with inReset := true }

/-- PERST_ASSERT and RESET_N_ASSERT. -/
def execPerstAssert (s : State) : Res := .next (s.withBring { s.bring with perst := false }).assertReset
def execResetNAssert (s : State) : Res := .next (s.withBring { s.bring with resetN := false }).assertReset

/-- RESET_DEASSERT: with both inputs deasserted start-up begins again, at step 2. -/
def execResetDeassert (perst : Bool) (s : State) : Res :=
  .next (
    let b := if perst then { s.bring with perst := true } else { s.bring with resetN := true }
    let s : State := s.withBring b
    if b.inReset && b.perst && b.resetN then (s.withBring { b with inReset := false, startNs := s.nowNs }) else s)

/-! ## Partition and cluster resets (R452–R455) -/

/-- Local lanes of a cluster's units. -/
def clLanes (cl : Nat) : List Nat := span (4 * (cl % 4)) 4 ++ span (16 + 16 * (cl % 4)) 16

/-- Active cells with rows among `rows`. -/
def State.cellsIn (s : State) (p : Nat) (rows : List ColSlot) : List Nat :=
  (s.cells.filter fun c => c.2.part == p && State.cellOn c.2 &&
    rows.any fun x => x.kind == 0 && !(s.workOf p x.desc c.1).isEmpty).map (·.1)

/-- Rows of a cluster in the committed bank. -/
def State.clRows (s : State) (cl : Nat) : List ColSlot :=
  (s.committed (cl / 4)).flatten.filter fun x => x.kind == 0 && (clLanes cl).contains x.lane

/-- A cell that a forced reset stops: its slots up to the frame's end are missed, a lock that waits completes, and AUTO_LOCKED
follows at the boundary (R453). -/
def State.stopForced (s : State) (cid : Nat) : State :=
  match s.cell? cid with
  | none => s
  | some c =>
    let mu := ceMu c.ent
    let now := s.slotAt mu s.time.tick
    let work := (List.range (10 * 2 ^ mu - now.2)).flatMap fun k =>
      let up := (List.range 14).filter (symUplink c.ent (c.pdusOf now.1 (now.2 + k)) now.1 (now.2 + k))
      let miss (kind : Fin 3) : WinWork := { desc := 0, cell := 0, kind := kind, slots := k, syms := 0x3FFF }
      (if !ceTdd c.ent || up.length < 14 then [miss 0] else []) ++ (if up.isEmpty then [] else [miss 1])
    let s := s.setCell cid { chargeMiss c now work with st := .lockPending, waits := false, pend := none }
    match c.pend with
    | some d => s.finishCell d.token St.ok
    | none => s

/-- Passes with items in the scope start again after the reset; their other items end (R455). -/
def State.againPasses (s : State) (p : Nat) (here : WlItem → Bool) : State :=
  let ids := ((s.partOf p).wl.filter fun it => it.pass != 0 && here it && it.st != .done).map WlItem.pass
  s.withPasses (s.passes.map fun x => if x.part = p ∧ ids.contains (x.id + 1) then { x with again := true } else x)

/-- The units of a cluster stop, and requests to it are absorbed from now on. -/
def State.quietCluster (s : State) (cl : Nat) : State :=
  let s := (span (4 * cl) 4).foldl State.stopCore s
  (((span (16 * cl) 16).foldl State.stopSpur s).put F.RST_CL_STAT.suspended 1 cl)

/-- Spills and moves that touch a partition are abandoned: their destination frames go back (R455). -/
def State.abandonCopies (s : State) (p : Nat) : State :=
  let out := s.spills.filter fun x => x.src == p || x.dst == p
  let s := out.foldl (fun s x => x.new.foldl State.decRef s)
    (s.withSpills (s.spills.filter fun x => !(x.src == p || x.dst == p)))
  (s.seqs.filter fun x => x.2.moveTo.any fun m => x.2.part == p || m.1 == p).foldl (fun s x =>
    let s := ((x.2.moveTo.map (·.2)).getD []).foldl State.decRef s
    s.modSeq x.1 fun q => { q with moveTo := none }) s

/-- A partition reset begins (phase Absorb). -/
def State.beginPart (s : State) (p : Nat) : State :=
  let s := (s.againPasses p fun _ => true)
  let s := (span (4 * p) 4).foldl State.quietCluster s
  let s := (span 80 24).foldl (fun s l => s.loseRadio p l) s
  let n := ((span (16 * p) 16).flatMap s.dmasOf).length
  let s := ((span (16 * p) 16).foldl (fun s k => s.setDmas k []) s).bump F.RST_PART_STAT.absorb_cnt p n
  let s := s.absorbDmas p (s.partScope p)
  let s := s.abandonCopies p
  let s : State := ((s.withFhBufs (s.fhBufs.filter fun b => b.part != p)).withBring { s.bring with
      clPhase := s.bring.clPhase.filter fun x => x.1 / 4 != p
      rstSince := kset s.bring.rstSince p s.nowNs })
  let s := s.setPart p { s.partOf p with col := [], wl := [] }
  let s := (s.procStops (pc p)).put F.FW_PROC_STAT.pstate 1 (pc p)
  let s := (s.clrf F.FW_GSTAT.held (2 ^ pc p)).orf F.FW_GSTAT.down (2 ^ pc p)
  s.put F.RST_PART_STAT.rst_state 1 p

/-- A partition that can be reset: its domain is on, the device is Ready, and no reset of it runs. -/
def State.canReset (s : State) (p : Nat) : Bool :=
  s.partOn p && s.domainOn p && s.ready && s.rd F.RST_PART_STAT.rst_state p == 0 && s.bring.shutAt.isNone

/-- PART_RST. -/
def execPartRst (wr : Writer) (p : Fin 8) (force : Bool) (s : State) : Res :=
  .next (
    if s.mayWrite wr F.RST_PART_CTRL.part_rst p then
      let s := s.put F.RST_PART_CTRL.force (b2n force) p
      if s.canReset p = false then s
      else if s.partActive p && !force then s.put F.RST_PART_STAT.rst_refused 1 p
      else
        let on := (s.cells.filter fun c => c.2.part == p.val && State.cellOn c.2).map (·.1)
        (on.foldl State.stopForced s).beginPart p
    else s)

/-- CL_RST: `force` is that of the cluster's partition. -/
def execClRst (wr : Writer) (cl : Fin 32) (s : State) : Res :=
  .next (
    let p := cl.val / 4
    if s.mayWrite wr F.RST_CL_CTRL.cl_rst cl && s.canReset p && s.domainOn (8 + cl) && !s.suspended cl then
      let rows := s.clRows cl
      if s.partActive p && !rows.isEmpty && !s.on F.RST_PART_CTRL.force p then s.put F.RST_PART_STAT.rst_refused 1 p
      else
        let s := (s.cellsIn p rows).foldl State.stopForced s
        let s := s.againPasses p fun it => (clLanes cl).contains it.lane
        let s := (s.quietCluster cl).absorbDmas p (s.clScope [cl.val])
        s.withBring { s.bring with clPhase := kset s.bring.clPhase cl 1, rstSince := kset s.bring.rstSince (8 + cl) s.nowNs }
    else s)

/-- Phase Reset of a cluster: its logic, SRAM zeroed. -/
def State.zeroCluster (s : State) (cl : Nat) : State :=
  let s := (span (4 * cl) 4).foldl State.clearCore s
  let s := (span (16 * cl) 16).foldl State.clearSpur s
  s.zeroRange (clSramBase cl) 0x800000

/-- The logical name that a physical unit stands behind, or is about to (R458): present names only. -/
def State.coreBehind (s : State) (cl k : Nat) : Option Nat :=
  (span (4 * cl) 4).find? fun n => !s.on F.MSF_MAP.absent n &&
    (s.rd F.MSF_MAP.phys_slot n == k || (s.core n).subst == some k)
def State.spurBehind (s : State) (cl k : Nat) : Option Nat :=
  (span (16 * cl) 16).find? fun n => !s.on F.SPR_MAP.absent n &&
    (s.rd F.SPR_MAP.phys_pos n == k || (s.spur n).subst == some k)

/-- Phase Self-test: a unit in use that fails is fenced, and a spare that fails is none any more (R454, R458, R459). -/
def State.testFails (s : State) (u : PhysUnit) : State :=
  let k := physKey u
  if !s.physHere u || (s.physOf k).bad then s
  else if (s.physOf k).spare then
    let f := if u.spur then F.RST_CL_STAT.spare_spur else F.RST_CL_STAT.spare_cores
    (s.failUnit 1 u).put f (s.rd f u.cl - 1) u.cl
  else if u.spur then
    match s.spurBehind u.cl u.pos with
    | some n => s.fenceSpur n 4
    | none => s.failUnit 1 u
  else match s.coreBehind u.cl u.pos with
    | some n => s.fenceCore n 4
    | none => s.failUnit 1 u

/-- PCp writes the bank of the present cell states; it commits with the next instant. A stopped sequencer stays stopped (R454). -/
def State.rebuild (s : State) (p : Nat) : State := if s.rd F.TICK_STAT.cur_len p = 0 then s else s.writeRebuilt p []

/-- End of a phase of a partition reset. -/
def State.partPhase (s : State) (p : Nat) (fails : List PhysUnit) : State :=
  let next (s : State) (k : Nat) : State := s.put F.RST_PART_STAT.rst_state k p
  match s.rd F.RST_PART_STAT.rst_state p with
  | 1 => next s 2
  | 2 =>
    let s := (span (4 * p) 4).foldl State.zeroCluster s
    let s := (s.zeroRange (pinnedBase p) 0x2000000).dropProcDebug (pc p)
    next s 3
  | 3 => next s 4
  | 4 =>
    let s := (fails.filter fun u => u.cl.val / 4 == p).foldl State.testFails s
    let s := s.setProc (pc p) { s.proc (pc p) with crashes := [] }
    next ((s.put F.FW_PROC_CNT.win_crashes 0 (pc p)).restart (pc p) 0) 5
  | 5 =>
    if s.procUp (pc p) then
      let s := s.rebuild p
      let s := s.putAll F.RST_CL_STAT.suspended 0 (span (4 * p) 4)
      let ms := (s.nowNs - kget s.bring.rstSince p s.nowNs) / 1000000
      next (s.put F.RST_PART_STAT.last_rst_ms (min 65535 ms) p) 0
    else s
  | _ => s

/-- End of a phase of a cluster reset. -/
def State.clusterPhase (s : State) (cl : Nat) (fails : List PhysUnit) : State :=
  let next (s : State) (k : Nat) : State := s.withBring { s.bring with clPhase := kset s.bring.clPhase cl k }
  match kfind s.bring.clPhase cl with
  | some 1 => next s 2
  | some 2 => next (s.zeroCluster cl) 3
  | some 3 => next s 4
  | some 4 => next ((fails.filter fun u => u.cl.val == cl).foldl State.testFails s) 5
  | some 5 =>
    if s.procUp (pc (cl / 4)) then
      let s := (s.rebuild (cl / 4)).put F.RST_CL_STAT.suspended 0 cl
      s.withBring { s.bring with clPhase := kdel s.bring.clPhase cl, rstSince := kdel s.bring.rstSince (8 + cl) }
    else s
  | _ => s

/-- RESET_PHASE_END: `fails` are the units that fail the tests of the fourth phase. -/
def execResetPhaseEnd (p : Fin 8) (cl : Option (Fin 4)) (fails : List PhysUnit) (s : State) : Res :=
  .next (match cl with
    | none => s.partPhase p fails
    | some c => s.clusterPhase (4 * p.val + c.val) fails)

/-! ## Core resets (R451, R459) -/

/-- PCp asks for unit resets beside the host and Cairn. -/
def State.mayReset (s : State) (wr : Writer) (f : Field) (i p : Nat) : Bool :=
  s.mayWrite wr f i || (match wr with | .pc q => q.val == p | _ => false)

/-- Note a reset in progress: `key` names it, `unit` the physical unit; the unit is no spare meanwhile. -/
def State.beginUnit (s : State) (key unit : Nat) : State :=
  let x := s.physOf unit
  let cl := unit % 1024 / 32
  let f := if 1024 ≤ unit then F.RST_CL_STAT.spare_spur else F.RST_CL_STAT.spare_cores
  let s := if x.spare then s.put f (s.rd f cl - 1) cl else s
  let s := s.setPhys unit { x with spare := false }
  s.withBring { s.bring with unitRst := kset s.bring.unitRst key unit }

/-- CORE_RST: a core that is not fenced yet is fenced first; a recorded defect stays fenced. -/
def execCoreRst (wr : Writer) (n : Fin 128) (s : State) : Res :=
  .next (
    let k := slotKey (n.val / 4) (s.rd F.MSF_MAP.phys_slot n)
    if s.mayReset wr F.RST_CORE_CTRL.core_rst n (n.val / 16) && n.val < s.nCores && s.domainOn (8 + n.val / 4) &&
        !s.on F.MSF_MAP.absent n && !s.on F.RST_CORE_CTRL.rst_busy n && !s.suspended (n.val / 4) && !(s.physOf k).bad then
      let s := (s.fenceCore n 1).absorbDmas (n.val / 16) fun a => match s.place a with
        | .pad c => c == n.val
        | _ => false
      ((s.clearCore n).put F.RST_CORE_CTRL.rst_busy 1 n).beginUnit n k
    else s)

/-- SPUR_RST. -/
def execSpurRst (wr : Writer) (n : Fin 512) (s : State) : Res :=
  .next (
    let k := posKey (n.val / 16) (s.rd F.SPR_MAP.phys_pos n)
    if s.mayReset wr F.RST_SPUR_CTRL.spur_rst n (n.val / 64) && n.val < s.nSpur && s.domainOn (8 + n.val / 16) &&
        !s.on F.SPR_MAP.absent n && !s.on F.RST_SPUR_CTRL.rst_busy n && !s.suspended (n.val / 16) && !(s.physOf k).bad then
      (((s.fenceSpur n 1).clearSpur n).put F.RST_SPUR_CTRL.rst_busy 1 n).beginUnit (128 + n.val) k
    else s)

/-- A unit named by its physical number: refused behind a present logical name. -/
def State.physReset (s : State) (cl unit : Nat) (behind here : Bool) : State :=
  if s.on F.RST_PHYS_RST.phys_busy cl || !s.domainOn (8 + cl) || s.suspended cl || !here then s
  else if behind then s.put F.RST_PHYS_RST.phys_refused 1 cl
  else if (s.physOf unit).bad then s
  else (s.put F.RST_PHYS_RST.phys_busy 1 cl).beginUnit (10000 + unit) unit

/-- SLOT_RST. -/
def execSlotRst (wr : Writer) (cl : Fin 32) (k : Fin 8) (s : State) : Res :=
  .next (
    if s.mayReset wr F.RST_PHYS_RST.slot_rst cl (cl.val / 4) && cl.val < s.nClusters then
      let s := s.put F.RST_PHYS_RST.slot k cl
      s.physReset cl (slotKey cl k) (s.coreBehind cl k).isSome (k.val < 5)
    else s)

/-- POS_RST. -/
def execPosRst (wr : Writer) (cl : Fin 32) (k : Fin 32) (s : State) : Res :=
  .next (
    if s.mayReset wr F.RST_PHYS_RST.pos_rst cl (cl.val / 4) && cl.val < s.nClusters then
      let s := s.put F.RST_PHYS_RST.pos k cl
      s.physReset cl (posKey cl k) (s.spurBehind cl k).isSome (k.val < 18)
    else s)

/-- The reset unit passes its tests and is its cluster's spare, or fails and is recorded. -/
def State.endUnit (s : State) (key unit : Nat) (passes : Bool) : State :=
  let cl := unit % 1024 / 32
  let spur := 1024 ≤ unit
  let x := s.physOf unit
  let s : State := s.withBring { s.bring with unitRst := kdel s.bring.unitRst key }
  if passes then
    let f := if spur then F.RST_CL_STAT.spare_spur else F.RST_CL_STAT.spare_cores
    (s.setPhys unit { x with spare := true, fenced := false, cause := 0 }).put f (s.rd f cl + 1) cl
  else (s.setPhys unit { x with bad := true, spare := false }).defect (b2n spur) 1 cl (unit % 32)

/-- CORE_RESET_END. -/
def execCoreResetEnd (u : UnitName) (passes : Bool) (s : State) : Res :=
  .next (
    let key := match u with
      | .core n => n.val
      | .spur n => 128 + n.val
      | .slot cl k => 10000 + slotKey cl k
      | .pos cl j => 10000 + posKey cl j
    match kfind s.bring.unitRst key with
    | none => s
    | some unit =>
      let s := s.endUnit key unit passes
      match u with
      | .core n => s.put F.RST_CORE_CTRL.rst_busy 0 n
      | .spur n => s.put F.RST_SPUR_CTRL.rst_busy 0 n
      | .slot cl _ => s.put F.RST_PHYS_RST.phys_busy 0 cl
      | .pos cl _ => s.put F.RST_PHYS_RST.phys_busy 0 cl)

/-! ## Power domains (R42, R43, R457, R501) -/

/-- Routers of a partition. -/
def partRouters (p : Nat) : List Nat := (span (4 * p) 4).map clRouter

/-- No work runs on a cluster, no active cell has rows there, and no pass of the partition stands between two stages: what it has computed lies in
scratchpads, cluster SRAM and banks (R42). -/
def State.clusterIdle (s : State) (cl : Nat) : Bool :=
  s.passes.all (fun x => x.part != cl / 4) && (s.cellsIn (cl / 4) (s.clRows cl)).isEmpty &&
  (span (4 * cl) 4).all (fun n => (s.core n).run.isNone) && (span (16 * cl) 16).all (fun n => (s.jobsOf n).isEmpty) &&
  ((s.partOf (cl / 4)).wl.all fun it => !(clLanes cl).contains it.lane || it.st.isOver)

/-- Nothing of a partition is left: clusters off, no active cell, no sequence, no pass. -/
def State.partIdle (s : State) (p : Nat) : Bool :=
  (span (4 * p) 4).all (fun cl => !s.domainOn (8 + cl)) && !s.partActive p && (s.seqsOf p).isEmpty &&
  s.passes.all (fun x => x.part != p) && s.rd F.RST_PART_STAT.rst_state p == 0

/-- POWER_DOMAIN_SWITCH_OFF: at run time Cairn switches cluster and partition-common domains. -/
def execPowerDomainSwitchOff (d : Fin 50) (s : State) : Res :=
  .next (
    let note (s : State) : State := (s.power [d.val] false).withBring { s.bring with downDomains := (d.val, s.nowNs) :: s.bring.downDomains }
    if !(s.procUp cairn && s.ready && s.domainOn d) then s
    else if d.val < 8 then
      let p := d.val
      if s.partIdle p then
        let s := (s.reroute (partRouters p)).putAll F.NOC_RTR.state 1 (partRouters p)
        let s := s.dropNodes fun x => x.part == p
        let s := (s.procStops (pc p)).put F.FW_PROC_STAT.pstate 3 (pc p)
        let s := (s.zeroRange (pinnedBase p) 0x2000000).zeroRange (tickBankBase p) 0x200000
        let s := (s.put F.TICK_STAT.running 0 p).put F.TICK_STAT.cur_len 0 p
        note ((s.put F.TICK_CTRL.table_len 0 p).setPart p Part.zero)
      else s
    else if d.val < 40 then
      let cl := d.val - 8
      if s.clusterIdle cl && !s.suspended cl then note (s.zeroCluster cl) else s
    else s)

/-- POWER_DOMAIN_SWITCH_ON: a domain has been off for 10 ms; a cluster's partition-common domain is on first. -/
def execPowerDomainSwitchOn (d : Fin 50) (s : State) : Res :=
  .next (
    match s.bring.downDomains.find? fun x => x.1 == d.val with
    | none => s
    | some x =>
      if !(s.procUp cairn && s.ready && (d.val < 8 || s.domainOn ((d.val - 8) / 4))) then s
      else match s.reach (x.2 + 10000000) with
        | none => s
        | some s =>
          let s := s.power [d.val] true
          let s : State := s.withBring { s.bring with downDomains := s.bring.downDomains.filter fun y => y.1 != d.val }
          if 8 ≤ d.val then s
          else
            let s := s.putAll F.NOC_RTR.state 0 (partRouters d)
            let s := s.putAll F.NOC_ROUTE.wp_valid 0 (span 0 32)
            let gone := (span 0 32).filter fun r => s.rd F.NOC_RTR.state r != 0
            (if gone.isEmpty then s else s.reroute gone).startProc (pc d))

end Sys2Proof.Machine
end

