-- ==== Sys2Proof/Machine/Security.lean ====
section
/-! DEFINITION. Cairn's outward protocols and the debug port (R423, R463, R468, R470, R475–R485, R491–R493): SPDM, MCTP, PLDM with live
update, and the debug commands but for RESUME and STEP. Response codes of SPDM, MCTP and PLDM are those of their standards. -/

namespace Sys2Proof.Machine

/-! ## Attestation (R475–R477) -/

/-- Bindings: 0 I3C, 1 PCIe. An SPDM response is answered, an error response is counted. -/
def State.spdmOk (s : State) (b code : Nat) (sign : Bool) (data : List Nat) : State :=
  (s.bump F.SEC_SPDM.spdm_req).emit (.spdm b code sign data)
def State.spdmErr (s : State) (b code : Nat) : State :=
  ((s.bump F.SEC_SPDM.spdm_req).bump F.SEC_SPDM.spdm_err).emit (.spdm b 0x7F false [code])

/-- Cairn answers when it runs; while it is down a request is answered as not ready (R417). -/
def State.spdm (s : State) (b : Nat) (go : State → State) : State :=
  if !(s.bring.powered && 2 ≤ s.rd F.RST_STAT.step) then s
  else if s.procUp cairn then go s else s.emit (.spdm b 0x7F false [0x42])

/-- A signed response: its message is kept for the ML-DSA-65 signature (R476). -/
def State.spdmSigned (s : State) (b code : Nat) (data : List Nat) : State :=
  let m := s.rd F.SEC_SPDM.spdm_req
  (s.withSec { s.sec with signed := kset s.sec.signed b m }).spdmOk b code true data

/-- GET_VERSION: SPDM 1.2. -/
def execGetVersion (b : Fin 2) (s : State) : Res := .next (s.spdm b fun s => s.spdmOk b 0x04 false [0x1200])
/-- GET_CAPABILITIES: CERT, CHAL and MEAS with signature. -/
def execGetCapabilities (b : Fin 2) (s : State) : Res := .next (s.spdm b fun s => s.spdmOk b 0x61 false [0x16])
/-- NEGOTIATE_ALGORITHMS: Ed25519 and SHA-512 are the only ones. -/
def execNegotiateAlgorithms (b : Fin 2) (ed25519 sha512 : Bool) (s : State) : Res :=
  .next (s.spdm b fun s =>
    if ed25519 && sha512 then s.spdmOk b 0x63 false [1, 1] else s.spdmErr b 0x01)
/-- GET_DIGESTS: slot 0 holds the Ed25519 chain. -/
def execGetDigests (b : Fin 2) (s : State) : Res :=
  .next (s.spdm b fun s => s.spdmOk b 0x01 false [1, Config.digest 0 s.sec.devId])
/-- GET_CERTIFICATE. -/
def execGetCertificate (b : Fin 2) (slot : Fin 8) (off len : BitVec 16) (s : State) : Res :=
  .next (s.spdm b fun s =>
    if slot.val = 0 then s.spdmOk b 0x02 false [0, off.toNat, len.toNat] else s.spdmErr b 0x01)
/-- CHALLENGE: a signed response over the requester's nonce. -/
def execChallenge (b : Fin 2) (slot : Fin 8) (nonce : BitVec 256) (s : State) : Res :=
  .next (s.spdm b fun s =>
    if slot.val = 0 then s.spdmSigned b 0x03 [0, nonce.toNat, s.sec.devId] else s.spdmErr b 0x01)

/-- What measurement `i` reports (R477). -/
def State.measurement (s : State) (i : Nat) : Nat :=
  let img := s.imageOf s.bring.slot
  let dig (k : Nat) : Nat := (img.sectDig.getD k 0).toNat
  match i with
  | 1 => Config.digest 1 0
  | 2 => dig 6
  | 3 => (s.sectOn 0).2
  | 4 => (s.sectOn 1).2
  | 5 => (s.sectOn 2).2
  | 6 => (s.sectOn 3).2
  | 7 => dig 4
  | 8 => dig 5
  | 9 => Config.digest 9 s.bring.dcrSerial
  | 10 => Config.digest 10 (s.rd F.SEC_ENT.ent_serial)
  | 11 => Config.digest 11 (s.rd F.RST_DM.dm_gen)
  | 12 => leVal (
      [F.SEC_STAT.dbg_taint, F.FW_IMAGE.trial, F.FW_IMAGE.patched, F.FW_IMAGE.fallback, F.FW_IMAGE.cur_slot].flatMap
        (fun f => leBytes 1 (s.rd f)) ++ leBytes 3 0 ++ leBytes 4 (s.rd F.SEC_SVN.svn) ++ leBytes 4 (s.rd F.SEC_STAT.unlock_cnt))
  | _ => s.sec.chain.foldr (fun d h => digestOf (leBytes 64 h ++ leBytes 64 d)) 0

/-- GET_MEASUREMENTS: index 0 asks how many, 0xFF for all; taken at one instant. -/
def execGetMeasurements (b : Fin 2) (index : BitVec 8) (sign : Bool) (nonce : BitVec 256) (s : State) : Res :=
  .next (s.spdm b fun s =>
    let i := index.toNat
    let ms := if i = 0 then [13] else if i = 0xFF then (span 1 13).map s.measurement else [s.measurement i]
    if 13 < i && i != 0xFF then s.spdmErr b 0x01
    else if sign then s.spdmSigned b 0x60 (nonce.toNat :: ms)
    else s.spdmOk b 0x60 false ms)

/-- VENDOR_MLDSA_SIGNATURE: over the message of the last signed response on this connection. -/
def execVendorMldsaSignature (b : Fin 2) (s : State) : Res :=
  .next (s.spdm b fun s =>
    match kfind s.sec.signed b with
    | some m => s.spdmOk b 0x7E true [1, m]
    | none => s.spdmErr b 0x04)
/-- VENDOR_MLDSA_CHAIN. -/
def execVendorMldsaChain (b : Fin 2) (off len : BitVec 16) (s : State) : Res :=
  .next (s.spdm b fun s => s.spdmOk b 0x7E false [2, off.toNat, len.toNat])

/-! ## MCTP and monitoring (R491) -/

/-- MCTP_CONTROL: the bus owner sets or asks the endpoint ID. -/
def execMctpControl (b : Fin 2) (setEid : Option (BitVec 8)) (s : State) : Res :=
  .next (
    if !(s.bring.powered && 2 ≤ s.rd F.RST_STAT.step) then s
    else if !s.procUp cairn then s.emit (.mctp b 4)
    else match setEid with
      | some e => (s.withSec { s.sec with eids := kset s.sec.eids b e.toNat }).emit (.mctp b 0)
      | none => s.emit (.mctp b 0))

/-- The sensors in the model's numbering: 0–209 temperatures, 256 + 2d and 257 + 2d voltage and current of domain d, 512–514
the input, 515 `share`, 516 `dbg_state`. -/
def State.sensor (s : State) (n : Nat) : Option Nat :=
  if n < 210 then (if s.on F.MGT_TEMP.valid n then some (s.rd F.MGT_TEMP.temp n) else none)
  else if n < 256 then none
  else if n < 356 then
    let d := (n - 256) / 2
    if s.on F.MGT_PD.pd_valid d then some (if n % 2 = 0 then s.rd F.MGT_PD.mv d else s.rd F.MGT_PD.ma d) else none
  else match n with
    | 512 => some (s.rd F.MGT_IN.vin_mv) | 513 => some (s.rd F.MGT_IN.iin_ma) | 514 => some (s.rd F.MGT_IN.pin_w)
    | 515 => some (s.rd F.MGT_THR.share) | 516 => some (s.rd F.SEC_STAT.dbg_state) | _ => none

/-- PLDM answers: completion code and value. -/
def State.pldm (s : State) (b : Nat) (go : State → State) : State :=
  if !(s.bring.powered && 2 ≤ s.rd F.RST_STAT.step) then s else if s.procUp cairn then go s else s.emit (.pldm b 4 0)

/-- PLDM_MONITORING. -/
def execPldmMonitoring (b : Fin 2) (sensor : BitVec 16) (s : State) : Res :=
  .next (s.pldm b fun s => match s.sensor sensor.toNat with
    | some v => s.emit (.pldm b 0 v)
    | none => s.emit (.pldm b 0x80 0))

/-! ## Update (R423, R492, R493) -/

/-- REQUEST_UPDATE: one session across both bindings. -/
def execRequestUpdate (b : Fin 2) (s : State) : Res :=
  .next (s.pldm b fun s =>
    match s.sec.session with
    | some _ => s.emit (.pldm b 0x81 0)
    | none => ((s.withSec { s.sec with session := some b.val }).put F.MGT_UPD.pldm_state 1).emit (.pldm b 0 0))

/-- A component has been handled: its status, the state the unit is left in; the session ends with it. -/
def State.endComponent (s : State) (b comp status pend : Nat) : State :=
  let s := ((s.put F.MGT_UPD.comp_id comp).put F.MGT_UPD.pldm_status status).put F.MGT_UPD.pldm_state (if pend = 0 then 0 else 5)
  let s := if pend = 0 then s else s.put F.MGT_UPD.act_pend 1
  (s.withSec { s.sec with session := none }).emit (.pldm b 0 status)

/-- A component is taken only in the session of its binding. -/
def State.component (s : State) (b : Nat) (go : State → State) : State :=
  s.pldm b fun s => if s.sec.session = some b then go s else s.emit (.pldm b 0x80 0)

/-- PLDM_COMPONENT_IMAGE: a whole image goes to the inactive slot, never over a confirmed one on trial. -/
def execPldmComponentImage (b : Fin 2) (img : SlotImage) (sigOk writeOk : Bool) (s : State) : Res :=
  .next (s.component b fun s =>
    let k := 1 - s.rd F.FW_IMAGE.cur_slot
    let put (i : SlotImage) (s : State) : State := s.withBring { s.bring with images := s.bring.images.set k i }
    if s.on F.FW_IMAGE.trial then s.endComponent b 1 St.notSupported 0
    else if !(sigOk && img.stage1Ok && img.restOk) then (s.badSignature 5).endComponent b 1 St.imageInvalid 0
    else if img.svn.toNat < s.rd F.SEC_SVN.min_svn || img.keyGen.toNat < s.rd F.SEC_ENT.min_key_gen then
      s.endComponent b 1 St.imageInvalid 0
    else if writeOk then (put img s).endComponent b 1 St.ok 1
    else (put { img with stage1Ok := false, restOk := false } s).endComponent b 1 St.imageInvalid 0)

/-- PLDM_COMPONENT_DCR: the record goes to the copy not in use. -/
def execPldmComponentDcr (b : Fin 2) (d : Dcr) (writeOk : Bool) (s : State) : Res :=
  .next (s.component b fun s =>
    let put (d : Dcr) (s : State) : State := s.withBring { s.bring with dcrNext := some d }
    let ok := d.sigOk && d.ent.any s.entOk
    if !ok then
      (if d.sigOk && d.ent.any (·.sigOk) then s else s.badSignature 6).endComponent b 0x20 St.imageInvalid 0
    else if writeOk then (put d s).endComponent b 0x20 St.ok 1
    else (put { d with sigOk := false } s).endComponent b 0x20 St.imageInvalid 0)

/-- The next controller that takes a PC section: ascending, the coordinator last; held ones take it at their next restart
(R423). -/
def State.nextPc (s : State) : Option Nat :=
  let ps := (span 0 8).filter fun p => (s.proc (pc p)).sectPend.isSome && s.rd F.FW_PROC_STAT.pstate (pc p) == 0
  match ps.find? fun p => s.coord != some p with
  | some p => some p
  | none => ps.head?

/-- Go on with a PC section, or end the update. -/
def State.goOnUpdate (s : State) : State :=
  match s.nextPc with
  | some p => s.restart (pc p) 5
  | none =>
    let s := s.logRec 3 5 3 [3, ((s.sec.pcPrev).getD (0, 0)).1, (s.sectOn 3).1, 2]
    (s.withSec { s.sec with pcPrev := none }).put F.FW_UPDATE.upd_state 2

/-- A verified section becomes the current one of its processor, or of every controller. -/
def State.applySect (s : State) (x : SectionImage) : State :=
  let k := x.sect.val
  let v := (x.version.toNat, x.digest.toNat)
  let is := if k < 3 then [k] else (span 3 8).filter fun i => s.rd F.FW_PROC_STAT.pstate i != 4
  let old := s.sectOn k
  let s := s.logRec k 5 3 [k, old.1, v.1, 1]
  let s := is.foldl (fun s i => s.setProc i { s.proc i with sectPend := some v }) s
  let s : State := (s.withSec { s.sec with
    chain := v.2 :: s.sec.chain, pcPrev := if k < 3 then s.sec.pcPrev else some old })
  let s := ((s.put F.FW_IMAGE.patched 1).put F.FW_UPDATE.upd_state 1).put F.FW_UPDATE.upd_sect k
  if k < 3 then (if s.rd F.FW_PROC_STAT.pstate k = 2 then s else s.restart k 5) else s.goOnUpdate

/-- PLDM_COMPONENT_SECTION. -/
def execPldmComponentSection (b : Fin 2) (sec : SectionImage) (s : State) : Res :=
  .next (s.component b fun s =>
    let k := sec.sect.val
    let kct := ((s.imageOf s.bring.slot).sectDig.getD 4 0)
    let st := if !sec.sigOk then St.imageInvalid
      else if 3 < k || sec.major.toNat != s.rd F.HOST_VER.dev_major || sec.kctDig != kct then St.notSupported
      else if s.rd F.FW_UPDATE.upd_state = 1 then St.busy else St.ok
    let s := (if sec.sigOk then s else s.badSignature 7).put F.FW_UPDATE.upd_status st
    let s := s.endComponent b (0x10 + k) st 0
    if st = St.ok then s.applySect sec else s)

/-! ## The debug port (R478–R485) -/

/-- The port answers: powered, and not switched off by the DCR. -/
def State.dbgOn (s : State) : Bool := s.bring.powered && !s.bring.inReset && s.on F.SEC_DBG.dbg_en
def State.unlocked (s : State) : Bool := s.rd F.SEC_STAT.dbg_state == 1

/-- A response frame. -/
def State.answer (s : State) (cmd : Nat) (seq : Byte) (status : Nat) (data : List Byte := []) : State :=
  s.emit (.dbg (cmd + 0x80) seq.toNat status data)

/-- A command with permission bit `perm`: none while the port is locked. -/
def State.dbgCmd (s : State) (cmd : Nat) (seq : Byte) (perm : Nat) (go : State → State) : State :=
  if !s.dbgOn then s
  else if !(s.unlocked && bit s.sec.perm perm) then s.answer cmd seq St.notSupported
  else go s

/-- A target (R480). -/
inductive Target where
  | proc (i : Nat)
  | thread (th : Nat)
  | absent
  deriving DecidableEq, Repr

def State.target (s : State) (tgt : BitVec 16) : Target :=
  let v := tgt.toNat
  if v / 4096 = 0 then
    (if v < 11 && s.rd F.FW_PROC_STAT.pstate v < 3 then .proc v else .absent)
  else if v / 4096 = 1 then
    let n := bits v 11 3
    if n < s.nSpur && s.domainOn (8 + n / 16) && !s.on F.SPR_MAP.absent n then .thread (v % 4096) else .absent
  else .absent

/-- Permission bit of a target's kind. -/
def tgtPerm (tgt : BitVec 16) : Nat := if tgt.toNat / 4096 = 0 then 0 else 1

/-- The target is halted. -/
def State.tgtHalted (s : State) : Target → Bool
  | .proc i => (s.proc i).dbgHalt
  | .thread th => (s.thread th).dbg
  | .absent => false

/-- Its pc: a firmware processor's is its firmware's. -/
def State.tgtPc (s : State) : Target → State × Nat
  | .proc _ => (s.drawn, s.fresh .firmware % 2 ^ 64)
  | .thread th => (s, (s.thread th).pc.toNat)
  | .absent => (s, 0)

/-- The nonce of the last HELLO. -/
def State.nonce (s : State) : Nat := Config.free .nonce s.sec.nonces % 2 ^ 256

/-- HELLO: a fresh nonce. -/
def execHello (seq : Byte) (s : State) : Res :=
  .next (
    if !s.dbgOn then s
    else
      let s : State := s.withSec { s.sec with nonces := s.free, nonceLive := true, nonceAt := s.nowNs }
      s.drawn.answer 1 seq St.ok (leBytes 16 s.sec.devId ++ leBytes 1 (s.rd F.SEC_STAT.dbg_state) ++ leBytes 3 0 ++ leBytes 32 s.nonce))

/-- UNLOCK's checks (R481). -/
def State.tokenOk (s : State) (t : DebugToken) : Bool :=
  let signer := (t.signer == 0 && bit (s.rd F.SEC_ENT.dbg_policy) 0) || (t.signer == 1 && bit (s.rd F.SEC_ENT.dbg_policy) 1)
  t.magic == 0x4D584454 && signer && t.sigOk && t.devId.toNat == s.sec.devId && s.sec.nonceLive &&
  t.nonce.toNat == s.nonce && s.nowNs < s.sec.nonceAt + 60000000000

/-- Open work of every partition stops and is charged to no slice (R482, R504). -/
def State.stopOpen (s : State) : State := (span 0 8).foldl (fun s p => s.stopWork p s.cycNow .clamp) s

/-- An address of open-row SRAM: a scratchpad outside its reserved region, or cluster SRAM (R482). -/
def State.openSram (s : State) (a : Nat) : Bool :=
  if a < padBase 0 || clSramBase 32 ≤ a then false
  else if a < clSramBase 0 then
    let r := s.spRsv ((a - padBase 0) / 0x800000)
    !(r.1 ≤ a && a < r.1 + r.2)
  else true

/-- What the device zeroises before it unlocks (R482). -/
def State.zeroise (s : State) : State :=
  let s := (span 0 4096).foldl (fun s n =>
    if s.sliceState n = unbound then s
    else if s.sliceState n = scrubbing then s.setSlice n { s.slice n with emptyKeys := true }
    else s.startScrub n true) s
  let s := s.stopOpen
  let s := (s.keys.filter fun k => k.1 < devKey).foldl (fun s k => s.emptyKey k.1) s
  let s : State := s.withSec { s.sec with domKey := false, domVal := 0, bootKey := false }
  let s := s.put F.SEC_KEYS.dom_key 0
  let s := ((span 0 36).filter s.linkActive).foldl (fun s l =>
    (s.setLinkRec l { s.link l with auth := false }).setLk l lkTrained) s
  let s' := (s.memKeep fun a => !s.openSram a).poisonKeep fun a => !s.openSram a
  (s'.withCores (kmapv s.cores fun _ c => { c with fg := [], fgSeed := none })).withThreads
    (kmapv s.threads fun _ t => { t with dc := if (t.job.bind (kfind s.jobs)).any (·.radio) then t.dc else [] })

/-- A failed UNLOCK; the third in a row locks the port out. -/
def State.unlockFailed (s : State) (seq : Byte) : State :=
  let s := s.bump F.SEC_STAT.tok_fail
  let s : State := s.withSec { s.sec with fails := s.sec.fails + 1 }
  let s := if s.sec.fails < 3 then s
    else
      let s : State := s.withSec { s.sec with fails := 0, lockUntil := s.nowNs + 60000000000 }
      ((s.put F.SEC_STAT.dbg_state 2).put F.SEC_STAT.sec_evt 1).event 8 1 Ev.lockout 0
  s.answer 2 seq St.imageInvalid

/-- UNLOCK. -/
def execUnlock (seq : Byte) (t : DebugToken) (s : State) : Res :=
  .next (
    if !s.dbgOn then s
    else if s.rd F.SEC_STAT.dbg_state = 2 then s.answer 2 seq St.busy
    else if !s.tokenOk t then (if t.sigOk then s else s.badSignature 8).unlockFailed seq
    else
      let s := s.zeroise
      let s : State := s.withSec { s.sec with nonceLive := false, fails := 0, perm := t.perm.toNat }
      let s := ((s.put F.SEC_STAT.dbg_state 1).put F.SEC_STAT.dbg_taint 1).bump F.SEC_STAT.unlock_cnt
      let s := (s.eventEntry (Config.hostEvent 10) 0).put F.SEC_STAT.sec_evt 1
      (s.event 8 1 Ev.debug t.signer.toNat).answer 2 seq St.ok)

/-- LOCK. -/
def execLock (seq : Byte) (s : State) : Res :=
  .next (
    if !s.dbgOn then s
    else if s.unlocked then
      ((s.withSec { s.sec with perm := 0 }).put F.SEC_STAT.dbg_state 0).answer 3 seq St.ok
    else s.answer 3 seq St.notSupported)

/-- LOCKOUT_EXPIRY. -/
def execLockoutExpiry (s : State) : Res :=
  .next (
    if s.rd F.SEC_STAT.dbg_state = 2 then
      ((s.reach s.sec.lockUntil).map fun s => s.put F.SEC_STAT.dbg_state 0).getD s
    else s)

/-- STATUS: its target fields are 0 while the port is locked. -/
def execStatus (seq : Byte) (tgt : BitVec 16) (s : State) : Res :=
  .next (
    if !s.dbgOn then s
    else if !s.unlocked then s.answer 4 seq St.ok (leBytes 9 0)
    else match s.target tgt with
      | .absent => s.answer 4 seq St.addrUnmapped (leBytes 1 2 ++ leBytes 8 0)
      | t =>
        let r := s.tgtPc t
        r.1.answer 4 seq St.ok (leBytes 1 (b2n (s.tgtHalted t)) ++ leBytes 8 r.2))

/-- SPEED: the response still goes at the old rate. -/
def execSpeed (seq code : Byte) (s : State) : Res :=
  .next (
    if !s.dbgOn then s
    else if 3 < code.toNat then s.answer 5 seq St.badCommand
    else (s.answer 5 seq St.ok).put F.SEC_DBG.dbg_rate code.toNat)

/-- DEBUG_FRAME_ERROR. -/
def execDebugFrameError (s : State) : Res := .next (if s.dbgOn then s.bump F.SEC_DBG.crc_err else s)

/-- A command on a target: refused without permission, and where the target is absent. -/
def State.onTarget (s : State) (cmd : Nat) (seq : Byte) (tgt : BitVec 16) (go : Target → State → State) : State :=
  s.dbgCmd cmd seq (tgtPerm tgt) fun s =>
    match s.target tgt with
    | .absent => s.answer cmd seq St.addrUnmapped
    | t => go t s

/-- Halt a firmware processor: its watchdog holds what is left, and it counts as down (R484). -/
def State.haltProc (s : State) (i : Nat) : State :=
  if (s.proc i).dbgHalt then s
  else
    let s := if s.procUp i then s.procQuiet i else s
    s.setProc i { s.proc i with dbgHalt := true, wdDue := (s.proc i).wdDue - s.nowNs }

/-- DEBUG_HALT. A thread without a job has nothing to halt. -/
def execDebugHalt (seq : Byte) (tgt : BitVec 16) (s : State) : Res :=
  .next (s.onTarget 0x10 seq tgt fun t s =>
    match t with
    | .proc i => (s.haltProc i).answer 0x10 seq St.ok
    | .thread th =>
      let x := s.thread th
      (if x.job.isSome then s.setThread th { x with dbg := true } else s).answer 0x10 seq St.ok
    | .absent => s)

/-- BP_SET. -/
def execBpSet (seq : Byte) (tgt : BitVec 16) (index mask : Byte) (addr : Word) (s : State) : Res :=
  .next (s.onTarget 0x13 seq tgt fun t s =>
    let i := index.toNat
    match t with
    | .proc p =>
      if 8 ≤ i then s.answer 0x13 seq St.badCommand
      else (s.setProc p { s.proc p with bps := kset (s.proc p).bps i addr.toNat }).answer 0x13 seq St.ok
    | .thread th =>
      if 4 ≤ i then s.answer 0x13 seq St.badCommand
      else if mask = 0 then s.answer 0x13 seq St.ok
      else
        let bs := ((kget s.sec.spurBps (th / 8) []).filter fun b => b.1 != i) ++ [(i, mask.toNat, addr.toNat)]
        (s.withSec { s.sec with spurBps := kset s.sec.spurBps (th / 8) bs }).answer 0x13 seq St.ok
    | .absent => s)

/-- BP_CLR. -/
def execBpClr (seq : Byte) (tgt : BitVec 16) (index : Byte) (s : State) : Res :=
  .next (s.onTarget 0x14 seq tgt fun t s =>
    let i := index.toNat
    match t with
    | .proc p =>
      if 8 ≤ i then s.answer 0x14 seq St.badCommand
      else (s.setProc p { s.proc p with bps := kdel (s.proc p).bps i }).answer 0x14 seq St.ok
    | .thread th =>
      if 4 ≤ i then s.answer 0x14 seq St.badCommand
      else
        let bs := (kget s.sec.spurBps (th / 8) []).filter fun b => b.1 != i
        (s.withSec { s.sec with spurBps := kset s.sec.spurBps (th / 8) bs }).answer 0x14 seq St.ok
    | .absent => s)

/-- A Spur register by its debug number (R484). -/
def State.dbgReg (s : State) (th r : Nat) : Option Nat :=
  let t := s.thread th
  if r < 32 then some (t.rg (Fin.ofNat 32 r)).toNat
  else if r < 40 then some t.a[Fin.ofNat 8 r].toNat
  else if r < 48 then some t.cb[Fin.ofNat 8 r].toNat
  else if r < 56 then some t.cl[Fin.ofNat 8 r].toNat
  else if r < 60 then some t.lc[Fin.ofNat 4 r].toNat
  else if r < 64 then some t.acc[Fin.ofNat 4 r].toNat
  else if r = 64 then some t.pc.toNat
  else (s.special th (r - 65)).map BitVec.toNat

/-- Write one; nothing where it is read-only or does not exist. -/
def State.setDbgReg (s : State) (th r v : Nat) : Option State :=
  let t := s.thread th
  let put (t : Thread) : Option State := some (s.setThread th t)
  if r < 32 then put (t.wg (Fin.ofNat 32 r) (BitVec.ofNat 64 v))
  else if r < 40 then put (t.wa (Fin.ofNat 8 r) (BitVec.ofNat 48 v))
  else if r < 48 then put { t with cb := t.cb.set (Fin.ofNat 8 r) (BitVec.ofNat 48 v) }
  else if r < 56 then put { t with cl := t.cl.set (Fin.ofNat 8 r) (BitVec.ofNat 24 v) }
  else if r < 60 then put { t with lc := t.lc.set (Fin.ofNat 4 r) (BitVec.ofNat 24 v) }
  else if r < 64 then put { t with acc := t.acc.set (Fin.ofNat 4 r) (BitVec.ofNat 80 v) }
  else if r = 64 then put { t with pc := BitVec.ofNat 48 v }
  else if r = 66 then put { t with sat := bit v 0, cvtOvf := bit v 1 }
  else none

/-- REG_RD. The registers of a firmware processor are its firmware's. -/
def execRegRd (seq : Byte) (tgt : BitVec 16) (reg : BitVec 16) (s : State) : Res :=
  .next (s.onTarget 0x15 seq tgt fun t s =>
    match t with
    | .thread th => match s.dbgReg th reg.toNat with
      | some v => s.answer 0x15 seq St.ok (leBytes 16 v)
      | none => s.answer 0x15 seq St.badCommand
    | _ => s.drawn.answer 0x15 seq St.ok (leBytes 16 (s.fresh .firmware)))

/-- REG_WR: permission 4 besides, and a halted target. -/
def execRegWr (seq : Byte) (tgt : BitVec 16) (reg : BitVec 16) (value : BitVec 128) (s : State) : Res :=
  .next (s.dbgCmd 0x16 seq 4 fun s => s.onTarget 0x16 seq tgt fun t s =>
    if !s.tgtHalted t then s.answer 0x16 seq St.busy
    else match t with
      | .thread th => match s.setDbgReg th reg.toNat value.toNat with
        | some s => s.answer 0x16 seq St.ok
        | none => s.answer 0x16 seq St.badCommand
      | _ => s.answer 0x16 seq St.ok)

/-- The key index that a line is stored under: the device's where nothing has been written. -/
def State.lineIdx (s : State) (a : Nat) : Nat := ((kfind s.lineKey (a / 64)).map (·.1)).getD devKey

/-- Status of a debug access, line by line. A tick-table bank has no writer but its partition controller (R74). -/
def State.dbgStatus (s : State) (a n : Nat) (read stored : Bool) : Nat :=
  (linesOf a n).foldl (fun st l =>
    if st ≠ St.ok then st
    else
      let lo := max a (64 * l)
      let m := min (a + n) (64 * l + 64) - lo
      let k := s.lineIdx lo
      if stored then (if s.place lo = .unmapped then St.addrUnmapped else St.ok)
      else if read then s.rdStatus lo m k else if s.isBank lo then St.regionFault else s.accStatus lo m k) St.ok

/-- One byte as a debug read gives it. -/
def State.dbgByte (s : State) (a : Nat) (stored : Bool) : Byte :=
  match s.place a with
  | .regs => BitVec.ofNat 8 (s.regRead ((a - 0xFF0000000000) / 8 * 8) / 2 ^ (8 * (a % 8)))
  | .dram =>
    let k := s.lineIdx a
    if stored then
      let e := ((kfind s.lineKey (a / 64)).map (·.2)).getD 0
      (s.cipher16 (a / 16 * 16) k e).getD (a % 16) 0
    else s.byteRd a k
  | _ => Memory.byte s.mem a

/-- MEM_RD. -/
def execMemRd (seq : Byte) (addr : Word) (len : BitVec 16) (mode : Byte) (s : State) : Res :=
  .next (s.dbgCmd 0x20 seq 2 fun s =>
    let a := addr.toNat
    let n := len.toNat
    if n = 0 then s.answer 0x20 seq St.ok
    else if 4092 < n || 1 < mode.toNat then s.answer 0x20 seq St.badCommand
    else
      let st := s.dbgStatus a n true (mode == 1)
      if st ≠ St.ok then s.answer 0x20 seq st
      else s.answer 0x20 seq St.ok ((List.range n).map fun i => s.dbgByte (a + i) (mode == 1)))

/-- MEM_WR: the register space takes whole 8-byte words, with the write rights of Cairn, which runs the port (DESIGN CHOICE, log 55: R15 names
no rights for the debug port). -/
def execMemWr (seq : Byte) (addr : Word) (mode : Byte) (data : List Byte) (s : State) : Res :=
  .next (s.dbgCmd 0x21 seq 3 fun s =>
    let a := addr.toNat
    let n := data.length
    if mode ≠ 0 || 4092 < n then s.answer 0x21 seq St.badCommand
    else if n = 0 then s.answer 0x21 seq St.ok
    else
      let st := s.dbgStatus a n false false
      if st ≠ St.ok then s.answer 0x21 seq st
      else
        let s := if s.place a = .regs then
            ((List.range (n / 8)).foldl (fun s i =>
              s.regWrite .cairn (a - 0xFF0000000000 + 8 * i) (leVal ((data.drop (8 * i)).take 8))) s)
          else (linesOf a n).foldl (fun s l =>
            let lo := max a (64 * l)
            s.store lo ((data.drop (lo - a)).take (min (a + n) (64 * l + 64) - lo)) (s.lineIdx lo)) s
        s.answer 0x21 seq St.ok)

end Sys2Proof.Machine
end

