-- ==== Sys2Proof/Machine/Power.lean ====
section
/-! DEFINITION. Sensors, the event log's NOR half, and the hardware protections (R486, R489, R497, R500, R501, R503–R506, R514). -/

namespace Sys2Proof.Machine

/-! ## Sensors (R486) -/

/-- Domains whose power a temperature point needs: any of them. -/
def pointDomains (k : Nat) : List Nat :=
  if k < 192 then
    let d := k / 48
    if k % 48 < 40 then [8 + 8 * d + k % 48 / 5] else [2 * d, 2 * d + 1]
  else if k < 201 then [40, 41, 44, 46, 48] else [49]

/-- The point's domain is on and not withheld. -/
def State.pointOn (s : State) (k : Nat) : Bool := (pointDomains k).any s.domainOn

/-- A temperature outside its limits (R506), in 1/8 °C. -/
def tempOut (t : Int) : Bool := t < 0 || 840 < t

/-- A temperature or rail left its limit: a warm token is no longer clean (R448). -/
def State.dirty (s : State) : State :=
  s.withBring { s.bring with token := s.bring.token.map fun t => { t with clean := false } }

/-- A domain's rail in mV is off its set value by more than 3 % (R499): the die's VCORE, VIO, VAUX. -/
def State.railOut (s : State) (d mv : Nat) : Bool :=
  let v := if d < 8 then s.bring.vcore[d / 2]?.getD 0 else if d < 40 then s.bring.vcore[(d - 8) / 8]?.getD 0 else if d < 49 then 750 else 800
  v != 0 && (mv * 100 < v * 97 || v * 103 < mv * 100)

/-- One temperature point. -/
def State.sampleTemp (s : State) (k : Nat) (t : BitVec 16) : State :=
  if !s.pointOn k then s.put F.MGT_TEMP.valid 0 k
  else
    let first := !s.on F.MGT_TEMP.valid k && s.rd F.MGT_TEMP.temp_max k == 0
    let s := ((s.put F.MGT_TEMP.valid 1 k).put F.MGT_TEMP.temp t.toNat k).putS F.MGT_TEMP.temp_max
      (if first then t.toInt else max (s.rdS F.MGT_TEMP.temp_max k) t.toInt) k
    if tempOut t.toInt then s.dirty else s

/-- SENSOR_SAMPLE: the points in order; voltage and current of domains and of the input. -/
def execSensorSample (temps : List (BitVec 16)) (pd : List (Fin 50 × Nat × Nat)) (vinMv iinMa : Nat) (s : State) : Res :=
  .next (
    if !s.procUp cairn then s
    else
      let s := (temps.take 210).zipIdx.foldl (fun s x => s.sampleTemp x.2 x.1) s
      let s := (span 0 50).foldl (fun s d => s.put F.MGT_PD.pd_valid (b2n (s.domainOn d)) d) s
      let s := pd.foldl (fun s x =>
        if s.domainOn x.1 then
          let s := (s.put F.MGT_PD.mv x.2.1 x.1).put F.MGT_PD.ma x.2.2 x.1
          if s.railOut x.1 x.2.1 then s.dirty else s
        else s) s
      let s := (s.put F.MGT_IN.vin_mv vinMv).put F.MGT_IN.iin_ma iinMa
      let s := s.put F.MGT_IN.pin_w (vinMv * iinMa / 1000000)
      if vinMv < 60000 ∨ 80000 < vinMv then s.dirty else s)

/-! ## The event log's NOR half (R489) -/

/-- EVENT_LOG_NOR_WRITE: the queued records; a full half makes the other one be erased. A failed write leaves them in the RAM window
only. -/
def execEventLogNorWrite (ok : Bool) (s : State) : Res :=
  .next (
    if !s.procUp cairn || s.mgt.norQueue.isEmpty then s
    else
      let m := s.mgt
      if ok then
        let log := m.norQueue.reverse ++ m.nor
        let n := (log.head?).elim 0 fun r => r.seq % 65536
        s.withMgt { m with norQueue := [], nor := log.take (65536 + n + 1) }
      else (s.withMgt { m with norQueue := [] }).put F.MGT_LOG_STAT.nvm_err 1)

/-! ## Clamps (R503, R504) -/

/-- The protections watch: the input is up and no trip holds. -/
def State.guarded (s : State) : Bool := s.bring.powered && !s.bring.tripped

/-- CLAMP's register view. -/
def State.showClamp (s : State) : State :=
  (s.put F.MGT_PROT.clamp_act (b2n (s.mgt.pwrClamp || s.mgt.thmClamp))).put F.MGT_PROT.clamp_cause
    (b2n s.mgt.pwrClamp + 2 * b2n s.mgt.thmClamp)

/-- A clamp is set: open work aborts, uncharged. -/
def State.setClamp (s : State) (m : MgtState) (data : Nat) : State :=
  let s := (s.withMgt { m with justCleared := false }).showClamp
  let s := (s.put F.MGT_PROT.clamp_evt 1).bump F.MGT_PROT.clamp_cnt
  (s.stopOpen).event 9 2 Ev.clamp data

/-- POWER_CLAMP: the mean over 100 µs. -/
def execPowerClamp (meanW : Nat) (ns : Fin 125000) (s : State) : Res :=
  .next (
    if s.guarded && 3150 < meanW && !s.mgt.pwrClamp then
      let s := s.atNs ns
      s.setClamp { s.mgt with pwrClamp := true } meanW
    else s)

/-- THERMAL_CLAMP: a valid point at 105 °C. -/
def execThermalClamp (point : Fin 210) (temp : BitVec 16) (ns : Fin 125000) (s : State) : Res :=
  .next (
    if s.guarded && s.pointOn point && 840 ≤ temp.toInt && !s.mgt.thmClamp then
      let s := s.atNs ns
      s.setClamp { s.mgt with thmClamp := true } (point.val + 256 * temp.toNat)
    else s)

/-- CLAMP_CLEAR: input power `v` below 2,900 W, or the hottest point `v` (1/8 °C) at 100 °C or less. When no clamp is left, open work
resumes at the next commit instant. -/
def execClampClear (x : ClampReading) (s : State) : Res :=
  .next (
    let m := s.mgt
    let was := if x.power then m.pwrClamp else m.thmClamp
    if !was || !(if x.power then x.value < 2900 else x.value ≤ 800) then s
    else
      let m := if x.power then { m with pwrClamp := false } else { m with thmClamp := false }
      (s.withMgt { m with justCleared := !(m.pwrClamp || m.thmClamp) }).showClamp)

/-! ## Trips (R500, R501, R505) -/

/-- PD00–PD48 lose their power: what is left lives in PD49 or on the card. -/
def State.dropPower (s : State) : State :=
  let keep (k : Nat × Nat) : Bool :=
    let a := k.1 / 8
    (0x100000 ≤ a && a < 0x200000) || (0xB00000 ≤ a && a < 0xF00000)
  let r : State := { State.reset with
    pending := s.pending, hostMem := s.hostMem, hostBad := s.hostBad, time := s.time, procs := s.procs, sec := s.sec
    mgt := { s.mgt with pwrClamp := false, thmClamp := false, justCleared := false, halfTicks := 0 }, keys := s.keys
    sramUe := s.sramUe, free := s.free, out := s.out, planHdr := s.planHdr
    bring := { s.bring with tripped := true, clPhase := [], rstSince := [], unitRst := [], downDomains := [] }
    regs := s.regs.filter keep }
  let r := (r.put F.RST_PD_STAT.pd_on (2 ^ 49)).showClamp
  let r := (span 0 s.nPart).foldl (fun r p => r.put F.FW_PROC_STAT.pstate 3 (pc p)) r
  let r := (r.putAll F.RST_PART_STAT.rst_state 0 (span 0 8)).putAll F.RST_CL_STAT.suspended 0 (span 0 32)
  r.put F.RST_STAT.ready 0

/-- A trip. -/
def State.trip (s : State) (cause point : Nat) : State :=
  let o := s
  let s := (s.dropPower.dirty.put F.MGT_PROT.trip_cause cause).put F.MGT_PROT.trip_point point
  let s : State := s.withMgt { s.mgt with fault := true, pwrgd := false }
  ((s.showFault o).emit (.pinOut 1 0)).service 9 Ev.trip (cause + 256 * point)

/-- THERMAL_TRIP: a point at 115 °C. -/
def execThermalTrip (point : Fin 210) (temp : BitVec 16) (s : State) : Res :=
  .next (if s.guarded && s.pointOn point && 920 ≤ temp.toInt then s.trip 1 point else s)

/-- INPUT_OVERCURRENT_TRIP: above 60 A. -/
def execInputOvercurrentTrip (ma : Nat) (s : State) : Res :=
  .next (if s.guarded && 60000 < ma then s.trip 2 255 else s)

/-- Trip current of a domain in mA. -/
def tripMa (d : Nat) : Nat :=
  if d < 8 then 60000 else if d < 40 then 180000 else if d < 44 then 60000 else if d < 46 then 30000
  else if d < 48 then 60000 else if d = 48 then 15000 else 20000

/-- DOMAIN_OVERCURRENT_TRIP. -/
def execDomainOvercurrentTrip (d : Fin 50) (ma : Nat) (s : State) : Res :=
  .next (if s.guarded && s.domainOn d && tripMa d < ma then s.trip 3 d else s)

/-- CONVERTER_FAULT: the first lowers the limit, the second trips. -/
def execConverterFault (c : Fin 4) (s : State) : Res :=
  .next (
    let v := s.rd F.MGT_PROT.conv_fault
    if !s.guarded || bit v c then s
    else
      let s := s.put F.MGT_PROT.conv_fault (v + 2 ^ c.val)
      if v = 0 then s.effLimit.service 9 Ev.converter c.val else s.trip 3 255)

/-! ## The input (R497, R503) -/

/-- Every domain loses its power: the NOR and the card keep what they hold. -/
def State.powerOff (s : State) : State :=
  let b := s.bring
  let r : State := { State.reset with
    pending := s.pending, hostMem := s.hostMem, hostBad := s.hostBad, free := s.free, out := s.out
    bring := { Bring.zero with
      resetN := b.resetN, perst := b.perst, boot := b.boot, images := b.images, dcrNext := b.dcrNext, dmNext := b.dmNext
      boots := b.boots }
    mgt := { MgtState.zero with nor := s.mgt.nor } }
  if s.mgt.pwrgd then r.emit (.pinOut 1 0) else r

/-- UNDER_VOLTAGE and OVER_VOLTAGE: nothing is recorded. -/
def execUnderVoltage (mv : Nat) (s : State) : Res := .next (if s.bring.powered && mv < 55000 then s.powerOff else s)
def execOverVoltage (mv : Nat) (s : State) : Res := .next (if s.bring.powered && 84000 < mv then s.powerOff else s)

end Sys2Proof.Machine
end

