-- ==== Sys2Proof/Machine/Stepping.lean ====
section
/-! DEFINITION. The debug port's STEP (R480, R484): a halted thread issues a number of its instructions. -/

namespace Sys2Proof.Machine

/-- The state that an outcome leaves. -/
def State.after (s : State) (o : Res) : State :=
  match o with
  | .next t => t
  | _ => s

/-- One instruction of a thread, by its meaning. -/
def spurExec (i : Instr) (s : State) : State :=
  match i with
  | .spurNop th => s.after (execSpurNop th s)
  | .halt th => s.after (execHalt th s)
  | .yield th => s.after (execYield th s)
  | .fence th => s.after (execFence th s)
  | .cwb th rs1 => s.after (execCwb th rs1 s)
  | .cinv th rs1 => s.after (execCinv th rs1 s)
  | .cflush th => s.after (execCflush th s)
  | .mfs th rd sr => s.after (execMfs th rd sr s)
  | .mts th sr rs1 => s.after (execMts th sr rs1 s)
  | .add th rd rs1 rs2 => s.after (execAdd th rd rs1 rs2 s)
  | .sub th rd rs1 rs2 => s.after (execSub th rd rs1 rs2 s)
  | .and th rd rs1 rs2 => s.after (execAnd th rd rs1 rs2 s)
  | .or th rd rs1 rs2 => s.after (execOr th rd rs1 rs2 s)
  | .xor th rd rs1 rs2 => s.after (execXor th rd rs1 rs2 s)
  | .sll th rd rs1 rs2 => s.after (execSll th rd rs1 rs2 s)
  | .srl th rd rs1 rs2 => s.after (execSrl th rd rs1 rs2 s)
  | .sra th rd rs1 rs2 => s.after (execSra th rd rs1 rs2 s)
  | .slli th rd rs1 sh => s.after (execSlli th rd rs1 sh s)
  | .srli th rd rs1 sh => s.after (execSrli th rd rs1 sh s)
  | .srai th rd rs1 sh => s.after (execSrai th rd rs1 sh s)
  | .slt th rd rs1 rs2 => s.after (execSlt th rd rs1 rs2 s)
  | .sltu th rd rs1 rs2 => s.after (execSltu th rd rs1 rs2 s)
  | .mul th rd rs1 rs2 => s.after (execMul th rd rs1 rs2 s)
  | .mulh th rd rs1 rs2 => s.after (execMulh th rd rs1 rs2 s)
  | .mulhu th rd rs1 rs2 => s.after (execMulhu th rd rs1 rs2 s)
  | .min th rd rs1 rs2 => s.after (execMin th rd rs1 rs2 s)
  | .max th rd rs1 rs2 => s.after (execMax th rd rs1 rs2 s)
  | .minu th rd rs1 rs2 => s.after (execMinu th rd rs1 rs2 s)
  | .maxu th rd rs1 rs2 => s.after (execMaxu th rd rs1 rs2 s)
  | .clz th rd rs1 => s.after (execClz th rd rs1 s)
  | .popc th rd rs1 => s.after (execPopc th rd rs1 s)
  | .bswap th rd rs1 => s.after (execBswap th rd rs1 s)
  | .addi th rd rs1 imm => s.after (execAddi th rd rs1 imm s)
  | .andi th rd rs1 imm => s.after (execAndi th rd rs1 imm s)
  | .ori th rd rs1 imm => s.after (execOri th rd rs1 imm s)
  | .xori th rd rs1 imm => s.after (execXori th rd rs1 imm s)
  | .lui th rd imm => s.after (execLui th rd imm s)
  | .ld th rt an am sz sx off => s.after (execLd th rt an am sz sx off s)
  | .st th rt an am sz off => s.after (execSt th rt an am sz off s)
  | .movaToA th ad rs1 => s.after (execMovaToA th ad rs1 s)
  | .movaFromA th rd an => s.after (execMovaFromA th rd an s)
  | .adda th ad an imm => s.after (execAdda th ad an imm s)
  | .atomAdd th rd an rs2 dbl => s.after (execAtomAdd th rd an rs2 dbl s)
  | .atomMin th rd an rs2 dbl sgn => s.after (execAtomMin th rd an rs2 dbl sgn s)
  | .atomMax th rd an rs2 dbl sgn => s.after (execAtomMax th rd an rs2 dbl sgn s)
  | .atomCas th rd an rs2 dbl sgn => s.after (execAtomCas th rd an rs2 dbl sgn s)
  | .fld th rt ra sz8 => s.after (execFld th rt ra sz8 s)
  | .fst th rt ra sz8 => s.after (execFst th rt ra sz8 s)
  | .fabAdd th rt ra sz8 => s.after (execFabAdd th rt ra sz8 s)
  | .fabMin th rt ra sz8 => s.after (execFabMin th rt ra sz8 s)
  | .fabMax th rt ra sz8 => s.after (execFabMax th rt ra sz8 s)
  | .fabCas th rt ra rb sz8 => s.after (execFabCas th rt ra rb sz8 s)
  | .br th rs1 rs2 cond off => s.after (execBr th rs1 rs2 cond off s)
  | .j th off => s.after (execJ th off s)
  | .jal th off => s.after (execJal th off s)
  | .jalr th rd rs1 imm => s.after (execJalr th rd rs1 imm s)
  | .cvt th rd rs1 sfmt dfmt rnd => s.after (execCvt th rd rs1 sfmt dfmt rnd s)
  | .cmul th ad gs1 gs2 hi1 hi2 frac => s.after (execCmul th ad gs1 gs2 hi1 hi2 frac s)
  | .cmac th ad gs1 gs2 hi1 hi2 frac => s.after (execCmac th ad gs1 gs2 hi1 hi2 frac s)
  | .cmsu th ad gs1 gs2 hi1 hi2 frac => s.after (execCmsu th ad gs1 gs2 hi1 hi2 frac s)
  | .cmulj th ad gs1 gs2 hi1 hi2 frac => s.after (execCmulj th ad gs1 gs2 hi1 hi2 frac s)
  | .cmacj th ad gs1 gs2 hi1 hi2 frac => s.after (execCmacj th ad gs1 gs2 hi1 hi2 frac s)
  | .cmsuj th ad gs1 gs2 hi1 hi2 frac => s.after (execCmsuj th ad gs1 gs2 hi1 hi2 frac s)
  | .rmacMul th ad gs1 gs2 hi1 hi2 frac bc => s.after (execRmacMul th ad gs1 gs2 hi1 hi2 frac bc s)
  | .rmacMac th ad gs1 gs2 hi1 hi2 frac bc => s.after (execRmacMac th ad gs1 gs2 hi1 hi2 frac bc s)
  | .rmacMsu th ad gs1 gs2 hi1 hi2 frac bc => s.after (execRmacMsu th ad gs1 gs2 hi1 hi2 frac bc s)
  | .wmacMul th ad gs1 gs2 hi1 hi2 frac => s.after (execWmacMul th ad gs1 gs2 hi1 hi2 frac s)
  | .wmacMac th ad gs1 gs2 hi1 hi2 frac => s.after (execWmacMac th ad gs1 gs2 hi1 hi2 frac s)
  | .wmacMsu th ad gs1 gs2 hi1 hi2 frac => s.after (execWmacMsu th ad gs1 gs2 hi1 hi2 frac s)
  | .ftap th ad ax ah typ mx mh mv neg frac dual => s.after (execFtap th ad ax ah typ mx mh mv neg frac dual s)
  | .accClr th ad wide => s.after (execAccClr th ad wide s)
  | .accMov th ad asrc wide => s.after (execAccMov th ad asrc wide s)
  | .accAdd th ad asrc wide => s.after (execAccAdd th ad asrc wide s)
  | .accNeg th ad wide => s.after (execAccNeg th ad wide s)
  | .accShl th ad wide amt => s.after (execAccShl th ad wide amt s)
  | .accShr th ad wide amt => s.after (execAccShr th ad wide amt s)
  | .accSwap th ad wide => s.after (execAccSwap th ad wide s)
  | .accConj th ad wide => s.after (execAccConj th ad wide s)
  | .stac th ad an am fmt rm sh off => s.after (execStac th ad an am fmt rm sh off s)
  | .mvac th ad rd fmt rm sh => s.after (execMvac th ad rd fmt rm sh s)
  | .mtac th ad rs fmt rm sh => s.after (execMtac th ad rs fmt rm sh s)
  | .rpt th lv src count gc len => s.after (execRpt th lv src count gc len s)
  | .cbset th i ga gb => s.after (execCbset th i ga gb s)
  | .mtcb th i ga => s.after (execMtcb th i ga s)
  | .mtcl th i ga => s.after (execMtcl th i ga s)
  | .mfcb th i ga => s.after (execMfcb th i ga s)
  | .mfcl th i ga => s.after (execMfcl th i ga s)
  | .cbget th i j => s.after (execCbget th i j s)
  | .mtlc th lv ga => s.after (execMtlc th lv ga s)
  | .mflc th lv ga => s.after (execMflc th lv ga s)
  | _ => s

/-- The thread issues the instruction at its pc, over a breakpoint there, and is halted again while its job lasts. -/
def State.stepThread (s : State) (th : Fin 4096) : State :=
  let t := s.thread th
  if (t.st ≠ .ready ∧ t.st ≠ .stalled) ∨ t.job = none then s
  else
    let s := s.setThread th { t with dbg := false, skip := true }
    let s := match decodeSpur th (s.memLE t.pc.toNat 4) with
      | some i => spurExec i s
      | none => s.issue th fun s => s.fault th 1
    if (s.thread th).job.isSome then s.setThread th { s.thread th with dbg := true } else s

/-- Up to `n` instructions, as long as the thread is READY. -/
def State.stepThreads (s : State) (th : Fin 4096) : Nat → State
  | 0 => s
  | n + 1 => (s.stepThread th).stepThreads th n

/-- STEP: the target is halted; a count of 0 does nothing. A firmware processor's pc is its firmware's. -/
def execStep (seq : Byte) (tgt : BitVec 16) (count : BitVec 16) (s : State) : Res :=
  .next (s.onTarget 0x12 seq tgt fun t s =>
    if count = 0 then (s.tgtPc t).1.answer 0x12 seq St.ok (leBytes 8 (s.tgtPc t).2)
    else if !s.tgtHalted t then s.answer 0x12 seq St.busy
    else
      let s := match t with
        | .thread th => s.stepThreads (Fin.ofNat 4096 th) count.toNat
        | _ => s
      let r := s.tgtPc t
      (r.1.answer 0x12 seq St.ok (leBytes 8 r.2)).dbgEvent tgt.toNat 1 r.2)

end Sys2Proof.Machine
end

