-- ==== Sys2Proof/Machine/Edge.lean ====
section
/-! DEFINITION. What happens at a tick edge and when firmware comes back (R34, R36, R52, R66, R67, R73, R80–R84, R180, R265,
R279–R284, R416–R418, R423): the commit instant, the changes of the step boundary, admission, the column and the work list;
the device-time step; FW_READY, leadership, and the debug port's RESUME. -/

namespace Sys2Proof.Machine

/-! ## Commands that wait (R386, R395, R418) -/

/-- Execute a control command of a ring by its opcode; an opcode that the ring does not permit is refused (R388, R395). -/
def State.perform (k : Nat) (x : SubEntry) (s : State) : State :=
  if k < ctlRing then
    match x.opc with
    | 0x02 => s.cmdCancel k x
    | 0x03 => s.cmdFreezeSeq k x
    | 0x04 => s.cmdThaw k x
    | 0x05 => s.cmdQuerySeq k x
    | 0x06 => s.cmdCopy k x
    | 0x07 => s.cmdRegionSet k x
    | 0x08 => s.cmdAcctRead k x
    | 0x09 => s.cmdDeltaLoad k x
    | 0x0A => s.cmdDeltaRetire k x
    | 0x0B => s.cmdDeltaQuery k x
    | 0x0C => s.cmdNop k x
    | _ => s.complete k x St.badCommand
  else
    match x.opc with
    | 0x40 => s.cmdSliceBind x
    | 0x41 => s.cmdSliceUnbind x
    | 0x42 => s.cmdSliceFreeze x
    | 0x43 => s.cmdSliceThaw x
    | 0x44 => s.cmdSliceSave x
    | 0x45 => s.cmdSliceRestore x
    | 0x46 => s.cmdGroupSet x
    | 0x47 => s.cmdModelLoad x
    | 0x48 => s.cmdModelUnload x
    | 0x49 => s.cmdCell x
    | 0x4A => s.cmdCellStatus x
    | 0x4B => s.cmdDomainJoin x
    | 0x4C => s.cmdDomainList x
    | 0x4D => s.cmdRouteSet x
    | _ => s.complete k x St.badCommand

/-- Take the waiting entry off the head of a ring. -/
def State.popHead (s : State) (k : Nat) : State := s.setRing k { s.ring k with fifo := (s.ring k).fifo.drop 1 }

/-- Execute the control commands at the head of a ring, up to an admitting command. -/
def State.drainRing (s : State) (k : Nat) : Nat → State
  | 0 => s
  | n + 1 =>
    match (s.ring k).fifo.head? with
    | none => s
    | some x =>
      if x.opc = 0x01 ∨ !s.readable k then s
      else (((s.popHead k).read1 k x (State.perform k x)).drainRing k n)

/-- Every ring. -/
def State.drainRings (s : State) : State :=
  ((s.rings.filter fun r => !r.2.fifo.isEmpty).map fun r => (r.1, r.2.fifo.length)).foldl (fun s r => s.drainRing r.1 r.2) s

/-- The commands held for an owner run, in order; `i` is the processor whose log notes them. -/
def State.runHeld (s : State) (owner i : Nat) : State :=
  let mine := s.heldCmds.filter fun h => h.owner == owner
  mine.foldl (fun s h => State.perform ctlRing h.ent (s.logRec i 6 4 [h.ent.opc, h.ent.e.token.toNat]))
    (s.withHeldCmds (s.heldCmds.filter fun h => h.owner != owner))

/-- Leadership passes to the lowest-numbered controller that is not held down, at a step boundary of its partition (R33, R34). It passes back
in the same way when a lower-numbered one is released (DESIGN CHOICE, log 100: R33 names the lowest-numbered one, and R34 speaks of a
hold-down alone). -/
def State.passLead (s : State) : State :=
  match s.leader with
  | none => s
  | some p =>
    if s.coord = some p ∨ s.coord = none ∨ !s.seqRuns p then s
    else
      let s : State := s.withCoord (some p)
      if s.procUp (pc p) then s.runHeld ownerCoord (pc p) else s

/-- LEADERSHIP_PASS. -/
def execLeadershipPass (s : State) : Res := .next (s.atBoundary State.passLead)

/-! ## A processor comes back (R364, R417, R418, R423, R484) -/

/-- FC rebuilds its routes: where the candidates changed meanwhile, new requests wait for those outstanding (R364). -/
def State.rebuildRoutes (s : State) : State :=
  let changed := s.routes.any fun r => r.2.act != r.2.cands.filter s.linkActive
  let s := s.withRoutes (kmapv s.routes fun d r =>
      let now := r.cands.filter s.linkActive
      if r.act = now then r else { r with act := now, waitFor := (s.reqsTo d).map (·.tid) })
  if changed then s.put F.FAB_STAT.route_rebuilt 1 else s

/-- What waited for processor `i` goes on. -/
def State.resumeService (s : State) (i : Nat) : State :=
  let s := if i = cairn then
      let s := s.flushEvents.pendingKeys
      let s := if 3 < s.rd F.RST_STAT.step then s.syncBoot else s
      let bad := (List.range 32).filter fun r => s.rd F.NOC_RTR.state r == 2
      let s := if (List.range 32).any fun d => !bad.contains d && s.crosses bad d then s.reroute bad else s
      s.put F.MGT_THR.share (s.rd F.TICK_OPEN_SHARE.open_share 0)
    else if i = fc then s.rebuildRoutes
    else if 3 ≤ i then s.refuseAdm (i - 3)
    else s
  let s := s.runHeld i i
  if 3 ≤ i ∧ s.coord = some (i - 3) then s.runHeld ownerCoord i else s

/-- A live update goes on or ends when the processor runs its new section (R423). -/
def State.updateReady (s : State) (i : Nat) : State :=
  if s.rd F.FW_UPDATE.upd_state ≠ 1 then s
  else if i < 3 then
    if s.rd F.FW_UPDATE.upd_sect = i then
      (s.put F.FW_UPDATE.upd_state 2).logRec i 5 3 [i, (((s.proc i).prevSect).getD (s.sectOn i)).1, (s.sectOn i).1, 2]
    else s
  else if s.rd F.FW_UPDATE.upd_sect = 3 ∧ (span 3 8).all fun j => s.rd F.FW_PROC_STAT.pstate j != 1 || (s.proc j).prevSect.isNone then
    s.goOnUpdate
  else s

/-- FW_READY: the ready mark of a restart. -/
def execFwReady (i : Fin 11) (s : State) : Res :=
  .next (
    if s.starting i then
      let s := (s.put F.FW_PROC_STAT.pstate 0 i).clrf F.FW_GSTAT.down (2 ^ i.val)
      let t := (s.setProc i { s.proc i with newCrashes := 0, mail := [] }).updateReady i
      ((t.setProc i { t.proc i with prevSect := none }).kick i).resumeService i
    else s)

/-- RESUME: a processor goes on with the watchdog time it had left; a thread goes on over a breakpoint at its pc. -/
def execResume (seq : Byte) (tgt : BitVec 16) (s : State) : Res :=
  .next (s.onTarget 0x11 seq tgt fun t s =>
    match t with
    | .proc i =>
      if (s.proc i).dbgHalt then
        let s := s.setProc i { s.proc i with dbgHalt := false, wdDue := s.nowNs + (s.proc i).wdDue }
        (if s.procUp i then s.resumeService i else s).answer 0x11 seq St.ok
      else s.answer 0x11 seq St.ok
    | .thread th =>
      let x := s.thread th
      (if x.dbg then s.setThread th { x with dbg := false, skip := true } else s).answer 0x11 seq St.ok
    | .absent => s)

/-! ## The device-time step (R48, R52, R66, R67) -/

/-- Instants kept for elapsed time move with device time. -/
def State.shiftTimers (s : State) (d : Int) : State :=
  let m (t : Nat) : Nat := ((t : Int) + d).toNat
  let b := s.bring
  s.withProcs (kmapv s.procs fun _ p => { p with wdDue := if p.dbgHalt then p.wdDue else m p.wdDue, downAt := m p.downAt })
    |>.withSlices (kmapv s.slices fun _ x => { x with
      hbLast := m x.hbLast, detachedAt := m x.detachedAt, blockedUntil := m x.blockedUntil, freezeAt := m x.freezeAt })
    |>.withCtlHb (s.ctlHb.map m)
    |>.withRings (kmapv s.rings fun _ r => { r with unsigSince := r.unsigSince.map m })
    |>.withFabReqs (s.fabReqs.map fun q => { q with since := m q.since })
    |>.withPeers (kmapv s.peers fun _ x => { x with lost := x.lost.map m, seen := m x.seen })
    |>.withLinks (kmapv s.links fun _ l => { l with tagFails := l.tagFails.map m, since := m l.since, ackAt := m l.ackAt })
    |>.withSramErrs (s.sramErrs.map fun e => (m e.1, e.2))
    |>.withSramUe (s.sramUe.map m)
    |>.withDevErrs (s.devErrs.map fun e => { e with lines := e.lines.map fun l => (l.1, m l.2) })
    |>.withSec { s.sec with lockUntil := m s.sec.lockUntil, nonceAt := m s.sec.nonceAt }
    |>.withTime { s.time with ppsLast := s.time.ppsLast.map m }
    |>.withBring { b with
      shutAt := b.shutAt.map m, startNs := m b.startNs, downDomains := b.downDomains.map fun x => (x.1, m x.2)
      rstSince := kmapv b.rstSince fun _ t => m t, token := b.token.map fun t => { t with at_ns := m t.at_ns } }

/-- The current tick ends at the step: open work aborts uncharged, nothing more starts in it. -/
def State.cutTick (s : State) : State :=
  let c := s.cycNow
  (span 0 8).foldl (fun s p =>
    let s := s.stopWork p c .step
    let y := s.partOf p
    if y.col.isEmpty && y.wl.isEmpty then s
    else (s.setPart p { y with wl := y.wl.map fun it => if it.st = .waiting then { it with st := .abandoned } else it }).newColumn p []) s

/-- Device time is stepped by `d` ns. -/
def State.stepTime (s : State) (d : Int) : State :=
  let a := s.time.tick
  let n := ((s.nowNs : Int) + d).toNat
  let s := if s.time.edges then s.cutTick else s
  let s := s.shiftTimers d
  let s := s.setNowNs n
  let s := s.setTime { s.time with pending := none, locked := false, lockRun := [], todWritten := false }
  let s := (s.put F.TIME_STAT.stepped 1).enterLocked
  let s := if s.on F.TIME_CTRL.force_holdover then s.enterHoldover else s
  let b := s.tickNow + 1
  let s := if s.time.edges ∧ a + 1 < b then
      s.put F.TIME_FRAME.skipped_ticks (satAdd 32 (s.rd F.TIME_FRAME.skipped_ticks) (b - a - 1).toNat)
    else s
  (s.setTime { s.time with edges := true, lockWaitOver := true, tick := s.tickNow, cut := true }).fireStepped

/-- TIME_STEP: before tick edges in the next cycle, afterwards in a Col window; never with a cell active. -/
def execTimeStep (s : State) : Res :=
  .next (
    match s.time.pending with
    | none => s
    | some d =>
      if s.cellActive then s.clearLock.put F.TIME_STAT.step_refused 1
      else if s.time.edges && !s.inCol then s
      else s.stepTime d)

/-! ## The commit instant (R80, R81, R180, R265, R283) -/

/-- A group buffer's pair (R180). -/
def State.commitGcb (s : State) (i : Nat) : State :=
  if s.isStaged F.SPR_GCB_BASE.gcb_base i || s.isStaged F.SPR_GCB_LEN.gcb_len i then
    let b := s.shadow F.SPR_GCB_BASE.gcb_base i
    let n := s.shadow F.SPR_GCB_LEN.gcb_len i
    let ok := n == 0 || (b % 4 == 0 && n % 4 == 0 && s.rd F.SPR_GCB_RGN_BASE.rgn_base i ≤ b &&
      b + n ≤ s.rd F.SPR_GCB_RGN_LIM.rgn_limit i)
    if ok then
      ((s.commit F.SPR_GCB_BASE.gcb_base i).commit F.SPR_GCB_LEN.gcb_len i).clrf F.SPR_DSP_STAT.gcb_pending (2 ^ (i % 4)) (i / 4)
    else s.orf F.SPR_DSP_STAT.gcb_mismatch (2 ^ (i % 4)) (i / 4)
  else s

/-- Partitions with a group buffer's pair that stays pending: it has failed (R81, R180). -/
def State.gcbFailed (s : State) : List Nat :=
  ((List.range 2048).filter fun i => s.isStaged F.SPR_GCB_BASE.gcb_base i || s.isStaged F.SPR_GCB_LEN.gcb_len i).map fun i => spurPart (i / 4)

/-- The AGC freeze pair of a chain (R265). -/
def State.commitFreezeAgc (s : State) (d : Nat) : State :=
  if s.isStaged F.DFE_FREEZE.det_thr d || s.isStaged F.DFE_FREEZE.freeze_win d then
    let t := s.shadow F.DFE_FREEZE.det_thr d
    let w := s.shadow F.DFE_FREEZE.freeze_win d
    if t = 0 ∨ (s.rd F.DFE_SEQ_CFG.seq_len d ≤ w ∧ t ≤ 256) then
      (s.commit F.DFE_FREEZE.det_thr d).commit F.DFE_FREEZE.freeze_win d
    else s.put F.DFE_STAT.freeze_mismatch 1 d
  else s

/-- Partitions whose chains' freeze pair stays pending: it has failed. -/
def State.freezeFailed (s : State) : List Nat :=
  ((List.range 64).filter fun d => s.isStaged F.DFE_FREEZE.det_thr d || s.isStaged F.DFE_FREEZE.freeze_win d).filterMap s.chainPart

/-- A failed group of a partition shows once per commit instant (R81, R95). -/
def State.noteMismatch (s : State) (p : Nat) : State := (s.put F.TICK_STAT.stage_mismatch 1 p).bump F.TICK_COMMIT.mismatch_cnt p

/-- A slice's shaper pair at the commit instant (R282, R283): with it the bucket is filled or cut. -/
def State.commitShaper (s : State) (n : Nat) : State :=
  let r0 := s.rd F.SRV_SHP.rate n
  let b0 := s.rd F.SRV_SHP.burst n
  let s :=
    if s.isStaged F.SRV_SHP.rate n || s.isStaged F.SRV_SHP.burst n then
      let r := s.shadow F.SRV_SHP.rate n
      let b := s.shadow F.SRV_SHP.burst n
      if r ≤ b * 256 then
        let s := (((s.commit F.SRV_SHP.rate n).commit F.SRV_SHP.burst n).put F.SRV_SCNT.shp_pend 0 n)
        s.put F.SRV_SHP.tokens (if r0 = 0 ∧ b0 = 0 then b * 256 else min (s.rd F.SRV_SHP.tokens n) (b * 256)) n
      else s.put F.SRV_STAT.shp_mismatch 1
    else s
  s

/-- The refill of a slice's bucket, after the changes of the step boundary (R73, R283). -/
def State.refillShaper (s : State) (n : Nat) : State :=
  let r := s.rd F.SRV_SHP.rate n
  let b := s.rd F.SRV_SHP.burst n
  if r = 0 ∧ b = 0 then s.put F.SRV_SHP.tokens 0 n
  else s.put F.SRV_SHP.tokens (min (s.rd F.SRV_SHP.tokens n + r) (b * 256)) n

/-- Instances of a field that are staged. -/
def State.stagedOf (s : State) (f : Field) (n : Nat) : List Nat := (List.range n).filter fun i => s.isStaged f i

/-- Slices with a shaper. -/
def State.shaped (s : State) : List Nat :=
  (List.range 4096).filter fun n =>
    s.on F.SRV_SHP.rate n || s.on F.SRV_SHP.burst n || s.isStaged F.SRV_SHP.rate n || s.isStaged F.SRV_SHP.burst n

/-- A Spur core's ways that are locked afresh are filled (R153). -/
def State.commitWays (s : State) (n : Nat) : State := if s.isStaged F.SPR_CTRL.lock_ways n then (s.commit F.SPR_CTRL.lock_ways n).fillLocked n else s

/-- Staged fields without a check, then the paired groups, forced retirements, region descriptors and cell parameters. -/
def State.commitInstant (s : State) : State :=
  let plain : List (Field × Nat) := [
    (F.TIME_JUMP_THR.thr_ns, 1), (F.TIME_SLEW.slew_ppb, 1), (F.TIME_PPS_OUT.width_ns, 1), (F.TICK_OPEN_SHARE.open_share, 8),
    (F.SPR_CTRL.radio_mask, 512), (F.MEM_SP_RSV.rsv_off, 128), (F.MEM_SP_RSV.rsv_len, 128)]
  let s := plain.foldl (fun s x => (s.stagedOf x.1 x.2).foldl (fun s i => s.commit x.1 i) s) s
  let s := (s.stagedOf F.SPR_CTRL.lock_ways 512).foldl State.commitWays s
  let r := (span 0 8).foldl (fun (a : State × List Nat) p =>
    let b := a.1.commitBankPair p
    (b.1, if b.2 then a.2 ++ [p] else a.2)) (s, [])
  let s := r.1
  let s := ((s.stagedOf F.SPR_GCB_BASE.gcb_base 2048 ++ s.stagedOf F.SPR_GCB_LEN.gcb_len 2048).dedup).foldl State.commitGcb s
  let s := ((s.stagedOf F.DFE_FREEZE.det_thr 64 ++ s.stagedOf F.DFE_FREEZE.freeze_win 64).dedup).foldl State.commitFreezeAgc s
  let s := ((r.2 ++ s.gcbFailed ++ s.freezeFailed).dedup).foldl State.noteMismatch s
  let s := s.shaped.foldl State.commitShaper s
  let s := (span 0 8).foldl State.showStaged s
  let s := ((s.deltas.map (·.1)).foldl State.activateDelta s).commitForced.commitRegions
  s.withCells (kmapv s.cells fun _ c => { c with priority := c.prioPend.getD c.priority, prioPend := none })

/-! ## Changes of the step boundary (R36, R38, R169, R244, R453) -/

/-- Substitutions of a partition: in the first Col window after the copy ends. -/
def State.substitute (s : State) (p : Nat) : State :=
  let s := (span (16 * p) 16).foldl (fun s n =>
    if (s.core n).subst.isNone then s
    else if (s.core n).copied then s.commitCore n else s.setCore n { s.core n with copied := true }) s
  (span (64 * p) 64).foldl (fun s n =>
    if (s.spur n).subst.isNone then s
    else if (s.spur n).copied then s.commitSpur n else s.setSpur n { s.spur n with copied := true }) s

/-- At a frame boundary attenuations take effect, an unlock that finds no start condition waits for it, and cells that a forced reset stopped
are locked (R242–R244, R453). -/
def State.frameEdge (s : State) : State :=
  if s.frameStart s.time.tick then
    let s : State := s.withCells (kmapv s.cells fun _ c => { c with txAtten := c.txPend.getD c.txAtten, txPend := none })
    (s.cells.filter fun c => c.2.stopped).foldl (fun s c => s.stopCell c.1 .autoLocked) s.waitUnlocks
  else s

/-! ## Admission (R279–R284, R344, R392, R393) -/

/-- What reading one admitting command came to. -/
inductive AdmEnd where
  | read
  | waits
  | full
  deriving DecidableEq, Repr

/-- Operands and parameter block of a GENERATE (R392, R393). -/
structure GenArgs where
  promptLen : Nat
  maxNew    : Nat
  model     : Nat
  variant   : Nat
  group     : Nat
  samples   : Nat
  spec      : Bool
  stream    : Bool
  sampled   : Bool
  beamW     : Nat
  eos       : List Nat
  deriving DecidableEq, Repr

/-- A binary32 value that is negative or a NaN. -/
def badF32 (v : Nat) : Bool := (bit v 31 && v % 2 ^ 31 != 0) || 0x7F800000 < v % 2 ^ 31

/-- The operands, or nothing where a value is refused. -/
def genArgs (x : SubEntry) (b : List Byte) : Option GenArgs :=
  let f (o n : Nat) : Nat := leVal ((b.drop o).take n)
  let w5 := x.e.w5.toNat
  let w6 := x.e.w6.toNat
  let n := bits w6 51 44
  let bw := f 12 2
  let nEos := f 14 2
  if badF32 (f 0 4) || badF32 (f 4 4) || 8 < nEos || f 56 8 != 0 || (1 < bw && 1 < n) ||
      !Entry.reservedOk x.e full full full full (2 ^ 54 - 1) 0 then none
  else some {
    promptLen := bits w5 23 0, maxNew := bits w5 47 24, model := bits w5 63 48, variant := bits w6 31 0, group := bits w6 43 32
    samples := max 1 n, spec := bit w6 52, stream := bit w6 53, sampled := f 0 4 % 2 ^ 31 != 0
    beamW := if 1 < bw then bw else 0, eos := (List.range nEos).map fun i => f (24 + 4 * i) 4 }

/-- Entry count (R280). -/
def GenArgs.count (g : GenArgs) : Nat := max g.samples g.beamW

/-- A group admits a slice (R392). -/
def State.admits (s : State) (g n : Nat) : Bool :=
  (s.group g).exist && (s.group g).members.contains n

/-- The version that a variant pins (R344): the slice's own ACTIVE one, else the lowest slot of a group. -/
def State.pinFor (s : State) (n model variant : Nat) : Option Nat :=
  let act := s.deltas.filter fun d =>
    d.2.st == .active && d.2.model == model && d.2.variant == variant
  match act.find? fun d => d.2.owner == n with
  | some d => some d.1
  | none => (act.find? fun d => d.2.group != 0 && s.admits d.2.group n).map (·.1)

/-- A partition takes new sequences (R29, R84, R200, R280, R417, R454). -/
def State.takes (s : State) (p : Nat) : Bool :=
  s.seqRuns p && s.on F.TICK_STAT.running p && s.procUp (pc p) && !s.on F.SRV_PART.adm_refuse p && s.roleTakes runsPrefill p

/-- The prefill partition of a new sequence (R281). -/
def State.prefillPart (s : State) : Option Nat := leastBy s.promptLoad ((List.range 8).filter s.takes)

/-- The entries of an admitted command: the first in ADMITTED, the others held for its forks (R280, R331). -/
def State.enterSeqs (s : State) (k : Nat) (x : SubEntry) (g : GenArgs) (p : Nat) (ver : Option Nat) (toks : List Nat) : State :=
  let n := k / 16
  let c := s.nextCmd
  let md := kfind s.models g.model
  let spec := g.spec && (md.any fun m => 0 < m.draftLg) && g.beamW == 0
  let s : State := ((s.withNextCmd (c + 1)).withCmds (kset s.cmds c {
      slice := n, ring := k % 16, token := x.e.token.toNat, outAddr := x.e.w3.toNat, samples := g.samples, maxNew := g.maxNew
      stream := g.stream, sampled := g.sampled, beamW := g.beamW, eos := g.eos, status := St.ok, done := [], hyps := [], written := [], handle := 0 }))
  let q : Seq := {
    st := .admitted, resume := .free, frzCause := 0, deltaEn := ver.isSome, spec := spec, cancelPend := false, part := p, slice := n
    model := g.model, deltaVer := ver.getD 0, len := 0, promptLen := g.promptLen, gen := 0, maxNew := g.maxNew, nOut := 0, stage := 0
    draftLen := if spec then (md.map (·.specK)).getD 0 else 0, wait := 0, token := x.e.token.toNat
    family := if 1 < g.count then c + 1 else 0, group := g.group, ring := k % 16, aborts := 0
    paramAddr := s.fresh .firmware % 2 ^ 48, admTick := s.tick32, passTick := 0, dlen := 0, branch := 0, origin := 0, drafted := 0
    accepted := 0, toks := toks, pages := [], nodes := [], lookupDone := false, cmd := c, sample := 0, status := St.ok
    freezeReq := none, moveTo := none, held := false, needFork := g.samples - 1, peerSpill := false, beamW := g.beamW, score := 0
    owed := none, ringNodes := md.elim [] fun m => s.ringOf m g.promptLen, transit := [], att := none }
  let e := s.drawn.newEntry q
  let s := e.2.pin q
  let s := match kfind s.cmds c with
    | some y => s.withCmds (kset s.cmds c { y with handle := s.handle e.1 })
    | none => s
  (List.range (g.count - 1)).foldl (fun s i =>
    (s.newEntry { q with held := true, deltaEn := false, deltaVer := 0, sample := i + 1, needFork := 0, toks := [] }).2) s

/-- Read one admitting command with a new token by the rows of R280, after the shaper's. -/
def State.admitNew (s : State) (k : Nat) (x : SubEntry) : State × AdmEnd :=
  let n := k / 16
  let take (go : State → State) : State × AdmEnd := ((((s.popHead k).read1 k x go).count n 11 1), .read)
  let refuse (st : Nat) : State × AdmEnd := take fun s => s.complete k x st
  match s.hostRd x.e.w4.toNat 64 (s.space k) with
  | none => refuse St.hostDma
  | some b =>
    match genArgs x b with
    | none => refuse St.badCommand
    | some g =>
      let quota := s.rd F.SRV_ADM.seq_quota n
      if g.group ≠ 0 ∧ !s.admits g.group n then refuse St.badCommand
      else if (g.spec && !s.feature k 0) || (g.beamW != 0 && !s.feature k 1) || (g.variant != 0 && !s.feature k 2) ||
          (g.group != 0 && !s.feature k 8) then refuse St.notSupported
      else if 0 < quota ∧ quota < g.count then refuse St.noSpace
      else if quota = 0 ∨ quota < s.rd F.SRV_SCNT.active n + g.count then (s, .waits)
      else if s.freeCount < g.count then (s.put F.SRV_STAT.seq_full 1, .full)
      else if g.promptLen = 0 then refuse St.empty
      else match kfind s.models g.model with
        | none => refuse St.modelUnknown
        | some md =>
          if md.maxCtx < g.promptLen + g.maxNew then refuse St.tooLong
          else
            let ver := if g.variant = 0 then none else s.pinFor n g.model g.variant
            if g.variant ≠ 0 ∧ ver = none then refuse St.deltaUnknown
            else match s.prefillPart with
              | none => (s, .waits)
              | some p =>
                match s.hostRd x.e.w2.toNat (4 * g.promptLen) (s.space k) with
                | none => refuse St.hostDma
                | some bs =>
                  let toks := (List.range g.promptLen).map fun i => leVal ((bs.drop (4 * i)).take 4)
                  take fun s => (s.count n 7 (64 + 4 * g.promptLen)).enterSeqs k x g p ver toks

/-- Read the command at the head: the token check comes first (R390). -/
def State.admitOne (s : State) (k : Nat) (x : SubEntry) : State × AdmEnd :=
  match s.tokenCase k x.e.token.toNat with
  | .fresh => s.admitNew k x
  | _ => (((s.popHead k).read1 k x id).count (k / 16) 11 1, .read)

/-- An admitting command stands at the head of the ring and may be read. -/
def State.admHead (s : State) (k : Nat) : Option SubEntry :=
  match (s.ring k).fifo.head? with
  | some x => if x.opc = 0x01 ∧ s.readable k then some x else none
  | none => none

/-- The next ring of a slice with one, in turn. -/
def State.nextAdm (s : State) (n : Nat) : Option (Nat × SubEntry) :=
  let r0 := (s.slice n).lastRing
  (List.range 16).findSome? fun j =>
    let k := 16 * n + (r0 + 1 + j) % 16
    (s.admHead k).map fun x => (k, x)

/-- A shaped slice has a token. -/
def State.hasToken (s : State) (n : Nat) : Bool :=
  (s.rd F.SRV_SHP.rate n == 0 && s.rd F.SRV_SHP.burst n == 0) || 256 ≤ s.rd F.SRV_SHP.tokens n

/-- Serve one slice with deficit `d`; `left` commands may still be read in the tick. The deficit left, the commands left, and
whether the round ends. -/
def State.serveSlice (s : State) (n d left : Nat) : Nat → State × Nat × Nat × Bool
  | 0 => (s, d, left, left == 0)
  | fuel + 1 =>
    if left = 0 then (s, d, left, true)
    else if d = 0 then (s, d, left, false)
    else match s.nextAdm n with
      | none => (s, d, left, false)
      | some (k, x) =>
        if !s.hasToken n then (s.put F.SRV_SCNT.shp_blk 1 n, d, left, false)
        else match s.admitOne k x with
          | (s, .waits) => (s, d, left, false)
          | (s, .full) => (s, d, left, true)
          | (s, .read) =>
            let s := s.put F.SRV_SHP.tokens (s.rd F.SRV_SHP.tokens n - 256) n
            let s : State := ((s.setSlice n { s.slice n with lastRing := k % 16 })).withLastAdm (some n)
            (s.drainRing k (s.ring k).fifo.length).serveSlice n (d - 1) (left - 1) fuel

/-- One slice of the round. -/
def State.admitSlice (s : State) (n left : Nat) : State × Nat × Bool :=
  let q := s.rd F.SRV_ADM.quantum n
  if (s.nextAdm n).isNone then (s, left, false)
  else if q = 0 then (s.put F.SRV_ADM.deficit 0 n, left, false)
  else
    match s.serveSlice n (min (s.rd F.SRV_ADM.deficit n + q) (2 * q)) left 512 with
    | (s, d, left, stop) =>
      let d := if (span (16 * n) 16).all fun k => (s.ring k).fifo.isEmpty then 0 else d
      (s.put F.SRV_ADM.deficit d n, left, stop)

/-- The slices of a round, until it ends. -/
def State.admitSlices (s : State) (left : Nat) : List Nat → State × Bool
  | [] => (s, false)
  | n :: ns =>
    match s.admitSlice n left with
    | (s, _, true) => (s, true)
    | (s, left, false) => s.admitSlices left ns

/-- The admission round of a tick: it goes on after the slice at which the last one ended early. -/
def State.admission (s : State) : State :=
  let m := s.rd F.SRV_CTRL.adm_max
  if !s.on F.SRV_CTRL.adm_en ∨ s.bring.shutAt.isSome ∨ m = 0 then s
  else
    let ns := ((s.rings.filter fun r => r.1 < ctlRing && (r.2.fifo.head?).any fun x => x.opc == 0x01).map fun r => r.1 / 16).dedup
    let order := match s.lastAdm with
      | some a => (ns.filter fun n => a < n) ++ ns.filter fun n => n ≤ a
      | none => ns
    let r := (s.withLastAdm none).admitSlices m order
    if r.2 then r.1 else r.1.withLastAdm none

/-! ## The tick edge (R65, R73, R88, R504) -/

/-- Device time reaches the next tick boundary. -/
def State.nextTick (s : State) : State :=
  let n := (s.nowNs / 125000 + 1) * 125000
  let s := s.setNowNs n
  let s := s.setTime { s.time with tick := s.tickNow, cut := false }
  (s.put F.TIME_FRAME.sfn (s.sfnOf s.time.tick)).put F.TIME_FRAME.tick_in_frame (s.tickInFrame s.time.tick)

/-- The half share after a clamp (R504), and the crashes of the last 600 s (R430). -/
def State.tickCounts (s : State) : State :=
  let m := s.mgt
  let s : State := (s.withMgt { m with
    halfTicks := if m.justCleared then 8 else m.halfTicks - 1, justCleared := false })
  (s.procs.filter fun p => s.on F.FW_PROC_CNT.win_crashes p.1).foldl (fun s p =>
    s.put F.FW_PROC_CNT.win_crashes (min 3 ((p.2.crashes.filter fun t => s.nowNs ≤ t + 600000000000).length)) p.1) s

/-- A tick edge. -/
def State.tickEdge (s : State) : State :=
  if !s.time.edges then s
  else
    let ps := (span 0 8).filter s.seqRuns
    -- a list that waited for a pass to commit was never built (R287)
    let s := if ps.any fun p => (s.partOf p).hold then s.put F.SRV_STAT.wl_trunc 1 else s
    let s := ps.foldl State.stopAtEdge s
    let s := (s.nextTick.tickCounts).commitInstant
    let s := ps.foldl State.substitute s
    let s := ps.foldl State.openBoundary s
    let s := (s.deltas.map (·.1)).foldl State.stepDelta s.applyThaws.frameEdge
    let s := s.passLead
    let s := s.shaped.foldl State.refillShaper s
    let s := s.admission.drainRings
    let s := s.readSlots s.time.tick
    let s := ps.foldl State.openTick s
    s.fireAll

/-! ## The time clock (R44) -/

/-- What a cycle of the time clock adds to device time, in units of 10^-12 of 2^-18 ns: 2 ns and the rate correction. -/
def State.cycleInc (s : State) : Nat := (2 ^ 19 * (10 ^ 12 + s.rdS F.TIME_OFFSET.rate)).toNat

/-- One cycle of the time clock while PD49 has power: the counter advances, and where it reaches the next tick boundary the
tick edge comes about there (R65). -/
def State.clockCycle (s : State) : State :=
  if !s.bring.powered then s
  else
    let u := ((s.nowNs * 2 ^ 18 + s.time.frac) * 10 ^ 12 + s.time.rem) + s.cycleInc
    let f := u / 10 ^ 12
    let n := f / 2 ^ 18
    let t := if s.time.edges ∧ (s.nowNs / 125000 + 1) * 125000 ≤ n then s.tickEdge else s
    t.setTime { t.time with
      sec := n / 1000000000 % 2 ^ 48, ns := n % 1000000000, frac := f % 2 ^ 18, rem := u % 10 ^ 12 }

/-- TICK_EDGE. -/
def execTickEdge (s : State) : Res := .next s.tickEdge

end Sys2Proof.Machine
end

