-- ==== Sys2Proof/Machine/Ready.lean ====
section
/-! DEFINITION. The last step of start-up (R3, R30, R86, R240, R431, R434): the placement engine proves the cell plan, writes and commits the tick
banks, and the device declares Ready. -/

namespace Sys2Proof.Machine

/-- The bank that the placement engine built for partition `p`; one empty column where it gave none. -/
def startBank (banks : List BankImage) (p : Nat) : BankImage :=
  match banks.find? fun b => b.part.val == p && lenOk b.columns.length with
  | some b => b
  | none => { part := Fin.ofNat 8 p, columns := [[]], pinned := [], rsv := [], work := [], ilines := [] }

/-- The proof of fit of a plan's banks (R85, R86): they carry the cells that start unlocked, each in its partition, and the power of all
radio rows is held to the one ceiling. Every breach with its cell. -/
def State.provePlan (s : State) (banks : List BankImage) : List (FitFail × Nat) :=
  let energy (b : BankImage) : Nat := (s.withImage b).tableEnergy (imgSlots b)
  let total := banks.foldl (fun a b => a + energy b) 0
  banks.filterMap fun b =>
    match (imgCells b).find? fun c => !((s.cell? c).any fun x => x.part == b.part.val && x.st != .locked) with
    | some c => some (.entry, c)
    | none => s.proof b (total - energy b)

/-- One event for each refusal reason with its first offending cell (R240): the reason, 16 + the condition of R85 for the proof of fit, and
the cell from bit 16 up, 4096 where none is named (the layout is a DESIGN CHOICE, log 101). -/
def State.refusePlan (s : State) (rs : List (Nat × Nat)) : State :=
  rs.foldl (fun s r => s.event 2 1 Ev.plan (r.1 + 65536 * r.2)) s

/-- The plan's outcome: its cells entered and the banks to write, or none of the cells and banks without any radio row (R86). -/
def State.decidePlan (s : State) (d : Dcr) (banks : List BankImage) : State × List BankImage × Bool :=
  match s.planCells d with
  | .error fs => (s.refusePlan (fs.map fun f => (f.1.num, f.2)), banks.map stripAll, false)
  | .ok cs =>
    let t := s.enterPlan d cs
    if cs.isEmpty then (t, banks.map stripAll, true)
    else match t.provePlan banks with
      | [] => (t, banks, true)
      | fs => (s.refusePlan (fs.map fun f => (16 + f.1.num, f.2)), banks.map stripAll, false)

/-- Roles that break R30 become MIXED everywhere. -/
def State.checkRoles (s : State) : State :=
  if s.rolesOk 8 0 then s else (s.putAll F.SRV_PART.role 3 (span 0 s.nPart)).event 3 2 Ev.roles 0

/-- What Ready asks for beyond the steps (R434). -/
def State.readyOk (s : State) : Bool := 2 ≤ ((span 0 s.nChan).filter s.chanLive).length && s.linksOk && s.time.edges

/-- Ready is declared (R434). -/
def State.declareReady (s : State) : State :=
  let s := (s.endStep 11).put F.RST_STAT.ready 1
  let s := s.put F.RST_STAT.boot_ms ((s.nowNs - s.bring.startNs) / 1000000)
  let s := (s.eventEntry (Config.hostEvent 8) 0).event 0 3 Ev.ready (s.rd F.RST_STAT.boot_ms)
  s.withCtlHb (some s.nowNs)

/-- STARTUP_STEP_11: `banks` are the placement engine's. What it writes commits with the tick edge that ends the step. -/
def execStartupStep11 (ms : BitVec 16) (radio hold : List BankImage) (s : State) : Res :=
  .next (
    if s.atStep 11 && s.readyOk then
      match s.bring.dcr with
      | none => s
      | some d =>
        let s := s.stepMs 11 ms.toNat
        let r := s.decidePlan d ((span 0 s.nPart).map (startBank (radio ++ hold)))
        let s := r.2.1.foldl (fun s b => s.writeBank b r.2.2) r.1
        s.checkRoles.tickEdge.declareReady
    else s)

end Sys2Proof.Machine
end

