-- ==== Sys2Proof/Machine/Dispatch.lean ====
section
/-! DEFINITION. One arm per command: its meaning on everything but the queue. -/

namespace Sys2Proof.Machine

/-- The effect of a command. -/
def exec (i : Instr) (s : State) : Host.Outcome State Fault Refusal :=
  match i with
  | .registerWrite wr addr value => Sys2Proof.Machine.execRegisterWrite wr addr value s
  | .tickEdge => Sys2Proof.Machine.execTickEdge s
  | .tickBankWrite p off data => Sys2Proof.Machine.execTickBankWrite p off data s
  | .radioWindowStart p e cyc => Sys2Proof.Machine.execRadioWindowStart p e cyc s
  | .radioWindowEnd p e x => Sys2Proof.Machine.execRadioWindowEnd p e x s
  | .laneItemStart p ix cyc => Sys2Proof.Machine.execLaneItemStart p ix cyc s
  | .tileAbort p ix cyc x => Sys2Proof.Machine.execTileAbort p ix cyc x s
  | .tileEnd p ix x => Sys2Proof.Machine.execTileEnd p ix x s
  | .fenceReq wr n => Sys2Proof.Machine.execFenceReq wr n s
  | .radioHang n => Sys2Proof.Machine.execRadioHang n s
  | .katNow wr n => Sys2Proof.Machine.execKatNow wr n s
  | .katPeriodExpiry => Sys2Proof.Machine.execKatPeriodExpiry s
  | .katEnd u x => Sys2Proof.Machine.execKatEnd u x s
  | .spurFenceReq wr n => Sys2Proof.Machine.execSpurFenceReq wr n s
  | .spurKatNow wr n => Sys2Proof.Machine.execSpurKatNow wr n s
  | .spurRadioHang n => Sys2Proof.Machine.execSpurRadioHang n s
  | .jobEnd n t x => Sys2Proof.Machine.execJobEnd n t x s
  | .jobAbort n t cyc why => Sys2Proof.Machine.execJobAbort n t cyc why s
  | .spurRemoteReply th => Sys2Proof.Machine.execSpurRemoteReply th s
  | .storeAck th k => Sys2Proof.Machine.execStoreAck th k s
  | .spurNop th => Sys2Proof.Machine.execSpurNop th s
  | .halt th => Sys2Proof.Machine.execHalt th s
  | .yield th => Sys2Proof.Machine.execYield th s
  | .fence th => Sys2Proof.Machine.execFence th s
  | .cwb th rs1 => Sys2Proof.Machine.execCwb th rs1 s
  | .cinv th rs1 => Sys2Proof.Machine.execCinv th rs1 s
  | .cflush th => Sys2Proof.Machine.execCflush th s
  | .mfs th rd sr => Sys2Proof.Machine.execMfs th rd sr s
  | .mts th sr rs1 => Sys2Proof.Machine.execMts th sr rs1 s
  | .add th rd rs1 rs2 => Sys2Proof.Machine.execAdd th rd rs1 rs2 s
  | .sub th rd rs1 rs2 => Sys2Proof.Machine.execSub th rd rs1 rs2 s
  | .and th rd rs1 rs2 => Sys2Proof.Machine.execAnd th rd rs1 rs2 s
  | .or th rd rs1 rs2 => Sys2Proof.Machine.execOr th rd rs1 rs2 s
  | .xor th rd rs1 rs2 => Sys2Proof.Machine.execXor th rd rs1 rs2 s
  | .sll th rd rs1 rs2 => Sys2Proof.Machine.execSll th rd rs1 rs2 s
  | .srl th rd rs1 rs2 => Sys2Proof.Machine.execSrl th rd rs1 rs2 s
  | .sra th rd rs1 rs2 => Sys2Proof.Machine.execSra th rd rs1 rs2 s
  | .slli th rd rs1 sh => Sys2Proof.Machine.execSlli th rd rs1 sh s
  | .srli th rd rs1 sh => Sys2Proof.Machine.execSrli th rd rs1 sh s
  | .srai th rd rs1 sh => Sys2Proof.Machine.execSrai th rd rs1 sh s
  | .slt th rd rs1 rs2 => Sys2Proof.Machine.execSlt th rd rs1 rs2 s
  | .sltu th rd rs1 rs2 => Sys2Proof.Machine.execSltu th rd rs1 rs2 s
  | .mul th rd rs1 rs2 => Sys2Proof.Machine.execMul th rd rs1 rs2 s
  | .mulh th rd rs1 rs2 => Sys2Proof.Machine.execMulh th rd rs1 rs2 s
  | .mulhu th rd rs1 rs2 => Sys2Proof.Machine.execMulhu th rd rs1 rs2 s
  | .min th rd rs1 rs2 => Sys2Proof.Machine.execMin th rd rs1 rs2 s
  | .max th rd rs1 rs2 => Sys2Proof.Machine.execMax th rd rs1 rs2 s
  | .minu th rd rs1 rs2 => Sys2Proof.Machine.execMinu th rd rs1 rs2 s
  | .maxu th rd rs1 rs2 => Sys2Proof.Machine.execMaxu th rd rs1 rs2 s
  | .clz th rd rs1 => Sys2Proof.Machine.execClz th rd rs1 s
  | .popc th rd rs1 => Sys2Proof.Machine.execPopc th rd rs1 s
  | .bswap th rd rs1 => Sys2Proof.Machine.execBswap th rd rs1 s
  | .addi th rd rs1 imm => Sys2Proof.Machine.execAddi th rd rs1 imm s
  | .andi th rd rs1 imm => Sys2Proof.Machine.execAndi th rd rs1 imm s
  | .ori th rd rs1 imm => Sys2Proof.Machine.execOri th rd rs1 imm s
  | .xori th rd rs1 imm => Sys2Proof.Machine.execXori th rd rs1 imm s
  | .lui th rd imm => Sys2Proof.Machine.execLui th rd imm s
  | .ld th rt an am sz sx off => Sys2Proof.Machine.execLd th rt an am sz sx off s
  | .st th rt an am sz off => Sys2Proof.Machine.execSt th rt an am sz off s
  | .movaToA th ad rs1 => Sys2Proof.Machine.execMovaToA th ad rs1 s
  | .movaFromA th rd an => Sys2Proof.Machine.execMovaFromA th rd an s
  | .adda th ad an imm => Sys2Proof.Machine.execAdda th ad an imm s
  | .atomAdd th rd an rs2 dbl => Sys2Proof.Machine.execAtomAdd th rd an rs2 dbl s
  | .atomMin th rd an rs2 dbl sgn => Sys2Proof.Machine.execAtomMin th rd an rs2 dbl sgn s
  | .atomMax th rd an rs2 dbl sgn => Sys2Proof.Machine.execAtomMax th rd an rs2 dbl sgn s
  | .atomCas th rd an rs2 dbl sgn => Sys2Proof.Machine.execAtomCas th rd an rs2 dbl sgn s
  | .fld th rt ra sz8 => Sys2Proof.Machine.execFld th rt ra sz8 s
  | .fst th rt ra sz8 => Sys2Proof.Machine.execFst th rt ra sz8 s
  | .fabAdd th rt ra sz8 => Sys2Proof.Machine.execFabAdd th rt ra sz8 s
  | .fabMin th rt ra sz8 => Sys2Proof.Machine.execFabMin th rt ra sz8 s
  | .fabMax th rt ra sz8 => Sys2Proof.Machine.execFabMax th rt ra sz8 s
  | .fabCas th rt ra rb sz8 => Sys2Proof.Machine.execFabCas th rt ra rb sz8 s
  | .br th rs1 rs2 cond off => Sys2Proof.Machine.execBr th rs1 rs2 cond off s
  | .j th off => Sys2Proof.Machine.execJ th off s
  | .jal th off => Sys2Proof.Machine.execJal th off s
  | .jalr th rd rs1 imm => Sys2Proof.Machine.execJalr th rd rs1 imm s
  | .cvt th rd rs1 sfmt dfmt rnd => Sys2Proof.Machine.execCvt th rd rs1 sfmt dfmt rnd s
  | .cmul th ad gs1 gs2 hi1 hi2 frac => Sys2Proof.Machine.execCmul th ad gs1 gs2 hi1 hi2 frac s
  | .cmac th ad gs1 gs2 hi1 hi2 frac => Sys2Proof.Machine.execCmac th ad gs1 gs2 hi1 hi2 frac s
  | .cmsu th ad gs1 gs2 hi1 hi2 frac => Sys2Proof.Machine.execCmsu th ad gs1 gs2 hi1 hi2 frac s
  | .cmulj th ad gs1 gs2 hi1 hi2 frac => Sys2Proof.Machine.execCmulj th ad gs1 gs2 hi1 hi2 frac s
  | .cmacj th ad gs1 gs2 hi1 hi2 frac => Sys2Proof.Machine.execCmacj th ad gs1 gs2 hi1 hi2 frac s
  | .cmsuj th ad gs1 gs2 hi1 hi2 frac => Sys2Proof.Machine.execCmsuj th ad gs1 gs2 hi1 hi2 frac s
  | .rmacMul th ad gs1 gs2 hi1 hi2 frac bc => Sys2Proof.Machine.execRmacMul th ad gs1 gs2 hi1 hi2 frac bc s
  | .rmacMac th ad gs1 gs2 hi1 hi2 frac bc => Sys2Proof.Machine.execRmacMac th ad gs1 gs2 hi1 hi2 frac bc s
  | .rmacMsu th ad gs1 gs2 hi1 hi2 frac bc => Sys2Proof.Machine.execRmacMsu th ad gs1 gs2 hi1 hi2 frac bc s
  | .wmacMul th ad gs1 gs2 hi1 hi2 frac => Sys2Proof.Machine.execWmacMul th ad gs1 gs2 hi1 hi2 frac s
  | .wmacMac th ad gs1 gs2 hi1 hi2 frac => Sys2Proof.Machine.execWmacMac th ad gs1 gs2 hi1 hi2 frac s
  | .wmacMsu th ad gs1 gs2 hi1 hi2 frac => Sys2Proof.Machine.execWmacMsu th ad gs1 gs2 hi1 hi2 frac s
  | .ftap th ad ax ah typ mx mh mv neg frac dual => Sys2Proof.Machine.execFtap th ad ax ah typ mx mh mv neg frac dual s
  | .accClr th ad wide => Sys2Proof.Machine.execAccClr th ad wide s
  | .accMov th ad asrc wide => Sys2Proof.Machine.execAccMov th ad asrc wide s
  | .accAdd th ad asrc wide => Sys2Proof.Machine.execAccAdd th ad asrc wide s
  | .accNeg th ad wide => Sys2Proof.Machine.execAccNeg th ad wide s
  | .accShl th ad wide amt => Sys2Proof.Machine.execAccShl th ad wide amt s
  | .accShr th ad wide amt => Sys2Proof.Machine.execAccShr th ad wide amt s
  | .accSwap th ad wide => Sys2Proof.Machine.execAccSwap th ad wide s
  | .accConj th ad wide => Sys2Proof.Machine.execAccConj th ad wide s
  | .stac th ad an am fmt rm sh off => Sys2Proof.Machine.execStac th ad an am fmt rm sh off s
  | .mvac th ad rd fmt rm sh => Sys2Proof.Machine.execMvac th ad rd fmt rm sh s
  | .mtac th ad rs fmt rm sh => Sys2Proof.Machine.execMtac th ad rs fmt rm sh s
  | .rpt th lv src count gc len => Sys2Proof.Machine.execRpt th lv src count gc len s
  | .cbset th ix ga gb => Sys2Proof.Machine.execCbset th ix ga gb s
  | .mtcb th ix ga => Sys2Proof.Machine.execMtcb th ix ga s
  | .mtcl th ix ga => Sys2Proof.Machine.execMtcl th ix ga s
  | .mfcb th ix ga => Sys2Proof.Machine.execMfcb th ix ga s
  | .mfcl th ix ga => Sys2Proof.Machine.execMfcl th ix ga s
  | .cbget th ix j => Sys2Proof.Machine.execCbget th ix j s
  | .mtlc th lv ga => Sys2Proof.Machine.execMtlc th lv ga s
  | .mflc th lv ga => Sys2Proof.Machine.execMflc th lv ga s
  | .gcbRgnWrite wr n j lim value => Sys2Proof.Machine.execGcbRgnWrite wr n j lim value s
  | .spurSubstitution n => Sys2Proof.Machine.execSpurSubstitution n s
  | .spareSubstitutionCommit n => Sys2Proof.Machine.execSpareSubstitutionCommit n s
  | .spareLossReproof p first more => Sys2Proof.Machine.execSpareLossReproof p first more s
  | .nocPacket r header data => Sys2Proof.Machine.execNocPacket r header data s
  | .nocTimeout src txn => Sys2Proof.Machine.execNocTimeout src txn s
  | .dmaTransferStart p eng desc => Sys2Proof.Machine.execDmaTransferStart p eng desc s
  | .dmaTransferEnd p eng k => Sys2Proof.Machine.execDmaTransferEnd p eng k s
  | .sramScrub addr word => Sys2Proof.Machine.execSramScrub addr word s
  | .dramPatrol m rank addr lo hi => Sys2Proof.Machine.execDramPatrol m rank addr lo hi s
  | .channelLost m => Sys2Proof.Machine.execChannelLost m s
  | .routerFailure r => Sys2Proof.Machine.execRouterFailure r s
  | .keyLoad slot => Sys2Proof.Machine.execKeyLoad slot s
  | .cmpTimerFire n ns => Sys2Proof.Machine.execCmpTimerFire n ns s
  | .cmpTargetWrite wr n target => Sys2Proof.Machine.execCmpTargetWrite wr n target s
  | .cmpEnableWrite wr enable fired => Sys2Proof.Machine.execCmpEnableWrite wr enable fired s
  | .srcSelWrite wr sel synceEn => Sys2Proof.Machine.execSrcSelWrite wr sel synceEn s
  | .forceHoldover wr on => Sys2Proof.Machine.execForceHoldover wr on s
  | .stepArm wr => Sys2Proof.Machine.execStepArm wr s
  | .timeSnapshot wr => Sys2Proof.Machine.execTimeSnapshot wr s
  | .syncReceived from_ offset freq ns => Sys2Proof.Machine.execSyncReceived from_ offset freq ns s
  | .timeStep => Sys2Proof.Machine.execTimeStep s
  | .announceReceived x ns => Sys2Proof.Machine.execAnnounceReceived x ns s
  | .announceTimeout src => Sys2Proof.Machine.execAnnounceTimeout src s
  | .syncTimeout => Sys2Proof.Machine.execSyncTimeout s
  | .holdLimitExceeded => Sys2Proof.Machine.execHoldLimitExceeded s
  | .refuseFault => Sys2Proof.Machine.execRefuseFault s
  | .ptpMasterTx port sub kind => Sys2Proof.Machine.execPtpMasterTx port sub kind s
  | .esmcReceived port sub ql => Sys2Proof.Machine.execEsmcReceived port sub ql s
  | .synceLoss => Sys2Proof.Machine.execSynceLoss s
  | .ppsInEdge x ns => Sys2Proof.Machine.execPpsInEdge x ns s
  | .ppsOutPulse => Sys2Proof.Machine.execPpsOutPulse s
  | .lockWaitExpiry => Sys2Proof.Machine.execLockWaitExpiry s
  | .cellStart c => Sys2Proof.Machine.execCellStart c s
  | .slotMessage r e pdus => Sys2Proof.Machine.execSlotMessage r e pdus s
  | .indicationPost c sfn slot pdu ind => Sys2Proof.Machine.execIndicationPost c sfn slot pdu ind s
  | .harqHoldExpiry c rnti h => Sys2Proof.Machine.execHarqHoldExpiry c rnti h s
  | .cellLockEffect p c => Sys2Proof.Machine.execCellLockEffect p c s
  | .cellUnlockEffect p c bank => Sys2Proof.Machine.execCellUnlockEffect p c bank s
  | .frameReceived x sub f ns => Sys2Proof.Machine.execFrameReceived x sub f ns s
  | .delayMeasurementMsg x sub isResponse owd => Sys2Proof.Machine.execDelayMeasurementMsg x sub isResponse owd s
  | .dmStart wr x => Sys2Proof.Machine.execDmStart wr x s
  | .dmTimeout x => Sys2Proof.Machine.execDmTimeout x s
  | .ulWindowClose k sfn slot sym => Sys2Proof.Machine.execUlWindowClose k sfn slot sym s
  | .fhFrameSend x sub ns => Sys2Proof.Machine.execFhFrameSend x sub ns s
  | .fhTxWindowExpiry x sub ns => Sys2Proof.Machine.execFhTxWindowExpiry x sub ns s
  | .fhLinkUp x sub => Sys2Proof.Machine.execFhLinkUp x sub s
  | .fhLinkDown x sub => Sys2Proof.Machine.execFhLinkDown x sub s
  | .peerMacWrite wr x sub mac => Sys2Proof.Machine.execPeerMacWrite wr x sub mac s
  | .maskMeasurement d near => Sys2Proof.Machine.execMaskMeasurement d near s
  | .maskMuteClear wr d => Sys2Proof.Machine.execMaskMuteClear wr d s
  | .dfeSnapshot wr d => Sys2Proof.Machine.execDfeSnapshot wr d s
  | .seqWrite wr d mem value => Sys2Proof.Machine.execSeqWrite wr d mem value s
  | .dfeCfgWrite wr d f value => Sys2Proof.Machine.execDfeCfgWrite wr d f value s
  | .passCommit p b results beams => Sys2Proof.Machine.execPassCommit p b results beams s
  | .prefixLookup idx => Sys2Proof.Machine.execPrefixLookup idx s
  | .spillCommit k => Sys2Proof.Machine.execSpillCommit k s
  | .pageWaitExhausted idx => Sys2Proof.Machine.execPageWaitExhausted idx s
  | .peerSpillCommit idx node frames => Sys2Proof.Machine.execPeerSpillCommit idx node frames s
  | .moveCommit idx => Sys2Proof.Machine.execMoveCommit idx s
  | .roleChange x => Sys2Proof.Machine.execRoleChange x s
  | .cancellationApply idx => Sys2Proof.Machine.execCancellationApply idx s
  | .sequenceFreeze idx => Sys2Proof.Machine.execSequenceFreeze idx s
  | .sequenceEnd idx => Sys2Proof.Machine.execSequenceEnd idx s
  | .scopeKeyReplace scope => Sys2Proof.Machine.execScopeKeyReplace scope s
  | .energyInterval samples pinW => Sys2Proof.Machine.execEnergyInterval samples pinW s
  | .deltaActivate slot => Sys2Proof.Machine.execDeltaActivate slot s
  | .deltaFreeing slot => Sys2Proof.Machine.execDeltaFreeing slot s
  | .deltaSlotFree slot => Sys2Proof.Machine.execDeltaSlotFree slot s
  | .shardMoveSwitch copied => Sys2Proof.Machine.execShardMoveSwitch copied s
  | .shardMoveRelease => Sys2Proof.Machine.execShardMoveRelease s
  | .linkTrained l x => Sys2Proof.Machine.execLinkTrained l x s
  | .linkRetrainTimer l => Sys2Proof.Machine.execLinkRetrainTimer l s
  | .laneFailure l lane => Sys2Proof.Machine.execLaneFailure l lane s
  | .linkRetrainEnd l x => Sys2Proof.Machine.execLinkRetrainEnd l x s
  | .linkAuthAccept l peerNode peerLink => Sys2Proof.Machine.execLinkAuthAccept l peerNode peerLink s
  | .linkAuthTimeout l => Sys2Proof.Machine.execLinkAuthTimeout l s
  | .dataFlit l f => Sys2Proof.Machine.execDataFlit l f s
  | .nak l ack => Sys2Proof.Machine.execNak l ack s
  | .ackTimeout l => Sys2Proof.Machine.execAckTimeout l s
  | .rekey l => Sys2Proof.Machine.execRekey l s
  | .epochRollover l => Sys2Proof.Machine.execEpochRollover l s
  | .ldRecord l r => Sys2Proof.Machine.execLdRecord l r s
  | .stRecord l r => Sys2Proof.Machine.execStRecord l r s
  | .addRecord l r => Sys2Proof.Machine.execAddRecord l r s
  | .minRecord l r => Sys2Proof.Machine.execMinRecord l r s
  | .maxRecord l r => Sys2Proof.Machine.execMaxRecord l r s
  | .casRecord l r => Sys2Proof.Machine.execCasRecord l r s
  | .msgRecord l r => Sys2Proof.Machine.execMsgRecord l r s
  | .ldRsp l r => Sys2Proof.Machine.execLdRsp l r s
  | .stAck l r => Sys2Proof.Machine.execStAck l r s
  | .atomRsp l r => Sys2Proof.Machine.execAtomRsp l r s
  | .msgAck l r => Sys2Proof.Machine.execMsgAck l r s
  | .e2eTimeout dst tid => Sys2Proof.Machine.execE2eTimeout dst tid s
  | .memberFailedMark node => Sys2Proof.Machine.execMemberFailedMark node s
  | .collectiveEnd c ring parts => Sys2Proof.Machine.execCollectiveEnd c ring parts s
  | .peerSnapshot wr node => Sys2Proof.Machine.execPeerSnapshot wr node s
  | .sqTailDoorbell r tail => Sys2Proof.Machine.execSqTailDoorbell r tail s
  | .cqHeadDoorbell r head => Sys2Proof.Machine.execCqHeadDoorbell r head s
  | .ringConfigWrite r value => Sys2Proof.Machine.execRingConfigWrite r value s
  | .noticePost r => Sys2Proof.Machine.execNoticePost r s
  | .coalTimerExpiry r => Sys2Proof.Machine.execCoalTimerExpiry r s
  | .generate sl r e => Sys2Proof.Machine.execGenerate sl r e s
  | .cancel sl r e => Sys2Proof.Machine.execCancel sl r e s
  | .freezeSeq sl r e => Sys2Proof.Machine.execFreezeSeq sl r e s
  | .thaw sl r e => Sys2Proof.Machine.execThaw sl r e s
  | .querySeq sl r e => Sys2Proof.Machine.execQuerySeq sl r e s
  | .copy sl r e => Sys2Proof.Machine.execCopy sl r e s
  | .regionSet sl r e => Sys2Proof.Machine.execRegionSet sl r e s
  | .acctRead sl r e => Sys2Proof.Machine.execAcctRead sl r e s
  | .deltaLoad sl r e => Sys2Proof.Machine.execDeltaLoad sl r e s
  | .deltaRetire sl r e => Sys2Proof.Machine.execDeltaRetire sl r e s
  | .deltaQuery sl r e => Sys2Proof.Machine.execDeltaQuery sl r e s
  | .nop sl r e => Sys2Proof.Machine.execNop sl r e s
  | .sliceBind e => Sys2Proof.Machine.execSliceBind e s
  | .sliceUnbind e => Sys2Proof.Machine.execSliceUnbind e s
  | .sliceFreeze e => Sys2Proof.Machine.execSliceFreeze e s
  | .sliceFreezeComplete x => Sys2Proof.Machine.execSliceFreezeComplete x s
  | .sliceThaw e => Sys2Proof.Machine.execSliceThaw e s
  | .sliceSave e => Sys2Proof.Machine.execSliceSave e s
  | .sliceRestore e img => Sys2Proof.Machine.execSliceRestore e img s
  | .groupCreate e => Sys2Proof.Machine.execGroupCreate e s
  | .groupAddSlice e => Sys2Proof.Machine.execGroupAddSlice e s
  | .groupRemoveSlice e => Sys2Proof.Machine.execGroupRemoveSlice e s
  | .groupDissolve e => Sys2Proof.Machine.execGroupDissolve e s
  | .modelLoad e body => Sys2Proof.Machine.execModelLoad e body s
  | .modelUnload e => Sys2Proof.Machine.execModelUnload e s
  | .cellLock e => Sys2Proof.Machine.execCellLock e s
  | .cellUnlock e => Sys2Proof.Machine.execCellUnlock e s
  | .cellPriority e => Sys2Proof.Machine.execCellPriority e s
  | .cellTxAtten e => Sys2Proof.Machine.execCellTxAtten e s
  | .cellStatus e => Sys2Proof.Machine.execCellStatus e s
  | .domainJoin e => Sys2Proof.Machine.execDomainJoin e s
  | .domainListAdd e => Sys2Proof.Machine.execDomainListAdd e s
  | .domainListRemove e => Sys2Proof.Machine.execDomainListRemove e s
  | .routeSet e => Sys2Proof.Machine.execRouteSet e s
  | .negotiate x major minor => Sys2Proof.Machine.execNegotiate x major minor s
  | .heartbeat x => Sys2Proof.Machine.execHeartbeat x s
  | .heartbeatTimeout sl => Sys2Proof.Machine.execHeartbeatTimeout sl s
  | .ctlHeartbeatTimeout => Sys2Proof.Machine.execCtlHeartbeatTimeout s
  | .attach x => Sys2Proof.Machine.execAttach x s
  | .graceExpiry sl => Sys2Proof.Machine.execGraceExpiry sl s
  | .scrubEnd sl => Sys2Proof.Machine.execScrubEnd sl s
  | .acctSnapshot wr sl => Sys2Proof.Machine.execAcctSnapshot wr sl s
  | .kvSnapshot wr model => Sys2Proof.Machine.execKvSnapshot wr model s
  | .wdKick ix => Sys2Proof.Machine.execWdKick ix s
  | .watchdogExpiry ix => Sys2Proof.Machine.execWatchdogExpiry ix s
  | .fwException ix => Sys2Proof.Machine.execFwException ix s
  | .fwSramUe ix => Sys2Proof.Machine.execFwSramUe ix s
  | .restartTimeout ix => Sys2Proof.Machine.execRestartTimeout ix s
  | .fwReady ix => Sys2Proof.Machine.execFwReady ix s
  | .leadershipPass => Sys2Proof.Machine.execLeadershipPass s
  | .release wr ix => Sys2Proof.Machine.execRelease wr ix s
  | .restartReq wr ix => Sys2Proof.Machine.execRestartReq wr ix s
  | .bootSlotWrite wr slot => Sys2Proof.Machine.execBootSlotWrite wr slot s
  | .confirm wr => Sys2Proof.Machine.execConfirm wr s
  | .startupStep1 ms => Sys2Proof.Machine.execStartupStep1 ms s
  | .startupStep2 ms helperOk pufOk => Sys2Proof.Machine.execStartupStep2 ms helperOk pufOk s
  | .startupStep3 ms => Sys2Proof.Machine.execStartupStep3 ms s
  | .startupStep4 ms d dm0 dm1 => Sys2Proof.Machine.execStartupStep4 ms d dm0 dm1 s
  | .startupStep5 ms up capGib rate => Sys2Proof.Machine.execStartupStep5 ms up capGib rate s
  | .startupStep6 ms x => Sys2Proof.Machine.execStartupStep6 ms x s
  | .startupStep7 ms => Sys2Proof.Machine.execStartupStep7 ms s
  | .coreWave k ma => Sys2Proof.Machine.execCoreWave k ma s
  | .waveRetry k ma => Sys2Proof.Machine.execWaveRetry k ma s
  | .startupStep8 ms => Sys2Proof.Machine.execStartupStep8 ms s
  | .startupStep9 ms => Sys2Proof.Machine.execStartupStep9 ms s
  | .startupStep10 ms fails => Sys2Proof.Machine.execStartupStep10 ms fails s
  | .startupStep11 ms radio hold => Sys2Proof.Machine.execStartupStep11 ms radio hold s
  | .devRst wr warm => Sys2Proof.Machine.execDevRst wr warm s
  | .wholeDeviceReset => Sys2Proof.Machine.execWholeDeviceReset s
  | .perstAssert => Sys2Proof.Machine.execPerstAssert s
  | .resetNAssert => Sys2Proof.Machine.execResetNAssert s
  | .resetDeassert perst => Sys2Proof.Machine.execResetDeassert perst s
  | .partRst wr p force => Sys2Proof.Machine.execPartRst wr p force s
  | .clRst wr cl => Sys2Proof.Machine.execClRst wr cl s
  | .resetPhaseEnd p cl fails => Sys2Proof.Machine.execResetPhaseEnd p cl fails s
  | .coreRst wr n => Sys2Proof.Machine.execCoreRst wr n s
  | .spurRst wr n => Sys2Proof.Machine.execSpurRst wr n s
  | .slotRst wr cl k => Sys2Proof.Machine.execSlotRst wr cl k s
  | .posRst wr cl k => Sys2Proof.Machine.execPosRst wr cl k s
  | .defectMapWrite => Sys2Proof.Machine.execDefectMapWrite s
  | .powerDomainSwitchOn d => Sys2Proof.Machine.execPowerDomainSwitchOn d s
  | .powerDomainSwitchOff d => Sys2Proof.Machine.execPowerDomainSwitchOff d s
  | .getVersion b => Sys2Proof.Machine.execGetVersion b s
  | .getCapabilities b => Sys2Proof.Machine.execGetCapabilities b s
  | .negotiateAlgorithms b ed25519 sha512 => Sys2Proof.Machine.execNegotiateAlgorithms b ed25519 sha512 s
  | .getDigests b => Sys2Proof.Machine.execGetDigests b s
  | .getCertificate b slot off len => Sys2Proof.Machine.execGetCertificate b slot off len s
  | .challenge b slot nonce => Sys2Proof.Machine.execChallenge b slot nonce s
  | .getMeasurements b index sign nonce => Sys2Proof.Machine.execGetMeasurements b index sign nonce s
  | .vendorMldsaSignature b => Sys2Proof.Machine.execVendorMldsaSignature b s
  | .vendorMldsaChain b off len => Sys2Proof.Machine.execVendorMldsaChain b off len s
  | .mctpControl b setEid => Sys2Proof.Machine.execMctpControl b setEid s
  | .pldmMonitoring b sensor => Sys2Proof.Machine.execPldmMonitoring b sensor s
  | .requestUpdate b => Sys2Proof.Machine.execRequestUpdate b s
  | .pldmComponentImage b img sigOk writeOk => Sys2Proof.Machine.execPldmComponentImage b img sigOk writeOk s
  | .pldmComponentSection b sec => Sys2Proof.Machine.execPldmComponentSection b sec s
  | .pldmComponentDcr b d writeOk => Sys2Proof.Machine.execPldmComponentDcr b d writeOk s
  | .hello seq => Sys2Proof.Machine.execHello seq s
  | .unlock seq t => Sys2Proof.Machine.execUnlock seq t s
  | .lock seq => Sys2Proof.Machine.execLock seq s
  | .status seq tgt => Sys2Proof.Machine.execStatus seq tgt s
  | .speed seq code => Sys2Proof.Machine.execSpeed seq code s
  | .debugHalt seq tgt => Sys2Proof.Machine.execDebugHalt seq tgt s
  | .resume seq tgt => Sys2Proof.Machine.execResume seq tgt s
  | .step seq tgt count => Sys2Proof.Machine.execStep seq tgt count s
  | .bpSet seq tgt index mask addr => Sys2Proof.Machine.execBpSet seq tgt index mask addr s
  | .bpClr seq tgt index => Sys2Proof.Machine.execBpClr seq tgt index s
  | .regRd seq tgt reg => Sys2Proof.Machine.execRegRd seq tgt reg s
  | .regWr seq tgt reg value => Sys2Proof.Machine.execRegWr seq tgt reg value s
  | .memRd seq addr len mode => Sys2Proof.Machine.execMemRd seq addr len mode s
  | .memWr seq addr mode data => Sys2Proof.Machine.execMemWr seq addr mode data s
  | .lockoutExpiry => Sys2Proof.Machine.execLockoutExpiry s
  | .sensorSample temps pd vinMv iinMa => Sys2Proof.Machine.execSensorSample temps pd vinMv iinMa s
  | .powerClamp meanW ns => Sys2Proof.Machine.execPowerClamp meanW ns s
  | .thermalClamp point temp ns => Sys2Proof.Machine.execThermalClamp point temp ns s
  | .clampClear x => Sys2Proof.Machine.execClampClear x s
  | .thermalTrip point temp => Sys2Proof.Machine.execThermalTrip point temp s
  | .inputOvercurrentTrip ma => Sys2Proof.Machine.execInputOvercurrentTrip ma s
  | .domainOvercurrentTrip d ma => Sys2Proof.Machine.execDomainOvercurrentTrip d ma s
  | .converterFault c => Sys2Proof.Machine.execConverterFault c s
  | .underVoltage mv => Sys2Proof.Machine.execUnderVoltage mv s
  | .overVoltage mv => Sys2Proof.Machine.execOverVoltage mv s
  | .eventLogNorWrite ok => Sys2Proof.Machine.execEventLogNorWrite ok s
  | .ppsInTimeout => Sys2Proof.Machine.execPpsInTimeout s
  | .coreResetEnd u passes => Sys2Proof.Machine.execCoreResetEnd u passes s
  | .debugFrameError => Sys2Proof.Machine.execDebugFrameError s
  | .idleFlit l f => Sys2Proof.Machine.execIdleFlit l f s
  | .ptpRequestReceived port sub kind => Sys2Proof.Machine.execPtpRequestReceived port sub kind s
  | .esmcTx => Sys2Proof.Machine.execEsmcTx s

end Sys2Proof.Machine
end

