-- ==== Sys2Proof/Safety.lean ====
section
/-! DEFINITION. What a safe run of the block is (every step answers a next state, and the sparse maps that hold the registers
and the memories keep their canonical form), and the conditions and frames that the statements about commands use. -/

namespace Sys2Proof.Safety

open Sys2Proof.Machine

/-- The canonical forms that every step keeps: register keys rise strictly, and both memories list only bytes that differ
from what an unlisted address reads as, at rising addresses. -/
def Canonical (s : State) : Prop := kwf s.regs = true ∧ Memory.wf s.mem = true ∧ Memory.wf s.hostMem = true

/-- A step neither faults nor refuses. -/
def Progresses (s : State) : Prop := ∃ t, step s = .next t

/-! ## Frames -/

/-- The register fields outside `l` (field and instance) read as before. -/
def RegsSame (s t : State) (l : List (Field × Nat)) : Prop :=
  ∀ f i, (∀ x ∈ l, f.key i ≠ x.1.key x.2) → t.rd f i = s.rd f i

/-- Nothing but register fields of `l` changed. -/
def OnlyRegs (s t : State) (l : List (Field × Nat)) : Prop := t = s.withRegs t.regs ∧ RegsSame s t l

/-- Only what `u` copies from `t` changed, and of the register fields only those of `l`. -/
def Only (s t : State) (l : List (Field × Nat)) (u : State → State) : Prop := t = u (s.withRegs t.regs) ∧ RegsSame s t l

/-- The register fields that recording an event may write (R417, R489, R490). -/
def eventFields : List (Field × Nat) :=
  [(F.MGT_LOG_STAT.evt_count, 0), (F.MGT_LOG_STAT.evt_seq, 0), (F.MGT_LOG_STAT.svc_evt, 0), (F.FW_GSTAT.log_lost, 0)]

/-- A record of class `cls`, severity `sev` and datum `data` from processor `src` went to the event log: Cairn queues it for
the NOR log, or the restart controller keeps it while Cairn is down and has room (R417, R489). -/
def Logged (s t : State) (cls sev data src : Nat) : Prop :=
  let is (r : EvRec) : Prop := r.cls = cls ∧ r.sev = sev ∧ r.data = data ∧ r.src = src
  (s.procUp cairn = true → ∃ r, is r ∧ t.mgt.norQueue = s.mgt.norQueue ++ [r]) ∧
    (s.procUp cairn = false → s.mgt.cairnQueue.length < 256 → ∃ r, is r ∧ t.mgt.cairnQueue = s.mgt.cairnQueue ++ [r])

/-- Every byte of device memory outside [a, a + n) reads as before. -/
def MemSame (s t : State) (a n : Nat) : Prop :=
  ∀ x, x < a ∨ a + n ≤ x → Memory.byte t.mem x = Memory.byte s.mem x

/-! ## Spur threads -/

/-- Thread `th` may issue its next instruction: it has the turn of a Spur core that runs, no breakpoint of the core lies at its pc
(or RESUME goes over it once), and its fetch succeeds (R148, R153, R484). -/
def MayIssue (s : State) (th : Nat) : Prop :=
  s.mayIssue th = true ∧ (s.bpHit th = false ∨ (s.thread th).skip = true) ∧ s.fetchOk th = true

/-- The thread as its instruction finds it: READY, and a breakpoint that RESUME went over counts again. -/
def issuing (s : State) (th : Nat) : Thread := { s.thread th with skip := false, st := .ready }

/-- The thread with results that are in `k` cycles after an instruction that issues at this state (R149, R154, R174). -/
def late (s : State) (th k : Nat) (x : Thread) : Thread := { x with due := max x.due (s.issueAt th + k) }

/-- The thread held for `k` cycles after that issue: after a taken branch or jump (R149), and STALLED on a local access (R154). -/
def bubbled (s : State) (th : Nat) (x : Thread) : Thread := { x with busy := s.issueAt th + 3 }
def stalled (s : State) (th k : Nat) (x : Thread) : Thread := { x with st := .stalled, busy := s.issueAt th + k }

/-- An instruction of thread `th` changed that thread, its state in SPR.TSTATE, its core's rounds and instruction cache (with the
free value that names a replaced line) and the register fields of `also`, and nothing else: no other thread or core, no memory, no
other register. -/
def OnlyThread (s t : State) (th : Nat) (also : List (Field × Nat)) : Prop :=
  t = (((s.withRegs t.regs).withThreads t.threads).withSpurs t.spurs).withFree t.free ∧ (∀ k, k ≠ th → t.thread k = s.thread k) ∧
    (∀ n, n ≠ th / 8 → t.spur n = s.spur n) ∧ RegsSame s t ((tsField (th % 8), th / 8) :: also)

/-- The fields that a fault of a thread of Spur core `n` writes (R160). -/
def faultFields (n : Nat) : List (Field × Nat) :=
  [(F.SPR_FAULT.cause, n), (F.SPR_FAULT.thread, n), (F.SPR_FAULT.status, n), (F.SPR_FAULT.job_tag, n), (F.SPR_FAULT_PC.pc, n),
    (F.SPR_STAT.fault, n)]

/-- Thread `th` stopped with a fault of `cause`: the core records it, the thread is HALTED and its loops end, and its
registers stay (R160, R185). -/
def Faulted (s t : State) (th cause : Nat) : Prop :=
  t.rd F.SPR_FAULT.cause (th / 8) = cause ∧ t.rd F.SPR_FAULT.thread (th / 8) = th % 8 ∧
    t.rd F.SPR_FAULT_PC.pc (th / 8) = (s.thread th).pc.toNat ∧ t.rd F.SPR_STAT.fault (th / 8) = 1 ∧
    (t.thread th).st = .halted ∧ (t.thread th).faulted = true ∧ (t.thread th).loops = [] ∧
    (t.thread th).g = (s.thread th).g ∧ (t.thread th).a = (s.thread th).a ∧ (t.thread th).acc = (s.thread th).acc ∧
    OnlyThread s t th (faultFields (th / 8))

/-! ## Work on lanes -/

/-- Work-list item `i` of a partition may start at cycle `cyc` (R69, R84, R87, R289, R504): it waits, the item it waits for is done, the
earlier items of its lane are over, its unit gives work, and the cycle lies in a gap of its lane and in a tick that runs. -/
def ItemMayStart (s : State) (p i cyc : Nat) (it : WlItem) : Prop :=
  s.item? p i = some it ∧ it.st = .waiting ∧
    (it.after = 0 ∨ ((s.partOf p).wl[it.after - 1]?.any fun x => x.st == .done) = true) ∧
    laneFree (s.partOf p).wl i it = true ∧ s.laneOk p it.lane = true ∧ s.inGap p it cyc = true ∧
    s.time.edges = true ∧ s.time.cut = false ∧ s.seqRuns p = true ∧ s.on F.TICK_STAT.running p = true ∧ s.clamped = false ∧
    (s.partOf p).await = false ∧ (s.partOf p).hold = false ∧ s.cycNow ≤ cyc ∧ cyc < 412500

/-- RADIO entry `e` of a partition may start at cycle `cyc` (R69, R87): it waits, its start has come, its unit gives work, no earlier entry
blocks it, and it can end before the next tick edge. -/
def EntryMayStart (s : State) (p e cyc : Nat) (x : ColSlot) : Prop :=
  (s.partOf p).col[e]? = some x ∧ x.kind = 0 ∧ x.st = .waiting ∧ x.start ≤ cyc ∧ s.cycNow ≤ cyc ∧ s.time.edges = true ∧
    s.time.cut = false ∧ s.seqRuns p = true ∧ s.on F.TICK_STAT.running p = true ∧ s.laneOk p x.lane = true ∧ s.laneBusy p x = false

/-- State of entry `e` of the column of a partition, and of item `i` of its list. -/
def entrySt (s : State) (p e : Nat) : Option EntryState := (s.partOf p).col[e]?.map (·.st)
def itemSt (s : State) (p i : Nat) : Option ItemState := (s.item? p i).map (·.st)

/-! ## Commands of a ring -/

/-- Entry `x` stands at the head of ring `k`, the ring may be read, and its token is higher than every earlier one of the ring
(R386, R390). -/
def CanRead (s : State) (k : Nat) (x : SubEntry) : Prop :=
  s.offered k = true ∧ (s.ring k).fifo = [] ∧ s.readable k = true ∧ ∀ l, (s.ring k).lastTok = some l → l < x.e.token.toNat

/-- The state in which a command that was read is executed: the head has moved, the command is outstanding, its token is live
(R385, R386, R390). -/
def taken (s : State) (k : Nat) (x : SubEntry) : State :=
  let u := s.takeEntry k
  u.setRing k { u.ring k with lastTok := some x.e.token.toNat, live := (u.ring k).live ++ [(x.e.token.toNat, 1)] }

end Sys2Proof.Safety
end

