-- ==== Sys2Proof/Certificates/Slice0/Obligations.lean ====
section
/-! DEFINITION. The statements for the provers. Each is about one command or one step; the conditions and frames are those of
Sys2Proof/Safety.lean. Where a clause rests on a choice of the model, the docstring names its log entry (notes/assumptions). -/

open Sys2Proof Sys2Proof.Machine Sys2Proof.Safety

/-- The ALU operations of the Spur cores, as their sub field selects them (R159). Each word of opcode 0x01 decodes to the
operation that its sub field selects, with immediate shifts taking sh and rs2 = 0, every other operation sh = 0, and the
reserved sub values illegal. On a thread that may issue, the operation completes: it writes the value that R159 gives (shift
amounts modulo 64) to g[rd], moves the thread to its next instruction and changes nothing else. -/
def Obligations.SpurAluWritesItsRegister : Prop :=
  ∀ (s : State) (th : Fin 4096) (rd rs1 rs2 : Fin 32) (sh : Fin 64) (n : Nat),
    let word (r2 sub h : Nat) : Nat := 2 ^ 26 + rd.val * 2 ^ 21 + rs1.val * 2 ^ 16 + r2 * 2 ^ 11 + sub * 2 ^ 6 + h
    let x := issuing s th.val
    let a := x.rg rs1
    let b := x.rg rs2
    let form (r2 sub h : Nat) (i : Instr) (y : Thread) : Prop :=
      decodeSpur th (word r2 sub h) = some i ∧
        (MayIssue s th.val → ∃ t, exec i s = .next t ∧ t.thread th.val = y.next ∧ OnlyThread s t th.val [])
    let gives (r2 sub h : Nat) (i : Instr) (v : Word) : Prop := form r2 sub h i (x.wg rd v)
    let product (sub : Nat) (i : Instr) (v : Word) : Prop := form rs2 sub 0 i (late s th.val 3 (x.wg rd v))
    gives rs2 0 0 (.add th rd rs1 rs2) (a + b) ∧ gives rs2 1 0 (.sub th rd rs1 rs2) (a - b) ∧
    gives rs2 2 0 (.and th rd rs1 rs2) (a &&& b) ∧
    gives rs2 3 0 (.or th rd rs1 rs2) (a ||| b) ∧
    gives rs2 4 0 (.xor th rd rs1 rs2) (a ^^^ b) ∧
    gives rs2 5 0 (.sll th rd rs1 rs2) (a <<< (b.toNat % 64)) ∧
    gives rs2 6 0 (.srl th rd rs1 rs2) (a >>> (b.toNat % 64)) ∧
    gives rs2 7 0 (.sra th rd rs1 rs2) (a.sshiftRight (b.toNat % 64)) ∧
    gives 0 8 sh (.slli th rd rs1 sh) (a <<< sh.val) ∧ gives 0 9 sh (.srli th rd rs1 sh) (a >>> sh.val) ∧
    gives 0 10 sh (.srai th rd rs1 sh) (a.sshiftRight sh.val) ∧
    gives rs2 11 0 (.slt th rd rs1 rs2) (if a.toInt < b.toInt then 1 else 0) ∧
    gives rs2 12 0 (.sltu th rd rs1 rs2) (if a.toNat < b.toNat then 1 else 0) ∧
    product 13 (.mul th rd rs1 rs2) (BitVec.ofNat 64 (a.toNat * b.toNat)) ∧
    product 14 (.mulh th rd rs1 rs2) (BitVec.ofInt 64 (a.toInt * b.toInt / 2 ^ 64)) ∧
    product 15 (.mulhu th rd rs1 rs2) (BitVec.ofNat 64 (a.toNat * b.toNat / 2 ^ 64)) ∧
    gives rs2 16 0 (.min th rd rs1 rs2) (if a.toInt ≤ b.toInt then a else b) ∧
    gives rs2 17 0 (.max th rd rs1 rs2) (if a.toInt ≤ b.toInt then b else a) ∧
    gives rs2 18 0 (.minu th rd rs1 rs2) (if a.toNat ≤ b.toNat then a else b) ∧
    gives rs2 19 0 (.maxu th rd rs1 rs2) (if a.toNat ≤ b.toNat then b else a) ∧
    gives 0 20 0 (.clz th rd rs1) (BitVec.ofNat 64 (((List.range 64).find? fun k => a.getLsbD (63 - k)).getD 64)) ∧
    gives 0 21 0 (.popc th rd rs1) (BitVec.ofNat 64 ((List.range 64).countP fun k => a.getLsbD k)) ∧
    gives 0 22 0 (.bswap th rd rs1) (BitVec.ofNat 64 (leVal (leBytes 8 a.toNat).reverse)) ∧
    (8 ≤ n → n ≤ 10 → rs2 ≠ 0 → decodeSpur th (word rs2 n sh) = none) ∧
    (n < 8 ∨ 10 < n → n < 32 → sh ≠ 0 → decodeSpur th (word rs2 n sh) = none) ∧
    (23 ≤ n → n < 32 → decodeSpur th (word rs2 n sh) = none)

/-- Immediates, moves between register files, and conversions (R127, R150, R158, R179, R188). Immediate operations, LUI,
MOVA, ADDA, the moves of cb, cl and lc, CBGET and CVT complete with the register values of R158 and R188 on a thread that
may issue, and change nothing outside the thread. A CVT of an unsupported format code is an illegal instruction (cause 1); a
CVT that saturates sets cvt_ovf. Logs 22 and 23 name the model's reading of IEEE corners. -/
def Obligations.SpurMovesImmediatesAndConversions : Prop :=
  (
    ∀ (s : State) (th : Fin 4096) (rd rs1 rs2 : Fin 32) (ad an : Fin 8) (lv : Fin 4) (imm : BitVec 16), MayIssue s th.val →
      let x := issuing s th.val
      let a := x.rg rs1
      let gives (i : Instr) (y : Thread) : Prop :=
        ∃ t, exec i s = .next t ∧ t.thread th.val = y.next ∧ OnlyThread s t th.val []
      gives (.addi th rd rs1 imm) (x.wg rd (a + imm.signExtend 64)) ∧ gives (.andi th rd rs1 imm) (x.wg rd (a &&& imm.zeroExtend 64)) ∧
      gives (.ori th rd rs1 imm) (x.wg rd (a ||| imm.zeroExtend 64)) ∧ gives (.xori th rd rs1 imm) (x.wg rd (a ^^^ imm.zeroExtend 64)) ∧
      gives (.lui th rd imm) (x.wg rd (imm.signExtend 64 <<< 16)) ∧
      gives (.movaToA th ad rs1) { x with a := x.a.set ad (a.truncate 48) } ∧
      gives (.movaFromA th rd an) (x.wg rd (x.a[an].zeroExtend 64)) ∧
      gives (.adda th ad an imm) { x with a := x.a.set ad (x.a[an] + imm.signExtend 48) } ∧
      gives (.cbset th ad rs1 rs2) { x with
        cb := x.cb.set ad (a.truncate 48), cl := x.cl.set ad ((x.rg rs2).truncate 24), wrap := x.wrap.set ad true } ∧
      gives (.mtcb th ad rs1) { x with cb := x.cb.set ad (a.truncate 48), wrap := x.wrap.set ad true } ∧
      (∀ l : BitVec 24, l = a.truncate 24 →
        gives (.mtcl th ad rs1) { x with cl := x.cl.set ad l, wrap := if l = 0 then x.wrap.set ad false else x.wrap }) ∧
      gives (.mfcb th ad rd) (x.wg rd (x.cb[ad].zeroExtend 64)) ∧
      gives (.mfcl th ad rd) (x.wg rd (BitVec.ofNat 64 (x.cl[ad].toNat + 2 ^ 24 * b2n x.wrap[ad]))) ∧
      gives (.cbget th ad lv) { x with
        cb := x.cb.set ad (BitVec.ofNat 48 (s.rd F.SPR_GCB_BASE.gcb_base (4 * (th.val / 8) + lv.val)))
        cl := x.cl.set ad (BitVec.ofNat 24 (s.rd F.SPR_GCB_LEN.gcb_len (4 * (th.val / 8) + lv.val)))
        wrap := x.wrap.set ad true } ∧
      gives (.mtlc th lv rs1) { x with lc := x.lc.set lv (a.truncate 24) } ∧
      gives (.mflc th lv rd) (x.wg rd (x.lc[lv].zeroExtend 64))) ∧
  (
    ∀ (s : State) (th : Fin 4096) (rd rs1 sf df : Fin 32) (rnd : Bool), MayIssue s th.val →
      let x := issuing s th.val
      let v := (x.rg rs1).toNat
      ((cvtFmt sf.val && cvtFmt df.val) = false → ∃ t, exec (.cvt th rd rs1 sf df rnd) s = .next t ∧ Faulted s t th.val 1) ∧
      ((cvtFmt sf.val && cvtFmt df.val) = true → ¬(sf.val = 17 ∧ df.val = 17) →
        let n := cvtSource sf.val v
        ∃ t, exec (.cvt th rd rs1 sf df rnd) s = .next t ∧ OnlyThread s t th.val [] ∧
          t.thread th.val = (late s th.val 2 (({ x with cvtOvf := x.cvtOvf || saturates df.val (rndOf rnd) n } : Thread).wg rd
            (BitVec.ofNat 64 (encodeElem df.val (rndOf rnd) n)))).next) ∧
      (sf = 17 → df = 17 →
        ∃ t, exec (.cvt th rd rs1 sf df rnd) s = .next t ∧ OnlyThread s t th.val [] ∧
          t.thread th.val = (late s th.val 2 (x.wg rd (BitVec.ofNat 64 (v % 2 ^ 32)))).next))

/-- NOP, YIELD, HALT, FENCE, special registers, and the cache instructions (R147, R148, R151, R153, R156, R158). NOP and
YIELD move to the next instruction; HALT halts the thread and ends its loops; FENCE passes when nothing is queued and parks
the thread otherwise; MFS reads each special register and faults on a reserved number; MTS writes sr only and faults on
every other; CWB, CINV and CFLUSH write back or drop the lines of the thread's data cache as R153 says. Which READY thread
issues next is the sender's choice (log 76). -/
def Obligations.SpurSystemAndCacheInstructions : Prop :=
  (
    ∀ (s : State) (th : Fin 4096) (rd rs1 sr : Fin 32), MayIssue s th.val →
      let n := th.val / 8
      let x := issuing s th.val
      let turn (t : State) : Prop := (t.spur n).cyc = s.issueAt th.val ∧
        (t.spur n).lastRadio = (if s.isRadio th.val then th.val % 8 else (s.spur n).lastRadio) ∧
        (t.spur n).lastOpen = if s.isRadio th.val then (s.spur n).lastOpen else th.val % 8
      (∃ t, exec (.spurNop th) s = .next t ∧ t.thread th.val = x.next ∧ turn t ∧ OnlyThread s t th.val []) ∧
      (∃ t, exec (.yield th) s = .next t ∧ t.thread th.val = x.next ∧ turn t ∧ OnlyThread s t th.val []) ∧
      (∃ t, exec (.halt th) s = .next t ∧ (t.thread th.val).st = .halted ∧ (t.thread th.val).loops = [] ∧
        (t.thread th.val).g = x.g ∧ OnlyThread s t th.val []) ∧
      (∃ t, exec (.fence th) s = .next t ∧ OnlyThread s t th.val [] ∧
        t.thread th.val = if x.sq.isEmpty then x.next else { x with st := .parked, wait := some .fenced }) ∧
      (∀ v, s.special th.val sr.val = some v →
        ∃ t, exec (.mfs th rd sr) s = .next t ∧ t.thread th.val = (x.wg rd v).next ∧ OnlyThread s t th.val []) ∧
      (5 < sr.val → ∃ t, exec (.mfs th rd sr) s = .next t ∧ Faulted s t th.val 1) ∧
      (∃ t, exec (.mts th 1 rs1) s = .next t ∧ OnlyThread s t th.val [] ∧
        t.thread th.val = ({ x with sat := (x.rg rs1).getLsbD 0, cvtOvf := (x.rg rs1).getLsbD 1 } : Thread).next) ∧
      (sr ≠ 1 → ∃ t, exec (.mts th sr rs1) s = .next t ∧ Faulted s t th.val 1)) ∧
  (
    ∀ (s : State) (th : Fin 4096) (rs1 : Fin 32), MayIssue s th.val →
      let x := issuing s th.val
      let ln := (x.rg rs1).toNat % 2 ^ 48 / 64
      (∃ t, exec (.cinv th rs1) s = .next t ∧ OnlyThread s t th.val [] ∧
        t.thread th.val = ({ x with dc := x.dc.filter fun l => l.line != ln } : Thread).next) ∧
      (x.dc.all (fun l => !l.dirty) = true →
        (∃ t, exec (.cwb th rs1) s = .next t ∧ OnlyThread s t th.val [] ∧ t.thread th.val = x.next) ∧
        (∃ t, exec (.cflush th) s = .next t ∧ OnlyThread s t th.val [] ∧
          t.thread th.val = ({ x with dc := [] } : Thread).next)) ∧
      (∀ l, x.dc = [l] → l.dirty = true → l.line = ln → x.sq = [] → l.bytes.length = 64 →
        (∃ t, exec (.cwb th rs1) s = .next t ∧ t.mem = Memory.write s.mem (ln * 64) l.bytes ∧
          t.thread th.val = ({ x with dc := [{ l with dirty := false }] } : Thread).next) ∧
        (∃ t, exec (.cflush th) s = .next t ∧ t.mem = Memory.write s.mem (ln * 64) l.bytes ∧
          t.thread th.val = ({ x with dc := [] } : Thread).next)))

/-- Branches, jumps, RPT, and where an instruction ends (R149, R158, R183, R184, R185). BR, J, JAL and JALR set pc and the
link register as R158 says, with cause 2 for a misaligned JALR target; RPT opens a level, skips its body for a count of 0
and faults for a length of 0. An instruction that ends at the innermost level's last word goes back to its start while the
count is above 1, and closes the level otherwise. -/
def Obligations.SpurBranchesJumpsAndLoops : Prop :=
  (
    ∀ (s : State) (th : Fin 4096) (rd rs1 rs2 : Fin 32) (cond : Fin 6) (off : BitVec 13) (far : BitVec 26) (imm : BitVec 16)
      (lv : Fin 4) (count : BitVec 11) (len : BitVec 12), MayIssue s th.val →
      let x := issuing s th.val
      let gives (i : Instr) (y : Thread) : Prop := ∃ t, exec i s = .next t ∧ t.thread th.val = y ∧ OnlyThread s t th.val []
      gives (.br th rs1 rs2 cond off)
        (if brCond cond.val (x.rg rs1) (x.rg rs2) then bubbled s th.val (x.jump (x.pc + off.signExtend 48 * 4)) else x.next) ∧
      gives (.j th far) (bubbled s th.val (x.jump (x.pc + far.signExtend 48 * 4))) ∧
      gives (.jal th far) (bubbled s th.val ((x.wg 31 ((x.pc + 4).zeroExtend 64)).jump (x.pc + far.signExtend 48 * 4))) ∧
      (∀ target : Addr, target = (x.rg rs1 + imm.signExtend 64).truncate 48 →
        (target.toNat % 4 = 0 → gives (.jalr th rd rs1 imm) (bubbled s th.val ((x.wg rd ((x.pc + 4).zeroExtend 64)).jump target))) ∧
        (target.toNat % 4 ≠ 0 → ∃ t, exec (.jalr th rd rs1 imm) s = .next t ∧ Faulted s t th.val 2)) ∧
      (len ≠ 0 → (x.loops.all fun l => l.lv != lv.val && x.pc.toNat + 4 * len.toNat ≤ l.last) = true →
        gives (.rpt th lv false count 0 len) (if count = 0
          then bubbled s th.val { x with lc := x.lc.set lv 0, pc := BitVec.ofNat 48 (x.pc.toNat + 4 * len.toNat + 4) }
          else { x with lc := x.lc.set lv (BitVec.ofNat 24 count.toNat), pc := x.pc + 4,
                        loops := ⟨lv.val, x.pc.toNat + 4, x.pc.toNat + 4 * len.toNat⟩ :: x.loops })) ∧
      (∀ gc : Fin 32, (x.rg gc).toNat ≤ 16777215 → (x.rg gc).toNat ≠ 0 → len ≠ 0 →
        (x.loops.all fun l => l.lv != lv.val && x.pc.toNat + 4 * len.toNat ≤ l.last) = true →
        gives (.rpt th lv true 0 gc len)
          { x with lc := x.lc.set lv (BitVec.ofNat 24 (x.rg gc).toNat), pc := x.pc + 4,
                   loops := ⟨lv.val, x.pc.toNat + 4, x.pc.toNat + 4 * len.toNat⟩ :: x.loops }) ∧
      (∀ gc : Fin 32, 16777215 < (x.rg gc).toNat → ∃ t, exec (.rpt th lv true 0 gc len) s = .next t ∧ Faulted s t th.val 1) ∧
      (len = 0 ∨ (x.loops.any fun l => l.lv == lv.val || l.last < x.pc.toNat + 4 * len.toNat) = true →
        ∃ t, exec (.rpt th lv false count 0 len) s = .next t ∧ Faulted s t th.val 1)) ∧
  (
    ∀ x : Thread,
      ((x.loops.all fun l => l.last != x.pc.toNat) = true → x.next = { x with pc := x.pc + 4 }) ∧
      (∀ l ls, x.loops = l :: ls → l.last = x.pc.toNat → ∀ i : Fin 4, i.val = l.lv →
        (1 < x.lc[i].toNat → x.next = { x with lc := x.lc.set i (x.lc[i] - 1), pc := BitVec.ofNat 48 l.start }) ∧
        (x.lc[i].toNat ≤ 1 → (ls.all fun l => l.last != x.pc.toNat) = true →
          x.next = { x with lc := x.lc.set i 0, loops := ls, pc := x.pc + 4 })))

/-- Local loads read memory, stores are posted, acknowledgements make them visible (R154, R155, R156, R158, R160, R161,
R178, R190, R191). A local LD completes with the bytes at the address that the addressing mode gives, extended as sx says,
and changes no memory. ST queues its bytes for the address that the same mode computes and leaves memory as it was;
STORE_ACK of the oldest one writes exactly those bytes, and every byte outside them reads as before. -/
def Obligations.SpurLoadsAndPostedStores : Prop :=
  (
    ∀ (s : State) (th : Fin 4096) (rt : Fin 32) (an : Fin 8) (am sz : Fin 4) (sx : Bool) (off : BitVec 13),
      MayIssue s th.val →
      let x := issuing s th.val
      let n := 2 ^ sz.val
      let m := x.mAddr an am.val n off
      (m.2.2 ≠ 0 → ∃ t, exec (.ld th rt an am sz sx off) s = .next t ∧ Faulted s t th.val m.2.2) ∧
      (m.2.2 = 0 → m.1 % n ≠ 0 → ∃ t, exec (.ld th rt an am sz sx off) s = .next t ∧ Faulted s t th.val 2) ∧
      (∀ key c, m.2.2 = 0 → m.1 % n = 0 → s.checkAccess th.val m.1 n .rd = (0, key, c) →
        s.classOf (th.val / 8) (s.isRadio th.val) m.1 n = .loc → (x.cached m.1).isNone → x.sq = [] →
        s.rdStatus m.1 n key = St.ok → s.isDram m.1 = false →
        ∃ t, exec (.ld th rt an am sz sx off) s = .next t ∧ OnlyThread s t th.val [] ∧
          t.thread th.val = stalled s th.val (match s.place m.1 with | .pad _ => 16 | _ => 12)
            ((x.wa an (BitVec.ofNat 48 m.2.1)).wg rt
              (extend n sx (leVal ((List.range n).map fun i => Memory.byte s.mem (m.1 + i))))).next)) ∧
  (
    ∀ (s : State) (th : Fin 4096) (rt : Fin 32) (an : Fin 8) (am sz : Fin 4) (off : BitVec 13),
      (MayIssue s th.val →
        let x := issuing s th.val
        let n := 2 ^ sz.val
        let m := x.mAddr an am.val n off
        let y := x.wa an (BitVec.ofNat 48 m.2.1)
        let p : Posted := ⟨m.1, leBytes n (x.rg rt).toNat, (s.checkAccess th.val m.1 n .wr).2.1⟩
        (m.2.2 = 0 → m.1 % n ≠ 0 → ∃ t, exec (.st th rt an am sz off) s = .next t ∧ Faulted s t th.val 2) ∧
        (m.2.2 = 0 → m.1 % n = 0 → (s.checkAccess th.val m.1 n .wr).1 = 0 → (x.cached m.1).isNone →
          s.outstanding (th.val / 8) < 64 →
          ∃ t, exec (.st th rt an am sz off) s = .next t ∧ OnlyThread s t th.val [] ∧
            t.thread th.val = if x.sq.length < 7 then ({ y with sq := y.sq ++ [p] } : Thread).next
              else { y with st := .parked, wait := some (.storeRoom p) })) ∧
      (∀ (k : Fin 7) (p : Posted), (s.thread th.val).sq[k.val]? = some p → (s.thread th.val).wait = none →
        ((s.thread th.val).sq.take k.val).all (fun q => q.addr / 64 != p.addr / 64) = true →
        s.accStatus p.addr p.bytes.length p.key = St.ok →
        ((linesOf p.addr p.bytes.length).all fun l => s.lineRd l p.key != .garbage) = true →
        ∃ t, exec (.storeAck th k) s = .next t ∧ (t.thread th.val).sq = (s.thread th.val).sq.eraseIdx k.val ∧
          (t.thread th.val).g = (s.thread th.val).g ∧ t.mem = Memory.write s.mem p.addr p.bytes ∧
          MemSame s t p.addr p.bytes.length))

/-- Atomics act at their memory, remote replies return a parked thread (R147, R154, R156, R158). A local atomic returns the
old value in g[rd] and stores the new one at its address, every byte outside it unchanged; a remote one parks the thread,
and SPUR_REMOTE_REPLY completes the parked access, writes the register and makes the thread READY. -/
def Obligations.SpurAtomicsAndRemoteReplies : Prop :=
  (
    ∀ (s : State) (th : Fin 4096) (rd rs2 : Fin 32) (an : Fin 8) (dbl sgn : Bool) (key : Nat) (c : Bool), MayIssue s th.val →
      let x := issuing s th.val
      let n := if dbl then 8 else 4
      let a := x.a[an].toNat
      let old := leVal (s.load a n key)
      let opnd := (x.rg rs2).toNat
      let gives (i : Instr) (new : Nat) : Prop :=
        ∃ t, exec i s = .next t ∧
          t.thread th.val = stalled s th.val (s.localLat th.val a) (x.wg rd (BitVec.ofNat 64 old)).next ∧
          t.mem = Memory.write s.mem a (leBytes n new) ∧ MemSame s t a n ∧ ∀ k, k ≠ th.val → t.thread k = s.thread k
      (a % n ≠ 0 → ∃ t, exec (.atomAdd th rd an rs2 dbl) s = .next t ∧ Faulted s t th.val 2) ∧
      (∃ t, exec (.atomCas th rd an rs2 dbl true) s = .next t ∧ Faulted s t th.val 1) ∧
      (a % n = 0 → s.checkAccess th.val a n .atm = (0, key, c) →
        s.classOf (th.val / 8) (s.isRadio th.val) a n = .loc → s.rdStatus a n key = St.ok → x.sq = [] → x.dc = [] →
        let w := 8 * n
        let less (u v : Nat) : Prop := if sgn then toSigned w u < toSigned w v else u % 2 ^ w < v % 2 ^ w
        gives (.atomAdd th rd an rs2 dbl) ((old + opnd) % 2 ^ w) ∧
        (less opnd old → gives (.atomMin th rd an rs2 dbl sgn) (opnd % 2 ^ w)) ∧
        (¬less opnd old → gives (.atomMin th rd an rs2 dbl sgn) old) ∧
        (less old opnd → gives (.atomMax th rd an rs2 dbl sgn) (opnd % 2 ^ w)) ∧
        (¬less old opnd → gives (.atomMax th rd an rs2 dbl sgn) old) ∧
        (old = (x.rg rd).toNat % 2 ^ w → gives (.atomCas th rd an rs2 dbl false) (opnd % 2 ^ w)) ∧
        (old ≠ (x.rg rd).toNat % 2 ^ w → gives (.atomCas th rd an rs2 dbl false) old))) ∧
  (
    ∀ (s : State) (th : Fin 4096) (a n rt key : Nat) (sx : Bool),
      let x := s.thread th.val
      x.wait = some (.load a n rt sx key false) → rt < 32 → x.sq = [] → s.rdStatus a n key = St.ok →
      ∃ t, exec (.spurRemoteReply th) s = .next t ∧
        t.thread th.val = (({ x with st := .ready, wait := none } : Thread).wg (Fin.ofNat 32 rt)
          (extend n sx (leVal (s.load a n key)))).next ∧
        (t.spur (th.val / 8)).remote = (s.spur (th.val / 8)).remote - 1 ∧ t.mem = s.mem ∧
        (∀ k, k ≠ th.val → t.thread k = s.thread k))

/-- The multiply families and the accumulator instructions (R172, R173, R174, R175, R176, R177, R188). CMAC, RMAC and WMAC
forms form their products exactly, add or subtract them and saturate once per part, setting sat; ACC forms clear, move, add,
negate, shift, swap and conjugate accumulators; MVAC and MTAC convert between accumulators and g registers. Each writes its
accumulator or register only. -/
def Obligations.SpurMultipliesAndAccumulators : Prop :=
  (
    ∀ (s : State) (th : Fin 4096) (ad : Fin 4) (gs1 gs2 : Fin 32) (hi1 hi2 frac bc : Bool), MayIssue s th.val →
      let n := th.val / 8
      let x := issuing s th.val
      let u := ci16 (x.half gs1 hi1)
      let v := ci16 (x.half gs2 hi2)
      let twice (p : Int) : Int := if frac then 2 * p else p
      let re := accRe x.acc[ad]
      let im := accIm x.acc[ad]
      let cut (w : Nat) (z : Int) : Int := if z < -(2 ^ (w - 1)) then -(2 ^ (w - 1)) else if 2 ^ (w - 1) ≤ z then 2 ^ (w - 1) - 1 else z
      let gives (i : Instr) (v : BitVec 80) (sat : Prop) : Prop :=
        ∃ t, exec i s = .next t ∧ OnlyThread s t th.val [(F.SPR_DSP_STAT.sat_cnt, n)] ∧
          (sat → t.thread th.val = (late s th.val 3 { x with acc := x.acc.set ad v, sat := true }).next ∧
            t.rd F.SPR_DSP_STAT.sat_cnt n = satAdd 32 (s.rd F.SPR_DSP_STAT.sat_cnt n) 1) ∧
          (¬sat → t.thread th.val = (late s th.val 3 { x with acc := x.acc.set ad v }).next ∧
            t.rd F.SPR_DSP_STAT.sat_cnt n = s.rd F.SPR_DSP_STAT.sat_cnt n)
      let pair (i : Instr) (a b : Int) : Prop := gives i (mkComplex (cut 40 a) (cut 40 b)) (cut 40 a ≠ a ∨ cut 40 b ≠ b)
      let wide (i : Instr) (a : Int) : Prop := gives i (mkWide (cut 72 a)) (cut 72 a ≠ a)
      let pr := twice (u.1 * v.1 - u.2 * v.2)
      let pi := twice (u.1 * v.2 + u.2 * v.1)
      let cr := twice (u.1 * v.1 + u.2 * v.2)
      let ci := twice (u.2 * v.1 - u.1 * v.2)
      let d1 := twice (u.1 * v.1)
      let d2 := twice (u.2 * if bc then v.1 else v.2)
      let w := twice (toSigned 32 (x.half gs1 hi1) * toSigned 32 (x.half gs2 hi2))
      pair (.cmul th ad gs1 gs2 hi1 hi2 frac) pr pi ∧ pair (.cmac th ad gs1 gs2 hi1 hi2 frac) (re + pr) (im + pi) ∧
      pair (.cmsu th ad gs1 gs2 hi1 hi2 frac) (re - pr) (im - pi) ∧ pair (.cmulj th ad gs1 gs2 hi1 hi2 frac) cr ci ∧
      pair (.cmacj th ad gs1 gs2 hi1 hi2 frac) (re + cr) (im + ci) ∧ pair (.cmsuj th ad gs1 gs2 hi1 hi2 frac) (re - cr) (im - ci) ∧
      pair (.rmacMul th ad gs1 gs2 hi1 hi2 frac bc) d1 d2 ∧ pair (.rmacMac th ad gs1 gs2 hi1 hi2 frac bc) (re + d1) (im + d2) ∧
      pair (.rmacMsu th ad gs1 gs2 hi1 hi2 frac bc) (re - d1) (im - d2) ∧
      wide (.wmacMul th ad gs1 gs2 hi1 hi2 frac) w ∧ wide (.wmacMac th ad gs1 gs2 hi1 hi2 frac) (accWide x.acc[ad] + w) ∧
      wide (.wmacMsu th ad gs1 gs2 hi1 hi2 frac) (accWide x.acc[ad] - w)) ∧
  (
    ∀ (s : State) (th : Fin 4096) (ad src : Fin 4) (rd : Fin 32) (fmt : Fin 8) (rm : Bool) (amt : Fin 64), MayIssue s th.val →
      let n := th.val / 8
      let x := issuing s th.val
      let a := x.acc[ad]
      let b := x.acc[src]
      let gives (i : Instr) (y : Thread) (sat : Bool) : Prop :=
        ∃ t, exec i s = .next t ∧ OnlyThread s t th.val [(F.SPR_DSP_STAT.sat_cnt, n)] ∧
          t.thread th.val = (late s th.val 1 { y with sat := y.sat || sat }).next ∧
          t.rd F.SPR_DSP_STAT.sat_cnt n = if sat then satAdd 32 (s.rd F.SPR_DSP_STAT.sat_cnt n) 1 else s.rd F.SPR_DSP_STAT.sat_cnt n
      let acc (i : Instr) (v : BitVec 80 × Bool) : Prop := gives i { x with acc := x.acc.set ad v.1 } v.2
      (∀ wide, acc (.accClr th ad wide) (0, false)) ∧
      acc (.accMov th ad src false) (b, false) ∧ acc (.accMov th ad src true) (mkWide (accWide b), false) ∧
      acc (.accAdd th ad src false) (satComplex (accRe a + accRe b) (accIm a + accIm b)) ∧
      acc (.accAdd th ad src true) (satWide (accWide a + accWide b)) ∧
      acc (.accNeg th ad false) (satComplex (-accRe a) (-accIm a)) ∧ acc (.accNeg th ad true) (satWide (-accWide a)) ∧
      acc (.accShl th ad false amt) (satComplex (accRe a * 2 ^ amt.val) (accIm a * 2 ^ amt.val)) ∧
      acc (.accShl th ad true amt) (satWide (accWide a * 2 ^ amt.val)) ∧
      acc (.accShr th ad false amt) ((satComplex (accRe a / 2 ^ amt.val) (accIm a / 2 ^ amt.val)).1, false) ∧
      acc (.accShr th ad true amt) ((satWide (accWide a / 2 ^ amt.val)).1, false) ∧
      acc (.accSwap th ad false) (mkComplex (accIm a) (accRe a), false) ∧
      acc (.accConj th ad false) (satComplex (accRe a) (-accIm a)) ∧
      (∃ t, exec (.accSwap th ad true) s = .next t ∧ Faulted s t th.val 1) ∧
      (∃ t, exec (.accConj th ad true) s = .next t ∧ Faulted s t th.val 1) ∧
      gives (.mvac th ad rd fmt rm amt) (x.wg rd (BitVec.ofNat 64 (accOut fmt.val rm amt.val a).1)) (accOut fmt.val rm amt.val a).2 ∧
      acc (.mtac th ad rd fmt rm amt) (accIn fmt.val amt.val (x.rg rd).toNat a))

/-- STAC stores a converted accumulator, FTAP multiplies a sample by a tap (R174, R175, R178, R186, R188). STAC posts the
accumulator, converted in the steps of R175, to the address its mode gives; FTAP reads a sample and a tap, multiplies and
accumulates them and moves both pointers as R178 and R186 say, and parks on loads that are not local. Log 29 names the
model's reading of the FTAP's loads. -/
def Obligations.SpurStacAndFtap : Prop :=
  (
    ∀ (s : State) (th : Fin 4096) (ad : Fin 4) (an : Fin 8) (am : Fin 4) (fmt : Fin 8) (rm : Bool) (sh : Fin 64) (off : BitVec 9),
      MayIssue s th.val →
      let x := issuing s th.val
      let n := accFmtBytes fmt.val
      let m := x.mAddr an am.val n (off.signExtend 13)
      let o := accOut fmt.val rm sh.val x.acc[ad]
      let p : Posted := ⟨m.1, leBytes n o.1, (s.checkAccess th.val m.1 n .wr).2.1⟩
      let y := x.wa an (BitVec.ofNat 48 m.2.1)
      (6 ≤ fmt.val ∨ am = 3 → ∃ t, exec (.stac th ad an am fmt rm sh off) s = .next t ∧ Faulted s t th.val 1) ∧
      (fmt.val < 6 → am ≠ 3 → m.2.2 = 0 → m.1 % n = 0 → (s.checkAccess th.val m.1 n .wr).1 = 0 → (x.cached m.1).isNone →
        x.sq.length < 7 → s.outstanding (th.val / 8) < 64 →
        ∃ t, exec (.stac th ad an am fmt rm sh off) s = .next t ∧ OnlyThread s t th.val [(F.SPR_DSP_STAT.sat_cnt, th.val / 8)] ∧
          t.thread th.val = ({ y with sat := y.sat || o.2, sq := y.sq ++ [p] } : Thread).next)) ∧
  (
    ∀ (s : State) (th : Fin 4096) (ad : Fin 4) (ax ah : Fin 8) (neg frac : Bool) (kx kh : Nat) (cx ch : Bool), MayIssue s th.val →
      let x := issuing s th.val
      let px := x.a[ax].toNat
      let ph := x.a[ah].toNat
      (∃ t, exec (.ftap th ad ax ax 0 0 0 false neg frac false) s = .next t ∧ Faulted s t th.val 1) ∧
      (ax ≠ ah → px % 4 = 0 → ph % 4 = 0 → s.checkAccess th.val px 4 .rd = (0, kx, cx) → s.checkAccess th.val ph 4 .rd = (0, kh, ch) →
        s.classOf (th.val / 8) (s.isRadio th.val) px 4 = .loc → s.classOf (th.val / 8) (s.isRadio th.val) ph 4 = .loc →
        x.dc = [] → x.sq = [] → s.rdStatus px 4 kx = St.ok → s.rdStatus ph 4 kh = St.ok →
        let lat := max (s.localLat th.val px) (s.localLat th.val ph)
        let u := ci16 (leVal (s.load px 4 kx))
        let v := ci16 (leVal (s.load ph 4 kh))
        let sg (p : Int) : Int := let p := if frac then 2 * p else p; if neg then -p else p
        let r := satComplex (accRe x.acc[ad] + sg (u.1 * v.1 - u.2 * v.2)) (accIm x.acc[ad] + sg (u.1 * v.2 + u.2 * v.1))
        ∃ t, exec (.ftap th ad ax ah 0 0 0 false neg frac false) s = .next t ∧
          OnlyThread s t th.val [(F.SPR_DSP_STAT.sat_cnt, th.val / 8)] ∧
          t.thread th.val = stalled s th.val lat (late s th.val (lat + 3) { x with
            acc := x.acc.set ad r.1, sat := x.sat || r.2
            a := (x.a.set ax (BitVec.ofNat 48 ((px + 4) % 2 ^ 48))).set ah (BitVec.ofNat 48 ((ph + 4) % 2 ^ 48)) }).next))

/-- FLD, FST and the fabric atomics park the thread with one request (R158, R208, R355, R358, R359). Each fabric instruction
parks its thread with one request record of 4 or 8 bytes to the node in g[ra], or faults as R358 says; no register of the
thread changes until the reply. -/
def Obligations.SpurFabricInstructionsParkWithARequest : Prop :=
  ∀ (s : State) (th : Fin 4096) (rt ra rb : Fin 32) (sz8 : Bool) (key : Nat), MayIssue s th.val →
    let x := issuing s th.val
    let n := if sz8 then 8 else 4
    let g := (x.rg ra).toNat
    let dst := g / 2 ^ 48
    let slice := (s.jobOf th.val).elim 0 (·.slice)
    let gives (i : Instr) (op : Nat) (right : Right) (value newv : Nat) (data : List Byte) : Prop :=
      (g % 2 ^ 48 % n ≠ 0 → ∃ t, exec i s = .next t ∧ Faulted s t th.val 2) ∧
      (g % 2 ^ 48 % n = 0 → s.isRadio th.val = true → ∃ t, exec i s = .next t ∧ Faulted s t th.val 4) ∧
      (g % 2 ^ 48 % n = 0 → s.isRadio th.val = false → s.regionCheck slice g n right = none →
        ∃ t, exec i s = .next t ∧ Faulted s t th.val 7) ∧
      (g % 2 ^ 48 % n = 0 → s.isRadio th.val = false → s.regionCheck slice g n right = some key →
        (s.spur (th.val / 8)).remote < 64 →
        dst = s.ownNode ∨ ((s.candLinks dst).isEmpty = false ∧ s.fabWaits dst = false) →
        ∃ t, exec i s = .next t ∧
          t.thread th.val = { x with st := .parked, wait := some (.fabric op n rt.val (kget s.nextTid dst 0) dst) } ∧
          (t.spur (th.val / 8)).remote = (s.spur (th.val / 8)).remote + 1 ∧ t.mem = s.mem ∧
          t.fabReqs = s.fabReqs ++ [{
            dst := dst, tid := kget s.nextTid dst 0, op := op, addr := g % 2 ^ 48, len := n, value := value, newv := newv,
            data := data, slice := slice, key := key, dev := false, tries := 1, since := s.nowNs, src := .thread th.val }] ∧
          t.nextTid = kset s.nextTid dst ((kget s.nextTid dst 0 + 1) % 2 ^ 32))
    let v := (x.rg rt).toNat % 2 ^ (8 * n)
    gives (.fld th rt ra sz8) 0 .rd 0 0 [] ∧ gives (.fst th rt ra sz8) 1 .wr 0 0 (leBytes n v) ∧
    gives (.fabAdd th rt ra sz8) 2 .atm v 0 [] ∧ gives (.fabMin th rt ra sz8) 3 .atm v 0 [] ∧ gives (.fabMax th rt ra sz8) 4 .atm v 0 [] ∧
    gives (.fabCas th rt ra rb sz8) 5 .atm v ((x.rg rb).toNat % 2 ^ (8 * n)) []

/-- When an instruction of a thread issues, and what happens when it does not (R147, R148, R153, R160, R484). For every
instruction that a word decodes to: a thread that is not READY, is held by the debug port or lies on a core that gives no
work does nothing, and neither does an open thread while a radio thread of its core is due (R148); a breakpoint at its pc
halts it before the instruction and sends the event frame; a failed fetch is a fault of cause 5, and sets radio_fetch_miss
for a radio thread. -/
def Obligations.SpurThreadsIssueOnlyWhenTheyMay : Prop :=
  ∀ (s : State) (th : Fin 4096) (w : Nat) (i : Instr), decodeSpur th w = some i →
    let t0 := s.thread th
    let ready (x : Thread) : Prop := (x.st = .ready ∨ x.st = .stalled) ∧ x.job ≠ none ∧ x.dbg = false
    ((¬ready t0 ∨ s.spurOk (th.val / 8) = false) → exec i s = .next s) ∧
    (∀ o, o / 8 = th.val / 8 → s.isRadio o = true → s.isRadio th = false → ready (s.thread o) → t0.skip = false →
      s.issueAt o ≤ s.issueAt th → (s.thread o).due ≤ s.issueAt th → exec i s = .next s) ∧
    (s.mayIssue th = true → s.bpHit th = true → t0.skip = false →
      ∃ t, exec i s = .next t ∧ t.thread th = { t0 with dbg := true } ∧
        t.out = .dbg 0x40 0 0 (leBytes 2 (0x1000 + th.val) ++ leBytes 1 0 ++ leBytes 8 t0.pc.toNat) :: s.out ∧
        (∀ k, k ≠ th.val → t.thread k = s.thread k) ∧ t.mem = s.mem) ∧
    (s.mayIssue th = true → (s.bpHit th = false ∨ t0.skip = true) → s.fetchOk th = false →
      ∃ t, exec i s = .next t ∧ (t.thread th).st = .halted ∧ (t.thread th).faulted = true ∧
        t.rd F.SPR_FAULT.cause (th.val / 8) = 5 ∧ t.rd F.SPR_FAULT.thread (th.val / 8) = th.val % 8 ∧
        (s.isRadio th = true → t.rd F.SPR_STAT.radio_fetch_miss (th.val / 8) = 1) ∧ t.mem = s.mem)

/-- The registers of a job's threads when it starts (R152). When a job starts, thread r of its group has g1 = r, g2 = the
group size, g3 and on the argument words of the list in memory, every other g, a, cb, cl, lc and acc register 0, sr clear
and pc = entry_pc, whatever it held before; threads of other cores and memory are unchanged. -/
def Obligations.AJobStartsItsThreadsWithTheirRegisters : Prop :=
  ∀ (s : State) (n mask : Nat) (d : List Nat) (radio : Bool) (p item cyc r t : Nat), (threadsOf mask)[r]? = some t →
    let u := s.startJob n mask d radio p item cyc
    let x := u.thread (8 * n + t)
    let nArg := bits (d.getD 1 0) 52 48
    let word (k : Nat) : Nat := s.memLE (bits (d.getD 1 0) 47 0 + 8 * k) 8
    (∀ i : Fin 32, x.g[i] = if i.val = 1 then BitVec.ofNat 64 r else if i.val = 2 then BitVec.ofNat 64 (threadsOf mask).length
      else if 3 ≤ i.val ∧ i.val < 3 + nArg then BitVec.ofNat 64 (word (i.val - 3)) else 0) ∧
    x = { Thread.zero with
      st := .ready, g := x.g, pc := BitVec.ofNat 48 (bits (d.getD 0 0) 47 0), job := some (8 * n + (threadsOf mask).headD 0),
      rank := r } ∧
    (∀ i : Fin 8, x.a[i] = 0 ∧ x.cb[i] = 0 ∧ x.cl[i] = 0) ∧ (∀ i : Fin 4, x.lc[i] = 0 ∧ x.acc[i] = 0) ∧
    x.sat = false ∧ x.cvtOvf = false ∧ (∀ k, (∀ c < 8, k ≠ 8 * n + c) → u.thread k = s.thread k) ∧ u.mem = s.mem

/-- Decode and encode agree on every Spur instruction (R158, R159, R160, R188). Every Spur instruction that a word spells
decodes back from its encoding with every operand at every value, every word that decodes is the encoding of what it decodes
to, and a few words written out from the manual (its own two examples among them) decode as written. -/
def Obligations.SpurWordsRoundTrip : Prop :=
  (
    (∀ (i : Instr) (w : Nat), encodeSpur i = some w → w < 2 ^ 32 ∧ ∃ th, decodeSpur th w = some i) ∧
      ∀ (th : Fin 4096) (w : Nat) (i : Instr), decodeSpur th w = some i → encodeSpur i = some w) ∧
  (
    ∀ th : Fin 4096,
      decodeSpur th 0x20A8C003 = some (.ld th 5 2 0 3 false 3) ∧
      decodeSpur th 0x50895FFD = some (.br th 4 9 2 (BitVec.ofInt 13 (-3))) ∧
      decodeSpur th 0 = some (.spurNop th) ∧ decodeSpur th 0x40 = some (.halt th) ∧
      decodeSpur th 0x04221800 = some (.add th 1 2 3) ∧
      (∀ w, decodeSpur th (2 ^ 32 + w) = none))

/-- Compare timers and the time snapshot (R47, R48, R68). Target and enable writes act on one timer; a due timer fires once,
raises its interrupt and disables itself; SNAP copies device time. -/
def Obligations.TimerWritesFiresAndTheSnapshot : Prop :=
  ∀ (s : State) (wr : Writer) (n : Fin 16) (target : Word) (enable fired : BitVec 16) (ns : Nat),
    (s.mayWrite wr F.TIME_CMP_TARGET.target n = true →
      ∃ t, exec (.cmpTargetWrite wr n target) s = .next t ∧ t.rd F.TIME_CMP_TARGET.target n = target.toNat ∧
        t.time = { s.time with armed := s.time.armed ||| 2 ^ n.val } ∧
        Only s t [(F.TIME_CMP_TARGET.target, n.val)] (·.withTime t.time)) ∧
    (s.mayWrite wr F.TIME_CMP_CTRL.enable 0 = true →
      ∃ t, exec (.cmpEnableWrite wr enable fired) s = .next t ∧ t.rd F.TIME_CMP_CTRL.enable = enable.toNat ∧
        t.rd F.TIME_CMP_CTRL.fired = (s.rd F.TIME_CMP_CTRL.fired &&& (fired.toNat ^^^ 0xFFFF)) % 2 ^ 16 ∧
        t.time = { s.time with armed := s.time.armed ||| (enable.toNat &&& (s.rd F.TIME_CMP_CTRL.enable ^^^ 0xFFFF)) } ∧
        Only s t [(F.TIME_CMP_CTRL.enable, 0), (F.TIME_CMP_CTRL.fired, 0)] (·.withTime t.time)) ∧
    (let u := s.atNs ns
     bit u.time.armed n = true → bit (s.rd F.TIME_CMP_CTRL.enable) n = true →
      0 ≤ toSigned 64 ((u.compare + 2 ^ 64 - s.rd F.TIME_CMP_TARGET.target n % 2 ^ 64) % 2 ^ 64) →
      ∃ t, exec (.cmpTimerFire n ns) s = .next t ∧ t.out = .msix 0 (3 + n) :: s.out ∧
        t.rd F.TIME_CMP_CTRL.fired = (s.rd F.TIME_CMP_CTRL.fired ||| 2 ^ n.val) % 2 ^ 16 ∧
        t.time = { u.time with armed := u.time.armed - (u.time.armed &&& 2 ^ n.val) } ∧
        Only s t [(F.TIME_CMP_CTRL.fired, 0)] fun x => (x.withTime t.time).withOut t.out) ∧
    (s.mayWrite wr F.TIME_SNAP_CTRL.snap 0 = true → s.time.sec < 2 ^ 48 → s.time.ns < 2 ^ 30 → s.time.frac < 2 ^ 18 →
      ∃ t, exec (.timeSnapshot wr) s = .next t ∧ t.rd F.TIME_SNAP_SEC.sec = s.time.sec ∧ t.rd F.TIME_SNAP_SUB.ns = s.time.ns ∧
        t.rd F.TIME_SNAP_SUB.frac = s.time.frac ∧ t.rd F.TIME_SNAP_CMP.cmp = s.compare ∧
        t.rd F.TIME_SNAP_TICK.tick_count = ofSigned 64 s.tickNow ∧
        OnlyRegs s t [(F.TIME_SNAP_SEC.sec, 0), (F.TIME_SNAP_SUB.ns, 0), (F.TIME_SNAP_SUB.frac, 0), (F.TIME_SNAP_CMP.cmp, 0),
          (F.TIME_SNAP_TICK.tick_count, 0)])

/-- Source choice, masters, step requests, losses and holdover (R4, R50, R51, R55, R56, R57, R58, R60, R62). Writing
src_sel, forcing holdover and arming a step act as R49-R58 say; Announce messages and their timeouts choose the master; a
lost source takes a LOCKED servo to HOLDOVER, or to FREERUN on an MXD1-I and before the first step; HOLD_LIMIT and refused
faults degrade it. The BMCA profile's order is PRESUMED (log 17); the held rate's window is the model's (log 80). -/
def Obligations.SourcesMastersAndHoldover : Prop :=
  (
    ∀ (s : State) (wr : Writer) (sel : Fin 4) (en : Bool),
      let rates : List (Field × Nat) := [(F.TIME_STAT.state, 0), (F.TIME_OFFSET.rate, 0)]
      (s.isI = false → s.mayWrite wr F.TIME_CTRL.src_sel 0 = true → s.srcSel ≠ sel.val → sel ≠ 3 →
        ∃ t, exec (.srcSelWrite wr sel en) s = .next t ∧ t.rd F.TIME_CTRL.src_sel = sel.val ∧
          t.rd F.TIME_CTRL.synce_en = b2n en ∧ t.rd F.TIME_STAT.synce_ok = b2n (s.time.synceValid && en && sel.val == 0) ∧
          (sel = 2 → t.rd F.TIME_STAT.state = 0 ∧ t.rd F.TIME_OFFSET.rate = 0) ∧
          (sel ≠ 2 → s.rd F.TIME_STAT.stepped = 0 → t.rd F.TIME_STAT.state = 1 ∧ t.rd F.TIME_OFFSET.rate = 0) ∧
          (sel ≠ 2 → s.rd F.TIME_STAT.stepped = 1 → t.rd F.TIME_STAT.state = 3) ∧ t.time.pending = none ∧
          Only s t ([(F.TIME_CTRL.src_sel, 0), (F.TIME_CTRL.synce_en, 0), (F.TIME_STAT.synce_ok, 0)] ++ rates) (·.withTime t.time)) ∧
      (s.isI = true → exec (.srcSelWrite wr sel en) s = .next s) ∧
      (s.mayWrite wr F.TIME_CTRL.force_holdover 0 = true →
        (∃ t, exec (.forceHoldover wr true) s = .next t ∧ t.rd F.TIME_CTRL.force_holdover = 1 ∧
          t.rd F.TIME_STAT.state = (if s.servo = 0 then 0 else 3) ∧ Only s t ((F.TIME_CTRL.force_holdover, 0) :: rates) (·.withTime t.time)) ∧
        ∃ t, exec (.forceHoldover wr false) s = .next t ∧ t.rd F.TIME_CTRL.force_holdover = 0 ∧
          t.rd F.TIME_STAT.state = (if s.servo = 3 ∧ s.rd F.TIME_STAT.stepped = 0 then 1 else s.servo) ∧
          Only s t ((F.TIME_CTRL.force_holdover, 0) :: rates) (·.withTime t.time)) ∧
      (s.mayWrite wr F.TIME_CTRL.step_arm 0 = true → s.cellActive = true →
        ∃ t, exec (.stepArm wr) s = .next t ∧ t.rd F.TIME_STAT.step_refused = 1 ∧ OnlyRegs s t [(F.TIME_STAT.step_refused, 0)]) ∧
      (s.mayWrite wr F.TIME_CTRL.step_arm 0 = true → s.cellActive = false → s.srcSel ≠ 2 →
        ∃ t, exec (.stepArm wr) s = .next t ∧ t.rd F.TIME_STAT.state = 1 ∧ t.rd F.TIME_OFFSET.rate = 0 ∧
          t.time = { s.time with
            lockRun := [], locked := false, pending := none, holdSince := none, refuseSince := none, degraded := false } ∧
          Only s t rates (·.withTime t.time))) ∧
  (
    ∀ (s : State) (a : Announce) (port : Fin 8) (sub : Fin 4) (domain : BitVec 8) (freq : Int) (falling : Bool) (ns : Nat),
      let ann : Instr := .announceReceived ⟨a, port, sub, domain⟩ ns
      let rates : List (Field × Nat) := [(F.TIME_STAT.state, 0), (F.TIME_OFFSET.rate, 0)]
      (s.ptpIn port sub domain.toNat = false → exec ann s = .next s) ∧
      (s.ptpIn port sub domain.toNat = true → s.time.masters = [] → s.time.gm = none →
        ∃ t, exec ann s = .next t ∧ t.time.masters = [a] ∧ t.time.gm = some a.gm ∧
          t.rd F.TIME_UTC.utc_offset = a.utcOffset.toNat ∧ t.rd F.TIME_UTC.utc_valid = 1 ∧
          Only s t [(F.TIME_UTC.utc_offset, 0), (F.TIME_UTC.utc_valid, 0)] (·.withTime t.time)) ∧
      (∀ b, s.ptpIn port sub domain.toNat = true → s.time.masters = [b] → s.time.gm = some b.gm → b.gm ≠ a.gm →
        announceBetter a b = true → s.srcSel = 0 → s.servo = 2 →
        ∃ t, exec ann s = .next t ∧ t.time.gm = some a.gm ∧ t.rd F.TIME_STAT.state = 3 ∧
          t.rd F.TIME_COUNT.gm_change_cnt = satAdd 32 (s.rd F.TIME_COUNT.gm_change_cnt) 1) ∧
      (s.time.masters = [a] → s.srcSel = 0 → s.servo = 2 → s.rd F.TIME_STAT.stepped = 1 →
        ∃ t, exec (.announceTimeout a.src) s = .next t ∧ t.time.masters = [] ∧ t.rd F.TIME_STAT.state = 3 ∧
          Only s t rates (·.withTime t.time)) ∧
      (s.srcSel = 0 → s.servo = 2 → s.rd F.TIME_STAT.stepped = 1 → ∃ t, exec .syncTimeout s = .next t ∧ t.rd F.TIME_STAT.state = 3 ∧
        t.time.holdSince = some s.nowNs ∧ Only s t rates (·.withTime t.time)) ∧
      (s.srcSel = 0 → s.servo = 1 → s.rd F.TIME_STAT.stepped = 0 → ∃ t, exec .syncTimeout s = .next t ∧ t.rd F.TIME_STAT.state = 0 ∧
        t.rd F.TIME_OFFSET.rate = 0 ∧ t.time.lockRun = [] ∧ t.time.locked = false ∧ Only s t rates (·.withTime t.time)) ∧
      (s.rd F.TIME_PPS_IN.edge = b2n falling → s.isI = false → s.srcSel = 1 → s.servo = 1 → s.time.pending = none →
        s.time.locked = true → s.time.todWritten = true → s.cellActive = false →
        ∃ t, exec (.ppsInEdge ⟨falling, freq⟩ ns) s = .next t ∧ t.rd F.TIME_STAT.pps_in_present = 1 ∧
          t.time.ppsLast = some (s.atNs ns).nowNs ∧
          t.time.pending = some ((s.rd F.TIME_TOD_NEXT.tod_sec : Int) * 1000000000 + s.rdS F.TIME_PPS_IN.cable_delay_ns
            - ((s.atNs ns).nowNs : Int)) ∧ Only s t [(F.TIME_STAT.pps_in_present, 0)] (·.withTime t.time)) ∧
      (s.rd F.TIME_PPS_IN.edge = b2n falling → s.isI = false → s.srcSel ≠ 1 →
        ∃ t, exec (.ppsInEdge ⟨falling, freq⟩ ns) s = .next t ∧ t.rd F.TIME_STAT.pps_in_present = 1 ∧
          t.time.ppsLast = some (s.atNs ns).nowNs ∧ Only s t [(F.TIME_STAT.pps_in_present, 0)] (·.withTime t.time)) ∧
      (s.rd F.TIME_PPS_IN.edge = b2n (!falling) → exec (.ppsInEdge ⟨falling, freq⟩ ns) s = .next s) ∧
      (∀ l, s.time.ppsLast = some l → l + 1500000000 ≤ s.nowNs → s.rd F.TIME_STAT.pps_in_present = 1 → s.srcSel = 1 →
        (s.isI = false → s.servo = 2 → s.rd F.TIME_STAT.stepped = 1 →
          ∃ t, exec .ppsInTimeout s = .next t ∧ t.rd F.TIME_STAT.pps_in_present = 0 ∧ t.rd F.TIME_STAT.state = 3) ∧
        (s.isI = true → ∃ t, exec .ppsInTimeout s = .next t ∧ t.rd F.TIME_STAT.pps_in_present = 0 ∧
          t.rd F.TIME_CTRL.src_sel = 2 ∧ t.rd F.TIME_STAT.state = 0 ∧ t.rd F.TIME_OFFSET.rate = 0)) ∧
      (∀ h, s.time.holdSince = some h → s.servo = 3 → h + s.rd F.TIME_HOLD.hold_limit_s * 1000000000 ≤ s.nowNs →
        s.time.degraded = false →
        ∃ t, exec .holdLimitExceeded s = .next t ∧ t.rd F.TIME_STAT.hold_limit_exceeded = 1 ∧ t.time.degraded = true ∧
          Logged s t 1 2 (s.nowNs - h) tc) ∧
      (∀ r, s.time.refuseSince = some r → r + s.rd F.TIME_HOLD.refuse_limit_s * 1000000000 ≤ s.nowNs →
        ∃ t, exec .refuseFault s = .next t ∧ t.rd F.TIME_STAT.refuse_fault = 1 ∧ Logged s t 1 0 (s.nowNs - r) tc ∧
          Only s t ((F.TIME_STAT.refuse_fault, 0) :: eventFields) fun x => (x.withMgt t.mgt).withOut t.out))

/-- Time measurements lock, step or are refused, and the time ports answer (R52, R53, R54, R59, R61, R63). A measurement is
accepted, steps the clock while acquiring or is refused as R52-R54 say; PTP requests are answered, master ports and 1PPS
send, SyncE follows its quality level. Log 14 and 18 name the model's choices for the lock window and the answers. -/
def Obligations.MeasurementsAndTimePorts : Prop :=
  (
    ∀ (s : State) (m : Announce) (port : Fin 8) (sub : Fin 4) (domain : BitVec 8) (off freq : Int) (ns : Nat),
      s.srcSel = 0 → s.ptpIn port sub domain.toNat = true → s.parent = some m →
      let sync : Instr := .syncReceived ⟨m.src, port, sub, domain⟩ off freq ns
      (∀ src, src ≠ m.src → exec (.syncReceived ⟨src, port, sub, domain⟩ off freq ns) s = .next s) ∧
      (s.servo = 0 → ∃ t, exec sync s = .next t ∧ t.rd F.TIME_STAT.state = 1 ∧ t.time.lockRun = [off] ∧ t.time.locked = false ∧
        Only s t [(F.TIME_STAT.state, 0), (F.TIME_OFFSET.rate, 0)] (·.withTime t.time)) ∧
      (s.servo = 1 → s.time.pending = none → s.time.locked = true → s.cellActive = false →
        ∃ t, exec sync s = .next t ∧ t.time.pending = some (-off) ∧ Only s t [] (·.withTime t.time)) ∧
      (s.servo = 1 → s.time.pending = none → s.time.locked = true → s.cellActive = true →
        ∃ t, exec sync s = .next t ∧ t.time.pending = none ∧ t.time.locked = false ∧
          t.rd F.TIME_STAT.step_refused = 1 ∧ Only s t [(F.TIME_STAT.step_refused, 0)] (·.withTime t.time)) ∧
      (s.servo = 1 → s.time.pending = none → s.time.locked = false →
        ∃ t, exec sync s = .next t ∧ t.time.lockRun = (off :: s.time.lockRun).take 8 ∧
          (t.time.locked = true ↔ 7 ≤ s.time.lockRun.length ∧
            ∀ a ∈ t.time.lockRun, ∀ b ∈ t.time.lockRun, a - b ≤ 100) ∧ Only s t [] (·.withTime t.time)) ∧
      (s.servo = 2 → s.rd F.TIME_STAT.stepped = 1 → s.rd F.TIME_JUMP_THR.thr_ns < off.natAbs →
        ∃ t, exec sync s = .next t ∧ t.rd F.TIME_STAT.state = 3 ∧ t.rd F.TIME_STAT.jump_refused = 1 ∧
          t.rd F.TIME_COUNT.refuse_cnt = satAdd 32 (s.rd F.TIME_COUNT.refuse_cnt) 1 ∧
          t.rdS F.TIME_OFFSET.last_offset = max (-2147483647) (min 2147483647 off) ∧
          t.time.refuseSince = some (s.time.refuseSince.getD (s.atNs ns).nowNs) ∧
          Only s t [(F.TIME_STAT.state, 0), (F.TIME_STAT.jump_refused, 0), (F.TIME_COUNT.refuse_cnt, 0),
            (F.TIME_OFFSET.last_offset, 0), (F.TIME_OFFSET.rate, 0)] (·.withTime t.time)) ∧
      (s.servo = 2 → s.rd F.TIME_STAT.stepped = 1 → off.natAbs ≤ s.rd F.TIME_JUMP_THR.thr_ns → s.rd F.TIME_CTRL.force_holdover = 0 →
        ∃ t, exec sync s = .next t ∧ t.rd F.TIME_STAT.state = 2 ∧
          t.rdS F.TIME_OFFSET.rate = (s.correction off freq).1 ∧ t.time.refuseSince = none ∧
          Only s t [(F.TIME_STAT.state, 0), (F.TIME_STAT.rate_clamped, 0), (F.TIME_OFFSET.last_offset, 0),
            (F.TIME_OFFSET.rate, 0)] (·.withTime t.time))) ∧
  (
    ∀ (s : State) (port : Fin 8) (sub : Fin 4) (kind : Fin 16) (ql : BitVec 4), s.procUp tc = true →
      let sent (k : Nat) : State := s.emit (.ptp port sub k (s.rd F.TIME_PORT.domain) (s.rd F.TIME_PORT.profile != 0)
        (if k = 11 then s.clockClass else 0))
      (s.servo = 2 → ∀ m, s.parent = some m → s.clockClass = m.clockClass.toNat) ∧
      (s.fhUp port sub = true → s.isSlave port sub = false →
        exec (.ptpMasterTx port sub kind) s = .next (sent kind) ∧
        exec (.ptpRequestReceived port sub 1) s = .next (sent 9) ∧
        exec (.ptpRequestReceived port sub 2) s = .next (sent 3) ∧
        (s.rd F.TIME_PORT.profile ≠ 0 → exec (.ptpRequestReceived port sub 12) s = .next (sent 12)) ∧
        (s.rd F.TIME_PORT.profile = 0 → exec (.ptpRequestReceived port sub 12) s = .next s)) ∧
      (s.isSlave port sub = true → exec (.ptpMasterTx port sub kind) s = .next s) ∧
      (s.fhUp port sub = true → s.rd F.TIME_PORT.synce_port = port → s.rd F.TIME_PORT.synce_subport = sub →
        ∃ t, exec (.esmcReceived port sub ql) s = .next t ∧ t.time.synceQl = ql.toNat ∧
          t.time.synceValid = Config.esmcAccepts ql.toNat ∧
          t.rd F.TIME_STAT.synce_ok = b2n (Config.esmcAccepts ql.toNat && s.on F.TIME_CTRL.synce_en && s.srcSel == 0) ∧
          Only s t [(F.TIME_STAT.synce_ok, 0)] (·.withTime t.time)) ∧
      (∃ t, exec .synceLoss s = .next t ∧ t.time = { s.time with synceValid := false } ∧ t.rd F.TIME_STAT.synce_ok = 0 ∧
        Only s t [(F.TIME_STAT.synce_ok, 0)] (·.withTime t.time)) ∧
      (∃ t, exec .esmcTx s = .next t ∧ t = s.withOut t.out ∧
        ∀ (x : Fin 8) (y : Fin 4) (q : Nat), Out.esmc x y q ∈ t.out ↔ Out.esmc x y q ∈ s.out ∨
          (s.fhUp x y = true ∧ ¬(x.val = s.rd F.TIME_PORT.synce_port ∧ y.val = s.rd F.TIME_PORT.synce_subport) ∧
            q = Config.esmcOwn s.servo % 16)) ∧
      (s.time.ns = 0 → s.rd F.TIME_CTRL.pps_out_en = 1 → s.servo ≠ 0 ∨ s.rd F.TIME_CTRL.pps_out_force = 1 →
        exec .ppsOutPulse s = .next (s.emit (.pps s.time.sec (s.rd F.TIME_PPS_OUT.width_ns) (s.on F.TIME_CTRL.clk10m_out_en)))) ∧
      (s.servo = 0 → s.rd F.TIME_CTRL.pps_out_force = 0 → exec .ppsOutPulse s = .next s))

/-- Every tick edge takes device time to the next tick boundary (R36, R64, R65, R71). While tick edges run, TICK_EDGE
completes in every state, device time afterwards is the next multiple of 125,000 ns with the fraction cleared, and the tick
number follows it; before the first edge it changes nothing. -/
def Obligations.TickEdgeReachesTheNextBoundary : Prop :=
  (∀ s : State, s.time.edges = false → exec .tickEdge s = .next s) ∧
  (∀ s : State, s.time.edges = true →
    let n := (s.nowNs / 125000 + 1) * 125000
    ∃ t, exec .tickEdge s = .next t ∧ t.time = { s.time with
      sec := n / 1000000000 % 2 ^ 48, ns := n % 1000000000, frac := 0, rem := 0, cut := false, armed := t.time.armed
      tick := tickOf (n / 1000000000 % 2 ^ 48) (n % 1000000000) })

/-- Tick edges, time steps and the first edge (R64, R66, R71, R73). In a device with nothing waiting, a tick edge moves
device time to the next boundary, the frame counters follow and memory, threads and cores stay as they are; a time step
moves device time as R53 says, in a Col window once edges run, and is refused while a cell is active; the lock wait's expiry
starts tick edges. -/
def Obligations.TickEdgesStepsAndTheFirstEdge : Prop :=
  (∀ s : State, s.time.edges = true → (∀ p, s.seqRuns p = false) → s.staged = [] → s.cells = [] → s.deltas = [] → s.slices = [] →
      s.rings = [] → s.procs = [] → s.thaws = [] → s.heldCmds = [] → s.rd F.SRV_CTRL.adm_en = 0 → (∀ n, n < 4096 → s.rd F.SRV_SHP.rate n = 0) →
      (∀ n, n < 4096 → s.rd F.SRV_SHP.burst n = 0) → s.time.armed = 0 →
    let n := (s.nowNs / 125000 + 1) * 125000
    let k := tickOf (n / 1000000000 % 2 ^ 48) (n % 1000000000)
    ∃ t, exec .tickEdge s = .next t ∧ t.time.tick = k ∧ t.time.ns = n % 1000000000 ∧ t.time.cut = false ∧
      t.rd F.TIME_FRAME.sfn = s.sfnOf k ∧ t.rd F.TIME_FRAME.tick_in_frame = s.tickInFrame k ∧
      t.mem = s.mem ∧ t.threads = s.threads ∧ t.cores = s.cores ∧ t.seqs = s.seqs) ∧
  (∀ (s : State) (d : Int), s.time.pending = some d → s.cellActive = true →
    ∃ t, exec .timeStep s = .next t ∧ t.rd F.TIME_STAT.step_refused = 1 ∧
      t.time = { s.time with lockRun := [], locked := false, pending := none } ∧
      Only s t [(F.TIME_STAT.step_refused, 0)] (·.withTime t.time)) ∧
  (∀ (s : State) (d : Int), s.time.pending = some d → s.cellActive = false → s.time.edges = true → s.inCol = false →
    exec .timeStep s = .next s) ∧
  (∀ (s : State) (d : Int), s.time.pending = some d → s.cellActive = false → (s.time.edges = false ∨ s.inCol = true) →
      0 ≤ (s.nowNs : Int) + d → (s.nowNs : Int) + d < 2 ^ 48 * 1000000000 →
    ∃ t, exec .timeStep s = .next t ∧ (t.nowNs : Int) = s.nowNs + d ∧ t.time.frac = 0 ∧ t.time.edges = true ∧
      t.time.tick = t.tickNow ∧ t.time.pending = none ∧ t.time.todWritten = false ∧ t.rd F.TIME_STAT.stepped = 1 ∧
      (s.rd F.TIME_CTRL.force_holdover = 0 → t.rd F.TIME_STAT.state = 2) ∧
      (s.rd F.TIME_CTRL.force_holdover = 1 → t.rd F.TIME_STAT.state = 3) ∧
      (s.time.edges = true → s.time.tick < t.tickNow →
        t.rd F.TIME_FRAME.skipped_ticks = satAdd 32 (s.rd F.TIME_FRAME.skipped_ticks) (t.tickNow - s.time.tick).toNat)) ∧
  (∀ s : State, s.time.edges = false → s.time.lockWaitOver = false → s.rd F.TIME_STAT.stepped = 0 → 4 ≤ s.rd F.RST_STAT.step →
    let n := max s.nowNs (s.bring.startNs + s.rd F.RST_STEP_T.t_ms 4 * 1000000 + s.rd F.TIME_HOLD.lock_wait_s * 1000000000)
    n < 2 ^ 48 * 1000000000 →
    ∃ t, exec .lockWaitExpiry s = .next t ∧ t.time.edges = true ∧ t.time.lockWaitOver = true ∧ t.time.cut = true ∧
      t.time.tick = t.tickNow ∧ t.nowNs = n ∧ t = s.withTime t.time)

/-- Tick banks are written, radio windows start and end (R74, R75, R87, R114, R117, R257). A tick-bank write stores the
bytes that fall outside the committed bank, every byte outside them reads as before, and a byte for the committed bank sets
col_err; a radio window whose length passes the tick is missed, and one of a core, Spur, DMA or fronthaul lane starts on its
entry when its checks pass; its end frees the lane, and an end after the window's length counts as an overrun. Output values
come with the commands (log 20). -/
def Obligations.BankWritesAndRadioWindows : Prop :=
  (
    ∀ (s : State) (p : Fin 8) (off : Fin 2097152) (data : List Byte), s.partOn p = true → off.val + data.length ≤ 0x200000 → data ≠ [] →
      let sel := s.rd F.TICK_CTRL.bank_sel p
      ∃ t, exec (.tickBankWrite p off data) s = .next t ∧
        (∀ k, (h : k < data.length) → (off.val + k) / 0x100000 ≠ sel →
          Memory.byte t.mem (tickBankBase p + off.val + k) = data[k]) ∧
        (∀ a, (∀ k, k < data.length → (off.val + k) / 0x100000 ≠ sel → a ≠ tickBankBase p + off.val + k) →
          Memory.byte t.mem a = Memory.byte s.mem a) ∧
        (overlaps off.val data.length (sel * 0x100000) 0x100000 = true → t.rd F.TICK_STAT.col_err p = 1) ∧
        (overlaps off.val data.length (sel * 0x100000) 0x100000 = false → t.rd F.TICK_STAT.col_err p = s.rd F.TICK_STAT.col_err p) ∧
        Only s t [(F.TICK_STAT.col_err, p.val)] (·.withMem t.mem)) ∧
  (
    ∀ (s : State) (p : Fin 8) (e : Fin 4096) (cyc : Fin 412501) (x : ColSlot), EntryMayStart s p e cyc x →
      (412500 < cyc.val + x.len →
        ∃ t, exec (.radioWindowStart p e cyc) s = .next t ∧ entrySt t p e = some .missed ∧
          t = ((s.withTime t.time).withCells t.cells).withParts t.parts) ∧
      (cyc.val + x.len ≤ 412500 →
        (coreLane x.lane = true → s.runningItems p x.lane = [] →
          s.tileOk (coreOf p x.lane) true (decodeTile (s.descWords x.desc)) = true →
          s.bgOk (coreOf p x.lane) (decodeTile (s.descWords x.desc)) = true →
          s.tilePoison (coreOf p x.lane) (decodeTile (s.descWords x.desc)) = (false, false) →
          ∃ t, exec (.radioWindowStart p e cyc) s = .next t ∧ entrySt t p e = some (.running (s.absAt cyc)) ∧
            t.core (coreOf p x.lane) = { s.core (coreOf p x.lane) with
              run := some { desc := s.descWords x.desc, since := s.absAt cyc, radio := true, slice := 0 }
              wreg := [], bgTick := some s.time.tick } ∧
            t.rd F.MSF_STAT.busy (coreOf p x.lane) = 1 ∧ t.rd F.MSF_STAT.bg_active (coreOf p x.lane) = 1 ∧
            Only s t [(F.MSF_STAT.busy, coreOf p x.lane), (F.MSF_STAT.bg_active, coreOf p x.lane)]
              fun y => ((y.withTime t.time).withCores t.cores).withParts t.parts) ∧
        (spurLane x.lane = true → s.jobOk (spurOf p x.lane) true (s.jobWords x.desc) = true →
          s.threadsFree (spurOf p x.lane) x.thr = true →
          ∃ t, exec (.radioWindowStart p e cyc) s = .next t ∧ entrySt t p e = some (.running (s.absAt cyc)) ∧
            (kfind t.jobs (8 * spurOf p x.lane + (threadsOf x.thr).headD 0)).map (fun j => (j.radio, j.mask, j.part, j.item, j.since)) =
              some (true, x.thr, p.val, e.val, s.absAt cyc) ∧
            t.rd F.SPR_STAT.busy (spurOf p x.lane) = 1 ∧ t.mem = s.mem ∧
            (∀ th ∈ threadsOf x.thr, (t.thread (8 * spurOf p x.lane + th)).st = .ready)) ∧
        (dmaLane x.lane = true → (decodeDma (s.descWords x.desc)).radio = true → s.dmaOk (decodeDma (s.descWords x.desc)) = true →
          (decodeDma (s.descWords x.desc)).empty = false →
          ∃ t, exec (.radioWindowStart p e cyc) s = .next t ∧ entrySt t p e = some (.running (s.absAt cyc)) ∧
            (t.dmasOf (engOf p x.lane)).map (·.desc) = (s.dmasOf (engOf p x.lane)).map (·.desc) ++ [s.descWords x.desc] ∧
            t = ((s.withTime t.time).withDmas t.dmas).withParts t.parts) ∧
        (96 ≤ x.lane → (∀ c, s.cell? (s.fhDesc x.desc).cell = some c →
            s.fhOk p x.desc (s.slotAt (ceMu c.ent) (s.time.tick + (s.fhDesc x.desc).tickRel)).2 (s.fhDesc x.desc) = true) →
          (s.cell? (s.fhDesc x.desc).cell).isSome = true →
          ∃ t, exec (.radioWindowStart p e cyc) s = .next t ∧ entrySt t p e = some (.running (s.absAt cyc))))) ∧
  (
    ∀ (s : State) (p : Fin 8) (e : Fin 4096) (cyc : Fin 412501) (x : ColSlot) (since : Nat), (s.partOf p).col[e.val]? = some x →
      x.st = .running since → since ≤ s.absAt cyc → s.cycNow ≤ cyc.val →
      (∀ r, coreLane x.lane = true → (s.core (coreOf p x.lane)).run = some r →
        since + s.tileCycles (coreOf p x.lane) (decodeTile r.desc) ≤ s.absAt cyc →
        ∃ t, exec (.radioWindowEnd p e ⟨cyc, false⟩) s = .next t ∧ entrySt t p e = some .ended ∧
          (t.core (coreOf p x.lane)).run = none ∧ t.rd F.MSF_STAT.busy (coreOf p x.lane) = 0 ∧
          t.rd F.MSF_LAST.last_end (coreOf p x.lane) = 0 ∧
          t.rd F.MSF_LAST.last_tag (coreOf p x.lane) = (decodeTile r.desc).tag % 2 ^ 32) ∧
      (spurLane x.lane = true → ((s.jobsOf (spurOf p x.lane)).all fun j => !(j.2.radio && j.2.item == e.val)) = true →
        (cyc.val ≤ x.start + x.len →
          ∃ t, exec (.radioWindowEnd p e ⟨cyc, false⟩) s = .next t ∧ entrySt t p e = some .ended ∧
            t = (s.withTime t.time).withParts t.parts) ∧
        (x.start + x.len < cyc.val → x.late = false →
          ∃ t, exec (.radioWindowEnd p e ⟨cyc, false⟩) s = .next t ∧ entrySt t p e = some .ended ∧
            t.rd F.TICK_STAT.overrun p = 1 ∧ t.rd F.TICK_OVERRUN.overrun_cnt p = satAdd 32 (s.rd F.TICK_OVERRUN.overrun_cnt p) 1 ∧
            t.rd F.TICK_OVERRUN.last_lane p = x.lane % 2 ^ 7 ∧ Logged s t 2 0 x.lane (pc p))) ∧
      (dmaLane x.lane = true → ((s.dmasOf (engOf p x.lane)).all fun y => !(y.radio && y.item == some e.val)) = true →
        cyc.val ≤ x.start + x.len →
        ∃ t, exec (.radioWindowEnd p e ⟨cyc, false⟩) s = .next t ∧ entrySt t p e = some .ended ∧
          t = (s.withTime t.time).withParts t.parts) ∧
      (coreLane x.lane = true → s.rd F.MSF_STAT.fenced (coreOf p x.lane) = 0 → coreOf p x.lane < s.nCores →
        s.rd F.MSF_MAP.absent (coreOf p x.lane) = 0 →
        ∃ t, exec (.radioWindowEnd p e ⟨cyc, true⟩) s = .next t ∧ t.rd F.MSF_STAT.ue_err (coreOf p x.lane) = 1 ∧
          t.rd F.MSF_STAT.fenced (coreOf p x.lane) = 1 ∧ t.rd F.MSF_STAT.fence_cause (coreOf p x.lane) = 2))

/-- Work items start, tiles end and abort (R88, R89, R90, R91, R100, R118, R119, R143, R289). LANE_ITEM_START starts the
item that may run: a known-answer run, a tile, a job, or a transfer between own addresses, with the lane's registers and
nothing else changed; TILE_END completes the tile with its charge at the end that its length gives; TILE_ABORT returns it
for replay with the charge of what ran. -/
def Obligations.WorkItemsTilesAndTransfers : Prop :=
  (
    ∀ (s : State) (p : Fin 8) (i : Fin 2048) (cyc : Fin 412501) (it : WlItem), ItemMayStart s p i cyc it →
      (it.kat = true → coreLane it.lane = true →
        ∃ t, exec (.laneItemStart p i cyc) s = .next t ∧ itemSt t p i = some (.running cyc) ∧
          t.rd F.MSF_STAT.busy (coreOf p it.lane) = 1 ∧
          Only s t [(F.MSF_STAT.busy, coreOf p it.lane)] fun y => (y.withTime t.time).withParts t.parts) ∧
      (it.kat = true → coreLane it.lane = false → s.katMask (spurOf p it.lane) ≠ 0 →
        s.threadsFree (spurOf p it.lane) (s.katMask (spurOf p it.lane)) = true →
        ∃ t, exec (.laneItemStart p i cyc) s = .next t ∧ itemSt t p i = some (.running cyc) ∧ t.mem = s.mem ∧
          ∀ th ∈ threadsOf (s.katMask (spurOf p it.lane)), (t.thread (8 * spurOf p it.lane + th)).st = .ready) ∧
      (it.kat = false → it.kind = 0 →
        let n := coreOf p it.lane
        s.tileOk n false (decodeTile (s.descWords it.desc)) = true → s.tilePoison n (decodeTile (s.descWords it.desc)) = (false, false) →
        ∃ t, exec (.laneItemStart p i cyc) s = .next t ∧ itemSt t p i = some (.running cyc) ∧
          t.core n = { s.core n with
            run := some { desc := s.descWords it.desc, since := s.absAt cyc, radio := false, slice := (decodeTile (s.descWords it.desc)).slice } } ∧
          t.rd F.MSF_STAT.busy n = 1 ∧ t.rd F.MSF_STAT.bg_active n = 0 ∧
          Only s t [(F.MSF_STAT.busy, n), (F.MSF_STAT.bg_active, n)]
            fun y => ((y.withTime t.time).withCores t.cores).withParts t.parts) ∧
      (it.kat = false → it.kind = 1 →
        let n := spurOf p it.lane
        s.jobOk n false (s.jobWords it.desc) = true → s.threadsFree n it.thr = true → it.thr &&& s.rd F.SPR_CTRL.radio_mask n = 0 →
        ∃ t, exec (.laneItemStart p i cyc) s = .next t ∧ itemSt t p i = some (.running cyc) ∧
          (kfind t.jobs (8 * n + (threadsOf it.thr).headD 0)).map (fun j => (j.radio, j.mask, j.part, j.item, j.since)) =
            some (false, it.thr, p.val, i.val, s.absAt cyc) ∧
          t.rd F.SPR_STAT.busy n = 1 ∧ t.mem = s.mem ∧ (∀ th ∈ threadsOf it.thr, (t.thread (8 * n + th)).st = .ready)) ∧
      (it.kat = false → it.kind = 2 →
        let d := decodeDma (s.descWords it.desc)
        let k := engOf p it.lane
        s.dmaOk d = true → (d.order = false ∨ s.dmasOf k = []) → (d.empty = true ∨ (s.isOwn d.src = true ∧ s.isOwn d.dst = true)) →
        ∃ t, exec (.laneItemStart p i cyc) s = .next t ∧ itemSt t p i = some (.running cyc) ∧
          (t.dmasOf k).map (fun y => (y.desc, y.item)) = (s.dmasOf k).map (fun y => (y.desc, y.item)) ++ [(s.descWords it.desc, some i.val)] ∧
          t = ((s.withTime t.time).withDmas t.dmas).withParts t.parts)) ∧
  (
    ∀ (s : State) (p : Fin 8) (i : Fin 2048) (cyc : Fin 412501) (it : WlItem) (since : Nat) (r : RunningTile),
      s.item? p i = some it → it.kind = 0 → it.kat = false → coreLane it.lane = true → it.st = .running since →
      (s.core (coreOf p it.lane)).run = some r → r.radio = false → since ≤ cyc.val → s.cycNow ≤ cyc.val →
      let n := coreOf p it.lane
      let u := s.atCyc cyc
      (since + s.tileCycles n (decodeTile r.desc) ≤ cyc.val → cyc.val ≤ s.nextStop p it.lane since →
        (∃ t, exec (.tileEnd p i ⟨cyc, false⟩) s = .next t ∧ itemSt t p i = some .done ∧ (t.core n).run = none ∧
          t.rd F.MSF_STAT.busy n = 0 ∧ t.rd F.MSF_LAST.last_end n = 0 ∧
          t.mem = (u.retireTile (decodeTile r.desc) (u.runTile (decodeTile r.desc) (s.core n).fg).bank).mem) ∧
        (s.rd F.MSF_STAT.fenced n = 0 → n < s.nCores → s.rd F.MSF_MAP.absent n = 0 →
          ∃ t, exec (.tileEnd p i ⟨cyc, true⟩) s = .next t ∧ t.rd F.MSF_STAT.ue_err n = 1 ∧ t.rd F.MSF_STAT.fenced n = 1 ∧
            t.rd F.MSF_STAT.fence_cause n = 2)) ∧
      (∀ why : AbortPoint, s.stopsAt p it since cyc why = true →
        (∃ t, exec (.tileAbort p i cyc ⟨why, true⟩) s = .next t ∧ (t.core n).run = none ∧ (t.core n).fg = [] ∧
          (t.core n).fgSeed = some s.free ∧ t.rd F.MSF_STAT.busy n = 0 ∧ t.rd F.MSF_LAST.last_end n = 1 ∧
          (why = .radio → t.rd F.TICK_ABORT.abort_radio p = satAdd 32 (s.rd F.TICK_ABORT.abort_radio p) 1) ∧
          (why ≠ .radio → t.rd F.TICK_ABORT.abort_edge p = satAdd 32 (s.rd F.TICK_ABORT.abort_edge p) 1)) ∧
        (s.rd F.MSF_STAT.fenced n = 0 → n < s.nCores → s.rd F.MSF_MAP.absent n = 0 →
          ∃ t, exec (.tileAbort p i cyc ⟨why, false⟩) s = .next t ∧ t.rd F.MSF_STAT.fenced n = 1 ∧ t.rd F.MSF_STAT.fence_cause n = 3)) ∧
      (s.stopsAt p it since cyc .edge = true →
        ∃ t, exec (.tileAbort p i cyc ⟨.edge, true⟩) s = .next t ∧ itemSt t p i = some .aborted ∧
          (t.item? p i).map (·.aborts) = some (it.aborts + 1) ∧ t.mem = s.mem))

/-- Jobs end and abort, group buffers are bounded, DMA transfers run (R157, R162, R165, R166, R181, R215, R216, R217, R292).
JOB_END completes a halted job and charges it, JOB_ABORT ends an open one with its parked accesses completed; a region bound
is taken only while the buffer's length is 0; a DMA transfer starts when its descriptor passes and its running partition
gives the lane, and moves its bytes and posts its end record at its end (log 27). -/
def Obligations.JobsEndAbortAndTransfersRun : Prop :=
  (
    ∀ (s : State) (n : Fin 512) (k : Fin 8) (cyc : Fin 412501) (j : Job), kfind s.jobs (8 * n.val + k.val) = some j → s.cycNow ≤ cyc.val →
      (s.jobHalted n j = true → ((threadsOf j.mask).all fun th => (s.thread (8 * n.val + th)).dc.isEmpty &&
          (s.thread (8 * n.val + th)).sq.isEmpty && !(s.thread (8 * n.val + th)).faulted) = true →
        (∀ it, j.radio = false → s.item? j.part j.item = some it →
          ∃ t, exec (.jobEnd n k ⟨cyc, false⟩) s = .next t ∧ kfind t.jobs (8 * n.val + k.val) = none ∧
            itemSt t j.part j.item = some .done ∧ t.mem = s.mem ∧
            ∀ th ∈ threadsOf j.mask, t.thread (8 * n.val + th) = Thread.zero) ∧
        (j.radio = true →
          ∃ t, exec (.jobEnd n k ⟨cyc, false⟩) s = .next t ∧ kfind t.jobs (8 * n.val + k.val) = none ∧ t.mem = s.mem ∧
            (∀ th ∈ threadsOf j.mask, t.thread (8 * n.val + th) = Thread.zero))) ∧
      (s.jobHalted n j = true → s.rd F.SPR_STAT.fenced n = 0 → n.val < s.nSpur → s.rd F.SPR_MAP.absent n = 0 →
        ∃ t, exec (.jobEnd n k ⟨cyc, true⟩) s = .next t ∧ t.rd F.SPR_STAT.ue_err n = 1 ∧ t.rd F.SPR_STAT.fenced n = 1 ∧
          t.rd F.SPR_STAT.fence_cause n = 2) ∧
      (∀ why : AbortPoint, j.radio = false → s.jobStopsAt j.part (n.val % 64 + 16) cyc why = true →
        ((threadsOf j.mask).all fun th => (s.thread (8 * n.val + th)).sq.isEmpty && (s.thread (8 * n.val + th)).wait.isNone &&
          !(s.thread (8 * n.val + th)).dbg) = true →
        ∃ t, exec (.jobAbort n k cyc why) s = .next t ∧ kfind t.jobs (8 * n.val + k.val) = none ∧
          (why ≠ .fence → t.mem = s.mem ∧ ∀ it, s.item? j.part j.item = some it → itemSt t j.part j.item = some .aborted) ∧
          ∀ th ∈ threadsOf j.mask, t.thread (8 * n.val + th) = Thread.zero)) ∧
  (
    (∀ (s : State) (p : Fin 8) (eng : Fin 16) (desc : Addr), s.seqRuns p = true → s.on F.TICK_STAT.running p = true →
      let d := decodeDma (s.descWords desc.toNat)
      let key := 16 * p.val + eng.val
      (s.dmaOk d = true → (d.order = false ∨ s.dmasOf key = []) → (d.empty = true ∨ (s.isOwn d.src = true ∧ s.isOwn d.dst = true)) →
        ∃ t, exec (.dmaTransferStart p eng desc) s = .next t ∧ t = s.withDmas t.dmas ∧
          (∃ uid, t.dmasOf key = s.dmasOf key ++ [{ desc := s.descWords desc.toNat, radio := d.radio, item := none, uid := uid, todo := [],
                                                    bad := [], wr := false, left := 0, got := [], status := St.ok }]) ∧
          ∀ k, k ≠ key → t.dmasOf k = s.dmasOf k) ∧
      (s.dmaOk d = false → d.radio = true → ∀ e x, s.dmaEntry p (80 + eng.val) desc.toNat = some e → (s.partOf p).col[e]? = some x →
        ∃ t, exec (.dmaTransferStart p eng desc) s = .next t ∧ entrySt t p e = some .missed ∧
          t = (s.withCells t.cells).withParts t.parts) ∧
      (s.dmaOk d = false → d.radio = false → ∀ i, s.dmaItem p (80 + eng.val) desc.toNat = some i →
        ∃ t, exec (.dmaTransferStart p eng desc) s = .next t ∧ itemSt t p i = some .failed)) ∧
    (∀ (s : State) (p : Fin 8) (eng : Fin 16) (k : Nat) (x : Dma),
      let d := decodeDma x.desc
      let key := 16 * p.val + eng.val
      let rest := (s.dmasOf key).filter fun y => y.uid != x.uid
      let run := (s.setDmas key rest).dmaLocal d
      (s.dmasOf key)[k]? = some x → x.todo = [] → x.left = 0 → x.status = St.ok →
      (x.radio = true ∨ ((s.partOf p).col.any fun y => y.lane == 80 + eng.val && y.st.isRunning) = false) → (d.order = true → k = 0) →
      x.item = none →
      (d.empty = true →
        ∃ t, exec (.dmaTransferEnd p eng k) s = .next t ∧ t.dmasOf key = rest ∧ t.mem = s.mem ∧
          (t.partOf p).ends = (s.partOf p).ends ++ (if d.notify then [⟨80 + eng.val, d.tag, St.ok⟩] else [])) ∧
      (d.empty = false → s.isOwn d.src = true → s.isOwn d.dst = true →
        ∃ t, exec (.dmaTransferEnd p eng k) s = .next t ∧ t.dmasOf key = rest ∧ t.mem = run.s.mem ∧
          (t.partOf p).ends = (s.partOf p).ends ++ (if d.notify then [⟨80 + eng.val, d.tag, run.status⟩] else []))) ∧
    (∀ (s : State) (wr : Writer) (n : Fin 512) (j : Fin 4) (lim : Bool) (v : Addr),
      let i := 4 * n.val + j.val
      s.mayWrite wr F.SPR_GCB_RGN_BASE.rgn_base i = true →
      (s.rd F.SPR_GCB_LEN.gcb_len i = 0 →
        ∃ t, exec (.gcbRgnWrite wr n j false v) s = .next t ∧ t.rd F.SPR_GCB_RGN_BASE.rgn_base i = v.toNat ∧
          OnlyRegs s t [(F.SPR_GCB_RGN_BASE.rgn_base, i)]) ∧
      (s.rd F.SPR_GCB_LEN.gcb_len i = 0 →
        ∃ t, exec (.gcbRgnWrite wr n j true v) s = .next t ∧ t.rd F.SPR_GCB_RGN_LIM.rgn_limit i = v.toNat ∧
          OnlyRegs s t [(F.SPR_GCB_RGN_LIM.rgn_limit, i)]) ∧
      (s.rd F.SPR_GCB_LEN.gcb_len i ≠ 0 →
        ∃ t, exec (.gcbRgnWrite wr n j lim v) s = .next t ∧
          t.rd F.SPR_DSP_STAT.rgn_wr_ign n = (s.rd F.SPR_DSP_STAT.rgn_wr_ign n ||| 2 ^ j.val) % 2 ^ 4 ∧
          OnlyRegs s t [(F.SPR_DSP_STAT.rgn_wr_ign, n.val)])))

/-- Fences, radio hangs, known-answer runs and spare substitution (R9, R23, R122, R123, R124, R167, R168, R169, R458). A
fence stops a unit, records its cause and looks for a spare; a hang fences at its second; known-answer runs are due, start,
pass or fence; a substitution commits in a Col window and not outside one. Which spare is taken is named in log 36. -/
def Obligations.FencesHangsKnownAnswersAndSubstitutions : Prop :=
  (
    (∀ (s : State) (wr : Writer) (n : Fin 128), s.rd F.MSF_STAT.fenced n = 0 → n.val < s.nCores → s.rd F.MSF_MAP.absent n = 0 →
      (s.mayWrite wr F.MSF_CTRL.fence_req n = true →
        ∃ t, exec (.fenceReq wr n) s = .next t ∧ t.rd F.MSF_STAT.fenced n = 1 ∧ t.rd F.MSF_STAT.fence_cause n = 1 ∧
          (t.core n).run = none ∧ (t.physOf (slotKey (n.val / 4) (s.rd F.MSF_MAP.phys_slot n))).fenced = true ∧
          ((s.findSpare ((List.range 5).map (slotKey (n.val / 4)))).isNone → t.rd F.MSF_MAP.absent n = 1)) ∧
      (∀ r, (s.core n).run = some r → r.radio = true →
        r.since + s.tileCycles n (decodeTile r.desc) + s.rd F.MSF_GCTRL.hang_cyc ≤ s.absCyc →
        ∃ t, exec (.radioHang n) s = .next t ∧ t.rd F.MSF_STAT.hang n = 1 ∧ t.rd F.MSF_STAT.fenced n = 1 ∧
          t.rd F.MSF_STAT.fence_cause n = 3)) ∧
    (∀ (s : State) (wr : Writer) (n : Fin 512), s.rd F.SPR_STAT.fenced n = 0 → n.val < s.nSpur → s.rd F.SPR_MAP.absent n = 0 →
      (s.mayWrite wr F.SPR_CTRL.fence_req n = true →
        ∃ t, exec (.spurFenceReq wr n) s = .next t ∧ t.rd F.SPR_STAT.fenced n = 1 ∧
          t.rd F.SPR_STAT.fence_cause n = 1) ∧
      (∀ k j x, (k, j) ∈ s.jobsOf n → j.radio = true → (s.partOf j.part).col[j.item]? = some x →
        j.since + x.len + s.rd F.SPR_GCTRL.hang_cyc ≤ s.absCyc →
        ∃ t, exec (.spurRadioHang n) s = .next t ∧ t.rd F.SPR_STAT.hang n = 1 ∧ t.rd F.SPR_STAT.fenced n = 1 ∧
          t.rd F.SPR_STAT.fence_cause n = 3))) ∧
  (
    (∀ (s : State) (wr : Writer) (n : Fin 128) (m : Fin 512),
      (s.mayWrite wr F.MSF_CTRL.kat_now n = true → s.coreOk n = true →
        ∃ t, exec (.katNow wr n) s = .next t ∧ n.val ∈ (t.partOf (n.val / 16)).katDue ∧ t = s.withParts t.parts) ∧
      (s.mayWrite wr F.SPR_CTRL.kat_now m = true → s.spurOk m = true →
        ∃ t, exec (.spurKatNow wr m) s = .next t ∧ 128 + m.val ∈ (t.partOf (m.val / 64)).katDue ∧ t = s.withParts t.parts)) ∧
    (∀ s : State, s.time.edges = true →
      ∃ t, exec .katPeriodExpiry s = .next t ∧ t = s.withParts t.parts ∧
        (s.rd F.MSF_GCTRL.kat_period ≠ 0 → s.time.tick % (s.rd F.MSF_GCTRL.kat_period : Int) = 0 →
          ∀ n, n < 128 → s.coreOk n = true → n ∈ (t.partOf (n / 16)).katDue) ∧
        (s.rd F.SPR_GCTRL.kat_period ≠ 0 → s.time.tick % (s.rd F.SPR_GCTRL.kat_period : Int) = 0 →
          ∀ n, n < 512 → s.spurOk n = true → 128 + n ∈ (t.partOf (n / 64)).katDue)) ∧
    (∀ (s : State) (n : Fin 128) (m : Fin 512) (cyc : Fin 412501) (i : Nat), s.cycNow ≤ cyc.val →
      (s.katItem (n.val / 16) (n.val % 16) = some i →
        (∃ t, exec (.katEnd (.core n) ⟨cyc, true⟩) s = .next t ∧ itemSt t (n.val / 16) i = some .done ∧ t.rd F.MSF_STAT.busy n = 0 ∧
          t.rd F.MSF_CYC.array_cyc n = satAdd 64 (s.rd F.MSF_CYC.array_cyc n) ((cyc.val - s.itemSince (n.val / 16) i) * 4) ∧
          Only s t [(F.MSF_STAT.busy, n.val), (F.MSF_CYC.array_cyc, n.val)] fun y => (y.withTime t.time).withParts t.parts) ∧
        (s.rd F.MSF_STAT.fenced n = 0 → n.val < s.nCores → s.rd F.MSF_MAP.absent n = 0 →
          ∃ t, exec (.katEnd (.core n) ⟨cyc, false⟩) s = .next t ∧ t.rd F.MSF_STAT.kat_fail n = 1 ∧ t.rd F.MSF_STAT.fenced n = 1 ∧
            t.rd F.MSF_STAT.fence_cause n = 4)) ∧
      (s.katItem (m.val / 64) (m.val % 64 + 16) = some i →
        (∃ t, exec (.katEnd (.spur m) ⟨cyc, true⟩) s = .next t ∧ itemSt t (m.val / 64) i = some .done ∧ t.mem = s.mem ∧
          ∀ it, s.item? (m.val / 64) i = some it → ∀ th ∈ threadsOf it.thr, t.thread (8 * m.val + th) = Thread.zero) ∧
        (s.rd F.SPR_STAT.fenced m = 0 → m.val < s.nSpur → s.rd F.SPR_MAP.absent m = 0 →
          ∃ t, exec (.katEnd (.spur m) ⟨cyc, false⟩) s = .next t ∧ t.rd F.SPR_STAT.kat_fail m = 1 ∧ t.rd F.SPR_STAT.fenced m = 1 ∧
            t.rd F.SPR_STAT.fence_cause m = 4)))) ∧
  (
    (∀ (s : State) (n : Fin 128) (k : Nat), k < 32 → s.inCol = true → (s.core n).subst = some k →
      ∃ t, exec (.spareSubstitutionCommit n) s = .next t ∧ t.rd F.MSF_MAP.phys_slot n = k % 8 ∧ t.rd F.MSF_MAP.spare_used n = 1 ∧
        t.rd F.MSF_STAT.fenced n = 0 ∧ t.rd F.MSF_STAT.fence_cause n = 0 ∧ (t.core n).subst = none ∧ (t.core n).fg = [] ∧
        (t.core n).bg = [] ∧ (t.core n).wreg = [] ∧
        t.rd F.RST_SUB.sub_kind = 0 ∧ t.rd F.RST_SUB.sub_cause = s.rd F.MSF_STAT.fence_cause n % 2 ^ 3 ∧
        (∀ a, a < padBase n ∨ padBase n + 0x800000 ≤ a → (∀ c ∈ (s.core n).image, padBase n ≤ c.1 ∧ c.1 < padBase n + 0x800000) →
          Memory.byte t.mem a = Memory.byte s.mem a) ∧
        ((s.core n).image = [] → ∀ a, padBase n ≤ a → a < padBase n + 0x800000 → Memory.byte t.mem a = 0)) ∧
    (∀ (s : State) (n : Fin 512) (k : Nat), k < 32 → s.inCol = true → (s.spur n).subst = some k →
      ∃ t, exec (.spurSubstitution n) s = .next t ∧ t.rd F.SPR_MAP.phys_pos n = k ∧ t.rd F.SPR_MAP.spare_used n = 1 ∧
        t.rd F.SPR_STAT.fenced n = 0 ∧ (t.spur n).subst = none ∧ (∀ i, i < 8 → t.thread (8 * n.val + i) = Thread.zero) ∧
        t.mem = s.mem) ∧
    (∀ (s : State) (n : Fin 128) (m : Fin 512), s.inCol = false →
      exec (.spareSubstitutionCommit n) s = .next s ∧ exec (.spurSubstitution m) s = .next s))

/-- NoC packets and key loads (R191, R204, R206, R211, R212). A read packet answers with the bytes or a status and changes
no memory; a write stores exactly its bytes; malformed headers and wrong channels are discarded and counted; a packet
without an answer times out; KEY_LOAD loads a slot. -/
def Obligations.PacketsReadWriteAnswerOrAreLost : Prop :=
  (∀ (s : State) (r : Fin 32) (hd : BitVec 288) (data : List (BitVec 288)),
    let h := parseHdr hd.toNat
    let u := s.nocOpen h
    let answer (op status : Nat) : NocHdr := { h with
      op := op, vc := if h.vc = 1 then 2 else h.vc, poison := false, dst := h.src, src := h.dst, nflits := 0, status := status, imm := 0 }
    (s.rd F.NOC_RTR.state r = 0 → decodeWord288 hd.toNat = .uncorrectable →
      ∃ t, exec (.nocPacket r hd data) s = .next t ∧ t.rd F.NOC_STAT.hdr_ue = 1 ∧
        t.rd F.NOC_RTR.drop_cnt r = satAdd F.NOC_RTR.drop_cnt.width (s.rd F.NOC_RTR.drop_cnt r) 1 ∧
        Only s t [(F.NOC_STAT.hdr_ue, 0), (F.NOC_RTR.drop_cnt, r.val)] (·.withNocReqs t.nocReqs)) ∧
    (decodeWord288 hd.toNat = .clean → (h.rsv = true ∨ data.length ≠ h.nflits ∨ s.vcOk h = false) →
      exec (.nocPacket r hd data) s = .next s) ∧
    (decodeWord288 hd.toNat = .clean → h.rsv = false → data.length = h.nflits → s.vcOk h = true →
      (s.rd F.NOC_RTR.state r ≠ 0 → exec (.nocPacket r hd data) s = .next u) ∧
      (s.rd F.NOC_RTR.state r = 0 → s.epRouter h.dst ≠ r.val → ∀ x rest,
        s.routePath (s.epRouter h.src) (s.epRouter h.dst) = r.val :: x :: rest → r.val ∉ x :: rest →
        exec (.nocPacket r hd data) s = .next (u.emit (.nocHop x (encodeWord288 h.bytes false :: data.map (·.toNat))))) ∧
      (s.rd F.NOC_RTR.state r = 0 → s.epRouter h.dst = r.val →
        (∀ p, h.isRequest = true → epPart h.dst = some p → s.partOn p = false →
          ∃ t, exec (.nocPacket r hd data) s = .next t ∧ t.mem = s.mem ∧ t.nocReqs = u.nocReqs ∧
            t.out = .nocHop (s.epRouter h.dst) [encodeWord288 (answer 7 St.addrUnmapped).bytes false] :: s.out) ∧
        (∀ p, h.isRequest = true → epPart h.dst = some p → s.partOn p = true → s.rd F.RST_PART_STAT.rst_state p ≠ 0 →
          ∃ t, exec (.nocPacket r hd data) s = .next t ∧ t.mem = s.mem ∧ t.nocReqs = u.nocReqs ∧
            t.out = .nocHop (s.epRouter h.dst) [encodeWord288 (answer 7 St.resetAbort).bytes false] :: s.out ∧
            t.rd F.RST_PART_STAT.absorb_cnt p = satAdd F.RST_PART_STAT.absorb_cnt.width (s.rd F.RST_PART_STAT.absorb_cnt p) 1) ∧
        (h.op = 0 → epPart h.dst = none → s.place h.addr ≠ .regs → s.isDram h.addr = false →
          s.rdStatus h.addr h.len h.key = St.ok →
          ∃ t, exec (.nocPacket r hd data) s = .next t ∧ t.mem = s.mem ∧ t.regs = s.regs ∧ t.nocReqs = u.nocReqs ∧
            ∃ hdr, t.out = .nocHop (s.epRouter h.dst) (hdr :: (s.nocFlits h.addr h.len h.key).map fun d => encodeWord288 d.1 d.2) :: s.out) ∧
        (h.op = 1 → h.poison = false → data = [] → epPart h.dst = none → s.place h.addr ≠ .regs → s.isBank h.addr = false →
          s.isDram h.addr = false → s.accStatus h.addr h.len h.key = St.ok →
          ∃ t, exec (.nocPacket r hd data) s = .next t ∧ t.nocReqs = u.nocReqs ∧
            t.out = .nocHop (s.epRouter h.dst) [encodeWord288 (answer 3 St.ok).bytes false] :: s.out ∧ t.regs = s.regs ∧
            t.mem = Memory.write s.mem h.addr ((leBytes 8 h.imm).take h.len) ∧ MemSame s t h.addr (min h.len 8)) ∧
        (h.isAnswer = true → (∃ q ∈ s.nocReqs, q.src = h.dst ∧ q.txn = h.txn) →
          ∃ t, exec (.nocPacket r hd data) s = .next t ∧ t = (s.withNocReqs t.nocReqs).withOut t.out ∧
            (∀ q, q ∈ t.nocReqs ↔ q ∈ s.nocReqs ∧ ¬(q.src = h.dst ∧ q.txn = h.txn)) ∧
            ∃ bs po, t.out = .nocData h.dst h.txn h.status bs po :: s.out) ∧
        (h.op = 6 → ∃ t, exec (.nocPacket r hd data) s = .next t ∧ t = s.withOut t.out ∧
            ∃ bs po, t.out = .nocData h.dst h.txn St.ok bs po :: s.out)))) ∧
  (∀ (s : State) (src : BitVec 12) (txn : BitVec 16) (q : NocReq), q ∈ s.nocReqs → q.src = src.toNat → q.txn = txn.toNat →
    ∃ t, exec (.nocTimeout src txn) s = .next t ∧ t.out = .noc src.toNat St.memUncorrectable :: s.out ∧
      t.nocReqs = s.nocReqs.filter (fun q => !(q.src == src.toNat && q.txn == txn.toNat)) ∧
      t = (s.withNocReqs t.nocReqs).withOut t.out) ∧
  (∀ (s : State) (slot : Fin 8192), slot.val ≠ devKey → slot.val ∉ s.scopesDead → s.sec.bootKey = true →
    (s.procUp cairn = true →
      ∃ t, exec (.keyLoad slot) s = .next t ∧ t.key slot = { epoch := (s.key slot).epoch + 1, loaded := true, pend := false } ∧
        t.rd F.SEC_KEYS.key_loads = satAdd F.SEC_KEYS.key_loads.width (s.rd F.SEC_KEYS.key_loads) 1 ∧
        (∀ k, k ≠ slot.val → t.key k = s.key k) ∧
        Only s t [(F.SEC_KEYS.slots_loaded, 0), (F.SEC_KEYS.key_loads, 0), (F.SEC_STAT.key_pend, 0)] (·.withKeys t.keys)) ∧
    (s.procUp cairn = false →
      ∃ t, exec (.keyLoad slot) s = .next t ∧ t.key slot = { s.key slot with pend := true } ∧ t.rd F.SEC_STAT.key_pend = 1 ∧
        Only s t [(F.SEC_STAT.key_pend, 0)] (·.withKeys t.keys)))

/-- Scrubs, the DRAM patrol, lost channels and failed routers (R194, R198, R203, R214). SRAM and DRAM scrubs correct single-
symbol errors, spare rows and record uncorrectable words; a lost channel and a failed router take their parts out of service
as R203 and R214 say. -/
def Obligations.ScrubbingPatrolAndLostParts : Prop :=
  (
    (∀ (s : State) (addr : Addr) (w : BitVec 288), s.rd F.MEM_SCRUB.sram_scrub_ms ≠ 0 →
      let a := addr.toNat / 32 * 32
      s.scrubNow a = true →
      (decodeWord288 w.toNat = .clean → exec (.sramScrub addr w) s = .next s) ∧
      (∀ i e, decodeWord288 w.toNat = .corrected i e →
        ∃ t, exec (.sramScrub addr w) s = .next t ∧ t.mem = Memory.write s.mem a (leBytes 32 (fixWord w.toNat (.corrected i e))) ∧
          MemSame s t a 32 ∧ t.rd F.MEM_SRAM_ERR.ce_cnt = satAdd F.MEM_SRAM_ERR.ce_cnt.width (s.rd F.MEM_SRAM_ERR.ce_cnt) 1) ∧
      (decodeWord288 w.toNat = .poisoned →
        ∃ t, exec (.sramScrub addr w) s = .next t ∧ t = s.withPoison t.poison ∧ a / 32 ∈ t.poison) ∧
      (decodeWord288 w.toNat = .uncorrectable →
        (∀ n, s.place a = .pad n → s.rd F.MSF_STAT.fenced n = 0 → n < s.nCores → s.rd F.MSF_MAP.absent n = 0 →
          ∃ t, exec (.sramScrub addr w) s = .next t ∧ t.rd F.MSF_STAT.ue_err n = 1 ∧ t.rd F.MSF_STAT.fenced n = 1 ∧
            t.rd F.MSF_STAT.fence_cause n = 2) ∧
        ((∀ n, s.place a ≠ .pad n) →
          ∃ t, exec (.sramScrub addr w) s = .next t ∧ a / 32 ∈ t.poison ∧ t.sramUe = some s.nowNs ∧
            t.rd F.MEM_SRAM_ERR.ue_cnt = satAdd F.MEM_SRAM_ERR.ue_cnt.width (s.rd F.MEM_SRAM_ERR.ue_cnt) 1 ∧
            Only s t [(F.MEM_SRAM_ERR.ue_cnt, 0)] fun y => (y.withPoison t.poison).withSramUe t.sramUe))) ∧
    (∀ (s : State) (m : Fin 24) (rank : Fin 2) (addr : Addr) (lo hi : BitVec 320) (off : Nat) (copy : Option Bool),
      let line := addr.toNat / 64
      let burst := (hi ++ lo).toNat
      s.patrolAt (line * 64) m = some (off, copy) → s.rd F.MEM_SCRUB.scrub_h ≠ 0 → s.chanLive m = true →
      let base := 20 * (off / 64 % 2) + 10 * rank.val
      let failed := (List.range 10).filter fun d => bit (s.rd F.MEM_DEV_FAIL.failed m) (base + d)
      let tag := lineTag (((kfind s.lineKey line).map (·.1)).getD devKey) (line * 64)
      let word (h : Nat) : PatrolFind := patrolWord (burstWord burst h tag) (burstParity burst h) failed
      (word 0 = .clean → word 1 = .clean → exec (.dramPatrol m rank addr lo hi) s = .next s) ∧
      (word 0 = .lost → word 1 = .clean →
        ∃ t, exec (.dramPatrol m rank addr lo hi) s = .next t ∧
          t.rd F.MEM_CH_ERR.ue_cnt m = satAdd F.MEM_CH_ERR.ue_cnt.width (s.rd F.MEM_CH_ERR.ue_cnt m) 1 ∧
          t.rd F.MEM_UE_ADDR.addr = line * 64 % 2 ^ 48 ∧ t.rd F.MEM_UE_ADDR.stored_tag = burstTag burst % 2 ^ 16 ∧
          (copy = none → line * 64 / 32 ∈ t.poison) ∧ (∀ c, copy = some c → t.poison = s.poison ∧ (line, c) ∈ t.badCopy) ∧
          Only s t [(F.MEM_CH_ERR.ue_cnt, m.val), (F.MEM_UE_ADDR.addr, 0), (F.MEM_UE_ADDR.stored_tag, 0)]
            fun y => (y.withPoison t.poison).withBadCopy t.badCopy) ∧
      (word 0 = .tag → word 1 = .clean →
        ∃ t, exec (.dramPatrol m rank addr lo hi) s = .next t ∧
          t.rd F.MEM_CH_ERR.tag_cnt m = satAdd F.MEM_CH_ERR.tag_cnt.width (s.rd F.MEM_CH_ERR.tag_cnt m) 1 ∧
          Only s t [(F.MEM_CH_ERR.tag_cnt, m.val)] fun y => (y.withPoison t.poison).withBadCopy t.badCopy) ∧
      (∀ d, word 0 = .fixed d → word 1 = .clean →
        ∃ t, exec (.dramPatrol m rank addr lo hi) s = .next t ∧
          t.rd F.MEM_CH_ERR.ce_cnt m = satAdd F.MEM_CH_ERR.ce_cnt.width (s.rd F.MEM_CH_ERR.ce_cnt m) 1 ∧ t.poison = s.poison ∧
          t.mem = s.mem))) ∧
  (
    (∀ (s : State) (m : Fin 24), s.chanLive m = true →
      ∃ u : State, u.rd F.MEM_CH_STAT.state m = 2 ∧ u.rd F.MEM_CH_STAT.lost m = 1 ∧ Logged s u 4 0 m 0 ∧ u.seqs = s.seqs ∧ u.mem = s.mem ∧
        exec (.channelLost m) s = .next
          (((s.seqs.filter fun q => q.2.st != .free && s.seqOnChan q.2 m).map (·.1)).foldl
            (fun s i => s.askFreeze i 6 St.memUncorrectable) u)) ∧
    (∀ (s : State) (m : Fin 24), s.chanLive m = false → exec (.channelLost m) s = .next s) ∧
    (∀ (s : State) (r : Fin 32), s.rd F.NOC_RTR.state r = 0 →
      ∃ u : State, u.rd F.NOC_RTR.state r = 2 ∧ Logged s u 4 0 r 0 ∧ u.mem = s.mem ∧
        let v := ((List.range u.nClusters).filter fun cl => clRouter cl == r.val).foldl State.loseCluster u
        exec (.routerFailure r) s = .next (if v.procUp cairn then v.reroute [r.val] else v)) ∧
    (∀ (s : State) (r : Fin 32), s.rd F.NOC_RTR.state r ≠ 0 → exec (.routerFailure r) s = .next s))

/-- Cells start, lock and unlock (R85, R228, R241, R242, R243). A cell starts, its lock takes effect and its unlock is
placed at frame boundaries, with the state, counters and completion that R228-R243 give. -/
def Obligations.CellsStartLockAndUnlockAtFrames : Prop :=
  (∀ (s : State) (c : Fin 4096) (x : Cell), s.cell? c = some x →
    (x.st = .unlockPending → x.waits = true → x.pend = none → s.ready = true → s.atFrame = true → s.startOk = true →
      ∃ t, exec (.cellStart c) s = .next t ∧ t.cell? c = some { x with
          st := .active, waits := false, pend := none, harq := [], msgs := [], lostSlots := [], lostDl := [] } ∧
        (s.rd F.RST_STAT.step = 11 → t.rd F.RST_STAT.step = 12) ∧ (∀ k, k ≠ c.val → t.cell? k = s.cell? k) ∧
        ∀ d ∈ s.chainsOf c, kfind t.chains d = some (s.chainZero d)) ∧
    ((s.startOk = false ∨ s.atFrame = false ∨ s.ready = false) → exec (.cellStart c) s = .next s)) ∧
  (∀ (s : State) (p : Fin 8) (c : Fin 4096) (x : Cell) (d : CellPend), s.cell? c = some x → x.pend = some d → x.part = p.val →
    (s.partOf p).await = true → (s.partOf p).reproof = false → s.lockDue x = true →
    ∃ u : State, u.cell? c = some { x with st := .locked, waits := false, pend := none, harq := [], msgs := [] } ∧
      (∀ k, k ≠ c.val → u.cell? k = s.cell? k) ∧ u.mem = s.mem ∧ u.rings = s.rings ∧
      (∀ g ∈ s.chainsOf c, u.rd F.DFE_STAT.mask_mute g = 0) ∧
      exec (.cellLockEffect p c) s =
        .next ((((u.finish ctlRing d.token 0x49 St.ok).writeRebuilt p []).commitBank p).fxDone p)) ∧
  (∀ (s : State) (p : Fin 8) (c : Fin 4096) (x : Cell) (d : CellPend) (bank : BankImage), s.cell? c = some x → x.pend = some d →
    x.part = p.val → (s.partOf p).await = true → (s.partOf p).reproof = false → s.unlockDue x = true →
    (s.cellsOf p).any (fun y => s.lockDue y.2) = false → (s.cellsOf p).any (fun y => s.unlockDue y.2 && y.1 < c.val) = false →
    let fits := bank.part == p && lenOk bank.columns.length && (imgCells bank).all (fun k =>
      k == c.val || (s.cell? k).any fun y => State.cellOn y && y.part == p) && (s.proof bank (s.otherEnergy p)).isNone
    (fits = false → ∃ u : State, u.cell? c = some { x with st := .locked, waits := false, pend := none } ∧ u = s.withCells u.cells ∧
      (∀ k, k ≠ c.val → u.cell? k = s.cell? k) ∧
      exec (.cellUnlockEffect p c bank) s = .next ((u.finish ctlRing d.token 0x49 St.cellUnfit).fxDone p)) ∧
    (fits = true → ∃ u : State, u.cell? c = some { x with
        st := .active, waits := false, pend := none, harq := [], msgs := [], lostSlots := [], lostDl := [] } ∧
      (∀ k, k ≠ c.val → u.cell? k = s.cell? k) ∧ (s.rd F.RST_STAT.step = 11 → u.rd F.RST_STAT.step = 12) ∧
      exec (.cellUnlockEffect p c bank) s =
        .next ((((u.finish ctlRing d.token 0x49 St.ok).writeBank bank true).commitBank p).fxDone p))) ∧
  (∀ (s : State) (p : Fin 8) (first : BankImage) (more : List BankImage), (s.partOf p).await = true → (s.partOf p).reproof = true →
    let r := s.firstFit p (first :: more)
    (∃ j, r.1 = (s.victims p).take j) ∧
    ∃ u : State, (∀ c ∈ r.1, (u.cell? c).map (·.st) = some .autoLocked) ∧ (∀ c, c ∉ r.1 → u.cell? c = s.cell? c) ∧
      (u.partOf p).reproof = false ∧ u.mem = s.mem ∧
      exec (.spareLossReproof p first more) s = .next (((u.writeBank r.2 true).commitBank p).fxDone p))

/-- Slot messages, indications, HARQ buffers and the re-proof after a spare's loss (R224, R226, R236, R408, R409, R410,
R515). A slot message is taken, late or refused; an indication is posted with its payload; a HARQ buffer is released at its
hold's end; the re-proof keeps or stops cells. When a message is late is the model's reading (log 32). -/
def Obligations.SlotMessagesIndicationsAndHarq : Prop :=
  (∀ (s : State) (r : Fin 8) (e : Entry) (pdus : List Byte) (c : Cell),
    let k := radioRing r
    let id := bits e.w2.toNat 11 0
    let sfn := bits e.w2.toNat 21 12
    let slot := bits e.w2.toNat 28 22
    s.ringOn k = true → 0 < s.sqAvail k → s.ctlNeg = true → s.ctlNegPend = false → s.partOn r = true →
    (∀ l, (s.ring k).lastTok = some l → e.token.toNat ≤ l →
      ∃ t, exec (.slotMessage r e pdus) s = .next t ∧ t.ringRd rSqHead k = (s.ringRd rSqHead k + 1) % 2 ^ 32 ∧
        t.ringRd rStale k = satAdd rStale.host.width (s.ringRd rStale k) 1 ∧ t.cells = s.cells ∧ t.rings = s.rings) ∧
    ((∀ l, (s.ring k).lastTok = some l → l < e.token.toNat) →
      s.cell? id = some c → c.part = r → slot < 10 * 2 ^ ceMu c.ent → State.cellOn c = true →
      (s.slotDist (ceMu c.ent) sfn slot s.time.tick ≤ (dlLead (ceMu c.ent) : Int) →
        ∃ u : State, (u.cell? id).map (·.l2Late) = some (satAdd 32 c.l2Late 1) ∧ (u.ring k).lastTok = some e.token.toNat ∧
          u.ringRd rSqHead k = (s.ringRd rSqHead k + 1) % 2 ^ 32 ∧
          exec (.slotMessage r e pdus) s =
            .next (u.postRadio r (mkEntry e.token.toNat St.slotLate 0 0x80 (e.w2.toNat % 2 ^ 29) 0 0))) ∧
      ((dlLead (ceMu c.ent) : Int) < s.slotDist (ceMu c.ent) sfn slot s.time.tick →
        c.msgs.any (fun m => m.sfn == sfn && m.slot == slot) = false →
        Machine.Entry.reservedOk e (2 ^ 29 - 1) full 0 0 0 0 = true → pdus.length = bits e.w3.toNat 63 32 →
        ∀ ps, parsePdus pdus.length pdus = some ps →
        ∃ t, exec (.slotMessage r e pdus) s = .next t ∧
          t.cell? id = some { (nameHarq c ps).1 with
            msgs := (nameHarq c ps).1.msgs ++ [⟨sfn, slot, e.token.toNat, pdus, (nameHarq c ps).2, []⟩] } ∧
          (t.ring k).lastTok = some e.token.toNat ∧ t.out = s.out ∧ t.ringRd rSqHead k = (s.ringRd rSqHead k + 1) % 2 ^ 32))) ∧
  (∀ (s : State) (c : Fin 4096) (sfn : Fin 1024) (slot : Fin 80) (pdu : BitVec 32) (ind : Indication) (x : Cell) (m : SlotMsg) (p : Pdu),
    s.cell? c = some x → State.cellOn x = true → slot.val < 10 * 2 ^ ceMu x.ent → s.indDue (ceMu x.ent) sfn slot ind = true →
    s.slotDown x sfn slot = false → x.lostSlots.contains (slotNo sfn slot) = false → s.rd F.HOST_IND.ind_base x.part = 0 →
    (indType ind = none ∧ m = (x.msg? sfn slot).getD ⟨sfn, slot, 0, [], [], []⟩ ∧ p = ⟨0, 0, [], (0, 0)⟩ ∨
      indType ind = some p.type ∧ x.msg? sfn slot = some m ∧ m.list[pdu.toNat]? = some p ∧ m.posted.contains pdu.toNat = false) →
    let h : Cell × TbResult := match ind with
      | .pusch soft _ _ => s.harqResult x m pdu.toNat p soft
      | _ => (x, ⟨false, false, []⟩)
    exec (.indicationPost c sfn slot pdu ind) s =
      .next ((s.setCell c { h.1 with
          msgs := h.1.msgs.map fun y => if y.sfn = sfn.val ∧ y.slot = slot.val then { y with posted := pdu.toNat :: y.posted } else y }).postRadio
        x.part (mkEntry m.token St.ok 0 (indPayload p h.2 ind).1 (c.val + 2 ^ 12 * sfn.val + 2 ^ 22 * slot.val) 0 pdu.toNat))) ∧
  (∀ (s : State) (c : Fin 4096) (rnti : BitVec 16) (h : Fin 32) (x : Cell) (b : Harq), s.cell? c = some x →
    kfind x.harq (harqKey rnti.toNat h) = some b →
    let hold := bits s.planHdr.2.2.1.toNat 17 10 * slotTicks (ceMu x.ent)
    (b.last + (hold : Int) ≤ s.time.tick →
      ∃ t, exec (.harqHoldExpiry c rnti h) s = .next t ∧ t = s.withCells t.cells ∧
        t.cell? c = some { x with harq := kset x.harq (harqKey rnti.toNat h) { b with kib := 0, llrs := [] } } ∧
        ∀ k, k ≠ c.val → t.cell? k = s.cell? k) ∧
    (s.time.tick < b.last + (hold : Int) → exec (.harqHoldExpiry c rnti h) s = .next s))

/-- Fronthaul frames are sent, received and counted within their windows (R127, R146, R248, R249, R252, R253, R254, R255,
R259). A frame leaves inside its window and is dropped after it; a received frame is handled by the first row that matches
it; closing an uplink window fills the missing resource blocks with zeros and counts them. The frame overhead is PRESUMED
(log 33). -/
def Obligations.FronthaulFramesKeepTheirWindows : Prop :=
  (
    ∀ (s : State) (x : Fin 8) (sub : Fin 4) (ns : Fin 125000),
      let u := s.atNs ns.val
      (∀ f, u.fhUp x sub = true → (heads (u.subport x sub).queues).find? (u.sendable (u.subport x sub)) = some f →
        ∃ t, exec (.fhFrameSend x sub ns) s = .next t ∧ f.opens ≤ u.nowNs ∧ u.nowNs ≤ f.closes ∧
          (∀ g ∈ (u.subport x sub).queues, f.pcp < g.pcp → g ∈ heads (u.subport x sub).queues →
            u.sendable (u.subport x sub) g = false) ∧
          (t.subport x sub).queues = (u.subport x sub).queues.erase f ∧ t.out = .fhFrame x sub f :: s.out ∧
          t.rd F.FH_TX_CNT.tx_frames x = satAdd 32 (s.rd F.FH_TX_CNT.tx_frames x) 1 ∧
          Only s t [(F.FH_TX_CNT.tx_frames, x.val)] fun v => ((v.withTime u.time).withSubports t.subports).withOut t.out) ∧
      (u.fhUp x sub = true → (heads (u.subport x sub).queues).find? (u.sendable (u.subport x sub)) = none →
        exec (.fhFrameSend x sub ns) s = .next u) ∧
      (∃ t, exec (.fhTxWindowExpiry x sub ns) s = .next t ∧
        (t.subport x sub).queues = (u.subport x sub).queues.filter (fun f => u.nowNs ≤ f.closes) ∧
        t.rd F.FH_TX_CNT.tx_drop x = satAdd 32 (s.rd F.FH_TX_CNT.tx_drop x)
          ((u.subport x sub).queues.filter fun f => f.closes < u.nowNs).length ∧
        Only s t [(F.FH_TX_CNT.tx_drop, x.val)] fun v => (v.withTime u.time).withSubports t.subports)) ∧
  (
    ∀ (s : State) (x : Fin 8) (sub : Fin 4) (f : FhFrame) (ns : Fin 125000),
      let u := s.atNs ns.val
      let drops (cnt : Field) : Prop := ∃ t, exec (.frameReceived x sub f ns) s = .next t ∧
        t.rd F.FH_RX_CNT.rx_frames x = satAdd 32 (s.rd F.FH_RX_CNT.rx_frames x) 1 ∧
        t.rd cnt x = satAdd cnt.width (s.rd cnt x) 1 ∧ Only s t [(F.FH_RX_CNT.rx_frames, x.val), (cnt, x.val)] (·.withTime u.time)
      let known := f.len ≤ s.rd F.FH_PORT_CFG.mtu x ∧ f.ethertype = 0xAEFE ∧ f.udpPtp = false ∧ f.rev = 1 ∧ f.concat = false
      let i := 32 * x.val + sub.val
      s.fhUp x sub = true →
      (s.rd F.FH_PORT_CFG.mtu x < f.len → drops F.FH_RX_CNT.rx_other) ∧
      (f.len ≤ s.rd F.FH_PORT_CFG.mtu x → f.ethertype ≠ 0x88F7 → f.ethertype ≠ 0x8809 → f.udpPtp = false →
        (f.ethertype ≠ 0xAEFE ∨ f.rev ≠ 1 ∨ f.concat = true ∨ f.msgType ≠ 0 ∧ f.msgType ≠ 5) → drops F.FH_RX_CNT.rx_other) ∧
      (known → (f.msgType = 0 ∨ f.msgType = 5) → f.vid.toNat ≠ s.rd F.FH_PEER.vlan_id i → drops F.FH_RX_ERR.rx_unknown) ∧
      (known → f.msgType = 0 → f.vid.toNat = s.rd F.FH_PEER.vlan_id i →
        (u.streamOf x sub f.pcid.toNat = none → drops F.FH_RX_ERR.rx_unknown) ∧
        (∀ k, u.streamOf x sub f.pcid.toNat = some k →
          (s.rd F.FH_PEER.peer_mac i ≠ 0 → s.rd F.FH_PEER.peer_mac i ≠ f.srcMac.toNat → drops F.FH_RX_ERR.rx_unknown) ∧
          (s.rd F.FH_PEER.peer_mac i = f.srcMac.toNat → s.rd F.FH_PEER.peer_mac i ≠ 0 → f.ebit = false →
            drops F.FH_RX_ERR2.rx_frag) ∧
          (s.rd F.FH_PEER.peer_mac i = 0 → f.ebit = false → 
            ∃ t, exec (.frameReceived x sub f ns) s = .next t ∧ t.rd F.FH_PEER.peer_mac i = f.srcMac.toNat ∧
              t.rd F.FH_PEER.learned i = 1 ∧ t.rd F.FH_RX_ERR2.rx_frag x = satAdd 32 (s.rd F.FH_RX_ERR2.rx_frag x) 1) ∧
          (s.rd F.FH_PEER.peer_mac i = f.srcMac.toNat → s.rd F.FH_PEER.peer_mac i ≠ 0 → f.ebit = true →
            (∀ c, s.cell? (s.rd F.FH_STREAM.cell_id k) = some c → State.cellOn c = false) →
            ∃ t, exec (.frameReceived x sub f ns) s = .next t ∧
              t.rd F.FH_RX_MISS.rx_no_stream x = satAdd 32 (s.rd F.FH_RX_MISS.rx_no_stream x) 1 ∧
              (∀ l, kfind (s.subport x sub).lastSeq k = some l → f.seqId.toNat ≠ (l + 1) % 256 →
                t.rd F.FH_RX_ERR2.seq_gap x = satAdd 32 (s.rd F.FH_RX_ERR2.seq_gap x) 1) ∧
              ((∀ l, kfind (s.subport x sub).lastSeq k = some l → f.seqId.toNat = (l + 1) % 256) →
                t.rd F.FH_RX_ERR2.seq_gap x = s.rd F.FH_RX_ERR2.seq_gap x) ∧
              kfind (t.subport x sub).lastSeq k = some f.seqId.toNat ∧ t.mem = s.mem) ∧
          (∀ c, s.rd F.FH_PEER.peer_mac i = f.srcMac.toNat → s.rd F.FH_PEER.peer_mac i ≠ 0 → f.ebit = true →
            s.cell? (s.rd F.FH_STREAM.cell_id k) = some c → State.cellOn c = true → s.rd F.FH_STREAM.split8 k = 0 →
            let at_ := u.air (ceMu c.ent) f.sfn.toNat f.slot.toNat f.sym.toNat
            ((u.nowNs : Int) < at_ + (s.rd F.FH_WIN_UL.ta4_min x : Int) →
              ∃ t, exec (.frameReceived x sub f ns) s = .next t ∧
                t.rd F.FH_RX_ERR.rx_early x = satAdd 16 (s.rd F.FH_RX_ERR.rx_early x) 1 ∧ t.mem = s.mem) ∧
            (at_ + (s.rd F.FH_WIN_UL.ta4_min x : Int) ≤ (u.nowNs : Int) → at_ + (s.rd F.FH_WIN_UL.ta4_max x : Int) < (u.nowNs : Int) →
              ∃ t, exec (.frameReceived x sub f ns) s = .next t ∧
                t.rd F.FH_RX_ERR.rx_late x = satAdd 16 (s.rd F.FH_RX_ERR.rx_late x) 1 ∧ t.mem = s.mem) ∧
            (∀ o b, at_ + (s.rd F.FH_WIN_UL.ta4_min x : Int) ≤ (u.nowNs : Int) → (u.nowNs : Int) ≤ at_ + (s.rd F.FH_WIN_UL.ta4_max x : Int) →
              u.openBuf (f.filter != 0) (s.rd F.FH_STREAM.cell_id k) f.sfn.toNat f.slot.toNat f.sym.toNat = some o → f.prbs = [b] →
              f.prb0.toNat < cePrbUl c.ent →
              let id := (k, slotNo f.sfn.toNat f.slot.toNat, symKey (f.filter != 0) f.sym.toNat, f.prb0.toNat)
              let ks := s.streamsOf (s.rd F.FH_STREAM.cell_id k)
              ((s.subport x sub).seen.contains id = true →
                ∃ t, exec (.frameReceived x sub f ns) s = .next t ∧
                  t.rd F.FH_RX_ERR.rx_dup x = satAdd 16 (s.rd F.FH_RX_ERR.rx_dup x) 1 ∧ t.mem = s.mem) ∧
              ((s.subport x sub).seen.contains id = false →
                ∃ t, exec (.frameReceived x sub f ns) s = .next t ∧ (t.subport x sub).seen = (s.subport x sub).seen ++ [id] ∧
                  t.mem = Memory.write s.mem
                    (o.buf + symOff c.ent o.dir o.slot o.symFirst f.sym.toNat ks.length (ks.idxOf k) + 48 * f.prb0.toNat)
                    (sampleBytes (expandRb (s.rd F.FH_STREAM.ul_meth k) (widthOf (s.rd F.FH_STREAM.ul_width k)) f.compShift.toNat 12 b).1))))))) ∧
  (
    ∀ (s : State) (k : Fin 4096) (sfn : Fin 1024) (slot : Fin 80) (sym : Fin 14) (c : Cell) (prach : Bool) (b : FhBuf),
      let cid := s.rd F.FH_STREAM.cell_id k
      let ks := s.streamsOf cid
      let sk := symKey prach sym.val
      s.rd F.FH_STREAM.valid k = 1 → s.cell? cid = some c → State.cellOn c = true →
      s.air (ceMu c.ent) sfn slot sym + (s.rd F.FH_WIN_UL.ta4_max (s.rd F.FH_STREAM.port k) : Int) ≤ (s.nowNs : Int) →
      s.openBuf prach cid sfn slot sym = some b → s.openBuf (!prach) cid sfn slot sym = none →
      ((s.subport b.port b.subport).seen.contains (k.val, slotNo b.sfn b.slot, sk, closedPrb) = true →
        exec (.ulWindowClose k sfn slot sym) s = .next s) ∧
      ((s.subport b.port b.subport).seen.contains (k.val, slotNo b.sfn b.slot, sk, closedPrb) = false →
        ∃ t, exec (.ulWindowClose k sfn slot sym) s = .next t ∧
          (t.subport b.port b.subport).seen = (s.subport b.port b.subport).seen ++ [(k.val, slotNo b.sfn b.slot, sk, closedPrb)] ∧
          (ceSplit c.ent = 2 → t = s.withSubports t.subports) ∧
          (ceSplit c.ent ≠ 2 → s.rd F.FH_RX_MISS.rx_missing b.port < 2 ^ 32 →
            let lost := (List.range (cePrbUl c.ent)).filter fun i =>
              !(s.subport b.port b.subport).seen.contains (k.val, slotNo b.sfn b.slot, sk, i)
            let at_ (i : Nat) : Nat := b.buf + symOff c.ent b.dir b.slot b.symFirst sym ks.length (ks.idxOf k.val) + 48 * i
            t.rd F.FH_RX_MISS.rx_missing b.port = satAdd 32 (s.rd F.FH_RX_MISS.rx_missing b.port) lost.length ∧
            (∀ i ∈ lost, ∀ j, j < 48 → Memory.byte t.mem (at_ i + j) = 0) ∧
            (∀ a, (∀ i ∈ lost, a < at_ i ∨ at_ i + 48 ≤ a) → Memory.byte t.mem a = Memory.byte s.mem a))))

/-- Fronthaul links, peers and delay measurement (R247, R258, R259, R260). Link up and down change a subport's state and set
link_chg; the peer MAC is written; delay measurement starts, is answered or times out. -/
def Obligations.FronthaulLinksPeersAndDelayMeasurement : Prop :=
  ∀ (s : State) (wr : Writer) (x : Fin 8) (sub : Fin 4) (mac : BitVec 48) (owd : BitVec 32),
    let i := 32 * x.val + sub.val
    (s.fhExists x sub = true → s.fhLink x sub < 2 →
      ∃ t, exec (.fhLinkUp x sub) s = .next t ∧ t.fhLink x sub = 2 ∧ t.rd F.FH_PORT_STAT.link_chg x = 1 ∧ t.cells = s.cells ∧
        (t.subport x sub).downSince = none ∧ t.chains = s.chains ∧
        Logged s t 2 3 (subKey x sub * 4 + 2) tc ∧
        RegsSame s t ((linkField sub, x.val) :: (F.FH_PORT_STAT.link_chg, x.val) :: eventFields)) ∧
    (s.fhUp x sub = true →
      ∃ t, exec (.fhLinkDown x sub) s = .next t ∧ t.fhLink x sub = 1 ∧ t.rd F.FH_PORT_STAT.link_chg x = 1 ∧ t.cells = s.cells ∧
        (s.rd F.FH_PEER.learned i = 1 → t.rd F.FH_PEER.peer_mac i = 0 ∧ t.rd F.FH_PEER.learned i = 0) ∧
        (s.rd F.FH_PEER.learned i = 0 → t.rd F.FH_PEER.peer_mac i = s.rd F.FH_PEER.peer_mac i) ∧
        (t.subport x sub).queues = [] ∧ (t.subport x sub).downSince = some s.nowNs ∧
        t.rd F.FH_TX_CNT.tx_drop x = satAdd 32 (s.rd F.FH_TX_CNT.tx_drop x) (s.subport x sub).queues.length ∧
        Logged s t 2 3 (subKey x sub * 4 + 1) tc) ∧
    (s.mayWrite wr F.FH_PEER.peer_mac i = true →
      ∃ t, exec (.peerMacWrite wr x sub mac) s = .next t ∧ t.rd F.FH_PEER.peer_mac i = mac.toNat ∧ t.rd F.FH_PEER.learned i = 0 ∧
        OnlyRegs s t [(F.FH_PEER.peer_mac, i), (F.FH_PEER.learned, i)]) ∧
    (s.mayWrite wr F.FH_DM.dm_start x = true → s.fhExists x (s.rd F.FH_DM.dm_sub x) = true →
      s.fhUp x (s.rd F.FH_DM.dm_sub x) = true →
      ∃ t, exec (.dmStart wr x) s = .next t ∧ t.out = .ecpriDelay x (s.rd F.FH_DM.dm_sub x) false :: s.out ∧
        t.rd F.FH_DM_RES.dm_valid x = 0 ∧ (t.subport x (s.rd F.FH_DM.dm_sub x)).dmAt = some s.nowNs ∧
        Only s t [(F.FH_DM_RES.dm_valid, x.val)] fun v => (v.withSubports t.subports).withOut t.out) ∧
    (s.mayWrite wr F.FH_DM.dm_start x = true → s.fhExists x (s.rd F.FH_DM.dm_sub x) = true →
      s.fhUp x (s.rd F.FH_DM.dm_sub x) = false →
      ∃ t, exec (.dmStart wr x) s = .next t ∧ t.rd F.FH_DM_RES.dm_valid x = 0 ∧
        t.rd F.FH_TX_CNT.tx_drop x = satAdd 32 (s.rd F.FH_TX_CNT.tx_drop x) 1 ∧
        Only s t [(F.FH_DM_RES.dm_valid, x.val), (F.FH_TX_CNT.tx_drop, x.val)] (·.withSubports t.subports)) ∧
    (s.fhUp x sub = true → (s.subport x sub).dmAt.isSome = true →
      ∃ t, exec (.delayMeasurementMsg x sub true owd) s = .next t ∧ t.rd F.FH_DM_RES.owd_ns x = owd.toNat ∧
        t.rd F.FH_DM_RES.dm_valid x = 1 ∧ (t.subport x sub).dmAt = none ∧
        Only s t [(F.FH_DM_RES.owd_ns, x.val), (F.FH_DM_RES.dm_valid, x.val)] (·.withSubports t.subports)) ∧
    (s.fhUp x sub = true → exec (.delayMeasurementMsg x sub false owd) s = .next (s.emit (.ecpriDelay x sub true))) ∧
    (∀ a, (s.subport x sub).dmAt = some a → a + 10000000 ≤ s.nowNs →
      (∀ j, j < sub.val → ∀ b, (s.subport x j).dmAt = some b → s.nowNs < b + 10000000) →
      ∃ t, exec (.dmTimeout x) s = .next t ∧ t.rd F.FH_DM_RES.dm_timeout x = 1 ∧ (t.subport x sub).dmAt = none ∧
        Only s t [(F.FH_DM_RES.dm_timeout, x.val)] (·.withSubports t.subports))

/-- The digital front end: mask, snapshot, configuration (R265, R266, R268, R269). A mask violation mutes a chain and
MASK_MUTE_CLEAR lifts it; SNAP copies the RSSI values; coefficient and configuration writes are accepted only while the
chain's cell is locked and set wr_ign otherwise. -/
def Obligations.FrontEndMaskSnapshotAndConfiguration : Prop :=
  ∀ (s : State) (wr : Writer) (d : Fin 64) (near : List Bool) (p : List Nat) (rest : List (List Nat)) (b : Nat) (k : Fin 8) (v : Word)
      (g : DfeCfgField) (cv : BitVec 32),
    let inb (b : Nat) : Bool := bit (s.rd F.DFE_MASK_INB.inb (256 * d.val + b / 64)) (b % 64)
    let lim (b c : Nat) : Nat := s.rd F.DFE_MASK_LIM.lim (512 * d.val + b) * p.getD c 0
    ((s.chain d).maskDone = [] → exec (.maskMeasurement d near) s = .next s) ∧
    ((s.chain d).maskDone = p :: rest → b < 256 → inb b = false → 0 < p.getD b 0 →
      (∀ c, c < 256 → inb c = true → lim b c * 10233 < p.getD b 0 * 2 ^ 24 * 10000) →
      ∃ t, exec (.maskMeasurement d near) s = .next t ∧ t.rd F.DFE_STAT.mask_viol d = 1 ∧
        t.rd F.DFE_STAT.viol_cnt d = satAdd 32 (s.rd F.DFE_STAT.viol_cnt d) 1 ∧ (t.chain d).maskDone = rest ∧
        (s.rd F.DFE_CFG.mask_act d ≠ 0 → t.rd F.DFE_STAT.mask_mute d ≠ 0) ∧
        (s.rd F.DFE_CFG.mask_act d = 0 → t.rd F.DFE_STAT.mask_mute d = s.rd F.DFE_STAT.mask_mute d)) ∧
    ((s.chain d).maskDone = p :: rest →
      (∀ b, b < 256 → inb b = false → p.getD b 0 = 0 ∨
        ∃ c, c < 256 ∧ inb c = true ∧ p.getD b 0 * 2 ^ 24 * 10233 ≤ lim b c * 10000 ∧ p.getD b 0 * 2 ^ 24 * 10000 ≤ lim b c * 10233) →
      ∃ t, exec (.maskMeasurement d near) s = .next t ∧ t = s.withChains t.chains ∧ (t.chain d).maskDone = rest) ∧
    (s.mayWrite wr F.DFE_STAT.mask_mute d = true →
      ∃ t, exec (.maskMuteClear wr d) s = .next t ∧ t.rd F.DFE_STAT.mask_mute d = 0 ∧ OnlyRegs s t [(F.DFE_STAT.mask_mute, d.val)]) ∧
    (∀ l, s.mayWrite wr F.DFE_SNAP.snap d = true → (s.chain d).latch = some l → l.1 < 2 ^ 32 → l.2.1 < 2 ^ 16 → l.2.2.1 < 2 ^ 11 →
      l.2.2.2 < 2 ^ 64 →
      ∃ t, exec (.dfeSnapshot wr d) s = .next t ∧ t.rd F.DFE_RSSI.rssi_in d = l.1 ∧ t.rd F.DFE_RSSI.rssi_gain d = l.2.1 ∧
        t.rd F.DFE_RSSI.rssi_sfn_lo d = l.2.2.1 ∧ t.rd F.DFE_RSSI_T.rssi_cmp d = l.2.2.2 ∧
        OnlyRegs s t [(F.DFE_RSSI.rssi_in, d.val), (F.DFE_RSSI.rssi_gain, d.val), (F.DFE_RSSI.rssi_sfn_lo, d.val),
          (F.DFE_RSSI_T.rssi_cmp, d.val)]) ∧
    (s.mayWrite wr F.DFE_SEQ_MEM.word (256 * d.val + k.val) = true →
      (s.rd F.DFE_FREEZE.det_thr d = 0 →
        ∃ t, exec (.seqWrite wr d (some k) v) s = .next t ∧ t.rd F.DFE_SEQ_MEM.word (256 * d.val + k.val) = v.toNat ∧
          OnlyRegs s t [(F.DFE_SEQ_MEM.word, 256 * d.val + k.val)]) ∧
      (s.rd F.DFE_FREEZE.det_thr d ≠ 0 →
        ∃ t, exec (.seqWrite wr d (some k) v) s = .next t ∧ t.rd F.DFE_STAT.seq_wr_ign d = 1 ∧
          OnlyRegs s t [(F.DFE_STAT.seq_wr_ign, d.val)])) ∧
    (s.mayWrite wr F.DFE_SEQ_CFG.seq_len d = true → s.rd F.DFE_FREEZE.det_thr d = 0 →
      ∃ t, exec (.seqWrite wr d none v) s = .next t ∧ t.rd F.DFE_SEQ_CFG.seq_len d = v.toNat % 2 ^ 9 ∧
        OnlyRegs s t [(F.DFE_SEQ_CFG.seq_len, d.val)]) ∧
    (let f := dfeField d g
     s.mayWrite wr f.1 f.2 = true →
      (s.chainCell d = none ∨ (∃ c, s.chainCell d = some c ∧ (c.st = .locked ∨ c.st = .autoLocked)) →
        ∃ t, exec (.dfeCfgWrite wr d g cv) s = .next t ∧ t.rd f.1 f.2 = cv.toNat % 2 ^ f.1.width ∧ OnlyRegs s t [f]) ∧
      (∀ c, s.chainCell d = some c → c.st ≠ .locked → c.st ≠ .autoLocked →
        ∃ t, exec (.dfeCfgWrite wr d g cv) s = .next t ∧ t.rd F.DFE_STAT.wr_ign d = 1 ∧ OnlyRegs s t [(F.DFE_STAT.wr_ign, d.val)]))

/-- Passes commit, prefix lookups post (R290, R306, R307, R308, R309, R310). A pass's commit advances its sequence's length
and pages and posts its tokens; a prefix lookup attaches the pages that match. Output tokens come with the command (log 11).
-/
def Obligations.PassesCommitTokensAndLookupsPost : Prop :=
  (∀ (s : State) (p : Fin 8) (b : Nat) (rs : List SeqResult) (beams : List BeamCand),
    (s.inCol = false ∨ (s.partOf p).hold = false) → exec (.passCommit p b rs beams) s = .next s) ∧
  (∀ (s : State) (p : Fin 8) (x : Pass) (i : Fin 262144) (q : Seq) (r : SeqResult) (beams : List BeamCand) (n : Nat),
    s.inCol = true → (s.partOf p).hold = true →
    (s.passes.find? fun y => y.id == x.id && y.part == p.val && y.ended) = some x → x.cow = [] → x.rows = [(i.val, n)] →
    s.seq? i = some q → q.branch = 0 → q.beamW ≤ 1 → r.idx = i → (∀ y ∈ s.seqs, y.2.branch = 0) →
    (∀ c, kfind s.cmds q.cmd = some c → c.beamW ≤ 1) →
    -- the commit of the pass, and then, after the last one, the rest of the step boundary
    let goesOn (u : State) : State :=
      if u.passesDue p then u
      else
        let w := (u.setPart p { u.partOf p with hold := false }).boundary p
        if (w.partOf p).await then w else w.stepTick p
    (q.st = .prefill → q.len + q.advance n < q.promptLen →
      ∃ u v, exec (.passCommit p x.id [r] beams) s = .next (goesOn u) ∧ u.passes = s.passes.filter (fun y => y.id != x.id) ∧
        u.seq? i = some v ∧ v.len = q.len + q.advance n ∧ v.toks = q.toks ∧ v.nOut = q.nOut ∧ v.stage = 0 ∧ v.st = .prefill) ∧
    (∀ d, q.st = .decode → q.promptLen ≤ q.len → q.nOut < q.maxNew → n = 1 → r.mains = [d] →
      let tok := if ((kfind s.cmds q.cmd).map (·.sampled)).getD false then d.drawn.toNat else topToken d
      ∃ u v, exec (.passCommit p x.id [r] beams) s = .next (goesOn u) ∧ u.passes = s.passes.filter (fun y => y.id != x.id) ∧
        u.seq? i = some v ∧ v.len = q.len + 1 ∧ v.toks = q.toks ++ [tok] ∧ v.nOut = q.nOut + 1 ∧ v.stage = 0 ∧
        (v.st = .ending ∨ v.st = .decode ∨ v.st = .frozen))) ∧
  (∀ (s : State) (i : Fin 262144) (q : Seq), s.seq? i = some q →
    (q.st ≠ .admitted ∨ q.lookupDone = true ∨ q.held = true → exec (.prefixLookup i) s = .next s) ∧
    (q.st = .admitted → q.lookupDone = false → q.held = false → q.needFork = 0 → s.rd F.KV_CTRL.tree_en = 0 →
      let e := mkEntry q.token St.ok 1 0x01 (s.handle i) (q.len / 256 * 256) 0
      ∃ t, exec (.prefixLookup i) s = .next t ∧ t.nodes = s.nodes ∧
        t.seq? i = some { q with lookupDone := true, st := if q.maxNew = 0 ∧ q.promptLen ≤ q.len then .ending else .admitted } ∧
        (s.cqFree (seqRing q) = false → (t.ring (seqRing q)).notices = (s.ring (seqRing q)).notices ++ [e])))

/-- Spills, page waits, moves and role changes (R29, R30, R277, R313). A committed spill or move replaces frames and the
partition, a page wait that is exhausted freezes the sequence with ST_PAGE_EXHAUSTED, a role change takes effect when
nothing it cannot serve is left. -/
def Obligations.SpillsWaitsMovesAndRoles : Prop :=
  ∀ (s : State),
  (∀ k, s.spills[k]? = none → exec (.spillCommit k) s = .next s) ∧
  (∀ k x, s.inCol = true → s.spills[k]? = some x → s.spillLive x = false →
    exec (.spillCommit k) s = .next (x.new.foldl State.decRef (s.withSpills (s.spills.eraseIdx k)))) ∧
  (∀ k x o n, s.inCol = true → s.spills[k]? = some x → s.spillLive x = true → x.old = [o] → x.new = [n] →
    ∃ t, exec (.spillCommit k) s = .next t ∧ t.spills = s.spills.eraseIdx k ∧
      (∀ i q, s.seq? i = some q → ∃ v, t.seq? i = some v ∧
        v.pages = q.pages.map fun e => if !e.remote && e.frame == o.frame then { e with frame := n.frame } else e) ∧
      (o.frame ≠ n.frame → (s.nodes.any fun y => y.2.frames.any fun e => !e.remote && e.frame == o.frame) = false →
        (t.frame o.frame).alloc = false ∧ t.frame n.frame = { s.frame o.frame with lastRead := s.tick32 })) ∧
  (s.inCol = false → ∀ k i node fs,
    exec (.spillCommit k) s = .next s ∧ exec (.pageWaitExhausted i) s = .next s ∧ exec (.peerSpillCommit i node fs) s = .next s ∧
    exec (.moveCommit i) s = .next s) ∧
  (∀ (i : Fin 262144) (q : Seq), s.inCol = true → s.seq? i = some q →
    ((q.st = .pageWait ∨ q.st = .moving ∧ q.moveTo = none) → s.rd F.KV_CTRL.pg_wait_lim ≤ q.wait → q.part < 8 → q.slice < 4096 →
      q.ring < 16 →
      ∃ t v, exec (.pageWaitExhausted i) s = .next t ∧ t.seq? i = some v ∧ v.st = .frozen ∧ v.frzCause = 2 ∧
        v.resume = (if q.st = .pageWait then q.resume else .moving) ∧ v.pages = q.pages ∧ t.rd F.KV_STAT.exhaust = 1 ∧
        t.rd F.KV_WAIT.exhausted q.part = satAdd 32 (s.rd F.KV_WAIT.exhausted q.part) 1) ∧
    (q.wait < s.rd F.KV_CTRL.pg_wait_lim → exec (.pageWaitExhausted i) s = .next s) ∧
    (∀ (node : BitVec 16) (f : BitVec 28) (k : Nat) (e : PageEnt), q.peerSpill = true → s.cachePeers.contains node.toNat = true →
      ((kfind s.models q.model).map (·.lgCount)).getD 1 = 1 → localFull q 1 = some k → q.pages[k]? = some e →
      ∃ t, exec (.peerSpillCommit i node [f]) s = .next t ∧
        t.seq? i = some { q with
          pages := q.pages.take k ++ [{ e with frame := f.toNat, node := node.toNat, remote := true }] ++ q.pages.drop (k + 1) }) ∧
    (∀ (node : BitVec 16) fs, q.peerSpill = false → exec (.peerSpillCommit i node fs) s = .next s) ∧
    (∀ p es, q.moveTo = some (p, es) → q.st = .moving → q.cancelPend = false → s.moveRuns q.part p = true →
      ∃ t v, exec (.moveCommit i) s = .next t ∧ t.seq? i = some v ∧ v.part = p ∧ v.moveTo = none ∧ v.nodes = [] ∧ v.wait = 0 ∧
        v.len = q.len ∧ v.toks = q.toks ∧ (q.freezeReq = none → v.st = q.arrived) ∧
        (∀ c, q.freezeReq = some c → v.st = .frozen ∧ v.resume = q.arrived ∧ v.frzCause = c.1)) ∧
    ((q.moveTo = none ∨ q.cancelPend = true) → exec (.moveCommit i) s = .next s)) ∧
  (∀ (p : Fin 8) (r : Fin 4), s.inCol = true → s.partOn p = true → s.coordUp = true → s.serves p = true → s.rolesOk p r = true →
    s.rd F.SRV_PART.role p ≠ r →
    ((s.seqsOf p).all (fun x => roleServes r x.2) = true →
      ∃ t, exec (.roleChange ⟨p, r⟩) s = .next t ∧ t.rd F.SRV_PART.role p = r ∧ t.rd F.SRV_PART.role_chg p = 0 ∧ t.seqs = s.seqs ∧
        Logged s t 3 3 (r + 4 * p.val) (pc p) ∧
        RegsSame s t ((F.SRV_PART.role, p.val) :: (F.SRV_PART.role_chg, p.val) :: (F.SRV_PART.role_pend, p.val) :: eventFields)) ∧
    ((s.seqsOf p).all (fun x => roleServes r x.2) = false →
      ∃ t, exec (.roleChange ⟨p, r⟩) s = .next t ∧ t.rd F.SRV_PART.role_pend p = r ∧ t.rd F.SRV_PART.role_chg p = 1 ∧
        t.rd F.SRV_PART.role p = s.rd F.SRV_PART.role p)) ∧
  (∀ (p : Fin 8) (r : Fin 4), s.inCol = false → s.partOn p = true → s.coordUp = true → s.serves p = true → s.rolesOk p r = true →
    s.rd F.SRV_PART.role p ≠ r →
    ∃ t, exec (.roleChange ⟨p, r⟩) s = .next t ∧ t.rd F.SRV_PART.role_pend p = r ∧ t.rd F.SRV_PART.role_chg p = 1 ∧
      OnlyRegs s t [(F.SRV_PART.role_pend, p.val), (F.SRV_PART.role_chg, p.val)])

/-- Cancellation, freeze and end of sequences, and keys of dead scopes (R32, R206, R277, R319). Cancellation, freeze and end
move a sequence to the state R277 gives and release its pages; a scope with no node left gets a new key. -/
def Obligations.CancellationFreezeEndAndScopeKeys : Prop :=
  (
    (∀ (s : State) (i : Fin 262144), s.inCol = false →
      exec (.cancellationApply i) s = .next s ∧ exec (.sequenceFreeze i) s = .next s ∧ exec (.sequenceEnd i) s = .next s) ∧
    ∀ (s : State) (i : Fin 262144) (q : Seq), s.inCol = true → s.seq? i = some q →
      (q.cancelPend = true → s.passDue i = false →
        ∃ t, exec (.cancellationApply i) s = .next t ∧ t.seq? i = some { q with
            st := .ending, cancelPend := false, status := if q.status ≠ St.ok then q.status else St.cancelled, moveTo := none,
            freezeReq := none } ∧
          t.spills = s.spills.filter (fun x => x.seq != some i.val) ∧ t.mem = s.mem ∧ (∀ j, j ≠ i.val → t.seq? j = s.seq? j)) ∧
      ((q.cancelPend = false ∨ s.passDue i = true) → exec (.cancellationApply i) s = .next s) ∧
      (∀ c st, q.freezeReq = some (c, st) →
        (q.st = .admitted ∨ q.st = .prefill ∨ q.st = .decode ∨ q.st = .moving ∧ (q.moveTo = none ∨ c ≠ 1)) →
        let u := s.setSeq i { q with st := .frozen, resume := q.st, frzCause := c, freezeReq := none }
        exec (.sequenceFreeze i) s =
          .next (if st = St.ok then u else u.notice (seqRing q) (mkEntry q.token st 3 0x01 (s.handle i) 0 0))) ∧
      (∀ c st, q.freezeReq = some (c, st) → q.st = .pageWait →
        let u := s.setSeq i { q with st := .frozen, frzCause := c, freezeReq := none }
        exec (.sequenceFreeze i) s =
          .next (if st = St.ok then u else u.notice (seqRing q) (mkEntry q.token st 3 0x01 (s.handle i) 0 0))) ∧
      (∀ st, q.freezeReq = some (1, st) → q.st = .moving → q.moveTo.isSome = true → exec (.sequenceFreeze i) s = .next s) ∧
      (q.freezeReq = none → exec (.sequenceFreeze i) s = .next s) ∧
      (q.st = .ending →
        ∃ t, exec (.sequenceEnd i) s = .next t ∧ t.seq? i = none ∧ t.gen i = (q.gen + 1) % 2 ^ 14 ∧
          (q.held = false → s.siblings q.cmd i = false → kfind t.cmds q.cmd = none) ∧
          (∀ c, q.held = false → s.siblings q.cmd i = true → kfind s.cmds q.cmd = some c →
            kfind t.cmds q.cmd = some { c with
              done := kset c.done q.sample q.nOut
              hyps := if 1 < c.beamW then c.hyps ++ [(q.score, outputs q)] else c.hyps
              status := if c.status ≠ St.ok then c.status else q.status })) ∧
      (q.st ≠ .ending → exec (.sequenceEnd i) s = .next s)) ∧
  (
    ∀ (s : State) (k : Fin 8191), s.scopesDead.contains k.val = true →
      ((∀ f ∈ s.frames, f.2.alloc = true → f.2.key ≠ k.val) → s.procUp cairn = true →
        ∃ t, exec (.scopeKeyReplace k) s = .next t ∧ t.scopesDead = s.scopesDead.filter (· != k.val) ∧
          t.heldFrames = s.heldFrames.filter (fun f => (s.frame f).key != k.val) ∧
          ((k.val < 4096 ∧ (s.slice k).emptyKeys = true) → (t.key k).loaded = false ∧ (t.key k).epoch = (s.key k).epoch) ∧
          (s.sec.bootKey = true → ¬ (k.val < 4096 ∧ (s.slice k).emptyKeys = true) →
            (t.key k).loaded = true ∧ (t.key k).epoch = (s.key k).epoch + 1)) ∧
      ((∃ f ∈ s.frames, f.2.alloc = true ∧ f.2.key = k.val) → exec (.scopeKeyReplace k) s = .next s))

/-- Energy intervals and the limiter, delta versions, accounting snapshots (R294, R345, R346, R487, R488). An energy
interval charges slices and moves the limiter's share as R487 says; delta versions are activated, freed and returned; the
snapshots copy their counters. -/
def Obligations.EnergyDeltaVersionsAndSnapshots : Prop :=
  (
    ∀ (s : State) (xs : List EnergySample) (pw : Nat),
      let lim := min (s.rd F.MGT_LIM.p_lim) (max 500 (min 3000 (s.rd F.MGT_LIM.p_lim_host)))
      let share := s.rd F.MGT_THR.share
      (s.procUp cairn = false → exec (.energyInterval xs pw) s = .next s) ∧
      (s.procUp cairn = true → share ≤ 1024 →
        (lim < pw → ∃ t, exec (.energyInterval xs pw) s = .next t ∧ t.rd F.MGT_THR.share = share - 64 ∧
          t.rd F.MGT_THR.pwr_lim_act = 1 ∧ (∀ p, p < s.nPart → t.shadow F.TICK_OPEN_SHARE.open_share p = share - 64)) ∧
        (pw + s.rd F.MGT_LIM.p_hyst < lim → s.hottest = none →
          ∃ t, exec (.energyInterval xs pw) s = .next t ∧ t.rd F.MGT_THR.share = min 1024 (share + 16) ∧
            t.rd F.MGT_THR.pwr_lim_act = 0 ∧ t.rd F.MGT_THR.therm_lim_act = 0 ∧
            (∀ p, p < s.nPart → t.shadow F.TICK_OPEN_SHARE.open_share p = min 1024 (share + 16))) ∧
        (pw ≤ lim → lim ≤ pw + s.rd F.MGT_LIM.p_hyst → s.hottest = none →
          ∃ t, exec (.energyInterval xs pw) s = .next t ∧ t.rd F.MGT_THR.share = share ∧ t.rd F.MGT_THR.pwr_lim_act = 0) ∧
        (∀ k v, pw ≤ lim → s.hottest = some (k, v) → 8 * (min 105 (s.rd F.MGT_LIM.t_thr) : Nat) < v →
          ∃ t, exec (.energyInterval xs pw) s = .next t ∧ t.rd F.MGT_THR.share = share - 64 ∧ t.rd F.MGT_THR.therm_lim_act = 1 ∧
            t.rd F.MGT_THR.hot_point = k % 2 ^ 8) ∧
        (∀ x, xs = [x] → x.slices = [] → x.radio + x.device ≠ 0 → x.idle ≤ x.energy →
          ∃ t, exec (.energyInterval xs pw) s = .next t ∧
            t.rd F.SRV_E_RADIO.e_radio = satAdd 64 (s.rd F.SRV_E_RADIO.e_radio)
              ((s.mgt.radioRem + (x.energy - x.idle) * x.radio / (x.radio + x.device)) / 1000)))) ∧
  (
    (∀ (s : State) (k : Fin 65536), s.inCol = false →
      exec (.deltaActivate k) s = .next s ∧ exec (.deltaFreeing k) s = .next s ∧ exec (.deltaSlotFree k) s = .next s) ∧
    (∀ (s : State) (k : Fin 65536) (d : Delta), s.inCol = true → kfind s.deltas k = some d →
      (d.st = .loading → d.since ≠ s.time.tick →
        ∃ u : State, u = s.withDeltas u.deltas ∧ kfind u.deltas k = some { d with st := .active, loadCmd := none } ∧
          (∀ j x, j ≠ k.val → kfind s.deltas j = some x →
            kfind u.deltas j = some (if x.st = .active ∧ x.owner = d.owner ∧ x.model = d.model ∧ x.variant = d.variant then
              { x with st := .superseded } else x)) ∧
          (d.loadCmd = none → exec (.deltaActivate k) s = .next u) ∧
          (∀ c, d.loadCmd = some c → exec (.deltaActivate k) s = .next (u.finish (16 * c.1 + c.2.1) c.2.2 0x09 St.ok 0 k))) ∧
      ((d.st ≠ .loading ∨ d.since = s.time.tick) → exec (.deltaActivate k) s = .next s) ∧
      (d.pins = 0 → (d.st = .superseded ∨ d.st = .retiring ∨ d.st = .active ∧ d.retire ≠ [] ∧ d.forced = false) →
        ∃ t, exec (.deltaFreeing k) s = .next t ∧ kfind t.deltas k = some { d with st := .freeing, since := s.time.tick } ∧
          ∀ n x, kfind t.nodes n = some x → x.dkey ≠ k.val + 1) ∧
      (d.pins ≠ 0 → exec (.deltaFreeing k) s = .next s) ∧
      (d.st = .freeing → d.since ≠ s.time.tick → (s.nodes.any fun n => n.2.dkey == k.val + 1) = false →
        exec (.deltaSlotFree k) s = .next (d.retire.foldl (fun s c => s.finish (16 * c.1 + c.2.1) c.2.2 0x0A St.ok)
          (s.withDeltas (kdel s.deltas k)))) ∧
      (d.st ≠ .freeing → exec (.deltaSlotFree k) s = .next s)) ∧
    (∀ (s : State) (wr : Writer) (sl : Fin 4096), s.mayWrite wr F.SRV_ACCT_SEL.snap 0 = true →
      ∃ t, exec (.acctSnapshot wr sl) s = .next t ∧ t.rd F.SRV_ACCT_SEL.slice = sl.val ∧
        (∀ k, k < 12 → t.rd F.SRV_ACCT.count k = (s.slice sl).counters.getD k 0 % 2 ^ 64) ∧
        OnlyRegs s t ((F.SRV_ACCT_SEL.slice, 0) :: (List.range 12).map fun k => (F.SRV_ACCT.count, k))) ∧
    (∀ (s : State) (wr : Writer) (m : BitVec 16), s.mayWrite wr F.KV_MSEL.snap 0 = true →
      ∃ t, exec (.kvSnapshot wr m) s = .next t ∧ t.rd F.KV_MSEL.model_id = m.toNat ∧
        t.rd F.KV_MSTAT.seqs = (s.seqs.filter fun x => x.2.st != .free && x.2.model == m.toNat).length % 2 ^ 32 ∧
        t.rd F.KV_MSTAT.frames_64k = ((s.modelFrames m.toNat).foldl (fun a f => a + 2 ^ (s.frame f).cls) 0) % 2 ^ 32 ∧
        t.rd F.KV_MWASTE.tail_bytes = s.tailWaste m.toNat % 2 ^ 64 ∧
        OnlyRegs s t [(F.KV_MSEL.model_id, 0), (F.KV_MSTAT.seqs, 0), (F.KV_MSTAT.frames_64k, 0), (F.KV_MWASTE.tail_bytes, 0)]))

/-- Fabric links train, authenticate and retrain (R350, R351, R352, R362, R370). A trained link waits for authentication and
becomes ACTIVE with it, or goes DOWN when the authentication's time is over; a lane failure halves its width or takes it
DOWN; the retrain timer starts training again. -/
def Obligations.LinksTrainAuthenticateAndRetrain : Prop :=
  ∀ (s : State) (l : Fin 36) (h : BitVec 5) (rtt : Nat) (lane : Fin 5) (peer : BitVec 16) (pl : Fin 64),
    let w := (lanesOf h.toNat).1
    (s.lk l = lkTraining → (s.link l).retrain = false →
      ∃ t, exec (.linkTrained l ⟨h, rtt⟩) s = .next t ∧ t.lk l = (if w = 0 then lkDown else lkTrained) ∧
        t.rd F.FAB_LINK_STAT.width l = w ∧ t.rd F.FAB_LINK_STAT.lane_bad l = 31 - h.toNat ∧
        t.link l = { s.link l with healthy := h.toNat, rtt := rtt, since := s.nowNs } ∧ t.rd F.FAB_LINK_STAT.state_chg l = 1 ∧
        Logged s t 5 3 (if w = 0 then lkDown else lkTrained) (512 + l.val)) ∧
    ((s.lk l ≠ lkTraining ∨ (s.link l).retrain = true) → exec (.linkTrained l ⟨h, rtt⟩) s = .next s) ∧
    ((s.lk l ≠ lkTraining ∨ (s.link l).retrain = false) → exec (.linkRetrainEnd l ⟨h, rtt⟩) s = .next s) ∧
    (s.lk l = lkDown → s.procUp fc = true →
      ((s.link l).since + 10000000000 ≤ s.nowNs →
        ∃ t, exec (.linkRetrainTimer l) s = .next t ∧ t.lk l = lkTraining ∧ t.link l = { s.link l with since := s.nowNs } ∧
          Logged s t 5 3 lkTraining (512 + l.val)) ∧
      (s.nowNs < (s.link l).since + 10000000000 → exec (.linkRetrainTimer l) s = .next s)) ∧
    (s.lk l = lkTrained ∨ s.lk l = lkActive →
      ∃ t, exec (.laneFailure l lane) s = .next t ∧ t.lk l = lkTraining ∧
        t.link l = { s.link l with retrain := true, resends := 0, since := s.nowNs } ∧
        t.rd F.FAB_LINK_STAT.lane_bad l = (s.rd F.FAB_LINK_STAT.lane_bad l ||| 2 ^ lane.val) % 2 ^ 5 ∧
        t.rd F.FAB_LINK_STAT.retrain_cnt l = satAdd 8 (s.rd F.FAB_LINK_STAT.retrain_cnt l) 1 ∧
        Logged s t 5 3 lkTraining (512 + l.val)) ∧
    (s.lk l ≠ lkTrained → s.lk l ≠ lkActive → exec (.laneFailure l lane) s = .next s) ∧
    (s.lk l = lkTraining → (s.link l).retrain = true →
      (w = 0 → ∃ t, exec (.linkRetrainEnd l ⟨h, rtt⟩) s = .next t ∧ t.lk l = lkDown ∧
        t.link l = { Link.zero with healthy := h.toNat, rtt := (s.link l).rtt, since := s.nowNs }) ∧
      (w ≠ 0 → (s.link l).auth = false → ∃ t, exec (.linkRetrainEnd l ⟨h, rtt⟩) s = .next t ∧ t.lk l = lkTrained ∧
        t.link l = { s.link l with retrain := false, healthy := h.toNat, rtt := rtt, ackAt := s.nowNs, since := s.nowNs }) ∧
      (w ≠ 0 → (s.link l).auth = true → (s.link l).queue = [] →
        ∃ t cr n, exec (.linkRetrainEnd l ⟨h, rtt⟩) s = .next t ∧ t.lk l = lkActive ∧
          t.rd F.FAB_LINK_STAT.epoch l = (s.rd F.FAB_LINK_STAT.epoch l + 1) % 2 ^ 32 ∧ (t.link l).retrain = false ∧
          (t.link l).flits = 0 ∧ (t.link l).replay = (s.link l).replay ∧ (t.link l).txSeq = (s.link l).txSeq ∧
          t.out = .flit l 3 0 0 0 (lastGood (s.link l)) cr n :: s.out)) ∧
    (s.lk l = lkTrained → s.rd F.FAB_CTRL.joined = 1 →
      (s.procUp fc = true → s.members.contains peer.toNat = true →
        ∃ t, exec (.linkAuthAccept l peer pl) s = .next t ∧ t.lk l = lkActive ∧ t.rd F.FAB_LINK_STAT.epoch l = 1 ∧
          t.rd F.FAB_LINK_CFG.peer_node l = peer.toNat ∧ t.rd F.FAB_LINK_CFG.peer_link l = pl.val ∧
          t.link l = { Link.zero with
            healthy := (s.link l).healthy, rtt := (s.link l).rtt, auth := true, rxEpoch := 1, since := s.nowNs } ∧
          Logged s t 5 3 lkActive (512 + l.val)) ∧
      (s.procUp fc = true → s.members.contains peer.toNat = false →
        ∃ t, exec (.linkAuthAccept l peer pl) s = .next t ∧ t.rd F.FAB_STAT.auth_alarm = 1 ∧ OnlyRegs s t [(F.FAB_STAT.auth_alarm, 0)]) ∧
      ((s.link l).since + 100000000 ≤ s.nowNs →
        ∃ t, exec (.linkAuthTimeout l) s = .next t ∧ t.rd F.FAB_STAT.auth_alarm = 1 ∧ OnlyRegs s t [(F.FAB_STAT.auth_alarm, 0)]) ∧
      (s.nowNs < (s.link l).since + 100000000 → exec (.linkAuthTimeout l) s = .next s)) ∧
    (s.lk l ≠ lkTrained → exec (.linkAuthAccept l peer pl) s = .next s ∧ exec (.linkAuthTimeout l) s = .next s)

/-- Flits are taken once and in order, acknowledged, replayed and re-keyed (R353, R365, R371, R372). An expected DATA flit
is delivered and acknowledged, another one is not; NAK and the timeout replay what is outstanding; re-keying and the epoch
rollover change keys. Where numbering starts is DEDUCED (log 30). -/
def Obligations.FlitsAcknowledgeReplayAndRekey : Prop :=
  (
    ∀ (s : State) (l : Fin 36) (f : Flit), s.linkActive l = true →
      let x := s.link l
      let recent := (x.tagFails.filter fun t => s.nowNs < t + 1000000000).length
      (f.codeOk = true → f.tagOk = true → x.queue = [] →
        (∃ t, exec (.idleFlit l f) s = .next t ∧ (t.link l).replay = x.replay.dropWhile (fun e => acked f.ack.toNat e.1) ∧
          (t.link l).rxNext = x.rxNext ∧ kget (t.link l).credits f.crVc 0 = kget x.credits f.crVc 0 - f.crCnt.toNat ∧
          t.rd F.FAB_LINK_ERR.ce_cnt l = satAdd 32 (s.rd F.FAB_LINK_ERR.ce_cnt l) f.fixed ∧
          Only s t [(F.FAB_LINK_ERR.ce_cnt, l.val)] (·.withLinks t.links)) ∧
        (f.seq.toNat = x.rxNext →
          ∃ t cr n, exec (.dataFlit l f) s = .next t ∧ (t.link l).replay = x.replay.dropWhile (fun e => acked f.ack.toNat e.1) ∧
            (t.link l).rxNext = (x.rxNext + 1) % 2 ^ 40 ∧ (t.link l).nakSent = false ∧
            kget (t.link l).credits f.crVc 0 = kget x.credits f.crVc 0 - f.crCnt.toNat ∧
            t.out = .flit l 1 0 0 0 (lastGood { x with rxNext := (x.rxNext + 1) % 2 ^ 40 }) cr n :: s.out ∧
            (x.owe = [] → f.units.val ≠ 0 → cr = f.vc ∧ n = min 4095 f.units.val) ∧
            Only s t [(F.FAB_LINK_ERR.ce_cnt, l.val)] fun y => (y.withLinks t.links).withOut t.out)) ∧
      (f.codeOk = true → f.tagOk = true → f.seq.toNat ≠ x.rxNext →
        (x.nakSent = true → ∃ t, exec (.dataFlit l f) s = .next t ∧ OnlyRegs s t [(F.FAB_LINK_ERR.ce_cnt, l.val)]) ∧
        (x.nakSent = false → ∃ t cr n, exec (.dataFlit l f) s = .next t ∧ t.out = .flit l 2 0 0 0 (lastGood x) cr n :: s.out ∧
          (t.link l).nakSent = true ∧ (t.link l).rxNext = x.rxNext ∧ (t.link l).replay = x.replay ∧
          Only s t [(F.FAB_LINK_ERR.ce_cnt, l.val)] fun y => (y.withLinks t.links).withOut t.out)) ∧
      (f.codeOk = true → f.tagOk = false →
        ∃ t u, exec (.idleFlit l f) s = .next t ∧ exec (.dataFlit l f) s = .next u ∧
          t.rd F.FAB_LINK_ERR.auth_fail l = satAdd 16 (s.rd F.FAB_LINK_ERR.auth_fail l) 1 ∧
          u.rd F.FAB_LINK_ERR.auth_fail l = satAdd 16 (s.rd F.FAB_LINK_ERR.auth_fail l) 1 ∧
          (recent < 15 → t.lk l = lkActive ∧ u.lk l = lkActive) ∧
          (15 ≤ recent → t.lk l = lkDown ∧ u.lk l = lkDown ∧ t.rd F.FAB_STAT.auth_alarm = 1 ∧ u.rd F.FAB_STAT.auth_alarm = 1)) ∧
      (f.codeOk = false → exec (.idleFlit l f) s = .next s ∧
        (x.nakSent = true → exec (.dataFlit l f) s = .next s) ∧
        (x.nakSent = false → ∃ t cr n, exec (.dataFlit l f) s = .next t ∧ t.out = .flit l 2 0 0 0 (lastGood x) cr n :: s.out ∧
          (t.link l).nakSent = true ∧ (t.link l).rxNext = x.rxNext ∧ t = (s.withLinks t.links).withOut t.out))) ∧
  (
    (∀ (s : State) (l : Fin 36) (f : Flit) (ack : BitVec 40), s.linkActive l = false →
      exec (.dataFlit l f) s = .next s ∧ exec (.idleFlit l f) s = .next s ∧ exec (.nak l ack) s = .next s ∧
      exec (.ackTimeout l) s = .next s ∧ exec (.rekey l) s = .next s ∧ exec (.epochRollover l) s = .next s) ∧
    ∀ (s : State) (l : Fin 36) (ack : BitVec 40), s.linkActive l = true →
      let x := s.link l
      (x.replay = [] → exec (.ackTimeout l) s = .next s ∧ exec (.nak l ack) s = .next s) ∧
      (s.nowNs < x.ackAt + 2 * x.rtt → exec (.ackTimeout l) s = .next s) ∧
      (∀ n vc u, x.replay = [(n, vc, u)] → x.resends < 16 → x.ackAt + 2 * x.rtt ≤ s.nowNs →
        ∃ t cr k, exec (.ackTimeout l) s = .next t ∧ t.out = .flit l 0 vc u n (lastGood x) cr k :: s.out ∧
          t.rd F.FAB_LINK_ERR.replay_cnt l = satAdd 16 (s.rd F.FAB_LINK_ERR.replay_cnt l) 1 ∧
          (t.link l).resends = x.resends + 1 ∧ (t.link l).replay = x.replay ∧ (t.link l).ackAt = s.nowNs ∧
          Only s t [(F.FAB_LINK_ERR.replay_cnt, l.val)] fun y => (y.withLinks t.links).withOut t.out) ∧
      (x.replay ≠ [] → x.resends < 16 → x.ackAt + 2 * x.rtt ≤ s.nowNs →
        ∃ t fs, exec (.ackTimeout l) s = .next t ∧ t.out = fs ++ s.out ∧ fs.length = x.replay.length ∧
          (t.link l).replay = x.replay ∧ (t.link l).flits = x.flits + x.replay.length) ∧
      (x.replay ≠ [] → 16 ≤ x.resends → x.ackAt + 2 * x.rtt ≤ s.nowNs →
        ∃ t, exec (.ackTimeout l) s = .next t ∧ t.lk l = lkTraining ∧ (t.link l).retrain = true ∧ (t.link l).replay = x.replay) ∧
      (∀ n vc u, x.replay = [(n, vc, u)] → acked ack.toNat n = true →
        ∃ t, exec (.nak l ack) s = .next t ∧ t.link l = { x with replay := [], ackSeq := ack.toNat, resends := 0, ackAt := s.nowNs } ∧
          t = s.withLinks t.links) ∧
      (∀ n vc u, x.replay = [(n, vc, u)] → acked ack.toNat n = false → x.resends < 16 →
        ∃ t cr k, exec (.nak l ack) s = .next t ∧ t.out = .flit l 0 vc u n (lastGood x) cr k :: s.out ∧
          (t.link l).resends = x.resends + 1 ∧ (t.link l).replay = x.replay) ∧
      (∃ t, exec (.rekey l) s = .next t ∧ t.link l = { x with rekeyNext := true, rxEpoch := x.rxEpoch + 1 } ∧ t = s.withLinks t.links) ∧
      (2 ^ 40 ≤ x.flits → ∃ t cr k, exec (.epochRollover l) s = .next t ∧ t.out = .flit l 3 0 0 0 (lastGood x) cr k :: s.out ∧
        t.rd F.FAB_LINK_STAT.epoch l = (s.rd F.FAB_LINK_STAT.epoch l + 1) % 2 ^ 32 ∧ (t.link l).flits = 0 ∧
        (t.link l).replay = x.replay ∧
        Only s t [(F.FAB_LINK_STAT.epoch, l.val)] fun v => (v.withLinks t.links).withOut t.out) ∧
      (x.flits < 2 ^ 40 → exec (.epochRollover l) s = .next s))

/-- Request records are checked, performed once and answered (R315, R354, R356, R360, R367). LD, ST, ADD, MIN, MAX, CAS and
MSG records are performed at the target after the checks of R360 in their order, once per transaction, and answered with the
status the checks give. -/
def Obligations.RequestRecordsArePerformedOnceAndAnswered : Prop :=
  (
    ∀ (s : State) (l : Fin 36) (r : Record),
      ∀ c ∈ [(0, Instr.ldRecord l r), (1, Instr.stRecord l r), (2, Instr.addRecord l r), (3, Instr.minRecord l r),
        (4, Instr.maxRecord l r), (5, Instr.casRecord l r), (6, Instr.msgRecord l r)],
      let src := r.srcNode.toNat
      let n := recLen c.1 r
      let u := s.notePeer src
      let p := u.perform1 c.1 r.addr.toNat n (r.value.toNat % 2 ^ (8 * n)) (r.newVal.toNat % 2 ^ (8 * n)) r.keyIdx.toNat r.sgn
        r.dev r.data
      let done (tMax : Nat) : Prop :=
        (p.2.1 = St.busy → exec c.2 s = .next (p.1.respond c.1 r St.busy p.2.2.1 false p.2.2.2)) ∧
        (p.2.1 ≠ St.busy →
          ∃ v, v = p.1.withWindows v.windows ∧
            (∃ w, kfind v.windows src = some w ∧ w.tMax = tMax ∧
              (⟨r.tid.toNat, p.2.1, p.2.2.1, c.1 == 0⟩ : DedupRec) ∈ w.recs ∧
              (∀ d ∈ w.recs, d.tid = r.tid.toNat ∨ toSigned 32 ((tMax + 2 ^ 32 - d.tid) % 2 ^ 32) < 4096)) ∧
            (∀ k, k ≠ src → kfind v.windows k = kfind p.1.windows k) ∧
            exec c.2 s = .next (v.respond c.1 r p.2.1 p.2.2.1 false p.2.2.2))
      (s.linkActive l = false → exec c.2 s = .next s) ∧
      (s.linkActive l = true → (r.bad = true ∨ r.hop = 15) →
        ∃ t, exec c.2 s = .next t ∧ t.rd F.FAB_STAT.rec_err = satAdd 32 (s.rd F.FAB_STAT.rec_err) 1 ∧
          OnlyRegs s t [(F.FAB_STAT.rec_err, 0)]) ∧
      (s.linkActive l = true → r.bad = false → r.hop ≠ 15 → s.members.contains src = false →
        ∃ t, exec c.2 s = .next t ∧ t.rd F.FAB_LINK_CNT.nonmember_cnt l = satAdd 16 (s.rd F.FAB_LINK_CNT.nonmember_cnt l) 1 ∧
          OnlyRegs s t [(F.FAB_LINK_CNT.nonmember_cnt, l.val)]) ∧
      (s.linkActive l = true → r.bad = false → r.hop ≠ 15 → s.members.contains src = true → r.dstNode.toNat ≠ s.ownNode →
        (s.candLinks r.dstNode.toNat = [] →
          ∃ t, exec c.2 s = .next t ∧ t.rd F.FAB_STAT.unreach = 1 ∧ OnlyRegs s t [(F.FAB_STAT.unreach, 0)]) ∧
        (∀ v, s.sendRecord c.1 { r with hop := Fin.ofNat 16 (r.hop.val + 1) } = some v → exec c.2 s = .next v)) ∧
      (s.linkActive l = true → r.bad = false → r.hop ≠ 15 → s.members.contains src = true → r.dstNode.toNat = s.ownNode →
        (kfind s.windows src = none → Config.windowRoom < s.windows.length →
          exec c.2 s = .next ((u.put F.FAB_STAT.win_alloc_fail 1).respond c.1 r St.busy 0 false [])) ∧
        (kfind s.windows src = none → s.windows.length ≤ Config.windowRoom → done r.tid.toNat) ∧
        (∀ w, kfind s.windows src = some w →
          let d := toSigned 32 ((r.tid.toNat + 2 ^ 32 - w.tMax) % 2 ^ 32)
          (0 < d → done r.tid.toNat) ∧
          (d ≤ -4096 → ∃ t, exec c.2 s = .next t ∧ t = s.withPeers t.peers ∧
            (t.peer src).stale = satAdd 13 (s.peer src).stale 1) ∧
          (-4096 < d → d ≤ 0 → (w.recs.find? fun x => x.tid == r.tid.toNat) = none → done w.tMax) ∧
          (∀ x, -4096 < d → d ≤ 0 → (w.recs.find? fun x => x.tid == r.tid.toNat) = some x →
            (x.status ≠ St.ok → exec c.2 s = .next (u.respond c.1 r x.status 0 true [])) ∧
            (x.status = St.ok → c.1 ≠ 0 → exec c.2 s = .next (u.respond c.1 r St.ok x.old true [])) ∧
            (x.status = St.ok → c.1 = 0 → done w.tMax))))) ∧
  (
    ∀ (s : State) (op a n v nv key : Nat) (sgn dev : Bool) (data : List Byte), op < 6 →
      (s.fabStatus a n key dev ≠ St.ok → (s.perform1 op a n v nv key sgn dev data).2 = (s.fabStatus a n key dev, 0, []) ∧
        (s.perform1 op a n v nv key sgn dev data).1.mem = s.mem) ∧
      (s.fabStatus a n key dev = St.ok →
        s.perform1 0 a n v nv key sgn dev data = (s, St.ok, 0, s.load a n key) ∧
        (data.length = n → s.perform1 1 a n v nv key sgn dev data = (s.store a data key, St.ok, 0, [])) ∧
        (let old := leVal (s.load a n key)
         let rmw (op new : Nat) : Prop := s.perform1 op a n v nv key sgn dev data = (s.store a (leBytes n new) key, St.ok, old, [])
         v < 2 ^ (8 * n) → nv < 2 ^ (8 * n) → 0 < n →
          rmw 2 ((old + v) % 2 ^ (8 * n)) ∧
          rmw 3 (if sgn then (if toSigned (8 * n) old ≤ toSigned (8 * n) v then old else v) else min old v) ∧
          rmw 4 (if sgn then (if toSigned (8 * n) v ≤ toSigned (8 * n) old then old else v) else max old v) ∧
          rmw 5 (if old = v then nv else old))))

/-- Responses and timers end requests; collectives, peer snapshots and shard moves (R358, R366, R368, R373, R374, R375,
R376, R401). A response completes the request it names; the end-to-end timer and a failed member complete it with their
status; a collective ends with its result or the status of its members, the peer table is copied, and a shard move switches
and releases in order. Only the old holder moves a shard (log 37). -/
def Obligations.ResponsesTimersCollectivesAndShardMoves : Prop :=
  (
    ∀ (s : State) (l : Fin 36) (r : Record),
      ∀ c ∈ [(8, Instr.ldRsp l r), (9, Instr.stAck l r), (10, Instr.atomRsp l r), (11, Instr.msgAck l r)],
      let n := r.srcNode.toNat
      let hit (q : FabReq) : Bool := q.dst == n && q.tid == r.tid.toNat && responseOp q.op == c.1
      (s.linkActive l = false → exec c.2 s = .next s) ∧
      (s.linkActive l = true → (r.bad = true ∨ r.hop = 15) →
        ∃ t, exec c.2 s = .next t ∧ t.rd F.FAB_STAT.rec_err = satAdd 32 (s.rd F.FAB_STAT.rec_err) 1 ∧
          OnlyRegs s t [(F.FAB_STAT.rec_err, 0)]) ∧
      (s.linkActive l = true → r.bad = false → r.hop ≠ 15 → s.members.contains n = true → r.dstNode.toNat = s.ownNode →
        (s.fabReqs.find? hit = none → exec c.2 s = .next s) ∧
        (∀ q, s.fabReqs.find? hit = some q →
          ∃ u, u = s.withPeers u.peers ∧ (u.peer n).lost = none ∧ (u.peer n).seen = s.nowNs ∧
            (s.nowNs ≤ (s.peer n).seen + 60000000000 → (u.peer n).rtt =
              (if (s.peer n).rtt = 0 then s.nowNs - q.since else (15 * (s.peer n).rtt + (s.nowNs - q.since)) / 16)) ∧
            ((s.peer n).seen + 60000000000 < s.nowNs → (u.peer n).rtt = s.nowNs - q.since) ∧
            (r.status.toNat = St.busy → exec c.2 s = .next u) ∧
            (r.status.toNat ≠ St.busy → (c.1 ≠ 11 ∨ r.status ≠ 0 ∨ s.move = none) →
              exec c.2 s = .next (u.closeReq q r.status.toNat (if c.1 = 8 then leVal r.data else r.value.toNat) r.data)) ∧
            (∀ m, c.1 = 11 → r.status = 0 → s.move = some m → m.sent.contains (n, q.tid) = true →
              exec c.2 s = .next ((u.withMove (some { m with
                sent := m.sent.filter (· != (n, q.tid)), acks := n :: m.acks })).closeReq q 0 r.value.toNat r.data))))) ∧
  (
    (∀ (s : State) (dst : BitVec 16) (tid : BitVec 32),
      ((s.fabReqs.find? fun q => q.dst == dst.toNat && q.tid == tid.toNat) = none → exec (.e2eTimeout dst tid) s = .next s) ∧
      (∀ q, (s.fabReqs.find? fun q => q.dst == dst.toNat && q.tid == tid.toNat) = some q →
        let first := ((s.reqsTo q.dst).find? fun (x : FabReq) => decide (x.since + s.e2eNs ≤ s.nowNs)).map (fun (x : FabReq) => x.tid)
        (q.dst = s.ownNode ∨ first ≠ some q.tid → exec (.e2eTimeout dst tid) s = .next s) ∧
        (first = some q.tid → q.dst ≠ s.ownNode →
          (s.candLinks q.dst = [] →
            exec (.e2eTimeout dst tid) s = .next ((s.put F.FAB_STAT.unreach 1).closeReq q St.fabUnreachable 0 [])) ∧
          (s.candLinks q.dst ≠ [] → q.tries < s.e2eTries →
            ∃ t, exec (.e2eTimeout dst tid) s = .next t ∧
              t.fabReqs = s.fabReqs.map (fun x => if x.dst = q.dst ∧ x.tid = q.tid then { q with tries := q.tries + 1, since := s.nowNs } else x) ∧
              (t.peer q.dst).retries = satAdd 32 (s.peer q.dst).retries 1) ∧
          (s.candLinks q.dst ≠ [] → s.e2eTries ≤ q.tries →
            ∃ u : State, (u.peer q.dst).suspect = true ∧ (u.peer q.dst).lost = some ((s.peer q.dst).lost.getD s.nowNs) ∧
              u.fabReqs = s.fabReqs ∧ Logged s u 5 1 q.dst fc ∧
              exec (.e2eTimeout dst tid) s = .next (u.closeReq q St.fabTimeout 0 []))))) ∧
    (∀ (s : State) (node : BitVec 16),
      ((s.peer node.toNat).lost = none → exec (.memberFailedMark node) s = .next s) ∧
      (∀ t0, (s.peer node.toNat).lost = some t0 → s.nowNs < t0 + s.e2eNs → exec (.memberFailedMark node) s = .next s) ∧
      (∀ t0, (s.peer node.toNat).lost = some t0 → t0 + s.e2eNs ≤ s.nowNs → (s.peer node.toNat).failed = false →
        ∃ t, exec (.memberFailedMark node) s = .next t ∧ (t.peer node.toNat).failed = true ∧ Logged s t 5 1 node.toNat fc ∧
          ∀ i q, s.seq? i = some q → (∃ e ∈ q.pages, e.remote = true ∧ e.node = node.toNat) →
            (q.freezeReq.map (·.1) ≠ some 6 → t.seq? i = some { q with freezeReq := some (6, St.memUncorrectable) }) ∧
            (q.freezeReq.map (·.1) = some 6 → t.seq? i = some q)))) ∧
  (
    (∀ (s : State) (c : Collective) (ring : List (BitVec 16)) (parts : List (BitVec 16 × Nat × List (BitVec 32))),
      ring = [] ∨ s.ownNode ∉ ring.map BitVec.toNat → exec (.collectiveEnd c ring parts) s = .next s) ∧
    (∀ (s : State) (c : Collective) (ring : List (BitVec 16)) (parts : List (BitVec 16 × Nat × List (BitVec 32))),
      (∃ n ∈ ring, (∀ x ∈ parts, x.1 ≠ n) ∧ s.members.contains n.toNat = true ∧ (s.peer n.toNat).failed = false) →
        exec (.collectiveEnd c ring parts) s = .next s) ∧
    (∀ (s : State) (c : Collective) (me n : BitVec 16) (ta tb : Nat) (xa xb : List (BitVec 32)),
      me.toNat = s.ownNode → n ≠ me → s.rd F.FAB_STRAG.strag_thr_us = 0 →
      ∃ t, exec (.collectiveEnd c [me, n] [(me, ta, xa), (n, tb, xb)]) s = .next t ∧
        t.out = .collective c.coll.toNat c.kind 3 false (collResult c 0 [xa.map BitVec.toNat, xb.map BitVec.toNat]) :: s.out ∧
        (t.peer n.toNat).run = 0 ∧ (t.peer n.toNat).strag = (s.peer n.toNat).strag ∧ t.seqs = s.seqs) ∧
    (∀ (s : State) (c : Collective) (me n : BitVec 16) (ta : Nat) (xa : List (BitVec 32)),
      me.toNat = s.ownNode → n ≠ me → s.members.contains n.toNat = false →
      ∃ t o, exec (.collectiveEnd c [me, n] [(me, ta, xa)]) s = .next t ∧ o ∈ t.out ∧
        o = .collective c.coll.toNat c.kind 1 true (collResult c 0 [xa.map BitVec.toNat]) ∧
        ∀ i q, s.seq? i = some q → (∃ e ∈ q.pages, e.remote = true ∧ e.node = n.toNat) → q.freezeReq = none →
          t.seq? i = some { q with freezeReq := some (6, St.memUncorrectable) })) ∧
  (
    (∀ (s : State) (wr : Writer) (n : BitVec 16), s.mayWrite wr F.FAB_PEER_SEL.node 0 = true →
      let p := s.peer n.toNat
      ∃ t, exec (.peerSnapshot wr n) s = .next t ∧ t.rd F.FAB_PEER_SEL.node = n.toNat ∧
        (s.nowNs ≤ p.seen + 60000000000 →
          t.rd F.FAB_PEER_LAT.rtt_ns = min (2 ^ 32 - 1) p.rtt ∧ t.rd F.FAB_PEER_LAT.lag_ns = min (2 ^ 32 - 1) p.lag) ∧
        (p.seen + 60000000000 < s.nowNs → t.rd F.FAB_PEER_LAT.rtt_ns = 0 ∧ t.rd F.FAB_PEER_LAT.lag_ns = 0) ∧
        t.rd F.FAB_PEER_CNT.retries = p.retries % 2 ^ 32 ∧ t.rd F.FAB_PEER_CNT.strag_runs = p.strag % 2 ^ 16 ∧
        t.rd F.FAB_PEER_CNT.member = b2n (s.members.contains n.toNat) ∧ t.rd F.FAB_PEER_CNT.suspect = b2n p.suspect ∧
        t.rd F.FAB_PEER_CNT.failed = b2n p.failed ∧ t.rd F.FAB_PEER_CNT.stale_cnt = p.stale % 2 ^ 13 ∧
        OnlyRegs s t [(F.FAB_PEER_SEL.node, 0), (F.FAB_PEER_LAT.rtt_ns, 0), (F.FAB_PEER_LAT.lag_ns, 0), (F.FAB_PEER_CNT.retries, 0),
          (F.FAB_PEER_CNT.strag_runs, 0), (F.FAB_PEER_CNT.member, 0), (F.FAB_PEER_CNT.suspect, 0), (F.FAB_PEER_CNT.failed, 0),
          (F.FAB_PEER_CNT.stale_cnt, 0)]) ∧
    (∀ (s : State) (copied : Nat),
      let lg := s.models.foldl (fun a m => max a m.2.lgCount) 1
      (∀ spare rest, s.inCol = true → s.spares = spare :: rest → s.move = none → s.rd F.FAB_CTRL.joined = 1 → s.coordUp = true →
        (copied < lg * 16 → ∃ t m, exec (.shardMoveSwitch copied) s = .next t ∧ t.move = some m ∧ m.spare = spare ∧ m.old = s.ownNode ∧
          m.switched = true ∧ m.acks = [] ∧ (s.others = [] → m.sent = [] ∧ t = (s.fabMsg spare 8 []).withMove t.move)) ∧
        (lg * 16 ≤ copied → exec (.shardMoveSwitch copied) s = .next s)) ∧
      (s.inCol = true → s.spares = [] → exec (.shardMoveSwitch copied) s = .next s) ∧
      (s.inCol = false → exec (.shardMoveSwitch copied) s = .next s) ∧
      (∀ m, s.move = some m → m.switched = true → s.coordUp = true → (∀ n ∈ s.others, n ∈ m.acks) →
        exec .shardMoveRelease s = .next ((s.withMove none).fabMsg m.spare 8 [])) ∧
      (∀ m n, s.move = some m → n ∈ s.others → n ∉ m.acks → exec .shardMoveRelease s = .next s) ∧
      (s.move = none → exec .shardMoveRelease s = .next s)))

/-- Doorbells, ring sizes, coalesced interrupts and register writes (R15, R16, R17, R383, R384, R385, R387). A doorbell
within the ring's room moves its index and another sets db_err; a ring's sizes change only while it is idle; notices and
coalesced interrupts are delivered; a register write changes each field it reaches by its access code (RW, WO, W1C, RS with
its shadow, RO), ignores what the writer may not write, changes no memory, and is counted in host_wr_ign or win_miss where
the spec says so. A host's write acts from start-up step 3 on. A skipped own field belongs to its own row (INVENTORY). -/
def Obligations.DoorbellsRingSizesInterruptsAndRegisterWrites : Prop :=
  (
    ∀ (s : State) (fn : Fin 256) (r : RingName) (v : BitVec 32) (cfg : Word),
      let k := ringNo r
      let seen : Prop := (k < ctlRing ∧ s.winMiss (k / 16) fn = false) ∨ (ctlRing ≤ k ∧ fn = 0)
      (k < ctlRing → s.winMiss (k / 16) fn = true →
        ∃ t, t.rd F.HOST_STAT.win_miss = 1 ∧ OnlyRegs s t [(F.HOST_STAT.win_miss, 0)] ∧ exec (.sqTailDoorbell ⟨fn, r⟩ v) s = .next t ∧
          exec (.cqHeadDoorbell ⟨fn, r⟩ v) s = .next t ∧ exec (.ringConfigWrite ⟨fn, r⟩ cfg) s = .next t) ∧
      (ctlRing ≤ k → fn ≠ 0 → exec (.sqTailDoorbell ⟨fn, r⟩ v) s = .next s ∧ exec (.cqHeadDoorbell ⟨fn, r⟩ v) s = .next s ∧
        exec (.ringConfigWrite ⟨fn, r⟩ cfg) s = .next s) ∧
      (seen → s.ringOn k = true →
        let ahead := (v.toNat + 2 ^ 32 - s.ringRd rSqHead k) % 2 ^ 32
        let done := (v.toNat + 2 ^ 32 - s.ringRd rCqHead k) % 2 ^ 32
        (2 ^ s.ringRd rSqLog k < ahead → ∃ t, exec (.sqTailDoorbell ⟨fn, r⟩ v) s = .next t ∧ t.ringRd rDbErr k = 1 ∧
          t.ringRd rSqTail k = s.ringRd rSqTail k ∧ t = s.withRegs t.regs) ∧
        (ahead ≤ 2 ^ s.ringRd rSqLog k → ∃ t, exec (.sqTailDoorbell ⟨fn, r⟩ v) s = .next t ∧ t.ringRd rSqTail k = v.toNat ∧
          t.ringRd rDbErr k = s.ringRd rDbErr k ∧ (t.ring k).fifo = (s.ring k).fifo.take ahead ∧
          t = (s.withRegs t.regs).withRings t.rings) ∧
        (s.cqUsed k < done → ∃ t, exec (.cqHeadDoorbell ⟨fn, r⟩ v) s = .next t ∧ t.ringRd rDbErr k = 1 ∧
          t.ringRd rCqHead k = s.ringRd rCqHead k ∧ t = s.withRegs t.regs) ∧
        (done ≤ s.cqUsed k → ∃ t, exec (.cqHeadDoorbell ⟨fn, r⟩ v) s = .next t ∧ t.ringRd rCqHead k = v.toNat ∧
          t = s.withRegs t.regs)) ∧
      (seen → s.ringOn k = false → exec (.sqTailDoorbell ⟨fn, r⟩ v) s = .next s ∧ exec (.cqHeadDoorbell ⟨fn, r⟩ v) s = .next s) ∧
      (seen → (s.sqAvail k ≠ 0 ∨ s.ringRd rOutst k ≠ 0) →
        ∃ t, exec (.ringConfigWrite ⟨fn, r⟩ cfg) s = .next t ∧ t.ringRd rCfgIgn k = 1 ∧ t.ringRd rSqLog k = s.ringRd rSqLog k ∧
          t = s.withRegs t.regs) ∧
      (seen → s.sqAvail k = 0 → s.ringRd rOutst k = 0 →
        let sq := bits cfg.toNat 3 0
        let cq := bits cfg.toNat 11 8
        (ringCfgOk sq cq = false → ∃ t, exec (.ringConfigWrite ⟨fn, r⟩ cfg) s = .next t ∧ t.ringRd rCfgErr k = 1 ∧ t.ringOn k = false ∧
          t = s.withRegs t.regs) ∧
        (ringCfgOk sq cq = true → sq ≠ 0 → cq ≠ 0 → (s.ringRd rSqLog k ≠ sq ∨ s.ringRd rCqLog k ≠ cq) →
          ∃ t, exec (.ringConfigWrite ⟨fn, r⟩ cfg) s = .next t ∧ t.ringOn k = true ∧ t.ringRd rSqLog k = sq ∧ t.ringRd rCqLog k = cq ∧
            t.ringRd rVector k = bits cfg.toNat 19 12 ∧ t.ringRd rSqTail k = 0 ∧ t.ringRd rSqHead k = 0 ∧ t.ringRd rCqHead k = 0 ∧
            t.ringRd rCqTail k = 0 ∧ (t.ring k).cq = [] ∧ t = (s.withRegs t.regs).withRings t.rings))) ∧
  (
    ∀ (s : State) (r : RingName),
      let k := ringNo r
      (∀ e rest, (s.ring k).notices = e :: rest →
        (s.cqFree k = true → s.ringRd rCqLog k ≠ 0 →
          let c := s.ringRd rCqTail k
          let lg := s.ringRd rCqLog k
          ∃ t x, exec (.noticePost r) s = .next t ∧ (t.ring k).notices = rest ∧ t.ringRd rCqTail k = (c + 1) % 2 ^ 32 ∧
            kfind (t.ring k).cq (c % 2 ^ lg) = some x ∧ x = { e with phase := !bit c lg, tick := (s.tickNow % 2 ^ 32).toNat }) ∧
        (s.cqFree k = false → exec (.noticePost r) s = .next s)) ∧
      ((s.ring k).notices = [] → (k ≠ ctlRing ∨ s.events = []) → exec (.noticePost r) s = .next s) ∧
      (∀ t0, (s.ring k).unsigSince = some t0 → (s.ring k).unsig ≠ 0 → s.ringRd rCoalUs k ≠ 0 →
        let due := t0 + s.ringRd rCoalUs k * 1000
        let vec := s.ringVector k
        (due ≤ s.nowNs → vec.2 < (if vec.1 = 0 then 64 else 256) →
          ∃ t, exec (.coalTimerExpiry r) s = .next t ∧ t.out = .msix vec.1 vec.2 :: s.out ∧ (t.ring k).unsig = 0 ∧
            (t.ring k).unsigSince = none ∧ t = (s.withRings t.rings).withOut t.out) ∧
        (s.time.edges = true → (s.nowNs / 125000 + 1) * 125000 ≤ due → exec (.coalTimerExpiry r) s = .next s)) ∧
      ((s.ring k).unsigSince = none → exec (.coalTimerExpiry r) s = .next s)) ∧
  (
    (∀ (s : State) (v : Word),
      (s.rd F.RST_STAT.step < 3 → exec (.registerWrite .host 0xA00010 v) s = .next s) ∧
      (3 ≤ s.rd F.RST_STAT.step →
        (∃ t, exec (.registerWrite .host 0xA00010 v) s = .next t ∧ t.rd F.FAB_LIMITS.e2e_to_us = v.toNat % 2 ^ 16 ∧
          t.rd F.FAB_LIMITS.e2e_tries = v.toNat / 2 ^ 16 % 2 ^ 4 ∧
          OnlyRegs s t [(F.FAB_LIMITS.e2e_to_us, 0), (F.FAB_LIMITS.e2e_tries, 0)]) ∧
        (∃ t, exec (.registerWrite .host 0xA00008 v) s = .next t ∧
          (bit v.toNat 13 = true → t.rd F.FAB_STAT.auth_alarm = 0) ∧
          (bit v.toNat 13 = false → t.rd F.FAB_STAT.auth_alarm = s.rd F.FAB_STAT.auth_alarm % 2) ∧
          t.rd F.FAB_STAT.rec_err = s.rd F.FAB_STAT.rec_err ∧ t.rd F.FAB_STAT.links_up = s.rd F.FAB_STAT.links_up ∧
          OnlyRegs s t [(F.FAB_STAT.route_rebuilt, 0), (F.FAB_STAT.auth_alarm, 0), (F.FAB_STAT.unreach, 0),
            (F.FAB_STAT.win_alloc_fail, 0)])) ∧
      exec (.registerWrite .host 0xA00030 v) s = .next s) ∧
    (∀ (s : State) (p : Fin 8) (v : Word),
      let a := BitVec.ofNat 40 (0x200020 + 256 * p.val)
      (s.partActive p = true → ∃ t, exec (.registerWrite .host a v) s = .next t ∧ t.rd F.TICK_STAT.host_wr_ign p = 1 ∧
        OnlyRegs s t [(F.TICK_STAT.host_wr_ign, p.val)]) ∧
      (s.partActive p = false → 3 ≤ s.rd F.RST_STAT.step → ∃ t, exec (.registerWrite .host a v) s = .next t ∧
        t.shadow F.TICK_OPEN_SHARE.open_share p = v.toNat % 2 ^ 11 ∧
        t.rd F.TICK_OPEN_SHARE.open_share p = s.rd F.TICK_OPEN_SHARE.open_share p ∧ t.rd F.TICK_STAT.stage_pending p = 1)) ∧
    (∀ (s : State) (x y : Fin 4096) (off : Fin 65536) (v : Word),
      (s.rd F.HOST_SLICE.function x ≠ s.rd F.HOST_SLICE.function y ∨ s.sliceState x = unbound) →
      ∃ t, exec (.registerWrite (.slice x) (BitVec.ofNat 40 (2 ^ 32 + 65536 * y.val + off.val)) v) s = .next t ∧
        t.rd F.HOST_STAT.win_miss = 1 ∧ OnlyRegs s t [(F.HOST_STAT.win_miss, 0)])) ∧
  (
    ∀ (s : State) (wr : Writer) (a : BitVec 40) (v : Word), a.toNat ≠ F.TIME_PORT.ptp_port.base →
      (wr = .host → blkTICK ≤ a.toNat → a.toNat < blkTICK + 0x800 → s.partActive ((a.toNat - blkTICK) / 256) = false) →
      (∀ x, wr = .slice x → windowSlice a.toNat = some x.val ∧ s.sliceState x ≠ unbound) →
      ∃ t, exec (.registerWrite wr a v) s = .next t ∧ t.mem = s.mem ∧ t.pending = s.pending ∧
        ∀ h ∈ s.regHits a.toNat v.toNat, h.1.wide = false →
          (s.mayWrite wr h.1 h.2.1 = false → t.rd h.1 h.2.1 = s.rd h.1 h.2.1) ∧
          (s.mayWrite wr h.1 h.2.1 = true →
            let w := h.2.2 % 2 ^ h.1.width
            (h.1.acc = .rw → t.rd h.1 h.2.1 = h.1.limit w % 2 ^ h.1.width) ∧
            (h.1.acc = .wo → t.rd h.1 h.2.1 = w) ∧
            (h.1.acc = .w1c → t.rd h.1 h.2.1 = (s.rd h.1 h.2.1 &&& (2 ^ h.1.width - 1 - w)) % 2 ^ h.1.width) ∧
            (h.1.acc = .rs → t.shadow h.1 h.2.1 = w ∧ t.rd h.1 h.2.1 = s.rd h.1 h.2.1) ∧
            (h.1.acc = .ro → t.rd h.1 h.2.1 = s.rd h.1 h.2.1)))

/-- Negotiation, heartbeats, attachment, grace and the scrub (R399, R401, R402, R403, R404, R411, R412). Negotiation agrees
features or refuses a version; a missed heartbeat detaches a slice and freezes its sequences; attachment needs the cookie;
the grace's end scrubs, and the scrub's end leaves the slice unbound with everything of it cleared. -/
def Obligations.NegotiationHeartbeatsAttachmentAndScrub : Prop :=
  (
    ∀ (s : State) (fn : Fin 256) (n : Fin 4096) (major minor : BitVec 8),
      (s.partyOutst ctlRing = 0 →
        ∃ t, exec (.negotiate ⟨0, .control⟩ major minor) s = .next t ∧ t.rd F.HOST_VER.drv_major = major.toNat ∧
          t.rd F.HOST_VER.drv_minor = minor.toNat ∧ t.ctlNegPend = false ∧
          (major.toNat = s.rd F.HOST_VER.dev_major → t.ctlNeg = true ∧ t.rd F.HOST_VER.neg_status = St.ok ∧
            t.ctlAgreed = (major.toNat, min minor.toNat (s.rd F.HOST_VER.dev_minor)) ∧
            t.rd F.HOST_FEAT_AGREED.feat_ok = (s.rd F.HOST_FEAT_DEV.feat_dev &&& s.rd F.HOST_FEAT_DRV.feat_drv) % 2 ^ 128) ∧
          (major.toNat ≠ s.rd F.HOST_VER.dev_major → t.ctlNeg = false ∧ t.rd F.HOST_VER.neg_status = St.version ∧
            t.rd F.HOST_FEAT_AGREED.feat_ok = 0)) ∧
      (s.partyOutst ctlRing ≠ 0 →
        ∃ t, exec (.negotiate ⟨0, .control⟩ major minor) s = .next t ∧ t.ctlNegPend = true ∧ t.ctlNeg = s.ctlNeg ∧
          t.rd F.HOST_FEAT_AGREED.feat_ok = s.rd F.HOST_FEAT_AGREED.feat_ok) ∧
      (fn ≠ 0 → exec (.negotiate ⟨fn, .control⟩ major minor) s = .next s) ∧
      (s.winMiss n fn = true →
        ∃ t, t.rd F.HOST_STAT.win_miss = 1 ∧ OnlyRegs s t [(F.HOST_STAT.win_miss, 0)] ∧ exec (.heartbeat ⟨fn, n⟩) s = .next t ∧
          exec (.attach ⟨fn, n⟩) s = .next t ∧ exec (.negotiate ⟨fn, .slice n⟩ major minor) s = .next t) ∧
      (s.winMiss n fn = false → s.partyOutst (16 * n.val) = 0 →
        ∃ t, exec (.negotiate ⟨fn, .slice n⟩ major minor) s = .next t ∧ t.rd F.HOST_S_VER.drv_major n = major.toNat ∧
          (t.slice n).negPend = false ∧
          (major.toNat = s.rd F.HOST_S_VER.dev_major n → (t.slice n).negotiated = true ∧ t.rd F.HOST_S_VER.neg_status n = St.ok ∧
            (t.slice n).agreed = (major.toNat, min minor.toNat (s.rd F.HOST_S_VER.dev_minor n)) ∧
            t.rd F.HOST_S_FEAT_AGREED.feat_ok n = (s.rd F.HOST_S_FEAT_DEV.feat_dev n &&& s.rd F.HOST_S_FEAT_DRV.feat_drv n) % 2 ^ 128) ∧
          (major.toNat ≠ s.rd F.HOST_S_VER.dev_major n → (t.slice n).negotiated = false ∧
            t.rd F.HOST_S_VER.neg_status n = St.version))) ∧
  (
    ∀ (s : State) (fn : Fin 256) (n : Fin 4096),
      (s.winMiss n fn = false → s.sliceState n = active →
        exec (.heartbeat ⟨fn, n⟩) s = .next (s.setSlice n { s.slice n with hbLast := s.nowNs })) ∧
      (s.inCol = false → exec (.heartbeatTimeout n) s = .next s) ∧
      (s.inCol = true → s.sliceState n = active → s.hbLimit n ≠ 0 →
        (s.nowNs ≤ (s.slice n).hbLast + s.hbLimit n * 1000000 → exec (.heartbeatTimeout n) s = .next s) ∧
        ((s.slice n).hbLast + s.hbLimit n * 1000000 < s.nowNs →
          ∃ u : State, u.sliceState n = detached ∧ (u.slice n).detachedAt = s.nowNs ∧
            (∀ i q, s.seq? i = some q → q.slice = n.val → q.held = false → q.freezeReq = none →
              u.seq? i = some { q with freezeReq := some (1, St.ok) }) ∧
            (kwf s.seqs = true → ∀ i q, s.seq? i = some q → q.slice ≠ n.val → u.seq? i = some q) ∧
            (s.rd F.HOST_SLICE.grace_s n ≠ 0 → exec (.heartbeatTimeout n) s = .next u) ∧
            (s.rd F.HOST_SLICE.grace_s n = 0 → exec (.heartbeatTimeout n) s = .next (u.startScrub n)))) ∧
      (∀ t0, s.ctlHb = some t0 →
        (s.rd F.HOST_CTL_HB.ctl_hb_to_ms ≠ 0 → t0 + s.rd F.HOST_CTL_HB.ctl_hb_to_ms * 1000000 < s.nowNs →
          exec .ctlHeartbeatTimeout s = .next ((s.withCtlHb none).eventEntry (Config.hostEvent 7) 0)) ∧
        (s.rd F.HOST_CTL_HB.ctl_hb_to_ms = 0 → exec .ctlHeartbeatTimeout s = .next s)) ∧
      (s.winMiss n fn = false → s.sliceState n = detached →
        s.nowNs ≤ (s.slice n).detachedAt + s.rd F.HOST_SLICE.grace_s n * 1000000000 →
        (s.nowNs < (s.slice n).blockedUntil → exec (.attach ⟨fn, n⟩) s = .next s) ∧
        ((s.slice n).blockedUntil ≤ s.nowNs → s.rd F.HOST_S_COOKIE.cookie n ≠ (s.slice n).cookie →
          ∃ t, exec (.attach ⟨fn, n⟩) s = .next t ∧ t.rd F.HOST_S_ATTACH.attach_st n = St.badCookie ∧
            t.slice n = { s.slice n with blockedUntil := s.nowNs + 100000000 } ∧ t.sliceState n = detached ∧
            Only s t [(F.HOST_S_ATTACH.attach_st, n.val)] (·.withSlices t.slices)) ∧
        ((s.slice n).blockedUntil ≤ s.nowNs → s.rd F.HOST_S_COOKIE.cookie n = (s.slice n).cookie →
          ∃ t, exec (.attach ⟨fn, n⟩) s = .next t ∧ t.sliceState n = active ∧ t.rd F.HOST_S_ATTACH.attach_st n = St.ok ∧
            t.rd F.HOST_S_COOKIE_NEW.cookie_new n = (t.slice n).cookie ∧ (t.slice n).negotiated = false ∧
            (t.slice n).thawPend = true ∧ (t.slice n).hbLast = s.nowNs)) ∧
      (s.sliceState n = detached → (s.slice n).detachedAt + s.rd F.HOST_SLICE.grace_s n * 1000000000 ≤ s.nowNs →
        exec (.graceExpiry n) s = .next (s.startScrub n)) ∧
      (s.sliceState n ≠ detached → exec (.graceExpiry n) s = .next s)) ∧
  (
    (∀ (s : State) (n : Fin 4096), s.sliceState n = scrubbing →
      (∀ i q, s.seq? i = some q → q.slice = n.val → exec (.scrubEnd n) s = .next s) ∧
      ((s.seqsOfSlice n).isEmpty = true → (∀ f ∈ s.frames, f.2.alloc = true → f.2.key ≠ n.val) → s.procUp cairn = true →
        ∃ t, exec (.scrubEnd n) s = .next t ∧ t.sliceState n = unbound ∧ t.slice n = (s.slice n).blank ∧
          t.rd F.HOST_SLICE.function n = 0 ∧ t.rd F.HOST_SLICE.pasid n = 0 ∧ n.val ∉ t.scopesDead)) ∧
    (∀ (s : State) (n : Fin 4096), s.sliceState n ≠ scrubbing → exec (.scrubEnd n) s = .next s) ∧
    (∀ (s : State) (n : Fin 4096) (e : Bool), (∀ x ∈ s.nodes, x.2.part < 8) → (∀ f ∈ s.frames, f.2.owner < 4096) →
      let t := s.startScrub n e
      t.sliceState n = scrubbing ∧ n.val ∈ t.scopesDead ∧ t.slice n = { (s.slice n).blank with emptyKeys := e } ∧
        (∀ c ∈ t.cmds, c.2.slice ≠ n.val) ∧ (∀ c ∈ t.copies, c.slice ≠ n.val) ∧
        (∀ x, kfind t.nodes x = none ∨ ∃ y, kfind t.nodes x = some y ∧ y.scope ≠ n.val) ∧
        (∀ r, r < 16 → t.ringOn (16 * n.val + r) = false ∧ t.ring (16 * n.val + r) = Ring.zero) ∧
        (∀ i q, s.seq? i = some q → q.slice = n.val → q.held = false → q.st ≠ .ending →
          ∃ v, t.seq? i = some v ∧ v.cancelPend = true ∧ v.st = q.st ∧ v.pages = q.pages ∧ v.toks = q.toks)))

/-- Ring commands are read in order and performed once, and wait for their owner (R241, R243, R244, R319, R361, R390, R391,
R395, R418). A command at the head of a readable ring with a higher token is taken and executed; an earlier token is
answered from the window or as stale; a command the ring does not accept completes with ST_BAD_COMMAND; a command not at the
head changes nothing. A command of the control ring whose owner is restarting is held and not performed; one whose owner is
held down completes with ST_BUSY. -/
def Obligations.RingCommandsAreReadInOrderAndOnce : Prop :=
  (
    ∀ (s : State) (sl : Fin 4096) (r : Fin 16) (e : Entry) (body : ModelBody) (img : Option SliceImage),
      let k := 16 * sl.val + r.val
      ∀ c ∈ [(k, sliceEnt 0x02 e, Instr.cancel sl r e), (k, sliceEnt 0x03 e, .freezeSeq sl r e), (k, sliceEnt 0x04 e, .thaw sl r e),
          (k, sliceEnt 0x05 e, .querySeq sl r e), (k, sliceEnt 0x06 e, .copy sl r e), (k, sliceEnt 0x07 e, .regionSet sl r e),
          (k, sliceEnt 0x08 e, .acctRead sl r e), (k, sliceEnt 0x09 e, .deltaLoad sl r e), (k, sliceEnt 0x0A e, .deltaRetire sl r e),
          (k, sliceEnt 0x0B e, .deltaQuery sl r e), (k, sliceEnt 0x0C e, .nop sl r e), (ctlRing, ctlEnt 0x40 e, .sliceBind e),
          (ctlRing, ctlEnt 0x41 e, .sliceUnbind e), (ctlRing, ctlEnt 0x42 e, .sliceFreeze e), (ctlRing, ctlEnt 0x43 e, .sliceThaw e),
          (ctlRing, ctlEnt 0x44 e, .sliceSave e), (ctlRing, ctlEnt 0x45 e none img, .sliceRestore e img),
          (ctlRing, groupEnt e 0, .groupCreate e), (ctlRing, groupEnt e 1, .groupAddSlice e), (ctlRing, groupEnt e 2, .groupRemoveSlice e),
          (ctlRing, groupEnt e 3, .groupDissolve e), (ctlRing, ctlEnt 0x47 e (some body), .modelLoad e body),
          (ctlRing, ctlEnt 0x48 e, .modelUnload e), (ctlRing, cellEntry e 0, .cellLock e), (ctlRing, cellEntry e 1, .cellUnlock e),
          (ctlRing, cellEntry e 2, .cellPriority e), (ctlRing, cellEntry e 3, .cellTxAtten e), (ctlRing, statusEntry e, .cellStatus e),
          (ctlRing, ctlEnt 0x4B e, .domainJoin e), (ctlRing, listEnt e false, .domainListAdd e),
          (ctlRing, listEnt e true, .domainListRemove e), (ctlRing, ctlEnt 0x4D e, .routeSet e)],
      let k := c.1
      let x := c.2.1
      let tok := e.token.toNat
      (s.offered k = false → exec c.2.2 s = .next s) ∧
      (s.offered k = true → ((s.ring k).fifo ≠ [] ∨ s.readable k = false) →
        exec c.2.2 s = .next (s.setRing k { s.ring k with fifo := (s.ring k).fifo ++ [x] })) ∧
      (CanRead s k x → e.rsv ≠ 0 → exec c.2.2 s = .next ((taken s k x).complete k x St.badCommand)) ∧
      (∀ l, s.offered k = true → (s.ring k).fifo = [] → s.readable k = true → (s.ring k).lastTok = some l → tok ≤ l →
        ((s.ring k).live.any (fun y => y.1 == tok) = true →
          ∃ t, exec c.2.2 s = .next t ∧ t.ringRd rSqHead k = (s.ringRd rSqHead k + 1) % 2 ^ 32 ∧
            (t.ring k).live = (s.ring k).live.map (fun y => if y.1 = tok then (y.1, y.2 + 1) else y) ∧
            t.cells = s.cells ∧ t.seqs = s.seqs ∧ t.mem = s.mem) ∧
        ((s.ring k).live.any (fun y => y.1 == tok) = false →
          (∀ y, (if k < ctlRing then ((s.slice (k / 16)).window.find? fun w => w.1 == k % 16 && w.2.token == tok).map (·.2)
              else s.ctlWindow.find? fun w => w.token == tok) = some y →
            exec c.2.2 s = .next (((s.takeEntry k).release1 k).postCq k { y with dup := true })) ∧
          ((if k < ctlRing then ((s.slice (k / 16)).window.find? fun w => w.1 == k % 16 && w.2.token == tok).map (·.2)
              else s.ctlWindow.find? fun w => w.token == tok) = none →
            exec c.2.2 s = .next (((s.takeEntry k).release1 k).postCq k (mkEntry tok St.staleToken 0 x.opc 0 0 0)))))) ∧
  (
    ∀ (s : State) (e : Entry) (body : ModelBody) (img : Option SliceImage),
      let ok (m2 m3 m4 m5 m6 : Nat) : Bool := Machine.Entry.reservedOk e m2 m3 m4 m5 m6 0
      let f : Nat := 2 ^ 64 - 1
      (∀ c ∈ [(cairn, ok (2 ^ 40 - 1) 0 0 0 0, ctlEnt 0x40 e, Instr.sliceBind e), (cairn, ok 0xFFF 0 0 0 0, ctlEnt 0x41 e, .sliceUnbind e),
          (cairn, ok 0xFFF f f 0 0, ctlEnt 0x44 e, .sliceSave e),
          (cairn, ok (2 ^ 40 - 1) f f f 0, ctlEnt 0x45 e none img, .sliceRestore e img), (fc, ok 0xFFFF f f f f, ctlEnt 0x4B e, .domainJoin e),
          (fc, ok f f 0 0 0, ctlEnt 0x4D e, .routeSet e)],
        let x := c.2.2.1
        let u := taken s ctlRing x
        CanRead s ctlRing x → c.2.1 = true → u.procUp c.1 = false →
          (u.rd F.FW_PROC_STAT.pstate c.1 < 2 → exec c.2.2.2 s = .next (u.withHeldCmds (u.heldCmds ++ [⟨c.1, x⟩]))) ∧
          (2 ≤ u.rd F.FW_PROC_STAT.pstate c.1 → exec c.2.2.2 s = .next (u.complete ctlRing x St.busy))) ∧
      (∀ c ∈ [(ok 0xFFF 0 0 0 0, ctlEnt 0x42 e, Instr.sliceFreeze e), (ok 0xFFF 0 0 0 0, ctlEnt 0x43 e, .sliceThaw e),
          (ok f f (2 ^ 18 - 1) 0 0, ctlEnt 0x47 e (some body), .modelLoad e body), (ok 0xFFFF 0 0 0 0, ctlEnt 0x48 e, .modelUnload e)],
        let x := c.2.1
        let u := taken s ctlRing x
        CanRead s ctlRing x → c.1 = true → (∀ p, u.coordinator = some p → u.procUp (pc p) = false) →
          exec c.2.2 s = .next (u.withHeldCmds (u.heldCmds ++ [⟨ownerCoord, x⟩]))))

/-- Slice-ring commands act and complete (R274, R277, R388, R390, R391, R392). GENERATE admits or is refused with the status
R392 gives, and CANCEL, FREEZE_SEQ, THAW, QUERY_SEQ, REGION_SET, ACCT_READ and NOP act on their sequence, table or counters
and complete. -/
def Obligations.SliceCommandsActAndComplete : Prop :=
  ∀ (s : State) (sl : Fin 4096) (r : Fin 16) (e : Entry),
    let k := 16 * sl.val + r.val
    let ok (m2 m3 m4 m5 m6 : Nat) : Prop := Machine.Entry.reservedOk e m2 m3 m4 m5 m6 0 = true
    let u (opc : Nat) : State := taken s k (sliceEnt opc e)
    let ends (c : Instr) (opc : Nat) (v : State) (status : Nat) : Prop := exec c s = .next (v.complete k (sliceEnt opc e) status)
    (s.offered k = true → exec (.generate sl r e) s =
      .next (s.setRing k { s.ring k with fifo := (s.ring k).fifo ++ [sliceEnt 0x01 e] })) ∧
    (s.offered k = false → exec (.generate sl r e) s = .next s) ∧
    (CanRead s k (sliceEnt 0x0C e) → ok 0 0 0 0 0 → ends (.nop sl r e) 0x0C (u 0x0C) St.ok ∧
      ((∀ y ∈ (s.ring k).live, y.1 ≠ e.token.toNat) → ∃ t y, exec (.nop sl r e) s = .next t ∧ t.ringRd rSqHead k = (s.ringRd rSqHead k + 1) % 2 ^ 32 ∧
        t.ringRd rCqTail k = (s.ringRd rCqTail k + 1) % 2 ^ 32 ∧ t.ringRd rOutst k = s.ringRd rOutst k ∧
        kfind (t.ring k).cq (s.ringRd rCqTail k % 2 ^ s.ringRd rCqLog k) = some y ∧ y.token = e.token.toNat ∧ y.status = St.ok ∧
        y.kind = 0 ∧ y.opc = 0x0C ∧ y.phase = !bit (s.ringRd rCqTail k) (s.ringRd rCqLog k))) ∧
    (CanRead s k (sliceEnt 0x02 e) → ok (2 ^ 33 - 1) 0 0 0 0 →
      ((u 0x02).byHandle sl (bits e.w2.toNat 31 0) = none → ends (.cancel sl r e) 0x02 (u 0x02) St.badHandle) ∧
      (∀ i q, (u 0x02).byHandle sl (bits e.w2.toNat 31 0) = some (i, q) →
        (bit e.w2.toNat 32 = false → ends (.cancel sl r e) 0x02 ((u 0x02).askCancel i) St.ok) ∧
        (bit e.w2.toNat 32 = true → ends (.cancel sl r e) 0x02 ((((u 0x02).seqs.filter fun y =>
          y.2.st != .free && y.2.cmd == q.cmd && !y.2.held && y.2.branch == 0).map (·.1)).foldl State.askCancel (u 0x02)) St.ok))) ∧
    (CanRead s k (sliceEnt 0x03 e) → ok (2 ^ 32 - 1) 0 0 0 0 →
      ((u 0x03).byHandle sl e.w2.toNat = none → ends (.freezeSeq sl r e) 0x03 (u 0x03) St.badHandle) ∧
      (∀ i q, (u 0x03).byHandle sl e.w2.toNat = some (i, q) → ends (.freezeSeq sl r e) 0x03 ((u 0x03).askFreeze i 7) St.ok)) ∧
    (CanRead s k (sliceEnt 0x04 e) → ok (2 ^ 33 - 1) 0 0 0 0 →
      (bit e.w2.toNat 32 = true → (u 0x04).feature k 4 = false → ends (.thaw sl r e) 0x04 (u 0x04) St.notSupported) ∧
      ((bit e.w2.toNat 32 = false ∨ (u 0x04).feature k 4 = true) →
        ((u 0x04).byHandle sl (bits e.w2.toNat 31 0) = none → ends (.thaw sl r e) 0x04 (u 0x04) St.badHandle) ∧
        (∀ i q, (u 0x04).byHandle sl (bits e.w2.toNat 31 0) = some (i, q) →
          (q.st ≠ .frozen → ends (.thaw sl r e) 0x04 (u 0x04) St.ok) ∧
          (q.st = .frozen → q.frzCause = 6 → ends (.thaw sl r e) 0x04 (u 0x04) St.memUncorrectable) ∧
          (q.st = .frozen → q.frzCause ≠ 6 → exec (.thaw sl r e) s =
            .next ((u 0x04).withThaws ((u 0x04).thaws ++ [(i, k, e.token.toNat, bit e.w2.toNat 32)])))))) ∧
    (CanRead s k (sliceEnt 0x05 e) → ok (2 ^ 32 - 1) (2 ^ 64 - 1) 0 0 0 →
      ((u 0x05).byHandle sl e.w2.toNat = none → ends (.querySeq sl r e) 0x05 (u 0x05) St.badHandle) ∧
      (∀ i q, (u 0x05).byHandle sl e.w2.toNat = some (i, q) →
        (∀ v, (u 0x05).hostWr e.w3.toNat ((seqWords i q).flatMap (leBytes 8)) ((u 0x05).space k) = some v →
          ends (.querySeq sl r e) 0x05 (v.count sl 7 80) St.ok) ∧
        ((u 0x05).hostWr e.w3.toNat ((seqWords i q).flatMap (leBytes 8)) ((u 0x05).space k) = none →
          ends (.querySeq sl r e) 0x05 (u 0x05) St.hostDma))) ∧
    (CanRead s k (sliceEnt 0x07 e) → ok 63 (2 ^ 64 - 1) (2 ^ 64 - 1) (2 ^ 64 - 1) (2 ^ 64 - 1) →
      ends (.regionSet sl r e) 0x07 ((u 0x07).setSlice sl { (u 0x07).slice sl with
        regionPend := kset ((u 0x07).slice sl).regionPend e.w2.toNat
          (regionOf e.w3.toNat e.w4.toNat e.w5.toNat e.w6.toNat) }) St.ok) ∧
    (CanRead s k (sliceEnt 0x08 e) → ok (2 ^ 64 - 1) 0 0 0 0 →
      let bs := (List.range 12).flatMap fun i => leBytes 8 (((u 0x08).slice sl).counters.getD i 0)
      (∀ v, (u 0x08).hostWr e.w2.toNat bs ((u 0x08).space k) = some v → ends (.acctRead sl r e) 0x08 (v.count sl 7 96) St.ok) ∧
      ((u 0x08).hostWr e.w2.toNat bs ((u 0x08).space k) = none → ends (.acctRead sl r e) 0x08 (u 0x08) St.hostDma))

/-- COPY checks its region and moves bytes; delta load, retire and query (R341, R342, R343, R346, R391). COPY moves exactly
its bytes between host and device memory inside its region and completes, or completes with the failing check's status;
DELTA_LOAD, DELTA_RETIRE and DELTA_QUERY follow R341-R346. -/
def Obligations.CopiesAndDeltaCommands : Prop :=
  (
    ∀ (s : State) (sl : Fin 4096) (r : Fin 16) (e : Entry),
      let k := 16 * sl.val + r.val
      let x := sliceEnt 0x06 e
      let u : State := taken s k x
      let n := bits e.w4.toNat 31 0
      let g := e.w3.toNat
      let a := g % 2 ^ 48
      let out := bit e.w4.toNat 32
      let lines := 64 * (linesOf a n).length
      let ends (v : State) (status : Nat) : Prop := exec (.copy sl r e) s = .next (v.complete k x status)
      CanRead s k x → Machine.Entry.reservedOk e (2 ^ 64 - 1) (2 ^ 64 - 1) (2 ^ 33 - 1) 0 0 0 = true →
      (n = 0 → ends u St.ok) ∧
      (0 < n → u.regionCheck sl g n (if out then .rd else .wr) = none → ends u St.regionFault) ∧
      (∀ key, 0 < n → u.regionCheck sl g n (if out then .rd else .wr) = some key → g / 2 ^ 48 = u.ownNode →
        ((pagesOf a n).any (fun p => u.place p == .unmapped) = true → ends u St.addrUnmapped) ∧
        ((pagesOf a n).any (fun p => u.place p == .unmapped) = false →
          (out = true → u.rdStatus a n key ≠ St.ok → ends (u.rdRecord a n key) (u.rdStatus a n key)) ∧
          (∀ v, out = true → u.rdStatus a n key = St.ok → (u.count sl 4 lines).hostWr e.w2.toNat (u.load a n key) (u.space k) = some v →
            ends (v.count sl 7 (u.load a n key).length) St.ok) ∧
          (out = false → u.accStatus a n key ≠ St.ok → ends u (u.accStatus a n key)) ∧
          (∀ bs, out = false → u.accStatus a n key = St.ok → u.hostRd e.w2.toNat n (u.space k) = some bs →
            ends (((u.store a bs key).count sl 4 lines).count sl 7 n) St.ok) ∧
          (out = false → u.accStatus a n key = St.ok → u.hostRd e.w2.toNat n (u.space k) = none → ends u St.hostDma))) ∧
      (∀ key, 0 < n → u.regionCheck sl g n (if out then .rd else .wr) = some key → g / 2 ^ 48 ≠ u.ownNode →
        (u.feature k 9 = false → ends u St.notSupported) ∧
        (u.feature k 9 = true → u.candLinks (g / 2 ^ 48) = [] → ends (u.put F.FAB_STAT.unreach 1) St.fabUnreachable) ∧
        (u.feature k 9 = true → u.candLinks (g / 2 ^ 48) ≠ [] →
          ∃ c : HostCopy, c.ring = k ∧ c.token = e.token.toNat ∧ c.slice = sl.val ∧ c.host = e.w2.toNat ∧ c.key = key ∧ c.wr = !out ∧
            c.todo = piecesOf g n ∧ c.status = St.ok ∧ (∀ d ∈ u.copies, d.id ≠ c.id) ∧
            exec (.copy sl r e) s = .next (((((u.withCopies (u.copies ++ [c])).count sl 7 n).copyPump c.id (piecesOf g n).length)).copyTurn c.id)))) ∧
  (
    ∀ (s : State) (sl : Fin 4096) (r : Fin 16) (e : Entry),
      let k := 16 * sl.val + r.val
      let u (opc : Nat) : State := taken s k (sliceEnt opc e)
      let ends (c : Instr) (opc : Nat) (v : State) (status : Nat) : Prop := exec c s = .next (v.complete k (sliceEnt opc e) status)
      (CanRead s k (sliceEnt 0x09 e) → Machine.Entry.reservedOk e (2 ^ 64 - 1) (2 ^ 40 - 1) (2 ^ 60 - 1) 0 0 0 = true →
        let m := bits e.w4.toNat 15 0
        let v := bits e.w4.toNat 47 16
        let w := u 0x09
        (w.feature k 2 = false → ends (.deltaLoad sl r e) 0x09 w St.notSupported) ∧
        (w.feature k 2 = true → bits e.w4.toNat 59 48 ≠ 0 → w.feature k 8 = false → ends (.deltaLoad sl r e) 0x09 w St.notSupported) ∧
        (w.feature k 2 = true → (bits e.w4.toNat 59 48 = 0 ∨ w.feature k 8 = true) →
          (v = 0 → ends (.deltaLoad sl r e) 0x09 w St.badCommand) ∧
          (v ≠ 0 → kfind w.models m = none → ends (.deltaLoad sl r e) 0x09 w St.modelUnknown) ∧
          (∀ md img slot, v ≠ 0 → kfind w.models m = some md →
            (w.deltas.any fun d => d.2.st == .loading && d.2.owner == sl.val && d.2.model == m && d.2.variant == v) = false →
            w.freeDeltaSlot = some slot → w.weightRoom e.w3.toNat = true → w.hostRd e.w2.toNat e.w3.toNat (w.space k) = some img →
            (deltaImageOk img m md = false → ends (.deltaLoad sl r e) 0x09 (w.count sl 7 img.length) St.deltaInvalid) ∧
            (deltaImageOk img m md = true →
              ∃ t d, exec (.deltaLoad sl r e) s = .next t ∧ kfind t.deltas slot = some d ∧ d.st = .loading ∧ d.owner = sl.val ∧
                d.model = m ∧ d.variant = v ∧ d.group = bits e.w4.toNat 59 48 ∧ d.image = img ∧ d.pins = 0 ∧ d.loadCmd = some (sl.val, r.val, e.token.toNat) ∧
                ∀ j, j ≠ slot → kfind t.deltas j = kfind s.deltas j)))) ∧
      (CanRead s k (sliceEnt 0x0A e) → Machine.Entry.reservedOk e (2 ^ 17 - 1) 0 0 0 0 0 = true → (u 0x0A).feature k 2 = true →
        let slot := bits e.w2.toNat 15 0
        let w := u 0x0A
        let wait (d : Delta) : Delta := { d with retire := d.retire ++ [(sl.val, r.val, e.token.toNat)] }
        (kfind s.deltas slot = none → ends (.deltaRetire sl r e) 0x0A w St.deltaUnknown) ∧
        (∀ d, kfind s.deltas slot = some d →
          (d.owner ≠ sl.val → ends (.deltaRetire sl r e) 0x0A w St.deltaUnknown) ∧
          (d.owner = sl.val → d.st = .loading → ends (.deltaRetire sl r e) 0x0A w St.busy) ∧
          (d.owner = sl.val → d.st = .freeing → exec (.deltaRetire sl r e) s = .next (w.setDelta slot (wait d))) ∧
          (d.owner = sl.val → d.st = .active ∨ d.st = .superseded →
            (d.pins = 0 → exec (.deltaRetire sl r e) s = .next (w.setDelta slot (wait d))) ∧
            (d.pins ≠ 0 → bit e.w2.toNat 16 = false → ends (.deltaRetire sl r e) 0x0A w St.pinned) ∧
            (d.pins ≠ 0 → bit e.w2.toNat 16 = true →
              exec (.deltaRetire sl r e) s = .next (w.setDelta slot { wait d with forced := true }))))) ∧
      (CanRead s k (sliceEnt 0x0B e) → Machine.Entry.reservedOk e 0xFFFF (2 ^ 64 - 1) 0 0 0 0 = true → (u 0x0B).feature k 2 = true →
        let slot := e.w2.toNat
        let w := u 0x0B
        (kfind s.deltas slot = none → ends (.deltaQuery sl r e) 0x0B w St.deltaUnknown) ∧
        (∀ d v, kfind s.deltas slot = some d → d.owner = sl.val →
          w.hostWr e.w3.toNat (leBytes 8 (d.st.num + 2 ^ 3 * d.group + 2 ^ 16 * d.model + 2 ^ 32 * d.owner + 2 ^ 44 * d.pins) ++
            leBytes 8 (d.variant + 2 ^ 32 * d.serial) ++ leBytes 8 (Config.imageAddr slot % 2 ^ 48) ++ leBytes 8 d.total) (w.space k) = some v →
          ends (.deltaQuery sl r e) 0x0B (v.count sl 7 32) St.ok)))

/-- Slices are bound, unbound, frozen, thawed, saved and restored (R395, R405, R406, R407). Each slice command takes a slice
from the states R400 allows to the next one and completes, or completes with the status for the wrong state. The bytes of a
sealed image are free values (log 71). -/
def Obligations.SlicesBindFreezeThawAndScrub : Prop :=
  ∀ (s : State) (e : Entry),
    let n := e.w2.toNat
    let coordUp (u : State) : Prop := ∃ p, u.coordinator = some p ∧ u.procUp (pc p) = true
    let ok (m2 m3 m4 m5 : Nat) : Prop := Machine.Entry.reservedOk e m2 m3 m4 m5 0 0 = true
    (let x := ctlEnt 0x40 e
     let u := taken s ctlRing x
     CanRead s ctlRing x → ok (2 ^ 40 - 1) 0 0 0 → u.procUp cairn = true → u.rd F.SEC_STAT.dbg_taint = 0 → u.sec.bootKey = true →
      (u.sliceState (bindSl x) ≠ unbound → exec (.sliceBind e) s = .next (u.complete ctlRing x St.badSlice)) ∧
      (u.sliceState (bindSl x) = unbound → u.pairUsed (bindFn x) (bindPasid x) = true →
        exec (.sliceBind e) s = .next (u.complete ctlRing x St.busy)) ∧
      (u.sliceState (bindSl x) = unbound → u.pairUsed (bindFn x) (bindPasid x) = false →
        ∃ v : State, v.sliceState (bindSl x) = active ∧ v.rd F.HOST_SLICE.function (bindSl x) = bindFn x ∧
          v.rd F.HOST_SLICE.pasid (bindSl x) = bindPasid x ∧ (v.slice (bindSl x)).counters = List.replicate 12 0 ∧
          (v.slice (bindSl x)).cookie < 2 ^ 96 ∧ (v.key (bindSl x)).loaded = true ∧ (v.key (bindSl x)).epoch = (s.key (bindSl x)).epoch ∧ (v.slice (bindSl x)).negotiated = false ∧
          exec (.sliceBind e) s = .next (v.complete ctlRing x St.ok 0 ((v.slice (bindSl x)).cookie % 2 ^ 64)
            ((v.slice (bindSl x)).cookie / 2 ^ 64)))) ∧
    (let x := ctlEnt 0x41 e
     let u := taken s ctlRing x
     CanRead s ctlRing x → ok 0xFFF 0 0 0 → u.procUp cairn = true →
      ((u.sliceState n = unbound ∨ u.sliceState n = scrubbing) → exec (.sliceUnbind e) s = .next (u.complete ctlRing x St.badSlice)) ∧
      (u.sliceState n ≠ unbound → u.sliceState n ≠ scrubbing → (u.slice n).freezeCmd = none →
        exec (.sliceUnbind e) s = .next ((u.startScrub n).complete ctlRing x St.ok))) ∧
    (let x := ctlEnt 0x42 e
     let u := taken s ctlRing x
     CanRead s ctlRing x → ok 0xFFF 0 0 0 → coordUp u →
      ((u.sliceState n = active ∨ u.sliceState n = detached) →
        ∃ t, exec (.sliceFreeze e) s = .next t ∧ t.sliceState n = frozen ∧ (t.slice n).freezeCmd = some e.token.toNat ∧
          (t.slice n).freezeAt = s.nowNs ∧
          (∀ i q, s.seq? i = some q → q.slice = n → q.held = false → q.freezeReq = none →
            t.seq? i = some { q with freezeReq := some (1, St.ok) }) ∧
          (t.ring ctlRing).live = (u.ring ctlRing).live ∧ t.out = u.out) ∧
      (u.sliceState n ≠ active → u.sliceState n ≠ detached → exec (.sliceFreeze e) s = .next (u.complete ctlRing x St.badSlice))) ∧
    (let x := ctlEnt 0x43 e
     let u := taken s ctlRing x
     CanRead s ctlRing x → ok 0xFFF 0 0 0 → coordUp u →
      (u.sliceState n ≠ frozen → exec (.sliceThaw e) s = .next (u.complete ctlRing x St.badSlice)) ∧
      (u.sliceState n = frozen → (u.slice n).freezeCmd = none →
        ∃ v : State, v.sliceState n = active ∧ (v.slice n).thawPend = true ∧ (v.slice n).hbLast = s.nowNs ∧ v.seqs = s.seqs ∧
          exec (.sliceThaw e) s = .next (v.complete ctlRing x St.ok))) ∧
    (∀ (m : Fin 4096) (live : List LiveState),
      ((s.slice m).freezeCmd = none → exec (.sliceFreezeComplete ⟨m, live⟩) s = .next s) ∧
      (∀ tok, (s.slice m).freezeCmd = some tok →
        (s.allFrozen m = false → exec (.sliceFreezeComplete ⟨m, live⟩) s = .next s) ∧
        (∀ x ∈ live, s.nowNs < (s.slice m).freezeAt + s.switchNs x → exec (.sliceFreezeComplete ⟨m, live⟩) s = .next s) ∧
        (s.allFrozen m = true → exec (.sliceFreezeComplete ⟨m, []⟩) s = .next (
          (s.setSlice m { s.slice m with freezeCmd := none, saved := [], savedFg := [] }).finish ctlRing tok 0x42 St.ok)) ∧
        (∀ x a n, s.allFrozen m = true → x.ranges = [(a, n)] → x.cores = [] → s.inCluster x.cluster a.toNat n = true →
          (s.slice m).freezeAt + s.switchNs x ≤ s.nowNs → exec (.sliceFreezeComplete ⟨m, [x]⟩) s = .next (
            (s.setSlice m { s.slice m with
              freezeCmd := none, saved := [(a.toNat, Memory.read s.mem a.toNat n)], savedFg := [] }).finish ctlRing tok 0x42 St.ok)))) ∧
    (let x := ctlEnt 0x44 e
     let u := taken s ctlRing x
     CanRead s ctlRing x → ok 0xFFF (2 ^ 64 - 1) (2 ^ 64 - 1) 0 → u.procUp cairn = true →
      (u.feature ctlRing 5 = false → exec (.sliceSave e) s = .next (u.complete ctlRing x St.notSupported)) ∧
      (u.feature ctlRing 5 = true → u.sliceState n ≠ frozen → exec (.sliceSave e) s = .next (u.complete ctlRing x St.badSlice)) ∧
      (u.feature ctlRing 5 = true → u.sliceState n = frozen →
        ∃ len, u.imageFrames n + 272 ≤ len ∧
          (e.w4.toNat < len → ∃ v, v = u.withFree v.free ∧ exec (.sliceSave e) s = .next (v.complete ctlRing x St.noSpace)) ∧
          (len ≤ e.w4.toNat → u.hostOk e.w3.toNat len = true →
            ∃ v bs, bs.length = len ∧ bs.take 4 = leBytes 4 0x4D585331 ∧
              v = ((u.withFree v.free).withHostMem (Memory.write u.hostMem (hostPlace e.w3.toNat 0) bs)).withOut
                (.hostWrite 0 e.w3.toNat bs :: u.out) ∧
              exec (.sliceSave e) s = .next (v.complete ctlRing x St.ok 0 len)))) ∧
    (∀ img, let x := ctlEnt 0x45 e none img
     let u := taken s ctlRing x
     CanRead s ctlRing x → ok (2 ^ 40 - 1) (2 ^ 64 - 1) (2 ^ 64 - 1) (2 ^ 64 - 1) → u.procUp cairn = true → u.feature ctlRing 5 = true →
      u.rd F.SEC_STAT.dbg_taint = 0 →
      (u.sliceState (bindSl x) ≠ unbound → exec (.sliceRestore e img) s = .next (u.complete ctlRing x St.badSlice)) ∧
      (u.sliceState (bindSl x) = unbound → u.pairUsed (bindFn x) (bindPasid x) = false → u.hostOk e.w3.toNat e.w4.toNat = false →
        exec (.sliceRestore e img) s = .next (u.complete ctlRing x St.hostDma)) ∧
      (u.sliceState (bindSl x) = unbound → u.pairUsed (bindFn x) (bindPasid x) = false → u.hostOk e.w3.toNat e.w4.toNat = true →
        let there := u.imageOk (Memory.read u.hostMem e.w3.toNat e.w4.toNat)
        ((img = none ∨ there = false) → exec (.sliceRestore e img) s = .next (u.complete ctlRing x St.imageInvalid)) ∧
        (∀ g, img = some g → there = true → u.imgCheck g ≠ St.ok → exec (.sliceRestore e img) s = .next (u.complete ctlRing x (u.imgCheck g))) ∧
        (∀ g, img = some g → there = true → u.imgCheck g = St.ok →
          let w := (u.bindSlice (bindSl x) (bindFn x) (bindPasid x) frozen).restoreAll (bindSl x) g
          (w = none → exec (.sliceRestore e img) s = .next (u.complete ctlRing x St.noSpace)) ∧
          (∀ hs t v, w = some (hs, t) → t.hostWr e.w5.toNat (handleMap hs) = some v →
            exec (.sliceRestore e img) s = .next (v.complete ctlRing x St.ok 0 ((v.slice (bindSl x)).cookie % 2 ^ 64)
              ((v.slice (bindSl x)).cookie / 2 ^ 64))))))

/-- Groups, models, domain membership and routes (R319, R322, R361, R362, R395, R418). Group, model, domain and route
commands write their tables and complete, or complete with the status of the check that fails. -/
def Obligations.GroupsModelsDomainAndRoutes : Prop :=
  ∀ (s : State) (e : Entry),
    let ends (c : Instr) (v : State) (x : SubEntry) (status : Nat) : Prop := exec c s = .next (v.complete ctlRing x status)
    let g := bits e.w2.toNat 11 0
    let sl := bits e.w2.toNat 25 14
    (∀ op, op < 4 → let x := groupEnt e op
     let u := taken s ctlRing x
     let c : Instr := [Instr.groupCreate e, .groupAddSlice e, .groupRemoveSlice e].getD op (.groupDissolve e)
     CanRead s ctlRing x → e.rsv = 0 → e.w2.toNat < 2 ^ 26 → e.w3 = 0 → e.w4 = 0 → e.w5 = 0 → e.w6 = 0 → e.w7 = 0 →
      u.procUp cairn = true →
      (u.feature ctlRing 8 = false → ends c u x St.notSupported) ∧
      (u.feature ctlRing 8 = true → g = 0 → ends c u x St.badCommand) ∧
      (u.feature ctlRing 8 = true → g ≠ 0 → op ≠ 0 → (s.group g).exist = false → ends c u x St.badCommand) ∧
      (u.feature ctlRing 8 = true → g ≠ 0 → op = 0 → (s.group g).exist = true → ends c u x St.busy) ∧
      (u.feature ctlRing 8 = true → g ≠ 0 → op = 0 → (s.group g).exist = false → u.rd F.SEC_STAT.dbg_taint = 0 →
        s.scopesDead.contains (4095 + g) = false → u.sec.bootKey = true →
        ∃ v : State, (v.group g) = { exist := true, members := [] } ∧ (v.key (4095 + g)).loaded = true ∧ ends c v x St.ok) ∧
      (u.feature ctlRing 8 = true → g ≠ 0 → op = 1 → (s.group g).exist = true →
        ∃ v : State, v = u.withGroups v.groups ∧ sl ∈ (v.group g).members ∧ (∀ m ∈ (s.group g).members, m ∈ (v.group g).members) ∧
          ends c v x St.ok) ∧
      (u.feature ctlRing 8 = true → g ≠ 0 → op = 2 → (s.group g).exist = true →
        ∃ v : State, v = u.withGroups v.groups ∧ (v.group g).members = (s.group g).members.filter (· != sl) ∧ ends c v x St.ok) ∧
      (u.feature ctlRing 8 = true → g ≠ 0 → op = 3 → (s.group g).exist = true →
        ∃ v : State, (v.group g).exist = false ∧ 4095 + g ∈ v.scopesDead ∧
          (∀ n y, kfind v.nodes n = some y → y.scope ≠ 4095 + g) ∧ ends c v x St.ok)) ∧
    (∀ body : ModelBody, let x := ctlEnt 0x47 e (some body)
     let u := taken s ctlRing x
     let m := bits e.w4.toNat 15 0
     let copies := max 1 (bits e.w4.toNat 17 16)
     CanRead s ctlRing x → Machine.Entry.reservedOk e (2 ^ 64 - 1) (2 ^ 64 - 1) (2 ^ 18 - 1) 0 0 0 = true →
      (∃ p, u.coordinator = some p ∧ u.procUp (pc p) = true) →
      (copies = 3 → ends (.modelLoad e body) u x St.badCommand) ∧
      (copies ≠ 3 → (kfind s.models m).isSome = true → ends (.modelLoad e body) u x St.busy) ∧
      (copies ≠ 3 → kfind s.models m = none → u.hostOk e.w2.toNat e.w3.toNat = false → ends (.modelLoad e body) u x St.hostDma) ∧
      (copies ≠ 3 → kfind s.models m = none → u.hostOk e.w2.toNat e.w3.toNat = true →
        let h := Memory.read u.hostMem e.w2.toNat (min e.w3.toNat 256)
        let rest := Memory.read u.hostMem (e.w2.toNat + 256) (e.w3.toNat - 256)
        (parseModel h rest e.w3.toNat m copies body = none → ends (.modelLoad e body) u x St.modelInvalid) ∧
        (∀ rec, parseModel h rest e.w3.toNat m copies body = some rec →
          (u.weightRoom (e.w3.toNat * copies) = false → ends (.modelLoad e body) u x St.noSpace) ∧
          (u.weightRoom (e.w3.toNat * copies) = true →
            ∃ v : State, kfind v.models m = some rec ∧ (∀ j, j ≠ m → kfind v.models j = kfind s.models j) ∧
              (body.place = [] → v = u.withModels v.models) ∧ ends (.modelLoad e body) v x St.ok)))) ∧
    (let x := ctlEnt 0x48 e
     let u := taken s ctlRing x
     let m := e.w2.toNat
     CanRead s ctlRing x → Machine.Entry.reservedOk e 0xFFFF 0 0 0 0 0 = true → (∃ p, u.coordinator = some p ∧ u.procUp (pc p) = true) →
      (kfind s.models m = none → ends (.modelUnload e) u x St.modelUnknown) ∧
      ((kfind s.models m).isSome = true → (∃ q ∈ s.seqs, q.2.st ≠ .free ∧ q.2.model = m) → ends (.modelUnload e) u x St.pinned) ∧
      ((kfind s.models m).isSome = true → (∀ q ∈ s.seqs, q.2.st ≠ .free → q.2.model ≠ m) → (∀ d ∈ s.deltas, d.2.model ≠ m) →
        ends (.modelUnload e) (u.withModels (kdel u.models m)) x St.ok)) ∧
    (let x := ctlEnt 0x4B e
     let u := taken s ctlRing x
     CanRead s ctlRing x → Machine.Entry.reservedOk e 0xFFFF (2 ^ 64 - 1) (2 ^ 64 - 1) (2 ^ 64 - 1) (2 ^ 64 - 1) 0 = true →
      u.procUp fc = true →
      (u.feature ctlRing 7 = false → ends (.domainJoin e) u x St.notSupported) ∧
      (u.feature ctlRing 7 = true → u.rd F.FAB_CTRL.joined = 1 → ends (.domainJoin e) u x St.busy) ∧
      (u.feature ctlRing 7 = true → u.rd F.FAB_CTRL.joined = 0 → u.rd F.SEC_STAT.dbg_taint = 0 →
        ∃ v : State, v.rd F.FAB_CTRL.node_id = e.w2.toNat ∧ v.rd F.FAB_CTRL.joined = 1 ∧ v.rd F.SEC_KEYS.dom_key = 1 ∧ v.sec.domKey = true ∧
          v.sec.domVal = e.w3.toNat + 2 ^ 64 * e.w4.toNat + 2 ^ 128 * e.w5.toNat + 2 ^ 192 * e.w6.toNat ∧
          ends (.domainJoin e) v x St.ok)) ∧
    (∀ remove, let x := listEnt e remove
     let u := taken s ctlRing x
     let c := if remove then Instr.domainListRemove e else Instr.domainListAdd e
     let kind := bits e.w2.toNat 1 0
     let cnt := bits e.w2.toNat 18 3
     CanRead s ctlRing x → e.rsv = 0 → e.w2.toNat < 2 ^ 19 → e.w4 = 0 → e.w5 = 0 → e.w6 = 0 → e.w7 = 0 → u.procUp fc = true →
      u.feature ctlRing 7 = true →
      (kind = 3 → ends c u x St.badCommand) ∧
      (kind ≠ 3 → u.hostRd e.w3.toNat (2 * cnt) = none → ends c u x St.hostDma) ∧
      (∀ bs, u.hostRd e.w3.toNat (2 * cnt) = some bs →
        let ids := (List.range cnt).map fun i => imgLE bs (2 * i) 2
        (kind = 1 → ends c (u.withSpares (listChange u.spares ids remove)) x St.ok) ∧
        (kind = 0 → remove = false → ends c (u.withMembers (listChange u.members ids false)) x St.ok) ∧
        (kind = 0 → remove = true → ends c (((u.members.filter ids.contains)).foldl State.memberLost
          ((u.withMembers (listChange u.members ids true)).withWindows
            (u.windows.filter fun w => !(u.members.filter ids.contains).contains w.1))) x St.ok) ∧
        (kind = 2 → remove = false → ends c (u.withCachePeers (listChange u.cachePeers ids false)) x St.ok) ∧
        (kind = 2 → remove = true → ends c (((u.cachePeers.filter ids.contains)).foldl State.memberLost
          (u.withCachePeers (listChange u.cachePeers ids true))) x St.ok))) ∧
    (let x := ctlEnt 0x4D e
     let u := taken s ctlRing x
     CanRead s ctlRing x → Machine.Entry.reservedOk e (2 ^ 64 - 1) (2 ^ 64 - 1) 0 0 0 0 = true → u.procUp fc = true →
      (u.feature ctlRing 7 = false → ends (.routeSet e) u x St.notSupported) ∧
      (u.feature ctlRing 7 = true → u.hostRd e.w3.toNat (8 * e.w2.toNat) = none → ends (.routeSet e) u x St.hostDma) ∧
      (∀ bs, u.feature ctlRing 7 = true → u.hostRd e.w3.toNat (8 * e.w2.toNat) = some bs →
        ∃ v : State, v = u.withRoutes v.routes ∧ ends (.routeSet e) v x St.ok ∧
          (e.w2.toNat = 1 → let w := imgLE bs 0 8
            ∃ rt, kfind v.routes (bits w 15 0) = some rt ∧ rt.hops = bits w 43 40 ∧
              rt.cands = (([bits w 21 16, bits w 27 22, bits w 33 28, bits w 39 34].filter (· < 36)).dedup))))

/-- Cell commands (R241, R243, R244, R245, R395, R397). CELL_LOCK, CELL_UNLOCK, CELL_PRIORITY, CELL_TX_ATTEN and CELL_STATUS
act by the state of the cell and complete. -/
def Obligations.CellCommandsFollowTheCellState : Prop :=
  ∀ (s : State) (e : Entry) (c : Cell),
    let cid := bits e.w2.toNat 11 0
    let val := bits e.w2.toNat 30 25
    let at_ := s.lockTick (bit e.w2.toNat 14) (bits e.w2.toNat 24 15)
    let base (op : Nat) : Prop := CanRead s ctlRing (cellEntry e op) ∧ e.rsv = 0 ∧ e.w2.toNat < 2 ^ 31 ∧ e.w3 = 0 ∧ e.w4 = 0 ∧ e.w5 = 0 ∧
      e.w6 = 0 ∧ e.w7 = 0 ∧ s.cell? cid = some c ∧ c.part < 8 ∧ (taken s ctlRing (cellEntry e op)).procUp (pc c.part) = true
    let u (op : Nat) : State := taken s ctlRing (cellEntry e op)
    let ends (i : Instr) (op : Nat) (v : State) (status : Nat) : Prop := exec i s = .next (v.complete ctlRing (cellEntry e op) status)
    let pend (unlock : Bool) : CellPend := { unlock := unlock, tick := at_, token := e.token.toNat, opc := 0x49 }
    (∀ op i, (op, i) ∈ [(0, Instr.cellLock e), (1, .cellUnlock e), (2, .cellPriority e), (3, .cellTxAtten e)] →
      CanRead s ctlRing (cellEntry e op) → e.rsv = 0 → e.w2.toNat < 2 ^ 31 → e.w3 = 0 → e.w4 = 0 → e.w5 = 0 → e.w6 = 0 → e.w7 = 0 →
      s.cell? cid = none → ends i op (u op) St.cellUnknown) ∧
    (base 0 → val ≠ 0 → ends (.cellLock e) 0 (u 0) St.badCommand) ∧
    (base 0 → val = 0 →
      (c.st = .locked ∨ c.st = .autoLocked → ends (.cellLock e) 0 (u 0) St.ok) ∧
      (c.st = .active → exec (.cellLock e) s = .next ((u 0).setCell cid { c with st := .lockPending, pend := some (pend false) })) ∧
      (c.st = .unlockPending → c.waits = true → ∀ d, c.pend = some d → ends (.cellLock e) 0
        (((u 0).setCell cid { c with st := .locked, waits := false, pend := none }).finishCell d.token St.cancelled) St.ok) ∧
      (c.st = .lockPending ∨ c.st = .unlockPending ∧ c.waits = false → ends (.cellLock e) 0 (u 0) St.busy)) ∧
    (base 1 → val ≠ 0 → ends (.cellUnlock e) 1 (u 1) St.badCommand) ∧
    (base 1 → val = 0 →
      (c.st = .active ∨ c.st = .unlockPending ∧ c.waits = true → ends (.cellUnlock e) 1 (u 1) St.ok) ∧
      (c.st = .locked ∨ c.st = .autoLocked → exec (.cellUnlock e) s =
        .next ((u 1).setCell cid { c with st := .unlockPending, waits := false, pend := some (pend true) })) ∧
      (c.st = .lockPending ∨ c.st = .unlockPending ∧ c.waits = false → ends (.cellUnlock e) 1 (u 1) St.busy)) ∧
    (base 2 → (val ≤ 15 → ends (.cellPriority e) 2 ((u 2).setCell cid { c with prioPend := some val }) St.ok) ∧
      (15 < val → ends (.cellPriority e) 2 (u 2) St.badCommand)) ∧
    (base 3 → (val ≤ 60 → ends (.cellTxAtten e) 3 ((u 3).setCell cid { c with txPend := some val }) St.ok) ∧
      (60 < val → ends (.cellTxAtten e) 3 (u 3) St.badCommand)) ∧
    (let x := statusEntry e
     let v := taken s ctlRing x
     CanRead s ctlRing x → Machine.Entry.reservedOk e 0xFFF (2 ^ 64 - 1) 0 0 0 0 = true →
      (s.cell? cid = none → exec (.cellStatus e) s = .next (v.complete ctlRing x St.cellUnknown)) ∧
      (s.cell? cid = some c → ∀ w, v.hostWr e.w3.toNat (cellRecord c) = some w →
        exec (.cellStatus e) s = .next (w.complete ctlRing x St.ok)) ∧
      (s.cell? cid = some c → v.hostWr e.w3.toNat (cellRecord c) = none →
        exec (.cellStatus e) s = .next (v.complete ctlRing x St.hostDma)))

/-- Watchdogs, crashes, restarts, hold-down, release and the boot record (R34, R415, R416, R418, R419, R420, R421, R425,
R429). A crash restarts its processor alone, the third within 600 s holds it down; release and a requested restart do not
count as crashes; a ready processor runs again; leadership passes when the coordinator is held; the boot record is written
and confirmed. Only the last 600 s count. -/
def Obligations.FirmwareCrashesRestartsAndHoldDown : Prop :=
  ∀ (s : State) (i : Fin 11) (wr : Writer) (slot : Fin 2),
    let p := s.proc i
    let win := p.crashes.filter fun t => s.nowNs ≤ t + 600000000000
    let kicked := s.nowNs + s.rd F.FW_PROC_CTRL.wd_ms i * 1000000
    (s.procUp i = true → p.dbgHalt = false → exec (.wdKick i) s = .next (s.setProc i { p with wdDue := kicked })) ∧
    (s.procUp i = false → exec (.wdKick i) s = .next s ∧ exec (.watchdogExpiry i) s = .next s) ∧
    (∀ (c : Nat) (occ : Prop) (ins : Instr), (c, occ, ins) ∈
        [(1, (s.procUp i = true ∧ p.dbgHalt = false ∧ p.wdDue ≤ s.nowNs), Instr.watchdogExpiry i),
         (2, (s.rd F.FW_PROC_STAT.pstate i < 2 ∧ p.dbgHalt = false), Instr.fwException i),
         (3, s.rd F.FW_PROC_STAT.pstate i < 2, Instr.fwSramUe i),
         (4, (s.starting i = true ∧ p.downAt + 20000000 ≤ s.nowNs), Instr.restartTimeout i)] → occ →
      (win.length < 2 → p.prevSect = none →
        ∃ t, exec ins s = .next t ∧ t.rd F.FW_PROC_STAT.pstate i = 1 ∧ t.rd F.FW_PROC_STAT.last_cause i = c ∧
          t.rd F.FW_PROC_STAT.crash_evt i = 1 ∧ t.rd F.FW_PROC_CNT.crashes i = satAdd 16 (s.rd F.FW_PROC_CNT.crashes i) 1 ∧
          t.rd F.FW_PROC_CNT.win_crashes i = win.length + 1 ∧ bit (t.rd F.FW_GSTAT.down) i = true ∧
          (t.proc i).crashes = s.nowNs :: win ∧ (t.proc i).downAt = s.nowNs ∧ t.cells = s.cells ∧ t.seqs = s.seqs) ∧
      (2 ≤ win.length → p.prevSect = none →
        ∃ t, exec ins s = .next t ∧ t.rd F.FW_PROC_STAT.pstate i = 2 ∧ bit (t.rd F.FW_GSTAT.held) i = true ∧
          t.rd F.FW_GSTAT.hold_evt = 1 ∧ t.rd F.FW_PROC_CNT.win_crashes i = 3 ∧ ∀ h ∈ t.heldCmds, h.owner ≠ i.val)) ∧
    (s.time.edges = true → (s.nowNs / 125000 + 1) * 125000 ≤ p.wdDue → exec (.watchdogExpiry i) s = .next s) ∧
    (2 ≤ s.rd F.FW_PROC_STAT.pstate i → exec (.fwException i) s = .next s ∧ exec (.fwSramUe i) s = .next s) ∧
    (s.mayWrite wr F.FW_PROC_CTRL.release i = true → s.rd F.FW_PROC_STAT.pstate i = 2 →
      ∃ t, exec (.release wr i) s = .next t ∧ t.rd F.FW_PROC_STAT.pstate i = 1 ∧ t.rd F.FW_PROC_STAT.last_cause i = 7 ∧
        bit (t.rd F.FW_GSTAT.held) i = false ∧ (t.proc i).crashes = [] ∧ t.rd F.FW_PROC_CNT.win_crashes i = 0) ∧
    (s.rd F.FW_PROC_STAT.pstate i ≠ 2 → exec (.release wr i) s = .next s) ∧
    (s.mayWrite wr F.FW_PROC_CTRL.restart_req i = true → s.rd F.FW_PROC_STAT.pstate i = 0 →
      ∃ t, exec (.restartReq wr i) s = .next t ∧ t.rd F.FW_PROC_STAT.pstate i = 1 ∧ t.rd F.FW_PROC_STAT.last_cause i = 6 ∧
        (t.proc i).crashes = p.crashes ∧ bit (t.rd F.FW_GSTAT.down) i = true) ∧
    (s.starting i = true → s.heldCmds = [] → s.rd F.FW_UPDATE.upd_state ≠ 1 →
      ∃ t, exec (.fwReady i) s = .next t ∧ t.rd F.FW_PROC_STAT.pstate i = 0 ∧ bit (t.rd F.FW_GSTAT.down) i = false ∧
        (t.proc i).wdDue = kicked ∧ (t.proc i).prevSect = none ∧ t.cells = s.cells ∧ t.seqs = s.seqs) ∧
    (s.starting i = false → exec (.fwReady i) s = .next s ∧ exec (.restartTimeout i) s = .next s) ∧
    (s.inCol = false → exec .leadershipPass s = .next s) ∧
    (∀ q r, s.inCol = true → s.leader = some q → s.coord = some r → r ≠ q → s.seqRuns q = true → s.heldCmds = [] →
      exec .leadershipPass s = .next (s.withCoord (some q))) ∧
    (s.leader = s.coord → exec .leadershipPass s = .next s) ∧
    (s.mayWrite wr F.FW_IMAGE.boot_slot 0 = true → 3 ≤ s.rd F.RST_STAT.step →
      ∃ t, exec (.bootSlotWrite wr slot) s = .next t ∧ t.rd F.FW_IMAGE.boot_slot = slot.val ∧
        (s.procUp cairn = true → s.bring.boot.onTrial = false → t.bring.boot.bootSlot = slot.val ∧
          t.bring.boot.confirmed = s.bring.boot.confirmed ∧ t.bring.boot.onTrial = false) ∧
        (s.procUp cairn = false → t.bring = s.bring) ∧
        Only s t [(F.FW_IMAGE.boot_slot, 0)] (·.withBring t.bring)) ∧
    (s.mayWrite wr F.FW_IMAGE.confirm 0 = true → s.ready = true →
      ∃ t, exec (.confirm wr) s = .next t ∧ t.rd F.FW_IMAGE.trial = 0 ∧
        (s.procUp cairn = true → s.bring.boot.onTrial = true → t.bring.boot.confirmed = some (s.rd F.FW_IMAGE.cur_slot) ∧
          t.bring.boot.onTrial = false) ∧
        (s.procUp cairn = false → t.bring = s.bring) ∧
        Only s t [(F.FW_IMAGE.trial, 0)] (·.withBring t.bring)) ∧
    (s.ready = false → exec (.confirm wr) s = .next s)

/-- Start-up steps 1 to 5 (R431, R432, R435, R437, R446, R468, R469, R470, R472). Each step acts only when it is in
progress, ends with its number in RST.STAT, and on failure leaves recovery with the cause that R435 gives. -/
def Obligations.StartUpStepsOneToFive : Prop :=
  ∀ (s : State) (ms : BitVec 16) (helperOk pufOk : Bool) (d : Option Dcr) (m0 m1 : Option DefectMap) (up : List (Fin 24))
      (cap : BitVec 10) (rate : BitVec 8),
    (s.bring.powered = true → exec (.startupStep1 ms) s = .next s) ∧
    (s.bring.powered = false → ∃ t, exec (.startupStep1 ms) s = .next t ∧ t.bring.powered = true ∧ t.rd F.RST_STAT.step = 1 ∧
      bit (t.rd F.RST_PD_STAT.pd_on) 49 = true ∧ t.mgt.pwrgd = true ∧ t.out = .pinOut 1 1 :: s.out) ∧
    (s.atStep 2 = false → exec (.startupStep2 ms helperOk pufOk) s = .next s) ∧
    (s.bring.resetN = false → exec (.startupStep2 ms helperOk pufOk) s = .next s) ∧
    (s.atStep 2 = true → s.bring.resetN = true → s.bring.perst = true →
      ∃ t, exec (.startupStep2 ms helperOk pufOk) s = .next t ∧ t.rd F.RST_STAT.step = 2 ∧ t.rd F.FW_PROC_STAT.pstate cairn = 0 ∧
        t.rd F.SEC_STAT.puf_ok = b2n (helperOk && pufOk) ∧ bit (t.rd F.RST_PD_STAT.pd_on) 48 = true ∧ t.sec.rootOk = (helperOk && pufOk) ∧
        t.sec.devId = (if helperOk && pufOk then deviceId else 0) ∧ t.sec.bootKey = (helperOk && pufOk) ∧ t.bring.boots = s.bring.boots + 1) ∧
    (s.atStep 3 = false → exec (.startupStep3 ms) s = .next s) ∧
    (s.atStep 3 = true → s.chooseSlot = none →
      ∃ t, exec (.startupStep3 ms) s = .next t ∧ t.rd F.RST_STAT.recovery = 1 ∧ t.rd F.RST_STAT.stall_cause = 1 ∧
        t.rd F.RST_STAT.step = s.rd F.RST_STAT.step) ∧
    (∀ k, s.atStep 3 = true → s.chooseSlot = some k → k < 2 →
      ∃ t, exec (.startupStep3 ms) s = .next t ∧ t.rd F.RST_STAT.step = 3 ∧ t.rd F.FW_IMAGE.cur_slot = k ∧
        t.rd F.FW_IMAGE.boot_slot = k ∧ t.bring.slot = k ∧ t.rd F.SEC_SVN.svn = (s.imageOf k).svn.toNat % 2 ^ F.SEC_SVN.svn.width) ∧
    (s.atStep 4 = false → exec (.startupStep4 ms d m0 m1) s = .next s) ∧
    (s.atStep 4 = true →
      (pickDcr d s.bring.dcrNext = none → ∃ t, exec (.startupStep4 ms d m0 m1) s = .next t ∧ t.rd F.RST_STAT.recovery = 1 ∧
        t.rd F.RST_STAT.stall_cause = 2) ∧
      (∀ r, pickDcr d s.bring.dcrNext = some r →
        (dcrOk r = false → ∃ t, exec (.startupStep4 ms d m0 m1) s = .next t ∧ t.rd F.RST_STAT.recovery = 1 ∧
          t.rd F.RST_STAT.stall_cause = 2) ∧
        (dcrOk r = true → r.ent = none → ∃ t, exec (.startupStep4 ms d m0 m1) s = .next t ∧ t.rd F.RST_STAT.recovery = 1 ∧
          t.rd F.RST_STAT.stall_cause = 3 ∧ t.rd F.SEC_ENT.code = 3) ∧
        (∀ e, dcrOk r = true → r.ent = some e →
          (s.entOk e = false → ∃ t, exec (.startupStep4 ms d m0 m1) s = .next t ∧ t.rd F.RST_STAT.recovery = 1 ∧
            t.rd F.RST_STAT.stall_cause = 3) ∧
          (s.entOk e = true → s.slotOk e = true →
            ∃ t, exec (.startupStep4 ms d m0 m1) s = .next t ∧ t.rd F.RST_STAT.step = 4 ∧ t.bring.dcr = some r ∧ t.sec.ent = some e ∧
              t.rd F.FW_PROC_STAT.pstate tc = 0 ∧ t.rd F.FW_PROC_STAT.pstate fc = 0) ∧
          (s.entOk e = true → s.slotOk e = false →
            ∃ t, exec (.startupStep4 ms d m0 m1) s = .next t ∧ t.bring.refused = s.bring.slot :: s.bring.refused ∧
              (t.chooseSlot = none → t.rd F.RST_STAT.recovery = 1 ∧ t.rd F.RST_STAT.stall_cause = 1) ∧
              (t.chooseSlot ≠ none → t.rd F.RST_STAT.step = 2 ∧ t.rd F.FW_IMAGE.fallback = 1))))) ∧
    (s.atStep 5 = false → exec (.startupStep5 ms up cap rate) s = .next s) ∧
    (s.atStep 5 = true →
      let n := ((span 0 s.nChan).filter fun m => (up.map Fin.val).contains m && !s.hasDefect 5 m 0).length
      (n < 2 → ∃ t, exec (.startupStep5 ms up cap rate) s = .next t ∧ t.rd F.RST_STAT.recovery = 1 ∧ t.rd F.RST_STAT.stall_cause = 4) ∧
      (2 ≤ n → ∃ t, exec (.startupStep5 ms up cap rate) s = .next t ∧ t.rd F.RST_STAT.step = 5 ∧ t.rd F.MEM_MAP.n_up = n ∧
        t.rd F.MEM_MAP.cap_gib = cap.toNat ∧ (t.key devKey).loaded = (s.procUp cairn && s.sec.bootKey || (s.key devKey).loaded)))

/-- Start-up steps 6 to 11: maps, waves, links, lock, known answers, Ready (R22, R23, R431, R432, R434, R435, R441, R443,
R444). Logical names take the healthy slots in order with the next as spare; waves start their clusters, a second trip
leaves them absent; steps 8 to 10 wait for their conditions; step 11 declares Ready only when R434 holds. -/
def Obligations.StartUpStepsSixToReady : Prop :=
  (
    ∀ (s : State),
      (∀ cl fenced, cl < 32 → fenced < 2 → ∀ k, k < 4 →
        let good := (List.range 5).filter fun j => !(s.physOf (slotKey cl j)).bad
        let t := s.mapCores cl fenced
        (∀ x, good[k]? = some x → t.rd F.MSF_MAP.phys_slot (4 * cl + k) = x ∧ t.rd F.MSF_MAP.absent (4 * cl + k) = 0 ∧
          t.rd F.MSF_STAT.fenced (4 * cl + k) = fenced) ∧
        (good[k]? = none → t.rd F.MSF_MAP.absent (4 * cl + k) = 1 ∧ t.rd F.MSF_STAT.fenced (4 * cl + k) = 1) ∧
        t.rd F.RST_CL_STAT.spare_cores cl = good.length - 4 ∧ t.rd F.RST_CL_STAT.absent_cores cl = 4 - good.length) ∧
      (∀ ms fails rows v, (s.atStep 6 = false → exec (.startupStep6 ms ⟨fails, rows, v⟩) s = .next s) ∧
        (s.atStep 6 = true → ∃ t, exec (.startupStep6 ms ⟨fails, rows, v⟩) s = .next t ∧ t.rd F.RST_STAT.step = 6 ∧
          t.bring.vcore = v.map (fun x => 700 + x.val) ∧
          ∀ p, p < s.nPart → t.rd F.FW_PROC_STAT.pstate (pc p) = 0)) ∧
      (∀ k : Fin 32, (s.atStep 7 = false → ∀ ma, exec (.coreWave k ma) s = .next s ∧ exec (.waveRetry k ma) s = .next s) ∧
        (s.atStep 7 = true → s.bring.waves = k.val → k.val < s.waveCount →
          (∀ ma, ma ≤ 4000 → ∃ t, exec (.coreWave k ma) s = .next t ∧ t.bring.waves = k.val + 1 ∧ t.bring.waveFail = s.bring.waveFail ∧
            ∀ n, n / 4 ∈ s.waveOf k → s.rd F.MSF_MAP.absent n = 0 → t.rd F.MSF_STAT.fenced n = 0) ∧
          (∀ ma, 4000 < ma → ∃ t, exec (.coreWave k ma) s = .next t ∧ t.bring.waves = k.val + 1 ∧ t.bring.waveFail = s.bring.waveFail ++ [k.val] ∧
            t.regs = s.regs)) ∧
        (s.atStep 7 = true → s.bring.waveFail.contains k.val = true →
          (∀ ma, ma ≤ 4000 → ∃ t, exec (.waveRetry k ma) s = .next t ∧ t.bring.waveFail = s.bring.waveFail.filter (· != k.val) ∧
            ∀ n, n / 4 ∈ s.waveOf k → s.rd F.MSF_MAP.absent n = 0 → t.rd F.MSF_STAT.fenced n = 0) ∧
          (∀ ma, 4000 < ma → ∃ t, exec (.waveRetry k ma) s = .next t ∧ t.bring.waveFail = s.bring.waveFail.filter (· != k.val) ∧
            ∀ n, n / 4 ∈ s.waveOf k → t.on F.MSF_MAP.absent n = true))) ∧
      (∀ ms, (s.bring.waves ≠ s.waveCount → exec (.startupStep7 ms) s = .next s) ∧
        (s.atStep 7 = true → s.bring.waves = s.waveCount → s.bring.waveFail = [] →
          ∃ t, exec (.startupStep7 ms) s = .next t ∧ t.rd F.RST_STAT.step = 7 ∧
            ∀ l, l < s.nLinks → t.lk l = (if s.rd F.FAB_LINK_CFG.link_en l = 0 then lkDisabled else lkTraining)))) ∧
  (
    ∀ (s : State) (ms : BitVec 16) (fails : List PhysUnit) (radio hold : List BankImage),
      (s.atStep 8 = false → exec (.startupStep8 ms) s = .next s) ∧
      (s.atStep 8 = true → s.linksOk = true → ∃ t, exec (.startupStep8 ms) s = .next t ∧ t.rd F.RST_STAT.step = 8 ∧
        t.rd F.RST_STAT.stall_cause = 0) ∧
      (s.atStep 8 = true → s.linksOk = false → ∃ t, exec (.startupStep8 ms) s = .next t ∧ t.rd F.RST_STAT.step = s.rd F.RST_STAT.step ∧
        t.rd F.RST_STAT.stall_cause = 5 ∧ t.rd F.RST_STAT.recovery = s.rd F.RST_STAT.recovery) ∧
      (s.atStep 9 = false → exec (.startupStep9 ms) s = .next s) ∧
      (s.atStep 9 = true → s.time.edges = true → ∃ t, exec (.startupStep9 ms) s = .next t ∧ t.rd F.RST_STAT.step = 9 ∧
        t.rd F.RST_STAT.stall_cause = 0) ∧
      (s.atStep 9 = true → s.time.edges = false → ∃ t, exec (.startupStep9 ms) s = .next t ∧ t.rd F.RST_STAT.stall_cause = 6 ∧
        OnlyRegs s t [(F.RST_STAT.stall_cause, 0)]) ∧
      (s.atStep 10 = false → exec (.startupStep10 ms fails) s = .next s) ∧
      (s.atStep 10 = true → ∃ t, exec (.startupStep10 ms fails) s = .next t ∧ t.rd F.RST_STAT.step = 10 ∧
        ∀ u ∈ fails, s.physHere u = true → s.clusterStarted u.cl = true → (t.physOf (physKey u)).bad = true) ∧
      (s.atStep 11 = false → exec (.startupStep11 ms radio hold) s = .next s) ∧
      (s.readyOk = false → exec (.startupStep11 ms radio hold) s = .next s) ∧
      (∀ d, s.atStep 11 = true → s.readyOk = true → s.bring.dcr = some d →
        ∃ t, exec (.startupStep11 ms radio hold) s = .next t ∧ t.rd F.RST_STAT.step = 11 ∧ t.ready = true ∧
          t.ctlHb = some t.nowNs))

/-- Whole-device resets, the warm token, the defect map and switched domains (R42, R43, R446, R448, R450, R456, R457, R501,
R510). An orderly reset waits for outstanding requests, writes the defect map, keeps the token of R448 and leaves what PD49
and the NOR hold; an asserted contact resets at once and voids the token; start-up begins again when both contacts are
released; domains switch off only when idle and on again after 10 ms. What stays is named in logs 45 and 50. -/
def Obligations.WholeDeviceResetsAndPowerDomains : Prop :=
  (
    ∀ (s : State) (wr : Writer) (warm perst : Bool),
      (s.procUp cairn = true → s.bring.dmQueue ≠ [] →
        ∃ t, exec .defectMapWrite s = .next t ∧ t.rd F.RST_DM.dm_gen = (s.rd F.RST_DM.dm_gen + 1) % 2 ^ 32 ∧
          t.rd F.RST_DM.dm_count = (s.bring.dm.length + s.bring.dmQueue.length) % 2 ^ 13 ∧ t.rd F.RST_DM.dm_pending = 0 ∧
          t.bring.dm = s.bring.dm ++ s.bring.dmQueue ∧ t.bring.dmQueue = [] ∧
          Only s t [(F.RST_DM.dm_gen, 0), (F.RST_DM.dm_count, 0), (F.RST_DM.dm_pending, 0)] (·.withBring t.bring)) ∧
      (s.procUp cairn = false ∨ s.bring.dmQueue = [] → exec .defectMapWrite s = .next s) ∧
      (s.mayWrite wr F.RST_DEV_CTRL.dev_rst 0 = true → s.bring.powered = true → s.bring.inReset = false →
        s.bring.tripped = false → s.bring.shutAt = none →
        ∃ t, exec (.devRst wr warm) s = .next t ∧ t.rd F.RST_DEV_CTRL.warm_req = b2n warm ∧
          t.bring = { s.bring with shutAt := some s.nowNs } ∧ Only s t [(F.RST_DEV_CTRL.warm_req, 0)] (·.withBring t.bring)) ∧
      (s.mayWrite wr F.RST_DEV_CTRL.dev_rst 0 = false ∨ s.bring.powered = false ∨ s.bring.inReset = true ∨ s.bring.tripped = true ∨
        s.bring.shutAt ≠ none → exec (.devRst wr warm) s = .next s) ∧
      (s.bring.shutAt = none → exec .wholeDeviceReset s = .next s) ∧
      (∀ t0, s.bring.shutAt = some t0 → s.fabReqs = [] → s.bring.dmQueue = [] →
        ∃ t, exec .wholeDeviceReset s = .next t ∧ t.bring.token = s.warmToken ∧ t.rd F.RST_STAT.step = 1 ∧ t.rd F.RST_STAT.ready = 0 ∧
          t.rd F.RST_WARM.token_valid = b2n s.warmToken.isSome ∧ t.bring.shutAt = none ∧ t.bring.images = s.bring.images ∧
          t.mgt.nor = s.mgt.nor ∧ t.nowNs = s.nowNs ∧ t.hostMem = s.hostMem ∧ t.mem = [] ∧ t.keys = [] ∧ t.cells = [] ∧
          t.seqs = [] ∧ t.threads = [] ∧ t.links = [] ∧ t.rings = [] ∧ t.slices = [] ∧
          t.rd F.MGT_PROT.trip_cause = s.rd F.MGT_PROT.trip_cause % 8 ∧ t.bring.tripped = false) ∧
      (∀ t0, s.bring.shutAt = some t0 → s.fabReqs ≠ [] → s.time.edges = true → (s.nowNs / 125000 + 1) * 125000 ≤ t0 + 10000000 →
        exec .wholeDeviceReset s = .next s) ∧
      (s.ready = false ∨ s.on F.RST_DEV_CTRL.warm_req = false ∨ s.on F.SEC_STAT.dbg_taint = true → s.warmToken = none) ∧
      (s.rd F.RST_STAT.step ≠ 0 → s.bring.inReset = false →
        ∃ t u, exec .perstAssert s = .next t ∧ exec .resetNAssert s = .next u ∧ t.bring.perst = false ∧ u.bring.resetN = false ∧
          ∀ x ∈ [t, u], x.bring.inReset = true ∧ x.rd F.RST_STAT.step = 1 ∧ x.rd F.RST_STAT.ready = 0 ∧
            x.bring.token = s.bring.token.map (fun k => { k with void := true }) ∧ x.nowNs = s.nowNs ∧ x.hostMem = s.hostMem ∧
            x.mem = [] ∧ x.cells = [] ∧ x.seqs = [] ∧ x.mgt.nor = s.mgt.nor) ∧
      (s.rd F.RST_STAT.step = 0 ∨ s.bring.inReset = true →
        exec .perstAssert s = .next (s.withBring { s.bring with perst := false }) ∧
        exec .resetNAssert s = .next (s.withBring { s.bring with resetN := false })) ∧
      (s.bring.inReset = true → (if perst then s.bring.resetN else s.bring.perst) = true →
        exec (.resetDeassert perst) s =
          .next (s.withBring { s.bring with perst := true, resetN := true, inReset := false, startNs := s.nowNs })) ∧
      (s.bring.inReset = false ∨ (if perst then s.bring.resetN else s.bring.perst) = false →
        exec (.resetDeassert perst) s = .next (s.withBring (if perst then { s.bring with perst := true }
          else { s.bring with resetN := true })))) ∧
  (
    ∀ (s : State) (d : Fin 50),
      let ok := s.procUp cairn && s.ready && s.domainOn d
      (ok = false ∨ 40 ≤ d.val ∨ (d.val < 8 ∧ s.partIdle d = false) ∨
        (8 ≤ d.val ∧ (s.clusterIdle (d.val - 8) = false ∨ s.suspended (d.val - 8) = true)) →
        exec (.powerDomainSwitchOff d) s = .next s) ∧
      (ok = true → d.val < 8 → s.partIdle d = true →
        ∃ t, exec (.powerDomainSwitchOff d) s = .next t ∧ t.domainOn d = false ∧ t.rd F.FW_PROC_STAT.pstate (pc d) = 3 ∧
          t.rd F.TICK_STAT.running d = 0 ∧ t.rd F.TICK_STAT.cur_len d = 0 ∧ t.rd F.TICK_CTRL.table_len d = 0 ∧
          t.bring.downDomains.head? = some (d.val, t.nowNs)) ∧
      (ok = true → 8 ≤ d.val → d.val < 40 → s.clusterIdle (d.val - 8) = true → s.suspended (d.val - 8) = false →
        ∃ t, exec (.powerDomainSwitchOff d) s = .next t ∧ t.domainOn d = false ∧
          t.bring.downDomains.head? = some (d.val, t.nowNs) ∧
          ∀ x, clSramBase (d.val - 8) ≤ x → x < clSramBase (d.val - 8) + 0x800000 → Memory.byte t.mem x = 0) ∧
      ((∀ y ∈ s.bring.downDomains, y.1 ≠ d.val) → exec (.powerDomainSwitchOn d) s = .next s) ∧
      (s.procUp cairn = false ∨ s.ready = false ∨ (8 ≤ d.val ∧ s.domainOn ((d.val - 8) / 4) = false) →
        exec (.powerDomainSwitchOn d) s = .next s) ∧
      (∀ at_, s.bring.downDomains.find? (fun y => y.1 == d.val) = some (d.val, at_) → s.procUp cairn = true → s.ready = true →
        (s.time.edges = true → (s.nowNs / 125000 + 1) * 125000 ≤ at_ + 10000000 → exec (.powerDomainSwitchOn d) s = .next s) ∧
        (at_ + 10000000 ≤ s.nowNs → d.val < 8 → ∃ t, exec (.powerDomainSwitchOn d) s = .next t ∧ t.domainOn d = true ∧
          t.rd F.FW_PROC_STAT.pstate (pc d) = 0 ∧ ∀ y ∈ t.bring.downDomains, y.1 ≠ d.val) ∧
        (at_ + 10000000 ≤ s.nowNs → 8 ≤ d.val → s.domainOn ((d.val - 8) / 4) = true →
          ∃ t, exec (.powerDomainSwitchOn d) s = .next t ∧ t.domainOn d = true ∧
            t.bring = { s.bring with downDomains := s.bring.downDomains.filter (fun y => y.1 != d.val) } ∧
            Only s t [(F.RST_PD_STAT.pd_on, 0)] (·.withBring t.bring))))

/-- Partition and cluster resets (R213, R451, R452, R453, R454, R455). A reset is refused for an active partition without
force, begins with phase 1 otherwise, and each phase's end does what R454 says: absorb, zero the SRAM, self-test, restart
PCp, and at a Col window go on. Which rows belong to a cluster's cells is the opaque windowWork (log 47). -/
def Obligations.PartitionAndClusterResetsGoThroughFivePhases : Prop :=
  ∀ (s : State) (wr : Writer) (p : Fin 8) (force : Bool) (cl : Fin 32) (c : Fin 4) (fails : List PhysUnit),
    let forced : Nat := b2n force
    let n := 4 * p.val + c.val
    (s.mayWrite wr F.RST_PART_CTRL.part_rst p = false → exec (.partRst wr p force) s = .next s) ∧
    (s.mayWrite wr F.RST_PART_CTRL.part_rst p = true → s.canReset p = false →
      exec (.partRst wr p force) s = .next (s.put F.RST_PART_CTRL.force forced p)) ∧
    (s.mayWrite wr F.RST_PART_CTRL.part_rst p = true → s.canReset p = true → s.partActive p = true → force = false →
      ∃ t, exec (.partRst wr p force) s = .next t ∧ t.rd F.RST_PART_STAT.rst_refused p = 1 ∧ t.rd F.RST_PART_CTRL.force p = 0 ∧
        OnlyRegs s t [(F.RST_PART_CTRL.force, p), (F.RST_PART_STAT.rst_refused, p)]) ∧
    (s.mayWrite wr F.RST_PART_CTRL.part_rst p = true → s.canReset p = true → s.partActive p = false ∨ force = true →
      ∃ t, exec (.partRst wr p force) s = .next t ∧ t.rd F.RST_PART_STAT.rst_state p = 1 ∧
        t.rd F.FW_PROC_STAT.pstate (pc p) = 1 ∧ bit (t.rd F.FW_GSTAT.down) (pc p) = true ∧
        (t.partOf p).col = [] ∧ (t.partOf p).wl = [] ∧ (∀ b ∈ t.fhBufs, b.part ≠ p.val) ∧
        ∀ x ∈ t.spills, x.src ≠ p.val ∧ x.dst ≠ p.val) ∧
    ((s.mayWrite wr F.RST_CL_CTRL.cl_rst cl && s.canReset (cl.val / 4) && s.domainOn (8 + cl) && !s.suspended cl) = false →
      exec (.clRst wr cl) s = .next s) ∧
    ((s.mayWrite wr F.RST_CL_CTRL.cl_rst cl && s.canReset (cl.val / 4) && s.domainOn (8 + cl) && !s.suspended cl) = true →
      (s.partActive (cl.val / 4) = true → s.clRows cl ≠ [] → s.on F.RST_PART_CTRL.force (cl.val / 4) = false →
        ∃ t, exec (.clRst wr cl) s = .next t ∧ t.rd F.RST_PART_STAT.rst_refused (cl.val / 4) = 1 ∧
          OnlyRegs s t [(F.RST_PART_STAT.rst_refused, cl.val / 4)]) ∧
      (s.partActive (cl.val / 4) = false ∨ s.clRows cl = [] ∨ s.on F.RST_PART_CTRL.force (cl.val / 4) = true →
        ∃ t, exec (.clRst wr cl) s = .next t ∧ t.rd F.RST_CL_STAT.suspended cl = 1 ∧ kfind t.bring.clPhase cl = some 1)) ∧
    (s.rd F.RST_PART_STAT.rst_state p = 0 → exec (.resetPhaseEnd p none fails) s = .next s) ∧
    (s.rd F.RST_PART_STAT.rst_state p = 1 → ∃ t, exec (.resetPhaseEnd p none fails) s = .next t ∧
      t.rd F.RST_PART_STAT.rst_state p = 2 ∧ OnlyRegs s t [(F.RST_PART_STAT.rst_state, p)]) ∧
    (s.rd F.RST_PART_STAT.rst_state p = 2 → ∃ t, exec (.resetPhaseEnd p none fails) s = .next t ∧
      t.rd F.RST_PART_STAT.rst_state p = 3 ∧
      ∀ x, pinnedBase p ≤ x → x < pinnedBase p + 0x2000000 → Memory.byte t.mem x = 0) ∧
    (s.rd F.RST_PART_STAT.rst_state p = 3 → ∃ t, exec (.resetPhaseEnd p none fails) s = .next t ∧
      t.rd F.RST_PART_STAT.rst_state p = 4 ∧ OnlyRegs s t [(F.RST_PART_STAT.rst_state, p)]) ∧
    (s.rd F.RST_PART_STAT.rst_state p = 4 → ∃ t, exec (.resetPhaseEnd p none fails) s = .next t ∧
      t.rd F.RST_PART_STAT.rst_state p = 5 ∧ t.rd F.FW_PROC_STAT.pstate (pc p) = 1 ∧
      t.rd F.FW_PROC_STAT.last_cause (pc p) = 0 ∧ (t.proc (pc p)).crashes = []) ∧
    (s.rd F.RST_PART_STAT.rst_state p = 5 → (s.procUp (pc p) = false →
        exec (.resetPhaseEnd p none fails) s = .next s) ∧
      (s.procUp (pc p) = true → ∃ t, exec (.resetPhaseEnd p none fails) s = .next t ∧
        t.rd F.RST_PART_STAT.rst_state p = 0 ∧ ∀ k < 4, t.rd F.RST_CL_STAT.suspended (4 * p.val + k) = 0)) ∧
    (kfind s.bring.clPhase n = none → exec (.resetPhaseEnd p (some c) fails) s = .next s) ∧
    (∀ k, k = 1 ∨ k = 3 → kfind s.bring.clPhase n = some k → exec (.resetPhaseEnd p (some c) fails) s =
      .next (s.withBring { s.bring with clPhase := kset s.bring.clPhase n (k + 1) })) ∧
    (kfind s.bring.clPhase n = some 2 → ∃ t, exec (.resetPhaseEnd p (some c) fails) s = .next t ∧
      kfind t.bring.clPhase n = some 3 ∧
      ∀ x, clSramBase n ≤ x → x < clSramBase n + 0x800000 → Memory.byte t.mem x = 0) ∧
    (kfind s.bring.clPhase n = some 4 → ∃ t, exec (.resetPhaseEnd p (some c) fails) s = .next t ∧
      kfind t.bring.clPhase n = some 5) ∧
    (kfind s.bring.clPhase n = some 5 → (s.procUp (pc (n / 4)) = false →
        exec (.resetPhaseEnd p (some c) fails) s = .next s) ∧
      (s.procUp (pc (n / 4)) = true → ∃ t, exec (.resetPhaseEnd p (some c) fails) s = .next t ∧
        t.rd F.RST_CL_STAT.suspended n = 0 ∧ kfind t.bring.clPhase n = none))

/-- Resets of one core, Spur core, slot or position (R100, R451, R452, R459). A unit reset fences its unit, zeroes it and
sets its busy bit, or is refused behind a present name; at its end the unit is a spare, or a recorded defect. -/
def Obligations.UnitResetsEndAsASpareOrAsADefect : Prop :=
  ∀ (s : State) (wr : Writer) (n : Fin 128) (m : Fin 512) (cl : Fin 32) (k : Fin 8) (j : Fin 32) (k' : Fin 5) (j' : Fin 18),
    let kc := slotKey (n.val / 4) (s.rd F.MSF_MAP.phys_slot n)
    let ks := posKey (m.val / 16) (s.rd F.SPR_MAP.phys_pos m)
    let okc := s.mayReset wr F.RST_CORE_CTRL.core_rst n (n.val / 16) && n.val < s.nCores && s.domainOn (8 + n.val / 4) &&
      !s.on F.MSF_MAP.absent n && !s.on F.RST_CORE_CTRL.rst_busy n && !s.suspended (n.val / 4) && !(s.physOf kc).bad
    let oks := s.mayReset wr F.RST_SPUR_CTRL.spur_rst m (m.val / 64) && m.val < s.nSpur && s.domainOn (8 + m.val / 16) &&
      !s.on F.SPR_MAP.absent m && !s.on F.RST_SPUR_CTRL.rst_busy m && !s.suspended (m.val / 16) && !(s.physOf ks).bad
    let okp (f : Field) := s.mayReset wr f cl (cl.val / 4) && cl.val < s.nClusters
    let free := !s.on F.RST_PHYS_RST.phys_busy cl && s.domainOn (8 + cl) && !s.suspended cl
    (okc = false → exec (.coreRst wr n) s = .next s) ∧
    (okc = true → ∃ t, exec (.coreRst wr n) s = .next t ∧ t.rd F.RST_CORE_CTRL.rst_busy n = 1 ∧
      kfind t.bring.unitRst n = some kc ∧ (t.physOf kc).spare = false ∧
      ∀ x, padBase n ≤ x → x < padBase n + 0x800000 → Memory.byte t.mem x = 0) ∧
    (oks = false → exec (.spurRst wr m) s = .next s) ∧
    (oks = true → ∃ t, exec (.spurRst wr m) s = .next t ∧ t.rd F.RST_SPUR_CTRL.rst_busy m = 1 ∧
      kfind t.bring.unitRst (128 + m.val) = some ks ∧ (t.physOf ks).spare = false ∧
      ∀ i < 8, t.thread (8 * m.val + i) = Thread.zero) ∧
    (okp F.RST_PHYS_RST.slot_rst = false → exec (.slotRst wr cl k) s = .next s) ∧
    (okp F.RST_PHYS_RST.slot_rst = true → ∃ t, exec (.slotRst wr cl k) s = .next t ∧ t.rd F.RST_PHYS_RST.slot cl = k ∧
      (free = true → k.val < 5 → s.coreBehind cl k ≠ none → t.rd F.RST_PHYS_RST.phys_refused cl = 1 ∧
        OnlyRegs s t [(F.RST_PHYS_RST.slot, cl), (F.RST_PHYS_RST.phys_refused, cl)]) ∧
      (free = true → k.val < 5 → s.coreBehind cl k = none → (s.physOf (slotKey cl k)).bad = false →
        t.rd F.RST_PHYS_RST.phys_busy cl = 1 ∧ kfind t.bring.unitRst (10000 + slotKey cl k) = some (slotKey cl k) ∧
        (t.physOf (slotKey cl k)).spare = false) ∧
      (free = false ∨ 5 ≤ k.val ∨ (s.coreBehind cl k = none ∧ (s.physOf (slotKey cl k)).bad = true) →
        OnlyRegs s t [(F.RST_PHYS_RST.slot, cl)])) ∧
    (okp F.RST_PHYS_RST.pos_rst = false → exec (.posRst wr cl j) s = .next s) ∧
    (okp F.RST_PHYS_RST.pos_rst = true → ∃ t, exec (.posRst wr cl j) s = .next t ∧ t.rd F.RST_PHYS_RST.pos cl = j ∧
      (free = true → j.val < 18 → s.spurBehind cl j ≠ none → t.rd F.RST_PHYS_RST.phys_refused cl = 1 ∧
        OnlyRegs s t [(F.RST_PHYS_RST.pos, cl), (F.RST_PHYS_RST.phys_refused, cl)]) ∧
      (free = true → j.val < 18 → s.spurBehind cl j = none → (s.physOf (posKey cl j)).bad = false →
        t.rd F.RST_PHYS_RST.phys_busy cl = 1 ∧ kfind t.bring.unitRst (10000 + posKey cl j) = some (posKey cl j) ∧
        (t.physOf (posKey cl j)).spare = false) ∧
      (free = false ∨ 18 ≤ j.val ∨ (s.spurBehind cl j = none ∧ (s.physOf (posKey cl j)).bad = true) →
        OnlyRegs s t [(F.RST_PHYS_RST.pos, cl)])) ∧
    (∀ (u : UnitName) (key : Nat) (busy : Field) (i : Nat) (passes : Bool),
      (u, key, busy, i) ∈ [(UnitName.core n, n.val, F.RST_CORE_CTRL.rst_busy, n.val),
        (.spur m, 128 + m.val, F.RST_SPUR_CTRL.rst_busy, m.val), (.slot cl k', 10000 + slotKey cl k', F.RST_PHYS_RST.phys_busy, cl.val),
        (.pos cl j', 10000 + posKey cl j', F.RST_PHYS_RST.phys_busy, cl.val)] →
      (kfind s.bring.unitRst key = none → exec (.coreResetEnd u passes) s = .next s) ∧
      (∀ unit, kfind s.bring.unitRst key = some unit →
        ∃ t, exec (.coreResetEnd u passes) s = .next t ∧ t.rd busy i = 0 ∧ kfind t.bring.unitRst key = none ∧
          (passes = true → (t.physOf unit).spare = true ∧ (t.physOf unit).fenced = false) ∧
          (passes = false → (t.physOf unit).spare = false ∧ (t.physOf unit).bad = true)))

/-- Attestation, MCTP control and sensor monitoring (R469, R475, R476, R477, R491). While Cairn runs every SPDM request is
answered and counted, errors are counted besides, signed responses are kept for the ML-DSA signature; MCTP control sets the
endpoint ID; PLDM reads a sensor. Response codes are PRESUMED from DMTF (log 51), digests opaque (log 53), sensor numbers
the model's (log 54). -/
def Obligations.CairnAnswersAttestationAndMonitoring : Prop :=
  ∀ (s : State) (b : Fin 2) (slot : Fin 8) (off len : BitVec 16) (nonce : BitVec 256) (index : BitVec 8) (e : BitVec 8)
      (sensor : BitVec 16) (x y : Bool),
    let here := s.bring.powered = true ∧ 2 ≤ s.rd F.RST_STAT.step
    let counted (t : State) (bad : Nat) : Prop :=
      t.rd F.SEC_SPDM.spdm_req = satAdd 32 (s.rd F.SEC_SPDM.spdm_req) 1 ∧
      (bad = 1 → t.rd F.SEC_SPDM.spdm_err = satAdd 32 (s.rd F.SEC_SPDM.spdm_err) 1)
    let i := index.toNat
    let ms := if i = 0 then [13] else if i = 0xFF then (span 1 13).map s.measurement else [s.measurement i]
    (∀ ins ∈ [Instr.getVersion b, .getCapabilities b, .negotiateAlgorithms b x y, .getDigests b, .getCertificate b slot off len,
        .challenge b slot nonce, .getMeasurements b index x nonce, .vendorMldsaSignature b, .vendorMldsaChain b off len],
      (¬ here → exec ins s = .next s) ∧
      (here → s.procUp cairn = false → exec ins s = .next (s.emit (.spdm b 0x7F false [0x42])))) ∧
    (here → s.procUp cairn = true →
      (∀ (ins : Instr) (c : Nat) (d : List Nat), (ins, c, d) ∈ [(Instr.getVersion b, 0x04, [0x1200]), (.getCapabilities b, 0x61, [0x16]),
          (.negotiateAlgorithms b true true, 0x63, [1, 1]), (.getDigests b, 0x01, [1, Config.digest 0 s.sec.devId]),
          (.getCertificate b 0 off len, 0x02, [0, off.toNat, len.toNat]), (.vendorMldsaChain b off len, 0x7E, [2, off.toNat, len.toNat])] →
        ∃ t, exec ins s = .next t ∧ t.out = .spdm b c false d :: s.out ∧ counted t 0 ∧
          Only s t [(F.SEC_SPDM.spdm_req, 0)] (·.withOut t.out)) ∧
      (∀ (ins : Instr) (c : Nat), ((ins = .negotiateAlgorithms b x y ∧ (x && y) = false ∧ c = 1) ∨
          (ins = .getCertificate b slot off len ∧ slot ≠ 0 ∧ c = 1) ∨ (ins = .challenge b slot nonce ∧ slot ≠ 0 ∧ c = 1) ∨
          (ins = .getMeasurements b index x nonce ∧ 13 < i ∧ i ≠ 0xFF ∧ c = 1) ∨
          (ins = .vendorMldsaSignature b ∧ kfind s.sec.signed b = none ∧ c = 4)) →
        ∃ t, exec ins s = .next t ∧ t.out = .spdm b 0x7F false [c] :: s.out ∧ counted t 1 ∧
          Only s t [(F.SEC_SPDM.spdm_req, 0), (F.SEC_SPDM.spdm_err, 0)] (·.withOut t.out)) ∧
      (∀ (ins : Instr) (c : Nat) (d : List Nat), ((ins = .challenge b 0 nonce ∧ c = 0x03 ∧ d = [0, nonce.toNat, s.sec.devId]) ∨
          (ins = .getMeasurements b index true nonce ∧ (i ≤ 13 ∨ i = 0xFF) ∧ c = 0x60 ∧ d = nonce.toNat :: ms)) →
        ∃ t, exec ins s = .next t ∧ t.out = .spdm b c true d :: s.out ∧ counted t 0 ∧
          kfind t.sec.signed b = some (s.rd F.SEC_SPDM.spdm_req) ∧
          Only s t [(F.SEC_SPDM.spdm_req, 0)] (fun u => (u.withSec { s.sec with signed := t.sec.signed }).withOut t.out)) ∧
      (i ≤ 13 ∨ i = 0xFF → ∃ t, exec (.getMeasurements b index false nonce) s = .next t ∧
        t.out = .spdm b 0x60 false ms :: s.out ∧ counted t 0 ∧ Only s t [(F.SEC_SPDM.spdm_req, 0)] (·.withOut t.out)) ∧
      (∀ m, kfind s.sec.signed b = some m → ∃ t, exec (.vendorMldsaSignature b) s = .next t ∧
        t.out = .spdm b 0x7E true [1, m] :: s.out ∧ counted t 0 ∧ Only s t [(F.SEC_SPDM.spdm_req, 0)] (·.withOut t.out)) ∧
      exec (.mctpControl b none) s = .next (s.emit (.mctp b 0)) ∧
      (∃ t, exec (.mctpControl b (some e)) s = .next t ∧ kfind t.sec.eids b = some e.toNat ∧ t.out = .mctp b 0 :: s.out ∧
        t = (s.withSec { s.sec with eids := t.sec.eids }).withOut t.out) ∧
      (∀ v, s.sensor sensor.toNat = some v → exec (.pldmMonitoring b sensor) s = .next (s.emit (.pldm b 0 v))) ∧
      (s.sensor sensor.toNat = none → exec (.pldmMonitoring b sensor) s = .next (s.emit (.pldm b 0x80 0)))) ∧
    (∀ k : Fin 210, s.sensor k = if s.rd F.MGT_TEMP.valid k = 0 then none else some (s.rd F.MGT_TEMP.temp k)) ∧
    (¬ here → exec (.mctpControl b none) s = .next s ∧ exec (.mctpControl b (some e)) s = .next s ∧
      exec (.pldmMonitoring b sensor) s = .next s) ∧
    (here → s.procUp cairn = false → exec (.mctpControl b none) s = .next (s.emit (.mctp b 4)) ∧
      exec (.mctpControl b (some e)) s = .next (s.emit (.mctp b 4)) ∧ exec (.pldmMonitoring b sensor) s = .next (s.emit (.pldm b 4 0)))

/-- Updates: one session, verified components only (R423, R468, R492, R493). One session at a time; an image, a DCR or a
section that does not verify or is too old changes nothing but its status; an accepted one goes to the inactive slot, the
other copy, or the running processors. PLDM codes are PRESUMED (log 51). -/
def Obligations.UpdatesTakeVerifiedComponentsOnly : Prop :=
  ∀ (s : State) (b : Fin 2) (img : SlotImage) (sigOk writeOk : Bool) (d : Dcr) (sec : SectionImage),
    let cur := s.rd F.FW_IMAGE.cur_slot
    let k := sec.sect.val
    let ended (t : State) (comp st state : Nat) : Prop :=
      t.sec.session = none ∧ t.rd F.MGT_UPD.comp_id = comp ∧ t.rd F.MGT_UPD.pldm_status = st ∧ t.rd F.MGT_UPD.pldm_state = state ∧
      t.out.head? = some (.pldm b 0 st)
    let comps := [Instr.pldmComponentImage b img sigOk writeOk, .pldmComponentDcr b d writeOk, .pldmComponentSection b sec]
    let sectOk := sec.sigOk = true ∧ k ≤ 3 ∧ sec.major.toNat = s.rd F.HOST_VER.dev_major ∧
      sec.kctDig = (s.imageOf s.bring.slot).sectDig.getD 4 0
    (s.bring.powered = false ∨ s.rd F.RST_STAT.step < 2 →
      exec (.requestUpdate b) s = .next s ∧ ∀ ins ∈ comps, exec ins s = .next s) ∧
    (s.bring.powered = true → 2 ≤ s.rd F.RST_STAT.step → s.procUp cairn = false →
      exec (.requestUpdate b) s = .next (s.emit (.pldm b 4 0)) ∧ ∀ ins ∈ comps, exec ins s = .next (s.emit (.pldm b 4 0))) ∧
    (s.bring.powered = true → 2 ≤ s.rd F.RST_STAT.step → s.procUp cairn = true →
      (s.sec.session = none → ∃ t, exec (.requestUpdate b) s = .next t ∧ t.rd F.MGT_UPD.pldm_state = 1 ∧
        t.sec = { s.sec with session := some b.val } ∧ t.out = .pldm b 0 0 :: s.out ∧
        Only s t [(F.MGT_UPD.pldm_state, 0)] (fun u => (u.withSec t.sec).withOut t.out)) ∧
      (s.sec.session ≠ none → exec (.requestUpdate b) s = .next (s.emit (.pldm b 0x81 0))) ∧
      (s.sec.session ≠ some b.val → ∀ ins ∈ comps, exec ins s = .next (s.emit (.pldm b 0x80 0))) ∧
      (s.sec.session = some b.val →
        (s.on F.FW_IMAGE.trial = true → ∃ t, exec (.pldmComponentImage b img sigOk writeOk) s = .next t ∧
          ended t 1 St.notSupported 0 ∧ t.bring = s.bring) ∧
        (s.on F.FW_IMAGE.trial = false → (sigOk && img.stage1Ok && img.restOk) = false →
          ∃ t, exec (.pldmComponentImage b img sigOk writeOk) s = .next t ∧ ended t 1 St.imageInvalid 0 ∧
            t.rd F.SEC_STAT.sig_fail = 1 ∧ t.bring = s.bring) ∧
        (s.on F.FW_IMAGE.trial = false → (sigOk && img.stage1Ok && img.restOk) = true →
          (img.svn.toNat < s.rd F.SEC_SVN.min_svn ∨ img.keyGen.toNat < s.rd F.SEC_ENT.min_key_gen →
            ∃ t, exec (.pldmComponentImage b img sigOk writeOk) s = .next t ∧ ended t 1 St.imageInvalid 0 ∧ t.bring = s.bring) ∧
          (s.rd F.SEC_SVN.min_svn ≤ img.svn.toNat → s.rd F.SEC_ENT.min_key_gen ≤ img.keyGen.toNat →
            ∃ t, exec (.pldmComponentImage b img sigOk writeOk) s = .next t ∧
              (writeOk = true → ended t 1 St.ok 5 ∧ t.rd F.MGT_UPD.act_pend = 1 ∧
                t.bring = { s.bring with images := s.bring.images.set (1 - cur) img }) ∧
              (writeOk = false → ended t 1 St.imageInvalid 0 ∧
                t.bring = { s.bring with images := s.bring.images.set (1 - cur) { img with stage1Ok := false, restOk := false } }))) ∧
        ((d.sigOk && d.ent.any s.entOk) = false → ∃ t, exec (.pldmComponentDcr b d writeOk) s = .next t ∧
          ended t 0x20 St.imageInvalid 0 ∧ t.bring = s.bring ∧ (d.sigOk = false → t.rd F.SEC_STAT.sig_fail = 1)) ∧
        ((d.sigOk && d.ent.any s.entOk) = true → ∃ t, exec (.pldmComponentDcr b d writeOk) s = .next t ∧
          (writeOk = true → ended t 0x20 St.ok 5 ∧ t.rd F.MGT_UPD.act_pend = 1 ∧ t.bring = { s.bring with dcrNext := some d }) ∧
          (writeOk = false → ended t 0x20 St.imageInvalid 0 ∧ t.bring = { s.bring with dcrNext := some { d with sigOk := false } })) ∧
        (sec.sigOk = false → ∃ t, exec (.pldmComponentSection b sec) s = .next t ∧ ended t (0x10 + k) St.imageInvalid 0 ∧
          t.rd F.FW_UPDATE.upd_status = St.imageInvalid ∧ t.rd F.SEC_STAT.sig_fail = 1 ∧ t.sec.chain = s.sec.chain) ∧
        (sec.sigOk = true → ¬ sectOk → ∃ t, exec (.pldmComponentSection b sec) s = .next t ∧ ended t (0x10 + k) St.notSupported 0 ∧
          t.rd F.FW_UPDATE.upd_status = St.notSupported ∧ t.sec.chain = s.sec.chain) ∧
        (sectOk → s.rd F.FW_UPDATE.upd_state = 1 → ∃ t, exec (.pldmComponentSection b sec) s = .next t ∧
          ended t (0x10 + k) St.busy 0 ∧ t.rd F.FW_UPDATE.upd_status = St.busy ∧ t.sec.chain = s.sec.chain) ∧
        (sectOk → s.rd F.FW_UPDATE.upd_state ≠ 1 → ∃ t, exec (.pldmComponentSection b sec) s = .next t ∧
          t.sec.session = none ∧ t.rd F.FW_UPDATE.upd_status = St.ok ∧ t.rd F.FW_UPDATE.upd_sect = k ∧
          t.rd F.FW_IMAGE.patched = 1 ∧ t.sec.chain = sec.digest.toNat :: s.sec.chain ∧
          (k < 3 → t.rd F.FW_UPDATE.upd_state = 1) ∧
          (k < 3 → s.rd F.FW_PROC_STAT.pstate k ≠ 2 → t.rd F.FW_PROC_STAT.pstate k = 1 ∧ t.rd F.FW_PROC_STAT.last_cause k = 5 ∧
            t.rd F.FW_PROC_SECT.sect_ver k = sec.version.toNat) ∧
          (k = 3 → (∃ p < 8, s.rd F.FW_PROC_STAT.pstate (pc p) = 0) → t.rd F.FW_UPDATE.upd_state = 1) ∧
          (k = 3 → (∀ p < 8, s.rd F.FW_PROC_STAT.pstate (pc p) ≠ 0) → t.rd F.FW_UPDATE.upd_state = 2))))

/-- The debug port: HELLO, UNLOCK, LOCK, lockout, STATUS, SPEED (R478, R479, R480, R481, R482, R483). A valid token for the
last nonce unlocks after the open SRAM, the keys and the domain key are erased; the third failure in a row locks the port
out; LOCK and the lockout's expiry lock it. The nonce is a free value (log 1). -/
def Obligations.TheDebugPortUnlocksOnAValidTokenOnly : Prop :=
  ∀ (s : State) (seq code : Byte) (t0 : DebugToken) (tgt : BitVec 16),
    let asks := [Instr.hello seq, .unlock seq t0, .lock seq, .status seq tgt, .speed seq code, .debugFrameError]
    let reply (c st : Nat) (d : List Byte) : State := s.emit (.dbg c seq.toNat st d)
    (s.dbgOn = false → ∀ ins ∈ asks, exec ins s = .next s) ∧
    (s.dbgOn = true →
      (∃ t, exec (.hello seq) s = .next t ∧ t.sec = { s.sec with nonces := s.free, nonceLive := true, nonceAt := s.nowNs } ∧
        t.free = s.free + 1 ∧ (∃ d, t.out = .dbg 0x81 seq.toNat St.ok d :: s.out ∧ d.length = 52 ∧ d.take 16 = leBytes 16 s.sec.devId) ∧
        t = ((s.withSec t.sec).withFree t.free).withOut t.out) ∧
      (s.rd F.SEC_STAT.dbg_state = 2 → exec (.unlock seq t0) s = .next (reply 0x82 St.busy [])) ∧
      (s.rd F.SEC_STAT.dbg_state ≠ 2 → s.tokenOk t0 = false →
        ∃ t, exec (.unlock seq t0) s = .next t ∧ t.out = .dbg 0x82 seq.toNat St.imageInvalid [] :: s.out ∧
          t.rd F.SEC_STAT.tok_fail = satAdd 16 (s.rd F.SEC_STAT.tok_fail) 1 ∧ t.mem = s.mem ∧ t.keys = s.keys ∧
          (t0.sigOk = false → t.rd F.SEC_STAT.sig_fail = 1) ∧
          (s.sec.fails < 2 → t.rd F.SEC_STAT.dbg_state = s.rd F.SEC_STAT.dbg_state ∧ t.sec = { s.sec with fails := s.sec.fails + 1 }) ∧
          (2 ≤ s.sec.fails → t.rd F.SEC_STAT.dbg_state = 2 ∧ t.rd F.SEC_STAT.sec_evt = 1 ∧
            t.sec = { s.sec with fails := 0, lockUntil := s.nowNs + 60000000000 })) ∧
      (s.rd F.SEC_STAT.dbg_state ≠ 2 → s.tokenOk t0 = true →
        ∃ t, exec (.unlock seq t0) s = .next t ∧ t.rd F.SEC_STAT.dbg_state = 1 ∧ t.rd F.SEC_STAT.dbg_taint = 1 ∧
          t.rd F.SEC_STAT.sec_evt = 1 ∧ t.rd F.SEC_KEYS.dom_key = 0 ∧ t.sec.domKey = false ∧ t.sec.perm = t0.perm.toNat ∧ t.sec.nonceLive = false ∧
          t.sec.fails = 0 ∧ (∀ k < devKey, (t.key k).loaded = false) ∧
          (∀ a, t.openSram a = true → Memory.byte t.mem a = 0) ∧ t.out.head? = some (.dbg 0x82 seq.toNat St.ok [])) ∧
      (s.unlocked = true → ∃ t, exec (.lock seq) s = .next t ∧ t.rd F.SEC_STAT.dbg_state = 0 ∧ t.sec = { s.sec with perm := 0 } ∧
        t.out = .dbg 0x83 seq.toNat St.ok [] :: s.out ∧
        Only s t [(F.SEC_STAT.dbg_state, 0)] (fun u => (u.withSec t.sec).withOut t.out)) ∧
      (s.unlocked = false → exec (.lock seq) s = .next (reply 0x83 St.notSupported []) ∧
        exec (.status seq tgt) s = .next (reply 0x84 St.ok (leBytes 9 0))) ∧
      (s.unlocked = true → s.target tgt = .absent →
        exec (.status seq tgt) s = .next (reply 0x84 St.addrUnmapped (leBytes 1 2 ++ leBytes 8 0))) ∧
      (∀ th, s.unlocked = true → s.target tgt = .thread th →
        exec (.status seq tgt) s = .next (reply 0x84 St.ok (leBytes 1 (b2n (s.thread th).dbg) ++ leBytes 8 (s.thread th).pc.toNat))) ∧
      (∀ i, s.unlocked = true → s.target tgt = .proc i → ∃ t, exec (.status seq tgt) s = .next t ∧ t.free = s.free + 1 ∧
        (∃ d, t.out = .dbg 0x84 seq.toNat St.ok (leBytes 1 (b2n (s.proc i).dbgHalt) ++ d) :: s.out ∧ d.length = 8) ∧
        t = (s.withFree t.free).withOut t.out) ∧
      (3 < code.toNat → exec (.speed seq code) s = .next (reply 0x85 St.badCommand [])) ∧
      (code.toNat ≤ 3 → ∃ t, exec (.speed seq code) s = .next t ∧ t.rd F.SEC_DBG.dbg_rate = code.toNat ∧
        t.out = .dbg 0x85 seq.toNat St.ok [] :: s.out ∧ Only s t [(F.SEC_DBG.dbg_rate, 0)] (·.withOut t.out)) ∧
      (∃ t, exec .debugFrameError s = .next t ∧ t.rd F.SEC_DBG.crc_err = satAdd 32 (s.rd F.SEC_DBG.crc_err) 1 ∧
        OnlyRegs s t [(F.SEC_DBG.crc_err, 0)])) ∧
    (s.rd F.SEC_STAT.dbg_state = 2 → s.sec.lockUntil ≤ s.nowNs → ∃ t, exec .lockoutExpiry s = .next t ∧
      t.rd F.SEC_STAT.dbg_state = 0 ∧ OnlyRegs s t [(F.SEC_STAT.dbg_state, 0)]) ∧
    (s.rd F.SEC_STAT.dbg_state = 2 → s.time.edges = true → (s.nowNs / 125000 + 1) * 125000 ≤ s.sec.lockUntil →
      exec .lockoutExpiry s = .next s) ∧
    (s.rd F.SEC_STAT.dbg_state ≠ 2 → exec .lockoutExpiry s = .next s)

/-- Debug commands on a target (R148, R480, R484, R485). Each needs the unlocked port and its permission bit; HALT, RESUME,
STEP, breakpoints and register accesses act on the halted thread or processor, MEM_RD and MEM_WR on device memory. -/
def Obligations.DebugCommandsNeedPermissionAndActOnTheirTarget : Prop :=
  ∀ (s : State) (seq index mask mode : Byte) (tgt count reg len : BitVec 16) (addr : Word) (v : BitVec 128) (data : List Byte)
      (th : Nat) (i : Nat),
    let reply (u : State) (c st : Nat) (d : List Byte) : State := u.emit (.dbg c seq.toNat st d)
    let allowed (k : Nat) : Bool := s.unlocked && bit s.sec.perm k
    let t0 := s.thread th
    let a := addr.toNat
    let k := index.toNat
    (∀ (ins : Instr) (c p : Nat), (ins, c, p) ∈ [(Instr.debugHalt seq tgt, 0x10, tgtPerm tgt), (.resume seq tgt, 0x11, tgtPerm tgt),
        (.step seq tgt count, 0x12, tgtPerm tgt), (.bpSet seq tgt index mask addr, 0x13, tgtPerm tgt),
        (.bpClr seq tgt index, 0x14, tgtPerm tgt), (.regRd seq tgt reg, 0x15, tgtPerm tgt), (.regWr seq tgt reg v, 0x16, 4),
        (.memRd seq addr len mode, 0x20, 2), (.memWr seq addr mode data, 0x21, 3)] →
      (s.dbgOn = false → exec ins s = .next s) ∧
      (s.dbgOn = true → allowed p = false → exec ins s = .next (reply s (c + 0x80) St.notSupported [])) ∧
      (s.dbgOn = true → allowed p = true → allowed (tgtPerm tgt) = true → p ≠ 2 → p ≠ 3 → s.target tgt = .absent →
        exec ins s = .next (reply s (c + 0x80) St.addrUnmapped []))) ∧
    (s.dbgOn = true → allowed (tgtPerm tgt) = true → s.target tgt = .thread th →
      (t0.job ≠ none → exec (.debugHalt seq tgt) s = .next (reply (s.setThread th { t0 with dbg := true }) 0x90 St.ok [])) ∧
      (t0.job = none → exec (.debugHalt seq tgt) s = .next (reply s 0x90 St.ok [])) ∧
      (t0.dbg = true → exec (.resume seq tgt) s =
        .next (reply (s.setThread th { t0 with dbg := false, skip := true }) 0x91 St.ok [])) ∧
      (t0.dbg = false → exec (.resume seq tgt) s = .next (reply s 0x91 St.ok [])) ∧
      (count = 0 → exec (.step seq tgt count) s = .next (reply s 0x92 St.ok (leBytes 8 t0.pc.toNat))) ∧
      (count ≠ 0 → t0.dbg = false → exec (.step seq tgt count) s = .next (reply s 0x92 St.busy [])) ∧
      (t0.dbg = true → t0.job ≠ none → t0.st = .ready → th < 4096 → s.spurOk (th / 8) = true → s.fetchOk th = true →
        decodeSpur (Fin.ofNat 4096 th) (s.memLE t0.pc.toNat 4) = some (.spurNop (Fin.ofNat 4096 th)) →
        ∃ t, exec (.step seq tgt 1) s = .next t ∧ (t.thread th).dbg = true ∧ (t.thread th).g = t0.g ∧ (t.thread th).a = t0.a ∧
          t.out = .dbg 0x40 0 0 (leBytes 2 tgt.toNat ++ leBytes 1 1 ++ leBytes 8 (t.thread th).pc.toNat) ::
            .dbg 0x92 seq.toNat St.ok (leBytes 8 (t.thread th).pc.toNat) :: s.out) ∧
      (4 ≤ k → exec (.bpSet seq tgt index mask addr) s = .next (reply s 0x93 St.badCommand []) ∧
        exec (.bpClr seq tgt index) s = .next (reply s 0x94 St.badCommand [])) ∧
      (k < 4 → mask = 0 → exec (.bpSet seq tgt index mask addr) s = .next (reply s 0x93 St.ok [])) ∧
      (k < 4 → mask ≠ 0 → ∃ t, exec (.bpSet seq tgt index mask addr) s = .next t ∧
        (k, mask.toNat, addr.toNat) ∈ kget t.sec.spurBps (th / 8) [] ∧ t.out = .dbg 0x93 seq.toNat St.ok [] :: s.out ∧
        t = (s.withSec { s.sec with spurBps := t.sec.spurBps }).withOut t.out) ∧
      (k < 4 → ∃ t, exec (.bpClr seq tgt index) s = .next t ∧ (∀ x ∈ kget t.sec.spurBps (th / 8) [], x.1 ≠ k) ∧
        t.out = .dbg 0x94 seq.toNat St.ok [] :: s.out ∧ t = (s.withSec { s.sec with spurBps := t.sec.spurBps }).withOut t.out) ∧
      (∀ x, s.dbgReg th reg.toNat = some x → exec (.regRd seq tgt reg) s = .next (reply s 0x95 St.ok (leBytes 16 x))) ∧
      (s.dbgReg th reg.toNat = none → exec (.regRd seq tgt reg) s = .next (reply s 0x95 St.badCommand [])) ∧
      (allowed 4 = true → t0.dbg = false → exec (.regWr seq tgt reg v) s = .next (reply s 0x96 St.busy [])) ∧
      (allowed 4 = true → t0.dbg = true → reg.toNat ≤ 64 → ∃ t, exec (.regWr seq tgt reg v) s = .next t ∧
        (0 < reg.toNat → reg.toNat < 32 → t.dbgReg th reg.toNat = some (v.toNat % 2 ^ 64)) ∧
        (reg.toNat = 0 → t.dbgReg th 0 = some 0) ∧
        (32 ≤ reg.toNat → reg.toNat < 48 ∨ reg.toNat = 64 → t.dbgReg th reg.toNat = some (v.toNat % 2 ^ 48)) ∧
        (48 ≤ reg.toNat → reg.toNat < 60 → t.dbgReg th reg.toNat = some (v.toNat % 2 ^ 24)) ∧
        (60 ≤ reg.toNat → reg.toNat < 64 → t.dbgReg th reg.toNat = some (v.toNat % 2 ^ 80)) ∧
        (∀ x, x ≠ th → t.thread x = s.thread x) ∧ t.mem = s.mem ∧ RegsSame s t [(tsField (th % 8), th / 8)])) ∧
    (s.dbgOn = true → allowed (tgtPerm tgt) = true → s.target tgt = .proc i → i < 11 →
      (∃ t, exec (.debugHalt seq tgt) s = .next t ∧ (t.proc i).dbgHalt = true ∧ t.procUp i = false) ∧
      ((s.proc i).dbgHalt = true → s.rd F.FW_PROC_STAT.pstate i ≠ 0 → exec (.resume seq tgt) s =
        .next (reply (s.setProc i { s.proc i with dbgHalt := false, wdDue := s.nowNs + (s.proc i).wdDue }) 0x91 St.ok [])) ∧
      (k < 8 → ∃ t, exec (.bpSet seq tgt index mask addr) s = .next t ∧ kfind (t.proc i).bps k = some addr.toNat ∧
        t = (s.withProcs t.procs).withOut t.out) ∧
      (k < 8 → ∃ t, exec (.bpClr seq tgt index) s = .next t ∧ kfind (t.proc i).bps k = none ∧ t = (s.withProcs t.procs).withOut t.out)) ∧
    (s.dbgOn = true → allowed 2 = true →
      (len = 0 → exec (.memRd seq addr len mode) s = .next (reply s 0xA0 St.ok [])) ∧
      (0 < len.toNat → 4092 < len.toNat ∨ 1 < mode.toNat → exec (.memRd seq addr len mode) s = .next (reply s 0xA0 St.badCommand [])) ∧
      (0 < len.toNat → len.toNat ≤ 4092 → mode.toNat ≤ 1 → ∀ st, s.dbgStatus a len.toNat true (mode == 1) = st →
        (st ≠ St.ok → exec (.memRd seq addr len mode) s = .next (reply s 0xA0 st [])) ∧
        (st = St.ok → exec (.memRd seq addr len mode) s =
          .next (reply s 0xA0 St.ok ((List.range len.toNat).map fun j => s.dbgByte (a + j) (mode == 1)))))) ∧
    (s.dbgOn = true → allowed 3 = true →
      (mode ≠ 0 ∨ 4092 < data.length → exec (.memWr seq addr mode data) s = .next (reply s 0xA1 St.badCommand [])) ∧
      (mode = 0 → data = [] → exec (.memWr seq addr mode data) s = .next (reply s 0xA1 St.ok [])) ∧
      (mode = 0 → 0 < data.length → data.length ≤ 4092 → ∀ st, s.dbgStatus a data.length false false = st →
        (st ≠ St.ok → exec (.memWr seq addr mode data) s = .next (reply s 0xA1 st [])) ∧
        (st = St.ok → s.place a ≠ .regs → a % 64 + data.length ≤ 64 →
          exec (.memWr seq addr mode data) s = .next (reply (s.store a data (s.lineIdx a)) 0xA1 St.ok []))))

/-- Sensors, the NOR log, clamps, trips and the 72 V input (R42, R88, R486, R489, R500, R503, R504, R505, R514). Samples
reach their registers; queued records go to the NOR; clamps are set above their limits and cleared; a trip switches off
PD00-PD48, drives both contacts and latches its cause; loss of the input resets everything but the NOR. -/
def Obligations.SensorsClampsTripsAndTheInput : Prop :=
  ∀ (s : State) (temps : List (BitVec 16)) (k : Fin 210) (temp : BitVec 16) (d : Fin 50) (c : Fin 4) (ns : Fin 125000)
      (v vin iin w ma mv : Nat) (x : Int) (ok power : Bool),
    let guarded := s.bring.powered = true ∧ s.bring.tripped = false
    let tripped (ins : Instr) (cause point : Nat) : Prop :=
      ∃ t, exec ins s = .next t ∧ t.bring.tripped = true ∧ t.rd F.MGT_PROT.trip_cause = cause ∧ t.rd F.MGT_PROT.trip_point = point ∧
        t.rd F.RST_PD_STAT.pd_on = 2 ^ 49 ∧ t.rd F.RST_STAT.ready = 0 ∧ t.mgt.fault = true ∧ t.mgt.pwrgd = false ∧
        t.mgt.pwrClamp = false ∧ t.mgt.thmClamp = false ∧ t.out = .pinOut 1 0 :: (if s.faultN then s.out else .pinOut 0 0 :: s.out) ∧ t.mem = [] ∧
        t.cells = [] ∧ t.seqs = [] ∧ t.threads = [] ∧ t.rings = [] ∧ t.hostMem = s.hostMem ∧ t.mgt.nor = s.mgt.nor ∧
        t.bring.token = s.bring.token.map (fun x => { x with clean := false })
    let clamped (t : State) (cause : Nat) : Prop :=
      t.rd F.MGT_PROT.clamp_act = 1 ∧ t.rd F.MGT_PROT.clamp_cause = cause ∧ t.rd F.MGT_PROT.clamp_evt = 1
    let quiet := s.jobs = [] ∧ ∀ p < 8, (s.partOf p).wl = []
    let off (ins : Instr) : Prop :=
      ∃ t, exec ins s = .next t ∧ t.bring.powered = false ∧ t.regs = regsReset ∧ t.mem = [] ∧ t.keys = [] ∧ t.cells = [] ∧
        t.bring.images = s.bring.images ∧ t.mgt.nor = s.mgt.nor ∧ t.hostMem = s.hostMem ∧ t.bring.token = none ∧
        t.out = if s.mgt.pwrgd then .pinOut 1 0 :: s.out else s.out
    (s.procUp cairn = false → exec (.sensorSample temps [(d, mv, ma)] vin iin) s = .next s ∧
      exec (.eventLogNorWrite ok) s = .next s) ∧
    (s.procUp cairn = true → ∃ t, exec (.sensorSample temps [(d, mv, ma)] vin iin) s = .next t ∧
      t.rd F.MGT_IN.vin_mv = vin % 2 ^ 20 ∧ t.rd F.MGT_IN.iin_ma = iin % 2 ^ 20 ∧ t.rd F.MGT_IN.pin_w = vin * iin / 1000000 % 2 ^ 13 ∧
      (∀ x : Fin 50, t.rd F.MGT_PD.pd_valid x = b2n (s.domainOn x)) ∧
      (s.domainOn d = true → t.rd F.MGT_PD.mv d = mv % 2 ^ 20 ∧ t.rd F.MGT_PD.ma d = ma % 2 ^ 20) ∧
      (s.pointOn k = false → k.val < temps.length → t.rd F.MGT_TEMP.valid k = 0) ∧
      (∀ x, temps[k.val]? = some x → s.pointOn k = true → t.rd F.MGT_TEMP.valid k = 1 ∧ t.rd F.MGT_TEMP.temp k = x.toNat ∧
        (s.rd F.MGT_TEMP.valid k = 0 → s.rd F.MGT_TEMP.temp_max k = 0 → t.rdS F.MGT_TEMP.temp_max k = x.toInt) ∧
        (s.rd F.MGT_TEMP.valid k = 1 → s.rd F.MGT_TEMP.temp_max k < 2 ^ 16 →
          t.rdS F.MGT_TEMP.temp_max k = max (s.rdS F.MGT_TEMP.temp_max k) x.toInt)) ∧
      (vin < 60000 ∨ 80000 < vin → ∀ x, t.bring.token = some x → x.clean = false)) ∧
    (s.procUp cairn = true → s.mgt.norQueue = [] → exec (.eventLogNorWrite ok) s = .next s) ∧
    (s.procUp cairn = true → s.mgt.norQueue ≠ [] → ∃ t, exec (.eventLogNorWrite ok) s = .next t ∧ t.mgt.norQueue = [] ∧
      t.mgt.window = s.mgt.window ∧
      (ok = true → t.regs = s.regs ∧ (s.mgt.norQueue.length ≤ 65536 → s.mgt.norQueue.reverse <+: t.mgt.nor)) ∧
      (ok = false → t.mgt.nor = s.mgt.nor ∧ t.rd F.MGT_LOG_STAT.nvm_err = 1)) ∧
    (¬ guarded ∨ w ≤ 3150 ∨ s.mgt.pwrClamp = true → exec (.powerClamp w ns) s = .next s) ∧
    (guarded → 3150 < w → s.mgt.pwrClamp = false → ∃ t, exec (.powerClamp w ns) s = .next t ∧
      t = (s.atNs ns).setClamp { s.mgt with pwrClamp := true } w ∧ (quiet → clamped t (1 + 2 * b2n s.mgt.thmClamp) ∧ t.mgt.pwrClamp = true ∧ t.mgt.thmClamp = s.mgt.thmClamp)) ∧
    (¬ guarded ∨ s.pointOn k = false ∨ temp.toInt < 840 ∨ s.mgt.thmClamp = true → exec (.thermalClamp k temp ns) s = .next s) ∧
    (guarded → s.pointOn k = true → 840 ≤ temp.toInt → s.mgt.thmClamp = false → ∃ t, exec (.thermalClamp k temp ns) s = .next t ∧
      t = (s.atNs ns).setClamp { s.mgt with thmClamp := true } (k.val + 256 * temp.toNat) ∧ (quiet → clamped t (b2n s.mgt.pwrClamp + 2) ∧ t.mgt.thmClamp = true ∧ t.mgt.pwrClamp = s.mgt.pwrClamp)) ∧
    ((if power then s.mgt.pwrClamp else s.mgt.thmClamp) = false ∨ (if power then 2900 ≤ x else 800 < x) →
      exec (.clampClear ⟨power, x⟩) s = .next s) ∧
    ((if power then s.mgt.pwrClamp else s.mgt.thmClamp) = true → (if power then x < 2900 else x ≤ 800) →
      ∃ t, exec (.clampClear ⟨power, x⟩) s = .next t ∧
      let other := if power then s.mgt.thmClamp else s.mgt.pwrClamp
      (if power then t.mgt.pwrClamp else t.mgt.thmClamp) = false ∧ (if power then t.mgt.thmClamp else t.mgt.pwrClamp) = other ∧
      t.mgt.justCleared = !other ∧ t.rd F.MGT_PROT.clamp_act = b2n other ∧
      t.rd F.MGT_PROT.clamp_cause = (if power then 2 else 1) * b2n other ∧
      Only s t [(F.MGT_PROT.clamp_act, 0), (F.MGT_PROT.clamp_cause, 0)] (·.withMgt t.mgt)) ∧
    (guarded → s.pointOn k = true → 920 ≤ temp.toInt → tripped (.thermalTrip k temp) 1 k) ∧
    (¬ guarded ∨ s.pointOn k = false ∨ temp.toInt < 920 → exec (.thermalTrip k temp) s = .next s) ∧
    (guarded → 60000 < ma → tripped (.inputOvercurrentTrip ma) 2 255) ∧
    (¬ guarded ∨ ma ≤ 60000 → exec (.inputOvercurrentTrip ma) s = .next s) ∧
    (guarded → s.domainOn d = true → tripMa d < ma → tripped (.domainOvercurrentTrip d ma) 3 d) ∧
    (¬ guarded ∨ s.domainOn d = false ∨ ma ≤ tripMa d → exec (.domainOvercurrentTrip d ma) s = .next s) ∧
    (¬ guarded ∨ bit (s.rd F.MGT_PROT.conv_fault) c = true → exec (.converterFault c) s = .next s) ∧
    (guarded → s.rd F.MGT_PROT.conv_fault = 0 → ∃ t, exec (.converterFault c) s = .next t ∧
      t.rd F.MGT_PROT.conv_fault = 2 ^ c.val ∧ t.rd F.MGT_LIM.p_lim = min (s.rd F.MGT_LIM.p_lim) 2400 ∧
      t.rd F.MGT_PROT.p_eff_w = min (s.rd F.MGT_LIM.p_lim) 2400 ∧ t.bring = s.bring ∧ t.cells = s.cells ∧
      t.out = if s.procUp cairn && !s.faultN then .pinOut 0 0 :: s.out else s.out) ∧
    (guarded → s.rd F.MGT_PROT.conv_fault ≠ 0 → bit (s.rd F.MGT_PROT.conv_fault) c = false → tripped (.converterFault c) 3 255) ∧
    (s.bring.powered = true → v < 55000 → off (.underVoltage v)) ∧
    (s.bring.powered = false ∨ 55000 ≤ v → exec (.underVoltage v) s = .next s) ∧
    (s.bring.powered = true → 84000 < v → off (.overVoltage v)) ∧
    (s.bring.powered = false ∨ v ≤ 84000 → exec (.overVoltage v) s = .next s)

/-- A service event drives the card's fault contact (R490). A service event that Cairn records sets svc_evt, and the fault
contact is driven; once svc_evt is clear and no trip holds, the contact is driven exactly by a hold-down. -/
def Obligations.AServiceEventDrivesTheFaultContact : Prop :=
  ∀ (s : State) (cls k data src : Nat), s.procUp cairn = true →
    let t := s.service cls k data src
    t.rd F.MGT_LOG_STAT.svc_evt = 1 ∧ t.faultN = true ∧
    t.out = (if s.faultN then s.out else .pinOut 0 0 :: s.out) ∧
    (∀ u : State, u.rd F.MGT_LOG_STAT.svc_evt = 0 → u.mgt.fault = false →
      (u.faultN = true ↔ u.rd F.FW_GSTAT.held ≠ 0))

/-- A step takes the command at the front of the queue (95_what_each_step_holds). With a command c at the front of the
queue, step is exec c on the state with the queue's rest; with an empty queue the time clock goes through one cycle (log 4):
nothing happens without PD49's power, and before tick edges the counter grows by 2 ns and the rate correction and nothing
else changes; every step answers a next state; the command table gives no bits, so no word spells a command. -/
def Obligations.StepRunsTheFrontCommand : Prop :=
  (∀ (s : State) (c : Instr) (rest : List Instr), s.pending = c :: rest → step s = exec c (s.withPending rest)) ∧
    (∀ s : State, s.pending = [] → step s = .next s.clockCycle) ∧
    (∀ s : State, s.pending = [] → s.bring.powered = false → step s = .next s) ∧
    (∀ s : State, s.pending = [] → s.bring.powered = true → s.time.edges = false →
      let count (x : State) : Nat := (x.nowNs * 2 ^ 18 + x.time.frac) * 10 ^ 12 + x.time.rem
      let inc : Nat := (2 ^ 19 * (10 ^ 12 + s.rdS F.TIME_OFFSET.rate)).toNat
      count s + inc < 2 ^ 66 * 10 ^ 21 →
      ∃ t, step s = .next t ∧ count t = count s + inc ∧ t.pending = [] ∧ t.mem = s.mem ∧ t.regs = s.regs) ∧
    (∀ s : State, Progresses s) ∧
    (∀ (s : State) (nbits w : Nat), decodeTableWord nbits w = none ∧ s.withFetchWord nbits w = s)

/-- No command changes the queue of waiting commands (95_what_each_step_holds). Whatever command runs, the queue it leaves
is the queue it found. -/
def Obligations.CommandsLeaveTheQueueAlone : Prop :=
  ∀ (s t : State) (c : Instr), exec c s = .next t → t.pending = s.pending

/-- Every step keeps the registers and both memories in canonical form (R14, R190, R201). From every state whose register
file and memories are in canonical form (keys strictly rising, no listed byte equal to an unlisted one), every step leaves
them so, whatever the command. -/
def Obligations.EveryStepKeepsTheCanonicalForm : Prop :=
  ∀ s t : State, Canonical s → step s = .next t → Canonical t

/-- The state before power is canonical and every register reads its Reset column (R14, R430). State.reset meets the
canonical form, its queue is empty, every field but pstate reads the Reset column, pstate reads off, and named limits read
their defaults. Fields whose column reads DCR or Set at start-up read the model's choice (log 3). -/
def Obligations.ResetIsCanonicalAtTheResetColumn : Prop :=
  Canonical State.reset ∧ State.reset.pending = [] ∧ State.reset.mem = [] ∧
    (∀ i : Fin 11, State.reset.rd F.FW_PROC_STAT.pstate i = 3) ∧
    (∀ (f : Field) (i : Nat), (∀ j : Fin 11, f.key i ≠ F.FW_PROC_STAT.pstate.key j) → State.reset.rd f i = f.reset) ∧
    State.reset.rd F.MGT_LIM.p_lim = 3000 ∧ State.reset.rd F.MGT_LIM.t_thr = 95 ∧ State.reset.rd F.MGT_THR.share = 1024 ∧
    State.reset.rd F.RST_CTRL.wave_clusters = 4 ∧ State.reset.rd F.RST_CTRL.wave_gap_us = 200 ∧
    State.reset.rd F.RST_CTRL.drain_us = 50 ∧ State.reset.rd F.RST_WARM.warm_max_s = 600 ∧ State.reset.rd F.SEC_DBG.dbg_en = 1 ∧
    State.reset.rd F.RST_STAT.ready = 0 ∧ State.reset.servo = 0
end

