-- ==== Sys2Proof/Laws/KMap.lean ====
section
/-! SUPPORT. Laws of sparse maps: what a lookup answers after each change, and that every change keeps the keys rising. -/

namespace Sys2Proof

variable {α : Type}

@[simp] theorem kfind_nil (k : Nat) : kfind ([] : KMap α) k = none := rfl

@[simp] theorem kget_nil (k : Nat) (d : α) : kget ([] : KMap α) k d = d := rfl

@[simp] theorem kfind_kset_same (m : KMap α) (k : Nat) (v : α) : kfind (kset m k v) k = some v := by
  induction m with
  | nil => simp [kset, kfind]
  | cons e m ih =>
    obtain ⟨j, w⟩ := e
    unfold kset
    split
    · simp [kfind]
    · split
      · simp [kfind]
      · rw [kfind, if_neg (by omega), ih]

theorem kfind_kset_ne (m : KMap α) {k j : Nat} (v : α) (h : j ≠ k) : kfind (kset m k v) j = kfind m j := by
  induction m with
  | nil => simp [kset, kfind, Ne.symm h]
  | cons e m ih =>
    obtain ⟨i, w⟩ := e
    unfold kset
    split
    · simp [kfind, Ne.symm h]
    · split
      · subst_vars; simp [kfind, Ne.symm h]
      · simp [kfind, ih]

@[simp] theorem kfind_kdel_same (m : KMap α) (k : Nat) : kfind (kdel m k) k = none := by
  induction m with
  | nil => rfl
  | cons e m ih =>
    obtain ⟨j, w⟩ := e
    unfold kdel
    split
    · exact ih
    · simp [kfind, *]

theorem kfind_kdel_ne (m : KMap α) {k j : Nat} (h : j ≠ k) : kfind (kdel m k) j = kfind m j := by
  induction m with
  | nil => rfl
  | cons e m ih =>
    obtain ⟨i, w⟩ := e
    unfold kdel
    split
    · subst_vars; simp [kfind, ih, Ne.symm h]
    · simp [kfind, ih]

@[simp] theorem kget_kset_same (m : KMap α) (k : Nat) (v d : α) : kget (kset m k v) k d = v := by simp [kget]

theorem kget_kset_ne (m : KMap α) {k j : Nat} (v d : α) (h : j ≠ k) : kget (kset m k v) j d = kget m j d := by
  simp [kget, kfind_kset_ne m v h]

@[simp] theorem kget_kdel_same (m : KMap α) (k : Nat) (d : α) : kget (kdel m k) k d = d := by simp [kget]

theorem kget_kdel_ne (m : KMap α) {k j : Nat} (d : α) (h : j ≠ k) : kget (kdel m k) j d = kget m j d := by
  simp [kget, kfind_kdel_ne m h]

/-- Every key of the map is at least `a`. -/
def KeysFrom (a : Nat) (m : KMap α) : Prop := ∀ e ∈ m, a ≤ e.1

theorem kwf_cons {j : Nat} {w : α} {m : KMap α} : kwf ((j, w) :: m) = true ↔ kwf m = true ∧ KeysFrom (j + 1) m := by
  induction m generalizing j w with
  | nil => simp [kwf, KeysFrom]
  | cons e m ih =>
    obtain ⟨k, x⟩ := e
    simp only [kwf, Bool.and_eq_true, decide_eq_true_eq]
    rw [ih]
    simp only [KeysFrom, List.mem_cons, forall_eq_or_imp]
    constructor
    · rintro ⟨h1, h2, h3⟩
      exact ⟨⟨h2, h3⟩, h1, fun e he => by have := h3 e he; omega⟩
    · rintro ⟨⟨h2, h3⟩, h1, _⟩
      exact ⟨h1, h2, h3⟩

theorem kset_keysFrom {a : Nat} {m : KMap α} (h : KeysFrom a m) {k : Nat} (hk : a ≤ k) (v : α) : KeysFrom a (kset m k v) := by
  induction m with
  | nil => simpa [kset, KeysFrom] using hk
  | cons e m ih =>
    obtain ⟨j, w⟩ := e
    simp only [KeysFrom, List.mem_cons, forall_eq_or_imp] at h
    unfold kset
    split
    · simp only [KeysFrom, List.mem_cons, forall_eq_or_imp]; exact ⟨hk, h.1, h.2⟩
    · split
      · simp only [KeysFrom, List.mem_cons, forall_eq_or_imp]; exact ⟨hk, h.2⟩
      · simp only [KeysFrom, List.mem_cons, forall_eq_or_imp]; exact ⟨h.1, ih h.2⟩

theorem kdel_keysFrom {a : Nat} {m : KMap α} (h : KeysFrom a m) (k : Nat) : KeysFrom a (kdel m k) := by
  induction m with
  | nil => exact h
  | cons e m ih =>
    obtain ⟨j, w⟩ := e
    simp only [KeysFrom, List.mem_cons, forall_eq_or_imp] at h
    unfold kdel
    split
    · exact ih h.2
    · simp only [KeysFrom, List.mem_cons, forall_eq_or_imp]; exact ⟨h.1, ih h.2⟩

theorem kwf_kset {m : KMap α} (h : kwf m = true) (k : Nat) (v : α) : kwf (kset m k v) = true := by
  induction m with
  | nil => simp [kset, kwf]
  | cons e m ih =>
    obtain ⟨j, w⟩ := e
    have h' := kwf_cons.mp h
    unfold kset
    split
    · refine kwf_cons.mpr ⟨h, ?_⟩
      simp only [KeysFrom, List.mem_cons, forall_eq_or_imp]
      exact ⟨by omega, fun e he => by have := h'.2 e he; omega⟩
    · split
      · subst_vars; exact kwf_cons.mpr h'
      · exact kwf_cons.mpr ⟨ih h'.1, kset_keysFrom h'.2 (by omega) v⟩

theorem kwf_kdel {m : KMap α} (h : kwf m = true) (k : Nat) : kwf (kdel m k) = true := by
  induction m with
  | nil => exact h
  | cons e m ih =>
    obtain ⟨j, w⟩ := e
    have h' := kwf_cons.mp h
    unfold kdel
    split
    · exact ih h'.1
    · exact kwf_cons.mpr ⟨ih h'.1, kdel_keysFrom h'.2 k⟩

theorem kwf_filter {m : KMap α} (h : kwf m = true) (p : Nat × α → Bool) : kwf (m.filter p) = true := by
  induction m with
  | nil => exact h
  | cons e m ih =>
    obtain ⟨j, w⟩ := e
    have h' := kwf_cons.mp h
    simp only [List.filter_cons]
    split
    · refine kwf_cons.mpr ⟨ih h'.1, fun e he => h'.2 e (List.mem_of_mem_filter he)⟩
    · exact ih h'.1

theorem mem_kset {m : KMap α} {k : Nat} {v : α} {e : Nat × α} (h : e ∈ kset m k v) : e = (k, v) ∨ e ∈ m := by
  induction m with
  | nil => simp [kset] at h; exact .inl h
  | cons x m ih =>
    obtain ⟨j, w⟩ := x
    unfold kset at h
    split at h
    · simpa using h
    · split at h
      · simp only [List.mem_cons] at h ⊢; tauto
      · simp only [List.mem_cons] at h ⊢
        rcases h with h | h
        · exact .inr (.inl h)
        · rcases ih h with h | h
          · exact .inl h
          · exact .inr (.inr h)

theorem mem_kdel {m : KMap α} {k : Nat} {e : Nat × α} (h : e ∈ kdel m k) : e ∈ m := by
  induction m with
  | nil => exact h
  | cons x m ih =>
    obtain ⟨j, w⟩ := x
    unfold kdel at h
    split at h
    · exact List.mem_cons_of_mem _ (ih h)
    · simp only [List.mem_cons] at h ⊢
      exact h.imp id ih

end Sys2Proof
end

