-- ==== Sys2Proof/Laws/Regs.lean ====
section
/-! SUPPORT. Laws of the register file: a field reads what was written to it, cut to its width, and a write leaves every
field at another bit address alone. -/

namespace Sys2Proof.Machine

theorem Field.get_set_same (f : Field) (m : KMap Nat) (v i : Nat) : f.get (f.set m v i) i = v % 2 ^ f.width := by
  unfold Field.get Field.set
  split
  · simp [*]
  · simp

theorem Field.get_set_ne (f g : Field) (m : KMap Nat) (v i j : Nat) (h : g.key j ≠ f.key i) :
    g.get (f.set m v i) j = g.get m j := by
  unfold Field.get Field.set
  split
  · exact kget_kdel_ne m _ h
  · exact kget_kset_ne m _ _ h

theorem Field.kwf_set (f : Field) {m : KMap Nat} (h : kwf m = true) (v i : Nat) : kwf (f.set m v i) = true := by
  unfold Field.set
  split
  · exact kwf_kdel h _
  · exact kwf_kset h _ _

/-- A field reads what was written to it, cut to its width. -/
theorem State.rd_put_same (s : State) (f : Field) (v i : Nat) : (s.put f v i).rd f i = v % 2 ^ f.width :=
  f.get_set_same s.regs v i

/-- A write leaves a field at another bit address alone. -/
theorem State.rd_put_ne (s : State) {f g : Field} {v i j : Nat} (h : g.key j ≠ f.key i) :
    (s.put f v i).rd g j = s.rd g j :=
  f.get_set_ne g s.regs v i j h

/-- Instances of one field with a stride lie apart. -/
theorem Field.key_ne (f : Field) {i j : Nat} (h : i ≠ j) (hs : f.stride ≠ 0) : f.key j ≠ f.key i := by
  unfold Field.key
  intro e
  have : f.stride * j = f.stride * i := by omega
  exact h (Nat.eq_of_mul_eq_mul_left (Nat.pos_of_ne_zero hs) this).symm

/-- Other instances of the same field stay. -/
theorem State.rd_put_index (s : State) (f : Field) {v i j : Nat} (h : i ≠ j) (hs : f.stride ≠ 0) :
    (s.put f v i).rd f j = s.rd f j :=
  s.rd_put_ne (f.key_ne h hs)

/-- A saturating counter after a bump. -/
theorem State.rd_bump_same (s : State) (f : Field) (i k : Nat) :
    (s.bump f i k).rd f i = satAdd f.width (s.rd f i) k % 2 ^ f.width := s.rd_put_same f _ i

theorem State.rd_bump_ne (s : State) {f g : Field} {i j k : Nat} (h : g.key j ≠ f.key i) :
    (s.bump f i k).rd g j = s.rd g j := s.rd_put_ne h

/-- Every read of a register takes part of the map alone. -/
theorem State.rd_congr {s t : State} (h : t.regs = s.regs) (f : Field) (i : Nat) : t.rd f i = s.rd f i := by
  simp [State.rd, h]

end Sys2Proof.Machine
end

