-- ==== Sys2Proof/Laws/State.lean ====
section
/-! SUPPORT. What an update of one field of the state does to every field, and to the register reads. -/

namespace Sys2Proof.Machine

variable (s : State)

section
variable (v : List Instr)
@[simp] theorem State.withPending_pending : (s.withPending v).pending = v := rfl
@[simp] theorem State.withPending_regs : (s.withPending v).regs = s.regs := rfl
@[simp] theorem State.withPending_staged : (s.withPending v).staged = s.staged := rfl
@[simp] theorem State.withPending_mem : (s.withPending v).mem = s.mem := rfl
@[simp] theorem State.withPending_poison : (s.withPending v).poison = s.poison := rfl
@[simp] theorem State.withPending_lineKey : (s.withPending v).lineKey = s.lineKey := rfl
@[simp] theorem State.withPending_badCopy : (s.withPending v).badCopy = s.badCopy := rfl
@[simp] theorem State.withPending_keys : (s.withPending v).keys = s.keys := rfl
@[simp] theorem State.withPending_hostMem : (s.withPending v).hostMem = s.hostMem := rfl
@[simp] theorem State.withPending_hostBad : (s.withPending v).hostBad = s.hostBad := rfl
@[simp] theorem State.withPending_time : (s.withPending v).time = s.time := rfl
@[simp] theorem State.withPending_parts : (s.withPending v).parts = s.parts := rfl
@[simp] theorem State.withPending_cores : (s.withPending v).cores = s.cores := rfl
@[simp] theorem State.withPending_phys : (s.withPending v).phys = s.phys := rfl
@[simp] theorem State.withPending_threads : (s.withPending v).threads = s.threads := rfl
@[simp] theorem State.withPending_jobs : (s.withPending v).jobs = s.jobs := rfl
@[simp] theorem State.withPending_spurs : (s.withPending v).spurs = s.spurs := rfl
@[simp] theorem State.withPending_dmas : (s.withPending v).dmas = s.dmas := rfl
@[simp] theorem State.withPending_nocReqs : (s.withPending v).nocReqs = s.nocReqs := rfl
@[simp] theorem State.withPending_devErrs : (s.withPending v).devErrs = s.devErrs := rfl
@[simp] theorem State.withPending_sramErrs : (s.withPending v).sramErrs = s.sramErrs := rfl
@[simp] theorem State.withPending_sramUe : (s.withPending v).sramUe = s.sramUe := rfl
@[simp] theorem State.withPending_planHdr : (s.withPending v).planHdr = s.planHdr := rfl
@[simp] theorem State.withPending_cells : (s.withPending v).cells = s.cells := rfl
@[simp] theorem State.withPending_subports : (s.withPending v).subports = s.subports := rfl
@[simp] theorem State.withPending_chains : (s.withPending v).chains = s.chains := rfl
@[simp] theorem State.withPending_fhBufs : (s.withPending v).fhBufs = s.fhBufs := rfl
@[simp] theorem State.withPending_seqs : (s.withPending v).seqs = s.seqs := rfl
@[simp] theorem State.withPending_cmds : (s.withPending v).cmds = s.cmds := rfl
@[simp] theorem State.withPending_nextCmd : (s.withPending v).nextCmd = s.nextCmd := rfl
@[simp] theorem State.withPending_passes : (s.withPending v).passes = s.passes := rfl
@[simp] theorem State.withPending_nextPass : (s.withPending v).nextPass = s.nextPass := rfl
@[simp] theorem State.withPending_models : (s.withPending v).models = s.models := rfl
@[simp] theorem State.withPending_deltas : (s.withPending v).deltas = s.deltas := rfl
@[simp] theorem State.withPending_loads : (s.withPending v).loads = s.loads := rfl
@[simp] theorem State.withPending_lastAdm : (s.withPending v).lastAdm = s.lastAdm := rfl
@[simp] theorem State.withPending_frames : (s.withPending v).frames = s.frames := rfl
@[simp] theorem State.withPending_chunks : (s.withPending v).chunks = s.chunks := rfl
@[simp] theorem State.withPending_freeLists : (s.withPending v).freeLists = s.freeLists := rfl
@[simp] theorem State.withPending_nodes : (s.withPending v).nodes = s.nodes := rfl
@[simp] theorem State.withPending_lru : (s.withPending v).lru = s.lru := rfl
@[simp] theorem State.withPending_heldFrames : (s.withPending v).heldFrames = s.heldFrames := rfl
@[simp] theorem State.withPending_scopesDead : (s.withPending v).scopesDead = s.scopesDead := rfl
@[simp] theorem State.withPending_spills : (s.withPending v).spills = s.spills := rfl
@[simp] theorem State.withPending_links : (s.withPending v).links = s.links := rfl
@[simp] theorem State.withPending_members : (s.withPending v).members = s.members := rfl
@[simp] theorem State.withPending_spares : (s.withPending v).spares = s.spares := rfl
@[simp] theorem State.withPending_cachePeers : (s.withPending v).cachePeers = s.cachePeers := rfl
@[simp] theorem State.withPending_routes : (s.withPending v).routes = s.routes := rfl
@[simp] theorem State.withPending_fabReqs : (s.withPending v).fabReqs = s.fabReqs := rfl
@[simp] theorem State.withPending_nextTid : (s.withPending v).nextTid = s.nextTid := rfl
@[simp] theorem State.withPending_windows : (s.withPending v).windows = s.windows := rfl
@[simp] theorem State.withPending_peers : (s.withPending v).peers = s.peers := rfl
@[simp] theorem State.withPending_move : (s.withPending v).move = s.move := rfl
@[simp] theorem State.withPending_rings : (s.withPending v).rings = s.rings := rfl
@[simp] theorem State.withPending_slices : (s.withPending v).slices = s.slices := rfl
@[simp] theorem State.withPending_groups : (s.withPending v).groups = s.groups := rfl
@[simp] theorem State.withPending_thaws : (s.withPending v).thaws = s.thaws := rfl
@[simp] theorem State.withPending_copies : (s.withPending v).copies = s.copies := rfl
@[simp] theorem State.withPending_heldCmds : (s.withPending v).heldCmds = s.heldCmds := rfl
@[simp] theorem State.withPending_coord : (s.withPending v).coord = s.coord := rfl
@[simp] theorem State.withPending_ctlWindow : (s.withPending v).ctlWindow = s.ctlWindow := rfl
@[simp] theorem State.withPending_ctlNeg : (s.withPending v).ctlNeg = s.ctlNeg := rfl
@[simp] theorem State.withPending_ctlNegPend : (s.withPending v).ctlNegPend = s.ctlNegPend := rfl
@[simp] theorem State.withPending_ctlAgreed : (s.withPending v).ctlAgreed = s.ctlAgreed := rfl
@[simp] theorem State.withPending_halves : (s.withPending v).halves = s.halves := rfl
@[simp] theorem State.withPending_ctlHb : (s.withPending v).ctlHb = s.ctlHb := rfl
@[simp] theorem State.withPending_events : (s.withPending v).events = s.events := rfl
@[simp] theorem State.withPending_procs : (s.withPending v).procs = s.procs := rfl
@[simp] theorem State.withPending_bring : (s.withPending v).bring = s.bring := rfl
@[simp] theorem State.withPending_sec : (s.withPending v).sec = s.sec := rfl
@[simp] theorem State.withPending_mgt : (s.withPending v).mgt = s.mgt := rfl
@[simp] theorem State.withPending_free : (s.withPending v).free = s.free := rfl
@[simp] theorem State.withPending_out : (s.withPending v).out = s.out := rfl
@[simp] theorem State.rd_withPending (f : Field) (i : Nat) : (s.withPending v).rd f i = s.rd f i := rfl
end
section
variable (v : KMap Nat)
@[simp] theorem State.withRegs_pending : (s.withRegs v).pending = s.pending := rfl
@[simp] theorem State.withRegs_regs : (s.withRegs v).regs = v := rfl
@[simp] theorem State.withRegs_staged : (s.withRegs v).staged = s.staged := rfl
@[simp] theorem State.withRegs_mem : (s.withRegs v).mem = s.mem := rfl
@[simp] theorem State.withRegs_poison : (s.withRegs v).poison = s.poison := rfl
@[simp] theorem State.withRegs_lineKey : (s.withRegs v).lineKey = s.lineKey := rfl
@[simp] theorem State.withRegs_badCopy : (s.withRegs v).badCopy = s.badCopy := rfl
@[simp] theorem State.withRegs_keys : (s.withRegs v).keys = s.keys := rfl
@[simp] theorem State.withRegs_hostMem : (s.withRegs v).hostMem = s.hostMem := rfl
@[simp] theorem State.withRegs_hostBad : (s.withRegs v).hostBad = s.hostBad := rfl
@[simp] theorem State.withRegs_time : (s.withRegs v).time = s.time := rfl
@[simp] theorem State.withRegs_parts : (s.withRegs v).parts = s.parts := rfl
@[simp] theorem State.withRegs_cores : (s.withRegs v).cores = s.cores := rfl
@[simp] theorem State.withRegs_phys : (s.withRegs v).phys = s.phys := rfl
@[simp] theorem State.withRegs_threads : (s.withRegs v).threads = s.threads := rfl
@[simp] theorem State.withRegs_jobs : (s.withRegs v).jobs = s.jobs := rfl
@[simp] theorem State.withRegs_spurs : (s.withRegs v).spurs = s.spurs := rfl
@[simp] theorem State.withRegs_dmas : (s.withRegs v).dmas = s.dmas := rfl
@[simp] theorem State.withRegs_nocReqs : (s.withRegs v).nocReqs = s.nocReqs := rfl
@[simp] theorem State.withRegs_devErrs : (s.withRegs v).devErrs = s.devErrs := rfl
@[simp] theorem State.withRegs_sramErrs : (s.withRegs v).sramErrs = s.sramErrs := rfl
@[simp] theorem State.withRegs_sramUe : (s.withRegs v).sramUe = s.sramUe := rfl
@[simp] theorem State.withRegs_planHdr : (s.withRegs v).planHdr = s.planHdr := rfl
@[simp] theorem State.withRegs_cells : (s.withRegs v).cells = s.cells := rfl
@[simp] theorem State.withRegs_subports : (s.withRegs v).subports = s.subports := rfl
@[simp] theorem State.withRegs_chains : (s.withRegs v).chains = s.chains := rfl
@[simp] theorem State.withRegs_fhBufs : (s.withRegs v).fhBufs = s.fhBufs := rfl
@[simp] theorem State.withRegs_seqs : (s.withRegs v).seqs = s.seqs := rfl
@[simp] theorem State.withRegs_cmds : (s.withRegs v).cmds = s.cmds := rfl
@[simp] theorem State.withRegs_nextCmd : (s.withRegs v).nextCmd = s.nextCmd := rfl
@[simp] theorem State.withRegs_passes : (s.withRegs v).passes = s.passes := rfl
@[simp] theorem State.withRegs_nextPass : (s.withRegs v).nextPass = s.nextPass := rfl
@[simp] theorem State.withRegs_models : (s.withRegs v).models = s.models := rfl
@[simp] theorem State.withRegs_deltas : (s.withRegs v).deltas = s.deltas := rfl
@[simp] theorem State.withRegs_loads : (s.withRegs v).loads = s.loads := rfl
@[simp] theorem State.withRegs_lastAdm : (s.withRegs v).lastAdm = s.lastAdm := rfl
@[simp] theorem State.withRegs_frames : (s.withRegs v).frames = s.frames := rfl
@[simp] theorem State.withRegs_chunks : (s.withRegs v).chunks = s.chunks := rfl
@[simp] theorem State.withRegs_freeLists : (s.withRegs v).freeLists = s.freeLists := rfl
@[simp] theorem State.withRegs_nodes : (s.withRegs v).nodes = s.nodes := rfl
@[simp] theorem State.withRegs_lru : (s.withRegs v).lru = s.lru := rfl
@[simp] theorem State.withRegs_heldFrames : (s.withRegs v).heldFrames = s.heldFrames := rfl
@[simp] theorem State.withRegs_scopesDead : (s.withRegs v).scopesDead = s.scopesDead := rfl
@[simp] theorem State.withRegs_spills : (s.withRegs v).spills = s.spills := rfl
@[simp] theorem State.withRegs_links : (s.withRegs v).links = s.links := rfl
@[simp] theorem State.withRegs_members : (s.withRegs v).members = s.members := rfl
@[simp] theorem State.withRegs_spares : (s.withRegs v).spares = s.spares := rfl
@[simp] theorem State.withRegs_cachePeers : (s.withRegs v).cachePeers = s.cachePeers := rfl
@[simp] theorem State.withRegs_routes : (s.withRegs v).routes = s.routes := rfl
@[simp] theorem State.withRegs_fabReqs : (s.withRegs v).fabReqs = s.fabReqs := rfl
@[simp] theorem State.withRegs_nextTid : (s.withRegs v).nextTid = s.nextTid := rfl
@[simp] theorem State.withRegs_windows : (s.withRegs v).windows = s.windows := rfl
@[simp] theorem State.withRegs_peers : (s.withRegs v).peers = s.peers := rfl
@[simp] theorem State.withRegs_move : (s.withRegs v).move = s.move := rfl
@[simp] theorem State.withRegs_rings : (s.withRegs v).rings = s.rings := rfl
@[simp] theorem State.withRegs_slices : (s.withRegs v).slices = s.slices := rfl
@[simp] theorem State.withRegs_groups : (s.withRegs v).groups = s.groups := rfl
@[simp] theorem State.withRegs_thaws : (s.withRegs v).thaws = s.thaws := rfl
@[simp] theorem State.withRegs_copies : (s.withRegs v).copies = s.copies := rfl
@[simp] theorem State.withRegs_heldCmds : (s.withRegs v).heldCmds = s.heldCmds := rfl
@[simp] theorem State.withRegs_coord : (s.withRegs v).coord = s.coord := rfl
@[simp] theorem State.withRegs_ctlWindow : (s.withRegs v).ctlWindow = s.ctlWindow := rfl
@[simp] theorem State.withRegs_ctlNeg : (s.withRegs v).ctlNeg = s.ctlNeg := rfl
@[simp] theorem State.withRegs_ctlNegPend : (s.withRegs v).ctlNegPend = s.ctlNegPend := rfl
@[simp] theorem State.withRegs_ctlAgreed : (s.withRegs v).ctlAgreed = s.ctlAgreed := rfl
@[simp] theorem State.withRegs_halves : (s.withRegs v).halves = s.halves := rfl
@[simp] theorem State.withRegs_ctlHb : (s.withRegs v).ctlHb = s.ctlHb := rfl
@[simp] theorem State.withRegs_events : (s.withRegs v).events = s.events := rfl
@[simp] theorem State.withRegs_procs : (s.withRegs v).procs = s.procs := rfl
@[simp] theorem State.withRegs_bring : (s.withRegs v).bring = s.bring := rfl
@[simp] theorem State.withRegs_sec : (s.withRegs v).sec = s.sec := rfl
@[simp] theorem State.withRegs_mgt : (s.withRegs v).mgt = s.mgt := rfl
@[simp] theorem State.withRegs_free : (s.withRegs v).free = s.free := rfl
@[simp] theorem State.withRegs_out : (s.withRegs v).out = s.out := rfl
end
section
variable (v : KMap Nat)
@[simp] theorem State.withStaged_pending : (s.withStaged v).pending = s.pending := rfl
@[simp] theorem State.withStaged_regs : (s.withStaged v).regs = s.regs := rfl
@[simp] theorem State.withStaged_staged : (s.withStaged v).staged = v := rfl
@[simp] theorem State.withStaged_mem : (s.withStaged v).mem = s.mem := rfl
@[simp] theorem State.withStaged_poison : (s.withStaged v).poison = s.poison := rfl
@[simp] theorem State.withStaged_lineKey : (s.withStaged v).lineKey = s.lineKey := rfl
@[simp] theorem State.withStaged_badCopy : (s.withStaged v).badCopy = s.badCopy := rfl
@[simp] theorem State.withStaged_keys : (s.withStaged v).keys = s.keys := rfl
@[simp] theorem State.withStaged_hostMem : (s.withStaged v).hostMem = s.hostMem := rfl
@[simp] theorem State.withStaged_hostBad : (s.withStaged v).hostBad = s.hostBad := rfl
@[simp] theorem State.withStaged_time : (s.withStaged v).time = s.time := rfl
@[simp] theorem State.withStaged_parts : (s.withStaged v).parts = s.parts := rfl
@[simp] theorem State.withStaged_cores : (s.withStaged v).cores = s.cores := rfl
@[simp] theorem State.withStaged_phys : (s.withStaged v).phys = s.phys := rfl
@[simp] theorem State.withStaged_threads : (s.withStaged v).threads = s.threads := rfl
@[simp] theorem State.withStaged_jobs : (s.withStaged v).jobs = s.jobs := rfl
@[simp] theorem State.withStaged_spurs : (s.withStaged v).spurs = s.spurs := rfl
@[simp] theorem State.withStaged_dmas : (s.withStaged v).dmas = s.dmas := rfl
@[simp] theorem State.withStaged_nocReqs : (s.withStaged v).nocReqs = s.nocReqs := rfl
@[simp] theorem State.withStaged_devErrs : (s.withStaged v).devErrs = s.devErrs := rfl
@[simp] theorem State.withStaged_sramErrs : (s.withStaged v).sramErrs = s.sramErrs := rfl
@[simp] theorem State.withStaged_sramUe : (s.withStaged v).sramUe = s.sramUe := rfl
@[simp] theorem State.withStaged_planHdr : (s.withStaged v).planHdr = s.planHdr := rfl
@[simp] theorem State.withStaged_cells : (s.withStaged v).cells = s.cells := rfl
@[simp] theorem State.withStaged_subports : (s.withStaged v).subports = s.subports := rfl
@[simp] theorem State.withStaged_chains : (s.withStaged v).chains = s.chains := rfl
@[simp] theorem State.withStaged_fhBufs : (s.withStaged v).fhBufs = s.fhBufs := rfl
@[simp] theorem State.withStaged_seqs : (s.withStaged v).seqs = s.seqs := rfl
@[simp] theorem State.withStaged_cmds : (s.withStaged v).cmds = s.cmds := rfl
@[simp] theorem State.withStaged_nextCmd : (s.withStaged v).nextCmd = s.nextCmd := rfl
@[simp] theorem State.withStaged_passes : (s.withStaged v).passes = s.passes := rfl
@[simp] theorem State.withStaged_nextPass : (s.withStaged v).nextPass = s.nextPass := rfl
@[simp] theorem State.withStaged_models : (s.withStaged v).models = s.models := rfl
@[simp] theorem State.withStaged_deltas : (s.withStaged v).deltas = s.deltas := rfl
@[simp] theorem State.withStaged_loads : (s.withStaged v).loads = s.loads := rfl
@[simp] theorem State.withStaged_lastAdm : (s.withStaged v).lastAdm = s.lastAdm := rfl
@[simp] theorem State.withStaged_frames : (s.withStaged v).frames = s.frames := rfl
@[simp] theorem State.withStaged_chunks : (s.withStaged v).chunks = s.chunks := rfl
@[simp] theorem State.withStaged_freeLists : (s.withStaged v).freeLists = s.freeLists := rfl
@[simp] theorem State.withStaged_nodes : (s.withStaged v).nodes = s.nodes := rfl
@[simp] theorem State.withStaged_lru : (s.withStaged v).lru = s.lru := rfl
@[simp] theorem State.withStaged_heldFrames : (s.withStaged v).heldFrames = s.heldFrames := rfl
@[simp] theorem State.withStaged_scopesDead : (s.withStaged v).scopesDead = s.scopesDead := rfl
@[simp] theorem State.withStaged_spills : (s.withStaged v).spills = s.spills := rfl
@[simp] theorem State.withStaged_links : (s.withStaged v).links = s.links := rfl
@[simp] theorem State.withStaged_members : (s.withStaged v).members = s.members := rfl
@[simp] theorem State.withStaged_spares : (s.withStaged v).spares = s.spares := rfl
@[simp] theorem State.withStaged_cachePeers : (s.withStaged v).cachePeers = s.cachePeers := rfl
@[simp] theorem State.withStaged_routes : (s.withStaged v).routes = s.routes := rfl
@[simp] theorem State.withStaged_fabReqs : (s.withStaged v).fabReqs = s.fabReqs := rfl
@[simp] theorem State.withStaged_nextTid : (s.withStaged v).nextTid = s.nextTid := rfl
@[simp] theorem State.withStaged_windows : (s.withStaged v).windows = s.windows := rfl
@[simp] theorem State.withStaged_peers : (s.withStaged v).peers = s.peers := rfl
@[simp] theorem State.withStaged_move : (s.withStaged v).move = s.move := rfl
@[simp] theorem State.withStaged_rings : (s.withStaged v).rings = s.rings := rfl
@[simp] theorem State.withStaged_slices : (s.withStaged v).slices = s.slices := rfl
@[simp] theorem State.withStaged_groups : (s.withStaged v).groups = s.groups := rfl
@[simp] theorem State.withStaged_thaws : (s.withStaged v).thaws = s.thaws := rfl
@[simp] theorem State.withStaged_copies : (s.withStaged v).copies = s.copies := rfl
@[simp] theorem State.withStaged_heldCmds : (s.withStaged v).heldCmds = s.heldCmds := rfl
@[simp] theorem State.withStaged_coord : (s.withStaged v).coord = s.coord := rfl
@[simp] theorem State.withStaged_ctlWindow : (s.withStaged v).ctlWindow = s.ctlWindow := rfl
@[simp] theorem State.withStaged_ctlNeg : (s.withStaged v).ctlNeg = s.ctlNeg := rfl
@[simp] theorem State.withStaged_ctlNegPend : (s.withStaged v).ctlNegPend = s.ctlNegPend := rfl
@[simp] theorem State.withStaged_ctlAgreed : (s.withStaged v).ctlAgreed = s.ctlAgreed := rfl
@[simp] theorem State.withStaged_halves : (s.withStaged v).halves = s.halves := rfl
@[simp] theorem State.withStaged_ctlHb : (s.withStaged v).ctlHb = s.ctlHb := rfl
@[simp] theorem State.withStaged_events : (s.withStaged v).events = s.events := rfl
@[simp] theorem State.withStaged_procs : (s.withStaged v).procs = s.procs := rfl
@[simp] theorem State.withStaged_bring : (s.withStaged v).bring = s.bring := rfl
@[simp] theorem State.withStaged_sec : (s.withStaged v).sec = s.sec := rfl
@[simp] theorem State.withStaged_mgt : (s.withStaged v).mgt = s.mgt := rfl
@[simp] theorem State.withStaged_free : (s.withStaged v).free = s.free := rfl
@[simp] theorem State.withStaged_out : (s.withStaged v).out = s.out := rfl
@[simp] theorem State.rd_withStaged (f : Field) (i : Nat) : (s.withStaged v).rd f i = s.rd f i := rfl
end
section
variable (v : List Host.Cell)
@[simp] theorem State.withMem_pending : (s.withMem v).pending = s.pending := rfl
@[simp] theorem State.withMem_regs : (s.withMem v).regs = s.regs := rfl
@[simp] theorem State.withMem_staged : (s.withMem v).staged = s.staged := rfl
@[simp] theorem State.withMem_mem : (s.withMem v).mem = v := rfl
@[simp] theorem State.withMem_poison : (s.withMem v).poison = s.poison := rfl
@[simp] theorem State.withMem_lineKey : (s.withMem v).lineKey = s.lineKey := rfl
@[simp] theorem State.withMem_badCopy : (s.withMem v).badCopy = s.badCopy := rfl
@[simp] theorem State.withMem_keys : (s.withMem v).keys = s.keys := rfl
@[simp] theorem State.withMem_hostMem : (s.withMem v).hostMem = s.hostMem := rfl
@[simp] theorem State.withMem_hostBad : (s.withMem v).hostBad = s.hostBad := rfl
@[simp] theorem State.withMem_time : (s.withMem v).time = s.time := rfl
@[simp] theorem State.withMem_parts : (s.withMem v).parts = s.parts := rfl
@[simp] theorem State.withMem_cores : (s.withMem v).cores = s.cores := rfl
@[simp] theorem State.withMem_phys : (s.withMem v).phys = s.phys := rfl
@[simp] theorem State.withMem_threads : (s.withMem v).threads = s.threads := rfl
@[simp] theorem State.withMem_jobs : (s.withMem v).jobs = s.jobs := rfl
@[simp] theorem State.withMem_spurs : (s.withMem v).spurs = s.spurs := rfl
@[simp] theorem State.withMem_dmas : (s.withMem v).dmas = s.dmas := rfl
@[simp] theorem State.withMem_nocReqs : (s.withMem v).nocReqs = s.nocReqs := rfl
@[simp] theorem State.withMem_devErrs : (s.withMem v).devErrs = s.devErrs := rfl
@[simp] theorem State.withMem_sramErrs : (s.withMem v).sramErrs = s.sramErrs := rfl
@[simp] theorem State.withMem_sramUe : (s.withMem v).sramUe = s.sramUe := rfl
@[simp] theorem State.withMem_planHdr : (s.withMem v).planHdr = s.planHdr := rfl
@[simp] theorem State.withMem_cells : (s.withMem v).cells = s.cells := rfl
@[simp] theorem State.withMem_subports : (s.withMem v).subports = s.subports := rfl
@[simp] theorem State.withMem_chains : (s.withMem v).chains = s.chains := rfl
@[simp] theorem State.withMem_fhBufs : (s.withMem v).fhBufs = s.fhBufs := rfl
@[simp] theorem State.withMem_seqs : (s.withMem v).seqs = s.seqs := rfl
@[simp] theorem State.withMem_cmds : (s.withMem v).cmds = s.cmds := rfl
@[simp] theorem State.withMem_nextCmd : (s.withMem v).nextCmd = s.nextCmd := rfl
@[simp] theorem State.withMem_passes : (s.withMem v).passes = s.passes := rfl
@[simp] theorem State.withMem_nextPass : (s.withMem v).nextPass = s.nextPass := rfl
@[simp] theorem State.withMem_models : (s.withMem v).models = s.models := rfl
@[simp] theorem State.withMem_deltas : (s.withMem v).deltas = s.deltas := rfl
@[simp] theorem State.withMem_loads : (s.withMem v).loads = s.loads := rfl
@[simp] theorem State.withMem_lastAdm : (s.withMem v).lastAdm = s.lastAdm := rfl
@[simp] theorem State.withMem_frames : (s.withMem v).frames = s.frames := rfl
@[simp] theorem State.withMem_chunks : (s.withMem v).chunks = s.chunks := rfl
@[simp] theorem State.withMem_freeLists : (s.withMem v).freeLists = s.freeLists := rfl
@[simp] theorem State.withMem_nodes : (s.withMem v).nodes = s.nodes := rfl
@[simp] theorem State.withMem_lru : (s.withMem v).lru = s.lru := rfl
@[simp] theorem State.withMem_heldFrames : (s.withMem v).heldFrames = s.heldFrames := rfl
@[simp] theorem State.withMem_scopesDead : (s.withMem v).scopesDead = s.scopesDead := rfl
@[simp] theorem State.withMem_spills : (s.withMem v).spills = s.spills := rfl
@[simp] theorem State.withMem_links : (s.withMem v).links = s.links := rfl
@[simp] theorem State.withMem_members : (s.withMem v).members = s.members := rfl
@[simp] theorem State.withMem_spares : (s.withMem v).spares = s.spares := rfl
@[simp] theorem State.withMem_cachePeers : (s.withMem v).cachePeers = s.cachePeers := rfl
@[simp] theorem State.withMem_routes : (s.withMem v).routes = s.routes := rfl
@[simp] theorem State.withMem_fabReqs : (s.withMem v).fabReqs = s.fabReqs := rfl
@[simp] theorem State.withMem_nextTid : (s.withMem v).nextTid = s.nextTid := rfl
@[simp] theorem State.withMem_windows : (s.withMem v).windows = s.windows := rfl
@[simp] theorem State.withMem_peers : (s.withMem v).peers = s.peers := rfl
@[simp] theorem State.withMem_move : (s.withMem v).move = s.move := rfl
@[simp] theorem State.withMem_rings : (s.withMem v).rings = s.rings := rfl
@[simp] theorem State.withMem_slices : (s.withMem v).slices = s.slices := rfl
@[simp] theorem State.withMem_groups : (s.withMem v).groups = s.groups := rfl
@[simp] theorem State.withMem_thaws : (s.withMem v).thaws = s.thaws := rfl
@[simp] theorem State.withMem_copies : (s.withMem v).copies = s.copies := rfl
@[simp] theorem State.withMem_heldCmds : (s.withMem v).heldCmds = s.heldCmds := rfl
@[simp] theorem State.withMem_coord : (s.withMem v).coord = s.coord := rfl
@[simp] theorem State.withMem_ctlWindow : (s.withMem v).ctlWindow = s.ctlWindow := rfl
@[simp] theorem State.withMem_ctlNeg : (s.withMem v).ctlNeg = s.ctlNeg := rfl
@[simp] theorem State.withMem_ctlNegPend : (s.withMem v).ctlNegPend = s.ctlNegPend := rfl
@[simp] theorem State.withMem_ctlAgreed : (s.withMem v).ctlAgreed = s.ctlAgreed := rfl
@[simp] theorem State.withMem_halves : (s.withMem v).halves = s.halves := rfl
@[simp] theorem State.withMem_ctlHb : (s.withMem v).ctlHb = s.ctlHb := rfl
@[simp] theorem State.withMem_events : (s.withMem v).events = s.events := rfl
@[simp] theorem State.withMem_procs : (s.withMem v).procs = s.procs := rfl
@[simp] theorem State.withMem_bring : (s.withMem v).bring = s.bring := rfl
@[simp] theorem State.withMem_sec : (s.withMem v).sec = s.sec := rfl
@[simp] theorem State.withMem_mgt : (s.withMem v).mgt = s.mgt := rfl
@[simp] theorem State.withMem_free : (s.withMem v).free = s.free := rfl
@[simp] theorem State.withMem_out : (s.withMem v).out = s.out := rfl
@[simp] theorem State.rd_withMem (f : Field) (i : Nat) : (s.withMem v).rd f i = s.rd f i := rfl
end
section
variable (v : List Nat)
@[simp] theorem State.withPoison_pending : (s.withPoison v).pending = s.pending := rfl
@[simp] theorem State.withPoison_regs : (s.withPoison v).regs = s.regs := rfl
@[simp] theorem State.withPoison_staged : (s.withPoison v).staged = s.staged := rfl
@[simp] theorem State.withPoison_mem : (s.withPoison v).mem = s.mem := rfl
@[simp] theorem State.withPoison_poison : (s.withPoison v).poison = v := rfl
@[simp] theorem State.withPoison_lineKey : (s.withPoison v).lineKey = s.lineKey := rfl
@[simp] theorem State.withPoison_badCopy : (s.withPoison v).badCopy = s.badCopy := rfl
@[simp] theorem State.withPoison_keys : (s.withPoison v).keys = s.keys := rfl
@[simp] theorem State.withPoison_hostMem : (s.withPoison v).hostMem = s.hostMem := rfl
@[simp] theorem State.withPoison_hostBad : (s.withPoison v).hostBad = s.hostBad := rfl
@[simp] theorem State.withPoison_time : (s.withPoison v).time = s.time := rfl
@[simp] theorem State.withPoison_parts : (s.withPoison v).parts = s.parts := rfl
@[simp] theorem State.withPoison_cores : (s.withPoison v).cores = s.cores := rfl
@[simp] theorem State.withPoison_phys : (s.withPoison v).phys = s.phys := rfl
@[simp] theorem State.withPoison_threads : (s.withPoison v).threads = s.threads := rfl
@[simp] theorem State.withPoison_jobs : (s.withPoison v).jobs = s.jobs := rfl
@[simp] theorem State.withPoison_spurs : (s.withPoison v).spurs = s.spurs := rfl
@[simp] theorem State.withPoison_dmas : (s.withPoison v).dmas = s.dmas := rfl
@[simp] theorem State.withPoison_nocReqs : (s.withPoison v).nocReqs = s.nocReqs := rfl
@[simp] theorem State.withPoison_devErrs : (s.withPoison v).devErrs = s.devErrs := rfl
@[simp] theorem State.withPoison_sramErrs : (s.withPoison v).sramErrs = s.sramErrs := rfl
@[simp] theorem State.withPoison_sramUe : (s.withPoison v).sramUe = s.sramUe := rfl
@[simp] theorem State.withPoison_planHdr : (s.withPoison v).planHdr = s.planHdr := rfl
@[simp] theorem State.withPoison_cells : (s.withPoison v).cells = s.cells := rfl
@[simp] theorem State.withPoison_subports : (s.withPoison v).subports = s.subports := rfl
@[simp] theorem State.withPoison_chains : (s.withPoison v).chains = s.chains := rfl
@[simp] theorem State.withPoison_fhBufs : (s.withPoison v).fhBufs = s.fhBufs := rfl
@[simp] theorem State.withPoison_seqs : (s.withPoison v).seqs = s.seqs := rfl
@[simp] theorem State.withPoison_cmds : (s.withPoison v).cmds = s.cmds := rfl
@[simp] theorem State.withPoison_nextCmd : (s.withPoison v).nextCmd = s.nextCmd := rfl
@[simp] theorem State.withPoison_passes : (s.withPoison v).passes = s.passes := rfl
@[simp] theorem State.withPoison_nextPass : (s.withPoison v).nextPass = s.nextPass := rfl
@[simp] theorem State.withPoison_models : (s.withPoison v).models = s.models := rfl
@[simp] theorem State.withPoison_deltas : (s.withPoison v).deltas = s.deltas := rfl
@[simp] theorem State.withPoison_loads : (s.withPoison v).loads = s.loads := rfl
@[simp] theorem State.withPoison_lastAdm : (s.withPoison v).lastAdm = s.lastAdm := rfl
@[simp] theorem State.withPoison_frames : (s.withPoison v).frames = s.frames := rfl
@[simp] theorem State.withPoison_chunks : (s.withPoison v).chunks = s.chunks := rfl
@[simp] theorem State.withPoison_freeLists : (s.withPoison v).freeLists = s.freeLists := rfl
@[simp] theorem State.withPoison_nodes : (s.withPoison v).nodes = s.nodes := rfl
@[simp] theorem State.withPoison_lru : (s.withPoison v).lru = s.lru := rfl
@[simp] theorem State.withPoison_heldFrames : (s.withPoison v).heldFrames = s.heldFrames := rfl
@[simp] theorem State.withPoison_scopesDead : (s.withPoison v).scopesDead = s.scopesDead := rfl
@[simp] theorem State.withPoison_spills : (s.withPoison v).spills = s.spills := rfl
@[simp] theorem State.withPoison_links : (s.withPoison v).links = s.links := rfl
@[simp] theorem State.withPoison_members : (s.withPoison v).members = s.members := rfl
@[simp] theorem State.withPoison_spares : (s.withPoison v).spares = s.spares := rfl
@[simp] theorem State.withPoison_cachePeers : (s.withPoison v).cachePeers = s.cachePeers := rfl
@[simp] theorem State.withPoison_routes : (s.withPoison v).routes = s.routes := rfl
@[simp] theorem State.withPoison_fabReqs : (s.withPoison v).fabReqs = s.fabReqs := rfl
@[simp] theorem State.withPoison_nextTid : (s.withPoison v).nextTid = s.nextTid := rfl
@[simp] theorem State.withPoison_windows : (s.withPoison v).windows = s.windows := rfl
@[simp] theorem State.withPoison_peers : (s.withPoison v).peers = s.peers := rfl
@[simp] theorem State.withPoison_move : (s.withPoison v).move = s.move := rfl
@[simp] theorem State.withPoison_rings : (s.withPoison v).rings = s.rings := rfl
@[simp] theorem State.withPoison_slices : (s.withPoison v).slices = s.slices := rfl
@[simp] theorem State.withPoison_groups : (s.withPoison v).groups = s.groups := rfl
@[simp] theorem State.withPoison_thaws : (s.withPoison v).thaws = s.thaws := rfl
@[simp] theorem State.withPoison_copies : (s.withPoison v).copies = s.copies := rfl
@[simp] theorem State.withPoison_heldCmds : (s.withPoison v).heldCmds = s.heldCmds := rfl
@[simp] theorem State.withPoison_coord : (s.withPoison v).coord = s.coord := rfl
@[simp] theorem State.withPoison_ctlWindow : (s.withPoison v).ctlWindow = s.ctlWindow := rfl
@[simp] theorem State.withPoison_ctlNeg : (s.withPoison v).ctlNeg = s.ctlNeg := rfl
@[simp] theorem State.withPoison_ctlNegPend : (s.withPoison v).ctlNegPend = s.ctlNegPend := rfl
@[simp] theorem State.withPoison_ctlAgreed : (s.withPoison v).ctlAgreed = s.ctlAgreed := rfl
@[simp] theorem State.withPoison_halves : (s.withPoison v).halves = s.halves := rfl
@[simp] theorem State.withPoison_ctlHb : (s.withPoison v).ctlHb = s.ctlHb := rfl
@[simp] theorem State.withPoison_events : (s.withPoison v).events = s.events := rfl
@[simp] theorem State.withPoison_procs : (s.withPoison v).procs = s.procs := rfl
@[simp] theorem State.withPoison_bring : (s.withPoison v).bring = s.bring := rfl
@[simp] theorem State.withPoison_sec : (s.withPoison v).sec = s.sec := rfl
@[simp] theorem State.withPoison_mgt : (s.withPoison v).mgt = s.mgt := rfl
@[simp] theorem State.withPoison_free : (s.withPoison v).free = s.free := rfl
@[simp] theorem State.withPoison_out : (s.withPoison v).out = s.out := rfl
@[simp] theorem State.rd_withPoison (f : Field) (i : Nat) : (s.withPoison v).rd f i = s.rd f i := rfl
end
section
variable (v : List (Nat × Bool))
@[simp] theorem State.withBadCopy_pending : (s.withBadCopy v).pending = s.pending := rfl
@[simp] theorem State.withBadCopy_regs : (s.withBadCopy v).regs = s.regs := rfl
@[simp] theorem State.withBadCopy_staged : (s.withBadCopy v).staged = s.staged := rfl
@[simp] theorem State.withBadCopy_mem : (s.withBadCopy v).mem = s.mem := rfl
@[simp] theorem State.withBadCopy_poison : (s.withBadCopy v).poison = s.poison := rfl
@[simp] theorem State.withBadCopy_lineKey : (s.withBadCopy v).lineKey = s.lineKey := rfl
@[simp] theorem State.withBadCopy_badCopy : (s.withBadCopy v).badCopy = v := rfl
@[simp] theorem State.withBadCopy_keys : (s.withBadCopy v).keys = s.keys := rfl
@[simp] theorem State.withBadCopy_hostMem : (s.withBadCopy v).hostMem = s.hostMem := rfl
@[simp] theorem State.withBadCopy_hostBad : (s.withBadCopy v).hostBad = s.hostBad := rfl
@[simp] theorem State.withBadCopy_time : (s.withBadCopy v).time = s.time := rfl
@[simp] theorem State.withBadCopy_parts : (s.withBadCopy v).parts = s.parts := rfl
@[simp] theorem State.withBadCopy_cores : (s.withBadCopy v).cores = s.cores := rfl
@[simp] theorem State.withBadCopy_phys : (s.withBadCopy v).phys = s.phys := rfl
@[simp] theorem State.withBadCopy_threads : (s.withBadCopy v).threads = s.threads := rfl
@[simp] theorem State.withBadCopy_jobs : (s.withBadCopy v).jobs = s.jobs := rfl
@[simp] theorem State.withBadCopy_spurs : (s.withBadCopy v).spurs = s.spurs := rfl
@[simp] theorem State.withBadCopy_dmas : (s.withBadCopy v).dmas = s.dmas := rfl
@[simp] theorem State.withBadCopy_nocReqs : (s.withBadCopy v).nocReqs = s.nocReqs := rfl
@[simp] theorem State.withBadCopy_devErrs : (s.withBadCopy v).devErrs = s.devErrs := rfl
@[simp] theorem State.withBadCopy_sramErrs : (s.withBadCopy v).sramErrs = s.sramErrs := rfl
@[simp] theorem State.withBadCopy_sramUe : (s.withBadCopy v).sramUe = s.sramUe := rfl
@[simp] theorem State.withBadCopy_planHdr : (s.withBadCopy v).planHdr = s.planHdr := rfl
@[simp] theorem State.withBadCopy_cells : (s.withBadCopy v).cells = s.cells := rfl
@[simp] theorem State.withBadCopy_subports : (s.withBadCopy v).subports = s.subports := rfl
@[simp] theorem State.withBadCopy_chains : (s.withBadCopy v).chains = s.chains := rfl
@[simp] theorem State.withBadCopy_fhBufs : (s.withBadCopy v).fhBufs = s.fhBufs := rfl
@[simp] theorem State.withBadCopy_seqs : (s.withBadCopy v).seqs = s.seqs := rfl
@[simp] theorem State.withBadCopy_cmds : (s.withBadCopy v).cmds = s.cmds := rfl
@[simp] theorem State.withBadCopy_nextCmd : (s.withBadCopy v).nextCmd = s.nextCmd := rfl
@[simp] theorem State.withBadCopy_passes : (s.withBadCopy v).passes = s.passes := rfl
@[simp] theorem State.withBadCopy_nextPass : (s.withBadCopy v).nextPass = s.nextPass := rfl
@[simp] theorem State.withBadCopy_models : (s.withBadCopy v).models = s.models := rfl
@[simp] theorem State.withBadCopy_deltas : (s.withBadCopy v).deltas = s.deltas := rfl
@[simp] theorem State.withBadCopy_loads : (s.withBadCopy v).loads = s.loads := rfl
@[simp] theorem State.withBadCopy_lastAdm : (s.withBadCopy v).lastAdm = s.lastAdm := rfl
@[simp] theorem State.withBadCopy_frames : (s.withBadCopy v).frames = s.frames := rfl
@[simp] theorem State.withBadCopy_chunks : (s.withBadCopy v).chunks = s.chunks := rfl
@[simp] theorem State.withBadCopy_freeLists : (s.withBadCopy v).freeLists = s.freeLists := rfl
@[simp] theorem State.withBadCopy_nodes : (s.withBadCopy v).nodes = s.nodes := rfl
@[simp] theorem State.withBadCopy_lru : (s.withBadCopy v).lru = s.lru := rfl
@[simp] theorem State.withBadCopy_heldFrames : (s.withBadCopy v).heldFrames = s.heldFrames := rfl
@[simp] theorem State.withBadCopy_scopesDead : (s.withBadCopy v).scopesDead = s.scopesDead := rfl
@[simp] theorem State.withBadCopy_spills : (s.withBadCopy v).spills = s.spills := rfl
@[simp] theorem State.withBadCopy_links : (s.withBadCopy v).links = s.links := rfl
@[simp] theorem State.withBadCopy_members : (s.withBadCopy v).members = s.members := rfl
@[simp] theorem State.withBadCopy_spares : (s.withBadCopy v).spares = s.spares := rfl
@[simp] theorem State.withBadCopy_cachePeers : (s.withBadCopy v).cachePeers = s.cachePeers := rfl
@[simp] theorem State.withBadCopy_routes : (s.withBadCopy v).routes = s.routes := rfl
@[simp] theorem State.withBadCopy_fabReqs : (s.withBadCopy v).fabReqs = s.fabReqs := rfl
@[simp] theorem State.withBadCopy_nextTid : (s.withBadCopy v).nextTid = s.nextTid := rfl
@[simp] theorem State.withBadCopy_windows : (s.withBadCopy v).windows = s.windows := rfl
@[simp] theorem State.withBadCopy_peers : (s.withBadCopy v).peers = s.peers := rfl
@[simp] theorem State.withBadCopy_move : (s.withBadCopy v).move = s.move := rfl
@[simp] theorem State.withBadCopy_rings : (s.withBadCopy v).rings = s.rings := rfl
@[simp] theorem State.withBadCopy_slices : (s.withBadCopy v).slices = s.slices := rfl
@[simp] theorem State.withBadCopy_groups : (s.withBadCopy v).groups = s.groups := rfl
@[simp] theorem State.withBadCopy_thaws : (s.withBadCopy v).thaws = s.thaws := rfl
@[simp] theorem State.withBadCopy_copies : (s.withBadCopy v).copies = s.copies := rfl
@[simp] theorem State.withBadCopy_heldCmds : (s.withBadCopy v).heldCmds = s.heldCmds := rfl
@[simp] theorem State.withBadCopy_coord : (s.withBadCopy v).coord = s.coord := rfl
@[simp] theorem State.withBadCopy_ctlWindow : (s.withBadCopy v).ctlWindow = s.ctlWindow := rfl
@[simp] theorem State.withBadCopy_ctlNeg : (s.withBadCopy v).ctlNeg = s.ctlNeg := rfl
@[simp] theorem State.withBadCopy_ctlNegPend : (s.withBadCopy v).ctlNegPend = s.ctlNegPend := rfl
@[simp] theorem State.withBadCopy_ctlAgreed : (s.withBadCopy v).ctlAgreed = s.ctlAgreed := rfl
@[simp] theorem State.withBadCopy_halves : (s.withBadCopy v).halves = s.halves := rfl
@[simp] theorem State.withBadCopy_ctlHb : (s.withBadCopy v).ctlHb = s.ctlHb := rfl
@[simp] theorem State.withBadCopy_events : (s.withBadCopy v).events = s.events := rfl
@[simp] theorem State.withBadCopy_procs : (s.withBadCopy v).procs = s.procs := rfl
@[simp] theorem State.withBadCopy_bring : (s.withBadCopy v).bring = s.bring := rfl
@[simp] theorem State.withBadCopy_sec : (s.withBadCopy v).sec = s.sec := rfl
@[simp] theorem State.withBadCopy_mgt : (s.withBadCopy v).mgt = s.mgt := rfl
@[simp] theorem State.withBadCopy_free : (s.withBadCopy v).free = s.free := rfl
@[simp] theorem State.withBadCopy_out : (s.withBadCopy v).out = s.out := rfl
@[simp] theorem State.rd_withBadCopy (f : Field) (i : Nat) : (s.withBadCopy v).rd f i = s.rd f i := rfl
end
section
variable (v : KMap (Nat × Nat))
@[simp] theorem State.withLineKey_pending : (s.withLineKey v).pending = s.pending := rfl
@[simp] theorem State.withLineKey_regs : (s.withLineKey v).regs = s.regs := rfl
@[simp] theorem State.withLineKey_staged : (s.withLineKey v).staged = s.staged := rfl
@[simp] theorem State.withLineKey_mem : (s.withLineKey v).mem = s.mem := rfl
@[simp] theorem State.withLineKey_poison : (s.withLineKey v).poison = s.poison := rfl
@[simp] theorem State.withLineKey_lineKey : (s.withLineKey v).lineKey = v := rfl
@[simp] theorem State.withLineKey_badCopy : (s.withLineKey v).badCopy = s.badCopy := rfl
@[simp] theorem State.withLineKey_keys : (s.withLineKey v).keys = s.keys := rfl
@[simp] theorem State.withLineKey_hostMem : (s.withLineKey v).hostMem = s.hostMem := rfl
@[simp] theorem State.withLineKey_hostBad : (s.withLineKey v).hostBad = s.hostBad := rfl
@[simp] theorem State.withLineKey_time : (s.withLineKey v).time = s.time := rfl
@[simp] theorem State.withLineKey_parts : (s.withLineKey v).parts = s.parts := rfl
@[simp] theorem State.withLineKey_cores : (s.withLineKey v).cores = s.cores := rfl
@[simp] theorem State.withLineKey_phys : (s.withLineKey v).phys = s.phys := rfl
@[simp] theorem State.withLineKey_threads : (s.withLineKey v).threads = s.threads := rfl
@[simp] theorem State.withLineKey_jobs : (s.withLineKey v).jobs = s.jobs := rfl
@[simp] theorem State.withLineKey_spurs : (s.withLineKey v).spurs = s.spurs := rfl
@[simp] theorem State.withLineKey_dmas : (s.withLineKey v).dmas = s.dmas := rfl
@[simp] theorem State.withLineKey_nocReqs : (s.withLineKey v).nocReqs = s.nocReqs := rfl
@[simp] theorem State.withLineKey_devErrs : (s.withLineKey v).devErrs = s.devErrs := rfl
@[simp] theorem State.withLineKey_sramErrs : (s.withLineKey v).sramErrs = s.sramErrs := rfl
@[simp] theorem State.withLineKey_sramUe : (s.withLineKey v).sramUe = s.sramUe := rfl
@[simp] theorem State.withLineKey_planHdr : (s.withLineKey v).planHdr = s.planHdr := rfl
@[simp] theorem State.withLineKey_cells : (s.withLineKey v).cells = s.cells := rfl
@[simp] theorem State.withLineKey_subports : (s.withLineKey v).subports = s.subports := rfl
@[simp] theorem State.withLineKey_chains : (s.withLineKey v).chains = s.chains := rfl
@[simp] theorem State.withLineKey_fhBufs : (s.withLineKey v).fhBufs = s.fhBufs := rfl
@[simp] theorem State.withLineKey_seqs : (s.withLineKey v).seqs = s.seqs := rfl
@[simp] theorem State.withLineKey_cmds : (s.withLineKey v).cmds = s.cmds := rfl
@[simp] theorem State.withLineKey_nextCmd : (s.withLineKey v).nextCmd = s.nextCmd := rfl
@[simp] theorem State.withLineKey_passes : (s.withLineKey v).passes = s.passes := rfl
@[simp] theorem State.withLineKey_nextPass : (s.withLineKey v).nextPass = s.nextPass := rfl
@[simp] theorem State.withLineKey_models : (s.withLineKey v).models = s.models := rfl
@[simp] theorem State.withLineKey_deltas : (s.withLineKey v).deltas = s.deltas := rfl
@[simp] theorem State.withLineKey_loads : (s.withLineKey v).loads = s.loads := rfl
@[simp] theorem State.withLineKey_lastAdm : (s.withLineKey v).lastAdm = s.lastAdm := rfl
@[simp] theorem State.withLineKey_frames : (s.withLineKey v).frames = s.frames := rfl
@[simp] theorem State.withLineKey_chunks : (s.withLineKey v).chunks = s.chunks := rfl
@[simp] theorem State.withLineKey_freeLists : (s.withLineKey v).freeLists = s.freeLists := rfl
@[simp] theorem State.withLineKey_nodes : (s.withLineKey v).nodes = s.nodes := rfl
@[simp] theorem State.withLineKey_lru : (s.withLineKey v).lru = s.lru := rfl
@[simp] theorem State.withLineKey_heldFrames : (s.withLineKey v).heldFrames = s.heldFrames := rfl
@[simp] theorem State.withLineKey_scopesDead : (s.withLineKey v).scopesDead = s.scopesDead := rfl
@[simp] theorem State.withLineKey_spills : (s.withLineKey v).spills = s.spills := rfl
@[simp] theorem State.withLineKey_links : (s.withLineKey v).links = s.links := rfl
@[simp] theorem State.withLineKey_members : (s.withLineKey v).members = s.members := rfl
@[simp] theorem State.withLineKey_spares : (s.withLineKey v).spares = s.spares := rfl
@[simp] theorem State.withLineKey_cachePeers : (s.withLineKey v).cachePeers = s.cachePeers := rfl
@[simp] theorem State.withLineKey_routes : (s.withLineKey v).routes = s.routes := rfl
@[simp] theorem State.withLineKey_fabReqs : (s.withLineKey v).fabReqs = s.fabReqs := rfl
@[simp] theorem State.withLineKey_nextTid : (s.withLineKey v).nextTid = s.nextTid := rfl
@[simp] theorem State.withLineKey_windows : (s.withLineKey v).windows = s.windows := rfl
@[simp] theorem State.withLineKey_peers : (s.withLineKey v).peers = s.peers := rfl
@[simp] theorem State.withLineKey_move : (s.withLineKey v).move = s.move := rfl
@[simp] theorem State.withLineKey_rings : (s.withLineKey v).rings = s.rings := rfl
@[simp] theorem State.withLineKey_slices : (s.withLineKey v).slices = s.slices := rfl
@[simp] theorem State.withLineKey_groups : (s.withLineKey v).groups = s.groups := rfl
@[simp] theorem State.withLineKey_thaws : (s.withLineKey v).thaws = s.thaws := rfl
@[simp] theorem State.withLineKey_copies : (s.withLineKey v).copies = s.copies := rfl
@[simp] theorem State.withLineKey_heldCmds : (s.withLineKey v).heldCmds = s.heldCmds := rfl
@[simp] theorem State.withLineKey_coord : (s.withLineKey v).coord = s.coord := rfl
@[simp] theorem State.withLineKey_ctlWindow : (s.withLineKey v).ctlWindow = s.ctlWindow := rfl
@[simp] theorem State.withLineKey_ctlNeg : (s.withLineKey v).ctlNeg = s.ctlNeg := rfl
@[simp] theorem State.withLineKey_ctlNegPend : (s.withLineKey v).ctlNegPend = s.ctlNegPend := rfl
@[simp] theorem State.withLineKey_ctlAgreed : (s.withLineKey v).ctlAgreed = s.ctlAgreed := rfl
@[simp] theorem State.withLineKey_halves : (s.withLineKey v).halves = s.halves := rfl
@[simp] theorem State.withLineKey_ctlHb : (s.withLineKey v).ctlHb = s.ctlHb := rfl
@[simp] theorem State.withLineKey_events : (s.withLineKey v).events = s.events := rfl
@[simp] theorem State.withLineKey_procs : (s.withLineKey v).procs = s.procs := rfl
@[simp] theorem State.withLineKey_bring : (s.withLineKey v).bring = s.bring := rfl
@[simp] theorem State.withLineKey_sec : (s.withLineKey v).sec = s.sec := rfl
@[simp] theorem State.withLineKey_mgt : (s.withLineKey v).mgt = s.mgt := rfl
@[simp] theorem State.withLineKey_free : (s.withLineKey v).free = s.free := rfl
@[simp] theorem State.withLineKey_out : (s.withLineKey v).out = s.out := rfl
@[simp] theorem State.rd_withLineKey (f : Field) (i : Nat) : (s.withLineKey v).rd f i = s.rd f i := rfl
end
section
variable (v : KMap KeySlot)
@[simp] theorem State.withKeys_pending : (s.withKeys v).pending = s.pending := rfl
@[simp] theorem State.withKeys_regs : (s.withKeys v).regs = s.regs := rfl
@[simp] theorem State.withKeys_staged : (s.withKeys v).staged = s.staged := rfl
@[simp] theorem State.withKeys_mem : (s.withKeys v).mem = s.mem := rfl
@[simp] theorem State.withKeys_poison : (s.withKeys v).poison = s.poison := rfl
@[simp] theorem State.withKeys_lineKey : (s.withKeys v).lineKey = s.lineKey := rfl
@[simp] theorem State.withKeys_badCopy : (s.withKeys v).badCopy = s.badCopy := rfl
@[simp] theorem State.withKeys_keys : (s.withKeys v).keys = v := rfl
@[simp] theorem State.withKeys_hostMem : (s.withKeys v).hostMem = s.hostMem := rfl
@[simp] theorem State.withKeys_hostBad : (s.withKeys v).hostBad = s.hostBad := rfl
@[simp] theorem State.withKeys_time : (s.withKeys v).time = s.time := rfl
@[simp] theorem State.withKeys_parts : (s.withKeys v).parts = s.parts := rfl
@[simp] theorem State.withKeys_cores : (s.withKeys v).cores = s.cores := rfl
@[simp] theorem State.withKeys_phys : (s.withKeys v).phys = s.phys := rfl
@[simp] theorem State.withKeys_threads : (s.withKeys v).threads = s.threads := rfl
@[simp] theorem State.withKeys_jobs : (s.withKeys v).jobs = s.jobs := rfl
@[simp] theorem State.withKeys_spurs : (s.withKeys v).spurs = s.spurs := rfl
@[simp] theorem State.withKeys_dmas : (s.withKeys v).dmas = s.dmas := rfl
@[simp] theorem State.withKeys_nocReqs : (s.withKeys v).nocReqs = s.nocReqs := rfl
@[simp] theorem State.withKeys_devErrs : (s.withKeys v).devErrs = s.devErrs := rfl
@[simp] theorem State.withKeys_sramErrs : (s.withKeys v).sramErrs = s.sramErrs := rfl
@[simp] theorem State.withKeys_sramUe : (s.withKeys v).sramUe = s.sramUe := rfl
@[simp] theorem State.withKeys_planHdr : (s.withKeys v).planHdr = s.planHdr := rfl
@[simp] theorem State.withKeys_cells : (s.withKeys v).cells = s.cells := rfl
@[simp] theorem State.withKeys_subports : (s.withKeys v).subports = s.subports := rfl
@[simp] theorem State.withKeys_chains : (s.withKeys v).chains = s.chains := rfl
@[simp] theorem State.withKeys_fhBufs : (s.withKeys v).fhBufs = s.fhBufs := rfl
@[simp] theorem State.withKeys_seqs : (s.withKeys v).seqs = s.seqs := rfl
@[simp] theorem State.withKeys_cmds : (s.withKeys v).cmds = s.cmds := rfl
@[simp] theorem State.withKeys_nextCmd : (s.withKeys v).nextCmd = s.nextCmd := rfl
@[simp] theorem State.withKeys_passes : (s.withKeys v).passes = s.passes := rfl
@[simp] theorem State.withKeys_nextPass : (s.withKeys v).nextPass = s.nextPass := rfl
@[simp] theorem State.withKeys_models : (s.withKeys v).models = s.models := rfl
@[simp] theorem State.withKeys_deltas : (s.withKeys v).deltas = s.deltas := rfl
@[simp] theorem State.withKeys_loads : (s.withKeys v).loads = s.loads := rfl
@[simp] theorem State.withKeys_lastAdm : (s.withKeys v).lastAdm = s.lastAdm := rfl
@[simp] theorem State.withKeys_frames : (s.withKeys v).frames = s.frames := rfl
@[simp] theorem State.withKeys_chunks : (s.withKeys v).chunks = s.chunks := rfl
@[simp] theorem State.withKeys_freeLists : (s.withKeys v).freeLists = s.freeLists := rfl
@[simp] theorem State.withKeys_nodes : (s.withKeys v).nodes = s.nodes := rfl
@[simp] theorem State.withKeys_lru : (s.withKeys v).lru = s.lru := rfl
@[simp] theorem State.withKeys_heldFrames : (s.withKeys v).heldFrames = s.heldFrames := rfl
@[simp] theorem State.withKeys_scopesDead : (s.withKeys v).scopesDead = s.scopesDead := rfl
@[simp] theorem State.withKeys_spills : (s.withKeys v).spills = s.spills := rfl
@[simp] theorem State.withKeys_links : (s.withKeys v).links = s.links := rfl
@[simp] theorem State.withKeys_members : (s.withKeys v).members = s.members := rfl
@[simp] theorem State.withKeys_spares : (s.withKeys v).spares = s.spares := rfl
@[simp] theorem State.withKeys_cachePeers : (s.withKeys v).cachePeers = s.cachePeers := rfl
@[simp] theorem State.withKeys_routes : (s.withKeys v).routes = s.routes := rfl
@[simp] theorem State.withKeys_fabReqs : (s.withKeys v).fabReqs = s.fabReqs := rfl
@[simp] theorem State.withKeys_nextTid : (s.withKeys v).nextTid = s.nextTid := rfl
@[simp] theorem State.withKeys_windows : (s.withKeys v).windows = s.windows := rfl
@[simp] theorem State.withKeys_peers : (s.withKeys v).peers = s.peers := rfl
@[simp] theorem State.withKeys_move : (s.withKeys v).move = s.move := rfl
@[simp] theorem State.withKeys_rings : (s.withKeys v).rings = s.rings := rfl
@[simp] theorem State.withKeys_slices : (s.withKeys v).slices = s.slices := rfl
@[simp] theorem State.withKeys_groups : (s.withKeys v).groups = s.groups := rfl
@[simp] theorem State.withKeys_thaws : (s.withKeys v).thaws = s.thaws := rfl
@[simp] theorem State.withKeys_copies : (s.withKeys v).copies = s.copies := rfl
@[simp] theorem State.withKeys_heldCmds : (s.withKeys v).heldCmds = s.heldCmds := rfl
@[simp] theorem State.withKeys_coord : (s.withKeys v).coord = s.coord := rfl
@[simp] theorem State.withKeys_ctlWindow : (s.withKeys v).ctlWindow = s.ctlWindow := rfl
@[simp] theorem State.withKeys_ctlNeg : (s.withKeys v).ctlNeg = s.ctlNeg := rfl
@[simp] theorem State.withKeys_ctlNegPend : (s.withKeys v).ctlNegPend = s.ctlNegPend := rfl
@[simp] theorem State.withKeys_ctlAgreed : (s.withKeys v).ctlAgreed = s.ctlAgreed := rfl
@[simp] theorem State.withKeys_halves : (s.withKeys v).halves = s.halves := rfl
@[simp] theorem State.withKeys_ctlHb : (s.withKeys v).ctlHb = s.ctlHb := rfl
@[simp] theorem State.withKeys_events : (s.withKeys v).events = s.events := rfl
@[simp] theorem State.withKeys_procs : (s.withKeys v).procs = s.procs := rfl
@[simp] theorem State.withKeys_bring : (s.withKeys v).bring = s.bring := rfl
@[simp] theorem State.withKeys_sec : (s.withKeys v).sec = s.sec := rfl
@[simp] theorem State.withKeys_mgt : (s.withKeys v).mgt = s.mgt := rfl
@[simp] theorem State.withKeys_free : (s.withKeys v).free = s.free := rfl
@[simp] theorem State.withKeys_out : (s.withKeys v).out = s.out := rfl
@[simp] theorem State.rd_withKeys (f : Field) (i : Nat) : (s.withKeys v).rd f i = s.rd f i := rfl
end
section
variable (v : List Host.Cell)
@[simp] theorem State.withHostMem_pending : (s.withHostMem v).pending = s.pending := rfl
@[simp] theorem State.withHostMem_regs : (s.withHostMem v).regs = s.regs := rfl
@[simp] theorem State.withHostMem_staged : (s.withHostMem v).staged = s.staged := rfl
@[simp] theorem State.withHostMem_mem : (s.withHostMem v).mem = s.mem := rfl
@[simp] theorem State.withHostMem_poison : (s.withHostMem v).poison = s.poison := rfl
@[simp] theorem State.withHostMem_lineKey : (s.withHostMem v).lineKey = s.lineKey := rfl
@[simp] theorem State.withHostMem_badCopy : (s.withHostMem v).badCopy = s.badCopy := rfl
@[simp] theorem State.withHostMem_keys : (s.withHostMem v).keys = s.keys := rfl
@[simp] theorem State.withHostMem_hostMem : (s.withHostMem v).hostMem = v := rfl
@[simp] theorem State.withHostMem_hostBad : (s.withHostMem v).hostBad = s.hostBad := rfl
@[simp] theorem State.withHostMem_time : (s.withHostMem v).time = s.time := rfl
@[simp] theorem State.withHostMem_parts : (s.withHostMem v).parts = s.parts := rfl
@[simp] theorem State.withHostMem_cores : (s.withHostMem v).cores = s.cores := rfl
@[simp] theorem State.withHostMem_phys : (s.withHostMem v).phys = s.phys := rfl
@[simp] theorem State.withHostMem_threads : (s.withHostMem v).threads = s.threads := rfl
@[simp] theorem State.withHostMem_jobs : (s.withHostMem v).jobs = s.jobs := rfl
@[simp] theorem State.withHostMem_spurs : (s.withHostMem v).spurs = s.spurs := rfl
@[simp] theorem State.withHostMem_dmas : (s.withHostMem v).dmas = s.dmas := rfl
@[simp] theorem State.withHostMem_nocReqs : (s.withHostMem v).nocReqs = s.nocReqs := rfl
@[simp] theorem State.withHostMem_devErrs : (s.withHostMem v).devErrs = s.devErrs := rfl
@[simp] theorem State.withHostMem_sramErrs : (s.withHostMem v).sramErrs = s.sramErrs := rfl
@[simp] theorem State.withHostMem_sramUe : (s.withHostMem v).sramUe = s.sramUe := rfl
@[simp] theorem State.withHostMem_planHdr : (s.withHostMem v).planHdr = s.planHdr := rfl
@[simp] theorem State.withHostMem_cells : (s.withHostMem v).cells = s.cells := rfl
@[simp] theorem State.withHostMem_subports : (s.withHostMem v).subports = s.subports := rfl
@[simp] theorem State.withHostMem_chains : (s.withHostMem v).chains = s.chains := rfl
@[simp] theorem State.withHostMem_fhBufs : (s.withHostMem v).fhBufs = s.fhBufs := rfl
@[simp] theorem State.withHostMem_seqs : (s.withHostMem v).seqs = s.seqs := rfl
@[simp] theorem State.withHostMem_cmds : (s.withHostMem v).cmds = s.cmds := rfl
@[simp] theorem State.withHostMem_nextCmd : (s.withHostMem v).nextCmd = s.nextCmd := rfl
@[simp] theorem State.withHostMem_passes : (s.withHostMem v).passes = s.passes := rfl
@[simp] theorem State.withHostMem_nextPass : (s.withHostMem v).nextPass = s.nextPass := rfl
@[simp] theorem State.withHostMem_models : (s.withHostMem v).models = s.models := rfl
@[simp] theorem State.withHostMem_deltas : (s.withHostMem v).deltas = s.deltas := rfl
@[simp] theorem State.withHostMem_loads : (s.withHostMem v).loads = s.loads := rfl
@[simp] theorem State.withHostMem_lastAdm : (s.withHostMem v).lastAdm = s.lastAdm := rfl
@[simp] theorem State.withHostMem_frames : (s.withHostMem v).frames = s.frames := rfl
@[simp] theorem State.withHostMem_chunks : (s.withHostMem v).chunks = s.chunks := rfl
@[simp] theorem State.withHostMem_freeLists : (s.withHostMem v).freeLists = s.freeLists := rfl
@[simp] theorem State.withHostMem_nodes : (s.withHostMem v).nodes = s.nodes := rfl
@[simp] theorem State.withHostMem_lru : (s.withHostMem v).lru = s.lru := rfl
@[simp] theorem State.withHostMem_heldFrames : (s.withHostMem v).heldFrames = s.heldFrames := rfl
@[simp] theorem State.withHostMem_scopesDead : (s.withHostMem v).scopesDead = s.scopesDead := rfl
@[simp] theorem State.withHostMem_spills : (s.withHostMem v).spills = s.spills := rfl
@[simp] theorem State.withHostMem_links : (s.withHostMem v).links = s.links := rfl
@[simp] theorem State.withHostMem_members : (s.withHostMem v).members = s.members := rfl
@[simp] theorem State.withHostMem_spares : (s.withHostMem v).spares = s.spares := rfl
@[simp] theorem State.withHostMem_cachePeers : (s.withHostMem v).cachePeers = s.cachePeers := rfl
@[simp] theorem State.withHostMem_routes : (s.withHostMem v).routes = s.routes := rfl
@[simp] theorem State.withHostMem_fabReqs : (s.withHostMem v).fabReqs = s.fabReqs := rfl
@[simp] theorem State.withHostMem_nextTid : (s.withHostMem v).nextTid = s.nextTid := rfl
@[simp] theorem State.withHostMem_windows : (s.withHostMem v).windows = s.windows := rfl
@[simp] theorem State.withHostMem_peers : (s.withHostMem v).peers = s.peers := rfl
@[simp] theorem State.withHostMem_move : (s.withHostMem v).move = s.move := rfl
@[simp] theorem State.withHostMem_rings : (s.withHostMem v).rings = s.rings := rfl
@[simp] theorem State.withHostMem_slices : (s.withHostMem v).slices = s.slices := rfl
@[simp] theorem State.withHostMem_groups : (s.withHostMem v).groups = s.groups := rfl
@[simp] theorem State.withHostMem_thaws : (s.withHostMem v).thaws = s.thaws := rfl
@[simp] theorem State.withHostMem_copies : (s.withHostMem v).copies = s.copies := rfl
@[simp] theorem State.withHostMem_heldCmds : (s.withHostMem v).heldCmds = s.heldCmds := rfl
@[simp] theorem State.withHostMem_coord : (s.withHostMem v).coord = s.coord := rfl
@[simp] theorem State.withHostMem_ctlWindow : (s.withHostMem v).ctlWindow = s.ctlWindow := rfl
@[simp] theorem State.withHostMem_ctlNeg : (s.withHostMem v).ctlNeg = s.ctlNeg := rfl
@[simp] theorem State.withHostMem_ctlNegPend : (s.withHostMem v).ctlNegPend = s.ctlNegPend := rfl
@[simp] theorem State.withHostMem_ctlAgreed : (s.withHostMem v).ctlAgreed = s.ctlAgreed := rfl
@[simp] theorem State.withHostMem_halves : (s.withHostMem v).halves = s.halves := rfl
@[simp] theorem State.withHostMem_ctlHb : (s.withHostMem v).ctlHb = s.ctlHb := rfl
@[simp] theorem State.withHostMem_events : (s.withHostMem v).events = s.events := rfl
@[simp] theorem State.withHostMem_procs : (s.withHostMem v).procs = s.procs := rfl
@[simp] theorem State.withHostMem_bring : (s.withHostMem v).bring = s.bring := rfl
@[simp] theorem State.withHostMem_sec : (s.withHostMem v).sec = s.sec := rfl
@[simp] theorem State.withHostMem_mgt : (s.withHostMem v).mgt = s.mgt := rfl
@[simp] theorem State.withHostMem_free : (s.withHostMem v).free = s.free := rfl
@[simp] theorem State.withHostMem_out : (s.withHostMem v).out = s.out := rfl
@[simp] theorem State.rd_withHostMem (f : Field) (i : Nat) : (s.withHostMem v).rd f i = s.rd f i := rfl
end
section
variable (v : TimeState)
@[simp] theorem State.withTime_pending : (s.withTime v).pending = s.pending := rfl
@[simp] theorem State.withTime_regs : (s.withTime v).regs = s.regs := rfl
@[simp] theorem State.withTime_staged : (s.withTime v).staged = s.staged := rfl
@[simp] theorem State.withTime_mem : (s.withTime v).mem = s.mem := rfl
@[simp] theorem State.withTime_poison : (s.withTime v).poison = s.poison := rfl
@[simp] theorem State.withTime_lineKey : (s.withTime v).lineKey = s.lineKey := rfl
@[simp] theorem State.withTime_badCopy : (s.withTime v).badCopy = s.badCopy := rfl
@[simp] theorem State.withTime_keys : (s.withTime v).keys = s.keys := rfl
@[simp] theorem State.withTime_hostMem : (s.withTime v).hostMem = s.hostMem := rfl
@[simp] theorem State.withTime_hostBad : (s.withTime v).hostBad = s.hostBad := rfl
@[simp] theorem State.withTime_time : (s.withTime v).time = v := rfl
@[simp] theorem State.withTime_parts : (s.withTime v).parts = s.parts := rfl
@[simp] theorem State.withTime_cores : (s.withTime v).cores = s.cores := rfl
@[simp] theorem State.withTime_phys : (s.withTime v).phys = s.phys := rfl
@[simp] theorem State.withTime_threads : (s.withTime v).threads = s.threads := rfl
@[simp] theorem State.withTime_jobs : (s.withTime v).jobs = s.jobs := rfl
@[simp] theorem State.withTime_spurs : (s.withTime v).spurs = s.spurs := rfl
@[simp] theorem State.withTime_dmas : (s.withTime v).dmas = s.dmas := rfl
@[simp] theorem State.withTime_nocReqs : (s.withTime v).nocReqs = s.nocReqs := rfl
@[simp] theorem State.withTime_devErrs : (s.withTime v).devErrs = s.devErrs := rfl
@[simp] theorem State.withTime_sramErrs : (s.withTime v).sramErrs = s.sramErrs := rfl
@[simp] theorem State.withTime_sramUe : (s.withTime v).sramUe = s.sramUe := rfl
@[simp] theorem State.withTime_planHdr : (s.withTime v).planHdr = s.planHdr := rfl
@[simp] theorem State.withTime_cells : (s.withTime v).cells = s.cells := rfl
@[simp] theorem State.withTime_subports : (s.withTime v).subports = s.subports := rfl
@[simp] theorem State.withTime_chains : (s.withTime v).chains = s.chains := rfl
@[simp] theorem State.withTime_fhBufs : (s.withTime v).fhBufs = s.fhBufs := rfl
@[simp] theorem State.withTime_seqs : (s.withTime v).seqs = s.seqs := rfl
@[simp] theorem State.withTime_cmds : (s.withTime v).cmds = s.cmds := rfl
@[simp] theorem State.withTime_nextCmd : (s.withTime v).nextCmd = s.nextCmd := rfl
@[simp] theorem State.withTime_passes : (s.withTime v).passes = s.passes := rfl
@[simp] theorem State.withTime_nextPass : (s.withTime v).nextPass = s.nextPass := rfl
@[simp] theorem State.withTime_models : (s.withTime v).models = s.models := rfl
@[simp] theorem State.withTime_deltas : (s.withTime v).deltas = s.deltas := rfl
@[simp] theorem State.withTime_loads : (s.withTime v).loads = s.loads := rfl
@[simp] theorem State.withTime_lastAdm : (s.withTime v).lastAdm = s.lastAdm := rfl
@[simp] theorem State.withTime_frames : (s.withTime v).frames = s.frames := rfl
@[simp] theorem State.withTime_chunks : (s.withTime v).chunks = s.chunks := rfl
@[simp] theorem State.withTime_freeLists : (s.withTime v).freeLists = s.freeLists := rfl
@[simp] theorem State.withTime_nodes : (s.withTime v).nodes = s.nodes := rfl
@[simp] theorem State.withTime_lru : (s.withTime v).lru = s.lru := rfl
@[simp] theorem State.withTime_heldFrames : (s.withTime v).heldFrames = s.heldFrames := rfl
@[simp] theorem State.withTime_scopesDead : (s.withTime v).scopesDead = s.scopesDead := rfl
@[simp] theorem State.withTime_spills : (s.withTime v).spills = s.spills := rfl
@[simp] theorem State.withTime_links : (s.withTime v).links = s.links := rfl
@[simp] theorem State.withTime_members : (s.withTime v).members = s.members := rfl
@[simp] theorem State.withTime_spares : (s.withTime v).spares = s.spares := rfl
@[simp] theorem State.withTime_cachePeers : (s.withTime v).cachePeers = s.cachePeers := rfl
@[simp] theorem State.withTime_routes : (s.withTime v).routes = s.routes := rfl
@[simp] theorem State.withTime_fabReqs : (s.withTime v).fabReqs = s.fabReqs := rfl
@[simp] theorem State.withTime_nextTid : (s.withTime v).nextTid = s.nextTid := rfl
@[simp] theorem State.withTime_windows : (s.withTime v).windows = s.windows := rfl
@[simp] theorem State.withTime_peers : (s.withTime v).peers = s.peers := rfl
@[simp] theorem State.withTime_move : (s.withTime v).move = s.move := rfl
@[simp] theorem State.withTime_rings : (s.withTime v).rings = s.rings := rfl
@[simp] theorem State.withTime_slices : (s.withTime v).slices = s.slices := rfl
@[simp] theorem State.withTime_groups : (s.withTime v).groups = s.groups := rfl
@[simp] theorem State.withTime_thaws : (s.withTime v).thaws = s.thaws := rfl
@[simp] theorem State.withTime_copies : (s.withTime v).copies = s.copies := rfl
@[simp] theorem State.withTime_heldCmds : (s.withTime v).heldCmds = s.heldCmds := rfl
@[simp] theorem State.withTime_coord : (s.withTime v).coord = s.coord := rfl
@[simp] theorem State.withTime_ctlWindow : (s.withTime v).ctlWindow = s.ctlWindow := rfl
@[simp] theorem State.withTime_ctlNeg : (s.withTime v).ctlNeg = s.ctlNeg := rfl
@[simp] theorem State.withTime_ctlNegPend : (s.withTime v).ctlNegPend = s.ctlNegPend := rfl
@[simp] theorem State.withTime_ctlAgreed : (s.withTime v).ctlAgreed = s.ctlAgreed := rfl
@[simp] theorem State.withTime_halves : (s.withTime v).halves = s.halves := rfl
@[simp] theorem State.withTime_ctlHb : (s.withTime v).ctlHb = s.ctlHb := rfl
@[simp] theorem State.withTime_events : (s.withTime v).events = s.events := rfl
@[simp] theorem State.withTime_procs : (s.withTime v).procs = s.procs := rfl
@[simp] theorem State.withTime_bring : (s.withTime v).bring = s.bring := rfl
@[simp] theorem State.withTime_sec : (s.withTime v).sec = s.sec := rfl
@[simp] theorem State.withTime_mgt : (s.withTime v).mgt = s.mgt := rfl
@[simp] theorem State.withTime_free : (s.withTime v).free = s.free := rfl
@[simp] theorem State.withTime_out : (s.withTime v).out = s.out := rfl
@[simp] theorem State.rd_withTime (f : Field) (i : Nat) : (s.withTime v).rd f i = s.rd f i := rfl
end
section
variable (v : KMap Part)
@[simp] theorem State.withParts_pending : (s.withParts v).pending = s.pending := rfl
@[simp] theorem State.withParts_regs : (s.withParts v).regs = s.regs := rfl
@[simp] theorem State.withParts_staged : (s.withParts v).staged = s.staged := rfl
@[simp] theorem State.withParts_mem : (s.withParts v).mem = s.mem := rfl
@[simp] theorem State.withParts_poison : (s.withParts v).poison = s.poison := rfl
@[simp] theorem State.withParts_lineKey : (s.withParts v).lineKey = s.lineKey := rfl
@[simp] theorem State.withParts_badCopy : (s.withParts v).badCopy = s.badCopy := rfl
@[simp] theorem State.withParts_keys : (s.withParts v).keys = s.keys := rfl
@[simp] theorem State.withParts_hostMem : (s.withParts v).hostMem = s.hostMem := rfl
@[simp] theorem State.withParts_hostBad : (s.withParts v).hostBad = s.hostBad := rfl
@[simp] theorem State.withParts_time : (s.withParts v).time = s.time := rfl
@[simp] theorem State.withParts_parts : (s.withParts v).parts = v := rfl
@[simp] theorem State.withParts_cores : (s.withParts v).cores = s.cores := rfl
@[simp] theorem State.withParts_phys : (s.withParts v).phys = s.phys := rfl
@[simp] theorem State.withParts_threads : (s.withParts v).threads = s.threads := rfl
@[simp] theorem State.withParts_jobs : (s.withParts v).jobs = s.jobs := rfl
@[simp] theorem State.withParts_spurs : (s.withParts v).spurs = s.spurs := rfl
@[simp] theorem State.withParts_dmas : (s.withParts v).dmas = s.dmas := rfl
@[simp] theorem State.withParts_nocReqs : (s.withParts v).nocReqs = s.nocReqs := rfl
@[simp] theorem State.withParts_devErrs : (s.withParts v).devErrs = s.devErrs := rfl
@[simp] theorem State.withParts_sramErrs : (s.withParts v).sramErrs = s.sramErrs := rfl
@[simp] theorem State.withParts_sramUe : (s.withParts v).sramUe = s.sramUe := rfl
@[simp] theorem State.withParts_planHdr : (s.withParts v).planHdr = s.planHdr := rfl
@[simp] theorem State.withParts_cells : (s.withParts v).cells = s.cells := rfl
@[simp] theorem State.withParts_subports : (s.withParts v).subports = s.subports := rfl
@[simp] theorem State.withParts_chains : (s.withParts v).chains = s.chains := rfl
@[simp] theorem State.withParts_fhBufs : (s.withParts v).fhBufs = s.fhBufs := rfl
@[simp] theorem State.withParts_seqs : (s.withParts v).seqs = s.seqs := rfl
@[simp] theorem State.withParts_cmds : (s.withParts v).cmds = s.cmds := rfl
@[simp] theorem State.withParts_nextCmd : (s.withParts v).nextCmd = s.nextCmd := rfl
@[simp] theorem State.withParts_passes : (s.withParts v).passes = s.passes := rfl
@[simp] theorem State.withParts_nextPass : (s.withParts v).nextPass = s.nextPass := rfl
@[simp] theorem State.withParts_models : (s.withParts v).models = s.models := rfl
@[simp] theorem State.withParts_deltas : (s.withParts v).deltas = s.deltas := rfl
@[simp] theorem State.withParts_loads : (s.withParts v).loads = s.loads := rfl
@[simp] theorem State.withParts_lastAdm : (s.withParts v).lastAdm = s.lastAdm := rfl
@[simp] theorem State.withParts_frames : (s.withParts v).frames = s.frames := rfl
@[simp] theorem State.withParts_chunks : (s.withParts v).chunks = s.chunks := rfl
@[simp] theorem State.withParts_freeLists : (s.withParts v).freeLists = s.freeLists := rfl
@[simp] theorem State.withParts_nodes : (s.withParts v).nodes = s.nodes := rfl
@[simp] theorem State.withParts_lru : (s.withParts v).lru = s.lru := rfl
@[simp] theorem State.withParts_heldFrames : (s.withParts v).heldFrames = s.heldFrames := rfl
@[simp] theorem State.withParts_scopesDead : (s.withParts v).scopesDead = s.scopesDead := rfl
@[simp] theorem State.withParts_spills : (s.withParts v).spills = s.spills := rfl
@[simp] theorem State.withParts_links : (s.withParts v).links = s.links := rfl
@[simp] theorem State.withParts_members : (s.withParts v).members = s.members := rfl
@[simp] theorem State.withParts_spares : (s.withParts v).spares = s.spares := rfl
@[simp] theorem State.withParts_cachePeers : (s.withParts v).cachePeers = s.cachePeers := rfl
@[simp] theorem State.withParts_routes : (s.withParts v).routes = s.routes := rfl
@[simp] theorem State.withParts_fabReqs : (s.withParts v).fabReqs = s.fabReqs := rfl
@[simp] theorem State.withParts_nextTid : (s.withParts v).nextTid = s.nextTid := rfl
@[simp] theorem State.withParts_windows : (s.withParts v).windows = s.windows := rfl
@[simp] theorem State.withParts_peers : (s.withParts v).peers = s.peers := rfl
@[simp] theorem State.withParts_move : (s.withParts v).move = s.move := rfl
@[simp] theorem State.withParts_rings : (s.withParts v).rings = s.rings := rfl
@[simp] theorem State.withParts_slices : (s.withParts v).slices = s.slices := rfl
@[simp] theorem State.withParts_groups : (s.withParts v).groups = s.groups := rfl
@[simp] theorem State.withParts_thaws : (s.withParts v).thaws = s.thaws := rfl
@[simp] theorem State.withParts_copies : (s.withParts v).copies = s.copies := rfl
@[simp] theorem State.withParts_heldCmds : (s.withParts v).heldCmds = s.heldCmds := rfl
@[simp] theorem State.withParts_coord : (s.withParts v).coord = s.coord := rfl
@[simp] theorem State.withParts_ctlWindow : (s.withParts v).ctlWindow = s.ctlWindow := rfl
@[simp] theorem State.withParts_ctlNeg : (s.withParts v).ctlNeg = s.ctlNeg := rfl
@[simp] theorem State.withParts_ctlNegPend : (s.withParts v).ctlNegPend = s.ctlNegPend := rfl
@[simp] theorem State.withParts_ctlAgreed : (s.withParts v).ctlAgreed = s.ctlAgreed := rfl
@[simp] theorem State.withParts_halves : (s.withParts v).halves = s.halves := rfl
@[simp] theorem State.withParts_ctlHb : (s.withParts v).ctlHb = s.ctlHb := rfl
@[simp] theorem State.withParts_events : (s.withParts v).events = s.events := rfl
@[simp] theorem State.withParts_procs : (s.withParts v).procs = s.procs := rfl
@[simp] theorem State.withParts_bring : (s.withParts v).bring = s.bring := rfl
@[simp] theorem State.withParts_sec : (s.withParts v).sec = s.sec := rfl
@[simp] theorem State.withParts_mgt : (s.withParts v).mgt = s.mgt := rfl
@[simp] theorem State.withParts_free : (s.withParts v).free = s.free := rfl
@[simp] theorem State.withParts_out : (s.withParts v).out = s.out := rfl
@[simp] theorem State.rd_withParts (f : Field) (i : Nat) : (s.withParts v).rd f i = s.rd f i := rfl
end
section
variable (v : KMap Core)
@[simp] theorem State.withCores_pending : (s.withCores v).pending = s.pending := rfl
@[simp] theorem State.withCores_regs : (s.withCores v).regs = s.regs := rfl
@[simp] theorem State.withCores_staged : (s.withCores v).staged = s.staged := rfl
@[simp] theorem State.withCores_mem : (s.withCores v).mem = s.mem := rfl
@[simp] theorem State.withCores_poison : (s.withCores v).poison = s.poison := rfl
@[simp] theorem State.withCores_lineKey : (s.withCores v).lineKey = s.lineKey := rfl
@[simp] theorem State.withCores_badCopy : (s.withCores v).badCopy = s.badCopy := rfl
@[simp] theorem State.withCores_keys : (s.withCores v).keys = s.keys := rfl
@[simp] theorem State.withCores_hostMem : (s.withCores v).hostMem = s.hostMem := rfl
@[simp] theorem State.withCores_hostBad : (s.withCores v).hostBad = s.hostBad := rfl
@[simp] theorem State.withCores_time : (s.withCores v).time = s.time := rfl
@[simp] theorem State.withCores_parts : (s.withCores v).parts = s.parts := rfl
@[simp] theorem State.withCores_cores : (s.withCores v).cores = v := rfl
@[simp] theorem State.withCores_phys : (s.withCores v).phys = s.phys := rfl
@[simp] theorem State.withCores_threads : (s.withCores v).threads = s.threads := rfl
@[simp] theorem State.withCores_jobs : (s.withCores v).jobs = s.jobs := rfl
@[simp] theorem State.withCores_spurs : (s.withCores v).spurs = s.spurs := rfl
@[simp] theorem State.withCores_dmas : (s.withCores v).dmas = s.dmas := rfl
@[simp] theorem State.withCores_nocReqs : (s.withCores v).nocReqs = s.nocReqs := rfl
@[simp] theorem State.withCores_devErrs : (s.withCores v).devErrs = s.devErrs := rfl
@[simp] theorem State.withCores_sramErrs : (s.withCores v).sramErrs = s.sramErrs := rfl
@[simp] theorem State.withCores_sramUe : (s.withCores v).sramUe = s.sramUe := rfl
@[simp] theorem State.withCores_planHdr : (s.withCores v).planHdr = s.planHdr := rfl
@[simp] theorem State.withCores_cells : (s.withCores v).cells = s.cells := rfl
@[simp] theorem State.withCores_subports : (s.withCores v).subports = s.subports := rfl
@[simp] theorem State.withCores_chains : (s.withCores v).chains = s.chains := rfl
@[simp] theorem State.withCores_fhBufs : (s.withCores v).fhBufs = s.fhBufs := rfl
@[simp] theorem State.withCores_seqs : (s.withCores v).seqs = s.seqs := rfl
@[simp] theorem State.withCores_cmds : (s.withCores v).cmds = s.cmds := rfl
@[simp] theorem State.withCores_nextCmd : (s.withCores v).nextCmd = s.nextCmd := rfl
@[simp] theorem State.withCores_passes : (s.withCores v).passes = s.passes := rfl
@[simp] theorem State.withCores_nextPass : (s.withCores v).nextPass = s.nextPass := rfl
@[simp] theorem State.withCores_models : (s.withCores v).models = s.models := rfl
@[simp] theorem State.withCores_deltas : (s.withCores v).deltas = s.deltas := rfl
@[simp] theorem State.withCores_loads : (s.withCores v).loads = s.loads := rfl
@[simp] theorem State.withCores_lastAdm : (s.withCores v).lastAdm = s.lastAdm := rfl
@[simp] theorem State.withCores_frames : (s.withCores v).frames = s.frames := rfl
@[simp] theorem State.withCores_chunks : (s.withCores v).chunks = s.chunks := rfl
@[simp] theorem State.withCores_freeLists : (s.withCores v).freeLists = s.freeLists := rfl
@[simp] theorem State.withCores_nodes : (s.withCores v).nodes = s.nodes := rfl
@[simp] theorem State.withCores_lru : (s.withCores v).lru = s.lru := rfl
@[simp] theorem State.withCores_heldFrames : (s.withCores v).heldFrames = s.heldFrames := rfl
@[simp] theorem State.withCores_scopesDead : (s.withCores v).scopesDead = s.scopesDead := rfl
@[simp] theorem State.withCores_spills : (s.withCores v).spills = s.spills := rfl
@[simp] theorem State.withCores_links : (s.withCores v).links = s.links := rfl
@[simp] theorem State.withCores_members : (s.withCores v).members = s.members := rfl
@[simp] theorem State.withCores_spares : (s.withCores v).spares = s.spares := rfl
@[simp] theorem State.withCores_cachePeers : (s.withCores v).cachePeers = s.cachePeers := rfl
@[simp] theorem State.withCores_routes : (s.withCores v).routes = s.routes := rfl
@[simp] theorem State.withCores_fabReqs : (s.withCores v).fabReqs = s.fabReqs := rfl
@[simp] theorem State.withCores_nextTid : (s.withCores v).nextTid = s.nextTid := rfl
@[simp] theorem State.withCores_windows : (s.withCores v).windows = s.windows := rfl
@[simp] theorem State.withCores_peers : (s.withCores v).peers = s.peers := rfl
@[simp] theorem State.withCores_move : (s.withCores v).move = s.move := rfl
@[simp] theorem State.withCores_rings : (s.withCores v).rings = s.rings := rfl
@[simp] theorem State.withCores_slices : (s.withCores v).slices = s.slices := rfl
@[simp] theorem State.withCores_groups : (s.withCores v).groups = s.groups := rfl
@[simp] theorem State.withCores_thaws : (s.withCores v).thaws = s.thaws := rfl
@[simp] theorem State.withCores_copies : (s.withCores v).copies = s.copies := rfl
@[simp] theorem State.withCores_heldCmds : (s.withCores v).heldCmds = s.heldCmds := rfl
@[simp] theorem State.withCores_coord : (s.withCores v).coord = s.coord := rfl
@[simp] theorem State.withCores_ctlWindow : (s.withCores v).ctlWindow = s.ctlWindow := rfl
@[simp] theorem State.withCores_ctlNeg : (s.withCores v).ctlNeg = s.ctlNeg := rfl
@[simp] theorem State.withCores_ctlNegPend : (s.withCores v).ctlNegPend = s.ctlNegPend := rfl
@[simp] theorem State.withCores_ctlAgreed : (s.withCores v).ctlAgreed = s.ctlAgreed := rfl
@[simp] theorem State.withCores_halves : (s.withCores v).halves = s.halves := rfl
@[simp] theorem State.withCores_ctlHb : (s.withCores v).ctlHb = s.ctlHb := rfl
@[simp] theorem State.withCores_events : (s.withCores v).events = s.events := rfl
@[simp] theorem State.withCores_procs : (s.withCores v).procs = s.procs := rfl
@[simp] theorem State.withCores_bring : (s.withCores v).bring = s.bring := rfl
@[simp] theorem State.withCores_sec : (s.withCores v).sec = s.sec := rfl
@[simp] theorem State.withCores_mgt : (s.withCores v).mgt = s.mgt := rfl
@[simp] theorem State.withCores_free : (s.withCores v).free = s.free := rfl
@[simp] theorem State.withCores_out : (s.withCores v).out = s.out := rfl
@[simp] theorem State.rd_withCores (f : Field) (i : Nat) : (s.withCores v).rd f i = s.rd f i := rfl
end
section
variable (v : KMap Phys)
@[simp] theorem State.withPhys_pending : (s.withPhys v).pending = s.pending := rfl
@[simp] theorem State.withPhys_regs : (s.withPhys v).regs = s.regs := rfl
@[simp] theorem State.withPhys_staged : (s.withPhys v).staged = s.staged := rfl
@[simp] theorem State.withPhys_mem : (s.withPhys v).mem = s.mem := rfl
@[simp] theorem State.withPhys_poison : (s.withPhys v).poison = s.poison := rfl
@[simp] theorem State.withPhys_lineKey : (s.withPhys v).lineKey = s.lineKey := rfl
@[simp] theorem State.withPhys_badCopy : (s.withPhys v).badCopy = s.badCopy := rfl
@[simp] theorem State.withPhys_keys : (s.withPhys v).keys = s.keys := rfl
@[simp] theorem State.withPhys_hostMem : (s.withPhys v).hostMem = s.hostMem := rfl
@[simp] theorem State.withPhys_hostBad : (s.withPhys v).hostBad = s.hostBad := rfl
@[simp] theorem State.withPhys_time : (s.withPhys v).time = s.time := rfl
@[simp] theorem State.withPhys_parts : (s.withPhys v).parts = s.parts := rfl
@[simp] theorem State.withPhys_cores : (s.withPhys v).cores = s.cores := rfl
@[simp] theorem State.withPhys_phys : (s.withPhys v).phys = v := rfl
@[simp] theorem State.withPhys_threads : (s.withPhys v).threads = s.threads := rfl
@[simp] theorem State.withPhys_jobs : (s.withPhys v).jobs = s.jobs := rfl
@[simp] theorem State.withPhys_spurs : (s.withPhys v).spurs = s.spurs := rfl
@[simp] theorem State.withPhys_dmas : (s.withPhys v).dmas = s.dmas := rfl
@[simp] theorem State.withPhys_nocReqs : (s.withPhys v).nocReqs = s.nocReqs := rfl
@[simp] theorem State.withPhys_devErrs : (s.withPhys v).devErrs = s.devErrs := rfl
@[simp] theorem State.withPhys_sramErrs : (s.withPhys v).sramErrs = s.sramErrs := rfl
@[simp] theorem State.withPhys_sramUe : (s.withPhys v).sramUe = s.sramUe := rfl
@[simp] theorem State.withPhys_planHdr : (s.withPhys v).planHdr = s.planHdr := rfl
@[simp] theorem State.withPhys_cells : (s.withPhys v).cells = s.cells := rfl
@[simp] theorem State.withPhys_subports : (s.withPhys v).subports = s.subports := rfl
@[simp] theorem State.withPhys_chains : (s.withPhys v).chains = s.chains := rfl
@[simp] theorem State.withPhys_fhBufs : (s.withPhys v).fhBufs = s.fhBufs := rfl
@[simp] theorem State.withPhys_seqs : (s.withPhys v).seqs = s.seqs := rfl
@[simp] theorem State.withPhys_cmds : (s.withPhys v).cmds = s.cmds := rfl
@[simp] theorem State.withPhys_nextCmd : (s.withPhys v).nextCmd = s.nextCmd := rfl
@[simp] theorem State.withPhys_passes : (s.withPhys v).passes = s.passes := rfl
@[simp] theorem State.withPhys_nextPass : (s.withPhys v).nextPass = s.nextPass := rfl
@[simp] theorem State.withPhys_models : (s.withPhys v).models = s.models := rfl
@[simp] theorem State.withPhys_deltas : (s.withPhys v).deltas = s.deltas := rfl
@[simp] theorem State.withPhys_loads : (s.withPhys v).loads = s.loads := rfl
@[simp] theorem State.withPhys_lastAdm : (s.withPhys v).lastAdm = s.lastAdm := rfl
@[simp] theorem State.withPhys_frames : (s.withPhys v).frames = s.frames := rfl
@[simp] theorem State.withPhys_chunks : (s.withPhys v).chunks = s.chunks := rfl
@[simp] theorem State.withPhys_freeLists : (s.withPhys v).freeLists = s.freeLists := rfl
@[simp] theorem State.withPhys_nodes : (s.withPhys v).nodes = s.nodes := rfl
@[simp] theorem State.withPhys_lru : (s.withPhys v).lru = s.lru := rfl
@[simp] theorem State.withPhys_heldFrames : (s.withPhys v).heldFrames = s.heldFrames := rfl
@[simp] theorem State.withPhys_scopesDead : (s.withPhys v).scopesDead = s.scopesDead := rfl
@[simp] theorem State.withPhys_spills : (s.withPhys v).spills = s.spills := rfl
@[simp] theorem State.withPhys_links : (s.withPhys v).links = s.links := rfl
@[simp] theorem State.withPhys_members : (s.withPhys v).members = s.members := rfl
@[simp] theorem State.withPhys_spares : (s.withPhys v).spares = s.spares := rfl
@[simp] theorem State.withPhys_cachePeers : (s.withPhys v).cachePeers = s.cachePeers := rfl
@[simp] theorem State.withPhys_routes : (s.withPhys v).routes = s.routes := rfl
@[simp] theorem State.withPhys_fabReqs : (s.withPhys v).fabReqs = s.fabReqs := rfl
@[simp] theorem State.withPhys_nextTid : (s.withPhys v).nextTid = s.nextTid := rfl
@[simp] theorem State.withPhys_windows : (s.withPhys v).windows = s.windows := rfl
@[simp] theorem State.withPhys_peers : (s.withPhys v).peers = s.peers := rfl
@[simp] theorem State.withPhys_move : (s.withPhys v).move = s.move := rfl
@[simp] theorem State.withPhys_rings : (s.withPhys v).rings = s.rings := rfl
@[simp] theorem State.withPhys_slices : (s.withPhys v).slices = s.slices := rfl
@[simp] theorem State.withPhys_groups : (s.withPhys v).groups = s.groups := rfl
@[simp] theorem State.withPhys_thaws : (s.withPhys v).thaws = s.thaws := rfl
@[simp] theorem State.withPhys_copies : (s.withPhys v).copies = s.copies := rfl
@[simp] theorem State.withPhys_heldCmds : (s.withPhys v).heldCmds = s.heldCmds := rfl
@[simp] theorem State.withPhys_coord : (s.withPhys v).coord = s.coord := rfl
@[simp] theorem State.withPhys_ctlWindow : (s.withPhys v).ctlWindow = s.ctlWindow := rfl
@[simp] theorem State.withPhys_ctlNeg : (s.withPhys v).ctlNeg = s.ctlNeg := rfl
@[simp] theorem State.withPhys_ctlNegPend : (s.withPhys v).ctlNegPend = s.ctlNegPend := rfl
@[simp] theorem State.withPhys_ctlAgreed : (s.withPhys v).ctlAgreed = s.ctlAgreed := rfl
@[simp] theorem State.withPhys_halves : (s.withPhys v).halves = s.halves := rfl
@[simp] theorem State.withPhys_ctlHb : (s.withPhys v).ctlHb = s.ctlHb := rfl
@[simp] theorem State.withPhys_events : (s.withPhys v).events = s.events := rfl
@[simp] theorem State.withPhys_procs : (s.withPhys v).procs = s.procs := rfl
@[simp] theorem State.withPhys_bring : (s.withPhys v).bring = s.bring := rfl
@[simp] theorem State.withPhys_sec : (s.withPhys v).sec = s.sec := rfl
@[simp] theorem State.withPhys_mgt : (s.withPhys v).mgt = s.mgt := rfl
@[simp] theorem State.withPhys_free : (s.withPhys v).free = s.free := rfl
@[simp] theorem State.withPhys_out : (s.withPhys v).out = s.out := rfl
@[simp] theorem State.rd_withPhys (f : Field) (i : Nat) : (s.withPhys v).rd f i = s.rd f i := rfl
end
section
variable (v : KMap Thread)
@[simp] theorem State.withThreads_pending : (s.withThreads v).pending = s.pending := rfl
@[simp] theorem State.withThreads_regs : (s.withThreads v).regs = s.regs := rfl
@[simp] theorem State.withThreads_staged : (s.withThreads v).staged = s.staged := rfl
@[simp] theorem State.withThreads_mem : (s.withThreads v).mem = s.mem := rfl
@[simp] theorem State.withThreads_poison : (s.withThreads v).poison = s.poison := rfl
@[simp] theorem State.withThreads_lineKey : (s.withThreads v).lineKey = s.lineKey := rfl
@[simp] theorem State.withThreads_badCopy : (s.withThreads v).badCopy = s.badCopy := rfl
@[simp] theorem State.withThreads_keys : (s.withThreads v).keys = s.keys := rfl
@[simp] theorem State.withThreads_hostMem : (s.withThreads v).hostMem = s.hostMem := rfl
@[simp] theorem State.withThreads_hostBad : (s.withThreads v).hostBad = s.hostBad := rfl
@[simp] theorem State.withThreads_time : (s.withThreads v).time = s.time := rfl
@[simp] theorem State.withThreads_parts : (s.withThreads v).parts = s.parts := rfl
@[simp] theorem State.withThreads_cores : (s.withThreads v).cores = s.cores := rfl
@[simp] theorem State.withThreads_phys : (s.withThreads v).phys = s.phys := rfl
@[simp] theorem State.withThreads_threads : (s.withThreads v).threads = v := rfl
@[simp] theorem State.withThreads_jobs : (s.withThreads v).jobs = s.jobs := rfl
@[simp] theorem State.withThreads_spurs : (s.withThreads v).spurs = s.spurs := rfl
@[simp] theorem State.withThreads_dmas : (s.withThreads v).dmas = s.dmas := rfl
@[simp] theorem State.withThreads_nocReqs : (s.withThreads v).nocReqs = s.nocReqs := rfl
@[simp] theorem State.withThreads_devErrs : (s.withThreads v).devErrs = s.devErrs := rfl
@[simp] theorem State.withThreads_sramErrs : (s.withThreads v).sramErrs = s.sramErrs := rfl
@[simp] theorem State.withThreads_sramUe : (s.withThreads v).sramUe = s.sramUe := rfl
@[simp] theorem State.withThreads_planHdr : (s.withThreads v).planHdr = s.planHdr := rfl
@[simp] theorem State.withThreads_cells : (s.withThreads v).cells = s.cells := rfl
@[simp] theorem State.withThreads_subports : (s.withThreads v).subports = s.subports := rfl
@[simp] theorem State.withThreads_chains : (s.withThreads v).chains = s.chains := rfl
@[simp] theorem State.withThreads_fhBufs : (s.withThreads v).fhBufs = s.fhBufs := rfl
@[simp] theorem State.withThreads_seqs : (s.withThreads v).seqs = s.seqs := rfl
@[simp] theorem State.withThreads_cmds : (s.withThreads v).cmds = s.cmds := rfl
@[simp] theorem State.withThreads_nextCmd : (s.withThreads v).nextCmd = s.nextCmd := rfl
@[simp] theorem State.withThreads_passes : (s.withThreads v).passes = s.passes := rfl
@[simp] theorem State.withThreads_nextPass : (s.withThreads v).nextPass = s.nextPass := rfl
@[simp] theorem State.withThreads_models : (s.withThreads v).models = s.models := rfl
@[simp] theorem State.withThreads_deltas : (s.withThreads v).deltas = s.deltas := rfl
@[simp] theorem State.withThreads_loads : (s.withThreads v).loads = s.loads := rfl
@[simp] theorem State.withThreads_lastAdm : (s.withThreads v).lastAdm = s.lastAdm := rfl
@[simp] theorem State.withThreads_frames : (s.withThreads v).frames = s.frames := rfl
@[simp] theorem State.withThreads_chunks : (s.withThreads v).chunks = s.chunks := rfl
@[simp] theorem State.withThreads_freeLists : (s.withThreads v).freeLists = s.freeLists := rfl
@[simp] theorem State.withThreads_nodes : (s.withThreads v).nodes = s.nodes := rfl
@[simp] theorem State.withThreads_lru : (s.withThreads v).lru = s.lru := rfl
@[simp] theorem State.withThreads_heldFrames : (s.withThreads v).heldFrames = s.heldFrames := rfl
@[simp] theorem State.withThreads_scopesDead : (s.withThreads v).scopesDead = s.scopesDead := rfl
@[simp] theorem State.withThreads_spills : (s.withThreads v).spills = s.spills := rfl
@[simp] theorem State.withThreads_links : (s.withThreads v).links = s.links := rfl
@[simp] theorem State.withThreads_members : (s.withThreads v).members = s.members := rfl
@[simp] theorem State.withThreads_spares : (s.withThreads v).spares = s.spares := rfl
@[simp] theorem State.withThreads_cachePeers : (s.withThreads v).cachePeers = s.cachePeers := rfl
@[simp] theorem State.withThreads_routes : (s.withThreads v).routes = s.routes := rfl
@[simp] theorem State.withThreads_fabReqs : (s.withThreads v).fabReqs = s.fabReqs := rfl
@[simp] theorem State.withThreads_nextTid : (s.withThreads v).nextTid = s.nextTid := rfl
@[simp] theorem State.withThreads_windows : (s.withThreads v).windows = s.windows := rfl
@[simp] theorem State.withThreads_peers : (s.withThreads v).peers = s.peers := rfl
@[simp] theorem State.withThreads_move : (s.withThreads v).move = s.move := rfl
@[simp] theorem State.withThreads_rings : (s.withThreads v).rings = s.rings := rfl
@[simp] theorem State.withThreads_slices : (s.withThreads v).slices = s.slices := rfl
@[simp] theorem State.withThreads_groups : (s.withThreads v).groups = s.groups := rfl
@[simp] theorem State.withThreads_thaws : (s.withThreads v).thaws = s.thaws := rfl
@[simp] theorem State.withThreads_copies : (s.withThreads v).copies = s.copies := rfl
@[simp] theorem State.withThreads_heldCmds : (s.withThreads v).heldCmds = s.heldCmds := rfl
@[simp] theorem State.withThreads_coord : (s.withThreads v).coord = s.coord := rfl
@[simp] theorem State.withThreads_ctlWindow : (s.withThreads v).ctlWindow = s.ctlWindow := rfl
@[simp] theorem State.withThreads_ctlNeg : (s.withThreads v).ctlNeg = s.ctlNeg := rfl
@[simp] theorem State.withThreads_ctlNegPend : (s.withThreads v).ctlNegPend = s.ctlNegPend := rfl
@[simp] theorem State.withThreads_ctlAgreed : (s.withThreads v).ctlAgreed = s.ctlAgreed := rfl
@[simp] theorem State.withThreads_halves : (s.withThreads v).halves = s.halves := rfl
@[simp] theorem State.withThreads_ctlHb : (s.withThreads v).ctlHb = s.ctlHb := rfl
@[simp] theorem State.withThreads_events : (s.withThreads v).events = s.events := rfl
@[simp] theorem State.withThreads_procs : (s.withThreads v).procs = s.procs := rfl
@[simp] theorem State.withThreads_bring : (s.withThreads v).bring = s.bring := rfl
@[simp] theorem State.withThreads_sec : (s.withThreads v).sec = s.sec := rfl
@[simp] theorem State.withThreads_mgt : (s.withThreads v).mgt = s.mgt := rfl
@[simp] theorem State.withThreads_free : (s.withThreads v).free = s.free := rfl
@[simp] theorem State.withThreads_out : (s.withThreads v).out = s.out := rfl
@[simp] theorem State.rd_withThreads (f : Field) (i : Nat) : (s.withThreads v).rd f i = s.rd f i := rfl
end
section
variable (v : KMap Job)
@[simp] theorem State.withJobs_pending : (s.withJobs v).pending = s.pending := rfl
@[simp] theorem State.withJobs_regs : (s.withJobs v).regs = s.regs := rfl
@[simp] theorem State.withJobs_staged : (s.withJobs v).staged = s.staged := rfl
@[simp] theorem State.withJobs_mem : (s.withJobs v).mem = s.mem := rfl
@[simp] theorem State.withJobs_poison : (s.withJobs v).poison = s.poison := rfl
@[simp] theorem State.withJobs_lineKey : (s.withJobs v).lineKey = s.lineKey := rfl
@[simp] theorem State.withJobs_badCopy : (s.withJobs v).badCopy = s.badCopy := rfl
@[simp] theorem State.withJobs_keys : (s.withJobs v).keys = s.keys := rfl
@[simp] theorem State.withJobs_hostMem : (s.withJobs v).hostMem = s.hostMem := rfl
@[simp] theorem State.withJobs_hostBad : (s.withJobs v).hostBad = s.hostBad := rfl
@[simp] theorem State.withJobs_time : (s.withJobs v).time = s.time := rfl
@[simp] theorem State.withJobs_parts : (s.withJobs v).parts = s.parts := rfl
@[simp] theorem State.withJobs_cores : (s.withJobs v).cores = s.cores := rfl
@[simp] theorem State.withJobs_phys : (s.withJobs v).phys = s.phys := rfl
@[simp] theorem State.withJobs_threads : (s.withJobs v).threads = s.threads := rfl
@[simp] theorem State.withJobs_jobs : (s.withJobs v).jobs = v := rfl
@[simp] theorem State.withJobs_spurs : (s.withJobs v).spurs = s.spurs := rfl
@[simp] theorem State.withJobs_dmas : (s.withJobs v).dmas = s.dmas := rfl
@[simp] theorem State.withJobs_nocReqs : (s.withJobs v).nocReqs = s.nocReqs := rfl
@[simp] theorem State.withJobs_devErrs : (s.withJobs v).devErrs = s.devErrs := rfl
@[simp] theorem State.withJobs_sramErrs : (s.withJobs v).sramErrs = s.sramErrs := rfl
@[simp] theorem State.withJobs_sramUe : (s.withJobs v).sramUe = s.sramUe := rfl
@[simp] theorem State.withJobs_planHdr : (s.withJobs v).planHdr = s.planHdr := rfl
@[simp] theorem State.withJobs_cells : (s.withJobs v).cells = s.cells := rfl
@[simp] theorem State.withJobs_subports : (s.withJobs v).subports = s.subports := rfl
@[simp] theorem State.withJobs_chains : (s.withJobs v).chains = s.chains := rfl
@[simp] theorem State.withJobs_fhBufs : (s.withJobs v).fhBufs = s.fhBufs := rfl
@[simp] theorem State.withJobs_seqs : (s.withJobs v).seqs = s.seqs := rfl
@[simp] theorem State.withJobs_cmds : (s.withJobs v).cmds = s.cmds := rfl
@[simp] theorem State.withJobs_nextCmd : (s.withJobs v).nextCmd = s.nextCmd := rfl
@[simp] theorem State.withJobs_passes : (s.withJobs v).passes = s.passes := rfl
@[simp] theorem State.withJobs_nextPass : (s.withJobs v).nextPass = s.nextPass := rfl
@[simp] theorem State.withJobs_models : (s.withJobs v).models = s.models := rfl
@[simp] theorem State.withJobs_deltas : (s.withJobs v).deltas = s.deltas := rfl
@[simp] theorem State.withJobs_loads : (s.withJobs v).loads = s.loads := rfl
@[simp] theorem State.withJobs_lastAdm : (s.withJobs v).lastAdm = s.lastAdm := rfl
@[simp] theorem State.withJobs_frames : (s.withJobs v).frames = s.frames := rfl
@[simp] theorem State.withJobs_chunks : (s.withJobs v).chunks = s.chunks := rfl
@[simp] theorem State.withJobs_freeLists : (s.withJobs v).freeLists = s.freeLists := rfl
@[simp] theorem State.withJobs_nodes : (s.withJobs v).nodes = s.nodes := rfl
@[simp] theorem State.withJobs_lru : (s.withJobs v).lru = s.lru := rfl
@[simp] theorem State.withJobs_heldFrames : (s.withJobs v).heldFrames = s.heldFrames := rfl
@[simp] theorem State.withJobs_scopesDead : (s.withJobs v).scopesDead = s.scopesDead := rfl
@[simp] theorem State.withJobs_spills : (s.withJobs v).spills = s.spills := rfl
@[simp] theorem State.withJobs_links : (s.withJobs v).links = s.links := rfl
@[simp] theorem State.withJobs_members : (s.withJobs v).members = s.members := rfl
@[simp] theorem State.withJobs_spares : (s.withJobs v).spares = s.spares := rfl
@[simp] theorem State.withJobs_cachePeers : (s.withJobs v).cachePeers = s.cachePeers := rfl
@[simp] theorem State.withJobs_routes : (s.withJobs v).routes = s.routes := rfl
@[simp] theorem State.withJobs_fabReqs : (s.withJobs v).fabReqs = s.fabReqs := rfl
@[simp] theorem State.withJobs_nextTid : (s.withJobs v).nextTid = s.nextTid := rfl
@[simp] theorem State.withJobs_windows : (s.withJobs v).windows = s.windows := rfl
@[simp] theorem State.withJobs_peers : (s.withJobs v).peers = s.peers := rfl
@[simp] theorem State.withJobs_move : (s.withJobs v).move = s.move := rfl
@[simp] theorem State.withJobs_rings : (s.withJobs v).rings = s.rings := rfl
@[simp] theorem State.withJobs_slices : (s.withJobs v).slices = s.slices := rfl
@[simp] theorem State.withJobs_groups : (s.withJobs v).groups = s.groups := rfl
@[simp] theorem State.withJobs_thaws : (s.withJobs v).thaws = s.thaws := rfl
@[simp] theorem State.withJobs_copies : (s.withJobs v).copies = s.copies := rfl
@[simp] theorem State.withJobs_heldCmds : (s.withJobs v).heldCmds = s.heldCmds := rfl
@[simp] theorem State.withJobs_coord : (s.withJobs v).coord = s.coord := rfl
@[simp] theorem State.withJobs_ctlWindow : (s.withJobs v).ctlWindow = s.ctlWindow := rfl
@[simp] theorem State.withJobs_ctlNeg : (s.withJobs v).ctlNeg = s.ctlNeg := rfl
@[simp] theorem State.withJobs_ctlNegPend : (s.withJobs v).ctlNegPend = s.ctlNegPend := rfl
@[simp] theorem State.withJobs_ctlAgreed : (s.withJobs v).ctlAgreed = s.ctlAgreed := rfl
@[simp] theorem State.withJobs_halves : (s.withJobs v).halves = s.halves := rfl
@[simp] theorem State.withJobs_ctlHb : (s.withJobs v).ctlHb = s.ctlHb := rfl
@[simp] theorem State.withJobs_events : (s.withJobs v).events = s.events := rfl
@[simp] theorem State.withJobs_procs : (s.withJobs v).procs = s.procs := rfl
@[simp] theorem State.withJobs_bring : (s.withJobs v).bring = s.bring := rfl
@[simp] theorem State.withJobs_sec : (s.withJobs v).sec = s.sec := rfl
@[simp] theorem State.withJobs_mgt : (s.withJobs v).mgt = s.mgt := rfl
@[simp] theorem State.withJobs_free : (s.withJobs v).free = s.free := rfl
@[simp] theorem State.withJobs_out : (s.withJobs v).out = s.out := rfl
@[simp] theorem State.rd_withJobs (f : Field) (i : Nat) : (s.withJobs v).rd f i = s.rd f i := rfl
end
section
variable (v : KMap SpurCore)
@[simp] theorem State.withSpurs_pending : (s.withSpurs v).pending = s.pending := rfl
@[simp] theorem State.withSpurs_regs : (s.withSpurs v).regs = s.regs := rfl
@[simp] theorem State.withSpurs_staged : (s.withSpurs v).staged = s.staged := rfl
@[simp] theorem State.withSpurs_mem : (s.withSpurs v).mem = s.mem := rfl
@[simp] theorem State.withSpurs_poison : (s.withSpurs v).poison = s.poison := rfl
@[simp] theorem State.withSpurs_lineKey : (s.withSpurs v).lineKey = s.lineKey := rfl
@[simp] theorem State.withSpurs_badCopy : (s.withSpurs v).badCopy = s.badCopy := rfl
@[simp] theorem State.withSpurs_keys : (s.withSpurs v).keys = s.keys := rfl
@[simp] theorem State.withSpurs_hostMem : (s.withSpurs v).hostMem = s.hostMem := rfl
@[simp] theorem State.withSpurs_hostBad : (s.withSpurs v).hostBad = s.hostBad := rfl
@[simp] theorem State.withSpurs_time : (s.withSpurs v).time = s.time := rfl
@[simp] theorem State.withSpurs_parts : (s.withSpurs v).parts = s.parts := rfl
@[simp] theorem State.withSpurs_cores : (s.withSpurs v).cores = s.cores := rfl
@[simp] theorem State.withSpurs_phys : (s.withSpurs v).phys = s.phys := rfl
@[simp] theorem State.withSpurs_threads : (s.withSpurs v).threads = s.threads := rfl
@[simp] theorem State.withSpurs_jobs : (s.withSpurs v).jobs = s.jobs := rfl
@[simp] theorem State.withSpurs_spurs : (s.withSpurs v).spurs = v := rfl
@[simp] theorem State.withSpurs_dmas : (s.withSpurs v).dmas = s.dmas := rfl
@[simp] theorem State.withSpurs_nocReqs : (s.withSpurs v).nocReqs = s.nocReqs := rfl
@[simp] theorem State.withSpurs_devErrs : (s.withSpurs v).devErrs = s.devErrs := rfl
@[simp] theorem State.withSpurs_sramErrs : (s.withSpurs v).sramErrs = s.sramErrs := rfl
@[simp] theorem State.withSpurs_sramUe : (s.withSpurs v).sramUe = s.sramUe := rfl
@[simp] theorem State.withSpurs_planHdr : (s.withSpurs v).planHdr = s.planHdr := rfl
@[simp] theorem State.withSpurs_cells : (s.withSpurs v).cells = s.cells := rfl
@[simp] theorem State.withSpurs_subports : (s.withSpurs v).subports = s.subports := rfl
@[simp] theorem State.withSpurs_chains : (s.withSpurs v).chains = s.chains := rfl
@[simp] theorem State.withSpurs_fhBufs : (s.withSpurs v).fhBufs = s.fhBufs := rfl
@[simp] theorem State.withSpurs_seqs : (s.withSpurs v).seqs = s.seqs := rfl
@[simp] theorem State.withSpurs_cmds : (s.withSpurs v).cmds = s.cmds := rfl
@[simp] theorem State.withSpurs_nextCmd : (s.withSpurs v).nextCmd = s.nextCmd := rfl
@[simp] theorem State.withSpurs_passes : (s.withSpurs v).passes = s.passes := rfl
@[simp] theorem State.withSpurs_nextPass : (s.withSpurs v).nextPass = s.nextPass := rfl
@[simp] theorem State.withSpurs_models : (s.withSpurs v).models = s.models := rfl
@[simp] theorem State.withSpurs_deltas : (s.withSpurs v).deltas = s.deltas := rfl
@[simp] theorem State.withSpurs_loads : (s.withSpurs v).loads = s.loads := rfl
@[simp] theorem State.withSpurs_lastAdm : (s.withSpurs v).lastAdm = s.lastAdm := rfl
@[simp] theorem State.withSpurs_frames : (s.withSpurs v).frames = s.frames := rfl
@[simp] theorem State.withSpurs_chunks : (s.withSpurs v).chunks = s.chunks := rfl
@[simp] theorem State.withSpurs_freeLists : (s.withSpurs v).freeLists = s.freeLists := rfl
@[simp] theorem State.withSpurs_nodes : (s.withSpurs v).nodes = s.nodes := rfl
@[simp] theorem State.withSpurs_lru : (s.withSpurs v).lru = s.lru := rfl
@[simp] theorem State.withSpurs_heldFrames : (s.withSpurs v).heldFrames = s.heldFrames := rfl
@[simp] theorem State.withSpurs_scopesDead : (s.withSpurs v).scopesDead = s.scopesDead := rfl
@[simp] theorem State.withSpurs_spills : (s.withSpurs v).spills = s.spills := rfl
@[simp] theorem State.withSpurs_links : (s.withSpurs v).links = s.links := rfl
@[simp] theorem State.withSpurs_members : (s.withSpurs v).members = s.members := rfl
@[simp] theorem State.withSpurs_spares : (s.withSpurs v).spares = s.spares := rfl
@[simp] theorem State.withSpurs_cachePeers : (s.withSpurs v).cachePeers = s.cachePeers := rfl
@[simp] theorem State.withSpurs_routes : (s.withSpurs v).routes = s.routes := rfl
@[simp] theorem State.withSpurs_fabReqs : (s.withSpurs v).fabReqs = s.fabReqs := rfl
@[simp] theorem State.withSpurs_nextTid : (s.withSpurs v).nextTid = s.nextTid := rfl
@[simp] theorem State.withSpurs_windows : (s.withSpurs v).windows = s.windows := rfl
@[simp] theorem State.withSpurs_peers : (s.withSpurs v).peers = s.peers := rfl
@[simp] theorem State.withSpurs_move : (s.withSpurs v).move = s.move := rfl
@[simp] theorem State.withSpurs_rings : (s.withSpurs v).rings = s.rings := rfl
@[simp] theorem State.withSpurs_slices : (s.withSpurs v).slices = s.slices := rfl
@[simp] theorem State.withSpurs_groups : (s.withSpurs v).groups = s.groups := rfl
@[simp] theorem State.withSpurs_thaws : (s.withSpurs v).thaws = s.thaws := rfl
@[simp] theorem State.withSpurs_copies : (s.withSpurs v).copies = s.copies := rfl
@[simp] theorem State.withSpurs_heldCmds : (s.withSpurs v).heldCmds = s.heldCmds := rfl
@[simp] theorem State.withSpurs_coord : (s.withSpurs v).coord = s.coord := rfl
@[simp] theorem State.withSpurs_ctlWindow : (s.withSpurs v).ctlWindow = s.ctlWindow := rfl
@[simp] theorem State.withSpurs_ctlNeg : (s.withSpurs v).ctlNeg = s.ctlNeg := rfl
@[simp] theorem State.withSpurs_ctlNegPend : (s.withSpurs v).ctlNegPend = s.ctlNegPend := rfl
@[simp] theorem State.withSpurs_ctlAgreed : (s.withSpurs v).ctlAgreed = s.ctlAgreed := rfl
@[simp] theorem State.withSpurs_halves : (s.withSpurs v).halves = s.halves := rfl
@[simp] theorem State.withSpurs_ctlHb : (s.withSpurs v).ctlHb = s.ctlHb := rfl
@[simp] theorem State.withSpurs_events : (s.withSpurs v).events = s.events := rfl
@[simp] theorem State.withSpurs_procs : (s.withSpurs v).procs = s.procs := rfl
@[simp] theorem State.withSpurs_bring : (s.withSpurs v).bring = s.bring := rfl
@[simp] theorem State.withSpurs_sec : (s.withSpurs v).sec = s.sec := rfl
@[simp] theorem State.withSpurs_mgt : (s.withSpurs v).mgt = s.mgt := rfl
@[simp] theorem State.withSpurs_free : (s.withSpurs v).free = s.free := rfl
@[simp] theorem State.withSpurs_out : (s.withSpurs v).out = s.out := rfl
@[simp] theorem State.rd_withSpurs (f : Field) (i : Nat) : (s.withSpurs v).rd f i = s.rd f i := rfl
end
section
variable (v : KMap (List Dma))
@[simp] theorem State.withDmas_pending : (s.withDmas v).pending = s.pending := rfl
@[simp] theorem State.withDmas_regs : (s.withDmas v).regs = s.regs := rfl
@[simp] theorem State.withDmas_staged : (s.withDmas v).staged = s.staged := rfl
@[simp] theorem State.withDmas_mem : (s.withDmas v).mem = s.mem := rfl
@[simp] theorem State.withDmas_poison : (s.withDmas v).poison = s.poison := rfl
@[simp] theorem State.withDmas_lineKey : (s.withDmas v).lineKey = s.lineKey := rfl
@[simp] theorem State.withDmas_badCopy : (s.withDmas v).badCopy = s.badCopy := rfl
@[simp] theorem State.withDmas_keys : (s.withDmas v).keys = s.keys := rfl
@[simp] theorem State.withDmas_hostMem : (s.withDmas v).hostMem = s.hostMem := rfl
@[simp] theorem State.withDmas_hostBad : (s.withDmas v).hostBad = s.hostBad := rfl
@[simp] theorem State.withDmas_time : (s.withDmas v).time = s.time := rfl
@[simp] theorem State.withDmas_parts : (s.withDmas v).parts = s.parts := rfl
@[simp] theorem State.withDmas_cores : (s.withDmas v).cores = s.cores := rfl
@[simp] theorem State.withDmas_phys : (s.withDmas v).phys = s.phys := rfl
@[simp] theorem State.withDmas_threads : (s.withDmas v).threads = s.threads := rfl
@[simp] theorem State.withDmas_jobs : (s.withDmas v).jobs = s.jobs := rfl
@[simp] theorem State.withDmas_spurs : (s.withDmas v).spurs = s.spurs := rfl
@[simp] theorem State.withDmas_dmas : (s.withDmas v).dmas = v := rfl
@[simp] theorem State.withDmas_nocReqs : (s.withDmas v).nocReqs = s.nocReqs := rfl
@[simp] theorem State.withDmas_devErrs : (s.withDmas v).devErrs = s.devErrs := rfl
@[simp] theorem State.withDmas_sramErrs : (s.withDmas v).sramErrs = s.sramErrs := rfl
@[simp] theorem State.withDmas_sramUe : (s.withDmas v).sramUe = s.sramUe := rfl
@[simp] theorem State.withDmas_planHdr : (s.withDmas v).planHdr = s.planHdr := rfl
@[simp] theorem State.withDmas_cells : (s.withDmas v).cells = s.cells := rfl
@[simp] theorem State.withDmas_subports : (s.withDmas v).subports = s.subports := rfl
@[simp] theorem State.withDmas_chains : (s.withDmas v).chains = s.chains := rfl
@[simp] theorem State.withDmas_fhBufs : (s.withDmas v).fhBufs = s.fhBufs := rfl
@[simp] theorem State.withDmas_seqs : (s.withDmas v).seqs = s.seqs := rfl
@[simp] theorem State.withDmas_cmds : (s.withDmas v).cmds = s.cmds := rfl
@[simp] theorem State.withDmas_nextCmd : (s.withDmas v).nextCmd = s.nextCmd := rfl
@[simp] theorem State.withDmas_passes : (s.withDmas v).passes = s.passes := rfl
@[simp] theorem State.withDmas_nextPass : (s.withDmas v).nextPass = s.nextPass := rfl
@[simp] theorem State.withDmas_models : (s.withDmas v).models = s.models := rfl
@[simp] theorem State.withDmas_deltas : (s.withDmas v).deltas = s.deltas := rfl
@[simp] theorem State.withDmas_loads : (s.withDmas v).loads = s.loads := rfl
@[simp] theorem State.withDmas_lastAdm : (s.withDmas v).lastAdm = s.lastAdm := rfl
@[simp] theorem State.withDmas_frames : (s.withDmas v).frames = s.frames := rfl
@[simp] theorem State.withDmas_chunks : (s.withDmas v).chunks = s.chunks := rfl
@[simp] theorem State.withDmas_freeLists : (s.withDmas v).freeLists = s.freeLists := rfl
@[simp] theorem State.withDmas_nodes : (s.withDmas v).nodes = s.nodes := rfl
@[simp] theorem State.withDmas_lru : (s.withDmas v).lru = s.lru := rfl
@[simp] theorem State.withDmas_heldFrames : (s.withDmas v).heldFrames = s.heldFrames := rfl
@[simp] theorem State.withDmas_scopesDead : (s.withDmas v).scopesDead = s.scopesDead := rfl
@[simp] theorem State.withDmas_spills : (s.withDmas v).spills = s.spills := rfl
@[simp] theorem State.withDmas_links : (s.withDmas v).links = s.links := rfl
@[simp] theorem State.withDmas_members : (s.withDmas v).members = s.members := rfl
@[simp] theorem State.withDmas_spares : (s.withDmas v).spares = s.spares := rfl
@[simp] theorem State.withDmas_cachePeers : (s.withDmas v).cachePeers = s.cachePeers := rfl
@[simp] theorem State.withDmas_routes : (s.withDmas v).routes = s.routes := rfl
@[simp] theorem State.withDmas_fabReqs : (s.withDmas v).fabReqs = s.fabReqs := rfl
@[simp] theorem State.withDmas_nextTid : (s.withDmas v).nextTid = s.nextTid := rfl
@[simp] theorem State.withDmas_windows : (s.withDmas v).windows = s.windows := rfl
@[simp] theorem State.withDmas_peers : (s.withDmas v).peers = s.peers := rfl
@[simp] theorem State.withDmas_move : (s.withDmas v).move = s.move := rfl
@[simp] theorem State.withDmas_rings : (s.withDmas v).rings = s.rings := rfl
@[simp] theorem State.withDmas_slices : (s.withDmas v).slices = s.slices := rfl
@[simp] theorem State.withDmas_groups : (s.withDmas v).groups = s.groups := rfl
@[simp] theorem State.withDmas_thaws : (s.withDmas v).thaws = s.thaws := rfl
@[simp] theorem State.withDmas_copies : (s.withDmas v).copies = s.copies := rfl
@[simp] theorem State.withDmas_heldCmds : (s.withDmas v).heldCmds = s.heldCmds := rfl
@[simp] theorem State.withDmas_coord : (s.withDmas v).coord = s.coord := rfl
@[simp] theorem State.withDmas_ctlWindow : (s.withDmas v).ctlWindow = s.ctlWindow := rfl
@[simp] theorem State.withDmas_ctlNeg : (s.withDmas v).ctlNeg = s.ctlNeg := rfl
@[simp] theorem State.withDmas_ctlNegPend : (s.withDmas v).ctlNegPend = s.ctlNegPend := rfl
@[simp] theorem State.withDmas_ctlAgreed : (s.withDmas v).ctlAgreed = s.ctlAgreed := rfl
@[simp] theorem State.withDmas_halves : (s.withDmas v).halves = s.halves := rfl
@[simp] theorem State.withDmas_ctlHb : (s.withDmas v).ctlHb = s.ctlHb := rfl
@[simp] theorem State.withDmas_events : (s.withDmas v).events = s.events := rfl
@[simp] theorem State.withDmas_procs : (s.withDmas v).procs = s.procs := rfl
@[simp] theorem State.withDmas_bring : (s.withDmas v).bring = s.bring := rfl
@[simp] theorem State.withDmas_sec : (s.withDmas v).sec = s.sec := rfl
@[simp] theorem State.withDmas_mgt : (s.withDmas v).mgt = s.mgt := rfl
@[simp] theorem State.withDmas_free : (s.withDmas v).free = s.free := rfl
@[simp] theorem State.withDmas_out : (s.withDmas v).out = s.out := rfl
@[simp] theorem State.rd_withDmas (f : Field) (i : Nat) : (s.withDmas v).rd f i = s.rd f i := rfl
end
section
variable (v : List NocReq)
@[simp] theorem State.withNocReqs_pending : (s.withNocReqs v).pending = s.pending := rfl
@[simp] theorem State.withNocReqs_regs : (s.withNocReqs v).regs = s.regs := rfl
@[simp] theorem State.withNocReqs_staged : (s.withNocReqs v).staged = s.staged := rfl
@[simp] theorem State.withNocReqs_mem : (s.withNocReqs v).mem = s.mem := rfl
@[simp] theorem State.withNocReqs_poison : (s.withNocReqs v).poison = s.poison := rfl
@[simp] theorem State.withNocReqs_lineKey : (s.withNocReqs v).lineKey = s.lineKey := rfl
@[simp] theorem State.withNocReqs_badCopy : (s.withNocReqs v).badCopy = s.badCopy := rfl
@[simp] theorem State.withNocReqs_keys : (s.withNocReqs v).keys = s.keys := rfl
@[simp] theorem State.withNocReqs_hostMem : (s.withNocReqs v).hostMem = s.hostMem := rfl
@[simp] theorem State.withNocReqs_hostBad : (s.withNocReqs v).hostBad = s.hostBad := rfl
@[simp] theorem State.withNocReqs_time : (s.withNocReqs v).time = s.time := rfl
@[simp] theorem State.withNocReqs_parts : (s.withNocReqs v).parts = s.parts := rfl
@[simp] theorem State.withNocReqs_cores : (s.withNocReqs v).cores = s.cores := rfl
@[simp] theorem State.withNocReqs_phys : (s.withNocReqs v).phys = s.phys := rfl
@[simp] theorem State.withNocReqs_threads : (s.withNocReqs v).threads = s.threads := rfl
@[simp] theorem State.withNocReqs_jobs : (s.withNocReqs v).jobs = s.jobs := rfl
@[simp] theorem State.withNocReqs_spurs : (s.withNocReqs v).spurs = s.spurs := rfl
@[simp] theorem State.withNocReqs_dmas : (s.withNocReqs v).dmas = s.dmas := rfl
@[simp] theorem State.withNocReqs_nocReqs : (s.withNocReqs v).nocReqs = v := rfl
@[simp] theorem State.withNocReqs_devErrs : (s.withNocReqs v).devErrs = s.devErrs := rfl
@[simp] theorem State.withNocReqs_sramErrs : (s.withNocReqs v).sramErrs = s.sramErrs := rfl
@[simp] theorem State.withNocReqs_sramUe : (s.withNocReqs v).sramUe = s.sramUe := rfl
@[simp] theorem State.withNocReqs_planHdr : (s.withNocReqs v).planHdr = s.planHdr := rfl
@[simp] theorem State.withNocReqs_cells : (s.withNocReqs v).cells = s.cells := rfl
@[simp] theorem State.withNocReqs_subports : (s.withNocReqs v).subports = s.subports := rfl
@[simp] theorem State.withNocReqs_chains : (s.withNocReqs v).chains = s.chains := rfl
@[simp] theorem State.withNocReqs_fhBufs : (s.withNocReqs v).fhBufs = s.fhBufs := rfl
@[simp] theorem State.withNocReqs_seqs : (s.withNocReqs v).seqs = s.seqs := rfl
@[simp] theorem State.withNocReqs_cmds : (s.withNocReqs v).cmds = s.cmds := rfl
@[simp] theorem State.withNocReqs_nextCmd : (s.withNocReqs v).nextCmd = s.nextCmd := rfl
@[simp] theorem State.withNocReqs_passes : (s.withNocReqs v).passes = s.passes := rfl
@[simp] theorem State.withNocReqs_nextPass : (s.withNocReqs v).nextPass = s.nextPass := rfl
@[simp] theorem State.withNocReqs_models : (s.withNocReqs v).models = s.models := rfl
@[simp] theorem State.withNocReqs_deltas : (s.withNocReqs v).deltas = s.deltas := rfl
@[simp] theorem State.withNocReqs_loads : (s.withNocReqs v).loads = s.loads := rfl
@[simp] theorem State.withNocReqs_lastAdm : (s.withNocReqs v).lastAdm = s.lastAdm := rfl
@[simp] theorem State.withNocReqs_frames : (s.withNocReqs v).frames = s.frames := rfl
@[simp] theorem State.withNocReqs_chunks : (s.withNocReqs v).chunks = s.chunks := rfl
@[simp] theorem State.withNocReqs_freeLists : (s.withNocReqs v).freeLists = s.freeLists := rfl
@[simp] theorem State.withNocReqs_nodes : (s.withNocReqs v).nodes = s.nodes := rfl
@[simp] theorem State.withNocReqs_lru : (s.withNocReqs v).lru = s.lru := rfl
@[simp] theorem State.withNocReqs_heldFrames : (s.withNocReqs v).heldFrames = s.heldFrames := rfl
@[simp] theorem State.withNocReqs_scopesDead : (s.withNocReqs v).scopesDead = s.scopesDead := rfl
@[simp] theorem State.withNocReqs_spills : (s.withNocReqs v).spills = s.spills := rfl
@[simp] theorem State.withNocReqs_links : (s.withNocReqs v).links = s.links := rfl
@[simp] theorem State.withNocReqs_members : (s.withNocReqs v).members = s.members := rfl
@[simp] theorem State.withNocReqs_spares : (s.withNocReqs v).spares = s.spares := rfl
@[simp] theorem State.withNocReqs_cachePeers : (s.withNocReqs v).cachePeers = s.cachePeers := rfl
@[simp] theorem State.withNocReqs_routes : (s.withNocReqs v).routes = s.routes := rfl
@[simp] theorem State.withNocReqs_fabReqs : (s.withNocReqs v).fabReqs = s.fabReqs := rfl
@[simp] theorem State.withNocReqs_nextTid : (s.withNocReqs v).nextTid = s.nextTid := rfl
@[simp] theorem State.withNocReqs_windows : (s.withNocReqs v).windows = s.windows := rfl
@[simp] theorem State.withNocReqs_peers : (s.withNocReqs v).peers = s.peers := rfl
@[simp] theorem State.withNocReqs_move : (s.withNocReqs v).move = s.move := rfl
@[simp] theorem State.withNocReqs_rings : (s.withNocReqs v).rings = s.rings := rfl
@[simp] theorem State.withNocReqs_slices : (s.withNocReqs v).slices = s.slices := rfl
@[simp] theorem State.withNocReqs_groups : (s.withNocReqs v).groups = s.groups := rfl
@[simp] theorem State.withNocReqs_thaws : (s.withNocReqs v).thaws = s.thaws := rfl
@[simp] theorem State.withNocReqs_copies : (s.withNocReqs v).copies = s.copies := rfl
@[simp] theorem State.withNocReqs_heldCmds : (s.withNocReqs v).heldCmds = s.heldCmds := rfl
@[simp] theorem State.withNocReqs_coord : (s.withNocReqs v).coord = s.coord := rfl
@[simp] theorem State.withNocReqs_ctlWindow : (s.withNocReqs v).ctlWindow = s.ctlWindow := rfl
@[simp] theorem State.withNocReqs_ctlNeg : (s.withNocReqs v).ctlNeg = s.ctlNeg := rfl
@[simp] theorem State.withNocReqs_ctlNegPend : (s.withNocReqs v).ctlNegPend = s.ctlNegPend := rfl
@[simp] theorem State.withNocReqs_ctlAgreed : (s.withNocReqs v).ctlAgreed = s.ctlAgreed := rfl
@[simp] theorem State.withNocReqs_halves : (s.withNocReqs v).halves = s.halves := rfl
@[simp] theorem State.withNocReqs_ctlHb : (s.withNocReqs v).ctlHb = s.ctlHb := rfl
@[simp] theorem State.withNocReqs_events : (s.withNocReqs v).events = s.events := rfl
@[simp] theorem State.withNocReqs_procs : (s.withNocReqs v).procs = s.procs := rfl
@[simp] theorem State.withNocReqs_bring : (s.withNocReqs v).bring = s.bring := rfl
@[simp] theorem State.withNocReqs_sec : (s.withNocReqs v).sec = s.sec := rfl
@[simp] theorem State.withNocReqs_mgt : (s.withNocReqs v).mgt = s.mgt := rfl
@[simp] theorem State.withNocReqs_free : (s.withNocReqs v).free = s.free := rfl
@[simp] theorem State.withNocReqs_out : (s.withNocReqs v).out = s.out := rfl
@[simp] theorem State.rd_withNocReqs (f : Field) (i : Nat) : (s.withNocReqs v).rd f i = s.rd f i := rfl
end
section
variable (v : List DevErr)
@[simp] theorem State.withDevErrs_pending : (s.withDevErrs v).pending = s.pending := rfl
@[simp] theorem State.withDevErrs_regs : (s.withDevErrs v).regs = s.regs := rfl
@[simp] theorem State.withDevErrs_staged : (s.withDevErrs v).staged = s.staged := rfl
@[simp] theorem State.withDevErrs_mem : (s.withDevErrs v).mem = s.mem := rfl
@[simp] theorem State.withDevErrs_poison : (s.withDevErrs v).poison = s.poison := rfl
@[simp] theorem State.withDevErrs_lineKey : (s.withDevErrs v).lineKey = s.lineKey := rfl
@[simp] theorem State.withDevErrs_badCopy : (s.withDevErrs v).badCopy = s.badCopy := rfl
@[simp] theorem State.withDevErrs_keys : (s.withDevErrs v).keys = s.keys := rfl
@[simp] theorem State.withDevErrs_hostMem : (s.withDevErrs v).hostMem = s.hostMem := rfl
@[simp] theorem State.withDevErrs_hostBad : (s.withDevErrs v).hostBad = s.hostBad := rfl
@[simp] theorem State.withDevErrs_time : (s.withDevErrs v).time = s.time := rfl
@[simp] theorem State.withDevErrs_parts : (s.withDevErrs v).parts = s.parts := rfl
@[simp] theorem State.withDevErrs_cores : (s.withDevErrs v).cores = s.cores := rfl
@[simp] theorem State.withDevErrs_phys : (s.withDevErrs v).phys = s.phys := rfl
@[simp] theorem State.withDevErrs_threads : (s.withDevErrs v).threads = s.threads := rfl
@[simp] theorem State.withDevErrs_jobs : (s.withDevErrs v).jobs = s.jobs := rfl
@[simp] theorem State.withDevErrs_spurs : (s.withDevErrs v).spurs = s.spurs := rfl
@[simp] theorem State.withDevErrs_dmas : (s.withDevErrs v).dmas = s.dmas := rfl
@[simp] theorem State.withDevErrs_nocReqs : (s.withDevErrs v).nocReqs = s.nocReqs := rfl
@[simp] theorem State.withDevErrs_devErrs : (s.withDevErrs v).devErrs = v := rfl
@[simp] theorem State.withDevErrs_sramErrs : (s.withDevErrs v).sramErrs = s.sramErrs := rfl
@[simp] theorem State.withDevErrs_sramUe : (s.withDevErrs v).sramUe = s.sramUe := rfl
@[simp] theorem State.withDevErrs_planHdr : (s.withDevErrs v).planHdr = s.planHdr := rfl
@[simp] theorem State.withDevErrs_cells : (s.withDevErrs v).cells = s.cells := rfl
@[simp] theorem State.withDevErrs_subports : (s.withDevErrs v).subports = s.subports := rfl
@[simp] theorem State.withDevErrs_chains : (s.withDevErrs v).chains = s.chains := rfl
@[simp] theorem State.withDevErrs_fhBufs : (s.withDevErrs v).fhBufs = s.fhBufs := rfl
@[simp] theorem State.withDevErrs_seqs : (s.withDevErrs v).seqs = s.seqs := rfl
@[simp] theorem State.withDevErrs_cmds : (s.withDevErrs v).cmds = s.cmds := rfl
@[simp] theorem State.withDevErrs_nextCmd : (s.withDevErrs v).nextCmd = s.nextCmd := rfl
@[simp] theorem State.withDevErrs_passes : (s.withDevErrs v).passes = s.passes := rfl
@[simp] theorem State.withDevErrs_nextPass : (s.withDevErrs v).nextPass = s.nextPass := rfl
@[simp] theorem State.withDevErrs_models : (s.withDevErrs v).models = s.models := rfl
@[simp] theorem State.withDevErrs_deltas : (s.withDevErrs v).deltas = s.deltas := rfl
@[simp] theorem State.withDevErrs_loads : (s.withDevErrs v).loads = s.loads := rfl
@[simp] theorem State.withDevErrs_lastAdm : (s.withDevErrs v).lastAdm = s.lastAdm := rfl
@[simp] theorem State.withDevErrs_frames : (s.withDevErrs v).frames = s.frames := rfl
@[simp] theorem State.withDevErrs_chunks : (s.withDevErrs v).chunks = s.chunks := rfl
@[simp] theorem State.withDevErrs_freeLists : (s.withDevErrs v).freeLists = s.freeLists := rfl
@[simp] theorem State.withDevErrs_nodes : (s.withDevErrs v).nodes = s.nodes := rfl
@[simp] theorem State.withDevErrs_lru : (s.withDevErrs v).lru = s.lru := rfl
@[simp] theorem State.withDevErrs_heldFrames : (s.withDevErrs v).heldFrames = s.heldFrames := rfl
@[simp] theorem State.withDevErrs_scopesDead : (s.withDevErrs v).scopesDead = s.scopesDead := rfl
@[simp] theorem State.withDevErrs_spills : (s.withDevErrs v).spills = s.spills := rfl
@[simp] theorem State.withDevErrs_links : (s.withDevErrs v).links = s.links := rfl
@[simp] theorem State.withDevErrs_members : (s.withDevErrs v).members = s.members := rfl
@[simp] theorem State.withDevErrs_spares : (s.withDevErrs v).spares = s.spares := rfl
@[simp] theorem State.withDevErrs_cachePeers : (s.withDevErrs v).cachePeers = s.cachePeers := rfl
@[simp] theorem State.withDevErrs_routes : (s.withDevErrs v).routes = s.routes := rfl
@[simp] theorem State.withDevErrs_fabReqs : (s.withDevErrs v).fabReqs = s.fabReqs := rfl
@[simp] theorem State.withDevErrs_nextTid : (s.withDevErrs v).nextTid = s.nextTid := rfl
@[simp] theorem State.withDevErrs_windows : (s.withDevErrs v).windows = s.windows := rfl
@[simp] theorem State.withDevErrs_peers : (s.withDevErrs v).peers = s.peers := rfl
@[simp] theorem State.withDevErrs_move : (s.withDevErrs v).move = s.move := rfl
@[simp] theorem State.withDevErrs_rings : (s.withDevErrs v).rings = s.rings := rfl
@[simp] theorem State.withDevErrs_slices : (s.withDevErrs v).slices = s.slices := rfl
@[simp] theorem State.withDevErrs_groups : (s.withDevErrs v).groups = s.groups := rfl
@[simp] theorem State.withDevErrs_thaws : (s.withDevErrs v).thaws = s.thaws := rfl
@[simp] theorem State.withDevErrs_copies : (s.withDevErrs v).copies = s.copies := rfl
@[simp] theorem State.withDevErrs_heldCmds : (s.withDevErrs v).heldCmds = s.heldCmds := rfl
@[simp] theorem State.withDevErrs_coord : (s.withDevErrs v).coord = s.coord := rfl
@[simp] theorem State.withDevErrs_ctlWindow : (s.withDevErrs v).ctlWindow = s.ctlWindow := rfl
@[simp] theorem State.withDevErrs_ctlNeg : (s.withDevErrs v).ctlNeg = s.ctlNeg := rfl
@[simp] theorem State.withDevErrs_ctlNegPend : (s.withDevErrs v).ctlNegPend = s.ctlNegPend := rfl
@[simp] theorem State.withDevErrs_ctlAgreed : (s.withDevErrs v).ctlAgreed = s.ctlAgreed := rfl
@[simp] theorem State.withDevErrs_halves : (s.withDevErrs v).halves = s.halves := rfl
@[simp] theorem State.withDevErrs_ctlHb : (s.withDevErrs v).ctlHb = s.ctlHb := rfl
@[simp] theorem State.withDevErrs_events : (s.withDevErrs v).events = s.events := rfl
@[simp] theorem State.withDevErrs_procs : (s.withDevErrs v).procs = s.procs := rfl
@[simp] theorem State.withDevErrs_bring : (s.withDevErrs v).bring = s.bring := rfl
@[simp] theorem State.withDevErrs_sec : (s.withDevErrs v).sec = s.sec := rfl
@[simp] theorem State.withDevErrs_mgt : (s.withDevErrs v).mgt = s.mgt := rfl
@[simp] theorem State.withDevErrs_free : (s.withDevErrs v).free = s.free := rfl
@[simp] theorem State.withDevErrs_out : (s.withDevErrs v).out = s.out := rfl
@[simp] theorem State.rd_withDevErrs (f : Field) (i : Nat) : (s.withDevErrs v).rd f i = s.rd f i := rfl
end
section
variable (v : List (Nat × Nat × Nat))
@[simp] theorem State.withSramErrs_pending : (s.withSramErrs v).pending = s.pending := rfl
@[simp] theorem State.withSramErrs_regs : (s.withSramErrs v).regs = s.regs := rfl
@[simp] theorem State.withSramErrs_staged : (s.withSramErrs v).staged = s.staged := rfl
@[simp] theorem State.withSramErrs_mem : (s.withSramErrs v).mem = s.mem := rfl
@[simp] theorem State.withSramErrs_poison : (s.withSramErrs v).poison = s.poison := rfl
@[simp] theorem State.withSramErrs_lineKey : (s.withSramErrs v).lineKey = s.lineKey := rfl
@[simp] theorem State.withSramErrs_badCopy : (s.withSramErrs v).badCopy = s.badCopy := rfl
@[simp] theorem State.withSramErrs_keys : (s.withSramErrs v).keys = s.keys := rfl
@[simp] theorem State.withSramErrs_hostMem : (s.withSramErrs v).hostMem = s.hostMem := rfl
@[simp] theorem State.withSramErrs_hostBad : (s.withSramErrs v).hostBad = s.hostBad := rfl
@[simp] theorem State.withSramErrs_time : (s.withSramErrs v).time = s.time := rfl
@[simp] theorem State.withSramErrs_parts : (s.withSramErrs v).parts = s.parts := rfl
@[simp] theorem State.withSramErrs_cores : (s.withSramErrs v).cores = s.cores := rfl
@[simp] theorem State.withSramErrs_phys : (s.withSramErrs v).phys = s.phys := rfl
@[simp] theorem State.withSramErrs_threads : (s.withSramErrs v).threads = s.threads := rfl
@[simp] theorem State.withSramErrs_jobs : (s.withSramErrs v).jobs = s.jobs := rfl
@[simp] theorem State.withSramErrs_spurs : (s.withSramErrs v).spurs = s.spurs := rfl
@[simp] theorem State.withSramErrs_dmas : (s.withSramErrs v).dmas = s.dmas := rfl
@[simp] theorem State.withSramErrs_nocReqs : (s.withSramErrs v).nocReqs = s.nocReqs := rfl
@[simp] theorem State.withSramErrs_devErrs : (s.withSramErrs v).devErrs = s.devErrs := rfl
@[simp] theorem State.withSramErrs_sramErrs : (s.withSramErrs v).sramErrs = v := rfl
@[simp] theorem State.withSramErrs_sramUe : (s.withSramErrs v).sramUe = s.sramUe := rfl
@[simp] theorem State.withSramErrs_planHdr : (s.withSramErrs v).planHdr = s.planHdr := rfl
@[simp] theorem State.withSramErrs_cells : (s.withSramErrs v).cells = s.cells := rfl
@[simp] theorem State.withSramErrs_subports : (s.withSramErrs v).subports = s.subports := rfl
@[simp] theorem State.withSramErrs_chains : (s.withSramErrs v).chains = s.chains := rfl
@[simp] theorem State.withSramErrs_fhBufs : (s.withSramErrs v).fhBufs = s.fhBufs := rfl
@[simp] theorem State.withSramErrs_seqs : (s.withSramErrs v).seqs = s.seqs := rfl
@[simp] theorem State.withSramErrs_cmds : (s.withSramErrs v).cmds = s.cmds := rfl
@[simp] theorem State.withSramErrs_nextCmd : (s.withSramErrs v).nextCmd = s.nextCmd := rfl
@[simp] theorem State.withSramErrs_passes : (s.withSramErrs v).passes = s.passes := rfl
@[simp] theorem State.withSramErrs_nextPass : (s.withSramErrs v).nextPass = s.nextPass := rfl
@[simp] theorem State.withSramErrs_models : (s.withSramErrs v).models = s.models := rfl
@[simp] theorem State.withSramErrs_deltas : (s.withSramErrs v).deltas = s.deltas := rfl
@[simp] theorem State.withSramErrs_loads : (s.withSramErrs v).loads = s.loads := rfl
@[simp] theorem State.withSramErrs_lastAdm : (s.withSramErrs v).lastAdm = s.lastAdm := rfl
@[simp] theorem State.withSramErrs_frames : (s.withSramErrs v).frames = s.frames := rfl
@[simp] theorem State.withSramErrs_chunks : (s.withSramErrs v).chunks = s.chunks := rfl
@[simp] theorem State.withSramErrs_freeLists : (s.withSramErrs v).freeLists = s.freeLists := rfl
@[simp] theorem State.withSramErrs_nodes : (s.withSramErrs v).nodes = s.nodes := rfl
@[simp] theorem State.withSramErrs_lru : (s.withSramErrs v).lru = s.lru := rfl
@[simp] theorem State.withSramErrs_heldFrames : (s.withSramErrs v).heldFrames = s.heldFrames := rfl
@[simp] theorem State.withSramErrs_scopesDead : (s.withSramErrs v).scopesDead = s.scopesDead := rfl
@[simp] theorem State.withSramErrs_spills : (s.withSramErrs v).spills = s.spills := rfl
@[simp] theorem State.withSramErrs_links : (s.withSramErrs v).links = s.links := rfl
@[simp] theorem State.withSramErrs_members : (s.withSramErrs v).members = s.members := rfl
@[simp] theorem State.withSramErrs_spares : (s.withSramErrs v).spares = s.spares := rfl
@[simp] theorem State.withSramErrs_cachePeers : (s.withSramErrs v).cachePeers = s.cachePeers := rfl
@[simp] theorem State.withSramErrs_routes : (s.withSramErrs v).routes = s.routes := rfl
@[simp] theorem State.withSramErrs_fabReqs : (s.withSramErrs v).fabReqs = s.fabReqs := rfl
@[simp] theorem State.withSramErrs_nextTid : (s.withSramErrs v).nextTid = s.nextTid := rfl
@[simp] theorem State.withSramErrs_windows : (s.withSramErrs v).windows = s.windows := rfl
@[simp] theorem State.withSramErrs_peers : (s.withSramErrs v).peers = s.peers := rfl
@[simp] theorem State.withSramErrs_move : (s.withSramErrs v).move = s.move := rfl
@[simp] theorem State.withSramErrs_rings : (s.withSramErrs v).rings = s.rings := rfl
@[simp] theorem State.withSramErrs_slices : (s.withSramErrs v).slices = s.slices := rfl
@[simp] theorem State.withSramErrs_groups : (s.withSramErrs v).groups = s.groups := rfl
@[simp] theorem State.withSramErrs_thaws : (s.withSramErrs v).thaws = s.thaws := rfl
@[simp] theorem State.withSramErrs_copies : (s.withSramErrs v).copies = s.copies := rfl
@[simp] theorem State.withSramErrs_heldCmds : (s.withSramErrs v).heldCmds = s.heldCmds := rfl
@[simp] theorem State.withSramErrs_coord : (s.withSramErrs v).coord = s.coord := rfl
@[simp] theorem State.withSramErrs_ctlWindow : (s.withSramErrs v).ctlWindow = s.ctlWindow := rfl
@[simp] theorem State.withSramErrs_ctlNeg : (s.withSramErrs v).ctlNeg = s.ctlNeg := rfl
@[simp] theorem State.withSramErrs_ctlNegPend : (s.withSramErrs v).ctlNegPend = s.ctlNegPend := rfl
@[simp] theorem State.withSramErrs_ctlAgreed : (s.withSramErrs v).ctlAgreed = s.ctlAgreed := rfl
@[simp] theorem State.withSramErrs_halves : (s.withSramErrs v).halves = s.halves := rfl
@[simp] theorem State.withSramErrs_ctlHb : (s.withSramErrs v).ctlHb = s.ctlHb := rfl
@[simp] theorem State.withSramErrs_events : (s.withSramErrs v).events = s.events := rfl
@[simp] theorem State.withSramErrs_procs : (s.withSramErrs v).procs = s.procs := rfl
@[simp] theorem State.withSramErrs_bring : (s.withSramErrs v).bring = s.bring := rfl
@[simp] theorem State.withSramErrs_sec : (s.withSramErrs v).sec = s.sec := rfl
@[simp] theorem State.withSramErrs_mgt : (s.withSramErrs v).mgt = s.mgt := rfl
@[simp] theorem State.withSramErrs_free : (s.withSramErrs v).free = s.free := rfl
@[simp] theorem State.withSramErrs_out : (s.withSramErrs v).out = s.out := rfl
@[simp] theorem State.rd_withSramErrs (f : Field) (i : Nat) : (s.withSramErrs v).rd f i = s.rd f i := rfl
end
section
variable (v : Option Nat)
@[simp] theorem State.withSramUe_pending : (s.withSramUe v).pending = s.pending := rfl
@[simp] theorem State.withSramUe_regs : (s.withSramUe v).regs = s.regs := rfl
@[simp] theorem State.withSramUe_staged : (s.withSramUe v).staged = s.staged := rfl
@[simp] theorem State.withSramUe_mem : (s.withSramUe v).mem = s.mem := rfl
@[simp] theorem State.withSramUe_poison : (s.withSramUe v).poison = s.poison := rfl
@[simp] theorem State.withSramUe_lineKey : (s.withSramUe v).lineKey = s.lineKey := rfl
@[simp] theorem State.withSramUe_badCopy : (s.withSramUe v).badCopy = s.badCopy := rfl
@[simp] theorem State.withSramUe_keys : (s.withSramUe v).keys = s.keys := rfl
@[simp] theorem State.withSramUe_hostMem : (s.withSramUe v).hostMem = s.hostMem := rfl
@[simp] theorem State.withSramUe_hostBad : (s.withSramUe v).hostBad = s.hostBad := rfl
@[simp] theorem State.withSramUe_time : (s.withSramUe v).time = s.time := rfl
@[simp] theorem State.withSramUe_parts : (s.withSramUe v).parts = s.parts := rfl
@[simp] theorem State.withSramUe_cores : (s.withSramUe v).cores = s.cores := rfl
@[simp] theorem State.withSramUe_phys : (s.withSramUe v).phys = s.phys := rfl
@[simp] theorem State.withSramUe_threads : (s.withSramUe v).threads = s.threads := rfl
@[simp] theorem State.withSramUe_jobs : (s.withSramUe v).jobs = s.jobs := rfl
@[simp] theorem State.withSramUe_spurs : (s.withSramUe v).spurs = s.spurs := rfl
@[simp] theorem State.withSramUe_dmas : (s.withSramUe v).dmas = s.dmas := rfl
@[simp] theorem State.withSramUe_nocReqs : (s.withSramUe v).nocReqs = s.nocReqs := rfl
@[simp] theorem State.withSramUe_devErrs : (s.withSramUe v).devErrs = s.devErrs := rfl
@[simp] theorem State.withSramUe_sramErrs : (s.withSramUe v).sramErrs = s.sramErrs := rfl
@[simp] theorem State.withSramUe_sramUe : (s.withSramUe v).sramUe = v := rfl
@[simp] theorem State.withSramUe_planHdr : (s.withSramUe v).planHdr = s.planHdr := rfl
@[simp] theorem State.withSramUe_cells : (s.withSramUe v).cells = s.cells := rfl
@[simp] theorem State.withSramUe_subports : (s.withSramUe v).subports = s.subports := rfl
@[simp] theorem State.withSramUe_chains : (s.withSramUe v).chains = s.chains := rfl
@[simp] theorem State.withSramUe_fhBufs : (s.withSramUe v).fhBufs = s.fhBufs := rfl
@[simp] theorem State.withSramUe_seqs : (s.withSramUe v).seqs = s.seqs := rfl
@[simp] theorem State.withSramUe_cmds : (s.withSramUe v).cmds = s.cmds := rfl
@[simp] theorem State.withSramUe_nextCmd : (s.withSramUe v).nextCmd = s.nextCmd := rfl
@[simp] theorem State.withSramUe_passes : (s.withSramUe v).passes = s.passes := rfl
@[simp] theorem State.withSramUe_nextPass : (s.withSramUe v).nextPass = s.nextPass := rfl
@[simp] theorem State.withSramUe_models : (s.withSramUe v).models = s.models := rfl
@[simp] theorem State.withSramUe_deltas : (s.withSramUe v).deltas = s.deltas := rfl
@[simp] theorem State.withSramUe_loads : (s.withSramUe v).loads = s.loads := rfl
@[simp] theorem State.withSramUe_lastAdm : (s.withSramUe v).lastAdm = s.lastAdm := rfl
@[simp] theorem State.withSramUe_frames : (s.withSramUe v).frames = s.frames := rfl
@[simp] theorem State.withSramUe_chunks : (s.withSramUe v).chunks = s.chunks := rfl
@[simp] theorem State.withSramUe_freeLists : (s.withSramUe v).freeLists = s.freeLists := rfl
@[simp] theorem State.withSramUe_nodes : (s.withSramUe v).nodes = s.nodes := rfl
@[simp] theorem State.withSramUe_lru : (s.withSramUe v).lru = s.lru := rfl
@[simp] theorem State.withSramUe_heldFrames : (s.withSramUe v).heldFrames = s.heldFrames := rfl
@[simp] theorem State.withSramUe_scopesDead : (s.withSramUe v).scopesDead = s.scopesDead := rfl
@[simp] theorem State.withSramUe_spills : (s.withSramUe v).spills = s.spills := rfl
@[simp] theorem State.withSramUe_links : (s.withSramUe v).links = s.links := rfl
@[simp] theorem State.withSramUe_members : (s.withSramUe v).members = s.members := rfl
@[simp] theorem State.withSramUe_spares : (s.withSramUe v).spares = s.spares := rfl
@[simp] theorem State.withSramUe_cachePeers : (s.withSramUe v).cachePeers = s.cachePeers := rfl
@[simp] theorem State.withSramUe_routes : (s.withSramUe v).routes = s.routes := rfl
@[simp] theorem State.withSramUe_fabReqs : (s.withSramUe v).fabReqs = s.fabReqs := rfl
@[simp] theorem State.withSramUe_nextTid : (s.withSramUe v).nextTid = s.nextTid := rfl
@[simp] theorem State.withSramUe_windows : (s.withSramUe v).windows = s.windows := rfl
@[simp] theorem State.withSramUe_peers : (s.withSramUe v).peers = s.peers := rfl
@[simp] theorem State.withSramUe_move : (s.withSramUe v).move = s.move := rfl
@[simp] theorem State.withSramUe_rings : (s.withSramUe v).rings = s.rings := rfl
@[simp] theorem State.withSramUe_slices : (s.withSramUe v).slices = s.slices := rfl
@[simp] theorem State.withSramUe_groups : (s.withSramUe v).groups = s.groups := rfl
@[simp] theorem State.withSramUe_thaws : (s.withSramUe v).thaws = s.thaws := rfl
@[simp] theorem State.withSramUe_copies : (s.withSramUe v).copies = s.copies := rfl
@[simp] theorem State.withSramUe_heldCmds : (s.withSramUe v).heldCmds = s.heldCmds := rfl
@[simp] theorem State.withSramUe_coord : (s.withSramUe v).coord = s.coord := rfl
@[simp] theorem State.withSramUe_ctlWindow : (s.withSramUe v).ctlWindow = s.ctlWindow := rfl
@[simp] theorem State.withSramUe_ctlNeg : (s.withSramUe v).ctlNeg = s.ctlNeg := rfl
@[simp] theorem State.withSramUe_ctlNegPend : (s.withSramUe v).ctlNegPend = s.ctlNegPend := rfl
@[simp] theorem State.withSramUe_ctlAgreed : (s.withSramUe v).ctlAgreed = s.ctlAgreed := rfl
@[simp] theorem State.withSramUe_halves : (s.withSramUe v).halves = s.halves := rfl
@[simp] theorem State.withSramUe_ctlHb : (s.withSramUe v).ctlHb = s.ctlHb := rfl
@[simp] theorem State.withSramUe_events : (s.withSramUe v).events = s.events := rfl
@[simp] theorem State.withSramUe_procs : (s.withSramUe v).procs = s.procs := rfl
@[simp] theorem State.withSramUe_bring : (s.withSramUe v).bring = s.bring := rfl
@[simp] theorem State.withSramUe_sec : (s.withSramUe v).sec = s.sec := rfl
@[simp] theorem State.withSramUe_mgt : (s.withSramUe v).mgt = s.mgt := rfl
@[simp] theorem State.withSramUe_free : (s.withSramUe v).free = s.free := rfl
@[simp] theorem State.withSramUe_out : (s.withSramUe v).out = s.out := rfl
@[simp] theorem State.rd_withSramUe (f : Field) (i : Nat) : (s.withSramUe v).rd f i = s.rd f i := rfl
end
section
variable (v : Word × Word × Word × Word)
@[simp] theorem State.withPlanHdr_pending : (s.withPlanHdr v).pending = s.pending := rfl
@[simp] theorem State.withPlanHdr_regs : (s.withPlanHdr v).regs = s.regs := rfl
@[simp] theorem State.withPlanHdr_staged : (s.withPlanHdr v).staged = s.staged := rfl
@[simp] theorem State.withPlanHdr_mem : (s.withPlanHdr v).mem = s.mem := rfl
@[simp] theorem State.withPlanHdr_poison : (s.withPlanHdr v).poison = s.poison := rfl
@[simp] theorem State.withPlanHdr_lineKey : (s.withPlanHdr v).lineKey = s.lineKey := rfl
@[simp] theorem State.withPlanHdr_badCopy : (s.withPlanHdr v).badCopy = s.badCopy := rfl
@[simp] theorem State.withPlanHdr_keys : (s.withPlanHdr v).keys = s.keys := rfl
@[simp] theorem State.withPlanHdr_hostMem : (s.withPlanHdr v).hostMem = s.hostMem := rfl
@[simp] theorem State.withPlanHdr_hostBad : (s.withPlanHdr v).hostBad = s.hostBad := rfl
@[simp] theorem State.withPlanHdr_time : (s.withPlanHdr v).time = s.time := rfl
@[simp] theorem State.withPlanHdr_parts : (s.withPlanHdr v).parts = s.parts := rfl
@[simp] theorem State.withPlanHdr_cores : (s.withPlanHdr v).cores = s.cores := rfl
@[simp] theorem State.withPlanHdr_phys : (s.withPlanHdr v).phys = s.phys := rfl
@[simp] theorem State.withPlanHdr_threads : (s.withPlanHdr v).threads = s.threads := rfl
@[simp] theorem State.withPlanHdr_jobs : (s.withPlanHdr v).jobs = s.jobs := rfl
@[simp] theorem State.withPlanHdr_spurs : (s.withPlanHdr v).spurs = s.spurs := rfl
@[simp] theorem State.withPlanHdr_dmas : (s.withPlanHdr v).dmas = s.dmas := rfl
@[simp] theorem State.withPlanHdr_nocReqs : (s.withPlanHdr v).nocReqs = s.nocReqs := rfl
@[simp] theorem State.withPlanHdr_devErrs : (s.withPlanHdr v).devErrs = s.devErrs := rfl
@[simp] theorem State.withPlanHdr_sramErrs : (s.withPlanHdr v).sramErrs = s.sramErrs := rfl
@[simp] theorem State.withPlanHdr_sramUe : (s.withPlanHdr v).sramUe = s.sramUe := rfl
@[simp] theorem State.withPlanHdr_planHdr : (s.withPlanHdr v).planHdr = v := rfl
@[simp] theorem State.withPlanHdr_cells : (s.withPlanHdr v).cells = s.cells := rfl
@[simp] theorem State.withPlanHdr_subports : (s.withPlanHdr v).subports = s.subports := rfl
@[simp] theorem State.withPlanHdr_chains : (s.withPlanHdr v).chains = s.chains := rfl
@[simp] theorem State.withPlanHdr_fhBufs : (s.withPlanHdr v).fhBufs = s.fhBufs := rfl
@[simp] theorem State.withPlanHdr_seqs : (s.withPlanHdr v).seqs = s.seqs := rfl
@[simp] theorem State.withPlanHdr_cmds : (s.withPlanHdr v).cmds = s.cmds := rfl
@[simp] theorem State.withPlanHdr_nextCmd : (s.withPlanHdr v).nextCmd = s.nextCmd := rfl
@[simp] theorem State.withPlanHdr_passes : (s.withPlanHdr v).passes = s.passes := rfl
@[simp] theorem State.withPlanHdr_nextPass : (s.withPlanHdr v).nextPass = s.nextPass := rfl
@[simp] theorem State.withPlanHdr_models : (s.withPlanHdr v).models = s.models := rfl
@[simp] theorem State.withPlanHdr_deltas : (s.withPlanHdr v).deltas = s.deltas := rfl
@[simp] theorem State.withPlanHdr_loads : (s.withPlanHdr v).loads = s.loads := rfl
@[simp] theorem State.withPlanHdr_lastAdm : (s.withPlanHdr v).lastAdm = s.lastAdm := rfl
@[simp] theorem State.withPlanHdr_frames : (s.withPlanHdr v).frames = s.frames := rfl
@[simp] theorem State.withPlanHdr_chunks : (s.withPlanHdr v).chunks = s.chunks := rfl
@[simp] theorem State.withPlanHdr_freeLists : (s.withPlanHdr v).freeLists = s.freeLists := rfl
@[simp] theorem State.withPlanHdr_nodes : (s.withPlanHdr v).nodes = s.nodes := rfl
@[simp] theorem State.withPlanHdr_lru : (s.withPlanHdr v).lru = s.lru := rfl
@[simp] theorem State.withPlanHdr_heldFrames : (s.withPlanHdr v).heldFrames = s.heldFrames := rfl
@[simp] theorem State.withPlanHdr_scopesDead : (s.withPlanHdr v).scopesDead = s.scopesDead := rfl
@[simp] theorem State.withPlanHdr_spills : (s.withPlanHdr v).spills = s.spills := rfl
@[simp] theorem State.withPlanHdr_links : (s.withPlanHdr v).links = s.links := rfl
@[simp] theorem State.withPlanHdr_members : (s.withPlanHdr v).members = s.members := rfl
@[simp] theorem State.withPlanHdr_spares : (s.withPlanHdr v).spares = s.spares := rfl
@[simp] theorem State.withPlanHdr_cachePeers : (s.withPlanHdr v).cachePeers = s.cachePeers := rfl
@[simp] theorem State.withPlanHdr_routes : (s.withPlanHdr v).routes = s.routes := rfl
@[simp] theorem State.withPlanHdr_fabReqs : (s.withPlanHdr v).fabReqs = s.fabReqs := rfl
@[simp] theorem State.withPlanHdr_nextTid : (s.withPlanHdr v).nextTid = s.nextTid := rfl
@[simp] theorem State.withPlanHdr_windows : (s.withPlanHdr v).windows = s.windows := rfl
@[simp] theorem State.withPlanHdr_peers : (s.withPlanHdr v).peers = s.peers := rfl
@[simp] theorem State.withPlanHdr_move : (s.withPlanHdr v).move = s.move := rfl
@[simp] theorem State.withPlanHdr_rings : (s.withPlanHdr v).rings = s.rings := rfl
@[simp] theorem State.withPlanHdr_slices : (s.withPlanHdr v).slices = s.slices := rfl
@[simp] theorem State.withPlanHdr_groups : (s.withPlanHdr v).groups = s.groups := rfl
@[simp] theorem State.withPlanHdr_thaws : (s.withPlanHdr v).thaws = s.thaws := rfl
@[simp] theorem State.withPlanHdr_copies : (s.withPlanHdr v).copies = s.copies := rfl
@[simp] theorem State.withPlanHdr_heldCmds : (s.withPlanHdr v).heldCmds = s.heldCmds := rfl
@[simp] theorem State.withPlanHdr_coord : (s.withPlanHdr v).coord = s.coord := rfl
@[simp] theorem State.withPlanHdr_ctlWindow : (s.withPlanHdr v).ctlWindow = s.ctlWindow := rfl
@[simp] theorem State.withPlanHdr_ctlNeg : (s.withPlanHdr v).ctlNeg = s.ctlNeg := rfl
@[simp] theorem State.withPlanHdr_ctlNegPend : (s.withPlanHdr v).ctlNegPend = s.ctlNegPend := rfl
@[simp] theorem State.withPlanHdr_ctlAgreed : (s.withPlanHdr v).ctlAgreed = s.ctlAgreed := rfl
@[simp] theorem State.withPlanHdr_halves : (s.withPlanHdr v).halves = s.halves := rfl
@[simp] theorem State.withPlanHdr_ctlHb : (s.withPlanHdr v).ctlHb = s.ctlHb := rfl
@[simp] theorem State.withPlanHdr_events : (s.withPlanHdr v).events = s.events := rfl
@[simp] theorem State.withPlanHdr_procs : (s.withPlanHdr v).procs = s.procs := rfl
@[simp] theorem State.withPlanHdr_bring : (s.withPlanHdr v).bring = s.bring := rfl
@[simp] theorem State.withPlanHdr_sec : (s.withPlanHdr v).sec = s.sec := rfl
@[simp] theorem State.withPlanHdr_mgt : (s.withPlanHdr v).mgt = s.mgt := rfl
@[simp] theorem State.withPlanHdr_free : (s.withPlanHdr v).free = s.free := rfl
@[simp] theorem State.withPlanHdr_out : (s.withPlanHdr v).out = s.out := rfl
@[simp] theorem State.rd_withPlanHdr (f : Field) (i : Nat) : (s.withPlanHdr v).rd f i = s.rd f i := rfl
end
section
variable (v : KMap Cell)
@[simp] theorem State.withCells_pending : (s.withCells v).pending = s.pending := rfl
@[simp] theorem State.withCells_regs : (s.withCells v).regs = s.regs := rfl
@[simp] theorem State.withCells_staged : (s.withCells v).staged = s.staged := rfl
@[simp] theorem State.withCells_mem : (s.withCells v).mem = s.mem := rfl
@[simp] theorem State.withCells_poison : (s.withCells v).poison = s.poison := rfl
@[simp] theorem State.withCells_lineKey : (s.withCells v).lineKey = s.lineKey := rfl
@[simp] theorem State.withCells_badCopy : (s.withCells v).badCopy = s.badCopy := rfl
@[simp] theorem State.withCells_keys : (s.withCells v).keys = s.keys := rfl
@[simp] theorem State.withCells_hostMem : (s.withCells v).hostMem = s.hostMem := rfl
@[simp] theorem State.withCells_hostBad : (s.withCells v).hostBad = s.hostBad := rfl
@[simp] theorem State.withCells_time : (s.withCells v).time = s.time := rfl
@[simp] theorem State.withCells_parts : (s.withCells v).parts = s.parts := rfl
@[simp] theorem State.withCells_cores : (s.withCells v).cores = s.cores := rfl
@[simp] theorem State.withCells_phys : (s.withCells v).phys = s.phys := rfl
@[simp] theorem State.withCells_threads : (s.withCells v).threads = s.threads := rfl
@[simp] theorem State.withCells_jobs : (s.withCells v).jobs = s.jobs := rfl
@[simp] theorem State.withCells_spurs : (s.withCells v).spurs = s.spurs := rfl
@[simp] theorem State.withCells_dmas : (s.withCells v).dmas = s.dmas := rfl
@[simp] theorem State.withCells_nocReqs : (s.withCells v).nocReqs = s.nocReqs := rfl
@[simp] theorem State.withCells_devErrs : (s.withCells v).devErrs = s.devErrs := rfl
@[simp] theorem State.withCells_sramErrs : (s.withCells v).sramErrs = s.sramErrs := rfl
@[simp] theorem State.withCells_sramUe : (s.withCells v).sramUe = s.sramUe := rfl
@[simp] theorem State.withCells_planHdr : (s.withCells v).planHdr = s.planHdr := rfl
@[simp] theorem State.withCells_cells : (s.withCells v).cells = v := rfl
@[simp] theorem State.withCells_subports : (s.withCells v).subports = s.subports := rfl
@[simp] theorem State.withCells_chains : (s.withCells v).chains = s.chains := rfl
@[simp] theorem State.withCells_fhBufs : (s.withCells v).fhBufs = s.fhBufs := rfl
@[simp] theorem State.withCells_seqs : (s.withCells v).seqs = s.seqs := rfl
@[simp] theorem State.withCells_cmds : (s.withCells v).cmds = s.cmds := rfl
@[simp] theorem State.withCells_nextCmd : (s.withCells v).nextCmd = s.nextCmd := rfl
@[simp] theorem State.withCells_passes : (s.withCells v).passes = s.passes := rfl
@[simp] theorem State.withCells_nextPass : (s.withCells v).nextPass = s.nextPass := rfl
@[simp] theorem State.withCells_models : (s.withCells v).models = s.models := rfl
@[simp] theorem State.withCells_deltas : (s.withCells v).deltas = s.deltas := rfl
@[simp] theorem State.withCells_loads : (s.withCells v).loads = s.loads := rfl
@[simp] theorem State.withCells_lastAdm : (s.withCells v).lastAdm = s.lastAdm := rfl
@[simp] theorem State.withCells_frames : (s.withCells v).frames = s.frames := rfl
@[simp] theorem State.withCells_chunks : (s.withCells v).chunks = s.chunks := rfl
@[simp] theorem State.withCells_freeLists : (s.withCells v).freeLists = s.freeLists := rfl
@[simp] theorem State.withCells_nodes : (s.withCells v).nodes = s.nodes := rfl
@[simp] theorem State.withCells_lru : (s.withCells v).lru = s.lru := rfl
@[simp] theorem State.withCells_heldFrames : (s.withCells v).heldFrames = s.heldFrames := rfl
@[simp] theorem State.withCells_scopesDead : (s.withCells v).scopesDead = s.scopesDead := rfl
@[simp] theorem State.withCells_spills : (s.withCells v).spills = s.spills := rfl
@[simp] theorem State.withCells_links : (s.withCells v).links = s.links := rfl
@[simp] theorem State.withCells_members : (s.withCells v).members = s.members := rfl
@[simp] theorem State.withCells_spares : (s.withCells v).spares = s.spares := rfl
@[simp] theorem State.withCells_cachePeers : (s.withCells v).cachePeers = s.cachePeers := rfl
@[simp] theorem State.withCells_routes : (s.withCells v).routes = s.routes := rfl
@[simp] theorem State.withCells_fabReqs : (s.withCells v).fabReqs = s.fabReqs := rfl
@[simp] theorem State.withCells_nextTid : (s.withCells v).nextTid = s.nextTid := rfl
@[simp] theorem State.withCells_windows : (s.withCells v).windows = s.windows := rfl
@[simp] theorem State.withCells_peers : (s.withCells v).peers = s.peers := rfl
@[simp] theorem State.withCells_move : (s.withCells v).move = s.move := rfl
@[simp] theorem State.withCells_rings : (s.withCells v).rings = s.rings := rfl
@[simp] theorem State.withCells_slices : (s.withCells v).slices = s.slices := rfl
@[simp] theorem State.withCells_groups : (s.withCells v).groups = s.groups := rfl
@[simp] theorem State.withCells_thaws : (s.withCells v).thaws = s.thaws := rfl
@[simp] theorem State.withCells_copies : (s.withCells v).copies = s.copies := rfl
@[simp] theorem State.withCells_heldCmds : (s.withCells v).heldCmds = s.heldCmds := rfl
@[simp] theorem State.withCells_coord : (s.withCells v).coord = s.coord := rfl
@[simp] theorem State.withCells_ctlWindow : (s.withCells v).ctlWindow = s.ctlWindow := rfl
@[simp] theorem State.withCells_ctlNeg : (s.withCells v).ctlNeg = s.ctlNeg := rfl
@[simp] theorem State.withCells_ctlNegPend : (s.withCells v).ctlNegPend = s.ctlNegPend := rfl
@[simp] theorem State.withCells_ctlAgreed : (s.withCells v).ctlAgreed = s.ctlAgreed := rfl
@[simp] theorem State.withCells_halves : (s.withCells v).halves = s.halves := rfl
@[simp] theorem State.withCells_ctlHb : (s.withCells v).ctlHb = s.ctlHb := rfl
@[simp] theorem State.withCells_events : (s.withCells v).events = s.events := rfl
@[simp] theorem State.withCells_procs : (s.withCells v).procs = s.procs := rfl
@[simp] theorem State.withCells_bring : (s.withCells v).bring = s.bring := rfl
@[simp] theorem State.withCells_sec : (s.withCells v).sec = s.sec := rfl
@[simp] theorem State.withCells_mgt : (s.withCells v).mgt = s.mgt := rfl
@[simp] theorem State.withCells_free : (s.withCells v).free = s.free := rfl
@[simp] theorem State.withCells_out : (s.withCells v).out = s.out := rfl
@[simp] theorem State.rd_withCells (f : Field) (i : Nat) : (s.withCells v).rd f i = s.rd f i := rfl
end
section
variable (v : KMap Subport)
@[simp] theorem State.withSubports_pending : (s.withSubports v).pending = s.pending := rfl
@[simp] theorem State.withSubports_regs : (s.withSubports v).regs = s.regs := rfl
@[simp] theorem State.withSubports_staged : (s.withSubports v).staged = s.staged := rfl
@[simp] theorem State.withSubports_mem : (s.withSubports v).mem = s.mem := rfl
@[simp] theorem State.withSubports_poison : (s.withSubports v).poison = s.poison := rfl
@[simp] theorem State.withSubports_lineKey : (s.withSubports v).lineKey = s.lineKey := rfl
@[simp] theorem State.withSubports_badCopy : (s.withSubports v).badCopy = s.badCopy := rfl
@[simp] theorem State.withSubports_keys : (s.withSubports v).keys = s.keys := rfl
@[simp] theorem State.withSubports_hostMem : (s.withSubports v).hostMem = s.hostMem := rfl
@[simp] theorem State.withSubports_hostBad : (s.withSubports v).hostBad = s.hostBad := rfl
@[simp] theorem State.withSubports_time : (s.withSubports v).time = s.time := rfl
@[simp] theorem State.withSubports_parts : (s.withSubports v).parts = s.parts := rfl
@[simp] theorem State.withSubports_cores : (s.withSubports v).cores = s.cores := rfl
@[simp] theorem State.withSubports_phys : (s.withSubports v).phys = s.phys := rfl
@[simp] theorem State.withSubports_threads : (s.withSubports v).threads = s.threads := rfl
@[simp] theorem State.withSubports_jobs : (s.withSubports v).jobs = s.jobs := rfl
@[simp] theorem State.withSubports_spurs : (s.withSubports v).spurs = s.spurs := rfl
@[simp] theorem State.withSubports_dmas : (s.withSubports v).dmas = s.dmas := rfl
@[simp] theorem State.withSubports_nocReqs : (s.withSubports v).nocReqs = s.nocReqs := rfl
@[simp] theorem State.withSubports_devErrs : (s.withSubports v).devErrs = s.devErrs := rfl
@[simp] theorem State.withSubports_sramErrs : (s.withSubports v).sramErrs = s.sramErrs := rfl
@[simp] theorem State.withSubports_sramUe : (s.withSubports v).sramUe = s.sramUe := rfl
@[simp] theorem State.withSubports_planHdr : (s.withSubports v).planHdr = s.planHdr := rfl
@[simp] theorem State.withSubports_cells : (s.withSubports v).cells = s.cells := rfl
@[simp] theorem State.withSubports_subports : (s.withSubports v).subports = v := rfl
@[simp] theorem State.withSubports_chains : (s.withSubports v).chains = s.chains := rfl
@[simp] theorem State.withSubports_fhBufs : (s.withSubports v).fhBufs = s.fhBufs := rfl
@[simp] theorem State.withSubports_seqs : (s.withSubports v).seqs = s.seqs := rfl
@[simp] theorem State.withSubports_cmds : (s.withSubports v).cmds = s.cmds := rfl
@[simp] theorem State.withSubports_nextCmd : (s.withSubports v).nextCmd = s.nextCmd := rfl
@[simp] theorem State.withSubports_passes : (s.withSubports v).passes = s.passes := rfl
@[simp] theorem State.withSubports_nextPass : (s.withSubports v).nextPass = s.nextPass := rfl
@[simp] theorem State.withSubports_models : (s.withSubports v).models = s.models := rfl
@[simp] theorem State.withSubports_deltas : (s.withSubports v).deltas = s.deltas := rfl
@[simp] theorem State.withSubports_loads : (s.withSubports v).loads = s.loads := rfl
@[simp] theorem State.withSubports_lastAdm : (s.withSubports v).lastAdm = s.lastAdm := rfl
@[simp] theorem State.withSubports_frames : (s.withSubports v).frames = s.frames := rfl
@[simp] theorem State.withSubports_chunks : (s.withSubports v).chunks = s.chunks := rfl
@[simp] theorem State.withSubports_freeLists : (s.withSubports v).freeLists = s.freeLists := rfl
@[simp] theorem State.withSubports_nodes : (s.withSubports v).nodes = s.nodes := rfl
@[simp] theorem State.withSubports_lru : (s.withSubports v).lru = s.lru := rfl
@[simp] theorem State.withSubports_heldFrames : (s.withSubports v).heldFrames = s.heldFrames := rfl
@[simp] theorem State.withSubports_scopesDead : (s.withSubports v).scopesDead = s.scopesDead := rfl
@[simp] theorem State.withSubports_spills : (s.withSubports v).spills = s.spills := rfl
@[simp] theorem State.withSubports_links : (s.withSubports v).links = s.links := rfl
@[simp] theorem State.withSubports_members : (s.withSubports v).members = s.members := rfl
@[simp] theorem State.withSubports_spares : (s.withSubports v).spares = s.spares := rfl
@[simp] theorem State.withSubports_cachePeers : (s.withSubports v).cachePeers = s.cachePeers := rfl
@[simp] theorem State.withSubports_routes : (s.withSubports v).routes = s.routes := rfl
@[simp] theorem State.withSubports_fabReqs : (s.withSubports v).fabReqs = s.fabReqs := rfl
@[simp] theorem State.withSubports_nextTid : (s.withSubports v).nextTid = s.nextTid := rfl
@[simp] theorem State.withSubports_windows : (s.withSubports v).windows = s.windows := rfl
@[simp] theorem State.withSubports_peers : (s.withSubports v).peers = s.peers := rfl
@[simp] theorem State.withSubports_move : (s.withSubports v).move = s.move := rfl
@[simp] theorem State.withSubports_rings : (s.withSubports v).rings = s.rings := rfl
@[simp] theorem State.withSubports_slices : (s.withSubports v).slices = s.slices := rfl
@[simp] theorem State.withSubports_groups : (s.withSubports v).groups = s.groups := rfl
@[simp] theorem State.withSubports_thaws : (s.withSubports v).thaws = s.thaws := rfl
@[simp] theorem State.withSubports_copies : (s.withSubports v).copies = s.copies := rfl
@[simp] theorem State.withSubports_heldCmds : (s.withSubports v).heldCmds = s.heldCmds := rfl
@[simp] theorem State.withSubports_coord : (s.withSubports v).coord = s.coord := rfl
@[simp] theorem State.withSubports_ctlWindow : (s.withSubports v).ctlWindow = s.ctlWindow := rfl
@[simp] theorem State.withSubports_ctlNeg : (s.withSubports v).ctlNeg = s.ctlNeg := rfl
@[simp] theorem State.withSubports_ctlNegPend : (s.withSubports v).ctlNegPend = s.ctlNegPend := rfl
@[simp] theorem State.withSubports_ctlAgreed : (s.withSubports v).ctlAgreed = s.ctlAgreed := rfl
@[simp] theorem State.withSubports_halves : (s.withSubports v).halves = s.halves := rfl
@[simp] theorem State.withSubports_ctlHb : (s.withSubports v).ctlHb = s.ctlHb := rfl
@[simp] theorem State.withSubports_events : (s.withSubports v).events = s.events := rfl
@[simp] theorem State.withSubports_procs : (s.withSubports v).procs = s.procs := rfl
@[simp] theorem State.withSubports_bring : (s.withSubports v).bring = s.bring := rfl
@[simp] theorem State.withSubports_sec : (s.withSubports v).sec = s.sec := rfl
@[simp] theorem State.withSubports_mgt : (s.withSubports v).mgt = s.mgt := rfl
@[simp] theorem State.withSubports_free : (s.withSubports v).free = s.free := rfl
@[simp] theorem State.withSubports_out : (s.withSubports v).out = s.out := rfl
@[simp] theorem State.rd_withSubports (f : Field) (i : Nat) : (s.withSubports v).rd f i = s.rd f i := rfl
end
section
variable (v : KMap Chain)
@[simp] theorem State.withChains_pending : (s.withChains v).pending = s.pending := rfl
@[simp] theorem State.withChains_regs : (s.withChains v).regs = s.regs := rfl
@[simp] theorem State.withChains_staged : (s.withChains v).staged = s.staged := rfl
@[simp] theorem State.withChains_mem : (s.withChains v).mem = s.mem := rfl
@[simp] theorem State.withChains_poison : (s.withChains v).poison = s.poison := rfl
@[simp] theorem State.withChains_lineKey : (s.withChains v).lineKey = s.lineKey := rfl
@[simp] theorem State.withChains_badCopy : (s.withChains v).badCopy = s.badCopy := rfl
@[simp] theorem State.withChains_keys : (s.withChains v).keys = s.keys := rfl
@[simp] theorem State.withChains_hostMem : (s.withChains v).hostMem = s.hostMem := rfl
@[simp] theorem State.withChains_hostBad : (s.withChains v).hostBad = s.hostBad := rfl
@[simp] theorem State.withChains_time : (s.withChains v).time = s.time := rfl
@[simp] theorem State.withChains_parts : (s.withChains v).parts = s.parts := rfl
@[simp] theorem State.withChains_cores : (s.withChains v).cores = s.cores := rfl
@[simp] theorem State.withChains_phys : (s.withChains v).phys = s.phys := rfl
@[simp] theorem State.withChains_threads : (s.withChains v).threads = s.threads := rfl
@[simp] theorem State.withChains_jobs : (s.withChains v).jobs = s.jobs := rfl
@[simp] theorem State.withChains_spurs : (s.withChains v).spurs = s.spurs := rfl
@[simp] theorem State.withChains_dmas : (s.withChains v).dmas = s.dmas := rfl
@[simp] theorem State.withChains_nocReqs : (s.withChains v).nocReqs = s.nocReqs := rfl
@[simp] theorem State.withChains_devErrs : (s.withChains v).devErrs = s.devErrs := rfl
@[simp] theorem State.withChains_sramErrs : (s.withChains v).sramErrs = s.sramErrs := rfl
@[simp] theorem State.withChains_sramUe : (s.withChains v).sramUe = s.sramUe := rfl
@[simp] theorem State.withChains_planHdr : (s.withChains v).planHdr = s.planHdr := rfl
@[simp] theorem State.withChains_cells : (s.withChains v).cells = s.cells := rfl
@[simp] theorem State.withChains_subports : (s.withChains v).subports = s.subports := rfl
@[simp] theorem State.withChains_chains : (s.withChains v).chains = v := rfl
@[simp] theorem State.withChains_fhBufs : (s.withChains v).fhBufs = s.fhBufs := rfl
@[simp] theorem State.withChains_seqs : (s.withChains v).seqs = s.seqs := rfl
@[simp] theorem State.withChains_cmds : (s.withChains v).cmds = s.cmds := rfl
@[simp] theorem State.withChains_nextCmd : (s.withChains v).nextCmd = s.nextCmd := rfl
@[simp] theorem State.withChains_passes : (s.withChains v).passes = s.passes := rfl
@[simp] theorem State.withChains_nextPass : (s.withChains v).nextPass = s.nextPass := rfl
@[simp] theorem State.withChains_models : (s.withChains v).models = s.models := rfl
@[simp] theorem State.withChains_deltas : (s.withChains v).deltas = s.deltas := rfl
@[simp] theorem State.withChains_loads : (s.withChains v).loads = s.loads := rfl
@[simp] theorem State.withChains_lastAdm : (s.withChains v).lastAdm = s.lastAdm := rfl
@[simp] theorem State.withChains_frames : (s.withChains v).frames = s.frames := rfl
@[simp] theorem State.withChains_chunks : (s.withChains v).chunks = s.chunks := rfl
@[simp] theorem State.withChains_freeLists : (s.withChains v).freeLists = s.freeLists := rfl
@[simp] theorem State.withChains_nodes : (s.withChains v).nodes = s.nodes := rfl
@[simp] theorem State.withChains_lru : (s.withChains v).lru = s.lru := rfl
@[simp] theorem State.withChains_heldFrames : (s.withChains v).heldFrames = s.heldFrames := rfl
@[simp] theorem State.withChains_scopesDead : (s.withChains v).scopesDead = s.scopesDead := rfl
@[simp] theorem State.withChains_spills : (s.withChains v).spills = s.spills := rfl
@[simp] theorem State.withChains_links : (s.withChains v).links = s.links := rfl
@[simp] theorem State.withChains_members : (s.withChains v).members = s.members := rfl
@[simp] theorem State.withChains_spares : (s.withChains v).spares = s.spares := rfl
@[simp] theorem State.withChains_cachePeers : (s.withChains v).cachePeers = s.cachePeers := rfl
@[simp] theorem State.withChains_routes : (s.withChains v).routes = s.routes := rfl
@[simp] theorem State.withChains_fabReqs : (s.withChains v).fabReqs = s.fabReqs := rfl
@[simp] theorem State.withChains_nextTid : (s.withChains v).nextTid = s.nextTid := rfl
@[simp] theorem State.withChains_windows : (s.withChains v).windows = s.windows := rfl
@[simp] theorem State.withChains_peers : (s.withChains v).peers = s.peers := rfl
@[simp] theorem State.withChains_move : (s.withChains v).move = s.move := rfl
@[simp] theorem State.withChains_rings : (s.withChains v).rings = s.rings := rfl
@[simp] theorem State.withChains_slices : (s.withChains v).slices = s.slices := rfl
@[simp] theorem State.withChains_groups : (s.withChains v).groups = s.groups := rfl
@[simp] theorem State.withChains_thaws : (s.withChains v).thaws = s.thaws := rfl
@[simp] theorem State.withChains_copies : (s.withChains v).copies = s.copies := rfl
@[simp] theorem State.withChains_heldCmds : (s.withChains v).heldCmds = s.heldCmds := rfl
@[simp] theorem State.withChains_coord : (s.withChains v).coord = s.coord := rfl
@[simp] theorem State.withChains_ctlWindow : (s.withChains v).ctlWindow = s.ctlWindow := rfl
@[simp] theorem State.withChains_ctlNeg : (s.withChains v).ctlNeg = s.ctlNeg := rfl
@[simp] theorem State.withChains_ctlNegPend : (s.withChains v).ctlNegPend = s.ctlNegPend := rfl
@[simp] theorem State.withChains_ctlAgreed : (s.withChains v).ctlAgreed = s.ctlAgreed := rfl
@[simp] theorem State.withChains_halves : (s.withChains v).halves = s.halves := rfl
@[simp] theorem State.withChains_ctlHb : (s.withChains v).ctlHb = s.ctlHb := rfl
@[simp] theorem State.withChains_events : (s.withChains v).events = s.events := rfl
@[simp] theorem State.withChains_procs : (s.withChains v).procs = s.procs := rfl
@[simp] theorem State.withChains_bring : (s.withChains v).bring = s.bring := rfl
@[simp] theorem State.withChains_sec : (s.withChains v).sec = s.sec := rfl
@[simp] theorem State.withChains_mgt : (s.withChains v).mgt = s.mgt := rfl
@[simp] theorem State.withChains_free : (s.withChains v).free = s.free := rfl
@[simp] theorem State.withChains_out : (s.withChains v).out = s.out := rfl
@[simp] theorem State.rd_withChains (f : Field) (i : Nat) : (s.withChains v).rd f i = s.rd f i := rfl
end
section
variable (v : List FhBuf)
@[simp] theorem State.withFhBufs_pending : (s.withFhBufs v).pending = s.pending := rfl
@[simp] theorem State.withFhBufs_regs : (s.withFhBufs v).regs = s.regs := rfl
@[simp] theorem State.withFhBufs_staged : (s.withFhBufs v).staged = s.staged := rfl
@[simp] theorem State.withFhBufs_mem : (s.withFhBufs v).mem = s.mem := rfl
@[simp] theorem State.withFhBufs_poison : (s.withFhBufs v).poison = s.poison := rfl
@[simp] theorem State.withFhBufs_lineKey : (s.withFhBufs v).lineKey = s.lineKey := rfl
@[simp] theorem State.withFhBufs_badCopy : (s.withFhBufs v).badCopy = s.badCopy := rfl
@[simp] theorem State.withFhBufs_keys : (s.withFhBufs v).keys = s.keys := rfl
@[simp] theorem State.withFhBufs_hostMem : (s.withFhBufs v).hostMem = s.hostMem := rfl
@[simp] theorem State.withFhBufs_hostBad : (s.withFhBufs v).hostBad = s.hostBad := rfl
@[simp] theorem State.withFhBufs_time : (s.withFhBufs v).time = s.time := rfl
@[simp] theorem State.withFhBufs_parts : (s.withFhBufs v).parts = s.parts := rfl
@[simp] theorem State.withFhBufs_cores : (s.withFhBufs v).cores = s.cores := rfl
@[simp] theorem State.withFhBufs_phys : (s.withFhBufs v).phys = s.phys := rfl
@[simp] theorem State.withFhBufs_threads : (s.withFhBufs v).threads = s.threads := rfl
@[simp] theorem State.withFhBufs_jobs : (s.withFhBufs v).jobs = s.jobs := rfl
@[simp] theorem State.withFhBufs_spurs : (s.withFhBufs v).spurs = s.spurs := rfl
@[simp] theorem State.withFhBufs_dmas : (s.withFhBufs v).dmas = s.dmas := rfl
@[simp] theorem State.withFhBufs_nocReqs : (s.withFhBufs v).nocReqs = s.nocReqs := rfl
@[simp] theorem State.withFhBufs_devErrs : (s.withFhBufs v).devErrs = s.devErrs := rfl
@[simp] theorem State.withFhBufs_sramErrs : (s.withFhBufs v).sramErrs = s.sramErrs := rfl
@[simp] theorem State.withFhBufs_sramUe : (s.withFhBufs v).sramUe = s.sramUe := rfl
@[simp] theorem State.withFhBufs_planHdr : (s.withFhBufs v).planHdr = s.planHdr := rfl
@[simp] theorem State.withFhBufs_cells : (s.withFhBufs v).cells = s.cells := rfl
@[simp] theorem State.withFhBufs_subports : (s.withFhBufs v).subports = s.subports := rfl
@[simp] theorem State.withFhBufs_chains : (s.withFhBufs v).chains = s.chains := rfl
@[simp] theorem State.withFhBufs_fhBufs : (s.withFhBufs v).fhBufs = v := rfl
@[simp] theorem State.withFhBufs_seqs : (s.withFhBufs v).seqs = s.seqs := rfl
@[simp] theorem State.withFhBufs_cmds : (s.withFhBufs v).cmds = s.cmds := rfl
@[simp] theorem State.withFhBufs_nextCmd : (s.withFhBufs v).nextCmd = s.nextCmd := rfl
@[simp] theorem State.withFhBufs_passes : (s.withFhBufs v).passes = s.passes := rfl
@[simp] theorem State.withFhBufs_nextPass : (s.withFhBufs v).nextPass = s.nextPass := rfl
@[simp] theorem State.withFhBufs_models : (s.withFhBufs v).models = s.models := rfl
@[simp] theorem State.withFhBufs_deltas : (s.withFhBufs v).deltas = s.deltas := rfl
@[simp] theorem State.withFhBufs_loads : (s.withFhBufs v).loads = s.loads := rfl
@[simp] theorem State.withFhBufs_lastAdm : (s.withFhBufs v).lastAdm = s.lastAdm := rfl
@[simp] theorem State.withFhBufs_frames : (s.withFhBufs v).frames = s.frames := rfl
@[simp] theorem State.withFhBufs_chunks : (s.withFhBufs v).chunks = s.chunks := rfl
@[simp] theorem State.withFhBufs_freeLists : (s.withFhBufs v).freeLists = s.freeLists := rfl
@[simp] theorem State.withFhBufs_nodes : (s.withFhBufs v).nodes = s.nodes := rfl
@[simp] theorem State.withFhBufs_lru : (s.withFhBufs v).lru = s.lru := rfl
@[simp] theorem State.withFhBufs_heldFrames : (s.withFhBufs v).heldFrames = s.heldFrames := rfl
@[simp] theorem State.withFhBufs_scopesDead : (s.withFhBufs v).scopesDead = s.scopesDead := rfl
@[simp] theorem State.withFhBufs_spills : (s.withFhBufs v).spills = s.spills := rfl
@[simp] theorem State.withFhBufs_links : (s.withFhBufs v).links = s.links := rfl
@[simp] theorem State.withFhBufs_members : (s.withFhBufs v).members = s.members := rfl
@[simp] theorem State.withFhBufs_spares : (s.withFhBufs v).spares = s.spares := rfl
@[simp] theorem State.withFhBufs_cachePeers : (s.withFhBufs v).cachePeers = s.cachePeers := rfl
@[simp] theorem State.withFhBufs_routes : (s.withFhBufs v).routes = s.routes := rfl
@[simp] theorem State.withFhBufs_fabReqs : (s.withFhBufs v).fabReqs = s.fabReqs := rfl
@[simp] theorem State.withFhBufs_nextTid : (s.withFhBufs v).nextTid = s.nextTid := rfl
@[simp] theorem State.withFhBufs_windows : (s.withFhBufs v).windows = s.windows := rfl
@[simp] theorem State.withFhBufs_peers : (s.withFhBufs v).peers = s.peers := rfl
@[simp] theorem State.withFhBufs_move : (s.withFhBufs v).move = s.move := rfl
@[simp] theorem State.withFhBufs_rings : (s.withFhBufs v).rings = s.rings := rfl
@[simp] theorem State.withFhBufs_slices : (s.withFhBufs v).slices = s.slices := rfl
@[simp] theorem State.withFhBufs_groups : (s.withFhBufs v).groups = s.groups := rfl
@[simp] theorem State.withFhBufs_thaws : (s.withFhBufs v).thaws = s.thaws := rfl
@[simp] theorem State.withFhBufs_copies : (s.withFhBufs v).copies = s.copies := rfl
@[simp] theorem State.withFhBufs_heldCmds : (s.withFhBufs v).heldCmds = s.heldCmds := rfl
@[simp] theorem State.withFhBufs_coord : (s.withFhBufs v).coord = s.coord := rfl
@[simp] theorem State.withFhBufs_ctlWindow : (s.withFhBufs v).ctlWindow = s.ctlWindow := rfl
@[simp] theorem State.withFhBufs_ctlNeg : (s.withFhBufs v).ctlNeg = s.ctlNeg := rfl
@[simp] theorem State.withFhBufs_ctlNegPend : (s.withFhBufs v).ctlNegPend = s.ctlNegPend := rfl
@[simp] theorem State.withFhBufs_ctlAgreed : (s.withFhBufs v).ctlAgreed = s.ctlAgreed := rfl
@[simp] theorem State.withFhBufs_halves : (s.withFhBufs v).halves = s.halves := rfl
@[simp] theorem State.withFhBufs_ctlHb : (s.withFhBufs v).ctlHb = s.ctlHb := rfl
@[simp] theorem State.withFhBufs_events : (s.withFhBufs v).events = s.events := rfl
@[simp] theorem State.withFhBufs_procs : (s.withFhBufs v).procs = s.procs := rfl
@[simp] theorem State.withFhBufs_bring : (s.withFhBufs v).bring = s.bring := rfl
@[simp] theorem State.withFhBufs_sec : (s.withFhBufs v).sec = s.sec := rfl
@[simp] theorem State.withFhBufs_mgt : (s.withFhBufs v).mgt = s.mgt := rfl
@[simp] theorem State.withFhBufs_free : (s.withFhBufs v).free = s.free := rfl
@[simp] theorem State.withFhBufs_out : (s.withFhBufs v).out = s.out := rfl
@[simp] theorem State.rd_withFhBufs (f : Field) (i : Nat) : (s.withFhBufs v).rd f i = s.rd f i := rfl
end
section
variable (v : KMap Seq)
@[simp] theorem State.withSeqs_pending : (s.withSeqs v).pending = s.pending := rfl
@[simp] theorem State.withSeqs_regs : (s.withSeqs v).regs = s.regs := rfl
@[simp] theorem State.withSeqs_staged : (s.withSeqs v).staged = s.staged := rfl
@[simp] theorem State.withSeqs_mem : (s.withSeqs v).mem = s.mem := rfl
@[simp] theorem State.withSeqs_poison : (s.withSeqs v).poison = s.poison := rfl
@[simp] theorem State.withSeqs_lineKey : (s.withSeqs v).lineKey = s.lineKey := rfl
@[simp] theorem State.withSeqs_badCopy : (s.withSeqs v).badCopy = s.badCopy := rfl
@[simp] theorem State.withSeqs_keys : (s.withSeqs v).keys = s.keys := rfl
@[simp] theorem State.withSeqs_hostMem : (s.withSeqs v).hostMem = s.hostMem := rfl
@[simp] theorem State.withSeqs_hostBad : (s.withSeqs v).hostBad = s.hostBad := rfl
@[simp] theorem State.withSeqs_time : (s.withSeqs v).time = s.time := rfl
@[simp] theorem State.withSeqs_parts : (s.withSeqs v).parts = s.parts := rfl
@[simp] theorem State.withSeqs_cores : (s.withSeqs v).cores = s.cores := rfl
@[simp] theorem State.withSeqs_phys : (s.withSeqs v).phys = s.phys := rfl
@[simp] theorem State.withSeqs_threads : (s.withSeqs v).threads = s.threads := rfl
@[simp] theorem State.withSeqs_jobs : (s.withSeqs v).jobs = s.jobs := rfl
@[simp] theorem State.withSeqs_spurs : (s.withSeqs v).spurs = s.spurs := rfl
@[simp] theorem State.withSeqs_dmas : (s.withSeqs v).dmas = s.dmas := rfl
@[simp] theorem State.withSeqs_nocReqs : (s.withSeqs v).nocReqs = s.nocReqs := rfl
@[simp] theorem State.withSeqs_devErrs : (s.withSeqs v).devErrs = s.devErrs := rfl
@[simp] theorem State.withSeqs_sramErrs : (s.withSeqs v).sramErrs = s.sramErrs := rfl
@[simp] theorem State.withSeqs_sramUe : (s.withSeqs v).sramUe = s.sramUe := rfl
@[simp] theorem State.withSeqs_planHdr : (s.withSeqs v).planHdr = s.planHdr := rfl
@[simp] theorem State.withSeqs_cells : (s.withSeqs v).cells = s.cells := rfl
@[simp] theorem State.withSeqs_subports : (s.withSeqs v).subports = s.subports := rfl
@[simp] theorem State.withSeqs_chains : (s.withSeqs v).chains = s.chains := rfl
@[simp] theorem State.withSeqs_fhBufs : (s.withSeqs v).fhBufs = s.fhBufs := rfl
@[simp] theorem State.withSeqs_seqs : (s.withSeqs v).seqs = v := rfl
@[simp] theorem State.withSeqs_cmds : (s.withSeqs v).cmds = s.cmds := rfl
@[simp] theorem State.withSeqs_nextCmd : (s.withSeqs v).nextCmd = s.nextCmd := rfl
@[simp] theorem State.withSeqs_passes : (s.withSeqs v).passes = s.passes := rfl
@[simp] theorem State.withSeqs_nextPass : (s.withSeqs v).nextPass = s.nextPass := rfl
@[simp] theorem State.withSeqs_models : (s.withSeqs v).models = s.models := rfl
@[simp] theorem State.withSeqs_deltas : (s.withSeqs v).deltas = s.deltas := rfl
@[simp] theorem State.withSeqs_loads : (s.withSeqs v).loads = s.loads := rfl
@[simp] theorem State.withSeqs_lastAdm : (s.withSeqs v).lastAdm = s.lastAdm := rfl
@[simp] theorem State.withSeqs_frames : (s.withSeqs v).frames = s.frames := rfl
@[simp] theorem State.withSeqs_chunks : (s.withSeqs v).chunks = s.chunks := rfl
@[simp] theorem State.withSeqs_freeLists : (s.withSeqs v).freeLists = s.freeLists := rfl
@[simp] theorem State.withSeqs_nodes : (s.withSeqs v).nodes = s.nodes := rfl
@[simp] theorem State.withSeqs_lru : (s.withSeqs v).lru = s.lru := rfl
@[simp] theorem State.withSeqs_heldFrames : (s.withSeqs v).heldFrames = s.heldFrames := rfl
@[simp] theorem State.withSeqs_scopesDead : (s.withSeqs v).scopesDead = s.scopesDead := rfl
@[simp] theorem State.withSeqs_spills : (s.withSeqs v).spills = s.spills := rfl
@[simp] theorem State.withSeqs_links : (s.withSeqs v).links = s.links := rfl
@[simp] theorem State.withSeqs_members : (s.withSeqs v).members = s.members := rfl
@[simp] theorem State.withSeqs_spares : (s.withSeqs v).spares = s.spares := rfl
@[simp] theorem State.withSeqs_cachePeers : (s.withSeqs v).cachePeers = s.cachePeers := rfl
@[simp] theorem State.withSeqs_routes : (s.withSeqs v).routes = s.routes := rfl
@[simp] theorem State.withSeqs_fabReqs : (s.withSeqs v).fabReqs = s.fabReqs := rfl
@[simp] theorem State.withSeqs_nextTid : (s.withSeqs v).nextTid = s.nextTid := rfl
@[simp] theorem State.withSeqs_windows : (s.withSeqs v).windows = s.windows := rfl
@[simp] theorem State.withSeqs_peers : (s.withSeqs v).peers = s.peers := rfl
@[simp] theorem State.withSeqs_move : (s.withSeqs v).move = s.move := rfl
@[simp] theorem State.withSeqs_rings : (s.withSeqs v).rings = s.rings := rfl
@[simp] theorem State.withSeqs_slices : (s.withSeqs v).slices = s.slices := rfl
@[simp] theorem State.withSeqs_groups : (s.withSeqs v).groups = s.groups := rfl
@[simp] theorem State.withSeqs_thaws : (s.withSeqs v).thaws = s.thaws := rfl
@[simp] theorem State.withSeqs_copies : (s.withSeqs v).copies = s.copies := rfl
@[simp] theorem State.withSeqs_heldCmds : (s.withSeqs v).heldCmds = s.heldCmds := rfl
@[simp] theorem State.withSeqs_coord : (s.withSeqs v).coord = s.coord := rfl
@[simp] theorem State.withSeqs_ctlWindow : (s.withSeqs v).ctlWindow = s.ctlWindow := rfl
@[simp] theorem State.withSeqs_ctlNeg : (s.withSeqs v).ctlNeg = s.ctlNeg := rfl
@[simp] theorem State.withSeqs_ctlNegPend : (s.withSeqs v).ctlNegPend = s.ctlNegPend := rfl
@[simp] theorem State.withSeqs_ctlAgreed : (s.withSeqs v).ctlAgreed = s.ctlAgreed := rfl
@[simp] theorem State.withSeqs_halves : (s.withSeqs v).halves = s.halves := rfl
@[simp] theorem State.withSeqs_ctlHb : (s.withSeqs v).ctlHb = s.ctlHb := rfl
@[simp] theorem State.withSeqs_events : (s.withSeqs v).events = s.events := rfl
@[simp] theorem State.withSeqs_procs : (s.withSeqs v).procs = s.procs := rfl
@[simp] theorem State.withSeqs_bring : (s.withSeqs v).bring = s.bring := rfl
@[simp] theorem State.withSeqs_sec : (s.withSeqs v).sec = s.sec := rfl
@[simp] theorem State.withSeqs_mgt : (s.withSeqs v).mgt = s.mgt := rfl
@[simp] theorem State.withSeqs_free : (s.withSeqs v).free = s.free := rfl
@[simp] theorem State.withSeqs_out : (s.withSeqs v).out = s.out := rfl
@[simp] theorem State.rd_withSeqs (f : Field) (i : Nat) : (s.withSeqs v).rd f i = s.rd f i := rfl
end
section
variable (v : KMap Cmd)
@[simp] theorem State.withCmds_pending : (s.withCmds v).pending = s.pending := rfl
@[simp] theorem State.withCmds_regs : (s.withCmds v).regs = s.regs := rfl
@[simp] theorem State.withCmds_staged : (s.withCmds v).staged = s.staged := rfl
@[simp] theorem State.withCmds_mem : (s.withCmds v).mem = s.mem := rfl
@[simp] theorem State.withCmds_poison : (s.withCmds v).poison = s.poison := rfl
@[simp] theorem State.withCmds_lineKey : (s.withCmds v).lineKey = s.lineKey := rfl
@[simp] theorem State.withCmds_badCopy : (s.withCmds v).badCopy = s.badCopy := rfl
@[simp] theorem State.withCmds_keys : (s.withCmds v).keys = s.keys := rfl
@[simp] theorem State.withCmds_hostMem : (s.withCmds v).hostMem = s.hostMem := rfl
@[simp] theorem State.withCmds_hostBad : (s.withCmds v).hostBad = s.hostBad := rfl
@[simp] theorem State.withCmds_time : (s.withCmds v).time = s.time := rfl
@[simp] theorem State.withCmds_parts : (s.withCmds v).parts = s.parts := rfl
@[simp] theorem State.withCmds_cores : (s.withCmds v).cores = s.cores := rfl
@[simp] theorem State.withCmds_phys : (s.withCmds v).phys = s.phys := rfl
@[simp] theorem State.withCmds_threads : (s.withCmds v).threads = s.threads := rfl
@[simp] theorem State.withCmds_jobs : (s.withCmds v).jobs = s.jobs := rfl
@[simp] theorem State.withCmds_spurs : (s.withCmds v).spurs = s.spurs := rfl
@[simp] theorem State.withCmds_dmas : (s.withCmds v).dmas = s.dmas := rfl
@[simp] theorem State.withCmds_nocReqs : (s.withCmds v).nocReqs = s.nocReqs := rfl
@[simp] theorem State.withCmds_devErrs : (s.withCmds v).devErrs = s.devErrs := rfl
@[simp] theorem State.withCmds_sramErrs : (s.withCmds v).sramErrs = s.sramErrs := rfl
@[simp] theorem State.withCmds_sramUe : (s.withCmds v).sramUe = s.sramUe := rfl
@[simp] theorem State.withCmds_planHdr : (s.withCmds v).planHdr = s.planHdr := rfl
@[simp] theorem State.withCmds_cells : (s.withCmds v).cells = s.cells := rfl
@[simp] theorem State.withCmds_subports : (s.withCmds v).subports = s.subports := rfl
@[simp] theorem State.withCmds_chains : (s.withCmds v).chains = s.chains := rfl
@[simp] theorem State.withCmds_fhBufs : (s.withCmds v).fhBufs = s.fhBufs := rfl
@[simp] theorem State.withCmds_seqs : (s.withCmds v).seqs = s.seqs := rfl
@[simp] theorem State.withCmds_cmds : (s.withCmds v).cmds = v := rfl
@[simp] theorem State.withCmds_nextCmd : (s.withCmds v).nextCmd = s.nextCmd := rfl
@[simp] theorem State.withCmds_passes : (s.withCmds v).passes = s.passes := rfl
@[simp] theorem State.withCmds_nextPass : (s.withCmds v).nextPass = s.nextPass := rfl
@[simp] theorem State.withCmds_models : (s.withCmds v).models = s.models := rfl
@[simp] theorem State.withCmds_deltas : (s.withCmds v).deltas = s.deltas := rfl
@[simp] theorem State.withCmds_loads : (s.withCmds v).loads = s.loads := rfl
@[simp] theorem State.withCmds_lastAdm : (s.withCmds v).lastAdm = s.lastAdm := rfl
@[simp] theorem State.withCmds_frames : (s.withCmds v).frames = s.frames := rfl
@[simp] theorem State.withCmds_chunks : (s.withCmds v).chunks = s.chunks := rfl
@[simp] theorem State.withCmds_freeLists : (s.withCmds v).freeLists = s.freeLists := rfl
@[simp] theorem State.withCmds_nodes : (s.withCmds v).nodes = s.nodes := rfl
@[simp] theorem State.withCmds_lru : (s.withCmds v).lru = s.lru := rfl
@[simp] theorem State.withCmds_heldFrames : (s.withCmds v).heldFrames = s.heldFrames := rfl
@[simp] theorem State.withCmds_scopesDead : (s.withCmds v).scopesDead = s.scopesDead := rfl
@[simp] theorem State.withCmds_spills : (s.withCmds v).spills = s.spills := rfl
@[simp] theorem State.withCmds_links : (s.withCmds v).links = s.links := rfl
@[simp] theorem State.withCmds_members : (s.withCmds v).members = s.members := rfl
@[simp] theorem State.withCmds_spares : (s.withCmds v).spares = s.spares := rfl
@[simp] theorem State.withCmds_cachePeers : (s.withCmds v).cachePeers = s.cachePeers := rfl
@[simp] theorem State.withCmds_routes : (s.withCmds v).routes = s.routes := rfl
@[simp] theorem State.withCmds_fabReqs : (s.withCmds v).fabReqs = s.fabReqs := rfl
@[simp] theorem State.withCmds_nextTid : (s.withCmds v).nextTid = s.nextTid := rfl
@[simp] theorem State.withCmds_windows : (s.withCmds v).windows = s.windows := rfl
@[simp] theorem State.withCmds_peers : (s.withCmds v).peers = s.peers := rfl
@[simp] theorem State.withCmds_move : (s.withCmds v).move = s.move := rfl
@[simp] theorem State.withCmds_rings : (s.withCmds v).rings = s.rings := rfl
@[simp] theorem State.withCmds_slices : (s.withCmds v).slices = s.slices := rfl
@[simp] theorem State.withCmds_groups : (s.withCmds v).groups = s.groups := rfl
@[simp] theorem State.withCmds_thaws : (s.withCmds v).thaws = s.thaws := rfl
@[simp] theorem State.withCmds_copies : (s.withCmds v).copies = s.copies := rfl
@[simp] theorem State.withCmds_heldCmds : (s.withCmds v).heldCmds = s.heldCmds := rfl
@[simp] theorem State.withCmds_coord : (s.withCmds v).coord = s.coord := rfl
@[simp] theorem State.withCmds_ctlWindow : (s.withCmds v).ctlWindow = s.ctlWindow := rfl
@[simp] theorem State.withCmds_ctlNeg : (s.withCmds v).ctlNeg = s.ctlNeg := rfl
@[simp] theorem State.withCmds_ctlNegPend : (s.withCmds v).ctlNegPend = s.ctlNegPend := rfl
@[simp] theorem State.withCmds_ctlAgreed : (s.withCmds v).ctlAgreed = s.ctlAgreed := rfl
@[simp] theorem State.withCmds_halves : (s.withCmds v).halves = s.halves := rfl
@[simp] theorem State.withCmds_ctlHb : (s.withCmds v).ctlHb = s.ctlHb := rfl
@[simp] theorem State.withCmds_events : (s.withCmds v).events = s.events := rfl
@[simp] theorem State.withCmds_procs : (s.withCmds v).procs = s.procs := rfl
@[simp] theorem State.withCmds_bring : (s.withCmds v).bring = s.bring := rfl
@[simp] theorem State.withCmds_sec : (s.withCmds v).sec = s.sec := rfl
@[simp] theorem State.withCmds_mgt : (s.withCmds v).mgt = s.mgt := rfl
@[simp] theorem State.withCmds_free : (s.withCmds v).free = s.free := rfl
@[simp] theorem State.withCmds_out : (s.withCmds v).out = s.out := rfl
@[simp] theorem State.rd_withCmds (f : Field) (i : Nat) : (s.withCmds v).rd f i = s.rd f i := rfl
end
section
variable (v : Nat)
@[simp] theorem State.withNextCmd_pending : (s.withNextCmd v).pending = s.pending := rfl
@[simp] theorem State.withNextCmd_regs : (s.withNextCmd v).regs = s.regs := rfl
@[simp] theorem State.withNextCmd_staged : (s.withNextCmd v).staged = s.staged := rfl
@[simp] theorem State.withNextCmd_mem : (s.withNextCmd v).mem = s.mem := rfl
@[simp] theorem State.withNextCmd_poison : (s.withNextCmd v).poison = s.poison := rfl
@[simp] theorem State.withNextCmd_lineKey : (s.withNextCmd v).lineKey = s.lineKey := rfl
@[simp] theorem State.withNextCmd_badCopy : (s.withNextCmd v).badCopy = s.badCopy := rfl
@[simp] theorem State.withNextCmd_keys : (s.withNextCmd v).keys = s.keys := rfl
@[simp] theorem State.withNextCmd_hostMem : (s.withNextCmd v).hostMem = s.hostMem := rfl
@[simp] theorem State.withNextCmd_hostBad : (s.withNextCmd v).hostBad = s.hostBad := rfl
@[simp] theorem State.withNextCmd_time : (s.withNextCmd v).time = s.time := rfl
@[simp] theorem State.withNextCmd_parts : (s.withNextCmd v).parts = s.parts := rfl
@[simp] theorem State.withNextCmd_cores : (s.withNextCmd v).cores = s.cores := rfl
@[simp] theorem State.withNextCmd_phys : (s.withNextCmd v).phys = s.phys := rfl
@[simp] theorem State.withNextCmd_threads : (s.withNextCmd v).threads = s.threads := rfl
@[simp] theorem State.withNextCmd_jobs : (s.withNextCmd v).jobs = s.jobs := rfl
@[simp] theorem State.withNextCmd_spurs : (s.withNextCmd v).spurs = s.spurs := rfl
@[simp] theorem State.withNextCmd_dmas : (s.withNextCmd v).dmas = s.dmas := rfl
@[simp] theorem State.withNextCmd_nocReqs : (s.withNextCmd v).nocReqs = s.nocReqs := rfl
@[simp] theorem State.withNextCmd_devErrs : (s.withNextCmd v).devErrs = s.devErrs := rfl
@[simp] theorem State.withNextCmd_sramErrs : (s.withNextCmd v).sramErrs = s.sramErrs := rfl
@[simp] theorem State.withNextCmd_sramUe : (s.withNextCmd v).sramUe = s.sramUe := rfl
@[simp] theorem State.withNextCmd_planHdr : (s.withNextCmd v).planHdr = s.planHdr := rfl
@[simp] theorem State.withNextCmd_cells : (s.withNextCmd v).cells = s.cells := rfl
@[simp] theorem State.withNextCmd_subports : (s.withNextCmd v).subports = s.subports := rfl
@[simp] theorem State.withNextCmd_chains : (s.withNextCmd v).chains = s.chains := rfl
@[simp] theorem State.withNextCmd_fhBufs : (s.withNextCmd v).fhBufs = s.fhBufs := rfl
@[simp] theorem State.withNextCmd_seqs : (s.withNextCmd v).seqs = s.seqs := rfl
@[simp] theorem State.withNextCmd_cmds : (s.withNextCmd v).cmds = s.cmds := rfl
@[simp] theorem State.withNextCmd_nextCmd : (s.withNextCmd v).nextCmd = v := rfl
@[simp] theorem State.withNextCmd_passes : (s.withNextCmd v).passes = s.passes := rfl
@[simp] theorem State.withNextCmd_nextPass : (s.withNextCmd v).nextPass = s.nextPass := rfl
@[simp] theorem State.withNextCmd_models : (s.withNextCmd v).models = s.models := rfl
@[simp] theorem State.withNextCmd_deltas : (s.withNextCmd v).deltas = s.deltas := rfl
@[simp] theorem State.withNextCmd_loads : (s.withNextCmd v).loads = s.loads := rfl
@[simp] theorem State.withNextCmd_lastAdm : (s.withNextCmd v).lastAdm = s.lastAdm := rfl
@[simp] theorem State.withNextCmd_frames : (s.withNextCmd v).frames = s.frames := rfl
@[simp] theorem State.withNextCmd_chunks : (s.withNextCmd v).chunks = s.chunks := rfl
@[simp] theorem State.withNextCmd_freeLists : (s.withNextCmd v).freeLists = s.freeLists := rfl
@[simp] theorem State.withNextCmd_nodes : (s.withNextCmd v).nodes = s.nodes := rfl
@[simp] theorem State.withNextCmd_lru : (s.withNextCmd v).lru = s.lru := rfl
@[simp] theorem State.withNextCmd_heldFrames : (s.withNextCmd v).heldFrames = s.heldFrames := rfl
@[simp] theorem State.withNextCmd_scopesDead : (s.withNextCmd v).scopesDead = s.scopesDead := rfl
@[simp] theorem State.withNextCmd_spills : (s.withNextCmd v).spills = s.spills := rfl
@[simp] theorem State.withNextCmd_links : (s.withNextCmd v).links = s.links := rfl
@[simp] theorem State.withNextCmd_members : (s.withNextCmd v).members = s.members := rfl
@[simp] theorem State.withNextCmd_spares : (s.withNextCmd v).spares = s.spares := rfl
@[simp] theorem State.withNextCmd_cachePeers : (s.withNextCmd v).cachePeers = s.cachePeers := rfl
@[simp] theorem State.withNextCmd_routes : (s.withNextCmd v).routes = s.routes := rfl
@[simp] theorem State.withNextCmd_fabReqs : (s.withNextCmd v).fabReqs = s.fabReqs := rfl
@[simp] theorem State.withNextCmd_nextTid : (s.withNextCmd v).nextTid = s.nextTid := rfl
@[simp] theorem State.withNextCmd_windows : (s.withNextCmd v).windows = s.windows := rfl
@[simp] theorem State.withNextCmd_peers : (s.withNextCmd v).peers = s.peers := rfl
@[simp] theorem State.withNextCmd_move : (s.withNextCmd v).move = s.move := rfl
@[simp] theorem State.withNextCmd_rings : (s.withNextCmd v).rings = s.rings := rfl
@[simp] theorem State.withNextCmd_slices : (s.withNextCmd v).slices = s.slices := rfl
@[simp] theorem State.withNextCmd_groups : (s.withNextCmd v).groups = s.groups := rfl
@[simp] theorem State.withNextCmd_thaws : (s.withNextCmd v).thaws = s.thaws := rfl
@[simp] theorem State.withNextCmd_copies : (s.withNextCmd v).copies = s.copies := rfl
@[simp] theorem State.withNextCmd_heldCmds : (s.withNextCmd v).heldCmds = s.heldCmds := rfl
@[simp] theorem State.withNextCmd_coord : (s.withNextCmd v).coord = s.coord := rfl
@[simp] theorem State.withNextCmd_ctlWindow : (s.withNextCmd v).ctlWindow = s.ctlWindow := rfl
@[simp] theorem State.withNextCmd_ctlNeg : (s.withNextCmd v).ctlNeg = s.ctlNeg := rfl
@[simp] theorem State.withNextCmd_ctlNegPend : (s.withNextCmd v).ctlNegPend = s.ctlNegPend := rfl
@[simp] theorem State.withNextCmd_ctlAgreed : (s.withNextCmd v).ctlAgreed = s.ctlAgreed := rfl
@[simp] theorem State.withNextCmd_halves : (s.withNextCmd v).halves = s.halves := rfl
@[simp] theorem State.withNextCmd_ctlHb : (s.withNextCmd v).ctlHb = s.ctlHb := rfl
@[simp] theorem State.withNextCmd_events : (s.withNextCmd v).events = s.events := rfl
@[simp] theorem State.withNextCmd_procs : (s.withNextCmd v).procs = s.procs := rfl
@[simp] theorem State.withNextCmd_bring : (s.withNextCmd v).bring = s.bring := rfl
@[simp] theorem State.withNextCmd_sec : (s.withNextCmd v).sec = s.sec := rfl
@[simp] theorem State.withNextCmd_mgt : (s.withNextCmd v).mgt = s.mgt := rfl
@[simp] theorem State.withNextCmd_free : (s.withNextCmd v).free = s.free := rfl
@[simp] theorem State.withNextCmd_out : (s.withNextCmd v).out = s.out := rfl
@[simp] theorem State.rd_withNextCmd (f : Field) (i : Nat) : (s.withNextCmd v).rd f i = s.rd f i := rfl
end
section
variable (v : List Pass)
@[simp] theorem State.withPasses_pending : (s.withPasses v).pending = s.pending := rfl
@[simp] theorem State.withPasses_regs : (s.withPasses v).regs = s.regs := rfl
@[simp] theorem State.withPasses_staged : (s.withPasses v).staged = s.staged := rfl
@[simp] theorem State.withPasses_mem : (s.withPasses v).mem = s.mem := rfl
@[simp] theorem State.withPasses_poison : (s.withPasses v).poison = s.poison := rfl
@[simp] theorem State.withPasses_lineKey : (s.withPasses v).lineKey = s.lineKey := rfl
@[simp] theorem State.withPasses_badCopy : (s.withPasses v).badCopy = s.badCopy := rfl
@[simp] theorem State.withPasses_keys : (s.withPasses v).keys = s.keys := rfl
@[simp] theorem State.withPasses_hostMem : (s.withPasses v).hostMem = s.hostMem := rfl
@[simp] theorem State.withPasses_hostBad : (s.withPasses v).hostBad = s.hostBad := rfl
@[simp] theorem State.withPasses_time : (s.withPasses v).time = s.time := rfl
@[simp] theorem State.withPasses_parts : (s.withPasses v).parts = s.parts := rfl
@[simp] theorem State.withPasses_cores : (s.withPasses v).cores = s.cores := rfl
@[simp] theorem State.withPasses_phys : (s.withPasses v).phys = s.phys := rfl
@[simp] theorem State.withPasses_threads : (s.withPasses v).threads = s.threads := rfl
@[simp] theorem State.withPasses_jobs : (s.withPasses v).jobs = s.jobs := rfl
@[simp] theorem State.withPasses_spurs : (s.withPasses v).spurs = s.spurs := rfl
@[simp] theorem State.withPasses_dmas : (s.withPasses v).dmas = s.dmas := rfl
@[simp] theorem State.withPasses_nocReqs : (s.withPasses v).nocReqs = s.nocReqs := rfl
@[simp] theorem State.withPasses_devErrs : (s.withPasses v).devErrs = s.devErrs := rfl
@[simp] theorem State.withPasses_sramErrs : (s.withPasses v).sramErrs = s.sramErrs := rfl
@[simp] theorem State.withPasses_sramUe : (s.withPasses v).sramUe = s.sramUe := rfl
@[simp] theorem State.withPasses_planHdr : (s.withPasses v).planHdr = s.planHdr := rfl
@[simp] theorem State.withPasses_cells : (s.withPasses v).cells = s.cells := rfl
@[simp] theorem State.withPasses_subports : (s.withPasses v).subports = s.subports := rfl
@[simp] theorem State.withPasses_chains : (s.withPasses v).chains = s.chains := rfl
@[simp] theorem State.withPasses_fhBufs : (s.withPasses v).fhBufs = s.fhBufs := rfl
@[simp] theorem State.withPasses_seqs : (s.withPasses v).seqs = s.seqs := rfl
@[simp] theorem State.withPasses_cmds : (s.withPasses v).cmds = s.cmds := rfl
@[simp] theorem State.withPasses_nextCmd : (s.withPasses v).nextCmd = s.nextCmd := rfl
@[simp] theorem State.withPasses_passes : (s.withPasses v).passes = v := rfl
@[simp] theorem State.withPasses_nextPass : (s.withPasses v).nextPass = s.nextPass := rfl
@[simp] theorem State.withPasses_models : (s.withPasses v).models = s.models := rfl
@[simp] theorem State.withPasses_deltas : (s.withPasses v).deltas = s.deltas := rfl
@[simp] theorem State.withPasses_loads : (s.withPasses v).loads = s.loads := rfl
@[simp] theorem State.withPasses_lastAdm : (s.withPasses v).lastAdm = s.lastAdm := rfl
@[simp] theorem State.withPasses_frames : (s.withPasses v).frames = s.frames := rfl
@[simp] theorem State.withPasses_chunks : (s.withPasses v).chunks = s.chunks := rfl
@[simp] theorem State.withPasses_freeLists : (s.withPasses v).freeLists = s.freeLists := rfl
@[simp] theorem State.withPasses_nodes : (s.withPasses v).nodes = s.nodes := rfl
@[simp] theorem State.withPasses_lru : (s.withPasses v).lru = s.lru := rfl
@[simp] theorem State.withPasses_heldFrames : (s.withPasses v).heldFrames = s.heldFrames := rfl
@[simp] theorem State.withPasses_scopesDead : (s.withPasses v).scopesDead = s.scopesDead := rfl
@[simp] theorem State.withPasses_spills : (s.withPasses v).spills = s.spills := rfl
@[simp] theorem State.withPasses_links : (s.withPasses v).links = s.links := rfl
@[simp] theorem State.withPasses_members : (s.withPasses v).members = s.members := rfl
@[simp] theorem State.withPasses_spares : (s.withPasses v).spares = s.spares := rfl
@[simp] theorem State.withPasses_cachePeers : (s.withPasses v).cachePeers = s.cachePeers := rfl
@[simp] theorem State.withPasses_routes : (s.withPasses v).routes = s.routes := rfl
@[simp] theorem State.withPasses_fabReqs : (s.withPasses v).fabReqs = s.fabReqs := rfl
@[simp] theorem State.withPasses_nextTid : (s.withPasses v).nextTid = s.nextTid := rfl
@[simp] theorem State.withPasses_windows : (s.withPasses v).windows = s.windows := rfl
@[simp] theorem State.withPasses_peers : (s.withPasses v).peers = s.peers := rfl
@[simp] theorem State.withPasses_move : (s.withPasses v).move = s.move := rfl
@[simp] theorem State.withPasses_rings : (s.withPasses v).rings = s.rings := rfl
@[simp] theorem State.withPasses_slices : (s.withPasses v).slices = s.slices := rfl
@[simp] theorem State.withPasses_groups : (s.withPasses v).groups = s.groups := rfl
@[simp] theorem State.withPasses_thaws : (s.withPasses v).thaws = s.thaws := rfl
@[simp] theorem State.withPasses_copies : (s.withPasses v).copies = s.copies := rfl
@[simp] theorem State.withPasses_heldCmds : (s.withPasses v).heldCmds = s.heldCmds := rfl
@[simp] theorem State.withPasses_coord : (s.withPasses v).coord = s.coord := rfl
@[simp] theorem State.withPasses_ctlWindow : (s.withPasses v).ctlWindow = s.ctlWindow := rfl
@[simp] theorem State.withPasses_ctlNeg : (s.withPasses v).ctlNeg = s.ctlNeg := rfl
@[simp] theorem State.withPasses_ctlNegPend : (s.withPasses v).ctlNegPend = s.ctlNegPend := rfl
@[simp] theorem State.withPasses_ctlAgreed : (s.withPasses v).ctlAgreed = s.ctlAgreed := rfl
@[simp] theorem State.withPasses_halves : (s.withPasses v).halves = s.halves := rfl
@[simp] theorem State.withPasses_ctlHb : (s.withPasses v).ctlHb = s.ctlHb := rfl
@[simp] theorem State.withPasses_events : (s.withPasses v).events = s.events := rfl
@[simp] theorem State.withPasses_procs : (s.withPasses v).procs = s.procs := rfl
@[simp] theorem State.withPasses_bring : (s.withPasses v).bring = s.bring := rfl
@[simp] theorem State.withPasses_sec : (s.withPasses v).sec = s.sec := rfl
@[simp] theorem State.withPasses_mgt : (s.withPasses v).mgt = s.mgt := rfl
@[simp] theorem State.withPasses_free : (s.withPasses v).free = s.free := rfl
@[simp] theorem State.withPasses_out : (s.withPasses v).out = s.out := rfl
@[simp] theorem State.rd_withPasses (f : Field) (i : Nat) : (s.withPasses v).rd f i = s.rd f i := rfl
end
section
variable (v : Nat)
@[simp] theorem State.withNextPass_pending : (s.withNextPass v).pending = s.pending := rfl
@[simp] theorem State.withNextPass_regs : (s.withNextPass v).regs = s.regs := rfl
@[simp] theorem State.withNextPass_staged : (s.withNextPass v).staged = s.staged := rfl
@[simp] theorem State.withNextPass_mem : (s.withNextPass v).mem = s.mem := rfl
@[simp] theorem State.withNextPass_poison : (s.withNextPass v).poison = s.poison := rfl
@[simp] theorem State.withNextPass_lineKey : (s.withNextPass v).lineKey = s.lineKey := rfl
@[simp] theorem State.withNextPass_badCopy : (s.withNextPass v).badCopy = s.badCopy := rfl
@[simp] theorem State.withNextPass_keys : (s.withNextPass v).keys = s.keys := rfl
@[simp] theorem State.withNextPass_hostMem : (s.withNextPass v).hostMem = s.hostMem := rfl
@[simp] theorem State.withNextPass_hostBad : (s.withNextPass v).hostBad = s.hostBad := rfl
@[simp] theorem State.withNextPass_time : (s.withNextPass v).time = s.time := rfl
@[simp] theorem State.withNextPass_parts : (s.withNextPass v).parts = s.parts := rfl
@[simp] theorem State.withNextPass_cores : (s.withNextPass v).cores = s.cores := rfl
@[simp] theorem State.withNextPass_phys : (s.withNextPass v).phys = s.phys := rfl
@[simp] theorem State.withNextPass_threads : (s.withNextPass v).threads = s.threads := rfl
@[simp] theorem State.withNextPass_jobs : (s.withNextPass v).jobs = s.jobs := rfl
@[simp] theorem State.withNextPass_spurs : (s.withNextPass v).spurs = s.spurs := rfl
@[simp] theorem State.withNextPass_dmas : (s.withNextPass v).dmas = s.dmas := rfl
@[simp] theorem State.withNextPass_nocReqs : (s.withNextPass v).nocReqs = s.nocReqs := rfl
@[simp] theorem State.withNextPass_devErrs : (s.withNextPass v).devErrs = s.devErrs := rfl
@[simp] theorem State.withNextPass_sramErrs : (s.withNextPass v).sramErrs = s.sramErrs := rfl
@[simp] theorem State.withNextPass_sramUe : (s.withNextPass v).sramUe = s.sramUe := rfl
@[simp] theorem State.withNextPass_planHdr : (s.withNextPass v).planHdr = s.planHdr := rfl
@[simp] theorem State.withNextPass_cells : (s.withNextPass v).cells = s.cells := rfl
@[simp] theorem State.withNextPass_subports : (s.withNextPass v).subports = s.subports := rfl
@[simp] theorem State.withNextPass_chains : (s.withNextPass v).chains = s.chains := rfl
@[simp] theorem State.withNextPass_fhBufs : (s.withNextPass v).fhBufs = s.fhBufs := rfl
@[simp] theorem State.withNextPass_seqs : (s.withNextPass v).seqs = s.seqs := rfl
@[simp] theorem State.withNextPass_cmds : (s.withNextPass v).cmds = s.cmds := rfl
@[simp] theorem State.withNextPass_nextCmd : (s.withNextPass v).nextCmd = s.nextCmd := rfl
@[simp] theorem State.withNextPass_passes : (s.withNextPass v).passes = s.passes := rfl
@[simp] theorem State.withNextPass_nextPass : (s.withNextPass v).nextPass = v := rfl
@[simp] theorem State.withNextPass_models : (s.withNextPass v).models = s.models := rfl
@[simp] theorem State.withNextPass_deltas : (s.withNextPass v).deltas = s.deltas := rfl
@[simp] theorem State.withNextPass_loads : (s.withNextPass v).loads = s.loads := rfl
@[simp] theorem State.withNextPass_lastAdm : (s.withNextPass v).lastAdm = s.lastAdm := rfl
@[simp] theorem State.withNextPass_frames : (s.withNextPass v).frames = s.frames := rfl
@[simp] theorem State.withNextPass_chunks : (s.withNextPass v).chunks = s.chunks := rfl
@[simp] theorem State.withNextPass_freeLists : (s.withNextPass v).freeLists = s.freeLists := rfl
@[simp] theorem State.withNextPass_nodes : (s.withNextPass v).nodes = s.nodes := rfl
@[simp] theorem State.withNextPass_lru : (s.withNextPass v).lru = s.lru := rfl
@[simp] theorem State.withNextPass_heldFrames : (s.withNextPass v).heldFrames = s.heldFrames := rfl
@[simp] theorem State.withNextPass_scopesDead : (s.withNextPass v).scopesDead = s.scopesDead := rfl
@[simp] theorem State.withNextPass_spills : (s.withNextPass v).spills = s.spills := rfl
@[simp] theorem State.withNextPass_links : (s.withNextPass v).links = s.links := rfl
@[simp] theorem State.withNextPass_members : (s.withNextPass v).members = s.members := rfl
@[simp] theorem State.withNextPass_spares : (s.withNextPass v).spares = s.spares := rfl
@[simp] theorem State.withNextPass_cachePeers : (s.withNextPass v).cachePeers = s.cachePeers := rfl
@[simp] theorem State.withNextPass_routes : (s.withNextPass v).routes = s.routes := rfl
@[simp] theorem State.withNextPass_fabReqs : (s.withNextPass v).fabReqs = s.fabReqs := rfl
@[simp] theorem State.withNextPass_nextTid : (s.withNextPass v).nextTid = s.nextTid := rfl
@[simp] theorem State.withNextPass_windows : (s.withNextPass v).windows = s.windows := rfl
@[simp] theorem State.withNextPass_peers : (s.withNextPass v).peers = s.peers := rfl
@[simp] theorem State.withNextPass_move : (s.withNextPass v).move = s.move := rfl
@[simp] theorem State.withNextPass_rings : (s.withNextPass v).rings = s.rings := rfl
@[simp] theorem State.withNextPass_slices : (s.withNextPass v).slices = s.slices := rfl
@[simp] theorem State.withNextPass_groups : (s.withNextPass v).groups = s.groups := rfl
@[simp] theorem State.withNextPass_thaws : (s.withNextPass v).thaws = s.thaws := rfl
@[simp] theorem State.withNextPass_copies : (s.withNextPass v).copies = s.copies := rfl
@[simp] theorem State.withNextPass_heldCmds : (s.withNextPass v).heldCmds = s.heldCmds := rfl
@[simp] theorem State.withNextPass_coord : (s.withNextPass v).coord = s.coord := rfl
@[simp] theorem State.withNextPass_ctlWindow : (s.withNextPass v).ctlWindow = s.ctlWindow := rfl
@[simp] theorem State.withNextPass_ctlNeg : (s.withNextPass v).ctlNeg = s.ctlNeg := rfl
@[simp] theorem State.withNextPass_ctlNegPend : (s.withNextPass v).ctlNegPend = s.ctlNegPend := rfl
@[simp] theorem State.withNextPass_ctlAgreed : (s.withNextPass v).ctlAgreed = s.ctlAgreed := rfl
@[simp] theorem State.withNextPass_halves : (s.withNextPass v).halves = s.halves := rfl
@[simp] theorem State.withNextPass_ctlHb : (s.withNextPass v).ctlHb = s.ctlHb := rfl
@[simp] theorem State.withNextPass_events : (s.withNextPass v).events = s.events := rfl
@[simp] theorem State.withNextPass_procs : (s.withNextPass v).procs = s.procs := rfl
@[simp] theorem State.withNextPass_bring : (s.withNextPass v).bring = s.bring := rfl
@[simp] theorem State.withNextPass_sec : (s.withNextPass v).sec = s.sec := rfl
@[simp] theorem State.withNextPass_mgt : (s.withNextPass v).mgt = s.mgt := rfl
@[simp] theorem State.withNextPass_free : (s.withNextPass v).free = s.free := rfl
@[simp] theorem State.withNextPass_out : (s.withNextPass v).out = s.out := rfl
@[simp] theorem State.rd_withNextPass (f : Field) (i : Nat) : (s.withNextPass v).rd f i = s.rd f i := rfl
end
section
variable (v : KMap Model)
@[simp] theorem State.withModels_pending : (s.withModels v).pending = s.pending := rfl
@[simp] theorem State.withModels_regs : (s.withModels v).regs = s.regs := rfl
@[simp] theorem State.withModels_staged : (s.withModels v).staged = s.staged := rfl
@[simp] theorem State.withModels_mem : (s.withModels v).mem = s.mem := rfl
@[simp] theorem State.withModels_poison : (s.withModels v).poison = s.poison := rfl
@[simp] theorem State.withModels_lineKey : (s.withModels v).lineKey = s.lineKey := rfl
@[simp] theorem State.withModels_badCopy : (s.withModels v).badCopy = s.badCopy := rfl
@[simp] theorem State.withModels_keys : (s.withModels v).keys = s.keys := rfl
@[simp] theorem State.withModels_hostMem : (s.withModels v).hostMem = s.hostMem := rfl
@[simp] theorem State.withModels_hostBad : (s.withModels v).hostBad = s.hostBad := rfl
@[simp] theorem State.withModels_time : (s.withModels v).time = s.time := rfl
@[simp] theorem State.withModels_parts : (s.withModels v).parts = s.parts := rfl
@[simp] theorem State.withModels_cores : (s.withModels v).cores = s.cores := rfl
@[simp] theorem State.withModels_phys : (s.withModels v).phys = s.phys := rfl
@[simp] theorem State.withModels_threads : (s.withModels v).threads = s.threads := rfl
@[simp] theorem State.withModels_jobs : (s.withModels v).jobs = s.jobs := rfl
@[simp] theorem State.withModels_spurs : (s.withModels v).spurs = s.spurs := rfl
@[simp] theorem State.withModels_dmas : (s.withModels v).dmas = s.dmas := rfl
@[simp] theorem State.withModels_nocReqs : (s.withModels v).nocReqs = s.nocReqs := rfl
@[simp] theorem State.withModels_devErrs : (s.withModels v).devErrs = s.devErrs := rfl
@[simp] theorem State.withModels_sramErrs : (s.withModels v).sramErrs = s.sramErrs := rfl
@[simp] theorem State.withModels_sramUe : (s.withModels v).sramUe = s.sramUe := rfl
@[simp] theorem State.withModels_planHdr : (s.withModels v).planHdr = s.planHdr := rfl
@[simp] theorem State.withModels_cells : (s.withModels v).cells = s.cells := rfl
@[simp] theorem State.withModels_subports : (s.withModels v).subports = s.subports := rfl
@[simp] theorem State.withModels_chains : (s.withModels v).chains = s.chains := rfl
@[simp] theorem State.withModels_fhBufs : (s.withModels v).fhBufs = s.fhBufs := rfl
@[simp] theorem State.withModels_seqs : (s.withModels v).seqs = s.seqs := rfl
@[simp] theorem State.withModels_cmds : (s.withModels v).cmds = s.cmds := rfl
@[simp] theorem State.withModels_nextCmd : (s.withModels v).nextCmd = s.nextCmd := rfl
@[simp] theorem State.withModels_passes : (s.withModels v).passes = s.passes := rfl
@[simp] theorem State.withModels_nextPass : (s.withModels v).nextPass = s.nextPass := rfl
@[simp] theorem State.withModels_models : (s.withModels v).models = v := rfl
@[simp] theorem State.withModels_deltas : (s.withModels v).deltas = s.deltas := rfl
@[simp] theorem State.withModels_loads : (s.withModels v).loads = s.loads := rfl
@[simp] theorem State.withModels_lastAdm : (s.withModels v).lastAdm = s.lastAdm := rfl
@[simp] theorem State.withModels_frames : (s.withModels v).frames = s.frames := rfl
@[simp] theorem State.withModels_chunks : (s.withModels v).chunks = s.chunks := rfl
@[simp] theorem State.withModels_freeLists : (s.withModels v).freeLists = s.freeLists := rfl
@[simp] theorem State.withModels_nodes : (s.withModels v).nodes = s.nodes := rfl
@[simp] theorem State.withModels_lru : (s.withModels v).lru = s.lru := rfl
@[simp] theorem State.withModels_heldFrames : (s.withModels v).heldFrames = s.heldFrames := rfl
@[simp] theorem State.withModels_scopesDead : (s.withModels v).scopesDead = s.scopesDead := rfl
@[simp] theorem State.withModels_spills : (s.withModels v).spills = s.spills := rfl
@[simp] theorem State.withModels_links : (s.withModels v).links = s.links := rfl
@[simp] theorem State.withModels_members : (s.withModels v).members = s.members := rfl
@[simp] theorem State.withModels_spares : (s.withModels v).spares = s.spares := rfl
@[simp] theorem State.withModels_cachePeers : (s.withModels v).cachePeers = s.cachePeers := rfl
@[simp] theorem State.withModels_routes : (s.withModels v).routes = s.routes := rfl
@[simp] theorem State.withModels_fabReqs : (s.withModels v).fabReqs = s.fabReqs := rfl
@[simp] theorem State.withModels_nextTid : (s.withModels v).nextTid = s.nextTid := rfl
@[simp] theorem State.withModels_windows : (s.withModels v).windows = s.windows := rfl
@[simp] theorem State.withModels_peers : (s.withModels v).peers = s.peers := rfl
@[simp] theorem State.withModels_move : (s.withModels v).move = s.move := rfl
@[simp] theorem State.withModels_rings : (s.withModels v).rings = s.rings := rfl
@[simp] theorem State.withModels_slices : (s.withModels v).slices = s.slices := rfl
@[simp] theorem State.withModels_groups : (s.withModels v).groups = s.groups := rfl
@[simp] theorem State.withModels_thaws : (s.withModels v).thaws = s.thaws := rfl
@[simp] theorem State.withModels_copies : (s.withModels v).copies = s.copies := rfl
@[simp] theorem State.withModels_heldCmds : (s.withModels v).heldCmds = s.heldCmds := rfl
@[simp] theorem State.withModels_coord : (s.withModels v).coord = s.coord := rfl
@[simp] theorem State.withModels_ctlWindow : (s.withModels v).ctlWindow = s.ctlWindow := rfl
@[simp] theorem State.withModels_ctlNeg : (s.withModels v).ctlNeg = s.ctlNeg := rfl
@[simp] theorem State.withModels_ctlNegPend : (s.withModels v).ctlNegPend = s.ctlNegPend := rfl
@[simp] theorem State.withModels_ctlAgreed : (s.withModels v).ctlAgreed = s.ctlAgreed := rfl
@[simp] theorem State.withModels_halves : (s.withModels v).halves = s.halves := rfl
@[simp] theorem State.withModels_ctlHb : (s.withModels v).ctlHb = s.ctlHb := rfl
@[simp] theorem State.withModels_events : (s.withModels v).events = s.events := rfl
@[simp] theorem State.withModels_procs : (s.withModels v).procs = s.procs := rfl
@[simp] theorem State.withModels_bring : (s.withModels v).bring = s.bring := rfl
@[simp] theorem State.withModels_sec : (s.withModels v).sec = s.sec := rfl
@[simp] theorem State.withModels_mgt : (s.withModels v).mgt = s.mgt := rfl
@[simp] theorem State.withModels_free : (s.withModels v).free = s.free := rfl
@[simp] theorem State.withModels_out : (s.withModels v).out = s.out := rfl
@[simp] theorem State.rd_withModels (f : Field) (i : Nat) : (s.withModels v).rd f i = s.rd f i := rfl
end
section
variable (v : KMap Delta)
@[simp] theorem State.withDeltas_pending : (s.withDeltas v).pending = s.pending := rfl
@[simp] theorem State.withDeltas_regs : (s.withDeltas v).regs = s.regs := rfl
@[simp] theorem State.withDeltas_staged : (s.withDeltas v).staged = s.staged := rfl
@[simp] theorem State.withDeltas_mem : (s.withDeltas v).mem = s.mem := rfl
@[simp] theorem State.withDeltas_poison : (s.withDeltas v).poison = s.poison := rfl
@[simp] theorem State.withDeltas_lineKey : (s.withDeltas v).lineKey = s.lineKey := rfl
@[simp] theorem State.withDeltas_badCopy : (s.withDeltas v).badCopy = s.badCopy := rfl
@[simp] theorem State.withDeltas_keys : (s.withDeltas v).keys = s.keys := rfl
@[simp] theorem State.withDeltas_hostMem : (s.withDeltas v).hostMem = s.hostMem := rfl
@[simp] theorem State.withDeltas_hostBad : (s.withDeltas v).hostBad = s.hostBad := rfl
@[simp] theorem State.withDeltas_time : (s.withDeltas v).time = s.time := rfl
@[simp] theorem State.withDeltas_parts : (s.withDeltas v).parts = s.parts := rfl
@[simp] theorem State.withDeltas_cores : (s.withDeltas v).cores = s.cores := rfl
@[simp] theorem State.withDeltas_phys : (s.withDeltas v).phys = s.phys := rfl
@[simp] theorem State.withDeltas_threads : (s.withDeltas v).threads = s.threads := rfl
@[simp] theorem State.withDeltas_jobs : (s.withDeltas v).jobs = s.jobs := rfl
@[simp] theorem State.withDeltas_spurs : (s.withDeltas v).spurs = s.spurs := rfl
@[simp] theorem State.withDeltas_dmas : (s.withDeltas v).dmas = s.dmas := rfl
@[simp] theorem State.withDeltas_nocReqs : (s.withDeltas v).nocReqs = s.nocReqs := rfl
@[simp] theorem State.withDeltas_devErrs : (s.withDeltas v).devErrs = s.devErrs := rfl
@[simp] theorem State.withDeltas_sramErrs : (s.withDeltas v).sramErrs = s.sramErrs := rfl
@[simp] theorem State.withDeltas_sramUe : (s.withDeltas v).sramUe = s.sramUe := rfl
@[simp] theorem State.withDeltas_planHdr : (s.withDeltas v).planHdr = s.planHdr := rfl
@[simp] theorem State.withDeltas_cells : (s.withDeltas v).cells = s.cells := rfl
@[simp] theorem State.withDeltas_subports : (s.withDeltas v).subports = s.subports := rfl
@[simp] theorem State.withDeltas_chains : (s.withDeltas v).chains = s.chains := rfl
@[simp] theorem State.withDeltas_fhBufs : (s.withDeltas v).fhBufs = s.fhBufs := rfl
@[simp] theorem State.withDeltas_seqs : (s.withDeltas v).seqs = s.seqs := rfl
@[simp] theorem State.withDeltas_cmds : (s.withDeltas v).cmds = s.cmds := rfl
@[simp] theorem State.withDeltas_nextCmd : (s.withDeltas v).nextCmd = s.nextCmd := rfl
@[simp] theorem State.withDeltas_passes : (s.withDeltas v).passes = s.passes := rfl
@[simp] theorem State.withDeltas_nextPass : (s.withDeltas v).nextPass = s.nextPass := rfl
@[simp] theorem State.withDeltas_models : (s.withDeltas v).models = s.models := rfl
@[simp] theorem State.withDeltas_deltas : (s.withDeltas v).deltas = v := rfl
@[simp] theorem State.withDeltas_loads : (s.withDeltas v).loads = s.loads := rfl
@[simp] theorem State.withDeltas_lastAdm : (s.withDeltas v).lastAdm = s.lastAdm := rfl
@[simp] theorem State.withDeltas_frames : (s.withDeltas v).frames = s.frames := rfl
@[simp] theorem State.withDeltas_chunks : (s.withDeltas v).chunks = s.chunks := rfl
@[simp] theorem State.withDeltas_freeLists : (s.withDeltas v).freeLists = s.freeLists := rfl
@[simp] theorem State.withDeltas_nodes : (s.withDeltas v).nodes = s.nodes := rfl
@[simp] theorem State.withDeltas_lru : (s.withDeltas v).lru = s.lru := rfl
@[simp] theorem State.withDeltas_heldFrames : (s.withDeltas v).heldFrames = s.heldFrames := rfl
@[simp] theorem State.withDeltas_scopesDead : (s.withDeltas v).scopesDead = s.scopesDead := rfl
@[simp] theorem State.withDeltas_spills : (s.withDeltas v).spills = s.spills := rfl
@[simp] theorem State.withDeltas_links : (s.withDeltas v).links = s.links := rfl
@[simp] theorem State.withDeltas_members : (s.withDeltas v).members = s.members := rfl
@[simp] theorem State.withDeltas_spares : (s.withDeltas v).spares = s.spares := rfl
@[simp] theorem State.withDeltas_cachePeers : (s.withDeltas v).cachePeers = s.cachePeers := rfl
@[simp] theorem State.withDeltas_routes : (s.withDeltas v).routes = s.routes := rfl
@[simp] theorem State.withDeltas_fabReqs : (s.withDeltas v).fabReqs = s.fabReqs := rfl
@[simp] theorem State.withDeltas_nextTid : (s.withDeltas v).nextTid = s.nextTid := rfl
@[simp] theorem State.withDeltas_windows : (s.withDeltas v).windows = s.windows := rfl
@[simp] theorem State.withDeltas_peers : (s.withDeltas v).peers = s.peers := rfl
@[simp] theorem State.withDeltas_move : (s.withDeltas v).move = s.move := rfl
@[simp] theorem State.withDeltas_rings : (s.withDeltas v).rings = s.rings := rfl
@[simp] theorem State.withDeltas_slices : (s.withDeltas v).slices = s.slices := rfl
@[simp] theorem State.withDeltas_groups : (s.withDeltas v).groups = s.groups := rfl
@[simp] theorem State.withDeltas_thaws : (s.withDeltas v).thaws = s.thaws := rfl
@[simp] theorem State.withDeltas_copies : (s.withDeltas v).copies = s.copies := rfl
@[simp] theorem State.withDeltas_heldCmds : (s.withDeltas v).heldCmds = s.heldCmds := rfl
@[simp] theorem State.withDeltas_coord : (s.withDeltas v).coord = s.coord := rfl
@[simp] theorem State.withDeltas_ctlWindow : (s.withDeltas v).ctlWindow = s.ctlWindow := rfl
@[simp] theorem State.withDeltas_ctlNeg : (s.withDeltas v).ctlNeg = s.ctlNeg := rfl
@[simp] theorem State.withDeltas_ctlNegPend : (s.withDeltas v).ctlNegPend = s.ctlNegPend := rfl
@[simp] theorem State.withDeltas_ctlAgreed : (s.withDeltas v).ctlAgreed = s.ctlAgreed := rfl
@[simp] theorem State.withDeltas_halves : (s.withDeltas v).halves = s.halves := rfl
@[simp] theorem State.withDeltas_ctlHb : (s.withDeltas v).ctlHb = s.ctlHb := rfl
@[simp] theorem State.withDeltas_events : (s.withDeltas v).events = s.events := rfl
@[simp] theorem State.withDeltas_procs : (s.withDeltas v).procs = s.procs := rfl
@[simp] theorem State.withDeltas_bring : (s.withDeltas v).bring = s.bring := rfl
@[simp] theorem State.withDeltas_sec : (s.withDeltas v).sec = s.sec := rfl
@[simp] theorem State.withDeltas_mgt : (s.withDeltas v).mgt = s.mgt := rfl
@[simp] theorem State.withDeltas_free : (s.withDeltas v).free = s.free := rfl
@[simp] theorem State.withDeltas_out : (s.withDeltas v).out = s.out := rfl
@[simp] theorem State.rd_withDeltas (f : Field) (i : Nat) : (s.withDeltas v).rd f i = s.rd f i := rfl
end
section
variable (v : List (Nat × Nat × Nat × Nat))
@[simp] theorem State.withLoads_pending : (s.withLoads v).pending = s.pending := rfl
@[simp] theorem State.withLoads_regs : (s.withLoads v).regs = s.regs := rfl
@[simp] theorem State.withLoads_staged : (s.withLoads v).staged = s.staged := rfl
@[simp] theorem State.withLoads_mem : (s.withLoads v).mem = s.mem := rfl
@[simp] theorem State.withLoads_poison : (s.withLoads v).poison = s.poison := rfl
@[simp] theorem State.withLoads_lineKey : (s.withLoads v).lineKey = s.lineKey := rfl
@[simp] theorem State.withLoads_badCopy : (s.withLoads v).badCopy = s.badCopy := rfl
@[simp] theorem State.withLoads_keys : (s.withLoads v).keys = s.keys := rfl
@[simp] theorem State.withLoads_hostMem : (s.withLoads v).hostMem = s.hostMem := rfl
@[simp] theorem State.withLoads_hostBad : (s.withLoads v).hostBad = s.hostBad := rfl
@[simp] theorem State.withLoads_time : (s.withLoads v).time = s.time := rfl
@[simp] theorem State.withLoads_parts : (s.withLoads v).parts = s.parts := rfl
@[simp] theorem State.withLoads_cores : (s.withLoads v).cores = s.cores := rfl
@[simp] theorem State.withLoads_phys : (s.withLoads v).phys = s.phys := rfl
@[simp] theorem State.withLoads_threads : (s.withLoads v).threads = s.threads := rfl
@[simp] theorem State.withLoads_jobs : (s.withLoads v).jobs = s.jobs := rfl
@[simp] theorem State.withLoads_spurs : (s.withLoads v).spurs = s.spurs := rfl
@[simp] theorem State.withLoads_dmas : (s.withLoads v).dmas = s.dmas := rfl
@[simp] theorem State.withLoads_nocReqs : (s.withLoads v).nocReqs = s.nocReqs := rfl
@[simp] theorem State.withLoads_devErrs : (s.withLoads v).devErrs = s.devErrs := rfl
@[simp] theorem State.withLoads_sramErrs : (s.withLoads v).sramErrs = s.sramErrs := rfl
@[simp] theorem State.withLoads_sramUe : (s.withLoads v).sramUe = s.sramUe := rfl
@[simp] theorem State.withLoads_planHdr : (s.withLoads v).planHdr = s.planHdr := rfl
@[simp] theorem State.withLoads_cells : (s.withLoads v).cells = s.cells := rfl
@[simp] theorem State.withLoads_subports : (s.withLoads v).subports = s.subports := rfl
@[simp] theorem State.withLoads_chains : (s.withLoads v).chains = s.chains := rfl
@[simp] theorem State.withLoads_fhBufs : (s.withLoads v).fhBufs = s.fhBufs := rfl
@[simp] theorem State.withLoads_seqs : (s.withLoads v).seqs = s.seqs := rfl
@[simp] theorem State.withLoads_cmds : (s.withLoads v).cmds = s.cmds := rfl
@[simp] theorem State.withLoads_nextCmd : (s.withLoads v).nextCmd = s.nextCmd := rfl
@[simp] theorem State.withLoads_passes : (s.withLoads v).passes = s.passes := rfl
@[simp] theorem State.withLoads_nextPass : (s.withLoads v).nextPass = s.nextPass := rfl
@[simp] theorem State.withLoads_models : (s.withLoads v).models = s.models := rfl
@[simp] theorem State.withLoads_deltas : (s.withLoads v).deltas = s.deltas := rfl
@[simp] theorem State.withLoads_loads : (s.withLoads v).loads = v := rfl
@[simp] theorem State.withLoads_lastAdm : (s.withLoads v).lastAdm = s.lastAdm := rfl
@[simp] theorem State.withLoads_frames : (s.withLoads v).frames = s.frames := rfl
@[simp] theorem State.withLoads_chunks : (s.withLoads v).chunks = s.chunks := rfl
@[simp] theorem State.withLoads_freeLists : (s.withLoads v).freeLists = s.freeLists := rfl
@[simp] theorem State.withLoads_nodes : (s.withLoads v).nodes = s.nodes := rfl
@[simp] theorem State.withLoads_lru : (s.withLoads v).lru = s.lru := rfl
@[simp] theorem State.withLoads_heldFrames : (s.withLoads v).heldFrames = s.heldFrames := rfl
@[simp] theorem State.withLoads_scopesDead : (s.withLoads v).scopesDead = s.scopesDead := rfl
@[simp] theorem State.withLoads_spills : (s.withLoads v).spills = s.spills := rfl
@[simp] theorem State.withLoads_links : (s.withLoads v).links = s.links := rfl
@[simp] theorem State.withLoads_members : (s.withLoads v).members = s.members := rfl
@[simp] theorem State.withLoads_spares : (s.withLoads v).spares = s.spares := rfl
@[simp] theorem State.withLoads_cachePeers : (s.withLoads v).cachePeers = s.cachePeers := rfl
@[simp] theorem State.withLoads_routes : (s.withLoads v).routes = s.routes := rfl
@[simp] theorem State.withLoads_fabReqs : (s.withLoads v).fabReqs = s.fabReqs := rfl
@[simp] theorem State.withLoads_nextTid : (s.withLoads v).nextTid = s.nextTid := rfl
@[simp] theorem State.withLoads_windows : (s.withLoads v).windows = s.windows := rfl
@[simp] theorem State.withLoads_peers : (s.withLoads v).peers = s.peers := rfl
@[simp] theorem State.withLoads_move : (s.withLoads v).move = s.move := rfl
@[simp] theorem State.withLoads_rings : (s.withLoads v).rings = s.rings := rfl
@[simp] theorem State.withLoads_slices : (s.withLoads v).slices = s.slices := rfl
@[simp] theorem State.withLoads_groups : (s.withLoads v).groups = s.groups := rfl
@[simp] theorem State.withLoads_thaws : (s.withLoads v).thaws = s.thaws := rfl
@[simp] theorem State.withLoads_copies : (s.withLoads v).copies = s.copies := rfl
@[simp] theorem State.withLoads_heldCmds : (s.withLoads v).heldCmds = s.heldCmds := rfl
@[simp] theorem State.withLoads_coord : (s.withLoads v).coord = s.coord := rfl
@[simp] theorem State.withLoads_ctlWindow : (s.withLoads v).ctlWindow = s.ctlWindow := rfl
@[simp] theorem State.withLoads_ctlNeg : (s.withLoads v).ctlNeg = s.ctlNeg := rfl
@[simp] theorem State.withLoads_ctlNegPend : (s.withLoads v).ctlNegPend = s.ctlNegPend := rfl
@[simp] theorem State.withLoads_ctlAgreed : (s.withLoads v).ctlAgreed = s.ctlAgreed := rfl
@[simp] theorem State.withLoads_halves : (s.withLoads v).halves = s.halves := rfl
@[simp] theorem State.withLoads_ctlHb : (s.withLoads v).ctlHb = s.ctlHb := rfl
@[simp] theorem State.withLoads_events : (s.withLoads v).events = s.events := rfl
@[simp] theorem State.withLoads_procs : (s.withLoads v).procs = s.procs := rfl
@[simp] theorem State.withLoads_bring : (s.withLoads v).bring = s.bring := rfl
@[simp] theorem State.withLoads_sec : (s.withLoads v).sec = s.sec := rfl
@[simp] theorem State.withLoads_mgt : (s.withLoads v).mgt = s.mgt := rfl
@[simp] theorem State.withLoads_free : (s.withLoads v).free = s.free := rfl
@[simp] theorem State.withLoads_out : (s.withLoads v).out = s.out := rfl
@[simp] theorem State.rd_withLoads (f : Field) (i : Nat) : (s.withLoads v).rd f i = s.rd f i := rfl
end
section
variable (v : Option Nat)
@[simp] theorem State.withLastAdm_pending : (s.withLastAdm v).pending = s.pending := rfl
@[simp] theorem State.withLastAdm_regs : (s.withLastAdm v).regs = s.regs := rfl
@[simp] theorem State.withLastAdm_staged : (s.withLastAdm v).staged = s.staged := rfl
@[simp] theorem State.withLastAdm_mem : (s.withLastAdm v).mem = s.mem := rfl
@[simp] theorem State.withLastAdm_poison : (s.withLastAdm v).poison = s.poison := rfl
@[simp] theorem State.withLastAdm_lineKey : (s.withLastAdm v).lineKey = s.lineKey := rfl
@[simp] theorem State.withLastAdm_badCopy : (s.withLastAdm v).badCopy = s.badCopy := rfl
@[simp] theorem State.withLastAdm_keys : (s.withLastAdm v).keys = s.keys := rfl
@[simp] theorem State.withLastAdm_hostMem : (s.withLastAdm v).hostMem = s.hostMem := rfl
@[simp] theorem State.withLastAdm_hostBad : (s.withLastAdm v).hostBad = s.hostBad := rfl
@[simp] theorem State.withLastAdm_time : (s.withLastAdm v).time = s.time := rfl
@[simp] theorem State.withLastAdm_parts : (s.withLastAdm v).parts = s.parts := rfl
@[simp] theorem State.withLastAdm_cores : (s.withLastAdm v).cores = s.cores := rfl
@[simp] theorem State.withLastAdm_phys : (s.withLastAdm v).phys = s.phys := rfl
@[simp] theorem State.withLastAdm_threads : (s.withLastAdm v).threads = s.threads := rfl
@[simp] theorem State.withLastAdm_jobs : (s.withLastAdm v).jobs = s.jobs := rfl
@[simp] theorem State.withLastAdm_spurs : (s.withLastAdm v).spurs = s.spurs := rfl
@[simp] theorem State.withLastAdm_dmas : (s.withLastAdm v).dmas = s.dmas := rfl
@[simp] theorem State.withLastAdm_nocReqs : (s.withLastAdm v).nocReqs = s.nocReqs := rfl
@[simp] theorem State.withLastAdm_devErrs : (s.withLastAdm v).devErrs = s.devErrs := rfl
@[simp] theorem State.withLastAdm_sramErrs : (s.withLastAdm v).sramErrs = s.sramErrs := rfl
@[simp] theorem State.withLastAdm_sramUe : (s.withLastAdm v).sramUe = s.sramUe := rfl
@[simp] theorem State.withLastAdm_planHdr : (s.withLastAdm v).planHdr = s.planHdr := rfl
@[simp] theorem State.withLastAdm_cells : (s.withLastAdm v).cells = s.cells := rfl
@[simp] theorem State.withLastAdm_subports : (s.withLastAdm v).subports = s.subports := rfl
@[simp] theorem State.withLastAdm_chains : (s.withLastAdm v).chains = s.chains := rfl
@[simp] theorem State.withLastAdm_fhBufs : (s.withLastAdm v).fhBufs = s.fhBufs := rfl
@[simp] theorem State.withLastAdm_seqs : (s.withLastAdm v).seqs = s.seqs := rfl
@[simp] theorem State.withLastAdm_cmds : (s.withLastAdm v).cmds = s.cmds := rfl
@[simp] theorem State.withLastAdm_nextCmd : (s.withLastAdm v).nextCmd = s.nextCmd := rfl
@[simp] theorem State.withLastAdm_passes : (s.withLastAdm v).passes = s.passes := rfl
@[simp] theorem State.withLastAdm_nextPass : (s.withLastAdm v).nextPass = s.nextPass := rfl
@[simp] theorem State.withLastAdm_models : (s.withLastAdm v).models = s.models := rfl
@[simp] theorem State.withLastAdm_deltas : (s.withLastAdm v).deltas = s.deltas := rfl
@[simp] theorem State.withLastAdm_loads : (s.withLastAdm v).loads = s.loads := rfl
@[simp] theorem State.withLastAdm_lastAdm : (s.withLastAdm v).lastAdm = v := rfl
@[simp] theorem State.withLastAdm_frames : (s.withLastAdm v).frames = s.frames := rfl
@[simp] theorem State.withLastAdm_chunks : (s.withLastAdm v).chunks = s.chunks := rfl
@[simp] theorem State.withLastAdm_freeLists : (s.withLastAdm v).freeLists = s.freeLists := rfl
@[simp] theorem State.withLastAdm_nodes : (s.withLastAdm v).nodes = s.nodes := rfl
@[simp] theorem State.withLastAdm_lru : (s.withLastAdm v).lru = s.lru := rfl
@[simp] theorem State.withLastAdm_heldFrames : (s.withLastAdm v).heldFrames = s.heldFrames := rfl
@[simp] theorem State.withLastAdm_scopesDead : (s.withLastAdm v).scopesDead = s.scopesDead := rfl
@[simp] theorem State.withLastAdm_spills : (s.withLastAdm v).spills = s.spills := rfl
@[simp] theorem State.withLastAdm_links : (s.withLastAdm v).links = s.links := rfl
@[simp] theorem State.withLastAdm_members : (s.withLastAdm v).members = s.members := rfl
@[simp] theorem State.withLastAdm_spares : (s.withLastAdm v).spares = s.spares := rfl
@[simp] theorem State.withLastAdm_cachePeers : (s.withLastAdm v).cachePeers = s.cachePeers := rfl
@[simp] theorem State.withLastAdm_routes : (s.withLastAdm v).routes = s.routes := rfl
@[simp] theorem State.withLastAdm_fabReqs : (s.withLastAdm v).fabReqs = s.fabReqs := rfl
@[simp] theorem State.withLastAdm_nextTid : (s.withLastAdm v).nextTid = s.nextTid := rfl
@[simp] theorem State.withLastAdm_windows : (s.withLastAdm v).windows = s.windows := rfl
@[simp] theorem State.withLastAdm_peers : (s.withLastAdm v).peers = s.peers := rfl
@[simp] theorem State.withLastAdm_move : (s.withLastAdm v).move = s.move := rfl
@[simp] theorem State.withLastAdm_rings : (s.withLastAdm v).rings = s.rings := rfl
@[simp] theorem State.withLastAdm_slices : (s.withLastAdm v).slices = s.slices := rfl
@[simp] theorem State.withLastAdm_groups : (s.withLastAdm v).groups = s.groups := rfl
@[simp] theorem State.withLastAdm_thaws : (s.withLastAdm v).thaws = s.thaws := rfl
@[simp] theorem State.withLastAdm_copies : (s.withLastAdm v).copies = s.copies := rfl
@[simp] theorem State.withLastAdm_heldCmds : (s.withLastAdm v).heldCmds = s.heldCmds := rfl
@[simp] theorem State.withLastAdm_coord : (s.withLastAdm v).coord = s.coord := rfl
@[simp] theorem State.withLastAdm_ctlWindow : (s.withLastAdm v).ctlWindow = s.ctlWindow := rfl
@[simp] theorem State.withLastAdm_ctlNeg : (s.withLastAdm v).ctlNeg = s.ctlNeg := rfl
@[simp] theorem State.withLastAdm_ctlNegPend : (s.withLastAdm v).ctlNegPend = s.ctlNegPend := rfl
@[simp] theorem State.withLastAdm_ctlAgreed : (s.withLastAdm v).ctlAgreed = s.ctlAgreed := rfl
@[simp] theorem State.withLastAdm_halves : (s.withLastAdm v).halves = s.halves := rfl
@[simp] theorem State.withLastAdm_ctlHb : (s.withLastAdm v).ctlHb = s.ctlHb := rfl
@[simp] theorem State.withLastAdm_events : (s.withLastAdm v).events = s.events := rfl
@[simp] theorem State.withLastAdm_procs : (s.withLastAdm v).procs = s.procs := rfl
@[simp] theorem State.withLastAdm_bring : (s.withLastAdm v).bring = s.bring := rfl
@[simp] theorem State.withLastAdm_sec : (s.withLastAdm v).sec = s.sec := rfl
@[simp] theorem State.withLastAdm_mgt : (s.withLastAdm v).mgt = s.mgt := rfl
@[simp] theorem State.withLastAdm_free : (s.withLastAdm v).free = s.free := rfl
@[simp] theorem State.withLastAdm_out : (s.withLastAdm v).out = s.out := rfl
@[simp] theorem State.rd_withLastAdm (f : Field) (i : Nat) : (s.withLastAdm v).rd f i = s.rd f i := rfl
end
section
variable (v : KMap Frame)
@[simp] theorem State.withFrames_pending : (s.withFrames v).pending = s.pending := rfl
@[simp] theorem State.withFrames_regs : (s.withFrames v).regs = s.regs := rfl
@[simp] theorem State.withFrames_staged : (s.withFrames v).staged = s.staged := rfl
@[simp] theorem State.withFrames_mem : (s.withFrames v).mem = s.mem := rfl
@[simp] theorem State.withFrames_poison : (s.withFrames v).poison = s.poison := rfl
@[simp] theorem State.withFrames_lineKey : (s.withFrames v).lineKey = s.lineKey := rfl
@[simp] theorem State.withFrames_badCopy : (s.withFrames v).badCopy = s.badCopy := rfl
@[simp] theorem State.withFrames_keys : (s.withFrames v).keys = s.keys := rfl
@[simp] theorem State.withFrames_hostMem : (s.withFrames v).hostMem = s.hostMem := rfl
@[simp] theorem State.withFrames_hostBad : (s.withFrames v).hostBad = s.hostBad := rfl
@[simp] theorem State.withFrames_time : (s.withFrames v).time = s.time := rfl
@[simp] theorem State.withFrames_parts : (s.withFrames v).parts = s.parts := rfl
@[simp] theorem State.withFrames_cores : (s.withFrames v).cores = s.cores := rfl
@[simp] theorem State.withFrames_phys : (s.withFrames v).phys = s.phys := rfl
@[simp] theorem State.withFrames_threads : (s.withFrames v).threads = s.threads := rfl
@[simp] theorem State.withFrames_jobs : (s.withFrames v).jobs = s.jobs := rfl
@[simp] theorem State.withFrames_spurs : (s.withFrames v).spurs = s.spurs := rfl
@[simp] theorem State.withFrames_dmas : (s.withFrames v).dmas = s.dmas := rfl
@[simp] theorem State.withFrames_nocReqs : (s.withFrames v).nocReqs = s.nocReqs := rfl
@[simp] theorem State.withFrames_devErrs : (s.withFrames v).devErrs = s.devErrs := rfl
@[simp] theorem State.withFrames_sramErrs : (s.withFrames v).sramErrs = s.sramErrs := rfl
@[simp] theorem State.withFrames_sramUe : (s.withFrames v).sramUe = s.sramUe := rfl
@[simp] theorem State.withFrames_planHdr : (s.withFrames v).planHdr = s.planHdr := rfl
@[simp] theorem State.withFrames_cells : (s.withFrames v).cells = s.cells := rfl
@[simp] theorem State.withFrames_subports : (s.withFrames v).subports = s.subports := rfl
@[simp] theorem State.withFrames_chains : (s.withFrames v).chains = s.chains := rfl
@[simp] theorem State.withFrames_fhBufs : (s.withFrames v).fhBufs = s.fhBufs := rfl
@[simp] theorem State.withFrames_seqs : (s.withFrames v).seqs = s.seqs := rfl
@[simp] theorem State.withFrames_cmds : (s.withFrames v).cmds = s.cmds := rfl
@[simp] theorem State.withFrames_nextCmd : (s.withFrames v).nextCmd = s.nextCmd := rfl
@[simp] theorem State.withFrames_passes : (s.withFrames v).passes = s.passes := rfl
@[simp] theorem State.withFrames_nextPass : (s.withFrames v).nextPass = s.nextPass := rfl
@[simp] theorem State.withFrames_models : (s.withFrames v).models = s.models := rfl
@[simp] theorem State.withFrames_deltas : (s.withFrames v).deltas = s.deltas := rfl
@[simp] theorem State.withFrames_loads : (s.withFrames v).loads = s.loads := rfl
@[simp] theorem State.withFrames_lastAdm : (s.withFrames v).lastAdm = s.lastAdm := rfl
@[simp] theorem State.withFrames_frames : (s.withFrames v).frames = v := rfl
@[simp] theorem State.withFrames_chunks : (s.withFrames v).chunks = s.chunks := rfl
@[simp] theorem State.withFrames_freeLists : (s.withFrames v).freeLists = s.freeLists := rfl
@[simp] theorem State.withFrames_nodes : (s.withFrames v).nodes = s.nodes := rfl
@[simp] theorem State.withFrames_lru : (s.withFrames v).lru = s.lru := rfl
@[simp] theorem State.withFrames_heldFrames : (s.withFrames v).heldFrames = s.heldFrames := rfl
@[simp] theorem State.withFrames_scopesDead : (s.withFrames v).scopesDead = s.scopesDead := rfl
@[simp] theorem State.withFrames_spills : (s.withFrames v).spills = s.spills := rfl
@[simp] theorem State.withFrames_links : (s.withFrames v).links = s.links := rfl
@[simp] theorem State.withFrames_members : (s.withFrames v).members = s.members := rfl
@[simp] theorem State.withFrames_spares : (s.withFrames v).spares = s.spares := rfl
@[simp] theorem State.withFrames_cachePeers : (s.withFrames v).cachePeers = s.cachePeers := rfl
@[simp] theorem State.withFrames_routes : (s.withFrames v).routes = s.routes := rfl
@[simp] theorem State.withFrames_fabReqs : (s.withFrames v).fabReqs = s.fabReqs := rfl
@[simp] theorem State.withFrames_nextTid : (s.withFrames v).nextTid = s.nextTid := rfl
@[simp] theorem State.withFrames_windows : (s.withFrames v).windows = s.windows := rfl
@[simp] theorem State.withFrames_peers : (s.withFrames v).peers = s.peers := rfl
@[simp] theorem State.withFrames_move : (s.withFrames v).move = s.move := rfl
@[simp] theorem State.withFrames_rings : (s.withFrames v).rings = s.rings := rfl
@[simp] theorem State.withFrames_slices : (s.withFrames v).slices = s.slices := rfl
@[simp] theorem State.withFrames_groups : (s.withFrames v).groups = s.groups := rfl
@[simp] theorem State.withFrames_thaws : (s.withFrames v).thaws = s.thaws := rfl
@[simp] theorem State.withFrames_copies : (s.withFrames v).copies = s.copies := rfl
@[simp] theorem State.withFrames_heldCmds : (s.withFrames v).heldCmds = s.heldCmds := rfl
@[simp] theorem State.withFrames_coord : (s.withFrames v).coord = s.coord := rfl
@[simp] theorem State.withFrames_ctlWindow : (s.withFrames v).ctlWindow = s.ctlWindow := rfl
@[simp] theorem State.withFrames_ctlNeg : (s.withFrames v).ctlNeg = s.ctlNeg := rfl
@[simp] theorem State.withFrames_ctlNegPend : (s.withFrames v).ctlNegPend = s.ctlNegPend := rfl
@[simp] theorem State.withFrames_ctlAgreed : (s.withFrames v).ctlAgreed = s.ctlAgreed := rfl
@[simp] theorem State.withFrames_halves : (s.withFrames v).halves = s.halves := rfl
@[simp] theorem State.withFrames_ctlHb : (s.withFrames v).ctlHb = s.ctlHb := rfl
@[simp] theorem State.withFrames_events : (s.withFrames v).events = s.events := rfl
@[simp] theorem State.withFrames_procs : (s.withFrames v).procs = s.procs := rfl
@[simp] theorem State.withFrames_bring : (s.withFrames v).bring = s.bring := rfl
@[simp] theorem State.withFrames_sec : (s.withFrames v).sec = s.sec := rfl
@[simp] theorem State.withFrames_mgt : (s.withFrames v).mgt = s.mgt := rfl
@[simp] theorem State.withFrames_free : (s.withFrames v).free = s.free := rfl
@[simp] theorem State.withFrames_out : (s.withFrames v).out = s.out := rfl
@[simp] theorem State.rd_withFrames (f : Field) (i : Nat) : (s.withFrames v).rd f i = s.rd f i := rfl
end
section
variable (v : KMap (Nat × Nat))
@[simp] theorem State.withChunks_pending : (s.withChunks v).pending = s.pending := rfl
@[simp] theorem State.withChunks_regs : (s.withChunks v).regs = s.regs := rfl
@[simp] theorem State.withChunks_staged : (s.withChunks v).staged = s.staged := rfl
@[simp] theorem State.withChunks_mem : (s.withChunks v).mem = s.mem := rfl
@[simp] theorem State.withChunks_poison : (s.withChunks v).poison = s.poison := rfl
@[simp] theorem State.withChunks_lineKey : (s.withChunks v).lineKey = s.lineKey := rfl
@[simp] theorem State.withChunks_badCopy : (s.withChunks v).badCopy = s.badCopy := rfl
@[simp] theorem State.withChunks_keys : (s.withChunks v).keys = s.keys := rfl
@[simp] theorem State.withChunks_hostMem : (s.withChunks v).hostMem = s.hostMem := rfl
@[simp] theorem State.withChunks_hostBad : (s.withChunks v).hostBad = s.hostBad := rfl
@[simp] theorem State.withChunks_time : (s.withChunks v).time = s.time := rfl
@[simp] theorem State.withChunks_parts : (s.withChunks v).parts = s.parts := rfl
@[simp] theorem State.withChunks_cores : (s.withChunks v).cores = s.cores := rfl
@[simp] theorem State.withChunks_phys : (s.withChunks v).phys = s.phys := rfl
@[simp] theorem State.withChunks_threads : (s.withChunks v).threads = s.threads := rfl
@[simp] theorem State.withChunks_jobs : (s.withChunks v).jobs = s.jobs := rfl
@[simp] theorem State.withChunks_spurs : (s.withChunks v).spurs = s.spurs := rfl
@[simp] theorem State.withChunks_dmas : (s.withChunks v).dmas = s.dmas := rfl
@[simp] theorem State.withChunks_nocReqs : (s.withChunks v).nocReqs = s.nocReqs := rfl
@[simp] theorem State.withChunks_devErrs : (s.withChunks v).devErrs = s.devErrs := rfl
@[simp] theorem State.withChunks_sramErrs : (s.withChunks v).sramErrs = s.sramErrs := rfl
@[simp] theorem State.withChunks_sramUe : (s.withChunks v).sramUe = s.sramUe := rfl
@[simp] theorem State.withChunks_planHdr : (s.withChunks v).planHdr = s.planHdr := rfl
@[simp] theorem State.withChunks_cells : (s.withChunks v).cells = s.cells := rfl
@[simp] theorem State.withChunks_subports : (s.withChunks v).subports = s.subports := rfl
@[simp] theorem State.withChunks_chains : (s.withChunks v).chains = s.chains := rfl
@[simp] theorem State.withChunks_fhBufs : (s.withChunks v).fhBufs = s.fhBufs := rfl
@[simp] theorem State.withChunks_seqs : (s.withChunks v).seqs = s.seqs := rfl
@[simp] theorem State.withChunks_cmds : (s.withChunks v).cmds = s.cmds := rfl
@[simp] theorem State.withChunks_nextCmd : (s.withChunks v).nextCmd = s.nextCmd := rfl
@[simp] theorem State.withChunks_passes : (s.withChunks v).passes = s.passes := rfl
@[simp] theorem State.withChunks_nextPass : (s.withChunks v).nextPass = s.nextPass := rfl
@[simp] theorem State.withChunks_models : (s.withChunks v).models = s.models := rfl
@[simp] theorem State.withChunks_deltas : (s.withChunks v).deltas = s.deltas := rfl
@[simp] theorem State.withChunks_loads : (s.withChunks v).loads = s.loads := rfl
@[simp] theorem State.withChunks_lastAdm : (s.withChunks v).lastAdm = s.lastAdm := rfl
@[simp] theorem State.withChunks_frames : (s.withChunks v).frames = s.frames := rfl
@[simp] theorem State.withChunks_chunks : (s.withChunks v).chunks = v := rfl
@[simp] theorem State.withChunks_freeLists : (s.withChunks v).freeLists = s.freeLists := rfl
@[simp] theorem State.withChunks_nodes : (s.withChunks v).nodes = s.nodes := rfl
@[simp] theorem State.withChunks_lru : (s.withChunks v).lru = s.lru := rfl
@[simp] theorem State.withChunks_heldFrames : (s.withChunks v).heldFrames = s.heldFrames := rfl
@[simp] theorem State.withChunks_scopesDead : (s.withChunks v).scopesDead = s.scopesDead := rfl
@[simp] theorem State.withChunks_spills : (s.withChunks v).spills = s.spills := rfl
@[simp] theorem State.withChunks_links : (s.withChunks v).links = s.links := rfl
@[simp] theorem State.withChunks_members : (s.withChunks v).members = s.members := rfl
@[simp] theorem State.withChunks_spares : (s.withChunks v).spares = s.spares := rfl
@[simp] theorem State.withChunks_cachePeers : (s.withChunks v).cachePeers = s.cachePeers := rfl
@[simp] theorem State.withChunks_routes : (s.withChunks v).routes = s.routes := rfl
@[simp] theorem State.withChunks_fabReqs : (s.withChunks v).fabReqs = s.fabReqs := rfl
@[simp] theorem State.withChunks_nextTid : (s.withChunks v).nextTid = s.nextTid := rfl
@[simp] theorem State.withChunks_windows : (s.withChunks v).windows = s.windows := rfl
@[simp] theorem State.withChunks_peers : (s.withChunks v).peers = s.peers := rfl
@[simp] theorem State.withChunks_move : (s.withChunks v).move = s.move := rfl
@[simp] theorem State.withChunks_rings : (s.withChunks v).rings = s.rings := rfl
@[simp] theorem State.withChunks_slices : (s.withChunks v).slices = s.slices := rfl
@[simp] theorem State.withChunks_groups : (s.withChunks v).groups = s.groups := rfl
@[simp] theorem State.withChunks_thaws : (s.withChunks v).thaws = s.thaws := rfl
@[simp] theorem State.withChunks_copies : (s.withChunks v).copies = s.copies := rfl
@[simp] theorem State.withChunks_heldCmds : (s.withChunks v).heldCmds = s.heldCmds := rfl
@[simp] theorem State.withChunks_coord : (s.withChunks v).coord = s.coord := rfl
@[simp] theorem State.withChunks_ctlWindow : (s.withChunks v).ctlWindow = s.ctlWindow := rfl
@[simp] theorem State.withChunks_ctlNeg : (s.withChunks v).ctlNeg = s.ctlNeg := rfl
@[simp] theorem State.withChunks_ctlNegPend : (s.withChunks v).ctlNegPend = s.ctlNegPend := rfl
@[simp] theorem State.withChunks_ctlAgreed : (s.withChunks v).ctlAgreed = s.ctlAgreed := rfl
@[simp] theorem State.withChunks_halves : (s.withChunks v).halves = s.halves := rfl
@[simp] theorem State.withChunks_ctlHb : (s.withChunks v).ctlHb = s.ctlHb := rfl
@[simp] theorem State.withChunks_events : (s.withChunks v).events = s.events := rfl
@[simp] theorem State.withChunks_procs : (s.withChunks v).procs = s.procs := rfl
@[simp] theorem State.withChunks_bring : (s.withChunks v).bring = s.bring := rfl
@[simp] theorem State.withChunks_sec : (s.withChunks v).sec = s.sec := rfl
@[simp] theorem State.withChunks_mgt : (s.withChunks v).mgt = s.mgt := rfl
@[simp] theorem State.withChunks_free : (s.withChunks v).free = s.free := rfl
@[simp] theorem State.withChunks_out : (s.withChunks v).out = s.out := rfl
@[simp] theorem State.rd_withChunks (f : Field) (i : Nat) : (s.withChunks v).rd f i = s.rd f i := rfl
end
section
variable (v : KMap (List Nat))
@[simp] theorem State.withFreeLists_pending : (s.withFreeLists v).pending = s.pending := rfl
@[simp] theorem State.withFreeLists_regs : (s.withFreeLists v).regs = s.regs := rfl
@[simp] theorem State.withFreeLists_staged : (s.withFreeLists v).staged = s.staged := rfl
@[simp] theorem State.withFreeLists_mem : (s.withFreeLists v).mem = s.mem := rfl
@[simp] theorem State.withFreeLists_poison : (s.withFreeLists v).poison = s.poison := rfl
@[simp] theorem State.withFreeLists_lineKey : (s.withFreeLists v).lineKey = s.lineKey := rfl
@[simp] theorem State.withFreeLists_badCopy : (s.withFreeLists v).badCopy = s.badCopy := rfl
@[simp] theorem State.withFreeLists_keys : (s.withFreeLists v).keys = s.keys := rfl
@[simp] theorem State.withFreeLists_hostMem : (s.withFreeLists v).hostMem = s.hostMem := rfl
@[simp] theorem State.withFreeLists_hostBad : (s.withFreeLists v).hostBad = s.hostBad := rfl
@[simp] theorem State.withFreeLists_time : (s.withFreeLists v).time = s.time := rfl
@[simp] theorem State.withFreeLists_parts : (s.withFreeLists v).parts = s.parts := rfl
@[simp] theorem State.withFreeLists_cores : (s.withFreeLists v).cores = s.cores := rfl
@[simp] theorem State.withFreeLists_phys : (s.withFreeLists v).phys = s.phys := rfl
@[simp] theorem State.withFreeLists_threads : (s.withFreeLists v).threads = s.threads := rfl
@[simp] theorem State.withFreeLists_jobs : (s.withFreeLists v).jobs = s.jobs := rfl
@[simp] theorem State.withFreeLists_spurs : (s.withFreeLists v).spurs = s.spurs := rfl
@[simp] theorem State.withFreeLists_dmas : (s.withFreeLists v).dmas = s.dmas := rfl
@[simp] theorem State.withFreeLists_nocReqs : (s.withFreeLists v).nocReqs = s.nocReqs := rfl
@[simp] theorem State.withFreeLists_devErrs : (s.withFreeLists v).devErrs = s.devErrs := rfl
@[simp] theorem State.withFreeLists_sramErrs : (s.withFreeLists v).sramErrs = s.sramErrs := rfl
@[simp] theorem State.withFreeLists_sramUe : (s.withFreeLists v).sramUe = s.sramUe := rfl
@[simp] theorem State.withFreeLists_planHdr : (s.withFreeLists v).planHdr = s.planHdr := rfl
@[simp] theorem State.withFreeLists_cells : (s.withFreeLists v).cells = s.cells := rfl
@[simp] theorem State.withFreeLists_subports : (s.withFreeLists v).subports = s.subports := rfl
@[simp] theorem State.withFreeLists_chains : (s.withFreeLists v).chains = s.chains := rfl
@[simp] theorem State.withFreeLists_fhBufs : (s.withFreeLists v).fhBufs = s.fhBufs := rfl
@[simp] theorem State.withFreeLists_seqs : (s.withFreeLists v).seqs = s.seqs := rfl
@[simp] theorem State.withFreeLists_cmds : (s.withFreeLists v).cmds = s.cmds := rfl
@[simp] theorem State.withFreeLists_nextCmd : (s.withFreeLists v).nextCmd = s.nextCmd := rfl
@[simp] theorem State.withFreeLists_passes : (s.withFreeLists v).passes = s.passes := rfl
@[simp] theorem State.withFreeLists_nextPass : (s.withFreeLists v).nextPass = s.nextPass := rfl
@[simp] theorem State.withFreeLists_models : (s.withFreeLists v).models = s.models := rfl
@[simp] theorem State.withFreeLists_deltas : (s.withFreeLists v).deltas = s.deltas := rfl
@[simp] theorem State.withFreeLists_loads : (s.withFreeLists v).loads = s.loads := rfl
@[simp] theorem State.withFreeLists_lastAdm : (s.withFreeLists v).lastAdm = s.lastAdm := rfl
@[simp] theorem State.withFreeLists_frames : (s.withFreeLists v).frames = s.frames := rfl
@[simp] theorem State.withFreeLists_chunks : (s.withFreeLists v).chunks = s.chunks := rfl
@[simp] theorem State.withFreeLists_freeLists : (s.withFreeLists v).freeLists = v := rfl
@[simp] theorem State.withFreeLists_nodes : (s.withFreeLists v).nodes = s.nodes := rfl
@[simp] theorem State.withFreeLists_lru : (s.withFreeLists v).lru = s.lru := rfl
@[simp] theorem State.withFreeLists_heldFrames : (s.withFreeLists v).heldFrames = s.heldFrames := rfl
@[simp] theorem State.withFreeLists_scopesDead : (s.withFreeLists v).scopesDead = s.scopesDead := rfl
@[simp] theorem State.withFreeLists_spills : (s.withFreeLists v).spills = s.spills := rfl
@[simp] theorem State.withFreeLists_links : (s.withFreeLists v).links = s.links := rfl
@[simp] theorem State.withFreeLists_members : (s.withFreeLists v).members = s.members := rfl
@[simp] theorem State.withFreeLists_spares : (s.withFreeLists v).spares = s.spares := rfl
@[simp] theorem State.withFreeLists_cachePeers : (s.withFreeLists v).cachePeers = s.cachePeers := rfl
@[simp] theorem State.withFreeLists_routes : (s.withFreeLists v).routes = s.routes := rfl
@[simp] theorem State.withFreeLists_fabReqs : (s.withFreeLists v).fabReqs = s.fabReqs := rfl
@[simp] theorem State.withFreeLists_nextTid : (s.withFreeLists v).nextTid = s.nextTid := rfl
@[simp] theorem State.withFreeLists_windows : (s.withFreeLists v).windows = s.windows := rfl
@[simp] theorem State.withFreeLists_peers : (s.withFreeLists v).peers = s.peers := rfl
@[simp] theorem State.withFreeLists_move : (s.withFreeLists v).move = s.move := rfl
@[simp] theorem State.withFreeLists_rings : (s.withFreeLists v).rings = s.rings := rfl
@[simp] theorem State.withFreeLists_slices : (s.withFreeLists v).slices = s.slices := rfl
@[simp] theorem State.withFreeLists_groups : (s.withFreeLists v).groups = s.groups := rfl
@[simp] theorem State.withFreeLists_thaws : (s.withFreeLists v).thaws = s.thaws := rfl
@[simp] theorem State.withFreeLists_copies : (s.withFreeLists v).copies = s.copies := rfl
@[simp] theorem State.withFreeLists_heldCmds : (s.withFreeLists v).heldCmds = s.heldCmds := rfl
@[simp] theorem State.withFreeLists_coord : (s.withFreeLists v).coord = s.coord := rfl
@[simp] theorem State.withFreeLists_ctlWindow : (s.withFreeLists v).ctlWindow = s.ctlWindow := rfl
@[simp] theorem State.withFreeLists_ctlNeg : (s.withFreeLists v).ctlNeg = s.ctlNeg := rfl
@[simp] theorem State.withFreeLists_ctlNegPend : (s.withFreeLists v).ctlNegPend = s.ctlNegPend := rfl
@[simp] theorem State.withFreeLists_ctlAgreed : (s.withFreeLists v).ctlAgreed = s.ctlAgreed := rfl
@[simp] theorem State.withFreeLists_halves : (s.withFreeLists v).halves = s.halves := rfl
@[simp] theorem State.withFreeLists_ctlHb : (s.withFreeLists v).ctlHb = s.ctlHb := rfl
@[simp] theorem State.withFreeLists_events : (s.withFreeLists v).events = s.events := rfl
@[simp] theorem State.withFreeLists_procs : (s.withFreeLists v).procs = s.procs := rfl
@[simp] theorem State.withFreeLists_bring : (s.withFreeLists v).bring = s.bring := rfl
@[simp] theorem State.withFreeLists_sec : (s.withFreeLists v).sec = s.sec := rfl
@[simp] theorem State.withFreeLists_mgt : (s.withFreeLists v).mgt = s.mgt := rfl
@[simp] theorem State.withFreeLists_free : (s.withFreeLists v).free = s.free := rfl
@[simp] theorem State.withFreeLists_out : (s.withFreeLists v).out = s.out := rfl
@[simp] theorem State.rd_withFreeLists (f : Field) (i : Nat) : (s.withFreeLists v).rd f i = s.rd f i := rfl
end
section
variable (v : KMap Node)
@[simp] theorem State.withNodes_pending : (s.withNodes v).pending = s.pending := rfl
@[simp] theorem State.withNodes_regs : (s.withNodes v).regs = s.regs := rfl
@[simp] theorem State.withNodes_staged : (s.withNodes v).staged = s.staged := rfl
@[simp] theorem State.withNodes_mem : (s.withNodes v).mem = s.mem := rfl
@[simp] theorem State.withNodes_poison : (s.withNodes v).poison = s.poison := rfl
@[simp] theorem State.withNodes_lineKey : (s.withNodes v).lineKey = s.lineKey := rfl
@[simp] theorem State.withNodes_badCopy : (s.withNodes v).badCopy = s.badCopy := rfl
@[simp] theorem State.withNodes_keys : (s.withNodes v).keys = s.keys := rfl
@[simp] theorem State.withNodes_hostMem : (s.withNodes v).hostMem = s.hostMem := rfl
@[simp] theorem State.withNodes_hostBad : (s.withNodes v).hostBad = s.hostBad := rfl
@[simp] theorem State.withNodes_time : (s.withNodes v).time = s.time := rfl
@[simp] theorem State.withNodes_parts : (s.withNodes v).parts = s.parts := rfl
@[simp] theorem State.withNodes_cores : (s.withNodes v).cores = s.cores := rfl
@[simp] theorem State.withNodes_phys : (s.withNodes v).phys = s.phys := rfl
@[simp] theorem State.withNodes_threads : (s.withNodes v).threads = s.threads := rfl
@[simp] theorem State.withNodes_jobs : (s.withNodes v).jobs = s.jobs := rfl
@[simp] theorem State.withNodes_spurs : (s.withNodes v).spurs = s.spurs := rfl
@[simp] theorem State.withNodes_dmas : (s.withNodes v).dmas = s.dmas := rfl
@[simp] theorem State.withNodes_nocReqs : (s.withNodes v).nocReqs = s.nocReqs := rfl
@[simp] theorem State.withNodes_devErrs : (s.withNodes v).devErrs = s.devErrs := rfl
@[simp] theorem State.withNodes_sramErrs : (s.withNodes v).sramErrs = s.sramErrs := rfl
@[simp] theorem State.withNodes_sramUe : (s.withNodes v).sramUe = s.sramUe := rfl
@[simp] theorem State.withNodes_planHdr : (s.withNodes v).planHdr = s.planHdr := rfl
@[simp] theorem State.withNodes_cells : (s.withNodes v).cells = s.cells := rfl
@[simp] theorem State.withNodes_subports : (s.withNodes v).subports = s.subports := rfl
@[simp] theorem State.withNodes_chains : (s.withNodes v).chains = s.chains := rfl
@[simp] theorem State.withNodes_fhBufs : (s.withNodes v).fhBufs = s.fhBufs := rfl
@[simp] theorem State.withNodes_seqs : (s.withNodes v).seqs = s.seqs := rfl
@[simp] theorem State.withNodes_cmds : (s.withNodes v).cmds = s.cmds := rfl
@[simp] theorem State.withNodes_nextCmd : (s.withNodes v).nextCmd = s.nextCmd := rfl
@[simp] theorem State.withNodes_passes : (s.withNodes v).passes = s.passes := rfl
@[simp] theorem State.withNodes_nextPass : (s.withNodes v).nextPass = s.nextPass := rfl
@[simp] theorem State.withNodes_models : (s.withNodes v).models = s.models := rfl
@[simp] theorem State.withNodes_deltas : (s.withNodes v).deltas = s.deltas := rfl
@[simp] theorem State.withNodes_loads : (s.withNodes v).loads = s.loads := rfl
@[simp] theorem State.withNodes_lastAdm : (s.withNodes v).lastAdm = s.lastAdm := rfl
@[simp] theorem State.withNodes_frames : (s.withNodes v).frames = s.frames := rfl
@[simp] theorem State.withNodes_chunks : (s.withNodes v).chunks = s.chunks := rfl
@[simp] theorem State.withNodes_freeLists : (s.withNodes v).freeLists = s.freeLists := rfl
@[simp] theorem State.withNodes_nodes : (s.withNodes v).nodes = v := rfl
@[simp] theorem State.withNodes_lru : (s.withNodes v).lru = s.lru := rfl
@[simp] theorem State.withNodes_heldFrames : (s.withNodes v).heldFrames = s.heldFrames := rfl
@[simp] theorem State.withNodes_scopesDead : (s.withNodes v).scopesDead = s.scopesDead := rfl
@[simp] theorem State.withNodes_spills : (s.withNodes v).spills = s.spills := rfl
@[simp] theorem State.withNodes_links : (s.withNodes v).links = s.links := rfl
@[simp] theorem State.withNodes_members : (s.withNodes v).members = s.members := rfl
@[simp] theorem State.withNodes_spares : (s.withNodes v).spares = s.spares := rfl
@[simp] theorem State.withNodes_cachePeers : (s.withNodes v).cachePeers = s.cachePeers := rfl
@[simp] theorem State.withNodes_routes : (s.withNodes v).routes = s.routes := rfl
@[simp] theorem State.withNodes_fabReqs : (s.withNodes v).fabReqs = s.fabReqs := rfl
@[simp] theorem State.withNodes_nextTid : (s.withNodes v).nextTid = s.nextTid := rfl
@[simp] theorem State.withNodes_windows : (s.withNodes v).windows = s.windows := rfl
@[simp] theorem State.withNodes_peers : (s.withNodes v).peers = s.peers := rfl
@[simp] theorem State.withNodes_move : (s.withNodes v).move = s.move := rfl
@[simp] theorem State.withNodes_rings : (s.withNodes v).rings = s.rings := rfl
@[simp] theorem State.withNodes_slices : (s.withNodes v).slices = s.slices := rfl
@[simp] theorem State.withNodes_groups : (s.withNodes v).groups = s.groups := rfl
@[simp] theorem State.withNodes_thaws : (s.withNodes v).thaws = s.thaws := rfl
@[simp] theorem State.withNodes_copies : (s.withNodes v).copies = s.copies := rfl
@[simp] theorem State.withNodes_heldCmds : (s.withNodes v).heldCmds = s.heldCmds := rfl
@[simp] theorem State.withNodes_coord : (s.withNodes v).coord = s.coord := rfl
@[simp] theorem State.withNodes_ctlWindow : (s.withNodes v).ctlWindow = s.ctlWindow := rfl
@[simp] theorem State.withNodes_ctlNeg : (s.withNodes v).ctlNeg = s.ctlNeg := rfl
@[simp] theorem State.withNodes_ctlNegPend : (s.withNodes v).ctlNegPend = s.ctlNegPend := rfl
@[simp] theorem State.withNodes_ctlAgreed : (s.withNodes v).ctlAgreed = s.ctlAgreed := rfl
@[simp] theorem State.withNodes_halves : (s.withNodes v).halves = s.halves := rfl
@[simp] theorem State.withNodes_ctlHb : (s.withNodes v).ctlHb = s.ctlHb := rfl
@[simp] theorem State.withNodes_events : (s.withNodes v).events = s.events := rfl
@[simp] theorem State.withNodes_procs : (s.withNodes v).procs = s.procs := rfl
@[simp] theorem State.withNodes_bring : (s.withNodes v).bring = s.bring := rfl
@[simp] theorem State.withNodes_sec : (s.withNodes v).sec = s.sec := rfl
@[simp] theorem State.withNodes_mgt : (s.withNodes v).mgt = s.mgt := rfl
@[simp] theorem State.withNodes_free : (s.withNodes v).free = s.free := rfl
@[simp] theorem State.withNodes_out : (s.withNodes v).out = s.out := rfl
@[simp] theorem State.rd_withNodes (f : Field) (i : Nat) : (s.withNodes v).rd f i = s.rd f i := rfl
end
section
variable (v : KMap (List Nat))
@[simp] theorem State.withLru_pending : (s.withLru v).pending = s.pending := rfl
@[simp] theorem State.withLru_regs : (s.withLru v).regs = s.regs := rfl
@[simp] theorem State.withLru_staged : (s.withLru v).staged = s.staged := rfl
@[simp] theorem State.withLru_mem : (s.withLru v).mem = s.mem := rfl
@[simp] theorem State.withLru_poison : (s.withLru v).poison = s.poison := rfl
@[simp] theorem State.withLru_lineKey : (s.withLru v).lineKey = s.lineKey := rfl
@[simp] theorem State.withLru_badCopy : (s.withLru v).badCopy = s.badCopy := rfl
@[simp] theorem State.withLru_keys : (s.withLru v).keys = s.keys := rfl
@[simp] theorem State.withLru_hostMem : (s.withLru v).hostMem = s.hostMem := rfl
@[simp] theorem State.withLru_hostBad : (s.withLru v).hostBad = s.hostBad := rfl
@[simp] theorem State.withLru_time : (s.withLru v).time = s.time := rfl
@[simp] theorem State.withLru_parts : (s.withLru v).parts = s.parts := rfl
@[simp] theorem State.withLru_cores : (s.withLru v).cores = s.cores := rfl
@[simp] theorem State.withLru_phys : (s.withLru v).phys = s.phys := rfl
@[simp] theorem State.withLru_threads : (s.withLru v).threads = s.threads := rfl
@[simp] theorem State.withLru_jobs : (s.withLru v).jobs = s.jobs := rfl
@[simp] theorem State.withLru_spurs : (s.withLru v).spurs = s.spurs := rfl
@[simp] theorem State.withLru_dmas : (s.withLru v).dmas = s.dmas := rfl
@[simp] theorem State.withLru_nocReqs : (s.withLru v).nocReqs = s.nocReqs := rfl
@[simp] theorem State.withLru_devErrs : (s.withLru v).devErrs = s.devErrs := rfl
@[simp] theorem State.withLru_sramErrs : (s.withLru v).sramErrs = s.sramErrs := rfl
@[simp] theorem State.withLru_sramUe : (s.withLru v).sramUe = s.sramUe := rfl
@[simp] theorem State.withLru_planHdr : (s.withLru v).planHdr = s.planHdr := rfl
@[simp] theorem State.withLru_cells : (s.withLru v).cells = s.cells := rfl
@[simp] theorem State.withLru_subports : (s.withLru v).subports = s.subports := rfl
@[simp] theorem State.withLru_chains : (s.withLru v).chains = s.chains := rfl
@[simp] theorem State.withLru_fhBufs : (s.withLru v).fhBufs = s.fhBufs := rfl
@[simp] theorem State.withLru_seqs : (s.withLru v).seqs = s.seqs := rfl
@[simp] theorem State.withLru_cmds : (s.withLru v).cmds = s.cmds := rfl
@[simp] theorem State.withLru_nextCmd : (s.withLru v).nextCmd = s.nextCmd := rfl
@[simp] theorem State.withLru_passes : (s.withLru v).passes = s.passes := rfl
@[simp] theorem State.withLru_nextPass : (s.withLru v).nextPass = s.nextPass := rfl
@[simp] theorem State.withLru_models : (s.withLru v).models = s.models := rfl
@[simp] theorem State.withLru_deltas : (s.withLru v).deltas = s.deltas := rfl
@[simp] theorem State.withLru_loads : (s.withLru v).loads = s.loads := rfl
@[simp] theorem State.withLru_lastAdm : (s.withLru v).lastAdm = s.lastAdm := rfl
@[simp] theorem State.withLru_frames : (s.withLru v).frames = s.frames := rfl
@[simp] theorem State.withLru_chunks : (s.withLru v).chunks = s.chunks := rfl
@[simp] theorem State.withLru_freeLists : (s.withLru v).freeLists = s.freeLists := rfl
@[simp] theorem State.withLru_nodes : (s.withLru v).nodes = s.nodes := rfl
@[simp] theorem State.withLru_lru : (s.withLru v).lru = v := rfl
@[simp] theorem State.withLru_heldFrames : (s.withLru v).heldFrames = s.heldFrames := rfl
@[simp] theorem State.withLru_scopesDead : (s.withLru v).scopesDead = s.scopesDead := rfl
@[simp] theorem State.withLru_spills : (s.withLru v).spills = s.spills := rfl
@[simp] theorem State.withLru_links : (s.withLru v).links = s.links := rfl
@[simp] theorem State.withLru_members : (s.withLru v).members = s.members := rfl
@[simp] theorem State.withLru_spares : (s.withLru v).spares = s.spares := rfl
@[simp] theorem State.withLru_cachePeers : (s.withLru v).cachePeers = s.cachePeers := rfl
@[simp] theorem State.withLru_routes : (s.withLru v).routes = s.routes := rfl
@[simp] theorem State.withLru_fabReqs : (s.withLru v).fabReqs = s.fabReqs := rfl
@[simp] theorem State.withLru_nextTid : (s.withLru v).nextTid = s.nextTid := rfl
@[simp] theorem State.withLru_windows : (s.withLru v).windows = s.windows := rfl
@[simp] theorem State.withLru_peers : (s.withLru v).peers = s.peers := rfl
@[simp] theorem State.withLru_move : (s.withLru v).move = s.move := rfl
@[simp] theorem State.withLru_rings : (s.withLru v).rings = s.rings := rfl
@[simp] theorem State.withLru_slices : (s.withLru v).slices = s.slices := rfl
@[simp] theorem State.withLru_groups : (s.withLru v).groups = s.groups := rfl
@[simp] theorem State.withLru_thaws : (s.withLru v).thaws = s.thaws := rfl
@[simp] theorem State.withLru_copies : (s.withLru v).copies = s.copies := rfl
@[simp] theorem State.withLru_heldCmds : (s.withLru v).heldCmds = s.heldCmds := rfl
@[simp] theorem State.withLru_coord : (s.withLru v).coord = s.coord := rfl
@[simp] theorem State.withLru_ctlWindow : (s.withLru v).ctlWindow = s.ctlWindow := rfl
@[simp] theorem State.withLru_ctlNeg : (s.withLru v).ctlNeg = s.ctlNeg := rfl
@[simp] theorem State.withLru_ctlNegPend : (s.withLru v).ctlNegPend = s.ctlNegPend := rfl
@[simp] theorem State.withLru_ctlAgreed : (s.withLru v).ctlAgreed = s.ctlAgreed := rfl
@[simp] theorem State.withLru_halves : (s.withLru v).halves = s.halves := rfl
@[simp] theorem State.withLru_ctlHb : (s.withLru v).ctlHb = s.ctlHb := rfl
@[simp] theorem State.withLru_events : (s.withLru v).events = s.events := rfl
@[simp] theorem State.withLru_procs : (s.withLru v).procs = s.procs := rfl
@[simp] theorem State.withLru_bring : (s.withLru v).bring = s.bring := rfl
@[simp] theorem State.withLru_sec : (s.withLru v).sec = s.sec := rfl
@[simp] theorem State.withLru_mgt : (s.withLru v).mgt = s.mgt := rfl
@[simp] theorem State.withLru_free : (s.withLru v).free = s.free := rfl
@[simp] theorem State.withLru_out : (s.withLru v).out = s.out := rfl
@[simp] theorem State.rd_withLru (f : Field) (i : Nat) : (s.withLru v).rd f i = s.rd f i := rfl
end
section
variable (v : List Nat)
@[simp] theorem State.withHeldFrames_pending : (s.withHeldFrames v).pending = s.pending := rfl
@[simp] theorem State.withHeldFrames_regs : (s.withHeldFrames v).regs = s.regs := rfl
@[simp] theorem State.withHeldFrames_staged : (s.withHeldFrames v).staged = s.staged := rfl
@[simp] theorem State.withHeldFrames_mem : (s.withHeldFrames v).mem = s.mem := rfl
@[simp] theorem State.withHeldFrames_poison : (s.withHeldFrames v).poison = s.poison := rfl
@[simp] theorem State.withHeldFrames_lineKey : (s.withHeldFrames v).lineKey = s.lineKey := rfl
@[simp] theorem State.withHeldFrames_badCopy : (s.withHeldFrames v).badCopy = s.badCopy := rfl
@[simp] theorem State.withHeldFrames_keys : (s.withHeldFrames v).keys = s.keys := rfl
@[simp] theorem State.withHeldFrames_hostMem : (s.withHeldFrames v).hostMem = s.hostMem := rfl
@[simp] theorem State.withHeldFrames_hostBad : (s.withHeldFrames v).hostBad = s.hostBad := rfl
@[simp] theorem State.withHeldFrames_time : (s.withHeldFrames v).time = s.time := rfl
@[simp] theorem State.withHeldFrames_parts : (s.withHeldFrames v).parts = s.parts := rfl
@[simp] theorem State.withHeldFrames_cores : (s.withHeldFrames v).cores = s.cores := rfl
@[simp] theorem State.withHeldFrames_phys : (s.withHeldFrames v).phys = s.phys := rfl
@[simp] theorem State.withHeldFrames_threads : (s.withHeldFrames v).threads = s.threads := rfl
@[simp] theorem State.withHeldFrames_jobs : (s.withHeldFrames v).jobs = s.jobs := rfl
@[simp] theorem State.withHeldFrames_spurs : (s.withHeldFrames v).spurs = s.spurs := rfl
@[simp] theorem State.withHeldFrames_dmas : (s.withHeldFrames v).dmas = s.dmas := rfl
@[simp] theorem State.withHeldFrames_nocReqs : (s.withHeldFrames v).nocReqs = s.nocReqs := rfl
@[simp] theorem State.withHeldFrames_devErrs : (s.withHeldFrames v).devErrs = s.devErrs := rfl
@[simp] theorem State.withHeldFrames_sramErrs : (s.withHeldFrames v).sramErrs = s.sramErrs := rfl
@[simp] theorem State.withHeldFrames_sramUe : (s.withHeldFrames v).sramUe = s.sramUe := rfl
@[simp] theorem State.withHeldFrames_planHdr : (s.withHeldFrames v).planHdr = s.planHdr := rfl
@[simp] theorem State.withHeldFrames_cells : (s.withHeldFrames v).cells = s.cells := rfl
@[simp] theorem State.withHeldFrames_subports : (s.withHeldFrames v).subports = s.subports := rfl
@[simp] theorem State.withHeldFrames_chains : (s.withHeldFrames v).chains = s.chains := rfl
@[simp] theorem State.withHeldFrames_fhBufs : (s.withHeldFrames v).fhBufs = s.fhBufs := rfl
@[simp] theorem State.withHeldFrames_seqs : (s.withHeldFrames v).seqs = s.seqs := rfl
@[simp] theorem State.withHeldFrames_cmds : (s.withHeldFrames v).cmds = s.cmds := rfl
@[simp] theorem State.withHeldFrames_nextCmd : (s.withHeldFrames v).nextCmd = s.nextCmd := rfl
@[simp] theorem State.withHeldFrames_passes : (s.withHeldFrames v).passes = s.passes := rfl
@[simp] theorem State.withHeldFrames_nextPass : (s.withHeldFrames v).nextPass = s.nextPass := rfl
@[simp] theorem State.withHeldFrames_models : (s.withHeldFrames v).models = s.models := rfl
@[simp] theorem State.withHeldFrames_deltas : (s.withHeldFrames v).deltas = s.deltas := rfl
@[simp] theorem State.withHeldFrames_loads : (s.withHeldFrames v).loads = s.loads := rfl
@[simp] theorem State.withHeldFrames_lastAdm : (s.withHeldFrames v).lastAdm = s.lastAdm := rfl
@[simp] theorem State.withHeldFrames_frames : (s.withHeldFrames v).frames = s.frames := rfl
@[simp] theorem State.withHeldFrames_chunks : (s.withHeldFrames v).chunks = s.chunks := rfl
@[simp] theorem State.withHeldFrames_freeLists : (s.withHeldFrames v).freeLists = s.freeLists := rfl
@[simp] theorem State.withHeldFrames_nodes : (s.withHeldFrames v).nodes = s.nodes := rfl
@[simp] theorem State.withHeldFrames_lru : (s.withHeldFrames v).lru = s.lru := rfl
@[simp] theorem State.withHeldFrames_heldFrames : (s.withHeldFrames v).heldFrames = v := rfl
@[simp] theorem State.withHeldFrames_scopesDead : (s.withHeldFrames v).scopesDead = s.scopesDead := rfl
@[simp] theorem State.withHeldFrames_spills : (s.withHeldFrames v).spills = s.spills := rfl
@[simp] theorem State.withHeldFrames_links : (s.withHeldFrames v).links = s.links := rfl
@[simp] theorem State.withHeldFrames_members : (s.withHeldFrames v).members = s.members := rfl
@[simp] theorem State.withHeldFrames_spares : (s.withHeldFrames v).spares = s.spares := rfl
@[simp] theorem State.withHeldFrames_cachePeers : (s.withHeldFrames v).cachePeers = s.cachePeers := rfl
@[simp] theorem State.withHeldFrames_routes : (s.withHeldFrames v).routes = s.routes := rfl
@[simp] theorem State.withHeldFrames_fabReqs : (s.withHeldFrames v).fabReqs = s.fabReqs := rfl
@[simp] theorem State.withHeldFrames_nextTid : (s.withHeldFrames v).nextTid = s.nextTid := rfl
@[simp] theorem State.withHeldFrames_windows : (s.withHeldFrames v).windows = s.windows := rfl
@[simp] theorem State.withHeldFrames_peers : (s.withHeldFrames v).peers = s.peers := rfl
@[simp] theorem State.withHeldFrames_move : (s.withHeldFrames v).move = s.move := rfl
@[simp] theorem State.withHeldFrames_rings : (s.withHeldFrames v).rings = s.rings := rfl
@[simp] theorem State.withHeldFrames_slices : (s.withHeldFrames v).slices = s.slices := rfl
@[simp] theorem State.withHeldFrames_groups : (s.withHeldFrames v).groups = s.groups := rfl
@[simp] theorem State.withHeldFrames_thaws : (s.withHeldFrames v).thaws = s.thaws := rfl
@[simp] theorem State.withHeldFrames_copies : (s.withHeldFrames v).copies = s.copies := rfl
@[simp] theorem State.withHeldFrames_heldCmds : (s.withHeldFrames v).heldCmds = s.heldCmds := rfl
@[simp] theorem State.withHeldFrames_coord : (s.withHeldFrames v).coord = s.coord := rfl
@[simp] theorem State.withHeldFrames_ctlWindow : (s.withHeldFrames v).ctlWindow = s.ctlWindow := rfl
@[simp] theorem State.withHeldFrames_ctlNeg : (s.withHeldFrames v).ctlNeg = s.ctlNeg := rfl
@[simp] theorem State.withHeldFrames_ctlNegPend : (s.withHeldFrames v).ctlNegPend = s.ctlNegPend := rfl
@[simp] theorem State.withHeldFrames_ctlAgreed : (s.withHeldFrames v).ctlAgreed = s.ctlAgreed := rfl
@[simp] theorem State.withHeldFrames_halves : (s.withHeldFrames v).halves = s.halves := rfl
@[simp] theorem State.withHeldFrames_ctlHb : (s.withHeldFrames v).ctlHb = s.ctlHb := rfl
@[simp] theorem State.withHeldFrames_events : (s.withHeldFrames v).events = s.events := rfl
@[simp] theorem State.withHeldFrames_procs : (s.withHeldFrames v).procs = s.procs := rfl
@[simp] theorem State.withHeldFrames_bring : (s.withHeldFrames v).bring = s.bring := rfl
@[simp] theorem State.withHeldFrames_sec : (s.withHeldFrames v).sec = s.sec := rfl
@[simp] theorem State.withHeldFrames_mgt : (s.withHeldFrames v).mgt = s.mgt := rfl
@[simp] theorem State.withHeldFrames_free : (s.withHeldFrames v).free = s.free := rfl
@[simp] theorem State.withHeldFrames_out : (s.withHeldFrames v).out = s.out := rfl
@[simp] theorem State.rd_withHeldFrames (f : Field) (i : Nat) : (s.withHeldFrames v).rd f i = s.rd f i := rfl
end
section
variable (v : List Nat)
@[simp] theorem State.withScopesDead_pending : (s.withScopesDead v).pending = s.pending := rfl
@[simp] theorem State.withScopesDead_regs : (s.withScopesDead v).regs = s.regs := rfl
@[simp] theorem State.withScopesDead_staged : (s.withScopesDead v).staged = s.staged := rfl
@[simp] theorem State.withScopesDead_mem : (s.withScopesDead v).mem = s.mem := rfl
@[simp] theorem State.withScopesDead_poison : (s.withScopesDead v).poison = s.poison := rfl
@[simp] theorem State.withScopesDead_lineKey : (s.withScopesDead v).lineKey = s.lineKey := rfl
@[simp] theorem State.withScopesDead_badCopy : (s.withScopesDead v).badCopy = s.badCopy := rfl
@[simp] theorem State.withScopesDead_keys : (s.withScopesDead v).keys = s.keys := rfl
@[simp] theorem State.withScopesDead_hostMem : (s.withScopesDead v).hostMem = s.hostMem := rfl
@[simp] theorem State.withScopesDead_hostBad : (s.withScopesDead v).hostBad = s.hostBad := rfl
@[simp] theorem State.withScopesDead_time : (s.withScopesDead v).time = s.time := rfl
@[simp] theorem State.withScopesDead_parts : (s.withScopesDead v).parts = s.parts := rfl
@[simp] theorem State.withScopesDead_cores : (s.withScopesDead v).cores = s.cores := rfl
@[simp] theorem State.withScopesDead_phys : (s.withScopesDead v).phys = s.phys := rfl
@[simp] theorem State.withScopesDead_threads : (s.withScopesDead v).threads = s.threads := rfl
@[simp] theorem State.withScopesDead_jobs : (s.withScopesDead v).jobs = s.jobs := rfl
@[simp] theorem State.withScopesDead_spurs : (s.withScopesDead v).spurs = s.spurs := rfl
@[simp] theorem State.withScopesDead_dmas : (s.withScopesDead v).dmas = s.dmas := rfl
@[simp] theorem State.withScopesDead_nocReqs : (s.withScopesDead v).nocReqs = s.nocReqs := rfl
@[simp] theorem State.withScopesDead_devErrs : (s.withScopesDead v).devErrs = s.devErrs := rfl
@[simp] theorem State.withScopesDead_sramErrs : (s.withScopesDead v).sramErrs = s.sramErrs := rfl
@[simp] theorem State.withScopesDead_sramUe : (s.withScopesDead v).sramUe = s.sramUe := rfl
@[simp] theorem State.withScopesDead_planHdr : (s.withScopesDead v).planHdr = s.planHdr := rfl
@[simp] theorem State.withScopesDead_cells : (s.withScopesDead v).cells = s.cells := rfl
@[simp] theorem State.withScopesDead_subports : (s.withScopesDead v).subports = s.subports := rfl
@[simp] theorem State.withScopesDead_chains : (s.withScopesDead v).chains = s.chains := rfl
@[simp] theorem State.withScopesDead_fhBufs : (s.withScopesDead v).fhBufs = s.fhBufs := rfl
@[simp] theorem State.withScopesDead_seqs : (s.withScopesDead v).seqs = s.seqs := rfl
@[simp] theorem State.withScopesDead_cmds : (s.withScopesDead v).cmds = s.cmds := rfl
@[simp] theorem State.withScopesDead_nextCmd : (s.withScopesDead v).nextCmd = s.nextCmd := rfl
@[simp] theorem State.withScopesDead_passes : (s.withScopesDead v).passes = s.passes := rfl
@[simp] theorem State.withScopesDead_nextPass : (s.withScopesDead v).nextPass = s.nextPass := rfl
@[simp] theorem State.withScopesDead_models : (s.withScopesDead v).models = s.models := rfl
@[simp] theorem State.withScopesDead_deltas : (s.withScopesDead v).deltas = s.deltas := rfl
@[simp] theorem State.withScopesDead_loads : (s.withScopesDead v).loads = s.loads := rfl
@[simp] theorem State.withScopesDead_lastAdm : (s.withScopesDead v).lastAdm = s.lastAdm := rfl
@[simp] theorem State.withScopesDead_frames : (s.withScopesDead v).frames = s.frames := rfl
@[simp] theorem State.withScopesDead_chunks : (s.withScopesDead v).chunks = s.chunks := rfl
@[simp] theorem State.withScopesDead_freeLists : (s.withScopesDead v).freeLists = s.freeLists := rfl
@[simp] theorem State.withScopesDead_nodes : (s.withScopesDead v).nodes = s.nodes := rfl
@[simp] theorem State.withScopesDead_lru : (s.withScopesDead v).lru = s.lru := rfl
@[simp] theorem State.withScopesDead_heldFrames : (s.withScopesDead v).heldFrames = s.heldFrames := rfl
@[simp] theorem State.withScopesDead_scopesDead : (s.withScopesDead v).scopesDead = v := rfl
@[simp] theorem State.withScopesDead_spills : (s.withScopesDead v).spills = s.spills := rfl
@[simp] theorem State.withScopesDead_links : (s.withScopesDead v).links = s.links := rfl
@[simp] theorem State.withScopesDead_members : (s.withScopesDead v).members = s.members := rfl
@[simp] theorem State.withScopesDead_spares : (s.withScopesDead v).spares = s.spares := rfl
@[simp] theorem State.withScopesDead_cachePeers : (s.withScopesDead v).cachePeers = s.cachePeers := rfl
@[simp] theorem State.withScopesDead_routes : (s.withScopesDead v).routes = s.routes := rfl
@[simp] theorem State.withScopesDead_fabReqs : (s.withScopesDead v).fabReqs = s.fabReqs := rfl
@[simp] theorem State.withScopesDead_nextTid : (s.withScopesDead v).nextTid = s.nextTid := rfl
@[simp] theorem State.withScopesDead_windows : (s.withScopesDead v).windows = s.windows := rfl
@[simp] theorem State.withScopesDead_peers : (s.withScopesDead v).peers = s.peers := rfl
@[simp] theorem State.withScopesDead_move : (s.withScopesDead v).move = s.move := rfl
@[simp] theorem State.withScopesDead_rings : (s.withScopesDead v).rings = s.rings := rfl
@[simp] theorem State.withScopesDead_slices : (s.withScopesDead v).slices = s.slices := rfl
@[simp] theorem State.withScopesDead_groups : (s.withScopesDead v).groups = s.groups := rfl
@[simp] theorem State.withScopesDead_thaws : (s.withScopesDead v).thaws = s.thaws := rfl
@[simp] theorem State.withScopesDead_copies : (s.withScopesDead v).copies = s.copies := rfl
@[simp] theorem State.withScopesDead_heldCmds : (s.withScopesDead v).heldCmds = s.heldCmds := rfl
@[simp] theorem State.withScopesDead_coord : (s.withScopesDead v).coord = s.coord := rfl
@[simp] theorem State.withScopesDead_ctlWindow : (s.withScopesDead v).ctlWindow = s.ctlWindow := rfl
@[simp] theorem State.withScopesDead_ctlNeg : (s.withScopesDead v).ctlNeg = s.ctlNeg := rfl
@[simp] theorem State.withScopesDead_ctlNegPend : (s.withScopesDead v).ctlNegPend = s.ctlNegPend := rfl
@[simp] theorem State.withScopesDead_ctlAgreed : (s.withScopesDead v).ctlAgreed = s.ctlAgreed := rfl
@[simp] theorem State.withScopesDead_halves : (s.withScopesDead v).halves = s.halves := rfl
@[simp] theorem State.withScopesDead_ctlHb : (s.withScopesDead v).ctlHb = s.ctlHb := rfl
@[simp] theorem State.withScopesDead_events : (s.withScopesDead v).events = s.events := rfl
@[simp] theorem State.withScopesDead_procs : (s.withScopesDead v).procs = s.procs := rfl
@[simp] theorem State.withScopesDead_bring : (s.withScopesDead v).bring = s.bring := rfl
@[simp] theorem State.withScopesDead_sec : (s.withScopesDead v).sec = s.sec := rfl
@[simp] theorem State.withScopesDead_mgt : (s.withScopesDead v).mgt = s.mgt := rfl
@[simp] theorem State.withScopesDead_free : (s.withScopesDead v).free = s.free := rfl
@[simp] theorem State.withScopesDead_out : (s.withScopesDead v).out = s.out := rfl
@[simp] theorem State.rd_withScopesDead (f : Field) (i : Nat) : (s.withScopesDead v).rd f i = s.rd f i := rfl
end
section
variable (v : List Spill)
@[simp] theorem State.withSpills_pending : (s.withSpills v).pending = s.pending := rfl
@[simp] theorem State.withSpills_regs : (s.withSpills v).regs = s.regs := rfl
@[simp] theorem State.withSpills_staged : (s.withSpills v).staged = s.staged := rfl
@[simp] theorem State.withSpills_mem : (s.withSpills v).mem = s.mem := rfl
@[simp] theorem State.withSpills_poison : (s.withSpills v).poison = s.poison := rfl
@[simp] theorem State.withSpills_lineKey : (s.withSpills v).lineKey = s.lineKey := rfl
@[simp] theorem State.withSpills_badCopy : (s.withSpills v).badCopy = s.badCopy := rfl
@[simp] theorem State.withSpills_keys : (s.withSpills v).keys = s.keys := rfl
@[simp] theorem State.withSpills_hostMem : (s.withSpills v).hostMem = s.hostMem := rfl
@[simp] theorem State.withSpills_hostBad : (s.withSpills v).hostBad = s.hostBad := rfl
@[simp] theorem State.withSpills_time : (s.withSpills v).time = s.time := rfl
@[simp] theorem State.withSpills_parts : (s.withSpills v).parts = s.parts := rfl
@[simp] theorem State.withSpills_cores : (s.withSpills v).cores = s.cores := rfl
@[simp] theorem State.withSpills_phys : (s.withSpills v).phys = s.phys := rfl
@[simp] theorem State.withSpills_threads : (s.withSpills v).threads = s.threads := rfl
@[simp] theorem State.withSpills_jobs : (s.withSpills v).jobs = s.jobs := rfl
@[simp] theorem State.withSpills_spurs : (s.withSpills v).spurs = s.spurs := rfl
@[simp] theorem State.withSpills_dmas : (s.withSpills v).dmas = s.dmas := rfl
@[simp] theorem State.withSpills_nocReqs : (s.withSpills v).nocReqs = s.nocReqs := rfl
@[simp] theorem State.withSpills_devErrs : (s.withSpills v).devErrs = s.devErrs := rfl
@[simp] theorem State.withSpills_sramErrs : (s.withSpills v).sramErrs = s.sramErrs := rfl
@[simp] theorem State.withSpills_sramUe : (s.withSpills v).sramUe = s.sramUe := rfl
@[simp] theorem State.withSpills_planHdr : (s.withSpills v).planHdr = s.planHdr := rfl
@[simp] theorem State.withSpills_cells : (s.withSpills v).cells = s.cells := rfl
@[simp] theorem State.withSpills_subports : (s.withSpills v).subports = s.subports := rfl
@[simp] theorem State.withSpills_chains : (s.withSpills v).chains = s.chains := rfl
@[simp] theorem State.withSpills_fhBufs : (s.withSpills v).fhBufs = s.fhBufs := rfl
@[simp] theorem State.withSpills_seqs : (s.withSpills v).seqs = s.seqs := rfl
@[simp] theorem State.withSpills_cmds : (s.withSpills v).cmds = s.cmds := rfl
@[simp] theorem State.withSpills_nextCmd : (s.withSpills v).nextCmd = s.nextCmd := rfl
@[simp] theorem State.withSpills_passes : (s.withSpills v).passes = s.passes := rfl
@[simp] theorem State.withSpills_nextPass : (s.withSpills v).nextPass = s.nextPass := rfl
@[simp] theorem State.withSpills_models : (s.withSpills v).models = s.models := rfl
@[simp] theorem State.withSpills_deltas : (s.withSpills v).deltas = s.deltas := rfl
@[simp] theorem State.withSpills_loads : (s.withSpills v).loads = s.loads := rfl
@[simp] theorem State.withSpills_lastAdm : (s.withSpills v).lastAdm = s.lastAdm := rfl
@[simp] theorem State.withSpills_frames : (s.withSpills v).frames = s.frames := rfl
@[simp] theorem State.withSpills_chunks : (s.withSpills v).chunks = s.chunks := rfl
@[simp] theorem State.withSpills_freeLists : (s.withSpills v).freeLists = s.freeLists := rfl
@[simp] theorem State.withSpills_nodes : (s.withSpills v).nodes = s.nodes := rfl
@[simp] theorem State.withSpills_lru : (s.withSpills v).lru = s.lru := rfl
@[simp] theorem State.withSpills_heldFrames : (s.withSpills v).heldFrames = s.heldFrames := rfl
@[simp] theorem State.withSpills_scopesDead : (s.withSpills v).scopesDead = s.scopesDead := rfl
@[simp] theorem State.withSpills_spills : (s.withSpills v).spills = v := rfl
@[simp] theorem State.withSpills_links : (s.withSpills v).links = s.links := rfl
@[simp] theorem State.withSpills_members : (s.withSpills v).members = s.members := rfl
@[simp] theorem State.withSpills_spares : (s.withSpills v).spares = s.spares := rfl
@[simp] theorem State.withSpills_cachePeers : (s.withSpills v).cachePeers = s.cachePeers := rfl
@[simp] theorem State.withSpills_routes : (s.withSpills v).routes = s.routes := rfl
@[simp] theorem State.withSpills_fabReqs : (s.withSpills v).fabReqs = s.fabReqs := rfl
@[simp] theorem State.withSpills_nextTid : (s.withSpills v).nextTid = s.nextTid := rfl
@[simp] theorem State.withSpills_windows : (s.withSpills v).windows = s.windows := rfl
@[simp] theorem State.withSpills_peers : (s.withSpills v).peers = s.peers := rfl
@[simp] theorem State.withSpills_move : (s.withSpills v).move = s.move := rfl
@[simp] theorem State.withSpills_rings : (s.withSpills v).rings = s.rings := rfl
@[simp] theorem State.withSpills_slices : (s.withSpills v).slices = s.slices := rfl
@[simp] theorem State.withSpills_groups : (s.withSpills v).groups = s.groups := rfl
@[simp] theorem State.withSpills_thaws : (s.withSpills v).thaws = s.thaws := rfl
@[simp] theorem State.withSpills_copies : (s.withSpills v).copies = s.copies := rfl
@[simp] theorem State.withSpills_heldCmds : (s.withSpills v).heldCmds = s.heldCmds := rfl
@[simp] theorem State.withSpills_coord : (s.withSpills v).coord = s.coord := rfl
@[simp] theorem State.withSpills_ctlWindow : (s.withSpills v).ctlWindow = s.ctlWindow := rfl
@[simp] theorem State.withSpills_ctlNeg : (s.withSpills v).ctlNeg = s.ctlNeg := rfl
@[simp] theorem State.withSpills_ctlNegPend : (s.withSpills v).ctlNegPend = s.ctlNegPend := rfl
@[simp] theorem State.withSpills_ctlAgreed : (s.withSpills v).ctlAgreed = s.ctlAgreed := rfl
@[simp] theorem State.withSpills_halves : (s.withSpills v).halves = s.halves := rfl
@[simp] theorem State.withSpills_ctlHb : (s.withSpills v).ctlHb = s.ctlHb := rfl
@[simp] theorem State.withSpills_events : (s.withSpills v).events = s.events := rfl
@[simp] theorem State.withSpills_procs : (s.withSpills v).procs = s.procs := rfl
@[simp] theorem State.withSpills_bring : (s.withSpills v).bring = s.bring := rfl
@[simp] theorem State.withSpills_sec : (s.withSpills v).sec = s.sec := rfl
@[simp] theorem State.withSpills_mgt : (s.withSpills v).mgt = s.mgt := rfl
@[simp] theorem State.withSpills_free : (s.withSpills v).free = s.free := rfl
@[simp] theorem State.withSpills_out : (s.withSpills v).out = s.out := rfl
@[simp] theorem State.rd_withSpills (f : Field) (i : Nat) : (s.withSpills v).rd f i = s.rd f i := rfl
end
section
variable (v : KMap Link)
@[simp] theorem State.withLinks_pending : (s.withLinks v).pending = s.pending := rfl
@[simp] theorem State.withLinks_regs : (s.withLinks v).regs = s.regs := rfl
@[simp] theorem State.withLinks_staged : (s.withLinks v).staged = s.staged := rfl
@[simp] theorem State.withLinks_mem : (s.withLinks v).mem = s.mem := rfl
@[simp] theorem State.withLinks_poison : (s.withLinks v).poison = s.poison := rfl
@[simp] theorem State.withLinks_lineKey : (s.withLinks v).lineKey = s.lineKey := rfl
@[simp] theorem State.withLinks_badCopy : (s.withLinks v).badCopy = s.badCopy := rfl
@[simp] theorem State.withLinks_keys : (s.withLinks v).keys = s.keys := rfl
@[simp] theorem State.withLinks_hostMem : (s.withLinks v).hostMem = s.hostMem := rfl
@[simp] theorem State.withLinks_hostBad : (s.withLinks v).hostBad = s.hostBad := rfl
@[simp] theorem State.withLinks_time : (s.withLinks v).time = s.time := rfl
@[simp] theorem State.withLinks_parts : (s.withLinks v).parts = s.parts := rfl
@[simp] theorem State.withLinks_cores : (s.withLinks v).cores = s.cores := rfl
@[simp] theorem State.withLinks_phys : (s.withLinks v).phys = s.phys := rfl
@[simp] theorem State.withLinks_threads : (s.withLinks v).threads = s.threads := rfl
@[simp] theorem State.withLinks_jobs : (s.withLinks v).jobs = s.jobs := rfl
@[simp] theorem State.withLinks_spurs : (s.withLinks v).spurs = s.spurs := rfl
@[simp] theorem State.withLinks_dmas : (s.withLinks v).dmas = s.dmas := rfl
@[simp] theorem State.withLinks_nocReqs : (s.withLinks v).nocReqs = s.nocReqs := rfl
@[simp] theorem State.withLinks_devErrs : (s.withLinks v).devErrs = s.devErrs := rfl
@[simp] theorem State.withLinks_sramErrs : (s.withLinks v).sramErrs = s.sramErrs := rfl
@[simp] theorem State.withLinks_sramUe : (s.withLinks v).sramUe = s.sramUe := rfl
@[simp] theorem State.withLinks_planHdr : (s.withLinks v).planHdr = s.planHdr := rfl
@[simp] theorem State.withLinks_cells : (s.withLinks v).cells = s.cells := rfl
@[simp] theorem State.withLinks_subports : (s.withLinks v).subports = s.subports := rfl
@[simp] theorem State.withLinks_chains : (s.withLinks v).chains = s.chains := rfl
@[simp] theorem State.withLinks_fhBufs : (s.withLinks v).fhBufs = s.fhBufs := rfl
@[simp] theorem State.withLinks_seqs : (s.withLinks v).seqs = s.seqs := rfl
@[simp] theorem State.withLinks_cmds : (s.withLinks v).cmds = s.cmds := rfl
@[simp] theorem State.withLinks_nextCmd : (s.withLinks v).nextCmd = s.nextCmd := rfl
@[simp] theorem State.withLinks_passes : (s.withLinks v).passes = s.passes := rfl
@[simp] theorem State.withLinks_nextPass : (s.withLinks v).nextPass = s.nextPass := rfl
@[simp] theorem State.withLinks_models : (s.withLinks v).models = s.models := rfl
@[simp] theorem State.withLinks_deltas : (s.withLinks v).deltas = s.deltas := rfl
@[simp] theorem State.withLinks_loads : (s.withLinks v).loads = s.loads := rfl
@[simp] theorem State.withLinks_lastAdm : (s.withLinks v).lastAdm = s.lastAdm := rfl
@[simp] theorem State.withLinks_frames : (s.withLinks v).frames = s.frames := rfl
@[simp] theorem State.withLinks_chunks : (s.withLinks v).chunks = s.chunks := rfl
@[simp] theorem State.withLinks_freeLists : (s.withLinks v).freeLists = s.freeLists := rfl
@[simp] theorem State.withLinks_nodes : (s.withLinks v).nodes = s.nodes := rfl
@[simp] theorem State.withLinks_lru : (s.withLinks v).lru = s.lru := rfl
@[simp] theorem State.withLinks_heldFrames : (s.withLinks v).heldFrames = s.heldFrames := rfl
@[simp] theorem State.withLinks_scopesDead : (s.withLinks v).scopesDead = s.scopesDead := rfl
@[simp] theorem State.withLinks_spills : (s.withLinks v).spills = s.spills := rfl
@[simp] theorem State.withLinks_links : (s.withLinks v).links = v := rfl
@[simp] theorem State.withLinks_members : (s.withLinks v).members = s.members := rfl
@[simp] theorem State.withLinks_spares : (s.withLinks v).spares = s.spares := rfl
@[simp] theorem State.withLinks_cachePeers : (s.withLinks v).cachePeers = s.cachePeers := rfl
@[simp] theorem State.withLinks_routes : (s.withLinks v).routes = s.routes := rfl
@[simp] theorem State.withLinks_fabReqs : (s.withLinks v).fabReqs = s.fabReqs := rfl
@[simp] theorem State.withLinks_nextTid : (s.withLinks v).nextTid = s.nextTid := rfl
@[simp] theorem State.withLinks_windows : (s.withLinks v).windows = s.windows := rfl
@[simp] theorem State.withLinks_peers : (s.withLinks v).peers = s.peers := rfl
@[simp] theorem State.withLinks_move : (s.withLinks v).move = s.move := rfl
@[simp] theorem State.withLinks_rings : (s.withLinks v).rings = s.rings := rfl
@[simp] theorem State.withLinks_slices : (s.withLinks v).slices = s.slices := rfl
@[simp] theorem State.withLinks_groups : (s.withLinks v).groups = s.groups := rfl
@[simp] theorem State.withLinks_thaws : (s.withLinks v).thaws = s.thaws := rfl
@[simp] theorem State.withLinks_copies : (s.withLinks v).copies = s.copies := rfl
@[simp] theorem State.withLinks_heldCmds : (s.withLinks v).heldCmds = s.heldCmds := rfl
@[simp] theorem State.withLinks_coord : (s.withLinks v).coord = s.coord := rfl
@[simp] theorem State.withLinks_ctlWindow : (s.withLinks v).ctlWindow = s.ctlWindow := rfl
@[simp] theorem State.withLinks_ctlNeg : (s.withLinks v).ctlNeg = s.ctlNeg := rfl
@[simp] theorem State.withLinks_ctlNegPend : (s.withLinks v).ctlNegPend = s.ctlNegPend := rfl
@[simp] theorem State.withLinks_ctlAgreed : (s.withLinks v).ctlAgreed = s.ctlAgreed := rfl
@[simp] theorem State.withLinks_halves : (s.withLinks v).halves = s.halves := rfl
@[simp] theorem State.withLinks_ctlHb : (s.withLinks v).ctlHb = s.ctlHb := rfl
@[simp] theorem State.withLinks_events : (s.withLinks v).events = s.events := rfl
@[simp] theorem State.withLinks_procs : (s.withLinks v).procs = s.procs := rfl
@[simp] theorem State.withLinks_bring : (s.withLinks v).bring = s.bring := rfl
@[simp] theorem State.withLinks_sec : (s.withLinks v).sec = s.sec := rfl
@[simp] theorem State.withLinks_mgt : (s.withLinks v).mgt = s.mgt := rfl
@[simp] theorem State.withLinks_free : (s.withLinks v).free = s.free := rfl
@[simp] theorem State.withLinks_out : (s.withLinks v).out = s.out := rfl
@[simp] theorem State.rd_withLinks (f : Field) (i : Nat) : (s.withLinks v).rd f i = s.rd f i := rfl
end
section
variable (v : List Nat)
@[simp] theorem State.withMembers_pending : (s.withMembers v).pending = s.pending := rfl
@[simp] theorem State.withMembers_regs : (s.withMembers v).regs = s.regs := rfl
@[simp] theorem State.withMembers_staged : (s.withMembers v).staged = s.staged := rfl
@[simp] theorem State.withMembers_mem : (s.withMembers v).mem = s.mem := rfl
@[simp] theorem State.withMembers_poison : (s.withMembers v).poison = s.poison := rfl
@[simp] theorem State.withMembers_lineKey : (s.withMembers v).lineKey = s.lineKey := rfl
@[simp] theorem State.withMembers_badCopy : (s.withMembers v).badCopy = s.badCopy := rfl
@[simp] theorem State.withMembers_keys : (s.withMembers v).keys = s.keys := rfl
@[simp] theorem State.withMembers_hostMem : (s.withMembers v).hostMem = s.hostMem := rfl
@[simp] theorem State.withMembers_hostBad : (s.withMembers v).hostBad = s.hostBad := rfl
@[simp] theorem State.withMembers_time : (s.withMembers v).time = s.time := rfl
@[simp] theorem State.withMembers_parts : (s.withMembers v).parts = s.parts := rfl
@[simp] theorem State.withMembers_cores : (s.withMembers v).cores = s.cores := rfl
@[simp] theorem State.withMembers_phys : (s.withMembers v).phys = s.phys := rfl
@[simp] theorem State.withMembers_threads : (s.withMembers v).threads = s.threads := rfl
@[simp] theorem State.withMembers_jobs : (s.withMembers v).jobs = s.jobs := rfl
@[simp] theorem State.withMembers_spurs : (s.withMembers v).spurs = s.spurs := rfl
@[simp] theorem State.withMembers_dmas : (s.withMembers v).dmas = s.dmas := rfl
@[simp] theorem State.withMembers_nocReqs : (s.withMembers v).nocReqs = s.nocReqs := rfl
@[simp] theorem State.withMembers_devErrs : (s.withMembers v).devErrs = s.devErrs := rfl
@[simp] theorem State.withMembers_sramErrs : (s.withMembers v).sramErrs = s.sramErrs := rfl
@[simp] theorem State.withMembers_sramUe : (s.withMembers v).sramUe = s.sramUe := rfl
@[simp] theorem State.withMembers_planHdr : (s.withMembers v).planHdr = s.planHdr := rfl
@[simp] theorem State.withMembers_cells : (s.withMembers v).cells = s.cells := rfl
@[simp] theorem State.withMembers_subports : (s.withMembers v).subports = s.subports := rfl
@[simp] theorem State.withMembers_chains : (s.withMembers v).chains = s.chains := rfl
@[simp] theorem State.withMembers_fhBufs : (s.withMembers v).fhBufs = s.fhBufs := rfl
@[simp] theorem State.withMembers_seqs : (s.withMembers v).seqs = s.seqs := rfl
@[simp] theorem State.withMembers_cmds : (s.withMembers v).cmds = s.cmds := rfl
@[simp] theorem State.withMembers_nextCmd : (s.withMembers v).nextCmd = s.nextCmd := rfl
@[simp] theorem State.withMembers_passes : (s.withMembers v).passes = s.passes := rfl
@[simp] theorem State.withMembers_nextPass : (s.withMembers v).nextPass = s.nextPass := rfl
@[simp] theorem State.withMembers_models : (s.withMembers v).models = s.models := rfl
@[simp] theorem State.withMembers_deltas : (s.withMembers v).deltas = s.deltas := rfl
@[simp] theorem State.withMembers_loads : (s.withMembers v).loads = s.loads := rfl
@[simp] theorem State.withMembers_lastAdm : (s.withMembers v).lastAdm = s.lastAdm := rfl
@[simp] theorem State.withMembers_frames : (s.withMembers v).frames = s.frames := rfl
@[simp] theorem State.withMembers_chunks : (s.withMembers v).chunks = s.chunks := rfl
@[simp] theorem State.withMembers_freeLists : (s.withMembers v).freeLists = s.freeLists := rfl
@[simp] theorem State.withMembers_nodes : (s.withMembers v).nodes = s.nodes := rfl
@[simp] theorem State.withMembers_lru : (s.withMembers v).lru = s.lru := rfl
@[simp] theorem State.withMembers_heldFrames : (s.withMembers v).heldFrames = s.heldFrames := rfl
@[simp] theorem State.withMembers_scopesDead : (s.withMembers v).scopesDead = s.scopesDead := rfl
@[simp] theorem State.withMembers_spills : (s.withMembers v).spills = s.spills := rfl
@[simp] theorem State.withMembers_links : (s.withMembers v).links = s.links := rfl
@[simp] theorem State.withMembers_members : (s.withMembers v).members = v := rfl
@[simp] theorem State.withMembers_spares : (s.withMembers v).spares = s.spares := rfl
@[simp] theorem State.withMembers_cachePeers : (s.withMembers v).cachePeers = s.cachePeers := rfl
@[simp] theorem State.withMembers_routes : (s.withMembers v).routes = s.routes := rfl
@[simp] theorem State.withMembers_fabReqs : (s.withMembers v).fabReqs = s.fabReqs := rfl
@[simp] theorem State.withMembers_nextTid : (s.withMembers v).nextTid = s.nextTid := rfl
@[simp] theorem State.withMembers_windows : (s.withMembers v).windows = s.windows := rfl
@[simp] theorem State.withMembers_peers : (s.withMembers v).peers = s.peers := rfl
@[simp] theorem State.withMembers_move : (s.withMembers v).move = s.move := rfl
@[simp] theorem State.withMembers_rings : (s.withMembers v).rings = s.rings := rfl
@[simp] theorem State.withMembers_slices : (s.withMembers v).slices = s.slices := rfl
@[simp] theorem State.withMembers_groups : (s.withMembers v).groups = s.groups := rfl
@[simp] theorem State.withMembers_thaws : (s.withMembers v).thaws = s.thaws := rfl
@[simp] theorem State.withMembers_copies : (s.withMembers v).copies = s.copies := rfl
@[simp] theorem State.withMembers_heldCmds : (s.withMembers v).heldCmds = s.heldCmds := rfl
@[simp] theorem State.withMembers_coord : (s.withMembers v).coord = s.coord := rfl
@[simp] theorem State.withMembers_ctlWindow : (s.withMembers v).ctlWindow = s.ctlWindow := rfl
@[simp] theorem State.withMembers_ctlNeg : (s.withMembers v).ctlNeg = s.ctlNeg := rfl
@[simp] theorem State.withMembers_ctlNegPend : (s.withMembers v).ctlNegPend = s.ctlNegPend := rfl
@[simp] theorem State.withMembers_ctlAgreed : (s.withMembers v).ctlAgreed = s.ctlAgreed := rfl
@[simp] theorem State.withMembers_halves : (s.withMembers v).halves = s.halves := rfl
@[simp] theorem State.withMembers_ctlHb : (s.withMembers v).ctlHb = s.ctlHb := rfl
@[simp] theorem State.withMembers_events : (s.withMembers v).events = s.events := rfl
@[simp] theorem State.withMembers_procs : (s.withMembers v).procs = s.procs := rfl
@[simp] theorem State.withMembers_bring : (s.withMembers v).bring = s.bring := rfl
@[simp] theorem State.withMembers_sec : (s.withMembers v).sec = s.sec := rfl
@[simp] theorem State.withMembers_mgt : (s.withMembers v).mgt = s.mgt := rfl
@[simp] theorem State.withMembers_free : (s.withMembers v).free = s.free := rfl
@[simp] theorem State.withMembers_out : (s.withMembers v).out = s.out := rfl
@[simp] theorem State.rd_withMembers (f : Field) (i : Nat) : (s.withMembers v).rd f i = s.rd f i := rfl
end
section
variable (v : List Nat)
@[simp] theorem State.withSpares_pending : (s.withSpares v).pending = s.pending := rfl
@[simp] theorem State.withSpares_regs : (s.withSpares v).regs = s.regs := rfl
@[simp] theorem State.withSpares_staged : (s.withSpares v).staged = s.staged := rfl
@[simp] theorem State.withSpares_mem : (s.withSpares v).mem = s.mem := rfl
@[simp] theorem State.withSpares_poison : (s.withSpares v).poison = s.poison := rfl
@[simp] theorem State.withSpares_lineKey : (s.withSpares v).lineKey = s.lineKey := rfl
@[simp] theorem State.withSpares_badCopy : (s.withSpares v).badCopy = s.badCopy := rfl
@[simp] theorem State.withSpares_keys : (s.withSpares v).keys = s.keys := rfl
@[simp] theorem State.withSpares_hostMem : (s.withSpares v).hostMem = s.hostMem := rfl
@[simp] theorem State.withSpares_hostBad : (s.withSpares v).hostBad = s.hostBad := rfl
@[simp] theorem State.withSpares_time : (s.withSpares v).time = s.time := rfl
@[simp] theorem State.withSpares_parts : (s.withSpares v).parts = s.parts := rfl
@[simp] theorem State.withSpares_cores : (s.withSpares v).cores = s.cores := rfl
@[simp] theorem State.withSpares_phys : (s.withSpares v).phys = s.phys := rfl
@[simp] theorem State.withSpares_threads : (s.withSpares v).threads = s.threads := rfl
@[simp] theorem State.withSpares_jobs : (s.withSpares v).jobs = s.jobs := rfl
@[simp] theorem State.withSpares_spurs : (s.withSpares v).spurs = s.spurs := rfl
@[simp] theorem State.withSpares_dmas : (s.withSpares v).dmas = s.dmas := rfl
@[simp] theorem State.withSpares_nocReqs : (s.withSpares v).nocReqs = s.nocReqs := rfl
@[simp] theorem State.withSpares_devErrs : (s.withSpares v).devErrs = s.devErrs := rfl
@[simp] theorem State.withSpares_sramErrs : (s.withSpares v).sramErrs = s.sramErrs := rfl
@[simp] theorem State.withSpares_sramUe : (s.withSpares v).sramUe = s.sramUe := rfl
@[simp] theorem State.withSpares_planHdr : (s.withSpares v).planHdr = s.planHdr := rfl
@[simp] theorem State.withSpares_cells : (s.withSpares v).cells = s.cells := rfl
@[simp] theorem State.withSpares_subports : (s.withSpares v).subports = s.subports := rfl
@[simp] theorem State.withSpares_chains : (s.withSpares v).chains = s.chains := rfl
@[simp] theorem State.withSpares_fhBufs : (s.withSpares v).fhBufs = s.fhBufs := rfl
@[simp] theorem State.withSpares_seqs : (s.withSpares v).seqs = s.seqs := rfl
@[simp] theorem State.withSpares_cmds : (s.withSpares v).cmds = s.cmds := rfl
@[simp] theorem State.withSpares_nextCmd : (s.withSpares v).nextCmd = s.nextCmd := rfl
@[simp] theorem State.withSpares_passes : (s.withSpares v).passes = s.passes := rfl
@[simp] theorem State.withSpares_nextPass : (s.withSpares v).nextPass = s.nextPass := rfl
@[simp] theorem State.withSpares_models : (s.withSpares v).models = s.models := rfl
@[simp] theorem State.withSpares_deltas : (s.withSpares v).deltas = s.deltas := rfl
@[simp] theorem State.withSpares_loads : (s.withSpares v).loads = s.loads := rfl
@[simp] theorem State.withSpares_lastAdm : (s.withSpares v).lastAdm = s.lastAdm := rfl
@[simp] theorem State.withSpares_frames : (s.withSpares v).frames = s.frames := rfl
@[simp] theorem State.withSpares_chunks : (s.withSpares v).chunks = s.chunks := rfl
@[simp] theorem State.withSpares_freeLists : (s.withSpares v).freeLists = s.freeLists := rfl
@[simp] theorem State.withSpares_nodes : (s.withSpares v).nodes = s.nodes := rfl
@[simp] theorem State.withSpares_lru : (s.withSpares v).lru = s.lru := rfl
@[simp] theorem State.withSpares_heldFrames : (s.withSpares v).heldFrames = s.heldFrames := rfl
@[simp] theorem State.withSpares_scopesDead : (s.withSpares v).scopesDead = s.scopesDead := rfl
@[simp] theorem State.withSpares_spills : (s.withSpares v).spills = s.spills := rfl
@[simp] theorem State.withSpares_links : (s.withSpares v).links = s.links := rfl
@[simp] theorem State.withSpares_members : (s.withSpares v).members = s.members := rfl
@[simp] theorem State.withSpares_spares : (s.withSpares v).spares = v := rfl
@[simp] theorem State.withSpares_cachePeers : (s.withSpares v).cachePeers = s.cachePeers := rfl
@[simp] theorem State.withSpares_routes : (s.withSpares v).routes = s.routes := rfl
@[simp] theorem State.withSpares_fabReqs : (s.withSpares v).fabReqs = s.fabReqs := rfl
@[simp] theorem State.withSpares_nextTid : (s.withSpares v).nextTid = s.nextTid := rfl
@[simp] theorem State.withSpares_windows : (s.withSpares v).windows = s.windows := rfl
@[simp] theorem State.withSpares_peers : (s.withSpares v).peers = s.peers := rfl
@[simp] theorem State.withSpares_move : (s.withSpares v).move = s.move := rfl
@[simp] theorem State.withSpares_rings : (s.withSpares v).rings = s.rings := rfl
@[simp] theorem State.withSpares_slices : (s.withSpares v).slices = s.slices := rfl
@[simp] theorem State.withSpares_groups : (s.withSpares v).groups = s.groups := rfl
@[simp] theorem State.withSpares_thaws : (s.withSpares v).thaws = s.thaws := rfl
@[simp] theorem State.withSpares_copies : (s.withSpares v).copies = s.copies := rfl
@[simp] theorem State.withSpares_heldCmds : (s.withSpares v).heldCmds = s.heldCmds := rfl
@[simp] theorem State.withSpares_coord : (s.withSpares v).coord = s.coord := rfl
@[simp] theorem State.withSpares_ctlWindow : (s.withSpares v).ctlWindow = s.ctlWindow := rfl
@[simp] theorem State.withSpares_ctlNeg : (s.withSpares v).ctlNeg = s.ctlNeg := rfl
@[simp] theorem State.withSpares_ctlNegPend : (s.withSpares v).ctlNegPend = s.ctlNegPend := rfl
@[simp] theorem State.withSpares_ctlAgreed : (s.withSpares v).ctlAgreed = s.ctlAgreed := rfl
@[simp] theorem State.withSpares_halves : (s.withSpares v).halves = s.halves := rfl
@[simp] theorem State.withSpares_ctlHb : (s.withSpares v).ctlHb = s.ctlHb := rfl
@[simp] theorem State.withSpares_events : (s.withSpares v).events = s.events := rfl
@[simp] theorem State.withSpares_procs : (s.withSpares v).procs = s.procs := rfl
@[simp] theorem State.withSpares_bring : (s.withSpares v).bring = s.bring := rfl
@[simp] theorem State.withSpares_sec : (s.withSpares v).sec = s.sec := rfl
@[simp] theorem State.withSpares_mgt : (s.withSpares v).mgt = s.mgt := rfl
@[simp] theorem State.withSpares_free : (s.withSpares v).free = s.free := rfl
@[simp] theorem State.withSpares_out : (s.withSpares v).out = s.out := rfl
@[simp] theorem State.rd_withSpares (f : Field) (i : Nat) : (s.withSpares v).rd f i = s.rd f i := rfl
end
section
variable (v : List Nat)
@[simp] theorem State.withCachePeers_pending : (s.withCachePeers v).pending = s.pending := rfl
@[simp] theorem State.withCachePeers_regs : (s.withCachePeers v).regs = s.regs := rfl
@[simp] theorem State.withCachePeers_staged : (s.withCachePeers v).staged = s.staged := rfl
@[simp] theorem State.withCachePeers_mem : (s.withCachePeers v).mem = s.mem := rfl
@[simp] theorem State.withCachePeers_poison : (s.withCachePeers v).poison = s.poison := rfl
@[simp] theorem State.withCachePeers_lineKey : (s.withCachePeers v).lineKey = s.lineKey := rfl
@[simp] theorem State.withCachePeers_badCopy : (s.withCachePeers v).badCopy = s.badCopy := rfl
@[simp] theorem State.withCachePeers_keys : (s.withCachePeers v).keys = s.keys := rfl
@[simp] theorem State.withCachePeers_hostMem : (s.withCachePeers v).hostMem = s.hostMem := rfl
@[simp] theorem State.withCachePeers_hostBad : (s.withCachePeers v).hostBad = s.hostBad := rfl
@[simp] theorem State.withCachePeers_time : (s.withCachePeers v).time = s.time := rfl
@[simp] theorem State.withCachePeers_parts : (s.withCachePeers v).parts = s.parts := rfl
@[simp] theorem State.withCachePeers_cores : (s.withCachePeers v).cores = s.cores := rfl
@[simp] theorem State.withCachePeers_phys : (s.withCachePeers v).phys = s.phys := rfl
@[simp] theorem State.withCachePeers_threads : (s.withCachePeers v).threads = s.threads := rfl
@[simp] theorem State.withCachePeers_jobs : (s.withCachePeers v).jobs = s.jobs := rfl
@[simp] theorem State.withCachePeers_spurs : (s.withCachePeers v).spurs = s.spurs := rfl
@[simp] theorem State.withCachePeers_dmas : (s.withCachePeers v).dmas = s.dmas := rfl
@[simp] theorem State.withCachePeers_nocReqs : (s.withCachePeers v).nocReqs = s.nocReqs := rfl
@[simp] theorem State.withCachePeers_devErrs : (s.withCachePeers v).devErrs = s.devErrs := rfl
@[simp] theorem State.withCachePeers_sramErrs : (s.withCachePeers v).sramErrs = s.sramErrs := rfl
@[simp] theorem State.withCachePeers_sramUe : (s.withCachePeers v).sramUe = s.sramUe := rfl
@[simp] theorem State.withCachePeers_planHdr : (s.withCachePeers v).planHdr = s.planHdr := rfl
@[simp] theorem State.withCachePeers_cells : (s.withCachePeers v).cells = s.cells := rfl
@[simp] theorem State.withCachePeers_subports : (s.withCachePeers v).subports = s.subports := rfl
@[simp] theorem State.withCachePeers_chains : (s.withCachePeers v).chains = s.chains := rfl
@[simp] theorem State.withCachePeers_fhBufs : (s.withCachePeers v).fhBufs = s.fhBufs := rfl
@[simp] theorem State.withCachePeers_seqs : (s.withCachePeers v).seqs = s.seqs := rfl
@[simp] theorem State.withCachePeers_cmds : (s.withCachePeers v).cmds = s.cmds := rfl
@[simp] theorem State.withCachePeers_nextCmd : (s.withCachePeers v).nextCmd = s.nextCmd := rfl
@[simp] theorem State.withCachePeers_passes : (s.withCachePeers v).passes = s.passes := rfl
@[simp] theorem State.withCachePeers_nextPass : (s.withCachePeers v).nextPass = s.nextPass := rfl
@[simp] theorem State.withCachePeers_models : (s.withCachePeers v).models = s.models := rfl
@[simp] theorem State.withCachePeers_deltas : (s.withCachePeers v).deltas = s.deltas := rfl
@[simp] theorem State.withCachePeers_loads : (s.withCachePeers v).loads = s.loads := rfl
@[simp] theorem State.withCachePeers_lastAdm : (s.withCachePeers v).lastAdm = s.lastAdm := rfl
@[simp] theorem State.withCachePeers_frames : (s.withCachePeers v).frames = s.frames := rfl
@[simp] theorem State.withCachePeers_chunks : (s.withCachePeers v).chunks = s.chunks := rfl
@[simp] theorem State.withCachePeers_freeLists : (s.withCachePeers v).freeLists = s.freeLists := rfl
@[simp] theorem State.withCachePeers_nodes : (s.withCachePeers v).nodes = s.nodes := rfl
@[simp] theorem State.withCachePeers_lru : (s.withCachePeers v).lru = s.lru := rfl
@[simp] theorem State.withCachePeers_heldFrames : (s.withCachePeers v).heldFrames = s.heldFrames := rfl
@[simp] theorem State.withCachePeers_scopesDead : (s.withCachePeers v).scopesDead = s.scopesDead := rfl
@[simp] theorem State.withCachePeers_spills : (s.withCachePeers v).spills = s.spills := rfl
@[simp] theorem State.withCachePeers_links : (s.withCachePeers v).links = s.links := rfl
@[simp] theorem State.withCachePeers_members : (s.withCachePeers v).members = s.members := rfl
@[simp] theorem State.withCachePeers_spares : (s.withCachePeers v).spares = s.spares := rfl
@[simp] theorem State.withCachePeers_cachePeers : (s.withCachePeers v).cachePeers = v := rfl
@[simp] theorem State.withCachePeers_routes : (s.withCachePeers v).routes = s.routes := rfl
@[simp] theorem State.withCachePeers_fabReqs : (s.withCachePeers v).fabReqs = s.fabReqs := rfl
@[simp] theorem State.withCachePeers_nextTid : (s.withCachePeers v).nextTid = s.nextTid := rfl
@[simp] theorem State.withCachePeers_windows : (s.withCachePeers v).windows = s.windows := rfl
@[simp] theorem State.withCachePeers_peers : (s.withCachePeers v).peers = s.peers := rfl
@[simp] theorem State.withCachePeers_move : (s.withCachePeers v).move = s.move := rfl
@[simp] theorem State.withCachePeers_rings : (s.withCachePeers v).rings = s.rings := rfl
@[simp] theorem State.withCachePeers_slices : (s.withCachePeers v).slices = s.slices := rfl
@[simp] theorem State.withCachePeers_groups : (s.withCachePeers v).groups = s.groups := rfl
@[simp] theorem State.withCachePeers_thaws : (s.withCachePeers v).thaws = s.thaws := rfl
@[simp] theorem State.withCachePeers_copies : (s.withCachePeers v).copies = s.copies := rfl
@[simp] theorem State.withCachePeers_heldCmds : (s.withCachePeers v).heldCmds = s.heldCmds := rfl
@[simp] theorem State.withCachePeers_coord : (s.withCachePeers v).coord = s.coord := rfl
@[simp] theorem State.withCachePeers_ctlWindow : (s.withCachePeers v).ctlWindow = s.ctlWindow := rfl
@[simp] theorem State.withCachePeers_ctlNeg : (s.withCachePeers v).ctlNeg = s.ctlNeg := rfl
@[simp] theorem State.withCachePeers_ctlNegPend : (s.withCachePeers v).ctlNegPend = s.ctlNegPend := rfl
@[simp] theorem State.withCachePeers_ctlAgreed : (s.withCachePeers v).ctlAgreed = s.ctlAgreed := rfl
@[simp] theorem State.withCachePeers_halves : (s.withCachePeers v).halves = s.halves := rfl
@[simp] theorem State.withCachePeers_ctlHb : (s.withCachePeers v).ctlHb = s.ctlHb := rfl
@[simp] theorem State.withCachePeers_events : (s.withCachePeers v).events = s.events := rfl
@[simp] theorem State.withCachePeers_procs : (s.withCachePeers v).procs = s.procs := rfl
@[simp] theorem State.withCachePeers_bring : (s.withCachePeers v).bring = s.bring := rfl
@[simp] theorem State.withCachePeers_sec : (s.withCachePeers v).sec = s.sec := rfl
@[simp] theorem State.withCachePeers_mgt : (s.withCachePeers v).mgt = s.mgt := rfl
@[simp] theorem State.withCachePeers_free : (s.withCachePeers v).free = s.free := rfl
@[simp] theorem State.withCachePeers_out : (s.withCachePeers v).out = s.out := rfl
@[simp] theorem State.rd_withCachePeers (f : Field) (i : Nat) : (s.withCachePeers v).rd f i = s.rd f i := rfl
end
section
variable (v : KMap Route)
@[simp] theorem State.withRoutes_pending : (s.withRoutes v).pending = s.pending := rfl
@[simp] theorem State.withRoutes_regs : (s.withRoutes v).regs = s.regs := rfl
@[simp] theorem State.withRoutes_staged : (s.withRoutes v).staged = s.staged := rfl
@[simp] theorem State.withRoutes_mem : (s.withRoutes v).mem = s.mem := rfl
@[simp] theorem State.withRoutes_poison : (s.withRoutes v).poison = s.poison := rfl
@[simp] theorem State.withRoutes_lineKey : (s.withRoutes v).lineKey = s.lineKey := rfl
@[simp] theorem State.withRoutes_badCopy : (s.withRoutes v).badCopy = s.badCopy := rfl
@[simp] theorem State.withRoutes_keys : (s.withRoutes v).keys = s.keys := rfl
@[simp] theorem State.withRoutes_hostMem : (s.withRoutes v).hostMem = s.hostMem := rfl
@[simp] theorem State.withRoutes_hostBad : (s.withRoutes v).hostBad = s.hostBad := rfl
@[simp] theorem State.withRoutes_time : (s.withRoutes v).time = s.time := rfl
@[simp] theorem State.withRoutes_parts : (s.withRoutes v).parts = s.parts := rfl
@[simp] theorem State.withRoutes_cores : (s.withRoutes v).cores = s.cores := rfl
@[simp] theorem State.withRoutes_phys : (s.withRoutes v).phys = s.phys := rfl
@[simp] theorem State.withRoutes_threads : (s.withRoutes v).threads = s.threads := rfl
@[simp] theorem State.withRoutes_jobs : (s.withRoutes v).jobs = s.jobs := rfl
@[simp] theorem State.withRoutes_spurs : (s.withRoutes v).spurs = s.spurs := rfl
@[simp] theorem State.withRoutes_dmas : (s.withRoutes v).dmas = s.dmas := rfl
@[simp] theorem State.withRoutes_nocReqs : (s.withRoutes v).nocReqs = s.nocReqs := rfl
@[simp] theorem State.withRoutes_devErrs : (s.withRoutes v).devErrs = s.devErrs := rfl
@[simp] theorem State.withRoutes_sramErrs : (s.withRoutes v).sramErrs = s.sramErrs := rfl
@[simp] theorem State.withRoutes_sramUe : (s.withRoutes v).sramUe = s.sramUe := rfl
@[simp] theorem State.withRoutes_planHdr : (s.withRoutes v).planHdr = s.planHdr := rfl
@[simp] theorem State.withRoutes_cells : (s.withRoutes v).cells = s.cells := rfl
@[simp] theorem State.withRoutes_subports : (s.withRoutes v).subports = s.subports := rfl
@[simp] theorem State.withRoutes_chains : (s.withRoutes v).chains = s.chains := rfl
@[simp] theorem State.withRoutes_fhBufs : (s.withRoutes v).fhBufs = s.fhBufs := rfl
@[simp] theorem State.withRoutes_seqs : (s.withRoutes v).seqs = s.seqs := rfl
@[simp] theorem State.withRoutes_cmds : (s.withRoutes v).cmds = s.cmds := rfl
@[simp] theorem State.withRoutes_nextCmd : (s.withRoutes v).nextCmd = s.nextCmd := rfl
@[simp] theorem State.withRoutes_passes : (s.withRoutes v).passes = s.passes := rfl
@[simp] theorem State.withRoutes_nextPass : (s.withRoutes v).nextPass = s.nextPass := rfl
@[simp] theorem State.withRoutes_models : (s.withRoutes v).models = s.models := rfl
@[simp] theorem State.withRoutes_deltas : (s.withRoutes v).deltas = s.deltas := rfl
@[simp] theorem State.withRoutes_loads : (s.withRoutes v).loads = s.loads := rfl
@[simp] theorem State.withRoutes_lastAdm : (s.withRoutes v).lastAdm = s.lastAdm := rfl
@[simp] theorem State.withRoutes_frames : (s.withRoutes v).frames = s.frames := rfl
@[simp] theorem State.withRoutes_chunks : (s.withRoutes v).chunks = s.chunks := rfl
@[simp] theorem State.withRoutes_freeLists : (s.withRoutes v).freeLists = s.freeLists := rfl
@[simp] theorem State.withRoutes_nodes : (s.withRoutes v).nodes = s.nodes := rfl
@[simp] theorem State.withRoutes_lru : (s.withRoutes v).lru = s.lru := rfl
@[simp] theorem State.withRoutes_heldFrames : (s.withRoutes v).heldFrames = s.heldFrames := rfl
@[simp] theorem State.withRoutes_scopesDead : (s.withRoutes v).scopesDead = s.scopesDead := rfl
@[simp] theorem State.withRoutes_spills : (s.withRoutes v).spills = s.spills := rfl
@[simp] theorem State.withRoutes_links : (s.withRoutes v).links = s.links := rfl
@[simp] theorem State.withRoutes_members : (s.withRoutes v).members = s.members := rfl
@[simp] theorem State.withRoutes_spares : (s.withRoutes v).spares = s.spares := rfl
@[simp] theorem State.withRoutes_cachePeers : (s.withRoutes v).cachePeers = s.cachePeers := rfl
@[simp] theorem State.withRoutes_routes : (s.withRoutes v).routes = v := rfl
@[simp] theorem State.withRoutes_fabReqs : (s.withRoutes v).fabReqs = s.fabReqs := rfl
@[simp] theorem State.withRoutes_nextTid : (s.withRoutes v).nextTid = s.nextTid := rfl
@[simp] theorem State.withRoutes_windows : (s.withRoutes v).windows = s.windows := rfl
@[simp] theorem State.withRoutes_peers : (s.withRoutes v).peers = s.peers := rfl
@[simp] theorem State.withRoutes_move : (s.withRoutes v).move = s.move := rfl
@[simp] theorem State.withRoutes_rings : (s.withRoutes v).rings = s.rings := rfl
@[simp] theorem State.withRoutes_slices : (s.withRoutes v).slices = s.slices := rfl
@[simp] theorem State.withRoutes_groups : (s.withRoutes v).groups = s.groups := rfl
@[simp] theorem State.withRoutes_thaws : (s.withRoutes v).thaws = s.thaws := rfl
@[simp] theorem State.withRoutes_copies : (s.withRoutes v).copies = s.copies := rfl
@[simp] theorem State.withRoutes_heldCmds : (s.withRoutes v).heldCmds = s.heldCmds := rfl
@[simp] theorem State.withRoutes_coord : (s.withRoutes v).coord = s.coord := rfl
@[simp] theorem State.withRoutes_ctlWindow : (s.withRoutes v).ctlWindow = s.ctlWindow := rfl
@[simp] theorem State.withRoutes_ctlNeg : (s.withRoutes v).ctlNeg = s.ctlNeg := rfl
@[simp] theorem State.withRoutes_ctlNegPend : (s.withRoutes v).ctlNegPend = s.ctlNegPend := rfl
@[simp] theorem State.withRoutes_ctlAgreed : (s.withRoutes v).ctlAgreed = s.ctlAgreed := rfl
@[simp] theorem State.withRoutes_halves : (s.withRoutes v).halves = s.halves := rfl
@[simp] theorem State.withRoutes_ctlHb : (s.withRoutes v).ctlHb = s.ctlHb := rfl
@[simp] theorem State.withRoutes_events : (s.withRoutes v).events = s.events := rfl
@[simp] theorem State.withRoutes_procs : (s.withRoutes v).procs = s.procs := rfl
@[simp] theorem State.withRoutes_bring : (s.withRoutes v).bring = s.bring := rfl
@[simp] theorem State.withRoutes_sec : (s.withRoutes v).sec = s.sec := rfl
@[simp] theorem State.withRoutes_mgt : (s.withRoutes v).mgt = s.mgt := rfl
@[simp] theorem State.withRoutes_free : (s.withRoutes v).free = s.free := rfl
@[simp] theorem State.withRoutes_out : (s.withRoutes v).out = s.out := rfl
@[simp] theorem State.rd_withRoutes (f : Field) (i : Nat) : (s.withRoutes v).rd f i = s.rd f i := rfl
end
section
variable (v : List FabReq)
@[simp] theorem State.withFabReqs_pending : (s.withFabReqs v).pending = s.pending := rfl
@[simp] theorem State.withFabReqs_regs : (s.withFabReqs v).regs = s.regs := rfl
@[simp] theorem State.withFabReqs_staged : (s.withFabReqs v).staged = s.staged := rfl
@[simp] theorem State.withFabReqs_mem : (s.withFabReqs v).mem = s.mem := rfl
@[simp] theorem State.withFabReqs_poison : (s.withFabReqs v).poison = s.poison := rfl
@[simp] theorem State.withFabReqs_lineKey : (s.withFabReqs v).lineKey = s.lineKey := rfl
@[simp] theorem State.withFabReqs_badCopy : (s.withFabReqs v).badCopy = s.badCopy := rfl
@[simp] theorem State.withFabReqs_keys : (s.withFabReqs v).keys = s.keys := rfl
@[simp] theorem State.withFabReqs_hostMem : (s.withFabReqs v).hostMem = s.hostMem := rfl
@[simp] theorem State.withFabReqs_hostBad : (s.withFabReqs v).hostBad = s.hostBad := rfl
@[simp] theorem State.withFabReqs_time : (s.withFabReqs v).time = s.time := rfl
@[simp] theorem State.withFabReqs_parts : (s.withFabReqs v).parts = s.parts := rfl
@[simp] theorem State.withFabReqs_cores : (s.withFabReqs v).cores = s.cores := rfl
@[simp] theorem State.withFabReqs_phys : (s.withFabReqs v).phys = s.phys := rfl
@[simp] theorem State.withFabReqs_threads : (s.withFabReqs v).threads = s.threads := rfl
@[simp] theorem State.withFabReqs_jobs : (s.withFabReqs v).jobs = s.jobs := rfl
@[simp] theorem State.withFabReqs_spurs : (s.withFabReqs v).spurs = s.spurs := rfl
@[simp] theorem State.withFabReqs_dmas : (s.withFabReqs v).dmas = s.dmas := rfl
@[simp] theorem State.withFabReqs_nocReqs : (s.withFabReqs v).nocReqs = s.nocReqs := rfl
@[simp] theorem State.withFabReqs_devErrs : (s.withFabReqs v).devErrs = s.devErrs := rfl
@[simp] theorem State.withFabReqs_sramErrs : (s.withFabReqs v).sramErrs = s.sramErrs := rfl
@[simp] theorem State.withFabReqs_sramUe : (s.withFabReqs v).sramUe = s.sramUe := rfl
@[simp] theorem State.withFabReqs_planHdr : (s.withFabReqs v).planHdr = s.planHdr := rfl
@[simp] theorem State.withFabReqs_cells : (s.withFabReqs v).cells = s.cells := rfl
@[simp] theorem State.withFabReqs_subports : (s.withFabReqs v).subports = s.subports := rfl
@[simp] theorem State.withFabReqs_chains : (s.withFabReqs v).chains = s.chains := rfl
@[simp] theorem State.withFabReqs_fhBufs : (s.withFabReqs v).fhBufs = s.fhBufs := rfl
@[simp] theorem State.withFabReqs_seqs : (s.withFabReqs v).seqs = s.seqs := rfl
@[simp] theorem State.withFabReqs_cmds : (s.withFabReqs v).cmds = s.cmds := rfl
@[simp] theorem State.withFabReqs_nextCmd : (s.withFabReqs v).nextCmd = s.nextCmd := rfl
@[simp] theorem State.withFabReqs_passes : (s.withFabReqs v).passes = s.passes := rfl
@[simp] theorem State.withFabReqs_nextPass : (s.withFabReqs v).nextPass = s.nextPass := rfl
@[simp] theorem State.withFabReqs_models : (s.withFabReqs v).models = s.models := rfl
@[simp] theorem State.withFabReqs_deltas : (s.withFabReqs v).deltas = s.deltas := rfl
@[simp] theorem State.withFabReqs_loads : (s.withFabReqs v).loads = s.loads := rfl
@[simp] theorem State.withFabReqs_lastAdm : (s.withFabReqs v).lastAdm = s.lastAdm := rfl
@[simp] theorem State.withFabReqs_frames : (s.withFabReqs v).frames = s.frames := rfl
@[simp] theorem State.withFabReqs_chunks : (s.withFabReqs v).chunks = s.chunks := rfl
@[simp] theorem State.withFabReqs_freeLists : (s.withFabReqs v).freeLists = s.freeLists := rfl
@[simp] theorem State.withFabReqs_nodes : (s.withFabReqs v).nodes = s.nodes := rfl
@[simp] theorem State.withFabReqs_lru : (s.withFabReqs v).lru = s.lru := rfl
@[simp] theorem State.withFabReqs_heldFrames : (s.withFabReqs v).heldFrames = s.heldFrames := rfl
@[simp] theorem State.withFabReqs_scopesDead : (s.withFabReqs v).scopesDead = s.scopesDead := rfl
@[simp] theorem State.withFabReqs_spills : (s.withFabReqs v).spills = s.spills := rfl
@[simp] theorem State.withFabReqs_links : (s.withFabReqs v).links = s.links := rfl
@[simp] theorem State.withFabReqs_members : (s.withFabReqs v).members = s.members := rfl
@[simp] theorem State.withFabReqs_spares : (s.withFabReqs v).spares = s.spares := rfl
@[simp] theorem State.withFabReqs_cachePeers : (s.withFabReqs v).cachePeers = s.cachePeers := rfl
@[simp] theorem State.withFabReqs_routes : (s.withFabReqs v).routes = s.routes := rfl
@[simp] theorem State.withFabReqs_fabReqs : (s.withFabReqs v).fabReqs = v := rfl
@[simp] theorem State.withFabReqs_nextTid : (s.withFabReqs v).nextTid = s.nextTid := rfl
@[simp] theorem State.withFabReqs_windows : (s.withFabReqs v).windows = s.windows := rfl
@[simp] theorem State.withFabReqs_peers : (s.withFabReqs v).peers = s.peers := rfl
@[simp] theorem State.withFabReqs_move : (s.withFabReqs v).move = s.move := rfl
@[simp] theorem State.withFabReqs_rings : (s.withFabReqs v).rings = s.rings := rfl
@[simp] theorem State.withFabReqs_slices : (s.withFabReqs v).slices = s.slices := rfl
@[simp] theorem State.withFabReqs_groups : (s.withFabReqs v).groups = s.groups := rfl
@[simp] theorem State.withFabReqs_thaws : (s.withFabReqs v).thaws = s.thaws := rfl
@[simp] theorem State.withFabReqs_copies : (s.withFabReqs v).copies = s.copies := rfl
@[simp] theorem State.withFabReqs_heldCmds : (s.withFabReqs v).heldCmds = s.heldCmds := rfl
@[simp] theorem State.withFabReqs_coord : (s.withFabReqs v).coord = s.coord := rfl
@[simp] theorem State.withFabReqs_ctlWindow : (s.withFabReqs v).ctlWindow = s.ctlWindow := rfl
@[simp] theorem State.withFabReqs_ctlNeg : (s.withFabReqs v).ctlNeg = s.ctlNeg := rfl
@[simp] theorem State.withFabReqs_ctlNegPend : (s.withFabReqs v).ctlNegPend = s.ctlNegPend := rfl
@[simp] theorem State.withFabReqs_ctlAgreed : (s.withFabReqs v).ctlAgreed = s.ctlAgreed := rfl
@[simp] theorem State.withFabReqs_halves : (s.withFabReqs v).halves = s.halves := rfl
@[simp] theorem State.withFabReqs_ctlHb : (s.withFabReqs v).ctlHb = s.ctlHb := rfl
@[simp] theorem State.withFabReqs_events : (s.withFabReqs v).events = s.events := rfl
@[simp] theorem State.withFabReqs_procs : (s.withFabReqs v).procs = s.procs := rfl
@[simp] theorem State.withFabReqs_bring : (s.withFabReqs v).bring = s.bring := rfl
@[simp] theorem State.withFabReqs_sec : (s.withFabReqs v).sec = s.sec := rfl
@[simp] theorem State.withFabReqs_mgt : (s.withFabReqs v).mgt = s.mgt := rfl
@[simp] theorem State.withFabReqs_free : (s.withFabReqs v).free = s.free := rfl
@[simp] theorem State.withFabReqs_out : (s.withFabReqs v).out = s.out := rfl
@[simp] theorem State.rd_withFabReqs (f : Field) (i : Nat) : (s.withFabReqs v).rd f i = s.rd f i := rfl
end
section
variable (v : KMap Nat)
@[simp] theorem State.withNextTid_pending : (s.withNextTid v).pending = s.pending := rfl
@[simp] theorem State.withNextTid_regs : (s.withNextTid v).regs = s.regs := rfl
@[simp] theorem State.withNextTid_staged : (s.withNextTid v).staged = s.staged := rfl
@[simp] theorem State.withNextTid_mem : (s.withNextTid v).mem = s.mem := rfl
@[simp] theorem State.withNextTid_poison : (s.withNextTid v).poison = s.poison := rfl
@[simp] theorem State.withNextTid_lineKey : (s.withNextTid v).lineKey = s.lineKey := rfl
@[simp] theorem State.withNextTid_badCopy : (s.withNextTid v).badCopy = s.badCopy := rfl
@[simp] theorem State.withNextTid_keys : (s.withNextTid v).keys = s.keys := rfl
@[simp] theorem State.withNextTid_hostMem : (s.withNextTid v).hostMem = s.hostMem := rfl
@[simp] theorem State.withNextTid_hostBad : (s.withNextTid v).hostBad = s.hostBad := rfl
@[simp] theorem State.withNextTid_time : (s.withNextTid v).time = s.time := rfl
@[simp] theorem State.withNextTid_parts : (s.withNextTid v).parts = s.parts := rfl
@[simp] theorem State.withNextTid_cores : (s.withNextTid v).cores = s.cores := rfl
@[simp] theorem State.withNextTid_phys : (s.withNextTid v).phys = s.phys := rfl
@[simp] theorem State.withNextTid_threads : (s.withNextTid v).threads = s.threads := rfl
@[simp] theorem State.withNextTid_jobs : (s.withNextTid v).jobs = s.jobs := rfl
@[simp] theorem State.withNextTid_spurs : (s.withNextTid v).spurs = s.spurs := rfl
@[simp] theorem State.withNextTid_dmas : (s.withNextTid v).dmas = s.dmas := rfl
@[simp] theorem State.withNextTid_nocReqs : (s.withNextTid v).nocReqs = s.nocReqs := rfl
@[simp] theorem State.withNextTid_devErrs : (s.withNextTid v).devErrs = s.devErrs := rfl
@[simp] theorem State.withNextTid_sramErrs : (s.withNextTid v).sramErrs = s.sramErrs := rfl
@[simp] theorem State.withNextTid_sramUe : (s.withNextTid v).sramUe = s.sramUe := rfl
@[simp] theorem State.withNextTid_planHdr : (s.withNextTid v).planHdr = s.planHdr := rfl
@[simp] theorem State.withNextTid_cells : (s.withNextTid v).cells = s.cells := rfl
@[simp] theorem State.withNextTid_subports : (s.withNextTid v).subports = s.subports := rfl
@[simp] theorem State.withNextTid_chains : (s.withNextTid v).chains = s.chains := rfl
@[simp] theorem State.withNextTid_fhBufs : (s.withNextTid v).fhBufs = s.fhBufs := rfl
@[simp] theorem State.withNextTid_seqs : (s.withNextTid v).seqs = s.seqs := rfl
@[simp] theorem State.withNextTid_cmds : (s.withNextTid v).cmds = s.cmds := rfl
@[simp] theorem State.withNextTid_nextCmd : (s.withNextTid v).nextCmd = s.nextCmd := rfl
@[simp] theorem State.withNextTid_passes : (s.withNextTid v).passes = s.passes := rfl
@[simp] theorem State.withNextTid_nextPass : (s.withNextTid v).nextPass = s.nextPass := rfl
@[simp] theorem State.withNextTid_models : (s.withNextTid v).models = s.models := rfl
@[simp] theorem State.withNextTid_deltas : (s.withNextTid v).deltas = s.deltas := rfl
@[simp] theorem State.withNextTid_loads : (s.withNextTid v).loads = s.loads := rfl
@[simp] theorem State.withNextTid_lastAdm : (s.withNextTid v).lastAdm = s.lastAdm := rfl
@[simp] theorem State.withNextTid_frames : (s.withNextTid v).frames = s.frames := rfl
@[simp] theorem State.withNextTid_chunks : (s.withNextTid v).chunks = s.chunks := rfl
@[simp] theorem State.withNextTid_freeLists : (s.withNextTid v).freeLists = s.freeLists := rfl
@[simp] theorem State.withNextTid_nodes : (s.withNextTid v).nodes = s.nodes := rfl
@[simp] theorem State.withNextTid_lru : (s.withNextTid v).lru = s.lru := rfl
@[simp] theorem State.withNextTid_heldFrames : (s.withNextTid v).heldFrames = s.heldFrames := rfl
@[simp] theorem State.withNextTid_scopesDead : (s.withNextTid v).scopesDead = s.scopesDead := rfl
@[simp] theorem State.withNextTid_spills : (s.withNextTid v).spills = s.spills := rfl
@[simp] theorem State.withNextTid_links : (s.withNextTid v).links = s.links := rfl
@[simp] theorem State.withNextTid_members : (s.withNextTid v).members = s.members := rfl
@[simp] theorem State.withNextTid_spares : (s.withNextTid v).spares = s.spares := rfl
@[simp] theorem State.withNextTid_cachePeers : (s.withNextTid v).cachePeers = s.cachePeers := rfl
@[simp] theorem State.withNextTid_routes : (s.withNextTid v).routes = s.routes := rfl
@[simp] theorem State.withNextTid_fabReqs : (s.withNextTid v).fabReqs = s.fabReqs := rfl
@[simp] theorem State.withNextTid_nextTid : (s.withNextTid v).nextTid = v := rfl
@[simp] theorem State.withNextTid_windows : (s.withNextTid v).windows = s.windows := rfl
@[simp] theorem State.withNextTid_peers : (s.withNextTid v).peers = s.peers := rfl
@[simp] theorem State.withNextTid_move : (s.withNextTid v).move = s.move := rfl
@[simp] theorem State.withNextTid_rings : (s.withNextTid v).rings = s.rings := rfl
@[simp] theorem State.withNextTid_slices : (s.withNextTid v).slices = s.slices := rfl
@[simp] theorem State.withNextTid_groups : (s.withNextTid v).groups = s.groups := rfl
@[simp] theorem State.withNextTid_thaws : (s.withNextTid v).thaws = s.thaws := rfl
@[simp] theorem State.withNextTid_copies : (s.withNextTid v).copies = s.copies := rfl
@[simp] theorem State.withNextTid_heldCmds : (s.withNextTid v).heldCmds = s.heldCmds := rfl
@[simp] theorem State.withNextTid_coord : (s.withNextTid v).coord = s.coord := rfl
@[simp] theorem State.withNextTid_ctlWindow : (s.withNextTid v).ctlWindow = s.ctlWindow := rfl
@[simp] theorem State.withNextTid_ctlNeg : (s.withNextTid v).ctlNeg = s.ctlNeg := rfl
@[simp] theorem State.withNextTid_ctlNegPend : (s.withNextTid v).ctlNegPend = s.ctlNegPend := rfl
@[simp] theorem State.withNextTid_ctlAgreed : (s.withNextTid v).ctlAgreed = s.ctlAgreed := rfl
@[simp] theorem State.withNextTid_halves : (s.withNextTid v).halves = s.halves := rfl
@[simp] theorem State.withNextTid_ctlHb : (s.withNextTid v).ctlHb = s.ctlHb := rfl
@[simp] theorem State.withNextTid_events : (s.withNextTid v).events = s.events := rfl
@[simp] theorem State.withNextTid_procs : (s.withNextTid v).procs = s.procs := rfl
@[simp] theorem State.withNextTid_bring : (s.withNextTid v).bring = s.bring := rfl
@[simp] theorem State.withNextTid_sec : (s.withNextTid v).sec = s.sec := rfl
@[simp] theorem State.withNextTid_mgt : (s.withNextTid v).mgt = s.mgt := rfl
@[simp] theorem State.withNextTid_free : (s.withNextTid v).free = s.free := rfl
@[simp] theorem State.withNextTid_out : (s.withNextTid v).out = s.out := rfl
@[simp] theorem State.rd_withNextTid (f : Field) (i : Nat) : (s.withNextTid v).rd f i = s.rd f i := rfl
end
section
variable (v : KMap Dedup)
@[simp] theorem State.withWindows_pending : (s.withWindows v).pending = s.pending := rfl
@[simp] theorem State.withWindows_regs : (s.withWindows v).regs = s.regs := rfl
@[simp] theorem State.withWindows_staged : (s.withWindows v).staged = s.staged := rfl
@[simp] theorem State.withWindows_mem : (s.withWindows v).mem = s.mem := rfl
@[simp] theorem State.withWindows_poison : (s.withWindows v).poison = s.poison := rfl
@[simp] theorem State.withWindows_lineKey : (s.withWindows v).lineKey = s.lineKey := rfl
@[simp] theorem State.withWindows_badCopy : (s.withWindows v).badCopy = s.badCopy := rfl
@[simp] theorem State.withWindows_keys : (s.withWindows v).keys = s.keys := rfl
@[simp] theorem State.withWindows_hostMem : (s.withWindows v).hostMem = s.hostMem := rfl
@[simp] theorem State.withWindows_hostBad : (s.withWindows v).hostBad = s.hostBad := rfl
@[simp] theorem State.withWindows_time : (s.withWindows v).time = s.time := rfl
@[simp] theorem State.withWindows_parts : (s.withWindows v).parts = s.parts := rfl
@[simp] theorem State.withWindows_cores : (s.withWindows v).cores = s.cores := rfl
@[simp] theorem State.withWindows_phys : (s.withWindows v).phys = s.phys := rfl
@[simp] theorem State.withWindows_threads : (s.withWindows v).threads = s.threads := rfl
@[simp] theorem State.withWindows_jobs : (s.withWindows v).jobs = s.jobs := rfl
@[simp] theorem State.withWindows_spurs : (s.withWindows v).spurs = s.spurs := rfl
@[simp] theorem State.withWindows_dmas : (s.withWindows v).dmas = s.dmas := rfl
@[simp] theorem State.withWindows_nocReqs : (s.withWindows v).nocReqs = s.nocReqs := rfl
@[simp] theorem State.withWindows_devErrs : (s.withWindows v).devErrs = s.devErrs := rfl
@[simp] theorem State.withWindows_sramErrs : (s.withWindows v).sramErrs = s.sramErrs := rfl
@[simp] theorem State.withWindows_sramUe : (s.withWindows v).sramUe = s.sramUe := rfl
@[simp] theorem State.withWindows_planHdr : (s.withWindows v).planHdr = s.planHdr := rfl
@[simp] theorem State.withWindows_cells : (s.withWindows v).cells = s.cells := rfl
@[simp] theorem State.withWindows_subports : (s.withWindows v).subports = s.subports := rfl
@[simp] theorem State.withWindows_chains : (s.withWindows v).chains = s.chains := rfl
@[simp] theorem State.withWindows_fhBufs : (s.withWindows v).fhBufs = s.fhBufs := rfl
@[simp] theorem State.withWindows_seqs : (s.withWindows v).seqs = s.seqs := rfl
@[simp] theorem State.withWindows_cmds : (s.withWindows v).cmds = s.cmds := rfl
@[simp] theorem State.withWindows_nextCmd : (s.withWindows v).nextCmd = s.nextCmd := rfl
@[simp] theorem State.withWindows_passes : (s.withWindows v).passes = s.passes := rfl
@[simp] theorem State.withWindows_nextPass : (s.withWindows v).nextPass = s.nextPass := rfl
@[simp] theorem State.withWindows_models : (s.withWindows v).models = s.models := rfl
@[simp] theorem State.withWindows_deltas : (s.withWindows v).deltas = s.deltas := rfl
@[simp] theorem State.withWindows_loads : (s.withWindows v).loads = s.loads := rfl
@[simp] theorem State.withWindows_lastAdm : (s.withWindows v).lastAdm = s.lastAdm := rfl
@[simp] theorem State.withWindows_frames : (s.withWindows v).frames = s.frames := rfl
@[simp] theorem State.withWindows_chunks : (s.withWindows v).chunks = s.chunks := rfl
@[simp] theorem State.withWindows_freeLists : (s.withWindows v).freeLists = s.freeLists := rfl
@[simp] theorem State.withWindows_nodes : (s.withWindows v).nodes = s.nodes := rfl
@[simp] theorem State.withWindows_lru : (s.withWindows v).lru = s.lru := rfl
@[simp] theorem State.withWindows_heldFrames : (s.withWindows v).heldFrames = s.heldFrames := rfl
@[simp] theorem State.withWindows_scopesDead : (s.withWindows v).scopesDead = s.scopesDead := rfl
@[simp] theorem State.withWindows_spills : (s.withWindows v).spills = s.spills := rfl
@[simp] theorem State.withWindows_links : (s.withWindows v).links = s.links := rfl
@[simp] theorem State.withWindows_members : (s.withWindows v).members = s.members := rfl
@[simp] theorem State.withWindows_spares : (s.withWindows v).spares = s.spares := rfl
@[simp] theorem State.withWindows_cachePeers : (s.withWindows v).cachePeers = s.cachePeers := rfl
@[simp] theorem State.withWindows_routes : (s.withWindows v).routes = s.routes := rfl
@[simp] theorem State.withWindows_fabReqs : (s.withWindows v).fabReqs = s.fabReqs := rfl
@[simp] theorem State.withWindows_nextTid : (s.withWindows v).nextTid = s.nextTid := rfl
@[simp] theorem State.withWindows_windows : (s.withWindows v).windows = v := rfl
@[simp] theorem State.withWindows_peers : (s.withWindows v).peers = s.peers := rfl
@[simp] theorem State.withWindows_move : (s.withWindows v).move = s.move := rfl
@[simp] theorem State.withWindows_rings : (s.withWindows v).rings = s.rings := rfl
@[simp] theorem State.withWindows_slices : (s.withWindows v).slices = s.slices := rfl
@[simp] theorem State.withWindows_groups : (s.withWindows v).groups = s.groups := rfl
@[simp] theorem State.withWindows_thaws : (s.withWindows v).thaws = s.thaws := rfl
@[simp] theorem State.withWindows_copies : (s.withWindows v).copies = s.copies := rfl
@[simp] theorem State.withWindows_heldCmds : (s.withWindows v).heldCmds = s.heldCmds := rfl
@[simp] theorem State.withWindows_coord : (s.withWindows v).coord = s.coord := rfl
@[simp] theorem State.withWindows_ctlWindow : (s.withWindows v).ctlWindow = s.ctlWindow := rfl
@[simp] theorem State.withWindows_ctlNeg : (s.withWindows v).ctlNeg = s.ctlNeg := rfl
@[simp] theorem State.withWindows_ctlNegPend : (s.withWindows v).ctlNegPend = s.ctlNegPend := rfl
@[simp] theorem State.withWindows_ctlAgreed : (s.withWindows v).ctlAgreed = s.ctlAgreed := rfl
@[simp] theorem State.withWindows_halves : (s.withWindows v).halves = s.halves := rfl
@[simp] theorem State.withWindows_ctlHb : (s.withWindows v).ctlHb = s.ctlHb := rfl
@[simp] theorem State.withWindows_events : (s.withWindows v).events = s.events := rfl
@[simp] theorem State.withWindows_procs : (s.withWindows v).procs = s.procs := rfl
@[simp] theorem State.withWindows_bring : (s.withWindows v).bring = s.bring := rfl
@[simp] theorem State.withWindows_sec : (s.withWindows v).sec = s.sec := rfl
@[simp] theorem State.withWindows_mgt : (s.withWindows v).mgt = s.mgt := rfl
@[simp] theorem State.withWindows_free : (s.withWindows v).free = s.free := rfl
@[simp] theorem State.withWindows_out : (s.withWindows v).out = s.out := rfl
@[simp] theorem State.rd_withWindows (f : Field) (i : Nat) : (s.withWindows v).rd f i = s.rd f i := rfl
end
section
variable (v : KMap Peer)
@[simp] theorem State.withPeers_pending : (s.withPeers v).pending = s.pending := rfl
@[simp] theorem State.withPeers_regs : (s.withPeers v).regs = s.regs := rfl
@[simp] theorem State.withPeers_staged : (s.withPeers v).staged = s.staged := rfl
@[simp] theorem State.withPeers_mem : (s.withPeers v).mem = s.mem := rfl
@[simp] theorem State.withPeers_poison : (s.withPeers v).poison = s.poison := rfl
@[simp] theorem State.withPeers_lineKey : (s.withPeers v).lineKey = s.lineKey := rfl
@[simp] theorem State.withPeers_badCopy : (s.withPeers v).badCopy = s.badCopy := rfl
@[simp] theorem State.withPeers_keys : (s.withPeers v).keys = s.keys := rfl
@[simp] theorem State.withPeers_hostMem : (s.withPeers v).hostMem = s.hostMem := rfl
@[simp] theorem State.withPeers_hostBad : (s.withPeers v).hostBad = s.hostBad := rfl
@[simp] theorem State.withPeers_time : (s.withPeers v).time = s.time := rfl
@[simp] theorem State.withPeers_parts : (s.withPeers v).parts = s.parts := rfl
@[simp] theorem State.withPeers_cores : (s.withPeers v).cores = s.cores := rfl
@[simp] theorem State.withPeers_phys : (s.withPeers v).phys = s.phys := rfl
@[simp] theorem State.withPeers_threads : (s.withPeers v).threads = s.threads := rfl
@[simp] theorem State.withPeers_jobs : (s.withPeers v).jobs = s.jobs := rfl
@[simp] theorem State.withPeers_spurs : (s.withPeers v).spurs = s.spurs := rfl
@[simp] theorem State.withPeers_dmas : (s.withPeers v).dmas = s.dmas := rfl
@[simp] theorem State.withPeers_nocReqs : (s.withPeers v).nocReqs = s.nocReqs := rfl
@[simp] theorem State.withPeers_devErrs : (s.withPeers v).devErrs = s.devErrs := rfl
@[simp] theorem State.withPeers_sramErrs : (s.withPeers v).sramErrs = s.sramErrs := rfl
@[simp] theorem State.withPeers_sramUe : (s.withPeers v).sramUe = s.sramUe := rfl
@[simp] theorem State.withPeers_planHdr : (s.withPeers v).planHdr = s.planHdr := rfl
@[simp] theorem State.withPeers_cells : (s.withPeers v).cells = s.cells := rfl
@[simp] theorem State.withPeers_subports : (s.withPeers v).subports = s.subports := rfl
@[simp] theorem State.withPeers_chains : (s.withPeers v).chains = s.chains := rfl
@[simp] theorem State.withPeers_fhBufs : (s.withPeers v).fhBufs = s.fhBufs := rfl
@[simp] theorem State.withPeers_seqs : (s.withPeers v).seqs = s.seqs := rfl
@[simp] theorem State.withPeers_cmds : (s.withPeers v).cmds = s.cmds := rfl
@[simp] theorem State.withPeers_nextCmd : (s.withPeers v).nextCmd = s.nextCmd := rfl
@[simp] theorem State.withPeers_passes : (s.withPeers v).passes = s.passes := rfl
@[simp] theorem State.withPeers_nextPass : (s.withPeers v).nextPass = s.nextPass := rfl
@[simp] theorem State.withPeers_models : (s.withPeers v).models = s.models := rfl
@[simp] theorem State.withPeers_deltas : (s.withPeers v).deltas = s.deltas := rfl
@[simp] theorem State.withPeers_loads : (s.withPeers v).loads = s.loads := rfl
@[simp] theorem State.withPeers_lastAdm : (s.withPeers v).lastAdm = s.lastAdm := rfl
@[simp] theorem State.withPeers_frames : (s.withPeers v).frames = s.frames := rfl
@[simp] theorem State.withPeers_chunks : (s.withPeers v).chunks = s.chunks := rfl
@[simp] theorem State.withPeers_freeLists : (s.withPeers v).freeLists = s.freeLists := rfl
@[simp] theorem State.withPeers_nodes : (s.withPeers v).nodes = s.nodes := rfl
@[simp] theorem State.withPeers_lru : (s.withPeers v).lru = s.lru := rfl
@[simp] theorem State.withPeers_heldFrames : (s.withPeers v).heldFrames = s.heldFrames := rfl
@[simp] theorem State.withPeers_scopesDead : (s.withPeers v).scopesDead = s.scopesDead := rfl
@[simp] theorem State.withPeers_spills : (s.withPeers v).spills = s.spills := rfl
@[simp] theorem State.withPeers_links : (s.withPeers v).links = s.links := rfl
@[simp] theorem State.withPeers_members : (s.withPeers v).members = s.members := rfl
@[simp] theorem State.withPeers_spares : (s.withPeers v).spares = s.spares := rfl
@[simp] theorem State.withPeers_cachePeers : (s.withPeers v).cachePeers = s.cachePeers := rfl
@[simp] theorem State.withPeers_routes : (s.withPeers v).routes = s.routes := rfl
@[simp] theorem State.withPeers_fabReqs : (s.withPeers v).fabReqs = s.fabReqs := rfl
@[simp] theorem State.withPeers_nextTid : (s.withPeers v).nextTid = s.nextTid := rfl
@[simp] theorem State.withPeers_windows : (s.withPeers v).windows = s.windows := rfl
@[simp] theorem State.withPeers_peers : (s.withPeers v).peers = v := rfl
@[simp] theorem State.withPeers_move : (s.withPeers v).move = s.move := rfl
@[simp] theorem State.withPeers_rings : (s.withPeers v).rings = s.rings := rfl
@[simp] theorem State.withPeers_slices : (s.withPeers v).slices = s.slices := rfl
@[simp] theorem State.withPeers_groups : (s.withPeers v).groups = s.groups := rfl
@[simp] theorem State.withPeers_thaws : (s.withPeers v).thaws = s.thaws := rfl
@[simp] theorem State.withPeers_copies : (s.withPeers v).copies = s.copies := rfl
@[simp] theorem State.withPeers_heldCmds : (s.withPeers v).heldCmds = s.heldCmds := rfl
@[simp] theorem State.withPeers_coord : (s.withPeers v).coord = s.coord := rfl
@[simp] theorem State.withPeers_ctlWindow : (s.withPeers v).ctlWindow = s.ctlWindow := rfl
@[simp] theorem State.withPeers_ctlNeg : (s.withPeers v).ctlNeg = s.ctlNeg := rfl
@[simp] theorem State.withPeers_ctlNegPend : (s.withPeers v).ctlNegPend = s.ctlNegPend := rfl
@[simp] theorem State.withPeers_ctlAgreed : (s.withPeers v).ctlAgreed = s.ctlAgreed := rfl
@[simp] theorem State.withPeers_halves : (s.withPeers v).halves = s.halves := rfl
@[simp] theorem State.withPeers_ctlHb : (s.withPeers v).ctlHb = s.ctlHb := rfl
@[simp] theorem State.withPeers_events : (s.withPeers v).events = s.events := rfl
@[simp] theorem State.withPeers_procs : (s.withPeers v).procs = s.procs := rfl
@[simp] theorem State.withPeers_bring : (s.withPeers v).bring = s.bring := rfl
@[simp] theorem State.withPeers_sec : (s.withPeers v).sec = s.sec := rfl
@[simp] theorem State.withPeers_mgt : (s.withPeers v).mgt = s.mgt := rfl
@[simp] theorem State.withPeers_free : (s.withPeers v).free = s.free := rfl
@[simp] theorem State.withPeers_out : (s.withPeers v).out = s.out := rfl
@[simp] theorem State.rd_withPeers (f : Field) (i : Nat) : (s.withPeers v).rd f i = s.rd f i := rfl
end
section
variable (v : Option ShardMove)
@[simp] theorem State.withMove_pending : (s.withMove v).pending = s.pending := rfl
@[simp] theorem State.withMove_regs : (s.withMove v).regs = s.regs := rfl
@[simp] theorem State.withMove_staged : (s.withMove v).staged = s.staged := rfl
@[simp] theorem State.withMove_mem : (s.withMove v).mem = s.mem := rfl
@[simp] theorem State.withMove_poison : (s.withMove v).poison = s.poison := rfl
@[simp] theorem State.withMove_lineKey : (s.withMove v).lineKey = s.lineKey := rfl
@[simp] theorem State.withMove_badCopy : (s.withMove v).badCopy = s.badCopy := rfl
@[simp] theorem State.withMove_keys : (s.withMove v).keys = s.keys := rfl
@[simp] theorem State.withMove_hostMem : (s.withMove v).hostMem = s.hostMem := rfl
@[simp] theorem State.withMove_hostBad : (s.withMove v).hostBad = s.hostBad := rfl
@[simp] theorem State.withMove_time : (s.withMove v).time = s.time := rfl
@[simp] theorem State.withMove_parts : (s.withMove v).parts = s.parts := rfl
@[simp] theorem State.withMove_cores : (s.withMove v).cores = s.cores := rfl
@[simp] theorem State.withMove_phys : (s.withMove v).phys = s.phys := rfl
@[simp] theorem State.withMove_threads : (s.withMove v).threads = s.threads := rfl
@[simp] theorem State.withMove_jobs : (s.withMove v).jobs = s.jobs := rfl
@[simp] theorem State.withMove_spurs : (s.withMove v).spurs = s.spurs := rfl
@[simp] theorem State.withMove_dmas : (s.withMove v).dmas = s.dmas := rfl
@[simp] theorem State.withMove_nocReqs : (s.withMove v).nocReqs = s.nocReqs := rfl
@[simp] theorem State.withMove_devErrs : (s.withMove v).devErrs = s.devErrs := rfl
@[simp] theorem State.withMove_sramErrs : (s.withMove v).sramErrs = s.sramErrs := rfl
@[simp] theorem State.withMove_sramUe : (s.withMove v).sramUe = s.sramUe := rfl
@[simp] theorem State.withMove_planHdr : (s.withMove v).planHdr = s.planHdr := rfl
@[simp] theorem State.withMove_cells : (s.withMove v).cells = s.cells := rfl
@[simp] theorem State.withMove_subports : (s.withMove v).subports = s.subports := rfl
@[simp] theorem State.withMove_chains : (s.withMove v).chains = s.chains := rfl
@[simp] theorem State.withMove_fhBufs : (s.withMove v).fhBufs = s.fhBufs := rfl
@[simp] theorem State.withMove_seqs : (s.withMove v).seqs = s.seqs := rfl
@[simp] theorem State.withMove_cmds : (s.withMove v).cmds = s.cmds := rfl
@[simp] theorem State.withMove_nextCmd : (s.withMove v).nextCmd = s.nextCmd := rfl
@[simp] theorem State.withMove_passes : (s.withMove v).passes = s.passes := rfl
@[simp] theorem State.withMove_nextPass : (s.withMove v).nextPass = s.nextPass := rfl
@[simp] theorem State.withMove_models : (s.withMove v).models = s.models := rfl
@[simp] theorem State.withMove_deltas : (s.withMove v).deltas = s.deltas := rfl
@[simp] theorem State.withMove_loads : (s.withMove v).loads = s.loads := rfl
@[simp] theorem State.withMove_lastAdm : (s.withMove v).lastAdm = s.lastAdm := rfl
@[simp] theorem State.withMove_frames : (s.withMove v).frames = s.frames := rfl
@[simp] theorem State.withMove_chunks : (s.withMove v).chunks = s.chunks := rfl
@[simp] theorem State.withMove_freeLists : (s.withMove v).freeLists = s.freeLists := rfl
@[simp] theorem State.withMove_nodes : (s.withMove v).nodes = s.nodes := rfl
@[simp] theorem State.withMove_lru : (s.withMove v).lru = s.lru := rfl
@[simp] theorem State.withMove_heldFrames : (s.withMove v).heldFrames = s.heldFrames := rfl
@[simp] theorem State.withMove_scopesDead : (s.withMove v).scopesDead = s.scopesDead := rfl
@[simp] theorem State.withMove_spills : (s.withMove v).spills = s.spills := rfl
@[simp] theorem State.withMove_links : (s.withMove v).links = s.links := rfl
@[simp] theorem State.withMove_members : (s.withMove v).members = s.members := rfl
@[simp] theorem State.withMove_spares : (s.withMove v).spares = s.spares := rfl
@[simp] theorem State.withMove_cachePeers : (s.withMove v).cachePeers = s.cachePeers := rfl
@[simp] theorem State.withMove_routes : (s.withMove v).routes = s.routes := rfl
@[simp] theorem State.withMove_fabReqs : (s.withMove v).fabReqs = s.fabReqs := rfl
@[simp] theorem State.withMove_nextTid : (s.withMove v).nextTid = s.nextTid := rfl
@[simp] theorem State.withMove_windows : (s.withMove v).windows = s.windows := rfl
@[simp] theorem State.withMove_peers : (s.withMove v).peers = s.peers := rfl
@[simp] theorem State.withMove_move : (s.withMove v).move = v := rfl
@[simp] theorem State.withMove_rings : (s.withMove v).rings = s.rings := rfl
@[simp] theorem State.withMove_slices : (s.withMove v).slices = s.slices := rfl
@[simp] theorem State.withMove_groups : (s.withMove v).groups = s.groups := rfl
@[simp] theorem State.withMove_thaws : (s.withMove v).thaws = s.thaws := rfl
@[simp] theorem State.withMove_copies : (s.withMove v).copies = s.copies := rfl
@[simp] theorem State.withMove_heldCmds : (s.withMove v).heldCmds = s.heldCmds := rfl
@[simp] theorem State.withMove_coord : (s.withMove v).coord = s.coord := rfl
@[simp] theorem State.withMove_ctlWindow : (s.withMove v).ctlWindow = s.ctlWindow := rfl
@[simp] theorem State.withMove_ctlNeg : (s.withMove v).ctlNeg = s.ctlNeg := rfl
@[simp] theorem State.withMove_ctlNegPend : (s.withMove v).ctlNegPend = s.ctlNegPend := rfl
@[simp] theorem State.withMove_ctlAgreed : (s.withMove v).ctlAgreed = s.ctlAgreed := rfl
@[simp] theorem State.withMove_halves : (s.withMove v).halves = s.halves := rfl
@[simp] theorem State.withMove_ctlHb : (s.withMove v).ctlHb = s.ctlHb := rfl
@[simp] theorem State.withMove_events : (s.withMove v).events = s.events := rfl
@[simp] theorem State.withMove_procs : (s.withMove v).procs = s.procs := rfl
@[simp] theorem State.withMove_bring : (s.withMove v).bring = s.bring := rfl
@[simp] theorem State.withMove_sec : (s.withMove v).sec = s.sec := rfl
@[simp] theorem State.withMove_mgt : (s.withMove v).mgt = s.mgt := rfl
@[simp] theorem State.withMove_free : (s.withMove v).free = s.free := rfl
@[simp] theorem State.withMove_out : (s.withMove v).out = s.out := rfl
@[simp] theorem State.rd_withMove (f : Field) (i : Nat) : (s.withMove v).rd f i = s.rd f i := rfl
end
section
variable (v : KMap Ring)
@[simp] theorem State.withRings_pending : (s.withRings v).pending = s.pending := rfl
@[simp] theorem State.withRings_regs : (s.withRings v).regs = s.regs := rfl
@[simp] theorem State.withRings_staged : (s.withRings v).staged = s.staged := rfl
@[simp] theorem State.withRings_mem : (s.withRings v).mem = s.mem := rfl
@[simp] theorem State.withRings_poison : (s.withRings v).poison = s.poison := rfl
@[simp] theorem State.withRings_lineKey : (s.withRings v).lineKey = s.lineKey := rfl
@[simp] theorem State.withRings_badCopy : (s.withRings v).badCopy = s.badCopy := rfl
@[simp] theorem State.withRings_keys : (s.withRings v).keys = s.keys := rfl
@[simp] theorem State.withRings_hostMem : (s.withRings v).hostMem = s.hostMem := rfl
@[simp] theorem State.withRings_hostBad : (s.withRings v).hostBad = s.hostBad := rfl
@[simp] theorem State.withRings_time : (s.withRings v).time = s.time := rfl
@[simp] theorem State.withRings_parts : (s.withRings v).parts = s.parts := rfl
@[simp] theorem State.withRings_cores : (s.withRings v).cores = s.cores := rfl
@[simp] theorem State.withRings_phys : (s.withRings v).phys = s.phys := rfl
@[simp] theorem State.withRings_threads : (s.withRings v).threads = s.threads := rfl
@[simp] theorem State.withRings_jobs : (s.withRings v).jobs = s.jobs := rfl
@[simp] theorem State.withRings_spurs : (s.withRings v).spurs = s.spurs := rfl
@[simp] theorem State.withRings_dmas : (s.withRings v).dmas = s.dmas := rfl
@[simp] theorem State.withRings_nocReqs : (s.withRings v).nocReqs = s.nocReqs := rfl
@[simp] theorem State.withRings_devErrs : (s.withRings v).devErrs = s.devErrs := rfl
@[simp] theorem State.withRings_sramErrs : (s.withRings v).sramErrs = s.sramErrs := rfl
@[simp] theorem State.withRings_sramUe : (s.withRings v).sramUe = s.sramUe := rfl
@[simp] theorem State.withRings_planHdr : (s.withRings v).planHdr = s.planHdr := rfl
@[simp] theorem State.withRings_cells : (s.withRings v).cells = s.cells := rfl
@[simp] theorem State.withRings_subports : (s.withRings v).subports = s.subports := rfl
@[simp] theorem State.withRings_chains : (s.withRings v).chains = s.chains := rfl
@[simp] theorem State.withRings_fhBufs : (s.withRings v).fhBufs = s.fhBufs := rfl
@[simp] theorem State.withRings_seqs : (s.withRings v).seqs = s.seqs := rfl
@[simp] theorem State.withRings_cmds : (s.withRings v).cmds = s.cmds := rfl
@[simp] theorem State.withRings_nextCmd : (s.withRings v).nextCmd = s.nextCmd := rfl
@[simp] theorem State.withRings_passes : (s.withRings v).passes = s.passes := rfl
@[simp] theorem State.withRings_nextPass : (s.withRings v).nextPass = s.nextPass := rfl
@[simp] theorem State.withRings_models : (s.withRings v).models = s.models := rfl
@[simp] theorem State.withRings_deltas : (s.withRings v).deltas = s.deltas := rfl
@[simp] theorem State.withRings_loads : (s.withRings v).loads = s.loads := rfl
@[simp] theorem State.withRings_lastAdm : (s.withRings v).lastAdm = s.lastAdm := rfl
@[simp] theorem State.withRings_frames : (s.withRings v).frames = s.frames := rfl
@[simp] theorem State.withRings_chunks : (s.withRings v).chunks = s.chunks := rfl
@[simp] theorem State.withRings_freeLists : (s.withRings v).freeLists = s.freeLists := rfl
@[simp] theorem State.withRings_nodes : (s.withRings v).nodes = s.nodes := rfl
@[simp] theorem State.withRings_lru : (s.withRings v).lru = s.lru := rfl
@[simp] theorem State.withRings_heldFrames : (s.withRings v).heldFrames = s.heldFrames := rfl
@[simp] theorem State.withRings_scopesDead : (s.withRings v).scopesDead = s.scopesDead := rfl
@[simp] theorem State.withRings_spills : (s.withRings v).spills = s.spills := rfl
@[simp] theorem State.withRings_links : (s.withRings v).links = s.links := rfl
@[simp] theorem State.withRings_members : (s.withRings v).members = s.members := rfl
@[simp] theorem State.withRings_spares : (s.withRings v).spares = s.spares := rfl
@[simp] theorem State.withRings_cachePeers : (s.withRings v).cachePeers = s.cachePeers := rfl
@[simp] theorem State.withRings_routes : (s.withRings v).routes = s.routes := rfl
@[simp] theorem State.withRings_fabReqs : (s.withRings v).fabReqs = s.fabReqs := rfl
@[simp] theorem State.withRings_nextTid : (s.withRings v).nextTid = s.nextTid := rfl
@[simp] theorem State.withRings_windows : (s.withRings v).windows = s.windows := rfl
@[simp] theorem State.withRings_peers : (s.withRings v).peers = s.peers := rfl
@[simp] theorem State.withRings_move : (s.withRings v).move = s.move := rfl
@[simp] theorem State.withRings_rings : (s.withRings v).rings = v := rfl
@[simp] theorem State.withRings_slices : (s.withRings v).slices = s.slices := rfl
@[simp] theorem State.withRings_groups : (s.withRings v).groups = s.groups := rfl
@[simp] theorem State.withRings_thaws : (s.withRings v).thaws = s.thaws := rfl
@[simp] theorem State.withRings_copies : (s.withRings v).copies = s.copies := rfl
@[simp] theorem State.withRings_heldCmds : (s.withRings v).heldCmds = s.heldCmds := rfl
@[simp] theorem State.withRings_coord : (s.withRings v).coord = s.coord := rfl
@[simp] theorem State.withRings_ctlWindow : (s.withRings v).ctlWindow = s.ctlWindow := rfl
@[simp] theorem State.withRings_ctlNeg : (s.withRings v).ctlNeg = s.ctlNeg := rfl
@[simp] theorem State.withRings_ctlNegPend : (s.withRings v).ctlNegPend = s.ctlNegPend := rfl
@[simp] theorem State.withRings_ctlAgreed : (s.withRings v).ctlAgreed = s.ctlAgreed := rfl
@[simp] theorem State.withRings_halves : (s.withRings v).halves = s.halves := rfl
@[simp] theorem State.withRings_ctlHb : (s.withRings v).ctlHb = s.ctlHb := rfl
@[simp] theorem State.withRings_events : (s.withRings v).events = s.events := rfl
@[simp] theorem State.withRings_procs : (s.withRings v).procs = s.procs := rfl
@[simp] theorem State.withRings_bring : (s.withRings v).bring = s.bring := rfl
@[simp] theorem State.withRings_sec : (s.withRings v).sec = s.sec := rfl
@[simp] theorem State.withRings_mgt : (s.withRings v).mgt = s.mgt := rfl
@[simp] theorem State.withRings_free : (s.withRings v).free = s.free := rfl
@[simp] theorem State.withRings_out : (s.withRings v).out = s.out := rfl
@[simp] theorem State.rd_withRings (f : Field) (i : Nat) : (s.withRings v).rd f i = s.rd f i := rfl
end
section
variable (v : KMap Slice)
@[simp] theorem State.withSlices_pending : (s.withSlices v).pending = s.pending := rfl
@[simp] theorem State.withSlices_regs : (s.withSlices v).regs = s.regs := rfl
@[simp] theorem State.withSlices_staged : (s.withSlices v).staged = s.staged := rfl
@[simp] theorem State.withSlices_mem : (s.withSlices v).mem = s.mem := rfl
@[simp] theorem State.withSlices_poison : (s.withSlices v).poison = s.poison := rfl
@[simp] theorem State.withSlices_lineKey : (s.withSlices v).lineKey = s.lineKey := rfl
@[simp] theorem State.withSlices_badCopy : (s.withSlices v).badCopy = s.badCopy := rfl
@[simp] theorem State.withSlices_keys : (s.withSlices v).keys = s.keys := rfl
@[simp] theorem State.withSlices_hostMem : (s.withSlices v).hostMem = s.hostMem := rfl
@[simp] theorem State.withSlices_hostBad : (s.withSlices v).hostBad = s.hostBad := rfl
@[simp] theorem State.withSlices_time : (s.withSlices v).time = s.time := rfl
@[simp] theorem State.withSlices_parts : (s.withSlices v).parts = s.parts := rfl
@[simp] theorem State.withSlices_cores : (s.withSlices v).cores = s.cores := rfl
@[simp] theorem State.withSlices_phys : (s.withSlices v).phys = s.phys := rfl
@[simp] theorem State.withSlices_threads : (s.withSlices v).threads = s.threads := rfl
@[simp] theorem State.withSlices_jobs : (s.withSlices v).jobs = s.jobs := rfl
@[simp] theorem State.withSlices_spurs : (s.withSlices v).spurs = s.spurs := rfl
@[simp] theorem State.withSlices_dmas : (s.withSlices v).dmas = s.dmas := rfl
@[simp] theorem State.withSlices_nocReqs : (s.withSlices v).nocReqs = s.nocReqs := rfl
@[simp] theorem State.withSlices_devErrs : (s.withSlices v).devErrs = s.devErrs := rfl
@[simp] theorem State.withSlices_sramErrs : (s.withSlices v).sramErrs = s.sramErrs := rfl
@[simp] theorem State.withSlices_sramUe : (s.withSlices v).sramUe = s.sramUe := rfl
@[simp] theorem State.withSlices_planHdr : (s.withSlices v).planHdr = s.planHdr := rfl
@[simp] theorem State.withSlices_cells : (s.withSlices v).cells = s.cells := rfl
@[simp] theorem State.withSlices_subports : (s.withSlices v).subports = s.subports := rfl
@[simp] theorem State.withSlices_chains : (s.withSlices v).chains = s.chains := rfl
@[simp] theorem State.withSlices_fhBufs : (s.withSlices v).fhBufs = s.fhBufs := rfl
@[simp] theorem State.withSlices_seqs : (s.withSlices v).seqs = s.seqs := rfl
@[simp] theorem State.withSlices_cmds : (s.withSlices v).cmds = s.cmds := rfl
@[simp] theorem State.withSlices_nextCmd : (s.withSlices v).nextCmd = s.nextCmd := rfl
@[simp] theorem State.withSlices_passes : (s.withSlices v).passes = s.passes := rfl
@[simp] theorem State.withSlices_nextPass : (s.withSlices v).nextPass = s.nextPass := rfl
@[simp] theorem State.withSlices_models : (s.withSlices v).models = s.models := rfl
@[simp] theorem State.withSlices_deltas : (s.withSlices v).deltas = s.deltas := rfl
@[simp] theorem State.withSlices_loads : (s.withSlices v).loads = s.loads := rfl
@[simp] theorem State.withSlices_lastAdm : (s.withSlices v).lastAdm = s.lastAdm := rfl
@[simp] theorem State.withSlices_frames : (s.withSlices v).frames = s.frames := rfl
@[simp] theorem State.withSlices_chunks : (s.withSlices v).chunks = s.chunks := rfl
@[simp] theorem State.withSlices_freeLists : (s.withSlices v).freeLists = s.freeLists := rfl
@[simp] theorem State.withSlices_nodes : (s.withSlices v).nodes = s.nodes := rfl
@[simp] theorem State.withSlices_lru : (s.withSlices v).lru = s.lru := rfl
@[simp] theorem State.withSlices_heldFrames : (s.withSlices v).heldFrames = s.heldFrames := rfl
@[simp] theorem State.withSlices_scopesDead : (s.withSlices v).scopesDead = s.scopesDead := rfl
@[simp] theorem State.withSlices_spills : (s.withSlices v).spills = s.spills := rfl
@[simp] theorem State.withSlices_links : (s.withSlices v).links = s.links := rfl
@[simp] theorem State.withSlices_members : (s.withSlices v).members = s.members := rfl
@[simp] theorem State.withSlices_spares : (s.withSlices v).spares = s.spares := rfl
@[simp] theorem State.withSlices_cachePeers : (s.withSlices v).cachePeers = s.cachePeers := rfl
@[simp] theorem State.withSlices_routes : (s.withSlices v).routes = s.routes := rfl
@[simp] theorem State.withSlices_fabReqs : (s.withSlices v).fabReqs = s.fabReqs := rfl
@[simp] theorem State.withSlices_nextTid : (s.withSlices v).nextTid = s.nextTid := rfl
@[simp] theorem State.withSlices_windows : (s.withSlices v).windows = s.windows := rfl
@[simp] theorem State.withSlices_peers : (s.withSlices v).peers = s.peers := rfl
@[simp] theorem State.withSlices_move : (s.withSlices v).move = s.move := rfl
@[simp] theorem State.withSlices_rings : (s.withSlices v).rings = s.rings := rfl
@[simp] theorem State.withSlices_slices : (s.withSlices v).slices = v := rfl
@[simp] theorem State.withSlices_groups : (s.withSlices v).groups = s.groups := rfl
@[simp] theorem State.withSlices_thaws : (s.withSlices v).thaws = s.thaws := rfl
@[simp] theorem State.withSlices_copies : (s.withSlices v).copies = s.copies := rfl
@[simp] theorem State.withSlices_heldCmds : (s.withSlices v).heldCmds = s.heldCmds := rfl
@[simp] theorem State.withSlices_coord : (s.withSlices v).coord = s.coord := rfl
@[simp] theorem State.withSlices_ctlWindow : (s.withSlices v).ctlWindow = s.ctlWindow := rfl
@[simp] theorem State.withSlices_ctlNeg : (s.withSlices v).ctlNeg = s.ctlNeg := rfl
@[simp] theorem State.withSlices_ctlNegPend : (s.withSlices v).ctlNegPend = s.ctlNegPend := rfl
@[simp] theorem State.withSlices_ctlAgreed : (s.withSlices v).ctlAgreed = s.ctlAgreed := rfl
@[simp] theorem State.withSlices_halves : (s.withSlices v).halves = s.halves := rfl
@[simp] theorem State.withSlices_ctlHb : (s.withSlices v).ctlHb = s.ctlHb := rfl
@[simp] theorem State.withSlices_events : (s.withSlices v).events = s.events := rfl
@[simp] theorem State.withSlices_procs : (s.withSlices v).procs = s.procs := rfl
@[simp] theorem State.withSlices_bring : (s.withSlices v).bring = s.bring := rfl
@[simp] theorem State.withSlices_sec : (s.withSlices v).sec = s.sec := rfl
@[simp] theorem State.withSlices_mgt : (s.withSlices v).mgt = s.mgt := rfl
@[simp] theorem State.withSlices_free : (s.withSlices v).free = s.free := rfl
@[simp] theorem State.withSlices_out : (s.withSlices v).out = s.out := rfl
@[simp] theorem State.rd_withSlices (f : Field) (i : Nat) : (s.withSlices v).rd f i = s.rd f i := rfl
end
section
variable (v : KMap Group)
@[simp] theorem State.withGroups_pending : (s.withGroups v).pending = s.pending := rfl
@[simp] theorem State.withGroups_regs : (s.withGroups v).regs = s.regs := rfl
@[simp] theorem State.withGroups_staged : (s.withGroups v).staged = s.staged := rfl
@[simp] theorem State.withGroups_mem : (s.withGroups v).mem = s.mem := rfl
@[simp] theorem State.withGroups_poison : (s.withGroups v).poison = s.poison := rfl
@[simp] theorem State.withGroups_lineKey : (s.withGroups v).lineKey = s.lineKey := rfl
@[simp] theorem State.withGroups_badCopy : (s.withGroups v).badCopy = s.badCopy := rfl
@[simp] theorem State.withGroups_keys : (s.withGroups v).keys = s.keys := rfl
@[simp] theorem State.withGroups_hostMem : (s.withGroups v).hostMem = s.hostMem := rfl
@[simp] theorem State.withGroups_hostBad : (s.withGroups v).hostBad = s.hostBad := rfl
@[simp] theorem State.withGroups_time : (s.withGroups v).time = s.time := rfl
@[simp] theorem State.withGroups_parts : (s.withGroups v).parts = s.parts := rfl
@[simp] theorem State.withGroups_cores : (s.withGroups v).cores = s.cores := rfl
@[simp] theorem State.withGroups_phys : (s.withGroups v).phys = s.phys := rfl
@[simp] theorem State.withGroups_threads : (s.withGroups v).threads = s.threads := rfl
@[simp] theorem State.withGroups_jobs : (s.withGroups v).jobs = s.jobs := rfl
@[simp] theorem State.withGroups_spurs : (s.withGroups v).spurs = s.spurs := rfl
@[simp] theorem State.withGroups_dmas : (s.withGroups v).dmas = s.dmas := rfl
@[simp] theorem State.withGroups_nocReqs : (s.withGroups v).nocReqs = s.nocReqs := rfl
@[simp] theorem State.withGroups_devErrs : (s.withGroups v).devErrs = s.devErrs := rfl
@[simp] theorem State.withGroups_sramErrs : (s.withGroups v).sramErrs = s.sramErrs := rfl
@[simp] theorem State.withGroups_sramUe : (s.withGroups v).sramUe = s.sramUe := rfl
@[simp] theorem State.withGroups_planHdr : (s.withGroups v).planHdr = s.planHdr := rfl
@[simp] theorem State.withGroups_cells : (s.withGroups v).cells = s.cells := rfl
@[simp] theorem State.withGroups_subports : (s.withGroups v).subports = s.subports := rfl
@[simp] theorem State.withGroups_chains : (s.withGroups v).chains = s.chains := rfl
@[simp] theorem State.withGroups_fhBufs : (s.withGroups v).fhBufs = s.fhBufs := rfl
@[simp] theorem State.withGroups_seqs : (s.withGroups v).seqs = s.seqs := rfl
@[simp] theorem State.withGroups_cmds : (s.withGroups v).cmds = s.cmds := rfl
@[simp] theorem State.withGroups_nextCmd : (s.withGroups v).nextCmd = s.nextCmd := rfl
@[simp] theorem State.withGroups_passes : (s.withGroups v).passes = s.passes := rfl
@[simp] theorem State.withGroups_nextPass : (s.withGroups v).nextPass = s.nextPass := rfl
@[simp] theorem State.withGroups_models : (s.withGroups v).models = s.models := rfl
@[simp] theorem State.withGroups_deltas : (s.withGroups v).deltas = s.deltas := rfl
@[simp] theorem State.withGroups_loads : (s.withGroups v).loads = s.loads := rfl
@[simp] theorem State.withGroups_lastAdm : (s.withGroups v).lastAdm = s.lastAdm := rfl
@[simp] theorem State.withGroups_frames : (s.withGroups v).frames = s.frames := rfl
@[simp] theorem State.withGroups_chunks : (s.withGroups v).chunks = s.chunks := rfl
@[simp] theorem State.withGroups_freeLists : (s.withGroups v).freeLists = s.freeLists := rfl
@[simp] theorem State.withGroups_nodes : (s.withGroups v).nodes = s.nodes := rfl
@[simp] theorem State.withGroups_lru : (s.withGroups v).lru = s.lru := rfl
@[simp] theorem State.withGroups_heldFrames : (s.withGroups v).heldFrames = s.heldFrames := rfl
@[simp] theorem State.withGroups_scopesDead : (s.withGroups v).scopesDead = s.scopesDead := rfl
@[simp] theorem State.withGroups_spills : (s.withGroups v).spills = s.spills := rfl
@[simp] theorem State.withGroups_links : (s.withGroups v).links = s.links := rfl
@[simp] theorem State.withGroups_members : (s.withGroups v).members = s.members := rfl
@[simp] theorem State.withGroups_spares : (s.withGroups v).spares = s.spares := rfl
@[simp] theorem State.withGroups_cachePeers : (s.withGroups v).cachePeers = s.cachePeers := rfl
@[simp] theorem State.withGroups_routes : (s.withGroups v).routes = s.routes := rfl
@[simp] theorem State.withGroups_fabReqs : (s.withGroups v).fabReqs = s.fabReqs := rfl
@[simp] theorem State.withGroups_nextTid : (s.withGroups v).nextTid = s.nextTid := rfl
@[simp] theorem State.withGroups_windows : (s.withGroups v).windows = s.windows := rfl
@[simp] theorem State.withGroups_peers : (s.withGroups v).peers = s.peers := rfl
@[simp] theorem State.withGroups_move : (s.withGroups v).move = s.move := rfl
@[simp] theorem State.withGroups_rings : (s.withGroups v).rings = s.rings := rfl
@[simp] theorem State.withGroups_slices : (s.withGroups v).slices = s.slices := rfl
@[simp] theorem State.withGroups_groups : (s.withGroups v).groups = v := rfl
@[simp] theorem State.withGroups_thaws : (s.withGroups v).thaws = s.thaws := rfl
@[simp] theorem State.withGroups_copies : (s.withGroups v).copies = s.copies := rfl
@[simp] theorem State.withGroups_heldCmds : (s.withGroups v).heldCmds = s.heldCmds := rfl
@[simp] theorem State.withGroups_coord : (s.withGroups v).coord = s.coord := rfl
@[simp] theorem State.withGroups_ctlWindow : (s.withGroups v).ctlWindow = s.ctlWindow := rfl
@[simp] theorem State.withGroups_ctlNeg : (s.withGroups v).ctlNeg = s.ctlNeg := rfl
@[simp] theorem State.withGroups_ctlNegPend : (s.withGroups v).ctlNegPend = s.ctlNegPend := rfl
@[simp] theorem State.withGroups_ctlAgreed : (s.withGroups v).ctlAgreed = s.ctlAgreed := rfl
@[simp] theorem State.withGroups_halves : (s.withGroups v).halves = s.halves := rfl
@[simp] theorem State.withGroups_ctlHb : (s.withGroups v).ctlHb = s.ctlHb := rfl
@[simp] theorem State.withGroups_events : (s.withGroups v).events = s.events := rfl
@[simp] theorem State.withGroups_procs : (s.withGroups v).procs = s.procs := rfl
@[simp] theorem State.withGroups_bring : (s.withGroups v).bring = s.bring := rfl
@[simp] theorem State.withGroups_sec : (s.withGroups v).sec = s.sec := rfl
@[simp] theorem State.withGroups_mgt : (s.withGroups v).mgt = s.mgt := rfl
@[simp] theorem State.withGroups_free : (s.withGroups v).free = s.free := rfl
@[simp] theorem State.withGroups_out : (s.withGroups v).out = s.out := rfl
@[simp] theorem State.rd_withGroups (f : Field) (i : Nat) : (s.withGroups v).rd f i = s.rd f i := rfl
end
section
variable (v : List (Nat × Nat × Nat × Bool))
@[simp] theorem State.withThaws_pending : (s.withThaws v).pending = s.pending := rfl
@[simp] theorem State.withThaws_regs : (s.withThaws v).regs = s.regs := rfl
@[simp] theorem State.withThaws_staged : (s.withThaws v).staged = s.staged := rfl
@[simp] theorem State.withThaws_mem : (s.withThaws v).mem = s.mem := rfl
@[simp] theorem State.withThaws_poison : (s.withThaws v).poison = s.poison := rfl
@[simp] theorem State.withThaws_lineKey : (s.withThaws v).lineKey = s.lineKey := rfl
@[simp] theorem State.withThaws_badCopy : (s.withThaws v).badCopy = s.badCopy := rfl
@[simp] theorem State.withThaws_keys : (s.withThaws v).keys = s.keys := rfl
@[simp] theorem State.withThaws_hostMem : (s.withThaws v).hostMem = s.hostMem := rfl
@[simp] theorem State.withThaws_hostBad : (s.withThaws v).hostBad = s.hostBad := rfl
@[simp] theorem State.withThaws_time : (s.withThaws v).time = s.time := rfl
@[simp] theorem State.withThaws_parts : (s.withThaws v).parts = s.parts := rfl
@[simp] theorem State.withThaws_cores : (s.withThaws v).cores = s.cores := rfl
@[simp] theorem State.withThaws_phys : (s.withThaws v).phys = s.phys := rfl
@[simp] theorem State.withThaws_threads : (s.withThaws v).threads = s.threads := rfl
@[simp] theorem State.withThaws_jobs : (s.withThaws v).jobs = s.jobs := rfl
@[simp] theorem State.withThaws_spurs : (s.withThaws v).spurs = s.spurs := rfl
@[simp] theorem State.withThaws_dmas : (s.withThaws v).dmas = s.dmas := rfl
@[simp] theorem State.withThaws_nocReqs : (s.withThaws v).nocReqs = s.nocReqs := rfl
@[simp] theorem State.withThaws_devErrs : (s.withThaws v).devErrs = s.devErrs := rfl
@[simp] theorem State.withThaws_sramErrs : (s.withThaws v).sramErrs = s.sramErrs := rfl
@[simp] theorem State.withThaws_sramUe : (s.withThaws v).sramUe = s.sramUe := rfl
@[simp] theorem State.withThaws_planHdr : (s.withThaws v).planHdr = s.planHdr := rfl
@[simp] theorem State.withThaws_cells : (s.withThaws v).cells = s.cells := rfl
@[simp] theorem State.withThaws_subports : (s.withThaws v).subports = s.subports := rfl
@[simp] theorem State.withThaws_chains : (s.withThaws v).chains = s.chains := rfl
@[simp] theorem State.withThaws_fhBufs : (s.withThaws v).fhBufs = s.fhBufs := rfl
@[simp] theorem State.withThaws_seqs : (s.withThaws v).seqs = s.seqs := rfl
@[simp] theorem State.withThaws_cmds : (s.withThaws v).cmds = s.cmds := rfl
@[simp] theorem State.withThaws_nextCmd : (s.withThaws v).nextCmd = s.nextCmd := rfl
@[simp] theorem State.withThaws_passes : (s.withThaws v).passes = s.passes := rfl
@[simp] theorem State.withThaws_nextPass : (s.withThaws v).nextPass = s.nextPass := rfl
@[simp] theorem State.withThaws_models : (s.withThaws v).models = s.models := rfl
@[simp] theorem State.withThaws_deltas : (s.withThaws v).deltas = s.deltas := rfl
@[simp] theorem State.withThaws_loads : (s.withThaws v).loads = s.loads := rfl
@[simp] theorem State.withThaws_lastAdm : (s.withThaws v).lastAdm = s.lastAdm := rfl
@[simp] theorem State.withThaws_frames : (s.withThaws v).frames = s.frames := rfl
@[simp] theorem State.withThaws_chunks : (s.withThaws v).chunks = s.chunks := rfl
@[simp] theorem State.withThaws_freeLists : (s.withThaws v).freeLists = s.freeLists := rfl
@[simp] theorem State.withThaws_nodes : (s.withThaws v).nodes = s.nodes := rfl
@[simp] theorem State.withThaws_lru : (s.withThaws v).lru = s.lru := rfl
@[simp] theorem State.withThaws_heldFrames : (s.withThaws v).heldFrames = s.heldFrames := rfl
@[simp] theorem State.withThaws_scopesDead : (s.withThaws v).scopesDead = s.scopesDead := rfl
@[simp] theorem State.withThaws_spills : (s.withThaws v).spills = s.spills := rfl
@[simp] theorem State.withThaws_links : (s.withThaws v).links = s.links := rfl
@[simp] theorem State.withThaws_members : (s.withThaws v).members = s.members := rfl
@[simp] theorem State.withThaws_spares : (s.withThaws v).spares = s.spares := rfl
@[simp] theorem State.withThaws_cachePeers : (s.withThaws v).cachePeers = s.cachePeers := rfl
@[simp] theorem State.withThaws_routes : (s.withThaws v).routes = s.routes := rfl
@[simp] theorem State.withThaws_fabReqs : (s.withThaws v).fabReqs = s.fabReqs := rfl
@[simp] theorem State.withThaws_nextTid : (s.withThaws v).nextTid = s.nextTid := rfl
@[simp] theorem State.withThaws_windows : (s.withThaws v).windows = s.windows := rfl
@[simp] theorem State.withThaws_peers : (s.withThaws v).peers = s.peers := rfl
@[simp] theorem State.withThaws_move : (s.withThaws v).move = s.move := rfl
@[simp] theorem State.withThaws_rings : (s.withThaws v).rings = s.rings := rfl
@[simp] theorem State.withThaws_slices : (s.withThaws v).slices = s.slices := rfl
@[simp] theorem State.withThaws_groups : (s.withThaws v).groups = s.groups := rfl
@[simp] theorem State.withThaws_thaws : (s.withThaws v).thaws = v := rfl
@[simp] theorem State.withThaws_copies : (s.withThaws v).copies = s.copies := rfl
@[simp] theorem State.withThaws_heldCmds : (s.withThaws v).heldCmds = s.heldCmds := rfl
@[simp] theorem State.withThaws_coord : (s.withThaws v).coord = s.coord := rfl
@[simp] theorem State.withThaws_ctlWindow : (s.withThaws v).ctlWindow = s.ctlWindow := rfl
@[simp] theorem State.withThaws_ctlNeg : (s.withThaws v).ctlNeg = s.ctlNeg := rfl
@[simp] theorem State.withThaws_ctlNegPend : (s.withThaws v).ctlNegPend = s.ctlNegPend := rfl
@[simp] theorem State.withThaws_ctlAgreed : (s.withThaws v).ctlAgreed = s.ctlAgreed := rfl
@[simp] theorem State.withThaws_halves : (s.withThaws v).halves = s.halves := rfl
@[simp] theorem State.withThaws_ctlHb : (s.withThaws v).ctlHb = s.ctlHb := rfl
@[simp] theorem State.withThaws_events : (s.withThaws v).events = s.events := rfl
@[simp] theorem State.withThaws_procs : (s.withThaws v).procs = s.procs := rfl
@[simp] theorem State.withThaws_bring : (s.withThaws v).bring = s.bring := rfl
@[simp] theorem State.withThaws_sec : (s.withThaws v).sec = s.sec := rfl
@[simp] theorem State.withThaws_mgt : (s.withThaws v).mgt = s.mgt := rfl
@[simp] theorem State.withThaws_free : (s.withThaws v).free = s.free := rfl
@[simp] theorem State.withThaws_out : (s.withThaws v).out = s.out := rfl
@[simp] theorem State.rd_withThaws (f : Field) (i : Nat) : (s.withThaws v).rd f i = s.rd f i := rfl
end
section
variable (v : List HostCopy)
@[simp] theorem State.withCopies_pending : (s.withCopies v).pending = s.pending := rfl
@[simp] theorem State.withCopies_regs : (s.withCopies v).regs = s.regs := rfl
@[simp] theorem State.withCopies_staged : (s.withCopies v).staged = s.staged := rfl
@[simp] theorem State.withCopies_mem : (s.withCopies v).mem = s.mem := rfl
@[simp] theorem State.withCopies_poison : (s.withCopies v).poison = s.poison := rfl
@[simp] theorem State.withCopies_lineKey : (s.withCopies v).lineKey = s.lineKey := rfl
@[simp] theorem State.withCopies_badCopy : (s.withCopies v).badCopy = s.badCopy := rfl
@[simp] theorem State.withCopies_keys : (s.withCopies v).keys = s.keys := rfl
@[simp] theorem State.withCopies_hostMem : (s.withCopies v).hostMem = s.hostMem := rfl
@[simp] theorem State.withCopies_hostBad : (s.withCopies v).hostBad = s.hostBad := rfl
@[simp] theorem State.withCopies_time : (s.withCopies v).time = s.time := rfl
@[simp] theorem State.withCopies_parts : (s.withCopies v).parts = s.parts := rfl
@[simp] theorem State.withCopies_cores : (s.withCopies v).cores = s.cores := rfl
@[simp] theorem State.withCopies_phys : (s.withCopies v).phys = s.phys := rfl
@[simp] theorem State.withCopies_threads : (s.withCopies v).threads = s.threads := rfl
@[simp] theorem State.withCopies_jobs : (s.withCopies v).jobs = s.jobs := rfl
@[simp] theorem State.withCopies_spurs : (s.withCopies v).spurs = s.spurs := rfl
@[simp] theorem State.withCopies_dmas : (s.withCopies v).dmas = s.dmas := rfl
@[simp] theorem State.withCopies_nocReqs : (s.withCopies v).nocReqs = s.nocReqs := rfl
@[simp] theorem State.withCopies_devErrs : (s.withCopies v).devErrs = s.devErrs := rfl
@[simp] theorem State.withCopies_sramErrs : (s.withCopies v).sramErrs = s.sramErrs := rfl
@[simp] theorem State.withCopies_sramUe : (s.withCopies v).sramUe = s.sramUe := rfl
@[simp] theorem State.withCopies_planHdr : (s.withCopies v).planHdr = s.planHdr := rfl
@[simp] theorem State.withCopies_cells : (s.withCopies v).cells = s.cells := rfl
@[simp] theorem State.withCopies_subports : (s.withCopies v).subports = s.subports := rfl
@[simp] theorem State.withCopies_chains : (s.withCopies v).chains = s.chains := rfl
@[simp] theorem State.withCopies_fhBufs : (s.withCopies v).fhBufs = s.fhBufs := rfl
@[simp] theorem State.withCopies_seqs : (s.withCopies v).seqs = s.seqs := rfl
@[simp] theorem State.withCopies_cmds : (s.withCopies v).cmds = s.cmds := rfl
@[simp] theorem State.withCopies_nextCmd : (s.withCopies v).nextCmd = s.nextCmd := rfl
@[simp] theorem State.withCopies_passes : (s.withCopies v).passes = s.passes := rfl
@[simp] theorem State.withCopies_nextPass : (s.withCopies v).nextPass = s.nextPass := rfl
@[simp] theorem State.withCopies_models : (s.withCopies v).models = s.models := rfl
@[simp] theorem State.withCopies_deltas : (s.withCopies v).deltas = s.deltas := rfl
@[simp] theorem State.withCopies_loads : (s.withCopies v).loads = s.loads := rfl
@[simp] theorem State.withCopies_lastAdm : (s.withCopies v).lastAdm = s.lastAdm := rfl
@[simp] theorem State.withCopies_frames : (s.withCopies v).frames = s.frames := rfl
@[simp] theorem State.withCopies_chunks : (s.withCopies v).chunks = s.chunks := rfl
@[simp] theorem State.withCopies_freeLists : (s.withCopies v).freeLists = s.freeLists := rfl
@[simp] theorem State.withCopies_nodes : (s.withCopies v).nodes = s.nodes := rfl
@[simp] theorem State.withCopies_lru : (s.withCopies v).lru = s.lru := rfl
@[simp] theorem State.withCopies_heldFrames : (s.withCopies v).heldFrames = s.heldFrames := rfl
@[simp] theorem State.withCopies_scopesDead : (s.withCopies v).scopesDead = s.scopesDead := rfl
@[simp] theorem State.withCopies_spills : (s.withCopies v).spills = s.spills := rfl
@[simp] theorem State.withCopies_links : (s.withCopies v).links = s.links := rfl
@[simp] theorem State.withCopies_members : (s.withCopies v).members = s.members := rfl
@[simp] theorem State.withCopies_spares : (s.withCopies v).spares = s.spares := rfl
@[simp] theorem State.withCopies_cachePeers : (s.withCopies v).cachePeers = s.cachePeers := rfl
@[simp] theorem State.withCopies_routes : (s.withCopies v).routes = s.routes := rfl
@[simp] theorem State.withCopies_fabReqs : (s.withCopies v).fabReqs = s.fabReqs := rfl
@[simp] theorem State.withCopies_nextTid : (s.withCopies v).nextTid = s.nextTid := rfl
@[simp] theorem State.withCopies_windows : (s.withCopies v).windows = s.windows := rfl
@[simp] theorem State.withCopies_peers : (s.withCopies v).peers = s.peers := rfl
@[simp] theorem State.withCopies_move : (s.withCopies v).move = s.move := rfl
@[simp] theorem State.withCopies_rings : (s.withCopies v).rings = s.rings := rfl
@[simp] theorem State.withCopies_slices : (s.withCopies v).slices = s.slices := rfl
@[simp] theorem State.withCopies_groups : (s.withCopies v).groups = s.groups := rfl
@[simp] theorem State.withCopies_thaws : (s.withCopies v).thaws = s.thaws := rfl
@[simp] theorem State.withCopies_copies : (s.withCopies v).copies = v := rfl
@[simp] theorem State.withCopies_heldCmds : (s.withCopies v).heldCmds = s.heldCmds := rfl
@[simp] theorem State.withCopies_coord : (s.withCopies v).coord = s.coord := rfl
@[simp] theorem State.withCopies_ctlWindow : (s.withCopies v).ctlWindow = s.ctlWindow := rfl
@[simp] theorem State.withCopies_ctlNeg : (s.withCopies v).ctlNeg = s.ctlNeg := rfl
@[simp] theorem State.withCopies_ctlNegPend : (s.withCopies v).ctlNegPend = s.ctlNegPend := rfl
@[simp] theorem State.withCopies_ctlAgreed : (s.withCopies v).ctlAgreed = s.ctlAgreed := rfl
@[simp] theorem State.withCopies_halves : (s.withCopies v).halves = s.halves := rfl
@[simp] theorem State.withCopies_ctlHb : (s.withCopies v).ctlHb = s.ctlHb := rfl
@[simp] theorem State.withCopies_events : (s.withCopies v).events = s.events := rfl
@[simp] theorem State.withCopies_procs : (s.withCopies v).procs = s.procs := rfl
@[simp] theorem State.withCopies_bring : (s.withCopies v).bring = s.bring := rfl
@[simp] theorem State.withCopies_sec : (s.withCopies v).sec = s.sec := rfl
@[simp] theorem State.withCopies_mgt : (s.withCopies v).mgt = s.mgt := rfl
@[simp] theorem State.withCopies_free : (s.withCopies v).free = s.free := rfl
@[simp] theorem State.withCopies_out : (s.withCopies v).out = s.out := rfl
@[simp] theorem State.rd_withCopies (f : Field) (i : Nat) : (s.withCopies v).rd f i = s.rd f i := rfl
end
section
variable (v : List Held)
@[simp] theorem State.withHeldCmds_pending : (s.withHeldCmds v).pending = s.pending := rfl
@[simp] theorem State.withHeldCmds_regs : (s.withHeldCmds v).regs = s.regs := rfl
@[simp] theorem State.withHeldCmds_staged : (s.withHeldCmds v).staged = s.staged := rfl
@[simp] theorem State.withHeldCmds_mem : (s.withHeldCmds v).mem = s.mem := rfl
@[simp] theorem State.withHeldCmds_poison : (s.withHeldCmds v).poison = s.poison := rfl
@[simp] theorem State.withHeldCmds_lineKey : (s.withHeldCmds v).lineKey = s.lineKey := rfl
@[simp] theorem State.withHeldCmds_badCopy : (s.withHeldCmds v).badCopy = s.badCopy := rfl
@[simp] theorem State.withHeldCmds_keys : (s.withHeldCmds v).keys = s.keys := rfl
@[simp] theorem State.withHeldCmds_hostMem : (s.withHeldCmds v).hostMem = s.hostMem := rfl
@[simp] theorem State.withHeldCmds_hostBad : (s.withHeldCmds v).hostBad = s.hostBad := rfl
@[simp] theorem State.withHeldCmds_time : (s.withHeldCmds v).time = s.time := rfl
@[simp] theorem State.withHeldCmds_parts : (s.withHeldCmds v).parts = s.parts := rfl
@[simp] theorem State.withHeldCmds_cores : (s.withHeldCmds v).cores = s.cores := rfl
@[simp] theorem State.withHeldCmds_phys : (s.withHeldCmds v).phys = s.phys := rfl
@[simp] theorem State.withHeldCmds_threads : (s.withHeldCmds v).threads = s.threads := rfl
@[simp] theorem State.withHeldCmds_jobs : (s.withHeldCmds v).jobs = s.jobs := rfl
@[simp] theorem State.withHeldCmds_spurs : (s.withHeldCmds v).spurs = s.spurs := rfl
@[simp] theorem State.withHeldCmds_dmas : (s.withHeldCmds v).dmas = s.dmas := rfl
@[simp] theorem State.withHeldCmds_nocReqs : (s.withHeldCmds v).nocReqs = s.nocReqs := rfl
@[simp] theorem State.withHeldCmds_devErrs : (s.withHeldCmds v).devErrs = s.devErrs := rfl
@[simp] theorem State.withHeldCmds_sramErrs : (s.withHeldCmds v).sramErrs = s.sramErrs := rfl
@[simp] theorem State.withHeldCmds_sramUe : (s.withHeldCmds v).sramUe = s.sramUe := rfl
@[simp] theorem State.withHeldCmds_planHdr : (s.withHeldCmds v).planHdr = s.planHdr := rfl
@[simp] theorem State.withHeldCmds_cells : (s.withHeldCmds v).cells = s.cells := rfl
@[simp] theorem State.withHeldCmds_subports : (s.withHeldCmds v).subports = s.subports := rfl
@[simp] theorem State.withHeldCmds_chains : (s.withHeldCmds v).chains = s.chains := rfl
@[simp] theorem State.withHeldCmds_fhBufs : (s.withHeldCmds v).fhBufs = s.fhBufs := rfl
@[simp] theorem State.withHeldCmds_seqs : (s.withHeldCmds v).seqs = s.seqs := rfl
@[simp] theorem State.withHeldCmds_cmds : (s.withHeldCmds v).cmds = s.cmds := rfl
@[simp] theorem State.withHeldCmds_nextCmd : (s.withHeldCmds v).nextCmd = s.nextCmd := rfl
@[simp] theorem State.withHeldCmds_passes : (s.withHeldCmds v).passes = s.passes := rfl
@[simp] theorem State.withHeldCmds_nextPass : (s.withHeldCmds v).nextPass = s.nextPass := rfl
@[simp] theorem State.withHeldCmds_models : (s.withHeldCmds v).models = s.models := rfl
@[simp] theorem State.withHeldCmds_deltas : (s.withHeldCmds v).deltas = s.deltas := rfl
@[simp] theorem State.withHeldCmds_loads : (s.withHeldCmds v).loads = s.loads := rfl
@[simp] theorem State.withHeldCmds_lastAdm : (s.withHeldCmds v).lastAdm = s.lastAdm := rfl
@[simp] theorem State.withHeldCmds_frames : (s.withHeldCmds v).frames = s.frames := rfl
@[simp] theorem State.withHeldCmds_chunks : (s.withHeldCmds v).chunks = s.chunks := rfl
@[simp] theorem State.withHeldCmds_freeLists : (s.withHeldCmds v).freeLists = s.freeLists := rfl
@[simp] theorem State.withHeldCmds_nodes : (s.withHeldCmds v).nodes = s.nodes := rfl
@[simp] theorem State.withHeldCmds_lru : (s.withHeldCmds v).lru = s.lru := rfl
@[simp] theorem State.withHeldCmds_heldFrames : (s.withHeldCmds v).heldFrames = s.heldFrames := rfl
@[simp] theorem State.withHeldCmds_scopesDead : (s.withHeldCmds v).scopesDead = s.scopesDead := rfl
@[simp] theorem State.withHeldCmds_spills : (s.withHeldCmds v).spills = s.spills := rfl
@[simp] theorem State.withHeldCmds_links : (s.withHeldCmds v).links = s.links := rfl
@[simp] theorem State.withHeldCmds_members : (s.withHeldCmds v).members = s.members := rfl
@[simp] theorem State.withHeldCmds_spares : (s.withHeldCmds v).spares = s.spares := rfl
@[simp] theorem State.withHeldCmds_cachePeers : (s.withHeldCmds v).cachePeers = s.cachePeers := rfl
@[simp] theorem State.withHeldCmds_routes : (s.withHeldCmds v).routes = s.routes := rfl
@[simp] theorem State.withHeldCmds_fabReqs : (s.withHeldCmds v).fabReqs = s.fabReqs := rfl
@[simp] theorem State.withHeldCmds_nextTid : (s.withHeldCmds v).nextTid = s.nextTid := rfl
@[simp] theorem State.withHeldCmds_windows : (s.withHeldCmds v).windows = s.windows := rfl
@[simp] theorem State.withHeldCmds_peers : (s.withHeldCmds v).peers = s.peers := rfl
@[simp] theorem State.withHeldCmds_move : (s.withHeldCmds v).move = s.move := rfl
@[simp] theorem State.withHeldCmds_rings : (s.withHeldCmds v).rings = s.rings := rfl
@[simp] theorem State.withHeldCmds_slices : (s.withHeldCmds v).slices = s.slices := rfl
@[simp] theorem State.withHeldCmds_groups : (s.withHeldCmds v).groups = s.groups := rfl
@[simp] theorem State.withHeldCmds_thaws : (s.withHeldCmds v).thaws = s.thaws := rfl
@[simp] theorem State.withHeldCmds_copies : (s.withHeldCmds v).copies = s.copies := rfl
@[simp] theorem State.withHeldCmds_heldCmds : (s.withHeldCmds v).heldCmds = v := rfl
@[simp] theorem State.withHeldCmds_coord : (s.withHeldCmds v).coord = s.coord := rfl
@[simp] theorem State.withHeldCmds_ctlWindow : (s.withHeldCmds v).ctlWindow = s.ctlWindow := rfl
@[simp] theorem State.withHeldCmds_ctlNeg : (s.withHeldCmds v).ctlNeg = s.ctlNeg := rfl
@[simp] theorem State.withHeldCmds_ctlNegPend : (s.withHeldCmds v).ctlNegPend = s.ctlNegPend := rfl
@[simp] theorem State.withHeldCmds_ctlAgreed : (s.withHeldCmds v).ctlAgreed = s.ctlAgreed := rfl
@[simp] theorem State.withHeldCmds_halves : (s.withHeldCmds v).halves = s.halves := rfl
@[simp] theorem State.withHeldCmds_ctlHb : (s.withHeldCmds v).ctlHb = s.ctlHb := rfl
@[simp] theorem State.withHeldCmds_events : (s.withHeldCmds v).events = s.events := rfl
@[simp] theorem State.withHeldCmds_procs : (s.withHeldCmds v).procs = s.procs := rfl
@[simp] theorem State.withHeldCmds_bring : (s.withHeldCmds v).bring = s.bring := rfl
@[simp] theorem State.withHeldCmds_sec : (s.withHeldCmds v).sec = s.sec := rfl
@[simp] theorem State.withHeldCmds_mgt : (s.withHeldCmds v).mgt = s.mgt := rfl
@[simp] theorem State.withHeldCmds_free : (s.withHeldCmds v).free = s.free := rfl
@[simp] theorem State.withHeldCmds_out : (s.withHeldCmds v).out = s.out := rfl
@[simp] theorem State.rd_withHeldCmds (f : Field) (i : Nat) : (s.withHeldCmds v).rd f i = s.rd f i := rfl
end
section
variable (v : Option Nat)
@[simp] theorem State.withCoord_pending : (s.withCoord v).pending = s.pending := rfl
@[simp] theorem State.withCoord_regs : (s.withCoord v).regs = s.regs := rfl
@[simp] theorem State.withCoord_staged : (s.withCoord v).staged = s.staged := rfl
@[simp] theorem State.withCoord_mem : (s.withCoord v).mem = s.mem := rfl
@[simp] theorem State.withCoord_poison : (s.withCoord v).poison = s.poison := rfl
@[simp] theorem State.withCoord_lineKey : (s.withCoord v).lineKey = s.lineKey := rfl
@[simp] theorem State.withCoord_badCopy : (s.withCoord v).badCopy = s.badCopy := rfl
@[simp] theorem State.withCoord_keys : (s.withCoord v).keys = s.keys := rfl
@[simp] theorem State.withCoord_hostMem : (s.withCoord v).hostMem = s.hostMem := rfl
@[simp] theorem State.withCoord_hostBad : (s.withCoord v).hostBad = s.hostBad := rfl
@[simp] theorem State.withCoord_time : (s.withCoord v).time = s.time := rfl
@[simp] theorem State.withCoord_parts : (s.withCoord v).parts = s.parts := rfl
@[simp] theorem State.withCoord_cores : (s.withCoord v).cores = s.cores := rfl
@[simp] theorem State.withCoord_phys : (s.withCoord v).phys = s.phys := rfl
@[simp] theorem State.withCoord_threads : (s.withCoord v).threads = s.threads := rfl
@[simp] theorem State.withCoord_jobs : (s.withCoord v).jobs = s.jobs := rfl
@[simp] theorem State.withCoord_spurs : (s.withCoord v).spurs = s.spurs := rfl
@[simp] theorem State.withCoord_dmas : (s.withCoord v).dmas = s.dmas := rfl
@[simp] theorem State.withCoord_nocReqs : (s.withCoord v).nocReqs = s.nocReqs := rfl
@[simp] theorem State.withCoord_devErrs : (s.withCoord v).devErrs = s.devErrs := rfl
@[simp] theorem State.withCoord_sramErrs : (s.withCoord v).sramErrs = s.sramErrs := rfl
@[simp] theorem State.withCoord_sramUe : (s.withCoord v).sramUe = s.sramUe := rfl
@[simp] theorem State.withCoord_planHdr : (s.withCoord v).planHdr = s.planHdr := rfl
@[simp] theorem State.withCoord_cells : (s.withCoord v).cells = s.cells := rfl
@[simp] theorem State.withCoord_subports : (s.withCoord v).subports = s.subports := rfl
@[simp] theorem State.withCoord_chains : (s.withCoord v).chains = s.chains := rfl
@[simp] theorem State.withCoord_fhBufs : (s.withCoord v).fhBufs = s.fhBufs := rfl
@[simp] theorem State.withCoord_seqs : (s.withCoord v).seqs = s.seqs := rfl
@[simp] theorem State.withCoord_cmds : (s.withCoord v).cmds = s.cmds := rfl
@[simp] theorem State.withCoord_nextCmd : (s.withCoord v).nextCmd = s.nextCmd := rfl
@[simp] theorem State.withCoord_passes : (s.withCoord v).passes = s.passes := rfl
@[simp] theorem State.withCoord_nextPass : (s.withCoord v).nextPass = s.nextPass := rfl
@[simp] theorem State.withCoord_models : (s.withCoord v).models = s.models := rfl
@[simp] theorem State.withCoord_deltas : (s.withCoord v).deltas = s.deltas := rfl
@[simp] theorem State.withCoord_loads : (s.withCoord v).loads = s.loads := rfl
@[simp] theorem State.withCoord_lastAdm : (s.withCoord v).lastAdm = s.lastAdm := rfl
@[simp] theorem State.withCoord_frames : (s.withCoord v).frames = s.frames := rfl
@[simp] theorem State.withCoord_chunks : (s.withCoord v).chunks = s.chunks := rfl
@[simp] theorem State.withCoord_freeLists : (s.withCoord v).freeLists = s.freeLists := rfl
@[simp] theorem State.withCoord_nodes : (s.withCoord v).nodes = s.nodes := rfl
@[simp] theorem State.withCoord_lru : (s.withCoord v).lru = s.lru := rfl
@[simp] theorem State.withCoord_heldFrames : (s.withCoord v).heldFrames = s.heldFrames := rfl
@[simp] theorem State.withCoord_scopesDead : (s.withCoord v).scopesDead = s.scopesDead := rfl
@[simp] theorem State.withCoord_spills : (s.withCoord v).spills = s.spills := rfl
@[simp] theorem State.withCoord_links : (s.withCoord v).links = s.links := rfl
@[simp] theorem State.withCoord_members : (s.withCoord v).members = s.members := rfl
@[simp] theorem State.withCoord_spares : (s.withCoord v).spares = s.spares := rfl
@[simp] theorem State.withCoord_cachePeers : (s.withCoord v).cachePeers = s.cachePeers := rfl
@[simp] theorem State.withCoord_routes : (s.withCoord v).routes = s.routes := rfl
@[simp] theorem State.withCoord_fabReqs : (s.withCoord v).fabReqs = s.fabReqs := rfl
@[simp] theorem State.withCoord_nextTid : (s.withCoord v).nextTid = s.nextTid := rfl
@[simp] theorem State.withCoord_windows : (s.withCoord v).windows = s.windows := rfl
@[simp] theorem State.withCoord_peers : (s.withCoord v).peers = s.peers := rfl
@[simp] theorem State.withCoord_move : (s.withCoord v).move = s.move := rfl
@[simp] theorem State.withCoord_rings : (s.withCoord v).rings = s.rings := rfl
@[simp] theorem State.withCoord_slices : (s.withCoord v).slices = s.slices := rfl
@[simp] theorem State.withCoord_groups : (s.withCoord v).groups = s.groups := rfl
@[simp] theorem State.withCoord_thaws : (s.withCoord v).thaws = s.thaws := rfl
@[simp] theorem State.withCoord_copies : (s.withCoord v).copies = s.copies := rfl
@[simp] theorem State.withCoord_heldCmds : (s.withCoord v).heldCmds = s.heldCmds := rfl
@[simp] theorem State.withCoord_coord : (s.withCoord v).coord = v := rfl
@[simp] theorem State.withCoord_ctlWindow : (s.withCoord v).ctlWindow = s.ctlWindow := rfl
@[simp] theorem State.withCoord_ctlNeg : (s.withCoord v).ctlNeg = s.ctlNeg := rfl
@[simp] theorem State.withCoord_ctlNegPend : (s.withCoord v).ctlNegPend = s.ctlNegPend := rfl
@[simp] theorem State.withCoord_ctlAgreed : (s.withCoord v).ctlAgreed = s.ctlAgreed := rfl
@[simp] theorem State.withCoord_halves : (s.withCoord v).halves = s.halves := rfl
@[simp] theorem State.withCoord_ctlHb : (s.withCoord v).ctlHb = s.ctlHb := rfl
@[simp] theorem State.withCoord_events : (s.withCoord v).events = s.events := rfl
@[simp] theorem State.withCoord_procs : (s.withCoord v).procs = s.procs := rfl
@[simp] theorem State.withCoord_bring : (s.withCoord v).bring = s.bring := rfl
@[simp] theorem State.withCoord_sec : (s.withCoord v).sec = s.sec := rfl
@[simp] theorem State.withCoord_mgt : (s.withCoord v).mgt = s.mgt := rfl
@[simp] theorem State.withCoord_free : (s.withCoord v).free = s.free := rfl
@[simp] theorem State.withCoord_out : (s.withCoord v).out = s.out := rfl
@[simp] theorem State.rd_withCoord (f : Field) (i : Nat) : (s.withCoord v).rd f i = s.rd f i := rfl
end
section
variable (v : List CqEntry)
@[simp] theorem State.withCtlWindow_pending : (s.withCtlWindow v).pending = s.pending := rfl
@[simp] theorem State.withCtlWindow_regs : (s.withCtlWindow v).regs = s.regs := rfl
@[simp] theorem State.withCtlWindow_staged : (s.withCtlWindow v).staged = s.staged := rfl
@[simp] theorem State.withCtlWindow_mem : (s.withCtlWindow v).mem = s.mem := rfl
@[simp] theorem State.withCtlWindow_poison : (s.withCtlWindow v).poison = s.poison := rfl
@[simp] theorem State.withCtlWindow_lineKey : (s.withCtlWindow v).lineKey = s.lineKey := rfl
@[simp] theorem State.withCtlWindow_badCopy : (s.withCtlWindow v).badCopy = s.badCopy := rfl
@[simp] theorem State.withCtlWindow_keys : (s.withCtlWindow v).keys = s.keys := rfl
@[simp] theorem State.withCtlWindow_hostMem : (s.withCtlWindow v).hostMem = s.hostMem := rfl
@[simp] theorem State.withCtlWindow_hostBad : (s.withCtlWindow v).hostBad = s.hostBad := rfl
@[simp] theorem State.withCtlWindow_time : (s.withCtlWindow v).time = s.time := rfl
@[simp] theorem State.withCtlWindow_parts : (s.withCtlWindow v).parts = s.parts := rfl
@[simp] theorem State.withCtlWindow_cores : (s.withCtlWindow v).cores = s.cores := rfl
@[simp] theorem State.withCtlWindow_phys : (s.withCtlWindow v).phys = s.phys := rfl
@[simp] theorem State.withCtlWindow_threads : (s.withCtlWindow v).threads = s.threads := rfl
@[simp] theorem State.withCtlWindow_jobs : (s.withCtlWindow v).jobs = s.jobs := rfl
@[simp] theorem State.withCtlWindow_spurs : (s.withCtlWindow v).spurs = s.spurs := rfl
@[simp] theorem State.withCtlWindow_dmas : (s.withCtlWindow v).dmas = s.dmas := rfl
@[simp] theorem State.withCtlWindow_nocReqs : (s.withCtlWindow v).nocReqs = s.nocReqs := rfl
@[simp] theorem State.withCtlWindow_devErrs : (s.withCtlWindow v).devErrs = s.devErrs := rfl
@[simp] theorem State.withCtlWindow_sramErrs : (s.withCtlWindow v).sramErrs = s.sramErrs := rfl
@[simp] theorem State.withCtlWindow_sramUe : (s.withCtlWindow v).sramUe = s.sramUe := rfl
@[simp] theorem State.withCtlWindow_planHdr : (s.withCtlWindow v).planHdr = s.planHdr := rfl
@[simp] theorem State.withCtlWindow_cells : (s.withCtlWindow v).cells = s.cells := rfl
@[simp] theorem State.withCtlWindow_subports : (s.withCtlWindow v).subports = s.subports := rfl
@[simp] theorem State.withCtlWindow_chains : (s.withCtlWindow v).chains = s.chains := rfl
@[simp] theorem State.withCtlWindow_fhBufs : (s.withCtlWindow v).fhBufs = s.fhBufs := rfl
@[simp] theorem State.withCtlWindow_seqs : (s.withCtlWindow v).seqs = s.seqs := rfl
@[simp] theorem State.withCtlWindow_cmds : (s.withCtlWindow v).cmds = s.cmds := rfl
@[simp] theorem State.withCtlWindow_nextCmd : (s.withCtlWindow v).nextCmd = s.nextCmd := rfl
@[simp] theorem State.withCtlWindow_passes : (s.withCtlWindow v).passes = s.passes := rfl
@[simp] theorem State.withCtlWindow_nextPass : (s.withCtlWindow v).nextPass = s.nextPass := rfl
@[simp] theorem State.withCtlWindow_models : (s.withCtlWindow v).models = s.models := rfl
@[simp] theorem State.withCtlWindow_deltas : (s.withCtlWindow v).deltas = s.deltas := rfl
@[simp] theorem State.withCtlWindow_loads : (s.withCtlWindow v).loads = s.loads := rfl
@[simp] theorem State.withCtlWindow_lastAdm : (s.withCtlWindow v).lastAdm = s.lastAdm := rfl
@[simp] theorem State.withCtlWindow_frames : (s.withCtlWindow v).frames = s.frames := rfl
@[simp] theorem State.withCtlWindow_chunks : (s.withCtlWindow v).chunks = s.chunks := rfl
@[simp] theorem State.withCtlWindow_freeLists : (s.withCtlWindow v).freeLists = s.freeLists := rfl
@[simp] theorem State.withCtlWindow_nodes : (s.withCtlWindow v).nodes = s.nodes := rfl
@[simp] theorem State.withCtlWindow_lru : (s.withCtlWindow v).lru = s.lru := rfl
@[simp] theorem State.withCtlWindow_heldFrames : (s.withCtlWindow v).heldFrames = s.heldFrames := rfl
@[simp] theorem State.withCtlWindow_scopesDead : (s.withCtlWindow v).scopesDead = s.scopesDead := rfl
@[simp] theorem State.withCtlWindow_spills : (s.withCtlWindow v).spills = s.spills := rfl
@[simp] theorem State.withCtlWindow_links : (s.withCtlWindow v).links = s.links := rfl
@[simp] theorem State.withCtlWindow_members : (s.withCtlWindow v).members = s.members := rfl
@[simp] theorem State.withCtlWindow_spares : (s.withCtlWindow v).spares = s.spares := rfl
@[simp] theorem State.withCtlWindow_cachePeers : (s.withCtlWindow v).cachePeers = s.cachePeers := rfl
@[simp] theorem State.withCtlWindow_routes : (s.withCtlWindow v).routes = s.routes := rfl
@[simp] theorem State.withCtlWindow_fabReqs : (s.withCtlWindow v).fabReqs = s.fabReqs := rfl
@[simp] theorem State.withCtlWindow_nextTid : (s.withCtlWindow v).nextTid = s.nextTid := rfl
@[simp] theorem State.withCtlWindow_windows : (s.withCtlWindow v).windows = s.windows := rfl
@[simp] theorem State.withCtlWindow_peers : (s.withCtlWindow v).peers = s.peers := rfl
@[simp] theorem State.withCtlWindow_move : (s.withCtlWindow v).move = s.move := rfl
@[simp] theorem State.withCtlWindow_rings : (s.withCtlWindow v).rings = s.rings := rfl
@[simp] theorem State.withCtlWindow_slices : (s.withCtlWindow v).slices = s.slices := rfl
@[simp] theorem State.withCtlWindow_groups : (s.withCtlWindow v).groups = s.groups := rfl
@[simp] theorem State.withCtlWindow_thaws : (s.withCtlWindow v).thaws = s.thaws := rfl
@[simp] theorem State.withCtlWindow_copies : (s.withCtlWindow v).copies = s.copies := rfl
@[simp] theorem State.withCtlWindow_heldCmds : (s.withCtlWindow v).heldCmds = s.heldCmds := rfl
@[simp] theorem State.withCtlWindow_coord : (s.withCtlWindow v).coord = s.coord := rfl
@[simp] theorem State.withCtlWindow_ctlWindow : (s.withCtlWindow v).ctlWindow = v := rfl
@[simp] theorem State.withCtlWindow_ctlNeg : (s.withCtlWindow v).ctlNeg = s.ctlNeg := rfl
@[simp] theorem State.withCtlWindow_ctlNegPend : (s.withCtlWindow v).ctlNegPend = s.ctlNegPend := rfl
@[simp] theorem State.withCtlWindow_ctlAgreed : (s.withCtlWindow v).ctlAgreed = s.ctlAgreed := rfl
@[simp] theorem State.withCtlWindow_halves : (s.withCtlWindow v).halves = s.halves := rfl
@[simp] theorem State.withCtlWindow_ctlHb : (s.withCtlWindow v).ctlHb = s.ctlHb := rfl
@[simp] theorem State.withCtlWindow_events : (s.withCtlWindow v).events = s.events := rfl
@[simp] theorem State.withCtlWindow_procs : (s.withCtlWindow v).procs = s.procs := rfl
@[simp] theorem State.withCtlWindow_bring : (s.withCtlWindow v).bring = s.bring := rfl
@[simp] theorem State.withCtlWindow_sec : (s.withCtlWindow v).sec = s.sec := rfl
@[simp] theorem State.withCtlWindow_mgt : (s.withCtlWindow v).mgt = s.mgt := rfl
@[simp] theorem State.withCtlWindow_free : (s.withCtlWindow v).free = s.free := rfl
@[simp] theorem State.withCtlWindow_out : (s.withCtlWindow v).out = s.out := rfl
@[simp] theorem State.rd_withCtlWindow (f : Field) (i : Nat) : (s.withCtlWindow v).rd f i = s.rd f i := rfl
end
section
variable (v : Bool)
@[simp] theorem State.withCtlNeg_pending : (s.withCtlNeg v).pending = s.pending := rfl
@[simp] theorem State.withCtlNeg_regs : (s.withCtlNeg v).regs = s.regs := rfl
@[simp] theorem State.withCtlNeg_staged : (s.withCtlNeg v).staged = s.staged := rfl
@[simp] theorem State.withCtlNeg_mem : (s.withCtlNeg v).mem = s.mem := rfl
@[simp] theorem State.withCtlNeg_poison : (s.withCtlNeg v).poison = s.poison := rfl
@[simp] theorem State.withCtlNeg_lineKey : (s.withCtlNeg v).lineKey = s.lineKey := rfl
@[simp] theorem State.withCtlNeg_badCopy : (s.withCtlNeg v).badCopy = s.badCopy := rfl
@[simp] theorem State.withCtlNeg_keys : (s.withCtlNeg v).keys = s.keys := rfl
@[simp] theorem State.withCtlNeg_hostMem : (s.withCtlNeg v).hostMem = s.hostMem := rfl
@[simp] theorem State.withCtlNeg_hostBad : (s.withCtlNeg v).hostBad = s.hostBad := rfl
@[simp] theorem State.withCtlNeg_time : (s.withCtlNeg v).time = s.time := rfl
@[simp] theorem State.withCtlNeg_parts : (s.withCtlNeg v).parts = s.parts := rfl
@[simp] theorem State.withCtlNeg_cores : (s.withCtlNeg v).cores = s.cores := rfl
@[simp] theorem State.withCtlNeg_phys : (s.withCtlNeg v).phys = s.phys := rfl
@[simp] theorem State.withCtlNeg_threads : (s.withCtlNeg v).threads = s.threads := rfl
@[simp] theorem State.withCtlNeg_jobs : (s.withCtlNeg v).jobs = s.jobs := rfl
@[simp] theorem State.withCtlNeg_spurs : (s.withCtlNeg v).spurs = s.spurs := rfl
@[simp] theorem State.withCtlNeg_dmas : (s.withCtlNeg v).dmas = s.dmas := rfl
@[simp] theorem State.withCtlNeg_nocReqs : (s.withCtlNeg v).nocReqs = s.nocReqs := rfl
@[simp] theorem State.withCtlNeg_devErrs : (s.withCtlNeg v).devErrs = s.devErrs := rfl
@[simp] theorem State.withCtlNeg_sramErrs : (s.withCtlNeg v).sramErrs = s.sramErrs := rfl
@[simp] theorem State.withCtlNeg_sramUe : (s.withCtlNeg v).sramUe = s.sramUe := rfl
@[simp] theorem State.withCtlNeg_planHdr : (s.withCtlNeg v).planHdr = s.planHdr := rfl
@[simp] theorem State.withCtlNeg_cells : (s.withCtlNeg v).cells = s.cells := rfl
@[simp] theorem State.withCtlNeg_subports : (s.withCtlNeg v).subports = s.subports := rfl
@[simp] theorem State.withCtlNeg_chains : (s.withCtlNeg v).chains = s.chains := rfl
@[simp] theorem State.withCtlNeg_fhBufs : (s.withCtlNeg v).fhBufs = s.fhBufs := rfl
@[simp] theorem State.withCtlNeg_seqs : (s.withCtlNeg v).seqs = s.seqs := rfl
@[simp] theorem State.withCtlNeg_cmds : (s.withCtlNeg v).cmds = s.cmds := rfl
@[simp] theorem State.withCtlNeg_nextCmd : (s.withCtlNeg v).nextCmd = s.nextCmd := rfl
@[simp] theorem State.withCtlNeg_passes : (s.withCtlNeg v).passes = s.passes := rfl
@[simp] theorem State.withCtlNeg_nextPass : (s.withCtlNeg v).nextPass = s.nextPass := rfl
@[simp] theorem State.withCtlNeg_models : (s.withCtlNeg v).models = s.models := rfl
@[simp] theorem State.withCtlNeg_deltas : (s.withCtlNeg v).deltas = s.deltas := rfl
@[simp] theorem State.withCtlNeg_loads : (s.withCtlNeg v).loads = s.loads := rfl
@[simp] theorem State.withCtlNeg_lastAdm : (s.withCtlNeg v).lastAdm = s.lastAdm := rfl
@[simp] theorem State.withCtlNeg_frames : (s.withCtlNeg v).frames = s.frames := rfl
@[simp] theorem State.withCtlNeg_chunks : (s.withCtlNeg v).chunks = s.chunks := rfl
@[simp] theorem State.withCtlNeg_freeLists : (s.withCtlNeg v).freeLists = s.freeLists := rfl
@[simp] theorem State.withCtlNeg_nodes : (s.withCtlNeg v).nodes = s.nodes := rfl
@[simp] theorem State.withCtlNeg_lru : (s.withCtlNeg v).lru = s.lru := rfl
@[simp] theorem State.withCtlNeg_heldFrames : (s.withCtlNeg v).heldFrames = s.heldFrames := rfl
@[simp] theorem State.withCtlNeg_scopesDead : (s.withCtlNeg v).scopesDead = s.scopesDead := rfl
@[simp] theorem State.withCtlNeg_spills : (s.withCtlNeg v).spills = s.spills := rfl
@[simp] theorem State.withCtlNeg_links : (s.withCtlNeg v).links = s.links := rfl
@[simp] theorem State.withCtlNeg_members : (s.withCtlNeg v).members = s.members := rfl
@[simp] theorem State.withCtlNeg_spares : (s.withCtlNeg v).spares = s.spares := rfl
@[simp] theorem State.withCtlNeg_cachePeers : (s.withCtlNeg v).cachePeers = s.cachePeers := rfl
@[simp] theorem State.withCtlNeg_routes : (s.withCtlNeg v).routes = s.routes := rfl
@[simp] theorem State.withCtlNeg_fabReqs : (s.withCtlNeg v).fabReqs = s.fabReqs := rfl
@[simp] theorem State.withCtlNeg_nextTid : (s.withCtlNeg v).nextTid = s.nextTid := rfl
@[simp] theorem State.withCtlNeg_windows : (s.withCtlNeg v).windows = s.windows := rfl
@[simp] theorem State.withCtlNeg_peers : (s.withCtlNeg v).peers = s.peers := rfl
@[simp] theorem State.withCtlNeg_move : (s.withCtlNeg v).move = s.move := rfl
@[simp] theorem State.withCtlNeg_rings : (s.withCtlNeg v).rings = s.rings := rfl
@[simp] theorem State.withCtlNeg_slices : (s.withCtlNeg v).slices = s.slices := rfl
@[simp] theorem State.withCtlNeg_groups : (s.withCtlNeg v).groups = s.groups := rfl
@[simp] theorem State.withCtlNeg_thaws : (s.withCtlNeg v).thaws = s.thaws := rfl
@[simp] theorem State.withCtlNeg_copies : (s.withCtlNeg v).copies = s.copies := rfl
@[simp] theorem State.withCtlNeg_heldCmds : (s.withCtlNeg v).heldCmds = s.heldCmds := rfl
@[simp] theorem State.withCtlNeg_coord : (s.withCtlNeg v).coord = s.coord := rfl
@[simp] theorem State.withCtlNeg_ctlWindow : (s.withCtlNeg v).ctlWindow = s.ctlWindow := rfl
@[simp] theorem State.withCtlNeg_ctlNeg : (s.withCtlNeg v).ctlNeg = v := rfl
@[simp] theorem State.withCtlNeg_ctlNegPend : (s.withCtlNeg v).ctlNegPend = s.ctlNegPend := rfl
@[simp] theorem State.withCtlNeg_ctlAgreed : (s.withCtlNeg v).ctlAgreed = s.ctlAgreed := rfl
@[simp] theorem State.withCtlNeg_halves : (s.withCtlNeg v).halves = s.halves := rfl
@[simp] theorem State.withCtlNeg_ctlHb : (s.withCtlNeg v).ctlHb = s.ctlHb := rfl
@[simp] theorem State.withCtlNeg_events : (s.withCtlNeg v).events = s.events := rfl
@[simp] theorem State.withCtlNeg_procs : (s.withCtlNeg v).procs = s.procs := rfl
@[simp] theorem State.withCtlNeg_bring : (s.withCtlNeg v).bring = s.bring := rfl
@[simp] theorem State.withCtlNeg_sec : (s.withCtlNeg v).sec = s.sec := rfl
@[simp] theorem State.withCtlNeg_mgt : (s.withCtlNeg v).mgt = s.mgt := rfl
@[simp] theorem State.withCtlNeg_free : (s.withCtlNeg v).free = s.free := rfl
@[simp] theorem State.withCtlNeg_out : (s.withCtlNeg v).out = s.out := rfl
@[simp] theorem State.rd_withCtlNeg (f : Field) (i : Nat) : (s.withCtlNeg v).rd f i = s.rd f i := rfl
end
section
variable (v : Bool)
@[simp] theorem State.withCtlNegPend_pending : (s.withCtlNegPend v).pending = s.pending := rfl
@[simp] theorem State.withCtlNegPend_regs : (s.withCtlNegPend v).regs = s.regs := rfl
@[simp] theorem State.withCtlNegPend_staged : (s.withCtlNegPend v).staged = s.staged := rfl
@[simp] theorem State.withCtlNegPend_mem : (s.withCtlNegPend v).mem = s.mem := rfl
@[simp] theorem State.withCtlNegPend_poison : (s.withCtlNegPend v).poison = s.poison := rfl
@[simp] theorem State.withCtlNegPend_lineKey : (s.withCtlNegPend v).lineKey = s.lineKey := rfl
@[simp] theorem State.withCtlNegPend_badCopy : (s.withCtlNegPend v).badCopy = s.badCopy := rfl
@[simp] theorem State.withCtlNegPend_keys : (s.withCtlNegPend v).keys = s.keys := rfl
@[simp] theorem State.withCtlNegPend_hostMem : (s.withCtlNegPend v).hostMem = s.hostMem := rfl
@[simp] theorem State.withCtlNegPend_hostBad : (s.withCtlNegPend v).hostBad = s.hostBad := rfl
@[simp] theorem State.withCtlNegPend_time : (s.withCtlNegPend v).time = s.time := rfl
@[simp] theorem State.withCtlNegPend_parts : (s.withCtlNegPend v).parts = s.parts := rfl
@[simp] theorem State.withCtlNegPend_cores : (s.withCtlNegPend v).cores = s.cores := rfl
@[simp] theorem State.withCtlNegPend_phys : (s.withCtlNegPend v).phys = s.phys := rfl
@[simp] theorem State.withCtlNegPend_threads : (s.withCtlNegPend v).threads = s.threads := rfl
@[simp] theorem State.withCtlNegPend_jobs : (s.withCtlNegPend v).jobs = s.jobs := rfl
@[simp] theorem State.withCtlNegPend_spurs : (s.withCtlNegPend v).spurs = s.spurs := rfl
@[simp] theorem State.withCtlNegPend_dmas : (s.withCtlNegPend v).dmas = s.dmas := rfl
@[simp] theorem State.withCtlNegPend_nocReqs : (s.withCtlNegPend v).nocReqs = s.nocReqs := rfl
@[simp] theorem State.withCtlNegPend_devErrs : (s.withCtlNegPend v).devErrs = s.devErrs := rfl
@[simp] theorem State.withCtlNegPend_sramErrs : (s.withCtlNegPend v).sramErrs = s.sramErrs := rfl
@[simp] theorem State.withCtlNegPend_sramUe : (s.withCtlNegPend v).sramUe = s.sramUe := rfl
@[simp] theorem State.withCtlNegPend_planHdr : (s.withCtlNegPend v).planHdr = s.planHdr := rfl
@[simp] theorem State.withCtlNegPend_cells : (s.withCtlNegPend v).cells = s.cells := rfl
@[simp] theorem State.withCtlNegPend_subports : (s.withCtlNegPend v).subports = s.subports := rfl
@[simp] theorem State.withCtlNegPend_chains : (s.withCtlNegPend v).chains = s.chains := rfl
@[simp] theorem State.withCtlNegPend_fhBufs : (s.withCtlNegPend v).fhBufs = s.fhBufs := rfl
@[simp] theorem State.withCtlNegPend_seqs : (s.withCtlNegPend v).seqs = s.seqs := rfl
@[simp] theorem State.withCtlNegPend_cmds : (s.withCtlNegPend v).cmds = s.cmds := rfl
@[simp] theorem State.withCtlNegPend_nextCmd : (s.withCtlNegPend v).nextCmd = s.nextCmd := rfl
@[simp] theorem State.withCtlNegPend_passes : (s.withCtlNegPend v).passes = s.passes := rfl
@[simp] theorem State.withCtlNegPend_nextPass : (s.withCtlNegPend v).nextPass = s.nextPass := rfl
@[simp] theorem State.withCtlNegPend_models : (s.withCtlNegPend v).models = s.models := rfl
@[simp] theorem State.withCtlNegPend_deltas : (s.withCtlNegPend v).deltas = s.deltas := rfl
@[simp] theorem State.withCtlNegPend_loads : (s.withCtlNegPend v).loads = s.loads := rfl
@[simp] theorem State.withCtlNegPend_lastAdm : (s.withCtlNegPend v).lastAdm = s.lastAdm := rfl
@[simp] theorem State.withCtlNegPend_frames : (s.withCtlNegPend v).frames = s.frames := rfl
@[simp] theorem State.withCtlNegPend_chunks : (s.withCtlNegPend v).chunks = s.chunks := rfl
@[simp] theorem State.withCtlNegPend_freeLists : (s.withCtlNegPend v).freeLists = s.freeLists := rfl
@[simp] theorem State.withCtlNegPend_nodes : (s.withCtlNegPend v).nodes = s.nodes := rfl
@[simp] theorem State.withCtlNegPend_lru : (s.withCtlNegPend v).lru = s.lru := rfl
@[simp] theorem State.withCtlNegPend_heldFrames : (s.withCtlNegPend v).heldFrames = s.heldFrames := rfl
@[simp] theorem State.withCtlNegPend_scopesDead : (s.withCtlNegPend v).scopesDead = s.scopesDead := rfl
@[simp] theorem State.withCtlNegPend_spills : (s.withCtlNegPend v).spills = s.spills := rfl
@[simp] theorem State.withCtlNegPend_links : (s.withCtlNegPend v).links = s.links := rfl
@[simp] theorem State.withCtlNegPend_members : (s.withCtlNegPend v).members = s.members := rfl
@[simp] theorem State.withCtlNegPend_spares : (s.withCtlNegPend v).spares = s.spares := rfl
@[simp] theorem State.withCtlNegPend_cachePeers : (s.withCtlNegPend v).cachePeers = s.cachePeers := rfl
@[simp] theorem State.withCtlNegPend_routes : (s.withCtlNegPend v).routes = s.routes := rfl
@[simp] theorem State.withCtlNegPend_fabReqs : (s.withCtlNegPend v).fabReqs = s.fabReqs := rfl
@[simp] theorem State.withCtlNegPend_nextTid : (s.withCtlNegPend v).nextTid = s.nextTid := rfl
@[simp] theorem State.withCtlNegPend_windows : (s.withCtlNegPend v).windows = s.windows := rfl
@[simp] theorem State.withCtlNegPend_peers : (s.withCtlNegPend v).peers = s.peers := rfl
@[simp] theorem State.withCtlNegPend_move : (s.withCtlNegPend v).move = s.move := rfl
@[simp] theorem State.withCtlNegPend_rings : (s.withCtlNegPend v).rings = s.rings := rfl
@[simp] theorem State.withCtlNegPend_slices : (s.withCtlNegPend v).slices = s.slices := rfl
@[simp] theorem State.withCtlNegPend_groups : (s.withCtlNegPend v).groups = s.groups := rfl
@[simp] theorem State.withCtlNegPend_thaws : (s.withCtlNegPend v).thaws = s.thaws := rfl
@[simp] theorem State.withCtlNegPend_copies : (s.withCtlNegPend v).copies = s.copies := rfl
@[simp] theorem State.withCtlNegPend_heldCmds : (s.withCtlNegPend v).heldCmds = s.heldCmds := rfl
@[simp] theorem State.withCtlNegPend_coord : (s.withCtlNegPend v).coord = s.coord := rfl
@[simp] theorem State.withCtlNegPend_ctlWindow : (s.withCtlNegPend v).ctlWindow = s.ctlWindow := rfl
@[simp] theorem State.withCtlNegPend_ctlNeg : (s.withCtlNegPend v).ctlNeg = s.ctlNeg := rfl
@[simp] theorem State.withCtlNegPend_ctlNegPend : (s.withCtlNegPend v).ctlNegPend = v := rfl
@[simp] theorem State.withCtlNegPend_ctlAgreed : (s.withCtlNegPend v).ctlAgreed = s.ctlAgreed := rfl
@[simp] theorem State.withCtlNegPend_halves : (s.withCtlNegPend v).halves = s.halves := rfl
@[simp] theorem State.withCtlNegPend_ctlHb : (s.withCtlNegPend v).ctlHb = s.ctlHb := rfl
@[simp] theorem State.withCtlNegPend_events : (s.withCtlNegPend v).events = s.events := rfl
@[simp] theorem State.withCtlNegPend_procs : (s.withCtlNegPend v).procs = s.procs := rfl
@[simp] theorem State.withCtlNegPend_bring : (s.withCtlNegPend v).bring = s.bring := rfl
@[simp] theorem State.withCtlNegPend_sec : (s.withCtlNegPend v).sec = s.sec := rfl
@[simp] theorem State.withCtlNegPend_mgt : (s.withCtlNegPend v).mgt = s.mgt := rfl
@[simp] theorem State.withCtlNegPend_free : (s.withCtlNegPend v).free = s.free := rfl
@[simp] theorem State.withCtlNegPend_out : (s.withCtlNegPend v).out = s.out := rfl
@[simp] theorem State.rd_withCtlNegPend (f : Field) (i : Nat) : (s.withCtlNegPend v).rd f i = s.rd f i := rfl
end
section
variable (v : Nat × Nat)
@[simp] theorem State.withCtlAgreed_pending : (s.withCtlAgreed v).pending = s.pending := rfl
@[simp] theorem State.withCtlAgreed_regs : (s.withCtlAgreed v).regs = s.regs := rfl
@[simp] theorem State.withCtlAgreed_staged : (s.withCtlAgreed v).staged = s.staged := rfl
@[simp] theorem State.withCtlAgreed_mem : (s.withCtlAgreed v).mem = s.mem := rfl
@[simp] theorem State.withCtlAgreed_poison : (s.withCtlAgreed v).poison = s.poison := rfl
@[simp] theorem State.withCtlAgreed_lineKey : (s.withCtlAgreed v).lineKey = s.lineKey := rfl
@[simp] theorem State.withCtlAgreed_badCopy : (s.withCtlAgreed v).badCopy = s.badCopy := rfl
@[simp] theorem State.withCtlAgreed_keys : (s.withCtlAgreed v).keys = s.keys := rfl
@[simp] theorem State.withCtlAgreed_hostMem : (s.withCtlAgreed v).hostMem = s.hostMem := rfl
@[simp] theorem State.withCtlAgreed_hostBad : (s.withCtlAgreed v).hostBad = s.hostBad := rfl
@[simp] theorem State.withCtlAgreed_time : (s.withCtlAgreed v).time = s.time := rfl
@[simp] theorem State.withCtlAgreed_parts : (s.withCtlAgreed v).parts = s.parts := rfl
@[simp] theorem State.withCtlAgreed_cores : (s.withCtlAgreed v).cores = s.cores := rfl
@[simp] theorem State.withCtlAgreed_phys : (s.withCtlAgreed v).phys = s.phys := rfl
@[simp] theorem State.withCtlAgreed_threads : (s.withCtlAgreed v).threads = s.threads := rfl
@[simp] theorem State.withCtlAgreed_jobs : (s.withCtlAgreed v).jobs = s.jobs := rfl
@[simp] theorem State.withCtlAgreed_spurs : (s.withCtlAgreed v).spurs = s.spurs := rfl
@[simp] theorem State.withCtlAgreed_dmas : (s.withCtlAgreed v).dmas = s.dmas := rfl
@[simp] theorem State.withCtlAgreed_nocReqs : (s.withCtlAgreed v).nocReqs = s.nocReqs := rfl
@[simp] theorem State.withCtlAgreed_devErrs : (s.withCtlAgreed v).devErrs = s.devErrs := rfl
@[simp] theorem State.withCtlAgreed_sramErrs : (s.withCtlAgreed v).sramErrs = s.sramErrs := rfl
@[simp] theorem State.withCtlAgreed_sramUe : (s.withCtlAgreed v).sramUe = s.sramUe := rfl
@[simp] theorem State.withCtlAgreed_planHdr : (s.withCtlAgreed v).planHdr = s.planHdr := rfl
@[simp] theorem State.withCtlAgreed_cells : (s.withCtlAgreed v).cells = s.cells := rfl
@[simp] theorem State.withCtlAgreed_subports : (s.withCtlAgreed v).subports = s.subports := rfl
@[simp] theorem State.withCtlAgreed_chains : (s.withCtlAgreed v).chains = s.chains := rfl
@[simp] theorem State.withCtlAgreed_fhBufs : (s.withCtlAgreed v).fhBufs = s.fhBufs := rfl
@[simp] theorem State.withCtlAgreed_seqs : (s.withCtlAgreed v).seqs = s.seqs := rfl
@[simp] theorem State.withCtlAgreed_cmds : (s.withCtlAgreed v).cmds = s.cmds := rfl
@[simp] theorem State.withCtlAgreed_nextCmd : (s.withCtlAgreed v).nextCmd = s.nextCmd := rfl
@[simp] theorem State.withCtlAgreed_passes : (s.withCtlAgreed v).passes = s.passes := rfl
@[simp] theorem State.withCtlAgreed_nextPass : (s.withCtlAgreed v).nextPass = s.nextPass := rfl
@[simp] theorem State.withCtlAgreed_models : (s.withCtlAgreed v).models = s.models := rfl
@[simp] theorem State.withCtlAgreed_deltas : (s.withCtlAgreed v).deltas = s.deltas := rfl
@[simp] theorem State.withCtlAgreed_loads : (s.withCtlAgreed v).loads = s.loads := rfl
@[simp] theorem State.withCtlAgreed_lastAdm : (s.withCtlAgreed v).lastAdm = s.lastAdm := rfl
@[simp] theorem State.withCtlAgreed_frames : (s.withCtlAgreed v).frames = s.frames := rfl
@[simp] theorem State.withCtlAgreed_chunks : (s.withCtlAgreed v).chunks = s.chunks := rfl
@[simp] theorem State.withCtlAgreed_freeLists : (s.withCtlAgreed v).freeLists = s.freeLists := rfl
@[simp] theorem State.withCtlAgreed_nodes : (s.withCtlAgreed v).nodes = s.nodes := rfl
@[simp] theorem State.withCtlAgreed_lru : (s.withCtlAgreed v).lru = s.lru := rfl
@[simp] theorem State.withCtlAgreed_heldFrames : (s.withCtlAgreed v).heldFrames = s.heldFrames := rfl
@[simp] theorem State.withCtlAgreed_scopesDead : (s.withCtlAgreed v).scopesDead = s.scopesDead := rfl
@[simp] theorem State.withCtlAgreed_spills : (s.withCtlAgreed v).spills = s.spills := rfl
@[simp] theorem State.withCtlAgreed_links : (s.withCtlAgreed v).links = s.links := rfl
@[simp] theorem State.withCtlAgreed_members : (s.withCtlAgreed v).members = s.members := rfl
@[simp] theorem State.withCtlAgreed_spares : (s.withCtlAgreed v).spares = s.spares := rfl
@[simp] theorem State.withCtlAgreed_cachePeers : (s.withCtlAgreed v).cachePeers = s.cachePeers := rfl
@[simp] theorem State.withCtlAgreed_routes : (s.withCtlAgreed v).routes = s.routes := rfl
@[simp] theorem State.withCtlAgreed_fabReqs : (s.withCtlAgreed v).fabReqs = s.fabReqs := rfl
@[simp] theorem State.withCtlAgreed_nextTid : (s.withCtlAgreed v).nextTid = s.nextTid := rfl
@[simp] theorem State.withCtlAgreed_windows : (s.withCtlAgreed v).windows = s.windows := rfl
@[simp] theorem State.withCtlAgreed_peers : (s.withCtlAgreed v).peers = s.peers := rfl
@[simp] theorem State.withCtlAgreed_move : (s.withCtlAgreed v).move = s.move := rfl
@[simp] theorem State.withCtlAgreed_rings : (s.withCtlAgreed v).rings = s.rings := rfl
@[simp] theorem State.withCtlAgreed_slices : (s.withCtlAgreed v).slices = s.slices := rfl
@[simp] theorem State.withCtlAgreed_groups : (s.withCtlAgreed v).groups = s.groups := rfl
@[simp] theorem State.withCtlAgreed_thaws : (s.withCtlAgreed v).thaws = s.thaws := rfl
@[simp] theorem State.withCtlAgreed_copies : (s.withCtlAgreed v).copies = s.copies := rfl
@[simp] theorem State.withCtlAgreed_heldCmds : (s.withCtlAgreed v).heldCmds = s.heldCmds := rfl
@[simp] theorem State.withCtlAgreed_coord : (s.withCtlAgreed v).coord = s.coord := rfl
@[simp] theorem State.withCtlAgreed_ctlWindow : (s.withCtlAgreed v).ctlWindow = s.ctlWindow := rfl
@[simp] theorem State.withCtlAgreed_ctlNeg : (s.withCtlAgreed v).ctlNeg = s.ctlNeg := rfl
@[simp] theorem State.withCtlAgreed_ctlNegPend : (s.withCtlAgreed v).ctlNegPend = s.ctlNegPend := rfl
@[simp] theorem State.withCtlAgreed_ctlAgreed : (s.withCtlAgreed v).ctlAgreed = v := rfl
@[simp] theorem State.withCtlAgreed_halves : (s.withCtlAgreed v).halves = s.halves := rfl
@[simp] theorem State.withCtlAgreed_ctlHb : (s.withCtlAgreed v).ctlHb = s.ctlHb := rfl
@[simp] theorem State.withCtlAgreed_events : (s.withCtlAgreed v).events = s.events := rfl
@[simp] theorem State.withCtlAgreed_procs : (s.withCtlAgreed v).procs = s.procs := rfl
@[simp] theorem State.withCtlAgreed_bring : (s.withCtlAgreed v).bring = s.bring := rfl
@[simp] theorem State.withCtlAgreed_sec : (s.withCtlAgreed v).sec = s.sec := rfl
@[simp] theorem State.withCtlAgreed_mgt : (s.withCtlAgreed v).mgt = s.mgt := rfl
@[simp] theorem State.withCtlAgreed_free : (s.withCtlAgreed v).free = s.free := rfl
@[simp] theorem State.withCtlAgreed_out : (s.withCtlAgreed v).out = s.out := rfl
@[simp] theorem State.rd_withCtlAgreed (f : Field) (i : Nat) : (s.withCtlAgreed v).rd f i = s.rd f i := rfl
end
section
variable (v : KMap Nat)
@[simp] theorem State.withHalves_pending : (s.withHalves v).pending = s.pending := rfl
@[simp] theorem State.withHalves_regs : (s.withHalves v).regs = s.regs := rfl
@[simp] theorem State.withHalves_staged : (s.withHalves v).staged = s.staged := rfl
@[simp] theorem State.withHalves_mem : (s.withHalves v).mem = s.mem := rfl
@[simp] theorem State.withHalves_poison : (s.withHalves v).poison = s.poison := rfl
@[simp] theorem State.withHalves_lineKey : (s.withHalves v).lineKey = s.lineKey := rfl
@[simp] theorem State.withHalves_badCopy : (s.withHalves v).badCopy = s.badCopy := rfl
@[simp] theorem State.withHalves_keys : (s.withHalves v).keys = s.keys := rfl
@[simp] theorem State.withHalves_hostMem : (s.withHalves v).hostMem = s.hostMem := rfl
@[simp] theorem State.withHalves_hostBad : (s.withHalves v).hostBad = s.hostBad := rfl
@[simp] theorem State.withHalves_time : (s.withHalves v).time = s.time := rfl
@[simp] theorem State.withHalves_parts : (s.withHalves v).parts = s.parts := rfl
@[simp] theorem State.withHalves_cores : (s.withHalves v).cores = s.cores := rfl
@[simp] theorem State.withHalves_phys : (s.withHalves v).phys = s.phys := rfl
@[simp] theorem State.withHalves_threads : (s.withHalves v).threads = s.threads := rfl
@[simp] theorem State.withHalves_jobs : (s.withHalves v).jobs = s.jobs := rfl
@[simp] theorem State.withHalves_spurs : (s.withHalves v).spurs = s.spurs := rfl
@[simp] theorem State.withHalves_dmas : (s.withHalves v).dmas = s.dmas := rfl
@[simp] theorem State.withHalves_nocReqs : (s.withHalves v).nocReqs = s.nocReqs := rfl
@[simp] theorem State.withHalves_devErrs : (s.withHalves v).devErrs = s.devErrs := rfl
@[simp] theorem State.withHalves_sramErrs : (s.withHalves v).sramErrs = s.sramErrs := rfl
@[simp] theorem State.withHalves_sramUe : (s.withHalves v).sramUe = s.sramUe := rfl
@[simp] theorem State.withHalves_planHdr : (s.withHalves v).planHdr = s.planHdr := rfl
@[simp] theorem State.withHalves_cells : (s.withHalves v).cells = s.cells := rfl
@[simp] theorem State.withHalves_subports : (s.withHalves v).subports = s.subports := rfl
@[simp] theorem State.withHalves_chains : (s.withHalves v).chains = s.chains := rfl
@[simp] theorem State.withHalves_fhBufs : (s.withHalves v).fhBufs = s.fhBufs := rfl
@[simp] theorem State.withHalves_seqs : (s.withHalves v).seqs = s.seqs := rfl
@[simp] theorem State.withHalves_cmds : (s.withHalves v).cmds = s.cmds := rfl
@[simp] theorem State.withHalves_nextCmd : (s.withHalves v).nextCmd = s.nextCmd := rfl
@[simp] theorem State.withHalves_passes : (s.withHalves v).passes = s.passes := rfl
@[simp] theorem State.withHalves_nextPass : (s.withHalves v).nextPass = s.nextPass := rfl
@[simp] theorem State.withHalves_models : (s.withHalves v).models = s.models := rfl
@[simp] theorem State.withHalves_deltas : (s.withHalves v).deltas = s.deltas := rfl
@[simp] theorem State.withHalves_loads : (s.withHalves v).loads = s.loads := rfl
@[simp] theorem State.withHalves_lastAdm : (s.withHalves v).lastAdm = s.lastAdm := rfl
@[simp] theorem State.withHalves_frames : (s.withHalves v).frames = s.frames := rfl
@[simp] theorem State.withHalves_chunks : (s.withHalves v).chunks = s.chunks := rfl
@[simp] theorem State.withHalves_freeLists : (s.withHalves v).freeLists = s.freeLists := rfl
@[simp] theorem State.withHalves_nodes : (s.withHalves v).nodes = s.nodes := rfl
@[simp] theorem State.withHalves_lru : (s.withHalves v).lru = s.lru := rfl
@[simp] theorem State.withHalves_heldFrames : (s.withHalves v).heldFrames = s.heldFrames := rfl
@[simp] theorem State.withHalves_scopesDead : (s.withHalves v).scopesDead = s.scopesDead := rfl
@[simp] theorem State.withHalves_spills : (s.withHalves v).spills = s.spills := rfl
@[simp] theorem State.withHalves_links : (s.withHalves v).links = s.links := rfl
@[simp] theorem State.withHalves_members : (s.withHalves v).members = s.members := rfl
@[simp] theorem State.withHalves_spares : (s.withHalves v).spares = s.spares := rfl
@[simp] theorem State.withHalves_cachePeers : (s.withHalves v).cachePeers = s.cachePeers := rfl
@[simp] theorem State.withHalves_routes : (s.withHalves v).routes = s.routes := rfl
@[simp] theorem State.withHalves_fabReqs : (s.withHalves v).fabReqs = s.fabReqs := rfl
@[simp] theorem State.withHalves_nextTid : (s.withHalves v).nextTid = s.nextTid := rfl
@[simp] theorem State.withHalves_windows : (s.withHalves v).windows = s.windows := rfl
@[simp] theorem State.withHalves_peers : (s.withHalves v).peers = s.peers := rfl
@[simp] theorem State.withHalves_move : (s.withHalves v).move = s.move := rfl
@[simp] theorem State.withHalves_rings : (s.withHalves v).rings = s.rings := rfl
@[simp] theorem State.withHalves_slices : (s.withHalves v).slices = s.slices := rfl
@[simp] theorem State.withHalves_groups : (s.withHalves v).groups = s.groups := rfl
@[simp] theorem State.withHalves_thaws : (s.withHalves v).thaws = s.thaws := rfl
@[simp] theorem State.withHalves_copies : (s.withHalves v).copies = s.copies := rfl
@[simp] theorem State.withHalves_heldCmds : (s.withHalves v).heldCmds = s.heldCmds := rfl
@[simp] theorem State.withHalves_coord : (s.withHalves v).coord = s.coord := rfl
@[simp] theorem State.withHalves_ctlWindow : (s.withHalves v).ctlWindow = s.ctlWindow := rfl
@[simp] theorem State.withHalves_ctlNeg : (s.withHalves v).ctlNeg = s.ctlNeg := rfl
@[simp] theorem State.withHalves_ctlNegPend : (s.withHalves v).ctlNegPend = s.ctlNegPend := rfl
@[simp] theorem State.withHalves_ctlAgreed : (s.withHalves v).ctlAgreed = s.ctlAgreed := rfl
@[simp] theorem State.withHalves_halves : (s.withHalves v).halves = v := rfl
@[simp] theorem State.withHalves_ctlHb : (s.withHalves v).ctlHb = s.ctlHb := rfl
@[simp] theorem State.withHalves_events : (s.withHalves v).events = s.events := rfl
@[simp] theorem State.withHalves_procs : (s.withHalves v).procs = s.procs := rfl
@[simp] theorem State.withHalves_bring : (s.withHalves v).bring = s.bring := rfl
@[simp] theorem State.withHalves_sec : (s.withHalves v).sec = s.sec := rfl
@[simp] theorem State.withHalves_mgt : (s.withHalves v).mgt = s.mgt := rfl
@[simp] theorem State.withHalves_free : (s.withHalves v).free = s.free := rfl
@[simp] theorem State.withHalves_out : (s.withHalves v).out = s.out := rfl
@[simp] theorem State.rd_withHalves (f : Field) (i : Nat) : (s.withHalves v).rd f i = s.rd f i := rfl
end
section
variable (v : Option Nat)
@[simp] theorem State.withCtlHb_pending : (s.withCtlHb v).pending = s.pending := rfl
@[simp] theorem State.withCtlHb_regs : (s.withCtlHb v).regs = s.regs := rfl
@[simp] theorem State.withCtlHb_staged : (s.withCtlHb v).staged = s.staged := rfl
@[simp] theorem State.withCtlHb_mem : (s.withCtlHb v).mem = s.mem := rfl
@[simp] theorem State.withCtlHb_poison : (s.withCtlHb v).poison = s.poison := rfl
@[simp] theorem State.withCtlHb_lineKey : (s.withCtlHb v).lineKey = s.lineKey := rfl
@[simp] theorem State.withCtlHb_badCopy : (s.withCtlHb v).badCopy = s.badCopy := rfl
@[simp] theorem State.withCtlHb_keys : (s.withCtlHb v).keys = s.keys := rfl
@[simp] theorem State.withCtlHb_hostMem : (s.withCtlHb v).hostMem = s.hostMem := rfl
@[simp] theorem State.withCtlHb_hostBad : (s.withCtlHb v).hostBad = s.hostBad := rfl
@[simp] theorem State.withCtlHb_time : (s.withCtlHb v).time = s.time := rfl
@[simp] theorem State.withCtlHb_parts : (s.withCtlHb v).parts = s.parts := rfl
@[simp] theorem State.withCtlHb_cores : (s.withCtlHb v).cores = s.cores := rfl
@[simp] theorem State.withCtlHb_phys : (s.withCtlHb v).phys = s.phys := rfl
@[simp] theorem State.withCtlHb_threads : (s.withCtlHb v).threads = s.threads := rfl
@[simp] theorem State.withCtlHb_jobs : (s.withCtlHb v).jobs = s.jobs := rfl
@[simp] theorem State.withCtlHb_spurs : (s.withCtlHb v).spurs = s.spurs := rfl
@[simp] theorem State.withCtlHb_dmas : (s.withCtlHb v).dmas = s.dmas := rfl
@[simp] theorem State.withCtlHb_nocReqs : (s.withCtlHb v).nocReqs = s.nocReqs := rfl
@[simp] theorem State.withCtlHb_devErrs : (s.withCtlHb v).devErrs = s.devErrs := rfl
@[simp] theorem State.withCtlHb_sramErrs : (s.withCtlHb v).sramErrs = s.sramErrs := rfl
@[simp] theorem State.withCtlHb_sramUe : (s.withCtlHb v).sramUe = s.sramUe := rfl
@[simp] theorem State.withCtlHb_planHdr : (s.withCtlHb v).planHdr = s.planHdr := rfl
@[simp] theorem State.withCtlHb_cells : (s.withCtlHb v).cells = s.cells := rfl
@[simp] theorem State.withCtlHb_subports : (s.withCtlHb v).subports = s.subports := rfl
@[simp] theorem State.withCtlHb_chains : (s.withCtlHb v).chains = s.chains := rfl
@[simp] theorem State.withCtlHb_fhBufs : (s.withCtlHb v).fhBufs = s.fhBufs := rfl
@[simp] theorem State.withCtlHb_seqs : (s.withCtlHb v).seqs = s.seqs := rfl
@[simp] theorem State.withCtlHb_cmds : (s.withCtlHb v).cmds = s.cmds := rfl
@[simp] theorem State.withCtlHb_nextCmd : (s.withCtlHb v).nextCmd = s.nextCmd := rfl
@[simp] theorem State.withCtlHb_passes : (s.withCtlHb v).passes = s.passes := rfl
@[simp] theorem State.withCtlHb_nextPass : (s.withCtlHb v).nextPass = s.nextPass := rfl
@[simp] theorem State.withCtlHb_models : (s.withCtlHb v).models = s.models := rfl
@[simp] theorem State.withCtlHb_deltas : (s.withCtlHb v).deltas = s.deltas := rfl
@[simp] theorem State.withCtlHb_loads : (s.withCtlHb v).loads = s.loads := rfl
@[simp] theorem State.withCtlHb_lastAdm : (s.withCtlHb v).lastAdm = s.lastAdm := rfl
@[simp] theorem State.withCtlHb_frames : (s.withCtlHb v).frames = s.frames := rfl
@[simp] theorem State.withCtlHb_chunks : (s.withCtlHb v).chunks = s.chunks := rfl
@[simp] theorem State.withCtlHb_freeLists : (s.withCtlHb v).freeLists = s.freeLists := rfl
@[simp] theorem State.withCtlHb_nodes : (s.withCtlHb v).nodes = s.nodes := rfl
@[simp] theorem State.withCtlHb_lru : (s.withCtlHb v).lru = s.lru := rfl
@[simp] theorem State.withCtlHb_heldFrames : (s.withCtlHb v).heldFrames = s.heldFrames := rfl
@[simp] theorem State.withCtlHb_scopesDead : (s.withCtlHb v).scopesDead = s.scopesDead := rfl
@[simp] theorem State.withCtlHb_spills : (s.withCtlHb v).spills = s.spills := rfl
@[simp] theorem State.withCtlHb_links : (s.withCtlHb v).links = s.links := rfl
@[simp] theorem State.withCtlHb_members : (s.withCtlHb v).members = s.members := rfl
@[simp] theorem State.withCtlHb_spares : (s.withCtlHb v).spares = s.spares := rfl
@[simp] theorem State.withCtlHb_cachePeers : (s.withCtlHb v).cachePeers = s.cachePeers := rfl
@[simp] theorem State.withCtlHb_routes : (s.withCtlHb v).routes = s.routes := rfl
@[simp] theorem State.withCtlHb_fabReqs : (s.withCtlHb v).fabReqs = s.fabReqs := rfl
@[simp] theorem State.withCtlHb_nextTid : (s.withCtlHb v).nextTid = s.nextTid := rfl
@[simp] theorem State.withCtlHb_windows : (s.withCtlHb v).windows = s.windows := rfl
@[simp] theorem State.withCtlHb_peers : (s.withCtlHb v).peers = s.peers := rfl
@[simp] theorem State.withCtlHb_move : (s.withCtlHb v).move = s.move := rfl
@[simp] theorem State.withCtlHb_rings : (s.withCtlHb v).rings = s.rings := rfl
@[simp] theorem State.withCtlHb_slices : (s.withCtlHb v).slices = s.slices := rfl
@[simp] theorem State.withCtlHb_groups : (s.withCtlHb v).groups = s.groups := rfl
@[simp] theorem State.withCtlHb_thaws : (s.withCtlHb v).thaws = s.thaws := rfl
@[simp] theorem State.withCtlHb_copies : (s.withCtlHb v).copies = s.copies := rfl
@[simp] theorem State.withCtlHb_heldCmds : (s.withCtlHb v).heldCmds = s.heldCmds := rfl
@[simp] theorem State.withCtlHb_coord : (s.withCtlHb v).coord = s.coord := rfl
@[simp] theorem State.withCtlHb_ctlWindow : (s.withCtlHb v).ctlWindow = s.ctlWindow := rfl
@[simp] theorem State.withCtlHb_ctlNeg : (s.withCtlHb v).ctlNeg = s.ctlNeg := rfl
@[simp] theorem State.withCtlHb_ctlNegPend : (s.withCtlHb v).ctlNegPend = s.ctlNegPend := rfl
@[simp] theorem State.withCtlHb_ctlAgreed : (s.withCtlHb v).ctlAgreed = s.ctlAgreed := rfl
@[simp] theorem State.withCtlHb_halves : (s.withCtlHb v).halves = s.halves := rfl
@[simp] theorem State.withCtlHb_ctlHb : (s.withCtlHb v).ctlHb = v := rfl
@[simp] theorem State.withCtlHb_events : (s.withCtlHb v).events = s.events := rfl
@[simp] theorem State.withCtlHb_procs : (s.withCtlHb v).procs = s.procs := rfl
@[simp] theorem State.withCtlHb_bring : (s.withCtlHb v).bring = s.bring := rfl
@[simp] theorem State.withCtlHb_sec : (s.withCtlHb v).sec = s.sec := rfl
@[simp] theorem State.withCtlHb_mgt : (s.withCtlHb v).mgt = s.mgt := rfl
@[simp] theorem State.withCtlHb_free : (s.withCtlHb v).free = s.free := rfl
@[simp] theorem State.withCtlHb_out : (s.withCtlHb v).out = s.out := rfl
@[simp] theorem State.rd_withCtlHb (f : Field) (i : Nat) : (s.withCtlHb v).rd f i = s.rd f i := rfl
end
section
variable (v : List CqEntry)
@[simp] theorem State.withEvents_pending : (s.withEvents v).pending = s.pending := rfl
@[simp] theorem State.withEvents_regs : (s.withEvents v).regs = s.regs := rfl
@[simp] theorem State.withEvents_staged : (s.withEvents v).staged = s.staged := rfl
@[simp] theorem State.withEvents_mem : (s.withEvents v).mem = s.mem := rfl
@[simp] theorem State.withEvents_poison : (s.withEvents v).poison = s.poison := rfl
@[simp] theorem State.withEvents_lineKey : (s.withEvents v).lineKey = s.lineKey := rfl
@[simp] theorem State.withEvents_badCopy : (s.withEvents v).badCopy = s.badCopy := rfl
@[simp] theorem State.withEvents_keys : (s.withEvents v).keys = s.keys := rfl
@[simp] theorem State.withEvents_hostMem : (s.withEvents v).hostMem = s.hostMem := rfl
@[simp] theorem State.withEvents_hostBad : (s.withEvents v).hostBad = s.hostBad := rfl
@[simp] theorem State.withEvents_time : (s.withEvents v).time = s.time := rfl
@[simp] theorem State.withEvents_parts : (s.withEvents v).parts = s.parts := rfl
@[simp] theorem State.withEvents_cores : (s.withEvents v).cores = s.cores := rfl
@[simp] theorem State.withEvents_phys : (s.withEvents v).phys = s.phys := rfl
@[simp] theorem State.withEvents_threads : (s.withEvents v).threads = s.threads := rfl
@[simp] theorem State.withEvents_jobs : (s.withEvents v).jobs = s.jobs := rfl
@[simp] theorem State.withEvents_spurs : (s.withEvents v).spurs = s.spurs := rfl
@[simp] theorem State.withEvents_dmas : (s.withEvents v).dmas = s.dmas := rfl
@[simp] theorem State.withEvents_nocReqs : (s.withEvents v).nocReqs = s.nocReqs := rfl
@[simp] theorem State.withEvents_devErrs : (s.withEvents v).devErrs = s.devErrs := rfl
@[simp] theorem State.withEvents_sramErrs : (s.withEvents v).sramErrs = s.sramErrs := rfl
@[simp] theorem State.withEvents_sramUe : (s.withEvents v).sramUe = s.sramUe := rfl
@[simp] theorem State.withEvents_planHdr : (s.withEvents v).planHdr = s.planHdr := rfl
@[simp] theorem State.withEvents_cells : (s.withEvents v).cells = s.cells := rfl
@[simp] theorem State.withEvents_subports : (s.withEvents v).subports = s.subports := rfl
@[simp] theorem State.withEvents_chains : (s.withEvents v).chains = s.chains := rfl
@[simp] theorem State.withEvents_fhBufs : (s.withEvents v).fhBufs = s.fhBufs := rfl
@[simp] theorem State.withEvents_seqs : (s.withEvents v).seqs = s.seqs := rfl
@[simp] theorem State.withEvents_cmds : (s.withEvents v).cmds = s.cmds := rfl
@[simp] theorem State.withEvents_nextCmd : (s.withEvents v).nextCmd = s.nextCmd := rfl
@[simp] theorem State.withEvents_passes : (s.withEvents v).passes = s.passes := rfl
@[simp] theorem State.withEvents_nextPass : (s.withEvents v).nextPass = s.nextPass := rfl
@[simp] theorem State.withEvents_models : (s.withEvents v).models = s.models := rfl
@[simp] theorem State.withEvents_deltas : (s.withEvents v).deltas = s.deltas := rfl
@[simp] theorem State.withEvents_loads : (s.withEvents v).loads = s.loads := rfl
@[simp] theorem State.withEvents_lastAdm : (s.withEvents v).lastAdm = s.lastAdm := rfl
@[simp] theorem State.withEvents_frames : (s.withEvents v).frames = s.frames := rfl
@[simp] theorem State.withEvents_chunks : (s.withEvents v).chunks = s.chunks := rfl
@[simp] theorem State.withEvents_freeLists : (s.withEvents v).freeLists = s.freeLists := rfl
@[simp] theorem State.withEvents_nodes : (s.withEvents v).nodes = s.nodes := rfl
@[simp] theorem State.withEvents_lru : (s.withEvents v).lru = s.lru := rfl
@[simp] theorem State.withEvents_heldFrames : (s.withEvents v).heldFrames = s.heldFrames := rfl
@[simp] theorem State.withEvents_scopesDead : (s.withEvents v).scopesDead = s.scopesDead := rfl
@[simp] theorem State.withEvents_spills : (s.withEvents v).spills = s.spills := rfl
@[simp] theorem State.withEvents_links : (s.withEvents v).links = s.links := rfl
@[simp] theorem State.withEvents_members : (s.withEvents v).members = s.members := rfl
@[simp] theorem State.withEvents_spares : (s.withEvents v).spares = s.spares := rfl
@[simp] theorem State.withEvents_cachePeers : (s.withEvents v).cachePeers = s.cachePeers := rfl
@[simp] theorem State.withEvents_routes : (s.withEvents v).routes = s.routes := rfl
@[simp] theorem State.withEvents_fabReqs : (s.withEvents v).fabReqs = s.fabReqs := rfl
@[simp] theorem State.withEvents_nextTid : (s.withEvents v).nextTid = s.nextTid := rfl
@[simp] theorem State.withEvents_windows : (s.withEvents v).windows = s.windows := rfl
@[simp] theorem State.withEvents_peers : (s.withEvents v).peers = s.peers := rfl
@[simp] theorem State.withEvents_move : (s.withEvents v).move = s.move := rfl
@[simp] theorem State.withEvents_rings : (s.withEvents v).rings = s.rings := rfl
@[simp] theorem State.withEvents_slices : (s.withEvents v).slices = s.slices := rfl
@[simp] theorem State.withEvents_groups : (s.withEvents v).groups = s.groups := rfl
@[simp] theorem State.withEvents_thaws : (s.withEvents v).thaws = s.thaws := rfl
@[simp] theorem State.withEvents_copies : (s.withEvents v).copies = s.copies := rfl
@[simp] theorem State.withEvents_heldCmds : (s.withEvents v).heldCmds = s.heldCmds := rfl
@[simp] theorem State.withEvents_coord : (s.withEvents v).coord = s.coord := rfl
@[simp] theorem State.withEvents_ctlWindow : (s.withEvents v).ctlWindow = s.ctlWindow := rfl
@[simp] theorem State.withEvents_ctlNeg : (s.withEvents v).ctlNeg = s.ctlNeg := rfl
@[simp] theorem State.withEvents_ctlNegPend : (s.withEvents v).ctlNegPend = s.ctlNegPend := rfl
@[simp] theorem State.withEvents_ctlAgreed : (s.withEvents v).ctlAgreed = s.ctlAgreed := rfl
@[simp] theorem State.withEvents_halves : (s.withEvents v).halves = s.halves := rfl
@[simp] theorem State.withEvents_ctlHb : (s.withEvents v).ctlHb = s.ctlHb := rfl
@[simp] theorem State.withEvents_events : (s.withEvents v).events = v := rfl
@[simp] theorem State.withEvents_procs : (s.withEvents v).procs = s.procs := rfl
@[simp] theorem State.withEvents_bring : (s.withEvents v).bring = s.bring := rfl
@[simp] theorem State.withEvents_sec : (s.withEvents v).sec = s.sec := rfl
@[simp] theorem State.withEvents_mgt : (s.withEvents v).mgt = s.mgt := rfl
@[simp] theorem State.withEvents_free : (s.withEvents v).free = s.free := rfl
@[simp] theorem State.withEvents_out : (s.withEvents v).out = s.out := rfl
@[simp] theorem State.rd_withEvents (f : Field) (i : Nat) : (s.withEvents v).rd f i = s.rd f i := rfl
end
section
variable (v : KMap Proc)
@[simp] theorem State.withProcs_pending : (s.withProcs v).pending = s.pending := rfl
@[simp] theorem State.withProcs_regs : (s.withProcs v).regs = s.regs := rfl
@[simp] theorem State.withProcs_staged : (s.withProcs v).staged = s.staged := rfl
@[simp] theorem State.withProcs_mem : (s.withProcs v).mem = s.mem := rfl
@[simp] theorem State.withProcs_poison : (s.withProcs v).poison = s.poison := rfl
@[simp] theorem State.withProcs_lineKey : (s.withProcs v).lineKey = s.lineKey := rfl
@[simp] theorem State.withProcs_badCopy : (s.withProcs v).badCopy = s.badCopy := rfl
@[simp] theorem State.withProcs_keys : (s.withProcs v).keys = s.keys := rfl
@[simp] theorem State.withProcs_hostMem : (s.withProcs v).hostMem = s.hostMem := rfl
@[simp] theorem State.withProcs_hostBad : (s.withProcs v).hostBad = s.hostBad := rfl
@[simp] theorem State.withProcs_time : (s.withProcs v).time = s.time := rfl
@[simp] theorem State.withProcs_parts : (s.withProcs v).parts = s.parts := rfl
@[simp] theorem State.withProcs_cores : (s.withProcs v).cores = s.cores := rfl
@[simp] theorem State.withProcs_phys : (s.withProcs v).phys = s.phys := rfl
@[simp] theorem State.withProcs_threads : (s.withProcs v).threads = s.threads := rfl
@[simp] theorem State.withProcs_jobs : (s.withProcs v).jobs = s.jobs := rfl
@[simp] theorem State.withProcs_spurs : (s.withProcs v).spurs = s.spurs := rfl
@[simp] theorem State.withProcs_dmas : (s.withProcs v).dmas = s.dmas := rfl
@[simp] theorem State.withProcs_nocReqs : (s.withProcs v).nocReqs = s.nocReqs := rfl
@[simp] theorem State.withProcs_devErrs : (s.withProcs v).devErrs = s.devErrs := rfl
@[simp] theorem State.withProcs_sramErrs : (s.withProcs v).sramErrs = s.sramErrs := rfl
@[simp] theorem State.withProcs_sramUe : (s.withProcs v).sramUe = s.sramUe := rfl
@[simp] theorem State.withProcs_planHdr : (s.withProcs v).planHdr = s.planHdr := rfl
@[simp] theorem State.withProcs_cells : (s.withProcs v).cells = s.cells := rfl
@[simp] theorem State.withProcs_subports : (s.withProcs v).subports = s.subports := rfl
@[simp] theorem State.withProcs_chains : (s.withProcs v).chains = s.chains := rfl
@[simp] theorem State.withProcs_fhBufs : (s.withProcs v).fhBufs = s.fhBufs := rfl
@[simp] theorem State.withProcs_seqs : (s.withProcs v).seqs = s.seqs := rfl
@[simp] theorem State.withProcs_cmds : (s.withProcs v).cmds = s.cmds := rfl
@[simp] theorem State.withProcs_nextCmd : (s.withProcs v).nextCmd = s.nextCmd := rfl
@[simp] theorem State.withProcs_passes : (s.withProcs v).passes = s.passes := rfl
@[simp] theorem State.withProcs_nextPass : (s.withProcs v).nextPass = s.nextPass := rfl
@[simp] theorem State.withProcs_models : (s.withProcs v).models = s.models := rfl
@[simp] theorem State.withProcs_deltas : (s.withProcs v).deltas = s.deltas := rfl
@[simp] theorem State.withProcs_loads : (s.withProcs v).loads = s.loads := rfl
@[simp] theorem State.withProcs_lastAdm : (s.withProcs v).lastAdm = s.lastAdm := rfl
@[simp] theorem State.withProcs_frames : (s.withProcs v).frames = s.frames := rfl
@[simp] theorem State.withProcs_chunks : (s.withProcs v).chunks = s.chunks := rfl
@[simp] theorem State.withProcs_freeLists : (s.withProcs v).freeLists = s.freeLists := rfl
@[simp] theorem State.withProcs_nodes : (s.withProcs v).nodes = s.nodes := rfl
@[simp] theorem State.withProcs_lru : (s.withProcs v).lru = s.lru := rfl
@[simp] theorem State.withProcs_heldFrames : (s.withProcs v).heldFrames = s.heldFrames := rfl
@[simp] theorem State.withProcs_scopesDead : (s.withProcs v).scopesDead = s.scopesDead := rfl
@[simp] theorem State.withProcs_spills : (s.withProcs v).spills = s.spills := rfl
@[simp] theorem State.withProcs_links : (s.withProcs v).links = s.links := rfl
@[simp] theorem State.withProcs_members : (s.withProcs v).members = s.members := rfl
@[simp] theorem State.withProcs_spares : (s.withProcs v).spares = s.spares := rfl
@[simp] theorem State.withProcs_cachePeers : (s.withProcs v).cachePeers = s.cachePeers := rfl
@[simp] theorem State.withProcs_routes : (s.withProcs v).routes = s.routes := rfl
@[simp] theorem State.withProcs_fabReqs : (s.withProcs v).fabReqs = s.fabReqs := rfl
@[simp] theorem State.withProcs_nextTid : (s.withProcs v).nextTid = s.nextTid := rfl
@[simp] theorem State.withProcs_windows : (s.withProcs v).windows = s.windows := rfl
@[simp] theorem State.withProcs_peers : (s.withProcs v).peers = s.peers := rfl
@[simp] theorem State.withProcs_move : (s.withProcs v).move = s.move := rfl
@[simp] theorem State.withProcs_rings : (s.withProcs v).rings = s.rings := rfl
@[simp] theorem State.withProcs_slices : (s.withProcs v).slices = s.slices := rfl
@[simp] theorem State.withProcs_groups : (s.withProcs v).groups = s.groups := rfl
@[simp] theorem State.withProcs_thaws : (s.withProcs v).thaws = s.thaws := rfl
@[simp] theorem State.withProcs_copies : (s.withProcs v).copies = s.copies := rfl
@[simp] theorem State.withProcs_heldCmds : (s.withProcs v).heldCmds = s.heldCmds := rfl
@[simp] theorem State.withProcs_coord : (s.withProcs v).coord = s.coord := rfl
@[simp] theorem State.withProcs_ctlWindow : (s.withProcs v).ctlWindow = s.ctlWindow := rfl
@[simp] theorem State.withProcs_ctlNeg : (s.withProcs v).ctlNeg = s.ctlNeg := rfl
@[simp] theorem State.withProcs_ctlNegPend : (s.withProcs v).ctlNegPend = s.ctlNegPend := rfl
@[simp] theorem State.withProcs_ctlAgreed : (s.withProcs v).ctlAgreed = s.ctlAgreed := rfl
@[simp] theorem State.withProcs_halves : (s.withProcs v).halves = s.halves := rfl
@[simp] theorem State.withProcs_ctlHb : (s.withProcs v).ctlHb = s.ctlHb := rfl
@[simp] theorem State.withProcs_events : (s.withProcs v).events = s.events := rfl
@[simp] theorem State.withProcs_procs : (s.withProcs v).procs = v := rfl
@[simp] theorem State.withProcs_bring : (s.withProcs v).bring = s.bring := rfl
@[simp] theorem State.withProcs_sec : (s.withProcs v).sec = s.sec := rfl
@[simp] theorem State.withProcs_mgt : (s.withProcs v).mgt = s.mgt := rfl
@[simp] theorem State.withProcs_free : (s.withProcs v).free = s.free := rfl
@[simp] theorem State.withProcs_out : (s.withProcs v).out = s.out := rfl
@[simp] theorem State.rd_withProcs (f : Field) (i : Nat) : (s.withProcs v).rd f i = s.rd f i := rfl
end
section
variable (v : Bring)
@[simp] theorem State.withBring_pending : (s.withBring v).pending = s.pending := rfl
@[simp] theorem State.withBring_regs : (s.withBring v).regs = s.regs := rfl
@[simp] theorem State.withBring_staged : (s.withBring v).staged = s.staged := rfl
@[simp] theorem State.withBring_mem : (s.withBring v).mem = s.mem := rfl
@[simp] theorem State.withBring_poison : (s.withBring v).poison = s.poison := rfl
@[simp] theorem State.withBring_lineKey : (s.withBring v).lineKey = s.lineKey := rfl
@[simp] theorem State.withBring_badCopy : (s.withBring v).badCopy = s.badCopy := rfl
@[simp] theorem State.withBring_keys : (s.withBring v).keys = s.keys := rfl
@[simp] theorem State.withBring_hostMem : (s.withBring v).hostMem = s.hostMem := rfl
@[simp] theorem State.withBring_hostBad : (s.withBring v).hostBad = s.hostBad := rfl
@[simp] theorem State.withBring_time : (s.withBring v).time = s.time := rfl
@[simp] theorem State.withBring_parts : (s.withBring v).parts = s.parts := rfl
@[simp] theorem State.withBring_cores : (s.withBring v).cores = s.cores := rfl
@[simp] theorem State.withBring_phys : (s.withBring v).phys = s.phys := rfl
@[simp] theorem State.withBring_threads : (s.withBring v).threads = s.threads := rfl
@[simp] theorem State.withBring_jobs : (s.withBring v).jobs = s.jobs := rfl
@[simp] theorem State.withBring_spurs : (s.withBring v).spurs = s.spurs := rfl
@[simp] theorem State.withBring_dmas : (s.withBring v).dmas = s.dmas := rfl
@[simp] theorem State.withBring_nocReqs : (s.withBring v).nocReqs = s.nocReqs := rfl
@[simp] theorem State.withBring_devErrs : (s.withBring v).devErrs = s.devErrs := rfl
@[simp] theorem State.withBring_sramErrs : (s.withBring v).sramErrs = s.sramErrs := rfl
@[simp] theorem State.withBring_sramUe : (s.withBring v).sramUe = s.sramUe := rfl
@[simp] theorem State.withBring_planHdr : (s.withBring v).planHdr = s.planHdr := rfl
@[simp] theorem State.withBring_cells : (s.withBring v).cells = s.cells := rfl
@[simp] theorem State.withBring_subports : (s.withBring v).subports = s.subports := rfl
@[simp] theorem State.withBring_chains : (s.withBring v).chains = s.chains := rfl
@[simp] theorem State.withBring_fhBufs : (s.withBring v).fhBufs = s.fhBufs := rfl
@[simp] theorem State.withBring_seqs : (s.withBring v).seqs = s.seqs := rfl
@[simp] theorem State.withBring_cmds : (s.withBring v).cmds = s.cmds := rfl
@[simp] theorem State.withBring_nextCmd : (s.withBring v).nextCmd = s.nextCmd := rfl
@[simp] theorem State.withBring_passes : (s.withBring v).passes = s.passes := rfl
@[simp] theorem State.withBring_nextPass : (s.withBring v).nextPass = s.nextPass := rfl
@[simp] theorem State.withBring_models : (s.withBring v).models = s.models := rfl
@[simp] theorem State.withBring_deltas : (s.withBring v).deltas = s.deltas := rfl
@[simp] theorem State.withBring_loads : (s.withBring v).loads = s.loads := rfl
@[simp] theorem State.withBring_lastAdm : (s.withBring v).lastAdm = s.lastAdm := rfl
@[simp] theorem State.withBring_frames : (s.withBring v).frames = s.frames := rfl
@[simp] theorem State.withBring_chunks : (s.withBring v).chunks = s.chunks := rfl
@[simp] theorem State.withBring_freeLists : (s.withBring v).freeLists = s.freeLists := rfl
@[simp] theorem State.withBring_nodes : (s.withBring v).nodes = s.nodes := rfl
@[simp] theorem State.withBring_lru : (s.withBring v).lru = s.lru := rfl
@[simp] theorem State.withBring_heldFrames : (s.withBring v).heldFrames = s.heldFrames := rfl
@[simp] theorem State.withBring_scopesDead : (s.withBring v).scopesDead = s.scopesDead := rfl
@[simp] theorem State.withBring_spills : (s.withBring v).spills = s.spills := rfl
@[simp] theorem State.withBring_links : (s.withBring v).links = s.links := rfl
@[simp] theorem State.withBring_members : (s.withBring v).members = s.members := rfl
@[simp] theorem State.withBring_spares : (s.withBring v).spares = s.spares := rfl
@[simp] theorem State.withBring_cachePeers : (s.withBring v).cachePeers = s.cachePeers := rfl
@[simp] theorem State.withBring_routes : (s.withBring v).routes = s.routes := rfl
@[simp] theorem State.withBring_fabReqs : (s.withBring v).fabReqs = s.fabReqs := rfl
@[simp] theorem State.withBring_nextTid : (s.withBring v).nextTid = s.nextTid := rfl
@[simp] theorem State.withBring_windows : (s.withBring v).windows = s.windows := rfl
@[simp] theorem State.withBring_peers : (s.withBring v).peers = s.peers := rfl
@[simp] theorem State.withBring_move : (s.withBring v).move = s.move := rfl
@[simp] theorem State.withBring_rings : (s.withBring v).rings = s.rings := rfl
@[simp] theorem State.withBring_slices : (s.withBring v).slices = s.slices := rfl
@[simp] theorem State.withBring_groups : (s.withBring v).groups = s.groups := rfl
@[simp] theorem State.withBring_thaws : (s.withBring v).thaws = s.thaws := rfl
@[simp] theorem State.withBring_copies : (s.withBring v).copies = s.copies := rfl
@[simp] theorem State.withBring_heldCmds : (s.withBring v).heldCmds = s.heldCmds := rfl
@[simp] theorem State.withBring_coord : (s.withBring v).coord = s.coord := rfl
@[simp] theorem State.withBring_ctlWindow : (s.withBring v).ctlWindow = s.ctlWindow := rfl
@[simp] theorem State.withBring_ctlNeg : (s.withBring v).ctlNeg = s.ctlNeg := rfl
@[simp] theorem State.withBring_ctlNegPend : (s.withBring v).ctlNegPend = s.ctlNegPend := rfl
@[simp] theorem State.withBring_ctlAgreed : (s.withBring v).ctlAgreed = s.ctlAgreed := rfl
@[simp] theorem State.withBring_halves : (s.withBring v).halves = s.halves := rfl
@[simp] theorem State.withBring_ctlHb : (s.withBring v).ctlHb = s.ctlHb := rfl
@[simp] theorem State.withBring_events : (s.withBring v).events = s.events := rfl
@[simp] theorem State.withBring_procs : (s.withBring v).procs = s.procs := rfl
@[simp] theorem State.withBring_bring : (s.withBring v).bring = v := rfl
@[simp] theorem State.withBring_sec : (s.withBring v).sec = s.sec := rfl
@[simp] theorem State.withBring_mgt : (s.withBring v).mgt = s.mgt := rfl
@[simp] theorem State.withBring_free : (s.withBring v).free = s.free := rfl
@[simp] theorem State.withBring_out : (s.withBring v).out = s.out := rfl
@[simp] theorem State.rd_withBring (f : Field) (i : Nat) : (s.withBring v).rd f i = s.rd f i := rfl
end
section
variable (v : SecState)
@[simp] theorem State.withSec_pending : (s.withSec v).pending = s.pending := rfl
@[simp] theorem State.withSec_regs : (s.withSec v).regs = s.regs := rfl
@[simp] theorem State.withSec_staged : (s.withSec v).staged = s.staged := rfl
@[simp] theorem State.withSec_mem : (s.withSec v).mem = s.mem := rfl
@[simp] theorem State.withSec_poison : (s.withSec v).poison = s.poison := rfl
@[simp] theorem State.withSec_lineKey : (s.withSec v).lineKey = s.lineKey := rfl
@[simp] theorem State.withSec_badCopy : (s.withSec v).badCopy = s.badCopy := rfl
@[simp] theorem State.withSec_keys : (s.withSec v).keys = s.keys := rfl
@[simp] theorem State.withSec_hostMem : (s.withSec v).hostMem = s.hostMem := rfl
@[simp] theorem State.withSec_hostBad : (s.withSec v).hostBad = s.hostBad := rfl
@[simp] theorem State.withSec_time : (s.withSec v).time = s.time := rfl
@[simp] theorem State.withSec_parts : (s.withSec v).parts = s.parts := rfl
@[simp] theorem State.withSec_cores : (s.withSec v).cores = s.cores := rfl
@[simp] theorem State.withSec_phys : (s.withSec v).phys = s.phys := rfl
@[simp] theorem State.withSec_threads : (s.withSec v).threads = s.threads := rfl
@[simp] theorem State.withSec_jobs : (s.withSec v).jobs = s.jobs := rfl
@[simp] theorem State.withSec_spurs : (s.withSec v).spurs = s.spurs := rfl
@[simp] theorem State.withSec_dmas : (s.withSec v).dmas = s.dmas := rfl
@[simp] theorem State.withSec_nocReqs : (s.withSec v).nocReqs = s.nocReqs := rfl
@[simp] theorem State.withSec_devErrs : (s.withSec v).devErrs = s.devErrs := rfl
@[simp] theorem State.withSec_sramErrs : (s.withSec v).sramErrs = s.sramErrs := rfl
@[simp] theorem State.withSec_sramUe : (s.withSec v).sramUe = s.sramUe := rfl
@[simp] theorem State.withSec_planHdr : (s.withSec v).planHdr = s.planHdr := rfl
@[simp] theorem State.withSec_cells : (s.withSec v).cells = s.cells := rfl
@[simp] theorem State.withSec_subports : (s.withSec v).subports = s.subports := rfl
@[simp] theorem State.withSec_chains : (s.withSec v).chains = s.chains := rfl
@[simp] theorem State.withSec_fhBufs : (s.withSec v).fhBufs = s.fhBufs := rfl
@[simp] theorem State.withSec_seqs : (s.withSec v).seqs = s.seqs := rfl
@[simp] theorem State.withSec_cmds : (s.withSec v).cmds = s.cmds := rfl
@[simp] theorem State.withSec_nextCmd : (s.withSec v).nextCmd = s.nextCmd := rfl
@[simp] theorem State.withSec_passes : (s.withSec v).passes = s.passes := rfl
@[simp] theorem State.withSec_nextPass : (s.withSec v).nextPass = s.nextPass := rfl
@[simp] theorem State.withSec_models : (s.withSec v).models = s.models := rfl
@[simp] theorem State.withSec_deltas : (s.withSec v).deltas = s.deltas := rfl
@[simp] theorem State.withSec_loads : (s.withSec v).loads = s.loads := rfl
@[simp] theorem State.withSec_lastAdm : (s.withSec v).lastAdm = s.lastAdm := rfl
@[simp] theorem State.withSec_frames : (s.withSec v).frames = s.frames := rfl
@[simp] theorem State.withSec_chunks : (s.withSec v).chunks = s.chunks := rfl
@[simp] theorem State.withSec_freeLists : (s.withSec v).freeLists = s.freeLists := rfl
@[simp] theorem State.withSec_nodes : (s.withSec v).nodes = s.nodes := rfl
@[simp] theorem State.withSec_lru : (s.withSec v).lru = s.lru := rfl
@[simp] theorem State.withSec_heldFrames : (s.withSec v).heldFrames = s.heldFrames := rfl
@[simp] theorem State.withSec_scopesDead : (s.withSec v).scopesDead = s.scopesDead := rfl
@[simp] theorem State.withSec_spills : (s.withSec v).spills = s.spills := rfl
@[simp] theorem State.withSec_links : (s.withSec v).links = s.links := rfl
@[simp] theorem State.withSec_members : (s.withSec v).members = s.members := rfl
@[simp] theorem State.withSec_spares : (s.withSec v).spares = s.spares := rfl
@[simp] theorem State.withSec_cachePeers : (s.withSec v).cachePeers = s.cachePeers := rfl
@[simp] theorem State.withSec_routes : (s.withSec v).routes = s.routes := rfl
@[simp] theorem State.withSec_fabReqs : (s.withSec v).fabReqs = s.fabReqs := rfl
@[simp] theorem State.withSec_nextTid : (s.withSec v).nextTid = s.nextTid := rfl
@[simp] theorem State.withSec_windows : (s.withSec v).windows = s.windows := rfl
@[simp] theorem State.withSec_peers : (s.withSec v).peers = s.peers := rfl
@[simp] theorem State.withSec_move : (s.withSec v).move = s.move := rfl
@[simp] theorem State.withSec_rings : (s.withSec v).rings = s.rings := rfl
@[simp] theorem State.withSec_slices : (s.withSec v).slices = s.slices := rfl
@[simp] theorem State.withSec_groups : (s.withSec v).groups = s.groups := rfl
@[simp] theorem State.withSec_thaws : (s.withSec v).thaws = s.thaws := rfl
@[simp] theorem State.withSec_copies : (s.withSec v).copies = s.copies := rfl
@[simp] theorem State.withSec_heldCmds : (s.withSec v).heldCmds = s.heldCmds := rfl
@[simp] theorem State.withSec_coord : (s.withSec v).coord = s.coord := rfl
@[simp] theorem State.withSec_ctlWindow : (s.withSec v).ctlWindow = s.ctlWindow := rfl
@[simp] theorem State.withSec_ctlNeg : (s.withSec v).ctlNeg = s.ctlNeg := rfl
@[simp] theorem State.withSec_ctlNegPend : (s.withSec v).ctlNegPend = s.ctlNegPend := rfl
@[simp] theorem State.withSec_ctlAgreed : (s.withSec v).ctlAgreed = s.ctlAgreed := rfl
@[simp] theorem State.withSec_halves : (s.withSec v).halves = s.halves := rfl
@[simp] theorem State.withSec_ctlHb : (s.withSec v).ctlHb = s.ctlHb := rfl
@[simp] theorem State.withSec_events : (s.withSec v).events = s.events := rfl
@[simp] theorem State.withSec_procs : (s.withSec v).procs = s.procs := rfl
@[simp] theorem State.withSec_bring : (s.withSec v).bring = s.bring := rfl
@[simp] theorem State.withSec_sec : (s.withSec v).sec = v := rfl
@[simp] theorem State.withSec_mgt : (s.withSec v).mgt = s.mgt := rfl
@[simp] theorem State.withSec_free : (s.withSec v).free = s.free := rfl
@[simp] theorem State.withSec_out : (s.withSec v).out = s.out := rfl
@[simp] theorem State.rd_withSec (f : Field) (i : Nat) : (s.withSec v).rd f i = s.rd f i := rfl
end
section
variable (v : MgtState)
@[simp] theorem State.withMgt_pending : (s.withMgt v).pending = s.pending := rfl
@[simp] theorem State.withMgt_regs : (s.withMgt v).regs = s.regs := rfl
@[simp] theorem State.withMgt_staged : (s.withMgt v).staged = s.staged := rfl
@[simp] theorem State.withMgt_mem : (s.withMgt v).mem = s.mem := rfl
@[simp] theorem State.withMgt_poison : (s.withMgt v).poison = s.poison := rfl
@[simp] theorem State.withMgt_lineKey : (s.withMgt v).lineKey = s.lineKey := rfl
@[simp] theorem State.withMgt_badCopy : (s.withMgt v).badCopy = s.badCopy := rfl
@[simp] theorem State.withMgt_keys : (s.withMgt v).keys = s.keys := rfl
@[simp] theorem State.withMgt_hostMem : (s.withMgt v).hostMem = s.hostMem := rfl
@[simp] theorem State.withMgt_hostBad : (s.withMgt v).hostBad = s.hostBad := rfl
@[simp] theorem State.withMgt_time : (s.withMgt v).time = s.time := rfl
@[simp] theorem State.withMgt_parts : (s.withMgt v).parts = s.parts := rfl
@[simp] theorem State.withMgt_cores : (s.withMgt v).cores = s.cores := rfl
@[simp] theorem State.withMgt_phys : (s.withMgt v).phys = s.phys := rfl
@[simp] theorem State.withMgt_threads : (s.withMgt v).threads = s.threads := rfl
@[simp] theorem State.withMgt_jobs : (s.withMgt v).jobs = s.jobs := rfl
@[simp] theorem State.withMgt_spurs : (s.withMgt v).spurs = s.spurs := rfl
@[simp] theorem State.withMgt_dmas : (s.withMgt v).dmas = s.dmas := rfl
@[simp] theorem State.withMgt_nocReqs : (s.withMgt v).nocReqs = s.nocReqs := rfl
@[simp] theorem State.withMgt_devErrs : (s.withMgt v).devErrs = s.devErrs := rfl
@[simp] theorem State.withMgt_sramErrs : (s.withMgt v).sramErrs = s.sramErrs := rfl
@[simp] theorem State.withMgt_sramUe : (s.withMgt v).sramUe = s.sramUe := rfl
@[simp] theorem State.withMgt_planHdr : (s.withMgt v).planHdr = s.planHdr := rfl
@[simp] theorem State.withMgt_cells : (s.withMgt v).cells = s.cells := rfl
@[simp] theorem State.withMgt_subports : (s.withMgt v).subports = s.subports := rfl
@[simp] theorem State.withMgt_chains : (s.withMgt v).chains = s.chains := rfl
@[simp] theorem State.withMgt_fhBufs : (s.withMgt v).fhBufs = s.fhBufs := rfl
@[simp] theorem State.withMgt_seqs : (s.withMgt v).seqs = s.seqs := rfl
@[simp] theorem State.withMgt_cmds : (s.withMgt v).cmds = s.cmds := rfl
@[simp] theorem State.withMgt_nextCmd : (s.withMgt v).nextCmd = s.nextCmd := rfl
@[simp] theorem State.withMgt_passes : (s.withMgt v).passes = s.passes := rfl
@[simp] theorem State.withMgt_nextPass : (s.withMgt v).nextPass = s.nextPass := rfl
@[simp] theorem State.withMgt_models : (s.withMgt v).models = s.models := rfl
@[simp] theorem State.withMgt_deltas : (s.withMgt v).deltas = s.deltas := rfl
@[simp] theorem State.withMgt_loads : (s.withMgt v).loads = s.loads := rfl
@[simp] theorem State.withMgt_lastAdm : (s.withMgt v).lastAdm = s.lastAdm := rfl
@[simp] theorem State.withMgt_frames : (s.withMgt v).frames = s.frames := rfl
@[simp] theorem State.withMgt_chunks : (s.withMgt v).chunks = s.chunks := rfl
@[simp] theorem State.withMgt_freeLists : (s.withMgt v).freeLists = s.freeLists := rfl
@[simp] theorem State.withMgt_nodes : (s.withMgt v).nodes = s.nodes := rfl
@[simp] theorem State.withMgt_lru : (s.withMgt v).lru = s.lru := rfl
@[simp] theorem State.withMgt_heldFrames : (s.withMgt v).heldFrames = s.heldFrames := rfl
@[simp] theorem State.withMgt_scopesDead : (s.withMgt v).scopesDead = s.scopesDead := rfl
@[simp] theorem State.withMgt_spills : (s.withMgt v).spills = s.spills := rfl
@[simp] theorem State.withMgt_links : (s.withMgt v).links = s.links := rfl
@[simp] theorem State.withMgt_members : (s.withMgt v).members = s.members := rfl
@[simp] theorem State.withMgt_spares : (s.withMgt v).spares = s.spares := rfl
@[simp] theorem State.withMgt_cachePeers : (s.withMgt v).cachePeers = s.cachePeers := rfl
@[simp] theorem State.withMgt_routes : (s.withMgt v).routes = s.routes := rfl
@[simp] theorem State.withMgt_fabReqs : (s.withMgt v).fabReqs = s.fabReqs := rfl
@[simp] theorem State.withMgt_nextTid : (s.withMgt v).nextTid = s.nextTid := rfl
@[simp] theorem State.withMgt_windows : (s.withMgt v).windows = s.windows := rfl
@[simp] theorem State.withMgt_peers : (s.withMgt v).peers = s.peers := rfl
@[simp] theorem State.withMgt_move : (s.withMgt v).move = s.move := rfl
@[simp] theorem State.withMgt_rings : (s.withMgt v).rings = s.rings := rfl
@[simp] theorem State.withMgt_slices : (s.withMgt v).slices = s.slices := rfl
@[simp] theorem State.withMgt_groups : (s.withMgt v).groups = s.groups := rfl
@[simp] theorem State.withMgt_thaws : (s.withMgt v).thaws = s.thaws := rfl
@[simp] theorem State.withMgt_copies : (s.withMgt v).copies = s.copies := rfl
@[simp] theorem State.withMgt_heldCmds : (s.withMgt v).heldCmds = s.heldCmds := rfl
@[simp] theorem State.withMgt_coord : (s.withMgt v).coord = s.coord := rfl
@[simp] theorem State.withMgt_ctlWindow : (s.withMgt v).ctlWindow = s.ctlWindow := rfl
@[simp] theorem State.withMgt_ctlNeg : (s.withMgt v).ctlNeg = s.ctlNeg := rfl
@[simp] theorem State.withMgt_ctlNegPend : (s.withMgt v).ctlNegPend = s.ctlNegPend := rfl
@[simp] theorem State.withMgt_ctlAgreed : (s.withMgt v).ctlAgreed = s.ctlAgreed := rfl
@[simp] theorem State.withMgt_halves : (s.withMgt v).halves = s.halves := rfl
@[simp] theorem State.withMgt_ctlHb : (s.withMgt v).ctlHb = s.ctlHb := rfl
@[simp] theorem State.withMgt_events : (s.withMgt v).events = s.events := rfl
@[simp] theorem State.withMgt_procs : (s.withMgt v).procs = s.procs := rfl
@[simp] theorem State.withMgt_bring : (s.withMgt v).bring = s.bring := rfl
@[simp] theorem State.withMgt_sec : (s.withMgt v).sec = s.sec := rfl
@[simp] theorem State.withMgt_mgt : (s.withMgt v).mgt = v := rfl
@[simp] theorem State.withMgt_free : (s.withMgt v).free = s.free := rfl
@[simp] theorem State.withMgt_out : (s.withMgt v).out = s.out := rfl
@[simp] theorem State.rd_withMgt (f : Field) (i : Nat) : (s.withMgt v).rd f i = s.rd f i := rfl
end
section
variable (v : Nat)
@[simp] theorem State.withFree_pending : (s.withFree v).pending = s.pending := rfl
@[simp] theorem State.withFree_regs : (s.withFree v).regs = s.regs := rfl
@[simp] theorem State.withFree_staged : (s.withFree v).staged = s.staged := rfl
@[simp] theorem State.withFree_mem : (s.withFree v).mem = s.mem := rfl
@[simp] theorem State.withFree_poison : (s.withFree v).poison = s.poison := rfl
@[simp] theorem State.withFree_lineKey : (s.withFree v).lineKey = s.lineKey := rfl
@[simp] theorem State.withFree_badCopy : (s.withFree v).badCopy = s.badCopy := rfl
@[simp] theorem State.withFree_keys : (s.withFree v).keys = s.keys := rfl
@[simp] theorem State.withFree_hostMem : (s.withFree v).hostMem = s.hostMem := rfl
@[simp] theorem State.withFree_hostBad : (s.withFree v).hostBad = s.hostBad := rfl
@[simp] theorem State.withFree_time : (s.withFree v).time = s.time := rfl
@[simp] theorem State.withFree_parts : (s.withFree v).parts = s.parts := rfl
@[simp] theorem State.withFree_cores : (s.withFree v).cores = s.cores := rfl
@[simp] theorem State.withFree_phys : (s.withFree v).phys = s.phys := rfl
@[simp] theorem State.withFree_threads : (s.withFree v).threads = s.threads := rfl
@[simp] theorem State.withFree_jobs : (s.withFree v).jobs = s.jobs := rfl
@[simp] theorem State.withFree_spurs : (s.withFree v).spurs = s.spurs := rfl
@[simp] theorem State.withFree_dmas : (s.withFree v).dmas = s.dmas := rfl
@[simp] theorem State.withFree_nocReqs : (s.withFree v).nocReqs = s.nocReqs := rfl
@[simp] theorem State.withFree_devErrs : (s.withFree v).devErrs = s.devErrs := rfl
@[simp] theorem State.withFree_sramErrs : (s.withFree v).sramErrs = s.sramErrs := rfl
@[simp] theorem State.withFree_sramUe : (s.withFree v).sramUe = s.sramUe := rfl
@[simp] theorem State.withFree_planHdr : (s.withFree v).planHdr = s.planHdr := rfl
@[simp] theorem State.withFree_cells : (s.withFree v).cells = s.cells := rfl
@[simp] theorem State.withFree_subports : (s.withFree v).subports = s.subports := rfl
@[simp] theorem State.withFree_chains : (s.withFree v).chains = s.chains := rfl
@[simp] theorem State.withFree_fhBufs : (s.withFree v).fhBufs = s.fhBufs := rfl
@[simp] theorem State.withFree_seqs : (s.withFree v).seqs = s.seqs := rfl
@[simp] theorem State.withFree_cmds : (s.withFree v).cmds = s.cmds := rfl
@[simp] theorem State.withFree_nextCmd : (s.withFree v).nextCmd = s.nextCmd := rfl
@[simp] theorem State.withFree_passes : (s.withFree v).passes = s.passes := rfl
@[simp] theorem State.withFree_nextPass : (s.withFree v).nextPass = s.nextPass := rfl
@[simp] theorem State.withFree_models : (s.withFree v).models = s.models := rfl
@[simp] theorem State.withFree_deltas : (s.withFree v).deltas = s.deltas := rfl
@[simp] theorem State.withFree_loads : (s.withFree v).loads = s.loads := rfl
@[simp] theorem State.withFree_lastAdm : (s.withFree v).lastAdm = s.lastAdm := rfl
@[simp] theorem State.withFree_frames : (s.withFree v).frames = s.frames := rfl
@[simp] theorem State.withFree_chunks : (s.withFree v).chunks = s.chunks := rfl
@[simp] theorem State.withFree_freeLists : (s.withFree v).freeLists = s.freeLists := rfl
@[simp] theorem State.withFree_nodes : (s.withFree v).nodes = s.nodes := rfl
@[simp] theorem State.withFree_lru : (s.withFree v).lru = s.lru := rfl
@[simp] theorem State.withFree_heldFrames : (s.withFree v).heldFrames = s.heldFrames := rfl
@[simp] theorem State.withFree_scopesDead : (s.withFree v).scopesDead = s.scopesDead := rfl
@[simp] theorem State.withFree_spills : (s.withFree v).spills = s.spills := rfl
@[simp] theorem State.withFree_links : (s.withFree v).links = s.links := rfl
@[simp] theorem State.withFree_members : (s.withFree v).members = s.members := rfl
@[simp] theorem State.withFree_spares : (s.withFree v).spares = s.spares := rfl
@[simp] theorem State.withFree_cachePeers : (s.withFree v).cachePeers = s.cachePeers := rfl
@[simp] theorem State.withFree_routes : (s.withFree v).routes = s.routes := rfl
@[simp] theorem State.withFree_fabReqs : (s.withFree v).fabReqs = s.fabReqs := rfl
@[simp] theorem State.withFree_nextTid : (s.withFree v).nextTid = s.nextTid := rfl
@[simp] theorem State.withFree_windows : (s.withFree v).windows = s.windows := rfl
@[simp] theorem State.withFree_peers : (s.withFree v).peers = s.peers := rfl
@[simp] theorem State.withFree_move : (s.withFree v).move = s.move := rfl
@[simp] theorem State.withFree_rings : (s.withFree v).rings = s.rings := rfl
@[simp] theorem State.withFree_slices : (s.withFree v).slices = s.slices := rfl
@[simp] theorem State.withFree_groups : (s.withFree v).groups = s.groups := rfl
@[simp] theorem State.withFree_thaws : (s.withFree v).thaws = s.thaws := rfl
@[simp] theorem State.withFree_copies : (s.withFree v).copies = s.copies := rfl
@[simp] theorem State.withFree_heldCmds : (s.withFree v).heldCmds = s.heldCmds := rfl
@[simp] theorem State.withFree_coord : (s.withFree v).coord = s.coord := rfl
@[simp] theorem State.withFree_ctlWindow : (s.withFree v).ctlWindow = s.ctlWindow := rfl
@[simp] theorem State.withFree_ctlNeg : (s.withFree v).ctlNeg = s.ctlNeg := rfl
@[simp] theorem State.withFree_ctlNegPend : (s.withFree v).ctlNegPend = s.ctlNegPend := rfl
@[simp] theorem State.withFree_ctlAgreed : (s.withFree v).ctlAgreed = s.ctlAgreed := rfl
@[simp] theorem State.withFree_halves : (s.withFree v).halves = s.halves := rfl
@[simp] theorem State.withFree_ctlHb : (s.withFree v).ctlHb = s.ctlHb := rfl
@[simp] theorem State.withFree_events : (s.withFree v).events = s.events := rfl
@[simp] theorem State.withFree_procs : (s.withFree v).procs = s.procs := rfl
@[simp] theorem State.withFree_bring : (s.withFree v).bring = s.bring := rfl
@[simp] theorem State.withFree_sec : (s.withFree v).sec = s.sec := rfl
@[simp] theorem State.withFree_mgt : (s.withFree v).mgt = s.mgt := rfl
@[simp] theorem State.withFree_free : (s.withFree v).free = v := rfl
@[simp] theorem State.withFree_out : (s.withFree v).out = s.out := rfl
@[simp] theorem State.rd_withFree (f : Field) (i : Nat) : (s.withFree v).rd f i = s.rd f i := rfl
end
section
variable (v : List Out)
@[simp] theorem State.withOut_pending : (s.withOut v).pending = s.pending := rfl
@[simp] theorem State.withOut_regs : (s.withOut v).regs = s.regs := rfl
@[simp] theorem State.withOut_staged : (s.withOut v).staged = s.staged := rfl
@[simp] theorem State.withOut_mem : (s.withOut v).mem = s.mem := rfl
@[simp] theorem State.withOut_poison : (s.withOut v).poison = s.poison := rfl
@[simp] theorem State.withOut_lineKey : (s.withOut v).lineKey = s.lineKey := rfl
@[simp] theorem State.withOut_badCopy : (s.withOut v).badCopy = s.badCopy := rfl
@[simp] theorem State.withOut_keys : (s.withOut v).keys = s.keys := rfl
@[simp] theorem State.withOut_hostMem : (s.withOut v).hostMem = s.hostMem := rfl
@[simp] theorem State.withOut_hostBad : (s.withOut v).hostBad = s.hostBad := rfl
@[simp] theorem State.withOut_time : (s.withOut v).time = s.time := rfl
@[simp] theorem State.withOut_parts : (s.withOut v).parts = s.parts := rfl
@[simp] theorem State.withOut_cores : (s.withOut v).cores = s.cores := rfl
@[simp] theorem State.withOut_phys : (s.withOut v).phys = s.phys := rfl
@[simp] theorem State.withOut_threads : (s.withOut v).threads = s.threads := rfl
@[simp] theorem State.withOut_jobs : (s.withOut v).jobs = s.jobs := rfl
@[simp] theorem State.withOut_spurs : (s.withOut v).spurs = s.spurs := rfl
@[simp] theorem State.withOut_dmas : (s.withOut v).dmas = s.dmas := rfl
@[simp] theorem State.withOut_nocReqs : (s.withOut v).nocReqs = s.nocReqs := rfl
@[simp] theorem State.withOut_devErrs : (s.withOut v).devErrs = s.devErrs := rfl
@[simp] theorem State.withOut_sramErrs : (s.withOut v).sramErrs = s.sramErrs := rfl
@[simp] theorem State.withOut_sramUe : (s.withOut v).sramUe = s.sramUe := rfl
@[simp] theorem State.withOut_planHdr : (s.withOut v).planHdr = s.planHdr := rfl
@[simp] theorem State.withOut_cells : (s.withOut v).cells = s.cells := rfl
@[simp] theorem State.withOut_subports : (s.withOut v).subports = s.subports := rfl
@[simp] theorem State.withOut_chains : (s.withOut v).chains = s.chains := rfl
@[simp] theorem State.withOut_fhBufs : (s.withOut v).fhBufs = s.fhBufs := rfl
@[simp] theorem State.withOut_seqs : (s.withOut v).seqs = s.seqs := rfl
@[simp] theorem State.withOut_cmds : (s.withOut v).cmds = s.cmds := rfl
@[simp] theorem State.withOut_nextCmd : (s.withOut v).nextCmd = s.nextCmd := rfl
@[simp] theorem State.withOut_passes : (s.withOut v).passes = s.passes := rfl
@[simp] theorem State.withOut_nextPass : (s.withOut v).nextPass = s.nextPass := rfl
@[simp] theorem State.withOut_models : (s.withOut v).models = s.models := rfl
@[simp] theorem State.withOut_deltas : (s.withOut v).deltas = s.deltas := rfl
@[simp] theorem State.withOut_loads : (s.withOut v).loads = s.loads := rfl
@[simp] theorem State.withOut_lastAdm : (s.withOut v).lastAdm = s.lastAdm := rfl
@[simp] theorem State.withOut_frames : (s.withOut v).frames = s.frames := rfl
@[simp] theorem State.withOut_chunks : (s.withOut v).chunks = s.chunks := rfl
@[simp] theorem State.withOut_freeLists : (s.withOut v).freeLists = s.freeLists := rfl
@[simp] theorem State.withOut_nodes : (s.withOut v).nodes = s.nodes := rfl
@[simp] theorem State.withOut_lru : (s.withOut v).lru = s.lru := rfl
@[simp] theorem State.withOut_heldFrames : (s.withOut v).heldFrames = s.heldFrames := rfl
@[simp] theorem State.withOut_scopesDead : (s.withOut v).scopesDead = s.scopesDead := rfl
@[simp] theorem State.withOut_spills : (s.withOut v).spills = s.spills := rfl
@[simp] theorem State.withOut_links : (s.withOut v).links = s.links := rfl
@[simp] theorem State.withOut_members : (s.withOut v).members = s.members := rfl
@[simp] theorem State.withOut_spares : (s.withOut v).spares = s.spares := rfl
@[simp] theorem State.withOut_cachePeers : (s.withOut v).cachePeers = s.cachePeers := rfl
@[simp] theorem State.withOut_routes : (s.withOut v).routes = s.routes := rfl
@[simp] theorem State.withOut_fabReqs : (s.withOut v).fabReqs = s.fabReqs := rfl
@[simp] theorem State.withOut_nextTid : (s.withOut v).nextTid = s.nextTid := rfl
@[simp] theorem State.withOut_windows : (s.withOut v).windows = s.windows := rfl
@[simp] theorem State.withOut_peers : (s.withOut v).peers = s.peers := rfl
@[simp] theorem State.withOut_move : (s.withOut v).move = s.move := rfl
@[simp] theorem State.withOut_rings : (s.withOut v).rings = s.rings := rfl
@[simp] theorem State.withOut_slices : (s.withOut v).slices = s.slices := rfl
@[simp] theorem State.withOut_groups : (s.withOut v).groups = s.groups := rfl
@[simp] theorem State.withOut_thaws : (s.withOut v).thaws = s.thaws := rfl
@[simp] theorem State.withOut_copies : (s.withOut v).copies = s.copies := rfl
@[simp] theorem State.withOut_heldCmds : (s.withOut v).heldCmds = s.heldCmds := rfl
@[simp] theorem State.withOut_coord : (s.withOut v).coord = s.coord := rfl
@[simp] theorem State.withOut_ctlWindow : (s.withOut v).ctlWindow = s.ctlWindow := rfl
@[simp] theorem State.withOut_ctlNeg : (s.withOut v).ctlNeg = s.ctlNeg := rfl
@[simp] theorem State.withOut_ctlNegPend : (s.withOut v).ctlNegPend = s.ctlNegPend := rfl
@[simp] theorem State.withOut_ctlAgreed : (s.withOut v).ctlAgreed = s.ctlAgreed := rfl
@[simp] theorem State.withOut_halves : (s.withOut v).halves = s.halves := rfl
@[simp] theorem State.withOut_ctlHb : (s.withOut v).ctlHb = s.ctlHb := rfl
@[simp] theorem State.withOut_events : (s.withOut v).events = s.events := rfl
@[simp] theorem State.withOut_procs : (s.withOut v).procs = s.procs := rfl
@[simp] theorem State.withOut_bring : (s.withOut v).bring = s.bring := rfl
@[simp] theorem State.withOut_sec : (s.withOut v).sec = s.sec := rfl
@[simp] theorem State.withOut_mgt : (s.withOut v).mgt = s.mgt := rfl
@[simp] theorem State.withOut_free : (s.withOut v).free = s.free := rfl
@[simp] theorem State.withOut_out : (s.withOut v).out = v := rfl
@[simp] theorem State.rd_withOut (f : Field) (i : Nat) : (s.withOut v).rd f i = s.rd f i := rfl
end
@[simp] theorem State.put_pending (f : Field) (w i : Nat) : (s.put f w i).pending = s.pending := rfl
@[simp] theorem State.put_staged (f : Field) (w i : Nat) : (s.put f w i).staged = s.staged := rfl
@[simp] theorem State.put_mem (f : Field) (w i : Nat) : (s.put f w i).mem = s.mem := rfl
@[simp] theorem State.put_poison (f : Field) (w i : Nat) : (s.put f w i).poison = s.poison := rfl
@[simp] theorem State.put_lineKey (f : Field) (w i : Nat) : (s.put f w i).lineKey = s.lineKey := rfl
@[simp] theorem State.put_badCopy (f : Field) (w i : Nat) : (s.put f w i).badCopy = s.badCopy := rfl
@[simp] theorem State.put_keys (f : Field) (w i : Nat) : (s.put f w i).keys = s.keys := rfl
@[simp] theorem State.put_hostMem (f : Field) (w i : Nat) : (s.put f w i).hostMem = s.hostMem := rfl
@[simp] theorem State.put_hostBad (f : Field) (w i : Nat) : (s.put f w i).hostBad = s.hostBad := rfl
@[simp] theorem State.put_time (f : Field) (w i : Nat) : (s.put f w i).time = s.time := rfl
@[simp] theorem State.put_parts (f : Field) (w i : Nat) : (s.put f w i).parts = s.parts := rfl
@[simp] theorem State.put_cores (f : Field) (w i : Nat) : (s.put f w i).cores = s.cores := rfl
@[simp] theorem State.put_phys (f : Field) (w i : Nat) : (s.put f w i).phys = s.phys := rfl
@[simp] theorem State.put_threads (f : Field) (w i : Nat) : (s.put f w i).threads = s.threads := rfl
@[simp] theorem State.put_jobs (f : Field) (w i : Nat) : (s.put f w i).jobs = s.jobs := rfl
@[simp] theorem State.put_spurs (f : Field) (w i : Nat) : (s.put f w i).spurs = s.spurs := rfl
@[simp] theorem State.put_dmas (f : Field) (w i : Nat) : (s.put f w i).dmas = s.dmas := rfl
@[simp] theorem State.put_nocReqs (f : Field) (w i : Nat) : (s.put f w i).nocReqs = s.nocReqs := rfl
@[simp] theorem State.put_devErrs (f : Field) (w i : Nat) : (s.put f w i).devErrs = s.devErrs := rfl
@[simp] theorem State.put_sramErrs (f : Field) (w i : Nat) : (s.put f w i).sramErrs = s.sramErrs := rfl
@[simp] theorem State.put_sramUe (f : Field) (w i : Nat) : (s.put f w i).sramUe = s.sramUe := rfl
@[simp] theorem State.put_planHdr (f : Field) (w i : Nat) : (s.put f w i).planHdr = s.planHdr := rfl
@[simp] theorem State.put_cells (f : Field) (w i : Nat) : (s.put f w i).cells = s.cells := rfl
@[simp] theorem State.put_subports (f : Field) (w i : Nat) : (s.put f w i).subports = s.subports := rfl
@[simp] theorem State.put_chains (f : Field) (w i : Nat) : (s.put f w i).chains = s.chains := rfl
@[simp] theorem State.put_fhBufs (f : Field) (w i : Nat) : (s.put f w i).fhBufs = s.fhBufs := rfl
@[simp] theorem State.put_seqs (f : Field) (w i : Nat) : (s.put f w i).seqs = s.seqs := rfl
@[simp] theorem State.put_cmds (f : Field) (w i : Nat) : (s.put f w i).cmds = s.cmds := rfl
@[simp] theorem State.put_nextCmd (f : Field) (w i : Nat) : (s.put f w i).nextCmd = s.nextCmd := rfl
@[simp] theorem State.put_passes (f : Field) (w i : Nat) : (s.put f w i).passes = s.passes := rfl
@[simp] theorem State.put_nextPass (f : Field) (w i : Nat) : (s.put f w i).nextPass = s.nextPass := rfl
@[simp] theorem State.put_models (f : Field) (w i : Nat) : (s.put f w i).models = s.models := rfl
@[simp] theorem State.put_deltas (f : Field) (w i : Nat) : (s.put f w i).deltas = s.deltas := rfl
@[simp] theorem State.put_loads (f : Field) (w i : Nat) : (s.put f w i).loads = s.loads := rfl
@[simp] theorem State.put_lastAdm (f : Field) (w i : Nat) : (s.put f w i).lastAdm = s.lastAdm := rfl
@[simp] theorem State.put_frames (f : Field) (w i : Nat) : (s.put f w i).frames = s.frames := rfl
@[simp] theorem State.put_chunks (f : Field) (w i : Nat) : (s.put f w i).chunks = s.chunks := rfl
@[simp] theorem State.put_freeLists (f : Field) (w i : Nat) : (s.put f w i).freeLists = s.freeLists := rfl
@[simp] theorem State.put_nodes (f : Field) (w i : Nat) : (s.put f w i).nodes = s.nodes := rfl
@[simp] theorem State.put_lru (f : Field) (w i : Nat) : (s.put f w i).lru = s.lru := rfl
@[simp] theorem State.put_heldFrames (f : Field) (w i : Nat) : (s.put f w i).heldFrames = s.heldFrames := rfl
@[simp] theorem State.put_scopesDead (f : Field) (w i : Nat) : (s.put f w i).scopesDead = s.scopesDead := rfl
@[simp] theorem State.put_spills (f : Field) (w i : Nat) : (s.put f w i).spills = s.spills := rfl
@[simp] theorem State.put_links (f : Field) (w i : Nat) : (s.put f w i).links = s.links := rfl
@[simp] theorem State.put_members (f : Field) (w i : Nat) : (s.put f w i).members = s.members := rfl
@[simp] theorem State.put_spares (f : Field) (w i : Nat) : (s.put f w i).spares = s.spares := rfl
@[simp] theorem State.put_cachePeers (f : Field) (w i : Nat) : (s.put f w i).cachePeers = s.cachePeers := rfl
@[simp] theorem State.put_routes (f : Field) (w i : Nat) : (s.put f w i).routes = s.routes := rfl
@[simp] theorem State.put_fabReqs (f : Field) (w i : Nat) : (s.put f w i).fabReqs = s.fabReqs := rfl
@[simp] theorem State.put_nextTid (f : Field) (w i : Nat) : (s.put f w i).nextTid = s.nextTid := rfl
@[simp] theorem State.put_windows (f : Field) (w i : Nat) : (s.put f w i).windows = s.windows := rfl
@[simp] theorem State.put_peers (f : Field) (w i : Nat) : (s.put f w i).peers = s.peers := rfl
@[simp] theorem State.put_move (f : Field) (w i : Nat) : (s.put f w i).move = s.move := rfl
@[simp] theorem State.put_rings (f : Field) (w i : Nat) : (s.put f w i).rings = s.rings := rfl
@[simp] theorem State.put_slices (f : Field) (w i : Nat) : (s.put f w i).slices = s.slices := rfl
@[simp] theorem State.put_groups (f : Field) (w i : Nat) : (s.put f w i).groups = s.groups := rfl
@[simp] theorem State.put_thaws (f : Field) (w i : Nat) : (s.put f w i).thaws = s.thaws := rfl
@[simp] theorem State.put_copies (f : Field) (w i : Nat) : (s.put f w i).copies = s.copies := rfl
@[simp] theorem State.put_heldCmds (f : Field) (w i : Nat) : (s.put f w i).heldCmds = s.heldCmds := rfl
@[simp] theorem State.put_coord (f : Field) (w i : Nat) : (s.put f w i).coord = s.coord := rfl
@[simp] theorem State.put_ctlWindow (f : Field) (w i : Nat) : (s.put f w i).ctlWindow = s.ctlWindow := rfl
@[simp] theorem State.put_ctlNeg (f : Field) (w i : Nat) : (s.put f w i).ctlNeg = s.ctlNeg := rfl
@[simp] theorem State.put_ctlNegPend (f : Field) (w i : Nat) : (s.put f w i).ctlNegPend = s.ctlNegPend := rfl
@[simp] theorem State.put_ctlAgreed (f : Field) (w i : Nat) : (s.put f w i).ctlAgreed = s.ctlAgreed := rfl
@[simp] theorem State.put_halves (f : Field) (w i : Nat) : (s.put f w i).halves = s.halves := rfl
@[simp] theorem State.put_ctlHb (f : Field) (w i : Nat) : (s.put f w i).ctlHb = s.ctlHb := rfl
@[simp] theorem State.put_events (f : Field) (w i : Nat) : (s.put f w i).events = s.events := rfl
@[simp] theorem State.put_procs (f : Field) (w i : Nat) : (s.put f w i).procs = s.procs := rfl
@[simp] theorem State.put_bring (f : Field) (w i : Nat) : (s.put f w i).bring = s.bring := rfl
@[simp] theorem State.put_sec (f : Field) (w i : Nat) : (s.put f w i).sec = s.sec := rfl
@[simp] theorem State.put_mgt (f : Field) (w i : Nat) : (s.put f w i).mgt = s.mgt := rfl
@[simp] theorem State.put_free (f : Field) (w i : Nat) : (s.put f w i).free = s.free := rfl
@[simp] theorem State.put_out (f : Field) (w i : Nat) : (s.put f w i).out = s.out := rfl
@[simp] theorem State.memWr_pending (a : Nat) (bs : List Byte) : (s.memWr a bs).pending = s.pending := rfl
@[simp] theorem State.memWr_regs (a : Nat) (bs : List Byte) : (s.memWr a bs).regs = s.regs := rfl
@[simp] theorem State.memWr_staged (a : Nat) (bs : List Byte) : (s.memWr a bs).staged = s.staged := rfl
@[simp] theorem State.memWr_poison (a : Nat) (bs : List Byte) : (s.memWr a bs).poison = s.poison := rfl
@[simp] theorem State.memWr_lineKey (a : Nat) (bs : List Byte) : (s.memWr a bs).lineKey = s.lineKey := rfl
@[simp] theorem State.memWr_badCopy (a : Nat) (bs : List Byte) : (s.memWr a bs).badCopy = s.badCopy := rfl
@[simp] theorem State.memWr_keys (a : Nat) (bs : List Byte) : (s.memWr a bs).keys = s.keys := rfl
@[simp] theorem State.memWr_hostMem (a : Nat) (bs : List Byte) : (s.memWr a bs).hostMem = s.hostMem := rfl
@[simp] theorem State.memWr_hostBad (a : Nat) (bs : List Byte) : (s.memWr a bs).hostBad = s.hostBad := rfl
@[simp] theorem State.memWr_time (a : Nat) (bs : List Byte) : (s.memWr a bs).time = s.time := rfl
@[simp] theorem State.memWr_parts (a : Nat) (bs : List Byte) : (s.memWr a bs).parts = s.parts := rfl
@[simp] theorem State.memWr_cores (a : Nat) (bs : List Byte) : (s.memWr a bs).cores = s.cores := rfl
@[simp] theorem State.memWr_phys (a : Nat) (bs : List Byte) : (s.memWr a bs).phys = s.phys := rfl
@[simp] theorem State.memWr_threads (a : Nat) (bs : List Byte) : (s.memWr a bs).threads = s.threads := rfl
@[simp] theorem State.memWr_jobs (a : Nat) (bs : List Byte) : (s.memWr a bs).jobs = s.jobs := rfl
@[simp] theorem State.memWr_spurs (a : Nat) (bs : List Byte) : (s.memWr a bs).spurs = s.spurs := rfl
@[simp] theorem State.memWr_dmas (a : Nat) (bs : List Byte) : (s.memWr a bs).dmas = s.dmas := rfl
@[simp] theorem State.memWr_nocReqs (a : Nat) (bs : List Byte) : (s.memWr a bs).nocReqs = s.nocReqs := rfl
@[simp] theorem State.memWr_devErrs (a : Nat) (bs : List Byte) : (s.memWr a bs).devErrs = s.devErrs := rfl
@[simp] theorem State.memWr_sramErrs (a : Nat) (bs : List Byte) : (s.memWr a bs).sramErrs = s.sramErrs := rfl
@[simp] theorem State.memWr_sramUe (a : Nat) (bs : List Byte) : (s.memWr a bs).sramUe = s.sramUe := rfl
@[simp] theorem State.memWr_planHdr (a : Nat) (bs : List Byte) : (s.memWr a bs).planHdr = s.planHdr := rfl
@[simp] theorem State.memWr_cells (a : Nat) (bs : List Byte) : (s.memWr a bs).cells = s.cells := rfl
@[simp] theorem State.memWr_subports (a : Nat) (bs : List Byte) : (s.memWr a bs).subports = s.subports := rfl
@[simp] theorem State.memWr_chains (a : Nat) (bs : List Byte) : (s.memWr a bs).chains = s.chains := rfl
@[simp] theorem State.memWr_fhBufs (a : Nat) (bs : List Byte) : (s.memWr a bs).fhBufs = s.fhBufs := rfl
@[simp] theorem State.memWr_seqs (a : Nat) (bs : List Byte) : (s.memWr a bs).seqs = s.seqs := rfl
@[simp] theorem State.memWr_cmds (a : Nat) (bs : List Byte) : (s.memWr a bs).cmds = s.cmds := rfl
@[simp] theorem State.memWr_nextCmd (a : Nat) (bs : List Byte) : (s.memWr a bs).nextCmd = s.nextCmd := rfl
@[simp] theorem State.memWr_passes (a : Nat) (bs : List Byte) : (s.memWr a bs).passes = s.passes := rfl
@[simp] theorem State.memWr_nextPass (a : Nat) (bs : List Byte) : (s.memWr a bs).nextPass = s.nextPass := rfl
@[simp] theorem State.memWr_models (a : Nat) (bs : List Byte) : (s.memWr a bs).models = s.models := rfl
@[simp] theorem State.memWr_deltas (a : Nat) (bs : List Byte) : (s.memWr a bs).deltas = s.deltas := rfl
@[simp] theorem State.memWr_loads (a : Nat) (bs : List Byte) : (s.memWr a bs).loads = s.loads := rfl
@[simp] theorem State.memWr_lastAdm (a : Nat) (bs : List Byte) : (s.memWr a bs).lastAdm = s.lastAdm := rfl
@[simp] theorem State.memWr_frames (a : Nat) (bs : List Byte) : (s.memWr a bs).frames = s.frames := rfl
@[simp] theorem State.memWr_chunks (a : Nat) (bs : List Byte) : (s.memWr a bs).chunks = s.chunks := rfl
@[simp] theorem State.memWr_freeLists (a : Nat) (bs : List Byte) : (s.memWr a bs).freeLists = s.freeLists := rfl
@[simp] theorem State.memWr_nodes (a : Nat) (bs : List Byte) : (s.memWr a bs).nodes = s.nodes := rfl
@[simp] theorem State.memWr_lru (a : Nat) (bs : List Byte) : (s.memWr a bs).lru = s.lru := rfl
@[simp] theorem State.memWr_heldFrames (a : Nat) (bs : List Byte) : (s.memWr a bs).heldFrames = s.heldFrames := rfl
@[simp] theorem State.memWr_scopesDead (a : Nat) (bs : List Byte) : (s.memWr a bs).scopesDead = s.scopesDead := rfl
@[simp] theorem State.memWr_spills (a : Nat) (bs : List Byte) : (s.memWr a bs).spills = s.spills := rfl
@[simp] theorem State.memWr_links (a : Nat) (bs : List Byte) : (s.memWr a bs).links = s.links := rfl
@[simp] theorem State.memWr_members (a : Nat) (bs : List Byte) : (s.memWr a bs).members = s.members := rfl
@[simp] theorem State.memWr_spares (a : Nat) (bs : List Byte) : (s.memWr a bs).spares = s.spares := rfl
@[simp] theorem State.memWr_cachePeers (a : Nat) (bs : List Byte) : (s.memWr a bs).cachePeers = s.cachePeers := rfl
@[simp] theorem State.memWr_routes (a : Nat) (bs : List Byte) : (s.memWr a bs).routes = s.routes := rfl
@[simp] theorem State.memWr_fabReqs (a : Nat) (bs : List Byte) : (s.memWr a bs).fabReqs = s.fabReqs := rfl
@[simp] theorem State.memWr_nextTid (a : Nat) (bs : List Byte) : (s.memWr a bs).nextTid = s.nextTid := rfl
@[simp] theorem State.memWr_windows (a : Nat) (bs : List Byte) : (s.memWr a bs).windows = s.windows := rfl
@[simp] theorem State.memWr_peers (a : Nat) (bs : List Byte) : (s.memWr a bs).peers = s.peers := rfl
@[simp] theorem State.memWr_move (a : Nat) (bs : List Byte) : (s.memWr a bs).move = s.move := rfl
@[simp] theorem State.memWr_rings (a : Nat) (bs : List Byte) : (s.memWr a bs).rings = s.rings := rfl
@[simp] theorem State.memWr_slices (a : Nat) (bs : List Byte) : (s.memWr a bs).slices = s.slices := rfl
@[simp] theorem State.memWr_groups (a : Nat) (bs : List Byte) : (s.memWr a bs).groups = s.groups := rfl
@[simp] theorem State.memWr_thaws (a : Nat) (bs : List Byte) : (s.memWr a bs).thaws = s.thaws := rfl
@[simp] theorem State.memWr_copies (a : Nat) (bs : List Byte) : (s.memWr a bs).copies = s.copies := rfl
@[simp] theorem State.memWr_heldCmds (a : Nat) (bs : List Byte) : (s.memWr a bs).heldCmds = s.heldCmds := rfl
@[simp] theorem State.memWr_coord (a : Nat) (bs : List Byte) : (s.memWr a bs).coord = s.coord := rfl
@[simp] theorem State.memWr_ctlWindow (a : Nat) (bs : List Byte) : (s.memWr a bs).ctlWindow = s.ctlWindow := rfl
@[simp] theorem State.memWr_ctlNeg (a : Nat) (bs : List Byte) : (s.memWr a bs).ctlNeg = s.ctlNeg := rfl
@[simp] theorem State.memWr_ctlNegPend (a : Nat) (bs : List Byte) : (s.memWr a bs).ctlNegPend = s.ctlNegPend := rfl
@[simp] theorem State.memWr_ctlAgreed (a : Nat) (bs : List Byte) : (s.memWr a bs).ctlAgreed = s.ctlAgreed := rfl
@[simp] theorem State.memWr_halves (a : Nat) (bs : List Byte) : (s.memWr a bs).halves = s.halves := rfl
@[simp] theorem State.memWr_ctlHb (a : Nat) (bs : List Byte) : (s.memWr a bs).ctlHb = s.ctlHb := rfl
@[simp] theorem State.memWr_events (a : Nat) (bs : List Byte) : (s.memWr a bs).events = s.events := rfl
@[simp] theorem State.memWr_procs (a : Nat) (bs : List Byte) : (s.memWr a bs).procs = s.procs := rfl
@[simp] theorem State.memWr_bring (a : Nat) (bs : List Byte) : (s.memWr a bs).bring = s.bring := rfl
@[simp] theorem State.memWr_sec (a : Nat) (bs : List Byte) : (s.memWr a bs).sec = s.sec := rfl
@[simp] theorem State.memWr_mgt (a : Nat) (bs : List Byte) : (s.memWr a bs).mgt = s.mgt := rfl
@[simp] theorem State.memWr_free (a : Nat) (bs : List Byte) : (s.memWr a bs).free = s.free := rfl
@[simp] theorem State.memWr_out (a : Nat) (bs : List Byte) : (s.memWr a bs).out = s.out := rfl
@[simp] theorem State.rd_memWr (a : Nat) (bs : List Byte) (g : Field) (j : Nat) : (s.memWr a bs).rd g j = s.rd g j := rfl
@[simp] theorem State.emit_pending (o : Out) : (s.emit o).pending = s.pending := rfl
@[simp] theorem State.emit_regs (o : Out) : (s.emit o).regs = s.regs := rfl
@[simp] theorem State.emit_staged (o : Out) : (s.emit o).staged = s.staged := rfl
@[simp] theorem State.emit_mem (o : Out) : (s.emit o).mem = s.mem := rfl
@[simp] theorem State.emit_poison (o : Out) : (s.emit o).poison = s.poison := rfl
@[simp] theorem State.emit_lineKey (o : Out) : (s.emit o).lineKey = s.lineKey := rfl
@[simp] theorem State.emit_badCopy (o : Out) : (s.emit o).badCopy = s.badCopy := rfl
@[simp] theorem State.emit_keys (o : Out) : (s.emit o).keys = s.keys := rfl
@[simp] theorem State.emit_hostMem (o : Out) : (s.emit o).hostMem = s.hostMem := rfl
@[simp] theorem State.emit_hostBad (o : Out) : (s.emit o).hostBad = s.hostBad := rfl
@[simp] theorem State.emit_time (o : Out) : (s.emit o).time = s.time := rfl
@[simp] theorem State.emit_parts (o : Out) : (s.emit o).parts = s.parts := rfl
@[simp] theorem State.emit_cores (o : Out) : (s.emit o).cores = s.cores := rfl
@[simp] theorem State.emit_phys (o : Out) : (s.emit o).phys = s.phys := rfl
@[simp] theorem State.emit_threads (o : Out) : (s.emit o).threads = s.threads := rfl
@[simp] theorem State.emit_jobs (o : Out) : (s.emit o).jobs = s.jobs := rfl
@[simp] theorem State.emit_spurs (o : Out) : (s.emit o).spurs = s.spurs := rfl
@[simp] theorem State.emit_dmas (o : Out) : (s.emit o).dmas = s.dmas := rfl
@[simp] theorem State.emit_nocReqs (o : Out) : (s.emit o).nocReqs = s.nocReqs := rfl
@[simp] theorem State.emit_devErrs (o : Out) : (s.emit o).devErrs = s.devErrs := rfl
@[simp] theorem State.emit_sramErrs (o : Out) : (s.emit o).sramErrs = s.sramErrs := rfl
@[simp] theorem State.emit_sramUe (o : Out) : (s.emit o).sramUe = s.sramUe := rfl
@[simp] theorem State.emit_planHdr (o : Out) : (s.emit o).planHdr = s.planHdr := rfl
@[simp] theorem State.emit_cells (o : Out) : (s.emit o).cells = s.cells := rfl
@[simp] theorem State.emit_subports (o : Out) : (s.emit o).subports = s.subports := rfl
@[simp] theorem State.emit_chains (o : Out) : (s.emit o).chains = s.chains := rfl
@[simp] theorem State.emit_fhBufs (o : Out) : (s.emit o).fhBufs = s.fhBufs := rfl
@[simp] theorem State.emit_seqs (o : Out) : (s.emit o).seqs = s.seqs := rfl
@[simp] theorem State.emit_cmds (o : Out) : (s.emit o).cmds = s.cmds := rfl
@[simp] theorem State.emit_nextCmd (o : Out) : (s.emit o).nextCmd = s.nextCmd := rfl
@[simp] theorem State.emit_passes (o : Out) : (s.emit o).passes = s.passes := rfl
@[simp] theorem State.emit_nextPass (o : Out) : (s.emit o).nextPass = s.nextPass := rfl
@[simp] theorem State.emit_models (o : Out) : (s.emit o).models = s.models := rfl
@[simp] theorem State.emit_deltas (o : Out) : (s.emit o).deltas = s.deltas := rfl
@[simp] theorem State.emit_loads (o : Out) : (s.emit o).loads = s.loads := rfl
@[simp] theorem State.emit_lastAdm (o : Out) : (s.emit o).lastAdm = s.lastAdm := rfl
@[simp] theorem State.emit_frames (o : Out) : (s.emit o).frames = s.frames := rfl
@[simp] theorem State.emit_chunks (o : Out) : (s.emit o).chunks = s.chunks := rfl
@[simp] theorem State.emit_freeLists (o : Out) : (s.emit o).freeLists = s.freeLists := rfl
@[simp] theorem State.emit_nodes (o : Out) : (s.emit o).nodes = s.nodes := rfl
@[simp] theorem State.emit_lru (o : Out) : (s.emit o).lru = s.lru := rfl
@[simp] theorem State.emit_heldFrames (o : Out) : (s.emit o).heldFrames = s.heldFrames := rfl
@[simp] theorem State.emit_scopesDead (o : Out) : (s.emit o).scopesDead = s.scopesDead := rfl
@[simp] theorem State.emit_spills (o : Out) : (s.emit o).spills = s.spills := rfl
@[simp] theorem State.emit_links (o : Out) : (s.emit o).links = s.links := rfl
@[simp] theorem State.emit_members (o : Out) : (s.emit o).members = s.members := rfl
@[simp] theorem State.emit_spares (o : Out) : (s.emit o).spares = s.spares := rfl
@[simp] theorem State.emit_cachePeers (o : Out) : (s.emit o).cachePeers = s.cachePeers := rfl
@[simp] theorem State.emit_routes (o : Out) : (s.emit o).routes = s.routes := rfl
@[simp] theorem State.emit_fabReqs (o : Out) : (s.emit o).fabReqs = s.fabReqs := rfl
@[simp] theorem State.emit_nextTid (o : Out) : (s.emit o).nextTid = s.nextTid := rfl
@[simp] theorem State.emit_windows (o : Out) : (s.emit o).windows = s.windows := rfl
@[simp] theorem State.emit_peers (o : Out) : (s.emit o).peers = s.peers := rfl
@[simp] theorem State.emit_move (o : Out) : (s.emit o).move = s.move := rfl
@[simp] theorem State.emit_rings (o : Out) : (s.emit o).rings = s.rings := rfl
@[simp] theorem State.emit_slices (o : Out) : (s.emit o).slices = s.slices := rfl
@[simp] theorem State.emit_groups (o : Out) : (s.emit o).groups = s.groups := rfl
@[simp] theorem State.emit_thaws (o : Out) : (s.emit o).thaws = s.thaws := rfl
@[simp] theorem State.emit_copies (o : Out) : (s.emit o).copies = s.copies := rfl
@[simp] theorem State.emit_heldCmds (o : Out) : (s.emit o).heldCmds = s.heldCmds := rfl
@[simp] theorem State.emit_coord (o : Out) : (s.emit o).coord = s.coord := rfl
@[simp] theorem State.emit_ctlWindow (o : Out) : (s.emit o).ctlWindow = s.ctlWindow := rfl
@[simp] theorem State.emit_ctlNeg (o : Out) : (s.emit o).ctlNeg = s.ctlNeg := rfl
@[simp] theorem State.emit_ctlNegPend (o : Out) : (s.emit o).ctlNegPend = s.ctlNegPend := rfl
@[simp] theorem State.emit_ctlAgreed (o : Out) : (s.emit o).ctlAgreed = s.ctlAgreed := rfl
@[simp] theorem State.emit_halves (o : Out) : (s.emit o).halves = s.halves := rfl
@[simp] theorem State.emit_ctlHb (o : Out) : (s.emit o).ctlHb = s.ctlHb := rfl
@[simp] theorem State.emit_events (o : Out) : (s.emit o).events = s.events := rfl
@[simp] theorem State.emit_procs (o : Out) : (s.emit o).procs = s.procs := rfl
@[simp] theorem State.emit_bring (o : Out) : (s.emit o).bring = s.bring := rfl
@[simp] theorem State.emit_sec (o : Out) : (s.emit o).sec = s.sec := rfl
@[simp] theorem State.emit_mgt (o : Out) : (s.emit o).mgt = s.mgt := rfl
@[simp] theorem State.emit_free (o : Out) : (s.emit o).free = s.free := rfl
@[simp] theorem State.rd_emit (o : Out) (g : Field) (j : Nat) : (s.emit o).rd g j = s.rd g j := rfl
@[simp] theorem State.drawn_pending  : (s.drawn).pending = s.pending := rfl
@[simp] theorem State.drawn_regs  : (s.drawn).regs = s.regs := rfl
@[simp] theorem State.drawn_staged  : (s.drawn).staged = s.staged := rfl
@[simp] theorem State.drawn_mem  : (s.drawn).mem = s.mem := rfl
@[simp] theorem State.drawn_poison  : (s.drawn).poison = s.poison := rfl
@[simp] theorem State.drawn_lineKey  : (s.drawn).lineKey = s.lineKey := rfl
@[simp] theorem State.drawn_badCopy  : (s.drawn).badCopy = s.badCopy := rfl
@[simp] theorem State.drawn_keys  : (s.drawn).keys = s.keys := rfl
@[simp] theorem State.drawn_hostMem  : (s.drawn).hostMem = s.hostMem := rfl
@[simp] theorem State.drawn_hostBad  : (s.drawn).hostBad = s.hostBad := rfl
@[simp] theorem State.drawn_time  : (s.drawn).time = s.time := rfl
@[simp] theorem State.drawn_parts  : (s.drawn).parts = s.parts := rfl
@[simp] theorem State.drawn_cores  : (s.drawn).cores = s.cores := rfl
@[simp] theorem State.drawn_phys  : (s.drawn).phys = s.phys := rfl
@[simp] theorem State.drawn_threads  : (s.drawn).threads = s.threads := rfl
@[simp] theorem State.drawn_jobs  : (s.drawn).jobs = s.jobs := rfl
@[simp] theorem State.drawn_spurs  : (s.drawn).spurs = s.spurs := rfl
@[simp] theorem State.drawn_dmas  : (s.drawn).dmas = s.dmas := rfl
@[simp] theorem State.drawn_nocReqs  : (s.drawn).nocReqs = s.nocReqs := rfl
@[simp] theorem State.drawn_devErrs  : (s.drawn).devErrs = s.devErrs := rfl
@[simp] theorem State.drawn_sramErrs  : (s.drawn).sramErrs = s.sramErrs := rfl
@[simp] theorem State.drawn_sramUe  : (s.drawn).sramUe = s.sramUe := rfl
@[simp] theorem State.drawn_planHdr  : (s.drawn).planHdr = s.planHdr := rfl
@[simp] theorem State.drawn_cells  : (s.drawn).cells = s.cells := rfl
@[simp] theorem State.drawn_subports  : (s.drawn).subports = s.subports := rfl
@[simp] theorem State.drawn_chains  : (s.drawn).chains = s.chains := rfl
@[simp] theorem State.drawn_fhBufs  : (s.drawn).fhBufs = s.fhBufs := rfl
@[simp] theorem State.drawn_seqs  : (s.drawn).seqs = s.seqs := rfl
@[simp] theorem State.drawn_cmds  : (s.drawn).cmds = s.cmds := rfl
@[simp] theorem State.drawn_nextCmd  : (s.drawn).nextCmd = s.nextCmd := rfl
@[simp] theorem State.drawn_passes  : (s.drawn).passes = s.passes := rfl
@[simp] theorem State.drawn_nextPass  : (s.drawn).nextPass = s.nextPass := rfl
@[simp] theorem State.drawn_models  : (s.drawn).models = s.models := rfl
@[simp] theorem State.drawn_deltas  : (s.drawn).deltas = s.deltas := rfl
@[simp] theorem State.drawn_loads  : (s.drawn).loads = s.loads := rfl
@[simp] theorem State.drawn_lastAdm  : (s.drawn).lastAdm = s.lastAdm := rfl
@[simp] theorem State.drawn_frames  : (s.drawn).frames = s.frames := rfl
@[simp] theorem State.drawn_chunks  : (s.drawn).chunks = s.chunks := rfl
@[simp] theorem State.drawn_freeLists  : (s.drawn).freeLists = s.freeLists := rfl
@[simp] theorem State.drawn_nodes  : (s.drawn).nodes = s.nodes := rfl
@[simp] theorem State.drawn_lru  : (s.drawn).lru = s.lru := rfl
@[simp] theorem State.drawn_heldFrames  : (s.drawn).heldFrames = s.heldFrames := rfl
@[simp] theorem State.drawn_scopesDead  : (s.drawn).scopesDead = s.scopesDead := rfl
@[simp] theorem State.drawn_spills  : (s.drawn).spills = s.spills := rfl
@[simp] theorem State.drawn_links  : (s.drawn).links = s.links := rfl
@[simp] theorem State.drawn_members  : (s.drawn).members = s.members := rfl
@[simp] theorem State.drawn_spares  : (s.drawn).spares = s.spares := rfl
@[simp] theorem State.drawn_cachePeers  : (s.drawn).cachePeers = s.cachePeers := rfl
@[simp] theorem State.drawn_routes  : (s.drawn).routes = s.routes := rfl
@[simp] theorem State.drawn_fabReqs  : (s.drawn).fabReqs = s.fabReqs := rfl
@[simp] theorem State.drawn_nextTid  : (s.drawn).nextTid = s.nextTid := rfl
@[simp] theorem State.drawn_windows  : (s.drawn).windows = s.windows := rfl
@[simp] theorem State.drawn_peers  : (s.drawn).peers = s.peers := rfl
@[simp] theorem State.drawn_move  : (s.drawn).move = s.move := rfl
@[simp] theorem State.drawn_rings  : (s.drawn).rings = s.rings := rfl
@[simp] theorem State.drawn_slices  : (s.drawn).slices = s.slices := rfl
@[simp] theorem State.drawn_groups  : (s.drawn).groups = s.groups := rfl
@[simp] theorem State.drawn_thaws  : (s.drawn).thaws = s.thaws := rfl
@[simp] theorem State.drawn_copies  : (s.drawn).copies = s.copies := rfl
@[simp] theorem State.drawn_heldCmds  : (s.drawn).heldCmds = s.heldCmds := rfl
@[simp] theorem State.drawn_coord  : (s.drawn).coord = s.coord := rfl
@[simp] theorem State.drawn_ctlWindow  : (s.drawn).ctlWindow = s.ctlWindow := rfl
@[simp] theorem State.drawn_ctlNeg  : (s.drawn).ctlNeg = s.ctlNeg := rfl
@[simp] theorem State.drawn_ctlNegPend  : (s.drawn).ctlNegPend = s.ctlNegPend := rfl
@[simp] theorem State.drawn_ctlAgreed  : (s.drawn).ctlAgreed = s.ctlAgreed := rfl
@[simp] theorem State.drawn_halves  : (s.drawn).halves = s.halves := rfl
@[simp] theorem State.drawn_ctlHb  : (s.drawn).ctlHb = s.ctlHb := rfl
@[simp] theorem State.drawn_events  : (s.drawn).events = s.events := rfl
@[simp] theorem State.drawn_procs  : (s.drawn).procs = s.procs := rfl
@[simp] theorem State.drawn_bring  : (s.drawn).bring = s.bring := rfl
@[simp] theorem State.drawn_sec  : (s.drawn).sec = s.sec := rfl
@[simp] theorem State.drawn_mgt  : (s.drawn).mgt = s.mgt := rfl
@[simp] theorem State.drawn_out  : (s.drawn).out = s.out := rfl
@[simp] theorem State.rd_drawn  (g : Field) (j : Nat) : (s.drawn).rd g j = s.rd g j := rfl

end Sys2Proof.Machine
end

