-- ==== Sys2Proof/Laws/Frames.lean ====
section
/-! SUPPORT. How the frames of Safety (RegsSame, Only) follow an operation: one lemma per shared operation. -/

namespace Sys2Proof.Safety

open Sys2Proof.Machine

theorem regsSame_refl (s : State) (l : List (Field × Nat)) : RegsSame s s l := fun _ _ _ => rfl

theorem regsSame_trans {s t u : State} {l : List (Field × Nat)} (h : RegsSame s t l) (k : RegsSame t u l) : RegsSame s u l :=
  fun f i hf => (k f i hf).trans (h f i hf)

theorem regsSame_mono {s t : State} {l m : List (Field × Nat)} (h : RegsSame s t l) (k : ∀ x ∈ l, x ∈ m) : RegsSame s t m :=
  fun f i hf => h f i fun x hx => hf x (k x hx)

theorem regsSame_congr {s t u : State} {l : List (Field × Nat)} (h : RegsSame s t l) (e : u.regs = t.regs) : RegsSame s u l :=
  fun f i hf => (State.rd_congr e f i).trans (h f i hf)

/-- A write of a field of the list. -/
theorem regsSame_put {s t : State} {l : List (Field × Nat)} (h : RegsSame s t l) {f : Field} {i : Nat} (m : (f, i) ∈ l) (v : Nat) :
    RegsSame s (t.put f v i) l :=
  fun g j hg => (State.rd_put_ne t (hg _ m)).trans (h g j hg)

theorem regsSame_putS {s t : State} {l : List (Field × Nat)} (h : RegsSame s t l) {f : Field} {i : Nat} (m : (f, i) ∈ l) (v : Int) :
    RegsSame s (t.putS f v i) l := regsSame_put h m _

theorem regsSame_bump {s t : State} {l : List (Field × Nat)} (h : RegsSame s t l) {f : Field} {i : Nat} (m : (f, i) ∈ l) (k : Nat) :
    RegsSame s (t.bump f i k) l := regsSame_put h m _

theorem regsSame_orf {s t : State} {l : List (Field × Nat)} (h : RegsSame s t l) {f : Field} {i : Nat} (m : (f, i) ∈ l) (k : Nat) :
    RegsSame s (t.orf f k i) l := regsSame_put h m _

theorem regsSame_ite {c : Prop} [Decidable c] {s t u : State} {l : List (Field × Nat)} (h : RegsSame s t l) (k : RegsSame s u l) :
    RegsSame s (if c then t else u) l := by
  split
  · exact h
  · exact k

/-! ## Updates of other fields -/

variable {s t : State} {l : List (Field × Nat)}

theorem regsSame_withPending (h : RegsSame s t l) (v : List Instr) : RegsSame s (t.withPending v) l := h
theorem regsSame_withStaged (h : RegsSame s t l) (v : KMap Nat) : RegsSame s (t.withStaged v) l := h
theorem regsSame_withMem (h : RegsSame s t l) (v : List Host.Cell) : RegsSame s (t.withMem v) l := h
theorem regsSame_withPoison (h : RegsSame s t l) (v : List Nat) : RegsSame s (t.withPoison v) l := h
theorem regsSame_withLineKey (h : RegsSame s t l) (v : KMap (Nat × Nat)) : RegsSame s (t.withLineKey v) l := h
theorem regsSame_withKeys (h : RegsSame s t l) (v : KMap KeySlot) : RegsSame s (t.withKeys v) l := h
theorem regsSame_withHostMem (h : RegsSame s t l) (v : List Host.Cell) : RegsSame s (t.withHostMem v) l := h
theorem regsSame_withTime (h : RegsSame s t l) (v : TimeState) : RegsSame s (t.withTime v) l := h
theorem regsSame_withParts (h : RegsSame s t l) (v : KMap Part) : RegsSame s (t.withParts v) l := h
theorem regsSame_withCores (h : RegsSame s t l) (v : KMap Core) : RegsSame s (t.withCores v) l := h
theorem regsSame_withPhys (h : RegsSame s t l) (v : KMap Phys) : RegsSame s (t.withPhys v) l := h
theorem regsSame_withThreads (h : RegsSame s t l) (v : KMap Thread) : RegsSame s (t.withThreads v) l := h
theorem regsSame_withJobs (h : RegsSame s t l) (v : KMap Job) : RegsSame s (t.withJobs v) l := h
theorem regsSame_withSpurs (h : RegsSame s t l) (v : KMap SpurCore) : RegsSame s (t.withSpurs v) l := h
theorem regsSame_withDmas (h : RegsSame s t l) (v : KMap (List Dma)) : RegsSame s (t.withDmas v) l := h
theorem regsSame_withNocReqs (h : RegsSame s t l) (v : List NocReq) : RegsSame s (t.withNocReqs v) l := h
theorem regsSame_withDevErrs (h : RegsSame s t l) (v : List DevErr) : RegsSame s (t.withDevErrs v) l := h
theorem regsSame_withSramErrs (h : RegsSame s t l) (v : List (Nat × Nat × Nat)) : RegsSame s (t.withSramErrs v) l := h
theorem regsSame_withSramUe (h : RegsSame s t l) (v : Option Nat) : RegsSame s (t.withSramUe v) l := h
theorem regsSame_withPlanHdr (h : RegsSame s t l) (v : Word × Word × Word × Word) : RegsSame s (t.withPlanHdr v) l := h
theorem regsSame_withCells (h : RegsSame s t l) (v : KMap Cell) : RegsSame s (t.withCells v) l := h
theorem regsSame_withSubports (h : RegsSame s t l) (v : KMap Subport) : RegsSame s (t.withSubports v) l := h
theorem regsSame_withChains (h : RegsSame s t l) (v : KMap Chain) : RegsSame s (t.withChains v) l := h
theorem regsSame_withFhBufs (h : RegsSame s t l) (v : List FhBuf) : RegsSame s (t.withFhBufs v) l := h
theorem regsSame_withSeqs (h : RegsSame s t l) (v : KMap Seq) : RegsSame s (t.withSeqs v) l := h
theorem regsSame_withCmds (h : RegsSame s t l) (v : KMap Cmd) : RegsSame s (t.withCmds v) l := h
theorem regsSame_withNextCmd (h : RegsSame s t l) (v : Nat) : RegsSame s (t.withNextCmd v) l := h
theorem regsSame_withPasses (h : RegsSame s t l) (v : List Pass) : RegsSame s (t.withPasses v) l := h
theorem regsSame_withNextPass (h : RegsSame s t l) (v : Nat) : RegsSame s (t.withNextPass v) l := h
theorem regsSame_withModels (h : RegsSame s t l) (v : KMap Model) : RegsSame s (t.withModels v) l := h
theorem regsSame_withDeltas (h : RegsSame s t l) (v : KMap Delta) : RegsSame s (t.withDeltas v) l := h
theorem regsSame_withLoads (h : RegsSame s t l) (v : List (Nat × Nat × Nat × Nat)) : RegsSame s (t.withLoads v) l := h
theorem regsSame_withLastAdm (h : RegsSame s t l) (v : Option Nat) : RegsSame s (t.withLastAdm v) l := h
theorem regsSame_withFrames (h : RegsSame s t l) (v : KMap Frame) : RegsSame s (t.withFrames v) l := h
theorem regsSame_withChunks (h : RegsSame s t l) (v : KMap (Nat × Nat)) : RegsSame s (t.withChunks v) l := h
theorem regsSame_withFreeLists (h : RegsSame s t l) (v : KMap (List Nat)) : RegsSame s (t.withFreeLists v) l := h
theorem regsSame_withNodes (h : RegsSame s t l) (v : KMap Node) : RegsSame s (t.withNodes v) l := h
theorem regsSame_withLru (h : RegsSame s t l) (v : KMap (List Nat)) : RegsSame s (t.withLru v) l := h
theorem regsSame_withHeldFrames (h : RegsSame s t l) (v : List Nat) : RegsSame s (t.withHeldFrames v) l := h
theorem regsSame_withScopesDead (h : RegsSame s t l) (v : List Nat) : RegsSame s (t.withScopesDead v) l := h
theorem regsSame_withSpills (h : RegsSame s t l) (v : List Spill) : RegsSame s (t.withSpills v) l := h
theorem regsSame_withLinks (h : RegsSame s t l) (v : KMap Link) : RegsSame s (t.withLinks v) l := h
theorem regsSame_withMembers (h : RegsSame s t l) (v : List Nat) : RegsSame s (t.withMembers v) l := h
theorem regsSame_withSpares (h : RegsSame s t l) (v : List Nat) : RegsSame s (t.withSpares v) l := h
theorem regsSame_withCachePeers (h : RegsSame s t l) (v : List Nat) : RegsSame s (t.withCachePeers v) l := h
theorem regsSame_withRoutes (h : RegsSame s t l) (v : KMap Route) : RegsSame s (t.withRoutes v) l := h
theorem regsSame_withFabReqs (h : RegsSame s t l) (v : List FabReq) : RegsSame s (t.withFabReqs v) l := h
theorem regsSame_withNextTid (h : RegsSame s t l) (v : KMap Nat) : RegsSame s (t.withNextTid v) l := h
theorem regsSame_withWindows (h : RegsSame s t l) (v : KMap Dedup) : RegsSame s (t.withWindows v) l := h
theorem regsSame_withPeers (h : RegsSame s t l) (v : KMap Peer) : RegsSame s (t.withPeers v) l := h
theorem regsSame_withMove (h : RegsSame s t l) (v : Option ShardMove) : RegsSame s (t.withMove v) l := h
theorem regsSame_withRings (h : RegsSame s t l) (v : KMap Ring) : RegsSame s (t.withRings v) l := h
theorem regsSame_withSlices (h : RegsSame s t l) (v : KMap Slice) : RegsSame s (t.withSlices v) l := h
theorem regsSame_withGroups (h : RegsSame s t l) (v : KMap Group) : RegsSame s (t.withGroups v) l := h
theorem regsSame_withThaws (h : RegsSame s t l) (v : List (Nat × Nat × Nat × Bool)) : RegsSame s (t.withThaws v) l := h
theorem regsSame_withCopies (h : RegsSame s t l) (v : List HostCopy) : RegsSame s (t.withCopies v) l := h
theorem regsSame_withHeldCmds (h : RegsSame s t l) (v : List Held) : RegsSame s (t.withHeldCmds v) l := h
theorem regsSame_withCoord (h : RegsSame s t l) (v : Option Nat) : RegsSame s (t.withCoord v) l := h
theorem regsSame_withCtlWindow (h : RegsSame s t l) (v : List CqEntry) : RegsSame s (t.withCtlWindow v) l := h
theorem regsSame_withCtlNeg (h : RegsSame s t l) (v : Bool) : RegsSame s (t.withCtlNeg v) l := h
theorem regsSame_withCtlNegPend (h : RegsSame s t l) (v : Bool) : RegsSame s (t.withCtlNegPend v) l := h
theorem regsSame_withCtlHb (h : RegsSame s t l) (v : Option Nat) : RegsSame s (t.withCtlHb v) l := h
theorem regsSame_withEvents (h : RegsSame s t l) (v : List CqEntry) : RegsSame s (t.withEvents v) l := h
theorem regsSame_withProcs (h : RegsSame s t l) (v : KMap Proc) : RegsSame s (t.withProcs v) l := h
theorem regsSame_withBring (h : RegsSame s t l) (v : Bring) : RegsSame s (t.withBring v) l := h
theorem regsSame_withSec (h : RegsSame s t l) (v : SecState) : RegsSame s (t.withSec v) l := h
theorem regsSame_withMgt (h : RegsSame s t l) (v : MgtState) : RegsSame s (t.withMgt v) l := h
theorem regsSame_withFree (h : RegsSame s t l) (v : Nat) : RegsSame s (t.withFree v) l := h
theorem regsSame_withOut (h : RegsSame s t l) (v : List Out) : RegsSame s (t.withOut v) l := h

theorem regsSame_showFault (h : RegsSame s t l) (o : State) : RegsSame s (t.showFault o) l := by
  unfold State.showFault
  exact regsSame_ite h (regsSame_congr h rfl)

theorem regsSame_writeRec {s t : State} {l : List (Field × Nat)} (h : RegsSame s t l) (r : EvRec) (m : ∀ x ∈ eventFields, x ∈ l) :
    RegsSame s (t.writeRec r) l := by
  unfold State.writeRec
  refine regsSame_ite ?_ ?_
  · refine regsSame_showFault ?_ _
    refine regsSame_put (regsSame_put (regsSame_put (regsSame_congr h rfl) ?_ _) ?_ _) ?_ _ <;> exact m _ (by simp [eventFields])
  · refine regsSame_put (regsSame_put (regsSame_congr h rfl) ?_ _) ?_ _ <;> exact m _ (by simp [eventFields])

/-- An event writes the fields of `eventFields` alone. -/
theorem regsSame_event {s t : State} {l : List (Field × Nat)} (h : RegsSame s t l) (cls sev k data src : Nat)
    (m : ∀ x ∈ eventFields, x ∈ l) : RegsSame s (t.event cls sev k data src) l := by
  unfold State.event
  refine regsSame_ite (regsSame_writeRec h _ m) (regsSame_ite (regsSame_congr h rfl) (regsSame_bump h ?_ _))
  exact m _ (by simp [eventFields])

theorem showFault_eq (s o : State) : s.showFault o = s.withOut (s.showFault o).out := by
  unfold State.showFault
  split <;> rfl

/-- What an event changes: the event log, the registers that show it and, with a service event, the fault contact. -/
theorem event_only (s : State) (cls sev k data src : Nat) :
    Only s (s.event cls sev k data src) eventFields
      fun x => (x.withMgt (s.event cls sev k data src).mgt).withOut (s.event cls sev k data src).out := by
  refine ⟨?_, regsSame_event (regsSame_refl s _) _ _ _ _ _ fun _ h => h⟩
  unfold State.event State.writeRec
  split
  · dsimp only
    split
    · rw [showFault_eq]
      rfl
    · rfl
  · split <;> rfl

theorem writeRec_mgt (s : State) (r : EvRec) : (s.writeRec r).mgt.norQueue =
    s.mgt.norQueue ++ [{ r with seq := s.rd F.MGT_LOG_STAT.evt_seq }] := by
  unfold State.writeRec State.showFault
  dsimp only
  split
  · split <;> rfl
  · rfl

/-- An event is recorded where the restart controller has room for it (R417, R489). -/
theorem event_logged (s : State) (cls sev k data src : Nat) : Logged s (s.event cls sev k data src) cls sev data src := by
  unfold Logged State.event
  constructor
  · intro h
    rw [if_pos h, writeRec_mgt]
    exact ⟨_, ⟨rfl, rfl, rfl, rfl⟩, rfl⟩
  · intro h hl
    rw [if_neg (by simp [h]), if_pos hl]
    exact ⟨_, ⟨rfl, rfl, rfl, rfl⟩, rfl⟩

end Sys2Proof.Safety
end

