-- ==== Sys2Proof/Laws/Memory.lean ====
section
/-! SUPPORT. Laws of memory: a byte reads what was written to it, a write leaves every other byte alone, and every
operation keeps the canonical form. -/

namespace Sys2Proof.Machine

theorem Memory.byte_setByte_same (m : List Host.Cell) (a : Nat) (b : Byte) : Memory.byte (Memory.setByte m a b) a = b := by
  unfold Memory.byte Memory.setByte
  split
  · rw [kget_kdel_same]; exact Eq.symm ‹_›
  · exact kget_kset_same m a b _

theorem Memory.byte_setByte_ne (m : List Host.Cell) {a c : Nat} (b : Byte) (h : c ≠ a) :
    Memory.byte (Memory.setByte m a b) c = Memory.byte m c := by
  unfold Memory.byte Memory.setByte
  split
  · exact kget_kdel_ne m _ h
  · exact kget_kset_ne m _ _ h

/-- A byte outside the written range is unchanged. -/
theorem Memory.byte_write_outside (bs : List Byte) (m : List Host.Cell) {a c : Nat} (h : c < a ∨ a + bs.length ≤ c) :
    Memory.byte (Memory.write m a bs) c = Memory.byte m c := by
  induction bs generalizing m a with
  | nil => rfl
  | cons b bs ih =>
    simp only [List.length_cons] at h
    rw [Memory.write, ih _ (by omega), Memory.byte_setByte_ne _ _ (by omega)]

/-- Byte `k` of the written range holds byte `k` of the data. -/
theorem Memory.byte_write_inside (bs : List Byte) (m : List Host.Cell) (a k : Nat) (h : k < bs.length) :
    Memory.byte (Memory.write m a bs) (a + k) = bs[k] := by
  induction bs generalizing m a k with
  | nil => simp at h
  | cons b bs ih =>
    rw [Memory.write]
    cases k with
    | zero => rw [Memory.byte_write_outside _ _ (by omega)]; exact Memory.byte_setByte_same m a b
    | succ k =>
      have := ih (Memory.setByte m a b) (a + 1) k (by simpa using h)
      rw [show a + (k + 1) = a + 1 + k by omega, this]
      simp

/-- Reading a range back gives the data. -/
theorem Memory.read_write_same (bs : List Byte) (m : List Host.Cell) (a : Nat) :
    Memory.read (Memory.write m a bs) a bs.length = bs := by
  have key : ∀ (n : Nat) (m' : List Host.Cell) (a' : Nat) (cs : List Byte), cs.length = n →
      (∀ k (h : k < cs.length), Memory.byte m' (a' + k) = cs[k]) → Memory.read m' a' n = cs := by
    intro n
    induction n with
    | zero => intro m' a' cs hl _; simpa [Memory.read] using (List.eq_nil_of_length_eq_zero hl).symm
    | succ n ih =>
      intro m' a' cs hl hb
      cases cs with
      | nil => simp at hl
      | cons c cs =>
        simp only [List.length_cons, Nat.add_right_cancel_iff] at hl
        rw [Memory.read, ih m' (a' + 1) cs hl]
        · have := hb 0 (by simp); simpa using this
        · intro k h
          have := hb (k + 1) (by simpa using h)
          rw [show a' + 1 + k = a' + (k + 1) by omega, this]; simp
  exact key _ _ _ _ rfl fun k h => Memory.byte_write_inside bs m a k h

/-- A range that does not meet the written one reads as before. -/
theorem Memory.read_write_apart (bs : List Byte) (m : List Host.Cell) {a c n : Nat}
    (h : c + n ≤ a ∨ a + bs.length ≤ c) : Memory.read (Memory.write m a bs) c n = Memory.read m c n := by
  induction n generalizing c with
  | zero => rfl
  | succ n ih =>
    rw [Memory.read, Memory.read, ih (by omega), Memory.byte_write_outside _ _ (by omega)]

theorem Memory.wf_iff (m : List Host.Cell) :
    Memory.wf m = true ↔ kwf m = true ∧ ∀ c ∈ m, c.2 ≠ Memory.fill := by
  simp [Memory.wf]

/-- Writing a byte keeps the canonical form. -/
theorem Memory.wf_setByte {m : List Host.Cell} (h : Memory.wf m = true) (a : Nat) (b : Byte) :
    Memory.wf (Memory.setByte m a b) = true := by
  obtain ⟨h1, h2⟩ := (Memory.wf_iff m).mp h
  unfold Memory.setByte
  split
  · exact (Memory.wf_iff _).mpr ⟨kwf_kdel h1 a, fun c hc => h2 c (mem_kdel hc)⟩
  · refine (Memory.wf_iff _).mpr ⟨kwf_kset h1 a b, fun c hc => ?_⟩
    rcases mem_kset hc with rfl | hc
    · assumption
    · exact h2 c hc

/-- Writing a range keeps the canonical form. -/
theorem Memory.wf_write (bs : List Byte) {m : List Host.Cell} (h : Memory.wf m = true) (a : Nat) :
    Memory.wf (Memory.write m a bs) = true := by
  induction bs generalizing m a with
  | nil => exact h
  | cons b bs ih => exact ih (Memory.wf_setByte h a b) _

/-- Clearing the cells that fail a test keeps the canonical form. -/
theorem Memory.wf_filter {m : List Host.Cell} (h : Memory.wf m = true) (p : Host.Cell → Bool) :
    Memory.wf (m.filter p) = true := by
  obtain ⟨h1, h2⟩ := (Memory.wf_iff m).mp h
  exact (Memory.wf_iff _).mpr ⟨kwf_filter h1 p, fun c hc => h2 c (List.mem_of_mem_filter hc)⟩

theorem Memory.length_read (m : List Host.Cell) (a n : Nat) : (Memory.read m a n).length = n := by
  induction n generalizing a with
  | zero => rfl
  | succ n ih => simp [Memory.read, ih]

end Sys2Proof.Machine
end

