-- ==== Sys2Proof/Laws/KeepOps.lean ====
section
/-! SUPPORT. What every operation keeps, by the shared operations: the queue, the canonical form of the sparse maps, and, where no command
of it moves the clock, device time. -/

namespace Sys2Proof.Machine

/-- Device time but for the armed timers. -/
def clock (t : TimeState) : TimeState := { t with armed := 0 }

/-- The queue is `Q`, the sparse maps have their canonical form, and device time is `C` where one is named. -/
def Kept (Q : List Instr) (C : Option TimeState) (s : State) : Prop :=
  s.pending = Q ∧ kwf s.regs = true ∧ Memory.wf s.mem = true ∧ Memory.wf s.hostMem = true ∧ ∀ t ∈ C, clock s.time = t

/-- The outcome is a next state that keeps it. -/
def Keeps (Q : List Instr) (C : Option TimeState) (r : Host.Outcome State Fault Refusal) : Prop := ∃ t, r = .next t ∧ Kept Q C t

variable {Q : List Instr} {C : Option TimeState} {s : State}

theorem Kept.any (h : Kept Q C s) : Kept Q none s := ⟨h.1, h.2.1, h.2.2.1, h.2.2.2.1, fun _ h => by cases h⟩
theorem Keeps.next (h : Kept Q C s) : Keeps Q C (.next s) := ⟨s, rfl, h⟩
theorem foldl_keep {α β : Type} {P : β → Prop} {g : β → α → β} (hg : ∀ b a, P b → P (g b a)) (l : List α) {b : β} (h : P b) :
    P (l.foldl g b) := by
  induction l generalizing b with
  | nil => exact h
  | cons a l ih => exact ih (hg b a h)
theorem foldl_kept {α : Type} {g : State → α → State} (hg : ∀ s a, Kept Q C s → Kept Q C (g s a)) (l : List α) {s : State}
    (h : Kept Q C s) : Kept Q C (l.foldl g s) := foldl_keep hg l h
theorem foldl_kept1 {α β : Type} {g : State × β → α → State × β} (hg : ∀ s a, Kept Q C s.1 → Kept Q C (g s a).1) (l : List α)
    {s : State × β} (h : Kept Q C s.1) : Kept Q C (l.foldl g s).1 := foldl_keep (P := fun x : State × β => Kept Q C x.1) hg l h
theorem Kept.withRegs (h : Kept Q C s) {v : KMap Nat} (hv : kwf v = true) : Kept Q C (s.withRegs v) := ⟨h.1, hv, h.2.2⟩
theorem Kept.withMem (h : Kept Q C s) {v : List Host.Cell} (hv : Memory.wf v = true) : Kept Q C (s.withMem v) :=
  ⟨h.1, h.2.1, hv, h.2.2.2⟩
theorem Kept.withHostMem (h : Kept Q C s) {v : List Host.Cell} (hv : Memory.wf v = true) : Kept Q C (s.withHostMem v) :=
  ⟨h.1, h.2.1, h.2.2.1, hv, h.2.2.2.2⟩
theorem wf_foldl_setByte {α : Type} {f : α → Nat} (l : List α) {b : α → Byte} (k : List Host.Cell) (h : Memory.wf k = true) :
    Memory.wf (l.foldl (fun m c => Memory.setByte m (f c) (b c)) k) = true := by
  induction l generalizing k with
  | nil => exact h
  | cons a l ih => exact ih _ (Memory.wf_setByte h _ _)
theorem getD_kept {o : Option State} (ho : ∀ t, o = some t → Kept Q C t) (h : Kept Q C s) : Kept Q C (o.getD s) := by
  cases o with
  | none => exact h
  | some t => exact ho t rfl
theorem getD_kept1 {α : Type} {o : Option (State × α)} {d : State × α} (ho : ∀ t, o = some t → Kept Q C t.1) (h : Kept Q C d.1) :
    Kept Q C (o.getD d).1 := by
  cases o with
  | none => exact h
  | some t => exact ho t rfl
theorem ite_kept {c : Prop} [Decidable c] {a b : State} (ha : Kept Q C a) (hb : Kept Q C b) : Kept Q C (if c then a else b) := by
  split
  · exact ha
  · exact hb
theorem Keeps.ite {c : Prop} [Decidable c] {a b : Host.Outcome State Fault Refusal} (ha : Keeps Q C a) (hb : Keeps Q C b) :
    Keeps Q C (if c then a else b) := by
  split
  · exact ha
  · exact hb
theorem map_kept {o : Option State} {g : State → State} (ho : ∀ t, o = some t → Kept Q C t) (hg : ∀ s, Kept Q C s → Kept Q C (g s)) :
    ∀ t, o.map g = some t → Kept Q C t := by
  intro t ht
  cases o with
  | none => cases ht
  | some u =>
    cases ht
    exact hg u (ho u rfl)

theorem State.withStaged_kept (h : Kept Q C s) (v : KMap Nat) : Kept Q C (State.withStaged s v) := h
theorem State.withPoison_kept (h : Kept Q C s) (v : List Nat) : Kept Q C (State.withPoison s v) := h
theorem State.withBadCopy_kept (h : Kept Q C s) (v : List (Nat × Bool)) : Kept Q C (State.withBadCopy s v) := h
theorem State.withLineKey_kept (h : Kept Q C s) (v : KMap (Nat × Nat)) : Kept Q C (State.withLineKey s v) := h
theorem State.withKeys_kept (h : Kept Q C s) (v : KMap KeySlot) : Kept Q C (State.withKeys s v) := h
theorem State.withTime_kept (h : Kept Q none s) (v : TimeState) : Kept Q none (State.withTime s v) := ⟨h.1, h.2.1, h.2.2.1, h.2.2.2.1, fun _ h => by cases h⟩
theorem State.withParts_kept (h : Kept Q C s) (v : KMap Part) : Kept Q C (State.withParts s v) := h
theorem State.withCores_kept (h : Kept Q C s) (v : KMap Core) : Kept Q C (State.withCores s v) := h
theorem State.withPhys_kept (h : Kept Q C s) (v : KMap Phys) : Kept Q C (State.withPhys s v) := h
theorem State.withThreads_kept (h : Kept Q C s) (v : KMap Thread) : Kept Q C (State.withThreads s v) := h
theorem State.withJobs_kept (h : Kept Q C s) (v : KMap Job) : Kept Q C (State.withJobs s v) := h
theorem State.withSpurs_kept (h : Kept Q C s) (v : KMap SpurCore) : Kept Q C (State.withSpurs s v) := h
theorem State.withDmas_kept (h : Kept Q C s) (v : KMap (List Dma)) : Kept Q C (State.withDmas s v) := h
theorem State.withNocReqs_kept (h : Kept Q C s) (v : List NocReq) : Kept Q C (State.withNocReqs s v) := h
theorem State.withDevErrs_kept (h : Kept Q C s) (v : List DevErr) : Kept Q C (State.withDevErrs s v) := h
theorem State.withSramErrs_kept (h : Kept Q C s) (v : List (Nat × Nat × Nat)) : Kept Q C (State.withSramErrs s v) := h
theorem State.withSramUe_kept (h : Kept Q C s) (v : Option Nat) : Kept Q C (State.withSramUe s v) := h
theorem State.withPlanHdr_kept (h : Kept Q C s) (v : Word × Word × Word × Word) : Kept Q C (State.withPlanHdr s v) := h
theorem State.withCells_kept (h : Kept Q C s) (v : KMap Cell) : Kept Q C (State.withCells s v) := h
theorem State.withSubports_kept (h : Kept Q C s) (v : KMap Subport) : Kept Q C (State.withSubports s v) := h
theorem State.withChains_kept (h : Kept Q C s) (v : KMap Chain) : Kept Q C (State.withChains s v) := h
theorem State.withFhBufs_kept (h : Kept Q C s) (v : List FhBuf) : Kept Q C (State.withFhBufs s v) := h
theorem State.withSeqs_kept (h : Kept Q C s) (v : KMap Seq) : Kept Q C (State.withSeqs s v) := h
theorem State.withCmds_kept (h : Kept Q C s) (v : KMap Cmd) : Kept Q C (State.withCmds s v) := h
theorem State.withNextCmd_kept (h : Kept Q C s) (v : Nat) : Kept Q C (State.withNextCmd s v) := h
theorem State.withPasses_kept (h : Kept Q C s) (v : List Pass) : Kept Q C (State.withPasses s v) := h
theorem State.withNextPass_kept (h : Kept Q C s) (v : Nat) : Kept Q C (State.withNextPass s v) := h
theorem State.withModels_kept (h : Kept Q C s) (v : KMap Model) : Kept Q C (State.withModels s v) := h
theorem State.withDeltas_kept (h : Kept Q C s) (v : KMap Delta) : Kept Q C (State.withDeltas s v) := h
theorem State.withLoads_kept (h : Kept Q C s) (v : List (Nat × Nat × Nat × Nat)) : Kept Q C (State.withLoads s v) := h
theorem State.withLastAdm_kept (h : Kept Q C s) (v : Option Nat) : Kept Q C (State.withLastAdm s v) := h
theorem State.withFrames_kept (h : Kept Q C s) (v : KMap Frame) : Kept Q C (State.withFrames s v) := h
theorem State.withChunks_kept (h : Kept Q C s) (v : KMap (Nat × Nat)) : Kept Q C (State.withChunks s v) := h
theorem State.withFreeLists_kept (h : Kept Q C s) (v : KMap (List Nat)) : Kept Q C (State.withFreeLists s v) := h
theorem State.withNodes_kept (h : Kept Q C s) (v : KMap Node) : Kept Q C (State.withNodes s v) := h
theorem State.withLru_kept (h : Kept Q C s) (v : KMap (List Nat)) : Kept Q C (State.withLru s v) := h
theorem State.withHeldFrames_kept (h : Kept Q C s) (v : List Nat) : Kept Q C (State.withHeldFrames s v) := h
theorem State.withScopesDead_kept (h : Kept Q C s) (v : List Nat) : Kept Q C (State.withScopesDead s v) := h
theorem State.withSpills_kept (h : Kept Q C s) (v : List Spill) : Kept Q C (State.withSpills s v) := h
theorem State.withLinks_kept (h : Kept Q C s) (v : KMap Link) : Kept Q C (State.withLinks s v) := h
theorem State.withMembers_kept (h : Kept Q C s) (v : List Nat) : Kept Q C (State.withMembers s v) := h
theorem State.withSpares_kept (h : Kept Q C s) (v : List Nat) : Kept Q C (State.withSpares s v) := h
theorem State.withCachePeers_kept (h : Kept Q C s) (v : List Nat) : Kept Q C (State.withCachePeers s v) := h
theorem State.withRoutes_kept (h : Kept Q C s) (v : KMap Route) : Kept Q C (State.withRoutes s v) := h
theorem State.withFabReqs_kept (h : Kept Q C s) (v : List FabReq) : Kept Q C (State.withFabReqs s v) := h
theorem State.withNextTid_kept (h : Kept Q C s) (v : KMap Nat) : Kept Q C (State.withNextTid s v) := h
theorem State.withWindows_kept (h : Kept Q C s) (v : KMap Dedup) : Kept Q C (State.withWindows s v) := h
theorem State.withPeers_kept (h : Kept Q C s) (v : KMap Peer) : Kept Q C (State.withPeers s v) := h
theorem State.withMove_kept (h : Kept Q C s) (v : Option ShardMove) : Kept Q C (State.withMove s v) := h
theorem State.withRings_kept (h : Kept Q C s) (v : KMap Ring) : Kept Q C (State.withRings s v) := h
theorem State.withSlices_kept (h : Kept Q C s) (v : KMap Slice) : Kept Q C (State.withSlices s v) := h
theorem State.withGroups_kept (h : Kept Q C s) (v : KMap Group) : Kept Q C (State.withGroups s v) := h
theorem State.withThaws_kept (h : Kept Q C s) (v : List (Nat × Nat × Nat × Bool)) : Kept Q C (State.withThaws s v) := h
theorem State.withCopies_kept (h : Kept Q C s) (v : List HostCopy) : Kept Q C (State.withCopies s v) := h
theorem State.withHeldCmds_kept (h : Kept Q C s) (v : List Held) : Kept Q C (State.withHeldCmds s v) := h
theorem State.withCoord_kept (h : Kept Q C s) (v : Option Nat) : Kept Q C (State.withCoord s v) := h
theorem State.withCtlWindow_kept (h : Kept Q C s) (v : List CqEntry) : Kept Q C (State.withCtlWindow s v) := h
theorem State.withCtlNeg_kept (h : Kept Q C s) (v : Bool) : Kept Q C (State.withCtlNeg s v) := h
theorem State.withCtlNegPend_kept (h : Kept Q C s) (v : Bool) : Kept Q C (State.withCtlNegPend s v) := h
theorem State.withCtlAgreed_kept (h : Kept Q C s) (v : Nat × Nat) : Kept Q C (State.withCtlAgreed s v) := h
theorem State.withHalves_kept (h : Kept Q C s) (v : KMap Nat) : Kept Q C (State.withHalves s v) := h
theorem State.withCtlHb_kept (h : Kept Q C s) (v : Option Nat) : Kept Q C (State.withCtlHb s v) := h
theorem State.withEvents_kept (h : Kept Q C s) (v : List CqEntry) : Kept Q C (State.withEvents s v) := h
theorem State.withProcs_kept (h : Kept Q C s) (v : KMap Proc) : Kept Q C (State.withProcs s v) := h
theorem State.withBring_kept (h : Kept Q C s) (v : Bring) : Kept Q C (State.withBring s v) := h
theorem State.withSec_kept (h : Kept Q C s) (v : SecState) : Kept Q C (State.withSec s v) := h
theorem State.withMgt_kept (h : Kept Q C s) (v : MgtState) : Kept Q C (State.withMgt s v) := h
theorem State.withFree_kept (h : Kept Q C s) (v : Nat) : Kept Q C (State.withFree s v) := h
theorem State.withOut_kept (h : Kept Q C s) (v : List Out) : Kept Q C (State.withOut s v) := h
theorem State.put_kept (h : Kept Q C s) (f : Field) (v : Nat) (i : Nat) : Kept Q C (State.put s f v i) := h.withRegs (Field.kwf_set f h.2.1 v i)
theorem State.putS_kept (h : Kept Q C s) (f : Field) (v : ℤ) (i : Nat) : Kept Q C (State.putS s f v i) := by
  unfold State.putS
  repeat' with_reducible first | assumption | apply State.put_kept
theorem State.bump_kept (h : Kept Q C s) (f : Field) (i : Nat) (k : Nat) : Kept Q C (State.bump s f i k) := by
  unfold State.bump
  repeat' with_reducible first | assumption | apply State.put_kept
theorem State.putAll_kept (h : Kept Q C s) (f : Field) (v : Nat) (is : List Nat) : Kept Q C (State.putAll s f v is) := by
  unfold State.putAll
  repeat' with_reducible first | assumption | intro _ | apply foldl_kept | apply State.put_kept
theorem State.orf_kept (h : Kept Q C s) (f : Field) (m : Nat) (i : Nat) : Kept Q C (State.orf s f m i) := by
  unfold State.orf
  repeat' with_reducible first | assumption | apply State.put_kept
theorem State.showStaged_kept (h : Kept Q C s) (p : Nat) : Kept Q C (State.showStaged s p) := by
  unfold State.showStaged
  repeat' with_reducible first | assumption | apply State.put_kept
theorem State.pendBits_kept (h : Kept Q C s) (f : Field) (i : Nat) : Kept Q C (State.pendBits s f i) := by
  unfold State.pendBits
  repeat' first | (with_reducible first | assumption | apply State.put_kept) | split
theorem State.stage_kept (h : Kept Q C s) (f : Field) (v : Nat) (i : Nat) : Kept Q C (State.stage s f v i) := by
  unfold State.stage
  repeat' with_reducible first | assumption | apply State.pendBits_kept | apply State.withStaged_kept
theorem State.commit_kept (h : Kept Q C s) (f : Field) (i : Nat) : Kept Q C (State.commit s f i) := by
  unfold State.commit
  repeat' first | (with_reducible first | assumption | apply State.withStaged_kept | apply State.put_kept) | split
theorem State.atBoundary_kept (h : Kept Q C s) (f : State → State) (h1 : ∀ (x0 : State), Kept Q C x0 → Kept Q C (f x0)) : Kept Q C (State.atBoundary s f) := by
  unfold State.atBoundary
  repeat' first | (with_reducible first | assumption) | grind (splits := 20) [Keeps.next, getD_kept, foldl_kept, foldl_kept1]
theorem State.setNowNs_kept (h : Kept Q none s) (n : Nat) : Kept Q none (State.setNowNs s n) := by
  unfold State.setNowNs
  repeat' with_reducible first | assumption | apply State.withTime_kept
theorem State.atNs_kept (h : Kept Q none s) (ns : Nat) : Kept Q none (State.atNs s ns) := by
  unfold State.atNs
  repeat' with_reducible first | assumption | apply ite_kept | apply State.setNowNs_kept
theorem State.memWr_kept (h : Kept Q C s) (a : Nat) (bs : List Byte) : Kept Q C (State.memWr s a bs) := h.withMem (Memory.wf_write bs h.2.2.1 a)
theorem State.sramWr_kept (h : Kept Q C s) (a : Nat) (bs : List Byte) : Kept Q C (State.sramWr s a bs) := by
  unfold State.sramWr
  repeat' with_reducible first | assumption | apply State.withPoison_kept | apply State.memWr_kept
theorem State.memKeep_kept (h : Kept Q C s) (p : Nat → Bool) : Kept Q C (State.memKeep s p) := h.withMem (Memory.wf_filter h.2.2.1 _)
theorem State.poisonKeep_kept (h : Kept Q C s) (p : Nat → Bool) : Kept Q C (State.poisonKeep s p) := by
  unfold State.poisonKeep
  repeat' with_reducible first | assumption | apply State.withPoison_kept
theorem State.emit_kept (h : Kept Q C s) (o : Out) : Kept Q C (State.emit s o) := by
  unfold State.emit
  repeat' with_reducible first | assumption | apply State.withOut_kept
theorem State.hostWr_kept (h : Kept Q C s) (a : Nat) (bs : List Byte) (sp : Nat) : ∀ t_, State.hostWr s a bs sp = some t_ → Kept Q C t_ := by
  unfold State.hostWr
  intro t ht
  split at ht
  · cases ht
    exact State.emit_kept (h.withHostMem (Memory.wf_write bs h.2.2.2.1 _)) _
  · cases ht
theorem State.drawn_kept (h : Kept Q C s) : Kept Q C (State.drawn s) := by
  unfold State.drawn
  repeat' with_reducible first | assumption | apply State.withFree_kept
theorem State.showFault_kept (h : Kept Q C s) (s1 : State) (h1 : Kept Q C s1) : Kept Q C (State.showFault s s1) := by
  unfold State.showFault
  repeat' with_reducible first | assumption | apply ite_kept | apply State.emit_kept
theorem State.writeRec_kept (h : Kept Q C s) (r : EvRec) : Kept Q C (State.writeRec s r) := by
  unfold State.writeRec
  repeat' with_reducible first | assumption | apply ite_kept | apply State.withMgt_kept | apply State.put_kept | apply State.showFault_kept
theorem State.event_kept (h : Kept Q C s) (cls : Nat) (sev : Nat) (k : Nat) (data : Nat) (src : Nat) : Kept Q C (State.event s cls sev k data src) := by
  unfold State.event
  repeat' with_reducible first | assumption | apply ite_kept | apply State.writeRec_kept | apply State.withMgt_kept | apply State.bump_kept
theorem State.service_kept (h : Kept Q C s) (cls : Nat) (k : Nat) (data : Nat) (src : Nat) : Kept Q C (State.service s cls k data src) := by
  unfold State.service
  repeat' with_reducible first | assumption | apply State.event_kept
theorem State.each_kept (h : Kept Q C s) (is : List Nat) (f : State → Nat → State) (h2 : ∀ (x0 : State) (x1 : Nat), Kept Q C x0 → Kept Q C (f x0 x1)) : Kept Q C (State.each s is f) := by
  unfold State.each
  repeat' with_reducible first | assumption | apply foldl_kept
theorem State.onlyIf_kept (h : Kept Q C s) (c : Bool) (f : State → State) (h2 : ∀ (x0 : State), Kept Q C x0 → Kept Q C (f x0)) : Kept Q C (State.onlyIf s c f) := by
  unfold State.onlyIf
  repeat' first | (with_reducible first | assumption) | grind (splits := 20) [Keeps.next, getD_kept, foldl_kept, foldl_kept1]
theorem State.ringPut_kept (h : Kept Q C s) (g : RingReg) (k : Nat) (v : Nat) : Kept Q C (State.ringPut s g k v) := by
  unfold State.ringPut
  repeat' with_reducible first | assumption | apply ite_kept | apply State.put_kept
theorem State.ringBump_kept (h : Kept Q C s) (g : RingReg) (k : Nat) : Kept Q C (State.ringBump s g k) := by
  unfold State.ringBump
  repeat' with_reducible first | assumption | apply State.ringPut_kept
theorem State.setRing_kept (h : Kept Q C s) (k : Nat) (r : Ring) : Kept Q C (State.setRing s k r) := by
  unfold State.setRing
  repeat' with_reducible first | assumption | apply State.withRings_kept
theorem State.msix_kept (h : Kept Q C s) (fn : Nat) (v : Nat) : Kept Q C (State.msix s fn v) := by
  unfold State.msix
  repeat' with_reducible first | assumption | apply ite_kept | apply State.emit_kept | apply State.put_kept
theorem State.fireRing_kept (h : Kept Q C s) (k : Nat) : Kept Q C (State.fireRing s k) := by
  unfold State.fireRing
  repeat' with_reducible first | assumption | apply State.setRing_kept | apply State.msix_kept
theorem State.setSlice_kept (h : Kept Q C s) (n : Nat) (x : Slice) : Kept Q C (State.setSlice s n x) := by
  unfold State.setSlice
  repeat' with_reducible first | assumption | apply State.withSlices_kept
theorem State.count_kept (h : Kept Q C s) (sl : Nat) (k : Nat) (n : Nat) : Kept Q C (State.count s sl k n) := by
  unfold State.count
  repeat' with_reducible first | assumption | apply State.setSlice_kept
theorem State.ringBytes_kept (h : Kept Q C s) (k : Nat) (n : Nat) : Kept Q C (State.ringBytes s k n) := by
  unfold State.ringBytes
  repeat' with_reducible first | assumption | apply ite_kept | apply State.count_kept
theorem State.postRaw_kept (h : Kept Q C s) (k : Nat) (e : CqEntry) : Kept Q C (State.postRaw s k e) := by
  unfold State.postRaw
  repeat' first | (with_reducible first | assumption | intro _ | apply ite_kept | apply State.setRing_kept | apply State.ringBytes_kept | apply State.ringPut_kept | apply getD_kept) | with_reducible refine State.hostWr_kept ?_ _ _ _ _ (by assumption)
theorem State.coalesce_kept (h : Kept Q C s) (k : Nat) : Kept Q C (State.coalesce s k) := by
  unfold State.coalesce
  repeat' with_reducible first | assumption | apply ite_kept | apply State.fireRing_kept
theorem State.postCq_kept (h : Kept Q C s) (k : Nat) (e : CqEntry) : Kept Q C (State.postCq s k e) := by
  unfold State.postCq
  repeat' with_reducible first | assumption | apply ite_kept | apply State.coalesce_kept | apply State.postRaw_kept
theorem State.notice_kept (h : Kept Q C s) (k : Nat) (e : CqEntry) : Kept Q C (State.notice s k e) := by
  unfold State.notice
  repeat' with_reducible first | assumption | apply ite_kept | apply State.postCq_kept | apply State.setRing_kept
theorem State.progress_kept (h : Kept Q C s) (k : Nat) (e : CqEntry) : Kept Q C (State.progress s k e) := by
  unfold State.progress
  repeat' with_reducible first | assumption | apply ite_kept | apply State.postCq_kept | apply State.ringBump_kept
theorem State.eventEntry_kept (h : Kept Q C s) (code : Nat) (handle : Nat) (opc : Nat) : Kept Q C (State.eventEntry s code handle opc) := by
  unfold State.eventEntry
  repeat' with_reducible first | assumption | apply ite_kept | apply State.msix_kept | apply State.postRaw_kept | apply State.withEvents_kept | apply State.bump_kept
theorem State.drainEvents_kept (h : Kept Q C s) (a_1 : Nat) : Kept Q C (State.drainEvents s a_1) := by
  induction a_1 generalizing s with
  | zero => exact h
  | succ n ih =>
    unfold State.drainEvents
    split
    · exact h
    · split
      · exact ih (State.msix_kept (State.postRaw_kept (State.withEvents_kept h _) _ _) _ _)
      · exact h
theorem State.postRadio_kept (h : Kept Q C s) (r : Nat) (e : CqEntry) : Kept Q C (State.postRadio s r e) := by
  unfold State.postRadio
  repeat' with_reducible first | assumption | apply ite_kept | apply State.postCq_kept | apply State.bump_kept
theorem State.setSliceState_kept (h : Kept Q C s) (n : Nat) (st : Nat) : Kept Q C (State.setSliceState s n st) := by
  unfold State.setSliceState
  repeat' with_reducible first | assumption | apply State.put_kept
theorem State.takeEntry_kept (h : Kept Q C s) (k : Nat) : Kept Q C (State.takeEntry s k) := by
  unfold State.takeEntry
  repeat' with_reducible first | assumption | apply State.ringPut_kept | apply State.ringBytes_kept | apply State.put_kept
theorem State.agreeCtl_kept (h : Kept Q C s) : Kept Q C (State.agreeCtl s) := by
  unfold State.agreeCtl
  repeat' with_reducible first | assumption | apply State.put_kept | apply State.withCtlAgreed_kept | apply State.withCtlNegPend_kept | apply State.withCtlNeg_kept
theorem State.agreeSlice_kept (h : Kept Q C s) (n : Nat) : Kept Q C (State.agreeSlice s n) := by
  unfold State.agreeSlice
  repeat' with_reducible first | assumption | apply State.put_kept | apply State.setSlice_kept
theorem State.settleNeg_kept (h : Kept Q C s) (k : Nat) : Kept Q C (State.settleNeg s k) := by
  unfold State.settleNeg
  repeat' with_reducible first | assumption | apply ite_kept | apply State.agreeSlice_kept | apply State.agreeCtl_kept
theorem State.release1_kept (h : Kept Q C s) (k : Nat) : Kept Q C (State.release1 s k) := by
  unfold State.release1
  repeat' with_reducible first | assumption | apply State.ringPut_kept | apply State.settleNeg_kept | apply State.put_kept
theorem State.postCopies_kept (h : Kept Q C s) (k : Nat) (e : CqEntry) (a_3 : Nat) : Kept Q C (State.postCopies s k e a_3) := by
  induction a_3 generalizing s with
  | zero => exact h
  | succ n ih => exact ih (State.postCq_kept (State.release1_kept h _) _ _)
theorem State.remember_kept (h : Kept Q C s) (k : Nat) (e : CqEntry) : Kept Q C (State.remember s k e) := by
  unfold State.remember
  repeat' with_reducible first | assumption | apply ite_kept | apply State.setSlice_kept | apply State.withCtlWindow_kept
theorem State.finish_kept (h : Kept Q C s) (k : Nat) (tok : Nat) (opc : Nat) (status : Nat) (handle : Nat) (res0 : Nat) (res1 : Nat) : Kept Q C (State.finish s k tok opc status handle res0 res1) := by
  unfold State.finish
  repeat' with_reducible first | assumption | apply State.setRing_kept | apply State.remember_kept | apply State.postCopies_kept | apply State.postCq_kept | apply State.release1_kept
theorem State.withToken_kept (h : Kept Q C s) (k : Nat) (tok : Nat) (opc : Nat) (go : State → State) (h4 : ∀ (x0 : State), Kept Q C x0 → Kept Q C (go x0)) : Kept Q C (State.withToken s k tok opc go) := by
  unfold State.withToken
  repeat' first | (with_reducible first | assumption | apply State.setRing_kept) | grind (splits := 20) [State.setRing_kept, State.postCq_kept, State.release1_kept, Keeps.next, getD_kept, foldl_kept, foldl_kept1]
theorem State.storeRow_kept (h : Kept Q C s) (t : Tile) (row : Nat) (es : List Nat) : Kept Q C (State.storeRow s t row es) := by
  unfold State.storeRow
  repeat' with_reducible first | assumption | apply ite_kept | apply State.sramWr_kept
theorem State.retireTile_kept (h : Kept Q C s) (t : Tile) (bank : KMap Nat) : Kept Q C (State.retireTile s t bank) := by
  unfold State.retireTile
  repeat' with_reducible first | assumption | intro _ | apply ite_kept | apply foldl_kept | apply State.storeRow_kept
theorem State.noteAbsorb_kept (h : Kept Q C s) (a : Nat) (status : Nat) : Kept Q C (State.noteAbsorb s a status) := by
  unfold State.noteAbsorb
  repeat' first | (with_reducible first | assumption | apply State.bump_kept) | split
theorem State.rdRecord_kept (h : Kept Q C s) (a : Nat) (n : Nat) (k : Nat) : Kept Q C (State.rdRecord s a n k) := by
  unfold State.rdRecord
  repeat' with_reducible first | assumption | intro _ | apply ite_kept | apply foldl_kept | apply State.bump_kept
theorem State.settleOld_kept (h : Kept Q C s) (a : Nat) (n : Nat) (k : Nat) : Kept Q C (State.settleOld s a n k) := by
  unfold State.settleOld
  repeat' with_reducible first | assumption | intro _ | apply ite_kept | apply foldl_kept | apply State.memWr_kept
theorem State.store_kept (h : Kept Q C s) (a : Nat) (bs : List Byte) (k : Nat) : Kept Q C (State.store s a bs k) := by
  unfold State.store
  repeat' with_reducible first | assumption | apply State.withBadCopy_kept | apply State.withLineKey_kept | apply State.withPoison_kept | apply State.memWr_kept | apply State.settleOld_kept
theorem State.poisonRange_kept (h : Kept Q C s) (a : Nat) (n : Nat) : Kept Q C (State.poisonRange s a n) := by
  unfold State.poisonRange
  repeat' with_reducible first | assumption | apply State.withPoison_kept
theorem State.setSpur_kept (h : Kept Q C s) (n : Nat) (x : SpurCore) : Kept Q C (State.setSpur s n x) := by
  unfold State.setSpur
  repeat' with_reducible first | assumption | apply State.withSpurs_kept
theorem State.setThread_kept (h : Kept Q C s) (th : Nat) (t : Thread) : Kept Q C (State.setThread s th t) := by
  unfold State.setThread
  repeat' with_reducible first | assumption | apply State.withThreads_kept | apply State.put_kept
theorem State.atCyc_kept (h : Kept Q none s) (cyc : Nat) : Kept Q none (State.atCyc s cyc) := by
  unfold State.atCyc
  repeat' with_reducible first | assumption | apply State.atNs_kept
theorem State.fault_kept (h : Kept Q C s) (th : Nat) (cause : Nat) (status : Nat) : Kept Q C (State.fault s th cause status) := by
  unfold State.fault
  repeat' with_reducible first | assumption | apply State.put_kept | apply State.setThread_kept
theorem State.fillLocked_kept (h : Kept Q C s) (n : Nat) : Kept Q C (State.fillLocked s n) := by
  unfold State.fillLocked
  repeat' with_reducible first | assumption | apply State.setSpur_kept
theorem State.fetchLine_kept (h : Kept Q C s) (th : Nat) : Kept Q C (State.fetchLine s th) := by
  unfold State.fetchLine
  repeat' with_reducible first | assumption | apply ite_kept | apply State.setSpur_kept | apply State.drawn_kept
theorem State.dbgEvent_kept (h : Kept Q C s) (tgt : Nat) (reason : Nat) (pc : Nat) : Kept Q C (State.dbgEvent s tgt reason pc) := by
  unfold State.dbgEvent
  repeat' with_reducible first | assumption | apply State.emit_kept
theorem State.issue_kept (h : Kept Q C s) (th : Nat) (f : State → State) (h2 : ∀ (x0 : State), Kept Q C x0 → Kept Q C (f x0)) : Kept Q C (State.issue s th f) := by
  unfold State.issue
  repeat' first | (with_reducible first | assumption | apply State.setSpur_kept) | grind (splits := 20) [State.setSpur_kept, State.dbgEvent_kept, State.setThread_kept, State.fetchLine_kept, State.fault_kept, State.put_kept, Keeps.next, getD_kept, foldl_kept, foldl_kept1]
theorem State.stall_kept (h : Kept Q C s) (th : Nat) (k : Nat) : Kept Q C (State.stall s th k) := by
  unfold State.stall
  repeat' with_reducible first | assumption | apply ite_kept | apply State.setThread_kept
theorem State.bubble_kept (h : Kept Q C s) (th : Nat) (t : Thread) : Kept Q C (State.bubble s th t) := by
  unfold State.bubble
  repeat' with_reducible first | assumption | apply State.setThread_kept
theorem State.done_kept (h : Kept Q C s) (th : Nat) (t : Thread) : Kept Q C (State.done s th t) := by
  unfold State.done
  repeat' with_reducible first | assumption | apply State.setThread_kept
theorem State.meter_kept (h : Kept Q C s) (th : Nat) (a : Nat) (n : Nat) : Kept Q C (State.meter s th a n) := by
  unfold State.meter
  repeat' first | (with_reducible first | assumption | apply State.count_kept) | split
theorem State.postStore_kept (h : Kept Q C s) (th : Nat) (p : Posted) : Kept Q C (State.postStore s th p) := by
  unfold State.postStore
  repeat' with_reducible first | assumption | apply ite_kept | apply State.store_kept | apply State.meter_kept
theorem State.writeLine_kept (h : Kept Q C s) (th : Nat) (l : CacheLine) : Kept Q C (State.writeLine s th l) := by
  unfold State.writeLine
  repeat' with_reducible first | assumption | intro _ | apply ite_kept | apply foldl_kept | apply State.postStore_kept | apply State.setThread_kept | apply State.store_kept | apply State.meter_kept
theorem State.fillLine_kept (h : Kept Q C s) (th : Nat) (l : CacheLine) : Kept Q C (State.fillLine s th l) := by
  unfold State.fillLine
  repeat' first | (with_reducible first | assumption | apply State.setThread_kept | apply State.writeLine_kept | apply State.drawn_kept) | split | dsimp only
theorem State.park_kept (h : Kept Q C s) (th : Nat) (w : Waiting) (k : Nat) : Kept Q C (State.park s th w k) := by
  unfold State.park
  repeat' with_reducible first | assumption | apply State.setThread_kept | apply State.setSpur_kept
theorem State.finishStore_kept (h : Kept Q C s) (th : Nat) (a : Nat) (bs : List Byte) (key : Nat) (t : Thread) : Kept Q C (State.finishStore s th a bs key t) := by
  unfold State.finishStore
  repeat' first | (with_reducible first | assumption | apply State.done_kept | apply State.setThread_kept) | split
theorem State.doLoad_kept (h : Kept Q C s) (th : Nat) (a : Nat) (n : Nat) (rt : Fin 32) (sx : Bool) (t : Thread) : Kept Q C (State.doLoad s th a n rt sx t) := by
  unfold State.doLoad
  repeat' first | (with_reducible first | assumption | apply ite_kept | apply State.fault_kept | apply State.stall_kept | apply State.done_kept | apply State.rdRecord_kept | apply State.park_kept | apply State.setThread_kept) | split
theorem State.doStore_kept (h : Kept Q C s) (th : Nat) (a : Nat) (bs : List Byte) (t : Thread) : Kept Q C (State.doStore s th a bs t) := by
  unfold State.doStore
  repeat' with_reducible first | assumption | apply ite_kept | apply State.fault_kept | apply State.finishStore_kept
theorem State.settleLine_kept (h : Kept Q C s) (th : Nat) (a : Nat) : Kept Q C (State.settleLine s th a) := by
  unfold State.settleLine
  repeat' with_reducible first | assumption | intro _ | apply ite_kept | apply foldl_kept | apply State.postStore_kept | apply State.writeLine_kept | apply State.setThread_kept
theorem State.atomicAt_kept (h : Kept Q C s) (a : Nat) (n : Nat) (key : Nat) (op : Nat) (sgn : Bool) (opnd : Nat) (cmp : Nat) : Kept Q C (State.atomicAt s a n key op sgn opnd cmp).1 := by
  unfold State.atomicAt
  repeat' first | (with_reducible first | assumption | apply State.rdRecord_kept | apply State.store_kept) | split
theorem State.doAtomic_kept (h : Kept Q C s) (th : Nat) (a : Nat) (n : Nat) (rd : Fin 32) (op : Nat) (sgn : Bool) (opnd : Nat) (cmp : Nat) : Kept Q C (State.doAtomic s th a n rd op sgn opnd cmp) := by
  unfold State.doAtomic
  repeat' first | (with_reducible first | assumption | apply State.fault_kept) | grind (splits := 20) [State.fault_kept, State.settleLine_kept, State.atomicAt_kept, State.stall_kept, State.done_kept, State.park_kept, Keeps.next, getD_kept, foldl_kept, foldl_kept1]
theorem State.gOp_kept (h : Kept Q C s) (th : Nat) (rd : Fin 32) (v : Thread → Word) : Kept Q C (State.gOp s th rd v) := by
  unfold State.gOp
  repeat' with_reducible first | assumption | intro _ | apply State.issue_kept | apply State.done_kept
theorem State.gLate_kept (h : Kept Q C s) (th : Nat) (rd : Fin 32) (k : Nat) (v : Thread → Word) : Kept Q C (State.gLate s th rd k v) := by
  unfold State.gLate
  repeat' with_reducible first | assumption | intro _ | apply State.issue_kept | apply State.done_kept
theorem State.tOp_kept (h : Kept Q C s) (th : Nat) (f : Thread → Thread) : Kept Q C (State.tOp s th f) := by
  unfold State.tOp
  repeat' with_reducible first | assumption | intro _ | apply State.issue_kept | apply State.done_kept
theorem execSpurNop_kept (h : Kept Q C s) (th : Fin 4096) : Keeps Q C (execSpurNop th s) := by
  unfold execSpurNop
  repeat' with_reducible first | assumption | apply State.tOp_kept | apply Keeps.next
theorem State.haltThread_kept (h : Kept Q C s) (th : Nat) : Kept Q C (State.haltThread s th) := by
  unfold State.haltThread
  repeat' with_reducible first | assumption | apply State.setThread_kept
theorem execHalt_kept (h : Kept Q C s) (th : Fin 4096) : Keeps Q C (execHalt th s) := by
  unfold execHalt
  repeat' with_reducible first | assumption | intro _ | apply State.issue_kept | apply State.haltThread_kept | apply Keeps.next
theorem execYield_kept (h : Kept Q C s) (th : Fin 4096) : Keeps Q C (execYield th s) := by
  unfold execYield
  repeat' with_reducible first | assumption | apply State.tOp_kept | apply Keeps.next
theorem execFence_kept (h : Kept Q C s) (th : Fin 4096) : Keeps Q C (execFence th s) := by
  unfold execFence
  repeat' with_reducible first | assumption | intro _ | apply ite_kept | apply State.issue_kept | apply State.done_kept | apply State.setThread_kept | apply Keeps.next
theorem execCwb_kept (h : Kept Q C s) (th : Fin 4096) (rs1 : Fin 32) : Keeps Q C (execCwb th rs1 s) := by
  unfold execCwb
  repeat' with_reducible first | assumption | intro _ | apply foldl_kept | apply State.issue_kept | apply State.writeLine_kept | apply State.done_kept | apply Keeps.next
theorem execCinv_kept (h : Kept Q C s) (th : Fin 4096) (rs1 : Fin 32) : Keeps Q C (execCinv th rs1 s) := by
  unfold execCinv
  repeat' with_reducible first | assumption | apply State.tOp_kept | apply Keeps.next
theorem execCflush_kept (h : Kept Q C s) (th : Fin 4096) : Keeps Q C (execCflush th s) := by
  unfold execCflush
  repeat' with_reducible first | assumption | intro _ | apply foldl_kept | apply State.issue_kept | apply State.writeLine_kept | apply State.done_kept | apply Keeps.next
theorem execMfs_kept (h : Kept Q C s) (th : Fin 4096) (rd : Fin 32) (sr : Fin 32) : Keeps Q C (execMfs th rd sr s) := by
  unfold execMfs
  repeat' first | (with_reducible first | assumption | intro _ | apply State.issue_kept | apply State.done_kept | apply State.fault_kept | apply Keeps.next) | split
theorem execMts_kept (h : Kept Q C s) (th : Fin 4096) (sr : Fin 32) (rs1 : Fin 32) : Keeps Q C (execMts th sr rs1 s) := by
  unfold execMts
  repeat' with_reducible first | assumption | intro _ | apply ite_kept | apply State.issue_kept | apply State.done_kept | apply State.fault_kept | apply Keeps.next
theorem execAdd_kept (h : Kept Q C s) (th : Fin 4096) (rd : Fin 32) (rs1 : Fin 32) (rs2 : Fin 32) : Keeps Q C (execAdd th rd rs1 rs2 s) := by
  unfold execAdd
  repeat' with_reducible first | assumption | apply State.gOp_kept | apply Keeps.next
theorem execSub_kept (h : Kept Q C s) (th : Fin 4096) (rd : Fin 32) (rs1 : Fin 32) (rs2 : Fin 32) : Keeps Q C (execSub th rd rs1 rs2 s) := by
  unfold execSub
  repeat' with_reducible first | assumption | apply State.gOp_kept | apply Keeps.next
theorem execAnd_kept (h : Kept Q C s) (th : Fin 4096) (rd : Fin 32) (rs1 : Fin 32) (rs2 : Fin 32) : Keeps Q C (execAnd th rd rs1 rs2 s) := by
  unfold execAnd
  repeat' with_reducible first | assumption | apply State.gOp_kept | apply Keeps.next
theorem execOr_kept (h : Kept Q C s) (th : Fin 4096) (rd : Fin 32) (rs1 : Fin 32) (rs2 : Fin 32) : Keeps Q C (execOr th rd rs1 rs2 s) := by
  unfold execOr
  repeat' with_reducible first | assumption | apply State.gOp_kept | apply Keeps.next
theorem execXor_kept (h : Kept Q C s) (th : Fin 4096) (rd : Fin 32) (rs1 : Fin 32) (rs2 : Fin 32) : Keeps Q C (execXor th rd rs1 rs2 s) := by
  unfold execXor
  repeat' with_reducible first | assumption | apply State.gOp_kept | apply Keeps.next
theorem execSll_kept (h : Kept Q C s) (th : Fin 4096) (rd : Fin 32) (rs1 : Fin 32) (rs2 : Fin 32) : Keeps Q C (execSll th rd rs1 rs2 s) := by
  unfold execSll
  repeat' with_reducible first | assumption | apply State.gOp_kept | apply Keeps.next
theorem execSrl_kept (h : Kept Q C s) (th : Fin 4096) (rd : Fin 32) (rs1 : Fin 32) (rs2 : Fin 32) : Keeps Q C (execSrl th rd rs1 rs2 s) := by
  unfold execSrl
  repeat' with_reducible first | assumption | apply State.gOp_kept | apply Keeps.next
theorem execSra_kept (h : Kept Q C s) (th : Fin 4096) (rd : Fin 32) (rs1 : Fin 32) (rs2 : Fin 32) : Keeps Q C (execSra th rd rs1 rs2 s) := by
  unfold execSra
  repeat' with_reducible first | assumption | apply State.gOp_kept | apply Keeps.next
theorem execSlli_kept (h : Kept Q C s) (th : Fin 4096) (rd : Fin 32) (rs1 : Fin 32) (sh : Fin 64) : Keeps Q C (execSlli th rd rs1 sh s) := by
  unfold execSlli
  repeat' with_reducible first | assumption | apply State.gOp_kept | apply Keeps.next
theorem execSrli_kept (h : Kept Q C s) (th : Fin 4096) (rd : Fin 32) (rs1 : Fin 32) (sh : Fin 64) : Keeps Q C (execSrli th rd rs1 sh s) := by
  unfold execSrli
  repeat' with_reducible first | assumption | apply State.gOp_kept | apply Keeps.next
theorem execSrai_kept (h : Kept Q C s) (th : Fin 4096) (rd : Fin 32) (rs1 : Fin 32) (sh : Fin 64) : Keeps Q C (execSrai th rd rs1 sh s) := by
  unfold execSrai
  repeat' with_reducible first | assumption | apply State.gOp_kept | apply Keeps.next
theorem execSlt_kept (h : Kept Q C s) (th : Fin 4096) (rd : Fin 32) (rs1 : Fin 32) (rs2 : Fin 32) : Keeps Q C (execSlt th rd rs1 rs2 s) := by
  unfold execSlt
  repeat' with_reducible first | assumption | apply State.gOp_kept | apply Keeps.next
theorem execSltu_kept (h : Kept Q C s) (th : Fin 4096) (rd : Fin 32) (rs1 : Fin 32) (rs2 : Fin 32) : Keeps Q C (execSltu th rd rs1 rs2 s) := by
  unfold execSltu
  repeat' with_reducible first | assumption | apply State.gOp_kept | apply Keeps.next
theorem execMul_kept (h : Kept Q C s) (th : Fin 4096) (rd : Fin 32) (rs1 : Fin 32) (rs2 : Fin 32) : Keeps Q C (execMul th rd rs1 rs2 s) := by
  unfold execMul
  repeat' with_reducible first | assumption | apply State.gLate_kept | apply Keeps.next
theorem execMulh_kept (h : Kept Q C s) (th : Fin 4096) (rd : Fin 32) (rs1 : Fin 32) (rs2 : Fin 32) : Keeps Q C (execMulh th rd rs1 rs2 s) := by
  unfold execMulh
  repeat' with_reducible first | assumption | apply State.gLate_kept | apply Keeps.next
theorem execMulhu_kept (h : Kept Q C s) (th : Fin 4096) (rd : Fin 32) (rs1 : Fin 32) (rs2 : Fin 32) : Keeps Q C (execMulhu th rd rs1 rs2 s) := by
  unfold execMulhu
  repeat' with_reducible first | assumption | apply State.gLate_kept | apply Keeps.next
theorem execMin_kept (h : Kept Q C s) (th : Fin 4096) (rd : Fin 32) (rs1 : Fin 32) (rs2 : Fin 32) : Keeps Q C (execMin th rd rs1 rs2 s) := by
  unfold execMin
  repeat' with_reducible first | assumption | apply State.gOp_kept | apply Keeps.next
theorem execMax_kept (h : Kept Q C s) (th : Fin 4096) (rd : Fin 32) (rs1 : Fin 32) (rs2 : Fin 32) : Keeps Q C (execMax th rd rs1 rs2 s) := by
  unfold execMax
  repeat' with_reducible first | assumption | apply State.gOp_kept | apply Keeps.next
theorem execMinu_kept (h : Kept Q C s) (th : Fin 4096) (rd : Fin 32) (rs1 : Fin 32) (rs2 : Fin 32) : Keeps Q C (execMinu th rd rs1 rs2 s) := by
  unfold execMinu
  repeat' with_reducible first | assumption | apply State.gOp_kept | apply Keeps.next
theorem execMaxu_kept (h : Kept Q C s) (th : Fin 4096) (rd : Fin 32) (rs1 : Fin 32) (rs2 : Fin 32) : Keeps Q C (execMaxu th rd rs1 rs2 s) := by
  unfold execMaxu
  repeat' with_reducible first | assumption | apply State.gOp_kept | apply Keeps.next
theorem execClz_kept (h : Kept Q C s) (th : Fin 4096) (rd : Fin 32) (rs1 : Fin 32) : Keeps Q C (execClz th rd rs1 s) := by
  unfold execClz
  repeat' with_reducible first | assumption | apply State.gOp_kept | apply Keeps.next
theorem execPopc_kept (h : Kept Q C s) (th : Fin 4096) (rd : Fin 32) (rs1 : Fin 32) : Keeps Q C (execPopc th rd rs1 s) := by
  unfold execPopc
  repeat' with_reducible first | assumption | apply State.gOp_kept | apply Keeps.next
theorem execBswap_kept (h : Kept Q C s) (th : Fin 4096) (rd : Fin 32) (rs1 : Fin 32) : Keeps Q C (execBswap th rd rs1 s) := by
  unfold execBswap
  repeat' with_reducible first | assumption | apply State.gOp_kept | apply Keeps.next
theorem execAddi_kept (h : Kept Q C s) (th : Fin 4096) (rd : Fin 32) (rs1 : Fin 32) (imm : BitVec 16) : Keeps Q C (execAddi th rd rs1 imm s) := by
  unfold execAddi
  repeat' with_reducible first | assumption | apply State.gOp_kept | apply Keeps.next
theorem execAndi_kept (h : Kept Q C s) (th : Fin 4096) (rd : Fin 32) (rs1 : Fin 32) (imm : BitVec 16) : Keeps Q C (execAndi th rd rs1 imm s) := by
  unfold execAndi
  repeat' with_reducible first | assumption | apply State.gOp_kept | apply Keeps.next
theorem execOri_kept (h : Kept Q C s) (th : Fin 4096) (rd : Fin 32) (rs1 : Fin 32) (imm : BitVec 16) : Keeps Q C (execOri th rd rs1 imm s) := by
  unfold execOri
  repeat' with_reducible first | assumption | apply State.gOp_kept | apply Keeps.next
theorem execXori_kept (h : Kept Q C s) (th : Fin 4096) (rd : Fin 32) (rs1 : Fin 32) (imm : BitVec 16) : Keeps Q C (execXori th rd rs1 imm s) := by
  unfold execXori
  repeat' with_reducible first | assumption | apply State.gOp_kept | apply Keeps.next
theorem execLui_kept (h : Kept Q C s) (th : Fin 4096) (rd : Fin 32) (imm : BitVec 16) : Keeps Q C (execLui th rd imm s) := by
  unfold execLui
  repeat' with_reducible first | assumption | apply State.gOp_kept | apply Keeps.next
theorem execLd_kept (h : Kept Q C s) (th : Fin 4096) (rt : Fin 32) (an : Fin 8) (am : Fin 4) (sz : Fin 4) (sx : Bool) (off : BitVec 13) : Keeps Q C (execLd th rt an am sz sx off s) := by
  unfold execLd
  repeat' with_reducible first | assumption | intro _ | apply ite_kept | apply State.issue_kept | apply State.fault_kept | apply State.doLoad_kept | apply Keeps.next
theorem execSt_kept (h : Kept Q C s) (th : Fin 4096) (rt : Fin 32) (an : Fin 8) (am : Fin 4) (sz : Fin 4) (off : BitVec 13) : Keeps Q C (execSt th rt an am sz off s) := by
  unfold execSt
  repeat' with_reducible first | assumption | intro _ | apply ite_kept | apply State.issue_kept | apply State.fault_kept | apply State.doStore_kept | apply Keeps.next
theorem execMovaToA_kept (h : Kept Q C s) (th : Fin 4096) (ad : Fin 8) (rs1 : Fin 32) : Keeps Q C (execMovaToA th ad rs1 s) := by
  unfold execMovaToA
  repeat' with_reducible first | assumption | apply State.tOp_kept | apply Keeps.next
theorem execMovaFromA_kept (h : Kept Q C s) (th : Fin 4096) (rd : Fin 32) (an : Fin 8) : Keeps Q C (execMovaFromA th rd an s) := by
  unfold execMovaFromA
  repeat' with_reducible first | assumption | apply State.gOp_kept | apply Keeps.next
theorem execAdda_kept (h : Kept Q C s) (th : Fin 4096) (ad : Fin 8) (an : Fin 8) (imm : BitVec 16) : Keeps Q C (execAdda th ad an imm s) := by
  unfold execAdda
  repeat' with_reducible first | assumption | apply State.tOp_kept | apply Keeps.next
theorem State.atomOp_kept (h : Kept Q C s) (th : Nat) (rd : Fin 32) (an : Fin 8) (rs2 : Fin 32) (dbl : Bool) (sgn : Bool) (op : Nat) : Kept Q C (State.atomOp s th rd an rs2 dbl sgn op) := by
  unfold State.atomOp
  repeat' with_reducible first | assumption | intro _ | apply State.issue_kept | apply State.doAtomic_kept
theorem execAtomAdd_kept (h : Kept Q C s) (th : Fin 4096) (rd : Fin 32) (an : Fin 8) (rs2 : Fin 32) (dbl : Bool) : Keeps Q C (execAtomAdd th rd an rs2 dbl s) := by
  unfold execAtomAdd
  repeat' with_reducible first | assumption | apply State.atomOp_kept | apply Keeps.next
theorem execAtomMin_kept (h : Kept Q C s) (th : Fin 4096) (rd : Fin 32) (an : Fin 8) (rs2 : Fin 32) (dbl : Bool) (sgn : Bool) : Keeps Q C (execAtomMin th rd an rs2 dbl sgn s) := by
  unfold execAtomMin
  repeat' with_reducible first | assumption | apply State.atomOp_kept | apply Keeps.next
theorem execAtomMax_kept (h : Kept Q C s) (th : Fin 4096) (rd : Fin 32) (an : Fin 8) (rs2 : Fin 32) (dbl : Bool) (sgn : Bool) : Keeps Q C (execAtomMax th rd an rs2 dbl sgn s) := by
  unfold execAtomMax
  repeat' with_reducible first | assumption | apply State.atomOp_kept | apply Keeps.next
theorem execAtomCas_kept (h : Kept Q C s) (th : Fin 4096) (rd : Fin 32) (an : Fin 8) (rs2 : Fin 32) (dbl : Bool) (sgn : Bool) : Keeps Q C (execAtomCas th rd an rs2 dbl sgn s) := by
  unfold execAtomCas
  repeat' with_reducible first | assumption | intro _ | apply ite_kept | apply State.issue_kept | apply State.fault_kept | apply State.atomOp_kept | apply Keeps.next
theorem execBr_kept (h : Kept Q C s) (th : Fin 4096) (rs1 : Fin 32) (rs2 : Fin 32) (cond : Fin 6) (off : BitVec 13) : Keeps Q C (execBr th rs1 rs2 cond off s) := by
  unfold execBr
  repeat' with_reducible first | assumption | intro _ | apply ite_kept | apply State.issue_kept | apply State.bubble_kept | apply State.done_kept | apply Keeps.next
theorem execJ_kept (h : Kept Q C s) (th : Fin 4096) (off : BitVec 26) : Keeps Q C (execJ th off s) := by
  unfold execJ
  repeat' with_reducible first | assumption | intro _ | apply State.issue_kept | apply State.bubble_kept | apply Keeps.next
theorem execJal_kept (h : Kept Q C s) (th : Fin 4096) (off : BitVec 26) : Keeps Q C (execJal th off s) := by
  unfold execJal
  repeat' with_reducible first | assumption | intro _ | apply State.issue_kept | apply State.bubble_kept | apply Keeps.next
theorem execJalr_kept (h : Kept Q C s) (th : Fin 4096) (rd : Fin 32) (rs1 : Fin 32) (imm : BitVec 16) : Keeps Q C (execJalr th rd rs1 imm s) := by
  unfold execJalr
  repeat' with_reducible first | assumption | intro _ | apply ite_kept | apply State.issue_kept | apply State.fault_kept | apply State.bubble_kept | apply Keeps.next
theorem execCvt_kept (h : Kept Q C s) (th : Fin 4096) (rd : Fin 32) (rs1 : Fin 32) (sfmt : Fin 32) (dfmt : Fin 32) (rnd : Bool) : Keeps Q C (execCvt th rd rs1 sfmt dfmt rnd s) := by
  unfold execCvt
  repeat' with_reducible first | assumption | intro _ | apply ite_kept | apply State.issue_kept | apply State.fault_kept | apply State.done_kept | apply Keeps.next
theorem State.unpark_kept (h : Kept Q C s) (th : Nat) (k : Nat) : Kept Q C (State.unpark s th k) := by
  unfold State.unpark
  repeat' with_reducible first | assumption | apply State.setThread_kept | apply State.setSpur_kept
theorem State.missFill_kept (h : Kept Q C s) (th : Nat) (a : Nat) (n : Nat) (key : Nat) (cache : Bool) : Kept Q C (State.missFill s th a n key cache) := by
  unfold State.missFill
  repeat' with_reducible first | assumption | apply ite_kept | apply State.fillLine_kept | apply State.meter_kept
theorem State.ftapEnd_kept (h : Kept Q C s) (th : Nat) (w : FtapWait) (x : Nat) (h : Nat) : Kept Q C (State.ftapEnd s th w x h) := by
  unfold State.ftapEnd
  repeat' first | (with_reducible first | assumption | apply State.bump_kept | apply State.finishStore_kept | apply State.done_kept) | split
theorem State.ftapReply_kept (h : Kept Q C s) (th : Nat) (w : FtapWait) : Kept Q C (State.ftapReply s th w) := by
  unfold State.ftapReply
  repeat' first | (with_reducible first | assumption | intro _ | apply foldl_kept | apply State.unpark_kept | apply State.fault_kept | apply State.rdRecord_kept | apply State.missFill_kept | apply State.ftapEnd_kept) | split | dsimp only
theorem State.remoteReply_kept (h : Kept Q C s) (th : Nat) : Kept Q C (State.remoteReply s th) := by
  unfold State.remoteReply
  repeat' first | (with_reducible first | assumption | apply State.unpark_kept) | grind (splits := 20) [State.unpark_kept, State.fault_kept, State.rdRecord_kept, State.missFill_kept, State.done_kept, State.atomicAt_kept, State.meter_kept, State.ftapReply_kept, Keeps.next, getD_kept, foldl_kept, foldl_kept1]
theorem State.afterAck_kept (h : Kept Q C s) (th : Nat) : Kept Q C (State.afterAck s th) := by
  unfold State.afterAck
  repeat' first | (with_reducible first | assumption | apply State.done_kept) | split | dsimp only
theorem State.ackStore_kept (h : Kept Q C s) (th : Nat) (k : Nat) : Kept Q C (State.ackStore s th k) := by
  unfold State.ackStore
  repeat' first | (with_reducible first | assumption | apply State.postStore_kept | apply State.afterAck_kept | apply State.setThread_kept) | split | dsimp only
theorem execStoreAck_kept (h : Kept Q C s) (th : Fin 4096) (k : Fin 7) : Keeps Q C (execStoreAck th k s) := by
  unfold execStoreAck
  repeat' with_reducible first | assumption | apply State.ackStore_kept | apply Keeps.next
theorem State.dspLate_kept (h : Kept Q C s) (th : Nat) (k : Nat) (f : Thread → Thread × Bool) : Kept Q C (State.dspLate s th k f) := by
  unfold State.dspLate
  repeat' with_reducible first | assumption | intro _ | apply ite_kept | apply State.issue_kept | apply State.done_kept | apply State.bump_kept
theorem State.dspOp_kept (h : Kept Q C s) (th : Nat) (f : Thread → Thread × Bool) : Kept Q C (State.dspOp s th f) := by
  unfold State.dspOp
  repeat' with_reducible first | assumption | apply State.dspLate_kept
theorem State.macOp_kept (h : Kept Q C s) (th : Nat) (ad : Fin 4) (fn : Nat) (frac : Bool) (p : Thread → ℤ × ℤ) : Kept Q C (State.macOp s th ad fn frac p) := by
  unfold State.macOp
  repeat' with_reducible first | assumption | apply State.dspLate_kept
theorem State.cmacOp_kept (h : Kept Q C s) (th : Nat) (ad : Fin 4) (fn : Nat) (conj : Bool) (gs1 : Fin 32) (gs2 : Fin 32) (hi1 : Bool) (hi2 : Bool) (frac : Bool) : Kept Q C (State.cmacOp s th ad fn conj gs1 gs2 hi1 hi2 frac) := by
  unfold State.cmacOp
  repeat' with_reducible first | assumption | apply State.macOp_kept
theorem execCmul_kept (h : Kept Q C s) (th : Fin 4096) (ad : Fin 4) (gs1 : Fin 32) (gs2 : Fin 32) (hi1 : Bool) (hi2 : Bool) (frac : Bool) : Keeps Q C (execCmul th ad gs1 gs2 hi1 hi2 frac s) := by
  unfold execCmul
  repeat' with_reducible first | assumption | apply State.cmacOp_kept | apply Keeps.next
theorem execCmac_kept (h : Kept Q C s) (th : Fin 4096) (ad : Fin 4) (gs1 : Fin 32) (gs2 : Fin 32) (hi1 : Bool) (hi2 : Bool) (frac : Bool) : Keeps Q C (execCmac th ad gs1 gs2 hi1 hi2 frac s) := by
  unfold execCmac
  repeat' with_reducible first | assumption | apply State.cmacOp_kept | apply Keeps.next
theorem execCmsu_kept (h : Kept Q C s) (th : Fin 4096) (ad : Fin 4) (gs1 : Fin 32) (gs2 : Fin 32) (hi1 : Bool) (hi2 : Bool) (frac : Bool) : Keeps Q C (execCmsu th ad gs1 gs2 hi1 hi2 frac s) := by
  unfold execCmsu
  repeat' with_reducible first | assumption | apply State.cmacOp_kept | apply Keeps.next
theorem execCmulj_kept (h : Kept Q C s) (th : Fin 4096) (ad : Fin 4) (gs1 : Fin 32) (gs2 : Fin 32) (hi1 : Bool) (hi2 : Bool) (frac : Bool) : Keeps Q C (execCmulj th ad gs1 gs2 hi1 hi2 frac s) := by
  unfold execCmulj
  repeat' with_reducible first | assumption | apply State.cmacOp_kept | apply Keeps.next
theorem execCmacj_kept (h : Kept Q C s) (th : Fin 4096) (ad : Fin 4) (gs1 : Fin 32) (gs2 : Fin 32) (hi1 : Bool) (hi2 : Bool) (frac : Bool) : Keeps Q C (execCmacj th ad gs1 gs2 hi1 hi2 frac s) := by
  unfold execCmacj
  repeat' with_reducible first | assumption | apply State.cmacOp_kept | apply Keeps.next
theorem execCmsuj_kept (h : Kept Q C s) (th : Fin 4096) (ad : Fin 4) (gs1 : Fin 32) (gs2 : Fin 32) (hi1 : Bool) (hi2 : Bool) (frac : Bool) : Keeps Q C (execCmsuj th ad gs1 gs2 hi1 hi2 frac s) := by
  unfold execCmsuj
  repeat' with_reducible first | assumption | apply State.cmacOp_kept | apply Keeps.next
theorem State.rmacOp_kept (h : Kept Q C s) (th : Nat) (ad : Fin 4) (fn : Nat) (gs1 : Fin 32) (gs2 : Fin 32) (hi1 : Bool) (hi2 : Bool) (frac : Bool) (bc : Bool) : Kept Q C (State.rmacOp s th ad fn gs1 gs2 hi1 hi2 frac bc) := by
  unfold State.rmacOp
  repeat' with_reducible first | assumption | apply State.macOp_kept
theorem execRmacMul_kept (h : Kept Q C s) (th : Fin 4096) (ad : Fin 4) (gs1 : Fin 32) (gs2 : Fin 32) (hi1 : Bool) (hi2 : Bool) (frac : Bool) (bc : Bool) : Keeps Q C (execRmacMul th ad gs1 gs2 hi1 hi2 frac bc s) := by
  unfold execRmacMul
  repeat' with_reducible first | assumption | apply State.rmacOp_kept | apply Keeps.next
theorem execRmacMac_kept (h : Kept Q C s) (th : Fin 4096) (ad : Fin 4) (gs1 : Fin 32) (gs2 : Fin 32) (hi1 : Bool) (hi2 : Bool) (frac : Bool) (bc : Bool) : Keeps Q C (execRmacMac th ad gs1 gs2 hi1 hi2 frac bc s) := by
  unfold execRmacMac
  repeat' with_reducible first | assumption | apply State.rmacOp_kept | apply Keeps.next
theorem execRmacMsu_kept (h : Kept Q C s) (th : Fin 4096) (ad : Fin 4) (gs1 : Fin 32) (gs2 : Fin 32) (hi1 : Bool) (hi2 : Bool) (frac : Bool) (bc : Bool) : Keeps Q C (execRmacMsu th ad gs1 gs2 hi1 hi2 frac bc s) := by
  unfold execRmacMsu
  repeat' with_reducible first | assumption | apply State.rmacOp_kept | apply Keeps.next
theorem State.wmacOp_kept (h : Kept Q C s) (th : Nat) (ad : Fin 4) (fn : Nat) (gs1 : Fin 32) (gs2 : Fin 32) (hi1 : Bool) (hi2 : Bool) (frac : Bool) : Kept Q C (State.wmacOp s th ad fn gs1 gs2 hi1 hi2 frac) := by
  unfold State.wmacOp
  repeat' with_reducible first | assumption | apply State.dspLate_kept
theorem execWmacMul_kept (h : Kept Q C s) (th : Fin 4096) (ad : Fin 4) (gs1 : Fin 32) (gs2 : Fin 32) (hi1 : Bool) (hi2 : Bool) (frac : Bool) : Keeps Q C (execWmacMul th ad gs1 gs2 hi1 hi2 frac s) := by
  unfold execWmacMul
  repeat' with_reducible first | assumption | apply State.wmacOp_kept | apply Keeps.next
theorem execWmacMac_kept (h : Kept Q C s) (th : Fin 4096) (ad : Fin 4) (gs1 : Fin 32) (gs2 : Fin 32) (hi1 : Bool) (hi2 : Bool) (frac : Bool) : Keeps Q C (execWmacMac th ad gs1 gs2 hi1 hi2 frac s) := by
  unfold execWmacMac
  repeat' with_reducible first | assumption | apply State.wmacOp_kept | apply Keeps.next
theorem execWmacMsu_kept (h : Kept Q C s) (th : Fin 4096) (ad : Fin 4) (gs1 : Fin 32) (gs2 : Fin 32) (hi1 : Bool) (hi2 : Bool) (frac : Bool) : Keeps Q C (execWmacMsu th ad gs1 gs2 hi1 hi2 frac s) := by
  unfold execWmacMsu
  repeat' with_reducible first | assumption | apply State.wmacOp_kept | apply Keeps.next
theorem execFtap_kept (h : Kept Q C s) (th : Fin 4096) (ad : Fin 4) (ax : Fin 8) (ah : Fin 8) (typ : Fin 4) (mx : Fin 4) (mh : Fin 4) (mv : Bool) (neg : Bool) (frac : Bool) (dual : Bool) : Keeps Q C (execFtap th ad ax ah typ mx mh mv neg frac dual s) := by
  unfold execFtap
  repeat' first | (with_reducible first | assumption | intro _ | apply ite_kept | apply State.issue_kept | apply State.fault_kept | apply State.rdRecord_kept | apply State.stall_kept | apply State.ftapEnd_kept | apply State.setThread_kept | apply State.park_kept | apply Keeps.next) | split
theorem execAccClr_kept (h : Kept Q C s) (th : Fin 4096) (ad : Fin 4) (_wide : Bool) : Keeps Q C (execAccClr th ad _wide s) := by
  unfold execAccClr
  repeat' with_reducible first | assumption | apply State.dspOp_kept | apply Keeps.next
theorem execAccMov_kept (h : Kept Q C s) (th : Fin 4096) (ad : Fin 4) (asrc : Fin 4) (wide : Bool) : Keeps Q C (execAccMov th ad asrc wide s) := by
  unfold execAccMov
  repeat' with_reducible first | assumption | apply State.dspOp_kept | apply Keeps.next
theorem execAccAdd_kept (h : Kept Q C s) (th : Fin 4096) (ad : Fin 4) (asrc : Fin 4) (wide : Bool) : Keeps Q C (execAccAdd th ad asrc wide s) := by
  unfold execAccAdd
  repeat' with_reducible first | assumption | apply State.dspOp_kept | apply Keeps.next
theorem execAccNeg_kept (h : Kept Q C s) (th : Fin 4096) (ad : Fin 4) (wide : Bool) : Keeps Q C (execAccNeg th ad wide s) := by
  unfold execAccNeg
  repeat' with_reducible first | assumption | apply State.dspOp_kept | apply Keeps.next
theorem execAccShl_kept (h : Kept Q C s) (th : Fin 4096) (ad : Fin 4) (wide : Bool) (amt : Fin 64) : Keeps Q C (execAccShl th ad wide amt s) := by
  unfold execAccShl
  repeat' with_reducible first | assumption | apply State.dspOp_kept | apply Keeps.next
theorem execAccShr_kept (h : Kept Q C s) (th : Fin 4096) (ad : Fin 4) (wide : Bool) (amt : Fin 64) : Keeps Q C (execAccShr th ad wide amt s) := by
  unfold execAccShr
  repeat' with_reducible first | assumption | apply State.dspOp_kept | apply Keeps.next
theorem execAccSwap_kept (h : Kept Q C s) (th : Fin 4096) (ad : Fin 4) (wide : Bool) : Keeps Q C (execAccSwap th ad wide s) := by
  unfold execAccSwap
  repeat' with_reducible first | assumption | intro _ | apply ite_kept | apply State.issue_kept | apply State.fault_kept | apply State.dspOp_kept | apply Keeps.next
theorem execAccConj_kept (h : Kept Q C s) (th : Fin 4096) (ad : Fin 4) (wide : Bool) : Keeps Q C (execAccConj th ad wide s) := by
  unfold execAccConj
  repeat' with_reducible first | assumption | intro _ | apply ite_kept | apply State.issue_kept | apply State.fault_kept | apply State.dspOp_kept | apply Keeps.next
theorem execStac_kept (h : Kept Q C s) (th : Fin 4096) (ad : Fin 4) (an : Fin 8) (am : Fin 4) (fmt : Fin 8) (rm : Bool) (sh : Fin 64) (off : BitVec 9) : Keeps Q C (execStac th ad an am fmt rm sh off s) := by
  unfold execStac
  repeat' with_reducible first | assumption | intro _ | apply ite_kept | apply State.issue_kept | apply State.fault_kept | apply State.bump_kept | apply State.finishStore_kept | apply Keeps.next
theorem execMvac_kept (h : Kept Q C s) (th : Fin 4096) (ad : Fin 4) (rd : Fin 32) (fmt : Fin 8) (rm : Bool) (sh : Fin 64) : Keeps Q C (execMvac th ad rd fmt rm sh s) := by
  unfold execMvac
  repeat' with_reducible first | assumption | apply State.dspOp_kept | apply Keeps.next
theorem execMtac_kept (h : Kept Q C s) (th : Fin 4096) (ad : Fin 4) (rs : Fin 32) (fmt : Fin 8) (_rm : Bool) (sh : Fin 64) : Keeps Q C (execMtac th ad rs fmt _rm sh s) := by
  unfold execMtac
  repeat' with_reducible first | assumption | apply State.dspOp_kept | apply Keeps.next
theorem execRpt_kept (h : Kept Q C s) (th : Fin 4096) (lv : Fin 4) (src : Bool) (count : BitVec 11) (gc : Fin 32) (len : BitVec 12) : Keeps Q C (execRpt th lv src count gc len s) := by
  unfold execRpt
  repeat' with_reducible first | assumption | intro _ | apply ite_kept | apply State.issue_kept | apply State.fault_kept | apply State.bubble_kept | apply State.setThread_kept | apply Keeps.next
theorem execCbset_kept (h : Kept Q C s) (th : Fin 4096) (i : Fin 8) (ga : Fin 32) (gb : Fin 32) : Keeps Q C (execCbset th i ga gb s) := by
  unfold execCbset
  repeat' with_reducible first | assumption | apply State.tOp_kept | apply Keeps.next
theorem execMtcb_kept (h : Kept Q C s) (th : Fin 4096) (i : Fin 8) (ga : Fin 32) : Keeps Q C (execMtcb th i ga s) := by
  unfold execMtcb
  repeat' with_reducible first | assumption | apply State.tOp_kept | apply Keeps.next
theorem execMtcl_kept (h : Kept Q C s) (th : Fin 4096) (i : Fin 8) (ga : Fin 32) : Keeps Q C (execMtcl th i ga s) := by
  unfold execMtcl
  repeat' with_reducible first | assumption | apply State.tOp_kept | apply Keeps.next
theorem execMfcb_kept (h : Kept Q C s) (th : Fin 4096) (i : Fin 8) (ga : Fin 32) : Keeps Q C (execMfcb th i ga s) := by
  unfold execMfcb
  repeat' with_reducible first | assumption | apply State.gOp_kept | apply Keeps.next
theorem execMfcl_kept (h : Kept Q C s) (th : Fin 4096) (i : Fin 8) (ga : Fin 32) : Keeps Q C (execMfcl th i ga s) := by
  unfold execMfcl
  repeat' with_reducible first | assumption | apply State.gOp_kept | apply Keeps.next
theorem execCbget_kept (h : Kept Q C s) (th : Fin 4096) (i : Fin 8) (j : Fin 4) : Keeps Q C (execCbget th i j s) := by
  unfold execCbget
  repeat' with_reducible first | assumption | intro _ | apply State.issue_kept | apply State.done_kept | apply Keeps.next
theorem execMtlc_kept (h : Kept Q C s) (th : Fin 4096) (lv : Fin 4) (ga : Fin 32) : Keeps Q C (execMtlc th lv ga s) := by
  unfold execMtlc
  repeat' with_reducible first | assumption | apply State.tOp_kept | apply Keeps.next
theorem execMflc_kept (h : Kept Q C s) (th : Fin 4096) (lv : Fin 4) (ga : Fin 32) : Keeps Q C (execMflc th lv ga s) := by
  unfold execMflc
  repeat' with_reducible first | assumption | apply State.gOp_kept | apply Keeps.next
theorem State.writeField_kept (h : Kept Q C s) (f : Field) (v : Nat) (i : Nat) : Kept Q C (State.writeField s f v i) := by
  unfold State.writeField
  repeat' first | (with_reducible first | assumption | apply State.put_kept | apply State.stage_kept) | split
theorem State.setPart_kept (h : Kept Q C s) (p : Nat) (x : Part) : Kept Q C (State.setPart s p x) := by
  unfold State.setPart
  repeat' with_reducible first | assumption | apply State.withParts_kept
theorem State.setCore_kept (h : Kept Q C s) (n : Nat) (x : Core) : Kept Q C (State.setCore s n x) := by
  unfold State.setCore
  repeat' with_reducible first | assumption | apply State.withCores_kept
theorem State.setPhys_kept (h : Kept Q C s) (k : Nat) (x : Phys) : Kept Q C (State.setPhys s k x) := by
  unfold State.setPhys
  repeat' with_reducible first | assumption | apply State.withPhys_kept
theorem State.setProc_kept (h : Kept Q C s) (i : Nat) (x : Proc) : Kept Q C (State.setProc s i x) := by
  unfold State.setProc
  repeat' with_reducible first | assumption | apply State.withProcs_kept
theorem State.setCell_kept (h : Kept Q C s) (c : Nat) (x : Cell) : Kept Q C (State.setCell s c x) := by
  unfold State.setCell
  repeat' with_reducible first | assumption | apply State.withCells_kept
theorem State.setTime_kept (h : Kept Q none s) (t : TimeState) : Kept Q none (State.setTime s t) := ⟨h.1, h.2.1, h.2.2.1, h.2.2.2.1, fun _ h => by cases h⟩
theorem State.setSeq_kept (h : Kept Q C s) (i : Nat) (q : Seq) : Kept Q C (State.setSeq s i q) := by
  unfold State.setSeq
  repeat' with_reducible first | assumption | apply State.withSeqs_kept
theorem State.modSeq_kept (h : Kept Q C s) (i : Nat) (f : Seq → Seq) : Kept Q C (State.modSeq s i f) := by
  unfold State.modSeq
  repeat' first | (with_reducible first | assumption | apply State.setSeq_kept) | split
theorem State.clrf_kept (h : Kept Q C s) (f : Field) (m : Nat) (i : Nat) : Kept Q C (State.clrf s f m i) := by
  unfold State.clrf
  repeat' with_reducible first | assumption | apply State.put_kept
theorem State.logPut_kept (h : Kept Q C s) (i : Nat) (tp : Nat) (sev : Nat) (len : Nat) (data : Nat) : Kept Q C (State.logPut s i tp sev len data) := by
  unfold State.logPut
  repeat' with_reducible first | assumption | apply State.setProc_kept
theorem State.logRec_kept (h : Kept Q C s) (i : Nat) (tp : Nat) (sev : Nat) (words : List Nat) : Kept Q C (State.logRec s i tp sev words) := by
  unfold State.logRec
  repeat' with_reducible first | assumption | apply ite_kept | apply State.logPut_kept
theorem State.dropChange_kept (h : Kept Q C s) (p : Nat) (kind : Nat) (what : Nat) : Kept Q C (State.dropChange s p kind what) := by
  unfold State.dropChange
  repeat' with_reducible first | assumption | apply State.logRec_kept
theorem State.setFrame_kept (h : Kept Q C s) (f : Nat) (x : Frame) : Kept Q C (State.setFrame s f x) := by
  unfold State.setFrame
  repeat' with_reducible first | assumption | apply State.withFrames_kept
theorem State.setFreeList_kept (h : Kept Q C s) (p : Nat) (c : Nat) (l : List Nat) : Kept Q C (State.setFreeList s p c l) := by
  unfold State.setFreeList
  repeat' with_reducible first | assumption | apply State.withFreeLists_kept
theorem State.takeFree_kept (h : Kept Q C s) (p : Nat) (n : ℤ) (c : ℤ) : Kept Q C (State.takeFree s p n c) := by
  unfold State.takeFree
  repeat' with_reducible first | assumption | apply State.put_kept
theorem State.allocFrame_kept (h : Kept Q C s) (p : Nat) (c : Nat) : ∀ t_, State.allocFrame s p c = some t_ → Kept Q C t_.2 := by
  unfold State.allocFrame
  repeat' first | (with_reducible first | assumption | apply State.withChunks_kept) | grind (splits := 20) [State.withChunks_kept, State.takeFree_kept, State.setFreeList_kept, Keeps.next, getD_kept, foldl_kept, foldl_kept1]
theorem State.freeFrame_kept (h : Kept Q C s) (f : Nat) : Kept Q C (State.freeFrame s f) := by
  unfold State.freeFrame
  repeat' first | (with_reducible first | assumption | apply ite_kept | apply State.put_kept | apply State.setFrame_kept | apply State.withHeldFrames_kept | apply State.takeFree_kept | apply State.withChunks_kept | apply State.setFreeList_kept) | split
theorem State.decRef_kept (h : Kept Q C s) (e : PageEnt) : Kept Q C (State.decRef s e) := by
  unfold State.decRef
  repeat' with_reducible first | assumption | apply ite_kept | apply State.freeFrame_kept | apply State.setFrame_kept
theorem State.incRef_kept (h : Kept Q C s) (e : PageEnt) : Kept Q C (State.incRef s e) := by
  unfold State.incRef
  repeat' with_reducible first | assumption | apply ite_kept | apply State.setFrame_kept
theorem State.allocMany_kept (h : Kept Q C s) (p : Nat) (c : Nat) (sl : Nat) (k : Nat) (charge : Bool) (a_6 : Nat) : ∀ t_, State.allocMany s p c sl k charge a_6 = .ok t_ → Kept Q C t_.2 := by
  induction a_6 generalizing s with
  | zero =>
    intro t ht
    cases ht
    exact h
  | succ n ih =>
    intro t ht
    unfold State.allocMany at ht
    split at ht
    · cases ht
    · split at ht
      · cases ht
      · rename_i f s1 hs1
        dsimp only at ht
        split at ht
        · rename_i es s2 h2
          cases ht
          have h1 : Kept Q C s1 := State.allocFrame_kept h _ _ _ hs1
          refine (show Kept Q C (es, s2).2 from ih ?_ _ h2)
          exact ite_kept (State.put_kept (State.setFrame_kept h1 _ _) _ _ _) (State.setFrame_kept h1 _ _)
        · cases ht
theorem State.setLru_kept (h : Kept Q C s) (p : Nat) (l : List Nat) : Kept Q C (State.setLru s p l) := by
  unfold State.setLru
  repeat' with_reducible first | assumption | apply State.withLru_kept
theorem State.setNode_kept (h : Kept Q C s) (n : Nat) (x : Node) : Kept Q C (State.setNode s n x) := by
  unfold State.setNode
  repeat' with_reducible first | assumption | apply State.withNodes_kept
theorem State.settleNode_kept (h : Kept Q C s) (n : Nat) (head : Bool) : Kept Q C (State.settleNode s n head) := by
  unfold State.settleNode
  repeat' first | (with_reducible first | assumption | apply State.setLru_kept) | split
theorem State.useNode_kept (h : Kept Q C s) (n : Nat) (up : Bool) : Kept Q C (State.useNode s n up) := by
  unfold State.useNode
  repeat' first | (with_reducible first | assumption | apply State.settleNode_kept | apply State.setNode_kept) | split
theorem State.dropNode_kept (h : Kept Q C s) (n : Nat) : Kept Q C (State.dropNode s n) := by
  unfold State.dropNode
  repeat' first | (with_reducible first | assumption | intro _ | apply ite_kept | apply foldl_kept | apply State.setLru_kept | apply State.withNodes_kept | apply State.put_kept | apply State.bump_kept | apply State.decRef_kept | apply State.setFrame_kept | apply State.settleNode_kept | apply State.setNode_kept) | split
theorem State.dropNodes_kept (h : Kept Q C s) (t : Node → Bool) : Kept Q C (State.dropNodes s t) := by
  unfold State.dropNodes
  repeat' with_reducible first | assumption | intro _ | apply foldl_kept | apply State.dropNode_kept | apply State.withSeqs_kept
theorem State.lookupFrom_kept (h : Kept Q C s) (idx : Nat) (lim : Nat) (a_3 : Nat) (a_4 : Nat) (a_5 : Word) (a_6 : Option Nat) : Kept Q C (State.lookupFrom s idx lim a_3 a_4 a_5 a_6) := by
  induction a_3 generalizing s a_4 a_5 a_6 with
  | zero => exact h
  | succ n ih =>
    unfold State.lookupFrom
    repeat' first | with_reducible assumption | intro _ | with_reducible apply ite_kept | with_reducible apply ih | with_reducible apply foldl_kept | with_reducible apply State.incRef_kept | with_reducible apply State.setNode_kept | with_reducible apply State.useNode_kept | with_reducible apply State.bump_kept | with_reducible apply State.setSeq_kept | split | dsimp only
theorem State.lookup_kept (h : Kept Q C s) (idx : Nat) : Kept Q C (State.lookup s idx) := by
  unfold State.lookup
  repeat' first | (with_reducible first | assumption | apply State.lookupFrom_kept | apply State.modSeq_kept) | split
theorem State.offerPage_kept (h : Kept Q C s) (idx : Nat) (lg : Nat) (i : Nat) : Kept Q C (State.offerPage s idx lg i).1 := by
  unfold State.offerPage
  repeat' first | (with_reducible first | assumption | intro _ | apply foldl_kept | apply State.dropNode_kept | apply State.put_kept | apply State.setFrame_kept | apply State.setNode_kept | apply State.settleNode_kept | apply State.modSeq_kept) | split | dsimp only
theorem State.offerPages_kept (h : Kept Q C s) (idx : Nat) (lg : Nat) (old : Nat) (new : Nat) : Kept Q C (State.offerPages s idx lg old new) := by
  unfold State.offerPages
  repeat' first | (with_reducible first | assumption) | grind (splits := 20) [State.offerPage_kept, Keeps.next, getD_kept, foldl_kept, foldl_kept1]
theorem State.releasePages_kept (h : Kept Q C s) (idx : Nat) : Kept Q C (State.releasePages s idx) := by
  unfold State.releasePages
  repeat' first | (with_reducible first | assumption | intro _ | apply foldl_kept | apply State.decRef_kept | apply State.useNode_kept | apply State.modSeq_kept) | split
theorem State.freeTransit_kept (h : Kept Q C s) (i : Nat) : Kept Q C (State.freeTransit s i) := by
  unfold State.freeTransit
  repeat' first | (with_reducible first | assumption | intro _ | apply foldl_kept | apply State.modSeq_kept | apply State.decRef_kept) | split
theorem State.charge_kept (h : Kept Q C s) (rows : List (Nat × Nat)) (first : Nat) (ks : List Nat) (q : Nat) : Kept Q C (State.charge s rows first ks q) := by
  unfold State.charge
  repeat' with_reducible first | assumption | intro _ | apply ite_kept | apply foldl_kept | apply State.count_kept
theorem State.seqNotice_kept (h : Kept Q C s) (i : Nat) (status : Nat) (detail : Nat) : Kept Q C (State.seqNotice s i status detail) := by
  unfold State.seqNotice
  repeat' first | (with_reducible first | assumption | apply State.notice_kept) | split
theorem State.freezeNow_kept (h : Kept Q C s) (i : Nat) (cause : Nat) : Kept Q C (State.freezeNow s i cause) := by
  unfold State.freezeNow
  repeat' with_reducible first | assumption | apply State.modSeq_kept
theorem State.freezeNotice_kept (h : Kept Q C s) (i : Nat) (cause : Nat) (status : Nat) (detail : Nat) : Kept Q C (State.freezeNotice s i cause status detail) := by
  unfold State.freezeNotice
  repeat' first | (with_reducible first | assumption | apply State.seqNotice_kept | apply State.freezeNow_kept) | split
theorem State.askFreeze_kept (h : Kept Q C s) (i : Nat) (cause : Nat) (status : Nat) : Kept Q C (State.askFreeze s i cause status) := by
  unfold State.askFreeze
  repeat' with_reducible first | assumption | apply State.modSeq_kept
theorem State.applyFreeze_kept (h : Kept Q C s) (i : Nat) : Kept Q C (State.applyFreeze s i) := by
  unfold State.applyFreeze
  repeat' first | (with_reducible first | assumption | apply State.freezeNow_kept | apply State.freezeNotice_kept) | split
theorem State.askCancel_kept (h : Kept Q C s) (i : Nat) : Kept Q C (State.askCancel s i) := by
  unfold State.askCancel
  repeat' with_reducible first | assumption | apply State.modSeq_kept
theorem State.dropCopies_kept (h : Kept Q C s) (i : Nat) (q : Seq) : Kept Q C (State.dropCopies s i q) := by
  unfold State.dropCopies
  repeat' first | (with_reducible first | assumption | intro _ | apply foldl_kept | apply State.decRef_kept | apply State.dropChange_kept | apply State.withSpills_kept) | split
theorem State.applyCancel_kept (h : Kept Q C s) (i : Nat) : Kept Q C (State.applyCancel s i) := by
  unfold State.applyCancel
  repeat' first | (with_reducible first | assumption | apply State.dropCopies_kept | apply State.dropChange_kept | apply State.setSeq_kept) | split
theorem State.writeTokens_kept (h : Kept Q C s) (c : Cmd) (i : Nat) (n : Nat) (ts : List Nat) : ∀ t_, State.writeTokens s c i n ts = some t_ → Kept Q C t_ := by
  unfold State.writeTokens
  repeat' first | (with_reducible first | assumption | intro _) | with_reducible refine map_kept ?_ ?_ _ (by assumption) | (rename_i hq; split at hq) | grind (splits := 20) [State.count_kept, State.hostWr_kept, Keeps.next, getD_kept, foldl_kept, foldl_kept1]
theorem State.writeFamily_kept (h : Kept Q C s) (k : Nat) (c : Cmd) : ∀ t_, State.writeFamily s k c = some t_ → Kept Q C t_ := by
  intro t ht
  unfold State.writeFamily at ht
  rw [Option.map_eq_some_iff] at ht
  obtain ⟨u, hu, rfl⟩ := ht
  refine State.withCmds_kept ?_ _
  revert hu u
  refine foldl_keep (P := fun o : Option State => ∀ u, o = some u → Kept Q C u) ?_ _ ?_
  · intro o x ho u hu
    cases o with
    | none => cases hu
    | some v => exact State.writeTokens_kept (ho v rfl) _ _ _ _ _ hu
  · intro u hu
    cases hu
    exact h
theorem State.writeOutputs_kept (h : Kept Q C s) (q : Seq) (from_ : Nat) : ∀ t_, State.writeOutputs s q from_ = some t_ → Kept Q C t_ := by
  unfold State.writeOutputs
  repeat' first | (with_reducible first | assumption) | grind (splits := 20) [State.writeFamily_kept, State.writeTokens_kept, Keeps.next, getD_kept, foldl_kept, foldl_kept1]
theorem State.unpin_kept (h : Kept Q C s) (q : Seq) : Kept Q C (State.unpin s q) := by
  unfold State.unpin
  repeat' first | (with_reducible first | assumption | apply State.withDeltas_kept) | split
theorem State.freeEntry_kept (h : Kept Q C s) (i : Nat) : Kept Q C (State.freeEntry s i) := by
  unfold State.freeEntry
  repeat' first | (with_reducible first | assumption | apply State.releasePages_kept | apply State.freeTransit_kept | apply State.setSeq_kept | apply State.put_kept | apply State.unpin_kept) | split
theorem State.finishCmd_kept (h : Kept Q C s) (k : Nat) : Kept Q C (State.finishCmd s k) := by
  unfold State.finishCmd
  repeat' first | (with_reducible first | assumption | intro _ | apply State.count_kept | apply State.withCmds_kept | apply State.finish_kept | apply getD_kept) | with_reducible refine State.hostWr_kept ?_ _ _ _ _ (by assumption) | split | with_reducible refine map_kept ?_ ?_ _ (by assumption)
theorem State.endSeq_kept (h : Kept Q C s) (i : Nat) : Kept Q C (State.endSeq s i) := by
  unfold State.endSeq
  repeat' first | (with_reducible first | assumption | intro _ | apply ite_kept | apply foldl_kept | apply State.freeEntry_kept | apply State.withCmds_kept | apply State.finishCmd_kept) | split
theorem State.countEntry_kept (h : Kept Q C s) (q : Seq) : Kept Q C (State.countEntry s q) := by
  unfold State.countEntry
  repeat' with_reducible first | assumption | apply ite_kept | apply State.put_kept
theorem State.newEntry_kept (h : Kept Q C s) (q : Seq) : Kept Q C (State.newEntry s q).2 := by
  unfold State.newEntry
  repeat' with_reducible first | assumption | apply State.countEntry_kept | apply State.setSeq_kept
theorem State.copyLine_kept (h : Kept Q C s) (from_ : Nat) (to_ : Nat) (kr : Nat) (kw : Nat) : Kept Q C (State.copyLine s from_ to_ kr kw) := by
  unfold State.copyLine
  repeat' with_reducible first | assumption | intro _ | apply foldl_kept | apply State.store_kept | apply State.rdRecord_kept | apply State.poisonRange_kept
theorem State.copyFrame_kept (h : Kept Q C s) (src : Nat) (dst : Nat) (cls : Nat) (key : Nat) : Kept Q C (State.copyFrame s src dst cls key) := by
  unfold State.copyFrame
  repeat' with_reducible first | assumption | intro _ | apply foldl_kept | apply State.withLineKey_kept | apply State.poisonKeep_kept | apply State.memKeep_kept | apply State.copyLine_kept
theorem State.chargeCopy_kept (h : Kept Q C s) (sl : Nat) (cls : Nat) : Kept Q C (State.chargeCopy s sl cls) := by
  unfold State.chargeCopy
  repeat' with_reducible first | assumption | apply State.count_kept
theorem State.shareEntries_kept (h : Kept Q C s) (q : Seq) (a_2 : List PageEnt) : ∀ t_, State.shareEntries s q a_2 = .ok t_ → Kept Q C t_.2 := by
  induction a_2 generalizing s with
  | nil =>
    intro t ht
    cases ht
    exact h
  | cons e es ih =>
    intro t ht
    unfold State.shareEntries at ht
    dsimp only at ht
    split at ht
    · cases ht
    · rename_i n s1 h1
      have hs1 : Kept Q C s1 := by
        split at h1
        · cases h1
          exact State.incRef_kept h _
        · split at h1
          · rename_i n s2 h2
            cases h1
            exact State.bump_kept (State.chargeCopy_kept (State.copyFrame_kept (State.allocMany_kept h _ _ _ _ _ _ _ h2) _ _ _ _) _ _) _ _ _
          · cases h1
          · cases h1
      split at ht
      · rename_i ns s2 h2
        cases ht
        have h3 := ih hs1 _ h2
        exact h3
      · cases ht
theorem State.pin_kept (h : Kept Q C s) (q : Seq) : Kept Q C (State.pin s q) := by
  unfold State.pin
  repeat' first | (with_reducible first | assumption | apply State.withDeltas_kept) | split
theorem State.fork_kept (h : Kept Q C s) (src : Nat) (dst : Nat) (k : Nat) : Kept Q C (State.fork s src dst k) := by
  unfold State.fork
  repeat' first | (with_reducible first | assumption | intro _ | apply foldl_kept | apply State.pin_kept | apply State.useNode_kept | apply State.setSeq_kept) | with_reducible refine State.shareEntries_kept ?_ _ _ _ (by assumption) | split | (rename_i hq; split at hq) | (rename_i hq; cases hq; done) | dsimp only
theorem State.dueForks_kept (h : Kept Q C s) (i : Nat) : Kept Q C (State.dueForks s i) := by
  unfold State.dueForks
  repeat' first | (with_reducible first | assumption | intro _ | apply foldl_kept | apply State.setSeq_kept | apply State.fork_kept) | split
theorem State.postTokens_kept (h : Kept Q C s) (i : Nat) (old : Nat) : Kept Q C (State.postTokens s i old) := by
  unfold State.postTokens
  repeat' first | (with_reducible first | assumption | apply State.freezeNotice_kept | apply State.setSeq_kept | apply State.progress_kept) | with_reducible refine State.writeOutputs_kept ?_ _ _ _ (by assumption) | split
theorem State.startMove_kept (h : Kept Q C s) (i : Nat) : Kept Q C (State.startMove s i) := by
  unfold State.startMove
  repeat' first | (with_reducible first | assumption | apply ite_kept | apply State.modSeq_kept) | with_reducible refine State.allocMany_kept ?_ _ _ _ _ _ _ _ (by assumption) | split
theorem State.afterPrefill_kept (h : Kept Q C s) (i : Nat) : Kept Q C (State.afterPrefill s i) := by
  unfold State.afterPrefill
  repeat' first | (with_reducible first | assumption | apply State.startMove_kept | apply State.setSeq_kept) | split
theorem State.endTest_kept (h : Kept Q C s) (i : Nat) : Kept Q C (State.endTest s i) := by
  unfold State.endTest
  repeat' first | (with_reducible first | assumption | apply State.setSeq_kept | apply State.afterPrefill_kept) | split
theorem State.thawNow_kept (h : Kept Q C s) (i : Nat) : Kept Q C (State.thawNow s i) := by
  unfold State.thawNow
  repeat' first | (with_reducible first | assumption | apply State.setSeq_kept | apply State.freezeNotice_kept | apply State.endTest_kept | apply State.modSeq_kept) | with_reducible refine State.writeOutputs_kept ?_ _ _ _ (by assumption) | split | dsimp only
theorem State.commitSeq_kept (h : Kept Q C s) (lg : Nat) (i : Nat) (rows : Nat) (units : List (List Nat)) (r : Option SeqResult) : Kept Q C (State.commitSeq s lg i rows units r) := by
  unfold State.commitSeq
  repeat' first | (with_reducible first | assumption | apply ite_kept | apply State.freeTransit_kept | apply State.modSeq_kept | apply State.setSeq_kept | apply State.count_kept | apply State.offerPages_kept | apply State.postTokens_kept | apply State.afterPrefill_kept) | split | dsimp only
theorem State.commitCow_kept (h : Kept Q C s) (c : Nat × Nat × PageEnt) : Kept Q C (State.commitCow s c) := by
  unfold State.commitCow
  repeat' first | (with_reducible first | assumption | apply State.decRef_kept | apply State.setSeq_kept) | split
theorem State.takeWinner_kept (h : Kept Q C s) (results : List SeqResult) (rows : List (Nat × Nat)) (i : Nat) : Kept Q C (State.takeWinner s results rows i).1 := by
  unfold State.takeWinner
  repeat' first | (with_reducible first | assumption | intro _ | apply foldl_kept | apply State.decRef_kept | apply State.setSeq_kept | apply State.freeEntry_kept) | split | dsimp only
theorem State.dropHyp_kept (h : Kept Q C s) (j : Nat) (reuse : Bool) : Kept Q C (State.dropHyp s j reuse) := by
  unfold State.dropHyp
  repeat' first | (with_reducible first | assumption | apply State.unpin_kept | apply State.releasePages_kept | apply State.freeTransit_kept | apply State.setSeq_kept | apply State.modSeq_kept) | split
theorem State.beamSelect_kept (h : Kept Q C s) (cmd : Nat) (adv : Nat) (hyps : List Nat) (kept : List BeamCand) : Kept Q C (State.beamSelect s cmd adv hyps kept).1 := by
  unfold State.beamSelect
  repeat' first | (with_reducible first | assumption | intro _ | apply foldl_kept | apply foldl_kept1 | apply State.dropHyp_kept | apply State.fork_kept | apply State.modSeq_kept) | split
theorem State.commitFamily_kept (h : Kept Q C s) (lg : Nat) (cmd : Nat) (adv : Nat) (rows : List Nat) (cands : List BeamCand) : Kept Q C (State.commitFamily s lg cmd adv rows cands) := by
  unfold State.commitFamily
  repeat' first | (with_reducible first | assumption | apply foldl_kept) | with_reducible refine State.writeFamily_kept ?_ _ _ _ (by assumption) | split | dsimp only | grind (splits := 20) [State.modSeq_kept, State.beamSelect_kept, State.count_kept, State.offerPages_kept, State.writeFamily_kept, State.freezeNotice_kept, State.progress_kept, State.endTest_kept, Keeps.next, getD_kept, foldl_kept, foldl_kept1]
theorem State.commitRow_kept (h : Kept Q C s) (x : Pass) (own : List (Nat × Nat)) (results : List SeqResult) (beams : List BeamCand) (r : Nat × Nat) : Kept Q C (State.commitRow s x own results beams r) := by
  unfold State.commitRow
  repeat' first | (with_reducible first | assumption | apply State.commitSeq_kept) | grind (splits := 20) [State.takeWinner_kept, State.commitSeq_kept, State.commitFamily_kept, State.modSeq_kept, Keeps.next, getD_kept, foldl_kept, foldl_kept1]
theorem State.passCommit_kept (h : Kept Q C s) (p : Nat) (b : Nat) (results : List SeqResult) (beams : List BeamCand) : Kept Q C (State.passCommit s p b results beams) := by
  unfold State.passCommit
  repeat' first | (with_reducible first | assumption | intro _ | apply foldl_kept | apply State.withPasses_kept | apply State.commitCow_kept | apply State.commitRow_kept) | split
theorem State.setServo_kept (h : Kept Q C s) (v : Nat) : Kept Q C (State.setServo s v) := by
  unfold State.setServo
  repeat' with_reducible first | assumption | apply State.put_kept
theorem State.clearLock_kept (h : Kept Q none s) : Kept Q none (State.clearLock s) := by
  unfold State.clearLock
  repeat' with_reducible first | assumption | apply State.setTime_kept
theorem State.enterHoldover_kept (h : Kept Q none s) : Kept Q none (State.enterHoldover s) := by
  unfold State.enterHoldover
  repeat' first | (with_reducible first | assumption | apply State.putS_kept | apply State.setServo_kept | apply State.clearLock_kept | apply State.setTime_kept) | split
theorem State.enterLocked_kept (h : Kept Q none s) : Kept Q none (State.enterLocked s) := by
  unfold State.enterLocked
  repeat' with_reducible first | assumption | apply State.setServo_kept | apply State.setTime_kept
theorem State.enterNominal_kept (h : Kept Q none s) (v : Nat) : Kept Q none (State.enterNominal s v) := by
  unfold State.enterNominal
  repeat' with_reducible first | assumption | apply State.putS_kept | apply State.setServo_kept | apply State.clearLock_kept | apply State.setTime_kept
theorem State.sourceLost_kept (h : Kept Q none s) : Kept Q none (State.sourceLost s) := by
  unfold State.sourceLost
  repeat' with_reducible first | assumption | apply ite_kept | apply State.enterHoldover_kept | apply State.enterNominal_kept
theorem State.showSynce_kept (h : Kept Q C s) : Kept Q C (State.showSynce s) := by
  unfold State.showSynce
  repeat' with_reducible first | assumption | apply State.put_kept
theorem State.changeSource_kept (h : Kept Q none s) (v : Nat) : Kept Q none (State.changeSource s v) := by
  unfold State.changeSource
  repeat' with_reducible first | assumption | apply ite_kept | apply State.showSynce_kept | apply State.clearLock_kept | apply State.put_kept | apply State.enterNominal_kept | apply State.enterHoldover_kept
theorem execSrcSelWrite_kept (h : Kept Q none s) (wr : Writer) (sel : Fin 4) (synceEn : Bool) : Keeps Q none (execSrcSelWrite wr sel synceEn s) := by
  unfold execSrcSelWrite
  repeat' with_reducible first | assumption | apply ite_kept | apply State.showSynce_kept | apply State.put_kept | apply State.changeSource_kept | apply Keeps.next
theorem execForceHoldover_kept (h : Kept Q none s) (wr : Writer) (on : Bool) : Keeps Q none (execForceHoldover wr on s) := by
  unfold execForceHoldover
  repeat' with_reducible first | assumption | apply ite_kept | apply State.put_kept | apply State.enterHoldover_kept | apply State.enterNominal_kept | apply Keeps.next
theorem execStepArm_kept (h : Kept Q none s) (wr : Writer) : Keeps Q none (execStepArm wr s) := by
  unfold execStepArm
  repeat' with_reducible first | assumption | apply ite_kept | apply State.put_kept | apply State.clearLock_kept | apply State.enterNominal_kept | apply Keeps.next
theorem State.measure_kept (h : Kept Q none s) (off : ℤ) (freq : ℤ) : Kept Q none (State.measure s off freq) := by
  unfold State.measure
  repeat' with_reducible first | assumption | apply ite_kept | apply State.putS_kept | apply State.bump_kept | apply State.put_kept | apply State.setTime_kept | apply State.enterHoldover_kept | apply State.enterLocked_kept
theorem State.askStep_kept (h : Kept Q none s) (d : ℤ) : Kept Q none (State.askStep s d) := by
  unfold State.askStep
  repeat' with_reducible first | assumption | apply ite_kept | apply State.put_kept | apply State.clearLock_kept | apply State.setTime_kept
theorem State.acquirePtp_kept (h : Kept Q none s) (off : ℤ) : Kept Q none (State.acquirePtp s off) := by
  unfold State.acquirePtp
  repeat' with_reducible first | assumption | apply ite_kept | apply State.askStep_kept | apply State.setTime_kept
theorem State.choose_kept (h : Kept Q none s) : Kept Q none (State.choose s) := by
  unfold State.choose
  repeat' first | (with_reducible first | assumption | apply State.put_kept | apply State.setTime_kept | apply State.bump_kept | apply State.enterHoldover_kept | apply State.clearLock_kept) | split | dsimp only
theorem execAnnounceReceived_kept (h : Kept Q none s) (x : AnnounceMsg) (ns : Nat) : Keeps Q none (execAnnounceReceived x ns s) := by
  unfold execAnnounceReceived
  repeat' with_reducible first | assumption | apply ite_kept | apply State.atNs_kept | apply State.choose_kept | apply State.setTime_kept | apply Keeps.next
theorem execSyncReceived_kept (h : Kept Q none s) (from_ : PtpSender) (offset : Int) (freq : Int) (ns : Nat) : Keeps Q none (execSyncReceived from_ offset freq ns s) := by
  unfold execSyncReceived
  repeat' with_reducible first | assumption | apply ite_kept | apply State.atNs_kept | apply State.acquirePtp_kept | apply State.enterNominal_kept | apply State.measure_kept | apply Keeps.next
theorem execAnnounceTimeout_kept (h : Kept Q none s) (src : BitVec 80) : Keeps Q none (execAnnounceTimeout src s) := by
  unfold execAnnounceTimeout
  repeat' with_reducible first | assumption | apply ite_kept | apply State.setTime_kept | apply State.sourceLost_kept | apply State.choose_kept | apply Keeps.next
theorem execSyncTimeout_kept (h : Kept Q none s) : Keeps Q none (execSyncTimeout s) := by
  unfold execSyncTimeout
  repeat' with_reducible first | assumption | apply ite_kept | apply State.sourceLost_kept | apply Keeps.next
theorem execHoldLimitExceeded_kept (h : Kept Q none s) : Keeps Q none (execHoldLimitExceeded s) := by
  unfold execHoldLimitExceeded
  repeat' first | (with_reducible first | assumption | apply State.event_kept | apply State.put_kept | apply State.setTime_kept | apply Keeps.next) | split
theorem execRefuseFault_kept (h : Kept Q C s) : Keeps Q C (execRefuseFault s) := by
  unfold execRefuseFault
  repeat' first | (with_reducible first | assumption | apply State.service_kept | apply State.put_kept | apply Keeps.next) | split
theorem State.ptpOut_kept (h : Kept Q C s) (x : Nat) (sub : Nat) (kind : Nat) : Kept Q C (State.ptpOut s x sub kind) := by
  unfold State.ptpOut
  repeat' with_reducible first | assumption | apply State.emit_kept
theorem execPtpMasterTx_kept (h : Kept Q C s) (port : Fin 8) (sub : Fin 4) (kind : Fin 16) : Keeps Q C (execPtpMasterTx port sub kind s) := by
  unfold execPtpMasterTx
  repeat' with_reducible first | assumption | apply ite_kept | apply State.ptpOut_kept | apply Keeps.next
theorem execPtpRequestReceived_kept (h : Kept Q C s) (port : Fin 8) (sub : Fin 4) (kind : Fin 16) : Keeps Q C (execPtpRequestReceived port sub kind s) := by
  unfold execPtpRequestReceived
  repeat' first | (with_reducible first | assumption | apply State.ptpOut_kept | apply Keeps.next) | split
theorem State.evalSynce_kept (h : Kept Q none s) (valid : Bool) : Kept Q none (State.evalSynce s valid) := by
  unfold State.evalSynce
  repeat' with_reducible first | assumption | apply State.showSynce_kept | apply State.setTime_kept
theorem execEsmcReceived_kept (h : Kept Q none s) (port : Fin 8) (sub : Fin 4) (ql : BitVec 4) : Keeps Q none (execEsmcReceived port sub ql s) := by
  unfold execEsmcReceived
  repeat' with_reducible first | assumption | apply ite_kept | apply State.evalSynce_kept | apply State.setTime_kept | apply Keeps.next
theorem execSynceLoss_kept (h : Kept Q none s) : Keeps Q none (execSynceLoss s) := by
  unfold execSynceLoss
  repeat' with_reducible first | assumption | apply State.evalSynce_kept | apply Keeps.next
theorem execEsmcTx_kept (h : Kept Q C s) : Keeps Q C (execEsmcTx s) := by
  unfold execEsmcTx
  repeat' with_reducible first | assumption | intro _ | apply ite_kept | apply foldl_kept | apply State.emit_kept | apply Keeps.next
theorem State.ppsUse_kept (h : Kept Q none s) (t : ℤ) (freq : ℤ) (last : Option Nat) : Kept Q none (State.ppsUse s t freq last) := by
  unfold State.ppsUse
  repeat' with_reducible first | assumption | apply ite_kept | apply State.enterNominal_kept | apply State.askStep_kept | apply State.setTime_kept | apply State.measure_kept
theorem execPpsInEdge_kept (h : Kept Q none s) (x : PpsEdge) (ns : Nat) : Keeps Q none (execPpsInEdge x ns s) := by
  unfold execPpsInEdge
  repeat' with_reducible first | assumption | apply ite_kept | apply State.atNs_kept | apply State.put_kept | apply State.setTime_kept | apply State.changeSource_kept | apply State.ppsUse_kept | apply Keeps.next
theorem execPpsInTimeout_kept (h : Kept Q none s) : Keeps Q none (execPpsInTimeout s) := by
  unfold execPpsInTimeout
  repeat' first | (with_reducible first | assumption | apply ite_kept | apply State.put_kept | apply State.changeSource_kept | apply State.sourceLost_kept | apply Keeps.next) | split
theorem execPpsOutPulse_kept (h : Kept Q C s) : Keeps Q C (execPpsOutPulse s) := by
  unfold execPpsOutPulse
  repeat' with_reducible first | assumption | apply ite_kept | apply State.emit_kept | apply Keeps.next
theorem State.fireTimer_kept (h : Kept Q C s) (n : Nat) : Kept Q C (State.fireTimer s n) := by
  refine State.msix_kept (State.orf_kept ?_ _ _ _) _ _
  exact ⟨h.1, h.2.1, h.2.2.1, h.2.2.2.1, h.2.2.2.2⟩
theorem execCmpTimerFire_kept (h : Kept Q none s) (n : Fin 16) (ns : Nat) : Keeps Q none (execCmpTimerFire n ns s) := by
  unfold execCmpTimerFire
  repeat' with_reducible first | assumption | apply ite_kept | apply State.atNs_kept | apply State.fireTimer_kept | apply Keeps.next
theorem State.fireAll_kept (h : Kept Q C s) : Kept Q C (State.fireAll s) := by
  unfold State.fireAll
  repeat' with_reducible first | assumption | intro _ | apply foldl_kept | apply State.fireTimer_kept
theorem State.fireStepped_kept (h : Kept Q C s) : Kept Q C (State.fireStepped s) := by
  unfold State.fireStepped
  repeat' with_reducible first | assumption | apply ite_kept | apply State.put_kept | apply State.fireAll_kept
theorem execCmpTargetWrite_kept (h : Kept Q none s) (wr : Writer) (n : Fin 16) (target : Word) : Keeps Q none (execCmpTargetWrite wr n target s) := by
  unfold execCmpTargetWrite
  repeat' with_reducible first | assumption | apply ite_kept | apply State.put_kept | apply State.setTime_kept | apply Keeps.next
theorem execCmpEnableWrite_kept (h : Kept Q none s) (wr : Writer) (enable : BitVec 16) (fired : BitVec 16) : Keeps Q none (execCmpEnableWrite wr enable fired s) := by
  unfold execCmpEnableWrite
  repeat' with_reducible first | assumption | apply ite_kept | apply State.put_kept | apply State.setTime_kept | apply Keeps.next
theorem execTimeSnapshot_kept (h : Kept Q C s) (wr : Writer) : Keeps Q C (execTimeSnapshot wr s) := by
  unfold execTimeSnapshot
  repeat' with_reducible first | assumption | apply ite_kept | apply State.put_kept | apply State.putS_kept | apply Keeps.next
theorem execLockWaitExpiry_kept (h : Kept Q none s) : Keeps Q none (execLockWaitExpiry s) := by
  unfold execLockWaitExpiry
  apply Keeps.next
  apply ite_kept h
  apply State.setTime_kept
  apply State.setTime_kept
  exact State.setNowNs_kept h _
theorem State.portHook_kept (h : Kept Q none s) (s1 : State) (h1 : Kept Q none s1) : Kept Q none (State.portHook s s1) := by
  unfold State.portHook
  repeat' with_reducible first | assumption | apply ite_kept | apply State.put_kept | apply State.evalSynce_kept
theorem State.writeHook_kept (h : Kept Q none s) (s1 : State) (a : Nat) (h1 : Kept Q none s1) : Kept Q none (State.writeHook s s1 a) := by
  unfold State.writeHook
  repeat' with_reducible first | assumption | apply ite_kept | apply State.withTime_kept | apply State.portHook_kept | apply State.withCtlHb_kept
theorem State.latchHalf_kept (h : Kept Q C s) (w : Writer) (a : Nat) (v : Nat) : Kept Q C (State.latchHalf s w a v) := by
  unfold State.latchHalf
  repeat' with_reducible first | assumption | apply ite_kept | apply State.withHalves_kept
theorem State.regWrite_kept (h : Kept Q none s) (w : Writer) (a : Nat) (v : Nat) : Kept Q none (State.regWrite s w a v) := by
  unfold State.regWrite
  repeat' with_reducible first | assumption | intro _ | apply ite_kept | apply foldl_kept | apply State.put_kept | apply State.latchHalf_kept | apply State.writeField_kept | apply State.showFault_kept | apply State.writeHook_kept
theorem execRegisterWrite_kept (h : Kept Q none s) (wr : Writer) (addr : BitVec 40) (value : Word) : Keeps Q none (execRegisterWrite wr addr value s) := by
  unfold execRegisterWrite
  repeat' with_reducible first | assumption | apply State.regWrite_kept | apply Keeps.next
theorem State.read1_kept (h : Kept Q C s) (k : Nat) (x : SubEntry) (go : State → State) (h3 : ∀ (x0 : State), Kept Q C x0 → Kept Q C (go x0)) : Kept Q C (State.read1 s k x go) := by
  unfold State.read1
  repeat' with_reducible first | assumption | apply State.withToken_kept | apply State.takeEntry_kept
theorem State.submit_kept (h : Kept Q C s) (k : Nat) (x : SubEntry) (go : State → State) (h3 : ∀ (x0 : State), Kept Q C x0 → Kept Q C (go x0)) : Kept Q C (State.submit s k x go) := by
  unfold State.submit
  repeat' with_reducible first | assumption | apply ite_kept | apply State.read1_kept | apply State.setRing_kept
theorem State.queueEntry_kept (h : Kept Q C s) (k : Nat) (x : SubEntry) : Kept Q C (State.queueEntry s k x) := by
  unfold State.queueEntry
  repeat' with_reducible first | assumption | apply ite_kept | apply State.setRing_kept
theorem State.complete_kept (h : Kept Q C s) (k : Nat) (x : SubEntry) (status : Nat) (handle : Nat) (res0 : Nat) (res1 : Nat) : Kept Q C (State.complete s k x status handle res0 res1) := by
  unfold State.complete
  repeat' with_reducible first | assumption | apply State.finish_kept
theorem State.checked_kept (h : Kept Q C s) (k : Nat) (x : SubEntry) (m2 : Nat) (m3 : Nat) (m4 : Nat) (m5 : Nat) (m6 : Nat) (m7 : Nat) (go : State → State) (h9 : ∀ (x0 : State), Kept Q C x0 → Kept Q C (go x0)) : Kept Q C (State.checked s k x m2 m3 m4 m5 m6 m7 go) := by
  unfold State.checked
  repeat' first | (with_reducible first | assumption | apply State.complete_kept) | grind (splits := 20) [State.complete_kept, Keeps.next, getD_kept, foldl_kept, foldl_kept1]
theorem State.owned_kept (h : Kept Q C s) (owner : Nat) (x : SubEntry) (go : State → State) (h3 : ∀ (x0 : State), Kept Q C x0 → Kept Q C (go x0)) : Kept Q C (State.owned s owner x go) := by
  unfold State.owned
  repeat' first | (with_reducible first | assumption | apply State.withHeldCmds_kept) | grind (splits := 20) [State.withHeldCmds_kept, State.complete_kept, Keeps.next, getD_kept, foldl_kept, foldl_kept1]

end Sys2Proof.Machine
end

