-- ==== Sys2Proof/Laws/KeepUnits.lean ====
section
/-! SUPPORT. What every operation keeps, by the units: the queue, the canonical form of the sparse maps, and, where no command
of it moves the clock, device time. -/

namespace Sys2Proof.Machine

variable {Q : List Instr} {C : Option TimeState} {s : State}

theorem State.missed_kept (h : Kept Q C s) (p : Nat) (desc : Nat) : Kept Q C (State.missed s p desc) := by
  unfold State.missed
  repeat' with_reducible first | assumption | apply State.withCells_kept
theorem State.missedFh_kept (h : Kept Q C s) (cell : Nat) (dl : Bool) (tickRel : ℤ) : Kept Q C (State.missedFh s cell dl tickRel) := by
  unfold State.missedFh
  repeat' first | (with_reducible first | assumption | apply State.setCell_kept) | split
theorem State.snapImages_kept (h : Kept Q C s) (p : Nat) : Kept Q C (State.snapImages s p) := by
  unfold State.snapImages
  repeat' with_reducible first | assumption | intro _ | apply ite_kept | apply foldl_kept | apply State.setCore_kept
theorem State.showFit_kept (h : Kept Q C s) (p : Nat) : Kept Q C (State.showFit s p) := by
  unfold State.showFit
  repeat' first | (with_reducible first | assumption | intro _ | apply ite_kept | apply foldl_kept | apply State.setPart_kept | apply State.fillLocked_kept | apply State.setSpur_kept | apply State.put_kept) | split
theorem State.commitBankPair_kept (h : Kept Q C s) (p : Nat) : Kept Q C (State.commitBankPair s p).1 := by
  unfold State.commitBankPair
  repeat' first | (with_reducible first | assumption | apply State.commit_kept | apply State.put_kept | apply State.snapImages_kept | apply State.showFit_kept) | split | dsimp only
theorem execTickBankWrite_kept (h : Kept Q C s) (p : Fin 8) (off : Fin 2097152) (data : List Byte) : Keeps Q C (execTickBankWrite p off data s) := by
  unfold execTickBankWrite
  repeat' with_reducible first | assumption | apply ite_kept | apply State.memWr_kept | apply State.put_kept | apply Keeps.next
theorem execHarqHoldExpiry_kept (h : Kept Q C s) (c : Fin 4096) (rnti : BitVec 16) (h : Fin 32) : Keeps Q C (execHarqHoldExpiry c rnti h s) := by
  unfold execHarqHoldExpiry
  repeat' first | (with_reducible first | assumption | apply ite_kept | apply State.setCell_kept | apply Keeps.next) | split
theorem State.refuseSlot_kept (h : Kept Q C s) (r : Nat) (tok : Nat) (status : Nat) (handle : Nat) : Kept Q C (State.refuseSlot s r tok status handle) := by
  unfold State.refuseSlot
  repeat' with_reducible first | assumption | apply State.postRadio_kept
theorem State.slotMsgNew_kept (h : Kept Q C s) (r : Nat) (e : Entry) (pdus : List Byte) : Kept Q C (State.slotMsgNew s r e pdus) := by
  unfold State.slotMsgNew
  repeat' first | (with_reducible first | assumption | apply State.setRing_kept | apply State.refuseSlot_kept | apply State.setCell_kept) | split | dsimp only
theorem State.slotMsg_kept (h : Kept Q C s) (r : Nat) (e : Entry) (pdus : List Byte) : Kept Q C (State.slotMsg s r e pdus) := by
  unfold State.slotMsg
  repeat' first | (with_reducible first | assumption | apply State.ringPut_kept | apply State.ringBump_kept | apply State.slotMsgNew_kept) | split | dsimp only
theorem execSlotMessage_kept (h : Kept Q C s) (r : Fin 8) (e : Entry) (pdus : List Byte) : Keeps Q C (execSlotMessage r e pdus s) := by
  unfold execSlotMessage
  repeat' with_reducible first | assumption | apply State.slotMsg_kept | apply Keeps.next
theorem State.readSlots_kept (h : Kept Q C s) (t : ℤ) : Kept Q C (State.readSlots s t) := by
  unfold State.readSlots
  repeat' with_reducible first | assumption | apply State.withCells_kept
theorem State.setSub_kept (h : Kept Q C s) (x : Nat) (sub : Nat) (p : Subport) : Kept Q C (State.setSub s x sub p) := by
  unfold State.setSub
  repeat' with_reducible first | assumption | apply State.withSubports_kept
theorem State.postInd_kept (h : Kept Q C s) (r : Nat) (tok : Nat) (opc : Nat) (status : Nat) (handle : Nat) (res1 : Nat) (bs : List Byte) : Kept Q C (State.postInd s r tok opc status handle res1 bs) := by
  unfold State.postInd
  repeat' first | (with_reducible first | assumption | apply ite_kept | apply State.postRadio_kept | apply State.bump_kept | apply State.setRing_kept) | with_reducible refine State.hostWr_kept ?_ _ _ _ _ (by assumption) | split
theorem State.postResult_kept (h : Kept Q C s) (cid : Nat) (c : Cell) (sfn : Nat) (slot : Nat) (pdu : Nat) (m : SlotMsg) (p : Pdu) (ind : Indication) : Kept Q C (State.postResult s cid c sfn slot pdu m p ind) := by
  unfold State.postResult
  repeat' with_reducible first | assumption | apply State.postInd_kept | apply State.setCell_kept
theorem State.indication_kept (h : Kept Q C s) (cid : Nat) (sfn : Nat) (slot : Nat) (pdu : Nat) (ind : Indication) : Kept Q C (State.indication s cid sfn slot pdu ind) := by
  unfold State.indication
  repeat' first | (with_reducible first | assumption | apply State.postResult_kept) | split
theorem execIndicationPost_kept (h : Kept Q C s) (c : Fin 4096) (sfn : Fin 1024) (slot : Fin 80) (pdu : BitVec 32) (ind : Indication) : Keeps Q C (execIndicationPost c sfn slot pdu ind s) := by
  unfold execIndicationPost
  repeat' with_reducible first | assumption | apply State.indication_kept | apply Keeps.next
theorem State.radioStarts_kept (h : Kept Q C s) : Kept Q C (State.radioStarts s) := by
  unfold State.radioStarts
  repeat' with_reducible first | assumption | apply ite_kept | apply State.put_kept
theorem State.startCell_kept (h : Kept Q C s) (cid : Nat) : Kept Q C (State.startCell s cid) := by
  unfold State.startCell
  repeat' first | (with_reducible first | assumption | intro _ | apply foldl_kept | apply State.setCell_kept | apply State.radioStarts_kept | apply State.put_kept | apply State.withChains_kept) | split
theorem execCellStart_kept (h : Kept Q C s) (c : Fin 4096) : Keeps Q C (execCellStart c s) := by
  unfold execCellStart
  repeat' first | (with_reducible first | assumption | apply State.startCell_kept | apply Keeps.next) | split
theorem State.stopCell_kept (h : Kept Q C s) (cid : Nat) (st : CellState) : Kept Q C (State.stopCell s cid st) := by
  unfold State.stopCell
  repeat' first | (with_reducible first | assumption | intro _ | apply foldl_kept | apply State.setCell_kept | apply State.put_kept) | split
theorem State.finishCell_kept (h : Kept Q C s) (tok : Nat) (status : Nat) : Kept Q C (State.finishCell s tok status) := by
  unfold State.finishCell
  repeat' with_reducible first | assumption | apply State.finish_kept
theorem State.cellCtrl_kept (h : Kept Q C s) (x : SubEntry) (cid : Nat) (op : Nat) (c : Cell) : Kept Q C (State.cellCtrl s x cid op c) := by
  unfold State.cellCtrl
  repeat' first | (with_reducible first | assumption | apply ite_kept | apply State.complete_kept | apply State.setCell_kept | apply State.finishCell_kept) | split
theorem State.cmdCell_kept (h : Kept Q C s) (x : SubEntry) : Kept Q C (State.cmdCell x s) := by
  unfold State.cmdCell
  repeat' first | (with_reducible first | assumption | intro _ | apply State.checked_kept | apply State.complete_kept | apply State.owned_kept | apply State.cellCtrl_kept) | split | dsimp only
theorem execCellLock_kept (h : Kept Q C s) (e : Entry) : Keeps Q C (execCellLock e s) := by
  unfold execCellLock
  repeat' with_reducible first | assumption | intro _ | apply State.submit_kept | apply State.cmdCell_kept | apply Keeps.next
theorem execCellUnlock_kept (h : Kept Q C s) (e : Entry) : Keeps Q C (execCellUnlock e s) := by
  unfold execCellUnlock
  repeat' with_reducible first | assumption | intro _ | apply State.submit_kept | apply State.cmdCell_kept | apply Keeps.next
theorem execCellPriority_kept (h : Kept Q C s) (e : Entry) : Keeps Q C (execCellPriority e s) := by
  unfold execCellPriority
  repeat' with_reducible first | assumption | intro _ | apply State.submit_kept | apply State.cmdCell_kept | apply Keeps.next
theorem execCellTxAtten_kept (h : Kept Q C s) (e : Entry) : Keeps Q C (execCellTxAtten e s) := by
  unfold execCellTxAtten
  repeat' with_reducible first | assumption | intro _ | apply State.submit_kept | apply State.cmdCell_kept | apply Keeps.next
theorem State.cmdCellStatus_kept (h : Kept Q C s) (x : SubEntry) : Kept Q C (State.cmdCellStatus x s) := by
  unfold State.cmdCellStatus
  repeat' first | (with_reducible first | assumption | intro _ | apply State.checked_kept | apply State.complete_kept) | with_reducible refine State.hostWr_kept ?_ _ _ _ _ (by assumption) | split
theorem execCellStatus_kept (h : Kept Q C s) (e : Entry) : Keeps Q C (execCellStatus e s) := by
  unfold execCellStatus
  repeat' with_reducible first | assumption | intro _ | apply State.submit_kept | apply State.cmdCellStatus_kept | apply Keeps.next
theorem State.setChain_kept (h : Kept Q C s) (d : Nat) (c : Chain) : Kept Q C (State.setChain s d c) := by
  unfold State.setChain
  repeat' with_reducible first | assumption | apply State.put_kept | apply State.withChains_kept
theorem State.enqueue_kept (h : Kept Q C s) (x : Nat) (sub : Nat) (cOpen : ℤ) (f : TxFrame) : Kept Q C (State.enqueue s x sub cOpen f) := by
  unfold State.enqueue
  repeat' with_reducible first | assumption | apply ite_kept | apply State.bump_kept | apply State.setSub_kept
theorem State.sendCplane_kept (h : Kept Q C s) (x : Nat) (sub : Nat) (k : Nat) (cOpen : ℤ) (t : ℤ) (sfn : Nat) (slot : Nat) (sym : Nat) (secs : List CSec) : Kept Q C (State.sendCplane s x sub k cOpen t sfn slot sym secs) := by
  unfold State.sendCplane
  repeat' with_reducible first | assumption | apply State.enqueue_kept
theorem State.sendPrbs_kept (h : Kept Q C s) (x : Nat) (sub : Nat) (k : Nat) (cOpen : ℤ) (t : ℤ) (sfn : Nat) (slot : Nat) (sym : Nat) (base : Nat) (run : Nat × Nat) : Kept Q C (State.sendPrbs s x sub k cOpen t sfn slot sym base run) := by
  unfold State.sendPrbs
  repeat' with_reducible first | assumption | intro _ | apply foldl_kept | apply State.bump_kept | apply State.enqueue_kept
theorem State.sendTime_kept (h : Kept Q C s) (x : Nat) (sub : Nat) (k : Nat) (cOpen : ℤ) (sub0 : ℤ) (per : Nat) (sfn : Nat) (slot : Nat) (sym : Nat) (off : Nat) (mu : Nat) (xs : List (ℤ × ℤ)) : Kept Q C (State.sendTime s x sub k cOpen sub0 per sfn slot sym off mu xs) := by
  unfold State.sendTime
  repeat' with_reducible first | assumption | intro _ | apply foldl_kept | apply State.bump_kept | apply State.enqueue_kept
theorem State.sendSplit8_kept (h : Kept Q C s) (x : Nat) (sub : Nat) (k : Nat) (c : Cell) (sfn : Nat) (slot : Nat) (sym : Nat) (base : Nat) (live : Bool) (cOpen : ℤ) : Kept Q C (State.sendSplit8 s x sub k c sfn slot sym base live cOpen) := by
  unfold State.sendSplit8
  repeat' with_reducible first | assumption | apply ite_kept | apply State.setChain_kept | apply State.put_kept | apply State.sendTime_kept
theorem State.sendPbch_kept (h : Kept Q C s) (cid : Nat) (c : Cell) (sfn : Nat) (slot : Nat) (sym : Nat) : Kept Q C (State.sendPbch s cid c sfn slot sym) := by
  unfold State.sendPbch
  repeat' first | (with_reducible first | assumption | intro _ | apply foldl_kept | apply State.emit_kept) | split | dsimp only
theorem State.sendSymbol_kept (h : Kept Q C s) (d : FhDesc) (c : Cell) (sfn : Nat) (slot : Nat) (sym : Nat) (n : Nat) (i : Nat) (k : Nat) : Kept Q C (State.sendSymbol s d c sfn slot sym n i k) := by
  unfold State.sendSymbol
  repeat' with_reducible first | assumption | intro _ | apply ite_kept | apply foldl_kept | apply State.sendPbch_kept | apply State.sendSplit8_kept | apply State.sendCplane_kept | apply State.sendPrbs_kept
theorem State.openUplink_kept (h : Kept Q C s) (d : FhDesc) (c : Cell) (sfn : Nat) (slot : Nat) (ks : List Nat) : Kept Q C (State.openUplink s d c sfn slot ks) := by
  unfold State.openUplink
  repeat' with_reducible first | assumption | intro _ | apply ite_kept | apply foldl_kept | apply State.memWr_kept | apply State.sendCplane_kept
theorem State.fhStart_kept (h : Kept Q C s) (p : Nat) (e : Nat) (a : Nat) : Kept Q C (State.fhStart s p e a) := by
  unfold State.fhStart
  repeat' first | (with_reducible first | assumption | intro _ | apply foldl_kept | apply State.withFhBufs_kept | apply State.sendSymbol_kept | apply State.openUplink_kept) | split | dsimp only
theorem State.closeSymbol_kept (h : Kept Q C s) (b : FhBuf) (c : Cell) (k : Nat) (idx : Nat) (n : Nat) (sym : Nat) : Kept Q C (State.closeSymbol s b c k idx n sym) := by
  unfold State.closeSymbol
  repeat' with_reducible first | assumption | intro _ | apply ite_kept | apply foldl_kept | apply State.setSub_kept | apply State.bump_kept | apply State.memWr_kept
theorem State.fhEnd_kept (h : Kept Q C s) (p : Nat) (e : Nat) : Kept Q C (State.fhEnd s p e) := by
  unfold State.fhEnd
  repeat' first | (with_reducible first | assumption | intro _ | apply foldl_kept | apply State.closeSymbol_kept | apply State.setSub_kept | apply State.withFhBufs_kept) | split
theorem State.frameSend_kept (h : Kept Q C s) (x : Nat) (sub : Nat) : Kept Q C (State.frameSend s x sub) := by
  unfold State.frameSend
  repeat' first | (with_reducible first | assumption | apply ite_kept | apply State.emit_kept | apply State.bump_kept | apply State.setSub_kept) | split
theorem execFhFrameSend_kept (h : Kept Q none s) (x : Fin 8) (sub : Fin 4) (ns : Fin 125000) : Keeps Q none (execFhFrameSend x sub ns s) := by
  unfold execFhFrameSend
  repeat' with_reducible first | assumption | apply State.frameSend_kept | apply State.atNs_kept | apply Keeps.next
theorem execFhTxWindowExpiry_kept (h : Kept Q none s) (x : Fin 8) (sub : Fin 4) (ns : Fin 125000) : Keeps Q none (execFhTxWindowExpiry x sub ns s) := by
  unfold execFhTxWindowExpiry
  repeat' with_reducible first | assumption | apply State.atNs_kept | apply State.bump_kept | apply State.setSub_kept | apply Keeps.next
theorem State.uplane_kept (h : Kept Q C s) (x : Nat) (sub : Nat) (k : Nat) (c : Cell) (f : FhFrame) : Kept Q C (State.uplane s x sub k c f) := by
  unfold State.uplane
  repeat' first | (with_reducible first | assumption | intro _ | apply ite_kept | apply foldl_kept | apply State.bump_kept | apply State.setSub_kept | apply State.memWr_kept) | split
theorem State.rxSample_kept (h : Kept Q C s) (d : Nat) (k : Nat) (c : Cell) (sfn : Nat) (sub : Nat) (i : Nat) (z : ℤ × ℤ) : Kept Q C (State.rxSample s d k c sfn sub i z) := by
  unfold State.rxSample
  repeat' first | (with_reducible first | assumption | apply State.setChain_kept | apply State.put_kept | apply State.memWr_kept) | split | dsimp only
theorem State.split8_kept (h : Kept Q C s) (x : Nat) (k : Nat) (c : Cell) (f : FhFrame) : Kept Q C (State.split8 s x k c f) := by
  unfold State.split8
  repeat' with_reducible first | assumption | intro _ | apply ite_kept | apply foldl_kept | apply State.bump_kept | apply State.rxSample_kept
theorem State.frameIn_kept (h : Kept Q C s) (x : Nat) (sub : Nat) (f : FhFrame) : Kept Q C (State.frameIn s x sub f) := by
  unfold State.frameIn
  repeat' first | (with_reducible first | assumption | apply State.bump_kept | apply State.put_kept | apply State.setSub_kept | apply State.split8_kept | apply State.uplane_kept) | split | dsimp only
theorem execFrameReceived_kept (h : Kept Q none s) (x : Fin 8) (sub : Fin 4) (f : FhFrame) (ns : Fin 125000) : Keeps Q none (execFrameReceived x sub f ns s) := by
  unfold execFrameReceived
  repeat' with_reducible first | assumption | apply State.frameIn_kept | apply State.atNs_kept | apply Keeps.next
theorem execUlWindowClose_kept (h : Kept Q C s) (k : Fin 4096) (sfn : Fin 1024) (slot : Fin 80) (sym : Fin 14) : Keeps Q C (execUlWindowClose k sfn slot sym s) := by
  unfold execUlWindowClose
  repeat' first | (with_reducible first | assumption | intro _ | apply foldl_kept | apply State.closeSymbol_kept | apply Keeps.next) | split | dsimp only
theorem State.setLink_kept (h : Kept Q C s) (x : Nat) (sub : Nat) (v : Nat) : Kept Q C (State.setLink s x sub v) := by
  unfold State.setLink
  repeat' with_reducible first | assumption | apply ite_kept | apply State.event_kept | apply State.put_kept
theorem execFhLinkUp_kept (h : Kept Q C s) (x : Fin 8) (sub : Fin 4) : Keeps Q C (execFhLinkUp x sub s) := by
  unfold execFhLinkUp
  repeat' with_reducible first | assumption | apply ite_kept | apply State.setSub_kept | apply State.setLink_kept | apply Keeps.next
theorem execFhLinkDown_kept (h : Kept Q C s) (x : Fin 8) (sub : Fin 4) : Keeps Q C (execFhLinkDown x sub s) := by
  unfold execFhLinkDown
  repeat' with_reducible first | assumption | apply ite_kept | apply State.setSub_kept | apply State.put_kept | apply State.bump_kept | apply State.setLink_kept | apply Keeps.next
theorem execPeerMacWrite_kept (h : Kept Q C s) (wr : Writer) (x : Fin 8) (sub : Fin 4) (mac : BitVec 48) : Keeps Q C (execPeerMacWrite wr x sub mac s) := by
  unfold execPeerMacWrite
  repeat' with_reducible first | assumption | apply ite_kept | apply State.put_kept | apply Keeps.next
theorem execDmStart_kept (h : Kept Q C s) (wr : Writer) (x : Fin 8) : Keeps Q C (execDmStart wr x s) := by
  unfold execDmStart
  repeat' with_reducible first | assumption | apply ite_kept | apply State.put_kept | apply State.setSub_kept | apply State.emit_kept | apply State.bump_kept | apply Keeps.next
theorem execDelayMeasurementMsg_kept (h : Kept Q C s) (x : Fin 8) (sub : Fin 4) (isResponse : Bool) (owd : BitVec 32) : Keeps Q C (execDelayMeasurementMsg x sub isResponse owd s) := by
  unfold execDelayMeasurementMsg
  repeat' with_reducible first | assumption | apply ite_kept | apply State.put_kept | apply State.setSub_kept | apply State.emit_kept | apply Keeps.next
theorem execDmTimeout_kept (h : Kept Q C s) (x : Fin 8) : Keeps Q C (execDmTimeout x s) := by
  unfold execDmTimeout
  repeat' first | (with_reducible first | assumption | apply State.put_kept | apply State.setSub_kept | apply Keeps.next) | split
theorem State.muteChain_kept (h : Kept Q C s) (d : Nat) : Kept Q C (State.muteChain s d) := by
  unfold State.muteChain
  repeat' with_reducible first | assumption | intro _ | apply foldl_kept | apply State.put_kept | apply State.setSub_kept
theorem execMaskMeasurement_kept (h : Kept Q C s) (d : Fin 64) (near : List Bool) : Keeps Q C (execMaskMeasurement d near s) := by
  unfold execMaskMeasurement
  repeat' first | (with_reducible first | assumption | apply ite_kept | apply State.setChain_kept | apply State.put_kept | apply State.bump_kept | apply State.muteChain_kept | apply Keeps.next) | split
theorem execMaskMuteClear_kept (h : Kept Q C s) (wr : Writer) (d : Fin 64) : Keeps Q C (execMaskMuteClear wr d s) := by
  unfold execMaskMuteClear
  repeat' with_reducible first | assumption | apply ite_kept | apply State.put_kept | apply Keeps.next
theorem execDfeSnapshot_kept (h : Kept Q C s) (wr : Writer) (d : Fin 64) : Keeps Q C (execDfeSnapshot wr d s) := by
  unfold execDfeSnapshot
  repeat' first | (with_reducible first | assumption | apply State.put_kept | apply Keeps.next) | split
theorem execSeqWrite_kept (h : Kept Q C s) (wr : Writer) (d : Fin 64) (mem : Option (Fin 8)) (value : Word) : Keeps Q C (execSeqWrite wr d mem value s) := by
  unfold execSeqWrite
  repeat' with_reducible first | assumption | apply ite_kept | apply State.put_kept | apply Keeps.next
theorem execDfeCfgWrite_kept (h : Kept Q C s) (wr : Writer) (d : Fin 64) (f : DfeCfgField) (value : BitVec 32) : Keeps Q C (execDfeCfgWrite wr d f value s) := by
  unfold execDfeCfgWrite
  repeat' with_reducible first | assumption | apply ite_kept | apply State.put_kept | apply Keeps.next
theorem State.setLinkRec_kept (h : Kept Q C s) (l : Nat) (x : Link) : Kept Q C (State.setLinkRec s l x) := by
  unfold State.setLinkRec
  repeat' with_reducible first | assumption | apply State.withLinks_kept
theorem State.countLinks_kept (h : Kept Q C s) : Kept Q C (State.countLinks s) := by
  unfold State.countLinks
  repeat' with_reducible first | assumption | apply State.put_kept
theorem State.holdRoutes_kept (h : Kept Q C s) (l : Nat) : Kept Q C (State.holdRoutes s l) := by
  unfold State.holdRoutes
  repeat' with_reducible first | assumption | apply State.withRoutes_kept
theorem State.setLk_kept (h : Kept Q C s) (l : Nat) (v : Nat) : Kept Q C (State.setLk s l v) := by
  unfold State.setLk
  repeat' with_reducible first | assumption | apply ite_kept | apply State.countLinks_kept | apply State.put_kept | apply State.setLinkRec_kept | apply State.event_kept | apply State.holdRoutes_kept
theorem State.mapLanes_kept (h : Kept Q C s) (l : Nat) (healthy : Nat) : Kept Q C (State.mapLanes s l healthy) := by
  unfold State.mapLanes
  repeat' with_reducible first | assumption | apply State.put_kept | apply State.setLinkRec_kept
theorem State.sendFlit_kept (h : Kept Q C s) (l : Nat) (ftype : Nat) (vc : Nat) (units : Nat) (seq : Nat) : Kept Q C (State.sendFlit s l ftype vc units seq) := by
  unfold State.sendFlit
  repeat' with_reducible first | assumption | apply State.emit_kept | apply State.setLinkRec_kept
theorem State.transmit_kept (h : Kept Q C s) (l : Nat) (w : WireRec) : Kept Q C (State.transmit s l w) := by
  unfold State.transmit
  repeat' with_reducible first | assumption | intro _ | apply foldl_kept | apply State.setLinkRec_kept | apply State.bump_kept | apply State.emit_kept | apply State.sendFlit_kept
theorem State.launch_kept (h : Kept Q C s) (l : Nat) (w : WireRec) : Kept Q C (State.launch s l w) := by
  unfold State.launch
  repeat' with_reducible first | assumption | apply ite_kept | apply State.transmit_kept | apply State.setLinkRec_kept
theorem State.drainLink_kept (h : Kept Q C s) (l : Nat) (a_2 : Nat) : Kept Q C (State.drainLink s l a_2) := by
  induction a_2 generalizing s with
  | zero => exact h
  | succ n ih =>
    unfold State.drainLink
    repeat' first | (with_reducible first | assumption | apply ih | apply State.transmit_kept | apply State.setLinkRec_kept) | split
theorem State.sendRecord_kept (h : Kept Q C s) (op : Nat) (r : Record) : ∀ t_, State.sendRecord s op r = some t_ → Kept Q C t_ := by
  unfold State.sendRecord
  repeat' first | (with_reducible first | assumption | apply State.launch_kept) | grind (splits := 20) [State.launch_kept, Keeps.next, getD_kept, foldl_kept, foldl_kept1]
theorem State.dropLink_kept (h : Kept Q C s) (l : Nat) : Kept Q C (State.dropLink s l) := by
  unfold State.dropLink
  repeat' with_reducible first | assumption | apply State.setLk_kept | apply State.setLinkRec_kept
theorem State.setPeer_kept (h : Kept Q C s) (n : Nat) (p : Peer) : Kept Q C (State.setPeer s n p) := by
  unfold State.setPeer
  repeat' with_reducible first | assumption | apply State.withPeers_kept
theorem State.countReqs_kept (h : Kept Q C s) : Kept Q C (State.countReqs s) := by
  unfold State.countReqs
  repeat' with_reducible first | assumption | apply State.put_kept
theorem State.issueReq_kept (h : Kept Q C s) (q : FabReq) : Kept Q C (State.issueReq s q) := by
  unfold State.issueReq
  repeat' first | (with_reducible first | assumption | intro _ | apply ite_kept | apply State.withNextTid_kept | apply State.withFabReqs_kept | apply State.countReqs_kept | apply getD_kept) | with_reducible refine State.sendRecord_kept ?_ _ _ _ (by assumption)
theorem State.fabMsg_kept (h : Kept Q C s) (dst : Nat) (mailbox : Nat) (data : List Byte) : Kept Q C (State.fabMsg s dst mailbox data) := by
  unfold State.fabMsg
  repeat' with_reducible first | assumption | apply ite_kept | apply State.put_kept | apply State.issueReq_kept
theorem State.wakeFab_kept (h : Kept Q C s) : Kept Q C (State.wakeFab s) := by
  unfold State.wakeFab
  repeat' with_reducible first | assumption | intro _ | apply foldl_kept | apply State.setThread_kept
theorem State.endReq_kept (h : Kept Q C s) (q : FabReq) : Kept Q C (State.endReq s q) := by
  unfold State.endReq
  repeat' with_reducible first | assumption | apply State.withRoutes_kept | apply State.withFabReqs_kept | apply State.wakeFab_kept | apply State.countReqs_kept
theorem State.fabAnswer_kept (h : Kept Q C s) (th : Nat) (op : Nat) (size : Nat) (rt : Nat) (status : Nat) (value : Nat) : Kept Q C (State.fabAnswer s th op size rt status value) := by
  unfold State.fabAnswer
  repeat' with_reducible first | assumption | apply ite_kept | apply State.unpark_kept | apply State.fault_kept | apply State.done_kept
theorem State.deliver_kept (h : Kept Q C s) (q : FabReq) (status : Nat) (value : Nat) : Kept Q C (State.deliver s q status value) := by
  unfold State.deliver
  repeat' first | (with_reducible first | assumption | apply State.fabAnswer_kept) | split
theorem State.perform1_kept (h : Kept Q C s) (op : Nat) (a : Nat) (len : Nat) (value : Nat) (newv : Nat) (key : Nat) (sgn : Bool) (dev : Bool) (data : List Byte) : Kept Q C (State.perform1 s op a len value newv key sgn dev data).1 := by
  unfold State.perform1
  repeat' first | (with_reducible first | assumption | apply State.setProc_kept | apply State.noteAbsorb_kept | apply State.rdRecord_kept | apply State.store_kept) | split | dsimp only
theorem State.meterLocal_kept (h : Kept Q C s) (d : DmaDesc) (a : Nat) (n : Nat) : Kept Q C (State.meterLocal s d a n) := by
  unfold State.meterLocal
  repeat' with_reducible first | assumption | apply ite_kept | apply State.count_kept
theorem State.touchFrame_kept (h : Kept Q C s) (a : Nat) : Kept Q C (State.touchFrame s a) := by
  unfold State.touchFrame
  repeat' first | (with_reducible first | assumption | apply State.setFrame_kept) | split
theorem State.dmaRead_kept (h : Kept Q C s) (d : DmaDesc) (a : Nat) (n : Nat) : Kept Q C (State.dmaRead s d a n).1 := by
  unfold State.dmaRead
  repeat' first | (with_reducible first | assumption | apply State.meterLocal_kept | apply State.touchFrame_kept | apply State.rdRecord_kept) | split | dsimp only
theorem State.dmaWrite_kept (h : Kept Q C s) (d : DmaDesc) (a : Nat) (bs : List Byte) (poisoned : Bool) : Kept Q C (State.dmaWrite s d a bs poisoned).1 := by
  unfold State.dmaWrite
  repeat' first | (with_reducible first | assumption | apply State.meterLocal_kept | apply State.store_kept | apply State.poisonRange_kept) | split | dsimp only
theorem DmaRun.readRow_kept {r : DmaRun} (h : Kept Q C r.s) (d : DmaDesc) (g : Nat) : Kept Q C (r.readRow d g).1.s := by
  unfold DmaRun.readRow
  refine foldl_keep (P := fun x : DmaRun × List Byte × Bool => Kept Q C x.1.s) (fun x p hx => ?_) _ h
  have hr := State.dmaRead_kept hx d (p.1 % 2 ^ 48) p.2.1
  split
  · exact hx
  · split
    · rename_i h1
      rw [h1] at hr
      exact hr
    · rename_i h1
      rw [h1] at hr
      exact hr
theorem DmaRun.writeRow_kept {r : DmaRun} (h : Kept Q C r.s) (d : DmaDesc) (g : Nat) (bs : List Byte) (po : Bool) : Kept Q C (r.writeRow d g bs po).s := by
  unfold DmaRun.writeRow
  refine foldl_keep (P := fun x : DmaRun => Kept Q C x.s) (fun x p hx => ?_) _ h
  split
  · exact hx
  · exact State.dmaWrite_kept hx _ _ _ _
theorem State.dmaLocal_kept (h : Kept Q C s) (d : DmaDesc) : Kept Q C (s.dmaLocal d).s := by
  unfold State.dmaLocal
  refine foldl_keep (P := fun x : DmaRun => Kept Q C x.s) (fun x p hx => ?_) _ h
  split
  · exact hx
  · dsimp only
    split
    · exact DmaRun.writeRow_kept (DmaRun.readRow_kept hx _ _) _ _ _ _
    · exact DmaRun.readRow_kept hx _ _
theorem State.setDmas_kept (h : Kept Q C s) (k : Nat) (l : List Dma) : Kept Q C (State.setDmas s k l) := by
  unfold State.setDmas
  repeat' with_reducible first | assumption | apply State.withDmas_kept
theorem State.modDma_kept (h : Kept Q C s) (k : Nat) (uid : Nat) (f : Dma → Dma) : Kept Q C (State.modDma s k uid f) := by
  unfold State.modDma
  repeat' with_reducible first | assumption | apply State.setDmas_kept
theorem State.dmaIssue_kept (h : Kept Q C s) (k : Nat) (x : Dma) (d : DmaDesc) (p : Nat × Nat × Nat) : ∀ t_, State.dmaIssue s k x d p = .ok t_ → Kept Q C t_ := by
  unfold State.dmaIssue
  repeat' first | (with_reducible first | assumption | apply State.count_kept) | grind (splits := 20) [State.count_kept, State.issueReq_kept, Keeps.next, getD_kept, foldl_kept, foldl_kept1]
theorem State.dmaPump_kept (h : Kept Q C s) (k : Nat) (uid : Nat) (a_3 : Nat) : Kept Q C (State.dmaPump s k uid a_3) := by
  induction a_3 generalizing s with
  | zero => exact h
  | succ n ih =>
    unfold State.dmaPump
    repeat' first | (with_reducible first | assumption | apply ih | apply State.bump_kept | apply State.put_kept | apply State.modDma_kept) | with_reducible refine State.dmaIssue_kept ?_ _ _ _ _ _ (by assumption) | split
theorem State.dmaSend_kept (h : Kept Q C s) (k : Nat) (x : Dma) (rows : KMap (List Byte)) : Kept Q C (State.dmaSend s k x rows) := by
  unfold State.dmaSend
  repeat' with_reducible first | assumption | apply State.dmaPump_kept | apply State.modDma_kept
theorem State.dmaTurn_kept (h : Kept Q C s) (k : Nat) (uid : Nat) : Kept Q C (State.dmaTurn s k uid) := by
  unfold State.dmaTurn
  repeat' first | (with_reducible first | assumption | apply ite_kept | apply State.dmaSend_kept) | split
theorem State.dmaBegin_kept (h : Kept Q C s) (k : Nat) (words : List Nat) (item : Option Nat) : Kept Q C (State.dmaBegin s k words item) := by
  unfold State.dmaBegin
  dsimp only
  split
  · exact State.setDmas_kept h _ _
  · split
    · have hr : Kept Q C ((List.range (decodeDma words).rows).foldl (fun (a : DmaRun × KMap (List Byte)) i =>
          ((a.1.readRow (decodeDma words) ((decodeDma words).srcRow i)).1,
            a.2 ++ [(i, (decodeDma words).convert (a.1.readRow (decodeDma words) ((decodeDma words).srcRow i)).2.1)]))
          (⟨s, St.ok, true⟩, [])).1.s :=
        foldl_keep (P := fun x : DmaRun × KMap (List Byte) => Kept Q C x.1.s) (fun x i hx => DmaRun.readRow_kept hx _ _) _ h
      split
      · exact State.dmaSend_kept (State.setDmas_kept hr _ _) _ _ _
      · exact State.setDmas_kept hr _ _
    · exact State.dmaPump_kept (State.setDmas_kept h _ _) _ _ _
theorem State.dmaFinish_kept (h : Kept Q C s) (k : Nat) (x : Dma) : Kept Q C (State.dmaFinish s k x).1 := by
  unfold State.dmaFinish
  dsimp only
  split
  · exact State.setDmas_kept h _ _
  · split
    · exact State.setDmas_kept h _ _
    · split
      · exact State.dmaLocal_kept (State.setDmas_kept h _ _) _
      · split
        · refine foldl_keep (P := fun x : DmaRun => Kept Q C x.s) (fun x i hx => ?_) _ (State.setDmas_kept h _ _)
          split
          · exact DmaRun.writeRow_kept hx _ _ _ _
          · exact hx
        · exact State.setDmas_kept h _ _
theorem State.absorbDmas_kept (h : Kept Q C s) (p : Nat) (scope : Nat → Bool) : Kept Q C (State.absorbDmas s p scope) := by
  unfold State.absorbDmas
  repeat' with_reducible first | assumption | apply State.bump_kept | apply State.withDmas_kept
theorem State.modCopy_kept (h : Kept Q C s) (id : Nat) (f : HostCopy → HostCopy) : Kept Q C (State.modCopy s id f) := by
  unfold State.modCopy
  repeat' with_reducible first | assumption | apply State.withCopies_kept
theorem State.copyIssue_kept (h : Kept Q C s) (x : HostCopy) (p : Nat × Nat × Nat) : ∀ t_, State.copyIssue s x p = .ok t_ → Kept Q C t_ := by
  unfold State.copyIssue
  repeat' first | (with_reducible first | assumption | apply State.count_kept) | grind (splits := 20) [State.count_kept, State.issueReq_kept, Keeps.next, getD_kept, foldl_kept, foldl_kept1]
theorem State.copyPump_kept (h : Kept Q C s) (id : Nat) (a_2 : Nat) : Kept Q C (State.copyPump s id a_2) := by
  induction a_2 generalizing s with
  | zero => exact h
  | succ n ih =>
    unfold State.copyPump
    repeat' first | (with_reducible first | assumption | apply ih | apply State.bump_kept | apply State.put_kept | apply State.modCopy_kept) | with_reducible refine State.copyIssue_kept ?_ _ _ _ (by assumption) | split
theorem State.copyTurn_kept (h : Kept Q C s) (id : Nat) : Kept Q C (State.copyTurn s id) := by
  unfold State.copyTurn
  repeat' first | (with_reducible first | assumption | apply State.finish_kept | apply State.withCopies_kept) | split
theorem State.copyAnswer_kept (h : Kept Q C s) (id : Nat) (off : Nat) (status : Nat) (data : List Byte) : Kept Q C (State.copyAnswer s id off status data) := by
  unfold State.copyAnswer
  repeat' first | (with_reducible first | assumption | apply State.modCopy_kept | apply State.copyTurn_kept) | with_reducible refine State.hostWr_kept ?_ _ _ _ _ (by assumption) | split
theorem State.pumpAll_kept (h : Kept Q C s) : Kept Q C (State.pumpAll s) := by
  unfold State.pumpAll
  repeat' with_reducible first | assumption | intro _ | apply ite_kept | apply foldl_kept | apply State.dmaPump_kept | apply State.copyTurn_kept | apply State.copyPump_kept
theorem State.closeReq_kept (h : Kept Q C s) (q : FabReq) (status : Nat) (value : Nat) (data : List Byte) : Kept Q C (State.closeReq s q status value data) := by
  unfold State.closeReq
  repeat' first | (with_reducible first | assumption | apply State.endReq_kept | apply State.modDma_kept | apply State.dmaTurn_kept | apply State.copyAnswer_kept | apply State.deliver_kept | apply State.pumpAll_kept) | split
theorem State.performOwn_kept (h : Kept Q C s) (q : FabReq) : Kept Q C (State.performOwn s q) := by
  unfold State.performOwn
  repeat' first | (with_reducible first | assumption | apply State.closeReq_kept) | grind (splits := 20) [State.perform1_kept, State.closeReq_kept, Keeps.next, getD_kept, foldl_kept, foldl_kept1]
theorem State.fabOp_kept (h : Kept Q C s) (th : Nat) (op : Nat) (rt : Fin 32) (ra : Fin 32) (sz8 : Bool) (value : Thread → Word) (newv : Thread → Word) : Kept Q C (State.fabOp s th op rt ra sz8 value newv) := by
  unfold State.fabOp
  repeat' first | (with_reducible first | assumption | intro _ | apply State.issue_kept | apply State.fault_kept | apply State.put_kept | apply State.bump_kept | apply State.setThread_kept | apply State.issueReq_kept | apply State.park_kept | apply State.count_kept) | split | dsimp only
theorem execFld_kept (h : Kept Q C s) (th : Fin 4096) (rt : Fin 32) (ra : Fin 32) (sz8 : Bool) : Keeps Q C (execFld th rt ra sz8 s) := by
  unfold execFld
  repeat' with_reducible first | assumption | apply State.fabOp_kept | apply Keeps.next
theorem execFst_kept (h : Kept Q C s) (th : Fin 4096) (rt : Fin 32) (ra : Fin 32) (sz8 : Bool) : Keeps Q C (execFst th rt ra sz8 s) := by
  unfold execFst
  repeat' with_reducible first | assumption | apply State.fabOp_kept | apply Keeps.next
theorem execFabAdd_kept (h : Kept Q C s) (th : Fin 4096) (rt : Fin 32) (ra : Fin 32) (sz8 : Bool) : Keeps Q C (execFabAdd th rt ra sz8 s) := by
  unfold execFabAdd
  repeat' with_reducible first | assumption | apply State.fabOp_kept | apply Keeps.next
theorem execFabMin_kept (h : Kept Q C s) (th : Fin 4096) (rt : Fin 32) (ra : Fin 32) (sz8 : Bool) : Keeps Q C (execFabMin th rt ra sz8 s) := by
  unfold execFabMin
  repeat' with_reducible first | assumption | apply State.fabOp_kept | apply Keeps.next
theorem execFabMax_kept (h : Kept Q C s) (th : Fin 4096) (rt : Fin 32) (ra : Fin 32) (sz8 : Bool) : Keeps Q C (execFabMax th rt ra sz8 s) := by
  unfold execFabMax
  repeat' with_reducible first | assumption | apply State.fabOp_kept | apply Keeps.next
theorem execFabCas_kept (h : Kept Q C s) (th : Fin 4096) (rt : Fin 32) (ra : Fin 32) (rb : Fin 32) (sz8 : Bool) : Keeps Q C (execFabCas th rt ra rb sz8 s) := by
  unfold execFabCas
  repeat' with_reducible first | assumption | apply State.fabOp_kept | apply Keeps.next
theorem execSpurRemoteReply_kept (h : Kept Q C s) (th : Fin 4096) : Keeps Q C (execSpurRemoteReply th s) := by
  unfold execSpurRemoteReply
  repeat' first | (with_reducible first | assumption | apply State.performOwn_kept | apply State.remoteReply_kept | apply Keeps.next) | split
theorem execLinkTrained_kept (h : Kept Q C s) (l : Fin 36) (x : Training) : Keeps Q C (execLinkTrained l x s) := by
  unfold execLinkTrained
  repeat' with_reducible first | assumption | apply ite_kept | apply State.mapLanes_kept | apply State.setLinkRec_kept | apply State.setLk_kept | apply Keeps.next
theorem execLinkRetrainTimer_kept (h : Kept Q C s) (l : Fin 36) : Keeps Q C (execLinkRetrainTimer l s) := by
  unfold execLinkRetrainTimer
  repeat' with_reducible first | assumption | apply ite_kept | apply State.setLk_kept | apply Keeps.next
theorem State.retrain_kept (h : Kept Q C s) (l : Nat) : Kept Q C (State.retrain s l) := by
  unfold State.retrain
  repeat' with_reducible first | assumption | apply State.setLinkRec_kept | apply State.setLk_kept | apply State.bump_kept
theorem execLaneFailure_kept (h : Kept Q C s) (l : Fin 36) (lane : Fin 5) : Keeps Q C (execLaneFailure l lane s) := by
  unfold execLaneFailure
  repeat' with_reducible first | assumption | apply ite_kept | apply State.retrain_kept | apply State.orf_kept | apply Keeps.next
theorem State.newEpoch_kept (h : Kept Q C s) (l : Nat) : Kept Q C (State.newEpoch s l) := by
  unfold State.newEpoch
  repeat' with_reducible first | assumption | apply State.sendFlit_kept | apply State.put_kept | apply State.setLinkRec_kept
theorem execLinkRetrainEnd_kept (h : Kept Q C s) (l : Fin 36) (x : Training) : Keeps Q C (execLinkRetrainEnd l x s) := by
  unfold execLinkRetrainEnd
  repeat' with_reducible first | assumption | apply ite_kept | apply State.mapLanes_kept | apply State.dropLink_kept | apply State.setLinkRec_kept | apply State.setLk_kept | apply State.drainLink_kept | apply State.newEpoch_kept | apply Keeps.next
theorem execLinkAuthAccept_kept (h : Kept Q C s) (l : Fin 36) (peerNode : BitVec 16) (peerLink : Fin 64) : Keeps Q C (execLinkAuthAccept l peerNode peerLink s) := by
  unfold execLinkAuthAccept
  repeat' with_reducible first | assumption | apply ite_kept | apply State.setLinkRec_kept | apply State.put_kept | apply State.setLk_kept | apply Keeps.next
theorem execLinkAuthTimeout_kept (h : Kept Q C s) (l : Fin 36) : Keeps Q C (execLinkAuthTimeout l s) := by
  unfold execLinkAuthTimeout
  repeat' with_reducible first | assumption | apply ite_kept | apply State.put_kept | apply Keeps.next
theorem State.tagFail_kept (h : Kept Q C s) (l : Nat) : Kept Q C (State.tagFail s l) := by
  unfold State.tagFail
  repeat' with_reducible first | assumption | apply ite_kept | apply State.bump_kept | apply State.setLinkRec_kept | apply State.event_kept | apply State.put_kept | apply State.dropLink_kept
theorem State.takeAck_kept (h : Kept Q C s) (l : Nat) (ack : Nat) : Kept Q C (State.takeAck s l ack) := by
  unfold State.takeAck
  repeat' with_reducible first | assumption | apply ite_kept | apply State.setLinkRec_kept
theorem State.takeCredit_kept (h : Kept Q C s) (l : Nat) (vc : Nat) (n : Nat) : Kept Q C (State.takeCredit s l vc n) := by
  unfold State.takeCredit
  repeat' with_reducible first | assumption | apply ite_kept | apply State.setLinkRec_kept
theorem State.takeHeader_kept (h : Kept Q C s) (l : Nat) (f : Flit) : Kept Q C (State.takeHeader s l f) := by
  unfold State.takeHeader
  repeat' with_reducible first | assumption | apply State.takeCredit_kept | apply State.takeAck_kept | apply State.drainLink_kept
theorem State.sendNak_kept (h : Kept Q C s) (l : Nat) : Kept Q C (State.sendNak s l) := by
  unfold State.sendNak
  repeat' with_reducible first | assumption | apply ite_kept | apply State.sendFlit_kept | apply State.setLinkRec_kept
theorem execDataFlit_kept (h : Kept Q C s) (l : Fin 36) (f : Flit) : Keeps Q C (execDataFlit l f s) := by
  unfold execDataFlit
  repeat' with_reducible first | assumption | apply ite_kept | apply State.bump_kept | apply State.setLinkRec_kept | apply State.sendFlit_kept | apply State.takeHeader_kept | apply State.sendNak_kept | apply State.tagFail_kept | apply Keeps.next
theorem execIdleFlit_kept (h : Kept Q C s) (l : Fin 36) (f : Flit) : Keeps Q C (execIdleFlit l f s) := by
  unfold execIdleFlit
  repeat' with_reducible first | assumption | apply ite_kept | apply State.takeHeader_kept | apply State.bump_kept | apply State.tagFail_kept | apply Keeps.next
theorem State.resend_kept (h : Kept Q C s) (l : Nat) : Kept Q C (State.resend s l) := by
  unfold State.resend
  repeat' with_reducible first | assumption | intro _ | apply ite_kept | apply foldl_kept | apply State.retrain_kept | apply State.setLinkRec_kept | apply State.bump_kept | apply State.sendFlit_kept
theorem execNak_kept (h : Kept Q C s) (l : Fin 36) (ack : BitVec 40) : Keeps Q C (execNak l ack s) := by
  unfold execNak
  repeat' with_reducible first | assumption | apply ite_kept | apply State.resend_kept | apply State.takeAck_kept | apply Keeps.next
theorem execAckTimeout_kept (h : Kept Q C s) (l : Fin 36) : Keeps Q C (execAckTimeout l s) := by
  unfold execAckTimeout
  repeat' with_reducible first | assumption | apply ite_kept | apply State.resend_kept | apply Keeps.next
theorem execRekey_kept (h : Kept Q C s) (l : Fin 36) : Keeps Q C (execRekey l s) := by
  unfold execRekey
  repeat' with_reducible first | assumption | apply ite_kept | apply State.setLinkRec_kept | apply Keeps.next
theorem execEpochRollover_kept (h : Kept Q C s) (l : Fin 36) : Keeps Q C (execEpochRollover l s) := by
  unfold execEpochRollover
  repeat' with_reducible first | assumption | apply ite_kept | apply State.newEpoch_kept | apply Keeps.next
theorem State.notePeer_kept (h : Kept Q C s) (n : Nat) : Kept Q C (State.notePeer s n) := by
  unfold State.notePeer
  repeat' with_reducible first | assumption | apply State.setPeer_kept
theorem State.received_kept (h : Kept Q C s) (l : Nat) (r : Record) (go : State → State) (h3 : ∀ (x0 : State), Kept Q C x0 → Kept Q C (go x0)) : Kept Q C (State.received s l r go) := by
  unfold State.received
  repeat' first | (with_reducible first | assumption | apply State.bump_kept) | grind (splits := 20) [State.bump_kept, Keeps.next, getD_kept, foldl_kept, foldl_kept1]
theorem State.forward_kept (h : Kept Q C s) (op : Nat) (r : Record) : Kept Q C (State.forward s op r) := by
  unfold State.forward
  repeat' first | (with_reducible first | assumption | intro _ | apply State.put_kept | apply getD_kept) | with_reducible refine State.sendRecord_kept ?_ _ _ _ (by assumption)
theorem State.respond_kept (h : Kept Q C s) (op : Nat) (r : Record) (status : Nat) (old : Nat) (dup : Bool) (data : List Byte) : Kept Q C (State.respond s op r status old dup data) := by
  unfold State.respond
  repeat' first | (with_reducible first | assumption | intro _ | apply State.put_kept | apply getD_kept) | with_reducible refine State.sendRecord_kept ?_ _ _ _ (by assumption)
theorem State.performRecord_kept (h : Kept Q C s) (op : Nat) (r : Record) (tMax : Nat) : Kept Q C (State.performRecord s op r tMax) := by
  unfold State.performRecord
  repeat' first | (with_reducible first | assumption | apply State.withWindows_kept) | grind (splits := 20) [State.perform1_kept, State.withWindows_kept, State.respond_kept, Keeps.next, getD_kept, foldl_kept, foldl_kept1]
theorem State.request_kept (h : Kept Q C s) (op : Nat) (r : Record) : Kept Q C (State.request s op r) := by
  unfold State.request
  repeat' first | (with_reducible first | assumption | apply State.respond_kept | apply State.put_kept | apply State.performRecord_kept | apply State.setPeer_kept) | split | dsimp only
theorem State.recvRequest_kept (h : Kept Q C s) (l : Nat) (op : Nat) (r : Record) : Kept Q C (State.recvRequest s l op r) := by
  unfold State.recvRequest
  repeat' with_reducible first | assumption | intro _ | apply ite_kept | apply State.received_kept | apply State.forward_kept | apply State.request_kept | apply State.notePeer_kept
theorem execLdRecord_kept (h : Kept Q C s) (l : Fin 36) (r : Record) : Keeps Q C (execLdRecord l r s) := by
  unfold execLdRecord
  repeat' with_reducible first | assumption | apply State.recvRequest_kept | apply Keeps.next
theorem execStRecord_kept (h : Kept Q C s) (l : Fin 36) (r : Record) : Keeps Q C (execStRecord l r s) := by
  unfold execStRecord
  repeat' with_reducible first | assumption | apply State.recvRequest_kept | apply Keeps.next
theorem execAddRecord_kept (h : Kept Q C s) (l : Fin 36) (r : Record) : Keeps Q C (execAddRecord l r s) := by
  unfold execAddRecord
  repeat' with_reducible first | assumption | apply State.recvRequest_kept | apply Keeps.next
theorem execMinRecord_kept (h : Kept Q C s) (l : Fin 36) (r : Record) : Keeps Q C (execMinRecord l r s) := by
  unfold execMinRecord
  repeat' with_reducible first | assumption | apply State.recvRequest_kept | apply Keeps.next
theorem execMaxRecord_kept (h : Kept Q C s) (l : Fin 36) (r : Record) : Keeps Q C (execMaxRecord l r s) := by
  unfold execMaxRecord
  repeat' with_reducible first | assumption | apply State.recvRequest_kept | apply Keeps.next
theorem execCasRecord_kept (h : Kept Q C s) (l : Fin 36) (r : Record) : Keeps Q C (execCasRecord l r s) := by
  unfold execCasRecord
  repeat' with_reducible first | assumption | apply State.recvRequest_kept | apply Keeps.next
theorem execMsgRecord_kept (h : Kept Q C s) (l : Fin 36) (r : Record) : Keeps Q C (execMsgRecord l r s) := by
  unfold execMsgRecord
  repeat' with_reducible first | assumption | apply State.recvRequest_kept | apply Keeps.next
theorem State.noteAnswer_kept (h : Kept Q C s) (n : Nat) (q : FabReq) : Kept Q C (State.noteAnswer s n q) := by
  unfold State.noteAnswer
  repeat' with_reducible first | assumption | apply State.setPeer_kept
theorem State.noteAck_kept (h : Kept Q C s) (n : Nat) (tid : Nat) : Kept Q C (State.noteAck s n tid) := by
  unfold State.noteAck
  repeat' first | (with_reducible first | assumption | apply State.withMove_kept) | split
theorem State.recvResponse_kept (h : Kept Q C s) (l : Nat) (op : Nat) (r : Record) : Kept Q C (State.recvResponse s l op r) := by
  unfold State.recvResponse
  repeat' first | (with_reducible first | assumption | intro _ | apply State.received_kept | apply State.forward_kept | apply State.noteAnswer_kept | apply State.noteAck_kept | apply State.closeReq_kept) | split | dsimp only
theorem execLdRsp_kept (h : Kept Q C s) (l : Fin 36) (r : Record) : Keeps Q C (execLdRsp l r s) := by
  unfold execLdRsp
  repeat' with_reducible first | assumption | apply State.recvResponse_kept | apply Keeps.next
theorem execStAck_kept (h : Kept Q C s) (l : Fin 36) (r : Record) : Keeps Q C (execStAck l r s) := by
  unfold execStAck
  repeat' with_reducible first | assumption | apply State.recvResponse_kept | apply Keeps.next
theorem execAtomRsp_kept (h : Kept Q C s) (l : Fin 36) (r : Record) : Keeps Q C (execAtomRsp l r s) := by
  unfold execAtomRsp
  repeat' with_reducible first | assumption | apply State.recvResponse_kept | apply Keeps.next
theorem execMsgAck_kept (h : Kept Q C s) (l : Fin 36) (r : Record) : Keeps Q C (execMsgAck l r s) := by
  unfold execMsgAck
  repeat' with_reducible first | assumption | apply State.recvResponse_kept | apply Keeps.next
theorem execE2eTimeout_kept (h : Kept Q C s) (dst : BitVec 16) (tid : BitVec 32) : Keeps Q C (execE2eTimeout dst tid s) := by
  unfold execE2eTimeout
  repeat' first | (with_reducible first | assumption | intro _ | apply ite_kept | apply State.closeReq_kept | apply State.put_kept | apply State.setPeer_kept | apply State.withRoutes_kept | apply State.withFabReqs_kept | apply State.wakeFab_kept | apply State.eventEntry_kept | apply State.event_kept | apply getD_kept | apply Keeps.next) | with_reducible refine State.sendRecord_kept ?_ _ _ _ (by assumption) | split
theorem State.memberLost_kept (h : Kept Q C s) (n : Nat) : Kept Q C (State.memberLost s n) := by
  unfold State.memberLost
  repeat' with_reducible first | assumption | intro _ | apply ite_kept | apply foldl_kept | apply State.withMove_kept | apply State.askFreeze_kept | apply State.eventEntry_kept
theorem execMemberFailedMark_kept (h : Kept Q C s) (node : BitVec 16) : Keeps Q C (execMemberFailedMark node s) := by
  unfold execMemberFailedMark
  repeat' first | (with_reducible first | assumption | apply State.memberLost_kept | apply State.eventEntry_kept | apply State.event_kept | apply State.setPeer_kept | apply Keeps.next) | split | dsimp only
theorem State.noteLag_kept (h : Kept Q C s) (set : List Nat) (n : Nat) (lag : Nat) : Kept Q C (State.noteLag s set n lag) := by
  unfold State.noteLag
  repeat' with_reducible first | assumption | apply ite_kept | apply State.event_kept | apply State.setPeer_kept | apply State.eventEntry_kept
theorem execCollectiveEnd_kept (h : Kept Q C s) (c : Collective) (ring : List (BitVec 16)) (parts : List (BitVec 16 × Nat × List (BitVec 32))) : Keeps Q C (execCollectiveEnd c ring parts s) := by
  unfold execCollectiveEnd
  repeat' with_reducible first | assumption | intro _ | apply ite_kept | apply foldl_kept | apply State.noteLag_kept | apply State.emit_kept | apply State.memberLost_kept | apply Keeps.next
theorem execPeerSnapshot_kept (h : Kept Q C s) (wr : Writer) (node : BitVec 16) : Keeps Q C (execPeerSnapshot wr node s) := by
  unfold execPeerSnapshot
  repeat' with_reducible first | assumption | apply ite_kept | apply State.put_kept | apply Keeps.next
theorem execShardMoveSwitch_kept (h : Kept Q C s) (copied : Nat) : Keeps Q C (execShardMoveSwitch copied s) := by
  unfold execShardMoveSwitch
  repeat' first | (with_reducible first | assumption | intro _ | apply ite_kept | apply foldl_kept | apply State.atBoundary_kept | apply State.fabMsg_kept | apply State.withMove_kept | apply Keeps.next) | split
theorem execShardMoveRelease_kept (h : Kept Q C s) : Keeps Q C (execShardMoveRelease s) := by
  unfold execShardMoveRelease
  repeat' first | (with_reducible first | assumption | apply State.fabMsg_kept | apply State.withMove_kept | apply Keeps.next) | split
theorem State.setSlot_kept (h : Kept Q C s) (p : Nat) (e : Nat) (st : EntryState) : Kept Q C (State.setSlot s p e st) := by
  unfold State.setSlot
  repeat' with_reducible first | assumption | apply State.setPart_kept
theorem State.endRec_kept (h : Kept Q C s) (p : Nat) (lane : Nat) (tag : Nat) (status : Nat) : Kept Q C (State.endRec s p lane tag status) := by
  unfold State.endRec
  repeat' with_reducible first | assumption | apply State.setPart_kept
theorem State.modItem_kept (h : Kept Q C s) (p : Nat) (i : Nat) (f : WlItem → WlItem) : Kept Q C (State.modItem s p i f) := by
  unfold State.modItem
  repeat' with_reducible first | assumption | apply State.setPart_kept
theorem State.settle_kept (h : Kept Q C s) (p : Nat) (pass : Nat) : Kept Q C (State.settle s p pass) := by
  unfold State.settle
  repeat' with_reducible first | assumption | apply State.withPasses_kept
theorem State.dropPass_kept (h : Kept Q C s) (pass : Nat) : Kept Q C (State.dropPass s pass) := by
  unfold State.dropPass
  repeat' first | (with_reducible first | assumption | intro _ | apply foldl_kept | apply State.withPasses_kept | apply State.decRef_kept | apply State.freeEntry_kept | apply State.setSeq_kept | apply State.setPart_kept) | split
theorem State.failItem_kept (h : Kept Q C s) (p : Nat) (i : Nat) (cause : Nat) (status : Nat) : Kept Q C (State.failItem s p i cause status) := by
  unfold State.failItem
  repeat' first | (with_reducible first | assumption | intro _ | apply foldl_kept | apply State.modItem_kept | apply State.askFreeze_kept | apply State.dropPass_kept) | split
theorem State.giveWay_kept (h : Kept Q C s) (p : Nat) (l : Nat) : Kept Q C (State.giveWay s p l) := by
  unfold State.giveWay
  repeat' with_reducible first | assumption | apply State.setPart_kept
theorem State.moveDesc_kept (h : Kept Q C s) (p : Nat) (it : WlItem) (l : Nat) (words : List Nat) : ∀ t_, State.moveDesc s p it l words = some t_ → Kept Q C t_.1 := by
  unfold State.moveDesc
  repeat' first | (with_reducible first | assumption | apply State.store_kept) | grind (splits := 20) [State.store_kept, State.setPart_kept, Keeps.next, getD_kept, foldl_kept, foldl_kept1]
theorem State.requeue_kept (h : Kept Q C s) (p : Nat) (i : Nat) (cyc : Nat) (sameTick : Bool) : Kept Q C (State.requeue s p i cyc sameTick) := by
  unfold State.requeue
  split
  · exact h
  · dsimp only
    have hm := fun f => State.modItem_kept h p i f
    refine ite_kept ?_ ?_
    on_goal 1 => refine State.giveWay_kept ?_ _ _
    all_goals
      refine State.setPart_kept (State.modItem_kept ?_ _ _ _) _ _
      refine getD_kept1 (fun r hr => ?_) (hm _)
      split at hr
      · cases hr
      · obtain ⟨l, _, hl⟩ := List.exists_of_findSome?_eq_some hr
        split at hl
        · cases hl
        · obtain ⟨u, hu, rfl⟩ := Option.map_eq_some_iff.1 hl
          have hx := fun f => State.moveDesc_kept (hm f) p
          have hy := hx _ _ _ _ _ hu
          exact hy
theorem State.addOps_kept (h : Kept Q C s) (n : Nat) (act : Nat) (gated : Nat) : Kept Q C (State.addOps s n act gated) := by
  unfold State.addOps
  repeat' with_reducible first | assumption | apply State.setCore_kept | apply State.bump_kept
theorem State.tileBegin_kept (h : Kept Q C s) (n : Nat) (words : List Nat) (radio : Bool) (slice : Nat) (at_ : Nat) : Kept Q C (State.tileBegin s n words radio slice at_) := by
  unfold State.tileBegin
  repeat' with_reducible first | assumption | apply State.setCore_kept | apply State.put_kept
theorem State.tileOver_kept (h : Kept Q C s) (n : Nat) (tag : Nat) (last : Nat) : Kept Q C (State.tileOver s n tag last) := by
  unfold State.tileOver
  repeat' with_reducible first | assumption | apply State.setCore_kept | apply State.put_kept
theorem State.descFailed_kept (h : Kept Q C s) (n : Nat) (tag : Nat) : Kept Q C (State.descFailed s n tag) := by
  unfold State.descFailed
  repeat' with_reducible first | assumption | apply State.put_kept
theorem State.tileDone_kept (h : Kept Q C s) (n : Nat) (r : RunningTile) (cycles : Nat) : Kept Q C (State.tileDone s n r cycles) := by
  unfold State.tileDone
  repeat' with_reducible first | assumption | apply ite_kept | apply State.retireTile_kept | apply State.setCore_kept | apply State.put_kept | apply State.orf_kept | apply State.addOps_kept | apply State.endRec_kept | apply State.tileOver_kept | apply State.bump_kept
theorem State.abortTile_kept (h : Kept Q C s) (p : Nat) (i : Nat) (cyc : Nat) (why : AbortPoint) : Kept Q C (State.abortTile s p i cyc why) := by
  unfold State.abortTile
  repeat' first | (with_reducible first | assumption | apply State.bump_kept | apply State.charge_kept | apply State.endRec_kept | apply State.tileOver_kept | apply State.setCore_kept | apply State.requeue_kept | apply State.drawn_kept) | split
theorem State.finishTile_kept (h : Kept Q C s) (p : Nat) (i : Nat) (cyc : Nat) : Kept Q C (State.finishTile s p i cyc) := by
  unfold State.finishTile
  repeat' first | (with_reducible first | assumption | apply State.tileDone_kept | apply State.charge_kept | apply State.settle_kept | apply State.modItem_kept) | split
theorem State.interruptTile_kept (h : Kept Q C s) (p : Nat) (i : Nat) (cyc : Nat) (why : AbortPoint) : Kept Q C (State.interruptTile s p i cyc why) := by
  unfold State.interruptTile
  repeat' first | (with_reducible first | assumption | apply ite_kept | apply State.finishTile_kept | apply State.abortTile_kept) | split
theorem State.startJob_kept (h : Kept Q C s) (n : Nat) (mask : Nat) (d : List Nat) (radio : Bool) (p : Nat) (item : Nat) (at_ : Nat) : Kept Q C (State.startJob s n mask d radio p item at_) := by
  unfold State.startJob
  repeat' with_reducible first | assumption | intro _ | apply foldl_kept | apply State.withJobs_kept | apply State.setThread_kept | apply State.put_kept
theorem State.showBusy_kept (h : Kept Q C s) (n : Nat) : Kept Q C (State.showBusy s n) := by
  unfold State.showBusy
  repeat' with_reducible first | assumption | apply State.put_kept
theorem State.clearJob_kept (h : Kept Q C s) (n : Nat) (key : Nat) (mask : Nat) : Kept Q C (State.clearJob s n key mask) := by
  unfold State.clearJob
  repeat' with_reducible first | assumption | intro _ | apply foldl_kept | apply State.withJobs_kept | apply State.showBusy_kept | apply State.setThread_kept
theorem State.katThreads_kept (h : Kept Q C s) (n : Nat) (mask : Nat) (st : TState) : Kept Q C (State.katThreads s n mask st) := by
  unfold State.katThreads
  repeat' with_reducible first | assumption | intro _ | apply foldl_kept | apply State.showBusy_kept | apply State.setThread_kept
theorem State.drainStores_kept (h : Kept Q C s) (th : Nat) : Kept Q C (State.drainStores s th) := by
  unfold State.drainStores
  repeat' with_reducible first | assumption | intro _ | apply foldl_kept | apply State.postStore_kept | apply State.setThread_kept
theorem State.jobRec_kept (h : Kept Q C s) (n : Nat) (tag : Nat) (status : Nat) : Kept Q C (State.jobRec s n tag status) := by
  unfold State.jobRec
  repeat' with_reducible first | assumption | apply State.endRec_kept
theorem State.cutRadioJob_kept (h : Kept Q C s) (n : Nat) (key : Nat) : Kept Q C (State.cutRadioJob s n key) := by
  unfold State.cutRadioJob
  repeat' first | (with_reducible first | assumption | apply State.jobRec_kept | apply State.clearJob_kept | apply State.bump_kept) | split
theorem State.finishParked_kept (h : Kept Q C s) (th : Nat) : Kept Q C (State.finishParked s th) := by
  unfold State.finishParked
  repeat' first | (with_reducible first | assumption | apply State.setSpur_kept) | grind (splits := 20) [State.setSpur_kept, State.atomicAt_kept, State.meter_kept, State.perform1_kept, State.endReq_kept, State.postStore_kept, Keeps.next, getD_kept, foldl_kept, foldl_kept1]
theorem State.abortJob_kept (h : Kept Q C s) (n : Nat) (key : Nat) (cyc : Nat) (why : AbortPoint) : Kept Q C (State.abortJob s n key cyc why) := by
  unfold State.abortJob
  repeat' first | (with_reducible first | assumption | intro _ | apply foldl_kept | apply State.bump_kept | apply State.count_kept | apply State.finishParked_kept | apply State.drainStores_kept | apply State.dbgEvent_kept | apply State.requeue_kept | apply State.jobRec_kept | apply State.clearJob_kept) | split
theorem State.defect_kept (h : Kept Q C s) (kind : Nat) (cause : Nat) (unit : Nat) (pos : Nat) : Kept Q C (State.defect s kind cause unit pos) := by
  unfold State.defect
  repeat' with_reducible first | assumption | apply ite_kept | apply State.put_kept | apply State.withBring_kept
theorem State.fencePhys_kept (h : Kept Q C s) (key : Nat) (cause : Nat) : Kept Q C (State.fencePhys s key cause) := by
  unfold State.fencePhys
  repeat' first | (with_reducible first | assumption | apply State.setPhys_kept | apply State.defect_kept) | split | dsimp only
theorem State.meterRadio_kept (h : Kept Q C s) (n : Nat) : Kept Q C (State.meterRadio s n) := by
  unfold State.meterRadio
  repeat' first | (with_reducible first | assumption | apply State.bump_kept) | split
theorem State.loseRadio_kept (h : Kept Q C s) (p : Nat) (l : Nat) : Kept Q C (State.loseRadio s p l) := by
  unfold State.loseRadio
  repeat' with_reducible first | assumption | intro _ | apply ite_kept | apply foldl_kept | apply State.meterRadio_kept | apply State.cutRadioJob_kept | apply State.missed_kept | apply State.setSlot_kept
theorem State.lostLane_kept (h : Kept Q C s) (p : Nat) (l : Nat) : Kept Q C (State.lostLane s p l) := by
  unfold State.lostLane
  repeat' with_reducible first | assumption | apply ite_kept | apply State.setPart_kept
theorem State.loseCore_kept (h : Kept Q C s) (n : Nat) : Kept Q C (State.loseCore s n) := by
  unfold State.loseCore
  repeat' with_reducible first | assumption | apply ite_kept | apply State.put_kept | apply State.lostLane_kept
theorem State.loseSpur_kept (h : Kept Q C s) (n : Nat) : Kept Q C (State.loseSpur s n) := by
  unfold State.loseSpur
  repeat' with_reducible first | assumption | apply ite_kept | apply State.put_kept | apply State.lostLane_kept
theorem State.seekCore_kept (h : Kept Q C s) (n : Nat) : Kept Q C (State.seekCore s n) := by
  unfold State.seekCore
  repeat' first | (with_reducible first | assumption | apply State.setCore_kept | apply State.setPhys_kept | apply State.loseCore_kept) | split | dsimp only
theorem State.stopCoreWork_kept (h : Kept Q C s) (n : Nat) : Kept Q C (State.stopCoreWork s n) := by
  unfold State.stopCoreWork
  repeat' with_reducible first | assumption | intro _ | apply foldl_kept | apply State.interruptTile_kept | apply State.loseRadio_kept | apply State.setCore_kept
theorem State.fenceCore_kept (h : Kept Q C s) (n : Nat) (cause : Nat) : Kept Q C (State.fenceCore s n cause) := by
  unfold State.fenceCore
  repeat' with_reducible first | assumption | apply ite_kept | apply State.stopCoreWork_kept | apply State.put_kept | apply State.tileOver_kept | apply State.fencePhys_kept | apply State.seekCore_kept | apply State.service_kept
theorem State.seekSpur_kept (h : Kept Q C s) (n : Nat) : Kept Q C (State.seekSpur s n) := by
  unfold State.seekSpur
  repeat' first | (with_reducible first | assumption | apply State.setSpur_kept | apply State.setPhys_kept | apply State.loseSpur_kept) | split | dsimp only
theorem State.stopSpurWork_kept (h : Kept Q C s) (n : Nat) : Kept Q C (State.stopSpurWork s n) := by
  unfold State.stopSpurWork
  repeat' with_reducible first | assumption | intro _ | apply ite_kept | apply foldl_kept | apply State.abortJob_kept | apply State.requeue_kept | apply State.katThreads_kept | apply State.loseRadio_kept
theorem State.fenceSpur_kept (h : Kept Q C s) (n : Nat) (cause : Nat) : Kept Q C (State.fenceSpur s n cause) := by
  unfold State.fenceSpur
  repeat' with_reducible first | assumption | apply ite_kept | apply State.stopSpurWork_kept | apply State.put_kept | apply State.fencePhys_kept | apply State.seekSpur_kept | apply State.service_kept
theorem State.noteSub_kept (h : Kept Q C s) (kind : Nat) (unit : Nat) (old : Nat) (new : Nat) (cause : Nat) (cl : Nat) : Kept Q C (State.noteSub s kind unit old new cause cl) := by
  unfold State.noteSub
  repeat' with_reducible first | assumption | apply State.put_kept | apply State.bump_kept | apply State.service_kept
theorem State.restorePad_kept (h : Kept Q C s) (n : Nat) : Kept Q C (State.restorePad s n) := by
  unfold State.restorePad
  repeat' with_reducible first | assumption | intro _ | apply foldl_kept | apply State.memWr_kept | apply State.poisonKeep_kept | apply State.memKeep_kept
theorem State.commitCore_kept (h : Kept Q C s) (n : Nat) : Kept Q C (State.commitCore s n) := by
  unfold State.commitCore
  repeat' first | (with_reducible first | assumption | apply State.restorePad_kept | apply State.setCore_kept | apply State.put_kept | apply State.noteSub_kept) | split
theorem State.commitSpur_kept (h : Kept Q C s) (n : Nat) : Kept Q C (State.commitSpur s n) := by
  unfold State.commitSpur
  repeat' first | (with_reducible first | assumption | intro _ | apply foldl_kept | apply State.setThread_kept | apply State.fillLocked_kept | apply State.setSpur_kept | apply State.put_kept | apply State.noteSub_kept) | split
theorem State.missEntry_kept (h : Kept Q C s) (p : Nat) (e : Nat) (x : ColSlot) : Kept Q C (State.missEntry s p e x) := by
  unfold State.missEntry
  repeat' with_reducible first | assumption | apply State.missed_kept | apply State.setSlot_kept
theorem State.missEvent_kept (h : Kept Q C s) (p : Nat) (e : Nat) (x : ColSlot) : Kept Q C (State.missEvent s p e x) := by
  unfold State.missEvent
  repeat' with_reducible first | assumption | apply State.event_kept | apply State.missEntry_kept
theorem State.yieldLane_kept (h : Kept Q C s) (p : Nat) (l : Nat) (cyc : Nat) : Kept Q C (State.yieldLane s p l cyc) := by
  unfold State.yieldLane
  repeat' with_reducible first | assumption | intro _ | apply ite_kept | apply foldl_kept | apply State.interruptTile_kept
theorem State.runEntry_kept (h : Kept Q C s) (p : Nat) (e : Nat) (cyc : Nat) (x : ColSlot) : Kept Q C (State.runEntry s p e cyc x) := by
  unfold State.runEntry
  repeat' with_reducible first | assumption | apply ite_kept | apply State.setSlot_kept | apply State.missEvent_kept | apply State.endRec_kept | apply State.descFailed_kept | apply State.missEntry_kept | apply State.fenceCore_kept | apply State.put_kept | apply State.tileBegin_kept | apply State.jobRec_kept | apply State.startJob_kept | apply State.dmaBegin_kept | apply State.fhStart_kept | apply State.event_kept | apply State.missedFh_kept
theorem State.radioStart_kept (h : Kept Q none s) (p : Nat) (e : Nat) (cyc : Nat) : Kept Q none (State.radioStart s p e cyc) := by
  unfold State.radioStart
  repeat' first | (with_reducible first | assumption | apply ite_kept | apply State.atCyc_kept | apply State.missEvent_kept | apply State.missEntry_kept | apply State.runEntry_kept | apply State.yieldLane_kept) | split
theorem execRadioWindowStart_kept (h : Kept Q none s) (p : Fin 8) (e : Fin 4096) (cyc : Fin 412501) : Keeps Q none (execRadioWindowStart p e cyc s) := by
  unfold execRadioWindowStart
  repeat' with_reducible first | assumption | apply State.radioStart_kept | apply Keeps.next
theorem State.entryEnds_kept (h : Kept Q C s) (p : Nat) (e : Nat) (since : Nat) (x : ColSlot) (cyc : Nat) : ∀ t_, State.entryEnds s p e since x cyc = some t_ → Kept Q C t_ := by
  unfold State.entryEnds
  repeat' first | (with_reducible first | assumption | apply State.tileDone_kept) | grind (splits := 20) [State.tileDone_kept, State.dbgEvent_kept, State.missed_kept, State.cutRadioJob_kept, State.fhEnd_kept, Keeps.next, getD_kept, foldl_kept, foldl_kept1]
theorem State.noteOverrun_kept (h : Kept Q C s) (p : Nat) (e : Nat) (x : ColSlot) : Kept Q C (State.noteOverrun s p e x) := by
  unfold State.noteOverrun
  repeat' with_reducible first | assumption | apply ite_kept | apply State.setPart_kept | apply State.bump_kept | apply State.put_kept | apply State.service_kept
theorem State.radioEnd_kept (h : Kept Q none s) (p : Nat) (e : Nat) (cyc : Nat) (ue : Bool) : Kept Q none (State.radioEnd s p e cyc ue) := by
  unfold State.radioEnd
  repeat' first | (with_reducible first | assumption | apply State.atCyc_kept | apply State.fenceCore_kept | apply State.put_kept | apply State.fenceSpur_kept | apply State.setSlot_kept | apply State.noteOverrun_kept) | with_reducible refine State.entryEnds_kept ?_ _ _ _ _ _ _ (by assumption) | split
theorem execRadioWindowEnd_kept (h : Kept Q none s) (p : Fin 8) (e : Fin 4096) (x : Finish) : Keeps Q none (execRadioWindowEnd p e x s) := by
  unfold execRadioWindowEnd
  repeat' with_reducible first | assumption | apply State.radioEnd_kept | apply Keeps.next
theorem State.startItem_kept (h : Kept Q C s) (p : Nat) (i : Nat) (cyc : Nat) (it : WlItem) : Kept Q C (State.startItem s p i cyc it) := by
  unfold State.startItem
  repeat' with_reducible first | assumption | apply ite_kept | apply State.modItem_kept | apply State.put_kept | apply State.katThreads_kept | apply State.failItem_kept | apply State.endRec_kept | apply State.descFailed_kept | apply State.fenceCore_kept | apply State.tileBegin_kept | apply State.jobRec_kept | apply State.startJob_kept | apply State.dmaBegin_kept
theorem State.itemStart_kept (h : Kept Q none s) (p : Nat) (i : Nat) (cyc : Nat) : Kept Q none (State.itemStart s p i cyc) := by
  unfold State.itemStart
  repeat' first | (with_reducible first | assumption | apply ite_kept | apply State.startItem_kept | apply State.atCyc_kept | apply State.modItem_kept) | split
theorem execLaneItemStart_kept (h : Kept Q none s) (p : Fin 8) (i : Fin 2048) (cyc : Fin 412501) : Keeps Q none (execLaneItemStart p i cyc s) := by
  unfold execLaneItemStart
  repeat' with_reducible first | assumption | apply State.itemStart_kept | apply Keeps.next
theorem execTileAbort_kept (h : Kept Q none s) (p : Fin 8) (i : Fin 2048) (cyc : Fin 412501) (x : TileStop) : Keeps Q none (execTileAbort p i cyc x s) := by
  unfold execTileAbort
  repeat' first | (with_reducible first | assumption | apply State.abortTile_kept | apply State.atCyc_kept | apply State.fenceCore_kept | apply Keeps.next) | split
theorem execTileEnd_kept (h : Kept Q none s) (p : Fin 8) (i : Fin 2048) (x : Finish) : Keeps Q none (execTileEnd p i x s) := by
  unfold execTileEnd
  repeat' first | (with_reducible first | assumption | apply ite_kept | apply State.atCyc_kept | apply State.fenceCore_kept | apply State.put_kept | apply State.abortTile_kept | apply State.finishTile_kept | apply Keeps.next) | split
theorem State.jobEnd_kept (h : Kept Q C s) (n : Nat) (t : Nat) : Kept Q C (State.jobEnd s n t) := by
  unfold State.jobEnd
  repeat' first | (with_reducible first | assumption | intro _ | apply foldl_kept | apply State.bump_kept | apply State.count_kept | apply State.drainStores_kept | apply State.writeLine_kept | apply State.jobRec_kept | apply State.clearJob_kept | apply State.event_kept | apply State.missed_kept | apply State.failItem_kept | apply State.settle_kept | apply State.modItem_kept) | split | dsimp only
theorem State.stopWork_kept (h : Kept Q C s) (p : Nat) (cyc : Nat) (why : AbortPoint) : Kept Q C (State.stopWork s p cyc why) := by
  unfold State.stopWork
  repeat' with_reducible first | assumption | intro _ | apply ite_kept | apply foldl_kept | apply State.jobEnd_kept | apply State.abortJob_kept | apply State.interruptTile_kept | apply State.requeue_kept | apply State.katThreads_kept
theorem execJobEnd_kept (h : Kept Q none s) (n : Fin 512) (t : Fin 8) (x : Finish) : Keeps Q none (execJobEnd n t x s) := by
  unfold execJobEnd
  repeat' with_reducible first | assumption | apply ite_kept | apply State.atCyc_kept | apply State.fenceSpur_kept | apply State.put_kept | apply State.jobEnd_kept | apply Keeps.next
theorem execJobAbort_kept (h : Kept Q none s) (n : Fin 512) (t : Fin 8) (cyc : Fin 412501) (why : AbortPoint) : Keeps Q none (execJobAbort n t cyc why s) := by
  unfold execJobAbort
  repeat' first | (with_reducible first | assumption | apply State.abortJob_kept | apply State.atCyc_kept | apply Keeps.next) | split
theorem execDmaTransferStart_kept (h : Kept Q C s) (p : Fin 8) (eng : Fin 16) (desc : Addr) : Keeps Q C (execDmaTransferStart p eng desc s) := by
  unfold execDmaTransferStart
  repeat' first | (with_reducible first | assumption | apply ite_kept | apply State.dmaBegin_kept | apply State.missEntry_kept | apply State.failItem_kept | apply Keeps.next) | split
theorem State.dmaPosted_kept (h : Kept Q C s) (p : Nat) (x : Dma) (st : Nat) (lane : Nat) : Kept Q C (State.dmaPosted s p x st lane) := by
  unfold State.dmaPosted
  repeat' first | (with_reducible first | assumption | apply ite_kept | apply State.endRec_kept | apply State.missed_kept | apply State.failItem_kept | apply State.settle_kept | apply State.modItem_kept) | split
theorem execDmaTransferEnd_kept (h : Kept Q C s) (p : Fin 8) (eng : Fin 16) (k : Nat) : Keeps Q C (execDmaTransferEnd p eng k s) := by
  unfold execDmaTransferEnd
  repeat' first | (with_reducible first | assumption | apply State.dmaPosted_kept) | grind (splits := 20) [State.dmaFinish_kept, State.dmaPosted_kept, Keeps.next, getD_kept, foldl_kept, foldl_kept1]
theorem execFenceReq_kept (h : Kept Q C s) (wr : Writer) (n : Fin 128) : Keeps Q C (execFenceReq wr n s) := by
  unfold execFenceReq
  repeat' with_reducible first | assumption | apply ite_kept | apply State.fenceCore_kept | apply Keeps.next
theorem execRadioHang_kept (h : Kept Q C s) (n : Fin 128) : Keeps Q C (execRadioHang n s) := by
  unfold execRadioHang
  repeat' first | (with_reducible first | assumption | apply State.event_kept | apply State.fenceCore_kept | apply State.put_kept | apply Keeps.next) | split
theorem State.askKat_kept (h : Kept Q C s) (u : Nat) : Kept Q C (State.askKat s u) := by
  unfold State.askKat
  repeat' with_reducible first | assumption | apply ite_kept | apply State.setPart_kept
theorem execKatNow_kept (h : Kept Q C s) (wr : Writer) (n : Fin 128) : Keeps Q C (execKatNow wr n s) := by
  unfold execKatNow
  repeat' with_reducible first | assumption | apply ite_kept | apply State.askKat_kept | apply Keeps.next
theorem execSpurKatNow_kept (h : Kept Q C s) (wr : Writer) (n : Fin 512) : Keeps Q C (execSpurKatNow wr n s) := by
  unfold execSpurKatNow
  repeat' with_reducible first | assumption | apply ite_kept | apply State.askKat_kept | apply Keeps.next
theorem execKatPeriodExpiry_kept (h : Kept Q C s) : Keeps Q C (execKatPeriodExpiry s) := by
  unfold execKatPeriodExpiry
  repeat' with_reducible first | assumption | intro _ | apply ite_kept | apply foldl_kept | apply State.askKat_kept | apply Keeps.next
theorem execKatEnd_kept (h : Kept Q none s) (u : UnitName) (x : KatResult) : Keeps Q none (execKatEnd u x s) := by
  unfold execKatEnd
  repeat' first | (with_reducible first | assumption | apply State.modItem_kept | apply State.atCyc_kept | apply State.bump_kept | apply State.put_kept | apply State.fenceCore_kept | apply State.katThreads_kept | apply State.fenceSpur_kept | apply Keeps.next) | split | dsimp only
theorem execSpurFenceReq_kept (h : Kept Q C s) (wr : Writer) (n : Fin 512) : Keeps Q C (execSpurFenceReq wr n s) := by
  unfold execSpurFenceReq
  repeat' with_reducible first | assumption | apply ite_kept | apply State.fenceSpur_kept | apply Keeps.next
theorem execSpurRadioHang_kept (h : Kept Q C s) (n : Fin 512) : Keeps Q C (execSpurRadioHang n s) := by
  unfold execSpurRadioHang
  repeat' with_reducible first | assumption | apply ite_kept | apply State.event_kept | apply State.fenceSpur_kept | apply State.put_kept | apply Keeps.next
theorem execSpareSubstitutionCommit_kept (h : Kept Q C s) (n : Fin 128) : Keeps Q C (execSpareSubstitutionCommit n s) := by
  unfold execSpareSubstitutionCommit
  repeat' with_reducible first | assumption | apply ite_kept | apply State.commitCore_kept | apply Keeps.next
theorem execSpurSubstitution_kept (h : Kept Q C s) (n : Fin 512) : Keeps Q C (execSpurSubstitution n s) := by
  unfold execSpurSubstitution
  repeat' with_reducible first | assumption | apply ite_kept | apply State.commitSpur_kept | apply Keeps.next
theorem execGcbRgnWrite_kept (h : Kept Q C s) (wr : Writer) (n : Fin 512) (j : Fin 4) (lim : Bool) (value : Addr) : Keeps Q C (execGcbRgnWrite wr n j lim value s) := by
  unfold execGcbRgnWrite
  repeat' with_reducible first | assumption | apply ite_kept | apply State.put_kept | apply State.orf_kept | apply Keeps.next
theorem State.setKey_kept (h : Kept Q C s) (k : Nat) (x : KeySlot) : Kept Q C (State.setKey s k x) := by
  unfold State.setKey
  repeat' with_reducible first | assumption | apply ite_kept | apply State.withKeys_kept | apply State.put_kept
theorem State.showPend_kept (h : Kept Q C s) : Kept Q C (State.showPend s) := by
  unfold State.showPend
  repeat' with_reducible first | assumption | apply State.put_kept
theorem State.loadKey_kept (h : Kept Q C s) (k : Nat) : Kept Q C (State.loadKey s k) := by
  unfold State.loadKey
  repeat' with_reducible first | assumption | apply ite_kept | apply State.showPend_kept | apply State.bump_kept | apply State.setKey_kept
theorem State.firstKey_kept (h : Kept Q C s) (k : Nat) : Kept Q C (State.firstKey s k) := by
  unfold State.firstKey
  repeat' with_reducible first | assumption | apply ite_kept | apply State.showPend_kept | apply State.bump_kept | apply State.setKey_kept
theorem State.emptyKey_kept (h : Kept Q C s) (k : Nat) : Kept Q C (State.emptyKey s k) := by
  unfold State.emptyKey
  repeat' with_reducible first | assumption | apply State.setKey_kept
theorem State.pendingKeys_kept (h : Kept Q C s) : Kept Q C (State.pendingKeys s) := by
  unfold State.pendingKeys
  repeat' with_reducible first | assumption | intro _ | apply ite_kept | apply foldl_kept | apply State.loadKey_kept | apply State.firstKey_kept
theorem execKeyLoad_kept (h : Kept Q C s) (slot : Fin 8192) : Keeps Q C (execKeyLoad slot s) := by
  unfold execKeyLoad
  repeat' with_reducible first | assumption | apply ite_kept | apply State.loadKey_kept | apply Keeps.next
theorem State.reroute_kept (h : Kept Q C s) (rs : List Nat) : Kept Q C (State.reroute s rs) := by
  unfold State.reroute
  repeat' with_reducible first | assumption | intro _ | apply foldl_kept | apply State.drawn_kept | apply State.put_kept
theorem State.nocOpen_kept (h : Kept Q C s) (h : NocHdr) : Kept Q C (State.nocOpen s h) := by
  unfold State.nocOpen
  repeat' with_reducible first | assumption | apply ite_kept | apply State.withNocReqs_kept
theorem State.nocHop_kept (h : Kept Q C s) (r : Nat) (h : NocHdr) (fs : List Nat) : Kept Q C (State.nocHop s r h fs) := by
  unfold State.nocHop
  repeat' first | (with_reducible first | assumption | apply State.emit_kept) | split | dsimp only
theorem State.nocAnswer_kept (h : Kept Q C s) (h : NocHdr) (op : Nat) (status : Nat) (data : List (List Byte × Bool)) : Kept Q C (State.nocAnswer s h op status data) := by
  unfold State.nocAnswer
  repeat' with_reducible first | assumption | apply ite_kept | apply State.count_kept | apply State.emit_kept
theorem State.nocPerform_kept (h : Kept Q none s) (h : NocHdr) (data : List (List Byte × Bool)) : Kept Q none (State.nocPerform s h data) := by
  unfold State.nocPerform
  repeat' with_reducible first | assumption | intro _ | apply ite_kept | apply foldl_kept | apply State.noteAbsorb_kept | apply State.count_kept | apply State.nocAnswer_kept | apply State.rdRecord_kept | apply State.regWrite_kept | apply State.store_kept | apply State.poisonRange_kept | apply State.drawn_kept
theorem State.nocDeliver_kept (h : Kept Q none s) (h : NocHdr) (data : List (List Byte × Bool)) : Kept Q none (State.nocDeliver s h data) := by
  unfold State.nocDeliver
  repeat' first | (with_reducible first | assumption | apply ite_kept | apply State.nocAnswer_kept | apply State.bump_kept | apply State.nocPerform_kept | apply State.emit_kept | apply State.withNocReqs_kept) | split
theorem execNocPacket_kept (h : Kept Q none s) (r : Fin 32) (header : BitVec 288) (data : List (BitVec 288)) : Keeps Q none (execNocPacket r header data s) := by
  unfold execNocPacket
  repeat' first | (with_reducible first | assumption | apply State.nocOpen_kept | apply State.nocHop_kept | apply State.nocDeliver_kept | apply State.bump_kept | apply State.put_kept | apply Keeps.next) | split | dsimp only
theorem execNocTimeout_kept (h : Kept Q C s) (src : BitVec 12) (txn : BitVec 16) : Keeps Q C (execNocTimeout src txn s) := by
  unfold execNocTimeout
  repeat' with_reducible first | assumption | apply ite_kept | apply State.emit_kept | apply State.withNocReqs_kept | apply Keeps.next
theorem State.rowError_kept (h : Kept Q C s) (a : Nat) : Kept Q C (State.rowError s a) := by
  unfold State.rowError
  repeat' with_reducible first | assumption | apply ite_kept | apply State.withSramErrs_kept | apply State.defect_kept
theorem State.sramLost_kept (h : Kept Q C s) (a : Nat) : Kept Q C (State.sramLost s a) := by
  unfold State.sramLost
  repeat' first | (with_reducible first | assumption | apply State.withSramUe_kept | apply State.poisonRange_kept | apply State.bump_kept | apply State.fenceCore_kept | apply State.put_kept) | split | dsimp only
theorem execSramScrub_kept (h : Kept Q C s) (addr : Addr) (word : BitVec 288) : Keeps Q C (execSramScrub addr word s) := by
  unfold execSramScrub
  repeat' first | (with_reducible first | assumption | apply ite_kept | apply State.rowError_kept | apply State.bump_kept | apply State.sramWr_kept | apply State.poisonRange_kept | apply State.sramLost_kept | apply Keeps.next) | split
theorem State.failDevice_kept (h : Kept Q C s) (m : Nat) (b : Nat) : Kept Q C (State.failDevice s m b) := by
  unfold State.failDevice
  repeat' with_reducible first | assumption | apply State.orf_kept | apply State.put_kept | apply State.defect_kept | apply State.service_kept
theorem State.devError_kept (h : Kept Q C s) (m : Nat) (b : Nat) (line : Nat) : Kept Q C (State.devError s m b line) := by
  unfold State.devError
  repeat' with_reducible first | assumption | apply ite_kept | apply State.withDevErrs_kept | apply State.failDevice_kept
theorem State.patrolLost_kept (h : Kept Q C s) (line : Nat) (copy : Option Bool) (a : Bool) (b : Bool) (poisoned : Bool) : Kept Q C (State.patrolLost s line copy a b poisoned) := by
  unfold State.patrolLost
  repeat' first | (with_reducible first | assumption | apply State.withBadCopy_kept | apply State.poisonRange_kept) | split
theorem State.patrolFound_kept (h : Kept Q C s) (m : Nat) (line : Nat) (base : Nat) (tag : Nat) (copy : Option Bool) (fa : PatrolFind) (fb : PatrolFind) : Kept Q C (State.patrolFound s m line base tag copy fa fb) := by
  unfold State.patrolFound
  repeat' with_reducible first | assumption | intro _ | apply ite_kept | apply foldl_kept | apply State.bump_kept | apply State.put_kept | apply State.patrolLost_kept | apply State.devError_kept
theorem State.patrolLine_kept (h : Kept Q C s) (m : Nat) (rank : Nat) (line : Nat) (burst : Nat) : Kept Q C (State.patrolLine s m rank line burst) := by
  unfold State.patrolLine
  cases s.patrolAt (line * 64) m with
  | none => exact h
  | some x => exact ite_kept h (State.patrolFound_kept h _ _ _ _ _ _ _)
theorem execDramPatrol_kept (h : Kept Q C s) (m : Fin 24) (rank : Fin 2) (addr : Addr) (lo hi : BitVec 320) : Keeps Q C (execDramPatrol m rank addr lo hi s) := by
  unfold execDramPatrol
  repeat' with_reducible first | assumption | apply State.patrolLine_kept | apply Keeps.next
theorem State.refuseAdm_kept (h : Kept Q C s) (p : Nat) : Kept Q C (State.refuseAdm s p) := by
  unfold State.refuseAdm
  repeat' with_reducible first | assumption | apply State.put_kept
theorem execChannelLost_kept (h : Kept Q C s) (m : Fin 24) : Keeps Q C (execChannelLost m s) := by
  unfold execChannelLost
  repeat' with_reducible first | assumption | intro _ | apply ite_kept | apply foldl_kept | apply State.put_kept | apply State.defect_kept | apply State.service_kept | apply State.refuseAdm_kept | apply State.askFreeze_kept | apply Keeps.next
theorem State.stopCore_kept (h : Kept Q C s) (n : Nat) : Kept Q C (State.stopCore s n) := by
  unfold State.stopCore
  repeat' with_reducible first | assumption | apply State.stopCoreWork_kept | apply State.tileOver_kept
theorem State.stopSpur_kept (h : Kept Q C s) (n : Nat) : Kept Q C (State.stopSpur s n) := by
  unfold State.stopSpur
  repeat' with_reducible first | assumption | apply State.stopSpurWork_kept
theorem State.loseCluster_kept (h : Kept Q C s) (cl : Nat) : Kept Q C (State.loseCluster s cl) := by
  unfold State.loseCluster
  repeat' with_reducible first | assumption | intro _ | apply foldl_kept | apply State.loseSpur_kept | apply State.stopSpur_kept | apply State.loseCore_kept | apply State.stopCore_kept
theorem execRouterFailure_kept (h : Kept Q C s) (r : Fin 32) : Keeps Q C (execRouterFailure r s) := by
  unfold execRouterFailure
  repeat' with_reducible first | assumption | intro _ | apply ite_kept | apply foldl_kept | apply State.put_kept | apply State.defect_kept | apply State.service_kept | apply State.loseCluster_kept | apply State.reroute_kept | apply Keeps.next

end Sys2Proof.Machine
end

