-- ==== Sys2Proof/Laws/KeepServing.lean ====
section
/-! SUPPORT. What every operation keeps, by the serving engine and the host commands: the queue, the canonical form of the sparse maps, and, where no command
of it moves the clock, device time. -/

namespace Sys2Proof.Machine

variable {Q : List Instr} {C : Option TimeState} {s : State}

theorem State.tryGrant_kept (h : Kept Q C s) (i : Nat) (rows : Nat) (keep : List Nat) : ∀ t_, State.tryGrant s i rows keep = .ok t_ → Kept Q C t_.1 := by
  intro t ht
  unfold State.tryGrant at ht
  split at ht
  · cases ht
    exact h
  · split at ht
    · cases ht
      exact h
    · dsimp only at ht
      split at ht
      · cases ht
      · split at ht
        · cases ht
        · rename_i es s1 h1
          cases ht
          have hs : Kept Q C s1 := State.allocMany_kept h _ _ _ _ _ _ _ h1
          exact State.modSeq_kept (ite_kept (State.drawn_kept hs) hs) _ _
theorem State.dropFor_kept (h : Kept Q C s) (p : Nat) (n : Nat) : Kept Q C (State.dropFor s p n) := by
  unfold State.dropFor
  repeat' with_reducible first | assumption | apply State.dropNode_kept | apply State.setPart_kept
theorem State.reclaim_kept (h : Kept Q C s) (p : Nat) (c : Nat) (need : Nat) (a_4 : Nat) : Kept Q C (State.reclaim s p c need a_4) := by
  induction a_4 generalizing s with
  | zero => exact h
  | succ n ih =>
    unfold State.reclaim
    repeat' first | (with_reducible first | assumption | apply ih | apply State.dropFor_kept) | split
theorem State.reclaimOwn_kept (h : Kept Q C s) (p : Nat) (sl : Nat) (units : Nat) (a_4 : Nat) : Kept Q C (State.reclaimOwn s p sl units a_4) := by
  induction a_4 generalizing s with
  | zero => exact h
  | succ n ih =>
    unfold State.reclaimOwn
    repeat' first | (with_reducible first | assumption | apply ih | apply State.dropFor_kept) | split | dsimp only
theorem State.startSpill_kept (h : Kept Q C s) (p : Nat) (d : Nat) (seq : Option Nat) (node : Option Nat) (page : Nat) (es : List PageEnt) : Kept Q C (State.startSpill s p d seq node page es) := by
  unfold State.startSpill
  repeat' first | (with_reducible first | assumption | apply State.withSpills_kept) | with_reducible refine State.allocMany_kept ?_ _ _ _ _ _ _ _ (by assumption) | split | dsimp only
theorem State.startSpills_kept (h : Kept Q C s) (p : Nat) (c : Nat) (lack : Nat) : Kept Q C (State.startSpills s p c lack) := by
  unfold State.startSpills
  repeat' first | (with_reducible first | assumption | intro _ | apply foldl_kept | apply State.startSpill_kept) | split
theorem State.serveNeed_kept (h : Kept Q C s) (p : Nat) (c : Nat) (sl : Nat) (need : Nat) (reason : Nat) : Kept Q C (State.serveNeed s p c sl need reason) := by
  unfold State.serveNeed
  repeat' with_reducible first | assumption | apply ite_kept | apply State.reclaimOwn_kept | apply State.reclaim_kept | apply State.startSpills_kept
theorem State.serveSeq_kept (h : Kept Q C s) (i : Nat) (rows : Nat) (reason : Nat) : Kept Q C (State.serveSeq s i rows reason) := by
  unfold State.serveSeq
  repeat' first | (with_reducible first | assumption | apply State.serveNeed_kept) | split
theorem State.toPageWait_kept (h : Kept Q C s) (i : Nat) : Kept Q C (State.toPageWait s i) := by
  unfold State.toPageWait
  repeat' with_reducible first | assumption | apply State.modSeq_kept
theorem State.serveWait_kept (h : Kept Q C s) (i : Nat) : Kept Q C (State.serveWait s i) := by
  have hm : ∀ q : Seq, Kept Q C (if s.waitRuns q.part then s.modSeq i fun q => { q with wait := satAdd 16 q.wait 1 } else s) :=
    fun q => ite_kept (State.modSeq_kept h _ _) h
  have hg : ∀ {s : State}, Kept Q C s → ∀ rows t, (match s.tryGrant i rows [] with
      | .ok (s', cow) => some ((cow.foldl (fun s c => s.decRef c.2.2) s').modSeq i fun q => { q with st := q.resume, wait := 0 })
      | .error _ => none) = some t → Kept Q C t := by
    intro s hs rows t ht
    split at ht
    · rename_i s1 cow h1
      cases ht
      exact State.modSeq_kept (foldl_kept (fun s c h => State.decRef_kept h _) _ (State.tryGrant_kept hs _ _ _ _ h1)) _ _
    · cases ht
  unfold State.serveWait
  split
  · exact h
  · refine ite_kept h ?_
    dsimp only
    split
    · split
      · split
        · exact hm _
        · split
          · rename_i es s1 h1
            exact State.modSeq_kept (foldl_kept (fun s n h => State.useNode_kept h _ _) _ (State.shareEntries_kept h _ _ _ h1)) _ _
          · exact hm _
      · exact hm _
    · split
      · rename_i h1
        exact hg h _ _ h1
      · split
        · rename_i h1
          exact hg (State.serveSeq_kept h _ _ _) _ _ h1
        · exact ite_kept (State.modSeq_kept (State.serveSeq_kept h _ _ _) _ _) (State.serveSeq_kept h _ _ _)
theorem State.serveMoving_kept (h : Kept Q C s) (i : Nat) : Kept Q C (State.serveMoving s i) := by
  unfold State.serveMoving
  repeat' first | (with_reducible first | assumption | apply State.startMove_kept | apply State.modSeq_kept) | split
theorem State.pageService_kept (h : Kept Q C s) (p : Nat) : Kept Q C (State.pageService s p) := by
  unfold State.pageService
  repeat' with_reducible first | assumption | intro _ | apply foldl_kept | apply State.serveWait_kept | apply State.serveMoving_kept
theorem State.countWaiting_kept (h : Kept Q C s) (p : Nat) : Kept Q C (State.countWaiting s p) := by
  unfold State.countWaiting
  repeat' with_reducible first | assumption | apply State.put_kept
theorem State.grantAll_kept (h : Kept Q C s) (ws : List (Nat × Nat × Nat)) (a_2 : List (Nat × Nat)) : ∀ t_, State.grantAll s ws a_2 = .ok t_ → Kept Q C t_.1 := by
  induction a_2 generalizing s with
  | nil =>
    intro t ht
    cases ht
    exact h
  | cons r rs ih =>
    intro t ht
    unfold State.grantAll at ht
    split at ht
    · cases ht
    · rename_i s1 c h1
      split at ht
      · cases ht
      · rename_i s2 cs h2
        cases ht
        have h3 := ih (State.tryGrant_kept h _ _ _ _ h1) _ h2
        exact h3
theorem State.reserveBatch_kept (h : Kept Q C s) (b : List (Nat × Nat)) (a_2 : Nat) : Kept Q C (State.reserveBatch s b a_2).1 := by
  induction a_2 generalizing s b with
  | zero => exact h
  | succ n ih =>
    unfold State.reserveBatch
    split
    · rename_i s1 cow h1
      have h3 := State.grantAll_kept h _ _ _ h1
      exact h3
    · dsimp only
      split
      · rename_i s1 cow h1
        have h3 := State.grantAll_kept (State.serveSeq_kept h _ _ _) _ _ _ h1
        exact h3
      · have hf := fun (l : List (Nat × Nat)) i r w => foldl_kept (g := fun (s : State) (r : Nat × Nat) => s.freeEntry r.1) (fun s r h => State.freeEntry_kept h r.1) l (State.serveSeq_kept h i r w)
        split
        · exact ih (State.freeEntry_kept (hf _ _ _ _) _) _
        · split
          · exact ih (hf _ _ _ _) _
          · exact ih (State.toPageWait_kept (hf _ _ _ _) _) _
theorem State.newColumn_kept (h : Kept Q C s) (p : Nat) (es : List ColSlot) : Kept Q C (State.newColumn s p es) := by
  unfold State.newColumn
  repeat' with_reducible first | assumption | apply State.setPart_kept | apply State.withJobs_kept | apply State.withDmas_kept | apply State.withFhBufs_kept
theorem State.fetchColumn_kept (h : Kept Q C s) (p : Nat) : Kept Q C (State.fetchColumn s p) := by
  unfold State.fetchColumn
  repeat' with_reducible first | assumption | intro _ | apply ite_kept | apply foldl_kept | apply State.newColumn_kept | apply State.put_kept | apply State.bump_kept | apply State.event_kept | apply State.missed_kept
theorem State.stopAtEdge_kept (h : Kept Q none s) (p : Nat) : Kept Q none (State.stopAtEdge s p) := by
  unfold State.stopAtEdge
  repeat' with_reducible first | assumption | intro _ | apply ite_kept | apply foldl_kept | apply State.stopWork_kept | apply State.atCyc_kept | apply State.missEntry_kept | apply State.missEvent_kept | apply State.noteOverrun_kept
theorem State.beginCarry_kept (h : Kept Q C s) (p : Nat) : Kept Q C (State.beginCarry s p) := by
  unfold State.beginCarry
  repeat' with_reducible first | assumption | apply State.withPasses_kept | apply State.withDmas_kept | apply State.setPart_kept
theorem State.append_kept (h : Kept Q C s) (p : Nat) (b : Builder) (it : WlItem) (words : List Nat) (endAt : Nat) : ∀ t_, State.append s p b it words endAt = some t_ → Kept Q C t_.1 := by
  unfold State.append
  repeat' first | (with_reducible first | assumption | apply State.store_kept) | grind (splits := 20) [State.store_kept, Keeps.next, getD_kept, foldl_kept, foldl_kept1]
theorem State.placeItem_kept (h : Kept Q C s) (p : Nat) (b : Builder) (lanes : List Nat) (threads : Nat) (need : Nat) (it : WlItem) (words : List Nat) : ∀ t_, State.placeItem s p b lanes threads need it words = .ok t_ → Kept Q C t_.1 := by
  intro t_ ht
  unfold State.placeItem at ht
  dsimp only at ht
  split at ht
  · cases ht
  · split at ht
    · cases ht
    · rename_i h1
      cases ht
      have h3 := State.append_kept h _ _ _ _ _ _ h1
      exact h3
theorem State.placeCarried_kept (h : Kept Q C s) (p : Nat) (b : Builder) (x : WlItem × List Nat) : Kept Q C (State.placeCarried s p b x).1 := by
  unfold State.placeCarried
  repeat' first | (with_reducible first | assumption) | with_reducible refine State.placeItem_kept ?_ _ _ _ _ _ _ _ _ (by assumption) | with_reducible refine State.append_kept ?_ _ _ _ _ _ _ (by assumption) | split | dsimp only
theorem State.placeKat_kept (h : Kept Q C s) (p : Nat) (b : Builder) (u : Nat) : Kept Q C (State.placeKat s p b u).1 := by
  unfold State.placeKat
  repeat' first | (with_reducible first | assumption) | with_reducible refine State.placeItem_kept ?_ _ _ _ _ _ _ _ _ (by assumption) | split | dsimp only
theorem State.placeTemplate_kept (h : Kept Q C s) (p : Nat) (b : Builder) (x : Pass) (prev : Nat) (placed : List (Nat × Nat × Nat)) (k : Nat) (t : ItemTemplate) : ∀ t_, State.placeTemplate s p b x prev placed k t = .ok t_ → Kept Q C t_.1 := by
  unfold State.placeTemplate
  dsimp only
  split
  · intro t ht
    cases ht
    exact h
  · refine foldl_keep (P := fun r : Except Bool (State × Builder × List (Nat × Nat × Nat)) => ∀ t, r = .ok t → Kept Q C t.1) (fun r c hr => ?_) _ ?_
    · intro t ht
      split at ht
      · cases ht
      · have hs := hr _ rfl
        split at ht
        · cases ht
        · rename_i h1
          cases ht
          have h3 := State.placeItem_kept hs _ _ _ _ _ _ _ _ h1
          exact h3
    · intro t ht
      cases ht
      exact h
theorem State.placeCopies_kept (h : Kept Q C s) (p : Nat) (b : Builder) (x : Pass) : ∀ t_, State.placeCopies s p b x = .ok t_ → Kept Q C t_.1 := by
  refine foldl_keep (P := fun r : Except Bool (State × Builder × Nat) => ∀ t, r = .ok t → Kept Q C t.1) (fun r c hr => ?_) _ ?_
  · intro t ht
    split at ht
    · cases ht
    · have hs := hr _ rfl
      split at ht
      · cases ht
        exact hs
      · dsimp only at ht
        split at ht
        · cases ht
        · rename_i h1
          cases ht
          exact State.bump_kept (State.placeItem_kept hs _ _ _ _ _ _ _ _ h1) _ _ _
  · intro t ht
    cases ht
    exact h
theorem State.placeStage_kept (h : Kept Q C s) (p : Nat) (b : Builder) (x : Pass) (prev : Nat) (st : StageTemplate) : ∀ t_, State.placeStage s p b x prev st = .ok t_ → Kept Q C t_.1 := by
  have hf : ∀ (l : List (ItemTemplate × Nat)) {s : State} {b : Builder} {prev : Nat} {pl : List (Nat × Nat × Nat)}, Kept Q C s → ∀ t,
      l.foldl (fun acc t => match acc with
        | Except.error f => Except.error f
        | Except.ok (s, b, placed) => s.placeTemplate p b x prev placed t.2 t.1) (Except.ok (s, b, pl)) = Except.ok t → Kept Q C t.1 := by
    intro l s b prev pl h
    refine foldl_keep (P := fun r : Except Bool (State × Builder × List (Nat × Nat × Nat)) => ∀ t, r = .ok t → Kept Q C t.1) (fun r c hr => ?_) _ ?_
    · intro t ht
      split at ht
      · cases ht
      · exact State.placeTemplate_kept (hr _ rfl) _ _ _ _ _ _ _ _ ht
    · intro t ht
      cases ht
      exact h
  intro t_ ht
  unfold State.placeStage at ht
  split at ht
  · cases ht
  · rename_i s1 b1 prev1 h1
    have hs : Kept Q C s1 := by
      split at h1
      · exact State.placeCopies_kept h _ _ _ _ h1
      · cases h1
        exact h
    dsimp only at ht
    split at ht
    · cases ht
    · rename_i h2
      cases ht
      exact hf _ hs _ h2
theorem State.placeStages_kept (h : Kept Q C s) (p : Nat) (b : Builder) (x : Pass) (prev : Nat) (a_5 : List StageTemplate) : Kept Q C (State.placeStages s p b x prev a_5).1 := by
  induction a_5 generalizing s b x prev with
  | nil => exact h
  | cons st rest ih =>
    unfold State.placeStages
    split
    · exact ite_kept h (State.bump_kept h _ _ _)
    · rename_i h1
      exact ih (State.placeStage_kept h _ _ _ _ _ _ h1) _ _ _
theorem State.showPass_kept (h : Kept Q C s) (x : Pass) : Kept Q C (State.showPass s x) := by
  unfold State.showPass
  repeat' first | (with_reducible first | assumption | intro _ | apply foldl_kept | apply State.setFrame_kept | apply State.setSeq_kept) | split
theorem State.setPass_kept (h : Kept Q C s) (x : Pass) : Kept Q C (State.setPass s x) := by
  unfold State.setPass
  repeat' with_reducible first | assumption | apply State.withPasses_kept
theorem State.splitPass_kept (h : Kept Q C s) (x : Pass) : Kept Q C (State.splitPass s x).1 := by
  unfold State.splitPass
  repeat' first | (with_reducible first | assumption | apply State.setPass_kept | apply State.withNextPass_kept | apply State.withPasses_kept) | split | dsimp only
theorem State.goOn_kept (h : Kept Q C s) (p : Nat) (b : Builder) (x0 : Pass) : Kept Q C (State.goOn s p b x0).1 := by
  unfold State.goOn
  repeat' first | (with_reducible first | assumption | apply State.showPass_kept) | grind (splits := 20) [State.splitPass_kept, State.placeStages_kept, State.showPass_kept, State.setPass_kept, Keeps.next, getD_kept, foldl_kept, foldl_kept1]
theorem State.forkBranches_kept (h : Kept Q C s) (md : Model) (batch : List (Nat × Nat)) : Kept Q C (State.forkBranches s md batch).1 := by
  unfold State.forkBranches
  refine foldl_kept1 (fun a r ha => ?_) _ h
  split
  · exact ha
  · refine foldl_kept1 (fun a j ha => ?_) _ ha
    split
    · exact ha
    · split
      · exact ha
      · rename_i es s1 h1
        exact State.pin_kept (State.newEntry_kept (foldl_kept (fun s n h => State.useNode_kept h _ _) _ (State.shareEntries_kept ha _ _ _ h1)) _) _
theorem State.startPass_kept (h : Kept Q C s) (p : Nat) (b : Builder) (k : BatchKey) : Kept Q C (State.startPass s p b k).1 := by
  unfold State.startPass
  repeat' first | (with_reducible first | assumption | apply State.decRef_kept) | grind (splits := 20) [State.forkBranches_kept, State.reserveBatch_kept, State.decRef_kept, State.freeEntry_kept, State.placeStages_kept, State.bump_kept, State.withNextPass_kept, State.withPasses_kept, State.showPass_kept, Keeps.next, getD_kept, foldl_kept, foldl_kept1]
theorem State.startPasses_kept (h : Kept Q C s) (p : Nat) (b : Builder) (k : BatchKey) (a_4 : Nat) : Kept Q C (State.startPasses s p b k a_4).1 := by
  induction a_4 generalizing s b with
  | zero => exact h
  | succ n ih =>
    unfold State.startPasses
    have hp := State.startPass_kept h p b k
    split
    · exact h
    · split
      · rename_i h1
        rw [h1] at hp
        exact ih hp _
      · rename_i h1
        rw [h1] at hp
        exact hp
theorem State.startKind_kept (h : Kept Q C s) (p : Nat) (b : Builder) (pre : Bool) : Kept Q C (State.startKind s p b pre).1 := by
  unfold State.startKind
  repeat' first | (with_reducible first | assumption) | grind (splits := 20) [State.startPasses_kept, Keeps.next, getD_kept, foldl_kept, foldl_kept1]
theorem State.restartPasses_kept (h : Kept Q C s) (p : Nat) : Kept Q C (State.restartPasses s p) := by
  unfold State.restartPasses
  repeat' with_reducible first | assumption | apply ite_kept | apply State.withPasses_kept
theorem State.publish_kept (h : Kept Q C s) (p : Nat) (b : Builder) : Kept Q C (State.publish s p b) := by
  unfold State.publish
  repeat' with_reducible first | assumption | apply ite_kept | apply State.setPart_kept | apply State.bump_kept | apply State.put_kept
theorem State.buildStep_kept (h : Kept Q C s) (p : Nat) : Kept Q C (State.buildStep s p) := by
  unfold State.buildStep
  repeat' first | (with_reducible first | assumption | apply ite_kept | apply foldl_kept) | grind (splits := 20) [State.beginCarry_kept, State.publish_kept, State.placeCarried_kept, State.placeKat_kept, State.setPart_kept, State.goOn_kept, State.startKind_kept, State.applyFreeze_kept, State.failItem_kept, State.settle_kept, Keeps.next, getD_kept, foldl_kept, foldl_kept1]
theorem State.prefixLookup_kept (h : Kept Q C s) (i : Nat) : Kept Q C (State.prefixLookup s i) := by
  unfold State.prefixLookup
  repeat' first | (with_reducible first | assumption | apply State.lookup_kept | apply State.notice_kept | apply State.modSeq_kept | apply State.dueForks_kept) | split
theorem execPrefixLookup_kept (h : Kept Q C s) (idx : Fin 262144) : Keeps Q C (execPrefixLookup idx s) := by
  unfold execPrefixLookup
  repeat' with_reducible first | assumption | apply State.prefixLookup_kept | apply Keeps.next
theorem State.moveFrame_kept (h : Kept Q C s) (old : PageEnt) (new : PageEnt) : Kept Q C (State.moveFrame s old new) := by
  unfold State.moveFrame
  repeat' with_reducible first | assumption | apply State.copyFrame_kept | apply State.setFrame_kept | apply State.withPasses_kept | apply State.withNodes_kept | apply State.withSeqs_kept | apply State.freeFrame_kept
theorem State.commitSpill_kept (h : Kept Q C s) (k : Nat) : Kept Q C (State.commitSpill s k) := by
  unfold State.commitSpill
  repeat' first | (with_reducible first | assumption | intro _ | apply ite_kept | apply foldl_kept | apply State.withSpills_kept | apply State.decRef_kept | apply State.bump_kept | apply State.chargeCopy_kept | apply State.moveFrame_kept | apply State.setLru_kept | apply State.settleNode_kept | apply State.setNode_kept) | split
theorem execSpillCommit_kept (h : Kept Q C s) (k : Nat) : Keeps Q C (execSpillCommit k s) := by
  unfold execSpillCommit
  repeat' with_reducible first | assumption | intro _ | apply State.atBoundary_kept | apply State.commitSpill_kept | apply Keeps.next
theorem State.exhaust_kept (h : Kept Q C s) (i : Nat) : Kept Q C (State.exhaust s i) := by
  unfold State.exhaust
  repeat' first | (with_reducible first | assumption | apply ite_kept | apply State.bump_kept | apply State.put_kept | apply State.countWaiting_kept | apply State.freezeNotice_kept) | split
theorem execPageWaitExhausted_kept (h : Kept Q C s) (idx : Fin 262144) : Keeps Q C (execPageWaitExhausted idx s) := by
  unfold execPageWaitExhausted
  repeat' with_reducible first | assumption | intro _ | apply State.atBoundary_kept | apply State.exhaust_kept | apply Keeps.next
theorem State.commitPeerSpill_kept (h : Kept Q C s) (i : Nat) (node : Nat) (frames : List Nat) : Kept Q C (State.commitPeerSpill s i node frames) := by
  unfold State.commitPeerSpill
  repeat' first | (with_reducible first | assumption | intro _ | apply foldl_kept | apply State.setSeq_kept | apply State.decRef_kept | apply State.bump_kept | apply State.count_kept) | split | dsimp only
theorem execPeerSpillCommit_kept (h : Kept Q C s) (idx : Fin 262144) (node : BitVec 16) (frames : List (BitVec 28)) : Keeps Q C (execPeerSpillCommit idx node frames s) := by
  unfold execPeerSpillCommit
  repeat' with_reducible first | assumption | intro _ | apply State.atBoundary_kept | apply State.commitPeerSpill_kept | apply Keeps.next
theorem State.commitMove_kept (h : Kept Q C s) (i : Nat) : Kept Q C (State.commitMove s i) := by
  unfold State.commitMove
  repeat' first | (with_reducible first | assumption | intro _ | apply foldl_kept | apply State.chargeCopy_kept | apply State.copyFrame_kept | apply State.decRef_kept | apply State.useNode_kept | apply State.setSeq_kept | apply State.put_kept | apply State.bump_kept | apply State.applyFreeze_kept) | split
theorem execMoveCommit_kept (h : Kept Q C s) (idx : Fin 262144) : Keeps Q C (execMoveCommit idx s) := by
  unfold execMoveCommit
  repeat' with_reducible first | assumption | intro _ | apply State.atBoundary_kept | apply State.commitMove_kept | apply Keeps.next
theorem State.moveOff_kept (h : Kept Q C s) (p : Nat) (r : Nat) : Kept Q C (State.moveOff s p r) := by
  unfold State.moveOff
  repeat' with_reducible first | assumption | intro _ | apply foldl_kept | apply State.startMove_kept | apply State.modSeq_kept
theorem State.commitRole_kept (h : Kept Q C s) (p : Nat) : Kept Q C (State.commitRole s p) := by
  unfold State.commitRole
  repeat' with_reducible first | assumption | apply ite_kept | apply State.event_kept | apply State.put_kept | apply State.moveOff_kept
theorem State.askRole_kept (h : Kept Q C s) (p : Nat) (r : Nat) : Kept Q C (State.askRole s p r) := by
  unfold State.askRole
  repeat' with_reducible first | assumption | apply ite_kept | apply State.put_kept
theorem execRoleChange_kept (h : Kept Q C s) (x : RoleAsk) : Keeps Q C (execRoleChange x s) := by
  unfold execRoleChange
  repeat' with_reducible first | assumption | intro _ | apply State.atBoundary_kept | apply State.askRole_kept | apply State.commitRole_kept | apply Keeps.next
theorem execCancellationApply_kept (h : Kept Q C s) (idx : Fin 262144) : Keeps Q C (execCancellationApply idx s) := by
  unfold execCancellationApply
  repeat' with_reducible first | assumption | intro _ | apply State.atBoundary_kept | apply State.applyCancel_kept | apply Keeps.next
theorem execSequenceFreeze_kept (h : Kept Q C s) (idx : Fin 262144) : Keeps Q C (execSequenceFreeze idx s) := by
  unfold execSequenceFreeze
  repeat' with_reducible first | assumption | intro _ | apply State.atBoundary_kept | apply State.applyFreeze_kept | apply Keeps.next
theorem execSequenceEnd_kept (h : Kept Q C s) (idx : Fin 262144) : Keeps Q C (execSequenceEnd idx s) := by
  unfold execSequenceEnd
  repeat' with_reducible first | assumption | intro _ | apply State.atBoundary_kept | apply State.endSeq_kept | apply Keeps.next
theorem State.boundary_kept (h : Kept Q C s) (p : Nat) : Kept Q C (State.boundary s p) := by
  unfold State.boundary
  repeat' with_reducible first | assumption | intro _ | apply foldl_kept | apply State.restartPasses_kept | apply State.applyCancel_kept | apply State.applyFreeze_kept | apply State.commitRole_kept
theorem State.stepTick_kept (h : Kept Q C s) (p : Nat) : Kept Q C (State.stepTick s p) := by
  unfold State.stepTick
  repeat' with_reducible first | assumption | apply State.setPart_kept | apply State.buildStep_kept | apply State.countWaiting_kept | apply State.pageService_kept
theorem State.openBoundary_kept (h : Kept Q C s) (p : Nat) : Kept Q C (State.openBoundary s p) := by
  unfold State.openBoundary
  repeat' with_reducible first | assumption | apply ite_kept | apply State.setPart_kept | apply State.boundary_kept
theorem execPassCommit_kept (h : Kept Q C s) (p : Fin 8) (b : Nat) (results : List SeqResult) (beams : List BeamCand) : Keeps Q C (execPassCommit p b results beams s) := by
  unfold execPassCommit
  repeat' with_reducible first | assumption | intro _ | apply ite_kept | apply State.atBoundary_kept | apply State.passCommit_kept | apply State.boundary_kept | apply State.setPart_kept | apply State.stepTick_kept | apply Keeps.next
theorem State.replaceScope_kept (h : Kept Q C s) (k : Nat) : Kept Q C (State.replaceScope s k) := by
  unfold State.replaceScope
  repeat' with_reducible first | assumption | intro _ | apply ite_kept | apply foldl_kept | apply State.withScopesDead_kept | apply State.emptyKey_kept | apply State.loadKey_kept | apply State.freeFrame_kept | apply State.withHeldFrames_kept
theorem execScopeKeyReplace_kept (h : Kept Q C s) (scope : Fin 8191) : Keeps Q C (execScopeKeyReplace scope s) := by
  unfold execScopeKeyReplace
  repeat' with_reducible first | assumption | apply State.replaceScope_kept | apply Keeps.next
theorem State.energySlice_kept (h : Kept Q C s) (sl : Nat) (nj : Nat) : Kept Q C (State.energySlice s sl nj) := by
  unfold State.energySlice
  repeat' with_reducible first | assumption | apply State.count_kept | apply State.setSlice_kept
theorem State.energyDev_kept (h : Kept Q C s) (nj : Nat) : Kept Q C (State.energyDev s nj) := by
  unfold State.energyDev
  repeat' with_reducible first | assumption | apply State.bump_kept | apply State.withMgt_kept
theorem State.energyRadio_kept (h : Kept Q C s) (nj : Nat) : Kept Q C (State.energyRadio s nj) := by
  unfold State.energyRadio
  repeat' with_reducible first | assumption | apply State.bump_kept | apply State.withMgt_kept
theorem State.energyDomain_kept (h : Kept Q C s) (x : EnergySample) : Kept Q C (State.energyDomain s x) := by
  unfold State.energyDomain
  repeat' with_reducible first | assumption | intro _ | apply ite_kept | apply foldl_kept | apply State.energyDev_kept | apply State.energySlice_kept | apply State.energyRadio_kept
theorem State.limitStep_kept (h : Kept Q C s) (pw : Nat) : Kept Q C (State.limitStep s pw) := by
  unfold State.limitStep
  repeat' first | (with_reducible first | assumption | intro _ | apply foldl_kept | apply State.put_kept | apply State.putS_kept | apply State.bump_kept | apply State.withMgt_kept | apply State.service_kept | apply State.stage_kept) | split
theorem execEnergyInterval_kept (h : Kept Q C s) (samples : List EnergySample) (pinW : Nat) : Keeps Q C (execEnergyInterval samples pinW s) := by
  unfold execEnergyInterval
  repeat' with_reducible first | assumption | intro _ | apply ite_kept | apply foldl_kept | apply State.limitStep_kept | apply State.energyDomain_kept | apply Keeps.next
theorem State.setDelta_kept (h : Kept Q C s) (k : Nat) (d : Delta) : Kept Q C (State.setDelta s k d) := by
  unfold State.setDelta
  repeat' with_reducible first | assumption | apply State.withDeltas_kept
theorem State.activateDelta_kept (h : Kept Q C s) (k : Nat) : Kept Q C (State.activateDelta s k) := by
  unfold State.activateDelta
  repeat' first | (with_reducible first | assumption | apply State.withDeltas_kept | apply State.setDelta_kept | apply State.finish_kept) | split
theorem execDeltaActivate_kept (h : Kept Q C s) (slot : Fin 65536) : Keeps Q C (execDeltaActivate slot s) := by
  unfold execDeltaActivate
  repeat' with_reducible first | assumption | intro _ | apply ite_kept | apply State.atBoundary_kept | apply State.activateDelta_kept | apply Keeps.next
theorem State.freeingDelta_kept (h : Kept Q C s) (k : Nat) : Kept Q C (State.freeingDelta s k) := by
  unfold State.freeingDelta
  repeat' first | (with_reducible first | assumption | apply State.dropNodes_kept | apply State.setDelta_kept) | split
theorem execDeltaFreeing_kept (h : Kept Q C s) (slot : Fin 65536) : Keeps Q C (execDeltaFreeing slot s) := by
  unfold execDeltaFreeing
  repeat' with_reducible first | assumption | intro _ | apply State.atBoundary_kept | apply State.freeingDelta_kept | apply Keeps.next
theorem State.freeDelta_kept (h : Kept Q C s) (k : Nat) : Kept Q C (State.freeDelta s k) := by
  unfold State.freeDelta
  repeat' first | (with_reducible first | assumption | intro _ | apply foldl_kept | apply State.withDeltas_kept | apply State.finish_kept) | split
theorem execDeltaSlotFree_kept (h : Kept Q C s) (slot : Fin 65536) : Keeps Q C (execDeltaSlotFree slot s) := by
  unfold execDeltaSlotFree
  repeat' with_reducible first | assumption | intro _ | apply State.atBoundary_kept | apply State.freeDelta_kept | apply Keeps.next
theorem State.stepDelta_kept (h : Kept Q C s) (k : Nat) : Kept Q C (State.stepDelta s k) := by
  unfold State.stepDelta
  repeat' with_reducible first | assumption | apply State.freeingDelta_kept | apply State.freeDelta_kept
theorem execAcctSnapshot_kept (h : Kept Q C s) (wr : Writer) (sl : Fin 4096) : Keeps Q C (execAcctSnapshot wr sl s) := by
  unfold execAcctSnapshot
  repeat' with_reducible first | assumption | intro _ | apply ite_kept | apply foldl_kept | apply State.put_kept | apply Keeps.next
theorem execKvSnapshot_kept (h : Kept Q C s) (wr : Writer) (model : BitVec 16) : Keeps Q C (execKvSnapshot wr model s) := by
  unfold execKvSnapshot
  repeat' with_reducible first | assumption | apply ite_kept | apply State.put_kept | apply Keeps.next
theorem State.reach_kept (h : Kept Q none s) (due : Nat) : ∀ t_, State.reach s due = some t_ → Kept Q none t_ := by
  unfold State.reach
  repeat' first | (with_reducible first | assumption | apply State.setTime_kept) | grind (splits := 20) [State.setTime_kept, Keeps.next, getD_kept, foldl_kept, foldl_kept1]
theorem State.viaWindow_kept (h : Kept Q C s) (k : Nat) (fn : Nat) (go : State → State) (h3 : ∀ (x0 : State), Kept Q C x0 → Kept Q C (go x0)) : Kept Q C (State.viaWindow s k fn go) := by
  unfold State.viaWindow
  repeat' first | (with_reducible first | assumption | apply State.put_kept) | grind (splits := 20) [State.put_kept, Keeps.next, getD_kept, foldl_kept, foldl_kept1]
theorem State.tailBell_kept (h : Kept Q C s) (k : Nat) (tail : Nat) : Kept Q C (State.tailBell s k tail) := by
  unfold State.tailBell
  repeat' with_reducible first | assumption | apply ite_kept | apply State.ringPut_kept | apply State.setRing_kept
theorem execSqTailDoorbell_kept (h : Kept Q C s) (r : RingAt) (tail : BitVec 32) : Keeps Q C (execSqTailDoorbell r tail s) := by
  unfold execSqTailDoorbell
  repeat' with_reducible first | assumption | intro _ | apply State.viaWindow_kept | apply State.tailBell_kept | apply Keeps.next
theorem State.headBell_kept (h : Kept Q C s) (k : Nat) (head : Nat) : Kept Q C (State.headBell s k head) := by
  unfold State.headBell
  repeat' with_reducible first | assumption | apply ite_kept | apply State.ringPut_kept
theorem execCqHeadDoorbell_kept (h : Kept Q C s) (r : RingAt) (head : BitVec 32) : Keeps Q C (execCqHeadDoorbell r head s) := by
  unfold execCqHeadDoorbell
  repeat' with_reducible first | assumption | intro _ | apply State.viaWindow_kept | apply State.headBell_kept | apply Keeps.next
theorem State.ringConfig_kept (h : Kept Q C s) (k : Nat) (v : Nat) : Kept Q C (State.ringConfig s k v) := by
  unfold State.ringConfig
  repeat' with_reducible first | assumption | apply ite_kept | apply State.ringPut_kept | apply State.setRing_kept
theorem execRingConfigWrite_kept (h : Kept Q C s) (r : RingAt) (value : Word) : Keeps Q C (execRingConfigWrite r value s) := by
  unfold execRingConfigWrite
  repeat' with_reducible first | assumption | intro _ | apply State.viaWindow_kept | apply State.ringConfig_kept | apply Keeps.next
theorem State.postWaiting_kept (h : Kept Q C s) (k : Nat) : Kept Q C (State.postWaiting s k) := by
  unfold State.postWaiting
  repeat' first | (with_reducible first | assumption | apply State.postCq_kept | apply State.setRing_kept | apply State.drainEvents_kept) | split
theorem execNoticePost_kept (h : Kept Q C s) (r : RingName) : Keeps Q C (execNoticePost r s) := by
  unfold execNoticePost
  repeat' with_reducible first | assumption | apply State.postWaiting_kept | apply Keeps.next
theorem State.coalExpire_kept (h : Kept Q none s) (k : Nat) : Kept Q none (State.coalExpire s k) := by
  unfold State.coalExpire
  repeat' first | (with_reducible first | assumption | intro _ | apply State.fireRing_kept | apply getD_kept) | with_reducible refine State.reach_kept ?_ _ _ (by assumption) | split | with_reducible refine map_kept ?_ ?_ _ (by assumption)
theorem execCoalTimerExpiry_kept (h : Kept Q none s) (r : RingName) : Keeps Q none (execCoalTimerExpiry r s) := by
  unfold execCoalTimerExpiry
  repeat' with_reducible first | assumption | apply State.coalExpire_kept | apply Keeps.next
theorem execNegotiate_kept (h : Kept Q C s) (x : PartyAt) (major minor : BitVec 8) : Keeps Q C (execNegotiate x major minor s) := by
  unfold execNegotiate
  repeat' first | (with_reducible first | assumption | intro _ | apply State.viaWindow_kept | apply State.put_kept | apply State.settleNeg_kept | apply State.withCtlNegPend_kept | apply State.setSlice_kept | apply Keeps.next) | split
theorem execHeartbeat_kept (h : Kept Q C s) (x : SliceAt) : Keeps Q C (execHeartbeat x s) := by
  unfold execHeartbeat
  repeat' with_reducible first | assumption | intro _ | apply ite_kept | apply State.viaWindow_kept | apply State.setSlice_kept | apply Keeps.next
theorem State.freezeSlice_kept (h : Kept Q C s) (n : Nat) : Kept Q C (State.freezeSlice s n) := by
  unfold State.freezeSlice
  repeat' with_reducible first | assumption | intro _ | apply ite_kept | apply foldl_kept | apply State.setSlice_kept | apply State.askFreeze_kept
theorem State.closeRing_kept (h : Kept Q C s) (k : Nat) : Kept Q C (State.closeRing s k) := by
  unfold State.closeRing
  repeat' with_reducible first | assumption | apply State.put_kept | apply State.ringPut_kept | apply State.setRing_kept
theorem State.startScrub_kept (h : Kept Q C s) (n : Nat) (empty : Bool) : Kept Q C (State.startScrub s n empty) := by
  unfold State.startScrub
  repeat' with_reducible first | assumption | intro _ | apply ite_kept | apply foldl_kept | apply State.setSliceState_kept | apply State.withDeltas_kept | apply State.withCopies_kept | apply State.withThaws_kept | apply State.withCmds_kept | apply State.askCancel_kept | apply State.setSlice_kept | apply State.each_kept | apply State.closeRing_kept | apply State.withScopesDead_kept | apply State.dropNodes_kept
theorem State.detach_kept (h : Kept Q C s) (n : Nat) : Kept Q C (State.detach s n) := by
  unfold State.detach
  repeat' with_reducible first | assumption | apply ite_kept | apply State.setSliceState_kept | apply State.freezeSlice_kept | apply State.setSlice_kept | apply State.eventEntry_kept | apply State.startScrub_kept
theorem execHeartbeatTimeout_kept (h : Kept Q C s) (n : Fin 4096) : Keeps Q C (execHeartbeatTimeout n s) := by
  unfold execHeartbeatTimeout
  repeat' with_reducible first | assumption | intro _ | apply ite_kept | apply State.atBoundary_kept | apply State.detach_kept | apply Keeps.next
theorem execCtlHeartbeatTimeout_kept (h : Kept Q C s) : Keeps Q C (execCtlHeartbeatTimeout s) := by
  unfold execCtlHeartbeatTimeout
  repeat' first | (with_reducible first | assumption | apply ite_kept | apply State.eventEntry_kept | apply State.withCtlHb_kept | apply Keeps.next) | split
theorem execAttach_kept (h : Kept Q C s) (x : SliceAt) : Keeps Q C (execAttach x s) := by
  unfold execAttach
  repeat' with_reducible first | assumption | intro _ | apply ite_kept | apply State.viaWindow_kept | apply State.setSlice_kept | apply State.put_kept | apply State.drawn_kept | apply State.eventEntry_kept | apply State.setSliceState_kept | apply Keeps.next
theorem execGraceExpiry_kept (h : Kept Q none s) (n : Fin 4096) : Keeps Q none (execGraceExpiry n s) := by
  unfold execGraceExpiry
  repeat' first | (with_reducible first | assumption | intro _ | apply ite_kept | apply State.startScrub_kept | apply getD_kept | apply Keeps.next) | with_reducible refine State.reach_kept ?_ _ _ (by assumption) | with_reducible refine map_kept ?_ ?_ _ (by assumption)
theorem execScrubEnd_kept (h : Kept Q C s) (n : Fin 4096) : Keeps Q C (execScrubEnd n s) := by
  unfold execScrubEnd
  repeat' with_reducible first | assumption | apply ite_kept | apply State.replaceScope_kept | apply State.setSlice_kept | apply State.put_kept | apply State.eventEntry_kept | apply State.setSliceState_kept | apply Keeps.next
theorem State.modSlice_kept (h : Kept Q C s) (n : Nat) (f : Slice → Slice) : Kept Q C (State.modSlice s n f) := by
  unfold State.modSlice
  repeat' with_reducible first | assumption | apply State.setSlice_kept
theorem State.restoreLive_kept (h : Kept Q C s) (n : Nat) : Kept Q C (State.restoreLive s n) := by
  unfold State.restoreLive
  repeat' with_reducible first | assumption | intro _ | apply foldl_kept | apply State.sramWr_kept | apply State.setCore_kept
theorem State.applyThaws_kept (h : Kept Q C s) : Kept Q C (State.applyThaws s) := by
  unfold State.applyThaws
  repeat' first | (with_reducible first | assumption | intro _ | apply foldl_kept | apply State.finish_kept | apply State.thawNow_kept | apply State.modSeq_kept | apply State.withThaws_kept | apply State.modSlice_kept | apply State.restoreLive_kept) | split
theorem execGenerate_kept (h : Kept Q C s) (sl : Fin 4096) (r : Fin 16) (e : Entry) : Keeps Q C (execGenerate sl r e s) := by
  unfold execGenerate
  repeat' with_reducible first | assumption | apply State.queueEntry_kept | apply Keeps.next
theorem State.cmdCancel_kept (h : Kept Q C s) (k : Nat) (x : SubEntry) : Kept Q C (State.cmdCancel k x s) := by
  unfold State.cmdCancel
  repeat' first | (with_reducible first | assumption | intro _ | apply foldl_kept | apply State.checked_kept | apply State.complete_kept | apply State.askCancel_kept) | split
theorem execCancel_kept (h : Kept Q C s) (sl : Fin 4096) (r : Fin 16) (e : Entry) : Keeps Q C (execCancel sl r e s) := by
  unfold execCancel
  repeat' with_reducible first | assumption | intro _ | apply State.submit_kept | apply State.cmdCancel_kept | apply Keeps.next
theorem State.cmdFreezeSeq_kept (h : Kept Q C s) (k : Nat) (x : SubEntry) : Kept Q C (State.cmdFreezeSeq k x s) := by
  unfold State.cmdFreezeSeq
  repeat' first | (with_reducible first | assumption | intro _ | apply State.checked_kept | apply State.complete_kept | apply State.askFreeze_kept) | split
theorem execFreezeSeq_kept (h : Kept Q C s) (sl : Fin 4096) (r : Fin 16) (e : Entry) : Keeps Q C (execFreezeSeq sl r e s) := by
  unfold execFreezeSeq
  repeat' with_reducible first | assumption | intro _ | apply State.submit_kept | apply State.cmdFreezeSeq_kept | apply Keeps.next
theorem State.cmdThaw_kept (h : Kept Q C s) (k : Nat) (x : SubEntry) : Kept Q C (State.cmdThaw k x s) := by
  unfold State.cmdThaw
  repeat' first | (with_reducible first | assumption | intro _ | apply ite_kept | apply State.checked_kept | apply State.complete_kept | apply State.withThaws_kept) | split
theorem execThaw_kept (h : Kept Q C s) (sl : Fin 4096) (r : Fin 16) (e : Entry) : Keeps Q C (execThaw sl r e s) := by
  unfold execThaw
  repeat' with_reducible first | assumption | intro _ | apply State.submit_kept | apply State.cmdThaw_kept | apply Keeps.next
theorem State.answerHost_kept (h : Kept Q C s) (k : Nat) (x : SubEntry) (addr : Nat) (bs : List Byte) : Kept Q C (State.answerHost s k x addr bs) := by
  unfold State.answerHost
  repeat' first | (with_reducible first | assumption | apply State.complete_kept | apply State.count_kept) | with_reducible refine State.hostWr_kept ?_ _ _ _ _ (by assumption) | split
theorem State.cmdQuerySeq_kept (h : Kept Q C s) (k : Nat) (x : SubEntry) : Kept Q C (State.cmdQuerySeq k x s) := by
  unfold State.cmdQuerySeq
  repeat' first | (with_reducible first | assumption | intro _ | apply State.checked_kept | apply State.complete_kept | apply State.answerHost_kept) | split
theorem execQuerySeq_kept (h : Kept Q C s) (sl : Fin 4096) (r : Fin 16) (e : Entry) : Keeps Q C (execQuerySeq sl r e s) := by
  unfold execQuerySeq
  repeat' with_reducible first | assumption | intro _ | apply State.submit_kept | apply State.cmdQuerySeq_kept | apply Keeps.next
theorem State.copyLocal_kept (h : Kept Q C s) (k : Nat) (x : SubEntry) (host : Nat) (a : Nat) (n : Nat) (key : Nat) (out : Bool) : Kept Q C (State.copyLocal s k x host a n key out) := by
  unfold State.copyLocal
  repeat' first | (with_reducible first | assumption | apply ite_kept | apply State.complete_kept | apply State.rdRecord_kept | apply State.answerHost_kept | apply State.count_kept | apply State.store_kept) | split
theorem State.copyRemote_kept (h : Kept Q C s) (k : Nat) (x : SubEntry) (host : Nat) (g : Nat) (n : Nat) (key : Nat) (out : Bool) : Kept Q C (State.copyRemote s k x host g n key out) := by
  unfold State.copyRemote
  repeat' with_reducible first | assumption | apply ite_kept | apply State.complete_kept | apply State.put_kept | apply State.withCopies_kept | apply State.copyTurn_kept | apply State.copyPump_kept | apply State.count_kept
theorem State.cmdCopy_kept (h : Kept Q C s) (k : Nat) (x : SubEntry) : Kept Q C (State.cmdCopy k x s) := by
  unfold State.cmdCopy
  repeat' first | (with_reducible first | assumption | intro _ | apply ite_kept | apply State.checked_kept | apply State.complete_kept | apply State.copyLocal_kept | apply State.copyRemote_kept) | split
theorem execCopy_kept (h : Kept Q C s) (sl : Fin 4096) (r : Fin 16) (e : Entry) : Keeps Q C (execCopy sl r e s) := by
  unfold execCopy
  repeat' with_reducible first | assumption | intro _ | apply State.submit_kept | apply State.cmdCopy_kept | apply Keeps.next
theorem State.cmdRegionSet_kept (h : Kept Q C s) (k : Nat) (x : SubEntry) : Kept Q C (State.cmdRegionSet k x s) := by
  unfold State.cmdRegionSet
  repeat' with_reducible first | assumption | intro _ | apply State.checked_kept | apply State.complete_kept | apply State.setSlice_kept
theorem execRegionSet_kept (h : Kept Q C s) (sl : Fin 4096) (r : Fin 16) (e : Entry) : Keeps Q C (execRegionSet sl r e s) := by
  unfold execRegionSet
  repeat' with_reducible first | assumption | intro _ | apply State.submit_kept | apply State.cmdRegionSet_kept | apply Keeps.next
theorem State.commitRegions_kept (h : Kept Q C s) : Kept Q C (State.commitRegions s) := by
  unfold State.commitRegions
  repeat' with_reducible first | assumption | apply State.withSlices_kept
theorem State.cmdAcctRead_kept (h : Kept Q C s) (k : Nat) (x : SubEntry) : Kept Q C (State.cmdAcctRead k x s) := by
  unfold State.cmdAcctRead
  repeat' with_reducible first | assumption | intro _ | apply State.checked_kept | apply State.answerHost_kept
theorem execAcctRead_kept (h : Kept Q C s) (sl : Fin 4096) (r : Fin 16) (e : Entry) : Keeps Q C (execAcctRead sl r e s) := by
  unfold execAcctRead
  repeat' with_reducible first | assumption | intro _ | apply State.submit_kept | apply State.cmdAcctRead_kept | apply Keeps.next
theorem State.takeDelta_kept (h : Kept Q C s) (k : Nat) (sl : Nat) (model : Nat) (variant : Nat) (group : Nat) (img : List Byte) (cmd : Option (Nat × Nat × Nat)) : Kept Q C (State.takeDelta s k sl model variant group img cmd) := by
  unfold State.takeDelta
  repeat' with_reducible first | assumption | apply State.withLoads_kept | apply State.setDelta_kept
theorem State.cmdDeltaLoad_kept (h : Kept Q C s) (k : Nat) (x : SubEntry) : Kept Q C (State.cmdDeltaLoad k x s) := by
  unfold State.cmdDeltaLoad
  repeat' first | (with_reducible first | assumption | intro _ | apply ite_kept | apply State.checked_kept | apply State.complete_kept | apply State.count_kept | apply State.takeDelta_kept) | split
theorem execDeltaLoad_kept (h : Kept Q C s) (sl : Fin 4096) (r : Fin 16) (e : Entry) : Keeps Q C (execDeltaLoad sl r e s) := by
  unfold execDeltaLoad
  repeat' with_reducible first | assumption | intro _ | apply State.submit_kept | apply State.cmdDeltaLoad_kept | apply Keeps.next
theorem State.cancelPinned_kept (h : Kept Q C s) (k : Nat) : Kept Q C (State.cancelPinned s k) := by
  unfold State.cancelPinned
  repeat' with_reducible first | assumption | apply State.withSeqs_kept
theorem State.cmdDeltaRetire_kept (h : Kept Q C s) (k : Nat) (x : SubEntry) : Kept Q C (State.cmdDeltaRetire k x s) := by
  unfold State.cmdDeltaRetire
  repeat' first | (with_reducible first | assumption | intro _ | apply ite_kept | apply State.checked_kept | apply State.complete_kept | apply State.onlyIf_kept | apply State.setDelta_kept | apply State.cancelPinned_kept) | split
theorem execDeltaRetire_kept (h : Kept Q C s) (sl : Fin 4096) (r : Fin 16) (e : Entry) : Keeps Q C (execDeltaRetire sl r e s) := by
  unfold execDeltaRetire
  repeat' with_reducible first | assumption | intro _ | apply State.submit_kept | apply State.cmdDeltaRetire_kept | apply Keeps.next
theorem State.commitForced_kept (h : Kept Q C s) : Kept Q C (State.commitForced s) := by
  unfold State.commitForced
  repeat' with_reducible first | assumption | intro _ | apply foldl_kept | apply State.cancelPinned_kept | apply State.setDelta_kept
theorem State.cmdDeltaQuery_kept (h : Kept Q C s) (k : Nat) (x : SubEntry) : Kept Q C (State.cmdDeltaQuery k x s) := by
  unfold State.cmdDeltaQuery
  repeat' first | (with_reducible first | assumption | intro _ | apply ite_kept | apply State.checked_kept | apply State.complete_kept | apply State.answerHost_kept) | split
theorem execDeltaQuery_kept (h : Kept Q C s) (sl : Fin 4096) (r : Fin 16) (e : Entry) : Keeps Q C (execDeltaQuery sl r e s) := by
  unfold execDeltaQuery
  repeat' with_reducible first | assumption | intro _ | apply State.submit_kept | apply State.cmdDeltaQuery_kept | apply Keeps.next
theorem State.cmdNop_kept (h : Kept Q C s) (k : Nat) (x : SubEntry) : Kept Q C (State.cmdNop k x s) := by
  unfold State.cmdNop
  repeat' with_reducible first | assumption | intro _ | apply State.checked_kept | apply State.complete_kept
theorem execNop_kept (h : Kept Q C s) (sl : Fin 4096) (r : Fin 16) (e : Entry) : Keeps Q C (execNop sl r e s) := by
  unfold execNop
  repeat' with_reducible first | assumption | intro _ | apply State.submit_kept | apply State.cmdNop_kept | apply Keeps.next
theorem State.bindSlice_kept (h : Kept Q C s) (n : Nat) (fn : Nat) (pasid : Nat) (st : Nat) : Kept Q C (State.bindSlice s n fn pasid st) := by
  unfold State.bindSlice
  repeat' with_reducible first | assumption | apply State.setSliceState_kept | apply State.put_kept | apply State.drawn_kept | apply State.firstKey_kept | apply State.setSlice_kept
theorem State.completeCookie_kept (h : Kept Q C s) (x : SubEntry) (n : Nat) : Kept Q C (State.completeCookie s x n) := by
  unfold State.completeCookie
  repeat' with_reducible first | assumption | apply State.complete_kept
theorem State.cmdSliceBind_kept (h : Kept Q C s) (x : SubEntry) : Kept Q C (State.cmdSliceBind x s) := by
  unfold State.cmdSliceBind
  repeat' with_reducible first | assumption | intro _ | apply ite_kept | apply State.checked_kept | apply State.owned_kept | apply State.complete_kept | apply State.completeCookie_kept | apply State.bindSlice_kept
theorem execSliceBind_kept (h : Kept Q C s) (e : Entry) : Keeps Q C (execSliceBind e s) := by
  unfold execSliceBind
  repeat' with_reducible first | assumption | intro _ | apply State.submit_kept | apply State.cmdSliceBind_kept | apply Keeps.next
theorem State.cmdSliceUnbind_kept (h : Kept Q C s) (x : SubEntry) : Kept Q C (State.cmdSliceUnbind x s) := by
  unfold State.cmdSliceUnbind
  repeat' first | (with_reducible first | assumption | intro _ | apply ite_kept | apply State.checked_kept | apply State.owned_kept | apply State.complete_kept | apply State.finish_kept | apply State.startScrub_kept) | split
theorem execSliceUnbind_kept (h : Kept Q C s) (e : Entry) : Keeps Q C (execSliceUnbind e s) := by
  unfold execSliceUnbind
  repeat' with_reducible first | assumption | intro _ | apply State.submit_kept | apply State.cmdSliceUnbind_kept | apply Keeps.next
theorem State.cmdSliceFreeze_kept (h : Kept Q C s) (x : SubEntry) : Kept Q C (State.cmdSliceFreeze x s) := by
  unfold State.cmdSliceFreeze
  repeat' with_reducible first | assumption | intro _ | apply ite_kept | apply State.checked_kept | apply State.owned_kept | apply State.freezeSlice_kept | apply State.setSliceState_kept | apply State.setSlice_kept | apply State.complete_kept
theorem execSliceFreeze_kept (h : Kept Q C s) (e : Entry) : Keeps Q C (execSliceFreeze e s) := by
  unfold execSliceFreeze
  repeat' with_reducible first | assumption | intro _ | apply State.submit_kept | apply State.cmdSliceFreeze_kept | apply Keeps.next
theorem execSliceFreezeComplete_kept (h : Kept Q C s) (x : FreezeEnd) : Keeps Q C (execSliceFreezeComplete x s) := by
  unfold execSliceFreezeComplete
  repeat' first | (with_reducible first | assumption | apply State.finish_kept | apply State.setSlice_kept | apply Keeps.next) | split
theorem State.cmdSliceThaw_kept (h : Kept Q C s) (x : SubEntry) : Kept Q C (State.cmdSliceThaw x s) := by
  unfold State.cmdSliceThaw
  repeat' first | (with_reducible first | assumption | intro _ | apply ite_kept | apply State.checked_kept | apply State.owned_kept | apply State.complete_kept | apply State.finish_kept | apply State.setSlice_kept | apply State.setSliceState_kept) | split
theorem execSliceThaw_kept (h : Kept Q C s) (e : Entry) : Keeps Q C (execSliceThaw e s) := by
  unfold execSliceThaw
  repeat' with_reducible first | assumption | intro _ | apply State.submit_kept | apply State.cmdSliceThaw_kept | apply Keeps.next
theorem State.cmdSliceSave_kept (h : Kept Q C s) (x : SubEntry) : Kept Q C (State.cmdSliceSave x s) := by
  unfold State.cmdSliceSave
  repeat' first | (with_reducible first | assumption | intro _ | apply State.checked_kept | apply State.owned_kept | apply State.complete_kept | apply State.drawn_kept) | with_reducible refine State.hostWr_kept ?_ _ _ _ _ (by assumption) | split | dsimp only
theorem execSliceSave_kept (h : Kept Q C s) (e : Entry) : Keeps Q C (execSliceSave e s) := by
  unfold execSliceSave
  repeat' with_reducible first | assumption | intro _ | apply State.submit_kept | apply State.cmdSliceSave_kept | apply Keeps.next
theorem State.restoreRing_kept (h : Kept Q C s) (n : Nat) (r : ImgRing) : Kept Q C (State.restoreRing s n r) := by
  unfold State.restoreRing
  repeat' with_reducible first | assumption | apply State.ringPut_kept | apply State.setRing_kept
theorem State.restoreCmd_kept (h : Kept Q C s) (n : Nat) (q : ImgSeq) : Kept Q C (State.restoreCmd s n q).2 := by
  unfold State.restoreCmd
  repeat' first | (with_reducible first | assumption | apply State.withCmds_kept | apply State.withNextCmd_kept | apply State.setRing_kept | apply State.put_kept | apply State.ringPut_kept) | split | dsimp only
theorem State.restoreSeq_kept (h : Kept Q C s) (n : Nat) (own : List (Nat × Nat)) (q : ImgSeq) : ∀ t_, State.restoreSeq s n own q = some t_ → Kept Q C t_.2 := by
  intro t_ ht
  unfold State.restoreSeq at ht
  dsimp only at ht
  split at ht
  · cases ht
  · rename_i h1
    cases ht
    dsimp only
    split
    · refine State.pin_kept (State.newEntry_kept (State.restoreCmd_kept (foldl_kept (fun s (x : PageEnt × List Byte) hs => State.store_kept hs _ _ _) _ (show Kept Q C (_, _).2 from State.allocMany_kept h _ _ _ _ _ _ _ h1)) _ _) _) _
    · exact State.newEntry_kept (State.restoreCmd_kept (foldl_kept (fun s (x : PageEnt × List Byte) hs => State.store_kept hs _ _ _) _ (show Kept Q C (_, _).2 from State.allocMany_kept h _ _ _ _ _ _ _ h1)) _ _) _
theorem State.restoreDelta_kept (h : Kept Q C s) (n : Nat) (d : ImgDelta) : ∀ t_, State.restoreDelta s n d = some t_ → Kept Q C t_.2 := by
  unfold State.restoreDelta
  repeat' first | (with_reducible first | assumption | apply State.activateDelta_kept) | grind (splits := 20) [State.activateDelta_kept, State.takeDelta_kept, Keeps.next, getD_kept, foldl_kept, foldl_kept1]
theorem State.restoreDeltas_kept (h : Kept Q C s) (n : Nat) (a_2 : List ImgDelta) : ∀ t_, State.restoreDeltas s n a_2 = some t_ → Kept Q C t_.2 := by
  induction a_2 generalizing s with
  | nil =>
    intro t ht
    cases ht
    exact h
  | cons d ds ih =>
    intro t ht
    unfold State.restoreDeltas at ht
    split at ht
    · cases ht
    · rename_i k s1 h1
      obtain ⟨r, hr, rfl⟩ := Option.map_eq_some_iff.mp ht
      have h3 := ih (State.restoreDelta_kept h _ _ _ h1) _ hr
      exact h3
theorem State.restoreSeqs_kept (h : Kept Q C s) (n : Nat) (own : List (Nat × Nat)) (a_3 : List ImgSeq) : ∀ t_, State.restoreSeqs s n own a_3 = some t_ → Kept Q C t_.2 := by
  induction a_3 generalizing s with
  | nil =>
    intro t ht
    cases ht
    exact h
  | cons d ds ih =>
    intro t ht
    unfold State.restoreSeqs at ht
    split at ht
    · cases ht
    · rename_i k s1 h1
      obtain ⟨r, hr, rfl⟩ := Option.map_eq_some_iff.mp ht
      have h3 := ih (State.restoreSeq_kept h _ _ _ _ h1) _ hr
      exact h3
theorem State.restoreAll_kept (h : Kept Q C s) (n : Nat) (img : SliceImage) : ∀ t_, State.restoreAll s n img = some t_ → Kept Q C t_.2 := by
  intro t_ ht
  unfold State.restoreAll at ht
  dsimp only at ht
  split at ht
  · cases ht
  · obtain ⟨r, hr, ht⟩ := Option.bind_eq_some_iff.mp ht
    refine State.restoreSeqs_kept (State.restoreDeltas_kept ?_ _ _ _ hr) _ _ _ _ ht
    repeat' first | with_reducible apply State.setSlice_kept | with_reducible apply State.stage_kept | with_reducible apply State.put_kept
    exact foldl_kept (fun s r hs => State.restoreRing_kept hs _ _) _ h
theorem State.cmdSliceRestore_kept (h : Kept Q C s) (x : SubEntry) : Kept Q C (State.cmdSliceRestore x s) := by
  unfold State.cmdSliceRestore
  repeat' first | (with_reducible first | assumption | intro _ | apply ite_kept | apply State.checked_kept | apply State.owned_kept | apply State.complete_kept | apply State.bindSlice_kept | apply State.completeCookie_kept) | with_reducible refine State.restoreAll_kept ?_ _ _ _ (by assumption) | with_reducible refine State.hostWr_kept ?_ _ _ _ _ (by assumption) | split
theorem execSliceRestore_kept (h : Kept Q C s) (e : Entry) (img : Option SliceImage) : Keeps Q C (execSliceRestore e img s) := by
  unfold execSliceRestore
  repeat' with_reducible first | assumption | intro _ | apply State.submit_kept | apply State.cmdSliceRestore_kept | apply Keeps.next
theorem State.setGroup_kept (h : Kept Q C s) (g : Nat) (x : Group) : Kept Q C (State.setGroup s g x) := by
  unfold State.setGroup
  repeat' with_reducible first | assumption | apply State.withGroups_kept
theorem State.cmdGroupSet_kept (h : Kept Q C s) (x : SubEntry) : Kept Q C (State.cmdGroupSet x s) := by
  unfold State.cmdGroupSet
  repeat' first | (with_reducible first | assumption | intro _ | apply ite_kept | apply State.checked_kept | apply State.owned_kept | apply State.complete_kept | apply State.firstKey_kept | apply State.setGroup_kept | apply State.withScopesDead_kept | apply State.dropNodes_kept) | split
theorem execGroupCreate_kept (h : Kept Q C s) (e : Entry) : Keeps Q C (execGroupCreate e s) := by
  unfold execGroupCreate
  repeat' with_reducible first | assumption | intro _ | apply State.submit_kept | apply State.cmdGroupSet_kept | apply Keeps.next
theorem execGroupAddSlice_kept (h : Kept Q C s) (e : Entry) : Keeps Q C (execGroupAddSlice e s) := by
  unfold execGroupAddSlice
  repeat' with_reducible first | assumption | intro _ | apply State.submit_kept | apply State.cmdGroupSet_kept | apply Keeps.next
theorem execGroupRemoveSlice_kept (h : Kept Q C s) (e : Entry) : Keeps Q C (execGroupRemoveSlice e s) := by
  unfold execGroupRemoveSlice
  repeat' with_reducible first | assumption | intro _ | apply State.submit_kept | apply State.cmdGroupSet_kept | apply Keeps.next
theorem execGroupDissolve_kept (h : Kept Q C s) (e : Entry) : Keeps Q C (execGroupDissolve e s) := by
  unfold execGroupDissolve
  repeat' with_reducible first | assumption | intro _ | apply State.submit_kept | apply State.cmdGroupSet_kept | apply Keeps.next
theorem State.cmdModelLoad_kept (h : Kept Q C s) (x : SubEntry) : Kept Q C (State.cmdModelLoad x s) := by
  unfold State.cmdModelLoad
  repeat' first | (with_reducible first | assumption | intro _ | apply ite_kept | apply foldl_kept | apply State.checked_kept | apply State.owned_kept | apply State.complete_kept | apply State.store_kept | apply State.withModels_kept) | split
theorem execModelLoad_kept (h : Kept Q C s) (e : Entry) (body : ModelBody) : Keeps Q C (execModelLoad e body s) := by
  unfold execModelLoad
  repeat' with_reducible first | assumption | intro _ | apply State.submit_kept | apply State.cmdModelLoad_kept | apply Keeps.next
theorem State.cmdModelUnload_kept (h : Kept Q C s) (x : SubEntry) : Kept Q C (State.cmdModelUnload x s) := by
  unfold State.cmdModelUnload
  repeat' with_reducible first | assumption | intro _ | apply ite_kept | apply State.checked_kept | apply State.owned_kept | apply State.complete_kept | apply State.withModels_kept
theorem execModelUnload_kept (h : Kept Q C s) (e : Entry) : Keeps Q C (execModelUnload e s) := by
  unfold execModelUnload
  repeat' with_reducible first | assumption | intro _ | apply State.submit_kept | apply State.cmdModelUnload_kept | apply Keeps.next
theorem State.cmdDomainJoin_kept (h : Kept Q C s) (x : SubEntry) : Kept Q C (State.cmdDomainJoin x s) := by
  unfold State.cmdDomainJoin
  repeat' with_reducible first | assumption | intro _ | apply ite_kept | apply State.checked_kept | apply State.owned_kept | apply State.complete_kept | apply State.put_kept | apply State.withLinks_kept | apply State.withSec_kept
theorem execDomainJoin_kept (h : Kept Q C s) (e : Entry) : Keeps Q C (execDomainJoin e s) := by
  unfold execDomainJoin
  repeat' with_reducible first | assumption | intro _ | apply State.submit_kept | apply State.cmdDomainJoin_kept | apply Keeps.next
theorem State.cmdDomainList_kept (h : Kept Q C s) (x : SubEntry) : Kept Q C (State.cmdDomainList x s) := by
  unfold State.cmdDomainList
  repeat' first | (with_reducible first | assumption | intro _ | apply ite_kept | apply foldl_kept | apply State.checked_kept | apply State.owned_kept | apply State.complete_kept | apply State.withWindows_kept | apply State.withMembers_kept | apply State.memberLost_kept | apply State.withSpares_kept | apply State.withCachePeers_kept) | split
theorem execDomainListAdd_kept (h : Kept Q C s) (e : Entry) : Keeps Q C (execDomainListAdd e s) := by
  unfold execDomainListAdd
  repeat' with_reducible first | assumption | intro _ | apply State.submit_kept | apply State.cmdDomainList_kept | apply Keeps.next
theorem execDomainListRemove_kept (h : Kept Q C s) (e : Entry) : Keeps Q C (execDomainListRemove e s) := by
  unfold execDomainListRemove
  repeat' with_reducible first | assumption | intro _ | apply State.submit_kept | apply State.cmdDomainList_kept | apply Keeps.next
theorem State.setRoute_kept (h : Kept Q C s) (w : Nat) : Kept Q C (State.setRoute s w) := by
  unfold State.setRoute
  repeat' with_reducible first | assumption | apply State.withRoutes_kept
theorem State.cmdRouteSet_kept (h : Kept Q C s) (x : SubEntry) : Kept Q C (State.cmdRouteSet x s) := by
  unfold State.cmdRouteSet
  repeat' first | (with_reducible first | assumption | intro _ | apply ite_kept | apply foldl_kept | apply State.checked_kept | apply State.owned_kept | apply State.complete_kept | apply State.setRoute_kept) | split
theorem execRouteSet_kept (h : Kept Q C s) (e : Entry) : Keeps Q C (execRouteSet e s) := by
  unfold execRouteSet
  repeat' with_reducible first | assumption | intro _ | apply State.submit_kept | apply State.cmdRouteSet_kept | apply Keeps.next

end Sys2Proof.Machine
end

