-- ==== Sys2Proof/Laws/KeepDevice.lean ====
section
/-! SUPPORT. What every operation keeps, by firmware, bring-up, resets, security, power and the tick edge: the queue, the canonical form of the sparse maps, and, where no command
of it moves the clock, device time. -/

namespace Sys2Proof.Machine

variable {Q : List Instr} {C : Option TimeState} {s : State}

theorem State.kick_kept (h : Kept Q C s) (i : Nat) : Kept Q C (State.kick s i) := by
  unfold State.kick
  repeat' with_reducible first | assumption | apply State.setProc_kept
theorem execWdKick_kept (h : Kept Q C s) (i : Fin 11) : Keeps Q C (execWdKick i s) := by
  unfold execWdKick
  repeat' with_reducible first | assumption | apply ite_kept | apply State.kick_kept | apply Keeps.next
theorem State.procQuiet_kept (h : Kept Q none s) (i : Nat) : Kept Q none (State.procQuiet s i) := by
  unfold State.procQuiet
  repeat' with_reducible first | assumption | apply ite_kept | apply State.enterHoldover_kept | apply State.withRoutes_kept
theorem State.procStops_kept (h : Kept Q none s) (i : Nat) : Kept Q none (State.procStops s i) := by
  unfold State.procStops
  repeat' with_reducible first | assumption | apply ite_kept | apply State.procQuiet_kept | apply State.setProc_kept
theorem State.putSect_kept (h : Kept Q C s) (i : Nat) (v : Nat × Nat) : Kept Q C (State.putSect s i v) := by
  unfold State.putSect
  repeat' with_reducible first | assumption | apply State.put_kept | apply State.setProc_kept
theorem State.logStart_kept (h : Kept Q C s) (i : Nat) (cause : Nat) : Kept Q C (State.logStart s i cause) := by
  unfold State.logStart
  repeat' with_reducible first | assumption | apply State.logRec_kept
theorem State.takeSect_kept (h : Kept Q C s) (i : Nat) : Kept Q C (State.takeSect s i) := by
  unfold State.takeSect
  repeat' first | (with_reducible first | assumption | apply State.putSect_kept | apply State.setProc_kept) | split | dsimp only
theorem State.restart_kept (h : Kept Q none s) (i : Nat) (cause : Nat) : Kept Q none (State.restart s i cause) := by
  unfold State.restart
  repeat' with_reducible first | assumption | apply State.takeSect_kept | apply State.procStops_kept | apply State.bump_kept | apply State.put_kept | apply State.setProc_kept | apply State.orf_kept | apply State.logStart_kept
theorem State.busyHeld_kept (h : Kept Q C s) (i : Nat) : Kept Q C (State.busyHeld s i) := by
  unfold State.busyHeld
  repeat' with_reducible first | assumption | intro _ | apply foldl_kept | apply State.complete_kept | apply State.withHeldCmds_kept
theorem State.holdDown_kept (h : Kept Q none s) (i : Nat) : Kept Q none (State.holdDown s i) := by
  unfold State.holdDown
  repeat' with_reducible first | assumption | intro _ | apply ite_kept | apply foldl_kept | apply State.put_kept | apply State.procStops_kept | apply State.showFault_kept | apply State.orf_kept | apply State.clrf_kept | apply State.service_kept | apply State.eventEntry_kept | apply State.logRec_kept | apply State.busyHeld_kept | apply State.stage_kept | apply State.refuseAdm_kept
theorem State.revertSect_kept (h : Kept Q none s) (i : Nat) : Kept Q none (State.revertSect s i) := by
  unfold State.revertSect
  repeat' with_reducible first | assumption | intro _ | apply ite_kept | apply foldl_kept | apply State.setProc_kept | apply State.putSect_kept | apply State.withSec_kept | apply State.logRec_kept | apply State.put_kept | apply State.restart_kept
theorem State.crash_kept (h : Kept Q none s) (i : Nat) (cause : Nat) : Kept Q none (State.crash s i cause) := by
  unfold State.crash
  repeat' with_reducible first | assumption | apply ite_kept | apply State.setProc_kept | apply State.bump_kept | apply State.put_kept | apply State.drawn_kept | apply State.logRec_kept | apply State.event_kept | apply State.revertSect_kept | apply State.holdDown_kept | apply State.restart_kept
theorem execWatchdogExpiry_kept (h : Kept Q none s) (i : Fin 11) : Keeps Q none (execWatchdogExpiry i s) := by
  unfold execWatchdogExpiry
  repeat' first | (with_reducible first | assumption | intro _ | apply ite_kept | apply State.crash_kept | apply getD_kept | apply Keeps.next) | with_reducible refine State.reach_kept ?_ _ _ (by assumption) | with_reducible refine map_kept ?_ ?_ _ (by assumption)
theorem execFwException_kept (h : Kept Q none s) (i : Fin 11) : Keeps Q none (execFwException i s) := by
  unfold execFwException
  repeat' with_reducible first | assumption | apply ite_kept | apply State.crash_kept | apply Keeps.next
theorem execFwSramUe_kept (h : Kept Q none s) (i : Fin 11) : Keeps Q none (execFwSramUe i s) := by
  unfold execFwSramUe
  repeat' with_reducible first | assumption | apply ite_kept | apply State.crash_kept | apply State.withSramUe_kept | apply Keeps.next
theorem execRestartTimeout_kept (h : Kept Q none s) (i : Fin 11) : Keeps Q none (execRestartTimeout i s) := by
  unfold execRestartTimeout
  repeat' first | (with_reducible first | assumption | intro _ | apply ite_kept | apply State.crash_kept | apply getD_kept | apply Keeps.next) | with_reducible refine State.reach_kept ?_ _ _ (by assumption) | with_reducible refine map_kept ?_ ?_ _ (by assumption)
theorem execRelease_kept (h : Kept Q none s) (wr : Writer) (i : Fin 11) : Keeps Q none (execRelease wr i s) := by
  unfold execRelease
  repeat' with_reducible first | assumption | apply ite_kept | apply State.put_kept | apply State.setProc_kept | apply State.restart_kept | apply State.logRec_kept | apply State.showFault_kept | apply State.clrf_kept | apply Keeps.next
theorem execRestartReq_kept (h : Kept Q none s) (wr : Writer) (i : Fin 11) : Keeps Q none (execRestartReq wr i s) := by
  unfold execRestartReq
  repeat' with_reducible first | assumption | apply ite_kept | apply State.restart_kept | apply State.logRec_kept | apply Keeps.next
theorem State.syncBoot_kept (h : Kept Q C s) : Kept Q C (State.syncBoot s) := by
  unfold State.syncBoot
  repeat' with_reducible first | assumption | apply State.withBring_kept
theorem State.bootWrite_kept (h : Kept Q C s) : Kept Q C (State.bootWrite s) := by
  unfold State.bootWrite
  repeat' with_reducible first | assumption | apply ite_kept | apply State.syncBoot_kept
theorem execBootSlotWrite_kept (h : Kept Q C s) (wr : Writer) (slot : Fin 2) : Keeps Q C (execBootSlotWrite wr slot s) := by
  unfold execBootSlotWrite
  repeat' with_reducible first | assumption | apply ite_kept | apply State.bootWrite_kept | apply State.put_kept | apply Keeps.next
theorem execConfirm_kept (h : Kept Q C s) (wr : Writer) : Keeps Q C (execConfirm wr s) := by
  unfold execConfirm
  repeat' with_reducible first | assumption | apply ite_kept | apply State.bootWrite_kept | apply State.put_kept | apply Keeps.next
theorem State.applyParams_kept (h : Kept Q C s) (ps : List ParamRec) : Kept Q C (State.applyParams s ps) := by
  unfold State.applyParams
  repeat' first | (with_reducible first | assumption | intro _ | apply foldl_kept | apply State.putAll_kept | apply State.put_kept) | split
theorem State.putWord_kept (h : Kept Q C s) (fs : List Field) (w : Nat) (i : Nat) : Kept Q C (State.putWord s fs w i) := by
  unfold State.putWord
  repeat' with_reducible first | assumption | intro _ | apply foldl_kept | apply State.put_kept
theorem State.putProfile_kept (h : Kept Q C s) (k : Nat) (f : DfeProfile) : Kept Q C (State.putProfile s k f) := by
  unfold State.putProfile
  repeat' with_reducible first | assumption | intro _ | apply foldl_kept | apply State.putWord_kept | apply State.put_kept
theorem State.enterStreams_kept (h : Kept Q C s) (d : Dcr) (e : CellEntry) (k0 : Nat) : Kept Q C (State.enterStreams s d e k0) := by
  unfold State.enterStreams
  repeat' first | (with_reducible first | assumption | intro _ | apply foldl_kept | apply State.put_kept | apply State.putProfile_kept) | split
theorem State.enterPlan_kept (h : Kept Q C s) (d : Dcr) (cs : List (CellEntry × Nat)) : Kept Q C (State.enterPlan s d cs) := by
  unfold State.enterPlan
  repeat' with_reducible first | assumption | intro _ | apply foldl_kept | apply foldl_kept1 | apply State.setCell_kept | apply State.enterStreams_kept
theorem State.writePinned_kept (h : Kept Q C s) (b : BankImage) : Kept Q C (State.writePinned s b) := by
  unfold State.writePinned
  repeat' with_reducible first | assumption | intro _ | apply foldl_kept | apply State.sramWr_kept
theorem State.withImage_kept (h : Kept Q C s) (b : BankImage) : Kept Q C (State.withImage s b) := by
  unfold State.withImage
  repeat' with_reducible first | assumption | intro _ | apply foldl_kept | apply State.put_kept | apply State.writePinned_kept
theorem State.writeBank_kept (h : Kept Q C s) (b0 : BankImage) (fit : Bool) : Kept Q C (State.writeBank s b0 fit) := by
  unfold State.writeBank
  repeat' with_reducible first | assumption | intro _ | apply foldl_kept | apply State.writePinned_kept | apply State.sramWr_kept | apply State.stage_kept | apply State.setPart_kept
theorem State.commitBank_kept (h : Kept Q C s) (p : Nat) : Kept Q C (State.commitBank s p) := by
  unfold State.commitBank
  repeat' first | (with_reducible first | assumption | apply State.commit_kept) | grind (splits := 20) [State.commit_kept, State.showStaged_kept, State.commitBankPair_kept, Keeps.next, getD_kept, foldl_kept, foldl_kept1]
theorem State.writeRebuilt_kept (h : Kept Q C s) (p : Nat) (gone : List Nat) : Kept Q C (State.writeRebuilt s p gone) := by
  unfold State.writeRebuilt
  repeat' with_reducible first | assumption | apply State.writeBank_kept
theorem State.setAwait_kept (h : Kept Q C s) (p : Nat) (v : Bool) : Kept Q C (State.setAwait s p v) := by
  unfold State.setAwait
  repeat' with_reducible first | assumption | apply State.setPart_kept
theorem State.waitUnlocks_kept (h : Kept Q C s) : Kept Q C (State.waitUnlocks s) := by
  unfold State.waitUnlocks
  repeat' with_reducible first | assumption | apply State.withCells_kept
theorem State.partTick_kept (h : Kept Q C s) (p : Nat) : Kept Q C (State.partTick s p) := by
  unfold State.partTick
  repeat' with_reducible first | assumption | apply ite_kept | apply State.fetchColumn_kept | apply State.stepTick_kept
theorem State.openTick_kept (h : Kept Q C s) (p : Nat) : Kept Q C (State.openTick s p) := by
  unfold State.openTick
  repeat' with_reducible first | assumption | apply ite_kept | apply State.setAwait_kept | apply State.newColumn_kept | apply State.partTick_kept
theorem State.fxDone_kept (h : Kept Q C s) (p : Nat) : Kept Q C (State.fxDone s p) := by
  unfold State.fxDone
  repeat' with_reducible first | assumption | apply ite_kept | apply State.partTick_kept | apply State.setAwait_kept
theorem State.autoLock_kept (h : Kept Q C s) (c : Nat) : Kept Q C (State.autoLock s c) := by
  unfold State.autoLock
  repeat' first | (with_reducible first | assumption | apply State.event_kept | apply State.stopCell_kept | apply State.finishCell_kept) | split | dsimp only
theorem execSpareLossReproof_kept (h : Kept Q C s) (p : Fin 8) (first : BankImage) (more : List BankImage) : Keeps Q C (execSpareLossReproof p first more s) := by
  unfold execSpareLossReproof
  repeat' with_reducible first | assumption | intro _ | apply ite_kept | apply foldl_kept | apply State.autoLock_kept | apply State.setPart_kept | apply State.fxDone_kept | apply State.commitBank_kept | apply State.writeBank_kept | apply Keeps.next
theorem execCellLockEffect_kept (h : Kept Q C s) (p : Fin 8) (c : Fin 4096) : Keeps Q C (execCellLockEffect p c s) := by
  unfold execCellLockEffect
  repeat' first | (with_reducible first | assumption | apply State.finishCell_kept | apply State.stopCell_kept | apply State.fxDone_kept | apply State.commitBank_kept | apply State.writeRebuilt_kept | apply Keeps.next) | split
theorem execCellUnlockEffect_kept (h : Kept Q C s) (p : Fin 8) (c : Fin 4096) (bank : BankImage) : Keeps Q C (execCellUnlockEffect p c bank s) := by
  unfold execCellUnlockEffect
  repeat' first | (with_reducible first | assumption | apply ite_kept | apply State.finishCell_kept | apply State.startCell_kept | apply State.fxDone_kept | apply State.commitBank_kept | apply State.writeBank_kept | apply State.setCell_kept | apply Keeps.next) | split
theorem State.power_kept (h : Kept Q C s) (ds : List Nat) (up : Bool) : Kept Q C (State.power s ds up) := by
  unfold State.power
  repeat' with_reducible first | assumption | apply ite_kept | apply State.orf_kept | apply State.clrf_kept
theorem State.clockTo_kept (h : Kept Q none s) (now : Nat) : Kept Q none (State.clockTo s now) := by
  unfold State.clockTo
  repeat' with_reducible first | assumption | apply ite_kept | apply State.setNowNs_kept
theorem State.stepMs_kept (h : Kept Q none s) (k : Nat) (ms : Nat) : Kept Q none (State.stepMs s k ms) := by
  unfold State.stepMs
  repeat' with_reducible first | assumption | apply State.clockTo_kept
theorem State.endStep_kept (h : Kept Q C s) (k : Nat) : Kept Q C (State.endStep s k) := by
  unfold State.endStep
  repeat' with_reducible first | assumption | apply State.put_kept
theorem State.recover_kept (h : Kept Q C s) (cause : Nat) : Kept Q C (State.recover s cause) := by
  unfold State.recover
  repeat' with_reducible first | assumption | apply State.event_kept | apply State.put_kept
theorem State.startProc_kept (h : Kept Q C s) (i : Nat) : Kept Q C (State.startProc s i) := by
  unfold State.startProc
  repeat' with_reducible first | assumption | apply State.bump_kept | apply State.put_kept | apply State.logStart_kept | apply State.kick_kept
theorem State.flushEvents_kept (h : Kept Q C s) : Kept Q C (State.flushEvents s) := by
  unfold State.flushEvents
  repeat' with_reducible first | assumption | intro _ | apply foldl_kept | apply State.writeRec_kept | apply State.withMgt_kept
theorem State.badSignature_kept (h : Kept Q C s) (what : Nat) : Kept Q C (State.badSignature s what) := by
  unfold State.badSignature
  repeat' with_reducible first | assumption | apply State.event_kept | apply State.put_kept
theorem execStartupStep1_kept (h : Kept Q none s) (ms : BitVec 16) : Keeps Q none (execStartupStep1 ms s) := by
  unfold execStartupStep1
  repeat' with_reducible first | assumption | apply ite_kept | apply State.withMgt_kept | apply State.withBring_kept | apply State.emit_kept | apply State.endStep_kept | apply State.stepMs_kept | apply State.power_kept | apply Keeps.next
theorem execStartupStep2_kept (h : Kept Q none s) (ms : BitVec 16) (helperOk pufOk : Bool) : Keeps Q none (execStartupStep2 ms helperOk pufOk s) := by
  unfold execStartupStep2
  repeat' with_reducible first | assumption | apply ite_kept | apply State.stepMs_kept | apply State.withSec_kept | apply State.withBring_kept | apply State.drawn_kept | apply State.put_kept | apply State.endStep_kept | apply State.flushEvents_kept | apply State.startProc_kept | apply State.power_kept | apply Keeps.next
theorem State.bootFrom_kept (h : Kept Q C s) (k : Nat) : Kept Q C (State.bootFrom s k) := by
  unfold State.bootFrom
  repeat' with_reducible first | assumption | intro _ | apply ite_kept | apply foldl_kept | apply State.withBring_kept | apply State.put_kept | apply State.putSect_kept
theorem execStartupStep3_kept (h : Kept Q none s) (ms : BitVec 16) : Keeps Q none (execStartupStep3 ms s) := by
  unfold execStartupStep3
  repeat' first | (with_reducible first | assumption | apply State.stepMs_kept | apply State.badSignature_kept | apply State.recover_kept | apply State.endStep_kept | apply State.put_kept | apply State.bootFrom_kept | apply Keeps.next) | split | dsimp only
theorem State.showEnt_kept (h : Kept Q C s) (e : Option Entitlement) : Kept Q C (State.showEnt s e) := by
  unfold State.showEnt
  repeat' first | (with_reducible first | assumption | apply State.put_kept) | split
theorem State.refuseSlotImage_kept (h : Kept Q C s) : Kept Q C (State.refuseSlotImage s) := by
  unfold State.refuseSlotImage
  repeat' with_reducible first | assumption | apply ite_kept | apply State.badSignature_kept | apply State.withBring_kept | apply State.recover_kept | apply State.event_kept | apply State.put_kept
theorem State.takeMap_kept (h : Kept Q C s) (d : Dcr) (m : Option DefectMap) (dcr : Nat) : Kept Q C (State.takeMap s d m dcr) := by
  unfold State.takeMap
  repeat' with_reducible first | assumption | apply State.withBring_kept | apply State.put_kept
theorem State.takeHdr_kept (h : Kept Q C s) (d : Dcr) : Kept Q C (State.takeHdr s d) := by
  unfold State.takeHdr
  repeat' with_reducible first | assumption | apply State.withPlanHdr_kept | apply State.put_kept | apply State.putAll_kept
theorem State.startFh_kept (h : Kept Q C s) : Kept Q C (State.startFh s) := by
  unfold State.startFh
  repeat' with_reducible first | assumption | intro _ | apply ite_kept | apply foldl_kept | apply State.put_kept | apply State.power_kept
theorem State.startTicks_kept (h : Kept Q none s) : Kept Q none (State.startTicks s) := by
  unfold State.startTicks
  repeat' with_reducible first | assumption | apply ite_kept | apply State.showSynce_kept | apply State.put_kept | apply State.event_kept | apply State.setTime_kept
theorem State.effLimit_kept (h : Kept Q C s) : Kept Q C (State.effLimit s) := by
  unfold State.effLimit
  repeat' with_reducible first | assumption | apply ite_kept | apply State.put_kept
theorem State.acceptDcr_kept (h : Kept Q none s) (d : Dcr) (e : Entitlement) (m : Option DefectMap) : Kept Q none (State.acceptDcr s d e m) := by
  unfold State.acceptDcr
  repeat' with_reducible first | assumption | intro _ | apply foldl_kept | apply State.withSec_kept | apply State.withBring_kept | apply State.effLimit_kept | apply State.applyParams_kept | apply State.put_kept | apply State.takeHdr_kept | apply State.takeMap_kept | apply State.startFh_kept | apply State.startProc_kept | apply State.endStep_kept | apply State.startTicks_kept
theorem execStartupStep4_kept (h : Kept Q none s) (ms : BitVec 16) (d : Option Dcr) (dm0 : Option DefectMap) (dm1 : Option DefectMap) : Keeps Q none (execStartupStep4 ms d dm0 dm1 s) := by
  unfold execStartupStep4
  repeat' first | (with_reducible first | assumption | apply State.stepMs_kept | apply State.recover_kept | apply State.badSignature_kept | apply State.showEnt_kept | apply State.event_kept | apply State.refuseSlotImage_kept | apply State.acceptDcr_kept | apply Keeps.next) | split | dsimp only
theorem State.setChannel_kept (h : Kept Q C s) (m : Nat) (rate : Nat) (up : Bool) : Kept Q C (State.setChannel s m rate up) := by
  unfold State.setChannel
  repeat' with_reducible first | assumption | apply ite_kept | apply State.put_kept
theorem State.enterArenas_kept (h : Kept Q C s) (num : Nat) (den : Nat) (a_3 : Nat) (a_4 : List Nat) : Kept Q C (State.enterArenas s num den a_3 a_4) := by
  induction a_4 generalizing s a_3 with
  | nil => exact h
  | cons p ps ih => exact ih (State.put_kept (State.put_kept (State.put_kept (State.put_kept h _ _ _) _ _ _) _ _ _) _ _ _) _
theorem State.cutArenas_kept (h : Kept Q C s) : Kept Q C (State.cutArenas s) := by
  unfold State.cutArenas
  repeat' with_reducible first | assumption | apply ite_kept | apply State.enterArenas_kept | apply State.put_kept
theorem execStartupStep5_kept (h : Kept Q none s) (ms : BitVec 16) (up : List (Fin 24)) (capGib : BitVec 10) (rate : BitVec 8) : Keeps Q none (execStartupStep5 ms up capGib rate s) := by
  unfold execStartupStep5
  repeat' with_reducible first | assumption | intro _ | apply ite_kept | apply foldl_kept | apply State.power_kept | apply State.stepMs_kept | apply State.setChannel_kept | apply State.put_kept | apply State.recover_kept | apply State.firstKey_kept | apply State.cutArenas_kept | apply State.endStep_kept | apply State.refuseAdm_kept | apply Keeps.next
theorem State.failUnit_kept (h : Kept Q C s) (cause : Nat) (u : PhysUnit) : Kept Q C (State.failUnit s cause u) := by
  unfold State.failUnit
  repeat' with_reducible first | assumption | apply ite_kept | apply State.defect_kept | apply State.setPhys_kept
theorem State.mapCores_kept (h : Kept Q C s) (cl : Nat) (fenced : Nat) : Kept Q C (State.mapCores s cl fenced) := by
  unfold State.mapCores
  repeat' first | (with_reducible first | assumption | intro _ | apply foldl_kept | apply State.setPhys_kept | apply State.put_kept) | split
theorem State.mapSpurs_kept (h : Kept Q C s) (cl : Nat) (fenced : Nat) : Kept Q C (State.mapSpurs s cl fenced) := by
  unfold State.mapSpurs
  repeat' first | (with_reducible first | assumption | intro _ | apply foldl_kept | apply State.setPhys_kept | apply State.put_kept) | split
theorem State.startRouters_kept (h : Kept Q C s) : Kept Q C (State.startRouters s) := by
  unfold State.startRouters
  repeat' with_reducible first | assumption | intro _ | apply ite_kept | apply foldl_kept | apply State.putAll_kept | apply State.loseSpur_kept | apply State.loseCore_kept | apply State.reroute_kept
theorem State.fixRow_kept (h : Kept Q C s) (m : Nat) (r : Nat) : Kept Q C (State.fixRow s m r) := by
  unfold State.fixRow
  repeat' with_reducible first | assumption | apply ite_kept | apply State.withBring_kept
theorem State.loseMacro_kept (h : Kept Q C s) (m : Nat) : Kept Q C (State.loseMacro s m) := by
  unfold State.loseMacro
  repeat' first | (with_reducible first | assumption | intro _ | apply ite_kept | apply foldl_kept | apply State.failUnit_kept | apply State.withBring_kept) | split
theorem State.repairRows_kept (h : Kept Q C s) (found : List (Nat × Nat)) : Kept Q C (State.repairRows s found) := by
  unfold State.repairRows
  repeat' with_reducible first | assumption | intro _ | apply foldl_kept | apply State.fixRow_kept | apply State.defect_kept | apply State.loseMacro_kept
theorem execStartupStep6_kept (h : Kept Q none s) (ms : BitVec 16) (x : SelfTest) : Keeps Q none (execStartupStep6 ms x s) := by
  unfold execStartupStep6
  repeat' with_reducible first | assumption | intro _ | apply ite_kept | apply foldl_kept | apply State.stepMs_kept | apply State.power_kept | apply State.withBring_kept | apply State.setPhys_kept | apply State.repairRows_kept | apply State.failUnit_kept | apply State.mapSpurs_kept | apply State.mapCores_kept | apply State.putAll_kept | apply State.startProc_kept | apply State.startRouters_kept | apply State.endStep_kept | apply State.withCoord_kept | apply Keeps.next
theorem State.startWave_kept (h : Kept Q C s) (k : Nat) : Kept Q C (State.startWave s k) := by
  unfold State.startWave
  repeat' with_reducible first | assumption | intro _ | apply ite_kept | apply foldl_kept | apply State.put_kept
theorem execCoreWave_kept (h : Kept Q none s) (k : Fin 32) (ma : Nat) : Keeps Q none (execCoreWave k ma s) := by
  unfold execCoreWave
  repeat' with_reducible first | assumption | apply ite_kept | apply State.clockTo_kept | apply State.withBring_kept | apply State.startWave_kept | apply Keeps.next
theorem execWaveRetry_kept (h : Kept Q none s) (k : Fin 32) (ma : Nat) : Keeps Q none (execWaveRetry k ma s) := by
  unfold execWaveRetry
  repeat' with_reducible first | assumption | intro _ | apply ite_kept | apply foldl_kept | apply State.clockTo_kept | apply State.withBring_kept | apply State.loseSpur_kept | apply State.loseCore_kept | apply State.startWave_kept | apply Keeps.next
theorem State.startLinks_kept (h : Kept Q C s) : Kept Q C (State.startLinks s) := by
  unfold State.startLinks
  repeat' with_reducible first | assumption | intro _ | apply foldl_kept | apply State.power_kept | apply State.setLk_kept
theorem execStartupStep7_kept (h : Kept Q none s) (ms : BitVec 16) : Keeps Q none (execStartupStep7 ms s) := by
  unfold execStartupStep7
  repeat' with_reducible first | assumption | apply ite_kept | apply State.startLinks_kept | apply State.endStep_kept | apply State.stepMs_kept | apply Keeps.next
theorem execStartupStep8_kept (h : Kept Q none s) (ms : BitVec 16) : Keeps Q none (execStartupStep8 ms s) := by
  unfold execStartupStep8
  repeat' with_reducible first | assumption | apply ite_kept | apply State.stepMs_kept | apply State.endStep_kept | apply State.put_kept | apply Keeps.next
theorem execStartupStep9_kept (h : Kept Q none s) (ms : BitVec 16) : Keeps Q none (execStartupStep9 ms s) := by
  unfold execStartupStep9
  repeat' with_reducible first | assumption | apply ite_kept | apply State.endStep_kept | apply State.put_kept | apply State.stepMs_kept | apply Keeps.next
theorem execStartupStep10_kept (h : Kept Q none s) (ms : BitVec 16) (fails : List PhysUnit) : Keeps Q none (execStartupStep10 ms fails s) := by
  unfold execStartupStep10
  repeat' with_reducible first | assumption | intro _ | apply ite_kept | apply foldl_kept | apply State.stepMs_kept | apply State.failUnit_kept | apply State.mapSpurs_kept | apply State.mapCores_kept | apply State.endStep_kept | apply Keeps.next
theorem State.zeroRange_kept (h : Kept Q C s) (a : Nat) (n : Nat) : Kept Q C (State.zeroRange s a n) := by
  unfold State.zeroRange
  repeat' with_reducible first | assumption | apply State.poisonKeep_kept | apply State.memKeep_kept
theorem State.clearCore_kept (h : Kept Q C s) (n : Nat) : Kept Q C (State.clearCore s n) := by
  unfold State.clearCore
  repeat' with_reducible first | assumption | apply State.setCore_kept | apply State.zeroRange_kept
theorem State.dropDebug_kept (h : Kept Q C s) (n : Nat) : Kept Q C (State.dropDebug s n) := by
  unfold State.dropDebug
  repeat' with_reducible first | assumption | intro _ | apply foldl_kept | apply State.dbgEvent_kept | apply State.withSec_kept
theorem State.dropProcDebug_kept (h : Kept Q C s) (i : Nat) : Kept Q C (State.dropProcDebug s i) := by
  unfold State.dropProcDebug
  repeat' with_reducible first | assumption | apply ite_kept | apply State.drawn_kept | apply State.dbgEvent_kept | apply State.setProc_kept
theorem State.clearSpur_kept (h : Kept Q C s) (n : Nat) : Kept Q C (State.clearSpur s n) := by
  unfold State.clearSpur
  repeat' with_reducible first | assumption | intro _ | apply foldl_kept | apply State.clearJob_kept | apply State.dropDebug_kept | apply State.setThread_kept | apply State.setSpur_kept
theorem State.writeMap_kept (h : Kept Q C s) : Kept Q C (State.writeMap s) := by
  unfold State.writeMap
  repeat' with_reducible first | assumption | apply ite_kept | apply State.withBring_kept | apply State.put_kept
theorem execDefectMapWrite_kept (h : Kept Q C s) : Keeps Q C (execDefectMapWrite s) := by
  unfold execDefectMapWrite
  repeat' with_reducible first | assumption | apply ite_kept | apply State.writeMap_kept | apply Keeps.next
theorem State.resetDevice_kept (h : Kept Q none s) : Kept Q none (State.resetDevice s) := by
  unfold State.resetDevice
  repeat' first | with_reducible apply ite_kept | with_reducible apply State.emit_kept | with_reducible apply State.showFault_kept | with_reducible apply State.put_kept | with_reducible apply State.power_kept
  all_goals first | exact h | exact ⟨h.1, rfl, rfl, h.2.2.2.1, fun _ h => by cases h⟩
theorem execDevRst_kept (h : Kept Q C s) (wr : Writer) (warm : Bool) : Keeps Q C (execDevRst wr warm s) := by
  unfold execDevRst
  repeat' with_reducible first | assumption | apply ite_kept | apply State.put_kept | apply State.withBring_kept | apply Keeps.next
theorem execWholeDeviceReset_kept (h : Kept Q none s) : Keeps Q none (execWholeDeviceReset s) := by
  unfold execWholeDeviceReset
  repeat' first | (with_reducible first | assumption | apply State.writeMap_kept) | grind (splits := 20) [State.reach_kept, State.writeMap_kept, State.resetDevice_kept, State.withBring_kept, Keeps.next, getD_kept, foldl_kept, foldl_kept1]
theorem State.assertReset_kept (h : Kept Q none s) : Kept Q none (State.assertReset s) := by
  unfold State.assertReset
  repeat' with_reducible first | assumption | apply ite_kept | apply State.withBring_kept | apply State.resetDevice_kept
theorem execPerstAssert_kept (h : Kept Q none s) : Keeps Q none (execPerstAssert s) := by
  unfold execPerstAssert
  repeat' with_reducible first | assumption | apply State.assertReset_kept | apply State.withBring_kept | apply Keeps.next
theorem execResetNAssert_kept (h : Kept Q none s) : Keeps Q none (execResetNAssert s) := by
  unfold execResetNAssert
  repeat' with_reducible first | assumption | apply State.assertReset_kept | apply State.withBring_kept | apply Keeps.next
theorem execResetDeassert_kept (h : Kept Q C s) (perst : Bool) : Keeps Q C (execResetDeassert perst s) := by
  unfold execResetDeassert
  repeat' with_reducible first | assumption | apply ite_kept | apply State.withBring_kept | apply Keeps.next
theorem State.stopForced_kept (h : Kept Q C s) (cid : Nat) : Kept Q C (State.stopForced s cid) := by
  unfold State.stopForced
  repeat' first | (with_reducible first | assumption | apply State.setCell_kept | apply State.finishCell_kept) | split
theorem State.againPasses_kept (h : Kept Q C s) (p : Nat) (here : WlItem → Bool) : Kept Q C (State.againPasses s p here) := by
  unfold State.againPasses
  repeat' with_reducible first | assumption | apply State.withPasses_kept
theorem State.quietCluster_kept (h : Kept Q C s) (cl : Nat) : Kept Q C (State.quietCluster s cl) := by
  unfold State.quietCluster
  repeat' with_reducible first | assumption | intro _ | apply foldl_kept | apply State.stopCore_kept | apply State.put_kept | apply State.stopSpur_kept
theorem State.abandonCopies_kept (h : Kept Q C s) (p : Nat) : Kept Q C (State.abandonCopies s p) := by
  unfold State.abandonCopies
  repeat' with_reducible first | assumption | intro _ | apply foldl_kept | apply State.decRef_kept | apply State.withSpills_kept | apply State.modSeq_kept
theorem State.beginPart_kept (h : Kept Q none s) (p : Nat) : Kept Q none (State.beginPart s p) := by
  unfold State.beginPart
  repeat' with_reducible first | assumption | intro _ | apply foldl_kept | apply State.againPasses_kept | apply State.quietCluster_kept | apply State.loseRadio_kept | apply State.bump_kept | apply State.setDmas_kept | apply State.absorbDmas_kept | apply State.abandonCopies_kept | apply State.withBring_kept | apply State.withFhBufs_kept | apply State.setPart_kept | apply State.put_kept | apply State.procStops_kept | apply State.orf_kept | apply State.clrf_kept
theorem execPartRst_kept (h : Kept Q none s) (wr : Writer) (p : Fin 8) (force : Bool) : Keeps Q none (execPartRst wr p force s) := by
  unfold execPartRst
  repeat' with_reducible first | assumption | intro _ | apply ite_kept | apply foldl_kept | apply State.put_kept | apply State.beginPart_kept | apply State.stopForced_kept | apply Keeps.next
theorem execClRst_kept (h : Kept Q C s) (wr : Writer) (cl : Fin 32) : Keeps Q C (execClRst wr cl s) := by
  unfold execClRst
  repeat' with_reducible first | assumption | intro _ | apply ite_kept | apply foldl_kept | apply State.put_kept | apply State.stopForced_kept | apply State.againPasses_kept | apply State.absorbDmas_kept | apply State.quietCluster_kept | apply State.withBring_kept | apply Keeps.next
theorem State.zeroCluster_kept (h : Kept Q C s) (cl : Nat) : Kept Q C (State.zeroCluster s cl) := by
  unfold State.zeroCluster
  repeat' with_reducible first | assumption | intro _ | apply foldl_kept | apply State.clearCore_kept | apply State.clearSpur_kept | apply State.zeroRange_kept
theorem State.testFails_kept (h : Kept Q C s) (u : PhysUnit) : Kept Q C (State.testFails s u) := by
  unfold State.testFails
  repeat' first | (with_reducible first | assumption | apply ite_kept | apply State.put_kept | apply State.failUnit_kept | apply State.fenceSpur_kept | apply State.fenceCore_kept) | split
theorem State.rebuild_kept (h : Kept Q C s) (p : Nat) : Kept Q C (State.rebuild s p) := by
  unfold State.rebuild
  repeat' with_reducible first | assumption | apply ite_kept | apply State.writeRebuilt_kept
theorem State.partPhase_kept (h : Kept Q none s) (p : Nat) (fails : List PhysUnit) : Kept Q none (State.partPhase s p fails) := by
  unfold State.partPhase
  repeat' first | (with_reducible first | assumption | intro _ | apply foldl_kept | apply State.put_kept | apply State.zeroCluster_kept | apply State.dropProcDebug_kept | apply State.zeroRange_kept | apply State.testFails_kept | apply State.setProc_kept | apply State.restart_kept | apply State.rebuild_kept | apply State.putAll_kept) | split
theorem State.clusterPhase_kept (h : Kept Q C s) (cl : Nat) (fails : List PhysUnit) : Kept Q C (State.clusterPhase s cl fails) := by
  unfold State.clusterPhase
  repeat' first | (with_reducible first | assumption | intro _ | apply foldl_kept | apply State.withBring_kept | apply State.zeroCluster_kept | apply State.testFails_kept | apply State.put_kept | apply State.rebuild_kept) | split
theorem execResetPhaseEnd_kept (h : Kept Q none s) (p : Fin 8) (cl : Option (Fin 4)) (fails : List PhysUnit) : Keeps Q none (execResetPhaseEnd p cl fails s) := by
  unfold execResetPhaseEnd
  repeat' first | (with_reducible first | assumption | apply State.partPhase_kept | apply State.clusterPhase_kept | apply Keeps.next) | split
theorem State.beginUnit_kept (h : Kept Q C s) (key : Nat) (unit : Nat) : Kept Q C (State.beginUnit s key unit) := by
  unfold State.beginUnit
  repeat' with_reducible first | assumption | apply ite_kept | apply State.put_kept | apply State.setPhys_kept | apply State.withBring_kept
theorem execCoreRst_kept (h : Kept Q C s) (wr : Writer) (n : Fin 128) : Keeps Q C (execCoreRst wr n s) := by
  unfold execCoreRst
  repeat' with_reducible first | assumption | apply ite_kept | apply State.absorbDmas_kept | apply State.fenceCore_kept | apply State.beginUnit_kept | apply State.put_kept | apply State.clearCore_kept | apply Keeps.next
theorem execSpurRst_kept (h : Kept Q C s) (wr : Writer) (n : Fin 512) : Keeps Q C (execSpurRst wr n s) := by
  unfold execSpurRst
  repeat' with_reducible first | assumption | apply ite_kept | apply State.beginUnit_kept | apply State.put_kept | apply State.clearSpur_kept | apply State.fenceSpur_kept | apply Keeps.next
theorem State.physReset_kept (h : Kept Q C s) (cl : Nat) (unit : Nat) (behind : Bool) (here : Bool) : Kept Q C (State.physReset s cl unit behind here) := by
  unfold State.physReset
  repeat' with_reducible first | assumption | apply ite_kept | apply State.put_kept | apply State.beginUnit_kept
theorem execSlotRst_kept (h : Kept Q C s) (wr : Writer) (cl : Fin 32) (k : Fin 8) : Keeps Q C (execSlotRst wr cl k s) := by
  unfold execSlotRst
  repeat' with_reducible first | assumption | apply ite_kept | apply State.put_kept | apply State.physReset_kept | apply Keeps.next
theorem execPosRst_kept (h : Kept Q C s) (wr : Writer) (cl : Fin 32) (k : Fin 32) : Keeps Q C (execPosRst wr cl k s) := by
  unfold execPosRst
  repeat' with_reducible first | assumption | apply ite_kept | apply State.put_kept | apply State.physReset_kept | apply Keeps.next
theorem State.endUnit_kept (h : Kept Q C s) (key : Nat) (unit : Nat) (passes : Bool) : Kept Q C (State.endUnit s key unit passes) := by
  unfold State.endUnit
  repeat' with_reducible first | assumption | apply ite_kept | apply State.withBring_kept | apply State.put_kept | apply State.setPhys_kept | apply State.defect_kept
theorem execCoreResetEnd_kept (h : Kept Q C s) (u : UnitName) (passes : Bool) : Keeps Q C (execCoreResetEnd u passes s) := by
  unfold execCoreResetEnd
  repeat' first | (with_reducible first | assumption | apply State.endUnit_kept | apply State.put_kept | apply Keeps.next) | split | dsimp only
theorem execPowerDomainSwitchOff_kept (h : Kept Q none s) (d : Fin 50) : Keeps Q none (execPowerDomainSwitchOff d s) := by
  unfold execPowerDomainSwitchOff
  repeat' with_reducible first | assumption | apply ite_kept | apply State.withBring_kept | apply State.power_kept | apply State.putAll_kept | apply State.reroute_kept | apply State.dropNodes_kept | apply State.put_kept | apply State.procStops_kept | apply State.zeroRange_kept | apply State.setPart_kept | apply State.zeroCluster_kept | apply Keeps.next
theorem execPowerDomainSwitchOn_kept (h : Kept Q none s) (d : Fin 50) : Keeps Q none (execPowerDomainSwitchOn d s) := by
  unfold execPowerDomainSwitchOn
  repeat' first | (with_reducible first | assumption | apply State.power_kept | apply State.withBring_kept | apply State.putAll_kept | apply State.startProc_kept | apply State.reroute_kept | apply Keeps.next) | with_reducible refine State.reach_kept ?_ _ _ (by assumption) | split
theorem State.spdmOk_kept (h : Kept Q C s) (b : Nat) (code : Nat) (sign : Bool) (data : List Nat) : Kept Q C (State.spdmOk s b code sign data) := by
  unfold State.spdmOk
  repeat' with_reducible first | assumption | apply State.emit_kept | apply State.bump_kept
theorem State.spdmErr_kept (h : Kept Q C s) (b : Nat) (code : Nat) : Kept Q C (State.spdmErr s b code) := by
  unfold State.spdmErr
  repeat' with_reducible first | assumption | apply State.emit_kept | apply State.bump_kept
theorem State.spdm_kept (h : Kept Q C s) (b : Nat) (go : State → State) (h2 : ∀ (x0 : State), Kept Q C x0 → Kept Q C (go x0)) : Kept Q C (State.spdm s b go) := by
  unfold State.spdm
  repeat' first | (with_reducible first | assumption | apply State.emit_kept) | grind (splits := 20) [State.emit_kept, Keeps.next, getD_kept, foldl_kept, foldl_kept1]
theorem State.spdmSigned_kept (h : Kept Q C s) (b : Nat) (code : Nat) (data : List Nat) : Kept Q C (State.spdmSigned s b code data) := by
  unfold State.spdmSigned
  repeat' with_reducible first | assumption | apply State.spdmOk_kept | apply State.withSec_kept
theorem execGetVersion_kept (h : Kept Q C s) (b : Fin 2) : Keeps Q C (execGetVersion b s) := by
  unfold execGetVersion
  repeat' with_reducible first | assumption | intro _ | apply State.spdm_kept | apply State.spdmOk_kept | apply Keeps.next
theorem execGetCapabilities_kept (h : Kept Q C s) (b : Fin 2) : Keeps Q C (execGetCapabilities b s) := by
  unfold execGetCapabilities
  repeat' with_reducible first | assumption | intro _ | apply State.spdm_kept | apply State.spdmOk_kept | apply Keeps.next
theorem execNegotiateAlgorithms_kept (h : Kept Q C s) (b : Fin 2) (ed25519 : Bool) (sha512 : Bool) : Keeps Q C (execNegotiateAlgorithms b ed25519 sha512 s) := by
  unfold execNegotiateAlgorithms
  repeat' with_reducible first | assumption | intro _ | apply ite_kept | apply State.spdm_kept | apply State.spdmOk_kept | apply State.spdmErr_kept | apply Keeps.next
theorem execGetDigests_kept (h : Kept Q C s) (b : Fin 2) : Keeps Q C (execGetDigests b s) := by
  unfold execGetDigests
  repeat' with_reducible first | assumption | intro _ | apply State.spdm_kept | apply State.spdmOk_kept | apply Keeps.next
theorem execGetCertificate_kept (h : Kept Q C s) (b : Fin 2) (slot : Fin 8) (off : BitVec 16) (len : BitVec 16) : Keeps Q C (execGetCertificate b slot off len s) := by
  unfold execGetCertificate
  repeat' with_reducible first | assumption | intro _ | apply ite_kept | apply State.spdm_kept | apply State.spdmOk_kept | apply State.spdmErr_kept | apply Keeps.next
theorem execChallenge_kept (h : Kept Q C s) (b : Fin 2) (slot : Fin 8) (nonce : BitVec 256) : Keeps Q C (execChallenge b slot nonce s) := by
  unfold execChallenge
  repeat' with_reducible first | assumption | intro _ | apply ite_kept | apply State.spdm_kept | apply State.spdmSigned_kept | apply State.spdmErr_kept | apply Keeps.next
theorem execGetMeasurements_kept (h : Kept Q C s) (b : Fin 2) (index : BitVec 8) (sign : Bool) (nonce : BitVec 256) : Keeps Q C (execGetMeasurements b index sign nonce s) := by
  unfold execGetMeasurements
  repeat' with_reducible first | assumption | intro _ | apply ite_kept | apply State.spdm_kept | apply State.spdmErr_kept | apply State.spdmSigned_kept | apply State.spdmOk_kept | apply Keeps.next
theorem execVendorMldsaSignature_kept (h : Kept Q C s) (b : Fin 2) : Keeps Q C (execVendorMldsaSignature b s) := by
  unfold execVendorMldsaSignature
  repeat' first | (with_reducible first | assumption | intro _ | apply State.spdm_kept | apply State.spdmOk_kept | apply State.spdmErr_kept | apply Keeps.next) | split
theorem execVendorMldsaChain_kept (h : Kept Q C s) (b : Fin 2) (off : BitVec 16) (len : BitVec 16) : Keeps Q C (execVendorMldsaChain b off len s) := by
  unfold execVendorMldsaChain
  repeat' with_reducible first | assumption | intro _ | apply State.spdm_kept | apply State.spdmOk_kept | apply Keeps.next
theorem execMctpControl_kept (h : Kept Q C s) (b : Fin 2) (setEid : Option (BitVec 8)) : Keeps Q C (execMctpControl b setEid s) := by
  unfold execMctpControl
  repeat' first | (with_reducible first | assumption | apply State.emit_kept | apply State.withSec_kept | apply Keeps.next) | split
theorem State.pldm_kept (h : Kept Q C s) (b : Nat) (go : State → State) (h2 : ∀ (x0 : State), Kept Q C x0 → Kept Q C (go x0)) : Kept Q C (State.pldm s b go) := by
  unfold State.pldm
  repeat' first | (with_reducible first | assumption | apply State.emit_kept) | grind (splits := 20) [State.emit_kept, Keeps.next, getD_kept, foldl_kept, foldl_kept1]
theorem execPldmMonitoring_kept (h : Kept Q C s) (b : Fin 2) (sensor : BitVec 16) : Keeps Q C (execPldmMonitoring b sensor s) := by
  unfold execPldmMonitoring
  repeat' first | (with_reducible first | assumption | intro _ | apply State.pldm_kept | apply State.emit_kept | apply Keeps.next) | split
theorem execRequestUpdate_kept (h : Kept Q C s) (b : Fin 2) : Keeps Q C (execRequestUpdate b s) := by
  unfold execRequestUpdate
  repeat' first | (with_reducible first | assumption | intro _ | apply State.pldm_kept | apply State.emit_kept | apply State.put_kept | apply State.withSec_kept | apply Keeps.next) | split
theorem State.endComponent_kept (h : Kept Q C s) (b : Nat) (comp : Nat) (status : Nat) (pend : Nat) : Kept Q C (State.endComponent s b comp status pend) := by
  unfold State.endComponent
  repeat' with_reducible first | assumption | apply ite_kept | apply State.put_kept | apply State.emit_kept | apply State.withSec_kept
theorem State.component_kept (h : Kept Q C s) (b : Nat) (go : State → State) (h2 : ∀ (x0 : State), Kept Q C x0 → Kept Q C (go x0)) : Kept Q C (State.component s b go) := by
  unfold State.component
  repeat' first | (with_reducible first | assumption | apply State.pldm_kept) | grind (splits := 20) [State.pldm_kept, State.emit_kept, Keeps.next, getD_kept, foldl_kept, foldl_kept1]
theorem execPldmComponentImage_kept (h : Kept Q C s) (b : Fin 2) (img : SlotImage) (sigOk : Bool) (writeOk : Bool) : Keeps Q C (execPldmComponentImage b img sigOk writeOk s) := by
  unfold execPldmComponentImage
  repeat' with_reducible first | assumption | intro _ | apply ite_kept | apply State.component_kept | apply State.withBring_kept | apply State.endComponent_kept | apply State.badSignature_kept | apply Keeps.next
theorem execPldmComponentDcr_kept (h : Kept Q C s) (b : Fin 2) (d : Dcr) (writeOk : Bool) : Keeps Q C (execPldmComponentDcr b d writeOk s) := by
  unfold execPldmComponentDcr
  repeat' with_reducible first | assumption | intro _ | apply ite_kept | apply State.component_kept | apply State.withBring_kept | apply State.endComponent_kept | apply State.badSignature_kept | apply Keeps.next
theorem State.goOnUpdate_kept (h : Kept Q none s) : Kept Q none (State.goOnUpdate s) := by
  unfold State.goOnUpdate
  repeat' first | (with_reducible first | assumption | apply State.restart_kept | apply State.logRec_kept | apply State.put_kept | apply State.withSec_kept) | split
theorem State.applySect_kept (h : Kept Q none s) (x : SectionImage) : Kept Q none (State.applySect s x) := by
  unfold State.applySect
  repeat' with_reducible first | assumption | intro _ | apply ite_kept | apply foldl_kept | apply State.logRec_kept | apply State.setProc_kept | apply State.withSec_kept | apply State.put_kept | apply State.restart_kept | apply State.goOnUpdate_kept
theorem execPldmComponentSection_kept (h : Kept Q none s) (b : Fin 2) (sec : SectionImage) : Keeps Q none (execPldmComponentSection b sec s) := by
  unfold execPldmComponentSection
  repeat' with_reducible first | assumption | intro _ | apply ite_kept | apply State.component_kept | apply State.put_kept | apply State.badSignature_kept | apply State.endComponent_kept | apply State.applySect_kept | apply Keeps.next
theorem State.answer_kept (h : Kept Q C s) (cmd : Nat) (seq : Byte) (status : Nat) (data : (List Byte)) : Kept Q C (State.answer s cmd seq status data) := by
  unfold State.answer
  repeat' with_reducible first | assumption | apply State.emit_kept
theorem State.dbgCmd_kept (h : Kept Q C s) (cmd : Nat) (seq : Byte) (perm : Nat) (go : State → State) (h4 : ∀ (x0 : State), Kept Q C x0 → Kept Q C (go x0)) : Kept Q C (State.dbgCmd s cmd seq perm go) := by
  unfold State.dbgCmd
  repeat' first | (with_reducible first | assumption | apply State.answer_kept) | grind (splits := 20) [State.answer_kept, Keeps.next, getD_kept, foldl_kept, foldl_kept1]
theorem State.tgtPc_kept (h : Kept Q C s) (a_1 : Target) : Kept Q C (State.tgtPc s a_1).1 := by
  unfold State.tgtPc
  repeat' first | (with_reducible first | assumption | apply State.drawn_kept) | split
theorem execHello_kept (h : Kept Q C s) (seq : Byte) : Keeps Q C (execHello seq s) := by
  unfold execHello
  repeat' with_reducible first | assumption | apply ite_kept | apply State.withSec_kept | apply State.answer_kept | apply State.drawn_kept | apply Keeps.next
theorem State.stopOpen_kept (h : Kept Q C s) : Kept Q C (State.stopOpen s) := by
  unfold State.stopOpen
  repeat' with_reducible first | assumption | intro _ | apply foldl_kept | apply State.stopWork_kept
theorem State.zeroise_kept (h : Kept Q C s) : Kept Q C (State.zeroise s) := by
  unfold State.zeroise
  repeat' with_reducible first | assumption | intro _ | apply ite_kept | apply foldl_kept | apply State.setSlice_kept | apply State.startScrub_kept | apply State.stopOpen_kept | apply State.emptyKey_kept | apply State.withSec_kept | apply State.put_kept | apply State.setLk_kept | apply State.setLinkRec_kept | apply State.poisonKeep_kept | apply State.memKeep_kept | apply State.withThreads_kept | apply State.withCores_kept
theorem State.unlockFailed_kept (h : Kept Q C s) (seq : Byte) : Kept Q C (State.unlockFailed s seq) := by
  unfold State.unlockFailed
  repeat' with_reducible first | assumption | apply ite_kept | apply State.bump_kept | apply State.withSec_kept | apply State.event_kept | apply State.put_kept | apply State.answer_kept
theorem execUnlock_kept (h : Kept Q C s) (seq : Byte) (t : DebugToken) : Keeps Q C (execUnlock seq t s) := by
  unfold execUnlock
  repeat' with_reducible first | assumption | apply ite_kept | apply State.answer_kept | apply State.unlockFailed_kept | apply State.badSignature_kept | apply State.zeroise_kept | apply State.withSec_kept | apply State.bump_kept | apply State.put_kept | apply State.eventEntry_kept | apply State.event_kept | apply Keeps.next
theorem execLock_kept (h : Kept Q C s) (seq : Byte) : Keeps Q C (execLock seq s) := by
  unfold execLock
  repeat' with_reducible first | assumption | apply ite_kept | apply State.answer_kept | apply State.put_kept | apply State.withSec_kept | apply Keeps.next
theorem execLockoutExpiry_kept (h : Kept Q none s) : Keeps Q none (execLockoutExpiry s) := by
  unfold execLockoutExpiry
  repeat' first | (with_reducible first | assumption | intro _ | apply ite_kept | apply State.put_kept | apply getD_kept | apply Keeps.next) | with_reducible refine State.reach_kept ?_ _ _ (by assumption) | with_reducible refine map_kept ?_ ?_ _ (by assumption)
theorem execStatus_kept (h : Kept Q C s) (seq : Byte) (tgt : BitVec 16) : Keeps Q C (execStatus seq tgt s) := by
  unfold execStatus
  repeat' first | (with_reducible first | assumption | apply State.answer_kept) | grind (splits := 20) [State.answer_kept, State.tgtPc_kept, Keeps.next, getD_kept, foldl_kept, foldl_kept1]
theorem execSpeed_kept (h : Kept Q C s) (seq : Byte) (code : Byte) : Keeps Q C (execSpeed seq code s) := by
  unfold execSpeed
  repeat' with_reducible first | assumption | apply ite_kept | apply State.answer_kept | apply State.put_kept | apply Keeps.next
theorem execDebugFrameError_kept (h : Kept Q C s) : Keeps Q C (execDebugFrameError s) := by
  unfold execDebugFrameError
  repeat' with_reducible first | assumption | apply ite_kept | apply State.bump_kept | apply Keeps.next
theorem State.onTarget_kept (h : Kept Q C s) (cmd : Nat) (seq : Byte) (tgt : BitVec 16) (go : Target → State → State) (h4 : ∀ (x0 : Target) (x1 : State), Kept Q C x1 → Kept Q C (go x0 x1)) : Kept Q C (State.onTarget s cmd seq tgt go) := by
  unfold State.onTarget
  repeat' first | (with_reducible first | assumption | apply State.dbgCmd_kept) | grind (splits := 20) [State.dbgCmd_kept, State.answer_kept, Keeps.next, getD_kept, foldl_kept, foldl_kept1]
theorem State.haltProc_kept (h : Kept Q none s) (i : Nat) : Kept Q none (State.haltProc s i) := by
  unfold State.haltProc
  repeat' with_reducible first | assumption | apply ite_kept | apply State.procQuiet_kept | apply State.setProc_kept
theorem execDebugHalt_kept (h : Kept Q none s) (seq : Byte) (tgt : BitVec 16) : Keeps Q none (execDebugHalt seq tgt s) := by
  unfold execDebugHalt
  repeat' first | (with_reducible first | assumption | intro _ | apply State.onTarget_kept | apply State.answer_kept | apply State.haltProc_kept | apply State.setThread_kept | apply Keeps.next) | split
theorem execBpSet_kept (h : Kept Q C s) (seq : Byte) (tgt : BitVec 16) (index : Byte) (mask : Byte) (addr : Word) : Keeps Q C (execBpSet seq tgt index mask addr s) := by
  unfold execBpSet
  repeat' first | (with_reducible first | assumption | intro _ | apply ite_kept | apply State.onTarget_kept | apply State.answer_kept | apply State.setProc_kept | apply State.withSec_kept | apply Keeps.next) | split
theorem execBpClr_kept (h : Kept Q C s) (seq : Byte) (tgt : BitVec 16) (index : Byte) : Keeps Q C (execBpClr seq tgt index s) := by
  unfold execBpClr
  repeat' first | (with_reducible first | assumption | intro _ | apply ite_kept | apply State.onTarget_kept | apply State.answer_kept | apply State.setProc_kept | apply State.withSec_kept | apply Keeps.next) | split
theorem State.setDbgReg_kept (h : Kept Q C s) (th : Nat) (r : Nat) (v : Nat) : ∀ t_, State.setDbgReg s th r v = some t_ → Kept Q C t_ := by
  unfold State.setDbgReg
  repeat' first | (with_reducible first | assumption | apply State.setThread_kept) | grind (splits := 20) [State.setThread_kept, Keeps.next, getD_kept, foldl_kept, foldl_kept1]
theorem execRegRd_kept (h : Kept Q C s) (seq : Byte) (tgt : BitVec 16) (reg : BitVec 16) : Keeps Q C (execRegRd seq tgt reg s) := by
  unfold execRegRd
  repeat' first | (with_reducible first | assumption | intro _ | apply State.onTarget_kept | apply State.answer_kept | apply State.drawn_kept | apply Keeps.next) | split
theorem execRegWr_kept (h : Kept Q C s) (seq : Byte) (tgt : BitVec 16) (reg : BitVec 16) (value : BitVec 128) : Keeps Q C (execRegWr seq tgt reg value s) := by
  unfold execRegWr
  repeat' first | (with_reducible first | assumption | intro _ | apply State.dbgCmd_kept | apply State.onTarget_kept | apply State.answer_kept | apply Keeps.next) | with_reducible refine State.setDbgReg_kept ?_ _ _ _ _ (by assumption) | split
theorem execMemRd_kept (h : Kept Q C s) (seq : Byte) (addr : Word) (len : BitVec 16) (mode : Byte) : Keeps Q C (execMemRd seq addr len mode s) := by
  unfold execMemRd
  repeat' with_reducible first | assumption | intro _ | apply ite_kept | apply State.dbgCmd_kept | apply State.answer_kept | apply Keeps.next
theorem execMemWr_kept (h : Kept Q none s) (seq : Byte) (addr : Word) (mode : Byte) (data : List Byte) : Keeps Q none (execMemWr seq addr mode data s) := by
  unfold execMemWr
  repeat' with_reducible first | assumption | intro _ | apply ite_kept | apply foldl_kept | apply State.dbgCmd_kept | apply State.answer_kept | apply State.regWrite_kept | apply State.store_kept | apply Keeps.next
theorem State.dirty_kept (h : Kept Q C s) : Kept Q C (State.dirty s) := by
  unfold State.dirty
  repeat' with_reducible first | assumption | apply State.withBring_kept
theorem State.sampleTemp_kept (h : Kept Q C s) (k : Nat) (t : BitVec 16) : Kept Q C (State.sampleTemp s k t) := by
  unfold State.sampleTemp
  repeat' with_reducible first | assumption | apply ite_kept | apply State.put_kept | apply State.putS_kept | apply State.dirty_kept
theorem execSensorSample_kept (h : Kept Q C s) (temps : List (BitVec 16)) (pd : List (Fin 50 × Nat × Nat)) (vinMv : Nat) (iinMa : Nat) : Keeps Q C (execSensorSample temps pd vinMv iinMa s) := by
  unfold execSensorSample
  repeat' with_reducible first | assumption | intro _ | apply ite_kept | apply foldl_kept | apply State.sampleTemp_kept | apply State.put_kept | apply State.dirty_kept | apply Keeps.next
theorem execEventLogNorWrite_kept (h : Kept Q C s) (ok : Bool) : Keeps Q C (execEventLogNorWrite ok s) := by
  unfold execEventLogNorWrite
  repeat' with_reducible first | assumption | apply ite_kept | apply State.withMgt_kept | apply State.put_kept | apply Keeps.next
theorem State.showClamp_kept (h : Kept Q C s) : Kept Q C (State.showClamp s) := by
  unfold State.showClamp
  repeat' with_reducible first | assumption | apply State.put_kept
theorem State.setClamp_kept (h : Kept Q C s) (m : MgtState) (data : Nat) : Kept Q C (State.setClamp s m data) := by
  unfold State.setClamp
  repeat' with_reducible first | assumption | apply State.showClamp_kept | apply State.withMgt_kept | apply State.bump_kept | apply State.put_kept | apply State.event_kept | apply State.stopOpen_kept
theorem execPowerClamp_kept (h : Kept Q none s) (meanW : Nat) (ns : Fin 125000) : Keeps Q none (execPowerClamp meanW ns s) := by
  unfold execPowerClamp
  repeat' with_reducible first | assumption | apply ite_kept | apply State.atNs_kept | apply State.setClamp_kept | apply Keeps.next
theorem execThermalClamp_kept (h : Kept Q none s) (point : Fin 210) (temp : BitVec 16) (ns : Fin 125000) : Keeps Q none (execThermalClamp point temp ns s) := by
  unfold execThermalClamp
  repeat' with_reducible first | assumption | apply ite_kept | apply State.atNs_kept | apply State.setClamp_kept | apply Keeps.next
theorem execClampClear_kept (h : Kept Q C s) (x : ClampReading) : Keeps Q C (execClampClear x s) := by
  unfold execClampClear
  repeat' with_reducible first | assumption | apply ite_kept | apply State.showClamp_kept | apply State.withMgt_kept | apply Keeps.next
theorem State.dropPower_kept (h : Kept Q none s) : Kept Q none (State.dropPower s) := by
  unfold State.dropPower
  repeat' first | with_reducible apply State.put_kept | with_reducible apply State.putAll_kept | with_reducible apply State.showClamp_kept | (refine foldl_kept (fun r p hr => ?_) _ ?_; exact State.put_kept hr _ _ _)
  exact ⟨h.1, kwf_filter h.2.1 _, rfl, h.2.2.2.1, fun _ h => by cases h⟩
theorem State.trip_kept (h : Kept Q none s) (cause : Nat) (point : Nat) : Kept Q none (State.trip s cause point) := by
  unfold State.trip
  repeat' with_reducible first | assumption | apply State.put_kept | apply State.dirty_kept | apply State.dropPower_kept | apply State.withMgt_kept | apply State.service_kept | apply State.emit_kept | apply State.showFault_kept
theorem execThermalTrip_kept (h : Kept Q none s) (point : Fin 210) (temp : BitVec 16) : Keeps Q none (execThermalTrip point temp s) := by
  unfold execThermalTrip
  repeat' with_reducible first | assumption | apply ite_kept | apply State.trip_kept | apply Keeps.next
theorem execInputOvercurrentTrip_kept (h : Kept Q none s) (ma : Nat) : Keeps Q none (execInputOvercurrentTrip ma s) := by
  unfold execInputOvercurrentTrip
  repeat' with_reducible first | assumption | apply ite_kept | apply State.trip_kept | apply Keeps.next
theorem execDomainOvercurrentTrip_kept (h : Kept Q none s) (d : Fin 50) (ma : Nat) : Keeps Q none (execDomainOvercurrentTrip d ma s) := by
  unfold execDomainOvercurrentTrip
  repeat' with_reducible first | assumption | apply ite_kept | apply State.trip_kept | apply Keeps.next
theorem execConverterFault_kept (h : Kept Q none s) (c : Fin 4) : Keeps Q none (execConverterFault c s) := by
  unfold execConverterFault
  repeat' with_reducible first | assumption | apply ite_kept | apply State.put_kept | apply State.service_kept | apply State.effLimit_kept | apply State.trip_kept | apply Keeps.next
theorem State.powerOff_kept (h : Kept Q none s) : Kept Q none (State.powerOff s) := by
  unfold State.powerOff
  repeat' first | with_reducible apply ite_kept | with_reducible apply State.emit_kept | with_reducible apply State.showFault_kept
  all_goals first | exact h | exact ⟨h.1, rfl, rfl, h.2.2.2.1, fun _ h => by cases h⟩
theorem execUnderVoltage_kept (h : Kept Q none s) (mv : Nat) : Keeps Q none (execUnderVoltage mv s) := by
  unfold execUnderVoltage
  repeat' with_reducible first | assumption | apply ite_kept | apply State.powerOff_kept | apply Keeps.next
theorem execOverVoltage_kept (h : Kept Q none s) (mv : Nat) : Keeps Q none (execOverVoltage mv s) := by
  unfold execOverVoltage
  repeat' with_reducible first | assumption | apply ite_kept | apply State.powerOff_kept | apply Keeps.next
theorem State.after_kept (h : Kept Q C s) {o : Res} (ho : Keeps Q C o) : Kept Q C (s.after o) := by
  obtain ⟨t, rfl, ht⟩ := ho
  exact ht
theorem spurExec_kept (h : Kept Q C s) (i : Instr) : Kept Q C (spurExec i s) := by
  cases i
  case spurNop th => exact State.after_kept h (execSpurNop_kept h th)
  case halt th => exact State.after_kept h (execHalt_kept h th)
  case yield th => exact State.after_kept h (execYield_kept h th)
  case fence th => exact State.after_kept h (execFence_kept h th)
  case cwb th rs1 => exact State.after_kept h (execCwb_kept h th rs1)
  case cinv th rs1 => exact State.after_kept h (execCinv_kept h th rs1)
  case cflush th => exact State.after_kept h (execCflush_kept h th)
  case mfs th rd sr => exact State.after_kept h (execMfs_kept h th rd sr)
  case mts th sr rs1 => exact State.after_kept h (execMts_kept h th sr rs1)
  case add th rd rs1 rs2 => exact State.after_kept h (execAdd_kept h th rd rs1 rs2)
  case sub th rd rs1 rs2 => exact State.after_kept h (execSub_kept h th rd rs1 rs2)
  case and th rd rs1 rs2 => exact State.after_kept h (execAnd_kept h th rd rs1 rs2)
  case or th rd rs1 rs2 => exact State.after_kept h (execOr_kept h th rd rs1 rs2)
  case xor th rd rs1 rs2 => exact State.after_kept h (execXor_kept h th rd rs1 rs2)
  case sll th rd rs1 rs2 => exact State.after_kept h (execSll_kept h th rd rs1 rs2)
  case srl th rd rs1 rs2 => exact State.after_kept h (execSrl_kept h th rd rs1 rs2)
  case sra th rd rs1 rs2 => exact State.after_kept h (execSra_kept h th rd rs1 rs2)
  case slli th rd rs1 sh => exact State.after_kept h (execSlli_kept h th rd rs1 sh)
  case srli th rd rs1 sh => exact State.after_kept h (execSrli_kept h th rd rs1 sh)
  case srai th rd rs1 sh => exact State.after_kept h (execSrai_kept h th rd rs1 sh)
  case slt th rd rs1 rs2 => exact State.after_kept h (execSlt_kept h th rd rs1 rs2)
  case sltu th rd rs1 rs2 => exact State.after_kept h (execSltu_kept h th rd rs1 rs2)
  case mul th rd rs1 rs2 => exact State.after_kept h (execMul_kept h th rd rs1 rs2)
  case mulh th rd rs1 rs2 => exact State.after_kept h (execMulh_kept h th rd rs1 rs2)
  case mulhu th rd rs1 rs2 => exact State.after_kept h (execMulhu_kept h th rd rs1 rs2)
  case min th rd rs1 rs2 => exact State.after_kept h (execMin_kept h th rd rs1 rs2)
  case max th rd rs1 rs2 => exact State.after_kept h (execMax_kept h th rd rs1 rs2)
  case minu th rd rs1 rs2 => exact State.after_kept h (execMinu_kept h th rd rs1 rs2)
  case maxu th rd rs1 rs2 => exact State.after_kept h (execMaxu_kept h th rd rs1 rs2)
  case clz th rd rs1 => exact State.after_kept h (execClz_kept h th rd rs1)
  case popc th rd rs1 => exact State.after_kept h (execPopc_kept h th rd rs1)
  case bswap th rd rs1 => exact State.after_kept h (execBswap_kept h th rd rs1)
  case addi th rd rs1 imm => exact State.after_kept h (execAddi_kept h th rd rs1 imm)
  case andi th rd rs1 imm => exact State.after_kept h (execAndi_kept h th rd rs1 imm)
  case ori th rd rs1 imm => exact State.after_kept h (execOri_kept h th rd rs1 imm)
  case xori th rd rs1 imm => exact State.after_kept h (execXori_kept h th rd rs1 imm)
  case lui th rd imm => exact State.after_kept h (execLui_kept h th rd imm)
  case ld th rt an am sz sx off => exact State.after_kept h (execLd_kept h th rt an am sz sx off)
  case st th rt an am sz off => exact State.after_kept h (execSt_kept h th rt an am sz off)
  case movaToA th ad rs1 => exact State.after_kept h (execMovaToA_kept h th ad rs1)
  case movaFromA th rd an => exact State.after_kept h (execMovaFromA_kept h th rd an)
  case adda th ad an imm => exact State.after_kept h (execAdda_kept h th ad an imm)
  case atomAdd th rd an rs2 dbl => exact State.after_kept h (execAtomAdd_kept h th rd an rs2 dbl)
  case atomMin th rd an rs2 dbl sgn => exact State.after_kept h (execAtomMin_kept h th rd an rs2 dbl sgn)
  case atomMax th rd an rs2 dbl sgn => exact State.after_kept h (execAtomMax_kept h th rd an rs2 dbl sgn)
  case atomCas th rd an rs2 dbl sgn => exact State.after_kept h (execAtomCas_kept h th rd an rs2 dbl sgn)
  case fld th rt ra sz8 => exact State.after_kept h (execFld_kept h th rt ra sz8)
  case fst th rt ra sz8 => exact State.after_kept h (execFst_kept h th rt ra sz8)
  case fabAdd th rt ra sz8 => exact State.after_kept h (execFabAdd_kept h th rt ra sz8)
  case fabMin th rt ra sz8 => exact State.after_kept h (execFabMin_kept h th rt ra sz8)
  case fabMax th rt ra sz8 => exact State.after_kept h (execFabMax_kept h th rt ra sz8)
  case fabCas th rt ra rb sz8 => exact State.after_kept h (execFabCas_kept h th rt ra rb sz8)
  case br th rs1 rs2 cond off => exact State.after_kept h (execBr_kept h th rs1 rs2 cond off)
  case j th off => exact State.after_kept h (execJ_kept h th off)
  case jal th off => exact State.after_kept h (execJal_kept h th off)
  case jalr th rd rs1 imm => exact State.after_kept h (execJalr_kept h th rd rs1 imm)
  case cvt th rd rs1 sfmt dfmt rnd => exact State.after_kept h (execCvt_kept h th rd rs1 sfmt dfmt rnd)
  case cmul th ad gs1 gs2 hi1 hi2 frac => exact State.after_kept h (execCmul_kept h th ad gs1 gs2 hi1 hi2 frac)
  case cmac th ad gs1 gs2 hi1 hi2 frac => exact State.after_kept h (execCmac_kept h th ad gs1 gs2 hi1 hi2 frac)
  case cmsu th ad gs1 gs2 hi1 hi2 frac => exact State.after_kept h (execCmsu_kept h th ad gs1 gs2 hi1 hi2 frac)
  case cmulj th ad gs1 gs2 hi1 hi2 frac => exact State.after_kept h (execCmulj_kept h th ad gs1 gs2 hi1 hi2 frac)
  case cmacj th ad gs1 gs2 hi1 hi2 frac => exact State.after_kept h (execCmacj_kept h th ad gs1 gs2 hi1 hi2 frac)
  case cmsuj th ad gs1 gs2 hi1 hi2 frac => exact State.after_kept h (execCmsuj_kept h th ad gs1 gs2 hi1 hi2 frac)
  case rmacMul th ad gs1 gs2 hi1 hi2 frac bc => exact State.after_kept h (execRmacMul_kept h th ad gs1 gs2 hi1 hi2 frac bc)
  case rmacMac th ad gs1 gs2 hi1 hi2 frac bc => exact State.after_kept h (execRmacMac_kept h th ad gs1 gs2 hi1 hi2 frac bc)
  case rmacMsu th ad gs1 gs2 hi1 hi2 frac bc => exact State.after_kept h (execRmacMsu_kept h th ad gs1 gs2 hi1 hi2 frac bc)
  case wmacMul th ad gs1 gs2 hi1 hi2 frac => exact State.after_kept h (execWmacMul_kept h th ad gs1 gs2 hi1 hi2 frac)
  case wmacMac th ad gs1 gs2 hi1 hi2 frac => exact State.after_kept h (execWmacMac_kept h th ad gs1 gs2 hi1 hi2 frac)
  case wmacMsu th ad gs1 gs2 hi1 hi2 frac => exact State.after_kept h (execWmacMsu_kept h th ad gs1 gs2 hi1 hi2 frac)
  case ftap th ad ax ah typ mx mh mv neg frac dual => exact State.after_kept h (execFtap_kept h th ad ax ah typ mx mh mv neg frac dual)
  case accClr th ad wide => exact State.after_kept h (execAccClr_kept h th ad wide)
  case accMov th ad asrc wide => exact State.after_kept h (execAccMov_kept h th ad asrc wide)
  case accAdd th ad asrc wide => exact State.after_kept h (execAccAdd_kept h th ad asrc wide)
  case accNeg th ad wide => exact State.after_kept h (execAccNeg_kept h th ad wide)
  case accShl th ad wide amt => exact State.after_kept h (execAccShl_kept h th ad wide amt)
  case accShr th ad wide amt => exact State.after_kept h (execAccShr_kept h th ad wide amt)
  case accSwap th ad wide => exact State.after_kept h (execAccSwap_kept h th ad wide)
  case accConj th ad wide => exact State.after_kept h (execAccConj_kept h th ad wide)
  case stac th ad an am fmt rm sh off => exact State.after_kept h (execStac_kept h th ad an am fmt rm sh off)
  case mvac th ad rd fmt rm sh => exact State.after_kept h (execMvac_kept h th ad rd fmt rm sh)
  case mtac th ad rs fmt rm sh => exact State.after_kept h (execMtac_kept h th ad rs fmt rm sh)
  case rpt th lv src count gc len => exact State.after_kept h (execRpt_kept h th lv src count gc len)
  case cbset th i ga gb => exact State.after_kept h (execCbset_kept h th i ga gb)
  case mtcb th i ga => exact State.after_kept h (execMtcb_kept h th i ga)
  case mtcl th i ga => exact State.after_kept h (execMtcl_kept h th i ga)
  case mfcb th i ga => exact State.after_kept h (execMfcb_kept h th i ga)
  case mfcl th i ga => exact State.after_kept h (execMfcl_kept h th i ga)
  case cbget th i j => exact State.after_kept h (execCbget_kept h th i j)
  case mtlc th lv ga => exact State.after_kept h (execMtlc_kept h th lv ga)
  case mflc th lv ga => exact State.after_kept h (execMflc_kept h th lv ga)
  all_goals exact h
theorem State.stepThread_kept (h : Kept Q C s) (th : Fin 4096) : Kept Q C (State.stepThread s th) := by
  unfold State.stepThread
  repeat' first | (with_reducible first | assumption | intro _ | apply ite_kept | apply State.setThread_kept | apply spurExec_kept | apply State.issue_kept | apply State.fault_kept) | split
theorem State.stepThreads_kept (h : Kept Q C s) (th : Fin 4096) (a_2 : Nat) : Kept Q C (State.stepThreads s th a_2) := by
  induction a_2 generalizing s with
  | zero => exact h
  | succ n ih => exact ih (State.stepThread_kept h th)
theorem execStep_kept (h : Kept Q C s) (seq : Byte) (tgt : BitVec 16) (count : BitVec 16) : Keeps Q C (execStep seq tgt count s) := by
  unfold execStep
  repeat' first | (with_reducible first | assumption | apply State.onTarget_kept) | grind (splits := 20) [State.onTarget_kept, State.answer_kept, State.tgtPc_kept, State.stepThreads_kept, State.dbgEvent_kept, Keeps.next, getD_kept, foldl_kept, foldl_kept1]
theorem State.perform_kept (h : Kept Q C s) (k : Nat) (x : SubEntry) : Kept Q C (State.perform k x s) := by
  unfold State.perform
  repeat' first | (with_reducible first | assumption | apply State.cmdCancel_kept | apply State.cmdFreezeSeq_kept | apply State.cmdThaw_kept | apply State.cmdQuerySeq_kept | apply State.cmdCopy_kept | apply State.cmdRegionSet_kept | apply State.cmdAcctRead_kept | apply State.cmdDeltaLoad_kept | apply State.cmdDeltaRetire_kept | apply State.cmdDeltaQuery_kept | apply State.cmdNop_kept | apply State.complete_kept | apply State.cmdSliceBind_kept | apply State.cmdSliceUnbind_kept | apply State.cmdSliceFreeze_kept | apply State.cmdSliceThaw_kept | apply State.cmdSliceSave_kept | apply State.cmdSliceRestore_kept | apply State.cmdGroupSet_kept | apply State.cmdModelLoad_kept | apply State.cmdModelUnload_kept | apply State.cmdCell_kept | apply State.cmdCellStatus_kept | apply State.cmdDomainJoin_kept | apply State.cmdDomainList_kept | apply State.cmdRouteSet_kept) | split
theorem State.popHead_kept (h : Kept Q C s) (k : Nat) : Kept Q C (State.popHead s k) := by
  unfold State.popHead
  repeat' with_reducible first | assumption | apply State.setRing_kept
theorem State.drainRing_kept (h : Kept Q C s) (k : Nat) (a_2 : Nat) : Kept Q C (State.drainRing s k a_2) := by
  induction a_2 generalizing s with
  | zero => exact h
  | succ n ih =>
    unfold State.drainRing
    repeat' first | (with_reducible first | assumption | apply ih | intro _ | apply State.read1_kept | apply State.popHead_kept | apply State.perform_kept) | split
theorem State.drainRings_kept (h : Kept Q C s) : Kept Q C (State.drainRings s) := by
  unfold State.drainRings
  repeat' with_reducible first | assumption | intro _ | apply foldl_kept | apply State.drainRing_kept
theorem State.runHeld_kept (h : Kept Q C s) (owner : Nat) (i : Nat) : Kept Q C (State.runHeld s owner i) := by
  unfold State.runHeld
  repeat' with_reducible first | assumption | intro _ | apply foldl_kept | apply State.perform_kept | apply State.logRec_kept | apply State.withHeldCmds_kept
theorem State.passLead_kept (h : Kept Q C s) : Kept Q C (State.passLead s) := by
  unfold State.passLead
  repeat' first | (with_reducible first | assumption | apply ite_kept | apply State.withCoord_kept | apply State.runHeld_kept) | split
theorem execLeadershipPass_kept (h : Kept Q C s) : Keeps Q C (execLeadershipPass s) := by
  unfold execLeadershipPass
  repeat' with_reducible first | assumption | apply State.atBoundary_kept | apply State.passLead_kept | apply Keeps.next
theorem State.rebuildRoutes_kept (h : Kept Q C s) : Kept Q C (State.rebuildRoutes s) := by
  unfold State.rebuildRoutes
  repeat' with_reducible first | assumption | apply ite_kept | apply State.withRoutes_kept | apply State.put_kept
theorem State.resumeService_kept (h : Kept Q C s) (i : Nat) : Kept Q C (State.resumeService s i) := by
  unfold State.resumeService
  repeat' with_reducible first | assumption | apply ite_kept | apply State.pendingKeys_kept | apply State.flushEvents_kept | apply State.syncBoot_kept | apply State.reroute_kept | apply State.put_kept | apply State.rebuildRoutes_kept | apply State.refuseAdm_kept | apply State.runHeld_kept
theorem State.updateReady_kept (h : Kept Q none s) (i : Nat) : Kept Q none (State.updateReady s i) := by
  unfold State.updateReady
  repeat' with_reducible first | assumption | apply ite_kept | apply State.logRec_kept | apply State.put_kept | apply State.goOnUpdate_kept
theorem execFwReady_kept (h : Kept Q none s) (i : Fin 11) : Keeps Q none (execFwReady i s) := by
  unfold execFwReady
  repeat' with_reducible first | assumption | apply ite_kept | apply State.clrf_kept | apply State.put_kept | apply State.updateReady_kept | apply State.setProc_kept | apply State.resumeService_kept | apply State.kick_kept | apply Keeps.next
theorem execResume_kept (h : Kept Q C s) (seq : Byte) (tgt : BitVec 16) : Keeps Q C (execResume seq tgt s) := by
  unfold execResume
  repeat' first | (with_reducible first | assumption | intro _ | apply State.onTarget_kept | apply State.setProc_kept | apply State.answer_kept | apply State.resumeService_kept | apply State.setThread_kept | apply Keeps.next) | split
theorem State.shiftTimers_kept (h : Kept Q none s) (d : ℤ) : Kept Q none (State.shiftTimers s d) := by
  unfold State.shiftTimers
  repeat' with_reducible first | assumption | apply State.withBring_kept | apply State.withTime_kept | apply State.withSec_kept | apply State.withDevErrs_kept | apply State.withSramUe_kept | apply State.withSramErrs_kept | apply State.withLinks_kept | apply State.withPeers_kept | apply State.withFabReqs_kept | apply State.withRings_kept | apply State.withCtlHb_kept | apply State.withSlices_kept | apply State.withProcs_kept
theorem State.cutTick_kept (h : Kept Q C s) : Kept Q C (State.cutTick s) := by
  unfold State.cutTick
  repeat' with_reducible first | assumption | intro _ | apply ite_kept | apply foldl_kept | apply State.stopWork_kept | apply State.newColumn_kept | apply State.setPart_kept
theorem State.stepTime_kept (h : Kept Q none s) (d : ℤ) : Kept Q none (State.stepTime s d) := by
  unfold State.stepTime
  repeat' with_reducible first | assumption | apply ite_kept | apply State.cutTick_kept | apply State.shiftTimers_kept | apply State.setNowNs_kept | apply State.setTime_kept | apply State.enterLocked_kept | apply State.put_kept | apply State.enterHoldover_kept | apply State.fireStepped_kept
theorem execTimeStep_kept (h : Kept Q none s) : Keeps Q none (execTimeStep s) := by
  unfold execTimeStep
  repeat' first | (with_reducible first | assumption | apply State.put_kept | apply State.clearLock_kept | apply State.stepTime_kept | apply Keeps.next) | split
theorem State.commitGcb_kept (h : Kept Q C s) (i : Nat) : Kept Q C (State.commitGcb s i) := by
  unfold State.commitGcb
  repeat' with_reducible first | assumption | apply ite_kept | apply State.clrf_kept | apply State.commit_kept | apply State.orf_kept
theorem State.commitFreezeAgc_kept (h : Kept Q C s) (d : Nat) : Kept Q C (State.commitFreezeAgc s d) := by
  unfold State.commitFreezeAgc
  repeat' with_reducible first | assumption | apply ite_kept | apply State.commit_kept | apply State.put_kept
theorem State.noteMismatch_kept (h : Kept Q C s) (p : Nat) : Kept Q C (State.noteMismatch s p) := by
  unfold State.noteMismatch
  repeat' with_reducible first | assumption | apply State.bump_kept | apply State.put_kept
theorem State.commitShaper_kept (h : Kept Q C s) (n : Nat) : Kept Q C (State.commitShaper s n) := by
  unfold State.commitShaper
  repeat' with_reducible first | assumption | apply ite_kept | apply State.put_kept | apply State.commit_kept
theorem State.refillShaper_kept (h : Kept Q C s) (n : Nat) : Kept Q C (State.refillShaper s n) := by
  unfold State.refillShaper
  repeat' with_reducible first | assumption | apply ite_kept | apply State.put_kept
theorem State.commitWays_kept (h : Kept Q C s) (n : Nat) : Kept Q C (State.commitWays s n) := by
  unfold State.commitWays
  repeat' with_reducible first | assumption | apply ite_kept | apply State.fillLocked_kept | apply State.commit_kept
theorem State.commitInstant_kept (h : Kept Q C s) : Kept Q C (State.commitInstant s) := by
  unfold State.commitInstant
  repeat' first | (with_reducible first | assumption | apply foldl_kept | apply State.commitRegions_kept | apply State.commitForced_kept | apply State.withCells_kept) | grind (splits := 20) [State.commit_kept, State.commitWays_kept, State.commitBankPair_kept, State.commitGcb_kept, State.commitFreezeAgc_kept, State.noteMismatch_kept, State.commitShaper_kept, State.showStaged_kept, State.commitRegions_kept, State.commitForced_kept, State.activateDelta_kept, State.withCells_kept, Keeps.next, getD_kept, foldl_kept, foldl_kept1]
theorem State.substitute_kept (h : Kept Q C s) (p : Nat) : Kept Q C (State.substitute s p) := by
  unfold State.substitute
  repeat' with_reducible first | assumption | intro _ | apply ite_kept | apply foldl_kept | apply State.commitCore_kept | apply State.setCore_kept | apply State.commitSpur_kept | apply State.setSpur_kept
theorem State.frameEdge_kept (h : Kept Q C s) : Kept Q C (State.frameEdge s) := by
  unfold State.frameEdge
  repeat' with_reducible first | assumption | intro _ | apply ite_kept | apply foldl_kept | apply State.withCells_kept | apply State.stopCell_kept | apply State.waitUnlocks_kept
theorem State.enterSeqs_kept (h : Kept Q C s) (k : Nat) (x : SubEntry) (g : GenArgs) (p : Nat) (ver : Option Nat) (toks : List Nat) : Kept Q C (State.enterSeqs s k x g p ver toks) := by
  unfold State.enterSeqs
  repeat' first | (with_reducible first | assumption | apply State.withCmds_kept) | grind (splits := 20) [State.withCmds_kept, State.withNextCmd_kept, State.newEntry_kept, State.drawn_kept, State.pin_kept, Keeps.next, getD_kept, foldl_kept, foldl_kept1]
theorem State.admitNew_kept (h : Kept Q C s) (k : Nat) (x : SubEntry) : Kept Q C (State.admitNew s k x).1 := by
  unfold State.admitNew
  repeat' first | (with_reducible first | assumption | intro _ | apply State.count_kept | apply State.read1_kept | apply State.popHead_kept | apply State.complete_kept | apply State.put_kept | apply State.enterSeqs_kept) | split | dsimp only
theorem State.admitOne_kept (h : Kept Q C s) (k : Nat) (x : SubEntry) : Kept Q C (State.admitOne s k x).1 := by
  unfold State.admitOne
  repeat' first | (with_reducible first | assumption | apply State.count_kept) | grind (splits := 20) [State.admitNew_kept, State.count_kept, State.read1_kept, State.popHead_kept, Keeps.next, getD_kept, foldl_kept, foldl_kept1]
theorem State.serveSlice_kept (h : Kept Q C s) (n : Nat) (d : Nat) (left : Nat) (a_4 : Nat) : Kept Q C (State.serveSlice s n d left a_4).1 := by
  induction a_4 generalizing s d left with
  | zero => exact h
  | succ fuel ih =>
    unfold State.serveSlice
    split
    · exact h
    · split
      · exact h
      · split
        · exact h
        · split
          · exact State.put_kept h _ _ _
          · rename_i k x _ _
            have ha := State.admitOne_kept h k x
            split
            · rename_i h1
              rw [h1] at ha
              exact ha
            · rename_i h1
              rw [h1] at ha
              exact ha
            · rename_i h1
              rw [h1] at ha
              exact ih (State.drainRing_kept (State.withLastAdm_kept (State.setSlice_kept (State.put_kept ha _ _ _) _ _) _) _ _) _ _
theorem State.admitSlice_kept (h : Kept Q C s) (n : Nat) (left : Nat) : Kept Q C (State.admitSlice s n left).1 := by
  unfold State.admitSlice
  repeat' first | (with_reducible first | assumption | apply State.put_kept) | grind (splits := 20) [State.put_kept, State.serveSlice_kept, Keeps.next, getD_kept, foldl_kept, foldl_kept1]
theorem State.admitSlices_kept (h : Kept Q C s) (left : Nat) (a_2 : List Nat) : Kept Q C (State.admitSlices s left a_2).1 := by
  induction a_2 generalizing s left with
  | nil => exact h
  | cons n ns ih =>
    unfold State.admitSlices
    have ha := State.admitSlice_kept h n left
    split
    · rename_i h1
      rw [h1] at ha
      exact ha
    · rename_i h1
      rw [h1] at ha
      exact ih ha _
theorem State.admission_kept (h : Kept Q C s) : Kept Q C (State.admission s) := by
  unfold State.admission
  repeat' first | (with_reducible first | assumption | apply State.withLastAdm_kept) | grind (splits := 20) [State.admitSlices_kept, State.withLastAdm_kept, Keeps.next, getD_kept, foldl_kept, foldl_kept1]
theorem State.nextTick_kept (h : Kept Q none s) : Kept Q none (State.nextTick s) := by
  unfold State.nextTick
  repeat' with_reducible first | assumption | apply State.setNowNs_kept | apply State.setTime_kept | apply State.put_kept
theorem State.tickCounts_kept (h : Kept Q C s) : Kept Q C (State.tickCounts s) := by
  unfold State.tickCounts
  repeat' with_reducible first | assumption | intro _ | apply foldl_kept | apply State.withMgt_kept | apply State.put_kept
theorem State.tickEdge_kept (h : Kept Q none s) : Kept Q none (State.tickEdge s) := by
  unfold State.tickEdge
  repeat' with_reducible first | assumption | intro _ | apply ite_kept | apply foldl_kept | apply State.put_kept | apply State.stopAtEdge_kept | apply State.commitInstant_kept | apply State.tickCounts_kept | apply State.nextTick_kept | apply State.substitute_kept | apply State.openBoundary_kept | apply State.stepDelta_kept | apply State.frameEdge_kept | apply State.applyThaws_kept | apply State.passLead_kept | apply State.refillShaper_kept | apply State.drainRings_kept | apply State.admission_kept | apply State.readSlots_kept | apply State.openTick_kept | apply State.fireAll_kept
theorem State.clockCycle_kept (h : Kept Q none s) : Kept Q none (State.clockCycle s) := by
  unfold State.clockCycle
  repeat' with_reducible first | assumption | apply ite_kept | apply State.tickEdge_kept | apply State.setTime_kept
theorem execTickEdge_kept (h : Kept Q none s) : Keeps Q none (execTickEdge s) := by
  unfold execTickEdge
  repeat' with_reducible first | assumption | apply State.tickEdge_kept | apply Keeps.next
theorem State.refusePlan_kept (h : Kept Q C s) (rs : List (Nat × Nat)) : Kept Q C (State.refusePlan s rs) := by
  unfold State.refusePlan
  repeat' with_reducible first | assumption | intro _ | apply foldl_kept | apply State.event_kept
theorem State.decidePlan_kept (h : Kept Q C s) (d : Dcr) (banks : List BankImage) : Kept Q C (State.decidePlan s d banks).1 := by
  unfold State.decidePlan
  repeat' first | (with_reducible first | assumption | apply State.refusePlan_kept | apply State.enterPlan_kept) | split | dsimp only
theorem State.checkRoles_kept (h : Kept Q C s) : Kept Q C (State.checkRoles s) := by
  unfold State.checkRoles
  repeat' with_reducible first | assumption | apply ite_kept | apply State.event_kept | apply State.putAll_kept
theorem State.declareReady_kept (h : Kept Q C s) : Kept Q C (State.declareReady s) := by
  unfold State.declareReady
  repeat' with_reducible first | assumption | apply State.put_kept | apply State.endStep_kept | apply State.event_kept | apply State.eventEntry_kept | apply State.withCtlHb_kept
theorem execStartupStep11_kept (h : Kept Q none s) (ms : BitVec 16) (radio hold : List BankImage) : Keeps Q none (execStartupStep11 ms radio hold s) := by
  unfold execStartupStep11
  repeat' first | (with_reducible first | assumption | apply State.stepMs_kept) | grind (splits := 20) [State.stepMs_kept, State.decidePlan_kept, State.writeBank_kept, State.declareReady_kept, State.tickEdge_kept, State.checkRoles_kept, Keeps.next, getD_kept, foldl_kept, foldl_kept1]

end Sys2Proof.Machine
end

