-- ==== Sys2Proof/WellFormed.lean ====
section
/-! DEFINITION. Well-formed commands: what the operand types do not already say. Unit numbers, register numbers and small
fields are ruled by their types; the checks below rule the operands of free length or value. -/

namespace Sys2Proof

/-- A register write names an 8-byte-aligned register inside the block's 16 MiB and slice windows (R381). -/
def wfRegAddr (a : BitVec 40) : Bool := a.toNat % 8 == 0

/-- No two elements of a list agree. -/
def distinct : List Nat → Bool
  | [] => true
  | a :: l => !l.contains a && distinct l

/-- A tick-bank image holds at most 1,280 columns of at most 4,095 entries (R75, R76), and its data lies in device-local
space. -/
def wfBank (b : BankImage) : Bool :=
  b.columns.length ≤ 1280 && (b.columns.all fun c => c.length ≤ 4095) &&
  b.pinned.all fun x => x.1.toNat + x.2.length ≤ 2 ^ 48

/-- A record carries at most the 4,096 data bytes of R354. -/
def wfRecord (r : Record) : Bool := r.data.length ≤ 4096

/-- A defect map holds at most 4,096 entries (R445). -/
def wfMap (d : Option DefectMap) : Bool := d.all fun m => m.entries.length ≤ 4096

/-- The check of a command; every other command is well-formed by its types. -/
def Instr.wf : Instr → Bool
  | .registerWrite _ a _ => wfRegAddr a
  | .tickBankWrite _ off data => off.val + data.length ≤ 0x200000
  | .startupStep4 _ _ a b => wfMap a && wfMap b
  | .startupStep5 _ up _ _ => distinct (up.map Fin.val)
  | .startupStep11 _ rs hs => distinct ((rs ++ hs).map fun b => b.part.val) && (rs ++ hs).all wfBank
  | .cellUnlockEffect _ _ b => wfBank b
  | .spareLossReproof _ b bs => wfBank b && bs.all wfBank
  | .ldRecord _ r => wfRecord r
  | .stRecord _ r => wfRecord r
  | .addRecord _ r => wfRecord r
  | .minRecord _ r => wfRecord r
  | .maxRecord _ r => wfRecord r
  | .casRecord _ r => wfRecord r
  | .msgRecord _ r => wfRecord r
  | .ldRsp _ r => wfRecord r
  | .stAck _ r => wfRecord r
  | .atomRsp _ r => wfRecord r
  | .msgAck _ r => wfRecord r
  | .memWr _ _ _ data => data.length ≤ 4092
  | .energyInterval ss _ => distinct (ss.map fun x => x.domain.val)
  | _ => true

end Sys2Proof
end

