-- ==== Sys2Proof/Laws/PerInstr.lean ====
section
/-! SUPPORT. A family of statements made per command: every command that a Spur word spells is well-formed. -/

/-- An ill-formed command is none of the Spur instructions, so it has no word. -/
def Sys2Proof.Laws.Wf.Statement (i : Sys2Proof.Instr) : Prop := i.wf = false → Sys2Proof.encodeSpur i = none

open Sys2Proof

theorem Sys2Proof.Laws.Wf.registerWrite (wr : Writer) (addr : BitVec 40) (value : Word) : Sys2Proof.Laws.Wf.Statement (.registerWrite wr addr value) := fun _ => rfl
theorem Sys2Proof.Laws.Wf.tickEdge : Sys2Proof.Laws.Wf.Statement .tickEdge := fun h => Bool.noConfusion h
theorem Sys2Proof.Laws.Wf.tickBankWrite (p : Fin 8) (off : Fin 2097152) (data : List Byte) : Sys2Proof.Laws.Wf.Statement (.tickBankWrite p off data) := fun _ => rfl
theorem Sys2Proof.Laws.Wf.radioWindowStart (p : Fin 8) (e : Fin 4096) (cyc : Fin 412501) : Sys2Proof.Laws.Wf.Statement (.radioWindowStart p e cyc) := fun h => Bool.noConfusion h
theorem Sys2Proof.Laws.Wf.radioWindowEnd (p : Fin 8) (e : Fin 4096) (x : Finish) : Sys2Proof.Laws.Wf.Statement (.radioWindowEnd p e x) := fun h => Bool.noConfusion h
theorem Sys2Proof.Laws.Wf.laneItemStart (p : Fin 8) (i : Fin 2048) (cyc : Fin 412501) : Sys2Proof.Laws.Wf.Statement (.laneItemStart p i cyc) := fun h => Bool.noConfusion h
theorem Sys2Proof.Laws.Wf.tileAbort (p : Fin 8) (i : Fin 2048) (cyc : Fin 412501) (x : TileStop) : Sys2Proof.Laws.Wf.Statement (.tileAbort p i cyc x) := fun h => Bool.noConfusion h
theorem Sys2Proof.Laws.Wf.tileEnd (p : Fin 8) (i : Fin 2048) (x : Finish) : Sys2Proof.Laws.Wf.Statement (.tileEnd p i x) := fun h => Bool.noConfusion h
theorem Sys2Proof.Laws.Wf.fenceReq (wr : Writer) (n : Fin 128) : Sys2Proof.Laws.Wf.Statement (.fenceReq wr n) := fun h => Bool.noConfusion h
theorem Sys2Proof.Laws.Wf.radioHang (n : Fin 128) : Sys2Proof.Laws.Wf.Statement (.radioHang n) := fun h => Bool.noConfusion h
theorem Sys2Proof.Laws.Wf.katNow (wr : Writer) (n : Fin 128) : Sys2Proof.Laws.Wf.Statement (.katNow wr n) := fun h => Bool.noConfusion h
theorem Sys2Proof.Laws.Wf.katPeriodExpiry : Sys2Proof.Laws.Wf.Statement .katPeriodExpiry := fun h => Bool.noConfusion h
theorem Sys2Proof.Laws.Wf.katEnd (u : UnitName) (x : KatResult) : Sys2Proof.Laws.Wf.Statement (.katEnd u x) := fun h => Bool.noConfusion h
theorem Sys2Proof.Laws.Wf.spurFenceReq (wr : Writer) (n : Fin 512) : Sys2Proof.Laws.Wf.Statement (.spurFenceReq wr n) := fun h => Bool.noConfusion h
theorem Sys2Proof.Laws.Wf.spurKatNow (wr : Writer) (n : Fin 512) : Sys2Proof.Laws.Wf.Statement (.spurKatNow wr n) := fun h => Bool.noConfusion h
theorem Sys2Proof.Laws.Wf.spurRadioHang (n : Fin 512) : Sys2Proof.Laws.Wf.Statement (.spurRadioHang n) := fun h => Bool.noConfusion h
theorem Sys2Proof.Laws.Wf.jobEnd (n : Fin 512) (t : Fin 8) (x : Finish) : Sys2Proof.Laws.Wf.Statement (.jobEnd n t x) := fun h => Bool.noConfusion h
theorem Sys2Proof.Laws.Wf.jobAbort (n : Fin 512) (t : Fin 8) (cyc : Fin 412501) (why : AbortPoint) : Sys2Proof.Laws.Wf.Statement (.jobAbort n t cyc why) := fun h => Bool.noConfusion h
theorem Sys2Proof.Laws.Wf.spurRemoteReply (th : Fin 4096) : Sys2Proof.Laws.Wf.Statement (.spurRemoteReply th) := fun h => Bool.noConfusion h
theorem Sys2Proof.Laws.Wf.storeAck (th : Fin 4096) (k : Fin 7) : Sys2Proof.Laws.Wf.Statement (.storeAck th k) := fun h => Bool.noConfusion h
theorem Sys2Proof.Laws.Wf.spurNop (th : Fin 4096) : Sys2Proof.Laws.Wf.Statement (.spurNop th) := fun h => Bool.noConfusion h
theorem Sys2Proof.Laws.Wf.halt (th : Fin 4096) : Sys2Proof.Laws.Wf.Statement (.halt th) := fun h => Bool.noConfusion h
theorem Sys2Proof.Laws.Wf.yield (th : Fin 4096) : Sys2Proof.Laws.Wf.Statement (.yield th) := fun h => Bool.noConfusion h
theorem Sys2Proof.Laws.Wf.fence (th : Fin 4096) : Sys2Proof.Laws.Wf.Statement (.fence th) := fun h => Bool.noConfusion h
theorem Sys2Proof.Laws.Wf.cwb (th : Fin 4096) (rs1 : Fin 32) : Sys2Proof.Laws.Wf.Statement (.cwb th rs1) := fun h => Bool.noConfusion h
theorem Sys2Proof.Laws.Wf.cinv (th : Fin 4096) (rs1 : Fin 32) : Sys2Proof.Laws.Wf.Statement (.cinv th rs1) := fun h => Bool.noConfusion h
theorem Sys2Proof.Laws.Wf.cflush (th : Fin 4096) : Sys2Proof.Laws.Wf.Statement (.cflush th) := fun h => Bool.noConfusion h
theorem Sys2Proof.Laws.Wf.mfs (th : Fin 4096) (rd sr : Fin 32) : Sys2Proof.Laws.Wf.Statement (.mfs th rd sr) := fun h => Bool.noConfusion h
theorem Sys2Proof.Laws.Wf.mts (th : Fin 4096) (sr rs1 : Fin 32) : Sys2Proof.Laws.Wf.Statement (.mts th sr rs1) := fun h => Bool.noConfusion h
theorem Sys2Proof.Laws.Wf.add (th : Fin 4096) (rd rs1 rs2 : Fin 32) : Sys2Proof.Laws.Wf.Statement (.add th rd rs1 rs2) := fun h => Bool.noConfusion h
theorem Sys2Proof.Laws.Wf.sub (th : Fin 4096) (rd rs1 rs2 : Fin 32) : Sys2Proof.Laws.Wf.Statement (.sub th rd rs1 rs2) := fun h => Bool.noConfusion h
theorem Sys2Proof.Laws.Wf.and (th : Fin 4096) (rd rs1 rs2 : Fin 32) : Sys2Proof.Laws.Wf.Statement (.and th rd rs1 rs2) := fun h => Bool.noConfusion h
theorem Sys2Proof.Laws.Wf.or (th : Fin 4096) (rd rs1 rs2 : Fin 32) : Sys2Proof.Laws.Wf.Statement (.or th rd rs1 rs2) := fun h => Bool.noConfusion h
theorem Sys2Proof.Laws.Wf.xor (th : Fin 4096) (rd rs1 rs2 : Fin 32) : Sys2Proof.Laws.Wf.Statement (.xor th rd rs1 rs2) := fun h => Bool.noConfusion h
theorem Sys2Proof.Laws.Wf.sll (th : Fin 4096) (rd rs1 rs2 : Fin 32) : Sys2Proof.Laws.Wf.Statement (.sll th rd rs1 rs2) := fun h => Bool.noConfusion h
theorem Sys2Proof.Laws.Wf.srl (th : Fin 4096) (rd rs1 rs2 : Fin 32) : Sys2Proof.Laws.Wf.Statement (.srl th rd rs1 rs2) := fun h => Bool.noConfusion h
theorem Sys2Proof.Laws.Wf.sra (th : Fin 4096) (rd rs1 rs2 : Fin 32) : Sys2Proof.Laws.Wf.Statement (.sra th rd rs1 rs2) := fun h => Bool.noConfusion h
theorem Sys2Proof.Laws.Wf.slli (th : Fin 4096) (rd rs1 : Fin 32) (sh : Fin 64) : Sys2Proof.Laws.Wf.Statement (.slli th rd rs1 sh) := fun h => Bool.noConfusion h
theorem Sys2Proof.Laws.Wf.srli (th : Fin 4096) (rd rs1 : Fin 32) (sh : Fin 64) : Sys2Proof.Laws.Wf.Statement (.srli th rd rs1 sh) := fun h => Bool.noConfusion h
theorem Sys2Proof.Laws.Wf.srai (th : Fin 4096) (rd rs1 : Fin 32) (sh : Fin 64) : Sys2Proof.Laws.Wf.Statement (.srai th rd rs1 sh) := fun h => Bool.noConfusion h
theorem Sys2Proof.Laws.Wf.slt (th : Fin 4096) (rd rs1 rs2 : Fin 32) : Sys2Proof.Laws.Wf.Statement (.slt th rd rs1 rs2) := fun h => Bool.noConfusion h
theorem Sys2Proof.Laws.Wf.sltu (th : Fin 4096) (rd rs1 rs2 : Fin 32) : Sys2Proof.Laws.Wf.Statement (.sltu th rd rs1 rs2) := fun h => Bool.noConfusion h
theorem Sys2Proof.Laws.Wf.mul (th : Fin 4096) (rd rs1 rs2 : Fin 32) : Sys2Proof.Laws.Wf.Statement (.mul th rd rs1 rs2) := fun h => Bool.noConfusion h
theorem Sys2Proof.Laws.Wf.mulh (th : Fin 4096) (rd rs1 rs2 : Fin 32) : Sys2Proof.Laws.Wf.Statement (.mulh th rd rs1 rs2) := fun h => Bool.noConfusion h
theorem Sys2Proof.Laws.Wf.mulhu (th : Fin 4096) (rd rs1 rs2 : Fin 32) : Sys2Proof.Laws.Wf.Statement (.mulhu th rd rs1 rs2) := fun h => Bool.noConfusion h
theorem Sys2Proof.Laws.Wf.min (th : Fin 4096) (rd rs1 rs2 : Fin 32) : Sys2Proof.Laws.Wf.Statement (.min th rd rs1 rs2) := fun h => Bool.noConfusion h
theorem Sys2Proof.Laws.Wf.max (th : Fin 4096) (rd rs1 rs2 : Fin 32) : Sys2Proof.Laws.Wf.Statement (.max th rd rs1 rs2) := fun h => Bool.noConfusion h
theorem Sys2Proof.Laws.Wf.minu (th : Fin 4096) (rd rs1 rs2 : Fin 32) : Sys2Proof.Laws.Wf.Statement (.minu th rd rs1 rs2) := fun h => Bool.noConfusion h
theorem Sys2Proof.Laws.Wf.maxu (th : Fin 4096) (rd rs1 rs2 : Fin 32) : Sys2Proof.Laws.Wf.Statement (.maxu th rd rs1 rs2) := fun h => Bool.noConfusion h
theorem Sys2Proof.Laws.Wf.clz (th : Fin 4096) (rd rs1 : Fin 32) : Sys2Proof.Laws.Wf.Statement (.clz th rd rs1) := fun h => Bool.noConfusion h
theorem Sys2Proof.Laws.Wf.popc (th : Fin 4096) (rd rs1 : Fin 32) : Sys2Proof.Laws.Wf.Statement (.popc th rd rs1) := fun h => Bool.noConfusion h
theorem Sys2Proof.Laws.Wf.bswap (th : Fin 4096) (rd rs1 : Fin 32) : Sys2Proof.Laws.Wf.Statement (.bswap th rd rs1) := fun h => Bool.noConfusion h
theorem Sys2Proof.Laws.Wf.addi (th : Fin 4096) (rd rs1 : Fin 32) (imm : BitVec 16) : Sys2Proof.Laws.Wf.Statement (.addi th rd rs1 imm) := fun h => Bool.noConfusion h
theorem Sys2Proof.Laws.Wf.andi (th : Fin 4096) (rd rs1 : Fin 32) (imm : BitVec 16) : Sys2Proof.Laws.Wf.Statement (.andi th rd rs1 imm) := fun h => Bool.noConfusion h
theorem Sys2Proof.Laws.Wf.ori (th : Fin 4096) (rd rs1 : Fin 32) (imm : BitVec 16) : Sys2Proof.Laws.Wf.Statement (.ori th rd rs1 imm) := fun h => Bool.noConfusion h
theorem Sys2Proof.Laws.Wf.xori (th : Fin 4096) (rd rs1 : Fin 32) (imm : BitVec 16) : Sys2Proof.Laws.Wf.Statement (.xori th rd rs1 imm) := fun h => Bool.noConfusion h
theorem Sys2Proof.Laws.Wf.lui (th : Fin 4096) (rd : Fin 32) (imm : BitVec 16) : Sys2Proof.Laws.Wf.Statement (.lui th rd imm) := fun h => Bool.noConfusion h
theorem Sys2Proof.Laws.Wf.ld (th : Fin 4096) (rt : Fin 32) (an : Fin 8) (am sz : Fin 4) (sx : Bool) (off : BitVec 13) : Sys2Proof.Laws.Wf.Statement (.ld th rt an am sz sx off) := fun h => Bool.noConfusion h
theorem Sys2Proof.Laws.Wf.st (th : Fin 4096) (rt : Fin 32) (an : Fin 8) (am sz : Fin 4) (off : BitVec 13) : Sys2Proof.Laws.Wf.Statement (.st th rt an am sz off) := fun h => Bool.noConfusion h
theorem Sys2Proof.Laws.Wf.movaToA (th : Fin 4096) (ad : Fin 8) (rs1 : Fin 32) : Sys2Proof.Laws.Wf.Statement (.movaToA th ad rs1) := fun h => Bool.noConfusion h
theorem Sys2Proof.Laws.Wf.movaFromA (th : Fin 4096) (rd : Fin 32) (an : Fin 8) : Sys2Proof.Laws.Wf.Statement (.movaFromA th rd an) := fun h => Bool.noConfusion h
theorem Sys2Proof.Laws.Wf.adda (th : Fin 4096) (ad an : Fin 8) (imm : BitVec 16) : Sys2Proof.Laws.Wf.Statement (.adda th ad an imm) := fun h => Bool.noConfusion h
theorem Sys2Proof.Laws.Wf.atomAdd (th : Fin 4096) (rd : Fin 32) (an : Fin 8) (rs2 : Fin 32) (dbl : Bool) : Sys2Proof.Laws.Wf.Statement (.atomAdd th rd an rs2 dbl) := fun h => Bool.noConfusion h
theorem Sys2Proof.Laws.Wf.atomMin (th : Fin 4096) (rd : Fin 32) (an : Fin 8) (rs2 : Fin 32) (dbl sgn : Bool) : Sys2Proof.Laws.Wf.Statement (.atomMin th rd an rs2 dbl sgn) := fun h => Bool.noConfusion h
theorem Sys2Proof.Laws.Wf.atomMax (th : Fin 4096) (rd : Fin 32) (an : Fin 8) (rs2 : Fin 32) (dbl sgn : Bool) : Sys2Proof.Laws.Wf.Statement (.atomMax th rd an rs2 dbl sgn) := fun h => Bool.noConfusion h
theorem Sys2Proof.Laws.Wf.atomCas (th : Fin 4096) (rd : Fin 32) (an : Fin 8) (rs2 : Fin 32) (dbl sgn : Bool) : Sys2Proof.Laws.Wf.Statement (.atomCas th rd an rs2 dbl sgn) := fun h => Bool.noConfusion h
theorem Sys2Proof.Laws.Wf.fld (th : Fin 4096) (rt ra : Fin 32) (sz8 : Bool) : Sys2Proof.Laws.Wf.Statement (.fld th rt ra sz8) := fun h => Bool.noConfusion h
theorem Sys2Proof.Laws.Wf.fst (th : Fin 4096) (rt ra : Fin 32) (sz8 : Bool) : Sys2Proof.Laws.Wf.Statement (.fst th rt ra sz8) := fun h => Bool.noConfusion h
theorem Sys2Proof.Laws.Wf.fabAdd (th : Fin 4096) (rt ra : Fin 32) (sz8 : Bool) : Sys2Proof.Laws.Wf.Statement (.fabAdd th rt ra sz8) := fun h => Bool.noConfusion h
theorem Sys2Proof.Laws.Wf.fabMin (th : Fin 4096) (rt ra : Fin 32) (sz8 : Bool) : Sys2Proof.Laws.Wf.Statement (.fabMin th rt ra sz8) := fun h => Bool.noConfusion h
theorem Sys2Proof.Laws.Wf.fabMax (th : Fin 4096) (rt ra : Fin 32) (sz8 : Bool) : Sys2Proof.Laws.Wf.Statement (.fabMax th rt ra sz8) := fun h => Bool.noConfusion h
theorem Sys2Proof.Laws.Wf.fabCas (th : Fin 4096) (rt ra rb : Fin 32) (sz8 : Bool) : Sys2Proof.Laws.Wf.Statement (.fabCas th rt ra rb sz8) := fun h => Bool.noConfusion h
theorem Sys2Proof.Laws.Wf.br (th : Fin 4096) (rs1 rs2 : Fin 32) (cond : Fin 6) (off : BitVec 13) : Sys2Proof.Laws.Wf.Statement (.br th rs1 rs2 cond off) := fun h => Bool.noConfusion h
theorem Sys2Proof.Laws.Wf.j (th : Fin 4096) (off : BitVec 26) : Sys2Proof.Laws.Wf.Statement (.j th off) := fun h => Bool.noConfusion h
theorem Sys2Proof.Laws.Wf.jal (th : Fin 4096) (off : BitVec 26) : Sys2Proof.Laws.Wf.Statement (.jal th off) := fun h => Bool.noConfusion h
theorem Sys2Proof.Laws.Wf.jalr (th : Fin 4096) (rd rs1 : Fin 32) (imm : BitVec 16) : Sys2Proof.Laws.Wf.Statement (.jalr th rd rs1 imm) := fun h => Bool.noConfusion h
theorem Sys2Proof.Laws.Wf.cvt (th : Fin 4096) (rd rs1 : Fin 32) (sfmt dfmt : Fin 32) (rnd : Bool) : Sys2Proof.Laws.Wf.Statement (.cvt th rd rs1 sfmt dfmt rnd) := fun h => Bool.noConfusion h
theorem Sys2Proof.Laws.Wf.cmul (th : Fin 4096) (ad : Fin 4) (gs1 gs2 : Fin 32) (hi1 hi2 frac : Bool) : Sys2Proof.Laws.Wf.Statement (.cmul th ad gs1 gs2 hi1 hi2 frac) := fun h => Bool.noConfusion h
theorem Sys2Proof.Laws.Wf.cmac (th : Fin 4096) (ad : Fin 4) (gs1 gs2 : Fin 32) (hi1 hi2 frac : Bool) : Sys2Proof.Laws.Wf.Statement (.cmac th ad gs1 gs2 hi1 hi2 frac) := fun h => Bool.noConfusion h
theorem Sys2Proof.Laws.Wf.cmsu (th : Fin 4096) (ad : Fin 4) (gs1 gs2 : Fin 32) (hi1 hi2 frac : Bool) : Sys2Proof.Laws.Wf.Statement (.cmsu th ad gs1 gs2 hi1 hi2 frac) := fun h => Bool.noConfusion h
theorem Sys2Proof.Laws.Wf.cmulj (th : Fin 4096) (ad : Fin 4) (gs1 gs2 : Fin 32) (hi1 hi2 frac : Bool) : Sys2Proof.Laws.Wf.Statement (.cmulj th ad gs1 gs2 hi1 hi2 frac) := fun h => Bool.noConfusion h
theorem Sys2Proof.Laws.Wf.cmacj (th : Fin 4096) (ad : Fin 4) (gs1 gs2 : Fin 32) (hi1 hi2 frac : Bool) : Sys2Proof.Laws.Wf.Statement (.cmacj th ad gs1 gs2 hi1 hi2 frac) := fun h => Bool.noConfusion h
theorem Sys2Proof.Laws.Wf.cmsuj (th : Fin 4096) (ad : Fin 4) (gs1 gs2 : Fin 32) (hi1 hi2 frac : Bool) : Sys2Proof.Laws.Wf.Statement (.cmsuj th ad gs1 gs2 hi1 hi2 frac) := fun h => Bool.noConfusion h
theorem Sys2Proof.Laws.Wf.rmacMul (th : Fin 4096) (ad : Fin 4) (gs1 gs2 : Fin 32) (hi1 hi2 frac bc : Bool) : Sys2Proof.Laws.Wf.Statement (.rmacMul th ad gs1 gs2 hi1 hi2 frac bc) := fun h => Bool.noConfusion h
theorem Sys2Proof.Laws.Wf.rmacMac (th : Fin 4096) (ad : Fin 4) (gs1 gs2 : Fin 32) (hi1 hi2 frac bc : Bool) : Sys2Proof.Laws.Wf.Statement (.rmacMac th ad gs1 gs2 hi1 hi2 frac bc) := fun h => Bool.noConfusion h
theorem Sys2Proof.Laws.Wf.rmacMsu (th : Fin 4096) (ad : Fin 4) (gs1 gs2 : Fin 32) (hi1 hi2 frac bc : Bool) : Sys2Proof.Laws.Wf.Statement (.rmacMsu th ad gs1 gs2 hi1 hi2 frac bc) := fun h => Bool.noConfusion h
theorem Sys2Proof.Laws.Wf.wmacMul (th : Fin 4096) (ad : Fin 4) (gs1 gs2 : Fin 32) (hi1 hi2 frac : Bool) : Sys2Proof.Laws.Wf.Statement (.wmacMul th ad gs1 gs2 hi1 hi2 frac) := fun h => Bool.noConfusion h
theorem Sys2Proof.Laws.Wf.wmacMac (th : Fin 4096) (ad : Fin 4) (gs1 gs2 : Fin 32) (hi1 hi2 frac : Bool) : Sys2Proof.Laws.Wf.Statement (.wmacMac th ad gs1 gs2 hi1 hi2 frac) := fun h => Bool.noConfusion h
theorem Sys2Proof.Laws.Wf.wmacMsu (th : Fin 4096) (ad : Fin 4) (gs1 gs2 : Fin 32) (hi1 hi2 frac : Bool) : Sys2Proof.Laws.Wf.Statement (.wmacMsu th ad gs1 gs2 hi1 hi2 frac) := fun h => Bool.noConfusion h
theorem Sys2Proof.Laws.Wf.ftap (th : Fin 4096) (ad : Fin 4) (ax ah : Fin 8) (typ mx mh : Fin 4) (mv neg frac dual : Bool) : Sys2Proof.Laws.Wf.Statement (.ftap th ad ax ah typ mx mh mv neg frac dual) := fun h => Bool.noConfusion h
theorem Sys2Proof.Laws.Wf.accClr (th : Fin 4096) (ad : Fin 4) (wide : Bool) : Sys2Proof.Laws.Wf.Statement (.accClr th ad wide) := fun h => Bool.noConfusion h
theorem Sys2Proof.Laws.Wf.accMov (th : Fin 4096) (ad asrc : Fin 4) (wide : Bool) : Sys2Proof.Laws.Wf.Statement (.accMov th ad asrc wide) := fun h => Bool.noConfusion h
theorem Sys2Proof.Laws.Wf.accAdd (th : Fin 4096) (ad asrc : Fin 4) (wide : Bool) : Sys2Proof.Laws.Wf.Statement (.accAdd th ad asrc wide) := fun h => Bool.noConfusion h
theorem Sys2Proof.Laws.Wf.accNeg (th : Fin 4096) (ad : Fin 4) (wide : Bool) : Sys2Proof.Laws.Wf.Statement (.accNeg th ad wide) := fun h => Bool.noConfusion h
theorem Sys2Proof.Laws.Wf.accShl (th : Fin 4096) (ad : Fin 4) (wide : Bool) (amt : Fin 64) : Sys2Proof.Laws.Wf.Statement (.accShl th ad wide amt) := fun h => Bool.noConfusion h
theorem Sys2Proof.Laws.Wf.accShr (th : Fin 4096) (ad : Fin 4) (wide : Bool) (amt : Fin 64) : Sys2Proof.Laws.Wf.Statement (.accShr th ad wide amt) := fun h => Bool.noConfusion h
theorem Sys2Proof.Laws.Wf.accSwap (th : Fin 4096) (ad : Fin 4) (wide : Bool) : Sys2Proof.Laws.Wf.Statement (.accSwap th ad wide) := fun h => Bool.noConfusion h
theorem Sys2Proof.Laws.Wf.accConj (th : Fin 4096) (ad : Fin 4) (wide : Bool) : Sys2Proof.Laws.Wf.Statement (.accConj th ad wide) := fun h => Bool.noConfusion h
theorem Sys2Proof.Laws.Wf.stac (th : Fin 4096) (ad : Fin 4) (an : Fin 8) (am : Fin 4) (fmt : Fin 8) (rm : Bool) (sh : Fin 64) (off : BitVec 9) : Sys2Proof.Laws.Wf.Statement (.stac th ad an am fmt rm sh off) := fun h => Bool.noConfusion h
theorem Sys2Proof.Laws.Wf.mvac (th : Fin 4096) (ad : Fin 4) (rd : Fin 32) (fmt : Fin 8) (rm : Bool) (sh : Fin 64) : Sys2Proof.Laws.Wf.Statement (.mvac th ad rd fmt rm sh) := fun h => Bool.noConfusion h
theorem Sys2Proof.Laws.Wf.mtac (th : Fin 4096) (ad : Fin 4) (rs : Fin 32) (fmt : Fin 8) (rm : Bool) (sh : Fin 64) : Sys2Proof.Laws.Wf.Statement (.mtac th ad rs fmt rm sh) := fun h => Bool.noConfusion h
theorem Sys2Proof.Laws.Wf.rpt (th : Fin 4096) (lv : Fin 4) (src : Bool) (count : BitVec 11) (gc : Fin 32) (len : BitVec 12) : Sys2Proof.Laws.Wf.Statement (.rpt th lv src count gc len) := fun h => Bool.noConfusion h
theorem Sys2Proof.Laws.Wf.cbset (th : Fin 4096) (i : Fin 8) (ga gb : Fin 32) : Sys2Proof.Laws.Wf.Statement (.cbset th i ga gb) := fun h => Bool.noConfusion h
theorem Sys2Proof.Laws.Wf.mtcb (th : Fin 4096) (i : Fin 8) (ga : Fin 32) : Sys2Proof.Laws.Wf.Statement (.mtcb th i ga) := fun h => Bool.noConfusion h
theorem Sys2Proof.Laws.Wf.mtcl (th : Fin 4096) (i : Fin 8) (ga : Fin 32) : Sys2Proof.Laws.Wf.Statement (.mtcl th i ga) := fun h => Bool.noConfusion h
theorem Sys2Proof.Laws.Wf.mfcb (th : Fin 4096) (i : Fin 8) (ga : Fin 32) : Sys2Proof.Laws.Wf.Statement (.mfcb th i ga) := fun h => Bool.noConfusion h
theorem Sys2Proof.Laws.Wf.mfcl (th : Fin 4096) (i : Fin 8) (ga : Fin 32) : Sys2Proof.Laws.Wf.Statement (.mfcl th i ga) := fun h => Bool.noConfusion h
theorem Sys2Proof.Laws.Wf.cbget (th : Fin 4096) (i : Fin 8) (j : Fin 4) : Sys2Proof.Laws.Wf.Statement (.cbget th i j) := fun h => Bool.noConfusion h
theorem Sys2Proof.Laws.Wf.mtlc (th : Fin 4096) (lv : Fin 4) (ga : Fin 32) : Sys2Proof.Laws.Wf.Statement (.mtlc th lv ga) := fun h => Bool.noConfusion h
theorem Sys2Proof.Laws.Wf.mflc (th : Fin 4096) (lv : Fin 4) (ga : Fin 32) : Sys2Proof.Laws.Wf.Statement (.mflc th lv ga) := fun h => Bool.noConfusion h
theorem Sys2Proof.Laws.Wf.gcbRgnWrite (wr : Writer) (n : Fin 512) (j : Fin 4) (lim : Bool) (value : Addr) : Sys2Proof.Laws.Wf.Statement (.gcbRgnWrite wr n j lim value) := fun h => Bool.noConfusion h
theorem Sys2Proof.Laws.Wf.spurSubstitution (n : Fin 512) : Sys2Proof.Laws.Wf.Statement (.spurSubstitution n) := fun h => Bool.noConfusion h
theorem Sys2Proof.Laws.Wf.spareSubstitutionCommit (n : Fin 128) : Sys2Proof.Laws.Wf.Statement (.spareSubstitutionCommit n) := fun h => Bool.noConfusion h
theorem Sys2Proof.Laws.Wf.spareLossReproof (p : Fin 8) (first : BankImage) (more : List BankImage) : Sys2Proof.Laws.Wf.Statement (.spareLossReproof p first more) := fun _ => rfl
theorem Sys2Proof.Laws.Wf.nocPacket (r : Fin 32) (header : BitVec 288) (data : List (BitVec 288)) : Sys2Proof.Laws.Wf.Statement (.nocPacket r header data) := fun h => Bool.noConfusion h
theorem Sys2Proof.Laws.Wf.nocTimeout (src : BitVec 12) (txn : BitVec 16) : Sys2Proof.Laws.Wf.Statement (.nocTimeout src txn) := fun h => Bool.noConfusion h
theorem Sys2Proof.Laws.Wf.dmaTransferStart (p : Fin 8) (eng : Fin 16) (desc : Addr) : Sys2Proof.Laws.Wf.Statement (.dmaTransferStart p eng desc) := fun h => Bool.noConfusion h
theorem Sys2Proof.Laws.Wf.dmaTransferEnd (p : Fin 8) (eng : Fin 16) (k : Nat) : Sys2Proof.Laws.Wf.Statement (.dmaTransferEnd p eng k) := fun h => Bool.noConfusion h
theorem Sys2Proof.Laws.Wf.sramScrub (addr : Addr) (word : BitVec 288) : Sys2Proof.Laws.Wf.Statement (.sramScrub addr word) := fun h => Bool.noConfusion h
theorem Sys2Proof.Laws.Wf.dramPatrol (m : Fin 24) (rank : Fin 2) (addr : Addr) (lo hi : BitVec 320) : Sys2Proof.Laws.Wf.Statement (.dramPatrol m rank addr lo hi) := fun h => Bool.noConfusion h
theorem Sys2Proof.Laws.Wf.channelLost (m : Fin 24) : Sys2Proof.Laws.Wf.Statement (.channelLost m) := fun h => Bool.noConfusion h
theorem Sys2Proof.Laws.Wf.routerFailure (r : Fin 32) : Sys2Proof.Laws.Wf.Statement (.routerFailure r) := fun h => Bool.noConfusion h
theorem Sys2Proof.Laws.Wf.keyLoad (slot : Fin 8192) : Sys2Proof.Laws.Wf.Statement (.keyLoad slot) := fun h => Bool.noConfusion h
theorem Sys2Proof.Laws.Wf.cmpTimerFire (n : Fin 16) (ns : Nat) : Sys2Proof.Laws.Wf.Statement (.cmpTimerFire n ns) := fun h => Bool.noConfusion h
theorem Sys2Proof.Laws.Wf.cmpTargetWrite (wr : Writer) (n : Fin 16) (target : Word) : Sys2Proof.Laws.Wf.Statement (.cmpTargetWrite wr n target) := fun h => Bool.noConfusion h
theorem Sys2Proof.Laws.Wf.cmpEnableWrite (wr : Writer) (enable : BitVec 16) (fired : BitVec 16) : Sys2Proof.Laws.Wf.Statement (.cmpEnableWrite wr enable fired) := fun h => Bool.noConfusion h
theorem Sys2Proof.Laws.Wf.srcSelWrite (wr : Writer) (sel : Fin 4) (synceEn : Bool) : Sys2Proof.Laws.Wf.Statement (.srcSelWrite wr sel synceEn) := fun h => Bool.noConfusion h
theorem Sys2Proof.Laws.Wf.forceHoldover (wr : Writer) (on : Bool) : Sys2Proof.Laws.Wf.Statement (.forceHoldover wr on) := fun h => Bool.noConfusion h
theorem Sys2Proof.Laws.Wf.stepArm (wr : Writer) : Sys2Proof.Laws.Wf.Statement (.stepArm wr) := fun h => Bool.noConfusion h
theorem Sys2Proof.Laws.Wf.timeSnapshot (wr : Writer) : Sys2Proof.Laws.Wf.Statement (.timeSnapshot wr) := fun h => Bool.noConfusion h
theorem Sys2Proof.Laws.Wf.syncReceived (from_ : PtpSender) (offset : Int) (freq : Int) (ns : Nat) : Sys2Proof.Laws.Wf.Statement (.syncReceived from_ offset freq ns) := fun h => Bool.noConfusion h
theorem Sys2Proof.Laws.Wf.timeStep : Sys2Proof.Laws.Wf.Statement .timeStep := fun h => Bool.noConfusion h
theorem Sys2Proof.Laws.Wf.announceReceived (x : AnnounceMsg) (ns : Nat) : Sys2Proof.Laws.Wf.Statement (.announceReceived x ns) := fun h => Bool.noConfusion h
theorem Sys2Proof.Laws.Wf.announceTimeout (src : BitVec 80) : Sys2Proof.Laws.Wf.Statement (.announceTimeout src) := fun h => Bool.noConfusion h
theorem Sys2Proof.Laws.Wf.syncTimeout : Sys2Proof.Laws.Wf.Statement .syncTimeout := fun h => Bool.noConfusion h
theorem Sys2Proof.Laws.Wf.holdLimitExceeded : Sys2Proof.Laws.Wf.Statement .holdLimitExceeded := fun h => Bool.noConfusion h
theorem Sys2Proof.Laws.Wf.refuseFault : Sys2Proof.Laws.Wf.Statement .refuseFault := fun h => Bool.noConfusion h
theorem Sys2Proof.Laws.Wf.ptpMasterTx (port : Fin 8) (sub : Fin 4) (kind : Fin 16) : Sys2Proof.Laws.Wf.Statement (.ptpMasterTx port sub kind) := fun h => Bool.noConfusion h
theorem Sys2Proof.Laws.Wf.esmcReceived (port : Fin 8) (sub : Fin 4) (ql : BitVec 4) : Sys2Proof.Laws.Wf.Statement (.esmcReceived port sub ql) := fun h => Bool.noConfusion h
theorem Sys2Proof.Laws.Wf.synceLoss : Sys2Proof.Laws.Wf.Statement .synceLoss := fun h => Bool.noConfusion h
theorem Sys2Proof.Laws.Wf.ppsInEdge (x : PpsEdge) (ns : Nat) : Sys2Proof.Laws.Wf.Statement (.ppsInEdge x ns) := fun h => Bool.noConfusion h
theorem Sys2Proof.Laws.Wf.ppsOutPulse : Sys2Proof.Laws.Wf.Statement .ppsOutPulse := fun h => Bool.noConfusion h
theorem Sys2Proof.Laws.Wf.lockWaitExpiry : Sys2Proof.Laws.Wf.Statement .lockWaitExpiry := fun h => Bool.noConfusion h
theorem Sys2Proof.Laws.Wf.cellStart (c : Fin 4096) : Sys2Proof.Laws.Wf.Statement (.cellStart c) := fun h => Bool.noConfusion h
theorem Sys2Proof.Laws.Wf.slotMessage (r : Fin 8) (e : Entry) (pdus : List Byte) : Sys2Proof.Laws.Wf.Statement (.slotMessage r e pdus) := fun h => Bool.noConfusion h
theorem Sys2Proof.Laws.Wf.indicationPost (c : Fin 4096) (sfn : Fin 1024) (slot : Fin 80) (pdu : BitVec 32) (ind : Indication) : Sys2Proof.Laws.Wf.Statement (.indicationPost c sfn slot pdu ind) := fun h => Bool.noConfusion h
theorem Sys2Proof.Laws.Wf.harqHoldExpiry (c : Fin 4096) (rnti : BitVec 16) (h : Fin 32) : Sys2Proof.Laws.Wf.Statement (.harqHoldExpiry c rnti h) := fun h => Bool.noConfusion h
theorem Sys2Proof.Laws.Wf.cellLockEffect (p : Fin 8) (c : Fin 4096) : Sys2Proof.Laws.Wf.Statement (.cellLockEffect p c) := fun h => Bool.noConfusion h
theorem Sys2Proof.Laws.Wf.cellUnlockEffect (p : Fin 8) (c : Fin 4096) (bank : BankImage) : Sys2Proof.Laws.Wf.Statement (.cellUnlockEffect p c bank) := fun _ => rfl
theorem Sys2Proof.Laws.Wf.frameReceived (x : Fin 8) (sub : Fin 4) (f : FhFrame) (ns : Fin 125000) : Sys2Proof.Laws.Wf.Statement (.frameReceived x sub f ns) := fun h => Bool.noConfusion h
theorem Sys2Proof.Laws.Wf.delayMeasurementMsg (x : Fin 8) (sub : Fin 4) (isResponse : Bool) (owd : BitVec 32) : Sys2Proof.Laws.Wf.Statement (.delayMeasurementMsg x sub isResponse owd) := fun h => Bool.noConfusion h
theorem Sys2Proof.Laws.Wf.dmStart (wr : Writer) (x : Fin 8) : Sys2Proof.Laws.Wf.Statement (.dmStart wr x) := fun h => Bool.noConfusion h
theorem Sys2Proof.Laws.Wf.dmTimeout (x : Fin 8) : Sys2Proof.Laws.Wf.Statement (.dmTimeout x) := fun h => Bool.noConfusion h
theorem Sys2Proof.Laws.Wf.ulWindowClose (k : Fin 4096) (sfn : Fin 1024) (slot : Fin 80) (sym : Fin 14) : Sys2Proof.Laws.Wf.Statement (.ulWindowClose k sfn slot sym) := fun h => Bool.noConfusion h
theorem Sys2Proof.Laws.Wf.fhFrameSend (x : Fin 8) (sub : Fin 4) (ns : Fin 125000) : Sys2Proof.Laws.Wf.Statement (.fhFrameSend x sub ns) := fun h => Bool.noConfusion h
theorem Sys2Proof.Laws.Wf.fhTxWindowExpiry (x : Fin 8) (sub : Fin 4) (ns : Fin 125000) : Sys2Proof.Laws.Wf.Statement (.fhTxWindowExpiry x sub ns) := fun h => Bool.noConfusion h
theorem Sys2Proof.Laws.Wf.fhLinkUp (x : Fin 8) (sub : Fin 4) : Sys2Proof.Laws.Wf.Statement (.fhLinkUp x sub) := fun h => Bool.noConfusion h
theorem Sys2Proof.Laws.Wf.fhLinkDown (x : Fin 8) (sub : Fin 4) : Sys2Proof.Laws.Wf.Statement (.fhLinkDown x sub) := fun h => Bool.noConfusion h
theorem Sys2Proof.Laws.Wf.peerMacWrite (wr : Writer) (x : Fin 8) (sub : Fin 4) (mac : BitVec 48) : Sys2Proof.Laws.Wf.Statement (.peerMacWrite wr x sub mac) := fun h => Bool.noConfusion h
theorem Sys2Proof.Laws.Wf.maskMeasurement (d : Fin 64) (near : List Bool) : Sys2Proof.Laws.Wf.Statement (.maskMeasurement d near) := fun h => Bool.noConfusion h
theorem Sys2Proof.Laws.Wf.maskMuteClear (wr : Writer) (d : Fin 64) : Sys2Proof.Laws.Wf.Statement (.maskMuteClear wr d) := fun h => Bool.noConfusion h
theorem Sys2Proof.Laws.Wf.dfeSnapshot (wr : Writer) (d : Fin 64) : Sys2Proof.Laws.Wf.Statement (.dfeSnapshot wr d) := fun h => Bool.noConfusion h
theorem Sys2Proof.Laws.Wf.seqWrite (wr : Writer) (d : Fin 64) (mem : Option (Fin 8)) (value : Word) : Sys2Proof.Laws.Wf.Statement (.seqWrite wr d mem value) := fun h => Bool.noConfusion h
theorem Sys2Proof.Laws.Wf.dfeCfgWrite (wr : Writer) (d : Fin 64) (f : DfeCfgField) (value : BitVec 32) : Sys2Proof.Laws.Wf.Statement (.dfeCfgWrite wr d f value) := fun h => Bool.noConfusion h
theorem Sys2Proof.Laws.Wf.passCommit (p : Fin 8) (b : Nat) (results : List SeqResult) (beams : List BeamCand) : Sys2Proof.Laws.Wf.Statement (.passCommit p b results beams) := fun h => Bool.noConfusion h
theorem Sys2Proof.Laws.Wf.prefixLookup (idx : Fin 262144) : Sys2Proof.Laws.Wf.Statement (.prefixLookup idx) := fun h => Bool.noConfusion h
theorem Sys2Proof.Laws.Wf.spillCommit (k : Nat) : Sys2Proof.Laws.Wf.Statement (.spillCommit k) := fun h => Bool.noConfusion h
theorem Sys2Proof.Laws.Wf.pageWaitExhausted (idx : Fin 262144) : Sys2Proof.Laws.Wf.Statement (.pageWaitExhausted idx) := fun h => Bool.noConfusion h
theorem Sys2Proof.Laws.Wf.peerSpillCommit (idx : Fin 262144) (node : BitVec 16) (frames : List (BitVec 28)) : Sys2Proof.Laws.Wf.Statement (.peerSpillCommit idx node frames) := fun h => Bool.noConfusion h
theorem Sys2Proof.Laws.Wf.moveCommit (idx : Fin 262144) : Sys2Proof.Laws.Wf.Statement (.moveCommit idx) := fun h => Bool.noConfusion h
theorem Sys2Proof.Laws.Wf.roleChange (x : RoleAsk) : Sys2Proof.Laws.Wf.Statement (.roleChange x) := fun h => Bool.noConfusion h
theorem Sys2Proof.Laws.Wf.cancellationApply (idx : Fin 262144) : Sys2Proof.Laws.Wf.Statement (.cancellationApply idx) := fun h => Bool.noConfusion h
theorem Sys2Proof.Laws.Wf.sequenceFreeze (idx : Fin 262144) : Sys2Proof.Laws.Wf.Statement (.sequenceFreeze idx) := fun h => Bool.noConfusion h
theorem Sys2Proof.Laws.Wf.sequenceEnd (idx : Fin 262144) : Sys2Proof.Laws.Wf.Statement (.sequenceEnd idx) := fun h => Bool.noConfusion h
theorem Sys2Proof.Laws.Wf.scopeKeyReplace (scope : Fin 8191) : Sys2Proof.Laws.Wf.Statement (.scopeKeyReplace scope) := fun h => Bool.noConfusion h
theorem Sys2Proof.Laws.Wf.energyInterval (samples : List EnergySample) (pinW : Nat) : Sys2Proof.Laws.Wf.Statement (.energyInterval samples pinW) := fun _ => rfl
theorem Sys2Proof.Laws.Wf.deltaActivate (slot : Fin 65536) : Sys2Proof.Laws.Wf.Statement (.deltaActivate slot) := fun h => Bool.noConfusion h
theorem Sys2Proof.Laws.Wf.deltaFreeing (slot : Fin 65536) : Sys2Proof.Laws.Wf.Statement (.deltaFreeing slot) := fun h => Bool.noConfusion h
theorem Sys2Proof.Laws.Wf.deltaSlotFree (slot : Fin 65536) : Sys2Proof.Laws.Wf.Statement (.deltaSlotFree slot) := fun h => Bool.noConfusion h
theorem Sys2Proof.Laws.Wf.shardMoveSwitch (copied : Nat) : Sys2Proof.Laws.Wf.Statement (.shardMoveSwitch copied) := fun h => Bool.noConfusion h
theorem Sys2Proof.Laws.Wf.shardMoveRelease : Sys2Proof.Laws.Wf.Statement .shardMoveRelease := fun h => Bool.noConfusion h
theorem Sys2Proof.Laws.Wf.linkTrained (l : Fin 36) (x : Training) : Sys2Proof.Laws.Wf.Statement (.linkTrained l x) := fun h => Bool.noConfusion h
theorem Sys2Proof.Laws.Wf.linkRetrainTimer (l : Fin 36) : Sys2Proof.Laws.Wf.Statement (.linkRetrainTimer l) := fun h => Bool.noConfusion h
theorem Sys2Proof.Laws.Wf.laneFailure (l : Fin 36) (lane : Fin 5) : Sys2Proof.Laws.Wf.Statement (.laneFailure l lane) := fun h => Bool.noConfusion h
theorem Sys2Proof.Laws.Wf.linkRetrainEnd (l : Fin 36) (x : Training) : Sys2Proof.Laws.Wf.Statement (.linkRetrainEnd l x) := fun h => Bool.noConfusion h
theorem Sys2Proof.Laws.Wf.linkAuthAccept (l : Fin 36) (peerNode : BitVec 16) (peerLink : Fin 64) : Sys2Proof.Laws.Wf.Statement (.linkAuthAccept l peerNode peerLink) := fun h => Bool.noConfusion h
theorem Sys2Proof.Laws.Wf.linkAuthTimeout (l : Fin 36) : Sys2Proof.Laws.Wf.Statement (.linkAuthTimeout l) := fun h => Bool.noConfusion h
theorem Sys2Proof.Laws.Wf.dataFlit (l : Fin 36) (f : Flit) : Sys2Proof.Laws.Wf.Statement (.dataFlit l f) := fun h => Bool.noConfusion h
theorem Sys2Proof.Laws.Wf.nak (l : Fin 36) (ack : BitVec 40) : Sys2Proof.Laws.Wf.Statement (.nak l ack) := fun h => Bool.noConfusion h
theorem Sys2Proof.Laws.Wf.ackTimeout (l : Fin 36) : Sys2Proof.Laws.Wf.Statement (.ackTimeout l) := fun h => Bool.noConfusion h
theorem Sys2Proof.Laws.Wf.rekey (l : Fin 36) : Sys2Proof.Laws.Wf.Statement (.rekey l) := fun h => Bool.noConfusion h
theorem Sys2Proof.Laws.Wf.epochRollover (l : Fin 36) : Sys2Proof.Laws.Wf.Statement (.epochRollover l) := fun h => Bool.noConfusion h
theorem Sys2Proof.Laws.Wf.ldRecord (l : Fin 36) (r : Record) : Sys2Proof.Laws.Wf.Statement (.ldRecord l r) := fun _ => rfl
theorem Sys2Proof.Laws.Wf.stRecord (l : Fin 36) (r : Record) : Sys2Proof.Laws.Wf.Statement (.stRecord l r) := fun _ => rfl
theorem Sys2Proof.Laws.Wf.addRecord (l : Fin 36) (r : Record) : Sys2Proof.Laws.Wf.Statement (.addRecord l r) := fun _ => rfl
theorem Sys2Proof.Laws.Wf.minRecord (l : Fin 36) (r : Record) : Sys2Proof.Laws.Wf.Statement (.minRecord l r) := fun _ => rfl
theorem Sys2Proof.Laws.Wf.maxRecord (l : Fin 36) (r : Record) : Sys2Proof.Laws.Wf.Statement (.maxRecord l r) := fun _ => rfl
theorem Sys2Proof.Laws.Wf.casRecord (l : Fin 36) (r : Record) : Sys2Proof.Laws.Wf.Statement (.casRecord l r) := fun _ => rfl
theorem Sys2Proof.Laws.Wf.msgRecord (l : Fin 36) (r : Record) : Sys2Proof.Laws.Wf.Statement (.msgRecord l r) := fun _ => rfl
theorem Sys2Proof.Laws.Wf.ldRsp (l : Fin 36) (r : Record) : Sys2Proof.Laws.Wf.Statement (.ldRsp l r) := fun _ => rfl
theorem Sys2Proof.Laws.Wf.stAck (l : Fin 36) (r : Record) : Sys2Proof.Laws.Wf.Statement (.stAck l r) := fun _ => rfl
theorem Sys2Proof.Laws.Wf.atomRsp (l : Fin 36) (r : Record) : Sys2Proof.Laws.Wf.Statement (.atomRsp l r) := fun _ => rfl
theorem Sys2Proof.Laws.Wf.msgAck (l : Fin 36) (r : Record) : Sys2Proof.Laws.Wf.Statement (.msgAck l r) := fun _ => rfl
theorem Sys2Proof.Laws.Wf.e2eTimeout (dst : BitVec 16) (tid : BitVec 32) : Sys2Proof.Laws.Wf.Statement (.e2eTimeout dst tid) := fun h => Bool.noConfusion h
theorem Sys2Proof.Laws.Wf.memberFailedMark (node : BitVec 16) : Sys2Proof.Laws.Wf.Statement (.memberFailedMark node) := fun h => Bool.noConfusion h
theorem Sys2Proof.Laws.Wf.collectiveEnd (c : Collective) (ring : List (BitVec 16)) (parts : List (BitVec 16 × Nat × List (BitVec 32))) : Sys2Proof.Laws.Wf.Statement (.collectiveEnd c ring parts) := fun h => Bool.noConfusion h
theorem Sys2Proof.Laws.Wf.peerSnapshot (wr : Writer) (node : BitVec 16) : Sys2Proof.Laws.Wf.Statement (.peerSnapshot wr node) := fun h => Bool.noConfusion h
theorem Sys2Proof.Laws.Wf.sqTailDoorbell (r : RingAt) (tail : BitVec 32) : Sys2Proof.Laws.Wf.Statement (.sqTailDoorbell r tail) := fun h => Bool.noConfusion h
theorem Sys2Proof.Laws.Wf.cqHeadDoorbell (r : RingAt) (head : BitVec 32) : Sys2Proof.Laws.Wf.Statement (.cqHeadDoorbell r head) := fun h => Bool.noConfusion h
theorem Sys2Proof.Laws.Wf.ringConfigWrite (r : RingAt) (value : Word) : Sys2Proof.Laws.Wf.Statement (.ringConfigWrite r value) := fun h => Bool.noConfusion h
theorem Sys2Proof.Laws.Wf.noticePost (r : RingName) : Sys2Proof.Laws.Wf.Statement (.noticePost r) := fun h => Bool.noConfusion h
theorem Sys2Proof.Laws.Wf.coalTimerExpiry (r : RingName) : Sys2Proof.Laws.Wf.Statement (.coalTimerExpiry r) := fun h => Bool.noConfusion h
theorem Sys2Proof.Laws.Wf.generate (s : Fin 4096) (r : Fin 16) (e : Entry) : Sys2Proof.Laws.Wf.Statement (.generate s r e) := fun h => Bool.noConfusion h
theorem Sys2Proof.Laws.Wf.cancel (s : Fin 4096) (r : Fin 16) (e : Entry) : Sys2Proof.Laws.Wf.Statement (.cancel s r e) := fun h => Bool.noConfusion h
theorem Sys2Proof.Laws.Wf.freezeSeq (s : Fin 4096) (r : Fin 16) (e : Entry) : Sys2Proof.Laws.Wf.Statement (.freezeSeq s r e) := fun h => Bool.noConfusion h
theorem Sys2Proof.Laws.Wf.thaw (s : Fin 4096) (r : Fin 16) (e : Entry) : Sys2Proof.Laws.Wf.Statement (.thaw s r e) := fun h => Bool.noConfusion h
theorem Sys2Proof.Laws.Wf.querySeq (s : Fin 4096) (r : Fin 16) (e : Entry) : Sys2Proof.Laws.Wf.Statement (.querySeq s r e) := fun h => Bool.noConfusion h
theorem Sys2Proof.Laws.Wf.copy (s : Fin 4096) (r : Fin 16) (e : Entry) : Sys2Proof.Laws.Wf.Statement (.copy s r e) := fun h => Bool.noConfusion h
theorem Sys2Proof.Laws.Wf.regionSet (s : Fin 4096) (r : Fin 16) (e : Entry) : Sys2Proof.Laws.Wf.Statement (.regionSet s r e) := fun h => Bool.noConfusion h
theorem Sys2Proof.Laws.Wf.acctRead (s : Fin 4096) (r : Fin 16) (e : Entry) : Sys2Proof.Laws.Wf.Statement (.acctRead s r e) := fun h => Bool.noConfusion h
theorem Sys2Proof.Laws.Wf.deltaLoad (s : Fin 4096) (r : Fin 16) (e : Entry) : Sys2Proof.Laws.Wf.Statement (.deltaLoad s r e) := fun h => Bool.noConfusion h
theorem Sys2Proof.Laws.Wf.deltaRetire (s : Fin 4096) (r : Fin 16) (e : Entry) : Sys2Proof.Laws.Wf.Statement (.deltaRetire s r e) := fun h => Bool.noConfusion h
theorem Sys2Proof.Laws.Wf.deltaQuery (s : Fin 4096) (r : Fin 16) (e : Entry) : Sys2Proof.Laws.Wf.Statement (.deltaQuery s r e) := fun h => Bool.noConfusion h
theorem Sys2Proof.Laws.Wf.nop (s : Fin 4096) (r : Fin 16) (e : Entry) : Sys2Proof.Laws.Wf.Statement (.nop s r e) := fun h => Bool.noConfusion h
theorem Sys2Proof.Laws.Wf.sliceBind (e : Entry) : Sys2Proof.Laws.Wf.Statement (.sliceBind e) := fun h => Bool.noConfusion h
theorem Sys2Proof.Laws.Wf.sliceUnbind (e : Entry) : Sys2Proof.Laws.Wf.Statement (.sliceUnbind e) := fun h => Bool.noConfusion h
theorem Sys2Proof.Laws.Wf.sliceFreeze (e : Entry) : Sys2Proof.Laws.Wf.Statement (.sliceFreeze e) := fun h => Bool.noConfusion h
theorem Sys2Proof.Laws.Wf.sliceFreezeComplete (x : FreezeEnd) : Sys2Proof.Laws.Wf.Statement (.sliceFreezeComplete x) := fun h => Bool.noConfusion h
theorem Sys2Proof.Laws.Wf.sliceThaw (e : Entry) : Sys2Proof.Laws.Wf.Statement (.sliceThaw e) := fun h => Bool.noConfusion h
theorem Sys2Proof.Laws.Wf.sliceSave (e : Entry) : Sys2Proof.Laws.Wf.Statement (.sliceSave e) := fun h => Bool.noConfusion h
theorem Sys2Proof.Laws.Wf.sliceRestore (e : Entry) (img : Option SliceImage) : Sys2Proof.Laws.Wf.Statement (.sliceRestore e img) := fun h => Bool.noConfusion h
theorem Sys2Proof.Laws.Wf.groupCreate (e : Entry) : Sys2Proof.Laws.Wf.Statement (.groupCreate e) := fun h => Bool.noConfusion h
theorem Sys2Proof.Laws.Wf.groupAddSlice (e : Entry) : Sys2Proof.Laws.Wf.Statement (.groupAddSlice e) := fun h => Bool.noConfusion h
theorem Sys2Proof.Laws.Wf.groupRemoveSlice (e : Entry) : Sys2Proof.Laws.Wf.Statement (.groupRemoveSlice e) := fun h => Bool.noConfusion h
theorem Sys2Proof.Laws.Wf.groupDissolve (e : Entry) : Sys2Proof.Laws.Wf.Statement (.groupDissolve e) := fun h => Bool.noConfusion h
theorem Sys2Proof.Laws.Wf.modelLoad (e : Entry) (body : ModelBody) : Sys2Proof.Laws.Wf.Statement (.modelLoad e body) := fun h => Bool.noConfusion h
theorem Sys2Proof.Laws.Wf.modelUnload (e : Entry) : Sys2Proof.Laws.Wf.Statement (.modelUnload e) := fun h => Bool.noConfusion h
theorem Sys2Proof.Laws.Wf.cellLock (e : Entry) : Sys2Proof.Laws.Wf.Statement (.cellLock e) := fun h => Bool.noConfusion h
theorem Sys2Proof.Laws.Wf.cellUnlock (e : Entry) : Sys2Proof.Laws.Wf.Statement (.cellUnlock e) := fun h => Bool.noConfusion h
theorem Sys2Proof.Laws.Wf.cellPriority (e : Entry) : Sys2Proof.Laws.Wf.Statement (.cellPriority e) := fun h => Bool.noConfusion h
theorem Sys2Proof.Laws.Wf.cellTxAtten (e : Entry) : Sys2Proof.Laws.Wf.Statement (.cellTxAtten e) := fun h => Bool.noConfusion h
theorem Sys2Proof.Laws.Wf.cellStatus (e : Entry) : Sys2Proof.Laws.Wf.Statement (.cellStatus e) := fun h => Bool.noConfusion h
theorem Sys2Proof.Laws.Wf.domainJoin (e : Entry) : Sys2Proof.Laws.Wf.Statement (.domainJoin e) := fun h => Bool.noConfusion h
theorem Sys2Proof.Laws.Wf.domainListAdd (e : Entry) : Sys2Proof.Laws.Wf.Statement (.domainListAdd e) := fun h => Bool.noConfusion h
theorem Sys2Proof.Laws.Wf.domainListRemove (e : Entry) : Sys2Proof.Laws.Wf.Statement (.domainListRemove e) := fun h => Bool.noConfusion h
theorem Sys2Proof.Laws.Wf.routeSet (e : Entry) : Sys2Proof.Laws.Wf.Statement (.routeSet e) := fun h => Bool.noConfusion h
theorem Sys2Proof.Laws.Wf.negotiate (x : PartyAt) (major minor : BitVec 8) : Sys2Proof.Laws.Wf.Statement (.negotiate x major minor) := fun h => Bool.noConfusion h
theorem Sys2Proof.Laws.Wf.heartbeat (x : SliceAt) : Sys2Proof.Laws.Wf.Statement (.heartbeat x) := fun h => Bool.noConfusion h
theorem Sys2Proof.Laws.Wf.heartbeatTimeout (s : Fin 4096) : Sys2Proof.Laws.Wf.Statement (.heartbeatTimeout s) := fun h => Bool.noConfusion h
theorem Sys2Proof.Laws.Wf.ctlHeartbeatTimeout : Sys2Proof.Laws.Wf.Statement .ctlHeartbeatTimeout := fun h => Bool.noConfusion h
theorem Sys2Proof.Laws.Wf.attach (x : SliceAt) : Sys2Proof.Laws.Wf.Statement (.attach x) := fun h => Bool.noConfusion h
theorem Sys2Proof.Laws.Wf.graceExpiry (s : Fin 4096) : Sys2Proof.Laws.Wf.Statement (.graceExpiry s) := fun h => Bool.noConfusion h
theorem Sys2Proof.Laws.Wf.scrubEnd (s : Fin 4096) : Sys2Proof.Laws.Wf.Statement (.scrubEnd s) := fun h => Bool.noConfusion h
theorem Sys2Proof.Laws.Wf.acctSnapshot (wr : Writer) (s : Fin 4096) : Sys2Proof.Laws.Wf.Statement (.acctSnapshot wr s) := fun h => Bool.noConfusion h
theorem Sys2Proof.Laws.Wf.kvSnapshot (wr : Writer) (model : BitVec 16) : Sys2Proof.Laws.Wf.Statement (.kvSnapshot wr model) := fun h => Bool.noConfusion h
theorem Sys2Proof.Laws.Wf.wdKick (i : Fin 11) : Sys2Proof.Laws.Wf.Statement (.wdKick i) := fun h => Bool.noConfusion h
theorem Sys2Proof.Laws.Wf.watchdogExpiry (i : Fin 11) : Sys2Proof.Laws.Wf.Statement (.watchdogExpiry i) := fun h => Bool.noConfusion h
theorem Sys2Proof.Laws.Wf.fwException (i : Fin 11) : Sys2Proof.Laws.Wf.Statement (.fwException i) := fun h => Bool.noConfusion h
theorem Sys2Proof.Laws.Wf.fwSramUe (i : Fin 11) : Sys2Proof.Laws.Wf.Statement (.fwSramUe i) := fun h => Bool.noConfusion h
theorem Sys2Proof.Laws.Wf.restartTimeout (i : Fin 11) : Sys2Proof.Laws.Wf.Statement (.restartTimeout i) := fun h => Bool.noConfusion h
theorem Sys2Proof.Laws.Wf.fwReady (i : Fin 11) : Sys2Proof.Laws.Wf.Statement (.fwReady i) := fun h => Bool.noConfusion h
theorem Sys2Proof.Laws.Wf.leadershipPass : Sys2Proof.Laws.Wf.Statement .leadershipPass := fun h => Bool.noConfusion h
theorem Sys2Proof.Laws.Wf.release (wr : Writer) (i : Fin 11) : Sys2Proof.Laws.Wf.Statement (.release wr i) := fun h => Bool.noConfusion h
theorem Sys2Proof.Laws.Wf.restartReq (wr : Writer) (i : Fin 11) : Sys2Proof.Laws.Wf.Statement (.restartReq wr i) := fun h => Bool.noConfusion h
theorem Sys2Proof.Laws.Wf.bootSlotWrite (wr : Writer) (slot : Fin 2) : Sys2Proof.Laws.Wf.Statement (.bootSlotWrite wr slot) := fun h => Bool.noConfusion h
theorem Sys2Proof.Laws.Wf.confirm (wr : Writer) : Sys2Proof.Laws.Wf.Statement (.confirm wr) := fun h => Bool.noConfusion h
theorem Sys2Proof.Laws.Wf.startupStep1 (ms : BitVec 16) : Sys2Proof.Laws.Wf.Statement (.startupStep1 ms) := fun h => Bool.noConfusion h
theorem Sys2Proof.Laws.Wf.startupStep2 (ms : BitVec 16) (helperOk pufOk : Bool) : Sys2Proof.Laws.Wf.Statement (.startupStep2 ms helperOk pufOk) := fun h => Bool.noConfusion h
theorem Sys2Proof.Laws.Wf.startupStep3 (ms : BitVec 16) : Sys2Proof.Laws.Wf.Statement (.startupStep3 ms) := fun h => Bool.noConfusion h
theorem Sys2Proof.Laws.Wf.startupStep4 (ms : BitVec 16) (d : Option Dcr) (dm0 dm1 : Option DefectMap) : Sys2Proof.Laws.Wf.Statement (.startupStep4 ms d dm0 dm1) := fun _ => rfl
theorem Sys2Proof.Laws.Wf.startupStep5 (ms : BitVec 16) (up : List (Fin 24)) (capGib : BitVec 10) (rate : BitVec 8) : Sys2Proof.Laws.Wf.Statement (.startupStep5 ms up capGib rate) := fun _ => rfl
theorem Sys2Proof.Laws.Wf.startupStep6 (ms : BitVec 16) (x : SelfTest) : Sys2Proof.Laws.Wf.Statement (.startupStep6 ms x) := fun h => Bool.noConfusion h
theorem Sys2Proof.Laws.Wf.startupStep7 (ms : BitVec 16) : Sys2Proof.Laws.Wf.Statement (.startupStep7 ms) := fun h => Bool.noConfusion h
theorem Sys2Proof.Laws.Wf.coreWave (k : Fin 32) (ma : Nat) : Sys2Proof.Laws.Wf.Statement (.coreWave k ma) := fun h => Bool.noConfusion h
theorem Sys2Proof.Laws.Wf.waveRetry (k : Fin 32) (ma : Nat) : Sys2Proof.Laws.Wf.Statement (.waveRetry k ma) := fun h => Bool.noConfusion h
theorem Sys2Proof.Laws.Wf.startupStep8 (ms : BitVec 16) : Sys2Proof.Laws.Wf.Statement (.startupStep8 ms) := fun h => Bool.noConfusion h
theorem Sys2Proof.Laws.Wf.startupStep9 (ms : BitVec 16) : Sys2Proof.Laws.Wf.Statement (.startupStep9 ms) := fun h => Bool.noConfusion h
theorem Sys2Proof.Laws.Wf.startupStep10 (ms : BitVec 16) (fails : List PhysUnit) : Sys2Proof.Laws.Wf.Statement (.startupStep10 ms fails) := fun h => Bool.noConfusion h
theorem Sys2Proof.Laws.Wf.startupStep11 (ms : BitVec 16) (radio hold : List BankImage) : Sys2Proof.Laws.Wf.Statement (.startupStep11 ms radio hold) := fun _ => rfl
theorem Sys2Proof.Laws.Wf.devRst (wr : Writer) (warm : Bool) : Sys2Proof.Laws.Wf.Statement (.devRst wr warm) := fun h => Bool.noConfusion h
theorem Sys2Proof.Laws.Wf.wholeDeviceReset : Sys2Proof.Laws.Wf.Statement .wholeDeviceReset := fun h => Bool.noConfusion h
theorem Sys2Proof.Laws.Wf.perstAssert : Sys2Proof.Laws.Wf.Statement .perstAssert := fun h => Bool.noConfusion h
theorem Sys2Proof.Laws.Wf.resetNAssert : Sys2Proof.Laws.Wf.Statement .resetNAssert := fun h => Bool.noConfusion h
theorem Sys2Proof.Laws.Wf.resetDeassert (perst : Bool) : Sys2Proof.Laws.Wf.Statement (.resetDeassert perst) := fun h => Bool.noConfusion h
theorem Sys2Proof.Laws.Wf.partRst (wr : Writer) (p : Fin 8) (force : Bool) : Sys2Proof.Laws.Wf.Statement (.partRst wr p force) := fun h => Bool.noConfusion h
theorem Sys2Proof.Laws.Wf.clRst (wr : Writer) (cl : Fin 32) : Sys2Proof.Laws.Wf.Statement (.clRst wr cl) := fun h => Bool.noConfusion h
theorem Sys2Proof.Laws.Wf.resetPhaseEnd (p : Fin 8) (cl : Option (Fin 4)) (fails : List PhysUnit) : Sys2Proof.Laws.Wf.Statement (.resetPhaseEnd p cl fails) := fun h => Bool.noConfusion h
theorem Sys2Proof.Laws.Wf.coreRst (wr : Writer) (n : Fin 128) : Sys2Proof.Laws.Wf.Statement (.coreRst wr n) := fun h => Bool.noConfusion h
theorem Sys2Proof.Laws.Wf.spurRst (wr : Writer) (n : Fin 512) : Sys2Proof.Laws.Wf.Statement (.spurRst wr n) := fun h => Bool.noConfusion h
theorem Sys2Proof.Laws.Wf.slotRst (wr : Writer) (cl : Fin 32) (k : Fin 8) : Sys2Proof.Laws.Wf.Statement (.slotRst wr cl k) := fun h => Bool.noConfusion h
theorem Sys2Proof.Laws.Wf.posRst (wr : Writer) (cl : Fin 32) (k : Fin 32) : Sys2Proof.Laws.Wf.Statement (.posRst wr cl k) := fun h => Bool.noConfusion h
theorem Sys2Proof.Laws.Wf.defectMapWrite : Sys2Proof.Laws.Wf.Statement .defectMapWrite := fun h => Bool.noConfusion h
theorem Sys2Proof.Laws.Wf.powerDomainSwitchOn (d : Fin 50) : Sys2Proof.Laws.Wf.Statement (.powerDomainSwitchOn d) := fun h => Bool.noConfusion h
theorem Sys2Proof.Laws.Wf.powerDomainSwitchOff (d : Fin 50) : Sys2Proof.Laws.Wf.Statement (.powerDomainSwitchOff d) := fun h => Bool.noConfusion h
theorem Sys2Proof.Laws.Wf.getVersion (b : Fin 2) : Sys2Proof.Laws.Wf.Statement (.getVersion b) := fun h => Bool.noConfusion h
theorem Sys2Proof.Laws.Wf.getCapabilities (b : Fin 2) : Sys2Proof.Laws.Wf.Statement (.getCapabilities b) := fun h => Bool.noConfusion h
theorem Sys2Proof.Laws.Wf.negotiateAlgorithms (b : Fin 2) (ed25519 sha512 : Bool) : Sys2Proof.Laws.Wf.Statement (.negotiateAlgorithms b ed25519 sha512) := fun h => Bool.noConfusion h
theorem Sys2Proof.Laws.Wf.getDigests (b : Fin 2) : Sys2Proof.Laws.Wf.Statement (.getDigests b) := fun h => Bool.noConfusion h
theorem Sys2Proof.Laws.Wf.getCertificate (b : Fin 2) (slot : Fin 8) (off len : BitVec 16) : Sys2Proof.Laws.Wf.Statement (.getCertificate b slot off len) := fun h => Bool.noConfusion h
theorem Sys2Proof.Laws.Wf.challenge (b : Fin 2) (slot : Fin 8) (nonce : BitVec 256) : Sys2Proof.Laws.Wf.Statement (.challenge b slot nonce) := fun h => Bool.noConfusion h
theorem Sys2Proof.Laws.Wf.getMeasurements (b : Fin 2) (index : BitVec 8) (sign : Bool) (nonce : BitVec 256) : Sys2Proof.Laws.Wf.Statement (.getMeasurements b index sign nonce) := fun h => Bool.noConfusion h
theorem Sys2Proof.Laws.Wf.vendorMldsaSignature (b : Fin 2) : Sys2Proof.Laws.Wf.Statement (.vendorMldsaSignature b) := fun h => Bool.noConfusion h
theorem Sys2Proof.Laws.Wf.vendorMldsaChain (b : Fin 2) (off len : BitVec 16) : Sys2Proof.Laws.Wf.Statement (.vendorMldsaChain b off len) := fun h => Bool.noConfusion h
theorem Sys2Proof.Laws.Wf.mctpControl (b : Fin 2) (setEid : Option (BitVec 8)) : Sys2Proof.Laws.Wf.Statement (.mctpControl b setEid) := fun h => Bool.noConfusion h
theorem Sys2Proof.Laws.Wf.pldmMonitoring (b : Fin 2) (sensor : BitVec 16) : Sys2Proof.Laws.Wf.Statement (.pldmMonitoring b sensor) := fun h => Bool.noConfusion h
theorem Sys2Proof.Laws.Wf.requestUpdate (b : Fin 2) : Sys2Proof.Laws.Wf.Statement (.requestUpdate b) := fun h => Bool.noConfusion h
theorem Sys2Proof.Laws.Wf.pldmComponentImage (b : Fin 2) (img : SlotImage) (sigOk writeOk : Bool) : Sys2Proof.Laws.Wf.Statement (.pldmComponentImage b img sigOk writeOk) := fun h => Bool.noConfusion h
theorem Sys2Proof.Laws.Wf.pldmComponentSection (b : Fin 2) (sec : SectionImage) : Sys2Proof.Laws.Wf.Statement (.pldmComponentSection b sec) := fun h => Bool.noConfusion h
theorem Sys2Proof.Laws.Wf.pldmComponentDcr (b : Fin 2) (d : Dcr) (writeOk : Bool) : Sys2Proof.Laws.Wf.Statement (.pldmComponentDcr b d writeOk) := fun h => Bool.noConfusion h
theorem Sys2Proof.Laws.Wf.hello (seq : Byte) : Sys2Proof.Laws.Wf.Statement (.hello seq) := fun h => Bool.noConfusion h
theorem Sys2Proof.Laws.Wf.unlock (seq : Byte) (t : DebugToken) : Sys2Proof.Laws.Wf.Statement (.unlock seq t) := fun h => Bool.noConfusion h
theorem Sys2Proof.Laws.Wf.lock (seq : Byte) : Sys2Proof.Laws.Wf.Statement (.lock seq) := fun h => Bool.noConfusion h
theorem Sys2Proof.Laws.Wf.status (seq : Byte) (tgt : BitVec 16) : Sys2Proof.Laws.Wf.Statement (.status seq tgt) := fun h => Bool.noConfusion h
theorem Sys2Proof.Laws.Wf.speed (seq : Byte) (code : Byte) : Sys2Proof.Laws.Wf.Statement (.speed seq code) := fun h => Bool.noConfusion h
theorem Sys2Proof.Laws.Wf.debugHalt (seq : Byte) (tgt : BitVec 16) : Sys2Proof.Laws.Wf.Statement (.debugHalt seq tgt) := fun h => Bool.noConfusion h
theorem Sys2Proof.Laws.Wf.resume (seq : Byte) (tgt : BitVec 16) : Sys2Proof.Laws.Wf.Statement (.resume seq tgt) := fun h => Bool.noConfusion h
theorem Sys2Proof.Laws.Wf.step (seq : Byte) (tgt : BitVec 16) (count : BitVec 16) : Sys2Proof.Laws.Wf.Statement (.step seq tgt count) := fun h => Bool.noConfusion h
theorem Sys2Proof.Laws.Wf.bpSet (seq : Byte) (tgt : BitVec 16) (index mask : Byte) (addr : Word) : Sys2Proof.Laws.Wf.Statement (.bpSet seq tgt index mask addr) := fun h => Bool.noConfusion h
theorem Sys2Proof.Laws.Wf.bpClr (seq : Byte) (tgt : BitVec 16) (index : Byte) : Sys2Proof.Laws.Wf.Statement (.bpClr seq tgt index) := fun h => Bool.noConfusion h
theorem Sys2Proof.Laws.Wf.regRd (seq : Byte) (tgt : BitVec 16) (reg : BitVec 16) : Sys2Proof.Laws.Wf.Statement (.regRd seq tgt reg) := fun h => Bool.noConfusion h
theorem Sys2Proof.Laws.Wf.regWr (seq : Byte) (tgt : BitVec 16) (reg : BitVec 16) (value : BitVec 128) : Sys2Proof.Laws.Wf.Statement (.regWr seq tgt reg value) := fun h => Bool.noConfusion h
theorem Sys2Proof.Laws.Wf.memRd (seq : Byte) (addr : Word) (len : BitVec 16) (mode : Byte) : Sys2Proof.Laws.Wf.Statement (.memRd seq addr len mode) := fun h => Bool.noConfusion h
theorem Sys2Proof.Laws.Wf.memWr (seq : Byte) (addr : Word) (mode : Byte) (data : List Byte) : Sys2Proof.Laws.Wf.Statement (.memWr seq addr mode data) := fun _ => rfl
theorem Sys2Proof.Laws.Wf.lockoutExpiry : Sys2Proof.Laws.Wf.Statement .lockoutExpiry := fun h => Bool.noConfusion h
theorem Sys2Proof.Laws.Wf.sensorSample (temps : List (BitVec 16)) (pd : List (Fin 50 × Nat × Nat)) (vinMv iinMa : Nat) : Sys2Proof.Laws.Wf.Statement (.sensorSample temps pd vinMv iinMa) := fun h => Bool.noConfusion h
theorem Sys2Proof.Laws.Wf.powerClamp (meanW : Nat) (ns : Fin 125000) : Sys2Proof.Laws.Wf.Statement (.powerClamp meanW ns) := fun h => Bool.noConfusion h
theorem Sys2Proof.Laws.Wf.thermalClamp (point : Fin 210) (temp : BitVec 16) (ns : Fin 125000) : Sys2Proof.Laws.Wf.Statement (.thermalClamp point temp ns) := fun h => Bool.noConfusion h
theorem Sys2Proof.Laws.Wf.clampClear (x : ClampReading) : Sys2Proof.Laws.Wf.Statement (.clampClear x) := fun h => Bool.noConfusion h
theorem Sys2Proof.Laws.Wf.thermalTrip (point : Fin 210) (temp : BitVec 16) : Sys2Proof.Laws.Wf.Statement (.thermalTrip point temp) := fun h => Bool.noConfusion h
theorem Sys2Proof.Laws.Wf.inputOvercurrentTrip (ma : Nat) : Sys2Proof.Laws.Wf.Statement (.inputOvercurrentTrip ma) := fun h => Bool.noConfusion h
theorem Sys2Proof.Laws.Wf.domainOvercurrentTrip (d : Fin 50) (ma : Nat) : Sys2Proof.Laws.Wf.Statement (.domainOvercurrentTrip d ma) := fun h => Bool.noConfusion h
theorem Sys2Proof.Laws.Wf.converterFault (c : Fin 4) : Sys2Proof.Laws.Wf.Statement (.converterFault c) := fun h => Bool.noConfusion h
theorem Sys2Proof.Laws.Wf.underVoltage (mv : Nat) : Sys2Proof.Laws.Wf.Statement (.underVoltage mv) := fun h => Bool.noConfusion h
theorem Sys2Proof.Laws.Wf.overVoltage (mv : Nat) : Sys2Proof.Laws.Wf.Statement (.overVoltage mv) := fun h => Bool.noConfusion h
theorem Sys2Proof.Laws.Wf.eventLogNorWrite (ok : Bool) : Sys2Proof.Laws.Wf.Statement (.eventLogNorWrite ok) := fun h => Bool.noConfusion h
theorem Sys2Proof.Laws.Wf.ppsInTimeout : Sys2Proof.Laws.Wf.Statement .ppsInTimeout := fun h => Bool.noConfusion h
theorem Sys2Proof.Laws.Wf.coreResetEnd (u : UnitName) (passes : Bool) : Sys2Proof.Laws.Wf.Statement (.coreResetEnd u passes) := fun h => Bool.noConfusion h
theorem Sys2Proof.Laws.Wf.debugFrameError : Sys2Proof.Laws.Wf.Statement .debugFrameError := fun h => Bool.noConfusion h
theorem Sys2Proof.Laws.Wf.idleFlit (l : Fin 36) (f : Flit) : Sys2Proof.Laws.Wf.Statement (.idleFlit l f) := fun h => Bool.noConfusion h
theorem Sys2Proof.Laws.Wf.ptpRequestReceived (port : Fin 8) (sub : Fin 4) (kind : Fin 16) : Sys2Proof.Laws.Wf.Statement (.ptpRequestReceived port sub kind) := fun h => Bool.noConfusion h
theorem Sys2Proof.Laws.Wf.esmcTx : Sys2Proof.Laws.Wf.Statement .esmcTx := fun h => Bool.noConfusion h
end

