-- ==== Sys2Proof/Laws/Spur.lean ====
section
/-! SUPPORT. Spur threads: what issuing an instruction can do, and the frames of a thread. -/

namespace Sys2Proof.Machine
open Sys2Proof.Safety

variable {s t u : State} {th : Nat} {l : List (Field × Nat)}

/-- The fields that an instruction of a thread may change, replaced. -/
def State.threadPart (s : State) (a : KMap Nat) (b : KMap Thread) (c : KMap SpurCore) (d : Nat) : State :=
  (((s.withRegs a).withThreads b).withSpurs c).withFree d

theorem threadPart_intro {a : KMap Nat} {b : KMap Thread} {c : KMap SpurCore} {d : Nat} (h : t = s.threadPart a b c d) :
    t = (((s.withRegs t.regs).withThreads t.threads).withSpurs t.spurs).withFree t.free := by
  subst h
  rfl

theorem threadPart_same (s : State) : s = s.threadPart s.regs s.threads s.spurs s.free := by
  cases s
  rfl

theorem State.put_part (s : State) (f : Field) (v i : Nat) :
    s.put f v i = s.threadPart (s.put f v i).regs s.threads s.spurs s.free := by
  cases s
  rfl
theorem State.setSpur_part (s : State) (n : Nat) (c : SpurCore) :
    s.setSpur n c = s.threadPart s.regs s.threads (s.setSpur n c).spurs s.free := by
  cases s
  rfl
theorem State.setThread_part (s : State) (th : Nat) (t : Thread) :
    s.setThread th t = s.threadPart (s.setThread th t).regs (s.setThread th t).threads s.spurs s.free := by
  cases s
  rfl
theorem State.drawn_part (s : State) : s.drawn = s.threadPart s.regs s.threads s.spurs (s.free + 1) := by
  cases s
  rfl

theorem onlyThread_refl (s : State) (th : Nat) (l : List (Field × Nat)) : OnlyThread s s th l :=
  ⟨threadPart_intro (threadPart_same s), fun _ _ => rfl, fun _ _ => rfl, fun _ _ _ => rfl⟩

theorem onlyThread_trans (h : OnlyThread s t th l) (k : OnlyThread t u th l) : OnlyThread s u th l := by
  obtain ⟨h1, h2, h4, h3⟩ := h
  obtain ⟨k1, k2, k4, k3⟩ := k
  refine ⟨?_, fun j hj => (k2 j hj).trans (h2 j hj), fun j hj => (k4 j hj).trans (h4 j hj), fun f i hi => (k3 f i hi).trans (h3 f i hi)⟩
  rw [k1, h1]
  exact threadPart_intro rfl

theorem thread_setThread_same (s : State) (th : Nat) (t : Thread) : (s.setThread th t).thread th = t := by
  simp [State.setThread, State.thread, State.withThreads, kget_kset_same]

theorem thread_setThread_ne (s : State) {th k : Nat} (t : Thread) (h : k ≠ th) : (s.setThread th t).thread k = s.thread k := by
  simp [State.setThread, State.thread, State.withThreads, State.put, State.withRegs, kget_kset_ne _ _ _ h]

theorem spur_setThread (s : State) (th n : Nat) (t : Thread) : (s.setThread th t).spur n = s.spur n := rfl

theorem spur_setSpur_same (s : State) (n : Nat) (c : SpurCore) : (s.setSpur n c).spur n = c := by
  simp [State.setSpur, State.spur, State.withSpurs, kget_kset_same]

theorem onlyThread_setThread (s : State) (th : Nat) (t : Thread) (l : List (Field × Nat)) :
    OnlyThread s (s.setThread th t) th l := by
  refine ⟨threadPart_intro (s.setThread_part th t), fun k hk => thread_setThread_ne s t hk, fun _ _ => rfl, fun f i hi => ?_⟩
  have := hi _ (List.mem_cons_self)
  exact State.rd_put_ne s this

theorem onlyThread_setSpur (s : State) (th : Nat) (c : SpurCore) (l : List (Field × Nat)) :
    OnlyThread s (s.setSpur (th / 8) c) th l :=
  ⟨threadPart_intro (s.setSpur_part _ c), fun _ _ => rfl, fun _ hn => by simp [State.setSpur, State.spur, State.withSpurs, kget_kset_ne _ _ _ hn], fun _ _ _ => rfl⟩

theorem onlyThread_drawn (s : State) (th : Nat) (l : List (Field × Nat)) : OnlyThread s s.drawn th l :=
  ⟨threadPart_intro s.drawn_part, fun _ _ => rfl, fun _ _ => rfl, fun _ _ _ => rfl⟩

theorem onlyThread_put (s : State) (th : Nat) {f : Field} {v i : Nat} {l : List (Field × Nat)} (h : (f, i) ∈ l) :
    OnlyThread s (s.put f v i) th l :=
  ⟨threadPart_intro (s.put_part f v i), fun _ _ => rfl, fun _ _ => rfl, fun _ _ hi => State.rd_put_ne s (hi _ (List.mem_cons_of_mem _ h))⟩

theorem onlyThread_done (s : State) (th : Nat) (t : Thread) (l : List (Field × Nat)) : OnlyThread s (s.done th t) th l :=
  onlyThread_setThread s th _ l

theorem thread_done (s : State) (th : Nat) (t : Thread) : (s.done th t).thread th = t.next := thread_setThread_same s th _

/-- A fetch touches the core's cache alone. -/
theorem onlyThread_fetchLine (s : State) (th : Nat) (l : List (Field × Nat)) : OnlyThread s (s.fetchLine th) th l := by
  unfold State.fetchLine
  dsimp only
  split
  · exact onlyThread_refl ..
  · split
    · exact onlyThread_setSpur ..
    · exact onlyThread_trans (onlyThread_drawn ..) (onlyThread_setSpur ..)

theorem fetchLine_cyc (s : State) (th : Nat) : ((s.fetchLine th).spur (th / 8)).cyc = (s.spur (th / 8)).cyc := by
  unfold State.fetchLine
  dsimp only
  split
  · rfl
  · split <;> rw [spur_setSpur_same]

theorem issued_cyc (s : State) (th : Nat) : (s.issued th).cyc = s.issueAt th := by
  unfold State.issued
  dsimp only
  split <;> rfl

theorem fetchOk_setSpur (s : State) (th : Nat) : (s.setSpur (th / 8) (s.issued th)).fetchOk th = s.fetchOk th := by
  have e : (s.issued th).ilock = (s.spur (th / 8)).ilock ∧ (s.issued th).iopen = (s.spur (th / 8)).iopen := by
    unfold State.issued
    dsimp only
    split <;> exact ⟨rfl, rfl⟩
  unfold State.fetchOk
  dsimp only
  rw [spur_setSpur_same, e.1, e.2]
  rfl

/-- An instruction that may issue runs on the thread; before it only the core's rounds and its instruction cache change, and the
core's count is that of the issue. -/
theorem issue_next (h : MayIssue s th) (f : State → State) (l : List (Field × Nat)) :
    ∃ u, s.issue th f = f u ∧ u.thread th = issuing s th ∧ (u.spur (th / 8)).cyc = s.issueAt th ∧ OnlyThread s u th l := by
  obtain ⟨h1, h4, h5⟩ := h
  have hb : (State.bpHit (s.setSpur (th / 8) (s.issued th)) th && !(s.thread th).skip) = false := by
    rcases h4 with h | h
    · rw [show State.bpHit (s.setSpur (th / 8) (s.issued th)) th = s.bpHit th from rfl, h]; rfl
    · simp [h]
  unfold State.issue
  dsimp only
  rw [if_pos h1, hb, fetchOk_setSpur, h5]
  refine ⟨_, rfl, thread_setThread_same .., ?_,
    onlyThread_trans (onlyThread_setSpur s th _ l) (onlyThread_trans (onlyThread_fetchLine ..) (onlyThread_setThread ..))⟩
  rw [spur_setThread, fetchLine_cyc, spur_setSpur_same, issued_cyc]

theorem gOp_next (h : MayIssue s th) (rd : Fin 32) (v : Thread → Word) :
    (s.gOp th rd v).thread th = ((issuing s th).wg rd (v (issuing s th))).next ∧ OnlyThread s (s.gOp th rd v) th [] := by
  obtain ⟨u, e, hu, _, ho⟩ := issue_next h (fun s => s.done th ((s.thread th).wg rd (v (s.thread th)))) []
  unfold State.gOp
  rw [e, hu]
  exact ⟨thread_done _ _ _, onlyThread_trans ho (onlyThread_done _ _ _ _)⟩

/-- An instruction whose result is in `k` cycles after its issue. -/
theorem gLate_next (h : MayIssue s th) (rd : Fin 32) (k : Nat) (v : Thread → Word) :
    (s.gLate th rd k v).thread th =
        Thread.next { (issuing s th).wg rd (v (issuing s th)) with
          due := max ((issuing s th).wg rd (v (issuing s th))).due (s.issueAt th + k) } ∧
      OnlyThread s (s.gLate th rd k v) th [] := by
  obtain ⟨u, e, hu, hc, ho⟩ := issue_next h (fun s => s.done th (s.lateBy th k ((s.thread th).wg rd (v (s.thread th))))) []
  unfold State.gLate
  rw [e, hu, State.lateBy, hc]
  exact ⟨thread_done _ _ _, onlyThread_trans ho (onlyThread_done _ _ _ _)⟩

theorem tOp_next (h : MayIssue s th) (f : Thread → Thread) :
    (s.tOp th f).thread th = (f (issuing s th)).next ∧ OnlyThread s (s.tOp th f) th [] := by
  obtain ⟨u, e, hu, _, ho⟩ := issue_next h (fun s => s.done th (f (s.thread th))) []
  unfold State.tOp
  rw [e, hu]
  exact ⟨thread_done _ _ _, onlyThread_trans ho (onlyThread_done _ _ _ _)⟩
end Sys2Proof.Machine
end

