-- ==== Sys2Proof/Tests/Slice0.lean ====
section
/-! SUPPORT. Tests: a witness for the hypotheses of each statement, an ill-formed term for each check, and worked examples of the manual. -/

open Sys2Proof Sys2Proof.Machine Sys2Proof.Safety

namespace Sys2Proof.Tests

set_option Elab.async false


/-- A state with some register fields set: field, instance, value. -/
def regs (l : List (Field × Nat × Nat)) (s : State := State.reset) : State := l.foldl (fun s x => s.put x.1 x.2.2 x.2.1) s

/-- The same with every processor running. -/
def run (l : List (Field × Nat × Nat)) : State := regs ((List.range 11).map (fun i => (F.FW_PROC_STAT.pstate, i, 0)) ++ l)

/-! Records with every field zero, from which the tests set what they need. -/

def entry0 : Entry :=
  { rsv := 0, token := 0, w2 := 0, w3 := 0, w4 := 0, w5 := 0, w6 := 0, w7 := 0 }
def record0 : Record :=
  { sz8 := false, sgn := false, dev := false, retry := false, dup := false, len := 0, slice := 0, keyIdx := 0,
    dstNode := 0, srcNode := 0, tid := 0, addr := 0, status := 0, hop := 0, value := 0, newVal := 0, data := [],
    bad := false }
def cellEnt0 : CellEntry :=
  { w0 := 0, w1 := 0, w2 := 0, w3 := 0, w4 := 0, w5 := 0, w6 := 0, w7 := 0 }
def radio0 : RadioParam :=
  { cellId := 0, dlMeth := 0, dlWidth := 0, ulMeth := 0, ulWidth := 0, dfeProf := 0 }
def cell0 : Cell :=
  { ent := cellEnt0, part := 0, cost := 0, st := .locked, waits := false, pend := none, priority := 0, txAtten := 0,
    txPend := none, prioPend := none, missedDl := 0, missedUl := 0, l2Late := 0, l2Missing := 0, harqDrop := 0,
    ldpcFail := 0, harq := [], msgs := [], lostSlots := [], lostDl := [], radio := radio0 }
def seq0 : Seq :=
  { st := .free, resume := .free, frzCause := 0, deltaEn := false, spec := false, cancelPend := false, part := 0,
    slice := 0, model := 0, deltaVer := 0, len := 0, promptLen := 0, gen := 0, maxNew := 0, nOut := 0, stage := 0,
    draftLen := 0, wait := 0, token := 0, family := 0, group := 0, ring := 0, aborts := 0, paramAddr := 0, admTick := 0,
    passTick := 0, dlen := 0, branch := 0, origin := 0, drafted := 0, accepted := 0, toks := [], pages := [], nodes := [],
    lookupDone := false, cmd := 0, sample := 0, status := 0, freezeReq := none, moveTo := none, held := false,
    needFork := 0, peerSpill := false, beamW := 0, score := 0, owed := none, ringNodes := [], transit := [], att := none }
def cmd0 : Cmd :=
  { slice := 0, ring := 0, token := 0, outAddr := 0, samples := 0, maxNew := 0, stream := false, sampled := false,
    beamW := 0, eos := [], status := 0, done := [], hyps := [], written := [], handle := 0 }
def pass0 : Pass :=
  { id := 0, part := 0, model := 0, deltaEn := false, deltaVer := 0, pre := false, seqs := [], rows := [], stage := 0,
    passTick := 0, cow := [], ended := false, again := false, paid := 0, units := [] }
def model0 : Model :=
  { digest := 0, bytes := 0, nTiles := 0, lgCount := 0, frameLog2 := 0, maxCtx := 0, kvBytes := 0, nLayers := 0,
    attnMode := 0, ringBlkPg := 0, ringMax := 0, splitCores := 0, draftLg := 0, specK := 0, specBranch := 0, copies := 0,
    stages := [], tileSteps := [] }
def delta0 : Delta :=
  { st := .free, group := 0, model := 0, owner := 0, pins := 0, variant := 0, serial := 0, image := [], total := 0,
    loadCmd := none, retire := [], forced := false, since := 0 }
def node0 : Node :=
  { hash := 0, parent := 0, root := false, scope := 0, model := 0, dkey := 0, part := 0, frames := [], lastUse := 0,
    children := 0, users := 0 }
def spill0 : Spill :=
  { seq := none, node := none, page := 0, src := 0, dst := 0, old := [], new := [] }
def peer0 : Peer :=
  { rtt := 0, lag := 0, retries := 0, strag := 0, suspect := false, failed := false, stale := 0, run := 0, runSet := [],
    seen := 0, lost := none }
def dma0 : Dma :=
  { desc := [], radio := false, item := none, uid := 0, todo := [], bad := [], wr := false, left := 0, got := [],
    status := 0 }
def fabReq0 : FabReq :=
  { dst := 0, tid := 0, op := 0, addr := 0, len := 0, value := 0, newv := 0, data := [], slice := 0, key := 0,
    dev := false, tries := 0, since := 0, src := .device }
def cq0 : CqEntry :=
  { token := 0, status := 0, phase := false, dup := false, kind := 0, opc := 0, handle := 0, res0 := 0, res1 := 0,
    tick := 0 }
def txFrame0 : TxFrame :=
  { pcid := 0, pcp := 0, cplane := false, sfn := 0, slot := 0, sym := 0, opens := 0, closes := 0, prbs := [], dst := 0,
    prb0 := 0, shift := 0, secs := [], split8 := false }
def fhBuf0 : FhBuf :=
  { part := 0, entry := 0, buf := 0, port := 0, subport := 0, dir := 0, cell := 0, symFirst := 0, symCnt := 0, sfn := 0,
    slot := 0 }
def chain0 : Chain :=
  { gw := 0, histX := [], histY := [], frozen := 0, seen := 0, acc := 0, cnt := 0, rxHist := [], txHist := [],
    rxPhase := 0, txPhase := 0, latch := none, gwChg := false, detSym := false, txRest := [], txNext := 0, maskBuf := [],
    maskSum := [], maskCnt := 0, maskDone := [] }
def fhFrame0 : FhFrame :=
  { len := 0, ethertype := 0, udpPtp := false, srcMac := 0, vid := 0, rev := 0, concat := false, msgType := 0, pcid := 0,
    seqId := 0, ebit := false, sfn := 0, slot := 0, sym := 0, prb0 := 0, filter := 0, prbs := [], compShift := 0,
    smpOff := 0, compMeth := 0, width := 0, subframe := 0, rsv := 0, nSmp := 0 }
def slot0 : ColSlot :=
  { lane := 0, kind := 0, start := 0, len := 0, kernel := 0, desc := 0, thr := 0, late := false, st := .waiting }
def item0 : WlItem :=
  { lane := 0, kind := 0, gap := 0, after := 0, slot := 0, cl := 0, thr := 0, est := 0, batch := 0, desc := 0, arrays := 0,
    rows := [], aborts := 0, kat := false, st := .waiting }
def hostCopy0 : HostCopy :=
  { id := 0, ring := 0, token := 0, slice := 0, host := 0, key := 0, wr := false, todo := [], left := 0, status := 0 }
def ev0 : EvRec :=
  { seq := 0, boot := 0, cls := 0, sev := 0, sec := 0, ns := 0, tstate := 0, src := 0, data := 0, code := 0 }
def warm0 : WarmToken :=
  { slot := 0, digest := 0, dcr := 0, dmGen := 0, chans := 0, at_ns := 0, clean := false, srUe := false, patched := false,
    void := false, rows := [] }
def dcr0 : Dcr :=
  { formOk := false, sigOk := false, dmDiscard := false, serial := 0, ent := none, params := [], planHdr := (0, 0, 0, 0),
    cells := [], radio := [], profiles := [] }
def ent0 : Entitlement :=
  { magic := 0, entVer := 0, code := 0, dbgPolicy := 0, serial := 0, devId := 0, minSvn := 0, minKeyGen := 0,
    rsvSet := false, sigOk := false }
def region0 : Region :=
  { base := 0, nodeLo := 0, limit := 0, nodeHi := 0, key := 0, rd := false, wr := false, atm := false, valid := false }

/-! ## Spur -/

def sram : Nat := 0xF10000000000
/-- An open job on threads 0 and 1 of Spur core 0, with one window over its cluster's SRAM. -/
def job0 : Job :=
  { radio := false, entry := sram, tag := 7, slice := 1, mask := 3, wins := [⟨sram, sram + 0x800000, true, true, false⟩],
    part := 0, item := 0, since := 0 }
def thr : Thread :=
  { Thread.zero with
    st := .ready, job := some 0, pc := BitVec.ofNat 48 sram, a := (Thread.zero.a.set 1 (BitVec.ofNat 48 (sram + 8))).set 2 (BitVec.ofNat 48 (sram + 4097)) }
def spurS (t : Thread := thr) : State := ((regs [(F.RST_PD_STAT.pd_on, 0, 2 ^ 8)]).withJobs [(0, job0)]).withThreads [(0, t)]


/-- The thread may issue: the hypothesis of every statement about Spur instructions. -/
theorem test_wit_spur_issue : MayIssue spurS 0 := by unfold MayIssue; decide +kernel

/-- With a breakpoint at the pc that RESUME went over, and on the last thread of core 0 as a member of the job. -/
theorem test_wit_spur_issue_skip :
    MayIssue ((spurS { thr with skip := true }).withSec { SecState.zero with spurBps := [(0, [(0, 1, sram)])] }) 0 := by
  unfold MayIssue; decide +kernel

/-- SpurAluWritesItsRegister: reserved and unused fields at the ends of their ranges. -/
theorem test_wit_SpurAlu : MayIssue spurS 0 ∧ (8 ≤ 8 ∧ 10 ≤ 10 ∧ (1 : Fin 32) ≠ 0) ∧ ((7 < 8 ∨ 10 < 7) ∧ 7 < 32 ∧ (63 : Fin 64) ≠ 0) ∧
    ((31 < 8 ∨ 10 < 31) ∧ 31 < 32) ∧ (23 ≤ 23 ∧ 31 < 32) := by unfold MayIssue; decide +kernel

/-- SpurThreadInstructionsWriteOnlyTheThread and SpurConversionsWriteTheNearestValue: codes 11 and 15 are not supported, 10 and 18 are. -/
theorem test_wit_SpurMoves : MayIssue spurS 0 ∧ (0 : BitVec 24) = (0 : Word).truncate 24 ∧ (cvtFmt 11 && cvtFmt 0) = false ∧
    (cvtFmt 0 && cvtFmt 15) = false ∧ (cvtFmt 10 && cvtFmt 18) = true ∧ ¬(10 = 17 ∧ 18 = 17) := by unfold MayIssue; decide +kernel

/-- SpurSystemInstructions and SpurCacheInstructionsKeepOrDropLines: a special register that reads, the first reserved one, a register that MTS may not write;
no dirty line, and one dirty line that the instruction names. -/
theorem test_wit_SpurSystem : MayIssue spurS 0 ∧ (spurS.special 0 5).isSome ∧ 5 < 6 ∧ (0 : Fin 32) ≠ 1 ∧
    ((issuing spurS 0).dc.all fun l => !l.dirty) = true ∧
    (let t : Thread := { thr with dc := [⟨3, List.replicate 64 1, true, 0⟩], g := thr.g.set 4 192 }
     MayIssue (spurS t) 0 ∧ (issuing (spurS t) 0).dc = [⟨3, List.replicate 64 1, true, 0⟩] ∧
       ((issuing (spurS t) 0).rg 4).toNat % 2 ^ 48 / 64 = 3 ∧ (issuing (spurS t) 0).sq = []) := by unfold MayIssue; decide +kernel

/-- SpurBranchesAndLoops and SpurInstructionEndsAtNextWordOrLoopStart: an aligned and a misaligned target; a level inside another; the count at 2 and at 1. -/
theorem test_wit_SpurBranches : MayIssue spurS 0 ∧
    (((issuing spurS 0).rg 0 + (4 : BitVec 16).signExtend 64).truncate 48 : Addr).toNat % 4 = 0 ∧
    (((issuing spurS 0).rg 0 + (2 : BitVec 16).signExtend 64).truncate 48 : Addr).toNat % 4 ≠ 0 ∧
    (let t : Thread := { thr with loops := [⟨1, sram, sram + 16⟩] }
     MayIssue (spurS t) 0 ∧ (4 : BitVec 12) ≠ 0 ∧
       ((issuing (spurS t) 0).loops.all fun l => l.lv != 0 && (issuing (spurS t) 0).pc.toNat + 4 * 4 ≤ l.last) = true ∧
       ((issuing (spurS t) 0).loops.any fun l => l.lv == 1 || l.last < (issuing (spurS t) 0).pc.toNat + 4 * 4) = true) ∧
    (let t : Thread := { thr with g := (thr.g.set 4 16777215).set 5 16777216 }
     MayIssue (spurS t) 0 ∧ ((issuing (spurS t) 0).rg 4).toNat ≤ 16777215 ∧ ((issuing (spurS t) 0).rg 4).toNat ≠ 0 ∧
       16777215 < ((issuing (spurS t) 0).rg 5).toNat) ∧
    (thr.loops.all fun l => l.last != thr.pc.toNat) = true ∧
    (let x : Thread := { thr with loops := [⟨1, sram, sram⟩], lc := thr.lc.set 1 2 }
     x.loops = [⟨1, sram, sram⟩] ∧ sram = x.pc.toNat ∧ 1 < x.lc[(1 : Fin 4)].toNat) ∧
    (let x : Thread := { thr with loops := [⟨1, sram, sram⟩], lc := thr.lc.set 1 1 }
     sram = x.pc.toNat ∧ x.lc[(1 : Fin 4)].toNat ≤ 1) := by unfold MayIssue; decide +kernel

/-- SpurLocalLoadReadsMemory and SpurStorePostsAndAcknowledgeMakesItVisible: an address mode that faults, a misaligned address, a local access; room and no room in the
queue; an acknowledged store with an older one to another line. -/
theorem test_wit_SpurLoads : MayIssue spurS 0 ∧ ((issuing spurS 0).mAddr 1 3 8 64).2.2 ≠ 0 ∧
    (((issuing spurS 0).mAddr 2 0 8 0).2.2 = 0 ∧ ((issuing spurS 0).mAddr 2 0 8 0).1 % 8 ≠ 0) ∧
    (let a := ((issuing spurS 0).mAddr 1 0 8 0).1
     ((issuing spurS 0).mAddr 1 0 8 0).2.2 = 0 ∧ a % 8 = 0 ∧ spurS.checkAccess 0 a 8 .rd = (0, 0, false) ∧
       spurS.classOf 0 (spurS.isRadio 0) a 8 = .loc ∧ ((issuing spurS 0).cached a).isNone ∧ (issuing spurS 0).sq = [] ∧
       spurS.rdStatus a 8 0 = St.ok ∧ spurS.isDram a = false ∧ (spurS.checkAccess 0 a 8 .wr).1 = 0 ∧
       (issuing spurS 0).sq.length < 7 ∧ spurS.outstanding 0 < 64) ∧
    (let t : Thread := { thr with sq := List.replicate 7 ⟨sram, [1], 0⟩ }
     MayIssue (spurS t) 0 ∧ ((spurS t).checkAccess 0 (sram + 8) 8 .wr).1 = 0 ∧ ¬(issuing (spurS t) 0).sq.length < 7 ∧ (spurS t).outstanding 0 < 64) ∧
    (let s := spurS { thr with sq := [⟨sram, [1], 0⟩, ⟨sram + 64, [2, 3], 0⟩] }
     (s.thread 0).sq[1]? = some ⟨sram + 64, [2, 3], 0⟩ ∧ (s.thread 0).wait = none ∧
       ((s.thread 0).sq.take 1).all (fun q => q.addr / 64 != (sram + 64) / 64) = true ∧ s.accStatus (sram + 64) 2 0 = St.ok ∧
       ((linesOf (sram + 64) 2).all fun l => s.lineRd l 0 != .garbage) = true) := by
  unfold MayIssue; decide +kernel

/-- SpurAtomicsWorkAtTheirMemory and SpurRemoteReplyWritesTheRegister: misaligned and aligned atomics, each side of each comparison, signed and unsigned; a load
that waits for its reply. -/
theorem test_wit_SpurAtomics : MayIssue spurS 0 ∧ (issuing spurS 0).a[(2 : Fin 8)].toNat % 4 ≠ 0 ∧
    (let a := (issuing spurS 0).a[(1 : Fin 8)].toNat
     a % 8 = 0 ∧ spurS.checkAccess 0 a 8 .atm = (0, 0, false) ∧ spurS.classOf 0 (spurS.isRadio 0) a 8 = .loc ∧
       spurS.rdStatus a 8 0 = St.ok ∧ (issuing spurS 0).sq = [] ∧ (issuing spurS 0).dc = [] ∧
       leVal (spurS.load a 8 0) = 0 ∧ toSigned 64 (2 ^ 64 - 1) < toSigned 64 0 ∧ ¬(2 ^ 64 - 1) % 2 ^ 64 < 0 % 2 ^ 64 ∧
       0 = ((issuing spurS 0).rg 5).toNat % 2 ^ 64) ∧
    (let s := (spurS { thr with g := thr.g.set 5 9 }); leVal (s.load (sram + 8) 8 0) ≠ ((issuing s 0).rg 5).toNat % 2 ^ 64) ∧
    (let s := spurS { thr with st := .parked, wait := some (.load (sram + 8) 8 31 true 0 false) }
     (s.thread 0).wait = some (.load (sram + 8) 8 31 true 0 false) ∧ 31 < 32 ∧ (s.thread 0).sq = [] ∧
       s.rdStatus (sram + 8) 8 0 = St.ok) := by
  unfold MayIssue; decide +kernel

/-- SpurStacStoresTheConvertedAccumulator and FTAP; the multiplies and accumulator instructions ask for MayIssue only. -/
theorem test_wit_SpurStacAndFtap : MayIssue spurS 0 ∧ (6 ≤ 6 ∨ (0 : Fin 4) = 3) ∧ (6 ≤ 5 ∨ (3 : Fin 4) = 3) ∧
    (let m := (issuing spurS 0).mAddr 1 0 (accFmtBytes 5) ((0 : BitVec 9).signExtend 13)
     5 < 6 ∧ (0 : Fin 4) ≠ 3 ∧ m.2.2 = 0 ∧ m.1 % accFmtBytes 5 = 0 ∧ (spurS.checkAccess 0 m.1 (accFmtBytes 5) .wr).1 = 0 ∧
       ((issuing spurS 0).cached m.1).isNone ∧ (issuing spurS 0).sq.length < 7 ∧ spurS.outstanding 0 < 64) ∧
    (let s := spurS { thr with a := thr.a.set 3 (BitVec.ofNat 48 (sram + 16)) }
     MayIssue s 0 ∧ (1 : Fin 8) ≠ 3 ∧ (issuing s 0).a[(1 : Fin 8)].toNat % 4 = 0 ∧ (issuing s 0).a[(3 : Fin 8)].toNat % 4 = 0 ∧
       s.checkAccess 0 (sram + 8) 4 .rd = (0, 0, false) ∧ s.checkAccess 0 (sram + 16) 4 .rd = (0, 0, false) ∧
       s.classOf 0 (s.isRadio 0) (sram + 8) 4 = .loc ∧
       s.classOf 0 (s.isRadio 0) (sram + 16) 4 = .loc ∧ (issuing s 0).dc = [] ∧ (issuing s 0).sq = [] ∧ s.rdStatus (sram + 8) 4 0 = St.ok ∧ s.rdStatus (sram + 16) 4 0 = St.ok) := by
  unfold MayIssue; decide +kernel

/-- SpurFabricInstructionsParkWithARequest: a misaligned address; a radio group; no region; a region of the own node. -/
theorem test_wit_SpurFabric :
    (let s := spurS { thr with g := thr.g.set 4 2 }; MayIssue s 0 ∧ ((issuing s 0).rg 4).toNat % 2 ^ 48 % 4 ≠ 0) ∧
    (((issuing spurS 0).rg 4).toNat % 2 ^ 48 % 8 = 0 ∧ spurS.isRadio 0 = false ∧ spurS.regionCheck 1 0 8 .rd = none) ∧
    (let s := (spurS.withJobs [(0, { job0 with radio := true })]).withSpurs [(0, { SpurCore.zero with ilock := [sram / 64] })]
     MayIssue s 0 ∧ s.isRadio 0 = true) ∧
    (let s := spurS.withSlices [(1, { Slice.zero with regions := [(0, ⟨0, 0, 4095, 0, 1, true, true, true, true⟩)] })]
     s.regionCheck 1 0 8 .rd = some 1 ∧ s.regionCheck 1 0 8 .wr = some 1 ∧ s.regionCheck 1 0 8 .atm = some 1 ∧
       (s.spur 0).remote < 64 ∧ 0 = s.ownNode) := by
  unfold MayIssue; decide +kernel

/-- SpurThreadsIssueOnlyWhenTheyMay: an idle thread, a core without power, a held thread; a radio thread whose turn it is; a
breakpoint; a failed fetch, of an open and of a radio thread. -/
theorem test_wit_SpurThreadsIssue : decodeSpur 0 0 = some (.spurNop 0) ∧ (State.reset.thread 0).st = .idle ∧
    (State.reset.withThreads [(0, thr)]).spurOk 0 = false ∧ ((spurS { thr with dbg := true }).thread 0).dbg = true ∧
    (let s := (spurS.withJobs [(0, { job0 with mask := 1 }), (1, { job0 with radio := true, mask := 2 })]).withThreads
        [(0, thr), (1, { thr with job := some 1 })]
     s.isRadio 1 = true ∧ s.isRadio 0 = false ∧ (s.thread 1).st = .ready ∧ (s.thread 1).job ≠ none ∧ (s.thread 1).dbg = false ∧
       (s.thread 0).skip = false ∧ s.issueAt 1 ≤ s.issueAt 0 ∧ (s.thread 1).due ≤ s.issueAt 1) ∧
    (let s := spurS.withSec { SecState.zero with spurBps := [(0, [(0, 1, sram)])] }
     s.mayIssue 0 = true ∧ s.bpHit 0 = true ∧ (s.thread 0).skip = false) ∧
    (let s := spurS { thr with pc := 0 }
     s.mayIssue 0 = true ∧ s.bpHit 0 = false ∧ s.fetchOk 0 = false) ∧
    (let s := spurS.withJobs [(0, { job0 with radio := true })]
     s.mayIssue 0 = true ∧ s.bpHit 0 = false ∧ s.fetchOk 0 = false ∧ s.isRadio 0 = true) := by decide +kernel

/-- AJobStartsItsThreadsWithTheirRegisters: the last thread of a group of two. -/
theorem test_wit_AJobStarts : (threadsOf 0x81)[1]? = some 7 := by decide +kernel

/-- SpurWordsRoundTrip: the largest word of an encoding, and a word that decodes. -/
theorem test_wit_SpurWords : encodeSpur (.mflc 0 3 31) = some 0xE07F8300 ∧ decodeSpur 0 0xE07F8300 = some (.mflc 0 3 31) := by
  decide +kernel


/-! ## Device time -/

def actCell : List (Nat × Cell) := [(0, { cell0 with st := .active })]
def mxdI : List (Field × Nat × Nat) := [(F.SEC_ENT.code, 0, 2)]
/-- Port 0 carries frames on its slave subport 0; servo state `v` with source `src`, and `st` the register stepped. -/
def servoS (src v : Nat) (t : TimeState) (st : Nat := 1) : State :=
  (run [(F.TIME_CTRL.src_sel, 0, src), (F.TIME_STAT.state, 0, v), (F.TIME_STAT.stepped, 0, st), (F.FH_PORT_STAT.link_0, 0, 2)]).withTime t
def gmA : Announce := ⟨1, 5, 128, 6, 0x21, 0x4E5D, 128, 0, 37⟩
def gmB : Announce := ⟨2, 9, 128, 7, 0x21, 0x4E5D, 128, 0, 37⟩

/-- TimerWritesFiresAndTheSnapshot: the last timer, fired at the compare time it was set to; the ends of the time fields. -/
theorem test_wit_Timer : State.reset.mayWrite .cairn F.TIME_CMP_TARGET.target (15 : Fin 16) = true ∧
    State.reset.mayWrite .cairn F.TIME_CMP_CTRL.enable 0 = true ∧
    (let s := (regs [(F.TIME_CMP_CTRL.enable, 0, 2 ^ 15), (F.TIME_CMP_TARGET.target, 15, State.reset.compare)]).withTime { TimeState.zero with armed := 2 ^ 15 }
     let u := s.atNs 0
     bit u.time.armed 15 = true ∧ bit (s.rd F.TIME_CMP_CTRL.enable) 15 = true ∧
       0 ≤ toSigned 64 ((u.compare + 2 ^ 64 - s.rd F.TIME_CMP_TARGET.target 15 % 2 ^ 64) % 2 ^ 64)) ∧
    (let s := State.reset.withTime { TimeState.zero with sec := 2 ^ 48 - 1, ns := 2 ^ 30 - 1, frac := 2 ^ 18 - 1 }
     s.mayWrite .cairn F.TIME_SNAP_CTRL.snap 0 = true ∧ s.time.sec < 2 ^ 48 ∧ s.time.ns < 2 ^ 30 ∧ s.time.frac < 2 ^ 18) := by
  decide +kernel

/-- SourceChoiceHoldoverAndStepRequests: sources 0 and 2 chosen from 1, before and after the first step. -/
theorem test_wit_SourceChoice :
    (let s := regs [(F.TIME_CTRL.src_sel, 0, 1)]
     s.isI = false ∧ s.mayWrite .cairn F.TIME_CTRL.src_sel 0 = true ∧ s.srcSel ≠ 0 ∧ s.srcSel ≠ 2 ∧ (0 : Fin 4) ≠ 3 ∧ (2 : Fin 4) ≠ 3 ∧
       s.rd F.TIME_STAT.stepped = 0 ∧ (regs [(F.TIME_CTRL.src_sel, 0, 1), (F.TIME_STAT.stepped, 0, 1)]).rd F.TIME_STAT.stepped = 1) ∧
    (regs mxdI).isI = true ∧
    State.reset.mayWrite .cairn F.TIME_CTRL.force_holdover 0 = true ∧
    (let s := State.reset.withCells actCell
     s.mayWrite .cairn F.TIME_CTRL.step_arm 0 = true ∧ s.cellActive = true) ∧
    (let s := State.reset
     s.mayWrite .cairn F.TIME_CTRL.step_arm 0 = true ∧ s.cellActive = false ∧ s.srcSel ≠ 2) := by decide +kernel

/-- MeasurementsLockStepAndAreRefused: the jump threshold itself and one over it. -/
theorem test_wit_Measurements :
    let lk := { TimeState.zero with masters := [gmA], gm := some 5, locked := true }
    let ok (s : State) : Bool := s.srcSel == 0 && s.ptpIn 0 0 0 && s.parent == some gmA
    (ok (servoS 0 0 lk) = true ∧ (servoS 0 0 lk).servo = 0) ∧
    (let s := servoS 0 1 lk
     ok s = true ∧ s.servo = 1 ∧ s.time.pending = none ∧ s.time.locked = true ∧ s.cellActive = false) ∧
    (let s := (servoS 0 1 lk).withCells actCell
     ok s = true ∧ s.servo = 1 ∧ s.time.pending = none ∧ s.time.locked = true ∧ s.cellActive = true) ∧
    (let s := servoS 0 1 { lk with locked := false, lockRun := [0, 0, 0, 0, 0, 0, -100] }
     ok s = true ∧ s.servo = 1 ∧ s.time.pending = none ∧ s.time.locked = false ∧ 7 ≤ s.time.lockRun.length) ∧
    (let s := servoS 0 2 lk
     ok s = true ∧ s.servo = 2 ∧ s.rd F.TIME_STAT.stepped = 1 ∧ s.rd F.TIME_CTRL.force_holdover = 0 ∧
       (let k := s.rd F.TIME_JUMP_THR.thr_ns
        k < (-((k : Int) + 1)).natAbs ∧ (-(k : Int)).natAbs ≤ k)) := by decide +kernel

/-- MastersAndLostSourcesMoveTheServo: timeouts and limits at the instant they are reached. -/
theorem test_wit_Masters :
    (let s := servoS 0 0 TimeState.zero
     s.ptpIn 0 0 1 = false ∧ s.ptpIn 0 0 0 = true ∧ s.time.masters = [] ∧ s.time.gm = none) ∧
    (let s := servoS 0 2 { TimeState.zero with masters := [gmB], gm := some gmB.gm }
     s.ptpIn 0 0 0 = true ∧ s.time.masters = [gmB] ∧ s.time.gm = some gmB.gm ∧ gmB.gm ≠ gmA.gm ∧ announceBetter gmA gmB = true ∧
       s.srcSel = 0 ∧ s.servo = 2 ∧ s.rd F.TIME_STAT.stepped = 1) ∧
    (let s := servoS 0 1 TimeState.zero 0; s.srcSel = 0 ∧ s.servo = 1 ∧ s.rd F.TIME_STAT.stepped = 0) ∧
    (let s := servoS 1 1 { TimeState.zero with locked := true, todWritten := true }
     s.rd F.TIME_PPS_IN.edge = b2n false ∧ s.isI = false ∧ s.srcSel = 1 ∧ s.servo = 1 ∧ s.time.pending = none ∧ s.time.locked = true ∧
       s.time.todWritten = true ∧ s.cellActive = false) ∧
    (State.reset.isI = false ∧ (servoS 2 0 TimeState.zero).srcSel ≠ 1) ∧ State.reset.rd F.TIME_PPS_IN.edge = b2n (!true) ∧
    (let s := (regs [(F.TIME_STAT.pps_in_present, 0, 1)] (servoS 1 2 { TimeState.zero with sec := 1, ns := 500000000, ppsLast := some 0 }))
     s.time.ppsLast = some 0 ∧ 0 + 1500000000 ≤ s.nowNs ∧ s.rd F.TIME_STAT.pps_in_present = 1 ∧ s.isI = false ∧ s.srcSel = 1 ∧
       s.servo = 2 ∧ s.rd F.TIME_STAT.stepped = 1 ∧ (regs mxdI s).isI = true) ∧
    (let h := State.reset.rd F.TIME_HOLD.hold_limit_s
     let s := servoS 0 3 { TimeState.zero with sec := h, holdSince := some 0 }
     s.time.holdSince = some 0 ∧ s.servo = 3 ∧ 0 + s.rd F.TIME_HOLD.hold_limit_s * 1000000000 ≤ s.nowNs ∧ s.time.degraded = false) ∧
    (let h := State.reset.rd F.TIME_HOLD.refuse_limit_s
     let s := servoS 0 3 { TimeState.zero with sec := h, refuseSince := some 0 }
     s.time.refuseSince = some 0 ∧ 0 + s.rd F.TIME_HOLD.refuse_limit_s * 1000000000 ≤ s.nowNs) := by decide +kernel

/-- TimePortsSendAndSynceFollows: port 7 subport 3 as a master, port 0 subport 0 as the slave port; both profiles. -/
theorem test_wit_TimePorts :
    (let s := run [(F.FH_PORT_CFG.split, 7, 2), (F.FH_PORT_STAT.link_3, 7, 2), (F.TIME_PORT.synce_port, 0, 7),
      (F.TIME_PORT.synce_subport, 0, 3)]
     s.procUp tc = true ∧ s.fhUp 7 3 = true ∧ s.isSlave 7 3 = false ∧ s.rd F.TIME_PORT.profile = 0 ∧
       (s.put F.TIME_PORT.profile 1).rd F.TIME_PORT.profile ≠ 0 ∧ s.rd F.TIME_PORT.synce_port = 7 ∧
       s.rd F.TIME_PORT.synce_subport = 3) ∧
    (let s := servoS 0 2 { TimeState.zero with masters := [gmA] }; s.servo = 2 ∧ s.parent = some gmA) ∧
    ((run []).isSlave 0 0 = true) ∧
    (let s := (regs [(F.TIME_CTRL.pps_out_en, 0, 1), (F.TIME_CTRL.pps_out_force, 0, 1)])
     s.time.ns = 0 ∧ s.rd F.TIME_CTRL.pps_out_en = 1 ∧ s.rd F.TIME_CTRL.pps_out_force = 1) ∧
    (State.reset.time.ns = 0 ∧ State.reset.servo = 0 ∧ State.reset.rd F.TIME_CTRL.pps_out_force = 0) := by decide +kernel


/-! ## Tick edges, windows and work -/

/-- Descriptors of zeros but for what each kind needs: a radio tile, an open tile, a DMA transfer, a radio DMA transfer of four bytes. -/
def descMem : List Host.Cell :=
  let w (m : List Host.Cell) (a v : Nat) : List Host.Cell := Memory.write m a (leBytes 8 v)
  w (w (w (w [] (sram + 0x1000) (2 ^ 18 + 2 ^ 28)) (sram + 0x1040) (2 ^ 21 + 2 ^ 28)) (sram + 0x10A0) (2 ^ 12)) (sram + 0x10E0) (2 ^ 26)
/-- Partition 0 with cluster 0 in power and its sequencer running, in the tick at time zero. -/
def tickS (col : List ColSlot) (wl : List WlItem) : State :=
  ((((run [(F.RST_PD_STAT.pd_on, 0, 1 + 2 ^ 8), (F.TICK_STAT.running, 0, 1)]).withTime { TimeState.zero with edges := true }).withParts
    [(0, { Part.zero with col := col, wl := wl })])).withMem descMem
def slotL (lane desc : Nat) (st : EntryState := .waiting) (start : Nat := 6600) (len : Nat := 1000) : ColSlot :=
  { slot0 with lane := lane, desc := desc, thr := 2 ^ 7, start := start, len := len, st := st }
def itemL (lane kind desc : Nat) (st : ItemState := .waiting) : WlItem := { item0 with lane := lane, kind := kind, desc := desc, thr := 2 ^ 7, st := st }

/-- TickEdgeReachesTheNextBoundary and TickEdgesStepsAndTheFirstEdge: steps before the first edge and in the Col window, outside
it, and refused; the lock wait of step 4. -/
theorem test_wit_TickEdges :
    State.reset.time.edges = false ∧
    (let s := (regs [(F.SRV_CTRL.adm_en, 0, 0)]).withTime { TimeState.zero with edges := true }
     s.time.edges = true ∧ s.staged = [] ∧ s.cells = [] ∧ s.deltas = [] ∧ s.slices = [] ∧ s.rings = [] ∧ s.procs = [] ∧ s.thaws = [] ∧
       s.heldCmds = [] ∧ s.rd F.SRV_CTRL.adm_en = 0 ∧ s.time.armed = 0 ∧ ((span 0 8).any s.seqRuns) = false ∧
       ([0, 4095].all fun n => s.rd F.SRV_SHP.rate n == 0 && s.rd F.SRV_SHP.burst n == 0) = true) ∧
    (let s := (State.reset.withTime { TimeState.zero with pending := some 5 }).withCells actCell
     s.time.pending = some 5 ∧ s.cellActive = true) ∧
    (let s := State.reset.withTime { TimeState.zero with pending := some (-5), edges := true, ns := 2000 }
     s.cellActive = false ∧ s.time.edges = true ∧ s.inCol = false) ∧
    (let s := State.reset.withTime { TimeState.zero with pending := some (-5), edges := true, ns := 1999 }
     s.cellActive = false ∧ s.inCol = true ∧ 0 ≤ (s.nowNs : Int) + -5 ∧ (s.nowNs : Int) + -5 < 2 ^ 48 * 1000000000) ∧
    (let s := regs [(F.RST_STAT.step, 0, 4)]
     s.time.edges = false ∧ s.time.lockWaitOver = false ∧ s.rd F.TIME_STAT.stepped = 0 ∧ 4 ≤ s.rd F.RST_STAT.step ∧
       max s.nowNs (s.bring.startNs + s.rd F.RST_STEP_T.t_ms 4 * 1000000 + s.rd F.TIME_HOLD.lock_wait_s * 1000000000) <
         2 ^ 48 * 1000000000) := by decide +kernel

/-- BankWritesReachTheOtherBank: the last byte of bank 1, and a write across both banks while bank 0 is committed. -/
theorem test_wit_BankWrites : (run [(F.RST_PD_STAT.pd_on, 0, 1)]).partOn 0 = true ∧
    (0x1FFFFF + ([1] : List Byte).length ≤ 0x200000 ∧ (0x1FFFFF + 0) / 0x100000 ≠ 0 ∧ overlaps 0x1FFFFF 1 0 0x100000 = false) ∧
    ((0xFFFFF + 1) / 0x100000 ≠ 0 ∧ overlaps 0xFFFFF 2 0 0x100000 = true) := by decide +kernel

/-- RadioWindowsStart: a window that would end one cycle after the tick, and on each kind of lane one that ends in it. -/
def radioS : State := tickS [slotL 0 (sram + 0x1000), slotL 16 0 .waiting 411501] []
theorem test_wit_RadioWindowsStart_core :
    let x := slotL 0 (sram + 0x1000)
    EntryMayStart radioS 0 0 411500 x ∧ 411500 + x.len ≤ 412500 ∧ 412500 < 411501 + x.len ∧ radioS.runningItems 0 0 = [] ∧
      radioS.tileOk 0 true (decodeTile (radioS.descWords x.desc)) = true ∧ radioS.bgOk 0 (decodeTile (radioS.descWords x.desc)) = true ∧
      radioS.tilePoison 0 (decodeTile (radioS.descWords x.desc)) = (false, false) := by
  unfold EntryMayStart; decide +kernel
theorem test_wit_RadioWindowsStart_spur :
    EntryMayStart radioS 0 1 411501 (slotL 16 0 .waiting 411501) ∧ radioS.jobOk 0 true (radioS.jobWords 0) = true ∧
      radioS.threadsFree 0 (2 ^ 7) = true := by
  unfold EntryMayStart; decide +kernel
def radioS2 : State :=
  let w (m : List Host.Cell) (a v : Nat) : List Host.Cell := Memory.write m a (leBytes 8 v)
  ((tickS [slotL 80 0x40, slotL 96 0x80] []).withCells actCell).withMem (w (w (w (w (w (w (w []
    0x40 (pinnedBase 0)) 0x48 (pinnedBase 0 + 64)) 0x50 (2 ^ 32 + 1)) 0x60 (2 ^ 26)) 0x80 (pinnedBase 0)) 0x88 (2 ^ 16)) 0x90 4096)
theorem test_wit_RadioWindowsStart_dma :
    let d := decodeDma (radioS2.descWords 0x40)
    EntryMayStart radioS2 0 0 6600 (slotL 80 0x40) ∧ d.radio = true ∧ radioS2.dmaOk d = true ∧ d.empty = false := by
  unfold EntryMayStart; decide +kernel
theorem test_wit_RadioWindowsStart_fronthaul :
    let d := radioS2.fhDesc 0x80
    EntryMayStart radioS2 0 1 6600 (slotL 96 0x80) ∧ (radioS2.cell? d.cell).isSome = true ∧
      radioS2.fhOk 0 0x80 (radioS2.slotAt (ceMu cell0.ent) (radioS2.time.tick + d.tickRel)).2 d = true := by
  unfold EntryMayStart; decide +kernel

/-- A tile that runs on core 0 since cycle `c` of the tick, radio or open. -/
def runTile (desc c : Nat) (radio : Bool) (s : State) : State :=
  s.withCores [(0, { Core.zero with run := some { desc := s.descWords desc, since := c, radio := radio, slice := 0 } })]

/-- RadioWindowsEnd: an end at the descriptor's last cycle, at the window's last cycle and one after it. -/
theorem test_wit_RadioWindowsEnd :
    let col := [slotL 0 (sram + 0x1000) (.running 0), slotL 16 0 (.running 0), slotL 80 0 (.running 0)]
    let s := runTile (sram + 0x1000) 0 true (tickS col [])
    ((s.partOf 0).col[0]? = some (slotL 0 (sram + 0x1000) (.running 0)) ∧ 0 ≤ s.absAt 7600 ∧ s.cycNow ≤ 7600 ∧
      0 + s.tileCycles 0 (decodeTile (s.descWords (sram + 0x1000))) ≤ s.absAt 7600 ∧ s.rd F.MSF_STAT.fenced 0 = 0 ∧ 0 < s.nCores ∧
      s.rd F.MSF_MAP.absent 0 = 0) ∧
    ((s.partOf 0).col[1]? = some (slotL 16 0 (.running 0)) ∧ ((s.jobsOf 0).all fun j => !(j.2.radio && j.2.item == 1)) = true ∧
      7600 ≤ 6600 + 1000 ∧ 6600 + 1000 < 7601 ∧ (slotL 16 0 (.running 0)).late = false) ∧
    ((s.partOf 0).col[2]? = some (slotL 80 0 (.running 0)) ∧ ((s.dmasOf 0).all fun y => !(y.radio && y.item == some 2)) = true) := by
  decide +kernel

/-- WorkItemsStart: known-answer runs on a core and a Spur core, a tile, a job and an empty transfer, in the first cycle of a gap. -/
def workS : State := tickS [] [itemL 0 0 (sram + 0x1040), { itemL 1 0 0 with kat := true }, { itemL 17 0 0 with kat := true },
  itemL 16 1 0, itemL 80 2 (sram + 0x1080)]
theorem test_wit_WorkItemsStart_kat :
    ItemMayStart workS 0 1 6600 { itemL 1 0 0 with kat := true } ∧ ItemMayStart workS 0 2 6600 { itemL 17 0 0 with kat := true } ∧
      workS.katMask 1 ≠ 0 ∧ workS.threadsFree 1 (workS.katMask 1) = true := by
  unfold ItemMayStart; decide +kernel
theorem test_wit_WorkItemsStart_tile :
    ItemMayStart workS 0 0 6600 (itemL 0 0 (sram + 0x1040)) ∧ workS.tileOk 0 false (decodeTile (workS.descWords (sram + 0x1040))) = true ∧
      workS.tilePoison 0 (decodeTile (workS.descWords (sram + 0x1040))) = (false, false) := by
  unfold ItemMayStart; decide +kernel
theorem test_wit_WorkItemsStart_job :
    ItemMayStart workS 0 3 6600 (itemL 16 1 0) ∧ workS.jobOk 0 false (workS.jobWords 0) = true ∧ workS.threadsFree 0 (2 ^ 7) = true ∧
      2 ^ 7 &&& workS.rd F.SPR_CTRL.radio_mask 0 = 0 := by
  unfold ItemMayStart; decide +kernel
theorem test_wit_WorkItemsStart_dma :
    ItemMayStart workS 0 4 412499 (itemL 80 2 (sram + 0x1080)) ∧ workS.dmaOk (decodeDma (workS.descWords (sram + 0x1080))) = true ∧
      (decodeDma (workS.descWords (sram + 0x1080))).order = false ∧ (decodeDma (workS.descWords (sram + 0x1080))).empty = true := by
  unfold ItemMayStart; decide +kernel

/-- TilesEndAndAbort: an end with the tile's last cycle, and an abort at the tick edge's abort point. -/
theorem test_wit_TilesEndAndAbort :
    let s := runTile (sram + 0x1040) 6600 false (tickS [] [itemL 0 0 (sram + 0x1040) (.running 6600)])
    let it := itemL 0 0 (sram + 0x1040) (.running 6600)
    let k := s.tileCycles 0 (decodeTile (s.descWords (sram + 0x1040)))
    (s.item? 0 0 = some it ∧ it.kind = 0 ∧ it.kat = false ∧ coreLane it.lane = true ∧ s.cycNow ≤ 6600 + k ∧ 6600 + k < 412500 ∧
      6600 + k ≤ s.nextStop 0 0 6600 ∧ s.rd F.MSF_STAT.fenced 0 = 0 ∧ 0 < s.nCores ∧ s.rd F.MSF_MAP.absent 0 = 0) ∧
    (let w (m : List Host.Cell) (a v : Nat) : List Host.Cell := Memory.write m a (leBytes 8 v)
     let s := runTile (sram + 0x1040) 412000 false ((tickS [] [itemL 0 0 (sram + 0x1040) (.running 412000)]).withMem
       (w (w [] (sram + 0x1040) (2 ^ 21 + 2 ^ 28 + 2 ^ 34)) (sram + 0x1048) (2 ^ 29 + 1024)))
     s.stopsAt 0 (itemL 0 0 (sram + 0x1040) (.running 412000)) 412000 (s.nextStop 0 0 412000) .edge = true ∧
       s.nextStop 0 0 412000 < 412500) := by
  decide +kernel


/-- JobsEndAndAbort: a job of a work-list item and a radio job that have halted, a core that may be fenced, an abort at the edge's abort
point. -/
theorem test_wit_JobsEndAndAbort :
    let ok (s : State) (j : Job) : Bool := (threadsOf j.mask).all fun th => (s.thread th).dc.isEmpty && (s.thread th).sq.isEmpty &&
      !(s.thread th).faulted
    let h : Thread := { thr with st := .halted }
    let s := ((tickS [] [itemL 16 1 0 (.running 0)]).withJobs [(0, job0)]).withThreads [(0, h), (1, h)]
    (kfind s.jobs (8 * 0 + 0) = some job0 ∧ s.cycNow ≤ 412500 ∧ s.jobHalted 0 job0 = true ∧ ok s job0 = true ∧
      job0.radio = false ∧ s.item? 0 0 = some (itemL 16 1 0 (.running 0)) ∧ s.rd F.SPR_STAT.fenced 0 = 0 ∧ 0 < s.nSpur ∧
      s.rd F.SPR_MAP.absent 0 = 0) ∧
    (let j := { job0 with radio := true }; let s := s.withJobs [(0, j)]
     kfind s.jobs 0 = some j ∧ s.jobHalted 0 j = true ∧ ok s j = true) ∧
    (let s := spurS
     kfind s.jobs 0 = some job0 ∧ s.jobStopsAt 0 16 (412500 - s.rd F.TICK_FIT.abort_lead 0) .edge = true ∧
       ((threadsOf job0.mask).all fun th => (s.thread th).sq.isEmpty && (s.thread th).wait.isNone && !(s.thread th).dbg) = true ∧
       (s.withTime { TimeState.zero with cut := true }).jobStopsAt 0 16 0 .step = true) := by decide +kernel

/-- TransfersStartAndEnd: an empty transfer at both its ends, one of four bytes that is radio and one that is not, failed
descriptors of a radio entry and of an item; both buffer lengths. -/
def dmaS : State :=
  let w (m : List Host.Cell) (a v : Nat) : List Host.Cell := Memory.write m a (leBytes 8 v)
  (tickS [slotL 80 0x140] [itemL 81 2 0x100]).withMem
    (w (w (w (w (w (w [] 0x40 (sram + 64)) 0x48 (sram + 128)) 0x50 (2 ^ 32 + 4)) 0x120 (2 ^ 27)) 0x160 (2 ^ 27 + 2 ^ 26)) 0x60 (2 ^ 12))
theorem test_wit_TransfersStart :
    let s := dmaS
    (s.seqRuns 0 = true ∧ s.on F.TICK_STAT.running 0 = true ∧ s.dmaOk (decodeDma (s.descWords 0x40)) = true ∧
      (decodeDma (s.descWords 0x40)).order = false ∧ s.isOwn (decodeDma (s.descWords 0x40)).src = true ∧
      s.isOwn (decodeDma (s.descWords 0x40)).dst = true) ∧
    (s.dmaOk (decodeDma (s.descWords 0x140)) = false ∧ (decodeDma (s.descWords 0x140)).radio = true ∧
      s.dmaEntry 0 80 0x140 = some 0 ∧ (s.partOf 0).col[0]? = some (slotL 80 0x140)) ∧
    (s.dmaOk (decodeDma (s.descWords 0x100)) = false ∧ (decodeDma (s.descWords 0x100)).radio = false ∧ s.dmaItem 0 81 0x100 = some 0) ∧
    (s.mayWrite .cairn F.SPR_GCB_RGN_BASE.rgn_base 2047 = true ∧ s.rd F.SPR_GCB_LEN.gcb_len 2047 = 0) ∧
    (let s := regs [(F.SPR_GCB_LEN.gcb_len, 2047, 64)]
     s.mayWrite .cairn F.SPR_GCB_RGN_BASE.rgn_base 2047 = true ∧ s.rd F.SPR_GCB_LEN.gcb_len 2047 ≠ 0) := by decide +kernel
theorem test_wit_TransfersEnd :
    let x : Dma := { dma0 with desc := dmaS.descWords 0x40, uid := 1 }
    let y : Dma := { dma0 with desc := dmaS.descWords 0x400, uid := 2 }
    let s := (tickS [] []).withDmas [(15, [x, y])]
    ((s.dmasOf 15)[0]? = some x ∧ (decodeDma x.desc).empty = false ∧ (decodeDma x.desc).notify = true ∧
      s.isOwn (decodeDma x.desc).src = true ∧ s.isOwn (decodeDma x.desc).dst = true ∧ x.todo = [] ∧ x.left = 0 ∧ x.status = St.ok ∧
      x.item = none ∧ ((s.partOf 0).col.any fun z => z.lane == 95 && z.st.isRunning) = false) ∧
    ((s.dmasOf 15)[1]? = some y ∧ (decodeDma y.desc).empty = true ∧ (decodeDma y.desc).order = false) := by decide +kernel

/-- FencesAndHangs: the last second of a hang, on a Massif core and on a Spur core. -/
theorem test_wit_FencesAndHangs :
    (let s := tickS [] []
     s.rd F.MSF_STAT.fenced 0 = 0 ∧ 0 < s.nCores ∧ s.rd F.MSF_MAP.absent 0 = 0 ∧ s.mayWrite .cairn F.MSF_CTRL.fence_req 0 = true ∧
       (s.findSpare ((List.range 5).map (slotKey 0))).isNone = true ∧ s.rd F.SPR_STAT.fenced 0 = 0 ∧ 0 < s.nSpur ∧
       s.rd F.SPR_MAP.absent 0 = 0 ∧ s.mayWrite .cairn F.SPR_CTRL.fence_req 0 = true) ∧
    (let s := runTile (sram + 0x1000) 0 true (tickS [] [])
     0 + s.tileCycles 0 (decodeTile (s.descWords (sram + 0x1000))) + s.rd F.MSF_GCTRL.hang_cyc ≤ s.absCyc) ∧
    (let j := { job0 with radio := true }
     let s := (tickS [slotL 16 0 (.running 0)] []).withJobs [(0, j)]
     (0, j) ∈ s.jobsOf 0 ∧ (s.partOf 0).col[0]? = some (slotL 16 0 (.running 0)) ∧
       0 + 1000 + s.rd F.SPR_GCTRL.hang_cyc ≤ s.absCyc) := by decide +kernel

/-- KnownAnswerRuns: both requests, the period's tick, and the ends of runs on core 0 and on Spur core 0. -/
theorem test_wit_KnownAnswerRuns :
    (let s := tickS [] []
     s.mayWrite .cairn F.MSF_CTRL.kat_now 0 = true ∧ s.coreOk 0 = true ∧ s.mayWrite .cairn F.SPR_CTRL.kat_now 0 = true ∧
       s.spurOk 0 = true) ∧
    (let s := regs [(F.MSF_GCTRL.kat_period, 0, 8), (F.SPR_GCTRL.kat_period, 0, 8)] (tickS [] [])
     s.time.edges = true ∧ s.rd F.MSF_GCTRL.kat_period ≠ 0 ∧ s.time.tick % (s.rd F.MSF_GCTRL.kat_period : Int) = 0 ∧
       s.rd F.SPR_GCTRL.kat_period ≠ 0 ∧ s.time.tick % (s.rd F.SPR_GCTRL.kat_period : Int) = 0) ∧
    (let s := tickS [] [{ itemL 0 0 0 (.running 0) with kat := true }, { itemL 16 0 0 (.running 0) with kat := true }]
     s.cycNow ≤ 412500 ∧ s.katItem 0 0 = some 0 ∧ s.katItem 0 16 = some 1 ∧ s.rd F.MSF_STAT.fenced 0 = 0 ∧ 0 < s.nCores ∧
       s.rd F.MSF_MAP.absent 0 = 0 ∧ s.rd F.SPR_STAT.fenced 0 = 0 ∧ 0 < s.nSpur ∧ s.rd F.SPR_MAP.absent 0 = 0) := by decide +kernel

/-- SubstitutionsCommitInAColWindow: the last spare slot and position, in the window and outside it. -/
theorem test_wit_Substitutions :
    let s := ((tickS [] []).withCores [(0, { Core.zero with subst := some 4 })]).withSpurs [(0, { SpurCore.zero with subst := some 16 })]
    s.inCol = true ∧ (s.core 0).subst = some 4 ∧ (s.spur 0).subst = some 16 ∧ (s.core 0).image = [] ∧
      (s.withTime { TimeState.zero with edges := true, ns := 2000 }).inCol = false := by decide +kernel


/-! ## NoC and memory -/

def hdr0 : NocHdr :=
  { op := 0, vc := 1, poison := false, dst := 2048, src := 2304, txn := 65535, nflits := 0, slice := 0, addr := sram, key := 0, dev := true,
    status := 0, len := 8, imm := 7, rsv := false }
def enc (h : NocHdr) : Nat := encodeWord288 h.bytes false
/-- Only router 0 of I/O die 0 and router 3 of I/O die 1 are up. -/
def nocS : State := regs ((F.RST_PD_STAT.pd_on, 0, 2 ^ 8) :: (span 1 31).filterMap fun r => if r = 3 then none else some (F.NOC_RTR.state, r, 1))

/-- PacketsReadWriteAnswerOrAreLost: headers of every kind of fault, and one of each request and answer that is delivered. -/
theorem test_wit_Packets_headers :
    State.reset.rd F.NOC_RTR.state 31 = 0 ∧ decodeWord288 0x0101 = .uncorrectable ∧
    (decodeWord288 (enc hdr0) = .clean ∧ parseHdr (enc hdr0) = hdr0) ∧
    (parseHdr (enc { hdr0 with op := 8 })).rsv = true ∧ nocS.vcOk { hdr0 with vc := 2 } = false ∧ nocS.vcOk hdr0 = true ∧
    nocS.rd F.NOC_RTR.state 31 ≠ 0 := by decide +kernel
theorem test_wit_Packets_place : nocS.epRouter 2048 = 0 ∧ nocS.epRouter 2304 = 3 := by
  unfold State.epRouter
  rw [show nocS.epRouters 2048 = [0] by decide +kernel, show nocS.epRouters 2304 = [3] by decide +kernel]
  simp [Nat.mod_one]
theorem test_wit_Packets_hop : nocS.routePath 3 0 = 3 :: 2 :: [1, 0] ∧ 3 ∉ ([2, 1, 0] : List Nat) := by decide +kernel
theorem test_wit_Packets_delivered :
    (hdr0.isRequest = true ∧ epPart 0 = some 0 ∧ (regs [(F.SEC_ENT.code, 0, 1)]).partOn 7 = false ∧ epPart 0x700 = some 7) ∧
    (let s := regs [(F.RST_PART_STAT.rst_state, 0, 1)]; s.partOn 0 = true ∧ s.rd F.RST_PART_STAT.rst_state 0 ≠ 0) ∧
    (epPart 2048 = none ∧ nocS.place sram ≠ .regs ∧ nocS.isDram sram = false ∧ nocS.rdStatus sram 8 0 = St.ok ∧
      nocS.isBank sram = false ∧ nocS.accStatus sram 8 0 = St.ok) ∧
    (let q : NocReq := { src := 2048, txn := 65535, dst := 0, addr := 0 }
     (nocS.withNocReqs [q]).nocReqs.any (fun x => x.src == hdr0.dst && x.txn == hdr0.txn) = true ∧
       ({ hdr0 with op := 2 } : NocHdr).isAnswer = true) := by decide +kernel
/-- A delivery by one of a partition's four routers: which of them is the implementation's. -/
theorem test_wit_Packets_partition : ∃ r : Fin 32, State.reset.epRouter 0 = r.val ∧ State.reset.rd F.NOC_RTR.state r = 0 := by
  have h : ∀ k, k < 4 → ∃ r : Fin 32, (State.reset.epRouters 0).getD k 0 = r.val ∧ State.reset.rd F.NOC_RTR.state r = 0 := by
    decide +kernel
  exact h _ (Nat.lt_of_lt_of_eq (Nat.mod_lt _ (by decide +kernel)) (by decide +kernel : (State.reset.epRouters 0).length = 4))
theorem test_wit_KeyLoads :
    (0 : Nat) ≠ devKey ∧ State.reset.scopesDead = [] ∧ ((run []).withSec { SecState.zero with bootKey := true }).procUp cairn = true ∧
      (State.reset.withSec { SecState.zero with bootKey := true }).procUp cairn = false := by decide +kernel

/-- ScrubbingAndPatrol: each result of a scrubbed word, in cluster SRAM and in a scratchpad. -/
theorem test_wit_Scrubbing :
    (let s := tickS [] []
     s.rd F.MEM_SCRUB.sram_scrub_ms ≠ 0 ∧ s.scrubNow sram = true ∧ s.scrubNow (padBase 0) = true ∧
       (∀ n < 2, s.place sram ≠ .pad n) ∧ s.place (padBase 0) = .pad 0 ∧ s.rd F.MSF_STAT.fenced 0 = 0 ∧ 0 < s.nCores ∧
       s.rd F.MSF_MAP.absent 0 = 0) ∧
    decodeWord288 0 = .clean ∧ decodeWord288 1 = .corrected 0 1 ∧
    decodeWord288 (encodeWord288 (List.replicate 32 0) true) = .poisoned ∧ decodeWord288 0x0101 = .uncorrectable := by decide +kernel
/-- The patrol on the first line of channel 0, mirrored and not, with each result in codeword A. -/
theorem test_wit_Patrol :
    (let s := (regs [(F.MEM_MAP.n_ent, 0, 24), (F.MEM_MAP.rsv_per_ch, 0, 2), (F.MEM_MAP.cap_gib, 0, 16)]).withLineKey [(0, (0, 0))]
     s.patrolAt 0 0 = some (0, some false) ∧ s.rd F.MEM_SCRUB.scrub_h ≠ 0 ∧ s.chanLive 0 = true ∧
       (List.range 10).filter (fun d => bit (s.rd F.MEM_DEV_FAIL.failed 0) d) = [] ∧
       lineTag (((kfind s.lineKey 0).map (·.1)).getD devKey) 0 = 0) ∧
    ((regs [(F.MEM_MAP.n_ent, 0, 24), (F.MEM_MAP.rsv_per_ch, 0, 0), (F.MEM_MAP.cap_gib, 0, 16)]).patrolAt 0 0 = some (0, none)) ∧
    (patrolWord (burstWord 0 0 0) (burstParity 0 0) [] = .clean ∧ patrolWord (burstWord 0 1 0) (burstParity 0 1) [] = .clean) ∧
    (patrolWord (burstWord 17 0 0) (burstParity 17 0) [] = .lost ∧ patrolWord (burstWord 17 1 0) (burstParity 17 1) [] = .clean) ∧
    (patrolWord (burstWord 1 0 0) (burstParity 1 0) [] = .fixed 0 ∧ patrolWord (burstWord 1 1 0) (burstParity 1 1) [] = .clean) := by
  decide +kernel

/-- LostChannelsAndRouters. -/
theorem test_wit_LostParts : State.reset.chanLive 23 = true ∧ (regs [(F.MEM_CH_STAT.lost, 23, 1)]).chanLive 23 = false ∧
    State.reset.rd F.NOC_RTR.state 31 = 0 ∧ nocS.rd F.NOC_RTR.state 31 ≠ 0 := by decide +kernel

/-! ## Cells -/

def wait0 : Cell := { cell0 with st := .unlockPending, waits := true }
/-- A ready device at a frame boundary, in LOCKED after its step. -/
def frameS (l : List (Field × Nat × Nat)) : State :=
  (run ([(F.RST_STAT.ready, 0, 1), (F.RST_STAT.step, 0, 11), (F.TIME_STAT.stepped, 0, 1), (F.TIME_STAT.state, 0, 2)] ++ l)).withTime
    { TimeState.zero with edges := true }
def unlock0 : CellPend := ⟨true, 0, 5, 0x49⟩
def lock0 : CellPend := ⟨false, 0, 5, 0x48⟩
def awaitS (c : Cell) (reproof : Bool) : State :=
  ((frameS []).withCells [(0, c)]).withParts [(0, { Part.zero with await := true, reproof := reproof })]
def bank0 : BankImage := ⟨0, [[]], [], [], [], []⟩

/-- CellsStartLockAndUnlockAtFrames: each effect at the boundary at which it falls due; a bank that fits and one without columns. -/
theorem test_wit_Cells :
    (let s := (frameS []).withCells [(0, wait0)]
     s.cell? 0 = some wait0 ∧ wait0.st = .unlockPending ∧ wait0.waits = true ∧ wait0.pend = none ∧ s.ready = true ∧ s.atFrame = true ∧
       s.startOk = true ∧ State.reset.ready = false) ∧
    (let x := { cell0 with st := .active, pend := some lock0 }; let s := awaitS x false
     s.cell? 0 = some x ∧ x.part = 0 ∧ (s.partOf x.part).await = true ∧ (s.partOf x.part).reproof = false ∧ s.lockDue x = true) ∧
    (let x := { wait0 with pend := some unlock0 }; let s := awaitS x false
     s.cell? 0 = some x ∧ x.part = 0 ∧ (s.partOf x.part).await = true ∧ (s.partOf x.part).reproof = false ∧ s.unlockDue x = true ∧
       (s.cellsOf x.part).any (fun y => s.lockDue y.2) = false ∧
       (s.cellsOf x.part).any (fun y => s.unlockDue y.2 && y.1 < 0) = false ∧ lenOk bank0.columns.length = true ∧
       imgCells bank0 = [] ∧ (s.proof bank0 (s.otherEnergy 0)).isNone = true ∧ lenOk ({ bank0 with columns := [] } : BankImage).columns.length = false) ∧
    (let s := awaitS cell0 true; (s.partOf 0).await = true ∧ (s.partOf 0).reproof = true) := by decide +kernel

/-- SlotMessagesIndicationsAndHarq: an old and a new token; a slot at its lead and one tick before it; an indication of each kind; a
hold at its end and one tick before it. -/
def radioS3 (tick : Int) (tok : Option Nat) (c : Cell) : State :=
  let s := regs [(rSqLog.host, 1, 6), (rCqLog.host, 1, 6), (rSqTail.host, 1, 1), (F.FH_PORT_STAT.link_0, 0, 2)]
  (((s.withCtlNeg true).withRings [(radioRing 0, { Ring.zero with lastTok := tok })]).withCells [(0, c)]).withTime
    { TimeState.zero with tick := s.frameOff + tick }
def onCell : Cell := { cell0 with st := .active }
/-- An SRS PDU of 8 bytes. -/
def srsPdu : List Byte := leBytes 8 (6 + 2 ^ 35) ++ List.replicate 16 0
theorem test_wit_SlotMessages :
    (let s := radioS3 (-8) (some 5) onCell
     let k := radioRing 0
     s.ringOn k = true ∧ 0 < s.sqAvail k ∧ s.ctlNeg = true ∧ s.ctlNegPend = false ∧ s.partOn 0 = true ∧ (s.ring k).lastTok = some 5 ∧
       s.cell? 0 = some onCell ∧ State.cellOn onCell = true ∧ s.slotDist 0 0 0 s.time.tick ≤ (dlLead 0 : Int)) ∧
    (let s := radioS3 (-9) none onCell
     (s.ring (radioRing 0)).lastTok = none ∧ (dlLead 0 : Int) < s.slotDist 0 0 0 s.time.tick ∧
       onCell.msgs.any (fun m => m.sfn == 0 && m.slot == 0) = false) ∧
    (let e := { entry0 with w3 := BitVec.ofNat 64 (24 * 2 ^ 32) }
     Machine.Entry.reservedOk e (2 ^ 29 - 1) full 0 0 0 0 = true ∧ srsPdu.length = bits e.w3.toNat 63 32 ∧
       (parsePdus srsPdu.length srsPdu).isSome = true) := by decide +kernel
theorem test_wit_Indications :
    let m : SlotMsg := ⟨0, 0, 5, srsPdu, [], []⟩
    let x := { onCell with msgs := [m] }
    let s := (radioS3 0 none x).withTime { TimeState.zero with tick := State.reset.frameOff, sec := 0 }
    (s.cell? 0 = some x ∧ State.cellOn x = true ∧ s.indDue 0 0 0 (.prach 0 []) = true ∧ s.indDue 0 0 0 (.srs 0 0 0 []) = true ∧
      s.slotDown x 0 0 = false ∧ x.lostSlots.contains (slotNo 0 0) = false ∧ s.rd F.HOST_IND.ind_base 0 = 0) ∧
    indType (.prach 0 []) = none ∧ x.msg? 0 0 = some m ∧
    (∃ p, indType (.srs 0 0 0 []) = some p.type ∧ m.list[0]? = some p) ∧ m.posted.contains 0 = false := by
  refine ⟨by decide +kernel, by decide +kernel, by decide +kernel, ⟨⟨6, 0, List.replicate 8 0, (0, 0)⟩, by decide +kernel⟩, by decide +kernel⟩
theorem test_wit_HarqHoldExpiry :
    let b : Harq := { Harq.zero with last := 0 }
    let x := { onCell with harq := [(harqKey 65535 31, b)] }
    let s := State.reset.withCells [(0, x)]
    s.cell? 0 = some x ∧ kfind x.harq (harqKey 65535 31) = some b ∧
      (let hold := bits s.planHdr.2.2.1.toNat 17 10 * slotTicks (ceMu x.ent)
       b.last + (hold : Int) ≤ hold ∧ ((hold : Int) - 1 < b.last + (hold : Int))) := by decide +kernel


/-! ## Fronthaul and digital front end -/

/-- Port 0 with its subport 0 up, stream 0 of cell 0 on it, and peer address 9. -/
def fhL : List (Field × Nat × Nat) :=
  [(F.FH_PORT_STAT.link_0, 0, 2), (F.FH_STREAM.valid, 0, 1), (F.FH_PEER.peer_mac, 0, 9), (F.FH_WIN_UL.ta4_min, 0, 100), (F.FH_WIN_UL.ta4_max, 0, 200)]
/-- Four uplink resource blocks. -/
def ulCell : Cell := { onCell with ent := { cellEnt0 with w0 := BitVec.ofNat 64 (2 ^ 50) } }
/-- `n` ns after the first symbol of slot 0 of frame 0 arrives over the air. -/
def fhS (l : List (Field × Nat × Nat)) (c : Cell) (n : Int) (sp : Subport := Subport.zero) : State :=
  let s := ((run (fhL ++ l)).withCells [(0, c)]).withTime { TimeState.zero with tick := State.reset.frameOff }
  let k := (s.air 0 0 0 0 + n).toNat
  ((s.withTime { s.time with sec := k / 1000000000, ns := k % 1000000000 }).withFhBufs
    [{ fhBuf0 with buf := pinnedBase 0, dir := 1, symCnt := 1 }]).withSubports [(0, sp)]
def ulFrame : FhFrame := { fhFrame0 with len := 9000, ethertype := 0xAEFE, rev := 1, srcMac := 9, ebit := true, prbs := [[]] }

/-- FronthaulSendsInsideTheWindow: the last ns of a window; a U-plane frame whose C-plane message has not gone. -/
theorem test_wit_FronthaulSends :
    let s := fhS [] onCell 0
    let f : TxFrame := { txFrame0 with pcp := 7, cplane := true, opens := s.nowNs, closes := s.nowNs }
    let u := (fhS [] onCell 0 { Subport.zero with queues := [f] }).atNs 0
    (u.fhUp 0 0 = true ∧ (heads (u.subport 0 0).queues).find? (u.sendable (u.subport 0 0)) = some f) ∧
    (let u := (fhS [] onCell 0 { Subport.zero with queues := [{ f with cplane := false }] }).atNs 0
     u.fhUp 0 0 = true ∧ (heads (u.subport 0 0).queues).find? (u.sendable (u.subport 0 0)) = none) := by decide +kernel

/-- ReceivedFramesAreSortedByTheFirstMatchingRow: each row, at the frame limit and one byte over it. -/
theorem test_wit_ReceivedFrames_rows :
    let s := fhS [] onCell 0
    s.fhUp 0 0 = true ∧ s.rd F.FH_PORT_CFG.mtu 0 < 9001 ∧ ulFrame.len ≤ s.rd F.FH_PORT_CFG.mtu 0 ∧
    ((0x0800 : BitVec 16) ≠ 0x88F7 ∧ (0x0800 : BitVec 16) ≠ 0x8809 ∧ (0x0800 : BitVec 16) ≠ 0xAEFE) ∧
    ulFrame.ethertype = 0xAEFE ∧ ulFrame.udpPtp = false ∧ ulFrame.rev = 1 ∧ ulFrame.concat = false ∧ ulFrame.msgType = 0 ∧
    (4095 : BitVec 12).toNat ≠ s.rd F.FH_PEER.vlan_id 0 ∧ ulFrame.vid.toNat = s.rd F.FH_PEER.vlan_id 0 ∧
    s.rd F.FH_PEER.peer_mac 0 = ulFrame.srcMac.toNat ∧ s.rd F.FH_PEER.peer_mac 0 ≠ 0 ∧ s.rd F.FH_PEER.peer_mac 0 ≠ (8 : BitVec 48).toNat ∧
    (fhS [(F.FH_PEER.peer_mac, 0, 0)] onCell 0).rd F.FH_PEER.peer_mac 0 = 0 := by decide +kernel
theorem test_wit_ReceivedFrames_streams :
    ((fhS [] onCell 0).atNs 0).streamOf 0 0 0 = some 0 ∧
    (let s := fhS [] cell0 0 { Subport.zero with lastSeq := [(0, 255)] }
     s.cell? (s.rd F.FH_STREAM.cell_id 0) = some cell0 ∧ State.cellOn cell0 = false ∧ kfind (s.subport 0 0).lastSeq 0 = some 255 ∧
       (0 : BitVec 8).toNat = (255 + 1) % 256 ∧ (1 : BitVec 8).toNat ≠ (255 + 1) % 256) := by decide +kernel
theorem test_wit_ReceivedFrames_windows :
    let at_ (n : Int) : Int := ((fhS [] ulCell n).atNs 0).air (ceMu ulCell.ent) 0 0 0
    (State.cellOn ulCell = true ∧ (fhS [] ulCell 0).rd F.FH_STREAM.split8 0 = 0 ∧ (0 : BitVec 9).toNat < cePrbUl ulCell.ent) ∧
    ((((fhS [] ulCell 99).atNs 0).nowNs : Int) < at_ 99 + 100) ∧
    (at_ 201 + 200 < (((fhS [] ulCell 201).atNs 0).nowNs : Int)) ∧
    (let u := (fhS [] ulCell 200 { Subport.zero with seen := [(0, 0, 0, 0)] }).atNs 0
     at_ 200 + 100 ≤ (u.nowNs : Int) ∧ (u.nowNs : Int) ≤ at_ 200 + 200 ∧ (u.openBuf false 0 0 0 0).isSome = true ∧
       (u.subport 0 0).seen.contains (0, slotNo 0 0, symKey false 0, 0) = true) ∧
    ((fhS [] ulCell 200).subport 0 0).seen.contains (0, slotNo 0 0, symKey false 0, 0) = false := by decide +kernel

/-- AClosedUplinkWindowFillsMissingBlocks: the last ns of the window, of a split 7.2 and of a split 8 cell, closed and open. -/
theorem test_wit_ClosedWindow :
    let s := fhS [] ulCell 200
    let c8 : Cell := { onCell with ent := { cellEnt0 with w0 := BitVec.ofNat 64 (2 ^ 26) } }
    (s.rd F.FH_STREAM.valid 0 = 1 ∧ s.cell? (s.rd F.FH_STREAM.cell_id 0) = some ulCell ∧ State.cellOn ulCell = true ∧
      s.air (ceMu ulCell.ent) 0 0 0 + (s.rd F.FH_WIN_UL.ta4_max (s.rd F.FH_STREAM.port 0) : Int) ≤ (s.nowNs : Int) ∧
      s.openBuf false 0 0 0 0 = some { fhBuf0 with buf := pinnedBase 0, dir := 1, symCnt := 1 } ∧ s.openBuf true 0 0 0 0 = none ∧
      (s.subport 0 0).seen.contains (0, slotNo 0 0, symKey false 0, closedPrb) = false ∧ ceSplit ulCell.ent ≠ 2 ∧
      s.rd F.FH_RX_MISS.rx_missing 0 < 2 ^ 32) ∧
    ceSplit c8.ent = 2 ∧ State.cellOn c8 = true ∧
    ((fhS [] ulCell 200 { Subport.zero with seen := [(0, 0, 0, 512)] }).subport 0 0).seen.contains
      (0, slotNo 0 0, symKey false 0, closedPrb) = true := by decide +kernel

/-- LinksPeersAndDelayMeasurement: the last subport of a port; a request at its 10 ms. -/
theorem test_wit_LinksPeers :
    (let s := run [(F.FH_PORT_CFG.split, 7, 2), (F.FH_PORT_STAT.link_3, 7, 1), (F.FH_DM.dm_sub, 7, 3), (F.FH_PEER.learned, 227, 1)]
     s.fhExists 7 3 = true ∧ s.fhLink 7 3 < 2 ∧ s.mayWrite .host F.FH_PEER.peer_mac 227 = false ∧
       (s.put F.RST_STAT.step 3).mayWrite .host F.FH_PEER.peer_mac 227 = true ∧ s.mayWrite .cairn F.FH_DM.dm_start 7 = true ∧
       s.fhExists 7 (s.rd F.FH_DM.dm_sub 7) = true ∧ s.fhUp 7 (s.rd F.FH_DM.dm_sub 7) = false ∧ s.rd F.FH_PEER.learned 227 = 1) ∧
    (let s := run [(F.FH_PORT_CFG.split, 7, 2), (F.FH_PORT_STAT.link_3, 7, 2), (F.FH_DM.dm_sub, 7, 3)]
     s.fhUp 7 3 = true ∧ s.rd F.FH_PEER.learned 227 = 0 ∧ s.fhUp 7 (s.rd F.FH_DM.dm_sub 7) = true) ∧
    (let s := ((run []).withTime { TimeState.zero with sec := 0, ns := 10000000 }).withSubports [(subKey 7 3, { Subport.zero with dmAt := some 0 })]
     (s.subport 7 3).dmAt = some 0 ∧ 0 + 10000000 ≤ s.nowNs ∧ (List.range 3).all (fun j => (s.subport 7 j).dmAt.isNone) = true) := by
  decide +kernel

/-- FrontEndMaskSnapshotAndConfiguration: an emission in bin 1 beside a carrier in bin 0, with and without room; a latched sample at the
ends of its fields; chains of no cell, of a locked cell and of an active one. -/
theorem test_wit_FrontEnd_mask :
    let c (p : List Nat) : Chain := { chain0 with maskDone := [p] }
    let s := (regs [(F.DFE_MASK_INB.inb, 0, 1), (F.DFE_MASK_LIM.lim, 1, 2 ^ 23)]).withChains [(0, c [2, 2]), (63, c [])]
    (s.chain 1).maskDone = [] ∧
    ((s.chain 0).maskDone = [[2, 2]] ∧ bit (s.rd F.DFE_MASK_INB.inb 0) 1 = false ∧
      (s.rd F.DFE_MASK_LIM.lim 1 * 2) * 10233 < 2 * 2 ^ 24 * 10000) ∧
    ((s.chain 63).maskDone = [[]] ∧ ([] : List Nat).getD 255 0 = 0) := by decide +kernel
theorem test_wit_FrontEnd_writes :
    let s := regs [(F.DFE_FREEZE.det_thr, 1, 1)] (regs [(F.RST_STAT.step, 0, 3)])
    (s.mayWrite .host F.DFE_STAT.mask_mute 63 = true ∧ s.mayWrite .host F.DFE_SNAP.snap 63 = true ∧
      s.mayWrite .host F.DFE_SEQ_MEM.word (256 * 63 + 7) = true ∧ s.rd F.DFE_FREEZE.det_thr 63 = 0 ∧ s.rd F.DFE_FREEZE.det_thr 1 ≠ 0 ∧
      s.mayWrite .host F.DFE_SEQ_MEM.word (256 * 1 + 7) = true ∧ s.mayWrite .host F.DFE_SEQ_CFG.seq_len 63 = true) ∧
    (let l := (2 ^ 32 - 1, 2 ^ 16 - 1, 2 ^ 11 - 1, 2 ^ 64 - 1)
     ((s.withChains [(63, { chain0 with latch := some l })]).chain 63).latch = some l ∧ l.1 < 2 ^ 32 ∧ l.2.1 < 2 ^ 16 ∧ l.2.2.1 < 2 ^ 11 ∧
       l.2.2.2 < 2 ^ 64) := by decide +kernel
theorem test_wit_FrontEnd_chains :
    let s (c : Cell) : State := (regs [(F.FH_STREAM.valid, 0, 1), (F.FH_STREAM.split8, 0, 1)]).withCells [(0, c)]
    (s cell0).chainCell 0 = some cell0 ∧ cell0.st = .locked ∧ (s onCell).chainCell 0 = some onCell ∧ onCell.st ≠ .locked ∧
      onCell.st ≠ .autoLocked := by decide +kernel


/-! ## Serving -/

/-- In a Col window of tick `t`, with one sequence in entry 262143. -/
def seqS (q : Seq) (l : List (Field × Nat × Nat) := []) : State :=
  ((run l).withTime { TimeState.zero with edges := true }).withSeqs [(262143, q)]
def noCol (s : State) : State := s.withTime { TimeState.zero with edges := true, ns := 2000 }
def stS (st : SeqState) : Seq := { seq0 with st := st }
def tokD : TokDist := ⟨[(7, 0x3F800000)], 9⟩
def res0 : SeqResult := ⟨262143, [], [], [tokD], [], []⟩

/-- PassesCommitTokensAndLookupsPost: a chunk that leaves one prompt token, the last output token, and lookups done and not done. -/
theorem test_wit_PassesCommit :
    let x : Pass := { pass0 with seqs := [262143], rows := [(262143, 1)], ended := true }
    let pass (q : Seq) : State := ((seqS q).withPasses [x]).withParts [(0, { Part.zero with hold := true })]
    let a := { stS .prefill with promptLen := 2 }
    let b := { stS .decode with maxNew := 1 }
    (let s := pass a
     s.inCol = true ∧ (s.partOf 0).hold = true ∧ (s.passes.find? fun y => y.id == x.id && y.part == 0 && y.ended) = some x ∧ x.cow = [] ∧
       s.seq? 262143 = some a ∧ a.branch = 0 ∧ a.beamW ≤ 1 ∧ res0.idx = 262143 ∧ s.seqs.all (fun y => y.2.branch == 0) = true ∧
       kfind s.cmds a.cmd = none ∧ a.st = .prefill ∧ a.len + a.advance 1 < a.promptLen) ∧
    ((pass b).seq? 262143 = some b ∧ b.st = .decode ∧ b.promptLen ≤ b.len ∧ b.nOut < b.maxNew ∧ res0.mains = [tokD]) ∧
    ((noCol (seqS a)).inCol = false ∧ ((seqS a).partOf 0).hold = false) ∧
    (let q := { stS .admitted with promptLen := 1 }
     let s := seqS q [(F.KV_CTRL.tree_en, 0, 0)]
     s.seq? 262143 = some q ∧ q.lookupDone = false ∧ q.held = false ∧ q.needFork = 0 ∧ s.rd F.KV_CTRL.tree_en = 0 ∧
       s.cqFree (seqRing q) = false) := by decide +kernel

/-- SpillsWaitsMovesAndRoles. -/
def pageE (f : Nat) : PageEnt := ⟨f, 0, false, 0⟩
theorem test_wit_Spills :
    let x : Spill := { spill0 with seq := some 262143, old := [pageE 1], new := [pageE 2] }
    (let s := (seqS { stS .decode with pages := [pageE 1] }).withSpills [x]
     s.spills[0]? = some x ∧ s.inCol = true ∧ s.spillLive x = true ∧ x.old = [pageE 1] ∧ x.new = [pageE 2] ∧ s.spills[1]? = none ∧
       (s.nodes.any fun y => y.2.frames.any fun e => !e.remote && e.frame == 1) = false) ∧
    ((seqS (stS .decode)).withSpills [x]).spillLive x = false ∧ (noCol (seqS (stS .decode))).inCol = false := by decide +kernel
theorem test_wit_Waits :
    let q := { stS .pageWait with wait := 64 }
    (let s := seqS q
     s.seq? 262143 = some q ∧ s.rd F.KV_CTRL.pg_wait_lim ≤ q.wait ∧ q.part < 8 ∧ q.slice < 4096 ∧ q.ring < 16) ∧
    (let q := { stS .moving with wait := 63 }; q.moveTo = none ∧ q.wait < (seqS q).rd F.KV_CTRL.pg_wait_lim) ∧
    (let q := { stS .decode with len := 256, pages := [pageE 1], peerSpill := true }
     let s := (seqS q).withCachePeers [65535]
     s.seq? 262143 = some q ∧ s.cachePeers.contains 65535 = true ∧ ((kfind s.models q.model).map (·.lgCount)).getD 1 = 1 ∧ localFull q 1 = some 0 ∧ q.pages[0]? = some (pageE 1)) := by
  decide +kernel
theorem test_wit_Moves :
    let q := { stS .moving with moveTo := some (1, [pageE 2]) }
    let s := seqS q
    s.seq? 262143 = some q ∧ q.moveTo = some (1, [pageE 2]) ∧ q.cancelPend = false ∧ s.moveRuns q.part 1 = true ∧ q.freezeReq = none ∧
      ({ q with freezeReq := some (2, St.ok) } : Seq).freezeReq = some (2, St.ok) := by decide +kernel
theorem test_wit_Roles :
    let en : List (Field × Nat × Nat) := (span 0 8).map fun p => (F.SRV_PART.role, p, 3)
    let s := (seqS (stS .frozen) en).withCoord (some 7)
    (s.inCol = true ∧ s.partOn 7 = true ∧ s.coordUp = true ∧ s.serves 7 = true ∧ s.rolesOk 7 0 = true ∧ s.rd F.SRV_PART.role 7 ≠ 0 ∧
      (s.seqsOf 7).all (fun x => roleServes 0 x.2) = true) ∧
    ((seqS { stS .decode with part := 7 } en).seqsOf 7).all (fun x => roleServes 0 x.2) = false ∧ (noCol s).inCol = false ∧
    (noCol s).coordUp = true := by decide +kernel

/-- CancellationFreezeAndEnd: each state that may freeze, an ending sequence alone and with a sibling. -/
theorem test_wit_Cancellation :
    (let q := { stS .decode with cancelPend := true }; (seqS q).inCol = true ∧ (seqS q).seq? 262143 = some q ∧ (seqS q).passDue 262143 = false) ∧
    (((seqS (stS .decode)).withPasses [{ pass0 with seqs := [262143], ended := true }]).passDue 262143 = true) ∧
    ([SeqState.admitted, .prefill, .decode, .pageWait, .moving].all fun st =>
      (seqS { stS st with freezeReq := some (2, St.ok) }).seq? 262143 == some { stS st with freezeReq := some (2, St.ok) }) = true ∧
    (let q := { stS .moving with freezeReq := some (1, St.ok), moveTo := some (1, []) }
     (seqS q).seq? 262143 = some q ∧ q.freezeReq = some (1, St.ok) ∧ q.moveTo.isSome = true) ∧
    (let q := stS .ending
     let s := (seqS q).withCmds [(0, cmd0)]
     s.seq? 262143 = some q ∧ q.held = false ∧ s.siblings q.cmd 262143 = false ∧
       (s.withSeqs [(0, stS .decode), (262143, q)]).siblings q.cmd 262143 = true ∧ kfind s.cmds q.cmd = some cmd0) := by decide +kernel

/-- ADeadScopeGetsANewKey: a slice's key with and without frames, emptied and not. -/
theorem test_wit_DeadScope :
    (let s := ((run []).withScopesDead [4095]).withSec { SecState.zero with bootKey := true }
     s.scopesDead.contains 4095 = true ∧ s.frames = [] ∧ s.procUp cairn = true ∧ s.sec.bootKey = true ∧ (s.slice 4095).emptyKeys = false ∧
       ((s.withSlices [(4095, { Slice.zero with emptyKeys := true })]).slice 4095).emptyKeys = true) ∧
    (let f := { Frame.zero with alloc := true, key := 4095 }
     ((State.reset.withFrames [(0, f)]).frames.any fun x => x.2.alloc && x.2.key == 4095) = true) := by decide +kernel

/-- EnergyIntervalsAndTheLimiter: one watt over the limit, at the hysteresis and one watt below it, one step over the temperature limit. -/
theorem test_wit_Energy :
    let s := run []
    let lim := min (s.rd F.MGT_LIM.p_lim) (max 500 (min 3000 (s.rd F.MGT_LIM.p_lim_host)))
    (s.procUp cairn = true ∧ State.reset.procUp cairn = false ∧ s.rd F.MGT_THR.share ≤ 1024 ∧ lim < lim + 1 ∧ s.hottest = none ∧
      (lim - s.rd F.MGT_LIM.p_hyst) + s.rd F.MGT_LIM.p_hyst ≤ lim ∧ lim - s.rd F.MGT_LIM.p_hyst - 1 + s.rd F.MGT_LIM.p_hyst < lim) ∧
    (let t := 8 * min 105 (s.rd F.MGT_LIM.t_thr)
     let u := run [(F.MGT_TEMP.valid, 209, 1), (F.MGT_TEMP.temp, 209, t + 1)]
     u.hottest = some (209, ((t + 1 : Nat) : Int)) ∧ (8 * (min 105 (u.rd F.MGT_LIM.t_thr) : Nat) : Int) < (t + 1 : Nat)) ∧
    (let x : EnergySample := ⟨0, 10, 10, [], 1, 0⟩; x.slices = [] ∧ x.radio + x.device ≠ 0 ∧ x.idle ≤ x.energy) := by decide +kernel

/-- DeltaVersionsAndSnapshots: a version one tick after it was written, without pins in each state that frees it, and freed. -/
theorem test_wit_Deltas :
    let d (st : VState) : Delta := { delta0 with st := st, since := -1 }
    let s (st : VState) : State := (seqS seq0).withDeltas [(65535, d st)]
    (s .loading).inCol = true ∧ kfind (s .loading).deltas 65535 = some (d .loading) ∧ (d .loading).since ≠ (s .loading).time.tick ∧
    (d .loading).loadCmd = none ∧ (d .superseded).pins = 0 ∧ (d .retiring).pins = 0 ∧
    kfind (s .freeing).deltas 65535 = some (d .freeing) ∧ ((s .freeing).nodes.any fun n => n.2.dkey == 65536) = false ∧
    (s .active).mayWrite .cairn F.SRV_ACCT_SEL.snap 0 = true ∧ (s .active).mayWrite .cairn F.KV_MSEL.snap 0 = true := by decide +kernel


/-! ## Fabric -/

/-- Node 1 with member 2; link 35 in state `st`, and the route to node 2 over it. -/
def fabS (st : Nat) (x : Link := Link.zero) (l : List (Field × Nat × Nat) := []) : State :=
  ((((run ([(F.FAB_LINK_STAT.state, 35, st), (F.FAB_CTRL.node_id, 0, 1), (F.FAB_CTRL.joined, 0, 1)] ++ l)).withLinks [(35, x)]).withMembers [1, 2]).withRoutes
    [(2, { cands := [35], hops := 1, act := [], waitFor := [] })]).withTime { TimeState.zero with sec := 0, ns := 0 }
def atT (n : Nat) (s : State) : State := s.withTime { s.time with sec := n / 1000000000, ns := n % 1000000000 }

/-- LinksTrainAuthenticateAndRetrain: widths of four, two and no lanes; the timers at their instant and one ns before it. -/
theorem test_wit_Links :
    ((fabS lkTraining).lk 35 = lkTraining ∧ ((fabS lkTraining).link 35).retrain = false) ∧
    ((lanesOf 0x1F).1 = 2 ∧ (lanesOf 0x11).1 = 1 ∧ (lanesOf 1).1 = 0) ∧
    (let s := atT 10000000000 (fabS lkDown)
     s.lk 35 = lkDown ∧ s.procUp fc = true ∧ (s.link 35).since + 10000000000 ≤ s.nowNs ∧
       (atT 9999999999 s).nowNs < (s.link 35).since + 10000000000) ∧
    ((fabS lkActive).lk 35 = lkActive ∧ lkDown ≠ lkTrained ∧ lkDown ≠ lkActive) ∧
    ((fabS lkTraining { Link.zero with retrain := true }).link 35).retrain = true ∧
    (let x := (fabS lkTraining { Link.zero with retrain := true, auth := true }).link 35; x.retrain = true ∧ x.auth = true ∧ x.queue = []) ∧
    (let s := atT 100000000 (fabS lkTrained)
     s.lk 35 = lkTrained ∧ s.rd F.FAB_CTRL.joined = 1 ∧ s.procUp fc = true ∧ s.members.contains 2 = true ∧ s.members.contains 3 = false ∧
       (s.link 35).since + 100000000 ≤ s.nowNs ∧ (atT 99999999 s).nowNs < (s.link 35).since + 100000000) := by decide +kernel

/-- FlitsAreTakenInOrder: the expected flit and the next one, after and before a NAK; the 15th and the 16th failing tag of a second. -/
theorem test_wit_FlitsTaken :
    let x := { Link.zero with rxNext := 2 ^ 40 - 1, nakSent := true, tagFails := List.replicate 15 0 }
    let s := fabS lkActive x
    (s.linkActive 35 = true ∧ (s.link 35).queue = [] ∧ (2 ^ 40 - 1 : BitVec 40).toNat = (s.link 35).rxNext ∧
      (0 : BitVec 40).toNat ≠ (s.link 35).rxNext ∧ (s.link 35).nakSent = true ∧ (s.link 35).owe = [] ∧ ((fabS lkActive).link 35).nakSent = false ∧
      ((s.link 35).tagFails.filter fun t => s.nowNs < t + 1000000000).length = 15 ∧
      (((fabS lkActive).link 35).tagFails.filter fun t => s.nowNs < t + 1000000000).length < 15) := by decide +kernel

/-- FlitsAreReplayedAndRekeyed: an inactive link; the timer at twice the round trip and before it; the 16th resend. -/
theorem test_wit_FlitsReplayed :
    let x := { Link.zero with replay := [(1, 0, 1)], rtt := 50, resends := 15 }
    let s := atT 100 (fabS lkActive x)
    ((fabS lkDown).linkActive 35 = false ∧ s.linkActive 35 = true ∧ ((fabS lkActive).link 35).replay = [] ∧
      (s.link 35).replay = [(1, 0, 1)] ∧ (s.link 35).resends < 16 ∧ (s.link 35).ackAt + 2 * (s.link 35).rtt ≤ s.nowNs ∧
      (atT 99 s).nowNs < (s.link 35).ackAt + 2 * (s.link 35).rtt ∧ 16 ≤ ({ x with resends := 16 } : Link).resends ∧
      acked (1 : BitVec 40).toNat 1 = true ∧ acked (0 : BitVec 40).toNat 1 = false ∧ 2 ^ 40 ≤ ({ x with flits := 2 ^ 40 } : Link).flits ∧
      (s.link 35).flits < 2 ^ 40) := by decide +kernel

/-- RequestRecordsArePerformedOnceAndAnswered: records refused, forwarded, and of this node: without a window, above, below and inside one. -/
def rec0 : Record := { record0 with srcNode := 2, dstNode := 1 }
theorem test_wit_Requests :
    let w : Dedup := { tMax := 5, recs := [⟨5, St.ok, 0, true⟩] }
    let s := (fabS lkActive).withWindows [(2, w)]
    (s.linkActive 35 = true ∧ rec0.bad = false ∧ rec0.hop ≠ 15 ∧ s.members.contains 2 = true ∧ s.members.contains 3 = false ∧ s.ownNode = 1) ∧
    (s.candLinks 3 = [] ∧ ({ rec0 with dstNode := 3 } : Record).dstNode.toNat ≠ s.ownNode ∧ s.candLinks 2 = [35]) ∧
    (kfind (fabS lkActive).windows 2 = none ∧ (fabS lkActive).windows.length ≤ 0) ∧
    (kfind s.windows 2 = some w ∧ 0 < toSigned 32 ((6 + 2 ^ 32 - w.tMax) % 2 ^ 32) ∧
      toSigned 32 ((5 + 2 ^ 32 - 4096 + 2 ^ 32 - w.tMax) % 2 ^ 32) ≤ -4096 ∧
      -4096 < toSigned 32 ((5 + 2 ^ 32 - 4095 + 2 ^ 32 - w.tMax) % 2 ^ 32) ∧
      (w.recs.find? fun x => x.tid == 4) = none ∧ (w.recs.find? fun x => x.tid == 5) = some ⟨5, St.ok, 0, true⟩) := by decide +kernel
/-- A record of another node is sent on when a link leads there. -/
theorem test_wit_Requests_forward : ((fabS lkActive).sendRecord 0 { rec0 with dstNode := 2, hop := 1 }).isSome = true := by
  have h : (fabS lkActive).candLinks 2 = [35] := by decide +kernel
  have h' : (fabS lkActive).linkActive 35 = true := by decide +kernel
  simp [State.sendRecord, h, h', Nat.mod_one]
/-- The source's first request while no window is left, whatever room the reserved region has. -/
theorem test_wit_Requests_room : ∃ s : State, s.linkActive 35 = true ∧ kfind s.windows 2 = none ∧ Config.windowRoom < s.windows.length := by
  refine ⟨(fabS lkActive).withWindows (List.replicate (Config.windowRoom + 1) (3, { tMax := 0, recs := [] })), by decide +kernel, ?_, ?_⟩
  · show kfind (List.replicate _ _) 2 = none
    generalize Config.windowRoom + 1 = n
    induction n with
    | zero => rfl
    | succ n ih => simpa [List.replicate_succ, kfind] using ih
  · show _ < (List.replicate _ _).length
    simp

/-- TargetOperationsFollowTheirChecks: a good and an unmapped address. -/
theorem test_wit_TargetOps :
    (let s := tickS [] []; s.fabStatus (sram + 8) 8 0 true = St.ok ∧ s.fabStatus 0xFFFFFFFFF000 8 0 true ≠ St.ok) ∧
    (2 ^ 64 - 1 < 2 ^ (8 * 8) ∧ (leBytes 8 5).length = 8) := by decide +kernel

/-- ResponsesEndTheirRequests: an answer with and without a request, within 60 s of the peer's last traffic and after it, and one of a
shard move's messages. -/
theorem test_wit_Responses :
    let q : FabReq := { fabReq0 with dst := 2, tid := 5, op := 6 }
    let r := { rec0 with tid := 5 }
    let s := ((fabS lkActive).withFabReqs [q]).withMove (some ⟨3, 1, true, [(2, 5)], []⟩)
    (s.linkActive 35 = true ∧ r.bad = false ∧ r.hop ≠ 15 ∧ s.members.contains 2 = true ∧ r.dstNode.toNat = s.ownNode ∧
      (s.fabReqs.find? fun x => x.dst == 2 && x.tid == 5 && responseOp x.op == 11) = some q ∧ (fabS lkActive).fabReqs = [] ∧
      s.nowNs ≤ (s.peer 2).seen + 60000000000 ∧ (s.peer 2).seen + 60000000000 < (atT 60000000001 s).nowNs ∧
      St.busy ≠ St.ok ∧ s.move = some ⟨3, 1, true, [(2, 5)], []⟩ ∧ ([(2, 5)] : List (Nat × Nat)).contains (2, q.tid) = true) := by decide +kernel

/-- TimersAndFailedMembersEndRequests: the timer's last ns, with and without a route, at the last try and before it; a member's mark at
the same instants. -/
theorem test_wit_E2e :
    let q : FabReq := { fabReq0 with dst := 2, tid := 5, tries := 3 }
    let s0 := (fabS lkActive).withFabReqs [q]
    let s := atT s0.e2eNs s0
    ((s.fabReqs.find? fun q => q.dst == 2 && q.tid == 5) = some q ∧ (fabS lkActive).fabReqs = [] ∧
      ((s.reqsTo 2).find? fun (x : FabReq) => decide (x.since + s.e2eNs ≤ s.nowNs)).map (fun (x : FabReq) => x.tid) = some 5 ∧
      ((s0.reqsTo 2).find? fun (x : FabReq) => decide (x.since + s0.e2eNs ≤ s0.nowNs)) = none ∧
      q.dst ≠ s.ownNode ∧ s.candLinks 2 ≠ [] ∧ ((fabS lkDown).candLinks 2 = []) ∧ s.e2eTries ≤ q.tries ∧ 2 < s.e2eTries) ∧
    (let p : Peer := { peer0 with lost := some 0 }
     let u := s.withPeers [(2, p)]
     (u.peer 2).lost = some 0 ∧ 0 + u.e2eNs ≤ u.nowNs ∧ (atT (s.e2eNs - 1) u).nowNs < 0 + u.e2eNs ∧ (u.peer 2).failed = false ∧
       (s.peer 2).lost = none) := by decide +kernel

/-- CollectivesEndWithTheirResult: a ring of two with both parts, and one of which the other member has left. -/
theorem test_wit_Collectives :
    ((1 : BitVec 16).toNat = (fabS lkActive).ownNode ∧ (2 : BitVec 16) ≠ 1 ∧
      (regs [(F.FAB_STRAG.strag_thr_us, 0, 0)]).rd F.FAB_STRAG.strag_thr_us = 0 ∧ ((fabS lkActive).withMembers [1]).members.contains 2 = false) ∧
    ((fabS lkActive).ownNode ∉ ([3] : List (BitVec 16)).map BitVec.toNat ∧ (fabS lkActive).members.contains 2 = true ∧
      ((fabS lkActive).peer 2).failed = false) := by decide +kernel

/-- PeerSnapshotsAndShardMoves: a copy round one frame short of the limit and at it; the last acknowledgement and a missing one. -/
theorem test_wit_ShardMoves :
    let s := (((fabS lkActive).withSpares [3]).withCoord (some 0)).withTime { TimeState.zero with edges := true }
    (s.mayWrite .cairn F.FAB_PEER_SEL.node 0 = true ∧ s.inCol = true ∧ s.spares = [3] ∧ s.move = none ∧ s.rd F.FAB_CTRL.joined = 1 ∧
      s.coordUp = true ∧ 15 < s.models.foldl (fun a m => max a m.2.lgCount) 1 * 16 ∧ s.models.foldl (fun a m => max a m.2.lgCount) 1 * 16 ≤ 16 ∧
      (noCol s).inCol = false) ∧
    (let u := s.withMove (some ⟨3, 1, true, [], [2]⟩)
     u.move = some ⟨3, 1, true, [], [2]⟩ ∧ u.coordUp = true ∧ u.others = [2] ∧ 2 ∉ ([] : List Nat)) := by decide +kernel


/-! ## Host interface -/

/-- A Ready device whose control ring has one entry to read. -/
def ctlS (l : List (Field × Nat × Nat) := []) : State :=
  (run ([(F.HOST_RING_CFG.sq_log2, 0, 4), (F.HOST_RING_CFG.cq_log2, 0, 4), (F.RST_STAT.ready, 0, 1), (F.HOST_RING_SQ_TAIL.sq_tail, 0, 1)] ++ l)).withCtlNeg true
/-- A Ready device whose slice 0 is active and has one entry to read on ring 0. -/
def sliS (l : List (Field × Nat × Nat) := []) (x : Slice := Slice.zero) : State :=
  (run ([(F.HOST_S_RING_CFG.sq_log2, 0, 4), (F.HOST_S_RING_CFG.cq_log2, 0, 4), (F.RST_STAT.ready, 0, 1), (F.HOST_S_RING_SQ_TAIL.sq_tail, 0, 1),
    (F.HOST_SLICE.state, 0, 1)] ++ l)).withSlices [(0, { x with negotiated := true })]
theorem canRead_of {s : State} {k : Nat} {x : SubEntry}
    (h : s.offered k = true ∧ (s.ring k).fifo = [] ∧ s.readable k = true ∧ (s.ring k).lastTok = none) : CanRead s k x :=
  ⟨h.1, h.2.1, h.2.2.1, fun _ e => by simp [h.2.2.2] at e⟩

/-- DoorbellsRingSizesAndInterrupts: a window that does not show the ring, a function that sees no control ring; each ring open, at the
last tail and the first too far, with and without commands, sizes allowed and not. -/
theorem test_wit_Doorbells :
    (ringNo (.slice 0 0) < ctlRing ∧ State.reset.winMiss 0 0 = true ∧ sliS.winMiss 0 0 = false ∧ sliS.winMiss 0 1 = true) ∧
    (ctlRing ≤ ringNo .control ∧ ctlRing ≤ ringNo (.radio 7) ∧ State.reset.ringOn ctlRing = false ∧ ctlS.ringOn ctlRing = true) ∧
    (2 ^ ctlS.ringRd rSqLog ctlRing < ((17 : BitVec 32).toNat + 2 ^ 32 - ctlS.ringRd rSqHead ctlRing) % 2 ^ 32 ∧
      ((16 : BitVec 32).toNat + 2 ^ 32 - ctlS.ringRd rSqHead ctlRing) % 2 ^ 32 ≤ 2 ^ ctlS.ringRd rSqLog ctlRing) ∧
    (ctlS.cqUsed ctlRing < ((1 : BitVec 32).toNat + 2 ^ 32 - ctlS.ringRd rCqHead ctlRing) % 2 ^ 32 ∧
      ((0 : BitVec 32).toNat + 2 ^ 32 - ctlS.ringRd rCqHead ctlRing) % 2 ^ 32 ≤ ctlS.cqUsed ctlRing) ∧
    (ctlS.sqAvail ctlRing ≠ 0 ∧ State.reset.sqAvail ctlRing = 0 ∧ State.reset.ringRd rOutst ctlRing = 0) ∧
    (ringCfgOk 5 4 = false ∧ ringCfgOk 4 4 = true ∧ ringCfgOk 10 11 = true ∧ State.reset.ringRd rSqLog ctlRing ≠ 4) := by decide +kernel

/-- NoticesAndCoalescedInterrupts: a notice with room and without it; the timer at its instant and one ns before it. -/
theorem test_wit_Notices :
    (let s := ctlS.withRings [(ctlRing, { Ring.zero with notices := [cq0] })]
     (s.ring ctlRing).notices = [cq0] ∧ s.cqFree ctlRing = true ∧ s.ringRd rCqLog ctlRing ≠ 0) ∧
    (ctlS [(F.HOST_RING_CQ_TAIL.cq_tail, 0, 16)]).cqFree ctlRing = false ∧ (ctlS.ring ctlRing).notices = [] ∧ ctlS.events = [] ∧
    (ctlS.ring ctlRing).unsigSince = none ∧
    (let s := atT 1000 ((ctlS [(F.HOST_RING_CFG.coal_us, 0, 1)]).withRings [(ctlRing, { Ring.zero with unsig := 1, unsigSince := some 0 })])
     (s.ring ctlRing).unsig ≠ 0 ∧ s.ringRd rCoalUs ctlRing ≠ 0 ∧ 0 + s.ringRd rCoalUs ctlRing * 1000 ≤ s.nowNs ∧ (s.ringVector ctlRing).2 < 64) ∧
    (let s := (ctlS [(F.HOST_RING_CFG.coal_us, 0, 125)]).withTime { TimeState.zero with edges := true, sec := 0 }
     s.time.edges = true ∧ (s.nowNs / 125000 + 1) * 125000 ≤ 0 + s.ringRd rCoalUs ctlRing * 1000) := by decide +kernel

/-- NegotiationAgreesAVersionAndFeatures: nothing and something outstanding, equal and other majors. -/
theorem test_wit_Negotiation :
    State.reset.partyOutst ctlRing = 0 ∧ (ctlS [(F.HOST_RING_STAT.ring_outst, 8, 1)]).partyOutst ctlRing ≠ 0 ∧
      (BitVec.ofNat 8 (State.reset.rd F.HOST_VER.dev_major)).toNat = State.reset.rd F.HOST_VER.dev_major ∧
      (0xFF : BitVec 8).toNat ≠ State.reset.rd F.HOST_VER.dev_major ∧ State.reset.winMiss 4095 0 = true ∧ sliS.winMiss 0 0 = false ∧
      sliS.partyOutst 0 = 0 ∧ (BitVec.ofNat 8 (sliS.rd F.HOST_S_VER.dev_major)).toNat = sliS.rd F.HOST_S_VER.dev_major := by decide +kernel

/-- A time with edges, `n` ns after zero. -/
def edgeT (n : Nat) (s : State) : State := s.withTime { TimeState.zero with edges := true, sec := n / 1000000000, ns := n % 1000000000 }

/-- HeartbeatsAttachmentAndGrace: the limit and the first boundary after it; both graces; the fabric's limit; an attachment blocked, with a
wrong and with the right cookie; the last instant of the grace. -/
theorem test_wit_Heartbeats :
    (let s := edgeT 100000000 (sliS [(F.HOST_SLICE.hb_to_ms, 0, 100), (F.HOST_SLICE.grace_s, 0, 0)])
     s.winMiss 0 0 = false ∧ s.sliceState 0 = active ∧ s.inCol = true ∧ s.hbLimit 0 ≠ 0 ∧ s.nowNs ≤ (s.slice 0).hbLast + s.hbLimit 0 * 1000000 ∧
       (s.slice 0).hbLast + s.hbLimit 0 * 1000000 < (edgeT 100125000 s).nowNs ∧ (edgeT 100125000 s).inCol = true ∧ (edgeT 100002000 s).inCol = false ∧
       s.rd F.HOST_SLICE.grace_s 0 = 0 ∧ (sliS [(F.HOST_SLICE.grace_s, 0, 1)]).rd F.HOST_SLICE.grace_s 0 ≠ 0) ∧
    (let s := edgeT 100000001 ((ctlS [(F.HOST_CTL_HB.ctl_hb_to_ms, 0, 100)]).withCtlHb (some 0))
     s.ctlHb = some 0 ∧ s.rd F.HOST_CTL_HB.ctl_hb_to_ms ≠ 0 ∧ 0 + s.rd F.HOST_CTL_HB.ctl_hb_to_ms * 1000000 < s.nowNs ∧
       (ctlS [(F.HOST_CTL_HB.ctl_hb_to_ms, 0, 0)]).rd F.HOST_CTL_HB.ctl_hb_to_ms = 0) ∧
    (let s := edgeT 1000000000 (sliS [(F.HOST_SLICE.grace_s, 0, 1), (F.HOST_SLICE.state, 0, detached), (F.HOST_S_COOKIE.cookie, 0, 5)]
        { Slice.zero with cookie := 5, blockedUntil := 1000000000 })
     s.winMiss 0 0 = false ∧ s.sliceState 0 = detached ∧ s.nowNs ≤ (s.slice 0).detachedAt + s.rd F.HOST_SLICE.grace_s 0 * 1000000000 ∧
       (s.slice 0).blockedUntil ≤ s.nowNs ∧ (edgeT 999999999 s).nowNs < (s.slice 0).blockedUntil ∧ s.rd F.HOST_S_COOKIE.cookie 0 = (s.slice 0).cookie ∧
       s.rd F.HOST_S_COOKIE.cookie 0 ≠ (Slice.zero).cookie ∧ (s.slice 0).detachedAt + s.rd F.HOST_SLICE.grace_s 0 * 1000000000 ≤ s.nowNs) ∧
    State.reset.sliceState 4095 ≠ detached := by decide +kernel

/-- AScrubClearsASlice: a slice that scrubs, with a sequence left and with nothing left. -/
theorem test_wit_AScrub :
    (let s := sliS [(F.HOST_SLICE.state, 0, scrubbing)]
     s.sliceState 0 = scrubbing ∧ (let q := { seq0 with st := .decode }
         (s.withSeqs [(0, q)]).seq? 0 = some q ∧ q.slice = 0 ∧ q.held = false ∧ q.st ≠ .ending) ∧
       (s.seqsOfSlice 0).isEmpty = true ∧ (∀ f ∈ s.frames, f.2.alloc = true → f.2.key ≠ 0) ∧ s.procUp cairn = true ∧
       (∀ x ∈ s.nodes, x.2.part < 8) ∧ (∀ f ∈ s.frames, f.2.owner < 4096)) ∧ State.reset.sliceState 0 ≠ scrubbing := by decide +kernel

/-- RegisterWritesFollowTheAccessCodes: before and after start-up step 3, each value of the bit that clears, a partition with and
without an active cell, a window of another function and of no slice. -/
theorem test_wit_RegisterWrites :
    State.reset.rd F.RST_STAT.step < 3 ∧ 3 ≤ (regs [(F.RST_STAT.step, 0, 3)]).rd F.RST_STAT.step ∧ bit (0x2000 : Word).toNat 13 = true ∧
      bit (0 : Word).toNat 13 = false ∧ (State.reset.withCells [(0, { cell0 with st := .active })]).partActive 0 = true ∧
      State.reset.partActive 0 = false ∧ State.reset.sliceState 4095 = unbound ∧
      (regs [(F.HOST_SLICE.function, 1, 1)]).rd F.HOST_SLICE.function 0 ≠ (regs [(F.HOST_SLICE.function, 1, 1)]).rd F.HOST_SLICE.function 1 := by
  decide +kernel

/-- EveryRegisterWriteActsFieldByField: a write by the host and one through a slice window; fields of each access code; one that the writer
may not write. -/
theorem test_wit_EveryRegisterWrite :
    let s := sliS [(F.RST_STAT.step, 0, 3)]
    (0xA00010 ≠ F.TIME_PORT.ptp_port.base ∧ ((s.regHits 0xA00010 5).map fun h => (h.1.acc, h.1.wide, s.mayWrite .host h.1 h.2.1)) =
      [(.rw, false, true), (.rw, false, true)]) ∧
    (((s.regHits 0x100000130 5).map fun h => (h.1.acc, s.mayWrite (.slice 0) h.1 h.2.1)) =
      [(.w1c, true), (.w1c, true), (.w1c, true), (.ro, false), (.ro, false)] ∧ windowSlice 0x100000130 = some 0 ∧ s.sliceState 0 ≠ unbound) := by decide +kernel



/-- An entry with token 1 and a word 2. -/
def ent (w2 : Nat) : Entry := { entry0 with token := 1, w2 := BitVec.ofNat 64 w2 }
/-- The state in which command `opc` of slice 0, with word 2 `w2`, is executed. -/
def tkS (opc w2 : Nat) (s : State) : State := taken s 0 (sliceEnt opc (ent w2))
def featS (n : Nat) : State := sliS [(F.HOST_S_FEAT_AGREED.feat_ok, 0, 2 ^ n)]

/-- Host memory fails from `a` to `b`. -/
def badHost (a b : Nat) (s : State) : State := { s with hostBad := [(a, b)] }

/-- RingCommandsAreReadInOrderAndOnce: an entry offered and none, one behind another, one to be read, a token that is live, in the window
and nowhere. -/
theorem test_wit_RingCommands :
    (State.reset.offered 0 = false ∧ (sliS.withRings [(0, { Ring.zero with fifo := [sliceEnt 1 entry0] })] |>.ring 0).fifo ≠ [] ∧
      (sliS [(F.HOST_S_RING_SQ_TAIL.sq_tail, 0, 2)] |>.withRings [(0, { Ring.zero with fifo := [sliceEnt 1 entry0] })] |>.offered 0) = true) ∧
    ((regs [(F.RST_STAT.ready, 0, 0)] sliS).readable 0 = false ∧ ({ entry0 with rsv := 1 } : Entry).rsv ≠ 0) ∧
    (let s := sliS.withRings [(0, { Ring.zero with lastTok := some 1, live := [(1, 1)] })]
     s.offered 0 = true ∧ (s.ring 0).fifo = [] ∧ s.readable 0 = true ∧ (ent 0).token.toNat ≤ 1 ∧ (s.ring 0).live.any (fun y => y.1 == 1) = true ∧
       (s.ring 0).live.any (fun y => y.1 == 0) = false ∧ ((s.slice 0).window.find? fun w => w.1 == 0 && w.2.token == 0) = none) ∧
    ((((sliS [] { Slice.zero with window := [(0, cq0)] }).slice 0).window.find? fun w => w.1 == 0 && w.2.token == 0) = some (0, cq0)) := by
  decide +kernel
theorem test_wit_RingCommands_read (opc w2 : Nat) : CanRead sliS 0 (sliceEnt opc (ent w2)) ∧ CanRead ctlS ctlRing (ctlEnt opc (ent w2)) :=
  ⟨canRead_of (by decide +kernel), canRead_of (by decide +kernel)⟩

/-- SliceCommandsActAndComplete: a handle that names no sequence and one that does; with the feature and without; each frozen state; host
memory that answers and that fails. -/
theorem test_wit_SliceCommands :
    (∀ w2 ∈ [0, 2 ^ 32], Machine.Entry.reservedOk (ent w2) (2 ^ 33 - 1) 0 0 0 0 0 = true ∧ (tkS 2 w2 sliS).byHandle 0 0 = none) ∧
    (let q := { seq0 with st := .decode }
     (tkS 2 0 (sliS.withSeqs [(0, q)])).byHandle 0 0 = some (0, q) ∧ q.st ≠ .frozen) ∧
    ((tkS 4 0 sliS).feature 0 4 = false ∧ (tkS 4 0 (featS 4)).feature 0 4 = true ∧ bit (ent 0).w2.toNat 32 = false ∧
      bit (ent (2 ^ 32)).w2.toNat 32 = true) ∧
    (∀ c ∈ [6, 7], let q := { seq0 with st := .frozen, frzCause := c }
     (tkS 4 0 (sliS.withSeqs [(0, q)])).byHandle 0 0 = some (0, q)) ∧
    (((tkS 5 0 sliS).hostWr 0 [0] 0).isSome = true ∧ ((tkS 5 0 (badHost 0 (2 ^ 64) sliS)).hostWr 0 [0] 0).isSome = false) ∧
    (Machine.Entry.reservedOk (ent 63) 63 (2 ^ 64 - 1) (2 ^ 64 - 1) (2 ^ 64 - 1) (2 ^ 64 - 1) 0 = true ∧
      Machine.Entry.reservedOk (ent (2 ^ 64 - 1)) (2 ^ 64 - 1) 0 0 0 0 0 = true) ∧
    (∀ y ∈ (sliS.ring 0).live, y.1 ≠ (ent 0).token.toNat) := by decide +kernel

/-- A slice with a region over the first 4 KiB of DRAM of nodes 0 and 1. -/
def copyS (l : List (Field × Nat × Nat) := []) : State :=
  (sliS ([(F.MEM_MAP.cap_gib, 0, 40), (F.HOST_S_FEAT_AGREED.feat_ok, 0, 2 ^ 9)] ++ l)
    { Slice.zero with regions := [(0, { region0 with nodeHi := 1, limit := 4096, rd := true, wr := true, valid := true })] }).withKeys
    [(0, { KeySlot.zero with loaded := true })]

/-- CopiesCheckTheirRegionAndMoveBytes: no byte; no region; local, to the last byte of the region: unmapped, poisoned, without a key, read
and written, with host memory and without; at another node without the feature, without a link and with one. -/
theorem test_wit_Copies :
    (Machine.Entry.reservedOk (ent 0) (2 ^ 64 - 1) (2 ^ 64 - 1) (2 ^ 33 - 1) 0 0 0 = true) ∧
    (copyS.regionCheck 0 4033 64 .rd = none ∧ copyS.regionCheck 0 4032 64 .rd = some 0 ∧ copyS.regionCheck 0 4032 64 .wr = some 0) ∧
    ((4032 : Nat) / 2 ^ 48 = copyS.ownNode ∧ ((pagesOf 4032 64).any fun p => (regs [(F.MEM_MAP.cap_gib, 0, 2)] copyS).place p == .unmapped) = true ∧
      ((pagesOf 4032 64).any fun p => copyS.place p == .unmapped) = false) ∧
    ((copyS.withPoison [126]).rdStatus 4032 64 0 ≠ St.ok ∧ copyS.rdStatus 4032 64 0 = St.ok ∧ (copyS.withKeys []).accStatus 4032 64 0 ≠ St.ok ∧
      copyS.accStatus 4032 64 0 = St.ok ∧ copyS.hostOk 0 64 = true ∧ (badHost 63 64 copyS).hostOk 0 64 = false) ∧
    ((copyS.regionCheck 0 (2 ^ 48) 64 .rd).isSome = true ∧ (2 ^ 48 : Nat) / 2 ^ 48 ≠ copyS.ownNode ∧ copyS.feature 0 9 = true ∧ sliS.feature 0 9 = false ∧
      copyS.candLinks 1 = [] ∧
      ((copyS [(F.FAB_LINK_STAT.state, 35, lkActive)]).withRoutes [(1, { cands := [35], hops := 1, act := [], waitFor := [] })]).candLinks 1 ≠ []) := by
  decide +kernel

/-- DeltaCommandsLoadRetireAndQuery: features, versions, models; an image that fits its model and one that does not; a slot in each state. -/
theorem test_wit_DeltaCommands :
    (Machine.Entry.reservedOk { ent 0 with w3 := 64, w4 := 0x10000 } (2 ^ 64 - 1) (2 ^ 40 - 1) (2 ^ 60 - 1) 0 0 0 = true ∧
      bits (0x10000 : Nat) 47 16 ≠ 0 ∧ bits (2 ^ 48 : Nat) 59 48 ≠ 0 ∧ bits (2 ^ 48 : Nat) 47 16 = 0) ∧
    ((tkS 9 0 sliS).feature 0 2 = false ∧ (tkS 9 0 (featS 2)).feature 0 2 = true ∧ (featS 2).feature 0 8 = false ∧ (featS 8).feature 0 8 = true) ∧
    (kfind sliS.models 0 = none ∧ kfind (sliS.withModels [(0, model0)]).models 0 = some model0 ∧
      (sliS.deltas.any fun d => d.2.st == .loading) = false ∧ sliS.freeDeltaSlot = some 0 ∧ copyS.weightRoom 64 = true) ∧
    (deltaImageOk (leBytes 64 0) 0 model0 = true ∧ deltaImageOk (leBytes 63 0) 0 model0 = false) ∧
    (Machine.Entry.reservedOk (ent 0x10000) (2 ^ 17 - 1) 0 0 0 0 0 = true ∧ kfind sliS.deltas 0 = none ∧ bit (0x10000 : Nat) 16 = true ∧ bit (0 : Nat) 16 = false) ∧
    (∀ st ∈ [VState.loading, .freeing, .active, .superseded], ∀ pins ∈ [0, 1], ∀ o ∈ [0, 1],
      let d := { delta0 with st := st, pins := pins, owner := o }
      kfind (sliS.withDeltas [(0, d)]).deltas 0 = some d) ∧
    sliS.hostOk 0 32 = true := by decide +kernel



/-- The state in which control command `opc` with word 2 `w2` is executed. -/
def tkC (opc w2 : Nat) (s : State) : State := taken s ctlRing (ctlEnt opc (ent w2))
/-- A control ring with features agreed, a coordinator, and a root key. -/
def ctlF (l : List (Field × Nat × Nat) := []) : State :=
  let s := (ctlS ([(F.HOST_FEAT_AGREED.feat_ok, 0, 2 ^ 5 + 2 ^ 7 + 2 ^ 8)] ++ l)).withCoord (some 0)
  s.withSec { s.sec with bootKey := true }

/-- HeldCommandsWaitForTheirOwner: the owner restarting, held down, and a coordinator that is down. -/
theorem test_wit_HeldCommands :
    (∀ p ∈ [cairn, fc], ∀ st ∈ [1, 2], (tkC 0x41 0 (ctlF [(F.FW_PROC_STAT.pstate, p, st)])).procUp p = false ∧
      (tkC 0x41 0 (ctlF [(F.FW_PROC_STAT.pstate, p, st)])).rd F.FW_PROC_STAT.pstate p = st) ∧
    (let u := tkC 0x42 0 (ctlF [(F.FW_PROC_STAT.pstate, pc 0, 1)]); u.coordinator = some 0 ∧ u.procUp (pc 0) = false) ∧
    (let e := ent 0
     ∀ m ∈ [2 ^ 40 - 1, 0xFFF, 0xFFFF], Machine.Entry.reservedOk e m 0 0 0 0 0 = true) := by decide +kernel
theorem test_wit_HeldCommands_read (opc w2 : Nat) (b : Option ModelBody) (img : Option SliceImage) : CanRead ctlF ctlRing (ctlEnt opc (ent w2) b img) :=
  canRead_of (by decide +kernel)

/-- SlicesBindFreezeThawAndScrub: a slice number free and taken, a function and PASID free and taken. -/
theorem test_wit_SliceBind :
    (let u := tkC 0x40 0 ctlF
     Machine.Entry.reservedOk (ent 0) (2 ^ 40 - 1) 0 0 0 0 0 = true ∧ u.procUp cairn = true ∧ u.rd F.SEC_STAT.dbg_taint = 0 ∧
       u.sec.bootKey = true ∧ u.sliceState 0 = unbound ∧ u.pairUsed 0 0 = false) ∧
    (let u := tkC 0x40 0 (ctlF [(F.HOST_SLICE.state, 1, active)]); u.sliceState 1 ≠ unbound ∧ u.pairUsed 0 0 = true ∧ u.sliceState 0 = unbound) := by
  decide +kernel
/-- The slice commands: each state; a freeze whose live state is saved at its end and one ns before; a save into a buffer, a missing feature. -/
theorem test_wit_SliceStates :
    (∀ st ∈ [unbound, active, detached, frozen, scrubbing], (tkC 0x41 0 (ctlF [(F.HOST_SLICE.state, 0, st)])).sliceState 0 = st) ∧
    ((ctlF.slice 0).freezeCmd = none ∧ (∃ p ∈ (tkC 0x42 0 ctlF).coordinator, (tkC 0x42 0 ctlF).procUp (pc p) = true)) ∧
    (let x : LiveState := ⟨0, [(BitVec.ofNat 48 sram, 1)], [], 0⟩
     let s := (atT 2001 (ctlF [(F.RST_PD_STAT.pd_on, 0, 2 ^ 8)])).withSlices [(0, { Slice.zero with freezeCmd := some 1 })]
     (s.slice 0).freezeCmd = some 1 ∧ s.allFrozen 0 = true ∧ s.inCluster 0 sram 1 = true ∧ (s.slice 0).freezeAt + s.switchNs x ≤ s.nowNs ∧
       (atT 2000 s).nowNs < (s.slice 0).freezeAt + s.switchNs x ∧
       (s.withSeqs [(0, { seq0 with st := .decode })]).allFrozen 0 = false) ∧
    ((tkC 0x44 0 ctlS).feature ctlRing 5 = false ∧ (tkC 0x44 0 ctlF).feature ctlRing 5 = true ∧ ctlF.hostOk 0 272 = true ∧
      (badHost 271 272 ctlF).hostOk 0 272 = false) := by decide +kernel

def sliceImage0 : SliceImage :=
  { counters := [], rings := [], window := [], quantum := 0, seqQuota := 0, rate := 0, burst := 0, quota64k := 0, regions := [], seqs := [],
    live := [], liveFg := [], deltas := [] }
def imgSeq0 : ImgSeq :=
  { words := [], spec := [], digest := 0, variant := none, toks := [], frames := [], sample := 0, samples := 0, outAddr := 0, stream := false,
    sampled := false, beamW := 0, eos := [], done := [], score := 0, hyps := [] }
/-- An image without sections, in host memory at 0. -/
def imgHdr : List Byte := leBytes 4 0x4D585331 ++ leBytes 2 1 ++ leBytes 2 0 ++ leBytes 8 272 ++ leBytes 240 0
def imgS : State :=
  let s := ctlF
  s.withHostMem (Memory.write [] 0 (imgHdr ++ gcmTag (s.migKey (leBytes 12 0)) (leBytes 12 0) imgHdr []))
/-- SLICE_RESTORE: an image whose tag verifies and one that does not; checks passed and failed; room and none. -/
theorem test_wit_SliceRestore :
    imgS.imageOk (Memory.read imgS.hostMem 0 272) = true ∧ ctlF.imageOk (Memory.read ctlF.hostMem 0 272) = false ∧
    imgS.imgCheck sliceImage0 = St.ok ∧ imgS.imgCheck { sliceImage0 with seqs := [imgSeq0] } ≠ St.ok := by decide +kernel
theorem test_wit_SliceRestore_room :
    ((imgS.bindSlice 0 0 0 frozen).restoreAll 0 sliceImage0).isSome = true ∧
    ((imgS.bindSlice 0 0 0 frozen).restoreAll 0 { sliceImage0 with deltas := [⟨0, 0, 0, 0, []⟩] }).isSome = false := by decide +kernel



/-- GroupsModelsDomainAndRoutes: groups. -/
theorem test_wit_Groups :
    (∀ op < 4, CanRead ctlF ctlRing (groupEnt (ent 1) op)) ∧
    ((tkC 0x46 1 ctlS).feature ctlRing 8 = false ∧ (tkC 0x46 1 ctlF).feature ctlRing 8 = true ∧ (tkC 0x46 1 ctlF).procUp cairn = true ∧
      (ctlF.group 1).exist = false ∧ ((ctlF.withGroups [(1, { exist := true, members := [] })]).group 1).exist = true ∧
      ctlF.scopesDead.contains (4095 + 1) = false ∧ (tkC 0x46 1 ctlF).sec.bootKey = true ∧ bits (ent 1).w2.toNat 11 0 = 1 ∧ bits (ent 0).w2.toNat 11 0 = 0) :=
  ⟨fun op _ => canRead_of (by decide +kernel), by decide +kernel⟩

/-- A package with an empty body, in host memory at 0. -/
def pkgHdr : List Byte :=
  leBytes 4 0x4D584D31 ++ leBytes 8 0 ++ leBytes 1 0 ++ leBytes 1 16 ++ leBytes 10 0 ++ leBytes 2 1 ++ leBytes 46 0 ++ leBytes 8 0x2000 ++ leBytes 48 0 ++
    leBytes 64 (digestOf []) ++ leBytes 64 0
def pkgS : State := (regs [(F.MEM_MAP.cap_gib, 0, 40)] ctlF).withHostMem (Memory.write [] 0 pkgHdr)
def body0 : ModelBody := { stages := [], tileSteps := [], place := [] }
/-- MODEL_LOAD and MODEL_UNLOAD: a package that parses and one that does not; room and none; a model loaded, one with a sequence. -/
theorem test_wit_Models :
    (parseModel (Memory.read pkgS.hostMem 0 256) (Memory.read pkgS.hostMem 256 0) 256 0 1 body0).isSome = true ∧
    parseModel (Memory.read ctlF.hostMem 0 256) [] 256 0 1 body0 = none ∧ pkgS.weightRoom 256 = true ∧
    ctlF.weightRoom 256 = false ∧ pkgS.hostOk 0 256 = true ∧ (badHost 0 1 pkgS).hostOk 0 256 = false ∧ kfind pkgS.models 0 = none ∧
    (kfind (pkgS.withModels [(0, model0)]).models 0).isSome = true ∧ max 1 (bits (3 * 2 ^ 16 : Nat) 17 16) = 3 ∧
    (∃ q ∈ (pkgS.withSeqs [(0, { seq0 with st := .decode })]).seqs, q.2.st ≠ .free ∧ q.2.model = 0) ∧
    (∀ q ∈ pkgS.seqs, q.2.st ≠ .free → q.2.model ≠ 0) ∧ (∀ d ∈ pkgS.deltas, d.2.model ≠ 0) := by decide +kernel

/-- DOMAIN_JOIN, the lists and ROUTE_SET. -/
theorem test_wit_Domain :
    (tkC 0x4B 1 ctlS).feature ctlRing 7 = false ∧ (tkC 0x4B 1 ctlF).feature ctlRing 7 = true ∧ (tkC 0x4B 1 ctlF).procUp fc = true ∧
    (tkC 0x4B 1 ctlF).rd F.FAB_CTRL.joined = 0 ∧ (tkC 0x4B 1 (ctlF [(F.FAB_CTRL.joined, 0, 1)])).rd F.FAB_CTRL.joined = 1 ∧
    (tkC 0x4B 1 ctlF).rd F.SEC_STAT.dbg_taint = 0 ∧ (∀ k ∈ [0, 1, 2, 3], bits (ent (8 + k)).w2.toNat 1 0 = k ∧ bits (ent (8 + k)).w2.toNat 18 3 = 1) ∧
    (tkC 0x4C 8 ctlF).hostRd 0 2 = some (leBytes 2 0) ∧ (tkC 0x4C 8 (badHost 0 1 ctlF)).hostRd 0 2 = none ∧
    ((tkC 0x4D 1 ctlF).hostRd 0 8).isSome = true ∧ ((tkC 0x4D 1 (badHost 7 8 ctlF)).hostRd 0 8) = none := by decide +kernel

/-- CellCommandsFollowTheCellState: no cell; a cell in each state; values at their limits; host memory for the record and none. -/
theorem test_wit_CellCommands :
    (ctlF.cell? 0 = none ∧ ∀ st ∈ [CellState.locked, .active, .lockPending, .unlockPending, .autoLocked], ∀ w ∈ [true, false],
      let c := { cell0 with st := st, waits := w, pend := some ⟨true, 0, 1, 0x49⟩ }
      (ctlF.withCells [(0, c)]).cell? 0 = some c ∧ c.part < 8 ∧ (taken ctlF ctlRing (cellEntry (ent 0) 0)).procUp (pc c.part) = true) ∧
    (∀ v ∈ [0, 1, 15, 16, 60, 61], bits (ent (v * 2 ^ 25)).w2.toNat 30 25 = v ∧ (ent (v * 2 ^ 25)).w2.toNat < 2 ^ 31) ∧
    ((taken ctlF ctlRing (statusEntry (ent 0))).hostWr 0 (cellRecord cell0)).isSome = true ∧
    ((taken (badHost 0 1 ctlF) ctlRing (statusEntry (ent 0))).hostWr 0 (cellRecord cell0)).isNone = true := by decide +kernel
theorem test_wit_CellCommands_read (op w2 : Nat) : CanRead ctlF ctlRing (cellEntry (ent w2) op) ∧ CanRead ctlF ctlRing (statusEntry (ent w2)) :=
  ⟨canRead_of (by decide +kernel), canRead_of (by decide +kernel)⟩



/-! ## Firmware and start-up -/

/-- Processor 3 (PC0) in state `st`, `n` crashes behind it, its watchdog due at `due`. -/
def procS (st n due : Nat) (l : List (Field × Nat × Nat) := []) : State :=
  let s := edgeT 20000000 (ctlF ([(F.FW_PROC_STAT.pstate, 3, st), (F.RST_STAT.step, 0, 3)] ++ l))
  s.setProc 3 { s.proc 3 with wdDue := due, crashes := List.replicate n s.nowNs, downAt := 0 }
/-- FirmwareCrashesRestartsAndHoldDown: each state; the watchdog at its instant and before it; no, one and two crashes in the window. -/
theorem test_wit_Firmware :
    ((procS 0 1 20000000).procUp 3 = true ∧ ((procS 0 1 20000000).proc 3).dbgHalt = false ∧ ((procS 0 1 20000000).proc 3).prevSect = none ∧
      ((procS 0 1 20000000).proc 3).wdDue ≤ (procS 0 1 20000000).nowNs) ∧
    (∀ n ∈ [0, 1, 2], (((procS 0 n 0).proc 3).crashes.filter fun t => (procS 0 n 0).nowNs ≤ t + 600000000000).length = n) ∧
    ((procS 1 0 0).starting 3 = true ∧ ((procS 1 0 0).proc 3).downAt + 20000000 ≤ (procS 1 0 0).nowNs ∧ (procS 0 0 0).starting 3 = false ∧
      (procS 0 0 0).time.edges = true ∧ ((procS 0 0 20125000).nowNs / 125000 + 1) * 125000 ≤ ((procS 0 0 20125000).proc 3).wdDue) ∧
    (∀ st ∈ [0, 1, 2, 3], (procS st 0 0).rd F.FW_PROC_STAT.pstate 3 = st) ∧
    ((procS 2 0 0).mayWrite .host F.FW_PROC_CTRL.release 3 = true ∧ (procS 0 0 0).mayWrite .host F.FW_PROC_CTRL.restart_req 3 = true ∧
      (procS 0 0 0).mayWrite .host F.FW_IMAGE.boot_slot 0 = true ∧ (procS 0 0 0).mayWrite .host F.FW_IMAGE.confirm 0 = true ∧
      (procS 1 0 0).heldCmds = [] ∧ (procS 1 0 0).rd F.FW_UPDATE.upd_state ≠ 1 ∧ (procS 0 0 0).procUp cairn = true ∧
      (procS 0 0 0 [(F.FW_PROC_STAT.pstate, cairn, 1)]).procUp cairn = false ∧ (procS 0 0 0).ready = true ∧ State.reset.ready = false) := by
  decide +kernel
/-- Leadership that passes: in the Col window, from a coordinator held down; and one that stays. -/
theorem test_wit_Leadership :
    (let s := procS 2 0 0 [(F.TICK_STAT.running, 1, 1), (F.RST_PD_STAT.pd_on, 0, 3)]
     s.inCol = true ∧ (edgeT 2000 s).inCol = false ∧ s.leader = some 1 ∧ s.coord = some 0 ∧ s.heldCmds = [] ∧ s.seqRuns 1 = true) ∧
    (procS 0 0 0).leader = (procS 0 0 0).coord := by decide +kernel

/-- A powered device before start-up step `k`. -/
def upS (k : Nat) (l : List (Field × Nat × Nat) := []) : State :=
  let s := run ([(F.RST_STAT.step, 0, k - 1)] ++ l)
  s.withBring { s.bring with powered := true, resetN := true, perst := true, inReset := false }
def slotOkS (s : State) : State :=
  s.withBring { s.bring with images := [{ SlotImage.zero with stage1Ok := true, restOk := true }, { SlotImage.zero with stage1Ok := true, restOk := true }] }
def entG : Entitlement := { ent0 with magic := 0x4D58454E, entVer := 1, sigOk := true }
def dcrG : Dcr := { dcr0 with formOk := true, sigOk := true, ent := some entG }
/-- StartUpStepsOneToFive: each step due and not due; images, records and channels present, missing and refused. -/
theorem test_wit_StartUp :
    (State.reset.bring.powered = false ∧ (upS 1).bring.powered = true ∧ ∀ k < 11, (upS (k + 1)).atStep (k + 1) = true ∧ (upS 12).atStep (k + 1) = false) ∧
    ((upS 2).bring.resetN = true ∧ (upS 2).bring.perst = true ∧ ((upS 2).withBring { (upS 2).bring with resetN := false }).bring.resetN = false) ∧
    (((upS 3).withBring { (upS 3).bring with images := [] }).chooseSlot = none ∧ (slotOkS (upS 3)).chooseSlot = some 0) ∧
    (pickDcr none (upS 4).bring.dcrNext = none ∧ pickDcr (some dcr0) (upS 4).bring.dcrNext = some dcr0 ∧ dcrOk dcr0 = false ∧
      dcrOk dcrG = true ∧ dcrOk { dcrG with ent := none } = true) ∧
    (let s := slotOkS ((upS 4).withSec { (upS 4).sec with rootOk := true, devId := 0 })
     s.entOk entG = true ∧ s.entOk ent0 = false ∧ s.slotOk entG = true ∧ s.slotOk { entG with minSvn := 1 } = false) ∧
    (∀ n ∈ [1, 2], ((span 0 (upS 5).nChan).filter fun m => (List.range n).contains m && !(upS 5).hasDefect 5 m 0).length = n) := by decide +kernel

/-- StartUpMapsCoresAndStartsWaves and StartUpEndsWithReady: the first wave started and one that tripped; links and edges there and not. -/
theorem test_wit_Waves :
    ((upS 7).bring.waves = 0 ∧ 0 < (upS 7).waveCount ∧ ((upS 7).withBring { (upS 7).bring with waveFail := [0] }).bring.waveFail.contains 0 = true ∧
      (upS 7).bring.waves ≠ (upS 7).waveCount ∧ ((upS 7).withBring { (upS 7).bring with waves := 8 }).bring.waves = (upS 7).waveCount ∧
      (upS 7).bring.waveFail = []) ∧
    ((upS 8).linksOk = true ∧ (upS 8 [(F.FAB_LINK_STAT.state, 0, lkTraining), (F.FAB_CTRL.min_links, 0, 1)]).linksOk = false) ∧
    ((edgeT 0 (upS 9)).time.edges = true ∧ (upS 9).time.edges = false ∧ (upS 11).readyOk = false ∧ (edgeT 0 (upS 11)).readyOk = true) ∧
    ((upS 10).physHere ⟨false, 0, 0⟩ = true ∧ (upS 10).clusterStarted 0 = true) := by decide +kernel



/-! ## Resets and power -/

/-- A Ready device with every domain of `pd` on. -/
def rdyS (l : List (Field × Nat × Nat) := []) (pd : Nat := 2 ^ 50 - 1) : State :=
  let s := edgeT 10000000 (run ([(F.RST_STAT.step, 0, 11), (F.RST_STAT.ready, 0, 1), (F.RST_PD_STAT.pd_on, 0, pd)] ++ l))
  s.withBring { s.bring with powered := true, resetN := true, perst := true, inReset := false }
def bringS (f : Bring → Bring) (s : State) : State := s.withBring (f s.bring)

/-- ResetsOfTheWholeDevice: defects waiting and none; a shutdown not begun, begun, with and without requests outstanding. -/
theorem test_wit_WholeReset :
    (rdyS.procUp cairn = true ∧ (bringS (fun b => { b with dmQueue := [⟨0, 0, 0, 0⟩] }) rdyS).bring.dmQueue ≠ [] ∧ rdyS.bring.dmQueue = []) ∧
    (rdyS.mayWrite .host F.RST_DEV_CTRL.dev_rst 0 = true ∧ rdyS.bring.inReset = false ∧ rdyS.bring.tripped = false ∧ rdyS.bring.shutAt = none ∧
      rdyS.mayWrite (.pc 0) F.RST_DEV_CTRL.dev_rst 0 = false) ∧
    (let s := bringS (fun b => { b with shutAt := some 125000 }) rdyS
     s.bring.shutAt = some 125000 ∧ s.fabReqs = [] ∧ (s.withFabReqs [fabReq0]).fabReqs ≠ [] ∧ s.time.edges = true ∧
       (s.nowNs / 125000 + 1) * 125000 ≤ 125000 + 10000000) ∧
    (State.reset.ready = false ∧ (rdyS [(F.RST_DEV_CTRL.warm_req, 0, 0)]).on F.RST_DEV_CTRL.warm_req = false ∧ rdyS.rd F.RST_STAT.step ≠ 0 ∧
      State.reset.rd F.RST_STAT.step = 0 ∧ (bringS (fun b => { b with inReset := true }) rdyS).bring.inReset = true) := by decide +kernel

/-- PartitionAndClusterResetsGoThroughFivePhases: each phase; a reset allowed and refused; rows in a cluster and none. -/
theorem test_wit_PartReset :
    (rdyS.mayWrite .host F.RST_PART_CTRL.part_rst 0 = true ∧ rdyS.mayWrite (.slice 0) F.RST_PART_CTRL.part_rst 0 = false ∧ State.reset.canReset 0 = false ∧
      (rdyS [(F.TICK_STAT.running, 0, 1)]).canReset 0 = true ∧ rdyS.partActive 0 = false ∧ (rdyS.withCells [(0, { cell0 with st := .active })]).partActive 0 = true) ∧
    (rdyS.mayWrite .host F.RST_CL_CTRL.cl_rst 0 = true ∧ rdyS.domainOn 8 = true ∧ rdyS.suspended 0 = false ∧ rdyS.clRows 0 = []) ∧
    (∀ k ∈ [0, 1, 2, 3, 4, 5], (rdyS [(F.RST_PART_STAT.rst_state, 0, k)]).rd F.RST_PART_STAT.rst_state 0 = k ∧
      kfind (bringS (fun b => { b with clPhase := [(0, k)] }) rdyS).bring.clPhase 0 = some k) ∧
    (kfind rdyS.bring.clPhase 0 = none ∧ rdyS.procUp (pc 0) = true ∧ (rdyS [(F.FW_PROC_STAT.pstate, pc 0, 1)]).procUp (pc 0) = false) := by decide +kernel

/-- A bank whose one column has one radio row on lane 0. -/
def rowBank : List Byte :=
  bankBytes {
    part := 0, columns := [[{ lane := 0, kind := 0, start := 6600, len := 1, kernel := 0, desc := BitVec.ofNat 48 (pinnedBase 0), thr := 0 }]]
    pinned := [], rsv := [], work := [], ilines := [] } 0 0
theorem test_wit_PartReset_rows :
    ((rdyS [(F.TICK_STAT.cur_len, 0, 1)]).withMem (Memory.write [] (bankAt 0 0) rowBank)).clRows 0 ≠ [] := by decide +kernel

/-- UnitResetsEndAsASpareOrAsADefect: each unit may be reset and may not; one behind a name and one that is a spare; a reset that ends. -/
theorem test_wit_UnitReset :
    (rdyS.mayReset .host F.RST_CORE_CTRL.core_rst 0 0 && 0 < rdyS.nCores && rdyS.domainOn 8 && !rdyS.on F.MSF_MAP.absent 0 &&
      !rdyS.on F.RST_CORE_CTRL.rst_busy 0 && !rdyS.suspended 0 && !(rdyS.physOf (slotKey 0 0)).bad) = true ∧
    rdyS.mayReset (.slice 0) F.RST_CORE_CTRL.core_rst 0 0 = false ∧
    (rdyS.mayReset .host F.RST_SPUR_CTRL.spur_rst 0 0 && 0 < rdyS.nSpur && !rdyS.on F.SPR_MAP.absent 0 && !rdyS.on F.RST_SPUR_CTRL.rst_busy 0 &&
      !(rdyS.physOf (posKey 0 0)).bad) = true ∧
    (rdyS.mayReset .host F.RST_PHYS_RST.slot_rst 0 0 && rdyS.mayReset .host F.RST_PHYS_RST.pos_rst 0 0) = true ∧
    ((!rdyS.on F.RST_PHYS_RST.phys_busy 0 && rdyS.domainOn 8 && !rdyS.suspended 0) = true) ∧
    (rdyS.coreBehind 0 0 ≠ none ∧ rdyS.coreBehind 0 4 = none ∧ rdyS.spurBehind 0 0 ≠ none ∧ rdyS.spurBehind 0 17 = none ∧
      (rdyS.physOf (slotKey 0 4)).bad = false ∧ (rdyS.physOf (posKey 0 17)).bad = false) ∧
    (kfind rdyS.bring.unitRst 0 = none ∧
      kfind (bringS (fun b => { b with unitRst := [(0, slotKey 0 0)] }) rdyS).bring.unitRst 0 = some (slotKey 0 0)) := by decide +kernel

/-- DomainsAreSwitchedWhenNothingUsesThem: a domain in use and idle; down 10 ms and one ns less. -/
theorem test_wit_Domains :
    ((rdyS.procUp cairn && rdyS.ready && rdyS.domainOn 0) = true ∧ rdyS.partIdle 0 = false ∧ (rdyS [] 1).partIdle 0 = true ∧
      rdyS.clusterIdle 0 = true ∧ (rdyS.withPasses [pass0]).clusterIdle 0 = false ∧ rdyS.suspended 0 = false) ∧
    (let s := bringS (fun b => { b with downDomains := [(8, 0)] }) rdyS
     s.bring.downDomains.find? (fun y => y.1 == 8) = some (8, 0) ∧ 0 + 10000000 ≤ s.nowNs ∧ (∀ y ∈ rdyS.bring.downDomains, y.1 ≠ 8) ∧
       s.domainOn 0 = true ∧ (rdyS [] 2).domainOn 0 = false ∧ s.time.edges = true ∧ ((edgeT 9875000 s).nowNs / 125000 + 1) * 125000 ≤ 0 + 10000000) := by
  decide +kernel



/-! ## Security, debug, power -/

/-- CairnAnswersAttestationAndMonitoring: before step 2 and after it, Cairn up and down; a signed message and none; a sensor and none. -/
theorem test_wit_Attestation :
    (rdyS.bring.powered = true ∧ 2 ≤ rdyS.rd F.RST_STAT.step ∧ ¬(State.reset.bring.powered = true ∧ 2 ≤ State.reset.rd F.RST_STAT.step) ∧
      rdyS.procUp cairn = true ∧ (rdyS [(F.FW_PROC_STAT.pstate, cairn, 1)]).procUp cairn = false) ∧
    ((rdyS.withSec { rdyS.sec with signed := [(0, 1)] }).sec.signed = [(0, 1)] ∧ kfind rdyS.sec.signed 0 = none ∧ rdyS.sensor 515 = some 1024 ∧
      rdyS.sensor 0 = none ∧ rdyS.sensor 517 = none) := by decide +kernel

/-- UpdatesTakeVerifiedComponentsOnly: a session open here, elsewhere and nowhere; images, records and sections that pass and fail. -/
def sect0 : SectionImage := { sect := 0, major := 0, kctDig := 0, version := 0, digest := 0, sigOk := false }
theorem test_wit_Updates :
    (rdyS.sec.session = none ∧ ∀ b ∈ [0, 1], (rdyS.withSec { rdyS.sec with session := some b }).sec.session = some b) ∧
    (∀ v ∈ [0, 1], (rdyS [(F.FW_IMAGE.trial, 0, v)]).on F.FW_IMAGE.trial = (v == 1)) ∧
    (SlotImage.zero.svn.toNat < (rdyS [(F.SEC_SVN.min_svn, 0, 1)]).rd F.SEC_SVN.min_svn ∧ rdyS.rd F.SEC_SVN.min_svn ≤ SlotImage.zero.svn.toNat ∧
      rdyS.rd F.SEC_ENT.min_key_gen ≤ SlotImage.zero.keyGen.toNat) ∧
    ((let s := rdyS.withSec { rdyS.sec with rootOk := true, devId := 0 }; (dcrG.sigOk && dcrG.ent.any s.entOk) = true) ∧ dcr0.sigOk = false) ∧
    ((let x := { sect0 with sigOk := true, major := BitVec.ofNat 16 (rdyS.rd F.HOST_VER.dev_major), kctDig := (rdyS.imageOf rdyS.bring.slot).sectDig.getD 4 0 }
      x.sigOk = true ∧ x.major.toNat = rdyS.rd F.HOST_VER.dev_major ∧ x.kctDig = (rdyS.imageOf rdyS.bring.slot).sectDig.getD 4 0) ∧
      rdyS.rd F.FW_UPDATE.upd_state ≠ 1 ∧ (rdyS [(F.FW_UPDATE.upd_state, 0, 1)]).rd F.FW_UPDATE.upd_state = 1 ∧ rdyS.rd F.FW_PROC_STAT.pstate 0 ≠ 2 ∧
      (∃ p < 8, rdyS.rd F.FW_PROC_STAT.pstate (pc p) = 0) ∧ (∀ p < 8, State.reset.rd F.FW_PROC_STAT.pstate (pc p) ≠ 0)) := by decide +kernel

/-- A device whose debug port is in state `st` with permissions `perm`. -/
def dbgS (st perm : Nat) (l : List (Field × Nat × Nat) := []) : State :=
  let s := rdyS ([(F.SEC_STAT.dbg_state, 0, st), (F.SEC_ENT.dbg_policy, 0, 3)] ++ l)
  s.withSec { s.sec with perm := perm, devId := 0, nonceLive := true, nonceAt := 0, lockUntil := 10000000 }
/-- TheDebugPortUnlocksOnAValidTokenOnly: the port off, locked, unlocked and locked out; failures at their limit; each target; the end of
the lockout. -/
theorem test_wit_DebugPort :
    (State.reset.dbgOn = false ∧ rdyS.dbgOn = true ∧ ∀ st ∈ [0, 1, 2], (dbgS st 0).rd F.SEC_STAT.dbg_state = st ∧ (dbgS st 0).unlocked = (st == 1)) ∧
    ((dbgS 0 0).tokenOk ⟨0, 0, 0, 0, 0, false⟩ = false ∧ (∀ n ∈ [1, 2], ((dbgS 0 0).withSec { (dbgS 0 0).sec with fails := n }).sec.fails = n)) ∧
    ((dbgS 1 0).target 0x2000 = .absent ∧ (dbgS 1 0).target 0x1000 = .thread 0 ∧ (dbgS 1 0).target 10 = .proc 10) ∧
    ((dbgS 2 0).sec.lockUntil ≤ (dbgS 2 0).nowNs ∧ (dbgS 2 0).time.edges = true ∧
      ((edgeT 9875000 (dbgS 2 0)).nowNs / 125000 + 1) * 125000 ≤ (dbgS 2 0).sec.lockUntil) := by decide +kernel
/-- A token over the live nonce unlocks. -/
theorem test_wit_DebugToken : (dbgS 0 0).tokenOk { magic := 0x4D584454, perm := 0, signer := 0, devId := 0, nonce := BitVec.ofNat 256 (dbgS 0 0).nonce, sigOk := true } = true := by
  have h : (BitVec.ofNat 256 (dbgS 0 0).nonce).toNat = (dbgS 0 0).nonce := by simp [State.nonce]
  have h1 : (dbgS 0 0).sec.nonceLive = true ∧ (dbgS 0 0).sec.devId = 0 ∧ (dbgS 0 0).nowNs < (dbgS 0 0).sec.nonceAt + 60000000000 ∧
      bit ((dbgS 0 0).rd F.SEC_ENT.dbg_policy) 0 = true := by decide +kernel
  simp [State.tokenOk, h, h1]

/-- DebugCommandsNeedPermissionAndActOnTheirTarget: a thread halted, ready and without a job; one about to step over a NOP; a processor;
memory that answers and that does not, at the longest length. -/
theorem test_wit_DebugCommands :
    (∀ t ∈ [{ thr with dbg := true }, thr, { thr with job := none }], (((dbgS 1 31).withThreads [(0, t)]).thread 0).dbg = t.dbg ∧
      (((dbgS 1 31).withThreads [(0, t)]).thread 0).job = t.job) ∧
    (let s := ((dbgS 1 31).withJobs [(0, job0)]).withThreads [(0, { thr with dbg := true })]
     (s.thread 0).st = .ready ∧ s.spurOk 0 = true ∧ s.fetchOk 0 = true ∧ decodeSpur (Fin.ofNat 4096 0) (s.memLE (s.thread 0).pc.toNat 4) = some (.spurNop 0)) ∧
    (bit (dbgS 1 31).sec.perm 2 = true ∧ bit (dbgS 1 31).sec.perm 3 = true ∧ bit (dbgS 1 31).sec.perm 4 = true) ∧
    (((dbgS 1 31).setProc 3 { (dbgS 1 31).proc 3 with dbgHalt := true }).proc 3).dbgHalt = true ∧
    (rdyS.dbgReg 0 64 = some 0 ∧ rdyS.dbgReg 0 0xFFFF = none) ∧
    (rdyS.dbgStatus sram 4092 true false = St.ok ∧ rdyS.dbgStatus 0xFFFFFFFFF000 1 true true ≠ St.ok ∧ rdyS.dbgStatus sram 64 false false = St.ok ∧
      rdyS.place sram ≠ .regs ∧ sram % 64 + 64 ≤ 64) := by decide +kernel

/-- SensorsClampsTripsAndTheInput: each limit and the first value past it; a point whose domain is on and one whose domain is off. -/
theorem test_wit_Sensors :
    (rdyS.pointOn 0 = true ∧ (rdyS [] 1).pointOn 0 = false ∧ (0x348 : BitVec 16).toInt = 840 ∧ (0x347 : BitVec 16).toInt < 840 ∧ (920 : BitVec 16).toInt = 920) ∧
    (rdyS.mgt.pwrClamp = false ∧ rdyS.mgt.thmClamp = false ∧ rdyS.mgt.norQueue = [] ∧
      (rdyS.withMgt { rdyS.mgt with norQueue := [ev0] }).mgt.norQueue ≠ [] ∧ (rdyS.withMgt { rdyS.mgt with pwrClamp := true }).mgt.pwrClamp = true) ∧
    (rdyS.jobs = [] ∧ ∀ p < 8, (rdyS.partOf p).wl = []) ∧ (tripMa 0 < 60001 ∧ 60000 ≤ tripMa 0) ∧
    (rdyS.rd F.MGT_PROT.conv_fault = 0 ∧ bit ((rdyS [(F.MGT_PROT.conv_fault, 0, 1)]).rd F.MGT_PROT.conv_fault) 0 = true ∧
      bit ((rdyS [(F.MGT_PROT.conv_fault, 0, 1)]).rd F.MGT_PROT.conv_fault) 1 = false) := by decide +kernel

/-- AServiceEventDrivesTheFaultContact. -/
theorem test_wit_Service : rdyS.procUp cairn = true ∧ rdyS.rd F.MGT_LOG_STAT.svc_evt = 0 ∧ rdyS.mgt.fault = false := by decide +kernel

/-! ## Steps -/

/-- StepRunsTheFrontCommand: a queue with a command, an empty one, without power, and before the edges. -/
theorem test_wit_Step :
    ((State.reset.withPending [.wholeDeviceReset]).pending = [.wholeDeviceReset] ∧ State.reset.pending = [] ∧ State.reset.bring.powered = false) ∧
    (let s := upS 1
     s.pending = [] ∧ s.bring.powered = true ∧ s.time.edges = false ∧
       ((s.nowNs * 2 ^ 18 + s.time.frac) * 10 ^ 12 + s.time.rem) + (2 ^ 19 * (10 ^ 12 + s.rdS F.TIME_OFFSET.rate)).toNat < 2 ^ 66 * 10 ^ 21) := by
  decide +kernel
/-- EveryStepKeepsTheCanonicalForm and CommandsLeaveTheQueueAlone: the state after reset is canonical and takes a step. -/
theorem test_wit_Canonical : Canonical State.reset ∧ ∃ t, step State.reset = .next t := by
  refine ⟨by unfold Canonical; decide +kernel, ?_⟩
  exact ⟨State.reset.clockCycle, rfl⟩



/-! ## Ill-formed commands are refused -/

def bankI : BankImage := { part := 0, columns := [], pinned := [], rsv := [], work := [], ilines := [] }
/-- One term for each check of WellFormed. -/
theorem test_illformed_commands : ∀ i ∈ [Instr.registerWrite .host 0x200021 0, .tickBankWrite 0 2097151 [0, 0], .startupStep5 0 [3, 3] 0 0,
    .startupStep11 0 [bankI] [bankI], .startupStep11 0 [{ bankI with columns := List.replicate 1281 [] }] [],
    .cellUnlockEffect 0 0 { bankI with columns := [List.replicate 4096 ⟨0, 0, 0, 0, 0, 0, 0⟩] },
    .spareLossReproof 0 { bankI with pinned := [(0xFFFFFFFFFFFF, [0, 0])] } [], .ldRecord 0 { record0 with data := List.replicate 4097 0 },
    .startupStep4 0 none (some { entries := List.replicate 4097 ⟨0, 0, 0, 0⟩, ok := true, gen := 0 }) none,
    .memWr 0 0 0 (List.replicate 4093 0), .energyInterval [⟨3, 0, 0, [], 0, 0⟩, ⟨3, 0, 0, [], 0, 0⟩] 0], i.wf = false := by decide +kernel
theorem test_wellformed_command : (Instr.registerWrite .host 0x200020 0).wf = true := by decide +kernel

/-! ## Worked examples of the manual -/

/-- The example after R134: 310.0 and 470.0 stored to FP8 E4M3. -/
theorem test_e4m3 : encodeElem 3 .rne (Num.ofInt 310) = 0x7A ∧ encodeElem 3 .rtz (Num.ofInt 310) = 0x79 ∧ encodeElem 3 .rne (Num.ofInt 470) = 0x7E ∧
    encodeElem 3 .rtz (Num.ofInt 470) = 0x7E := by decide +kernel
/-- An INT32 entry of 4,960 retires to INT8 with a shift of 6; 12,345 saturates. -/
theorem test_int8 : encodeElem 9 .rne (Num.ofInt 4960 (-6)) = 78 ∧ encodeElem 9 .rtz (Num.ofInt 4960 (-6)) = 77 ∧
    encodeElem 9 .rne (Num.ofInt 12345 (-6)) = 127 := by decide +kernel
/-- A block of MXFP4 whose largest element is 13.0 has the scale byte 0x80. -/
theorem test_mxfp4_scale : (mxBlock 11 .rne [Num.ofInt 13, Num.ofInt (-26) (-1)]).1 = 0x80 := by decide +kernel
/-- The example after R144: w = 9 and the largest components 4,090 and −3,500. -/
theorem test_bfp : bfpExp 9 [4090, -3500, 1234] = 4 ∧ (bfpCompress 9 [4090, -3500]).1 = 4 := by decide +kernel
/-- The example after R201: the channel and offset of an address of P3. -/
theorem test_dram_decode :
    (run [(F.MEM_MAP.cap_gib, 0, 512), (F.MEM_MAP.n_ent, 0, 24)]).dramDecode 0x048180025678 = some ((10, 0x8000C678), none) := by decide +kernel
/-- The example after R237: a block of 24 code blocks of base graph 1 at Z = 384. -/
theorem test_harq : harqKib 24 25344 = 312 ∧ harqKib 20 25344 = 260 := by decide +kernel
/-- The example after R231: a cell of 64T64R with 273 PRBs at μ = 1 costs 12 cell-equivalents, one of 4T4R costs 1. -/
theorem test_cell_cost : cellCost { cellEnt0 with w0 := BitVec.ofNat 64 (2 ^ 23 + 7 * 2 ^ 27 + 273 * 2 ^ 39 + 273 * 2 ^ 48) } = 96 ∧
    cellCost { cellEnt0 with w0 := BitVec.ofNat 64 (2 ^ 23 + 2 * 2 ^ 27 + 273 * 2 ^ 39 + 273 * 2 ^ 48) } = 8 := by decide +kernel
/-- The example after R405: four cores, four scratchpads and a cluster SRAM at 300 GB/s. -/
theorem test_switch_time :
    State.reset.switchNs ⟨5, [(0, 4 * 6 * 2 ^ 20 + 4 * 2 ^ 20)], [20, 21, 22, 23], 4 * 4096⟩ = 2000 + ceilDiv 33570816 300 := by decide +kernel
/-- The decode tile of the example after R118 takes 4,264 cycles, 24 of them its retire phase. -/
theorem test_tile_cycles :
    let t := decodeTile [3 * 2 ^ 3 * 0 + 2 ^ 21 + 15 * 2 ^ 28 + 8 * 2 ^ 32, 8192 + 64 * 2 ^ 24, 0, 0xF00000000000, 0, 0, 0, 0]
    State.reset.tileCycles 0 t = 4264 ∧ t.retCycles = 24 := by decide +kernel
/-- Pass 4 and pass 6 of the example after R338. -/
theorem test_greedy_accept : acceptCount false [7] [7, 8] [] = 1 ∧ acceptCount false [7, 8, 9] [7, 5, 9, 4] [] = 1 := by decide +kernel

/-! ## Cryptography: the examples of the standards that the manual names -/

/-- FIPS 180-4: SHA-512 of "abc". -/
theorem test_sha512 : beVal (sha512 [0x61, 0x62, 0x63]) =
    0xddaf35a193617abacc417349ae20413112e6fa4e89a97ea20a9eeee64b55d39a2192992a274fc1a836ba3c23a3feebbd454d4423643ce80e2a9ac94fa54ca49f := by decide +kernel
/-- FIPS 197, appendix C.3: AES-256 of one block. -/
theorem test_aes256 : aesBlock (aesKeys ((List.range 32).map (BitVec.ofNat 8))) ((List.range 16).map fun i => 0x11 * i) =
    [0x8e, 0xa2, 0xb7, 0xca, 0x51, 0x67, 0x45, 0xbf, 0xea, 0xfc, 0x49, 0x90, 0x4b, 0x49, 0x60, 0x89] := by decide +kernel


end Sys2Proof.Tests
end

/-! SUPPORT. Every step keeps the queue's rest and the canonical form of the sparse maps: the lemmas of Laws/Keep*.lean, one
per command, put together over the commands. -/

namespace Sys2Proof.Machine

variable {Q : List Instr} {s : State}

/-- Every command answers a next state and keeps the canonical form. -/
theorem exec_kept (h : Kept Q none s) : ∀ i : Instr, Keeps Q none (exec i s)
  | .registerWrite .. => execRegisterWrite_kept h ..
  | .tickEdge => execTickEdge_kept h
  | .tickBankWrite .. => execTickBankWrite_kept h ..
  | .radioWindowStart .. => execRadioWindowStart_kept h ..
  | .radioWindowEnd .. => execRadioWindowEnd_kept h ..
  | .laneItemStart .. => execLaneItemStart_kept h ..
  | .tileAbort .. => execTileAbort_kept h ..
  | .tileEnd .. => execTileEnd_kept h ..
  | .fenceReq .. => execFenceReq_kept h ..
  | .radioHang .. => execRadioHang_kept h ..
  | .katNow .. => execKatNow_kept h ..
  | .katPeriodExpiry => execKatPeriodExpiry_kept h
  | .katEnd .. => execKatEnd_kept h ..
  | .spurFenceReq .. => execSpurFenceReq_kept h ..
  | .spurKatNow .. => execSpurKatNow_kept h ..
  | .spurRadioHang .. => execSpurRadioHang_kept h ..
  | .jobEnd .. => execJobEnd_kept h ..
  | .jobAbort .. => execJobAbort_kept h ..
  | .spurRemoteReply .. => execSpurRemoteReply_kept h ..
  | .storeAck .. => execStoreAck_kept h ..
  | .spurNop .. => execSpurNop_kept h ..
  | .halt .. => execHalt_kept h ..
  | .yield .. => execYield_kept h ..
  | .fence .. => execFence_kept h ..
  | .cwb .. => execCwb_kept h ..
  | .cinv .. => execCinv_kept h ..
  | .cflush .. => execCflush_kept h ..
  | .mfs .. => execMfs_kept h ..
  | .mts .. => execMts_kept h ..
  | .add .. => execAdd_kept h ..
  | .sub .. => execSub_kept h ..
  | .and .. => execAnd_kept h ..
  | .or .. => execOr_kept h ..
  | .xor .. => execXor_kept h ..
  | .sll .. => execSll_kept h ..
  | .srl .. => execSrl_kept h ..
  | .sra .. => execSra_kept h ..
  | .slli .. => execSlli_kept h ..
  | .srli .. => execSrli_kept h ..
  | .srai .. => execSrai_kept h ..
  | .slt .. => execSlt_kept h ..
  | .sltu .. => execSltu_kept h ..
  | .mul .. => execMul_kept h ..
  | .mulh .. => execMulh_kept h ..
  | .mulhu .. => execMulhu_kept h ..
  | .min .. => execMin_kept h ..
  | .max .. => execMax_kept h ..
  | .minu .. => execMinu_kept h ..
  | .maxu .. => execMaxu_kept h ..
  | .clz .. => execClz_kept h ..
  | .popc .. => execPopc_kept h ..
  | .bswap .. => execBswap_kept h ..
  | .addi .. => execAddi_kept h ..
  | .andi .. => execAndi_kept h ..
  | .ori .. => execOri_kept h ..
  | .xori .. => execXori_kept h ..
  | .lui .. => execLui_kept h ..
  | .ld .. => execLd_kept h ..
  | .st .. => execSt_kept h ..
  | .movaToA .. => execMovaToA_kept h ..
  | .movaFromA .. => execMovaFromA_kept h ..
  | .adda .. => execAdda_kept h ..
  | .atomAdd .. => execAtomAdd_kept h ..
  | .atomMin .. => execAtomMin_kept h ..
  | .atomMax .. => execAtomMax_kept h ..
  | .atomCas .. => execAtomCas_kept h ..
  | .fld .. => execFld_kept h ..
  | .fst .. => execFst_kept h ..
  | .fabAdd .. => execFabAdd_kept h ..
  | .fabMin .. => execFabMin_kept h ..
  | .fabMax .. => execFabMax_kept h ..
  | .fabCas .. => execFabCas_kept h ..
  | .br .. => execBr_kept h ..
  | .j .. => execJ_kept h ..
  | .jal .. => execJal_kept h ..
  | .jalr .. => execJalr_kept h ..
  | .cvt .. => execCvt_kept h ..
  | .cmul .. => execCmul_kept h ..
  | .cmac .. => execCmac_kept h ..
  | .cmsu .. => execCmsu_kept h ..
  | .cmulj .. => execCmulj_kept h ..
  | .cmacj .. => execCmacj_kept h ..
  | .cmsuj .. => execCmsuj_kept h ..
  | .rmacMul .. => execRmacMul_kept h ..
  | .rmacMac .. => execRmacMac_kept h ..
  | .rmacMsu .. => execRmacMsu_kept h ..
  | .wmacMul .. => execWmacMul_kept h ..
  | .wmacMac .. => execWmacMac_kept h ..
  | .wmacMsu .. => execWmacMsu_kept h ..
  | .ftap .. => execFtap_kept h ..
  | .accClr th ad wide => execAccClr_kept h th ad wide
  | .accMov .. => execAccMov_kept h ..
  | .accAdd .. => execAccAdd_kept h ..
  | .accNeg .. => execAccNeg_kept h ..
  | .accShl .. => execAccShl_kept h ..
  | .accShr .. => execAccShr_kept h ..
  | .accSwap .. => execAccSwap_kept h ..
  | .accConj .. => execAccConj_kept h ..
  | .stac .. => execStac_kept h ..
  | .mvac .. => execMvac_kept h ..
  | .mtac th ad rs fmt rm sh => execMtac_kept h th ad rs fmt rm sh
  | .rpt .. => execRpt_kept h ..
  | .cbset .. => execCbset_kept h ..
  | .mtcb .. => execMtcb_kept h ..
  | .mtcl .. => execMtcl_kept h ..
  | .mfcb .. => execMfcb_kept h ..
  | .mfcl .. => execMfcl_kept h ..
  | .cbget .. => execCbget_kept h ..
  | .mtlc .. => execMtlc_kept h ..
  | .mflc .. => execMflc_kept h ..
  | .gcbRgnWrite .. => execGcbRgnWrite_kept h ..
  | .spurSubstitution .. => execSpurSubstitution_kept h ..
  | .spareSubstitutionCommit .. => execSpareSubstitutionCommit_kept h ..
  | .spareLossReproof .. => execSpareLossReproof_kept h ..
  | .nocPacket .. => execNocPacket_kept h ..
  | .nocTimeout .. => execNocTimeout_kept h ..
  | .dmaTransferStart .. => execDmaTransferStart_kept h ..
  | .dmaTransferEnd .. => execDmaTransferEnd_kept h ..
  | .sramScrub .. => execSramScrub_kept h ..
  | .dramPatrol .. => execDramPatrol_kept h ..
  | .channelLost .. => execChannelLost_kept h ..
  | .routerFailure .. => execRouterFailure_kept h ..
  | .keyLoad .. => execKeyLoad_kept h ..
  | .cmpTimerFire .. => execCmpTimerFire_kept h ..
  | .cmpTargetWrite .. => execCmpTargetWrite_kept h ..
  | .cmpEnableWrite .. => execCmpEnableWrite_kept h ..
  | .srcSelWrite .. => execSrcSelWrite_kept h ..
  | .forceHoldover .. => execForceHoldover_kept h ..
  | .stepArm .. => execStepArm_kept h ..
  | .timeSnapshot .. => execTimeSnapshot_kept h ..
  | .syncReceived .. => execSyncReceived_kept h ..
  | .timeStep => execTimeStep_kept h
  | .announceReceived .. => execAnnounceReceived_kept h ..
  | .announceTimeout .. => execAnnounceTimeout_kept h ..
  | .syncTimeout => execSyncTimeout_kept h
  | .holdLimitExceeded => execHoldLimitExceeded_kept h
  | .refuseFault => execRefuseFault_kept h
  | .ptpMasterTx .. => execPtpMasterTx_kept h ..
  | .esmcReceived .. => execEsmcReceived_kept h ..
  | .synceLoss => execSynceLoss_kept h
  | .ppsInEdge .. => execPpsInEdge_kept h ..
  | .ppsOutPulse => execPpsOutPulse_kept h
  | .lockWaitExpiry => execLockWaitExpiry_kept h
  | .cellStart .. => execCellStart_kept h ..
  | .slotMessage .. => execSlotMessage_kept h ..
  | .indicationPost .. => execIndicationPost_kept h ..
  | .harqHoldExpiry .. => execHarqHoldExpiry_kept h ..
  | .cellLockEffect .. => execCellLockEffect_kept h ..
  | .cellUnlockEffect .. => execCellUnlockEffect_kept h ..
  | .frameReceived .. => execFrameReceived_kept h ..
  | .delayMeasurementMsg .. => execDelayMeasurementMsg_kept h ..
  | .dmStart .. => execDmStart_kept h ..
  | .dmTimeout .. => execDmTimeout_kept h ..
  | .ulWindowClose .. => execUlWindowClose_kept h ..
  | .fhFrameSend .. => execFhFrameSend_kept h ..
  | .fhTxWindowExpiry .. => execFhTxWindowExpiry_kept h ..
  | .fhLinkUp .. => execFhLinkUp_kept h ..
  | .fhLinkDown .. => execFhLinkDown_kept h ..
  | .peerMacWrite .. => execPeerMacWrite_kept h ..
  | .maskMeasurement .. => execMaskMeasurement_kept h ..
  | .maskMuteClear .. => execMaskMuteClear_kept h ..
  | .dfeSnapshot .. => execDfeSnapshot_kept h ..
  | .seqWrite .. => execSeqWrite_kept h ..
  | .dfeCfgWrite .. => execDfeCfgWrite_kept h ..
  | .passCommit .. => execPassCommit_kept h ..
  | .prefixLookup .. => execPrefixLookup_kept h ..
  | .spillCommit .. => execSpillCommit_kept h ..
  | .pageWaitExhausted .. => execPageWaitExhausted_kept h ..
  | .peerSpillCommit .. => execPeerSpillCommit_kept h ..
  | .moveCommit .. => execMoveCommit_kept h ..
  | .roleChange .. => execRoleChange_kept h ..
  | .cancellationApply .. => execCancellationApply_kept h ..
  | .sequenceFreeze .. => execSequenceFreeze_kept h ..
  | .sequenceEnd .. => execSequenceEnd_kept h ..
  | .scopeKeyReplace .. => execScopeKeyReplace_kept h ..
  | .energyInterval .. => execEnergyInterval_kept h ..
  | .deltaActivate .. => execDeltaActivate_kept h ..
  | .deltaFreeing .. => execDeltaFreeing_kept h ..
  | .deltaSlotFree .. => execDeltaSlotFree_kept h ..
  | .shardMoveSwitch .. => execShardMoveSwitch_kept h ..
  | .shardMoveRelease => execShardMoveRelease_kept h
  | .linkTrained .. => execLinkTrained_kept h ..
  | .linkRetrainTimer .. => execLinkRetrainTimer_kept h ..
  | .laneFailure .. => execLaneFailure_kept h ..
  | .linkRetrainEnd .. => execLinkRetrainEnd_kept h ..
  | .linkAuthAccept .. => execLinkAuthAccept_kept h ..
  | .linkAuthTimeout .. => execLinkAuthTimeout_kept h ..
  | .dataFlit .. => execDataFlit_kept h ..
  | .nak .. => execNak_kept h ..
  | .ackTimeout .. => execAckTimeout_kept h ..
  | .rekey .. => execRekey_kept h ..
  | .epochRollover .. => execEpochRollover_kept h ..
  | .ldRecord .. => execLdRecord_kept h ..
  | .stRecord .. => execStRecord_kept h ..
  | .addRecord .. => execAddRecord_kept h ..
  | .minRecord .. => execMinRecord_kept h ..
  | .maxRecord .. => execMaxRecord_kept h ..
  | .casRecord .. => execCasRecord_kept h ..
  | .msgRecord .. => execMsgRecord_kept h ..
  | .ldRsp .. => execLdRsp_kept h ..
  | .stAck .. => execStAck_kept h ..
  | .atomRsp .. => execAtomRsp_kept h ..
  | .msgAck .. => execMsgAck_kept h ..
  | .e2eTimeout .. => execE2eTimeout_kept h ..
  | .memberFailedMark .. => execMemberFailedMark_kept h ..
  | .collectiveEnd .. => execCollectiveEnd_kept h ..
  | .peerSnapshot .. => execPeerSnapshot_kept h ..
  | .sqTailDoorbell .. => execSqTailDoorbell_kept h ..
  | .cqHeadDoorbell .. => execCqHeadDoorbell_kept h ..
  | .ringConfigWrite .. => execRingConfigWrite_kept h ..
  | .noticePost .. => execNoticePost_kept h ..
  | .coalTimerExpiry .. => execCoalTimerExpiry_kept h ..
  | .generate .. => execGenerate_kept h ..
  | .cancel .. => execCancel_kept h ..
  | .freezeSeq .. => execFreezeSeq_kept h ..
  | .thaw .. => execThaw_kept h ..
  | .querySeq .. => execQuerySeq_kept h ..
  | .copy .. => execCopy_kept h ..
  | .regionSet .. => execRegionSet_kept h ..
  | .acctRead .. => execAcctRead_kept h ..
  | .deltaLoad .. => execDeltaLoad_kept h ..
  | .deltaRetire .. => execDeltaRetire_kept h ..
  | .deltaQuery .. => execDeltaQuery_kept h ..
  | .nop .. => execNop_kept h ..
  | .sliceBind .. => execSliceBind_kept h ..
  | .sliceUnbind .. => execSliceUnbind_kept h ..
  | .sliceFreeze .. => execSliceFreeze_kept h ..
  | .sliceFreezeComplete .. => execSliceFreezeComplete_kept h ..
  | .sliceThaw .. => execSliceThaw_kept h ..
  | .sliceSave .. => execSliceSave_kept h ..
  | .sliceRestore .. => execSliceRestore_kept h ..
  | .groupCreate .. => execGroupCreate_kept h ..
  | .groupAddSlice .. => execGroupAddSlice_kept h ..
  | .groupRemoveSlice .. => execGroupRemoveSlice_kept h ..
  | .groupDissolve .. => execGroupDissolve_kept h ..
  | .modelLoad .. => execModelLoad_kept h ..
  | .modelUnload .. => execModelUnload_kept h ..
  | .cellLock .. => execCellLock_kept h ..
  | .cellUnlock .. => execCellUnlock_kept h ..
  | .cellPriority .. => execCellPriority_kept h ..
  | .cellTxAtten .. => execCellTxAtten_kept h ..
  | .cellStatus .. => execCellStatus_kept h ..
  | .domainJoin .. => execDomainJoin_kept h ..
  | .domainListAdd .. => execDomainListAdd_kept h ..
  | .domainListRemove .. => execDomainListRemove_kept h ..
  | .routeSet .. => execRouteSet_kept h ..
  | .negotiate .. => execNegotiate_kept h ..
  | .heartbeat .. => execHeartbeat_kept h ..
  | .heartbeatTimeout .. => execHeartbeatTimeout_kept h ..
  | .ctlHeartbeatTimeout => execCtlHeartbeatTimeout_kept h
  | .attach .. => execAttach_kept h ..
  | .graceExpiry .. => execGraceExpiry_kept h ..
  | .scrubEnd .. => execScrubEnd_kept h ..
  | .acctSnapshot .. => execAcctSnapshot_kept h ..
  | .kvSnapshot .. => execKvSnapshot_kept h ..
  | .wdKick .. => execWdKick_kept h ..
  | .watchdogExpiry .. => execWatchdogExpiry_kept h ..
  | .fwException .. => execFwException_kept h ..
  | .fwSramUe .. => execFwSramUe_kept h ..
  | .restartTimeout .. => execRestartTimeout_kept h ..
  | .fwReady .. => execFwReady_kept h ..
  | .leadershipPass => execLeadershipPass_kept h
  | .release .. => execRelease_kept h ..
  | .restartReq .. => execRestartReq_kept h ..
  | .bootSlotWrite .. => execBootSlotWrite_kept h ..
  | .confirm .. => execConfirm_kept h ..
  | .startupStep1 .. => execStartupStep1_kept h ..
  | .startupStep2 .. => execStartupStep2_kept h ..
  | .startupStep3 .. => execStartupStep3_kept h ..
  | .startupStep4 .. => execStartupStep4_kept h ..
  | .startupStep5 .. => execStartupStep5_kept h ..
  | .startupStep6 .. => execStartupStep6_kept h ..
  | .startupStep7 .. => execStartupStep7_kept h ..
  | .coreWave .. => execCoreWave_kept h ..
  | .waveRetry .. => execWaveRetry_kept h ..
  | .startupStep8 .. => execStartupStep8_kept h ..
  | .startupStep9 .. => execStartupStep9_kept h ..
  | .startupStep10 .. => execStartupStep10_kept h ..
  | .startupStep11 .. => execStartupStep11_kept h ..
  | .devRst .. => execDevRst_kept h ..
  | .wholeDeviceReset => execWholeDeviceReset_kept h
  | .perstAssert => execPerstAssert_kept h
  | .resetNAssert => execResetNAssert_kept h
  | .resetDeassert .. => execResetDeassert_kept h ..
  | .partRst .. => execPartRst_kept h ..
  | .clRst .. => execClRst_kept h ..
  | .resetPhaseEnd .. => execResetPhaseEnd_kept h ..
  | .coreRst .. => execCoreRst_kept h ..
  | .spurRst .. => execSpurRst_kept h ..
  | .slotRst .. => execSlotRst_kept h ..
  | .posRst .. => execPosRst_kept h ..
  | .defectMapWrite => execDefectMapWrite_kept h
  | .powerDomainSwitchOn .. => execPowerDomainSwitchOn_kept h ..
  | .powerDomainSwitchOff .. => execPowerDomainSwitchOff_kept h ..
  | .getVersion .. => execGetVersion_kept h ..
  | .getCapabilities .. => execGetCapabilities_kept h ..
  | .negotiateAlgorithms .. => execNegotiateAlgorithms_kept h ..
  | .getDigests .. => execGetDigests_kept h ..
  | .getCertificate .. => execGetCertificate_kept h ..
  | .challenge .. => execChallenge_kept h ..
  | .getMeasurements .. => execGetMeasurements_kept h ..
  | .vendorMldsaSignature .. => execVendorMldsaSignature_kept h ..
  | .vendorMldsaChain .. => execVendorMldsaChain_kept h ..
  | .mctpControl .. => execMctpControl_kept h ..
  | .pldmMonitoring .. => execPldmMonitoring_kept h ..
  | .requestUpdate .. => execRequestUpdate_kept h ..
  | .pldmComponentImage .. => execPldmComponentImage_kept h ..
  | .pldmComponentSection .. => execPldmComponentSection_kept h ..
  | .pldmComponentDcr .. => execPldmComponentDcr_kept h ..
  | .hello .. => execHello_kept h ..
  | .unlock .. => execUnlock_kept h ..
  | .lock .. => execLock_kept h ..
  | .status .. => execStatus_kept h ..
  | .speed .. => execSpeed_kept h ..
  | .debugHalt .. => execDebugHalt_kept h ..
  | .resume .. => execResume_kept h ..
  | .step .. => execStep_kept h ..
  | .bpSet .. => execBpSet_kept h ..
  | .bpClr .. => execBpClr_kept h ..
  | .regRd .. => execRegRd_kept h ..
  | .regWr .. => execRegWr_kept h ..
  | .memRd .. => execMemRd_kept h ..
  | .memWr .. => execMemWr_kept h ..
  | .lockoutExpiry => execLockoutExpiry_kept h
  | .sensorSample .. => execSensorSample_kept h ..
  | .powerClamp .. => execPowerClamp_kept h ..
  | .thermalClamp .. => execThermalClamp_kept h ..
  | .clampClear .. => execClampClear_kept h ..
  | .thermalTrip .. => execThermalTrip_kept h ..
  | .inputOvercurrentTrip .. => execInputOvercurrentTrip_kept h ..
  | .domainOvercurrentTrip .. => execDomainOvercurrentTrip_kept h ..
  | .converterFault .. => execConverterFault_kept h ..
  | .underVoltage .. => execUnderVoltage_kept h ..
  | .overVoltage .. => execOverVoltage_kept h ..
  | .eventLogNorWrite .. => execEventLogNorWrite_kept h ..
  | .ppsInTimeout => execPpsInTimeout_kept h
  | .coreResetEnd .. => execCoreResetEnd_kept h ..
  | .debugFrameError => execDebugFrameError_kept h
  | .idleFlit .. => execIdleFlit_kept h ..
  | .ptpRequestReceived .. => execPtpRequestReceived_kept h ..
  | .esmcTx => execEsmcTx_kept h

/-- A step takes the front command off the queue, runs it, and keeps the canonical form; an idle cycle keeps it too. -/
theorem step_kept (h : Kept Q none s) : ∃ R, Keeps R none (step s) := by
  unfold step
  split
  · exact ⟨Q, Keeps.next (State.clockCycle_kept h)⟩
  case _ c rest _ =>
    have hrest : Kept rest none (s.withPending rest) := ⟨rfl, h.2⟩
    exact ⟨rest, exec_kept hrest c⟩

end Sys2Proof.Machine

open Sys2Proof Sys2Proof.Machine Sys2Proof.Safety in
/-- Settles O59: every command and the idle clock cycle keep the canonical form (Laws/Keep*.lean). -/
theorem everyStepKeepsTheCanonicalForm : Obligations.EveryStepKeepsTheCanonicalForm := by
  intro s t ⟨hregs, hmem, hhost⟩ hstep
  have hs : Kept s.pending none s := ⟨rfl, hregs, hmem, hhost, by simp⟩
  obtain ⟨R, u, hu, _, hregs', hmem', hhost', _⟩ := step_kept hs
  rw [hu] at hstep
  cases hstep
  exact ⟨hregs', hmem', hhost'⟩

open Sys2Proof Sys2Proof.Machine Sys2Proof.Safety in
/-- Before power TICK.BANK_BASE[1] reads its column's value and one bank further (R95). -/
theorem rd_reset_tickBankBase_one :
    State.reset.rd F.TICK_BANK_BASE.base 1 = F.TICK_BANK_BASE.base.reset + 0x200000 := by decide +kernel

open Sys2Proof Sys2Proof.Machine Sys2Proof.Safety in
/-- Refutes O60: the reset value of TICK.BANK_BASE[p] depends on p (R95), so element 1 does not read the field's Reset column. -/
theorem not_resetIsCanonicalAtTheResetColumn : ¬ Obligations.ResetIsCanonicalAtTheResetColumn := by
  rintro ⟨-, -, -, -, hcolumn, -⟩
  have hkey : ∀ j : Fin 11, F.TICK_BANK_BASE.base.key 1 ≠ F.FW_PROC_STAT.pstate.key j := by decide
  have hread := hcolumn F.TICK_BANK_BASE.base 1 hkey
  rw [rd_reset_tickBankBase_one] at hread
  omega

/-! SUPPORT. Fields that lie apart: their bit addresses differ modulo the strides, whatever the elements. -/

namespace Sys2Proof.Machine

/-- The bit address of a field's element, modulo a number of bytes that divides its stride. -/
theorem Field.key_mod (f : Field) {m : Nat} (h : m ∣ f.stride) (i : Nat) : f.key i % (8 * m) = (8 * f.base + f.lo) % (8 * m) := by
  obtain ⟨k, hk⟩ := h
  have hkey : f.key i = 8 * f.base + f.lo + 8 * m * (k * i) := by
    simp only [Field.key, hk]
    ring
  rw [hkey, Nat.add_mul_mod_self_left]

/-- The first bit addresses of `g` and `f` differ modulo their strides, so that no two elements share a bit address. -/
def Field.apart (g f : Field) : Bool :=
  (8 * g.base + g.lo) % (8 * g.stride.gcd f.stride) != (8 * f.base + f.lo) % (8 * g.stride.gcd f.stride)

theorem Field.key_ne_of_apart {g f : Field} (h : g.apart f = true) (j i : Nat) : g.key j ≠ f.key i := by
  intro e
  have hmod : (8 * g.base + g.lo) % (8 * g.stride.gcd f.stride) = (8 * f.base + f.lo) % (8 * g.stride.gcd f.stride) := by
    rw [← g.key_mod (Nat.gcd_dvd_left _ _) j, ← f.key_mod (Nat.gcd_dvd_right _ _) i, e]
  simp [Field.apart, hmod] at h

variable (s : State)

/-- A write leaves a field apart from the written one alone. -/
theorem State.rd_put_apart {g f : Field} (h : g.apart f = true) (v i j : Nat) : (s.put f v i).rd g j = s.rd g j :=
  s.rd_put_ne (Field.key_ne_of_apart h j i)

/-- A bit that is written reads as written. -/
theorem b2n_mod_two (b : Bool) : b2n b % 2 = b2n b := by cases b <;> rfl

theorem b2n_ne_zero (b : Bool) : (b2n b != 0) = b := by cases b <;> rfl

theorem State.on_eq_true_of_rd {f : Field} {i : Nat} (h : s.rd f i = 1) : s.on f i = true := by simp [State.on, h]

theorem State.on_eq_false_of_rd {f : Field} {i : Nat} (h : s.rd f i = 0) : s.on f i = false := by simp [State.on, h]

end Sys2Proof.Machine

/-! SUPPORT. Device time: the states of the servo, and that its operations touch the time block and device time alone. -/

namespace Sys2Proof.Machine

open Sys2Proof.Safety

variable {s t : State} {l : List (Field × Nat)}

/-! ## The frame of the time block -/

/-- Only register fields of `l` and device time changed. -/
def OnlyTime (s t : State) (l : List (Field × Nat)) : Prop := Only s t l (·.withTime t.time)

theorem onlyTime_refl (s : State) (l : List (Field × Nat)) : OnlyTime s s l := ⟨rfl, regsSame_refl s l⟩

theorem onlyTime_trans {r : State} (h : OnlyTime r s l) (k : OnlyTime s t l) : OnlyTime r t l :=
  ⟨by rw [k.1, h.1]; rfl, regsSame_trans h.2 k.2⟩

theorem onlyTime_setTime (h : OnlyTime s t l) (v : TimeState) : OnlyTime s (t.setTime v) l :=
  ⟨by rw [h.1]; rfl, regsSame_withTime h.2 v⟩

theorem onlyTime_put (h : OnlyTime s t l) {f : Field} {i : Nat} (m : (f, i) ∈ l) (v : Nat) : OnlyTime s (t.put f v i) l :=
  ⟨by rw [h.1]; rfl, regsSame_put h.2 m v⟩

theorem onlyTime_clearLock (h : OnlyTime s t l) : OnlyTime s t.clearLock l := onlyTime_setTime h _

/-- A command that carries an instant leaves the clock or sets it. -/
theorem State.atNs_cases (s : State) (ns : Nat) : s.atNs ns = s ∨ ∃ n, s.atNs ns = s.setNowNs n := by
  unfold State.atNs
  extract_lets n
  by_cases h : n ≤ s.nowNs
  · exact .inl (if_pos h)
  · exact .inr ⟨n, if_neg h⟩

theorem onlyTime_atNs (h : OnlyTime s t l) (ns : Nat) : OnlyTime s (t.atNs ns) l := by
  rcases t.atNs_cases ns with e | ⟨n, e⟩ <;> rw [e]
  · exact h
  · exact onlyTime_setTime h _

/-! ## The servo -/

theorem State.enterNominal_time (s : State) (v : Nat) : (s.enterNominal v).time = { s.time with
    lockRun := [], locked := false, pending := none, holdSince := none, refuseSince := none, degraded := false } := rfl

theorem State.enterNominal_state (s : State) (v : Nat) : (s.enterNominal v).rd F.TIME_STAT.state = v % 8 := by
  simp (disch := decide) [State.enterNominal, State.clearLock, State.setTime, State.setServo, State.putS, State.rd_put_apart,
    State.rd_put_same]
  rfl

theorem State.enterNominal_rate (s : State) (v : Nat) : (s.enterNominal v).rd F.TIME_OFFSET.rate = 0 := by
  simp [State.enterNominal, State.setTime, State.putS, State.rd_put_same, ofSigned]

/-- FREERUN and ACQUIRING are entered with the state and the rate alone. -/
theorem State.rd_enterNominal (s : State) (v : Nat) {g : Field} (hs : g.apart F.TIME_STAT.state = true)
    (hr : g.apart F.TIME_OFFSET.rate = true) (j : Nat) : (s.enterNominal v).rd g j = s.rd g j := by
  simp [State.enterNominal, State.clearLock, State.setTime, State.setServo, State.putS, State.rd_put_apart, hs, hr]

theorem onlyTime_enterNominal (h : OnlyTime s t l) (v : Nat) (hs : (F.TIME_STAT.state, 0) ∈ l) (hr : (F.TIME_OFFSET.rate, 0) ∈ l) :
    OnlyTime s (t.enterNominal v) l :=
  onlyTime_setTime (onlyTime_put (onlyTime_put (onlyTime_clearLock h) hs _) hr _) _

/-- HOLDOVER is entered once: a servo that is in it keeps everything. -/
theorem State.enterHoldover_of_holdover (h : s.servo = 3) : s.enterHoldover = s := by
  unfold State.enterHoldover
  exact if_pos h

/-- The rate that HOLDOVER keeps (R54). -/
def State.freezeRate (s : State) : State :=
  match heldRate s.time.rates with
  | some r => s.putS F.TIME_OFFSET.rate r
  | none => s

theorem State.enterHoldover_of_ne (h : s.servo ≠ 3) : s.enterHoldover =
    ((s.freezeRate.clearLock.setServo holdover).setTime { s.clearLock.time with holdSince := some s.nowNs }) := by
  unfold State.enterHoldover State.freezeRate
  refine (if_neg h).trans ?_
  cases heldRate s.time.rates <;> rfl

theorem State.rd_freezeRate (s : State) {g : Field} (hr : g.apart F.TIME_OFFSET.rate = true) (j : Nat) :
    s.freezeRate.rd g j = s.rd g j := by
  unfold State.freezeRate
  split
  · exact s.rd_put_apart hr _ _ _
  · rfl

theorem State.enterHoldover_state (s : State) : s.enterHoldover.rd F.TIME_STAT.state = 3 := by
  by_cases h : s.servo = 3
  · rw [State.enterHoldover_of_holdover h]
    exact h
  · rw [State.enterHoldover_of_ne h]
    exact State.rd_put_same s.freezeRate.clearLock F.TIME_STAT.state holdover 0

/-- HOLDOVER is entered with the state and the rate alone. -/
theorem State.rd_enterHoldover (s : State) {g : Field} (hs : g.apart F.TIME_STAT.state = true)
    (hr : g.apart F.TIME_OFFSET.rate = true) (j : Nat) : s.enterHoldover.rd g j = s.rd g j := by
  by_cases h : s.servo = 3
  · rw [State.enterHoldover_of_holdover h]
  · rw [State.enterHoldover_of_ne h]
    calc _ = s.freezeRate.rd g j := s.freezeRate.clearLock.rd_put_apart hs holdover 0 j
      _ = s.rd g j := s.rd_freezeRate hr j

theorem State.enterHoldover_time (h : s.servo ≠ 3) : s.enterHoldover.time = { s.time with
    lockRun := [], locked := false, pending := none, holdSince := some s.nowNs } := by
  rw [State.enterHoldover_of_ne h]
  rfl

theorem onlyTime_enterHoldover (h : OnlyTime s t l) (hs : (F.TIME_STAT.state, 0) ∈ l) (hr : (F.TIME_OFFSET.rate, 0) ∈ l) :
    OnlyTime s t.enterHoldover l := by
  by_cases ht : t.servo = 3
  · rwa [State.enterHoldover_of_holdover ht]
  · rw [State.enterHoldover_of_ne ht]
    have hf : OnlyTime s t.freezeRate l := by
      unfold State.freezeRate
      split
      · exact onlyTime_put h hr _
      · exact h
    exact onlyTime_setTime (onlyTime_put (onlyTime_clearLock hf) hs _) _

/-- A source that is lost after the first step leaves the servo in HOLDOVER (R51, R55). -/
theorem State.sourceLost_of_stepped (h : s.servo = 2) (hs : s.rd F.TIME_STAT.stepped = 1) : s.sourceLost = s.enterHoldover := by
  rw [State.sourceLost, if_pos (.inl h), if_pos (s.on_eq_true_of_rd hs)]

/-- Before the first step it leaves the servo in FREERUN. -/
theorem State.sourceLost_of_acquiring (h : s.servo = 1) (hs : s.rd F.TIME_STAT.stepped = 0) : s.sourceLost = s.enterNominal freerun := by
  rw [State.sourceLost, if_pos (.inr h), s.on_eq_false_of_rd hs]
  rfl

/-! ## The choice of a source (R49) -/

/-- A new source restarts lock detection; what the servo does next depends on the source and on the first step. -/
def State.leaveSource (s : State) (v : Nat) : State := (s.put F.TIME_CTRL.src_sel v).clearLock.showSynce

theorem State.changeSource_to_two (h : s.srcSel ≠ 2) : s.changeSource 2 = (s.leaveSource 2).enterNominal freerun := by
  rw [State.changeSource, if_neg h]
  rfl

theorem State.rd_leaveSource (s : State) (v : Nat) {g : Field} (h1 : g.apart F.TIME_CTRL.src_sel = true)
    (h2 : g.apart F.TIME_STAT.synce_ok = true) (j : Nat) : (s.leaveSource v).rd g j = s.rd g j :=
  (State.rd_put_apart _ h2 _ _ _).trans (s.rd_put_apart h1 v 0 j)

theorem State.leaveSource_srcSel (s : State) {v : Nat} (hv : v < 4) : (s.leaveSource v).rd F.TIME_CTRL.src_sel = v :=
  calc (s.leaveSource v).rd F.TIME_CTRL.src_sel = (s.put F.TIME_CTRL.src_sel v).rd F.TIME_CTRL.src_sel :=
        State.rd_put_apart _ (by decide) _ _ _
    _ = v % 2 ^ 2 := s.rd_put_same _ _ _
    _ = v := Nat.mod_eq_of_lt hv

theorem State.changeSource_to_other {v : Nat} (h : s.srcSel ≠ v) (hv : v ≠ 2) : s.changeSource v =
    if s.on F.TIME_STAT.stepped then (s.leaveSource v).enterHoldover else (s.leaveSource v).enterNominal acquiring := by
  have hstep : (s.leaveSource v).on F.TIME_STAT.stepped = s.on F.TIME_STAT.stepped := by
    rw [State.on, State.on, s.rd_leaveSource v (by decide) (by decide)]
  rw [State.changeSource, if_neg h, ← hstep]
  exact if_neg hv

theorem onlyTime_leaveSource (h : OnlyTime s t l) (v : Nat) (hv : (F.TIME_CTRL.src_sel, 0) ∈ l) (ho : (F.TIME_STAT.synce_ok, 0) ∈ l) :
    OnlyTime s (t.leaveSource v) l :=
  onlyTime_put (onlyTime_clearLock (onlyTime_put h hv _)) ho _

end Sys2Proof.Machine

/-! SUPPORT. Source choice, masters and holdover, one command at a time (R49–R62). -/

namespace Sys2Proof.Machine

open Sys2Proof.Safety

variable {s : State}

/-- The fields that a change of the servo's state writes. -/
def servoFields : List (Field × Nat) := [(F.TIME_STAT.state, 0), (F.TIME_OFFSET.rate, 0)]

/-- Entering HOLDOVER leaves no step that waits, if none waited before. -/
theorem State.enterHoldover_pending (h : s.time.pending = none) : s.enterHoldover.time.pending = none := by
  by_cases hs : s.servo = 3
  · rwa [State.enterHoldover_of_holdover hs]
  · rw [State.enterHoldover_time hs]

/-- The servo after a change of source (R49): FREERUN with source 2, otherwise ACQUIRING before the first step and HOLDOVER
after it. Of the registers that leaving the old source left, only the servo's own change. -/
theorem State.changeSource_effect {sel : Nat} (h : s.srcSel ≠ sel) :
    (∀ g : Field, g.apart F.TIME_STAT.state = true → g.apart F.TIME_OFFSET.rate = true →
      (s.changeSource sel).rd g = (s.leaveSource sel).rd g) ∧
    (s.changeSource sel).rd F.TIME_STAT.state = (if sel = 2 then 0 else if s.rd F.TIME_STAT.stepped = 0 then 1 else 3) ∧
    (sel = 2 ∨ s.rd F.TIME_STAT.stepped = 0 → (s.changeSource sel).rd F.TIME_OFFSET.rate = 0) ∧
    (s.changeSource sel).time.pending = none ∧
    ∀ {r l}, OnlyTime r (s.leaveSource sel) l → (∀ x ∈ servoFields, x ∈ l) → OnlyTime r (s.changeSource sel) l := by
  by_cases h2 : sel = 2
  · subst h2
    rw [State.changeSource_to_two h]
    exact ⟨fun g hs hr => State.rd_enterNominal _ _ hs hr 0, State.enterNominal_state _ _, fun _ => State.enterNominal_rate _ _, rfl,
      fun ho hl => onlyTime_enterNominal ho _ (hl _ (by simp [servoFields])) (hl _ (by simp [servoFields]))⟩
  · rw [State.changeSource_to_other h h2]
    by_cases hs : s.rd F.TIME_STAT.stepped = 0
    · rw [s.on_eq_false_of_rd hs, if_neg h2, if_pos hs]
      exact ⟨fun g hs hr => State.rd_enterNominal _ _ hs hr 0, State.enterNominal_state _ _, fun _ => State.enterNominal_rate _ _, rfl,
        fun ho hl => onlyTime_enterNominal ho _ (hl _ (by simp [servoFields])) (hl _ (by simp [servoFields]))⟩
    · rw [if_pos (by simpa [State.on] using hs), if_neg h2, if_neg hs]
      exact ⟨fun g hs hr => State.rd_enterHoldover _ hs hr 0, State.enterHoldover_state _, by simp [h2, hs],
        State.enterHoldover_pending rfl,
        fun ho hl => onlyTime_enterHoldover ho (hl _ (by simp [servoFields])) (hl _ (by simp [servoFields]))⟩

/-! ## TIME.CTRL -/

/-- SRC_SEL_WRITE has written `synce_en`; the source is still the old one. -/
def State.enableSynce (s : State) (en : Bool) : State := (s.put F.TIME_CTRL.synce_en (b2n en)).showSynce

theorem exec_srcSelWrite {wr : Writer} {sel : Fin 4} (hI : s.isI = false) (hw : s.mayWrite wr F.TIME_CTRL.src_sel 0 = true)
    (h3 : sel ≠ 3) (en : Bool) : exec (.srcSelWrite wr sel en) s = .next ((s.enableSynce en).changeSource sel.val) := by
  have h3' : sel.val ≠ 3 := fun e => h3 (Fin.ext e)
  show execSrcSelWrite wr sel en s = _
  simp [execSrcSelWrite, hI, hw, h3', State.enableSynce]

theorem State.rd_enableSynce (s : State) (en : Bool) {g : Field} (h1 : g.apart F.TIME_CTRL.synce_en = true)
    (h2 : g.apart F.TIME_STAT.synce_ok = true) (j : Nat) : (s.enableSynce en).rd g j = s.rd g j := by
  simp [State.enableSynce, State.showSynce, State.rd_put_apart, h1, h2]

/-- What SRC_SEL_WRITE has written before the servo changes its state. -/
theorem State.leaveSource_enableSynce (s : State) (en : Bool) {sel : Nat} (hsel : sel < 4) :
    ((s.enableSynce en).leaveSource sel).rd F.TIME_CTRL.src_sel = sel ∧
      ((s.enableSynce en).leaveSource sel).rd F.TIME_CTRL.synce_en = b2n en ∧
      ((s.enableSynce en).leaveSource sel).rd F.TIME_STAT.synce_ok = b2n (s.time.synceValid && en && sel == 0) := by
  let u := ((s.enableSynce en).put F.TIME_CTRL.src_sel sel).clearLock
  have hsrc : u.rd F.TIME_CTRL.src_sel = sel :=
    ((s.enableSynce en).rd_put_same F.TIME_CTRL.src_sel sel 0).trans (Nat.mod_eq_of_lt hsel)
  have hen : u.rd F.TIME_CTRL.synce_en = b2n en :=
    calc u.rd F.TIME_CTRL.synce_en = (s.enableSynce en).rd F.TIME_CTRL.synce_en := State.rd_put_apart _ (by decide) _ _ _
      _ = (s.put F.TIME_CTRL.synce_en (b2n en)).rd F.TIME_CTRL.synce_en := State.rd_put_apart _ (by decide) _ _ _
      _ = b2n en % 2 := s.rd_put_same _ _ _
      _ = b2n en := b2n_mod_two en
  have hok : u.onSynce = (s.time.synceValid && en && sel == 0) := by
    rw [State.onSynce, State.on, hen, b2n_ne_zero, State.srcSel, hsrc]
    rfl
  refine ⟨(u.rd_put_apart (by decide) _ _ _).trans hsrc, (u.rd_put_apart (by decide) _ _ _).trans hen, ?_⟩
  calc u.showSynce.rd F.TIME_STAT.synce_ok = b2n u.onSynce % 2 := u.rd_put_same _ _ _
    _ = _ := by rw [b2n_mod_two, hok]

theorem srcSelWrite_effect {wr : Writer} {sel : Fin 4} (hI : s.isI = false) (hw : s.mayWrite wr F.TIME_CTRL.src_sel 0 = true)
    (hsel : s.srcSel ≠ sel.val) (h3 : sel ≠ 3) (en : Bool) :
    ∃ t, exec (.srcSelWrite wr sel en) s = .next t ∧ t.rd F.TIME_CTRL.src_sel = sel.val ∧
      t.rd F.TIME_CTRL.synce_en = b2n en ∧ t.rd F.TIME_STAT.synce_ok = b2n (s.time.synceValid && en && sel.val == 0) ∧
      (sel = 2 → t.rd F.TIME_STAT.state = 0 ∧ t.rd F.TIME_OFFSET.rate = 0) ∧
      (sel ≠ 2 → s.rd F.TIME_STAT.stepped = 0 → t.rd F.TIME_STAT.state = 1 ∧ t.rd F.TIME_OFFSET.rate = 0) ∧
      (sel ≠ 2 → s.rd F.TIME_STAT.stepped = 1 → t.rd F.TIME_STAT.state = 3) ∧ t.time.pending = none ∧
      OnlyTime s t ([(F.TIME_CTRL.src_sel, 0), (F.TIME_CTRL.synce_en, 0), (F.TIME_STAT.synce_ok, 0)] ++ servoFields) := by
  refine ⟨_, exec_srcSelWrite hI hw h3 en, ?_⟩
  obtain ⟨hsrc, hen, hok⟩ := s.leaveSource_enableSynce en sel.isLt
  have hsel' : (s.enableSynce en).srcSel ≠ sel.val := by rwa [State.srcSel, s.rd_enableSynce en (by decide) (by decide)]
  have hstep : (s.enableSynce en).rd F.TIME_STAT.stepped = s.rd F.TIME_STAT.stepped := s.rd_enableSynce en (by decide) (by decide) 0
  have h2 : sel = 2 ↔ sel.val = 2 := Fin.ext_iff
  obtain ⟨hrd, hstate, hrate, hpend, honly⟩ := State.changeSource_effect hsel'
  rw [hstep] at hstate hrate
  refine ⟨(hrd _ (by decide) (by decide)).trans hsrc, (hrd _ (by decide) (by decide)).trans hen,
    (hrd _ (by decide) (by decide)).trans hok, fun h => ?_, fun h h0 => ?_, fun h h1 => ?_, hpend, honly ?_ (by simp [servoFields])⟩
  · exact ⟨by rw [hstate, if_pos (h2.mp h)], hrate (.inl (h2.mp h))⟩
  · exact ⟨by rw [hstate, if_neg (h ∘ h2.mpr), if_pos h0], hrate (.inr h0)⟩
  · rw [hstate, if_neg (h ∘ h2.mpr), if_neg (by omega)]
  · exact onlyTime_leaveSource (onlyTime_put (onlyTime_put (onlyTime_refl s _) (by simp) _) (by simp) _) _ (by simp) (by simp)

theorem exec_srcSelWrite_isI (hI : s.isI = true) (wr : Writer) (sel : Fin 4) (en : Bool) : exec (.srcSelWrite wr sel en) s = .next s := by
  show execSrcSelWrite wr sel en s = _
  simp [execSrcSelWrite, hI]

theorem forceHoldover_set {wr : Writer} (hw : s.mayWrite wr F.TIME_CTRL.force_holdover 0 = true) :
    ∃ t, exec (.forceHoldover wr true) s = .next t ∧ t.rd F.TIME_CTRL.force_holdover = 1 ∧
      t.rd F.TIME_STAT.state = (if s.servo = 0 then 0 else 3) ∧ OnlyTime s t ((F.TIME_CTRL.force_holdover, 0) :: servoFields) := by
  let u := s.put F.TIME_CTRL.force_holdover 1
  have hu : u.servo = s.servo := s.rd_put_apart (by decide) _ _ _
  have hf : u.rd F.TIME_CTRL.force_holdover = 1 := s.rd_put_same _ _ _
  have ho : OnlyTime s u ((F.TIME_CTRL.force_holdover, 0) :: servoFields) := onlyTime_put (onlyTime_refl s _) (by simp) _
  have he : exec (.forceHoldover wr true) s = .next (if u.servo = 0 then u else u.enterHoldover) := by
    show execForceHoldover wr true s = _
    rw [execForceHoldover, if_pos hw]
    rfl
  refine ⟨_, he, ?_⟩
  rw [hu]
  split
  case isTrue h => exact ⟨hf, hu.trans h, ho⟩
  case isFalse h => exact ⟨(u.rd_enterHoldover (by decide) (by decide) 0).trans hf, u.enterHoldover_state,
    onlyTime_enterHoldover ho (by simp [servoFields]) (by simp [servoFields])⟩

theorem forceHoldover_clear {wr : Writer} (hw : s.mayWrite wr F.TIME_CTRL.force_holdover 0 = true) :
    ∃ t, exec (.forceHoldover wr false) s = .next t ∧ t.rd F.TIME_CTRL.force_holdover = 0 ∧
      t.rd F.TIME_STAT.state = (if s.servo = 3 ∧ s.rd F.TIME_STAT.stepped = 0 then 1 else s.servo) ∧
      OnlyTime s t ((F.TIME_CTRL.force_holdover, 0) :: servoFields) := by
  let u := s.put F.TIME_CTRL.force_holdover 0
  have hu : u.servo = s.servo := s.rd_put_apart (by decide) _ _ _
  have hst : u.rd F.TIME_STAT.stepped = s.rd F.TIME_STAT.stepped := s.rd_put_apart (by decide) _ _ _
  have hf : u.rd F.TIME_CTRL.force_holdover = 0 := s.rd_put_same _ _ _
  have ho : OnlyTime s u ((F.TIME_CTRL.force_holdover, 0) :: servoFields) := onlyTime_put (onlyTime_refl s _) (by simp) _
  have he : exec (.forceHoldover wr false) s =
      .next (if u.servo = 3 ∧ u.rd F.TIME_STAT.stepped = 0 then u.enterNominal 1 else u) := by
    show execForceHoldover wr false s = _
    rw [execForceHoldover, if_pos hw]
    rfl
  refine ⟨_, he, ?_⟩
  rw [hu, hst]
  split
  case isTrue h => exact ⟨(u.rd_enterNominal 1 (by decide) (by decide) 0).trans hf, u.enterNominal_state 1,
    onlyTime_enterNominal ho 1 (by simp [servoFields]) (by simp [servoFields])⟩
  case isFalse h => exact ⟨hf, hu, ho⟩

theorem stepArm_refused {wr : Writer} (hw : s.mayWrite wr F.TIME_CTRL.step_arm 0 = true) (hc : s.cellActive = true) :
    ∃ t, exec (.stepArm wr) s = .next t ∧ t.rd F.TIME_STAT.step_refused = 1 ∧ OnlyRegs s t [(F.TIME_STAT.step_refused, 0)] := by
  have he : exec (.stepArm wr) s = .next (s.put F.TIME_STAT.step_refused 1) := by
    show execStepArm wr s = _
    rw [execStepArm, if_pos hw, if_pos hc]
  exact ⟨_, he, s.rd_put_same _ _ _, rfl, regsSame_put (regsSame_refl s _) (by simp) _⟩

theorem stepArm_acquires {wr : Writer} (hw : s.mayWrite wr F.TIME_CTRL.step_arm 0 = true) (hc : s.cellActive = false)
    (hs : s.srcSel ≠ 2) :
    ∃ t, exec (.stepArm wr) s = .next t ∧ t.rd F.TIME_STAT.state = 1 ∧ t.rd F.TIME_OFFSET.rate = 0 ∧
      t.time = { s.time with
        lockRun := [], locked := false, pending := none, holdSince := none, refuseSince := none, degraded := false } ∧
      OnlyTime s t servoFields := by
  have he : exec (.stepArm wr) s = .next (s.enterNominal 1) := by
    show execStepArm wr s = _
    rw [execStepArm, if_pos hw, hc, if_neg hs]
    rfl
  exact ⟨_, he, s.enterNominal_state 1, s.enterNominal_rate 1, rfl,
    onlyTime_enterNominal (onlyTime_refl s _) 1 (by simp [servoFields]) (by simp [servoFields])⟩

/-! ## Masters (R55, R60) -/

/-- A command's instant changes the clock and nothing else of device time. -/
theorem State.atNs_masters (s : State) (ns : Nat) :
    (s.atNs ns).time.masters = s.time.masters ∧ (s.atNs ns).time.gm = s.time.gm ∧ (s.atNs ns).regs = s.regs := by
  rcases s.atNs_cases ns with e | ⟨n, e⟩ <;> rw [e]
  · exact ⟨rfl, rfl, rfl⟩
  · exact ⟨rfl, rfl, rfl⟩

/-- The records of the masters that were heard. -/
def State.setMasters (s : State) (ms : List Announce) : State := s.setTime { s.time with masters := ms }

theorem State.rd_setMasters (s : State) (ms : List Announce) (g : Field) (j : Nat) : (s.setMasters ms).rd g j = s.rd g j := rfl

theorem exec_announceReceived {a : Announce} {port : Fin 8} {sub : Fin 4} {domain : BitVec 8}
    (h : s.ptpIn port sub domain.toNat = true) (ns : Nat) : exec (.announceReceived ⟨a, port, sub, domain⟩ ns) s =
      .next ((s.atNs ns).setMasters ((s.time.masters.filter fun m => m.src != a.src) ++ [a])).choose := by
  show execAnnounceReceived _ ns s = _
  rw [execAnnounceReceived, if_pos h, ← (s.atNs_masters ns).1]
  rfl

/-- The UTC fields show the selected master's record. -/
def State.showUtc (s : State) (a : Announce) : State :=
  (s.put F.TIME_UTC.utc_offset a.utcOffset.toNat).put F.TIME_UTC.utc_valid 1

theorem State.showUtc_fields (s : State) (a : Announce) :
    (s.showUtc a).rd F.TIME_UTC.utc_offset = a.utcOffset.toNat ∧ (s.showUtc a).rd F.TIME_UTC.utc_valid = 1 := by
  constructor
  · calc _ = (s.put F.TIME_UTC.utc_offset a.utcOffset.toNat).rd F.TIME_UTC.utc_offset := State.rd_put_apart _ (by decide) _ _ _
      _ = a.utcOffset.toNat % 2 ^ 16 := s.rd_put_same _ _ _
      _ = a.utcOffset.toNat := Nat.mod_eq_of_lt a.utcOffset.isLt
  · exact State.rd_put_same _ _ _ _

theorem State.rd_showUtc (s : State) (a : Announce) {g : Field} (h1 : g.apart F.TIME_UTC.utc_offset = true)
    (h2 : g.apart F.TIME_UTC.utc_valid = true) (j : Nat) : (s.showUtc a).rd g j = s.rd g j := by
  simp [State.showUtc, State.rd_put_apart, h1, h2]

/-- The first grandmaster is taken as it is. -/
theorem State.choose_first {a : Announce} (hb : bestMaster s.time.masters = some a) (hg : s.time.gm = none) :
    s.choose = (s.showUtc a).setTime { s.time with gm := some a.gm } := by
  simp [State.choose, hb, hg, State.showUtc]

/-- Another grandmaster's record is taken and counted. -/
def State.takeMaster (s : State) (a : Announce) : State :=
  ((s.showUtc a).setTime { s.time with gm := some a.gm }).bump F.TIME_COUNT.gm_change_cnt

theorem State.rd_takeMaster (s : State) (a : Announce) {g : Field} (h1 : g.apart F.TIME_UTC.utc_offset = true)
    (h2 : g.apart F.TIME_UTC.utc_valid = true) (h3 : g.apart F.TIME_COUNT.gm_change_cnt = true) (j : Nat) :
    (s.takeMaster a).rd g j = s.rd g j :=
  (State.rd_put_apart _ h3 _ _ _).trans (s.rd_showUtc a h1 h2 j)

theorem State.takeMaster_gm (s : State) (a : Announce) : (s.takeMaster a).time.gm = some a.gm := rfl

theorem State.takeMaster_count (s : State) (a : Announce) :
    (s.takeMaster a).rd F.TIME_COUNT.gm_change_cnt = satAdd 32 (s.rd F.TIME_COUNT.gm_change_cnt) 1 := by
  have hlt : satAdd 32 (s.rd F.TIME_COUNT.gm_change_cnt) 1 < 2 ^ 32 := by simp only [satAdd]; omega
  calc _ = satAdd 32 ((s.showUtc a).rd F.TIME_COUNT.gm_change_cnt) 1 % 2 ^ 32 := State.rd_bump_same _ _ _ _
    _ = _ := by rw [s.rd_showUtc a (by decide) (by decide), Nat.mod_eq_of_lt hlt]

/-- Another grandmaster takes a LOCKED servo of source 0 to HOLDOVER (R55). -/
theorem State.choose_other {a : Announce} {g : Word} (hb : bestMaster s.time.masters = some a) (hg : s.time.gm = some g)
    (hne : g ≠ a.gm) (hs : s.srcSel = 0) (hl : s.servo = 2) : s.choose = (s.takeMaster a).enterHoldover := by
  have hs' : (s.takeMaster a).srcSel = 0 := (s.rd_takeMaster a (by decide) (by decide) (by decide) 0).trans hs
  have hl' : (s.takeMaster a).servo = 2 := (s.rd_takeMaster a (by decide) (by decide) (by decide) 0).trans hl
  have hchoose : s.choose = if (s.takeMaster a).srcSel ≠ 0 then s.takeMaster a
      else if (s.takeMaster a).servo = 2 then (s.takeMaster a).enterHoldover
      else if (s.takeMaster a).servo = 1 then
        (if (s.takeMaster a).on F.TIME_STAT.stepped then (s.takeMaster a).enterHoldover else (s.takeMaster a).clearLock)
      else s.takeMaster a := by
    simp [State.choose, hb, hg, hne, State.takeMaster, State.showUtc, locked, acquiring] <;> rfl
  rw [hchoose, if_neg (by simpa using hs'), if_pos hl']

/-- The first master's record is the only one, and its grandmaster is taken. -/
theorem State.setMasters_choose_first (a : Announce) (hg : s.time.gm = none) :
    let t := (s.setMasters [a]).choose
    t.time.masters = [a] ∧ t.time.gm = some a.gm ∧ t.rd F.TIME_UTC.utc_offset = a.utcOffset.toNat ∧
      t.rd F.TIME_UTC.utc_valid = 1 ∧ ∀ r, OnlyTime r s [(F.TIME_UTC.utc_offset, 0), (F.TIME_UTC.utc_valid, 0)] →
        OnlyTime r t [(F.TIME_UTC.utc_offset, 0), (F.TIME_UTC.utc_valid, 0)] := by
  dsimp only
  rw [State.choose_first (s := s.setMasters [a]) (a := a) rfl hg]
  obtain ⟨hoff, hval⟩ := State.showUtc_fields (s.setMasters [a]) a
  exact ⟨rfl, rfl, hoff, hval, fun r h => onlyTime_setTime (onlyTime_put (onlyTime_put (onlyTime_setTime h _) (by simp) _) (by simp) _) _⟩

theorem announceReceived_first {a : Announce} {port : Fin 8} {sub : Fin 4} {domain : BitVec 8}
    (h : s.ptpIn port sub domain.toNat = true) (hm : s.time.masters = []) (hg : s.time.gm = none) (ns : Nat) :
    ∃ t, exec (.announceReceived ⟨a, port, sub, domain⟩ ns) s = .next t ∧ t.time.masters = [a] ∧ t.time.gm = some a.gm ∧
      t.rd F.TIME_UTC.utc_offset = a.utcOffset.toNat ∧ t.rd F.TIME_UTC.utc_valid = 1 ∧
      OnlyTime s t [(F.TIME_UTC.utc_offset, 0), (F.TIME_UTC.utc_valid, 0)] := by
  obtain ⟨-, hg', -⟩ := s.atNs_masters ns
  obtain ⟨hms, hgm, hoff, hval, honly⟩ := State.setMasters_choose_first a (hg'.trans hg)
  refine ⟨_, ?_, hms, hgm, hoff, hval, honly s (onlyTime_atNs (onlyTime_refl s _) ns)⟩
  rw [exec_announceReceived h, hm]
  rfl

/-- The better one of a master and a newcomer is the newcomer, whether it replaces the record or stands beside it. -/
theorem bestMaster_newcomer {a b : Announce} (h : announceBetter a b = true) :
    bestMaster (([b].filter fun m => m.src != a.src) ++ [a]) = some a := by
  by_cases hsrc : b.src = a.src
  · simp [hsrc, bestMaster]
  · simp [hsrc, bestMaster, h]

/-- A better master's record takes a LOCKED servo of source 0 to HOLDOVER and counts. -/
theorem State.setMasters_choose_other {ms : List Announce} {a : Announce} {g : Word} (hb : bestMaster ms = some a)
    (hg : s.time.gm = some g) (hne : g ≠ a.gm) (hs : s.srcSel = 0) (hl : s.servo = 2) :
    (s.setMasters ms).choose.time.gm = some a.gm ∧ (s.setMasters ms).choose.rd F.TIME_STAT.state = 3 ∧
      (s.setMasters ms).choose.rd F.TIME_COUNT.gm_change_cnt = satAdd 32 (s.rd F.TIME_COUNT.gm_change_cnt) 1 := by
  have hservo : ((s.setMasters ms).takeMaster a).servo = 2 := (State.rd_takeMaster _ a (by decide) (by decide) (by decide) 0).trans hl
  rw [State.choose_other (s := s.setMasters ms) hb hg hne hs hl]
  refine ⟨?_, State.enterHoldover_state _, ?_⟩
  · rw [State.enterHoldover_time (by omega)]
    exact State.takeMaster_gm (s.setMasters ms) a
  · rw [State.rd_enterHoldover _ (by decide) (by decide), State.takeMaster_count, State.rd_setMasters]

theorem announceReceived_better {a b : Announce} {port : Fin 8} {sub : Fin 4} {domain : BitVec 8}
    (h : s.ptpIn port sub domain.toNat = true) (hm : s.time.masters = [b]) (hg : s.time.gm = some b.gm) (hne : b.gm ≠ a.gm)
    (hb : announceBetter a b = true) (hs : s.srcSel = 0) (hl : s.servo = 2) (ns : Nat) :
    ∃ t, exec (.announceReceived ⟨a, port, sub, domain⟩ ns) s = .next t ∧ t.time.gm = some a.gm ∧ t.rd F.TIME_STAT.state = 3 ∧
      t.rd F.TIME_COUNT.gm_change_cnt = satAdd 32 (s.rd F.TIME_COUNT.gm_change_cnt) 1 := by
  obtain ⟨-, hg', hr⟩ := s.atNs_masters ns
  have hrd : ∀ g : Field, (s.atNs ns).rd g = s.rd g := fun g => State.rd_congr hr g 0
  rw [exec_announceReceived h, hm, ← hrd F.TIME_COUNT.gm_change_cnt]
  exact ⟨_, rfl, State.setMasters_choose_other (bestMaster_newcomer hb) (hg'.trans hg) hne ((hrd _).trans hs) ((hrd _).trans hl)⟩

/-! ## Timeouts and lost sources (R55, R60) -/

/-- A LOCKED servo that loses its source after the first step holds over from now on. -/
theorem State.sourceLost_holds (hl : s.servo = 2) (hst : s.rd F.TIME_STAT.stepped = 1) :
    s.sourceLost.rd F.TIME_STAT.state = 3 ∧ s.sourceLost.time.holdSince = some s.nowNs ∧
      s.sourceLost.time.masters = s.time.masters ∧ OnlyTime s s.sourceLost servoFields := by
  rw [State.sourceLost_of_stepped hl hst, State.enterHoldover_time (by omega)]
  exact ⟨s.enterHoldover_state, rfl, rfl, onlyTime_enterHoldover (onlyTime_refl s _) (by simp [servoFields]) (by simp [servoFields])⟩

theorem announceTimeout_lost {a : Announce} (hm : s.time.masters = [a]) (hs : s.srcSel = 0) (hl : s.servo = 2)
    (hst : s.rd F.TIME_STAT.stepped = 1) :
    ∃ t, exec (.announceTimeout a.src) s = .next t ∧ t.time.masters = [] ∧ t.rd F.TIME_STAT.state = 3 ∧ OnlyTime s t servoFields := by
  have he : exec (.announceTimeout a.src) s = .next (s.setMasters []).sourceLost := by
    have hs' : (s.setMasters []).srcSel = 0 := hs
    show execAnnounceTimeout a.src s = _
    simp [execAnnounceTimeout, hm, State.parent, bestMaster]
    exact if_pos hs'
  obtain ⟨hstate, -, hms, honly⟩ := State.sourceLost_holds (s := s.setMasters []) hl hst
  exact ⟨_, he, hms, hstate, onlyTime_trans (onlyTime_setTime (onlyTime_refl s _) _) honly⟩

theorem syncTimeout_holds (hs : s.srcSel = 0) (hl : s.servo = 2) (hst : s.rd F.TIME_STAT.stepped = 1) :
    ∃ t, exec .syncTimeout s = .next t ∧ t.rd F.TIME_STAT.state = 3 ∧ t.time.holdSince = some s.nowNs ∧ OnlyTime s t servoFields := by
  obtain ⟨hstate, hsince, -, honly⟩ := State.sourceLost_holds hl hst
  exact ⟨_, congrArg Host.Outcome.next (if_pos hs), hstate, hsince, honly⟩

theorem syncTimeout_freeruns (hs : s.srcSel = 0) (ha : s.servo = 1) (hst : s.rd F.TIME_STAT.stepped = 0) :
    ∃ t, exec .syncTimeout s = .next t ∧ t.rd F.TIME_STAT.state = 0 ∧ t.rd F.TIME_OFFSET.rate = 0 ∧ t.time.lockRun = [] ∧
      t.time.locked = false ∧ OnlyTime s t servoFields := by
  have he : exec .syncTimeout s = .next (s.enterNominal freerun) := by
    rw [← State.sourceLost_of_acquiring ha hst]
    exact congrArg Host.Outcome.next (if_pos hs)
  exact ⟨_, he, s.enterNominal_state 0, s.enterNominal_rate 0, rfl, rfl,
    onlyTime_enterNominal (onlyTime_refl s _) 0 (by simp [servoFields]) (by simp [servoFields])⟩

/-! ## The 1PPS input (R50, R58, R62) -/

/-- An edge of the selected polarity at its instant: it is timestamped, and shown as present. -/
def State.edgeSeen (s : State) : State :=
  (s.setTime { s.time with ppsLast := some s.nowNs }).put F.TIME_STAT.pps_in_present 1

theorem State.edgeSeen_present (s : State) : s.edgeSeen.rd F.TIME_STAT.pps_in_present = 1 := State.rd_put_same _ _ _ _

theorem State.edgeSeen_ppsLast (s : State) : s.edgeSeen.time.ppsLast = some s.nowNs := rfl

theorem State.rd_edgeSeen (s : State) {g : Field} (h : g.apart F.TIME_STAT.pps_in_present = true) (j : Nat) :
    s.edgeSeen.rd g j = s.rd g j := State.rd_put_apart _ h _ _ _

theorem onlyTime_edgeSeen {s t : State} {l : List (Field × Nat)} (h : OnlyTime s t l) (hp : (F.TIME_STAT.pps_in_present, 0) ∈ l) :
    OnlyTime s t.edgeSeen l := onlyTime_put (onlyTime_setTime h _) hp _

theorem State.isI_congr {s t : State} (h : t.rd F.SEC_ENT.code = s.rd F.SEC_ENT.code) : t.isI = s.isI := by
  simp only [State.isI, State.code, h]

/-- What an edge at the present instant brings about (R50, R62): an MXD1-I takes 1PPS as its source, and an edge is used where
1PPS is the source. -/
def State.takeEdge (s : State) (freq : Int) : State :=
  let u := if s.edgeSeen.isI then s.edgeSeen.changeSource 1 else s.edgeSeen
  if u.srcSel = 1 then u.ppsUse ((u.nowNs : Int) - u.rdS F.TIME_PPS_IN.cable_delay_ns) freq s.time.ppsLast else u

theorem exec_ppsInEdge {falling : Bool} (he : s.rd F.TIME_PPS_IN.edge = b2n falling) (freq : Int) (ns : Nat) :
    exec (.ppsInEdge ⟨falling, freq⟩ ns) s = .next ((s.atNs ns).takeEdge freq) := by
  have hon : (s.on F.TIME_PPS_IN.edge != falling) = false := by rw [State.on, he, b2n_ne_zero, bne_self_eq_false]
  show execPpsInEdge ⟨falling, freq⟩ ns s = _
  unfold execPpsInEdge State.takeEdge State.edgeSeen
  rw [hon, if_neg Bool.false_ne_true]

theorem exec_ppsInEdge_other {falling : Bool} (he : s.rd F.TIME_PPS_IN.edge = b2n (!falling)) (freq : Int) (ns : Nat) :
    exec (.ppsInEdge ⟨falling, freq⟩ ns) s = .next s := by
  have hon : (s.on F.TIME_PPS_IN.edge != falling) = true := by
    rw [State.on, he, b2n_ne_zero]
    cases falling <;> rfl
  exact congrArg Host.Outcome.next (if_pos hon)

theorem State.takeEdge_unused (hI : s.isI = false) (hs : s.srcSel ≠ 1) (freq : Int) : s.takeEdge freq = s.edgeSeen := by
  have hI' : s.edgeSeen.isI = false := (State.isI_congr (s.rd_edgeSeen (by decide) 0)).trans hI
  have hs' : s.edgeSeen.srcSel ≠ 1 := by rwa [State.srcSel, s.rd_edgeSeen (by decide)]
  simp [State.takeEdge, hI', hs']

/-- The step that an edge asks for once the run of edges has locked: to the second that TOD_NEXT names (R58). -/
def State.edgeStep (s : State) : Int :=
  (s.rd F.TIME_TOD_NEXT.tod_sec : Int) * 1000000000 + s.rdS F.TIME_PPS_IN.cable_delay_ns - (s.nowNs : Int)

theorem State.takeEdge_step (hI : s.isI = false) (hs : s.srcSel = 1) (ha : s.servo = 1) (hp : s.time.pending = none)
    (hl : s.time.locked = true) (ht : s.time.todWritten = true) (hc : s.cellActive = false) (freq : Int) :
    s.takeEdge freq = s.edgeSeen.setTime { s.edgeSeen.time with
      pending := some s.edgeStep } := by
  have hI' : s.edgeSeen.isI = false := (State.isI_congr (s.rd_edgeSeen (by decide) 0)).trans hI
  have hs' : s.edgeSeen.srcSel = 1 := (s.rd_edgeSeen (by decide) 0).trans hs
  have ha' : s.edgeSeen.servo = 1 := (s.rd_edgeSeen (by decide) 0).trans ha
  have hp' : s.edgeSeen.time.pending = none := hp
  have hl' : s.edgeSeen.time.locked = true := hl
  have ht' : s.edgeSeen.time.todWritten = true := ht
  have hc' : s.edgeSeen.cellActive = false := hc
  have htod : s.edgeSeen.rd F.TIME_TOD_NEXT.tod_sec = s.rd F.TIME_TOD_NEXT.tod_sec := s.rd_edgeSeen (by decide) 0
  have hcab : s.edgeSeen.rdS F.TIME_PPS_IN.cable_delay_ns = s.rdS F.TIME_PPS_IN.cable_delay_ns := by
    rw [State.rdS, State.rdS, s.rd_edgeSeen (by decide)]
  have hnow : s.edgeSeen.nowNs = s.nowNs := rfl
  simp [State.takeEdge, State.edgeStep, State.ppsUse, State.askStep, hI', hs', ha', hp', hl', ht', hc', htod, hcab, hnow, freerun, acquiring]

/-- An edge that steps is present and timestamped, and changes device time alone. -/
theorem State.edgeSeen_step (s : State) (p : Int) :
    let t := s.edgeSeen.setTime { s.edgeSeen.time with pending := some p }
    t.rd F.TIME_STAT.pps_in_present = 1 ∧ t.time.ppsLast = some s.nowNs ∧ t.time.pending = some p ∧
      ∀ r, OnlyTime r s [(F.TIME_STAT.pps_in_present, 0)] → OnlyTime r t [(F.TIME_STAT.pps_in_present, 0)] :=
  ⟨s.edgeSeen_present, rfl, rfl, fun _ h => onlyTime_setTime (onlyTime_edgeSeen h (by simp)) _⟩

/-- An edge's instant changes the clock alone. -/
theorem State.rd_atNs (s : State) (ns : Nat) (g : Field) (j : Nat) : (s.atNs ns).rd g j = s.rd g j :=
  State.rd_congr (s.atNs_masters ns).2.2 g j

/-- What an instant leaves alone: everything but the clock's count. -/
theorem State.atNs_lock (s : State) (ns : Nat) : (s.atNs ns).time.pending = s.time.pending ∧ (s.atNs ns).time.locked = s.time.locked ∧
    (s.atNs ns).time.todWritten = s.time.todWritten ∧ (s.atNs ns).cellActive = s.cellActive ∧ (s.atNs ns).isI = s.isI := by
  rcases s.atNs_cases ns with e | ⟨n, e⟩ <;> rw [e]
  · exact ⟨rfl, rfl, rfl, rfl, rfl⟩
  · exact ⟨rfl, rfl, rfl, rfl, rfl⟩

theorem ppsInEdge_step {falling : Bool} (he : s.rd F.TIME_PPS_IN.edge = b2n falling) (hI : s.isI = false) (hs : s.srcSel = 1)
    (ha : s.servo = 1) (hp : s.time.pending = none) (hl : s.time.locked = true) (ht : s.time.todWritten = true)
    (hc : s.cellActive = false) (freq : Int) (ns : Nat) :
    ∃ t, exec (.ppsInEdge ⟨falling, freq⟩ ns) s = .next t ∧ t.rd F.TIME_STAT.pps_in_present = 1 ∧
      t.time.ppsLast = some (s.atNs ns).nowNs ∧
      t.time.pending = some ((s.rd F.TIME_TOD_NEXT.tod_sec : Int) * 1000000000 + s.rdS F.TIME_PPS_IN.cable_delay_ns
        - ((s.atNs ns).nowNs : Int)) ∧ OnlyTime s t [(F.TIME_STAT.pps_in_present, 0)] := by
  obtain ⟨hp', hl', ht', hc', hI'⟩ := s.atNs_lock ns
  have hstep := State.takeEdge_step (hI'.trans hI) ((s.rd_atNs ns _ 0).trans hs) ((s.rd_atNs ns _ 0).trans ha) (hp'.trans hp)
    (hl'.trans hl) (ht'.trans ht) (hc'.trans hc) freq
  obtain ⟨hpres, hlast, hpend, honly⟩ := (s.atNs ns).edgeSeen_step (s.atNs ns).edgeStep
  rw [← hstep] at hpres hlast hpend honly
  rw [State.edgeStep, State.rdS, s.rd_atNs, s.rd_atNs] at hpend
  exact ⟨_, exec_ppsInEdge he freq ns, hpres, hlast, hpend, honly s (onlyTime_atNs (onlyTime_refl s _) ns)⟩

theorem ppsInEdge_unused {falling : Bool} (he : s.rd F.TIME_PPS_IN.edge = b2n falling) (hI : s.isI = false) (hs : s.srcSel ≠ 1)
    (freq : Int) (ns : Nat) :
    ∃ t, exec (.ppsInEdge ⟨falling, freq⟩ ns) s = .next t ∧ t.rd F.TIME_STAT.pps_in_present = 1 ∧
      t.time.ppsLast = some (s.atNs ns).nowNs ∧ OnlyTime s t [(F.TIME_STAT.pps_in_present, 0)] := by
  have hI' := (s.atNs_lock ns).2.2.2.2.trans hI
  have hs' : (s.atNs ns).srcSel ≠ 1 := by rwa [State.srcSel, s.rd_atNs]
  refine ⟨_, (exec_ppsInEdge he freq ns).trans (congrArg _ (State.takeEdge_unused hI' hs' freq)), State.edgeSeen_present _,
    State.edgeSeen_ppsLast _, onlyTime_edgeSeen (onlyTime_atNs (onlyTime_refl s _) ns) (by simp)⟩

/-- No edge is present any more. -/
def State.edgeGone (s : State) : State := s.put F.TIME_STAT.pps_in_present 0

theorem State.rd_edgeGone (s : State) {g : Field} (h : g.apart F.TIME_STAT.pps_in_present = true) (j : Nat) :
    s.edgeGone.rd g j = s.rd g j := s.rd_put_apart h _ _ _

/-- 1.5 s without an edge (R50): an MXD1-I leaves 1PPS for no source, another device has lost the source it had. -/
theorem exec_ppsInTimeout {l : Nat} (hlast : s.time.ppsLast = some l) (hnow : l + 1500000000 ≤ s.nowNs)
    (hpres : s.rd F.TIME_STAT.pps_in_present = 1) :
    exec .ppsInTimeout s =
      .next (if s.isI then s.edgeGone.changeSource 2 else if s.srcSel = 1 then s.edgeGone.sourceLost else s.edgeGone) := by
  have hI : s.edgeGone.isI = s.isI := State.isI_congr (s.rd_edgeGone (by decide) 0)
  have hs : s.edgeGone.srcSel = s.srcSel := s.rd_edgeGone (by decide) 0
  rw [← hI, ← hs]
  show execPpsInTimeout s = _
  unfold execPpsInTimeout
  rw [hlast]
  exact congrArg Host.Outcome.next (if_pos ⟨hnow, s.on_eq_true_of_rd hpres⟩)

theorem ppsInTimeout_lost {l : Nat} (hlast : s.time.ppsLast = some l) (hnow : l + 1500000000 ≤ s.nowNs)
    (hpres : s.rd F.TIME_STAT.pps_in_present = 1) (hs : s.srcSel = 1) (hI : s.isI = false) (hl : s.servo = 2)
    (hst : s.rd F.TIME_STAT.stepped = 1) :
    ∃ t, exec .ppsInTimeout s = .next t ∧ t.rd F.TIME_STAT.pps_in_present = 0 ∧ t.rd F.TIME_STAT.state = 3 := by
  have he := exec_ppsInTimeout hlast hnow hpres
  rw [hI, if_neg (by simp), if_pos hs, State.sourceLost_of_stepped ((s.rd_edgeGone (by decide) 0).trans hl)
    ((s.rd_edgeGone (by decide) 0).trans hst)] at he
  exact ⟨_, he, (State.rd_enterHoldover _ (by decide) (by decide) 0).trans (s.rd_put_same _ _ _), State.enterHoldover_state _⟩

theorem ppsInTimeout_isI {l : Nat} (hlast : s.time.ppsLast = some l) (hnow : l + 1500000000 ≤ s.nowNs)
    (hpres : s.rd F.TIME_STAT.pps_in_present = 1) (hs : s.srcSel = 1) (hI : s.isI = true) :
    ∃ t, exec .ppsInTimeout s = .next t ∧ t.rd F.TIME_STAT.pps_in_present = 0 ∧ t.rd F.TIME_CTRL.src_sel = 2 ∧
      t.rd F.TIME_STAT.state = 0 ∧ t.rd F.TIME_OFFSET.rate = 0 := by
  have he := exec_ppsInTimeout hlast hnow hpres
  rw [hI, if_pos rfl] at he
  have hs' : s.edgeGone.srcSel ≠ 2 := by
    have hsel : s.edgeGone.srcSel = s.srcSel := s.rd_edgeGone (by decide) 0
    omega
  obtain ⟨hrd, hstate, hrate, -, -⟩ := State.changeSource_effect hs'
  refine ⟨_, he, (hrd _ (by decide) (by decide)).trans ?_, (hrd _ (by decide) (by decide)).trans ?_, hstate, hrate (.inl rfl)⟩
  · calc _ = s.edgeGone.rd F.TIME_STAT.pps_in_present := State.rd_leaveSource _ _ (by decide) (by decide) 0
      _ = 0 := s.rd_put_same _ _ _
  · exact State.leaveSource_srcSel _ (by decide)

/-! ## Limits (R56) -/

/-- The record of an event that follows a register write goes to the log of the state before it. -/
theorem logged_put {s t : State} {f : Field} {v i cls sev data src : Nat} (h : Logged (s.put f v i) t cls sev data src)
    (hf : f.apart F.FW_PROC_STAT.pstate = true) : Logged s t cls sev data src := by
  have hup : (s.put f v i).procUp cairn = s.procUp cairn := by
    have hrd : (s.put f v i).rd F.FW_PROC_STAT.pstate cairn = s.rd F.FW_PROC_STAT.pstate cairn :=
      s.rd_put_ne (Field.key_ne_of_apart hf i cairn).symm
    simp only [State.procUp, hrd, State.put_procs]
  rw [Logged, hup] at h
  exact h

theorem holdLimitExceeded_effect {h : Nat} (hh : s.time.holdSince = some h) (hs : s.servo = 3)
    (hlim : h + s.rd F.TIME_HOLD.hold_limit_s * 1000000000 ≤ s.nowNs) (hd : s.time.degraded = false) :
    ∃ t, exec .holdLimitExceeded s = .next t ∧ t.rd F.TIME_STAT.hold_limit_exceeded = 1 ∧ t.time.degraded = true ∧
      Logged s t 1 2 (s.nowNs - h) tc := by
  let u := s.put F.TIME_STAT.hold_limit_exceeded 1
  let v := u.event 1 2 Ev.holdLimit (s.nowNs - h) tc
  have he : exec .holdLimitExceeded s = .next (v.setTime { v.time with degraded := true }) := by
    show execHoldLimitExceeded s = _
    simp [execHoldLimitExceeded, hh, hs, hlim, hd, holdover, u, v]
  refine ⟨_, he, ?_, rfl, logged_put (s := s) (f := F.TIME_STAT.hold_limit_exceeded) (v := 1) (i := 0) (event_logged u _ _ _ _ _) rfl⟩
  calc v.rd F.TIME_STAT.hold_limit_exceeded = u.rd F.TIME_STAT.hold_limit_exceeded := (event_only u _ _ _ _ _).2 _ _ (by decide)
    _ = 1 := s.rd_put_same _ _ _

theorem refuseFault_effect {r : Nat} (hr : s.time.refuseSince = some r)
    (hlim : r + s.rd F.TIME_HOLD.refuse_limit_s * 1000000000 ≤ s.nowNs) :
    ∃ t, exec .refuseFault s = .next t ∧ t.rd F.TIME_STAT.refuse_fault = 1 ∧ Logged s t 1 0 (s.nowNs - r) tc ∧
      Only s t ((F.TIME_STAT.refuse_fault, 0) :: eventFields) fun x => (x.withMgt t.mgt).withOut t.out := by
  let u := s.put F.TIME_STAT.refuse_fault 1
  have he : exec .refuseFault s = .next (u.service 1 Ev.refuseFault (s.nowNs - r) tc) := by
    show execRefuseFault s = _
    simp [execRefuseFault, hr, hlim, u]
  obtain ⟨honly, hsame⟩ := event_only u 1 0 Ev.refuseFault (s.nowNs - r) tc
  refine ⟨_, he, ?_, logged_put (s := s) (f := F.TIME_STAT.refuse_fault) (v := 1) (i := 0) (event_logged u _ _ _ _ _) rfl, ?_,
    regsSame_event (regsSame_put (regsSame_refl s _) (by simp) _) _ _ _ _ _ fun x hx => List.mem_cons_of_mem _ hx⟩
  · exact (hsame _ _ (by decide)).trans (s.rd_put_same _ _ _)
  · exact honly

end Sys2Proof.Machine

open Sys2Proof Sys2Proof.Machine Sys2Proof.Safety in
/-- Settles O14, one command at a time. -/
theorem sourcesMastersAndHoldover : Obligations.SourcesMastersAndHoldover := by
  refine ⟨fun s wr sel en => ⟨?_, ?_, ?_, ?_, ?_⟩, fun s a port sub domain freq falling ns => ⟨?_, ?_, ?_, ?_, ?_, ?_, ?_, ?_, ?_, ?_, ?_, ?_⟩⟩
  · exact fun hI hw hs h3 => srcSelWrite_effect hI hw hs h3 en
  · exact fun hI => exec_srcSelWrite_isI hI wr sel en
  · exact fun hw => ⟨forceHoldover_set hw, forceHoldover_clear hw⟩
  · exact fun hw hc => stepArm_refused hw hc
  · exact fun hw hc hs => stepArm_acquires hw hc hs
  · exact fun h => congrArg Host.Outcome.next (if_neg (by simp [h]))
  · exact fun h hm hg => announceReceived_first h hm hg ns
  · exact fun b h hm hg hne hb hs hl => announceReceived_better h hm hg hne hb hs hl ns
  · exact fun hm hs hl hst => announceTimeout_lost hm hs hl hst
  · exact fun hs hl hst => syncTimeout_holds hs hl hst
  · exact fun hs ha hst => syncTimeout_freeruns hs ha hst
  · exact fun he hI hs ha hp hl ht hc => ppsInEdge_step he hI hs ha hp hl ht hc freq ns
  · exact fun he hI hs => ppsInEdge_unused he hI hs freq ns
  · exact fun he => exec_ppsInEdge_other he freq ns
  · exact fun l hlast hnow hp hs => ⟨ppsInTimeout_lost hlast hnow hp hs, ppsInTimeout_isI hlast hnow hp hs⟩
  · exact fun h hh hs hlim hd => holdLimitExceeded_effect hh hs hlim hd
  · exact fun r hr hlim => refuseFault_effect hr hlim

/-! SUPPORT. The register map: no two elements of its fields, but for fields with a command of their own, share a bit address. -/

namespace Sys2Proof.Machine

/-! ## Where the elements of a field lie -/

/-- The elements that a field has (R14). -/
def Field.Has (f : Field) (i : Nat) : Prop := (f.stride = 0 → i = 0) ∧ (f.stride ≠ 0 → i < f.count ∧ (f.per = 0 ∨ i % f.per < f.lim))

/-- The first and the last bit address that elements of a field can have. -/
def Field.first (f : Field) : Nat := 8 * f.base + f.lo
def Field.last (f : Field) : Nat := f.first + 8 * (f.stride * (f.count - 1))

theorem Field.key_eq_first (f : Field) (i : Nat) : f.key i = f.first + 8 * (f.stride * i) := by
  simp only [Field.key, Field.first]
  ring

theorem Field.Has.span {f : Field} {i : Nat} (h : f.Has i) : f.first ≤ f.key i ∧ f.key i ≤ f.last := by
  have hle : f.stride * i ≤ f.stride * (f.count - 1) := by
    by_cases hs : f.stride = 0
    · simp [hs]
    · exact Nat.mul_le_mul_left _ (by have := (h.2 hs).1; omega)
  rw [f.key_eq_first, Field.last]
  omega

/-- Bytes after which the elements of a field repeat, and how far they reach in between. -/
def Field.period (f : Field) : Nat := if f.per = 0 then f.stride else f.stride * f.per
def Field.reach (f : Field) : Nat := if f.per = 0 then 0 else f.stride * (f.lim - 1)

/-- An element lies within the reach of the field, a number of periods on. -/
theorem Field.Has.offset {f : Field} {i : Nat} (h : f.Has i) : ∃ r q, f.stride * i = r + f.period * q ∧ r ≤ f.reach := by
  unfold Field.period Field.reach
  by_cases hs : f.stride = 0
  · exact ⟨0, 0, by simp [hs], by simp⟩
  · by_cases hp : f.per = 0
    · exact ⟨0, i, by simp [hp], by simp⟩
    · refine ⟨f.stride * (i % f.per), i / f.per, ?_, ?_⟩
      · rw [if_neg hp, Nat.mul_assoc, ← Nat.mul_add, Nat.mod_add_div]
      · rw [if_neg hp]
        have hlim := (h.2 hs).2.resolve_left hp
        exact Nat.mul_le_mul_left _ (by omega)

/-- In every stretch of `8 * m` bits the elements of `f` come before those of `g`. -/
def Field.before (f g : Field) (m : Nat) : Bool :=
  f.first % (8 * m) + 8 * f.reach < g.first % (8 * m) && g.first % (8 * m) + 8 * g.reach < 8 * m

/-- The place of an element in its stretch. -/
theorem Field.Has.key_mod {f : Field} {i m : Nat} (h : f.Has i) (hm : m ∣ f.period) (hr : f.first % (8 * m) + 8 * f.reach < 8 * m) :
    ∃ r, f.key i % (8 * m) = f.first % (8 * m) + 8 * r ∧ r ≤ f.reach := by
  obtain ⟨r, q, hoff, hle⟩ := h.offset
  obtain ⟨k, hk⟩ := hm
  have hkey : f.key i = (f.first + 8 * r) + 8 * m * (k * q) := by
    rw [f.key_eq_first, hoff, hk]
    ring
  refine ⟨r, ?_, hle⟩
  rw [hkey, Nat.add_mul_mod_self_left, Nat.add_mod, Nat.mod_eq_of_lt (a := 8 * r) (by omega), Nat.mod_eq_of_lt (by omega)]

theorem Field.before_key_ne {f g : Field} {m i j : Nat} (h : f.before g m = true) (hf : f.Has i) (hg : g.Has j) (hmf : m ∣ f.period)
    (hmg : m ∣ g.period) : f.key i ≠ g.key j := by
  simp only [Field.before, Bool.and_eq_true, decide_eq_true_eq] at h
  obtain ⟨r, hr, hler⟩ := hf.key_mod hmf (by omega)
  obtain ⟨q, hq, hleq⟩ := hg.key_mod hmg (by omega)
  intro e
  rw [e] at hr
  omega

/-- The elements of two fields lie in different stretches of the map, or interleave without meeting. -/
def Field.clear (f g : Field) : Bool :=
  f.last < g.first || g.last < f.first || f.apart g || f.before g (f.period.gcd g.period) || g.before f (f.period.gcd g.period)

theorem Field.key_ne_of_clear {f g : Field} {i j : Nat} (h : f.clear g = true) (hf : f.Has i) (hg : g.Has j) : f.key i ≠ g.key j := by
  have hfs := hf.span
  have hgs := hg.span
  simp only [Field.clear, Bool.or_eq_true, decide_eq_true_eq] at h
  rcases h with (((h | h) | h) | h) | h
  · omega
  · omega
  · exact Field.key_ne_of_apart h i j
  · exact Field.before_key_ne h hf hg (Nat.gcd_dvd_left _ _) (Nat.gcd_dvd_right _ _)
  · exact (Field.before_key_ne h hg hf (Nat.gcd_dvd_right _ _) (Nat.gcd_dvd_left _ _)).symm

/-! ## The blocks of the map (R381) -/

/-- The block of 1 MiB that a field lies in; the slice windows count as one. -/
def Field.block (f : Field) : Nat := if 2 ^ 32 ≤ f.base then 15 else f.base / 2 ^ 20

/-- The field ends in its block. -/
def Field.blockOk (f : Field) : Bool :=
  f.block ≤ 15 && 8 * 2 ^ 20 * f.block ≤ f.first && (f.block == 15 || f.last < 8 * 2 ^ 20 * (f.block + 1))

/-- Every two fields of a list are clear of each other. -/
def allClear : List Field → Bool
  | [] => true
  | f :: l => (l.all fun g => f.clear g) && allClear l

theorem pairwise_of_allClear {l : List Field} (h : allClear l = true) : l.Pairwise fun f g => f.clear g = true := by
  induction l with
  | nil => exact .nil
  | cons f l ih =>
    simp only [allClear, Bool.and_eq_true, List.all_eq_true] at h
    exact .cons h.1 (ih h.2)

/-- The fields that REGISTER_WRITE writes. -/
def plainFields : List Field := regTable.filter fun f => !f.own

theorem plainFields_blockOk : (plainFields.all Field.blockOk) = true := by decide +kernel

theorem plainFields_allClear : ((List.range 16).all fun b => allClear (plainFields.filter fun f => f.block == b)) = true := by
  decide +kernel

/-- A list whose parts by blocks are pairwise related is so for fields of one block. -/
theorem pairwise_of_blocks {l : List Field} {R : Field → Field → Prop} (h : ∀ b, (l.filter fun f => f.block == b).Pairwise R) :
    l.Pairwise fun f g => f.block = g.block → R f g := by
  induction l with
  | nil => exact .nil
  | cons f l ih =>
    have hhead := h f.block
    rw [List.filter_cons_of_pos (by simp), List.pairwise_cons] at hhead
    refine .cons (fun g hg hb => hhead.1 g (List.mem_filter.mpr ⟨hg, by simp [hb]⟩)) (ih fun b => ?_)
    exact (h b).sublist ((List.sublist_cons_self f l).filter _)

/-- No two elements of fields that REGISTER_WRITE writes share a bit address. -/
theorem plainFields_keys : plainFields.Pairwise fun f g => ∀ i j, f.Has i → g.Has j → f.key i ≠ g.key j := by
  have hblocks := pairwise_of_blocks (l := plainFields) (R := fun f g => f.clear g = true) fun b => ?_
  · have hok := List.all_eq_true.mp plainFields_blockOk
    refine (List.Pairwise.and_mem.mp hblocks).imp fun {f g} ⟨hf, hg, h⟩ i j hi hj => ?_
    by_cases hb : f.block = g.block
    · exact Field.key_ne_of_clear (h hb) hi hj
    · have hf' := hok f hf
      have hg' := hok g hg
      simp only [Field.blockOk, Bool.and_eq_true, Bool.or_eq_true, decide_eq_true_eq, beq_iff_eq] at hf' hg'
      have := hi.span
      have := hj.span
      omega
  · by_cases hb : b < 16
    · exact pairwise_of_allClear (List.all_eq_true.mp plainFields_allClear b (List.mem_range.mpr hb))
    · rw [List.filter_eq_nil_iff.mpr]
      · exact .nil
      · intro f hf
        have hok := List.all_eq_true.mp plainFields_blockOk f hf
        simp only [Field.blockOk, Bool.and_eq_true, decide_eq_true_eq] at hok
        simp only [beq_iff_eq]
        omega

end Sys2Proof.Machine

/-! SUPPORT. What a register write reaches: the elements of the fields at its address, each once, and the bits that show a staged
write as pending apart from them all. -/

namespace Sys2Proof.Machine

/-! ## The elements at an address -/

/-- The element of a field at the register address `a` or up to six bytes after it. -/
structure Field.At (f : Field) (a : Nat) (h : Nat × Nat) (d : Nat) : Prop where
  has : f.Has h.1
  addr : f.base + f.stride * h.1 = a + d
  bit : h.2 = 8 * d + f.lo
  single : f.stride = 0 → d = 0

/-- The element of a field at one byte offset. -/
def Field.hitAt (f : Field) (a d : Nat) : Option (Nat × Nat) :=
  let x := a + d
  if x < f.base then none
  else if f.stride = 0 then (if x = f.base ∧ d = 0 then some (0, f.lo) else none)
  else
    let i := (x - f.base) / f.stride
    if (x - f.base) % f.stride = 0 ∧ i < f.count ∧ (f.per = 0 ∨ i % f.per < f.lim) then some (i, 8 * d + f.lo) else none

theorem Field.hits_eq (f : Field) (a : Nat) : f.hits a = [0, 2, 4, 6].filterMap (f.hitAt a) := rfl

theorem Field.at_of_hitAt {f : Field} {a d : Nat} {h : Nat × Nat} (hh : f.hitAt a d = some h) : f.At a h d := by
  unfold Field.hitAt at hh
  dsimp only at hh
  split at hh
  · cases hh
  · split at hh
    · split at hh
      · cases hh
        rename_i hs hx
        obtain ⟨hx, rfl⟩ := hx
        exact ⟨⟨fun _ => rfl, fun h0 => absurd hs h0⟩, by rw [hs, Nat.zero_mul, ← hx], by simp, fun _ => rfl⟩
      · cases hh
    · split at hh
      · rename_i hx hs hi
        cases hh
        refine ⟨⟨fun h0 => absurd h0 hs, fun _ => hi.2⟩, ?_, rfl, fun h0 => absurd h0 hs⟩
        have hdiv := Nat.div_add_mod (a + d - f.base) f.stride
        rw [hi.1] at hdiv
        dsimp only
        omega
      · cases hh

theorem Field.mem_hits {f : Field} {a : Nat} {h : Nat × Nat} (hh : h ∈ f.hits a) : ∃ d ∈ [0, 2, 4, 6], f.At a h d := by
  rw [f.hits_eq, List.mem_filterMap] at hh
  obtain ⟨d, hd, hh⟩ := hh
  exact ⟨d, hd, Field.at_of_hitAt hh⟩

/-- The elements of one field at an address are distinct. -/
theorem Field.hits_pairwise (f : Field) (a : Nat) : (f.hits a).Pairwise fun x y => f.key x.1 ≠ f.key y.1 := by
  rw [f.hits_eq, List.pairwise_filterMap]
  have hd : [0, 2, 4, 6].Pairwise fun d e : Nat => d ≠ e := by decide
  refine hd.imp fun {d e} hne x hx y hy hkey => hne ?_
  have hx' := Field.at_of_hitAt hx
  have hy' := Field.at_of_hitAt hy
  have h1 := hx'.addr
  have h2 := hy'.addr
  simp only [Field.key] at hkey
  omega

/-- The elements of a field that a write of 64 bits at an address reaches, each with its offset in the value, or none where the upper
half of a 128-bit register brings both halves (R411). -/
def Field.spots (f : Field) (a : Nat) : List (Field × Nat × Option Nat) :=
  if f.wide then (if 8 ≤ a then ((f.hits (a - 8)).filter fun h => h.2 == f.lo).map fun h => (f, h.1, none) else [])
  else (f.hits a).map fun h => (f, h.1, some h.2)

/-- The elements of all fields that a write reaches. -/
def hitSpots (a : Nat) : List (Field × Nat × Option Nat) := plainFields.flatMap fun f => f.spots a

/-- The bits of the value that a spot takes. -/
def State.spotValue (s : State) (a v : Nat) : Option Nat → Nat
  | some off => v % 2 ^ 64 / 2 ^ off
  | none => v % 2 ^ 64 * 2 ^ 64 + kget s.halves (a - 8) 0

theorem State.regHits_eq (s : State) (a v : Nat) :
    s.regHits a v = (hitSpots a).map fun x => (x.1, x.2.1, s.spotValue a v x.2.2) := by
  unfold State.regHits hitSpots plainFields
  induction regTable with
  | nil => rfl
  | cons f l ih =>
    rw [List.flatMap_cons, ih]
    by_cases ho : f.own
    · rw [List.filter_cons_of_neg (by simp [ho]), if_pos ho, List.nil_append]
    · rw [List.filter_cons_of_pos (by simp [ho]), List.flatMap_cons, List.map_append, if_neg ho]
      congr 1
      unfold Field.spots
      by_cases hw : f.wide
      · by_cases h8 : 8 ≤ a
        · simp [hw, h8, State.spotValue, Function.comp_def]
        · simp [hw, h8]
      · simp [hw, State.spotValue, Function.comp_def]

/-- Where the spots of a field lie: at the address or up to six bytes after it, or 8 bytes before it for a 128-bit register. -/
theorem Field.mem_spots {f : Field} {a : Nat} {x : Field × Nat × Option Nat} (hx : x ∈ f.spots a) :
    x.1 = f ∧ f.Has x.2.1 ∧ ((f.wide = false ∧ ∃ d ∈ [0, 2, 4, 6], f.base + f.stride * x.2.1 = a + d) ∨
      (f.wide = true ∧ f.base + f.stride * x.2.1 + 8 = a)) := by
  unfold Field.spots at hx
  split at hx
  case isTrue hw =>
    split at hx
    case isTrue h8 =>
      obtain ⟨h, hh, rfl⟩ := List.mem_map.mp hx
      obtain ⟨hh, hlo⟩ := List.mem_filter.mp hh
      obtain ⟨d, -, hat⟩ := Field.mem_hits hh
      have haddr := hat.addr
      have hbit := hat.bit
      rw [beq_iff_eq] at hlo
      exact ⟨rfl, hat.has, .inr ⟨hw, by dsimp only; omega⟩⟩
    case isFalse h8 => cases hx
  case isFalse hw =>
    obtain ⟨h, hh, rfl⟩ := List.mem_map.mp hx
    obtain ⟨d, hd, hat⟩ := Field.mem_hits hh
    exact ⟨rfl, hat.has, .inl ⟨by simpa using hw, d, hd, hat.addr⟩⟩

/-- The spots of an address lie at different bit addresses. -/
theorem hitSpots_pairwise (a : Nat) : (hitSpots a).Pairwise fun x y => x.1.key x.2.1 ≠ y.1.key y.2.1 := by
  refine List.pairwise_flatMap.mpr ⟨fun f _ => ?_, plainFields_keys.imp fun {f g} h x hx y hy => ?_⟩
  · unfold Field.spots
    split
    · split
      · exact List.pairwise_map.mpr ((f.hits_pairwise _).filter _)
      · exact .nil
    · exact List.pairwise_map.mpr (f.hits_pairwise a)
  · obtain ⟨rfl, hi, -⟩ := Field.mem_spots hx
    obtain ⟨rfl, hj, -⟩ := Field.mem_spots hy
    exact h _ _ hi hj

/-! ## The bits that show a staged write as pending (R95, R189, R296) -/

/-- The places of the fields that are staged: base, stride and number of elements. -/
def stagedPlaces : List (Nat × Nat × Nat) :=
  [(0x100018, 0, 1), (0x100020, 0, 1), (0x100088, 0, 1), (0x200000, 256, 8), (0x200020, 256, 8), (0x401000, 64, 512),
    (0x409000, 32, 2048), (0x409008, 32, 2048), (0x501000, 8, 128), (0x700020, 256, 64), (0x820000, 8, 4096)]

theorem stagedPlaces_of_rs : (plainFields.all fun f =>
    f.acc != .rs || (stagedPlaces.contains (f.base, f.stride, f.count) && f.wide == false && decide (f.lo < 64))) = true := by
  decide +kernel

/-- Fields lie in words of 64 bits, or repeat within one from bit 0 on. -/
theorem plainFields_aligned : (plainFields.all fun f =>
    f.base % 8 == 0 && decide (f.lo < 64) && (f.stride % 8 == 0 || (f.lo == 0 && f.wide == false))) = true := by
  decide +kernel

/-- Field `f` of element `i` is none of the bits that staging element `j` of `g` sets, in whatever state. -/
structure Field.PendClear (f : Field) (i : Nat) (g : Field) (j : Nat) : Prop where
  stage : ∀ (s : State) p, s.stagedPart (g.key j) = some p → f.key i ≠ F.TICK_STAT.stage_pending.key p
  gcb : g.base = F.SPR_GCB_BASE.gcb_base.base ∨ g.base = F.SPR_GCB_LEN.gcb_len.base → f.key i ≠ F.SPR_DSP_STAT.gcb_pending.key (j / 4)
  shp : g.base = F.SRV_SHP.rate.base → f.key i ≠ F.SRV_SCNT.shp_pend.key j

theorem mem_hitSpots {a : Nat} {x : Field × Nat × Option Nat} (hx : x ∈ hitSpots a) :
    x.1 ∈ plainFields ∧ x.1.Has x.2.1 ∧ ((x.1.wide = false ∧ ∃ d ∈ [0, 2, 4, 6], x.1.base + x.1.stride * x.2.1 = a + d) ∨
      (x.1.wide = true ∧ x.1.base + x.1.stride * x.2.1 + 8 = a)) := by
  obtain ⟨f, hf, hx⟩ := List.mem_flatMap.mp hx
  obtain ⟨rfl, h⟩ := Field.mem_spots hx
  exact ⟨hf, h⟩

theorem Field.place_of_rs {g : Field} (hg : g ∈ plainFields) (hrs : g.acc = .rs) :
    (g.base, g.stride, g.count) ∈ stagedPlaces ∧ g.wide = false ∧ g.lo < 64 := by
  have h := List.all_eq_true.mp stagedPlaces_of_rs g hg
  simp only [hrs, bne_self_eq_false, Bool.false_or, Bool.and_eq_true, List.contains_iff_mem, beq_iff_eq, decide_eq_true_eq] at h
  exact ⟨h.1.1, h.1.2, h.2⟩

theorem Field.addr_mod_eight {g : Field} (hg : g.base % 8 = 0) (hs : g.stride % 8 = 0) (i : Nat) : (g.base + g.stride * i) % 8 = 0 := by
  have hdvd : 8 ∣ g.stride * i := (Nat.dvd_of_mod_eq_zero hs).mul_right i
  omega

/-- Spots of one write lie within a word of each other. -/
theorem hitSpots_near {a : Nat} {x y : Field × Nat × Option Nat} (hx : x ∈ hitSpots a) (hy : y ∈ hitSpots a) (hrs : y.1.acc = .rs) :
    8 * (y.1.base + y.1.stride * y.2.1) ≤ x.1.key x.2.1 + 64 ∧ x.1.key x.2.1 ≤ 8 * (y.1.base + y.1.stride * y.2.1) + 63 := by
  obtain ⟨hyf, -, hya⟩ := mem_hitSpots hy
  obtain ⟨hplace, hwide, -⟩ := Field.place_of_rs hyf hrs
  have hyal : y.1.base % 8 = 0 ∧ y.1.stride % 8 = 0 := by
    simp only [stagedPlaces, List.mem_cons, Prod.mk.injEq, List.not_mem_nil, or_false] at hplace
    omega
  have hy8 := Field.addr_mod_eight hyal.1 hyal.2 y.2.1
  obtain ⟨d, hd, hya⟩ := (hya.resolve_right (by simp [hwide])).2
  obtain ⟨hxf, -, hxa⟩ := mem_hitSpots hx
  have hal := List.all_eq_true.mp plainFields_aligned x.1 hxf
  simp only [Bool.and_eq_true, Bool.or_eq_true, beq_iff_eq, decide_eq_true_eq] at hal
  obtain ⟨⟨hx8, hxlo⟩, hxs⟩ := hal
  have hx8' := fun hs => Field.addr_mod_eight hx8 hs x.2.1
  rw [Field.key]
  generalize x.1.base + x.1.stride * x.2.1 = ax at *
  generalize y.1.base + y.1.stride * y.2.1 = ay at *
  simp only [List.mem_cons, List.not_mem_nil, or_false] at hd
  rcases hxa with ⟨-, e, he, hxa⟩ | ⟨hw, hxa⟩
  · simp only [List.mem_cons, List.not_mem_nil, or_false] at he
    rcases hxs with hs | ⟨hlo, -⟩
    · have := hx8' hs
      omega
    · omega
  · have := hx8' (hxs.resolve_right (by simp [hw]))
    omega

/-- The partition that shows a staged write, from its byte address. -/
theorem State.stagedPart_some {s : State} {k p : Nat} (h : s.stagedPart k = some p) :
    (0x700020 ≤ k / 8 ∧ k / 8 < 0x704020) ∨ (0x200000 ≤ k / 8 ∧ k / 8 < 0x200800 ∧ p = (k / 8 - 0x200000) / 256) ∨
      (0x401000 ≤ k / 8 ∧ k / 8 < 0x409000 ∧ p = (k / 8 - 0x401000) / 4096) ∨
      (0x409000 ≤ k / 8 ∧ k / 8 < 0x419000 ∧ p = (k / 8 - 0x409000) / 8192) ∨
      (0x501000 ≤ k / 8 ∧ k / 8 < 0x501400 ∧ p = (k / 8 - 0x501000) / 128) := by
  unfold State.stagedPart at h
  dsimp only at h
  split at h
  · exact .inl ‹_›
  · split at h
    · exact .inr (.inl ⟨by omega, by omega, by simpa using h.symm⟩)
    · split at h
      · exact .inr (.inr (.inl ⟨by omega, by omega, by simpa using h.symm⟩))
      · split at h
        · exact .inr (.inr (.inr (.inl ⟨by omega, by omega, by simpa using h.symm⟩)))
        · split at h
          · exact .inr (.inr (.inr (.inr ⟨by omega, by omega, by simpa using h.symm⟩)))
          · cases h

/-- No spot of a write is a bit that staging another spot of it sets. -/
theorem hitSpots_pendClear {a : Nat} {x y : Field × Nat × Option Nat} (hx : x ∈ hitSpots a) (hy : y ∈ hitSpots a) (hrs : y.1.acc = .rs) :
    x.1.PendClear x.2.1 y.1 y.2.1 := by
  obtain ⟨hlo, hhi⟩ := hitSpots_near hx hy hrs
  obtain ⟨hyf, hhas, -⟩ := mem_hitSpots hy
  obtain ⟨hplace, -, hylo⟩ := Field.place_of_rs hyf hrs
  have hkey : y.1.key y.2.1 = 8 * (y.1.base + y.1.stride * y.2.1) + y.1.lo := rfl
  have hstage : ∀ p, F.TICK_STAT.stage_pending.key p = 8 * (0x200008 + 256 * p) + 33 := fun _ => rfl
  have hgcb : ∀ j, F.SPR_DSP_STAT.gcb_pending.key j = 8 * (0x419000 + 8 * j) + 4 := fun _ => rfl
  have hshp : ∀ j, F.SRV_SCNT.shp_pend.key j = 8 * (0x830000 + 8 * j) + 21 := fun _ => rfl
  -- where the staged field lies, by the row of its register
  have hrow : (y.1.base = 0x100018 ∨ y.1.base = 0x100020 ∨ y.1.base = 0x100088) ∧ y.1.stride * y.2.1 = 0 ∨
      (y.1.base = 0x200000 ∨ y.1.base = 0x200020) ∧ y.1.stride * y.2.1 = 256 * y.2.1 ∧ y.2.1 < 8 ∨
      y.1.base = 0x401000 ∧ y.1.stride * y.2.1 = 64 * y.2.1 ∧ y.2.1 < 512 ∨
      (y.1.base = 0x409000 ∨ y.1.base = 0x409008) ∧ y.1.stride * y.2.1 = 32 * y.2.1 ∧ y.2.1 < 2048 ∨
      y.1.base = 0x501000 ∧ y.1.stride * y.2.1 = 8 * y.2.1 ∧ y.2.1 < 128 ∨
      y.1.base = 0x700020 ∧ y.1.stride * y.2.1 = 256 * y.2.1 ∧ y.2.1 < 64 ∨
      y.1.base = 0x820000 ∧ y.1.stride * y.2.1 = 8 * y.2.1 ∧ y.2.1 < 4096 := by
    have hcount := fun h => (hhas.2 h).1
    simp only [stagedPlaces, List.mem_cons, Prod.mk.injEq, List.not_mem_nil, or_false] at hplace
    rcases hplace with ⟨hb, hs, hc⟩ | ⟨hb, hs, hc⟩ | ⟨hb, hs, hc⟩ | ⟨hb, hs, hc⟩ | ⟨hb, hs, hc⟩ | ⟨hb, hs, hc⟩ | ⟨hb, hs, hc⟩ |
      ⟨hb, hs, hc⟩ | ⟨hb, hs, hc⟩ | ⟨hb, hs, hc⟩ | ⟨hb, hs, hc⟩ <;> simp [hb, hs, hc] at hcount ⊢ <;> exact hcount
  generalize y.1.stride * y.2.1 = off at *
  refine ⟨fun s p hp => ?_, fun hg => ?_, fun hg => ?_⟩
  · have hpart := State.stagedPart_some hp
    rw [hkey] at hpart
    rw [hstage]
    clear hplace hhas hp hkey
    omega
  · have hg' : y.1.base = 0x409000 ∨ y.1.base = 0x409008 := hg
    rw [hgcb]
    omega
  · have hg' : y.1.base = 0x820000 := hg
    rw [hshp]
    omega

end Sys2Proof.Machine

/-! SUPPORT. REGISTER_WRITE: what it does to each field that it reaches, by the field's access code (R15–R17). -/

namespace Sys2Proof.Machine

open Sys2Proof.Safety

variable {s : State}

/-! ## One field -/

/-- The bits that show a staged write are registers. -/
theorem State.pendBits_frame (s : State) (f : Field) (i : Nat) : s.pendBits f i = s.withRegs (s.pendBits f i).regs := by
  unfold State.pendBits
  cases s.stagedPart (f.key i)
  all_goals
    dsimp only
    split
    · rfl
    · split <;> rfl

theorem State.rd_pendBits {s : State} {f g : Field} {i j : Nat} (h : f.PendClear i g j) : (s.pendBits g j).rd f i = s.rd f i := by
  have hrest : ∀ u : State, (if g.base = F.SPR_GCB_BASE.gcb_base.base ∨ g.base = F.SPR_GCB_LEN.gcb_len.base then
      u.put F.SPR_DSP_STAT.gcb_pending (u.rd F.SPR_DSP_STAT.gcb_pending (j / 4) ||| 2 ^ (j % 4)) (j / 4)
      else if g.base = F.SRV_SHP.rate.base then u.put F.SRV_SCNT.shp_pend 1 j else u).rd f i = u.rd f i := by
    intro u
    split
    · exact u.rd_put_ne (h.gcb ‹_›)
    · split
      · exact u.rd_put_ne (h.shp ‹_›)
      · rfl
  unfold State.pendBits
  cases hp : s.stagedPart (g.key j) with
  | none => exact hrest s
  | some p => exact (hrest _).trans (s.rd_put_ne (h.stage s p hp))

theorem State.rd_stage {f g : Field} {i j : Nat} (h : f.PendClear i g j) (v : Nat) : (s.stage g v j).rd f i = s.rd f i :=
  State.rd_pendBits h

theorem State.stage_staged (s : State) (f : Field) (v i : Nat) : (s.stage f v i).staged = kset s.staged (f.key i) (v % 2 ^ f.width) := by
  rw [State.stage, State.pendBits_frame]
  rfl

/-- One field of a register write: the field, its element and the value that reaches it. -/
def State.writeHit (s : State) (x : Field × Nat × Nat) : State := s.writeField x.1 x.2.2 x.2.1

/-- A write of a field changes registers and shadow registers alone. -/
theorem State.writeHit_frame (s : State) (x : Field × Nat × Nat) :
    s.writeHit x = (s.withRegs (s.writeHit x).regs).withStaged (s.writeHit x).staged := by
  unfold State.writeHit State.writeField
  cases x.1.acc <;> dsimp only
  case rs =>
    rw [State.stage, State.pendBits_frame]
    rfl
  all_goals rfl

/-- Field `f` of element `i` is not touched by the write of spot `x`. -/
structure Field.Untouched (f : Field) (i : Nat) (x : Field × Nat × Nat) : Prop where
  key : f.key i ≠ x.1.key x.2.1
  pend : x.1.acc = .rs → f.PendClear i x.1 x.2.1

theorem State.rd_writeHit {f : Field} {i : Nat} {x : Field × Nat × Nat} (h : f.Untouched i x) : (s.writeHit x).rd f i = s.rd f i := by
  unfold State.writeHit State.writeField
  cases hacc : x.1.acc <;> dsimp only
  case rs => exact State.rd_stage (h.pend hacc) _
  all_goals exact s.rd_put_ne h.key

theorem State.staged_writeHit {f : Field} {i : Nat} {x : Field × Nat × Nat} (h : f.Untouched i x) :
    kfind (s.writeHit x).staged (f.key i) = kfind s.staged (f.key i) := by
  unfold State.writeHit State.writeField
  cases hacc : x.1.acc <;> dsimp only
  case rs => rw [State.stage_staged, kfind_kset_ne _ _ h.key]
  all_goals rfl

/-! ## All fields of a write -/

theorem writeHits_frame (l : List (Field × Nat × Nat)) (s : State) :
    l.foldl State.writeHit s = (s.withRegs (l.foldl State.writeHit s).regs).withStaged (l.foldl State.writeHit s).staged := by
  induction l generalizing s with
  | nil => rfl
  | cons x l ih =>
    rw [List.foldl_cons, ih, s.writeHit_frame x]
    rfl

/-- A field that no spot of the list touches reads as before, and so does its shadow register. -/
theorem writeHits_untouched {f : Field} {i : Nat} {l : List (Field × Nat × Nat)} (h : ∀ x ∈ l, f.Untouched i x) (s : State) :
    (l.foldl State.writeHit s).rd f i = s.rd f i ∧ kfind (l.foldl State.writeHit s).staged (f.key i) = kfind s.staged (f.key i) := by
  induction l generalizing s with
  | nil => exact ⟨rfl, rfl⟩
  | cons x l ih =>
    obtain ⟨hrd, hst⟩ := ih (fun y hy => h y (List.mem_cons_of_mem _ hy)) (s.writeHit x)
    have hx := h x List.mem_cons_self
    exact ⟨hrd.trans (State.rd_writeHit hx), hst.trans (State.staged_writeHit hx)⟩

/-- What a write of value `v` leaves of a field, by its access code (R15, R17, R80). -/
def Field.Written (f : Field) (i v : Nat) (s t : State) : Prop :=
  let w := v % 2 ^ f.width
  (f.acc = .rw → t.rd f i = f.limit w % 2 ^ f.width) ∧
    (f.acc = .wo → t.rd f i = w) ∧
    (f.acc = .w1c → t.rd f i = (s.rd f i &&& (2 ^ f.width - 1 - w)) % 2 ^ f.width) ∧
    (f.acc = .rs → t.shadow f i = w ∧ t.rd f i = s.rd f i) ∧
    (f.acc = .ro → t.rd f i = s.rd f i)

theorem State.writeHit_written (s : State) {x : Field × Nat × Nat} (hp : x.1.acc = .rs → x.1.PendClear x.2.1 x.1 x.2.1) :
    x.1.Written x.2.1 x.2.2 s (s.writeHit x) := by
  unfold Field.Written State.writeHit State.writeField
  cases hacc : x.1.acc <;> dsimp only
  case rw => simp [State.rd_put_same]
  case ro => simp
  case w1c => simp [State.rd_put_same]
  case wo => simp [State.rd_put_same]
  case rs =>
    have hshadow : (s.stage x.1 (x.2.2 % 2 ^ x.1.width) x.2.1).shadow x.1 x.2.1 = x.2.2 % 2 ^ x.1.width := by
      rw [State.shadow, State.stage_staged, kget_kset_same, Nat.mod_mod]
    simpa [hshadow] using State.rd_stage (hp hacc) _

theorem Field.Written.congr {f : Field} {i v : Nat} {r s t u : State} (h : f.Written i v s t) (hrs : s.rd f i = r.rd f i)
    (htu : u.rd f i = t.rd f i) (hst : kfind u.staged (f.key i) = kfind t.staged (f.key i)) : f.Written i v r u := by
  have hshadow : u.shadow f i = t.shadow f i := by simp only [State.shadow, kget, hst, htu]
  simpa only [Field.Written, hshadow, htu, hrs] using h

/-- Every spot of a list of spots that do not touch each other is written once. -/
theorem writeHits_written {l : List (Field × Nat × Nat)} (hl : l.Pairwise fun x y => x.1.key x.2.1 ≠ y.1.key y.2.1)
    (hp : ∀ x ∈ l, ∀ y ∈ l, y.1.acc = .rs → x.1.PendClear x.2.1 y.1 y.2.1) {x : Field × Nat × Nat} (hx : x ∈ l) (s : State) :
    x.1.Written x.2.1 x.2.2 s (l.foldl State.writeHit s) := by
  obtain ⟨l₁, l₂, rfl⟩ := List.append_of_mem hx
  obtain ⟨-, h₂, h₁₂⟩ := List.pairwise_append.mp hl
  have hbefore : ∀ y ∈ l₁, x.1.Untouched x.2.1 y := fun y hy =>
    ⟨(h₁₂ y hy x List.mem_cons_self).symm, hp x hx y (List.mem_append_left _ hy)⟩
  have hafter : ∀ y ∈ l₂, x.1.Untouched x.2.1 y := fun y hy =>
    ⟨(List.pairwise_cons.mp h₂).1 y hy, hp x hx y (List.mem_append_right _ (List.mem_cons_of_mem _ hy))⟩
  rw [List.foldl_append, List.foldl_cons]
  obtain ⟨hrd, hst⟩ := writeHits_untouched hafter ((l₁.foldl State.writeHit s).writeHit x)
  exact (State.writeHit_written _ (hp x hx x hx)).congr (writeHits_untouched hbefore s).1 hrd hst

/-! ## The whole write -/

/-- The spots that writer `w` may write at an address. -/
def State.allowed (s : State) (w : Writer) (a v : Nat) : List (Field × Nat × Nat) := (s.regHits a v).filter fun x => s.mayWrite w x.1 x.2.1

theorem regHits_pairwise (s : State) (a v : Nat) : (s.regHits a v).Pairwise fun x y => x.1.key x.2.1 ≠ y.1.key y.2.1 := by
  rw [s.regHits_eq]
  exact List.pairwise_map.mpr (hitSpots_pairwise a)

theorem regHits_pendClear {s : State} {a v : Nat} {x y : Field × Nat × Nat} (hx : x ∈ s.regHits a v) (hy : y ∈ s.regHits a v)
    (hrs : y.1.acc = .rs) : x.1.PendClear x.2.1 y.1 y.2.1 := by
  rw [s.regHits_eq] at hx hy
  obtain ⟨p, hp, rfl⟩ := List.mem_map.mp hx
  obtain ⟨q, hq, rfl⟩ := List.mem_map.mp hy
  exact hitSpots_pendClear hp hq hrs

/-- A field that may be written is; one that may not stays. -/
theorem allowed_written {w : Writer} {a v : Nat} {x : Field × Nat × Nat} (hx : x ∈ s.regHits a v) :
    (s.mayWrite w x.1 x.2.1 = true → x.1.Written x.2.1 x.2.2 s ((s.allowed w a v).foldl State.writeHit s)) ∧
      (s.mayWrite w x.1 x.2.1 = false → ((s.allowed w a v).foldl State.writeHit s).rd x.1 x.2.1 = s.rd x.1 x.2.1) := by
  have hsub : ∀ y ∈ s.allowed w a v, y ∈ s.regHits a v := fun y hy => (List.mem_filter.mp hy).1
  constructor
  · intro hw
    exact writeHits_written ((regHits_pairwise s a v).filter _) (fun y hy z hz => regHits_pendClear (hsub y hy) (hsub z hz))
      (List.mem_filter.mpr ⟨hx, hw⟩) s
  · intro hw
    refine (writeHits_untouched (fun y hy => ⟨?_, regHits_pendClear hx (hsub y hy)⟩) s).1
    have hne : x ≠ y := by
      rintro rfl
      have := (List.mem_filter.mp hy).2
      simp [hw] at this
    have hsymm : Std.Symm fun x y : Field × Nat × Nat => x.1.key x.2.1 ≠ y.1.key y.2.1 := ⟨fun _ _ h => h.symm⟩
    exact (regHits_pairwise s a v).forall hx (hsub y hy) hne

end Sys2Proof.Machine

namespace Sys2Proof.Machine

open Sys2Proof.Safety

variable {s : State}

/-- A write that reaches its fields: neither an ignored write of an active partition's TICK registers, nor one through the window of a
function that does not show the slice (R94, R382). -/
structure State.Reaches (s : State) (w : Writer) (a : Nat) : Prop where
  tick : w = .host → blkTICK ≤ a → a < blkTICK + 0x800 → s.partActive ((a - blkTICK) / 256) = false
  window : ∀ x, w = .slice x → windowSlice a = some x.val ∧ s.sliceState x ≠ unbound

theorem State.regWrite_of_reaches {w : Writer} {a : Nat} (h : s.Reaches w a) (v : Nat) : s.regWrite w a v =
    (let t := ((s.allowed w a v).foldl State.writeHit s).latchHalf w a v
    if (s.allowed w a v).isEmpty then t else (s.writeHook t a).showFault s) := by
  have htick : (w == .host && (decide (blkTICK ≤ a) && decide (a < blkTICK + 0x800)) && s.partActive ((a - blkTICK) / 256)) = false := by
    by_contra hc
    simp only [Bool.not_eq_false, Bool.and_eq_true, beq_iff_eq, decide_eq_true_eq] at hc
    simp [h.tick hc.1.1 hc.1.2.1 hc.1.2.2] at hc
  unfold State.regWrite
  dsimp only
  rw [htick, if_neg Bool.false_ne_true]
  cases w with
  | slice x =>
    obtain ⟨hwin, hbound⟩ := h.window x rfl
    rw [hwin]
    exact if_neg (by simp [hbound])
  | _ => exact if_neg Bool.false_ne_true

/-- The registers, shadow registers, device memory and the queue are the same. -/
structure State.SameStore (s t : State) : Prop where
  regs : t.regs = s.regs
  staged : t.staged = s.staged
  mem : t.mem = s.mem
  pending : t.pending = s.pending

theorem State.SameStore.trans {s t u : State} (h : s.SameStore t) (k : t.SameStore u) : s.SameStore u :=
  ⟨k.regs.trans h.regs, k.staged.trans h.staged, k.mem.trans h.mem, k.pending.trans h.pending⟩

theorem State.sameStore_latchHalf (s : State) (w : Writer) (a v : Nat) : s.SameStore (s.latchHalf w a v) := by
  unfold State.latchHalf
  split <;> exact ⟨rfl, rfl, rfl, rfl⟩

/-- Besides its fields a write of a register other than TIME.PORT touches device time and the control function's watch. -/
theorem State.sameStore_writeHook {a : Nat} (ha : a ≠ F.TIME_PORT.ptp_port.base) (o s : State) : s.SameStore (o.writeHook s a) := by
  unfold State.writeHook
  split
  · exact ⟨rfl, rfl, rfl, rfl⟩
  · split <;> exact ⟨rfl, rfl, rfl, rfl⟩

theorem State.sameStore_showFault (s o : State) : s.SameStore (s.showFault o) := by
  rw [showFault_eq]
  exact ⟨rfl, rfl, rfl, rfl⟩

/-- What a write leaves of registers, shadow registers, memory and the queue is what its fields leave. -/
theorem State.sameStore_regWrite {w : Writer} {a : Nat} (h : s.Reaches w a) (ha : a ≠ F.TIME_PORT.ptp_port.base) (v : Nat) :
    ((s.allowed w a v).foldl State.writeHit s).SameStore (s.regWrite w a v) := by
  rw [State.regWrite_of_reaches h]
  dsimp only
  split
  · exact State.sameStore_latchHalf _ w a v
  · exact ((State.sameStore_latchHalf _ w a v).trans (State.sameStore_writeHook ha _ _)).trans (State.sameStore_showFault _ _)

theorem writeHits_mem (l : List (Field × Nat × Nat)) (s : State) :
    (l.foldl State.writeHit s).mem = s.mem ∧ (l.foldl State.writeHit s).pending = s.pending := by
  rw [writeHits_frame]
  exact ⟨rfl, rfl⟩

/-- A register write changes each field that it reaches by its access code, ignores what the writer may not write, and changes no
memory (R15). -/
theorem registerWrite_effect {wr : Writer} {a : BitVec 40} (h : s.Reaches wr a.toNat) (ha : a.toNat ≠ F.TIME_PORT.ptp_port.base) (v : Word) :
    ∃ t, exec (.registerWrite wr a v) s = .next t ∧ t.mem = s.mem ∧ t.pending = s.pending ∧
      ∀ x ∈ s.regHits a.toNat v.toNat, (s.mayWrite wr x.1 x.2.1 = false → t.rd x.1 x.2.1 = s.rd x.1 x.2.1) ∧
        (s.mayWrite wr x.1 x.2.1 = true → x.1.Written x.2.1 x.2.2 s t) := by
  obtain ⟨hregs, hstaged, hmem, hpend⟩ := State.sameStore_regWrite h ha v.toNat
  obtain ⟨hmem', hpend'⟩ := writeHits_mem (s.allowed wr a.toNat v.toNat) s
  refine ⟨_, rfl, hmem.trans hmem', hpend.trans hpend', fun x hx => ?_⟩
  obtain ⟨hwritten, hkept⟩ := allowed_written (w := wr) hx
  have hrd := State.rd_congr hregs x.1 x.2.1
  exact ⟨fun hw => hrd.trans (hkept hw), fun hw => (hwritten hw).congr rfl hrd (by rw [hstaged])⟩

/-! ## Single registers -/

/-- A host's write acts from start-up step 3 on (R16). -/
theorem State.mayWrite_host {f : Field} (hf : f.host = true) (hb : f.base < 2 ^ 32) (h3 : 3 ≤ s.rd F.RST_STAT.step) (i : Nat) :
    s.mayWrite .host f i = true := by
  simp only [State.mayWrite, hf, hb, h3, decide_true, Bool.and_self, Bool.true_or]

theorem State.mayWrite_host_early {f : Field} (h3 : s.rd F.RST_STAT.step < 3) (hf : f.base ≠ F.RST_DEV_CTRL.dev_rst.base) (i : Nat) :
    s.mayWrite .host f i = false := by
  simp [State.mayWrite, hf]
  omega

theorem State.mayWrite_host_never {f : Field} (hf : f.host = false) (i : Nat) : s.mayWrite .host f i = false := by
  simp [State.mayWrite, hf]

/-- A write that no field takes leaves the state. -/
theorem State.regWrite_none {w : Writer} {a v : Nat} (h : s.Reaches w a) (hnone : s.allowed w a v = [])
    (hlatch : s.latchHalf w a v = s) : s.regWrite w a v = s := by
  rw [State.regWrite_of_reaches h, hnone]
  simp only [List.foldl_nil, List.isEmpty_nil, if_true, hlatch]

/-- No 128-bit register starts at the address. -/
def noWide (a : Nat) : Bool := plainFields.all fun f => !(f.wide && (f.hits a).any fun h => h.2 == f.lo)

theorem State.latchHalf_of_noWide {a : Nat} (h : noWide a = true) (s : State) (w : Writer) (v : Nat) : s.latchHalf w a v = s := by
  unfold State.latchHalf
  refine if_neg ?_
  simp only [List.any_eq_true, Bool.and_eq_true, Bool.not_eq_true', not_exists, not_and]
  intro f hf ⟨ho, hw⟩ x hx
  have hplain := List.all_eq_true.mp h f (List.mem_filter.mpr ⟨hf, by simp [ho]⟩)
  intro hlo hmay
  have : (f.hits a).any (fun h => h.2 == f.lo) = true := List.any_eq_true.mpr ⟨x, hx, hlo⟩
  simp [hw, this] at hplain

end Sys2Proof.Machine

namespace Sys2Proof.Machine

open Sys2Proof.Safety

variable {s : State}

/-- The fault contact follows two registers and the management state. -/
theorem State.faultN_congr {s t : State} (hm : t.mgt = s.mgt) (he : t.rd F.MGT_LOG_STAT.svc_evt = s.rd F.MGT_LOG_STAT.svc_evt)
    (hh : t.rd F.FW_GSTAT.held = s.rd F.FW_GSTAT.held) : t.faultN = s.faultN := by
  simp only [State.faultN, State.on, hm, he, hh]

/-- A register whose write does nothing besides (R58, R59, R402). -/
def noHook (a : Nat) : Bool :=
  a != F.TIME_TOD_NEXT.tod_sec.base && a != F.TIME_PORT.ptp_port.base && a != F.HOST_CTL_HB.hb.base && noWide a

/-- A write of such a register writes its fields, and the fault contact follows. -/
theorem State.regWrite_of_noHook {w : Writer} {a : Nat} (h : s.Reaches w a) (ha : noHook a = true) (v : Nat)
    (hf : ((s.allowed w a v).foldl State.writeHit s).faultN = s.faultN) :
    s.regWrite w a v = (s.allowed w a v).foldl State.writeHit s := by
  simp only [noHook, Bool.and_eq_true, bne_iff_ne, ne_eq] at ha
  obtain ⟨⟨⟨h1, h2⟩, h3⟩, hw⟩ := ha
  rw [State.regWrite_of_reaches h, State.latchHalf_of_noWide hw]
  dsimp only
  rw [State.writeHook, if_neg h1, if_neg h2, if_neg h3, State.showFault, if_pos hf, ite_self]

/-- A host reaches a register outside the TICK block. -/
theorem State.reaches_host {a : Nat} (h : a < blkTICK ∨ blkTICK + 0x800 ≤ a) : s.Reaches .host a :=
  ⟨fun _ h1 h2 => by omega, nofun⟩

/-! ### FAB.LIMITS, FAB.STAT and a register that the host only reads -/

theorem hitSpots_fabLimits : hitSpots 0xA00010 = [(F.FAB_LIMITS.e2e_to_us, 0, some 0), (F.FAB_LIMITS.e2e_tries, 0, some 16)] := by
  decide +kernel
theorem hitSpots_fabStat : hitSpots 0xA00008 = [(F.FAB_STAT.links_up, 0, some 0), (F.FAB_STAT.links_active, 0, some 6),
    (F.FAB_STAT.route_rebuilt, 0, some 12), (F.FAB_STAT.auth_alarm, 0, some 13), (F.FAB_STAT.unreach, 0, some 14),
    (F.FAB_STAT.win_alloc_fail, 0, some 15), (F.FAB_STAT.rec_err, 0, some 16)] := by decide +kernel
theorem hitSpots_readOnly : ((hitSpots 0xA00030).all fun x => !x.1.host) = true := by decide +kernel
theorem hitSpots_openShare : ∀ p : Fin 8, hitSpots (0x200020 + 256 * p.val) = [(F.TICK_OPEN_SHARE.open_share, p.val, some 0)] := by
  decide +kernel

end Sys2Proof.Machine

namespace Sys2Proof.Machine

open Sys2Proof.Safety

variable {s : State}

theorem exec_registerWrite (w : Writer) (a : BitVec 40) (v : Word) (s : State) :
    exec (.registerWrite w a v) s = .next (s.regWrite w a.toNat v.toNat) := rfl

/-- Where no spot of an address may be written, nothing is. -/
theorem State.allowed_eq_nil {w : Writer} {a : Nat} (h : ∀ x ∈ hitSpots a, s.mayWrite w x.1 x.2.1 = false) (v : Nat) :
    s.allowed w a v = [] := by
  rw [State.allowed, s.regHits_eq, List.filter_eq_nil_iff]
  intro y hy
  obtain ⟨x, hx, rfl⟩ := List.mem_map.mp hy
  simp [h x hx]

/-- A host's write before start-up step 3 (R16). -/
theorem registerWrite_fabLimits_early (h : s.rd F.RST_STAT.step < 3) (v : Word) : exec (.registerWrite .host 0xA00010 v) s = .next s := by
  have hnone : s.allowed .host 0xA00010 v.toNat = [] := by
    refine State.allowed_eq_nil (fun x hx => ?_) _
    rw [hitSpots_fabLimits] at hx
    simp only [List.mem_cons, List.not_mem_nil, or_false] at hx
    rcases hx with rfl | rfl <;> exact State.mayWrite_host_early h (by decide) _
  rw [exec_registerWrite]
  exact congrArg _ (State.regWrite_none (State.reaches_host (by decide)) hnone (State.latchHalf_of_noWide (by decide +kernel) s _ _))

theorem registerWrite_readOnly (s : State) (v : Word) : exec (.registerWrite .host 0xA00030 v) s = .next s := by
  have hnone : s.allowed .host 0xA00030 v.toNat = [] := State.allowed_eq_nil (fun x hx =>
    State.mayWrite_host_never (by simpa using List.all_eq_true.mp hitSpots_readOnly x hx) _) _
  rw [exec_registerWrite]
  exact congrArg _ (State.regWrite_none (State.reaches_host (by decide)) hnone (State.latchHalf_of_noWide (by decide +kernel) s _ _))

/-- FAB.LIMITS after a write of it. -/
def State.setFabLimits (s : State) (v : Nat) : State :=
  (s.put F.FAB_LIMITS.e2e_to_us (v % 2 ^ 16)).put F.FAB_LIMITS.e2e_tries (v / 2 ^ 16 % 2 ^ 4)

theorem allowed_fabLimits (h3 : 3 ≤ s.rd F.RST_STAT.step) (v : Word) : s.allowed .host 0xA00010 v.toNat =
    [(F.FAB_LIMITS.e2e_to_us, 0, v.toNat), (F.FAB_LIMITS.e2e_tries, 0, v.toNat / 2 ^ 16)] := by
  have hw1 : s.mayWrite .host F.FAB_LIMITS.e2e_to_us 0 = true := State.mayWrite_host rfl (by decide) h3 0
  have hw2 : s.mayWrite .host F.FAB_LIMITS.e2e_tries 0 = true := State.mayWrite_host rfl (by decide) h3 0
  have hv := Nat.mod_eq_of_lt v.isLt
  simp [State.allowed, s.regHits_eq, hitSpots_fabLimits, State.spotValue, hw1, hw2, hv]

theorem registerWrite_fabLimits (h3 : 3 ≤ s.rd F.RST_STAT.step) (v : Word) :
    ∃ t, exec (.registerWrite .host 0xA00010 v) s = .next t ∧ t.rd F.FAB_LIMITS.e2e_to_us = v.toNat % 2 ^ 16 ∧
      t.rd F.FAB_LIMITS.e2e_tries = v.toNat / 2 ^ 16 % 2 ^ 4 ∧
      OnlyRegs s t [(F.FAB_LIMITS.e2e_to_us, 0), (F.FAB_LIMITS.e2e_tries, 0)] := by
  have hfold : (s.allowed .host 0xA00010 v.toNat).foldl State.writeHit s = s.setFabLimits v.toNat := by
    rw [allowed_fabLimits h3]
    rfl
  have hsame : RegsSame s (s.setFabLimits v.toNat) [(F.FAB_LIMITS.e2e_to_us, 0), (F.FAB_LIMITS.e2e_tries, 0)] :=
    regsSame_put (regsSame_put (regsSame_refl s _) (by simp) _) (by simp) _
  have hfault : (s.setFabLimits v.toNat).faultN = s.faultN :=
    State.faultN_congr rfl (hsame _ _ (by decide)) (hsame _ _ (by decide))
  have hwrite := State.regWrite_of_noHook (State.reaches_host (s := s) (a := 0xA00010) (by decide)) (by decide +kernel) v.toNat
    (hfold ▸ hfault)
  refine ⟨_, (exec_registerWrite _ _ _ _).trans (congrArg _ (hwrite.trans hfold)), ?_, ?_, rfl, hsame⟩
  · calc _ = (s.put F.FAB_LIMITS.e2e_to_us (v.toNat % 2 ^ 16)).rd F.FAB_LIMITS.e2e_to_us := State.rd_put_apart _ (by decide) _ _ _
      _ = v.toNat % 2 ^ 16 % 2 ^ 16 := s.rd_put_same _ _ _
      _ = v.toNat % 2 ^ 16 := Nat.mod_mod _ _
  · exact (State.rd_put_same _ _ _ _).trans (Nat.mod_mod _ _)

/-- FAB.STAT after a write of it: the bits written as 1 are cleared. -/
def State.clearFabStat (s : State) (v : Nat) : State :=
  (((s.writeHit (F.FAB_STAT.route_rebuilt, 0, v / 2 ^ 12)).writeHit (F.FAB_STAT.auth_alarm, 0, v / 2 ^ 13)).writeHit
    (F.FAB_STAT.unreach, 0, v / 2 ^ 14)).writeHit (F.FAB_STAT.win_alloc_fail, 0, v / 2 ^ 15)

/-- The fields of FAB.STAT that a write can clear. -/
def fabStatFields : List (Field × Nat) :=
  [(F.FAB_STAT.route_rebuilt, 0), (F.FAB_STAT.auth_alarm, 0), (F.FAB_STAT.unreach, 0), (F.FAB_STAT.win_alloc_fail, 0)]

theorem regsSame_clearFabStat (s : State) (v : Nat) : RegsSame s (s.clearFabStat v) fabStatFields :=
  regsSame_put (regsSame_put (regsSame_put (regsSame_put (regsSame_refl s _) (by simp [fabStatFields]) _) (by simp [fabStatFields]) _)
    (by simp [fabStatFields]) _) (by simp [fabStatFields]) _

theorem allowed_fabStat (h3 : 3 ≤ s.rd F.RST_STAT.step) (v : Word) : s.allowed .host 0xA00008 v.toNat =
    [(F.FAB_STAT.route_rebuilt, 0, v.toNat / 2 ^ 12), (F.FAB_STAT.auth_alarm, 0, v.toNat / 2 ^ 13),
      (F.FAB_STAT.unreach, 0, v.toNat / 2 ^ 14), (F.FAB_STAT.win_alloc_fail, 0, v.toNat / 2 ^ 15)] := by
  have hw : ∀ f ∈ [F.FAB_STAT.route_rebuilt, F.FAB_STAT.auth_alarm, F.FAB_STAT.unreach, F.FAB_STAT.win_alloc_fail],
      s.mayWrite .host f 0 = true := by
    intro f hf
    simp only [List.mem_cons, List.not_mem_nil, or_false] at hf
    rcases hf with rfl | rfl | rfl | rfl <;> exact State.mayWrite_host rfl (by decide) h3 0
  have hn : ∀ f ∈ [F.FAB_STAT.links_up, F.FAB_STAT.links_active, F.FAB_STAT.rec_err], s.mayWrite .host f 0 = false := by
    intro f hf
    simp only [List.mem_cons, List.not_mem_nil, or_false] at hf
    rcases hf with rfl | rfl | rfl <;> exact State.mayWrite_host_never rfl 0
  simp only [List.forall_mem_cons, List.not_mem_nil, false_imp_iff, implies_true, and_true] at hw hn
  have hv := Nat.mod_eq_of_lt v.isLt
  simp [State.allowed, s.regHits_eq, hitSpots_fabStat, State.spotValue, hw, hn, hv]

theorem registerWrite_fabStat (h3 : 3 ≤ s.rd F.RST_STAT.step) (v : Word) :
    ∃ t, exec (.registerWrite .host 0xA00008 v) s = .next t ∧ (bit v.toNat 13 = true → t.rd F.FAB_STAT.auth_alarm = 0) ∧
      (bit v.toNat 13 = false → t.rd F.FAB_STAT.auth_alarm = s.rd F.FAB_STAT.auth_alarm % 2) ∧
      t.rd F.FAB_STAT.rec_err = s.rd F.FAB_STAT.rec_err ∧ t.rd F.FAB_STAT.links_up = s.rd F.FAB_STAT.links_up ∧
      OnlyRegs s t fabStatFields := by
  have hfold : (s.allowed .host 0xA00008 v.toNat).foldl State.writeHit s = s.clearFabStat v.toNat := by
    rw [allowed_fabStat h3]
    rfl
  have hsame := regsSame_clearFabStat s v.toNat
  have hfault : (s.clearFabStat v.toNat).faultN = s.faultN :=
    State.faultN_congr rfl (hsame _ _ (by decide)) (hsame _ _ (by decide))
  have hwrite := State.regWrite_of_noHook (State.reaches_host (s := s) (a := 0xA00008) (by decide)) (by decide +kernel) v.toNat
    (hfold ▸ hfault)
  have halarm : (s.clearFabStat v.toNat).rd F.FAB_STAT.auth_alarm = (s.rd F.FAB_STAT.auth_alarm &&& (1 - v.toNat / 2 ^ 13 % 2)) % 2 := by
    have hkeep : (s.writeHit (F.FAB_STAT.route_rebuilt, 0, v.toNat / 2 ^ 12)).rd F.FAB_STAT.auth_alarm = s.rd F.FAB_STAT.auth_alarm :=
      s.rd_put_apart (f := F.FAB_STAT.route_rebuilt) (by decide) _ _ _
    calc _ = ((s.writeHit (F.FAB_STAT.route_rebuilt, 0, v.toNat / 2 ^ 12)).writeHit (F.FAB_STAT.auth_alarm, 0, v.toNat / 2 ^ 13)).rd
          F.FAB_STAT.auth_alarm := (State.rd_put_apart _ (f := F.FAB_STAT.win_alloc_fail) (by decide) _ _ _).trans
            (State.rd_put_apart _ (f := F.FAB_STAT.unreach) (by decide) _ _ _)
      _ = _ := State.rd_put_same _ _ _ _
      _ = _ := by rw [hkeep]; rfl
  refine ⟨_, (exec_registerWrite _ _ _ _).trans (congrArg _ (hwrite.trans hfold)), fun hb => ?_, fun hb => ?_, hsame _ _ (by decide),
    hsame _ _ (by decide), rfl, hsame⟩
  · have h1 : v.toNat / 2 ^ 13 % 2 = 1 := by simpa [bit] using hb
    rw [halarm, h1]
    simp
  · have h0 : v.toNat / 2 ^ 13 % 2 = 0 := by simpa [bit] using hb
    rw [halarm, h0]
    simp [Nat.and_one_is_mod]

/-! ### TICK.OPEN_SHARE and slice windows -/

/-- The address of TICK.OPEN_SHARE[p]. -/
theorem openShare_addr (p : Fin 8) : (BitVec.ofNat 40 (0x200020 + 256 * p.val)).toNat = 0x200020 + 256 * p.val := by
  rw [BitVec.toNat_ofNat]
  omega

theorem openShare_noHook : ∀ p : Fin 8, noHook (0x200020 + 256 * p.val) = true := by decide +kernel

/-- A host's write to a TICK register of a partition with an active cell is ignored and shown (R94). -/
theorem registerWrite_active {p : Fin 8} (hact : s.partActive p = true) (v : Word) :
    ∃ t, exec (.registerWrite .host (BitVec.ofNat 40 (0x200020 + 256 * p.val)) v) s = .next t ∧ t.rd F.TICK_STAT.host_wr_ign p = 1 ∧
      OnlyRegs s t [(F.TICK_STAT.host_wr_ign, p.val)] := by
  have hp : (0x200020 + 256 * p.val - blkTICK) / 256 = p.val := by
    simp only [blkTICK]
    omega
  have htick : blkTICK ≤ 0x200020 + 256 * p.val ∧ 0x200020 + 256 * p.val < blkTICK + 0x800 := by
    simp only [blkTICK]
    omega
  have hwrite : s.regWrite .host (0x200020 + 256 * p.val) v.toNat = s.put F.TICK_STAT.host_wr_ign 1 p.val := by
    unfold State.regWrite
    rw [hp]
    exact if_pos (by simp [htick, hact])
  have hexec : exec (.registerWrite .host (BitVec.ofNat 40 (0x200020 + 256 * p.val)) v) s = .next (s.put F.TICK_STAT.host_wr_ign 1 p.val) := by
    rw [exec_registerWrite, openShare_addr, hwrite]
  exact ⟨_, hexec, s.rd_put_same _ _ _, rfl, regsSame_put (regsSame_refl s _) (by simp) _⟩

/-- Staging TICK.OPEN_SHARE[p] shows in partition p (R95). -/
theorem State.stage_openShare_pending (s : State) (p : Fin 8) (v : Nat) :
    (s.stage F.TICK_OPEN_SHARE.open_share v p.val).rd F.TICK_STAT.stage_pending p = 1 := by
  have hkey : F.TICK_OPEN_SHARE.open_share.key p.val / 8 = 0x200020 + 256 * p.val :=
    calc _ = 8 * (0x200020 + 256 * p.val) / 8 := rfl
      _ = 0x200020 + 256 * p.val := Nat.mul_div_cancel_left _ (by decide)
  have hpart : ∀ u : State, u.stagedPart (F.TICK_OPEN_SHARE.open_share.key p.val) = some p.val := by
    intro u
    unfold State.stagedPart
    rw [hkey]
    dsimp only
    rw [if_neg (by omega), if_pos (by omega)]
    exact congrArg some (by omega)
  unfold State.stage State.pendBits
  rw [hpart]
  exact State.rd_put_same _ _ _ _

/-- Otherwise it goes to the shadow register, which is shown as pending (R80, R95). -/
theorem registerWrite_staged {p : Fin 8} (hact : s.partActive p = false) (h3 : 3 ≤ s.rd F.RST_STAT.step) (v : Word) :
    ∃ t, exec (.registerWrite .host (BitVec.ofNat 40 (0x200020 + 256 * p.val)) v) s = .next t ∧
      t.shadow F.TICK_OPEN_SHARE.open_share p = v.toNat % 2 ^ 11 ∧
      t.rd F.TICK_OPEN_SHARE.open_share p = s.rd F.TICK_OPEN_SHARE.open_share p ∧ t.rd F.TICK_STAT.stage_pending p = 1 := by
  have hreach : s.Reaches .host (0x200020 + 256 * p.val) := by
    refine ⟨fun _ _ _ => ?_, nofun⟩
    rw [show (0x200020 + 256 * p.val - blkTICK) / 256 = p.val by simp only [blkTICK]; omega]
    exact hact
  have hport : 0x200020 + 256 * p.val ≠ F.TIME_PORT.ptp_port.base := by
    show 0x200020 + 256 * p.val ≠ 0x100010
    omega
  have hw : s.mayWrite .host F.TICK_OPEN_SHARE.open_share p.val = true := State.mayWrite_host rfl (by decide) h3 _
  have hhits : s.regHits (0x200020 + 256 * p.val) v.toNat = [(F.TICK_OPEN_SHARE.open_share, p.val, v.toNat)] := by
    simp [s.regHits_eq, hitSpots_openShare p, State.spotValue, Nat.mod_eq_of_lt v.isLt]
  have hfold : (s.allowed .host (0x200020 + 256 * p.val) v.toNat).foldl State.writeHit s =
      s.stage F.TICK_OPEN_SHARE.open_share (v.toNat % 2 ^ 11) p.val := by
    simp only [State.allowed, hhits, List.filter_cons, hw, if_true, List.filter_nil]
    rfl
  have hsame := State.sameStore_regWrite hreach hport v.toNat
  rw [← openShare_addr p] at hreach hport hhits
  obtain ⟨t, ht, -, -, hall⟩ := registerWrite_effect hreach hport v
  rw [hhits] at hall
  obtain ⟨-, -, -, hrs, -⟩ := (hall _ List.mem_cons_self).2 hw
  have ht' : t = s.regWrite .host (0x200020 + 256 * p.val) v.toNat := by
    rw [exec_registerWrite, openShare_addr] at ht
    exact (Host.Outcome.next.inj ht).symm
  refine ⟨t, ht, (hrs rfl).1, (hrs rfl).2, ?_⟩
  rw [ht', State.rd_congr hsame.regs, hfold]
  exact s.stage_openShare_pending p _

/-- A slice writes no register of a window that its function does not show (R382). -/
theorem registerWrite_windowMiss {x y : Fin 4096} {off : Fin 65536}
    (h : s.rd F.HOST_SLICE.function x ≠ s.rd F.HOST_SLICE.function y ∨ s.sliceState x = unbound) (v : Word) :
    ∃ t, exec (.registerWrite (.slice x) (BitVec.ofNat 40 (2 ^ 32 + 65536 * y.val + off.val)) v) s = .next t ∧
      t.rd F.HOST_STAT.win_miss = 1 ∧ OnlyRegs s t [(F.HOST_STAT.win_miss, 0)] := by
  have haddr : (BitVec.ofNat 40 (2 ^ 32 + 65536 * y.val + off.val)).toNat = 2 ^ 32 + 65536 * y.val + off.val := by
    rw [BitVec.toNat_ofNat]
    omega
  have hwin : windowSlice (2 ^ 32 + 65536 * y.val + off.val) = some y.val := by
    rw [windowSlice, if_pos (by omega)]
    exact congrArg some (by omega)
  have hmiss : (s.sliceState x.val == unbound || s.sliceState y.val == unbound ||
      s.rd F.HOST_SLICE.function x.val != s.rd F.HOST_SLICE.function y.val) = true := by
    rcases h with h | h <;> simp [h]
  have hwrite : s.regWrite (.slice x) (2 ^ 32 + 65536 * y.val + off.val) v.toNat = s.put F.HOST_STAT.win_miss 1 := by
    unfold State.regWrite
    rw [hwin]
    exact if_pos hmiss
  have hexec : exec (.registerWrite (.slice x) (BitVec.ofNat 40 (2 ^ 32 + 65536 * y.val + off.val)) v) s =
      .next (s.put F.HOST_STAT.win_miss 1) := by
    rw [exec_registerWrite, haddr, hwrite]
  exact ⟨_, hexec, s.rd_put_same _ _ _, rfl, regsSame_put (regsSame_refl s _) (by simp) _⟩

end Sys2Proof.Machine

/-! SUPPORT. Rings: what a ring register reads after a write, and what doorbells, configuration writes, notices and interrupts do. -/

namespace Sys2Proof.Machine

open Sys2Proof.Safety

variable {s : State}

/-! ## Ring registers -/

/-- Two ring registers lie apart in both of their homes. -/
def RingReg.apart (g h : RingReg) : Bool := g.win.apart h.win && g.host.apart h.host

theorem State.ringRd_put_apart {g h : RingReg} (ha : g.apart h = true) (s : State) (k v : Nat) :
    (s.ringPut h k v).ringRd g k = s.ringRd g k := by
  simp only [RingReg.apart, Bool.and_eq_true] at ha
  unfold State.ringRd State.ringPut
  split
  · exact s.rd_put_apart ha.1 _ _ _
  · exact s.rd_put_apart ha.2 _ _ _

theorem State.ringRd_put_same {g : RingReg} (hw : g.win.width = g.host.width) (s : State) (k v : Nat) :
    (s.ringPut g k v).ringRd g k = v % 2 ^ g.host.width := by
  unfold State.ringRd State.ringPut
  split
  · rw [← hw]
    exact s.rd_put_same _ _ _
  · exact s.rd_put_same _ _ _

theorem State.ringPut_frame (s : State) (g : RingReg) (k v : Nat) : s.ringPut g k v = s.withRegs (s.ringPut g k v).regs := by
  unfold State.ringPut
  split <;> rfl

theorem State.ringPut_frame_trans {u : State} (h : u = s.withRegs u.regs) (g : RingReg) (k v : Nat) :
    u.ringPut g k v = s.withRegs (u.ringPut g k v).regs := by
  rw [u.ringPut_frame g k v, h]
  rfl

/-- Registers changed, and then the contents of one ring. -/
theorem State.setRing_frame {u : State} (h : u = s.withRegs u.regs) (k : Nat) (r : Ring) :
    u.setRing k r = (s.withRegs (u.setRing k r).regs).withRings (u.setRing k r).rings := by
  rw [h]
  rfl

theorem State.ringRd_congr {s t : State} (h : t.regs = s.regs) (g : RingReg) (k : Nat) : t.ringRd g k = s.ringRd g k := by
  simp only [State.ringRd, State.rd_congr h]

theorem State.ringPut_rings (s : State) (g : RingReg) (k v : Nat) : (s.ringPut g k v).rings = s.rings := by
  rw [s.ringPut_frame]
  rfl

theorem State.ring_setRing (s : State) (k : Nat) (r : Ring) : (s.setRing k r).ring k = r := kget_kset_same _ _ _ _

theorem State.ring_congr {s t : State} (h : t.rings = s.rings) (k : Nat) : t.ring k = s.ring k := by simp only [State.ring, h]

/-! ## Windows (R382) -/

/-- The function that accesses ring `k` sees it. -/
def State.Sees (s : State) (k : Nat) (fn : Fin 256) : Prop := (k < ctlRing ∧ s.winMiss (k / 16) fn = false) ∨ (ctlRing ≤ k ∧ fn = 0)

theorem State.viaWindow_of_sees {k : Nat} {fn : Fin 256} (h : s.Sees k fn) (go : State → State) : s.viaWindow k fn go = go s := by
  unfold State.viaWindow
  rcases h with ⟨hk, hm⟩ | ⟨hk, rfl⟩
  · rw [if_pos hk, hm]
    rfl
  · rw [if_neg (by omega)]
    rfl

theorem State.viaWindow_of_miss {k : Nat} {fn : Fin 256} (hk : k < ctlRing) (hm : s.winMiss (k / 16) fn = true) (go : State → State) :
    s.viaWindow k fn go = s.put F.HOST_STAT.win_miss 1 := by
  rw [State.viaWindow, if_pos hk, if_pos hm]

theorem State.viaWindow_of_hidden {k : Nat} {fn : Fin 256} (hk : ctlRing ≤ k) (hf : fn ≠ 0) (go : State → State) :
    s.viaWindow k fn go = s := by
  have hf' : fn.val ≠ 0 := fun e => hf (Fin.ext e)
  rw [State.viaWindow, if_neg (by omega), if_neg hf']

section
variable (fn : Fin 256) (r : RingName)

theorem exec_sqTailDoorbell (v : BitVec 32) (s : State) : exec (.sqTailDoorbell ⟨fn, r⟩ v) s =
    .next (s.viaWindow (ringNo r) fn fun s => s.tailBell (ringNo r) v.toNat) := rfl

theorem exec_cqHeadDoorbell (v : BitVec 32) (s : State) : exec (.cqHeadDoorbell ⟨fn, r⟩ v) s =
    .next (s.viaWindow (ringNo r) fn fun s => s.headBell (ringNo r) v.toNat) := rfl

theorem exec_ringConfigWrite (v : Word) (s : State) : exec (.ringConfigWrite ⟨fn, r⟩ v) s =
    .next (s.viaWindow (ringNo r) fn fun s => s.ringConfig (ringNo r) v.toNat) := rfl

end

/-! ## Doorbells (R384) -/

theorem State.tailBell_off {k : Nat} (h : s.ringOn k = false) (v : Nat) : s.tailBell k v = s := by
  rw [State.tailBell, h]
  rfl

theorem State.headBell_off {k : Nat} (h : s.ringOn k = false) (v : Nat) : s.headBell k v = s := by
  rw [State.headBell, h]
  rfl

/-- An index that a doorbell may not take sets `db_err` and changes nothing else. -/
theorem State.dbErr_effect (s : State) (k : Nat) {g : RingReg} (hg : g.apart rDbErr = true) :
    (s.ringPut rDbErr k 1).ringRd rDbErr k = 1 ∧ (s.ringPut rDbErr k 1).ringRd g k = s.ringRd g k ∧
      s.ringPut rDbErr k 1 = s.withRegs (s.ringPut rDbErr k 1).regs :=
  ⟨State.ringRd_put_same rfl s k 1, State.ringRd_put_apart hg s k 1, s.ringPut_frame _ _ _⟩

theorem State.tailBell_error {k v : Nat} (hon : s.ringOn k = true) (h : 2 ^ s.ringRd rSqLog k < (v + 2 ^ 32 - s.ringRd rSqHead k) % 2 ^ 32) :
    s.tailBell k v = s.ringPut rDbErr k 1 := by
  simp only [State.tailBell, hon, Bool.not_true, Bool.false_eq_true, if_false]
  rw [if_pos h]

theorem State.headBell_error {k v : Nat} (hon : s.ringOn k = true) (h : s.cqUsed k < (v + 2 ^ 32 - s.ringRd rCqHead k) % 2 ^ 32) :
    s.headBell k v = s.ringPut rDbErr k 1 := by
  simp only [State.headBell, hon, Bool.not_true, Bool.false_eq_true, if_false]
  rw [if_pos h]

/-- A tail within the ring's room moves, and the entries beyond it are gone. -/
theorem State.tailBell_moves {k : Nat} {v : BitVec 32} (hon : s.ringOn k = true)
    (h : (v.toNat + 2 ^ 32 - s.ringRd rSqHead k) % 2 ^ 32 ≤ 2 ^ s.ringRd rSqLog k) :
    let t := s.tailBell k v.toNat
    t.ringRd rSqTail k = v.toNat ∧ t.ringRd rDbErr k = s.ringRd rDbErr k ∧
      (t.ring k).fifo = (s.ring k).fifo.take ((v.toNat + 2 ^ 32 - s.ringRd rSqHead k) % 2 ^ 32) ∧
      t = (s.withRegs t.regs).withRings t.rings := by
  have htail : (s.ringPut rSqTail k v.toNat).ringRd rSqTail k = v.toNat :=
    (State.ringRd_put_same rfl s k _).trans (Nat.mod_eq_of_lt v.isLt)
  have havail : (s.ringPut rSqTail k v.toNat).sqAvail k = (v.toNat + 2 ^ 32 - s.ringRd rSqHead k) % 2 ^ 32 := by
    rw [State.sqAvail, htail, State.ringRd_put_apart (by decide)]
  have hbell : s.tailBell k v.toNat = (s.ringPut rSqTail k v.toNat).setRing k { (s.ringPut rSqTail k v.toNat).ring k with
      fifo := ((s.ringPut rSqTail k v.toNat).ring k).fifo.take ((s.ringPut rSqTail k v.toNat).sqAvail k) } := by
    simp only [State.tailBell, hon, Bool.not_true, Bool.false_eq_true, if_false]
    rw [if_neg (Nat.not_lt.mpr h)]
  rw [hbell]
  refine ⟨htail, State.ringRd_put_apart (by decide) s k _, ?_, ?_⟩
  · rw [State.ring_setRing, havail, State.ring_congr (s.ringPut_rings _ _ _)]
  · exact State.setRing_frame (s.ringPut_frame _ _ _) k _

theorem State.headBell_moves {k : Nat} {v : BitVec 32} (hon : s.ringOn k = true)
    (h : (v.toNat + 2 ^ 32 - s.ringRd rCqHead k) % 2 ^ 32 ≤ s.cqUsed k) :
    s.headBell k v.toNat = s.ringPut rCqHead k v.toNat ∧ (s.headBell k v.toNat).ringRd rCqHead k = v.toNat := by
  have hbell : s.headBell k v.toNat = s.ringPut rCqHead k v.toNat := by
    simp only [State.headBell, hon, Bool.not_true, Bool.false_eq_true, if_false]
    rw [if_neg (Nat.not_lt.mpr h)]
  rw [hbell]
  exact ⟨rfl, (State.ringRd_put_same rfl s k _).trans (Nat.mod_eq_of_lt v.isLt)⟩

/-! ## Configuration (R383) -/

theorem State.ringConfig_ignored {k : Nat} (h : s.sqAvail k ≠ 0 ∨ s.ringRd rOutst k ≠ 0) (v : Nat) :
    s.ringConfig k v = s.ringPut rCfgIgn k 1 := by
  rw [State.ringConfig, if_pos h]

/-- The fields that a configuration write of an idle ring writes. -/
def State.writeRingCfg (s : State) (k v : Nat) : State :=
  (((((s.ringPut rSqLog k (bits v 3 0)).ringPut rCqLog k (bits v 11 8)).ringPut rVector k (bits v 19 12)).ringPut rCoalCnt k
    (bits v 27 20)).ringPut rCoalUs k (bits v 43 28)).ringPut rMirrorEn k (bits v 44 44)

/-- The four indices of a ring at 0. -/
def State.zeroIndices (s : State) (k : Nat) : State :=
  (((s.ringPut rSqTail k 0).ringPut rSqHead k 0).ringPut rCqHead k 0).ringPut rCqTail k 0

/-- A ring whose sizes change starts empty. -/
def Ring.restarted (r : Ring) : Ring := { r with fifo := [], cq := [], unsig := 0, unsigSince := none, indOff := 0 }

theorem State.ringConfig_idle {k : Nat} (hq : s.sqAvail k = 0) (ho : s.ringRd rOutst k = 0) (v : Nat) :
    s.ringConfig k v =
      if !ringCfgOk (bits v 3 0) (bits v 11 8) then (s.writeRingCfg k v).ringPut rCfgErr k 1
      else if bits v 3 0 = 0 ∨ bits v 11 8 = 0 ∨ (s.ringRd rSqLog k == bits v 3 0 && s.ringRd rCqLog k == bits v 11 8) = true then
        s.writeRingCfg k v
      else ((s.writeRingCfg k v).zeroIndices k).setRing k (s.ring k).restarted := by
  have hring : ∀ u : State, (((u.ringPut rSqTail k 0).ringPut rSqHead k 0).ringPut rCqHead k 0).ring k = u.ring k := fun u =>
    State.ring_congr (by simp only [State.ringPut_rings]) k
  have hcfg : (s.writeRingCfg k v).ring k = s.ring k := State.ring_congr (by simp only [State.writeRingCfg, State.ringPut_rings]) k
  rw [State.ringConfig, if_neg (by simp [hq, ho])]
  simp only [hring]
  rw [← hcfg]
  rfl

theorem State.writeRingCfg_frame (s : State) (k v : Nat) : s.writeRingCfg k v = s.withRegs (s.writeRingCfg k v).regs := by
  unfold State.writeRingCfg
  iterate 5 refine State.ringPut_frame_trans ?_ _ _ _
  exact s.ringPut_frame _ _ _

theorem State.zeroIndices_frame {u : State} (h : u = s.withRegs u.regs) (k : Nat) :
    u.zeroIndices k = s.withRegs (u.zeroIndices k).regs := by
  unfold State.zeroIndices
  iterate 4 refine State.ringPut_frame_trans ?_ _ _ _
  exact h

theorem State.writeRingCfg_reads (s : State) (k v : Nat) : (s.writeRingCfg k v).ringRd rSqLog k = bits v 3 0 ∧
    (s.writeRingCfg k v).ringRd rCqLog k = bits v 11 8 ∧ (s.writeRingCfg k v).ringRd rVector k = bits v 19 12 := by
  have hsq : bits v 3 0 % 2 ^ 4 = bits v 3 0 := Nat.mod_mod _ _
  have hcq : bits v 11 8 % 2 ^ 4 = bits v 11 8 := Nat.mod_mod _ _
  have hvec : bits v 19 12 % 2 ^ 8 = bits v 19 12 := Nat.mod_mod _ _
  unfold State.writeRingCfg
  refine ⟨?_, ?_, ?_⟩
  · iterate 5 rw [State.ringRd_put_apart (by decide)]
    exact (State.ringRd_put_same rfl s k _).trans hsq
  · iterate 4 rw [State.ringRd_put_apart (by decide)]
    exact (State.ringRd_put_same rfl _ k _).trans hcq
  · iterate 3 rw [State.ringRd_put_apart (by decide)]
    exact (State.ringRd_put_same rfl _ k _).trans hvec

theorem State.zeroIndices_reads (s : State) (k : Nat) : (s.zeroIndices k).ringRd rSqTail k = 0 ∧
    (s.zeroIndices k).ringRd rSqHead k = 0 ∧ (s.zeroIndices k).ringRd rCqHead k = 0 ∧ (s.zeroIndices k).ringRd rCqTail k = 0 := by
  unfold State.zeroIndices
  refine ⟨?_, ?_, ?_, State.ringRd_put_same rfl _ k 0⟩
  · iterate 3 rw [State.ringRd_put_apart (by decide)]
    exact State.ringRd_put_same rfl _ k 0
  · iterate 2 rw [State.ringRd_put_apart (by decide)]
    exact State.ringRd_put_same rfl _ k 0
  · rw [State.ringRd_put_apart (by decide)]
    exact State.ringRd_put_same rfl _ k 0

/-- A register apart from the four indices. -/
theorem State.ringRd_zeroIndices {g : RingReg} (h1 : g.apart rSqTail = true) (h2 : g.apart rSqHead = true) (h3 : g.apart rCqHead = true)
    (h4 : g.apart rCqTail = true) (s : State) (k : Nat) : (s.zeroIndices k).ringRd g k = s.ringRd g k := by
  simp only [State.zeroIndices, State.ringRd_put_apart, h1, h2, h3, h4]

theorem State.ringOn_eq {k sq cq : Nat} (hsq : s.ringRd rSqLog k = sq) (hcq : s.ringRd rCqLog k = cq) :
    s.ringOn k = (sq != 0 && cq != 0 && ringCfgOk sq cq) := by rw [State.ringOn, hsq, hcq]

/-- Sizes that R383 does not permit are shown in `cfg_err`, and the ring is off. -/
theorem State.ringConfig_refused {k v : Nat} (hq : s.sqAvail k = 0) (ho : s.ringRd rOutst k = 0)
    (hok : ringCfgOk (bits v 3 0) (bits v 11 8) = false) :
    let t := s.ringConfig k v
    t.ringRd rCfgErr k = 1 ∧ t.ringOn k = false ∧ t = s.withRegs t.regs := by
  have ht : s.ringConfig k v = (s.writeRingCfg k v).ringPut rCfgErr k 1 := by
    rw [State.ringConfig_idle hq ho, hok]
    rfl
  obtain ⟨hsq, hcq, -⟩ := s.writeRingCfg_reads k v
  have hon : ((s.writeRingCfg k v).ringPut rCfgErr k 1).ringOn k = false := by
    rw [State.ringOn_eq ((State.ringRd_put_apart (by decide) _ _ _).trans hsq) ((State.ringRd_put_apart (by decide) _ _ _).trans hcq),
      hok, Bool.and_false]
  rw [ht]
  exact ⟨State.ringRd_put_same rfl _ k 1, hon, State.ringPut_frame_trans (s.writeRingCfg_frame k v) _ _ _⟩

/-- Sizes that change to permitted ones enable an empty ring. -/
theorem State.ringConfig_enabled {k v : Nat} (hq : s.sqAvail k = 0) (ho : s.ringRd rOutst k = 0)
    (hok : ringCfgOk (bits v 3 0) (bits v 11 8) = true) (h1 : bits v 3 0 ≠ 0) (h2 : bits v 11 8 ≠ 0)
    (hne : s.ringRd rSqLog k ≠ bits v 3 0 ∨ s.ringRd rCqLog k ≠ bits v 11 8) :
    let t := s.ringConfig k v
    t.ringOn k = true ∧ t.ringRd rSqLog k = bits v 3 0 ∧ t.ringRd rCqLog k = bits v 11 8 ∧ t.ringRd rVector k = bits v 19 12 ∧
      t.ringRd rSqTail k = 0 ∧ t.ringRd rSqHead k = 0 ∧ t.ringRd rCqHead k = 0 ∧ t.ringRd rCqTail k = 0 ∧ (t.ring k).cq = [] ∧
      t = (s.withRegs t.regs).withRings t.rings := by
  have ht : s.ringConfig k v = ((s.writeRingCfg k v).zeroIndices k).setRing k (s.ring k).restarted := by
    rw [State.ringConfig_idle hq ho, hok, if_neg (by decide), if_neg (by simpa [h1, h2, ← not_and_or] using hne)]
  obtain ⟨hsq, hcq, hvec⟩ := s.writeRingCfg_reads k v
  obtain ⟨i1, i2, i3, i4⟩ := (s.writeRingCfg k v).zeroIndices_reads k
  have hkeep : ∀ g : RingReg, g.apart rSqTail = true → g.apart rSqHead = true → g.apart rCqHead = true → g.apart rCqTail = true →
      ((s.writeRingCfg k v).zeroIndices k).ringRd g k = (s.writeRingCfg k v).ringRd g k :=
    fun g a b c d => State.ringRd_zeroIndices a b c d _ k
  have hsq' := (hkeep rSqLog (by decide) (by decide) (by decide) (by decide)).trans hsq
  have hcq' := (hkeep rCqLog (by decide) (by decide) (by decide) (by decide)).trans hcq
  have hvec' := (hkeep rVector (by decide) (by decide) (by decide) (by decide)).trans hvec
  have hon : ((s.writeRingCfg k v).zeroIndices k).ringOn k = true := by simp [State.ringOn_eq hsq' hcq', h1, h2, hok]
  rw [ht]
  exact ⟨hon, hsq', hcq', hvec', i1, i2, i3, i4, by rw [State.ring_setRing]; rfl,
    State.setRing_frame (State.zeroIndices_frame (s.writeRingCfg_frame k v) k) k _⟩

end Sys2Proof.Machine

/-! SUPPORT. Notices that wait, coalesced interrupts, and the obligation on rings and register writes (R15–R17, R383–R387). -/

namespace Sys2Proof.Machine

open Sys2Proof.Safety

variable {s : State}

/-! ## Posting (R384, R385, R387) -/

/-- Nothing of a ring changed but the entries that wait for an interrupt, and no field of register `g`. -/
structure State.RingKept (s t : State) (g : RingReg) (k : Nat) : Prop where
  reg : t.ringRd g k = s.ringRd g k
  cq : (t.ring k).cq = (s.ring k).cq
  notices : (t.ring k).notices = (s.ring k).notices

theorem State.RingKept.trans {s t u : State} {g : RingReg} {k : Nat} (h : s.RingKept t g k) (j : t.RingKept u g k) : s.RingKept u g k :=
  ⟨j.reg.trans h.reg, j.cq.trans h.cq, j.notices.trans h.notices⟩

theorem State.ringKept_of_eq {s t : State} (hr : t.regs = s.regs) (hk : t.rings = s.rings) (g : RingReg) (k : Nat) : s.RingKept t g k :=
  ⟨State.ringRd_congr hr g k, by rw [State.ring_congr hk], by rw [State.ring_congr hk]⟩

theorem State.ringKept_ringBytes (s : State) (j n : Nat) (g : RingReg) (k : Nat) : s.RingKept (s.ringBytes j n) g k := by
  unfold State.ringBytes
  split
  · exact State.ringKept_of_eq (s := s) (t := s.count (j / 16) 7 n) rfl rfl g k
  · exact State.ringKept_of_eq rfl rfl g k

theorem State.ringKept_hostWr (s : State) (a : Nat) (bs : List Byte) (sp : Nat) (g : RingReg) (k : Nat) :
    s.RingKept ((s.hostWr a bs sp).getD s) g k := by
  unfold State.hostWr
  split
  · exact State.ringKept_of_eq (s := s) (t := (s.withHostMem (Memory.write s.hostMem (hostPlace a sp) bs)).emit (.hostWrite sp a bs)) rfl rfl g k
  · exact State.ringKept_of_eq rfl rfl g k

/-- The device's own register that shows a vector out of range is no ring register. -/
def RingReg.apartVec (g : RingReg) : Bool := g.win.apart F.HOST_STAT.vec_err && g.host.apart F.HOST_STAT.vec_err

theorem State.msix_of_lt {fn v : Nat} (h : v < (if fn = 0 then 64 else 256)) : s.msix fn v = s.emit (.msix fn v) := by
  rw [State.msix, if_pos h]

theorem State.ringKept_msix (s : State) (fn v : Nat) {g : RingReg} (h : g.apartVec = true) (k : Nat) : s.RingKept (s.msix fn v) g k := by
  simp only [RingReg.apartVec, Bool.and_eq_true] at h
  obtain ⟨hwin, hhost⟩ := h
  by_cases hv : v < (if fn = 0 then 64 else 256)
  · rw [State.msix_of_lt hv]
    exact State.ringKept_of_eq (s := s) (t := s.emit (.msix fn v)) rfl rfl g k
  · rw [State.msix, if_neg hv]
    exact ⟨by simp only [State.ringRd, State.rd_put_apart _ hwin, State.rd_put_apart _ hhost], rfl, rfl⟩

/-- Setting the interrupt's count of ring `k` keeps its entries and notices. -/
theorem State.ringKept_setRing {k : Nat} {r : Ring} (hc : r.cq = (s.ring k).cq) (hn : r.notices = (s.ring k).notices) (g : RingReg) :
    s.RingKept (s.setRing k r) g k :=
  ⟨State.ringRd_congr rfl g k, by rw [State.ring_setRing, hc], by rw [State.ring_setRing, hn]⟩

theorem State.ringKept_fireRing (s : State) {g : RingReg} (h : g.apartVec = true) (k : Nat) : s.RingKept (s.fireRing k) g k :=
  (State.ringKept_setRing (r := { s.ring k with unsig := 0, unsigSince := none }) rfl rfl g).trans (State.ringKept_msix _ _ _ h k)

theorem State.ringKept_coalesce (s : State) {g : RingReg} (h : g.apartVec = true) (k : Nat) : s.RingKept (s.coalesce k) g k := by
  unfold State.coalesce
  split
  · exact s.ringKept_fireRing h k
  · exact State.ringKept_of_eq rfl rfl g k

/-- The entry as it stands in the queue: the phase and the tick are filled at posting (R384). -/
def State.stamped (s : State) (k : Nat) (e : CqEntry) : CqEntry :=
  { e with phase := !bit (s.ringRd rCqTail k) (s.ringRd rCqLog k), tick := (s.tickNow % 2 ^ 32).toNat }

/-- The queue of ring `k` with an entry in the slot of its tail, and the tail moved. -/
def State.slotted (s : State) (k : Nat) (e : CqEntry) : State :=
  (s.setRing k { s.ring k with
    cq := kset (s.ring k).cq (s.ringRd rCqTail k % 2 ^ s.ringRd rCqLog k) (s.stamped k e)
    unsig := (s.ring k).unsig + 1, unsigSince := some ((s.ring k).unsigSince.getD s.nowNs) }).ringPut rCqTail k (s.ringRd rCqTail k + 1)

/-- Posting fills the slot; the mirror and the count of bytes are not the ring's. -/
theorem State.ringKept_postRaw (s : State) (k : Nat) (e : CqEntry) (g : RingReg) : (s.slotted k e).RingKept (s.postRaw k e) g k := by
  have hbytes := (s.slotted k e).ringKept_ringBytes k 32 g k
  unfold State.postRaw
  extract_lets c lg e' r u w
  have hw : w = (s.slotted k e).ringBytes k 32 := rfl
  rw [← hw] at hbytes
  split
  · exact hbytes.trans (w.ringKept_hostWr _ _ _ g k)
  · exact hbytes

theorem State.slotted_ring (s : State) (k : Nat) (e : CqEntry) :
    kfind ((s.slotted k e).ring k).cq (s.ringRd rCqTail k % 2 ^ s.ringRd rCqLog k) = some (s.stamped k e) ∧
      ((s.slotted k e).ring k).notices = (s.ring k).notices := by
  have hring : (s.slotted k e).ring k = { s.ring k with
      cq := kset (s.ring k).cq (s.ringRd rCqTail k % 2 ^ s.ringRd rCqLog k) (s.stamped k e)
      unsig := (s.ring k).unsig + 1, unsigSince := some ((s.ring k).unsigSince.getD s.nowNs) } :=
    (State.ring_congr (State.ringPut_rings _ _ _ _) k).trans (State.ring_setRing _ _ _)
  rw [hring]
  exact ⟨kfind_kset_same _ _ _, rfl⟩

theorem State.postCq_effect {k : Nat} (hlg : s.ringRd rCqLog k ≠ 0) (e : CqEntry) :
    ((s.postCq k e).ring k).notices = (s.ring k).notices ∧
    (s.postCq k e).ringRd rCqTail k = (s.ringRd rCqTail k + 1) % 2 ^ 32 ∧
    kfind ((s.postCq k e).ring k).cq (s.ringRd rCqTail k % 2 ^ s.ringRd rCqLog k) = some (s.stamped k e) := by
  have hpost : s.postCq k e = (s.postRaw k e).coalesce k := if_neg hlg
  obtain ⟨htail, hcq, hnot⟩ := (s.ringKept_postRaw k e rCqTail).trans ((s.postRaw k e).ringKept_coalesce (g := rCqTail) (by decide) k)
  obtain ⟨hslot, hkept⟩ := s.slotted_ring k e
  rw [hpost, hnot, hcq, htail]
  exact ⟨hkept, State.ringRd_put_same rfl _ _ _, hslot⟩

/-! ## Notices (R385) -/

theorem exec_noticePost (r : RingName) (s : State) : exec (.noticePost r) s = .next (s.postWaiting (ringNo r)) := rfl

theorem noticePost_posts {r : RingName} {e : CqEntry} {rest : List CqEntry} (hn : (s.ring (ringNo r)).notices = e :: rest)
    (hf : s.cqFree (ringNo r) = true) (hlg : s.ringRd rCqLog (ringNo r) ≠ 0) :
    ∃ t, exec (.noticePost r) s = .next t ∧ (t.ring (ringNo r)).notices = rest ∧
      t.ringRd rCqTail (ringNo r) = (s.ringRd rCqTail (ringNo r) + 1) % 2 ^ 32 ∧
      kfind (t.ring (ringNo r)).cq (s.ringRd rCqTail (ringNo r) % 2 ^ s.ringRd rCqLog (ringNo r)) = some (s.stamped (ringNo r) e) := by
  generalize hk : ringNo r = k at *
  have hpost : s.postWaiting k = (s.setRing k { s.ring k with notices := rest }).postCq k e := by
    simp only [State.postWaiting, hn, hf, if_true]
  have hregs : ∀ g, (s.setRing k { s.ring k with notices := rest }).ringRd g k = s.ringRd g k := fun g => State.ringRd_congr rfl g k
  obtain ⟨hnot, htail, hslot⟩ := State.postCq_effect (s := s.setRing k { s.ring k with notices := rest }) (by rwa [hregs]) e
  rw [State.ring_setRing] at hnot
  refine ⟨_, (exec_noticePost r s).trans (by rw [hk, hpost]), hnot, ?_, ?_⟩
  · rw [htail, hregs]
  · rw [hregs, hregs] at hslot
    rw [hslot]
    simp only [State.stamped, hregs]
    rfl

theorem noticePost_waits {r : RingName} {e : CqEntry} {rest : List CqEntry} (hn : (s.ring (ringNo r)).notices = e :: rest)
    (hf : s.cqFree (ringNo r) = false) : exec (.noticePost r) s = .next s := by
  rw [exec_noticePost, State.postWaiting, hn]
  exact congrArg _ (if_neg (by simp [hf]))

theorem noticePost_nothing {r : RingName} (hn : (s.ring (ringNo r)).notices = []) (he : ringNo r ≠ ctlRing ∨ s.events = []) :
    exec (.noticePost r) s = .next s := by
  rw [exec_noticePost, State.postWaiting, hn]
  rcases he with he | he
  · exact congrArg _ (if_neg he)
  · have hdrain : s.drainEvents 1 = s := by rw [State.drainEvents, he]
    exact congrArg _ (by rw [hdrain, ite_self])

/-! ## Coalesced interrupts (R387) -/

theorem exec_coalTimerExpiry (r : RingName) (s : State) : exec (.coalTimerExpiry r) s = .next (s.coalExpire (ringNo r)) := rfl

theorem State.coalExpire_of_waiting {k t0 : Nat} (h : (s.ring k).unsigSince = some t0) (hu : (s.ring k).unsig ≠ 0)
    (hc : s.ringRd rCoalUs k ≠ 0) :
    s.coalExpire k = ((s.reach (t0 + s.ringRd rCoalUs k * 1000)).map fun s => s.fireRing k).getD s := by
  rw [State.coalExpire, h]
  exact if_neg (by simp [hu, hc])

theorem coalTimerExpiry_fires {r : RingName} {t0 : Nat} (h : (s.ring (ringNo r)).unsigSince = some t0) (hu : (s.ring (ringNo r)).unsig ≠ 0)
    (hc : s.ringRd rCoalUs (ringNo r) ≠ 0) (hdue : t0 + s.ringRd rCoalUs (ringNo r) * 1000 ≤ s.nowNs)
    (hvec : (s.ringVector (ringNo r)).2 < (if (s.ringVector (ringNo r)).1 = 0 then 64 else 256)) :
    ∃ t, exec (.coalTimerExpiry r) s = .next t ∧ t.out = .msix (s.ringVector (ringNo r)).1 (s.ringVector (ringNo r)).2 :: s.out ∧
      (t.ring (ringNo r)).unsig = 0 ∧ (t.ring (ringNo r)).unsigSince = none ∧ t = (s.withRings t.rings).withOut t.out := by
  rw [exec_coalTimerExpiry]
  generalize ringNo r = k at *
  let fired := s.setRing k { s.ring k with unsig := 0, unsigSince := none }
  have hvector : fired.ringVector k = s.ringVector k := by simp only [State.ringVector, fired]; rfl
  have hfire : s.fireRing k = fired.emit (.msix (s.ringVector k).1 (s.ringVector k).2) := by
    rw [← State.msix_of_lt hvec, ← hvector]
    rfl
  have hexpire : s.coalExpire k = fired.emit (.msix (s.ringVector k).1 (s.ringVector k).2) := by
    rw [State.coalExpire_of_waiting h hu hc, State.reach, if_pos hdue, ← hfire]
    rfl
  have hring : (fired.emit (.msix (s.ringVector k).1 (s.ringVector k).2)).ring k = { s.ring k with unsig := 0, unsigSince := none } :=
    s.ring_setRing k _
  exact ⟨_, congrArg _ hexpire, rfl, by rw [hring], by rw [hring], rfl⟩

/-- An interrupt that falls due beyond the present tick waits for it. -/
theorem coalTimerExpiry_later {r : RingName} {t0 : Nat} (h : (s.ring (ringNo r)).unsigSince = some t0) (hu : (s.ring (ringNo r)).unsig ≠ 0)
    (hc : s.ringRd rCoalUs (ringNo r) ≠ 0) (he : s.time.edges = true)
    (hdue : (s.nowNs / 125000 + 1) * 125000 ≤ t0 + s.ringRd rCoalUs (ringNo r) * 1000) : exec (.coalTimerExpiry r) s = .next s := by
  rw [exec_coalTimerExpiry, State.coalExpire_of_waiting h hu hc]
  generalize t0 + s.ringRd rCoalUs (ringNo r) * 1000 = due at hdue ⊢
  have hnow : ¬ due ≤ s.nowNs := by omega
  have hreach : s.reach due = none := by
    rw [State.reach, if_neg hnow, if_neg (by simpa [he] using hdue)]
  rw [hreach]
  rfl

theorem coalTimerExpiry_nothing {r : RingName} (h : (s.ring (ringNo r)).unsigSince = none) : exec (.coalTimerExpiry r) s = .next s := by
  rw [exec_coalTimerExpiry, State.coalExpire, h]

end Sys2Proof.Machine

namespace Sys2Proof.Machine

open Sys2Proof.Safety

variable {s : State} {r : RingName} {fn : Fin 256}

/-! ## Ring commands through a window (R382–R384) -/

theorem ringCommands_missed (hk : ringNo r < ctlRing) (hm : s.winMiss (ringNo r / 16) fn = true) (v : BitVec 32) (cfg : Word) :
    ∃ t, t.rd F.HOST_STAT.win_miss = 1 ∧ OnlyRegs s t [(F.HOST_STAT.win_miss, 0)] ∧ exec (.sqTailDoorbell ⟨fn, r⟩ v) s = .next t ∧
      exec (.cqHeadDoorbell ⟨fn, r⟩ v) s = .next t ∧ exec (.ringConfigWrite ⟨fn, r⟩ cfg) s = .next t := by
  refine ⟨s.put F.HOST_STAT.win_miss 1, s.rd_put_same _ _ _, ⟨rfl, regsSame_put (regsSame_refl s _) (by simp) _⟩, ?_, ?_, ?_⟩
  · rw [exec_sqTailDoorbell, State.viaWindow_of_miss hk hm]
  · rw [exec_cqHeadDoorbell, State.viaWindow_of_miss hk hm]
  · rw [exec_ringConfigWrite, State.viaWindow_of_miss hk hm]

theorem ringCommands_hidden (hk : ctlRing ≤ ringNo r) (hf : fn ≠ 0) (v : BitVec 32) (cfg : Word) :
    exec (.sqTailDoorbell ⟨fn, r⟩ v) s = .next s ∧ exec (.cqHeadDoorbell ⟨fn, r⟩ v) s = .next s ∧
      exec (.ringConfigWrite ⟨fn, r⟩ cfg) s = .next s := by
  rw [exec_sqTailDoorbell, exec_cqHeadDoorbell, exec_ringConfigWrite]
  simp only [State.viaWindow_of_hidden hk hf, and_self]

theorem sqTailDoorbell_of_sees (h : s.Sees (ringNo r) fn) (v : BitVec 32) :
    exec (.sqTailDoorbell ⟨fn, r⟩ v) s = .next (s.tailBell (ringNo r) v.toNat) := by
  rw [exec_sqTailDoorbell, State.viaWindow_of_sees h]

theorem cqHeadDoorbell_of_sees (h : s.Sees (ringNo r) fn) (v : BitVec 32) :
    exec (.cqHeadDoorbell ⟨fn, r⟩ v) s = .next (s.headBell (ringNo r) v.toNat) := by
  rw [exec_cqHeadDoorbell, State.viaWindow_of_sees h]

theorem ringConfigWrite_of_sees (h : s.Sees (ringNo r) fn) (v : Word) :
    exec (.ringConfigWrite ⟨fn, r⟩ v) s = .next (s.ringConfig (ringNo r) v.toNat) := by
  rw [exec_ringConfigWrite, State.viaWindow_of_sees h]

/-- A tail doorbell beyond the ring's room. -/
theorem sqTailDoorbell_error (h : s.Sees (ringNo r) fn) (hon : s.ringOn (ringNo r) = true) {v : BitVec 32}
    (hv : 2 ^ s.ringRd rSqLog (ringNo r) < (v.toNat + 2 ^ 32 - s.ringRd rSqHead (ringNo r)) % 2 ^ 32) :
    ∃ t, exec (.sqTailDoorbell ⟨fn, r⟩ v) s = .next t ∧ t.ringRd rDbErr (ringNo r) = 1 ∧
      t.ringRd rSqTail (ringNo r) = s.ringRd rSqTail (ringNo r) ∧ t = s.withRegs t.regs :=
  ⟨_, (sqTailDoorbell_of_sees h v).trans (congrArg _ (State.tailBell_error hon hv)), State.dbErr_effect s _ (by decide)⟩

/-- A head doorbell beyond the entries in the queue. -/
theorem cqHeadDoorbell_error (h : s.Sees (ringNo r) fn) (hon : s.ringOn (ringNo r) = true) {v : BitVec 32}
    (hv : s.cqUsed (ringNo r) < (v.toNat + 2 ^ 32 - s.ringRd rCqHead (ringNo r)) % 2 ^ 32) :
    ∃ t, exec (.cqHeadDoorbell ⟨fn, r⟩ v) s = .next t ∧ t.ringRd rDbErr (ringNo r) = 1 ∧
      t.ringRd rCqHead (ringNo r) = s.ringRd rCqHead (ringNo r) ∧ t = s.withRegs t.regs :=
  ⟨_, (cqHeadDoorbell_of_sees h v).trans (congrArg _ (State.headBell_error hon hv)), State.dbErr_effect s _ (by decide)⟩

theorem cqHeadDoorbell_moves (h : s.Sees (ringNo r) fn) (hon : s.ringOn (ringNo r) = true) {v : BitVec 32}
    (hv : (v.toNat + 2 ^ 32 - s.ringRd rCqHead (ringNo r)) % 2 ^ 32 ≤ s.cqUsed (ringNo r)) :
    ∃ t, exec (.cqHeadDoorbell ⟨fn, r⟩ v) s = .next t ∧ t.ringRd rCqHead (ringNo r) = v.toNat ∧ t = s.withRegs t.regs := by
  obtain ⟨hput, hread⟩ := State.headBell_moves hon hv
  refine ⟨_, cqHeadDoorbell_of_sees h v, hread, ?_⟩
  rw [hput]
  exact s.ringPut_frame _ _ _

theorem ringConfigWrite_ignored (h : s.Sees (ringNo r) fn) (hbusy : s.sqAvail (ringNo r) ≠ 0 ∨ s.ringRd rOutst (ringNo r) ≠ 0) (v : Word) :
    ∃ t, exec (.ringConfigWrite ⟨fn, r⟩ v) s = .next t ∧ t.ringRd rCfgIgn (ringNo r) = 1 ∧
      t.ringRd rSqLog (ringNo r) = s.ringRd rSqLog (ringNo r) ∧ t = s.withRegs t.regs :=
  ⟨_, (ringConfigWrite_of_sees h v).trans (congrArg _ (State.ringConfig_ignored hbusy _)), State.ringRd_put_same rfl s _ 1,
    State.ringRd_put_apart (by decide) s _ 1, s.ringPut_frame _ _ _⟩

end Sys2Proof.Machine

open Sys2Proof Sys2Proof.Machine Sys2Proof.Safety in
/-- Settles O37: each ring command through the window that shows its ring, and each register write spot by spot of its address. -/
theorem doorbellsRingSizesInterruptsAndRegisterWrites : Obligations.DoorbellsRingSizesInterruptsAndRegisterWrites := by
  unfold Obligations.DoorbellsRingSizesInterruptsAndRegisterWrites
  refine ⟨fun s fn r v cfg => ?_, fun s r => ?_, ⟨fun s v => ?_, fun s p v => ?_, fun s x y off v h => ?_⟩, fun s wr a v ha htick hwin => ?_⟩
  · refine ⟨fun hk hm => ringCommands_missed hk hm v cfg, fun hk hf => ringCommands_hidden hk hf v cfg, fun h hon => ?_, fun h hoff => ?_,
      fun h hbusy => ringConfigWrite_ignored h hbusy cfg, fun h hq ho => ?_⟩
    · exact ⟨sqTailDoorbell_error h hon, fun hv => ⟨_, sqTailDoorbell_of_sees h v, State.tailBell_moves hon hv⟩,
        cqHeadDoorbell_error h hon, cqHeadDoorbell_moves h hon⟩
    · exact ⟨(sqTailDoorbell_of_sees h v).trans (congrArg _ (State.tailBell_off hoff _)),
        (cqHeadDoorbell_of_sees h v).trans (congrArg _ (State.headBell_off hoff _))⟩
    · exact ⟨fun hok => ⟨_, ringConfigWrite_of_sees h cfg, State.ringConfig_refused hq ho hok⟩,
        fun hok h1 h2 hne => ⟨_, ringConfigWrite_of_sees h cfg, State.ringConfig_enabled hq ho hok h1 h2 hne⟩⟩
  · refine ⟨fun e rest hn => ⟨fun hf hlg => ?_, noticePost_waits hn⟩, noticePost_nothing, fun t0 h hu hc => ?_, coalTimerExpiry_nothing⟩
    · obtain ⟨t, ht, hnot, htail, hslot⟩ := noticePost_posts hn hf hlg
      exact ⟨t, _, ht, hnot, htail, hslot, rfl⟩
    · exact ⟨coalTimerExpiry_fires h hu hc, coalTimerExpiry_later h hu hc⟩
  · exact ⟨fun h => registerWrite_fabLimits_early h v, fun h => ⟨registerWrite_fabLimits h v, registerWrite_fabStat h v⟩,
      registerWrite_readOnly s v⟩
  · exact ⟨fun hact => registerWrite_active hact v, fun hact h3 => registerWrite_staged hact h3 v⟩
  · exact registerWrite_windowMiss h v
  · obtain ⟨t, ht, hmem, hpend, hall⟩ := registerWrite_effect ⟨htick, hwin⟩ ha v
    exact ⟨t, ht, hmem, hpend, fun x hx _ => hall x hx⟩

/-! SUPPORT. What stopping a unit's work leaves alone: the status and map registers of the units, and the physical units (R122, R167). -/

namespace Sys2Proof.Machine

open Sys2Proof.Safety

variable {s t : State}

/-! ## The relation -/

/-- What a matrix core's stop leaves of its registers, and a Spur core's. -/
def coreFields : List Field := [F.MSF_STAT.hang, F.MSF_STAT.kat_fail, F.MSF_MAP.phys_slot, F.MSF_MAP.absent]
def spurFields : List Field := [F.SPR_STAT.hang, F.SPR_STAT.kat_fail]

/-- A field apart from all fields of a list. -/
def Field.off (f : Field) (l : List Field) : Bool := l.all fun g => g.apart f

/-- The physical units and the registers of the list are as before. -/
def UnitsKept (l : List Field) (s t : State) : Prop := t.phys = s.phys ∧ ∀ g ∈ l, ∀ j, t.rd g j = s.rd g j

variable {l : List Field}

theorem UnitsKept.refl (l : List Field) (s : State) : UnitsKept l s s := ⟨rfl, fun _ _ _ => rfl⟩

theorem UnitsKept.put_ne (h : UnitsKept l s t) {f : Field} {i : Nat} (hf : ∀ g ∈ l, ∀ j, g.key j ≠ f.key i) (v : Nat) :
    UnitsKept l s (t.put f v i) :=
  ⟨h.1, fun g hg j => (t.rd_put_ne (hf g hg j)).trans (h.2 g hg j)⟩

theorem UnitsKept.put (h : UnitsKept l s t) {f : Field} (hf : f.off l = true) (v i : Nat) : UnitsKept l s (t.put f v i) :=
  h.put_ne (fun g hg j => Field.key_ne_of_apart (List.all_eq_true.mp hf g hg) j i) v

theorem UnitsKept.bump (h : UnitsKept l s t) {f : Field} (hf : f.off l = true) (i k : Nat) : UnitsKept l s (t.bump f i k) := h.put hf _ i

theorem UnitsKept.foldl {α : Type} {g : State → α → State} (hg : ∀ t a, UnitsKept l s t → UnitsKept l s (g t a)) (xs : List α)
    (h : UnitsKept l s t) : UnitsKept l s (xs.foldl g t) := foldl_keep hg xs h

theorem UnitsKept.ite {c : Prop} [Decidable c] {a b : State} (ha : UnitsKept l s a) (hb : UnitsKept l s b) :
    UnitsKept l s (if c then a else b) := by
  split
  · exact ha
  · exact hb

/-! ## Memory, counters and end records -/

theorem UnitsKept.settleOld (h : UnitsKept l s t) (a n k : Nat) : UnitsKept l s (t.settleOld a n k) := by
  unfold State.settleOld
  exact .ite (UnitsKept.foldl (fun u l h => UnitsKept.ite (a := u.memWr _ _) h h) _ h) h

theorem UnitsKept.store (h : UnitsKept l s t) (a : Nat) (bs : List Byte) (k : Nat) : UnitsKept l s (t.store a bs k) :=
  h.settleOld a bs.length k

theorem UnitsKept.charge (h : UnitsKept l s t) (rows : List (Nat × Nat)) (first : Nat) (ks : List Nat) (q : Nat) :
    UnitsKept l s (t.charge rows first ks q) := by
  have hcount : ∀ (u : State) (sl k n : Nat), UnitsKept l s u → UnitsKept l s (u.count sl k n) := fun _ _ _ _ h => h
  unfold State.charge
  exact .ite h (.foldl (fun _ _ h => hcount _ _ _ _ (.foldl (fun _ _ h => hcount _ _ _ _ h) _ h)) _ h)

theorem UnitsKept.endRec (h : UnitsKept l s t) (p lane tag status : Nat) : UnitsKept l s (t.endRec p lane tag status) := h

/-! ## Items -/

theorem UnitsKept.moveDesc (h : UnitsKept l s t) (p : Nat) (it : WlItem) (lane : Nat) (words : List Nat) :
    ∀ r, t.moveDesc p it lane words = some r → UnitsKept l s r.1 := by
  have hput : ∀ (c : Bool) (a : Nat) (x : Part), UnitsKept l s ((if c then t else t.store a (words.flatMap (leBytes 8)) devKey).setPart p x) :=
    fun c a x => UnitsKept.ite h (h.store a _ devKey)
  unfold State.moveDesc
  extract_lets cl x k n a
  intro r hr
  split at hr
  · cases hr
    exact h
  · split at hr
    · cases hr
    · rw [← Option.some.inj hr]
      exact hput _ _ _

/-- An item that goes back to the list is looked for a place of the same tick, and the others of its lane give way (R90). -/
theorem UnitsKept.requeue (h : UnitsKept l s t) (p i cyc : Nat) (sameTick : Bool) : UnitsKept l s (t.requeue p i cyc sameTick) := by
  unfold State.requeue
  split
  · exact h
  · extract_lets it u words lanes found r v w z
    have hu : UnitsKept l s u := h
    have hfound : ∀ x, found = some x → UnitsKept l s x.1 := by
      intro x hx
      simp only [found] at hx
      split at hx
      · cases hx
      · obtain ⟨l, -, hl⟩ := List.exists_of_findSome?_eq_some hx
        split at hl
        · cases hl
        · obtain ⟨y, hy, rfl⟩ := Option.map_eq_some_iff.1 hl
          exact hu.moveDesc p it l words y hy
    have hr : UnitsKept l s r.1 := by
      simp only [r]
      cases hf : found with
      | none => exact hu
      | some x => exact hfound x hf
    exact UnitsKept.ite (a := z.giveWay p r.2.lane) hr hr

/-! ## Tiles -/

theorem UnitsKept.retireTile (h : UnitsKept coreFields s t) (x : Tile) (bank : KMap Nat) : UnitsKept coreFields s (t.retireTile x bank) := by
  have hrow : ∀ (u : State) (row : Nat) (es : List Nat), UnitsKept coreFields s u → UnitsKept coreFields s (u.storeRow x row es) := fun u row es hu =>
    UnitsKept.ite (a := State.sramWr _ _ _) hu hu
  unfold State.retireTile
  exact .ite h (.foldl (fun _ _ h => .foldl (fun _ _ h => hrow _ _ _ h) _ h) _ h)

theorem UnitsKept.tileOver (h : UnitsKept coreFields s t) (n tag last : Nat) : UnitsKept coreFields s (t.tileOver n tag last) := by
  have hcore : UnitsKept coreFields s (t.setCore n { t.core n with run := none }) := h
  exact (((hcore.put (by decide) _ _).put (by decide) _ _).put (by decide) _ _).put (by decide) _ _

theorem UnitsKept.addOps (h : UnitsKept coreFields s t) (n act gated : Nat) : UnitsKept coreFields s (t.addOps n act gated) := by
  unfold State.addOps
  extract_lets c a g u
  have hu : UnitsKept coreFields s u := h
  exact (hu.bump (by decide) _ _).bump (by decide) _ _

theorem UnitsKept.tileDone (h : UnitsKept coreFields s t) (n : Nat) (r : RunningTile) (cycles : Nat) : UnitsKept coreFields s (t.tileDone n r cycles) := by
  unfold State.tileDone
  extract_lets d c res u1 c' u2 u3 u4 u5 u6 l
  have h2 : UnitsKept coreFields s u2 := h.retireTile d res.bank
  have h3 : UnitsKept coreFields s u3 := UnitsKept.ite (h2.put (by decide) _ _) h2
  have h4 : UnitsKept coreFields s u4 := UnitsKept.ite (h3.put (by decide) _ _) h3
  have h5 : UnitsKept coreFields s u5 := h4.put (by decide) _ _
  have h6 : UnitsKept coreFields s u6 := h5.addOps n _ _
  exact ((h6.bump (by decide) _ _).tileOver n _ _).endRec _ _ _ _

/-- A partition's registers lie below those of the matrix cores. -/
theorem coreFields_key_ne_abort {p : Nat} (hp : p < 8) : ∀ g ∈ coreFields, ∀ j, g.key j ≠ F.TICK_ABORT.abort_radio.key p := by
  have hbase : ∀ g ∈ coreFields, 0x301000 ≤ g.base := by decide
  intro g hg j
  have hlow : 8 * 0x301000 ≤ g.key j := by
    have := hbase g hg
    unfold Field.key
    omega
  have hhigh : F.TICK_ABORT.abort_radio.key p = 8 * (0x200028 + 256 * p) := rfl
  omega

theorem UnitsKept.abortTile (h : UnitsKept coreFields s t) {p : Nat} (hp : p < 8) (i cyc : Nat) (why : AbortPoint) : UnitsKept coreFields s (t.abortTile p i cyc why) := by
  unfold State.abortTile
  split
  · exact h
  · split
    · extract_lets n d arrays q free u1 u2 u3 u4 u5 c u6
      have h1 : UnitsKept coreFields s u1 := h.bump (by decide) _ _
      have h2 : UnitsKept coreFields s u2 := UnitsKept.ite h1 (h1.charge _ _ _ _)
      have h3 : UnitsKept coreFields s u3 := UnitsKept.ite h2 (h2.bump (by decide) _ _)
      have h4 : UnitsKept coreFields s u4 := UnitsKept.ite (h3.put_ne (coreFields_key_ne_abort hp) _) (h3.bump (by decide) _ _)
      have h6 : UnitsKept coreFields s u6.drawn := h4.tileOver n d.tag 1
      exact h6.requeue p i cyc _
    · exact h

theorem UnitsKept.finishTile (h : UnitsKept coreFields s t) (p i cyc : Nat) : UnitsKept coreFields s (t.finishTile p i cyc) := by
  unfold State.finishTile
  split
  · exact h
  · split
    · extract_lets d u1 u2
      have h1 : UnitsKept coreFields s u1 := h.tileDone _ _ _
      exact (UnitsKept.ite h1 (h1.charge _ _ _ _) : UnitsKept coreFields s u2)
    · exact h

theorem UnitsKept.interruptTile (h : UnitsKept coreFields s t) {p : Nat} (hp : p < 8) (i cyc : Nat) (why : AbortPoint) : UnitsKept coreFields s (t.interruptTile p i cyc why) := by
  unfold State.interruptTile
  split
  · exact h
  · split
    · exact .ite (h.finishTile _ _ _) (.ite (h.abortTile hp _ _ _) (h.abortTile hp _ _ _))
    · exact h

/-! ## Threads and jobs -/

theorem UnitsKept.rdRecord (h : UnitsKept spurFields s t) (a n k : Nat) : UnitsKept spurFields s (t.rdRecord a n k) :=
  .ite (.foldl (fun _ _ h => .ite (h.bump (by decide) _ _) h) _ h) h

theorem UnitsKept.noteAbsorb (h : UnitsKept spurFields s t) (a status : Nat) : UnitsKept spurFields s (t.noteAbsorb a status) := by
  unfold State.noteAbsorb
  split
  · exact .ite (h.bump (by decide) _ _) h
  · exact h

theorem tsField_off (k : Nat) : (tsField k).off spurFields = true := by
  unfold tsField
  split <;> decide

theorem UnitsKept.setThread (h : UnitsKept spurFields s t) (th : Nat) (x : Thread) : UnitsKept spurFields s (t.setThread th x) :=
  h.put (tsField_off _) _ _

theorem UnitsKept.showBusy (h : UnitsKept spurFields s t) (n : Nat) : UnitsKept spurFields s (t.showBusy n) := h.put (by decide) _ _

theorem UnitsKept.clearJob (h : UnitsKept spurFields s t) (n key mask : Nat) : UnitsKept spurFields s (t.clearJob n key mask) := by
  have hj : UnitsKept spurFields s (t.withJobs (kdel t.jobs key)) := h
  exact (hj.foldl (fun _ _ h => h.setThread _ _) _).showBusy n

theorem UnitsKept.katThreads (h : UnitsKept spurFields s t) (n mask : Nat) (st : TState) : UnitsKept spurFields s (t.katThreads n mask st) :=
  (h.foldl (fun _ _ h => h.setThread _ _) _).showBusy n

theorem UnitsKept.meter (h : UnitsKept spurFields s t) (th a n : Nat) : UnitsKept spurFields s (t.meter th a n) := by
  unfold State.meter
  split
  · exact .ite h (UnitsKept.ite (a := t.count _ _ _) h h)
  · exact h

theorem UnitsKept.postStore (h : UnitsKept spurFields s t) (th : Nat) (x : Posted) : UnitsKept spurFields s (t.postStore th x) :=
  .ite ((h.meter _ _ _).store _ _ _) h

theorem UnitsKept.drainStores (h : UnitsKept spurFields s t) (th : Nat) : UnitsKept spurFields s (t.drainStores th) :=
  (h.foldl (fun _ _ h => h.postStore _ _) _).setThread _ _

theorem UnitsKept.atomicAt (h : UnitsKept spurFields s t) (a n key op : Nat) (sgn : Bool) (opnd cmp : Nat) :
    UnitsKept spurFields s (t.atomicAt a n key op sgn opnd cmp).1 := by
  unfold State.atomicAt
  split
  · exact h.rdRecord _ _ _
  · exact h.store _ _ _

theorem UnitsKept.perform1 (h : UnitsKept spurFields s t) (op a len value newv key : Nat) (sgn dev : Bool) (data : List Byte) :
    UnitsKept spurFields s (t.perform1 op a len value newv key sgn dev data).1 := by
  unfold State.perform1
  split
  · split
    · exact h
    · dsimp only
      split <;> exact h
  · dsimp only
    split
    · exact (h.rdRecord _ _ _).noteAbsorb _ _
    · split
      · exact h
      · exact h.store _ _ _
      · exact h.store _ _ _

theorem UnitsKept.endReq (h : UnitsKept spurFields s t) (q : FabReq) : UnitsKept spurFields s (t.endReq q) := by
  unfold State.endReq State.wakeFab State.countReqs
  extract_lets u
  have hu : UnitsKept spurFields s u := h
  exact ((hu.put (by decide) _ _).put (by decide) _ _).foldl (fun _ _ h => h.setThread _ _) _

theorem UnitsKept.finishParked (h : UnitsKept spurFields s t) (th : Nat) : UnitsKept spurFields s (t.finishParked th) := by
  have hspur : ∀ (u : State) (x : SpurCore), UnitsKept spurFields s u → UnitsKept spurFields s (u.setSpur (th / 8) x) := fun _ _ h => h
  unfold State.finishParked
  dsimp only
  split
  · exact hspur _ _ (.ite ((h.meter _ _ _).atomicAt _ _ _ _ _ _ _) h)
  · exact hspur _ _ h
  · split
    · split
      · exact hspur _ _ ((h.perform1 _ _ _ _ _ _ _ _ _).endReq _)
      · exact hspur _ _ h
    · exact hspur _ _ h
  · exact hspur _ _ h
  · exact h.postStore _ _
  · exact h

theorem UnitsKept.jobRec (h : UnitsKept spurFields s t) (n tag status : Nat) : UnitsKept spurFields s (t.jobRec n tag status) := h

theorem UnitsKept.abortJob (h : UnitsKept spurFields s t) (n key cyc : Nat) (why : AbortPoint) : UnitsKept spurFields s (t.abortJob n key cyc why) := by
  unfold State.abortJob
  split
  · exact h
  · split
    · exact h
    · extract_lets ths q free u1 u2 u3 u4
      have h1 : UnitsKept spurFields s u1 := h.bump (by decide) _ _
      have h2 : UnitsKept spurFields s u2 := UnitsKept.ite (b := (u1.count _ _ _).count _ _ _) h1 h1
      have h3 : UnitsKept spurFields s u3 := h2.foldl (fun _ _ h => (h.drainStores _).finishParked _) _
      have h4 : UnitsKept spurFields s u4 := UnitsKept.foldl (g := fun s th => s.dbgEvent (tgtThread th) 2 (s.thread th).pc.toNat) (fun _ _ h => h) _ h3
      exact ((h4.clearJob _ _ _).jobRec _ _ _).requeue _ _ _ _

theorem UnitsKept.cutRadioJob (h : UnitsKept spurFields s t) (n key : Nat) : UnitsKept spurFields s (t.cutRadioJob n key) := by
  unfold State.cutRadioJob
  split
  · exact h
  · exact ((h.bump (by decide) _ _).clearJob _ _ _).jobRec _ _ _

/-! ## A unit stops -/

/-- An entry that runs is missed: no register changes. -/
theorem UnitsKept.missSlots (h : UnitsKept l s t) (p : Nat) (xs : List (ColSlot × Nat)) :
    UnitsKept l s (xs.foldl (fun s x => (s.setSlot p x.2 .missed).missed p x.1.desc) t) :=
  .foldl (g := fun s x => (s.setSlot p x.2 .missed).missed p x.1.desc) (fun _ _ h => h) xs h

theorem UnitsKept.meterRadio (h : UnitsKept coreFields s t) (n : Nat) : UnitsKept coreFields s (t.meterRadio n) := by
  unfold State.meterRadio
  split
  · exact .ite (h.bump (by decide) _ _) h
  · exact h

theorem UnitsKept.loseRadio_core (h : UnitsKept coreFields s t) (p : Nat) {lane : Nat} (hl : lane < 16) :
    UnitsKept coreFields s (t.loseRadio p lane) := by
  have hspur : spurLane lane = false := by simp [spurLane, hl]
  unfold State.loseRadio
  rw [hspur]
  exact (UnitsKept.ite (h.meterRadio _) h).missSlots p _

theorem UnitsKept.loseRadio_spur (h : UnitsKept spurFields s t) (p : Nat) {lane : Nat} (hl : 16 ≤ lane) :
    UnitsKept spurFields s (t.loseRadio p lane) := by
  have hcore : coreLane lane = false := by simp [coreLane, hl]
  unfold State.loseRadio
  rw [hcore]
  exact (UnitsKept.ite (h.foldl (fun _ _ h => h.cutRadioJob _ _) _) h).missSlots p _

theorem unitsKept_stopCoreWork (s : State) (n : Fin 128) : UnitsKept coreFields s (s.stopCoreWork n) := by
  unfold State.stopCoreWork
  extract_lets p lane u1 u2
  have hp : p < 8 := by
    show n.val / 16 < 8
    omega
  have h1 : UnitsKept coreFields s u1 := (UnitsKept.refl _ s).foldl (fun _ _ h => h.interruptTile hp _ _ _) _
  exact h1.loseRadio_core p (Nat.mod_lt _ (by decide))

theorem unitsKept_stopSpurWork (s : State) (n : Nat) : UnitsKept spurFields s (s.stopSpurWork n) := by
  unfold State.stopSpurWork
  extract_lets p lane u1 u2
  have h1 : UnitsKept spurFields s u1 := (UnitsKept.refl _ s).foldl (fun _ _ h => h.abortJob _ _ _ _) _
  have h2 : UnitsKept spurFields s u2 := h1.foldl (fun _ _ h => (UnitsKept.ite (h.katThreads _ _ _) h).requeue _ _ _ _) _
  exact h2.loseRadio_spur p (Nat.le_add_left _ _)

end Sys2Proof.Machine

/-! SUPPORT. Fences (R122, R123, R167, R459): what a fenced unit shows, what happens to its physical unit and whether a spare takes over. -/

namespace Sys2Proof.Machine

open Sys2Proof.Safety

variable {s : State}

/-! ## Events and defects -/

/-- A field apart from those that an event writes. -/
def Field.offEvents (g : Field) : Bool :=
  [F.MGT_LOG_STAT.evt_count, F.MGT_LOG_STAT.evt_seq, F.MGT_LOG_STAT.svc_evt, F.FW_GSTAT.log_lost].all g.apart

theorem State.rd_event (s : State) (cls sev k data src : Nat) {g : Field} (hg : g.offEvents = true) (j : Nat) :
    (s.event cls sev k data src).rd g j = s.rd g j := by
  refine (event_only s cls sev k data src).2 g j ?_
  simp only [Field.offEvents, List.all_cons, List.all_nil, Bool.and_true, Bool.and_eq_true] at hg
  obtain ⟨h1, h2, h3, h4⟩ := hg
  simp [eventFields, Field.key_ne_of_apart, h1, h2, h3, h4]

theorem State.event_phys (s : State) (cls sev k data src : Nat) : (s.event cls sev k data src).phys = s.phys := by
  rw [(event_only s cls sev k data src).1]
  rfl

theorem State.event_cores (s : State) (cls sev k data src : Nat) : (s.event cls sev k data src).cores = s.cores := by
  rw [(event_only s cls sev k data src).1]
  rfl

theorem State.rd_defect (s : State) (kind cause unit pos : Nat) {g : Field} (h1 : g.apart F.RST_DM.dm_full = true)
    (h2 : g.apart F.RST_DM.dm_pending = true) (j : Nat) : (s.defect kind cause unit pos).rd g j = s.rd g j := by
  unfold State.defect
  extract_lets same d
  split
  · rfl
  · split
    · exact s.rd_put_apart h1 _ _ _
    · exact State.rd_put_apart _ h2 _ _ _

theorem State.defect_units (s : State) (kind cause unit pos : Nat) :
    (s.defect kind cause unit pos).phys = s.phys ∧ (s.defect kind cause unit pos).cores = s.cores := by
  unfold State.defect
  extract_lets same d
  split
  · exact ⟨rfl, rfl⟩
  · split <;> exact ⟨rfl, rfl⟩

/-! ## Physical units -/

theorem State.physOf_congr {s t : State} (h : t.phys = s.phys) (k : Nat) : t.physOf k = s.physOf k := by simp only [State.physOf, h]

theorem State.core_congr {s t : State} (h : t.cores = s.cores) (n : Nat) : t.core n = s.core n := by simp only [State.core, h]

theorem State.core_setCore_same (s : State) (n : Nat) (x : Core) : (s.setCore n x).core n = x := kget_kset_same _ _ _ _

theorem State.physOf_setPhys (s : State) (k : Nat) (x : Phys) (j : Nat) :
    (s.setPhys k x).physOf j = if j = k then x else s.physOf j := by
  split
  · next h => exact h ▸ kget_kset_same _ _ _ _
  · next h => exact kget_kset_ne _ _ _ h

/-- Hangs of a physical unit after a fence, and the cause of the defect that the fence records of it. -/
def Phys.hangsBy (x : Phys) (cause : Nat) : Nat := if cause = 3 then x.hangs + 1 else x.hangs
def Phys.defectBy (x : Phys) (cause : Nat) : Option Nat :=
  if cause = 2 then some 3 else if cause = 4 then some 2 else if cause = 3 ∧ 2 ≤ x.hangsBy cause then some 5 else none

/-- The physical unit as a fence leaves it. -/
def Phys.fencedBy (x : Phys) (cause : Nat) : Phys :=
  { x with fenced := true, cause := cause, hangs := x.hangsBy cause, bad := x.bad || (x.defectBy cause).isSome }

/-- A fence changes the physical unit, and may record a defect of it. -/
theorem State.fencePhys_cases (s : State) (key cause : Nat) :
    s.fencePhys key cause = s.setPhys key ((s.physOf key).fencedBy cause) ∨
      ∃ kind c unit pos, s.fencePhys key cause = (s.setPhys key ((s.physOf key).fencedBy cause)).defect kind c unit pos := by
  have heq : s.fencePhys key cause = match (s.physOf key).defectBy cause with
      | some c => if key < 1024 then (s.setPhys key ((s.physOf key).fencedBy cause)).defect 0 c (key / 32) (key % 32)
        else (s.setPhys key ((s.physOf key).fencedBy cause)).defect 1 c ((key - 1024) / 32) (key % 32)
      | none => s.setPhys key ((s.physOf key).fencedBy cause) := rfl
  rw [heq]
  cases (s.physOf key).defectBy cause with
  | none => exact .inl rfl
  | some c =>
    right
    by_cases hk : key < 1024
    · exact ⟨_, _, _, _, if_pos hk⟩
    · exact ⟨_, _, _, _, if_neg hk⟩

theorem State.fencePhys_units (s : State) (key cause : Nat) :
    (s.fencePhys key cause).phys = (s.setPhys key ((s.physOf key).fencedBy cause)).phys ∧ (s.fencePhys key cause).cores = s.cores := by
  rcases s.fencePhys_cases key cause with h | ⟨kind, c, unit, pos, h⟩ <;> rw [h]
  · exact ⟨rfl, rfl⟩
  · exact State.defect_units _ _ _ _ _

theorem State.rd_fencePhys (s : State) (key cause : Nat) {g : Field} (h1 : g.apart F.RST_DM.dm_full = true)
    (h2 : g.apart F.RST_DM.dm_pending = true) (j : Nat) : (s.fencePhys key cause).rd g j = s.rd g j := by
  rcases s.fencePhys_cases key cause with h | ⟨kind, c, unit, pos, h⟩ <;> rw [h]
  · rfl
  · exact State.rd_defect _ _ _ _ _ h1 h2 j

/-- A fence makes no unit a healthy spare. -/
theorem State.findSpare_fencePhys {ks : List Nat} (h : (s.findSpare ks).isNone) (key cause : Nat) :
    (s.fencePhys key cause).findSpare ks = none := by
  simp only [State.findSpare, Option.isNone_iff_eq_none, List.find?_eq_none] at h ⊢
  intro k hk
  rw [State.physOf_congr (s.fencePhys_units key cause).1, State.physOf_setPhys]
  split
  · next e =>
    have := h k hk
    subst e
    simp only [Phys.fencedBy, Bool.and_eq_true, Bool.not_eq_true', Bool.or_eq_false_iff] at this ⊢
    tauto
  · exact h k hk

theorem State.findSpare_congr {s t : State} (h : t.phys = s.phys) (ks : List Nat) : t.findSpare ks = s.findSpare ks := by
  simp only [State.findSpare, State.physOf_congr h]

/-! ## The search for a spare (R23) -/

theorem State.rd_loseCore (s : State) (n : Nat) {g : Field} (h1 : g.apart F.MSF_MAP.absent = true)
    (h2 : g.apart F.RST_CL_STAT.absent_cores = true) (j : Nat) : (s.loseCore n).rd g j = s.rd g j := by
  unfold State.loseCore State.lostLane
  split
  · rfl
  · refine (State.rd_put_apart _ h2 _ _ _).trans ((State.rd_put_apart _ h1 _ _ _).trans ?_)
    split <;> rfl

theorem State.loseCore_units (s : State) (n : Nat) : (s.loseCore n).phys = s.phys ∧ (s.loseCore n).cores = s.cores := by
  unfold State.loseCore State.lostLane
  split
  · exact ⟨rfl, rfl⟩
  · split <;> exact ⟨rfl, rfl⟩

theorem State.loseCore_absent {n : Nat} (h : s.rd F.MSF_MAP.absent n = 0) : (s.loseCore n).rd F.MSF_MAP.absent n = 1 := by
  rw [State.loseCore, s.on_eq_false_of_rd h]
  exact (State.rd_put_apart _ (by decide) _ _ _).trans (State.rd_put_same _ _ _ _)

theorem State.rd_seekCore (s : State) (n : Nat) {g : Field} (h1 : g.apart F.MSF_MAP.absent = true)
    (h2 : g.apart F.RST_CL_STAT.absent_cores = true) (j : Nat) : (s.seekCore n).rd g j = s.rd g j := by
  unfold State.seekCore
  dsimp only
  split
  · rfl
  · exact s.rd_loseCore n h1 h2 j

theorem State.seekCore_run (s : State) (n : Nat) : ((s.seekCore n).core n).run = (s.core n).run := by
  unfold State.seekCore
  dsimp only
  split
  · exact (congrArg Core.run (State.core_setCore_same _ n _)).trans rfl
  · rw [State.core_congr (s.loseCore_units n).2]

theorem State.seekCore_fenced {k : Nat} (n : Nat) (h : (s.physOf k).fenced = true) : ((s.seekCore n).physOf k).fenced = true := by
  unfold State.seekCore
  dsimp only
  split
  · next j hj =>
    refine (congrArg Phys.fenced (s.physOf_setPhys j _ k)).trans ?_
    split
    · next e => exact e ▸ h
    · exact h
  · rwa [State.physOf_congr (s.loseCore_units n).1]

theorem State.seekCore_absent {n : Nat} (h : s.rd F.MSF_MAP.absent n = 0)
    (hs : s.findSpare ((List.range 5).map (slotKey (n / 4))) = none) : (s.seekCore n).rd F.MSF_MAP.absent n = 1 := by
  unfold State.seekCore
  dsimp only
  rw [hs]
  exact State.loseCore_absent h

/-! ## Fencing a matrix core (R122, R123) -/

/-- The engine's registers as a fence leaves them: idle, fenced and with its cause. -/
def State.markCore (s : State) (n cause : Nat) : State :=
  let u := ((s.stopCoreWork n).put F.MSF_STAT.fenced 1 n).put F.MSF_STAT.fence_cause cause n
  u.tileOver n (u.rd F.MSF_LAST.last_tag n) (u.rd F.MSF_LAST.last_end n)

theorem State.rd_tileOver (s : State) (n tag last : Nat) {g : Field} (h1 : g.apart F.MSF_STAT.busy = true)
    (h2 : g.apart F.MSF_STAT.bg_active = true) (h3 : g.apart F.MSF_LAST.last_tag = true) (h4 : g.apart F.MSF_LAST.last_end = true) (j : Nat) :
    (s.tileOver n tag last).rd g j = s.rd g j := by
  simp only [State.tileOver, State.rd_put_apart, h1, h2, h3, h4]
  rfl

theorem State.fenceCore_of_healthy {n : Nat} (hf : s.rd F.MSF_STAT.fenced n = 0) (hn : n < s.nCores) (ha : s.rd F.MSF_MAP.absent n = 0)
    (cause : Nat) : s.fenceCore n cause =
      (((s.markCore n cause).fencePhys (slotKey (n / 4) ((s.markCore n cause).rd F.MSF_MAP.phys_slot n)) cause).service 3 Ev.fence cause
        n).seekCore n := by
  unfold State.fenceCore
  rw [s.on_eq_false_of_rd hf, s.on_eq_false_of_rd ha, decide_eq_true hn]
  rfl

/-- What the rest of a fence leaves of a register that is neither an event's, nor a defect's, nor a lost core's. -/
def Field.offFence (g : Field) : Bool :=
  g.offEvents && g.apart F.RST_DM.dm_full && g.apart F.RST_DM.dm_pending && g.apart F.MSF_MAP.absent && g.apart F.RST_CL_STAT.absent_cores

theorem State.rd_fenced (s : State) (n cause key : Nat) {g : Field} (h : g.offFence = true) (j : Nat) :
    (((s.fencePhys key cause).service 3 Ev.fence cause n).seekCore n).rd g j = s.rd g j := by
  simp only [Field.offFence, Bool.and_eq_true] at h
  obtain ⟨⟨⟨⟨h1, h2⟩, h3⟩, h4⟩, h5⟩ := h
  calc _ = ((s.fencePhys key cause).service 3 Ev.fence cause n).rd g j := State.rd_seekCore _ n h4 h5 j
    _ = (s.fencePhys key cause).rd g j := State.rd_event _ _ _ _ _ _ h1 j
    _ = s.rd g j := s.rd_fencePhys key cause h2 h3 j

/-- The mark of a fence, and what it leaves of the core's other registers and of the physical units. -/
theorem State.markCore_effect (s : State) (n : Fin 128) {cause : Nat} (hc : cause < 8) :
    (s.markCore n cause).rd F.MSF_STAT.fenced n = 1 ∧ (s.markCore n cause).rd F.MSF_STAT.fence_cause n = cause ∧
      ((s.markCore n cause).core n).run = none ∧ UnitsKept coreFields s (s.markCore n cause) := by
  have hstop := unitsKept_stopCoreWork s n
  have hmark : UnitsKept coreFields s (s.markCore n cause) :=
    UnitsKept.tileOver ((hstop.put (by decide) _ _).put (by decide) _ _) _ _ _
  refine ⟨?_, ?_, ?_, hmark⟩
  · exact (State.rd_tileOver _ _ _ _ (by decide) (by decide) (by decide) (by decide) _).trans
      ((State.rd_put_apart _ (by decide) _ _ _).trans (State.rd_put_same _ _ _ _))
  · exact (State.rd_tileOver _ _ _ _ (by decide) (by decide) (by decide) (by decide) _).trans
      ((State.rd_put_same _ _ _ _).trans (Nat.mod_eq_of_lt hc))
  · exact congrArg Core.run (State.core_setCore_same ((s.stopCoreWork n).put F.MSF_STAT.fenced 1 n |>.put F.MSF_STAT.fence_cause cause n) n _)

/-- A healthy core that is fenced: its registers, its engine, its physical unit, and its absence where no spare is left. -/
theorem State.fenceCore_effect {n : Fin 128} (hf : s.rd F.MSF_STAT.fenced n = 0) (hn : n.val < s.nCores)
    (ha : s.rd F.MSF_MAP.absent n = 0) {cause : Nat} (hc : cause < 8) :
    let t := s.fenceCore n cause
    t.rd F.MSF_STAT.fenced n = 1 ∧ t.rd F.MSF_STAT.fence_cause n = cause ∧ t.rd F.MSF_STAT.hang n = s.rd F.MSF_STAT.hang n ∧
      t.rd F.MSF_STAT.kat_fail n = s.rd F.MSF_STAT.kat_fail n ∧ (t.core n).run = none ∧
      (t.physOf (slotKey (n.val / 4) (s.rd F.MSF_MAP.phys_slot n))).fenced = true ∧
      ((s.findSpare ((List.range 5).map (slotKey (n.val / 4)))).isNone → t.rd F.MSF_MAP.absent n = 1) := by
  obtain ⟨hfenced, hcause, hrun, hphys, hregs⟩ := s.markCore_effect n hc
  have hslot : (s.markCore n cause).rd F.MSF_MAP.phys_slot n = s.rd F.MSF_MAP.phys_slot n := hregs _ (by simp [coreFields]) n
  rw [s.fenceCore_of_healthy hf hn ha, hslot]
  generalize s.markCore n cause = u at *
  generalize slotKey (n.val / 4) (s.rd F.MSF_MAP.phys_slot n) = key
  have hserv : ((u.fencePhys key cause).service 3 Ev.fence cause n).phys = (u.setPhys key ((u.physOf key).fencedBy cause)).phys :=
    (State.event_phys _ _ _ _ _ _).trans (u.fencePhys_units key cause).1
  refine ⟨(u.rd_fenced n cause key (by decide) n).trans hfenced, (u.rd_fenced n cause key (by decide) n).trans hcause,
    (u.rd_fenced n cause key (by decide) n).trans (hregs _ (by simp [coreFields]) n),
    (u.rd_fenced n cause key (by decide) n).trans (hregs _ (by simp [coreFields]) n), ?_, State.seekCore_fenced n ?_, fun hs => ?_⟩
  · rw [State.seekCore_run, State.service, State.core_congr (State.event_cores _ _ _ _ _ _), State.core_congr (u.fencePhys_units key cause).2]
    exact hrun
  · rw [State.physOf_congr hserv, State.physOf_setPhys, if_pos rfl]
    rfl
  · refine State.seekCore_absent ?_ ?_
    · refine (State.rd_event _ _ _ _ _ _ (by decide) n).trans ((u.rd_fencePhys key cause (by decide) (by decide) n).trans ?_)
      exact (hregs _ (by simp [coreFields]) n).trans ha
    · rw [State.service, State.findSpare_congr (State.event_phys _ _ _ _ _ _)]
      exact State.findSpare_fencePhys (by rwa [State.findSpare_congr hphys]) key cause

/-! ## Fencing a Spur core (R167) -/

theorem State.rd_loseSpur (s : State) (n : Nat) {g : Field} (h1 : g.apart F.SPR_MAP.absent = true)
    (h2 : g.apart F.RST_CL_STAT.absent_spur = true) (j : Nat) : (s.loseSpur n).rd g j = s.rd g j := by
  unfold State.loseSpur State.lostLane
  split
  · rfl
  · refine (State.rd_put_apart _ h2 _ _ _).trans ((State.rd_put_apart _ h1 _ _ _).trans ?_)
    split <;> rfl

theorem State.rd_seekSpur (s : State) (n : Nat) {g : Field} (h1 : g.apart F.SPR_MAP.absent = true)
    (h2 : g.apart F.RST_CL_STAT.absent_spur = true) (j : Nat) : (s.seekSpur n).rd g j = s.rd g j := by
  unfold State.seekSpur
  dsimp only
  split
  · rfl
  · exact s.rd_loseSpur n h1 h2 j

/-- The registers of a Spur core as a fence leaves them. -/
def State.markSpur (s : State) (n cause : Nat) : State :=
  ((s.stopSpurWork n).put F.SPR_STAT.fenced 1 n).put F.SPR_STAT.fence_cause cause n

theorem State.fenceSpur_of_healthy {n : Nat} (hf : s.rd F.SPR_STAT.fenced n = 0) (hn : n < s.nSpur) (ha : s.rd F.SPR_MAP.absent n = 0)
    (cause : Nat) : s.fenceSpur n cause =
      (((s.markSpur n cause).fencePhys (posKey (n / 16) ((s.markSpur n cause).rd F.SPR_MAP.phys_pos n)) cause).service 3 Ev.fence cause
        (128 + n)).seekSpur n := by
  unfold State.fenceSpur
  rw [s.on_eq_false_of_rd hf, s.on_eq_false_of_rd ha, decide_eq_true hn]
  rfl

def Field.offSpurFence (g : Field) : Bool :=
  g.offEvents && g.apart F.RST_DM.dm_full && g.apart F.RST_DM.dm_pending && g.apart F.SPR_MAP.absent && g.apart F.RST_CL_STAT.absent_spur

theorem State.rd_fencedSpur (s : State) (n cause key : Nat) {g : Field} (h : g.offSpurFence = true) (j : Nat) :
    (((s.fencePhys key cause).service 3 Ev.fence cause (128 + n)).seekSpur n).rd g j = s.rd g j := by
  simp only [Field.offSpurFence, Bool.and_eq_true] at h
  obtain ⟨⟨⟨⟨h1, h2⟩, h3⟩, h4⟩, h5⟩ := h
  calc _ = ((s.fencePhys key cause).service 3 Ev.fence cause (128 + n)).rd g j := State.rd_seekSpur _ n h4 h5 j
    _ = (s.fencePhys key cause).rd g j := State.rd_event _ _ _ _ _ _ h1 j
    _ = s.rd g j := s.rd_fencePhys key cause h2 h3 j

/-- A healthy Spur core that is fenced. -/
theorem State.fenceSpur_effect {n : Nat} (hf : s.rd F.SPR_STAT.fenced n = 0) (hn : n < s.nSpur) (ha : s.rd F.SPR_MAP.absent n = 0)
    {cause : Nat} (hc : cause < 8) :
    let t := s.fenceSpur n cause
    t.rd F.SPR_STAT.fenced n = 1 ∧ t.rd F.SPR_STAT.fence_cause n = cause ∧ t.rd F.SPR_STAT.hang n = s.rd F.SPR_STAT.hang n ∧
      t.rd F.SPR_STAT.kat_fail n = s.rd F.SPR_STAT.kat_fail n := by
  have hmark : UnitsKept spurFields s (s.markSpur n cause) := ((unitsKept_stopSpurWork s n).put (by decide) _ _).put (by decide) _ _
  have hfenced : (s.markSpur n cause).rd F.SPR_STAT.fenced n = 1 :=
    (State.rd_put_apart _ (by decide) _ _ _).trans (State.rd_put_same _ _ _ _)
  have hcause : (s.markSpur n cause).rd F.SPR_STAT.fence_cause n = cause := (State.rd_put_same _ _ _ _).trans (Nat.mod_eq_of_lt hc)
  rw [s.fenceSpur_of_healthy hf hn ha]
  generalize posKey (n / 16) ((s.markSpur n cause).rd F.SPR_MAP.phys_pos n) = key
  generalize s.markSpur n cause = u at *
  have hkeep := fun {g : Field} (hg : g.offSpurFence = true) => u.rd_fencedSpur n cause key hg n
  exact ⟨(hkeep (by decide)).trans hfenced, (hkeep (by decide)).trans hcause,
    (hkeep (by decide)).trans (hmark.2 _ (by simp [spurFields]) n), (hkeep (by decide)).trans (hmark.2 _ (by simp [spurFields]) n)⟩

/-! ## The commands: requests and hangs -/

theorem State.nPart_congr {s t : State} (h : t.rd F.SEC_ENT.code = s.rd F.SEC_ENT.code) : t.nPart = s.nPart := by
  unfold State.nPart State.code
  rw [h]

/-- A shown failure does not hide that a core is healthy. -/
theorem State.fenceCore_after_put {n : Fin 128} (hf : s.rd F.MSF_STAT.fenced n = 0) (hn : n.val < s.nCores)
    (ha : s.rd F.MSF_MAP.absent n = 0) {cause : Nat} (hc : cause < 8) {f : Field} (h1 : F.MSF_STAT.fenced.apart f = true)
    (h2 : F.MSF_MAP.absent.apart f = true) (h3 : F.SEC_ENT.code.apart f = true) :
    let t := (s.put f 1 n).fenceCore n cause
    t.rd F.MSF_STAT.fenced n = 1 ∧ t.rd F.MSF_STAT.fence_cause n = cause ∧ t.rd F.MSF_STAT.hang n = (s.put f 1 n).rd F.MSF_STAT.hang n ∧
      t.rd F.MSF_STAT.kat_fail n = (s.put f 1 n).rd F.MSF_STAT.kat_fail n := by
  have hcores : n.val < (s.put f 1 n).nCores := by
    rwa [State.nCores, State.nPart_congr (s.rd_put_apart h3 _ _ _)]
  obtain ⟨ht1, ht2, ht3, ht4, -⟩ :=
    State.fenceCore_effect ((s.rd_put_apart h1 _ _ _).trans hf) hcores ((s.rd_put_apart h2 _ _ _).trans ha) hc
  exact ⟨ht1, ht2, ht3, ht4⟩

theorem State.fenceSpur_after_put {n : Nat} (hf : s.rd F.SPR_STAT.fenced n = 0) (hn : n < s.nSpur)
    (ha : s.rd F.SPR_MAP.absent n = 0) {cause : Nat} (hc : cause < 8) {f : Field} (h1 : F.SPR_STAT.fenced.apart f = true)
    (h2 : F.SPR_MAP.absent.apart f = true) (h3 : F.SEC_ENT.code.apart f = true) :
    let t := (s.put f 1 n).fenceSpur n cause
    t.rd F.SPR_STAT.fenced n = 1 ∧ t.rd F.SPR_STAT.fence_cause n = cause ∧ t.rd F.SPR_STAT.hang n = (s.put f 1 n).rd F.SPR_STAT.hang n ∧
      t.rd F.SPR_STAT.kat_fail n = (s.put f 1 n).rd F.SPR_STAT.kat_fail n := by
  have hspur : n < (s.put f 1 n).nSpur := by
    rwa [State.nSpur, State.nPart_congr (s.rd_put_apart h3 _ _ _)]
  exact State.fenceSpur_effect ((s.rd_put_apart h1 _ _ _).trans hf) hspur ((s.rd_put_apart h2 _ _ _).trans ha) hc

section
variable {n : Fin 128} (hf : s.rd F.MSF_STAT.fenced n = 0) (hn : n.val < s.nCores) (ha : s.rd F.MSF_MAP.absent n = 0)
include hf hn ha

theorem fenceReq_effect {wr : Writer} (hw : s.mayWrite wr F.MSF_CTRL.fence_req n = true) :
    ∃ t, exec (.fenceReq wr n) s = .next t ∧ t.rd F.MSF_STAT.fenced n = 1 ∧ t.rd F.MSF_STAT.fence_cause n = 1 ∧
      (t.core n).run = none ∧ (t.physOf (slotKey (n.val / 4) (s.rd F.MSF_MAP.phys_slot n))).fenced = true ∧
      ((s.findSpare ((List.range 5).map (slotKey (n.val / 4)))).isNone → t.rd F.MSF_MAP.absent n = 1) := by
  obtain ⟨ht1, ht2, -, -, hrun, hphys, habs⟩ := State.fenceCore_effect hf hn ha (cause := 1) (by decide)
  have hexec : exec (.fenceReq wr n) s = .next (s.fenceCore n 1) := by
    show execFenceReq wr n s = _
    rw [execFenceReq, if_pos hw]
  exact ⟨_, hexec, ht1, ht2, hrun, hphys, habs⟩

theorem radioHang_effect {r : RunningTile} (hr : (s.core n).run = some r) (hradio : r.radio = true)
    (hlate : r.since + s.tileCycles n (decodeTile r.desc) + s.rd F.MSF_GCTRL.hang_cyc ≤ s.absCyc) :
    ∃ t, exec (.radioHang n) s = .next t ∧ t.rd F.MSF_STAT.hang n = 1 ∧ t.rd F.MSF_STAT.fenced n = 1 ∧ t.rd F.MSF_STAT.fence_cause n = 3 := by
  obtain ⟨ht1, ht2, ht3, -⟩ := State.fenceCore_after_put hf hn ha (cause := 3) (by decide) (f := F.MSF_STAT.hang) (by decide) (by decide)
    (by decide)
  have hexec : exec (.radioHang n) s =
      .next (((s.put F.MSF_STAT.hang 1 n).fenceCore n 3).event 2 1 Ev.radioHang n (pc (n.val / 16))) := by
    show execRadioHang n s = _
    rw [execRadioHang, hr]
    exact congrArg _ (if_pos (by simp [hradio, hlate]))
  exact ⟨_, hexec, (State.rd_event _ _ _ _ _ _ (by decide) _).trans (ht3.trans (s.rd_put_same _ _ _)),
    (State.rd_event _ _ _ _ _ _ (by decide) _).trans ht1, (State.rd_event _ _ _ _ _ _ (by decide) _).trans ht2⟩

end

section
variable {n : Fin 512} (hf : s.rd F.SPR_STAT.fenced n = 0) (hn : n.val < s.nSpur) (ha : s.rd F.SPR_MAP.absent n = 0)
include hf hn ha

theorem spurFenceReq_effect {wr : Writer} (hw : s.mayWrite wr F.SPR_CTRL.fence_req n = true) :
    ∃ t, exec (.spurFenceReq wr n) s = .next t ∧ t.rd F.SPR_STAT.fenced n = 1 ∧ t.rd F.SPR_STAT.fence_cause n = 1 := by
  obtain ⟨ht1, ht2, -⟩ := State.fenceSpur_effect hf hn ha (cause := 1) (by decide)
  have hexec : exec (.spurFenceReq wr n) s = .next (s.fenceSpur n 1) := by
    show execSpurFenceReq wr n s = _
    rw [execSpurFenceReq, if_pos hw]
  exact ⟨_, hexec, ht1, ht2⟩

theorem spurRadioHang_effect {k : Nat} {j : Job} {x : ColSlot} (hj : (k, j) ∈ s.jobsOf n) (hradio : j.radio = true)
    (hx : (s.partOf j.part).col[j.item]? = some x) (hlate : j.since + x.len + s.rd F.SPR_GCTRL.hang_cyc ≤ s.absCyc) :
    ∃ t, exec (.spurRadioHang n) s = .next t ∧ t.rd F.SPR_STAT.hang n = 1 ∧ t.rd F.SPR_STAT.fenced n = 1 ∧ t.rd F.SPR_STAT.fence_cause n = 3 := by
  obtain ⟨ht1, ht2, ht3, -⟩ := State.fenceSpur_after_put hf hn ha (cause := 3) (by decide) (f := F.SPR_STAT.hang) (by decide) (by decide)
    (by decide)
  have hexec : exec (.spurRadioHang n) s =
      .next (((s.put F.SPR_STAT.hang 1 n).fenceSpur n 3).event 2 1 Ev.radioHang (128 + n.val) (pc (n.val / 64))) := by
    show execSpurRadioHang n s = _
    rw [execSpurRadioHang]
    refine congrArg _ (if_pos (List.any_eq_true.mpr ⟨(k, j), hj, ?_⟩))
    simp [hradio, hx, hlate]
  exact ⟨_, hexec, (State.rd_event _ _ _ _ _ _ (by decide) _).trans (ht3.trans (s.rd_put_same _ _ _)),
    (State.rd_event _ _ _ _ _ _ (by decide) _).trans ht1, (State.rd_event _ _ _ _ _ _ (by decide) _).trans ht2⟩

end

end Sys2Proof.Machine

/-! SUPPORT. Known-answer runs (R124, R168, R458): asked for, due and ended. -/

namespace Sys2Proof.Machine

open Sys2Proof.Safety

variable {s : State}

/-! ## Runs that are due -/

/-- The partition of a unit that is asked for a run: core `u`, or Spur core `u - 128`. -/
def katPart (u : Nat) : Nat := if u < 128 then u / 16 else (u - 128) / 64

theorem State.partOf_setPart_same (s : State) (p : Nat) (x : Part) : (s.setPart p x).partOf p = x := kget_kset_same _ _ _ _

theorem State.partOf_setPart_ne (s : State) {p q : Nat} (h : q ≠ p) (x : Part) : (s.setPart p x).partOf q = s.partOf q :=
  kget_kset_ne _ _ _ h

theorem State.withParts_trans {s t u : State} (h : t = s.withParts t.parts) (k : u = t.withParts u.parts) : u = s.withParts u.parts := by
  rw [h] at k
  exact k

theorem State.askKat_frame (s : State) (u : Nat) : s.askKat u = s.withParts (s.askKat u).parts := by
  unfold State.askKat
  dsimp only
  generalize (if u < 128 then u / 16 else (u - 128) / 64) = p
  split <;> rfl

theorem State.askKat_mem (s : State) (u : Nat) : u ∈ ((s.askKat u).partOf (katPart u)).katDue := by
  unfold State.askKat
  show u ∈ ((if (s.partOf (katPart u)).katDue.contains u then s else s.setPart (katPart u) { s.partOf (katPart u) with
    katDue := (s.partOf (katPart u)).katDue ++ [u] }).partOf (katPart u)).katDue
  split
  · next h => exact List.contains_iff_mem.mp h
  · rw [State.partOf_setPart_same]
    exact List.mem_append_right _ List.mem_cons_self

theorem State.askKat_keeps {v p : Nat} (h : v ∈ (s.partOf p).katDue) (u : Nat) : v ∈ ((s.askKat u).partOf p).katDue := by
  unfold State.askKat
  dsimp only
  generalize (if u < 128 then u / 16 else (u - 128) / 64) = q
  split
  · exact h
  · by_cases hp : p = q
    · subst hp
      rw [State.partOf_setPart_same]
      exact List.mem_append_left _ h
    · rwa [State.partOf_setPart_ne _ hp]

/-- Asking for a family of runs: nothing but the partitions changes, what was due stays due, and every run asked for is due. -/
theorem foldl_askKat (us : List Nat) (f : Nat → Nat) (s : State) :
    let t := us.foldl (fun s n => s.askKat (f n)) s
    t = s.withParts t.parts ∧ (∀ p v, v ∈ (s.partOf p).katDue → v ∈ (t.partOf p).katDue) ∧
      ∀ n ∈ us, f n ∈ (t.partOf (katPart (f n))).katDue := by
  induction us generalizing s with
  | nil => exact ⟨rfl, fun _ _ h => h, nofun⟩
  | cons u us ih =>
    obtain ⟨hframe, hkeep, hall⟩ := ih (s.askKat (f u))
    refine ⟨?_, fun p v h => hkeep p v (State.askKat_keeps h _), fun n hn => ?_⟩
    · exact State.withParts_trans (s.askKat_frame _) hframe
    · rcases List.mem_cons.mp hn with rfl | hn
      · exact hkeep _ _ (s.askKat_mem _)
      · exact hall n hn

theorem katPart_core {n : Nat} (h : n < 128) : katPart n = n / 16 := if_pos h

theorem katPart_spur (n : Nat) : katPart (128 + n) = n / 64 := by
  rw [katPart, if_neg (by omega), Nat.add_sub_cancel_left]

theorem katNow_effect {wr : Writer} {n : Fin 128} (hw : s.mayWrite wr F.MSF_CTRL.kat_now n = true) (ho : s.coreOk n = true) :
    ∃ t, exec (.katNow wr n) s = .next t ∧ n.val ∈ (t.partOf (n.val / 16)).katDue ∧ t = s.withParts t.parts := by
  have hexec : exec (.katNow wr n) s = .next (s.askKat n) := congrArg _ (if_pos ⟨hw, ho⟩)
  exact ⟨_, hexec, katPart_core n.isLt ▸ s.askKat_mem n, s.askKat_frame _⟩

theorem spurKatNow_effect {wr : Writer} {n : Fin 512} (hw : s.mayWrite wr F.SPR_CTRL.kat_now n = true) (ho : s.spurOk n = true) :
    ∃ t, exec (.spurKatNow wr n) s = .next t ∧ 128 + n.val ∈ (t.partOf (n.val / 64)).katDue ∧ t = s.withParts t.parts := by
  have hexec : exec (.spurKatNow wr n) s = .next (s.askKat (128 + n.val)) := congrArg _ (if_pos ⟨hw, ho⟩)
  exact ⟨_, hexec, katPart_spur n.val ▸ s.askKat_mem (128 + n.val), s.askKat_frame _⟩

/-- A period of `k` ticks ends at the present tick. -/
def State.katPeriodEnds (s : State) (k : Nat) : Bool := k != 0 && s.time.edges && s.time.tick % (k : Int) == 0

theorem State.katPeriodEnds_of {k : Nat} (he : s.time.edges = true) (hk : k ≠ 0) (ht : s.time.tick % (k : Int) = 0) :
    s.katPeriodEnds k = true := by simp [State.katPeriodEnds, he, hk, ht]

/-- The engines whose period ends are asked, and then the Spur cores. -/
def State.askCores (s : State) : State :=
  if s.katPeriodEnds (s.rd F.MSF_GCTRL.kat_period) then ((span 0 128).filter s.coreOk).foldl State.askKat s else s
def State.askSpurs (o s : State) : State :=
  if o.katPeriodEnds (o.rd F.SPR_GCTRL.kat_period) then ((span 0 512).filter o.spurOk).foldl (fun s n => s.askKat (128 + n)) s else s

theorem exec_katPeriodExpiry (s : State) : exec .katPeriodExpiry s = .next (s.askSpurs s.askCores) := rfl

theorem mem_span_zero {n k : Nat} (h : n < k) : n ∈ span 0 k := by simpa [span] using h

theorem State.askCores_effect (s : State) : s.askCores = s.withParts s.askCores.parts ∧
    (s.katPeriodEnds (s.rd F.MSF_GCTRL.kat_period) = true → ∀ n, n < 128 → s.coreOk n = true → n ∈ (s.askCores.partOf (n / 16)).katDue) := by
  obtain ⟨hframe, -, hall⟩ := foldl_askKat ((span 0 128).filter s.coreOk) id s
  unfold State.askCores
  constructor
  · split
    · exact hframe
    · rfl
  · intro h n hn ho
    rw [if_pos h, ← katPart_core hn]
    exact hall n (List.mem_filter.mpr ⟨mem_span_zero hn, ho⟩)

theorem State.askSpurs_effect (o s : State) : o.askSpurs s = s.withParts (o.askSpurs s).parts ∧
    (∀ p v, v ∈ (s.partOf p).katDue → v ∈ ((o.askSpurs s).partOf p).katDue) ∧
    (o.katPeriodEnds (o.rd F.SPR_GCTRL.kat_period) = true → ∀ n, n < 512 → o.spurOk n = true →
      128 + n ∈ ((o.askSpurs s).partOf (n / 64)).katDue) := by
  obtain ⟨hframe, hkeep, hall⟩ := foldl_askKat ((span 0 512).filter o.spurOk) (128 + ·) s
  unfold State.askSpurs
  refine ⟨?_, ?_, fun h n hn ho => ?_⟩
  · split
    · exact hframe
    · rfl
  · split
    · exact hkeep
    · exact fun _ _ h => h
  · rw [if_pos h, ← katPart_spur n]
    exact hall n (List.mem_filter.mpr ⟨mem_span_zero hn, ho⟩)

theorem katPeriodExpiry_effect (he : s.time.edges = true) :
    ∃ t, exec .katPeriodExpiry s = .next t ∧ t = s.withParts t.parts ∧
      (s.rd F.MSF_GCTRL.kat_period ≠ 0 → s.time.tick % (s.rd F.MSF_GCTRL.kat_period : Int) = 0 →
        ∀ n, n < 128 → s.coreOk n = true → n ∈ (t.partOf (n / 16)).katDue) ∧
      (s.rd F.SPR_GCTRL.kat_period ≠ 0 → s.time.tick % (s.rd F.SPR_GCTRL.kat_period : Int) = 0 →
        ∀ n, n < 512 → s.spurOk n = true → 128 + n ∈ (t.partOf (n / 64)).katDue) := by
  obtain ⟨hcores, hcore⟩ := s.askCores_effect
  obtain ⟨hspurs, hkeep, hspur⟩ := s.askSpurs_effect s.askCores
  refine ⟨_, exec_katPeriodExpiry s, State.withParts_trans hcores hspurs, fun hk ht n hn ho => hkeep _ _ (hcore (State.katPeriodEnds_of he hk ht) n hn ho),
    fun hk ht => hspur (State.katPeriodEnds_of he hk ht)⟩

/-! ## The end of a run -/

/-- The item that an answer ends is an item of the partition. -/
theorem State.item_of_katItem {p lane i : Nat} (h : s.katItem p lane = some i) : ∃ it, s.item? p i = some it := by
  have hi := List.find?_some h
  cases hit : s.item? p i with
  | none => simp [hit] at hi
  | some it => exact ⟨it, rfl⟩

theorem State.item?_modItem {p i : Nat} {it : WlItem} (h : s.item? p i = some it) (f : WlItem → WlItem) :
    (s.modItem p i f).item? p i = some (f it) := by
  unfold State.item? State.modItem at *
  rw [State.partOf_setPart_same]
  simp [h]

theorem State.item?_congr {s t : State} (h : t.parts = s.parts) (p i : Nat) : t.item? p i = s.item? p i := by
  simp only [State.item?, State.partOf, h]

theorem State.atNs_frame (s : State) (ns : Nat) : s.atNs ns = s.withTime (s.atNs ns).time := by
  rcases s.atNs_cases ns with h | ⟨k, h⟩ <;> rw [h]
  · rfl
  · rfl

/-- A command that carries a cycle leaves everything but device time. -/
theorem State.atCyc_frame (s : State) (cyc : Nat) : s.atCyc cyc = s.withTime (s.atCyc cyc).time := s.atNs_frame _

theorem State.parts_of_time {s t : State} {v : TimeState} (h : t = s.withTime v) : t.parts = s.parts := by
  subst h
  rfl

theorem State.atCyc_parts (s : State) (cyc : Nat) : (s.atCyc cyc).parts = s.parts := State.parts_of_time (s.atCyc_frame cyc)

theorem State.setPart_frame {s t : State} (h : t = s.withTime t.time) (p : Nat) (x : Part) :
    t.setPart p x = (s.withTime (t.setPart p x).time).withParts (t.setPart p x).parts := by
  generalize t.time = v at h
  subst h
  rfl

/-- The run's item has ended as done, at its cycle. -/
def State.endKatItem (s : State) (p i cyc : Nat) : State := (s.atCyc cyc).modItem p i fun it => { it with st := .done }

theorem State.endKatItem_done {p lane i : Nat} (h : s.katItem p lane = some i) (cyc : Nat) :
    ∃ it, s.item? p i = some it ∧ (s.endKatItem p i cyc).item? p i = some { it with st := .done } := by
  obtain ⟨it, hit⟩ := State.item_of_katItem h
  have hat : (s.atCyc cyc).item? p i = some it := (State.item?_congr (s.atCyc_parts cyc) p i).trans hit
  exact ⟨it, hit, State.item?_modItem hat _⟩

theorem State.endKatItem_frame (s : State) (p i cyc : Nat) :
    s.endKatItem p i cyc = (s.withTime (s.endKatItem p i cyc).time).withParts (s.endKatItem p i cyc).parts :=
  State.setPart_frame (s.atCyc_frame cyc) p _

theorem State.regs_of_time_parts {s t : State} {v : TimeState} {x : KMap Part} (h : t = (s.withTime v).withParts x) : t.regs = s.regs := by
  subst h
  rfl

theorem State.mem_of_time_parts {s t : State} {v : TimeState} {x : KMap Part} (h : t = (s.withTime v).withParts x) : t.mem = s.mem := by
  subst h
  rfl

theorem State.endKatItem_regs (s : State) (p i cyc : Nat) : (s.endKatItem p i cyc).regs = s.regs :=
  State.regs_of_time_parts (s.endKatItem_frame p i cyc)

/-- The fields that the end of a core's run writes. -/
def katCoreFields (n : Nat) : List (Field × Nat) := [(F.MSF_STAT.busy, n), (F.MSF_CYC.array_cyc, n)]

/-- The engine of core `n` is idle, and `q` array-cycles are metered to it. -/
def State.engineOver (s : State) (n q : Nat) : State := (s.put F.MSF_STAT.busy 0 n).bump F.MSF_CYC.array_cyc n q

theorem State.engineOver_same (s : State) (n q : Nat) : RegsSame s (s.engineOver n q) (katCoreFields n) :=
  regsSame_bump (regsSame_put (regsSame_refl s _) (by simp [katCoreFields]) _) (by simp [katCoreFields]) _

theorem State.engineOver_parts (s : State) (n q : Nat) : (s.engineOver n q).parts = s.parts := rfl

theorem State.engineOver_frame {s t : State} (h : t = (s.withTime t.time).withParts t.parts) (n q : Nat) :
    let u := t.engineOver n q
    u = ((s.withRegs u.regs).withTime u.time).withParts u.parts := by
  generalize t.time = v at h
  generalize t.parts = x at h
  subst h
  rfl

theorem State.engineOver_busy (s : State) (n q : Nat) : (s.engineOver n q).rd F.MSF_STAT.busy n = 0 :=
  (State.rd_put_apart _ (by decide) _ _ _).trans (State.rd_put_same _ _ _ _)

theorem satAdd_mod (w a b : Nat) : satAdd w a b % 2 ^ w = satAdd w a b :=
  Nat.mod_eq_of_lt (by have := Nat.two_pow_pos w; unfold satAdd; omega)

theorem State.engineOver_cycles (s : State) (n q : Nat) :
    (s.engineOver n q).rd F.MSF_CYC.array_cyc n = satAdd 64 (s.rd F.MSF_CYC.array_cyc n) q := by
  have hput : (s.put F.MSF_STAT.busy 0 n).rd F.MSF_CYC.array_cyc n = s.rd F.MSF_CYC.array_cyc n :=
    State.rd_put_apart _ (by decide) _ _ _
  exact (State.rd_bump_same _ _ _ _).trans ((satAdd_mod _ _ _).trans (congrArg (satAdd 64 · q) hput))

/-- A core's run is over: its engine is idle, and its cycles are metered (R119). -/
def State.katCoreOver (s : State) (n i cyc : Nat) : State :=
  (s.endKatItem (n / 16) i cyc).engineOver n ((cyc - s.itemSince (n / 16) i) * 4)

theorem exec_katEnd_core {n : Fin 128} {cyc : Fin 412501} {i : Nat} (hc : s.cycNow ≤ cyc.val)
    (hi : s.katItem (n.val / 16) (n.val % 16) = some i) (ok : Bool) : exec (.katEnd (.core n) ⟨cyc, ok⟩) s =
      .next (if ok then s.katCoreOver n i cyc else ((s.katCoreOver n i cyc).put F.MSF_STAT.kat_fail 1 n).fenceCore n 4) := by
  show execKatEnd (.core n) ⟨cyc, ok⟩ s = _
  rw [execKatEnd, if_neg (Nat.not_lt.mpr hc)]
  dsimp only
  rw [hi]
  rfl

theorem katEnd_core_passes {n : Fin 128} {cyc : Fin 412501} {i : Nat} (hc : s.cycNow ≤ cyc.val)
    (hi : s.katItem (n.val / 16) (n.val % 16) = some i) :
    ∃ t, exec (.katEnd (.core n) ⟨cyc, true⟩) s = .next t ∧ itemSt t (n.val / 16) i = some .done ∧ t.rd F.MSF_STAT.busy n = 0 ∧
      t.rd F.MSF_CYC.array_cyc n = satAdd 64 (s.rd F.MSF_CYC.array_cyc n) ((cyc.val - s.itemSince (n.val / 16) i) * 4) ∧
      Only s t [(F.MSF_STAT.busy, n.val), (F.MSF_CYC.array_cyc, n.val)] fun y => (y.withTime t.time).withParts t.parts := by
  obtain ⟨it, -, hdone⟩ := State.endKatItem_done hi cyc.val
  have hexec := (exec_katEnd_core hc hi true).trans (congrArg _ (if_pos rfl))
  have hregs := s.endKatItem_regs (n.val / 16) i cyc
  have hframe := s.endKatItem_frame (n.val / 16) i cyc
  unfold State.katCoreOver at hexec
  generalize s.endKatItem (n.val / 16) i cyc = u at *
  generalize (cyc.val - s.itemSince (n.val / 16) i) * 4 = q at *
  refine ⟨u.engineOver n q, hexec, ?_, u.engineOver_busy n q, ?_, State.engineOver_frame hframe n q, fun f j hf => ?_⟩
  · rw [itemSt, State.item?_congr (u.engineOver_parts n q), hdone]
    rfl
  · rw [u.engineOver_cycles, State.rd_congr hregs]
  · exact (u.engineOver_same n q f j hf).trans (State.rd_congr hregs f j)

/-- The ordering code lies beyond the registers of the matrix cores. -/
theorem code_key_ne_cycles (n : Fin 128) : F.SEC_ENT.code.key 0 ≠ F.MSF_CYC.array_cyc.key n := by
  have hcode : F.SEC_ENT.code.key 0 = 8 * 0xD00010 := rfl
  have hcyc : F.MSF_CYC.array_cyc.key n = 8 * (0x301010 + 64 * n.val) := rfl
  omega

/-- A run that fails fences its core with cause 4 (R124). -/
theorem katEnd_core_fails {n : Fin 128} {cyc : Fin 412501} {i : Nat} (hc : s.cycNow ≤ cyc.val)
    (hi : s.katItem (n.val / 16) (n.val % 16) = some i) (hf : s.rd F.MSF_STAT.fenced n = 0) (hn : n.val < s.nCores)
    (ha : s.rd F.MSF_MAP.absent n = 0) :
    ∃ t, exec (.katEnd (.core n) ⟨cyc, false⟩) s = .next t ∧ t.rd F.MSF_STAT.kat_fail n = 1 ∧ t.rd F.MSF_STAT.fenced n = 1 ∧
      t.rd F.MSF_STAT.fence_cause n = 4 := by
  have hregs := s.endKatItem_regs (n.val / 16) i cyc
  have hexec := (exec_katEnd_core hc hi false).trans (congrArg _ (if_neg Bool.false_ne_true))
  unfold State.katCoreOver at hexec
  generalize s.endKatItem (n.val / 16) i cyc = u at *
  generalize (cyc.val - s.itemSince (n.val / 16) i) * 4 = q at *
  have hover : ∀ (g : Field), g.apart F.MSF_STAT.busy = true → g.apart F.MSF_CYC.array_cyc = true →
      (u.engineOver n q).rd g n = s.rd g n := fun g h1 h2 =>
    (State.rd_put_apart _ h2 _ _ _).trans ((State.rd_put_apart _ h1 _ _ _).trans (State.rd_congr hregs _ _))
  have hcode : (u.engineOver n q).rd F.SEC_ENT.code = s.rd F.SEC_ENT.code :=
    (State.rd_put_ne _ (code_key_ne_cycles n)).trans ((State.rd_put_apart _ (by decide) _ _ _).trans (State.rd_congr hregs _ _))
  have hcores : n.val < (u.engineOver n q).nCores := by rwa [State.nCores, State.nPart_congr hcode]
  obtain ⟨ht1, ht2, -, ht4⟩ := State.fenceCore_after_put ((hover _ (by decide) (by decide)).trans hf) hcores
    ((hover _ (by decide) (by decide)).trans ha) (cause := 4) (by decide) (f := F.MSF_STAT.kat_fail) (by decide) (by decide) (by decide)
  exact ⟨_, hexec, ht4.trans (State.rd_put_same _ _ _ _), ht1, ht2⟩

/-! ### Threads -/

/-- Threads of a core that are all set alike: each of them is so, one that was so stays, and nothing but registers and threads changes. -/
theorem foldl_setThread (n : Nat) (x : Thread) (ths : List Nat) (s : State) :
    let t := ths.foldl (fun s k => s.setThread (8 * n + k) x) s
    (∀ k, k ∈ ths ∨ s.thread (8 * n + k) = x → t.thread (8 * n + k) = x) ∧ t = (s.withRegs t.regs).withThreads t.threads ∧
      ∀ g : Field, (∀ k, g.apart (tsField k) = true) → ∀ j, t.rd g j = s.rd g j := by
  induction ths generalizing s with
  | nil => exact ⟨fun k hk => hk.resolve_left List.not_mem_nil, rfl, fun _ _ _ => rfl⟩
  | cons a ths ih =>
    obtain ⟨hset, hframe, hregs⟩ := ih (s.setThread (8 * n + a) x)
    refine ⟨fun k hk => hset k ?_, hframe.trans rfl, fun g hg j => (hregs g hg j).trans (s.rd_put_apart (hg _) _ _ _)⟩
    by_cases hka : k = a
    · exact .inr (hka ▸ kget_kset_same _ _ _ _)
    · refine hk.imp (fun h => (List.mem_cons.mp h).resolve_left hka) fun h => ?_
      exact (kget_kset_ne _ _ _ (by omega)).trans h

/-- A field apart from the states of the threads. -/
theorem apart_tsField {g : Field} (h : ((List.range 8).all fun k => g.apart (tsField k)) = true) (k : Nat) : g.apart (tsField k) = true := by
  by_cases hk : k < 7
  · exact List.all_eq_true.mp h k (List.mem_range.mpr (by omega))
  · obtain ⟨m, rfl⟩ := Nat.exists_eq_add_of_le' (Nat.not_lt.mp hk)
    exact List.all_eq_true.mp h 7 (by decide)

theorem State.put_threads_frame {s t : State} (h : t = (s.withRegs t.regs).withThreads t.threads) (f : Field) (v i : Nat) :
    t.put f v i = (s.withRegs (t.put f v i).regs).withThreads (t.put f v i).threads := by
  rw [h]
  rfl

theorem State.keeps_of_threads {s t : State} {r : KMap Nat} {x : KMap Thread} (h : t = (s.withRegs r).withThreads x) :
    t.mem = s.mem ∧ t.parts = s.parts := by
  subst h
  exact ⟨rfl, rfl⟩

/-- The threads of a mask have their first value again, and nothing but registers and threads changes. -/
theorem State.katThreads_idle (s : State) (n mask : Nat) :
    let t := s.katThreads n mask .idle
    (∀ k ∈ threadsOf mask, t.thread (8 * n + k) = Thread.zero) ∧ t = (s.withRegs t.regs).withThreads t.threads ∧
      ∀ g : Field, ((List.range 8).all fun k => g.apart (tsField k)) = true → g.apart F.SPR_STAT.busy = true → ∀ j, t.rd g j = s.rd g j := by
  obtain ⟨hset, hframe, hregs⟩ := foldl_setThread n { Thread.zero with st := .idle } (threadsOf mask) s
  refine ⟨fun k hk => hset k (.inl hk), ?_, fun g hg hb j => ?_⟩
  · unfold State.katThreads State.showBusy
    generalize (threadsOf mask).foldl (fun s t => s.setThread (8 * n + t) { Thread.zero with st := .idle }) s = u at *
    exact State.put_threads_frame hframe _ _ _
  · exact (State.rd_put_apart _ hb _ _ _).trans (hregs g (apart_tsField hg) j)

/-- A Spur core's run is over: its threads are idle. -/
def State.katSpurOver (s : State) (n i cyc : Nat) : State :=
  (s.endKatItem (n / 64) i cyc).katThreads n (((s.item? (n / 64) i).map (·.thr)).getD 0) .idle

theorem exec_katEnd_spur {n : Fin 512} {cyc : Fin 412501} {i : Nat} (hc : s.cycNow ≤ cyc.val)
    (hi : s.katItem (n.val / 64) (n.val % 64 + 16) = some i) (ok : Bool) : exec (.katEnd (.spur n) ⟨cyc, ok⟩) s =
      .next (if ok then s.katSpurOver n i cyc else ((s.katSpurOver n i cyc).put F.SPR_STAT.kat_fail 1 n).fenceSpur n 4) := by
  show execKatEnd (.spur n) ⟨cyc, ok⟩ s = _
  rw [execKatEnd, if_neg (Nat.not_lt.mpr hc)]
  dsimp only
  rw [hi]
  rfl

theorem State.katSpurOver_keeps (s : State) (n i cyc : Nat) : (s.katSpurOver n i cyc).mem = s.mem ∧
    (s.katSpurOver n i cyc).parts = (s.endKatItem (n / 64) i cyc).parts ∧
    ∀ g : Field, ((List.range 8).all fun k => g.apart (tsField k)) = true → g.apart F.SPR_STAT.busy = true → ∀ j,
      (s.katSpurOver n i cyc).rd g j = s.rd g j := by
  have hmem : (s.endKatItem (n / 64) i cyc).mem = s.mem := State.mem_of_time_parts (s.endKatItem_frame _ _ _)
  have hregs := s.endKatItem_regs (n / 64) i cyc
  unfold State.katSpurOver
  generalize s.endKatItem (n / 64) i cyc = u at *
  generalize ((s.item? (n / 64) i).map (·.thr)).getD 0 = mask
  obtain ⟨-, hframe, hrd⟩ := u.katThreads_idle n mask
  obtain ⟨hm, hp⟩ := State.keeps_of_threads hframe
  exact ⟨hm.trans hmem, hp, fun g h1 h2 j => (hrd g h1 h2 j).trans (State.rd_congr hregs g j)⟩

theorem katEnd_spur_passes {m : Fin 512} {cyc : Fin 412501} {i : Nat} (hc : s.cycNow ≤ cyc.val)
    (hi : s.katItem (m.val / 64) (m.val % 64 + 16) = some i) :
    ∃ t, exec (.katEnd (.spur m) ⟨cyc, true⟩) s = .next t ∧ itemSt t (m.val / 64) i = some .done ∧ t.mem = s.mem ∧
      ∀ it, s.item? (m.val / 64) i = some it → ∀ th ∈ threadsOf it.thr, t.thread (8 * m.val + th) = Thread.zero := by
  obtain ⟨it, hit, hdone⟩ := State.endKatItem_done hi cyc.val
  obtain ⟨hmem, hparts, -⟩ := s.katSpurOver_keeps m i cyc
  refine ⟨_, (exec_katEnd_spur hc hi true).trans (congrArg _ (if_pos rfl)), ?_, hmem, fun it' hit' th hth => ?_⟩
  · rw [itemSt, State.item?_congr hparts, hdone]
    rfl
  · unfold State.katSpurOver
    rw [hit']
    exact (State.katThreads_idle _ _ _).1 th hth

/-- A run that fails fences its Spur core with cause 4 (R168). -/
theorem katEnd_spur_fails {m : Fin 512} {cyc : Fin 412501} {i : Nat} (hc : s.cycNow ≤ cyc.val)
    (hi : s.katItem (m.val / 64) (m.val % 64 + 16) = some i) (hf : s.rd F.SPR_STAT.fenced m = 0) (hn : m.val < s.nSpur)
    (ha : s.rd F.SPR_MAP.absent m = 0) :
    ∃ t, exec (.katEnd (.spur m) ⟨cyc, false⟩) s = .next t ∧ t.rd F.SPR_STAT.kat_fail m = 1 ∧ t.rd F.SPR_STAT.fenced m = 1 ∧
      t.rd F.SPR_STAT.fence_cause m = 4 := by
  obtain ⟨-, -, hrd⟩ := s.katSpurOver_keeps m i cyc
  have hexec := (exec_katEnd_spur hc hi false).trans (congrArg _ (if_neg Bool.false_ne_true))
  generalize s.katSpurOver m i cyc = u at *
  have hspur : m.val < u.nSpur := by rwa [State.nSpur, State.nPart_congr (hrd _ (by decide) (by decide) 0)]
  obtain ⟨ht1, ht2, -, ht4⟩ := State.fenceSpur_after_put ((hrd _ (by decide) (by decide) _).trans hf) hspur
    ((hrd _ (by decide) (by decide) _).trans ha) (cause := 4) (by decide) (f := F.SPR_STAT.kat_fail) (by decide) (by decide) (by decide)
  exact ⟨_, hexec, ht4.trans (State.rd_put_same _ _ _ _), ht1, ht2⟩

end Sys2Proof.Machine

/-! SUPPORT. Substitutions (R38, R169, R447, R458), and the obligation on fences, known-answer runs and spares. -/

namespace Sys2Proof.Machine

open Sys2Proof.Safety

variable {s : State}

/-! ## The note of a substitution -/

/-- The registers that note a substitution, and those of its event. -/
def subFields : List Field :=
  [F.RST_SUB.sub_kind, F.RST_SUB.sub_unit, F.RST_SUB.sub_old, F.RST_SUB.sub_new, F.RST_SUB.sub_cause, F.RST_SUB.sub_cnt, F.RST_CL_STAT.subs,
    F.RST_CL_STAT.spare_cores, F.RST_CL_STAT.spare_spur, F.MGT_LOG_STAT.evt_count, F.MGT_LOG_STAT.evt_seq, F.MGT_LOG_STAT.svc_evt,
    F.FW_GSTAT.log_lost]

/-- A field's element below the blocks of management and reset. -/
def Field.low (g : Field) (j : Nat) : Prop := g.key j < 8 * 0xB00000

theorem Field.low.key_ne {g : Field} {j : Nat} (h : g.low j) {f : Field} (hf : f ∈ subFields) (i : Nat) : g.key j ≠ f.key i := by
  have hbase : ∀ f ∈ subFields, 0xB00000 ≤ f.base := by decide
  have := hbase f hf
  unfold Field.low at h
  have hkey : 8 * f.base ≤ f.key i := by
    unfold Field.key
    omega
  omega

theorem State.rd_noteSub (s : State) (kind unit old new cause cl : Nat) {g : Field} {j : Nat} (h : g.low j) :
    (s.noteSub kind unit old new cause cl).rd g j = s.rd g j := by
  have hput : ∀ (u : State) (f : Field) (v i : Nat), f ∈ subFields → (u.put f v i).rd g j = u.rd g j := fun u f v i hf =>
    u.rd_put_ne (h.key_ne hf i)
  have hev : ∀ (u : State) (data : Nat), (u.service 3 Ev.substitution data).rd g j = u.rd g j := fun u data =>
    (event_only u _ _ _ _ _).2 g j fun f hf => by
      simp only [eventFields, List.mem_cons, List.not_mem_nil, or_false] at hf
      rcases hf with rfl | rfl | rfl | rfl <;> exact h.key_ne (by decide) 0
  unfold State.noteSub State.bump
  dsimp only
  rw [hev]
  iterate 7 rw [hput _ _ _ _ (by decide)]

/-- What a substitution's note says of its kind and cause. -/
theorem State.noteSub_shows (s : State) (kind unit old new cause cl : Nat) :
    (s.noteSub kind unit old new cause cl).rd F.RST_SUB.sub_kind = kind % 2 ∧
      (s.noteSub kind unit old new cause cl).rd F.RST_SUB.sub_cause = cause % 2 ^ 3 := by
  unfold State.noteSub State.bump
  constructor
  · refine (State.rd_event _ _ _ _ _ _ (by decide) _).trans ?_
    iterate 6 refine (State.rd_put_apart _ (by decide) _ _ _).trans ?_
    exact State.rd_put_same _ _ _ _
  · refine (State.rd_event _ _ _ _ _ _ (by decide) _).trans ?_
    iterate 2 refine (State.rd_put_apart _ (by decide) _ _ _).trans ?_
    exact State.rd_put_same _ _ _ _

theorem State.event_frame {s t u : State} (hu : u = s.withRegs u.regs) (h : t = ((u.withRegs t.regs).withMgt t.mgt).withOut t.out) :
    t = ((s.withRegs t.regs).withMgt t.mgt).withOut t.out := by
  rw [hu] at h
  exact h

/-- A note changes registers, the event log and the fault contact. -/
theorem State.noteSub_frame (s : State) (kind unit old new cause cl : Nat) : let t := s.noteSub kind unit old new cause cl
    t = ((s.withRegs t.regs).withMgt t.mgt).withOut t.out := by
  have hev : ∀ u : State, u = s.withRegs u.regs → let t := u.service 3 Ev.substitution unit
      t = ((s.withRegs t.regs).withMgt t.mgt).withOut t.out := by
    intro u hu
    exact State.event_frame hu (event_only u _ _ _ _ _).1
  unfold State.noteSub
  extract_lets u1 u2 u3
  exact hev _ rfl

theorem State.noteSub_keeps (s : State) (kind unit old new cause cl : Nat) : let t := s.noteSub kind unit old new cause cl
    t.mem = s.mem ∧ t.cores = s.cores ∧ t.spurs = s.spurs ∧ t.threads = s.threads := by
  have h := s.noteSub_frame kind unit old new cause cl
  dsimp only at h ⊢
  generalize s.noteSub kind unit old new cause cl = t at *
  rw [h]
  exact ⟨rfl, rfl, rfl, rfl⟩

/-! ## The registers of a substituted unit -/

/-- The registers of a kind of unit that a substitution writes. -/
structure UnitMap where
  place : Field
  used : Field
  fenced : Field
  cause : Field
  spares : Field

def coreMap : UnitMap := ⟨F.MSF_MAP.phys_slot, F.MSF_MAP.spare_used, F.MSF_STAT.fenced, F.MSF_STAT.fence_cause, F.RST_CL_STAT.spare_cores⟩
def spurMap : UnitMap := ⟨F.SPR_MAP.phys_pos, F.SPR_MAP.spare_used, F.SPR_STAT.fenced, F.SPR_STAT.fence_cause, F.RST_CL_STAT.spare_spur⟩

/-- They lie apart, and no note touches them. -/
structure UnitMap.Apart (m : UnitMap) (n : Nat) : Prop where
  fields : (m.place.apart m.used && m.place.apart m.fenced && m.place.apart m.cause && m.used.apart m.fenced && m.used.apart m.cause &&
    m.fenced.apart m.cause) = true
  low : m.place.low n ∧ m.used.low n ∧ m.fenced.low n ∧ m.cause.low n
  spares : m.spares ∈ subFields

theorem coreMap_apart (n : Fin 128) : coreMap.Apart n := by
  refine ⟨by decide, ?_, by decide⟩
  simp only [coreMap, Field.low, Field.key, F.MSF_MAP.phys_slot, F.MSF_MAP.spare_used, F.MSF_STAT.fenced, F.MSF_STAT.fence_cause]
  omega

theorem spurMap_apart (n : Fin 512) : spurMap.Apart n := by
  refine ⟨by decide, ?_, by decide⟩
  simp only [spurMap, Field.low, Field.key, F.SPR_MAP.phys_pos, F.SPR_MAP.spare_used, F.SPR_STAT.fenced, F.SPR_STAT.fence_cause]
  omega

/-- The unit has its new place, is no longer fenced, and its cluster has a spare less. -/
def State.remap (s : State) (m : UnitMap) (n k cl : Nat) : State :=
  let u := (((s.put m.place k n).put m.used 1 n).put m.fenced 0 n).put m.cause 0 n
  u.put m.spares (u.rd m.spares cl - 1) cl

/-- What a substituted unit shows once its note is written. -/
theorem State.remap_noteSub {m : UnitMap} {n : Nat} (hm : m.Apart n) (s : State) (k cl kind unit old new cause : Nat) :
    let t := (s.remap m n k cl).noteSub kind unit old new cause cl
    t.rd m.place n = k % 2 ^ m.place.width ∧ t.rd m.used n = 1 % 2 ^ m.used.width ∧ t.rd m.fenced n = 0 ∧ t.rd m.cause n = 0 := by
  obtain ⟨hfields, ⟨hp, hu, hf, hc⟩, hspares⟩ := hm
  simp only [Bool.and_eq_true] at hfields
  obtain ⟨⟨⟨⟨⟨pu, pf⟩, pc⟩, uf⟩, uc⟩, fc⟩ := hfields
  have hnote : ∀ {g : Field}, g.low n → ((s.remap m n k cl).noteSub kind unit old new cause cl).rd g n =
      ((((s.put m.place k n).put m.used 1 n).put m.fenced 0 n).put m.cause 0 n).rd g n := fun hg =>
    (State.rd_noteSub _ _ _ _ _ _ _ hg).trans (State.rd_put_ne _ (hg.key_ne hspares cl))
  refine ⟨(hnote hp).trans ?_, (hnote hu).trans ?_, (hnote hf).trans ?_, (hnote hc).trans ?_⟩
  · rw [State.rd_put_apart _ pc, State.rd_put_apart _ pf, State.rd_put_apart _ pu, State.rd_put_same]
  · rw [State.rd_put_apart _ uc, State.rd_put_apart _ uf, State.rd_put_same]
  · rw [State.rd_put_apart _ fc, State.rd_put_same, Nat.zero_mod]
  · rw [State.rd_put_same, Nat.zero_mod]

theorem State.remap_keeps (s : State) (m : UnitMap) (n k cl : Nat) : (s.remap m n k cl).mem = s.mem ∧
    (s.remap m n k cl).cores = s.cores ∧ (s.remap m n k cl).spurs = s.spurs ∧ (s.remap m n k cl).threads = s.threads :=
  ⟨rfl, rfl, rfl, rfl⟩

/-! ## The scratchpad of a substituted core (R458) -/

theorem kfind_filter {α : Type} (m : KMap α) (p : Nat → Bool) (k : Nat) :
    kfind (m.filter fun c => p c.1) k = if p k then kfind m k else none := by
  induction m with
  | nil => simp
  | cons e m ih =>
    obtain ⟨j, v⟩ := e
    by_cases hj : j = k
    · subst hj
      by_cases hp : p j = true <;> simp [kfind, hp, ih]
    · by_cases hp : p j = true <;> simp [kfind, hp, hj, ih]

/-- Keeping the memory whose address passes: the other bytes are 0 again. -/
theorem Memory.byte_filter (m : List Host.Cell) (p : Nat → Bool) (a : Nat) :
    Memory.byte (m.filter fun c => p c.1) a = if p a then Memory.byte m a else 0 := by
  unfold Memory.byte kget
  rw [kfind_filter]
  split <;> rfl

/-- Bytes written one by one leave the others. -/
theorem foldl_memWr_byte (cs : List (Nat × Byte)) (s : State) {a : Nat} (h : ∀ c ∈ cs, c.1 ≠ a) :
    Memory.byte (cs.foldl (fun s c => s.memWr c.1 [c.2]) s).mem a = Memory.byte s.mem a := by
  induction cs generalizing s with
  | nil => rfl
  | cons c cs ih =>
    rw [List.foldl_cons, ih _ fun c' hc => h c' (List.mem_cons_of_mem _ hc)]
    exact Memory.byte_setByte_ne _ _ (h c List.mem_cons_self).symm

/-- An address outside a scratchpad, and the state with that scratchpad at 0. -/
def outPad (n x : Nat) : Bool := !(padBase n ≤ x && x < padBase n + 0x800000)
def State.clearPad (s : State) (n : Nat) : State := (s.memKeep (outPad n)).poisonKeep (outPad n)

theorem State.restorePad_eq (s : State) (n : Nat) :
    s.restorePad n = (s.core n).image.foldl (fun s c => s.memWr c.1 [c.2]) (s.clearPad n) := rfl

theorem State.clearPad_byte (s : State) (n a : Nat) :
    Memory.byte (s.clearPad n).mem a = if outPad n a then Memory.byte s.mem a else 0 := Memory.byte_filter _ _ _

theorem State.restorePad_outside {n a : Nat} (ha : a < padBase n ∨ padBase n + 0x800000 ≤ a)
    (hi : ∀ c ∈ (s.core n).image, padBase n ≤ c.1 ∧ c.1 < padBase n + 0x800000) :
    Memory.byte (s.restorePad n).mem a = Memory.byte s.mem a := by
  have hout : outPad n a = true := by
    simp only [outPad, Bool.not_eq_true', Bool.and_eq_false_iff, decide_eq_false_iff_not]
    omega
  have hne : ∀ c ∈ (s.core n).image, c.1 ≠ a := fun c hc => by
    obtain ⟨h1, h2⟩ := hi c hc
    omega
  rw [s.restorePad_eq, foldl_memWr_byte _ _ hne, s.clearPad_byte, if_pos hout]

theorem State.restorePad_empty {n a : Nat} (hi : (s.core n).image = []) (h1 : padBase n ≤ a) (h2 : a < padBase n + 0x800000) :
    Memory.byte (s.restorePad n).mem a = 0 := by
  have hin : outPad n a = false := by simp [outPad, h1, h2]
  rw [s.restorePad_eq, hi, List.foldl_nil, s.clearPad_byte, hin]
  rfl

/-! ## The commits -/

/-- The banks and buffers of a substituted core are empty. -/
def Core.fresh (c : Core) : Core := { c with fg := [], bg := [], fgSeed := none, wreg := [], bgTick := none, subst := none, copied := false }

theorem State.commitCore_eq {n k : Nat} (h : (s.core n).subst = some k) : s.commitCore n =
    ((((s.restorePad n).setCore n ((s.restorePad n).core n).fresh).remap coreMap n k (n / 4)).noteSub 0 n
      (s.rd F.MSF_MAP.phys_slot n) k (s.rd F.MSF_STAT.fence_cause n) (n / 4)) := by
  unfold State.commitCore
  rw [h]
  rfl

theorem spareSubstitutionCommit_effect {n : Fin 128} {k : Nat} (hcol : s.inCol = true) (h : (s.core n).subst = some k) :
    ∃ t, exec (.spareSubstitutionCommit n) s = .next t ∧ t.rd F.MSF_MAP.phys_slot n = k % 8 ∧ t.rd F.MSF_MAP.spare_used n = 1 ∧
      t.rd F.MSF_STAT.fenced n = 0 ∧ t.rd F.MSF_STAT.fence_cause n = 0 ∧ (t.core n).subst = none ∧ (t.core n).fg = [] ∧
      (t.core n).bg = [] ∧ (t.core n).wreg = [] ∧
      t.rd F.RST_SUB.sub_kind = 0 ∧ t.rd F.RST_SUB.sub_cause = s.rd F.MSF_STAT.fence_cause n % 2 ^ 3 ∧
      (∀ a, a < padBase n ∨ padBase n + 0x800000 ≤ a → (∀ c ∈ (s.core n).image, padBase n ≤ c.1 ∧ c.1 < padBase n + 0x800000) →
        Memory.byte t.mem a = Memory.byte s.mem a) ∧
      ((s.core n).image = [] → ∀ a, padBase n ≤ a → a < padBase n + 0x800000 → Memory.byte t.mem a = 0) := by
  have hexec : exec (.spareSubstitutionCommit n) s = .next (s.commitCore n) := congrArg _ (if_pos hcol)
  rw [State.commitCore_eq h] at hexec
  generalize hu : (s.restorePad n).setCore n ((s.restorePad n).core n).fresh = u at hexec
  have hmem : u.mem = (s.restorePad n).mem := hu ▸ rfl
  have hcore : u.core n = ((s.restorePad n).core n).fresh := by
    rw [← hu]
    exact State.core_setCore_same _ _ _
  obtain ⟨h1, h2, h3, h4⟩ := State.remap_noteSub (coreMap_apart n) u k (n.val / 4) 0 n (s.rd F.MSF_MAP.phys_slot n) k
    (s.rd F.MSF_STAT.fence_cause n)
  obtain ⟨hkind, hcause⟩ := (u.remap coreMap n k (n.val / 4)).noteSub_shows 0 n (s.rd F.MSF_MAP.phys_slot n) k
    (s.rd F.MSF_STAT.fence_cause n) (n.val / 4)
  obtain ⟨hm, hc, -, -⟩ := (u.remap coreMap n k (n.val / 4)).noteSub_keeps 0 n (s.rd F.MSF_MAP.phys_slot n) k
    (s.rd F.MSF_STAT.fence_cause n) (n.val / 4)
  obtain ⟨hm', hc', -, -⟩ := u.remap_keeps coreMap n k (n.val / 4)
  have htcore := (State.core_congr (hc.trans hc') n).trans hcore
  have htmem := (hm.trans hm').trans hmem
  refine ⟨_, hexec, h1, h2, h3, h4, ?_, ?_, ?_, ?_, hkind, hcause, fun a ha hi => ?_, fun hi a ha1 ha2 => ?_⟩
  iterate 4 rw [htcore]; rfl
  · rw [htmem]
    exact State.restorePad_outside ha hi
  · rw [htmem]
    exact State.restorePad_empty hi ha1 ha2

/-- The threads of a substituted Spur core have their first values; its spare takes over the locked ways (R169). -/
def State.refreshSpur (s : State) (n : Nat) : State :=
  let u := (List.range 8).foldl (fun s t => s.setThread (8 * n + t) Thread.zero) s
  (u.setSpur n { u.spur n with remote := 0, iopen := [], subst := none, copied := false }).fillLocked n

theorem State.commitSpur_eq {n k : Nat} (h : (s.spur n).subst = some k) : s.commitSpur n =
    (((s.refreshSpur n).remap spurMap n k (n / 16)).noteSub 1 n (s.rd F.SPR_MAP.phys_pos n) k (s.rd F.SPR_STAT.fence_cause n) (n / 16)) := by
  unfold State.commitSpur
  rw [h]
  rfl

theorem State.spur_setSpur_same (s : State) (n : Nat) (x : SpurCore) : (s.setSpur n x).spur n = x := kget_kset_same _ _ _ _

theorem State.fillLocked_subst (s : State) (n : Nat) : ((s.fillLocked n).spur n).subst = (s.spur n).subst :=
  (congrArg SpurCore.subst (State.spur_setSpur_same s n { s.spur n with
    iopen := [], ilock := fitWays (s.lockedWays n) ((s.spur n).fill.filter fun l => within (l * 64) 64 (pinnedBase (spurPart n)) 0x2000000)
    })).trans rfl

theorem State.refreshSpur_effect (s : State) (n : Nat) : (s.refreshSpur n).mem = s.mem ∧ ((s.refreshSpur n).spur n).subst = none ∧
    ∀ i, i < 8 → (s.refreshSpur n).thread (8 * n + i) = Thread.zero := by
  obtain ⟨hset, hframe, -⟩ := foldl_setThread n Thread.zero (List.range 8) s
  unfold State.refreshSpur
  generalize (List.range 8).foldl (fun s t => s.setThread (8 * n + t) Thread.zero) s = u at *
  refine ⟨(State.keeps_of_threads hframe).1, ?_, fun i hi => hset i (.inl (List.mem_range.mpr hi))⟩
  rw [State.fillLocked_subst, State.spur_setSpur_same]

theorem spurSubstitution_effect {n : Fin 512} {k : Nat} (hk : k < 32) (hcol : s.inCol = true) (h : (s.spur n).subst = some k) :
    ∃ t, exec (.spurSubstitution n) s = .next t ∧ t.rd F.SPR_MAP.phys_pos n = k ∧ t.rd F.SPR_MAP.spare_used n = 1 ∧
      t.rd F.SPR_STAT.fenced n = 0 ∧ (t.spur n).subst = none ∧ (∀ i, i < 8 → t.thread (8 * n.val + i) = Thread.zero) ∧ t.mem = s.mem := by
  have hexec : exec (.spurSubstitution n) s = .next (s.commitSpur n) := congrArg _ (if_pos hcol)
  rw [State.commitSpur_eq h] at hexec
  obtain ⟨hmem, hsubst, hthreads⟩ := s.refreshSpur_effect n
  generalize s.refreshSpur n = u at *
  obtain ⟨h1, h2, h3, -⟩ := State.remap_noteSub (spurMap_apart n) u k (n.val / 16) 1 n (s.rd F.SPR_MAP.phys_pos n) k
    (s.rd F.SPR_STAT.fence_cause n)
  obtain ⟨hm, -, hs, ht⟩ := (u.remap spurMap n k (n.val / 16)).noteSub_keeps 1 n (s.rd F.SPR_MAP.phys_pos n) k
    (s.rd F.SPR_STAT.fence_cause n) (n.val / 16)
  obtain ⟨hm', -, hs', ht'⟩ := u.remap_keeps spurMap n k (n.val / 16)
  refine ⟨_, hexec, h1.trans (Nat.mod_eq_of_lt hk), h2, h3, ?_, fun i hi => ?_, (hm.trans hm').trans hmem⟩
  · rw [State.spur, hs.trans hs']
    exact hsubst
  · rw [State.thread, ht.trans ht']
    exact hthreads i hi

/-- Outside a Col window nothing is committed. -/
theorem substitutions_wait (hcol : s.inCol = false) (n : Fin 128) (m : Fin 512) :
    exec (.spareSubstitutionCommit n) s = .next s ∧ exec (.spurSubstitution m) s = .next s :=
  ⟨congrArg _ (if_neg (by simp [hcol])), congrArg _ (if_neg (by simp [hcol]))⟩

end Sys2Proof.Machine

open Sys2Proof Sys2Proof.Machine Sys2Proof.Safety in
/-- Settles O21: what stopping a unit's work leaves of its registers carries every fence; the rest is command by command. -/
theorem fencesHangsKnownAnswersAndSubstitutions : Obligations.FencesHangsKnownAnswersAndSubstitutions := by
  unfold Obligations.FencesHangsKnownAnswersAndSubstitutions
  refine ⟨⟨fun s wr n hf hn ha => ⟨fenceReq_effect hf hn ha, fun r => radioHang_effect hf hn ha⟩,
    fun s wr n hf hn ha => ⟨spurFenceReq_effect hf hn ha, fun k j x => spurRadioHang_effect hf hn ha⟩⟩,
    ⟨fun s wr n m => ⟨katNow_effect, spurKatNow_effect⟩, fun s => katPeriodExpiry_effect, fun s n m cyc i hc => ⟨fun hi => ?_, fun hi => ?_⟩⟩,
    fun s n k _ => spareSubstitutionCommit_effect, fun s n k hk => spurSubstitution_effect hk, fun s n m hcol => substitutions_wait hcol n m⟩
  · exact ⟨katEnd_core_passes hc hi, katEnd_core_fails hc hi⟩
  · exact ⟨katEnd_spur_passes hc hi, katEnd_spur_fails hc hi⟩

/-! SUPPORT. Bits of a register field that are set and cleared, and fields whose elements lie apart by their place in the map. -/

namespace Sys2Proof.Machine

theorem bit_eq_testBit (v i : Nat) : bit v i = v.testBit i := by
  rw [bit, Nat.testBit_eq_decide_div_mod_eq]
  rfl

theorem bit_mod_two_pow {w i : Nat} (h : i < w) (v : Nat) : bit (v % 2 ^ w) i = bit v i := by
  simp [bit_eq_testBit, Nat.testBit_mod_two_pow, h]

theorem bit_sub_and_two_pow (v i : Nat) : bit (v - (v &&& 2 ^ i)) i = false := by
  have hdiv : (v - 2 ^ i * (v.testBit i).toNat) / 2 ^ i = v / 2 ^ i - (v.testBit i).toNat := Nat.sub_mul_div v (2 ^ i) _
  rw [Nat.and_two_pow, Nat.mul_comm, bit, hdiv, Nat.testBit_eq_decide_div_mod_eq]
  by_cases h : v / 2 ^ i % 2 = 1
  · simp only [h, decide_true, Bool.toNat_true, beq_eq_false_iff_ne]
    omega
  · simp only [h, decide_false, Bool.toNat_false, beq_eq_false_iff_ne]
    omega

variable (s : State)

theorem State.bit_orf_same (f : Field) (i : Nat) {d : Nat} (hd : d < f.width) : bit ((s.orf f (2 ^ d) i).rd f i) d = true := by
  rw [State.orf, State.rd_put_same, bit_mod_two_pow hd, bit_eq_testBit]
  simp

theorem State.bit_clrf_same (f : Field) (i : Nat) {d : Nat} (hd : d < f.width) : bit ((s.clrf f (2 ^ d) i).rd f i) d = false := by
  rw [State.clrf, State.rd_put_same, bit_mod_two_pow hd, bit_sub_and_two_pow]

/-- A write leaves an element elsewhere in the map alone. -/
theorem State.rd_put_clear {g f : Field} {i j : Nat} (h : g.clear f = true) (hg : g.Has j) (hf : f.Has i) (v : Nat) :
    (s.put f v i).rd g j = s.rd g j :=
  s.rd_put_ne (Field.key_ne_of_clear h hg hf)

/-- A field that is not cut per unit has an element for each number below its count. -/
theorem Field.has_of_lt {f : Field} {i : Nat} (h : i < f.count) (hs : f.stride ≠ 0) (hp : f.per = 0) : f.Has i :=
  ⟨fun h0 => absurd h0 hs, fun _ => ⟨h, .inl hp⟩⟩

theorem Field.has_zero {f : Field} (h : 0 < f.count) (hl : f.per = 0) : f.Has 0 := ⟨fun _ => rfl, fun _ => ⟨h, .inl hl⟩⟩

end Sys2Proof.Machine

/-! SUPPORT. Whole-device resets (R446, R448, R450, R456, R510): the defect map, the orderly reset and its token, the contacts. -/

namespace Sys2Proof.Machine

open Sys2Proof.Safety

variable {s : State}

/-! ## The defect map (R446) -/

theorem State.writeMap_of_nil (h : s.bring.dmQueue = []) : s.writeMap = s := by simp [State.writeMap, h]

theorem defectMapWrite_effect (hup : s.procUp cairn = true) (hq : s.bring.dmQueue ≠ []) :
    ∃ t, exec .defectMapWrite s = .next t ∧ t.rd F.RST_DM.dm_gen = (s.rd F.RST_DM.dm_gen + 1) % 2 ^ 32 ∧
      t.rd F.RST_DM.dm_count = (s.bring.dm.length + s.bring.dmQueue.length) % 2 ^ 13 ∧ t.rd F.RST_DM.dm_pending = 0 ∧
      t.bring.dm = s.bring.dm ++ s.bring.dmQueue ∧ t.bring.dmQueue = [] ∧
      Only s t [(F.RST_DM.dm_gen, 0), (F.RST_DM.dm_count, 0), (F.RST_DM.dm_pending, 0)] (·.withBring t.bring) := by
  let gen := s.rd F.RST_DM.dm_gen + 1
  let es := s.bring.dm ++ s.bring.dmQueue
  let u := s.withBring { s.bring with
    dm := es, dmQueue := [], dmNext := some { ok := true, gen := BitVec.ofNat 32 gen, entries := es } }
  have hexec : exec .defectMapWrite s =
      .next (((u.put F.RST_DM.dm_gen gen).put F.RST_DM.dm_count es.length).put F.RST_DM.dm_pending 0) :=
    (congrArg Host.Outcome.next (if_pos hup)).trans (congrArg _ (if_neg (by simpa using hq)))
  refine ⟨_, hexec, ?_, ?_, State.rd_put_same _ _ _ _, rfl, rfl, rfl, ?_⟩
  · rw [State.rd_put_apart _ (by decide), State.rd_put_apart _ (by decide)]
    exact State.rd_put_same _ _ _ _
  · rw [State.rd_put_apart _ (by decide), State.rd_put_same, List.length_append]
    rfl
  · exact regsSame_put (regsSame_put (regsSame_put (regsSame_refl s _) (by simp) _) (by simp) _) (by simp) _

theorem defectMapWrite_nothing (h : s.procUp cairn = false ∨ s.bring.dmQueue = []) : exec .defectMapWrite s = .next s := by
  show Host.Outcome.next (if s.procUp cairn then s.writeMap else s) = _
  rcases h with h | h
  · rw [h]
    rfl
  · rw [State.writeMap_of_nil h, ite_self]

/-! ## DEV_RST (R450) -/

theorem devRst_effect {wr : Writer} (hw : s.mayWrite wr F.RST_DEV_CTRL.dev_rst 0 = true) (hp : s.bring.powered = true)
    (hr : s.bring.inReset = false) (ht : s.bring.tripped = false) (hs : s.bring.shutAt = none) (warm : Bool) :
    ∃ t, exec (.devRst wr warm) s = .next t ∧ t.rd F.RST_DEV_CTRL.warm_req = b2n warm ∧
      t.bring = { s.bring with shutAt := some s.nowNs } ∧ Only s t [(F.RST_DEV_CTRL.warm_req, 0)] (·.withBring t.bring) := by
  have hexec : exec (.devRst wr warm) s =
      .next ((s.withBring { s.bring with shutAt := some s.nowNs }).put F.RST_DEV_CTRL.warm_req (b2n warm)) :=
    congrArg _ (if_pos (by simp [hw, hp, hr, ht, hs]))
  exact ⟨_, hexec, (State.rd_put_same _ _ _ _).trans (b2n_mod_two warm), rfl, rfl, regsSame_put (regsSame_refl s _) (by simp) _⟩

theorem devRst_nothing {wr : Writer} (h : s.mayWrite wr F.RST_DEV_CTRL.dev_rst 0 = false ∨ s.bring.powered = false ∨
    s.bring.inReset = true ∨ s.bring.tripped = true ∨ s.bring.shutAt ≠ none) (warm : Bool) : exec (.devRst wr warm) s = .next s := by
  refine congrArg _ (if_neg ?_)
  simp only [Bool.and_eq_true, Bool.not_eq_true', Option.isNone_iff_eq_none]
  rintro ⟨⟨⟨⟨hw, hp⟩, hr⟩, ht⟩, hs⟩
  simp [hw, hp, hr, ht, hs] at h

/-! ## The reset of the whole device (R450, R456) -/

theorem State.withOut_shown (r s : State) (c : Prop) [Decidable c] (o : Out) :
    ∃ v, (if c then r.showFault s else (r.showFault s).emit o) = r.withOut v := by
  rw [showFault_eq]
  split
  · exact ⟨_, rfl⟩
  · exact ⟨_, rfl⟩

/-- What the reset leaves: PD49 with its counter, the NOR, host memory; everything else as before power. -/
theorem State.resetDevice_effect (s : State) : let t := s.resetDevice
    t.rd F.RST_STAT.step = 1 ∧ t.rd F.RST_STAT.ready = 0 ∧ t.rd F.RST_WARM.token_valid = b2n s.bring.token.isSome ∧
    t.rd F.MGT_PROT.trip_cause = s.rd F.MGT_PROT.trip_cause % 8 ∧
    (t.bring.token = s.bring.token ∧ t.bring.shutAt = none ∧ t.bring.images = s.bring.images ∧ t.bring.tripped = false ∧
      t.bring.perst = s.bring.perst ∧ t.bring.resetN = s.bring.resetN) ∧
    (t.mgt.nor = s.mgt.nor ∧ t.nowNs = s.nowNs ∧ t.hostMem = s.hostMem) ∧
    t.mem = [] ∧ t.keys = [] ∧ t.cells = [] ∧ t.seqs = [] ∧ t.threads = [] ∧ t.links = [] ∧ t.rings = [] ∧ t.slices = [] := by
  obtain ⟨v, hv⟩ : ∃ v, s.resetDevice = State.withOut _ v := State.withOut_shown _ s _ _
  rw [hv]
  refine ⟨?_, ?_, ?_, ?_, ⟨rfl, rfl, rfl, rfl, rfl, rfl⟩, ⟨rfl, rfl, rfl⟩, rfl, rfl, rfl, rfl, rfl, rfl, rfl, rfl⟩
  · simp (disch := decide) only [State.rd_withOut, State.rd_put_apart, State.rd_put_same]
    rfl
  · simp (disch := decide) only [State.rd_withOut, State.rd_put_apart, State.power, State.orf, if_true]
    show F.RST_STAT.ready.get regsReset 0 = 0
    decide
  · simp (disch := decide) only [State.rd_withOut, State.rd_put_apart, State.rd_put_same]
    exact b2n_mod_two _
  · simp (disch := decide) only [State.rd_withOut, State.rd_put_apart, State.rd_put_same]
    rfl

theorem wholeDeviceReset_idle (h : s.bring.shutAt = none) : exec .wholeDeviceReset s = .next s := by
  show execWholeDeviceReset s = _
  rw [execWholeDeviceReset, h]

theorem exec_wholeDeviceReset {t0 : Nat} (hs : s.bring.shutAt = some t0) (hf : s.fabReqs = []) (hq : s.bring.dmQueue = []) :
    exec .wholeDeviceReset s = .next (s.withBring { s.bring with token := s.warmToken }).resetDevice := by
  show execWholeDeviceReset s = _
  rw [execWholeDeviceReset, hs, hf]
  exact congrArg (fun u : State => Host.Outcome.next (u.withBring { u.bring with token := u.warmToken }).resetDevice)
    (State.writeMap_of_nil hq)

/-- Nothing is due before an instant of a later tick. -/
theorem State.reach_eq_none {due : Nat} (he : s.time.edges = true) (h : (s.nowNs / 125000 + 1) * 125000 ≤ due) : s.reach due = none := by
  rw [State.reach, if_neg (by omega), if_neg (by simp [he, h])]

theorem State.reach_eq_some {due : Nat} (h : due ≤ s.nowNs) : s.reach due = some s := if_pos h

theorem wholeDeviceReset_waits {t0 : Nat} (hs : s.bring.shutAt = some t0) (hf : s.fabReqs ≠ []) (he : s.time.edges = true)
    (h : (s.nowNs / 125000 + 1) * 125000 ≤ t0 + 10000000) : exec .wholeDeviceReset s = .next s := by
  have hnone : (if s.fabReqs.isEmpty then some s else s.reach (t0 + 10000000)) = none := by
    rw [if_neg (by simpa using hf), State.reach_eq_none he h]
  show execWholeDeviceReset s = _
  rw [execWholeDeviceReset, hs]
  dsimp only
  rw [hnone]

theorem State.warmToken_eq_none (h : s.ready = false ∨ s.on F.RST_DEV_CTRL.warm_req = false ∨ s.on F.SEC_STAT.dbg_taint = true) :
    s.warmToken = none := by
  refine if_neg ?_
  rcases h with h | h | h <;> simp [h]

/-! ## The reset contacts (R450, R510) -/

/-- No token stays valid. -/
def State.voidToken (s : State) : State := s.withBring { s.bring with token := s.bring.token.map fun k => { k with void := true } }

theorem State.assertReset_eq (hstep : s.rd F.RST_STAT.step ≠ 0) (hr : s.bring.inReset = false) :
    s.assertReset = s.voidToken.resetDevice.withBring { s.voidToken.resetDevice.bring with inReset := true } :=
  if_neg (by simp [hstep, hr])

/-- An asserted contact resets the device at once and voids the token. -/
theorem State.assertReset_effect (hstep : s.rd F.RST_STAT.step ≠ 0) (hr : s.bring.inReset = false) : let t := s.assertReset
    (t.bring.perst = s.bring.perst ∧ t.bring.resetN = s.bring.resetN) ∧ t.bring.inReset = true ∧ t.rd F.RST_STAT.step = 1 ∧
      t.rd F.RST_STAT.ready = 0 ∧ t.bring.token = s.bring.token.map (fun k => { k with void := true }) ∧ t.nowNs = s.nowNs ∧
      t.hostMem = s.hostMem ∧ t.mem = [] ∧ t.cells = [] ∧ t.seqs = [] ∧ t.mgt.nor = s.mgt.nor := by
  rw [State.assertReset_eq hstep hr]
  obtain ⟨h1, h2, -, -, ⟨htok, -, -, -, hperst, hresetN⟩, ⟨hnor, hnow, hhost⟩, hmem, -, hcells, hseqs, -⟩ := s.voidToken.resetDevice_effect
  generalize s.voidToken.resetDevice = u at *
  exact ⟨⟨hperst, hresetN⟩, rfl, h1, h2, htok, hnow, hhost, hmem, hcells, hseqs, hnor⟩

theorem State.assertReset_idle (h : s.rd F.RST_STAT.step = 0 ∨ s.bring.inReset = true) : s.assertReset = s := if_pos h

theorem contacts_asserted (hstep : s.rd F.RST_STAT.step ≠ 0) (hr : s.bring.inReset = false) :
    ∃ t u, exec .perstAssert s = .next t ∧ exec .resetNAssert s = .next u ∧ t.bring.perst = false ∧ u.bring.resetN = false ∧
      ∀ x ∈ [t, u], x.bring.inReset = true ∧ x.rd F.RST_STAT.step = 1 ∧ x.rd F.RST_STAT.ready = 0 ∧
        x.bring.token = s.bring.token.map (fun k => { k with void := true }) ∧ x.nowNs = s.nowNs ∧ x.hostMem = s.hostMem ∧
        x.mem = [] ∧ x.cells = [] ∧ x.seqs = [] ∧ x.mgt.nor = s.mgt.nor := by
  obtain ⟨⟨hperst, -⟩, ht⟩ := State.assertReset_effect (s := s.withBring { s.bring with perst := false }) hstep hr
  obtain ⟨⟨-, hresetN⟩, hu⟩ := State.assertReset_effect (s := s.withBring { s.bring with resetN := false }) hstep hr
  refine ⟨_, _, rfl, rfl, hperst, hresetN, fun x hx => ?_⟩
  simp only [List.mem_cons, List.not_mem_nil, or_false] at hx
  rcases hx with rfl | rfl
  · exact ht
  · exact hu

theorem contacts_asserted_idle (h : s.rd F.RST_STAT.step = 0 ∨ s.bring.inReset = true) :
    exec .perstAssert s = .next (s.withBring { s.bring with perst := false }) ∧
      exec .resetNAssert s = .next (s.withBring { s.bring with resetN := false }) :=
  ⟨congrArg Host.Outcome.next (State.assertReset_idle (s := s.withBring { s.bring with perst := false }) h),
    congrArg Host.Outcome.next (State.assertReset_idle (s := s.withBring { s.bring with resetN := false }) h)⟩

theorem resetDeassert_starts {perst : Bool} (hr : s.bring.inReset = true)
    (h : (if perst then s.bring.resetN else s.bring.perst) = true) : exec (.resetDeassert perst) s =
      .next (s.withBring { s.bring with perst := true, resetN := true, inReset := false, startNs := s.nowNs }) := by
  show execResetDeassert perst s = _
  cases perst <;> simp only [if_true, Bool.false_eq_true, if_false] at h <;> simp [execResetDeassert, hr, h] <;> rfl

theorem resetDeassert_waits {perst : Bool} (h : s.bring.inReset = false ∨ (if perst then s.bring.resetN else s.bring.perst) = false) :
    exec (.resetDeassert perst) s =
      .next (s.withBring (if perst then { s.bring with perst := true } else { s.bring with resetN := true })) := by
  refine congrArg _ (if_neg ?_)
  cases perst <;> simp only [if_true, Bool.false_eq_true, if_false, Bool.and_eq_true] at h ⊢ <;> rintro ⟨⟨hr, hp⟩, hn⟩ <;> simp_all

end Sys2Proof.Machine

/-! SUPPORT. Switched power domains (R42, R457, R501). -/

namespace Sys2Proof.Machine

open Sys2Proof.Safety

variable {s : State}

theorem State.power_one (s : State) (d : Nat) : s.power [d] true = s.orf F.RST_PD_STAT.pd_on (2 ^ d) ∧
    s.power [d] false = s.clrf F.RST_PD_STAT.pd_on (2 ^ d) := by simp [State.power]

theorem State.domainOn_power (s : State) (d : Fin 50) : (s.power [d.val] true).domainOn d = true ∧ (s.power [d.val] false).domainOn d = false := by
  rw [(s.power_one d).1, (s.power_one d).2]
  exact ⟨s.bit_orf_same _ _ d.isLt, s.bit_clrf_same _ _ d.isLt⟩

theorem State.rd_power (s : State) (ds : List Nat) (up : Bool) {g : Field} (h : g.apart F.RST_PD_STAT.pd_on = true) (j : Nat) :
    (s.power ds up).rd g j = s.rd g j := by
  cases up <;> exact s.rd_put_apart h _ _ _

theorem State.power_frame (s : State) (ds : List Nat) (up : Bool) : s.power ds up = s.withRegs (s.power ds up).regs := by
  cases up <;> rfl

theorem State.domainOn_congr {s t : State} (h : t.rd F.RST_PD_STAT.pd_on = s.rd F.RST_PD_STAT.pd_on) (d : Nat) :
    t.domainOn d = s.domainOn d := by rw [State.domainOn, State.domainOn, h]

/-! ## Off (R42) -/

@[simp] theorem State.rd_zeroRange (s : State) (a n : Nat) (g : Field) (j : Nat) : (s.zeroRange a n).rd g j = s.rd g j := rfl

theorem State.byte_zeroRange (s : State) {a n x : Nat} (hlo : a ≤ x) (hhi : x < a + n) : Memory.byte (s.zeroRange a n).mem x = 0 :=
  (Memory.byte_filter s.mem (fun y => !(a ≤ y && y < a + n)) x).trans (if_neg (by simp [hlo, hhi]))

theorem State.byte_zeroCluster (s : State) {cl x : Nat} (hlo : clSramBase cl ≤ x) (hhi : x < clSramBase cl + 0x800000) :
    Memory.byte (s.zeroCluster cl).mem x = 0 := State.byte_zeroRange _ hlo hhi

/-- A domain loses its power, and the instant is noted. -/
def State.noteOff (s : State) (d : Nat) : State :=
  (s.power [d] false).withBring { s.bring with downDomains := (d, s.nowNs) :: s.bring.downDomains }

theorem State.noteOff_effect (s : State) (d : Fin 50) : let t := s.noteOff d
    t.domainOn d = false ∧ t.bring.downDomains.head? = some (d.val, t.nowNs) ∧ t.mem = s.mem ∧
      ∀ g : Field, g.apart F.RST_PD_STAT.pd_on = true → ∀ j, t.rd g j = s.rd g j :=
  ⟨(s.domainOn_power d).2, rfl, rfl, fun _ h j => s.rd_power [d.val] false h j⟩

/-- The sequencer of a partition that is switched off stands still and holds no table. -/
theorem State.stopTicks_noteOff (v : State) {d : Fin 50} (hd : d.val < 8) (hstate : v.rd F.FW_PROC_STAT.pstate (pc d) = 3) :
    let t := ((((v.put F.TICK_STAT.running 0 d).put F.TICK_STAT.cur_len 0 d).put F.TICK_CTRL.table_len 0 d).setPart d Part.zero).noteOff d
    t.domainOn d = false ∧ t.rd F.FW_PROC_STAT.pstate (pc d) = 3 ∧ t.rd F.TICK_STAT.running d = 0 ∧ t.rd F.TICK_STAT.cur_len d = 0 ∧
      t.rd F.TICK_CTRL.table_len d = 0 ∧ t.bring.downDomains.head? = some (d.val, t.nowNs) := by
  obtain ⟨hoff, hhead, -, hrd⟩ := State.noteOff_effect
    ((((v.put F.TICK_STAT.running 0 d).put F.TICK_STAT.cur_len 0 d).put F.TICK_CTRL.table_len 0 d).setPart d Part.zero) d
  have hpc : F.FW_PROC_STAT.pstate.Has (pc d) := Field.has_of_lt (by show 3 + d.val < 11; omega) (by decide) (by decide)
  have hrun : F.TICK_STAT.running.Has d := Field.has_of_lt hd (by decide) (by decide)
  refine ⟨hoff, ?_, ?_, ?_, ?_, hhead⟩
  · rw [hrd _ (by decide), State.setPart, State.rd_withParts, State.rd_put_apart _ (by decide), State.rd_put_apart _ (by decide),
      State.rd_put_clear _ (by decide) hpc hrun, hstate]
  · rw [hrd _ (by decide), State.setPart, State.rd_withParts, State.rd_put_apart _ (by decide), State.rd_put_apart _ (by decide), State.rd_put_same]
    rfl
  · rw [hrd _ (by decide), State.setPart, State.rd_withParts, State.rd_put_apart _ (by decide), State.rd_put_same]
    rfl
  · rw [hrd _ (by decide), State.setPart, State.rd_withParts, State.rd_put_same]
    rfl

/-- A partition loses its controller and its memory. -/
def State.offPart (s : State) (d : Nat) : State :=
  let u := (((s.reroute (partRouters d)).putAll F.NOC_RTR.state 1 (partRouters d)).dropNodes fun x => x.part == d).procStops (pc d)
  ((u.put F.FW_PROC_STAT.pstate 3 (pc d)).zeroRange (pinnedBase d) 0x2000000).zeroRange (tickBankBase d) 0x200000

theorem State.offPart_state (s : State) (d : Nat) : (s.offPart d).rd F.FW_PROC_STAT.pstate (pc d) = 3 := by
  rw [State.offPart, State.rd_zeroRange, State.rd_zeroRange, State.rd_put_same]
  rfl

section
variable {d : Fin 50} (hok : (s.procUp cairn && s.ready && s.domainOn d) = true)
include hok

theorem exec_switchOff : exec (.powerDomainSwitchOff d) s = .next (
    if d.val < 8 then
      if s.partIdle d then
        (((((s.offPart d).put F.TICK_STAT.running 0 d).put F.TICK_STAT.cur_len 0 d).put F.TICK_CTRL.table_len 0 d).setPart d Part.zero).noteOff d
      else s
    else if d.val < 40 then
      if s.clusterIdle (d.val - 8) && !s.suspended (d.val - 8) then (s.zeroCluster (d.val - 8)).noteOff d else s
    else s) :=
  congrArg _ (if_neg (by simp [hok]))

theorem switchOff_part (hd : d.val < 8) (hi : s.partIdle d = true) :
    ∃ t, exec (.powerDomainSwitchOff d) s = .next t ∧ t.domainOn d = false ∧ t.rd F.FW_PROC_STAT.pstate (pc d) = 3 ∧
      t.rd F.TICK_STAT.running d = 0 ∧ t.rd F.TICK_STAT.cur_len d = 0 ∧ t.rd F.TICK_CTRL.table_len d = 0 ∧
      t.bring.downDomains.head? = some (d.val, t.nowNs) := by
  exact ⟨_, (exec_switchOff hok).trans (congrArg _ ((if_pos hd).trans (if_pos hi))), State.stopTicks_noteOff _ hd (s.offPart_state d)⟩

theorem switchOff_cluster (h8 : 8 ≤ d.val) (h40 : d.val < 40) (hi : s.clusterIdle (d.val - 8) = true)
    (hs : s.suspended (d.val - 8) = false) :
    ∃ t, exec (.powerDomainSwitchOff d) s = .next t ∧ t.domainOn d = false ∧ t.bring.downDomains.head? = some (d.val, t.nowNs) ∧
      ∀ x, clSramBase (d.val - 8) ≤ x → x < clSramBase (d.val - 8) + 0x800000 → Memory.byte t.mem x = 0 := by
  have hexec := exec_switchOff hok
  rw [if_neg (by omega), if_pos h40, if_pos (by simp [hi, hs])] at hexec
  obtain ⟨hoff, hhead, hmem, -⟩ := (s.zeroCluster (d.val - 8)).noteOff_effect d
  refine ⟨_, hexec, hoff, hhead, fun x hlo hhi => ?_⟩
  rw [hmem]
  exact s.byte_zeroCluster hlo hhi

end

theorem switchOff_nothing {d : Fin 50} (h : (s.procUp cairn && s.ready && s.domainOn d) = false ∨ 40 ≤ d.val ∨
    (d.val < 8 ∧ s.partIdle d = false) ∨
    (8 ≤ d.val ∧ (s.clusterIdle (d.val - 8) = false ∨ s.suspended (d.val - 8) = true))) : exec (.powerDomainSwitchOff d) s = .next s := by
  by_cases hok : (s.procUp cairn && s.ready && s.domainOn d) = true
  · rw [exec_switchOff hok]
    congr 1
    rcases h with h | h | ⟨hd, h⟩ | ⟨hd, h⟩
    · simp [hok] at h
    · rw [if_neg (by omega), if_neg (by omega)]
    · rw [if_pos hd, if_neg (by simp [h])]
    · rw [if_neg (by omega), if_neg (by rcases h with h | h <;> simp [h] : ¬ (s.clusterIdle (d.val - 8) && !s.suspended (d.val - 8)) = true),
        ite_self]
  · exact congrArg _ (if_pos (by rw [eq_false_of_ne_true hok]; rfl))

end Sys2Proof.Machine

/-! SUPPORT. A domain is switched on again (R43, R501). -/

namespace Sys2Proof.Machine

open Sys2Proof.Safety

variable {s : State} {d : Fin 50}

/-! ## Log records, routes around lost routers, a processor that starts -/

theorem State.logRec_frame (s : State) (i tp sev : Nat) (words : List Nat) : ∃ v, s.logRec i tp sev words = s.withProcs v := by
  rw [State.logRec]
  split
  · exact ⟨_, rfl⟩
  · extract_lets len u
    obtain ⟨v, hv⟩ : ∃ v, u = s.withProcs v := by
      unfold u
      split <;> exact ⟨_, rfl⟩
    rw [hv]
    exact ⟨_, rfl⟩

@[simp] theorem State.rd_logRec (s : State) (i tp sev : Nat) (words : List Nat) (g : Field) (j : Nat) :
    (s.logRec i tp sev words).rd g j = s.rd g j := by
  obtain ⟨v, hv⟩ := s.logRec_frame i tp sev words
  rw [hv, State.rd_withProcs]

@[simp] theorem State.logRec_bring (s : State) (i tp sev : Nat) (words : List Nat) : (s.logRec i tp sev words).bring = s.bring := by
  obtain ⟨v, hv⟩ := s.logRec_frame i tp sev words
  rw [hv]
  rfl

/-- The fields that rerouting writes. -/
def routeFields : List Field := [F.NOC_ROUTE.order, F.NOC_ROUTE.waypoint, F.NOC_ROUTE.wp_valid, F.NOC_STAT.route_rebuilt]

/-- The bring-up record stays, and every field elsewhere in the map than the routes. -/
def OffRoutes (s t : State) : Prop :=
  t.bring = s.bring ∧ ∀ (g : Field) (j : Nat), g.Has j → (∀ f ∈ routeFields, g.clear f = true) → t.rd g j = s.rd g j

/-- Rerouting writes the routes and nothing elsewhere in the map; the bring-up record stays. -/
theorem State.reroute_keeps (s : State) (rs : List Nat) : OffRoutes s (s.reroute rs) := by
  have hlast : ∀ u : State, OffRoutes s u → OffRoutes s (u.put F.NOC_STAT.route_rebuilt 1) := fun u hu =>
    ⟨hu.1, fun g j hj hg => (State.rd_put_clear _ (hg _ (by simp [routeFields])) hj (Field.has_zero (by decide) (by decide)) _).trans
      (hu.2 g j hj hg)⟩
  refine hlast _ (List.foldlRecOn _ _ ⟨rfl, fun _ _ _ _ => rfl⟩ fun b hb d hd => ⟨hb.1, fun g j hj hg => ?_⟩)
  have hlt : d < 32 := List.mem_range.1 (List.mem_filter.1 hd).1
  rw [← hb.2 g j hj hg, State.drawn, State.rd_withFree,
    State.rd_put_clear _ (hg _ (by simp [routeFields])) hj (Field.has_of_lt hlt (by decide) (by decide)),
    State.rd_put_clear _ (hg _ (by simp [routeFields])) hj (Field.has_of_lt hlt (by decide) (by decide)),
    State.rd_put_clear _ (hg _ (by simp [routeFields])) hj (Field.has_of_lt hlt (by decide) (by decide))]

/-- A processor that starts runs; of the register map its status and its counters change. -/
theorem State.startProc_effect (s : State) (i : Nat) : let t := s.startProc i
    t.rd F.FW_PROC_STAT.pstate i = 0 ∧ t.bring = s.bring ∧
      ∀ g : Field, g.apart F.FW_PROC_STAT.pstate = true → g.apart F.FW_PROC_STAT.last_cause = true →
        g.apart F.FW_PROC_CNT.starts = true → ∀ j, t.rd g j = s.rd g j := by
  refine ⟨?_, ?_, fun g hp hc hs j => ?_⟩
  · rw [State.startProc, State.logStart, State.rd_logRec, State.kick, State.setProc, State.rd_withProcs, State.bump,
      State.rd_put_apart _ (by decide), State.rd_put_apart _ (by decide), State.rd_put_same]
    rfl
  · rw [State.startProc, State.logStart, State.logRec_bring]
    rfl
  · rw [State.startProc, State.logStart, State.rd_logRec, State.kick, State.setProc, State.rd_withProcs, State.bump,
      State.rd_put_apart _ hs, State.rd_put_apart _ hc, State.rd_put_apart _ hp]

/-! ## On (R43) -/

theorem switchOn_nothing (h : ∀ y ∈ s.bring.downDomains, y.1 ≠ d.val) : exec (.powerDomainSwitchOn d) s = .next s := by
  have hnone : s.bring.downDomains.find? (fun x => x.1 == d.val) = none := by simpa [List.find?_eq_none] using h
  show execPowerDomainSwitchOn d s = _
  rw [execPowerDomainSwitchOn, hnone]

theorem switchOn_refused (h : s.procUp cairn = false ∨ s.ready = false ∨ (8 ≤ d.val ∧ s.domainOn ((d.val - 8) / 4) = false)) :
    exec (.powerDomainSwitchOn d) s = .next s := by
  show execPowerDomainSwitchOn d s = _
  rw [execPowerDomainSwitchOn]
  split
  · rfl
  · refine congrArg _ (if_pos ?_)
    rcases h with h | h | ⟨h8, h⟩ <;> simp [h]
    omega

/-- The domain that is switched on is no longer noted. -/
def State.noteOn (s : State) (d : Nat) : State :=
  (s.power [d] true).withBring { s.bring with downDomains := s.bring.downDomains.filter fun y => y.1 != d }

/-- The ways are chosen anew when routers are still lost. -/
def State.rerouteLost (s : State) : State :=
  let gone := (span 0 32).filter fun r => s.rd F.NOC_RTR.state r != 0
  if gone.isEmpty then s else s.reroute gone

/-- The routers of a partition that is switched on carry traffic again, and its controller starts. -/
def State.startPart (s : State) (d : Nat) : State :=
  ((s.putAll F.NOC_RTR.state 0 (partRouters d)).putAll F.NOC_ROUTE.wp_valid 0 (span 0 32)).rerouteLost.startProc (pc d)

theorem State.putAll_bring (s : State) (f : Field) (v : Nat) (is : List Nat) : (s.putAll f v is).bring = s.bring :=
  foldl_keep (P := fun u : State => u.bring = s.bring) (g := fun u i => u.put f v i) (fun _ _ h => h) is rfl

theorem State.rd_putAll_clear (s : State) {g f : Field} {j : Nat} (h : g.clear f = true) (hg : g.Has j) {is : List Nat}
    (his : ∀ i ∈ is, f.Has i) (v : Nat) : (s.putAll f v is).rd g j = s.rd g j :=
  List.foldlRecOn (motive := fun u : State => u.rd g j = s.rd g j) is (fun u i => u.put f v i) rfl
    fun _ hb i hi => (State.rd_put_clear _ h hg (his i hi) v).trans hb

theorem hasRouter_of_mem_partRouters {d i : Nat} (hd : d < 8) (hi : i ∈ partRouters d) : F.NOC_RTR.state.Has i := by
  have hlt : ∀ d < 8, ∀ i ∈ partRouters d, i < 32 := by decide
  exact Field.has_of_lt (hlt d hd i hi) (by decide) (by decide)

theorem State.rerouteLost_keeps (s : State) : s.rerouteLost.bring = s.bring ∧
    s.rerouteLost.rd F.RST_PD_STAT.pd_on = s.rd F.RST_PD_STAT.pd_on := by
  unfold State.rerouteLost
  extract_lets gone
  split
  · exact ⟨rfl, rfl⟩
  · exact ⟨(s.reroute_keeps gone).1, (s.reroute_keeps gone).2 _ 0 (Field.has_zero (by decide) (by decide)) (by decide)⟩

theorem State.startPart_effect (s : State) {d : Nat} (hd : d < 8) : let t := s.startPart d
    t.rd F.FW_PROC_STAT.pstate (pc d) = 0 ∧ t.bring = s.bring ∧ t.rd F.RST_PD_STAT.pd_on = s.rd F.RST_PD_STAT.pd_on := by
  obtain ⟨hbring, hon⟩ := ((s.putAll F.NOC_RTR.state 0 (partRouters d)).putAll F.NOC_ROUTE.wp_valid 0 (span 0 32)).rerouteLost_keeps
  obtain ⟨hp, hb, hrd⟩ := State.startProc_effect
    ((s.putAll F.NOC_RTR.state 0 (partRouters d)).putAll F.NOC_ROUTE.wp_valid 0 (span 0 32)).rerouteLost (pc d)
  refine ⟨hp, ?_, ?_⟩
  · rw [State.startPart, hb, hbring, State.putAll_bring, State.putAll_bring]
  · rw [State.startPart, hrd _ (by decide) (by decide) (by decide), hon,
      State.rd_putAll_clear _ (by decide) (Field.has_zero (by decide) (by decide))
        (fun i hi => Field.has_of_lt (show i < 32 by simpa [span] using hi) (by decide) (by decide)),
      State.rd_putAll_clear _ (by decide) (Field.has_zero (by decide) (by decide)) (fun i hi => hasRouter_of_mem_partRouters hd hi)]

section
variable {x : Nat × Nat} (hf : s.bring.downDomains.find? (fun y => y.1 == d.val) = some x)
include hf

theorem switchOn_waits (h : s.reach (x.2 + 10000000) = none) : exec (.powerDomainSwitchOn d) s = .next s := by
  show execPowerDomainSwitchOn d s = _
  rw [execPowerDomainSwitchOn, hf]
  simp only [h, ite_self]

theorem exec_switchOn (hup : s.procUp cairn = true) (hr : s.ready = true) (h : s.reach (x.2 + 10000000) = some s)
    (hc : (d.val < 8 || s.domainOn ((d.val - 8) / 4)) = true) :
    exec (.powerDomainSwitchOn d) s = .next (if 8 ≤ d.val then s.noteOn d else (s.noteOn d).startPart d) := by
  show execPowerDomainSwitchOn d s = _
  rw [execPowerDomainSwitchOn, hf]
  simp only [h, hup, hr, hc, Bool.and_true, Bool.not_true, Bool.false_eq_true, if_false]
  rfl

theorem switchOn_cluster (hup : s.procUp cairn = true) (hr : s.ready = true) (h : s.reach (x.2 + 10000000) = some s) (h8 : 8 ≤ d.val)
    (hc : s.domainOn ((d.val - 8) / 4) = true) :
    ∃ t, exec (.powerDomainSwitchOn d) s = .next t ∧ t.domainOn d = true ∧
      t.bring = { s.bring with downDomains := s.bring.downDomains.filter (fun y => y.1 != d.val) } ∧
      Only s t [(F.RST_PD_STAT.pd_on, 0)] (·.withBring t.bring) := by
  refine ⟨_, (exec_switchOn hf hup hr h (by simp [hc])).trans (congrArg _ (if_pos h8)), (s.domainOn_power d).1, rfl, ?_, ?_⟩
  · rfl
  · exact regsSame_put (regsSame_refl s _) (by simp) _

theorem switchOn_part (hup : s.procUp cairn = true) (hr : s.ready = true) (h : s.reach (x.2 + 10000000) = some s) (hd : d.val < 8) :
    ∃ t, exec (.powerDomainSwitchOn d) s = .next t ∧ t.domainOn d = true ∧ t.rd F.FW_PROC_STAT.pstate (pc d) = 0 ∧
      ∀ y ∈ t.bring.downDomains, y.1 ≠ d.val := by
  obtain ⟨hp, hb, hon⟩ := (s.noteOn d).startPart_effect hd
  refine ⟨_, (exec_switchOn hf hup hr h (by simp [hd])).trans (congrArg _ (if_neg (by omega))),
    (State.domainOn_congr hon _).trans (s.domainOn_power d).1, hp, fun y hy => ?_⟩
  rw [hb] at hy
  simpa using (List.mem_filter.1 hy).2

end

end Sys2Proof.Machine

open Sys2Proof Sys2Proof.Machine Sys2Proof.Safety in
/-- Settles O48: a reset of the whole device goes through `State.resetDevice`, an orderly one first keeps the token; a switched
domain is noted when it goes off and forgotten when it comes back. -/
theorem wholeDeviceResetsAndPowerDomains : Obligations.WholeDeviceResetsAndPowerDomains := by
  unfold Obligations.WholeDeviceResetsAndPowerDomains
  refine ⟨fun s wr warm perst => ⟨defectMapWrite_effect, defectMapWrite_nothing, fun hw hp hr ht hs => devRst_effect hw hp hr ht hs warm,
    fun h => devRst_nothing h warm, wholeDeviceReset_idle, fun t0 hs hf hq => ?_, fun t0 hs hf he h => wholeDeviceReset_waits hs hf he h,
    State.warmToken_eq_none, contacts_asserted, contacts_asserted_idle, resetDeassert_starts, resetDeassert_waits⟩,
    fun s d => ⟨switchOff_nothing, switchOff_part, switchOff_cluster, switchOn_nothing, switchOn_refused, fun at_ hf hup hr =>
      ⟨fun he h => switchOn_waits hf (State.reach_eq_none he h), fun h hd => switchOn_part hf hup hr (State.reach_eq_some h) hd,
        fun h h8 hc => switchOn_cluster hf hup hr (State.reach_eq_some h) h8 hc⟩⟩⟩
  obtain ⟨hstep, hready, hvalid, htrip, ⟨htok, hshut, himg, htripped, -, -⟩, ⟨hnor, hnow, hhost⟩, hrest⟩ :=
    (s.withBring { s.bring with token := s.warmToken }).resetDevice_effect
  obtain ⟨hmem, hkeys, hcells, hseqs, hthreads, hlinks, hrings, hslices⟩ := hrest
  exact ⟨_, exec_wholeDeviceReset hs hf hq, htok, hstep, hready, hvalid, hshut, himg, hnor, hnow, hhost, hmem, hkeys, hcells, hseqs,
    hthreads, hlinks, hrings, hslices, htrip, htripped⟩

/-! SUPPORT. Sensor samples (R486): what a sample does to the registers of its point, and what it leaves. -/

namespace Sys2Proof.Machine

variable {s : State}

theorem State.pointOn_congr {t : State} (h : t.rd F.RST_PD_STAT.pd_on = s.rd F.RST_PD_STAT.pd_on) (k : Nat) :
    t.pointOn k = s.pointOn k := by
  rw [State.pointOn, State.pointOn, funext (State.domainOn_congr h)]

@[simp] theorem State.rd_dirty (s : State) (g : Field) (j : Nat) : s.dirty.rd g j = s.rd g j := rfl

theorem State.dirty_token {x : WarmToken} (h : s.dirty.bring.token = some x) : x.clean = false := by
  obtain ⟨y, -, rfl⟩ := Option.map_eq_some_iff.1 h
  rfl

/-! ## Temperature points -/

/-- The fields of a temperature point. -/
def tempFields : List Field := [F.MGT_TEMP.valid, F.MGT_TEMP.temp, F.MGT_TEMP.temp_max]

theorem State.rd_sampleTemp {g : Field} {j k : Nat} (h : ∀ f ∈ tempFields, g.key j ≠ f.key k) (x : BitVec 16) :
    (s.sampleTemp k x).rd g j = s.rd g j := by
  simp only [tempFields, List.forall_mem_cons] at h
  obtain ⟨hvalid, htemp, hmax, -⟩ := h
  unfold State.sampleTemp State.putS
  extract_lets first u
  have hu : u.rd g j = s.rd g j := by rw [State.rd_put_ne _ hmax, State.rd_put_ne _ htemp, State.rd_put_ne _ hvalid]
  split
  · exact State.rd_put_ne _ hvalid
  · split
    · exact (State.rd_dirty _ _ _).trans hu
    · exact hu

theorem State.sampleTemp_off {k : Nat} (h : s.pointOn k = false) (x : BitVec 16) :
    (s.sampleTemp k x).rd F.MGT_TEMP.valid k = 0 := by
  rw [State.sampleTemp, if_pos (by simp [h]), State.rd_put_same]
  rfl

theorem toSigned_ofSigned {v : Int} (h : -2 ^ 15 ≤ v ∧ v < 2 ^ 15) : toSigned 16 (ofSigned 16 v) = v := by
  norm_num [toSigned, ofSigned]
  split <;> omega

theorem toSigned_mod (w v : Nat) : toSigned w (v % 2 ^ w) = toSigned w v := by simp only [toSigned, Nat.mod_mod]

theorem toSigned_range (v : Nat) : -2 ^ 15 ≤ toSigned 16 v ∧ toSigned 16 v < 2 ^ 15 := by
  norm_num [toSigned]
  split <;> omega

theorem State.rdS_putS_tempMax (s : State) (k : Nat) {v : Int} (h : -2 ^ 15 ≤ v ∧ v < 2 ^ 15) :
    (s.putS F.MGT_TEMP.temp_max v k).rdS F.MGT_TEMP.temp_max k = v := by
  rw [State.rdS, State.putS, State.rd_put_same, toSigned_mod]
  exact toSigned_ofSigned h

theorem toInt_range (x : BitVec 16) : -2 ^ 15 ≤ x.toInt ∧ x.toInt < 2 ^ 15 := ⟨x.le_toInt, x.toInt_lt⟩

/-- A point whose domain is on takes the sample; its maximum begins with the first one. -/
theorem State.sampleTemp_on {k : Nat} (h : s.pointOn k = true) (x : BitVec 16) : let t := s.sampleTemp k x
    t.rd F.MGT_TEMP.valid k = 1 ∧ t.rd F.MGT_TEMP.temp k = x.toNat ∧
      (s.rd F.MGT_TEMP.valid k = 0 → s.rd F.MGT_TEMP.temp_max k = 0 → t.rdS F.MGT_TEMP.temp_max k = x.toInt) ∧
      (s.rd F.MGT_TEMP.valid k = 1 → t.rdS F.MGT_TEMP.temp_max k = max (s.rdS F.MGT_TEMP.temp_max k) x.toInt) := by
  let first := !s.on F.MGT_TEMP.valid k && s.rd F.MGT_TEMP.temp_max k == 0
  let m : Int := if first then x.toInt else max (s.rdS F.MGT_TEMP.temp_max k) x.toInt
  have hrd : ∀ g j, (s.sampleTemp k x).rd g j =
      (((s.put F.MGT_TEMP.valid 1 k).put F.MGT_TEMP.temp x.toNat k).putS F.MGT_TEMP.temp_max m k).rd g j := by
    intro g j
    rw [State.sampleTemp, if_neg (by simp [h])]
    extract_lets
    split
    · exact State.rd_dirty _ _ _
    · rfl
  have hmax : (s.sampleTemp k x).rdS F.MGT_TEMP.temp_max k = m := by
    rw [State.rdS, hrd]
    refine State.rdS_putS_tempMax _ k ?_
    unfold m
    split
    · exact toInt_range x
    · exact ⟨le_max_of_le_right (toInt_range x).1, max_lt (toSigned_range _).2 (toInt_range x).2⟩
  refine ⟨?_, ?_, fun hv ht => ?_, fun hv => ?_⟩
  · rw [hrd, State.putS, State.rd_put_apart _ (by decide), State.rd_put_apart _ (by decide), State.rd_put_same]
    rfl
  · rw [hrd, State.putS, State.rd_put_apart _ (by decide), State.rd_put_same]
    exact Nat.mod_eq_of_lt x.isLt
  · rw [hmax]
    exact if_pos (by simp [first, State.on, hv, ht])
  · rw [hmax]
    exact if_neg (by simp [first, State.on, hv])

/-! ## The points in order -/

/-- The points from `n` on take the samples of a list. -/
def State.sampleFrom (s : State) (l : List (BitVec 16)) (n : Nat) : State := (l.zipIdx n).foldl (fun s x => s.sampleTemp x.2 x.1) s

theorem State.rd_sampleFrom {g : Field} {j : Nat} (l : List (BitVec 16)) (n : Nat) (s : State)
    (h : ∀ i, n ≤ i → i < n + l.length → ∀ f ∈ tempFields, g.key j ≠ f.key i) : (s.sampleFrom l n).rd g j = s.rd g j := by
  induction l generalizing n s with
  | nil => rfl
  | cons x l ih =>
    refine (ih (n + 1) (s.sampleTemp n x) fun i hlo hhi => h i (by omega) ?_).trans (State.rd_sampleTemp (h n (le_refl n) ?_) x)
    · rw [List.length_cons]
      omega
    · rw [List.length_cons]
      omega

theorem State.sampleFrom_split {l : List (BitVec 16)} {k : Nat} {x : BitVec 16} (h : l[k]? = some x) (s : State) :
    s.sampleFrom l 0 = ((s.sampleFrom (l.take k) 0).sampleTemp k x).sampleFrom (l.drop (k + 1)) (k + 1) := by
  obtain ⟨hk, hx⟩ := List.getElem?_eq_some_iff.1 h
  have hlen : (l.take k).length = k := by
    rw [List.length_take]
    omega
  have hl : l = l.take k ++ x :: l.drop (k + 1) := by
    rw [← hx, ← List.drop_eq_getElem_cons hk, List.take_append_drop]
  conv_lhs => rw [hl]
  rw [State.sampleFrom, List.zipIdx_append, List.foldl_append, hlen, Nat.zero_add, List.zipIdx_cons, List.foldl_cons]
  rfl

/-- The fields of other points lie apart. -/
theorem tempFields_key_ne {g : Field} (hg : g ∈ tempFields) {j k : Nat} (h : j ≠ k) : ∀ f ∈ tempFields, g.key j ≠ f.key k := by
  simp only [tempFields, List.mem_cons, List.not_mem_nil, or_false] at hg
  simp only [tempFields, List.forall_mem_cons, List.not_mem_nil, false_implies, implies_true, and_true]
  rcases hg with rfl | rfl | rfl
  · exact ⟨Field.key_ne _ h.symm (by decide), Field.key_ne_of_apart (by decide) _ _, Field.key_ne_of_apart (by decide) _ _⟩
  · exact ⟨Field.key_ne_of_apart (by decide) _ _, Field.key_ne _ h.symm (by decide), Field.key_ne_of_apart (by decide) _ _⟩
  · exact ⟨Field.key_ne_of_apart (by decide) _ _, Field.key_ne_of_apart (by decide) _ _, Field.key_ne _ h.symm (by decide)⟩

theorem pdOn_key_ne_temp {k : Nat} (h : k < 210) : ∀ f ∈ tempFields, F.RST_PD_STAT.pd_on.key 0 ≠ f.key k := by
  have hclear : ∀ f ∈ tempFields, F.RST_PD_STAT.pd_on.clear f = true ∧ f.stride ≠ 0 ∧ f.per = 0 ∧ f.count = 210 := by decide
  intro f hf
  obtain ⟨hc, hs, hp, hn⟩ := hclear f hf
  exact Field.key_ne_of_clear hc (Field.has_zero (by decide) (by decide)) (Field.has_of_lt (hn ▸ h) hs hp)

theorem State.sampleFrom_pdOn {l : List (BitVec 16)} {n : Nat} (h : n + l.length ≤ 210) (s : State) :
    (s.sampleFrom l n).rd F.RST_PD_STAT.pd_on = s.rd F.RST_PD_STAT.pd_on :=
  State.rd_sampleFrom l n s fun _ _ hi => pdOn_key_ne_temp (by omega)

/-- Point `k` of a sample: what its own sample leaves in its registers, the former values as read before. -/
theorem State.sampleFrom_point {l : List (BitVec 16)} (hl : l.length ≤ 210) {k : Nat} {x : BitVec 16} (h : l[k]? = some x) (s : State) :
    ∃ u : State, u.pointOn k = s.pointOn k ∧ (∀ g ∈ tempFields, u.rd g k = s.rd g k) ∧
      ∀ g ∈ tempFields, (s.sampleFrom l 0).rd g k = (u.sampleTemp k x).rd g k := by
  have hk : k < l.length := (List.getElem?_eq_some_iff.1 h).1
  refine ⟨s.sampleFrom (l.take k) 0, State.pointOn_congr (State.sampleFrom_pdOn ?_ s) k, fun g hg => ?_, fun g hg => ?_⟩
  · rw [List.length_take]
    omega
  · refine State.rd_sampleFrom _ _ _ fun i _ hi => tempFields_key_ne hg ?_
    rw [List.length_take] at hi
    omega
  · rw [State.sampleFrom_split h]
    exact State.rd_sampleFrom _ _ _ fun i hi _ => tempFields_key_ne hg (by omega)

end Sys2Proof.Machine

/-! SUPPORT. Sensor samples (R486): voltages and currents, the whole sample, and the NOR half of the event log (R489). -/

namespace Sys2Proof.Machine

variable {s : State}

/-- Which domains report. -/
def State.showDomains (s : State) (l : List Nat) : State := l.foldl (fun s d => s.put F.MGT_PD.pd_valid (b2n (s.domainOn d)) d) s

theorem State.rd_showDomains {g : Field} (h : g.apart F.MGT_PD.pd_valid = true) (l : List Nat) (s : State) (j : Nat) :
    (s.showDomains l).rd g j = s.rd g j :=
  foldl_keep (P := fun u : State => u.rd g j = s.rd g j) (fun _ _ hb => (State.rd_put_apart _ h _ _ _).trans hb) l rfl

theorem State.showDomains_valid (l : List Nat) (s : State) {d : Nat} (hd : d ∈ l) :
    (s.showDomains l).rd F.MGT_PD.pd_valid d = b2n (s.domainOn d) := by
  induction l using List.reverseRecOn with
  | nil => simp at hd
  | append_singleton l e ih =>
    have hlast : s.showDomains (l ++ [e]) = (s.showDomains l).put F.MGT_PD.pd_valid (b2n ((s.showDomains l).domainOn e)) e := by
      rw [State.showDomains, List.foldl_append]
      rfl
    rw [hlast]
    by_cases h : d = e
    · rw [h, State.rd_put_same, State.domainOn_congr (s.rd_showDomains (by decide) l 0)]
      exact b2n_mod_two _
    · rw [State.rd_put_index _ _ (Ne.symm h) (by decide)]
      exact ih (by simpa [h] using hd)

/-- The rail of one domain is read. -/
def State.sampleRail (s : State) (d mv ma : Nat) : State :=
  if s.domainOn d then
    let u := (s.put F.MGT_PD.mv mv d).put F.MGT_PD.ma ma d
    if u.railOut d mv then u.dirty else u
  else s

theorem State.sampleRail_on {d : Nat} (h : s.domainOn d = true) (mv ma : Nat) (g : Field) (j : Nat) :
    (s.sampleRail d mv ma).rd g j = ((s.put F.MGT_PD.mv mv d).put F.MGT_PD.ma ma d).rd g j := by
  rw [State.sampleRail, if_pos h]
  extract_lets
  split
  · exact State.rd_dirty _ _ _
  · rfl

theorem State.rd_sampleRail {d : Nat} {g : Field} {j : Nat} (hmv : g.key j ≠ F.MGT_PD.mv.key d) (hma : g.key j ≠ F.MGT_PD.ma.key d)
    (mv ma : Nat) : (s.sampleRail d mv ma).rd g j = s.rd g j := by
  by_cases h : s.domainOn d = true
  · rw [State.sampleRail_on h, State.rd_put_ne _ hma, State.rd_put_ne _ hmv]
  · rw [State.sampleRail, if_neg h]

/-- The input's voltage, current and power are read. -/
def State.sampleInput (s : State) (vin iin : Nat) : State :=
  let u := ((s.put F.MGT_IN.vin_mv vin).put F.MGT_IN.iin_ma iin).put F.MGT_IN.pin_w (vin * iin / 1000000)
  if vin < 60000 ∨ 80000 < vin then u.dirty else u

theorem State.rd_sampleInput (s : State) (vin iin : Nat) (g : Field) (j : Nat) : (s.sampleInput vin iin).rd g j =
    (((s.put F.MGT_IN.vin_mv vin).put F.MGT_IN.iin_ma iin).put F.MGT_IN.pin_w (vin * iin / 1000000)).rd g j := by
  rw [State.sampleInput]
  split
  · exact State.rd_dirty _ _ _
  · rfl

theorem State.rd_sampleInput_clear {g : Field} {j : Nat} (hg : g.Has j) (hv : g.clear F.MGT_IN.vin_mv = true)
    (hi : g.clear F.MGT_IN.iin_ma = true) (hp : g.clear F.MGT_IN.pin_w = true) (vin iin : Nat) :
    (s.sampleInput vin iin).rd g j = s.rd g j := by
  have hzero : F.MGT_IN.vin_mv.Has 0 ∧ F.MGT_IN.iin_ma.Has 0 ∧ F.MGT_IN.pin_w.Has 0 :=
    ⟨Field.has_zero (by decide) (by decide), Field.has_zero (by decide) (by decide), Field.has_zero (by decide) (by decide)⟩
  rw [State.rd_sampleInput, State.rd_put_clear _ hp hg hzero.2.2, State.rd_put_clear _ hi hg hzero.2.1, State.rd_put_clear _ hv hg hzero.1]

section
variable {d : Fin 50} {temps : List (BitVec 16)} {mv ma vin iin : Nat}

theorem exec_sensorSample (h : s.procUp cairn = true) : exec (.sensorSample temps [(d, mv, ma)] vin iin) s =
    .next ((((s.sampleFrom (temps.take 210) 0).showDomains (span 0 50)).sampleRail d mv ma).sampleInput vin iin) :=
  congrArg _ (if_neg (by simp [h]))

/-- The state after the points of a sample. -/
theorem State.sampled_domainOn (s : State) (temps : List (BitVec 16)) (e : Nat) :
    (s.sampleFrom (temps.take 210) 0).domainOn e = s.domainOn e :=
  State.domainOn_congr (State.sampleFrom_pdOn (by rw [List.length_take]; omega) s) e

theorem sample_input (u : State) : let t := u.sampleInput vin iin
    t.rd F.MGT_IN.vin_mv = vin % 2 ^ 20 ∧ t.rd F.MGT_IN.iin_ma = iin % 2 ^ 20 ∧ t.rd F.MGT_IN.pin_w = vin * iin / 1000000 % 2 ^ 13 := by
  refine ⟨?_, ?_, ?_⟩ <;> rw [State.rd_sampleInput] <;> simp (disch := decide) only [State.rd_put_apart, State.rd_put_same] <;> rfl

theorem sample_valid (u : State) (x : Fin 50) :
    (((u.showDomains (span 0 50)).sampleRail d mv ma).sampleInput vin iin).rd F.MGT_PD.pd_valid x = b2n (u.domainOn x) := by
  rw [State.rd_sampleInput_clear (Field.has_of_lt x.isLt (by decide) (by decide)) (by decide) (by decide) (by decide),
    State.rd_sampleRail (Field.key_ne_of_apart (by decide) _ _) (Field.key_ne_of_apart (by decide) _ _)]
  exact u.showDomains_valid _ (mem_span_zero x.isLt)

theorem sample_rail {u : State} (h : u.domainOn d = true) : let t := ((u.showDomains (span 0 50)).sampleRail d mv ma).sampleInput vin iin
    t.rd F.MGT_PD.mv d = mv % 2 ^ 20 ∧ t.rd F.MGT_PD.ma d = ma % 2 ^ 20 := by
  have hon : (u.showDomains (span 0 50)).domainOn d = true := (State.domainOn_congr (u.rd_showDomains (by decide) _ 0) d).trans h
  refine ⟨?_, ?_⟩
  · rw [State.rd_sampleInput_clear (Field.has_of_lt d.isLt (by decide) (by decide)) (by decide) (by decide) (by decide),
      State.sampleRail_on hon, State.rd_put_apart _ (by decide), State.rd_put_same]
    rfl
  · rw [State.rd_sampleInput_clear (Field.has_of_lt d.isLt (by decide) (by decide)) (by decide) (by decide) (by decide),
      State.sampleRail_on hon, State.rd_put_same]
    rfl

theorem sample_point (u : State) (k : Fin 210) {g : Field} (hg : g ∈ tempFields) :
    (((u.showDomains (span 0 50)).sampleRail d mv ma).sampleInput vin iin).rd g k = u.rd g k := by
  have htab : ∀ f ∈ tempFields, (f.stride ≠ 0 ∧ f.per = 0 ∧ f.count = 210) ∧ (f.clear F.MGT_IN.vin_mv = true ∧
      f.clear F.MGT_IN.iin_ma = true ∧ f.clear F.MGT_IN.pin_w = true) ∧ f.clear F.MGT_PD.mv = true ∧ f.clear F.MGT_PD.ma = true ∧
      f.apart F.MGT_PD.pd_valid = true := by decide
  obtain ⟨⟨hs, hp, hn⟩, ⟨hv, hi, hw⟩, hmv, hma, hval⟩ := htab g hg
  have hhas : g.Has k := Field.has_of_lt (by rw [hn]; exact k.isLt) hs hp
  rw [State.rd_sampleInput_clear hhas hv hi hw,
    State.rd_sampleRail (Field.key_ne_of_clear hmv hhas (Field.has_of_lt d.isLt (by decide) (by decide)))
      (Field.key_ne_of_clear hma hhas (Field.has_of_lt d.isLt (by decide) (by decide))),
    State.rd_showDomains hval]

theorem sensorSample_effect (h : s.procUp cairn = true) (k : Fin 210) :
    ∃ t, exec (.sensorSample temps [(d, mv, ma)] vin iin) s = .next t ∧
      t.rd F.MGT_IN.vin_mv = vin % 2 ^ 20 ∧ t.rd F.MGT_IN.iin_ma = iin % 2 ^ 20 ∧ t.rd F.MGT_IN.pin_w = vin * iin / 1000000 % 2 ^ 13 ∧
      (∀ x : Fin 50, t.rd F.MGT_PD.pd_valid x = b2n (s.domainOn x)) ∧
      (s.domainOn d = true → t.rd F.MGT_PD.mv d = mv % 2 ^ 20 ∧ t.rd F.MGT_PD.ma d = ma % 2 ^ 20) ∧
      (s.pointOn k = false → k.val < temps.length → t.rd F.MGT_TEMP.valid k = 0) ∧
      (∀ x, temps[k.val]? = some x → s.pointOn k = true → t.rd F.MGT_TEMP.valid k = 1 ∧ t.rd F.MGT_TEMP.temp k = x.toNat ∧
        (s.rd F.MGT_TEMP.valid k = 0 → s.rd F.MGT_TEMP.temp_max k = 0 → t.rdS F.MGT_TEMP.temp_max k = x.toInt) ∧
        (s.rd F.MGT_TEMP.valid k = 1 → s.rd F.MGT_TEMP.temp_max k < 2 ^ 16 →
          t.rdS F.MGT_TEMP.temp_max k = max (s.rdS F.MGT_TEMP.temp_max k) x.toInt)) ∧
      (vin < 60000 ∨ 80000 < vin → ∀ x, t.bring.token = some x → x.clean = false) := by
  have hlen : (temps.take 210).length ≤ 210 := by
    rw [List.length_take]
    omega
  have hget : ∀ x, temps[k.val]? = some x → (temps.take 210)[k.val]? = some x := fun x hx => by
    rw [List.getElem?_take, if_pos k.isLt, hx]
  obtain ⟨hvin, hiin, hpin⟩ := sample_input (vin := vin) (iin := iin)
    (((s.sampleFrom (temps.take 210) 0).showDomains (span 0 50)).sampleRail d mv ma)
  refine ⟨_, exec_sensorSample h, hvin, hiin, hpin, fun x => ?_, fun hon => sample_rail ?_, fun hoff hk => ?_, fun x hx hon => ?_,
    fun hout x hx => ?_⟩
  · rw [sample_valid, s.sampled_domainOn]
  · rw [s.sampled_domainOn, hon]
  · obtain ⟨u, hpoint, -, hsame⟩ := State.sampleFrom_point hlen (hget _ (List.getElem?_eq_getElem hk)) s
    rw [sample_point _ k (by simp [tempFields]), hsame _ (by simp [tempFields]), State.sampleTemp_off (hpoint.trans hoff)]
  · obtain ⟨u, hpoint, hold, hsame⟩ := State.sampleFrom_point hlen (hget _ hx) s
    obtain ⟨hvalid, htemp, hfirst, hnext⟩ := State.sampleTemp_on (hpoint.trans hon) x
    simp only [State.rdS, hold _ (by simp [tempFields] : F.MGT_TEMP.valid ∈ tempFields),
      hold _ (by simp [tempFields] : F.MGT_TEMP.temp_max ∈ tempFields)] at hfirst hnext
    simp only [State.rdS, sample_point _ k (by simp [tempFields] : F.MGT_TEMP.valid ∈ tempFields),
      sample_point _ k (by simp [tempFields] : F.MGT_TEMP.temp ∈ tempFields),
      sample_point _ k (by simp [tempFields] : F.MGT_TEMP.temp_max ∈ tempFields),
      hsame _ (by simp [tempFields] : F.MGT_TEMP.valid ∈ tempFields),
      hsame _ (by simp [tempFields] : F.MGT_TEMP.temp ∈ tempFields),
      hsame _ (by simp [tempFields] : F.MGT_TEMP.temp_max ∈ tempFields)]
    exact ⟨hvalid, htemp, hfirst, fun hv _ => hnext hv⟩
  · rw [State.sampleInput, if_pos hout] at hx
    exact State.dirty_token hx

end

theorem sensorSample_nothing (h : s.procUp cairn = false) (temps : List (BitVec 16)) (pd : List (Fin 50 × Nat × Nat)) (vin iin : Nat) :
    exec (.sensorSample temps pd vin iin) s = .next s := congrArg _ (if_pos (by simp [h]))

/-! ## The NOR half of the event log (R489) -/

theorem eventLogNorWrite_nothing (h : s.procUp cairn = false ∨ s.mgt.norQueue = []) (ok : Bool) :
    exec (.eventLogNorWrite ok) s = .next s := congrArg _ (if_pos (by rcases h with h | h <;> simp [h]))

theorem eventLogNorWrite_effect (h : s.procUp cairn = true) (hq : s.mgt.norQueue ≠ []) (ok : Bool) :
    ∃ t, exec (.eventLogNorWrite ok) s = .next t ∧ t.mgt.norQueue = [] ∧ t.mgt.window = s.mgt.window ∧
      (ok = true → t.regs = s.regs ∧ (s.mgt.norQueue.length ≤ 65536 → s.mgt.norQueue.reverse <+: t.mgt.nor)) ∧
      (ok = false → t.mgt.nor = s.mgt.nor ∧ t.rd F.MGT_LOG_STAT.nvm_err = 1) := by
  refine ⟨_, congrArg Host.Outcome.next (if_neg (by simp [h, hq])), ?_⟩
  cases ok with
  | true =>
    refine ⟨rfl, rfl, fun _ => ⟨rfl, fun hlen => ?_⟩, fun hf => absurd hf (by decide)⟩
    refine List.prefix_take_iff.2 ⟨List.prefix_append _ _, ?_⟩
    rw [List.length_reverse]
    omega
  | false => exact ⟨rfl, rfl, fun ht => absurd ht (by decide), fun _ => ⟨rfl, State.rd_put_same _ _ _ _⟩⟩

end Sys2Proof.Machine

/-! SUPPORT. Clamps (R503, R504), trips (R500, R505), converters and the 72 V input (R88, R514). -/

namespace Sys2Proof.Machine

open Sys2Proof.Safety

variable {s : State}

theorem State.guarded_of (h : s.bring.powered = true ∧ s.bring.tripped = false) : s.guarded = true := by simp [State.guarded, h]

theorem State.guarded_eq_false (h : ¬ (s.bring.powered = true ∧ s.bring.tripped = false)) : s.guarded = false := by
  simpa [State.guarded] using h

/-! ## What an event leaves -/

@[simp] theorem State.event_bring (s : State) (cls sev k data src : Nat) : (s.event cls sev k data src).bring = s.bring := by
  rw [(event_only s cls sev k data src).1]
  rfl

/-- Of the management state an event changes the log alone. -/
theorem State.event_mgt (s : State) (cls sev k data src : Nat) : ∃ w q c, (s.event cls sev k data src).mgt =
    { s.mgt with window := w, norQueue := q, cairnQueue := c } := by
  unfold State.event State.writeRec
  extract_lets r r' m u v x
  split
  · split
    · rw [showFault_eq]
      exact ⟨_, _, _, rfl⟩
    · exact ⟨_, _, _, rfl⟩
  · split
    · exact ⟨_, _, _, rfl⟩
    · exact ⟨_, _, _, rfl⟩

/-! ## Clamps -/

theorem State.stopWork_quiet (hj : s.jobs = []) {p : Nat} (hp : (s.partOf p).wl = []) (cyc : Nat) (why : AbortPoint) :
    s.stopWork p cyc why = s := by
  rw [State.stopWork, hj]
  simp only [List.filter_nil, List.foldl_nil, hp, List.zipIdx_nil]

/-- Nothing stops where nothing runs. -/
theorem State.stopOpen_quiet (hj : s.jobs = []) (hw : ∀ p < 8, (s.partOf p).wl = []) : s.stopOpen = s := by
  refine List.foldlRecOn (motive := fun u => u = s) _ _ rfl fun u hu p hp => ?_
  rw [hu]
  exact State.stopWork_quiet hj (hw p (by simpa [span] using hp)) _ _

/-- The registers of a clamp that is set. -/
def State.clampShown (s : State) (m : MgtState) : State :=
  ((s.withMgt { m with justCleared := false }).showClamp.put F.MGT_PROT.clamp_evt 1).bump F.MGT_PROT.clamp_cnt

theorem State.clampShown_work (s : State) (m : MgtState) : (s.clampShown m).jobs = s.jobs ∧ (s.clampShown m).parts = s.parts := ⟨rfl, rfl⟩

theorem State.partOf_congr {t : State} (h : t.parts = s.parts) (p : Nat) : t.partOf p = s.partOf p := by
  rw [State.partOf, State.partOf, h]

theorem State.setClamp_eq (s : State) (m : MgtState) (data : Nat) :
    s.setClamp m data = (s.clampShown m).stopOpen.event 9 2 Ev.clamp data := rfl

theorem State.setClamp_quiet (hj : s.jobs = []) (hw : ∀ p < 8, (s.partOf p).wl = []) (m : MgtState) (data : Nat) :
    s.setClamp m data = (s.clampShown m).event 9 2 Ev.clamp data := by
  obtain ⟨hjobs, hparts⟩ := s.clampShown_work m
  rw [State.setClamp_eq, State.stopOpen_quiet (hjobs.trans hj) fun p hp => by rw [State.partOf_congr hparts, hw p hp]]

theorem State.setClamp_effect (hj : s.jobs = []) (hw : ∀ p < 8, (s.partOf p).wl = []) (m : MgtState) (data : Nat) :
    (s.setClamp m data).rd F.MGT_PROT.clamp_act = b2n (m.pwrClamp || m.thmClamp) ∧
      (s.setClamp m data).rd F.MGT_PROT.clamp_cause = (b2n m.pwrClamp + 2 * b2n m.thmClamp) % 4 ∧
      (s.setClamp m data).rd F.MGT_PROT.clamp_evt = 1 ∧ (s.setClamp m data).mgt.pwrClamp = m.pwrClamp ∧
      (s.setClamp m data).mgt.thmClamp = m.thmClamp := by
  obtain ⟨w, q, c, hmgt⟩ := (s.clampShown m).event_mgt 9 2 Ev.clamp data 0
  rw [State.setClamp_quiet hj hw, hmgt]
  refine ⟨?_, ?_, ?_, rfl, rfl⟩
  · rw [State.rd_event _ _ _ _ _ _ (by decide), State.clampShown, State.bump, State.rd_put_apart _ (by decide),
      State.rd_put_apart _ (by decide), State.showClamp, State.rd_put_apart _ (by decide), State.rd_put_same]
    exact b2n_mod_two _
  · rw [State.rd_event _ _ _ _ _ _ (by decide), State.clampShown, State.bump, State.rd_put_apart _ (by decide),
      State.rd_put_apart _ (by decide), State.showClamp, State.rd_put_same]
    rfl
  · rw [State.rd_event _ _ _ _ _ _ (by decide), State.clampShown, State.bump, State.rd_put_apart _ (by decide), State.rd_put_same]
    rfl

theorem powerClamp_nothing {w : Nat} (h : ¬ (s.bring.powered = true ∧ s.bring.tripped = false) ∨ w ≤ 3150 ∨ s.mgt.pwrClamp = true)
    (ns : Fin 125000) : exec (.powerClamp w ns) s = .next s := by
  refine congrArg _ (if_neg ?_)
  rcases h with h | h | h
  · simp [State.guarded_eq_false h]
  · simp [Nat.not_lt.2 h]
  · simp [h]

theorem thermalClamp_nothing {k : Fin 210} {temp : BitVec 16} (h : ¬ (s.bring.powered = true ∧ s.bring.tripped = false) ∨
    s.pointOn k = false ∨ temp.toInt < 840 ∨ s.mgt.thmClamp = true) (ns : Fin 125000) : exec (.thermalClamp k temp ns) s = .next s := by
  refine congrArg _ (if_neg ?_)
  rcases h with h | h | h | h
  · simp [State.guarded_eq_false h]
  · simp [h]
  · simp [Int.not_le.2 h]
  · simp [h]

theorem State.atNs_keeps (s : State) (ns : Nat) : (s.atNs ns).jobs = s.jobs ∧ (s.atNs ns).parts = s.parts ∧ (s.atNs ns).mgt = s.mgt := by
  rw [s.atNs_frame, State.withTime_jobs, State.withTime_parts, State.withTime_mgt]
  exact ⟨rfl, rfl, rfl⟩

/-- A clamp that is set in a tick where no open work stands. -/
theorem State.atNs_setClamp_effect (hj : s.jobs = []) (hw : ∀ p < 8, (s.partOf p).wl = []) (ns : Nat) (m : MgtState) (data : Nat) {t : State}
    (ht : t = (s.atNs ns).setClamp m data) : t.rd F.MGT_PROT.clamp_act = b2n (m.pwrClamp || m.thmClamp) ∧ t.rd F.MGT_PROT.clamp_cause = (b2n m.pwrClamp + 2 * b2n m.thmClamp) % 4 ∧
      t.rd F.MGT_PROT.clamp_evt = 1 ∧ t.mgt.pwrClamp = m.pwrClamp ∧ t.mgt.thmClamp = m.thmClamp := by
  obtain ⟨hjobs, hparts, -⟩ := s.atNs_keeps ns
  rw [ht]
  exact State.setClamp_effect (hjobs.trans hj) (fun p hp => by rw [State.partOf_congr hparts, hw p hp]) m data

theorem exec_powerClamp {w : Nat} (h : (s.guarded && 3150 < w && !s.mgt.pwrClamp) = true) (ns : Fin 125000) :
    exec (.powerClamp w ns) s = .next ((s.atNs ns).setClamp { s.mgt with pwrClamp := true } w) := by
  show Host.Outcome.next (if s.guarded && 3150 < w && !s.mgt.pwrClamp then
    (s.atNs ns).setClamp { (s.atNs ns).mgt with pwrClamp := true } w else s) = _
  rw [if_pos h, (s.atNs_keeps ns).2.2]

theorem exec_thermalClamp {k : Fin 210} {temp : BitVec 16} (h : (s.guarded && s.pointOn k && 840 ≤ temp.toInt && !s.mgt.thmClamp) = true)
    (ns : Fin 125000) : exec (.thermalClamp k temp ns) s =
      .next ((s.atNs ns).setClamp { s.mgt with thmClamp := true } (k.val + 256 * temp.toNat)) := by
  show Host.Outcome.next (if s.guarded && s.pointOn k && 840 ≤ temp.toInt && !s.mgt.thmClamp then
    (s.atNs ns).setClamp { (s.atNs ns).mgt with thmClamp := true } (k.val + 256 * temp.toNat) else s) = _
  rw [if_pos h, (s.atNs_keeps ns).2.2]

theorem powerClamp_effect (hg : s.bring.powered = true ∧ s.bring.tripped = false) {w : Nat} (hw : 3150 < w) (hc : s.mgt.pwrClamp = false)
    (ns : Fin 125000) : ∃ t, exec (.powerClamp w ns) s = .next t ∧
      t = (s.atNs ns).setClamp { s.mgt with pwrClamp := true } w ∧
      (s.jobs = [] ∧ (∀ p < 8, (s.partOf p).wl = []) → (t.rd F.MGT_PROT.clamp_act = 1 ∧
        t.rd F.MGT_PROT.clamp_cause = 1 + 2 * b2n s.mgt.thmClamp ∧ t.rd F.MGT_PROT.clamp_evt = 1) ∧ t.mgt.pwrClamp = true ∧
        t.mgt.thmClamp = s.mgt.thmClamp) := by
  refine ⟨_, exec_powerClamp (by simp [State.guarded_of hg, hw, hc]) ns, rfl, fun ⟨hj, hl⟩ => ?_⟩
  generalize ht : (s.atNs ns).setClamp _ _ = t
  obtain ⟨hact, hcause, hevt, hpwr, hthm⟩ := State.atNs_setClamp_effect hj hl ns { s.mgt with pwrClamp := true } w ht.symm
  exact ⟨⟨hact, hcause.trans (by cases s.mgt.thmClamp <;> rfl), hevt⟩, hpwr, hthm⟩

theorem thermalClamp_effect (hg : s.bring.powered = true ∧ s.bring.tripped = false) {k : Fin 210} (hk : s.pointOn k = true)
    {temp : BitVec 16} (ht : 840 ≤ temp.toInt) (hc : s.mgt.thmClamp = false)
    (ns : Fin 125000) : ∃ t, exec (.thermalClamp k temp ns) s = .next t ∧
      t = (s.atNs ns).setClamp { s.mgt with thmClamp := true } (k.val + 256 * temp.toNat) ∧
      (s.jobs = [] ∧ (∀ p < 8, (s.partOf p).wl = []) → (t.rd F.MGT_PROT.clamp_act = 1 ∧
        t.rd F.MGT_PROT.clamp_cause = b2n s.mgt.pwrClamp + 2 ∧ t.rd F.MGT_PROT.clamp_evt = 1) ∧ t.mgt.thmClamp = true ∧
        t.mgt.pwrClamp = s.mgt.pwrClamp) := by
  refine ⟨_, exec_thermalClamp (by simp [State.guarded_of hg, hk, ht, hc]) ns, rfl, fun ⟨hj, hl⟩ => ?_⟩
  generalize ht : (s.atNs ns).setClamp _ _ = t
  obtain ⟨hact, hcause, hevt, hpwr, hthm⟩ := State.atNs_setClamp_effect hj hl ns { s.mgt with thmClamp := true } (k.val + 256 * temp.toNat) ht.symm
  exact ⟨⟨hact.trans (by cases s.mgt.pwrClamp <;> rfl), hcause.trans (by cases s.mgt.pwrClamp <;> rfl), hevt⟩, hthm, hpwr⟩

theorem clampClear_nothing {power : Bool} {x : Int} (h : (if power then s.mgt.pwrClamp else s.mgt.thmClamp) = false ∨
    (if power then 2900 ≤ x else 800 < x)) : exec (.clampClear ⟨power, x⟩) s = .next s := by
  refine congrArg _ (if_pos ?_)
  cases power with
  | true => simpa using h
  | false => simpa using h

theorem clampClear_effect {power : Bool} {x : Int} (h : (if power then s.mgt.pwrClamp else s.mgt.thmClamp) = true)
    (hx : if power then x < 2900 else x ≤ 800) : ∃ t, exec (.clampClear ⟨power, x⟩) s = .next t ∧
      let other := if power then s.mgt.thmClamp else s.mgt.pwrClamp
      (if power then t.mgt.pwrClamp else t.mgt.thmClamp) = false ∧ (if power then t.mgt.thmClamp else t.mgt.pwrClamp) = other ∧
      t.mgt.justCleared = !other ∧ t.rd F.MGT_PROT.clamp_act = b2n other ∧
      t.rd F.MGT_PROT.clamp_cause = (if power then 2 else 1) * b2n other ∧
      Only s t [(F.MGT_PROT.clamp_act, 0), (F.MGT_PROT.clamp_cause, 0)] (·.withMgt t.mgt) := by
  have hshow : ∀ m : MgtState, RegsSame s (s.withMgt m).showClamp [(F.MGT_PROT.clamp_act, 0), (F.MGT_PROT.clamp_cause, 0)] := fun m =>
    regsSame_put (regsSame_put (regsSame_refl s _) (by simp) _) (by simp) _
  cases power with
  | true =>
    refine ⟨_, congrArg Host.Outcome.next (if_neg ?_), rfl, rfl, rfl, ?_, ?_, rfl, hshow _⟩
    · simpa using ⟨h, hx⟩
    · exact (State.rd_put_apart _ (by decide) _ _ _).trans ((State.rd_put_same _ _ _ _).trans (b2n_mod_two _))
    · refine (State.rd_put_same _ _ _ _).trans ?_
      show (0 + 2 * b2n s.mgt.thmClamp) % 4 = 2 * b2n s.mgt.thmClamp
      cases s.mgt.thmClamp <;> rfl
  | false =>
    refine ⟨_, congrArg Host.Outcome.next (if_neg ?_), rfl, rfl, ?_, ?_, ?_, rfl, hshow _⟩
    · simpa using ⟨h, hx⟩
    · exact congrArg (fun b => !b) (Bool.or_false _)
    · exact (State.rd_put_apart _ (by decide) _ _ _).trans ((State.rd_put_same _ _ _ _).trans
        ((b2n_mod_two _).trans (congrArg b2n (Bool.or_false _))))
    · refine (State.rd_put_same _ _ _ _).trans ?_
      show (b2n s.mgt.pwrClamp + 2 * 0) % 4 = 1 * b2n s.mgt.pwrClamp
      cases s.mgt.pwrClamp <;> rfl

end Sys2Proof.Machine

/-! SUPPORT. Trips (R500, R501, R505), converters and the 72 V input (R88, R514). -/

namespace Sys2Proof.Machine

open Sys2Proof.Safety

variable {s : State}

/-! ## A service event and the fault contact (R490) -/

theorem State.event_withs (s : State) (cls sev k data src : Nat) : ∃ r w q c o, s.event cls sev k data src =
    ((s.withRegs r).withMgt { s.mgt with window := w, norQueue := q, cairnQueue := c }).withOut o := by
  obtain ⟨w, q, c, hmgt⟩ := s.event_mgt cls sev k data src
  refine ⟨(s.event cls sev k data src).regs, w, q, c, (s.event cls sev k data src).out, ?_⟩
  rw [← hmgt]
  exact (event_only s cls sev k data src).1

theorem State.faultN_congr_fault {t : State} (hf : t.mgt.fault = s.mgt.fault)
    (hs : t.rd F.MGT_LOG_STAT.svc_evt = s.rd F.MGT_LOG_STAT.svc_evt) (hh : t.rd F.FW_GSTAT.held = s.rd F.FW_GSTAT.held) :
    t.faultN = s.faultN := by rw [State.faultN, State.faultN, State.on, State.on, hf, hs, hh]

theorem State.showFault_out (s o : State) : (s.showFault o).out =
    if s.faultN = o.faultN then s.out else .pinOut 0 (if s.faultN then 0 else 1) :: s.out := by
  rw [State.showFault]
  split <;> rfl

/-- The contact follows a service record. -/
theorem State.writeRec_out {r : EvRec} (hr : r.sev = 0) (s : State) :
    (s.writeRec r).out = if s.faultN then s.out else .pinOut 0 0 :: s.out := by
  unfold State.writeRec
  extract_lets r' m u v w x
  have hx : x.faultN = s.faultN := State.faultN_congr_fault rfl
    ((State.rd_put_apart _ (by decide) _ _ _).trans (State.rd_put_apart _ (by decide) _ _ _))
    ((State.rd_put_apart _ (by decide) _ _ _).trans (State.rd_put_apart _ (by decide) _ _ _))
  have hsvc : (x.put F.MGT_LOG_STAT.svc_evt 1).faultN = true := by
    have hon : (x.put F.MGT_LOG_STAT.svc_evt 1).on F.MGT_LOG_STAT.svc_evt = true := by
      rw [State.on, State.rd_put_same]
      rfl
    rw [State.faultN, hon, Bool.or_true, Bool.true_or]
  rw [if_pos (show r'.sev = 0 from hr), State.showFault_out, hx, hsvc]
  cases s.faultN <;> rfl

theorem State.service_out (s : State) (cls k data src : Nat) : (s.service cls k data src).out =
    if s.procUp cairn && !s.faultN then .pinOut 0 0 :: s.out else s.out := by
  unfold State.service State.event
  extract_lets r
  by_cases hup : s.procUp cairn = true
  · rw [if_pos hup, State.writeRec_out rfl, hup]
    cases s.faultN <;> rfl
  · rw [if_neg hup, eq_false_of_ne_true hup]
    split <;> rfl

/-! ## A trip -/

/-- What is left when PD00–PD48 lose their power, but for the register map. -/
def State.powerDropped (s : State) : State :=
  { State.reset with
    pending := s.pending, hostMem := s.hostMem, hostBad := s.hostBad, time := s.time, procs := s.procs, sec := s.sec
    mgt := { s.mgt with pwrClamp := false, thmClamp := false, justCleared := false, halfTicks := 0 }, keys := s.keys
    sramUe := s.sramUe, free := s.free, out := s.out, planHdr := s.planHdr
    bring := { s.bring with tripped := true, clPhase := [], rstSince := [], unitRst := [], downDomains := [] } }

theorem State.foldl_put_frame {f : Field} {v : Nat} {i : Nat → Nat} (l : List Nat) (s : State) :
    ∃ r, l.foldl (fun u p => u.put f v (i p)) s = s.withRegs r :=
  foldl_keep (P := fun u : State => ∃ r, u = s.withRegs r) (fun u p ⟨r, h⟩ => ⟨(u.put f v (i p)).regs, by rw [h]; rfl⟩) l ⟨s.regs, rfl⟩

theorem State.putAll_frame (s : State) (f : Field) (v : Nat) (is : List Nat) : ∃ r, s.putAll f v is = s.withRegs r :=
  State.foldl_put_frame (i := id) is s

theorem State.dropPower_frame (s : State) : ∃ r, s.dropPower = s.powerDropped.withRegs r := by
  unfold State.dropPower
  extract_lets keep z b m r r1 r2 r3
  obtain ⟨m2, h2⟩ : ∃ m, r2 = r1.withRegs m := State.foldl_put_frame (i := pc) _ _
  obtain ⟨m4, h4⟩ := r2.putAll_frame F.RST_PART_STAT.rst_state 0 (span 0 8)
  obtain ⟨m3, h3⟩ : ∃ m, r3 = (r2.putAll F.RST_PART_STAT.rst_state 0 (span 0 8)).withRegs m := State.putAll_frame _ _ _ _
  rw [h3, h4, h2]
  exact ⟨_, rfl⟩

theorem State.dropPower_shown (s : State) : s.dropPower.rd F.RST_PD_STAT.pd_on = 2 ^ 49 ∧ s.dropPower.rd F.RST_STAT.ready = 0 := by
  unfold State.dropPower
  extract_lets keep z b m r r1 r2 r3
  have hr1 : r1.rd F.RST_PD_STAT.pd_on = 2 ^ 49 := by
    simp (disch := decide) only [r1, State.showClamp, State.rd_put_apart, State.rd_put_same]
    rfl
  have hr2 : r2.rd F.RST_PD_STAT.pd_on = 2 ^ 49 :=
    foldl_keep (P := fun u : State => u.rd F.RST_PD_STAT.pd_on = 2 ^ 49) (g := fun u p => u.put F.FW_PROC_STAT.pstate 3 (pc p))
      (fun _ _ h => (State.rd_put_apart _ (by decide) _ _ _).trans h) (span 0 s.nPart) hr1
  refine ⟨?_, State.rd_put_same _ _ _ _⟩
  rw [State.rd_put_apart _ (by decide),
    State.rd_putAll_clear _ (by decide) (Field.has_zero (by decide) (by decide))
      (fun i hi => Field.has_of_lt (show i < 32 by simpa [span] using hi) (by decide) (by decide)),
    State.rd_putAll_clear _ (by decide) (Field.has_zero (by decide) (by decide))
      (fun i hi => Field.has_of_lt (show i < 8 by simpa [span] using hi) (by decide) (by decide)), hr2]

/-- The state of a trip before the contacts are driven. -/
def State.tripShown (s : State) (cause point : Nat) : State :=
  let u := (s.dropPower.dirty.put F.MGT_PROT.trip_cause cause).put F.MGT_PROT.trip_point point
  u.withMgt { u.mgt with fault := true, pwrgd := false }

theorem State.tripShown_frame (s : State) (cause point : Nat) : ∃ r, s.tripShown cause point =
    (s.powerDropped.dirty.withMgt { s.powerDropped.mgt with fault := true, pwrgd := false }).withRegs r := by
  obtain ⟨r, hr⟩ := s.dropPower_frame
  unfold State.tripShown
  rw [hr]
  exact ⟨_, rfl⟩

theorem State.tripShown_rd (s : State) {cause point : Nat} (hc : cause < 8) (hp : point < 256) : let t := s.tripShown cause point
    t.rd F.MGT_PROT.trip_cause = cause ∧ t.rd F.MGT_PROT.trip_point = point ∧ t.rd F.RST_PD_STAT.pd_on = 2 ^ 49 ∧
      t.rd F.RST_STAT.ready = 0 := by
  obtain ⟨hon, hready⟩ := s.dropPower_shown
  refine ⟨?_, ?_, ?_, ?_⟩ <;>
    simp (disch := decide) only [State.tripShown, State.rd_withMgt, State.rd_put_apart, State.rd_put_same, State.rd_dirty, hon, hready]
  · exact Nat.mod_eq_of_lt hc
  · exact Nat.mod_eq_of_lt hp

@[simp] theorem State.faultN_withOut (s : State) (v : List Out) : (s.withOut v).faultN = s.faultN := rfl

@[simp] theorem State.rd_showFault (s o : State) (g : Field) (j : Nat) : (s.showFault o).rd g j = s.rd g j := by
  rw [showFault_eq, State.rd_withOut]

/-- Both contacts are driven, and the trip is recorded. -/
def State.driveContacts (u o : State) (data : Nat) : State := ((u.showFault o).emit (.pinOut 1 0)).service 9 Ev.trip data

theorem State.driveContacts_out {u : State} (h : u.mgt.fault = true) (o : State) (data : Nat) :
    (u.driveContacts o data).out = .pinOut 1 0 :: (if o.faultN then u.out else .pinOut 0 0 :: u.out) := by
  have hfault : u.faultN = true := by rw [State.faultN, h, Bool.true_or, Bool.true_or]
  have hshown : (u.showFault o).out = if o.faultN then u.out else .pinOut 0 0 :: u.out := by
    rw [State.showFault_out, hfault]
    cases o.faultN <;> rfl
  have hstay : ((u.showFault o).emit (.pinOut 1 0)).faultN = true := by
    rw [State.emit, State.faultN_withOut, showFault_eq, State.faultN_withOut, hfault]
  rw [State.driveContacts, State.service_out, hstay, Bool.not_true, Bool.and_false, if_neg Bool.false_ne_true, ← hshown]
  rfl

theorem State.driveContacts_rd (u o : State) (data : Nat) {g : Field} (hg : g.offEvents = true) (j : Nat) :
    (u.driveContacts o data).rd g j = u.rd g j := by
  rw [State.driveContacts, State.service, State.rd_event _ _ _ _ _ _ hg, State.emit, State.rd_withOut, State.rd_showFault]

theorem State.driveContacts_frame (u o : State) (data : Nat) : ∃ r w q c v, u.driveContacts o data =
    ((u.withRegs r).withMgt { u.mgt with window := w, norQueue := q, cairnQueue := c }).withOut v := by
  obtain ⟨x, hx⟩ : ∃ x, (u.showFault o).emit (.pinOut 1 0) = u.withOut x := by
    rw [showFault_eq]
    exact ⟨_, rfl⟩
  obtain ⟨r, w, q, c, v, ht⟩ := (u.withOut x).event_withs 9 0 Ev.trip data 0
  refine ⟨r, w, q, c, v, ?_⟩
  rw [State.driveContacts, hx]
  exact ht

/-- What a trip of cause `cause` at point `point` leaves of `s` (R500, R501, R505). -/
def Tripped (s t : State) (cause point : Nat) : Prop :=
  t.bring.tripped = true ∧ t.rd F.MGT_PROT.trip_cause = cause ∧ t.rd F.MGT_PROT.trip_point = point ∧
    t.rd F.RST_PD_STAT.pd_on = 2 ^ 49 ∧ t.rd F.RST_STAT.ready = 0 ∧ t.mgt.fault = true ∧ t.mgt.pwrgd = false ∧
    t.mgt.pwrClamp = false ∧ t.mgt.thmClamp = false ∧ t.out = .pinOut 1 0 :: (if s.faultN then s.out else .pinOut 0 0 :: s.out) ∧
    t.mem = [] ∧ t.cells = [] ∧ t.seqs = [] ∧ t.threads = [] ∧ t.rings = [] ∧ t.hostMem = s.hostMem ∧ t.mgt.nor = s.mgt.nor ∧
    t.bring.token = s.bring.token.map (fun x => { x with clean := false })

theorem State.trip_effect (s : State) {cause point : Nat} (hc : cause < 8) (hp : point < 256) :
    Tripped s (s.trip cause point) cause point := by
  obtain ⟨hcause, hpoint, hon, hready⟩ := s.tripShown_rd hc hp
  obtain ⟨r, hr⟩ := s.tripShown_frame cause point
  have heq : s.trip cause point = (s.tripShown cause point).driveContacts s (cause + 256 * point) := rfl
  generalize s.tripShown cause point = u at *
  have hout : (u.driveContacts s (cause + 256 * point)).out = _ := State.driveContacts_out (by rw [hr]; rfl) s _
  have hrd : ∀ g : Field, g.offEvents = true → ∀ j, (u.driveContacts s (cause + 256 * point)).rd g j = u.rd g j :=
    fun _ => u.driveContacts_rd s _
  obtain ⟨r', w, q, c, v, hframe⟩ := u.driveContacts_frame s (cause + 256 * point)
  have huout : u.out = s.out := by
    rw [hr]
    rfl
  rw [huout] at hout
  generalize u.driveContacts s (cause + 256 * point) = t at *
  rw [heq]
  refine ⟨?_, (hrd _ (by decide) 0).trans hcause, (hrd _ (by decide) 0).trans hpoint, (hrd _ (by decide) 0).trans hon,
    (hrd _ (by decide) 0).trans hready, ?_, ?_, ?_, ?_, hout, ?_⟩
  all_goals rw [hframe, hr]
  · rfl
  · rfl
  · rfl
  · rfl
  · rfl
  · exact ⟨rfl, rfl, rfl, rfl, rfl, rfl, rfl, rfl⟩

/-! ## Commands that trip -/

section
variable (hg : s.bring.powered = true ∧ s.bring.tripped = false)
include hg

theorem thermalTrip_effect {k : Fin 210} (hk : s.pointOn k = true) {temp : BitVec 16} (ht : 920 ≤ temp.toInt) :
    ∃ t, exec (.thermalTrip k temp) s = .next t ∧ Tripped s t 1 k :=
  ⟨_, congrArg Host.Outcome.next (if_pos (by simp [State.guarded_of hg, hk, ht])), s.trip_effect (by decide) (by omega)⟩

theorem inputOvercurrentTrip_effect {ma : Nat} (h : 60000 < ma) : ∃ t, exec (.inputOvercurrentTrip ma) s = .next t ∧ Tripped s t 2 255 :=
  ⟨_, congrArg Host.Outcome.next (if_pos (by simp [State.guarded_of hg, h])), s.trip_effect (by decide) (by decide)⟩

theorem domainOvercurrentTrip_effect {d : Fin 50} (hd : s.domainOn d = true) {ma : Nat} (h : tripMa d < ma) :
    ∃ t, exec (.domainOvercurrentTrip d ma) s = .next t ∧ Tripped s t 3 d :=
  ⟨_, congrArg Host.Outcome.next (if_pos (by simp [State.guarded_of hg, hd, h])), s.trip_effect (by decide) (by omega)⟩

end

theorem thermalTrip_nothing {k : Fin 210} {temp : BitVec 16} (h : ¬ (s.bring.powered = true ∧ s.bring.tripped = false) ∨
    s.pointOn k = false ∨ temp.toInt < 920) : exec (.thermalTrip k temp) s = .next s := by
  refine congrArg _ (if_neg ?_)
  rcases h with h | h | h
  · simp [State.guarded_eq_false h]
  · simp [h]
  · simp [Int.not_le.2 h]

theorem inputOvercurrentTrip_nothing {ma : Nat} (h : ¬ (s.bring.powered = true ∧ s.bring.tripped = false) ∨ ma ≤ 60000) :
    exec (.inputOvercurrentTrip ma) s = .next s := by
  refine congrArg _ (if_neg ?_)
  rcases h with h | h
  · simp [State.guarded_eq_false h]
  · simp [Nat.not_lt.2 h]

theorem domainOvercurrentTrip_nothing {d : Fin 50} {ma : Nat} (h : ¬ (s.bring.powered = true ∧ s.bring.tripped = false) ∨
    s.domainOn d = false ∨ ma ≤ tripMa d) : exec (.domainOvercurrentTrip d ma) s = .next s := by
  refine congrArg _ (if_neg ?_)
  rcases h with h | h | h
  · simp [State.guarded_eq_false h]
  · simp [h]
  · simp [Nat.not_lt.2 h]

/-! ## Converters -/

theorem converterFault_nothing {c : Fin 4} (h : ¬ (s.bring.powered = true ∧ s.bring.tripped = false) ∨
    bit (s.rd F.MGT_PROT.conv_fault) c = true) : exec (.converterFault c) s = .next s := by
  refine congrArg _ (if_pos ?_)
  rcases h with h | h
  · simp [State.guarded_eq_false h]
  · simp [h]

/-- The effective limit while a converter is lost (R500). -/
theorem State.effLimit_lost (h : s.on F.MGT_PROT.conv_fault = true) : let u := s.effLimit
    u.rd F.MGT_LIM.p_lim = min (s.rd F.MGT_LIM.p_lim) 2400 ∧ u.rd F.MGT_PROT.p_eff_w = min (s.rd F.MGT_LIM.p_lim) 2400 ∧
      OnlyRegs s u [(F.MGT_LIM.p_lim, 0), (F.MGT_PROT.p_eff_w, 0)] := by
  have hlt : min (s.rd F.MGT_LIM.p_lim) 2400 % 2 ^ 12 = min (s.rd F.MGT_LIM.p_lim) 2400 :=
    Nat.mod_eq_of_lt (lt_of_le_of_lt (min_le_right _ _) (by decide))
  unfold State.effLimit
  rw [if_pos h]
  refine ⟨?_, ?_, rfl, regsSame_put (regsSame_put (regsSame_refl s _) (by simp) _) (by simp) _⟩
  · rw [State.rd_put_apart _ (by decide), State.rd_put_same]
    exact hlt
  · rw [State.rd_put_same, State.rd_put_same]
    exact (congrArg (· % 2 ^ 12) hlt).trans hlt

/-- The state of a converter that is lost, before its event. -/
def State.lostConverter (s : State) (c : Nat) : State := (s.put F.MGT_PROT.conv_fault (s.rd F.MGT_PROT.conv_fault + 2 ^ c)).effLimit

theorem State.lostConverter_effect (h : s.rd F.MGT_PROT.conv_fault = 0) (c : Fin 4) :
    (s.lostConverter c).rd F.MGT_PROT.conv_fault = 2 ^ c.val ∧ (s.lostConverter c).rd F.MGT_LIM.p_lim = min (s.rd F.MGT_LIM.p_lim) 2400 ∧
      (s.lostConverter c).rd F.MGT_PROT.p_eff_w = min (s.rd F.MGT_LIM.p_lim) 2400 ∧
      OnlyRegs s (s.lostConverter c) [(F.MGT_PROT.conv_fault, 0), (F.MGT_LIM.p_lim, 0), (F.MGT_PROT.p_eff_w, 0)] := by
  have hbit : 2 ^ c.val % 2 ^ 4 = 2 ^ c.val ∧ (2 ^ c.val != 0) = true := by
    revert c
    decide
  have hset : (s.put F.MGT_PROT.conv_fault (s.rd F.MGT_PROT.conv_fault + 2 ^ c.val)).rd F.MGT_PROT.conv_fault = 2 ^ c.val := by
    rw [State.rd_put_same, h, Nat.zero_add]
    exact hbit.1
  obtain ⟨hlim, heff, hframe, hsame⟩ :=
    State.effLimit_lost (s := s.put F.MGT_PROT.conv_fault (s.rd F.MGT_PROT.conv_fault + 2 ^ c.val)) (by rw [State.on, hset, hbit.2])
  rw [State.rd_put_apart _ (by decide)] at hlim heff
  refine ⟨(hsame _ _ ?_).trans hset, hlim, heff, hframe, ?_⟩
  · simp only [List.forall_mem_cons, List.not_mem_nil, false_implies, implies_true, and_true]
    exact ⟨Field.key_ne_of_apart (by decide) _ _, Field.key_ne_of_apart (by decide) _ _⟩
  · exact regsSame_trans (regsSame_put (regsSame_refl s _) (by simp) _) (regsSame_mono hsame (by simp))

theorem converterFault_first (hg : s.bring.powered = true ∧ s.bring.tripped = false) (h : s.rd F.MGT_PROT.conv_fault = 0) (c : Fin 4) :
    ∃ t, exec (.converterFault c) s = .next t ∧
      t.rd F.MGT_PROT.conv_fault = 2 ^ c.val ∧ t.rd F.MGT_LIM.p_lim = min (s.rd F.MGT_LIM.p_lim) 2400 ∧
      t.rd F.MGT_PROT.p_eff_w = min (s.rd F.MGT_LIM.p_lim) 2400 ∧ t.bring = s.bring ∧ t.cells = s.cells ∧
      t.out = if s.procUp cairn && !s.faultN then .pinOut 0 0 :: s.out else s.out := by
  have hexec : exec (.converterFault c) s = .next ((s.lostConverter c).service 9 Ev.converter c) :=
    congrArg Host.Outcome.next ((if_neg (by simp [State.guarded_of hg, h, bit])).trans (if_pos h))
  obtain ⟨hset, hlim, heff, hframe, hsame⟩ := State.lostConverter_effect h c
  have hup : (s.lostConverter c).procUp cairn = s.procUp cairn := by
    rw [State.procUp, State.procUp, hsame F.FW_PROC_STAT.pstate cairn (by decide), hframe]
    rfl
  have hfault : (s.lostConverter c).faultN = s.faultN := State.faultN_congr_fault (by rw [hframe]; rfl)
    (hsame _ _ (by decide)) (hsame _ _ (by decide))
  obtain ⟨r, w, q, k, v, hevent⟩ := (s.lostConverter c).event_withs 9 0 Ev.converter c 0
  refine ⟨_, hexec, ?_, ?_, ?_, ?_, ?_, ?_⟩
  · rw [State.service, State.rd_event _ _ _ _ _ _ (by decide), hset]
  · rw [State.service, State.rd_event _ _ _ _ _ _ (by decide), hlim]
  · rw [State.service, State.rd_event _ _ _ _ _ _ (by decide), heff]
  · rw [State.service, hevent, hframe]
    rfl
  · rw [State.service, hevent, hframe]
    rfl
  · rw [State.service_out, hup, hfault, hframe]
    rfl

theorem converterFault_second (hg : s.bring.powered = true ∧ s.bring.tripped = false) (h : s.rd F.MGT_PROT.conv_fault ≠ 0) {c : Fin 4}
    (hc : bit (s.rd F.MGT_PROT.conv_fault) c = false) : ∃ t, exec (.converterFault c) s = .next t ∧ Tripped s t 3 255 := by
  have hexec : exec (.converterFault c) s =
      .next ((s.put F.MGT_PROT.conv_fault (s.rd F.MGT_PROT.conv_fault + 2 ^ c.val)).trip 3 255) :=
    congrArg Host.Outcome.next ((if_neg (by simp [State.guarded_of hg, hc])).trans (if_neg h))
  refine ⟨_, hexec, ?_⟩
  have htrip := (s.put F.MGT_PROT.conv_fault (s.rd F.MGT_PROT.conv_fault + 2 ^ c.val)).trip_effect (cause := 3) (point := 255)
    (by decide) (by decide)
  have hfault : (s.put F.MGT_PROT.conv_fault (s.rd F.MGT_PROT.conv_fault + 2 ^ c.val)).faultN = s.faultN :=
    State.faultN_congr_fault rfl (State.rd_put_apart _ (by decide) _ _ _) (State.rd_put_apart _ (by decide) _ _ _)
  rw [Tripped, hfault] at htrip
  exact htrip

/-! ## The input (R88, R514) -/

theorem State.powerOff_effect (s : State) : s.powerOff.bring.powered = false ∧ s.powerOff.regs = regsReset ∧ s.powerOff.mem = [] ∧
    s.powerOff.keys = [] ∧ s.powerOff.cells = [] ∧ s.powerOff.bring.images = s.bring.images ∧ s.powerOff.mgt.nor = s.mgt.nor ∧
    s.powerOff.hostMem = s.hostMem ∧ s.powerOff.bring.token = none ∧
    s.powerOff.out = if s.mgt.pwrgd then .pinOut 1 0 :: s.out else s.out := by
  unfold State.powerOff
  extract_lets
  split
  · exact ⟨rfl, rfl, rfl, rfl, rfl, rfl, rfl, rfl, rfl, rfl⟩
  · exact ⟨rfl, rfl, rfl, rfl, rfl, rfl, rfl, rfl, rfl, rfl⟩

theorem underVoltage_effect {v : Nat} (hp : s.bring.powered = true) (hv : v < 55000) : exec (.underVoltage v) s = .next s.powerOff :=
  congrArg Host.Outcome.next (if_pos (by simp [hp, hv]))

theorem underVoltage_nothing {v : Nat} (h : s.bring.powered = false ∨ 55000 ≤ v) : exec (.underVoltage v) s = .next s := by
  refine congrArg _ (if_neg ?_)
  rcases h with h | h
  · simp [h]
  · simp [Nat.not_lt.2 h]

theorem overVoltage_effect {v : Nat} (hp : s.bring.powered = true) (hv : 84000 < v) : exec (.overVoltage v) s = .next s.powerOff :=
  congrArg Host.Outcome.next (if_pos (by simp [hp, hv]))

theorem overVoltage_nothing {v : Nat} (h : s.bring.powered = false ∨ v ≤ 84000) : exec (.overVoltage v) s = .next s := by
  refine congrArg _ (if_neg ?_)
  rcases h with h | h
  · simp [h]
  · simp [Nat.not_lt.2 h]

end Sys2Proof.Machine

open Sys2Proof Sys2Proof.Machine Sys2Proof.Safety in
/-- Settles O55: every trip goes through `State.trip_effect`, every clamp through `State.setClamp_effect`, and the points of a
sample are taken one by one. -/
theorem sensorsClampsTripsAndTheInput : Obligations.SensorsClampsTripsAndTheInput := by
  unfold Obligations.SensorsClampsTripsAndTheInput
  intro s temps k temp d c ns v vin iin w ma mv x ok power
  exact ⟨fun h => ⟨sensorSample_nothing h _ _ _ _, eventLogNorWrite_nothing (.inl h) ok⟩, fun h => sensorSample_effect h k,
    fun _ hq => eventLogNorWrite_nothing (.inr hq) ok, fun h hq => eventLogNorWrite_effect h hq ok,
    fun h => powerClamp_nothing h ns, fun hg hw hc => powerClamp_effect hg hw hc ns,
    fun h => thermalClamp_nothing h ns, fun hg hk ht hc => thermalClamp_effect hg hk ht hc ns,
    clampClear_nothing, clampClear_effect, fun hg hk ht => thermalTrip_effect hg hk ht, thermalTrip_nothing, fun hg h => inputOvercurrentTrip_effect hg h,
    inputOvercurrentTrip_nothing, fun hg hd h => domainOvercurrentTrip_effect hg hd h, domainOvercurrentTrip_nothing, converterFault_nothing,
    fun hg h => converterFault_first hg h c, fun hg h hc => converterFault_second hg h hc,
    fun hp hv => ⟨_, underVoltage_effect hp hv, s.powerOff_effect⟩, underVoltage_nothing,
    fun hp hv => ⟨_, overVoltage_effect hp hv, s.powerOff_effect⟩, overVoltage_nothing⟩

/-! SUPPORT. What an operation writes: every element of the register map clear of a list of fields reads as before. -/

namespace Sys2Proof.Machine

open Sys2Proof.Safety

/-- Of the register map `t` differs from `s` at most in the fields `L` and in what is not clear of them. -/
def Writes (L : List Field) (s t : State) : Prop :=
  ∀ (g : Field) (j : Nat), g.Has j → (∀ f ∈ L, g.clear f = true) → t.rd g j = s.rd g j

section
variable {L M : List Field} {s t u : State}

theorem Writes.refl (L : List Field) (s : State) : Writes L s s := fun _ _ _ _ => rfl

theorem Writes.of_regs (L : List Field) (h : t.regs = s.regs) : Writes L s t := fun g j _ _ => State.rd_congr h g j

theorem Writes.trans (h : Writes L s t) (k : Writes L t u) : Writes L s u := fun g j hg hc => (k g j hg hc).trans (h g j hg hc)

theorem Writes.mono (h : Writes L s t) (hs : ∀ f ∈ L, f ∈ M) : Writes M s t := fun g j hg hc => h g j hg fun f hf => hc f (hs f hf)

theorem Writes.congr (h : Writes L s t) (e : u.regs = t.regs) : Writes L s u := h.trans (.of_regs L e)

theorem Writes.put (h : Writes L s t) {f : Field} (hf : f ∈ L) {i : Nat} (hi : f.Has i) (v : Nat) : Writes L s (t.put f v i) :=
  fun g j hg hc => (t.rd_put_clear (hc f hf) hg hi v).trans (h g j hg hc)

theorem Writes.bump (h : Writes L s t) {f : Field} (hf : f ∈ L) {i : Nat} (hi : f.Has i) (k : Nat) : Writes L s (t.bump f i k) :=
  h.put hf hi _

theorem Writes.ite {c : Prop} [Decidable c] (h : Writes L s t) (k : Writes L s u) : Writes L s (if c then t else u) := by
  split
  · exact h
  · exact k

theorem Writes.foldl {α : Type} {g : State → α → State} (l : List α) (h : Writes L s t)
    (hg : ∀ b, ∀ a ∈ l, Writes L s b → Writes L s (g b a)) : Writes L s (l.foldl g t) :=
  List.foldlRecOn l g h fun b hb a ha => hg b a ha hb

theorem Writes.putAll (h : Writes L s t) {f : Field} (hf : f ∈ L) {is : List Nat} (hi : ∀ i ∈ is, f.Has i) (v : Nat) :
    Writes L s (t.putAll f v is) := h.foldl is fun _ i hm hb => hb.put hf (hi i hm) v

/-- The fields of the event log. -/
def logFields : List Field := [F.MGT_LOG_STAT.evt_count, F.MGT_LOG_STAT.evt_seq, F.MGT_LOG_STAT.svc_evt, F.FW_GSTAT.log_lost]

theorem Writes.event (h : Writes L s t) (hL : ∀ f ∈ logFields, f ∈ L) (cls sev k data src : Nat) :
    Writes L s (t.event cls sev k data src) := by
  refine h.trans fun g j hg hc => (event_only t cls sev k data src).2 g j ?_
  have hone : ∀ f ∈ logFields, f.Has 0 := by
    simp only [logFields, List.forall_mem_cons, List.not_mem_nil, false_implies, implies_true, and_true]
    exact ⟨Field.has_zero (by decide) rfl, Field.has_zero (by decide) rfl, Field.has_zero (by decide) rfl, Field.has_zero (by decide) rfl⟩
  have hkey : ∀ f ∈ logFields, g.key j ≠ f.key 0 := fun f hf => Field.key_ne_of_clear (hc f (hL f hf)) hg (hone f hf)
  simpa [eventFields, logFields] using hkey

end

/-- After a fold over a list that holds `k`, what the step of `k` sets up and the other steps keep. -/
theorem foldl_visit {α β : Type} {J P : β → Prop} {g : β → α → β} {l : List α} {k : α} (hk : k ∈ l) {b : β} (hJ : J b)
    (hinv : ∀ b, ∀ i ∈ l, J b → J (g b i)) (hset : ∀ b, J b → P (g b k)) (hkeep : ∀ b, ∀ i ∈ l, i ≠ k → J b → P b → P (g b i)) :
    P (l.foldl g b) := by
  classical
  induction l generalizing b with
  | nil => exact absurd hk (List.not_mem_nil)
  | cons x l ih =>
    have hJx : J (g b x) := hinv b x List.mem_cons_self hJ
    have hinv' : ∀ b, ∀ i ∈ l, J b → J (g b i) := fun b i hi => hinv b i (List.mem_cons_of_mem x hi)
    have hkeep' : ∀ b, ∀ i ∈ l, i ≠ k → J b → P b → P (g b i) := fun b i hi => hkeep b i (List.mem_cons_of_mem x hi)
    by_cases hkl : k ∈ l
    · exact ih hkl hJx hinv' hkeep'
    · have hx : k = x := (List.mem_cons.1 hk).resolve_right hkl
      refine (List.foldlRecOn (motive := fun b => J b ∧ P b) l g ⟨hJx, hx ▸ hset b hJ⟩ fun b hb i hi => ?_).2
      exact ⟨hinv' b i hi hb.1, hkeep' b i hi (fun e => hkl (e ▸ hi)) hb.1 hb.2⟩

theorem mem_span {a n i : Nat} : i ∈ span a n ↔ a ≤ i ∧ i < a + n := by
  simp only [span, List.mem_map, List.mem_range]
  constructor
  · rintro ⟨x, hx, rfl⟩
    omega
  · rintro ⟨h1, h2⟩
    exact ⟨i - a, by omega, by omega⟩

end Sys2Proof.Machine

/-! SUPPORT. The maps of start-up (R22, R23, R441): logical names over healthy slots, and what the rest of step 6 leaves alone. -/

namespace Sys2Proof.Machine

open Sys2Proof.Safety

variable {s t : State}

/-! ## Fields of a core, a Spur core and a cluster have an element for each -/

theorem Field.has_below {f : Field} {n i : Nat} (h : (f.count == n && f.stride != 0 && f.per == 0) = true) (hi : i < n) : f.Has i := by
  simp only [Bool.and_eq_true, beq_iff_eq, bne_iff_ne] at h
  obtain ⟨⟨hcount, hstride⟩, hper⟩ := h
  exact Field.has_of_lt (hcount ▸ hi) hstride hper

/-! ## The core map -/

/-- Healthy slots of a cluster. -/
def State.goodSlots (s : State) (cl : Nat) : List Nat := (List.range 5).filter fun k => !(s.physOf (slotKey cl k)).bad

/-- One logical core: behind a slot, or absent. -/
def State.nameCore (s : State) (n fenced : Nat) (slot : Option Nat) : State :=
  match slot with
  | some x => ((s.put F.MSF_MAP.phys_slot x n).put F.MSF_MAP.absent 0 n).put F.MSF_STAT.fenced fenced n
  | none => (s.put F.MSF_MAP.absent 1 n).put F.MSF_STAT.fenced 1 n

/-- The fields of the core map. -/
def coreMapFields : List Field := [F.MSF_MAP.phys_slot, F.MSF_MAP.absent, F.MSF_STAT.fenced]

theorem State.nameCore_index (s : State) {n m fenced : Nat} (h : n ≠ m) (slot : Option Nat) {g : Field} (hg : g ∈ coreMapFields) :
    (s.nameCore n fenced slot).rd g m = s.rd g m := by
  simp only [coreMapFields, List.mem_cons, List.not_mem_nil, or_false] at hg
  rcases hg with rfl | rfl | rfl <;> cases slot <;>
    simp (disch := first | decide | exact h) only [State.nameCore, State.rd_put_apart, State.rd_put_index]

theorem State.nameCore_some (s : State) {n fenced x : Nat} (hf : fenced < 2) (hx : x < 5) : let t := s.nameCore n fenced (some x)
    t.rd F.MSF_MAP.phys_slot n = x ∧ t.rd F.MSF_MAP.absent n = 0 ∧ t.rd F.MSF_STAT.fenced n = fenced := by
  refine ⟨?_, ?_, ?_⟩ <;> simp (disch := decide) only [State.nameCore, State.rd_put_apart, State.rd_put_same]
  · exact Nat.mod_eq_of_lt (by show x < 8; omega)
  · rfl
  · exact Nat.mod_eq_of_lt hf

theorem State.nameCore_none (s : State) (n fenced : Nat) : let t := s.nameCore n fenced none
    t.rd F.MSF_MAP.absent n = 1 ∧ t.rd F.MSF_STAT.fenced n = 1 := by
  refine ⟨?_, ?_⟩ <;> simp (disch := decide) only [State.nameCore, State.rd_put_apart, State.rd_put_same] <;> rfl

theorem nameCore_writes {L : List Field} (h : Writes L s t) (hL : ∀ f ∈ coreMapFields, f ∈ L) {n : Nat} (hn : n < 128) (fenced : Nat)
    (slot : Option Nat) : Writes L s (t.nameCore n fenced slot) := by
  simp only [coreMapFields, List.forall_mem_cons] at hL
  obtain ⟨hslot, habs, hfen, -⟩ := hL
  cases slot with
  | some x => exact ((h.put hslot (Field.has_below rfl hn) _).put habs (Field.has_below rfl hn) _).put hfen (Field.has_below rfl hn) _
  | none => exact (h.put habs (Field.has_below rfl hn) _).put hfen (Field.has_below rfl hn) _

/-- The slots of a cluster as the map leaves them. -/
def State.mapSlots (s : State) (cl : Nat) (good : List Nat) : State :=
  (List.range 5).foldl (fun s k =>
    s.setPhys (slotKey cl k) { s.physOf (slotKey cl k) with spare := (good.drop 4).contains k, fenced := false, cause := 0 }) s

/-- The names of a cluster. -/
def State.nameCores (s : State) (cl fenced : Nat) (good : List Nat) : State :=
  (span 0 4).foldl (fun s k => s.nameCore (4 * cl + k) fenced good[k]?) s

theorem State.mapCores_eq (s : State) (cl fenced : Nat) : s.mapCores cl fenced =
    ((((s.mapSlots cl (s.goodSlots cl)).nameCores cl fenced (s.goodSlots cl)).put F.RST_CL_STAT.spare_cores ((s.goodSlots cl).length - 4) cl).put
      F.RST_CL_STAT.absent_cores (4 - (s.goodSlots cl).length) cl) := rfl

theorem State.nameCores_some (s : State) {cl fenced k x : Nat} {good : List Nat} (hk : k < 4) (hf : fenced < 2) (hx : good[k]? = some x)
    (h5 : x < 5) : let t := s.nameCores cl fenced good
    t.rd F.MSF_MAP.phys_slot (4 * cl + k) = x ∧ t.rd F.MSF_MAP.absent (4 * cl + k) = 0 ∧ t.rd F.MSF_STAT.fenced (4 * cl + k) = fenced := by
  refine foldl_visit (J := fun _ => True) (P := fun t : State => t.rd F.MSF_MAP.phys_slot (4 * cl + k) = x ∧
    t.rd F.MSF_MAP.absent (4 * cl + k) = 0 ∧ t.rd F.MSF_STAT.fenced (4 * cl + k) = fenced) (mem_span_zero hk) trivial
    (fun _ _ _ _ => trivial) (fun b _ => ?_) (fun b i _ hi _ hb => ?_)
  · rw [hx]
    exact b.nameCore_some hf h5
  · rw [b.nameCore_index (by omega) _ (by simp [coreMapFields]), b.nameCore_index (by omega) _ (by simp [coreMapFields]),
      b.nameCore_index (by omega) _ (by simp [coreMapFields])]
    exact hb

theorem State.nameCores_none (s : State) {cl k : Nat} (fenced : Nat) {good : List Nat} (hk : k < 4) (hx : good[k]? = none) :
    let t := s.nameCores cl fenced good
    t.rd F.MSF_MAP.absent (4 * cl + k) = 1 ∧ t.rd F.MSF_STAT.fenced (4 * cl + k) = 1 := by
  refine foldl_visit (J := fun _ => True) (P := fun t : State => t.rd F.MSF_MAP.absent (4 * cl + k) = 1 ∧
    t.rd F.MSF_STAT.fenced (4 * cl + k) = 1) (mem_span_zero hk) trivial
    (fun _ _ _ _ => trivial) (fun b _ => ?_) (fun b i _ hi _ hb => ?_)
  · rw [hx]
    exact b.nameCore_none _ _
  · rw [b.nameCore_index (by omega) _ (by simp [coreMapFields]), b.nameCore_index (by omega) _ (by simp [coreMapFields])]
    exact hb

/-- The counts of a cluster's units. -/
def spareFields : List Field := [F.RST_CL_STAT.spare_cores, F.RST_CL_STAT.absent_cores, F.RST_CL_STAT.spare_spur, F.RST_CL_STAT.absent_spur]

/-- Names take the healthy slots in order, the next is the spare (R22, R23). -/
theorem State.mapCores_effect (s : State) {cl fenced k : Nat} (hcl : cl < 32) (hf : fenced < 2) (hk : k < 4) :
    let good := (List.range 5).filter fun j => !(s.physOf (slotKey cl j)).bad
    let t := s.mapCores cl fenced
    (∀ x, good[k]? = some x → t.rd F.MSF_MAP.phys_slot (4 * cl + k) = x ∧ t.rd F.MSF_MAP.absent (4 * cl + k) = 0 ∧
      t.rd F.MSF_STAT.fenced (4 * cl + k) = fenced) ∧
    (good[k]? = none → t.rd F.MSF_MAP.absent (4 * cl + k) = 1 ∧ t.rd F.MSF_STAT.fenced (4 * cl + k) = 1) ∧
    t.rd F.RST_CL_STAT.spare_cores cl = good.length - 4 ∧ t.rd F.RST_CL_STAT.absent_cores cl = 4 - good.length := by
  have hlen : (s.goodSlots cl).length ≤ 5 := (List.length_filter_le _ _).trans (by rw [List.length_range])
  have hrd : ∀ g ∈ coreMapFields, (s.mapCores cl fenced).rd g (4 * cl + k) =
      ((s.mapSlots cl (s.goodSlots cl)).nameCores cl fenced (s.goodSlots cl)).rd g (4 * cl + k) := by
    have htab : ∀ g ∈ coreMapFields, (g.count == 128 && g.stride != 0 && g.per == 0) = true ∧
      ∀ f ∈ spareFields, g.clear f = true := by decide
    intro g hg
    obtain ⟨hcount, hclear⟩ := htab g hg
    rw [s.mapCores_eq]
    exact (((Writes.refl spareFields _).put (by simp [spareFields]) (Field.has_below rfl hcl) _).put (by simp [spareFields])
      (Field.has_below rfl hcl) _) g _ (Field.has_below hcount (by omega)) hclear
  refine ⟨fun x hx => ?_, fun hx => ?_, ?_, ?_⟩
  · rw [hrd _ (by simp [coreMapFields]), hrd _ (by simp [coreMapFields]), hrd _ (by simp [coreMapFields])]
    have h5 : x < 5 := List.mem_range.1 (List.mem_filter.1 (List.mem_of_getElem? hx)).1
    exact State.nameCores_some _ hk hf hx h5
  · rw [hrd _ (by simp [coreMapFields]), hrd _ (by simp [coreMapFields])]
    exact State.nameCores_none _ fenced hk hx
  · rw [s.mapCores_eq, State.rd_put_apart _ (by decide), State.rd_put_same]
    exact Nat.mod_eq_of_lt (by show _ < 4; omega)
  · rw [s.mapCores_eq, State.rd_put_same]
    exact Nat.mod_eq_of_lt (by show _ < 8; omega)

end Sys2Proof.Machine

/-! SUPPORT. Step 6 of start-up (R441, R499): the variant and the core voltages stand while rows are repaired, units fail and maps are
built; the partition controllers start. -/

namespace Sys2Proof.Machine

open Sys2Proof.Safety

variable {s t : State}

/-! ## What the tests and the maps leave alone -/

/-- The variant and the core voltages stand. -/
def Carries (s t : State) : Prop := t.rd F.SEC_ENT.code = s.rd F.SEC_ENT.code ∧ t.bring.vcore = s.bring.vcore

theorem Carries.refl (s : State) : Carries s s := ⟨rfl, rfl⟩

theorem Carries.put (h : Carries s t) {f : Field} (hf : F.SEC_ENT.code.apart f = true) (v i : Nat) : Carries s (t.put f v i) :=
  ⟨(t.rd_put_apart hf v i 0).trans h.1, h.2⟩

theorem Carries.foldl {α : Type} {g : State → α → State} (hg : ∀ b a, Carries s b → Carries s (g b a)) (l : List α) (h : Carries s t) :
    Carries s (l.foldl g t) := foldl_keep hg l h

theorem Carries.putAll (h : Carries s t) {f : Field} (hf : F.SEC_ENT.code.apart f = true) (v : Nat) (is : List Nat) :
    Carries s (t.putAll f v is) := Carries.foldl (fun _ i hb => hb.put hf v i) is h

theorem Carries.defect (h : Carries s t) (kind cause unit pos : Nat) : Carries s (t.defect kind cause unit pos) := by
  refine ⟨(t.rd_defect kind cause unit pos (by decide) (by decide) 0).trans h.1, ?_⟩
  unfold State.defect
  extract_lets
  split
  · exact h.2
  · split
    · exact h.2
    · exact h.2

theorem Carries.failUnit (h : Carries s t) (cause : Nat) (u : PhysUnit) : Carries s (t.failUnit cause u) := by
  unfold State.failUnit
  split
  · exact Carries.defect (t := t.setPhys _ _) h _ _ _ _
  · exact h

theorem Carries.mapCores (h : Carries s t) (cl fenced : Nat) : Carries s (t.mapCores cl fenced) := by
  unfold State.mapCores
  extract_lets good u v
  have hu : Carries s u := .foldl (fun _ _ hb => by exact hb) _ h
  have hv : Carries s v := by
    refine .foldl (fun b k hb => ?_) _ hu
    extract_lets n
    split
    · exact ((hb.put (by decide) _ _).put (by decide) _ _).put (by decide) _ _
    · exact (hb.put (by decide) _ _).put (by decide) _ _
  exact (hv.put (by decide) _ _).put (by decide) _ _

theorem Carries.mapSpurs (h : Carries s t) (cl fenced : Nat) : Carries s (t.mapSpurs cl fenced) := by
  unfold State.mapSpurs
  extract_lets good u v
  have hu : Carries s u := .foldl (fun _ _ hb => by exact hb) _ h
  have hv : Carries s v := by
    refine .foldl (fun b k hb => ?_) _ hu
    extract_lets n
    split
    · exact ((hb.put (by decide) _ _).put (by decide) _ _).put (by decide) _ _
    · exact (hb.put (by decide) _ _).put (by decide) _ _
  exact (hv.put (by decide) _ _).put (by decide) _ _

theorem Carries.loseMacro (h : Carries s t) (m : Nat) : Carries s (t.loseMacro m) := by
  have hfail : ∀ (b : State) (u : PhysUnit), Carries s b → Carries s (if (b.physOf (physKey u)).bad then b else b.failUnit 1 u) := by
    intro b u hb
    split
    · exact hb
    · exact hb.failUnit 1 u
  unfold State.loseMacro
  extract_lets fail
  cases Config.macroOwner m with
  | slot cl k => exact hfail _ _ h
  | pos cl j => exact hfail _ _ h
  | cluster cl => exact .foldl (fun b k hb => hfail _ _ hb) _ (.foldl (fun b k hb => hfail _ _ hb) _ h)
  | pinned p => exact h
  | bank p => exact h
  | other => exact h

theorem Carries.fixRow (h : Carries s t) (m r : Nat) : Carries s (t.fixRow m r) := by
  unfold State.fixRow
  extract_lets
  split
  · exact h
  · exact h

theorem Carries.repairRows (h : Carries s t) (found : List (Nat × Nat)) : Carries s (t.repairRows found) :=
  .foldl (fun _ m hb => hb.loseMacro m) _
    (.foldl (fun _ x hb => hb.defect 2 1 x.1 x.2) _ (.foldl (fun _ x hb => hb.fixRow x.1 x.2) _ h))

/-! ## Routers -/

theorem State.loseCore_bring (s : State) (n : Nat) : (s.loseCore n).bring = s.bring := by
  unfold State.loseCore State.lostLane
  split
  · rfl
  · split <;> rfl

theorem State.loseSpur_bring (s : State) (n : Nat) : (s.loseSpur n).bring = s.bring := by
  unfold State.loseSpur State.lostLane
  split
  · rfl
  · split <;> rfl

/-- The units of a cluster are lost. -/
def State.dropCluster (s : State) (cl : Nat) : State :=
  (span (16 * cl) 16).foldl State.loseSpur ((span (4 * cl) 4).foldl State.loseCore s)

theorem foldl_bring {α : Type} {g : State → α → State} (hg : ∀ b a, (g b a).bring = b.bring) (l : List α) (s : State) :
    (l.foldl g s).bring = s.bring := by
  induction l generalizing s with
  | nil => rfl
  | cons a l ih => exact (ih (g s a)).trans (hg s a)

theorem State.dropCluster_bring (s : State) (cl : Nat) : (s.dropCluster cl).bring = s.bring :=
  (foldl_bring State.loseSpur_bring _ _).trans (foldl_bring State.loseCore_bring _ _)

theorem State.startRouters_bring (s : State) : s.startRouters.bring = s.bring := by
  unfold State.startRouters
  extract_lets gone bad u v
  have hu : u.bring = s.bring := (State.putAll_bring _ _ _ _).trans (State.putAll_bring _ _ _ _)
  have hv : v.bring = u.bring := foldl_bring State.dropCluster_bring _ _
  split
  · exact hu
  · exact (State.reroute_keeps v bad).1.trans (hv.trans hu)

/-! ## The controllers start -/

/-- The partition controllers start. -/
def State.startPcs (s : State) (l : List Nat) : State := l.foldl (fun s p => s.startProc (pc p)) s

theorem State.startProc_index (s : State) {i j : Nat} (h : i ≠ j) : (s.startProc i).rd F.FW_PROC_STAT.pstate j = s.rd F.FW_PROC_STAT.pstate j := by
  rw [State.startProc, State.logStart, State.rd_logRec, State.kick, State.setProc, State.rd_withProcs, State.bump,
    State.rd_put_apart _ (by decide), State.rd_put_apart _ (by decide), State.rd_put_index _ _ h (by decide)]

theorem State.startPcs_bring (s : State) (l : List Nat) : (s.startPcs l).bring = s.bring :=
  foldl_bring (fun b p => (b.startProc_effect (pc p)).2.1) l s

theorem State.startPcs_up (s : State) {l : List Nat} {p : Nat} (hp : p ∈ l) : (s.startPcs l).rd F.FW_PROC_STAT.pstate (pc p) = 0 :=
  foldl_visit (J := fun _ => True) (P := fun u : State => u.rd F.FW_PROC_STAT.pstate (pc p) = 0) hp trivial (fun _ _ _ _ => trivial)
    (fun b _ => (b.startProc_effect (pc p)).1)
    (fun b q _ hq _ hb => (b.startProc_index (show 3 + q ≠ 3 + p by omega)).trans hb)

/-! ## Step 6 -/

theorem State.stepMs_frame (s : State) (k ms : Nat) : ∃ v, s.stepMs k ms = s.withTime v := by
  unfold State.stepMs State.clockTo
  extract_lets
  split
  · exact ⟨s.time, rfl⟩
  · exact ⟨_, rfl⟩

@[simp] theorem State.rd_stepMs (s : State) (k ms : Nat) (g : Field) (j : Nat) : (s.stepMs k ms).rd g j = s.rd g j := by
  obtain ⟨v, hv⟩ := s.stepMs_frame k ms
  rw [hv, State.rd_withTime]

/-- Step 6 up to the maps leaves the variant, and the voltages of the test. -/
theorem exec_startupStep6 (h : s.atStep 6 = true) (ms : BitVec 16) (x : SelfTest) :
    ∃ v : State, v.rd F.SEC_ENT.code = s.rd F.SEC_ENT.code ∧ (v.bring.vcore = x.vcore.map fun v => 700 + v.val) ∧
      exec (.startupStep6 ms x) s = .next (
        ((v.startRouters.startPcs (span 0 v.nPart)).withCoord (v.startRouters.startPcs (span 0 v.nPart)).leader).endStep 6) := by
  show ∃ v : State, _ ∧ _ ∧ execStartupStep6 ms x s = _
  unfold execStartupStep6
  rw [if_pos h]
  extract_lets s1 s2 b s4 s5 s6 s7 s8 s9 s10
  have hcode : s4.rd F.SEC_ENT.code = s.rd F.SEC_ENT.code := (State.rd_power _ _ _ (by decide) 0).trans (s.rd_stepMs 6 _ _ _)
  have h5 : Carries s4 s5 := .foldl (fun _ _ hb => by exact hb) _ (.refl s4)
  have h6 : Carries s4 s6 := h5.repairRows _
  have h7 : Carries s4 s7 := by
    unfold s7
    split
    · exact h6
    · exact .foldl (fun _ u hb => hb.failUnit 1 u) _ h6
  have h8 : Carries s4 s8 := .foldl (fun _ cl hb => (hb.mapCores cl 1).mapSpurs cl 1) _ h7
  obtain ⟨h9, hvolt⟩ : Carries s4 s9 := h8.putAll (by decide) _ _
  exact ⟨s9, h9.trans hcode, hvolt, rfl⟩

theorem State.endStep_bring (s : State) (k : Nat) : (s.endStep k).bring = s.bring := by
  rw [State.endStep, State.put_bring, State.put_bring]

theorem State.endStep_step (s : State) {k : Nat} (hk : k < 13) : (s.endStep k).rd F.RST_STAT.step = k := by
  rw [State.endStep, State.rd_put_clear _ (by decide) (Field.has_zero (by decide) rfl) (Field.has_below rfl hk), State.rd_put_same]
  exact Nat.mod_eq_of_lt (by show k < 16; omega)

theorem startupStep6_effect (h : s.atStep 6 = true) (ms : BitVec 16) (x : SelfTest) :
    ∃ t, exec (.startupStep6 ms x) s = .next t ∧ t.rd F.RST_STAT.step = 6 ∧ t.bring.vcore = x.vcore.map (fun v => 700 + v.val) ∧
      ∀ p, p < s.nPart → t.rd F.FW_PROC_STAT.pstate (pc p) = 0 := by
  obtain ⟨v, hcode, hvolt, hexec⟩ := exec_startupStep6 h ms x
  refine ⟨_, hexec, State.endStep_step _ (by decide), ?_, fun p hp => ?_⟩
  · rw [State.endStep_bring, State.withCoord_bring, State.startPcs_bring, State.startRouters_bring, hvolt]
  · have hup := v.startRouters.startPcs_up (mem_span_zero ((State.nPart_congr hcode).symm ▸ hp : p < v.nPart))
    have h8 : p < 8 := lt_of_lt_of_le hp (by unfold State.nPart; split <;> omega)
    have hhas : F.FW_PROC_STAT.pstate.Has (pc p) := Field.has_below rfl (show 3 + p < 11 by omega)
    rw [State.endStep, State.rd_put_clear _ (by decide) hhas (Field.has_below rfl (by decide : 6 < 13)),
      State.rd_put_clear _ (by decide) hhas (Field.has_zero (by decide) rfl), State.rd_withCoord, hup]

theorem startupStep6_nothing (h : s.atStep 6 = false) (ms : BitVec 16) (x : SelfTest) : exec (.startupStep6 ms x) s = .next s :=
  congrArg _ (if_neg (by simp [h]))

end Sys2Proof.Machine

/-! SUPPORT. The waves of step 7 (R435, R443, R502) and the links as their training begins (R349, R350). -/

namespace Sys2Proof.Machine

open Sys2Proof.Safety

variable {s t : State}

/-! ## The clock of a step -/

theorem State.clockTo_frame (s : State) (now : Nat) : ∃ v, s.clockTo now = s.withTime v := by
  unfold State.clockTo
  split
  · exact ⟨s.time, rfl⟩
  · exact ⟨_, rfl⟩

theorem State.waveOf_congr (h : t.regs = s.regs) (k : Nat) : t.waveOf k = s.waveOf k := by
  rw [State.waveOf, State.waveOf, State.rd_congr h, State.nClusters, State.nClusters, State.nPart_congr (State.rd_congr h _ 0)]

theorem State.lt_of_mem_waveOf {k cl : Nat} (h : cl ∈ s.waveOf k) : cl < 32 := by
  have hlt : cl < s.nClusters := by simpa using (List.mem_filter.1 h).2
  unfold State.nClusters State.nPart at hlt
  split at hlt <;> omega

/-! ## A wave starts its units -/

/-- A unit in use starts. -/
def State.unfence (s : State) (absent fenced : Field) (n : Nat) : State := if s.on absent n then s else s.put fenced 0 n

/-- The units of a cluster start. -/
def State.startCluster (s : State) (cl : Nat) : State :=
  (span (16 * cl) 16).foldl (fun s n => s.unfence F.SPR_MAP.absent F.SPR_STAT.fenced n)
    ((span (4 * cl) 4).foldl (fun s n => s.unfence F.MSF_MAP.absent F.MSF_STAT.fenced n) s)

theorem State.startWave_eq (s : State) (k : Nat) : s.startWave k = (s.waveOf k).foldl State.startCluster s := rfl

theorem Writes.unfence {L : List Field} (h : Writes L s t) {fenced : Field} (hf : fenced ∈ L) (absent : Field) {n : Nat} (hn : fenced.Has n) :
    Writes L s (t.unfence absent fenced n) := Writes.ite h (h.put hf hn 0)

theorem State.unfence_index (s : State) (absent : Field) {fenced : Field} (hs : fenced.stride ≠ 0) {n m : Nat} (h : n ≠ m) :
    (s.unfence absent fenced n).rd fenced m = s.rd fenced m := by
  unfold State.unfence
  split
  · rfl
  · exact s.rd_put_index _ h hs

theorem State.unfence_same (s : State) {absent fenced : Field} {n : Nat} (h : s.rd absent n = 0) :
    (s.unfence absent fenced n).rd fenced n = 0 := by
  rw [State.unfence, s.on_eq_false_of_rd h, if_neg Bool.false_ne_true, State.rd_put_same, Nat.zero_mod]

theorem State.unfence_bring (s : State) (absent fenced : Field) (n : Nat) : (s.unfence absent fenced n).bring = s.bring := by
  unfold State.unfence
  split <;> rfl

theorem State.startWave_bring (s : State) (k : Nat) : (s.startWave k).bring = s.bring := by
  rw [State.startWave_eq]
  exact foldl_bring (fun b cl => (foldl_bring (fun b n => b.unfence_bring _ _ n) _ _).trans (foldl_bring (fun b n => b.unfence_bring _ _ n) _ _)) _ _

/-- The Spur cores of a cluster start: the cores' fields stand. -/
theorem Writes.startSpurs {cl : Nat} (hcl : cl < 32) :
    Writes [F.SPR_STAT.fenced] s ((span (16 * cl) 16).foldl (fun s n => s.unfence F.SPR_MAP.absent F.SPR_STAT.fenced n) s) :=
  (Writes.refl _ s).foldl _ fun _ n hn hb => hb.unfence (by simp) _
    (Field.has_below rfl (show n < 512 by obtain ⟨h1, h2⟩ := mem_span.1 hn; omega))

theorem Writes.startCluster {cl : Nat} (hcl : cl < 32) : Writes [F.MSF_STAT.fenced, F.SPR_STAT.fenced] s (s.startCluster cl) := by
  have hcores : Writes [F.MSF_STAT.fenced, F.SPR_STAT.fenced] s
      ((span (4 * cl) 4).foldl (fun s n => s.unfence F.MSF_MAP.absent F.MSF_STAT.fenced n) s) :=
    (Writes.refl _ s).foldl _ fun _ n hn hb => hb.unfence (by simp) _
      (Field.has_below rfl (show n < 128 by obtain ⟨h1, h2⟩ := mem_span.1 hn; omega))
  exact hcores.trans ((Writes.startSpurs hcl).mono (by simp))

/-- A core in use of the cluster starts. -/
theorem State.startCluster_same {cl n : Nat} (hcl : cl < 32) (hn : n / 4 = cl) (h : s.rd F.MSF_MAP.absent n = 0) :
    (s.startCluster cl).rd F.MSF_STAT.fenced n = 0 := by
  have hlt : n < 128 := by omega
  refine (Writes.startSpurs hcl _ n (Field.has_below rfl hlt) (by decide)).trans ?_
  refine foldl_visit (J := fun u : State => u.rd F.MSF_MAP.absent n = 0) (P := fun u : State => u.rd F.MSF_STAT.fenced n = 0)
    (mem_span.2 (by omega : 4 * cl ≤ n ∧ n < 4 * cl + 4)) h (fun b m hm hb => ?_) (fun b hb => b.unfence_same hb)
    (fun b m _ hm _ hb => (b.unfence_index _ (by decide) hm).trans hb)
  have hm' : m < 128 := by
    obtain ⟨h1, h2⟩ := mem_span.1 hm
    omega
  exact (((Writes.refl [F.MSF_STAT.fenced] b).unfence (by simp) _ (Field.has_below rfl hm')) _ n (Field.has_below rfl hlt) (by decide)).trans hb

/-- The cores of another cluster stand. -/
theorem State.startCluster_other {cl n : Nat} (hcl : cl < 32) (hlt : n < 128) (hn : n / 4 ≠ cl) :
    (s.startCluster cl).rd F.MSF_STAT.fenced n = s.rd F.MSF_STAT.fenced n := by
  refine (Writes.startSpurs hcl _ n (Field.has_below rfl hlt) (by decide)).trans ?_
  refine List.foldlRecOn (motive := fun u : State => u.rd F.MSF_STAT.fenced n = s.rd F.MSF_STAT.fenced n) (span (4 * cl) 4) _ rfl
    fun b hb m hm => (b.unfence_index _ (by decide) ?_).trans hb
  obtain ⟨h1, h2⟩ := mem_span.1 hm
  omega

/-- A wave starts every core in use of its clusters (R443). -/
theorem State.startWave_effect {k n : Nat} (hn : n / 4 ∈ s.waveOf k) (h : s.rd F.MSF_MAP.absent n = 0) :
    (s.startWave k).rd F.MSF_STAT.fenced n = 0 := by
  have hlt : n < 128 := by
    have := State.lt_of_mem_waveOf hn
    omega
  rw [State.startWave_eq]
  exact foldl_visit (J := fun u : State => u.rd F.MSF_MAP.absent n = 0) (P := fun u : State => u.rd F.MSF_STAT.fenced n = 0) hn h
    (fun b cl hcl hb => (Writes.startCluster (State.lt_of_mem_waveOf hcl) _ n (Field.has_below rfl hlt) (by decide)).trans hb)
    (fun b hb => State.startCluster_same (State.lt_of_mem_waveOf hn) rfl hb)
    (fun b cl hcl hne _ hb => (State.startCluster_other (State.lt_of_mem_waveOf hcl) hlt (Ne.symm hne)).trans hb)

/-! ## A wave that trips twice -/

theorem State.on_of_rd_ne {f : Field} {i : Nat} (h : s.rd f i ≠ 0) : s.on f i = true := by simpa [State.on] using h

theorem State.loseCore_on (s : State) (n : Nat) : (s.loseCore n).on F.MSF_MAP.absent n = true := by
  by_cases h : s.on F.MSF_MAP.absent n = true
  · rw [State.loseCore, if_pos h]
    exact h
  · refine State.on_of_rd_ne ?_
    rw [State.loseCore_absent (by simpa [State.on] using h)]
    exact one_ne_zero

theorem State.loseCore_keepsAbsent (s : State) {m n : Nat} (h : s.on F.MSF_MAP.absent n = true) :
    (s.loseCore m).on F.MSF_MAP.absent n = true := by
  by_cases hm : m = n
  · rw [hm]
    exact s.loseCore_on n
  · rw [State.loseCore]
    split
    · exact h
    · rw [State.on, State.rd_put_apart _ (by decide), State.rd_put_index _ _ hm (by decide), State.lostLane]
      split
      · exact h
      · exact h

theorem State.loseSpur_keepsAbsent (s : State) {m n : Nat} (h : s.on F.MSF_MAP.absent n = true) :
    (s.loseSpur m).on F.MSF_MAP.absent n = true := by
  rw [State.on, State.rd_loseSpur _ _ (by decide) (by decide)]
  exact h

theorem State.dropCluster_keepsAbsent (s : State) {cl n : Nat} (h : s.on F.MSF_MAP.absent n = true) :
    (s.dropCluster cl).on F.MSF_MAP.absent n = true := by
  unfold State.dropCluster
  exact foldl_keep (P := fun u : State => u.on F.MSF_MAP.absent n = true) (fun b _ hb => b.loseSpur_keepsAbsent hb) _
    (foldl_keep (P := fun u : State => u.on F.MSF_MAP.absent n = true) (fun b _ hb => b.loseCore_keepsAbsent hb) _ h)

theorem State.dropCluster_absent (s : State) (n : Nat) : (s.dropCluster (n / 4)).on F.MSF_MAP.absent n = true := by
  unfold State.dropCluster
  exact foldl_keep (P := fun u : State => u.on F.MSF_MAP.absent n = true) (fun b _ hb => b.loseSpur_keepsAbsent hb) _
    (foldl_visit (J := fun _ => True) (P := fun u : State => u.on F.MSF_MAP.absent n = true)
      (mem_span.2 (by omega : 4 * (n / 4) ≤ n ∧ n < 4 * (n / 4) + 4)) trivial (fun _ _ _ _ => trivial) (fun b _ => b.loseCore_on n)
      (fun b _ _ _ _ hb => b.loseCore_keepsAbsent hb))

/-! ## CORE_WAVE and WAVE_RETRY -/

theorem coreWave_nothing (h : s.atStep 7 = false) (k : Fin 32) (ma : Nat) : exec (.coreWave k ma) s = .next s :=
  congrArg _ (if_neg (by simp [h]))

theorem waveRetry_nothing (h : s.atStep 7 = false) (k : Fin 32) (ma : Nat) : exec (.waveRetry k ma) s = .next s :=
  congrArg _ (if_neg (by simp [h]))

section
variable {k : Fin 32} (h7 : s.atStep 7 = true)
include h7

theorem exec_coreWave (hk : s.bring.waves = k.val) (hc : k.val < s.waveCount) (ma : Nat) :
    ∃ u : State, u.regs = s.regs ∧ u.bring = { s.bring with waves := k.val + 1 } ∧ exec (.coreWave k ma) s =
      .next (if waveTrips ma then u.withBring { u.bring with waveFail := u.bring.waveFail ++ [k.val] } else u.startWave k) := by
  show ∃ u : State, _ ∧ _ ∧ execCoreWave k ma s = _
  unfold execCoreWave
  rw [if_pos (by simp [h7, hk, hc])]
  extract_lets b0 u b w b'
  obtain ⟨v, hv⟩ : ∃ v, u = s.withTime v := by
    unfold u
    split
    · exact ⟨s.time, rfl⟩
    · exact s.clockTo_frame _
  refine ⟨w, ?_, ?_, rfl⟩
  · show u.regs = s.regs
    rw [hv, State.withTime_regs]
  · show ({ u.bring with waves := k.val + 1 } : Bring) = _
    rw [hv, State.withTime_bring]

theorem coreWave_starts (hk : s.bring.waves = k.val) (hc : k.val < s.waveCount) {ma : Nat} (hma : ma ≤ 4000) :
    ∃ t, exec (.coreWave k ma) s = .next t ∧ t.bring.waves = k.val + 1 ∧ t.bring.waveFail = s.bring.waveFail ∧
      ∀ n, n / 4 ∈ s.waveOf k → s.rd F.MSF_MAP.absent n = 0 → t.rd F.MSF_STAT.fenced n = 0 := by
  obtain ⟨u, hregs, hbring, hexec⟩ := exec_coreWave h7 hk hc ma
  rw [if_neg (by simpa [waveTrips] using hma)] at hexec
  refine ⟨_, hexec, ?_, ?_, fun n hn ha => State.startWave_effect ?_ ?_⟩
  · rw [State.startWave_bring, hbring]
  · rw [State.startWave_bring, hbring]
  · rw [State.waveOf_congr hregs]
    exact hn
  · rw [State.rd_congr hregs, ha]

theorem coreWave_trips (hk : s.bring.waves = k.val) (hc : k.val < s.waveCount) {ma : Nat} (hma : 4000 < ma) :
    ∃ t, exec (.coreWave k ma) s = .next t ∧ t.bring.waves = k.val + 1 ∧ t.bring.waveFail = s.bring.waveFail ++ [k.val] ∧
      t.regs = s.regs := by
  obtain ⟨u, hregs, hbring, hexec⟩ := exec_coreWave h7 hk hc ma
  rw [if_pos (by simpa [waveTrips] using hma), hbring] at hexec
  exact ⟨_, hexec, rfl, rfl, hregs⟩

theorem exec_waveRetry (hf : s.bring.waveFail.contains k.val = true) (ma : Nat) :
    ∃ u : State, u.regs = s.regs ∧ u.bring = { s.bring with waveFail := s.bring.waveFail.filter (· != k.val) } ∧
      exec (.waveRetry k ma) s = .next (if waveTrips ma then (u.waveOf k).foldl State.dropCluster u else u.startWave k) := by
  obtain ⟨v, hv⟩ := s.clockTo_frame (s.nowNs + 10000000)
  show ∃ u : State, _ ∧ _ ∧ execWaveRetry k ma s = _
  unfold execWaveRetry
  rw [if_pos (by simp only [h7, hf, Bool.and_true]), hv]
  extract_lets b0 u b w
  refine ⟨w, rfl, ?_, rfl⟩
  show ({ u.bring with waveFail := u.bring.waveFail.filter (· != k.val) } : Bring) = _
  rw [State.withTime_bring]

theorem waveRetry_starts (hf : s.bring.waveFail.contains k.val = true) {ma : Nat} (hma : ma ≤ 4000) :
    ∃ t, exec (.waveRetry k ma) s = .next t ∧ t.bring.waveFail = s.bring.waveFail.filter (· != k.val) ∧
      ∀ n, n / 4 ∈ s.waveOf k → s.rd F.MSF_MAP.absent n = 0 → t.rd F.MSF_STAT.fenced n = 0 := by
  obtain ⟨u, hregs, hbring, hexec⟩ := exec_waveRetry h7 hf ma
  rw [if_neg (by simpa [waveTrips] using hma)] at hexec
  refine ⟨_, hexec, ?_, fun n hn ha => State.startWave_effect ?_ ?_⟩
  · rw [State.startWave_bring, hbring]
  · rw [State.waveOf_congr hregs]
    exact hn
  · rw [State.rd_congr hregs, ha]

theorem waveRetry_trips (hf : s.bring.waveFail.contains k.val = true) {ma : Nat} (hma : 4000 < ma) :
    ∃ t, exec (.waveRetry k ma) s = .next t ∧ t.bring.waveFail = s.bring.waveFail.filter (· != k.val) ∧
      ∀ n, n / 4 ∈ s.waveOf k → t.on F.MSF_MAP.absent n = true := by
  obtain ⟨u, hregs, hbring, hexec⟩ := exec_waveRetry h7 hf ma
  rw [if_pos (by simpa [waveTrips] using hma)] at hexec
  refine ⟨_, hexec, ?_, fun n hn => ?_⟩
  · rw [foldl_bring State.dropCluster_bring, hbring]
  · rw [← State.waveOf_congr hregs] at hn
    exact foldl_visit (J := fun _ => True) (P := fun t : State => t.on F.MSF_MAP.absent n = true) hn trivial (fun _ _ _ _ => trivial)
      (fun b _ => b.dropCluster_absent n) (fun b _ _ _ _ hb => b.dropCluster_keepsAbsent hb)

end

/-! ## Links begin training (R349, R350) -/

/-- The fields of a link's change but its state. -/
def linkFields : List Field := [F.FAB_LINK_STAT.state_chg, F.FAB_STAT.links_up, F.FAB_STAT.links_active, F.FAB_STAT.route_rebuilt] ++ logFields

theorem Writes.setLinkRec {L : List Field} (h : Writes L s t) (l : Nat) (x : Link) : Writes L s (t.setLinkRec l x) := h

theorem Writes.holdRoutes {L : List Field} (h : Writes L s t) (l : Nat) : Writes L s (t.holdRoutes l) := h

/-- A change of a link's state, the state apart. -/
theorem State.setLk_writes (s : State) {l : Nat} (hl : l < 36) (v : Nat) : Writes (F.FAB_LINK_STAT.state :: linkFields) s (s.setLk l v) ∧
    (s.lk l ≠ v → Writes linkFields (s.put F.FAB_LINK_STAT.state v l) (s.setLk l v)) := by
  have hone : ∀ f ∈ linkFields.tail, f.Has 0 := by
    have htab : ∀ f ∈ linkFields.tail, 0 < f.count ∧ f.per = 0 := by decide
    exact fun f hf => Field.has_zero (htab f hf).1 (htab f hf).2
  have hmain : s.lk l ≠ v → Writes linkFields (s.put F.FAB_LINK_STAT.state v l) (s.setLk l v) := by
    intro hne
    unfold State.setLk
    extract_lets old u x w
    rw [if_neg hne]
    have hu : Writes linkFields (s.put F.FAB_LINK_STAT.state v l) u :=
      (((Writes.refl _ _).put (by simp [linkFields]) (Field.has_below rfl hl) _).put (by simp [linkFields])
        (hone _ (by simp [linkFields])) _).put (by simp [linkFields]) (hone _ (by simp [linkFields])) _
    have he : Writes linkFields (s.put F.FAB_LINK_STAT.state v l) (u.event 5 3 Ev.link v (512 + l)) :=
      hu.event (fun f hf => List.mem_append_right _ hf) _ _ _ _ _
    have hw : Writes linkFields (s.put F.FAB_LINK_STAT.state v l) w := he.setLinkRec _ _
    clear_value w
    split
    · exact hw
    · split
      · exact (hw.holdRoutes l).put (by simp [linkFields]) (hone _ (by simp [linkFields])) _
      · split
        · exact hw.holdRoutes l
        · exact hw
  refine ⟨?_, hmain⟩
  by_cases h : s.lk l = v
  · rw [State.setLk, if_pos h]
    exact .refl _ _
  · exact ((Writes.refl (F.FAB_LINK_STAT.state :: linkFields) s).put (by simp) (Field.has_below rfl hl) v).trans
      ((hmain h).mono fun f hf => List.mem_cons_of_mem _ hf)

theorem State.setLk_same (s : State) {l : Nat} (hl : l < 36) {v : Nat} (hv : v < 8) : (s.setLk l v).lk l = v := by
  by_cases h : s.lk l = v
  · rw [State.setLk, if_pos h, h]
  · refine (((s.setLk_writes hl v).2 h) F.FAB_LINK_STAT.state l (Field.has_below rfl hl) (by decide)).trans ?_
    rw [State.rd_put_same]
    exact Nat.mod_eq_of_lt hv

theorem State.setLk_other (s : State) {l m : Nat} (hl : l < 36) (hm : m < 36) (h : l ≠ m) (v : Nat) : (s.setLk l v).lk m = s.lk m := by
  by_cases hv : s.lk l = v
  · rw [State.setLk, if_pos hv]
  · refine (((s.setLk_writes hl v).2 hv) F.FAB_LINK_STAT.state m (Field.has_below rfl hm) (by decide)).trans ?_
    exact s.rd_put_index _ h (by decide)

theorem State.nLinks_le (s : State) : s.nLinks ≤ 36 := by
  unfold State.nLinks
  split <;> omega

/-- The links of the variant train, those that are not enabled are off (R349). -/
def State.trainLinks (s : State) : State :=
  (span 0 s.nLinks).foldl (fun s l => s.setLk l (if s.on F.FAB_LINK_CFG.link_en l then lkTraining else lkDisabled)) s

theorem State.trainLinks_effect (s : State) : Writes (F.FAB_LINK_STAT.state :: linkFields) s s.trainLinks ∧
    ∀ l, l < s.nLinks → s.trainLinks.lk l = if s.rd F.FAB_LINK_CFG.link_en l = 0 then lkDisabled else lkTraining := by
  have hle := s.nLinks_le
  refine ⟨(Writes.refl _ s).foldl _ fun b l hl hb => hb.trans (b.setLk_writes ?_ _).1, fun l hl => ?_⟩
  · obtain ⟨-, h2⟩ := mem_span.1 hl
    omega
  · refine foldl_visit (J := fun u : State => u.rd F.FAB_LINK_CFG.link_en l = s.rd F.FAB_LINK_CFG.link_en l)
      (P := fun u : State => u.lk l = if s.rd F.FAB_LINK_CFG.link_en l = 0 then lkDisabled else lkTraining) (mem_span_zero hl) rfl
      (fun b m hm hb => ?_) (fun b hb => ?_) (fun b m hm hne _ hb => ?_)
    · obtain ⟨-, h2⟩ := mem_span.1 hm
      exact ((b.setLk_writes (show m < 36 by omega) _).1 _ l (Field.has_below rfl (show l < 36 by omega)) (by decide)).trans hb
    · by_cases h0 : s.rd F.FAB_LINK_CFG.link_en l = 0
      · rw [if_pos h0, b.on_eq_false_of_rd (hb.trans h0)]
        exact b.setLk_same (by omega) (by decide)
      · rw [if_neg h0, State.on_of_rd_ne (hb.symm ▸ h0)]
        exact b.setLk_same (by omega) (by decide)
    · obtain ⟨-, h2⟩ := mem_span.1 hm
      exact (b.setLk_other (by omega) (by omega) hne _).trans hb

theorem startupStep7_nothing (h : s.bring.waves ≠ s.waveCount) (ms : BitVec 16) : exec (.startupStep7 ms) s = .next s :=
  congrArg _ (if_neg (by simp [h]))

theorem startupStep7_effect (h7 : s.atStep 7 = true) (hw : s.bring.waves = s.waveCount) (hf : s.bring.waveFail = []) (ms : BitVec 16) :
    ∃ t, exec (.startupStep7 ms) s = .next t ∧ t.rd F.RST_STAT.step = 7 ∧
      ∀ l, l < s.nLinks → t.lk l = (if s.rd F.FAB_LINK_CFG.link_en l = 0 then lkDisabled else lkTraining) := by
  let u := (s.stepMs 7 ms.toNat).endStep 7
  let v := u.power (if u.code = 1 then [40, 41] else span 40 4) true
  have hexec : exec (.startupStep7 ms) s = .next v.trainLinks := congrArg Host.Outcome.next (if_pos (by simp [h7, hw, hf]))
  have hv : Writes [F.RST_STAT.step, F.RST_STEP_T.t_ms, F.RST_PD_STAT.pd_on] s v := by
    refine Writes.put (t := u) (Writes.put (t := State.put _ _ _ _) (Writes.put (t := s.stepMs 7 ms.toNat) ?_ (by simp) ?_ _) (by simp) ?_ _)
      (by simp) (Field.has_zero (by decide) rfl) _
    · exact fun g j _ _ => s.rd_stepMs 7 _ g j
    · exact Field.has_zero (by decide) rfl
    · exact Field.has_below rfl (by decide : 7 < 13)
  have hstep : v.rd F.RST_STAT.step = 7 := (State.rd_power _ _ _ (by decide) 0).trans (State.endStep_step _ (by decide))
  obtain ⟨htrain, hlk⟩ := v.trainLinks_effect
  have hnum : v.nLinks = s.nLinks := by
    rw [State.nLinks, State.nLinks, State.code, State.code, hv _ 0 (Field.has_zero (by decide) rfl) (by decide)]
  refine ⟨_, hexec, (htrain _ 0 (Field.has_zero (by decide) rfl) (by decide)).trans hstep, fun l hl => ?_⟩
  have hle := s.nLinks_le
  rw [hlk l (hnum.symm ▸ hl), hv _ l (Field.has_below rfl (show l < 36 by omega)) (by decide)]

end Sys2Proof.Machine

/-! SUPPORT. What the rings' shared operations change (R384–R390, R401): the rings, the slices' records, host memory, the control
function's records, the outputs, and register fields of HOST. -/

namespace Sys2Proof.Machine

open Sys2Proof.Safety

variable {s t u : State}

/-- The register fields that a completion, a notice or an event entry may write. -/
def hostFields : List Field :=
  [F.HOST_S_RING_CQ_TAIL.cq_tail, F.HOST_RING_CQ_TAIL.cq_tail, F.HOST_S_RING_STAT.ring_outst, F.HOST_RING_STAT.ring_outst,
   F.HOST_STAT.outst, F.HOST_STAT.vec_err, F.HOST_STAT.evt_lost, F.HOST_VER.neg_status, F.HOST_FEAT_AGREED.feat_ok,
   F.HOST_S_VER.neg_status, F.HOST_S_FEAT_AGREED.feat_ok]

/-- A state without what the rings' operations change. -/
def State.hostBlank (s : State) : State :=
  (((((((((s.withRegs []).withRings []).withSlices []).withHostMem []).withOut []).withEvents []).withCtlWindow []).withCtlNeg
    false).withCtlNegPend false).withCtlAgreed (0, 0)

/-- `t` is `s` but for what the rings' operations change. -/
def HostOnly (s t : State) : Prop := t.hostBlank = s.hostBlank ∧ Writes hostFields s t

theorem HostOnly.refl (s : State) : HostOnly s s := ⟨rfl, .refl _ s⟩

theorem HostOnly.trans (h : HostOnly s t) (k : HostOnly t u) : HostOnly s u := ⟨k.1.trans h.1, h.2.trans k.2⟩

theorem HostOnly.put (h : HostOnly s t) {f : Field} (hf : f ∈ hostFields) {i : Nat} (hi : f.Has i) (v : Nat) : HostOnly s (t.put f v i) :=
  ⟨h.1, h.2.put hf hi v⟩

theorem HostOnly.setRing (h : HostOnly s t) (k : Nat) (r : Ring) : HostOnly s (t.setRing k r) := h

theorem HostOnly.setSlice (h : HostOnly s t) (n : Nat) (x : Slice) : HostOnly s (t.setSlice n x) := h

theorem HostOnly.emit (h : HostOnly s t) (o : Out) : HostOnly s (t.emit o) := h

theorem HostOnly.withHostMem (h : HostOnly s t) (v : List Host.Cell) : HostOnly s (t.withHostMem v) := h

theorem HostOnly.withEvents (h : HostOnly s t) (v : List CqEntry) : HostOnly s (t.withEvents v) := h

theorem HostOnly.withCtlWindow (h : HostOnly s t) (v : List CqEntry) : HostOnly s (t.withCtlWindow v) := h

theorem HostOnly.withCtlNeg (h : HostOnly s t) (v : Bool) : HostOnly s (t.withCtlNeg v) := h

theorem HostOnly.withCtlNegPend (h : HostOnly s t) (v : Bool) : HostOnly s (t.withCtlNegPend v) := h

theorem HostOnly.withCtlAgreed (h : HostOnly s t) (v : Nat × Nat) : HostOnly s (t.withCtlAgreed v) := h

theorem HostOnly.ite {c : Prop} [Decidable c] (h : HostOnly s t) (k : HostOnly s u) : HostOnly s (if c then t else u) := by
  split
  · exact h
  · exact k

theorem hostFields_zero {f : Field} (h : f = F.HOST_STAT.outst ∨ f = F.HOST_STAT.vec_err ∨ f = F.HOST_STAT.evt_lost ∨
    f = F.HOST_VER.neg_status ∨ f = F.HOST_FEAT_AGREED.feat_ok) : f ∈ hostFields ∧ f.Has 0 := by
  rcases h with rfl | rfl | rfl | rfl | rfl <;> exact ⟨by simp [hostFields], Field.has_zero (by decide) rfl⟩

/-! ## Ring registers -/

/-- Numbers of rings: those of the slices, the control ring, the radio rings. -/
def RingNo (k : Nat) : Prop := k < ctlRing + 9

theorem ringNo_ctl : RingNo ctlRing := by
  unfold RingNo
  omega

theorem HostOnly.ringPut (h : HostOnly s t) {k : Nat} (hk : RingNo k) {g : RingReg} (hg : g = rCqTail ∨ g = rOutst) (v : Nat) :
    HostOnly s (t.ringPut g k v) := by
  have hwin : k < ctlRing → g.win.Has (1024 * (k / 16) + k % 16) := by
    intro hlt
    have hlt' : k < 65536 := hlt
    rcases hg with rfl | rfl
    · exact ⟨fun h0 => absurd h0 (by decide), fun _ => ⟨show _ < 4194304 by omega, .inr (show _ % 1024 < 16 by omega)⟩⟩
    · exact ⟨fun h0 => absurd h0 (by decide), fun _ => ⟨show _ < 4194304 by omega, .inr (show _ % 1024 < 16 by omega)⟩⟩
  have hhost : g.host.Has (k - ctlRing) := by
    have hlt : k - ctlRing < 9 := by
      have : k < ctlRing + 9 := hk
      omega
    rcases hg with rfl | rfl
    · exact Field.has_below rfl hlt
    · exact Field.has_below rfl hlt
  have hmem : g.win ∈ hostFields ∧ g.host ∈ hostFields := by
    rcases hg with rfl | rfl
    · exact ⟨by simp [hostFields, rCqTail], by simp [hostFields, rCqTail]⟩
    · exact ⟨by simp [hostFields, rOutst], by simp [hostFields, rOutst]⟩
  unfold State.ringPut
  split
  · exact h.put hmem.1 (hwin ‹_›) v
  · exact h.put hmem.2 hhost v

theorem HostOnly.ringBytes (h : HostOnly s t) (k n : Nat) : HostOnly s (t.ringBytes k n) := by
  unfold State.ringBytes
  exact .ite (h.setSlice _ _) h

theorem HostOnly.hostWr (h : HostOnly s t) (a : Nat) (bs : List Byte) (sp : Nat) : HostOnly s ((t.hostWr a bs sp).getD t) := by
  unfold State.hostWr
  split
  · exact (h.withHostMem _).emit _
  · exact h

/-! ## Posting -/

theorem HostOnly.msix (h : HostOnly s t) (fn v : Nat) : HostOnly s (t.msix fn v) := by
  obtain ⟨hmem, hzero⟩ := hostFields_zero (f := F.HOST_STAT.vec_err) (by simp)
  unfold State.msix
  exact .ite (h.emit _) (h.put hmem hzero _)

theorem HostOnly.postRaw (h : HostOnly s t) {k : Nat} (hk : RingNo k) (e : CqEntry) : HostOnly s (t.postRaw k e) := by
  unfold State.postRaw
  extract_lets c lg e' r u v
  have hv : HostOnly s v := ((h.setRing k _).ringPut hk (.inl rfl) _).ringBytes k 32
  exact .ite (hv.hostWr _ _ _) hv

theorem HostOnly.postCq (h : HostOnly s t) {k : Nat} (hk : RingNo k) (e : CqEntry) : HostOnly s (t.postCq k e) := by
  unfold State.postCq State.coalesce State.fireRing
  have hp := h.postRaw hk e
  exact .ite h (.ite ((hp.setRing _ _).msix _ _) hp)

theorem HostOnly.notice (h : HostOnly s t) {k : Nat} (hk : RingNo k) (e : CqEntry) : HostOnly s (t.notice k e) := by
  unfold State.notice
  exact .ite (h.postCq hk e) (.ite (h.setRing _ _) (h.setRing _ _))

theorem HostOnly.eventEntry (h : HostOnly s t) (code handle opc : Nat) : HostOnly s (t.eventEntry code handle opc) := by
  obtain ⟨hmem, hzero⟩ := hostFields_zero (f := F.HOST_STAT.evt_lost) (by simp)
  unfold State.eventEntry
  exact .ite ((h.postRaw ringNo_ctl _).msix 0 2) (.ite (h.withEvents _) (h.put hmem hzero _))

/-! ## Final completion -/

theorem HostOnly.agreeCtl (h : HostOnly s t) : HostOnly s t.agreeCtl := by
  obtain ⟨hmem, hzero⟩ := hostFields_zero (f := F.HOST_VER.neg_status) (by simp)
  obtain ⟨hmem', hzero'⟩ := hostFields_zero (f := F.HOST_FEAT_AGREED.feat_ok) (by simp)
  unfold State.agreeCtl
  exact ((((h.put hmem hzero _).put hmem' hzero' _).withCtlNeg _).withCtlNegPend _).withCtlAgreed _

theorem HostOnly.agreeSlice (h : HostOnly s t) {n : Nat} (hn : n < 4096) : HostOnly s (t.agreeSlice n) := by
  unfold State.agreeSlice
  exact ((h.put (by simp [hostFields]) (Field.has_below rfl hn) _).put (by simp [hostFields]) (Field.has_below rfl hn) _).setSlice _ _

theorem HostOnly.settleNeg (h : HostOnly s t) (k : Nat) : HostOnly s (t.settleNeg k) := by
  unfold State.settleNeg
  split
  · have hn : k / 16 < 4096 := by
      have : k < 65536 := ‹_›
      omega
    exact .ite (h.agreeSlice hn) h
  · exact .ite h.agreeCtl h

theorem HostOnly.release1 (h : HostOnly s t) {k : Nat} (hk : RingNo k) : HostOnly s (t.release1 k) := by
  obtain ⟨hmem, hzero⟩ := hostFields_zero (f := F.HOST_STAT.outst) (by simp)
  unfold State.release1
  exact ((h.ringPut hk (.inr rfl) _).put hmem hzero _).settleNeg k

theorem HostOnly.postCopies (h : HostOnly s t) {k : Nat} (hk : RingNo k) (e : CqEntry) (n : Nat) : HostOnly s (t.postCopies k e n) := by
  induction n generalizing t with
  | zero => exact h
  | succ n ih => exact ih ((h.release1 hk).postCq hk _)

theorem HostOnly.remember (h : HostOnly s t) (k : Nat) (e : CqEntry) : HostOnly s (t.remember k e) := by
  unfold State.remember
  exact .ite (h.setSlice _ _) (.ite (h.withCtlWindow _) h)

theorem HostOnly.finish (h : HostOnly s t) {k : Nat} (hk : RingNo k) (tok opc status handle res0 res1 : Nat) :
    HostOnly s (t.finish k tok opc status handle res0 res1) := by
  unfold State.finish
  exact ((((h.setRing _ _).remember k _).release1 hk).postCq hk _).postCopies hk _ _

theorem HostOnly.complete (h : HostOnly s t) {k : Nat} (hk : RingNo k) (x : SubEntry) (status handle res0 res1 : Nat) :
    HostOnly s (t.complete k x status handle res0 res1) := h.finish hk _ _ _ _ _ _

end Sys2Proof.Machine

/-! SUPPORT. Steps 8 to 11 of start-up (R351, R432, R434, R444). -/

namespace Sys2Proof.Machine

open Sys2Proof.Safety

variable {s t : State}

/-! ## The end of a step -/

/-- The fields of a step. -/
def stepFields : List Field := [F.RST_STAT.step, F.RST_STEP_T.t_ms]

theorem Writes.endStep {L : List Field} (h : Writes L s t) (hL : ∀ f ∈ stepFields, f ∈ L) {k : Nat} (hk : k < 13) : Writes L s (t.endStep k) :=
  (h.put (hL _ (by simp [stepFields])) (Field.has_zero (by decide) rfl) _).put (hL _ (by simp [stepFields])) (Field.has_below rfl hk) _

theorem State.endStep_stall (s : State) {k : Nat} (hk : k < 13) : (s.endStep k).rd F.RST_STAT.stall_cause = s.rd F.RST_STAT.stall_cause :=
  ((Writes.refl stepFields s).endStep (fun _ h => h) hk) _ 0 (Field.has_zero (by decide) rfl) (by decide)

/-! ## Step 8: links (R351) -/

theorem startupStep8_nothing (h : s.atStep 8 = false) (ms : BitVec 16) : exec (.startupStep8 ms) s = .next s :=
  congrArg _ (if_neg (by simp [h]))

theorem State.linksOk_stepMs (s : State) (k ms : Nat) : (s.stepMs k ms).linksOk = s.linksOk := by
  obtain ⟨v, hv⟩ := s.stepMs_frame k ms
  rw [hv]
  rfl

theorem startupStep8_goes (h : s.atStep 8 = true) (hl : s.linksOk = true) (ms : BitVec 16) : ∃ t, exec (.startupStep8 ms) s = .next t ∧
    t.rd F.RST_STAT.step = 8 ∧ t.rd F.RST_STAT.stall_cause = 0 := by
  have hl' : (s.stepMs 8 ms.toNat).linksOk = true := (s.linksOk_stepMs 8 _).trans hl
  refine ⟨_, congrArg Host.Outcome.next ((if_pos h).trans (if_pos hl')), State.endStep_step _ (by decide), ?_⟩
  rw [State.endStep_stall _ (by decide), State.rd_put_same]
  rfl

theorem startupStep8_waits (h : s.atStep 8 = true) (hl : s.linksOk = false) (ms : BitVec 16) : ∃ t, exec (.startupStep8 ms) s = .next t ∧
    t.rd F.RST_STAT.step = s.rd F.RST_STAT.step ∧ t.rd F.RST_STAT.stall_cause = 5 ∧
    t.rd F.RST_STAT.recovery = s.rd F.RST_STAT.recovery := by
  have hl' : ¬ (s.stepMs 8 ms.toNat).linksOk = true := by
    rw [s.linksOk_stepMs, hl]
    exact Bool.false_ne_true
  refine ⟨_, congrArg Host.Outcome.next ((if_pos h).trans (if_neg hl')), ?_, State.rd_put_same _ _ _ _, ?_⟩
  · rw [State.rd_put_apart _ (by decide), State.rd_stepMs]
  · rw [State.rd_put_apart _ (by decide), State.rd_stepMs]

/-! ## Step 9: lock (R432) -/

theorem startupStep9_nothing (h : s.atStep 9 = false) (ms : BitVec 16) : exec (.startupStep9 ms) s = .next s :=
  congrArg _ (if_neg (by simp [h]))

theorem startupStep9_goes (h : s.atStep 9 = true) (he : s.time.edges = true) (ms : BitVec 16) : ∃ t, exec (.startupStep9 ms) s = .next t ∧
    t.rd F.RST_STAT.step = 9 ∧ t.rd F.RST_STAT.stall_cause = 0 := by
  refine ⟨_, congrArg Host.Outcome.next ((if_pos h).trans (if_pos he)), State.endStep_step _ (by decide), ?_⟩
  rw [State.endStep_stall _ (by decide), State.rd_put_same]
  rfl

theorem startupStep9_waits (h : s.atStep 9 = true) (he : s.time.edges = false) (ms : BitVec 16) : ∃ t, exec (.startupStep9 ms) s = .next t ∧
    t.rd F.RST_STAT.stall_cause = 6 ∧ OnlyRegs s t [(F.RST_STAT.stall_cause, 0)] :=
  ⟨_, congrArg Host.Outcome.next ((if_pos h).trans (if_neg (by simp [he]))), State.rd_put_same _ _ _ _, rfl,
    regsSame_put (regsSame_refl s _) (by simp) _⟩

/-! ## Step 10: known answers (R444) -/

theorem State.physOf_setPhys_bad (s : State) {j k : Nat} {x : Phys} (hx : j = k → x.bad = true) (h : (s.physOf k).bad = true) :
    ((s.setPhys j x).physOf k).bad = true := by
  by_cases hjk : j = k
  · rw [← hjk, physOf_setPhys]
    rw [if_pos rfl]
    exact hx hjk
  · rw [State.physOf, State.setPhys, State.withPhys_phys, kget_kset_ne _ _ _ (Ne.symm hjk)]
    exact h

/-- A map of start-up changes no verdict of a physical unit. -/
theorem foldl_setPhys_bad {α : Type} (key : α → Nat) (x : State → α → Phys) (hx : ∀ b a, (x b a).bad = (b.physOf (key a)).bad) (l : List α)
    {k : Nat} (h : (s.physOf k).bad = true) : ((l.foldl (fun b a => b.setPhys (key a) (x b a)) s).physOf k).bad = true :=
  foldl_keep (P := fun b : State => (b.physOf k).bad = true) (g := fun b a => b.setPhys (key a) (x b a))
    (fun b a hb => b.physOf_setPhys_bad (fun e => (hx b a).trans (e ▸ hb)) hb) l h

theorem foldl_phys {α : Type} {g : State → α → State} (hg : ∀ b a, (g b a).phys = b.phys) (l : List α) (s : State) :
    (l.foldl g s).phys = s.phys := by
  induction l generalizing s with
  | nil => rfl
  | cons a l ih => exact (ih (g s a)).trans (hg s a)

theorem State.nameCore_phys (s : State) (n fenced : Nat) (slot : Option Nat) : (s.nameCore n fenced slot).phys = s.phys := by
  cases slot <;> rfl

theorem State.mapCores_bad (s : State) (cl fenced : Nat) {k : Nat} (h : (s.physOf k).bad = true) :
    ((s.mapCores cl fenced).physOf k).bad = true := by
  have hslots : ((s.mapSlots cl (s.goodSlots cl)).physOf k).bad = true :=
    foldl_setPhys_bad (slotKey cl) (fun b k => { b.physOf (slotKey cl k) with
      spare := ((s.goodSlots cl).drop 4).contains k, fenced := false, cause := 0 }) (fun _ _ => rfl) _ h
  have hnames : (s.mapCores cl fenced).phys = (s.mapSlots cl (s.goodSlots cl)).phys :=
    foldl_phys (fun b k => b.nameCore_phys (4 * cl + k) fenced (s.goodSlots cl)[k]?) (span 0 4) _
  rw [State.physOf, hnames]
  exact hslots

/-- One Spur name: behind a position, or absent. -/
def State.nameSpur (s : State) (n fenced : Nat) (pos : Option Nat) : State :=
  match pos with
  | some x => ((s.put F.SPR_MAP.phys_pos x n).put F.SPR_MAP.absent 0 n).put F.SPR_STAT.fenced fenced n
  | none => (s.put F.SPR_MAP.absent 1 n).put F.SPR_STAT.fenced 1 n

theorem State.nameSpur_phys (s : State) (n fenced : Nat) (pos : Option Nat) : (s.nameSpur n fenced pos).phys = s.phys := by
  cases pos <;> rfl

/-- Healthy positions of a cluster. -/
def State.goodPositions (s : State) (cl : Nat) : List Nat := (List.range 18).filter fun k => !(s.physOf (posKey cl k)).bad

/-- The positions of a cluster as the map leaves them. -/
def State.mapPositions (s : State) (cl : Nat) (good : List Nat) : State :=
  (List.range 18).foldl (fun s k =>
    s.setPhys (posKey cl k) { s.physOf (posKey cl k) with spare := (good.drop 16).contains k, fenced := false, cause := 0 }) s

theorem State.mapSpurs_bad (s : State) (cl fenced : Nat) {k : Nat} (h : (s.physOf k).bad = true) :
    ((s.mapSpurs cl fenced).physOf k).bad = true := by
  have hslots : ((s.mapPositions cl (s.goodPositions cl)).physOf k).bad = true :=
    foldl_setPhys_bad (posKey cl) (fun b k => { b.physOf (posKey cl k) with
      spare := ((s.goodPositions cl).drop 16).contains k, fenced := false, cause := 0 }) (fun _ _ => rfl) _ h
  have hnames : (s.mapSpurs cl fenced).phys = (s.mapPositions cl (s.goodPositions cl)).phys :=
    foldl_phys (fun b k => b.nameSpur_phys (16 * cl + k) fenced (s.goodPositions cl)[k]?) (span 0 16) _
  rw [State.physOf, hnames]
  exact hslots

theorem State.defect_phys (s : State) (kind cause unit pos : Nat) : (s.defect kind cause unit pos).phys = s.phys := by
  unfold State.defect
  extract_lets
  split
  · rfl
  · split <;> rfl

theorem State.failUnit_bad (s : State) (cause : Nat) (u : PhysUnit) {k : Nat} (h : (s.physOf k).bad = true) :
    ((s.failUnit cause u).physOf k).bad = true := by
  unfold State.failUnit
  split
  · rw [State.physOf, State.defect_phys]
    exact s.physOf_setPhys_bad (fun _ => rfl) h
  · exact h

theorem State.failUnit_same (s : State) (cause : Nat) {u : PhysUnit} (h : s.physHere u = true) :
    ((s.failUnit cause u).physOf (physKey u)).bad = true := by
  rw [State.failUnit, if_pos h, State.physOf, State.defect_phys]
  show ((s.setPhys (physKey u) _).physOf (physKey u)).bad = true
  rw [physOf_setPhys, if_pos rfl]

theorem State.physHere_congr (h : t.rd F.SEC_ENT.code = s.rd F.SEC_ENT.code) (u : PhysUnit) : t.physHere u = s.physHere u := by
  rw [State.physHere, State.physHere, State.nClusters, State.nClusters, State.nPart_congr h]

/-- A known-answer run that fails leaves its unit defective, whether it failed before or not (R444). -/
theorem State.failUnits_bad {us fails : List PhysUnit} {u : PhysUnit} (hus : us = fails.filter fun u => s.physHere u &&
    s.clusterStarted u.cl && !(s.physOf (physKey u)).bad) (hu : u ∈ fails) (hh : s.physHere u = true) (hc : s.clusterStarted u.cl = true) :
    ((us.foldl (fun s u => s.failUnit 2 u) s).physOf (physKey u)).bad = true := by
  by_cases hb : (s.physOf (physKey u)).bad = true
  · exact foldl_keep (P := fun b : State => (b.physOf (physKey u)).bad = true) (fun b v h => b.failUnit_bad 2 v h) us hb
  · have hmem : u ∈ us := by
      rw [hus]
      exact List.mem_filter.2 ⟨hu, by simp [hh, hc, hb]⟩
    exact foldl_visit (J := fun b : State => Carries s b) (P := fun b : State => (b.physOf (physKey u)).bad = true) hmem (.refl s)
      (fun b v _ h => h.failUnit 2 v) (fun b h => b.failUnit_same 2 ((State.physHere_congr h.1 u).trans hh))
      (fun b v _ _ _ h => b.failUnit_bad 2 v h)

theorem startupStep10_nothing (h : s.atStep 10 = false) (ms : BitVec 16) (fails : List PhysUnit) :
    exec (.startupStep10 ms fails) s = .next s := congrArg _ (if_neg (by simp [h]))

theorem startupStep10_effect (h : s.atStep 10 = true) (ms : BitVec 16) (fails : List PhysUnit) :
    ∃ t, exec (.startupStep10 ms fails) s = .next t ∧ t.rd F.RST_STAT.step = 10 ∧
      ∀ u ∈ fails, s.physHere u = true → s.clusterStarted u.cl = true → (t.physOf (physKey u)).bad = true := by
  obtain ⟨v, hv⟩ := s.stepMs_frame 10 ms.toNat
  show ∃ t, execStartupStep10 ms fails s = _ ∧ _ ∧ _
  unfold execStartupStep10
  rw [if_pos h, hv]
  extract_lets s1 us s2 s3
  refine ⟨_, rfl, State.endStep_step _ (by decide), fun u hu hh hc => ?_⟩
  have h2 : (s2.physOf (physKey u)).bad = true := State.failUnits_bad (s := s1) rfl hu hh hc
  have h3 : (s3.physOf (physKey u)).bad = true := by
    refine foldl_keep (P := fun b : State => (b.physOf (physKey u)).bad = true) (fun b c hb => ?_) _ h2
    split
    · exact b.mapSpurs_bad _ _ hb
    · exact b.mapCores_bad _ _ hb
  rw [State.physOf, State.endStep, State.put_phys, State.put_phys]
  exact h3

/-! ## Step 11: Ready (R434) -/

theorem startupStep11_nothing (h : s.atStep 11 = false ∨ s.readyOk = false) (ms : BitVec 16) (radio hold : List BankImage) :
    exec (.startupStep11 ms radio hold) s = .next s := congrArg _ (if_neg (by rcases h with h | h <;> simp [h]))

theorem State.declareReady_effect (s : State) : s.declareReady.rd F.RST_STAT.step = 11 ∧ s.declareReady.ready = true ∧
    s.declareReady.ctlHb = some s.declareReady.nowNs := by
  unfold State.declareReady
  extract_lets u v w
  have hu : u.rd F.RST_STAT.step = 11 ∧ u.rd F.RST_STAT.ready = 1 :=
    ⟨(State.rd_put_apart _ (by decide) _ _ _).trans (State.endStep_step _ (by decide)), State.rd_put_same _ _ _ _⟩
  have hv : v.rd F.RST_STAT.step = 11 ∧ v.rd F.RST_STAT.ready = 1 :=
    ⟨(State.rd_put_apart _ (by decide) _ _ _).trans hu.1, (State.rd_put_apart _ (by decide) _ _ _).trans hu.2⟩
  clear_value v
  have hw : Writes (hostFields ++ logFields) v w :=
    ((((HostOnly.refl v).eventEntry (Config.hostEvent 8) 0 0xFF).2).mono fun f hf => List.mem_append_left _ hf).event
      (fun f hf => List.mem_append_right _ hf) _ _ _ _ _
  refine ⟨?_, ?_, ?_⟩
  · rw [State.rd_withCtlHb]
    exact (hw _ 0 (Field.has_zero (by decide) rfl) (by decide)).trans hv.1
  · rw [State.ready, State.on, State.rd_withCtlHb, (hw _ 0 (Field.has_zero (by decide) rfl) (by decide)).trans hv.2]
    rfl
  · rw [State.withCtlHb_ctlHb, State.nowNs, State.nowNs, State.withCtlHb_time]

theorem startupStep11_effect {d : Dcr} (h : s.atStep 11 = true) (hr : s.readyOk = true) (hd : s.bring.dcr = some d) (ms : BitVec 16)
    (radio hold : List BankImage) : ∃ t, exec (.startupStep11 ms radio hold) s = .next t ∧ t.rd F.RST_STAT.step = 11 ∧ t.ready = true ∧
      t.ctlHb = some t.nowNs := by
  show ∃ t, execStartupStep11 ms radio hold s = _ ∧ _
  unfold execStartupStep11
  rw [if_pos (by simp [h, hr]), hd]
  exact ⟨_, rfl, State.declareReady_effect _⟩

end Sys2Proof.Machine

open Sys2Proof Sys2Proof.Machine Sys2Proof.Safety in
/-- Settles O47: the maps by the order of the healthy slots, the waves unit by unit, the links one by one; Ready is declared by
`State.declareReady`. -/
theorem startUpStepsSixToReady : Obligations.StartUpStepsSixToReady := by
  unfold Obligations.StartUpStepsSixToReady
  refine ⟨fun s => ⟨fun cl fenced hcl hf k hk => s.mapCores_effect hcl hf hk, fun ms fails rows v =>
      ⟨fun h => startupStep6_nothing h ms _, fun h => startupStep6_effect h ms _⟩, fun k => ⟨fun h ma => ⟨coreWave_nothing h k ma,
      waveRetry_nothing h k ma⟩, fun h hk hc => ⟨fun ma hma => coreWave_starts h hk hc hma, fun ma hma => coreWave_trips h hk hc hma⟩,
      fun h hf => ⟨fun ma hma => waveRetry_starts h hf hma, fun ma hma => waveRetry_trips h hf hma⟩⟩,
      fun ms => ⟨fun h => startupStep7_nothing h ms, fun h hw hf => startupStep7_effect h hw hf ms⟩⟩,
    fun s ms fails radio hold => ⟨fun h => startupStep8_nothing h ms, fun h hl => startupStep8_goes h hl ms,
      fun h hl => startupStep8_waits h hl ms, fun h => startupStep9_nothing h ms, fun h he => startupStep9_goes h he ms,
      fun h he => startupStep9_waits h he ms, fun h => startupStep10_nothing h ms fails, fun h => startupStep10_effect h ms fails,
      fun h => startupStep11_nothing (.inl h) ms radio hold, fun h => startupStep11_nothing (.inr h) ms radio hold,
      fun d h hr hd => startupStep11_effect h hr hd ms radio hold⟩⟩

/-! SUPPORT. Firmware processors that stop, restart and are held down (R415–R421): the registers each step writes, what it leaves of the
processor's record, and what it leaves alone. -/

namespace Sys2Proof.Machine

open Sys2Proof.Safety

variable {s t u : State}

/-! ## What stands beside the firmware -/

/-- Cells, sequences, held commands and device time stand. -/
def FwSide (s t : State) : Prop :=
  t.cells = s.cells ∧ t.seqs = s.seqs ∧ t.heldCmds = s.heldCmds ∧ t.time.sec = s.time.sec ∧ t.time.ns = s.time.ns

theorem FwSide.refl (s : State) : FwSide s s := ⟨rfl, rfl, rfl, rfl, rfl⟩

theorem FwSide.trans (h : FwSide s t) (k : FwSide t u) : FwSide s u := by
  obtain ⟨h1, h2, h3, h4, h5⟩ := h
  obtain ⟨k1, k2, k3, k4, k5⟩ := k
  exact ⟨k1.trans h1, k2.trans h2, k3.trans h3, k4.trans h4, k5.trans h5⟩

theorem FwSide.nowNs (h : FwSide s t) : t.nowNs = s.nowNs := by
  obtain ⟨-, -, -, h4, h5⟩ := h
  rw [State.nowNs, State.nowNs, h4, h5]

theorem FwSide.event (h : FwSide s t) (cls sev k data src : Nat) : FwSide s (t.event cls sev k data src) := by
  obtain ⟨r, w, q, c, o, he⟩ := t.event_withs cls sev k data src
  rw [he]
  exact h

theorem FwSide.logRec (h : FwSide s t) (i tp sev : Nat) (words : List Nat) : FwSide s (t.logRec i tp sev words) := by
  obtain ⟨v, hv⟩ := t.logRec_frame i tp sev words
  rw [hv]
  exact h

theorem FwSide.showFault (h : FwSide s t) (o : State) : FwSide s (t.showFault o) := by
  rw [showFault_eq]
  exact h

theorem HostOnly.keeps {α : Type} (h : HostOnly s t) (f : State → α) (hf : ∀ x : State, f x.hostBlank = f x) : f t = f s :=
  (hf t).symm.trans ((congrArg f h.1).trans (hf s))

theorem FwSide.host (h : FwSide s t) (k : HostOnly t u) : FwSide s u :=
  h.trans ⟨k.keeps State.cells fun _ => rfl, k.keeps State.seqs fun _ => rfl, k.keeps State.heldCmds fun _ => rfl,
    k.keeps (fun x : State => x.time.sec) fun _ => rfl, k.keeps (fun x : State => x.time.ns) fun _ => rfl⟩

theorem Writes.showFault {L : List Field} (h : Writes L s t) (o : State) : Writes L s (t.showFault o) := by
  rw [showFault_eq]
  exact h

theorem Writes.logRec {L : List Field} (h : Writes L s t) (i tp sev : Nat) (words : List Nat) : Writes L s (t.logRec i tp sev words) := by
  obtain ⟨v, hv⟩ := t.logRec_frame i tp sev words
  rw [hv]
  exact h

/-! ## The record of a processor -/

theorem State.proc_setProc (s : State) (i : Nat) (x : Proc) : (s.setProc i x).proc i = x := kget_kset_same _ _ _ _

theorem State.proc_congr (h : t.procs = s.procs) (i : Nat) : t.proc i = s.proc i := by rw [State.proc, State.proc, h]

/-- The processor's record but for its log ring. -/
def Proc.noLog (x : Proc) : Proc := { x with log := [], wrOff := 0, wraps := 0, rseq := 0 }

theorem State.logPut_noLog (s : State) (i j tp sev len data : Nat) : ((s.logPut j tp sev len data).proc i).noLog = (s.proc i).noLog := by
  unfold State.logPut
  extract_lets p full
  by_cases h : j = i
  · rw [h, State.proc_setProc]
    show Proc.noLog p = _
    rw [show p = s.proc j from rfl, h]
  · rw [State.proc, State.setProc, State.withProcs_procs, kget_kset_ne _ _ _ (Ne.symm h), State.proc]

theorem Proc.eq_of_noLog {x y : Proc} (h : x.noLog = y.noLog) :
    x.crashes = y.crashes ∧ x.downAt = y.downAt ∧ x.wdDue = y.wdDue ∧ x.prevSect = y.prevSect := by
  injection h with h1 h2 h3 _ _ _ _ _ _ h4
  exact ⟨h2, h3, h1, h4⟩

/-- A record changes no more of a processor than its log ring (R427). -/
theorem State.logRec_noLog (s : State) (i j tp sev : Nat) (words : List Nat) :
    ((s.logRec j tp sev words).proc i).noLog = (s.proc i).noLog := by
  unfold State.logRec
  split
  · rfl
  · extract_lets len u
    have hu : (u.proc i).noLog = (s.proc i).noLog := by
      unfold u
      split
      · exact s.logPut_noLog i j _ _ _ _
      · rfl
    exact (u.logPut_noLog i j _ _ _ _).trans hu

theorem State.event_procs (s : State) (cls sev k data src : Nat) : (s.event cls sev k data src).procs = s.procs := by
  obtain ⟨r, w, q, c, o, he⟩ := s.event_withs cls sev k data src
  rw [he]
  rfl

/-! ## A processor stops (R417) -/

theorem State.enterHoldover_frame (s : State) : ∃ r v, s.enterHoldover = (s.withRegs r).withTime v ∧ v.sec = s.time.sec ∧ v.ns = s.time.ns := by
  unfold State.enterHoldover
  split
  · exact ⟨s.regs, s.time, rfl, rfl, rfl⟩
  · split
    · exact ⟨_, _, rfl, rfl, rfl⟩
    · exact ⟨_, _, rfl, rfl, rfl⟩

/-- The servo's fields that standing in HOLDOVER writes. -/
def holdoverFields : List Field := [F.TIME_STAT.state, F.TIME_OFFSET.rate]

theorem Writes.setTime {L : List Field} (h : Writes L s t) (v : TimeState) : Writes L s (t.setTime v) := h

theorem State.enterHoldover_writes (s : State) : Writes holdoverFields s s.enterHoldover := by
  have hzero : F.TIME_STAT.state.Has 0 ∧ F.TIME_OFFSET.rate.Has 0 := ⟨Field.has_zero (by decide) rfl, Field.has_zero (by decide) rfl⟩
  by_cases h : s.servo = 3
  · rw [State.enterHoldover_of_holdover h]
    exact .refl _ _
  · have hrate : Writes holdoverFields s s.freezeRate := by
      unfold State.freezeRate
      split
      · exact (Writes.refl holdoverFields s).put (by simp [holdoverFields]) hzero.2 _
      · exact .refl _ _
    rw [State.enterHoldover_of_ne h]
    have hset : Writes holdoverFields s (s.freezeRate.clearLock.setServo holdover) :=
      Writes.put (t := s.freezeRate.clearLock) hrate (by simp [holdoverFields]) hzero.1 _
    exact hset.setTime _

theorem State.procQuiet_keeps (s : State) (i : Nat) : FwSide s (s.procQuiet i) ∧ Writes holdoverFields s (s.procQuiet i) ∧
    (s.procQuiet i).procs = s.procs := by
  unfold State.procQuiet
  split
  · obtain ⟨r, v, hf, hsec, hns⟩ := s.enterHoldover_frame
    refine ⟨?_, s.enterHoldover_writes, ?_⟩
    · rw [hf]
      exact ⟨rfl, rfl, rfl, hsec, hns⟩
    · rw [hf]
      rfl
  · split
    · exact ⟨.refl _, .refl _ _, rfl⟩
    · exact ⟨.refl _, .refl _ _, rfl⟩

theorem State.procStops_keeps (s : State) (i : Nat) : FwSide s (s.procStops i) ∧ Writes holdoverFields s (s.procStops i) ∧
    (s.procStops i).proc i = { s.proc i with mail := [], dbgHalt := false } := by
  unfold State.procStops
  extract_lets v
  obtain ⟨hside, hw, hp⟩ : FwSide s v ∧ Writes holdoverFields s v ∧ v.procs = s.procs := by
    unfold v
    split
    · exact s.procQuiet_keeps i
    · exact ⟨.refl _, .refl _ _, rfl⟩
  refine ⟨hside, hw, ?_⟩
  rw [State.proc_setProc]
  exact congrArg (fun x : Proc => { x with mail := [], dbgHalt := false }) (State.proc_congr hp i)

/-! ## A restart (R416, R423) -/

/-- The fields that a restart writes. -/
def restartFields : List Field :=
  [F.FW_PROC_STAT.pstate, F.FW_PROC_STAT.last_cause, F.FW_PROC_CNT.starts, F.FW_GSTAT.down, F.FW_PROC_SECT.sect_ver, F.FW_PROC_SECT.sect_dig] ++
    holdoverFields

theorem State.takeSect_keeps (s : State) {i : Nat} (hi : i < 11) : FwSide s (s.takeSect i) ∧ Writes restartFields s (s.takeSect i) ∧
    ((s.takeSect i).proc i).crashes = (s.proc i).crashes := by
  unfold State.takeSect State.putSect
  extract_lets p
  split
  · exact ⟨.refl _, .refl _ _, rfl⟩
  · refine ⟨⟨rfl, rfl, rfl, rfl, rfl⟩, Writes.put (Writes.put ?_ (by simp [restartFields]) (Field.has_below rfl hi) _)
      (by simp [restartFields]) (Field.has_below rfl hi) _, ?_⟩
    · exact fun _ _ _ _ => rfl
    rw [State.proc_congr (State.put_procs _ _ _ _), State.proc_congr (State.put_procs _ _ _ _), State.proc_setProc]
    show ((s.setProc i _).proc i).crashes = _
    rw [State.proc_setProc]

/-- A processor that restarts shows it, with the cause. -/
def State.showRestart (s : State) (i cause : Nat) : State :=
  ((s.put F.FW_PROC_STAT.pstate 1 i).put F.FW_PROC_STAT.last_cause cause i).bump F.FW_PROC_CNT.starts i

/-- A processor is down from now on. -/
def State.markDown (s : State) (i : Nat) : State :=
  (s.orf F.FW_GSTAT.down (2 ^ i)).setProc i { s.proc i with downAt := s.nowNs, boots := (s.proc i).boots + 1 }

theorem State.restart_eq (s : State) (i cause : Nat) :
    s.restart i cause = ((((s.procStops i).takeSect i).showRestart i cause).markDown i).logStart i cause := rfl

theorem State.showRestart_effect (s : State) {i cause : Nat} (hi : i < 11) (hc : cause < 8) :
    (s.showRestart i cause).rd F.FW_PROC_STAT.pstate i = 1 ∧ (s.showRestart i cause).rd F.FW_PROC_STAT.last_cause i = cause ∧
      (s.showRestart i cause).procs = s.procs ∧ FwSide s (s.showRestart i cause) ∧ Writes restartFields s (s.showRestart i cause) := by
  refine ⟨?_, ?_, rfl, ⟨rfl, rfl, rfl, rfl, rfl⟩, (((Writes.refl restartFields s).put (by simp [restartFields]) (Field.has_below rfl hi) _).put
    (by simp [restartFields]) (Field.has_below rfl hi) _).put (by simp [restartFields]) (Field.has_below rfl hi) _⟩
  · rw [State.showRestart, State.bump, State.rd_put_apart _ (by decide), State.rd_put_apart _ (by decide), State.rd_put_same]
    rfl
  · rw [State.showRestart, State.bump, State.rd_put_apart _ (by decide), State.rd_put_same]
    exact Nat.mod_eq_of_lt (lt_of_lt_of_le hc (by decide))

theorem State.markDown_effect (s : State) {i : Nat} (hi : i < 11) : bit ((s.markDown i).rd F.FW_GSTAT.down) i = true ∧
    ((s.markDown i).proc i).crashes = (s.proc i).crashes ∧ ((s.markDown i).proc i).downAt = s.nowNs ∧ FwSide s (s.markDown i) ∧
      Writes [F.FW_GSTAT.down] s (s.markDown i) := by
  refine ⟨?_, ?_, ?_, ⟨rfl, rfl, rfl, rfl, rfl⟩, (Writes.refl _ s).put (by simp) (Field.has_zero (by decide) rfl) _⟩
  · rw [State.markDown, State.setProc, State.rd_withProcs]
    exact s.bit_orf_same _ _ hi
  · rw [State.markDown, State.proc_setProc]
  · rw [State.markDown, State.proc_setProc]

theorem State.restart_effect (s : State) {i cause : Nat} (hi : i < 11) (hc : cause < 8) : let t := s.restart i cause
    t.rd F.FW_PROC_STAT.pstate i = 1 ∧ t.rd F.FW_PROC_STAT.last_cause i = cause ∧ bit (t.rd F.FW_GSTAT.down) i = true ∧
      (t.proc i).crashes = (s.proc i).crashes ∧ (t.proc i).downAt = s.nowNs ∧ FwSide s t ∧ Writes restartFields s t := by
  obtain ⟨hside1, hw1, hp1⟩ := s.procStops_keeps i
  obtain ⟨hside2, hw2, hp2⟩ := (s.procStops i).takeSect_keeps hi
  have hp2' : (((s.procStops i).takeSect i).proc i).crashes = (s.proc i).crashes := by rw [hp2, hp1]
  rw [s.restart_eq, State.logStart]
  generalize (s.procStops i).takeSect i = v at *
  obtain ⟨hpst, hcause, hp3, hside3, hw3⟩ := v.showRestart_effect hi hc
  generalize v.showRestart i cause = b at *
  obtain ⟨hdown, hp4, hat, hside4, hw4⟩ := b.markDown_effect hi
  generalize b.markDown i = c at *
  have hside : FwSide s c := ((hside1.trans hside2).trans hside3).trans hside4
  have hw : Writes restartFields s c := (((hw1.mono fun f hf => List.mem_append_right _ hf).trans hw2).trans hw3).trans
    (hw4.mono (by simp))
  obtain ⟨hcr, hda, -, -⟩ := Proc.eq_of_noLog (c.logRec_noLog i i 1 3 [cause, (c.sectOn i).1, (c.sectOn i).2])
  refine ⟨?_, ?_, ?_, ?_, ?_, hside.logRec _ _ _ _, hw.logRec _ _ _ _⟩
  · rw [State.rd_logRec, hw4 _ i (Field.has_below rfl hi) (by decide), hpst]
  · rw [State.rd_logRec, hw4 _ i (Field.has_below rfl hi) (by decide), hcause]
  · rw [State.rd_logRec, hdown]
  · rw [hcr, hp4, State.proc_congr hp3, hp2']
  · rw [hda, hat, ((hside1.trans hside2).trans hside3).nowNs]

end Sys2Proof.Machine

/-! SUPPORT. Crashes and hold-down (R415, R418, R420): a crash is noted, then the processor restarts or is held down. -/

namespace Sys2Proof.Machine

open Sys2Proof.Safety

variable {s t u : State} {i : Nat}

/-! ## A crash is noted (R420) -/

/-- The crashes of processor `i` within the last 600 s. -/
def State.crashWindow (s : State) (i : Nat) : List Nat := (s.proc i).crashes.filter fun t => s.nowNs ≤ t + 600000000000

/-- The fields of a crash. -/
def crashFields : List Field :=
  [F.FW_PROC_STAT.last_cause, F.FW_PROC_STAT.crash_evt, F.FW_PROC_CNT.crashes, F.FW_PROC_CNT.win_crashes, F.FW_PROC_LAST.crash_cmp] ++ logFields

/-- What stands when a crash is noted: the event and its counts, the crashes of the window, and all else (R420). -/
def Noted (s : State) (i : Nat) (t : State) : Prop :=
  t.rd F.FW_PROC_STAT.crash_evt i = 1 ∧ t.rd F.FW_PROC_CNT.crashes i = satAdd 16 (s.rd F.FW_PROC_CNT.crashes i) 1 ∧
    t.rd F.FW_PROC_CNT.win_crashes i = min 3 ((s.crashWindow i).length + 1) ∧ (t.proc i).crashes = s.nowNs :: s.crashWindow i ∧
    (t.proc i).prevSect = (s.proc i).prevSect ∧ FwSide s t ∧ Writes crashFields s t

theorem Noted.log (h : Noted s i t) (tp sev : Nat) (words : List Nat) : Noted s i (t.logRec i tp sev words) := by
  obtain ⟨hevt, hcnt, hwin, hcr, hps, hside, hw⟩ := h
  obtain ⟨hcr', -, -, hps'⟩ := Proc.eq_of_noLog (t.logRec_noLog i i tp sev words)
  refine ⟨?_, ?_, ?_, hcr'.trans hcr, hps'.trans hps, hside.logRec _ _ _ _, hw.logRec _ _ _ _⟩
  · rw [State.rd_logRec, hevt]
  · rw [State.rd_logRec, hcnt]
  · rw [State.rd_logRec, hwin]

theorem Noted.event (h : Noted s i t) (cls sev k data src : Nat) : Noted s i (t.event cls sev k data src) := by
  obtain ⟨hevt, hcnt, hwin, hcr, hps, hside, hw⟩ := h
  have hproc : (t.event cls sev k data src).proc i = t.proc i := State.proc_congr (State.event_procs _ _ _ _ _ _) i
  refine ⟨?_, ?_, ?_, ?_, ?_, hside.event _ _ _ _ _, hw.event (fun f hf => List.mem_append_right _ hf) _ _ _ _ _⟩
  · rw [State.rd_event _ _ _ _ _ _ (by decide), hevt]
  · rw [State.rd_event _ _ _ _ _ _ (by decide), hcnt]
  · rw [State.rd_event _ _ _ _ _ _ (by decide), hwin]
  · rw [hproc, hcr]
  · rw [hproc, hps]

theorem Noted.put (h : Noted s i t) (hi : i < 11) {f : Field} (hf : f = F.FW_PROC_STAT.last_cause ∨ f = F.FW_PROC_LAST.crash_cmp) (v : Nat) :
    Noted s i (t.put f v i) := by
  obtain ⟨hevt, hcnt, hwin, hcr, hps, hside, hw⟩ := h
  have hmem : f ∈ crashFields ∧ f.Has i := by
    rcases hf with rfl | rfl
    · exact ⟨by simp [crashFields], Field.has_below rfl hi⟩
    · exact ⟨by simp [crashFields], Field.has_below rfl hi⟩
  refine ⟨?_, ?_, ?_, hcr, hps, hside, hw.put hmem.1 hmem.2 _⟩ <;> rcases hf with rfl | rfl
  · rw [State.rd_put_apart _ (by decide), hevt]
  · rw [State.rd_put_apart _ (by decide), hevt]
  · rw [State.rd_put_apart _ (by decide), hcnt]
  · rw [State.rd_put_apart _ (by decide), hcnt]
  · rw [State.rd_put_apart _ (by decide), hwin]
  · rw [State.rd_put_apart _ (by decide), hwin]

theorem noted_of_counts (s : State) {i : Nat} (hi : i < 11) {u : State} (hu : FwSide s u) (hw : Writes crashFields s u)
    (hcr : (u.proc i).crashes = s.nowNs :: s.crashWindow i) (hps : (u.proc i).prevSect = (s.proc i).prevSect)
    (hcnt : u.rd F.FW_PROC_CNT.crashes i = s.rd F.FW_PROC_CNT.crashes i) :
    Noted s i (((u.put F.FW_PROC_STAT.crash_evt 1 i).bump F.FW_PROC_CNT.crashes i).put F.FW_PROC_CNT.win_crashes
      (min 3 ((s.crashWindow i).length + 1)) i) := by
  refine ⟨?_, ?_, ?_, hcr, hps, hu, ((hw.put (by simp [crashFields]) (Field.has_below rfl hi) _).put
    (by simp [crashFields]) (Field.has_below rfl hi) _).put (by simp [crashFields]) (Field.has_below rfl hi) _⟩
  · rw [State.rd_put_apart _ (by decide), State.bump, State.rd_put_apart _ (by decide), State.rd_put_same]
    rfl
  · rw [State.rd_put_apart _ (by decide), State.rd_bump_same, State.rd_put_apart _ (by decide), hcnt]
    exact Nat.mod_eq_of_lt (lt_of_le_of_lt (min_le_left _ _) (by decide))
  · rw [State.rd_put_same]
    exact Nat.mod_eq_of_lt (show _ < 4 by omega)

/-- A crash on a section that is not on trial is noted, then the processor restarts or is held down. -/
theorem State.crash_cases (s : State) {i : Nat} (hi : i < 11) (cause : Nat) (hp : (s.proc i).prevSect = none) :
    ∃ v, Noted s i v ∧ (2 ≤ (s.crashWindow i).length → s.crash i cause = v.holdDown i) ∧
      ((s.crashWindow i).length < 2 → s.crash i cause = (v.restart i cause).put F.FW_PROC_STAT.last_cause cause i) := by
  unfold State.crash
  extract_lets p win v0 v1 v2 v3 v4 v5 v6
  have hproc : (v0.proc i).crashes = s.nowNs :: win ∧ (v0.proc i).prevSect = (s.proc i).prevSect := by
    rw [show v0.proc i = _ from State.proc_setProc _ _ _]
    exact ⟨rfl, rfl⟩
  have hv0 : Writes crashFields s v0 := fun _ _ _ _ => State.rd_withProcs _ _ _ _
  have h1 : Noted s i (v1.put F.FW_PROC_CNT.win_crashes (min 3 (win.length + 1)) i) :=
    noted_of_counts s hi (u := v0.put F.FW_PROC_STAT.last_cause cause i) ⟨rfl, rfl, rfl, rfl, rfl⟩
      (hv0.put (by simp [crashFields]) (Field.has_below rfl hi) _) hproc.1 hproc.2
      (by rw [State.rd_put_apart _ (by decide)]; rfl)
  have h2 : Noted s i v2 := h1.put hi (.inr rfl) _
  have h4 : Noted s i v4 := Noted.event (t := v3) (h2.log 2 0 _) _ _ _ _ _
  have h5 : v5 = v4 := by
    obtain ⟨-, -, -, -, hps, -⟩ := h4
    refine if_neg fun h => ?_
    rw [hps, hp] at h
    exact Bool.false_ne_true h.1
  exact ⟨v4, h4, fun h => (if_pos h).trans (congrArg (fun x : State => x.holdDown i) h5), fun h => (if_neg (Nat.not_le.2 h)).trans
    (congrArg (fun x : State => (x.restart i cause).put F.FW_PROC_STAT.last_cause cause i) h5)⟩

end Sys2Proof.Machine

/-! SUPPORT. Hold-down (R418, R420): the registers it shows, the commands it answers. -/

namespace Sys2Proof.Machine

open Sys2Proof.Safety

variable {s t u : State} {i : Nat}

/-- The fields of a hold-down, once the processor's own are shown. -/
def holdRest : List Field := hostFields ++ logFields ++ [F.TICK_STAT.stage_pending, F.SRV_PART.adm_refuse]

/-- Staging a partition's open share shows it as pending, and no more (R80, R95). -/
theorem State.stage_openShare (s : State) (v : Nat) {p : Nat} (hp : p < 8) : s.stage F.TICK_OPEN_SHARE.open_share v p =
    (s.withStaged (kset s.staged (F.TICK_OPEN_SHARE.open_share.key p) (v % 2 ^ F.TICK_OPEN_SHARE.open_share.width))).put
      F.TICK_STAT.stage_pending 1 p := by
  have hkey : F.TICK_OPEN_SHARE.open_share.key p / 8 = 0x200020 + 256 * p :=
    calc _ = 8 * (0x200020 + 256 * p) / 8 := rfl
      _ = 0x200020 + 256 * p := Nat.mul_div_cancel_left _ (by decide)
  have hpart : ∀ u : State, u.stagedPart (F.TICK_OPEN_SHARE.open_share.key p) = some p := by
    intro u
    unfold State.stagedPart
    rw [hkey]
    dsimp only
    rw [if_neg (by omega), if_pos (by omega)]
    exact congrArg some (by omega)
  unfold State.stage State.pendBits
  rw [hpart]
  exact (if_neg (by decide)).trans (if_neg (by decide))

/-- The rings take the answers for the commands that a processor held; those of other owners stay (R418). -/
theorem State.busyHeld_effect (s : State) (i : Nat) : Writes hostFields s (s.busyHeld i) ∧
    (s.busyHeld i).heldCmds = s.heldCmds.filter fun h => h.owner != i := by
  have hfold : HostOnly (s.withHeldCmds (s.heldCmds.filter fun h => h.owner != i)) (s.busyHeld i) := by
    unfold State.busyHeld
    extract_lets mine
    refine List.foldlRecOn (motive := HostOnly (s.withHeldCmds (s.heldCmds.filter fun h => h.owner != i))) mine _ (.refl _) ?_
    exact fun b hb h _ => hb.complete ringNo_ctl _ _ _ _ _
  exact ⟨hfold.2, hfold.keeps State.heldCmds fun _ => rfl⟩

/-- A processor shows that it is held down. -/
def State.showHeld (s : State) (i : Nat) : State :=
  (((s.put F.FW_PROC_STAT.pstate 2 i).clrf F.FW_GSTAT.down (2 ^ i)).orf F.FW_GSTAT.held (2 ^ i)).put F.FW_GSTAT.hold_evt 1

/-- What hears of a hold-down: the host and the event log. -/
def State.tellHeld (s : State) (i : Nat) : State := (s.eventEntry (Config.hostEvent 9) i).service 7 Ev.holdDown i

/-- A held-down processor's part in the device stands still: the open shares are those of R417, or its partition admits no more. -/
def State.holdWork (s : State) (i : Nat) : State :=
  if i = cairn then
    (List.range s.nPart).foldl (fun s p => s.stage F.TICK_OPEN_SHARE.open_share (s.rd F.FW_GCTRL.cairn_safe_share) p) s
  else if 3 ≤ i then s.refuseAdm (i - 3)
  else s

theorem State.holdDown_eq (s : State) (i : Nat) : s.holdDown i =
    (let u := (((s.procStops i).showHeld i).showFault ((s.procStops i).put F.FW_PROC_STAT.pstate 2 i)).tellHeld i
     (u.logRec i 3 0 ((u.proc i).crashes.take 3)).busyHeld i).holdWork i := rfl

theorem State.showHeld_effect (s : State) (hi : i < 11) : (s.showHeld i).rd F.FW_PROC_STAT.pstate i = 2 ∧
    bit ((s.showHeld i).rd F.FW_GSTAT.held) i = true ∧ (s.showHeld i).rd F.FW_GSTAT.hold_evt = 1 ∧
      (s.showHeld i).rd F.FW_PROC_CNT.win_crashes i = s.rd F.FW_PROC_CNT.win_crashes i := by
  have hproc : F.FW_PROC_STAT.pstate.Has i := Field.has_below rfl hi
  unfold State.showHeld State.clrf
  refine ⟨?_, ?_, State.rd_put_same _ _ _ _, ?_⟩
  · rw [State.rd_put_apart _ (by decide), State.orf,
      State.rd_put_clear _ (g := F.FW_PROC_STAT.pstate) (f := F.FW_GSTAT.held) (by decide) hproc (Field.has_zero (by decide) rfl),
      State.rd_put_clear _ (g := F.FW_PROC_STAT.pstate) (f := F.FW_GSTAT.down) (by decide) hproc (Field.has_zero (by decide) rfl),
      State.rd_put_same]
    rfl
  · rw [State.rd_put_apart _ (by decide)]
    exact State.bit_orf_same _ _ _ hi
  · rw [State.rd_put_apart _ (by decide), State.orf, State.rd_put_apart _ (by decide), State.rd_put_apart _ (by decide), State.rd_put_apart _ (by decide)]

theorem State.tellHeld_effect (s : State) (i : Nat) : Writes holdRest s (s.tellHeld i) ∧ FwSide s (s.tellHeld i) := by
  have hhost : HostOnly s (s.eventEntry (Config.hostEvent 9) i) := (HostOnly.refl s).eventEntry _ _ _
  have hmem : ∀ f ∈ hostFields ++ logFields, f ∈ holdRest := fun f hf => List.mem_append_left _ hf
  exact ⟨(hhost.2.mono fun f hf => hmem f (List.mem_append_left _ hf)).event (fun f hf => hmem f (List.mem_append_right _ hf)) _ _ _ _ _,
    ((FwSide.refl s).host hhost).event _ _ _ _ _⟩

theorem State.holdWork_effect (s : State) (hi : i < 11) : Writes holdRest s (s.holdWork i) ∧ (s.holdWork i).heldCmds = s.heldCmds := by
  have hpart : ∀ p ∈ List.range s.nPart, p < 8 := by
    intro p hp
    have hlt : p < s.nPart := List.mem_range.1 hp
    unfold State.nPart at hlt
    split at hlt <;> omega
  unfold State.holdWork
  split
  · refine List.foldlRecOn (motive := fun t => Writes holdRest s t ∧ t.heldCmds = s.heldCmds) _ _ ⟨.refl _ _, rfl⟩ fun b hb p hp => ?_
    rw [State.stage_openShare _ _ (hpart p hp)]
    exact ⟨Writes.put (t := b.withStaged _) hb.1 (by simp [holdRest]) (Field.has_below rfl (hpart p hp)) _, hb.2⟩
  · split
    · exact ⟨(Writes.refl _ s).put (by simp [holdRest]) (Field.has_below rfl (show i - 3 < 8 by omega)) _, rfl⟩
    · exact ⟨.refl _ _, rfl⟩

theorem State.holdDown_effect (s : State) (hi : i < 11) {t : State} (ht : s.holdDown i = t) : t.rd F.FW_PROC_STAT.pstate i = 2 ∧
    bit (t.rd F.FW_GSTAT.held) i = true ∧ t.rd F.FW_GSTAT.hold_evt = 1 ∧
      t.rd F.FW_PROC_CNT.win_crashes i = s.rd F.FW_PROC_CNT.win_crashes i ∧ ∀ h ∈ t.heldCmds, h.owner ≠ i := by
  obtain ⟨hside1, hw1, -⟩ := s.procStops_keeps i
  rw [State.holdDown_eq] at ht
  generalize hv : s.procStops i = v at *
  obtain ⟨hpst, hheld, hevt, hwin⟩ := v.showHeld_effect hi
  obtain ⟨hw2, hside2⟩ := ((v.showHeld i).showFault (v.put F.FW_PROC_STAT.pstate 2 i)).tellHeld_effect i
  generalize hu : ((v.showHeld i).showFault (v.put F.FW_PROC_STAT.pstate 2 i)).tellHeld i = u at *
  obtain ⟨hw3, hcmds3⟩ := (u.logRec i 3 0 ((u.proc i).crashes.take 3)).busyHeld_effect i
  obtain ⟨hw4, hcmds4⟩ := ((u.logRec i 3 0 ((u.proc i).crashes.take 3)).busyHeld i).holdWork_effect hi
  have hw : Writes holdRest ((v.showHeld i).showFault (v.put F.FW_PROC_STAT.pstate 2 i)) t := by
    rw [← ht]
    exact ((hw2.logRec _ _ _ _).trans (hw3.mono fun f hf => by simp [holdRest, hf])).trans hw4
  have hrd : ∀ g j, g.Has j → (∀ f ∈ holdRest, g.clear f = true) → t.rd g j = (v.showHeld i).rd g j :=
    fun g j hg hc => (hw g j hg hc).trans (State.rd_showFault _ _ _ _)
  refine ⟨?_, ?_, ?_, ?_, ?_⟩
  · rw [hrd _ _ (Field.has_below rfl hi) (by decide), hpst]
  · rw [hrd _ _ (Field.has_zero (by decide) rfl) (by decide), hheld]
  · rw [hrd _ _ (Field.has_zero (by decide) rfl) (by decide), hevt]
  · rw [hrd _ _ (Field.has_below rfl hi) (by decide), hwin, hw1 _ i (Field.has_below rfl hi) (by decide)]
  · rw [← ht, hcmds4, hcmds3]
    exact fun h hh => by simpa using (List.mem_filter.1 hh).2

end Sys2Proof.Machine

/-! SUPPORT. What a crash, a release and a requested restart come to (R415, R416, R420, R421). -/

namespace Sys2Proof.Machine

open Sys2Proof.Safety

variable {s t u : State} {i c : Nat}

/-! ## Crashes -/

/-- A crashed processor restarts: its cause, its counts, and what stands (R416, R420). -/
def Crashed (s : State) (i c : Nat) (t : State) : Prop :=
  t.rd F.FW_PROC_STAT.pstate i = 1 ∧ t.rd F.FW_PROC_STAT.last_cause i = c ∧ t.rd F.FW_PROC_STAT.crash_evt i = 1 ∧
    t.rd F.FW_PROC_CNT.crashes i = satAdd 16 (s.rd F.FW_PROC_CNT.crashes i) 1 ∧
    t.rd F.FW_PROC_CNT.win_crashes i = (s.crashWindow i).length + 1 ∧ bit (t.rd F.FW_GSTAT.down) i = true ∧
    (t.proc i).crashes = s.nowNs :: s.crashWindow i ∧ (t.proc i).downAt = s.nowNs ∧ t.cells = s.cells ∧ t.seqs = s.seqs

/-- A processor is held down, and none of its commands waits (R418, R420). -/
def HeldDown (i : Nat) (t : State) : Prop :=
  t.rd F.FW_PROC_STAT.pstate i = 2 ∧ bit (t.rd F.FW_GSTAT.held) i = true ∧ t.rd F.FW_GSTAT.hold_evt = 1 ∧
    t.rd F.FW_PROC_CNT.win_crashes i = 3 ∧ ∀ h ∈ t.heldCmds, h.owner ≠ i

theorem State.crash_restarts (s : State) (hi : i < 11) (hc : c < 8) (hp : (s.proc i).prevSect = none) (hwin : (s.crashWindow i).length < 2) :
    Crashed s i c (s.crash i c) := by
  obtain ⟨v, ⟨hevt, hcnt, hw3, hcr, -, hside, -⟩, -, heq⟩ := s.crash_cases hi c hp
  obtain ⟨hpst, -, hdown, hcr', hat, hside', hw⟩ := v.restart_effect hi hc
  rw [heq hwin]
  generalize v.restart i c = t at *
  have hproc : (t.put F.FW_PROC_STAT.last_cause c i).proc i = t.proc i := State.proc_congr (State.put_procs _ _ _ _) i
  obtain ⟨hcells, hseqs, -⟩ := hside.trans hside'
  refine ⟨?_, ?_, ?_, ?_, ?_, ?_, ?_, ?_, hcells, hseqs⟩
  · rw [State.rd_put_apart _ (by decide), hpst]
  · rw [State.rd_put_same]
    exact Nat.mod_eq_of_lt (lt_of_lt_of_le hc (by decide))
  · rw [State.rd_put_apart _ (by decide), hw _ i (Field.has_below rfl hi) (by decide), hevt]
  · rw [State.rd_put_apart _ (by decide), hw _ i (Field.has_below rfl hi) (by decide), hcnt]
  · rw [State.rd_put_apart _ (by decide), hw _ i (Field.has_below rfl hi) (by decide), hw3]
    omega
  · rw [State.rd_put_clear _ (g := F.FW_GSTAT.down) (f := F.FW_PROC_STAT.last_cause) (by decide) (Field.has_zero (by decide) rfl)
      (Field.has_below rfl hi), hdown]
  · rw [hproc, hcr', hcr]
  · rw [hproc, hat, hside.nowNs]

theorem State.crash_holds (s : State) (hi : i < 11) (hp : (s.proc i).prevSect = none) (hwin : 2 ≤ (s.crashWindow i).length) :
    HeldDown i (s.crash i c) := by
  obtain ⟨v, ⟨-, -, hw3, -⟩, heq, -⟩ := s.crash_cases hi c hp
  rw [heq hwin]
  obtain ⟨hpst, hheld, hevt, hwc, hcmds⟩ := v.holdDown_effect hi rfl
  exact ⟨hpst, hheld, hevt, by rw [hwc, hw3]; omega, hcmds⟩

/-- The state in which processor `i` crashes with cause `c`. -/
def State.crashBase (s : State) (c : Nat) : State := if c = 3 then s.withSramUe (some s.nowNs) else s

theorem State.crashBase_cases (s : State) (c : Nat) : s.crashBase c = s ∨ s.crashBase c = s.withSramUe (some s.nowNs) := by
  unfold State.crashBase
  split
  · exact .inr rfl
  · exact .inl rfl

theorem Crashed.of_sramUe {v : Option Nat} (h : Crashed (s.withSramUe v) i c t) : Crashed s i c t := by
  have hnow : (s.withSramUe v).nowNs = s.nowNs := by rw [State.nowNs, State.nowNs, State.withSramUe_time]
  have hwin : (s.withSramUe v).crashWindow i = s.crashWindow i := by
    rw [State.crashWindow, State.crashWindow, hnow]
    rfl
  unfold Crashed at h
  rw [hnow, hwin] at h
  exact h

theorem State.crashBase_restarts (s : State) (hi : i < 11) (hc : c < 8) (hp : (s.proc i).prevSect = none)
    (hwin : (s.crashWindow i).length < 2) : Crashed s i c ((s.crashBase c).crash i c) := by
  rcases s.crashBase_cases c with h | h <;> rw [h]
  · exact s.crash_restarts hi hc hp hwin
  · refine .of_sramUe ((s.withSramUe _).crash_restarts hi hc hp ?_)
    rwa [State.crashWindow, State.nowNs, State.withSramUe_time]

theorem State.crashBase_holds (s : State) (hi : i < 11) (hp : (s.proc i).prevSect = none) (hwin : 2 ≤ (s.crashWindow i).length) :
    HeldDown i ((s.crashBase c).crash i c) := by
  rcases s.crashBase_cases c with h | h <;> rw [h]
  · exact s.crash_holds hi hp hwin
  · refine (s.withSramUe _).crash_holds hi hp ?_
    rwa [State.crashWindow, State.nowNs, State.withSramUe_time]

/-- The four crashes of a processor: cause, occasion, instruction (R415). -/
noncomputable def crashKinds (s : State) (i : Fin 11) : List (Nat × Prop × Instr) :=
  [(1, (s.procUp i = true ∧ (s.proc i).dbgHalt = false ∧ (s.proc i).wdDue ≤ s.nowNs), Instr.watchdogExpiry i),
   (2, (s.rd F.FW_PROC_STAT.pstate i < 2 ∧ (s.proc i).dbgHalt = false), Instr.fwException i),
   (3, s.rd F.FW_PROC_STAT.pstate i < 2, Instr.fwSramUe i),
   (4, (s.starting i = true ∧ (s.proc i).downAt + 20000000 ≤ s.nowNs), Instr.restartTimeout i)]

theorem exec_crash {i : Fin 11} {occ : Prop} {ins : Instr} (h : (c, occ, ins) ∈ crashKinds s i) (hocc : occ) :
    c < 8 ∧ exec ins s = .next ((s.crashBase c).crash i c) := by
  simp only [crashKinds, List.mem_cons, Prod.mk.injEq, List.not_mem_nil, or_false] at h
  rcases h with ⟨rfl, rfl, rfl⟩ | ⟨rfl, rfl, rfl⟩ | ⟨rfl, rfl, rfl⟩ | ⟨rfl, rfl, rfl⟩
  · obtain ⟨hup, hdbg, hdue⟩ := hocc
    refine ⟨by decide, ?_⟩
    show execWatchdogExpiry i s = _
    rw [execWatchdogExpiry, State.reach_eq_some hdue, if_pos (by simp [hup, hdbg])]
    rfl
  · obtain ⟨hon, hdbg⟩ := hocc
    refine ⟨by decide, ?_⟩
    show execFwException i s = _
    rw [execFwException, if_pos (by simp [State.procOn, hon, hdbg])]
    rfl
  · refine ⟨by decide, ?_⟩
    show execFwSramUe i s = _
    rw [execFwSramUe, if_pos (by simp [State.procOn, hocc])]
    rfl
  · obtain ⟨hst, hdue⟩ := hocc
    refine ⟨by decide, ?_⟩
    show execRestartTimeout i s = _
    rw [execRestartTimeout, State.reach_eq_some hdue, if_pos hst]
    rfl

theorem exec_watchdogExpiry_later {i : Fin 11} (he : s.time.edges = true) (h : (s.nowNs / 125000 + 1) * 125000 ≤ (s.proc i).wdDue) :
    exec (.watchdogExpiry i) s = .next s := by
  show execWatchdogExpiry i s = _
  rw [execWatchdogExpiry, State.reach_eq_none he h]
  exact congrArg Host.Outcome.next (ite_self _)

theorem exec_crash_off {i : Fin 11} (h : 2 ≤ s.rd F.FW_PROC_STAT.pstate i) :
    exec (.fwException i) s = .next s ∧ exec (.fwSramUe i) s = .next s := by
  have hoff : s.procOn i = false := decide_eq_false (Nat.not_lt.2 h)
  constructor
  · show execFwException i s = _
    rw [execFwException, hoff]
    rfl
  · show execFwSramUe i s = _
    rw [execFwSramUe, hoff]
    rfl

/-! ## Release and requested restarts (R421) -/

/-- The state of a released processor before it restarts. -/
def State.released (s : State) (i : Nat) : State :=
  let u := (s.setProc i { s.proc i with crashes := [] }).put F.FW_PROC_CNT.win_crashes 0 i
  ((u.clrf F.FW_GSTAT.held (2 ^ i)).showFault u).logRec i 4 3 [0]

theorem State.released_effect (s : State) (hi : i < 11) : bit ((s.released i).rd F.FW_GSTAT.held) i = false ∧
    ((s.released i).proc i).crashes = [] ∧ (s.released i).rd F.FW_PROC_CNT.win_crashes i = 0 := by
  unfold State.released
  extract_lets _ u
  have hcr : (u.proc i).crashes = [] := by
    rw [show u.proc i = _ from State.proc_setProc _ _ _]
  have hwin : u.rd F.FW_PROC_CNT.win_crashes i = 0 := by
    rw [show u = State.put _ _ _ _ from rfl, State.rd_put_same]
    rfl
  clear_value u
  obtain ⟨hcr', -⟩ := Proc.eq_of_noLog (((u.clrf F.FW_GSTAT.held (2 ^ i)).showFault u).logRec_noLog i i 4 3 [0])
  refine ⟨?_, ?_, ?_⟩
  · rw [State.rd_logRec, State.rd_showFault]
    exact u.bit_clrf_same _ _ hi
  · rw [hcr', showFault_eq]
    exact hcr
  · rw [State.rd_logRec, State.rd_showFault, State.clrf, State.rd_put_apart _ (by decide), hwin]

theorem exec_release {wr : Writer} {i : Fin 11} (hw : s.mayWrite wr F.FW_PROC_CTRL.release i = true)
    (hp : s.rd F.FW_PROC_STAT.pstate i = 2) : exec (.release wr i) s = .next ((s.released i).restart i 7) :=
  congrArg Host.Outcome.next (if_pos ⟨hw, hp⟩)

theorem exec_restartReq {wr : Writer} {i : Fin 11} (hw : s.mayWrite wr F.FW_PROC_CTRL.restart_req i = true)
    (hp : s.rd F.FW_PROC_STAT.pstate i = 0) : exec (.restartReq wr i) s = .next ((s.logRec i 4 3 [1]).restart i 6) :=
  congrArg Host.Outcome.next (if_pos (by simp [hw, hp]))

theorem restarted_after_release (s : State) (hi : i < 11) : let t := (s.released i).restart i 7
    t.rd F.FW_PROC_STAT.pstate i = 1 ∧ t.rd F.FW_PROC_STAT.last_cause i = 7 ∧ bit (t.rd F.FW_GSTAT.held) i = false ∧
      (t.proc i).crashes = [] ∧ t.rd F.FW_PROC_CNT.win_crashes i = 0 := by
  obtain ⟨hheld, hcr, hwin⟩ := s.released_effect hi
  obtain ⟨hpst, hcause, -, hcr', -, -, hw⟩ := (s.released i).restart_effect (cause := 7) hi (by decide)
  refine ⟨hpst, hcause, ?_, hcr'.trans hcr, ?_⟩
  · rw [hw _ 0 (Field.has_zero (by decide) rfl) (by decide), hheld]
  · rw [hw _ i (Field.has_below rfl hi) (by decide), hwin]

theorem restarted_on_request (s : State) (hi : i < 11) : let t := (s.logRec i 4 3 [1]).restart i 6
    t.rd F.FW_PROC_STAT.pstate i = 1 ∧ t.rd F.FW_PROC_STAT.last_cause i = 6 ∧ (t.proc i).crashes = (s.proc i).crashes ∧
      bit (t.rd F.FW_GSTAT.down) i = true := by
  obtain ⟨hpst, hcause, hdown, hcr, -⟩ := (s.logRec i 4 3 [1]).restart_effect (cause := 6) hi (by decide)
  obtain ⟨hcr', -⟩ := Proc.eq_of_noLog (s.logRec_noLog i i 4 3 [1])
  exact ⟨hpst, hcause, hcr.trans hcr', hdown⟩

end Sys2Proof.Machine

/-! SUPPORT. A processor comes back (R364, R417, R418, R423): what waited for it goes on, and its record, cells and sequences stand. -/

namespace Sys2Proof.Machine

open Sys2Proof.Safety

variable {s t u : State} {i : Nat}

/-- The register fields that a return to service may write. -/
def backFields : List Field :=
  logFields ++ routeFields ++ [F.SEC_KEYS.slots_loaded, F.SEC_KEYS.key_loads, F.SEC_STAT.key_pend, F.MGT_THR.share, F.FAB_STAT.route_rebuilt,
    F.SRV_PART.adm_refuse]

/-- What a return to service leaves: the processors' records, held commands, cells, sequences, and every other register field. -/
def Back (s t : State) : Prop :=
  t.procs = s.procs ∧ t.heldCmds = s.heldCmds ∧ t.cells = s.cells ∧ t.seqs = s.seqs ∧ Writes backFields s t

theorem Back.refl (s : State) : Back s s := ⟨rfl, rfl, rfl, rfl, .refl _ s⟩

theorem Back.put (h : Back s t) {f : Field} (hf : f ∈ backFields) {i : Nat} (hi : f.Has i) (v : Nat) : Back s (t.put f v i) := by
  obtain ⟨hp, hh, hc, hq, hw⟩ := h
  exact ⟨hp, hh, hc, hq, hw.put hf hi v⟩

theorem Back.ite {c : Prop} [Decidable c] (h : Back s t) (k : Back s u) : Back s (if c then t else u) := by
  split
  · exact h
  · exact k

theorem Back.foldl {α : Type} {g : State → α → State} (l : List α) (h : Back s t) (hg : ∀ b, ∀ a ∈ l, Back s b → Back s (g b a)) :
    Back s (l.foldl g t) := List.foldlRecOn l g h fun b hb a ha => hg b a ha hb

theorem Back.withMgt (h : Back s t) (v : MgtState) : Back s (t.withMgt v) := h

theorem Back.withKeys (h : Back s t) (v : KMap KeySlot) : Back s (t.withKeys v) := h

theorem Back.drawn (h : Back s t) : Back s t.drawn := h

theorem Back.withBring (h : Back s t) (v : Bring) : Back s (t.withBring v) := h

theorem Back.withRoutes (h : Back s t) (v : KMap Route) : Back s (t.withRoutes v) := h

theorem Back.showFault (h : Back s t) (o : State) : Back s (t.showFault o) := by
  rw [showFault_eq]
  exact h

/-- The fields of one element each that a return to service may write. -/
theorem backFields_zero {f : Field} (h : f ∈ logFields ∨ f = F.SEC_KEYS.slots_loaded ∨ f = F.SEC_KEYS.key_loads ∨ f = F.SEC_STAT.key_pend ∨
    f = F.MGT_THR.share ∨ f = F.FAB_STAT.route_rebuilt ∨ f = F.NOC_STAT.route_rebuilt) : f ∈ backFields ∧ f.Has 0 := by
  simp only [logFields, List.mem_cons, List.not_mem_nil, or_false, or_assoc] at h
  rcases h with rfl | rfl | rfl | rfl | rfl | rfl | rfl | rfl | rfl | rfl <;>
    exact ⟨by simp [backFields, logFields, routeFields], Field.has_zero (by decide) rfl⟩

theorem Back.put0 (h : Back s t) {f : Field} (hf : f ∈ logFields ∨ f = F.SEC_KEYS.slots_loaded ∨ f = F.SEC_KEYS.key_loads ∨
    f = F.SEC_STAT.key_pend ∨ f = F.MGT_THR.share ∨ f = F.FAB_STAT.route_rebuilt ∨ f = F.NOC_STAT.route_rebuilt) (v : Nat) : Back s (t.put f v) :=
  h.put (backFields_zero hf).1 (backFields_zero hf).2 v

/-! ## What waited for Cairn -/

theorem Back.writeRec (h : Back s t) (r : EvRec) : Back s (t.writeRec r) := by
  unfold State.writeRec
  extract_lets r' _ m b c d
  have hc : Back s c := Back.put0 (t := b) (f := F.MGT_LOG_STAT.evt_count) (h.withMgt m) (.inl (by simp [logFields])) _
  have hd : Back s d := Back.put0 (f := F.MGT_LOG_STAT.evt_seq) hc (.inl (by simp [logFields])) _
  exact .ite ((hd.put0 (f := F.MGT_LOG_STAT.svc_evt) (.inl (by simp [logFields])) 1).showFault d) hd

theorem Back.flushEvents (h : Back s t) : Back s t.flushEvents := by
  unfold State.flushEvents
  exact .foldl _ (h.withMgt _) fun b r _ hb => hb.writeRec r

theorem Back.setKey (h : Back s t) (k : Nat) (x : KeySlot) : Back s (t.setKey k x) := by
  unfold State.setKey
  extract_lets was v
  have hv : Back s v := h.withKeys _
  exact .ite hv (.ite (hv.put0 (by simp) _) (hv.put0 (by simp) _))

theorem Back.showPend (h : Back s t) : Back s t.showPend := by
  unfold State.showPend
  exact h.put0 (by simp) _

theorem Back.loadKey (h : Back s t) (k : Nat) : Back s (t.loadKey k) := by
  unfold State.loadKey State.bump
  exact .ite h (.ite ((h.setKey k _).put0 (by simp) _).showPend (h.setKey k _).showPend)

theorem Back.firstKey (h : Back s t) (k : Nat) : Back s (t.firstKey k) := by
  unfold State.firstKey State.bump
  exact .ite h (.ite ((h.setKey k _).put0 (by simp) _).showPend (h.setKey k _).showPend)

theorem Back.pendingKeys (h : Back s t) : Back s t.pendingKeys := by
  unfold State.pendingKeys
  exact .foldl _ h fun b k _ hb => .ite (hb.loadKey k.1) (hb.firstKey k.1)

theorem Back.syncBoot (h : Back s t) : Back s t.syncBoot := by
  unfold State.syncBoot
  extract_lets b0 b1 b2
  exact h.withBring _

theorem Back.reroute (h : Back s t) (rs : List Nat) : Back s (t.reroute rs) := by
  unfold State.reroute
  refine Back.put0 (.foldl _ h fun b d hd hb => ?_) (by simp) 1
  have hlt : d < 32 := List.mem_range.1 (List.mem_filter.1 hd).1
  have hput : ∀ {b : State} {f : Field}, Back s b → f ∈ backFields ∧ f.Has d → ∀ v, Back s (b.put f v d) := fun hb hf v =>
    hb.put hf.1 hf.2 v
  exact (hput (hput (hput hb ⟨by simp [backFields, routeFields], Field.has_below rfl hlt⟩ _)
    ⟨by simp [backFields, routeFields], Field.has_below rfl hlt⟩ _) ⟨by simp [backFields, routeFields], Field.has_below rfl hlt⟩ _).drawn

/-! ## What waited for the others -/

theorem Back.rebuildRoutes (h : Back s t) : Back s t.rebuildRoutes := by
  unfold State.rebuildRoutes
  extract_lets changed v
  have hv : Back s v := h.withRoutes _
  exact .ite (hv.put0 (by simp) 1) hv

theorem Back.refuseAdm (h : Back s t) {p : Nat} (hp : p < 8) : Back s (t.refuseAdm p) := by
  unfold State.refuseAdm
  exact h.put (by simp [backFields]) (Field.has_below rfl hp) _

/-- Where no command is held, none runs. -/
theorem State.runHeld_nil (h : s.heldCmds = []) (owner i : Nat) : s.runHeld owner i = s := by
  unfold State.runHeld
  rw [h]
  show s.withHeldCmds [] = s
  rw [← h]
  rfl

theorem State.resumeService_back (s : State) (hi : i < 11) (hheld : s.heldCmds = []) : Back s (s.resumeService i) := by
  have hgone : ∀ {t : State}, Back s t → t.heldCmds = [] := fun h => h.2.1.trans hheld
  unfold State.resumeService
  extract_lets a b bad c v w
  have hv : Back s v := by
    unfold v
    refine .ite ?_ (.ite (Back.refl s).rebuildRoutes ?_)
    · have hb : Back s b := .ite (Back.refl s).flushEvents.pendingKeys.syncBoot (Back.refl s).flushEvents.pendingKeys
      exact Back.put0 (.ite (hb.reroute bad) hb) (by simp) _
    · by_cases h3 : 3 ≤ i
      · rw [if_pos h3]
        exact (Back.refl s).refuseAdm (show i - 3 < 8 by omega)
      · rw [if_neg h3]
        exact .refl s
  have hw : w = v := State.runHeld_nil (hgone hv) i i
  rw [hw, State.runHeld_nil (hgone hv), ite_self]
  exact hv

/-! ## The ready mark (R416, R423) -/

theorem State.rd_setProc (s : State) (i : Nat) (x : Proc) (g : Field) (j : Nat) : (s.setProc i x).rd g j = s.rd g j :=
  State.rd_withProcs _ _ _ _

theorem FwSide.setProc (h : FwSide s t) (i : Nat) (x : Proc) : FwSide s (t.setProc i x) := h

/-- A processor whose restart is over runs, its log and watchdog with it. -/
def State.readyMark (s : State) (i : Nat) : State :=
  let u := (s.put F.FW_PROC_STAT.pstate 0 i).clrf F.FW_GSTAT.down (2 ^ i)
  let v := u.setProc i { u.proc i with newCrashes := 0, mail := [] }
  (v.setProc i { v.proc i with prevSect := none }).kick i

theorem exec_fwReady {i : Fin 11} (hst : s.starting i = true) (hupd : s.rd F.FW_UPDATE.upd_state ≠ 1) :
    exec (.fwReady i) s = .next ((s.readyMark i).resumeService i) := by
  have hsame : ∀ u : State, u.rd F.FW_UPDATE.upd_state = s.rd F.FW_UPDATE.upd_state → u.updateReady i = u := fun u hu =>
    if_pos (hu.symm ▸ hupd)
  have hkeep : ((s.put F.FW_PROC_STAT.pstate 0 i).clrf F.FW_GSTAT.down (2 ^ i.val)).rd F.FW_UPDATE.upd_state = s.rd F.FW_UPDATE.upd_state := by
    rw [State.clrf, State.rd_put_clear _ (f := F.FW_GSTAT.down) (by decide) (Field.has_zero (by decide) rfl)
      (Field.has_zero (by decide) rfl), State.rd_put_clear _ (f := F.FW_PROC_STAT.pstate) (by decide) (Field.has_zero (by decide) rfl)
      (Field.has_below rfl i.isLt)]
  refine congrArg Host.Outcome.next ((if_pos hst).trans ?_)
  unfold State.readyMark
  extract_lets u _ v _ v'
  have hv : v = v' := hsame v' ((State.rd_setProc _ _ _ _ _).trans hkeep)
  exact congrArg (fun x : State => ((x.setProc i { x.proc i with prevSect := none }).kick i).resumeService i) hv

theorem State.readyMark_effect (s : State) (hi : i < 11) : (s.readyMark i).rd F.FW_PROC_STAT.pstate i = 0 ∧
    bit ((s.readyMark i).rd F.FW_GSTAT.down) i = false ∧
      ((s.readyMark i).proc i).wdDue = s.nowNs + s.rd F.FW_PROC_CTRL.wd_ms i * 1000000 ∧ ((s.readyMark i).proc i).prevSect = none ∧
        FwSide s (s.readyMark i) := by
  have hproc : F.FW_PROC_STAT.pstate.Has i := Field.has_below rfl hi
  unfold State.readyMark
  extract_lets u _ v
  have hpst : u.rd F.FW_PROC_STAT.pstate i = 0 := by
    rw [show u = State.clrf _ _ _ from rfl, State.clrf, State.rd_put_clear _ (f := F.FW_GSTAT.down) (by decide) hproc
      (Field.has_zero (by decide) rfl), State.rd_put_same]
    rfl
  have hdown : bit (u.rd F.FW_GSTAT.down) i = false := State.bit_clrf_same _ _ _ hi
  have hwd : u.rd F.FW_PROC_CTRL.wd_ms i = s.rd F.FW_PROC_CTRL.wd_ms i := by
    rw [show u = State.clrf _ _ _ from rfl, State.clrf, State.rd_put_clear _ (f := F.FW_GSTAT.down) (by decide) (Field.has_below rfl hi)
      (Field.has_zero (by decide) rfl), State.rd_put_apart _ (by decide)]
  have hside : FwSide s u := ⟨rfl, rfl, rfl, rfl, rfl⟩
  clear_value u
  unfold State.kick
  refine ⟨?_, ?_, ?_, ?_, ((hside.setProc i _).setProc i _).setProc i _⟩
  · rw [State.rd_setProc, State.rd_setProc, State.rd_setProc, hpst]
  · rw [State.rd_setProc, State.rd_setProc, State.rd_setProc, hdown]
  · rw [State.proc_setProc, State.rd_setProc, State.rd_setProc, hwd, ((hside.setProc i _).setProc i _).nowNs]
  · rw [State.proc_setProc, State.proc_setProc]

theorem fwReady_effect (s : State) (hi : i < 11) (hheld : s.heldCmds = []) : let t := (s.readyMark i).resumeService i
    t.rd F.FW_PROC_STAT.pstate i = 0 ∧ bit (t.rd F.FW_GSTAT.down) i = false ∧
      (t.proc i).wdDue = s.nowNs + s.rd F.FW_PROC_CTRL.wd_ms i * 1000000 ∧ (t.proc i).prevSect = none ∧ t.cells = s.cells ∧ t.seqs = s.seqs := by
  obtain ⟨hpst, hdown, hwd, hps, hcells, hseqs, hcmds, -⟩ := s.readyMark_effect hi
  obtain ⟨hp, -, hc, hq, hw⟩ := (s.readyMark i).resumeService_back hi (hcmds.trans hheld)
  refine ⟨?_, ?_, ?_, ?_, hc.trans hcells, hq.trans hseqs⟩
  · rw [hw _ i (Field.has_below rfl hi) (by decide), hpst]
  · rw [hw _ 0 (Field.has_zero (by decide) rfl) (by decide), hdown]
  · rw [State.proc_congr hp, hwd]
  · rw [State.proc_congr hp, hps]

theorem exec_starting_off {i : Fin 11} (h : s.starting i = false) : exec (.fwReady i) s = .next s ∧ exec (.restartTimeout i) s = .next s := by
  constructor
  · show execFwReady i s = _
    rw [execFwReady, h]
    rfl
  · show execRestartTimeout i s = _
    rw [execRestartTimeout, h]
    rfl

/-! ## Leadership (R33, R34) -/

theorem exec_leadershipPass_off (h : s.inCol = false) : exec .leadershipPass s = .next s := by
  show Host.Outcome.next (s.atBoundary State.passLead) = _
  rw [State.atBoundary, h]
  rfl

theorem exec_leadershipPass {p q : Nat} (hcol : s.inCol = true) (hlead : s.leader = some p) (hcoord : s.coord = some q) (hne : q ≠ p)
    (hrun : s.seqRuns p = true) (hheld : s.heldCmds = []) : exec .leadershipPass s = .next (s.withCoord (some p)) := by
  have hstays : ¬(s.coord = some p ∨ s.coord = none ∨ (!s.seqRuns p) = true) := by
    rw [hcoord, hrun]
    simp [hne]
  have hpass : s.passLead = s.withCoord (some p) := by
    unfold State.passLead
    rw [hlead]
    dsimp only
    rw [if_neg hstays, State.runHeld_nil (s := s.withCoord (some p)) hheld]
    exact ite_self _
  show Host.Outcome.next (s.atBoundary State.passLead) = _
  rw [State.atBoundary, if_pos hcol, hpass]

theorem exec_leadershipPass_same (h : s.leader = s.coord) : exec .leadershipPass s = .next s := by
  have hpass : s.passLead = s := by
    unfold State.passLead
    rw [h]
    cases hc : s.coord with
    | none => rfl
    | some p => exact if_pos (.inl rfl)
  show Host.Outcome.next (s.atBoundary State.passLead) = _
  rw [State.atBoundary, hpass]
  exact congrArg Host.Outcome.next (ite_self _)

/-! ## The boot record (R425) -/

/-- The boot record that Cairn writes for the registers of `s` (R425). -/
theorem State.syncBoot_slot (h : s.bring.boot.onTrial = false) : s.syncBoot.bring.boot.bootSlot = s.rd F.FW_IMAGE.boot_slot ∧
    s.syncBoot.bring.boot.confirmed = s.bring.boot.confirmed ∧ s.syncBoot.bring.boot.onTrial = false := by
  unfold State.syncBoot
  by_cases hslot : s.rd F.FW_IMAGE.boot_slot = s.bring.boot.bootSlot
  · simp [hslot, h]
  · simp [hslot, h]

theorem State.syncBoot_confirm (h : s.bring.boot.onTrial = true) (ht : s.rd F.FW_IMAGE.trial = 0) :
    s.syncBoot.bring.boot.confirmed = some (s.rd F.FW_IMAGE.cur_slot) ∧ s.syncBoot.bring.boot.onTrial = false := by
  have hoff : s.on F.FW_IMAGE.trial = false := by
    rw [State.on, ht]
    rfl
  unfold State.syncBoot
  by_cases hslot : s.rd F.FW_IMAGE.boot_slot = s.bring.boot.bootSlot
  · simp [hslot, h, hoff]
  · simp [hslot, h, hoff]

theorem State.bootWrite_regs (s : State) : s.bootWrite = s.withBring s.bootWrite.bring := by
  unfold State.bootWrite State.syncBoot
  split
  · rfl
  · rfl

theorem State.bootWrite_up (h : s.procUp cairn = true) : s.bootWrite = s.syncBoot := if_pos h

theorem State.bootWrite_down (h : s.procUp cairn = false) : s.bootWrite = s := by
  rw [State.bootWrite, h]
  rfl

theorem State.put_bootWrite_only (s : State) (f : Field) (v : Nat) :
    Only s (s.put f v).bootWrite [(f, 0)] (·.withBring (s.put f v).bootWrite.bring) := by
  have hregs : ((s.put f v).bootWrite).regs = (s.put f v).regs := by rw [State.bootWrite_regs, State.withBring_regs]
  have hsame : RegsSame s (s.put f v).bootWrite [(f, 0)] := by
    intro g j hg
    rw [State.rd_congr hregs]
    exact regsSame_put (regsSame_refl s _) (by simp) _ g j hg
  refine ⟨?_, hsame⟩
  conv_lhs => rw [State.bootWrite_regs]
  rw [hregs]
  rfl

theorem exec_bootSlotWrite {wr : Writer} {slot : Fin 2} (hw : s.mayWrite wr F.FW_IMAGE.boot_slot 0 = true) (h3 : 3 ≤ s.rd F.RST_STAT.step) :
    ∃ t, exec (.bootSlotWrite wr slot) s = .next t ∧ t.rd F.FW_IMAGE.boot_slot = slot.val ∧
      (s.procUp cairn = true → s.bring.boot.onTrial = false → t.bring.boot.bootSlot = slot.val ∧
        t.bring.boot.confirmed = s.bring.boot.confirmed ∧ t.bring.boot.onTrial = false) ∧
      (s.procUp cairn = false → t.bring = s.bring) ∧ Only s t [(F.FW_IMAGE.boot_slot, 0)] (·.withBring t.bring) := by
  have hslot : (s.put F.FW_IMAGE.boot_slot slot.val).rd F.FW_IMAGE.boot_slot = slot.val := by
    rw [State.rd_put_same]
    exact Nat.mod_eq_of_lt (lt_of_lt_of_le slot.isLt (by decide))
  have hup : (s.put F.FW_IMAGE.boot_slot slot.val).procUp cairn = s.procUp cairn := by
    rw [State.procUp, State.procUp, State.rd_put_clear _ (f := F.FW_IMAGE.boot_slot) (by decide) (Field.has_below rfl (show cairn < 11 by decide))
      (Field.has_zero (by decide) rfl)]
    rfl
  refine ⟨_, congrArg Host.Outcome.next (if_pos (by simp [hw, h3])), ?_, fun hc hon => ?_, fun hc => ?_, s.put_bootWrite_only _ _⟩
  · rw [State.bootWrite_regs, State.rd_withBring, hslot]
  · rw [State.bootWrite_up (hup.trans hc)]
    obtain ⟨hs, hcf, ht⟩ := State.syncBoot_slot (s := s.put F.FW_IMAGE.boot_slot slot.val) hon
    exact ⟨hs.trans hslot, hcf, ht⟩
  · rw [State.bootWrite_down (hup.trans hc)]
    rfl

theorem exec_confirm {wr : Writer} (hw : s.mayWrite wr F.FW_IMAGE.confirm 0 = true) (hr : s.ready = true) :
    ∃ t, exec (.confirm wr) s = .next t ∧ t.rd F.FW_IMAGE.trial = 0 ∧
      (s.procUp cairn = true → s.bring.boot.onTrial = true → t.bring.boot.confirmed = some (s.rd F.FW_IMAGE.cur_slot) ∧
        t.bring.boot.onTrial = false) ∧
      (s.procUp cairn = false → t.bring = s.bring) ∧ Only s t [(F.FW_IMAGE.trial, 0)] (·.withBring t.bring) := by
  have htrial : (s.put F.FW_IMAGE.trial 0).rd F.FW_IMAGE.trial = 0 := State.rd_put_same _ _ _ _
  have hup : (s.put F.FW_IMAGE.trial 0).procUp cairn = s.procUp cairn := by
    rw [State.procUp, State.procUp, State.rd_put_clear _ (f := F.FW_IMAGE.trial) (by decide) (Field.has_below rfl (show cairn < 11 by decide))
      (Field.has_zero (by decide) rfl)]
    rfl
  refine ⟨_, congrArg Host.Outcome.next (if_pos (by simp [hw, hr])), ?_, fun hc hon => ?_, fun hc => ?_, s.put_bootWrite_only _ _⟩
  · rw [State.bootWrite_regs, State.rd_withBring, htrial]
  · rw [State.bootWrite_up (hup.trans hc)]
    obtain ⟨hs, ht⟩ := State.syncBoot_confirm (s := s.put F.FW_IMAGE.trial 0) hon htrial
    refine ⟨hs.trans (congrArg some ?_), ht⟩
    exact State.rd_put_clear _ (f := F.FW_IMAGE.trial) (by decide) (Field.has_zero (by decide) rfl) (Field.has_zero (by decide) rfl) _
  · rw [State.bootWrite_down (hup.trans hc)]
    rfl

end Sys2Proof.Machine

open Sys2Proof Sys2Proof.Machine Sys2Proof.Safety in
/-- Settles O45: a crash, a release and a requested restart each by what they write, and what they leave, of the registers and of the
processor's record; the ready mark by what the work that waited leaves alone. -/
theorem firmwareCrashesRestartsAndHoldDown : Obligations.FirmwareCrashesRestartsAndHoldDown := by
  unfold Obligations.FirmwareCrashesRestartsAndHoldDown
  intro s i wr slot p win kicked
  refine ⟨fun hup hdbg => ?_, fun hup => ⟨?_, ?_⟩, fun c occ ins hmem hocc => ⟨fun hwin hp => ?_, fun hwin hp => ?_⟩,
    exec_watchdogExpiry_later, exec_crash_off, fun hw hp => ⟨_, exec_release hw hp, restarted_after_release s i.isLt⟩, fun hp => ?_,
    fun hw hp => ⟨_, exec_restartReq hw hp, restarted_on_request s i.isLt⟩,
    fun hst hheld hupd => ⟨_, exec_fwReady hst hupd, fwReady_effect s i.isLt hheld⟩, exec_starting_off, exec_leadershipPass_off,
    fun q r hcol hlead hcoord hne hrun hheld => exec_leadershipPass hcol hlead hcoord hne hrun hheld, exec_leadershipPass_same,
    exec_bootSlotWrite, exec_confirm, fun hr => ?_⟩
  · show execWdKick i s = _
    rw [execWdKick, if_pos (by simp [hup, show (s.proc i).dbgHalt = false from hdbg])]
    rfl
  · show execWdKick i s = _
    rw [execWdKick, hup]
    rfl
  · show execWatchdogExpiry i s = _
    rw [execWatchdogExpiry, hup]
    rfl
  · obtain ⟨hc, hexec⟩ := exec_crash hmem hocc
    exact ⟨_, hexec, s.crashBase_restarts i.isLt hc hp hwin⟩
  · obtain ⟨-, hexec⟩ := exec_crash hmem hocc
    exact ⟨_, hexec, s.crashBase_holds i.isLt hp hwin⟩
  · exact congrArg Host.Outcome.next (if_neg fun h => hp h.2)
  · exact congrArg Host.Outcome.next (if_neg (by simp [hr]))

/-! SUPPORT. What the page lists, the rings and the logs of the serving commands change (R303, R318, R389, R427): registers, the rings'
records, frames, tree nodes, delta pins and log rings, and never a sequence, a command, a spill or memory. -/

namespace Sys2Proof.Machine

open Sys2Proof.Safety

variable {s t u : State}

/-- A state without what the serving commands change beside sequences, commands and memory. -/
def State.servBlank (s : State) : State :=
  ((((((((s.hostBlank.withFrames []).withHeldFrames []).withFreeLists []).withChunks []).withNodes []).withLru []).withDeltas []).withProcs [])

/-- `t` is `s` but for registers, the rings, frames, tree nodes, delta pins and log rings. -/
structure ServOnly (s t : State) : Prop where
  eq : t.servBlank = s.servBlank

theorem ServOnly.refl (s : State) : ServOnly s s := ⟨rfl⟩

theorem ServOnly.trans (h : ServOnly s t) (k : ServOnly t u) : ServOnly s u := ⟨k.eq.trans h.eq⟩

theorem ServOnly.keeps {α : Type} (h : ServOnly s t) (f : State → α) (hf : ∀ x : State, f x.servBlank = f x) : f t = f s :=
  (hf t).symm.trans ((congrArg f h.eq).trans (hf s))

theorem State.servBlank_seqs (s : State) : s.servBlank.seqs = s.seqs := by simp [State.servBlank, State.hostBlank]
theorem State.servBlank_cmds (s : State) : s.servBlank.cmds = s.cmds := by simp [State.servBlank, State.hostBlank]
theorem State.servBlank_spills (s : State) : s.servBlank.spills = s.spills := by simp [State.servBlank, State.hostBlank]
theorem State.servBlank_mem (s : State) : s.servBlank.mem = s.mem := by simp [State.servBlank, State.hostBlank]

theorem ServOnly.seqs (h : ServOnly s t) : t.seqs = s.seqs := h.keeps State.seqs State.servBlank_seqs
theorem ServOnly.cmds (h : ServOnly s t) : t.cmds = s.cmds := h.keeps State.cmds State.servBlank_cmds
theorem ServOnly.spills (h : ServOnly s t) : t.spills = s.spills := h.keeps State.spills State.servBlank_spills
theorem ServOnly.mem (h : ServOnly s t) : t.mem = s.mem := h.keeps State.mem State.servBlank_mem

theorem State.servBlank_keys (s : State) : s.servBlank.keys = s.keys := by simp [State.servBlank, State.hostBlank]
theorem State.servBlank_scopesDead (s : State) : s.servBlank.scopesDead = s.scopesDead := by simp [State.servBlank, State.hostBlank]
theorem ServOnly.keys (h : ServOnly s t) : t.keys = s.keys := h.keeps State.keys State.servBlank_keys
theorem ServOnly.scopesDead (h : ServOnly s t) : t.scopesDead = s.scopesDead := h.keeps State.scopesDead State.servBlank_scopesDead

theorem ServOnly.ite {c : Prop} [Decidable c] (h : ServOnly s t) (k : ServOnly s u) : ServOnly s (if c then t else u) := by
  split
  · exact h
  · exact k

theorem ServOnly.foldl {α : Type} {g : State → α → State} (l : List α) (h : ServOnly s t) (hg : ∀ b a, ServOnly s b → ServOnly s (g b a)) :
    ServOnly s (l.foldl g t) := List.foldlRecOn l g h fun b hb a _ => hg b a hb

theorem ServOnly.put (h : ServOnly s t) (f : Field) (v i : Nat) : ServOnly s (t.put f v i) := ⟨h.eq⟩
theorem ServOnly.setRing (h : ServOnly s t) (k : Nat) (r : Ring) : ServOnly s (t.setRing k r) := ⟨h.eq⟩
theorem ServOnly.setSlice (h : ServOnly s t) (n : Nat) (x : Slice) : ServOnly s (t.setSlice n x) := ⟨h.eq⟩
theorem ServOnly.setFrame (h : ServOnly s t) (f : Nat) (x : Frame) : ServOnly s (t.setFrame f x) := ⟨h.eq⟩
theorem ServOnly.setFreeList (h : ServOnly s t) (p c : Nat) (l : List Nat) : ServOnly s (t.setFreeList p c l) := ⟨h.eq⟩
theorem ServOnly.takeFree (h : ServOnly s t) (p : Nat) (n c : Int) : ServOnly s (t.takeFree p n c) := ⟨h.eq⟩
theorem ServOnly.setLru (h : ServOnly s t) (p : Nat) (l : List Nat) : ServOnly s (t.setLru p l) := ⟨h.eq⟩
theorem ServOnly.setNode (h : ServOnly s t) (n : Nat) (x : Node) : ServOnly s (t.setNode n x) := ⟨h.eq⟩
theorem ServOnly.count (h : ServOnly s t) (sl k n : Nat) : ServOnly s (t.count sl k n) := ⟨h.eq⟩
theorem ServOnly.withHeldFrames (h : ServOnly s t) (v : List Nat) : ServOnly s (t.withHeldFrames v) := ⟨h.eq⟩
theorem ServOnly.withChunks (h : ServOnly s t) (v : KMap (Nat × Nat)) : ServOnly s (t.withChunks v) := ⟨h.eq⟩
theorem ServOnly.withProcs (h : ServOnly s t) (v : KMap Proc) : ServOnly s (t.withProcs v) := ⟨h.eq⟩
theorem ServOnly.withCtlWindow (h : ServOnly s t) (v : List CqEntry) : ServOnly s (t.withCtlWindow v) := ⟨h.eq⟩
theorem ServOnly.withCtlNeg (h : ServOnly s t) (v : Bool) : ServOnly s (t.withCtlNeg v) := ⟨h.eq⟩
theorem ServOnly.withCtlNegPend (h : ServOnly s t) (v : Bool) : ServOnly s (t.withCtlNegPend v) := ⟨h.eq⟩
theorem ServOnly.withCtlAgreed (h : ServOnly s t) (v : Nat × Nat) : ServOnly s (t.withCtlAgreed v) := ⟨h.eq⟩
theorem ServOnly.withDeltas (h : ServOnly s t) (v : KMap Delta) : ServOnly s (t.withDeltas v) := ⟨h.eq⟩

/-! ## The rings -/

theorem ServOnly.ringPut (h : ServOnly s t) (g : RingReg) (k v : Nat) : ServOnly s (t.ringPut g k v) := by
  unfold State.ringPut
  exact .ite (h.put _ _ _) (h.put _ _ _)

theorem ServOnly.ringBytes (h : ServOnly s t) (k n : Nat) : ServOnly s (t.ringBytes k n) := by
  unfold State.ringBytes
  exact .ite (h.count _ _ _) h

theorem ServOnly.hostWr (h : ServOnly s t) {a sp : Nat} {bs : List Byte} (hw : t.hostWr a bs sp = some u) : ServOnly s u := by
  unfold State.hostWr at hw
  split at hw
  · rw [← Option.some.inj hw]
    exact ⟨h.eq⟩
  · exact absurd hw (by simp)

theorem ServOnly.hostWr_getD (h : ServOnly s t) (a : Nat) (bs : List Byte) (sp : Nat) : ServOnly s ((t.hostWr a bs sp).getD t) := by
  cases hw : t.hostWr a bs sp with
  | none => exact h
  | some u => exact h.hostWr hw

theorem ServOnly.msix (h : ServOnly s t) (fn v : Nat) : ServOnly s (t.msix fn v) := by
  unfold State.msix
  exact .ite ⟨h.eq⟩ (h.put _ _ _)

theorem ServOnly.postCq (h : ServOnly s t) (k : Nat) (e : CqEntry) : ServOnly s (t.postCq k e) := by
  have hraw : ServOnly s (t.postRaw k e) := by
    unfold State.postRaw
    extract_lets c lg e' r u v
    have hv : ServOnly s v := ((h.setRing k _).ringPut _ _ _).ringBytes k 32
    exact .ite (hv.hostWr_getD _ _ _) hv
  unfold State.postCq State.coalesce State.fireRing
  exact .ite h (.ite ((hraw.setRing _ _).msix _ _) hraw)

theorem ServOnly.notice (h : ServOnly s t) (k : Nat) (e : CqEntry) : ServOnly s (t.notice k e) := by
  unfold State.notice
  exact .ite (h.postCq k e) (.ite (h.setRing _ _) (h.setRing _ _))

theorem ServOnly.settleNeg (h : ServOnly s t) (k : Nat) : ServOnly s (t.settleNeg k) := by
  unfold State.settleNeg State.agreeSlice State.agreeCtl
  exact .ite (.ite (((h.put _ _ _).put _ _ _).setSlice _ _) h)
    (.ite (((((h.put _ _ _).put _ _ _).withCtlNeg _).withCtlNegPend _).withCtlAgreed _) h)

theorem ServOnly.release1 (h : ServOnly s t) (k : Nat) : ServOnly s (t.release1 k) := by
  unfold State.release1
  exact ServOnly.settleNeg (ServOnly.put (h.ringPut _ _ _) _ _ _) k

theorem ServOnly.postCopies (h : ServOnly s t) (k : Nat) (e : CqEntry) (n : Nat) : ServOnly s (t.postCopies k e n) := by
  induction n generalizing t with
  | zero => exact h
  | succ n ih => exact ih ((h.release1 k).postCq k _)

theorem ServOnly.remember (h : ServOnly s t) (k : Nat) (e : CqEntry) : ServOnly s (t.remember k e) := by
  unfold State.remember
  exact .ite (h.setSlice _ _) (.ite (h.withCtlWindow _) h)

theorem ServOnly.finish (h : ServOnly s t) (k tok opc status handle res0 res1 : Nat) :
    ServOnly s (t.finish k tok opc status handle res0 res1) := by
  unfold State.finish
  exact ((((h.setRing _ _).remember k _).release1 k).postCq k _).postCopies k _ _

theorem ServOnly.logRec (h : ServOnly s t) (i tp sev : Nat) (words : List Nat) : ServOnly s (t.logRec i tp sev words) := by
  obtain ⟨v, hv⟩ := t.logRec_frame i tp sev words
  rw [hv]
  exact h.withProcs v

/-! ## Frames and tree nodes -/

theorem ServOnly.freeFrame (h : ServOnly s t) (f : Nat) : ServOnly s (t.freeFrame f) := by
  unfold State.freeFrame
  extract_lets x a b
  have ha : ServOnly s a := .ite (h.put _ _ _) h
  have hb : ServOnly s b := ha.setFrame _ _
  refine .ite (hb.withHeldFrames _) ?_
  split
  · exact hb
  · have hc := hb.takeFree ‹Nat› (-(2 ^ x.cls : Nat)) 0
    exact .ite (((hc.setFreeList _ _ _).takeFree _ _ _).withChunks _) ((hc.setFreeList _ _ _).withChunks _)

theorem ServOnly.decRef (h : ServOnly s t) (e : PageEnt) : ServOnly s (t.decRef e) := by
  unfold State.decRef
  exact .ite h (.ite (h.freeFrame _) (h.setFrame _ _))

theorem ServOnly.decRefs (h : ServOnly s t) (es : List PageEnt) : ServOnly s (es.foldl State.decRef t) := h.foldl es fun _ e hb => hb.decRef e

theorem ServOnly.settleNode (h : ServOnly s t) (n : Nat) (head : Bool) : ServOnly s (t.settleNode n head) := by
  unfold State.settleNode
  split
  · exact h
  · exact .ite (h.setLru _ _) (h.setLru _ _)

theorem ServOnly.useNode (h : ServOnly s t) (n : Nat) (up : Bool) : ServOnly s (t.useNode n up) := by
  unfold State.useNode
  split
  · exact h
  · exact (h.setNode _ _).settleNode _ _

theorem ServOnly.useNodes (h : ServOnly s t) (ns : List Nat) (up : Bool) : ServOnly s (ns.foldl (fun s n => s.useNode n up) t) :=
  h.foldl ns fun _ n hb => hb.useNode n up

theorem ServOnly.unpin (h : ServOnly s t) (q : Seq) : ServOnly s (t.unpin q) := by
  unfold State.unpin
  refine .ite ?_ h
  split
  · exact h.withDeltas _
  · exact h

/-! ## The table of sequences -/

theorem State.seq?_congr (h : t.seqs = s.seqs) (i : Nat) : t.seq? i = s.seq? i := by rw [State.seq?, State.seq?, h]

theorem State.seq?_setSeq (s : State) (i : Nat) {q : Seq} (h : q.st ≠ .free) : (s.setSeq i q).seq? i = some q := by
  rw [State.seq?, State.setSeq, State.withSeqs_seqs, kfind_kset_same]
  exact Option.filter_some_pos (by simpa using h)

theorem State.seq?_setSeq_ne (s : State) {i j : Nat} (q : Seq) (h : j ≠ i) : (s.setSeq i q).seq? j = s.seq? j := by
  rw [State.seq?, State.setSeq, State.withSeqs_seqs, kfind_kset_ne _ _ h, State.seq?]

theorem State.seq?_eq_some {i : Nat} {q : Seq} : s.seq? i = some q ↔ kfind s.seqs i = some q ∧ q.st ≠ .free := by
  rw [State.seq?, Option.filter_eq_some_iff]
  simp

theorem State.modSeq_eq {i : Nat} {q : Seq} (h : s.seq? i = some q) (f : Seq → Seq) : s.modSeq i f = s.setSeq i (f q) := by
  rw [State.modSeq, (State.seq?_eq_some.1 h).1]

theorem State.gen_setSeq (s : State) (i : Nat) (q : Seq) : (s.setSeq i q).gen i = q.gen := by
  rw [State.gen, State.setSeq, State.withSeqs_seqs, kfind_kset_same]
  rfl

theorem State.gen_of_seq {i : Nat} {q : Seq} (h : s.seq? i = some q) : s.gen i = q.gen := by
  rw [State.gen, (State.seq?_eq_some.1 h).1]
  rfl

end Sys2Proof.Machine

/-! SUPPORT. Cancellation, freeze and end of a sequence (R32, R277, R318, R394), and the key of a dead scope (R206, R319). -/

namespace Sys2Proof.Machine

open Sys2Proof.Safety

variable {s t u : State} {i : Nat} {q : Seq}

/-! ## Cancellation -/

theorem State.dropCopies_keeps (s : State) (i : Nat) (q : Seq) : ∃ u, ServOnly s u ∧
    ServOnly (u.withSpills (s.spills.filter fun x => x.seq != some i)) (s.dropCopies i q) := by
  unfold State.dropCopies State.dropChange
  extract_lets a mine
  have ha : ServOnly s a := by
    unfold a
    split
    · exact ((ServOnly.refl s).logRec _ _ _ _).decRefs _
    · exact .refl s
  have hspills : a.spills = s.spills := ha.spills
  refine ⟨a, ha, ?_⟩
  rw [← hspills]
  exact (ServOnly.refl _).foldl mine fun b x hb => (hb.logRec _ _ _ _).decRefs _

theorem State.applyCancel_effect (hq : s.seq? i = some q) (hc : q.cancelPend = true) (hp : s.passDue i = false) {t : State}
    (ht : s.applyCancel i = t) : t.seq? i = some { q with
      st := .ending, cancelPend := false, status := if q.status ≠ St.ok then q.status else St.cancelled, moveTo := none, freezeReq := none } ∧
    t.spills = s.spills.filter (fun x => x.seq != some i) ∧ t.mem = s.mem ∧ ∀ j, j ≠ i → t.seq? j = s.seq? j := by
  obtain ⟨u, hu, hd⟩ := s.dropCopies_keeps i q
  unfold State.applyCancel at ht
  rw [hq] at ht
  dsimp only at ht
  rw [if_pos (by simp [hc, hp])] at ht
  generalize hv : (if q.freezeReq.isSome = true then (s.dropCopies i q).dropChange q.part 3 ((s.dropCopies i q).handle i) else s.dropCopies i q) = v at ht
  have hlast : ServOnly (u.withSpills (s.spills.filter fun x => x.seq != some i)) v := by
    rw [← hv]
    exact .ite (hd.logRec _ _ _ _) hd
  have hseqs : v.seqs = s.seqs := hlast.seqs.trans hu.seqs
  have hmem : v.mem = s.mem := hlast.mem.trans hu.mem
  have hspills : v.spills = s.spills.filter fun x => x.seq != some i := hlast.spills
  rw [← ht]
  refine ⟨v.seq?_setSeq i (q := { q with st := .ending, cancelPend := false, status := _, moveTo := none, freezeReq := none }) (by simp),
    hspills, hmem, fun j hj => ?_⟩
  rw [State.seq?_setSeq_ne _ _ hj, State.seq?_congr hseqs]

theorem State.applyCancel_off (hq : s.seq? i = some q) (h : q.cancelPend = false ∨ s.passDue i = true) : s.applyCancel i = s := by
  unfold State.applyCancel
  rw [hq]
  exact if_neg (by rcases h with h | h <;> simp [h])

/-! ## Freeze -/

/-- A sequence as a freeze leaves it (R277). -/
def Seq.freeze (q : Seq) (c : Nat) : Seq :=
  { q with st := .frozen, resume := if q.st = .pageWait then q.resume else q.st, frzCause := c, freezeReq := none }

/-- The states that a freeze leaves for FROZEN. -/
def Seq.runs (q : Seq) : Prop := q.st = .admitted ∨ q.st = .prefill ∨ q.st = .decode ∨ q.st = .moving ∨ q.st = .pageWait

theorem State.freezeNow_eq (hq : s.seq? i = some q) (hr : q.runs) (c : Nat) : s.freezeNow i c = s.setSeq i (q.freeze c) := by
  rw [State.freezeNow, State.modSeq_eq hq]
  unfold Seq.freeze
  rcases hr with h | h | h | h | h <;> simp [h]

theorem State.freezeNotice_eq (hq : s.seq? i = some q) (hr : q.runs) (c st detail : Nat) : s.freezeNotice i c st detail =
    (s.setSeq i (q.freeze c)).notice (seqRing q) (mkEntry q.token st 3 0x01 (s.handle i) detail 0) := by
  have hne : q.st ≠ .ending := by rcases hr with h | h | h | h | h <;> simp [h]
  have hhandle : (s.setSeq i (q.freeze c)).handle i = s.handle i := by
    rw [State.handle, State.handle, State.gen_setSeq, State.gen_of_seq hq]
    rfl
  unfold State.freezeNotice
  rw [hq]
  dsimp only
  rw [if_neg hne, State.freezeNow_eq hq hr, State.seqNotice, State.seq?_setSeq _ _ (show (q.freeze c).st ≠ .free by simp [Seq.freeze])]
  dsimp only
  rw [hhandle]
  rfl

theorem State.applyFreeze_eq (hq : s.seq? i = some q) (hr : q.runs) {c st : Nat} (hf : q.freezeReq = some (c, st))
    (hm : ¬(q.st = .moving ∧ q.moveTo.isSome = true ∧ c = 1)) : s.applyFreeze i =
      (if st = St.ok then s.setSeq i (q.freeze c)
        else (s.setSeq i (q.freeze c)).notice (seqRing q) (mkEntry q.token st 3 0x01 (s.handle i) 0 0)) := by
  unfold State.applyFreeze
  rw [hq]
  dsimp only
  rw [hf]
  dsimp only
  rw [if_neg hm, State.freezeNow_eq hq hr, State.freezeNotice_eq hq hr]

theorem State.applyFreeze_waits (hq : s.seq? i = some q) {st : Nat} (hf : q.freezeReq = some (1, st)) (hm : q.st = .moving)
    (hto : q.moveTo.isSome = true) : s.applyFreeze i = s := by
  unfold State.applyFreeze
  rw [hq]
  dsimp only
  rw [hf]
  exact if_pos ⟨hm, hto, rfl⟩

theorem State.applyFreeze_none (hq : s.seq? i = some q) (hf : q.freezeReq = none) : s.applyFreeze i = s := by
  unfold State.applyFreeze
  rw [hq]
  dsimp only
  rw [hf]

/-! ## End -/

/-- The commands stand, and every entry of the table but entry `i`. -/
def EntryOnly (i : Nat) (s t : State) : Prop := t.cmds = s.cmds ∧ ∀ j, j ≠ i → kfind t.seqs j = kfind s.seqs j

theorem EntryOnly.serv (h : EntryOnly i s t) (k : ServOnly t u) : EntryOnly i s u := by
  have hseqs : u.seqs = t.seqs := k.seqs
  exact ⟨k.cmds.trans h.1, fun j hj => by rw [hseqs, h.2 j hj]⟩

theorem EntryOnly.setSeq (h : EntryOnly i s t) (x : Seq) : EntryOnly i s (t.setSeq i x) :=
  ⟨h.1, fun j hj => by rw [State.setSeq, State.withSeqs_seqs, kfind_kset_ne _ _ hj, h.2 j hj]⟩

theorem EntryOnly.modSeq (h : EntryOnly i s t) (f : Seq → Seq) : EntryOnly i s (t.modSeq i f) := by
  unfold State.modSeq
  split
  · exact h.setSeq _
  · exact h

theorem EntryOnly.freeTransit (h : EntryOnly i s t) : EntryOnly i s (t.freeTransit i) := by
  unfold State.freeTransit
  split
  · exact h
  · split
    · exact h
    · exact (h.serv ((ServOnly.refl t).decRefs _)).modSeq _

theorem EntryOnly.releasePages (h : EntryOnly i s t) : EntryOnly i s (t.releasePages i) := by
  unfold State.releasePages
  split
  · exact h
  · have hpages : ServOnly t ((Seq.nodes ‹Seq›).foldl (fun s n => s.useNode n false) ((Seq.pages ‹Seq›).foldl State.decRef t)) :=
      ((ServOnly.refl t).decRefs _).useNodes _ _
    split
    · exact (h.serv (hpages.decRefs _)).modSeq _
    · exact (h.serv hpages).modSeq _

/-- An entry that went back to FREE (R274). -/
def Seq.freed (q : Seq) : Seq := { q with
  st := .free, resume := .free, frzCause := 0, cancelPend := false, pages := [], nodes := [], toks := [],
  gen := (q.gen + 1) % 2 ^ 14, freezeReq := none, moveTo := none, held := false, branch := 0, needFork := 0 }

theorem State.freeEntry_effect (hq : s.seq? i = some q) : EntryOnly i s (s.freeEntry i) ∧ kfind (s.freeEntry i).seqs i = some q.freed := by
  unfold State.freeEntry
  rw [hq]
  dsimp only
  have hv : EntryOnly i s ((s.freeTransit i).releasePages i) :=
    EntryOnly.releasePages (EntryOnly.freeTransit ⟨rfl, fun _ _ => rfl⟩)
  generalize (s.freeTransit i).releasePages i = v at *
  have hrest : ∀ w : State, ServOnly (v.setSeq i q.freed) w → EntryOnly i s w ∧ kfind w.seqs i = some q.freed := fun w hw =>
    ⟨(hv.setSeq q.freed).serv hw, by rw [hw.seqs, State.setSeq, State.withSeqs_seqs, kfind_kset_same]⟩
  have hused : ServOnly (v.setSeq i q.freed) ((v.setSeq i q.freed).put F.SRV_STAT.seq_used ((v.setSeq i q.freed).rd F.SRV_STAT.seq_used - 1)) :=
    (ServOnly.refl _).put _ _ _
  exact hrest _ (ServOnly.unpin (ServOnly.put (.ite (hused.put _ _ _) hused) _ _ _) q)

theorem State.freeEntry_none (h : s.seq? i = none) : s.freeEntry i = s := by
  unfold State.freeEntry
  rw [h]

/-- Freeing other entries leaves an entry that is free. -/
theorem State.freeEntry_keeps_free {x : Seq} (hfree : x.st = .free) (h : kfind s.seqs i = some x) (j : Nat) :
    (s.freeEntry j).cmds = s.cmds ∧ kfind (s.freeEntry j).seqs i = some x := by
  cases hj : s.seq? j with
  | none => rw [State.freeEntry_none hj]; exact ⟨rfl, h⟩
  | some y =>
    obtain ⟨⟨hcmds, hother⟩, -⟩ := State.freeEntry_effect hj
    refine ⟨hcmds, (hother i ?_).trans h⟩
    rintro rfl
    obtain ⟨hk, hne⟩ := State.seq?_eq_some.1 hj
    rw [h] at hk
    exact hne (Option.some.inj hk ▸ hfree)

/-- A write of output to host memory that is counted, or not done. -/
theorem ServOnly.counted (h : ServOnly s t) {o : Option State} (ho : ∀ w, o = some w → ServOnly s w) (sl k n : Nat) :
    ServOnly s ((o.map fun w => w.count sl k n).getD t) := by
  cases o with
  | none => exact h
  | some w => exact (ho w rfl).count sl k n

theorem State.finishCmd_effect (s : State) (k : Nat) : kfind (s.finishCmd k).cmds k = none ∧ (s.finishCmd k).seqs = s.seqs := by
  unfold State.finishCmd
  split
  · exact ⟨‹_›, rfl⟩
  · extract_lets n len counts total r status v
    have hr : ServOnly s (r.getD s) := (ServOnly.refl s).counted (fun w hw => (ServOnly.refl s).hostWr hw) _ _ _
    have hlast : ∀ k tok opc st h r0 r1, ServOnly v (v.finish k tok opc st h r0 r1) := (ServOnly.refl v).finish
    refine ⟨?_, ?_⟩
    · rw [(hlast _ _ _ _ _ _ _).cmds]
      exact kfind_kdel_same _ _
    · rw [(hlast _ _ _ _ _ _ _).seqs]
      exact hr.seqs

/-- The record of a command whose sample ended (R394). -/
def Cmd.sampleDone (c : Cmd) (q : Seq) : Cmd :=
  { c with
    done := kset c.done q.sample q.nOut
    hyps := if 1 < c.beamW then c.hyps ++ [(q.score, outputs q)] else c.hyps
    status := if c.status ≠ St.ok then c.status else q.status }

theorem State.endSeq_held (hq : s.seq? i = some q) (he : q.st = .ending) (hh : q.held = true) : s.endSeq i = s.freeEntry i := by
  unfold State.endSeq
  rw [hq]
  dsimp only
  rw [if_neg (not_not.2 he), if_pos hh]

/-- A sample that is none of a held entry ends: its command notes it, its entry is freed, and after the last one the held entries and
the command are. -/
theorem State.endSeq_eq (hq : s.seq? i = some q) (he : q.st = .ending) (hh : q.held = false) :
    ∃ v : State, v.seqs = s.seqs ∧ (∀ c, kfind s.cmds q.cmd = some c → kfind v.cmds q.cmd = some (c.sampleDone q)) ∧
      s.endSeq i = (if s.siblings q.cmd i = true then v.freeEntry i
        else ((((v.freeEntry i).seqs.filter fun x => x.2.st != .free && x.2.cmd == q.cmd && x.2.held).foldl
          (fun s x => s.freeEntry x.1) (v.freeEntry i)).finishCmd q.cmd)) := by
  unfold State.endSeq
  rw [hq]
  dsimp only
  rw [if_neg (not_not.2 he), if_neg (by simp [hh])]
  cases hc : kfind s.cmds q.cmd with
  | none =>
    refine ⟨s, rfl, by simp [hc], ?_⟩
    cases s.siblings q.cmd i <;> rfl
  | some c =>
    refine ⟨s.withCmds (kset s.cmds q.cmd (c.sampleDone q)), rfl, fun d hd => ?_, ?_⟩
    · rw [State.withCmds_cmds, kfind_kset_same, ← Option.some.inj hd]
    · have hsib : ∀ v, (s.withCmds v).siblings q.cmd i = s.siblings q.cmd i := fun _ => rfl
      dsimp only
      rw [hsib]
      cases s.siblings q.cmd i <;> rfl

theorem State.endSeq_effect (hq : s.seq? i = some q) (he : q.st = .ending) {t : State} (ht : s.endSeq i = t) :
    t.seq? i = none ∧ t.gen i = (q.gen + 1) % 2 ^ 14 ∧
      (q.held = false → s.siblings q.cmd i = false → kfind t.cmds q.cmd = none) ∧
      (∀ c, q.held = false → s.siblings q.cmd i = true → kfind s.cmds q.cmd = some c → kfind t.cmds q.cmd = some (c.sampleDone q)) := by
  have hgone : ∀ w : State, kfind w.seqs i = some q.freed → w.seq? i = none ∧ w.gen i = (q.gen + 1) % 2 ^ 14 := by
    intro w hw
    rw [State.seq?, State.gen, hw]
    exact ⟨rfl, rfl⟩
  cases hh : q.held with
  | true =>
    rw [State.endSeq_held hq he hh] at ht
    obtain ⟨hseq, hgen⟩ := hgone t (ht ▸ (State.freeEntry_effect hq).2)
    exact ⟨hseq, hgen, by simp, by simp⟩
  | false =>
    obtain ⟨v, hseqs, hcmds, hv⟩ := State.endSeq_eq hq he hh
    have hvq : v.seq? i = some q := (State.seq?_congr hseqs i).trans hq
    obtain ⟨⟨hcmds', -⟩, hfree⟩ := State.freeEntry_effect hvq
    rw [hv] at ht
    cases hsib : s.siblings q.cmd i with
    | true =>
      rw [if_pos hsib] at ht
      subst ht
      obtain ⟨hseq, hgen⟩ := hgone _ hfree
      exact ⟨hseq, hgen, by simp, fun c _ _ hc => by rw [hcmds', hcmds c hc]⟩
    | false =>
      rw [if_neg (by simp [hsib])] at ht
      generalize (v.freeEntry i).seqs.filter _ = held at ht
      have hfold : kfind (held.foldl (fun s x => s.freeEntry x.1) (v.freeEntry i)).seqs i = some q.freed :=
        List.foldlRecOn (motive := fun w : State => kfind w.seqs i = some q.freed) held _ hfree fun w hw x _ =>
          (State.freeEntry_keeps_free rfl hw x.1).2
      generalize held.foldl (fun s x => s.freeEntry x.1) (v.freeEntry i) = w at *
      obtain ⟨hdone, hseqs'⟩ := w.finishCmd_effect q.cmd
      subst ht
      obtain ⟨hseq, hgen⟩ := hgone (w.finishCmd q.cmd) (by rw [hseqs', hfold])
      exact ⟨hseq, hgen, fun _ _ => hdone, by simp⟩

theorem State.endSeq_off (hq : s.seq? i = some q) (h : q.st ≠ .ending) : s.endSeq i = s := by
  unfold State.endSeq
  rw [hq]
  exact if_pos h

/-! ## Keys of dead scopes (R206, R319) -/

theorem State.key_setKey (s : State) (k : Nat) (x : KeySlot) : (s.setKey k x).key k = x := by
  have hv : (s.withKeys (kset s.keys k x)).key k = x := by rw [State.key, State.withKeys_keys, kget_kset_same]
  have hput : ∀ (w : State) (f : Field) (v : Nat), (w.put f v).key k = w.key k := fun _ _ _ => rfl
  unfold State.setKey
  extract_lets was v
  split
  · exact hv
  · split
    · rw [hput]
      exact hv
    · rw [hput]
      exact hv

/-- What a key load leaves of the scopes' lists. -/
theorem State.setKey_lists (s : State) (k : Nat) (x : KeySlot) : (s.setKey k x).scopesDead = s.scopesDead ∧
    (s.setKey k x).heldFrames = s.heldFrames ∧ (s.setKey k x).frames = s.frames := by
  unfold State.setKey
  extract_lets was v
  split
  · exact ⟨rfl, rfl, rfl⟩
  · split <;> exact ⟨rfl, rfl, rfl⟩

theorem State.loadKey_lists (s : State) (k : Nat) : (s.loadKey k).scopesDead = s.scopesDead ∧
    (s.loadKey k).heldFrames = s.heldFrames ∧ (s.loadKey k).frames = s.frames := by
  unfold State.loadKey
  split
  · exact ⟨rfl, rfl, rfl⟩
  · split <;> exact s.setKey_lists k _

theorem State.key_loadKey (hb : s.sec.bootKey = true) (hc : s.procUp cairn = true) (k : Nat) :
    (s.loadKey k).key k = { epoch := (s.key k).epoch + 1, loaded := true, pend := false } := by
  unfold State.loadKey
  rw [if_neg (by simp [hb]), if_pos hc]
  exact s.key_setKey k _

/-- The record of a free frame. -/
def Frame.freed (x : Frame) : Frame := { x with refs := 0, alloc := false, tree := false, hosted := false, owned := false }

/-- A frame that is freed leaves the records of the others. -/
theorem State.freeFrame_frames (s : State) (i : Nat) : (s.freeFrame i).frames = kset s.frames i (s.frame i).freed := by
  unfold State.freeFrame
  extract_lets x a b ch
  have hb : b.frames = kset s.frames i x.freed := by
    have ha : a.frames = s.frames := by
      unfold a
      split <;> rfl
    exact congrArg (fun m => kset m i _) ha
  split
  · exact hb
  · split
    · exact hb
    · extract_lets v
      have hv : v.frames = kset s.frames i x.freed := hb
      clear_value v
      split <;> exact hv

/-- A frame that goes back to its list, when no dead scope is that of its key, is not held (R303). -/
theorem State.freeFrame_heldFrames (h : s.scopesDead.contains (s.frame i).key = false) : (s.freeFrame i).heldFrames = s.heldFrames := by
  unfold State.freeFrame
  extract_lets x a b ch
  have hb : b.heldFrames = s.heldFrames ∧ b.scopesDead = s.scopesDead := by
    have ha : a.heldFrames = s.heldFrames ∧ a.scopesDead = s.scopesDead := by
      unfold a
      split <;> exact ⟨rfl, rfl⟩
    exact ha
  obtain ⟨hheld, hdead⟩ := hb
  rw [if_neg (by rw [hdead, h]; exact Bool.false_ne_true)]
  split
  · exact hheld
  · extract_lets v
    have hv : v.heldFrames = s.heldFrames := hheld
    clear_value v
    split <;> exact hv

theorem State.frame_freeFrame_key (s : State) (i g : Nat) : ((s.freeFrame i).frame g).key = (s.frame g).key := by
  rw [State.frame, s.freeFrame_frames]
  by_cases hg : g = i
  · rw [hg, kget_kset_same]
    rfl
  · rw [kget_kset_ne _ _ _ hg, State.frame]

/-- Frames of a key whose scope is alive go back to their lists: no frame is held for it. -/
theorem State.freeFrames_live (s : State) {k : Nat} {fs : List Nat} (hk : s.scopesDead.contains k = false) (hfs : ∀ f ∈ fs, (s.frame f).key = k)
    {t : State} (ht : fs.foldl State.freeFrame s = t) : t.heldFrames = s.heldFrames ∧ t.scopesDead = s.scopesDead ∧ t.keys = s.keys := by
  have hall : (fs.foldl State.freeFrame s).heldFrames = s.heldFrames ∧ ServOnly s (fs.foldl State.freeFrame s) ∧
      ∀ g, ((fs.foldl State.freeFrame s).frame g).key = (s.frame g).key := by
    refine List.foldlRecOn (motive := fun w : State => w.heldFrames = s.heldFrames ∧ ServOnly s w ∧ ∀ g, (w.frame g).key = (s.frame g).key)
      fs _ ⟨rfl, .refl s, fun _ => rfl⟩ fun w hw f hf => ?_
    obtain ⟨hheld, hserv, hkeys⟩ := hw
    have hlive : w.scopesDead.contains (w.frame f).key = false := by rw [hkeys f, hfs f hf, hserv.scopesDead, hk]
    exact ⟨(State.freeFrame_heldFrames hlive).trans hheld, hserv.freeFrame f, fun g => (w.frame_freeFrame_key f g).trans (hkeys g)⟩
  obtain ⟨hheld, hserv, -⟩ := hall
  rw [← ht]
  exact ⟨hheld, hserv.scopesDead, hserv.keys⟩

/-- A slot that is emptied keeps its epoch. -/
theorem State.emptyKey_effect (s : State) (k : Nat) : ((s.emptyKey k).key k).loaded = false ∧ ((s.emptyKey k).key k).epoch = (s.key k).epoch ∧
    (s.emptyKey k).scopesDead = s.scopesDead ∧ (s.emptyKey k).heldFrames = s.heldFrames ∧ (s.emptyKey k).frames = s.frames := by
  unfold State.emptyKey
  rw [State.key_setKey]
  exact ⟨rfl, rfl, s.setKey_lists k _⟩

/-- A dead scope without frames gets its new key, or an empty slot, and the frames held for it are free again. -/
theorem State.replaceScope_effect {k : Nat} (hdead : s.scopesDead.contains k = true)
    (hfree : ∀ f ∈ s.frames, f.2.alloc = true → f.2.key ≠ k) (hc : s.procUp cairn = true) {t : State} (ht : s.replaceScope k = t) :
    t.scopesDead = s.scopesDead.filter (· != k) ∧ t.heldFrames = s.heldFrames.filter (fun f => (s.frame f).key != k) ∧
      ((k < 4096 ∧ (s.slice k).emptyKeys = true) → (t.key k).loaded = false ∧ (t.key k).epoch = (s.key k).epoch) ∧
      (s.sec.bootKey = true → ¬(k < 4096 ∧ (s.slice k).emptyKeys = true) → (t.key k).loaded = true ∧ (t.key k).epoch = (s.key k).epoch + 1) := by
  have hany : (s.frames.any fun f => f.2.alloc && f.2.key == k) = false := by
    refine List.any_eq_false.2 fun f hf h => ?_
    simp only [Bool.and_eq_true, beq_iff_eq] at h
    exact hfree f hf h.1 h.2
  have hgo : ¬((!s.scopesDead.contains k || (s.frames.any fun f => f.2.alloc && f.2.key == k) || decide (s.procUp cairn = false)) = true) := by
    rw [hdead, hany, hc]
    decide
  unfold State.replaceScope at ht
  rw [if_neg hgo] at ht
  extract_lets v w mine at ht
  have hlists : w.scopesDead = s.scopesDead.filter (· != k) ∧ w.heldFrames = s.heldFrames ∧ w.frames = s.frames := by
    unfold w
    split
    · obtain ⟨-, -, hd, hh, hf⟩ := v.emptyKey_effect k
      exact ⟨hd, hh, hf⟩
    · exact v.loadKey_lists k
  have hempty : (k < 4096 ∧ (s.slice k).emptyKeys = true) → (w.key k).loaded = false ∧ (w.key k).epoch = (s.key k).epoch := by
    intro h
    obtain ⟨hl, he, -⟩ := v.emptyKey_effect k
    rw [show w = v.emptyKey k from if_pos h]
    exact ⟨hl, he⟩
  have hload : s.sec.bootKey = true → ¬(k < 4096 ∧ (s.slice k).emptyKeys = true) →
      (w.key k).loaded = true ∧ (w.key k).epoch = (s.key k).epoch + 1 := by
    intro hb h
    rw [show w = v.loadKey k from if_neg h, State.key_loadKey (s := v) hb hc]
    exact ⟨rfl, rfl⟩
  obtain ⟨hscopes, hheld, hframes⟩ := hlists
  clear_value w
  have hframe : ∀ f, w.frame f = s.frame f := fun f => by rw [State.frame, State.frame, hframes]
  have hmine : ∀ f ∈ mine, (w.frame f).key = k := fun f hf => by simpa using (List.mem_filter.1 hf).2
  have hlive : w.scopesDead.contains k = false := by simp [hscopes]
  obtain ⟨h1, h2, h3⟩ := State.freeFrames_live (w.withHeldFrames (w.heldFrames.filter fun f => (w.frame f).key != k)) hlive hmine ht
  have hkey : t.key k = w.key k := by rw [State.key, State.key, h3, State.withHeldFrames_keys]
  refine ⟨h2.trans hscopes, ?_, ?_, ?_⟩
  · rw [h1, State.withHeldFrames_heldFrames, hheld]
    simp only [hframe]
  · rw [hkey]
    exact hempty
  · rw [hkey]
    exact hload

theorem State.replaceScope_off {k : Nat} (h : ∃ f ∈ s.frames, f.2.alloc = true ∧ f.2.key = k) : s.replaceScope k = s := by
  obtain ⟨f, hf, halloc, hk⟩ := h
  have hany : (s.frames.any fun f => f.2.alloc && f.2.key == k) = true :=
    List.any_eq_true.2 ⟨f, hf, by simp [halloc, hk]⟩
  exact if_pos (by rw [hany, Bool.or_true, Bool.true_or])

/-- The commands of a step boundary do nothing outside the Col window (R28). -/
theorem State.atBoundary_off (h : s.inCol = false) (f : State → State) : s.atBoundary f = s := by
  rw [State.atBoundary, h]
  rfl

theorem State.atBoundary_in (h : s.inCol = true) (f : State → State) : s.atBoundary f = f s := if_pos h

end Sys2Proof.Machine

open Sys2Proof Sys2Proof.Machine Sys2Proof.Safety in
/-- Settles O31: cancellation, freeze and end each by what they do to the table of sequences, and leave of the rest; a dead scope's key by
the key loads and the frames held for it. -/
theorem cancellationFreezeEndAndScopeKeys : Obligations.CancellationFreezeEndAndScopeKeys := by
  unfold Obligations.CancellationFreezeEndAndScopeKeys
  refine ⟨⟨fun s i hcol => ?_, fun s i q hcol hq => ?_⟩, fun s k hdead => ⟨fun hfree hc => ?_, fun hused => ?_⟩⟩
  · exact ⟨congrArg Host.Outcome.next (s.atBoundary_off hcol _), congrArg Host.Outcome.next (s.atBoundary_off hcol _),
      congrArg Host.Outcome.next (s.atBoundary_off hcol _)⟩
  · have hcancel : exec (.cancellationApply i) s = .next (s.applyCancel i) := congrArg Host.Outcome.next (s.atBoundary_in hcol _)
    have hfreeze : exec (.sequenceFreeze i) s = .next (s.applyFreeze i) := congrArg Host.Outcome.next (s.atBoundary_in hcol _)
    have hend : exec (.sequenceEnd i) s = .next (s.endSeq i) := congrArg Host.Outcome.next (s.atBoundary_in hcol _)
    rw [hcancel, hfreeze, hend]
    refine ⟨fun hc hp => ⟨_, rfl, State.applyCancel_effect hq hc hp rfl⟩, fun h => congrArg _ (State.applyCancel_off hq h),
      fun c st hf hst => ?_, fun c st hf hst => ?_, fun st hf hm hto => congrArg _ (State.applyFreeze_waits hq hf hm hto),
      fun hf => congrArg _ (State.applyFreeze_none hq hf), fun he => ⟨_, rfl, State.endSeq_effect hq he rfl⟩,
      fun he => congrArg _ (State.endSeq_off hq he)⟩
    · have hruns : q.runs := by
        rcases hst with h | h | h | ⟨h, -⟩ <;> simp [Seq.runs, h]
      have hstays : ¬(q.st = .moving ∧ q.moveTo.isSome = true ∧ c = 1) := by
        rintro ⟨hm, hto, hc⟩
        rcases hst with h | h | h | ⟨-, h | h⟩
        · exact absurd (h.symm.trans hm) (by decide)
        · exact absurd (h.symm.trans hm) (by decide)
        · exact absurd (h.symm.trans hm) (by decide)
        · rw [h] at hto
          exact absurd hto (by decide)
        · exact h hc
      have hfrozen : q.freeze c = { q with st := .frozen, resume := q.st, frzCause := c, freezeReq := none } := by
        have hne : q.st ≠ .pageWait := by rcases hst with h | h | h | ⟨h, -⟩ <;> simp [h]
        rw [Seq.freeze, if_neg hne]
      rw [State.applyFreeze_eq hq hruns hf hstays, hfrozen]
    · have hfrozen : q.freeze c = { q with st := .frozen, frzCause := c, freezeReq := none } := by
        rw [Seq.freeze, if_pos hst]
      rw [State.applyFreeze_eq hq (by simp [Seq.runs, hst]) hf (by simp [hst]), hfrozen]
  · exact ⟨_, rfl, State.replaceScope_effect hdead hfree hc rfl⟩
  · exact congrArg Host.Outcome.next (State.replaceScope_off hused)

/-! SUPPORT. Frames that are copied and moved (R312, R314, R317): what a copy changes, what a moved frame's records say. -/

namespace Sys2Proof.Machine

open Sys2Proof.Safety

variable {s t u : State} {i : Nat} {q : Seq}

/-! ## Copies -/

/-- A state without device memory and what goes with it. -/
def State.memBlank (s : State) : State := ((((s.withRegs []).withMem []).withPoison []).withLineKey []).withBadCopy []

/-- `t` is `s` but for registers, device memory, poison, line keys and bad copies. -/
structure MemOnly (s t : State) : Prop where
  eq : t.memBlank = s.memBlank

theorem MemOnly.refl (s : State) : MemOnly s s := ⟨rfl⟩

theorem MemOnly.keeps {α : Type} (h : MemOnly s t) (f : State → α) (hf : ∀ x : State, f x.memBlank = f x) : f t = f s :=
  (hf t).symm.trans ((congrArg f h.eq).trans (hf s))

theorem MemOnly.seqs (h : MemOnly s t) : t.seqs = s.seqs := h.keeps State.seqs fun x => by simp [State.memBlank]
theorem MemOnly.frames (h : MemOnly s t) : t.frames = s.frames := h.keeps State.frames fun x => by simp [State.memBlank]
theorem MemOnly.nodes (h : MemOnly s t) : t.nodes = s.nodes := h.keeps State.nodes fun x => by simp [State.memBlank]
theorem MemOnly.spills (h : MemOnly s t) : t.spills = s.spills := h.keeps State.spills fun x => by simp [State.memBlank]
theorem MemOnly.time (h : MemOnly s t) : t.time = s.time := h.keeps State.time fun x => by simp [State.memBlank]

theorem MemOnly.ite {c : Prop} [Decidable c] (h : MemOnly s t) (k : MemOnly s u) : MemOnly s (if c then t else u) := by
  split
  · exact h
  · exact k

theorem MemOnly.foldl {α : Type} {g : State → α → State} (l : List α) (h : MemOnly s t) (hg : ∀ b a, MemOnly s b → MemOnly s (g b a)) :
    MemOnly s (l.foldl g t) := List.foldlRecOn l g h fun b hb a _ => hg b a hb

theorem MemOnly.put (h : MemOnly s t) (f : Field) (v i : Nat) : MemOnly s (t.put f v i) := ⟨h.eq⟩
theorem MemOnly.withMem (h : MemOnly s t) (v : List Host.Cell) : MemOnly s (t.withMem v) := ⟨h.eq⟩
theorem MemOnly.withPoison (h : MemOnly s t) (v : List Nat) : MemOnly s (t.withPoison v) := ⟨h.eq⟩
theorem MemOnly.withLineKey (h : MemOnly s t) (v : KMap (Nat × Nat)) : MemOnly s (t.withLineKey v) := ⟨h.eq⟩
theorem MemOnly.withBadCopy (h : MemOnly s t) (v : List (Nat × Bool)) : MemOnly s (t.withBadCopy v) := ⟨h.eq⟩

theorem MemOnly.store (h : MemOnly s t) (a : Nat) (bs : List Byte) (k : Nat) : MemOnly s (t.store a bs k) := by
  have hold : MemOnly s (t.settleOld a bs.length k) := by
    unfold State.settleOld
    exact .ite (h.foldl _ fun b l hb => .ite (hb.withMem _) hb) h
  unfold State.store
  exact (((hold.withMem _).withPoison _).withLineKey _).withBadCopy _

theorem MemOnly.rdRecord (h : MemOnly s t) (a n k : Nat) : MemOnly s (t.rdRecord a n k) := by
  unfold State.rdRecord
  exact .ite (h.foldl _ fun b l hb => .ite (hb.put _ _ _) hb) h

theorem MemOnly.copyLine (h : MemOnly s t) (a b kr kw : Nat) : MemOnly s (t.copyLine a b kr kw) := by
  unfold State.copyLine
  exact ((h.rdRecord _ _ _).store _ _ _).foldl _ fun b x hb => hb.withPoison _

theorem MemOnly.copyFrame (h : MemOnly s t) (src dst cls key : Nat) : MemOnly s (t.copyFrame src dst cls key) := by
  unfold State.copyFrame
  exact (((h.withMem _).withPoison _).withLineKey _).foldl _ fun b l hb => hb.copyLine _ _ _ _

/-! ## A frame's contents move -/

theorem kfind_kmapv {α : Type} (m : KMap α) (f : Nat → α → α) (k : Nat) : kfind (kmapv m f) k = (kfind m k).map (f k) := by
  induction m with
  | nil => rfl
  | cons e m ih =>
    obtain ⟨j, v⟩ := e
    by_cases hj : j = k
    · simp [kmapv, kfind, hj]
    · simpa [kmapv, kfind, hj] using ih

/-- The entry of a page list for a frame whose contents moved. -/
def PageEnt.moved (o n : PageEnt) (e : PageEnt) : PageEnt := if !e.remote && e.frame == o.frame then { e with frame := n.frame } else e

/-- The sequences, the spills and the frames of a state after a frame moved. -/
theorem State.moveFrame_effect (s : State) (o n : PageEnt) {t : State} (ht : s.moveFrame o n = t) :
    t.seqs = kmapv s.seqs (fun _ q => { q with pages := q.pages.map (o.moved n) }) ∧ t.spills = s.spills ∧
      (t.frame o.frame).alloc = false ∧ (o.frame ≠ n.frame → t.frame n.frame = { s.frame o.frame with lastRead := s.tick32 }) := by
  unfold State.moveFrame at ht
  extract_lets x a b c ren d at ht
  have ha : MemOnly s a := (MemOnly.refl s).copyFrame _ _ _ _
  clear_value a
  have hframes : d.frames = kset (kset s.frames n.frame { x with lastRead := s.tick32 }) o.frame { x with owned := false } := by
    have hb : b.frames = kset s.frames n.frame { x with lastRead := s.tick32 } := by
      rw [← ha.frames, show s.tick32 = a.tick32 by rw [State.tick32, State.tick32, ha.time]]
      rfl
    exact congrArg (fun m => kset m o.frame _) hb
  have hserv : ServOnly d t := ht ▸ (ServOnly.refl d).freeFrame _
  have hlast : t.frames = kset d.frames o.frame (d.frame o.frame).freed := ht ▸ d.freeFrame_frames _
  refine ⟨?_, ?_, ?_, fun hne => ?_⟩
  · have hd : d.seqs = kmapv c.seqs fun _ q => { q with pages := q.pages.map ren } := rfl
    have hren : ren = o.moved n := rfl
    have hc : c.seqs = a.seqs := rfl
    rw [hserv.seqs, hd, hc, ha.seqs, hren]
  · have hd : d.spills = a.spills := by simp only [d, c, b, State.setFrame, State.withPasses_spills, State.withNodes_spills,
      State.withSeqs_spills, State.withFrames_spills]
    rw [hserv.spills, hd, ha.spills]
  · rw [State.frame, hlast, kget_kset_same]
    rfl
  · rw [State.frame, hlast, kget_kset_ne _ _ _ (Ne.symm hne), hframes, kget_kset_ne _ _ _ (Ne.symm hne), kget_kset_same]

theorem State.moveFrame_seq (s : State) (o n : PageEnt) (h : s.seq? i = some q) :
    (s.moveFrame o n).seq? i = some { q with pages := q.pages.map (o.moved n) } := by
  obtain ⟨hseqs, -⟩ := s.moveFrame_effect o n rfl
  obtain ⟨hk, hne⟩ := State.seq?_eq_some.1 h
  refine State.seq?_eq_some.2 ⟨?_, hne⟩
  rw [hseqs, kfind_kmapv, hk]
  rfl

/-! ## A spill commits (R312) -/

theorem State.commitSpill_none {k : Nat} (h : s.spills[k]? = none) : s.commitSpill k = s := by
  unfold State.commitSpill
  rw [h]

theorem State.commitSpill_dead {k : Nat} {x : Spill} (h : s.spills[k]? = some x) (hl : s.spillLive x = false) :
    s.commitSpill k = x.new.foldl State.decRef (s.withSpills (s.spills.eraseIdx k)) := by
  have hl' : (s.withSpills (s.spills.eraseIdx k)).spillLive x = false := hl
  unfold State.commitSpill
  rw [h]
  dsimp only
  rw [hl']
  rfl

/-- The nodes that a spill took along settle in the arena of its destination. -/
def State.settleMoved (s : State) (ns : KMap Node) (dst : Nat) : State :=
  ns.foldl (fun s n =>
    match kfind s.nodes n.1 with
    | none => s
    | some y => ((s.setLru y.part ((s.lruOf y.part).filter (· != n.1))).setNode n.1 { y with part := dst }).settleNode n.1 false) s

theorem State.settleMoved_serv (s : State) (ns : KMap Node) (dst : Nat) : ServOnly s (s.settleMoved ns dst) := by
  unfold State.settleMoved
  refine (ServOnly.refl s).foldl ns fun b n hb => ?_
  split
  · exact hb
  · exact ((hb.setLru _ _).setNode _ _).settleNode _ _

/-- A live spill of one page: its frame moved, the slice is charged, the nodes that held it settle. -/
theorem State.commitSpill_one {k : Nat} {x : Spill} {o n : PageEnt} (h : s.spills[k]? = some x) (hl : s.spillLive x = true)
    (ho : x.old = [o]) (hn : x.new = [n]) : ∃ sl, s.commitSpill k =
      ((((s.withSpills (s.spills.eraseIdx k)).moveFrame o n).chargeCopy sl o.cls).bump F.KV_RECL.spilled x.src).settleMoved
        (s.nodes.filter fun y => y.2.frames.any fun e => !e.remote && x.old.any fun p => p.frame == e.frame) x.dst := by
  have hl' : (s.withSpills (s.spills.eraseIdx k)).spillLive x = true := hl
  unfold State.commitSpill
  rw [h]
  dsimp only
  rw [hl', if_neg (by decide), ho, hn]
  exact ⟨_, rfl⟩

theorem State.commitSpill_effect {k : Nat} {x : Spill} {o n : PageEnt} (h : s.spills[k]? = some x) (hl : s.spillLive x = true)
    (ho : x.old = [o]) (hn : x.new = [n]) {t : State} (ht : s.commitSpill k = t) : t.spills = s.spills.eraseIdx k ∧
      (∀ i q, s.seq? i = some q → ∃ v, t.seq? i = some v ∧ v.pages = q.pages.map (o.moved n)) ∧
      (o.frame ≠ n.frame → (s.nodes.any fun y => y.2.frames.any fun e => !e.remote && e.frame == o.frame) = false →
        (t.frame o.frame).alloc = false ∧ t.frame n.frame = { s.frame o.frame with lastRead := s.tick32 }) := by
  obtain ⟨sl, hsl⟩ := State.commitSpill_one h hl ho hn
  obtain ⟨-, hspills, hold, hnew⟩ := (s.withSpills (s.spills.eraseIdx k)).moveFrame_effect o n rfl
  have hseq : ∀ i q, s.seq? i = some q → _ := fun i q hq => (s.withSpills (s.spills.eraseIdx k)).moveFrame_seq o n (i := i) (q := q) hq
  rw [hsl] at ht
  generalize (s.withSpills (s.spills.eraseIdx k)).moveFrame o n = v at *
  have hv : ServOnly v ((v.chargeCopy sl o.cls).bump F.KV_RECL.spilled x.src) := (((ServOnly.refl v).count _ _ _).count _ _ _).put _ _ _
  have hframes : ((v.chargeCopy sl o.cls).bump F.KV_RECL.spilled x.src).frames = v.frames := rfl
  generalize (v.chargeCopy sl o.cls).bump F.KV_RECL.spilled x.src = w at *
  have hserv : ServOnly v t := ht ▸ hv.trans (w.settleMoved_serv _ _)
  refine ⟨hserv.spills.trans hspills, fun i q hq => ⟨_, (State.seq?_congr hserv.seqs i).trans (hseq i q hq), rfl⟩, fun hne hnone => ?_⟩
  have hmoved : (s.nodes.filter fun y => y.2.frames.any fun e => !e.remote && x.old.any fun p => p.frame == e.frame) = [] := by
    refine List.filter_eq_nil_iff.2 fun y hy => ?_
    have hy' := List.any_eq_false.1 hnone y hy
    have hsame : ∀ e : PageEnt, (x.old.any fun p => p.frame == e.frame) = (e.frame == o.frame) := fun e => by
      rw [ho, List.any_cons, List.any_nil, Bool.or_false, BEq.comm]
    simp only [hsame]
    exact hy'
  rw [hmoved] at ht
  have hframe : ∀ f, t.frame f = v.frame f := fun f => by
    rw [← ht, State.frame, State.frame, ← hframes]
    rfl
  rw [hframe, hframe]
  exact ⟨hold, hnew hne⟩

end Sys2Proof.Machine

/-! SUPPORT. Page waits that are exhausted, peer spills, pool moves and role changes (R29, R30, R291, R313, R314). -/

namespace Sys2Proof.Machine

open Sys2Proof.Safety

variable {s t u : State} {i : Nat} {q : Seq}

/-! ## A page wait is exhausted (R313) -/

/-- A sequence waits for pages: at its partition, or at the destination of a move. -/
def Seq.waits (q : Seq) : Prop := q.st = .pageWait ∨ q.st = .moving ∧ q.moveTo = none

theorem Seq.waits_runs (h : q.waits) : q.runs := by
  rcases h with h | ⟨h, -⟩ <;> simp [Seq.runs, h]

theorem State.exhaust_off (hq : s.seq? i = some q) (h : q.wait < s.rd F.KV_CTRL.pg_wait_lim) : s.exhaust i = s := by
  unfold State.exhaust
  rw [hq]
  dsimp only
  rw [show decide (s.rd F.KV_CTRL.pg_wait_lim ≤ q.wait) = false from decide_eq_false (Nat.not_le.2 h), Bool.and_false]
  rfl

/-- The registers of an exhausted wait. -/
def State.countExhaust (s : State) (p : Nat) : State := (s.put F.KV_STAT.exhaust 1).bump F.KV_WAIT.exhausted p

theorem State.exhaust_eq (hq : s.seq? i = some q) (hw : q.waits) (hl : s.rd F.KV_CTRL.pg_wait_lim ≤ q.wait) :
    ∃ d, s.exhaust i = (((s.countExhaust q.part).setSeq i (q.freeze 2)).notice (seqRing q)
      (mkEntry q.token St.pageExhausted 3 0x01 (s.handle i) d 0)).countWaiting q.part := by
  have hon : (q.st == .pageWait || (q.st == .moving && q.moveTo == none)) = true := by
    rcases hw with h | h <;> simp [h]
  have hq' : (s.countExhaust q.part).seq? i = some q := hq
  unfold State.exhaust
  rw [hq]
  dsimp only
  rw [hon, Bool.true_and, if_pos (decide_eq_true hl)]
  refine ⟨s.waitDetail i, congrArg (fun x : State => x.countWaiting q.part) ?_⟩
  exact State.freezeNotice_eq hq' (Seq.waits_runs hw) 2 St.pageExhausted (s.waitDetail i)

theorem State.exhaust_effect (hq : s.seq? i = some q) (hw : q.waits) (hl : s.rd F.KV_CTRL.pg_wait_lim ≤ q.wait) (hp : q.part < 8)
    (hsl : q.slice < 4096) (hr : q.ring < 16) {t : State} (ht : s.exhaust i = t) : t.seq? i = some (q.freeze 2) ∧
      t.rd F.KV_STAT.exhaust = 1 ∧ t.rd F.KV_WAIT.exhausted q.part = satAdd 32 (s.rd F.KV_WAIT.exhausted q.part) 1 := by
  obtain ⟨d, hd⟩ := State.exhaust_eq hq hw hl
  have hring : RingNo (seqRing q) := by
    show 16 * q.slice + q.ring < ctlRing + 9
    have : (65536 : Nat) ≤ ctlRing := le_refl _
    omega
  have hexh : F.KV_STAT.exhaust.Has 0 := Field.has_zero (by decide) rfl
  have hcnt : F.KV_WAIT.exhausted.Has q.part := Field.has_below rfl hp
  have hfirst : (s.countExhaust q.part).rd F.KV_STAT.exhaust = 1 ∧
      (s.countExhaust q.part).rd F.KV_WAIT.exhausted q.part = satAdd 32 (s.rd F.KV_WAIT.exhausted q.part) 1 := by
    constructor
    · rw [State.countExhaust, State.bump, State.rd_put_clear _ (f := F.KV_WAIT.exhausted) (by decide) hexh hcnt, State.rd_put_same]
      rfl
    · rw [State.countExhaust, State.rd_bump_same, State.rd_put_clear _ (f := F.KV_STAT.exhaust) (by decide) hcnt hexh]
      exact Nat.mod_eq_of_lt (lt_of_le_of_lt (min_le_left _ _) (by decide))
  obtain ⟨hfirst1, hfirst2⟩ := hfirst
  rw [hd] at ht
  have hseq : ((s.countExhaust q.part).setSeq i (q.freeze 2)).seq? i = some (q.freeze 2) :=
    State.seq?_setSeq _ _ (show (q.freeze 2).st ≠ .free by simp [Seq.freeze])
  have hrd : ∀ g j, ((s.countExhaust q.part).setSeq i (q.freeze 2)).rd g j = (s.countExhaust q.part).rd g j := fun _ _ => rfl
  generalize (s.countExhaust q.part).setSeq i (q.freeze 2) = v at *
  have hserv := (ServOnly.refl v).notice (seqRing q) (mkEntry q.token St.pageExhausted 3 0x01 (s.handle i) d 0)
  have hhost := (HostOnly.refl v).notice hring (mkEntry q.token St.pageExhausted 3 0x01 (s.handle i) d 0)
  generalize v.notice (seqRing q) (mkEntry q.token St.pageExhausted 3 0x01 (s.handle i) d 0) = w at *
  have hlast : ServOnly w t := ht ▸ (ServOnly.refl w).put _ _ _
  refine ⟨?_, ?_, ?_⟩
  · rw [State.seq?_congr (hserv.trans hlast).seqs, hseq]
  · rw [← ht, State.countWaiting, State.rd_put_clear _ (f := F.KV_WAIT.waiting) (by decide) hexh (Field.has_below rfl hp),
      hhost.2 _ 0 hexh (by decide), hrd, hfirst1]
  · rw [← ht, State.countWaiting, State.rd_put_clear _ (f := F.KV_WAIT.waiting) (by decide) hcnt (Field.has_below rfl hp),
      hhost.2 _ _ hcnt (by decide), hrd, hfirst2]

/-! ## Peer spills (R314) -/

theorem State.commitPeerSpill_off (hq : s.seq? i = some q) (h : q.peerSpill = false) (node : Nat) (fs : List Nat) :
    s.commitPeerSpill i node fs = s := by
  unfold State.commitPeerSpill
  rw [hq]
  dsimp only
  split
  · rfl
  · rw [h]
    rfl

theorem State.commitPeerSpill_effect (hq : s.seq? i = some q) {node f k : Nat} {e : PageEnt} (hs : q.peerSpill = true)
    (hn : s.cachePeers.contains node = true) (hlg : ((kfind s.models q.model).map (·.lgCount)).getD 1 = 1) (hk : localFull q 1 = some k)
    (he : q.pages[k]? = some e) {t : State} (ht : s.commitPeerSpill i node [f] = t) :
    t.seq? i = some { q with
      pages := q.pages.take k ++ [{ e with frame := f, node := node, remote := true }] ++ q.pages.drop (k + 1) } := by
  have hold : (q.pages.drop (k * 1)).take 1 = [e] := by
    rw [Nat.mul_one, List.take_one, List.head?_drop, he]
    rfl
  unfold State.commitPeerSpill at ht
  rw [hq] at ht
  dsimp only at ht
  rw [hlg, hk] at ht
  dsimp only at ht
  rw [hold, if_neg (by rw [hs, hn]; simp), Nat.mul_one] at ht
  have hseq := s.seq?_setSeq i (q := { q with
    pages := q.pages.take k ++ [{ e with frame := f, node := node, remote := true }] ++ q.pages.drop (k + 1) }) (State.seq?_eq_some.1 hq).2
  rw [← ht, ← hseq]
  exact State.seq?_congr (((((ServOnly.refl _).count _ _ _).count _ _ _).put _ _ _).decRefs _).seqs i

/-! ## Pool moves (R29, R291) -/

theorem Seq.arrived_runs {v : Seq} (h : v.st = q.arrived) : v.runs := by
  unfold Seq.runs
  rw [h]
  unfold Seq.arrived
  split
  · simp
  · split <;> simp

/-- A sequence that a move took to partition `p`, with its pages there. -/
def Seq.movedTo (q : Seq) (p : Nat) (es : List PageEnt) : Seq :=
  { q with pages := es, nodes := [], moveTo := none, part := p, st := q.arrived, wait := 0 }

theorem State.commitMove_off (hq : s.seq? i = some q) (h : q.moveTo = none ∨ q.cancelPend = true) : s.commitMove i = s := by
  unfold State.commitMove
  rw [hq]
  dsimp only
  split
  · rfl
  · have hc : q.cancelPend = true := h.resolve_left (by simp [*])
    exact if_pos (by simp [hc])

/-- A sequence stands at its destination, and the counts with it. -/
def State.settleMove (s : State) (i : Nat) (q : Seq) (p : Nat) (ps : List PageEnt) : State :=
  let s := s.setSeq i (q.movedTo p ps)
  let s := (s.put F.SRV_PART.seq_cnt (s.rd F.SRV_PART.seq_cnt q.part - 1) q.part).put F.SRV_PART.seq_cnt (s.rd F.SRV_PART.seq_cnt p + 1) p
  s.bump F.SRV_STEP2.moves q.part

theorem State.settleMove_seq (s : State) (i : Nat) (q : Seq) (p : Nat) (ps : List PageEnt) :
    (s.settleMove i q p ps).seq? i = some (q.movedTo p ps) := by
  have hst : (q.movedTo p ps).st ≠ .free := by
    rcases Seq.arrived_runs (q := q) (v := q.movedTo p ps) rfl with h | h | h | h | h <;> simp [h]
  have hserv : ServOnly (s.setSeq i (q.movedTo p ps)) (s.settleMove i q p ps) := ((ServOnly.refl _).put _ _ _).put _ _ _ |>.put _ _ _
  exact (State.seq?_congr hserv.seqs i).trans (s.seq?_setSeq i hst)

theorem State.commitMove_eq (hq : s.seq? i = some q) {p : Nat} {es : List PageEnt} (hto : q.moveTo = some (p, es)) (hm : q.st = .moving)
    (hc : q.cancelPend = false) (hr : s.moveRuns q.part p = true) :
    ∃ (u : State) (ps : List PageEnt), s.commitMove i = (u.settleMove i q p ps).applyFreeze i := by
  unfold State.commitMove
  rw [hq]
  dsimp only
  rw [hto]
  dsimp only
  rw [if_neg (by simp [hm, hc, hr])]
  exact ⟨_, _, rfl⟩

theorem State.commitMove_effect (hq : s.seq? i = some q) {p : Nat} {es : List PageEnt} (hto : q.moveTo = some (p, es)) (hm : q.st = .moving)
    (hc : q.cancelPend = false) (hr : s.moveRuns q.part p = true) {t : State} (ht : s.commitMove i = t) :
    ∃ v, t.seq? i = some v ∧ v.part = p ∧ v.moveTo = none ∧ v.nodes = [] ∧ v.wait = 0 ∧ v.len = q.len ∧ v.toks = q.toks ∧
      (q.freezeReq = none → v.st = q.arrived) ∧ (∀ c, q.freezeReq = some c → v.st = .frozen ∧ v.resume = q.arrived ∧ v.frzCause = c.1) := by
  obtain ⟨v, ps, heq⟩ := State.commitMove_eq hq hto hm hc hr
  have hu := v.settleMove_seq i q p ps
  rw [heq] at ht
  generalize v.settleMove i q p ps = u at *
  have hruns : (q.movedTo p ps).runs := Seq.arrived_runs rfl
  cases hf : q.freezeReq with
  | none =>
    rw [State.applyFreeze_none hu hf] at ht
    exact ⟨q.movedTo p ps, ht ▸ hu, rfl, rfl, rfl, rfl, rfl, rfl, fun _ => rfl, by simp⟩
  | some c =>
    obtain ⟨c, st⟩ := c
    rw [State.applyFreeze_eq hu hruns hf (by simp [Seq.movedTo])] at ht
    have hne : q.arrived ≠ .pageWait := by
      unfold Seq.arrived
      split
      · simp
      · split <;> simp
    have hset : (u.setSeq i ((q.movedTo p ps).freeze c)).seq? i = some ((q.movedTo p ps).freeze c) :=
      u.seq?_setSeq i (by simp [Seq.freeze])
    have hserv : ServOnly (u.setSeq i ((q.movedTo p ps).freeze c)) t := ht ▸ .ite (.refl _) ((ServOnly.refl _).notice _ _)
    refine ⟨(q.movedTo p ps).freeze c, (State.seq?_congr hserv.seqs i).trans hset, rfl, rfl, rfl, rfl, rfl, rfl, by simp, fun d hd => ⟨rfl, if_neg hne, ?_⟩⟩
    rw [← Option.some.inj hd]
    rfl

end Sys2Proof.Machine

/-! SUPPORT. Role changes (R29, R30): what asking for one shows, what its commit writes, what moving sequences off leaves. -/

namespace Sys2Proof.Machine

open Sys2Proof.Safety

variable {s t u : State} {p r : Nat}

/-! ## Registers of the page allocator -/

/-- Every register field below the KV block reads the same. -/
def BelowKv (s t : State) : Prop := ∀ (g : Field) (j : Nat), g.key j < 8 * 0x900000 → t.rd g j = s.rd g j

theorem BelowKv.refl (s : State) : BelowKv s s := fun _ _ _ => rfl

theorem BelowKv.of_regs (h : BelowKv s t) (e : u.regs = t.regs) : BelowKv s u := fun g j hg => (State.rd_congr e g j).trans (h g j hg)

theorem BelowKv.put (h : BelowKv s t) {f : Field} (hf : 0x900000 ≤ f.base) (v i : Nat) : BelowKv s (t.put f v i) := by
  intro g j hg
  refine (State.rd_put_ne t fun e => ?_).trans (h g j hg)
  have hle : 8 * 0x900000 ≤ f.key i := by
    show _ ≤ 8 * (f.base + f.stride * i) + f.lo
    omega
  omega

theorem BelowKv.ite {c : Prop} [Decidable c] (h : BelowKv s t) (k : BelowKv s u) : BelowKv s (if c then t else u) := by
  split
  · exact h
  · exact k

theorem BelowKv.takeFree (h : BelowKv s t) (p : Nat) (n c : Int) : BelowKv s (t.takeFree p n c) := (h.put (by decide) _ _).put (by decide) _ _

theorem BelowKv.allocFrame (h : BelowKv s t) {p c f : Nat} (ha : t.allocFrame p c = some (f, u)) : BelowKv s u := by
  unfold State.allocFrame at ha
  split at ha
  · obtain ⟨-, rfl⟩ := Prod.mk.inj (Option.some.inj ha)
    exact (BelowKv.takeFree (t := t.setFreeList p c _) h p _ _).of_regs rfl
  · dsimp only at ha
    split at ha
    · exact absurd ha (by simp)
    · obtain ⟨-, rfl⟩ := Prod.mk.inj (Option.some.inj ha)
      exact (BelowKv.takeFree (t := t.setFreeList p c _) h p _ _).of_regs rfl

theorem BelowKv.allocMany (h : BelowKv s t) {p c sl k n : Nat} {charge : Bool} {es : List PageEnt}
    (ha : t.allocMany p c sl k charge n = .ok (es, u)) : BelowKv s u := by
  induction n generalizing t es u with
  | zero =>
    obtain ⟨-, rfl⟩ := Prod.mk.inj (Except.ok.inj ha)
    exact h
  | succ n ih =>
    unfold State.allocMany at ha
    split at ha
    · exact absurd ha (by simp)
    · split at ha
      · exact absurd ha (by simp)
      · next f v hv =>
        extract_lets _ a b at ha
        have hframe : BelowKv s a := (h.allocFrame hv).of_regs rfl
        have hb : BelowKv s b := .ite (hframe.put (by decide) _ _) hframe
        split at ha
        · next hw =>
          obtain ⟨-, rfl⟩ := Prod.mk.inj (Except.ok.inj ha)
          exact ih hb hw
        · exact absurd ha (by simp)

theorem BelowKv.modSeq (h : BelowKv s t) (i : Nat) (f : Seq → Seq) : BelowKv s (t.modSeq i f) := by
  unfold State.modSeq
  split
  · exact h
  · exact h

theorem BelowKv.startMove (h : BelowKv s t) (i : Nat) : BelowKv s (t.startMove i) := by
  unfold State.startMove
  split
  · exact h
  · split
    · exact h
    · dsimp only
      refine .ite h ?_
      split
      · exact h
      · exact (h.allocMany ‹_›).modSeq _ _

/-- Moving sequences off a partition writes no register below the KV block. -/
theorem State.moveOff_below (s : State) (p r : Nat) : BelowKv s (s.moveOff p r) := by
  unfold State.moveOff
  extract_lets go
  exact List.foldlRecOn (motive := BelowKv s) _ _ (.refl s) fun b hb x _ => (hb.modSeq _ _).startMove _

/-! ## Asking and committing -/

/-- A role change is pending. -/
def State.roleAsked (s : State) (p r : Nat) : State := (s.put F.SRV_PART.role_pend r p).put F.SRV_PART.role_chg 1 p

theorem State.rd_roleAsked (s : State) (p r : Nat) {g : Field} (h1 : g.apart F.SRV_PART.role_pend = true)
    (h2 : g.apart F.SRV_PART.role_chg = true) (j : Nat) : (s.roleAsked p r).rd g j = s.rd g j := by
  rw [State.roleAsked, State.rd_put_apart _ h2, State.rd_put_apart _ h1]

theorem State.roleAsked_shows (s : State) (p : Nat) (hr : r < 4) : (s.roleAsked p r).rd F.SRV_PART.role_pend p = r ∧
    (s.roleAsked p r).rd F.SRV_PART.role_chg p = 1 := by
  constructor
  · rw [State.roleAsked, State.rd_put_apart _ (by decide), State.rd_put_same]
    exact Nat.mod_eq_of_lt hr
  · rw [State.roleAsked, State.rd_put_same]
    rfl

/-- A partition may take a role: it is there, the coordinator runs, and enough of the device serves (R30, R33, R200). -/
def State.roleFree (s : State) (p r : Nat) : Bool := s.partOn p && s.coordUp && s.serves p && s.rolesOk p r

theorem State.coordUp_congr (hc : t.coord = s.coord) (hp : t.procs = s.procs)
    (h : ∀ j, t.rd F.FW_PROC_STAT.pstate j = s.rd F.FW_PROC_STAT.pstate j) : t.coordUp = s.coordUp := by
  simp only [State.coordUp, State.coordinator, State.procUp, hc, hp, h]

theorem State.serves_congr (h1 : t.rd F.MEM_MAP.min_ch = s.rd F.MEM_MAP.min_ch)
    (h2 : ∀ j, t.rd F.MEM_CH_STAT.state j = s.rd F.MEM_CH_STAT.state j) (h3 : ∀ j, t.rd F.MEM_CH_STAT.lost j = s.rd F.MEM_CH_STAT.lost j)
    (p : Nat) : t.serves p = s.serves p := by
  have hlive : t.chanLive = s.chanLive := funext fun m => by rw [State.chanLive, State.chanLive, State.on, State.on, h2, h3]
  rw [State.serves, State.serves, State.liveChans, State.liveChans, hlive, h1]

theorem State.roleFree_asked (s : State) (p r p' r' : Nat) : (s.roleAsked p r).roleFree p' r' = s.roleFree p' r' := by
  have hn : (s.roleAsked p r).nPart = s.nPart := State.nPart_congr (s.rd_roleAsked p r (by decide) (by decide) 0)
  have hcoord : (s.roleAsked p r).coordUp = s.coordUp :=
    State.coordUp_congr rfl rfl (s.rd_roleAsked p r (by decide) (by decide))
  have hserves : (s.roleAsked p r).serves p' = s.serves p' := State.serves_congr (s.rd_roleAsked p r (by decide) (by decide) 0)
    (s.rd_roleAsked p r (by decide) (by decide)) (s.rd_roleAsked p r (by decide) (by decide)) p'
  have hroles : (s.roleAsked p r).rolesOk p' r' = s.rolesOk p' r' := by
    have hrole : ∀ x, (s.roleAsked p r).rd F.SRV_PART.role x = s.rd F.SRV_PART.role x := s.rd_roleAsked p r (by decide) (by decide)
    simp only [State.rolesOk, hn, hrole]
  rw [State.roleFree, State.roleFree, State.partOn, State.partOn, hn, hcoord, hserves, hroles]

theorem State.askRole_eq (h : s.roleFree p r = true) (hne : s.rd F.SRV_PART.role p ≠ r) : s.askRole p r = s.roleAsked p r := by
  have hbit : b2n (s.rd F.SRV_PART.role p != r) = 1 := by rw [bne_iff_ne.2 hne]; rfl
  unfold State.askRole
  exact (if_pos h).trans (by rw [hbit]; rfl)

/-- A pending change takes effect. -/
def State.takeRole (s : State) (p r : Nat) : State :=
  ((s.put F.SRV_PART.role r p).put F.SRV_PART.role_chg 0 p).event 3 3 Ev.roles (r + 4 * p) (pc p)

theorem State.commitRole_asked (h : s.roleFree p r = true) (hr : r < 4) : (s.roleAsked p r).commitRole p =
    (if (s.seqsOf p).all fun x => roleServes r x.2 then (s.roleAsked p r).takeRole p r else (s.roleAsked p r).moveOff p r) := by
  obtain ⟨hpend, hchg⟩ := s.roleAsked_shows p hr
  have hfree : (s.roleAsked p r).roleFree p r = true := (s.roleFree_asked p r p r).trans h
  have hon : (s.roleAsked p r).on F.SRV_PART.role_chg p = true := by rw [State.on, hchg]; rfl
  have hseqs : (s.roleAsked p r).seqsOf p = s.seqsOf p := rfl
  unfold State.commitRole
  rw [hpend]
  dsimp only
  rw [hseqs]
  refine if_pos ?_
  simp only [State.roleFree, Bool.and_eq_true] at hfree
  obtain ⟨⟨⟨h1, h2⟩, h3⟩, h4⟩ := hfree
  rw [h1, h2, h3, h4, hon]
  rfl

theorem State.takeRole_effect (s : State) (hr : r < 4) {t : State} (ht : (s.roleAsked p r).takeRole p r = t) :
    t.rd F.SRV_PART.role p = r ∧ t.rd F.SRV_PART.role_chg p = 0 ∧ t.seqs = s.seqs ∧ Logged s t 3 3 (r + 4 * p) (pc p) ∧
      RegsSame s t ((F.SRV_PART.role, p) :: (F.SRV_PART.role_chg, p) :: (F.SRV_PART.role_pend, p) :: eventFields) := by
  have hevent := event_only (((s.roleAsked p r).put F.SRV_PART.role r p).put F.SRV_PART.role_chg 0 p) 3 3 Ev.roles (r + 4 * p) (pc p)
  rw [← ht, State.takeRole]
  refine ⟨?_, ?_, ?_, ?_, ?_⟩
  · rw [State.rd_event _ _ _ _ _ _ (by decide), State.rd_put_apart _ (by decide), State.rd_put_same]
    exact Nat.mod_eq_of_lt hr
  · rw [State.rd_event _ _ _ _ _ _ (by decide), State.rd_put_same]
    rfl
  · rw [hevent.1]
    rfl
  · exact logged_put (logged_put (logged_put (logged_put (event_logged _ 3 3 Ev.roles (r + 4 * p) (pc p)) (by decide)) (by decide)) (by decide))
      (by decide)
  · exact regsSame_event (regsSame_put (regsSame_put (regsSame_put (regsSame_put (regsSame_refl s _) (by simp) _) (by simp) _) (by simp) _)
      (by simp) _) _ _ _ _ _ fun x hx => by simp [hx]

theorem State.moveOff_shows (s : State) (hp : p < 8) (hr : r < 4) {t : State} (ht : (s.roleAsked p r).moveOff p r = t) :
    t.rd F.SRV_PART.role_pend p = r ∧ t.rd F.SRV_PART.role_chg p = 1 ∧ t.rd F.SRV_PART.role p = s.rd F.SRV_PART.role p := by
  obtain ⟨hpend, hchg⟩ := s.roleAsked_shows p hr
  have hbelow : BelowKv (s.roleAsked p r) t := ht ▸ (s.roleAsked p r).moveOff_below p r
  have hkey : ∀ lo, lo < 64 → 8 * (0x800100 + 32 * p) + lo < 8 * 0x900000 := fun lo hlo => by omega
  refine ⟨?_, ?_, ?_⟩
  · rw [hbelow F.SRV_PART.role_pend p (hkey 2 (by decide)), hpend]
  · rw [hbelow F.SRV_PART.role_chg p (hkey 4 (by decide)), hchg]
  · rw [hbelow F.SRV_PART.role p (hkey 0 (by decide)), s.rd_roleAsked p r (by decide) (by decide)]

end Sys2Proof.Machine

open Sys2Proof Sys2Proof.Machine Sys2Proof.Safety in
/-- Settles O30: each commit of a step boundary by what it does to the table of sequences, the frames and the registers it shows; asking for a
role leaves what the commit looks at, so it takes effect in the same window where nothing stands in its way. -/
theorem spillsWaitsMovesAndRoles : Obligations.SpillsWaitsMovesAndRoles := by
  unfold Obligations.SpillsWaitsMovesAndRoles
  intro s
  have hspill : ∀ k, s.inCol = true → exec (.spillCommit k) s = .next (s.commitSpill k) := fun k hcol =>
    congrArg Host.Outcome.next (s.atBoundary_in hcol _)
  refine ⟨fun k hk => ?_, fun k x hcol hx hl => ?_, fun k x o n hcol hx hl ho hn => ?_, fun hcol k i node fs => ?_, fun i q hcol hq => ?_,
    fun p r hcol h1 h2 h3 h4 hne => ?_, fun p r hcol h1 h2 h3 h4 hne => ?_⟩
  · exact congrArg Host.Outcome.next ((congrArg (fun x => if s.inCol then x else s) (State.commitSpill_none hk)).trans (ite_self _))
  · rw [hspill k hcol, State.commitSpill_dead hx hl]
  · exact ⟨_, hspill k hcol, State.commitSpill_effect hx hl ho hn rfl⟩
  · exact ⟨congrArg Host.Outcome.next (s.atBoundary_off hcol _), congrArg Host.Outcome.next (s.atBoundary_off hcol _),
      congrArg Host.Outcome.next (s.atBoundary_off hcol _), congrArg Host.Outcome.next (s.atBoundary_off hcol _)⟩
  · have hwait : exec (.pageWaitExhausted i) s = .next (s.exhaust i) := congrArg Host.Outcome.next (s.atBoundary_in hcol _)
    have hpeer : ∀ node fs, exec (.peerSpillCommit i node fs) s = .next (s.commitPeerSpill i node.toNat (fs.map BitVec.toNat)) :=
      fun _ _ => congrArg Host.Outcome.next (s.atBoundary_in hcol _)
    have hmove : exec (.moveCommit i) s = .next (s.commitMove i) := congrArg Host.Outcome.next (s.atBoundary_in hcol _)
    refine ⟨fun hw hlim hp hsl hr => ?_, fun hlim => ?_, fun node f k e hs hn hlg hk he => ?_, fun node fs hs => ?_,
      fun p es hto hm hc hr => ?_, fun h => ?_⟩
    · obtain ⟨hseq, hexh, hcnt⟩ := State.exhaust_effect hq hw hlim hp hsl hr rfl
      refine ⟨_, _, hwait, hseq, rfl, rfl, ?_, rfl, hexh, hcnt⟩
      rcases hw with h | ⟨h, -⟩ <;> simp [Seq.freeze, h]
    · rw [hwait, State.exhaust_off hq hlim]
    · exact ⟨_, hpeer node [f], State.commitPeerSpill_effect hq hs hn hlg hk he rfl⟩
    · rw [hpeer, State.commitPeerSpill_off hq hs]
    · obtain ⟨v, hv⟩ := State.commitMove_effect hq hto hm hc hr rfl
      exact ⟨_, v, hmove, hv⟩
    · rw [hmove, State.commitMove_off hq h]
  · have hfree : s.roleFree p r = true := by rw [State.roleFree, h1, h2, h3, h4]; rfl
    have hexec : exec (.roleChange ⟨p, r⟩) s = .next ((s.roleAsked p r).commitRole p) := by
      show Host.Outcome.next ((s.askRole p r).atBoundary _) = _
      rw [State.askRole_eq hfree hne]
      exact congrArg Host.Outcome.next (State.atBoundary_in (s := s.roleAsked p r) hcol _)
    rw [hexec, State.commitRole_asked hfree r.isLt]
    refine ⟨fun hall => ?_, fun hall => ?_⟩
    · rw [if_pos hall]
      exact ⟨_, rfl, s.takeRole_effect r.isLt rfl⟩
    · rw [if_neg (by simp [hall])]
      exact ⟨_, rfl, s.moveOff_shows p.isLt r.isLt rfl⟩
  · have hfree : s.roleFree p r = true := by rw [State.roleFree, h1, h2, h3, h4]; rfl
    obtain ⟨hpend, hchg⟩ := s.roleAsked_shows p r.isLt
    refine ⟨s.roleAsked p r, ?_, hpend, hchg, rfl, regsSame_put (regsSame_put (regsSame_refl s _) (by simp) _) (by simp) _⟩
    show Host.Outcome.next ((s.askRole p r).atBoundary _) = _
    rw [State.askRole_eq hfree hne]
    exact congrArg Host.Outcome.next (State.atBoundary_off (s := s.roleAsked p r) hcol _)

/-! SUPPORT. Device time and the operations of a tick edge (R36, R65, R73). -/

namespace Sys2Proof.Machine

open Sys2Proof.Safety

/-- Device time but for the armed timers. -/
def State.clock (s : State) : TimeState := Machine.clock s.time

variable (s : State)

@[simp] theorem State.clock_ite {c : Prop} [Decidable c] (s t : State) : (if c then s else t).clock = if c then s.clock else t.clock :=
  apply_ite State.clock c s t

/-- A fold whose steps leave device time leaves it. -/
@[simp] theorem State.clock_foldl {α : Type} {g : State → α → State} (hg : ∀ b a, (g b a).clock = b.clock) (l : List α) (s : State) :
    (l.foldl g s).clock = s.clock :=
  List.foldlRecOn (motive := fun t : State => t.clock = s.clock) l g rfl fun b hb a _ => (hg b a).trans hb

theorem State.clock_getD {s t : State} {o : Option State} (ho : ∀ w, o = some w → w.clock = s.clock) (ht : t.clock = s.clock) :
    (o.getD t).clock = s.clock := by
  cases o with
  | none => exact ht
  | some w => exact ho w rfl

/-- A fold whose steps may fail and leave device time otherwise leaves it. -/
theorem State.clock_of_foldl_bind {α : Type} {g : State → α → Option State} (hg : ∀ b a t, g b a = some t → t.clock = b.clock) (l : List α)
    {s u : State} (h : l.foldl (fun r x => r.bind fun s => g s x) (some s) = some u) : u.clock = s.clock := by
  induction l generalizing s with
  | nil =>
    cases h
    rfl
  | cons a l ih =>
    simp only [List.foldl_cons, Option.bind_some] at h
    cases ha : g s a with
    | none =>
      rw [ha] at h
      have hnone : ∀ l : List α, l.foldl (fun r x => r.bind fun s => g s x) none = none := fun l => by
        induction l with
        | nil => rfl
        | cons _ _ ih => exact ih
      rw [hnone] at h
      cases h
    | some v =>
      rw [ha] at h
      exact (ih h).trans (hg s a v ha)

/-- A fold whose steps may fail with an error and keep a fact otherwise keeps it. -/
theorem foldl_keep_ok {ε α β : Type} {P : β → Prop} {g : Except ε β → α → Except ε β}
    (hg : ∀ r a, (∀ t, r = .ok t → P t) → ∀ t, g r a = .ok t → P t)
    (l : List α) {b t : β} (hb : P b) (h : l.foldl g (.ok b) = .ok t) : P t :=
  foldl_keep (P := fun r : Except ε β => ∀ t, r = .ok t → P t) hg l (fun _ ht => Except.ok.inj ht ▸ hb) t h

@[simp] theorem State.clock_withStaged (v : KMap Nat) : (s.withStaged v).clock = s.clock := by rfl
@[simp] theorem State.clock_withPoison (v : List Nat) : (s.withPoison v).clock = s.clock := by rfl
@[simp] theorem State.clock_withBadCopy (v : List (Nat × Bool)) : (s.withBadCopy v).clock = s.clock := by rfl
@[simp] theorem State.clock_withLineKey (v : KMap (Nat × Nat)) : (s.withLineKey v).clock = s.clock := by rfl
@[simp] theorem State.clock_withKeys (v : KMap KeySlot) : (s.withKeys v).clock = s.clock := by rfl
@[simp] theorem State.clock_withParts (v : KMap Part) : (s.withParts v).clock = s.clock := by rfl
@[simp] theorem State.clock_withCores (v : KMap Core) : (s.withCores v).clock = s.clock := by rfl
@[simp] theorem State.clock_withThreads (v : KMap Thread) : (s.withThreads v).clock = s.clock := by rfl
@[simp] theorem State.clock_withJobs (v : KMap Job) : (s.withJobs v).clock = s.clock := by rfl
@[simp] theorem State.clock_withSpurs (v : KMap SpurCore) : (s.withSpurs v).clock = s.clock := by rfl
@[simp] theorem State.clock_withDmas (v : KMap (List Dma)) : (s.withDmas v).clock = s.clock := by rfl
@[simp] theorem State.clock_withCells (v : KMap Cell) : (s.withCells v).clock = s.clock := by rfl
@[simp] theorem State.clock_withFhBufs (v : List FhBuf) : (s.withFhBufs v).clock = s.clock := by rfl
@[simp] theorem State.clock_withSeqs (v : KMap Seq) : (s.withSeqs v).clock = s.clock := by rfl
@[simp] theorem State.clock_withCmds (v : KMap Cmd) : (s.withCmds v).clock = s.clock := by rfl
@[simp] theorem State.clock_withNextCmd (v : Nat) : (s.withNextCmd v).clock = s.clock := by rfl
@[simp] theorem State.clock_withPasses (v : List Pass) : (s.withPasses v).clock = s.clock := by rfl
@[simp] theorem State.clock_withNextPass (v : Nat) : (s.withNextPass v).clock = s.clock := by rfl
@[simp] theorem State.clock_withModels (v : KMap Model) : (s.withModels v).clock = s.clock := by rfl
@[simp] theorem State.clock_withDeltas (v : KMap Delta) : (s.withDeltas v).clock = s.clock := by rfl
@[simp] theorem State.clock_withLoads (v : List (Nat × Nat × Nat × Nat)) : (s.withLoads v).clock = s.clock := by rfl
@[simp] theorem State.clock_withLastAdm (v : Option Nat) : (s.withLastAdm v).clock = s.clock := by rfl
@[simp] theorem State.clock_withFrames (v : KMap Frame) : (s.withFrames v).clock = s.clock := by rfl
@[simp] theorem State.clock_withChunks (v : KMap (Nat × Nat)) : (s.withChunks v).clock = s.clock := by rfl
@[simp] theorem State.clock_withFreeLists (v : KMap (List Nat)) : (s.withFreeLists v).clock = s.clock := by rfl
@[simp] theorem State.clock_withNodes (v : KMap Node) : (s.withNodes v).clock = s.clock := by rfl
@[simp] theorem State.clock_withLru (v : KMap (List Nat)) : (s.withLru v).clock = s.clock := by rfl
@[simp] theorem State.clock_withHeldFrames (v : List Nat) : (s.withHeldFrames v).clock = s.clock := by rfl
@[simp] theorem State.clock_withScopesDead (v : List Nat) : (s.withScopesDead v).clock = s.clock := by rfl
@[simp] theorem State.clock_withSpills (v : List Spill) : (s.withSpills v).clock = s.clock := by rfl
@[simp] theorem State.clock_withLinks (v : KMap Link) : (s.withLinks v).clock = s.clock := by rfl
@[simp] theorem State.clock_withMembers (v : List Nat) : (s.withMembers v).clock = s.clock := by rfl
@[simp] theorem State.clock_withSpares (v : List Nat) : (s.withSpares v).clock = s.clock := by rfl
@[simp] theorem State.clock_withCachePeers (v : List Nat) : (s.withCachePeers v).clock = s.clock := by rfl
@[simp] theorem State.clock_withRoutes (v : KMap Route) : (s.withRoutes v).clock = s.clock := by rfl
@[simp] theorem State.clock_withFabReqs (v : List FabReq) : (s.withFabReqs v).clock = s.clock := by rfl
@[simp] theorem State.clock_withNextTid (v : KMap Nat) : (s.withNextTid v).clock = s.clock := by rfl
@[simp] theorem State.clock_withWindows (v : KMap Dedup) : (s.withWindows v).clock = s.clock := by rfl
@[simp] theorem State.clock_withMove (v : Option ShardMove) : (s.withMove v).clock = s.clock := by rfl
@[simp] theorem State.clock_withRings (v : KMap Ring) : (s.withRings v).clock = s.clock := by rfl
@[simp] theorem State.clock_withSlices (v : KMap Slice) : (s.withSlices v).clock = s.clock := by rfl
@[simp] theorem State.clock_withGroups (v : KMap Group) : (s.withGroups v).clock = s.clock := by rfl
@[simp] theorem State.clock_withThaws (v : List (Nat × Nat × Nat × Bool)) : (s.withThaws v).clock = s.clock := by rfl
@[simp] theorem State.clock_withCopies (v : List HostCopy) : (s.withCopies v).clock = s.clock := by rfl
@[simp] theorem State.clock_withHeldCmds (v : List Held) : (s.withHeldCmds v).clock = s.clock := by rfl
@[simp] theorem State.clock_withCoord (v : Option Nat) : (s.withCoord v).clock = s.clock := by rfl
@[simp] theorem State.clock_withCtlWindow (v : List CqEntry) : (s.withCtlWindow v).clock = s.clock := by rfl
@[simp] theorem State.clock_withCtlNeg (v : Bool) : (s.withCtlNeg v).clock = s.clock := by rfl
@[simp] theorem State.clock_withCtlNegPend (v : Bool) : (s.withCtlNegPend v).clock = s.clock := by rfl
@[simp] theorem State.clock_withCtlAgreed (v : Nat × Nat) : (s.withCtlAgreed v).clock = s.clock := by rfl
@[simp] theorem State.clock_withEvents (v : List CqEntry) : (s.withEvents v).clock = s.clock := by rfl
@[simp] theorem State.clock_withProcs (v : KMap Proc) : (s.withProcs v).clock = s.clock := by rfl
@[simp] theorem State.clock_withSec (v : SecState) : (s.withSec v).clock = s.clock := by rfl
@[simp] theorem State.clock_withMgt (v : MgtState) : (s.withMgt v).clock = s.clock := by rfl
@[simp] theorem State.clock_withFree (v : Nat) : (s.withFree v).clock = s.clock := by rfl
@[simp] theorem State.clock_withOut (v : List Out) : (s.withOut v).clock = s.clock := by rfl
@[simp] theorem State.clock_put (f : Field) (v i : Nat) : (s.put f v i).clock = s.clock := by rfl
@[simp] theorem State.clock_bump (f : Field) (i k : Nat) : (s.bump f i k).clock = s.clock := by simp [State.bump]
@[simp] theorem State.clock_orf (f : Field) (m i : Nat) : (s.orf f m i).clock = s.clock := by simp [State.orf]
@[simp] theorem State.clock_showStaged (p : Nat) : (s.showStaged p).clock = s.clock := by simp [State.showStaged]
@[simp] theorem State.clock_pendBits (f : Field) (i : Nat) : (s.pendBits f i).clock = s.clock := by
  unfold State.pendBits
  split <;> simp
@[simp] theorem State.clock_stage (f : Field) (v i : Nat) : (s.stage f v i).clock = s.clock := by simp [State.stage]
@[simp] theorem State.clock_commit (f : Field) (i : Nat) : (s.commit f i).clock = s.clock := by
  unfold State.commit
  split <;> simp
@[simp] theorem State.clock_memWr (a : Nat) (bs : List Byte) : (s.memWr a bs).clock = s.clock := by rfl
@[simp] theorem State.clock_sramWr (a : Nat) (bs : List Byte) : (s.sramWr a bs).clock = s.clock := by simp [State.sramWr]
@[simp] theorem State.clock_memKeep (p : Nat → Bool) : (s.memKeep p).clock = s.clock := by rfl
@[simp] theorem State.clock_poisonKeep (p : Nat → Bool) : (s.poisonKeep p).clock = s.clock := by simp [State.poisonKeep]
@[simp] theorem State.clock_emit (o : Out) : (s.emit o).clock = s.clock := by simp [State.emit]
theorem State.clock_of_hostWr {s : State} {a : Nat} {bs : List Byte} {sp : Nat} {u} (h : s.hostWr a bs sp = some u) :
    u.clock = s.clock := by
  unfold State.hostWr at h
  split at h
  · cases h
    rfl
  · cases h
@[simp] theorem State.clock_drawn : (s.drawn).clock = s.clock := by simp [State.drawn]
@[simp] theorem State.clock_showFault (s1 : State) : (s.showFault s1).clock = s.clock := by simp [State.showFault]
@[simp] theorem State.clock_writeRec (r : EvRec) : (s.writeRec r).clock = s.clock := by simp [State.writeRec]
@[simp] theorem State.clock_event (cls sev k data src : Nat) : (s.event cls sev k data src).clock = s.clock := by simp [State.event]
@[simp] theorem State.clock_service (cls k data src : Nat) : (s.service cls k data src).clock = s.clock := by simp [State.service]
@[simp] theorem State.clock_each (is : List Nat) (f : State → Nat → State) (hf : ∀ t i, (f t i).clock = t.clock) :
    (s.each is f).clock = s.clock := by
  simp [State.each, hf]
@[simp] theorem State.clock_onlyIf (c : Bool) (f : State → State) (hf : ∀ t, (f t).clock = t.clock) :
    (s.onlyIf c f).clock = s.clock := by
  simp [State.onlyIf, hf]
@[simp] theorem State.clock_ringPut (g : RingReg) (k v : Nat) : (s.ringPut g k v).clock = s.clock := by simp [State.ringPut]
@[simp] theorem State.clock_setRing (k : Nat) (r : Ring) : (s.setRing k r).clock = s.clock := by rfl
@[simp] theorem State.clock_msix (fn v : Nat) : (s.msix fn v).clock = s.clock := by simp [State.msix]
@[simp] theorem State.clock_fireRing (k : Nat) : (s.fireRing k).clock = s.clock := by simp [State.fireRing]
@[simp] theorem State.clock_setSlice (n : Nat) (x : Slice) : (s.setSlice n x).clock = s.clock := by rfl
@[simp] theorem State.clock_count (sl k n : Nat) : (s.count sl k n).clock = s.clock := by simp [State.count]
@[simp] theorem State.clock_ringBytes (k n : Nat) : (s.ringBytes k n).clock = s.clock := by simp [State.ringBytes]
@[simp] theorem State.clock_postRaw (k : Nat) (e : CqEntry) : (s.postRaw k e).clock = s.clock := by
  unfold State.postRaw
  extract_lets c lg e' r t v
  have hv : v.clock = s.clock := by simp [v, t]
  split
  · exact State.clock_getD (fun w hw => (State.clock_of_hostWr hw).trans hv) hv
  · exact hv
@[simp] theorem State.clock_coalesce (k : Nat) : (s.coalesce k).clock = s.clock := by simp [State.coalesce]
@[simp] theorem State.clock_postCq (k : Nat) (e : CqEntry) : (s.postCq k e).clock = s.clock := by simp [State.postCq]
@[simp] theorem State.clock_notice (k : Nat) (e : CqEntry) : (s.notice k e).clock = s.clock := by simp [State.notice]
@[simp] theorem State.clock_eventEntry (code handle opc : Nat) :
    (s.eventEntry code handle opc).clock = s.clock := by
  simp [State.eventEntry]
@[simp] theorem State.clock_setSliceState (n st : Nat) : (s.setSliceState n st).clock = s.clock := by rfl
@[simp] theorem State.clock_takeEntry (k : Nat) : (s.takeEntry k).clock = s.clock := by simp [State.takeEntry]
@[simp] theorem State.clock_agreeCtl : (s.agreeCtl).clock = s.clock := by simp [State.agreeCtl]
@[simp] theorem State.clock_agreeSlice (n : Nat) : (s.agreeSlice n).clock = s.clock := by simp [State.agreeSlice]
@[simp] theorem State.clock_settleNeg (k : Nat) : (s.settleNeg k).clock = s.clock := by simp [State.settleNeg]
@[simp] theorem State.clock_release1 (k : Nat) : (s.release1 k).clock = s.clock := by simp [State.release1]
@[simp] theorem State.clock_postCopies (k : Nat) (e : CqEntry) (n : Nat) : (s.postCopies k e n).clock = s.clock := by
  induction n generalizing s with
  | zero => rfl
  | succ n ih => simp [State.postCopies, ih]
@[simp] theorem State.clock_remember (k : Nat) (e : CqEntry) : (s.remember k e).clock = s.clock := by simp [State.remember]
@[simp] theorem State.clock_finish (k tok opc status handle res0 res1 : Nat) :
    (s.finish k tok opc status handle res0 res1).clock = s.clock := by
  simp [State.finish]
@[simp] theorem State.clock_withToken (k tok opc : Nat) (go : State → State) (hf : ∀ t, (go t).clock = t.clock) :
    (s.withToken k tok opc go).clock = s.clock := by
  unfold State.withToken
  split <;> simp [hf]
@[simp] theorem State.clock_storeRow (t : Tile) (row : Nat) (es : List Nat) :
    (s.storeRow t row es).clock = s.clock := by
  simp [State.storeRow]
@[simp] theorem State.clock_retireTile (t : Tile) (bank : KMap Nat) : (s.retireTile t bank).clock = s.clock := by simp [State.retireTile]
@[simp] theorem State.clock_noteAbsorb (a status : Nat) : (s.noteAbsorb a status).clock = s.clock := by
  unfold State.noteAbsorb
  split <;> simp
@[simp] theorem State.clock_rdRecord (a n k : Nat) : (s.rdRecord a n k).clock = s.clock := by simp [State.rdRecord]
@[simp] theorem State.clock_settleOld (a n k : Nat) : (s.settleOld a n k).clock = s.clock := by simp [State.settleOld]
@[simp] theorem State.clock_store (a : Nat) (bs : List Byte) (k : Nat) : (s.store a bs k).clock = s.clock := by simp [State.store]
@[simp] theorem State.clock_poisonRange (a n : Nat) : (s.poisonRange a n).clock = s.clock := by simp [State.poisonRange]
@[simp] theorem State.clock_setSpur (n : Nat) (x : SpurCore) : (s.setSpur n x).clock = s.clock := by rfl
@[simp] theorem State.clock_setThread (th : Nat) (t : Thread) : (s.setThread th t).clock = s.clock := by rfl
@[simp] theorem State.clock_fillLocked (n : Nat) : (s.fillLocked n).clock = s.clock := by simp [State.fillLocked]
@[simp] theorem State.clock_dbgEvent (tgt reason pc : Nat) : (s.dbgEvent tgt reason pc).clock = s.clock := by simp [State.dbgEvent]
@[simp] theorem State.clock_meter (th a n : Nat) : (s.meter th a n).clock = s.clock := by
  unfold State.meter
  split <;> simp
@[simp] theorem State.clock_postStore (th : Nat) (p : Posted) : (s.postStore th p).clock = s.clock := by simp [State.postStore]
@[simp] theorem State.clock_writeLine (th : Nat) (l : CacheLine) : (s.writeLine th l).clock = s.clock := by simp [State.writeLine]
@[simp] theorem State.clock_atomicAt (a n key op : Nat) (sgn : Bool) (opnd cmp : Nat) :
    (s.atomicAt a n key op sgn opnd cmp).1.clock = s.clock := by
  unfold State.atomicAt
  split <;> simp
@[simp] theorem State.clock_setPart (p : Nat) (x : Part) : (s.setPart p x).clock = s.clock := by rfl
@[simp] theorem State.clock_setCore (n : Nat) (x : Core) : (s.setCore n x).clock = s.clock := by rfl
@[simp] theorem State.clock_setProc (i : Nat) (x : Proc) : (s.setProc i x).clock = s.clock := by rfl
@[simp] theorem State.clock_setCell (c : Nat) (x : Cell) : (s.setCell c x).clock = s.clock := by rfl
@[simp] theorem State.clock_setSeq (i : Nat) (q : Seq) : (s.setSeq i q).clock = s.clock := by rfl
@[simp] theorem State.clock_modSeq (i : Nat) (f : Seq → Seq) : (s.modSeq i f).clock = s.clock := by
  unfold State.modSeq
  split <;> simp
@[simp] theorem State.clock_clrf (f : Field) (m i : Nat) : (s.clrf f m i).clock = s.clock := by simp [State.clrf]
@[simp] theorem State.clock_logPut (i tp sev len data : Nat) : (s.logPut i tp sev len data).clock = s.clock := by simp [State.logPut]
@[simp] theorem State.clock_logRec (i tp sev : Nat) (words : List Nat) : (s.logRec i tp sev words).clock = s.clock := by simp [State.logRec]
@[simp] theorem State.clock_dropChange (p kind what : Nat) : (s.dropChange p kind what).clock = s.clock := by simp [State.dropChange]
@[simp] theorem State.clock_setFrame (f : Nat) (x : Frame) : (s.setFrame f x).clock = s.clock := by rfl
@[simp] theorem State.clock_setFreeList (p c : Nat) (l : List Nat) : (s.setFreeList p c l).clock = s.clock := by rfl
@[simp] theorem State.clock_takeFree (p : Nat) (n c : ℤ) : (s.takeFree p n c).clock = s.clock := by simp [State.takeFree]
theorem State.clock_of_allocFrame {s : State} {p c : Nat} {u} (h : s.allocFrame p c = some u) : u.2.clock = s.clock := by
  unfold State.allocFrame at h
  dsimp only at h
  split at h
  · cases h
    simp
  · split at h <;> cases h
    simp
@[simp] theorem State.clock_freeFrame (f : Nat) : (s.freeFrame f).clock = s.clock := by
  unfold State.freeFrame
  dsimp only
  split
  · split
    · simp
    · split <;> simp
  · split
    · simp
    · split <;> simp
@[simp] theorem State.clock_decRef (e : PageEnt) : (s.decRef e).clock = s.clock := by simp [State.decRef]
@[simp] theorem State.clock_incRef (e : PageEnt) : (s.incRef e).clock = s.clock := by simp [State.incRef]
theorem State.clock_of_allocMany {s : State} {p c sl k : Nat} {charge : Bool} {n : Nat} {u} (h : s.allocMany p c sl k charge n = .ok u) :
    u.2.clock = s.clock := by
  induction n generalizing s u with
  | zero =>
    cases h
    rfl
  | succ n ih =>
    unfold State.allocMany at h
    dsimp only at h
    split at h
    · cases h
    · split at h
      · cases h
      · next f v hv =>
        split at h
        · next hw =>
          cases h
          exact (ih hw).trans (by simp [State.clock_of_allocFrame hv])
        · cases h
@[simp] theorem State.clock_setLru (p : Nat) (l : List Nat) : (s.setLru p l).clock = s.clock := by rfl
@[simp] theorem State.clock_setNode (n : Nat) (x : Node) : (s.setNode n x).clock = s.clock := by rfl
@[simp] theorem State.clock_settleNode (n : Nat) (head : Bool) : (s.settleNode n head).clock = s.clock := by
  unfold State.settleNode
  split <;> simp
@[simp] theorem State.clock_useNode (n : Nat) (up : Bool) : (s.useNode n up).clock = s.clock := by
  unfold State.useNode
  split <;> simp
@[simp] theorem State.clock_dropNode (n : Nat) : (s.dropNode n).clock = s.clock := by
  unfold State.dropNode
  dsimp only
  split
  · simp
  · split
    · simp
    · split <;> simp
@[simp] theorem State.clock_dropNodes (t : Node → Bool) : (s.dropNodes t).clock = s.clock := by simp [State.dropNodes]
@[simp] theorem State.clock_releasePages (idx : Nat) : (s.releasePages idx).clock = s.clock := by
  unfold State.releasePages
  split
  · simp
  · split <;> simp
@[simp] theorem State.clock_freeTransit (i : Nat) : (s.freeTransit i).clock = s.clock := by
  unfold State.freeTransit
  split <;> simp
@[simp] theorem State.clock_charge (rows : List (Nat × Nat)) (first : Nat) (ks : List Nat) (q : Nat) :
    (s.charge rows first ks q).clock = s.clock := by
  simp [State.charge]
@[simp] theorem State.clock_seqNotice (i status detail : Nat) : (s.seqNotice i status detail).clock = s.clock := by
  unfold State.seqNotice
  split <;> simp
@[simp] theorem State.clock_freezeNow (i cause : Nat) : (s.freezeNow i cause).clock = s.clock := by simp [State.freezeNow]
@[simp] theorem State.clock_freezeNotice (i cause status detail : Nat) : (s.freezeNotice i cause status detail).clock = s.clock := by
  unfold State.freezeNotice
  split <;> simp
@[simp] theorem State.clock_askFreeze (i cause status : Nat) : (s.askFreeze i cause status).clock = s.clock := by simp [State.askFreeze]
@[simp] theorem State.clock_applyFreeze (i : Nat) : (s.applyFreeze i).clock = s.clock := by
  unfold State.applyFreeze
  split
  · simp
  · split <;> simp
@[simp] theorem State.clock_askCancel (i : Nat) : (s.askCancel i).clock = s.clock := by simp [State.askCancel]
@[simp] theorem State.clock_dropCopies (i : Nat) (q : Seq) : (s.dropCopies i q).clock = s.clock := by
  unfold State.dropCopies
  split <;> simp
@[simp] theorem State.clock_applyCancel (i : Nat) : (s.applyCancel i).clock = s.clock := by
  unfold State.applyCancel
  split <;> simp
theorem State.clock_of_writeTokens {s : State} {c : Cmd} {i n : Nat} {ts : List Nat} {u} (h : s.writeTokens c i n ts = some u) :
    u.clock = s.clock := by
  unfold State.writeTokens at h
  split at h
  · cases h
    rfl
  · obtain ⟨w, hw, rfl⟩ := Option.map_eq_some_iff.1 h
    simp [State.clock_of_hostWr hw]
theorem State.clock_of_writeFamily {s : State} {k : Nat} {c : Cmd} {u} (h : s.writeFamily k c = some u) : u.clock = s.clock := by
  unfold State.writeFamily at h
  obtain ⟨w, hw, rfl⟩ := Option.map_eq_some_iff.1 h
  rw [State.clock_withCmds]
  exact State.clock_of_foldl_bind (fun b a t ht => State.clock_of_writeTokens ht) _ hw
theorem State.clock_of_writeOutputs {s : State} {q : Seq} {from_ : Nat} {u} (h : s.writeOutputs q from_ = some u) : u.clock = s.clock := by
  unfold State.writeOutputs at h
  split at h
  · cases h
    rfl
  · split at h
    · exact State.clock_of_writeFamily h
    · exact State.clock_of_writeTokens h
@[simp] theorem State.clock_unpin (q : Seq) : (s.unpin q).clock = s.clock := by
  unfold State.unpin
  split
  · split <;> simp
  · simp
@[simp] theorem State.clock_freeEntry (i : Nat) : (s.freeEntry i).clock = s.clock := by
  unfold State.freeEntry
  split <;> simp
@[simp] theorem State.clock_countEntry (q : Seq) : (s.countEntry q).clock = s.clock := by simp [State.countEntry]
@[simp] theorem State.clock_newEntry (q : Seq) : (s.newEntry q).2.clock = s.clock := by simp [State.newEntry]
@[simp] theorem State.clock_copyLine (from_ to_ kr kw : Nat) : (s.copyLine from_ to_ kr kw).clock = s.clock := by simp [State.copyLine]
@[simp] theorem State.clock_copyFrame (src dst cls key : Nat) : (s.copyFrame src dst cls key).clock = s.clock := by simp [State.copyFrame]
@[simp] theorem State.clock_chargeCopy (sl cls : Nat) : (s.chargeCopy sl cls).clock = s.clock := by simp [State.chargeCopy]
theorem State.clock_of_shareEntries {s : State} {q : Seq} {l : List PageEnt} {u} (h : s.shareEntries q l = .ok u) :
    u.2.clock = s.clock := by
  induction l generalizing s u with
  | nil =>
    cases h
    rfl
  | cons e es ih =>
    unfold State.shareEntries at h
    extract_lets one at h
    have hone : ∀ r, one = .ok r → r.2.clock = s.clock := by
      intro r hr
      unfold one at hr
      split at hr
      · cases hr
        simp
      · split at hr
        · next hv =>
          cases hr
          simp [State.clock_of_allocMany hv]
        · cases hr
        · cases hr
    cases ho : one with
    | error r =>
      rw [ho] at h
      cases h
    | ok r =>
      rw [ho] at h
      dsimp only at h
      split at h
      · next hs =>
        cases h
        exact (ih hs).trans (hone _ ho)
      · cases h
@[simp] theorem State.clock_pin (q : Seq) : (s.pin q).clock = s.clock := by
  unfold State.pin
  split
  · split <;> simp
  · simp
@[simp] theorem State.clock_startMove (i : Nat) : (s.startMove i).clock = s.clock := by
  unfold State.startMove
  dsimp only
  split
  · rfl
  · split
    · rfl
    · split
      · rfl
      · split
        · rfl
        · next h => simp [State.clock_of_allocMany h]
@[simp] theorem State.clock_afterPrefill (i : Nat) : (s.afterPrefill i).clock = s.clock := by
  unfold State.afterPrefill
  split <;> simp
@[simp] theorem State.clock_endTest (i : Nat) : (s.endTest i).clock = s.clock := by
  unfold State.endTest
  split <;> simp
@[simp] theorem State.clock_thawNow (i : Nat) : (s.thawNow i).clock = s.clock := by
  unfold State.thawNow
  dsimp only
  split
  · rfl
  · split
    · rfl
    · split
      · simp
      · split
        · simp
        · next h => simp [State.clock_of_writeOutputs h]
@[simp] theorem State.clock_fireTimer (n : Nat) : (s.fireTimer n).clock = s.clock := by
  unfold State.fireTimer
  exact (State.clock_msix _ _ _).trans (State.clock_orf _ _ _ _)
@[simp] theorem State.clock_fireAll : (s.fireAll).clock = s.clock := by simp [State.fireAll]
@[simp] theorem State.clock_read1 (k : Nat) (x : SubEntry) (go : State → State) (hf : ∀ t, (go t).clock = t.clock) :
    (s.read1 k x go).clock = s.clock := by
  simp [State.read1, hf]
@[simp] theorem State.clock_complete (k : Nat) (x : SubEntry) (status handle res0 res1 : Nat) :
    (s.complete k x status handle res0 res1).clock = s.clock := by
  simp [State.complete]
@[simp] theorem State.clock_checked (k : Nat) (x : SubEntry) (m2 m3 m4 m5 m6 m7 : Nat) (go : State → State) (hf : ∀ t, (go t).clock = t.clock) :
    (s.checked k x m2 m3 m4 m5 m6 m7 go).clock = s.clock := by
  simp [State.checked, hf]
@[simp] theorem State.clock_owned (owner : Nat) (x : SubEntry) (go : State → State) (hf : ∀ t, (go t).clock = t.clock) :
    (s.owned owner x go).clock = s.clock := by
  unfold State.owned
  dsimp only
  split
  · split
    · simp [hf]
    · simp
  · simp [hf]
@[simp] theorem State.clock_missed (p desc : Nat) : (s.missed p desc).clock = s.clock := by simp [State.missed]
@[simp] theorem State.clock_snapImages (p : Nat) : (s.snapImages p).clock = s.clock := by simp [State.snapImages]
@[simp] theorem State.clock_showFit (p : Nat) : (s.showFit p).clock = s.clock := by
  unfold State.showFit
  split <;> simp
@[simp] theorem State.clock_commitBankPair (p : Nat) : (s.commitBankPair p).1.clock = s.clock := by
  unfold State.commitBankPair
  dsimp only
  split
  · split <;> simp
  · simp
@[simp] theorem State.clock_readSlots (t : ℤ) : (s.readSlots t).clock = s.clock := by simp [State.readSlots]
@[simp] theorem State.clock_stopCell (cid : Nat) (st : CellState) : (s.stopCell cid st).clock = s.clock := by
  unfold State.stopCell
  split <;> simp
@[simp] theorem State.clock_finishCell (tok status : Nat) : (s.finishCell tok status).clock = s.clock := by simp [State.finishCell]
@[simp] theorem State.clock_cellCtrl (x : SubEntry) (cid op : Nat) (c : Cell) : (s.cellCtrl x cid op c).clock = s.clock := by
  unfold State.cellCtrl
  dsimp only
  split
  · simp
  · split
    · simp
    · simp
    · split
      · simp
      · simp
      · simp
      · split
        · split <;> simp
        · simp
      · simp
    · split <;> simp
@[simp] theorem State.clock_cmdCell (x : SubEntry) :
    (State.cmdCell x s).clock = s.clock := by
  simp (disch := (intros; split <;> simp)) [State.cmdCell]
@[simp] theorem State.clock_cmdCellStatus (x : SubEntry) : (State.cmdCellStatus x s).clock = s.clock := by
  unfold State.cmdCellStatus
  refine State.clock_checked s _ _ _ _ _ _ _ _ _ fun t => ?_
  split
  · simp
  · split
    · next h => simp [State.clock_of_hostWr h]
    · simp
@[simp] theorem State.clock_setLinkRec (l : Nat) (x : Link) : (s.setLinkRec l x).clock = s.clock := by rfl
@[simp] theorem State.clock_sendFlit (l ftype vc units seq : Nat) :
    (s.sendFlit l ftype vc units seq).clock = s.clock := by
  simp [State.sendFlit]
@[simp] theorem State.clock_transmit (l : Nat) (w : WireRec) : (s.transmit l w).clock = s.clock := by simp [State.transmit]
@[simp] theorem State.clock_launch (l : Nat) (w : WireRec) : (s.launch l w).clock = s.clock := by simp [State.launch]
theorem State.clock_of_sendRecord {s : State} {op : Nat} {r : Record} {u} (h : s.sendRecord op r = some u) : u.clock = s.clock := by
  unfold State.sendRecord at h
  dsimp only at h
  split at h
  · cases h
  · split at h
    · cases h
      rfl
    · cases h
      simp
@[simp] theorem State.clock_countReqs : (s.countReqs).clock = s.clock := by simp [State.countReqs]
@[simp] theorem State.clock_issueReq (q : FabReq) : (s.issueReq q).clock = s.clock := by
  unfold State.issueReq
  extract_lets q' v
  have hv : v.clock = s.clock := by simp [v]
  split
  · exact hv
  · exact State.clock_getD (fun w hw => (State.clock_of_sendRecord hw).trans (by simp [hv])) (by simp [hv])
@[simp] theorem State.clock_wakeFab : (s.wakeFab).clock = s.clock := by simp [State.wakeFab]
@[simp] theorem State.clock_endReq (q : FabReq) : (s.endReq q).clock = s.clock := by simp [State.endReq]
@[simp] theorem State.clock_perform1 (op a len value newv key : Nat) (sgn dev : Bool) (data : List Byte) :
    (s.perform1 op a len value newv key sgn dev data).1.clock = s.clock := by
  unfold State.perform1
  dsimp only
  split
  · split
    · simp
    · split <;> simp
  · split
    · simp
    · split <;> simp
@[simp] theorem State.clock_modCopy (id : Nat) (f : HostCopy → HostCopy) : (s.modCopy id f).clock = s.clock := by simp [State.modCopy]
theorem State.clock_of_copyIssue {s : State} {x : HostCopy} {p : Nat × Nat × Nat} {u} (h : s.copyIssue x p = .ok u) :
    u.clock = s.clock := by
  unfold State.copyIssue at h
  dsimp only at h
  split at h
  · cases h
  · split at h
    · split at h
      · cases h
        simp
      · cases h
    · cases h
      simp
@[simp] theorem State.clock_copyPump (id n : Nat) : (s.copyPump id n).clock = s.clock := by
  induction n generalizing s with
  | zero => rfl
  | succ n ih =>
    unfold State.copyPump
    split
    · rfl
    · split
      · rfl
      · split
        · simp
        · split
          · simp
          · next h => simp [ih, State.clock_of_copyIssue h]
@[simp] theorem State.clock_copyTurn (id : Nat) : (s.copyTurn id).clock = s.clock := by
  unfold State.copyTurn
  split <;> simp
@[simp] theorem State.clock_memberLost (n : Nat) : (s.memberLost n).clock = s.clock := by
  unfold State.memberLost
  dsimp only
  split
  · split
    · split <;> simp
    · split <;> simp
  · split <;> simp
@[simp] theorem State.clock_setSlot (p e : Nat) (st : EntryState) : (s.setSlot p e st).clock = s.clock := by rfl
@[simp] theorem State.clock_endRec (p lane tag status : Nat) : (s.endRec p lane tag status).clock = s.clock := by simp [State.endRec]
@[simp] theorem State.clock_modItem (p i : Nat) (f : WlItem → WlItem) : (s.modItem p i f).clock = s.clock := by simp [State.modItem]
@[simp] theorem State.clock_settle (p pass : Nat) : (s.settle p pass).clock = s.clock := by simp [State.settle]
@[simp] theorem State.clock_dropPass (pass : Nat) : (s.dropPass pass).clock = s.clock := by
  unfold State.dropPass
  split
  · rfl
  · dsimp only
    rw [State.clock_setPart, State.clock_foldl, State.clock_foldl]
    · simp
    · simp
    · intro b a
      split <;> simp
@[simp] theorem State.clock_failItem (p i cause status : Nat) : (s.failItem p i cause status).clock = s.clock := by
  unfold State.failItem
  split <;> simp
@[simp] theorem State.clock_giveWay (p l : Nat) : (s.giveWay p l).clock = s.clock := by simp [State.giveWay]
theorem State.clock_of_moveDesc {s : State} {p : Nat} {it : WlItem} {l : Nat} {words : List Nat} {u} (h : s.moveDesc p it l words = some u) :
    u.1.clock = s.clock := by
  unfold State.moveDesc at h
  extract_lets cl x k n a t at h
  split at h
  · rw [← Option.some.inj h]
  · split at h
    · cases h
    · rw [← Option.some.inj h]
      simp only [State.clock_setPart, t]
      split <;> simp
@[simp] theorem State.clock_requeue (p i cyc : Nat) (sameTick : Bool) : (s.requeue p i cyc sameTick).clock = s.clock := by
  unfold State.requeue
  split
  · rfl
  · next it0 hi =>
    extract_lets it t words lanes found r t' q t''
    have hr : r.1.clock = s.clock := by
      have ht : t.clock = s.clock := State.clock_modItem s p i _
      simp only [r]
      cases hf : found with
      | none => exact ht
      | some v =>
        simp only [found] at hf
        split at hf
        · cases hf
        · obtain ⟨l, hl⟩ := List.exists_of_findSome?_eq_some hf
          obtain ⟨-, hl⟩ := hl
          split at hl
          · cases hl
          · obtain ⟨w, hw, rfl⟩ := Option.map_eq_some_iff.1 hl
            exact (State.clock_of_moveDesc hw).trans ht
    have ht'' : t''.clock = s.clock := by simp [t'', t', hr]
    split
    · exact (State.clock_giveWay _ _ _).trans ht''
    · exact ht''
@[simp] theorem State.clock_addOps (n act gated : Nat) : (s.addOps n act gated).clock = s.clock := by simp [State.addOps]
@[simp] theorem State.clock_tileOver (n tag last : Nat) : (s.tileOver n tag last).clock = s.clock := by simp [State.tileOver]
@[simp] theorem State.clock_tileDone (n : Nat) (r : RunningTile) (cycles : Nat) :
    (s.tileDone n r cycles).clock = s.clock := by
  simp [State.tileDone]
@[simp] theorem State.clock_abortTile (p i cyc : Nat) (why : AbortPoint) : (s.abortTile p i cyc why).clock = s.clock := by
  unfold State.abortTile
  split
  · simp
  · split <;> simp
@[simp] theorem State.clock_finishTile (p i cyc : Nat) : (s.finishTile p i cyc).clock = s.clock := by
  unfold State.finishTile
  split
  · simp
  · split <;> simp
@[simp] theorem State.clock_interruptTile (p i cyc : Nat) (why : AbortPoint) : (s.interruptTile p i cyc why).clock = s.clock := by
  unfold State.interruptTile
  split
  · simp
  · split <;> simp
@[simp] theorem State.clock_showBusy (n : Nat) : (s.showBusy n).clock = s.clock := by simp [State.showBusy]
@[simp] theorem State.clock_clearJob (n key mask : Nat) : (s.clearJob n key mask).clock = s.clock := by simp [State.clearJob]
@[simp] theorem State.clock_katThreads (n mask : Nat) (st : TState) : (s.katThreads n mask st).clock = s.clock := by simp [State.katThreads]
@[simp] theorem State.clock_drainStores (th : Nat) : (s.drainStores th).clock = s.clock := by simp [State.drainStores]
@[simp] theorem State.clock_jobRec (n tag status : Nat) : (s.jobRec n tag status).clock = s.clock := by simp [State.jobRec]
@[simp] theorem State.clock_finishParked (th : Nat) : (s.finishParked th).clock = s.clock := by
  unfold State.finishParked
  dsimp only
  split
  · simp
  · simp
  · split
    · split <;> simp
    · simp
  · simp
  · simp
  · simp
@[simp] theorem State.clock_abortJob (n key cyc : Nat) (why : AbortPoint) : (s.abortJob n key cyc why).clock = s.clock := by
  unfold State.abortJob
  split <;> simp
@[simp] theorem State.clock_noteSub (kind unit old new cause cl : Nat) :
    (s.noteSub kind unit old new cause cl).clock = s.clock := by
  simp [State.noteSub]
@[simp] theorem State.clock_restorePad (n : Nat) : (s.restorePad n).clock = s.clock := by simp [State.restorePad]
@[simp] theorem State.clock_commitCore (n : Nat) : (s.commitCore n).clock = s.clock := by
  unfold State.commitCore
  split <;> simp
@[simp] theorem State.clock_commitSpur (n : Nat) : (s.commitSpur n).clock = s.clock := by
  unfold State.commitSpur
  split <;> simp
@[simp] theorem State.clock_missEntry (p e : Nat) (x : ColSlot) : (s.missEntry p e x).clock = s.clock := by simp [State.missEntry]
@[simp] theorem State.clock_missEvent (p e : Nat) (x : ColSlot) : (s.missEvent p e x).clock = s.clock := by simp [State.missEvent]
@[simp] theorem State.clock_noteOverrun (p e : Nat) (x : ColSlot) : (s.noteOverrun p e x).clock = s.clock := by simp [State.noteOverrun]
@[simp] theorem State.clock_jobEnd (n t : Nat) : (s.jobEnd n t).clock = s.clock := by
  unfold State.jobEnd
  dsimp only
  split
  · simp
  · split
    · simp
    · split
      · split
        · split <;> simp
        · simp
      · split
        · simp
        · split <;> simp
@[simp] theorem State.clock_stopWork (p cyc : Nat) (why : AbortPoint) : (s.stopWork p cyc why).clock = s.clock := by simp [State.stopWork]
@[simp] theorem State.clock_setKey (k : Nat) (x : KeySlot) : (s.setKey k x).clock = s.clock := by simp [State.setKey]
@[simp] theorem State.clock_showPend : (s.showPend).clock = s.clock := by simp [State.showPend]
@[simp] theorem State.clock_firstKey (k : Nat) : (s.firstKey k).clock = s.clock := by simp [State.firstKey]
theorem State.clock_of_tryGrant {s : State} {i rows : Nat} {keep : List Nat} {u} (h : s.tryGrant i rows keep = .ok u) :
    u.1.clock = s.clock := by
  unfold State.tryGrant at h
  dsimp only at h
  split at h
  · cases h
    rfl
  · split at h
    · cases h
      rfl
    · split at h
      · cases h
      · split at h
        · cases h
        · next hv =>
          cases h
          simp [State.clock_of_allocMany hv]
@[simp] theorem State.clock_dropFor (p n : Nat) : (s.dropFor p n).clock = s.clock := by simp [State.dropFor]
@[simp] theorem State.clock_reclaim (p c need n : Nat) : (s.reclaim p c need n).clock = s.clock := by
  induction n generalizing s with
  | zero => rfl
  | succ n ih =>
    unfold State.reclaim
    split
    · rfl
    · split
      · rfl
      · simp [ih]
@[simp] theorem State.clock_reclaimOwn (p sl units n : Nat) : (s.reclaimOwn p sl units n).clock = s.clock := by
  induction n generalizing s with
  | zero => rfl
  | succ n ih =>
    unfold State.reclaimOwn
    dsimp only
    split
    · rfl
    · split
      · rfl
      · simp [ih]
@[simp] theorem State.clock_startSpill (p d : Nat) (seq node : Option Nat) (page : Nat) (es : List PageEnt) :
    (s.startSpill p d seq node page es).clock = s.clock := by
  unfold State.startSpill
  dsimp only
  split
  · rfl
  · split
    · next h => simp [State.clock_of_allocMany h]
    · rfl
@[simp] theorem State.clock_startSpills (p c lack : Nat) : (s.startSpills p c lack).clock = s.clock := by
  unfold State.startSpills
  split <;> simp (disch := (intros; split <;> simp))
@[simp] theorem State.clock_serveNeed (p c sl need reason : Nat) :
    (s.serveNeed p c sl need reason).clock = s.clock := by
  simp [State.serveNeed]
@[simp] theorem State.clock_serveSeq (i rows reason : Nat) : (s.serveSeq i rows reason).clock = s.clock := by
  unfold State.serveSeq
  split
  · simp
  · split <;> simp
@[simp] theorem State.clock_toPageWait (i : Nat) : (s.toPageWait i).clock = s.clock := by simp [State.toPageWait]
@[simp] theorem State.clock_serveWait (i : Nat) : (s.serveWait i).clock = s.clock := by
  unfold State.serveWait
  split
  · rfl
  · next q hq =>
    split
    · rfl
    · extract_lets more rows go t
      have hmore : ∀ t, (more t).clock = t.clock := fun t => by
        simp only [more]
        split <;> simp
      have hgo : ∀ t u, go t = some u → u.clock = t.clock := fun t u hu => by
        simp only [go] at hu
        split at hu
        · next hg =>
          cases hu
          simp [State.clock_of_tryGrant hg]
        · cases hu
      have ht : t.clock = s.clock := State.clock_serveSeq _ _ _ _
      split
      · split
        · split
          · exact hmore s
          · split
            · next he => simp [State.clock_of_shareEntries he]
            · exact hmore s
        · exact hmore s
      · split
        · next hu => exact hgo s _ hu
        · split
          · next hu => exact (hgo t _ hu).trans ht
          · exact (hmore t).trans ht
@[simp] theorem State.clock_serveMoving (i : Nat) : (s.serveMoving i).clock = s.clock := by
  unfold State.serveMoving
  split <;> simp
@[simp] theorem State.clock_pageService (p : Nat) : (s.pageService p).clock = s.clock := by simp [State.pageService]
@[simp] theorem State.clock_countWaiting (p : Nat) : (s.countWaiting p).clock = s.clock := by simp [State.countWaiting]
theorem State.clock_of_grantAll {s : State} {ws : List (Nat × Nat × Nat)} {l : List (Nat × Nat)} {u} (h : s.grantAll ws l = .ok u) :
    u.1.clock = s.clock := by
  induction l generalizing s u with
  | nil =>
    cases h
    rfl
  | cons r rs ih =>
    unfold State.grantAll at h
    split at h
    · cases h
    · next ht =>
      split at h
      · cases h
      · next hr =>
        cases h
        exact (ih hr).trans (State.clock_of_tryGrant ht)
@[simp] theorem State.clock_reserveBatch (b : List (Nat × Nat)) (n : Nat) : (s.reserveBatch b n).1.clock = s.clock := by
  induction n generalizing s b with
  | zero => rfl
  | succ n ih =>
    unfold State.reserveBatch
    split
    · next h => exact State.clock_of_grantAll h
    · extract_lets rows t
      have ht : t.clock = s.clock := State.clock_serveSeq _ _ _ _
      split
      · next h => exact (State.clock_of_grantAll h).trans ht
      · extract_lets q plain own t' b'
        have ht' : t'.clock = s.clock := (State.clock_foldl (fun _ _ => State.clock_freeEntry _ _) _ _).trans ht
        split
        · rw [ih, State.clock_freeEntry, ht']
        · split
          · rw [ih, ht']
          · rw [ih, State.clock_toPageWait, ht']
@[simp] theorem State.clock_newColumn (p : Nat) (es : List ColSlot) : (s.newColumn p es).clock = s.clock := by simp [State.newColumn]
@[simp] theorem State.clock_fetchColumn (p : Nat) : (s.fetchColumn p).clock = s.clock := by simp [State.fetchColumn]
@[simp] theorem State.clock_beginCarry (p : Nat) : (s.beginCarry p).clock = s.clock := by simp [State.beginCarry]
theorem State.clock_of_append {s : State} {p : Nat} {b : Builder} {it : WlItem} {words : List Nat} {endAt : Nat} {u}
    (h : s.append p b it words endAt = some u) :
    u.1.clock = s.clock := by
  unfold State.append at h
  extract_lets n c k a t at h
  split at h
  · cases h
  · rw [← Option.some.inj h]
    simp only [t]
    split <;> simp
theorem State.clock_of_placeItem {s : State} {p : Nat} {b : Builder} {lanes : List Nat} {threads need : Nat} {it : WlItem} {words : List Nat} {u}
    (h : s.placeItem p b lanes threads need it words = .ok u) :
    u.1.clock = s.clock := by
  unfold State.placeItem at h
  extract_lets from_ at h
  split at h
  · cases h
  · extract_lets thr at h
    split at h
    · cases h
    · next ha =>
      rw [← Except.ok.inj h]
      have hv := State.clock_of_append ha
      exact hv
@[simp] theorem State.clock_placeCarried (p : Nat) (b : Builder) (x : WlItem × List Nat) : (s.placeCarried p b x).1.clock = s.clock := by
  unfold State.placeCarried
  dsimp only
  split
  · rfl
  · split
    · next h => exact State.clock_of_placeItem h
    · split
      · next h => exact State.clock_of_append h
      · rfl
@[simp] theorem State.clock_placeKat (p : Nat) (b : Builder) (u : Nat) : (s.placeKat p b u).1.clock = s.clock := by
  unfold State.placeKat
  dsimp only
  split
  · next h => exact State.clock_of_placeItem h
  · rfl
theorem State.clock_of_placeTemplate {s : State} {p : Nat} {b : Builder} {x : Pass} {prev : Nat} {placed : List (Nat × Nat × Nat)} {k : Nat}
    {t : ItemTemplate} {u}
    (h : s.placeTemplate p b x prev placed k t = .ok u) :
    u.1.clock = s.clock := by
  unfold State.placeTemplate at h
  extract_lets kind md rings m next groups groups' at h
  split at h
  · rw [← Except.ok.inj h]
  · refine foldl_keep_ok (P := fun r : State × Builder × List (Nat × Nat × Nat) => r.1.clock = s.clock) (fun r g hr t ht => ?_) groups' rfl h
    split at ht
    · cases ht
    · next v b' placed' =>
      have hv := hr _ rfl
      extract_lets after est it ws ws' ls at ht
      split at ht
      · cases ht
      · next hp =>
        rw [← Except.ok.inj ht]
        exact (State.clock_of_placeItem hp).trans hv
theorem State.clock_of_placeCopies {s : State} {p : Nat} {b : Builder} {x : Pass} {u} (h : s.placeCopies p b x = .ok u) :
    u.1.clock = s.clock := by
  unfold State.placeCopies at h
  refine foldl_keep_ok (P := fun r : State × Builder × Nat => r.1.clock = s.clock) (fun r c hr t ht => ?_) x.cow rfl h
  split at ht
  · cases ht
  · have hv := hr _ rfl
    split at ht
    · rw [← Except.ok.inj ht]
      exact hv
    · extract_lets src n node ws it at ht
      split at ht
      · cases ht
      · next hp =>
        rw [← Except.ok.inj ht]
        exact (State.clock_bump _ _ _ _).trans ((State.clock_of_placeItem hp).trans hv)
theorem State.clock_of_placeStage {s : State} {p : Nat} {b : Builder} {x : Pass} {prev : Nat} {st : StageTemplate} {u}
    (h : s.placeStage p b x prev st = .ok u) :
    u.1.clock = s.clock := by
  unfold State.placeStage at h
  split at h
  · cases h
  · next v b' prev' hc =>
    have hv : v.clock = s.clock := by
      split at hc
      · exact State.clock_of_placeCopies hc
      · rw [← (Prod.mk.inj (Except.ok.inj hc)).1]
    extract_lets r at h
    cases hr : r with
    | error f =>
      rw [hr] at h
      cases h
    | ok w =>
      have hw := foldl_keep_ok (P := fun r : State × Builder × List (Nat × Nat × Nat) => r.1.clock = s.clock)
        (fun r t hr u hu => by
          split at hu
          · cases hu
          · exact (State.clock_of_placeTemplate hu).trans (hr _ rfl)) _ hv hr
      rw [hr] at h
      rw [← Except.ok.inj h]
      exact hw
@[simp] theorem State.clock_placeStages (p : Nat) (b : Builder) (x : Pass) (prev : Nat) (l : List StageTemplate) :
    (s.placeStages p b x prev l).1.clock = s.clock := by
  induction l generalizing s b x prev with
  | nil => rfl
  | cons st l ih =>
    unfold State.placeStages
    split
    · split <;> simp
    · next h => exact (ih _ _ _ _).trans (State.clock_of_placeStage h)
@[simp] theorem State.clock_showPass (x : Pass) :
    (s.showPass x).clock = s.clock := by
  simp (disch := (intros; split <;> simp)) [State.showPass]
@[simp] theorem State.clock_setPass (x : Pass) : (s.setPass x).clock = s.clock := by rfl
@[simp] theorem State.clock_splitPass (x : Pass) : (s.splitPass x).1.clock = s.clock := by
  unfold State.splitPass
  dsimp only
  split <;> simp
@[simp] theorem State.clock_goOn (p : Nat) (b : Builder) (x0 : Pass) : (s.goOn p b x0).1.clock = s.clock := by
  unfold State.goOn
  dsimp only
  split
  · simp
  · split <;> simp
@[simp] theorem State.clock_forkBranches (md : Model) (batch : List (Nat × Nat)) : (s.forkBranches md batch).1.clock = s.clock := by
  refine foldl_keep (P := fun a : State × List (Nat × Nat) => a.1.clock = s.clock) (fun a r ha => ?_) batch rfl
  split
  · exact ha
  · next q hq =>
    extract_lets sampled n
    refine foldl_keep (P := fun a : State × List (Nat × Nat) => a.1.clock = s.clock) (fun a j ha => ?_) (List.range n) ha
    split
    · exact ha
    · split
      · exact ha
      · next he => simp [State.clock_of_shareEntries he, ha]
@[simp] theorem State.clock_startPass (p : Nat) (b : Builder) (k : BatchKey) : (s.startPass p b k).1.clock = s.clock := by
  unfold State.startPass
  split
  · rfl
  · extract_lets es limit rows
    split
    · rfl
    · split
      next v br hv =>
      have hv : v.clock = s.clock := by
        split at hv
        · rw [← (Prod.mk.inj hv).1]
        · exact (congrArg (fun a => a.1.clock) hv).symm.trans (State.clock_forkBranches _ _ _)
      split
      next w rows' cow hw =>
      have hw : w.clock = s.clock := 
        (congrArg (fun a => a.1.clock) hw).symm.trans ((State.clock_reserveBatch _ _ _).trans hv)
      split
      · exact hw
      · extract_lets x undo
        have hundo : ∀ t, (undo t).clock = t.clock := fun t => by
          simp only [undo]
          rw [State.clock_foldl, State.clock_foldl]
          · exact fun _ _ => State.clock_decRef _ _
          · intro t r
            split
            · split <;> simp
            · rfl
        split
        next y b' x' _ hy =>
        have hy : y.clock = s.clock := 
          (congrArg (fun a => a.1.clock) hy).symm.trans ((State.clock_placeStages _ _ _ _ _ _).trans hw)
        split
        · rw [hundo]
          split
          · exact hw
          · exact (State.clock_bump _ _ _ _).trans hw
        · simp [hy]
@[simp] theorem State.clock_startPasses (p : Nat) (b : Builder) (k : BatchKey) (n : Nat) : (s.startPasses p b k n).1.clock = s.clock := by
  induction n generalizing s b with
  | zero => rfl
  | succ n ih =>
    unfold State.startPasses
    split
    · rfl
    · have hs := State.clock_startPass s p b k
      split
      · next h =>
        rw [h] at hs
        exact (ih _ _).trans hs
      · next h =>
        rw [h] at hs
        exact hs
@[simp] theorem State.clock_startKind (p : Nat) (b : Builder) (pre : Bool) : (s.startKind p b pre).1.clock = s.clock :=
  foldl_keep (P := fun a : State × Builder => a.1.clock = s.clock) (fun a _ ha => (State.clock_startPasses a.1 p a.2 _ _).trans ha) _ rfl
@[simp] theorem State.clock_restartPasses (p : Nat) : (s.restartPasses p).clock = s.clock := by simp [State.restartPasses]
@[simp] theorem State.clock_publish (p : Nat) (b : Builder) : (s.publish p b).clock = s.clock := by simp [State.publish]
@[simp] theorem State.clock_buildStep (p : Nat) : (s.buildStep p).clock = s.clock := by
  unfold State.buildStep
  extract_lets cs t
  have ht : t.clock = s.clock := State.clock_beginCarry _ _
  clear_value t
  split
  · simp [ht]
  · split
    next v b hv =>
    have hv : v.clock = s.clock := (congrArg (fun a => a.1.clock) hv).symm.trans
      (foldl_keep (P := fun a : State × Builder => a.1.clock = s.clock) (fun a c ha => (State.clock_placeCarried a.1 p a.2 c).trans ha) _ ht)
    extract_lets due
    split
    next w b' left hw =>
    have hw : w.clock = s.clock := by
      refine (congrArg (fun a => a.1.clock) hw).symm.trans
        (foldl_keep (P := fun a : State × Builder × List Nat => a.1.clock = s.clock) (fun a u ha => ?_) _ hv)
      have hk := (State.clock_placeKat a.1 p a.2.1 u).trans ha
      split
      · next h => exact (congrArg (fun a => a.1.clock) h).symm.trans hk
      · next h => exact (congrArg (fun a => a.1.clock) h).symm.trans hk
    extract_lets q w' going
    have hw' : w'.clock = s.clock := (State.clock_setPart _ _ _).trans hw
    clear_value w'
    split
    next y b'' hy =>
    have hy : y.clock = s.clock := (congrArg (fun a => a.1.clock) hy).symm.trans
      (foldl_keep (P := fun a : State × Builder => a.1.clock = s.clock) (fun a c ha => (State.clock_goOn a.1 p a.2 c).trans ha) _ hw')
    split
    next z1 c1 h1 =>
    have h1 : z1.clock = s.clock := (congrArg (fun a => a.1.clock) h1).symm.trans ((State.clock_startKind _ _ _ _).trans hy)
    split
    next z2 c2 h2 =>
    have h2 : z2.clock = s.clock := (congrArg (fun a => a.1.clock) h2).symm.trans ((State.clock_startKind _ _ _ _).trans h1)
    simp [h2]
@[simp] theorem State.clock_moveOff (p r : Nat) : (s.moveOff p r).clock = s.clock := by simp [State.moveOff]
@[simp] theorem State.clock_commitRole (p : Nat) : (s.commitRole p).clock = s.clock := by simp [State.commitRole]
@[simp] theorem State.clock_boundary (p : Nat) : (s.boundary p).clock = s.clock := by simp [State.boundary]
@[simp] theorem State.clock_stepTick (p : Nat) : (s.stepTick p).clock = s.clock := by simp [State.stepTick]
@[simp] theorem State.clock_openBoundary (p : Nat) : (s.openBoundary p).clock = s.clock := by simp [State.openBoundary]
@[simp] theorem State.clock_setDelta (k : Nat) (d : Delta) : (s.setDelta k d).clock = s.clock := by rfl
@[simp] theorem State.clock_activateDelta (k : Nat) : (s.activateDelta k).clock = s.clock := by
  unfold State.activateDelta
  dsimp only
  split
  · simp
  · split
    · simp
    · split <;> simp
@[simp] theorem State.clock_freeingDelta (k : Nat) : (s.freeingDelta k).clock = s.clock := by
  unfold State.freeingDelta
  split <;> simp
@[simp] theorem State.clock_freeDelta (k : Nat) : (s.freeDelta k).clock = s.clock := by
  unfold State.freeDelta
  split <;> simp
@[simp] theorem State.clock_stepDelta (k : Nat) : (s.stepDelta k).clock = s.clock := by simp [State.stepDelta]
@[simp] theorem State.clock_freezeSlice (n : Nat) : (s.freezeSlice n).clock = s.clock := by simp [State.freezeSlice]
@[simp] theorem State.clock_closeRing (k : Nat) : (s.closeRing k).clock = s.clock := by simp [State.closeRing]
@[simp] theorem State.clock_startScrub (n : Nat) (empty : Bool) : (s.startScrub n empty).clock = s.clock := by simp [State.startScrub]
@[simp] theorem State.clock_modSlice (n : Nat) (f : Slice → Slice) : (s.modSlice n f).clock = s.clock := by simp [State.modSlice]
@[simp] theorem State.clock_restoreLive (n : Nat) : (s.restoreLive n).clock = s.clock := by simp [State.restoreLive]
@[simp] theorem State.clock_applyThaws : (s.applyThaws).clock = s.clock := by
  unfold State.applyThaws
  extract_lets ts t
  have ht : t.clock = s.clock := by
    refine (State.clock_foldl (fun t r => ?_) ts _).trans (State.clock_withThaws s _)
    split
    · split <;> simp
    · simp
  refine (State.clock_foldl (fun t x => ?_) _ t).trans ht
  extract_lets v
  refine (State.clock_foldl (fun t y => ?_) _ v).trans ?_
  · extract_lets w
    split <;> simp [w]
  · simp [v]
@[simp] theorem State.clock_cmdCancel (k : Nat) (x : SubEntry) :
    (State.cmdCancel k x s).clock = s.clock := by
  simp (disch := (intros; split <;> simp)) [State.cmdCancel]
@[simp] theorem State.clock_cmdFreezeSeq (k : Nat) (x : SubEntry) :
    (State.cmdFreezeSeq k x s).clock = s.clock := by
  simp (disch := (intros; split <;> simp)) [State.cmdFreezeSeq]
@[simp] theorem State.clock_cmdThaw (k : Nat) (x : SubEntry) : (State.cmdThaw k x s).clock = s.clock := by
  refine State.clock_checked s _ _ _ _ _ _ _ _ _ fun t => ?_
  extract_lets peer
  split
  · simp
  · split
    · simp
    · split
      · simp
      · split <;> simp
@[simp] theorem State.clock_answerHost (k : Nat) (x : SubEntry) (addr : Nat) (bs : List Byte) :
    (s.answerHost k x addr bs).clock = s.clock := by
  unfold State.answerHost
  split
  · next h =>
    rw [State.clock_complete]
    split <;> simp [State.clock_of_hostWr h]
  · simp
@[simp] theorem State.clock_cmdQuerySeq (k : Nat) (x : SubEntry) :
    (State.cmdQuerySeq k x s).clock = s.clock := by
  simp (disch := (intros; split <;> simp)) [State.cmdQuerySeq]
@[simp] theorem State.clock_copyLocal (k : Nat) (x : SubEntry) (host a n key : Nat) (out : Bool) :
    (s.copyLocal k x host a n key out).clock = s.clock := by
  unfold State.copyLocal
  dsimp only
  split
  · simp
  · split
    · simp
    · split
      · simp
      · split <;> simp
@[simp] theorem State.clock_copyRemote (k : Nat) (x : SubEntry) (host g n key : Nat) (out : Bool) :
    (s.copyRemote k x host g n key out).clock = s.clock := by
  simp [State.copyRemote]
@[simp] theorem State.clock_cmdCopy (k : Nat) (x : SubEntry) : (State.cmdCopy k x s).clock = s.clock := by
  refine State.clock_checked s _ _ _ _ _ _ _ _ _ fun t => ?_
  extract_lets n out g
  split
  · simp
  · split
    · simp
    · split
      · simp
      · split <;> simp
@[simp] theorem State.clock_cmdRegionSet (k : Nat) (x : SubEntry) :
    (State.cmdRegionSet k x s).clock = s.clock := by
  simp [State.cmdRegionSet]
@[simp] theorem State.clock_commitRegions : (s.commitRegions).clock = s.clock := by simp [State.commitRegions]
@[simp] theorem State.clock_cmdAcctRead (k : Nat) (x : SubEntry) : (State.cmdAcctRead k x s).clock = s.clock := by simp [State.cmdAcctRead]
@[simp] theorem State.clock_takeDelta (k sl model variant group : Nat) (img : List Byte) (cmd : Option (Nat × Nat × Nat)) :
    (s.takeDelta k sl model variant group img cmd).clock = s.clock := by
  simp [State.takeDelta]
@[simp] theorem State.clock_cmdDeltaLoad (k : Nat) (x : SubEntry) : (State.cmdDeltaLoad k x s).clock = s.clock := by
  refine State.clock_checked s _ _ _ _ _ _ _ _ _ fun t => ?_
  extract_lets sl w m v
  split
  · simp
  · split
    · simp
    · split
      · simp
      · split
        · simp
        · split
          · simp
          · split
            · simp
            · split
              · simp
              · extract_lets t'
                split <;> simp [t']
@[simp] theorem State.clock_cancelPinned (k : Nat) : (s.cancelPinned k).clock = s.clock := by simp [State.cancelPinned]
@[simp] theorem State.clock_cmdDeltaRetire (k : Nat) (x : SubEntry) : (State.cmdDeltaRetire k x s).clock = s.clock := by
  refine State.clock_checked s _ _ _ _ _ _ _ _ _ fun t => ?_
  extract_lets slot force
  split
  · simp
  · split
    · simp
    · extract_lets d'
      split
      · simp
      · simp
      · simp
      · split
        · simp
        · split <;> simp
@[simp] theorem State.clock_commitForced : (s.commitForced).clock = s.clock := by simp [State.commitForced]
@[simp] theorem State.clock_cmdDeltaQuery (k : Nat) (x : SubEntry) : (State.cmdDeltaQuery k x s).clock = s.clock := by
  refine State.clock_checked s _ _ _ _ _ _ _ _ _ fun t => ?_
  extract_lets slot
  split
  · simp
  · split <;> simp
@[simp] theorem State.clock_cmdNop (k : Nat) (x : SubEntry) : (State.cmdNop k x s).clock = s.clock := by simp [State.cmdNop]
@[simp] theorem State.clock_bindSlice (n fn pasid st : Nat) : (s.bindSlice n fn pasid st).clock = s.clock := by simp [State.bindSlice]
@[simp] theorem State.clock_completeCookie (x : SubEntry) (n : Nat) :
    (s.completeCookie x n).clock = s.clock := by
  simp [State.completeCookie]
@[simp] theorem State.clock_cmdSliceBind (x : SubEntry) : (State.cmdSliceBind x s).clock = s.clock := by simp [State.cmdSliceBind]
@[simp] theorem State.clock_cmdSliceUnbind (x : SubEntry) : (State.cmdSliceUnbind x s).clock = s.clock := by
  refine State.clock_checked s _ _ _ _ _ _ _ _ _ fun t => State.clock_owned t _ _ _ fun t => ?_
  extract_lets n t'
  split
  · simp
  · simp only [State.clock_complete, State.clock_startScrub, t']
    split <;> simp
@[simp] theorem State.clock_cmdSliceFreeze (x : SubEntry) : (State.cmdSliceFreeze x s).clock = s.clock := by simp [State.cmdSliceFreeze]
@[simp] theorem State.clock_cmdSliceThaw (x : SubEntry) : (State.cmdSliceThaw x s).clock = s.clock := by
  refine State.clock_checked s _ _ _ _ _ _ _ _ _ fun t => State.clock_owned t _ _ _ fun t => ?_
  extract_lets n t' y t''
  split
  · simp
  · simp only [State.clock_complete, State.clock_setSliceState, State.clock_setSlice, t'', t']
    split <;> simp
@[simp] theorem State.clock_cmdSliceSave (x : SubEntry) : (State.cmdSliceSave x s).clock = s.clock := by
  refine State.clock_checked s _ _ _ _ _ _ _ _ _ fun t => State.clock_owned t _ _ _ fun t => ?_
  extract_lets n len t'
  split
  · simp
  · split
    · simp
    · split
      · simp
      · split
        · next h => simp [State.clock_of_hostWr h, t']
        · simp [t']
@[simp] theorem State.clock_restoreRing (n : Nat) (r : ImgRing) : (s.restoreRing n r).clock = s.clock := by simp [State.restoreRing]
@[simp] theorem State.clock_restoreCmd (n : Nat) (q : ImgSeq) : (s.restoreCmd n q).2.clock = s.clock := by
  unfold State.restoreCmd
  dsimp only
  split <;> simp
theorem State.clock_of_restoreSeq {s : State} {n : Nat} {own : List (Nat × Nat)} {q : ImgSeq} {u} (h : s.restoreSeq n own q = some u) :
    u.2.clock = s.clock := by
  unfold State.restoreSeq at h
  extract_lets w sp model cls p group scope ver st at h
  split at h
  · cases h
  · next hv =>
    extract_lets t c e at h
    have he : e.2.clock = s.clock := by
      simp only [e, c, t, State.clock_newEntry, State.clock_restoreCmd]
      exact (State.clock_foldl (fun _ _ => State.clock_store _ _ _ _) _ _).trans (State.clock_of_allocMany hv)
    rw [← Option.some.inj h]
    dsimp only
    split
    · exact (State.clock_pin _ _).trans he
    · exact he
theorem State.clock_of_restoreDelta {s : State} {n : Nat} {d : ImgDelta} {u} (h : s.restoreDelta n d = some u) : u.2.clock = s.clock := by
  unfold State.restoreDelta at h
  split at h
  · split at h
    · rw [← Option.some.inj h]
      simp
    · cases h
  · cases h
theorem State.clock_of_restoreDeltas {s : State} {n : Nat} {l : List ImgDelta} {u} (h : s.restoreDeltas n l = some u) :
    u.2.clock = s.clock := by
  induction l generalizing s u with
  | nil =>
    cases h
    rfl
  | cons d ds ih =>
    unfold State.restoreDeltas at h
    split at h
    · cases h
    · next hd =>
      obtain ⟨w, hw, rfl⟩ := Option.map_eq_some_iff.1 h
      exact (ih hw).trans (State.clock_of_restoreDelta hd)
theorem State.clock_of_restoreSeqs {s : State} {n : Nat} {own : List (Nat × Nat)} {l : List ImgSeq} {u} (h : s.restoreSeqs n own l = some u) :
    u.2.clock = s.clock := by
  induction l generalizing s u with
  | nil =>
    cases h
    rfl
  | cons q qs ih =>
    unfold State.restoreSeqs at h
    split at h
    · cases h
    · next hq =>
      obtain ⟨w, hw, rfl⟩ := Option.map_eq_some_iff.1 h
      exact (ih hw).trans (State.clock_of_restoreSeq hq)
theorem State.clock_of_restoreAll {s : State} {n : Nat} {img : SliceImage} {u} (h : s.restoreAll n img = some u) : u.2.clock = s.clock := by
  unfold State.restoreAll at h
  dsimp only at h
  split at h
  · cases h
  · obtain ⟨r, hr, hu⟩ := Option.bind_eq_some_iff.1 h
    exact (State.clock_of_restoreSeqs hu).trans ((State.clock_of_restoreDeltas hr).trans (by simp))
@[simp] theorem State.clock_cmdSliceRestore (x : SubEntry) : (State.cmdSliceRestore x s).clock = s.clock := by
  refine State.clock_checked s _ _ _ _ _ _ _ _ _ fun t => State.clock_owned t _ _ _ fun t => ?_
  extract_lets n
  split
  · simp
  · split
    · simp
    · split
      · simp
      · split
        · simp
        · split
          · simp
          · split
            · simp
            · extract_lets st
              split
              · simp
              · split
                · simp
                · split
                  · simp
                  · next hr =>
                    split
                    · next hw => simp [State.clock_of_hostWr hw, State.clock_of_restoreAll hr]
                    · simp
@[simp] theorem State.clock_setGroup (g : Nat) (x : Group) : (s.setGroup g x).clock = s.clock := by rfl
@[simp] theorem State.clock_cmdGroupSet (x : SubEntry) : (State.cmdGroupSet x s).clock = s.clock := by
  unfold State.cmdGroupSet
  split <;> simp
@[simp] theorem State.clock_cmdModelLoad (x : SubEntry) : (State.cmdModelLoad x s).clock = s.clock := by
  refine State.clock_checked s _ _ _ _ _ _ _ _ _ fun t => State.clock_owned t _ _ _ fun t => ?_
  extract_lets m copies a n
  split
  · simp
  · split
    · simp
    · split
      · simp
      · split
        · simp
        · split <;> simp
@[simp] theorem State.clock_cmdModelUnload (x : SubEntry) : (State.cmdModelUnload x s).clock = s.clock := by simp [State.cmdModelUnload]
@[simp] theorem State.clock_cmdDomainJoin (x : SubEntry) : (State.cmdDomainJoin x s).clock = s.clock := by simp [State.cmdDomainJoin]
@[simp] theorem State.clock_cmdDomainList (x : SubEntry) : (State.cmdDomainList x s).clock = s.clock := by
  refine State.clock_checked s _ _ _ _ _ _ _ _ _ fun t => State.clock_owned t _ _ _ fun t => ?_
  extract_lets kind remove n
  split
  · simp
  · split
    · simp
    · split
      · simp
      · extract_lets ids gone out v out' v'
        clear_value kind
        split
        · simp [v]
        · simp
        · simp [v']
@[simp] theorem State.clock_setRoute (w : Nat) : (s.setRoute w).clock = s.clock := by rfl
@[simp] theorem State.clock_cmdRouteSet (x : SubEntry) : (State.cmdRouteSet x s).clock = s.clock := by
  refine State.clock_checked s _ _ _ _ _ _ _ _ _ fun t => State.clock_owned t _ _ _ fun t => ?_
  extract_lets n
  split
  · simp
  · split <;> simp
@[simp] theorem State.clock_setAwait (p : Nat) (v : Bool) : (s.setAwait p v).clock = s.clock := by rfl
@[simp] theorem State.clock_waitUnlocks : (s.waitUnlocks).clock = s.clock := by simp [State.waitUnlocks]
@[simp] theorem State.clock_partTick (p : Nat) : (s.partTick p).clock = s.clock := by simp [State.partTick]
@[simp] theorem State.clock_openTick (p : Nat) : (s.openTick p).clock = s.clock := by simp [State.openTick]
@[simp] theorem State.clock_perform (k : Nat) (x : SubEntry) : (State.perform k x s).clock = s.clock := by
  unfold State.perform
  split
  · split <;> simp
  · split <;> simp
@[simp] theorem State.clock_popHead (k : Nat) : (s.popHead k).clock = s.clock := by simp [State.popHead]
@[simp] theorem State.clock_drainRing (k n : Nat) : (s.drainRing k n).clock = s.clock := by
  induction n generalizing s with
  | zero => rfl
  | succ n ih =>
    unfold State.drainRing
    split
    · rfl
    · split
      · rfl
      · rw [ih, State.clock_read1 _ _ _ _ (fun t => State.clock_perform t _ _), State.clock_popHead]
@[simp] theorem State.clock_drainRings : (s.drainRings).clock = s.clock := by simp [State.drainRings]
@[simp] theorem State.clock_runHeld (owner i : Nat) : (s.runHeld owner i).clock = s.clock := by simp [State.runHeld]
@[simp] theorem State.clock_passLead : (s.passLead).clock = s.clock := by
  unfold State.passLead
  split <;> simp
@[simp] theorem State.clock_commitGcb (i : Nat) : (s.commitGcb i).clock = s.clock := by simp [State.commitGcb]
@[simp] theorem State.clock_commitFreezeAgc (d : Nat) : (s.commitFreezeAgc d).clock = s.clock := by simp [State.commitFreezeAgc]
@[simp] theorem State.clock_noteMismatch (p : Nat) : (s.noteMismatch p).clock = s.clock := by simp [State.noteMismatch]
@[simp] theorem State.clock_commitShaper (n : Nat) : (s.commitShaper n).clock = s.clock := by simp [State.commitShaper]
@[simp] theorem State.clock_refillShaper (n : Nat) : (s.refillShaper n).clock = s.clock := by simp [State.refillShaper]
@[simp] theorem State.clock_commitWays (n : Nat) : (s.commitWays n).clock = s.clock := by simp [State.commitWays]
@[simp] theorem State.clock_commitInstant : (s.commitInstant).clock = s.clock := by
  unfold State.commitInstant
  extract_lets plain s1 s2 r s3 s4 s5 s6 s7 s8 s9
  have h1 : s1.clock = s.clock := State.clock_foldl (fun t x => State.clock_foldl (fun _ _ => State.clock_commit _ _ _) _ t) _ _
  have h2 : s2.clock = s.clock := (State.clock_foldl State.clock_commitWays _ _).trans h1
  clear_value s2
  have hr : r.1.clock = s.clock := by
    refine foldl_keep (P := fun a : State × List Nat => a.1.clock = s.clock) (fun a p ha => ?_) _ h2
    exact (State.clock_commitBankPair a.1 p).trans ha
  clear_value r
  simp [s9, s8, s7, s6, s5, s4, s3, hr]
@[simp] theorem State.clock_substitute (p : Nat) : (s.substitute p).clock = s.clock := by simp [State.substitute]
@[simp] theorem State.clock_frameEdge : (s.frameEdge).clock = s.clock := by simp [State.frameEdge]
@[simp] theorem State.clock_enterSeqs (k : Nat) (x : SubEntry) (g : GenArgs) (p : Nat) (ver : Option Nat) (toks : List Nat) :
    (s.enterSeqs k x g p ver toks).clock = s.clock := by
  unfold State.enterSeqs
  dsimp only
  split
  · split
    · split <;> simp
    · split <;> simp
  · split
    · split <;> simp
    · split <;> simp
@[simp] theorem State.clock_admitNew (k : Nat) (x : SubEntry) : (s.admitNew k x).1.clock = s.clock := by
  unfold State.admitNew
  dsimp only
  split
  · simp
  · split
    · simp
    · split
      · simp
      · split
        · simp
        · split
          · simp
          · split
            · simp
            · split
              · simp
              · split
                · simp
                · split
                  · simp
                  · split
                    · simp
                    · split
                      · split
                        · simp
                        · split
                          · simp
                          · split <;> simp
                      · split
                        · simp
                        · split
                          · simp
                          · split <;> simp
@[simp] theorem State.clock_admitOne (k : Nat) (x : SubEntry) : (s.admitOne k x).1.clock = s.clock := by
  unfold State.admitOne
  split <;> simp
@[simp] theorem State.clock_serveSlice (n d left fuel : Nat) : (s.serveSlice n d left fuel).1.clock = s.clock := by
  induction fuel generalizing s d left with
  | zero => rfl
  | succ m ih =>
    unfold State.serveSlice
    split
    · rfl
    · split
      · rfl
      · split
        · rfl
        · next k x _ =>
          have ha := State.clock_admitOne s k x
          split
          · simp
          · split
            · next h => exact (congrArg (fun a => a.1.clock) h).symm.trans ha
            · next h => exact (congrArg (fun a => a.1.clock) h).symm.trans ha
            · next v h =>
              have hv : v.clock = s.clock := (congrArg (fun a => a.1.clock) h).symm.trans ha
              extract_lets v' y v''
              rw [ih, State.clock_drainRing]
              simp [v'', v', hv]
@[simp] theorem State.clock_admitSlice (n left : Nat) : (s.admitSlice n left).1.clock = s.clock := by
  unfold State.admitSlice
  extract_lets q
  split
  · rfl
  · split
    · simp
    · have hs := State.clock_serveSlice s n (min (s.rd F.SRV_ADM.deficit n + q) (2 * q)) left 512
      split
      next h =>
      rw [h] at hs
      simpa using hs
@[simp] theorem State.clock_admitSlices (left : Nat) (l : List Nat) : (s.admitSlices left l).1.clock = s.clock := by
  induction l generalizing s left with
  | nil => rfl
  | cons n l ih =>
    unfold State.admitSlices
    have hs := State.clock_admitSlice s n left
    split
    · next h =>
      rw [h] at hs
      exact hs
    · next h =>
      rw [h] at hs
      exact (ih _ _).trans hs
@[simp] theorem State.clock_admission : (s.admission).clock = s.clock := by simp [State.admission]
@[simp] theorem State.clock_tickCounts : (s.tickCounts).clock = s.clock := by simp [State.tickCounts]

end Sys2Proof.Machine

/-! SUPPORT. Work stops, then the next tick boundary (R36, R65). -/

namespace Sys2Proof.Machine

/-- The tick boundary after `n` ns. -/
def boundaryAfter (n : Nat) : Nat := (n / 125000 + 1) * 125000

/-- Device time `c` moved to `n` ns, the boundary of a tick: no part of a ns, the tick of that instant, and no tick cut short. -/
def boundaryTime (c : TimeState) (n : Nat) : TimeState :=
  { c with sec := n / 1000000000 % 2 ^ 48, ns := n % 1000000000, frac := 0, rem := 0, cut := false
           tick := tickOf (n / 1000000000 % 2 ^ 48) (n % 1000000000) }

/-- Device time at the boundary after `c`. -/
def nextBoundary (c : TimeState) : TimeState := boundaryTime c (boundaryAfter (c.sec * 1000000000 + c.ns))

/-- Device time counts 2^48 s: an instant of the same tick, written as seconds and ns of that range, has the same boundary
after it in that range. -/
theorem boundaryAfter_same_tick {m n : Nat} (h : n / 125000 = m / 125000) :
    boundaryAfter (n / 1000000000 % 2 ^ 48 * 1000000000 + n % 1000000000) / 1000000000 % 2 ^ 48 = boundaryAfter m / 1000000000 % 2 ^ 48 ∧
    boundaryAfter (n / 1000000000 % 2 ^ 48 * 1000000000 + n % 1000000000) % 1000000000 = boundaryAfter m % 1000000000 := by
  unfold boundaryAfter
  omega

theorem tick_of_offset (m : Nat) {d : Nat} (hd : d < 125000) : (m / 125000 * 125000 + d) / 125000 = m / 125000 := by
  omega

theorem nextBoundary_edges (c : TimeState) : (nextBoundary c).edges = c.edges := by
  unfold nextBoundary boundaryTime
  rfl

variable (s : State)

theorem State.nowNs_setNowNs (n : Nat) : (s.setNowNs n).nowNs = n / 1000000000 % 2 ^ 48 * 1000000000 + n % 1000000000 := by rfl

theorem State.time_setNowNs (n : Nat) :
    (s.setNowNs n).time = { s.time with sec := n / 1000000000 % 2 ^ 48, ns := n % 1000000000, frac := 0, rem := 0 } := by rfl

theorem State.tickNow_setNowNs (n : Nat) : (s.setNowNs n).tickNow = tickOf (n / 1000000000 % 2 ^ 48) (n % 1000000000) := by rfl

theorem State.clock_withTime (t : TimeState) : (s.withTime t).clock = Machine.clock t := by rfl

theorem State.edges_of_clock {s : State} {c : TimeState} (h : nextBoundary s.clock = nextBoundary c) : s.time.edges = c.edges := by
  rw [← nextBoundary_edges c, ← h, nextBoundary_edges]
  rfl

theorem State.nextBoundary_clock :
    nextBoundary s.clock = Machine.clock (boundaryTime s.time (boundaryAfter s.nowNs)) := by rfl

theorem State.nextBoundary_setNowNs {n : Nat} (h : n / 125000 = s.nowNs / 125000) :
    nextBoundary (s.setNowNs n).clock = nextBoundary s.clock := by
  obtain ⟨hsec, hns⟩ := boundaryAfter_same_tick h
  rw [State.nextBoundary_clock, State.nextBoundary_clock, State.nowNs_setNowNs, State.time_setNowNs]
  unfold boundaryTime
  rw [hsec, hns]

/-- While tick edges run, no instant asked for within a tick moves device time past the tick's end. -/
theorem State.nextBoundary_atNs (h : s.time.edges = true) (n : Nat) : nextBoundary (s.atNs n).clock = nextBoundary s.clock := by
  unfold State.atNs
  extract_lets t
  split
  · rfl
  · refine State.nextBoundary_setNowNs s ?_
    simp only [t, h, if_true]
    exact tick_of_offset _ (by omega)

theorem State.nextBoundary_stopAtEdge (h : s.time.edges = true) (p : Nat) :
    nextBoundary (s.stopAtEdge p).clock = nextBoundary s.clock := by
  have hc : (s.stopAtEdge p).clock = (s.atCyc (412500 - s.rd F.TICK_FIT.abort_lead p)).clock := by
    unfold State.stopAtEdge
    refine (State.clock_foldl (fun t x => ?_) _ _).trans (State.clock_stopWork _ _ _ _)
    split
    · split <;> simp
    · split <;> simp
  rw [hc]
  exact State.nextBoundary_atNs s h _

/-- The partitions' work stops within the tick that ends. -/
theorem State.nextBoundary_stopAll (h : s.time.edges = true) (l : List Nat) :
    nextBoundary (l.foldl State.stopAtEdge s).clock = nextBoundary s.clock :=
  foldl_keep (P := fun t : State => nextBoundary t.clock = nextBoundary s.clock)
    (fun t p ht => (State.nextBoundary_stopAtEdge t ((State.edges_of_clock ht).trans h) p).trans ht) l rfl

theorem State.clock_nextTick : s.nextTick.clock = nextBoundary s.clock := by
  rw [State.nextBoundary_clock]
  unfold State.nextTick
  extract_lets n t c u
  have hn : n = boundaryAfter s.nowNs := by rfl
  clear_value n
  simp only [State.clock_put, u, c, t, State.setTime, State.clock_withTime, State.time_setNowNs, State.tickNow_setNowNs]
  rw [← hn]
  rfl

theorem State.clock_tickEdge (h : s.time.edges = true) : s.tickEdge.clock = nextBoundary s.clock := by
  unfold State.tickEdge
  rw [h]
  extract_lets ps s1 s2 s3 s4 s5 s6 s7 s8 s9 s10 s11
  have h1 : s1.clock = s.clock := by
    simp only [s1]
    split <;> simp
  have he : s1.time.edges = true := (congrArg TimeState.edges h1).trans h
  have h2 : nextBoundary s2.clock = nextBoundary s.clock := by rw [State.nextBoundary_stopAll s1 he ps, h1]
  have h3 : s3.clock = nextBoundary s.clock := by
    rw [State.clock_commitInstant, State.clock_tickCounts, State.clock_nextTick, h2]
  clear_value s3
  simp [s11, s10, s9, s8, s7, s6, s5, s4, h3]

theorem State.eq_of_clock {t c : TimeState} (h : Machine.clock t = Machine.clock c) : t = { c with armed := t.armed } := by
  cases t
  cases c
  simp only [Machine.clock, TimeState.mk.injEq] at h
  simp only [TimeState.mk.injEq]
  tauto

theorem State.time_tickEdge (h : s.time.edges = true) {n : Nat} (hn : (s.nowNs / 125000 + 1) * 125000 = n) :
    s.tickEdge.time = { s.time with
      sec := n / 1000000000 % 2 ^ 48, ns := n % 1000000000, frac := 0, rem := 0, cut := false, armed := s.tickEdge.time.armed
      tick := tickOf (n / 1000000000 % 2 ^ 48) (n % 1000000000) } := by
  have ht := (State.clock_tickEdge s h).trans s.nextBoundary_clock
  unfold boundaryAfter at ht
  rw [hn] at ht
  exact State.eq_of_clock ht

theorem State.tickEdge_before_edges (h : s.time.edges = false) : s.tickEdge = s := by
  unfold State.tickEdge
  rw [h]
  exact if_pos rfl

theorem exec_tickEdge : exec .tickEdge s = .next s.tickEdge := by rfl

/-- Settles O16: all work that stops at the edge stops within the tick that ends, so the boundary ahead stays the same, and
nothing after it changes device time but the armed timers. -/
theorem tickEdgeReachesTheNextBoundary : Obligations.TickEdgeReachesTheNextBoundary := by
  unfold Obligations.TickEdgeReachesTheNextBoundary
  refine ⟨fun s h => ?_, fun s h => ?_⟩
  · rw [exec_tickEdge, State.tickEdge_before_edges s h]
  · intro n
    exact ⟨s.tickEdge, exec_tickEdge s, State.time_tickEdge s h (n := n) rfl⟩

end Sys2Proof.Machine

/-! SUPPORT. Compare timers and the time snapshot, one command at a time (R47, R48, R68). -/

namespace Sys2Proof.Machine

open Sys2Proof.Safety

variable {s : State}

/-- CMP_TARGET_WRITE, where the writer may write the target (R68). -/
theorem cmpTargetWrite_effect {wr : Writer} {n : Fin 16} (hw : s.mayWrite wr F.TIME_CMP_TARGET.target n = true) (target : Word) :
    ∃ t, exec (.cmpTargetWrite wr n target) s = .next t ∧ t.rd F.TIME_CMP_TARGET.target n = target.toNat ∧
      t.time = { s.time with armed := s.time.armed ||| 2 ^ n.val } ∧ OnlyTime s t [(F.TIME_CMP_TARGET.target, n.val)] := by
  refine ⟨_, congrArg Host.Outcome.next (if_pos hw), ?_, rfl, onlyTime_setTime (onlyTime_put (onlyTime_refl s _) (by simp) _) _⟩
  calc _ = (s.put F.TIME_CMP_TARGET.target target.toNat n).rd F.TIME_CMP_TARGET.target n := rfl
    _ = target.toNat % 2 ^ 64 := s.rd_put_same _ _ _
    _ = target.toNat := Nat.mod_eq_of_lt target.isLt

/-- CMP_ENABLE_WRITE, where the writer may write the enable bits (R68). -/
theorem cmpEnableWrite_effect {wr : Writer} (hw : s.mayWrite wr F.TIME_CMP_CTRL.enable 0 = true) (enable fired : BitVec 16) :
    ∃ t, exec (.cmpEnableWrite wr enable fired) s = .next t ∧ t.rd F.TIME_CMP_CTRL.enable = enable.toNat ∧
      t.rd F.TIME_CMP_CTRL.fired = (s.rd F.TIME_CMP_CTRL.fired &&& (fired.toNat ^^^ 0xFFFF)) % 2 ^ 16 ∧
      t.time = { s.time with armed := s.time.armed ||| (enable.toNat &&& (s.rd F.TIME_CMP_CTRL.enable ^^^ 0xFFFF)) } ∧
      OnlyTime s t [(F.TIME_CMP_CTRL.enable, 0), (F.TIME_CMP_CTRL.fired, 0)] := by
  let u := s.put F.TIME_CMP_CTRL.enable enable.toNat
  refine ⟨_, congrArg Host.Outcome.next (if_pos hw), ?_, ?_, rfl,
    onlyTime_setTime (onlyTime_put (onlyTime_put (onlyTime_refl s _) (by simp) _) (by simp) _) _⟩
  · calc _ = u.rd F.TIME_CMP_CTRL.enable := u.rd_put_apart (by decide) _ _ _
      _ = enable.toNat % 2 ^ 16 := s.rd_put_same _ _ _
      _ = enable.toNat := Nat.mod_eq_of_lt enable.isLt
  · have hfired : u.rd F.TIME_CMP_CTRL.fired = s.rd F.TIME_CMP_CTRL.fired := s.rd_put_apart (by decide) _ _ _
    rw [← hfired]
    exact u.rd_put_same _ _ _

theorem State.out_atNs (s : State) (ns : Nat) : (s.atNs ns).out = s.out := by
  rcases s.atNs_cases ns with e | ⟨n, e⟩ <;> rw [e]
  rfl

/-- A timer's interrupt goes out: the function of the timers has the vectors 3 to 18 (R387). -/
theorem State.fireTimer_eq (s : State) {n : Nat} (hn : n < 16) : s.fireTimer n =
    ((s.setTime { s.time with armed := s.time.armed - (s.time.armed &&& 2 ^ n) }).put F.TIME_CMP_CTRL.fired
      (s.rd F.TIME_CMP_CTRL.fired ||| 2 ^ n)).emit (.msix 0 (3 + n)) := by
  exact if_pos (show 3 + n < 64 by omega)

theorem State.fireTimer_effect (s : State) {n : Nat} (hn : n < 16) : (s.fireTimer n).out = .msix 0 (3 + n) :: s.out ∧
    (s.fireTimer n).rd F.TIME_CMP_CTRL.fired = (s.rd F.TIME_CMP_CTRL.fired ||| 2 ^ n) % 2 ^ 16 ∧
    (s.fireTimer n).time = { s.time with armed := s.time.armed - (s.time.armed &&& 2 ^ n) } ∧
    Only s (s.fireTimer n) [(F.TIME_CMP_CTRL.fired, 0)] fun x => (x.withTime (s.fireTimer n).time).withOut (s.fireTimer n).out := by
  rw [s.fireTimer_eq hn]
  exact ⟨rfl, State.rd_put_same _ _ _ _, rfl, rfl,
    regsSame_put (i := 0) (regsSame_withTime (regsSame_refl s _) _) (by simp) _⟩

/-- The instant of a command is hidden by a frame that leaves device time free. -/
theorem only_of_atNs {s t : State} {ns : Nat} {l : List (Field × Nat)} {o : List Out}
    (h : Only (s.atNs ns) t l fun x => (x.withTime t.time).withOut o) : Only s t l fun x => (x.withTime t.time).withOut o := by
  rcases s.atNs_cases ns with e | ⟨n, e⟩ <;> rw [e] at h
  · exact h
  · exact h

/-- A timer is due at the instant of a command by its own registers, which the instant leaves alone. -/
theorem State.timerDue_atNs (s : State) {ns n : Nat} (ha : bit (s.atNs ns).time.armed n = true)
    (he : bit (s.rd F.TIME_CMP_CTRL.enable) n = true)
    (hd : 0 ≤ toSigned 64 (((s.atNs ns).compare + 2 ^ 64 - s.rd F.TIME_CMP_TARGET.target n % 2 ^ 64) % 2 ^ 64)) :
    (s.atNs ns).timerDue n = true := by
  rw [State.timerDue, s.rd_atNs, s.rd_atNs, ha, he, State.due, decide_eq_true hd]
  rfl

/-- CMP_TIMER_FIRE on a timer that is armed, enabled and due: once, since it is no longer armed (R48, R68). -/
theorem cmpTimerFire_effect {n : Fin 16} {ns : Nat} (hdue : (s.atNs ns).timerDue n = true) :
    ∃ t, exec (.cmpTimerFire n ns) s = .next t ∧ t.out = .msix 0 (3 + n) :: s.out ∧
      t.rd F.TIME_CMP_CTRL.fired = (s.rd F.TIME_CMP_CTRL.fired ||| 2 ^ n.val) % 2 ^ 16 ∧
      t.time = { (s.atNs ns).time with armed := (s.atNs ns).time.armed - ((s.atNs ns).time.armed &&& 2 ^ n.val) } ∧
      Only s t [(F.TIME_CMP_CTRL.fired, 0)] fun x => (x.withTime t.time).withOut t.out := by
  obtain ⟨hout, hfired, htime, honly⟩ := (s.atNs ns).fireTimer_effect n.isLt
  rw [s.rd_atNs] at hfired
  have he : exec (.cmpTimerFire n ns) s =
      .next (if (s.atNs ns).timerDue n then (s.atNs ns).fireTimer n else s.atNs ns) := rfl
  rw [he, if_pos hdue]
  exact ⟨_, rfl, hout.trans (congrArg _ (s.out_atNs ns)), hfired, htime, only_of_atNs honly⟩

theorem onlyRegs_refl (s : State) (l : List (Field × Nat)) : OnlyRegs s s l := ⟨rfl, regsSame_refl s l⟩

theorem onlyRegs_put {s t : State} {l : List (Field × Nat)} (h : OnlyRegs s t l) {f : Field} {i : Nat} (m : (f, i) ∈ l) (v : Nat) :
    OnlyRegs s (t.put f v i) l :=
  ⟨by rw [h.1]; rfl, regsSame_put h.2 m v⟩

theorem ofSigned_lt (w : Nat) (v : Int) : ofSigned w v < 2 ^ w := by
  have h : (0 : Int) < ((2 ^ w : Nat) : Int) := by exact_mod_cast Nat.two_pow_pos w
  have h0 := Int.emod_nonneg v h.ne'
  have h1 := Int.emod_lt_of_pos v h
  unfold ofSigned
  omega

theorem State.compare_put (s : State) (f : Field) (v i : Nat) : (s.put f v i).compare = s.compare := by
  unfold State.compare State.nowNs
  rw [State.put_time]

theorem State.tickNow_put (s : State) (f : Field) (v i : Nat) : (s.put f v i).tickNow = s.tickNow := by
  unfold State.tickNow
  rw [State.put_time]

/-- TIME_SNAPSHOT, where the writer may take one: every part is read at one instant (R47). -/
theorem timeSnapshot_effect {wr : Writer} (hw : s.mayWrite wr F.TIME_SNAP_CTRL.snap 0 = true) (hsec : s.time.sec < 2 ^ 48)
    (hns : s.time.ns < 2 ^ 30) (hfrac : s.time.frac < 2 ^ 18) :
    ∃ t, exec (.timeSnapshot wr) s = .next t ∧ t.rd F.TIME_SNAP_SEC.sec = s.time.sec ∧ t.rd F.TIME_SNAP_SUB.ns = s.time.ns ∧
      t.rd F.TIME_SNAP_SUB.frac = s.time.frac ∧ t.rd F.TIME_SNAP_CMP.cmp = s.compare ∧
      t.rd F.TIME_SNAP_TICK.tick_count = ofSigned 64 s.tickNow ∧
      OnlyRegs s t [(F.TIME_SNAP_SEC.sec, 0), (F.TIME_SNAP_SUB.ns, 0), (F.TIME_SNAP_SUB.frac, 0), (F.TIME_SNAP_CMP.cmp, 0),
        (F.TIME_SNAP_TICK.tick_count, 0)] := by
  let a := s.put F.TIME_SNAP_SEC.sec s.time.sec
  let b := a.put F.TIME_SNAP_SUB.ns s.time.ns
  let c := b.put F.TIME_SNAP_SUB.frac s.time.frac
  let d := c.put F.TIME_SNAP_CMP.cmp s.compare
  have he : exec (.timeSnapshot wr) s = .next (d.putS F.TIME_SNAP_TICK.tick_count s.tickNow) := by
    show execTimeSnapshot wr s = _
    simp only [execTimeSnapshot, if_pos hw, State.compare_put, State.tickNow_put, State.put_time, a, b, c, d]
  have hcmp : s.compare < 2 ^ 64 := Nat.mod_lt _ (by decide)
  refine ⟨_, he, ?_, ?_, ?_, ?_, ?_, ?_⟩
  · simp (disch := decide) only [State.putS, State.rd_put_apart, a, b, c, d]
    exact (s.rd_put_same _ _ _).trans (Nat.mod_eq_of_lt hsec)
  · simp (disch := decide) only [State.putS, State.rd_put_apart, b, c, d]
    exact (a.rd_put_same _ _ _).trans (Nat.mod_eq_of_lt hns)
  · simp (disch := decide) only [State.putS, State.rd_put_apart, c, d]
    exact (b.rd_put_same _ _ _).trans (Nat.mod_eq_of_lt hfrac)
  · simp (disch := decide) only [State.putS, State.rd_put_apart, d]
    exact (c.rd_put_same _ _ _).trans (Nat.mod_eq_of_lt hcmp)
  · exact (d.rd_put_same _ _ _).trans (Nat.mod_eq_of_lt (ofSigned_lt 64 _))
  · exact onlyRegs_put (onlyRegs_put (onlyRegs_put (onlyRegs_put (onlyRegs_put (onlyRegs_refl s _) (by simp) _) (by simp) _)
      (by simp) _) (by simp) _) (by simp) _

end Sys2Proof.Machine

open Sys2Proof Sys2Proof.Machine Sys2Proof.Safety in
/-- Settles O13, one command at a time. -/
theorem timerWritesFiresAndTheSnapshot : Obligations.TimerWritesFiresAndTheSnapshot := by
  unfold Obligations.TimerWritesFiresAndTheSnapshot
  intro s wr n target enable fired ns
  exact ⟨fun hw => cmpTargetWrite_effect hw target, fun hw => cmpEnableWrite_effect hw enable fired,
    fun ha he hd => cmpTimerFire_effect (s.timerDue_atNs ha he hd), fun hw => timeSnapshot_effect hw⟩

/-! SUPPORT. Time measurements: what SYNC_RECEIVED does with an offset in each state of the servo (R51–R54). -/

namespace Sys2Proof.Machine

open Sys2Proof.Safety

variable {s : State}

/-! ## Signed fields, and the spread of a run of offsets -/

theorem toSigned_ofSigned_of_width {w : Nat} {v : Int} (h0 : -(2 ^ w : Nat) ≤ 2 * v) (h1 : 2 * v < (2 ^ w : Nat)) :
    toSigned w (ofSigned w v) = v := by
  have hlt := ofSigned_lt w v
  have hpos : 0 < 2 ^ w := Nat.two_pow_pos w
  have hval : (ofSigned w v : Int) = v % (2 ^ w : Nat) := Int.toNat_of_nonneg (Int.emod_nonneg v (by omega))
  have hmod : v % (2 ^ w : Nat) = if 0 ≤ v then v else v + (2 ^ w : Nat) := by
    split
    case isTrue h => exact Int.emod_eq_of_lt h (by omega)
    case isFalse h =>
      rw [← Int.add_emod_right, Int.emod_eq_of_lt (by omega) (by omega)]
  unfold toSigned
  dsimp only
  rw [Nat.mod_eq_of_lt hlt]
  rw [hmod] at hval
  generalize 2 ^ w = m at *
  split at hval <;> split <;> omega

/-- A signed field reads what was written to it, where that is in its range. -/
theorem State.rdS_putS_same (s : State) (f : Field) (i : Nat) {v : Int} (h0 : -(2 ^ f.width : Nat) ≤ 2 * v)
    (h1 : 2 * v < (2 ^ f.width : Nat)) : (s.putS f v i).rdS f i = v := by
  unfold State.rdS State.putS
  rw [s.rd_put_same, Nat.mod_eq_of_lt (ofSigned_lt _ _), toSigned_ofSigned_of_width h0 h1]

theorem foldl_max_le {l : List Int} {b c : Int} : l.foldl max b ≤ c ↔ b ≤ c ∧ ∀ a ∈ l, a ≤ c := by
  induction l generalizing b with
  | nil => simp
  | cons x l ih => simp [ih, and_assoc]

theorem le_foldl_min {l : List Int} {b c : Int} : c ≤ l.foldl min b ↔ c ≤ b ∧ ∀ a ∈ l, c ≤ a := by
  induction l generalizing b with
  | nil => simp
  | cons x l ih => simp [ih, and_assoc]

/-- The greatest and the least of a run that holds `b` lie within `k` when any two of the run do. -/
theorem foldl_max_sub_foldl_min_le {l : List Int} {b k : Int} (hb : b ∈ l) :
    l.foldl max b - l.foldl min b ≤ k ↔ ∀ x ∈ l, ∀ y ∈ l, x - y ≤ k := by
  have hmin : ∀ x, x - k ≤ l.foldl min b ↔ ∀ y ∈ l, x - y ≤ k := fun x => by
    rw [le_foldl_min]
    constructor
    · intro h y hy
      have := h.2 y hy
      omega
    · intro h
      exact ⟨by have := h b hb; omega, fun y hy => by have := h y hy; omega⟩
  calc l.foldl max b - l.foldl min b ≤ k ↔ l.foldl max b ≤ l.foldl min b + k := by omega
    _ ↔ ∀ x ∈ l, x ≤ l.foldl min b + k := by
      rw [foldl_max_le]
      exact ⟨And.right, fun h => ⟨h b hb, h⟩⟩
    _ ↔ ∀ x ∈ l, ∀ y ∈ l, x - y ≤ k := forall₂_congr fun x _ => by rw [← hmin]; omega

/-! ## A measurement reaches the servo -/

/-- What SYNC_RECEIVED does with an offset at the present instant (R51–R53). -/
def State.useSync (s : State) (off freq : Int) : State :=
  if s.servo = freerun then (s.enterNominal acquiring).acquirePtp off
  else if s.servo = acquiring then (if s.time.pending.isSome then s else s.acquirePtp off)
  else if s.rd F.TIME_STAT.stepped = 0 then s
  else s.measure off freq

theorem exec_syncReceived {m : Announce} {port : Fin 8} {sub : Fin 4} {domain : BitVec 8} (hs : s.srcSel = 0)
    (hin : s.ptpIn port sub domain.toNat = true) (hm : s.parent = some m) (off freq : Int) (ns : Nat) :
    exec (.syncReceived ⟨m.src, port, sub, domain⟩ off freq ns) s = .next ((s.atNs ns).useSync off freq) := by
  have hfrom : (s.parent.any fun x => x.src == m.src) = true := by simp [hm]
  exact congrArg Host.Outcome.next (if_pos ⟨hs, hin, hfrom⟩)

/-- A Sync of a master that is not the selected one changes nothing. -/
theorem exec_syncReceived_other {m : Announce} (hm : s.parent = some m) {src : BitVec 80} (hsrc : src ≠ m.src) (via : PtpVia)
    (off freq : Int) (ns : Nat) : exec (.syncReceived ⟨src, via⟩ off freq ns) s = .next s := by
  have hfrom : (s.parent.any fun x => x.src == src) = false := by simpa [hm] using hsrc.symm
  exact congrArg Host.Outcome.next (if_neg fun h => by simp [hfrom] at h)

/-- The instant of a command moves the count of device time alone. -/
theorem State.time_atNs (s : State) (ns : Nat) : ∃ sec n frac rem,
    (s.atNs ns).time = { s.time with sec := sec, ns := n, frac := frac, rem := rem } := by
  rcases s.atNs_cases ns with e | ⟨n, e⟩ <;> rw [e]
  · exact ⟨_, _, _, _, rfl⟩
  · exact ⟨_, _, _, _, rfl⟩

/-! ## Acquiring (R51, R52) -/

theorem State.acquirePtp_locked (h : s.time.locked = true) (hc : s.cellActive = false) (off : Int) :
    s.acquirePtp off = s.setTime { s.time with pending := some (-off) } := by
  rw [State.acquirePtp, if_pos h, State.askStep, hc]
  rfl

theorem State.acquirePtp_refused (h : s.time.locked = true) (hc : s.cellActive = true) (off : Int) :
    s.acquirePtp off = s.clearLock.put F.TIME_STAT.step_refused 1 := by
  rw [State.acquirePtp, if_pos h, State.askStep, if_pos hc]

/-- Lock detection takes one more offset (R51). -/
theorem State.acquirePtp_run (h : s.time.locked = false) (off : Int) :
    (s.acquirePtp off).time.lockRun = (off :: s.time.lockRun).take 8 ∧
      ((s.acquirePtp off).time.locked = true ↔ 7 ≤ s.time.lockRun.length ∧
        ∀ a ∈ (off :: s.time.lockRun).take 8, ∀ b ∈ (off :: s.time.lockRun).take 8, a - b ≤ 100) ∧
      ∀ {r l}, OnlyTime r s l → OnlyTime r (s.acquirePtp off) l := by
  rw [State.acquirePtp, h, if_neg Bool.false_ne_true]
  refine ⟨rfl, ?_, fun ho => onlyTime_setTime ho _⟩
  have hlen : ((off :: s.time.lockRun).take 8).length = 8 ↔ 7 ≤ s.time.lockRun.length := by
    rw [List.length_take, List.length_cons]
    omega
  have hmem : off ∈ (off :: s.time.lockRun).take 8 := List.mem_cons_self
  rw [← hlen, ← foldl_max_sub_foldl_min_le hmem]
  simp [State.setTime]

/-! ## A measurement after the step (R53, R54) -/

/-- The offset is shown, cut to its field. -/
def State.noteOffset (s : State) (off : Int) : State := s.putS F.TIME_OFFSET.last_offset (clampInt (-2147483647) 2147483647 off)

theorem State.rd_noteOffset (s : State) (off : Int) {g : Field} (h : g.apart F.TIME_OFFSET.last_offset = true) (j : Nat) :
    (s.noteOffset off).rd g j = s.rd g j := s.rd_put_apart h _ _ _

theorem State.noteOffset_shows (s : State) (off : Int) :
    (s.noteOffset off).rdS F.TIME_OFFSET.last_offset = max (-2147483647) (min 2147483647 off) := by
  refine s.rdS_putS_same F.TIME_OFFSET.last_offset 0 ?_ ?_
  · show -(2 ^ 32 : Nat) ≤ 2 * max (-2147483647) (min 2147483647 off)
    omega
  · show 2 * max (-2147483647) (min 2147483647 off) < (2 ^ 32 : Nat)
    omega

/-- A measurement beyond the jump threshold is refused and counted; the first of an unbroken run is timed. -/
def State.refuseJump (s : State) : State :=
  ((s.put F.TIME_STAT.jump_refused 1).bump F.TIME_COUNT.refuse_cnt).setTime
    { s.time with refuseSince := some (s.time.refuseSince.getD s.nowNs) }

theorem State.rd_refuseJump (s : State) {g : Field} (h1 : g.apart F.TIME_STAT.jump_refused = true)
    (h2 : g.apart F.TIME_COUNT.refuse_cnt = true) (j : Nat) : s.refuseJump.rd g j = s.rd g j :=
  (State.rd_put_apart _ h2 _ _ _).trans (s.rd_put_apart h1 _ _ _)

theorem State.refuseJump_counts (s : State) : s.refuseJump.rd F.TIME_STAT.jump_refused = 1 ∧
    s.refuseJump.rd F.TIME_COUNT.refuse_cnt = satAdd 32 (s.rd F.TIME_COUNT.refuse_cnt) 1 := by
  have hlt : satAdd 32 (s.rd F.TIME_COUNT.refuse_cnt) 1 < 2 ^ 32 := by
    simp only [satAdd]
    omega
  constructor
  · calc _ = (s.put F.TIME_STAT.jump_refused 1).rd F.TIME_STAT.jump_refused := State.rd_put_apart _ (by decide) _ _ _
      _ = 1 := s.rd_put_same _ _ _
  · calc _ = satAdd 32 ((s.put F.TIME_STAT.jump_refused 1).rd F.TIME_COUNT.refuse_cnt) 1 % 2 ^ 32 := State.rd_bump_same _ _ _ _
      _ = _ := by rw [s.rd_put_apart (by decide), Nat.mod_eq_of_lt hlt]

theorem State.measure_refused {off : Int} (h : s.rd F.TIME_JUMP_THR.thr_ns < off.natAbs) (freq : Int) :
    s.measure off freq = (s.noteOffset off).refuseJump.enterHoldover := by
  have hthr : (s.noteOffset off).rd F.TIME_JUMP_THR.thr_ns = s.rd F.TIME_JUMP_THR.thr_ns := s.rd_noteOffset off (by decide) 0
  rw [← hthr] at h
  exact if_pos h

/-- A correction that was cut shows. -/
def State.showClamped (s : State) (c : Bool) : State := if c then s.put F.TIME_STAT.rate_clamped 1 else s

theorem State.rd_showClamped (s : State) (c : Bool) {g : Field} (h : g.apart F.TIME_STAT.rate_clamped = true) (j : Nat) :
    (s.showClamped c).rd g j = s.rd g j := by
  unfold State.showClamped
  split
  · exact s.rd_put_apart h _ _ _
  · rfl

theorem State.showClamped_time (s : State) (c : Bool) : (s.showClamped c).time = s.time := by
  unfold State.showClamped
  split <;> rfl

/-- A LOCKED servo takes an accepted measurement: the correction is the rate from now on (R52, R54). -/
def State.steer (s : State) (c : Int × Bool) (freq : Int) : State :=
  let u := (s.putS F.TIME_OFFSET.rate c.1).showClamped c.2
  u.setTime { u.time with freq := freq, rates := (u.nowNs, c.1) :: (u.time.rates.filter fun x => u.nowNs ≤ x.1 + 16000000000) }

theorem State.correction_congr {s t : State} (h : t.rd F.TIME_SLEW.slew_ppb = s.rd F.TIME_SLEW.slew_ppb) (off freq : Int) :
    t.correction off freq = s.correction off freq := by
  rw [State.correction, State.correction, h]

theorem State.measure_accepted {off : Int} (hl : s.servo = 2) (h : off.natAbs ≤ s.rd F.TIME_JUMP_THR.thr_ns)
    (hf : s.rd F.TIME_CTRL.force_holdover = 0) (freq : Int) :
    s.measure off freq = ((s.noteOffset off).setTime { s.time with refuseSince := none }).steer (s.correction off freq) freq := by
  let u := (s.noteOffset off).setTime { s.time with refuseSince := none }
  have hrd : ∀ g : Field, g.apart F.TIME_OFFSET.last_offset = true → u.rd g = s.rd g := fun g hg => s.rd_noteOffset off hg 0
  have hthr : ¬ (s.noteOffset off).rd F.TIME_JUMP_THR.thr_ns < off.natAbs := by
    rw [s.rd_noteOffset off (by decide)]
    omega
  have hforce : u.on F.TIME_CTRL.force_holdover = false := u.on_eq_false_of_rd ((hrd _ (by decide)).trans hf)
  have hservo : u.servo = locked := (hrd _ (by decide)).trans hl
  have hm : s.measure off freq =
      if u.on F.TIME_CTRL.force_holdover then u
      else (if u.servo = locked then u else u.enterLocked).steer ((if u.servo = locked then u else u.enterLocked).correction off freq) freq :=
    if_neg hthr
  rw [hm, hforce, if_neg Bool.false_ne_true, if_pos hservo, State.correction_congr (hrd _ (by decide))]

theorem State.correction_range (s : State) (off freq : Int) :
    -100000000 ≤ (s.correction off freq).1 ∧ (s.correction off freq).1 ≤ 100000000 := by
  simp only [State.correction, clampInt]
  omega

theorem State.steer_rate (s : State) (off freq f : Int) :
    (s.steer (s.correction off freq) f).rdS F.TIME_OFFSET.rate = (s.correction off freq).1 := by
  obtain ⟨h0, h1⟩ := s.correction_range off freq
  have hrate := s.rdS_putS_same F.TIME_OFFSET.rate 0 (v := (s.correction off freq).1) (by simp [F.TIME_OFFSET.rate]; omega)
    (by simp [F.TIME_OFFSET.rate]; omega)
  rw [← hrate]
  exact congrArg (toSigned 32) (State.rd_showClamped _ _ (by decide) 0)

end Sys2Proof.Machine

/-! SUPPORT. SYNC_RECEIVED by the state of the servo, and the ports of the time functions (R52–R54, R59, R61, R63). -/

namespace Sys2Proof.Machine

open Sys2Proof.Safety

variable {s t r : State} {l : List (Field × Nat)}

/-! ## Frames of a measurement -/

theorem onlyTime_noteOffset (h : OnlyTime r s l) (hm : (F.TIME_OFFSET.last_offset, 0) ∈ l) (off : Int) :
    OnlyTime r (s.noteOffset off) l := onlyTime_put h hm _

theorem onlyTime_refuseJump (h : OnlyTime r s l) (hj : (F.TIME_STAT.jump_refused, 0) ∈ l) (hc : (F.TIME_COUNT.refuse_cnt, 0) ∈ l) :
    OnlyTime r s.refuseJump l := onlyTime_setTime (onlyTime_put (onlyTime_put h hj _) hc _) _

theorem onlyTime_showClamped (h : OnlyTime r s l) (hm : (F.TIME_STAT.rate_clamped, 0) ∈ l) (c : Bool) :
    OnlyTime r (s.showClamped c) l := by
  unfold State.showClamped
  split
  · exact onlyTime_put h hm _
  · exact h

theorem onlyTime_steer (h : OnlyTime r s l) (hr : (F.TIME_OFFSET.rate, 0) ∈ l) (hc : (F.TIME_STAT.rate_clamped, 0) ∈ l) (c : Int × Bool)
    (f : Int) : OnlyTime r (s.steer c f) l := onlyTime_setTime (onlyTime_showClamped (onlyTime_put h hr _) hc _) _

/-! ## SYNC_RECEIVED at the present instant, by the state of the servo -/

theorem State.useSync_freerun (h : s.servo = 0) (off freq : Int) : s.useSync off freq = (s.enterNominal acquiring).acquirePtp off :=
  if_pos h

theorem State.useSync_acquiring (h : s.servo = 1) (hp : s.time.pending = none) (off freq : Int) :
    s.useSync off freq = s.acquirePtp off := by
  simp [State.useSync, h, hp, freerun, acquiring]

theorem State.useSync_locked (h : s.servo = 2) (hs : s.rd F.TIME_STAT.stepped = 1) (off freq : Int) :
    s.useSync off freq = s.measure off freq := by
  simp [State.useSync, h, hs, freerun, acquiring]

/-- A device that runs free begins to acquire, with this offset as the first of its run (R51). -/
theorem State.useSync_starts (h : s.servo = 0) (off freq : Int) :
    (s.useSync off freq).rd F.TIME_STAT.state = 1 ∧ (s.useSync off freq).time.lockRun = [off] ∧
      (s.useSync off freq).time.locked = false ∧
      ∀ {r}, OnlyTime r s servoFields → OnlyTime r (s.useSync off freq) servoFields := by
  rw [State.useSync_freerun h]
  obtain ⟨hrun, -, honly⟩ := State.acquirePtp_run (s := s.enterNominal acquiring) rfl off
  exact ⟨s.enterNominal_state 1, hrun, rfl,
    fun ho => honly (onlyTime_enterNominal ho 1 (by simp [servoFields]) (by simp [servoFields]))⟩

/-- Beyond the jump threshold: the measurement is refused, and the device holds (R53). -/
theorem State.measure_jump {off : Int} (hl : s.servo = 2) (h : s.rd F.TIME_JUMP_THR.thr_ns < off.natAbs) (freq : Int) :
    (s.measure off freq).rd F.TIME_STAT.state = 3 ∧ (s.measure off freq).rd F.TIME_STAT.jump_refused = 1 ∧
      (s.measure off freq).rd F.TIME_COUNT.refuse_cnt = satAdd 32 (s.rd F.TIME_COUNT.refuse_cnt) 1 ∧
      (s.measure off freq).rdS F.TIME_OFFSET.last_offset = max (-2147483647) (min 2147483647 off) ∧
      (s.measure off freq).time.refuseSince = some (s.time.refuseSince.getD s.nowNs) := by
  rw [State.measure_refused h]
  let u := s.noteOffset off
  obtain ⟨hj, hc⟩ := u.refuseJump_counts
  have hservo : u.refuseJump.servo ≠ 3 := by
    have hrd : u.refuseJump.servo = s.servo := (u.rd_refuseJump (by decide) (by decide) 0).trans (s.rd_noteOffset off (by decide) 0)
    omega
  have hrd : ∀ g : Field, g.apart F.TIME_STAT.state = true → g.apart F.TIME_OFFSET.rate = true →
      u.refuseJump.enterHoldover.rd g = u.refuseJump.rd g := fun g h1 h2 => u.refuseJump.rd_enterHoldover h1 h2 0
  refine ⟨State.enterHoldover_state _, (hrd _ (by decide) (by decide)).trans hj, ?_, ?_, ?_⟩
  · rw [hrd _ (by decide) (by decide), hc, s.rd_noteOffset off (by decide)]
  · rw [← s.noteOffset_shows off, State.rdS, hrd _ (by decide) (by decide), u.rd_refuseJump (by decide) (by decide)]
    rfl
  · rw [State.enterHoldover_time hservo]
    rfl

/-- Within the threshold: the device stays LOCKED, and its rate is the correction (R52, R54). -/
theorem State.measure_steers {off : Int} (hl : s.servo = 2) (h : off.natAbs ≤ s.rd F.TIME_JUMP_THR.thr_ns)
    (hf : s.rd F.TIME_CTRL.force_holdover = 0) (freq : Int) :
    (s.measure off freq).rd F.TIME_STAT.state = 2 ∧ (s.measure off freq).rdS F.TIME_OFFSET.rate = (s.correction off freq).1 ∧
      (s.measure off freq).time.refuseSince = none := by
  rw [State.measure_accepted hl h hf]
  let u := (s.noteOffset off).setTime { s.time with refuseSince := none }
  have hcorr : u.correction off freq = s.correction off freq := State.correction_congr (s.rd_noteOffset off (by decide) 0) off freq
  refine ⟨?_, ?_, ?_⟩
  · calc (u.steer (s.correction off freq) freq).rd F.TIME_STAT.state
        = (u.putS F.TIME_OFFSET.rate (s.correction off freq).1).rd F.TIME_STAT.state := State.rd_showClamped _ _ (by decide) 0
      _ = u.rd F.TIME_STAT.state := u.rd_put_apart (by decide) _ _ _
      _ = 2 := (s.rd_noteOffset off (by decide) 0).trans hl
  · rw [← hcorr]
    exact u.steer_rate off freq freq
  · show ((u.putS F.TIME_OFFSET.rate _).showClamped _).time.refuseSince = none
    rw [State.showClamped_time]
    rfl

/-! ## SYNC_RECEIVED from the selected master -/

section
variable {m : Announce} {port : Fin 8} {sub : Fin 4} {domain : BitVec 8}
variable (hs : s.srcSel = 0) (hin : s.ptpIn port sub domain.toNat = true) (hm : s.parent = some m) (off freq : Int) (ns : Nat)
include hs hin hm

theorem syncReceived_starts (h : s.servo = 0) :
    ∃ t, exec (.syncReceived ⟨m.src, port, sub, domain⟩ off freq ns) s = .next t ∧ t.rd F.TIME_STAT.state = 1 ∧
      t.time.lockRun = [off] ∧ t.time.locked = false ∧ OnlyTime s t servoFields := by
  obtain ⟨hstate, hrun, hlock, honly⟩ := State.useSync_starts ((s.rd_atNs ns _ 0).trans h) off freq
  exact ⟨_, exec_syncReceived hs hin hm off freq ns, hstate, hrun, hlock, honly (onlyTime_atNs (onlyTime_refl s _) ns)⟩

theorem syncReceived_steps (h : s.servo = 1) (hp : s.time.pending = none) (hl : s.time.locked = true) (hc : s.cellActive = false) :
    ∃ t, exec (.syncReceived ⟨m.src, port, sub, domain⟩ off freq ns) s = .next t ∧ t.time.pending = some (-off) ∧ OnlyTime s t [] := by
  obtain ⟨hp', hl', -, hc', -⟩ := s.atNs_lock ns
  have he := exec_syncReceived hs hin hm off freq ns
  rw [State.useSync_acquiring ((s.rd_atNs ns _ 0).trans h) (hp'.trans hp), State.acquirePtp_locked (hl'.trans hl) (hc'.trans hc)] at he
  exact ⟨_, he, rfl, onlyTime_setTime (onlyTime_atNs (onlyTime_refl s _) ns) _⟩

theorem syncReceived_refused (h : s.servo = 1) (hp : s.time.pending = none) (hl : s.time.locked = true) (hc : s.cellActive = true) :
    ∃ t, exec (.syncReceived ⟨m.src, port, sub, domain⟩ off freq ns) s = .next t ∧ t.time.pending = none ∧ t.time.locked = false ∧
      t.rd F.TIME_STAT.step_refused = 1 ∧ OnlyTime s t [(F.TIME_STAT.step_refused, 0)] := by
  obtain ⟨hp', hl', -, hc', -⟩ := s.atNs_lock ns
  have he := exec_syncReceived hs hin hm off freq ns
  rw [State.useSync_acquiring ((s.rd_atNs ns _ 0).trans h) (hp'.trans hp), State.acquirePtp_refused (hl'.trans hl) (hc'.trans hc)] at he
  exact ⟨_, he, rfl, rfl, State.rd_put_same _ _ _ _, onlyTime_put (onlyTime_clearLock (onlyTime_atNs (onlyTime_refl s _) ns)) (by simp) _⟩

theorem syncReceived_runs (h : s.servo = 1) (hp : s.time.pending = none) (hl : s.time.locked = false) :
    ∃ t, exec (.syncReceived ⟨m.src, port, sub, domain⟩ off freq ns) s = .next t ∧
      t.time.lockRun = (off :: s.time.lockRun).take 8 ∧
      (t.time.locked = true ↔ 7 ≤ s.time.lockRun.length ∧ ∀ a ∈ t.time.lockRun, ∀ b ∈ t.time.lockRun, a - b ≤ 100) ∧
      OnlyTime s t [] := by
  obtain ⟨hp', hl', -⟩ := s.atNs_lock ns
  have he := exec_syncReceived hs hin hm off freq ns
  rw [State.useSync_acquiring ((s.rd_atNs ns _ 0).trans h) (hp'.trans hp)] at he
  obtain ⟨hrun, hlock, honly⟩ := State.acquirePtp_run (hl'.trans hl) off
  have hold : (s.atNs ns).time.lockRun = s.time.lockRun := by
    obtain ⟨_, _, _, _, ht⟩ := s.time_atNs ns
    rw [ht]
  rw [hold] at hrun hlock
  rw [← hrun] at hlock
  exact ⟨_, he, hrun, hlock, honly (onlyTime_atNs (onlyTime_refl s _) ns)⟩

theorem syncReceived_jump (h : s.servo = 2) (hst : s.rd F.TIME_STAT.stepped = 1) (hj : s.rd F.TIME_JUMP_THR.thr_ns < off.natAbs) :
    ∃ t, exec (.syncReceived ⟨m.src, port, sub, domain⟩ off freq ns) s = .next t ∧ t.rd F.TIME_STAT.state = 3 ∧
      t.rd F.TIME_STAT.jump_refused = 1 ∧ t.rd F.TIME_COUNT.refuse_cnt = satAdd 32 (s.rd F.TIME_COUNT.refuse_cnt) 1 ∧
      t.rdS F.TIME_OFFSET.last_offset = max (-2147483647) (min 2147483647 off) ∧
      t.time.refuseSince = some (s.time.refuseSince.getD (s.atNs ns).nowNs) ∧
      OnlyTime s t [(F.TIME_STAT.state, 0), (F.TIME_STAT.jump_refused, 0), (F.TIME_COUNT.refuse_cnt, 0),
        (F.TIME_OFFSET.last_offset, 0), (F.TIME_OFFSET.rate, 0)] := by
  have he := exec_syncReceived hs hin hm off freq ns
  have hl : (s.atNs ns).servo = 2 := (s.rd_atNs ns _ 0).trans h
  have hj' : (s.atNs ns).rd F.TIME_JUMP_THR.thr_ns < off.natAbs := by rwa [s.rd_atNs]
  rw [State.useSync_locked hl ((s.rd_atNs ns _ 0).trans hst)] at he
  obtain ⟨hstate, hrefused, hcount, hoff, hsince⟩ := State.measure_jump hl hj' freq
  have hold : (s.atNs ns).time.refuseSince = s.time.refuseSince := by
    obtain ⟨_, _, _, _, ht⟩ := s.time_atNs ns
    rw [ht]
  rw [s.rd_atNs] at hcount
  rw [hold] at hsince
  refine ⟨_, he, hstate, hrefused, hcount, hoff, hsince, ?_⟩
  rw [State.measure_refused hj']
  exact onlyTime_enterHoldover (onlyTime_refuseJump (onlyTime_noteOffset (onlyTime_atNs (onlyTime_refl s _) ns) (by simp) off) (by simp)
    (by simp)) (by simp) (by simp)

theorem syncReceived_steers (h : s.servo = 2) (hst : s.rd F.TIME_STAT.stepped = 1) (hj : off.natAbs ≤ s.rd F.TIME_JUMP_THR.thr_ns)
    (hf : s.rd F.TIME_CTRL.force_holdover = 0) :
    ∃ t, exec (.syncReceived ⟨m.src, port, sub, domain⟩ off freq ns) s = .next t ∧ t.rd F.TIME_STAT.state = 2 ∧
      t.rdS F.TIME_OFFSET.rate = (s.correction off freq).1 ∧ t.time.refuseSince = none ∧
      OnlyTime s t [(F.TIME_STAT.state, 0), (F.TIME_STAT.rate_clamped, 0), (F.TIME_OFFSET.last_offset, 0), (F.TIME_OFFSET.rate, 0)] := by
  have he := exec_syncReceived hs hin hm off freq ns
  have hl : (s.atNs ns).servo = 2 := (s.rd_atNs ns _ 0).trans h
  have hj' : off.natAbs ≤ (s.atNs ns).rd F.TIME_JUMP_THR.thr_ns := by rwa [s.rd_atNs]
  have hf' : (s.atNs ns).rd F.TIME_CTRL.force_holdover = 0 := (s.rd_atNs ns _ 0).trans hf
  rw [State.useSync_locked hl ((s.rd_atNs ns _ 0).trans hst)] at he
  obtain ⟨hstate, hrate, hsince⟩ := State.measure_steers hl hj' hf' freq
  rw [State.correction_congr (s.rd_atNs ns _ 0)] at hrate
  refine ⟨_, he, hstate, hrate, hsince, ?_⟩
  rw [State.measure_accepted hl hj' hf']
  exact onlyTime_steer (onlyTime_setTime (onlyTime_noteOffset (onlyTime_atNs (onlyTime_refl s _) ns) (by simp) off) _) (by simp) (by simp)
    _ _

end

/-! ## PTP ports (R56, R59) -/

section
variable {port : Fin 8} {sub : Fin 4}

/-- A LOCKED device announces its master's clockClass (R56). -/
theorem State.clockClass_locked {m : Announce} (h : s.servo = 2) (hm : s.parent = some m) : s.clockClass = m.clockClass.toNat := by
  have hl : s.servo = locked := h
  rw [State.clockClass, if_pos hl, hm]

/-- A master port that carries frames sends while TC runs. -/
theorem masterPort_sends (hp : s.procUp tc = true) (hu : s.fhUp port sub = true) (hm : s.isSlave port sub = false) :
    (s.procUp tc && s.fhUp port sub && !s.isSlave port sub) = true := by
  rw [hp, hu, hm]
  rfl

theorem exec_ptpMasterTx (h : (s.procUp tc && s.fhUp port sub && !s.isSlave port sub) = true) (kind : Fin 16) :
    exec (.ptpMasterTx port sub kind) s = .next (s.ptpOut port sub kind) := congrArg Host.Outcome.next (if_pos h)

theorem exec_ptpMasterTx_slave (h : s.isSlave port sub = true) (kind : Fin 16) : exec (.ptpMasterTx port sub kind) s = .next s :=
  congrArg Host.Outcome.next (if_neg (by simp [h]))

/-- A request that has an answer gets it, unless it is unicast negotiation under profile G.8275.1. -/
theorem exec_ptpRequestReceived (h : (s.procUp tc && s.fhUp port sub && !s.isSlave port sub) = true) {kind : Fin 16} {a : Nat}
    (ha : ptpAnswer kind = some a) : exec (.ptpRequestReceived port sub kind) s =
      .next (if kind.val = 12 ∧ s.rd F.TIME_PORT.profile = 0 then s else s.ptpOut port sub a) := by
  refine congrArg Host.Outcome.next ((if_pos h).trans ?_)
  rw [ha]

end

/-! ## SyncE and the 1PPS output (R61, R63) -/

/-- `synce_ok` follows the validity of the recovered clock, the enable bit and the source. -/
theorem State.showSynce_shows (s : State) :
    s.showSynce.rd F.TIME_STAT.synce_ok = b2n (s.time.synceValid && s.on F.TIME_CTRL.synce_en && s.srcSel == 0) :=
  (s.rd_put_same _ _ _).trans (b2n_mod_two _)

theorem onlyTime_evalSynce (h : OnlyTime r s l) (hm : (F.TIME_STAT.synce_ok, 0) ∈ l) (v : Bool) : OnlyTime r (s.evalSynce v) l :=
  onlyTime_put (onlyTime_setTime h _) hm _

theorem esmcReceived_effect {port : Fin 8} {sub : Fin 4} (hp : s.procUp tc = true) (hu : s.fhUp port sub = true)
    (hport : s.rd F.TIME_PORT.synce_port = port) (hsub : s.rd F.TIME_PORT.synce_subport = sub) (ql : BitVec 4) :
    ∃ t, exec (.esmcReceived port sub ql) s = .next t ∧ t.time.synceQl = ql.toNat ∧ t.time.synceValid = Config.esmcAccepts ql.toNat ∧
      t.rd F.TIME_STAT.synce_ok = b2n (Config.esmcAccepts ql.toNat && s.on F.TIME_CTRL.synce_en && s.srcSel == 0) ∧
      OnlyTime s t [(F.TIME_STAT.synce_ok, 0)] := by
  have hon : (s.procUp tc && s.fhUp port sub && port.val == s.rd F.TIME_PORT.synce_port &&
      sub.val == s.rd F.TIME_PORT.synce_subport) = true := by simp [hp, hu, hport, hsub]
  exact ⟨_, congrArg Host.Outcome.next (if_pos hon), rfl, rfl, State.showSynce_shows _,
    onlyTime_evalSynce (onlyTime_setTime (onlyTime_refl s _) _) (by simp) _⟩

theorem synceLoss_effect (s : State) :
    ∃ t, exec .synceLoss s = .next t ∧ t.time = { s.time with synceValid := false } ∧ t.rd F.TIME_STAT.synce_ok = 0 ∧
      OnlyTime s t [(F.TIME_STAT.synce_ok, 0)] :=
  ⟨_, rfl, rfl, State.showSynce_shows _, onlyTime_evalSynce (onlyTime_refl s _) (by simp) _⟩

/-- The subports that send the device's own quality level: those that carry frames, but for the SyncE port. -/
def State.sendsEsmc (s : State) (k : Nat) : Bool :=
  s.fhUp (k / 4) (k % 4) && !(k / 4 == s.rd F.TIME_PORT.synce_port && k % 4 == s.rd F.TIME_PORT.synce_subport)

/-- Frames of one kind that leave the device one after another, the last one first. -/
theorem State.foldl_emit (s : State) (l : List Nat) (f : Nat → Nat → Out) :
    l.foldl (fun s k => s.emit (f s.servo k)) s = s.withOut ((l.map (f s.servo)).reverse ++ s.out) := by
  induction l generalizing s with
  | nil => rfl
  | cons k l ih =>
    rw [List.foldl_cons, ih, List.map_cons, List.reverse_cons, List.append_assoc]
    rfl

theorem exec_esmcTx (hp : s.procUp tc = true) : exec .esmcTx s = .next (s.withOut
    ((((span 0 32).filter s.sendsEsmc).map fun k => Out.esmc (k / 4) (k % 4) (Config.esmcOwn s.servo % 16)).reverse ++ s.out)) := by
  refine congrArg Host.Outcome.next ((if_pos hp).trans ?_)
  exact s.foldl_emit _ fun v k => .esmc (k / 4) (k % 4) (Config.esmcOwn v % 16)

/-- The frames of ESMC_TX: one on each subport that sends its own quality level. -/
theorem mem_esmcFrames (s : State) (x : Fin 8) (y : Fin 4) (q v : Nat) :
    Out.esmc x y q ∈ (((span 0 32).filter s.sendsEsmc).map fun k => Out.esmc (k / 4) (k % 4) v).reverse ↔
      s.fhUp x y = true ∧ ¬(x.val = s.rd F.TIME_PORT.synce_port ∧ y.val = s.rd F.TIME_PORT.synce_subport) ∧ q = v := by
  have hdiv : (4 * x.val + y.val) / 4 = x ∧ (4 * x.val + y.val) % 4 = y := by omega
  have hsends : s.sendsEsmc (4 * x.val + y.val) = true ↔
      s.fhUp x y = true ∧ ¬(x.val = s.rd F.TIME_PORT.synce_port ∧ y.val = s.rd F.TIME_PORT.synce_subport) := by
    rw [State.sendsEsmc, hdiv.1, hdiv.2]
    simp [imp_iff_not_or]
  rw [← and_assoc, ← hsends]
  simp only [List.mem_reverse, List.mem_map, List.mem_filter, mem_span, Out.esmc.injEq]
  constructor
  · rintro ⟨k, ⟨-, hk⟩, hx, hy, rfl⟩
    have hkxy : k = 4 * x.val + y.val := by omega
    exact ⟨hkxy ▸ hk, rfl⟩
  · rintro ⟨hk, rfl⟩
    exact ⟨4 * x.val + y.val, ⟨by omega, hk⟩, hdiv.1, hdiv.2, rfl⟩

theorem esmcTx_effect (hp : s.procUp tc = true) :
    ∃ t, exec .esmcTx s = .next t ∧ t = s.withOut t.out ∧
      ∀ (x : Fin 8) (y : Fin 4) (q : Nat), Out.esmc x y q ∈ t.out ↔ Out.esmc x y q ∈ s.out ∨
        (s.fhUp x y = true ∧ ¬(x.val = s.rd F.TIME_PORT.synce_port ∧ y.val = s.rd F.TIME_PORT.synce_subport) ∧
          q = Config.esmcOwn s.servo % 16) := by
  refine ⟨_, exec_esmcTx hp, rfl, fun x y q => ?_⟩
  rw [State.withOut_out, List.mem_append, mem_esmcFrames, or_comm]

theorem ppsOutPulse_sends (hns : s.time.ns = 0) (hen : s.rd F.TIME_CTRL.pps_out_en = 1)
    (hd : s.servo ≠ 0 ∨ s.rd F.TIME_CTRL.pps_out_force = 1) :
    exec .ppsOutPulse s = .next (s.emit (.pps s.time.sec (s.rd F.TIME_PPS_OUT.width_ns) (s.on F.TIME_CTRL.clk10m_out_en))) := by
  have hdriven : s.ppsDriven = true := by
    rcases hd with h | h <;> simp [State.ppsDriven, State.on, freerun, h]
  have hmhz : s.tenMHz = s.on F.TIME_CTRL.clk10m_out_en := by rw [State.tenMHz, hdriven, Bool.true_and]
  rw [← hmhz]
  exact congrArg Host.Outcome.next (if_pos ⟨hns, hdriven, s.on_eq_true_of_rd hen⟩)

theorem ppsOutPulse_undriven (h : s.servo = 0) (hf : s.rd F.TIME_CTRL.pps_out_force = 0) : exec .ppsOutPulse s = .next s := by
  have hdriven : s.ppsDriven = false := by simp [State.ppsDriven, State.on, freerun, h, hf]
  exact congrArg Host.Outcome.next (if_neg fun hc => by simp [hdriven] at hc)

end Sys2Proof.Machine

open Sys2Proof Sys2Proof.Machine Sys2Proof.Safety in
/-- Settles O15: a measurement by the state of the servo that it finds, then the ports one command at a time. -/
theorem measurementsAndTimePorts : Obligations.MeasurementsAndTimePorts := by
  unfold Obligations.MeasurementsAndTimePorts
  refine ⟨fun s m port sub domain off freq ns hs hin hm => ?_, fun s port sub kind ql hp => ?_⟩
  · exact ⟨fun src hsrc => exec_syncReceived_other hm hsrc _ off freq ns, fun h => syncReceived_starts hs hin hm off freq ns h,
      fun h hpend hl hc => syncReceived_steps hs hin hm off freq ns h hpend hl hc,
      fun h hpend hl hc => syncReceived_refused hs hin hm off freq ns h hpend hl hc,
      fun h hpend hl => syncReceived_runs hs hin hm off freq ns h hpend hl,
      fun h hst hj => syncReceived_jump hs hin hm off freq ns h hst hj,
      fun h hst hj hf => syncReceived_steers hs hin hm off freq ns h hst hj hf⟩
  · refine ⟨fun h m hm => State.clockClass_locked h hm, fun hu hm => ?_, fun h => exec_ptpMasterTx_slave h kind,
      fun hu hport hsub => esmcReceived_effect hp hu hport hsub ql, synceLoss_effect s, esmcTx_effect hp, ppsOutPulse_sends,
      ppsOutPulse_undriven⟩
    have hsend := masterPort_sends hp hu hm
    refine ⟨exec_ptpMasterTx hsend kind, exec_ptpRequestReceived hsend (a := 9) rfl, exec_ptpRequestReceived hsend (a := 3) rfl,
      fun hprof => ?_, fun hprof => ?_⟩
    · rw [exec_ptpRequestReceived hsend (a := 12) rfl, if_neg fun h => hprof h.2]
      rfl
    · rw [exec_ptpRequestReceived hsend (a := 12) rfl, if_pos ⟨rfl, hprof⟩]

/-! SUPPORT. Work that stops writes no register of the TIME block (R67, R88): the registers below the TICK block, kept by each operation. -/

namespace Sys2Proof.Machine

open Sys2Proof.Safety

/-- What the fields of a register map below the TICK block read: those of the TIME block, and of the HOST block before it. -/
def timeRegs (m : KMap Nat) (g : Field) (j : Nat) : Nat := if g.key j < 8 * 0x200000 then g.get m j else 0

theorem rd_of_timeRegs {s t : State} (h : timeRegs t.regs = timeRegs s.regs) {g : Field} {j : Nat} (hg : g.key j < 8 * 0x200000) :
    t.rd g j = s.rd g j := by
  have hgj := congrFun (congrFun h g) j
  simp only [timeRegs, if_pos hg] at hgj
  exact hgj

theorem timeRegs_of_rd {s t : State} (h : ∀ g j, t.rd g j = s.rd g j) : timeRegs t.regs = timeRegs s.regs := by
  funext g j
  simp only [timeRegs]
  exact congrArg (fun v => if g.key j < 8 * 0x200000 then v else 0) (h g j)

/-- What keeps every register that one asks for keeps them all. -/
theorem timeRegs_of_unitsKept {s t : State} (h : ∀ l, UnitsKept l s t) : timeRegs t.regs = timeRegs s.regs :=
  timeRegs_of_rd fun g j => (h [g]).2 g (by simp) j

variable (s : State)

@[simp] theorem timeRegs_put {f : Field} (hf : 0x200000 ≤ f.base) (v i : Nat) : timeRegs (s.put f v i).regs = timeRegs s.regs := by
  funext g j
  simp only [timeRegs]
  split
  case isTrue h =>
    refine s.rd_put_ne fun e => ?_
    simp only [Field.key] at h e
    omega
  case isFalse => rfl

@[simp] theorem timeRegs_bump {f : Field} (hf : 0x200000 ≤ f.base) (i k : Nat) : timeRegs (s.bump f i k).regs = timeRegs s.regs :=
  timeRegs_put s hf _ i

@[simp] theorem timeRegs_orf {f : Field} (hf : 0x200000 ≤ f.base) (m i : Nat) : timeRegs (s.orf f m i).regs = timeRegs s.regs :=
  timeRegs_put s hf _ i

@[simp] theorem timeRegs_ite {c : Prop} [Decidable c] (s t : State) :
    timeRegs (if c then s else t).regs = if c then timeRegs s.regs else timeRegs t.regs := apply_ite (fun u : State => timeRegs u.regs) c s t

@[simp] theorem timeRegs_foldl {α : Type} {g : State → α → State} (hg : ∀ b a, timeRegs (g b a).regs = timeRegs b.regs) (l : List α)
    (s : State) : timeRegs (l.foldl g s).regs = timeRegs s.regs :=
  List.foldlRecOn (motive := fun t : State => timeRegs t.regs = timeRegs s.regs) l g rfl fun b hb a _ => (hg b a).trans hb

/-! ## Parts, items and events -/

@[simp] theorem timeRegs_store (a : Nat) (bs : List Byte) (k : Nat) : timeRegs (s.store a bs k).regs = timeRegs s.regs :=
  timeRegs_of_unitsKept fun l => (UnitsKept.refl l s).store a bs k

@[simp] theorem timeRegs_charge (rows : List (Nat × Nat)) (first : Nat) (ks : List Nat) (q : Nat) :
    timeRegs (s.charge rows first ks q).regs = timeRegs s.regs :=
  timeRegs_of_unitsKept fun l => (UnitsKept.refl l s).charge rows first ks q

@[simp] theorem timeRegs_requeue (p i cyc : Nat) (sameTick : Bool) : timeRegs (s.requeue p i cyc sameTick).regs = timeRegs s.regs :=
  timeRegs_of_unitsKept fun l => (UnitsKept.refl l s).requeue p i cyc sameTick

@[simp] theorem State.setPart_regs (p : Nat) (x : Part) : (s.setPart p x).regs = s.regs := rfl
@[simp] theorem State.setCore_regs (n : Nat) (x : Core) : (s.setCore n x).regs = s.regs := rfl
@[simp] theorem State.setSpur_regs (n : Nat) (x : SpurCore) : (s.setSpur n x).regs = s.regs := rfl
@[simp] theorem State.setSeq_regs (i : Nat) (q : Seq) : (s.setSeq i q).regs = s.regs := rfl
@[simp] theorem State.setFrame_regs (f : Nat) (x : Frame) : (s.setFrame f x).regs = s.regs := rfl
@[simp] theorem State.setFreeList_regs (p c : Nat) (l : List Nat) : (s.setFreeList p c l).regs = s.regs := rfl
@[simp] theorem State.endRec_regs (p lane tag status : Nat) : (s.endRec p lane tag status).regs = s.regs := rfl
@[simp] theorem State.modItem_regs (p i : Nat) (f : WlItem → WlItem) : (s.modItem p i f).regs = s.regs := rfl
@[simp] theorem State.settle_regs (p pass : Nat) : (s.settle p pass).regs = s.regs := rfl
@[simp] theorem State.missed_regs (p desc : Nat) : (s.missed p desc).regs = s.regs := rfl
@[simp] theorem State.count_regs (sl k n : Nat) : (s.count sl k n).regs = s.regs := rfl
@[simp] theorem State.dbgEvent_regs (tgt reason pc : Nat) : (s.dbgEvent tgt reason pc).regs = s.regs := rfl
@[simp] theorem State.newColumn_regs (p : Nat) (es : List ColSlot) : (s.newColumn p es).regs = s.regs := rfl

@[simp] theorem timeRegs_event (cls sev k data src : Nat) : timeRegs (s.event cls sev k data src).regs = timeRegs s.regs := by
  have hlog : ∀ x ∈ eventFields, 0x200000 ≤ x.1.base := by decide
  funext g j
  simp only [timeRegs]
  split
  case isTrue h =>
    refine (event_only s cls sev k data src).2 g j fun x hx e => ?_
    have := hlog x hx
    simp only [Field.key] at h e
    omega
  case isFalse => rfl

/-! ## Tiles -/

@[simp] theorem timeRegs_retireTile (t : Tile) (bank : KMap Nat) : timeRegs (s.retireTile t bank).regs = timeRegs s.regs := by
  simp [State.retireTile, State.storeRow, State.sramWr]

@[simp] theorem timeRegs_tileOver (n tag last : Nat) : timeRegs (s.tileOver n tag last).regs = timeRegs s.regs := by
  simp (disch := decide) [State.tileOver]

@[simp] theorem timeRegs_addOps (n act gated : Nat) : timeRegs (s.addOps n act gated).regs = timeRegs s.regs := by
  simp (disch := decide) [State.addOps]

@[simp] theorem timeRegs_tileDone (n : Nat) (r : RunningTile) (cycles : Nat) : timeRegs (s.tileDone n r cycles).regs = timeRegs s.regs := by
  simp (disch := decide) [State.tileDone]

@[simp] theorem timeRegs_abortTile (p i cyc : Nat) (why : AbortPoint) : timeRegs (s.abortTile p i cyc why).regs = timeRegs s.regs := by
  unfold State.abortTile
  split
  · rfl
  · split
    · simp (disch := decide)
    · rfl

@[simp] theorem timeRegs_finishTile (p i cyc : Nat) : timeRegs (s.finishTile p i cyc).regs = timeRegs s.regs := by
  unfold State.finishTile
  split
  · rfl
  · split
    · simp
    · rfl

@[simp] theorem timeRegs_interruptTile (p i cyc : Nat) (why : AbortPoint) :
    timeRegs (s.interruptTile p i cyc why).regs = timeRegs s.regs := by
  unfold State.interruptTile
  split
  · rfl
  · split <;> simp

/-! ## Threads -/

theorem tsField_base (k : Nat) : 0x200000 ≤ (tsField k).base := by
  unfold tsField
  split <;> decide

@[simp] theorem timeRegs_setThread (th : Nat) (x : Thread) : timeRegs (s.setThread th x).regs = timeRegs s.regs :=
  timeRegs_put s (tsField_base _) _ _

@[simp] theorem timeRegs_showBusy (n : Nat) : timeRegs (s.showBusy n).regs = timeRegs s.regs := timeRegs_put s (by decide) _ _

@[simp] theorem timeRegs_clearJob (n key mask : Nat) : timeRegs (s.clearJob n key mask).regs = timeRegs s.regs := by
  simp [State.clearJob]

@[simp] theorem timeRegs_katThreads (n mask : Nat) (st : TState) : timeRegs (s.katThreads n mask st).regs = timeRegs s.regs := by
  simp [State.katThreads]

@[simp] theorem timeRegs_meter (th a n : Nat) : timeRegs (s.meter th a n).regs = timeRegs s.regs := by
  unfold State.meter
  split
  · simp
  · rfl

@[simp] theorem timeRegs_postStore (th : Nat) (p : Posted) : timeRegs (s.postStore th p).regs = timeRegs s.regs := by
  simp [State.postStore]

@[simp] theorem timeRegs_drainStores (th : Nat) : timeRegs (s.drainStores th).regs = timeRegs s.regs := by
  simp [State.drainStores]

@[simp] theorem timeRegs_writeLine (th : Nat) (l : CacheLine) : timeRegs (s.writeLine th l).regs = timeRegs s.regs := by
  simp [State.writeLine]

@[simp] theorem timeRegs_rdRecord (a n k : Nat) : timeRegs (s.rdRecord a n k).regs = timeRegs s.regs := by
  simp [State.rdRecord, F.MEM_CH_ERR.tag_cnt]

@[simp] theorem timeRegs_noteAbsorb (a status : Nat) : timeRegs (s.noteAbsorb a status).regs = timeRegs s.regs := by
  unfold State.noteAbsorb
  split
  · simp (disch := decide)
  · rfl

@[simp] theorem timeRegs_atomicAt (a n key op : Nat) (sgn : Bool) (opnd cmp : Nat) :
    timeRegs (s.atomicAt a n key op sgn opnd cmp).1.regs = timeRegs s.regs := by
  unfold State.atomicAt
  split <;> simp

@[simp] theorem timeRegs_perform1 (op a len value newv key : Nat) (sgn dev : Bool) (data : List Byte) :
    timeRegs (s.perform1 op a len value newv key sgn dev data).1.regs = timeRegs s.regs := by
  unfold State.perform1
  split
  · split
    · rfl
    · dsimp only
      split <;> rfl
  · dsimp only
    split
    · simp
    · split <;> simp

@[simp] theorem timeRegs_endReq (q : FabReq) : timeRegs (s.endReq q).regs = timeRegs s.regs := by
  simp [State.endReq, State.wakeFab, State.countReqs, F.FAB_OUTST.outst, F.FAB_OUTST.outst_peak]

@[simp] theorem timeRegs_finishParked (th : Nat) : timeRegs (s.finishParked th).regs = timeRegs s.regs := by
  unfold State.finishParked
  dsimp only
  split
  · simp
  · rfl
  · split
    · split
      · simp
      · rfl
    · rfl
  · rfl
  · simp
  · rfl

/-! ## Sequences of an item that fails -/

@[simp] theorem State.modSeq_regs (i : Nat) (f : Seq → Seq) : (s.modSeq i f).regs = s.regs := by
  unfold State.modSeq
  split <;> rfl

@[simp] theorem State.settleNode_regs (n : Nat) (head : Bool) : (s.settleNode n head).regs = s.regs := by
  unfold State.settleNode
  split
  · rfl
  · dsimp only
    split <;> rfl

@[simp] theorem State.useNode_regs (n : Nat) (up : Bool) : (s.useNode n up).regs = s.regs := by
  unfold State.useNode
  split
  · rfl
  · exact State.settleNode_regs _ _ _

@[simp] theorem State.unpin_regs (q : Seq) : (s.unpin q).regs = s.regs := by
  unfold State.unpin
  split
  · split <;> rfl
  · rfl

@[simp] theorem timeRegs_takeFree (p : Nat) (n c : Int) : timeRegs (s.takeFree p n c).regs = timeRegs s.regs := by
  simp (disch := decide) [State.takeFree]

@[simp] theorem timeRegs_freeFrame (f : Nat) : timeRegs (s.freeFrame f).regs = timeRegs s.regs := by
  unfold State.freeFrame
  extract_lets x u v
  have hu : timeRegs u.regs = timeRegs s.regs := by simp (disch := decide) [u]
  split
  · exact hu
  · split
    · exact hu
    · dsimp only
      split <;> simp [v, hu]

@[simp] theorem timeRegs_decRef (e : PageEnt) : timeRegs (s.decRef e).regs = timeRegs s.regs := by
  simp [State.decRef]

@[simp] theorem timeRegs_freeTransit (i : Nat) : timeRegs (s.freeTransit i).regs = timeRegs s.regs := by
  unfold State.freeTransit
  split
  · rfl
  · simp

@[simp] theorem timeRegs_releasePages (i : Nat) : timeRegs (s.releasePages i).regs = timeRegs s.regs := by
  unfold State.releasePages
  split
  · rfl
  · dsimp only
    split <;> simp

@[simp] theorem timeRegs_freeEntry (i : Nat) : timeRegs (s.freeEntry i).regs = timeRegs s.regs := by
  unfold State.freeEntry
  split
  · rfl
  · simp (disch := decide)

@[simp] theorem timeRegs_dropPass (pass : Nat) : timeRegs (s.dropPass pass).regs = timeRegs s.regs := by
  have hseq : ∀ (u : State) (i : Nat), timeRegs (match u.seq? i with
      | some q => if q.branch ≠ 0 then u.freeEntry i else u.setSeq i { q with stage := 0 }
      | none => u).regs = timeRegs u.regs := fun u i => by
    split <;> simp
  unfold State.dropPass
  split
  · rfl
  · exact (timeRegs_foldl (hseq) _ _).trans (by simp)

@[simp] theorem timeRegs_failItem (p i cause status : Nat) : timeRegs (s.failItem p i cause status).regs = timeRegs s.regs := by
  unfold State.failItem
  split
  · rfl
  · simp [State.askFreeze]

/-! ## Jobs, and the work of a partition -/

@[simp] theorem timeRegs_abortJob (n key cyc : Nat) (why : AbortPoint) : timeRegs (s.abortJob n key cyc why).regs = timeRegs s.regs := by
  unfold State.abortJob
  split
  · rfl
  · split
    · rfl
    · extract_lets ths q free u v w x
      have hv : timeRegs v.regs = timeRegs s.regs := by simp (disch := decide) [v, u]
      have hw : timeRegs w.regs = timeRegs s.regs := (timeRegs_foldl (fun b th => by simp) ths v).trans hv
      have hx : timeRegs x.regs = timeRegs s.regs := (timeRegs_foldl (fun b th => by simp) _ w).trans hw
      simp [State.jobRec, hx]

@[simp] theorem timeRegs_jobEnd (n t : Nat) : timeRegs (s.jobEnd n t).regs = timeRegs s.regs := by
  unfold State.jobEnd
  extract_lets key
  split
  · rfl
  · split
    · rfl
    · extract_lets ths q fault free u v w
      have hw : timeRegs w.regs = timeRegs s.regs := by
        simp [w, v, u, State.jobRec, F.SPR_CYC.open_thr_cyc, F.SPR_RCYC.radio_thr_cyc]
      split
      · split
        · split
          · simp [hw]
          · exact hw
        · exact hw
      · split
        · simp [hw]
        · split
          · simp [hw]
          · exact hw

@[simp] theorem timeRegs_stopWork (p cyc : Nat) (why : AbortPoint) : timeRegs (s.stopWork p cyc why).regs = timeRegs s.regs := by
  simp [State.stopWork]

/-- A step that ends the tick leaves the registers of the TIME block (R67). -/
theorem timeRegs_cutTick : timeRegs s.cutTick.regs = timeRegs s.regs := by
  simp [State.cutTick]

end Sys2Proof.Machine

/-! SUPPORT. The step of device time (R48, R52, R66, R67): the tick is cut, the clock moves, the servo locks, the ticks that were jumped
are counted, and the timers that became due fire. -/

namespace Sys2Proof.Machine

open Sys2Proof.Safety

variable (s : State)

/-! ## The stages of a step -/

/-- The work of the tick that ends has stopped, where one runs. -/
def State.workCut : State := if s.time.edges then s.cutTick else s

/-- The clock shows `n` ns, `d` ns from where it was, and no step waits. -/
def State.moveClock (n : Nat) (d : Int) : State :=
  let u := (s.shiftTimers d).setNowNs n
  u.setTime { u.time with pending := none, locked := false, lockRun := [], todWritten := false }

def State.movedBy (d : Int) : State := s.workCut.moveClock ((s.nowNs : Int) + d).toNat d

/-- The step has been taken: the servo locks. -/
def State.stepLocked : State := (s.put F.TIME_STAT.stepped 1).enterLocked

/-- The servo after a step: LOCKED, or HOLDOVER while that is forced (R54). -/
def State.lockStepped : State := if s.stepLocked.on F.TIME_CTRL.force_holdover then s.stepLocked.enterHoldover else s.stepLocked

/-- Tick numbers between `a` and the present one were skipped (R67). -/
def State.countSkipped (a : Int) : State :=
  if s.time.edges ∧ a + 1 < s.tickNow + 1 then
    s.put F.TIME_FRAME.skipped_ticks (satAdd 32 (s.rd F.TIME_FRAME.skipped_ticks) (s.tickNow + 1 - a - 1).toNat)
  else s

/-- Tick edges run from the next boundary on. -/
def State.restartTick : State := s.setTime { s.time with edges := true, lockWaitOver := true, tick := s.tickNow, cut := true }

theorem State.stepTime_eq (d : Int) :
    s.stepTime d = (((s.movedBy d).lockStepped.countSkipped s.time.tick).restartTick).fireStepped := by rfl

/-! ## The clock -/

theorem State.clock_cutTick : s.cutTick.clock = s.clock := by simp [State.cutTick]

theorem State.clock_fireStepped : s.fireStepped.clock = s.clock := by simp [State.fireStepped]

theorem State.shiftTimers_regs (d : Int) : (s.shiftTimers d).regs = s.regs := by simp [State.shiftTimers]

/-- Of device time itself, the instant of the last 1PPS edge moves along (R52). -/
theorem State.shiftTimers_time (d : Int) : ∃ pps, (s.shiftTimers d).time = { s.time with ppsLast := pps } :=
  ⟨s.time.ppsLast.map fun t : Nat => ((t : Int) + d).toNat, by simp [State.shiftTimers]⟩

theorem State.moveClock_regs (n : Nat) (d : Int) : (s.moveClock n d).regs = s.regs := s.shiftTimers_regs d

theorem State.moveClock_time (n : Nat) (d : Int) : ∃ pps, (s.moveClock n d).time = { s.time with
    sec := n / 1000000000 % 2 ^ 48, ns := n % 1000000000, frac := 0, rem := 0, pending := none, locked := false, lockRun := []
    todWritten := false, ppsLast := pps } := by
  obtain ⟨pps, ht⟩ := s.shiftTimers_time d
  have hset : (s.moveClock n d).time = { (s.shiftTimers d).time with
      sec := n / 1000000000 % 2 ^ 48, ns := n % 1000000000, frac := 0, rem := 0, pending := none, locked := false, lockRun := []
      todWritten := false } := by rfl
  rw [hset, ht]
  exact ⟨pps, rfl⟩

theorem State.clock_workCut : s.workCut.clock = s.clock := by simp [State.workCut, State.clock_cutTick]

/-- Of device time a step writes the count and what waited for the step; the rest is as it was, but for timers and instants kept for
elapsed time. -/
theorem State.time_movedBy (d : Int) : ∃ armed pps, (s.movedBy d).time = { s.time with
    sec := ((s.nowNs : Int) + d).toNat / 1000000000 % 2 ^ 48, ns := ((s.nowNs : Int) + d).toNat % 1000000000, frac := 0, rem := 0
    pending := none, locked := false, lockRun := [], todWritten := false, armed := armed, ppsLast := pps } := by
  obtain ⟨pps, ht⟩ := s.workCut.moveClock_time ((s.nowNs : Int) + d).toNat d
  rw [State.eq_of_clock s.clock_workCut] at ht
  exact ⟨_, pps, ht⟩

/-- What a change of the servo's state leaves of device time. -/
structure CountKept (t c : TimeState) : Prop where
  sec : t.sec = c.sec
  ns : t.ns = c.ns
  frac : t.frac = c.frac
  edges : t.edges = c.edges
  todWritten : t.todWritten = c.todWritten
  pending : t.pending = c.pending

theorem State.enterLocked_state : s.enterLocked.servo = 2 := State.rd_put_same s F.TIME_STAT.state 2 0

theorem State.time_lockStepped (hp : s.time.pending = none) : CountKept s.lockStepped.time s.time := by
  unfold State.lockStepped
  split
  · have hne : s.stepLocked.servo ≠ 3 := by
      rw [State.stepLocked, State.enterLocked_state]
      decide
    rw [State.enterHoldover_time hne]
    exact ⟨rfl, rfl, rfl, rfl, rfl, hp.symm⟩
  · exact ⟨rfl, rfl, rfl, rfl, rfl, rfl⟩

theorem State.time_countSkipped (a : Int) : (s.countSkipped a).time = s.time := by
  unfold State.countSkipped
  split <;> rfl

/-! ## The registers -/

theorem State.timeRegs_movedBy (d : Int) : timeRegs (s.movedBy d).regs = timeRegs s.regs := by
  rw [State.movedBy, State.moveClock_regs, State.workCut]
  simp [timeRegs_cutTick]

theorem State.rd_movedBy (d : Int) {g : Field} (hg : g.key 0 < 8 * 0x200000) : (s.movedBy d).rd g = s.rd g :=
  rd_of_timeRegs (s.timeRegs_movedBy d) hg

theorem State.rd_enterLocked {g : Field} (h : g.apart F.TIME_STAT.state = true) (j : Nat) : s.enterLocked.rd g j = s.rd g j :=
  s.rd_put_apart h locked 0 j

theorem State.rd_stepLocked {g : Field} (h1 : g.apart F.TIME_STAT.stepped = true) (h2 : g.apart F.TIME_STAT.state = true) (j : Nat) :
    s.stepLocked.rd g j = s.rd g j := (State.rd_enterLocked _ h2 j).trans (s.rd_put_apart h1 1 0 j)

/-- LOCKED after a step writes the servo's fields alone. -/
theorem State.rd_lockStepped {g : Field} (h1 : g.apart F.TIME_STAT.stepped = true) (h2 : g.apart F.TIME_STAT.state = true)
    (h3 : g.apart F.TIME_OFFSET.rate = true) (j : Nat) : s.lockStepped.rd g j = s.rd g j := by
  unfold State.lockStepped
  split
  · exact (State.rd_enterHoldover _ h2 h3 j).trans (s.rd_stepLocked h1 h2 j)
  · exact s.rd_stepLocked h1 h2 j

theorem State.lockStepped_stepped : s.lockStepped.rd F.TIME_STAT.stepped = 1 := by
  have hl : s.stepLocked.rd F.TIME_STAT.stepped = 1 :=
    (State.rd_enterLocked _ (by decide) 0).trans (s.rd_put_same _ _ _)
  unfold State.lockStepped
  split
  · exact (State.rd_enterHoldover _ (by decide) (by decide) 0).trans hl
  · exact hl

theorem State.lockStepped_servo : s.lockStepped.servo = if s.on F.TIME_CTRL.force_holdover then 3 else 2 := by
  have hf : s.stepLocked.on F.TIME_CTRL.force_holdover = s.on F.TIME_CTRL.force_holdover := by
    rw [State.on, State.on, s.rd_stepLocked (by decide) (by decide)]
  unfold State.lockStepped
  rw [hf]
  split
  · exact State.enterHoldover_state _
  · exact State.enterLocked_state _

theorem State.rd_countSkipped (a : Int) {g : Field} (h : g.apart F.TIME_FRAME.skipped_ticks = true) (j : Nat) :
    (s.countSkipped a).rd g j = s.rd g j := by
  unfold State.countSkipped
  split
  · exact s.rd_put_apart h _ _ _
  · rfl

theorem State.countSkipped_counts {a : Int} (he : s.time.edges = true) (ha : a < s.tickNow) :
    (s.countSkipped a).rd F.TIME_FRAME.skipped_ticks = satAdd 32 (s.rd F.TIME_FRAME.skipped_ticks) (s.tickNow - a).toNat := by
  have hlt : satAdd 32 (s.rd F.TIME_FRAME.skipped_ticks) (s.tickNow - a).toNat < 2 ^ 32 := by
    simp only [satAdd]
    omega
  have hn : s.tickNow + 1 - a - 1 = s.tickNow - a := by omega
  rw [State.countSkipped, if_pos ⟨he, by omega⟩, hn, s.rd_put_same]
  exact Nat.mod_eq_of_lt hlt

/-- Timers that fire show in `fired`, and in `cmp_stepped` after a step. -/
theorem State.rd_fireStepped {g : Field} (h1 : g.apart F.TIME_CMP_CTRL.fired = true) (h2 : g.apart F.TIME_STAT.cmp_stepped = true)
    (j : Nat) : s.fireStepped.rd g j = s.rd g j := by
  have hall : s.fireAll.rd g j = s.rd g j := by
    refine List.foldlRecOn (motive := fun t : State => t.rd g j = s.rd g j) _ _ rfl fun t ht n hn => ?_
    have hlt : n < 16 := by
      have := (mem_span.1 (List.mem_filter.1 hn).1).2
      omega
    rw [t.fireTimer_eq hlt]
    exact (State.rd_put_apart _ h1 _ _ _).trans ht
  unfold State.fireStepped
  split
  · exact (State.rd_put_apart _ h2 _ _ _).trans hall
  · rfl

/-! ## A step as a whole -/

/-- Device time after a step. -/
theorem State.time_stepTime (d : Int) : ∃ c, CountKept c (s.movedBy d).time ∧ ∃ armed, (s.stepTime d).time =
    { c with edges := true, lockWaitOver := true, cut := true, tick := tickOf c.sec c.ns, armed := armed } := by
  let u := (s.movedBy d).lockStepped.countSkipped s.time.tick
  have hpend : (s.movedBy d).time.pending = none := rfl
  have hu : CountKept u.time (s.movedBy d).time := by
    rw [State.time_countSkipped]
    exact State.time_lockStepped _ hpend
  have hclock : (s.stepTime d).clock = u.restartTick.clock := by rw [State.stepTime_eq, State.clock_fireStepped]
  exact ⟨u.time, hu, (s.stepTime d).time.armed, State.eq_of_clock hclock⟩

/-- A register of the TIME block after a step, before the timers fire. -/
theorem State.rd_stepTime (d : Int) {g : Field} (h1 : g.apart F.TIME_CMP_CTRL.fired = true) (h2 : g.apart F.TIME_STAT.cmp_stepped = true) :
    (s.stepTime d).rd g = ((s.movedBy d).lockStepped.countSkipped s.time.tick).rd g := by
  rw [State.stepTime_eq]
  exact State.rd_fireStepped _ h1 h2 0

end Sys2Proof.Machine

/-! SUPPORT. TIME_STEP and LOCK_WAIT_EXPIRY (R52, R53, R66, R67). -/

namespace Sys2Proof.Machine

open Sys2Proof.Safety

variable {s : State}

theorem exec_timeStep {d : Int} (h : s.time.pending = some d) : exec .timeStep s = .next (
    if s.cellActive then s.clearLock.put F.TIME_STAT.step_refused 1
    else if s.time.edges && !s.inCol then s
    else s.stepTime d) := by
  show execTimeStep s = _
  rw [execTimeStep, h]

/-- With a cell active no step is taken: lock detection begins again (R52). -/
theorem timeStep_refused {d : Int} (h : s.time.pending = some d) (hc : s.cellActive = true) :
    ∃ t, exec .timeStep s = .next t ∧ t.rd F.TIME_STAT.step_refused = 1 ∧
      t.time = { s.time with lockRun := [], locked := false, pending := none } ∧ OnlyTime s t [(F.TIME_STAT.step_refused, 0)] := by
  refine ⟨_, (exec_timeStep h).trans (congrArg _ (if_pos hc)), State.rd_put_same _ _ _ _, rfl, ?_⟩
  exact onlyTime_put (onlyTime_clearLock (onlyTime_refl s _)) (by simp) _

/-- Once edges run, a step waits for a Col window (R67). -/
theorem timeStep_waits {d : Int} (h : s.time.pending = some d) (hc : s.cellActive = false) (he : s.time.edges = true)
    (hcol : s.inCol = false) : exec .timeStep s = .next s := by
  rw [exec_timeStep h, hc, he, hcol]
  rfl

theorem exec_timeStep_steps {d : Int} (h : s.time.pending = some d) (hc : s.cellActive = false)
    (he : s.time.edges = false ∨ s.inCol = true) : exec .timeStep s = .next (s.stepTime d) := by
  have hnow : (s.time.edges && !s.inCol) = false := by rcases he with h | h <;> simp [h]
  rw [exec_timeStep h, hc, hnow]
  rfl

/-- Seconds and ns of an instant that device time can show give it back. -/
theorem ns_of_parts {n : Nat} (h : n < 2 ^ 48 * 1000000000) : n / 1000000000 % 2 ^ 48 * 1000000000 + n % 1000000000 = n := by
  omega

/-- Device time after a step of `d` ns within its range. -/
theorem State.stepTime_clock (s : State) {d : Int} (h0 : 0 ≤ (s.nowNs : Int) + d) (h1 : (s.nowNs : Int) + d < 2 ^ 48 * 1000000000) :
    ((s.stepTime d).nowNs : Int) = s.nowNs + d ∧ (s.stepTime d).time.frac = 0 ∧ (s.stepTime d).time.edges = true ∧
      (s.stepTime d).time.tick = (s.stepTime d).tickNow ∧ (s.stepTime d).time.pending = none ∧
      (s.stepTime d).time.todWritten = false := by
  obtain ⟨c, hc, armed, ht⟩ := s.time_stepTime d
  obtain ⟨_, _, hm⟩ := s.time_movedBy d
  rw [State.nowNs, State.tickNow, ht]
  refine ⟨?_, ?_, rfl, rfl, ?_, ?_⟩
  · rw [hc.sec, hc.ns, hm, ns_of_parts (by omega)]
    omega
  · rw [hc.frac, hm]
  · rw [hc.pending, hm]
  · rw [hc.todWritten, hm]

/-- What the servo shows after a step. -/
theorem State.stepTime_servo (s : State) (d : Int) : (s.stepTime d).rd F.TIME_STAT.stepped = 1 ∧
    (s.stepTime d).rd F.TIME_STAT.state = if s.on F.TIME_CTRL.force_holdover then 3 else 2 := by
  have hforce : (s.movedBy d).on F.TIME_CTRL.force_holdover = s.on F.TIME_CTRL.force_holdover := by
    rw [State.on, State.on, s.rd_movedBy d (by decide)]
  constructor
  · rw [s.rd_stepTime d (by decide) (by decide), State.rd_countSkipped _ _ (by decide), State.lockStepped_stepped]
  · rw [s.rd_stepTime d (by decide) (by decide), State.rd_countSkipped _ _ (by decide), ← hforce]
    exact State.lockStepped_servo _

/-- Ticks that a step jumps over are counted (R67). -/
theorem State.stepTime_skipped (s : State) {d : Int} (he : s.time.edges = true) (ha : s.time.tick < (s.stepTime d).tickNow) :
    (s.stepTime d).rd F.TIME_FRAME.skipped_ticks =
      satAdd 32 (s.rd F.TIME_FRAME.skipped_ticks) ((s.stepTime d).tickNow - s.time.tick).toNat := by
  let u := (s.movedBy d).lockStepped
  obtain ⟨_, _, hm⟩ := s.time_movedBy d
  have hu : CountKept u.time (s.movedBy d).time := State.time_lockStepped _ (by rw [hm])
  have hnow : (s.stepTime d).tickNow = u.tickNow := by
    obtain ⟨c, hc, armed, ht⟩ := s.time_stepTime d
    rw [State.tickNow, State.tickNow, ht, hu.sec, hu.ns, ← hc.sec, ← hc.ns]
  have hedges : u.time.edges = true := by
    rw [hu.edges, hm]
    exact he
  have hold : u.rd F.TIME_FRAME.skipped_ticks = s.rd F.TIME_FRAME.skipped_ticks :=
    (State.rd_lockStepped _ (by decide) (by decide) (by decide) 0).trans (s.rd_movedBy d (by decide))
  rw [hnow] at ha ⊢
  rw [s.rd_stepTime d (by decide) (by decide), u.countSkipped_counts hedges ha, hold]

theorem timeStep_steps {d : Int} (h : s.time.pending = some d) (hc : s.cellActive = false) (he : s.time.edges = false ∨ s.inCol = true)
    (h0 : 0 ≤ (s.nowNs : Int) + d) (h1 : (s.nowNs : Int) + d < 2 ^ 48 * 1000000000) :
    ∃ t, exec .timeStep s = .next t ∧ (t.nowNs : Int) = s.nowNs + d ∧ t.time.frac = 0 ∧ t.time.edges = true ∧
      t.time.tick = t.tickNow ∧ t.time.pending = none ∧ t.time.todWritten = false ∧ t.rd F.TIME_STAT.stepped = 1 ∧
      (s.rd F.TIME_CTRL.force_holdover = 0 → t.rd F.TIME_STAT.state = 2) ∧
      (s.rd F.TIME_CTRL.force_holdover = 1 → t.rd F.TIME_STAT.state = 3) ∧
      (s.time.edges = true → s.time.tick < t.tickNow →
        t.rd F.TIME_FRAME.skipped_ticks = satAdd 32 (s.rd F.TIME_FRAME.skipped_ticks) (t.tickNow - s.time.tick).toNat) := by
  obtain ⟨hnow, hfrac, hedges, htick, hpend, htod⟩ := s.stepTime_clock h0 h1
  obtain ⟨hstep, hstate⟩ := s.stepTime_servo d
  refine ⟨_, exec_timeStep_steps h hc he, hnow, hfrac, hedges, htick, hpend, htod, hstep, fun hf => ?_, fun hf => ?_,
    s.stepTime_skipped⟩
  · rw [hstate, s.on_eq_false_of_rd hf]
    rfl
  · rw [hstate, s.on_eq_true_of_rd hf]
    rfl

/-! ## The first edge without a step (R66) -/

/-- Tick edges begin at `n` ns though no step has come. -/
def State.startEdges (s : State) (n : Nat) : State :=
  let u := (s.setNowNs n).setTime { (s.setNowNs n).time with lockWaitOver := true, edges := true, cut := true }
  u.setTime { u.time with tick := u.tickNow }

theorem exec_lockWaitExpiry (he : s.time.edges = false) (hw : s.time.lockWaitOver = false) (hs : s.rd F.TIME_STAT.stepped = 0)
    (h4 : 4 ≤ s.rd F.RST_STAT.step) : exec .lockWaitExpiry s = .next (s.startEdges (max s.nowNs
      (s.bring.startNs + s.rd F.RST_STEP_T.t_ms 4 * 1000000 + s.rd F.TIME_HOLD.lock_wait_s * 1000000000))) := by
  have hoff : ¬(s.time.edges || s.time.lockWaitOver || s.on F.TIME_STAT.stepped || decide (s.rd F.RST_STAT.step < 4)) = true := by
    simp [he, hw, s.on_eq_false_of_rd hs, h4]
  exact congrArg Host.Outcome.next (if_neg hoff)

theorem State.startEdges_effect (s : State) {n : Nat} (hn : n < 2 ^ 48 * 1000000000) :
    (s.startEdges n).time.edges = true ∧ (s.startEdges n).time.lockWaitOver = true ∧ (s.startEdges n).time.cut = true ∧
      (s.startEdges n).time.tick = (s.startEdges n).tickNow ∧ (s.startEdges n).nowNs = n ∧
      s.startEdges n = s.withTime (s.startEdges n).time :=
  ⟨rfl, rfl, rfl, rfl, ns_of_parts hn, rfl⟩

theorem lockWaitExpiry_effect (he : s.time.edges = false) (hw : s.time.lockWaitOver = false) (hs : s.rd F.TIME_STAT.stepped = 0)
    (h4 : 4 ≤ s.rd F.RST_STAT.step) {n : Nat} (hmax : max s.nowNs
      (s.bring.startNs + s.rd F.RST_STEP_T.t_ms 4 * 1000000 + s.rd F.TIME_HOLD.lock_wait_s * 1000000000) = n)
    (hn : n < 2 ^ 48 * 1000000000) :
    ∃ t, exec .lockWaitExpiry s = .next t ∧ t.time.edges = true ∧ t.time.lockWaitOver = true ∧ t.time.cut = true ∧
      t.time.tick = t.tickNow ∧ t.nowNs = n ∧ t = s.withTime t.time := by
  have hexec := exec_lockWaitExpiry he hw hs h4
  rw [hmax] at hexec
  exact ⟨_, hexec, s.startEdges_effect hn⟩

end Sys2Proof.Machine

/-! SUPPORT. The tick edge of a device in which nothing waits (R65, R73, R80, R283): each part of the edge finds no work to do. -/

namespace Sys2Proof.Machine

open Sys2Proof.Safety

/-- Nothing waits for a step boundary: no staged write, cell, version, slice, ring, process, thaw or held command, no admission, no
shaper and no armed timer. -/
structure State.Idle (s : State) : Prop where
  staged : s.staged = []
  cells : s.cells = []
  deltas : s.deltas = []
  slices : s.slices = []
  rings : s.rings = []
  procs : s.procs = []
  thaws : s.thaws = []
  heldCmds : s.heldCmds = []
  admEn : s.rd F.SRV_CTRL.adm_en = 0
  rate : ∀ n, n < 4096 → s.rd F.SRV_SHP.rate n = 0
  burst : ∀ n, n < 4096 → s.rd F.SRV_SHP.burst n = 0
  armed : s.time.armed = 0

/-! ## What holds nothing is left as it is -/

theorem State.withCells_self {s : State} {v : KMap Cell} (h : s.cells = v) : s.withCells v = s := by
  subst h
  rfl

theorem State.withSlices_self {s : State} {v : KMap Slice} (h : s.slices = v) : s.withSlices v = s := by
  subst h
  rfl

theorem State.withThaws_self {s : State} {v : List (Nat × Nat × Nat × Bool)} (h : s.thaws = v) : s.withThaws v = s := by
  subst h
  rfl

theorem State.withHeldCmds_self {s : State} {v : List Held} (h : s.heldCmds = v) : s.withHeldCmds v = s := by
  subst h
  rfl

/-! ## The next tick, and its place in the frame (R64, R65) -/

/-- The clock at `n` ns, the boundary of a tick. -/
def State.clockAt (s : State) (n : Nat) : State :=
  (s.setNowNs n).setTime { (s.setNowNs n).time with tick := (s.setNowNs n).tickNow, cut := false }

/-- The place of the tick in its frame is shown. -/
def State.showFrame (s : State) : State :=
  (s.put F.TIME_FRAME.sfn (s.sfnOf s.time.tick)).put F.TIME_FRAME.tick_in_frame (s.tickInFrame s.time.tick)

theorem State.nextTick_eq (s : State) : s.nextTick = (s.clockAt (boundaryAfter s.nowNs)).showFrame := by rfl

theorem State.clockAt_regs (s : State) (n : Nat) : (s.clockAt n).regs = s.regs := rfl

theorem State.frameOff_clockAt (s : State) (n : Nat) : (s.clockAt n).frameOff = s.frameOff := by
  rw [State.frameOff, State.rd, s.clockAt_regs]
  rfl

theorem State.showFrame_sfn (s : State) : s.showFrame.rd F.TIME_FRAME.sfn = s.sfnOf s.time.tick := by
  have hlt : s.sfnOf s.time.tick < 2 ^ 10 := by
    unfold State.sfnOf
    omega
  rw [State.showFrame, State.rd_put_apart _ (by decide), State.rd_put_same]
  exact Nat.mod_eq_of_lt hlt

theorem State.showFrame_tickInFrame (s : State) : s.showFrame.rd F.TIME_FRAME.tick_in_frame = s.tickInFrame s.time.tick := by
  have hlt : s.tickInFrame s.time.tick < 2 ^ 7 := by
    unfold State.tickInFrame
    omega
  rw [State.showFrame, State.rd_put_same]
  exact Nat.mod_eq_of_lt hlt

section
variable {s : State} (h : s.Idle)
include h

/-- A register before the SRV block says nothing of what waits. -/
theorem State.Idle.put {f : Field} {i : Nat} (hf : f.key i < 8 * 0x800000) (v : Nat) : (s.put f v i).Idle := by
  have hne : ∀ (g : Field) (j : Nat), 0x800000 ≤ g.base → (s.put f v i).rd g j = s.rd g j := fun g j hg =>
    s.rd_put_ne fun e => by
      simp only [Field.key] at hf e
      omega
  exact { h with
    admEn := (hne _ _ (by decide)).trans h.admEn
    rate := fun n hn => (hne _ _ (by decide)).trans (h.rate n hn)
    burst := fun n hn => (hne _ _ (by decide)).trans (h.burst n hn) }

theorem State.Idle.not_staged (f : Field) (i : Nat) : s.isStaged f i = false := by
  rw [State.isStaged, h.staged]
  rfl

theorem State.Idle.stagedOf_nil (f : Field) (n : Nat) : s.stagedOf f n = [] :=
  List.filter_eq_nil_iff.2 fun i _ => by simp [h.not_staged]

theorem State.Idle.shaped_nil : s.shaped = [] :=
  List.filter_eq_nil_iff.2 fun n hn => by
    have hn := List.mem_range.1 hn
    simp [s.on_eq_false_of_rd (h.rate n hn), s.on_eq_false_of_rd (h.burst n hn), h.not_staged]

theorem State.Idle.gcbFailed_nil : s.gcbFailed = [] := by
  simp [State.gcbFailed, h.not_staged]

theorem State.Idle.freezeFailed_nil : s.freezeFailed = [] := by
  simp [State.freezeFailed, h.not_staged]

theorem State.Idle.commitBankPair_eq (p : Nat) : s.commitBankPair p = (s, false) := by
  simp [State.commitBankPair, h.not_staged]

theorem State.Idle.commitRegions_eq : s.commitRegions = s := by
  rw [State.commitRegions, h.slices]
  exact State.withSlices_self h.slices

theorem State.Idle.commitForced_eq : s.commitForced = s := by
  simp [State.commitForced, h.deltas]

theorem State.Idle.withNoCells (f : Nat → Cell → Cell) : s.withCells (kmapv s.cells f) = s := by
  rw [h.cells]
  exact State.withCells_self h.cells

theorem State.Idle.waitUnlocks_eq : s.waitUnlocks = s := h.withNoCells _

theorem State.Idle.frameEdge_eq : s.frameEdge = s := by
  have hstop : s.cells.filter (fun c => c.2.stopped) = [] := by simp [h.cells]
  simp only [State.frameEdge, h.withNoCells, hstop, List.foldl_nil, h.waitUnlocks_eq]
  exact ite_self s

theorem State.Idle.applyThaws_eq : s.applyThaws = s := by
  rw [State.applyThaws, h.thaws, State.withThaws_self h.thaws]
  simp [h.slices]

theorem State.Idle.readSlots_eq (t : Int) : s.readSlots t = s := h.withNoCells _

theorem State.Idle.drainRings_eq : s.drainRings = s := by
  simp [State.drainRings, h.rings]

theorem State.Idle.admission_eq : s.admission = s := by
  simp [State.admission, s.on_eq_false_of_rd h.admEn]

theorem State.Idle.not_timerDue (n : Nat) : s.timerDue n = false := by
  simp [State.timerDue, h.armed, bit]

theorem State.Idle.fireAll_eq : s.fireAll = s := by
  have hnone : (span 0 16).filter s.timerDue = [] := List.filter_eq_nil_iff.2 fun n _ => by simp [h.not_timerDue]
  rw [State.fireAll, hnone]
  rfl

theorem State.Idle.tickCounts_eq : ∃ m, s.tickCounts = s.withMgt m := by
  simp [State.tickCounts, h.procs]

theorem State.Idle.runHeld_eq (owner i : Nat) : s.runHeld owner i = s := by
  rw [State.runHeld, h.heldCmds]
  exact State.withHeldCmds_self h.heldCmds

theorem State.Idle.withMgt (m : MgtState) : (s.withMgt m).Idle := { h with }

theorem State.Idle.withCoord (c : Option Nat) : (s.withCoord c).Idle := { h with }

/-- Leadership may pass, and no command waits for it. -/
theorem State.Idle.passLead_eq : ∃ c, s.passLead = s.withCoord c := by
  unfold State.passLead
  split
  · exact ⟨s.coord, rfl⟩
  next p _ =>
    split
    · exact ⟨s.coord, rfl⟩
    · exact ⟨some p, by simp only [(h.withCoord (some p)).runHeld_eq, ite_self]⟩

theorem State.Idle.showAllStaged : ((span 0 8).foldl State.showStaged s).Idle :=
  List.foldlRecOn (motive := State.Idle) _ _ h fun u hu p hp => hu.put (by
    have := (mem_span.1 hp).2
    simp [Field.key, F.TICK_STAT.stage_pending]
    omega) _

/-- At the commit instant the partitions show that nothing is staged. -/
theorem State.Idle.commitInstant_eq : s.commitInstant = (span 0 8).foldl State.showStaged s := by
  have hu := h.showAllStaged
  unfold State.commitInstant
  simp only [List.foldl_nil, h.stagedOf_nil, h.commitBankPair_eq, List.foldl_fixed', List.nil_append, List.dedup_nil,
    h.gcbFailed_nil, h.freezeFailed_nil, h.shaped_nil, hu.deltas, List.map_nil, hu.commitForced_eq, hu.commitRegions_eq, hu.withNoCells,
    Bool.false_eq_true, if_false, implies_true]

/-! ## The parts of the edge in turn -/

theorem State.Idle.withTime {c : TimeState} (hc : c.armed = 0) : (s.withTime c).Idle := { h with armed := hc }

theorem State.Idle.clockAt (n : Nat) : (s.clockAt n).Idle := (h.withTime h.armed).withTime h.armed

theorem State.Idle.showFrame : s.showFrame.Idle := (h.put (by decide) _).put (by decide) _

theorem State.Idle.nextTick : s.nextTick.Idle := by
  rw [s.nextTick_eq]
  exact (h.clockAt _).showFrame

/-- What an edge leaves of an idle device: the clock has moved, and the partitions show that nothing is staged. -/
theorem State.Idle.tickEdge_eq (he : s.time.edges = true) (hp : ∀ p, s.seqRuns p = false) :
    ∃ m c, s.tickEdge = ((span 0 8).foldl State.showStaged (s.nextTick.withMgt m)).withCoord c := by
  have hps : (span 0 8).filter s.seqRuns = [] := List.filter_eq_nil_iff.2 fun p _ => by simp [hp]
  obtain ⟨m, hm⟩ := h.nextTick.tickCounts_eq
  have hcounts := h.nextTick.withMgt m
  have hshown := hcounts.showAllStaged
  obtain ⟨c, hc⟩ := hshown.passLead_eq
  have hlead := hshown.withCoord c
  refine ⟨m, c, ?_⟩
  unfold State.tickEdge
  simp only [he, Bool.not_true, Bool.false_eq_true, if_false, hps, List.any_nil, List.foldl_nil, hm, hcounts.commitInstant_eq,
    hshown.applyThaws_eq, hshown.frameEdge_eq, hshown.deltas, List.map_nil, hc, hlead.shaped_nil, hlead.admission_eq,
    hlead.drainRings_eq, hlead.readSlots_eq, hlead.fireAll_eq]

end

/-! ## What the edge leaves of an idle device -/

theorem State.showAllStaged_eq (s : State) (l : List Nat) : ∃ r, l.foldl State.showStaged s = s.withRegs r :=
  List.foldlRecOn (motive := fun t : State => ∃ r, t = s.withRegs r) _ _ ⟨s.regs, rfl⟩ fun t ht p _ => by
    obtain ⟨r, rfl⟩ := ht
    exact ⟨_, rfl⟩

theorem State.timeRegs_showAllStaged (s : State) (l : List Nat) : timeRegs (l.foldl State.showStaged s).regs = timeRegs s.regs :=
  timeRegs_foldl (fun t p => timeRegs_put t (by decide) _ p) l s

/-- The tick edge of an idle device (R65, R73): the frame counters follow the tick, and memory, threads, cores and sequences stay as they
are. -/
theorem tickEdge_idle {s : State} (h : s.Idle) (he : s.time.edges = true) (hp : ∀ p, s.seqRuns p = false) {n : Nat}
    (hn : (s.nowNs / 125000 + 1) * 125000 = n) {k : Int} (hk : tickOf (n / 1000000000 % 2 ^ 48) (n % 1000000000) = k) :
    ∃ t, exec .tickEdge s = .next t ∧ t.time.tick = k ∧ t.time.ns = n % 1000000000 ∧ t.time.cut = false ∧
      t.rd F.TIME_FRAME.sfn = s.sfnOf k ∧ t.rd F.TIME_FRAME.tick_in_frame = s.tickInFrame k ∧
      t.mem = s.mem ∧ t.threads = s.threads ∧ t.cores = s.cores ∧ t.seqs = s.seqs := by
  have htime := s.time_tickEdge he hn
  obtain ⟨m, c, hedge⟩ := h.tickEdge_eq he hp
  have hnext : s.nextTick = (s.clockAt n).showFrame := hn ▸ s.nextTick_eq
  have hregs : timeRegs s.tickEdge.regs = timeRegs (s.clockAt n).showFrame.regs := by
    rw [hedge, State.withCoord_regs, State.timeRegs_showAllStaged, State.withMgt_regs, hnext]
  have hrd : ∀ g : Field, g.key 0 < 8 * 0x200000 → s.tickEdge.rd g = (s.clockAt n).showFrame.rd g := fun g hg => rd_of_timeRegs hregs hg
  have hoff : (s.clockAt n).frameOff = s.frameOff := s.frameOff_clockAt n
  have htick : (s.clockAt n).time.tick = k := hk
  obtain ⟨r, hr⟩ := (s.nextTick.withMgt m).showAllStaged_eq (span 0 8)
  rw [hr, hnext] at hedge
  refine ⟨s.tickEdge, exec_tickEdge s, ?_, ?_, ?_, ?_, ?_, ?_⟩
  · rw [htime, hk]
  · rw [htime]
  · rw [htime]
  · rw [hrd _ (by decide), State.showFrame_sfn, htick, State.sfnOf, hoff]
    rfl
  · rw [hrd _ (by decide), State.showFrame_tickInFrame, htick, State.tickInFrame, hoff]
    rfl
  · rw [hedge]
    exact ⟨rfl, rfl, rfl, rfl⟩

end Sys2Proof.Machine

open Sys2Proof Sys2Proof.Machine Sys2Proof.Safety in
/-- Settles O17: an edge of an idle device finds nothing to do in each of its parts (`State.Idle.tickEdge_eq`); a step is refused,
waits or is taken as its guards say, and the lock wait's expiry starts the edges. -/
theorem tickEdgesStepsAndTheFirstEdge : Obligations.TickEdgesStepsAndTheFirstEdge := by
  unfold Obligations.TickEdgesStepsAndTheFirstEdge
  exact ⟨fun s he hp staged cells deltas slices rings procs thaws held adm rate burst armed =>
      tickEdge_idle ⟨staged, cells, deltas, slices, rings, procs, thaws, held, adm, rate, burst, armed⟩ he hp rfl rfl,
    fun s d h hc => timeStep_refused h hc,
    fun s d h hc he hcol => timeStep_waits h hc he hcol,
    fun s d h hc he h0 h1 => timeStep_steps h hc he h0 h1,
    fun s he hw hs h4 hn => lockWaitExpiry_effect he hw hs h4 rfl hn⟩

/-! SUPPORT. Cells: starts and stops (R228, R241, R243), the streams and chains of a cell, and the cells that a re-proof locks (R39). -/

namespace Sys2Proof.Machine

open Sys2Proof.Safety

variable {s t : State}

/-! ## The table of cells -/

theorem State.cell?_congr (h : t.cells = s.cells) (k : Nat) : t.cell? k = s.cell? k := congrArg (kfind · k) h

theorem State.cell?_setCell_same (s : State) (c : Nat) (x : Cell) : (s.setCell c x).cell? c = some x := kfind_kset_same _ _ _

theorem State.cell?_setCell_ne (s : State) {c k : Nat} (h : k ≠ c) (x : Cell) : (s.setCell c x).cell? k = s.cell? k :=
  kfind_kset_ne _ _ h

theorem kfind_isSome_of_mem {α : Type} {m : KMap α} {e : Nat × α} (h : e ∈ m) : (kfind m e.1).isSome := by
  induction m with
  | nil => cases h
  | cons a m ih =>
    rw [kfind]
    split
    · rfl
    · next hne => exact ih ((List.mem_cons.mp h).resolve_left fun e => hne (e ▸ rfl))

/-! ## Streams and chains (R261) -/

/-- The fields that tell the chains of a cell. -/
def streamFields : List Field := [F.FH_STREAM.valid, F.FH_STREAM.cell_id, F.FH_STREAM.split8, F.FH_STREAM.chain]

theorem State.chainsOf_congr (h : ∀ f ∈ streamFields, ∀ k, t.rd f k = s.rd f k) (c : Nat) : t.chainsOf c = s.chainsOf c := by
  simp only [streamFields, List.forall_mem_cons, List.not_mem_nil, false_implies, implies_true, and_true] at h
  obtain ⟨hvalid, hid, hsplit, hchain⟩ := h
  simp only [State.chainsOf, State.streamsOf, State.on, hvalid, hid, hsplit, hchain]

/-- The reset value of a chain's gain and its first phase are what its new state takes of the registers. -/
theorem State.chainZero_congr {d : Nat} (hg : t.rd F.DFE_AGC.agc_init d = s.rd F.DFE_AGC.agc_init d)
    (hp : t.rd F.DFE_NCO.nco_phase0 d = s.rd F.DFE_NCO.nco_phase0 d) : t.chainZero d = s.chainZero d := by
  simp only [State.chainZero, hg, hp]

/-- A chain starts afresh and shows its first gain (R262, R264). -/
def State.startChain (s : State) (d : Nat) : State :=
  (s.withChains (kset s.chains d (s.chainZero d))).put F.DFE_STAT.gain (s.rd F.DFE_AGC.agc_init d) d

theorem State.rd_startChain (s : State) (d : Nat) {g : Field} (hg : g.apart F.DFE_STAT.gain = true) (j : Nat) :
    (s.startChain d).rd g j = s.rd g j := State.rd_put_apart _ hg _ _ _

/-- Chains that start: each of them is as at its start, one that was so stays, and of the registers only the gains change. -/
theorem foldl_startChain (ds : List Nat) (s : State) :
    let t := ds.foldl State.startChain s
    t = (s.withRegs t.regs).withChains t.chains ∧ (∀ g : Field, g.apart F.DFE_STAT.gain = true → ∀ j, t.rd g j = s.rd g j) ∧
      ∀ d, d ∈ ds ∨ kfind s.chains d = some (s.chainZero d) → kfind t.chains d = some (s.chainZero d) := by
  induction ds generalizing s with
  | nil => exact ⟨rfl, fun _ _ _ => rfl, fun d hd => hd.resolve_left List.not_mem_nil⟩
  | cons a ds ih =>
    obtain ⟨hframe, hregs, hset⟩ := ih (s.startChain a)
    have hzero : ∀ d, (s.startChain a).chainZero d = s.chainZero d := fun d =>
      State.chainZero_congr (s.rd_startChain a (by decide) d) (s.rd_startChain a (by decide) d)
    refine ⟨hframe.trans rfl, fun g hg j => (hregs g hg j).trans (s.rd_startChain a hg j), fun d hd => ?_⟩
    rw [← hzero d]
    refine hset d ?_
    rw [hzero d]
    by_cases hda : d = a
    · exact .inr (hda ▸ kfind_kset_same _ _ _)
    · refine hd.imp (fun h => (List.mem_cons.mp h).resolve_left hda) fun h => ?_
      exact (kfind_kset_ne _ _ hda).trans h

/-! ## A cell starts (R228, R431) -/

theorem State.radioStarts_frame (s : State) : s.radioStarts = s.withRegs s.radioStarts.regs := by
  unfold State.radioStarts
  split <;> rfl

theorem State.rd_radioStarts (s : State) {g : Field} {j : Nat} (hstep : g.key j ≠ F.RST_STAT.step.key 0)
    (hms : g.key j ≠ F.RST_STEP_T.t_ms.key 12) : s.radioStarts.rd g j = s.rd g j := by
  unfold State.radioStarts
  split
  · exact (State.rd_put_ne _ hms).trans (State.rd_put_ne _ hstep)
  · rfl

/-- The first start of a cell ends step 12 (R431). -/
theorem State.step_radioStarts (h : s.rd F.RST_STAT.step = 11) : s.radioStarts.rd F.RST_STAT.step = 12 := by
  rw [State.radioStarts, if_pos h]
  exact (State.rd_put_ne _ (by decide)).trans (State.rd_put_same _ _ _ _)

/-- A cell as it starts, and as it leaves the air. -/
def Cell.started (x : Cell) : Cell :=
  { x with st := .active, waits := false, pend := none, harq := [], msgs := [], lostSlots := [], lostDl := [] }
def Cell.left (x : Cell) (st : CellState) : Cell := { x with st := st, waits := false, pend := none, harq := [], msgs := [] }

/-- The state in which the chains of a cell start. -/
def State.startedCell (s : State) (c : Nat) (x : Cell) : State := s.radioStarts.setCell c x.started

theorem State.startCell_eq {c : Nat} {x : Cell} (h : s.cell? c = some x) :
    s.startCell c = ((s.startedCell c x).chainsOf c).foldl State.startChain (s.startedCell c x) := by
  unfold State.startCell
  rw [h]
  rfl

theorem State.rd_startedCell (s : State) (c : Nat) (x : Cell) {g : Field} {j : Nat} (hstep : g.key j ≠ F.RST_STAT.step.key 0)
    (hms : g.key j ≠ F.RST_STEP_T.t_ms.key 12) : (s.startedCell c x).rd g j = s.rd g j := s.rd_radioStarts hstep hms

theorem State.chainsOf_startedCell (s : State) (c : Nat) (x : Cell) (k : Nat) : (s.startedCell c x).chainsOf k = s.chainsOf k := by
  have hstep : ∀ f ∈ streamFields, f.apart F.RST_STAT.step = true ∧ f.apart F.RST_STEP_T.t_ms = true := by decide
  exact State.chainsOf_congr (fun f hf j => s.rd_startedCell c x (Field.key_ne_of_apart (hstep f hf).1 _ _)
    (Field.key_ne_of_apart (hstep f hf).2 _ _)) k

/-- A chain's first gain lies apart from the time of step 12, modulo the chains' stride. -/
theorem agc_init_key_ne (d : Nat) : F.DFE_AGC.agc_init.key d ≠ F.RST_STEP_T.t_ms.key 12 := by
  have hgain : F.DFE_AGC.agc_init.key d = 8 * (0x700010 + 256 * d) + 0 := rfl
  have hms : F.RST_STEP_T.t_ms.key 12 = 8 * 0xC00160 + 0 := rfl
  omega

theorem State.chainZero_startedCell (s : State) (c : Nat) (x : Cell) (d : Nat) : (s.startedCell c x).chainZero d = s.chainZero d :=
  State.chainZero_congr (s.rd_startedCell c x (Field.key_ne_of_apart (by decide) _ _) (agc_init_key_ne d))
    (s.rd_startedCell c x (Field.key_ne_of_apart (by decide) _ _) (Field.key_ne_of_apart (by decide) _ _))

/-- A cell that starts: its record, the others, the step of start-up and its chains (R228, R262, R431). -/
theorem State.startCell_effect {c : Nat} {x : Cell} (h : s.cell? c = some x) :
    (s.startCell c).cell? c = some x.started ∧ (∀ k, k ≠ c → (s.startCell c).cell? k = s.cell? k) ∧
      (s.rd F.RST_STAT.step = 11 → (s.startCell c).rd F.RST_STAT.step = 12) ∧
      ∀ d ∈ s.chainsOf c, kfind (s.startCell c).chains d = some (s.chainZero d) := by
  obtain ⟨hframe, hregs, hset⟩ := foldl_startChain ((s.startedCell c x).chainsOf c) (s.startedCell c x)
  rw [← State.startCell_eq h] at hframe hregs hset
  have hcells : (s.startCell c).cells = (s.startedCell c x).cells := (congrArg State.cells hframe).trans rfl
  have hold : s.radioStarts.cells = s.cells := (congrArg State.cells s.radioStarts_frame).trans rfl
  refine ⟨(State.cell?_congr hcells c).trans (State.cell?_setCell_same _ _ _), fun k hk => ?_, fun h11 => ?_, fun d hd => ?_⟩
  · exact (State.cell?_congr hcells k).trans ((State.cell?_setCell_ne _ hk _).trans (State.cell?_congr hold k))
  · exact (hregs _ (by decide) 0).trans (State.step_radioStarts h11)
  · rw [← s.chainZero_startedCell c x d]
    exact hset d (.inl ((s.chainsOf_startedCell c x c).symm ▸ hd))

/-! ## A cell leaves the air (R241, R269) -/

/-- The mutes of chains are taken off, and nothing but registers changes. -/
theorem foldl_unmute (ds : List Nat) (s : State) :
    let t := ds.foldl (fun s d => s.put F.DFE_STAT.mask_mute 0 d) s
    t = s.withRegs t.regs ∧ ∀ d, d ∈ ds ∨ s.rd F.DFE_STAT.mask_mute d = 0 → t.rd F.DFE_STAT.mask_mute d = 0 := by
  induction ds generalizing s with
  | nil => exact ⟨rfl, fun d hd => hd.resolve_left List.not_mem_nil⟩
  | cons a ds ih =>
    obtain ⟨hframe, hset⟩ := ih (s.put F.DFE_STAT.mask_mute 0 a)
    refine ⟨hframe.trans rfl, fun d hd => hset d ?_⟩
    by_cases hda : d = a
    · exact .inr (hda ▸ State.rd_put_same _ _ _ _)
    · exact hd.imp (fun h => (List.mem_cons.mp h).resolve_left hda) fun h => (s.rd_put_index _ (Ne.symm hda) (by decide)).trans h

/-- A cell that leaves the air: its record, its chains' mutes, and nothing else. -/
theorem State.stopCell_effect {c : Nat} {x : Cell} (h : s.cell? c = some x) (st : CellState) :
    s.stopCell c st = (s.setCell c (x.left st)).withRegs (s.stopCell c st).regs ∧
      ∀ d ∈ s.chainsOf c, (s.stopCell c st).rd F.DFE_STAT.mask_mute d = 0 := by
  have heq : s.stopCell c st = (s.chainsOf c).foldl (fun s d => s.put F.DFE_STAT.mask_mute 0 d) (s.setCell c (x.left st)) := by
    unfold State.stopCell
    rw [h]
    rfl
  obtain ⟨hframe, hset⟩ := foldl_unmute (s.chainsOf c) (s.setCell c (x.left st))
  rw [← heq] at hframe hset
  exact ⟨hframe, fun d hd => hset d (.inl hd)⟩

/-- What a stop leaves: the other cells, memory, the rings and the partitions. -/
theorem State.stopCell_keeps {c : Nat} {x : Cell} (h : s.cell? c = some x) (st : CellState) :
    (s.stopCell c st).cell? c = some (x.left st) ∧ (∀ k, k ≠ c → (s.stopCell c st).cell? k = s.cell? k) ∧
      (s.stopCell c st).mem = s.mem ∧ (s.stopCell c st).rings = s.rings := by
  obtain ⟨hframe, -⟩ := s.stopCell_effect h st
  have hcells : (s.stopCell c st).cells = (s.setCell c (x.left st)).cells := (congrArg State.cells hframe).trans rfl
  exact ⟨(State.cell?_congr hcells c).trans (s.cell?_setCell_same c _),
    fun k hk => (State.cell?_congr hcells k).trans (s.cell?_setCell_ne hk _), (congrArg State.mem hframe).trans rfl,
    (congrArg State.rings hframe).trans rfl⟩

/-! ## Cells that a re-proof locks (R39, R243) -/

theorem State.event_cells_mem (s : State) (cls sev k data src : Nat) :
    (s.event cls sev k data src).cells = s.cells ∧ (s.event cls sev k data src).mem = s.mem := by
  rw [(event_only s cls sev k data src).1]
  exact ⟨rfl, rfl⟩

theorem State.finishCell_cells_mem (s : State) (tok status : Nat) :
    (s.finishCell tok status).cells = s.cells ∧ (s.finishCell tok status).mem = s.mem := by
  have hhost : HostOnly s (s.finishCell tok status) := (HostOnly.refl s).finish ringNo_ctl _ _ _ _ _ _
  exact ⟨hhost.keeps State.cells fun _ => rfl, hhost.keeps State.mem fun _ => rfl⟩

/-- A cell that is locked by a re-proof stops, and neither the event nor the completion of its lock touches cells or memory. -/
theorem State.autoLock_cells_mem (s : State) (c : Nat) :
    (s.autoLock c).cells = (s.stopCell c .autoLocked).cells ∧ (s.autoLock c).mem = (s.stopCell c .autoLocked).mem := by
  unfold State.autoLock
  dsimp only
  generalize pc (((s.cell? c).map (·.part)).getD 0) = src
  have hevent := (s.stopCell c .autoLocked).event_cells_mem 2 1 Ev.spareLoss c src
  cases (s.cell? c).bind (·.pend) with
  | none => exact hevent
  | some d =>
    have hfinish := ((s.stopCell c .autoLocked).event 2 1 Ev.spareLoss c src).finishCell_cells_mem d.token St.ok
    exact ⟨hfinish.1.trans hevent.1, hfinish.2.trans hevent.2⟩

/-- A cell that is there is AUTO_LOCKED; every other cell, and memory, stay. -/
theorem State.autoLock_effect {c : Nat} (h : (s.cell? c).isSome) :
    ((s.autoLock c).cell? c).map (·.st) = some .autoLocked ∧ (∀ k, k ≠ c → (s.autoLock c).cell? k = s.cell? k) ∧
      (s.autoLock c).mem = s.mem := by
  obtain ⟨x, hx⟩ := Option.isSome_iff_exists.mp h
  obtain ⟨hcells, hmem⟩ := s.autoLock_cells_mem c
  obtain ⟨hself, hother, hstop, -⟩ := s.stopCell_keeps hx .autoLocked
  refine ⟨?_, fun k hk => (State.cell?_congr hcells k).trans (hother k hk), hmem.trans hstop⟩
  rw [State.cell?_congr hcells c, hself]
  rfl

/-- Locking cells that are there: each of them is AUTO_LOCKED, one that was so stays, and every other cell, and memory, stay. -/
theorem foldl_autoLock (cs : List Nat) (s : State) (h : ∀ c ∈ cs, (s.cell? c).isSome) :
    let t := cs.foldl State.autoLock s
    (∀ c, c ∈ cs ∨ (s.cell? c).map (·.st) = some .autoLocked → (t.cell? c).map (·.st) = some .autoLocked) ∧
      (∀ c, c ∉ cs → t.cell? c = s.cell? c) ∧ t.mem = s.mem := by
  induction cs generalizing s with
  | nil => exact ⟨fun c hc => hc.resolve_left List.not_mem_nil, fun _ _ => rfl, rfl⟩
  | cons a cs ih =>
    obtain ⟨hself, hother, hmem⟩ := State.autoLock_effect (h a List.mem_cons_self)
    have hthere : ∀ c ∈ cs, ((s.autoLock a).cell? c).isSome := fun c hc => by
      by_cases hca : c = a
      · subst hca
        exact Option.isSome_map.symm.trans (congrArg Option.isSome hself)
      · rw [hother c hca]
        exact h c (List.mem_cons_of_mem a hc)
    obtain ⟨hlocked, hstay, hmem'⟩ := ih (s.autoLock a) hthere
    refine ⟨fun c hc => hlocked c ?_, fun c hc => ?_, hmem'.trans hmem⟩
    · by_cases hca : c = a
      · exact .inr (hca ▸ hself)
      · refine hc.imp (fun h => (List.mem_cons.mp h).resolve_left hca) fun h => ?_
        rwa [hother c hca]
    · exact (hstay c fun hm => hc (List.mem_cons_of_mem a hm)).trans (hother c fun e => hc (e ▸ List.mem_cons_self))

theorem mem_insertBy {α : Type} {key : α → Int} {x y : α} {l : List α} (h : y ∈ insertBy key x l) : y = x ∨ y ∈ l := by
  induction l with
  | nil => simpa [insertBy] using h
  | cons z l ih =>
    unfold insertBy at h
    split at h
    · exact List.mem_cons.mp h
    · rcases List.mem_cons.mp h with rfl | h
      · exact .inr List.mem_cons_self
      · exact (ih h).imp_right (List.mem_cons_of_mem z)

theorem mem_of_mem_sortBy {α : Type} {key : α → Int} {y : α} {l : List α} (h : y ∈ sortBy key l) : y ∈ l := by
  have hacc : ∀ (l acc : List α), y ∈ l.foldl (fun acc x => insertBy key x acc) acc → y ∈ acc ∨ y ∈ l := fun l => by
    induction l with
    | nil => exact fun _ h => .inl h
    | cons x l ih =>
      intro acc h
      rcases ih _ h with h | h
      · rcases mem_insertBy h with rfl | h
        · exact .inr List.mem_cons_self
        · exact .inl h
      · exact .inr (List.mem_cons_of_mem x h)
  exact (hacc l [] h).resolve_left List.not_mem_nil

/-- A re-proof locks cells of the table. -/
theorem State.victims_isSome {p c : Nat} (h : c ∈ s.victims p) : (s.cell? c).isSome := by
  obtain ⟨e, he, rfl⟩ := List.mem_map.mp (mem_of_mem_sortBy h)
  exact kfind_isSome_of_mem (List.mem_of_mem_filter (List.mem_of_mem_filter he))

/-- A re-proof locks the first cells of its order. -/
theorem State.firstFit_take (s : State) (p : Nat) (tries : List BankImage) : ∃ j, (s.firstFit p tries).1 = (s.victims p).take j := by
  unfold State.firstFit
  dsimp only
  split
  · next j _ => exact ⟨j, rfl⟩
  · exact ⟨(s.victims p).length, (List.take_length).symm⟩

theorem State.isSome_of_firstFit {p c : Nat} {tries : List BankImage} (h : c ∈ (s.firstFit p tries).1) : (s.cell? c).isSome := by
  obtain ⟨j, hj⟩ := s.firstFit_take p tries
  exact State.victims_isSome (List.mem_of_mem_take (hj ▸ h))

/-! ## The commands -/

section
variable {c : Fin 4096} {x : Cell} (hx : s.cell? c = some x)
include hx

theorem exec_cellStart (hst : x.st = .unlockPending) (hw : x.waits = true) (hp : x.pend = none) (hr : s.ready = true)
    (hf : s.atFrame = true) (ho : s.startOk = true) : exec (.cellStart c) s = .next (s.startCell c) := by
  show execCellStart c s = _
  rw [execCellStart, hx]
  exact congrArg _ (if_pos ⟨hst, hw, hp, hr, hf, ho⟩)

theorem exec_cellStart_waits (h : s.startOk = false ∨ s.atFrame = false ∨ s.ready = false) : exec (.cellStart c) s = .next s := by
  show execCellStart c s = _
  rw [execCellStart, hx]
  refine congrArg _ (if_neg ?_)
  rintro ⟨-, -, -, hr, hf, ho⟩
  simp [hr, hf, ho] at h

variable {p : Fin 8} {d : CellPend} (hd : x.pend = some d) (hpart : x.part = p.val) (ha : (s.partOf p).await = true)
  (hre : (s.partOf p).reproof = false)
include hd hpart ha hre

theorem exec_cellLockEffect (hdue : s.lockDue x = true) : exec (.cellLockEffect p c) s =
    .next (((((s.stopCell c .locked).finish ctlRing d.token 0x49 St.ok).writeRebuilt p []).commitBank p).fxDone p) := by
  show execCellLockEffect p c s = _
  rw [execCellLockEffect, hx]
  dsimp only
  rw [hd]
  exact congrArg _ (if_pos (by simp [hpart, ha, hre, hdue]))

/-- The bank that an unlock brings is of its partition, has a table, serves cells of the partition that are on and the one that unlocks, and
passes the proof of fit (R85, R242). -/
def State.unlockFits (s : State) (p : Fin 8) (c : Nat) (bank : BankImage) : Bool :=
  bank.part == p && lenOk bank.columns.length && (imgCells bank).all (fun k =>
    k == c || (s.cell? k).any fun y => State.cellOn y && y.part == p) && (s.proof bank (s.otherEnergy p)).isNone

theorem exec_cellUnlockEffect (hdue : s.unlockDue x = true) (hl : (s.cellsOf p).any (fun y => s.lockDue y.2) = false)
    (hu : (s.cellsOf p).any (fun y => s.unlockDue y.2 && y.1 < c.val) = false) (bank : BankImage) :
    exec (.cellUnlockEffect p c bank) s = .next (if s.unlockFits p c bank
      then ((((s.startCell c).finish ctlRing d.token 0x49 St.ok).writeBank bank true).commitBank p).fxDone p
      else ((s.setCell c { x with st := .locked, waits := false, pend := none }).finish ctlRing d.token 0x49 St.cellUnfit).fxDone p) := by
  show execCellUnlockEffect p c bank s = _
  rw [execCellUnlockEffect, hx]
  dsimp only
  rw [hd]
  exact congrArg _ (if_pos (by simp [hpart, ha, hre, hdue, hl, hu]))

end

/-- The cells of the re-proof have been locked, and it is no longer asked for. -/
def State.reproved (s : State) (p : Nat) (cs : List Nat) : State :=
  (cs.foldl State.autoLock s).setPart p { (cs.foldl State.autoLock s).partOf p with reproof := false }

theorem exec_spareLossReproof {p : Fin 8} (ha : (s.partOf p).await = true) (hr : (s.partOf p).reproof = true) (first : BankImage)
    (more : List BankImage) : exec (.spareLossReproof p first more) s =
      .next ((((s.reproved p (s.firstFit p (first :: more)).1).writeBank (s.firstFit p (first :: more)).2 true).commitBank p).fxDone p) := by
  show execSpareLossReproof p first more s = _
  rw [execSpareLossReproof]
  exact congrArg _ (if_pos (by simp [ha, hr]))

/-- What a re-proof does to the cells that it locks, and what it leaves (R39). -/
theorem State.reproved_effect (s : State) (p : Nat) {cs : List Nat} (h : ∀ c ∈ cs, (s.cell? c).isSome) :
    (∀ c ∈ cs, ((s.reproved p cs).cell? c).map (·.st) = some .autoLocked) ∧
      (∀ c, c ∉ cs → (s.reproved p cs).cell? c = s.cell? c) ∧ ((s.reproved p cs).partOf p).reproof = false ∧
      (s.reproved p cs).mem = s.mem := by
  obtain ⟨hlocked, hstay, hmem⟩ := foldl_autoLock cs s h
  unfold State.reproved
  generalize cs.foldl State.autoLock s = u at *
  exact ⟨fun c hc => hlocked c (.inl hc), hstay, congrArg Part.reproof (u.partOf_setPart_same p _), hmem⟩

end Sys2Proof.Machine

open Sys2Proof Sys2Proof.Machine Sys2Proof.Safety in
/-- Settles O24: what `startCell`, `stopCell` and a fold of `autoLock` do to the table of cells, then each command by its guard. -/
theorem cellsStartLockAndUnlockAtFrames : Obligations.CellsStartLockAndUnlockAtFrames := by
  unfold Obligations.CellsStartLockAndUnlockAtFrames
  refine ⟨fun s c x hx => ⟨fun hst hw hp hr hf ho => ?_, exec_cellStart_waits hx⟩, fun s p c x d hx hd hpart ha hre hdue => ?_,
    fun s p c x d bank hx hd hpart ha hre hdue hl hu => ?_, fun s p first more ha hr => ?_⟩
  · obtain ⟨hself, hother, hstep, hchains⟩ := State.startCell_effect hx
    exact ⟨_, exec_cellStart hx hst hw hp hr hf ho, hself, hstep, hother, hchains⟩
  · obtain ⟨hself, hother, hmem, hrings⟩ := s.stopCell_keeps hx .locked
    exact ⟨_, hself, hother, hmem, hrings, (s.stopCell_effect hx .locked).2, exec_cellLockEffect hx hd hpart ha hre hdue⟩
  · have hexec := exec_cellUnlockEffect hx hd hpart ha hre hdue hl hu bank
    refine ⟨fun hfits => ?_, fun hfits => ?_⟩
    · exact ⟨_, s.cell?_setCell_same c _, rfl, fun k hk => s.cell?_setCell_ne hk _,
        hexec.trans (congrArg _ (if_neg (ne_true_of_eq_false hfits)))⟩
    · obtain ⟨hself, hother, hstep, -⟩ := State.startCell_effect hx
      exact ⟨_, hself, hother, hstep, hexec.trans (congrArg _ (if_pos hfits))⟩
  · obtain ⟨hlocked, hstay, hre, hmem⟩ := s.reproved_effect p fun _ => State.isSome_of_firstFit (tries := first :: more)
    exact ⟨s.firstFit_take p _, _, hlocked, hstay, hre, hmem, exec_spareLossReproof ha hr first more⟩

/-! SUPPORT. A seconds counter that does not fit its 48 bits (R44): a command that carries a tick cycle brings it back into range, and with it the
absolute cycle since which the command's work runs. -/

namespace Sys2Proof.Machine

open Sys2Proof.Safety

/-- Partition 0 with cluster 0 in power and its sequencer running, its seconds counter one past the last value of 48 bits. -/
def pastEpoch (col : List ColSlot) (wl : List WlItem) : State :=
  (((State.reset.put F.RST_PD_STAT.pd_on (1 + 2 ^ 8)).put F.TICK_STAT.running 1).withTime
    { TimeState.zero with sec := 2 ^ 48, edges := true }).withParts [(0, { Part.zero with col := col, wl := wl })]

/-- The absolute cycle counts the seconds beyond 48 bits, 8000 ticks of 412,500 cycles in each. -/
theorem absAt_pastEpoch (col : List ColSlot) (wl : List WlItem) (cyc : Nat) :
    (pastEpoch col wl).absAt cyc = 2 ^ 48 * 8000 * 412500 + cyc := by
  have htime : (pastEpoch col wl).time = { TimeState.zero with sec := 2 ^ 48, edges := true } := rfl
  rw [State.absAt, State.nowNs, htime]
  norm_num [TimeState.zero]

/-! ## A radio job -/

/-- A radio entry of the first Spur lane, on thread 7, whose job descriptor at address 0 is all zero. -/
def spurSlot : ColSlot :=
  { lane := 16, kind := 0, start := 6600, len := 1000, kernel := 0, desc := 0, thr := 2 ^ 7, late := false, st := .waiting }

def radioPast : State := pastEpoch [spurSlot] []

/-- The entry may start, its job passes its check and its thread is free. -/
theorem radioPast_mayStart : EntryMayStart radioPast 0 0 6600 spurSlot ∧
    radioPast.jobOk (spurOf 0 16) true (radioPast.jobWords 0) = true ∧ radioPast.threadsFree (spurOf 0 16) (2 ^ 7) = true := by
  unfold EntryMayStart
  decide +kernel

/-- The entry runs since cycle 6,600 of the first tick that the counter can tell: the clock has wrapped. -/
theorem entrySt_radioPast : entrySt (radioPast.radioStart 0 0 6600) 0 0 = some (.running 6600) := by
  decide +kernel

/-! ## An open job -/

/-- An item of the work list on the same lane and thread. -/
def spurItem : WlItem :=
  { lane := 16, kind := 1, gap := 0, after := 0, slot := 0, cl := 0, thr := 2 ^ 7, est := 0, batch := 0, desc := 0, arrays := 0,
    rows := [], aborts := 0, kat := false, st := .waiting }

def workPast : State := pastEpoch [] [spurItem]

/-- The item may start, its job passes its check and its thread is free and open. -/
theorem workPast_mayStart : ItemMayStart workPast 0 0 6600 spurItem ∧ workPast.jobOk (spurOf 0 16) false (workPast.jobWords 0) = true ∧
    workPast.threadsFree (spurOf 0 16) (2 ^ 7) = true ∧ 2 ^ 7 &&& workPast.rd F.SPR_CTRL.radio_mask (spurOf 0 16) = 0 := by
  unfold ItemMayStart
  decide +kernel

/-- The job of thread 7 runs since cycle 6,600 of the first tick that the counter can tell: the clock has wrapped. -/
theorem job_workPast : (kfind (workPast.itemStart 0 0 6600).jobs (8 * spurOf 0 16 + (threadsOf (2 ^ 7)).headD 0)).map
    (fun j => (j.radio, j.mask, j.part, j.item, j.since)) = some (false, 2 ^ 7, 0, 0, 6600) := by
  decide +kernel

end Sys2Proof.Machine

open Sys2Proof Sys2Proof.Machine Sys2Proof.Safety in
/-- Refutes O18: the statement takes every state, also one whose seconds counter holds 2^48, which R44's 48 bits do not (a hypothesis
`s.time.sec < 2 ^ 48` would exclude it). There RADIO_WINDOW_START sets the clock to its cycle, which wraps the counter to 0 (log 5), and the
entry runs since a cycle of the wrapped clock, not since `s.absAt cyc`. -/
theorem not_bankWritesAndRadioWindows : ¬ Obligations.BankWritesAndRadioWindows := by
  unfold Obligations.BankWritesAndRadioWindows
  rintro ⟨-, hstart, -⟩
  obtain ⟨hmay, hjob, hfree⟩ := radioPast_mayStart
  obtain ⟨-, hinTick⟩ := hstart radioPast 0 0 6600 spurSlot hmay
  obtain ⟨-, hspur, -⟩ := hinTick (by decide)
  obtain ⟨t, ht, hst, -⟩ := hspur rfl hjob hfree
  have hexec : exec (.radioWindowStart 0 0 6600) radioPast = .next (radioPast.radioStart 0 0 6600) := rfl
  obtain rfl := Host.Outcome.next.inj (hexec.symm.trans ht)
  have hsince : some (EntryState.running 6600) = some (.running (radioPast.absAt 6600)) := entrySt_radioPast.symm.trans hst
  rw [radioPast, absAt_pastEpoch] at hsince
  exact absurd hsince (by decide)

open Sys2Proof Sys2Proof.Machine Sys2Proof.Safety in
/-- Refutes O19: the statement takes every state, also one whose seconds counter holds 2^48, which R44's 48 bits do not (a hypothesis
`s.time.sec < 2 ^ 48` would exclude it). There LANE_ITEM_START sets the clock to its cycle, which wraps the counter to 0 (log 5), and the
job runs since a cycle of the wrapped clock, not since `s.absAt cyc`. -/
theorem not_workItemsTilesAndTransfers : ¬ Obligations.WorkItemsTilesAndTransfers := by
  unfold Obligations.WorkItemsTilesAndTransfers
  rintro ⟨hstart, -⟩
  obtain ⟨hmay, hok, hfree, hopen⟩ := workPast_mayStart
  obtain ⟨-, -, -, hjob, -⟩ := hstart workPast 0 0 6600 spurItem hmay
  obtain ⟨t, ht, -, hrec, -⟩ := hjob rfl rfl hok hfree hopen
  have hexec : exec (.laneItemStart 0 0 6600) workPast = .next (workPast.itemStart 0 0 6600) := rfl
  obtain rfl := Host.Outcome.next.inj (hexec.symm.trans ht)
  have hsince : some (false, 2 ^ 7, 0, 0, 6600) = some (false, 2 ^ 7, 0, 0, workPast.absAt 6600) := job_workPast.symm.trans hrec
  rw [workPast, absAt_pastEpoch] at hsince
  exact absurd hsince (by decide)
